-- ==== Sys2Proof/Word.lean ====
section
/-! DEFINITION. The word types of the module and the exact fractions in which the tick generator's periods are held. -/
namespace Sys2Proof

/-- A register word (R10: every register is 32 bits). -/
abbrev Word := BitVec 32

/-- A byte of the module address map. -/
abbrev Byte := BitVec 8

/-- A 16-bit engine lane or a 16-bit sample. -/
abbrev Half := BitVec 16

/-- A 64-bit engine instruction word (R157). -/
abbrev DWord := BitVec 64

/-- An exact non-negative fraction; a denominator of 0 stands for "no value yet". -/
structure Frac where
  num : Nat
  den : Nat
  deriving DecidableEq, Repr

/-- A sparse table: pairs of a key and a value, keys strictly rising, no pair whose value is the key's default. -/
abbrev SMap (α : Type) := List (Nat × α)

end Sys2Proof
end

