-- ==== Sys2Proof/Syntax.lean ====
section
/-! DEFINITION. The commands of the module: one constructor per row of the table of operations and events, with the row's
operands. Times `t` are in timer clocks of 5 ns. A unit number is bounded by its type. -/
namespace Sys2Proof

/-- What a receiver sees of a packet whatever its data type (R287–R290): the port and virtual channel, SEQ, LEN in bytes,
the CRC-32 of its EOP block, the types of the control blocks that came before its data blocks were complete, and the type of the first
block behind them that is not in-band (0: a data block), and which of its data blocks, from 0, had an invalid sync header (R275). -/
structure Pkt where
  port : Fin 3
  vc : Fin 16
  seq : BitVec 16
  len : Nat
  crc : BitVec 32
  ctrl : List (BitVec 8)
  after : BitVec 8
  lost : List Nat := []
  deriving DecidableEq, Repr

/-- What a lock detector sees of a PLL (R115): n consecutive reference cycles, and a bound on their error in ps. -/
structure LockSeen where
  pll : Fin 6
  n : Nat
  err : Nat
  deriving DecidableEq, Repr

/-- How replay ends (R267): at the journal's end, at a torn record, or in a failure of the medium. -/
inductive ReplayEnd where
  | whole
  | torn
  | medium
  deriving DecidableEq, Repr

/-- How the programming of a STORE goes (R258, R269, Table 11-4): the spare blocks that it leaves, in percent, and whether it fails with none
left. -/
structure Programmed where
  spare : BitVec 7
  fails : Bool
  deriving DecidableEq, Repr

/-- Sync headers that a lane receives, oldest first (R275). -/
structure LaneHeaders where
  lane : Fin 8
  heads : List (BitVec 2)
  deriving DecidableEq, Repr

/-- A stripe of ALIGN blocks as it is received (R276): the lanes on which a block of it has come, each with its arrival in block times. -/
structure StripeSeen where
  lanes : List (Fin 8 × Nat)
  deriving DecidableEq, Repr

/-- Pattern bits that a lane receives, oldest first (R285). -/
structure LaneBits where
  lane : Fin 8
  bits : List Bool
  deriving DecidableEq, Repr

/-- What a packet carries: its data type and payload (R287). -/
structure Content where
  dt : Byte
  payload : List Byte
  deriving DecidableEq, Repr

/-- The first of two calibrations of a converter (R321): its total offset (1/256 LSB), total gain (ppm) and weights (1/16 LSB). -/
structure FirstRun where
  ofs : Int
  gain : Int
  weights : List Int
  deriving DecidableEq, Repr

/-- The saturated samples of the worst phase of a run, and that phase's samples (R324). -/
structure SatSeen where
  sat : Nat
  samples : Nat
  deriving DecidableEq, Repr

/-- The means of a column position and tap in 1/1,024 LSB, after a hold of 0.2 ms and after one of 20 ms (R325). -/
structure HoldSeen where
  short : Int
  long : Int
  deriving DecidableEq, Repr

/-- A bank's dark samples behind step 3 of Table 3-3 (R325): their sum in 1/16 LSB, and how many. -/
structure LevelSeen where
  sum : Int
  count : Nat
  deriving DecidableEq, Repr

/-- A storage-node pattern as measured (R325): one entry, and the entries that differ, by 2·position + tap. -/
structure PatternSeen where
  all : HoldSeen
  cols : List (Nat × HoldSeen)
  deriving DecidableEq, Repr

/-- What the phases of a WHITE run showed (R326): saturation, owned columns whose mean moved between the halves of a phase, 100 ms
without a tick edge. -/
structure PhasesSeen where
  sat : SatSeen
  unstable : Nat
  noTick : Bool
  deriving DecidableEq, Repr

/-- The commands. -/
inductive Instr where
  /-- `ENC_EDGE` (R79): An accepted edge on ENC_A or ENC_B counts the counters in their modes and drives the fractional divider. Operands: the accepted levels of ENC_A and ENC_B after the sample, and the time. -/
  | encEdge (a b : Bool) (t : Nat)
  /-- `Z_EDGE` (R82): A rising edge of the accepted ENC_Z, gated by ZGATE, clears and captures where it is selected. Operands: the accepted level of ENC_Z. -/
  | zEdge (level : Bool) (t : Nat)
  /-- `ENC_FAULT` (R81): An encoder input stays below 200 mV for 1 us, so its FAULT bit is set and no edge is accepted. Operands: input 0 A, 1 B, 2 Z. -/
  | encFault (i : Fin 3) (t : Nat)
  /-- `ENC_FAULT_CLEAR` (R81): An encoder input fault clears, the filter restarts, and a changed level is taken as an accepted edge. Operands: the inputs whose faults end in this timer clock (bits 0-2 A, B, Z), and the levels found there. -/
  | encFaultClear (ins levels : BitVec 3) (t : Nat)
  /-- `TRIG_EDGE` (R83): An edge on TRIG_INi is accepted after its filter and acts as event, clear, capture, mark or trigger. Operands: the accepted level of TRIG_INi. -/
  | trigEdge (i : Fin 4) (energised : Bool) (t : Nat)
  /-- `PREDICTED_TICK` (R95): The predicted tick time is reached before the next count, so a tick is derived. -/
  | predictedTick
  /-- `TIMER_TICK` (R98): In the TIMER source a tick is derived each TICK_TIMER_PERIOD. -/
  | timerTick
  /-- `TRIG_RUN_TICK` (R98): In TRIG_TIMER or TRIG_ENCODER a tick of the run of TRIG_LINES ticks is derived. -/
  | trigRunTick
  /-- `TRIG_AREA_TICK` (R54): In TRIG_AREA a tick is issued EXP_TRIG_DLY after an accepted trigger edge. -/
  | trigAreaTick
  /-- `TICK_EDGE` (R100): A tick edge falls TICK_LEAD after derivation and advances the pipeline and every boundary change together. -/
  | tickEdge
  /-- `HOP_TIMEOUT` (R120): PLL_ROW has not locked within HOP_TO, so HOP_TIMEOUT is set and the row domain stays on the hold clock. -/
  | hopTimeout
  /-- `FLYWHEEL_BOUNDARY` (R176): No mark has come by P + R, so tick P + R becomes a flywheel boundary. -/
  | flywheelBoundary
  /-- `MARK_MISS` (R176): No mark comes within W ticks of a flywheel boundary, so MARK_MISS is set. -/
  | markMiss
  /-- `COMMIT_APPLY` (R414): A frozen commit or next-boundary write takes effect within 10 us when no tick boundary is due. -/
  | commitApply
  /-- `TICK_STOPPED` (R101): 12 ms pass without a tick edge, so STOPPED is set and the flush steps begin. -/
  | tickStopped
  /-- `FLUSH_STEP` (R101): A flush step advances the pipeline by one stage without exposing or carrying a TICKNO. -/
  | flushStep
  /-- `CNT_LOAD` (R85): A host write of CNTk_VAL loads the counter without counting. -/
  | cntLoad (k : Fin 8) (v : Word)
  /-- `TIMER_COUNT` (R84): A TIMER-mode counter counts once per PRESC + 1 timer clocks. -/
  | timerCount (k : Fin 8) (t : Nat)
  /-- `CC_ARM` (R89): A write of CCj_VAL arms the compare channel and tests whether the value is already passed. -/
  | ccArm (j : Fin 16) (v : Word)
  /-- `CC_FIRE` (R88): An armed compare channel fires, sets FIRE, counts and disarms. -/
  | ccFire (j : Fin 16)
  /-- `SWCAP` (R91): A write of 1 to CCj_CTRL.SWCAP makes a software capture. -/
  | swcap (j : Fin 16)
  /-- `CNT_CLR` (R107): A write of 1 to CCj_STAT.CNT_CLR clears FIRE_CNT and OVR_CNT. -/
  | cntClr (j : Fin 16)
  /-- `SHADOW_LOW_READ` (R92): A read of the low word of a 64-bit pair copies the high word into the shadow and marks it pending. Operands: the register address of the low word. -/
  | shadowLowRead (addr : Nat)
  /-- `SHADOW_HIGH_READ` (R92): A read of the high word returns the shadow or the live word, setting SEQ on a linked pair without a shadow. Operands: the register address of the high word. -/
  | shadowHighRead (addr : Nat)
  /-- `SNAPSHOT` (R93): A write of 1 to TMR_SNAP.GO copies all counters and TICKNO into the snapshot registers. -/
  | snapshot
  /-- `TICK_MON_CLR` (R106): A write of 1 to TICK_MON_CTRL.CLR resets the tick monitors' minima, maxima and bins. -/
  | tickMonClr
  /-- `TICK_SRC_WRITE` (R98): A write of TICK_SRC changes the tick source at the next boundary, or is refused while a job runs. -/
  | tickSrcWrite (v : Word)
  /-- `SLOT_START` (R87): The slot's capture/compare channel fires, so the row set leaves the drain and integrates. -/
  | slotStart (k : Fin 4)
  /-- `STROBE_ON` (R42): A slot's strobe turns on at STRB_DLY plus the trim, clipped to the slot. -/
  | strobeOn (k : Fin 4)
  /-- `STROBE_OFF` (R42): A slot's strobe turns off after STRB_W. -/
  | strobeOff (k : Fin 4)
  /-- `SLOT_END` (R38): At the slot's end the destination tap is cleared and the charge is transferred. -/
  | slotEnd (k : Fin 4)
  /-- `HELD_TRANSFER_RELEASE` (R49): Readout of the pair ends, so the held clear and transfer are made. -/
  | heldTransferRelease (k : Fin 4)
  /-- `TRANSFER_DONE` (R38): The 200 ns transfer completes, the tap holds the line and the row set is drained. -/
  | transferDone (k : Fin 4)
  /-- `EXP_BANK_CHECK` (R48): After a write to a bank's slot registers the slot set is checked and the caps are recomputed within 1 us. -/
  | expBankCheck (bank : Fin 2)
  /-- `EXP_MODE_WRITE` (R52): A write of EXP_MODE changes the mode at the next boundary, or is refused. -/
  | expModeWrite (v : Word)
  /-- `ROW_SAMPLE` (R61): A bank's column amplifiers sample a row onto a free hold capacitor in one row phase. Operands: converter bank 0 N0, 1 N1, 2 S0, 3 S1. -/
  | rowSample (b : Fin 4)
  /-- `ROW_CONVERSION_DONE` (R65): A row's conversion ends, is corrected and is delivered to the stackers. Operands: the 14 decisions that the converters deliver, bit i decision i (step 1 of Table 3-3): one value for every position that is not listed, and the listed dark column and active column positions. -/
  | rowConversionDone (b : Fin 4) (rest : Nat) (dark cols : List (Nat × Nat))
  /-- `INTAKE_PUSH` (R136): The stacker pushes a completed stacked line into the intake queue. -/
  | intakePush (sh : Fin 192)
  /-- `WEB_DIR_WRITE` (R77): A write of RDO_CTRL sets WEB_DIR at the next boundary, or is refused while a job runs. -/
  | webDirWrite (v : Word)
  /-- `PLL_START` (R116): Setting a PLL's EN selects its band entry and starts the VCO, or sets NO_BAND. -/
  | pllStart (i : Fin 6) (v : Word)
  /-- `PLL_LOCK` (R115): N consecutive cycles within W declare lock and open the output gate. Operands: n consecutive cycles with an error of at most err ps. -/
  | pllLock (m : LockSeen)
  /-- `LOCK_LOST` (R115): 4 consecutive cycles outside W lose lock and set LOCK_LOST. Operands: n consecutive cycles with an error of at least err ps. -/
  | lockLost (m : LockSeen)
  /-- `RELOAD` (R112): A write of 1 to CLK_CTRL.RELOAD reloads the band tables of disabled PLLs from fuses. -/
  | reload
  /-- `PROOF_LINE_FETCH` (R138): The proof-fetch unit places a proof line in the Shingle's proof queue. Operands: the read latency in ns, for the SYS monitors. -/
  | proofLineFetch (sh : Fin 192) (lat : Nat)
  /-- `INIT_ENTRY` (R146): Before the first line of a bank, or after a release, the engine enters the bank's INIT entry. -/
  | initEntry (sh : Fin 192) (t : Nat)
  /-- `KERNEL_ENTRY` (R137): With its entry conditions met, the engine writes the descriptor, sets the registers and enters the kernel for a line. -/
  | kernelEntry (sh : Fin 192) (t : Nat)
  /-- `WATCHDOG_ABORT` (R141): An invocation still runs at the WDOG-th tick edge, so it is aborted and its line is reported OVERRUN. -/
  | watchdogAbort (sh : Fin 192)
  /-- `ENGINE_RESTART` (R143): A write of 1 to SH_CTRL.RESTART releases a faulted engine. -/
  | engineRestart (sh : Fin 192)
  /-- `ENGINE_HALT` (R136): A write of SH_CTRL.HALT stops the engine from entering new lines. -/
  | engineHalt (sh : Fin 192) (v : Word)
  /-- `SH_MON_CLR` (R151): A write of 1 to SH_CTRL.MON_CLR clears both engine monitors. -/
  | shMonClr (sh : Fin 192)
  /-- `COURSE_PWR_WRITE` (R149): A write of ENGG_CTRL.COURSE_PWR powers courses on or off, or is refused for protected courses. -/
  | coursePwrWrite (v : Word)
  /-- `COURSE_ON` (R149): A powered course has started its clocks and cleared its trays, so COURSE_ON is set. -/
  | courseOn (c : Fin 12)
  /-- `SNOP` (R163): A scalar no-operation. -/
  | snop (sh : Fin 192) (d a : BitVec 5) (imm : BitVec 16) (vec : Word)
  /-- `ADD` (R163): Scalar register addition. -/
  | add (sh : Fin 192) (d a b : BitVec 5) (rsv : BitVec 11) (vec : Word)
  /-- `SUB` (R163): Scalar register subtraction. -/
  | sub (sh : Fin 192) (d a b : BitVec 5) (rsv : BitVec 11) (vec : Word)
  /-- `AND` (R163): Scalar bitwise AND. -/
  | and (sh : Fin 192) (d a b : BitVec 5) (rsv : BitVec 11) (vec : Word)
  /-- `OR` (R163): Scalar bitwise OR. -/
  | or (sh : Fin 192) (d a b : BitVec 5) (rsv : BitVec 11) (vec : Word)
  /-- `XOR` (R163): Scalar bitwise XOR. -/
  | xor (sh : Fin 192) (d a b : BitVec 5) (rsv : BitVec 11) (vec : Word)
  /-- `SHL` (R163): Scalar left shift by register. -/
  | shl (sh : Fin 192) (d a b : BitVec 5) (rsv : BitVec 11) (vec : Word)
  /-- `SHR` (R163): Scalar logical right shift by register. -/
  | shr (sh : Fin 192) (d a b : BitVec 5) (rsv : BitVec 11) (vec : Word)
  /-- `SRA` (R163): Scalar arithmetic right shift by register. -/
  | sra (sh : Fin 192) (d a b : BitVec 5) (rsv : BitVec 11) (vec : Word)
  /-- `MUL` (R163): Scalar multiplication giving the low 32 bits. -/
  | mul (sh : Fin 192) (d a b : BitVec 5) (rsv : BitVec 11) (vec : Word)
  /-- `MIN` (R163): Scalar signed minimum. -/
  | min (sh : Fin 192) (d a b : BitVec 5) (rsv : BitVec 11) (vec : Word)
  /-- `MAX` (R163): Scalar signed maximum. -/
  | max (sh : Fin 192) (d a b : BitVec 5) (rsv : BitVec 11) (vec : Word)
  /-- `ADDI` (R163): Scalar addition of a sign-extended immediate. -/
  | addi (sh : Fin 192) (d a : BitVec 5) (imm : BitVec 16) (vec : Word)
  /-- `ANDI` (R163): Scalar AND with a zero-extended immediate. -/
  | andi (sh : Fin 192) (d a : BitVec 5) (imm : BitVec 16) (vec : Word)
  /-- `ORI` (R163): Scalar OR with a zero-extended immediate. -/
  | ori (sh : Fin 192) (d a : BitVec 5) (imm : BitVec 16) (vec : Word)
  /-- `SHLI` (R163): Scalar left shift by an immediate. -/
  | shli (sh : Fin 192) (d a : BitVec 5) (imm : BitVec 16) (vec : Word)
  /-- `SHRI` (R163): Scalar logical right shift by an immediate. -/
  | shri (sh : Fin 192) (d a : BitVec 5) (imm : BitVec 16) (vec : Word)
  /-- `SRAI` (R163): Scalar arithmetic right shift by an immediate. -/
  | srai (sh : Fin 192) (d a : BitVec 5) (imm : BitVec 16) (vec : Word)
  /-- `LUI` (R163): Load an immediate into the upper 16 bits of a scalar register. -/
  | lui (sh : Fin 192) (d a : BitVec 5) (imm : BitVec 16) (vec : Word)
  /-- `LDW` (R165): Load a 32-bit tray word. -/
  | ldw (sh : Fin 192) (d a : BitVec 5) (imm : BitVec 16) (vec : Word)
  /-- `LDHU` (R165): Load a zero-extended tray half-word. -/
  | ldhu (sh : Fin 192) (d a : BitVec 5) (imm : BitVec 16) (vec : Word)
  /-- `LDBU` (R165): Load a zero-extended tray byte. -/
  | ldbu (sh : Fin 192) (d a : BitVec 5) (imm : BitVec 16) (vec : Word)
  /-- `STW` (R165): Store a 32-bit word to the tray. -/
  | stw (sh : Fin 192) (d a : BitVec 5) (imm : BitVec 16) (vec : Word)
  /-- `STH` (R165): Store a half-word to the tray. -/
  | sth (sh : Fin 192) (d a : BitVec 5) (imm : BitVec 16) (vec : Word)
  /-- `STB` (R165): Store a byte to the tray. -/
  | stb (sh : Fin 192) (d a : BitVec 5) (imm : BitVec 16) (vec : Word)
  /-- `LLW` (R165): Load a word through a loft window. -/
  | llw (sh : Fin 192) (d a : BitVec 5) (imm : BitVec 16) (vec : Word)
  /-- `LSW` (R165): Post a word store through a loft window. -/
  | lsw (sh : Fin 192) (d a : BitVec 5) (imm : BitVec 16) (vec : Word)
  /-- `BEQ` (R163): Branch if the two scalar registers are equal. -/
  | beq (sh : Fin 192) (d a : BitVec 5) (tgt : BitVec 12) (rsv : BitVec 4) (vec : Word)
  /-- `BNE` (R163): Branch if the two scalar registers are not equal. -/
  | bne (sh : Fin 192) (d a : BitVec 5) (tgt : BitVec 12) (rsv : BitVec 4) (vec : Word)
  /-- `BLT` (R163): Branch if signed less than. -/
  | blt (sh : Fin 192) (d a : BitVec 5) (tgt : BitVec 12) (rsv : BitVec 4) (vec : Word)
  /-- `BGE` (R163): Branch if signed greater or equal. -/
  | bge (sh : Fin 192) (d a : BitVec 5) (tgt : BitVec 12) (rsv : BitVec 4) (vec : Word)
  /-- `JAL` (R163): Jump and link. -/
  | jal (sh : Fin 192) (d a : BitVec 5) (tgt : BitVec 12) (rsv : BitVec 4) (vec : Word)
  /-- `JR` (R163): Jump to a register address, faulting with FETCH beyond 4,095. -/
  | jr (sh : Fin 192) (d a : BitVec 5) (imm : BitVec 16) (vec : Word)
  /-- `GETS` (R170): Read an engine status value such as CYCLES, REMAIN, OUTSTAT or LOFTPEND. -/
  | gets (sh : Fin 192) (d a : BitVec 5) (imm : BitVec 16) (vec : Word)
  /-- `EMIT` (R167): Copy a 64-byte emit block into the output entry, claiming the entry first if needed. -/
  | emit (sh : Fin 192) (d a : BitVec 5) (imm : BitVec 16) (vec : Word)
  /-- `END` (R168): End the invocation once loft writes are accepted and release the line's outputs, or end an INIT run. -/
  | endRun (sh : Fin 192) (d a : BitVec 5) (imm : BitVec 16) (vec : Word)
  /-- `VNOP` (R164): A vector no-operation. -/
  | vnop (sh : Fin 192) (vd va vb : BitVec 5) (vp : BitVec 3) (vpn bs : Bool) (k : BitVec 6) (scal : Word)
  /-- `VADD` (R164): Vector modular addition. -/
  | vadd (sh : Fin 192) (vd va vb : BitVec 5) (vp : BitVec 3) (vpn bs : Bool) (k : BitVec 6) (scal : Word)
  /-- `VSUB` (R164): Vector modular subtraction. -/
  | vsub (sh : Fin 192) (vd va vb : BitVec 5) (vp : BitVec 3) (vpn bs : Bool) (k : BitVec 6) (scal : Word)
  /-- `VADDS` (R164): Vector saturating addition. -/
  | vadds (sh : Fin 192) (vd va vb : BitVec 5) (vp : BitVec 3) (vpn bs : Bool) (k : BitVec 6) (scal : Word)
  /-- `VSUBS` (R164): Vector saturating subtraction. -/
  | vsubs (sh : Fin 192) (vd va vb : BitVec 5) (vp : BitVec 3) (vpn bs : Bool) (k : BitVec 6) (scal : Word)
  /-- `VSUBUS` (R164): Vector unsigned subtraction floored at 0. -/
  | vsubus (sh : Fin 192) (vd va vb : BitVec 5) (vp : BitVec 3) (vpn bs : Bool) (k : BitVec 6) (scal : Word)
  /-- `VABSD` (R164): Vector unsigned absolute difference. -/
  | vabsd (sh : Fin 192) (vd va vb : BitVec 5) (vp : BitVec 3) (vpn bs : Bool) (k : BitVec 6) (scal : Word)
  /-- `VMIN` (R164): Vector signed minimum. -/
  | vmin (sh : Fin 192) (vd va vb : BitVec 5) (vp : BitVec 3) (vpn bs : Bool) (k : BitVec 6) (scal : Word)
  /-- `VMAX` (R164): Vector signed maximum. -/
  | vmax (sh : Fin 192) (vd va vb : BitVec 5) (vp : BitVec 3) (vpn bs : Bool) (k : BitVec 6) (scal : Word)
  /-- `VAND` (R164): Vector bitwise AND. -/
  | vand (sh : Fin 192) (vd va vb : BitVec 5) (vp : BitVec 3) (vpn bs : Bool) (k : BitVec 6) (scal : Word)
  /-- `VOR` (R164): Vector bitwise OR. -/
  | vor (sh : Fin 192) (vd va vb : BitVec 5) (vp : BitVec 3) (vpn bs : Bool) (k : BitVec 6) (scal : Word)
  /-- `VSHL` (R164): Vector left shift by K. -/
  | vshl (sh : Fin 192) (vd va vb : BitVec 5) (vp : BitVec 3) (vpn bs : Bool) (k : BitVec 6) (scal : Word)
  /-- `VSHR` (R164): Vector logical right shift by K. -/
  | vshr (sh : Fin 192) (vd va vb : BitVec 5) (vp : BitVec 3) (vpn bs : Bool) (k : BitVec 6) (scal : Word)
  /-- `VSRA` (R164): Vector arithmetic right shift by K. -/
  | vsra (sh : Fin 192) (vd va vb : BitVec 5) (vp : BitVec 3) (vpn bs : Bool) (k : BitVec 6) (scal : Word)
  /-- `VMULQ` (R164): Vector rounded, shifted, saturated multiplication. -/
  | vmulq (sh : Fin 192) (vd va vb : BitVec 5) (vp : BitVec 3) (vpn bs : Bool) (k : BitVec 6) (scal : Word)
  /-- `VSEL` (R164): Vector select by predicate. -/
  | vsel (sh : Fin 192) (vd va vb : BitVec 5) (vp : BitVec 3) (vpn bs : Bool) (k : BitVec 6) (scal : Word)
  /-- `VIOTA` (R164): Write each lane's index. -/
  | viota (sh : Fin 192) (vd va vb : BitVec 5) (vp : BitVec 3) (vpn bs : Bool) (k : BitVec 6) (scal : Word)
  /-- `VLSH` (R162): Shift lanes with clamping at lanes 0 and 143. -/
  | vlsh (sh : Fin 192) (vd va vb : BitVec 5) (vp : BitVec 3) (vpn bs : Bool) (k : BitVec 6) (scal : Word)
  /-- `VLERP` (R164): Interpolate between neighbouring lanes by a fraction. -/
  | vlerp (sh : Fin 192) (vd va vb : BitVec 5) (vp : BitVec 3) (vpn bs : Bool) (k : BitVec 6) (scal : Word)
  /-- `VCMPEQ` (R164): Vector compare equal into a predicate. -/
  | vcmpeq (sh : Fin 192) (vd va vb : BitVec 5) (vp : BitVec 3) (vpn bs : Bool) (k : BitVec 6) (scal : Word)
  /-- `VCMPLT` (R164): Vector signed compare less-than into a predicate. -/
  | vcmplt (sh : Fin 192) (vd va vb : BitVec 5) (vp : BitVec 3) (vpn bs : Bool) (k : BitVec 6) (scal : Word)
  /-- `VCMPGT` (R164): Vector signed compare greater-than into a predicate. -/
  | vcmpgt (sh : Fin 192) (vd va vb : BitVec 5) (vp : BitVec 3) (vpn bs : Bool) (k : BitVec 6) (scal : Word)
  /-- `PAND` (R164): Predicate AND. -/
  | pand (sh : Fin 192) (vd va vb : BitVec 5) (vp : BitVec 3) (vpn bs : Bool) (k : BitVec 6) (scal : Word)
  /-- `POR` (R164): Predicate OR. -/
  | por (sh : Fin 192) (vd va vb : BitVec 5) (vp : BitVec 3) (vpn bs : Bool) (k : BitVec 6) (scal : Word)
  /-- `PANDN` (R164): Predicate AND NOT. -/
  | pandn (sh : Fin 192) (vd va vb : BitVec 5) (vp : BitVec 3) (vpn bs : Bool) (k : BitVec 6) (scal : Word)
  /-- `PCNT` (R164): Count the set predicate lanes into a scalar. -/
  | pcnt (sh : Fin 192) (vd va vb : BitVec 5) (vp : BitVec 3) (vpn bs : Bool) (k : BitVec 6) (scal : Word)
  /-- `PFIRST` (R164): Find the lowest set predicate lane. -/
  | pfirst (sh : Fin 192) (vd va vb : BitVec 5) (vp : BitVec 3) (vpn bs : Bool) (k : BitVec 6) (scal : Word)
  /-- `VMAC` (R164): Saturating multiply-accumulate into an accumulator. -/
  | vmac (sh : Fin 192) (vd va vb : BitVec 5) (vp : BitVec 3) (vpn bs : Bool) (k : BitVec 6) (scal : Word)
  /-- `VACC` (R164): Accumulate a shifted vector into an accumulator. -/
  | vacc (sh : Fin 192) (vd va vb : BitVec 5) (vp : BitVec 3) (vpn bs : Bool) (k : BitVec 6) (scal : Word)
  /-- `VACLR` (R164): Clear an accumulator. -/
  | vaclr (sh : Fin 192) (vd va vb : BitVec 5) (vp : BitVec 3) (vpn bs : Bool) (k : BitVec 6) (scal : Word)
  /-- `VACX` (R164): Extract a rounded, saturated accumulator into a vector. -/
  | vacx (sh : Fin 192) (vd va vb : BitVec 5) (vp : BitVec 3) (vpn bs : Bool) (k : BitVec 6) (scal : Word)
  /-- `VRSUM` (R164): Saturated sum over the enabled lanes into a scalar. -/
  | vrsum (sh : Fin 192) (vd va vb : BitVec 5) (vp : BitVec 3) (vpn bs : Bool) (k : BitVec 6) (scal : Word)
  /-- `VRMAX` (R164): Maximum over the enabled lanes into a scalar. -/
  | vrmax (sh : Fin 192) (vd va vb : BitVec 5) (vp : BitVec 3) (vpn bs : Bool) (k : BitVec 6) (scal : Word)
  /-- `VEXT` (R164): Extract one lane into a scalar. -/
  | vext (sh : Fin 192) (vd va vb : BitVec 5) (vp : BitVec 3) (vpn bs : Bool) (k : BitVec 6) (scal : Word)
  /-- `VLD` (R164): Load 288 tray bytes into a vector. -/
  | vld (sh : Fin 192) (vd va vb : BitVec 5) (vp : BitVec 3) (vpn bs : Bool) (k : BitVec 6) (scal : Word)
  /-- `VST` (R164): Store a vector into the tray. -/
  | vst (sh : Fin 192) (vd va vb : BitVec 5) (vp : BitVec 3) (vpn bs : Bool) (k : BitVec 6) (scal : Word)
  /-- `VLDB` (R164): Load 144 zero-extended tray bytes into a vector. -/
  | vldb (sh : Fin 192) (vd va vb : BitVec 5) (vp : BitVec 3) (vpn bs : Bool) (k : BitVec 6) (scal : Word)
  /-- `VLDL` (R165): Load 288 loft bytes into a vector. -/
  | vldl (sh : Fin 192) (vd va vb : BitVec 5) (vp : BitVec 3) (vpn bs : Bool) (k : BitVec 6) (scal : Word)
  /-- `VSTL` (R165): Post a vector store to the loft. -/
  | vstl (sh : Fin 192) (vd va vb : BitVec 5) (vp : BitVec 3) (vpn bs : Bool) (k : BitVec 6) (scal : Word)
  /-- `VIN` (R166): Read the line's stacked sample of a slot and band. -/
  | vin (sh : Fin 192) (vd va vb : BitVec 5) (vp : BitVec 3) (vpn bs : Bool) (k : BitVec 6) (scal : Word)
  /-- `VPRF` (R166): Read a proof window line of a band. -/
  | vprf (sh : Fin 192) (vd va vb : BitVec 5) (vp : BitVec 3) (vpn bs : Bool) (k : BitVec 6) (scal : Word)
  /-- `VDEV` (R167): Write the owned lanes of a band of the development block. -/
  | vdev (sh : Fin 192) (vd va vb : BitVec 5) (vp : BitVec 3) (vpn bs : Bool) (k : BitVec 6) (scal : Word)
  /-- `SLICE_MERGE` (R140): Once every mask Shingle of a course has delivered a line, the merger forms its Developer slice. -/
  | sliceMerge (c : Fin 12)
  /-- `DEV_SLICE` (R205): The Developer develops an in-line slice and updates the patches and the contact sheet. -/
  | devSlice
  /-- `DEV_SEGMENT` (R216): The Developer develops a memory segment of the context in turn. -/
  | devSegment
  /-- `RECORD_WRITE` (R191): The record writer clips, flags and filters an emit block and writes a defect record. -/
  | recordWrite
  /-- `UNINSPECTED_RECORD` (R23): An uninspected line is merged into the newest record or opens a new uninspected-line record. -/
  | uninspectedRecord
  /-- `PENDING_RECORD_WRITE` (R24): Ring 1 gains room, so the pending uninspected-line record is written. -/
  | pendingRecordWrite
  /-- `JOB_START` (R183): A write of JOB_CTRL.START arms the start of bank BANK under the checks and boundary rules. Operands: the word written to JOB_CTRL. -/
  | jobStart (v : Word)
  /-- `JOB_STOP` (R183): A write of JOB_CTRL.STOP schedules the end of the job at JOB_TREQ. -/
  | jobStop (v : Word)
  /-- `JOB_ARM` (R179): A write of JOB_CTRL.ARM checks the idle bank and arms the switch, or refuses it. -/
  | jobArm (v : Word)
  /-- `JOB_CANCEL` (R182): A write of JOB_CTRL.CANCEL disarms an armed switch. -/
  | jobCancel (v : Word)
  /-- `BANK_WRITE` (R174): A write to a banked register is ignored for an active or busy bank, or disarms an armed one. -/
  | bankWrite (addr : Nat) (v : Word)
  /-- `LEARN_FINISH` (R197): The counts reach N, or 4N repeats pass, so the learned proof is written and LEARN_DONE is set. -/
  | learnFinish
  /-- `SAT_FS` (R212): A frame-start packet opens a frame in a ring slot, or drops the whole frame. -/
  | satFs (p : Pkt) (frameno : Word) (stamp : BitVec 64) (t : Nat)
  /-- `SAT_LINE` (R212): A frame-line packet places its pixels in the open frame, with the geometry checks. -/
  | satLine (p : Pkt) (frameno : Word) (line : Half) (pixels : List Byte) (t : Nat)
  /-- `SAT_FE` (R212): A frame-end packet closes the frame with the same FRAMENO. -/
  | satFe (p : Pkt) (frameno : Word) (linesSent : Word) (t : Nat)
  /-- `SAT_FRAME_TIMEOUT` (R212): 100 ms pass with no packet of an open frame, so it closes with NO_FE. -/
  | satFrameTimeout (m : Fin 16)
  /-- `REFRESH` (R232): A DDR4 rank is refreshed every 7.8 us, or every 3.9 us at high case temperature. -/
  | refresh (ch : Fin 4) (rank : Fin 2)
  /-- `SCRUB_BURST` (R231): The scrubber reads and corrects the next DDR4 burst as background work. Operands: the bit errors that have arisen in DDR4 since the last burst: the 64-bit beats, by number, in which one bit is wrong, and those in which more are. -/
  | scrubBurst (single several : List Nat)
  /-- `ERR_ADDR_READ` (R229): A read of MEM_ERR_ADDR_LO frees the error address latch. -/
  | errAddrRead
  /-- `RING_RD_WRITE` (R236): A write of RINGr_RD frees entries, or sets RD_BAD if it lies outside RD to SENT. -/
  | ringRdWrite (r : Fin 5) (v : Word)
  /-- `RING_CFG_WRITE` (R236): A write of RINGr_BASE or SIZE resets the ring offsets, or is refused while a job runs. Operands: the register is RINGr_SIZE, not RINGr_BASE. -/
  | ringCfgWrite (r : Fin 5) (size : Bool) (v : Word)
  /-- `DMA_TAIL_WRITE` (R241): A write of CHn_TAIL posts descriptors, or sets TAIL_BAD. -/
  | dmaTailWrite (n : Fin 32) (v : Word)
  /-- `DMA_DESCRIPTOR` (R242): A channel checks and executes its next descriptor. -/
  | dmaDescriptor (n : Fin 32)
  /-- `DMA_DONE` (R247): A descriptor completes, writes DONE, advances HEAD and raises its IRQ and event. -/
  | dmaDone (n : Fin 32)
  /-- `DMA_RESUME` (R245): A write of 1 to CHn_CTRL.RESUME skips the failing descriptor and continues. -/
  | dmaResume (n : Fin 32)
  /-- `DMA_DISABLE` (R245): A write of 0 to CHn_CTRL.EN stops the channel and discards its ring. -/
  | dmaDisable (n : Fin 32)
  /-- `STREAM_SEND` (R246): A stream channel sends new ring entries on port H and advances SENT. -/
  | streamSend (n : Fin 32)
  /-- `DMA_FENCE_GO` (R248): A write of DMA_FENCE.GO starts a fence over the masked channels. -/
  | dmaFenceGo
  /-- `DMA_FENCE_DONE` (R248): Every fenced write has arrived, so PEND clears. -/
  | dmaFenceDone
  /-- `NVS_STORE` (R258): The STORE command copies an object into a new extent and commits it. Operands: the word written to NVS_CMD, and how programming the NAND goes. -/
  | nvsStore (v : Word) (prog : Programmed)
  /-- `NVS_DELETE` (R258): The DELETE command commits the removal of an object. -/
  | nvsDelete (v : Word)
  /-- `NVS_COMPACT` (R258): The COMPACT command starts a compaction. -/
  | nvsCompact (v : Word)
  /-- `NVS_EXPORT` (R258): The EXPORT command copies journal EVENT records into DDR4. -/
  | nvsExport (v : Word)
  /-- `NVS_ADOPT` (R270): The ADOPT command commits an ADOPT record and writes ADOPTED_FROM. -/
  | nvsAdopt (v : Word)
  /-- `NVS_FLUSH_RELEASE` (R258): The FLUSH_RELEASE command clears NVS_FLUSH_STAT.VALID. -/
  | nvsFlushRelease (v : Word)
  /-- `NVS_CMD_DONE` (R257): A store command ends with its RESULT, BUSY = 0 and CMD_DONE or CMD_ERR. -/
  | nvsCmdDone
  /-- `COMPACTION_START` (R263): The journal passes 75 %, so the supervisor starts a compaction. -/
  | compactionStart
  /-- `COMPACTION_DONE` (R263): Compaction commits its CHECKPOINT and writes the new TAIL. -/
  | compactionDone
  /-- `LIFE_COMMIT` (R268): A LIFE record is committed on its period, an event, a TICKNO advance or before the TICKNO_HWM. -/
  | lifeCommit (t : Nat)
  /-- `HOLDUP_FLUSH` (R265): The hold-up flush commits pending records and writes rings 1, 0 and 3 with the flush header. -/
  | holdupFlush
  /-- `FLUSH_DONE` (R265): The flush commits its FLUSH and POWER_LOSS records and ends. -/
  | flushDone
  /-- `REPLAY_DONE` (R267): Replay ends and NVS_STAT.READY is set. Operands: how replay ends. -/
  | replayDone (r : ReplayEnd)
  /-- `BLOCK_LOCK` (R275): 64 consecutive valid headers give block lock on a lane. Operands: the sync headers received. -/
  | blockLock (p : Fin 3) (h : LaneHeaders)
  /-- `LANE_LOCK_LOST` (R275): 24 of the last 256 headers are invalid, so a lane loses lock. Operands: the sync headers received. -/
  | laneLockLost (p : Fin 3) (h : LaneHeaders)
  /-- `PORT_RETRAIN` (R284): A write of 1 to RP_CTRL.RETRAIN takes the port down and retrains it. -/
  | portRetrain (p : Fin 3)
  /-- `TRAIN` (R279): A TRAIN block is received and its tap requests and acknowledges are served. Operands: the fields of the TRAIN block (Table 12-2). -/
  | trainBlk (p : Fin 3) (k : Fin 8) (reqPre : Fin 4) (reqPost : Fin 4) (reqPreset : Bool) (ackPre : Fin 4) (ackPost : Fin 4) (ackPreset : Bool) (fom : Byte) (rxDone : Bool) (offer : Byte)
  /-- `FOM_MEASURE` (R280): A lane's figure of merit is measured during training or every 1 ms while UP. -/
  | fomMeasure (p : Fin 3) (k : Fin 8) (vEye : Nat) (vPk : Nat)
  /-- `ADAPT_STEP` (R281): 20 us after an UPDATED, the receiver measures the FOM and keeps or reverses the change. -/
  | adaptStep (p : Fin 3) (k : Fin 8)
  /-- `LINK_UP` (R282): All lanes are TRAINED or FAILED, so the port goes UP with the active lane set. -/
  | linkUp (p : Fin 3)
  /-- `TRAIN_TIMEOUT` (R282): TIMEOUT passes without enough lanes, so the port switches rate or retries. -/
  | trainTimeout (p : Fin 3)
  /-- `SAFELIGHT_ENTER` (R283): A port idle for IDLE_T sends SLEEP blocks and goes to electrical idle. -/
  | safelightEnter (p : Fin 3)
  /-- `SAFELIGHT_EXIT` (R283): A WAKE burst is sent or detected and the port returns to carrying data. -/
  | safelightExit (p : Fin 3)
  /-- `WAKE_FAIL` (R283): Block lock is not regained within 2 us of a burst, so the port retrains. -/
  | wakeFail (p : Fin 3)
  /-- `LANE_TEST_MODE` (R286): A PRBS or LOOP write puts a lane into test, taking the port to TEST. -/
  | laneTestMode (p : Fin 3) (k : Fin 8) (v : Word)
  /-- `INJ_BIT` (R285): A write of 1 to INJ_BIT inverts one transmitted bit. -/
  | injBit (p : Fin 3) (k : Fin 8)
  /-- `INJ_BURST` (R285): A write of 1 to INJ_BURST inverts BURST_LEN transmitted bits. -/
  | injBurst (p : Fin 3) (k : Fin 8)
  /-- `CHK_CLR` (R285): A write of 1 to CHK_CLR clears the lane's PRBS error count. -/
  | chkClr (p : Fin 3) (k : Fin 8)
  /-- `REG_REQ` (R296): A register-access request is executed or forwarded along the chain. Operands: the payload of Table 12-4. -/
  | regReq (p : Pkt) (tag : Word) (hops : Byte) (rhops : Byte) (entry : Byte) (op : Byte) (count : Half) (addr : Word) (data : List Word)
  /-- `REG_RSP` (R296): A register-access response is routed back towards its entry port. -/
  | regRsp (p : Pkt) (tag : Word) (hops : Byte) (rhops : Byte) (entry : Byte) (status : Byte) (count : Half) (addr : Word) (data : List Word)
  /-- `BULK` (R290): A bulk-data packet is delivered to the DMA channel that takes this port and VC. -/
  | bulk (p : Pkt) (payload : List Byte)
  /-- `UNCLAIMED_PACKET` (R290): An EVENT, RECORD, CONTACT, STATS, RAW, reserved or unclaimed packet is discarded and counted. -/
  | unclaimedPacket (p : Pkt) (c : Content)
  /-- `PACKET_SEND` (R291): A whole packet is sent on a VC with enough credit, in round-robin order. -/
  | packetSend (p : Fin 3)
  /-- `CREDIT` (R292): A CREDIT block is received and adopted when two in a row agree. -/
  | creditBlk (p : Fin 3) (vc : Fin 16) (count : BitVec 24)
  /-- `CREDIT_SEND` (R292): A CREDIT block is sent for a VC every 1 us on change and every 100 us in any case. -/
  | creditSend (p : Fin 3) (vc : Fin 16)
  /-- `EVENT_SEND` (R294): A queued EVENT packet is sent on port H once it is UP. -/
  | eventSend
  /-- `TIME` (R298): A TIME block on port U steers or steps the chain time. Operands: the sender chain time, TIME_SEQ, and the arrival in this module time base. -/
  | timeBlk (ct : BitVec 48) (seq : Byte) (t : Nat)
  /-- `CTHI` (R298): A CTHI block carries the high bits of the chain time. -/
  | cthiBlk (hi : Half)
  /-- `TIME_SEND` (R298): With DOWN_EN, TIME blocks are sent every 10 us and CTHI blocks every 1 ms. -/
  | timeSend
  /-- `ECHO` (R298): An ECHO request is answered exactly 100 ns later, or an ECHO reply is timed. -/
  | echoBlk (p : Fin 3) (reply : Bool) (id : Byte) (t : Nat)
  /-- `LINK_DELAY_MEASURE` (R298): At link-up and every 100 ms, 16 ECHO requests measure D_link. -/
  | linkDelayMeasure (t : Nat)
  /-- `CT_LOCK_TIMEOUT` (R298): 100 us pass without a valid TIME block, so CT_LOCK is cleared. -/
  | ctLockTimeout
  /-- `TICK_TOKEN` (R300): A TOKEN_A and TOKEN_B pair on port U is checked, reconstructed and used to derive a tick. Operands: the two token blocks (Table 12-1); byte 7 of TOKEN_A, none where TOKEN_B does not follow directly. -/
  | tickToken (flags : Byte) (hops : Byte) (tickno : Word) (crc : Option Byte) (derCt : Word) (tpred : BitVec 24) (t : Nat)
  /-- `TOKEN_LOSS` (R304): Port U goes down or tokens stop, so token loss is declared and fallback or stop follows. -/
  | tokenLoss (t : Nat)
  /-- `TOKEN_RESTORE` (R307): 16 consecutive valid tokens restore the chain and end fallback or stop. -/
  | tokenRestore
  /-- `TNO` (R303): A TNO above the module's TICKNO advances it while no job runs. -/
  | tnoBlk (tickno : BitVec 56)
  /-- `TNO_SEND` (R303): A chained module sends its TICKNO upstream in a TNO block every 1 ms. -/
  | tnoSend
  /-- `CHAIN_MON_CLR` (R308): A write of 1 to CHAIN_CTRL.MON_CLR resets the latency monitors and LEAD_OK. -/
  | chainMonClr
  /-- `CAL_PASS_START` (R316): INTERVAL after the last pass, a new background calibration pass begins. -/
  | calPassStart
  /-- `CAL_POSITION_DONE` (R316): An offline calibration ends and its candidates are checked for plausibility. Operands: the bank and Shingle whose spare ends a calibration, and the candidate: trim codes, digital offset (1/256 LSB) and gain (ppm) coefficients, verified residuals, what the 14 weights differ by from their nominal values (1/16 LSB); and the first of two runs (R321). -/
  | calPositionDone (b : Fin 4) (sh : Fin 192) (ofsTrim gainTrim : BitVec 6) (ofsCoef gainCoef ofs gain : Int) (weights : List Int) (first : FirstRun)
  /-- `CAL_DARK` (R325): The DARK run measures the dark levels and the storage-node pattern. Operands: what the frames showed: saturation, columns whose mean moved between the halves of a phase, the excess of the active rows over the dark rows (1/16 LSB), the banks dark samples, the means behind the two holds, and those of the first of two runs (R321). -/
  | calDark (sat : SatSeen) (unstable : Nat) (light : Int) (levels : List LevelSeen) (d d1 : PatternSeen)
  /-- `CAL_WHITE` (R326): The WHITE run measures tap gains and dodge-and-burn gains against the tile. Operands: what the phases showed, the means of the taps by position, in slot, band, column order the sums of the line phase and of the verification. -/
  | calWhite (m : PhasesSeen) (tapA tapB sums verify : List Nat)
  /-- `CAL_TIMING` (R329): The TIMING run measures the strobe edges and the tick phase and sets the trims. Operands: the lateness of each edge in 10 ps; the lateness in 10 ps at the release of the drain gate and at SYNC_OUT under the tick phase in force. -/
  | calTiming (late : List Int) (gate sync : Int)
  /-- `CAL_LOAD` (R328): The LOAD command checks and applies the set at CAL_BUF. -/
  | calLoad
  /-- `CAL_APPLY` (R328): The APPLY command applies the set at CAL_BUF. -/
  | calApply
  /-- `CAL_ABORT` (R324): The ABORT operation ends a calibration run with ABORTED. -/
  | calAbort
  /-- `CAL_RUN_DONE` (R324): A calibration run ends with its result code and writes its set to CAL_BUF. -/
  | calRunDone
  /-- `DRIFT_TRACK` (R330): Every 10 ms the replica driver is measured and the trims follow the drift. -/
  | driftTrack (drift : List Int)
  /-- `BG_STARVED` (R313): A background activity makes no progress for 10 s of run time, so STARVED is set. -/
  | bgStarved (act : Fin 4)
  /-- `THERMAL_SAMPLE` (R338): A fresh value of the sites updates bands, rates, thresholds and the thermal state. Operands: the raw readings of sites 0-71 in 0.1 °C. -/
  | thermalSample (raw : List Int) (t : Nat)
  /-- `SITE_SUSPECT` (R334): A site differs from its prediction for 1 s, or is out of range, and becomes suspect. -/
  | siteSuspect (i : Fin 72)
  /-- `SITE_UNSUSPECT` (R334): A suspect site agrees with its prediction for 10 s and stops being suspect. -/
  | siteUnsuspect (i : Fin 72)
  /-- `GRACE_EXPIRE` (R338): The grace timer expires with a condition present, so ENFORCE and stage 1 are entered. -/
  | graceExpire
  /-- `THERMAL_RELEASE` (R341): After HOLD, and each ENF_STEP after it, an enforcement stage is released. -/
  | thermalRelease
  /-- `THERM_RESUME` (R343): A write of THERM_RESUME.GO leaves shutdown if every site is at RESUME, or is refused. -/
  | thermResume
  /-- `THERM_THR_WRITE` (R336): A threshold write is applied, or refused if the order of thresholds breaks. -/
  | thermThrWrite (g : Fin 12) (hi : Bool) (v : Word)
  /-- `INPUT_LOSS` (R362): Input loss is declared, so the module enters HOLD-UP on the pack or goes OFF. -/
  | inputLoss (t : Nat)
  /-- `INPUT_EXCURSION` (R348): PWR_IN leaves 18 to 32 V during qualification, so the count restarts. -/
  | inputExcursion (t : Nat)
  /-- `SOURCE_QUALIFIED` (R348): PWR_IN stays in range for 100 ms and the source is qualified. -/
  | sourceQualified (t : Nat)
  /-- `SRC_CHANGED` (R346): SRC_ID changes between samples, so SRC_CHANGED is set. Operands: the resistance of SRC_ID to PWR_RTN. -/
  | srcChanged (ohms : Nat)
  /-- `POWER_REQUEST` (R350): A write of PWR_CTRL.REQ requests RUN, IDLE or STANDBY, or is held as refused. -/
  | powerRequest (v : Word)
  /-- `POWER_TRANSITION` (R350): The conditions of a held request come to hold, so the module moves to the requested state. -/
  | powerTransition
  /-- `SUPPLEMENT` (R353): The system current exceeds the input limit, so the pack supplements and charging stops. Operands: the system current in mA. -/
  | supplement (ma t : Nat)
  /-- `OVERLOAD` (R353): Supplement brings PACK_CHARGE to RESERVE, so HOLD-UP is entered with cause OVERLOAD. Operands: the charge that the integration has reached, in mAh. -/
  | overload (mah : Half)
  /-- `DOMAIN_ON` (R352): The next power domain switches on, at least 50 us after the previous one. -/
  | domainOn (t : Nat)
  /-- `DOMAIN_REG_TIMEOUT` (R352): A domain misses its regulation window within 2 ms and is switched off again. -/
  | domainRegTimeout (d : Fin 25)
  /-- `HOLD_WAIT_EXPIRE` (R362): The WAIT phase ends without a qualified source, so the module powers off. -/
  | holdWaitExpire
  /-- `HANDBACK` (R363): At the later of flush end and qualification the input takes the load and HOLD-UP is left. -/
  | handback
  /-- `PACK_CUTOFF` (R364): The pack stays below 6.0 V for 1 ms, so the switch opens and the module goes OFF. -/
  | packCutoff
  /-- `PACK_CHECK` (R354): Every 100 ms the pack NTC is checked for presence. Operands: the NTC in ohms, the rest voltage in mV, the temperature in 0.1 °C, and what the identity memory gives within three attempts. -/
  | packCheck (ntc : Nat) (vRest : Half) (temp : Int) (crcOk : Bool) (chem : Byte) (cap : Half) (serial : BitVec 64)
  /-- `PACK_PROBE` (R355): A 10 mA probe tests the pack for a short. Operands: the terminal voltage under the probe in mV, the NTC in ohms. -/
  | packProbe (v : Half) (ntc : Nat)
  /-- `CHARGE_CYCLE` (R358): One 1,000 ms pulse cycle charges, rests, reads the rest voltage and tests termination. Operands: ms of charge at a mean current in mA, the highest terminal voltage and the rest voltage in mV, the temperature, the system current in mA. -/
  | chargeCycle (chg i vTerm vRest : Half) (temp : Int) (sys : Half) (t : Nat)
  /-- `PRECHG_TIMEOUT` (R358): Precharge does not reach 6.0 V in 30 min, so the fault is raised. -/
  | prechgTimeout
  /-- `MAINTAIN_CHECK` (R358): Every 60 s in MAINTAIN the rest voltage is read and PULSE restarts if it is low. Operands: in mV. -/
  | maintainCheck (vRest : Half)
  /-- `CHG_TIMER_EXPIRE` (R360): The safety timer budget is reached before termination, so a timer fault is raised. -/
  | chgTimerExpire
  /-- `FAULT_CLR` (R361): A write of 1 to PWR_CHG_CTRL.FAULT_CLR ends the pack fault. -/
  | faultClr
  /-- `MB_WRITE` (R369): A management-bus write transaction writes register words as each fourth byte is acknowledged. -/
  | mbWrite (addr : Word) (data : List Byte) (t : Nat)
  /-- `MB_READ` (R370): A management-bus read transaction returns register words. -/
  | mbRead (addr : Word) (n : Nat) (t : Nat)
  /-- `MB_FRAMING` (R376): A misplaced START or STOP discards the partial byte and word. -/
  | mbFraming
  /-- `MB_STUCK` (R377): SCL stays high for 25 ms, so SDA is released. -/
  | mbStuck
  /-- `MB_WAKE` (R374): In STANDBY or WAIT the first addressing transaction is refused and wakes the bus window. -/
  | mbWake (t : Nat)
  /-- `MB_WINDOW_SLEEP` (R374): 1 s after the last transaction the woken window sleeps again. -/
  | mbWindowSleep (t : Nat)
  /-- `ATTN_PULSE` (R375): On a new attention request or each REPEAT, SDA is pulsed low for 5 us. -/
  | attnPulse (t : Nat)
  /-- `LAMP_PWR_WRITE` (R380): A write of LAMP_CTRL.PWR powers the lamphouse up or writes back life and powers it off. -/
  | lampPwrWrite (v : Word)
  /-- `LAMP_IDENT` (R380): After soft-start and boot, the identity record and life block are read. -/
  | lampIdent (t : Nat)
  /-- `SIG_VERIFY` (R384): The supervisor verifies the lamphouse signature, setting SAFE if it fails. -/
  | sigVerify
  /-- `READ` (R382): The module sends the READ command and receives lamphouse memory. -/
  | lhRead
  /-- `SETI` (R385): The module sends the SETI command with every channel's effective set-point. -/
  | lhSeti
  /-- `LIFE_ADD` (R387): The module sends the LIFE_ADD command with the accrued whole milliseconds every 60 s or before power-off. -/
  | lhLifeAdd
  /-- `STAT` (R386): The module polls STAT every 100 ms and detects absence or faults. -/
  | lhStat
  /-- `LH_RESPONSE` (R382): A lamphouse response arrives and completes the command. Operands: the half bit cells of the response (R381), those where SYNC is due and those behind it, and its end. -/
  | lhResponse (sync cells : List Bool) (t : Nat)
  /-- `LH_RETRY` (R382): No valid response begins within 200 us, so the request is sent again. -/
  | lhRetry
  /-- `LAMP_OVERLOAD` (R427): An overload on LAMP_24V opens the 24 V switch within 50 us. -/
  | lampOverload
  /-- `POWER_ON` (R393): PWR_IN exceeds 18.0 V and the power-on sequence runs. Operands: the resistance of SRC_ID to PWR_RTN, the MB_ADDR straps. -/
  | powerOn (ohms : Nat) (mbAddr : Fin 8) (t : Nat)
  /-- `READY` (R393): The self-test completes without a fatal fault, so SYS_STAT.READY is set. Operands: whether the built-in test of the loft fails. -/
  | ready (loft : Bool := false)
  /-- `WARM_RESET` (R395): A SYS_RESET write of KIND 1 with the key restarts the supervisor. -/
  | warmReset
  /-- `COLD_RESET` (R395): A SYS_RESET write of KIND 2 with the key switches off all but AON and restarts. Operands: the MB_ADDR straps. -/
  | coldReset (mbAddr : Fin 8)
  /-- `WARM_DONE` (R395): A warm reset ends and WARM_DONE is set. -/
  | warmDone
  /-- `SUPERVISOR_WDOG` (R396): The supervisor fails its watchdog for 1 s, so a warm reset is made. -/
  | supervisorWdog
  /-- `DOMAIN_RESET` (R397): A SYS_DRESET write resets a course, port or LAMP domain, or is refused. -/
  | domainReset (v : Word)
  /-- `SYS_MON_CLR` (R401): A write of 1 to SYS_MON_CTRL.CLR clears the SYS monitors. -/
  | sysMonClr
  /-- `ROLLUP_EVENT` (R404): A roll-up bit rises, so a ROLLUP event is sent and a hold-off starts. -/
  | rollupEvent
  /-- `ROLLUP_HOLDOFF_END` (R404): A 1 ms hold-off ends and a merged ROLLUP event is sent if the bit is still 1. -/
  | rollupHoldoffEnd
  /-- `PAGE_COMMIT` (R414): A write of PAGE_CTRL.COMMIT freezes the pending shadowed values and sets PEND. -/
  | pageCommit (page : Nat)
  /-- `INT_CLR` (R412): A write of INT_CLR, or a W1C write of INT_RAW, clears interrupt bits unless set in the same cycle. -/
  | intClr (page : Nat) (v : Word)
  /-- `EVT_CNT_WRITE` (R415): A write of EVT_CNTn subtracts each byte from its counter, with a floor at 0. -/
  | evtCntWrite (page : Nat) (n : Fin 4) (v : Word)
  /-- `COMPAT_WRITE` (R418): A write of REG_COMPAT.LEVEL changes COMPAT_LEVEL, or is refused and sets REFUSED. -/
  | compatWrite (v : Word)
  /-- `REGISTER_WRITE` (R411): A write to a register with no row of its own updates its fields by their access codes. -/
  | registerWrite (addr : Nat) (v : Word)
  /-- `ALIGN` (R276): ALIGN blocks arrive on the active lanes; the receiver deskews them, and a missing or out-of-tolerance ALIGN takes the port down. Operands: the stripe received. -/
  | align (p : Fin 3) (seen : StripeSeen)
  /-- `CHK_LOCK` (R285): A PRBS checker sees 64 error-free bits, declares CHK_LOCK and starts counting errors. Operands: the pattern bits received. -/
  | chkLock (p : Fin 3) (b : LaneBits)
  /-- `MODPRSL_CHANGE` (R423): A cage's ModPrsL changes as a QSFP-DD module or cable is fitted or removed, releasing or holding its port DOWN. -/
  | modprslChange (p : Fin 3) (present : Bool)
  /-- `CAGE_SUPPLY_TRIP` (R423): A cage module draws more than 3.5 W, trips the cage supply and keeps its port DOWN. -/
  | cageSupplyTrip (p : Fin 3)
  /-- `INPUT_RETURN` (R363): PWR_IN comes back into the 18 to 32 V range during HOLD-UP or STANDBY and the 100 ms qualification count starts. -/
  | inputReturn (t : Nat)
  /-- `PACK_OVERCURRENT` (R355): A charge pulse above 2.0 A or a supplement current above 12 A for 1 ms marks the pack shorted and opens its switch. -/
  | packOvercurrent
  /-- `PRECHARGE_DONE` (R358): The pack reaches 6.0 V during PRECHARGE and the charger moves to PULSE. -/
  | prechargeDone
  /-- `SUPPLEMENT_END` (R353): The system draw falls back within the effective input limit, so supplement ends and SUPPLEMENT clears. -/
  | supplementEnd
  /-- `STAGED` (R178): The last write of every staging channel arrives in memory with READY = 1, so JOB_STAT.STAGED becomes 1. -/
  | staged
  /-- `SYNC_OUT_END` (R104): The SYNC_OUT pulse ends after TICK_SYNC.W x 5 ns, at most T_pred / 2 after it began. -/
  | syncOutEnd
  /-- `MEM_READY` (R228): DDR4 training, or the 5 ms retrain after a wake, completes and MEM_STAT.READY is set, releasing waiting DMA accesses. Operands: the channels that fail to train, whose march test finds an uncorrectable error. -/
  | memReady (train test : BitVec 4 := 0)
  deriving DecidableEq, Repr

end Sys2Proof
end

