-- ==== Sys2Proof/Decode.lean ====
section
/-! DEFINITION. Commands from the bits of the table of operations: no row of the table gives bits, so no word spells one. -/
namespace Sys2Proof

/-- The command a word spells: none, since no row of the table has bits. -/
def decodeTableWord (_nbits _w : Nat) : Option Instr := none

end Sys2Proof
end

