-- ==== Sys2Proof/Config.lean ====
section
/-! DEFINITION. What the specification leaves open: constants without a body, applied to a counter that the state holds. -/
namespace Sys2Proof

/-- A number the specification does not give (log 10): nothing constrains it. -/
opaque Config.freeNat : Nat → Nat

/-- The charge estimate in mAh that a pack's rest voltage in mV gives (R354 states no formula, log 10). -/
opaque Config.packCharge : Nat → Nat

/-- The nominal weight of decision i of a converter in 1/16 LSB: the specification gives 12 bits and two redundant ones, and no weights
(log 119). -/
opaque Config.weightNominal : Nat → Nat

/-- The charge current in mA that an input current in mA gives behind the charger (R353 states no efficiency and no ratio of the voltages,
log 148). -/
opaque Config.chargeGive : Nat → Nat

/-- The pack current in mA that makes up for an input current in mA in supplement (R353, log 148). -/
opaque Config.packGives : Nat → Nat

end Sys2Proof
end

