-- ==== Sys2Proof/Machine/Registers.lean ====
section
/-! DEFINITION. The register map: the page index of R407, the registers and fields of every page's tables with their access
codes and reset values (R10, R11, R413), and the interrupt bits of every page with their event counters. -/
namespace Sys2Proof.Machine

/-- When a written value takes effect (R413, R414, R173). -/
inductive RegKind where
  | imm | nextTick | shadow | banked | ro
  deriving DecidableEq, Repr

/-- One row of a page map: offset, two strides with their counts, kind, the RW, W1C, WO and RWS bits, the reset value. -/
structure RegRow where
  off : Nat
  s1 : Nat
  n1 : Nat
  s2 : Nat
  n2 : Nat
  kind : RegKind
  rw : Nat
  w1c : Nat
  wo : Nat
  rws : Nat
  reset : Nat
  deriving DecidableEq, Repr

/-- One row of the page index (R407). -/
structure PageRow where
  first : Nat
  count : Nat
  inst0 : Nat
  type : Nat
  hdrDom : Nat
  dom : Nat
  perDom : Nat
  intBits : Nat
  commitExt : Bool
  noCommit : Bool
  rows : List RegRow
  deriving DecidableEq, Repr

/-- A field of a register: the register's address, the field's low bit and its width. -/
structure Fld where
  reg : Nat
  lo : Nat
  w : Nat
  deriving DecidableEq, Repr

/-- An interrupt bit of a page: page number, bit of INT_RAW, and the byte of EVT_CNT0–EVT_CNT3 that counts it
(none where the page's table names no counter there, as the CC bits of TMR, R108). -/
structure Ev where
  page : Nat
  bit : Nat
  cnt : Option Nat
  deriving DecidableEq, Repr

/-- REG page registers (18_register_pages.md, R417). -/
def rowsREG : List RegRow := [
  ⟨0x040, 0x0, 1, 0x0, 1, .imm, 0xFF, 0x1000000, 0x0, 0xFF, 0x30303⟩,
  ⟨0x044, 0x0, 1, 0x0, 1, .ro, 0x0, 0x0, 0x0, 0x0, 0x3⟩,
  ⟨0x400, 0x4, 704, 0x0, 1, .ro, 0x0, 0x0, 0x0, 0x0, 0x0⟩]

/-- EXP page registers (02_pixel_array_exposure.md, R56). -/
def rowsEXP : List RegRow := [
  ⟨0x040, 0x0, 1, 0x0, 1, .nextTick, 0x3, 0x0, 0x0, 0x0, 0x0⟩,
  ⟨0x044, 0x0, 1, 0x0, 1, .ro, 0x0, 0x0, 0x0, 0x0, 0x0⟩,
  ⟨0x048, 0x0, 1, 0x0, 1, .ro, 0x0, 0x0, 0x0, 0x0, 0x0⟩,
  ⟨0x04C, 0x0, 1, 0x0, 1, .ro, 0x0, 0x0, 0x0, 0x0, 0x0⟩,
  ⟨0x050, 0x0, 1, 0x0, 1, .ro, 0x0, 0x0, 0x0, 0x0, 0x101⟩,
  ⟨0x060, 0x0, 1, 0x0, 1, .shadow, 0xFF013F3F, 0x0, 0x0, 0x0, 0x3F00⟩,
  ⟨0x064, 0x0, 1, 0x0, 1, .shadow, 0xFFFFFFFF, 0x0, 0x0, 0x0, 0x0⟩,
  ⟨0x068, 0x0, 1, 0x0, 1, .shadow, 0x3FFFFF, 0x0, 0x0, 0x0, 0x0⟩,
  ⟨0x06C, 0x0, 1, 0x0, 1, .shadow, 0x3FFFFF, 0x0, 0x0, 0x0, 0x0⟩,
  ⟨0x070, 0x0, 1, 0x0, 1, .shadow, 0x7, 0x0, 0x0, 0x0, 0x0⟩,
  ⟨0x074, 0x0, 1, 0x0, 1, .shadow, 0xFFFFFF, 0x0, 0x0, 0x0, 0x0⟩,
  ⟨0x078, 0x0, 1, 0x0, 1, .ro, 0x0, 0x0, 0x0, 0x0, 0x0⟩,
  ⟨0x07C, 0x0, 1, 0x0, 1, .ro, 0x0, 0x0, 0x0, 0x0, 0x0⟩,
  ⟨0x080, 0x8, 4, 0x0, 1, .ro, 0x0, 0x0, 0x0, 0x0, 0x0⟩,
  ⟨0x084, 0x8, 4, 0x0, 1, .ro, 0x0, 0x0, 0x0, 0x0, 0x0⟩,
  ⟨0x100, 0x40, 2, 0x10, 4, .banked, 0x773FF7F, 0x0, 0x0, 0x0, 0x0⟩,
  ⟨0x104, 0x40, 2, 0x10, 4, .banked, 0xFFFFFFFF, 0x0, 0x0, 0x0, 0x0⟩,
  ⟨0x108, 0x40, 2, 0x10, 4, .banked, 0x3FFFFF, 0x0, 0x0, 0x0, 0x0⟩,
  ⟨0x10C, 0x40, 2, 0x10, 4, .banked, 0x3FFFFF, 0x0, 0x0, 0x0, 0x0⟩]

/-- RDO page registers (03_column_readout.md, R77). -/
def rowsRDO : List RegRow := [
  ⟨0x040, 0x0, 1, 0x0, 1, .nextTick, 0x1, 0x0, 0x0, 0x0, 0x0⟩,
  ⟨0x044, 0x0, 1, 0x0, 1, .shadow, 0x7FFFFF, 0x0, 0x0, 0x0, 0x58C74⟩,
  ⟨0x048, 0x0, 1, 0x0, 1, .ro, 0x0, 0x0, 0x0, 0x0, 0x0⟩,
  ⟨0x04C, 0x0, 1, 0x0, 1, .ro, 0x0, 0x0, 0x0, 0x0, 0x58C74⟩,
  ⟨0x050, 0x0, 1, 0x0, 1, .ro, 0x0, 0x0, 0x0, 0x0, 0x58C74⟩,
  ⟨0x054, 0x0, 1, 0x0, 1, .shadow, 0x1F, 0x0, 0x0, 0x0, 0x1F⟩,
  ⟨0x058, 0x0, 1, 0x0, 1, .shadow, 0x303, 0x0, 0x0, 0x0, 0x0⟩,
  ⟨0x060, 0x0, 1, 0x0, 1, .ro, 0x0, 0x0, 0x0, 0x0, 0x0⟩,
  ⟨0x064, 0x0, 1, 0x0, 1, .ro, 0x0, 0x0, 0x0, 0x0, 0x0⟩,
  ⟨0x068, 0x0, 1, 0x0, 1, .ro, 0x0, 0x0, 0x0, 0x0, 0x0⟩,
  ⟨0x06C, 0x0, 1, 0x0, 1, .ro, 0x0, 0x0, 0x0, 0x0, 0x0⟩,
  ⟨0x070, 0x0, 1, 0x0, 1, .ro, 0x0, 0x0, 0x0, 0x0, 0x0⟩,
  ⟨0x080, 0x4, 4, 0x0, 1, .ro, 0x0, 0x0, 0x0, 0x0, 0x0⟩,
  ⟨0x100, 0x40, 2, 0x0, 1, .banked, 0xFF03, 0x0, 0x0, 0x0, 0x0⟩]

/-- TMR page registers (04_encoder_timers_tick.md, R107). -/
def rowsTMR : List RegRow := [
  ⟨0x040, 0x0, 1, 0x0, 1, .imm, 0xFF, 0x0, 0x0, 0x0, 0x12⟩,
  ⟨0x044, 0x0, 1, 0x0, 1, .ro, 0x0, 0x0, 0x0, 0x0, 0x0⟩,
  ⟨0x048, 0x0, 1, 0x0, 1, .imm, 0xFFFFFFFF, 0x0, 0x0, 0x0, 0x9090909⟩,
  ⟨0x04C, 0x0, 1, 0x0, 1, .ro, 0x0, 0x0, 0x0, 0x0, 0x0⟩,
  ⟨0x050, 0x0, 1, 0x0, 1, .imm, 0x7, 0x700, 0x0, 0x0, 0x0⟩,
  ⟨0x054, 0x0, 1, 0x0, 1, .imm, 0x0, 0x0, 0x1, 0x0, 0x0⟩,
  ⟨0x058, 0x0, 1, 0x0, 1, .ro, 0x0, 0x0, 0x0, 0x0, 0x0⟩,
  ⟨0x05C, 0x0, 1, 0x0, 1, .ro, 0x0, 0x0, 0x0, 0x0, 0x0⟩,
  ⟨0x080, 0x4, 8, 0x0, 1, .ro, 0x0, 0x0, 0x0, 0x0, 0x0⟩,
  ⟨0x100, 0x10, 8, 0x0, 1, .imm, 0xFF077F, 0x0, 0x0, 0x0, 0x0⟩,
  ⟨0x104, 0x10, 8, 0x0, 1, .imm, 0xFFFFFFFF, 0x0, 0x0, 0x0, 0x0⟩,
  ⟨0x200, 0x20, 16, 0x0, 1, .imm, 0x7F, 0x0, 0x80, 0x0, 0x0⟩,
  ⟨0x204, 0x20, 16, 0x0, 1, .imm, 0xFFFFFFFF, 0x0, 0x0, 0x0, 0x0⟩,
  ⟨0x208, 0x20, 16, 0x0, 1, .imm, 0xFFFFFFFF, 0x0, 0x0, 0x0, 0x0⟩,
  ⟨0x20C, 0x20, 16, 0x0, 1, .ro, 0x0, 0x0, 0x0, 0x0, 0x0⟩,
  ⟨0x210, 0x20, 16, 0x0, 1, .ro, 0x0, 0x0, 0x0, 0x0, 0x0⟩,
  ⟨0x214, 0x20, 16, 0x0, 1, .imm, 0x0, 0x3, 0x80000000, 0x0, 0x0⟩]

/-- TICK page registers (04_encoder_timers_tick.md, R109). -/
def rowsTICK : List RegRow := [
  ⟨0x040, 0x0, 1, 0x0, 1, .nextTick, 0x7FFFF, 0x0, 0x0, 0x0, 0x61A80⟩,
  ⟨0x044, 0x0, 1, 0x0, 1, .nextTick, 0xF07, 0x0, 0x0, 0x0, 0x400⟩,
  ⟨0x048, 0x0, 1, 0x0, 1, .shadow, 0xFFFF, 0x0, 0x0, 0x0, 0x1⟩,
  ⟨0x04C, 0x0, 1, 0x0, 1, .shadow, 0xFFFFFFFF, 0x0, 0x0, 0x0, 0x0⟩,
  ⟨0x050, 0x0, 1, 0x0, 1, .shadow, 0x1FFF, 0x0, 0x0, 0x0, 0x190⟩,
  ⟨0x054, 0x0, 1, 0x0, 1, .shadow, 0x1FFFFF, 0x0, 0x0, 0x0, 0x7D0⟩,
  ⟨0x058, 0x0, 1, 0x0, 1, .shadow, 0xFFFFFF07, 0x0, 0x0, 0x0, 0x0⟩,
  ⟨0x05C, 0x0, 1, 0x0, 1, .shadow, 0xFFFFFF, 0x0, 0x0, 0x0, 0x1⟩,
  ⟨0x060, 0x0, 1, 0x0, 1, .ro, 0x0, 0x0, 0x0, 0x0, 0x0⟩,
  ⟨0x064, 0x0, 1, 0x0, 1, .ro, 0x0, 0x0, 0x0, 0x0, 0x0⟩,
  ⟨0x068, 0x0, 1, 0x0, 1, .ro, 0x0, 0x0, 0x0, 0x0, 0x61A80⟩,
  ⟨0x06C, 0x0, 1, 0x0, 1, .ro, 0x0, 0x0, 0x0, 0x0, 0x0⟩,
  ⟨0x070, 0x0, 1, 0x0, 1, .ro, 0x0, 0x0, 0x0, 0x0, 0x0⟩,
  ⟨0x074, 0x0, 1, 0x0, 1, .ro, 0x0, 0x0, 0x0, 0x0, 0x0⟩,
  ⟨0x078, 0x0, 1, 0x0, 1, .nextTick, 0xFFFF7, 0x0, 0x0, 0x0, 0x6400⟩,
  ⟨0x07C, 0x0, 1, 0x0, 1, .nextTick, 0xFFFF, 0x0, 0x0, 0x0, 0x1⟩,
  ⟨0x080, 0x0, 1, 0x0, 1, .imm, 0xF2, 0x0, 0x1, 0x0, 0x30⟩,
  ⟨0x084, 0x0, 1, 0x0, 1, .ro, 0x0, 0x0, 0x0, 0x0, 0x0⟩,
  ⟨0x088, 0x0, 1, 0x0, 1, .ro, 0x0, 0x0, 0x0, 0x0, 0x0⟩,
  ⟨0x090, 0x8, 3, 0x0, 1, .ro, 0x0, 0x0, 0x0, 0x0, 0x7FFFFFFF⟩,
  ⟨0x094, 0x8, 3, 0x0, 1, .ro, 0x0, 0x0, 0x0, 0x0, 0x80000000⟩,
  ⟨0x100, 0x40, 3, 0x4, 16, .ro, 0x0, 0x0, 0x0, 0x0, 0x0⟩]

/-- CLK page registers (05_clocks_plls.md, R126). -/
def rowsCLK : List RegRow := [
  ⟨0x040, 0x0, 1, 0x0, 1, .imm, 0xFF0, 0x0, 0x1, 0x0, 0xA0⟩,
  ⟨0x060, 0x0, 1, 0x0, 1, .ro, 0x0, 0x0, 0x0, 0x0, 0x40⟩,
  ⟨0x064, 0x0, 1, 0x0, 1, .ro, 0x0, 0x0, 0x0, 0x0, 0x0⟩,
  ⟨0x080, 0x4, 4, 0x0, 1, .ro, 0x0, 0x0, 0x0, 0x0, 0x0⟩,
  ⟨0x100, 0x0, 1, 0x0, 1, .imm, 0x3F1, 0x0, 0x0, 0x0, 0x141⟩,
  ⟨0x110, 0x10, 5, 0x0, 1, .imm, 0x3F1, 0x0, 0x0, 0x0, 0x140⟩,
  ⟨0x104, 0x10, 6, 0x0, 1, .ro, 0x0, 0x0, 0x0, 0x0, 0x0⟩,
  ⟨0x108, 0x10, 6, 0x0, 1, .ro, 0x0, 0x0, 0x0, 0x0, 0x0⟩,
  ⟨0x400, 0x40, 6, 0x8, 8, .imm, 0xFFFFFFFF, 0x0, 0x0, 0x0, 0x0⟩,
  ⟨0x404, 0x40, 6, 0x8, 8, .imm, 0xFFFF, 0x0, 0x0, 0x0, 0x0⟩]

/-- ENGG page registers (06_shingle_engines.md, R152). -/
def rowsENGG : List RegRow := [
  ⟨0x040, 0x0, 1, 0x0, 1, .imm, 0xFFF, 0x0, 0x0, 0x0, 0x0⟩,
  ⟨0x044, 0x0, 1, 0x0, 1, .ro, 0x0, 0x0, 0x0, 0x0, 0x0⟩,
  ⟨0x048, 0x0, 1, 0x0, 1, .nextTick, 0xFF3, 0x0, 0x0, 0x0, 0x100⟩,
  ⟨0x04C, 0x0, 1, 0x0, 1, .ro, 0x0, 0x0, 0x0, 0x0, 0x0⟩,
  ⟨0x050, 0x0, 1, 0x0, 1, .ro, 0x0, 0x0, 0x0, 0x0, 0x0⟩,
  ⟨0x054, 0x0, 1, 0x0, 1, .ro, 0x0, 0x0, 0x0, 0x0, 0x0⟩,
  ⟨0x058, 0x0, 1, 0x0, 1, .ro, 0x0, 0x0, 0x0, 0x0, 0x0⟩,
  ⟨0x060, 0x4, 6, 0x0, 1, .ro, 0x0, 0x0, 0x0, 0x0, 0x0⟩,
  ⟨0x080, 0x4, 6, 0x0, 1, .ro, 0x0, 0x0, 0x0, 0x0, 0x0⟩,
  ⟨0x100, 0x100, 2, 0x0, 1, .banked, 0xFFF, 0x0, 0x0, 0x0, 0x0⟩,
  ⟨0x104, 0x100, 2, 0x0, 1, .banked, 0x80000FFF, 0x0, 0x0, 0x0, 0x0⟩,
  ⟨0x108, 0x100, 2, 0x0, 1, .banked, 0xFFFF, 0x0, 0x0, 0x0, 0x0⟩,
  ⟨0x110, 0x100, 2, 0x4, 6, .banked, 0xFFFFFFFF, 0x0, 0x0, 0x0, 0x0⟩,
  ⟨0x140, 0x100, 2, 0x8, 4, .banked, 0x303FFFF, 0x0, 0x0, 0x0, 0x0⟩,
  ⟨0x144, 0x100, 2, 0x8, 4, .banked, 0x8003FFFF, 0x0, 0x0, 0x0, 0x0⟩]

/-- SH page registers (06_shingle_engines.md, R154). -/
def rowsSH : List RegRow := [
  ⟨0x040, 0x0, 1, 0x0, 1, .imm, 0xF202, 0x0, 0x101, 0x0, 0x3000⟩,
  ⟨0x044, 0x0, 1, 0x0, 1, .ro, 0x0, 0x0, 0x0, 0x0, 0x0⟩,
  ⟨0x048, 0x0, 1, 0x0, 1, .ro, 0x0, 0x0, 0x0, 0x0, 0x0⟩,
  ⟨0x04C, 0x0, 1, 0x0, 1, .ro, 0x0, 0x0, 0x0, 0x0, 0x0⟩,
  ⟨0x050, 0x0, 1, 0x0, 1, .ro, 0x0, 0x0, 0x0, 0x0, 0x0⟩,
  ⟨0x054, 0x0, 1, 0x0, 1, .ro, 0x0, 0x0, 0x0, 0x0, 0x0⟩,
  ⟨0x058, 0x0, 1, 0x0, 1, .ro, 0x0, 0x0, 0x0, 0x0, 0x0⟩,
  ⟨0x060, 0x0, 1, 0x0, 1, .ro, 0x0, 0x0, 0x0, 0x0, 0x0⟩,
  ⟨0x064, 0x0, 1, 0x0, 1, .ro, 0x0, 0x0, 0x0, 0x0, 0x0⟩,
  ⟨0x068, 0x0, 1, 0x0, 1, .ro, 0x0, 0x0, 0x0, 0x0, 0x0⟩,
  ⟨0x06C, 0x0, 1, 0x0, 1, .ro, 0x0, 0x0, 0x0, 0x0, 0x0⟩,
  ⟨0x070, 0x0, 1, 0x0, 1, .ro, 0x0, 0x0, 0x0, 0x0, 0x0⟩,
  ⟨0x090, 0x8, 2, 0x0, 1, .ro, 0x0, 0x0, 0x0, 0x0, 0x7FFFFFFF⟩,
  ⟨0x094, 0x8, 2, 0x0, 1, .ro, 0x0, 0x0, 0x0, 0x0, 0x80000000⟩,
  ⟨0x100, 0x40, 2, 0x4, 16, .ro, 0x0, 0x0, 0x0, 0x0, 0x0⟩]

/-- JOB page registers (08_proofs_defects.md, R198). -/
def rowsJOB : List RegRow := [
  ⟨0x040, 0x0, 1, 0x0, 1, .imm, 0xFFFF0030, 0x0, 0xF, 0x0, 0x0⟩,
  ⟨0x044, 0x0, 1, 0x0, 1, .ro, 0x0, 0x0, 0x0, 0x0, 0x0⟩,
  ⟨0x048, 0x0, 1, 0x0, 1, .imm, 0xFFFFFFFF, 0x0, 0x0, 0x0, 0x0⟩,
  ⟨0x04C, 0x0, 1, 0x0, 1, .imm, 0xFFFFFFFF, 0x0, 0x0, 0x0, 0x0⟩,
  ⟨0x050, 0x0, 1, 0x0, 1, .imm, 0xFFFFFFFF, 0x0, 0x0, 0x0, 0x0⟩,
  ⟨0x054, 0x0, 1, 0x0, 1, .imm, 0xFFFFFFFF, 0x0, 0x0, 0x0, 0x0⟩,
  ⟨0x058, 0x0, 1, 0x0, 1, .ro, 0x0, 0x0, 0x0, 0x0, 0x0⟩,
  ⟨0x05C, 0x0, 1, 0x0, 1, .ro, 0x0, 0x0, 0x0, 0x0, 0x0⟩,
  ⟨0x060, 0x0, 1, 0x0, 1, .ro, 0x0, 0x0, 0x0, 0x0, 0x0⟩,
  ⟨0x064, 0x0, 1, 0x0, 1, .ro, 0x0, 0x0, 0x0, 0x0, 0x0⟩,
  ⟨0x068, 0x0, 1, 0x0, 1, .ro, 0x0, 0x0, 0x0, 0x0, 0x0⟩,
  ⟨0x06C, 0x0, 1, 0x0, 1, .ro, 0x0, 0x0, 0x0, 0x0, 0x0⟩,
  ⟨0x070, 0x0, 1, 0x0, 1, .ro, 0x0, 0x0, 0x0, 0x0, 0x0⟩,
  ⟨0x100, 0x100, 2, 0x0, 1, .banked, 0xFFFF, 0x0, 0x0, 0x0, 0x0⟩,
  ⟨0x104, 0x100, 2, 0x0, 1, .banked, 0x3FF, 0x0, 0x0, 0x0, 0x0⟩,
  ⟨0x108, 0x100, 2, 0x0, 1, .banked, 0xFFFFFF, 0x0, 0x0, 0x0, 0x0⟩,
  ⟨0x10C, 0x100, 2, 0x0, 1, .banked, 0xFFFFFFFF, 0x0, 0x0, 0x0, 0x0⟩,
  ⟨0x110, 0x100, 2, 0x0, 1, .banked, 0x1FFFFFF, 0x0, 0x0, 0x0, 0x0⟩,
  ⟨0x114, 0x100, 2, 0x0, 1, .banked, 0xFFFFFF, 0x0, 0x0, 0x0, 0x0⟩,
  ⟨0x118, 0x100, 2, 0x0, 1, .banked, 0xFFFFFFFF, 0x0, 0x0, 0x0, 0x1001060⟩,
  ⟨0x11C, 0x100, 2, 0x0, 1, .banked, 0x7FFF7FFF, 0x0, 0x0, 0x0, 0x5FFF0000⟩,
  ⟨0x120, 0x100, 2, 0x0, 1, .banked, 0x1, 0x0, 0x0, 0x0, 0x0⟩,
  ⟨0x124, 0x100, 2, 0x0, 1, .banked, 0xFFFFFFFF, 0x0, 0x0, 0x0, 0x0⟩,
  ⟨0x128, 0x100, 2, 0x0, 1, .banked, 0xFFF3, 0x0, 0x0, 0x0, 0x2070⟩,
  ⟨0x12C, 0x100, 2, 0x0, 1, .banked, 0x1FFFFFF, 0x0, 0x0, 0x0, 0x0⟩,
  ⟨0x140, 0x100, 2, 0x4, 16, .banked, 0x3FFFFFFF, 0x0, 0x0, 0x0, 0x0⟩,
  ⟨0x300, 0x8, 16, 0x0, 1, .ro, 0x0, 0x0, 0x0, 0x0, 0x0⟩,
  ⟨0x304, 0x8, 16, 0x0, 1, .ro, 0x0, 0x0, 0x0, 0x0, 0x0⟩,
  ⟨0x800, 0x4, 192, 0x0, 1, .ro, 0x0, 0x0, 0x0, 0x0, 0x0⟩]

/-- DEV page registers (09_developer_ingest.md, R220). -/
def rowsDEV : List RegRow := [
  ⟨0x040, 0x0, 1, 0x0, 1, .ro, 0x0, 0x0, 0x0, 0x0, 0x0⟩,
  ⟨0x044, 0x0, 1, 0x0, 1, .ro, 0x0, 0x0, 0x0, 0x0, 0x0⟩,
  ⟨0x100, 0x40, 2, 0x0, 1, .banked, 0x2, 0x0, 0x0, 0x0, 0x2⟩,
  ⟨0x110, 0x40, 2, 0x0, 1, .banked, 0x7FFF7FFF, 0x0, 0x0, 0x0, 0x0⟩,
  ⟨0x114, 0x40, 2, 0x0, 1, .banked, 0x7FFF7FFF, 0x0, 0x0, 0x0, 0x0⟩,
  ⟨0x118, 0x40, 2, 0x0, 1, .banked, 0xFFFFFFFF, 0x0, 0x0, 0x0, 0x10001000⟩,
  ⟨0x11C, 0x40, 2, 0x0, 1, .banked, 0xFFFFFFFF, 0x0, 0x0, 0x0, 0x10001000⟩,
  ⟨0x120, 0x40, 2, 0x0, 1, .banked, 0xFFFFFFFF, 0x0, 0x0, 0x0, 0x1000⟩,
  ⟨0x124, 0x40, 2, 0x0, 1, .banked, 0xFFFFFFFF, 0x0, 0x0, 0x0, 0x0⟩,
  ⟨0x128, 0x40, 2, 0x0, 1, .banked, 0xFFFFFFFF, 0x0, 0x0, 0x0, 0x10000000⟩,
  ⟨0x12C, 0x40, 2, 0x0, 1, .banked, 0xFFFFFFFF, 0x0, 0x0, 0x0, 0x0⟩,
  ⟨0x130, 0x40, 2, 0x0, 1, .banked, 0xFFFFFFFF, 0x0, 0x0, 0x0, 0x0⟩,
  ⟨0x134, 0x40, 2, 0x0, 1, .banked, 0xFFFFFFFF, 0x0, 0x0, 0x0, 0x1000⟩,
  ⟨0x440, 0x40, 15, 0x0, 1, .shadow, 0x3FF, 0x0, 0x0, 0x0, 0x2⟩,
  ⟨0x444, 0x40, 15, 0x0, 1, .shadow, 0xFFFF3FFF, 0x0, 0x0, 0x0, 0x10010⟩,
  ⟨0x448, 0x40, 15, 0x0, 1, .shadow, 0x1FFFFFF, 0x0, 0x0, 0x0, 0x0⟩,
  ⟨0x44C, 0x40, 15, 0x0, 1, .shadow, 0x1F, 0x0, 0x0, 0x0, 0x1⟩,
  ⟨0x450, 0x40, 15, 0x0, 1, .shadow, 0x7FFF7FFF, 0x0, 0x0, 0x0, 0x0⟩,
  ⟨0x454, 0x40, 15, 0x0, 1, .shadow, 0x7FFF7FFF, 0x0, 0x0, 0x0, 0x0⟩,
  ⟨0x458, 0x40, 15, 0x0, 1, .shadow, 0xFFFFFFFF, 0x0, 0x0, 0x0, 0x10001000⟩,
  ⟨0x45C, 0x40, 15, 0x0, 1, .shadow, 0xFFFFFFFF, 0x0, 0x0, 0x0, 0x10001000⟩,
  ⟨0x460, 0x40, 15, 0x0, 1, .shadow, 0xFFFFFFFF, 0x0, 0x0, 0x0, 0x1000⟩,
  ⟨0x464, 0x40, 15, 0x0, 1, .shadow, 0xFFFFFFFF, 0x0, 0x0, 0x0, 0x0⟩,
  ⟨0x468, 0x40, 15, 0x0, 1, .shadow, 0xFFFFFFFF, 0x0, 0x0, 0x0, 0x10000000⟩,
  ⟨0x46C, 0x40, 15, 0x0, 1, .shadow, 0xFFFFFFFF, 0x0, 0x0, 0x0, 0x0⟩,
  ⟨0x470, 0x40, 15, 0x0, 1, .shadow, 0xFFFFFFFF, 0x0, 0x0, 0x0, 0x0⟩,
  ⟨0x474, 0x40, 15, 0x0, 1, .shadow, 0xFFFFFFFF, 0x0, 0x0, 0x0, 0x1000⟩,
  ⟨0x478, 0x40, 15, 0x0, 1, .ro, 0x0, 0x0, 0x0, 0x0, 0x0⟩,
  ⟨0x820, 0x20, 15, 0x4, 6, .ro, 0x0, 0x0, 0x0, 0x0, 0x0⟩,
  ⟨0xA00, 0x4, 16, 0x0, 1, .ro, 0x0, 0x0, 0x0, 0x0, 0x0⟩,
  ⟨0xA40, 0x4, 8, 0x0, 1, .ro, 0x0, 0x0, 0x0, 0x0, 0x0⟩]

/-- DEVPATAB page registers (09_developer_ingest.md, R222). -/
def rowsDEVPATAB : List RegRow := [
  ⟨0x400, 0xC, 256, 0x0, 1, .banked, 0x7FFF7FFF, 0x0, 0x0, 0x0, 0x0⟩,
  ⟨0x404, 0xC, 256, 0x0, 1, .banked, 0x8FFFFFFF, 0x0, 0x0, 0x0, 0x0⟩,
  ⟨0x408, 0xC, 256, 0x0, 1, .banked, 0xFFFFFF, 0x0, 0x0, 0x0, 0x0⟩]

/-- DEVPATM page registers (09_developer_ingest.md, R222). -/
def rowsDEVPATM : List RegRow := [
  ⟨0x400, 0xC, 256, 0x0, 1, .shadow, 0x7FFF7FFF, 0x0, 0x0, 0x0, 0x0⟩,
  ⟨0x404, 0xC, 256, 0x0, 1, .shadow, 0x8FFFFFFF, 0x0, 0x0, 0x0, 0x0⟩,
  ⟨0x408, 0xC, 256, 0x0, 1, .shadow, 0xFFFFFFF, 0x0, 0x0, 0x0, 0x0⟩]

/-- DEVLUTAB page registers (09_developer_ingest.md, R223). -/
def rowsDEVLUTAB : List RegRow := [
  ⟨0x800, 0x4, 512, 0x0, 1, .banked, 0xFFF0FFF, 0x0, 0x0, 0x0, 0x0⟩]

/-- DEVLUTM page registers (09_developer_ingest.md, R223). -/
def rowsDEVLUTM : List RegRow := [
  ⟨0x800, 0x4, 512, 0x0, 1, .shadow, 0xFFF0FFF, 0x0, 0x0, 0x0, 0x0⟩]

/-- MEM page registers (10_memory_dma.md, R249). -/
def rowsMEM : List RegRow := [
  ⟨0x040, 0x0, 1, 0x0, 1, .imm, 0xFF01, 0x0, 0x0, 0x0, 0x1801⟩,
  ⟨0x044, 0x0, 1, 0x0, 1, .ro, 0x0, 0x0, 0x0, 0x0, 0x0⟩,
  ⟨0x048, 0x4, 2, 0x0, 1, .ro, 0x0, 0x0, 0x0, 0x0, 0x0⟩,
  ⟨0x050, 0x0, 1, 0x0, 1, .imm, 0xFFFFF, 0x0, 0x0, 0x0, 0x0⟩,
  ⟨0x054, 0x0, 1, 0x0, 1, .ro, 0x0, 0x0, 0x0, 0x0, 0x15400⟩,
  ⟨0x060, 0x0, 1, 0x0, 1, .ro, 0x0, 0x0, 0x0, 0x0, 0x0⟩,
  ⟨0x064, 0x0, 1, 0x0, 1, .ro, 0x0, 0x0, 0x0, 0x0, 0x0⟩,
  ⟨0x068, 0x0, 1, 0x0, 1, .ro, 0x0, 0x0, 0x0, 0x0, 0x0⟩,
  ⟨0x06C, 0x0, 1, 0x0, 1, .ro, 0x0, 0x0, 0x0, 0x0, 0x0⟩,
  ⟨0x070, 0x0, 1, 0x0, 1, .ro, 0x0, 0x0, 0x0, 0x0, 0x0⟩]

/-- RING page registers (10_memory_dma.md, R251). -/
def rowsRING : List RegRow := [
  ⟨0x040, 0x0, 1, 0x0, 1, .ro, 0x0, 0x0, 0x0, 0x0, 0x0⟩,
  ⟨0x044, 0x0, 1, 0x0, 1, .ro, 0x0, 0x0, 0x0, 0x0, 0x0⟩,
  ⟨0x048, 0x0, 1, 0x0, 1, .nextTick, 0xFFFF, 0x0, 0x0, 0x0, 0x1⟩,
  ⟨0x100, 0x20, 5, 0x0, 1, .imm, 0x1FFFFFF, 0x0, 0x0, 0x0, 0x0⟩,
  ⟨0x104, 0x20, 5, 0x0, 1, .imm, 0x1FFFFFF, 0x0, 0x0, 0x0, 0x0⟩,
  ⟨0x108, 0x20, 5, 0x0, 1, .ro, 0x0, 0x0, 0x0, 0x0, 0x0⟩,
  ⟨0x10C, 0x20, 5, 0x0, 1, .ro, 0x0, 0x0, 0x0, 0x0, 0x0⟩,
  ⟨0x110, 0x20, 5, 0x0, 1, .imm, 0xFFFFFFFF, 0x0, 0x0, 0x0, 0x0⟩,
  ⟨0x114, 0x20, 5, 0x0, 1, .imm, 0x0, 0x3, 0x0, 0x0, 0x0⟩]

/-- DMA page registers (10_memory_dma.md, R253). -/
def rowsDMA : List RegRow := [
  ⟨0x040, 0x0, 1, 0x0, 1, .imm, 0x0, 0x0, 0x1, 0x0, 0x0⟩,
  ⟨0x044, 0x0, 1, 0x0, 1, .imm, 0xFFFFFFFF, 0x0, 0x0, 0x0, 0x0⟩,
  ⟨0x050, 0x4, 6, 0x0, 1, .imm, 0xFFFFFFFF, 0x0, 0x0, 0x0, 0x0⟩,
  ⟨0x800, 0x40, 32, 0x0, 1, .imm, 0xF7F, 0x0, 0x1000, 0x0, 0x0⟩,
  ⟨0x804, 0x40, 32, 0x0, 1, .imm, 0x0, 0x100, 0x0, 0x0, 0x0⟩,
  ⟨0x808, 0x40, 32, 0x0, 1, .imm, 0xFFFFFFFF, 0x0, 0x0, 0x0, 0x0⟩,
  ⟨0x80C, 0x40, 32, 0x0, 1, .imm, 0xFF, 0x0, 0x0, 0x0, 0x0⟩,
  ⟨0x810, 0x40, 32, 0x0, 1, .imm, 0x1FF, 0x0, 0x0, 0x0, 0x1⟩,
  ⟨0x814, 0x40, 32, 0x0, 1, .ro, 0x0, 0x0, 0x0, 0x0, 0x0⟩,
  ⟨0x818, 0x40, 32, 0x0, 1, .imm, 0x1FF, 0x0, 0x0, 0x0, 0x0⟩,
  ⟨0x81C, 0x40, 32, 0x0, 1, .ro, 0x0, 0x0, 0x0, 0x0, 0x0⟩]

/-- NVS page registers (11_negative_store.md, R271). -/
def rowsNVS : List RegRow := [
  ⟨0x040, 0x0, 1, 0x0, 1, .imm, 0x1F, 0x0, 0x80000000, 0x0, 0x0⟩,
  ⟨0x044, 0x0, 1, 0x0, 1, .ro, 0x0, 0x0, 0x0, 0x0, 0x0⟩,
  ⟨0x048, 0x0, 1, 0x0, 1, .imm, 0xFFFFFFFF, 0x0, 0x0, 0x0, 0x0⟩,
  ⟨0x04C, 0x0, 1, 0x0, 1, .imm, 0xFF, 0x0, 0x0, 0x0, 0x0⟩,
  ⟨0x050, 0x0, 1, 0x0, 1, .imm, 0xFFFFFFFF, 0x0, 0x0, 0x0, 0x0⟩,
  ⟨0x054, 0x0, 1, 0x0, 1, .imm, 0xFFFFFFFF, 0x0, 0x0, 0x0, 0x0⟩,
  ⟨0x058, 0x0, 1, 0x0, 1, .imm, 0xFFFFFFFF, 0x0, 0x0, 0x0, 0x0⟩,
  ⟨0x05C, 0x0, 1, 0x0, 1, .imm, 0xFFFF00FF, 0x0, 0x0, 0x0, 0x0⟩,
  ⟨0x060, 0x0, 1, 0x0, 1, .imm, 0xFFFFFFFF, 0x0, 0x0, 0x0, 0x0⟩,
  ⟨0x064, 0x0, 1, 0x0, 1, .imm, 0xFFFFFFFF, 0x0, 0x0, 0x0, 0x0⟩,
  ⟨0x068, 0x0, 1, 0x0, 1, .imm, 0xFFFFFFFF, 0x0, 0x0, 0x0, 0x0⟩,
  ⟨0x070, 0x0, 1, 0x0, 1, .ro, 0x0, 0x0, 0x0, 0x0, 0x0⟩,
  ⟨0x074, 0x0, 1, 0x0, 1, .ro, 0x0, 0x0, 0x0, 0x0, 0x0⟩,
  ⟨0x078, 0x0, 1, 0x0, 1, .ro, 0x0, 0x0, 0x0, 0x0, 0x0⟩,
  ⟨0x080, 0x0, 1, 0x0, 1, .ro, 0x0, 0x0, 0x0, 0x0, 0x0⟩,
  ⟨0x084, 0x0, 1, 0x0, 1, .ro, 0x0, 0x0, 0x0, 0x0, 0x0⟩,
  ⟨0x088, 0x0, 1, 0x0, 1, .ro, 0x0, 0x0, 0x0, 0x0, 0x64⟩,
  ⟨0x08C, 0x0, 1, 0x0, 1, .ro, 0x0, 0x0, 0x0, 0x0, 0x0⟩,
  ⟨0x090, 0x0, 1, 0x0, 1, .ro, 0x0, 0x0, 0x0, 0x0, 0x0⟩,
  ⟨0x094, 0x0, 1, 0x0, 1, .ro, 0x0, 0x0, 0x0, 0x0, 0x0⟩]

/-- RIDGE page registers (12_ridge_lanes.md, R308). -/
def rowsRIDGE : List RegRow := [
  ⟨0x040, 0x0, 1, 0x0, 1, .imm, 0xF, 0x0, 0x0, 0x0, 0x0⟩,
  ⟨0x044, 0x0, 1, 0x0, 1, .nextTick, 0x3, 0x0, 0x80000000, 0x0, 0x0⟩,
  ⟨0x048, 0x0, 1, 0x0, 1, .ro, 0x0, 0x0, 0x0, 0x0, 0x0⟩,
  ⟨0x050, 0x0, 1, 0x0, 1, .ro, 0x0, 0x0, 0x0, 0x0, 0x0⟩,
  ⟨0x054, 0x0, 1, 0x0, 1, .ro, 0x0, 0x0, 0x0, 0x0, 0x0⟩,
  ⟨0x058, 0x0, 1, 0x0, 1, .ro, 0x0, 0x0, 0x0, 0x0, 0x0⟩,
  ⟨0x060, 0x0, 1, 0x0, 1, .ro, 0x0, 0x0, 0x0, 0x0, 0x0⟩,
  ⟨0x064, 0x0, 1, 0x0, 1, .ro, 0x0, 0x0, 0x0, 0x0, 0x0⟩,
  ⟨0x068, 0x0, 1, 0x0, 1, .ro, 0x0, 0x0, 0x0, 0x0, 0x7FFFFFFF⟩,
  ⟨0x070, 0x0, 1, 0x0, 1, .ro, 0x0, 0x0, 0x0, 0x0, 0x0⟩,
  ⟨0x074, 0x0, 1, 0x0, 1, .ro, 0x0, 0x0, 0x0, 0x0, 0x0⟩,
  ⟨0x078, 0x0, 1, 0x0, 1, .ro, 0x0, 0x0, 0x0, 0x0, 0x0⟩,
  ⟨0x07C, 0x0, 1, 0x0, 1, .ro, 0x0, 0x0, 0x0, 0x0, 0x0⟩,
  ⟨0x080, 0x0, 1, 0x0, 1, .ro, 0x0, 0x0, 0x0, 0x0, 0x0⟩,
  ⟨0x084, 0x0, 1, 0x0, 1, .ro, 0x0, 0x0, 0x0, 0x0, 0x0⟩,
  ⟨0x088, 0x0, 1, 0x0, 1, .ro, 0x0, 0x0, 0x0, 0x0, 0x0⟩,
  ⟨0x08C, 0x0, 1, 0x0, 1, .ro, 0x0, 0x0, 0x0, 0x0, 0x0⟩]

/-- RP page registers (12_ridge_lanes.md, R310). -/
def rowsRP : List RegRow := [
  ⟨0x040, 0x0, 1, 0x0, 1, .imm, 0xFF0F0F, 0x0, 0x10, 0x0, 0xA0104⟩,
  ⟨0x044, 0x0, 1, 0x0, 1, .ro, 0x0, 0x0, 0x0, 0x0, 0x0⟩,
  ⟨0x048, 0x0, 1, 0x0, 1, .imm, 0xFF3FFFF, 0x0, 0x0, 0x0, 0x6410060⟩,
  ⟨0x04C, 0x0, 1, 0x0, 1, .ro, 0x0, 0x0, 0x0, 0x0, 0x0⟩,
  ⟨0x050, 0x0, 1, 0x0, 1, .ro, 0x0, 0x0, 0x0, 0x0, 0x0⟩,
  ⟨0x054, 0x0, 1, 0x0, 1, .ro, 0x0, 0x0, 0x0, 0x0, 0x0⟩,
  ⟨0x058, 0x0, 1, 0x0, 1, .ro, 0x0, 0x0, 0x0, 0x0, 0x0⟩,
  ⟨0x05C, 0x0, 1, 0x0, 1, .ro, 0x0, 0x0, 0x0, 0x0, 0x0⟩,
  ⟨0x060, 0x0, 1, 0x0, 1, .ro, 0x0, 0x0, 0x0, 0x0, 0x0⟩,
  ⟨0x064, 0x0, 1, 0x0, 1, .ro, 0x0, 0x0, 0x0, 0x0, 0x0⟩,
  ⟨0x068, 0x0, 1, 0x0, 1, .ro, 0x0, 0x0, 0x0, 0x0, 0x0⟩,
  ⟨0x06C, 0x0, 1, 0x0, 1, .ro, 0x0, 0x0, 0x0, 0x0, 0x0⟩,
  ⟨0x100, 0x4, 16, 0x0, 1, .imm, 0x7FFF, 0x0, 0x0, 0x0, 0x800⟩,
  ⟨0x140, 0x4, 16, 0x0, 1, .ro, 0x0, 0x0, 0x0, 0x0, 0x0⟩,
  ⟨0x400, 0x40, 8, 0x0, 1, .imm, 0xFF0F, 0x0, 0x70, 0x0, 0x100⟩,
  ⟨0x404, 0x40, 8, 0x0, 1, .ro, 0x0, 0x0, 0x0, 0x0, 0x0⟩,
  ⟨0x408, 0x40, 8, 0x0, 1, .imm, 0x1FF, 0x0, 0x0, 0x0, 0x62⟩,
  ⟨0x40C, 0x40, 8, 0x0, 1, .ro, 0x0, 0x0, 0x0, 0x0, 0x0⟩,
  ⟨0x410, 0x40, 8, 0x0, 1, .ro, 0x0, 0x0, 0x0, 0x0, 0x0⟩]

/-- CAL page registers (13_calibration.md, R331). -/
def rowsCAL : List RegRow := [
  ⟨0x040, 0x0, 1, 0x0, 1, .imm, 0xFFFF0007, 0x0, 0x0, 0x0, 0x3C0005⟩,
  ⟨0x044, 0x0, 1, 0x0, 1, .ro, 0x0, 0x0, 0x0, 0x0, 0x0⟩,
  ⟨0x048, 0x0, 1, 0x0, 1, .imm, 0xF, 0x0, 0x80000000, 0x0, 0x0⟩,
  ⟨0x04C, 0x0, 1, 0x0, 1, .ro, 0x0, 0x0, 0x0, 0x0, 0x0⟩,
  ⟨0x050, 0x0, 1, 0x0, 1, .imm, 0xFFFFFFFF, 0x0, 0x0, 0x0, 0x0⟩,
  ⟨0x054, 0x0, 1, 0x0, 1, .imm, 0xFF, 0x0, 0x0, 0x0, 0x0⟩,
  ⟨0x058, 0x0, 1, 0x0, 1, .imm, 0xFF0F01, 0x0, 0x0, 0x0, 0xEB0C00⟩,
  ⟨0x05C, 0x0, 1, 0x0, 1, .imm, 0xFFFFFFFF, 0x0, 0x0, 0x0, 0x0⟩,
  ⟨0x060, 0x4, 4, 0x0, 1, .ro, 0x0, 0x0, 0x0, 0x0, 0x0⟩,
  ⟨0x070, 0x0, 1, 0x0, 1, .ro, 0x0, 0x0, 0x0, 0x0, 0x0⟩,
  ⟨0x074, 0x0, 1, 0x0, 1, .ro, 0x0, 0x0, 0x0, 0x0, 0x0⟩,
  ⟨0x078, 0x0, 1, 0x0, 1, .ro, 0x0, 0x0, 0x0, 0x0, 0x0⟩,
  ⟨0x07C, 0x0, 1, 0x0, 1, .ro, 0x0, 0x0, 0x0, 0x0, 0x0⟩,
  ⟨0x080, 0x4, 8, 0x0, 1, .nextTick, 0xFF, 0x10000, 0x0, 0x0, 0x0⟩,
  ⟨0x0A0, 0x0, 1, 0x0, 1, .imm, 0x137FFF, 0x0, 0x0, 0x0, 0x0⟩,
  ⟨0x0A4, 0x0, 1, 0x0, 1, .ro, 0x0, 0x0, 0x0, 0x0, 0x2020⟩,
  ⟨0x0A8, 0x0, 1, 0x0, 1, .ro, 0x0, 0x0, 0x0, 0x0, 0x0⟩,
  ⟨0x0B0, 0x0, 1, 0x0, 1, .ro, 0x0, 0x0, 0x0, 0x0, 0x0⟩,
  ⟨0x0C0, 0x4, 24, 0x0, 1, .ro, 0x0, 0x0, 0x0, 0x0, 0x0⟩,
  ⟨0x800, 0x4, 256, 0x0, 1, .ro, 0x0, 0x0, 0x0, 0x0, 0x0⟩]

/-- THERM page registers (14_thermal.md, R344). -/
def rowsTHERM : List RegRow := [
  ⟨0x040, 0x0, 1, 0x0, 1, .imm, 0xFFFF1FF, 0x0, 0x0, 0x0, 0x2144032⟩,
  ⟨0x044, 0x0, 1, 0x0, 1, .imm, 0xFFF00FF, 0x0, 0x0, 0x0, 0xFFF000A⟩,
  ⟨0x048, 0x0, 1, 0x0, 1, .ro, 0x0, 0x0, 0x0, 0x0, 0x0⟩,
  ⟨0x04C, 0x0, 1, 0x0, 1, .imm, 0x0, 0x0, 0x1, 0x0, 0x0⟩,
  ⟨0x050, 0x0, 1, 0x0, 1, .ro, 0x0, 0x0, 0x0, 0x0, 0x0⟩,
  ⟨0x054, 0x0, 1, 0x0, 1, .ro, 0x0, 0x0, 0x0, 0x0, 0x0⟩,
  ⟨0x058, 0x4, 3, 0x0, 1, .ro, 0x0, 0x0, 0x0, 0x0, 0x0⟩,
  ⟨0x080, 0x8, 12, 0x0, 1, .imm, 0xFFFFFFFF, 0x0, 0x0, 0x0, 0x0⟩,
  ⟨0x084, 0x8, 12, 0x0, 1, .imm, 0xFFFFFFFF, 0x0, 0x0, 0x0, 0x0⟩,
  ⟨0x100, 0x4, 72, 0x0, 1, .ro, 0x0, 0x0, 0x0, 0x0, 0x0⟩,
  ⟨0x300, 0x4, 72, 0x0, 1, .ro, 0x0, 0x0, 0x0, 0x0, 0x0⟩]

/-- PWR page registers (15_power_holdup.md, R365). -/
def rowsPWR : List RegRow := [
  ⟨0x040, 0x0, 1, 0x0, 1, .imm, 0x13, 0x0, 0x0, 0x0, 0x10⟩,
  ⟨0x044, 0x0, 1, 0x0, 1, .imm, 0xFFF0FFF, 0x0, 0x0, 0x0, 0x258012C⟩,
  ⟨0x048, 0x0, 1, 0x0, 1, .imm, 0x7F, 0x0, 0x0, 0x0, 0xA500A⟩,
  ⟨0x04C, 0x0, 1, 0x0, 1, .ro, 0x0, 0x0, 0x0, 0x0, 0x32⟩,
  ⟨0x050, 0x0, 1, 0x0, 1, .ro, 0x0, 0x0, 0x0, 0x0, 0x0⟩,
  ⟨0x054, 0x0, 1, 0x0, 1, .ro, 0x0, 0x0, 0x0, 0x0, 0x1⟩,
  ⟨0x060, 0x0, 1, 0x0, 1, .imm, 0xFFFFF01, 0x0, 0x80000000, 0x0, 0xF09601⟩,
  ⟨0x064, 0x0, 1, 0x0, 1, .ro, 0x0, 0x0, 0x0, 0x0, 0x0⟩,
  ⟨0x068, 0x0, 1, 0x0, 1, .ro, 0x0, 0x0, 0x0, 0x0, 0x0⟩,
  ⟨0x06C, 0x0, 1, 0x0, 1, .ro, 0x0, 0x0, 0x0, 0x0, 0x0⟩,
  ⟨0x070, 0x0, 1, 0x0, 1, .ro, 0x0, 0x0, 0x0, 0x0, 0x0⟩,
  ⟨0x074, 0x0, 1, 0x0, 1, .ro, 0x0, 0x0, 0x0, 0x0, 0x0⟩,
  ⟨0x078, 0x0, 1, 0x0, 1, .ro, 0x0, 0x0, 0x0, 0x0, 0x0⟩,
  ⟨0x07C, 0x0, 1, 0x0, 1, .ro, 0x0, 0x0, 0x0, 0x0, 0x0⟩]

/-- LAMP page registers (16_management_lamphouse.md, R391). -/
def rowsLAMP : List RegRow := [
  ⟨0x040, 0x0, 1, 0x0, 1, .imm, 0x1, 0x0, 0x0, 0x0, 0x0⟩,
  ⟨0x044, 0x0, 1, 0x0, 1, .ro, 0x0, 0x0, 0x0, 0x0, 0x0⟩,
  ⟨0x048, 0x0, 1, 0x0, 1, .ro, 0x0, 0x0, 0x0, 0x0, 0x0⟩,
  ⟨0x04C, 0x0, 1, 0x0, 1, .ro, 0x0, 0x0, 0x0, 0x0, 0x0⟩,
  ⟨0x050, 0x0, 1, 0x0, 1, .ro, 0x0, 0x0, 0x0, 0x0, 0x0⟩,
  ⟨0x054, 0x0, 1, 0x0, 1, .ro, 0x0, 0x0, 0x0, 0x0, 0x0⟩,
  ⟨0x058, 0x0, 1, 0x0, 1, .ro, 0x0, 0x0, 0x0, 0x0, 0x0⟩,
  ⟨0x05C, 0x0, 1, 0x0, 1, .ro, 0x0, 0x0, 0x0, 0x0, 0x0⟩,
  ⟨0x080, 0x4, 8, 0x0, 1, .shadow, 0x3FF, 0x0, 0x0, 0x0, 0x64⟩,
  ⟨0x100, 0x8, 8, 0x0, 1, .ro, 0x0, 0x0, 0x0, 0x0, 0x0⟩,
  ⟨0x104, 0x8, 8, 0x0, 1, .ro, 0x0, 0x0, 0x0, 0x0, 0x0⟩,
  ⟨0x180, 0x4, 8, 0x0, 1, .ro, 0x0, 0x0, 0x0, 0x0, 0x0⟩,
  ⟨0x400, 0x4, 48, 0x0, 1, .ro, 0x0, 0x0, 0x0, 0x0, 0x0⟩]

/-- MB page registers (16_management_lamphouse.md, R378). -/
def rowsMB : List RegRow := [
  ⟨0x040, 0x0, 1, 0x0, 1, .imm, 0xF01, 0x0, 0x0, 0x0, 0x101⟩,
  ⟨0x044, 0x0, 1, 0x0, 1, .ro, 0x0, 0x0, 0x0, 0x0, 0x58⟩,
  ⟨0x048, 0x0, 1, 0x0, 1, .imm, 0x0, 0xFF, 0x0, 0x0, 0x0⟩,
  ⟨0x04C, 0x0, 1, 0x0, 1, .ro, 0x0, 0x0, 0x0, 0x0, 0x0⟩]

/-- SYS page registers (17_startup_health.md, R405). -/
def rowsSYS : List RegRow := [
  ⟨0x040, 0x0, 1, 0x0, 1, .ro, 0x0, 0x0, 0x0, 0x0, 0x0⟩,
  ⟨0x044, 0x0, 1, 0x0, 1, .imm, 0x0, 0x0, 0xFFFF0003, 0x0, 0x0⟩,
  ⟨0x048, 0x0, 1, 0x0, 1, .imm, 0x0, 0x0, 0x1FFFFFF, 0x0, 0x0⟩,
  ⟨0x04C, 0x0, 1, 0x0, 1, .ro, 0x0, 0x0, 0x0, 0x0, 0x0⟩,
  ⟨0x050, 0x0, 1, 0x0, 1, .ro, 0x0, 0x0, 0x0, 0x0, 0x0⟩,
  ⟨0x054, 0x0, 1, 0x0, 1, .ro, 0x0, 0x0, 0x0, 0x0, 0x0⟩,
  ⟨0x058, 0x0, 1, 0x0, 1, .imm, 0x1FFFFFF, 0x0, 0x0, 0x0, 0x1FFFFFF⟩,
  ⟨0x05C, 0x0, 1, 0x0, 1, .imm, 0x1FFFFFF, 0x0, 0x0, 0x0, 0x1FFFFFF⟩,
  ⟨0x060, 0x0, 1, 0x0, 1, .imm, 0xF2, 0x0, 0x1, 0x0, 0x0⟩,
  ⟨0x064, 0x0, 1, 0x0, 1, .ro, 0x0, 0x0, 0x0, 0x0, 0x0⟩,
  ⟨0x070, 0x0, 1, 0x0, 1, .ro, 0x0, 0x0, 0x0, 0x0, 0x0⟩,
  ⟨0x074, 0x0, 1, 0x0, 1, .ro, 0x0, 0x0, 0x0, 0x0, 0x0⟩,
  ⟨0x400, 0x60, 19, 0x0, 1, .ro, 0x0, 0x0, 0x0, 0x0, 0x7FFFFFFF⟩,
  ⟨0x404, 0x60, 19, 0x0, 1, .ro, 0x0, 0x0, 0x0, 0x0, 0x80000000⟩,
  ⟨0x408, 0x60, 19, 0x4, 16, .ro, 0x0, 0x0, 0x0, 0x0, 0x0⟩]

/-- The page index (R407, Table 18-1): first page, instances, TYPE, header domain, domain of the rest of instance 0,
instances that share one domain, defined interrupt bits, COMMIT_EXT, NO_COMMIT and the registers. -/
def pageTable : List PageRow := [
  ⟨0x000, 1, 0, 0x01, 0, 0, 0, 0x0, false, false, rowsREG⟩,
  ⟨0x014, 1, 0, 0x10, 2, 2, 0, 0x7F, false, false, rowsEXP⟩,
  ⟨0x015, 1, 0, 0x11, 2, 2, 0, 0x1F, false, false, rowsRDO⟩,
  ⟨0x016, 1, 0, 0x12, 2, 2, 0, 0xF0FFF, false, false, rowsTMR⟩,
  ⟨0x017, 1, 0, 0x13, 2, 2, 0, 0x1FF, false, false, rowsTICK⟩,
  ⟨0x018, 1, 0, 0x14, 2, 2, 0, 0x1F, false, false, rowsCLK⟩,
  ⟨0x019, 1, 0, 0x15, 2, 2, 0, 0xF, false, false, rowsENGG⟩,
  ⟨0x200, 192, 0, 0x40, 2, 6, 16, 0x7F, false, false, rowsSH⟩,
  ⟨0x01A, 1, 0, 0x16, 2, 2, 0, 0x3FF, false, false, rowsJOB⟩,
  ⟨0x01B, 1, 0, 0x17, 2, 2, 0, 0x7FF, true, false, rowsDEV⟩,
  ⟨0x01C, 2, 0, 0x18, 2, 2, 0, 0x0, false, false, rowsDEVPATAB⟩,
  ⟨0x01E, 1, 2, 0x18, 2, 2, 0, 0x0, false, true, rowsDEVPATM⟩,
  ⟨0x040, 6, 0, 0x30, 2, 2, 0, 0x0, false, true, rowsDEVLUTAB⟩,
  ⟨0x046, 45, 6, 0x30, 2, 2, 0, 0x0, false, true, rowsDEVLUTM⟩,
  ⟨0x01F, 1, 0, 0x19, 2, 2, 0, 0xF, false, false, rowsMEM⟩,
  ⟨0x020, 1, 0, 0x1A, 2, 2, 0, 0x3F, false, false, rowsRING⟩,
  ⟨0x021, 1, 0, 0x1B, 2, 2, 0, 0xFFFFFFFF, false, false, rowsDMA⟩,
  ⟨0x022, 1, 0, 0x1C, 2, 1, 0, 0xFF, false, false, rowsNVS⟩,
  ⟨0x023, 1, 0, 0x1D, 2, 2, 0, 0xFF, false, false, rowsRIDGE⟩,
  ⟨0x024, 3, 0, 0x1E, 2, 21, 1, 0x1FF, false, false, rowsRP⟩,
  ⟨0x027, 1, 0, 0x1F, 2, 1, 0, 0x7F, false, false, rowsCAL⟩,
  ⟨0x028, 1, 0, 0x20, 0, 0, 0, 0xFF, false, false, rowsTHERM⟩,
  ⟨0x029, 1, 0, 0x21, 0, 0, 0, 0x7FF, false, false, rowsPWR⟩,
  ⟨0x02A, 1, 0, 0x22, 2, 1, 0, 0xFF, false, false, rowsLAMP⟩,
  ⟨0x02B, 1, 0, 0x23, 0, 0, 0, 0x7F, false, false, rowsMB⟩,
  ⟨0x02C, 1, 0, 0x24, 0, 0, 0, 0x1F, false, false, rowsSYS⟩]

/-! Field constants, one per field of the register tables. -/

namespace R

def REG_COMPAT_LEVEL : Fld := ⟨0x40, 0, 8⟩
def REG_COMPAT_MIN : Fld := ⟨0x40, 8, 8⟩
def REG_COMPAT_MAX : Fld := ⟨0x40, 16, 8⟩
def REG_COMPAT_REFUSED : Fld := ⟨0x40, 24, 1⟩
def REG_MODREV_REV : Fld := ⟨0x44, 0, 8⟩
def REG_DIRp_ID (i : Nat) : Fld := ⟨0x400 + 0x4 * i, 0, 32⟩
def EXP_MODE_MODE : Fld := ⟨0x14040, 0, 2⟩
def EXP_STAT_MODE_ACT : Fld := ⟨0x14044, 0, 2⟩
def EXP_STAT_BANK_ACT : Fld := ⟨0x14044, 2, 1⟩
def EXP_STAT_SENSOR_ON : Fld := ⟨0x14044, 3, 1⟩
def EXP_FITCAP_A_FIT_HZ : Fld := ⟨0x14048, 0, 19⟩
def EXP_FITCAP_B_FIT_HZ : Fld := ⟨0x1404C, 0, 19⟩
def EXP_CHECK_CODE_A : Fld := ⟨0x14050, 0, 4⟩
def EXP_CHECK_SLOT_A : Fld := ⟨0x14050, 4, 2⟩
def EXP_CHECK_BUSY_A : Fld := ⟨0x14050, 7, 1⟩
def EXP_CHECK_CODE_B : Fld := ⟨0x14050, 8, 4⟩
def EXP_CHECK_SLOT_B : Fld := ⟨0x14050, 12, 2⟩
def EXP_CHECK_BUSY_B : Fld := ⟨0x14050, 15, 1⟩
def EXP_CHECK_CODE_AREA : Fld := ⟨0x14050, 16, 4⟩
def EXP_AREA_CTRL_P_FIRST : Fld := ⟨0x14060, 0, 6⟩
def EXP_AREA_CTRL_P_LAST : Fld := ⟨0x14060, 8, 6⟩
def EXP_AREA_CTRL_DARK_ROWS : Fld := ⟨0x14060, 16, 1⟩
def EXP_AREA_CTRL_LAMP_MASK : Fld := ⟨0x14060, 24, 8⟩
def EXP_AREA_TIME_START_PH : Fld := ⟨0x14064, 0, 10⟩
def EXP_AREA_TIME_LENGTH : Fld := ⟨0x14064, 10, 22⟩
def EXP_AREA_STRB_DLY_STRB_DLY : Fld := ⟨0x14068, 0, 22⟩
def EXP_AREA_STRB_W_STRB_W : Fld := ⟨0x1406C, 0, 22⟩
def EXP_TRIG_SRC : Fld := ⟨0x14070, 0, 2⟩
def EXP_TRIG_EDGE : Fld := ⟨0x14070, 2, 1⟩
def EXP_TRIG_DLY_DLY : Fld := ⟨0x14074, 0, 24⟩
def EXP_CUT_TICKNO_LO_CUT_TICKNO : Fld := ⟨0x14078, 0, 32⟩
def EXP_CUT_TICKNO_HI_CUT_TICKNO : Fld := ⟨0x1407C, 0, 32⟩
def EXP_SLOTk_MON_TX_TIME (i : Nat) : Fld := ⟨0x14080 + 0x8 * i, 0, 22⟩
def EXP_SLOTk_MON_RD_TIME (i : Nat) : Fld := ⟨0x14084 + 0x8 * i, 0, 22⟩
def EXP_x_SLOTk_CTRL_EN (i j : Nat) : Fld := ⟨0x14100 + 0x40 * i + 0x10 * j, 0, 1⟩
def EXP_x_SLOTk_CTRL_TAP (i j : Nat) : Fld := ⟨0x14100 + 0x40 * i + 0x10 * j, 1, 1⟩
def EXP_x_SLOTk_CTRL_ROWSET (i j : Nat) : Fld := ⟨0x14100 + 0x40 * i + 0x10 * j, 2, 1⟩
def EXP_x_SLOTk_CTRL_LAMP_EN (i j : Nat) : Fld := ⟨0x14100 + 0x40 * i + 0x10 * j, 3, 1⟩
def EXP_x_SLOTk_CTRL_LAMP_CH (i j : Nat) : Fld := ⟨0x14100 + 0x40 * i + 0x10 * j, 4, 3⟩
def EXP_x_SLOTk_CTRL_BANDS (i j : Nat) : Fld := ⟨0x14100 + 0x40 * i + 0x10 * j, 8, 4⟩
def EXP_x_SLOTk_CTRL_PERIOD (i j : Nat) : Fld := ⟨0x14100 + 0x40 * i + 0x10 * j, 12, 6⟩
def EXP_x_SLOTk_CTRL_RANK_FIRST (i j : Nat) : Fld := ⟨0x14100 + 0x40 * i + 0x10 * j, 20, 3⟩
def EXP_x_SLOTk_CTRL_DEPTH_M1 (i j : Nat) : Fld := ⟨0x14100 + 0x40 * i + 0x10 * j, 24, 3⟩
def EXP_x_SLOTk_TIME_START_PH (i j : Nat) : Fld := ⟨0x14104 + 0x40 * i + 0x10 * j, 0, 10⟩
def EXP_x_SLOTk_TIME_LENGTH (i j : Nat) : Fld := ⟨0x14104 + 0x40 * i + 0x10 * j, 10, 22⟩
def EXP_x_SLOTk_STRB_DLY_STRB_DLY (i j : Nat) : Fld := ⟨0x14108 + 0x40 * i + 0x10 * j, 0, 22⟩
def EXP_x_SLOTk_STRB_W_STRB_W (i j : Nat) : Fld := ⟨0x1410C + 0x40 * i + 0x10 * j, 0, 22⟩
def RDO_CTRL_WEB_DIR : Fld := ⟨0x15040, 0, 1⟩
def RDO_TRS_TGT_TGT : Fld := ⟨0x15044, 0, 23⟩
def RDO_STAT_TB_ACT : Fld := ⟨0x15048, 0, 2⟩
def RDO_STAT_N_TICK : Fld := ⟨0x15048, 16, 15⟩
def RDO_TRS_PS : Fld := ⟨0x1504C, 0, 23⟩
def RDO_TRS_MIN_PS : Fld := ⟨0x15050, 0, 23⟩
def RDO_CORR_OFS_EN : Fld := ⟨0x15054, 0, 1⟩
def RDO_CORR_GAIN_EN : Fld := ⟨0x15054, 1, 1⟩
def RDO_CORR_CLAMP_EN : Fld := ⟨0x15054, 2, 1⟩
def RDO_CORR_DARK_EN : Fld := ⟨0x15054, 3, 1⟩
def RDO_CORR_TAPG_EN : Fld := ⟨0x15054, 4, 1⟩
def RDO_AREA_CFG_BIN : Fld := ⟨0x15058, 0, 2⟩
def RDO_AREA_CFG_GAIN0 : Fld := ⟨0x15058, 8, 2⟩
def RDO_ROWS_A_R_N0 : Fld := ⟨0x15060, 0, 8⟩
def RDO_ROWS_A_R_N1 : Fld := ⟨0x15060, 8, 8⟩
def RDO_ROWS_A_R_S0 : Fld := ⟨0x15060, 16, 8⟩
def RDO_ROWS_A_R_S1 : Fld := ⟨0x15060, 24, 8⟩
def RDO_ROWS_B_R_N0 : Fld := ⟨0x15064, 0, 8⟩
def RDO_ROWS_B_R_N1 : Fld := ⟨0x15064, 8, 8⟩
def RDO_ROWS_B_R_S0 : Fld := ⟨0x15064, 16, 8⟩
def RDO_ROWS_B_R_S1 : Fld := ⟨0x15064, 24, 8⟩
def RDO_CAP_A_F_READ : Fld := ⟨0x15068, 0, 19⟩
def RDO_CAP_B_F_READ : Fld := ⟨0x1506C, 0, 19⟩
def RDO_CAP_AREA_F_READ : Fld := ⟨0x15070, 0, 19⟩
def RDO_SLOTk_OFS_OFS (i : Nat) : Fld := ⟨0x15080 + 0x4 * i, 0, 8⟩
def RDO_x_CFG_BIN (i : Nat) : Fld := ⟨0x15100 + 0x40 * i, 0, 2⟩
def RDO_x_CFG_GAIN0 (i : Nat) : Fld := ⟨0x15100 + 0x40 * i, 8, 2⟩
def RDO_x_CFG_GAIN1 (i : Nat) : Fld := ⟨0x15100 + 0x40 * i, 10, 2⟩
def RDO_x_CFG_GAIN2 (i : Nat) : Fld := ⟨0x15100 + 0x40 * i, 12, 2⟩
def RDO_x_CFG_GAIN3 (i : Nat) : Fld := ⟨0x15100 + 0x40 * i, 14, 2⟩
def ENC_CFG_FILT : Fld := ⟨0x16040, 0, 3⟩
def ENC_CFG_ZFILT : Fld := ⟨0x16040, 3, 3⟩
def ENC_CFG_DIR_INV : Fld := ⟨0x16040, 6, 1⟩
def ENC_CFG_ZGATE : Fld := ⟨0x16040, 7, 1⟩
def ENC_STAT_LEVEL : Fld := ⟨0x16044, 0, 3⟩
def ENC_STAT_FAULT : Fld := ⟨0x16044, 3, 3⟩
def TRIG_CFG_TFILT0 : Fld := ⟨0x16048, 0, 8⟩
def TRIG_CFG_TFILT1 : Fld := ⟨0x16048, 8, 8⟩
def TRIG_CFG_TFILT2 : Fld := ⟨0x16048, 16, 8⟩
def TRIG_CFG_TFILT3 : Fld := ⟨0x16048, 24, 8⟩
def TRIG_STAT_ENERGISED : Fld := ⟨0x1604C, 0, 4⟩
def TMR_LINK_LINK : Fld := ⟨0x16050, 0, 3⟩
def TMR_LINK_LINK3 : Fld := ⟨0x16050, 3, 1⟩
def TMR_LINK_SEQ : Fld := ⟨0x16050, 8, 3⟩
def TMR_SNAP_GO : Fld := ⟨0x16054, 0, 1⟩
def SNAP_TICKNO_LO_VAL : Fld := ⟨0x16058, 0, 32⟩
def SNAP_TICKNO_HI_VAL : Fld := ⟨0x1605C, 0, 32⟩
def SNAPk_VAL (i : Nat) : Fld := ⟨0x16080 + 0x4 * i, 0, 32⟩
def CNTk_CTRL_MODE (i : Nat) : Fld := ⟨0x16100 + 0x10 * i, 0, 4⟩
def CNTk_CTRL_CLR_SRC (i : Nat) : Fld := ⟨0x16100 + 0x10 * i, 4, 3⟩
def CNTk_CTRL_EVT_SRC (i : Nat) : Fld := ⟨0x16100 + 0x10 * i, 8, 2⟩
def CNTk_CTRL_EVT_EDGE (i : Nat) : Fld := ⟨0x16100 + 0x10 * i, 10, 1⟩
def CNTk_CTRL_PRESC (i : Nat) : Fld := ⟨0x16100 + 0x10 * i, 16, 8⟩
def CNTk_VAL_VAL (i : Nat) : Fld := ⟨0x16104 + 0x10 * i, 0, 32⟩
def CCj_CTRL_EN (i : Nat) : Fld := ⟨0x16200 + 0x20 * i, 0, 1⟩
def CCj_CTRL_FUNC (i : Nat) : Fld := ⟨0x16200 + 0x20 * i, 1, 1⟩
def CCj_CTRL_CAP_SRC (i : Nat) : Fld := ⟨0x16200 + 0x20 * i, 2, 4⟩
def CCj_CTRL_CAP_EDGE (i : Nat) : Fld := ⟨0x16200 + 0x20 * i, 6, 1⟩
def CCj_CTRL_SWCAP (i : Nat) : Fld := ⟨0x16200 + 0x20 * i, 7, 1⟩
def CCj_VAL_VAL (i : Nat) : Fld := ⟨0x16204 + 0x20 * i, 0, 32⟩
def CCj_VAL_HI_VAL (i : Nat) : Fld := ⟨0x16208 + 0x20 * i, 0, 32⟩
def CCj_CAP_VAL (i : Nat) : Fld := ⟨0x1620C + 0x20 * i, 0, 32⟩
def CCj_CAP_HI_VAL (i : Nat) : Fld := ⟨0x16210 + 0x20 * i, 0, 32⟩
def CCj_STAT_FIRE (i : Nat) : Fld := ⟨0x16214 + 0x20 * i, 0, 1⟩
def CCj_STAT_OVR (i : Nat) : Fld := ⟨0x16214 + 0x20 * i, 1, 1⟩
def CCj_STAT_ARMED (i : Nat) : Fld := ⟨0x16214 + 0x20 * i, 2, 1⟩
def CCj_STAT_FIRE_CNT (i : Nat) : Fld := ⟨0x16214 + 0x20 * i, 8, 8⟩
def CCj_STAT_OVR_CNT (i : Nat) : Fld := ⟨0x16214 + 0x20 * i, 16, 8⟩
def CCj_STAT_CNT_CLR (i : Nat) : Fld := ⟨0x16214 + 0x20 * i, 31, 1⟩
def TICK_CTRL_RATE_CAP : Fld := ⟨0x17040, 0, 19⟩
def TICK_SRC_SRC : Fld := ⟨0x17044, 0, 3⟩
def TICK_SRC_SPAN_LOG2 : Fld := ⟨0x17044, 8, 4⟩
def TICK_DIV_INT_INT : Fld := ⟨0x17048, 0, 16⟩
def TICK_DIV_FRAC_FRAC : Fld := ⟨0x1704C, 0, 32⟩
def TICK_LEAD_LEAD : Fld := ⟨0x17050, 0, 13⟩
def TICK_TIMER_PERIOD_PERIOD : Fld := ⟨0x17054, 0, 21⟩
def TICK_TRIG_SRC : Fld := ⟨0x17058, 0, 2⟩
def TICK_TRIG_EDGE : Fld := ⟨0x17058, 2, 1⟩
def TICK_TRIG_DLY : Fld := ⟨0x17058, 8, 24⟩
def TICK_TRIG_LINES_LINES : Fld := ⟨0x1705C, 0, 24⟩
def TICK_STAT_SRC_ACT : Fld := ⟨0x17060, 0, 3⟩
def TICK_STAT_STOPPED : Fld := ⟨0x17060, 3, 1⟩
def TICK_STAT_RUN_ACT : Fld := ⟨0x17060, 4, 1⟩
def TICK_STAT_LIMIT_READ : Fld := ⟨0x17060, 5, 1⟩
def TICK_STAT_LIMIT_HOST : Fld := ⟨0x17060, 6, 1⟩
def TICK_STAT_LIMIT_THERM : Fld := ⟨0x17060, 7, 1⟩
def TICK_CAP_ACT_HZ : Fld := ⟨0x17064, 0, 19⟩
def TICK_CAP_THERM_HZ : Fld := ⟨0x17068, 0, 19⟩
def TICK_TPRED_T : Fld := ⟨0x1706C, 0, 21⟩
def TICK_NO_LO_TICKNO : Fld := ⟨0x17070, 0, 32⟩
def TICK_NO_HI_TICKNO : Fld := ⟨0x17074, 0, 32⟩
def TICK_SYNC_MODE : Fld := ⟨0x17078, 0, 2⟩
def TICK_SYNC_POL : Fld := ⟨0x17078, 2, 1⟩
def TICK_SYNC_CC : Fld := ⟨0x17078, 4, 4⟩
def TICK_SYNC_W : Fld := ⟨0x17078, 8, 12⟩
def TICK_SYNC_DIV_N : Fld := ⟨0x1707C, 0, 16⟩
def TICK_MON_CTRL_CLR : Fld := ⟨0x17080, 0, 1⟩
def TICK_MON_CTRL_FREEZE : Fld := ⟨0x17080, 1, 1⟩
def TICK_MON_CTRL_WSHIFT : Fld := ⟨0x17080, 4, 4⟩
def TICK_LOST_LO_LOST : Fld := ⟨0x17084, 0, 32⟩
def TICK_LOST_HI_LOST : Fld := ⟨0x17088, 0, 32⟩
def TICK_MONm_MIN_VAL (i : Nat) : Fld := ⟨0x17090 + 0x8 * i, 0, 32⟩
def TICK_MONm_MAX_VAL (i : Nat) : Fld := ⟨0x17094 + 0x8 * i, 0, 32⟩
def TICK_MONm_BINi_COUNT (i j : Nat) : Fld := ⟨0x17100 + 0x40 * i + 0x4 * j, 0, 32⟩
def CLK_CTRL_RELOAD : Fld := ⟨0x18040, 0, 1⟩
def CLK_CTRL_HOP_TO : Fld := ⟨0x18040, 4, 8⟩
def ROW_STAT_P : Fld := ⟨0x18060, 0, 10⟩
def ROW_STAT_HOLD_Q : Fld := ⟨0x18060, 10, 10⟩
def ROW_FU_HZ : Fld := ⟨0x18064, 0, 26⟩
def CLK_GATEw_RUN (i : Nat) : Fld := ⟨0x18080 + 0x4 * i, 0, 32⟩
def PLL0_CTRL_EN : Fld := ⟨0x18100, 0, 1⟩
def PLL0_CTRL_LOCK_N : Fld := ⟨0x18100, 4, 4⟩
def PLL0_CTRL_LOCK_W : Fld := ⟨0x18100, 8, 2⟩
def PLLi_CTRL_EN (i : Nat) : Fld := ⟨0x18110 + 0x10 * i, 0, 1⟩
def PLLi_CTRL_LOCK_N (i : Nat) : Fld := ⟨0x18110 + 0x10 * i, 4, 4⟩
def PLLi_CTRL_LOCK_W (i : Nat) : Fld := ⟨0x18110 + 0x10 * i, 8, 2⟩
def PLLi_STAT_LOCK (i : Nat) : Fld := ⟨0x18104 + 0x10 * i, 0, 1⟩
def PLLi_STAT_NO_BAND (i : Nat) : Fld := ⟨0x18104 + 0x10 * i, 1, 1⟩
def PLLi_STAT_HOP (i : Nat) : Fld := ⟨0x18104 + 0x10 * i, 2, 1⟩
def PLLi_STAT_HOLD (i : Nat) : Fld := ⟨0x18104 + 0x10 * i, 3, 1⟩
def PLLi_STAT_SPUR_NEAR (i : Nat) : Fld := ⟨0x18104 + 0x10 * i, 4, 1⟩
def PLLi_STAT_BAND (i : Nat) : Fld := ⟨0x18104 + 0x10 * i, 5, 3⟩
def PLLi_STAT_REF_ACT (i : Nat) : Fld := ⟨0x18104 + 0x10 * i, 8, 2⟩
def PLLi_RATIO_RATIO (i : Nat) : Fld := ⟨0x18108 + 0x10 * i, 0, 32⟩
def BANDi_e_W0_VCO_LO (i j : Nat) : Fld := ⟨0x18400 + 0x40 * i + 0x8 * j, 0, 16⟩
def BANDi_e_W0_VCO_HI (i j : Nat) : Fld := ⟨0x18400 + 0x40 * i + 0x8 * j, 16, 16⟩
def BANDi_e_W1_REF (i j : Nat) : Fld := ⟨0x18404 + 0x40 * i + 0x8 * j, 0, 2⟩
def BANDi_e_W1_COARSE (i j : Nat) : Fld := ⟨0x18404 + 0x40 * i + 0x8 * j, 2, 6⟩
def BANDi_e_W1_CP (i j : Nat) : Fld := ⟨0x18404 + 0x40 * i + 0x8 * j, 8, 4⟩
def BANDi_e_W1_LF (i j : Nat) : Fld := ⟨0x18404 + 0x40 * i + 0x8 * j, 12, 3⟩
def BANDi_e_W1_VALID (i j : Nat) : Fld := ⟨0x18404 + 0x40 * i + 0x8 * j, 15, 1⟩
def ENGG_CTRL_COURSE_PWR : Fld := ⟨0x19040, 0, 12⟩
def ENGG_STAT_COURSE_ON : Fld := ⟨0x19044, 0, 12⟩
def ENGG_STAT_COURSE_USED : Fld := ⟨0x19044, 16, 12⟩
def ENGG_CLK_STEP_HOST : Fld := ⟨0x19048, 0, 2⟩
def ENGG_CLK_WDOG : Fld := ⟨0x19048, 4, 8⟩
def ENGG_CLK_THERM_STEP : Fld := ⟨0x1904C, 0, 24⟩
def ENGG_CLK_ACT_STEP : Fld := ⟨0x19050, 0, 24⟩
def ENGG_KCAP_A_HZ : Fld := ⟨0x19054, 0, 19⟩
def ENGG_KCAP_B_HZ : Fld := ⟨0x19058, 0, 19⟩
def ENGG_FAULT_SUMw_SHINGLE (i : Nat) : Fld := ⟨0x19060 + 0x4 * i, 0, 32⟩
def ENGG_INT_SUMw_SHINGLE (i : Nat) : Fld := ⟨0x19080 + 0x4 * i, 0, 32⟩
def ENGG_x_ENTRY_WORD (i : Nat) : Fld := ⟨0x19100 + 0x100 * i, 0, 12⟩
def ENGG_x_INIT_WORD (i : Nat) : Fld := ⟨0x19104 + 0x100 * i, 0, 12⟩
def ENGG_x_INIT_EN (i : Nat) : Fld := ⟨0x19104 + 0x100 * i, 31, 1⟩
def ENGG_x_KCYC_CYC (i : Nat) : Fld := ⟨0x19108 + 0x100 * i, 0, 16⟩
def ENGG_x_SMASKw_SHINGLE (i j : Nat) : Fld := ⟨0x19110 + 0x100 * i + 0x4 * j, 0, 32⟩
def ENGG_x_LWINk_W0_BASE (i j : Nat) : Fld := ⟨0x19140 + 0x100 * i + 0x8 * j, 0, 18⟩
def ENGG_x_LWINk_W0_MODE (i j : Nat) : Fld := ⟨0x19140 + 0x100 * i + 0x8 * j, 24, 2⟩
def ENGG_x_LWINk_W1_SIZE (i j : Nat) : Fld := ⟨0x19144 + 0x100 * i + 0x8 * j, 0, 18⟩
def ENGG_x_LWINk_W1_PRIV (i j : Nat) : Fld := ⟨0x19144 + 0x100 * i + 0x8 * j, 31, 1⟩
def SH_CTRL_RESTART (u : Nat) : Fld := ⟨0x200040 + 0x1000 * u, 0, 1⟩
def SH_CTRL_HALT (u : Nat) : Fld := ⟨0x200040 + 0x1000 * u, 1, 1⟩
def SH_CTRL_MON_CLR (u : Nat) : Fld := ⟨0x200040 + 0x1000 * u, 8, 1⟩
def SH_CTRL_MON_FREEZE (u : Nat) : Fld := ⟨0x200040 + 0x1000 * u, 9, 1⟩
def SH_CTRL_WSHIFT (u : Nat) : Fld := ⟨0x200040 + 0x1000 * u, 12, 4⟩
def SH_STAT_STATE (u : Nat) : Fld := ⟨0x200044 + 0x1000 * u, 0, 3⟩
def SH_STAT_BANK (u : Nat) : Fld := ⟨0x200044 + 0x1000 * u, 3, 1⟩
def SH_STAT_INTAKE_OCC (u : Nat) : Fld := ⟨0x200044 + 0x1000 * u, 4, 3⟩
def SH_STAT_PROOF_OCC (u : Nat) : Fld := ⟨0x200044 + 0x1000 * u, 8, 4⟩
def SH_STAT_OUT_OCC (u : Nat) : Fld := ⟨0x200044 + 0x1000 * u, 12, 3⟩
def SH_STAT_STEP (u : Nat) : Fld := ⟨0x200044 + 0x1000 * u, 16, 2⟩
def SH_FAULT_CODE (u : Nat) : Fld := ⟨0x200048 + 0x1000 * u, 0, 4⟩
def SH_FAULT_PC (u : Nat) : Fld := ⟨0x200048 + 0x1000 * u, 16, 12⟩
def SH_FAULT_BANK (u : Nat) : Fld := ⟨0x200048 + 0x1000 * u, 28, 1⟩
def SH_FAULT_ADDR_ADDR (u : Nat) : Fld := ⟨0x20004C + 0x1000 * u, 0, 32⟩
def SH_DONE_LO_TICKNO (u : Nat) : Fld := ⟨0x200050 + 0x1000 * u, 0, 32⟩
def SH_DONE_HI_TICKNO (u : Nat) : Fld := ⟨0x200054 + 0x1000 * u, 0, 32⟩
def SH_CYC_LAST_CYC (u : Nat) : Fld := ⟨0x200058 + 0x1000 * u, 0, 32⟩
def SH_OVR_CNT_COUNT (u : Nat) : Fld := ⟨0x200060 + 0x1000 * u, 0, 32⟩
def SH_PLATE_CNT_COUNT (u : Nat) : Fld := ⟨0x200064 + 0x1000 * u, 0, 32⟩
def SH_OFULL_CNT_COUNT (u : Nat) : Fld := ⟨0x200068 + 0x1000 * u, 0, 32⟩
def SH_RDROP_CNT_COUNT (u : Nat) : Fld := ⟨0x20006C + 0x1000 * u, 0, 32⟩
def SH_WDOG_CNT_COUNT (u : Nat) : Fld := ⟨0x200070 + 0x1000 * u, 0, 32⟩
def SH_MONm_MIN_VAL (u i : Nat) : Fld := ⟨0x200090 + 0x1000 * u + 0x8 * i, 0, 32⟩
def SH_MONm_MAX_VAL (u i : Nat) : Fld := ⟨0x200094 + 0x1000 * u + 0x8 * i, 0, 32⟩
def SH_MONm_BINi_COUNT (u i j : Nat) : Fld := ⟨0x200100 + 0x1000 * u + 0x40 * i + 0x4 * j, 0, 32⟩
def JOB_CTRL_START : Fld := ⟨0x1A040, 0, 1⟩
def JOB_CTRL_STOP : Fld := ⟨0x1A040, 1, 1⟩
def JOB_CTRL_ARM : Fld := ⟨0x1A040, 2, 1⟩
def JOB_CTRL_CANCEL : Fld := ⟨0x1A040, 3, 1⟩
def JOB_CTRL_BANK : Fld := ⟨0x1A040, 4, 1⟩
def JOB_CTRL_SPLICE_EN : Fld := ⟨0x1A040, 5, 1⟩
def JOB_CTRL_CHAIN_POS : Fld := ⟨0x1A040, 16, 16⟩
def JOB_STAT_RUNNING : Fld := ⟨0x1A044, 0, 1⟩
def JOB_STAT_ACT_BANK : Fld := ⟨0x1A044, 1, 1⟩
def JOB_STAT_ARMED : Fld := ⟨0x1A044, 2, 1⟩
def JOB_STAT_STAGED : Fld := ⟨0x1A044, 3, 1⟩
def JOB_STAT_DEFERRED : Fld := ⟨0x1A044, 4, 1⟩
def JOB_STAT_OLD_BUSY : Fld := ⟨0x1A044, 5, 1⟩
def JOB_STAT_REFUSE : Fld := ⟨0x1A044, 8, 4⟩
def JOB_TREQ_LO_TICKNO : Fld := ⟨0x1A048, 0, 32⟩
def JOB_TREQ_HI_TICKNO : Fld := ⟨0x1A04C, 0, 32⟩
def JOB_SPLICE_LO_TICKNO : Fld := ⟨0x1A050, 0, 32⟩
def JOB_SPLICE_HI_TICKNO : Fld := ⟨0x1A054, 0, 32⟩
def JOB_SW_TICKNO_LO_TICKNO : Fld := ⟨0x1A058, 0, 32⟩
def JOB_SW_TICKNO_HI_TICKNO : Fld := ⟨0x1A05C, 0, 32⟩
def JOB_REPEAT_REPEAT : Fld := ⟨0x1A060, 0, 32⟩
def JOB_LINE_LINE : Fld := ⟨0x1A064, 0, 24⟩
def JOB_REPLEN_LINES : Fld := ⟨0x1A068, 0, 24⟩
def JOB_LEARN_STAT_STATE : Fld := ⟨0x1A06C, 0, 3⟩
def JOB_LEARN_STAT_REPEATS : Fld := ⟨0x1A06C, 8, 8⟩
def JOB_LEARN_STAT_SHORT : Fld := ⟨0x1A06C, 16, 16⟩
def JOB_PROOF_ACT_BASE : Fld := ⟨0x1A070, 0, 25⟩
def JOB_x_ID_JOB_ID (i : Nat) : Fld := ⟨0x1A100 + 0x100 * i, 0, 16⟩
def JOB_x_CFG_REP_SRC (i : Nat) : Fld := ⟨0x1A104 + 0x100 * i, 0, 2⟩
def JOB_x_CFG_MARK_SRC (i : Nat) : Fld := ⟨0x1A104 + 0x100 * i, 2, 2⟩
def JOB_x_CFG_MARK_EDGE (i : Nat) : Fld := ⟨0x1A104 + 0x100 * i, 4, 1⟩
def JOB_x_CFG_WRAP (i : Nat) : Fld := ⟨0x1A104 + 0x100 * i, 5, 1⟩
def JOB_x_CFG_PROOF_SLOT (i : Nat) : Fld := ⟨0x1A104 + 0x100 * i, 6, 2⟩
def JOB_x_CFG_REG_EN (i : Nat) : Fld := ⟨0x1A104 + 0x100 * i, 8, 1⟩
def JOB_x_CFG_KEEP_REG (i : Nat) : Fld := ⟨0x1A104 + 0x100 * i, 9, 1⟩
def JOB_x_REPEAT_REPEAT_LINES (i : Nat) : Fld := ⟨0x1A108 + 0x100 * i, 0, 24⟩
def JOB_x_REPTOL_REP_TOL (i : Nat) : Fld := ⟨0x1A10C + 0x100 * i, 0, 16⟩
def JOB_x_REPTOL_REP_DLY (i : Nat) : Fld := ⟨0x1A10C + 0x100 * i, 16, 16⟩
def JOB_x_PROOF_BASE (i : Nat) : Fld := ⟨0x1A110 + 0x100 * i, 0, 25⟩
def JOB_x_PROOF_LINES_LINES (i : Nat) : Fld := ⟨0x1A114 + 0x100 * i, 0, 24⟩
def JOB_x_REGQ_CONF_MIN (i : Nat) : Fld := ⟨0x1A118 + 0x100 * i, 0, 8⟩
def JOB_x_REGQ_QUAL_N (i : Nat) : Fld := ⟨0x1A118 + 0x100 * i, 8, 8⟩
def JOB_x_REGQ_COAST_N (i : Nat) : Fld := ⟨0x1A118 + 0x100 * i, 16, 16⟩
def JOB_x_OWN_OWN_LO (i : Nat) : Fld := ⟨0x1A11C + 0x100 * i, 0, 15⟩
def JOB_x_OWN_OWN_HI (i : Nat) : Fld := ⟨0x1A11C + 0x100 * i, 16, 15⟩
def JOB_x_STAGE_READY (i : Nat) : Fld := ⟨0x1A120 + 0x100 * i, 0, 1⟩
def JOB_x_STAGE_CH_CH (i : Nat) : Fld := ⟨0x1A124 + 0x100 * i, 0, 32⟩
def JOB_x_LEARN_EN (i : Nat) : Fld := ⟨0x1A128 + 0x100 * i, 0, 1⟩
def JOB_x_LEARN_ADOPT (i : Nat) : Fld := ⟨0x1A128 + 0x100 * i, 1, 1⟩
def JOB_x_LEARN_N_M1 (i : Nat) : Fld := ⟨0x1A128 + 0x100 * i, 4, 4⟩
def JOB_x_LEARN_SEV_MAX (i : Nat) : Fld := ⟨0x1A128 + 0x100 * i, 8, 8⟩
def JOB_x_LACC_BASE (i : Nat) : Fld := ⟨0x1A12C + 0x100 * i, 0, 25⟩
def JOB_x_FILTk_CLASS (i j : Nat) : Fld := ⟨0x1A140 + 0x100 * i + 0x4 * j, 0, 8⟩
def JOB_x_FILTk_MIN_SEV (i j : Nat) : Fld := ⟨0x1A140 + 0x100 * i + 0x4 * j, 8, 8⟩
def JOB_x_FILTk_MIN_AREA (i j : Nat) : Fld := ⟨0x1A140 + 0x100 * i + 0x4 * j, 16, 12⟩
def JOB_x_FILTk_ACTION (i j : Nat) : Fld := ⟨0x1A140 + 0x100 * i + 0x4 * j, 28, 2⟩
def JOB_FILTk_CNT_W0_REPORTED (i : Nat) : Fld := ⟨0x1A300 + 0x8 * i, 0, 32⟩
def JOB_FILTk_CNT_W1_SUPPRESSED (i : Nat) : Fld := ⟨0x1A304 + 0x8 * i, 0, 32⟩
def JOB_REGs_CONF (i : Nat) : Fld := ⟨0x1A800 + 0x4 * i, 0, 8⟩
def JOB_REGs_ALONG (i : Nat) : Fld := ⟨0x1A800 + 0x4 * i, 8, 8⟩
def JOB_REGs_ACROSS (i : Nat) : Fld := ⟨0x1A800 + 0x4 * i, 16, 13⟩
def JOB_REGs_STATE (i : Nat) : Fld := ⟨0x1A800 + 0x4 * i, 29, 2⟩
def DEV_STAT_IN_OCC : Fld := ⟨0x1B040, 0, 5⟩
def DEV_STAT_TURN : Fld := ⟨0x1B040, 8, 4⟩
def DEV_STAT_BUSY_MEM : Fld := ⟨0x1B040, 12, 1⟩
def DEV_STATS_DROP_COUNT : Fld := ⟨0x1B044, 0, 32⟩
def DEVx_CTRL_STATS_EN (i : Nat) : Fld := ⟨0x1B100 + 0x40 * i, 1, 1⟩
def DEVx_BLACK01_BLACK0 (i : Nat) : Fld := ⟨0x1B110 + 0x40 * i, 0, 15⟩
def DEVx_BLACK01_BLACK1 (i : Nat) : Fld := ⟨0x1B110 + 0x40 * i, 16, 15⟩
def DEVx_BLACK23_BLACK2 (i : Nat) : Fld := ⟨0x1B114 + 0x40 * i, 0, 15⟩
def DEVx_BLACK23_BLACK3 (i : Nat) : Fld := ⟨0x1B114 + 0x40 * i, 16, 15⟩
def DEVx_WB01_WB0 (i : Nat) : Fld := ⟨0x1B118 + 0x40 * i, 0, 16⟩
def DEVx_WB01_WB1 (i : Nat) : Fld := ⟨0x1B118 + 0x40 * i, 16, 16⟩
def DEVx_WB23_WB2 (i : Nat) : Fld := ⟨0x1B11C + 0x40 * i, 0, 16⟩
def DEVx_WB23_WB3 (i : Nat) : Fld := ⟨0x1B11C + 0x40 * i, 16, 16⟩
def DEVx_M0_01_M00 (i : Nat) : Fld := ⟨0x1B120 + 0x40 * i, 0, 16⟩
def DEVx_M0_01_M01 (i : Nat) : Fld := ⟨0x1B120 + 0x40 * i, 16, 16⟩
def DEVx_M0_23_M02 (i : Nat) : Fld := ⟨0x1B124 + 0x40 * i, 0, 16⟩
def DEVx_M0_23_M03 (i : Nat) : Fld := ⟨0x1B124 + 0x40 * i, 16, 16⟩
def DEVx_M1_01_M10 (i : Nat) : Fld := ⟨0x1B128 + 0x40 * i, 0, 16⟩
def DEVx_M1_01_M11 (i : Nat) : Fld := ⟨0x1B128 + 0x40 * i, 16, 16⟩
def DEVx_M1_23_M12 (i : Nat) : Fld := ⟨0x1B12C + 0x40 * i, 0, 16⟩
def DEVx_M1_23_M13 (i : Nat) : Fld := ⟨0x1B12C + 0x40 * i, 16, 16⟩
def DEVx_M2_01_M20 (i : Nat) : Fld := ⟨0x1B130 + 0x40 * i, 0, 16⟩
def DEVx_M2_01_M21 (i : Nat) : Fld := ⟨0x1B130 + 0x40 * i, 16, 16⟩
def DEVx_M2_23_M22 (i : Nat) : Fld := ⟨0x1B134 + 0x40 * i, 0, 16⟩
def DEVx_M2_23_M23 (i : Nat) : Fld := ⟨0x1B134 + 0x40 * i, 16, 16⟩
def MCm_CTRL_EN (i : Nat) : Fld := ⟨0x1B440 + 0x40 * i, 0, 1⟩
def MCm_CTRL_STATS_EN (i : Nat) : Fld := ⟨0x1B440 + 0x40 * i, 1, 1⟩
def MCm_CTRL_PORT (i : Nat) : Fld := ⟨0x1B440 + 0x40 * i, 2, 2⟩
def MCm_CTRL_VC (i : Nat) : Fld := ⟨0x1B440 + 0x40 * i, 4, 4⟩
def MCm_CTRL_FMT (i : Nat) : Fld := ⟨0x1B440 + 0x40 * i, 8, 2⟩
def MCm_SIZE_WIDTH (i : Nat) : Fld := ⟨0x1B444 + 0x40 * i, 0, 14⟩
def MCm_SIZE_LINES_CFG (i : Nat) : Fld := ⟨0x1B444 + 0x40 * i, 16, 16⟩
def MCm_RING_BASE (i : Nat) : Fld := ⟨0x1B448 + 0x40 * i, 0, 25⟩
def MCm_SLOTS_SLOTS (i : Nat) : Fld := ⟨0x1B44C + 0x40 * i, 0, 5⟩
def MCm_BLACK01_BLACK0 (i : Nat) : Fld := ⟨0x1B450 + 0x40 * i, 0, 15⟩
def MCm_BLACK01_BLACK1 (i : Nat) : Fld := ⟨0x1B450 + 0x40 * i, 16, 15⟩
def MCm_BLACK23_BLACK2 (i : Nat) : Fld := ⟨0x1B454 + 0x40 * i, 0, 15⟩
def MCm_BLACK23_BLACK3 (i : Nat) : Fld := ⟨0x1B454 + 0x40 * i, 16, 15⟩
def MCm_WB01_WB0 (i : Nat) : Fld := ⟨0x1B458 + 0x40 * i, 0, 16⟩
def MCm_WB01_WB1 (i : Nat) : Fld := ⟨0x1B458 + 0x40 * i, 16, 16⟩
def MCm_WB23_WB2 (i : Nat) : Fld := ⟨0x1B45C + 0x40 * i, 0, 16⟩
def MCm_WB23_WB3 (i : Nat) : Fld := ⟨0x1B45C + 0x40 * i, 16, 16⟩
def MCm_M0_01_M00 (i : Nat) : Fld := ⟨0x1B460 + 0x40 * i, 0, 16⟩
def MCm_M0_01_M01 (i : Nat) : Fld := ⟨0x1B460 + 0x40 * i, 16, 16⟩
def MCm_M0_23_M02 (i : Nat) : Fld := ⟨0x1B464 + 0x40 * i, 0, 16⟩
def MCm_M0_23_M03 (i : Nat) : Fld := ⟨0x1B464 + 0x40 * i, 16, 16⟩
def MCm_M1_01_M10 (i : Nat) : Fld := ⟨0x1B468 + 0x40 * i, 0, 16⟩
def MCm_M1_01_M11 (i : Nat) : Fld := ⟨0x1B468 + 0x40 * i, 16, 16⟩
def MCm_M1_23_M12 (i : Nat) : Fld := ⟨0x1B46C + 0x40 * i, 0, 16⟩
def MCm_M1_23_M13 (i : Nat) : Fld := ⟨0x1B46C + 0x40 * i, 16, 16⟩
def MCm_M2_01_M20 (i : Nat) : Fld := ⟨0x1B470 + 0x40 * i, 0, 16⟩
def MCm_M2_01_M21 (i : Nat) : Fld := ⟨0x1B470 + 0x40 * i, 16, 16⟩
def MCm_M2_23_M22 (i : Nat) : Fld := ⟨0x1B474 + 0x40 * i, 0, 16⟩
def MCm_M2_23_M23 (i : Nat) : Fld := ⟨0x1B474 + 0x40 * i, 16, 16⟩
def MCm_MSTAT_WAITING (i : Nat) : Fld := ⟨0x1B478 + 0x40 * i, 0, 5⟩
def MCm_MSTAT_OPEN (i : Nat) : Fld := ⟨0x1B478 + 0x40 * i, 8, 1⟩
def MCm_MSTAT_DEVELOPING (i : Nat) : Fld := ⟨0x1B478 + 0x40 * i, 9, 1⟩
def DEV_MCm_CNTk_COUNT (i j : Nat) : Fld := ⟨0x1B820 + 0x20 * i + 0x4 * j, 0, 32⟩
def DEV_CRC_VCv_COUNT (i : Nat) : Fld := ⟨0x1BA00 + 0x4 * i, 0, 32⟩
def DEV_CRC_DTt_COUNT (i : Nat) : Fld := ⟨0x1BA40 + 0x4 * i, 0, 32⟩
def PATk_W0_C0 (u i : Nat) : Fld := ⟨0x1C400 + 0x1000 * u + 0xC * i, 0, 15⟩
def PATk_W0_C1 (u i : Nat) : Fld := ⟨0x1C400 + 0x1000 * u + 0xC * i, 16, 15⟩
def PATk_W1_L0 (u i : Nat) : Fld := ⟨0x1C404 + 0x1000 * u + 0xC * i, 0, 24⟩
def PATk_W1_HCH (u i : Nat) : Fld := ⟨0x1C404 + 0x1000 * u + 0xC * i, 24, 3⟩
def PATk_W1_HIST (u i : Nat) : Fld := ⟨0x1C404 + 0x1000 * u + 0xC * i, 27, 1⟩
def PATk_W1_EN (u i : Nat) : Fld := ⟨0x1C404 + 0x1000 * u + 0xC * i, 31, 1⟩
def PATk_W2_L1 (u i : Nat) : Fld := ⟨0x1C408 + 0x1000 * u + 0xC * i, 0, 24⟩
def PATMk_W0_C0 (i : Nat) : Fld := ⟨0x1E400 + 0xC * i, 0, 15⟩
def PATMk_W0_C1 (i : Nat) : Fld := ⟨0x1E400 + 0xC * i, 16, 15⟩
def PATMk_W1_L0 (i : Nat) : Fld := ⟨0x1E404 + 0xC * i, 0, 24⟩
def PATMk_W1_HCH (i : Nat) : Fld := ⟨0x1E404 + 0xC * i, 24, 3⟩
def PATMk_W1_HIST (i : Nat) : Fld := ⟨0x1E404 + 0xC * i, 27, 1⟩
def PATMk_W1_EN (i : Nat) : Fld := ⟨0x1E404 + 0xC * i, 31, 1⟩
def PATMk_W2_L1 (i : Nat) : Fld := ⟨0x1E408 + 0xC * i, 0, 24⟩
def PATMk_W2_CTX (i : Nat) : Fld := ⟨0x1E408 + 0xC * i, 24, 4⟩
def T_pair_T0 (u i : Nat) : Fld := ⟨0x40800 + 0x1000 * u + 0x4 * i, 0, 12⟩
def T_pair_T1 (u i : Nat) : Fld := ⟨0x40800 + 0x1000 * u + 0x4 * i, 16, 12⟩
def TM_pair_T0 (u i : Nat) : Fld := ⟨0x46800 + 0x1000 * u + 0x4 * i, 0, 12⟩
def TM_pair_T1 (u i : Nat) : Fld := ⟨0x46800 + 0x1000 * u + 0x4 * i, 16, 12⟩
def MEM_CTRL_SCRUB_EN : Fld := ⟨0x1F040, 0, 1⟩
def MEM_CTRL_SCRUB_HRS : Fld := ⟨0x1F040, 8, 8⟩
def MEM_STAT_READY : Fld := ⟨0x1F044, 0, 1⟩
def MEM_STAT_REFRESH_2X : Fld := ⟨0x1F044, 1, 1⟩
def MEM_STAT_SCRUBBING : Fld := ⟨0x1F044, 2, 1⟩
def MEM_STAT_DDR_TC : Fld := ⟨0x1F044, 8, 8⟩
def MEM_BW_x_LOAD (i : Nat) : Fld := ⟨0x1F048 + 0x4 * i, 0, 20⟩
def MEM_BW_x_OVER (i : Nat) : Fld := ⟨0x1F048 + 0x4 * i, 31, 1⟩
def MEM_BW_RES_RES : Fld := ⟨0x1F050, 0, 20⟩
def MEM_BW_LIMIT_LIMIT : Fld := ⟨0x1F054, 0, 20⟩
def MEM_CE_CNT_COUNT : Fld := ⟨0x1F060, 0, 32⟩
def MEM_UE_CNT_COUNT : Fld := ⟨0x1F064, 0, 32⟩
def MEM_ERR_ADDR_LO_ADDR : Fld := ⟨0x1F068, 0, 32⟩
def MEM_ERR_ADDR_HI_ADDR : Fld := ⟨0x1F06C, 0, 8⟩
def MEM_ERR_ADDR_HI_VALID : Fld := ⟨0x1F06C, 31, 1⟩
def MEM_SCRUB_POS_POS : Fld := ⟨0x1F070, 0, 25⟩
def RING_WM_LO_TICKNO : Fld := ⟨0x20040, 0, 32⟩
def RING_WM_HI_TICKNO : Fld := ⟨0x20044, 0, 32⟩
def RING_RAW_CTRL_DIV : Fld := ⟨0x20048, 0, 16⟩
def RINGr_BASE_BASE (i : Nat) : Fld := ⟨0x20100 + 0x20 * i, 0, 25⟩
def RINGr_SIZE_SIZE (i : Nat) : Fld := ⟨0x20104 + 0x20 * i, 0, 25⟩
def RINGr_WR_OFS (i : Nat) : Fld := ⟨0x20108 + 0x20 * i, 0, 32⟩
def RINGr_SENT_OFS (i : Nat) : Fld := ⟨0x2010C + 0x20 * i, 0, 32⟩
def RINGr_RD_OFS (i : Nat) : Fld := ⟨0x20110 + 0x20 * i, 0, 32⟩
def RINGr_STAT_OVF (i : Nat) : Fld := ⟨0x20114 + 0x20 * i, 0, 1⟩
def RINGr_STAT_RD_BAD (i : Nat) : Fld := ⟨0x20114 + 0x20 * i, 1, 1⟩
def RINGr_STAT_DROP (i : Nat) : Fld := ⟨0x20114 + 0x20 * i, 8, 24⟩
def DMA_FENCE_GO : Fld := ⟨0x21040, 0, 1⟩
def DMA_FENCE_PEND : Fld := ⟨0x21040, 1, 1⟩
def DMA_FENCE_MASK_CH : Fld := ⟨0x21044, 0, 32⟩
def DMA_BCASTw_SHINGLE (i : Nat) : Fld := ⟨0x21050 + 0x4 * i, 0, 32⟩
def CHn_CTRL_EN (i : Nat) : Fld := ⟨0x21800 + 0x40 * i, 0, 1⟩
def CHn_CTRL_MODE (i : Nat) : Fld := ⟨0x21800 + 0x40 * i, 1, 1⟩
def CHn_CTRL_STREAM (i : Nat) : Fld := ⟨0x21800 + 0x40 * i, 2, 3⟩
def CHn_CTRL_PRIO (i : Nat) : Fld := ⟨0x21800 + 0x40 * i, 5, 2⟩
def CHn_CTRL_VC (i : Nat) : Fld := ⟨0x21800 + 0x40 * i, 8, 4⟩
def CHn_CTRL_RESUME (i : Nat) : Fld := ⟨0x21800 + 0x40 * i, 12, 1⟩
def CHn_STAT_STATE (i : Nat) : Fld := ⟨0x21804 + 0x40 * i, 0, 3⟩
def CHn_STAT_ERR (i : Nat) : Fld := ⟨0x21804 + 0x40 * i, 4, 4⟩
def CHn_STAT_TAIL_BAD (i : Nat) : Fld := ⟨0x21804 + 0x40 * i, 8, 1⟩
def CHn_STAT_ERR_CNT (i : Nat) : Fld := ⟨0x21804 + 0x40 * i, 16, 8⟩
def CHn_STAT_IRQ_CNT (i : Nat) : Fld := ⟨0x21804 + 0x40 * i, 24, 8⟩
def CHn_RING_LO_ADDR (i : Nat) : Fld := ⟨0x21808 + 0x40 * i, 0, 32⟩
def CHn_RING_HI_ADDR (i : Nat) : Fld := ⟨0x2180C + 0x40 * i, 0, 8⟩
def CHn_RING_SIZE_SIZE (i : Nat) : Fld := ⟨0x21810 + 0x40 * i, 0, 9⟩
def CHn_HEAD_PTR (i : Nat) : Fld := ⟨0x21814 + 0x40 * i, 0, 9⟩
def CHn_TAIL_PTR (i : Nat) : Fld := ⟨0x21818 + 0x40 * i, 0, 9⟩
def CHn_DONE_CNT_COUNT (i : Nat) : Fld := ⟨0x2181C + 0x40 * i, 0, 32⟩
def NVS_CMD_OP : Fld := ⟨0x22040, 0, 4⟩
def NVS_CMD_KEEP_ORIGIN : Fld := ⟨0x22040, 4, 1⟩
def NVS_CMD_GO : Fld := ⟨0x22040, 31, 1⟩
def NVS_CMD_STAT_BUSY : Fld := ⟨0x22044, 0, 1⟩
def NVS_CMD_STAT_RESULT : Fld := ⟨0x22044, 4, 4⟩
def NVS_CMD_STAT_COUNT : Fld := ⟨0x22044, 8, 24⟩
def NVS_ADDR_LO_ADDR : Fld := ⟨0x22048, 0, 32⟩
def NVS_ADDR_HI_ADDR : Fld := ⟨0x2204C, 0, 8⟩
def NVS_LEN_LO_LEN : Fld := ⟨0x22050, 0, 32⟩
def NVS_LEN_HI_LEN : Fld := ⟨0x22054, 0, 32⟩
def NVS_OBJ_ID_ID : Fld := ⟨0x22058, 0, 32⟩
def NVS_OBJ_ARG_TYPE : Fld := ⟨0x2205C, 0, 8⟩
def NVS_OBJ_ARG_JOB_ID : Fld := ⟨0x2205C, 16, 16⟩
def NVS_USER_USER : Fld := ⟨0x22060, 0, 32⟩
def NVS_ARG_LO_ARG : Fld := ⟨0x22064, 0, 32⟩
def NVS_ARG_HI_ARG : Fld := ⟨0x22068, 0, 32⟩
def NVS_STAT_READY : Fld := ⟨0x22070, 0, 1⟩
def NVS_STAT_REPLAYING : Fld := ⟨0x22070, 1, 1⟩
def NVS_STAT_COMPACTING : Fld := ⟨0x22070, 2, 1⟩
def NVS_STAT_FLUSHING : Fld := ⟨0x22070, 3, 1⟩
def NVS_STAT_STARVED : Fld := ⟨0x22070, 4, 1⟩
def NVS_STAT_JFULL : Fld := ⟨0x22070, 5, 1⟩
def NVS_STAT_WEAR_LOW : Fld := ⟨0x22070, 6, 1⟩
def NVS_JOCC_MB : Fld := ⟨0x22074, 0, 12⟩
def NVS_FREE_EXTENT : Fld := ⟨0x22078, 0, 17⟩
def NVS_JSEQ_LO_SEQ : Fld := ⟨0x22080, 0, 32⟩
def NVS_JSEQ_HI_SEQ : Fld := ⟨0x22084, 0, 32⟩
def NVS_HEALTH_SPARE_PCT : Fld := ⟨0x22088, 0, 8⟩
def NVS_FLUSH_STAT_VALID : Fld := ⟨0x2208C, 0, 1⟩
def NVS_FLUSH_STAT_LOST_PREV : Fld := ⟨0x2208C, 1, 1⟩
def NVS_FLUSH_STAT_TRUNC : Fld := ⟨0x2208C, 2, 1⟩
def NVS_SERIAL_LO_SERIAL : Fld := ⟨0x22090, 0, 32⟩
def NVS_SERIAL_HI_SERIAL : Fld := ⟨0x22094, 0, 32⟩
def RIDGE_CFG_EVT_VC : Fld := ⟨0x23040, 0, 4⟩
def CHAIN_CTRL_DOWN_EN : Fld := ⟨0x23044, 0, 1⟩
def CHAIN_CTRL_LOCAL_ENC : Fld := ⟨0x23044, 1, 1⟩
def CHAIN_CTRL_MON_CLR : Fld := ⟨0x23044, 31, 1⟩
def CHAIN_STAT_CT_LOCK : Fld := ⟨0x23048, 0, 1⟩
def CHAIN_STAT_HEAD : Fld := ⟨0x23048, 1, 1⟩
def CHAIN_STAT_LOST : Fld := ⟨0x23048, 2, 1⟩
def CHAIN_STAT_FALLBACK : Fld := ⟨0x23048, 3, 1⟩
def CHAIN_STAT_LEAD_OK : Fld := ⟨0x23048, 4, 1⟩
def CHAIN_STAT_HOPS : Fld := ⟨0x23048, 8, 8⟩
def CHAIN_CT_LO_NS : Fld := ⟨0x23050, 0, 32⟩
def CHAIN_CT_HI_NS : Fld := ⟨0x23054, 0, 32⟩
def CHAIN_CT_ERR_E : Fld := ⟨0x23058, 0, 16⟩
def CHAIN_LAT_NS : Fld := ⟨0x23060, 0, 16⟩
def CHAIN_LAT_MAX_NS : Fld := ⟨0x23064, 0, 16⟩
def CHAIN_MARGIN_MIN_NS : Fld := ⟨0x23068, 0, 32⟩
def CHAIN_FB_FIRST_LO_TICKNO : Fld := ⟨0x23070, 0, 32⟩
def CHAIN_FB_FIRST_HI_TICKNO : Fld := ⟨0x23074, 0, 32⟩
def CHAIN_FB_LAST_LO_TICKNO : Fld := ⟨0x23078, 0, 32⟩
def CHAIN_FB_LAST_HI_TICKNO : Fld := ⟨0x2307C, 0, 32⟩
def CHAIN_LOST_LO_COUNT : Fld := ⟨0x23080, 0, 32⟩
def CHAIN_LOST_HI_COUNT : Fld := ⟨0x23084, 0, 32⟩
def CHAIN_TOK_BAD_COUNT : Fld := ⟨0x23088, 0, 32⟩
def CHAIN_TOK_STALE_COUNT : Fld := ⟨0x2308C, 0, 32⟩
def RP_CTRL_EN (u : Nat) : Fld := ⟨0x24040 + 0x1000 * u, 0, 1⟩
def RP_CTRL_RATE (u : Nat) : Fld := ⟨0x24040 + 0x1000 * u, 1, 2⟩
def RP_CTRL_SAFELIGHT_EN (u : Nat) : Fld := ⟨0x24040 + 0x1000 * u, 3, 1⟩
def RP_CTRL_RETRAIN (u : Nat) : Fld := ⟨0x24040 + 0x1000 * u, 4, 1⟩
def RP_CTRL_MIN_LANES (u : Nat) : Fld := ⟨0x24040 + 0x1000 * u, 8, 4⟩
def RP_CTRL_IDLE_T (u : Nat) : Fld := ⟨0x24040 + 0x1000 * u, 16, 8⟩
def RP_STAT_STATE (u : Nat) : Fld := ⟨0x24044 + 0x1000 * u, 0, 3⟩
def RP_STAT_RATE_ACT (u : Nat) : Fld := ⟨0x24044 + 0x1000 * u, 3, 1⟩
def RP_STAT_WIDTH (u : Nat) : Fld := ⟨0x24044 + 0x1000 * u, 4, 4⟩
def RP_STAT_LANES (u : Nat) : Fld := ⟨0x24044 + 0x1000 * u, 8, 8⟩
def RP_STAT_FOM_MIN (u : Nat) : Fld := ⟨0x24044 + 0x1000 * u, 16, 8⟩
def RP_TRAIN_FOM_MIN (u : Nat) : Fld := ⟨0x24048 + 0x1000 * u, 0, 8⟩
def RP_TRAIN_MAX_STEPS (u : Nat) : Fld := ⟨0x24048 + 0x1000 * u, 8, 10⟩
def RP_TRAIN_TIMEOUT (u : Nat) : Fld := ⟨0x24048 + 0x1000 * u, 20, 8⟩
def RP_LINK_DLY_DLY (u : Nat) : Fld := ⟨0x2404C + 0x1000 * u, 0, 16⟩
def RP_CRC_CNT_COUNT (u : Nat) : Fld := ⟨0x24050 + 0x1000 * u, 0, 32⟩
def RP_FRAME_CNT_COUNT (u : Nat) : Fld := ⟨0x24054 + 0x1000 * u, 0, 32⟩
def RP_SEQ_GAP_COUNT (u : Nat) : Fld := ⟨0x24058 + 0x1000 * u, 0, 32⟩
def RP_UNCLAIMED_COUNT (u : Nat) : Fld := ⟨0x2405C + 0x1000 * u, 0, 32⟩
def RP_CRED_VIOL_COUNT (u : Nat) : Fld := ⟨0x24060 + 0x1000 * u, 0, 32⟩
def RP_TX_DISC_COUNT (u : Nat) : Fld := ⟨0x24064 + 0x1000 * u, 0, 32⟩
def RP_DOWN_CNT_COUNT (u : Nat) : Fld := ⟨0x24068 + 0x1000 * u, 0, 32⟩
def RP_WAKE_CNT_COUNT (u : Nat) : Fld := ⟨0x2406C + 0x1000 * u, 0, 32⟩
def RP_VCv_ALLOC_UNITS (u i : Nat) : Fld := ⟨0x24100 + 0x1000 * u + 0x4 * i, 0, 15⟩
def RP_VCv_CRED_UNITS (u i : Nat) : Fld := ⟨0x24140 + 0x1000 * u + 0x4 * i, 0, 24⟩
def RP_LANEk_CTRL_PRBS (u i : Nat) : Fld := ⟨0x24400 + 0x1000 * u + 0x40 * i, 0, 2⟩
def RP_LANEk_CTRL_LOOP (u i : Nat) : Fld := ⟨0x24400 + 0x1000 * u + 0x40 * i, 2, 2⟩
def RP_LANEk_CTRL_INJ_BIT (u i : Nat) : Fld := ⟨0x24400 + 0x1000 * u + 0x40 * i, 4, 1⟩
def RP_LANEk_CTRL_INJ_BURST (u i : Nat) : Fld := ⟨0x24400 + 0x1000 * u + 0x40 * i, 5, 1⟩
def RP_LANEk_CTRL_CHK_CLR (u i : Nat) : Fld := ⟨0x24400 + 0x1000 * u + 0x40 * i, 6, 1⟩
def RP_LANEk_CTRL_BURST_LEN (u i : Nat) : Fld := ⟨0x24400 + 0x1000 * u + 0x40 * i, 8, 8⟩
def RP_LANEk_STAT_STATE (u i : Nat) : Fld := ⟨0x24404 + 0x1000 * u + 0x40 * i, 0, 3⟩
def RP_LANEk_STAT_CHK_LOCK (u i : Nat) : Fld := ⟨0x24404 + 0x1000 * u + 0x40 * i, 3, 1⟩
def RP_LANEk_STAT_FOM (u i : Nat) : Fld := ⟨0x24404 + 0x1000 * u + 0x40 * i, 8, 8⟩
def RP_LANEk_TAPS_PRE (u i : Nat) : Fld := ⟨0x24408 + 0x1000 * u + 0x40 * i, 0, 4⟩
def RP_LANEk_TAPS_POST (u i : Nat) : Fld := ⟨0x24408 + 0x1000 * u + 0x40 * i, 4, 5⟩
def RP_LANEk_TAPS_PRE_ACT (u i : Nat) : Fld := ⟨0x24408 + 0x1000 * u + 0x40 * i, 12, 4⟩
def RP_LANEk_TAPS_POST_ACT (u i : Nat) : Fld := ⟨0x24408 + 0x1000 * u + 0x40 * i, 16, 5⟩
def RP_LANEk_TAPS_MAIN_ACT (u i : Nat) : Fld := ⟨0x24408 + 0x1000 * u + 0x40 * i, 21, 7⟩
def RP_LANEk_PRBS_ERR_COUNT (u i : Nat) : Fld := ⟨0x2440C + 0x1000 * u + 0x40 * i, 0, 32⟩
def RP_LANEk_HDR_ERR_COUNT (u i : Nat) : Fld := ⟨0x24410 + 0x1000 * u + 0x40 * i, 0, 32⟩
def CAL_CTRL_BG_EN : Fld := ⟨0x27040, 0, 1⟩
def CAL_CTRL_L16_AGREE : Fld := ⟨0x27040, 1, 1⟩
def CAL_CTRL_AUTO_APPLY : Fld := ⟨0x27040, 2, 1⟩
def CAL_CTRL_INTERVAL : Fld := ⟨0x27040, 16, 16⟩
def CAL_STAT_PASS_ACTIVE : Fld := ⟨0x27044, 0, 1⟩
def CAL_STAT_START_PASS_DONE : Fld := ⟨0x27044, 1, 1⟩
def CAL_STAT_NO_SET : Fld := ⟨0x27044, 2, 1⟩
def CAL_STAT_FUSE_BAD : Fld := ⟨0x27044, 3, 1⟩
def CAL_STAT_RUN : Fld := ⟨0x27044, 4, 3⟩
def CAL_STAT_NO_SPARE : Fld := ⟨0x27044, 16, 10⟩
def CAL_CMD_OP : Fld := ⟨0x27048, 0, 4⟩
def CAL_CMD_GO : Fld := ⟨0x27048, 31, 1⟩
def CAL_RESULT_CODE : Fld := ⟨0x2704C, 0, 4⟩
def CAL_RESULT_COUNT : Fld := ⟨0x2704C, 8, 24⟩
def CAL_BUF_LO_ADDR : Fld := ⟨0x27050, 0, 32⟩
def CAL_BUF_HI_ADDR : Fld := ⟨0x27054, 0, 8⟩
def CAL_WHITE_BANK : Fld := ⟨0x27058, 0, 1⟩
def CAL_WHITE_LINES_LOG2 : Fld := ⟨0x27058, 8, 4⟩
def CAL_WHITE_TARGET : Fld := ⟨0x27058, 16, 8⟩
def CAL_SET_ID_ID : Fld := ⟨0x2705C, 0, 32⟩
def CAL_Qb_OFS_RMS (i : Nat) : Fld := ⟨0x27060 + 0x4 * i, 0, 16⟩
def CAL_Qb_GAIN_RES (i : Nat) : Fld := ⟨0x27060 + 0x4 * i, 16, 16⟩
def CAL_FF_RES_RES : Fld := ⟨0x27070, 0, 16⟩
def CAL_BG_STAT_STARVED : Fld := ⟨0x27074, 0, 4⟩
def CAL_TPH_PS : Fld := ⟨0x27078, 0, 16⟩
def CAL_PASS_CNT_COUNT : Fld := ⟨0x2707C, 0, 32⟩
def CAL_STRBn_OFS (i : Nat) : Fld := ⟨0x27080 + 0x4 * i, 0, 8⟩
def CAL_STRBn_TRIM (i : Nat) : Fld := ⟨0x27080 + 0x4 * i, 8, 8⟩
def CAL_STRBn_DRIFT (i : Nat) : Fld := ⟨0x27080 + 0x4 * i, 16, 1⟩
def CAL_CONV_SEL_POS : Fld := ⟨0x270A0, 0, 15⟩
def CAL_CONV_SEL_BANK : Fld := ⟨0x270A0, 16, 2⟩
def CAL_CONV_SEL_SPARE : Fld := ⟨0x270A0, 20, 1⟩
def CAL_CONV_DATA_OFS_TRIM : Fld := ⟨0x270A4, 0, 6⟩
def CAL_CONV_DATA_GAIN_TRIM : Fld := ⟨0x270A4, 8, 6⟩
def CAL_CONV_DATA_FAILS : Fld := ⟨0x270A4, 16, 2⟩
def CAL_CONV_DATA_BAD : Fld := ⟨0x270A4, 18, 1⟩
def CAL_CONV_DATA_COVERED : Fld := ⟨0x270A4, 19, 1⟩
def CAL_CONV_DATA_LAST_CODE : Fld := ⟨0x270A4, 20, 4⟩
def CAL_CONV_DATA_BAD_UNCOVERED : Fld := ⟨0x270A4, 24, 1⟩
def CAL_CONV_RES_OFS : Fld := ⟨0x270A8, 0, 16⟩
def CAL_CONV_RES_GAIN : Fld := ⟨0x270A8, 16, 16⟩
def CAL_ACTIVE_ID_ID : Fld := ⟨0x270B0, 0, 32⟩
def CAL_BAD_SUMw_PAIR (i : Nat) : Fld := ⟨0x270C0 + 0x4 * i, 0, 32⟩
def CAL_FUSE_FUSE (i : Nat) : Fld := ⟨0x27800 + 0x4 * i, 0, 32⟩
def THERM_CTRL_GRACE : Fld := ⟨0x28040, 0, 9⟩
def THERM_CTRL_RATE_WIN : Fld := ⟨0x28040, 12, 4⟩
def THERM_CTRL_RATE : Fld := ⟨0x28040, 16, 8⟩
def THERM_CTRL_ENF_STEP : Fld := ⟨0x28040, 24, 4⟩
def THERM_CTRL2_HOLD : Fld := ⟨0x28044, 0, 8⟩
def THERM_CTRL2_RATE_EN : Fld := ⟨0x28044, 16, 12⟩
def THERM_STAT_STATE : Fld := ⟨0x28048, 0, 3⟩
def THERM_STAT_STAGE : Fld := ⟨0x28048, 4, 3⟩
def THERM_STAT_CAUSE : Fld := ⟨0x28048, 8, 3⟩
def THERM_STAT_SITE : Fld := ⟨0x28048, 16, 8⟩
def THERM_STAT_TB : Fld := ⟨0x28048, 24, 2⟩
def THERM_STAT_DDR_LOST : Fld := ⟨0x28048, 26, 1⟩
def THERM_STAT_RESUME_OK : Fld := ⟨0x28048, 27, 1⟩
def THERM_RESUME_GO : Fld := ⟨0x2804C, 0, 1⟩
def THERM_GRACE_LEFT_MS : Fld := ⟨0x28050, 0, 16⟩
def THERM_MAX_T : Fld := ⟨0x28054, 0, 16⟩
def THERM_MAX_SITE : Fld := ⟨0x28054, 16, 8⟩
def THERM_SUSPECT_SUMw_SITE (i : Nat) : Fld := ⟨0x28058 + 0x4 * i, 0, 32⟩
def THERM_THRg_W0_WARN (i : Nat) : Fld := ⟨0x28080 + 0x8 * i, 0, 16⟩
def THERM_THRg_W0_THROTTLE (i : Nat) : Fld := ⟨0x28080 + 0x8 * i, 16, 16⟩
def THERM_THRg_W1_SHUTDOWN (i : Nat) : Fld := ⟨0x28084 + 0x8 * i, 0, 16⟩
def THERM_THRg_W1_RESUME (i : Nat) : Fld := ⟨0x28084 + 0x8 * i, 16, 16⟩
def THERM_SITEs_T (i : Nat) : Fld := ⟨0x28100 + 0x4 * i, 0, 16⟩
def THERM_SITEs_SUSPECT (i : Nat) : Fld := ⟨0x28100 + 0x4 * i, 16, 1⟩
def THERM_SITEs_WARN (i : Nat) : Fld := ⟨0x28100 + 0x4 * i, 17, 1⟩
def THERM_SITEs_THROTTLE (i : Nat) : Fld := ⟨0x28100 + 0x4 * i, 18, 1⟩
def THERM_SITEs_RATE (i : Nat) : Fld := ⟨0x28100 + 0x4 * i, 19, 1⟩
def THERM_SITEs_GROUP (i : Nat) : Fld := ⟨0x28100 + 0x4 * i, 20, 4⟩
def THERM_RAWs_RAW (i : Nat) : Fld := ⟨0x28300 + 0x4 * i, 0, 16⟩
def THERM_RAWs_RATE (i : Nat) : Fld := ⟨0x28300 + 0x4 * i, 16, 16⟩
def PWR_CTRL_REQ : Fld := ⟨0x29040, 0, 2⟩
def PWR_CTRL_AUTO_WAKE : Fld := ⟨0x29040, 4, 1⟩
def PWR_HOLD_HOLD_WAIT : Fld := ⟨0x29044, 0, 12⟩
def PWR_HOLD_RESERVE : Fld := ⟨0x29044, 16, 12⟩
def PWR_ILIM_OPEN : Fld := ⟨0x29048, 0, 7⟩
def PWR_ILIM_SUP : Fld := ⟨0x29048, 8, 7⟩
def PWR_ILIM_ACT : Fld := ⟨0x29048, 16, 7⟩
def PWR_STAT_STATE : Fld := ⟨0x2904C, 0, 3⟩
def PWR_STAT_SRC : Fld := ⟨0x2904C, 4, 2⟩
def PWR_STAT_LOCKOUT : Fld := ⟨0x2904C, 6, 1⟩
def PWR_STAT_RUN_OK : Fld := ⟨0x2904C, 7, 1⟩
def PWR_STAT_ON_PACK : Fld := ⟨0x2904C, 8, 1⟩
def PWR_STAT_QUALIFYING : Fld := ⟨0x2904C, 9, 1⟩
def PWR_STAT_SUPPLEMENT : Fld := ⟨0x2904C, 10, 1⟩
def PWR_STAT_SRC_CHANGED : Fld := ⟨0x2904C, 11, 1⟩
def PWR_STAT_HOLD_PHASE : Fld := ⟨0x2904C, 12, 3⟩
def PWR_STAT_HOLD_CAUSE : Fld := ⟨0x2904C, 16, 2⟩
def PWR_IN_MON_V : Fld := ⟨0x29050, 0, 16⟩
def PWR_IN_MON_I : Fld := ⟨0x29050, 16, 16⟩
def PWR_DOM_STAT_ON : Fld := ⟨0x29054, 0, 25⟩
def PWR_CHG_CTRL_EN : Fld := ⟨0x29060, 0, 1⟩
def PWR_CHG_CTRL_I_SET : Fld := ⟨0x29060, 8, 8⟩
def PWR_CHG_CTRL_TIMER : Fld := ⟨0x29060, 16, 12⟩
def PWR_CHG_CTRL_FAULT_CLR : Fld := ⟨0x29060, 31, 1⟩
def PWR_CHG_STAT_PHASE : Fld := ⟨0x29064, 0, 3⟩
def PWR_CHG_STAT_FOLDBACK : Fld := ⟨0x29064, 3, 1⟩
def PWR_CHG_STAT_INLIM : Fld := ⟨0x29064, 4, 1⟩
def PWR_CHG_STAT_TEMP_PAUSE : Fld := ⟨0x29064, 5, 1⟩
def PWR_CHG_STAT_DUTY : Fld := ⟨0x29064, 8, 7⟩
def PWR_CHG_STAT_FAULT : Fld := ⟨0x29064, 16, 4⟩
def PWR_CHG_STAT_TIMER_ACC : Fld := ⟨0x29064, 20, 12⟩
def PACK_V_V_REST : Fld := ⟨0x29068, 0, 16⟩
def PACK_V_V_NOW : Fld := ⟨0x29068, 16, 16⟩
def PACK_IT_I : Fld := ⟨0x2906C, 0, 16⟩
def PACK_IT_T : Fld := ⟨0x2906C, 16, 16⟩
def PACK_CHARGE_MAH : Fld := ⟨0x29070, 0, 16⟩
def PACK_CHARGE_VALID : Fld := ⟨0x29070, 16, 1⟩
def PACK_CHARGE_PRESENT : Fld := ⟨0x29070, 17, 1⟩
def PACK_CHARGE_USABLE : Fld := ⟨0x29070, 18, 1⟩
def PACK_ID_CAP : Fld := ⟨0x29074, 0, 16⟩
def PACK_ID_CHEM : Fld := ⟨0x29074, 16, 8⟩
def PACK_SER_LO_SERIAL : Fld := ⟨0x29078, 0, 32⟩
def PACK_SER_HI_SERIAL : Fld := ⟨0x2907C, 0, 32⟩
def LAMP_CTRL_PWR : Fld := ⟨0x2A040, 0, 1⟩
def LAMP_STAT_STATE : Fld := ⟨0x2A044, 0, 3⟩
def LAMP_STAT_SW_24V : Fld := ⟨0x2A044, 3, 1⟩
def LAMP_STAT_SIG : Fld := ⟨0x2A044, 4, 2⟩
def LAMP_STAT_SAFE : Fld := ⟨0x2A044, 6, 1⟩
def LAMP_STAT_WARN90 : Fld := ⟨0x2A044, 7, 1⟩
def LAMP_STAT_EOL : Fld := ⟨0x2A044, 8, 1⟩
def LAMP_STAT_CH_FAULT : Fld := ⟨0x2A044, 16, 8⟩
def LAMP_LINK_ERR_COUNT : Fld := ⟨0x2A048, 0, 32⟩
def LAMP_TEMP_T : Fld := ⟨0x2A04C, 0, 16⟩
def LAMP_XFER_LO_TICKNO : Fld := ⟨0x2A050, 0, 32⟩
def LAMP_XFER_HI_TICKNO : Fld := ⟨0x2A054, 0, 32⟩
def LAMP_APPLIED_LO_TICKNO : Fld := ⟨0x2A058, 0, 32⟩
def LAMP_APPLIED_HI_TICKNO : Fld := ⟨0x2A05C, 0, 32⟩
def LAMP_SETk_SET (i : Nat) : Fld := ⟨0x2A080 + 0x4 * i, 0, 10⟩
def LAMP_SETk_ACT (i : Nat) : Fld := ⟨0x2A080 + 0x4 * i, 16, 10⟩
def LAMP_LIFEk_LO_MS (i : Nat) : Fld := ⟨0x2A100 + 0x8 * i, 0, 32⟩
def LAMP_LIFEk_HI_MS (i : Nat) : Fld := ⟨0x2A104 + 0x8 * i, 0, 32⟩
def LAMP_USEk_U (i : Nat) : Fld := ⟨0x2A180 + 0x4 * i, 0, 16⟩
def LAMP_IDENT_RECORD (i : Nat) : Fld := ⟨0x2A400 + 0x4 * i, 0, 32⟩
def MB_CTRL_ATTN_PULSE : Fld := ⟨0x2B040, 0, 1⟩
def MB_CTRL_REPEAT : Fld := ⟨0x2B040, 8, 4⟩
def MB_STAT_ADDR : Fld := ⟨0x2B044, 0, 7⟩
def MB_STAT_AWAKE : Fld := ⟨0x2B044, 8, 1⟩
def MB_STAT_ATTN : Fld := ⟨0x2B044, 9, 1⟩
def MB_ERR_ERR : Fld := ⟨0x2B048, 0, 8⟩
def MB_XFER_CNT_COUNT : Fld := ⟨0x2B04C, 0, 32⟩
def SYS_STAT_READY : Fld := ⟨0x2C040, 0, 1⟩
def SYS_STAT_FATAL : Fld := ⟨0x2C040, 1, 1⟩
def SYS_STAT_DEGRADED : Fld := ⟨0x2C040, 2, 1⟩
def SYS_STAT_STARTING : Fld := ⟨0x2C040, 3, 1⟩
def SYS_STAT_LAST_RESET : Fld := ⟨0x2C040, 4, 4⟩
def SYS_RESET_KIND : Fld := ⟨0x2C044, 0, 2⟩
def SYS_RESET_KEY : Fld := ⟨0x2C044, 16, 16⟩
def SYS_DRESET_DOM : Fld := ⟨0x2C048, 0, 25⟩
def SYS_SELFTEST_FAIL : Fld := ⟨0x2C04C, 0, 14⟩
def SYS_BOOT_MS_MS : Fld := ⟨0x2C050, 0, 16⟩
def SYS_ROLL_PAGE : Fld := ⟨0x2C054, 0, 25⟩
def SYS_ATTN_MASK_PAGE : Fld := ⟨0x2C058, 0, 25⟩
def SYS_EVT_MASK_PAGE : Fld := ⟨0x2C05C, 0, 25⟩
def SYS_MON_CTRL_CLR : Fld := ⟨0x2C060, 0, 1⟩
def SYS_MON_CTRL_FREEZE : Fld := ⟨0x2C060, 1, 1⟩
def SYS_MON_CTRL_WSHIFT : Fld := ⟨0x2C060, 4, 4⟩
def SYS_RESET_CNT_WARM : Fld := ⟨0x2C064, 0, 16⟩
def SYS_RESET_CNT_WDOG : Fld := ⟨0x2C064, 16, 16⟩
def SYS_TICKNO_START_LO_TICKNO : Fld := ⟨0x2C070, 0, 32⟩
def SYS_TICKNO_START_HI_TICKNO : Fld := ⟨0x2C074, 0, 32⟩
def SYS_MONm_MIN_VAL (i : Nat) : Fld := ⟨0x2C400 + 0x60 * i, 0, 32⟩
def SYS_MONm_MAX_VAL (i : Nat) : Fld := ⟨0x2C404 + 0x60 * i, 0, 32⟩
def SYS_MONm_BINi_COUNT (i j : Nat) : Fld := ⟨0x2C408 + 0x60 * i + 0x4 * j, 0, 32⟩

end R

/-! Interrupt bits (the interrupt tables of R58, R78, R108, R110, R127, R153, R155, R200, R224, R250, R252, R254, R272,
R309, R311, R332, R345, R366, R379, R392, R406). -/

namespace E

def EXP_SLOT_CUT : Ev := ⟨0x014, 0, some 0⟩
def EXP_TX_HELD : Ev := ⟨0x014, 1, some 1⟩
def EXP_STROBE_CLIP : Ev := ⟨0x014, 2, some 2⟩
def EXP_TRIG_MISS : Ev := ⟨0x014, 3, some 3⟩
def EXP_CHECK_FAIL_A : Ev := ⟨0x014, 4, some 4⟩
def EXP_CHECK_FAIL_B : Ev := ⟨0x014, 5, some 5⟩
def EXP_MODE_REFUSED : Ev := ⟨0x014, 6, some 6⟩
def RDO_TB_CHANGE : Ev := ⟨0x015, 0, some 0⟩
def RDO_NSLOT_CHANGE : Ev := ⟨0x015, 1, some 1⟩
def RDO_CLAMP_RANGE : Ev := ⟨0x015, 2, some 2⟩
def RDO_STACK_GAP : Ev := ⟨0x015, 3, some 3⟩
def RDO_DIR_REFUSED : Ev := ⟨0x015, 4, some 4⟩
def TICK_RATE_CAP : Ev := ⟨0x017, 0, some 0⟩
def TICK_THERMAL : Ev := ⟨0x017, 1, some 1⟩
def TICK_STOPPED : Ev := ⟨0x017, 2, some 2⟩
def TICK_LEAD_LATE : Ev := ⟨0x017, 3, some 3⟩
def TICK_DIV_OVR : Ev := ⟨0x017, 4, some 4⟩
def TICK_TRIG_OVERLAP : Ev := ⟨0x017, 5, some 5⟩
def TICK_SRC_REFUSED : Ev := ⟨0x017, 6, some 6⟩
def TICK_DIV_BAD : Ev := ⟨0x017, 7, some 7⟩
def TICK_REVERSE : Ev := ⟨0x017, 8, some 8⟩
def CLK_LOCK_LOST : Ev := ⟨0x018, 0, some 0⟩
def CLK_HOP : Ev := ⟨0x018, 1, some 1⟩
def CLK_HOP_TIMEOUT : Ev := ⟨0x018, 2, some 2⟩
def CLK_NO_BAND : Ev := ⟨0x018, 3, some 3⟩
def CLK_REFUSED : Ev := ⟨0x018, 4, some 4⟩
def ENGG_COURSE_ON : Ev := ⟨0x019, 0, some 0⟩
def ENGG_COURSE_REFUSED : Ev := ⟨0x019, 1, some 1⟩
def ENGG_LWIN_BAD : Ev := ⟨0x019, 2, some 2⟩
def ENGG_STEP_CHANGE : Ev := ⟨0x019, 3, some 3⟩
def JOB_SWITCH : Ev := ⟨0x01A, 0, some 0⟩
def JOB_DEFERRED : Ev := ⟨0x01A, 1, some 1⟩
def JOB_REFUSED : Ev := ⟨0x01A, 2, some 2⟩
def JOB_DISARMED : Ev := ⟨0x01A, 3, some 3⟩
def JOB_BANK_ACTIVE : Ev := ⟨0x01A, 4, some 4⟩
def JOB_REREG : Ev := ⟨0x01A, 5, some 5⟩
def JOB_MARK_MISS : Ev := ⟨0x01A, 6, some 6⟩
def JOB_QUAL_LOST : Ev := ⟨0x01A, 7, some 7⟩
def JOB_LEARN_DONE : Ev := ⟨0x01A, 8, some 8⟩
def JOB_SEAM_DROP : Ev := ⟨0x01A, 9, some 9⟩
def DEV_DEV_FULL : Ev := ⟨0x01B, 0, some 0⟩
def DEV_CRC_ERR : Ev := ⟨0x01B, 1, some 1⟩
def DEV_SHORT : Ev := ⟨0x01B, 2, some 2⟩
def DEV_LONG : Ev := ⟨0x01B, 3, some 3⟩
def DEV_FMT_ERR : Ev := ⟨0x01B, 4, some 4⟩
def DEV_DROP : Ev := ⟨0x01B, 5, some 5⟩
def DEV_LATE : Ev := ⟨0x01B, 6, some 6⟩
def DEV_ORPHAN : Ev := ⟨0x01B, 7, some 7⟩
def DEV_STATS_DROP : Ev := ⟨0x01B, 8, some 8⟩
def DEV_HIST_LIMIT : Ev := ⟨0x01B, 9, some 9⟩
def DEV_CFG_REFUSED : Ev := ⟨0x01B, 10, some 10⟩
def MEM_CE : Ev := ⟨0x01F, 0, some 0⟩
def MEM_UE : Ev := ⟨0x01F, 1, some 1⟩
def MEM_REFRESH : Ev := ⟨0x01F, 2, some 2⟩
def MEM_BW_OVER : Ev := ⟨0x01F, 3, some 3⟩
def NVS_CMD_DONE : Ev := ⟨0x022, 0, some 0⟩
def NVS_CMD_ERR : Ev := ⟨0x022, 1, some 1⟩
def NVS_CMD_REFUSED : Ev := ⟨0x022, 2, some 2⟩
def NVS_STARVED : Ev := ⟨0x022, 3, some 3⟩
def NVS_JFULL : Ev := ⟨0x022, 4, some 4⟩
def NVS_REPLAY_TRUNC : Ev := ⟨0x022, 5, some 5⟩
def NVS_FLUSH_FOUND : Ev := ⟨0x022, 6, some 6⟩
def NVS_WEAR : Ev := ⟨0x022, 7, some 7⟩
def RIDGE_CT_LOCK_LOST : Ev := ⟨0x023, 0, some 0⟩
def RIDGE_TOKEN_LOSS : Ev := ⟨0x023, 1, some 1⟩
def RIDGE_FB_ENTER : Ev := ⟨0x023, 2, some 2⟩
def RIDGE_FB_LEAVE : Ev := ⟨0x023, 3, some 3⟩
def RIDGE_TOKEN_GAP : Ev := ⟨0x023, 4, some 4⟩
def RIDGE_LEAD_MARGIN : Ev := ⟨0x023, 5, some 5⟩
def RIDGE_EVT_DROP : Ev := ⟨0x023, 6, some 6⟩
def RIDGE_TICKNO_ADV : Ev := ⟨0x023, 7, some 7⟩
def CAL_PASS_DONE : Ev := ⟨0x027, 0, some 0⟩
def CAL_CONV_FAIL : Ev := ⟨0x027, 1, some 1⟩
def CAL_BAD_CONV : Ev := ⟨0x027, 2, some 2⟩
def CAL_RUN_DONE : Ev := ⟨0x027, 3, some 3⟩
def CAL_RUN_FAIL : Ev := ⟨0x027, 4, some 4⟩
def CAL_DRIFT : Ev := ⟨0x027, 5, some 5⟩
def CAL_STARVED : Ev := ⟨0x027, 6, some 6⟩
def THERM_WARN : Ev := ⟨0x028, 0, some 0⟩
def THERM_REQUEST : Ev := ⟨0x028, 1, some 1⟩
def THERM_ENFORCE : Ev := ⟨0x028, 2, some 2⟩
def THERM_RELEASE : Ev := ⟨0x028, 3, some 3⟩
def THERM_SHUTDOWN : Ev := ⟨0x028, 4, some 4⟩
def THERM_SUSPECT : Ev := ⟨0x028, 5, some 5⟩
def THERM_CFG_REFUSED : Ev := ⟨0x028, 6, some 6⟩
def THERM_RESUME_REFUSED : Ev := ⟨0x028, 7, some 7⟩
def PWR_INPUT_LOSS : Ev := ⟨0x029, 0, some 0⟩
def PWR_HANDBACK : Ev := ⟨0x029, 1, some 1⟩
def PWR_QUAL_RESTART : Ev := ⟨0x029, 2, some 2⟩
def PWR_STATE_REFUSED : Ev := ⟨0x029, 3, some 3⟩
def PWR_OVERLOAD : Ev := ⟨0x029, 4, some 4⟩
def PWR_SUPPLEMENT : Ev := ⟨0x029, 5, some 5⟩
def PWR_CHG_FAULT : Ev := ⟨0x029, 6, some 6⟩
def PWR_CHG_DONE : Ev := ⟨0x029, 7, some 7⟩
def PWR_PACK_MISSING : Ev := ⟨0x029, 8, some 8⟩
def PWR_PACK_INSERTED : Ev := ⟨0x029, 9, some 9⟩
def PWR_SRC_CHANGED : Ev := ⟨0x029, 10, some 10⟩
def LAMP_APPLIED : Ev := ⟨0x02A, 0, some 0⟩
def LAMP_SIG_FAIL : Ev := ⟨0x02A, 1, some 1⟩
def LAMP_ABSENT : Ev := ⟨0x02A, 2, some 2⟩
def LAMP_LH_FAULT : Ev := ⟨0x02A, 3, some 3⟩
def LAMP_WARN90 : Ev := ⟨0x02A, 4, some 4⟩
def LAMP_EOL : Ev := ⟨0x02A, 5, some 5⟩
def LAMP_CHANGED : Ev := ⟨0x02A, 6, some 6⟩
def LAMP_STROBE_SUPPR : Ev := ⟨0x02A, 7, some 7⟩
def MB_FRAMING : Ev := ⟨0x02B, 0, some 0⟩
def MB_STUCK : Ev := ⟨0x02B, 1, some 1⟩
def MB_WINDOW : Ev := ⟨0x02B, 2, some 2⟩
def MB_OFFLINE : Ev := ⟨0x02B, 3, some 3⟩
def MB_PARTIAL : Ev := ⟨0x02B, 4, some 4⟩
def MB_BUSY_NACK : Ev := ⟨0x02B, 5, some 5⟩
def MB_WAKE : Ev := ⟨0x02B, 6, some 6⟩
def SYS_READY : Ev := ⟨0x02C, 0, some 0⟩
def SYS_FATAL : Ev := ⟨0x02C, 1, some 1⟩
def SYS_WARM_DONE : Ev := ⟨0x02C, 2, some 2⟩
def SYS_DRESET_REFUSED : Ev := ⟨0x02C, 3, some 3⟩
def SYS_ROLL_MERGED : Ev := ⟨0x02C, 4, some 4⟩
def TMR_QERR : Ev := ⟨0x016, 16, some 0⟩
def TMR_SEQ : Ev := ⟨0x016, 17, some 1⟩
def TMR_ENC_FAULT : Ev := ⟨0x016, 18, some 2⟩
def TMR_RSV_WRITE : Ev := ⟨0x016, 19, some 3⟩
def TMR_CC (j : Nat) : Ev := ⟨0x016, j, none⟩
def SH_OVERRUN (u : Nat) : Ev := ⟨0x200 + u, 0, some 0⟩
def SH_PROOF_LATE (u : Nat) : Ev := ⟨0x200 + u, 1, some 1⟩
def SH_OUTPUT_FULL (u : Nat) : Ev := ⟨0x200 + u, 2, some 2⟩
def SH_REC_DROP (u : Nat) : Ev := ⟨0x200 + u, 3, some 3⟩
def SH_WDOG (u : Nat) : Ev := ⟨0x200 + u, 4, some 4⟩
def SH_FAULT (u : Nat) : Ev := ⟨0x200 + u, 5, some 5⟩
def SH_BANK_BUSY (u : Nat) : Ev := ⟨0x200 + u, 6, some 6⟩
def RP_LINK_UP (u : Nat) : Ev := ⟨0x024 + u, 0, some 0⟩
def RP_LINK_DOWN (u : Nat) : Ev := ⟨0x024 + u, 1, some 1⟩
def RP_LANE_FAIL (u : Nat) : Ev := ⟨0x024 + u, 2, some 2⟩
def RP_CRC_ERR (u : Nat) : Ev := ⟨0x024 + u, 3, some 3⟩
def RP_FRAMING (u : Nat) : Ev := ⟨0x024 + u, 4, some 4⟩
def RP_SEQ_GAP (u : Nat) : Ev := ⟨0x024 + u, 5, some 5⟩
def RP_CRED_VIOL (u : Nat) : Ev := ⟨0x024 + u, 6, some 6⟩
def RP_WAKE_FAIL (u : Nat) : Ev := ⟨0x024 + u, 7, some 7⟩
def RP_ALLOC_REFUSED (u : Nat) : Ev := ⟨0x024 + u, 8, some 8⟩
def RING_FULL (r : Nat) : Ev := ⟨0x020, r, some r⟩
def RING_CFG_REFUSED : Ev := ⟨0x020, 5, some 5⟩
def DMA_CH (n : Nat) : Ev := ⟨0x021, n, none⟩

end E

/-- The reset value of the thermal thresholds of group g (R336, Table 14-2), in °C: WARN, THROTTLE, SHUTDOWN, RESUME. -/
def thrDefault (g : Nat) : Nat × Nat × Nat × Nat :=
  if g = 0 then (60, 68, 78, 55)
  else if g = 1 then (85, 95, 105, 80)
  else if g = 4 then (85, 90, 95, 80)
  else if g = 5 then (70, 80, 85, 65)
  else if g = 8 ∨ g = 9 then (100, 110, 120, 90)
  else if g = 11 then (60, 70, 80, 55)
  else (95, 105, 115, 85)

/-- The group of thermal site i (R333, Table 14-1). -/
def siteGroup (i : Nat) : Nat :=
  if i < 8 then 0 else if i < 16 then 1 else if i < 40 then 2 else if i < 44 then 3 else if i < 52 then 4
  else if i < 56 then 5 else if i < 62 then 6 else if i < 64 then 7 else if i < 68 then 8 else if i < 70 then 9
  else if i = 70 then 10 else 11

/-- Reset values that the tables give by formula: the identity tone curve of the DEVLUT pages (R223), the thresholds in
0.1 °C (R336), the group number of a thermal site (R333) and RP_CTRL.EN, which is 1 for port H only (R273, R310). -/
def formulaReset (page off : Nat) : Nat :=
  if 0x040 ≤ page ∧ page ≤ 0x072 ∧ 0x800 ≤ off then
    let i := (off - 0x800) / 4
    (8 * i + 4) * 65536 + 8 * i
  else if page = 0x028 ∧ 0x080 ≤ off ∧ off < 0x0E0 then
    let (w, t, d, r) := thrDefault ((off - 0x080) / 8)
    if off % 8 = 0 then (10 * t) * 65536 + 10 * w else (10 * r) * 65536 + 10 * d
  else if page = 0x028 ∧ 0x100 ≤ off ∧ off < 0x220 then siteGroup ((off - 0x100) / 4) * 1048576
  else if page = 0x024 ∧ off = 0x040 then 1
  else 0

/-- The page index row of a page number. -/
def findPage : List PageRow → Nat → Option PageRow
  | [], _ => none
  | r :: rest, p => if r.first ≤ p ∧ p < r.first + r.count then some r else findPage rest p

def pageRow (page : Nat) : Option PageRow := findPage pageTable page

/-- Does a row cover this offset? -/
def RegRow.covers (r : RegRow) (off : Nat) : Bool :=
  if off < r.off then false
  else
    let d := off - r.off
    if r.n1 = 1 then d = 0
    else if r.n2 = 1 then d % r.s1 = 0 && d / r.s1 < r.n1
    else d / r.s1 < r.n1 && (d % r.s1) % r.s2 = 0 && (d % r.s1) / r.s2 < r.n2

def findRow : List RegRow → Nat → Option RegRow
  | [], _ => none
  | r :: rest, off => if r.covers off then some r else findRow rest off

/-- The register row at a register address, none where the map has no register there. -/
def regRow (addr : Nat) : Option RegRow :=
  match pageRow (addr / 4096) with
  | none => none
  | some p => findRow p.rows (addr % 4096)

/-- The reset value of the register at an address: its table's value; in the header, INT_MASK starts with 1 in every
defined bit and the rest at 0 (R413). -/
def regReset (addr : Nat) : Word :=
  match pageRow (addr / 4096) with
  | none => 0
  | some p =>
    let off := addr % 4096
    if off < 0x040 then (if off = 0x014 then BitVec.ofNat 32 p.intBits else 0)
    else match findRow p.rows off with
      | none => 0
      | some r => BitVec.ofNat 32 (r.reset + formulaReset (addr / 4096) off)

end Sys2Proof.Machine
end

