-- ==== Sys2Proof/Machine/State.lean ====
section
/-! DEFINITION. The module's state as plain data: the register space, the module address map, and the units that act on
them; the reasons a step can stop; the state after reset. -/
namespace Sys2Proof.Machine

/-! ## Tick generator and timers (chapter 4) -/

/-- A derived tick that waits for its edge (R100). `passed`: positions passed over behind it (R96). `tno`: the TICKNO
that a token carries (R300). `noEdge`: a token that only advances TICKNO (R299); it follows the entry before it. `marks`: bit 2·i + e for an edge of kind e accepted on
TRIG_INi since the tick before (R175); `chainMark`: the token's mark flag. -/
structure DerTick where
  der : Nat := 0
  edge : Nat := 0
  sheet : Bool := false
  passed : Nat := 0
  tpred : Frac := ⟨0, 0⟩
  tno : Option Nat := none
  marks : Nat := 0
  chainMark : Bool := false
  noEdge : Bool := false
  deriving DecidableEq, Repr

/-- The tick generator (R94–R103). Times are in timer clocks; `acc` is in units of 2⁻³² counts; `cntTimes` the times of the
last forward counts, newest first; `pred` the predicted time of the next tick; `deferred` a tick held to 1.25 µs behind the one
before; `queue` derived ticks that wait for their edges; `runLeft` ticks still to come of a trigger run, `runFirst` its first is
still to come; `next` the timer's next tick; `areaTrigs` the times at which accepted area triggers make a tick; `edgeMarks` mark
edges that wait for the next derived tick, by time and bit. -/
structure TickGen where
  tickno : Nat := 0
  acc : Int := 0
  cntTimes : List Nat := []
  tpred : Frac := ⟨0, 0⟩
  pred : Option Nat := none
  lastDer : Option Nat := none
  deferred : Option DerTick := none
  queue : List DerTick := []
  runLeft : Nat := 0
  runFirst : Bool := false
  next : Option Nat := none
  lastEdge : Option Nat := none
  lastExposed : Option Nat := none
  firstTick : Bool := false
  flushLeft : Nat := 0
  areaTrigs : List Nat := []
  lastAreaTrig : Option Nat := none
  edgeMarks : List (Nat × Nat) := []
  deriving DecidableEq, Repr

/-- Inputs, counters and channels beside their registers (R79, R81, R83–R85, R88, R89, R91, R92): shadow words of 64-bit pairs that are
pending, channels whose capture is unread, the clock of each channel's last capture, channels that are due to fire with the clock in
which they do, the clock of each counter's last reset, the clock from which a TIMER counter's present count runs; by input (0–2 A, B, Z;
4 + i TRIG_INi) the clock from which its filter counts: its last accepted change, or the end of its fault. -/
structure Timers where
  shadow64 : List (Nat × Word) := []
  capUnread : List Nat := []
  capAt : SMap Nat := []
  ccDue : SMap Nat := []
  clrAt : SMap Nat := []
  prescAt : SMap Nat := []
  filtAt : SMap Nat := []
  deriving DecidableEq, Repr

/-- Pins that no register shows: the MB_ADDR straps as last sampled, the end of the SYNC_OUT pulse in progress. -/
structure Pins where
  mbAddr : Nat := 0
  syncEnd : Option Nat := none
  deriving DecidableEq, Repr

/-! ## Exposure (chapter 2) -/

/-- A slot of the line being exposed (R42): its start and end times, whether it has started, its strobe window, the
strobe's state. `chans` is the mask of STROBE lines; `edges`: each lit line with its strobe's on and off time in 100 ps. -/
structure SlotRun where
  slot : Nat := 0
  tickno : Nat := 0
  edge : Nat := 0
  tap : Nat := 0
  rowsets : List Nat := []
  startPh : Nat := 0
  start : Nat := 0
  len : Nat := 0
  started : Bool := false
  ended : Bool := false
  chans : Nat := 0
  dly : Nat := 0
  width : Nat := 0
  lit : Bool := false
  strobed : Bool := false
  edges : List (Nat × Nat × Nat) := []
  deriving DecidableEq, Repr

/-- A tap transfer that is due (R38, R49, R50): `begun` is the time its clear began. -/
structure Xfer where
  slot : Nat := 0
  tickno : Nat := 0
  edge : Nat := 0
  tap : Nat := 0
  rowsets : List Nat := []
  dark : Bool := false
  held : Bool := false
  begun : Option Nat := none
  deriving DecidableEq, Repr

/-- What a tap of a row set holds: the line, the time from which it holds it, whether its rows read dark (R38, R50). -/
structure Tap where
  tickno : Option Nat := none
  since : Nat := 0
  dark : Bool := false
  deriving DecidableEq, Repr

/-- Slack bookkeeping of an exposed line (R105): its tick edge and the two after it, transfers and rows that are still to
come, the latest transfer's and sample's time, whether each monitor has taken its value. -/
structure SlackRec where
  tickno : Nat := 0
  edge : Nat := 0
  edge1 : Option Nat := none
  edge2 : Option Nat := none
  txLeft : Nat := 0
  lastTx : Nat := 0
  txIn : Bool := false
  rdLeft : Nat := 0
  lastRd : Nat := 0
  rdIn : Bool := false
  deriving DecidableEq, Repr

/-- The exposure unit: the slots of the present line, transfers due, what the taps hold (by 2·tap + row set), slack records, the
strobe lines that are on with their start in 100 ps. -/
structure Exposure where
  slots : List SlotRun := []
  xfers : List Xfer := []
  taps : SMap Tap := []
  slacks : List SlackRec := []
  chanOn : SMap Nat := []
  deriving DecidableEq, Repr

/-! ## Converters and calibration sets (chapter 13) -/

/-- The converter of a column position in a bank, or a spare (R315, R319, R320): trim codes, the digital offset (1/256 LSB) and
gain (ppm) coefficients, what each of the 14 weights differs by from its nominal value in 1/16 LSB (none listed: ideal weights), the
verified residuals in force, consecutive failures, marks, the last check's code, and whether the
candidate of the present pass was accepted. -/
structure Conv where
  ofsTrim : Nat := 32
  gainTrim : Nat := 32
  ofsCoef : Int := 0
  gainCoef : Int := 0
  weights : List Int := []
  ofs : Int := 0
  gain : Int := 0
  fails : Nat := 0
  bad : Bool := false
  badUncov : Bool := false
  code : Nat := 0
  inPass : Bool := false
  deriving DecidableEq, Repr

/-- A spare's progress through its pass (R316): the position index under calibration (0 itself), whether it has finished or
takes no part, the position it stays on for good (R320), and a checked candidate that waits for the hand-back. -/
structure Spare where
  idx : Nat := 0
  done : Bool := false
  dead : Bool := false
  parked : Option Nat := none
  cand : Option (Bool × Conv) := none
  deriving DecidableEq, Repr

/-- A calibration set's contents (R323): SET_ID, CONTENT, the GAINK codes and the TARGET it was measured under, D and G by 2·position + tap, the dark levels of N0, N1, S0, S1, and, from a
WHITE run, the dodge-and-burn tables. -/
structure CalSet where
  id : Nat := 0
  content : Nat := 0
  gains : Nat := 0
  target : Nat := 0
  d : SMap Nat := []
  g : SMap Nat := []
  dark : List Nat := [0, 0, 0, 0]
  ff : Nat := 0
  dim : Nat := 0
  slots : Nat := 0
  dnb : List Nat := []
  deriving DecidableEq, Repr

/-- What a conversion uses of the calibration: converters, spares, the set and the array band in force when it began (R19, R317). -/
structure CalView where
  conv : SMap Conv := []
  spare : SMap Spare := []
  force : CalSet := {}
  tb : Nat := 0
  deriving DecidableEq, Repr

/-! ## Readout and stackers (chapter 3) -/

/-- One converted, corrected row of a line: the sample word of every column position that is not listed, and the listed
ones. Column position 0 is DL0, position 16 is column 0 (R34, R35). -/
structure RowData where
  rest : Nat := 0
  cols : SMap Nat := []
  deriving DecidableEq, Repr

/-- A row that a bank is to read: its line, slot, tap, row set and row (R62), and the line's gain, binning and RDO_CORR word, fixed when the
line was exposed (R18). Dark rows DSk are
2,048 + k and DNk 2,056 + k. -/
structure RowJob where
  tickno : Nat := 0
  slot : Nat := 0
  tap : Nat := 0
  rowset : Nat := 0
  row : Nat := 0
  gain : Nat := 0
  bin : Nat := 1
  corr : Nat := 0
  deriving DecidableEq, Repr

/-- A row held on a hold capacitor (R61): its conversion ends at row phase `cend`; `hold` is the time from its tap's transfer to
its sample; `cal` is what its conversion uses where it began before the last change of the calibration. -/
structure HeldRow where
  job : RowJob := {}
  cend : Int := 0
  hold : Nat := 0
  cal : Option CalView := none
  deriving DecidableEq, Repr

/-- One converter bank's schedule (R62), in row phases of the current grid: rows not yet sampled, the phase from which the next
may be sampled, when each hold capacitor becomes free, the end of the last conversion, rows held in sampling order. -/
structure BankRun where
  rows : List RowJob := []
  t : Int := 0
  free : List Int := [0, 0, 0, 0]
  cend : Int := 0
  held : List HeldRow := []
  deriving DecidableEq, Repr

/-- The offer of one slot of a line (R43). -/
structure Offer where
  slot : Nat := 0
  tap : Nat := 0
  rowset : Nat := 0
  period : Nat := 0
  bands : Nat := 0
  rankFirst : Nat := 0
  depth : Nat := 0
  deriving DecidableEq, Repr

/-- A line in the stacker's store (R73): its offers, the rows converted so far by (slot, row), the rows still to come, the
Shingles (mask) whose stacker has still to push it. -/
structure StackLine where
  tickno : Nat := 0
  dir : Nat := 0
  bank : Nat := 0
  offers : List Offer := []
  rows : List (Nat × Nat × RowData) := []
  left : Nat := 0
  push : Nat := 0
  deriving DecidableEq, Repr

/-- An area frame in readout (R239). -/
structure FrameRun where
  tickno : Nat := 0
  pFirst : Nat := 0
  pLast : Nat := 0
  dark : Bool := false
  tap : Nat := 0
  bin : Nat := 1
  wanted : Bool := false
  left : Nat := 0
  rows : List (Nat × RowData) := []
  deriving DecidableEq, Repr

/-- The readout: the banks (N0, N1, S0, S1), the row-phase grid's origin and phase, its tick edge, the rows of the line just exposed, which the
next tick edge hands to the banks, the latest sample end by slot, whether CLAMP_RANGE has been told in this tick, the stacker's
store, area frames. -/
structure Readout where
  banks : List BankRun := []
  gridEdge : Nat := 0
  phase : Frac := ⟨0, 0⟩
  edge : Nat := 0
  next : List RowJob := []
  rd : SMap Nat := []
  clampTold : Bool := false
  store : List StackLine := []
  frames : List FrameRun := []
  deriving DecidableEq, Repr

/-! ## Lines in flight and their accounting (R13–R24, R140, R181, R237) -/

/-- A line of a job whose accounting is not finished. `stage` counts the tick edges since its own, `edge2` and `edge3` are the times
of the second and the third; `act` is the tick at which its bank became active, `reregNo` counts re-registration events since then,
`keepAct` is the first activation since when every switch has kept registrations, `keepCut` by Shingle the last switch since then at which it
had none to keep (R184), `proof` is the proof base in force; `reason` its
whole-line reason or 0. `gone`: Shingles (mask) that have delivered the line (R140);
`handled`: Shingles whose records are written or given up; `pendCourses`: courses whose slice is still to be developed; `reports`:
reason codes with the Shingles they cover; `reported`: the reports have gone to the record writer, of which `waitRecs` are not in
the ring yet and `inPend` are in the pending record of R24. -/
structure Line where
  tickno : Nat := 0
  stage : Nat := 0
  edge2 : Nat := 0
  edge3 : Nat := 0
  bank : Nat := 0
  act : Nat := 0
  mask : Nat := 0
  exposed : Bool := false
  reason : Nat := 0
  dir : Nat := 0
  proof : Nat := 0
  repeatNo : Nat := 0
  lineInRep : Nat := 0
  first : Bool := false
  repStart : Bool := false
  sheet : Bool := false
  lampEol : Bool := false
  lampSafe : Bool := false
  reregNo : Nat := 0
  keepAct : Nat := 0
  keepCut : SMap Nat := []
  gone : Nat := 0
  handled : Nat := 0
  pendCourses : Nat := 0
  reports : List (Nat × Nat) := []
  reported : Bool := false
  waitRecs : Nat := 0
  inPend : Nat := 0
  deriving DecidableEq, Repr

/-! ## Shingle engines (chapters 6 and 7) -/

/-- The stacked samples of one slot and band of an intake line: the contributions to be averaged (R73). -/
structure StackBand where
  slot : Nat := 0
  band : Nat := 0
  rows : List RowData := []
  deriving DecidableEq, Repr

/-- An intake queue entry (R76, R136). -/
structure Intake where
  tickno : Nat := 0
  status : Nat := 0
  bands : List StackBand := []
  deriving DecidableEq, Repr

/-- A proof queue entry (R138, R185): the proof line of a bank's proof at a base, and its 576 bytes; `absent`: marked absent. -/
structure ProofEntry where
  bank : Nat := 0
  base : Nat := 0
  line : Int := 0
  absent : Bool := false
  data : List Nat := []
  deriving DecidableEq, Repr

/-- An output entry (R139): the development block's owned lanes per band, the emit blocks (64 bytes each, oldest first), TRUNC; and
what the record writer needs of the invocation: line flags (R193), whether the records are given up, the proof line for the
learner (R197) with the across offset. -/
structure OutEntry where
  tickno : Nat := 0
  bank : Nat := 0
  dev : SMap (List Nat) := []
  emits : List (List Nat) := []
  trunc : Bool := false
  proofPart : Bool := false
  stackGap : Bool := false
  coast : Bool := false
  thermal : Bool := false
  noRecords : Bool := false
  learn : Option Nat := none
  across : Int := 0
  deriving DecidableEq, Repr

/-- The invocation in progress (R137, R157, R168): its intake entry, its bank, whether it is an INIT run; the next word and the
cycle in which it may issue (the first word's cycle is 0); the time `anchorT` at which `anchorC` cycles had passed since the
entry; cycles of an INIT run before it; tick edges since the first entry; BUDGET; the proof line and the window's lines; the
output claim; emits accepted; when registers become available; the cycles, rising, in which the outstanding loft accesses end and the
one in which the last write is accepted; whether the host has accessed the tray, and the cycles in a row with an access on its scalar and
its vector port (R131, R165, R171); the
thermal mark of its entry and the GAP of its line descriptor, which an INIT run hands on to its line (R132). -/
structure Run where
  line : Intake := {}
  bank : Nat := 0
  init : Bool := false
  pc : Nat := 0
  cyc : Nat := 0
  anchorT : Nat := 0
  anchorC : Nat := 0
  monBase : Nat := 0
  wdog : Nat := 0
  budget : Int := 0
  proofLine : Int := 0
  window : List ProofEntry := []
  claimed : Bool := false
  claimFail : Bool := false
  recDropped : Bool := false
  out : OutEntry := {}
  report : Option (List Nat) := none
  loft : List Nat := []
  wrote : Nat := 0
  host : Bool := false
  scalarPort : Nat := 0
  vectorPort : Nat := 0
  avail : SMap Nat := []
  thermal : Bool := false
  gap : Nat := 0
  deriving DecidableEq, Repr

/-- One Shingle engine: intake lines that wait, proof entries, output entries that wait for the merger, drop tokens that leave
behind the line being judged, the invocation in progress, the activation whose INIT has run, the line whose invocation last ended
with END; the kernel's registers (scalar; vector; accumulator; predicate), those at 0 not listed. -/
structure Engine where
  intake : List Intake := []
  proof : List ProofEntry := []
  out : List OutEntry := []
  leaving : List Nat := []
  run : Option Run := none
  initAct : Option Nat := none
  restarted : Bool := false
  faulted : Bool := false
  faultAct : Nat := 0
  lastTick : Option Nat := none
  sreg : SMap Word := []
  vreg : SMap (List Half) := []
  areg : SMap (List Word) := []
  preg : SMap (List Bool) := []
  deriving DecidableEq, Repr

/-- A Shingle's registration (R187, R188): the offsets in force, the last confidence, the state (1 UNQUAL, 2 QUAL, 3 COAST),
qualifying and low reports in a row, the last report's offsets; the activation and the number of re-registration events up to
which the values hold. -/
structure Registration where
  act : Nat := 0
  reregNo : Nat := 0
  along : Int := 0
  across : Int := 0
  conf : Nat := 0
  state : Nat := 1
  qual : Nat := 0
  low : Nat := 0
  prevAlong : Int := 0
  prevAcross : Int := 0
  deriving DecidableEq, Repr

/-! ## Jobs (chapter 8) -/

/-- The repeat tracker of the active bank (R175–R177): P and the repeat number, whether the boundary at P was a flywheel boundary, and
whether that one still waits for its mark; the tick of the last mark that counted; missed marks in a row. -/
structure Repeats where
  boundary : Nat := 0
  number : Nat := 0
  fly : Bool := false
  waits : Bool := false
  lastMark : Option Nat := none
  misses : Nat := 0
  deriving DecidableEq, Repr

/-- Jobs beside their registers: the active bank and the tick of its activation, busy banks, the armed bank, a STOP that waits, the repeat
tracker, the ticks of the last 65,536 that carried a mark with what they carried (bits 0–7 the edges
of the inputs, bit 8 sheet start, bit 9 the chain's flag); learning: whether
the learned proof waits for adoption, the base it takes; loft windows of each bank that are off (4·bank + k); whether the
splice mark is in force; re-registration events since the activation; the first activation since when every switch has kept registrations,
and by Shingle the last switch since then at which it had none to keep (R184); registrations. -/
structure Jobs where
  active : Option Nat := none
  act : Nat := 0
  busy : List Nat := []
  armed : Option Nat := none
  stopAt : Bool := false
  rep : Repeats := {}
  marks : List (Nat × Nat) := []
  adoptPend : Bool := false
  lwinBad : List Nat := []
  splice : Bool := true
  reregNo : Nat := 0
  keepAct : Nat := 0
  keepCut : SMap Nat := []
  reg : SMap Registration := []
  deriving DecidableEq, Repr

/-- An uninspected-line record under construction (R23, R24, R194). -/
structure UlRec where
  first : Nat := 0
  last : Nat := 0
  mask : Nat := 0
  reason : Nat := 0
  overflow : Bool := false
  rep : Nat := 0
  line : Nat := 0
  seq : Nat := 0
  job : Nat := 0
  slotOfs : Nat := 0
  deriving DecidableEq, Repr

/-- A report of an uninspected line (R23). -/
structure Report where
  tickno : Nat := 0
  reason : Nat := 0
  mask : Nat := 0
  rep : Nat := 0
  line : Nat := 0
  job : Nat := 0
  deriving DecidableEq, Repr

/-- The record writer: output entries taken by the mergers (Shingle, entry), reports, the open record, the pending
record of R24, the SEQ counters of rings 0 and 1, the watermark, the first tick and number of every repeat so far, newest first (R192). -/
structure RecWriter where
  work : List (Nat × OutEntry) := []
  reports : List Report := []
  openRec : Option UlRec := none
  pendRec : Option UlRec := none
  seq0 : Nat := 0
  seq1 : Nat := 0
  wm : Nat := 0
  reps : List (Nat × Nat) := []
  deriving DecidableEq, Repr


/-! ## The Developer and satellite ingest (chapter 9) -/

/-- A Developer slice (R140, R201): a line of a course with its in-line data. `lanes`: (Shingle, band) to the owned lanes. -/
structure DevSlice where
  tickno : Nat := 0
  course : Nat := 0
  bank : Nat := 0
  lanes : SMap (List Nat) := []
  repeatNo : Nat := 0
  lineInRep : Nat := 0
  deriving DecidableEq, Repr

/-- A patch accumulator (R206–R208): pixels counted, saturated ones, sums and sums of squares of the seven channels, the
histogram. -/
structure PatchAcc where
  count : Nat := 0
  sat : Nat := 0
  sums : List Nat := [0, 0, 0, 0, 0, 0, 0]
  sqs : List Nat := [0, 0, 0, 0, 0, 0, 0]
  hist : SMap Nat := []
  deriving DecidableEq, Repr

/-- The sums of a contact-sheet block (R196, R204): R, G, B over the pixels developed. -/
structure Cell where
  r : Nat := 0
  g : Nat := 0
  b : Nat := 0
  count : Nat := 0
  deriving DecidableEq, Repr

/-- A repeat whose statistics and contact sheet are still to be written (R196, R209): its bank, number and first tick; patches;
blocks by 65,536·y + x; its length once it has ended, and whether a switch or stop cut it. -/
structure RepAcc where
  first : Nat := 0
  bank : Nat := 0
  number : Nat := 0
  patches : SMap PatchAcc := []
  sheet : SMap Cell := []
  lines : Option Nat := none
  cut : Bool := false
  deriving DecidableEq, Repr

/-- A satellite frame (R212–R217): its number, time stamp, ring slot, the tick and the job of its start; received line indices with
the pixels that count in them, excess lines, the SFLAGS marks so far, the context's frame starts up to its own, the time of its last
packet. Once developed: the parameters in force at its start, lines done, the pixel reached in the next, patches. -/
structure SatFrame where
  frameno : Nat := 0
  stamp : Nat := 0
  slot : Nat := 0
  tickno : Nat := 0
  job : Nat := 0
  lines : SMap Nat := []
  excess : Nat := 0
  flags : Nat := 0
  start : Nat := 0
  lastT : Nat := 0
  begun : Bool := false
  par : SMap Word := []
  lineDone : Nat := 0
  pixDone : Nat := 0
  patches : SMap PatchAcc := []
  deriving DecidableEq, Repr

/-- A memory context (R211–R217): its open frame, closed frames oldest first (the head may be in development), the number of a
frame that is being dropped whole, frames dropped since the last record, frame starts seen, the next ring slot, the lines its present turn has developed. -/
structure MemCtx where
  open_ : Option SatFrame := none
  waiting : List SatFrame := []
  dropping : Option Nat := none
  dropped : Nat := 0
  starts : Nat := 0
  turnLines : Nat := 0
  deriving DecidableEq, Repr

/-- The Developer: slices waiting (R140), the memory context in turn (R216), repeats
still to be written, memory contexts. -/
structure Developer where
  input : List DevSlice := []
  turn : Nat := 0
  reps : List RepAcc := []
  ctx : SMap MemCtx := []
  deriving DecidableEq, Repr

/-! ## Memory and DMA (chapter 10) -/

/-- The DDR4 controllers beside their registers: when rank 2·channel + rank was last refreshed, the scrubber's next burst; the beats, by
address, that hold a single-bit error which no read has found yet (R229). -/
structure MemCtl where
  refreshed : SMap Nat := []
  scrubAt : Nat := 0
  flips : List Nat := []
  deriving DecidableEq, Repr

/-- A DMA channel beside its registers (R240–R247): a descriptor is in execution, its completion is due, its 32 bytes, the bytes
delivered so far, the bytes read and not delivered (at most 64, R240), what the packet that it fills holds, its error; how many units it
has written that have not arrived yet, and how many of these are the present descriptor's (R247). -/
structure DmaChan where
  busy : Bool := false
  done : Bool := false
  desc : List Nat := []
  pos : Nat := 0
  buf : List Nat := []
  out : List Nat := []
  err : Nat := 0
  writes : Nat := 0
  own : Nat := 0
  deriving DecidableEq, Repr

/-- The DMA unit: channels that are not idle; the channels, with how many units, that the pending fence waits for; by PRIO the channel that had
the DMA clock last (R240); of each ring whose stream is inside an entry, the units left of it and whether its poison is counted (R246). -/
structure DmaUnit where
  chan : SMap DmaChan := []
  fence : List (Nat × Nat) := []
  last : SMap Nat := []
  part : SMap (Nat × Bool) := []
  deriving DecidableEq, Repr

/-! ## The negative store (chapter 11) -/

/-- A journal record (R260): its SEQ, type, TICKNO and payload; `units` of 64 bytes. -/
structure JRec where
  seq : Nat := 0
  type : Nat := 0
  units : Nat := 0
  tickno : Nat := 0
  payload : List Nat := []
  deriving DecidableEq, Repr

/-- A catalogue entry (Table 11-3) and the catalogue slot that holds it. -/
structure CatEntry where
  slot : Nat := 0
  id : Nat := 0
  type : Nat := 0
  oflags : Nat := 0
  jobId : Nat := 0
  base : Nat := 0
  crc : Nat := 0
  size : Nat := 0
  created : Nat := 0
  origin : Nat := 0
  jseq : Nat := 0
  user : Nat := 0
  deriving DecidableEq, Repr

/-- The life counters (Table 11-6). The two times are held in timer clocks and shown in seconds. -/
structure Life where
  powerClk : Nat := 0
  runClk : Nat := 0
  cycles : Nat := 0
  holdups : Nat := 0
  flushBad : Nat := 0
  shutdowns : Nat := 0
  hwm : Nat := 0
  switches : Nat := 0
  nandBytes : Nat := 0
  lamps : Nat := 0
  deriving DecidableEq, Repr

/-- What a store command takes from the NVS registers at its GO (R258). -/
structure NvsArgs where
  addr : Nat := 0
  len : Nat := 0
  id : Nat := 0
  type : Nat := 0
  jobId : Nat := 0
  user : Nat := 0
  arg : Nat := 0
  keep : Bool := false
  deriving DecidableEq, Repr

/-- A store command in progress: OP, what its GO took, and how a STORE's programming goes. -/
structure NvsJob where
  op : Nat := 0
  args : NvsArgs := {}
  prog : Programmed := { spare := 100, fails := false }
  deriving DecidableEq, Repr

/-- A ring that the hold-up flush wrote (R265): ring, flush-area offset, bytes, SEQ of its first and last entry. -/
structure Flushed where
  ring : Nat := 0
  ofs : Nat := 0
  bytes : Nat := 0
  first : Nat := 0
  last : Nat := 0
  deriving DecidableEq, Repr

/-- The negative store. `journal` holds the committed records from the tail on, oldest first; `waiting` the events that wait
to be committed; `life` the counters and `saved` those of the last LIFE record; `freed` extents with the time of the commit
that freed them (R259); `free` the extents free for allocation, as (first 4 MB unit, units), rising; `lamp` the serial of the
last fitted lamphouse (R389); `flushHdr` the FLUSH_SEQ of a flush header whose FLUSH record is not committed, `flushSeq` that of the
last committed FLUSH record that no FLUSH_RELEASE has given up, with its LOST_PREV (R265, R266); `spare` spare blocks in percent,
`worn` that a WEAR event has told of them (R269); `numbered` that a replay has ended and set TICKNO since power-on (R394). -/
structure Store where
  journal : List JRec := []
  tailUnit : Nat := 0
  seq : Nat := 0
  waiting : List (Nat × List Nat) := []
  cat : List CatEntry := []
  free : List (Nat × Nat) := [(0, 129792)]
  freed : List (Nat × Nat × Nat) := []
  life : Life := {}
  saved : Life := {}
  accAt : Nat := 0
  lastLifeTick : Nat := 0
  lastLifeTime : Nat := 0
  adoptedFrom : Nat := 0
  job : Option NvsJob := none
  compacting : Bool := false
  compactJob : Bool := false
  flushHdr : Option Nat := none
  flushSeq : Option Nat := none
  flushLost : Bool := false
  spare : Nat := 100
  worn : Bool := false
  histPos : Nat := 0
  lamp : Nat := 0
  numbered : Bool := false
  deriving DecidableEq, Repr

/-! ## Ridge ports and the chain (chapter 12) -/

/-- A PRBS checker (R285): the bits received last, the newest first; bits without an error in a row. -/
structure Checker where
  seen : List Bool := []
  good : Nat := 0
  deriving DecidableEq, Repr

/-- A lane of a port beside its registers (R275–R285): locked receiver, valid sync headers in a row while it hunts and the bits
slipped, modulo 66, the validity of the last 256 headers while it is locked; adaptation finished here and at the far end; the request on the line (0 HOLD; 1 PRE INC, 2 PRE DEC, 3 POST
INC, 4 POST DEC), the next one, which waits for the far end's NOT_UPDATED, and the last one made; whether that takes a change back,
UPDATED seen; the FOM to beat, the change tried, whether one of the four has raised the FOM, requests made; taps last trained; the
acknowledges of this end; the next TSEQ; the PRBS checker; the generator's last bits sent, the newest first; bits that INJ inverts of those
still to be sent. -/
structure Lane where
  locked : Bool := false
  run : Nat := 0
  slip : Nat := 0
  recent : List Bool := []
  rxDone : Bool := false
  farDone : Bool := false
  req : Nat := 0
  want : Nat := 0
  last : Nat := 0
  undo : Bool := false
  ackSeen : Bool := false
  bestFom : Nat := 0
  try_ : Nat := 0
  gained : Bool := false
  steps : Nat := 0
  trained : Option (Nat × Nat) := none
  ackPre : Nat := 0
  ackPost : Nat := 0
  ackPreset : Bool := false
  tseq : Nat := 0
  chk : Checker := {}
  gen : List Bool := []
  inv : Nat := 0
  deriving DecidableEq, Repr

/-- A packet queued for transmission; `ring`: the output ring that it streams and the SENT offset behind it (R246). -/
structure TxPkt where
  vc : Nat := 0
  type : Nat := 0
  payload : List Nat := []
  ring : Option (Nat × Nat) := none
  deriving DecidableEq, Repr

/-- What left a port: a packet of a type on a virtual channel, or (`packet` false) an in-band control block of that type, or the raw bits of a
lane in test (`raw`, its bytes are the bits); the time at which it leaves. -/
structure Wire where
  port : Nat := 0
  packet : Bool := false
  vc : Nat := 0
  type : Nat := 0
  seq : Nat := 0
  bytes : List Nat := []
  raw : Option Nat := none
  time : Nat := 0
  deriving DecidableEq, Repr

/-- A Ridge port beside its registers (R273–R293): lanes; the far end's OFFER; when training began; packets queued; the VC whose turn
is next; the next SEQ to send and expected by VC; by VC in units of 64 bytes: the last credit count heard, the one adopted, units
spent, the effective allocation, units held by waiting packets, units freed since link-up; bulk data not taken yet as (VC, units of
its packet that are still to be freed, bytes left); the last packet's time; the cage; ALIGN stripes sent since link-up, of which 16 bits are
the next ALIGN_SEQ, and the time from which they are due; when Safelight was entered (R276, R283). -/
structure Port where
  lanes : SMap Lane := []
  farOffer : Nat := 0
  trainAt : Nat := 0
  tx : List TxPkt := []
  rrNext : Nat := 0
  txSeq : SMap Nat := []
  rxSeq : SMap Nat := []
  heard : SMap Nat := []
  adopted : SMap Nat := []
  spent : SMap Nat := []
  alloc : SMap Nat := []
  held : SMap Nat := []
  freed : SMap Nat := []
  bulk : List (Nat × Nat × List Nat) := []
  idleAt : Nat := 0
  absent : Bool := false
  tripped : Bool := false
  alignSeq : Nat := 0
  alignFrom : Nat := 0
  sleepAt : Nat := 0
  deriving DecidableEq, Repr

/-- The chain (R298–R307). `ctBase` is the chain time in ns at the time `ctAt`; `rate` the steered rate in parts per million;
`okRun` TIME blocks in a row with a small error; `lastTime` the last valid one's arrival; `ctHigh` bits [63:48] as CTHI gave them; the
last TIME block sent and its number; ECHO requests on their way (identifier, departure) and the round trips timed, in 5 ns; the last
valid token (TICKNO, derivation chain time); valid tokens in a row; tokens in a row with enough margin; a single step of TICKNO that
waits (R268, R303). -/
structure Chain where
  ctBase : Nat := 0
  ctAt : Nat := 0
  rate : Int := 0
  okRun : Nat := 0
  lastTime : Option Nat := none
  ctHigh : Nat := 0
  timeSeq : Nat := 0
  sentAt : Option Nat := none
  echoes : List (Nat × Nat) := []
  echoId : Nat := 0
  trips : List Nat := []
  lastTok : Option (Nat × Nat) := none
  valid : Nat := 0
  leadRun : Nat := 0
  pend : Option Nat := none
  deriving DecidableEq, Repr

/-- An event waiting for port H (R294). -/
structure Event where
  code : Nat := 0
  source : Nat := 0
  tickno : Nat := 0
  detail : List Nat := []
  vc : Nat := 0
  deriving DecidableEq, Repr

/-! ## Calibration (chapter 13) -/

/-- The calibration unit beside its registers: converters by bank · 24,608 + position and spares' own converters behind them,
spares by bank · 192 + Shingle, whether the start-up pass is still to come, when the last pass ended, the set in force and one
that waits for the boundary, the run in progress (CAL_STAT.RUN's code) with its result so far: a set, for a TIMING run the trims (none
listed: out of range), the residual and the tick-phase compensation, in 10 ps, that goes with it; the compensation in force, when the
replica driver was last measured (R329, R330); trims that wait for the boundary, drift targets in 10 ps. `runAcc` and `runFrom` count time in
RUN, and `bgAt` holds the count at which each background activity last made progress (R313). -/
structure Calib where
  conv : SMap Conv := []
  spare : SMap Spare := []
  first : Bool := true
  passTime : Nat := 0
  force : CalSet := {}
  next : Option CalSet := none
  run : Nat := 0
  code : Nat := 0
  count : Nat := 0
  result : Option CalSet := none
  store : Bool := false
  sw24 : Bool := false
  trimRes : List Int := []
  tph : Int := 0
  phRes : Int := 0
  tickPh : Int := 0
  driftAt : Nat := 0
  trims : List Int := []
  base : List Int := []
  drift : List Int := []
  runAcc : Nat := 0
  runFrom : Option Nat := none
  bgAt : SMap Nat := []
  deriving DecidableEq, Repr

/-! ## Temperature (chapter 14) -/

/-- The thermal unit beside its registers: values in force by time, tracked differences in 1/64,000 of 0.1 °C, runs of
deviating and agreeing values, sites that are due to become suspect or not, runs of values at SHUTDOWN; how far each site has risen in
RATE_WIN (R337). -/
structure Thermal where
  hist : List (Nat × List Int) := []
  d : SMap Int := []
  seen : Bool := false
  dev : SMap Nat := []
  agree : SMap Nat := []
  dueSus : List Nat := []
  dueOk : List Nat := []
  hot : SMap Nat := []
  rise : SMap Int := []
  graceEnd : Nat := 0
  lastCond : Nat := 0
  lastStage : Nat := 0
  cond : Bool := false
  caps : List Nat := []
  releasing : Bool := false
  stopPend : Bool := false
  deriving DecidableEq, Repr

/-! ## Power (chapter 15) -/

/-- The power path beside its registers. `started`: domains may switch on (from qualification on); `held`: a request of
PWR_CTRL.REQ waits; `wake`: a wake waits for qualification; `failed`: domains that missed regulation; `lastOn`: when the last
domain began to switch on; `preSince`: when PRECHARGE began; `fromStandby`: HOLD-UP was entered from STANDBY; `acc`: safety-timer time in µs;
`mahRest`: charge below 1 mAh in mA·5 ns, `ibatAt` the time up to which the pack's current has been integrated (R357); `shorted`: the last
probe's finding; `faults`: the pack faults raised since the last FAULT_CLR or insertion (R361). -/
structure Power where
  off : Bool := false
  started : Bool := false
  qualSince : Option Nat := none
  qualified : Bool := false
  srcPin : Nat := 0
  fromThermal : Bool := false
  hostStandby : Bool := false
  held : Bool := false
  wake : Bool := false
  failed : List Nat := []
  lastOn : Option Nat := none
  flushEnded : Bool := false
  fromStandby : Bool := false
  waitSince : Nat := 0
  miss : Nat := 0
  idOk : Bool := false
  lowDuty : Nat := 0
  acc : Nat := 0
  mahRest : Int := 0
  ibatAt : Nat := 0
  preSince : Nat := 0
  shorted : Bool := false
  faults : List Nat := []
  deriving DecidableEq, Repr

/-! ## Management bus and lamphouse (chapter 16) -/

/-- The management bus beside its registers (R373–R375): until when a woken window stays awake, from when it is served, until when the
last write word's access runs, the end of the last transaction, whether the present attention request has had its pulse, the next
repeat, the end of the pulse in progress. -/
structure Mb where
  awakeUntil : Option Nat := none
  servedFrom : Nat := 0
  busyUntil : Nat := 0
  lastEnd : Nat := 0
  attnServed : Bool := false
  nextRepeat : Option Nat := none
  pulse : Option Nat := none
  deriving DecidableEq, Repr

/-- A lamphouse request in flight (R382). `kind` is its code: 0x01 READ, 0x10 SETI, 0x20 LIFE_ADD, 0x30 STAT. -/
structure LhReq where
  kind : Nat := 0
  addr : Nat := 0
  len : Nat := 0
  data : List Nat := []
  tries : Nat := 0
  deriving DecidableEq, Repr

/-- The lamphouse link (R380–R390): the request in flight, the place in the identification reads, failed polls in a row, whether a
transfer of set-points is due, waits for its answer or has been answered, the set-points sent; use not yet written back in ms and the
rest below 1 ms by channel, the use in the LIFE_ADD in flight, the life block; times of the last life write-back and poll; the serial last
read, a 24 V trip, a re-read after ABSENT, a switch-off that waits for the write-back, the identity before, the line whose strobes were
suppressed last; when the domain came on. -/
structure Lamp where
  req : Option LhReq := none
  readPos : Nat := 0
  failPolls : Nat := 0
  xferDue : Bool := false
  setiWait : Bool := false
  applied : Bool := false
  sentSet : List Nat := []
  unsent : SMap Nat := []
  rest : SMap Nat := []
  lifeSent : List Nat := []
  lifeBlock : SMap Nat := []
  lastLife : Nat := 0
  lastPoll : Nat := 0
  serial : Nat := 0
  tripped : Bool := false
  reread : Bool := false
  offDue : Bool := false
  prevIdent : List Nat := []
  suppressed : Option Nat := none
  onAt : Nat := 0
  deriving DecidableEq, Repr

/-! ## Start-up and health (chapter 17) -/

/-- Start-up and health beside their registers. `rises`: roll-up bits that have risen and ask for an event; `holdoff`: pages
held off, to the end of the hold-off; `merged`: pages whose bit rose during it; `startAt`: qualification; `warmEnd`: a warm reset runs; `resetHeld`: a reset that waits, 1 warm, 2 by the watchdog, 3 cold; `wakeAs`: one applied in HOLD-UP's WAIT, by LAST_RESET's code, with which the next wake starts; `tempAt`: the
temperature monitors' last value. -/
structure Sys where
  rises : List Nat := []
  holdoff : SMap Nat := []
  merged : List Nat := []
  startAt : Nat := 0
  warmEnd : Option Nat := none
  resetHeld : Nat := 0
  wakeAs : Nat := 0
  tempAt : Nat := 0
  deriving DecidableEq, Repr

/-! ## The row clock (chapter 5) -/

/-- The PLLs beside their registers (R113–R120): PLL_ROW's present target in Hz, whether a hop is in progress, when it began, whether it
has timed out; the PLLs whose VCO runs, when each began to acquire its reference, and those whose output gate is open. -/
structure RowClk where
  target : Frac := ⟨0, 0⟩
  hopping : Bool := false
  hopStart : Nat := 0
  timedOut : Bool := false
  started : List Nat := []
  startAt : SMap Nat := []
  gates : List Nat := []
  deriving DecidableEq, Repr

/-! ## The machine -/

/-- The whole module. `regs` holds every register that is not listed at its reset value; `force` the values in force of
shadowed, banked and next-boundary registers (R414); `frozen` the values a COMMIT froze; `nextPend` the next-boundary
registers written; `commitPend` the pages whose commit waits. `mem` is the module address map (R225). -/
structure State where
  pending : List Instr := []
  now : Nat := 0
  freeIdx : Nat := 0
  rdata : List Nat := []
  regs : SMap Word := []
  force : SMap Word := []
  frozen : SMap Word := []
  nextPend : List Nat := []
  commitPend : List Nat := []
  fuse : SMap Byte := []
  mem : List Host.Cell := []
  poison : List Nat := []
  tick : TickGen := {}
  tmr : Timers := {}
  pins : Pins := {}
  exp : Exposure := {}
  rdo : Readout := {}
  clk : RowClk := {}
  lines : List Line := []
  eng : SMap Engine := []
  job : Jobs := {}
  rec_ : RecWriter := {}
  dev : Developer := {}
  memctl : MemCtl := {}
  dma : DmaUnit := {}
  nvs : Store := {}
  port : SMap Port := []
  chain : Chain := {}
  evtQ : List Event := []
  wire : List Wire := []
  cal : Calib := {}
  therm : Thermal := {}
  pwr : Power := {}
  mb : Mb := {}
  lamp : Lamp := {}
  sys : Sys := {}
  deriving DecidableEq, Repr

/-- Why a step can stop with a fault. -/
inductive Fault where
  /-- No command raises it: every command of the table has an effect on the state (safe). -/
  | none
  deriving DecidableEq, Repr

/-- Why a command can be refused. -/
inductive Refusal where
  /-- A command of the table that has no meaning in this model yet; raised by the dispatch only (safe). -/
  | notModelled (mnemonic : String)
  deriving DecidableEq, Repr

/-- The fuse bytes that are not 0 (R314). DESIGN CHOICE (log 3): the specification gives no module's fuses; the model's are
revision C, the typical DARK_SCALE, one valid band entry per PLL with the default reference, and the matching CRC. -/
def fuseReset : SMap Byte := [
  (0x808, 3), (0x80A, 3), (0x852, 255), (0x853, 255), (0x855, 128), (0x892, 255), 
  (0x893, 255), (0x895, 128), (0x8D2, 255), (0x8D3, 255), (0x8D5, 128), (0x912, 255), 
  (0x913, 255), (0x914, 1), (0x915, 128), (0x952, 255), (0x953, 255), (0x954, 1), 
  (0x955, 128), (0x992, 255), (0x993, 255), (0x994, 1), (0x995, 128), (0xA38, 182), 
  (0xA3A, 174), (0xA3B, 1), (0xA3C, 195), (0xA3D, 4), (0xA3E, 77), (0xA3F, 11), 
  (0xBFC, 182), (0xBFD, 48), (0xBFE, 111), (0xBFF, 119)]

/-- The module as power-on finds it: OFF, every register at its reset value, only AON on, memory with nothing listed. -/
def State.reset : State := { fuse := fuseReset, pwr := { off := true } }

end Sys2Proof.Machine
end

