-- ==== Sys2Proof/Machine/Ops.lean ====
section
/-! DEFINITION. The operations every family shares: sparse tables in canonical form, register fields and values in force,
interrupt bits with their event counters, 64-bit pairs, slack monitors, the module address map's bytes, power domains. -/
namespace Sys2Proof.Machine

/-! ## Sparse tables -/

/-- The listed value of a key. -/
def mapFind {α : Type} : SMap α → Nat → Option α
  | [], _ => none
  | (k, v) :: m, i => if k = i then some v else mapFind m i

/-- The value of a key whose default is `d`. -/
def mapGet {α : Type} (d : α) (m : SMap α) (i : Nat) : α := (mapFind m i).getD d

/-- Insert or replace a key's pair, keys rising. -/
def mapIns {α : Type} : SMap α → Nat → α → SMap α
  | [], i, v => [(i, v)]
  | (k, w) :: m, i, v =>
    if k = i then (i, v) :: m else if i < k then (i, v) :: (k, w) :: m else (k, w) :: mapIns m i v

/-- Remove every pair of a key. -/
def mapDel {α : Type} : SMap α → Nat → SMap α
  | [], _ => []
  | (k, w) :: m, i => if k = i then mapDel m i else (k, w) :: mapDel m i

/-- Set a key whose default is `d`: the default itself is not listed. -/
def mapSet {α : Type} [DecidableEq α] (d : α) (m : SMap α) (i : Nat) (v : α) : SMap α :=
  if v = d then mapDel m i else mapIns m i v

/-- Every key of the table lies above `lo`, keys rise strictly, and no pair holds its key's default. -/
def mapWfFrom {α : Type} [DecidableEq α] (dflt : Nat → α) : Option Nat → SMap α → Bool
  | _, [] => true
  | lo, (k, v) :: m =>
    (match lo with | none => true | some l => decide (l < k)) && decide (v ≠ dflt k) && mapWfFrom dflt (some k) m

/-- The canonical form of a sparse table. -/
def mapWf {α : Type} [DecidableEq α] (dflt : Nat → α) (m : SMap α) : Bool := mapWfFrom dflt none m

/-! ## Sets of numbers as lists without repeats -/

def setAdd (xs : List Nat) (x : Nat) : List Nat := if xs.contains x then xs else xs ++ [x]
def setDel (xs : List Nat) (x : Nat) : List Nat := xs.filter (fun y => y ≠ x)

/-- Insert into a sorted list, before the elements that do not precede it; sort by insertion, keeping the order of equals. -/
def insBy {α : Type} (le : α → α → Bool) (x : α) : List α → List α
  | [] => [x]
  | y :: ys => if le x y then x :: y :: ys else y :: insBy le x ys
def sortBy {α : Type} (le : α → α → Bool) (xs : List α) : List α := xs.foldr (insBy le) []

/-! ## Words -/

/-- Replace bits [lo+w−1:lo] of a number. -/
def insBits (old lo w v : Nat) : Nat :=
  old % 2 ^ lo + (v % 2 ^ w) * 2 ^ lo + old / 2 ^ (lo + w) * 2 ^ (lo + w)

/-- Bits [lo+w−1:lo] of a number. -/
def bits (v lo w : Nat) : Nat := v / 2 ^ lo % 2 ^ w

def bit (v i : Nat) : Bool := v / 2 ^ i % 2 = 1

/-- A two's complement number of w bits as an integer, and back. -/
def toSigned (w v : Nat) : Int := if v % 2 ^ w < 2 ^ (w - 1) then (v % 2 ^ w : Nat) else (v % 2 ^ w : Nat) - (2 ^ w : Nat)
def ofSigned (w : Nat) (x : Int) : Nat := (x % (2 ^ w : Nat)).toNat

def ceilDiv (a b : Nat) : Nat := if b = 0 then 0 else (a + b - 1) / b

/-- Number of ones among the low n bits. -/
def popcount : Nat → Nat → Nat
  | 0, _ => 0
  | n + 1, v => v % 2 + popcount n (v / 2)

/-- The numbers below n whose bit is set, ascending. -/
def bitsOf (n v : Nat) : List Nat := (List.range n).filter (bit v ·)

def boolNat (b : Bool) : Nat := if b then 1 else 0

/-- The integer square root, bit by bit from bit `b` of the root down. -/
def isqrtFrom : Nat → Nat → Nat → Nat
  | 0, _, r => r
  | b + 1, v, r => isqrtFrom b v (if (r + 2 ^ b) * (r + 2 ^ b) ≤ v then r + 2 ^ b else r)

def isqrt (v : Nat) : Nat := isqrtFrom 64 v 0

/-- A quotient rounded to the nearest, a half upwards. -/
def roundDiv (a : Int) (b : Nat) : Int := if b = 0 then 0 else (2 * a + b) / (2 * b : Nat)

/-- Clamp an integer to a range. -/
def clampI (lo hi x : Int) : Int := if x < lo then lo else if hi < x then hi else x

/-! ## Exact fractions (5 ns units unless said otherwise) -/

def fracKnown (f : Frac) : Bool := f.den ≠ 0
def fracFloor (f : Frac) : Nat := f.num / f.den
def fracCeil (f : Frac) : Nat := ceilDiv f.num f.den
/-- a ≤ b for fractions with a value. -/
def fracLe (a b : Frac) : Bool := a.num * b.den ≤ b.num * a.den
def fracNat (n : Nat) : Frac := ⟨n, 1⟩

/-! ## Registers -/

/-- The stored word of the register at an address (for a shadowed register its pending value, R414). -/
def State.reg (s : State) (a : Nat) : Word := mapGet (regReset a) s.regs a

def State.setReg (s : State) (a : Nat) (v : Word) : State := { s with regs := mapSet (regReset a) s.regs a v }

/-- A field of a stored word. -/
def State.get (s : State) (f : Fld) : Nat := bits (s.reg f.reg).toNat f.lo f.w

/-- Write a field of a stored word (the value is taken modulo the field's width). -/
def State.put (s : State) (f : Fld) (v : Nat) : State :=
  s.setReg f.reg (BitVec.ofNat 32 (insBits (s.reg f.reg).toNat f.lo f.w v))

def State.on (s : State) (f : Fld) : Bool := s.get f ≠ 0

/-- A field of the value in force of a shadowed or next-boundary register (R414). -/
def State.actReg (s : State) (a : Nat) : Word := mapGet (regReset a) s.force a
def State.setAct (s : State) (a : Nat) (v : Word) : State := { s with force := mapSet (regReset a) s.force a v }
def State.act (s : State) (f : Fld) : Nat := bits (s.actReg f.reg).toNat f.lo f.w

/-- Count up by n, holding at the field's largest value. -/
def State.bumpBy (s : State) (f : Fld) (n : Nat) : State :=
  s.put f (min (2 ^ f.w - 1) (s.get f + n))
def State.bump (s : State) (f : Fld) : State := s.bumpBy f 1

/-- Two 32-bit fields as one 64-bit number, and back. -/
def State.get64 (s : State) (lo hi : Fld) : Nat := s.get lo + s.get hi * 2 ^ 32
def State.put64 (s : State) (lo hi : Fld) (v : Nat) : State := (s.put lo v).put hi (v / 2 ^ 32)

/-! ## Interrupt bits (R412, R415) -/

def intRaw (page : Nat) : Fld := ⟨page * 4096 + 0x010, 0, 32⟩
def intRawBit (e : Ev) : Fld := ⟨e.page * 4096 + 0x010, e.bit, 1⟩
def intMask (page : Nat) : Fld := ⟨page * 4096 + 0x014, 0, 32⟩
def evtCnt (page byte : Nat) : Fld := ⟨page * 4096 + 0x020 + 4 * (byte / 4), 8 * (byte % 4), 8⟩

/-- INT_RAW AND INT_MASK of a page (R413). -/
def State.intStat (s : State) (page : Nat) : Nat := (s.get (intRaw page)) &&& (s.get (intMask page))

/-! ## The roll-up (R402, R403, R155) -/

/-- The roll-up bit that a listed INT_RAW word sets: its page's own, and ENGG's for a Shingle page. -/
def rollBitOf (page : Nat) : Option Nat :=
  if 0x014 ≤ page ∧ page ≤ 0x02C then some (page - 0x014)
  else if 0x200 ≤ page ∧ page < 0x2C0 then some 5
  else none

/-- Is the header of a page served (R408)? -/
def State.hdrOn (s : State) (page : Nat) : Bool :=
  match pageRow page with
  | none => false
  | some p => bit (s.get R.PWR_DOM_STAT_ON) p.hdrDom

/-- SYS_ROLL: bit k is 1 while INT_STAT of page 0x014 + k is not zero and its header domain is on (R402, R416). -/
def State.sysRoll (s : State) : Nat :=
  s.regs.foldl (fun acc (a, v) =>
    if a % 4096 = 0x010 then
      match rollBitOf (a / 4096) with
      | none => acc
      | some k =>
        if (v.toNat &&& s.get (intMask (a / 4096))) ≠ 0 ∧ s.hdrOn (a / 4096) then acc ||| 2 ^ k else acc
    else acc) 0

/-- The reasons that assert ATTN_N directly (R338, R342, R362, R403): REQUEST, ENFORCE, SHUTDOWN, HOLD-UP. -/
def State.attnDirect (s : State) : Bool :=
  2 ≤ s.get R.THERM_STAT_STATE || s.get R.PWR_STAT_STATE = 4

/-- ATTN_N is asserted (R403). -/
def State.attn (s : State) : Bool := s.attnDirect || (s.sysRoll &&& s.get R.SYS_ATTN_MASK_PAGE) ≠ 0

/-- What follows a change from `old` to `s`: roll-up bits that rise under SYS_EVT_MASK ask for a ROLLUP event (R404), and a
new assertion of ATTN_N asks for a pulse (R403, R375). -/
def State.settleFrom (old s : State) : State :=
  let m0 := old.sysRoll &&& old.get R.SYS_EVT_MASK_PAGE
  let m1 := s.sysRoll &&& s.get R.SYS_EVT_MASK_PAGE
  let new := (bitsOf 25 m1).filter (fun k => !bit m0 k)
  let s1 := if new.isEmpty then s else { s with sys := { s.sys with rises := s.sys.rises ++ new } }
  if s1.attn && !old.attn then { s1 with mb := { s1.mb with attnServed := false } } else s1

/-- n occurrences of an event: the INT_RAW bit is set and the event counter counts, holding at 255 (R415). -/
def State.raiseBy (s : State) (e : Ev) (n : Nat) : State :=
  if n = 0 then s
  else
    let s1 := s.put (intRawBit e) 1
    let s2 := match e.cnt with
      | none => s1
      | some b => s1.bumpBy (evtCnt e.page b) n
    if s.get (intRawBit e) = 1 then s2 else s.settleFrom s2

def State.raise (s : State) (e : Ev) : State := s.raiseBy e 1

/-! ## Power domains (R351, Table 15-3) -/

def dAON : Nat := 0
def dSUPV : Nat := 1
def dCLK : Nat := 2
def dARRAY : Nat := 3
def dCONVN : Nat := 4
def dCONVS : Nat := 5
def dCOURSE (c : Nat) : Nat := 6 + c
def dLOFT : Nat := 18
def dDDR : Nat := 19
def dNVS : Nat := 20
def dPORT (p : Nat) : Nat := 21 + p
def dLAMP : Nat := 24

def State.dom (s : State) (d : Nat) : Bool := bit (s.get R.PWR_DOM_STAT_ON) d

/-- The domain of the rest of a page (R407, R408). -/
def restDom (page : Nat) : Nat :=
  match pageRow page with
  | none => 0
  | some p => p.dom + (if p.perDom = 0 then 0 else (page - p.first) / p.perDom)

/-- Is the rest of the page served (R408)? -/
def State.served (s : State) (page : Nat) : Bool := (pageRow page).isSome && s.hdrOn page && s.dom (restDom page)

/-- The power states as PWR_STAT.STATE codes them (Table 15-8); OFF is a field of the power path, since no register is
served there. -/
def pRUN : Nat := 1
def pIDLE : Nat := 2
def pSTANDBY : Nat := 3
def pHOLDUP : Nat := 4

def State.power (s : State) : Nat := s.get R.PWR_STAT_STATE
def State.inRun (s : State) : Bool := s.power = pRUN && !s.pwr.off
def State.isIdle (s : State) : Bool := s.power = pIDLE && !s.pwr.off

/-- SENSOR_ON: RUN with ARRAY_DRV on, so that row sets can leave the drain (Table 2-6). -/
def State.sensorShow (s : State) : State := s.put R.EXP_STAT_SENSOR_ON (boolNat (s.inRun && s.dom dARRAY))

/-- Time spent in RUN (R313). -/
def State.runTime (s : State) : Nat := s.cal.runAcc + (match s.cal.runFrom with | none => 0 | some u => s.now - u)

/-- The power state takes a value: run time is counted up to here, and SENSOR_ON follows. -/
def State.setPower (s : State) (p : Nat) : State :=
  let s1 := s.put R.PWR_STAT_STATE p
  State.sensorShow { s1 with cal := { s1.cal with runAcc := s.runTime, runFrom := if s1.inRun then some s1.now else none } }

/-- A background activity (0 converter cycle, 1 drift tracking, 2 compaction, 3 scrubbing) begins or makes progress (R313, R264). -/
def State.bgProgress (s : State) (act : Nat) : State :=
  let s1 := State.put { s with cal := { s.cal with bgAt := mapIns s.cal.bgAt act s.runTime } } ⟨R.CAL_BG_STAT_STARVED.reg, act, 1⟩ 0
  if act = 2 then s1.put R.NVS_STAT_STARVED 0 else s1

/-! ## Time in timer clocks of 5 ns -/

def usClk : Nat := 200
def msClk : Nat := 200000
def secClk : Nat := 200000000

/-- Time never runs backward: a command's time or an event's due time. -/
def State.at (s : State) (t : Nat) : State := { s with now := max s.now t }

/-- The next free value's index (the specification leaves the value open). -/
def State.fresh (s : State) : Nat × State := (s.freeIdx, { s with freeIdx := s.freeIdx + 1 })

/-! ## Slack monitors (R106) -/

/-- A monitor: its signed minimum and maximum and its first bin; the bins are 4 bytes apart. -/
structure Mon where
  min : Fld
  max : Fld
  bin0 : Nat
  deriving DecidableEq, Repr

def Mon.bin (m : Mon) (i : Nat) : Fld := ⟨m.bin0 + 4 * i, 0, 32⟩

/-- The bin of a value for a bin width w ≥ 1: bin 0 below w, bin 15 from 15·w (R106). -/
def binOf (w : Nat) (v : Int) : Nat := if v < w then 0 else min 15 (v / (w : Int)).toNat

/-- Enter a value into a monitor. -/
def State.monEnter (s : State) (m : Mon) (w : Nat) (v : Int) : State :=
  let s1 := if v < toSigned 32 (s.get m.min) then s.put m.min (ofSigned 32 v) else s
  let s2 := if v > toSigned 32 (s1.get m.max) then s1.put m.max (ofSigned 32 v) else s1
  s2.bump (m.bin (binOf w v))

/-- Clear a monitor: minimum 0x7FFF_FFFF, maximum 0x8000_0000, bins 0. -/
def State.monClear (s : State) (m : Mon) : State :=
  (List.range 16).foldl (fun s i => s.put (m.bin i) 0) ((s.put m.min 0x7FFFFFFF).put m.max 0x80000000)

/-! ## The module address map (R225): one table of bytes -/

/-- What a byte that nothing has written reads as (DESIGN CHOICE, log 4; the specification gives trays 0 after power-up, R149). -/
def memDefault : Byte := 0

def State.byte (s : State) (a : Nat) : Byte := mapGet memDefault s.mem a
def State.setByte (s : State) (a : Nat) (b : Byte) : State := { s with mem := mapSet memDefault s.mem a b }

/-- n bytes from an address, lowest first, as numbers. -/
def State.bytes (s : State) (a : Nat) : Nat → List Nat
  | 0 => []
  | n + 1 => (s.byte a).toNat :: s.bytes (a + 1) n

/-- Store bytes at rising addresses. -/
def State.putBytes (s : State) (a : Nat) : List Nat → State
  | [] => s
  | b :: bs => (s.setByte a (BitVec.ofNat 8 b)).putBytes (a + 1) bs

/-- Store bytes at rising addresses; a beat written whole loses its bit errors (R229, R230). -/
def State.setBytes (s : State) (a : Nat) (bs : List Nat) : State :=
  let s1 := s.putBytes a bs
  let part (b : Nat) : Bool := b < a || a + bs.length < b + 8
  { s1 with poison := s1.poison.filter part, memctl := { s1.memctl with flips := s1.memctl.flips.filter part } }

/-- A little-endian number from bytes, and its n bytes. -/
def leNat : List Nat → Nat
  | [] => 0
  | b :: bs => b + 256 * leNat bs
def leBytes : Nat → Nat → List Nat
  | 0, _ => []
  | n + 1, v => v % 256 :: leBytes n (v / 256)

/-- Forget every byte from lo up to but not including hi. -/
def memClear (m : List Host.Cell) (lo hi : Nat) : List Host.Cell := m.filter (fun c => c.1 < lo ∨ hi ≤ c.1)

/-- The canonical form of the memory. -/
def Memory.wf (m : List Host.Cell) : Bool := mapWf (fun _ => memDefault) m

/-! ## CRC-32 of the IEEE 802.3 polynomial (R192) and CRC-8 -/

def crc32Bit : Nat → Nat → Nat
  | 0, c => c
  | n + 1, c => crc32Bit n (if c % 2 = 1 then c / 2 ^^^ 0xEDB88320 else c / 2)

def crc32Step (c b : Nat) : Nat := crc32Bit 8 (c ^^^ b)

def crc32 (bs : List Nat) : Nat := (bs.foldl crc32Step 0xFFFFFFFF) ^^^ 0xFFFFFFFF

end Sys2Proof.Machine
end

