-- ==== Sys2Proof/Machine/Journal.lean ====
section
/-! DEFINITION. The journal of the negative store: records, life counters, events, space (R260–R262, R265, R268, R269). -/
namespace Sys2Proof.Machine

/-! ## The module address map (R225, Table 10-1; Table 11-1) -/

def ddrTop : Nat := 0x2000000000
def loftBase : Nat := 0x2000000000
def loftSize : Nat := 0x1000000
def trayBase (s : Nat) : Nat := 0x2100000000 + 0x40000 * s
def traySize : Nat := 0x40000
def bcastBase : Nat := 0x2200000000
def regWindow : Nat := 0x3000000000
def nvsBase : Nat := 0x8000000000
def nvsCatalogue : Nat := nvsBase + 0x100000
def nvsFlush : Nat := nvsBase + 0x40000000
def nvsObjects : Nat := nvsBase + 0xC0000000
def nvsJournal : Nat := nvsBase + 0x7F80000000
def nvsTop : Nat := 0x10000000000

/-! ## Records -/

/-- The record types of Table 11-5. -/
def jOBJ_COMMIT : Nat := 1
def jOBJ_DELETE : Nat := 2
def jLIFE : Nat := 3
def jEVENT : Nat := 4
def jFLUSH : Nat := 5
def jADOPT : Nat := 6
def jCHECKPOINT : Nat := 7

/-- The length of a record of each type in 64-byte units (Table 11-5). -/
def jUnits (type : Nat) : Nat := if type = jOBJ_COMMIT then 2 else if type = jLIFE then 3 else 1

/-- The 2 GB journal region in 64-byte units, and the 64 MB kept back for LIFE, EVENT and FLUSH records (R262). -/
def jRegion : Nat := 0x2000000
def jReserve : Nat := 0x100000

/-- Units that the records from the tail on take up. -/
def State.jUsed (s : State) : Nat := s.nvs.journal.foldl (fun n r => n + r.units) 0

/-- Free space below the reserve: STORE, DELETE and ADOPT cannot commit (R262). -/
def State.jFull (s : State) : Bool := jRegion < s.jUsed + jReserve

/-- NVS_JOCC, NVS_JSEQ and NVS_STAT.JFULL follow the journal; JFULL is raised when free space falls below the reserve (R262, Table
11-7). -/
def State.jShow (s : State) : State :=
  let s1 := s.put R.NVS_JOCC_MB (ceilDiv s.jUsed 0x4000)
  let s2 := s1.put64 R.NVS_JSEQ_LO_SEQ R.NVS_JSEQ_HI_SEQ s.nvs.seq
  if !s2.jFull then s2.put R.NVS_STAT_JFULL 0
  else if s2.on R.NVS_STAT_JFULL then s2
  else (s2.put R.NVS_STAT_JFULL 1).raise E.NVS_JFULL

/-- Commit a record: SEQ is one more than the previous record's (R260, R261). -/
def State.jCommit (s : State) (type : Nat) (payload : List Nat) : State :=
  let r : JRec := { seq := s.nvs.seq + 1, type := type, units := jUnits type, tickno := s.tick.tickno, payload := payload }
  let l := { s.nvs.life with nandBytes := s.nvs.life.nandBytes + 64 * r.units }
  State.jShow { s with nvs := { s.nvs with journal := s.nvs.journal ++ [r], seq := s.nvs.seq + 1, life := l } }

/-! ## Life counters (R268, Table 11-6) -/

/-- Bring POWER_S and RUN_S up to the present time. -/
def State.accrue (s : State) : State :=
  let dt := if s.pwr.off then 0 else s.now - s.nvs.accAt
  let l := s.nvs.life
  { s with nvs := { s.nvs with
      life := { l with powerClk := l.powerClk + dt, runClk := l.runClk + (if s.inRun then dt else 0) }
      accAt := s.now } }

/-- The life block: ten 8-byte counters, SEQ at 0x50, the CRC at 0x7C. -/
def lifeBlock (l : Life) (seq : Nat) : List Nat :=
  let body := leBytes 8 (l.powerClk / secClk) ++ leBytes 8 (l.runClk / secClk) ++ leBytes 8 l.cycles ++
    leBytes 8 l.holdups ++ leBytes 8 l.flushBad ++ leBytes 8 l.shutdowns ++ leBytes 8 l.hwm ++ leBytes 8 l.switches ++
    leBytes 8 (l.nandBytes / 0x100000) ++ leBytes 8 l.lamps ++ leBytes 8 seq ++ List.replicate 36 0
  body ++ leBytes 4 (crc32 body)

/-- 600 s at 400 kHz: how far TICKNO_HWM lies above the TICKNO at the commit (R268). -/
def hwmAhead : Nat := 240000000

/-- Commit a LIFE record whose TICKNO_HWM covers every TICKNO up to `tick`. -/
def State.lifeCommitAt (s : State) (tick : Nat) : State :=
  let s1 := s.accrue
  let l := { s1.nvs.life with hwm := tick + hwmAhead }
  let s2 := { s1 with nvs := { s1.nvs with life := l, saved := l, lastLifeTick := tick, lastLifeTime := s1.now } }
  s2.jCommit jLIFE (lifeBlock l (s2.nvs.seq + 1))

def State.lifeCommit (s : State) : State := s.lifeCommitAt s.tick.tickno

/-! ## Events (R269) -/

def evTHERMAL_SHUTDOWN : Nat := 1
def evPOWER_LOSS : Nat := 2
def evFLUSH_INCOMPLETE : Nat := 3
def evLAMP_CHANGE : Nat := 4
def evPACK_FAULT : Nat := 5
def evADOPTED : Nat := 6
def evWEAR : Nat := 7

/-- Pad or cut a list of bytes to n. -/
def padTo (n : Nat) (bs : List Nat) : List Nat := (bs ++ List.replicate (n - bs.length) 0).take n

/-- Can the supervisor commit a record now: replay is done and the store's domains are on? Between a flush header and its FLUSH
record nothing else is committed, so that the header names the record (R265, R266). -/
def State.nvsUp (s : State) : Bool := s.on R.NVS_STAT_READY && s.dom dNVS && s.dom dSUPV && s.nvs.flushHdr.isNone

/-- Commit an EVENT record and, with it, a LIFE record (R268, R269). While the store is not up the event waits. -/
def State.jEvent (s : State) (code : Nat) (detail : List Nat) : State :=
  if s.nvsUp then (s.jCommit jEVENT (leBytes 2 code ++ padTo 32 detail)).lifeCommit
  else { s with nvs := { s.nvs with waiting := s.nvs.waiting ++ [(code, detail)] } }

/-- Commit the events that wait. -/
def State.jDrain (s : State) : State :=
  let w := s.nvs.waiting
  let s0 := { s with nvs := { s.nvs with waiting := [] } }
  if w.isEmpty then s0
  else (w.foldl (fun s (c, d) => s.jCommit jEVENT (leBytes 2 c ++ padTo 32 d)) s0).lifeCommit

/-! ## A compaction cut short (R263, R264) -/

/-- A compaction in progress stops; it leaves the old tail in force, and it is neither shown nor starved any more. -/
def State.compactCut (s : State) : State :=
  (((State.put { s with nvs := { s.nvs with compacting := false, compactJob := false } } R.NVS_STAT_COMPACTING 0).put
    R.NVS_STAT_STARVED 0).put ⟨R.CAL_BG_STAT_STARVED.reg, 2, 1⟩ 0)

end Sys2Proof.Machine
end

