-- ==== Sys2Proof/Machine/Events.lean ====
section
/-! DEFINITION. The event queue of port H and the packet queues of the ports (R291, R294); the power domains' loss of state
when they are switched off (R149, R397, R408). -/
namespace Sys2Proof.Machine

/-! ## Ports -/

def State.portOf (s : State) (p : Nat) : Port := mapGet {} s.port p
def State.setPort (s : State) (p : Nat) (x : Port) : State := { s with port := mapSet {} s.port p x }

/-- RP_STAT.STATE codes (R310). -/
def rpOFF : Nat := 0
def rpDOWN : Nat := 1
def rpTRAINING : Nat := 2
def rpUP : Nat := 3
def rpSAFELIGHT : Nat := 4
def rpTEST : Nat := 5

def State.portState (s : State) (p : Nat) : Nat := s.get (R.RP_STAT_STATE p)

/-- A port carries packets while it is UP; in Safelight packets wait but the port stays up (R283). -/
def State.portUp (s : State) (p : Nat) : Bool := s.portState p = rpUP || s.portState p = rpSAFELIGHT

/-- Queue a packet on a port. -/
def State.txPush (s : State) (p : Nat) (k : TxPkt) : State :=
  let x := s.portOf p
  s.setPort p { x with tx := x.tx ++ [k], idleAt := s.now }

/-! ## The event queue (R294) -/

def cDMA_DONE : Nat := 1
def cROLLUP : Nat := 2
def cTHERMAL : Nat := 3
def cLINK : Nat := 4
def cCHAIN : Nat := 5

/-- Queue an event: with 64 waiting, the oldest is dropped. -/
def State.eventOn (s : State) (code source : Nat) (detail : List Nat) (vc : Nat) : State :=
  let e : Event := { code := code, source := source, tickno := s.tick.tickno, detail := padTo 16 detail, vc := vc }
  if s.evtQ.length < 64 then { s with evtQ := s.evtQ ++ [e] }
  else State.raise { s with evtQ := s.evtQ.drop 1 ++ [e] } E.RIDGE_EVT_DROP

/-- An event on RIDGE_CFG.EVT_VC. -/
def State.event (s : State) (code source : Nat) (detail : List Nat) : State :=
  s.eventOn code source detail (s.get R.RIDGE_CFG_EVT_VC)

/-- The 32-byte payload of an EVENT packet. -/
def Event.payload (e : Event) : List Nat :=
  leBytes 2 e.code ++ leBytes 2 e.source ++ leBytes 4 0 ++ leBytes 8 e.tickno ++ padTo 16 e.detail

/-- `EVENT_SEND`: the oldest event becomes a packet of port H once the port is UP. -/
def State.eventSend (s : State) : State :=
  match s.evtQ with
  | [] => s
  | e :: rest =>
    if s.portUp 0 then State.txPush { s with evtQ := rest } 0 { vc := e.vc, type := 0x03, payload := e.payload } else s

def execEventSend (s : State) : Host.Outcome State Fault Refusal := .next s.eventSend

/-- A change of port state, which a LINK event reports (R282, R294). -/
def State.setPortState (s : State) (p st : Nat) : State :=
  if s.portState p = st then s
  else
    let s1 := s.put (R.RP_STAT_STATE p) st
    s1.event cLINK p (leBytes 4 (s1.reg (R.RP_STAT_STATE p).reg).toNat)

/-! ## The chain (R298–R304) -/

def srcENCODER : Nat := 0
def srcTRIG_TIMER : Nat := 1
def srcTRIG_ENCODER : Nat := 2
def srcTIMER : Nat := 3
def srcCHAIN : Nat := 4

/-- Is the tick source CHAIN (also in fallback)? -/
def State.chained (s : State) : Bool := s.act R.TICK_SRC_SRC = srcCHAIN

def State.setChain (s : State) (c : Chain) : State := { s with chain := c }

/-- The chain time in ns at a time in timer clocks, run on at the steered rate (R298). -/
def State.chainTime (s : State) (t : Nat) : Nat :=
  ((s.chain.ctBase : Int) + 5 * ((t : Int) - s.chain.ctAt) * (1000000 + s.chain.rate) / 1000000).toNat % 2 ^ 64

/-- Chain time stands still until CLK is on again. -/
def State.chainStop (s : State) : State := s.setChain { s.chain with ctBase := s.chainTime s.now, ctAt := s.now }

/-- Chain time runs on from here: PLL_SYS, which drives it, comes on (R298). -/
def State.chainRun (s : State) : State := s.setChain { s.chain with ctAt := s.now }

/-- The number that the next tick takes: behind the ticks that wait for their edges. A token's number that TICKNO has passed meanwhile gives
its tick the next number, and its position without an edge none (R7, log 24). -/
def State.chainNext (s : State) : Nat :=
  s.tick.queue.foldl (fun n d => match d.tno with
      | some k => if d.noEdge then max (k + 1) n else max k n + 1
      | none => n + 1 + d.passed)
    (s.tick.tickno + (if s.tick.firstTick then 0 else 1))

/-- A CHAIN event (R294): 1 fallback entered, 2 left, 3 tokens lost, 4 restored, with the first line concerned. -/
def State.chainEvent (s : State) (code n : Nat) : State := s.event cCHAIN 0 ([code, 0, 0, 0, 0, 0, 0, 0] ++ leBytes 8 n)

/-- CT_LOCK is lost (R298). -/
def State.ctUnlock (s : State) : State :=
  let s1 := s.setChain { s.chain with okRun := 0 }
  if s1.on R.CHAIN_STAT_CT_LOCK then (s1.put R.CHAIN_STAT_CT_LOCK 0).raise E.RIDGE_CT_LOCK_LOST else s1

/-- Tokens are lost: LOST and TOKEN_LOSS (R304). -/
def State.tokensGone (s : State) : State :=
  if s.on R.CHAIN_STAT_LOST then s
  else ((s.setChain { s.chain with valid := 0, lastTok := none }).put R.CHAIN_STAT_LOST 1).raise E.RIDGE_TOKEN_LOSS

/-- Port U leaves UP with its domain: CT_LOCK and, with CHAIN the source, the tokens are lost. The CHAIN event has code 3, or 1 where the
module is in fallback already (R294, R304; DESIGN CHOICE, log 144). -/
def State.chainCut (s : State) : State :=
  let s1 := s.ctUnlock
  if !s1.chained || s1.on R.CHAIN_STAT_LOST then s1
  else s1.tokensGone.chainEvent (if s.on R.CHAIN_STAT_FALLBACK then 1 else 3) s.chainNext

/-! ## Domains switched off (R408, R149, Table 17-2) -/

/-- Keep the listed registers that satisfy a test. -/
def keepRegs (f : Nat → Bool) (m : SMap Word) : SMap Word := m.filter (fun (a, _) => f a)

/-- A register of the rest of a page of this domain whose kind is shadowed or banked: its value is lost with the domain. -/
def lostWith (d : Nat) (a : Nat) : Bool :=
  0x040 ≤ a % 4096 && restDom (a / 4096) = d &&
    match regRow a with
    | some r => r.kind = .shadow || r.kind = .banked
    | none => false

/-- A register of the rest of a page of this domain. -/
def restOf (d : Nat) (a : Nat) : Bool := 0x040 ≤ a % 4096 && restDom (a / 4096) = d

def State.dropRegs (s : State) (lost : Nat → Bool) : State :=
  { s with
    regs := keepRegs (fun a => !lost a) s.regs
    force := keepRegs (fun a => !lost a) s.force
    frozen := keepRegs (fun a => !lost a) s.frozen
    nextPend := s.nextPend.filter (fun a => !lost a) }

/-- Forget a range of the module address map, poison marks with it. -/
def State.memForget (s : State) (lo hi : Nat) : State :=
  { s with mem := memClear s.mem lo hi, poison := s.poison.filter (fun a => a < lo || hi ≤ a)
           memctl := { s.memctl with flips := s.memctl.flips.filter (fun a => a < lo || hi ≤ a) } }

/-- The counters of an RP page are cleared only at a cold reset, and RP_CTRL is what switches the port's domain (R273, R310). -/
def rpKept (a : Nat) : Bool :=
  let off := a % 4096
  off = 0x040 || (0x050 ≤ off && off < 0x070)

/-- The counters of a Shingle page are cleared only at a cold reset (R154, Table 17-2). -/
def shKept (a : Nat) : Bool := let off := a % 4096; 0x060 ≤ off && off < 0x074

/-- What stays of an engine without power: the line whose invocation last ended with END (Table 6-2), and that a faulted engine's next
line is entered with RESTARTED = 1 (R143). -/
def Engine.unpowered (e : Engine) : Engine := { lastTick := e.lastTick, restarted := e.restarted || e.faulted }

/-- The engines of a course without power. -/
def State.enginesLost (s : State) (c : Nat) : State :=
  { s with eng := (s.eng.map (fun (p : Nat × Engine) => if p.1 / 16 = c then (p.1, p.2.unpowered) else p)).filter (fun p => p.2 ≠ {}) }

/-- The course's share of ENGG_STAT, its engines and its trays are lost (R149). -/
def State.courseLost (s : State) (c : Nat) : State :=
  let s1 := (s.put ⟨R.ENGG_STAT_COURSE_ON.reg, c, 1⟩ 0).put ⟨(R.ENGG_FAULT_SUMw_SHINGLE (c / 2)).reg, 16 * (c % 2), 16⟩ 0
  ((s1.dropRegs (fun a => restOf (dCOURSE c) a && !shKept a)).enginesLost c).memForget (trayBase (16 * c)) (trayBase (16 * c + 16))

/-- Does a descriptor in progress name the port at either end (R242)? -/
def descUses (d : List Nat) (p : Nat) : Bool :=
  let ctrl := leNat ((d.drop 0x14).take 4)
  (bit ctrl 10 && d.headD 0 % 4 = p) || (bit ctrl 11 && (d.drop 8).headD 0 % 4 = p)

/-- Descriptors in progress on the port end with error PORT (R245). -/
def State.dmaPortLost (s : State) (p : Nat) : State :=
  { s with dma := { s.dma with chan := s.dma.chan.map (fun (c : Nat × DmaChan) =>
      if c.2.busy && !c.2.done && descUses c.2.desc p then (c.1, { c.2 with done := true, err := 7 }) else c) } }

/-- The port's logic is lost, the descriptors that use it end; the cage's condition is the cage's (R245, R397, R423). LINK tells the
RP_STAT that is left. -/
def State.portLost (s : State) (p : Nat) : State :=
  let x := s.portOf p
  let sc := (if p = 1 && s.portUp p then s.chainCut else s).dmaPortLost p
  let s0 := (((sc.put (R.RP_STAT_LANES p) 0).put (R.RP_STAT_WIDTH p) 0).put (R.RP_STAT_FOM_MIN p) 0).put (R.RP_STAT_RATE_ACT p) 0
  let s1 := (s0.setPortState p rpOFF).setPort p { absent := x.absent, tripped := x.tripped }
  s1.dropRegs (fun a => restOf (dPORT p) a && !rpKept a)

/-- The lamphouse link and its status are lost; the unsent life use is lost with them (R387). A 24 V trip stands until PWR is written anew
(R427). -/
def State.lampLost (s : State) : State :=
  let s1 := { s with lamp := { prevIdent := s.lamp.prevIdent, serial := s.lamp.serial, sentSet := s.lamp.sentSet, tripped := s.lamp.tripped }
                     exp := { s.exp with chanOn := [], slots := s.exp.slots.map (fun (r : SlotRun) => { r with lit := false }) }
                     cal := { s.cal with sw24 := false } }
  (((s1.put R.LAMP_STAT_STATE 0).put R.LAMP_STAT_SW_24V 0).put R.LAMP_STAT_SIG 0).put R.LAMP_STAT_CH_FAULT 0

/-- What follows from banked and shadowed values returns to reset with them: the bank checks, caps and row counts, the kernel caps, the
courses used. -/
def bankShown : List Nat :=
  [R.EXP_CHECK_CODE_A.reg, R.EXP_FITCAP_A_FIT_HZ.reg, R.EXP_FITCAP_B_FIT_HZ.reg, R.RDO_CAP_A_F_READ.reg, R.RDO_CAP_B_F_READ.reg,
   R.RDO_CAP_AREA_F_READ.reg, R.RDO_ROWS_A_R_N0.reg, R.RDO_ROWS_B_R_N0.reg, R.ENGG_KCAP_A_HZ.reg, R.ENGG_KCAP_B_HZ.reg]

/-- CLK is off: no PLL runs, nor a hop, nor the divider, nor chain time, and what followed from the banks is gone (R408, R119, R148). -/
def State.clkLost (s : State) : State :=
  let g := { s.tick with acc := 0, cntTimes := [], pred := none }
  let s0 := (((State.chainStop { s with clk := {}, tick := g }).put (R.PLLi_STAT_HOP 1) 0).put (R.PLLi_STAT_HOLD 1) 0).put R.ROW_STAT_HOLD_Q 0
  let s1 := (List.range 6).foldl (fun s i => s.put (R.PLLi_STAT_LOCK i) 0) s0
  (bankShown.foldl (fun s a => s.setReg a (regReset a)) s1).put R.ENGG_STAT_COURSE_USED 0

/-- LOFT_DEV is off: the loft and the Developer's work are lost; DEV_STAT and the contexts' status show it. -/
def State.loftLost (s : State) : State :=
  let s1 := State.memForget { s with dev := {} } loftBase (loftBase + loftSize)
  (List.range 15).foldl (fun s i => s.setReg (R.MCm_MSTAT_OPEN i).reg (regReset (R.MCm_MSTAT_OPEN i).reg))
    (s1.setReg R.DEV_STAT_TURN.reg (regReset R.DEV_STAT_TURN.reg))

/-- DDR4 is in self-refresh or off: nothing reads it, and the scrubber rests. -/
def State.ddrRest (s : State) : State := (s.put R.MEM_STAT_READY 0).put R.MEM_STAT_SCRUBBING 0

/-- The converter banks hold no row any more. -/
def State.banksLost (s : State) : State := { s with rdo := { s.rdo with banks := [] } }

/-- Switch a domain off: its bit, the values R408 says are lost, and the unit's state. DDR4 keeps its contents in
self-refresh, so the memory is forgotten only where the caller says so. -/
def State.domOff (s : State) (d : Nat) : State :=
  if !s.dom d then s
  else
    let s0 := s.put ⟨R.PWR_DOM_STAT_ON.reg, d, 1⟩ 0
    let s1 := s0.dropRegs (lostWith d)
    if 6 ≤ d && d < 18 then s1.courseLost (d - 6)
    else if 21 ≤ d && d < 24 then s1.portLost (d - 21)
    else if d = dLAMP then s1.lampLost
    else if d = dLOFT then s1.loftLost
    else if d = dDDR then s1.ddrRest
    else if d = dCLK then s1.clkLost
    else if d = dNVS then ((s1.compactCut).put R.NVS_STAT_READY 0).put R.NVS_STAT_REPLAYING 0
    else if d = dCONVN || d = dCONVS then s1.banksLost
    else if d = dARRAY then s1.banksLost.sensorShow
    else s1

/-- Switch domains off in the order given. -/
def State.domsOff (s : State) (ds : List Nat) : State := ds.foldl State.domOff s

/-- Calibration measurements in progress are discarded: the array band changes, or a pass is interrupted; the converter concerned is
calibrated again from the beginning (R318). -/
def State.calDiscard (s : State) : State :=
  { s with cal := { s.cal with spare := s.cal.spare.map (fun (k, x) => (k, { x with cand := none })) } }

/-- The order in which domains switch on (R352); they switch off in the reverse order. -/
def domOrder : List Nat :=
  [dAON, dCLK, dDDR, dSUPV, dNVS, dLOFT, dPORT 0, dPORT 1, dPORT 2, dCONVN, dCONVS, dARRAY,
   dCOURSE 0, dCOURSE 1, dCOURSE 2, dCOURSE 3, dCOURSE 4, dCOURSE 5, dCOURSE 6, dCOURSE 7, dCOURSE 8, dCOURSE 9,
   dCOURSE 10, dCOURSE 11, dLAMP]

/-- Switch off every domain that is not in the list, in the reverse of the switch-on order. -/
def State.domsOffBut (s : State) (keep : List Nat) : State :=
  s.domsOff (domOrder.reverse.filter (fun d => !keep.contains d))

end Sys2Proof.Machine
end

