-- ==== Sys2Proof/Machine/Rings.lean ====
section
/-! DEFINITION. The output rings in DDR4 (R236): space, writing an entry whole, the host's free offset, configuration. -/
namespace Sys2Proof.Machine

/-- Units of 64 bytes in ring r. -/
def State.ringUnits (s : State) (r : Nat) : Nat := s.get (R.RINGr_SIZE_SIZE r) * 64
def State.ringWr (s : State) (r : Nat) : Nat := s.get (R.RINGr_WR_OFS r)
def State.ringRd (s : State) (r : Nat) : Nat := s.get (R.RINGr_RD_OFS r)
def State.ringSent (s : State) (r : Nat) : Nat := s.get (R.RINGr_SENT_OFS r)
def State.ringBase (s : State) (r : Nat) : Nat := s.get (R.RINGr_BASE_BASE r) * 4096

/-- The distance from offset a to offset b in ring order. -/
def ringDist (units a b : Nat) : Nat := if units = 0 then 0 else (b + units - a % units) % units

/-- The free space: one unit less than the ring, less what is occupied. -/
def State.ringFree (s : State) (r : Nat) : Nat :=
  s.ringUnits r - 1 - ringDist (s.ringUnits r) (s.ringRd r) (s.ringWr r)

/-- Does a channel stream the ring: enabled, MODE = 1, STREAM = r (R246)? -/
def State.streamed (s : State) (r : Nat) : Bool :=
  (List.range 32).any (fun n => s.on (R.CHn_CTRL_EN n) && s.on (R.CHn_CTRL_MODE n) && s.get (R.CHn_CTRL_STREAM n) = r)

/-- Store an entry's bytes unit by unit, wrapping at the ring's end. -/
def State.ringStore (s : State) (r : Nat) : Nat → Nat → List Nat → State
  | 0, _, _ => s
  | n + 1, ofs, bs =>
    let u := s.ringUnits r
    State.ringStore (s.setBytes (s.ringBase r + 64 * (ofs % u)) (bs.take 64)) r n (ofs + 1) (bs.drop 64)

/-- Write one entry whole, or answer none where it does not fit. On a ring that no channel streams SENT follows WR. -/
def State.ringPut (s : State) (r : Nat) (bs : List Nat) : Option State :=
  let n := ceilDiv bs.length 64
  if s.ringFree r < n then none
  else
    let wr := (s.ringWr r + n) % s.ringUnits r
    let s1 := (s.ringStore r n (s.ringWr r) bs).put (R.RINGr_WR_OFS r) wr
    some (if s1.streamed r then s1 else s1.put (R.RINGr_SENT_OFS r) wr)

/-- Rewrite a 64-byte entry in place. -/
def State.ringRewrite (s : State) (r ofs : Nat) (bs : List Nat) : State :=
  if s.ringUnits r = 0 then s else s.setBytes (s.ringBase r + 64 * (ofs % s.ringUnits r)) bs

/-- The packets queued on port H that stream a ring no longer move its SENT (R236, R246). -/
def State.streamForget (s : State) (r : Nat) : State :=
  let x := s.portOf 0
  let own (k : TxPkt) : Bool := match k.ring with | some (q, _) => q = r | none => false
  let s1 := { s with dma := { s.dma with part := mapDel s.dma.part r } }
  if x.tx.any own then s1.setPort 0 { x with tx := x.tx.map (fun k => if own k then { k with ring := none } else k) } else s1

/-- Count a drop of ring r in its 24-bit DROP counter. -/
def State.ringDrop (s : State) (r : Nat) : State := s.bump (R.RINGr_STAT_DROP r)

/-- An entry of a ring does not fit: OVF and the ring's FULL bit (Table 10-4, R252). -/
def State.ringOverflow (s : State) (r : Nat) : State := (s.put (R.RINGr_STAT_OVF r) 1).raise (E.RING_FULL r)

/-- `RING_RD_WRITE`: the offset, taken modulo the ring's size (R251), moves RD where it lies between RD and SENT in ring order; any other
sets RD_BAD. -/
def State.ringRdWrite (s : State) (r v : Nat) : State :=
  if !s.served 0x020 then s
  else
    let u := s.ringUnits r
    if u ≠ 0 && ringDist u (s.ringRd r) (v % u) ≤ ringDist u (s.ringRd r) (s.ringSent r) then s.put (R.RINGr_RD_OFS r) (v % u)
    else if v = s.ringRd r then s
    else s.put (R.RINGr_STAT_RD_BAD r) 1

def execRingRdWrite (r : Fin 5) (v : Word) (s : State) : Host.Outcome State Fault Refusal :=
  .next (s.ringRdWrite r v.toNat)

/-- `RING_CFG_WRITE`: BASE and SIZE are written while no job runs and EXP_MODE is LINE; the offsets become 0. -/
def State.ringCfgWrite (s : State) (r : Nat) (size : Bool) (v : Nat) : State :=
  if !s.served 0x020 then s
  else if s.job.active.isSome || s.get R.EXP_STAT_MODE_ACT ≠ 0 then s.raise E.RING_CFG_REFUSED
  else
    let s1 := (s.streamForget r).put (if size then R.RINGr_SIZE_SIZE r else R.RINGr_BASE_BASE r) v
    ((s1.put (R.RINGr_WR_OFS r) 0).put (R.RINGr_SENT_OFS r) 0).put (R.RINGr_RD_OFS r) 0

def execRingCfgWrite (r : Fin 5) (size : Bool) (v : Word) (s : State) : Host.Outcome State Fault Refusal :=
  .next (s.ringCfgWrite r size v.toNat)

/-- The units of an entry at an offset: 1 for the record rings; the header of a contact sheet gives its width and height (R196), that of a
statistics record its patches and histograms (R210), that of a raw frame its rows (R239). -/
def State.entryUnits (s : State) (r ofs : Nat) : Nat :=
  let a := s.ringBase r + 64 * (ofs % s.ringUnits r)
  if r = 2 then 1 + leNat (s.bytes (a + 4) 4) * ceilDiv (3 * leNat (s.bytes (a + 2) 2)) 64
  else if r = 3 then 1 + leNat (s.bytes (a + 0x1C) 2) + 16 * leNat (s.bytes (a + 0x1E) 2)
  else if r = 4 then 1 + 769 * leNat (s.bytes (a + 6) 2)
  else 1

end Sys2Proof.Machine
end

