-- ==== Sys2Proof/Machine/Nvs.lean ====
section
/-! DEFINITION. The negative store: its commands, compaction, the hold-up flush and replay (chapter 11). -/
namespace Sys2Proof.Machine

/-! ## Commands (R257, Table 11-4) -/

def nvOK : Nat := 0
def nvBAD_ARG : Nat := 1
def nvNO_SPACE : Nat := 2
def nvNOT_FOUND : Nat := 3
def nvJOURNAL_FULL : Nat := 4
def nvHOLDUP : Nat := 5
def nvDDR_UE : Nat := 6
def nvMEDIA : Nat := 7
def nvNOT_READY : Nat := 8

/-- Does a DMA channel read the store: a staging read (R259)? -/
def State.stagingRead (s : State) : Bool :=
  s.dma.chan.any (fun (_, c) => c.busy && !c.done && decide (nvsBase ≤ leNat (c.desc.take 5)))

/-- Does foreground work pre-empt a compaction: a staging read, or a command that is not itself the compaction (R264)? -/
def State.compactHeld (s : State) : Bool := (s.nvs.job.isSome && !s.nvs.compactJob) || s.stagingRead

/-- A compaction that nothing pre-empts any more resumes: it makes progress, and STARVED clears (R264). -/
def State.compactResume (s : State) : State := if s.nvs.compacting && !s.compactHeld then s.bgProgress 2 else s

/-- Start a compaction. -/
def State.compactStart (s : State) : State :=
  (State.put { s with nvs := { s.nvs with compacting := true } } R.NVS_STAT_COMPACTING 1).bgProgress 2

/-- A command ends: RESULT, BUSY = 0, CMD_DONE on success and CMD_ERR otherwise; a compaction that it pre-empted resumes. -/
def State.nvsEnd (s : State) (result count : Nat) : State :=
  let s1 := State.compactResume { s with nvs := { s.nvs with job := none } }
  let s2 := ((s1.put R.NVS_CMD_STAT_BUSY 0).put R.NVS_CMD_STAT_RESULT result).put R.NVS_CMD_STAT_COUNT count
  s2.raise (if result = nvOK then E.NVS_CMD_DONE else E.NVS_CMD_ERR)

/-- What a command takes from the registers. -/
def State.nvsArgs (s : State) : NvsArgs :=
  { addr := s.get64 R.NVS_ADDR_LO_ADDR R.NVS_ADDR_HI_ADDR, len := s.get64 R.NVS_LEN_LO_LEN R.NVS_LEN_HI_LEN
    id := s.get R.NVS_OBJ_ID_ID, type := s.get R.NVS_OBJ_ARG_TYPE, jobId := s.get R.NVS_OBJ_ARG_JOB_ID
    user := s.get R.NVS_USER_USER, arg := s.get64 R.NVS_ARG_LO_ARG R.NVS_ARG_HI_ARG, keep := s.on R.NVS_CMD_KEEP_ORIGIN }

/-- A GO with an operation: refused while BUSY, ended at once in HOLD-UP, STANDBY and before READY, else the command is in progress until
`NVS_CMD_DONE`, which commits what it does (R261: one that is cut short commits nothing). COMPACT starts its compaction. -/
def State.nvsGo (s : State) (op : Nat) (v : Word) (prog : Programmed) : State :=
  if !s.served 0x022 then s
  else if s.on R.NVS_CMD_STAT_BUSY then s.raise E.NVS_CMD_REFUSED
  else
    let s1 := (s.put R.NVS_CMD_OP op).put R.NVS_CMD_KEEP_ORIGIN (bits v.toNat 4 1)
    if s1.power = pHOLDUP || s1.power = pSTANDBY then s1.nvsEnd nvHOLDUP 0
    else if !s1.on R.NVS_STAT_READY then s1.nvsEnd nvNOT_READY 0
    else
      let s2 := s1.put R.NVS_CMD_STAT_BUSY 1
      let s3 := { s2 with nvs := { s2.nvs with job := some { op := op, args := s1.nvsArgs, prog := prog } } }
      if op = 3 then { s3.compactStart with nvs := { s3.compactStart.nvs with compactJob := true } } else s3

/-- A programming that needs no telling of: the store's blocks as they are. -/
def State.progPlain (s : State) : Programmed := { spare := BitVec.ofNat 7 s.nvs.spare, fails := false }

/-- Free journal space is below the reserve: JFULL (R262). -/
def State.jFullSet (s : State) : State := (s.put R.NVS_STAT_JFULL 1).raise E.NVS_JFULL

/-- Does a range lie wholly in DDR4? -/
def inDdr (a n : Nat) : Bool := a + n ≤ ddrTop

/-- Does a range hold a poisoned 64-bit beat (R230)? `poison` lists the beats' addresses. -/
def beatIn (a n b : Nat) : Bool := b < a + n && a < b + 8
def State.poisoned (s : State) (a n : Nat) : Bool := s.poison.any (beatIn a n)

/-- The error address latch takes the first address since it was last read (R229). -/
def State.errLatch (s : State) (a : Nat) : State :=
  if s.on R.MEM_ERR_ADDR_HI_VALID then s
  else ((s.put R.MEM_ERR_ADDR_LO_ADDR a).put R.MEM_ERR_ADDR_HI_ADDR (a / 2 ^ 32)).put R.MEM_ERR_ADDR_HI_VALID 1

/-- A read finds a single-bit error: it is counted, told and latched, and the corrected beat is written back (R229). -/
def State.ceSeen (s : State) (a : Nat) : State :=
  State.errLatch ((State.bump { s with memctl := { s.memctl with flips := setDel s.memctl.flips a } } R.MEM_CE_CNT_COUNT).raise E.MEM_CE) a

/-- A read of a range of DDR4 corrects the single-bit errors and counts the uncorrectable errors that it meets (R229). -/
def State.ddrRead (s : State) (a n : Nat) : State :=
  let s1 := (s.memctl.flips.filter (beatIn a n)).foldl State.ceSeen s
  (s1.poison.filter (beatIn a n)).foldl (fun s b => ((s.bump R.MEM_UE_CNT_COUNT).raise E.MEM_UE).errLatch b) s1

/-- Copy a range of bytes; unwritten bytes read as the default. -/
def State.memCopy (s : State) (src dst n : Nat) : State :=
  let cells := s.mem.filter (fun c => src ≤ c.1 && c.1 < src + n)
  let s1 := { s with mem := memClear s.mem dst (dst + n) }
  cells.foldl (fun s c => s.setByte (c.1 - src + dst) c.2) s1

/-- Extents freed at least 10 s ago become free again (R259). -/
def insertFree : List (Nat × Nat) → Nat × Nat → List (Nat × Nat)
  | [], e => [e]
  | (b, n) :: rest, (c, k) =>
    if c + k < b then (c, k) :: (b, n) :: rest
    else if c + k = b then (c, k + n) :: rest
    else if b + n = c then insertFree rest (b, n + k)
    else (b, n) :: insertFree rest (c, k)

def State.reclaim (s : State) : State :=
  let due := s.nvs.freed.filter (fun (_, _, t) => t + 10 * secClk ≤ s.now)
  let free := due.foldl (fun f (b, n, _) => insertFree f (b, n)) s.nvs.free
  { s with nvs := { s.nvs with free := free, freed := s.nvs.freed.filter (fun (_, _, t) => s.now < t + 10 * secClk) } }

/-- The largest free extent now, as NVS_FREE reads: extents freed 10 s ago count. -/
def State.freeNow (s : State) : Nat := s.reclaim.nvs.free.foldl (fun m (_, n) => max m n) 0

/-- NVS_FREE: the largest free extent. -/
def State.freeShow (s : State) : State :=
  s.put R.NVS_FREE_EXTENT (s.nvs.free.foldl (fun m (_, n) => max m n) 0)

/-- Take n units from the first free extent that holds them (DESIGN CHOICE, log 11: the lowest). -/
def takeFree : List (Nat × Nat) → Nat → Option (Nat × List (Nat × Nat))
  | [], _ => none
  | (b, k) :: rest, n =>
    if n ≤ k then some (b, if k = n then rest else (b + n, k - n) :: rest)
    else (takeFree rest n).map (fun (x, r) => (x, (b, k) :: r))

/-- The lowest free catalogue slot. -/
def freeSlot (cat : List CatEntry) : Nat → Nat → Option Nat
  | 0, _ => none
  | fuel + 1, i => if cat.any (fun e => e.slot = i) then freeSlot cat fuel (i + 1) else some i

def catSlots : Nat := 16760832

/-- The 64 bytes of a catalogue entry (Table 11-3). -/
def CatEntry.bytes (e : CatEntry) : List Nat :=
  let body := leBytes 4 e.id ++ leBytes 1 e.type ++ leBytes 1 e.oflags ++ leBytes 2 e.jobId ++ leBytes 4 e.base ++
    leBytes 4 e.crc ++ leBytes 8 e.size ++ leBytes 8 e.created ++ leBytes 8 e.origin ++ leBytes 8 e.jseq ++
    leBytes 4 e.user ++ leBytes 8 0
  body ++ leBytes 4 (crc32 body)

def State.catStore (s : State) (e : CatEntry) : State := s.setBytes (nvsCatalogue + 64 * e.slot) e.bytes
def State.catClear (s : State) (slot : Nat) : State :=
  { s with mem := memClear s.mem (nvsCatalogue + 64 * slot) (nvsCatalogue + 64 * slot + 64) }

def mbUnits (bytes : Nat) : Nat := ceilDiv bytes 0x400000

/-- The module serial in the fuses (Table 13-1). -/
def State.fuseByte (s : State) (o : Nat) : Nat := (mapGet 0 s.fuse o).toNat
def State.fuseNum (s : State) (o n : Nat) : Nat := leNat ((List.range n).map (fun i => s.fuseByte (o + i)))
def State.serial (s : State) : Nat := s.fuseNum 0x800 8

/-- Spare blocks fall below 2 %: WEAR_LOW, and a WEAR event once (R269). NVS_HEALTH shows what is left. -/
def State.wearSet (s : State) (pct : Nat) : State :=
  let s1 := (State.put { s with nvs := { s.nvs with spare := pct } } R.NVS_HEALTH_SPARE_PCT pct).put R.NVS_STAT_WEAR_LOW
    (boolNat (pct < 2))
  if pct < 2 && !s1.nvs.worn then
    (State.jEvent { s1 with nvs := { s1.nvs with worn := true } } evWEAR []).raise E.NVS_WEAR
  else s1

/-- STORE (R258): copy, commit, then the catalogue entry; a replaced object's extent is freed at the commit. Programming leaves `p.spare` of
the spare blocks, or fails with none left (R269; log 98). -/
def State.storeRun (s : State) (a : NvsArgs) (p : Programmed) : State × Nat × Nat :=
  let addr := a.addr
  let len := a.len
  let id := a.id
  let type := a.type
  if len = 0 || id = 0 || type = 0 || 7 < type || !inDdr addr len then (s, nvBAD_ARG, 0)
  else if s.jFull then (s.jFullSet, nvJOURNAL_FULL, 0)
  else
    let s1 := s.reclaim
    let old := s1.nvs.cat.find? (fun e => e.id = id)
    let slot := match old with
      | some e => some e.slot
      | none => freeSlot s1.nvs.cat (min catSlots (s1.nvs.cat.length + 1)) 0
    match takeFree s1.nvs.free (mbUnits len), slot with
    | some (b, free), some sl =>
      let bad := s1.poisoned addr len
      let s1 := s1.ddrRead addr len
      if bad then (s1, nvDDR_UE, 0)
      else if p.fails then (s1.wearSet 0, nvMEDIA, 0)
      else
        let s1 := s1.wearSet (min s1.nvs.spare p.spare.toNat)
        let base := nvsObjects + b * 0x400000
        let origin := if a.keep then a.arg else s1.serial
        let e : CatEntry := {
          slot := sl, id := id, type := type, oflags := boolNat (origin ≠ s1.serial)
          jobId := a.jobId, base := (base - nvsBase) / 4096, crc := crc32 (s1.bytes addr len)
          size := len, created := s1.tick.tickno, origin := origin, jseq := s1.nvs.seq + 1, user := a.user }
        let s2 := s1.memCopy addr base len
        let s3 := s2.jCommit jOBJ_COMMIT e.bytes
        let l := { s3.nvs.life with nandBytes := s3.nvs.life.nandBytes + len }
        let cat := e :: s3.nvs.cat.filter (fun x => x.id ≠ id)
        let freed := match old with
          | some o => s3.nvs.freed ++ [((o.base * 4096 + nvsBase - nvsObjects) / 0x400000, mbUnits o.size, s3.now)]
          | none => s3.nvs.freed
        let s4 := { s3 with nvs := { s3.nvs with cat := cat, free := free, freed := freed, life := l } }
        ((s4.catStore e).freeShow, nvOK, 0)
    | _, _ => (s1, nvNO_SPACE, 0)

/-- `NVS_STORE`. -/
def execNvsStore (v : Word) (prog : Programmed) (s : State) : Host.Outcome State Fault Refusal := .next (s.nvsGo 1 v prog)

/-- DELETE: commit the removal, clear the entry, free the extent. -/
def State.deleteRun (s : State) (a : NvsArgs) : State × Nat × Nat :=
  let id := a.id
  if id = 0 then (s, nvBAD_ARG, 0)
  else if s.jFull then (s.jFullSet, nvJOURNAL_FULL, 0)
  else match s.nvs.cat.find? (fun e => e.id = id) with
    | none => (s, nvNOT_FOUND, 0)
    | some o =>
      let s1 := s.jCommit jOBJ_DELETE (leBytes 4 id)
      let s2 := { s1 with nvs := { s1.nvs with
          cat := s1.nvs.cat.filter (fun x => x.id ≠ id)
          freed := s1.nvs.freed ++ [((o.base * 4096 + nvsBase - nvsObjects) / 0x400000, mbUnits o.size, s1.now)] } }
      (s2.catClear o.slot, nvOK, 0)

/-- `NVS_DELETE`. -/
def execNvsDelete (v : Word) (s : State) : Host.Outcome State Fault Refusal := .next (s.nvsGo 2 v s.progPlain)

/-! ## Compaction (R263, R264) -/

/-- `NVS_COMPACT`: the command ends with the compaction it starts. -/
def execNvsCompact (v : Word) (s : State) : Host.Outcome State Fault Refusal := .next (s.nvsGo 3 v s.progPlain)

/-- `COMPACTION_START`: the journal holds more than 1,536 MB; never in HOLD-UP or STANDBY, nor while a command has the store (R312). -/
def execCompactionStart (s : State) : Host.Outcome State Fault Refusal :=
  if s.nvsUp && (s.power = pRUN || s.power = pIDLE) && 1536 * 0x4000 < s.jUsed && !s.nvs.compacting
      && s.nvs.job.isNone then .next s.compactStart
  else .next s

/-- The identity block at the start of the header (Table 11-2). -/
def State.identityStore (s : State) : State :=
  let body := padTo 60 (leBytes 2 1 ++ leBytes 8 s.serial ++ leBytes 8 s.nvs.adoptedFrom ++ leBytes 4 s.nvs.tailUnit ++
    leBytes 8 (match s.nvs.journal with | [] => s.nvs.seq + 1 | r :: _ => r.seq))
  s.setBytes nvsBase (body ++ leBytes 4 (crc32 body))

/-- The 64 bytes of a record (Table 11-5). -/
def JRec.bytes (r : JRec) : List Nat :=
  let body := padTo (64 * r.units - 4) (leBytes 8 r.seq ++ leBytes 1 r.type ++ leBytes 1 r.units ++ leBytes 6 0 ++
    leBytes 8 r.tickno ++ r.payload)
  body ++ leBytes 4 (crc32 body)

/-- Copy the EVENT records into the event history, a ring of 4,096 records of 64 bytes (Table 11-2). -/
def State.historyStore (s : State) : State :=
  let evs := s.nvs.journal.filter (fun r => r.type = jEVENT)
  evs.foldl (fun s r =>
    State.setBytes { s with nvs := { s.nvs with histPos := (s.nvs.histPos + 1) % 4096 } }
      (nvsBase + 0x40000 + 64 * s.nvs.histPos) r.bytes) s

/-- `COMPACTION_DONE`: the events and the life block go to the header, a CHECKPOINT commits, and the new TAIL frees the
space before it. A LIFE record is committed at each compaction (R268). While a staging read or another command has the store it is
pre-empted, and does not end (R264, R312). -/
def State.compactionDone (s : State) : State :=
  if !s.nvs.compacting || !s.nvsUp || s.power = pHOLDUP || s.power = pSTANDBY || s.compactHeld then s
  else
    let s1 := s.lifeCommit.historyStore
    let s2 := s1.setBytes (nvsBase + 0x1000) (lifeBlock s1.nvs.saved s1.nvs.seq)
    let tail := (s2.nvs.tailUnit + s2.jUsed) % jRegion
    let s3 := s2.jCommit jCHECKPOINT (leBytes 4 tail ++ leBytes 8 (s2.nvs.seq + 1))
    let keep := s3.nvs.journal.drop (s3.nvs.journal.length - 1)
    let s4 := State.jShow { s3 with nvs := { s3.nvs with journal := keep, tailUnit := tail, compacting := false } }
    let s5 := (s4.identityStore.put R.NVS_STAT_COMPACTING 0).bgProgress 2
    if s5.nvs.compactJob then State.nvsEnd { s5 with nvs := { s5.nvs with compactJob := false } } nvOK 0 else s5

def execCompactionDone (s : State) : Host.Outcome State Fault Refusal := .next s.compactionDone

/-! ## Export, adoption, release (R258, R270) -/

/-- Records copied until the length is used up. -/
def exportTo : List JRec → Nat → List Nat × Nat
  | [], _ => ([], 0)
  | r :: rest, n =>
    if n < 64 * r.units then ([], 0)
    else let (bs, k) := exportTo rest (n - 64 * r.units); (r.bytes ++ bs, k + 1)

/-- EXPORT. -/
def State.exportRun (s : State) (a : NvsArgs) : State × Nat × Nat :=
  let addr := a.addr
  let len := a.len
  let frm := a.arg
  if len = 0 || !inDdr addr len then (s, nvBAD_ARG, 0)
  else
    let (bs, k) := exportTo (s.nvs.journal.filter (fun r => r.type = jEVENT && frm ≤ r.seq)) len
    (s.setBytes addr bs, nvOK, k)

/-- `NVS_EXPORT`. -/
def execNvsExport (v : Word) (s : State) : Host.Outcome State Fault Refusal := .next (s.nvsGo 4 v s.progPlain)

/-- ADOPT: an ADOPT record with the count of objects of that origin, an ADOPTED event, ADOPTED_FROM. -/
def State.adoptRun (s : State) (a : NvsArgs) : State × Nat × Nat :=
  let o := a.arg
  if s.jFull then (s.jFullSet, nvJOURNAL_FULL, 0)
  else
    let n := (s.nvs.cat.filter (fun e => e.origin = o)).length
    let s1 := (s.jCommit jADOPT (leBytes 8 o ++ leBytes 4 n)).jEvent evADOPTED (leBytes 8 o)
    (State.identityStore { s1 with nvs := { s1.nvs with adoptedFrom := o } }, nvOK, 0)

/-- `NVS_ADOPT`. -/
def execNvsAdopt (v : Word) (s : State) : Host.Outcome State Fault Refusal := .next (s.nvsGo 5 v s.progPlain)

/-- FLUSH_RELEASE. -/
def State.releaseRun (s : State) : State × Nat × Nat :=
  (State.put { s with nvs := { s.nvs with flushSeq := none } } R.NVS_FLUSH_STAT_VALID 0, nvOK, 0)

/-- `NVS_FLUSH_RELEASE`. -/
def execNvsFlushRelease (v : Word) (s : State) : Host.Outcome State Fault Refusal := .next (s.nvsGo 6 v s.progPlain)

/-- What a command does, with its result and count (R258, Table 11-4). -/
def State.nvsRun (s : State) (j : NvsJob) : State × Nat × Nat :=
  if j.op = 1 then s.storeRun j.args j.prog
  else if j.op = 2 then s.deleteRun j.args
  else if j.op = 4 then s.exportRun j.args
  else if j.op = 5 then s.adoptRun j.args
  else if j.op = 6 then s.releaseRun
  else (s, nvBAD_ARG, 0)

/-- `NVS_CMD_DONE`: the command in progress makes its change and ends with its result; a COMPACT ends with its compaction. -/
def State.nvsCmdDone (s : State) : State :=
  match s.nvs.job with
  | none => s
  | some j =>
    if s.nvs.compactJob then s
    else
      let r := s.nvsRun j
      r.1.nvsEnd r.2.1 r.2.2

def execNvsCmdDone (s : State) : Host.Outcome State Fault Refusal := .next s.nvsCmdDone

/-- A store command in progress when HOLD-UP begins ends at once with HOLDUP, and has committed nothing (R257; DEDUCED, log 123). A
compaction that a COMPACT waits for is cut short with it. -/
def State.nvsHold (s : State) : State :=
  match s.nvs.job with
  | none => s
  | some _ => (if s.nvs.compactJob then s.compactCut else s).nvsEnd nvHOLDUP 0

/-- A store command cut short (R342, R395, R398): it is not committed and reports nothing. -/
def State.nvsCut (s : State) : State :=
  State.put { s with nvs := { s.nvs with job := none, compactJob := false } } R.NVS_CMD_STAT_BUSY 0

/-! ## The hold-up flush (R265) -/

/-- Whole entries of a ring from RD on that fit in `room` units: units and entries. -/
def State.fitUnits (s : State) (r room : Nat) : Nat → Nat → Nat → Nat × Nat
  | 0, _, got => (got, 0)
  | fuel + 1, ofs, got =>
    if ofs % max 1 (s.ringUnits r) = s.ringWr r then (got, 0)
    else
      let n := s.entryUnits r ofs
      if room < got + n then (got, 1) else s.fitUnits r room fuel (ofs + n) (got + n)

/-- Copy n units of a ring from an offset to an address; the read of DDR4 meets its errors (R229). -/
def State.flushUnits (s : State) (r : Nat) : Nat → Nat → Nat → State
  | 0, _, _ => s
  | n + 1, ofs, dst =>
    let a := s.ringBase r + 64 * (ofs % s.ringUnits r)
    State.flushUnits ((s.ddrRead a 64).memCopy a dst 64) r n (ofs + 1) (dst + 64)

/-- The SEQ of the record at an offset of ring 0 or 1 (Tables 8-8, 8-10); the specification gives a statistics record no SEQ,
so ring 3's is open (log 10). -/
def State.entrySeq (s : State) (r ofs : Nat) : Nat :=
  let a := s.ringBase r + 64 * (ofs % max 1 (s.ringUnits r))
  if r = 0 then leNat (s.bytes (a + 0x30) 4)
  else if r = 1 then leNat (s.bytes (a + 0x34) 4)
  else Config.freeNat s.freeIdx % 2 ^ 32

/-- Flush one ring behind what is written already. -/
def State.flushRing (s : State) (acc : List Flushed × Nat × Nat) (r : Nat) : State × List Flushed × Nat × Nat :=
  let (done, pos, trunc) := acc
  let u := s.ringUnits r
  let (n, cut) := s.fitUnits r (0x2000000 - pos) (u + 1) (s.ringRd r) 0
  let s1 := (s.flushUnits r n (s.ringRd r) (nvsFlush + 64 * pos)).fresh.2
  let f : Flushed := { ring := r, ofs := 64 * pos, bytes := 64 * n, first := s.entrySeq r (s.ringRd r)
                       last := s.entrySeq r ((s.ringRd r + n + u - 1) % max 1 u) }
  (s1, done ++ [f], pos + n, max trunc cut)

/-- L: the TICKNO of the last tick edge. Before the first one after power-on TICKNO is the number of a tick to come (R394). -/
def State.lastTickno (s : State) : Nat := s.tick.tickno - (if s.tick.firstTick then 1 else 0)

/-- The 4 KB flush header; the specification lists its fields and not their places (DESIGN CHOICE, log 12). -/
def State.flushHeader (s : State) (fl : List Flushed) (trunc : Nat) : List Nat :=
  let w := s.get64 R.RING_WM_LO_TICKNO R.RING_WM_HI_TICKNO
  let body := padTo 4092 (leBytes 8 (s.nvs.seq + 1) ++
    (fl.flatMap (fun f => leBytes 8 f.ofs ++ leBytes 8 f.bytes ++ leBytes 4 f.first ++ leBytes 4 f.last)) ++
    leBytes 1 trunc ++ leBytes 8 w ++ leBytes 8 s.lastTickno)
  body ++ leBytes 4 (crc32 body)

/-- Rings 1, 0 and 3 and the header are written. -/
def State.flushRings (s : State) : State :=
  let (s1, a1) := s.flushRing ([], 64, 0) 1
  let (s2, a2) := s1.flushRing a1 0
  let (s3, fl, pos, trunc) := s2.flushRing a2 3
  let l := { s3.nvs.life with nandBytes := s3.nvs.life.nandBytes + 64 * pos }
  let s4 := { s3 with nvs := { s3.nvs with flushHdr := some (s3.nvs.seq + 1), life := l } }
  (s4.setBytes nvsFlush (s4.flushHeader fl trunc)).put R.NVS_FLUSH_STAT_TRUNC trunc

/-- A switch-on begins at t, or 50 µs after the last one began (R352). -/
def State.domBegin (s : State) (t : Nat) : State :=
  let s1 := s.at (match s.pwr.lastOn with | none => t | some u => max t (u + 50 * usClk))
  { s1 with pwr := { s1.pwr with lastOn := some s1.now } }

/-- A domain that the flush needs is switched on, where it is off. -/
def State.flushOn (s : State) (d : Nat) : State :=
  if s.dom d then s else (s.domBegin s.now).put ⟨R.PWR_DOM_STAT_ON.reg, d, 1⟩ 1

/-- DRAIN has ended: the domains of Table 15-3 for FLUSH; those that are off come on one at a time (R352). -/
def State.flushDomains (s : State) : State :=
  let s1 := (s.domsOff (domOrder.reverse.filter (fun d => d ≠ dAON && d ≠ dCLK && d ≠ dDDR && d ≠ dSUPV && d ≠ dNVS && d ≠ dLOFT)))
  [dCLK, dDDR, dSUPV, dNVS, dLOFT].foldl State.flushOn s1

/-- Has DRAIN made its flush steps? -/
def State.drainOver (s : State) : Bool := s.power = pHOLDUP && s.get R.PWR_STAT_HOLD_PHASE = 1 && s.tick.flushLeft = 0

/-- `HOLDUP_FLUSH`: DRAIN has made its flush steps; the sensor, courses, ports and LAMP are switched off, the domains the
flush needs are on, pending records and a LIFE record commit, rings 1, 0 and 3 and the header are written. From STANDBY the store is
taken as replayed, as it was before (DEDUCED, log 124). -/
def State.holdupFlush (s : State) : State :=
  if !s.drainOver then s
  else
    let s1 := s.flushDomains
    let s2 := if s.pwr.fromStandby && s.nvs.numbered && s.nvs.flushHdr.isNone && !bit (s.get R.SYS_SELFTEST_FAIL) 7 then
        s1.put R.NVS_STAT_READY 1 else s1
    let s3 := ((s2.compactCut).put R.PWR_STAT_HOLD_PHASE 2).put R.NVS_STAT_FLUSHING 1
    if s3.on R.NVS_STAT_READY then s3.jDrain.lifeCommit.flushRings else s3

/-- Is the flush area valid: its header's CRC is correct, and a committed FLUSH record carries the header's FLUSH_SEQ (R266)? -/
def State.flushValid (s : State) : Bool :=
  let hdr := s.bytes nvsFlush 4096
  crc32 (hdr.take 4092) = leNat (hdr.drop 4092) && s.nvs.flushSeq = some (leNat (hdr.take 8))

/-- NVS_FLUSH_STAT follows the flush area: TRUNC as its header has it, behind the extents of the three rings. -/
def State.flushShow (s : State) : State :=
  let ok := s.flushValid
  ((s.put R.NVS_FLUSH_STAT_VALID (boolNat ok)).put R.NVS_FLUSH_STAT_LOST_PREV (boolNat (ok && s.nvs.flushLost))).put
    R.NVS_FLUSH_STAT_TRUNC (if ok then leNat (s.bytes (nvsFlush + 80) 1) else 0)

/-- The FLUSH and POWER_LOSS records commit: the flush area is valid (R265, R266). Before READY no flush has been written: a header that waits
for its record is an earlier flush's, which the next replay finds incomplete. -/
def State.flushCommit (s : State) : State :=
  if s.nvs.flushHdr.isNone || !s.on R.NVS_STAT_READY then s.put R.NVS_STAT_FLUSHING 0
  else
  let hdr := s.bytes nvsFlush 4096
  let w := s.get64 R.RING_WM_LO_TICKNO R.RING_WM_HI_TICKNO
  let lost := s.nvs.flushSeq.isSome
  let sq := s.nvs.seq + 1
  let s1 := s.jCommit jFLUSH (leBytes 8 sq ++ hdr.drop 4092)
  let s2 := s1.jCommit jEVENT (leBytes 2 evPOWER_LOSS ++ padTo 32 (leBytes 8 w ++ leBytes 8 s.lastTickno ++ leBytes 8 sq))
  let s3 := { s2 with nvs := { s2.nvs with flushHdr := none, flushSeq := some sq, flushLost := lost } }
  (s3.put R.NVS_STAT_FLUSHING 0).flushShow.jDrain

/-- Step 1 of the replay: does the identity block hold FORMAT 1, this module's SERIAL and a correct CRC (R267)? -/
def State.identityOk (s : State) : Bool :=
  let b := s.bytes nvsBase 64
  leNat (b.take 2) = 1 && leNat ((b.drop 2).take 8) = s.serial && crc32 (b.take 60) = leNat (b.drop 60)

/-- A header in which nothing has ever been written gets its identity and life block (DESIGN CHOICE, log 125: the specification does not say
what wrote the first ones). A written block that fails its check is a self-test item (R400). -/
def State.headerCheck (s : State) : State :=
  if (s.bytes nvsBase 64).any (· ≠ 0) then s else s.identityStore.setBytes (nvsBase + 0x1000) (lifeBlock s.nvs.saved s.nvs.seq)

/-- `REPLAY_DONE` in the store (R266, R267): the identity block is checked, the records are applied, an incomplete flush is recorded,
NVS_FLUSH_STAT and NVS_HEALTH follow from the store, READY is set. `torn` says that the last record was not complete. -/
def State.replayed (s : State) (torn : Bool) : State :=
  let s1 := s.headerCheck.nvsCut
  let s2 := (s1.put R.NVS_STAT_REPLAYING 0).put R.NVS_STAT_READY 1
  let s3 := if torn then s2.raise E.NVS_REPLAY_TRUNC else s2
  let s4 := match s3.nvs.flushHdr with
    | some _ =>
      let s' := { s3 with nvs := { s3.nvs with flushHdr := none, life := { s3.nvs.life with flushBad := s3.nvs.life.flushBad + 1 } } }
      State.jEvent { s' with nvs := { s'.nvs with flushSeq := none } } evFLUSH_INCOMPLETE []
    | none => s3
  let s5 := if s4.flushShow.on R.NVS_FLUSH_STAT_VALID then s4.flushShow.raise E.NVS_FLUSH_FOUND else s4.flushShow
  ((s5.wearSet s5.nvs.spare).jDrain).jShow.freeShow

end Sys2Proof.Machine
end

