-- ==== Sys2Proof/Machine/Banks.lean ====
section
/-! DEFINITION. The job banks' settings as other units see them: Shingle masks, exposure checks and caps (R46–R57), readout
budgets (R70, R71), kernel caps (R148), the tick cap (R102). -/
namespace Sys2Proof.Machine

/-! ## Banks and masks -/

/-- The Shingle mask of a bank, bit s for Shingle s. -/
def State.smask (s : State) (x : Nat) : Nat :=
  (List.range 6).foldl (fun m w => m + s.get (R.ENGG_x_SMASKw_SHINGLE x w) * 2 ^ (32 * w)) 0

def State.inMask (s : State) (x sh : Nat) : Bool := bit (s.get (R.ENGG_x_SMASKw_SHINGLE x (sh / 32))) (sh % 32)

/-- Does a course hold a Shingle of the mask? -/
def maskCourse (mask c : Nat) : Bool := bits mask (16 * c) 16 ≠ 0

/-- The courses of a mask as a 12-bit mask. -/
def maskCourses (mask : Nat) : Nat := (List.range 12).foldl (fun m c => if maskCourse mask c then m + 2 ^ c else m) 0

/-- The bank that an armed switch or START would make active. -/
def State.pendingBank (s : State) : Option Nat := s.job.armed

/-- COURSE_USED follows the masks of the active and the pending bank (R150). -/
def State.usedShow (s : State) : State :=
  let m (b : Option Nat) : Nat := match b with | none => 0 | some x => maskCourses (s.smask x)
  s.put R.ENGG_STAT_COURSE_USED (m s.job.active ||| m s.pendingBank)

/-! ## Exposure slots (R40–R47) -/

def State.slotOn (s : State) (x k : Nat) : Bool := s.on (R.EXP_x_SLOTk_CTRL_EN x k)
def State.slotTap (s : State) (x k : Nat) : Nat := s.get (R.EXP_x_SLOTk_CTRL_TAP x k)
def State.slotRowset (s : State) (x k : Nat) : Nat := s.get (R.EXP_x_SLOTk_CTRL_ROWSET x k)
def State.slotPh (s : State) (x k : Nat) : Nat := s.get (R.EXP_x_SLOTk_TIME_START_PH x k)
def State.slotLen (s : State) (x k : Nat) : Nat := s.get (R.EXP_x_SLOTk_TIME_LENGTH x k)
def State.slotDepth (s : State) (x k : Nat) : Nat := s.get (R.EXP_x_SLOTk_CTRL_DEPTH_M1 x k) + 1

/-- The enabled slots of a bank, ascending. -/
def State.slotsOn (s : State) (x : Nat) : List Nat := (List.range 4).filter (s.slotOn x)

/-- The larger of two fractions. -/
def fracMax (a b : Frac) : Frac := if fracLe a b then b else a

/-- Condition (a) of R46 item 6 solved for T, in ns. -/
def fitA (ph len : Nat) : Frac := ⟨(5 * len + 305) * 1024, 1024 - ph⟩

/-- T_fit of a bank in ns (R47). -/
def State.tFit (s : State) (x : Nat) : Frac :=
  let ks := s.slotsOn x
  let a := ks.foldl (fun f k => fracMax f (fitA (s.slotPh x k) (s.slotLen x k))) ⟨0, 1⟩
  ks.foldl (fun f j => ks.foldl (fun f k =>
    if s.slotRowset x j = s.slotRowset x k ∧ s.slotPh x j < s.slotPh x k then
      fracMax f ⟨(5 * s.slotLen x j + 205) * 1024, s.slotPh x k - s.slotPh x j⟩
    else f) f) a

/-- F_fit: 1/T_fit in whole hertz, at most 400,000. -/
def fitHz (t : Frac) : Nat := if t.num = 0 then 400000 else min 400000 (1000000000 * t.den / t.num)

/-- Is T_fit above 10 ms? -/
def tooLong (t : Frac) : Bool := 10000000 * t.den < t.num

/-- The first enabled slot that breaks a rule. -/
def State.badSlot (s : State) (x : Nat) (bad : Nat → Bool) : Option Nat := (s.slotsOn x).find? bad

/-- The lower slot of the first pair of enabled slots that stand in a relation. -/
def State.badPair (s : State) (x : Nat) (rel : Nat → Nat → Bool) : Option Nat :=
  (s.slotsOn x).find? (fun j => (s.slotsOn x).any (fun k => j < k && rel j k))

/-- The exposure check of a bank: the lowest code that applies and its slot (R46, R57). -/
def State.expCheck (s : State) (x : Nat) : Nat × Nat :=
  if (s.slotsOn x).isEmpty then (1, 0)
  else match s.badPair x (fun j k => s.slotTap x j = s.slotTap x k && s.slotRowset x j = s.slotRowset x k) with
  | some k => (2, k)
  | none => match s.badSlot x (fun k => s.get (R.EXP_x_SLOTk_CTRL_PERIOD x k) % 2 ≠ s.slotRowset x k) with
  | some k => (3, k)
  | none => match s.badSlot x (fun k => 8 < s.get (R.EXP_x_SLOTk_CTRL_RANK_FIRST x k) + s.slotDepth x k) with
  | some k => (4, k)
  | none => match s.badSlot x (fun k => s.get (R.EXP_x_SLOTk_CTRL_BANDS x k) = 0) with
  | some k => (5, k)
  | none => match s.badSlot x (fun k => s.slotLen x k < 20) with
  | some k => (6, k)
  | none => match s.badSlot x (fun k => s.on (R.EXP_x_SLOTk_CTRL_LAMP_EN x k) &&
      (s.get (R.EXP_x_SLOTk_STRB_W_STRB_W x k) < 4 ||
        s.slotLen x k < s.get (R.EXP_x_SLOTk_STRB_DLY_STRB_DLY x k) + s.get (R.EXP_x_SLOTk_STRB_W_STRB_W x k))) with
  | some k => (7, k)
  | none => match s.badPair x (fun j k => s.slotRowset x j = s.slotRowset x k && s.slotPh x j = s.slotPh x k) with
  | some k => (8, k)
  | none => if tooLong (s.tFit x) then (9, 0) else (0, 0)

def State.expCode (s : State) (x : Nat) : Nat := if x = 0 then s.get R.EXP_CHECK_CODE_A else s.get R.EXP_CHECK_CODE_B

/-! ## Rows and readout budget (R4, R35, R43, R70, R71) -/

/-- The converter bank of an active row: 0 N0, 1 N1, 2 S0, 3 S1. -/
def rowBank (r : Nat) : Nat := (if r < 1024 then 0 else 2) + r % 2

/-- The rows that a slot offers, ascending. -/
def State.slotRows (s : State) (x k : Nat) : List Nat :=
  (bitsOf 4 (s.get (R.EXP_x_SLOTk_CTRL_BANDS x k))).flatMap (fun b =>
    (List.range (s.slotDepth x k)).map (fun j =>
      32 * s.get (R.EXP_x_SLOTk_CTRL_PERIOD x k) + 8 * b + s.get (R.EXP_x_SLOTk_CTRL_RANK_FIRST x k) + j))

/-- r_b: the rows that the enabled slots offer to a converter bank. -/
def State.rowsTo (s : State) (x b : Nat) : Nat :=
  (s.slotsOn x).foldl (fun n k => n + ((s.slotRows x k).filter (fun r => rowBank r = b)).length) 0

def State.nRead (s : State) (x : Nat) : Nat := (List.range 4).foldl (fun m b => max m (s.rowsTo x b)) 0

/-- T_RS,min in ps by array band: Table 3-4, for TB0 and TB1 the unrounded value that RDO_TRS_MIN resets to (DEDUCED, log 74). -/
def trsMin (tb : Nat) : Nat := if tb = 2 then 381800 else if tb = 3 then 400000 else 363636

/-- T_RS,eff in ps: the target in force and the band's minimum (R69); a target above 5 µs acts as 5 µs. -/
def State.trsEff (s : State) : Nat := max (min 5000000 (s.act R.RDO_TRS_TGT_TGT)) (trsMin (s.get R.RDO_STAT_TB_ACT))

/-- F_read for a number of row slots. -/
def State.fReadOf (s : State) (n : Nat) : Nat := if n = 0 then 400000 else min 400000 (1000000000000 / (n * s.trsEff))

/-- The readout budget of a bank: 0 while its check code is not OK. -/
def State.readBudget (s : State) (x : Nat) : Nat :=
  if s.expCode x ≠ 0 then 0 else min (s.fReadOf (s.nRead x)) (fitHz (s.tFit x))

/-- Rows and dark rows of the area window for a converter bank (R71). -/
def State.areaRows (s : State) (b : Nat) : Nat :=
  let lo := s.act R.EXP_AREA_CTRL_P_FIRST
  let hi := s.act R.EXP_AREA_CTRL_P_LAST
  let n := if b < 2 then min (hi + 1) 32 - lo else hi + 1 - max lo 32
  16 * n + (if s.act R.EXP_AREA_CTRL_DARK_ROWS = 1 then 4 else 0)

def State.areaRead (s : State) : Nat := (List.range 4).foldl (fun m b => max m (s.areaRows b)) 0

def State.areaFit (s : State) : Frac := fitA (s.act R.EXP_AREA_TIME_START_PH) (s.act R.EXP_AREA_TIME_LENGTH)

/-- The check of area values given by a field reader (R55): 6 LENGTH, 7 STROBE, 9 NO_FIT, 10 AREA_WIN. The area slot has no LAMP_EN, on which item 4
of R46 depends: the strobe is checked where LAMP_MASK is not 0 (DEDUCED, log 155). -/
def areaCheckOf (g : Fld → Nat) : Nat :=
  let len := g R.EXP_AREA_TIME_LENGTH
  if len < 20 then 6
  else if g R.EXP_AREA_CTRL_LAMP_MASK ≠ 0 ∧
      (g R.EXP_AREA_STRB_W_STRB_W < 4 ∨ len < g R.EXP_AREA_STRB_DLY_STRB_DLY + g R.EXP_AREA_STRB_W_STRB_W) then 7
  else if tooLong (fitA (g R.EXP_AREA_TIME_START_PH) len) then 9
  else if g R.EXP_AREA_CTRL_P_LAST < g R.EXP_AREA_CTRL_P_FIRST then 10
  else 0

/-- The frame cap: 0 while the area values in force are not valid. -/
def State.areaCap (s : State) : Nat :=
  if areaCheckOf s.act ≠ 0 then 0 else min (s.fReadOf s.areaRead) (fitHz s.areaFit)

/-- The reported caps of a bank: FITCAP, ROWS, CAP. -/
def State.capShow (s : State) (x : Nat) : State :=
  let ok := s.expCode x = 0
  let fit := if ok then fitHz (s.tFit x) else 0
  let rd := if ok then s.fReadOf (s.nRead x) else 0
  if x = 0 then
    (((((s.put R.EXP_FITCAP_A_FIT_HZ fit).put R.RDO_CAP_A_F_READ rd).put R.RDO_ROWS_A_R_N0 (s.rowsTo 0 0)).put R.RDO_ROWS_A_R_N1
      (s.rowsTo 0 1)).put R.RDO_ROWS_A_R_S0 (s.rowsTo 0 2)).put R.RDO_ROWS_A_R_S1 (s.rowsTo 0 3)
  else
    (((((s.put R.EXP_FITCAP_B_FIT_HZ fit).put R.RDO_CAP_B_F_READ rd).put R.RDO_ROWS_B_R_N0 (s.rowsTo 1 0)).put R.RDO_ROWS_B_R_N1
      (s.rowsTo 1 1)).put R.RDO_ROWS_B_R_S0 (s.rowsTo 1 2)).put R.RDO_ROWS_B_R_S1 (s.rowsTo 1 3)

/-- Every cap after a change of T_RS,eff or of the area values. -/
def State.capsShow (s : State) : State := (((s.capShow 0).capShow 1)).put R.RDO_CAP_AREA_F_READ s.areaCap

/-- `EXP_BANK_CHECK`: the bank's slot set is checked and its caps are computed. -/
def State.bankCheck (s : State) (x : Nat) : State :=
  let (code, slot) := s.expCheck x
  let old := s.expCode x
  let s1 :=
    if x = 0 then ((s.put R.EXP_CHECK_CODE_A code).put R.EXP_CHECK_SLOT_A slot).put R.EXP_CHECK_BUSY_A 0
    else ((s.put R.EXP_CHECK_CODE_B code).put R.EXP_CHECK_SLOT_B slot).put R.EXP_CHECK_BUSY_B 0
  let s2 := s1.capShow x
  if old = 0 && code ≠ 0 then s2.raise (if x = 0 then E.EXP_CHECK_FAIL_A else E.EXP_CHECK_FAIL_B) else s2

/-! ## Line offsets (R73, R75) -/

def State.webDir (s : State) : Nat := s.act R.RDO_CTRL_WEB_DIR

/-- r_ref of a slot: its highest offered row, or with WEB_DIR = 1 its lowest. -/
def State.rRef (s : State) (x k : Nat) : Nat :=
  let rows := s.slotRows x k
  if s.webDir = 0 then rows.foldl max 0 else rows.foldl min 4095

/-- OFS of a slot against the reference slot of the bank. -/
def State.slotOfs (s : State) (x k : Nat) : Int :=
  match s.slotsOn x with
  | [] => 0
  | j :: _ =>
    if !s.slotOn x k then 0
    else if s.webDir = 0 then (s.rRef x k : Int) - s.rRef x j else (s.rRef x j : Int) - s.rRef x k

/-- The bank that RDO_SLOTk_OFS show: the active bank, or the one in EXP_STAT.BANK_ACT. -/
def State.shownBank (s : State) : Nat := s.job.active.getD (s.get R.EXP_STAT_BANK_ACT)

/-! ## Kernel caps (R147, R148) -/

/-- The engine clock of a step in Hz. -/
def stepHz (step : Nat) : Nat := if step = 0 then 1000000000 else if step = 1 then 800000000 else if step = 2 then 600000000 else 400000000

/-- The step in force of a course. -/
def State.stepAct (s : State) (c : Nat) : Nat := bits (s.get R.ENGG_CLK_ACT_STEP) (2 * c) 2

def State.kcap (s : State) (x : Nat) : Nat :=
  let m := s.smask x
  let kcyc := s.get (R.ENGG_x_KCYC_CYC x)
  if m = 0 ∨ kcyc = 0 then 0
  else
    let step := (List.range 12).foldl (fun w c => if maskCourse m c then max w (s.stepAct c) else w) 0
    min 400000 (stepHz step / (kcyc + 16))

def State.kcapShow (s : State) : State := (s.put R.ENGG_KCAP_A_HZ (s.kcap 0)).put R.ENGG_KCAP_B_HZ (s.kcap 1)

def State.jobRunning (s : State) : Bool := s.job.active.isSome
/-- The kernel cap of the active bank; 0 where none is defined. -/
def State.kcapActive (s : State) : Nat := match s.job.active with | none => 0 | some x => s.kcap x

/-! ## The tick cap (R102) -/

/-- The host's cap in force: clamped to 100–400,000. -/
def State.rateCap (s : State) : Nat := min 400000 (max 100 (s.act R.TICK_CTRL_RATE_CAP))

/-- The readout term: the active bank's budget, or the frame cap in the area modes; none where no bank is active. -/
def State.readTerm (s : State) : Option Nat :=
  if s.get R.EXP_STAT_MODE_ACT ≠ 0 then some s.areaCap
  else s.job.active.map s.readBudget

/-- The thermal term in force: TICK_CAP_THERM as the last tick boundary took it (R340). -/
def State.thermCap (s : State) : Nat := s.act R.TICK_CAP_THERM_HZ

/-- The supervisor's fields, clock steps and thermal cap, come into force. -/
def State.thermTake (s : State) : State :=
  (s.setAct R.TICK_CAP_THERM_HZ.reg (s.reg R.TICK_CAP_THERM_HZ.reg)).setAct R.ENGG_CLK_THERM_STEP.reg (s.reg R.ENGG_CLK_THERM_STEP.reg)

/-- F_cap. -/
def State.fCap (s : State) : Nat :=
  let t := min s.rateCap s.thermCap
  match s.readTerm with
  | none => t
  | some r => min r t

/-- TICK_CAP_ACT and the binding terms. -/
def State.capActShow (s : State) : State :=
  let f := s.fCap
  let rd := match s.readTerm with | none => false | some r => decide (r = f)
  (((s.put R.TICK_CAP_ACT_HZ f).put R.TICK_STAT_LIMIT_READ (boolNat rd)).put R.TICK_STAT_LIMIT_HOST
    (boolNat (decide (s.rateCap = f)))).put R.TICK_STAT_LIMIT_THERM (boolNat (decide (s.thermCap = f)))

end Sys2Proof.Machine
end

