-- ==== Sys2Proof/Machine/Lines.lean ====
section
/-! DEFINITION. The accounting of lines in flight: reasons, reports and the accounted-tick watermark (R17, R22–R24, R195, R237). -/
namespace Sys2Proof.Machine

/-! ## Reason codes (Table 8-11) -/

def rcRATE_CAP : Nat := 1
def rcOVERRUN : Nat := 2
def rcPROOF_LATE : Nat := 3
def rcOUTPUT_FULL : Nat := 4
def rcDEV_FULL : Nat := 5
def rcRING_FULL : Nat := 6
def rcTHERMAL : Nat := 7
def rcJOB_PENDING : Nat := 8
def rcUNREGISTERED : Nat := 9
def rcCHAIN_LOST : Nat := 10
def rcMIXED : Nat := 15

def precedence (r : Nat) : Nat :=
  if r = rcRATE_CAP ∨ r = rcTHERMAL ∨ r = rcCHAIN_LOST then 1
  else if r = rcOVERRUN then 2
  else if r = rcPROOF_LATE then 3
  else if r = rcJOB_PENDING then 4
  else if r = rcUNREGISTERED then 5
  else if r = rcOUTPUT_FULL then 6
  else if r = rcDEV_FULL then 7
  else 8

/-- Does reason a come before reason b in the records of one line? -/
def reasonBefore (a b : Nat) : Bool := precedence a < precedence b || (precedence a = precedence b && a ≤ b)

/-- The mask bits of a without those of b. -/
def maskSub (a b : Nat) : Nat := a ^^^ (a &&& b)

/-- Add a reason for a mask: where a Shingle has a reason already, the reason of the earlier stage stands (R24). -/
def addReason (rs : List (Nat × Nat)) (reason mask : Nat) : List (Nat × Nat) :=
  let kept := rs.foldl (fun m (r, old) => if precedence r ≤ precedence reason then maskSub m old else m) mask
  let rest := rs.map (fun (r, old) => (r, maskSub old kept))
  if kept = 0 then rs
  else
    let rest := rest.filter (fun (_, m) => m ≠ 0)
    if rest.any (fun (r, _) => r = reason) then rest.map (fun (r, m) => if r = reason then (r, m ||| kept) else (r, m))
    else rest ++ [(reason, kept)]

/-! ## Lines -/

def State.lineOf (s : State) (n : Nat) : Option Line := s.lines.find? (fun l => l.tickno = n)

def State.setLine (s : State) (n : Nat) (f : Line → Line) : State :=
  { s with lines := s.lines.map (fun l => if l.tickno = n then f l else l) }

/-- The job bits of a line: every Shingle of its mask has been handled. -/
def Line.recDone (l : Line) : Bool := !l.exposed || l.handled = l.mask

def Line.devDone (l : Line) : Bool := !l.exposed || l.pendCourses = 0

/-- A line's reports in the order in which its records are written. -/
def Line.sorted (l : Line) : List (Nat × Nat) := sortBy (fun (a b : Nat × Nat) => reasonBefore a.1 b.1) l.reports

/-- Hand the reports of the lines at the head to the record writer, as far as every earlier line is complete. -/
def reportHeads (s : State) : List Line → List Line × List Report
  | [] => ([], [])
  | l :: ls =>
    if !l.recDone then (l :: ls, [])
    else
      let (ls', rs) := reportHeads s ls
      if l.reported then (l :: ls', rs)
      else
        let mine := l.sorted.map (fun (r, m) =>
          { tickno := l.tickno, reason := r, mask := m, rep := l.repeatNo, line := l.lineInRep
            job := s.get (R.JOB_x_ID_JOB_ID l.bank) : Report })
        ({ l with reported := true, waitRecs := mine.length } :: ls', mine ++ rs)

/-- A line that is accounted: complete, reported, every record in its ring. -/
def Line.accounted (l : Line) : Bool := l.recDone && l.reported && l.waitRecs = 0

/-- Drop the lines at the head that are accounted and developed. -/
def dropDone : List Line → List Line
  | [] => []
  | l :: ls => if l.accounted && l.devDone then dropDone ls else l :: ls

/-- The watermark: one less than the first line that is not accounted, else the last TICKNO issued. -/
def State.watermark (s : State) : Nat :=
  match s.lines.find? (fun l => !l.accounted) with
  | some l => l.tickno - 1
  | none => if s.tick.firstTick then s.tick.tickno - 1 else s.tick.tickno

/-- OLD_BUSY and the busy banks follow the lines in flight (R174). -/
def State.busyShow (s : State) : State :=
  let busy := s.job.busy.filter (fun x => s.lines.any (fun l => l.bank = x && l.exposed && !(l.recDone && l.devDone)))
  State.put { s with job := { s.job with busy := busy } } R.JOB_STAT_OLD_BUSY (boolNat (!busy.isEmpty))

/-- Bring reports, watermark and busy banks up to date after lines have moved. -/
def State.linesSettle (s : State) : State :=
  let (ls, rs) := reportHeads s s.lines
  let s1 := { s with lines := ls, rec_ := { s.rec_ with reports := s.rec_.reports ++ rs } }
  let wm := s1.watermark
  let s2 := { s1 with lines := dropDone s1.lines, rec_ := { s1.rec_ with wm := wm } }
  (s2.put64 R.RING_WM_LO_TICKNO R.RING_WM_HI_TICKNO wm).busyShow

/-- A reason for Shingles of a line. -/
def State.addReport (s : State) (n reason mask : Nat) : State :=
  s.setLine n (fun l => { l with reports := addReason l.reports reason (mask &&& l.mask) })

/-- Is a Shingle of a line reported for a reason that gives up its records (step 1 of R191)? -/
def Line.gaveUp (l : Line) (sh : Nat) : Bool :=
  l.reports.any (fun (r, m) => bit m sh && r ≠ rcDEV_FULL && r ≠ rcRING_FULL)

/-- A Shingle's part of a line needs no more of the record writer. -/
def State.handledBit (s : State) (n sh : Nat) : State := s.setLine n (fun l => { l with handled := l.handled ||| 2 ^ sh })

/-- A line of the active bank that is not exposed, reported whole. -/
def State.lostLine (s : State) (l : Line) (reason : Nat) : State :=
  { s with lines := s.lines ++ [{ l with exposed := false, reason := reason, reports := if l.mask = 0 then [] else [(reason, l.mask)] }] }

end Sys2Proof.Machine
end

