-- ==== Sys2Proof/Machine/TickGen.lean ====
section
/-! DEFINITION. The tick generator: chain time and tokens of derived ticks, the fractional divider, the tick sources
(R94–R100, R298, R299). -/
namespace Sys2Proof.Machine

/-! ## Tokens (R299, R300) -/

def crc8Bit : Nat → Nat → Nat
  | 0, c => c
  | n + 1, c => crc8Bit n (if 128 ≤ c then ((c * 2) ^^^ 0x07) % 256 else c * 2)

/-- The CRC-8 of R300: polynomial x⁸ + x² + x + 1, initial value 0. -/
def crc8 (bs : List Nat) : Nat := bs.foldl (fun c b => crc8Bit 8 (c ^^^ b)) 0

/-- The two blocks of a token. -/
def tokenBlocks (flags hops tno ct tpred : Nat) : List Nat × List Nat :=
  let a := [flags, hops] ++ leBytes 4 tno
  let b := leBytes 4 ct ++ leBytes 3 tpred
  (0x2D :: a ++ [crc8 (a ++ b)], 0x2E :: b)

/-- An in-band block leaves a port at a time. -/
def State.sendBlockAt (s : State) (t p : Nat) (bytes : List Nat) : State :=
  { s with wire := s.wire ++ [{ port := p, packet := false, type := bytes.headD 0, bytes := bytes, time := t }] }

/-- An in-band block leaves a port now. -/
def State.sendBlock (s : State) (p : Nat) (bytes : List Nat) : State := s.sendBlockAt s.now p bytes

def flMARK : Nat := 1
def flSHEET : Nat := 2
def flNOEDGE : Nat := 4

def State.sendToken (s : State) (flags hops tno ct tpred : Nat) : State :=
  let (a, b) := tokenBlocks flags hops tno ct tpred
  (s.sendBlock 2 a).sendBlock 2 b

def State.srcAct (s : State) : Nat := s.get R.TICK_STAT_SRC_ACT

/-- Is the module a head: its tick source is not CHAIN and DOWN_EN = 1? A module in fallback is none (R307). -/
def State.isHead (s : State) : Bool :=
  s.act R.CHAIN_CTRL_DOWN_EN = 1 && s.act R.TICK_SRC_SRC ≠ srcCHAIN && s.portState 2 = rpUP

/-- The number of the tick that is derived next: behind every tick that waits. -/
def State.nextTno (s : State) : Nat :=
  s.tick.tickno + (if s.tick.firstTick then 0 else 1) + s.tick.queue.foldl (fun n d => n + 1 + d.passed) 0

/-! ## Registers of the source in force -/

def State.leadClk (s : State) : Nat := min 8000 (s.act R.TICK_LEAD_LEAD)
def State.timerPeriod (s : State) : Nat := min 2000000 (max 500 (s.act R.TICK_TIMER_PERIOD_PERIOD))
def State.divD (s : State) : Nat := s.act R.TICK_DIV_INT_INT * 2 ^ 32 + s.act R.TICK_DIV_FRAC_FRAC
def State.spanCounts (s : State) : Nat := 2 ^ (min 8 (s.act R.TICK_SRC_SPAN_LOG2))
def State.trigLines (s : State) : Nat := max 1 (s.act R.TICK_TRIG_LINES_LINES)

/-- The exposure mode in force: 0 LINE, 1 AREA, 2 TRIG_AREA. -/
def State.modeAct (s : State) : Nat := s.get R.EXP_STAT_MODE_ACT

/-- Do ticks come from the source of TICK_SRC now? They do in RUN, but for TRIG_AREA (R54). -/
def State.srcRuns (s : State) (src : Nat) : Bool := s.inRun && s.modeAct ≠ 2 && s.srcAct = src

/-- T_pred with TICK_TPRED, in whole 5 ns units. -/
def State.setTpred (s : State) (f : Frac) : State :=
  State.put { s with tick := { s.tick with tpred := f } } R.TICK_TPRED_T (min 0x1FFFFF (fracFloor f))

/-! ## Derived ticks -/

/-- The mark edges accepted up to a tick's derivation, as its bits; the later ones belong to the next tick (R175). -/
def edgeBits (der : Nat) (es : List (Nat × Nat)) : Nat := es.foldl (fun m (u, i) => if u ≤ der then m ||| 2 ^ i else m) 0
def edgesAfter (der : Nat) (es : List (Nat × Nat)) : List (Nat × Nat) := es.filter (fun e => der < e.1)

/-- Do a tick's marks hold an edge of the active bank's MARK source (R175, R299)? -/
def State.headMark (s : State) (marks : Nat) : Bool :=
  match s.job.active with
  | none => false
  | some x => s.get (R.JOB_x_CFG_REP_SRC x) = 1 && bit marks (2 * s.get (R.JOB_x_CFG_MARK_SRC x) + s.get (R.JOB_x_CFG_MARK_EDGE x))

/-- Does a single step of TICKNO wait for the LIFE record that covers it? No tick is derived in the meantime (R268). -/
def State.lifeWaits (s : State) : Bool :=
  match s.chain.pend with
  | none => false
  | some m => !s.jobRunning && decide (s.nvs.saved.hwm ≤ m)

/-- A tick is derived at `der`: it waits for its edge TICK_LEAD later, and a head sends its token, followed by a NOEDGE token for
every position passed over behind it. -/
def State.pushTick (s : State) (d : DerTick) : State :=
  if s.lifeWaits then s else
  let d1 := { d with edge := d.der + s.leadClk, marks := edgeBits d.der s.tick.edgeMarks, tpred := s.tick.tpred }
  let tno := s.nextTno
  let s1 := { s with tick := { s.tick with
    queue := s.tick.queue ++ [d1], lastDer := some d.der, edgeMarks := edgesAfter d.der s.tick.edgeMarks } }
  if !s1.isHead then s1
  else
    let ct := s1.chainTime d.der
    let tp := s1.get R.TICK_TPRED_T
    let s2 := s1.sendToken (boolNat (s1.headMark d1.marks) * flMARK + boolNat d1.sheet * flSHEET) 0 tno ct tp
    (List.range d1.passed).foldl (fun s i => s.sendToken flNOEDGE 0 (tno + 1 + i) ct tp) s2

/-- The token of the tick derived last takes the MARK flag: it leaves when the timer clock of the tick is over, so with every mark
accepted in it (R299; DESIGN CHOICE, log 134). -/
def State.tokenRemark (s : State) : State :=
  match s.wire.zipIdx.reverse.find? (fun (w, _) => w.port = 2 && !w.packet && w.type = 0x2D && !bit (w.bytes.getD 1 0) 2) with
  | none => s
  | some (w, i) =>
    let a := (w.bytes.getD 1 0 ||| flMARK) :: (w.bytes.drop 2).take 5
    let b := (s.wire.getD (i + 1) {}).bytes.drop 1
    { s with wire := s.wire.set i { w with bytes := 0x2D :: a ++ [crc8 (a ++ b)] } }

/-- 1.25 µs: the least distance of two ticks derived by the divider (R96). -/
def minSpacing : Nat := 250

/-- The tick held back is derived once its time has come. -/
def State.releaseDeferred (s : State) (t : Nat) : State :=
  match s.tick.deferred with
  | none => s
  | some d => if d.der ≤ t then State.pushTick { s with tick := { s.tick with deferred := none } } d else s

/-- The divider derives a tick at t (R94, R96). DIV_OVR is set and counted once for each tick that is held back (DESIGN CHOICE, log
109: the specification does not say whether further positions passed over count again). -/
def State.divTick (s : State) (t : Nat) (sheet : Bool) : State :=
  let s1 := s.releaseDeferred t
  match s1.tick.deferred with
  | some d => { s1 with tick := { s1.tick with deferred := some { d with passed := d.passed + 1 } } }
  | none =>
    match s1.tick.lastDer with
    | none => s1.pushTick { der := t, sheet := sheet }
    | some u =>
      if t < u + minSpacing then
        State.raise { s1 with tick := { s1.tick with deferred := some { der := u + minSpacing, sheet := sheet } } } E.TICK_DIV_OVR
      else s1.pushTick { der := t, sheet := sheet }

/-! ## The divider (R94, R95) -/

/-- Does the divider take positions for ticks now: ENCODER in force (the chain's fallback shows it too), or a run of TRIG_ENCODER? In
TRIG_AREA TICK_SRC is not used (R54). -/
def State.divRuns (s : State) : Bool :=
  (s.srcAct = srcENCODER && s.modeAct ≠ 2) || (s.srcRuns srcTRIG_ENCODER && 0 < s.tick.runLeft)

/-- The divider follows every count step of CNT0 in ENCODER and TRIG_ENCODER, in whatever power state (R94); also in CHAIN, for the fallback
of R305. -/
def State.divFollows (s : State) : Bool :=
  s.srcAct = srcENCODER || s.srcAct = srcTRIG_ENCODER || s.srcAct = srcCHAIN

/-- The speed estimate: the time of k counts, and k; none before two forward counts. While fewer than 2^SPAN_LOG2 intervals have been
seen since the restart it is the mean of those there are (DESIGN CHOICE, log 142: R95 does not say). -/
def State.speed (s : State) : Option (Nat × Nat) :=
  match s.tick.cntTimes with
  | [] => none
  | t0 :: rest =>
    let k := min rest.length s.spanCounts
    if k = 0 then none else some (t0 - (rest.getD (k - 1) t0), k)

/-- The predicted time of the next tick, from the last count's time. -/
def State.predict (s : State) : Option Nat :=
  let need := (s.divD : Int) - s.tick.acc
  match s.speed, s.tick.cntTimes with
  | some (dt, k), t0 :: _ =>
    if need ≤ (2 ^ 32 : Nat) then some (t0 + ceilDiv (need.toNat * dt) (2 ^ 32 * k)) else none
  | _, _ => none

def State.rePredict (s : State) : State := { s with tick := { s.tick with pred := if s.divRuns then s.predict else none } }

/-- T_pred = (D / 2³²) × T_cnt where the source in force takes it from the divider. -/
def State.divTpred (s : State) : State :=
  if s.srcAct = srcCHAIN || s.modeAct = 2 then s
  else match s.speed with
    | none => s
    | some (dt, k) => s.setTpred ⟨s.divD * dt, 2 ^ 32 * k⟩

/-- Take one tick off a trigger run; the first carries the sheet-start mark (R99). -/
def State.runStep (s : State) : State :=
  if s.srcAct = srcTRIG_ENCODER || s.srcAct = srcTRIG_TIMER then
    let n := s.tick.runLeft - 1
    State.put { s with tick := { s.tick with runLeft := n, runFirst := false } } R.TICK_STAT_RUN_ACT (boolNat (0 < n))
  else s

/-- One tick of the divider: acc falls by D. Outside RUN no tick is derived (R312), and the position is kept alike. -/
def State.divDerive (s : State) (t : Nat) : State :=
  let sheet := s.srcAct = srcTRIG_ENCODER && s.tick.runFirst
  let s1 := if s.inRun then s.divTick t sheet else s
  State.runStep { s1 with tick := { s1.tick with acc := s1.tick.acc - s1.divD } }

/-- Derive while acc ≥ D, at most n times. -/
def State.divLoop : Nat → State → Nat → State
  | 0, s, _ => s
  | n + 1, s, t => if s.divRuns && decide ((s.divD : Int) ≤ s.tick.acc) then State.divLoop n (s.divDerive t) t else s

/-- How many times D goes into acc. -/
def State.divTimes (s : State) : Nat := if s.divD = 0 then 0 else s.tick.acc.toNat / s.divD

/-- A count step of CNT0 (R94). -/
def State.onCount (s : State) (up : Bool) (t : Nat) : State :=
  if !s.divFollows then s
  else if up then
    let s1 := s.releaseDeferred t
    let s2 := { s1 with tick := { s1.tick with acc := s1.tick.acc + (2 ^ 32 : Nat), cntTimes := (t :: s1.tick.cntTimes).take 257 } }
    let s3 := s2.divTpred
    (State.divLoop s3.divTimes s3 t).rePredict
  else
    State.raise { s with tick := { s.tick with acc := s.tick.acc - (2 ^ 32 : Nat), cntTimes := [], pred := none } } E.TICK_REVERSE

/-- The divider's next tick by time: the one held back, or the predicted one, whichever comes first. -/
def State.predictedTick (s : State) : State :=
  match s.tick.deferred, s.tick.pred with
  | some d, some p =>
    if p < d.der then (let s1 := s.at p; (s1.divDerive p).rePredict) else (s.at d.der).releaseDeferred d.der
  | some d, none => (s.at d.der).releaseDeferred d.der
  | none, some p => if s.divRuns then (let s1 := s.at p; (s1.divDerive p).rePredict) else s
  | none, none => s

/-- `PREDICTED_TICK` (R95). -/
def execPredictedTick (s : State) : Host.Outcome State Fault Refusal :=
  .next (if s.srcAct = srcENCODER && s.modeAct ≠ 2 then s.predictedTick else s)

/-! ## Timer and trigger runs (R98, R99) -/

/-- `TIMER_TICK`: the free-running timer's tick. -/
def State.timerTick (s : State) : State :=
  if !s.srcRuns srcTIMER then s
  else
    let p := s.timerPeriod
    let t := s.tick.next.getD (s.now + p)
    let s1 := (s.at t).setTpred ⟨p, 1⟩
    State.pushTick { s1 with tick := { s1.tick with next := some (t + p) } } { der := t }

def execTimerTick (s : State) : Host.Outcome State Fault Refusal := .next s.timerTick

/-- `TRIG_RUN_TICK`: the next tick of a run, by the timer or by the divider's prediction. -/
def State.trigRunTick (s : State) : State :=
  if s.srcRuns srcTRIG_TIMER && 0 < s.tick.runLeft then
    let p := s.timerPeriod
    let t := s.tick.next.getD s.now
    let s1 := (s.at t).setTpred ⟨p, 1⟩
    let s2 := s1.pushTick { der := t, sheet := s1.tick.runFirst }
    State.runStep { s2 with tick := { s2.tick with next := some (t + p) } }
  else if s.srcRuns srcTRIG_ENCODER then s.predictedTick
  else s

def execTrigRunTick (s : State) : Host.Outcome State Fault Refusal := .next s.trigRunTick

/-- An accepted trigger edge of the kind TICK_TRIG names (R99). -/
def State.tickTrigger (s : State) (i kind t : Nat) : State :=
  let mine := s.act R.TICK_TRIG_SRC = i && s.act R.TICK_TRIG_EDGE = kind
  let timer := s.srcRuns srcTRIG_TIMER
  let enc := s.srcRuns srcTRIG_ENCODER
  if !mine || !(timer || enc) then s
  else if 0 < s.tick.runLeft then s.raise E.TICK_TRIG_OVERLAP
  else
    let dly := s.act R.TICK_TRIG_DLY
    let g := { s.tick with runLeft := s.trigLines, runFirst := true }
    let g1 := if timer then { g with next := some (t + 20 * dly) } else { g with acc := -((dly * 2 ^ 32 : Nat) : Int), pred := none }
    State.put { s with tick := g1 } R.TICK_STAT_RUN_ACT 1

/-! ## Area triggers (R54) -/

/-- An accepted edge on the area trigger: it makes a tick EXP_TRIG_DLY later, where a capped frame period has passed since the
last accepted one. Each edge keeps the delay in force when it came, so the ticks follow their times. -/
def State.areaTrigger (s : State) (i kind t : Nat) : State :=
  if !(s.inRun && s.modeAct = 2 && s.act R.EXP_TRIG_SRC = i && s.act R.EXP_TRIG_EDGE = kind) then s
  else
    let ok : Bool := match s.tick.lastAreaTrig with
      | none => true
      | some u => decide (1000000000 ≤ (t - u) * 5 * s.fCap)
    if ok then
      { s with tick := { s.tick with lastAreaTrig := some t, areaTrigs := insBy (· ≤ ·) (t + 20 * s.act R.EXP_TRIG_DLY_DLY) s.tick.areaTrigs } }
    else s.raise E.EXP_TRIG_MISS

/-- `TRIG_AREA_TICK`: the tick of an accepted area trigger. Its T_pred is the capped frame period (DEDUCED, log 50). -/
def State.trigAreaTick (s : State) : State :=
  match s.tick.areaTrigs with
  | [] => s
  | t :: rest =>
    if !(s.inRun && s.modeAct = 2) then s
    else
      let s1 := ((s.at t).setTpred ⟨200000000, max 1 s.fCap⟩)
      State.pushTick { s1 with tick := { s1.tick with areaTrigs := rest } } { der := t }

def execTrigAreaTick (s : State) : Host.Outcome State Fault Refusal := .next s.trigAreaTick

/-! ## Leaving RUN -/

/-- Derived ticks that wait are dropped and none is derived; the divider goes on following CNT0, and only a predicted tick of a trigger
run goes with its run (R94, R95). SYNC_OUT is at its inactive level outside RUN (R104). -/
def State.tickHalt (s : State) : State :=
  State.put { s with pins := { s.pins with syncEnd := none }, tick := { s.tick with
      queue := [], deferred := none, pred := if s.srcAct = srcENCODER then s.tick.pred else none, next := none
      runLeft := 0, runFirst := false, areaTrigs := [], edgeMarks := [], lastEdge := none, flushLeft := 0 } } R.TICK_STAT_RUN_ACT 0

end Sys2Proof.Machine
end

