-- ==== Sys2Proof/Machine/Timers.lean ====
section
/-! DEFINITION. Encoder and trigger inputs, counters, compare and capture channels, snapshots (R79–R93). -/
namespace Sys2Proof.Machine

/-! ## Counters (R84–R86) -/

def State.cnt (s : State) (k : Nat) : Nat := s.get (R.CNTk_VAL_VAL k)
def State.cntMode (s : State) (k : Nat) : Nat := s.get (R.CNTk_CTRL_MODE k)
/-- Is counter k in a linked pair? Pair (6, 7) never is (R87). -/
def State.linked (s : State) (k : Nat) : Bool := k < 6 && bit (s.get R.TMR_LINK_LINK) (k / 2)
/-- The high counter of a linked pair counts carries only (R86). -/
def State.linkedHigh (s : State) (k : Nat) : Bool := s.linked k && k % 2 = 1

/-- The value that channel j compares against and captures: 64 bits for the low counter of a linked pair (R90). -/
def State.chanWide (s : State) (j : Nat) : Bool := s.linked (j / 2) && (j / 2) % 2 = 0
def State.chanCount (s : State) (j : Nat) : Nat :=
  s.cnt (j / 2) + (if s.chanWide j then s.cnt (j / 2 + 1) * 2 ^ 32 else 0)
def State.chanVal (s : State) (j : Nat) : Nat :=
  s.get (R.CCj_VAL_VAL j) + (if s.chanWide j then s.get (R.CCj_VAL_HI_VAL j) * 2 ^ 32 else 0)

/-- Is channel j an enabled, armed compare channel of the host's? -/
def State.armed (s : State) (j : Nat) : Bool :=
  j < 12 && s.on (R.CCj_CTRL_EN j) && s.get (R.CCj_CTRL_FUNC j) = 0 && s.on (R.CCj_STAT_ARMED j)

/-- After a count of counter k the armed channels whose value is met are due to fire in the same clock (R88). -/
def State.compareMet (s : State) (k : Nat) : State :=
  let met := [2 * k, 2 * k + 1].filter (fun j => s.armed j && s.chanCount j = s.chanVal j)
  { s with tmr := { s.tmr with ccDue := met.foldl (fun m j => mapIns m j s.now) s.tmr.ccDue } }

/-- A channel's captured value, and a change of it. -/
def State.capVal (s : State) (j : Nat) : Nat :=
  s.get (R.CCj_CAP_VAL j) + (if s.chanWide j then s.get (R.CCj_CAP_HI_VAL j) * 2 ^ 32 else 0)
def State.setCap (s : State) (j v : Nat) : State :=
  let s1 := s.put (R.CCj_CAP_VAL j) v
  if s.chanWide j then s1.put (R.CCj_CAP_HI_VAL j) (v / 2 ^ 32) else s1

/-- A count of counter k takes place in the clock of a capture: the value captured is the one after the count, in whatever order the two
were commanded (R91). -/
def State.recapture (s : State) (k : Nat) (up : Bool) : State :=
  ([2 * k, 2 * k + 1].filter (fun j => mapFind s.tmr.capAt j = some s.now)).foldl (fun s j =>
    s.setCap j (if up then s.capVal j + 1 else s.capVal j + (2 ^ 64 - 1))) s

/-- One count of counter k without the pair's carry: the value changes by one, and a value met makes the channel due. A count
in the timer clock of a reset leaves 0 (R85). -/
def State.countOne (s : State) (k : Nat) (up : Bool) : State :=
  let v := if up then s.cnt k + 1 else s.cnt k + (2 ^ 32 - 1)
  s.put (R.CNTk_VAL_VAL k) v

/-- A count of counter k at time t; the carry or borrow of a linked low word counts the high word (R86). CNT0 drives the
divider (R94). -/
def State.countStep (s : State) (k : Nat) (up : Bool) (t : Nat) : State :=
  let s0 := s.recapture k up
  let s1 :=
    if mapFind s.tmr.clrAt k = some t then s0
    else
      let c := s0.countOne k up
      if s.linked k && k % 2 = 0 then
        let carry := if up then c.cnt k = 0 else s.cnt k = 0
        if carry then (((c.recapture (k + 1) up).countOne (k + 1) up).compareMet k).compareMet (k + 1) else c.compareMet k
      else c.compareMet k
  if k = 0 then s1.onCount up t else s1

/-- Count every counter that a test selects, in ascending order. -/
def State.countAll (s : State) (sel : State → Nat → Option Bool) (t : Nat) : State :=
  (List.range 6).foldl (fun s k =>
    if s.linkedHigh k then s else match sel s k with | none => s | some up => s.countStep k up t) s

/-- Reset counter k to 0; the reset of a linked low counter clears both words. -/
def State.clearCnt (s : State) (k t : Nat) : State :=
  let s1 := State.put { s with tmr := { s.tmr with clrAt := mapIns s.tmr.clrAt k t } } (R.CNTk_VAL_VAL k) 0
  if s.linked k && k % 2 = 0 then s1.put (R.CNTk_VAL_VAL (k + 1)) 0 else s1

/-- Reset every counter that a test selects. -/
def State.clearAll (s : State) (sel : State → Nat → Bool) (t : Nat) : State :=
  (List.range 6).foldl (fun s k => if !s.linkedHigh k && sel s k then s.clearCnt k t else s) s

/-- `CNT_LOAD`: a write of CNTk_VAL loads the counter; CNT6 and CNT7 are the exposure unit's (R85, R87). -/
def State.cntLoad (s : State) (k v : Nat) : State :=
  if !s.served 0x016 then s else if 6 ≤ k then s.raise E.TMR_RSV_WRITE else s.put (R.CNTk_VAL_VAL k) v

def execCntLoad (k : Fin 8) (v : Word) (s : State) : Host.Outcome State Fault Refusal := .next (s.cntLoad k v.toNat)

/-- When the next count of a counter in TIMER mode is complete: PRESC + 1 timer clocks after the one before, or after TIMER mode was
set. -/
def State.timerDue (s : State) (k : Nat) : Nat := mapGet 0 s.tmr.prescAt k + s.get (R.CNTk_CTRL_PRESC k) + 1

/-- `TIMER_COUNT`: one count of a counter in TIMER mode, once its PRESC + 1 timer clocks have passed. -/
def State.timerCount (s : State) (k t : Nat) : State :=
  let s1 := s.at t
  let due := s1.timerDue k
  if s1.dom dCLK && k < 6 && s1.cntMode k = 1 && !s1.linkedHigh k && due ≤ s1.now then
    State.countStep { s1 with tmr := { s1.tmr with prescAt := mapIns s1.tmr.prescAt k due } } k true t
  else s1

def execTimerCount (k : Fin 8) (t : Nat) (s : State) : Host.Outcome State Fault Refusal := .next (s.timerCount k.val t)

/-! ## Capture (R91) -/

/-- A capture of channel j. -/
def State.capture (s : State) (j : Nat) : State :=
  let s1 := s.setCap j (s.chanCount j)
  let s2 := { s1 with tmr := { s1.tmr with capAt := mapIns s1.tmr.capAt j s1.now } }
  if s.tmr.capUnread.contains j then
    ((s2.put (R.CCj_STAT_OVR j) 1).bump (R.CCj_STAT_OVR_CNT j)).raise (E.TMR_CC j)
  else { s2 with tmr := { s2.tmr with capUnread := s2.tmr.capUnread ++ [j] } }

/-- Capture on every host channel whose source is the given one; a trigger source also by edge kind. -/
def State.captureAll (s : State) (src : Nat) (kind : Option Nat) : State :=
  (List.range 12).foldl (fun s j =>
    if s.on (R.CCj_CTRL_EN j) && s.get (R.CCj_CTRL_FUNC j) = 1 && s.get (R.CCj_CTRL_CAP_SRC j) = src &&
        (match kind with | none => true | some e => s.get (R.CCj_CTRL_CAP_EDGE j) = e)
    then s.capture j else s) s

/-- `SWCAP`. -/
def execSwcap (j : Fin 16) (s : State) : Host.Outcome State Fault Refusal :=
  .next (if !s.served 0x016 then s
    else if 12 ≤ j.val then s.raise E.TMR_RSV_WRITE
    else if s.on (R.CCj_CTRL_EN j) && s.get (R.CCj_CTRL_FUNC j) = 1 && s.get (R.CCj_CTRL_CAP_SRC j) = 8 then s.capture j
    else s)

/-! ## Compare (R88–R90) -/

/-- The passed test: the value lies in the 2³¹ counts up to and including the present count, modulo the width. -/
def passedBy (w c v : Nat) : Bool := (c + 2 ^ w - v % 2 ^ w) % 2 ^ w < 2 ^ 31

/-- `CC_ARM`: a write of CCj_VAL arms the channel; a value already passed fires one timer clock after the write. A channel that
EN = 0 disables does not fire; a value passed when it was written stays due and fires once EN is 1 (DESIGN CHOICE, log 111). -/
def State.ccArm (s : State) (j v : Nat) : State :=
  if !s.served 0x016 then s
  else if 12 ≤ j then s.raise E.TMR_RSV_WRITE
  else
    let s1 := (s.put (R.CCj_VAL_VAL j) v).put (R.CCj_STAT_ARMED j) 1
    let s2 := { s1 with tmr := { s1.tmr with ccDue := mapDel s1.tmr.ccDue j } }
    if passedBy (if s2.chanWide j then 64 else 32) (s2.chanCount j) (s2.chanVal j) then
      { s2 with tmr := { s2.tmr with ccDue := mapIns s2.tmr.ccDue j (s2.now + 1) } }
    else s2

def execCcArm (j : Fin 16) (v : Word) (s : State) : Host.Outcome State Fault Refusal := .next (s.ccArm j v.toNat)

/-- The level of SYNC_OUT: a pulse in progress is its active level, and TICK_SYNC.POL = 1 inverts the output (R104). -/
def State.syncOut (s : State) : Bool := s.pins.syncEnd.isSome != (s.act R.TICK_SYNC_POL = 1)

/-- A SYNC_OUT pulse begins: W × 5 ns, at most T_pred / 2; none while the module is not in RUN (R104). While no T_pred is known it has
its whole width (DESIGN CHOICE, log 112). A pulse that begins while one is in progress starts its time anew, so that the two run together
(DESIGN CHOICE, log 143). -/
def State.syncPulse (s : State) : State :=
  let w := s.act R.TICK_SYNC_W
  let half := if s.tick.tpred.den = 0 then w else s.tick.tpred.num / (2 * s.tick.tpred.den)
  if s.inRun && 0 < w then { s with pins := { s.pins with syncEnd := some (s.now + min w half) } } else s

/-- `CC_FIRE`: a due channel fires at its time, and its partner captures where it selects that. -/
def State.ccFire (s : State) (j : Nat) : State :=
  match mapFind s.tmr.ccDue j with
  | none => s
  | some t =>
    if !s.armed j then s
    else
      let s0 := s.at t
      let s1 := ((s0.put (R.CCj_STAT_FIRE j) 1).bump (R.CCj_STAT_FIRE_CNT j)).put (R.CCj_STAT_ARMED j) 0
      let s2 := State.raise { s1 with tmr := { s1.tmr with ccDue := mapDel s1.tmr.ccDue j } } (E.TMR_CC j)
      let m := j ^^^ 1
      let s3 := if s2.on (R.CCj_CTRL_EN m) && s2.get (R.CCj_CTRL_FUNC m) = 1 && s2.get (R.CCj_CTRL_CAP_SRC m) = 7 then s2.capture m else s2
      if s3.act R.TICK_SYNC_MODE = 3 && s3.act R.TICK_SYNC_CC = j then s3.syncPulse else s3

def execCcFire (j : Fin 16) (s : State) : Host.Outcome State Fault Refusal := .next (s.ccFire j)

/-- `CNT_CLR`: FIRE_CNT and OVR_CNT of a channel are cleared. -/
def execCntClr (j : Fin 16) (s : State) : Host.Outcome State Fault Refusal :=
  .next (if !s.served 0x016 then s
    else if 12 ≤ j.val then s.raise E.TMR_RSV_WRITE
    else (s.put (R.CCj_STAT_FIRE_CNT j) 0).put (R.CCj_STAT_OVR_CNT j) 0)

/-- `SYNC_OUT_END`: the pulse in progress ends. -/
def execSyncOutEnd (s : State) : Host.Outcome State Fault Refusal :=
  match s.pins.syncEnd with
  | none => .next s
  | some t => .next { s.at t with pins := { s.pins with syncEnd := none } }

/-! ## The encoder (R79–R82) -/

def State.encA (s : State) : Bool := bit (s.get R.ENC_STAT_LEVEL) 0
def State.encB (s : State) : Bool := bit (s.get R.ENC_STAT_LEVEL) 1
def State.encZ (s : State) : Bool := bit (s.get R.ENC_STAT_LEVEL) 2
def State.encFault (s : State) (i : Nat) : Bool := bit (s.get R.ENC_STAT_FAULT) i

/-- The samples for which input i (0–2 A, B, Z) must hold a level: FILT + 1, ZFILT + 1. -/
def State.encHold (s : State) (i : Nat) : Nat := (if i = 2 then s.get R.ENC_CFG_ZFILT else s.get R.ENC_CFG_FILT) + 1

/-- Can an input's filter, which holds a level for `hold` clocks, accept a change at t? Its last accepted change, or the end of its
fault, lies at least that long ago (R79, R81, R83). Edges of A, B and Z closer than FILT + 2 samples may be lost; the model loses
those closer than FILT + 1 (DESIGN CHOICE, log 113). -/
def State.filtOk (s : State) (i hold t : Nat) : Bool :=
  match mapFind s.tmr.filtAt i with | none => true | some u => decide (u + hold ≤ t)
def State.filtSet (s : State) (i t : Nat) : State := { s with tmr := { s.tmr with filtAt := mapIns s.tmr.filtAt i t } }

/-- The count that an accepted sample makes in a mode (Table 4-1): levels before and after, one of A and B changed. QUAD1 counts its
full cycle at the edge of A while B is low (DESIGN CHOICE, log 114). -/
def quadCount (mode : Nat) (inv a0 b0 a1 b1 : Bool) : Option Bool :=
  let aEdge := a0 != a1
  let bEdge := b0 != b1
  let fwd := if aEdge then a1 != b1 else a1 == b1
  let up := fwd != inv
  if mode = 2 then (if aEdge && !b1 then some up else none)
  else if mode = 3 then (if aEdge then some up else none)
  else if mode = 4 then (if aEdge || bEdge then some up else none)
  else none

/-- An accepted sample of A and B. Where both rise in one sample UP_DOWN counts A's edge and then B's, and PULSE_DIR takes B's new level
(DESIGN CHOICE, log 115). -/
def State.encSample (s : State) (a1 b1 : Bool) (t : Nat) : State :=
  let a0 := s.encA
  let b0 := s.encB
  if a0 = a1 && b0 = b1 then s
  else
    let s1 := s.put R.ENC_STAT_LEVEL (boolNat a1 + 2 * boolNat b1 + 4 * boolNat s.encZ)
    let both := a0 ≠ a1 && b0 ≠ b1
    let quad (s : State) (k : Nat) : Bool := !s.linkedHigh k && 2 ≤ s.cntMode k && s.cntMode k ≤ 4
    let s2 := if both && (List.range 6).any (quad s1) then s1.raise E.TMR_QERR else s1
    let inv := s2.on R.ENC_CFG_DIR_INV
    let aRise := !a0 && a1
    let bRise := !b0 && b1
    let s3 := s2.countAll (fun s k =>
      if quad s k then (if both then none else quadCount (s.cntMode k) inv a0 b0 a1 b1)
      else if s.cntMode k = 5 then (if aRise then some (!b1) else none)
      else if s.cntMode k = 6 then (if aRise then some true else none)
      else none) t
    s3.countAll (fun s k => if s.cntMode k = 6 && bRise then some false else none) t

/-- A level of A or B as its filter accepts it at t: the accepted level stays on an input with a fault, and where the filter cannot
have held the new one long enough. -/
def State.encTake (s : State) (i : Nat) (old new : Bool) (t : Nat) : Bool :=
  if s.encFault i || !s.filtOk i (s.encHold i) t then old else new

/-- `ENC_EDGE`: no edge is accepted on an input with a fault (R81), nor one that its filter removes (R79). -/
def State.encEdge (s : State) (a b : Bool) (t : Nat) : State :=
  if !s.dom dCLK then s
  else
    let s1 := s.at t
    let a1 := s1.encTake 0 s1.encA a t
    let b1 := s1.encTake 1 s1.encB b t
    let s2 := if a1 = s1.encA then s1 else s1.filtSet 0 t
    (if b1 = s1.encB then s2 else s2.filtSet 1 t).encSample a1 b1 t

def execEncEdge (a b : Bool) (t : Nat) (s : State) : Host.Outcome State Fault Refusal := .next (s.encEdge a b t)

/-- An accepted level of Z: a rising edge, gated by ZGATE, captures and clears where it is selected. A capture copies the value
before a reset of the same clock (DEDUCED, log 51). -/
def State.zSample (s : State) (level : Bool) (t : Nat) : State :=
  let rise := level && !s.encZ
  let s1 := s.put R.ENC_STAT_LEVEL (boolNat s.encA + 2 * boolNat s.encB + 4 * boolNat level)
  if rise && (!s1.on R.ENC_CFG_ZGATE || (s1.encA && s1.encB)) then
    (s1.captureAll 4 none).clearAll (fun s k => s.get (R.CNTk_CTRL_CLR_SRC k) = 1) t
  else s1

/-- `Z_EDGE`. -/
def State.zEdge (s : State) (level : Bool) (t : Nat) : State :=
  if !s.dom dCLK || s.encFault 2 || level = s.encZ || !s.filtOk 2 (s.encHold 2) t then s
  else ((s.at t).filtSet 2 t).zSample level t

def execZEdge (level : Bool) (t : Nat) (s : State) : Host.Outcome State Fault Refusal := .next (s.zEdge level t)

/-- `ENC_FAULT`. -/
def execEncFault (i : Fin 3) (t : Nat) (s : State) : Host.Outcome State Fault Refusal :=
  .next (if !s.dom dCLK || s.encFault i then s
    else ((s.at t).put ⟨R.ENC_STAT_FAULT.reg, 3 + i.val, 1⟩ 1).raise E.TMR_ENC_FAULT)

/-- The faults of the inputs of a mask end at t: their filters start afresh there. -/
def State.encFaultEnd (s : State) (ins t : Nat) : State :=
  (bitsOf 3 ins).foldl (fun s i => (s.put ⟨R.ENC_STAT_FAULT.reg, 3 + i, 1⟩ 0).filtSet i t) s

/-- A and B whose faults have ended accept their levels in one sample, FILT + 1 samples later, so that two changes make a QERR (R80). -/
def State.encAfterFault (s : State) (ins levels t : Nat) : State :=
  let u := t + s.encHold 0
  let a1 := if bit ins 0 then bit levels 0 else s.encA
  let b1 := if bit ins 1 then bit levels 1 else s.encB
  if a1 = s.encA && b1 = s.encB then s
  else
    let s1 := s.at u
    let s2 := if a1 = s1.encA then s1 else s1.filtSet 0 u
    (if b1 = s1.encB then s2 else s2.filtSet 1 u).encSample a1 b1 u

/-- Z whose fault has ended accepts its level ZFILT + 1 samples later. -/
def State.zAfterFault (s : State) (ins levels t : Nat) : State :=
  let u := t + s.encHold 2
  if !bit ins 2 || bit levels 2 = s.encZ then s else ((s.at u).filtSet 2 u).zSample (bit levels 2) u

/-- `ENC_FAULT_CLEAR`: the faults of the inputs in the mask `ins` (bits 0–2 A, B, Z) end in one timer clock, with the levels that stand
there then. Each filter starts afresh; a level is accepted once it has been held for FILT + 1 samples (ZFILT + 1 for Z) counted from
there, and where it differs from the one accepted before, that is an accepted edge (R81). -/
def State.encFaultClear (s : State) (ins levels t : Nat) : State :=
  let mine := (bitsOf 3 ins).foldl (fun m i => if s.encFault i then m + 2 ^ i else m) 0
  if !s.dom dCLK || mine = 0 then s
  else
    let s1 := (s.at t).encFaultEnd mine t
    let s2 (s : State) : State := s.encAfterFault mine levels t
    let s3 (s : State) : State := s.zAfterFault mine levels t
    if s1.encHold 0 ≤ s1.encHold 2 then s3 (s2 s1) else s2 (s3 s1)

def execEncFaultClear (ins levels : BitVec 3) (t : Nat) (s : State) : Host.Outcome State Fault Refusal :=
  .next (s.encFaultClear ins.toNat levels.toNat t)

/-! ## Triggers (R83) -/

/-- A mark edge belongs to the first tick derived at or after its timer clock (R175): one of the ticks that already wait for their edges,
derived in this clock or ahead of it, else the next one. -/
def State.markEdge (s : State) (i kind t : Nat) : State :=
  let b := 2 * i + kind
  let mine (d : DerTick) : Bool := !d.noEdge && decide (t ≤ d.der)
  match s.tick.queue.findIdx? mine with
  | some k =>
    let q := s.tick.queue.modify k (fun (d : DerTick) => { d with marks := d.marks ||| 2 ^ b })
    let s1 := { s with tick := { s.tick with queue := q } }
    if s1.isHead && s1.headMark (2 ^ b) then s1.tokenRemark else s1
  | none => { s with tick := { s.tick with edgeMarks := s.tick.edgeMarks ++ [(t, b)] } }

/-- The time for which TRIG_INi must hold a level: TFILTi + 1 µs. -/
def State.trigHold (s : State) (i : Nat) : Nat := (bits (s.reg R.TRIG_CFG_TFILT0.reg).toNat (8 * i) 8 + 1) * usClk

/-- `TRIG_EDGE`: an accepted edge on TRIG_INi; kind 0 energised, 1 de-energised. Two accepted edges of an input are TFILTi + 1 µs
apart at least: a change that comes sooner has not been held so long, and is none. -/
def State.trigEdge (s : State) (i : Nat) (energised : Bool) (t : Nat) : State :=
  if !s.dom dCLK || bit (s.get R.TRIG_STAT_ENERGISED) i = energised || !s.filtOk (4 + i) (s.trigHold i) t then s
  else
    let kind := if energised then 0 else 1
    let s1 := ((s.at t).filtSet (4 + i) t).put ⟨R.TRIG_STAT_ENERGISED.reg, i, 1⟩ (boolNat energised)
    let mine (s : State) (k : Nat) : Bool := s.get (R.CNTk_CTRL_EVT_SRC k) = i && s.get (R.CNTk_CTRL_EVT_EDGE k) = kind
    let s2 := s1.countAll (fun s k => if s.cntMode k = 7 && mine s k then some true else none) t
    let s3 := (s2.captureAll i (some kind)).clearAll (fun s k => s.get (R.CNTk_CTRL_CLR_SRC k) = 3 && mine s k) t
    let s4 := if s3.inRun then s3.markEdge i kind t else s3
    (s4.tickTrigger i kind t).areaTrigger i kind t

def execTrigEdge (i : Fin 4) (energised : Bool) (t : Nat) (s : State) : Host.Outcome State Fault Refusal :=
  .next (s.trigEdge i energised t)

/-! ## What a tick edge does to counters and channels -/

/-- Modes TICK and EXPOSED count, captures of sources 5 and 6, CLR_SRC 2. A counter that the tick both counts and resets ends at 0; a
compare value that the count meets before still makes its channel due (DESIGN CHOICE, log 116). -/
def State.tickCounters (s : State) (exposed : Bool) (t : Nat) : State :=
  let s1 := s.countAll (fun s k => if s.cntMode k = 8 || (s.cntMode k = 9 && exposed) then some true else none) t
  let s2 := s1.captureAll 5 none
  let s3 := if exposed then s2.captureAll 6 none else s2
  s3.clearAll (fun s k => s.get (R.CNTk_CTRL_CLR_SRC k) = 2) t

/-! ## Snapshots and monitors (R93, R106) -/

/-- Do `dt` timer clocks make a period of at most f Hz? -/
def periodOk (dt f : Nat) : Bool := decide (200000000 ≤ dt * f)

/-- Is the tick at time e exposed? The first after power-on and the first after STOPPED always are. -/
def State.admits (s : State) (e : Nat) : Bool :=
  match s.tick.lastExposed with
  | none => true
  | some u => s.on R.TICK_STAT_STOPPED || periodOk (e - u) s.fCap

/-- Is the present clock the one before a tick edge that is to be exposed? Its admission is taken from the caps in force now, before the
changes due at the boundary (DESIGN CHOICE, log 118). -/
def State.edgeNext (s : State) : Bool :=
  match s.tick.queue with
  | [] => false
  | d :: _ => s.inRun && !d.noEdge && d.edge = s.now + 1 && s.admits d.edge

/-- CNT6 and CNT7 hold the time since the last exposed tick edge in 5 ns units, and one timer clock before an edge that is to be exposed
0xFFFF_FFFF (R87). -/
def State.edgeCount (s : State) : Nat :=
  if s.edgeNext then 0xFFFFFFFF
  else match s.tick.lastExposed with | none => 0 | some e => (s.now - e) % 2 ^ 32

/-- `SNAPSHOT`: all counters and TICKNO in one timer clock. -/
def State.snapshot (s : State) : State :=
  let s1 := (List.range 8).foldl (fun s k => s.put (R.SNAPk_VAL k) (if k < 6 then s.cnt k else s.edgeCount)) s
  s1.put64 R.SNAP_TICKNO_LO_VAL R.SNAP_TICKNO_HI_VAL s.tick.tickno

def execSnapshot (s : State) : Host.Outcome State Fault Refusal := .next (if s.served 0x016 then s.snapshot else s)

/-- Tick slack monitor m. -/
def tickMon (m : Nat) : Mon := ⟨R.TICK_MONm_MIN_VAL m, R.TICK_MONm_MAX_VAL m, (R.TICK_MONm_BINi_COUNT m 0).reg⟩

/-- Enter a slack in 5 ns units; bins of 80 ns × 2^WSHIFT (R105, R106). -/
def State.slackEnter (s : State) (m : Nat) (v : Int) : State :=
  if s.on R.TICK_MON_CTRL_FREEZE then s else s.monEnter (tickMon m) (16 * 2 ^ (min 11 (s.get R.TICK_MON_CTRL_WSHIFT))) v

/-- `TICK_MON_CLR`: the tick monitors are cleared. -/
def State.tickMonClr (s : State) : State := (List.range 3).foldl (fun s m => s.monClear (tickMon m)) s

def execTickMonClr (s : State) : Host.Outcome State Fault Refusal := .next (if s.served 0x017 then s.tickMonClr else s)

end Sys2Proof.Machine
end

