-- ==== Sys2Proof/Machine/Shadow.lean ====
section
/-! DEFINITION. Pending values and values in force: writes by access code, COMMIT, next-boundary registers (R11, R411, R414); the
abort of calibration runs (R324). -/
namespace Sys2Proof.Machine

def regKind (a : Nat) : RegKind := match regRow a with | none => .ro | some r => r.kind

/-- A word written to a register by its access codes: RW bits take the written value, W1C bits clear on 1, the rest stays. -/
def writtenWord (r : RegRow) (old v : Nat) : Nat := maskSub (maskSub old r.rw ||| (v &&& r.rw)) (v &&& r.w1c)

/-- Write a register by its access codes, without any effect beyond the stored word. -/
def State.writeWord (s : State) (a v : Nat) : State :=
  match regRow a with
  | none => s
  | some r => s.setReg a (BitVec.ofNat 32 (writtenWord r (s.reg a).toNat v))

/-- The companion pages that a page's COMMIT freezes with its own: for DEV the memory contexts' curves and patches (R218). -/
def commitSet (page a : Nat) : Bool :=
  regKind a = .shadow && (a / 4096 = page || (page = 0x01B && (a / 4096 = 0x01E || (0x046 ≤ a / 4096 && a / 4096 ≤ 0x072))))

/-- A table with the pairs of another added. -/
def mapMerge {α : Type} (m n : SMap α) : SMap α := n.foldl (fun m (k, v) => mapIns m k v) m

/-- The part of a table whose keys satisfy a test replaced by the same part of another. -/
def mapTake {α : Type} (sel : Nat → Bool) (m n : SMap α) : SMap α :=
  mapMerge (m.filter (fun (k, _) => !sel k)) (n.filter (fun (k, _) => sel k))

/-- Does COMMIT of a page have an effect (PAGE_CAPS.SHADOW and NO_COMMIT, R414)? -/
def commits (page : Nat) : Bool :=
  match pageRow page with
  | none => false
  | some p => !p.noCommit && p.rows.any (fun r => r.kind = .shadow)

/-- `PAGE_COMMIT`: the pending values of the page's shadowed registers are frozen and wait for the boundary. A second COMMIT
replaces the set. -/
def State.pageCommit (s : State) (page : Nat) : State :=
  if !s.served page || !commits page then s
  else { s with frozen := mapTake (commitSet page) s.frozen s.regs, commitPend := setAdd s.commitPend page }

def execPageCommit (page : Nat) (s : State) : Host.Outcome State Fault Refusal := .next (s.pageCommit page)

/-- The frozen values that satisfy a test take effect. -/
def State.takeFrozen (s : State) (sel : Nat → Bool) : State := { s with force := mapTake sel s.force s.frozen }

/-- A field of the frozen value of a register. -/
def State.frz (s : State) (f : Fld) : Nat := bits (mapGet (regReset f.reg) s.frozen f.reg).toNat f.lo f.w

/-- Write a next-boundary register: the written value waits for the boundary. -/
def State.nextWrite (s : State) (a v : Nat) : State :=
  let s1 := s.writeWord a v
  { s1 with nextPend := setAdd s1.nextPend a }

/-- A next-boundary register takes effect. -/
def State.takeNext (s : State) (a : Nat) : State :=
  { (s.setAct a (s.reg a)) with nextPend := setDel s.nextPend a }

/-- Has a next-boundary register been written since the last boundary? -/
def State.nextDue (s : State) (a : Nat) : Bool := s.nextPend.contains a

/-! ## Calibration runs (R324) -/

/-- A calibration run in progress ends with a code. -/
def State.calEnd (s : State) (code : Nat) : State :=
  let s1 := { s with cal := { s.cal with run := 0, result := none, store := false, sw24 := false, trimRes := [], tph := 0, phRes := 0 } }
  let s2 := ((s1.put R.CAL_STAT_RUN 0).put R.CAL_RESULT_CODE code).put R.CAL_RESULT_COUNT s.cal.count
  let s3 := if s.cal.sw24 then s2.put R.LAMP_STAT_SW_24V 1 else s2
  s3.raise (if code = 0 then E.CAL_RUN_DONE else E.CAL_RUN_FAIL)

def State.calAbort (s : State) : State := if s.cal.run = 0 then s else s.calEnd 7

/-! ## Writes that a running job refuses; they end a calibration run -/

/-- `TICK_SRC_WRITE` (R98). -/
def State.tickSrcWrite (s : State) (v : Nat) : State :=
  if !s.served 0x017 then s
  else if s.jobRunning then s.raise E.TICK_SRC_REFUSED
  else s.calAbort.nextWrite R.TICK_SRC_SRC.reg v

def execTickSrcWrite (v : Word) (s : State) : Host.Outcome State Fault Refusal := .next (s.tickSrcWrite v.toNat)

/-- `EXP_MODE_WRITE` (R52): refused while a job runs; MODE = 3 at any time. -/
def State.expModeWrite (s : State) (v : Nat) : State :=
  if !s.served 0x014 then s
  else if s.jobRunning || v % 4 = 3 then s.raise E.EXP_MODE_REFUSED
  else s.calAbort.nextWrite R.EXP_MODE_MODE.reg v

def execExpModeWrite (v : Word) (s : State) : Host.Outcome State Fault Refusal := .next (s.expModeWrite v.toNat)

/-- `WEB_DIR_WRITE` (R77). -/
def State.webDirWrite (s : State) (v : Nat) : State :=
  if !s.served 0x015 then s
  else if s.jobRunning then s.raise E.RDO_DIR_REFUSED
  else s.nextWrite R.RDO_CTRL_WEB_DIR.reg v

def execWebDirWrite (v : Word) (s : State) : Host.Outcome State Fault Refusal := .next (s.webDirWrite v.toNat)

end Sys2Proof.Machine
end

