-- ==== Sys2Proof/Machine/LampUse.lean ====
section
/-! DEFINITION. The lamphouse as exposure needs it: states, the identity record, set-points, the use that strobes accrue
(Table 16-6, R384, R387). -/
namespace Sys2Proof.Machine

def lpOFF : Nat := 0
def lpPOWERING : Nat := 1
def lpIDENT : Nat := 2
def lpREADY : Nat := 3
def lpABSENT : Nat := 4
def lpFAULT : Nat := 5

def State.lampState (s : State) : Nat := s.get R.LAMP_STAT_STATE
def State.setLamp (s : State) (l : Lamp) : State := { s with lamp := l }

/-! ## The identity record (Table 16-6) -/

def State.identByte (s : State) (i : Nat) : Nat := bits (s.reg (0x2A400 + i / 4 * 4)).toNat (8 * (i % 4)) 8
def State.identNum (s : State) (i n : Nat) : Nat := leNat ((List.range n).map (fun j => s.identByte (i + j)))
def State.identBytes (s : State) : List Nat := (List.range 192).map s.identByte
def State.lampModel (s : State) : Nat := s.identNum 0x02 2
def State.lampSerial (s : State) : Nat := s.identNum 0x04 8
def State.lampFitted (s : State) (k : Nat) : Bool := bit (s.identByte 0x0C) k
def State.lampRatedSet (s : State) (k : Nat) : Nat := s.identNum (0x10 + 12 * k + 6) 2
def State.lampLifeRated (s : State) (k : Nat) : Nat := s.identNum (0x10 + 12 * k + 8) 4

/-- Store bytes read from identity offset i into the LAMP_IDENT window, word by word. -/
def State.putIdent (s : State) (i : Nat) (data : List Nat) : State :=
  (List.range 16).foldl (fun s j => s.put (R.LAMP_IDENT_RECORD (i / 4 + j)) (leNat ((data.drop (4 * j)).take 4))) s

/-! ## Set-points and life (R384, R385, R387, R388) -/

/-- The effective set-point of a channel: values above 1,000 act as 1,000; without an accepted signature at most 100. -/
def State.lampEff (s : State) (k : Nat) : Nat :=
  let v := min 1000 (s.act (R.LAMP_SETk_SET k))
  if s.get R.LAMP_STAT_SIG = 1 then v else min v 100

/-- Accrued use in units of 100 ps · ‰ that make 1 ms of life at RATED_SET. -/
def State.lifeUnit (s : State) (k : Nat) : Nat := 50 * msClk * s.lampRatedSet k

def State.lampUnsentMs (s : State) (k : Nat) : Nat :=
  if s.lifeUnit k = 0 then 0 else mapGet 0 s.lamp.unsent k / s.lifeUnit k

/-- LAMP_LIFEk: the life block's value plus the unsent use. -/
def State.lampShow (s : State) : State :=
  (List.range 8).foldl (fun s k =>
    s.put64 (R.LAMP_LIFEk_LO_MS k) (R.LAMP_LIFEk_HI_MS k) (mapGet 0 s.lamp.lifeBlock k + s.lampUnsentMs k)) s

/-- A strobe of a width in 100 ps has been driven on a channel while SW_24V = 1. -/
def State.lampAccrue (s : State) (k width : Nat) : State :=
  if s.on R.LAMP_STAT_SW_24V && s.lampFitted k && s.lampRatedSet k ≠ 0 then
    let s1 := s.setLamp { s.lamp with unsent := mapSet 0 s.lamp.unsent k (mapGet 0 s.lamp.unsent k + width * s.lampEff k) }
    s1.put64 (R.LAMP_LIFEk_LO_MS k) (R.LAMP_LIFEk_HI_MS k) (mapGet 0 s1.lamp.lifeBlock k + s1.lampUnsentMs k)
  else s

end Sys2Proof.Machine
end

