-- ==== Sys2Proof/Machine/Exposure.lean ====
section
/-! DEFINITION. Exposure of a line: slots, strobes, tap transfers and their interlock (R38–R51, R87, R105). -/
namespace Sys2Proof.Machine

/-! ## Readout as the interlock sees it (R45, R49) -/

/-- Rows of a pair that are still to be sampled for a line before line n. -/
def State.pairBusy (s : State) (n tap rowset : Nat) : Bool :=
  s.rdo.banks.any (fun b => b.rows.any (fun r => r.tickno < n && r.tap = tap && r.rowset = rowset))

/-- Does readout still hold a transfer? -/
def State.xferHeld (s : State) (x : Xfer) : Bool := x.rowsets.any (s.pairBusy x.tickno x.tap)

def shareRowset (a b : List Nat) : Bool := a.any b.contains

/-! ## Slack of exposed lines (R105) -/

/-- Enter what a record can give: monitor 0 once the transfers are made and the next edge is known, monitor 1 once the rows
are read and the edge after that is known. -/
def State.slackGive (s : State) (r : SlackRec) : State × SlackRec :=
  let (s1, r1) := match r.edge1 with
    | some e => if r.txLeft = 0 && !r.txIn then (s.slackEnter 0 ((e : Int) - r.lastTx), { r with txIn := true }) else (s, r)
    | none => (s, r)
  match r1.edge1, r1.edge2 with
  | some e1, some e2 =>
    if r1.rdLeft = 0 && !r1.rdIn then (s1.slackEnter 1 ((e2 : Int) - e1 - r1.lastRd), { r1 with rdIn := true }) else (s1, r1)
  | _, _ => (s1, r1)

/-- Change a line's slack record and enter what it can give; a record that has given both goes. -/
def State.slackWith (s : State) (n : Nat) (f : SlackRec → SlackRec) : State :=
  let (s1, rs) := s.exp.slacks.foldl (fun (s, rs) r =>
    if r.tickno = n then (let (s', r') := s.slackGive (f r); (s', if r'.txIn && r'.rdIn then rs else rs ++ [r']))
    else (s, rs ++ [r])) (s, ([] : List SlackRec))
  { s1 with exp := { s1.exp with slacks := rs } }

/-- A tick edge is the next one, or the one after, of the lines exposed before. -/
def State.slackEdge (s : State) (e : Nat) : State :=
  (s.exp.slacks.map SlackRec.tickno).foldl (fun s n => s.slackWith n (fun r =>
    match r.edge1, r.edge2 with
    | none, _ => { r with edge1 := some e }
    | some _, none => { r with edge2 := some e }
    | some _, some _ => r)) s

/-! ## Strobes (R42, R51, R390) -/

/-- May strobes be driven: LAMP on, the link past identification, RUN, and no DARK run, which holds every strobe off (R325)? -/
def State.strobesOn (s : State) : Bool :=
  s.dom dLAMP && !(s.lampState = lpOFF || s.lampState = lpPOWERING || s.lampState = lpIDENT) && s.inRun && s.cal.run ≠ 1

/-- A slot's strobe window on a channel against the slot's start, in 100 ps, with the channel's trim, unclipped. -/
def State.strobeWindow (s : State) (r : SlotRun) (c : Nat) : Int × Int :=
  let t := toSigned 8 (s.get (R.CAL_STRBn_TRIM c))
  (50 * (r.dly : Int) + t, 50 * ((r.dly + r.width : Nat) : Int) + t)

/-- The window clipped to the slot. -/
def State.strobeClipped (s : State) (r : SlotRun) (c : Nat) : Int × Int :=
  let (a, b) := s.strobeWindow r c
  (clampI 0 (50 * (r.len : Int)) a, clampI 0 (50 * (r.len : Int)) b)

def State.strobeOut (s : State) (r : SlotRun) (c : Nat) : Bool := s.strobeWindow r c ≠ s.strobeClipped r c

def State.setSlotRun (s : State) (k : Nat) (f : SlotRun → SlotRun) : State :=
  { s with exp := { s.exp with slots := s.exp.slots.map (fun r => if r.slot = k then f r else r) } }

def State.slotRun (s : State) (k : Nat) : Option SlotRun := s.exp.slots.find? (fun r => r.slot = k)

/-- STROBEn is the logical OR of its slots' windows (R40): lines that rise are noted with the time `rise` gives, lines that fall at
the time `fall` gives count as use. Times are in 100 ps. -/
def State.strobeLevels (s : State) (rise fall : Nat → Nat) : State :=
  (List.range 8).foldl (fun s c =>
    let level := s.exp.slots.any (fun r => r.lit && bit r.chans c)
    match mapFind s.exp.chanOn c with
    | none => if level then { s with exp := { s.exp with chanOn := mapIns s.exp.chanOn c (rise c) } } else s
    | some u =>
      if level then s
      else State.lampAccrue { s with exp := { s.exp with chanOn := mapDel s.exp.chanOn c } } c (fall c - u)) s

/-- The on and off times of a slot's strobe on line c. -/
def SlotRun.onAt (r : SlotRun) (c : Nat) : Nat := ((r.edges.find? (fun p => p.1 = c)).map (fun p => p.2.1)).getD 0
def SlotRun.offAt (r : SlotRun) (c : Nat) : Nat := ((r.edges.find? (fun p => p.1 = c)).map (fun p => p.2.2)).getD 0

/-- A slot's strobe ends at time t at the latest. -/
def State.strobeEnd (s : State) (k t : Nat) : State :=
  let fall (c : Nat) : Nat := match s.slotRun k with | none => 50 * t | some r => min (r.offAt c) (50 * t)
  (s.setSlotRun k (fun r => { r with lit := false })).strobeLevels fall fall

/-- Every line of a slot with its strobe's edges, each line with its own trim (R42, R51, R53). -/
def State.strobeEdges (s : State) (r : SlotRun) : List (Nat × Nat × Nat) :=
  (bitsOf 8 r.chans).map (fun c =>
    let w := s.strobeClipped r c
    (c, 50 * r.start + w.1.toNat, 50 * r.start + w.2.toNat))

/-- `STROBE_ON`: the lines of the slot, each from its own on time; the command's time is the timer clock by which all are on. STROBE_CLIP
counts once for a slot, however many of its lines are clipped (DESIGN CHOICE, log 145). -/
def State.strobeOn (s : State) (k : Nat) : State :=
  match s.slotRun k with
  | none => s
  | some r =>
    if !r.started || r.ended || r.strobed || r.chans = 0 then s
    else
      let es := s.strobeEdges r
      let s1 := (s.at (ceilDiv (es.foldl (fun m p => max m p.2.1) 0) 50)).setSlotRun k (fun r => { r with strobed := true })
      if !s1.strobesOn then
        if s1.lamp.suppressed = some r.tickno then s1
        else State.raise { s1 with lamp := { s1.lamp with suppressed := some r.tickno } } E.LAMP_STROBE_SUPPR
      else
        let s2 := if (bitsOf 8 r.chans).any (s1.strobeOut r) then s1.raise E.EXP_STROBE_CLIP else s1
        let on (c : Nat) : Nat := SlotRun.onAt { r with edges := es } c
        (s2.setSlotRun k (fun r => { r with lit := true, edges := es })).strobeLevels on on

def execStrobeOn (k : Fin 4) (s : State) : Host.Outcome State Fault Refusal := .next (s.strobeOn k.val)

/-- `STROBE_OFF`. -/
def State.strobeOff (s : State) (k : Nat) : State :=
  match s.slotRun k with
  | none => s
  | some r =>
    if !r.lit then s
    else
      let t := ceilDiv (r.edges.foldl (fun m p => max m p.2.2) 0) 50
      (s.at t).strobeEnd k t

def execStrobeOff (k : Fin 4) (s : State) : Host.Outcome State Fault Refusal := .next (s.strobeOff k.val)

/-! ## Transfers (R38, R49, R50) -/

/-- Start every transfer whose turn has come: on a row set they are made one after another, each once its own interlock has
released. A transfer first in turn that readout holds counts once as held. -/
def xferStep (s : State) (t : Nat) : List Xfer → List Xfer → State × List Xfer
  | done, [] => (s, done)
  | done, x :: rest =>
    if x.begun.isSome || done.any (fun y => shareRowset y.rowsets x.rowsets) then xferStep s t (done ++ [x]) rest
    else if s.xferHeld x then
      if x.held then xferStep s t (done ++ [x]) rest
      else xferStep (s.raise E.EXP_TX_HELD) t (done ++ [{ x with held := true }]) rest
    else xferStep s t (done ++ [{ x with begun := some t }]) rest

def State.xferAdvance (s : State) (t : Nat) : State :=
  let (s1, xs) := xferStep s t [] s.exp.xfers
  { s1 with exp := { s1.exp with xfers := xs } }

def State.xferPush (s : State) (r : SlotRun) (dark : Bool) : State :=
  { s with exp := { s.exp with xfers := s.exp.xfers ++
      [{ slot := r.slot, tickno := r.tickno, edge := r.edge, tap := r.tap, rowsets := r.rowsets, dark := dark }] } }

/-- 200 ns (Table 2-2). -/
def transferClk : Nat := 40

/-- `TRANSFER_DONE`: MON_TX holds its largest value where the time exceeds the field (DESIGN CHOICE, log 117); the tap holds the line, MON_TX shows it, and the next transfer due on the row set starts. -/
def State.transferDone (s : State) (k : Nat) : State :=
  match s.exp.xfers.find? (fun x => x.slot = k && x.begun.isSome) with
  | none => s
  | some x =>
    let t := x.begun.getD 0 + transferClk
    let s1 := s.at t
    let taps := x.rowsets.foldl (fun m rs => mapIns m (2 * x.tap + rs) { tickno := some x.tickno, since := t, dark := x.dark }) s1.exp.taps
    let s2 := { s1 with exp := { s1.exp with taps := taps, xfers := s1.exp.xfers.filter (fun y => y ≠ x) } }
    let s3 := s2.put (R.EXP_SLOTk_MON_TX_TIME k) (min 0x3FFFFF (t - x.edge))
    (s3.slackWith x.tickno (fun r => { r with txLeft := r.txLeft - 1, lastTx := max r.lastTx t })).xferAdvance t

def execTransferDone (k : Fin 4) (s : State) : Host.Outcome State Fault Refusal := .next (s.transferDone k.val)

/-- `HELD_TRANSFER_RELEASE`: readout of the pair has ended. -/
def State.heldRelease (s : State) (k : Nat) : State :=
  if s.exp.xfers.any (fun x => x.slot = k && x.held && x.begun.isNone && !s.xferHeld x) then s.xferAdvance s.now else s

def execHeldTransferRelease (k : Fin 4) (s : State) : Host.Outcome State Fault Refusal := .next (s.heldRelease k.val)

/-! ## Slots (R42, R87) -/

/-- Channel 12 + k. -/
def chanOf (k : Nat) : Nat := 12 + k

/-- The exposure unit's channel fires. Its fires show in CCj_STAT only; INT_RAW has no bit for them (R108). -/
def State.slotFire (s : State) (k : Nat) : State :=
  let j := chanOf k
  ((s.put (R.CCj_STAT_FIRE j) 1).bump (R.CCj_STAT_FIRE_CNT j)).put (R.CCj_STAT_ARMED j) 0

def State.slotArm (s : State) (k count : Nat) : State :=
  (s.put (R.CCj_VAL_VAL (chanOf k)) count).put (R.CCj_STAT_ARMED (chanOf k)) 1

/-- A slot waits while a transfer is due on its row set, or another slot of it integrates. -/
def State.slotBlocked (s : State) (r : SlotRun) : Bool :=
  s.exp.xfers.any (fun x => shareRowset x.rowsets r.rowsets) ||
    s.exp.slots.any (fun q => q.slot ≠ r.slot && q.started && !q.ended && shareRowset q.rowsets r.rowsets)

/-- `SLOT_START`: the row set leaves the drain; the channel is armed with the slot's end. -/
def State.slotStart (s : State) (k : Nat) : State :=
  match s.slotRun k with
  | none => s
  | some r =>
    if r.started || r.ended || s.slotBlocked r then s
    else
      let t := max r.start s.now
      let s1 := ((s.at t).slotFire k).slotArm k (t - r.edge + r.len)
      s1.setSlotRun k (fun r => { r with started := true, start := t })

def execSlotStart (k : Fin 4) (s : State) : Host.Outcome State Fault Refusal := .next (s.slotStart k.val)

/-- `SLOT_END`: the channel fires; the destination tap is cleared and the charge transferred, unless readout holds it. -/
def State.slotEnd (s : State) (k : Nat) : State :=
  match s.slotRun k with
  | none => s
  | some r =>
    if !r.started || r.ended then s
    else
      let t := r.start + r.len
      let s1 := ((s.at t).slotFire k).strobeEnd k t
      ((s1.setSlotRun k (fun r => { r with ended := true })).xferPush r false).xferAdvance t

def execSlotEnd (k : Fin 4) (s : State) : Host.Outcome State Fault Refusal := .next (s.slotEnd k.val)

/-- Slots in the order of R44: ascending START_PH, then ascending number. -/
def slotOrder (rs : List SlotRun) : List SlotRun :=
  sortBy (fun (a b : SlotRun) => a.startPh < b.startPh || (a.startPh = b.startPh && a.slot ≤ b.slot)) rs

/-- Has a slot's transfer not begun? -/
def State.untransferred (s : State) (r : SlotRun) : Bool :=
  !r.ended || s.exp.xfers.any (fun x => x.slot = r.slot && x.tickno = r.tickno && x.begun.isNone)

/-- One slot is ended at a tick edge (R50); a held transfer stays due. -/
def State.cutSlot (s : State) (e : Nat) (r : SlotRun) : State :=
  let s1 := s.strobeEnd r.slot e
  let s2 := if s1.get (intRawBit E.EXP_SLOT_CUT) = 1 then s1
    else s1.put64 R.EXP_CUT_TICKNO_LO_CUT_TICKNO R.EXP_CUT_TICKNO_HI_CUT_TICKNO r.tickno
  let s3 := (s2.raise E.EXP_SLOT_CUT).put (R.CCj_STAT_ARMED (chanOf r.slot)) 0
  if r.ended then s3 else s3.xferPush r (!r.started)

/-- Slots whose transfer has not begun by the next tick edge end there, and their transfers are due. -/
def State.cutSlots (s : State) (e : Nat) : State :=
  let open_ := slotOrder (s.exp.slots.filter s.untransferred)
  let s1 := open_.foldl (fun s r => s.cutSlot e r) s
  State.xferAdvance { s1 with exp := { s1.exp with slots := [] } } e

/-- The start count of a slot: φ · T_pred rounded up (R87). -/
def startCount (ph : Nat) (tpred : Frac) : Nat := ceilDiv (ph * tpred.num) (1024 * tpred.den)

/-- The slot of a line of a bank. -/
def State.lineSlot (s : State) (x n e : Nat) (tpred : Frac) (k : Nat) : SlotRun :=
  { slot := k, tickno := n, edge := e, tap := s.slotTap x k, rowsets := [s.slotRowset x k], startPh := s.slotPh x k
    start := e + startCount (s.slotPh x k) tpred, len := s.slotLen x k
    chans := if s.on (R.EXP_x_SLOTk_CTRL_LAMP_EN x k) then 2 ^ s.get (R.EXP_x_SLOTk_CTRL_LAMP_CH x k) else 0
    dly := s.get (R.EXP_x_SLOTk_STRB_DLY_STRB_DLY x k), width := s.get (R.EXP_x_SLOTk_STRB_W_STRB_W x k) }

/-- The area slot (R53): both row sets, tap A when TICKNO is even. -/
def State.areaSlot (s : State) (n e : Nat) (tpred : Frac) : SlotRun :=
  { slot := 0, tickno := n, edge := e, tap := n % 2, rowsets := [0, 1], startPh := s.act R.EXP_AREA_TIME_START_PH
    start := e + startCount (s.act R.EXP_AREA_TIME_START_PH) tpred, len := s.act R.EXP_AREA_TIME_LENGTH
    chans := s.act R.EXP_AREA_CTRL_LAMP_MASK, dly := s.act R.EXP_AREA_STRB_DLY_STRB_DLY, width := s.act R.EXP_AREA_STRB_W_STRB_W }

/-- At an exposed tick CNT6 and CNT7 are in TIMER mode with PRESC = 0 (R87). -/
def State.expCounters (s : State) : State := [6, 7].foldl (fun s k => (s.put (R.CNTk_CTRL_MODE k) 1).put (R.CNTk_CTRL_PRESC k) 0) s

/-- The slots of the tick's line are set up and their channels armed with the start counts (R87). -/
def State.exposeSlots (s : State) (rs : List SlotRun) (n e rows : Nat) : State :=
  let s1 := rs.foldl (fun s r => s.slotArm r.slot (r.start - e)) s
  { s1 with exp := { s1.exp with slots := slotOrder rs
                                 slacks := s1.exp.slacks ++ [{ tickno := n, edge := e, txLeft := rs.length, rdLeft := rows }] } }

/-- HOLD-UP is entered: no row set integrates on; what was being exposed is transferred, so that the flush steps read it. -/
def State.slotsEndNow (s : State) : State :=
  let open_ := slotOrder (s.exp.slots.filter (fun r => !r.ended))
  let s1 := open_.foldl (fun s r => (s.strobeEnd r.slot s.now).xferPush r (!r.started)) s
  State.xferAdvance { s1 with exp := { s1.exp with slots := [] } } s.now

/-- Leaving RUN: the row sets are drained, strobes end, and what was being exposed is given up. -/
def State.expHalt (s : State) : State :=
  let s1 := s.exp.slots.foldl (fun s r => s.strobeEnd r.slot s.now) s
  { s1 with exp := { s1.exp with slots := [], xfers := [], slacks := [] } }

end Sys2Proof.Machine
end

