-- ==== Sys2Proof/Machine/Stats.lean ====
section
/-! DEFINITION. The Developer's pixel path, statistics patches and records, contact sheets (R196, R202–R210). -/
namespace Sys2Proof.Machine

/-! ## The pixel path (R202) -/

/-- A context's parameters: a table of registers, its parameter block's address and the number of its curves (Table 9-8). -/
structure DevPar where
  regs : SMap Word := []
  base : Nat := 0
  curve : Nat := 0
  deriving DecidableEq, Repr

def State.inlinePar (s : State) (x : Nat) : DevPar := { regs := s.regs, base := 0x1B100 + 0x40 * x, curve := x }
def ctxPar (regs : SMap Word) (m : Nat) : DevPar := { regs := regs, base := 0x1B400 + 0x40 * m, curve := m + 1 }

def DevPar.word (q : DevPar) (a : Nat) : Nat := (mapGet (regReset a) q.regs a).toNat
def DevPar.black (q : DevPar) (b : Nat) : Nat := bits (q.word (q.base + 0x10 + 4 * (b / 2))) (16 * (b % 2)) 15
def DevPar.wb (q : DevPar) (b : Nat) : Nat := bits (q.word (q.base + 0x18 + 4 * (b / 2))) (16 * (b % 2)) 16
def DevPar.mat (q : DevPar) (c b : Nat) : Int := toSigned 16 (bits (q.word (q.base + 0x20 + 8 * c + 4 * (b / 2))) (16 * (b % 2)) 16)
def DevPar.tone (q : DevPar) (c i : Nat) : Nat := bits (q.word (0x1000 * (0x40 + 3 * q.curve + c) + 0x800 + 4 * (i / 2))) (16 * (i % 2)) 12

/-- Stages 1 and 2. -/
def DevPar.white (q : DevPar) (b x : Nat) : Int :=
  clampI 0 4095 (((((x % 32768 : Nat) : Int) - q.black b) * q.wb b + 2048) / 4096)

/-- Stages 3 and 4: one colour from the four white-balanced bands. -/
def DevPar.colour (q : DevPar) (c : Nat) (w : List Int) : Nat :=
  let y := (clampI 0 4095 (((List.range 4).foldl (fun n b => n + q.mat c b * w.getD b 0) 2048) / 4096)).toNat
  let i := y / 4
  let f := y % 4
  (q.tone c i * (4 - f) + q.tone c (min (i + 1) 1023) * f + 2) / 4

/-- A developed pixel: channels 0–3 the white-balanced bands, 4–6 the colours; whether it is saturated. -/
structure Pixel where
  ch : List Nat := []
  sat : Bool := false
  deriving DecidableEq, Repr

def DevPar.develop (q : DevPar) (xs : List Nat) : Pixel :=
  let w := (List.range 4).map (fun b => q.white b (xs.getD b 0))
  { ch := w.map Int.toNat ++ (List.range 3).map (fun c => q.colour c w), sat := xs.any (fun x => 32768 ≤ x) }

/-! ## Patches (R206–R208) -/

structure Patch where
  index : Nat := 0
  c0 : Nat := 0
  c1 : Nat := 0
  l0 : Nat := 0
  l1 : Nat := 0
  hch : Nat := 0
  hist : Bool := false
  deriving DecidableEq, Repr

/-- The enabled patches of a page of patches; on the shared page those of one context. -/
def patchesOf (regs : SMap Word) (page : Nat) (ctx : Option Nat) : List Patch :=
  (List.range 256).filterMap (fun k =>
    let w (j : Nat) : Nat := let a := page * 4096 + 0x400 + 12 * k + 4 * j; (mapGet (regReset a) regs a).toNat
    let mine := match ctx with | none => true | some m => bits (w 2) 24 4 = m
    if bit (w 1) 31 && mine then
      some { index := k, c0 := bits (w 0) 0 15, c1 := bits (w 0) 16 15, l0 := bits (w 1) 0 24, l1 := bits (w 2) 0 24
             hch := bits (w 1) 24 3, hist := bit (w 1) 27 }
    else none)

/-- Patches that keep a histogram: the first 64 with HIST = 1. -/
def histPatches (ps : List Patch) : List Nat := ((ps.filter Patch.hist).take 64).map Patch.index

/-- Add one number to each element of a list. -/
def addEach : List Nat → List Nat → List Nat
  | x :: xs, y :: ys => (x + y) :: addEach xs ys
  | xs, _ => xs

def PatchAcc.add (a : PatchAcc) (p : Patch) (h : Bool) (x : Pixel) : PatchAcc :=
  { count := a.count + 1, sat := a.sat + boolNat x.sat, sums := addEach a.sums x.ch, sqs := addEach a.sqs (x.ch.map (fun v => v * v))
    hist := if h then (let b := x.ch.getD (min 6 p.hch) 0 / 16; mapSet 0 a.hist b (min 0xFFFFFFFF (mapGet 0 a.hist b + 1))) else a.hist }

/-- A developed pixel contributes to every patch that it lies in. -/
def patchPixel (ps : List Patch) (hs : List Nat) (acc : SMap PatchAcc) (c l : Nat) (x : Pixel) : SMap PatchAcc :=
  ps.foldl (fun m p =>
    if p.c0 ≤ c && c ≤ p.c1 && p.l0 ≤ l && l ≤ p.l1 then mapSet {} m p.index ((mapGet {} m p.index).add p (hs.contains p.index) x) else m) acc

/-! ## Statistics records (R209, R210) -/

/-- The length of a range clipped to another. -/
def clipLen (a b lo hi : Nat) : Nat := min b hi + 1 - max a lo

/-- Mean and population deviation in 1/16 units. -/
def mean16 (a : PatchAcc) (i : Nat) : Nat := if a.count = 0 then 0 else (32 * a.sums.getD i 0 + a.count) / (2 * a.count)
def dev16 (a : PatchAcc) (i : Nat) : Nat :=
  if a.count = 0 then 0
  else (isqrt (1024 * (a.count * a.sqs.getD i 0 - a.sums.getD i 0 * a.sums.getD i 0)) / a.count + 1) / 2

/-- A block of 60 bytes with its CRC. -/
def sealBlock (bs : List Nat) : List Nat := let b := padTo 60 bs; b ++ leBytes 4 (crc32 b)

def patchEntry (p : Patch) (a : PatchAcc) (partly hist : Bool) : List Nat :=
  sealBlock ([p.index, boolNat partly + 2 * boolNat hist, min 6 p.hch, 0] ++ leBytes 4 a.count ++ leBytes 4 a.sat ++
    (List.range 7).flatMap (fun i => leBytes 2 (mean16 a i)) ++ (List.range 7).flatMap (fun i => leBytes 2 (dev16 a i)))

/-- The fields of a statistics header that differ between contexts. -/
structure StatHead where
  ctx : Nat := 0
  flags : Nat := 0
  number : Nat := 0
  tickno : Nat := 0
  stamp : Nat := 0
  lines : Nat := 0
  dropped : Nat := 0
  excess : Nat := 0
  job : Nat := 0
  deriving DecidableEq, Repr

/-- A statistics record; columns lo–hi and lines 0 to `height` − 1 clip the patches. -/
def State.statRecord (s : State) (h : StatHead) (ps : List Patch) (acc : SMap PatchAcc) (lo hi height : Nat) : List Nat :=
  let hs := histPatches ps
  let a (p : Patch) : PatchAcc := mapGet {} acc p.index
  let area (p : Patch) : Nat :=
    if p.c1 < p.c0 || p.l1 < p.l0 || height = 0 then 0 else clipLen p.c0 p.c1 lo hi * clipLen p.l0 p.l1 0 (height - 1)
  let partly (p : Patch) : Bool := (a p).count < area p
  let head := sealBlock (leBytes 2 1 ++ [h.ctx, h.flags ||| boolNat (ps.any partly)] ++ leBytes 4 h.number ++ leBytes 8 h.tickno ++
    leBytes 8 h.stamp ++ leBytes 4 h.lines ++ leBytes 2 ps.length ++ leBytes 2 hs.length ++ leBytes 4 h.dropped ++ leBytes 4 h.excess ++
    leBytes 2 (s.get R.JOB_CTRL_CHAIN_POS) ++ leBytes 2 h.job)
  head ++ ps.flatMap (fun p => patchEntry p (a p) (partly p) (hs.contains p.index)) ++
    hs.flatMap (fun k => (List.range 256).flatMap (fun b => leBytes 4 (mapGet 0 (mapGet {} acc k).hist b)))

/-- More than 64 histograms in a repeat's or frame's set are told, whether or not a record is written (R208). -/
def State.histLimit (s : State) (ps : List Patch) : State :=
  if 64 < (ps.filter Patch.hist).length then s.raise E.DEV_HIST_LIMIT else s

/-- A statistics record goes to ring 3 or is discarded. -/
def State.statWrite (s : State) (ps : List Patch) (bs : List Nat) : State :=
  let s1 := s.histLimit ps
  match s1.ringPut 3 bs with
  | some s2 => s2
  | none => ((s1.bump R.DEV_STATS_DROP_COUNT).raise E.DEV_STATS_DROP).ringOverflow 3

/-! ## Contact sheets (R196, R204) -/

def State.ownLo (s : State) (x : Nat) : Nat := s.get (R.JOB_x_OWN_OWN_LO x)
def State.ownHi (s : State) (x : Nat) : Nat := s.get (R.JOB_x_OWN_OWN_HI x)
def State.sheetX0 (s : State) (x : Nat) : Nat := s.ownLo x / 16 * 16
def State.sheetWidth (s : State) (x : Nat) : Nat := ceilDiv (s.ownHi x + 1 - s.sheetX0 x) 16

def cellKey (x y : Nat) : Nat := 65536 * y + x

/-- The 8-bit form of the mean of a block. -/
def byteMean (sum count : Nat) : Nat := if count = 0 then 0 else min 255 (((2 * sum + count) / (2 * count) + 8) / 16)

/-- The sheet of a repeat of a length: header and rows. -/
def State.sheetBytes (s : State) (r : RepAcc) (len : Nat) : List Nat :=
  let x := r.bank
  let w := s.sheetWidth x
  let h := ceilDiv len 16
  let cell (i j : Nat) : Cell := mapGet {} r.sheet (cellKey i j)
  let gap := (List.range h).any (fun j => (List.range w).any (fun i => (cell i j).count = 0))
  let head := sealBlock (leBytes 2 1 ++ leBytes 2 w ++ leBytes 4 h ++ leBytes 4 r.number ++ leBytes 4 len ++ leBytes 8 r.first ++
    leBytes 2 (s.sheetX0 x) ++ [0, boolNat gap + 2 * boolNat r.cut] ++ leBytes 2 (s.get R.JOB_CTRL_CHAIN_POS) ++ leBytes 2 (s.get (R.JOB_x_ID_JOB_ID x)))
  let row (j : Nat) : List Nat :=
    let bs := (List.range w).flatMap (fun i =>
      let c := cell i j
      [byteMean c.r c.count, byteMean c.g c.count, byteMean c.b c.count])
    padTo (ceilDiv (3 * w) 64 * 64) bs
  head ++ (List.range h).flatMap row

/-- A repeat's contact sheet and statistics are written. -/
def State.repWrite (s : State) (r : RepAcc) (len : Nat) : State :=
  let x := r.bank
  let s1 := match s.ringPut 2 (s.sheetBytes r len) with
    | some s1 => s1
    | none => (s.ringDrop 2).ringOverflow 2
  let ps := patchesOf s1.regs (0x1C + x) none
  if !s1.on (R.DEVx_CTRL_STATS_EN x) then s1.histLimit ps
  else
    let h : StatHead := { flags := 2 * boolNat r.cut, number := r.number, tickno := r.first, lines := len, job := s1.get (R.JOB_x_ID_JOB_ID x) }
    s1.statWrite ps (s1.statRecord h ps r.patches (s1.ownLo x) (s1.ownHi x) len)

/-- Repeats that have ended and whose last line has left the Developer are written, oldest first. -/
def State.repsDone (s : State) : State :=
  let open_ (r : RepAcc) : Bool := match r.lines with
    | none => true
    | some n => s.lines.any (fun l => l.bank = r.bank && l.exposed && r.first ≤ l.tickno && l.tickno < r.first + n && !l.devDone)
  let done := s.dev.reps.filter (fun r => !open_ r)
  let s1 := { s with dev := { s.dev with reps := s.dev.reps.filter open_ } }
  done.foldl (fun s r => s.repWrite r (r.lines.getD 0)) s1

end Sys2Proof.Machine
end

