-- ==== Sys2Proof/Machine/Stop.lean ====
section
/-! DEFINITION. What leaving RUN does to the pipeline, the end of a job, memory contexts discarded (R137, R183, R201, R342, R362). -/
namespace Sys2Proof.Machine

/-! ## Engines as SH_STAT shows them -/

def State.engine (s : State) (sh : Nat) : Engine := mapGet {} s.eng sh
def State.setEngine (s : State) (sh : Nat) (e : Engine) : State := { s with eng := mapSet {} s.eng sh e }

def State.courseOn (s : State) (c : Nat) : Bool := bit (s.get R.ENGG_STAT_COURSE_ON) c
def State.shOn (s : State) (sh : Nat) : Bool := s.courseOn (sh / 16)

/-- A line is due: the second tick edge after its own has passed (R137). -/
def State.lineDue (s : State) (n : Nat) : Bool := match s.lineOf n with | none => false | some l => 2 ≤ l.stage

/-- SH_STAT.STATE (R154). A line that has been pushed and is not due yet leaves an engine IDLE (DEDUCED, log 157). -/
def State.shState (s : State) (sh : Nat) : Nat :=
  let e := s.engine sh
  if !s.shOn sh then 0
  else if e.faulted then 5
  else match e.run with
    | some r => if r.init then 4 else 3
    | none =>
      if s.on (R.SH_CTRL_HALT sh) then 6
      else match e.intake with
        | [] => 1
        | x :: _ => if s.lineDue x.tickno then 2 else 1

/-- SH_STAT follows the engine. -/
def State.shShow (s : State) (sh : Nat) : State :=
  if !s.shOn sh then s
  else
    let e := s.engine sh
    let claimed := match e.run with | some r => boolNat r.claimed | none => 0
    (((s.put (R.SH_STAT_STATE sh) (s.shState sh)).put (R.SH_STAT_INTAKE_OCC sh) (e.intake.length + boolNat e.run.isSome)).put
      (R.SH_STAT_PROOF_OCC sh) e.proof.length).put (R.SH_STAT_OUT_OCC sh) (e.out.length + claimed) |>.put
      (R.SH_STAT_STEP sh) (s.stepAct (sh / 16))

/-- Empty an engine's queues and stop its invocation. -/
def Engine.cleared (e : Engine) : Engine :=
  { e with intake := [], proof := [], out := [], leaving := [], run := none, sreg := [], vreg := [], areg := [], preg := [] }

/-- The engines stop, and the lines in flight are given up; a repeat that the end of its job has closed is written with what of it was
developed (R209). -/
def State.linesDrop (s : State) : State :=
  let keys := s.eng.map Prod.fst
  let s1 := { s with
    lines := [], eng := s.eng.map (fun (p : Nat × Engine) => (p.1, p.2.cleared))
    rdo := { s.rdo with banks := [], next := [], store := [], frames := [] }
    rec_ := { s.rec_ with work := [], reports := [] }
    dev := { s.dev with input := [] }
    job := { s.job with busy := [] } }
  ((keys.foldl State.shShow (s1.put R.DEV_STAT_IN_OCC 0)).put R.JOB_STAT_OLD_BUSY 0).repsDone

/-! ## The end of a job (R183) -/

/-- The repeat in progress ends before tick T. -/
def State.repClose (s : State) (T : Nat) (cut : Bool) : State :=
  { s with dev := { s.dev with reps := s.dev.reps.map (fun r => if r.lines.isNone then { r with lines := some (T - r.first), cut := cut } else r) } }

/-- An armed switch or start is dropped. -/
def State.disarm (s : State) : State :=
  if s.job.armed.isNone then s
  else
    let s1 := State.put { s with job := { s.job with armed := none } } R.JOB_STAT_ARMED 0
    (s1.put R.JOB_STAT_DEFERRED 0).usedShow.raise E.JOB_DISARMED

/-- From tick T on, lines belong to no job. -/
def State.jobEndAt (s : State) (T : Nat) : State :=
  match s.job.active with
  | none => s
  | some x =>
    let s1 := (s.repClose T true).disarm
    let s2 := { s1 with job := { s1.job with active := none, busy := setAdd s1.job.busy x, stopAt := false, rep := {}, adoptPend := false } }
    ((s2.put R.JOB_STAT_RUNNING 0).busyShow).usedShow.capActShow

/-- The job ends at the last tick edge. -/
def State.jobEndNow (s : State) : State := s.jobEndAt (s.tick.tickno + (if s.tick.firstTick then 0 else 1))

/-! ## Memory contexts (R201, R219) -/

def State.ctxOf (s : State) (m : Nat) : MemCtx := mapGet {} s.dev.ctx m
def State.setCtx (s : State) (m : Nat) (x : MemCtx) : State := { s with dev := { s.dev with ctx := mapSet {} s.dev.ctx m x } }

/-- MSTAT of context m follows its frames. -/
def State.ctxShow (s : State) (m : Nat) : State :=
  let x := s.ctxOf m
  ((s.put (R.MCm_MSTAT_WAITING (m - 1)) (x.waiting.length + boolNat x.open_.isSome)).put (R.MCm_MSTAT_OPEN (m - 1))
    (boolNat x.open_.isSome)).put (R.MCm_MSTAT_DEVELOPING (m - 1)) (boolNat (x.waiting.any SatFrame.begun))

/-- A frame of context m is dropped. -/
def State.ctxDrop (s : State) (m n : Nat) : State :=
  let x := s.ctxOf m
  ((s.setCtx m { x with dropped := x.dropped + n }).bumpBy (R.DEV_MCm_CNTk_COUNT (m - 1) 1) n).raiseBy E.DEV_DROP n

/-- Every open and waiting frame of a context is discarded and counted as dropped. -/
def State.ctxDiscard (s : State) (m : Nat) : State :=
  let x := s.ctxOf m
  let s1 := s.setCtx m { x with open_ := none, waiting := [], dropping := none, turnLines := 0 }
  (s1.ctxDrop m (x.waiting.length + boolNat x.open_.isSome)).ctxShow m

def State.satDiscard (s : State) : State := (List.range 15).foldl (fun s i => s.ctxDiscard (i + 1)) s

/-! ## Leaving RUN -/

/-- The sensor, the tick generator and the lines in flight when RUN is left otherwise than into HOLD-UP. -/
def State.sensorStop (s : State) : State := s.tickHalt.expHalt.linesDrop

/-- SYS monitor m. -/
def sysMon (m : Nat) : Mon := ⟨R.SYS_MONm_MIN_VAL m, R.SYS_MONm_MAX_VAL m, (R.SYS_MONm_BINi_COUNT m 0).reg⟩

end Sys2Proof.Machine
end

