-- ==== Sys2Proof/Machine/Thermal.lean ====
section
/-! DEFINITION. The thermal unit: sites, cross-check, bands, thresholds, thermal states, enforcement, shutdown (chapter 14). -/
namespace Sys2Proof.Machine

/-! ## Sites (R333, Table 14-1) -/

/-- The sites that Table 14-1 lists beside a site. -/
def listedNeighbours (s : Nat) : List Nat :=
  let near (lo hi step : Nat) := (if lo + step ≤ s then [s - step] else []) ++ (if s + step < hi then [s + step] else [])
  if s < 8 then near 0 8 1 ++ [8 + s / 2, 12 + s / 2]
  else if s < 12 then near 8 12 1 ++ [2 * (s - 8), 2 * (s - 8) + 1]
  else if s < 16 then near 12 16 1 ++ [2 * (s - 12), 2 * (s - 12) + 1]
  else if s < 40 then (if s % 2 = 0 then [s + 1] else [s - 1]) ++ near 16 40 2
  else if s < 44 then near 40 44 1
  else if s < 52 then (if s % 2 = 0 then [s + 1] else [s - 1]) ++ near 44 52 2
  else if s < 56 then near 52 56 1
  else if s < 62 then (if s % 2 = 0 then [s + 1] else [s - 1]) ++ near 56 62 2
  else if s = 62 then [63, 70]
  else if s = 63 then [62, 70]
  else if s < 68 then near 64 68 1
  else if s = 68 then [69, 67]
  else if s = 69 then [68, 67]
  else if s = 70 then [62, 63, 71]
  else [70, 64]

/-- Two sites are neighbours if either lists the other. -/
def neighbour (a b : Nat) : Bool := (listedNeighbours a).contains b || (listedNeighbours b).contains a
def neighbours (s : Nat) : List Nat := (List.range 72).filter (neighbour s)

def State.siteT (s : State) (i : Nat) : Int := toSigned 16 (s.get (R.THERM_SITEs_T i))
def State.siteSuspect (s : State) (i : Nat) : Bool := s.on (R.THERM_SITEs_SUSPECT i)

/-- A threshold in force: the host may lower it, and a value above its default acts as the default (R336). -/
def State.thrWarn (s : State) (g : Nat) : Int := min (toSigned 16 (s.get (R.THERM_THRg_W0_WARN g))) (10 * (thrDefault g).1)
def State.thrThrottle (s : State) (g : Nat) : Int :=
  min (toSigned 16 (s.get (R.THERM_THRg_W0_THROTTLE g))) (10 * (thrDefault g).2.1)
def State.thrShutdown (s : State) (g : Nat) : Int :=
  min (toSigned 16 (s.get (R.THERM_THRg_W1_SHUTDOWN g))) (10 * (thrDefault g).2.2.1)
def State.thrResume (s : State) (g : Nat) : Int :=
  min (toSigned 16 (s.get (R.THERM_THRg_W1_RESUME g))) (10 * (thrDefault g).2.2.2)

/-- Fields of which 0 acts as 1, and the clamp of GRACE (Table 14-6). -/
def State.rateWin (s : State) : Nat := max 1 (s.get R.THERM_CTRL_RATE_WIN)
def State.rateLim (s : State) : Nat := max 1 (s.get R.THERM_CTRL_RATE)
def State.enfStep (s : State) : Nat := max 1 (s.get R.THERM_CTRL_ENF_STEP)
def State.holdSec (s : State) : Nat := max 1 (s.get R.THERM_CTRL2_HOLD)
def State.graceClk (s : State) : Nat := min 300 (max 5 (s.get R.THERM_CTRL_GRACE)) * (secClk / 10)

/-! ## Cross-checking (R334). Differences are held in 1/64,000 of 0.1 °C, so that one value of 1 ms moves D_s by 1/64,000
of its distance: a time constant of 64 s (DESIGN CHOICE, log 20). -/

/-- The mean of the listed values in 1/64,000 of a unit. -/
def mean64 (vs : List Int) : Int := if vs.isEmpty then 0 else (vs.foldl (· + ·) 0) * 64000 / (vs.length : Int)

/-- One site's new state: value in force, tracked difference, runs, and what is due. -/
structure SiteNew where
  own : Int := 0
  val : Int := 0
  d : Int := 0
  dev : Nat := 0
  agree : Nat := 0
  sus : Bool := false
  ok : Bool := false
  deriving DecidableEq, Repr

/-- A raw reading at or beyond either end of −40 °C to 150 °C is out of range. -/
def outOfRange (raw : Int) : Bool := raw ≤ -400 || 1500 ≤ raw

/-- Judge site i from the trimmed readings of all sites. -/
def State.judgeSite (s : State) (raw own : List Int) (i : Nat) : SiteNew :=
  let mine := own.getD i 0
  let bad := outOfRange (raw.getD i 0)
  let nb := (neighbours i).filter (fun j => !s.siteSuspect j && !outOfRange (raw.getD j 0))
  let mean := mean64 (nb.map (fun j => own.getD j 0))
  let diff := mine * 64000 - mean
  if !s.therm.seen then
    let d := if nb.isEmpty then 0 else clampI (-30 * 64000) (30 * 64000) diff
    { own := mine, val := if bad then (mean + d + 32000) / 64000 else mine, d := d, sus := bad }
  else
    let d := mapGet 0 s.therm.d i
    let pred := mean + d
    let gap := mine * 64000 - pred
    let near := -30 * 64000 ≤ gap && gap ≤ 30 * 64000 && !bad
    let far := gap < -60 * 64000 || 60 * 64000 < gap
    let d1 := if near && !nb.isEmpty then d + (diff - d) / 64000 else d
    let dev := if far && !nb.isEmpty && !bad then mapGet 0 s.therm.dev i + 1 else 0
    let agr := if near && !nb.isEmpty then mapGet 0 s.therm.agree i + 1 else 0
    let sus := s.siteSuspect i
    let val := if sus || bad then (if nb.isEmpty then s.siteT i else (pred + 32000) / 64000) else mine
    { own := mine, val := val, d := d1, dev := if sus then 0 else dev, agree := if sus then agr else 0
      sus := !sus && (bad || 1000 ≤ dev), ok := sus && 10000 ≤ agr }

/-! ## Bands and memory temperature (R335, R232) -/

def maxOf (vs : List Int) : Int := vs.foldl max (-10000)

/-- The array band for a highest value, from the band in force. -/
def bandFor (b : Nat) (m : Int) : Nat :=
  if 650 ≤ m || (b = 3 && 630 ≤ m) then 3
  else if 500 ≤ m || (2 ≤ b && 480 ≤ m) then 2
  else if 350 ≤ m || (1 ≤ b && 330 ≤ m) then 1
  else 0

/-- The refresh rate follows the DDR case temperature (`REFRESH_RATE_CHANGE`). -/
def State.ddrTemp (s : State) (m : Int) : State :=
  let s1 := s.put R.MEM_STAT_DDR_TC (ofSigned 8 (m / 10))
  let fast := if s.on R.MEM_STAT_REFRESH_2X then 830 ≤ m else 850 ≤ m
  if fast = s.on R.MEM_STAT_REFRESH_2X then s1
  else (s1.put R.MEM_STAT_REFRESH_2X (boolNat fast)).raise E.MEM_REFRESH

/-! ## Causes (R438) -/

/-- The site with the largest figure, the lowest-numbered on a tie. -/
def argMax (xs : List (Nat × Int)) : Option Nat :=
  (xs.foldl (fun acc (i, v) => match acc with
    | none => some (i, v)
    | some (j, w) => if w < v then some (i, v) else some (j, w)) none).map Prod.fst

def State.siteRate (s : State) (i : Nat) : Int := toSigned 16 (s.get (R.THERM_RAWs_RATE i))

/-- Is a site suspect with the value in hand, which `SITE_SUSPECT` and `SITE_UNSUSPECT` then show (R334)? -/
def State.suspectNow (s : State) (i : Nat) : Bool :=
  (s.siteSuspect i && !s.therm.dueOk.contains i) || s.therm.dueSus.contains i

/-- The cause present and its site: absolute 1, rate 2, suspect pair 3; none where no throttle condition is present. Rates over one RATE_WIN
compare as the rises do (R337, R438). -/
def State.throttleCause (s : State) : Option (Nat × Nat) :=
  let sites := List.range 72
  match argMax ((sites.filter (fun i => s.on (R.THERM_SITEs_THROTTLE i))).map (fun i => (i, s.siteT i - s.thrThrottle (siteGroup i)))) with
  | some i => some (1, i)
  | none => match argMax ((sites.filter (fun i => s.on (R.THERM_SITEs_RATE i))).map (fun i => (i, mapGet 0 s.therm.rise i))) with
    | some i => some (2, i)
    | none => (sites.find? (fun i => s.suspectNow i && (neighbours i).any (fun j => i < j && s.suspectNow j))).map (fun i => (3, i))

/-- The site with the highest value in force. -/
def State.hottest (s : State) : Nat := (argMax ((List.range 72).map (fun i => (i, s.siteT i)))).getD 0

/-- THERM_GRACE_LEFT in ms. -/
def State.graceLeft (s : State) : Nat := if s.get R.THERM_STAT_STATE = 2 then ceilDiv (s.therm.graceEnd - s.now) msClk else 0

/-! ## States and events (R338, R339) -/

/-- The slowest step among the courses' ENGG_CLK_THERM fields. -/
def slowestStep (v : Nat) : Nat := (List.range 12).foldl (fun m c => max m (bits v (2 * c) 2)) 0

/-- A THERMAL event with the DETAIL of R339. -/
def State.thermEvent (s : State) (cause site : Nat) : State :=
  s.event cTHERMAL 0 (leBytes 1 (s.get R.THERM_STAT_STATE) ++ leBytes 1 (s.get R.THERM_STAT_STAGE) ++ leBytes 1 cause ++
    leBytes 1 site ++ leBytes 2 (ofSigned 16 (s.siteT site)) ++ leBytes 2 (ofSigned 16 (s.siteRate site)) ++
    leBytes 4 (s.get R.TICK_CAP_THERM_HZ) ++ leBytes 1 (slowestStep (s.get R.ENGG_CLK_THERM_STEP)) ++
    leBytes 1 (s.get R.THERM_STAT_TB) ++ leBytes 2 s.graceLeft)

def State.setTherm (s : State) (v : Nat) : State := s.settleFrom (s.put R.THERM_STAT_STATE v)

def State.setCause (s : State) (c : Nat × Nat) : State := (s.put R.THERM_STAT_CAUSE c.1).put R.THERM_STAT_SITE c.2

/-- NORMAL or WARN, by whether a site meets WARN. -/
def State.thermCalm (s : State) : State :=
  let w := (List.range 72).any (fun i => s.on (R.THERM_SITEs_WARN i))
  let new := boolNat w
  if s.get R.THERM_STAT_STATE = new then s
  else
    let s1 := s.setTherm new
    let s2 := if w then s1.raise E.THERM_WARN else s1
    s2.thermEvent 0 s2.hottest

/-- `THERMAL_REQUEST`: REQUEST is entered and the grace timer started. -/
def State.thermRequest (s : State) (c : Nat × Nat) : State :=
  let s1 := (State.setTherm { s with therm := { s.therm with graceEnd := s.now + s.graceClk } } 2).setCause c
  (s1.raise E.THERM_REQUEST).thermEvent c.1 c.2

/-- TICK_CAP_THERM from the stage's term and the kernel cap of the active bank (R340). -/
def State.capTherm (s : State) : State :=
  match s.therm.caps with
  | [] => s.put R.TICK_CAP_THERM_HZ 400000
  | c :: _ =>
    let k := if s.jobRunning then s.kcapActive else 0
    s.put R.TICK_CAP_THERM_HZ (max 100 (if k = 0 then c else min c k))

/-- The clock step of stage k, every course (R340). -/
def stageSteps (k : Nat) : Nat := (List.range 12).foldl (fun v c => insBits v (2 * c) 2 (min 3 k)) 0

/-- `ENFORCE_STAGE`: the next stage: a step slower, and seven eighths of the cap just before. -/
def State.enforceStage (s : State) (c : Nat × Nat) : State :=
  let k := s.get R.THERM_STAT_STAGE + 1
  if 7 < k then s
  else
    let cs := 7 * s.fCap / 8
    let s1 := { s with therm := { s.therm with caps := cs :: s.therm.caps, lastStage := s.now, releasing := false } }
    let s2 := ((s1.put R.THERM_STAT_STAGE k).put R.ENGG_CLK_THERM_STEP (stageSteps k)).capTherm
    (s2.raise E.THERM_ENFORCE).thermEvent c.1 c.2

/-- `GRACE_EXPIRE`: with a condition present, ENFORCE and stage 1. -/
def State.graceExpire (s : State) : State :=
  if s.get R.THERM_STAT_STATE ≠ 2 || s.pwr.off then s
  else match s.throttleCause with
    | none => s
    | some c =>
      let s1 := s.at s.therm.graceEnd
      State.enforceStage (State.setTherm { s1 with therm := { s1.therm with lastCond := s1.now } } 3) c

def execGraceExpire (s : State) : Host.Outcome State Fault Refusal := .next s.graceExpire

/-- `THERMAL_RELEASE` (R341): HOLD after the last value with a condition, then every ENF_STEP, one stage is released. -/
def State.thermalRelease (s : State) : State :=
  if s.get R.THERM_STAT_STATE ≠ 3 || s.therm.cond || s.pwr.off then s
  else
    let due := if s.therm.releasing then s.therm.lastStage + s.enfStep * secClk else s.therm.lastCond + s.holdSec * secClk
    let s1 := s.at due
    let k := s1.get R.THERM_STAT_STAGE - 1
    let s2 := { s1 with therm := { s1.therm with caps := s1.therm.caps.drop 1, lastStage := s1.now, releasing := true } }
    let s3 := ((s2.put R.THERM_STAT_STAGE k).put R.ENGG_CLK_THERM_STEP (stageSteps k)).capTherm
    let s4 := s3.raise E.THERM_RELEASE
    if k = 0 then
      let s5 := State.thermCalm { s4 with therm := { s4.therm with releasing := false } }
      s5
    else s4.thermEvent 0 s4.hottest

def execThermalRelease (s : State) : Host.Outcome State Fault Refusal := .next s.thermalRelease

/-! ## Shutdown (R342) -/

/-- The highest value in force in a group. -/
def State.groupMax (s : State) (g : Nat) : Int :=
  maxOf (((List.range 72).filter (fun i => siteGroup i = g)).map s.siteT)

/-- The THERMAL_SHUTDOWN DETAIL (Table 14-5). -/
def State.shutdownDetail (s : State) (site : Nat) : List Nat :=
  leBytes 1 1 ++ leBytes 1 site ++ leBytes 2 (ofSigned 16 (s.siteT site)) ++ leBytes 8 s.lastTickno ++
    leBytes 2 (ofSigned 16 (s.siteRate site)) ++
    ([0, 1, 2, 4, 5, 6, 8].flatMap (fun g => leBytes 2 (ofSigned 16 (s.groupMax g))))

/-- Frames and measurements in progress are discarded (R201, R318), everything but AON is switched off, DDR4 keeps its contents in self-refresh, and the module is in STANDBY. -/
def State.toStandby (s : State) : State :=
  ((s.calDiscard.satDiscard.domsOffBut [dAON, dDDR]).ddrRest).accrue.setPower pSTANDBY

/-- An event that waits leaves port H ahead of every packet, where the port is UP (R342); SEQ counts it (R289). -/
def State.eventFirst (s : State) : State :=
  if s.portUp 0 then
    match s.evtQ.reverse with
    | [] => s
    | e :: rest =>
      let x := s.portOf 0
      let q := mapGet 0 x.txSeq e.vc
      let s1 := s.setPort 0 { x with txSeq := mapSet 0 x.txSeq e.vc ((q + 1) % 65536) }
      { s1 with evtQ := rest.reverse
                wire := s.wire ++ [{ port := 0, packet := true, vc := e.vc, type := 0x03, seq := q, bytes := e.payload, time := s.now }] }
  else s

/-- The shutdown itself: no further tick, engines stopped, ports, LAMP and courses off, the records committed, STANDBY. -/
def State.shutdownNow (s : State) (site : Nat) : State :=
  let s1 := s.calAbort.jobEndNow.sensorStop.satDiscard.nvsCut
  let s2 := s1.thermEvent 1 site
  let s3 := s2.eventFirst.domsOff (domOrder.reverse.filter (fun d => (6 ≤ d && d < 18) || 21 ≤ d))
  let s4 := { s3 with nvs := { s3.nvs with life := { s3.nvs.life with shutdowns := s3.nvs.life.shutdowns + 1 } } }
  let s5 := (s4.jEvent evTHERMAL_SHUTDOWN (s4.shutdownDetail site)).toStandby
  { s5 with pwr := { s5.pwr with fromThermal := true, hostStandby := false, started := false, held := false, wake := false } }

/-- The shutdown's event and record in STANDBY, where nothing is left to stop. -/
def State.shutdownRecord (s : State) (site : Nat) : State :=
  let s1 := { s with nvs := { s.nvs with life := { s.nvs.life with shutdowns := s.nvs.life.shutdowns + 1 } } }
  (s1.thermEvent 1 site).jEvent evTHERMAL_SHUTDOWN (s1.shutdownDetail site)

/-- `THERMAL_SHUTDOWN`: SHUTDOWN is entered; a running hold-up drain or flush completes first, and in WAIT, as in STANDBY, nothing is left to
stop. -/
def State.thermShutdown (s : State) (site : Nat) : State :=
  let s1 := ((s.setTherm 4).setCause (1, site)).raise E.THERM_SHUTDOWN
  if s1.power = pHOLDUP then
    if s1.get R.PWR_STAT_HOLD_PHASE = 3 then State.shutdownRecord { s1 with pwr := { s1.pwr with fromThermal := true } } site
    else { s1 with pwr := { s1.pwr with fromThermal := true }, therm := { s1.therm with stopPend := true } }
  else if s1.power = pSTANDBY then
    State.shutdownRecord { s1 with pwr := { s1.pwr with fromThermal := true, hostStandby := false } } site
  else s1.shutdownNow site

/-! ## One fresh value of every site -/

/-- The input limits (R347, Table 15-1): PWR_ILIM.SUP falls to 6.0 A while a PWR-group site meets THROTTLE. -/
def State.ilimShow (s : State) : State :=
  let hot := [64, 65, 66, 67].any (fun i => s.on (R.THERM_SITEs_THROTTLE i))
  let s1 := s.put R.PWR_ILIM_SUP (if hot then 60 else 80)
  let src := s1.get R.PWR_STAT_SRC
  let lim := if src = 0 then 80 else if src = 1 then 25 else if src = 2 then 40 else min 80 (max 5 (s1.get R.PWR_ILIM_OPEN))
  s1.put R.PWR_ILIM_ACT (min lim (s1.get R.PWR_ILIM_SUP))

/-! ### The pack, as far as every unit must follow it (R349, R357, R359) -/

def State.packPresent (s : State) : Bool := s.on R.PACK_CHARGE_PRESENT
def State.packTemp (s : State) : Int := toSigned 16 (s.get R.PACK_IT_T)

/-- What both a usable and a low pack have: present, identity accepted, −20 to 60 °C (R357, R358). -/
def State.packFit (s : State) : Bool := s.packPresent && s.pwr.idOk && decide (-200 ≤ s.packTemp) && decide (s.packTemp ≤ 600)

/-- A pack is usable: fit, no fault but a timer fault, rest voltage at least 6.0 V (R357). -/
def State.packUsable (s : State) : Bool := s.packFit && s.get R.PWR_CHG_STAT_FAULT ≤ 2 && 6000 ≤ s.get R.PACK_V_V_REST

/-- RUN is admissible (R349). -/
def State.runAdmissible (s : State) : Bool :=
  s.get R.PWR_STAT_SRC ≠ 1 &&
    (65 ≤ s.get R.PWR_ILIM_ACT ||
      (35 ≤ s.get R.PWR_ILIM_ACT && s.packUsable && s.get R.PWR_HOLD_RESERVE < s.get R.PACK_CHARGE_MAH))

/-- A charge in mA·5 ns goes into the pack (positive) or out of it: PACK_CHARGE counts whole mAh and the rest is kept (R357). -/
def State.mahAdd (s : State) (q : Int) : State :=
  let tot := s.pwr.mahRest + q
  let mah : Int := (s.get R.PACK_CHARGE_MAH : Int) + tot / (3600 * secClk : Nat)
  State.put { s with pwr := { s.pwr with mahRest := tot % (3600 * secClk : Nat) } } R.PACK_CHARGE_MAH (clampI 0 65535 mah).toNat

/-- The pack's current is integrated up to now, where it flows without a break: in PRECHARGE, in supplement and on the pack. A pulse cycle counts
its own charge. -/
def State.packCount (s : State) : State :=
  let s1 := if s.get R.PWR_CHG_STAT_PHASE = 2 || s.on R.PWR_STAT_SUPPLEMENT || s.on R.PWR_STAT_ON_PACK then
      s.mahAdd (toSigned 16 (s.get R.PACK_IT_I) * ((s.now - s.pwr.ibatAt : Nat) : Int)) else s
  { s1 with pwr := { s1.pwr with ibatAt := s1.now } }

/-- From now on the pack's current is `i` mA, positive when charging. -/
def State.packSetI (s : State) (i : Int) : State := s.packCount.put R.PACK_IT_I (ofSigned 16 (clampI (-32768) 32767 i))

/-- The charger pauses above 45 °C and below 0 °C (R359). -/
def State.tempPause (s : State) : Bool := s.packPresent && (decide (450 < s.packTemp) || decide (s.packTemp < 0))

/-- Thermal foldback in 1/800: 800 at 40 °C or below, falling linearly to 100 at 45 °C, halved while a PWR site meets WARN. -/
def State.foldback (s : State) : Nat :=
  let t := if s.packPresent then s.packTemp else 0
  let f : Nat := if t ≤ 400 then 800 else if 450 ≤ t then 100 else (800 - 14 * (t - 400)).toNat
  if [64, 65, 66, 67].any (fun i => s.on (R.THERM_SITEs_WARN i)) then f / 2 else f

/-- TEMP_PAUSE and FOLDBACK follow, and PRECHARGE's current stops and starts with the pause (R359). -/
def State.foldShow (s : State) : State :=
  let s1 := (s.put R.PWR_CHG_STAT_TEMP_PAUSE (boolNat s.tempPause)).put R.PWR_CHG_STAT_FOLDBACK (boolNat (s.tempPause || s.foldback < 800))
  if s1.get R.PWR_CHG_STAT_PHASE = 2 then s1.packSetI (if s1.tempPause then 0 else 150) else s1

/-- The limits, the charger's temperature flags, USABLE, RUN_OK and LOCKOUT follow; in IDLE the converters and LAMP are off while RUN is not
admissible (R349, Table 15-3). -/
def State.pwrShow (s : State) : State :=
  let s0 := s.ilimShow.foldShow
  let s1 := s0.put R.PACK_CHARGE_USABLE (boolNat s0.packUsable)
  let ok := s1.runAdmissible
  let s2 := (s1.put R.PWR_STAT_RUN_OK (boolNat ok)).put R.PWR_STAT_LOCKOUT (boolNat (s1.get R.PWR_STAT_SRC = 1))
  if s2.isIdle && !ok then s2.domsOff [dLAMP, dARRAY, dCONVS, dCONVN] else s2

/-- Store one site: value, trimmed reading, rate, WARN, THROTTLE and rate alarm with their hysteresis (R337, R338). -/
def State.storeSite (s : State) (past : Option (List Int)) (i : Nat) (n : SiteNew) : State :=
  let g := siteGroup i
  let w := s.rateWin
  let dT := match past with | none => 0 | some p => n.val - p.getD i 0
  let wasW := s.on (R.THERM_SITEs_WARN i)
  let wasT := s.on (R.THERM_SITEs_THROTTLE i)
  let wasR := s.on (R.THERM_SITEs_RATE i)
  let warn := decide (s.thrWarn g ≤ n.val) || (wasW && decide (s.thrWarn g - 20 ≤ n.val))
  let thr := decide (s.thrThrottle g ≤ n.val) || (wasT && decide (s.thrThrottle g - 20 ≤ n.val))
  let rl : Int := (s.rateLim * w : Nat)
  let alarm := bit (s.get R.THERM_CTRL2_RATE_EN) g && (decide (rl < dT) || (wasR && decide (rl < 2 * dT)))
  let s1 := ((s.put (R.THERM_SITEs_T i) (ofSigned 16 n.val)).put (R.THERM_RAWs_RAW i) (ofSigned 16 n.own)).put
    (R.THERM_RAWs_RATE i) (ofSigned 16 (clampI (-32768) 32767 (dT * 10 / (w : Int))))
  let s2 := ((s1.put (R.THERM_SITEs_WARN i) (boolNat warn)).put (R.THERM_SITEs_THROTTLE i) (boolNat thr)).put
    (R.THERM_SITEs_RATE i) (boolNat alarm)
  let hot := if s.thrShutdown g ≤ n.val then mapGet 0 s.therm.hot i + 1 else 0
  { s2 with therm := { s2.therm with
      d := mapSet 0 s2.therm.d i n.d
      dev := mapSet 0 s2.therm.dev i n.dev
      agree := mapSet 0 s2.therm.agree i n.agree
      hot := mapSet 0 s2.therm.hot i hot
      rise := mapSet 0 s2.therm.rise i dT
      dueSus := if n.sus then setAdd s2.therm.dueSus i else setDel s2.therm.dueSus i
      dueOk := if n.ok then setAdd s2.therm.dueOk i else setDel s2.therm.dueOk i } }

/-- The states of Table 14-3 after a fresh value: conditions are evaluated before timers, so a grace timer that has run out enforces only with
a condition present. -/
def State.thermState (s : State) : State :=
  let st := s.get R.THERM_STAT_STATE
  match s.throttleCause with
  | some c =>
    let s1 := { s with therm := { s.therm with cond := true, releasing := false } }
    if st < 2 then s1.thermRequest c
    else if st = 2 && s1.therm.graceEnd ≤ s1.now then s1.graceExpire
    else if st = 3 then
      let s2 := { s1 with therm := { s1.therm with lastCond := s1.now } }
      if s2.therm.lastStage + s2.enfStep * secClk ≤ s2.now then s2.enforceStage c else s2
    else s1
  | none =>
    let s1 := { s with therm := { s.therm with cond := false } }
    if st ≤ 2 then s1.thermCalm else s1

/-- The SYS temperature monitors: every 1 s, the highest value in force of each group (R401). -/
def State.tempMon (s : State) : State :=
  if s.now < s.sys.tempAt + secClk || !s.dom dSUPV then s
  else
    let s0 := { s with sys := { s.sys with tempAt := s.now } }
    if s0.on R.SYS_MON_CTRL_FREEZE then s0
    else (List.range 12).foldl (fun s g => s.monEnter (sysMon (7 + g)) 80 (s.groupMax g)) s0

/-- The fresh readings of all sites are trimmed, judged and stored, and the history grows by their values (R334–R338). -/
def State.sitesRead (s : State) (raw : List Int) : State :=
  let own := (List.range 72).map (fun i => raw.getD i 0 + toSigned 8 (s.fuseByte (0xA40 + i)))
  let news := (List.range 72).map (fun i => (i, s.judgeSite raw own i))
  let past := (s.therm.hist.find? (fun (u, _) => u + s.rateWin * secClk ≤ s.now)).map Prod.snd
  let vals := news.map (fun (_, n) => n.val)
  let s1 : State := news.foldl (fun s (i, n) => s.storeSite past i n) s
  { s1 with therm := { s1.therm with
      seen := true, hist := (s1.now, vals) :: s1.therm.hist.filter (fun (u, _) => s1.now < u + 16 * secClk) } }

/-- THERM_MAX, the input limits and what depends on them, the array band, what DDR4 does with its temperature. -/
def State.sitesShow (s : State) : State :=
  let s1 := ((s.put R.THERM_MAX_T (ofSigned 16 (s.siteT s.hottest))).put R.THERM_MAX_SITE s.hottest).pwrShow
  let s2 := s1.put R.THERM_STAT_TB (bandFor (s1.get R.THERM_STAT_TB) (s1.groupMax 0))
  s2.ddrTemp (s2.groupMax 4)

/-- Every site lies at or below its RESUME threshold (R343). -/
def State.allResume (s : State) : Bool := (List.range 72).all (fun i => decide (s.siteT i ≤ s.thrResume (siteGroup i)))

/-- The site that has met SHUTDOWN in two values and lies highest above its threshold. -/
def State.shutdownSite (s : State) : Option Nat :=
  argMax (((List.range 72).filter (fun i => 2 ≤ mapGet 0 s.therm.hot i)).map
    (fun i => (i, s.siteT i - s.thrShutdown (siteGroup i))))

/-- Has everything but AON and DDR4's self-refresh stopped: STANDBY, or WAIT of HOLD-UP? -/
def State.isDown (s : State) : Bool := s.power = pSTANDBY || (s.power = pHOLDUP && s.get R.PWR_STAT_HOLD_PHASE = 3)

/-- While shut down, DDR4 is lost where a DDR site reaches SHUTDOWN + 5 °C (R342); otherwise shutdown or the states of Table 14-3. -/
def State.thermAct (s : State) : State :=
  if s.get R.THERM_STAT_STATE = 4 then
    if (List.range 8).any (fun i => decide (s.thrShutdown 4 + 50 ≤ s.siteT (44 + i))) && s.isDown then
      State.put (State.memForget (s.domOff dDDR) 0 ddrTop) R.THERM_STAT_DDR_LOST 1
    else s
  else match s.shutdownSite with
    | some i => s.thermShutdown i
    | none => s.thermState

/-- `THERMAL_SAMPLE`: a fresh value of every site. -/
def State.thermalSample (s : State) (raw : List Int) (t : Nat) : State :=
  if s.pwr.off then s
  else
    let s1 := ((s.at t).sitesRead raw).sitesShow
    (s1.put R.THERM_STAT_RESUME_OK (boolNat (s1.allResume && s1.get R.THERM_STAT_STATE = 4))).tempMon.thermAct

def execThermalSample (raw : List Int) (t : Nat) (s : State) : Host.Outcome State Fault Refusal := .next (s.thermalSample raw t)

/-! ## Suspect sites (R334) -/

/-- The classes of the self-test items (Table 17-3). -/
def fatalItems : Nat := 2 ^ 0 + 2 ^ 1 + 2 ^ 2 + 2 ^ 4 + 2 ^ 5 + 2 ^ 6 + 2 ^ 7
def degradingItems : Nat := 2 ^ 3 + 2 ^ 8 + 2 ^ 9 + 2 ^ 10 + 2 ^ 11 + 2 ^ 12 + 2 ^ 13

/-- FATAL and DEGRADED follow the self-test items; FATAL is told as it is set (R400). -/
def State.selfClass (s : State) : State :=
  let f := s.get R.SYS_SELFTEST_FAIL
  let s1 := s.put R.SYS_STAT_DEGRADED (boolNat (f &&& degradingItems ≠ 0))
  if f &&& fatalItems ≠ 0 && !s.on R.SYS_STAT_FATAL then (s1.put R.SYS_STAT_FATAL 1).raise E.SYS_FATAL else s1

/-- A self-test item fails. -/
def State.selfFail (s : State) (i : Nat) : State := (s.put ⟨R.SYS_SELFTEST_FAIL.reg, i, 1⟩ 1).selfClass

/-- The live self-test items THERM and PORT_H, the latter from 1 s after qualification on (R400). -/
def State.selfLive (s : State) : State :=
  let sus := (List.range 72).any s.siteSuspect
  let down := !s.portUp 0 && (s.pwr.started || !s.on R.SYS_STAT_STARTING) && s.sys.startAt + secClk ≤ s.now
  State.selfClass ((s.put ⟨R.SYS_SELFTEST_FAIL.reg, 9, 1⟩ (boolNat sus)).put ⟨R.SYS_SELFTEST_FAIL.reg, 10, 1⟩ (boolNat down))

def State.markSite (s : State) (i : Nat) (b : Bool) : State :=
  (s.put (R.THERM_SITEs_SUSPECT i) (boolNat b)).put ⟨(R.THERM_SUSPECT_SUMw_SITE (i / 32)).reg, i % 32, 1⟩ (boolNat b)

/-- `SITE_SUSPECT`: a site that the last value found due becomes suspect. -/
def execSiteSuspect (i : Fin 72) (s : State) : Host.Outcome State Fault Refusal :=
  if s.therm.dueSus.contains i.val && !s.siteSuspect i.val then
    let s1 := { s with therm := { s.therm with dueSus := setDel s.therm.dueSus i.val, dev := mapSet 0 s.therm.dev i.val 0 } }
    .next ((s1.markSite i.val true).raise E.THERM_SUSPECT).selfLive
  else .next s

/-- `SITE_UNSUSPECT`: a suspect site that has agreed for 10 s is suspect no longer. -/
def execSiteUnsuspect (i : Fin 72) (s : State) : Host.Outcome State Fault Refusal :=
  if s.therm.dueOk.contains i.val && s.siteSuspect i.val then
    let s1 := { s with therm := { s.therm with dueOk := setDel s.therm.dueOk i.val, agree := mapSet 0 s.therm.agree i.val 0 } }
    .next (s1.markSite i.val false).selfLive
  else .next s

/-- `THERM_THR_WRITE` (R336): a word of a group's thresholds, refused where the effective values lose their order. -/
def State.thrWrite (s : State) (g : Nat) (hi : Bool) (v : Nat) : State :=
  let s1 := if hi then (s.put (R.THERM_THRg_W1_SHUTDOWN g) v).put (R.THERM_THRg_W1_RESUME g) (v / 65536)
    else (s.put (R.THERM_THRg_W0_WARN g) v).put (R.THERM_THRg_W0_THROTTLE g) (v / 65536)
  if s1.thrResume g < s1.thrWarn g ∧ s1.thrWarn g ≤ s1.thrThrottle g ∧ s1.thrThrottle g < s1.thrShutdown g then s1
  else s.raise E.THERM_CFG_REFUSED

def execThermThrWrite (g : Fin 12) (hi : Bool) (v : Word) (s : State) : Host.Outcome State Fault Refusal :=
  if s.served 0x028 && !s.pwr.off then .next (s.thrWrite g.val hi v.toNat) else .next s

end Sys2Proof.Machine
end

