-- ==== Sys2Proof/Machine/Clocks.lean ====
section
/-! DEFINITION. PLLs, band tables and the row clock (chapter 5). -/
namespace Sys2Proof.Machine

/-! ## PLL registers: PLL 0 has a control register of its own kind (EN resets to 1) -/

def pllEn (i : Nat) : Fld := if i = 0 then R.PLL0_CTRL_EN else R.PLLi_CTRL_EN (i - 1)
def pllLockN (i : Nat) : Fld := if i = 0 then R.PLL0_CTRL_LOCK_N else R.PLLi_CTRL_LOCK_N (i - 1)
def pllLockW (i : Nat) : Fld := if i = 0 then R.PLL0_CTRL_LOCK_W else R.PLLi_CTRL_LOCK_W (i - 1)

/-- The phase-detector frequency of a reference: ×1, ×2, ÷2; 3 acts as 0 (R111, R114). -/
def pdHz (ref : Nat) : Nat := if ref = 1 then 50000000 else if ref = 2 then 12500000 else 25000000

/-- P = ceil(1.6 GHz × min(2·T, 5 µs) / 20) with T = max(TGT, 400 ns) (R117). -/
def State.rowP (s : State) : Nat := ceilDiv (min (2 * max (min 5000000 (s.act R.RDO_TRS_TGT_TGT)) 400000) 5000000 * 8) 100000

/-- The VCO frequency a PLL needs, in Hz (Table 5-1). -/
def State.vcoHz (s : State) (i : Nat) : Frac :=
  if i = 0 then ⟨4000000000, 1⟩
  else if i = 1 then ⟨s.get R.ROW_STAT_P * s.clk.target.num, max 1 s.clk.target.den⟩
  else if i = 2 then ⟨3200000000, 1⟩
  else if s.on (R.RP_STAT_RATE_ACT (i - 3)) then ⟨10312500000, 1⟩
  else ⟨12890625000, 1⟩

/-- The lowest-numbered valid entry whose range contains the frequency (R113). -/
def State.bandEntry (s : State) (i : Nat) (f : Frac) : Option Nat :=
  (List.range 8).find? (fun e =>
    s.on (R.BANDi_e_W1_VALID i e) &&
    decide (s.get (R.BANDi_e_W0_VCO_LO i e) * 1000000 * f.den ≤ f.num) &&
    decide (f.num ≤ s.get (R.BANDi_e_W0_VCO_HI i e) * 1000000 * f.den))

/-- The distance from a frequency to the nearest multiple of the phase-detector frequency, over the same denominator. -/
def spurDist (f : Frac) (pd : Nat) : Nat :=
  let m := f.num % (pd * f.den)
  min m (pd * f.den - m)

/-- The feedback ratio for a frequency: 12 integer and 20 fraction bits, the rest cut off (DESIGN CHOICE, log 130). -/
def ratioOf (f : Frac) (pd : Nat) : Nat := f.num * 2 ^ 20 / (pd * f.den)

/-- PLL_ROW's reference (R119): an integer ratio first, else the farthest from a multiple; ties ×2, ×1, ÷2. -/
def rowRef (f : Frac) : Nat :=
  match [1, 0, 2].find? (fun r => ratioOf f (pdHz r) % 2 ^ 20 = 0) with
  | some r => r
  | none =>
    let best := [1, 0, 2].foldl (fun m r => max m (spurDist f (pdHz r))) 0
    ([1, 0, 2].find? (fun r => spurDist f (pdHz r) = best)).getD 1

/-- RATIO and SPUR_NEAR of a PLL at its present target. -/
def State.pllShow (s : State) (i : Nat) : State :=
  let f := s.vcoHz i
  let pd := pdHz (s.get (R.PLLi_STAT_REF_ACT i))
  let r := ratioOf f pd
  (s.put (R.PLLi_RATIO_RATIO i) r).put (R.PLLi_STAT_SPUR_NEAR i)
    (boolNat (r % 2 ^ 20 ≠ 0 && decide (spurDist f pd ≤ 1000000 * f.den)))

/-- Start PLL i's VCO in the state `t`, which is `s` with the start's target; with no band for it the PLL is not started and `s` stands
but for NO_BAND (R113). A start or retune that finds a band clears NO_BAND (DESIGN CHOICE, log 150). -/
def State.pllTune (s : State) (i : Nat) (t : State) : State :=
  let f := t.vcoHz i
  match t.bandEntry i f with
  | none => (s.put (R.PLLi_STAT_NO_BAND i) 1).raise E.CLK_NO_BAND
  | some e =>
    let ref := if i = 1 then rowRef f else t.get (R.BANDi_e_W1_REF i e) % 3
    let t1 := (((t.put (R.PLLi_STAT_NO_BAND i) 0).put (R.PLLi_STAT_BAND i) e).put (R.PLLi_STAT_REF_ACT i) ref).put
      (R.PLLi_STAT_LOCK i) 0
    State.pllShow { t1 with clk := { t1.clk with started := setAdd t1.clk.started i
                                                 startAt := mapSet 0 t1.clk.startAt i t1.now } } i

/-- A PLL's output gate. -/
def State.gateOpen (s : State) (i : Nat) : Bool := s.clk.gates.contains i

def State.gateSet (s : State) (i : Nat) (on : Bool) : State :=
  { s with clk := { s.clk with gates := if on then setAdd s.clk.gates i else s.clk.gates.filter (· ≠ i) } }

/-- EN = 1: select the entry and start the VCO; the output gate stays closed until LOCK. With no entry a PLL that ran keeps what it had, its
gate with it (R113, R116). -/
def State.pllStart (s : State) (i : Nat) : State :=
  let s1 := s.put (pllEn i) 1
  s1.pllTune i (s1.gateSet i false)

/-- The supervisor's start of PLL_ROW: the fastest row slot that the settings allow; there is no N_TICK yet (R69). -/
def State.rowStart (s : State) : State :=
  let s0 := (((s.put R.RDO_STAT_N_TICK 0).put (R.PLLi_STAT_HOP 1) 0).put (R.PLLi_STAT_HOLD 1) 0).put R.ROW_STAT_HOLD_Q 0
  let s1 := State.put { s0 with clk := { s0.clk with hopping := false, timedOut := false } } (pllEn 1) 1
  let s2 := (s1.gateSet 1 false).put R.ROW_STAT_P s.rowP
  s1.pllTune 1 { s2 with clk := { s2.clk with target := ⟨20000000000000, s.trsEff⟩ } }

/-- Load a band table from the fuses (R112). -/
def State.loadBands (s : State) (i : Nat) : State :=
  (List.range 16).foldl (fun s k =>
    s.setReg ((R.BANDi_e_W0_VCO_LO i 0).reg + 4 * k) (BitVec.ofNat 32 (s.fuseNum (0x850 + 64 * i + 4 * k) 4))) s

/-- `RELOAD`: the tables of disabled PLLs are loaded from the fuses, on the host's behalf, so not before READY (R32). -/
def State.reload (s : State) : State :=
  (List.range 6).foldl (fun s i => if s.on (pllEn i) then s else s.loadBands i) s

def execReload (s : State) : Host.Outcome State Fault Refusal :=
  .next (if s.served 0x018 && s.on R.SYS_STAT_READY then s.reload else s)

/-- `PLL_START`: a write of PLLi_CTRL. EN = 0 of PLL_SYS or PLL_PH is refused whole; EN from 0 to 1 starts the PLL. Before
READY no host write reaches EN (R32). -/
def State.pllCtrl (s : State) (i v : Nat) : State :=
  if !s.served 0x018 || !s.on R.SYS_STAT_READY then s
  else if v % 2 = 0 && (i = 0 || i = 3) then s.raise E.CLK_REFUSED
  else
    let was := s.on (pllEn i)
    let s1 := (s.put (pllLockN i) (v / 16)).put (pllLockW i) (v / 256)
    if v % 2 = 1 then (if was then s1 else s1.pllStart i)
    else State.gateSet { s1 with clk := { s1.clk with started := s1.clk.started.filter (· ≠ i) } } i false |>.put (pllEn i) 0
      |>.put (R.PLLi_STAT_LOCK i) 0

def execPllStart (i : Fin 6) (v : Word) (s : State) : Host.Outcome State Fault Refusal := .next (s.pllCtrl i.val v.toNat)

/-- N consecutive reference cycles of 40 ns declare lock; values of LOCK_N above 8 act as 8 (R115). -/
def State.lockCycles (s : State) (i : Nat) : Nat := 16 * 2 ^ min 8 (s.get (pllLockN i))

/-- The lock detector's window ±W, in ps (R115). -/
def State.lockWindow (s : State) (i : Nat) : Nat := 100 * 2 ^ s.get (pllLockW i)

/-- Does PLL i's VCO run: CLK on, EN = 1, a band entry in use? -/
def State.pllRuns (s : State) (i : Nat) : Bool := s.dom dCLK && s.on (pllEn i) && s.clk.started.contains i

/-- `PLL_LOCK`: n consecutive cycles of PLL i since it began to acquire had an error of at most `err` ps. N of them within ±W declare
lock, and the output gate opens (R115, R116). A PLL of the start-up set that takes longer than 1 ms fails the self-test (R400). -/
def State.pllLock (s : State) (i n err : Nat) : State :=
  if !s.pllRuns i || n < s.lockCycles i || s.lockWindow i < err then s
  else
    let s1 := ((s.at (mapGet 0 s.clk.startAt i + 8 * n)).put (R.PLLi_STAT_LOCK i) 1).gateSet i true
    if i < 4 && s1.on R.SYS_STAT_STARTING && mapGet 0 s.clk.startAt i + msClk < s1.now then s1.selfFail 1 else s1

def execPllLock (m : LockSeen) (s : State) : Host.Outcome State Fault Refusal := .next (s.pllLock m.pll.val m.n m.err)

/-- `LOCK_LOST`: n consecutive cycles of a locked PLL with an error of at least `err` ps; 4 outside ±W lose lock. The output stays
enabled, and the detector begins anew (R115). -/
def State.lockLost (s : State) (i n err : Nat) : State :=
  if !s.on (R.PLLi_STAT_LOCK i) || n < 4 || err ≤ s.lockWindow i then s
  else
    let s1 := (s.put (R.PLLi_STAT_LOCK i) 0).raise E.CLK_LOCK_LOST
    { s1 with clk := { s1.clk with startAt := mapSet 0 s1.clk.startAt i s1.now } }

def execLockLost (m : LockSeen) (s : State) : Host.Outcome State Fault Refusal := .next (s.lockLost m.pll.val m.n m.err)

/-! ## The row clock at a tick boundary (R117–R120) -/

/-- Is f within 1/512 of g? -/
def within512 (f g : Frac) : Bool :=
  let a := f.num * g.den
  let b := g.num * f.den
  g.den ≠ 0 && decide ((if a < b then b - a else a - b) * 512 ≤ b)

/-- Retune PLL_ROW to a request with the P it asks for; lock is awaited again. With no band it keeps what it had (R113). -/
def State.rowRetune (s : State) (f : Frac) : State :=
  let s1 := s.put R.ROW_STAT_P s.rowP
  s.pllTune 1 { s1 with clk := { s1.clk with target := f } }

/-- Follow a request without a retune: a small step of the feedback ratio. -/
def State.rowFollow (s : State) (f : Frac) : State :=
  State.pllShow { s with clk := { s.clk with target := f } } 1

/-- The hold clock's divisor for a request: Q = ceil(4,000 MHz / f_req). -/
def holdQ (f : Frac) : Nat := if f.num = 0 then 0 else ceilDiv (4000000000 * f.den) f.num

/-- `HOP_START`: the row domain moves to the hold clock and PLL_ROW is retuned. -/
def State.hopStart (s : State) (f : Frac) : State :=
  let s1 := { s with clk := { s.clk with hopping := true, hopStart := s.now, timedOut := false } }
  (((s1.put (R.PLLi_STAT_HOP 1) 1).put (R.PLLi_STAT_HOLD 1) 1).put R.ROW_STAT_HOLD_Q (holdQ f)).rowRetune f

/-- `HOP_END`: the multiplexer switches back, together with the step due at the boundary. -/
def State.hopEnd (s : State) (f : Frac) : State :=
  let s1 := State.rowFollow { s with clk := { s.clk with hopping := false, timedOut := false } } f
  (((s1.put (R.PLLi_STAT_HOP 1) 0).put (R.PLLi_STAT_HOLD 1) 0).put R.ROW_STAT_HOLD_Q 0).raise E.CLK_HOP

/-- The present unit-clock frequency: PLL_ROW's, or the hold clock's during a hop. -/
def State.fuHz (s : State) : Frac :=
  if s.clk.hopping then ⟨4000000000, max 1 (s.get R.ROW_STAT_HOLD_Q)⟩ else s.clk.target

/-- Does the row domain's clock run: from the hold clock in a hop, else through PLL_ROW's output gate (R116, R119)? -/
def State.rowRuns (s : State) : Bool := s.dom dCLK && (s.clk.hopping || s.gateOpen 1)

/-- ROW_FU.HZ: the present unit-clock frequency; 0 while the clock does not run. -/
def State.fuShown (s : State) : Nat := if s.rowRuns then s.fuHz.num / max 1 s.fuHz.den else 0

/-- A later boundary of a hop: Q follows. A request that the present target answers ends the hop once PLL_ROW has lock; without lock
PLL_ROW is retuned afresh (R119, R120). -/
def State.hopBoundary (s : State) (f : Frac) : State :=
  let sq := s.put R.ROW_STAT_HOLD_Q (holdQ f)
  let same := s.rowP = s.get R.ROW_STAT_P
  if same && within512 f s.clk.target && s.on (R.PLLi_STAT_LOCK 1) then sq.hopEnd f
  else sq.rowRetune f

/-- The boundary's request f_req: a step, a hop's start, its progress or its end (R118, R119, R120). A PLL_ROW with EN = 0 stays off:
only the hold clock follows (R32). -/
def State.rowBoundary (s : State) (f : Frac) : State :=
  if !s.on (pllEn 1) then (if s.clk.hopping then s.put R.ROW_STAT_HOLD_Q (holdQ f) else s)
  else if s.clk.hopping then s.hopBoundary f
  else if s.rowP = s.get R.ROW_STAT_P && within512 f s.clk.target then s.rowFollow f
  else s.hopStart f

/-- `HOP_TIMEOUT`: the hop has not locked within HOP_TO × 100 µs (0 acts as 1). A PLL_ROW that found no band and so kept the lock it had does
not time out (DESIGN CHOICE, log 151). -/
def State.hopTimeout (s : State) : State :=
  if s.clk.hopping && !s.clk.timedOut && !s.on (R.PLLi_STAT_LOCK 1) then
    let s1 := s.at (s.clk.hopStart + max 1 (s.get R.CLK_CTRL_HOP_TO) * 100 * usClk)
    State.raise { s1 with clk := { s1.clk with timedOut := true } } E.CLK_HOP_TIMEOUT
  else s

def execHopTimeout (s : State) : Host.Outcome State Fault Refusal := .next s.hopTimeout

end Sys2Proof.Machine
end

