-- ==== Sys2Proof/Machine/Reset.lean ====
section
/-! DEFINITION. What a warm and a cold reset leave (Table 17-2, R395, R411). -/
namespace Sys2Proof.Machine

/-! ## Register values -/

/-- The bits of a word that a host can change. -/
def RegRow.writable (r : RegRow) : Nat := r.rw ||| r.w1c ||| r.wo ||| r.rws

/-- Keep some bits of a stored word; the rest takes its reset value. -/
def keepBits (a : Nat) (v : Word) (mask : Nat) : Word :=
  BitVec.ofNat 32 ((v.toNat &&& mask) ||| maskSub (regReset a).toNat mask)

/-- A table of registers with each word cut to the bits that a function names. -/
def keepMasked (f : Nat → Nat) (m : SMap Word) : SMap Word :=
  (m.map (fun (p : Nat × Word) => (p.1, keepBits p.1 p.2 (f p.1)))).filter (fun p => p.2 ≠ regReset p.1)

/-- The status bits of a register: those no access code lets the host change. -/
def roBits (a : Nat) : Nat := match regRow a with | none => 0 | some r => maskSub 0xFFFFFFFF r.writable

def rwsBits (a : Nat) : Nat := match regRow a with | none => 0 | some r => r.rws

/-- The band tables and PLLi_CTRL, which a warm reset keeps. -/
def pllReg (a : Nat) : Bool := (0x18100 ≤ a && a < 0x18160) || (0x18400 ≤ a && a < 0x18580)

/-- The status bits that a warm reset keeps (Table 17-2; log 149): the loss and error counters; TICKNO and the watermark; the thermal state with
the cap and the clock steps that follow from it; PLLs; trims, BAD marks and the calibration set in force; what the domains, ports, pack,
memory, lamphouse and input pins show, none of which is switched; the identity of the page and of the module. -/
def warmStatus (page off : Nat) : Nat :=
  let all := 0xFFFFFFFF
  let some_ (b : Bool) := if b then all else 0
  if page = 0x000 || page = 0x018 || page = 0x028 || page = 0x029 then all
  else if page = 0x016 then (if 0x200 ≤ off && off % 0x20 = 0x14 then 0xFF0000 else some_ (off = 0x044 || off = 0x04C))
  else if page = 0x017 then some_ (off = 0x068 || off = 0x070 || off = 0x074 || off = 0x084 || off = 0x088)
  else if page = 0x019 then some_ (off = 0x044 || off = 0x04C)
  else if page = 0x01B then some_ (off = 0x044 || (0x820 ≤ off && off < 0xA00 && off % 0x20 < 0x14) || 0xA00 ≤ off)
  else if page = 0x01F then some_ (off = 0x044 || off = 0x054 || off = 0x060 || off = 0x064)
  else if page = 0x020 then some_ (off = 0x040 || off = 0x044 || (0x100 ≤ off && off % 0x20 = 0x14))
  else if page = 0x021 then (if 0x800 ≤ off && off % 0x40 = 0x04 then 0xFF0000 else 0)
  else if page = 0x023 then some_ (0x080 ≤ off && off < 0x090)
  else if 0x024 ≤ page && page ≤ 0x026 then some_ (off ≠ 0x04C)
  else if page = 0x027 then some_ (off = 0x044 || off = 0x07C || (0x080 ≤ off && off < 0x0A0) || off = 0x0B0 || (0x0C0 ≤ off && off < 0x120))
  else if page = 0x02A then some_ (off < 0x050 || 0x100 ≤ off)
  else if page = 0x02B then some_ (off = 0x044)
  else if page = 0x02C then some_ (off ≠ 0x050 && off ≠ 0x070 && off ≠ 0x074)
  else if 0x200 ≤ page then some_ (0x060 ≤ off && off < 0x074)
  else 0

/-- The bits of a register that a warm reset keeps: RWS bits, PLL settings, what Table 17-2 lists of the status. The header's own bits return to
reset. -/
def warmMask (a : Nat) : Nat :=
  if a % 4096 < 0x040 then 0
  else if pllReg a then 0xFFFFFFFF
  else rwsBits a ||| (roBits a &&& warmStatus (a / 4096) (a % 4096))

/-- The bits of a register that a cold reset keeps: the thermal state with the cap and the clock steps that follow from it, the power path's
status, TICKNO, watermark. -/
def coldMask (a : Nat) : Nat :=
  let page := a / 4096
  if a % 4096 < 0x040 then 0
  else if page = 0x028 || page = 0x029 then roBits a
  else if a = R.TICK_CAP_THERM_HZ.reg || a = R.ENGG_CLK_THERM_STEP.reg then roBits a
  else if a = R.TICK_NO_LO_TICKNO.reg || a = R.TICK_NO_HI_TICKNO.reg || a = R.RING_WM_LO_TICKNO.reg || a = R.RING_WM_HI_TICKNO.reg
  then 0xFFFFFFFF
  else 0

/-! ## The resets on the state -/

/-- Work in progress ends: the calibration run is aborted, the job stops, lines and frames are given up, a store command is cut short
(R398). -/
def State.workStop (s : State) : State := s.calAbort.jobEndNow.sensorStop.satDiscard.nvsCut.compactCut

/-- Values that follow from registers at their reset values. -/
def State.settingsShow (s : State) : State := s.thermTake.capsShow.kcapShow.usedShow.capActShow

/-- What a warm reset leaves of the tables and units: everything a host can write returns to reset but RWS fields; memories, trims, the
set in force, TICKNO, PLLs and counters stay, and of an engine the line whose invocation last ended with END. Packets queued on port H no
longer move a ring's SENT. -/
def State.warmTables (s : State) : State :=
  { s with
    regs := keepMasked warmMask s.regs, force := [], frozen := [], nextPend := [], commitPend := []
    tick := { tickno := s.tick.tickno, firstTick := s.tick.firstTick }, tmr := {}, exp := {}, rdo := {}
    lines := [], job := {}, dev := {}, dma := {}, chain := { ctAt := s.now }
    memctl := { s.memctl with scrubAt := 0 }
    eng := (s.eng.map (fun (p : Nat × Engine) => (p.1, ({ lastTick := p.2.lastTick } : Engine)))).filter (fun p => p.2 ≠ {})
    port := s.port.map (fun (p : Nat × Port) => (p.1, { p.2 with tx := p.2.tx.map (fun (k : TxPkt) => { k with ring := none }) }))
    rec_ := { seq0 := s.rec_.seq0, seq1 := s.rec_.seq1, wm := s.rec_.wm }
    nvs := { s.nvs with compacting := false, compactJob := false }
    cal := { s.cal with next := none, trimRes := [], tph := 0, phRes := 0, trims := [] } }

/-- The clock steps in force are the thermal unit's: the host's settings are gone (R147). -/
def State.stepsShow (s : State) : State := s.put R.ENGG_CLK_ACT_STEP (s.get R.ENGG_CLK_THERM_STEP)

/-- The self-test items that a warm reset evaluates again fall; a domain that missed regulation is tried again (R400). DDR4's training and test, the
loft's test and the converters' start-up pass are not made again. -/
def State.testClear (s : State) : State :=
  (((State.put { s with pwr := { s.pwr with failed := [] } } R.SYS_SELFTEST_FAIL
    (s.get R.SYS_SELFTEST_FAIL &&& (2 ^ 4 + 2 ^ 5 + 2 ^ 6 + 2 ^ 8))).put R.SYS_STAT_FATAL 0).put R.SYS_STAT_DEGRADED 0).put R.SYS_STAT_READY 0

/-- A warm reset on the state. -/
def State.warmClear (s : State) : State := s.workStop.warmTables.settingsShow.stepsShow.testClear

/-- The cage's condition is all that a cold reset leaves of a port. -/
def keepPort (p : Nat × Port) : Nat × Port := (p.1, { absent := p.2.absent, tripped := p.2.tripped })

/-- What a cold reset leaves of the tables and units: only TICKNO, the watermark, the thermal state, the power path and the negative
store. -/
def State.coldTables (s : State) : State :=
  { s with
    regs := keepMasked coldMask s.regs, force := [], frozen := [], nextPend := [], commitPend := []
    mem := memClear s.mem 0 nvsBase, poison := []
    tick := { tickno := s.tick.tickno, firstTick := s.tick.firstTick }, tmr := {}, exp := {}, rdo := {}, clk := {}
    lines := [], eng := [], job := {}, dev := {}, dma := {}, memctl := {}, chain := { ctAt := s.now }, evtQ := []
    rec_ := { wm := s.rec_.wm }, port := (s.port.map keepPort).filter (fun p => p.2 ≠ {}), cal := {}
    lamp := {}, mb := {}, sys := {}
    nvs := { s.nvs with compacting := false, compactJob := false } }

/-- MB_STAT.ADDR from the straps, as a cold reset samples them (R367). -/
def State.sampleAddr (s : State) : State := s.put R.MB_STAT_ADDR (0x58 + s.pins.mbAddr)

/-- A cold reset on the state, once every domain but AON is off. -/
def State.coldClear (s : State) : State := ((s.workStop.domsOffBut [dAON]).coldTables).sampleAddr.thermTake.stepsShow

end Sys2Proof.Machine
end

