-- ==== Sys2Proof/Machine/Power.lean ====
section
/-! DEFINITION. The power path, power states and domains, the hold-up pack and its charger (chapter 15). -/
namespace Sys2Proof.Machine

/-! ## The source type -/

/-- SRC_ID is sampled (R346). -/
def State.sampleSrc (s : State) : State :=
  ((s.put R.PWR_STAT_SRC s.pwr.srcPin).put R.PWR_STAT_SRC_CHANGED 0).pwrShow

/-- SRC_ID by its resistance to PWR_RTN in Ω (Table 19-3): press bus, service adapter, limited source, open. -/
def srcOfOhms (ohms : Nat) : Nat :=
  if ohms ≤ 1000 then 0 else if 9100 ≤ ohms && ohms ≤ 11000 then 1 else if 43000 ≤ ohms && ohms ≤ 51000 then 2 else 3

/-- `SRC_CHANGED`: a change of the pin between samples is ignored until the next sample, and marked. -/
def execSrcChanged (ohms : Nat) (s : State) : Host.Outcome State Fault Refusal :=
  let s1 := { s with pwr := { s.pwr with srcPin := srcOfOhms ohms } }
  if s.pwr.off || srcOfOhms ohms = s.pwr.srcPin then .next s1
  else .next ((s1.put R.PWR_STAT_SRC_CHANGED 1).raise E.PWR_SRC_CHANGED)

/-! ## Domains (R351, R352) -/

/-- The prerequisites of a domain (Table 15-3). -/
def prereqs (d : Nat) : List Nat :=
  if d = dAON then []
  else if d = dCLK || d = dDDR || d = dLAMP then [dAON]
  else if d = dARRAY then [dCLK, dCONVN, dCONVS]
  else if 6 ≤ d && d < 18 then [dCLK, dLOFT]
  else if d = dLOFT then [dCLK, dDDR]
  else [dCLK]

/-- Does a domain need another, directly or through a third (Table 15-3)? -/
def needs (e d : Nat) : Bool :=
  (prereqs e).contains d || (prereqs e).any (fun f => (prereqs f).contains d || (prereqs f).any (fun g => (prereqs g).contains d))

/-- Is RUN allowed from IDLE: admissible, READY, no fatal fault (R350, R393, R400)? -/
def State.runAllowed (s : State) : Bool := s.runAdmissible && s.on R.SYS_STAT_READY && !s.on R.SYS_STAT_FATAL

/-- The state that PWR_CTRL.REQ asks for: 1 RUN, 2 STANDBY, others IDLE. -/
def State.reqState (s : State) : Nat :=
  if s.get R.PWR_CTRL_REQ = 1 then pRUN else if s.get R.PWR_CTRL_REQ = 2 then pSTANDBY else pIDLE

/-- Should a domain be on now (Table 15-3)? ARRAY_DRV comes on in IDLE only while a request for RUN waits for it. -/
def State.domWanted (s : State) (d : Nat) : Bool :=
  s.pwr.started &&
    (if 6 ≤ d && d < 18 then bit (s.get R.ENGG_CTRL_COURSE_PWR) (d - 6)
     else if 21 ≤ d && d < 24 then s.on (R.RP_CTRL_EN (d - 21))
     else if d = dLAMP then s.on R.LAMP_CTRL_PWR && s.runAdmissible
     else if d = dCONVN || d = dCONVS then s.inRun || s.runAdmissible
     else if d = dARRAY then s.inRun || (s.isIdle && s.pwr.held && s.reqState = pRUN && s.runAllowed)
     else true)

/-- Set a lane's taps in use; MAIN is what is left of 64 (R278). -/
def State.setTaps (s : State) (p k pre post : Nat) : State :=
  ((s.put (R.RP_LANEk_TAPS_PRE_ACT p k) pre).put (R.RP_LANEk_TAPS_POST_ACT p k) post).put (R.RP_LANEk_TAPS_MAIN_ACT p k) (64 - pre - post)

/-- The preset of a lane (R278). -/
def State.presetPre (s : State) (p k : Nat) : Nat := min 8 (s.get (R.RP_LANEk_TAPS_PRE p k))
def State.presetPost (s : State) (p k : Nat) : Nat := min 20 (s.get (R.RP_LANEk_TAPS_POST p k))

/-- A lane begins to train: it hunts for alignment, from the preset; in a retrain of R284 (`again`) from its last trained taps. -/
def State.laneStart (s : State) (again : Bool) (p k : Nat) : State :=
  let x := s.portOf p
  let old := mapGet {} x.lanes k
  let l : Lane := { trained := old.trained, tseq := old.tseq }
  let s1 := (s.setPort p { x with lanes := mapSet {} x.lanes k l }).put (R.RP_LANEk_STAT_STATE p k) 1
  match (if again then old.trained else none) with
  | some (a, b) => s1.setTaps p k a b
  | none => s1.setTaps p k (s.presetPre p k) (s.presetPost p k)

/-- The lane rate of a port; a running PLL of the port starts again at the new frequency (Table 5-1). -/
def State.setRate (s : State) (p r : Nat) : State :=
  if s.get (R.RP_STAT_RATE_ACT p) = r then s
  else
    let s1 := s.put (R.RP_STAT_RATE_ACT p) r
    if s1.on (pllEn (3 + p)) then s1.pllStart (3 + p) else s1

/-- A port starts to train, with RP_TRAIN as it stands now, or stays DOWN with no cage module or a tripped supply (R273, R278,
R310, R423). -/
def State.portTrain (s : State) (again : Bool) (p : Nat) : State :=
  let x := s.portOf p
  if x.absent || x.tripped then s.setPortState p rpDOWN
  else
    let s1 := s.setPort p { x with farOffer := 0, trainAt := s.now }
    let s2 := s1.setAct (R.RP_TRAIN_FOM_MIN p).reg (s1.reg (R.RP_TRAIN_FOM_MIN p).reg)
    let s3 := if s2.get (R.RP_CTRL_RATE p) ≤ 1 then s2.setRate p (s2.get (R.RP_CTRL_RATE p)) else s2
    (List.range 8).foldl (fun s k => s.laneStart again p k) (s3.setPortState p rpTRAINING)

/-- A port starts to train from the presets. -/
def State.portStart (s : State) (p : Nat) : State := s.portTrain false p

/-- The tick-phase compensation when the supervisor starts, in 10 ps: the one that a TIMING run has left, else the factory's (Table 13-1;
PRESUMED, log 152: R329 does not say what its fuse is for). -/
def State.tickPhase (s : State) : Int := if s.cal.tickPh ≠ 0 then s.cal.tickPh else toSigned 32 (s.fuseNum 0xA98 4)

/-- Does the fuse CRC hold (R314)? -/
def State.fuseOk (s : State) : Bool := crc32 ((List.range 0x3FC).map (fun i => s.fuseByte (0x800 + i))) = s.fuseNum 0xBFC 4

/-- The start-up converter pass begins where it is still to come; where READY came without it, with the first entry to RUN (R393). -/
def State.passFirst (s : State) : State := if s.on R.CAL_STAT_START_PASS_DONE then s else s.put R.CAL_STAT_PASS_ACTIVE 1

/-- What a domain's coming on starts (Table 17-1; R399 for a wake). PLL_SYS starts ahead of the supervisor, so its own band
table is loaded with it (DEDUCED, log 75). The supervisor enables the other five PLLs (R126; DEDUCED, log 131). -/
def State.domStarted (s : State) (d : Nat) : State :=
  if d = dCLK then (s.chainRun.loadBands 0).pllStart 0
  else if d = dSUPV then
    let s1 := (List.range 6).foldl State.loadBands s
    let s2 := s1.put R.CAL_STAT_FUSE_BAD (boolNat (!s1.fuseOk))
    let s3 := (s2.put64 R.NVS_SERIAL_LO_SERIAL R.NVS_SERIAL_HI_SERIAL s2.serial)
    let s4 := { s3 with cal := { s3.cal with tickPh := s3.tickPhase, driftAt := s3.now } }
    [2, 3, 4, 5].foldl State.pllStart s4.rowStart
  else if d = dNVS then s.put R.NVS_STAT_REPLAYING 1
  else if d = dCONVS then (if s.on R.SYS_STAT_READY then s else s.passFirst)
  else if d = dARRAY then s.sensorShow
  else if 21 ≤ d && d < 24 then s.portStart (d - 21)
  else if d = dLAMP then State.put { s with lamp := { s.lamp with onAt := s.now } } R.LAMP_STAT_STATE 1
  else s

/-- ENC_5V is on whenever CLK is on (R427). -/
def State.enc5V (s : State) : Bool := s.dom dCLK

/-- ResetL and LPMode of a cage are asserted while the port's domain is off (R423). -/
def State.cageHeld (s : State) (p : Nat) : Bool := !s.dom (dPORT p)

/-- Domains asked for anew are tried again after a missed regulation. -/
def State.domRetry (s : State) (ds : List Nat) : State :=
  { s with pwr := { s.pwr with failed := s.pwr.failed.filter (fun d => !ds.contains d) } }

/-- The domain whose switch-on is next: the first wanted one in the order of R352 whose prerequisites are on. -/
def State.domNext (s : State) : Option Nat :=
  domOrder.find? (fun d => s.domWanted d && !s.dom d && !s.pwr.failed.contains d && (prereqs d).all s.dom)

/-- `DOMAIN_ON`: the next domain begins to switch on and reaches its regulation window. With CLK, the pages' headers are served again, and
what stands unmasked in them asserts anew (R403, R404). -/
def State.domainOn (s : State) (t : Nat) : State :=
  match s.domNext with
  | none => s.at t
  | some d =>
    let s1 := s.domBegin t
    let s2 := (s1.put ⟨R.PWR_DOM_STAT_ON.reg, d, 1⟩ 1).domStarted d
    if d = dCLK then s1.settleFrom s2 else s2

def execDomainOn (t : Nat) (s : State) : Host.Outcome State Fault Refusal :=
  .next (if s.pwr.off then s else s.domainOn t)

/-- A domain that missed its regulation window is not tried again, and its self-test item is set (Table 17-3: item 2 for a core domain,
fatal; item 3 for a course, port or LAMP). -/
def State.domFailed (s : State) (d : Nat) : State :=
  let soft := (6 ≤ d && d < 18) || 21 ≤ d
  State.selfFail { s with pwr := { s.pwr with failed := setAdd s.pwr.failed d } } (if soft then 3 else 2)

/-- `DOMAIN_REG_TIMEOUT`: a domain misses its regulation window (R352). The next one to switch on has begun and is off again 2 ms later: its bit
stays 0. One that is on is switched off with the domains that need it. -/
def State.domRegTimeout (s : State) (d : Nat) : State :=
  if d = dAON then s
  else if s.dom d then (s.domsOff (domOrder.reverse.filter (fun e => e = d || needs e d))).domFailed d
  else if s.domNext = some d then
    let s1 := s.domBegin s.now
    (s1.at (s1.now + 2 * msClk)).domFailed d
  else s

/-! ## OFF, RUN and STANDBY -/

/-- The module goes OFF: everything but the negative store's contents is lost (Table 17-2). The outside (pins, the cages, what has left the
ports) is not the module's. -/
def State.goOff (s : State) : State :=
  { State.reset with
    pending := s.pending, now := s.now, freeIdx := s.freeIdx, fuse := s.fuse, wire := s.wire
    mem := memClear s.mem 0 nvsBase
    nvs := { s.nvs with job := none, compacting := false, compactJob := false, waiting := [], life := s.nvs.saved, numbered := false }
    port := (s.port.map keepPort).filter (fun p => p.2 ≠ {})
    pwr := { off := true, srcPin := s.pwr.srcPin }
    pins := { mbAddr := s.pins.mbAddr } }

/-- RUN is left: no tick is derived any more, the sensor is off. -/
def State.leaveRun (s : State) : State :=
  s.accrue.sensorStop.domOff dARRAY

/-- Does a store command run? -/
def State.storeBusy (s : State) : Bool := s.nvs.job.isSome

/-- Is a move to STANDBY allowed by request (Table 15-2)? -/
def State.standbyAllowed (s : State) : Bool := !s.jobRunning && s.cal.run = 0 && !s.storeBusy

/-- The start-up sequence begins: nothing is ready, domains switch on again; `last` is LAST_RESET's code. What the self-test has found
stands over a wake, code 4 (R400). A request for RUN that PWR_CTRL still holds is made once it is allowed (R350). -/
def State.beginStart (s : State) (last : Nat) : State :=
  let s1 := (s.setPower pIDLE).put R.SYS_STAT_STARTING 1
  let s0 := if last = 4 then s1 else (s1.put R.SYS_STAT_FATAL 0).put R.SYS_STAT_DEGRADED 0
  let s2 := (s0.put R.SYS_STAT_READY 0).put R.SYS_STAT_LAST_RESET last
  { s2 with
    pwr := { s2.pwr with started := true, wake := false, hostStandby := false, failed := [], lastOn := none, held := s2.reqState = pRUN }
    sys := { s2.sys with startAt := s2.now, resetHeld := 0, wakeAs := 0
                         warmEnd := if last = 2 || last = 3 then some (s2.now + 30 * msClk) else none } }

/-- A reset that waited is applied (R398); the next start is its own. -/
def State.heldApply (s : State) : State :=
  if s.sys.resetHeld = 0 then s
  else if s.sys.resetHeld = 3 then
    let s1 := s.coldClear.sampleSrc
    { s1 with sys := { s1.sys with wakeAs := 1 } }
  else
    let wdog := s.sys.resetHeld = 2
    let s1 := s.warmClear.bump (if wdog then R.SYS_RESET_CNT_WDOG else R.SYS_RESET_CNT_WARM)
    { s1 with sys := { s1.sys with resetHeld := 0, wakeAs := if s.sys.wakeAs = 1 then 1 else if wdog then 3 else 2 } }

/-- A wake from STANDBY or the hand-back: the sequence of R393 from the CLK step (R399); a reset that waited is applied (R398). -/
def State.wakeUp (s : State) : State :=
  let s1 := s.accrue.heldApply
  s1.beginStart (if s1.sys.wakeAs = 0 then 4 else s1.sys.wakeAs)

/-- Is the in-line pipeline flushed (R201, R101): every exposed line has passed its three steps, and what the lines left for the
Developer and the record writer has been taken? (DEDUCED, log 76.) -/
def State.pipeFlushed (s : State) : Bool :=
  s.lines.all (fun l => !l.exposed || 3 ≤ l.stage) && s.rec_.work.isEmpty && s.rec_.reports.isEmpty && s.dev.input.isEmpty

/-- Move towards the requested state where the move is allowed; none where it is not. RUN is reached once ARRAY_DRV is on. RUN is
left when the in-line pipeline is flushed (log 76); in IDLE a request for RUN taken back leaves ARRAY_DRV off. -/
def State.tryMove (s : State) : Option State :=
  let want := s.reqState
  if want = s.power then some (if s.isIdle then s.domOff dARRAY else s)
  else if s.power = pIDLE && want = pRUN then
    if !s.runAllowed then none
    else if s.dom dARRAY then some (s.accrue.setPower pRUN).passFirst else some s
  else if s.power = pRUN && want = pIDLE then
    if s.jobRunning then none
    else if s.pipeFlushed then some (s.leaveRun.setPower pIDLE).pwrShow else some s
  else if (s.power = pRUN || s.power = pIDLE) && want = pSTANDBY then
    if s.standbyAllowed then
      if s.inRun && !s.pipeFlushed then some s else
      let s1 := (if s.inRun then s.leaveRun else s).toStandby
      some { s1 with pwr := { s1.pwr with hostStandby := true, started := false } }
    else none
  else if s.power = pSTANDBY && !s.pwr.fromThermal then
    if s.pwr.qualified then some s.wakeUp else none
  else none

/-- In IDLE, ARRAY_DRV is on only while a request for RUN waits for it (Table 15-3). -/
def State.arrayRest (s : State) : State := if s.isIdle && s.reqState ≠ pRUN then s.domOff dARRAY else s

/-- `POWER_REQUEST`: a write of PWR_CTRL. A request that is not allowed is held and counted once (R350). -/
def State.powerRequest (s : State) (v : Nat) : State :=
  if s.pwr.off then s
  else
    let s1 := (s.put R.PWR_CTRL_REQ v).put R.PWR_CTRL_AUTO_WAKE (v / 16)
    match s1.tryMove with
    | some s2 => { s2 with pwr := { s2.pwr with held := s2.power ≠ s2.reqState } }
    | none => State.raise { s1.arrayRest with pwr := { s1.arrayRest.pwr with held := true } } E.PWR_STATE_REFUSED

/-- `POWER_TRANSITION`: a request that waits is made once its conditions hold. -/
def State.powerTransition (s : State) : State :=
  if s.pwr.off || !s.pwr.held then s
  else match s.tryMove with
    | some s2 => { s2 with pwr := { s2.pwr with held := s2.power ≠ s2.reqState } }
    | none => s

/-! ## The source (R346, R348, R363) -/

/-- `INPUT_RETURN`: PWR_IN is back in range and the 100 ms count starts. -/
def State.inputReturn (s : State) (t : Nat) : State :=
  if s.pwr.off || s.pwr.qualified || s.pwr.qualSince.isSome then s
  else
    let s1 := s.at t
    State.put { s1 with pwr := { s1.pwr with qualSince := some s1.now } } R.PWR_STAT_QUALIFYING 1

def execInputReturn (t : Nat) (s : State) : Host.Outcome State Fault Refusal := .next (s.inputReturn t)

/-- `INPUT_EXCURSION`: the range is left while the count runs, so it restarts when the range is entered again. -/
def State.inputExcursion (s : State) (t : Nat) : State :=
  if s.pwr.off || s.pwr.qualSince.isNone then s
  else
    let s1 := s.at t
    (State.put { s1 with pwr := { s1.pwr with qualSince := none } } R.PWR_STAT_QUALIFYING 0).raise E.PWR_QUAL_RESTART

def execInputExcursion (t : Nat) (s : State) : Host.Outcome State Fault Refusal := .next (s.inputExcursion t)

/-- Charging starts from DETECT where it is enabled, the source is qualified, the pack is fit and has no fault, and nothing supplements
(R353, R358). -/
def State.chargeStart (s : State) : State :=
  if s.on R.PWR_CHG_CTRL_EN && s.packFit && s.get R.PWR_CHG_STAT_FAULT = 0 && s.pwr.qualified && s.power ≠ pHOLDUP &&
    !s.on R.PWR_STAT_SUPPLEMENT
  then s.put R.PWR_CHG_STAT_PHASE 1 else s

/-- Charging starts where the charger is OFF (R358). -/
def State.chargeGo (s : State) : State := if s.get R.PWR_CHG_STAT_PHASE = 0 then s.chargeStart else s

/-- Charging stops; a pack with a fault stays in FAULT. -/
def State.chargeStop (s : State) : State :=
  (s.packSetI 0).put R.PWR_CHG_STAT_PHASE (if s.get R.PWR_CHG_STAT_FAULT = 0 then 0 else 6)

/-- Supplement ends without a usable pack: the input follows the draw, and OVERLOAD is set (R353). -/
def State.suppLost (s : State) : State :=
  if s.on R.PWR_STAT_SUPPLEMENT && !s.packUsable then ((s.packSetI 0).put R.PWR_STAT_SUPPLEMENT 0).raise E.PWR_OVERLOAD else s

/-- What follows from the pack's readings: the flags of the PWR page, the end of supplement, the end of charging for a pack that is no longer fit
and its start for one that is (R353, R357, R358). -/
def State.packShow (s : State) : State :=
  let s1 := s.pwrShow.suppLost
  if !s1.packFit && 1 ≤ s1.get R.PWR_CHG_STAT_PHASE && s1.get R.PWR_CHG_STAT_PHASE ≤ 5 then s1.chargeStop else s1.chargeGo

/-- A current that no command gives, out of the pack (R362, log 92). -/
def State.packDraw (s : State) : State :=
  let (i, s1) := s.fresh
  s1.packSetI (-((Config.freeNat i % 32769 : Nat) : Int))

/-- `SOURCE_QUALIFIED`: 100 ms in range. At power-on the source type is sampled and the start-up sequence goes on; a wake that
waited is made. -/
def State.sourceQualified (s : State) (t : Nat) : State :=
  match s.pwr.qualSince with
  | none => s
  | some u =>
    let s1 := (s.at t).at (u + 100 * msClk)
    let s2 := State.put { s1 with pwr := { s1.pwr with qualSince := none, qualified := true } } R.PWR_STAT_QUALIFYING 0
    if s2.on R.SYS_STAT_STARTING && !s2.pwr.started && s2.power = pIDLE then
      State.chargeGo (State.sampleSrc { s2 with pwr := { s2.pwr with started := true }, sys := { s2.sys with startAt := s2.now } })
    else if s2.power = pSTANDBY && s2.pwr.wake && !s2.pwr.fromThermal then s2.wakeUp
    else s2.chargeGo

def execSourceQualified (t : Nat) (s : State) : Host.Outcome State Fault Refusal := .next (s.sourceQualified t)

/-! ## Hold-up (R362–R364) -/

/-- HOLD-UP is entered: DRAIN; no further tick is admitted or derived, the job ends at the last tick edge, three flush steps
are due; a store command, a calibration run and the measurements of a pass in progress end. Cause 1 INPUT_LOSS, 2 OVERLOAD. -/
def State.holdUp (s : State) (cause : Nat) : State :=
  let s1 := s.accrue.calAbort.calDiscard.jobEndNow.tickHalt.slotsEndNow.nvsHold
  let s2 := ((s1.setPower pHOLDUP).put R.PWR_STAT_HOLD_PHASE 1).put R.PWR_STAT_HOLD_CAUSE cause
  let s3 := (((s2.chargeStop).put R.PWR_STAT_SUPPLEMENT 0).put R.PWR_STAT_ON_PACK 1).packDraw
  let l := { s3.nvs.life with holdups := s3.nvs.life.holdups + 1 }
  let s4 := { s3 with
    nvs := { s3.nvs with life := l }
    tick := { s3.tick with flushLeft := 3 }
    pwr := { s3.pwr with started := false, held := false, wake := false, flushEnded := false, qualSince := none
                         fromStandby := s.power = pSTANDBY
                         qualified := cause = 2 && s3.pwr.qualified } }
  let s5 := s1.settleFrom (s4.put R.PWR_STAT_QUALIFYING 0)
  s5.raise (if cause = 2 then E.PWR_OVERLOAD else E.PWR_INPUT_LOSS)

/-- `INPUT_LOSS`: HOLD-UP with a usable pack, OFF without one. In HOLD-UP a loss ends the qualification. -/
def State.inputLoss (s : State) (t : Nat) : State :=
  if s.pwr.off then s
  else
    let s1 := s.at t
    if s1.power = pHOLDUP then
      let s2 := if s1.pwr.qualSince.isSome then s1.raise E.PWR_QUAL_RESTART else s1
      State.put { s2 with pwr := { s2.pwr with qualSince := none, qualified := false } } R.PWR_STAT_QUALIFYING 0
    else if s1.packUsable then s1.holdUp 1
    else s1.goOff

def execInputLoss (t : Nat) (s : State) : Host.Outcome State Fault Refusal := .next (s.inputLoss t)

/-- `HOLDUP_FLUSH`: the courses go off with it, so lines still in flight are given up before the rings are written, and frames that a
port opened in DRAIN are discarded (R201). A warm reset in progress ends first (R398). -/
def execHoldupFlush (s : State) : Host.Outcome State Fault Refusal :=
  .next (if s.drainOver && s.sys.warmEnd.isNone then s.linesDrop.satDiscard.holdupFlush else s)

/-- What a held thermal shutdown does once the flush has ended (R342): its records; the power state is HOLD-UP's. -/
def State.heldShutdown (s : State) : State :=
  if !s.therm.stopPend then s
  else
    let site := s.get R.THERM_STAT_SITE
    let s1 := { s with therm := { s.therm with stopPend := false }
                       nvs := { s.nvs with life := { s.nvs.life with shutdowns := s.nvs.life.shutdowns + 1 } } }
    (s1.thermEvent 1 site).jEvent evTHERMAL_SHUTDOWN (s1.shutdownDetail site)

/-- A reset that waited for the flush is applied in WAIT, but in thermal SHUTDOWN (R398). -/
def State.heldWait (s : State) : State := if s.get R.THERM_STAT_STATE = 4 then s else s.heldApply

/-- `FLUSH_DONE`: the flush ends; WAIT: only AON and DDR stay on. -/
def State.flushDone (s : State) : State :=
  if s.power ≠ pHOLDUP || s.get R.PWR_STAT_HOLD_PHASE ≠ 2 then s
  else
    let s1 := s.flushCommit.heldShutdown
    let s2 := (s1.domsOffBut [dAON, dDDR]).ddrRest.packDraw
    State.heldWait (State.put { s2 with pwr := { s2.pwr with flushEnded := true, waitSince := s2.now } } R.PWR_STAT_HOLD_PHASE 3)

def execFlushDone (s : State) : Host.Outcome State Fault Refusal := .next s.flushDone

/-- `HOLD_WAIT_EXPIRE`: WAIT ends without a qualified source. -/
def execHoldWaitExpire (s : State) : Host.Outcome State Fault Refusal :=
  if s.power = pHOLDUP && s.get R.PWR_STAT_HOLD_PHASE = 3 && !s.pwr.qualified && !s.pwr.off then
    .next (s.at (s.pwr.waitSince + s.get R.PWR_HOLD_HOLD_WAIT * secClk)).goOff
  else .next s

/-- `PACK_CUTOFF`: below 6.0 V for 1 ms on the pack. -/
def execPackCutoff (s : State) : Host.Outcome State Fault Refusal :=
  if s.on R.PWR_STAT_ON_PACK && !s.pwr.off then .next s.goOff else .next s

/-- `HANDBACK`: flush ended and source qualified. SRC_ID is sampled, charging resumes from DETECT, and the module goes to
IDLE or STANDBY. -/
def State.handback (s : State) : State :=
  if s.power ≠ pHOLDUP || !s.pwr.flushEnded || !s.pwr.qualified || s.pwr.off then s
  else
    let s1 := ((s.packSetI 0).put R.PWR_STAT_ON_PACK 0).put R.PWR_STAT_HOLD_PHASE 0
    let s3 := s1.sampleSrc
    let s4 := if (s3.on R.PWR_CTRL_AUTO_WAKE || s3.pwr.wake) && !s3.pwr.fromThermal then s3.wakeUp else
      State.setPower { s3 with pwr := { s3.pwr with hostStandby := !s3.pwr.fromThermal } } pSTANDBY
    s4.chargeStart.raise E.PWR_HANDBACK

def execHandback (s : State) : Host.Outcome State Fault Refusal := .next s.handback

/-! ## Priority and supplement (R353) -/

/-- PWR_IN_MON.I in mA: the limit in supplement; else a free value within the limit where a usable pack is present, and within the rating of
8.0 A where none is (R347, R353, Table 19-5). -/
def State.inputMa (s : State) : Nat :=
  let lim := s.get R.PWR_ILIM_ACT * 100
  if s.on R.PWR_STAT_SUPPLEMENT then lim else Config.freeNat s.freeIdx / 65536 % ((if s.packUsable then lim else 8000) + 1)

/-- `SUPPLEMENT`: the system current exceeds the limit. With a usable pack the input is held at the limit, the pack gives the difference and
charging stops; without one the input follows the draw, up to the rating of 8.0 A (Table 19-5), and OVERLOAD is set. In supplement the
command gives the draw's new value. -/
def State.supplement (s : State) (ma t : Nat) : State :=
  if s.pwr.off || s.power = pHOLDUP || ma ≤ s.get R.PWR_ILIM_ACT * 100 then s
  else
    let s1 := s.at t
    if s1.packUsable then
      let lim := s1.get R.PWR_ILIM_ACT * 100
      let s2 := if s1.on R.PWR_STAT_SUPPLEMENT then s1
        else (s1.chargeStop.put R.PWR_STAT_SUPPLEMENT 1).raise E.PWR_SUPPLEMENT
      (s2.put R.PWR_IN_MON_I lim).packSetI (-((Config.packGives (ma - lim) : Nat) : Int))
    else (s1.put R.PWR_IN_MON_I (min ma 8000)).raise E.PWR_OVERLOAD

def execSupplement (ma t : Nat) (s : State) : Host.Outcome State Fault Refusal := .next (s.supplement ma t)

/-- `SUPPLEMENT_END`: the draw is back within the limit. -/
def execSupplementEnd (s : State) : Host.Outcome State Fault Refusal :=
  if s.on R.PWR_STAT_SUPPLEMENT then .next (((s.packSetI 0).put R.PWR_STAT_SUPPLEMENT 0).pwrShow).chargeStart else .next s

/-- `OVERLOAD`: supplement, whose draw changes between the commands that give it, has brought the charge to `mah`; at RESERVE the module
enters HOLD-UP with cause OVERLOAD. -/
def State.overload (s : State) (mah : Nat) : State :=
  if !s.on R.PWR_STAT_SUPPLEMENT || s.pwr.off then s
  else
    let s1 := (s.packCount.put R.PACK_CHARGE_MAH mah).pwrShow
    if s1.get R.PACK_CHARGE_MAH ≤ s1.get R.PWR_HOLD_RESERVE then s1.holdUp 2 else s1

def execOverload (mah : Half) (s : State) : Host.Outcome State Fault Refusal := .next (s.overload mah.toNat)

/-! ## Pack faults (R361) -/

/-- The PACK_FAULT DETAIL (Table 15-6). -/
def State.packDetail (s : State) (f phase : Nat) : List Nat :=
  leBytes 1 f ++ leBytes 1 phase ++ leBytes 2 (s.get R.PACK_V_V_REST) ++ leBytes 2 (s.get R.PACK_IT_T) ++
    leBytes 4 (s.pwr.acc / 1000000) ++ leBytes 8 (s.get64 R.PACK_SER_LO_SERIAL R.PACK_SER_HI_SERIAL)

/-- A fault stops charging, sets and counts CHG_FAULT and commits an event, once until it is cleared; supplement ends with a pack that is no longer
usable. A short opens the pack switch; on the pack that ends the supply (DEDUCED, log 23). -/
def State.packFault (s : State) (f : Nat) : State :=
  if s.pwr.faults.contains f then s
  else
    let ph := s.get R.PWR_CHG_STAT_PHASE
    let s0 := if s.on R.PWR_STAT_SUPPLEMENT || s.on R.PWR_STAT_ON_PACK then s else s.packSetI 0
    let s1 := State.raise ((State.put { s0 with pwr := { s0.pwr with faults := setAdd s0.pwr.faults f } } R.PWR_CHG_STAT_PHASE 6).put
      R.PWR_CHG_STAT_FAULT f) E.PWR_CHG_FAULT
    let s2 := (s1.jEvent evPACK_FAULT (s1.packDetail f ph)).pwrShow.suppLost
    if f = 4 && s2.on R.PWR_STAT_ON_PACK then s2.goOff else s2

def faultTIMER : Nat := 1
def faultTIMER_THERMAL : Nat := 2
def faultPRECHG : Nat := 3
def faultSHORT : Nat := 4
def faultOVERVOLT : Nat := 5
def faultOVERTEMP : Nat := 6
def faultID : Nat := 7

/-- The faults whose condition holds now: a short found by the last probe or check, a rest voltage above 8.50 V or a terminal voltage above
8.80 V, above 60 °C, identity not accepted. -/
def State.standingFaults (s : State) : List Nat :=
  (if s.pwr.shorted then [faultSHORT] else []) ++
  (if !s.packPresent then [] else
    (if 8500 < s.get R.PACK_V_V_REST || 8800 < s.get R.PACK_V_V_NOW then [faultOVERVOLT] else []) ++
    (if 600 < s.packTemp then [faultOVERTEMP] else []) ++ (if !s.pwr.idOk then [faultID] else []))

/-- The voltage and temperature faults that the readings in hand raise (Table 15-5). -/
def State.packJudge (s : State) : State :=
  (s.standingFaults.filter (fun f => f = faultOVERVOLT || f = faultOVERTEMP)).foldl State.packFault s

/-- `FAULT_CLR`: the faults end and charging starts again from DETECT; each condition that still holds raises its fault again. -/
def State.faultClr (s : State) : State :=
  if s.pwr.off || s.get R.PWR_CHG_STAT_FAULT = 0 then s
  else
    let s1 := State.put { s with pwr := { s.pwr with faults := [] } } R.PWR_CHG_STAT_FAULT 0
    let s2 := s1.put R.PWR_CHG_STAT_PHASE 0
    (s2.standingFaults.foldl State.packFault s2).packShow

def execFaultClr (s : State) : Host.Outcome State Fault Refusal := .next s.faultClr

/-! ## Presence and probe (R354–R356) -/

/-- The identity is accepted: chemistry 0x21 and 2,500 to 3,500 mAh. -/
def idAccepted (crcOk : Bool) (chem cap : Nat) : Bool := crcOk && chem = 0x21 && 2500 ≤ cap && cap ≤ 3500

/-- A newly present pack: its identity is read, its charge is set from its rest voltage, faults of the old one end. -/
def State.packInsert (s : State) (crcOk : Bool) (chem cap serial : Nat) : State :=
  let s1 := { s with pwr := { s.pwr with
      idOk := idAccepted crcOk chem cap, shorted := false, miss := 0, lowDuty := 0, mahRest := 0, faults := [] } }
  let s2 := ((s1.put R.PACK_CHARGE_PRESENT 1).put R.PACK_CHARGE_VALID 1).put R.PACK_CHARGE_MAH
    (Config.packCharge (s1.get R.PACK_V_V_REST))
  let s3 := (((s2.put R.PACK_V_V_NOW (s1.get R.PACK_V_V_REST)).put R.PACK_ID_CAP cap).put R.PACK_ID_CHEM chem).put64 R.PACK_SER_LO_SERIAL R.PACK_SER_HI_SERIAL serial
  let s4 := ((s3.put R.PWR_CHG_STAT_FAULT 0).put R.PWR_CHG_STAT_PHASE 0).raise E.PWR_PACK_INSERTED
  (if s4.pwr.idOk then s4 else s4.packFault faultID).packShow

/-- No pack is present any more: charging and supplement stop at once (R354). -/
def State.packGone (s : State) : State :=
  let s1 := (s.packCount.chargeStop.put R.PACK_CHARGE_PRESENT 0).put R.PACK_CHARGE_VALID 0
  State.packShow { s1 with pwr := { s1.pwr with idOk := false } }

/-- `PACK_MISSING`: the third check in a row above 500 kΩ. -/
def State.packMissing (s : State) : State :=
  State.raise (State.packGone { s with pwr := { s.pwr with miss := 3, shorted := false } }) E.PWR_PACK_MISSING

/-- `PACK_CHECK`: the NTC every 100 ms and at the end of each rest, with the readings taken with it. Below 100 Ω the pack is shorted (R355), and
none is present (R354). -/
def State.packCheck (s : State) (ntc vRest : Nat) (temp : Int) (crcOk : Bool) (chem cap serial : Nat) : State :=
  if s.pwr.off then s
  else if 500000 < ntc then
    let s1 := { s with pwr := { s.pwr with miss := s.pwr.miss + 1 } }
    if s1.packPresent && s1.pwr.miss = 3 then s1.packMissing else s1
  else
    let s1 := { s with pwr := { s.pwr with miss := 0 } }
    if ntc < 100 then
      let s2 := State.packFault { s1 with pwr := { s1.pwr with shorted := true } } faultSHORT
      if s2.packPresent then s2.packGone else s2
    else
      let s2 := (s1.packCount.put R.PACK_V_V_REST vRest).put R.PACK_IT_T (ofSigned 16 temp)
      (if s2.packPresent then s2 else s2.packInsert crcOk chem cap serial).packJudge.packShow

def execPackCheck (ntc : Nat) (vRest : Half) (temp : Int) (crcOk : Bool) (chem : Byte) (cap : Half) (serial : BitVec 64)
    (s : State) : Host.Outcome State Fault Refusal :=
  .next (s.packCheck ntc vRest.toNat temp crcOk chem.toNat cap.toNat serial.toNat)

/-- `PACK_PROBE`: the terminal voltage under 10 mA. DETECT ends with PRECHARGE below 6.0 V, else PULSE, whose safety timer
starts from zero (R358, R360). -/
def State.packProbe (s : State) (v ntc : Nat) : State :=
  if s.pwr.off || !s.packPresent then s
  else if v < 1000 || ntc < 100 then State.packFault { s with pwr := { s.pwr with shorted := true } } faultSHORT
  else
    let s1 := State.packJudge (State.put { s with pwr := { s.pwr with shorted := false } } R.PACK_V_V_NOW v)
    if s1.get R.PWR_CHG_STAT_PHASE ≠ 1 then s1
    else if !s1.pwr.idOk then s1.packFault faultID
    else if s1.get R.PACK_V_V_REST < 6000 then
      (State.put { s1.packCount with pwr := { s1.packCount.pwr with preSince := s1.now } } R.PWR_CHG_STAT_PHASE 2).foldShow
    else (State.put { s1 with pwr := { s1.pwr with acc := 0, lowDuty := 0 } } R.PWR_CHG_STAT_PHASE 3).put R.PWR_CHG_STAT_TIMER_ACC 0

def execPackProbe (v : Half) (ntc : Nat) (s : State) : Host.Outcome State Fault Refusal := .next (s.packProbe v.toNat ntc)

/-- `PACK_OVERCURRENT`: a charge pulse above 2.0 A or a supplement current above 12 A for 1 ms is a short. -/
def execPackOvercurrent (s : State) : Host.Outcome State Fault Refusal :=
  if !s.pwr.off && s.packPresent && (s.get R.PWR_CHG_STAT_PHASE = 3 || s.on R.PWR_STAT_SUPPLEMENT) then
    .next (State.packFault { s with pwr := { s.pwr with shorted := true } } faultSHORT)
  else .next s

/-! ## Charging (R358–R360) -/

/-- I_SET in mA: values above 150 act as 150, 0 as 1. -/
def State.iSet (s : State) : Nat := 10 * min 150 (max 1 (s.get R.PWR_CHG_CTRL_I_SET))
/-- The safety budget in µs. -/
def State.budgetUs (s : State) : Nat := max 1 (s.get R.PWR_CHG_CTRL_TIMER) * 60000000

/-- The charge current in mA that the input leaves the charger beside a system current: that of the effective limit minus the draw minus 0.2 A
(R353). -/
def State.chargeLeft (s : State) (sys : Nat) : Nat :=
  let rest := s.get R.PWR_ILIM_ACT * 100 - sys - 200
  if rest = 0 then 0 else Config.chargeGive rest

/-- I_chg: I_SET under the foldback, none in a pause (R359). -/
def State.chargeSet (s : State) : Nat := if s.tempPause then 0 else s.iSet * s.foldback / 800

/-- `CHARGE_CYCLE`: one 1,000 ms cycle of the PULSE phase beside a system current of `sys` mA: charged for `chg` ms at `i` mA, at most I_chg and what
the input leaves (R353, R359), the highest terminal voltage, the rest voltage at the end, the temperature. -/
def State.chargeCycle (s : State) (chg i vTerm vRest : Nat) (temp : Int) (sys : Nat) (t : Nat) : State :=
  if s.pwr.off || s.get R.PWR_CHG_STAT_PHASE ≠ 3 || !s.on R.PWR_CHG_CTRL_EN then s
  else
    let s1 := ((((s.at t).put R.PACK_V_V_REST vRest).put R.PACK_V_V_NOW vRest).put R.PACK_IT_T (ofSigned 16 temp)).packCount
    let left := s1.chargeLeft sys
    let i := min i (min s1.chargeSet left)
    let chg := if s1.tempPause then 0 else min 900 chg
    let us := chg * max 125000 (min 1000000 (i * 1000000 / s1.iSet)) / 1000 + (1000 - chg) * 125
    let low := if chg < 100 then s1.pwr.lowDuty + 1 else 0
    let s2 := State.mahAdd { s1 with pwr := { s1.pwr with acc := s1.pwr.acc + us, lowDuty := low } } ((chg * i * msClk : Nat) : Int)
    let s3 := ((s2.put R.PACK_IT_I (ofSigned 16 i)).put R.PWR_CHG_STAT_DUTY (chg / 10)).put R.PWR_CHG_STAT_INLIM
      (boolNat (left < s1.chargeSet))
    let s4 := (s3.put R.PWR_CHG_STAT_TIMER_ACC (s3.pwr.acc / 60000000)).packJudge
    let s5 := (if 8800 < vTerm then s4.packFault faultOVERVOLT else s4).packShow
    if s5.get R.PWR_CHG_STAT_PHASE = 3 && 8300 ≤ vRest && 3 ≤ low then
      (((s5.packSetI 0).put R.PWR_CHG_STAT_PHASE 4).put R.PACK_CHARGE_MAH (s5.get R.PACK_ID_CAP)).pwrShow.raise E.PWR_CHG_DONE
    else s5

def execChargeCycle (chg : Half) (i : Half) (vTerm : Half) (vRest : Half) (temp : Int) (sys : Half) (t : Nat) (s : State) :
    Host.Outcome State Fault Refusal :=
  .next (s.chargeCycle chg.toNat i.toNat vTerm.toNat vRest.toNat temp sys.toNat t)

/-- `PRECHG_TIMEOUT`: 30 min of PRECHARGE without 6.0 V. -/
def execPrechgTimeout (s : State) : Host.Outcome State Fault Refusal :=
  if s.get R.PWR_CHG_STAT_PHASE = 2 && !s.pwr.off then .next ((s.at (s.pwr.preSince + 1800 * secClk)).packFault faultPRECHG)
  else .next s

/-- `PRECHARGE_DONE`: 6.0 V in PRECHARGE. -/
def execPrechargeDone (s : State) : Host.Outcome State Fault Refusal :=
  if s.get R.PWR_CHG_STAT_PHASE = 2 && !s.pwr.off then
    .next ((State.put { s with pwr := { s.pwr with lowDuty := 0 } } R.PACK_V_V_REST (max 6000 (s.get R.PACK_V_V_REST))).packSetI 0 |>.put
      R.PWR_CHG_STAT_PHASE 3).pwrShow
  else .next s

/-- `MAINTAIN_CHECK`: DONE passes into MAINTAIN; PULSE restarts below 8.10 V. -/
def State.maintainCheck (s : State) (vRest : Nat) : State :=
  let ph := s.get R.PWR_CHG_STAT_PHASE
  if s.pwr.off || (ph ≠ 4 && ph ≠ 5) then s
  else
    let s1 := (State.put { s with pwr := { s.pwr with lowDuty := 0 } } R.PACK_V_V_REST vRest).put R.PWR_CHG_STAT_PHASE
      (if vRest < 8100 then 3 else 5)
    s1.packJudge.packShow

def execMaintainCheck (vRest : Half) (s : State) : Host.Outcome State Fault Refusal := .next (s.maintainCheck vRest.toNat)

/-- `CHG_TIMER_EXPIRE`: the budget is reached before termination. -/
def execChgTimerExpire (s : State) : Host.Outcome State Fault Refusal :=
  if s.get R.PWR_CHG_STAT_PHASE = 3 && s.budgetUs ≤ s.pwr.acc && !s.pwr.off then
    .next (s.packFault (if s.on R.PWR_CHG_STAT_FOLDBACK then faultTIMER_THERMAL else faultTIMER))
  else .next s

end Sys2Proof.Machine
end

