-- ==== Sys2Proof/Machine/Calib.lean ====
section
/-! DEFINITION. Calibration: the background converter cycle, plausibility, sets, runs, drift tracking (chapter 13). -/
namespace Sys2Proof.Machine

/-! ## Positions and converters (R316, R323) -/

def positions : Nat := 24608
def convKey (b pos : Nat) : Nat := b * positions + pos
def spareKey (b sh : Nat) : Nat := 4 * positions + b * 192 + sh

/-- How many positions a spare of Shingle sh steps through, and the i-th of them: the 128 owned columns, with the dark
columns first in Shingle 0 and last in Shingle 191. -/
def posCount (sh : Nat) : Nat := if sh = 0 || sh = 191 then 144 else 128
def posAt (sh i : Nat) : Nat := if sh = 0 then i else 16 + 128 * sh + i

def State.convAt (s : State) (k : Nat) : Conv := mapGet {} s.cal.conv k
def State.setConv (s : State) (k : Nat) (c : Conv) : State := { s with cal := { s.cal with conv := mapSet {} s.cal.conv k c } }
def State.spareAt (s : State) (b sh : Nat) : Spare := mapGet {} s.cal.spare (b * 192 + sh)
def State.setSpare (s : State) (b sh : Nat) (x : Spare) : State :=
  { s with cal := { s.cal with spare := mapSet {} s.cal.spare (b * 192 + sh) x } }

/-- A candidate's measurements (R316 item 3): trim codes, digital coefficients, verified residuals, weights by what they differ from
their nominal values; of the first of two runs (R321) the total offset and gain, and the weights. -/
structure Cand where
  ofsTrim : Nat
  gainTrim : Nat
  ofsCoef : Int
  gainCoef : Int
  ofs : Int
  gain : Int
  weights : List Int
  ofs1 : Int
  gain1 : Int
  weights1 : List Int
  deriving DecidableEq, Repr

def absI (x : Int) : Nat := x.natAbs

/-- The total offset in 1/256 LSB and the total gain in ppm: trim plus residual (R315). -/
def totalOfs (trim : Nat) (coef : Int) : Int := ((trim : Int) - 32) * 128 + coef
def totalGain (trim : Nat) (coef : Int) : Int := ((trim : Int) - 32) * 500 + coef

/-- Does a weight differ from its nominal by more than 1/8 of the nominal, or by more than 2 LSB (32 units of 1/16 LSB)? -/
def Cand.weightBad (c : Cand) : Bool :=
  (List.range 14).any (fun i => Config.weightNominal i < 8 * absI (c.weights.getD i 0) || 32 < absI (c.weights.getD i 0))

/-- Do the two runs agree: offsets within 0.25 LSB, gains within 0.05 %, every weight within 1/4 LSB (R321)? -/
def Cand.agree (c : Cand) : Bool :=
  absI (totalOfs c.ofsTrim c.ofsCoef - c.ofs1) ≤ 64 && absI (totalGain c.gainTrim c.gainCoef - c.gain1) ≤ 500 &&
    (List.range 14).all (fun i => absI (c.weights.getD i 0 - c.weights1.getD i 0) ≤ 4)

/-- The code of the first check of Table 13-3 that fails; the step checks are skipped in the start-up pass. -/
def checkCode (first l16 : Bool) (old : Conv) (c : Cand) : Nat :=
  if c.ofsTrim = 0 || c.ofsTrim = 63 || c.gainTrim = 0 || c.gainTrim = 63 then 1
  else if c.weightBad then 2
  else if !first && 512 < absI (totalOfs c.ofsTrim c.ofsCoef - totalOfs old.ofsTrim old.ofsCoef) then 3
  else if !first && 5000 < absI (totalGain c.gainTrim c.gainCoef - totalGain old.gainTrim old.gainCoef) then 4
  else if 64 < absI c.ofs then 5
  else if 500 < absI c.gain then 6
  else if l16 && !c.agree then 7
  else 0

/-- The old values with a check's code; accepted, the candidate's values with the failures at 0. -/
def afterCheck (old : Conv) (c : Cand) (code : Nat) : Conv :=
  if code = 0 then
    { old with ofsTrim := c.ofsTrim, gainTrim := c.gainTrim, ofsCoef := c.ofsCoef, gainCoef := c.gainCoef
               weights := c.weights, ofs := c.ofs, gain := c.gain, fails := 0, code := 0, inPass := true }
  else { old with fails := old.fails + 1, code := code }

/-- The bank and Shingle bit of CAL_BAD_SUM. -/
def State.badSum (s : State) (b sh : Nat) : State :=
  let n := b * 192 + sh
  s.put ⟨(R.CAL_BAD_SUMw_PAIR (n / 32)).reg, n % 32, 1⟩ 1

/-! ## The banks of converters, and what a conversion uses of the calibration (R19, R317) -/

def State.bankRun (s : State) (b : Nat) : BankRun := s.rdo.banks.getD b {}

def State.setBankRun (s : State) (b : Nat) (x : BankRun) : State :=
  { s with rdo := { s.rdo with banks := (List.range 4).map (fun i => if i = b then x else s.bankRun i) } }

/-- The module time of a row phase of the grid, rounded up. -/
def State.phaseTime (s : State) (p : Int) : Nat :=
  s.rdo.gridEdge + ceilDiv (p.toNat * s.rdo.phase.num) (max 1 s.rdo.phase.den)

/-- The calibration as a conversion that begins now uses it. -/
def State.calView (s : State) : CalView :=
  { conv := s.cal.conv, spare := s.cal.spare, force := s.cal.force, tb := s.get R.RDO_STAT_TB_ACT }

/-- Before the calibration changes: a conversion that has begun completes on the converter that began it, with the coefficients it
began with. A conversion begins one row slot before it ends. -/
def State.holdViews (s : State) : State :=
  let v := s.calView
  let begun (h : HeldRow) : Bool := decide (s.phaseTime (h.cend - 4) < s.now)
  { s with rdo := { s.rdo with banks := s.rdo.banks.map (fun (b : BankRun) =>
      { b with held := b.held.map (fun (h : HeldRow) => if h.cal.isNone && begun h then { h with cal := some v } else h) }) } }

/-! ## Passes -/

/-- The quality figures of a bank at the end of a pass (R322): rms of the verified offsets (rounded down, log 30) and the
largest gain residual of the converters accepted in the pass, and of the spares that cover a column for good. -/
def State.quality (s : State) (b : Nat) : State :=
  let own := s.cal.conv.filter (fun (k, c) => c.inPass && b * positions ≤ k && k < (b + 1) * positions)
  let covers := (List.range 192).filter (fun sh => (s.spareAt b sh).parked.isSome)
  let cs := own ++ covers.map (fun sh => (spareKey b sh, s.convAt (spareKey b sh)))
  let sq := cs.foldl (fun n (_, c) => n + absI c.ofs * absI c.ofs) 0
  let mx := cs.foldl (fun n (_, c) => max n (absI c.gain)) 0
  (s.put (R.CAL_Qb_OFS_RMS b) (if cs.isEmpty then 0 else isqrt (sq / cs.length))).put (R.CAL_Qb_GAIN_RES b) mx

/-- A pass ends when every spare has finished its positions. -/
def State.passEnd (s : State) : State :=
  let s1 := [0, 1, 2, 3].foldl State.quality s
  let anyBad := s1.cal.conv.any (fun (_, c) => c.bad || c.badUncov)
  let s2 := if s1.cal.first && anyBad then s1.put ⟨R.SYS_SELFTEST_FAIL.reg, 8, 1⟩ 1 else s1
  let s3 := { s2 with cal := { s2.cal with first := false, passTime := s2.now } }
  let s4 := ((s3.put R.CAL_STAT_PASS_ACTIVE 0).put R.CAL_STAT_START_PASS_DONE 1).put R.CAL_PASS_CNT_COUNT
    (s3.get R.CAL_PASS_CNT_COUNT + 1)
  s4.raise E.CAL_PASS_DONE

def State.passOver (s : State) : Bool :=
  (List.range 768).all (fun k => (mapGet {} s.cal.spare k).done || (mapGet {} s.cal.spare k).dead)

/-- The hand-back of a checked candidate and the takeover of the next position (R317, R320); after the spare's own calibration the first
takeover. -/
def State.handBack (s : State) (b sh : Nat) : State :=
  let x := s.spareAt b sh
  match x.cand with
  | none => s
  | some (_, c) =>
    if x.idx = 0 then s.setSpare b sh { x with cand := none, idx := 1 } else
    let pos := posAt sh (x.idx - 1)
    let k := convKey b pos
    let third := 3 ≤ c.fails
    let other := s.cal.conv.any (fun (j, d) => d.bad && b * positions ≤ j && j < (b + 1) * positions &&
      (List.range (posCount sh)).any (fun i => convKey b (posAt sh i) = j) && j ≠ k)
    let nxt := x.idx + 1
    if third && !c.bad && !other then
      let s1 := (s.setConv k { c with bad := true }).setSpare b sh { x with cand := none, dead := true, parked := some pos }
      ((s1.badSum b sh).bump R.CAL_STAT_NO_SPARE).raise E.CAL_BAD_CONV
    else
      let c' := if third && other then { c with badUncov := true } else c
      (s.setConv k c').setSpare b sh { x with cand := none, idx := nxt, done := decide (posCount sh < nxt) }

/-- `CAL_TAKEOVER` at a tick boundary: every candidate that waits. -/
def State.calTakeover (s : State) : State :=
  let ks := (s.cal.spare.filter (fun (_, x) => x.cand.isSome)).map Prod.fst
  let s1 := ks.foldl (fun s k => s.handBack (k / 192) (k % 192)) s
  if s1.on R.CAL_STAT_PASS_ACTIVE && !ks.isEmpty && s1.passOver then s1.passEnd else s1

/-- Is no readout in progress: outside RUN with no flush step to come, or STOPPED with its flush steps made (R317)? -/
def State.readoutIdle (s : State) : Bool := (!s.inRun || s.on R.TICK_STAT_STOPPED) && s.tick.flushLeft = 0

/-- `CAL_PASS_START`: INTERVAL after the last pass (0 acts as 1), in RUN or IDLE with the converters on. -/
def State.calPassStart (s : State) : State :=
  if !s.on R.CAL_CTRL_BG_EN || s.on R.CAL_STAT_PASS_ACTIVE || !s.on R.CAL_STAT_START_PASS_DONE || !s.dom dCONVN || !s.dom dSUPV
      || !s.runAdmissible || !(s.power = pRUN || s.power = pIDLE) then s
  else
    let s1 := s.at (s.cal.passTime + max 1 (s.get R.CAL_CTRL_INTERVAL) * secClk)
    let spare := s1.cal.spare.map (fun (k, x) => (k, if x.dead then x else {}))
    State.bgProgress (State.put { s1 with cal := { s1.cal with
        spare := spare.filter (fun (_, x) => x.dead), conv := s1.cal.conv.map (fun (k, c) => (k, { c with inPass := false })) } }
      R.CAL_STAT_PASS_ACTIVE 1) 0

def execCalPassStart (s : State) : Host.Outcome State Fault Refusal := .next s.calPassStart

/-- Can the spare of a bank and Shingle calibrate now: in a pass, in RUN or IDLE, with RUN admissible, its converters on and clocked (R316, R349)? -/
def State.calWorks (s : State) (b sh : Nat) : Bool :=
  let x := s.spareAt b sh
  s.on R.CAL_STAT_PASS_ACTIVE && s.on R.CAL_CTRL_BG_EN && (s.power = pRUN || s.power = pIDLE) && s.runAdmissible &&
    s.dom (if b < 2 then dCONVN else dCONVS) && s.rowRuns && !x.done && !x.dead && x.cand.isNone

/-- The spare's own calibration: a failure ends its part in the pass, the third in a row for good (R320). -/
def State.calSpare (s : State) (b sh : Nat) (c : Cand) : State :=
  let x := s.spareAt b sh
  let k := spareKey b sh
  let old := s.convAt k
  let code := checkCode s.cal.first (s.on R.CAL_CTRL_L16_AGREE) old c
  let new := afterCheck old c code
  if code = 0 then (s.setConv k new).setSpare b sh { x with cand := some (true, new) }
  else
    let s1 := s.raise E.CAL_CONV_FAIL
    let s2 := if 3 ≤ new.fails then
        ((s1.setConv k { new with bad := true }).badSum b sh).setSpare b sh { x with dead := true }
      else (s1.setConv k new).setSpare b sh { x with done := true }
    if s2.passOver then s2.passEnd else s2

/-- The calibration of the column that the spare covers: its candidate is checked and waits for the hand-back. -/
def State.calColumn (s : State) (b sh : Nat) (c : Cand) : State :=
  let x := s.spareAt b sh
  let k := convKey b (posAt sh (x.idx - 1))
  let old := s.convAt k
  let code := checkCode s.cal.first (s.on R.CAL_CTRL_L16_AGREE) old c
  let s1 := if code = 0 then s else s.raise E.CAL_CONV_FAIL
  (s1.setConv k { old with code := code }).setSpare b sh { x with cand := some (code = 0, afterCheck old c code) }

/-- `CAL_POSITION_DONE`: the offline calibration of a bank and Shingle's spare ends and its candidate is checked; the spare's
own calibration comes first. Takeover and hand-back follow at the boundary, at once while no readout is in progress (R317). -/
def State.calPosition (s : State) (b sh : Nat) (c : Cand) : State :=
  if !s.calWorks b sh then s
  else
    let s0 := s.bgProgress 0
    let s1 := if (s0.spareAt b sh).idx = 0 then s0.calSpare b sh c else s0.calColumn b sh c
    if s1.readoutIdle then s1.calTakeover else s1

def execCalPositionDone (b : Fin 4) (sh : Fin 192) (ofsTrim gainTrim : BitVec 6) (ofsCoef gainCoef ofs gain : Int)
    (weights : List Int) (first : FirstRun) (s : State) : Host.Outcome State Fault Refusal :=
  .next (s.calPosition b.val sh.val
    ⟨ofsTrim.toNat, gainTrim.toNat, ofsCoef, gainCoef, ofs, gain, weights, first.ofs, first.gain, first.weights⟩)

/-! ## Sets (R323, R328) -/

/-- Sizes of Table 13-5. -/
def setTables : Nat := 98432
def dnbSize : Nat := 196608
def popSlots (v : Nat) : Nat := popcount 4 v
def setSize (slots : Nat) : Nat := 0x40 + 2 * setTables + popSlots slots * dnbSize

/-- The bytes of a set. -/
def State.setBytesOf (s : State) (c : CalSet) : List Nat :=
  let body := ((List.range 49216).flatMap (fun i => leBytes 2 (mapGet 0 c.d i))) ++
    ((List.range 49216).flatMap (fun i => leBytes 2 (mapGet 16384 c.g i))) ++ (c.dnb.flatMap (leBytes 2))
  let head := leBytes 2 1 ++ leBytes 1 c.content ++ leBytes 1 (s.get R.RDO_STAT_TB_ACT) ++ leBytes 4 c.id ++ leBytes 8 s.serial ++
    leBytes 8 s.tick.tickno ++ (c.dark.flatMap (leBytes 2)) ++ leBytes 2 c.ff ++ leBytes 2 c.dim ++ leBytes 1 c.slots ++
    leBytes 1 c.gains ++ leBytes 2 c.target ++ leBytes 8 0 ++ leBytes 4 (crc32 body) ++ leBytes 8 0
  head ++ leBytes 4 (crc32 head) ++ body

/-- A table of 16-bit values at an address, those at their default left out. -/
def State.readTable (s : State) (a n dflt : Nat) : SMap Nat :=
  ((List.range n).map (fun i => (i, leNat (s.bytes (a + 2 * i) 2)))).filter (fun (_, v) => v ≠ dflt)

/-- The set at an address. -/
def State.readSet (s : State) (a : Nat) : CalSet :=
  { id := leNat (s.bytes (a + 4) 4), content := leNat (s.bytes (a + 2) 1)
    d := s.readTable (a + 0x40) 49216 0, g := s.readTable (a + 0x40 + setTables) 49216 16384
    dark := (List.range 4).map (fun i => leNat (s.bytes (a + 0x18 + 2 * i) 2))
    gains := leNat (s.bytes (a + 0x25) 1), target := leNat (s.bytes (a + 0x26) 2)
    ff := leNat (s.bytes (a + 0x20) 2), dim := leNat (s.bytes (a + 0x22) 2), slots := leNat (s.bytes (a + 0x24) 1) % 16
    dnb := (List.range (popSlots (leNat (s.bytes (a + 0x24) 1)) * 98304)).map
      (fun i => leNat (s.bytes (a + 0x40 + 2 * setTables + 2 * i) 2)) }

/-- FORMAT and both CRCs of a set hold. -/
def State.setOk (s : State) (a : Nat) : Bool :=
  let slots := leNat (s.bytes (a + 0x24) 1)
  leNat (s.bytes a 2) = 1 && crc32 (s.bytes a 0x3C) = leNat (s.bytes (a + 0x3C) 4) &&
    crc32 (s.bytes (a + 0x40) (setSize slots - 0x40)) = leNat (s.bytes (a + 0x30) 4)

/-- A set takes effect at the next tick boundary, at once where none is due. -/
def State.setForce (s : State) : State :=
  match s.cal.next with
  | none => s
  | some c => State.put { s with cal := { s.cal with force := c, next := none } } R.CAL_ACTIVE_ID_ID c.id

def State.applySet (s : State) (c : CalSet) : State :=
  let s1 := { s with cal := { s.cal with next := some c } }
  if s1.readoutIdle then s1.setForce else s1

/-- At start-up the CAL object with the highest CREATED of this module's with BOOT and correct CRCs is applied (R323). -/
def State.calBoot (s : State) : State :=
  let own := s.nvs.cat.filter (fun e => e.type = 5 && e.origin = s.serial)
  let addr (e : CatEntry) : Nat := nvsBase + 4096 * e.base
  let good := own.filter (fun e => s.setOk (addr e) && bit (leNat (s.bytes (addr e + 2) 1)) 3)
  let best := good.foldl (fun (m : Option CatEntry) e => match m with
    | none => some e
    | some x => if x.created < e.created then some e else some x) none
  match best with
  | some e => State.setForce { s with cal := { s.cal with next := some (s.readSet (addr e)) } }
  | none =>
    let lv := (List.range 4).map (fun i => s.fuseNum (0xA30 + 2 * i) 2)
    (State.put { s with cal := { s.cal with force := { dark := lv }, next := none } } R.CAL_STAT_NO_SET 1).put R.CAL_ACTIVE_ID_ID 0

/-! ## Runs (R324–R329) -/

def State.calBuf (s : State) : Nat := s.get64 R.CAL_BUF_LO_ADDR R.CAL_BUF_HI_ADDR

/-- A GO of a run: ignored while a run is in progress or the page is not served. DARK, WHITE and TIMING need RUN and no job. -/
def State.calGo (s : State) (op kind : Nat) (start : State → State) : State :=
  if !s.served 0x027 || s.cal.run ≠ 0 then s
  else
    let s1 := State.put { s with cal := { s.cal with count := 0 } } R.CAL_CMD_OP op
    if kind < 4 && (!s1.inRun || s1.jobRunning) then s1.calEnd 1
    else start (State.put { s1 with cal := { s1.cal with run := kind, code := 0, result := none, store := false } } R.CAL_STAT_RUN kind)

/-- More than 0.1 % of the samples of a phase, more than 1 % of columns. -/
def satBad (sat samples : Nat) : Bool := samples < 1000 * sat
def columnsBad (n columns : Nat) : Bool := columns < 100 * n

/-- The run's outcome so far. -/
def State.calOutcome (s : State) (code count : Nat) (res : Option CalSet) (store : Bool) : State :=
  { s with cal := { s.cal with code := code, count := count, result := res, store := store } }

/-- Does the buffer for a set lie in DDR4? -/
def State.bufOk (s : State) (slots : Nat) : Bool := s.calBuf % 4096 = 0 && inDdr s.calBuf (setSize slots)

/-- Entry i of a pattern that one entry and those that differ give. -/
def patternAt (m : PatternSeen) (i : Nat) : HoldSeen := ((m.cols.find? (fun (k, _) => k = i)).map Prod.snd).getD m.all

/-- D of two means in 1/1,024 LSB, after a hold of 0.2 ms and of 20 ms: their difference over 19.8 ms, at 3.42 e⁻ per LSB over the gain,
divided by scale(TB) (Q8.8), in 1/16 e⁻/s, to the nearest (R325, Table 3-2, R323). -/
def darkRate (gain scale : Nat) (h : HoldSeen) : Nat :=
  (roundDiv ((h.long - h.short) * 140083200) (202752 * gain * max 1 scale)).toNat

/-- scale(TB) of the fuses, Q8.8. -/
def State.darkScale (s : State) (tb : Nat) : Nat := s.fuseNum (0xA38 + 2 * tb) 2

/-- The pattern of a DARK run, at the frame's gain and the array band of the readout. -/
def State.darkPattern (s : State) (m : PatternSeen) (i : Nat) : Nat :=
  let g := s.act R.RDO_AREA_CFG_GAIN0
  darkRate (if g = 3 then 1 else 2 ^ g) (s.darkScale (s.get R.RDO_STAT_TB_ACT)) (patternAt m i)

/-- A bank's dark level: the mean of its dark samples behind step 3, in 1/16 LSB, to the nearest. -/
def levelMean (m : LevelSeen) : Nat := min 65535 (roundDiv m.sum (max 1 m.count)).toNat

/-- Do two dark runs agree: every D within 10 % (of the second run's) or 32 units, whichever is larger (R321)? -/
def darkAgree (d1 d2 : Nat → Nat) : Bool :=
  (List.range 49216).all (fun i => 10 * absI ((d1 i : Int) - d2 i) ≤ max (d2 i) 320)

/-- What a DARK run's frames showed (R325): saturated samples of the worst phase and its samples, columns whose mean moved by more than
1 % between the halves of a phase, what the active rows exceed the dark rows by in 1/16 LSB; the banks' dark samples; the means behind
the two holds by 2·position + tap, and those of the first of two runs (R321). -/
structure DarkSeen where
  sat : Nat
  samples : Nat
  unstable : Nat
  light : Int
  levels : List LevelSeen
  d : PatternSeen
  d1 : PatternSeen

/-- `CAL_DARK`: the dark levels and the storage-node pattern from what was measured; G and the tables are carried over. Of several failures
the lowest code is kept (DESIGN CHOICE, log 126). -/
def State.calDark (s : State) (m : DarkSeen) : State :=
  s.calGo 1 1 (fun s =>
    let pat := s.darkPattern m.d
    let d := (List.range 49216).filterMap (fun i => let v := min 65535 (pat i); if v = 0 then none else some (i, v))
    let hot := ((List.range 49216).filter (fun i => 65535 < pat i)).length
    let c := { s.cal.force with id := s.get R.CAL_SET_ID_ID, d := d, dark := (padTo 4 (m.levels.map levelMean)), content := s.cal.force.content % 8 ||| 1 }
    let code := if satBad m.sat m.samples then 3 else if columnsBad m.unstable positions then 5 else if 128 < m.light then 6
      else if s.on R.CAL_CTRL_L16_AGREE && !darkAgree (s.darkPattern m.d1) pat then 13 else 0
    s.calOutcome code hot (some c) true)

def execCalDark (sat : SatSeen) (unstable : Nat) (light : Int) (levels : List LevelSeen) (d d1 : PatternSeen) (s : State) :
    Host.Outcome State Fault Refusal :=
  .next (s.calDark ⟨sat.sat, sat.samples, unstable, light, levels, d, d1⟩)

/-- A tap gain: (mean A + mean B) / (2 × mean of the tap), Q2.14, rounded to the nearest (log 30). -/
def tapGain (a b own : Nat) : Nat := if own = 0 then 65535 else min 65535 (roundDiv (16384 * (a + b) : Nat) (2 * own)).toNat

/-- A dodge-and-burn gain: round(4,096 × 16 × TARGET / (M − 512)), clamped to 1–32,767. -/
def dnbGain (target m : Nat) : Nat := min 32767 (max 1 (if m ≤ 512 then 32767 else (roundDiv (65536 * target : Nat) (m - 512)).toNat))

/-- The median of a list (the upper one of an even count, log 30). -/
def median (xs : List Nat) : Nat := (sortBy (fun (a b : Nat) => decide (a ≤ b)) xs).getD (xs.length / 2) 0

/-- The dim columns of one band of one slot: M − 512 below 25 % of the band's median over the owned columns (R327). -/
def dimCols (lo hi : Nat) (ms : List Nat) : List Bool :=
  let med := median (((ms.take (hi + 1)).drop lo).map (· - 512))
  ms.map (fun m => decide (4 * (m - 512) < med))

/-- The gains of one band of one slot from its 24,576 means: dim columns take a linear interpolation between the nearest good
ones (R327). -/
def bandGains (lo hi target : Nat) (ms : List Nat) : List Nat :=
  let arr := (ms.zip (dimCols lo hi ms)).map (fun (m, dim) => if dim then none else some (dnbGain target m))
  let good := (arr.zipIdx).filterMap (fun (g, i) => g.map (fun v => (i, v)))
  let fill (i : Nat) : Nat :=
    match (good.filter (fun (j, _) => j < i)).getLast?, good.find? (fun (j, _) => i < j) with
    | some p, some q =>
      (roundDiv (Int.ofNat (p.2 * (q.1 - i)) + Int.ofNat (q.2 * (i - p.1))) (q.1 - p.1)).toNat
    | some p, none => p.2
    | none, some q => q.2
    | none, none => 1
  (arr.zipIdx).map (fun (g, i) => g.getD (fill i))

/-- How many owned columns are dim in a band of a slot; a column counts once (DESIGN CHOICE, log 127). -/
def dimCount (lo hi : Nat) (bands : List (List Nat)) : Nat :=
  let dims := bands.map (dimCols lo hi)
  ((List.range 24576).filter (fun i => lo ≤ i && i ≤ hi && dims.any (fun d => d.getD i false))).length

/-- Split a list into pieces of n. -/
def chunks (n : Nat) : Nat → List Nat → List (List Nat)
  | 0, _ => []
  | k + 1, xs => xs.take n :: chunks n k (xs.drop n)

/-- How many lines phase 2 of a WHITE run exposes: 2^LINES_LOG2, from 8 to 16 (Table 13-7). -/
def State.whiteLines (s : State) : Nat := 2 ^ min 16 (max 8 (s.get R.CAL_WHITE_LINES_LOG2))

/-- The flat-field residual in 0.01 %: the rms of (corrected mean − TARGET) / TARGET over the owned columns, slots and bands, from the sums of
`n` verification lines and the gains g (R322, R326), rounded down (log 30). -/
def ffResidual (lo hi target n : Nat) (sums gains : List (List Nat)) : Nat :=
  let full : Nat := 65536 * n * target
  let errs : List Int := ((sums.zip gains).flatMap (fun (xs, gs) => ((xs.zip gs).take (hi + 1)).drop lo)).map
    (fun (x, g) => ((x : Int) - 512 * n) * g - full)
  let sq := errs.foldl (fun v e => v + absI e * absI e) 0
  if errs.isEmpty then 0 else min 65535 (isqrt (100000000 * sq / (errs.length * full * full)))

/-- The light of a WHITE run is life use like any other (R387): 128 area frames on the channels of LAMP_MASK, and in the two line phases the
strobes of the bank's slots. -/
def State.whiteUse (s : State) (bank : Nat) : State :=
  if !s.strobesOn then s
  else
    let s1 := (bitsOf 8 (s.act R.EXP_AREA_CTRL_LAMP_MASK)).foldl
      (fun s c => s.lampAccrue c (128 * 50 * s.act R.EXP_AREA_STRB_W_STRB_W)) s
    (List.range 4).foldl (fun s k =>
      if s.on (R.EXP_x_SLOTk_CTRL_EN bank k) && s.on (R.EXP_x_SLOTk_CTRL_LAMP_EN bank k) then
        s.lampAccrue (s.get (R.EXP_x_SLOTk_CTRL_LAMP_CH bank k))
          ((s.whiteLines + s.whiteLines / 2) * 50 * s.get (R.EXP_x_SLOTk_STRB_W_STRB_W bank k))
      else s) s1

/-- What a WHITE run's phases showed (R326): saturated samples of the worst phase and its samples, owned columns whose mean moved by more
than 1 % between the halves of a phase, 100 ms without a tick edge; the means of the two taps by position; in slot, band and column order
the sums of the line phase's lines and of the verification's. -/
structure WhiteSeen where
  sat : Nat
  samples : Nat
  unstable : Nat
  noTick : Bool
  tapA : List Nat
  tapB : List Nat
  sums : List Nat
  verify : List Nat

/-- The gain codes of a bank's slots, 2 bits each (Table 13-5). -/
def State.gainCodes (s : State) (x : Nat) : Nat :=
  (List.range 4).foldl (fun v k => v + s.get ⟨(R.RDO_x_CFG_GAIN0 x).reg, 8 + 2 * k, 2⟩ * 4 ^ k) 0

/-- `CAL_WHITE`: tap gains, then dodge-and-burn gains from the line phase, then the residual from the verification. A bank whose exposure
check fails has no phases, a missing tick edge ends the run; of several other failures the lowest code is kept (log 126). -/
def State.calWhite (s : State) (m : WhiteSeen) : State :=
  s.calGo 2 2 (fun s =>
    let bank := s.get R.CAL_WHITE_BANK
    let target := max 1 (s.get R.CAL_WHITE_TARGET)
    let lo := s.get (R.JOB_x_OWN_OWN_LO bank)
    let hi := s.get (R.JOB_x_OWN_OWN_HI bank)
    let slots := (List.range 4).foldl (fun v k => if s.on (R.EXP_x_SLOTk_CTRL_EN bank k) then v + 2 ^ k else v) 0
    let g := (List.range 49216).filterMap (fun i =>
      let a := m.tapA.getD (i / 2) 0
      let b := m.tapB.getD (i / 2) 0
      let v := tapGain a b (if i % 2 = 0 then a else b)
      if v = 16384 then none else some (i, v))
    let n := s.whiteLines
    let bands := chunks 24576 (4 * popSlots slots) (m.sums.map (fun v => (roundDiv v n).toNat))
    let gains := bands.map (bandGains lo hi target)
    let ff := ffResidual lo hi target (n / 2) (chunks 24576 (4 * popSlots slots) m.verify) gains
    let dim := dimCount lo hi bands
    let c := { s.cal.force with id := s.get R.CAL_SET_ID_ID, g := g, ff := ff, dim := dim, slots := slots, gains := s.gainCodes bank
                                target := target, dnb := gains.flatten, content := s.cal.force.content % 8 ||| 6 }
    if s.expCode bank ≠ 0 then s.calOutcome 2 0 none false
    else
      let code := if m.noTick then 10 else if satBad m.sat m.samples then 3 else if columnsBad dim (hi + 1 - lo) then 4
        else if columnsBad m.unstable (hi + 1 - lo) then 5 else 0
      (s.whiteUse bank).calOutcome code dim (some c) (!m.noTick))

def execCalWhite (m : PhasesSeen) (tapA tapB sums verify : List Nat) (s : State) : Host.Outcome State Fault Refusal :=
  .next (s.calWhite ⟨m.sat.sat, m.sat.samples, m.unstable, m.noTick, tapA, tapB, sums, verify⟩)

/-- The tick-phase compensation moves by half of what the drain gate and SYNC_OUT are late together; what is left, in ps, is equal and opposite
for the two, and CAL_TPH takes the drain gate's (DESIGN CHOICE, log 141). -/
def phaseMove (gate sync : Int) : Int := (gate + sync) / 2
def phaseLeft (gate sync : Int) : Int := 10 * (gate - phaseMove gate sync)

/-- `CAL_TIMING`: `late` is how late each connector edge falls with no trim, in 10 ps; the trim brings it to its programmed time
plus CAL_STRBn.OFS. `gate` and `sync` are how late the drain gate's release and SYNC_OUT fall, in 10 ps, with the tick-phase compensation in
force. The 24 V switch is open during the run; its end closes it, and gives the trims, the compensation and the residual (R329, R324). -/
def State.calTiming (s : State) (late : List Int) (gate sync : Int) : State :=
  s.calGo 3 3 (fun s =>
    let trims := (List.range 8).map (fun n => toSigned 8 (s.act (R.CAL_STRBn_OFS n)) - roundDiv (late.getD n 0) 10)
    let bad := trims.any (fun v => v < -128 || 127 < v)
    let c := { s.cal with sw24 := s.on R.LAMP_STAT_SW_24V, trimRes := if bad then [] else trims }
    let s1 := { s with cal := { c with tph := phaseLeft gate sync, phRes := c.tickPh + phaseMove gate sync } }
    (s1.put R.LAMP_STAT_SW_24V 0).calOutcome (if bad then 11 else 0) 0 none false)

def execCalTiming (late : List Int) (gate sync : Int) (s : State) : Host.Outcome State Fault Refusal :=
  .next (s.calTiming late gate sync)

/-- `CAL_LOAD`: the set at CAL_BUF is checked, then applied. -/
def State.calLoad (s : State) : State :=
  s.calGo 4 4 (fun s =>
    let a := s.calBuf
    let n := setSize (leNat (s.bytes (a + 0x24) 1))
    let c := s.readSet a
    let gBad := c.g.any (fun (_, v) => v < 15565 || 17203 < v)
    let code := if a % 4096 ≠ 0 || !inDdr a n || s.poisoned a n then 12 else if !s.setOk a || gBad then 9
      else if leNat (s.bytes (a + 8) 8) ≠ s.serial then 8 else 0
    (if a % 4096 ≠ 0 || !inDdr a n then s else s.ddrRead a n).calOutcome code 0 (some c) false)

def execCalLoad (s : State) : Host.Outcome State Fault Refusal := .next s.calLoad

/-- `CAL_APPLY`: the set at CAL_BUF is applied. -/
def State.calApply (s : State) : State :=
  s.calGo 5 4 (fun s =>
    let a := s.calBuf
    let n := setSize (leNat (s.bytes (a + 0x24) 1))
    let out : Bool := a % 4096 ≠ 0 || !inDdr a n
    (if out then s else s.ddrRead a n).calOutcome (if out || s.poisoned a n then 12 else 0) 0 (some (s.readSet a)) false)

def execCalApply (s : State) : Host.Outcome State Fault Refusal := .next s.calApply

/-- `CAL_ABORT`. -/
def execCalAbort (s : State) : Host.Outcome State Fault Refusal := .next (if s.served 0x027 then s.calAbort.put R.CAL_CMD_OP 6 else s)

/-- The trims of a TIMING run take effect at the next tick boundary. -/
def State.trimForce (s : State) : State :=
  if s.cal.trims.isEmpty then s
  else
    let s1 := (s.cal.trims.zipIdx).foldl (fun s (v, n) => s.put (R.CAL_STRBn_TRIM n) (ofSigned 8 v)) s
    { s1 with cal := { s1.cal with base := s.cal.trims, trims := [], drift := [] } }

/-- A measured set goes to CAL_BUF, where that lies in DDR4; the flat-field residual of a WHITE run with it (R322, R324). -/
def State.calKeep (s : State) : State :=
  match s.cal.result with
  | none => s
  | some c =>
    let s1 := if s.cal.store && s.bufOk c.slots then s.setBytes s.calBuf (s.setBytesOf c) else s
    if s.cal.run = 2 then s1.put R.CAL_FF_RES_RES c.ff else s1

/-- A passed run takes effect at the next boundary: a set by LOAD or APPLY, or with AUTO_APPLY; the trims and the residual of TIMING. -/
def State.calTakeEffect (s : State) : State :=
  if s.cal.run = 3 then
    let s1 := State.put { s with cal := { s.cal with trims := s.cal.trimRes, tickPh := s.cal.phRes } } R.CAL_TPH_PS (ofSigned 16 s.cal.tph)
    if s1.readoutIdle then s1.trimForce else s1
  else
    match s.cal.result with
    | some c => if s.cal.run = 4 || s.on R.CAL_CTRL_AUTO_APPLY then s.applySet c else s
    | none => s

/-- The code of a run that ends: BUFFER where a measured set has no place at CAL_BUF (Table 13-6). -/
def State.calCode (s : State) : Nat :=
  match s.cal.result with
  | some c => if s.cal.store && !s.bufOk c.slots && (s.cal.code = 0 || 12 < s.cal.code) then 12 else s.cal.code
  | none => s.cal.code

/-- `CAL_RUN_DONE`: the run ends with its code; a set measured is written to CAL_BUF, and what passed is applied. -/
def State.calRunDone (s : State) : State :=
  if s.cal.run = 0 then s
  else
    let code := s.calCode
    let s1 := s.calKeep
    (if code = 0 then s1.calTakeEffect else s1).calEnd code

def execCalRunDone (s : State) : Host.Outcome State Fault Refusal := .next s.calRunDone

/-! ## Drift and starvation (R330, R313) -/

/-- `DRIFT_TRACK`: 10 ms after the last measurement, the movement, in 10 ps, that the replica calls for since the last TIMING run, per channel;
beyond 2 ns it is marked. The trims follow at the boundaries, one step each. A TIMING run has the drivers to itself (R312). -/
def State.driftTrack (s : State) (drift : List Int) : State :=
  if !s.on R.CAL_CTRL_BG_EN || !s.dom dSUPV || s.cal.run = 3 then s
  else
    let s0 := s.at (s.cal.driftAt + 10 * msClk)
    let s1 := State.bgProgress { s0 with cal := { s0.cal with drift := drift.take 8, driftAt := s0.now } } 1
    (List.range 8).foldl (fun s n =>
      if 200 < absI (drift.getD n 0) && !s.on (R.CAL_STRBn_DRIFT n) then (s.put (R.CAL_STRBn_DRIFT n) 1).raise E.CAL_DRIFT else s) s1

def execDriftTrack (drift : List Int) (s : State) : Host.Outcome State Fault Refusal := .next (s.driftTrack drift)

/-- One step of 100 ps per channel towards the tracked trim (R330). -/
def State.driftStep (s : State) : State :=
  if s.cal.drift.isEmpty || !s.on R.CAL_CTRL_BG_EN || s.cal.run = 3 then s
  else (List.range 8).foldl (fun s n =>
    let want := clampI (-128) 127 (s.cal.base.getD n 0 + roundDiv (s.cal.drift.getD n 0) 10)
    let cur := toSigned 8 (s.get (R.CAL_STRBn_TRIM n))
    s.put (R.CAL_STRBn_TRIM n) (ofSigned 8 (if cur < want then cur + 1 else if want < cur then cur - 1 else cur))) s

/-- What calibration does at a tick boundary: trims, the set, hand-backs (R317, R328–R330). -/
def State.calBoundary (s : State) : State := s.trimForce.driftStep.setForce.calTakeover

/-- Is a background activity at work: converter cycle, drift tracking, compaction, scrubbing (R312)? -/
def State.bgActive (s : State) (act : Nat) : Bool :=
  if act = 0 then s.on R.CAL_CTRL_BG_EN && s.on R.CAL_STAT_PASS_ACTIVE
  else if act = 1 then s.on R.CAL_CTRL_BG_EN
  else if act = 2 then s.nvs.compacting
  else s.on R.MEM_CTRL_SCRUB_EN

/-- Can an activity be starved: the converter cycle only where the row clock stands still, or RUN is not admissible (R313, R349)? -/
def State.canStarve (s : State) (act : Nat) : Bool :=
  s.bgActive act && (act ≠ 0 || !s.rowRuns || !s.runAdmissible)

/-- Run time in 5 ns that an activity has been without progress. -/
def State.bgIdle (s : State) (act : Nat) : Nat := s.runTime - mapGet 0 s.cal.bgAt act

/-- `BG_STARVED`: no progress for 10 s of run time, at the time when they are over; compaction also reports it in NVS_STAT (R313, R264). -/
def State.bgStarved (s : State) (act : Nat) : State :=
  let f : Fld := ⟨R.CAL_BG_STAT_STARVED.reg, act, 1⟩
  if !s.inRun || !s.canStarve act || s.on f then s
  else
    let s1 := ((s.at (s.now + (10 * secClk - s.bgIdle act))).put f 1).raise E.CAL_STARVED
    if act = 2 then (s1.put R.NVS_STAT_STARVED 1).raise E.NVS_STARVED else s1

def execBgStarved (act : Fin 4) (s : State) : Host.Outcome State Fault Refusal := .next (s.bgStarved act.val)

end Sys2Proof.Machine
end

