-- ==== Sys2Proof/Machine/Readout.lean ====
section
/-! DEFINITION. Readout: the banks' schedule (R59–R62), the digital correction of a row (R65–R67), the stackers' store (R72–R76), area
frames (R239). -/
namespace Sys2Proof.Machine

/-! ## Banks -/

/-- The bank of a row, dark rows included (R4, R35). -/
def bankOfRow (r : Nat) : Nat :=
  if r < 2048 then rowBank r else if r < 2056 then 2 + r % 2 else r % 2

/-- A phase of the old grid on a grid that starts `dt` later, rounded up to the next row phase (R121). -/
def regrid (old new : Frac) (dt : Nat) (p : Int) : Int :=
  let n := (p * old.num - dt * (max 1 old.den : Nat)) * (new.den : Int)
  let d := (max 1 old.den : Nat) * (max 1 new.num : Nat)
  Int.neg (Int.neg n / (d : Int))

/-- The first unit-clock edge of the present grid at or after a tick edge, in 5 ns steps (R121; DESIGN CHOICE, log 133). -/
def Readout.gridStart (r : Readout) (e : Nat) : Nat :=
  if r.phase.num = 0 || r.phase.den = 0 then e
  else
    let k := ceilDiv ((e - r.gridEdge) * 5 * r.phase.den) r.phase.num
    max e (r.gridEdge + ceilDiv (k * r.phase.num) (5 * r.phase.den))

/-- The row-phase grid restarts at a tick edge e with a row phase of the given length, and the rows of the line before join each
bank's queue. CLAMP_RANGE counts anew: a row whose conversion ends after the edge counts for the new tick (DESIGN CHOICE, log 121). -/
def State.gridRestart (s : State) (e : Nat) (phase : Frac) : State :=
  let old := s.rdo.phase
  let g := s.rdo.gridStart e
  let carry (p : Int) : Int := if old.den = 0 then 0 else regrid old phase (g - s.rdo.gridEdge) p
  let bank (b : Nat) : BankRun :=
    let x := s.bankRun b
    { rows := x.rows ++ s.rdo.next.filter (fun r => bankOfRow r.row = b), t := max 0 (carry x.t), free := x.free.map carry
      cend := carry x.cend, held := x.held.map (fun (h : HeldRow) => { h with cend := carry h.cend }) }
  { s with rdo := { s.rdo with
      banks := (List.range 4).map bank, gridEdge := g, edge := e, phase := phase, next := []
      rd := if s.rdo.next.isEmpty then s.rdo.rd else [], clampTold := false } }

/-- The index of the first least entry. -/
def argMin : List Int → Nat
  | [] => 0
  | [_] => 0
  | x :: y :: rest => let i := argMin (y :: rest); if x ≤ (y :: rest).getD i x then 0 else i + 1

/-- `ROW_SAMPLE`: the bank's next row is sampled in the first row phase in which the row before has been sampled and a hold
capacitor is free (R62). Nothing is sampled while the row clock stands still. -/
def State.rowSample (s : State) (b : Nat) : State :=
  let x := s.bankRun b
  if !s.rowRuns then s else
  match x.rows with
  | [] => s
  | r :: rest =>
    let c := argMin x.free
    let p := max x.t (x.free.getD c 0)
    let t := p + 1
    let cend := max t x.cend + 4
    let e := s.phaseTime t
    let s1 := s.at e
    let tap := mapGet {} s1.exp.taps (2 * r.tap + r.rowset)
    let held : HeldRow := { job := r, cend := cend, hold := e - tap.since }
    let s2 := s1.setBankRun b { x with rows := rest, t := t, free := x.free.set c cend, cend := cend, held := x.held ++ [held] }
    let rel := e - s2.rdo.edge
    let m := max (mapGet 0 s2.rdo.rd r.slot) rel
    let s3 := { s2 with rdo := { s2.rdo with rd := mapIns s2.rdo.rd r.slot m } }
    let more := s3.rdo.banks.any (fun y => y.rows.any (fun q => q.slot = r.slot && q.tickno = r.tickno))
    (if more then s3 else s3.put (R.EXP_SLOTk_MON_RD_TIME r.slot) (min 0x3FFFFF m)).slackWith r.tickno
      (fun q => { q with rdLeft := q.rdLeft - 1, lastRd := max q.lastRd rel })

def execRowSample (b : Fin 4) (s : State) : Host.Outcome State Fault Refusal := .next (s.rowSample b.val)

/-! ## Digital correction (Table 3-3) -/

def CalView.convAt (v : CalView) (k : Nat) : Conv := mapGet {} v.conv k
def CalView.spareAt (v : CalView) (b sh : Nat) : Spare := mapGet {} v.spare (b * 192 + sh)

/-- The Shingle whose owned columns hold a position; dark columns belong to the outer Shingles. -/
def shingleOfPos (p : Nat) : Nat := if p < 16 then 0 else min 191 ((p - 16) / 128)

/-- The converter key that serves a position in a bank: the position's own, or the spare's that covers it (R59, R320). -/
def CalView.serving (v : CalView) (b pos : Nat) : Nat :=
  let sh := shingleOfPos pos
  let x := v.spareAt b sh
  let covers : Bool := match x.parked with
    | some p => p = pos
    | none => 0 < x.idx && !x.done && !x.dead && posAt sh (x.idx - 1) = pos
  if covers then spareKey b sh else convKey b pos

/-- A weight of a converter in 1/16 LSB: its nominal value and what it differs by. The specification gives no nominal weights: they are
a constant of Config (log 119). -/
def Conv.weight (c : Conv) (i : Nat) : Int := (Config.weightNominal i : Int) + c.weights.getD i 0

/-- Step 1: the sum of the decisions, bit i decision i, times the converter's weights, in 1/16 LSB. -/
def Conv.resolve (c : Conv) (d : Nat) : Int := (bitsOf 14 d).foldl (fun v i => v + c.weight i) 0

/-- A field of a row's RDO_CORR word. -/
def RowJob.corrOn (j : RowJob) (f : Fld) : Bool := bits j.corr f.lo f.w = 1

/-- Steps 1 to 3 for a row's decisions on a converter, in units of 1/256,000,000 LSB. -/
def RowJob.corr3 (j : RowJob) (c : Conv) (d : Nat) : Int :=
  (16 * c.resolve d - (if j.corrOn R.RDO_CORR_OFS_EN then c.ofsCoef else 0)) *
    (1000000 + (if j.corrOn R.RDO_CORR_GAIN_EN then c.gainCoef else 0))

/-- The dark column positions whose converters convert under BIN. -/
def darkLeaders (bin : Nat) : List Nat :=
  ((List.range 16) ++ (List.range 16).map (· + 24592)).filter (fun p => p % bin = 0)

/-- What the converters deliver for one row: the 14 decisions of every position not listed, and those of the listed positions. -/
structure RawRow where
  rest : Nat := 0
  cols : List (Nat × Nat) := []
  deriving DecidableEq, Repr

def RawRow.at (x : RawRow) (p : Nat) : Nat :=
  match x.cols.find? (fun (q, _) => q = p) with
  | some (_, v) => v
  | none => x.rest

/-- The raw 12-bit code of a conversion: the resolved decisions in whole LSB, within 0 to 4,095 (R67; DESIGN CHOICE, log 147: the
specification does not say how the code follows from the 14 decisions). -/
def Conv.rawCode (c : Conv) (d : Nat) : Nat := (clampI 0 4095 (c.resolve d / 16)).toNat

/-- The row's clamp value relative to the bank's calibrated dark level, as numerator over `count`, in units of 1/256,000,000 LSB;
clipped to ±32 LSB, with the mark that it was (R66). -/
def CalView.clampOf (v : CalView) (b : Nat) (j : RowJob) (x : RawRow) : Int × Nat × Bool :=
  let vs := (darkLeaders (max 1 j.bin)).map (fun p => j.corr3 (v.convAt (v.serving b p)) (x.at p))
  let hi := vs.foldl max (vs.headD 0)
  let lo := vs.foldl min (vs.headD 0)
  let n := vs.length - 2
  let c := vs.foldl (· + ·) 0 - hi - lo - (n : Int) * (16000000 * (v.force.dark.getD b 0 : Nat))
  let lim : Int := (n : Int) * 8192000000
  (clampI (-lim) lim c, n, c < -lim || lim < c)

/-- Steps 4 to 7 for one position: the sample word, with SAT where the raw code is at full scale (R67). A half of round(8 · v) goes up (DESIGN CHOICE, log 120). -/
def corrWord (scale : Nat) (h : HeldRow) (clamp : Int × Nat) (v3 : Int) (d g code : Nat) : Nat :=
  let n : Int := clamp.2
  let v4 := v3 * n - (if h.job.corrOn R.RDO_CORR_CLAMP_EN then clamp.1 else 0)
  let gain := if h.job.gain = 3 then 1 else 2 ^ h.job.gain
  let v5 := v4 * 10944 - (if h.job.corrOn R.RDO_CORR_DARK_EN then n * ((scale * h.hold * d * gain : Nat) : Int) else 0)
  let v6 := v5 * (if h.job.corrOn R.RDO_CORR_TAPG_EN then (g : Int) else 16384)
  let w := clampI 0 32767 (roundDiv (8 * v6) (clamp.2 * 10944 * 16384 * 256000000) + 512)
  w.toNat + (if code = 4095 then 32768 else 0)

/-- The calibration that a held row's conversion uses. -/
def State.viewOf (s : State) (h : HeldRow) : CalView := h.cal.getD s.calView

/-- The corrected row: the word of every position that is not listed, and the listed ones. Under BIN the converter of a group's
lowest column converts for the whole group. -/
def State.corrRow (s : State) (b : Nat) (h : HeldRow) (x : RawRow) : RowData :=
  let view := s.viewOf h
  let scale := s.darkScale view.tb
  let bin := max 1 h.job.bin
  let (cl, n, _) := view.clampOf b h.job x
  let lead (p : Nat) : Nat := p - p % bin
  let word (p : Nat) : Nat :=
    let d := x.at p
    let c := view.convAt (view.serving b p)
    corrWord scale h (cl, n) (h.job.corr3 c d) (mapGet 0 view.force.d (2 * p + h.job.tap))
      (mapGet 16384 view.force.g (2 * p + h.job.tap)) (c.rawCode d)
  let rest := corrWord scale h (cl, n) (h.job.corr3 {} x.rest) 0 16384 (Conv.rawCode {} x.rest)
  let convs := (view.conv.map Prod.fst).filterMap (fun k =>
    if b * positions ≤ k && k < (b + 1) * positions then some (lead (k - b * positions)) else none)
  let covered := (List.range 192).filterMap (fun sh =>
    let y := view.spareAt b sh
    match y.parked with
    | some p => some (lead p)
    | none => if 0 < y.idx && !y.done && !y.dead then some (lead (posAt sh (y.idx - 1))) else none)
  let tabs := ((view.force.d.map Prod.fst) ++ (view.force.g.map Prod.fst)).filterMap (fun k =>
    if k % 2 = h.job.tap then some (lead (k / 2)) else none)
  let keys := x.cols.map (fun (p, _) => lead p) ++ convs ++ covered ++ tabs
  { rest := rest, cols := keys.foldl (fun m p => (List.range bin).foldl (fun m i => mapSet rest m (p + i) (word p)) m) [] }

/-! ## The stackers' store (R73, R74) -/

/-- The offer of an enabled slot of a bank. -/
def State.offerOf (s : State) (x k : Nat) : Offer :=
  { slot := k, tap := s.slotTap x k, rowset := s.slotRowset x k, period := s.get (R.EXP_x_SLOTk_CTRL_PERIOD x k)
    bands := s.get (R.EXP_x_SLOTk_CTRL_BANDS x k), rankFirst := s.get (R.EXP_x_SLOTk_CTRL_RANK_FIRST x k), depth := s.slotDepth x k }

def Offer.row (o : Offer) (b j : Nat) : Nat := 32 * o.period + 8 * b + o.rankFirst + j
def Offer.bandList (o : Offer) : List Nat := bitsOf 4 o.bands
def Offer.rows (o : Offer) : List Nat := o.bandList.flatMap (fun b => (List.range o.depth).map (o.row b))
/-- r_ref: the offered row that the web reaches last. -/
def Offer.ref (o : Offer) (dir : Nat) : Nat := if dir = 0 then o.rows.foldl max 0 else o.rows.foldl min 4095
def Offer.delay (o : Offer) (dir r : Nat) : Nat := if dir = 0 then o.ref dir - r else r - o.ref dir

/-- The sample that row r of a pair gave in line m, where it is available. -/
def State.contribution (s : State) (dir tap rowset m r : Nat) : Option RowData :=
  match s.rdo.store.find? (fun l => l.tickno = m && l.dir = dir) with
  | none => none
  | some l =>
    match l.offers.find? (fun o => o.tap = tap && o.rowset = rowset && o.rows.contains r) with
    | none => none
    | some o => (l.rows.find? (fun (k, q, _) => k = o.slot && q = r)).map (fun (_, _, d) => d)

/-- The available contributions to band b of a slot of line n. -/
def State.bandRows (s : State) (l : StackLine) (o : Offer) (b : Nat) : List RowData :=
  (List.range o.depth).filterMap (fun j =>
    let r := o.row b j
    let d := o.delay l.dir r
    if l.tickno < d then none else s.contribution l.dir o.tap o.rowset (l.tickno - d) r)

/-- Does a slot of the line lack a contribution? -/
def State.slotGap (s : State) (l : StackLine) (o : Offer) : Bool :=
  o.bandList.any (fun b => (s.bandRows l o b).length ≠ o.depth)

def State.setStack (s : State) (n : Nat) (f : StackLine → StackLine) : State :=
  { s with rdo := { s.rdo with store := s.rdo.store.map (fun (l : StackLine) => if l.tickno = n then f l else l) } }

/-- The last contribution of a line has arrived: gaps are counted once per slot, and the Shingles of its mask can push it. -/
def State.stackDone (s : State) (n : Nat) : State :=
  match s.rdo.store.find? (fun l => l.tickno = n) with
  | none => s
  | some l =>
    let gaps := (l.offers.filter (s.slotGap l)).length
    let mask := match s.lineOf n with | none => 0 | some q => q.mask
    (s.setStack n (fun l => { l with push := mask })).raiseBy E.RDO_STACK_GAP gaps

/-- The sample word of a position. -/
def RowData.at (d : RowData) (p : Nat) : Nat := mapGet d.rest d.cols p

/-- The position of lane l of a Shingle (R129, R323). -/
def lanePos (sh l : Nat) : Nat := 128 * sh + 8 + l

/-- The stacked sample of a lane: the mean of the contributions with the pedestal kept, SAT where one of them has it (R73). -/
def stackedWord (rows : List RowData) (p : Nat) : Nat :=
  if rows.isEmpty then 512
  else
    let vs := rows.map (fun d => d.at p)
    let used := vs.length
    (vs.foldl (fun n v => n + v % 32768) 0 + used / 2) / used + (if vs.any (32768 ≤ ·) then 32768 else 0)

/-- The intake status word (Table 3-7). -/
def State.intakeStatus (s : State) (l : StackLine) (sh : Nat) : Nat :=
  l.offers.foldl (fun w o =>
    let ok := o.bandList.foldl (fun v b => if (s.bandRows l o b).length = o.depth then v + 2 ^ (4 + 4 * o.slot + b) else v) 0
    let sat := (List.range 144).any (fun i => o.bandList.any (fun b => 32768 ≤ stackedWord (s.bandRows l o b) (lanePos sh i)))
    w + 2 ^ o.slot + ok + (if sat then 2 ^ (20 + o.slot) else 0)) (l.dir * 2 ^ 24)

/-- The intake entry of a line for a Shingle. -/
def State.intakeOf (s : State) (l : StackLine) (sh : Nat) : Intake :=
  { tickno := l.tickno, status := s.intakeStatus l sh
    bands := l.offers.flatMap (fun o => o.bandList.map (fun b => { slot := o.slot, band := b, rows := s.bandRows l o b })) }

/-! ## Area frames (R239) -/

/-- The rows of an area frame in the order in which the banks take them: DN0–DN7, the active rows, DS0–DS7, by position along the array
(DESIGN CHOICE, log 122: R62 orders the rows of a pair, and names no place for dark rows). -/
def frameRows (pFirst pLast : Nat) (dark : Bool) : List Nat :=
  let d (b : Nat) : List Nat := if dark then (List.range 8).map (· + b) else []
  d 2056 ++ (List.range (32 * (pLast + 1 - pFirst))).map (· + 32 * pFirst) ++ d 2048

/-- The raw-frame entry: header (Table 10-5) and rows. -/
def FrameRun.bytes (f : FrameRun) : List Nat :=
  let rows := frameRows f.pFirst f.pLast f.dark
  let head := leBytes 2 1 ++ leBytes 1 f.pFirst ++ leBytes 1 f.pLast ++ leBytes 1 (boolNat f.dark + 2 * f.tap) ++ leBytes 1 f.bin ++
    leBytes 2 rows.length ++ leBytes 8 f.tickno ++ leBytes 4 49216 ++ leBytes 40 0
  let row (r : Nat) : List Nat :=
    match f.rows.find? (fun (q, _) => q = r) with
    | none => List.replicate 49216 0
    | some (_, d) => (List.range positions).flatMap (fun p => leBytes 2 (d.at p))
  head ++ leBytes 4 (crc32 head) ++ rows.flatMap row

/-- A frame is complete: it goes to ring 4 where DIV selects it and it fits. -/
def State.frameDone (s : State) (f : FrameRun) : State :=
  let s1 := { s with rdo := { s.rdo with frames := s.rdo.frames.filter (fun g => g.tickno ≠ f.tickno) } }
  if !f.wanted then s1
  else match s1.ringPut 4 f.bytes with
    | some s2 => s2
    | none => (s1.ringDrop 4).ringOverflow 4

/-- The number of converted rows that an area frame or a line lacks falls by one. -/
def State.rowDelivered (s : State) (h : HeldRow) (d : RowData) : State :=
  match s.rdo.frames.find? (fun f => f.tickno = h.job.tickno) with
  | some f =>
    let f1 := { f with left := f.left - 1, rows := f.rows ++ [(h.job.row, d)] }
    let s1 := { s with rdo := { s.rdo with frames := s.rdo.frames.map (fun g => if g.tickno = f.tickno then f1 else g) } }
    if f1.left = 0 then s1.frameDone f1 else s1
  | none =>
    match s.rdo.store.find? (fun l => l.tickno = h.job.tickno) with
    | none => s
    | some l =>
      let s1 := s.setStack l.tickno (fun l => { l with left := l.left - 1, rows := l.rows ++ [(h.job.slot, h.job.row, d)] })
      if l.left = 1 then s1.stackDone l.tickno else s1

/-- `ROW_CONVERSION_DONE`: the bank's oldest held row is converted and corrected, and delivered to the stackers; the conversion is
counted in the unit clock. -/
def State.rowConversion (s : State) (b : Nat) (x : RawRow) : State :=
  let r := s.bankRun b
  if !s.rowRuns then s else
  match r.held with
  | [] => s
  | h :: rest =>
    let s1 := (s.at (s.phaseTime h.cend)).setBankRun b { r with held := rest }
    let (_, _, clip) := (s1.viewOf h).clampOf b h.job x
    let s2 := if clip && !s1.rdo.clampTold then
        State.raise { s1 with rdo := { s1.rdo with clampTold := true } } E.RDO_CLAMP_RANGE
      else s1
    s2.rowDelivered h (s1.corrRow b h x)

def execRowConversionDone (b : Fin 4) (rest : Nat) (dark cols : List (Nat × Nat)) (s : State) :
    Host.Outcome State Fault Refusal :=
  .next (s.rowConversion b.val { rest := rest, cols := dark ++ cols })

/-! ## A line or a frame is exposed: what readout will take at the next edge (R43, R44, R62) -/

def binOfCode (c : Nat) : Nat := if c = 1 then 2 else if c = 2 then 4 else 1

/-- The column gain code of slot k in a bank's RDO_x_CFG. -/
def State.slotGain (s : State) (x k : Nat) : Nat := s.get ⟨(R.RDO_x_CFG_GAIN0 x).reg, 8 + 2 * k, 2⟩

/-- Rows in ascending order. -/
def sortRows (rs : List Nat) : List Nat := sortBy (fun (a b : Nat) => decide (a ≤ b)) rs

/-- The rows of a line of a bank, pair by pair. -/
def State.lineRows (s : State) (x n : Nat) : List RowJob :=
  let ks := sortBy (fun (j k : Nat) => s.slotPh x j < s.slotPh x k || (s.slotPh x j = s.slotPh x k && j ≤ k)) (s.slotsOn x)
  ks.flatMap (fun k => (sortRows (s.slotRows x k)).map (fun r =>
    { tickno := n, slot := k, tap := s.slotTap x k, rowset := s.slotRowset x k, row := r, gain := s.slotGain x k
      bin := binOfCode (s.get (R.RDO_x_CFG_BIN x)), corr := (s.actReg R.RDO_CORR_OFS_EN.reg).toNat }))

/-- A line of a bank is exposed: its rows are read at the next edge, and the stackers expect them. Lines that no later line can
need leave the store: a delay reaches up to 31 lines back from a line that is not yet stacked and pushed (R73, R74). -/
def State.lineExposed (s : State) (x n : Nat) : State :=
  let rows := s.lineRows x n
  let l : StackLine := { tickno := n, dir := s.webDir, bank := x, offers := (s.slotsOn x).map (s.offerOf x), left := rows.length }
  let open_ := s.rdo.store.filter (fun q => q.push ≠ 0 || q.left ≠ 0)
  let wanted (q : StackLine) : Bool := n < q.tickno + 33 || open_.any (fun p => p.tickno ≤ q.tickno + 31)
  { s with rdo := { s.rdo with next := s.rdo.next ++ rows, store := s.rdo.store.filter wanted ++ [l] } }

/-- The row set of an area row (dark rows are sampled with the row set next to them). -/
def rowsetOf (r : Nat) : Nat := if r < 2048 then r / 32 % 2 else if r < 2056 then 1 else 0

/-- A frame is exposed under the area values in force. -/
def State.frameExposed (s : State) (n : Nat) : State :=
  let pf := s.act R.EXP_AREA_CTRL_P_FIRST
  let pl := s.act R.EXP_AREA_CTRL_P_LAST
  let dark := s.act R.EXP_AREA_CTRL_DARK_ROWS = 1
  let rows := frameRows pf pl dark
  let bin := binOfCode (s.act R.RDO_AREA_CFG_BIN)
  let f : FrameRun := { tickno := n, pFirst := pf, pLast := pl, dark := dark, tap := n % 2, bin := bin
                        wanted := n % max 1 (s.act R.RING_RAW_CTRL_DIV) = 0, left := rows.length }
  { s with rdo := { s.rdo with
      next := s.rdo.next ++ rows.map (fun r => { tickno := n, slot := 0, tap := n % 2, rowset := rowsetOf r, row := r
                                                 gain := s.act R.RDO_AREA_CFG_GAIN0, bin := bin
                                                 corr := (s.actReg R.RDO_CORR_OFS_EN.reg).toNat })
      frames := s.rdo.frames ++ [f] } }

end Sys2Proof.Machine
end

