-- ==== Sys2Proof/Machine/Engine.lean ====
section
/-! DEFINITION. The Shingle engines around the kernel: queues, the proof window, entry and end of an invocation, registration,
watchdog, faults and release (R130–R151, R157, R168, R185–R188). -/
namespace Sys2Proof.Machine

/-! ## The engine clock (R147) -/

/-- Engine cycles in 5 ns at a clock step: 5, 4, 3, 2. -/
def stepRate (step : Nat) : Nat := 5 - step % 4

def State.shRate (s : State) (sh : Nat) : Nat := stepRate (s.stepAct (sh / 16))

/-- The module time at which n cycles have passed since the entry. -/
def Run.timeOf (r : Run) (rate n : Nat) : Nat := r.anchorT + ceilDiv (n - r.anchorC) rate

/-- The clock changes at a time: cycles run on at the new rate. -/
def Run.reAnchor (r : Run) (rate t : Nat) : Run :=
  if t ≤ r.anchorT then r else { r with anchorC := r.anchorC + (t - r.anchorT) * rate, anchorT := t }

/-! ## Trays (R130, R131) -/

def kcodeBase (x : Nat) : Nat := 0x8000 * x
def kparamBase (x : Nat) : Nat := 0x10000 + 0x2000 * x
def trayLineDesc : Nat := 0x3F000

/-- Has a line exposed under the bank before a switch still to leave the engine of a Shingle (R146)? -/
def State.oldLines (s : State) (sh x : Nat) : Bool :=
  s.lines.any (fun l => l.bank = x && l.act ≠ s.job.act && l.exposed && bit l.mask sh && !bit l.gone sh)

/-- A bank is in use in a Shingle: a line of it waits or is being judged (R131), or it is the old bank of a switch and a line of it has still to
leave (R146). -/
def State.trayInUse (s : State) (sh x : Nat) : Bool :=
  let e := s.engine sh
  let bankOf (n : Nat) : Option Nat := (s.lineOf n).map Line.bank
  e.intake.any (fun i => bankOf i.tickno = some x) || (match e.run with | some r => r.bank = x | none => false) ||
    s.oldLines sh x

/-! ## Lines leave the engine (R140) -/

/-- Shingles of a mask in a course, as the course's 16 bits. -/
def courseBits (mask c : Nat) : Nat := bits mask (16 * c) 16

/-- Does a Shingle of a course hold an output entry of the line? -/
def State.courseOut (s : State) (c n : Nat) : Bool :=
  (List.range 16).any (fun i => (s.engine (16 * c + i)).out.any (fun o => o.tickno = n))

/-- A Shingle has delivered the line, as an output entry or as a drop token; a course that delivers only tokens forms no slice. -/
def State.leave (s : State) (sh n : Nat) (token : Bool) : State :=
  let c := sh / 16
  let s1 := s.setLine n (fun l => { l with gone := l.gone ||| 2 ^ sh, handled := if token then l.handled ||| 2 ^ sh else l.handled })
  let s2 := s1.put64 (R.SH_DONE_LO_TICKNO sh) (R.SH_DONE_HI_TICKNO sh) n
  let all := match s2.lineOf n with | none => false | some l => courseBits l.gone c = courseBits l.mask c
  let s3 := if all && !s2.courseOut c n then s2.setLine n (fun l => { l with pendCourses := maskSub l.pendCourses (2 ^ c) }) else s2
  s3.linesSettle

/-- A Shingle gives up a line for a reason: the drop token leaves behind the line being judged. -/
def State.giveUp (s : State) (sh n reason : Nat) : State :=
  let s1 := s.addReport n reason (2 ^ sh)
  let e := s1.engine sh
  if e.run.isSome then s1.setEngine sh { e with leaving := e.leaving ++ [n] } else s1.leave sh n true

/-- The tokens that waited for the invocation leave. -/
def State.leaveRest (s : State) (sh : Nat) : State :=
  let e := s.engine sh
  e.leaving.foldl (fun s n => s.leave sh n true) (s.setEngine sh { e with leaving := [] })

/-- A line lost as OVERRUN (R136, R141, R142). -/
def State.overrun (s : State) (sh n : Nat) : State :=
  ((s.bump (R.SH_OVR_CNT_COUNT sh)).raise (E.SH_OVERRUN sh)).giveUp sh n rcOVERRUN

/-! ## Faults and release (R142, R143) -/

def faultSum (sh : Nat) : Fld := ⟨(R.ENGG_FAULT_SUMw_SHINGLE (sh / 32)).reg, sh % 32, 1⟩

/-- A faulted engine is released. RESTART acts on a faulted engine only, and HALT lets an invocation go on (R143): neither frees a line that a
never-ending kernel holds with WDOG = 0, of which R17 says the host may (DEDUCED, log 154). -/
def State.release (s : State) (sh : Nat) : State :=
  let e := s.engine sh
  if !e.faulted then s
  else (((s.setEngine sh { e with faulted := false, restarted := true, initAct := none }).put (R.SH_FAULT_CODE sh) 0).put (faultSum sh) 0).shShow sh

/-- `ENGINE_RESTART`: a write of 1 to SH_CTRL.RESTART. -/
def execEngineRestart (sh : Fin 192) (s : State) : Host.Outcome State Fault Refusal :=
  .next (if s.served (0x200 + sh.val) then s.release sh else s)

/-- `ENGINE_HALT`: a write of SH_CTRL; its other fields are written with HALT. -/
def execEngineHalt (sh : Fin 192) (v : Word) (s : State) : Host.Outcome State Fault Refusal :=
  .next (if s.served (0x200 + sh.val) then
      (((s.put (R.SH_CTRL_HALT sh) (v.toNat / 2)).put (R.SH_CTRL_MON_FREEZE sh) (v.toNat / 512)).put (R.SH_CTRL_WSHIFT sh) (v.toNat / 4096)).shShow sh
    else s)

/-- Monitor m of a Shingle (R151). -/
def shMon (sh m : Nat) : Mon := ⟨R.SH_MONm_MIN_VAL sh m, R.SH_MONm_MAX_VAL sh m, (R.SH_MONm_BINi_COUNT sh m 0).reg⟩

/-- `SH_MON_CLR`. -/
def execShMonClr (sh : Fin 192) (s : State) : Host.Outcome State Fault Refusal :=
  .next (if s.served (0x200 + sh.val) then (s.monClear (shMon sh 0)).monClear (shMon sh 1) else s)

/-! ## Intake (R136) -/

/-- Lines that wait are discarded where a test says so, oldest first. -/
def State.discardIf (s : State) (sh : Nat) (f : Nat → Bool) : State :=
  let e := s.engine sh
  let s1 := s.setEngine sh { e with intake := e.intake.filter (fun i => !f i.tickno) }
  ((e.intake.filter (fun i => f i.tickno)).map Intake.tickno).foldl (fun s n => s.overrun sh n) s1

/-- The first line of a bank made active after the fault releases the engine; lines of the old bank are discarded. -/
def State.releaseBy (s : State) (sh : Nat) (l : Line) : State :=
  let e := s.engine sh
  if e.faulted && e.faultAct < l.act then
    (s.discardIf sh (fun n => match s.lineOf n with | some q => q.act ≠ l.act | none => true)).release sh
  else s

/-- The Shingle's stacker pushes its oldest completed line; with four entries occupied the oldest waiting line is
discarded first. -/
def State.intakePush (s : State) (sh : Nat) : State :=
  match s.rdo.store.find? (fun l => bit l.push sh) with
  | none => s
  | some q =>
    match s.lineOf q.tickno with
    | none => s.setStack q.tickno (fun l => { l with push := maskSub l.push (2 ^ sh) })
    | some l =>
      if !s.shOn sh then s.setStack q.tickno (fun l => { l with push := maskSub l.push (2 ^ sh) })
      else
        let s1 := (s.setStack q.tickno (fun l => { l with push := maskSub l.push (2 ^ sh) })).releaseBy sh l
        let e := s1.engine sh
        let s2 :=
          if e.intake.length + boolNat e.run.isSome < 4 then s1
          else match e.intake with
            | [] => s1
            | i :: rest => (s1.setEngine sh { e with intake := rest }).overrun sh i.tickno
        let e2 := s2.engine sh
        (s2.setEngine sh { e2 with intake := e2.intake ++ [s2.intakeOf q sh] }).shShow sh

/-! ## Registration (R184, R186–R188) -/

def State.regOf (s : State) (sh : Nat) : Registration := mapGet {} s.job.reg sh
def State.setReg_ (s : State) (sh : Nat) (r : Registration) : State := { s with job := { s.job with reg := mapSet {} s.job.reg sh r } }

/-- The first activation since when the switches up to a line's have kept a Shingle's registration (R184). -/
def keptFrom (keepAct : Nat) (cut : SMap Nat) (sh : Nat) : Nat := max keepAct (mapGet 0 cut sh)

/-- The registration that a line of a Shingle meets: a switch starts it UNQUAL with no offset unless it keeps it, a re-registration
event sends it back. -/
def regFor (r : Registration) (l : Line) (from_ : Nat) : Registration :=
  let r1 := if r.act = l.act then r else if from_ ≤ r.act then { r with act := l.act } else { act := l.act }
  if r1.reregNo < l.reregNo then { r1 with state := 1, along := 0, qual := 0, low := 0, reregNo := l.reregNo } else r1

/-- Is a change from one state to the next a loss within the bank? -/
def regLost (a b : Registration) : Bool := 2 ≤ a.state && b.state = 1

/-- The report of a registration block: ALONG, CONF, ACROSS. -/
structure RegReport where
  along : Int := 0
  conf : Nat := 0
  across : Int := 0
  given : Bool := false
  deriving DecidableEq, Repr

def regReport (o : Option (List Nat)) : RegReport :=
  match o with
  | none => {}
  | some b => { along := toSigned 8 (leNat (b.take 1)), conf := leNat ((b.drop 1).take 1), across := toSigned 16 (leNat ((b.drop 2).take 2))
                given := true }

/-- The state after a line's report (Table 8-6). -/
def regStep (r : Registration) (q : RegReport) (confMin qualN coastN : Nat) : Registration :=
  let good := decide (confMin ≤ q.conf)
  let range := q.given && (2048 < q.across.natAbs || 64 < q.along.natAbs)
  let alongC := clampI (-64) 64 q.along
  let near := (q.along - r.prevAlong).natAbs ≤ 1 && (q.across - r.prevAcross).natAbs ≤ 256
  let moved := q.given && (r.state = 1 || good || range)
  let r1 := { r with conf := q.conf, along := if moved then alongC else r.along, across := if q.given then q.across else r.across
                     prevAlong := if q.given then q.along else r.prevAlong, prevAcross := if q.given then q.across else r.prevAcross }
  if range then { r1 with state := 1, qual := 0, low := 0 }
  else if r.state = 1 then
    if good then
      let n := if 0 < r.qual && near then r.qual + 1 else 1
      if max 1 qualN ≤ n then { r1 with state := 2, qual := 0, low := 0 } else { r1 with qual := n }
    else { r1 with qual := 0 }
  else if good then { r1 with state := 2, low := 0 }
  else
    let n := r.low + 1
    if max 1 coastN ≤ n then { r1 with state := 1, qual := 0, low := 0 } else { r1 with state := 3, low := n }

/-- JOB_REGs follows a registration. -/
def State.regShow (s : State) (sh : Nat) (on : Bool) : State :=
  let r := s.regOf sh
  (((s.put (R.JOB_REGs_CONF sh) r.conf).put (R.JOB_REGs_ALONG sh) (ofSigned 8 r.along)).put (R.JOB_REGs_ACROSS sh)
    (ofSigned 13 r.across)).put (R.JOB_REGs_STATE sh) (if on then r.state else 0)

/-- JOB_REGs shows what a Shingle of bank x, made active last, has (R188): off outside the mask and without REG_EN; what it has kept or what
its lines have reported; else UNQUAL with no offset. -/
def State.regSync (s : State) (x sh : Nat) : State :=
  if !(s.on (R.JOB_x_CFG_REG_EN x) && s.inMask x sh) then s.setReg (R.JOB_REGs_STATE sh).reg 0
  else if keptFrom s.job.keepAct s.job.keepCut sh ≤ (s.regOf sh).act then s.regShow sh true
  else s.setReg (R.JOB_REGs_STATE sh).reg 0x20000000

/-- The prefetched proof entries are discarded: the window moves by more than one line (R187). -/
def State.proofDiscard (s : State) (sh : Nat) : State := s.setEngine sh { s.engine sh with proof := [] }

/-- A line's report is taken: the registration after it. JOB_REGs is the active bank's, whose bank the line may no longer be. -/
def State.register (s : State) (sh : Nat) (l : Line) (o : Option (List Nat)) : State :=
  let x := l.bank
  if !s.on (R.JOB_x_CFG_REG_EN x) then s
  else
    let r0 := s.regOf sh
    let r1 := regFor r0 l (keptFrom l.keepAct l.keepCut sh)
    let r2 := regStep r1 (regReport o) (s.get (R.JOB_x_REGQ_CONF_MIN x)) (s.get (R.JOB_x_REGQ_QUAL_N x)) (s.get (R.JOB_x_REGQ_COAST_N x))
    let lost := (r0.act = l.act && regLost r0 r1) || regLost r1 r2
    let s0 := if 1 < (r2.along - r1.along).natAbs then s.proofDiscard sh else s
    let s1 := match s.job.active with | none => (s0.setReg_ sh r2).regShow sh true | some a => (s0.setReg_ sh r2).regSync a sh
    if lost then s1.raise E.JOB_QUAL_LOST else s1

/-! ## The proof window (R138, R185) -/

/-- The along-web offset that a line of a Shingle meets. -/
def State.alongFor (s : State) (sh : Nat) (l : Line) : Int :=
  if s.on (R.JOB_x_CFG_REG_EN l.bank) then (regFor (s.regOf sh) l (keptFrom l.keepAct l.keepCut sh)).along else 0

def State.proofWrap (s : State) (x : Nat) : Bool := s.on (R.JOB_x_CFG_WRAP x)
def State.proofLines (s : State) (x : Nat) : Nat := s.get (R.JOB_x_PROOF_LINES_LINES x)

/-- A proof line number as the window names it: reduced with WRAP = 1. -/
def State.proofKey (s : State) (x : Nat) (p : Int) : Int :=
  if s.proofWrap x && 0 < s.proofLines x then p % (s.proofLines x : Int) else p

/-- PROOF_LINE of a line. -/
def State.proofLineOf (s : State) (sh : Nat) (l : Line) : Int := s.proofKey l.bank (l.lineInRep + s.alongFor sh l)

/-- The three window lines of a line, and a line's lines from a to b past its centre. -/
def State.proofSpan (s : State) (sh : Nat) (l : Line) (a b : Int) : List (Nat × Nat × Int) :=
  let c := s.proofLineOf sh l
  (List.range (b - a + 1).toNat).map (fun (i : Nat) => (l.bank, l.proof, s.proofKey l.bank (c + a + (i : Int))))

def ProofEntry.is (e : ProofEntry) (k : Nat × Nat × Int) : Bool := e.bank = k.1 && e.base = k.2.1 && e.line = k.2.2

/-- The lines that the Shingle has still to enter, oldest first. -/
def State.linesAhead (s : State) (sh : Nat) : List Line :=
  let e := s.engine sh
  s.lines.filter (fun l => l.exposed && bit l.mask sh && !bit l.gone sh && !e.leaving.contains l.tickno &&
    (match e.run with | some r => r.line.tickno ≠ l.tickno | none => true))

/-- The proof lines wanted, the nearest first: each line's window, then up to five lines past the last (R138). -/
def State.proofWanted (s : State) (sh : Nat) : List (Nat × Nat × Int) :=
  let ls := s.linesAhead sh
  let wins := ls.flatMap (fun l => s.proofSpan sh l (-1) 1)
  let more := match ls.getLast? with | none => [] | some l => s.proofSpan sh l 2 6
  (wins ++ more).eraseDups

/-- Entries that no future window can include are released; one line behind the window is kept (R187). -/
def State.proofPrune (s : State) (sh : Nat) : State :=
  let e := s.engine sh
  let behind := match s.linesAhead sh with | [] => [] | l :: _ => s.proofSpan sh l (-2) (-2)
  let keep := behind ++ s.proofWanted sh
  s.setEngine sh { e with proof := e.proof.filter (fun p => keep.any p.is) }

/-- `INTAKE_PUSH`: lines that it discards need no proof lines any more (R135). -/
def execIntakePush (sh : Fin 192) (s : State) : Host.Outcome State Fault Refusal :=
  let s1 := s.intakePush sh
  .next (if s1.shOn sh then (s1.proofPrune sh.val).shShow sh else s1)

/-- The 576 bytes of a proof line that a Shingle sees: columns 128·s − 8 to 128·s + 135, four bytes each; others read 0. -/
def State.proofData (s : State) (sh base : Nat) (p : Nat) : List Nat :=
  (List.range 144).flatMap (fun i =>
    let c : Int := (128 * sh + i : Nat) - (8 : Int)
    if c < 0 || 24575 < c then [0, 0, 0, 0] else s.bytes (base * 4096 + 98304 * p + 4 * c.toNat) 4)

/-- A read's latency enters the monitor of every DDR4 channel that it touches (Table 17-4). -/
def State.ddrLatency (s : State) (lo n lat : Nat) : State :=
  if s.on R.SYS_MON_CTRL_FREEZE then s
  else
    let blocks := (List.range (((lo + n - 1) / 256 + 1) - lo / 256)).map (· + lo / 256)
    blocks.foldl (fun s k => s.monEnter (sysMon (k % 4)) (8 * 2 ^ (min 11 (s.get R.SYS_MON_CTRL_WSHIFT))) lat) s

/-- `PROOF_LINE_FETCH`: the nearest proof line wanted and not held enters the proof queue. A poisoned beat makes it absent (R230). -/
def State.proofFetch (s : State) (sh lat : Nat) : State :=
  if !s.shOn sh || !s.dom dDDR then s
  else
    let s1 := s.proofPrune sh
    let e := s1.engine sh
    match (s1.proofWanted sh).find? (fun k => !e.proof.any (fun p => p.is k)) with
    | none => s1.shShow sh
    | some (x, base, p) =>
      if 8 ≤ e.proof.length then s1.shShow sh
      else
        let out : Bool := p < 0 || (s1.proofLines x : Int) ≤ p
        let lo := base * 4096 + 98304 * p.toNat + 4 * (128 * sh - 8)
        let n := 4 * (min 24576 (128 * sh + 136) - (128 * sh - 8))
        let bad := !out && s1.poisoned lo n
        let q : ProofEntry := { bank := x, base := base, line := p, absent := out || bad
                                data := if out || bad then [] else s1.proofData sh base p.toNat }
        let s2 := s1.setEngine sh { e with proof := e.proof ++ [q] }
        (if out then s2 else (s2.ddrRead lo n).ddrLatency lo n lat).shShow sh

def execProofLineFetch (sh : Fin 192) (lat : Nat) (s : State) : Host.Outcome State Fault Refusal := .next (s.proofFetch sh lat)

/-- The window of a line, where all of it is held. -/
def State.windowOf (s : State) (sh : Nat) (l : Line) : Option (List ProofEntry) :=
  let e := s.engine sh
  let found := (s.proofSpan sh l (-1) 1).filterMap (fun k => e.proof.find? (fun p => p.is k))
  if found.length = 3 then some found else none

/-! ## Entry (R132, R137, R146, R157) -/

/-- Must the bank's INIT run before the line? -/
def State.initWanted (s : State) (sh : Nat) (l : Line) : Bool :=
  s.on (R.ENGG_x_INIT_EN l.bank) && (s.engine sh).initAct ≠ some l.act

/-- The line whose entry conditions hold, with its window. -/
def State.entryLine (s : State) (sh : Nat) : Option (Intake × Line × List ProofEntry) :=
  let e := s.engine sh
  if !s.shOn sh || e.faulted || e.run.isSome || s.on (R.SH_CTRL_HALT sh) then none
  else match e.intake with
    | [] => none
    | i :: _ => match s.lineOf i.tickno with
      | none => none
      | some l => if l.stage < 2 then none else (s.windowOf sh l).map (fun w => (i, l, w))

/-- BUDGET at an entry (Table 6-2): cycles to the deadline. -/
def State.budgetAt (s : State) (sh : Nat) (l : Line) (t : Nat) : Int :=
  let k := s.shRate sh
  if 3 ≤ l.stage then -(((t - l.edge3) * k : Nat) : Int)
  else
    let f := s.tick.tpred
    let d : Int := ((l.edge2 * max 1 f.den + (if f.den = 0 then 0 else f.num) : Nat) : Int) - (t * max 1 f.den : Nat)
    d * k / (max 1 f.den : Nat)

/-- The line descriptor (Table 6-2). -/
def State.lineDesc (s : State) (sh : Nat) (l : Line) (i : Intake) (w : List ProofEntry) (init : Bool) (budget : Int) (gap : Nat) : List Nat :=
  let e := s.engine sh
  let flags := l.bank + boolNat init * 2 + boolNat l.first * 4 + boolNat l.repStart * 8 + boolNat l.sheet * 16 + boolNat e.restarted * 32
  let stat := (w.zipIdx).foldl (fun v (p, j) => if p.absent then v else v + 2 ^ j) 0
  leBytes 8 l.tickno ++ leBytes 4 l.repeatNo ++ leBytes 4 l.lineInRep ++ leBytes 4 i.status ++ leBytes 4 flags ++ leBytes 4 gap ++
    leBytes 4 (ofSigned 32 budget) ++ leBytes 4 (ofSigned 32 (s.proofLineOf sh l)) ++ leBytes 4 stat ++ leBytes 4 (s.stepAct (sh / 16)) ++
    leBytes 4 (sh + 256 * (sh / 16)) ++ leBytes 16 0

/-- GAP: lines since the last one whose kernel ended with END; before the first the specification gives none, and the value is free. -/
def State.gapOf (s : State) (sh n : Nat) : Nat × State :=
  match (s.engine sh).lastTick with
  | some m => ((n - m - 1) % 2 ^ 32, s)
  | none => let (i, s1) := s.fresh; (Config.freeNat i % 2 ^ 32, s1)

/-- A supervisor clock step or a thermal cap is in force (R193, THERMAL): as the last tick boundary took them (R147, R340). -/
def State.thermalNow (s : State) (sh : Nat) : Bool :=
  bits (s.act R.ENGG_CLK_THERM_STEP) (2 * (sh / 16)) 2 ≠ 0 || s.thermCap < 400000

/-- The engine enters the kernel for a line: descriptor, registers, PC. `wdog` and `base` carry over from an INIT run, and so does GAP:
INIT's descriptor carries the line's values (R132). -/
def State.enterWith (s1 : State) (gap sh : Nat) (i : Intake) (l : Line) (w : List ProofEntry) (init : Bool) (t wdog base : Nat) : State :=
  let budget := s1.budgetAt sh l t
  let s2 := s1.setBytes (trayBase sh + trayLineDesc) (s1.lineDesc sh l i w init budget gap)
  let e := s2.engine sh
  let r : Run := { line := i, bank := l.bank, init := init, pc := s2.get (if init then R.ENGG_x_INIT_WORD l.bank else R.ENGG_x_ENTRY_WORD l.bank)
                   anchorT := t, monBase := base, wdog := wdog, budget := budget, proofLine := s2.proofLineOf sh l, window := w
                   thermal := s2.thermalNow sh, gap := gap }
  let s3 := s2.setEngine sh { e with
    intake := e.intake.filter (fun j => j.tickno ≠ l.tickno), run := some r, restarted := e.restarted && init
    sreg := [(1, BitVec.ofNat 32 trayLineDesc), (2, BitVec.ofNat 32 (kparamBase l.bank)), (3, 0x14000)], vreg := [], areg := [], preg := [] }
  (s3.put (R.SH_STAT_BANK sh) l.bank).shShow sh

/-- The first entry for a line: INIT's where it is due, else the line's own. -/
def State.enter (s : State) (sh : Nat) (i : Intake) (l : Line) (w : List ProofEntry) (init : Bool) (t wdog base : Nat) : State :=
  let (gap, s1) := s.gapOf sh l.tickno
  s1.enterWith gap sh i l w init t wdog base

/-- `KERNEL_ENTRY`: the entry conditions hold and no INIT is due. -/
def State.kernelEntry (s : State) (sh t : Nat) : State :=
  match s.entryLine sh with
  | none => s
  | some (i, l, w) => if s.initWanted sh l then s else (let s1 := s.at t; s1.enter sh i l w false s1.now 0 0)

def execKernelEntry (sh : Fin 192) (t : Nat) (s : State) : Host.Outcome State Fault Refusal := .next (s.kernelEntry sh t)

/-- `INIT_ENTRY`: before the first line of a bank, after a release and after power-up the bank's INIT is run under the line's entry
conditions. -/
def State.initEntry (s : State) (sh t : Nat) : State :=
  match s.entryLine sh with
  | none => s
  | some (i, l, w) => if s.initWanted sh l then (let s1 := s.at t; s1.enter sh i l w true s1.now 0 0) else s

def execInitEntry (sh : Fin 192) (t : Nat) (s : State) : Host.Outcome State Fault Refusal := .next (s.initEntry sh t)

/-! ## The output claim (R139, R167) -/

/-- The development block at the claim: slot 0's stacked line in the owned lanes, or the pedestal. -/
def State.devDefault (_s : State) (sh : Nat) (i : Intake) : SMap (List Nat) :=
  (List.range 4).map (fun b =>
    let rows := (i.bands.find? (fun x => x.slot = 0 && x.band = b)).map StackBand.rows
    (b, (List.range 128).map (fun j => match rows with | none => 512 | some rs => stackedWord rs (lanePos sh (8 + j)))))

/-- The first emit of an invocation claims an output entry; with none free the line's emits are lost. -/
def State.claim (s : State) (sh : Nat) (r : Run) : State × Run :=
  if r.claimed || r.claimFail then (s, r)
  else if 4 ≤ (s.engine sh).out.length then
    ((((s.bump (R.SH_OFULL_CNT_COUNT sh)).raise (E.SH_OUTPUT_FULL sh)).addReport r.line.tickno rcOUTPUT_FULL (2 ^ sh)), { r with claimFail := true })
  else (s, { r with claimed := true, out := { r.out with dev := s.devDefault sh r.line } })

/-! ## The end of an invocation (R151, R168) -/

/-- Enter the two monitor values of an invocation that ended with END: cycles, and the deadline less the end. -/
def State.shMonitors (s : State) (sh cycles : Nat) (slack : Int) : State :=
  let s1 := s.put (R.SH_CYC_LAST_CYC sh) cycles
  if s1.on (R.SH_CTRL_MON_FREEZE sh) then s1
  else
    let w := 2 ^ (min 11 (s1.get (R.SH_CTRL_WSHIFT sh)))
    (s1.monEnter (shMon sh 0) (64 * w) cycles).monEnter (shMon sh 1) (16 * w) slack

/-- The line's deadline (R137): the third tick edge after its own, predicted where it has not come (R132). -/
def State.deadline (s : State) (l : Line) : Nat :=
  if 3 ≤ l.stage then l.edge3 else l.edge2 + (if fracKnown s.tick.tpred then fracFloor s.tick.tpred else 0)

/-- The proof line that the learner is to take (R197): the line's own in repeat 0, PROOF_LINE of a QUAL Shingle's judged line after. -/
def State.learnLine (s : State) (sh : Nat) (l : Line) (r : Run) : Option Nat :=
  if !s.on (R.JOB_x_LEARN_EN l.bank) then none
  else if l.repeatNo = 0 then (if l.lineInRep < s.proofLines l.bank then some l.lineInRep else none)
  else if (s.regOf sh).state = 2 && 0 ≤ r.proofLine && r.proofLine < (s.proofLines l.bank : Int) then some r.proofLine.toNat
  else none

/-- A selected band of the proof slot lacks a contribution (R193, STACK_GAP). -/
def State.proofSlotGap (s : State) (x status : Nat) : Bool :=
  let k := s.get (R.JOB_x_CFG_PROOF_SLOT x)
  let sel := s.get (R.EXP_x_SLOTk_CTRL_BANDS x k)
  s.slotOn x k && maskSub sel (bits status (4 + 4 * k) 4) ≠ 0

/-- The line's own invocation has ended with END at cycle `c` (entry cycles not counted). -/
def State.endLine (s : State) (sh : Nat) (r0 : Run) (c t : Nat) : State :=
  let n := r0.line.tickno
  match s.lineOf n with
  | none =>
    let e := s.engine sh
    (s.setEngine sh { e with run := none }).shShow sh
  | some l =>
    let (s1, r) := s.claim sh r0
    let s2 := s1.register sh l r.report
    let reg := s2.regOf sh
    let regOn := s2.on (R.JOB_x_CFG_REG_EN l.bank)
    let unreg := regOn && (reg.state = 1 || (s2.on (R.JOB_x_LEARN_EN l.bank) && l.repeatNo = 0))
    let s3 := if unreg then s2.addReport n rcUNREGISTERED (2 ^ sh) else s2
    let s4 := s3.shMonitors sh (r.monBase + 16 + c + 1) ((s3.deadline l : Int) - t)
    let learn := s4.learnLine sh l r
    let out : OutEntry := { r.out with
      tickno := n, bank := l.bank, proofPart := r.window.any ProofEntry.absent, stackGap := s4.proofSlotGap l.bank r.line.status
      coast := regOn && reg.state = 3, thermal := r.thermal, noRecords := unreg
      learn := if r.claimFail || (l.repeatNo ≠ 0 && (unreg || l.gaveUp sh)) then none else learn, across := reg.across }
    let e := s4.engine sh
    let s5 := s4.setEngine sh { e with run := none, lastTick := some n, out := if r.claimFail then e.out else e.out ++ [out] }
    ((s5.leave sh n r.claimFail).leaveRest sh).proofPrune sh |>.shShow sh

/-- END: an INIT run is followed by the line's own invocation, whose entry begins where it ends. -/
def State.endRun (s : State) (sh c : Nat) : State :=
  let e := s.engine sh
  match e.run with
  | none => s
  | some r =>
    let t := r.timeOf (s.shRate sh) (16 + c + 1)
    let s1 := s.at t
    if !r.init then s1.endLine sh r c t
    else match s1.lineOf r.line.tickno with
      | none => (s1.setEngine sh { e with run := none }).shShow sh
      | some l => (s1.setEngine sh { e with run := none, initAct := some l.act }).enterWith r.gap sh r.line l r.window false t r.wdog
          (r.monBase + 16 + c + 1)

/-- An invocation ends without output: its claimed entry is discarded and its line is lost as OVERRUN. -/
def State.abortRun (s : State) (sh : Nat) : State :=
  let e := s.engine sh
  match e.run with
  | none => s
  | some r => (((s.setEngine sh { e with run := none, restarted := true }).overrun sh r.line.tickno).leaveRest sh).proofPrune sh |>.shShow sh

/-- `WATCHDOG_ABORT` (R141). -/
def State.watchdogAbort (s : State) (sh : Nat) : State :=
  match (s.engine sh).run with
  | none => s
  | some r =>
    let w := s.act R.ENGG_CLK_WDOG
    if w = 0 || r.wdog < w then s
    else ((s.bump (R.SH_WDOG_CNT_COUNT sh)).raise (E.SH_WDOG sh)).abortRun sh

def execWatchdogAbort (sh : Fin 192) (s : State) : Host.Outcome State Fault Refusal := .next (s.watchdogAbort sh)

/-- The engine faults (R142): code, word index, bank and address are recorded, and it enters no further line. -/
def State.engineFault (s : State) (sh code pc addr : Nat) : State :=
  let e := s.engine sh
  match e.run with
  | none => s
  | some r =>
    let s1 := (((s.put (R.SH_FAULT_CODE sh) code).put (R.SH_FAULT_PC sh) pc).put (R.SH_FAULT_BANK sh) r.bank).put (R.SH_FAULT_ADDR_ADDR sh) addr
    let s2 := (s1.put (faultSum sh) 1).raise (E.SH_FAULT sh)
    let e2 := s2.engine sh
    ((((s2.setEngine sh { e2 with run := none, faulted := true, faultAct := s2.job.act }).overrun sh r.line.tickno).leaveRest sh).proofPrune sh).shShow sh

/-! ## What a tick edge does to the engines -/

/-- Edges count for the watchdog; a line whose window is still incomplete at the edge after it was due is given up as PROOF_LATE
(R138, R141). Called with the lines' stages before the edge. -/
def State.proofLate (s : State) (sh : Nat) : State :=
  let e := s.engine sh
  if !s.shOn sh || e.faulted || e.run.isSome || s.on (R.SH_CTRL_HALT sh) then s
  else match e.intake with
    | [] => s
    | i :: rest => match s.lineOf i.tickno with
      | none => s
      | some l =>
        if l.stage < 2 || (s.windowOf sh l).isSome then s
        else
          let s1 := (s.setEngine sh { e with intake := rest }).bump (R.SH_PLATE_CNT_COUNT sh)
          (((s1.raise (E.SH_PROOF_LATE sh)).giveUp sh l.tickno rcPROOF_LATE).proofPrune sh).shShow sh

def State.enginesEdge (s : State) : State :=
  let ks := s.eng.map Prod.fst
  let s1 := ks.foldl State.proofLate s
  { s1 with eng := s1.eng.map (fun (p : Nat × Engine) => (p.1, { p.2 with run := p.2.run.map (fun r => { r with wdog := r.wdog + 1 }) })) }

end Sys2Proof.Machine
end

