-- ==== Sys2Proof/Machine/Course.lean ====
section
/-! DEFINITION. Power of the courses (R149, R150). -/
namespace Sys2Proof.Machine

/-- Shingles of a line that can deliver nothing more are reported OVERRUN. -/
def Line.loseCourse (l : Line) (c : Nat) : Line :=
  let lost := maskSub (l.mask &&& (2 ^ 16 - 1) * 2 ^ (16 * c)) l.handled
  if !l.exposed || lost = 0 then l
  else { l with reports := addReason l.reports rcOVERRUN lost, gone := l.gone ||| lost, handled := l.handled ||| lost
                pendCourses := maskSub l.pendCourses (2 ^ c) }

/-- A course goes away while lines of it are in flight: what its Shingles have not delivered, or have delivered and the merger has
not taken, is reported OVERRUN (log 60; the specification says only that the clocks stop and the trays are lost). -/
def State.courseLines (s : State) (c : Nat) : State :=
  State.linesSettle { s with lines := s.lines.map (fun (l : Line) => l.loseCourse c) }

/-- A course is switched off. -/
def State.coursePowerOff (s : State) (c : Nat) : State := (s.domOff (dCOURSE c)).courseLines c

/-- A course that COURSE_PWR asks for anew while its domain is on, as a warm reset leaves it, starts as one whose domain comes on: its clocks stop
until `COURSE_ON` (R149; DESIGN CHOICE, log 149). -/
def State.courseAgain (s : State) (c : Nat) : State :=
  if s.courseOn c then (s.put ⟨R.ENGG_STAT_COURSE_ON.reg, c, 1⟩ 0).courseLines c else s

/-- `COURSE_PWR_WRITE`: bits of courses that the active or the pending bank uses cannot be cleared. A bit set asks for the domain,
which `DOMAIN_ON` switches on. -/
def State.coursePwrWrite (s : State) (v : Nat) : State :=
  let m (b : Option Nat) : Nat := match b with | none => 0 | some x => maskCourses (s.smask x)
  let used := m s.job.active ||| m s.pendingBank
  let cleared := maskSub (s.get R.ENGG_CTRL_COURSE_PWR) (v % 4096)
  let ignored := cleared &&& used
  let asked := bitsOf 12 (maskSub (v % 4096) (s.get R.ENGG_CTRL_COURSE_PWR))
  let s1 := s.put R.ENGG_CTRL_COURSE_PWR (v % 4096 ||| ignored) |>.domRetry (asked.map dCOURSE)
  let s2 := asked.foldl State.courseAgain (if ignored = 0 then s1 else s1.raise E.ENGG_COURSE_REFUSED)
  (bitsOf 12 (maskSub cleared used)).foldl State.coursePowerOff s2

def execCoursePwrWrite (v : Word) (s : State) : Host.Outcome State Fault Refusal :=
  .next (if s.served 0x019 then s.coursePwrWrite v.toNat else s)

/-- `COURSE_ON`: the course's clocks run and its 16 trays are 0; a faulted engine is released (R143). -/
def State.courseUp (s : State) (c : Nat) : State :=
  if !s.dom (dCOURSE c) || !bit (s.get R.ENGG_CTRL_COURSE_PWR) c || s.courseOn c then s
  else
    let s1 := (s.enginesLost c).memForget (trayBase (16 * c)) (trayBase (16 * c + 16))
    let s2 := (s1.put ⟨R.ENGG_STAT_COURSE_ON.reg, c, 1⟩ 1).raise E.ENGG_COURSE_ON
    (List.range 16).foldl (fun s i => s.shShow (16 * c + i)) s2

def execCourseOn (c : Fin 12) (s : State) : Host.Outcome State Fault Refusal := .next (s.courseUp c.val)

end Sys2Proof.Machine
end

