-- ==== Sys2Proof/Machine/Mem.lean ====
section
/-! DEFINITION. The DDR4 controllers: readiness, refresh, scrubbing and error correction (R228–R232), the DDR load of a bank
(R233, R234). -/
namespace Sys2Proof.Machine

/-! ## The DDR load (R233, R234) -/

/-- A term in whole MB/s, rounded up. -/
def mbs (bytesPerSec : Nat) : Nat := ceilDiv bytesPerSec 1000000

/-- The port of memory context m (code 3 acts as H). -/
def State.ctxPort (s : State) (m : Nat) : Nat := let p := s.act (R.MCm_CTRL_PORT (m - 1)); if p = 3 then 0 else p
def State.ctxEn (s : State) (m : Nat) : Bool := s.act (R.MCm_CTRL_EN (m - 1)) = 1

/-- Ridge ports named by enabled memory contexts. -/
def State.ingestPorts (s : State) : Nat :=
  ((List.range 3).filter (fun p => (List.range 15).any (fun i => s.ctxEn (i + 1) && s.ctxPort (i + 1) = p))).length

/-- L of a bank in MB/s (Table 10-2). -/
def State.ddrLoad (s : State) (x : Nat) : Nat :=
  let f := min (s.readBudget x) s.rateCap
  let n := popcount 192 (s.smask x)
  mbs (n * 576 * f) + (if s.on (R.JOB_x_LEARN_EN x) then mbs (n * 2048 * f) else 0) + 25000 + 25000 * s.ingestPorts + s.get R.MEM_BW_RES_RES

/-- The limit: 85 % of the peak. -/
def ddrLimit : Nat := 87040

/-- MEM_BW_x follows; BW_OVER tells a rise of the active bank's load above the limit. -/
def State.bwShowOne (s : State) (x : Nat) : State :=
  let l := s.ddrLoad x
  let heavy := decide (ddrLimit < l)
  let s1 := (s.put (R.MEM_BW_x_LOAD x) l).put (R.MEM_BW_x_OVER x) (boolNat heavy)
  if heavy && !s.on (R.MEM_BW_x_OVER x) && s.job.active = some x then s1.raise E.MEM_BW_OVER else s1

def State.bwShow (s : State) : State := (s.bwShowOne 0).bwShowOne 1

/-- A change of the bank's slots moves its readout budget, and its load with it. -/
def execExpBankCheck (bank : Fin 2) (s : State) : Host.Outcome State Fault Refusal :=
  .next (if s.served 0x014 then (s.bankCheck bank.val).bwShow else s)

/-! ## Controllers -/

/-- The controllers run: trained, and not in self-refresh. -/
def State.ddrRuns (s : State) : Bool := s.dom dDDR && s.on R.MEM_STAT_READY && s.power ≠ pSTANDBY && !s.pwr.off

/-- Is DDR4 trained and tested afresh: at power-on, after a cold reset, or where its contents were lost (R393, R399)? -/
def State.ddrFresh (s : State) : Bool := s.get R.SYS_STAT_LAST_RESET ≤ 1 || s.on R.THERM_STAT_DDR_LOST

/-- `MEM_READY`: training, or the retrain after a wake, has ended; `train`, `test`: channels that failed to train, whose march test found an
uncorrectable error. A failure is a self-test item, and the controllers do not become ready (R228, R400). -/
def State.memReady (s : State) (train test : Nat) : State :=
  if !s.dom dDDR || s.power = pSTANDBY || s.pwr.off then s
  else if train ≠ 0 then s.selfFail 4
  else if test ≠ 0 && s.ddrFresh then s.selfFail 5
  else (s.put R.MEM_STAT_READY 1).bwShow

def execMemReady (s : State) (train test : BitVec 4 := 0) : Host.Outcome State Fault Refusal :=
  .next (s.memReady train.toNat test.toNat)

/-- 7.8 µs or 3.9 µs between refreshes of a rank. -/
def State.refreshGap (s : State) : Nat := if s.on R.MEM_STAT_REFRESH_2X then 780 else 1560

/-- `REFRESH`: a rank is refreshed, when its gap has passed since the last time. -/
def execRefresh (ch : Fin 4) (rank : Fin 2) (s : State) : Host.Outcome State Fault Refusal :=
  .next (if s.ddrRuns then
      let k := 2 * ch.val + rank.val
      let s1 := match mapFind s.memctl.refreshed k with | none => s | some t => s.at (t + s.refreshGap)
      { s1 with memctl := { s1.memctl with refreshed := mapIns s1.memctl.refreshed k s1.now } }
    else s)

/-- Bit errors have arisen in DDR4: beats by number, each with whether more than one bit of it is wrong (R229). -/
def State.bitErrors (s : State) (es : List (Nat × Bool)) : State :=
  es.foldl (fun s (e : Nat × Bool) =>
    let b := 8 * (e.1 % (ddrTop / 8))
    if e.2 || s.memctl.flips.contains b then
      { s with memctl := { s.memctl with flips := setDel s.memctl.flips b }, poison := setAdd s.poison b }
    else if s.poison.contains b then s
    else { s with memctl := { s.memctl with flips := setAdd s.memctl.flips b } }) s

/-- `SCRUB_BURST`: the scrubber reads the next burst, and corrects it or finds it uncorrectable as any read does. `es` are the bit errors
that have arisen in DDR4 since the last one; the module sees them when something reads them. -/
def State.scrubBurst (s : State) (es : List (Nat × Bool)) : State :=
  if !s.dom dDDR || s.pwr.off then s
  else
    let s1 := s.bitErrors es
    if !s1.on R.MEM_CTRL_SCRUB_EN || !s1.ddrRuns then s1
    else
      let next := (s1.memctl.scrubAt + 1) % 2 ^ 31
      let s2 := State.put { s1 with memctl := { s1.memctl with scrubAt := next } } R.MEM_SCRUB_POS_POS (next / 64)
      ((s2.put R.MEM_STAT_SCRUBBING 1).bgProgress 3).ddrRead (64 * s1.memctl.scrubAt) 64

def execScrubBurst (single several : List Nat) (s : State) : Host.Outcome State Fault Refusal :=
  .next (s.scrubBurst (single.map (fun k => (k, false)) ++ several.map (fun k => (k, true))))

end Sys2Proof.Machine
end

