-- ==== Sys2Proof/Machine/Jobs.lean ====
section
/-! DEFINITION. Jobs: banked writes, staging, arming, switches, repeats, learning's finish (R173–R184, R197). -/
namespace Sys2Proof.Machine

/-! ## Staging (R178) -/

def State.chanOf (s : State) (n : Nat) : DmaChan := mapGet {} s.dma.chan n
def State.setChan (s : State) (n : Nat) (c : DmaChan) : State := { s with dma := { s.dma with chan := mapSet {} s.dma.chan n c } }

/-- Is a channel's ring empty? -/
def State.chanEmpty (s : State) (n : Nat) : Bool := s.get (R.CHn_HEAD_PTR n) = s.get (R.CHn_TAIL_PTR n)

/-- Staging of a bank is complete. -/
def State.staged (s : State) (x : Nat) : Bool :=
  s.on (R.JOB_x_STAGE_READY x) && (bitsOf 32 (s.get (R.JOB_x_STAGE_CH_CH x))).all (fun n => s.chanEmpty n && (s.chanOf n).writes = 0)

/-- The bank that JOB_STAT.STAGED shows: the idle bank, or bank JOB_CTRL.BANK while no job runs. -/
def State.stageBank (s : State) : Nat := match s.job.active with | some x => 1 - x | none => s.get R.JOB_CTRL_BANK

def State.stagedShow (s : State) : State := s.put R.JOB_STAT_STAGED (boolNat (s.staged s.stageBank))

/-- Writes of a channel have arrived: the pending fence waits for no more of it than are left. -/
def State.fenceShrink (s : State) (n left : Nat) : State :=
  { s with dma := { s.dma with fence := s.dma.fence.map (fun p => if p.1 = n then (n, min p.2 left) else p) } }

/-- `STAGED`: the last writes of the staging channels have arrived. -/
def State.stageArrive (s : State) : State :=
  let x := s.stageBank
  let chs := bitsOf 32 (s.get (R.JOB_x_STAGE_CH_CH x))
  if s.on (R.JOB_x_STAGE_READY x) && chs.all s.chanEmpty then
    (chs.foldl (fun s n => (s.setChan n { s.chanOf n with writes := 0, own := 0 }).fenceShrink n 0) s).stagedShow
  else s

def execStaged (s : State) : Host.Outcome State Fault Refusal := .next s.stageArrive

/-! ## Checks (R179, Table 8-3) -/

def State.proofLinesOf (s : State) (x : Nat) : Nat := s.get (R.JOB_x_PROOF_LINES_LINES x)
def State.repeatLines (s : State) (x : Nat) : Nat := s.get (R.JOB_x_REPEAT_REPEAT_LINES x)
def State.repTol (s : State) (x : Nat) : Nat := s.get (R.JOB_x_REPTOL_REP_TOL x)
def State.repDly (s : State) (x : Nat) : Nat := s.get (R.JOB_x_REPTOL_REP_DLY x)
def State.repSrc (s : State) (x : Nat) : Nat := s.get (R.JOB_x_CFG_REP_SRC x)

/-- The learning region: sums, then counts (R197). -/
def State.laccBase (s : State) (x : Nat) : Nat := s.get (R.JOB_x_LACC_BASE x) * 4096
def State.countBase (s : State) (x : Nat) : Nat := s.laccBase x + 2 * 98304 * s.proofLinesOf x
def State.learnEn (s : State) (x : Nat) : Bool := s.on (R.JOB_x_LEARN_EN x)

def State.jobCheck (s : State) (x : Nat) : Nat :=
  let m := s.smask x
  let pl := s.proofLinesOf x
  if s.expCode x ≠ 0 then 1
  else if maskSub (maskCourses m) (s.get R.ENGG_STAT_COURSE_ON) ≠ 0 then 2
  else if ddrLimit < s.ddrLoad x then 3
  else if pl < 3 || !inDdr (s.get (R.JOB_x_PROOF_BASE x) * 4096) (98304 * pl) then 4
  else if s.get (R.JOB_x_OWN_OWN_HI x) < s.get (R.JOB_x_OWN_OWN_LO x) || 24575 < s.get (R.JOB_x_OWN_OWN_HI x) then 5
  else if s.repeatLines x = 0 || s.repeatLines x ≤ s.repTol x then 6
  else if s.learnEn x && (!s.on (R.JOB_x_CFG_REG_EN x) || !inDdr (s.laccBase x) (2 * 98304 * pl + 192 * pl)) then 7
  else if s.job.active = some x || s.job.busy.contains x then 8
  else if s.modeAct ≠ 0 then 9
  else 0

/-! ## JOB_CTRL (R179, R182, R183) -/

/-- ARMED is cleared without an event. -/
def State.dropArm (s : State) : State :=
  (((State.put { s with job := { s.job with armed := none } } R.JOB_STAT_ARMED 0).put R.JOB_STAT_DEFERRED 0).usedShow)

def State.refuseArm (s : State) (code : Nat) : State := ((s.dropArm).put R.JOB_STAT_REFUSE code).raise E.JOB_REFUSED

/-- A bank is armed for a switch or a start, or refused. -/
def State.arm (s : State) (x : Nat) : State :=
  let code := s.jobCheck x
  if code ≠ 0 then s.refuseArm code
  else
    let s1 := { s with job := { s.job with armed := some x, splice := true } }
    ((((s1.put R.JOB_STAT_ARMED 1).put R.JOB_STAT_DEFERRED 0).put R.JOB_STAT_REFUSE 0).usedShow).stagedShow

/-- The fields of JOB_CTRL beside its operations; CHAIN_POS is fixed while a job runs. -/
def State.jobFields (s : State) (v : Nat) : State :=
  let enabled := !s.on R.JOB_CTRL_SPLICE_EN && bit v 5
  let s1 := (s.put R.JOB_CTRL_BANK (v / 16)).put R.JOB_CTRL_SPLICE_EN (v / 32)
  let s2 := if s1.jobRunning then s1 else s1.put R.JOB_CTRL_CHAIN_POS (v / 65536)
  State.stagedShow (if enabled then { s2 with job := { s2.job with splice := true } } else s2)

/-- START: ignored while a job runs; outside RUN it is refused (R350). -/
def State.jobStart (s : State) : State :=
  if !s.inRun then s.raise E.PWR_STATE_REFUSED else if s.jobRunning then s else s.arm (s.get R.JOB_CTRL_BANK)
def State.jobStop (s : State) : State := if s.jobRunning then { s with job := { s.job with stopAt := true } } else s
def State.jobArm (s : State) : State := match s.job.active with | none => s | some x => s.arm (1 - x)
def State.jobCancel (s : State) : State := if s.job.armed.isSome then s.dropArm else s

/-- A write of JOB_CTRL: its fields, then the operations whose bits are set, from START up. -/
def State.jobCtrl (s : State) (v : Nat) : State :=
  if !s.served 0x01A then s
  else
    let s1 := s.jobFields v
    let s2 := if bit v 0 then s1.jobStart else s1
    let s3 := if bit v 1 then s2.jobStop else s2
    let s4 := if bit v 2 then s3.jobArm else s3
    if bit v 3 then s4.jobCancel else s4

/-- `JOB_START`, `JOB_STOP`, `JOB_ARM`, `JOB_CANCEL`: a write of JOB_CTRL with the bit of that name. -/
def execJobStart (v : Word) (s : State) : Host.Outcome State Fault Refusal := .next (s.jobCtrl (v.toNat ||| 1))
def execJobStop (v : Word) (s : State) : Host.Outcome State Fault Refusal := .next (s.jobCtrl (v.toNat ||| 2))
def execJobArm (v : Word) (s : State) : Host.Outcome State Fault Refusal := .next (s.jobCtrl (v.toNat ||| 4))
def execJobCancel (v : Word) (s : State) : Host.Outcome State Fault Refusal := .next (s.jobCtrl (v.toNat ||| 8))

/-! ## Banked registers (R174) -/

/-- The bank of a banked register. -/
def bankOfReg (a : Nat) : Nat :=
  let page := a / 4096
  if page = 0x01C || page = 0x01D then page - 0x01C
  else if 0x040 ≤ page && page < 0x046 then (page - 0x040) / 3
  else match regRow a with
    | none => 0
    | some r => (a % 4096 - r.off) / max 1 r.s1 % 2

/-- What follows a change of a bank's settings: a check is due, caps, loads and staging are shown. -/
def State.bankChanged (s : State) (page x : Nat) : State :=
  if page = 0x014 then s.put (if x = 0 then R.EXP_CHECK_BUSY_A else R.EXP_CHECK_BUSY_B) 1
  else if page = 0x019 then (s.kcapShow.usedShow).bwShow
  else if page = 0x01A then s.stagedShow.bwShow
  else s

/-- `BANK_WRITE`: ignored for the active and a busy bank, and disarming for an armed one. -/
def State.bankWrite (s : State) (a v : Nat) : State :=
  if !s.served (a / 4096) || regKind a ≠ .banked then s
  else
    let x := bankOfReg a
    if s.job.active = some x || s.job.busy.contains x then s.raise E.JOB_BANK_ACTIVE
    else ((if s.job.armed = some x then s.disarm else s).writeWord a v).bankChanged (a / 4096) x

def execBankWrite (addr : Nat) (v : Word) (s : State) : Host.Outcome State Fault Refusal := .next (s.bankWrite addr v.toNat)

/-! ## Marks (R175, R180) -/

/-- The marks of a tick: edges of the inputs, sheet start, the chain's flag. -/
def markCode (d : DerTick) : Nat := d.marks % 256 + boolNat d.sheet * 256 + boolNat d.chainMark * 512

def State.noteMarks (s : State) (n : Nat) (d : DerTick) : State :=
  let old := s.job.marks.filter (fun (t, _) => n < t + 65536)
  { s with job := { s.job with marks := if markCode d = 0 then old else old ++ [(n, markCode d)] } }

/-- Do a tick's marks hold one of the bank's source? -/
def State.markOf (s : State) (x m : Nat) : Bool :=
  let src := s.repSrc x
  if src = 1 then bit m (2 * s.get (R.JOB_x_CFG_MARK_SRC x) + s.get (R.JOB_x_CFG_MARK_EDGE x))
  else if src = 2 then bit m 8
  else if src = 3 then bit m 9
  else false

/-- Does a mark of the bank's source, delayed by REP_DLY, fall on tick n? -/
def State.markDue (s : State) (x n : Nat) : Bool := s.job.marks.any (fun (t, m) => t + s.repDly x = n && s.markOf x m)

/-! ## The switch (R133, R180, R184) -/

/-- Loft windows of a bank that pass the end of the loft for the highest Shingle of its mask, as 4·bank + window. -/
def State.badWindows (s : State) (x : Nat) : List Nat :=
  let hi := (bitsOf 192 (s.smask x)).foldl max 0
  ((List.range 4).filter (fun k =>
    let size := s.get (R.ENGG_x_LWINk_W1_SIZE x k)
    loftSize < 64 * (s.get (R.ENGG_x_LWINk_W0_BASE x k) + (if s.on (R.ENGG_x_LWINk_W1_PRIV x k) then hi * size else 0) + size))).map
    (fun k => 4 * x + k)

/-- The filter counters are cleared (R190). -/
def State.clearFilters (s : State) : State :=
  (List.range 16).foldl (fun s k => (s.put (R.JOB_FILTk_CNT_W0_REPORTED k) 0).put (R.JOB_FILTk_CNT_W1_SUPPRESSED k) 0) s

/-- JOB_REGs at a switch. -/
def State.regsAtSwitch (s : State) (x : Nat) : State := (List.range 192).foldl (fun s sh => s.regSync x sh) s

/-- A switch at tick T that keeps registrations: a Shingle that was off under the bank switched out has none to keep (R184, R188). -/
def State.regCut (s : State) (T : Nat) : SMap Nat :=
  match s.job.active with
  | none => []
  | some o => (List.range 192).foldl (fun m sh => if s.on (R.JOB_x_CFG_REG_EN o) && s.inMask o sh then m else mapSet 0 m sh T) s.job.keepCut

/-- A bank becomes active at tick T: line T is its first line and line 0 of its repeat 0. -/
def State.activate (s : State) (x T : Nat) : State :=
  let keep := s.on (R.JOB_x_CFG_KEEP_REG x) && (match s.job.active with
    | some o => s.proofLinesOf o = s.proofLinesOf x && s.repeatLines o = s.repeatLines x
    | none => false)
  let busy := match s.job.active with | some o => setAdd s.job.busy o | none => s.job.busy
  let bad := s.badWindows x
  let s1 := (if s.jobRunning then s else s.calAbort).repClose T true
  let s2 := { s1 with
    job := { s1.job with active := some x, act := T, busy := busy, armed := none, adoptPend := false, splice := false
                         reregNo := if keep then s1.job.reregNo else 0
                         rep := { boundary := T, lastMark := if s1.repSrc x = 0 then none else some T }
                         lwinBad := s1.job.lwinBad.filter (fun k => k / 4 ≠ x) ++ bad, keepAct := if keep then s1.job.keepAct else T
                         keepCut := if keep then s1.regCut T else [] }
    dev := { s1.dev with reps := s1.dev.reps ++ [({ first := T, bank := x } : RepAcc)] }
    rec_ := { s1.rec_ with reps := (T, 0) :: s1.rec_.reps }
    nvs := { s1.nvs with life := { s1.nvs.life with switches := s1.nvs.life.switches + 1 } } }
  let s3 := (((s2.put R.JOB_STAT_RUNNING 1).put R.JOB_STAT_ACT_BANK x).put R.JOB_STAT_ARMED 0).put R.JOB_STAT_DEFERRED 0
  let s4 := ((s3.put R.EXP_STAT_BANK_ACT x).put64 R.JOB_SW_TICKNO_LO_TICKNO R.JOB_SW_TICKNO_HI_TICKNO T).put R.JOB_PROOF_ACT_BASE
    (s3.get (R.JOB_x_PROOF_BASE x))
  let s5 := ((s4.put R.JOB_LEARN_STAT_STATE (boolNat (s4.learnEn x))).put R.JOB_LEARN_STAT_REPEATS 0).put R.JOB_LEARN_STAT_SHORT 0
  let s6 := (s5.clearFilters.regsAtSwitch x).raise E.JOB_SWITCH
  let s7 := if bad.isEmpty then s6 else s6.raise E.ENGG_LWIN_BAD
  (((s7.busyShow).usedShow).stagedShow).capActShow

def State.treq (s : State) : Nat := s.get64 R.JOB_TREQ_LO_TICKNO R.JOB_TREQ_HI_TICKNO

/-- Is tick n a candidate boundary of the armed bank? -/
def State.candidate (s : State) (x n : Nat) : Bool :=
  s.treq ≤ n && (if s.repSrc x = 0 then (n - s.treq) % max 1 (s.repeatLines x) = 0 else s.markDue x n)

/-- The armed switch or start is evaluated at tick n. -/
def State.evalSwitch (s : State) (n : Nat) : State :=
  match s.job.armed with
  | none => s
  | some x =>
    if !s.candidate x n then s
    else if !s.staged x then (s.put R.JOB_STAT_DEFERRED 1).raise E.JOB_DEFERRED
    else if s.jobCheck x ≠ 0 then s.refuseArm (s.jobCheck x)
    else s.activate x n

/-! ## Repeats (R175–R177) -/

/-- A repeat boundary of the active bank at tick n: the repeat's figures close, a learned proof is adopted. -/
def State.boundary (s : State) (x n : Nat) (fly : Bool) : State :=
  let s1 := s.repClose n false
  let r := s1.job.rep
  let num := (r.number + 1) % 2 ^ 32
  let s2 := { s1 with
    job := { s1.job with rep := { r with boundary := n, number := num, fly := fly, waits := fly }, adoptPend := false }
    dev := { s1.dev with reps := s1.dev.reps ++ [({ first := n, bank := x, number := num } : RepAcc)] }
    rec_ := { s1.rec_ with reps := (n, num) :: s1.rec_.reps } }
  let s3 := if s1.job.adoptPend then (s2.put R.JOB_PROOF_ACT_BASE (s2.get (R.JOB_x_LACC_BASE x))).put R.JOB_LEARN_STAT_STATE 5 else s2
  let st := s3.get R.JOB_LEARN_STAT_STATE
  if st = 1 || st = 2 then (s3.put R.JOB_LEARN_STAT_STATE 2).put R.JOB_LEARN_STAT_REPEATS (min 255 num) else s3

/-- A re-registration event at the tick in hand. -/
def State.rereg (s : State) (x : Nat) : State :=
  let s1 := s.raise E.JOB_REREG
  if s1.on (R.JOB_x_CFG_REG_EN x) then { s1 with job := { s1.job with reregNo := s1.job.reregNo + 1 } } else s1

/-- The active bank's repeat at tick n after its activation. A mark that follows a flywheel boundary which has its own mark already is
a boundary under item 1 of R176, not under item 5 (DEDUCED, log 77). -/
def State.repTick (s : State) (x n : Nat) : State :=
  let r := s.job.rep
  let len := s.repeatLines x
  if s.repSrc x = 0 then (if r.boundary + len ≤ n then s.boundary x n false else s)
  else if !s.markDue x n then s
  else
    let w := s.repTol x
    let gap : Option Nat := r.lastMark.map (fun m => n - m)
    let off : Bool := match gap with | none => false | some g => decide (len + w < g ∨ g + w < len)
    let own := r.fly && decide (n ≤ r.boundary + w)
    let marked := match r.lastMark with | none => false | some m => decide (r.boundary ≤ m)
    let late := r.fly && !own && !marked
    let s1 := match gap with | none => s | some g => s.put R.JOB_REPLEN_LINES g
    let s2 := { s1 with job := { s1.job with rep := { r with lastMark := some n, misses := 0, waits := false } } }
    let s3 := if own then s2 else s2.boundary x n false
    if off || late then s3.rereg x else s3

/-- JOB_REPEAT and JOB_LINE show the line of tick n. -/
def State.repShow (s : State) (n : Nat) : State :=
  (s.put R.JOB_REPEAT_REPEAT s.job.rep.number).put R.JOB_LINE_LINE (n - s.job.rep.boundary)

/-- The job side of tick n: marks, stop, switch, repeat. -/
def State.jobTick (s : State) (n : Nat) (d : DerTick) : State :=
  let s1 := s.noteMarks n d
  let s2 := if s1.job.stopAt && s1.treq ≤ n then s1.jobEndAt n else s1
  let s3 := s2.evalSwitch n
  match s3.job.active with
  | none => s3
  | some x => (if s3.job.act = n then s3 else s3.repTick x n).repShow n

/-- The line of tick n follows a boundary or a re-registration that its tick edge is followed by. -/
def State.lineRepeat (s : State) (n : Nat) : State :=
  let r := s.job.rep
  let s1 := s.setLine n (fun l => { l with repeatNo := r.number, lineInRep := n - r.boundary
                                           repStart := n = r.boundary, proof := s.get R.JOB_PROOF_ACT_BASE, reregNo := s.job.reregNo })
  { s1 with rec_ := { s1.rec_ with reports := s1.rec_.reports.map (fun q =>
      if q.tickno = n then { q with rep := r.number, line := n - r.boundary } else q) } }

/-- `FLYWHEEL_BOUNDARY`: no mark has come by P + R, the present tick. -/
def State.flywheel (s : State) : State :=
  match s.job.active with
  | none => s
  | some x =>
    let n := s.tick.tickno
    if s.tick.firstTick || s.repSrc x = 0 || n ≠ s.job.rep.boundary + s.repeatLines x then s
    else ((s.boundary x n true).repShow n).lineRepeat n

def execFlywheelBoundary (s : State) : Host.Outcome State Fault Refusal := .next s.flywheel

/-- `MARK_MISS`: no mark has come within W ticks of a flywheel boundary; the fourth in a row re-registers. -/
def State.markMiss (s : State) : State :=
  match s.job.active with
  | none => s
  | some x =>
    let n := s.tick.tickno
    let r := s.job.rep
    if !r.waits || n < r.boundary + s.repTol x then s
    else
      let s1 := State.raise { s with job := { s.job with rep := { r with waits := false, misses := r.misses + 1 } } } E.JOB_MARK_MISS
      if r.misses + 1 = 4 then (s1.rereg x).lineRepeat n else s1

/-- What the present tick decides for the repeat is decided before TICKNO moves on: its flywheel boundary, its missed mark (R176). -/
def State.repSettle (s : State) : State := s.flywheel.markMiss

def execMarkMiss (s : State) : Host.Outcome State Fault Refusal := .next s.markMiss

/-! ## The finish of learning (R197) -/

/-- N of a bank. -/
def State.learnN (s : State) (x : Nat) : Nat := s.get (R.JOB_x_LEARN_N_M1 x) + 1

def State.learnCount (s : State) (x p sh : Nat) : Nat := (s.byte (s.countBase x + 192 * p + sh)).toNat

/-- Has a proof line a count below N in some Shingle of the mask? -/
def State.lineShort (s : State) (x p : Nat) : Bool := (bitsOf 192 (s.smask x)).any (fun sh => s.learnCount x p sh < s.learnN x)

/-- The finished bytes of a proof line. Where nothing was counted the specification states no value: it is free. -/
def State.learnedLine (s : State) (x p free : Nat) : List Nat :=
  let sums := s.bytes (s.laccBase x + 2 * 98304 * p) (2 * 98304)
  let cnts := (List.range 192).map (s.learnCount x p)
  (List.range 98304).map (fun i =>
    let c := cnts.getD (i / 512) 0
    let v := sums.getD (2 * i) 0 + 256 * sums.getD (2 * i + 1) 0
    if c = 0 then Config.freeNat free / 256 ^ (98304 * p + i) % 256 else (2 * v + c) / (2 * c) % 256)

/-- `LEARN_FINISH`: every count has reached N, or 4·N repeats have passed. The sums and counts are read, and proof lines are written in order
over the sums. -/
def State.learnFinish (s : State) : State :=
  match s.job.active with
  | none => s
  | some x =>
    let pl := s.proofLinesOf x
    let short := ((List.range pl).filter (s.lineShort x)).length
    if s.get R.JOB_LEARN_STAT_STATE ≠ 2 || (short ≠ 0 && s.job.rep.number < 4 * s.learnN x) then s
    else
      let (free, s1) := (s.ddrRead (s.laccBase x) (2 * 98304 * pl + 192 * pl)).fresh
      let s2 := (List.range pl).foldl (fun t p => t.setBytes (s.laccBase x + 98304 * p) (t.learnedLine x p free)) s1
      let s3 := ((s2.put R.JOB_LEARN_STAT_STATE 4).put R.JOB_LEARN_STAT_SHORT (min 65535 short)).raise E.JOB_LEARN_DONE
      { s3 with job := { s3.job with adoptPend := s3.on (R.JOB_x_LEARN_ADOPT x) } }

def execLearnFinish (s : State) : Host.Outcome State Fault Refusal := .next s.learnFinish

end Sys2Proof.Machine
end

