-- ==== Sys2Proof/Machine/Developer.lean ====
section
/-! DEFINITION. The Developer: in-line slices, satellite frames and their sharing of the Developer (R201–R219). -/
namespace Sys2Proof.Machine

/-! ## In-line slices (R205) -/

/-- The slice to develop next: of the oldest line that waits, the lowest course. -/
def nextSlice (q : List DevSlice) : Option DevSlice :=
  match q with
  | [] => none
  | d :: ds => some (ds.foldl (fun b e => if e.tickno = d.tickno && e.course < b.course then e else b) d)

/-- One pixel of a slice enters the repeat's patches and sheet. -/
def State.inlinePixel (s : State) (d : DevSlice) (ps : List Patch) (hs : List Nat) (r : RepAcc) (c : Nat) (x : Pixel) : RepAcc :=
  let x0 := s.sheetX0 d.bank
  let r1 := if s.ownLo d.bank ≤ c && c ≤ s.ownHi d.bank then { r with patches := patchPixel ps hs r.patches c d.lineInRep x } else r
  if x0 ≤ c && c < x0 + 16 * s.sheetWidth d.bank then
    let k := cellKey ((c - x0) / 16) (d.lineInRep / 16)
    let q := mapGet {} r1.sheet k
    let c1 : Cell := { r := q.r + x.ch.getD 4 0, g := q.g + x.ch.getD 5 0, b := q.b + x.ch.getD 6 0, count := q.count + 1 }
    { r1 with sheet := mapSet {} r1.sheet k c1 }
  else r1

/-- The pixels of a slice, by module column. -/
def DevSlice.pixels (d : DevSlice) : List (Nat × List Nat) :=
  (List.range 16).flatMap (fun i =>
    let sh := 16 * d.course + i
    if (mapFind d.lanes (4 * sh)).isNone then []
    else (List.range 128).map (fun j => (128 * sh + j, (List.range 4).map (fun b => (mapGet [] d.lanes (4 * sh + b)).getD j 0))))

/-- `DEV_SLICE`. -/
def State.devSlice (s : State) : State :=
  match nextSlice s.dev.input with
  | none => s
  | some d =>
    let par := s.inlinePar d.bank
    let ps := patchesOf s.regs (0x1C + d.bank) none
    let hs := histPatches ps
    let first := d.tickno - d.lineInRep
    let reps := s.dev.reps.map (fun r =>
      if r.first = first && r.bank = d.bank then d.pixels.foldl (fun r (c, xs) => s.inlinePixel d ps hs r c (par.develop xs)) r else r)
    let input := s.dev.input.filter (fun e => !(e.tickno = d.tickno && e.course = d.course))
    let s1 := State.put { s with dev := { s.dev with input := input, reps := reps } } R.DEV_STAT_IN_OCC input.length
    ((s1.setLine d.tickno (fun l => { l with pendCourses := maskSub l.pendCourses (2 ^ d.course) })).linesSettle).repsDone

def execDevSlice (s : State) : Host.Outcome State Fault Refusal := .next (if s.dom dLOFT then s.devSlice else s)

/-! ## Satellite frames (R211–R214) -/

/-- Bytes per pixel of each format (Table 9-6). -/
def fmtBytes (f : Nat) : Nat := if f = 0 then 8 else if f = 1 then 6 else if f = 2 then 2 else 3

def State.ctxWidth (s : State) (m : Nat) : Nat := s.act (R.MCm_SIZE_WIDTH (m - 1))
def State.ctxLines (s : State) (m : Nat) : Nat := s.act (R.MCm_SIZE_LINES_CFG (m - 1))
def State.ctxBpp (s : State) (m : Nat) : Nat := fmtBytes (s.act (R.MCm_CTRL_FMT (m - 1)))
def slotsOf (v : Nat) : Nat := min 16 (max 1 v)
def State.ctxSlots (s : State) (m : Nat) : Nat := slotsOf (s.act (R.MCm_SLOTS_SLOTS (m - 1)))
/-- A slot's bytes, whole 4 KB units. -/
def slotBytes (width lines bpp : Nat) : Nat := ceilDiv (width * lines * bpp) 4096 * 4096
def State.ctxLineAddr (s : State) (m slot line : Nat) : Nat :=
  s.act (R.MCm_RING_BASE (m - 1)) * 4096 + slot * slotBytes (s.ctxWidth m) (s.ctxLines m) (s.ctxBpp m) + line * s.ctxWidth m * s.ctxBpp m

def sfSHORT : Nat := 2
def sfLONG : Nat := 3
def sfLATE : Nat := 4
def sfCRC_ERR : Nat := 5
def sfFMT_ERR : Nat := 6
def sfNO_FE : Nat := 7

/-- The enabled context that takes a port and virtual channel. -/
def State.ctxFor (s : State) (p vc : Nat) : Option Nat :=
  ((List.range 15).map (· + 1)).find? (fun m => s.ctxEn m && s.ctxPort m = p && s.act (R.MCm_CTRL_VC (m - 1)) = vc)

/-- Mark the open frame of a context; an event is told once per frame. -/
def State.satMark (s : State) (m b : Nat) (e : Option Ev) : State :=
  let x := s.ctxOf m
  match x.open_ with
  | none => s
  | some f =>
    if bit f.flags b then s
    else
      let s1 := s.setCtx m { x with open_ := some { f with flags := f.flags ||| 2 ^ b } }
      match e with | none => s1 | some e => s1.raise e

/-- The open frame of a context closes. -/
def State.satClose (s : State) (m : Nat) (noFe : Bool) : State :=
  let x0 := s.ctxOf m
  match x0.open_ with
  | none => s
  | some f0 =>
    let s1 := if f0.lines.length < s.ctxLines m then s.satMark m sfSHORT (some E.DEV_SHORT) else s
    let s2 := if noFe then s1.satMark m sfNO_FE none else s1
    let x := s2.ctxOf m
    match x.open_ with
    | none => s2
    | some f => (s2.setCtx m { x with open_ := none, waiting := x.waiting ++ [f] }).ctxShow m

/-- SAT_FS: a frame opens in a free ring slot, or is dropped whole. -/
def State.satStart (s : State) (m frameno stamp t : Nat) : State :=
  let s1 := (s.at t).satClose m true
  let x := s1.ctxOf m
  let used := x.waiting.map SatFrame.slot
  match (List.range (s1.ctxSlots m)).find? (fun k => !used.contains k) with
  | none => ((s1.setCtx m { x with starts := x.starts + 1, dropping := some frameno }).ctxDrop m 1).ctxShow m
  | some k =>
    let job := match s1.job.active with | none => 0 | some b => s1.get (R.JOB_x_ID_JOB_ID b)
    let f : SatFrame := { frameno := frameno, stamp := stamp, slot := k, tickno := s1.tick.tickno, job := job, start := x.starts + 1, lastT := s1.now }
    (s1.setCtx m { x with starts := x.starts + 1, dropping := none, open_ := some f }).ctxShow m

/-- A packet that belongs to no open frame. -/
def State.satOrphan (s : State) (m : Nat) : State := (s.bump (R.DEV_MCm_CNTk_COUNT (m - 1) 2)).raise E.DEV_ORPHAN

/-- Is the packet one of the open frame, of a frame being dropped, or an orphan? -/
def State.satMatch (s : State) (m frameno : Nat) : Option Bool :=
  let x := s.ctxOf m
  match x.open_ with
  | some f => if f.frameno = frameno then some true else none
  | none => if x.dropping = some frameno then some false else none

/-- SAT_LINE: pixels go to the line of the frame's slot, with the geometry checks. -/
def State.satLine (s : State) (m frameno line : Nat) (px : List Nat) (t : Nat) : State :=
  match s.satMatch m frameno with
  | none => s.satOrphan m
  | some false => s
  | some true =>
    let s0 := s.at t
    let touch (s : State) (g : SatFrame → SatFrame) : State :=
      let x := s.ctxOf m
      s.setCtx m { x with open_ := x.open_.map (fun f => { g f with lastT := s.now }) }
    let bpp := s0.ctxBpp m
    let w := s0.ctxWidth m
    let s1 := if px.length = w * bpp then s0 else s0.satMark m sfFMT_ERR (some E.DEV_FMT_ERR)
    if s0.ctxLines m ≤ line then
      ((touch s1 (fun f => { f with excess := f.excess + 1 })).satMark m sfLONG (some E.DEV_LONG)).bump (R.DEV_MCm_CNTk_COUNT (m - 1) 3)
    else
      let n := min w (px.length / bpp)
      let slot := match (s1.ctxOf m).open_ with | none => 0 | some f => f.slot
      let s2 := s1.setBytes (s1.ctxLineAddr m slot line) (padTo (w * bpp) (px.take (n * bpp)))
      touch s2 (fun f => { f with lines := mapIns f.lines line n })

/-- SAT_FE: the frame closes. -/
def State.satEnd (s : State) (m frameno t : Nat) : State :=
  match s.satMatch m frameno with
  | none => s.satOrphan m
  | some false => (let x := s.ctxOf m; s.setCtx m { x with dropping := none })
  | some true => (s.at t).satClose m false

/-- `SAT_FRAME_TIMEOUT`: 100 ms without a packet of the open frame. -/
def State.satTimeout (s : State) (m : Nat) : State :=
  match (s.ctxOf m).open_ with
  | none => s
  | some f => (s.at (f.lastT + 100 * msClk)).satClose m true

def execSatFrameTimeout (m : Fin 16) (s : State) : Host.Outcome State Fault Refusal :=
  .next (if m.val = 0 then s else s.satTimeout m.val)

/-! ## Memory segments (R216, R217) -/

/-- The inputs of a pixel in a format. -/
def decodePixel (fmt : Nat) (bs : List Nat) : List Nat :=
  let h (i : Nat) : Nat := bs.getD (2 * i) 0 + 256 * bs.getD (2 * i + 1) 0
  if fmt = 0 then [h 0, h 1, h 2, h 3]
  else if fmt = 1 then [h 0, h 1, h 2, 0]
  else if fmt = 2 then [0, 0, 0, h 0]
  else ((List.range 3).map (fun i => let b := bs.getD i 0; 16 * b + (if b = 255 then 32768 else 0))) ++ [0]

/-- The context whose turn it is: the one in turn if it has work, else the next with work in ascending order. -/
def State.hasWork (s : State) (m : Nat) : Bool := !(s.ctxOf m).waiting.isEmpty
def State.turnAfter (s : State) (m : Nat) : Option Nat := ((List.range 15).map (fun i => (m + i) % 15 + 1)).find? s.hasWork
def State.turnNow (s : State) : Option Nat :=
  if s.dev.turn ≠ 0 && s.hasWork s.dev.turn then some s.dev.turn else s.turnAfter s.dev.turn

def State.setTurn (s : State) (m : Nat) : State := State.put { s with dev := { s.dev with turn := m } } R.DEV_STAT_TURN m

/-- Replace the oldest closed frame of a context. -/
def State.setHead (s : State) (m : Nat) (f : SatFrame) : State :=
  let x := s.ctxOf m
  s.setCtx m { x with waiting := f :: x.waiting.drop 1 }

/-- The registers that a frame is developed with. -/
def ctxRegs (s : State) (m : Nat) : SMap Word :=
  s.force.filter (fun (a, _) => (0x1B400 + 0x40 * m ≤ a && a < 0x1B440 + 0x40 * m) || a / 4096 = 0x1E ||
    (0x40 + 3 * (m + 1) ≤ a / 4096 && a / 4096 < 0x43 + 3 * (m + 1)))

/-- Development of a context's oldest frame begins: parameters are fixed, LATE is found. -/
def State.segBegin (s : State) (m : Nat) (f : SatFrame) : State × SatFrame :=
  if f.begun then (s, f)
  else
    let late := decide (f.start + 8 ≤ (s.ctxOf m).starts)
    let f1 := { f with begun := true, par := ctxRegs s m, flags := if late then f.flags ||| 2 ^ sfLATE else f.flags }
    (if late then (s.raise E.DEV_LATE).bump (R.DEV_MCm_CNTk_COUNT (m - 1) 4) else s, f1)

/-- The frame's development has ended: its record is written and its slot is free. -/
def State.segEnd (s : State) (m : Nat) (f : SatFrame) : State :=
  let x := s.ctxOf m
  let s1 := s.setCtx m { x with waiting := x.waiting.drop 1, turnLines := 0 }
  let s2 := (s1.bump (R.DEV_MCm_CNTk_COUNT (m - 1) 0)).put (R.DEV_MCm_CNTk_COUNT (m - 1) 5) f.frameno
  let ps := patchesOf f.par 0x1E (some m)
  let s3 :=
    if bits ((ctxPar f.par m).word (0x1B400 + 0x40 * m)) 1 1 = 0 then s2.histLimit ps
    else
      let h : StatHead := { ctx := m, flags := f.flags, number := f.frameno, tickno := f.tickno, stamp := f.stamp, lines := f.lines.length
                            dropped := x.dropped, excess := f.excess, job := f.job }
      let bs := s2.statRecord h ps f.patches 0 (s2.ctxWidth m - 1) (s2.ctxLines m)
      let s4 := s2.statWrite ps bs
      if (s2.ringPut 3 bs).isSome then s4.setCtx m { s4.ctxOf m with dropped := 0 } else s4
  let s5 := s3.ctxShow m
  s5.setTurn ((s5.turnAfter m).getD 0)

/-- One segment of the context in turn: up to 2,048 pixels of the next received line. -/
def State.segment (s : State) (m : Nat) : State :=
  match (s.ctxOf m).waiting with
  | [] => s
  | f0 :: _ =>
    let (s1, f1) := (s.setTurn m).segBegin m f0
    match f1.lines.find? (fun (k, _) => f1.lineDone ≤ k) with
    | none => s1.segEnd m f1
    | some (line, count) =>
      let w := s1.ctxWidth m
      let bpp := s1.ctxBpp m
      let n := min 2048 (w - f1.pixDone)
      let a := s1.ctxLineAddr m f1.slot line + f1.pixDone * bpp
      let par := ctxPar f1.par m
      let ps := patchesOf f1.par 0x1E (some m)
      let hs := histPatches ps
      let fmt := s1.act (R.MCm_CTRL_FMT (m - 1))
      let data := s1.bytes a (n * bpp)
      let acc := (List.range n).foldl (fun acc i =>
        let bad := s1.poisoned (a + i * bpp) bpp
        if bad || count ≤ f1.pixDone + i then acc
        else patchPixel ps hs acc (f1.pixDone + i) line (par.develop (decodePixel fmt ((data.drop (i * bpp)).take bpp)))) f1.patches
      let bad := s1.poisoned a (n * bpp)
      let flags := if bad then f1.flags ||| 2 ^ sfFMT_ERR else f1.flags
      let s2 := (if bad && !bit f1.flags sfFMT_ERR then s1.raise E.DEV_FMT_ERR else s1).ddrRead a (n * bpp)
      let endLine := w ≤ f1.pixDone + n
      let f2 := { f1 with patches := acc, flags := flags, lineDone := if endLine then line + 1 else f1.lineDone
                          pixDone := if endLine then 0 else f1.pixDone + n }
      let s3 := s2.setHead m f2
      if !endLine then s3.ctxShow m
      else if (f2.lines.find? (fun (k, _) => f2.lineDone ≤ k)).isNone then s3.segEnd m f2
      else
        let x := s3.ctxOf m
        if x.turnLines + 1 < 64 then (s3.setCtx m { x with turnLines := x.turnLines + 1 }).ctxShow m
        else
          let s4 := (s3.setCtx m { x with turnLines := 0 }).ctxShow m
          s4.setTurn ((s4.turnAfter m).getD 0)

/-- `DEV_SEGMENT`: while no in-line slice waits. -/
def State.devSegment (s : State) : State :=
  if !s.dom dLOFT || !s.dev.input.isEmpty || !(s.inRun || s.isIdle) then s
  else match s.turnNow with
    | none => s
    | some m => s.segment m

def execDevSegment (s : State) : Host.Outcome State Fault Refusal := .next s.devSegment

/-! ## COMMIT of the memory contexts (R218, R219) -/

/-- A register of context m's block or curves. -/
def ctxReg (m a : Nat) : Bool :=
  (0x1B400 + 0x40 * m ≤ a && a < 0x1B440 + 0x40 * m) || (0x40 + 3 * (m + 1) ≤ a / 4096 && a / 4096 < 0x43 + 3 * (m + 1))

/-- Does a context's frozen block break a rule of its own? -/
def State.ctxBad (s : State) (m : Nat) : Bool :=
  let i := m - 1
  let fixed := [R.MCm_CTRL_PORT i, R.MCm_CTRL_VC i, R.MCm_CTRL_FMT i, R.MCm_SIZE_WIDTH i, R.MCm_SIZE_LINES_CFG i, R.MCm_RING_BASE i, R.MCm_SLOTS_SLOTS i]
  let w := s.frz (R.MCm_SIZE_WIDTH i)
  let n := s.frz (R.MCm_SIZE_LINES_CFG i)
  (s.ctxEn m && s.frz (R.MCm_CTRL_EN i) = 1 && fixed.any (fun f => s.frz f ≠ s.act f)) ||
    w % 16 ≠ 0 || w < 16 || 8192 < w || n = 0 ||
    !inDdr (s.frz (R.MCm_RING_BASE i) * 4096) (slotsOf (s.frz (R.MCm_SLOTS_SLOTS i)) * slotBytes w n (fmtBytes (s.frz (R.MCm_CTRL_FMT i))))

/-- The port and virtual channel that an enabled context would take, from its frozen block or, where that is refused, as it is. -/
def State.ctxKey (s : State) (m : Nat) : Option (Nat × Nat) :=
  let i := m - 1
  let g (f : Fld) : Nat := if s.ctxBad m then s.act f else s.frz f
  let p := if g (R.MCm_CTRL_PORT i) = 3 then 0 else g (R.MCm_CTRL_PORT i)
  if g (R.MCm_CTRL_EN i) = 1 then some (p, g (R.MCm_CTRL_VC i)) else none

/-- The port and virtual channel that a context has in force. -/
def State.ctxHas (s : State) (m : Nat) : Option (Nat × Nat) :=
  if s.ctxEn m then some (s.ctxPort m, s.act (R.MCm_CTRL_VC (m - 1))) else none

/-- A context is refused: its own rules, or a port and channel that another enabled context has or takes first. -/
def State.ctxRefused (s : State) (m : Nat) : Bool :=
  s.ctxBad m || (match s.ctxKey m with
    | none => false
    | some k => s.ctxHas m ≠ some k && ((List.range 15).map (· + 1)).any (fun j =>
        j ≠ m && s.ctxKey j = some k && (s.ctxHas j = some k || j < m)))

/-- The COMMIT of the DEV page at its boundary. A patch entry changes unless it names, before or after, a refused context. -/
def State.devCommit (s : State) : State :=
  let bad := ((List.range 15).map (· + 1)).filter s.ctxRefused
  let off := ((List.range 15).map (· + 1)).filter (fun m => !bad.contains m && s.ctxEn m && s.frz (R.MCm_CTRL_EN (m - 1)) = 0)
  let patchHeld (a : Nat) : Bool :=
    let k := (a % 4096 - 0x400) / 12
    bad.contains (s.act (R.PATMk_W2_CTX k)) || bad.contains (s.frz (R.PATMk_W2_CTX k))
  let sel (a : Nat) : Bool := commitSet 0x01B a && !bad.any (fun m => ctxReg m a) && !(a / 4096 = 0x1E && patchHeld a)
  let s1 := s.takeFrozen sel
  let s2 := off.foldl State.ctxDiscard s1
  (s2.raiseBy E.DEV_CFG_REFUSED bad.length).bwShow

end Sys2Proof.Machine
end

