-- ==== Sys2Proof/Machine/Records.lean ====
section
/-! DEFINITION. The course mergers, the record writer, uninspected-line records and the learner (R23, R24, R140, R190–R197, R236, R437). -/
namespace Sys2Proof.Machine

/-! ## The mergers (R140, R201) -/

/-- The oldest line of which a course holds output entries. -/
def State.mergeLine (s : State) (c : Nat) : Option Line := s.lines.find? (fun l => l.exposed && s.courseOut c l.tickno)

/-- The lanes of an output entry as the Developer takes them. -/
def OutEntry.lanes (o : OutEntry) (sh : Nat) (m : SMap (List Nat)) : SMap (List Nat) :=
  (List.range 4).foldl (fun m b => mapIns m (4 * sh + b) (mapGet [] o.dev b)) m

/-- The output entries of a line in a course, by Shingle, and the queues without them. -/
def State.takeOuts (s : State) (c n : Nat) : List (Nat × OutEntry) :=
  (List.range 16).flatMap (fun i => ((s.engine (16 * c + i)).out.filter (fun o => o.tickno = n)).map (fun o => (16 * c + i, o)))
def State.dropOuts (s : State) (c n : Nat) : State :=
  (List.range 16).foldl (fun s i =>
    let e := s.engine (16 * c + i)
    if e.out.any (fun o => o.tickno = n) then
      (s.setEngine (16 * c + i) { e with out := e.out.filter (fun o => o.tickno ≠ n) }).shShow (16 * c + i)
    else s) s

/-- The Developer has no room: DEV_FULL for the course's Shingles of the mask. -/
def State.sliceFull (s : State) (l : Line) (c : Nat) : State :=
  let s1 := (s.raise E.DEV_DEV_FULL).addReport l.tickno rcDEV_FULL (courseBits l.mask c * 2 ^ (16 * c))
  ((s1.setLine l.tickno (fun l => { l with pendCourses := maskSub l.pendCourses (2 ^ c) })).linesSettle).repsDone

/-- The slice enters the Developer's input. -/
def State.sliceIn (s : State) (l : Line) (c : Nat) (outs : List (Nat × OutEntry)) : State :=
  let d : DevSlice := { tickno := l.tickno, course := c, bank := l.bank, lanes := outs.foldl (fun m (sh, o) => o.lanes sh m) []
                        repeatNo := l.repeatNo, lineInRep := l.lineInRep }
  let q := s.dev.input ++ [d]
  State.put { s with dev := { s.dev with input := q } } R.DEV_STAT_IN_OCC q.length

/-- The slice goes on: to the Developer where it has room. -/
def State.sliceOn (s : State) (l : Line) (c : Nat) (outs : List (Nat × OutEntry)) : State :=
  if s.dev.input.length < 16 then s.sliceIn l c outs else s.sliceFull l c

/-- `SLICE_MERGE`: every Shingle of the course's mask has delivered the line; its output entries go to the record writer and, where the
Developer has room, to the Developer as a slice. -/
def State.sliceMerge (s : State) (c : Nat) : State :=
  match s.mergeLine c with
  | none => s
  | some l =>
    if courseBits l.gone c ≠ courseBits l.mask c then s
    else
      let outs := s.takeOuts c l.tickno
      let s1 := s.dropOuts c l.tickno
      State.sliceOn { s1 with rec_ := { s1.rec_ with work := s1.rec_.work ++ outs } } l c outs

def execSliceMerge (c : Fin 12) (s : State) : Host.Outcome State Fault Refusal := .next (s.sliceMerge c.val)

/-! ## Learning (R197) -/

/-- One 16-bit sum of the learning region. -/
def State.sumAt (s : State) (x p c b : Nat) : Nat := s.laccBase x + 2 * (98304 * p + 4 * c + b)

/-- A value of the development block in proof units. -/
def proofValue (v : Nat) : Nat := min 255 ((v % 32768 + 8) / 16)

/-- The bands that the proof slot of a bank offers. -/
def State.proofBands (s : State) (x : Nat) : List Nat := bitsOf 4 (s.get (R.EXP_x_SLOTk_CTRL_BANDS x (s.get (R.JOB_x_CFG_PROOF_SLOT x))))

/-- Line p of a Shingle is seeded in repeat 0: the provisional proof, the sums and a count of 1. -/
def State.learnSeed (s : State) (x sh p : Nat) (o : OutEntry) : State :=
  let base := s.get (R.JOB_x_PROOF_BASE x) * 4096
  let s1 := (s.proofBands x).foldl (fun s b =>
    (List.range 128).foldl (fun s j =>
      let v := proofValue ((mapGet [] o.dev b).getD j 0)
      let c := 128 * sh + j
      (s.setBytes (base + 98304 * p + 4 * c + b) [v]).setBytes (s.sumAt x p c b) (leBytes 2 v)) s) s
  s1.setBytes (s1.countBase x + 192 * p + sh) [1]

/-- A judged line is added: live lane l at proof column 128·s − 8 + l + round(ACROSS / 256). The sums of those columns and the count are
read; a poisoned beat among them skips the line for the Shingle (R230). -/
def State.learnAdd (s : State) (x sh p : Nat) (o : OutEntry) : State :=
  let shift := roundDiv o.across 256
  let first := (max 0 (128 * (sh : Int) + shift)).toNat
  let past := (min 24576 (128 * (sh : Int) + 128 + shift)).toNat
  let lo := s.sumAt x p first 0
  let n := 8 * (past - first)
  let cnt := s.countBase x + 192 * p + sh
  let bad := s.poisoned lo n || s.poisoned cnt 1
  let s := (s.ddrRead lo n).ddrRead cnt 1
  if bad then s
  else
    let s1 := (s.proofBands x).foldl (fun s b =>
      (List.range 128).foldl (fun s j =>
        let c : Int := (128 * sh + j : Nat) + shift
        if c < 0 || 24575 < c then s
        else
          let a := s.sumAt x p c.toNat b
          s.setBytes a (leBytes 2 (leNat (s.bytes a 2) + proofValue ((mapGet [] o.dev b).getD j 0)))) s) s
    let k := s1.countBase x + 192 * p + sh
    s1.setBytes k [((s1.byte k).toNat + 1) % 256]

/-- The learner takes a line of a Shingle; `sev` is the highest severity among its records. -/
def State.learn (s : State) (l : Line) (sh : Nat) (o : OutEntry) (sev : Nat) : State :=
  match o.learn with
  | none => s
  | some p =>
    let st := s.get R.JOB_LEARN_STAT_STATE
    if s.job.active ≠ some l.bank || l.act ≠ s.job.act then s
    else if l.repeatNo = 0 then s.learnSeed l.bank sh p o
    else if st = 2 && sev ≤ s.get (R.JOB_x_LEARN_SEV_MAX l.bank) then s.learnAdd l.bank sh p o
    else s

/-! ## Defect records (R190–R193, R437) -/

/-- An emit block's fields (Table 7-8). -/
def blkNum (b : List Nat) (o n : Nat) : Nat := leNat ((b.drop o).take n)

/-- The entry of the filters that decides a record, if any. -/
def State.filterOf (s : State) (x cls : Nat) : Option Nat :=
  (List.range 16).find? (fun k => s.on (R.JOB_x_FILTk_ACTION x k) && s.get (R.JOB_x_FILTk_CLASS x k) = cls)

/-- The filters: whether a record is reported, and the counters after it. -/
def State.filter (s : State) (x cls sev area : Nat) : State × Bool :=
  match s.filterOf x cls with
  | none => (s, true)
  | some k =>
    let act := s.get (R.JOB_x_FILTk_ACTION x k)
    if sev < s.get (R.JOB_x_FILTk_MIN_SEV x k) || area < s.get (R.JOB_x_FILTk_MIN_AREA x k) || act = 2 then
      (s.bump (R.JOB_FILTk_CNT_W1_SUPPRESSED k), false)
    else if act = 1 then (s.bump (R.JOB_FILTk_CNT_W0_REPORTED k), true)
    else (s, false)

/-- A join half: a boundary of this module, or the seam of a module position. -/
def joinHalf (pos idx : Nat) : Nat := 2 ^ 31 + pos % 65536 * 256 + idx

/-- The column range of an emit block, clipped, with its join halves (steps 2–6 of R191); none where nothing is left. -/
def State.clipCols (s : State) (x sh : Nat) (b : List Nat) : Option (Nat × Nat × Nat × Nat × Bool) :=
  let lo := s.ownLo x
  let hi := s.ownHi x
  let a := max (128 * sh) lo
  let z := min (128 * sh + 127) hi
  let c0 : Int := (128 * sh + blkNum b 8 2 : Nat) - (8 : Int)
  let c1 : Int := (128 * sh + blkNum b 10 2 : Nat) - (8 : Int)
  let f := max c0 a
  let g := min c1 z
  if g < f then none
  else
    let pos := s.get R.JOB_CTRL_CHAIN_POS
    let jlo := if c0 ≤ a then (if a = lo then joinHalf pos 0 else joinHalf pos sh) else 0
    let jhi := if (z : Int) ≤ c1 then (if z = hi then joinHalf (pos + 1) 0 else joinHalf pos (sh + 1)) else 0
    some (f.toNat, g.toNat, jlo, jhi, f ≠ c0 || g ≠ c1)

/-- The repeat number and line of a tick; before the first repeat known none is stated, and the values are free. -/
def State.repeatOf (s : State) (n : Nat) : (Nat × Nat) × State :=
  match s.rec_.reps.find? (fun (f, _) => f ≤ n) with
  | some (f, k) => ((k, (n - f) % 2 ^ 32), s)
  | none => let (i, s1) := s.fresh; ((Config.freeNat i % 2 ^ 32, Config.freeNat i / 2 ^ 32 % 2 ^ 32), s1)

/-- A record that the filters report: the block, its clipped range and joins. -/
structure RecItem where
  blk : List Nat := []
  c0 : Nat := 0
  c1 : Nat := 0
  jlo : Nat := 0
  jhi : Nat := 0
  clipped : Bool := false
  deriving DecidableEq, Repr

/-- Clip and filter the blocks of a line of a Shingle, in order. -/
def State.gather (s : State) (x sh : Nat) : List (List Nat) → State × List RecItem
  | [] => (s, [])
  | b :: bs =>
    if blkNum b 0x17 1 = 0xFF then State.gather s x sh bs
    else match s.clipCols x sh b with
      | none => State.gather (s.raise E.JOB_SEAM_DROP) x sh bs
      | some (c0, c1, jlo, jhi, clipped) =>
        let (s1, ok) := s.filter x (blkNum b 0x17 1) (blkNum b 0x18 1) (blkNum b 0x10 4)
        let (s2, rest) := State.gather s1 x sh bs
        (s2, if ok then { blk := b, c0 := c0, c1 := c1, jlo := jlo, jhi := jhi, clipped := clipped } :: rest else rest)

/-- A defect record (Table 8-8). -/
def State.defectRecord (s : State) (l : Line) (sh : Nat) (o : OutEntry) (i : RecItem) (trunc : Bool) : List Nat × State :=
  let b := i.blk
  let ((rep, line), s1) := s.repeatOf (blkNum b 0 8)
  let x0 := s.sheetX0 l.bank
  let kf := blkNum b 0x19 1
  let flags := boolNat (i.jlo ≠ 0 || i.jhi ≠ 0) + 2 * boolNat l.lampEol + 4 * boolNat o.thermal + 8 * boolNat trunc + 16 * (kf % 4) +
    64 * boolNat o.coast + 128 * boolNat l.lampSafe + 256 * boolNat o.stackGap + 512 * boolNat o.proofPart + 1024 * boolNat i.clipped
  (sealBlock (leBytes 8 (blkNum b 0 8) ++ leBytes 4 rep ++ leBytes 4 line ++ leBytes 2 i.c0 ++ leBytes 2 i.c1 ++ leBytes 4 (blkNum b 0x0C 4) ++
    leBytes 4 (blkNum b 0x10 4) ++ leBytes 2 (blkNum b 0x14 2) ++ leBytes 1 (blkNum b 0x16 1) ++ leBytes 1 (blkNum b 0x17 1) ++
    leBytes 1 (blkNum b 0x18 1) ++ leBytes 1 sh ++ leBytes 2 flags ++ leBytes 2 ((i.c0 - x0) / 16) ++ leBytes 2 (line / 16) ++
    leBytes 4 i.jlo ++ leBytes 4 i.jhi ++ leBytes 4 s.rec_.seq0 ++ leBytes 2 (s.get R.JOB_CTRL_CHAIN_POS) ++
    leBytes 2 (s.get (R.JOB_x_ID_JOB_ID l.bank)) ++ leBytes 4 0), { s1 with rec_ := { s1.rec_ with seq0 := (s1.rec_.seq0 + 1) % 2 ^ 32 } })

/-- Write the records of a line of a Shingle; the last carries TRUNC. -/
def State.writeItems (s : State) (l : Line) (sh : Nat) (o : OutEntry) : List RecItem → State
  | [] => s
  | i :: is =>
    let (bs, s1) := s.defectRecord l sh o i (o.trunc && is.isEmpty)
    State.writeItems ((s1.ringPut 0 bs).getD s1) l sh o is

/-- `RECORD_WRITE`: the oldest output entry that waits becomes the defect records of its line and Shingle. -/
def State.recordWrite (s : State) : State :=
  match s.rec_.work with
  | [] => s
  | (sh, o) :: rest =>
    let s0 := { s with rec_ := { s.rec_ with work := rest } }
    match s0.lineOf o.tickno with
    | none => s0
    | some l =>
      if o.noRecords || l.gaveUp sh then (((s0.learn l sh o 256).handledBit o.tickno sh).linesSettle).repsDone
      else
        let (s1, items) := s0.gather l.bank sh o.emits
        let n := items.length
        let s2 :=
          if s1.ringFree 0 < n then
            let s2 := { s1 with rec_ := { s1.rec_ with seq0 := (s1.rec_.seq0 + n) % 2 ^ 32 } }
            ((s2.ringDrop 0).ringOverflow 0).addReport o.tickno rcRING_FULL (2 ^ sh)
          else s1.writeItems l sh o items
        let sev := items.foldl (fun m i => max m (blkNum i.blk 0x18 1)) 0
        (((s2.learn l sh o sev).handledBit o.tickno sh).linesSettle).repsDone

def execRecordWrite (s : State) : Host.Outcome State Fault Refusal := .next (if s.dom dDDR then s.recordWrite else s)

/-! ## Uninspected-line records (R23, R24, R194) -/

def allShingles : Nat := 2 ^ 192 - 1

def State.ulBytes (s : State) (r : UlRec) (isOpen : Bool) : List Nat :=
  sealBlock (leBytes 8 r.first ++ leBytes 8 r.last ++ leBytes 24 r.mask ++ [r.reason, boolNat isOpen + 2 * boolNat r.overflow] ++
    leBytes 2 (s.get R.JOB_CTRL_CHAIN_POS) ++ leBytes 4 r.rep ++ leBytes 4 r.line ++ leBytes 4 r.seq ++ leBytes 2 r.job ++ leBytes 2 0)

/-- The open record is still in the ring: the host has not freed it. -/
def State.ulHeld (s : State) (r : UlRec) : Bool :=
  ringDist (s.ringUnits 1) (s.ringRd 1) r.slotOfs < ringDist (s.ringUnits 1) (s.ringRd 1) (s.ringWr 1)

/-- The newest record that can still be widened. -/
def State.ulOpen (s : State) : Option UlRec := s.rec_.openRec.filter s.ulHeld

/-- Rewrite the open record. -/
def State.ulSet (s : State) (r : UlRec) : State :=
  State.ringRewrite { s with rec_ := { s.rec_ with openRec := some r } } 1 r.slotOfs (s.ulBytes r true)

/-- A record enters the ring as the open one; the one before is rewritten as closed. -/
def State.ulPush (s : State) (r : UlRec) : State :=
  let s1 := match s.ulOpen with | none => s | some q => s.ringRewrite 1 q.slotOfs (s.ulBytes q false)
  let r1 := { r with slotOfs := s1.ringWr 1 }
  match s1.ringPut 1 (s1.ulBytes r1 true) with
  | none => s1
  | some s2 => { s2 with rec_ := { s2.rec_ with openRec := some r1 } }

/-- A record for a report takes its SEQ when it is opened. -/
def State.ulNew (s : State) (q : Report) : State × UlRec :=
  ({ s with rec_ := { s.rec_ with seq1 := (s.rec_.seq1 + 1) % 2 ^ 32 } },
   { first := q.tickno, last := q.tickno, mask := q.mask, reason := q.reason, rep := q.rep, line := q.line, seq := s.rec_.seq1, job := q.job })

/-- A record widened for want of room (R24). -/
def UlRec.widen (r : UlRec) (n : Nat) : UlRec := { r with last := max r.last n, mask := allShingles, reason := rcMIXED, overflow := true }

/-- One report of a line is in the ring, or covered by the pending record. -/
def State.ulCount (s : State) (n : Nat) (pend : Bool) : State :=
  State.linesSettle (s.setLine n (fun l => if pend then { l with inPend := l.inPend + 1 } else { l with waitRecs := l.waitRecs - 1 }))

/-- The report at the head of the queue is recorded. -/
def State.ulRecord (s : State) (q : Report) : State :=
  match s.rec_.pendRec with
  | some p => State.ulCount (State.ringOverflow { s with rec_ := { s.rec_ with pendRec := some (p.widen q.tickno) } } 1) q.tickno true
  | none =>
    match s.ulOpen with
    | some r =>
      if r.reason = q.reason && r.mask = q.mask && q.tickno = r.last + 1 then (s.ulSet { r with last := q.tickno }).ulCount q.tickno false
      else if 1 ≤ s.ringFree 1 then
        let (s1, u) := s.ulNew q
        (s1.ulPush u).ulCount q.tickno false
      else ((s.ulSet (r.widen q.tickno)).ringOverflow 1).ulCount q.tickno false
    | none =>
      let (s1, u) := s.ulNew q
      if 1 ≤ s.ringFree 1 then (s1.ulPush u).ulCount q.tickno false
      else State.ulCount (State.ringOverflow { s1 with rec_ := { s1.rec_ with pendRec := some u } } 1) q.tickno true

/-- `PENDING_RECORD_WRITE`: ring 1 has room for the pending record. -/
def State.ulPending (s : State) : State :=
  match s.rec_.pendRec with
  | none => s
  | some p =>
    if s.ringFree 1 < 1 then s
    else
      let s1 := State.ulPush { s with rec_ := { s.rec_ with pendRec := none } } p
      State.linesSettle { s1 with lines := s1.lines.map (fun (l : Line) => { l with waitRecs := l.waitRecs - l.inPend, inPend := 0 }) }

def execPendingRecordWrite (s : State) : Host.Outcome State Fault Refusal := .next (if s.dom dDDR then s.ulPending else s)

/-- `UNINSPECTED_RECORD`: the oldest report that waits is merged into the newest record or opens a new one. -/
def State.uninspected (s : State) : State :=
  let s0 := s.ulPending
  match s0.rec_.reports with
  | [] => s0
  | q :: rest => (State.ulRecord { s0 with rec_ := { s0.rec_ with reports := rest } } q).repsDone

def execUninspectedRecord (s : State) : Host.Outcome State Fault Refusal := .next (if s.dom dDDR then s.uninspected else s)

end Sys2Proof.Machine
end

