-- ==== Sys2Proof/Machine/Ticks.lean ====
section
/-! DEFINITION. TICKNO: the line of a tick, positions without an edge, gaps of the chain, single steps (R96, R268, R300, R303). -/
namespace Sys2Proof.Machine

/-- TICKNO takes a value; TICK_NO shows it. -/
def State.setTickno (s : State) (n : Nat) : State :=
  State.put64 { s with tick := { s.tick with tickno := n, firstTick := false } } R.TICK_NO_LO_TICKNO R.TICK_NO_HI_TICKNO n

/-- The line of tick n for the active bank as it stands. -/
def State.newLine (s : State) (x n : Nat) (sheet : Bool) : Line :=
  let r := s.job.rep
  { tickno := n, bank := x, act := s.job.act, mask := s.smask x, dir := s.webDir, proof := s.get R.JOB_PROOF_ACT_BASE
    repeatNo := r.number, lineInRep := n - r.boundary, first := decide (n = s.job.act)
    repStart := decide (n = r.boundary), sheet := sheet, lampEol := s.on R.LAMP_STAT_EOL, lampSafe := s.on R.LAMP_STAT_SAFE
    reregNo := s.job.reregNo, keepAct := s.job.keepAct, keepCut := s.job.keepCut }

/-- A line of the active bank that no exposure makes, reported whole; none where no job runs. -/
def State.lostTick (s : State) (n : Nat) (sheet : Bool) (reason : Nat) : State :=
  match s.job.active with
  | none => s
  | some x => s.lostLine (s.newLine x n sheet) reason

/-- TICKNO advances to n without an edge: the job sees the tick, and its line is reported. -/
def State.passTick (s : State) (n reason : Nat) : State := ((s.repSettle.setTickno n).jobTick n {}).lostTick n false reason

/-- Count lines not exposed (R96, R103). -/
def State.countLost (s : State) (k : Nat) : State :=
  s.put64 R.TICK_LOST_LO_LOST R.TICK_LOST_HI_LOST ((s.get64 R.TICK_LOST_LO_LOST R.TICK_LOST_HI_LOST + k) % 2 ^ 64)

/-- Positions that R96 passes over behind the present TICKNO. -/
def State.skipOver (s : State) (k : Nat) : State :=
  (((List.range k).foldl (fun s _ => s.passTick (s.tick.tickno + 1) rcRATE_CAP) s).countLost k).raiseBy E.TICK_RATE_CAP k

/-- Before a single step of TICKNO that would reach TICKNO_HWM a LIFE record is committed that covers it (R268). -/
def State.lifeBefore (s : State) (n : Nat) : State :=
  if s.nvs.saved.hwm ≤ n && s.nvsUp then s.lifeCommitAt n else s

/-- The lines of a gap of the chain up to but not including TICKNO n, for a running job (R300, R307). -/
def State.chainGap (s : State) (n : Nat) : State :=
  let k := n - (s.tick.tickno + 1)
  if !s.jobRunning || k = 0 then s
  else
    let s1 := (List.range k).foldl (fun s _ => s.passTick (s.tick.tickno + 1) rcCHAIN_LOST) s
    s1.put64 R.CHAIN_LOST_LO_COUNT R.CHAIN_LOST_HI_COUNT ((s1.get64 R.CHAIN_LOST_LO_COUNT R.CHAIN_LOST_HI_COUNT + k) % 2 ^ 64)

/-- A token's tick that has no edge: TICKNO advances to its number, and its line is reported as at the head. -/
def State.noEdgeTick (s : State) (n : Nat) : State :=
  if n ≤ s.tick.tickno then s else ((((s.lifeBefore n).chainGap n).passTick n rcRATE_CAP).countLost 1).raise E.TICK_RATE_CAP

/-- The NOEDGE tokens that follow the tick in hand. -/
def State.noEdgeQueue : Nat → State → State
  | 0, s => s
  | k + 1, s => match s.tick.queue with
    | [] => s
    | d :: rest =>
      if d.noEdge then State.noEdgeQueue k (State.noEdgeTick { s with tick := { s.tick with queue := rest } } (d.tno.getD 0)) else s

/-- TICKNO moves forward to agree with the chain while no job runs (R303). -/
def State.ticknoAdvance (s : State) (n : Nat) : State := ((s.setTickno n).linesSettle).raise E.RIDGE_TICKNO_ADV

/-- A step that waits is made where no job runs and a LIFE record covers it; with a job it is dropped. -/
def State.ticknoPend (s : State) : State :=
  match s.chain.pend with
  | none => s
  | some n =>
    let s1 := { s with chain := { s.chain with pend := none } }
    if s.jobRunning || n ≤ s.tick.tickno then s1
    else if s.nvs.saved.hwm ≤ n then s
    else s1.ticknoAdvance n

/-- Is no tick boundary to be waited for (R303, R414): outside RUN, before RUN's first tick edge, after the flush steps? -/
def State.noBoundary (s : State) : Bool :=
  !s.inRun || s.tick.lastEdge.isNone || (s.on R.TICK_STAT_STOPPED && s.tick.flushLeft = 0)

/-- Does TICKNO agree with the chain at once: no boundary to be waited for, or STOPPED (R303)? -/
def State.tnoAtOnce (s : State) : Bool := s.noBoundary || s.on R.TICK_STAT_STOPPED

/-- `LIFE_COMMIT` (R268): a LIFE record is committed when 600 s of powered time or 120,000,000 of TICKNO have passed since
the last one, or before a waiting single step of TICKNO that would reach TICKNO_HWM; the record then covers the step. -/
def State.lifeDue (s : State) : Bool :=
  600 * secClk ≤ s.now - s.nvs.lastLifeTime || s.nvs.lastLifeTick + 120000000 ≤ s.tick.tickno
    || (match s.chain.pend with | none => false | some n => s.nvs.saved.hwm ≤ n)

def execLifeCommit (t : Nat) (s : State) : Host.Outcome State Fault Refusal :=
  let s1 := s.at t
  if s1.nvsUp && s1.lifeDue then
    let s2 := match s1.chain.pend with
      | none => s1.lifeCommit
      | some n => if s1.nvs.saved.hwm ≤ n then s1.lifeCommitAt n else s1.lifeCommit
    .next (if s2.tnoAtOnce then s2.ticknoPend else s2)
  else .next s1

end Sys2Proof.Machine
end

