-- ==== Sys2Proof/Machine/Chain.lean ====
section
/-! DEFINITION. Chain time, tick tokens, token loss, fallback and restoration (R298–R307). -/
namespace Sys2Proof.Machine

/-- CHAIN_STAT.HEAD (R308). -/
def State.headShow (s : State) : State := s.put R.CHAIN_STAT_HEAD (boolNat (!s.chained && s.act R.CHAIN_CTRL_DOWN_EN = 1))

/-- The value nearest to `base` that has the low w bits given (R300). -/
def nearest (w base low : Nat) : Nat :=
  let c := base / 2 ^ w * 2 ^ w + low % 2 ^ w
  if base + 2 ^ (w - 1) < c && 2 ^ w ≤ c then c - 2 ^ w else if c + 2 ^ (w - 1) < base then c + 2 ^ w else c

/-- The measured delay of port U's link in ns (RP_LINK_DLY is in 100 ps). -/
def State.linkNs (s : State) : Nat := (s.get (R.RP_LINK_DLY_DLY 1) + 5) / 10

/-! ## Chain time (R298) -/

/-- `TIME`: a TIME block on port U. While locked an outlier is ignored; unlocked, a large error is stepped, to the received value as R298
words it; otherwise the rate is steered. The law of the servo is not given: the rate is a free value within ±100 ppm (log 80). -/
def State.timeBlock (s : State) (ct t : Nat) : State :=
  if !s.chained || s.portState 1 ≠ rpUP then s
  else
    let s0 := s.at t
    let locked := s0.on R.CHAIN_STAT_CT_LOCK
    let here := s0.chainTime t
    let rcv := if locked then nearest 48 here ct else s0.chain.ctHigh * 2 ^ 48 + ct % 2 ^ 48
    let e : Int := (rcv : Int) + s0.linkNs - here
    if locked && 50 < e.natAbs then s0
    else
      let s1 := s0.put R.CHAIN_CT_ERR_E (ofSigned 16 (clampI (-32768) 32767 e))
      let c : Chain := { s1.chain with lastTime := some t, okRun := if e.natAbs ≤ 20 then s1.chain.okRun + 1 else 0 }
      if !locked && 1000 < e.natAbs then s1.setChain { c with ctBase := rcv, ctAt := t }
      else
        let (i, s2) := s1.fresh
        let s3 := s2.setChain { c with ctBase := here, ctAt := t, rate := (Config.freeNat i % 201 : Nat) - 100 }
        if 100 ≤ c.okRun then s3.put R.CHAIN_STAT_CT_LOCK 1 else s3

def execTimeBlk (ct : BitVec 48) (_seq : Byte) (t : Nat) (s : State) : Host.Outcome State Fault Refusal := .next (s.timeBlock ct.toNat t)

/-- `CTHI`: bits [63:48] of the chain time. -/
def execCthiBlk (hi : Half) (s : State) : Host.Outcome State Fault Refusal :=
  .next (if s.chained && s.portState 1 = rpUP then s.setChain { s.chain with ctHigh := hi.toNat } else s)

/-- `TIME_SEND`: with DOWN_EN a TIME block on port D 10 µs after the last, and a CTHI block with every hundredth. -/
def State.timeSend (s : State) : State :=
  if s.act R.CHAIN_CTRL_DOWN_EN = 0 || s.portState 2 ≠ rpUP then s
  else
    let s1 := match s.chain.sentAt with | none => s | some u => s.at (u + 10 * usClk)
    let ct := s1.chainTime s1.now
    let q := s1.chain.timeSeq
    let s2 := s1.setChain { s1.chain with timeSeq := q + 1, sentAt := some s1.now }
    let s3 := s2.sendBlock 2 (0x2F :: leBytes 6 ct ++ [q % 256])
    if q % 100 = 0 then s3.sendBlock 2 (0x3C :: leBytes 2 (ct / 2 ^ 48) ++ [0, 0, 0, 0, 0]) else s3

def execTimeSend (s : State) : Host.Outcome State Fault Refusal := .next s.timeSend

/-- `ECHO`: a request on a port is answered 100 ns after its arrival; a reply on port U is timed. D_link is the mean of the sixteen
(round trip − 100 ns) / 2, in 100 ps. -/
def State.echo (s : State) (p : Nat) (reply : Bool) (id t : Nat) : State :=
  if s.portState p ≠ rpUP then s
  else
    let s1 := s.at t
    if !reply then s1.sendBlockAt (s1.now + 20) p [0x66, 1, id, 0, 0, 0, 0, 0]
    else if p ≠ 1 then s1
    else match s1.chain.echoes.find? (fun e => e.1 = id) with
      | none => s1
      | some (_, u) =>
        let trips := s1.chain.trips ++ [t - u]
        let s2 := s1.setChain { s1.chain with echoes := s1.chain.echoes.filter (fun e => e.1 ≠ id), trips := trips }
        if trips.length < 16 then s2
        else
          let sum := trips.foldl (fun n x => n + (50 * x - 1000)) 0
          (s2.setChain { s2.chain with trips := [] }).put (R.RP_LINK_DLY_DLY 1) (min 65535 (sum / 32))

def execEchoBlk (p : Fin 3) (reply : Bool) (id : Byte) (t : Nat) (s : State) : Host.Outcome State Fault Refusal :=
  .next (s.echo p.val reply id.toNat t)

/-- `LINK_DELAY_MEASURE`: sixteen ECHO requests on port U. -/
def State.linkMeasure (s : State) (t : Nat) : State :=
  if s.portState 1 ≠ rpUP then s
  else
    let s1 := s.at t
    let s2 := s1.setChain { s1.chain with echoes := [], trips := [] }
    (List.range 16).foldl (fun s _ =>
      let id := s.chain.echoId
      (s.setChain { s.chain with echoId := (id + 1) % 256, echoes := s.chain.echoes ++ [(id, s.now)] }).sendBlock 1
        [0x66, 0, id, 0, 0, 0, 0, 0]) s2

def execLinkDelayMeasure (t : Nat) (s : State) : Host.Outcome State Fault Refusal := .next (s.linkMeasure t)

/-- `CT_LOCK_TIMEOUT`: 100 µs without a valid TIME block. -/
def execCtLockTimeout (s : State) : Host.Outcome State Fault Refusal :=
  match s.chain.lastTime with
  | none => .next s
  | some u => .next (if s.on R.CHAIN_STAT_CT_LOCK then (s.at (u + 100 * usClk)).ctUnlock else s)

/-! ## Fallback (R304–R306) -/

/-- Ticks whose positions the web has already crossed: each is derived at its crossing, by the speed estimate, and its edge falls no
earlier than now. -/
def State.fallbackTicks : Nat → State → State
  | 0, s => s
  | n + 1, s =>
    if (s.divD : Int) ≤ s.tick.acc && s.divD ≠ 0 then
      let der := match s.speed, s.tick.cntTimes with
        | some (dt, k), u :: _ => u - (s.tick.acc - s.divD).toNat * dt / (2 ^ 32 * k)
        | _, _ => s.now
      let s1 := s.pushTick { der := der }
      let late := { s1.tick with
        acc := s1.tick.acc - s1.divD
        queue := s1.tick.queue.map (fun d => if d.edge < s1.now then { d with edge := s1.now } else d) }
      State.fallbackTicks n { s1 with tick := late }
    else s

/-- Fallback is entered: ticks come from the local encoder from line n on (R305). -/
def State.enterFallback (s : State) (n : Nat) : State :=
  let s1 := (s.put R.TICK_STAT_SRC_ACT srcENCODER).put R.CHAIN_STAT_FALLBACK 1
  let s2 := ((s1.put64 R.CHAIN_FB_FIRST_LO_TICKNO R.CHAIN_FB_FIRST_HI_TICKNO n).raise E.RIDGE_FB_ENTER).divTpred
  (State.fallbackTicks s2.divTimes s2).rePredict.chainEvent 1 n

/-- Fallback is entered where tokens are lost, RUN is on, and the local encoder is wired and has no fault (R305): at the loss, or when RUN
is entered after it, or when TRIG_AREA is left, in which TICK_SRC is not used (R54). -/
def State.fallbackGo (s : State) : State :=
  if s.chained && s.on R.CHAIN_STAT_LOST && !s.on R.CHAIN_STAT_FALLBACK && s.inRun && s.modeAct ≠ 2 && s.act R.CHAIN_CTRL_LOCAL_ENC = 1 &&
      s.get R.ENC_STAT_FAULT = 0 then s.enterFallback s.chainNext
  else s

/-- RUN is entered with tokens lost: positions that the web crossed before RUN are no ticks (R312), and fallback begins behind them. -/
def State.fallbackRun (s before : State) : State :=
  if before.inRun then s
  else
    let d : Int := s.divD
    let lost := s.chained && s.on R.CHAIN_STAT_LOST && s.inRun
    State.fallbackGo (if lost && d ≤ s.tick.acc then { s with tick := { s.tick with acc := s.tick.acc % d } } else s)

/-- Token loss: fallback to the local encoder; with none no further tick is derived, and a CHAIN event says so (R304–R306). A loss while
the module is still in fallback from an earlier one sends its CHAIN event with code 1 (DESIGN CHOICE, log 144). -/
def State.tokensLost (s : State) : State :=
  if s.on R.CHAIN_STAT_LOST then s
  else if s.on R.CHAIN_STAT_FALLBACK then s.tokensGone.chainEvent 1 s.chainNext
  else
    let s1 := s.tokensGone.fallbackGo
    if s1.on R.CHAIN_STAT_FALLBACK then s1 else s1.chainEvent 3 s.chainNext

/-- `TOKEN_LOSS`: the chain time passes the last valid token's derivation time + 1.5 × T_pred + TICK_LEAD. -/
def State.tokenTimeout (s : State) (t : Nat) : State :=
  match s.chain.lastTok with
  | none => s
  | some (_, ct) =>
    let s1 := s.at t
    if s1.chained && ct + 15 * s1.get R.TICK_TPRED_T / 2 + 5 * s1.leadClk < s1.chainTime s1.now then s1.tokensLost
    else s1

def execTokenLoss (t : Nat) (s : State) : Host.Outcome State Fault Refusal := .next (s.tokenTimeout t)

/-- `TOKEN_RESTORE`: port U is UP, CT_LOCK = 1 and 16 valid tokens have come in a row. -/
def State.tokenRestore (s : State) : State :=
  if s.on R.CHAIN_STAT_LOST && s.portState 1 = rpUP && s.on R.CHAIN_STAT_CT_LOCK && 16 ≤ s.chain.valid then
    (s.put R.CHAIN_STAT_LOST 0).chainEvent 4 s.chainNext
  else s

def execTokenRestore (s : State) : Host.Outcome State Fault Refusal := .next s.tokenRestore

/-- The module leaves fallback at a token above its own TICKNO (R307). -/
def State.leaveFallback (s : State) : State :=
  let n := s.chainNext
  let s1 := (s.put R.TICK_STAT_SRC_ACT srcCHAIN).put R.CHAIN_STAT_FALLBACK 0
  let s2 := { s1 with tick := { s1.tick with deferred := none, pred := none } }
  ((s2.put64 R.CHAIN_FB_LAST_LO_TICKNO R.CHAIN_FB_LAST_HI_TICKNO (n - 1)).raise E.RIDGE_FB_LEAVE).chainEvent 2 n

/-! ## Tokens (R300–R302) -/

/-- Latency and margin of a valid token. -/
def State.tokenLatency (s : State) (lat : Int) : State :=
  let ns := min 65535 lat.toNat
  let margin : Int := 5 * s.leadClk - lat
  let s1 := (s.put R.CHAIN_LAT_NS ns).put R.CHAIN_LAT_MAX_NS (max (s.get R.CHAIN_LAT_MAX_NS) ns)
  let s2 := if margin < toSigned 32 (s1.get R.CHAIN_MARGIN_MIN_NS) then s1.put R.CHAIN_MARGIN_MIN_NS (ofSigned 32 margin) else s1
  if 1000 ≤ margin then
    let n := s2.chain.leadRun + 1
    let s3 := s2.setChain { s2.chain with leadRun := n }
    if 4096 ≤ n then s3.put R.CHAIN_STAT_LEAD_OK 1 else s3
  else ((s2.setChain { s2.chain with leadRun := 0 }).put R.CHAIN_STAT_LEAD_OK 0).raise E.RIDGE_LEAD_MARGIN

/-- The web position at a time, against the divider's, in 2⁻³² counts: counts since then, and the part of the count in which it
falls by the speed estimate (DEDUCED, log 83). -/
def State.posSince (s : State) (der : Nat) : Int :=
  let later := s.tick.cntTimes.takeWhile (fun u => der < u)
  let frac : Nat := match (s.tick.cntTimes.drop later.length).head?, s.speed with
    | some u, some (dt, k) => if dt = 0 then 0 else min (2 ^ 32) ((der - u) * 2 ^ 32 * k / dt)
    | _, _ => 0
  (later.length * 2 ^ 32 : Nat) - (frac : Int)

/-- A token's tick waits for its edge, at the token's chain time + TICK_LEAD, or falls on arrival; a NOEDGE token follows the tick
before it. -/
def State.tokenTick (s : State) (flags n der t : Nat) : State :=
  if bit flags 2 then
    if s.tick.queue.isEmpty then (s.noEdgeTick n).linesSettle
    else if s.lifeWaits then s
    else { s with tick := { s.tick with queue := s.tick.queue ++ [{ tno := some n, noEdge := true, der := der }] } }
  else if s.lifeWaits then s
  else
    let edge := der + s.leadClk
    let s1 := if edge < t then s.raise E.TICK_LEAD_LATE else s
    let d : DerTick := { der := der, edge := max edge t, sheet := bit flags 1, tpred := s1.tick.tpred, tno := some n
                         marks := edgeBits der s1.tick.edgeMarks, chainMark := bit flags 0 }
    { s1 with tick := { s1.tick with queue := s1.tick.queue ++ [d], lastDer := some der, edgeMarks := edgesAfter der s1.tick.edgeMarks, acc := s1.posSince der } }

/-- A valid token that is not stale: it counts, its latency is entered, and it is sent on, but not by a module in fallback (R307). -/
def State.tokenSeen (s : State) (flags hops low derLow tpred n ct : Nat) (lat : Int) (sendOn : Bool) : State :=
  let s1 := (s.setChain { s.chain with valid := s.chain.valid + 1, lastTok := some (n, ct) }).put R.CHAIN_STAT_HOPS hops
  let s2 := s1.tokenLatency lat
  if sendOn && s2.act R.CHAIN_CTRL_DOWN_EN = 1 && s2.portState 2 = rpUP then s2.sendToken flags ((hops + 1) % 256) low derLow tpred else s2

/-- TICKNO takes the number of a token that derives no tick here (R303): it never moves backward (R7), and a step that no LIFE record
covers waits for one (R268). -/
def State.tokenNumber (s : State) (n : Nat) : State :=
  if n < s.tick.tickno + (if s.tick.firstTick then 0 else 1) then s
  else if s.nvs.saved.hwm ≤ n && !s.nvsUp then s.setChain { s.chain with pend := some n }
  else ((s.lifeBefore n).setTickno n).linesSettle

/-- The tick of a token whose number is `n` where `own` is due: fallback is left, a gap is told, and the tick waits for its edge. -/
def State.tokenTake (s : State) (flags n own tpred der t : Nat) : State :=
  let s1 := if s.on R.CHAIN_STAT_FALLBACK then s.leaveFallback else s
  let s2 := if own < n then s1.raise (if s1.jobRunning then E.RIDGE_TOKEN_GAP else E.RIDGE_TICKNO_ADV) else s1
  let s3 := s2.setTpred ⟨tpred, 1⟩
  if s3.inRun && s3.modeAct ≠ 2 then s3.tokenTick flags n der t else s3.tokenNumber n

/-- Is a received pair good: TOKEN_B followed directly (`crc` is then TOKEN_A byte 7), and the CRC-8 over TOKEN_A bytes 1–6 and TOKEN_B
bytes 1–7 is the received one (R300)? -/
def tokenOk (flags hops low : Nat) (crc : Option Nat) (derLow tpred : Nat) : Bool :=
  crc = some (crc8 ([flags, hops] ++ leBytes 4 low ++ leBytes 4 derLow ++ leBytes 3 tpred))

/-- `TICK_TOKEN`: a pair on port U. -/
def State.token (s : State) (flags hops low : Nat) (crc : Option Nat) (derLow tpred t : Nat) : State :=
  if !s.chained || s.portState 1 ≠ rpUP then s
  else if !tokenOk flags hops low crc derLow tpred then (s.setChain { s.chain with valid := 0 }).bump R.CHAIN_TOK_BAD_COUNT
  else
    let s0 := s.at t
    let own := s0.chainNext
    let n := nearest 32 own low
    let here := s0.chainTime t
    let ct := nearest 32 here derLow
    let lat : Int := (here : Int) - ct
    let lost := s0.on R.CHAIN_STAT_LOST
    if n < own && !lost && !s0.on R.CHAIN_STAT_FALLBACK then s0.bump R.CHAIN_TOK_STALE_COUNT
    else
      let takes := !(lost || n < own)
      let s1 := s0.tokenSeen flags hops low derLow tpred n ct lat (takes || !s0.on R.CHAIN_STAT_FALLBACK)
      if !takes then s1 else s1.tokenTake flags n own tpred ((t : Int) - lat / 5).toNat t

def execTickToken (flags hops : Byte) (tickno : Word) (crc : Option Byte) (derCt : Word) (tpred : BitVec 24) (t : Nat) (s : State) :
    Host.Outcome State Fault Refusal :=
  .next (s.token flags.toNat hops.toNat tickno.toNat (crc.map BitVec.toNat) derCt.toNat tpred.toNat t)

/-! ## Entering RUN, and losing port U's domain, with CHAIN the source (R304, R305) -/

def execPowerRequest (v : Word) (s : State) : Host.Outcome State Fault Refusal := .next ((s.powerRequest v.toNat).fallbackRun s)

def execPowerTransition (s : State) : Host.Outcome State Fault Refusal := .next (s.powerTransition.fallbackRun s)

def execDomainRegTimeout (d : Fin 25) (s : State) : Host.Outcome State Fault Refusal := .next (s.domRegTimeout d.val).fallbackGo

/-! ## TICKNO agreement (R303) -/

/-- `TNO`: a TNO block on port D. -/
def State.tno (s : State) (low : Nat) : State :=
  let n := s.tick.tickno / 2 ^ 56 * 2 ^ 56 + low % 2 ^ 56
  if s.portState 2 ≠ rpUP || s.jobRunning || n ≤ s.tick.tickno then s
  else
    let s1 := s.setChain { s.chain with pend := some n }
    if s1.tnoAtOnce then s1.ticknoPend else s1

def execTnoBlk (tickno : BitVec 56) (s : State) : Host.Outcome State Fault Refusal := .next (s.tno tickno.toNat)

/-- `TNO_SEND`: a chained module sends its TICKNO upstream. -/
def execTnoSend (s : State) : Host.Outcome State Fault Refusal :=
  .next (if s.chained && s.portState 1 = rpUP then s.sendBlock 1 (0x5A :: leBytes 7 s.tick.tickno) else s)

/-- `CHAIN_MON_CLR` (R308). -/
def State.chainMonClr (s : State) : State :=
  (((s.setChain { s.chain with leadRun := 0 }).put R.CHAIN_LAT_MAX_NS 0).put R.CHAIN_MARGIN_MIN_NS 0x7FFFFFFF).put R.CHAIN_STAT_LEAD_OK 0

def execChainMonClr (s : State) : Host.Outcome State Fault Refusal := .next (if s.served 0x023 then s.chainMonClr else s)

end Sys2Proof.Machine
end

