-- ==== Sys2Proof/Machine/Ridge.lean ====
section
/-! DEFINITION. Ridge ports: lanes, training, link state, Safelight, test features, packets and credits (R273–R294). -/
namespace Sys2Proof.Machine

def State.laneOf (s : State) (p k : Nat) : Lane := mapGet {} (s.portOf p).lanes k
def State.setLane (s : State) (p k : Nat) (l : Lane) : State :=
  let x := s.portOf p
  s.setPort p { x with lanes := mapSet {} x.lanes k l }

/-- Is lane k active (R282)? -/
def State.laneActive (s : State) (p k : Nat) : Bool := bit (s.get (R.RP_STAT_LANES p)) k

def State.lanesState (s : State) (p v : Nat) (sel : Nat → Bool) : State :=
  (List.range 8).foldl (fun s k => if sel k then s.put (R.RP_LANEk_STAT_STATE p k) v else s) s

/-! ## Going down (R284) -/

/-- What a port loses when it leaves UP: receive buffers, credits; port U also its share of the chain (R284, R298, R304). -/
def State.portLeave (s : State) (p : Nat) : State :=
  let x := s.portOf p
  let s1 := s.setPort p { x with bulk := [], held := [], heard := [], adopted := [], spent := [], freed := [] }
  let s2 := (List.range 16).foldl (fun s v => s.put (R.RP_VCv_CRED_UNITS p v) 0) s1
  let s3 := (((s2.put (R.RP_STAT_WIDTH p) 0).put (R.RP_STAT_LANES p) 0).put (R.RP_STAT_FOM_MIN p) 0).dmaPortLost p
  let s4 := (s3.bump (R.RP_DOWN_CNT_COUNT p)).raise (E.RP_LINK_DOWN p)
  if p ≠ 1 then s4
  else
    let s5 := s4.ctUnlock
    if s5.chained then s5.tokensLost else s5

/-- The port goes down, where it was up, and then does what `next` says. -/
def State.portDown (s : State) (p : Nat) (next : State → State) : State := next (if s.portUp p then s.portLeave p else s)

/-- Down and train again, from the last trained taps. -/
def State.retrain (s : State) (p : Nat) : State := s.portDown p (fun s => s.portTrain true p)

/-- RP_CTRL.EN is written 0: the port's domain goes off (R273). -/
def State.portOff (s : State) (p : Nat) : State := s.portDown p (fun s => s.domOff (dPORT p))

/-- `PORT_RETRAIN`. -/
def execPortRetrain (p : Fin 3) (s : State) : Host.Outcome State Fault Refusal :=
  .next (if s.served (0x024 + p.val) && s.portState p.val ≠ rpTEST then s.retrain p.val else s)

/-! ## Cages (R423) -/

/-- `MODPRSL_CHANGE`. -/
def State.cageChange (s : State) (p : Nat) (present : Bool) : State :=
  let s1 := s.setPort p { s.portOf p with absent := !present }
  if !s1.dom (dPORT p) then s1
  else if !present then s1.portDown p (fun s => (s.setPortState p rpDOWN).lanesState p 0 (fun _ => true))
  else if s1.portState p = rpDOWN then s1.portStart p
  else s1

def execModprslChange (p : Fin 3) (present : Bool) (s : State) : Host.Outcome State Fault Refusal := .next (s.cageChange p.val present)

/-- `CAGE_SUPPLY_TRIP`. -/
def State.cageTrip (s : State) (p : Nat) : State :=
  if !s.dom (dPORT p) then s
  else
    let s1 := s.setPort p { s.portOf p with tripped := true }
    s1.portDown p (fun s => (s.setPortState p rpDOWN).lanesState p 0 (fun _ => true))

def execCageSupplyTrip (p : Fin 3) (s : State) : Host.Outcome State Fault Refusal := .next (s.cageTrip p.val)

/-! ## Blocks (R274, R276, R277, R287) -/

/-- A block: control or data, with its eight payload bytes. -/
structure Block where
  ctrl : Bool := false
  bytes : List Nat := []
  deriving DecidableEq, Repr

/-- The sync header: 01 for a data block, 10 for a control block. -/
def Block.header (b : Block) : Nat := if b.ctrl then 2 else 1

/-- Bytes in groups of eight. -/
def chunks8 : Nat → List Nat → List (List Nat)
  | 0, _ => []
  | n + 1, bs => bs.take 8 :: chunks8 n (bs.drop 8)

/-- Bytes 1–7 of an SOP block (Table 12-1). -/
def sopBytes (vc type len seq : Nat) : List Nat := [vc, type] ++ leBytes 3 len ++ leBytes 2 seq

/-- The CRC-32 of a packet: SOP bytes 1–7 and the payload (R287). -/
def packetCrc (vc type seq : Nat) (payload : List Nat) : Nat := crc32 (sopBytes vc type payload.length seq ++ payload)

/-- The blocks of what leaves a port: an in-band block, or a packet's SOP, its data with PAD filler bytes of 0, its EOP; raw bits are none. -/
def Wire.blocks (w : Wire) : List Block :=
  if w.raw.isSome then []
  else if !w.packet then [{ ctrl := true, bytes := w.bytes }]
  else
    let n := ceilDiv w.bytes.length 8
    let pad := 8 * n - w.bytes.length
    { ctrl := true, bytes := 0x78 :: sopBytes w.vc w.type w.bytes.length w.seq } ::
      (chunks8 n (w.bytes ++ List.replicate pad 0)).map (fun bs => ({ bytes := bs } : Block)) ++
      [{ ctrl := true, bytes := 0x87 :: leBytes 4 (packetCrc w.vc w.type w.seq w.bytes) ++ [pad, 0, 0] }]

/-- The scrambler x⁵⁸ + x³⁹ + 1 on a block's 64 bits, bit 0 of byte 0 first: what leaves, and the last 58 bits that left, the newest in
bit 0 (R274). -/
def scrambleBits (st : Nat) : List Bool → List Bool × Nat
  | [] => ([], st)
  | b :: bs =>
    let o := Bool.xor b (Bool.xor (bit st 38) (bit st 57))
    let (os, z) := scrambleBits ((2 * st + boolNat o) % 2 ^ 58) bs
    (o :: os, z)

def Block.bits (b : Block) : List Bool := b.bytes.flatMap (fun x => (List.range 8).map (bit x))

/-- A lane's blocks scrambled one behind the other: sync header and 64 bits. -/
def scrambleBlocks : Nat → List Block → List (Nat × List Bool)
  | _, [] => []
  | st, b :: bs => let (os, z) := scrambleBits st b.bits; (b.header, os) :: scrambleBlocks z bs

/-- The blocks of a stream that a lane carries: block k goes to the (k mod W)-th active lane; the first one is block `k0` (R276). -/
def laneBlocks (lanes : List Nat) (k0 : Nat) (bs : List Block) (lane : Nat) : List Block :=
  ((bs.zipIdx k0).filter (fun (_, k) => lanes.getD (k % max 1 lanes.length) 8 = lane)).map Prod.fst

/-- What lane `lane` of a port sends for something that leaves it, given the stream's position and the state of the lane's scrambler, which
the IDLE blocks before have set (log 137). -/
def Wire.onLane (w : Wire) (lanes : List Nat) (k0 st lane : Nat) : List (Nat × List Bool) :=
  scrambleBlocks st (laneBlocks lanes k0 w.blocks lane)

/-- Does the lane's receiver get what the lane itself sends, in LOOP 1 or 2 (R286)? -/
def State.laneLoops (s : State) (p k : Nat) : Bool :=
  s.get (R.RP_LANEk_CTRL_LOOP p k) = 1 || s.get (R.RP_LANEk_CTRL_LOOP p k) = 2

/-! ## Alignment (R275, R276) -/

/-- One received sync header: a hunting lane slips one bit at an invalid one and locks after 64 valid ones in a row; a locked lane loses lock
when 24 of the last 256 were invalid. Answers the lane and whether it counts an invalid header. -/
def Lane.header (l : Lane) (h : BitVec 2) : Lane × Nat :=
  let valid : Bool := h = 1 || h = 2
  if !l.locked then
    let n := if valid then l.run + 1 else 0
    (if 64 ≤ n then { l with locked := true, run := 0, recent := [] }
     else { l with run := n, slip := if valid then l.slip else (l.slip + 1) % 66 }, 0)
  else
    let r := (valid :: l.recent).take 256
    (if 24 ≤ (r.filter (!·)).length then { l with locked := false, run := 0, recent := [] } else { l with recent := r }, boolNat (!valid))

/-- Headers one behind the other, with the number of invalid ones counted. -/
def Lane.headers (l : Lane) (hs : List (BitVec 2)) : Lane × Nat :=
  hs.foldl (fun x h => let (l1, n) := x.1.header h; (l1, x.2 + n)) (l, 0)

/-- Sync headers are received on a lane: in training a lane that locks goes on to adapt; an active lane that loses lock takes the port
down. A lane in LOOP 1 or 2 does not hear the line (R286). -/
def State.headersIn (s : State) (p k : Nat) (hs : List (BitVec 2)) : State :=
  if s.portState p = rpSAFELIGHT || !s.dom (dPORT p) || s.laneLoops p k then s
  else
    let was := (s.laneOf p k).locked
    let (l, bad) := (s.laneOf p k).headers hs
    let s1 := (s.setLane p k l).bumpBy (R.RP_LANEk_HDR_ERR_COUNT p k) bad
    if l.locked && !was && s.portState p = rpTRAINING && s.get (R.RP_LANEk_STAT_STATE p k) = 1 then s1.put (R.RP_LANEk_STAT_STATE p k) 3
    else if was && !l.locked then
      (if s1.portUp p && s1.laneActive p k then s1.retrain p else s1.put (R.RP_LANEk_STAT_STATE p k) 1)
    else s1

/-- `BLOCK_LOCK`: the headers that a hunting lane receives. -/
def execBlockLock (p : Fin 3) (h : LaneHeaders) (s : State) : Host.Outcome State Fault Refusal :=
  .next (if (s.laneOf p.val h.lane.val).locked then s else s.headersIn p.val h.lane.val h.heads)

/-- `LANE_LOCK_LOST`: the headers that a locked lane receives. -/
def execLaneLockLost (p : Fin 3) (h : LaneHeaders) (s : State) : Host.Outcome State Fault Refusal :=
  .next (if (s.laneOf p.val h.lane.val).locked then s.headersIn p.val h.lane.val h.heads else s)

/-- Blocks per lane in 64 timer clocks: 25.78125 and 10.3125 GBd with 66 bits to the block (R273, R274). -/
def State.laneRate (s : State) (p : Nat) : Nat := if s.get (R.RP_STAT_RATE_ACT p) = 0 then 125 else 50

/-- When stripe n since link-up leaves: 16,384 blocks per lane behind the one before (R276). -/
def State.alignTime (s : State) (p n : Nat) : Nat := (s.portOf p).alignFrom + ceilDiv (n * 16384 * 64) (s.laneRate p)

/-- One stripe of ALIGN blocks leaves at a time, with the next ALIGN_SEQ. -/
def State.alignSend (s : State) (p t : Nat) : State :=
  let x := s.portOf p
  let w := s.get (R.RP_STAT_WIDTH p)
  (bitsOf 8 (s.get (R.RP_STAT_LANES p))).foldl (fun s k => s.sendBlockAt t p ([0x4B, k, w] ++ leBytes 2 x.alignSeq ++ [0, 0, 0]))
    (s.setPort p { x with alignSeq := x.alignSeq + 1 })

/-- How many stripes are due that have not been listed. -/
def State.alignLeft (s : State) (p : Nat) : Nat :=
  let x := s.portOf p
  (s.now - x.alignFrom) * s.laneRate p / (64 * 16384) + 1 - x.alignSeq

/-- The stripes that have become due leave, each at its time. -/
def State.alignDue (s : State) (p : Nat) : State :=
  (List.range (s.alignLeft p)).foldl (fun s _ => s.alignSend p (s.alignTime p (s.portOf p).alignSeq)) s

/-- Do the ALIGN blocks of a stripe deskew: one on every active lane, no two of them more than 64 blocks apart (R276)? -/
def State.deskews (s : State) (p : Nat) (a : StripeSeen) : Bool :=
  let act := a.lanes.filter (fun x => s.laneActive p x.1.val)
  (bitsOf 8 (s.get (R.RP_STAT_LANES p))).all (fun k => act.any (fun x => x.1.val = k)) &&
    act.all (fun x => act.all (fun y => x.2 ≤ y.2 + 64))

/-- `ALIGN`: the receiver deskews; a missing or late ALIGN takes the port down. This end's own stripes, which no command names, are listed as
far as they have become due (DESIGN CHOICE, log 136). -/
def State.align (s : State) (p : Nat) (a : StripeSeen) : State :=
  if s.portState p ≠ rpUP then s else if s.deskews p a then s.alignDue p else s.retrain p

def execAlign (p : Fin 3) (seen : StripeSeen) (s : State) : Host.Outcome State Fault Refusal := .next (s.align p.val seen)

/-! ## Training (R278–R282) -/

def State.laneFom (s : State) (p k : Nat) : Nat := s.get (R.RP_LANEk_STAT_FOM p k)
def State.maxSteps (s : State) (p : Nat) : Nat := max 1 (s.act (R.RP_TRAIN_MAX_STEPS p))

/-- A lane whose both ends have finished is TRAINED or FAILED by its own FOM. -/
def State.laneJudge (s : State) (p k : Nat) : State :=
  let l := s.laneOf p k
  if l.rxDone && l.farDone then
    if s.act (R.RP_TRAIN_FOM_MIN p) ≤ s.laneFom p k then
      (s.setLane p k { l with trained := some (s.get (R.RP_LANEk_TAPS_PRE_ACT p k), s.get (R.RP_LANEk_TAPS_POST_ACT p k)) }).put
        (R.RP_LANEk_STAT_STATE p k) 4
    else s.put (R.RP_LANEk_STAT_STATE p k) 5
  else s

/-- One tap's answer to a request: the new value and the acknowledge (1 UPDATED, 2 AT_LIMIT). -/
def tapStep (v limit req : Nat) : Nat × Nat :=
  if req = 1 then (if v < limit then (v + 1, 1) else (v, 2)) else if req = 2 then (if 0 < v then (v - 1, 1) else (v, 2)) else (v, 0)

/-- Make a request, which goes out once the far end shows NOT_UPDATED, or finish where no more may be made. -/
def State.laneAsk (s : State) (p : Nat) (l : Lane) (req : Nat) (undo : Bool) : Lane :=
  if l.steps < s.maxSteps p then { l with req := 0, want := req, last := req, undo := undo, ackSeen := false, steps := l.steps + 1 }
  else { l with req := 0, want := 0, undo := false, ackSeen := false, rxDone := true }

/-- The next of the four changes, from PRE INC to POST DEC; a round in which none raised the FOM is the last. -/
def State.laneNext (s : State) (p : Nat) (l : Lane) : Lane :=
  if l.try_ < 3 then s.laneAsk p { l with try_ := l.try_ + 1 } (l.try_ + 2) false
  else if l.gained then s.laneAsk p { l with try_ := 0, gained := false } 1 false
  else { l with req := 0, want := 0, undo := false, ackSeen := false, rxDone := true }

def oppositeReq (r : Nat) : Nat := if r = 1 then 2 else if r = 2 then 1 else if r = 3 then 4 else 3

/-- The taps that a request leads to, with its acknowledge: a step while nothing is acknowledged, else the standing acknowledge. -/
def State.tapServe (s : State) (f : Fld) (top req ack : Nat) : Nat × Nat :=
  if ack = 0 then tapStep (s.get f) top req else (s.get f, if req = 1 || req = 2 then ack else 0)

/-- This end's transmitter serves the far end's requests. -/
def State.trainServe (s : State) (p k reqPre reqPost : Nat) (preset : Bool) : State :=
  let l := s.laneOf p k
  if preset && !l.ackPreset then s.setTaps p k (s.presetPre p k) (s.presetPost p k)
  else s.setTaps p k (s.tapServe (R.RP_LANEk_TAPS_PRE_ACT p k) 8 reqPre l.ackPre).1
    (s.tapServe (R.RP_LANEk_TAPS_POST_ACT p k) 20 reqPost l.ackPost).1

/-- This end's receiver takes the far end's acknowledge: UPDATED or AT_LIMIT returns REQ to HOLD, NOT_UPDATED lets the next request go out
(R279). -/
def State.trainHear (s : State) (p k : Nat) (l : Lane) (ackPre ackPost : Nat) : Lane :=
  let l1 := if l.steps = 0 && !l.rxDone then s.laneAsk p { l with bestFom := s.laneFom p k, try_ := 0 } 1 false else l
  let ack := if l1.req ≤ 2 then ackPre else ackPost
  if l1.rxDone then l1
  else if l1.req ≠ 0 then
    (if ack = 1 then { l1 with req := 0, ackSeen := true } else if ack = 2 then s.laneNext p l1 else l1)
  else if ackPre = 0 && ackPost = 0 then { l1 with req := l1.want, want := 0 }
  else l1

/-- This end's OFFER: the lanes TRAINED here. -/
def State.offer (s : State) (p : Nat) : Nat :=
  (List.range 8).foldl (fun m k => if s.get (R.RP_LANEk_STAT_STATE p k) = 4 then m + 2 ^ k else m) 0

/-- The TRAIN block of a lane as it stands (Table 12-2). -/
def State.trainBlock (s : State) (p k : Nat) (wake : Bool) : List Nat :=
  let l := s.laneOf p k
  let pre := if l.req ≤ 2 then l.req else 0
  let post := if 3 ≤ l.req then l.req - 2 else 0
  [0x55, pre + 4 * post, l.ackPre + 4 * l.ackPost + 16 * boolNat l.ackPreset, s.laneFom p k,
    boolNat l.rxDone + 2 * s.get (R.RP_STAT_RATE_ACT p) + 4 * boolNat wake + 16 * k, s.offer p, l.tseq % 256, 0]

/-- A TRAIN block leaves on a lane. -/
def State.trainSend (s : State) (p k : Nat) (wake : Bool) : State :=
  let l := s.laneOf p k
  (s.setLane p k { l with tseq := (l.tseq + 1) % 256 }).sendBlock p (s.trainBlock p k wake)

/-- `TRAIN`: a TRAIN block is received on a lane; the lane's next own block, which carries the answer, is listed with it (log 81). -/
def State.train (s : State) (p k reqPre reqPost : Nat) (preset : Bool) (ackPre ackPost : Nat) (rxDone : Bool) (offer : Nat) : State :=
  if s.portState p ≠ rpTRAINING then s
  else
    let s0 := s.setPort p { s.portOf p with farOffer := offer }
    let l := s0.laneOf p k
    let l1 := { l with ackPre := (s0.tapServe (R.RP_LANEk_TAPS_PRE_ACT p k) 8 reqPre l.ackPre).2
                       ackPost := (s0.tapServe (R.RP_LANEk_TAPS_POST_ACT p k) 20 reqPost l.ackPost).2
                       ackPreset := preset, farDone := rxDone }
    let s1 := s0.trainServe p k reqPre reqPost preset
    ((s1.setLane p k (s1.trainHear p k l1 ackPre ackPost)).laneJudge p k).trainSend p k false

def execTrainBlk (p : Fin 3) (k : Fin 8) (reqPre reqPost : Fin 4) (reqPreset : Bool) (ackPre ackPost : Fin 4) (_ackPreset : Bool)
    (_fom : Byte) (rxDone : Bool) (offer : Byte) (s : State) : Host.Outcome State Fault Refusal :=
  .next (s.train p.val k.val reqPre.val reqPost.val reqPreset ackPre.val ackPost.val rxDone offer.toNat)

/-- The lowest FOM among the active lanes. -/
def State.fomMin (s : State) (p : Nat) : State :=
  let fs := ((List.range 8).filter (s.laneActive p)).map (s.laneFom p)
  s.put (R.RP_STAT_FOM_MIN p) (if fs.isEmpty then 0 else fs.foldl min 255)

/-- `FOM_MEASURE`: FOM = min(255, floor(256 × V_eye / V_pk)); with V_pk = 0 the quotient is not defined and the value is free. With
the highest active lane of a port that is UP, the round of measurements is complete and the port's monitor takes its lowest FOM (R401). -/
def State.fomMeasure (s : State) (p k vEye vPk : Nat) : State :=
  if s.portState p ≠ rpTRAINING && s.portState p ≠ rpUP then s
  else
    let (i, s1) := if vPk = 0 then s.fresh else (0, s)
    let s2 := (s1.put (R.RP_LANEk_STAT_FOM p k) (if vPk = 0 then Config.freeNat i % 256 else min 255 (256 * vEye / vPk))).fomMin p
    if s2.portState p = rpUP && s2.get (R.RP_STAT_LANES p) / 2 ^ k = 1 && !s2.on R.SYS_MON_CTRL_FREEZE && s2.dom dSUPV then
      s2.monEnter (sysMon (4 + p)) 16 (s2.get (R.RP_STAT_FOM_MIN p))
    else s2

def execFomMeasure (p : Fin 3) (k : Fin 8) (vEye vPk : Nat) (s : State) : Host.Outcome State Fault Refusal :=
  .next (s.fomMeasure p.val k.val vEye vPk)

/-- `ADAPT_STEP`: 20 µs after an UPDATED the FOM decides: a rise of 2 or more keeps the change, otherwise it is taken back. -/
def State.adaptStep (s : State) (p k : Nat) : State :=
  let l := s.laneOf p k
  if s.portState p ≠ rpTRAINING || !l.ackSeen || l.rxDone then s
  else
    let f := s.laneFom p k
    let l1 :=
      if l.undo then s.laneNext p l
      else if l.bestFom + 2 ≤ f then s.laneNext p { l with bestFom := f, gained := true }
      else s.laneAsk p l (oppositeReq l.last) true
    (s.setLane p k l1).laneJudge p k

def execAdaptStep (p : Fin 3) (k : Fin 8) (s : State) : Host.Outcome State Fault Refusal := .next (s.adaptStep p.val k.val)

def State.minLanes (s : State) (p : Nat) : Nat := min 8 (max 1 (s.get (R.RP_CTRL_MIN_LANES p)))
def State.trainTimeout (s : State) (p : Nat) : Nat := max 1 (s.act (R.RP_TRAIN_TIMEOUT p)) * msClk

/-- Is every lane TRAINED or FAILED at both ends? -/
def State.lanesDone (s : State) (p : Nat) : Bool :=
  (List.range 8).all (fun k => (s.laneOf p k).rxDone && (s.laneOf p k).farDone)

/-- An allocation of 1 to 1,024 acts as 1,025 (R292). -/
def effAlloc (v : Nat) : Nat := if v = 0 then 0 else max 1025 v

/-- `LINK_UP`: once every lane is done, or TIMEOUT after training began, the port goes UP on the lanes both ends offer. -/
def State.linkUp (s : State) (p : Nat) : State :=
  let set := s.offer p &&& (s.portOf p).farOffer
  let w := popcount 8 set
  if s.portState p ≠ rpTRAINING || w < s.minLanes p then s
  else
    let s1 := if s.lanesDone p then s else s.at ((s.portOf p).trainAt + s.trainTimeout p)
    let x := s1.portOf p
    let alloc := (List.range 16).foldl (fun m v => mapSet 0 m v (effAlloc (s1.get (R.RP_VCv_ALLOC_UNITS p v)))) []
    let y : Port := { x with txSeq := [], rxSeq := [], heard := [], adopted := [], spent := [], alloc := alloc, held := [], freed := []
                             bulk := [], rrNext := 0, idleAt := s1.now, alignSeq := 0, alignFrom := s1.now }
    let s2 := ((s1.setPort p y).put (R.RP_STAT_WIDTH p) w).put (R.RP_STAT_LANES p) set
    let s3 := ((s2.lanesState p 2 (bit set)).fomMin p).setPortState p rpUP
    let s5 := (s3.alignDue p |>.raise (E.RP_LINK_UP p)).selfLive
    if w < 8 then s5.raise (E.RP_LANE_FAIL p) else s5

def execLinkUp (p : Fin 3) (s : State) : Host.Outcome State Fault Refusal := .next (s.linkUp p.val)

/-- `TRAIN_TIMEOUT`: not enough lanes once every lane is done, or by TIMEOUT: with RATE auto the other rate is tried, else the same one again
1 s after the attempt began. -/
def State.trainExpire (s : State) (p : Nat) : State :=
  if s.portState p ≠ rpTRAINING || s.minLanes p ≤ popcount 8 (s.offer p &&& (s.portOf p).farOffer) then s
  else
    let s1 := if s.lanesDone p then s else s.at ((s.portOf p).trainAt + s.trainTimeout p)
    (if s1.get (R.RP_CTRL_RATE p) < 2 then s1.at ((s1.portOf p).trainAt + secClk) else s1.setRate p (1 - s1.get (R.RP_STAT_RATE_ACT p))).portStart p

def execTrainTimeout (p : Fin 3) (s : State) : Host.Outcome State Fault Refusal := .next (s.trainExpire p.val)

/-! ## Safelight (R283) -/

/-- Has the port chain duty? -/
def State.chainDuty (s : State) (p : Nat) : Bool := (p = 2 && s.act R.CHAIN_CTRL_DOWN_EN = 1) || (p = 1 && s.chained)

/-- `SAFELIGHT_ENTER`: no packet for IDLE_T µs on a port without chain duty. -/
def State.safeEnter (s : State) (p : Nat) : State :=
  let x := s.portOf p
  if s.portState p ≠ rpUP || !s.on (R.RP_CTRL_SAFELIGHT_EN p) || !x.tx.isEmpty || s.chainDuty p then s
  else
    let s1 := s.at (x.idleAt + max 1 (s.get (R.RP_CTRL_IDLE_T p)) * usClk)
    let s2 := (bitsOf 8 (s1.get (R.RP_STAT_LANES p))).foldl (fun s _ => s.sendBlock p [0x99, 0, 0, 0, 0, 0, 0, 0]) s1
    ((s2.setPort p { s2.portOf p with sleepAt := s2.now }).lanesState p 6 (s2.laneActive p)).setPortState p rpSAFELIGHT

def execSafelightEnter (p : Fin 3) (s : State) : Host.Outcome State Fault Refusal := .next (s.safeEnter p.val)

/-- The burst that ends Safelight: 64 TRAIN blocks with WAKE = 1 on every active lane, the taps kept. -/
def State.wakeBurst (s : State) (p : Nat) : State :=
  (List.range 64).foldl (fun s _ => (bitsOf 8 (s.get (R.RP_STAT_LANES p))).foldl (fun s k => s.trainSend p k true) s) s

/-- `SAFELIGHT_EXIT`: bursts are exchanged and data flows again. The blocks to the next ALIGN stripe count on from where they stood. -/
def State.safeExit (s : State) (p : Nat) : State :=
  if s.portState p ≠ rpSAFELIGHT then s
  else
    let s0 := s.wakeBurst p
    let x := s0.portOf p
    let s1 := s0.setPort p { x with idleAt := s0.now, alignFrom := x.alignFrom + (s0.now - x.sleepAt) }
    (s1.lanesState p 2 (s1.laneActive p)).setPortState p rpUP

def execSafelightExit (p : Fin 3) (s : State) : Host.Outcome State Fault Refusal := .next (s.safeExit p.val)

/-- `WAKE_FAIL`: the burst has left, and block lock is not regained within 2 µs; RP_WAKE_CNT counts it (DEDUCED, log 135). -/
def State.wakeFail (s : State) (p : Nat) : State :=
  if s.portState p = rpSAFELIGHT then (((s.wakeBurst p).bump (R.RP_WAKE_CNT_COUNT p)).raise (E.RP_WAKE_FAIL p)).retrain p else s

def execWakeFail (p : Fin 3) (s : State) : Host.Outcome State Fault Refusal := .next (s.wakeFail p.val)

/-! ## Test features (R285, R286) -/

def State.lanePrbs (s : State) (p k : Nat) : Nat := s.get (R.RP_LANEk_CTRL_PRBS p k) % 3
def State.laneLoop (s : State) (p k : Nat) : Nat := s.get (R.RP_LANEk_CTRL_LOOP p k)
def State.laneInTest (s : State) (p k : Nat) : Bool := s.lanePrbs p k ≠ 0 || s.laneLoop p k ≠ 0

/-- The taps of a pattern's polynomial x^b + x^a + 1: PRBS31, PRBS15. -/
def prbsTaps (pattern : Nat) : Nat × Nat := if pattern = 1 then (28, 31) else (14, 15)

/-- The next n bits of a generator from the bits it sent last, the newest first, and those that it has sent last then. -/
def prbsBits (a b : Nat) : Nat → List Bool → List Bool × List Bool
  | 0, st => ([], st)
  | n + 1, st =>
    let x := Bool.xor (st.getD (a - 1) false) (st.getD (b - 1) false)
    let (xs, z) := prbsBits a b n ((x :: st).take b)
    (x :: xs, z)

/-- Where a pattern starts is not stated: any state but all zeros (log 138). -/
def prbsSeed (free b : Nat) : List Bool := (List.range b).map (bit (Config.freeNat free % (2 ^ b - 1) + 1))

/-- The next n bits that the lane transmits are inverted. -/
def State.inject (s : State) (p k n : Nat) : State := s.setLane p k { s.laneOf p k with inv := (s.laneOf p k).inv + n }

/-- The modes of RP_LANEk_CTRL; a change of the pattern starts generator and checker anew. -/
def State.laneModes (s : State) (p k v : Nat) : State :=
  let s1 := ((s.put (R.RP_LANEk_CTRL_PRBS p k) v).put (R.RP_LANEk_CTRL_LOOP p k) (v / 4)).put (R.RP_LANEk_CTRL_BURST_LEN p k) (v / 256)
  if s1.lanePrbs p k = s.lanePrbs p k then s1
  else
    let (i, s2) := s1.fresh
    let gen := if s2.lanePrbs p k = 0 then [] else prbsSeed i (prbsTaps (s2.lanePrbs p k)).2
    (s2.setLane p k { s2.laneOf p k with chk := {}, gen := gen, inv := 0 }).put (R.RP_LANEk_STAT_CHK_LOCK p k) 0

/-- A lane in test takes its port to TEST; with no lane in test any more the port trains again (R286). -/
def State.laneTest (s : State) (p k : Nat) : State :=
  if s.laneInTest p k then
    (if s.portState p = rpTEST then s else s.portDown p (fun s => s.setPortState p rpTEST)).put (R.RP_LANEk_STAT_STATE p k) 7
  else if s.portState p = rpTEST && !(List.range 8).any (s.laneInTest p) then s.portStart p
  else s

/-- In LOOP 1 and 2 without a pattern the lane's receiver sees the port's own blocks, whose headers are valid, and locks (R286; DEDUCED,
log 138). -/
def State.laneOwn (s : State) (p k : Nat) : State :=
  if s.lanePrbs p k = 0 && s.laneLoops p k then
    s.setLane p k { s.laneOf p k with locked := true, recent := [] }
  else s

/-- A write of RP_LANEk_CTRL: modes, then the operations whose bits are set. -/
def State.laneCtrl (s : State) (p k v : Nat) : State :=
  if !s.served (0x024 + p) then s
  else
    let s3 := ((s.laneModes p k v).laneTest p k).laneOwn p k
    let s4 := if bit v 6 then s3.put (R.RP_LANEk_PRBS_ERR_COUNT p k) 0 else s3
    let s5 := if bit v 4 then s4.inject p k 1 else s4
    if bit v 5 then s5.inject p k (max 1 (s5.get (R.RP_LANEk_CTRL_BURST_LEN p k))) else s5

/-- The RW fields of RP_LANEk_CTRL as they stand. -/
def State.laneCtrlNow (s : State) (p k : Nat) : Nat := (s.reg (R.RP_LANEk_CTRL_PRBS p k).reg).toNat

/-- `LANE_TEST_MODE`. -/
def execLaneTestMode (p : Fin 3) (k : Fin 8) (v : Word) (s : State) : Host.Outcome State Fault Refusal := .next (s.laneCtrl p.val k.val v.toNat)

/-- `INJ_BIT`, `INJ_BURST`, `CHK_CLR`: a write of the register's present fields with that bit. -/
def execInjBit (p : Fin 3) (k : Fin 8) (s : State) : Host.Outcome State Fault Refusal :=
  .next (s.laneCtrl p.val k.val (s.laneCtrlNow p.val k.val ||| 0x10))
def execInjBurst (p : Fin 3) (k : Fin 8) (s : State) : Host.Outcome State Fault Refusal :=
  .next (s.laneCtrl p.val k.val (s.laneCtrlNow p.val k.val ||| 0x20))
def execChkClr (p : Fin 3) (k : Fin 8) (s : State) : Host.Outcome State Fault Refusal :=
  .next (s.laneCtrl p.val k.val (s.laneCtrlNow p.val k.val ||| 0x40))

/-- One bit at a checker of x^b + x^a + 1: predicted from the bits a and b before it, once b bits have seeded it. Answers the checker and
whether the bit is an error. -/
def Checker.take (a b : Nat) (c : Checker) (x : Bool) : Checker × Bool :=
  let err := b ≤ c.seen.length && Bool.xor x (Bool.xor (c.seen.getD (a - 1) false) (c.seen.getD (b - 1) false))
  ({ seen := (x :: c.seen).take b, good := if c.seen.length < b then 0 else if err then 0 else c.good + 1 }, err)

/-- Bits at a checker, `locked` whether CHK_LOCK is set: 64 without an error lock it, and from then on errors count. -/
def Checker.run (a b : Nat) (c : Checker) (locked : Bool) (xs : List Bool) : Checker × Bool × Nat :=
  xs.foldl (fun (c, on, n) x =>
    let (c1, err) := c.take a b x
    (c1, on || 64 ≤ c1.good, if on && err then n + 1 else n)) (c, locked, 0)

/-- Bits with the first n of them inverted. -/
def invFirst (n : Nat) (xs : List Bool) : List Bool := (xs.take n).map (!·) ++ xs.drop n

/-- What a lane in test transmits while it receives the bits xs, and the generator after it (R285, R286): in LOOP 3 those bits, else as many of
its pattern; INJ inverts the first. -/
def State.rawBits (s : State) (p k : Nat) (xs : List Bool) : List Bool × List Bool :=
  let l := s.laneOf p k
  if s.laneLoop p k = 3 then (invFirst l.inv xs, l.gen)
  else if s.lanePrbs p k = 0 then ([], l.gen)
  else
    let (a, b) := prbsTaps (s.lanePrbs p k)
    let (ys, z) := prbsBits a b xs.length l.gen
    (invFirst l.inv ys, z)

/-- The lane's raw bits leave it. -/
def State.rawSend (s : State) (p k : Nat) (xs : List Bool) : State :=
  let (ys, z) := s.rawBits p k xs
  if ys.isEmpty then s
  else
    let l := s.laneOf p k
    let s1 := s.setLane p k { l with gen := z, inv := l.inv - ys.length }
    { s1 with wire := s1.wire ++ [{ port := p, bytes := ys.map boolNat, raw := some k, time := s1.now }] }

/-- What the lane's receiver gets: in LOOP 1 and 2 what the lane itself sends, else what comes in by the line (R286). -/
def State.rawHeard (s : State) (p k : Nat) (xs : List Bool) : List Bool := if s.laneLoops p k then (s.rawBits p k xs).1 else xs

/-- `CHK_LOCK`: the bits that a lane receives by its line; its own raw bits, as many, leave it in the same time (log 138). -/
def State.checkBits (s : State) (p k : Nat) (xs : List Bool) : State :=
  if !s.dom (dPORT p) then s
  else
    let s1 := s.rawSend p k xs
    if s1.lanePrbs p k = 0 then s1
    else
      let l := s1.laneOf p k
      let (a, b) := prbsTaps (s1.lanePrbs p k)
      let (c, on, n) := l.chk.run a b (s1.on (R.RP_LANEk_STAT_CHK_LOCK p k)) (s.rawHeard p k xs)
      ((s1.setLane p k { l with chk := c }).put (R.RP_LANEk_STAT_CHK_LOCK p k) (boolNat on)).bumpBy (R.RP_LANEk_PRBS_ERR_COUNT p k) n

def execChkLock (p : Fin 3) (b : LaneBits) (s : State) : Host.Outcome State Fault Refusal :=
  .next (s.checkBits p.val b.lane.val b.bits)

/-! ## Credits (R292) -/

def units64 (len : Nat) : Nat := ceilDiv len 64

/-- The send credit available on a VC. -/
def State.credit (s : State) (p v : Nat) : Nat :=
  let x := s.portOf p
  (mapGet 0 x.adopted v + 2 ^ 24 - mapGet 0 x.spent v % 2 ^ 24) % 2 ^ 24

def State.creditShow (s : State) (p v : Nat) : State := s.put (R.RP_VCv_CRED_UNITS p v) (s.credit p v)

/-- `CREDIT`: a count is adopted when two blocks in a row for the VC carry it. -/
def State.creditBlock (s : State) (p v count : Nat) : State :=
  if s.portState p ≠ rpUP then s
  else
    let x := s.portOf p
    if mapFind x.heard v = some count then (s.setPort p { x with adopted := mapIns x.adopted v count }).creditShow p v
    else s.setPort p { x with heard := mapIns x.heard v count }

def execCreditBlk (p : Fin 3) (vc : Fin 16) (count : BitVec 24) (s : State) : Host.Outcome State Fault Refusal :=
  .next (s.creditBlock p.val vc.val count.toNat)

/-- `CREDIT_SEND`: the receiver's cumulative count: the allocation and the units freed since link-up. -/
def State.creditSend (s : State) (p v : Nat) : State :=
  if s.portState p ≠ rpUP then s
  else
    let x := s.portOf p
    s.sendBlock p ([0x33, v] ++ leBytes 3 (mapGet 0 x.alloc v + mapGet 0 x.freed v) ++ [0, 0, 0])

def execCreditSend (p : Fin 3) (vc : Fin 16) (s : State) : Host.Outcome State Fault Refusal := .next (s.creditSend p.val vc.val)

/-- The sum of the effective allocations of a port if VC v had allocation u. -/
def State.allocSum (s : State) (p v u : Nat) : Nat :=
  (List.range 16).foldl (fun n i => n + effAlloc (if i = v then u else s.get (R.RP_VCv_ALLOC_UNITS p i))) 0

/-- A write of RP_VCv_ALLOC. -/
def State.allocWrite (s : State) (p v u : Nat) : State :=
  if !s.served (0x024 + p) then s
  else if 32768 < s.allocSum p v (u % 2 ^ 15) then s.raise (E.RP_ALLOC_REFUSED p)
  else s.put (R.RP_VCv_ALLOC_UNITS p v) u

/-! ## Sending (R289, R291) -/

/-- A closed VC: the far end's adopted count is 0 and nothing has been spent on it. -/
def Port.closed (x : Port) (v : Nat) : Bool := mapFind x.adopted v = some 0 && mapGet 0 x.spent v = 0

/-- Packets queued for a VC that the far end has closed are discarded. -/
def State.txDiscard (s : State) (p : Nat) : State :=
  let x := s.portOf p
  let gone := (x.tx.filter (fun k => x.closed k.vc)).length
  (s.setPort p { x with tx := x.tx.filter (fun k => !x.closed k.vc) }).bumpBy (R.RP_TX_DISC_COUNT p) gone

/-- The VC whose turn it is: the next one in order with a packet and credit for it. -/
def State.txTurn (s : State) (p : Nat) : Option TxPkt :=
  let x := s.portOf p
  ((List.range 16).map (fun i => (x.rrNext + i) % 16)).findSome? (fun v =>
    match x.tx.find? (fun k => k.vc = v) with
    | none => none
    | some k => if units64 k.payload.length ≤ s.credit p v then some k else none)

/-- Is a packet part of ring r's stream? -/
def TxPkt.ofRing (k : TxPkt) (r : Nat) : Bool := match k.ring with | some (q, _) => q = r | none => false

/-- The last packet of ring r in a list takes over an end of the stream. -/
def handOn (r e : Nat) : List TxPkt → List TxPkt
  | [] => []
  | k :: ks => if !ks.any (fun q => q.ofRing r) && k.ofRing r then { k with ring := some (r, e) } :: ks else k :: handOn r e ks

/-- The queue without the first packet of a VC. Where packets of the same ring still wait ahead of it, the last of them takes over its end of
the stream: SENT never passes what has not been sent (R246). -/
def txWithout (k : TxPkt) (tx : List TxPkt) : List TxPkt :=
  let ahead := tx.takeWhile (fun q => q.vc ≠ k.vc)
  (match k.ring with | some (r, e) => handOn r e ahead | none => ahead) ++ (tx.drop ahead.length).drop 1

/-- Does a packet of k's ring wait ahead of it? -/
def ringAhead (k : TxPkt) (tx : List TxPkt) : Bool :=
  match k.ring with | some (r, _) => (tx.takeWhile (fun q => q.vc ≠ k.vc)).any (fun q => q.ofRing r) | none => false

/-- `PACKET_SEND`: one whole packet leaves; a packet that streams a ring advances SENT, once those ahead of it in the ring have left (R246). -/
def State.packetSend (s : State) (p : Nat) : State :=
  if s.portState p ≠ rpUP then s
  else
    let s1 := s.txDiscard p
    match s1.txTurn p with
    | none => s1
    | some k =>
      let x := s1.portOf p
      let q := mapGet 0 x.txSeq k.vc
      let y : Port := { x with tx := txWithout k x.tx, rrNext := (k.vc + 1) % 16, txSeq := mapSet 0 x.txSeq k.vc ((q + 1) % 65536)
                               spent := mapSet 0 x.spent k.vc (mapGet 0 x.spent k.vc + units64 k.payload.length), idleAt := s1.now }
      let s2 := (s1.setPort p y).creditShow p k.vc
      let s3 := { s2 with wire := s2.wire ++ [{ port := p, packet := true, vc := k.vc, type := k.type, seq := q, bytes := k.payload, time := s2.now }] }
      match k.ring with
      | none => s3
      | some (r, sent) => if s3.streamed r && !ringAhead k x.tx then s3.put (R.RINGr_SENT_OFS r) sent else s3

def execPacketSend (p : Fin 3) (s : State) : Host.Outcome State Fault Refusal := .next (s.packetSend p.val)

/-! ## Receiving (R288–R290, R292) -/

/-- The group of a data type (Table 12-3). -/
def dtGroup (dt : Nat) : Nat :=
  if dt = 0x20 then 0 else if dt = 0x21 then 1 else if dt = 0x22 then 2 else if dt = 0x10 then 3 else if dt = 0x11 then 4
  else if dt = 0x12 then 5 else if dt = 0x13 then 6 else 7

/-- The blocks that may appear inside a packet (Table 12-1). -/
def inBand : List Nat := [0x1E, 0x2D, 0x2E, 0x2F, 0x33, 0x3C, 0x4B, 0x5A, 0x66]

/-- Is a packet a framing error (R277, R288)? -/
def framingErr (p : Pkt) : Bool :=
  p.len = 0 || 65600 < p.len || p.ctrl.any (fun b => !inBand.contains b.toNat) || p.after ≠ 0x87

/-- A packet's bytes from offset `ofs` of its payload as the receiver takes them: a data block with an invalid sync header is zeros (R275). -/
def pktSeenAt (p : Pkt) (ofs : Nat) (bs : List Nat) : List Nat :=
  if p.lost.isEmpty then bs else bs.zipIdx.map (fun (b, i) => if p.lost.contains ((ofs + i) / 8) then 0 else b)
def pktSeen (p : Pkt) (payload : List Nat) : List Nat := pktSeenAt p 0 payload

/-- A little-endian field of n bytes at an offset of the payload, as the receiver takes it. -/
def pktField (p : Pkt) (ofs n v : Nat) : Nat := if p.lost.isEmpty then v else leNat (pktSeenAt p ofs (leBytes n v))

/-- Does the CRC-32 of the EOP block differ from that of the packet as it is taken? -/
def crcErr (p : Pkt) (dt : Nat) (payload : List Nat) : Bool := packetCrc p.vc.val dt p.seq.toNat (pktSeen p payload) ≠ p.crc.toNat

/-- A CRC error is counted, of every packet received (R215, R290). -/
def State.crcCount (s : State) (p : Pkt) (dt : Nat) (payload : List Nat) : State :=
  if !crcErr p dt payload then s
  else (((s.bump (R.RP_CRC_CNT_COUNT p.port.val)).bump (R.DEV_CRC_VCv_COUNT p.vc.val)).bump (R.DEV_CRC_DTt_COUNT (dtGroup dt))).raise
    (E.RP_CRC_ERR p.port.val)

/-- What every packet meets: framing, SEQ, the CRC, the receiver's allocation. Answers whether it is taken. The buffer is freed at
once but for bulk data, which holds it until a descriptor takes it. -/
def State.receive (s : State) (p : Pkt) (dt : Nat) (payload : List Nat) : State × Bool :=
  let q := p.port.val
  let v := p.vc.val
  if s.portState q ≠ rpUP then (s, false)
  else
    let s1 := s.setPort q { s.portOf q with idleAt := s.now }
    if framingErr p then ((s1.bump (R.RP_FRAME_CNT_COUNT q)).raise (E.RP_FRAMING q), false)
    else
      let x := s1.portOf q
      let s2 := s1.setPort q { x with rxSeq := mapSet 0 x.rxSeq v ((p.seq.toNat + 1) % 65536) }
      let s3 := State.crcCount (if p.seq.toNat = mapGet 0 x.rxSeq v then s2 else (s2.bump (R.RP_SEQ_GAP_COUNT q)).raise (E.RP_SEQ_GAP q)) p dt payload
      let y := s3.portOf q
      let u := units64 p.len
      if mapGet 0 y.alloc v < mapGet 0 y.held v + u then ((s3.bump (R.RP_CRED_VIOL_COUNT q)).raise (E.RP_CRED_VIOL q), false)
      else
        let z : Port := if dt = 0x08 then { y with held := mapSet 0 y.held v (mapGet 0 y.held v + u) }
          else { y with freed := mapSet 0 y.freed v ((mapGet 0 y.freed v + u) % 2 ^ 24) }
        (s3.setPort q z, true)

/-- A packet that nothing claims. -/
def State.unclaimed (s : State) (q : Nat) : State := s.bump (R.RP_UNCLAIMED_COUNT q)

/-- `UNCLAIMED_PACKET`: EVENT, RECORD, CONTACT, STATS, RAW, a reserved type, or satellite data without a context. -/
def State.unclaimedPacket (s : State) (p : Pkt) (dt : Nat) (payload : List Nat) : State :=
  let sat := 0x20 ≤ dt && dt ≤ 0x22
  if dt = 1 || dt = 2 || dt = 8 || (sat && (s.ctxFor p.port.val p.vc.val).isSome) then s
  else
    let (s1, ok) := s.receive p dt payload
    if ok then s1.unclaimed p.port.val else s1

def execUnclaimedPacket (p : Pkt) (c : Content) (s : State) : Host.Outcome State Fault Refusal :=
  .next (s.unclaimedPacket p c.dt.toNat (c.payload.map BitVec.toNat))

/-! ## Satellite packets (R212, R215) -/

/-- Does the frame that a packet's header names stand open? It is marked when the packet's CRC failed. -/
def State.satCrc (s : State) (m frameno : Nat) (bad : Bool) : State :=
  if bad && s.satMatch m frameno = some true then s.satMark m sfCRC_ERR (some E.DEV_CRC_ERR) else s

/-- A satellite packet is received and handed to its context, with whether its CRC failed. -/
def State.satPacket (s : State) (p : Pkt) (dt : Nat) (payload : List Nat) (take : State → Nat → Bool → State) : State :=
  let (s1, ok) := s.receive p dt payload
  if !ok then s1
  else match s1.ctxFor p.port.val p.vc.val with
    | none => s1.unclaimed p.port.val
    | some m => take s1 m (crcErr p dt payload)

/-- The payloads of SAT_FS, SAT_LINE and SAT_FE (Table 9-5). -/
def satFsBytes (frameno stamp : Nat) : List Nat := leBytes 4 frameno ++ leBytes 8 stamp
def satLineBytes (frameno line : Nat) (pixels : List Nat) : List Nat := leBytes 4 frameno ++ leBytes 2 line ++ leBytes 2 0 ++ pixels
def satFeBytes (frameno linesSent : Nat) : List Nat := leBytes 4 frameno ++ leBytes 4 linesSent

/-- `SAT_FS`, `SAT_LINE`, `SAT_FE`. -/
def execSatFs (p : Pkt) (frameno : Word) (stamp : BitVec 64) (t : Nat) (s : State) : Host.Outcome State Fault Refusal :=
  .next (s.satPacket p 0x20 (satFsBytes frameno.toNat stamp.toNat) (fun s m bad =>
    (s.satStart m (pktField p 0 4 frameno.toNat) (pktField p 4 8 stamp.toNat) t).satCrc m (pktField p 0 4 frameno.toNat) bad))
def execSatLine (p : Pkt) (frameno : Word) (line : Half) (pixels : List Byte) (t : Nat) (s : State) : Host.Outcome State Fault Refusal :=
  let px := pixels.map BitVec.toNat
  .next (s.satPacket p 0x21 (satLineBytes frameno.toNat line.toNat px) (fun s m bad =>
    (s.satLine m (pktField p 0 4 frameno.toNat) (pktField p 4 2 line.toNat) (pktSeenAt p 8 px) t).satCrc m (pktField p 0 4 frameno.toNat) bad))
def execSatFe (p : Pkt) (frameno linesSent : Word) (t : Nat) (s : State) : Host.Outcome State Fault Refusal :=
  .next (s.satPacket p 0x22 (satFeBytes frameno.toNat linesSent.toNat) (fun s m bad =>
    (s.satCrc m (pktField p 0 4 frameno.toNat) bad).satEnd m (pktField p 0 4 frameno.toNat) t))

end Sys2Proof.Machine
end

