-- ==== Sys2Proof/Machine/Dma.lean ====
section
/-! DEFINITION. DMA channels: control, descriptor rings, streaming of output rings, fences (R240, R241, R245–R248). -/
namespace Sys2Proof.Machine

/-! ## Channels -/

def State.chanEn (s : State) (n : Nat) : Bool := s.on (R.CHn_CTRL_EN n)
/-- The ring a channel streams, if it is one. -/
def State.chanRing (s : State) (n : Nat) : Option Nat :=
  if s.chanEn n && s.on (R.CHn_CTRL_MODE n) && s.get (R.CHn_CTRL_STREAM n) ≤ 4 then some (s.get (R.CHn_CTRL_STREAM n)) else none

/-- Does a lower-numbered channel stream the same ring (R246)? -/
def State.chanConflict (s : State) (n : Nat) : Bool :=
  match s.chanRing n with
  | none => false
  | some r => (List.range n).any (fun k => s.chanRing k = some r)

/-- A descriptor's fields (Table 10-6). -/
def descNum (d : List Nat) (ofs n : Nat) : Nat := leNat ((d.drop ofs).take n)
def descCtrl (d : List Nat) : Nat := descNum d 0x14 4
def descSrc (d : List Nat) : Nat := descNum d 0 5
def descDst (d : List Nat) : Nat := descNum d 8 5
def descLen (d : List Nat) : Nat := descNum d 0x10 4

/-- CHn_STAT.STATE. -/
def State.chanState (s : State) (n : Nat) : Nat :=
  let c := s.chanOf n
  if !s.chanEn n then 0
  else if c.err ≠ 0 && !c.busy then 4
  else if s.on (R.CHn_CTRL_MODE n) then (if s.chanConflict n then 5 else if (s.chanRing n).isSome && !s.portUp 0 then 6 else 1)
  else if !c.busy then 1
  else if c.done then (if bit (descCtrl c.desc) 13 then 3 else 2)
  else if bit (descCtrl c.desc) 10 then 6
  else 2

def State.chanShow (s : State) (n : Nat) : State := s.put (R.CHn_STAT_STATE n) (s.chanState n)

/-- Every channel's state, and SENT = WR on the rings that no channel streams; their packets no longer move SENT. -/
def State.chansShow (s : State) : State :=
  let s1 := (List.range 32).foldl State.chanShow s
  (List.range 5).foldl (fun s r =>
    if s.streamed r then s
    else (s.streamForget r).put (R.RINGr_SENT_OFS r) (s.ringWr r)) s1

/-! ## Ring pointers (R241) -/

def State.chanSize (s : State) (n : Nat) : Nat := min 256 (max 1 (s.get (R.CHn_RING_SIZE_SIZE n)))

/-- How many descriptors lie between two pointers of a ring of `size`. -/
def ringHeld (size head tail : Nat) : Int :=
  let h := head % 256
  let t := tail % 256
  if head / 256 % 2 = tail / 256 % 2 then (t : Int) - h else (size : Int) - h + t

/-- A pointer one descriptor on: the wrap bit toggles at the ring's end. -/
def ptrNext (size p : Nat) : Nat := if p % 256 + 1 < size then p + 1 else (1 - p / 256 % 2) * 256

/-- `DMA_TAIL_WRITE`. -/
def State.tailWrite (s : State) (n v : Nat) : State :=
  if !s.served 0x021 then s
  else
    let size := s.chanSize n
    let t := v % 512
    let held := ringHeld size (s.get (R.CHn_HEAD_PTR n)) t
    if size ≤ t % 256 || held < 0 || (size : Int) < held then s.put (R.CHn_STAT_TAIL_BAD n) 1
    else (s.put (R.CHn_TAIL_PTR n) t).stagedShow

def execDmaTailWrite (n : Fin 32) (v : Word) (s : State) : Host.Outcome State Fault Refusal := .next (s.tailWrite n.val v.toNat)

def State.headNext (s : State) (n : Nat) : State := s.put (R.CHn_HEAD_PTR n) (ptrNext (s.chanSize n) (s.get (R.CHn_HEAD_PTR n)))

/-! ## CHn_CTRL (R245, R253) -/

/-- EN is written 0: the channel stops and its ring is discarded; writes made stay on their way. -/
def State.chanStop (s : State) (n : Nat) : State :=
  let c := s.chanOf n
  ((s.setChan n { writes := c.writes }).put (R.CHn_HEAD_PTR n) (s.get (R.CHn_TAIL_PTR n))).put (R.CHn_STAT_ERR n) 0

/-- RESUME: the failing descriptor is skipped. -/
def State.chanResume (s : State) (n : Nat) : State :=
  let c := s.chanOf n
  if c.err = 0 || c.busy || !s.chanEn n then s
  else ((s.setChan n { writes := c.writes }).headNext n).put (R.CHn_STAT_ERR n) 0

/-- A write of CHn_CTRL. -/
def State.chanCtrl (s : State) (n v : Nat) : State :=
  if !s.served 0x021 then s
  else
    let s1 := s.writeWord (R.CHn_CTRL_EN n).reg v
    let s2 := if s.chanEn n && !s1.chanEn n then s1.chanStop n else s1
    let s3 := if bit v 12 then s2.chanResume n else s2
    s3.chansShow.stagedShow.compactResume

def State.chanCtrlNow (s : State) (n : Nat) : Nat := (s.reg (R.CHn_CTRL_EN n).reg).toNat

/-- `DMA_RESUME`, `DMA_DISABLE`: a write of CHn_CTRL as it stands with RESUME = 1, with EN = 0. -/
def execDmaResume (n : Fin 32) (s : State) : Host.Outcome State Fault Refusal := .next (s.chanCtrl n.val (s.chanCtrlNow n.val ||| 0x1000))
def execDmaDisable (n : Fin 32) (s : State) : Host.Outcome State Fault Refusal := .next (s.chanCtrl n.val (s.chanCtrlNow n.val / 2 * 2))

/-- CHn_RING_LO, CHn_RING_HI and CHn_RING_SIZE are written while EN = 0. -/
def State.chanRingWrite (s : State) (n a v : Nat) : State := if s.chanEn n then s else s.writeWord a v

/-! ## Streaming (R246) -/

/-- The offset behind what is sent or queued of a ring. -/
def State.streamNext (s : State) (r : Nat) : Nat :=
  (s.portOf 0).tx.foldl (fun o k => match k.ring with | some (q, e) => if q = r then e else o | none => o) (s.ringSent r)

/-- The data type of a ring's packets. -/
def ringType (r : Nat) : Nat := if r ≤ 1 then 0x10 else if r = 2 then 0x11 else if r = 3 then 0x12 else 0x13

/-- How many units of a ring the next packet takes from an offset with so many units new: at most 1,024, not past the ring's end, whole
records of rings 0 and 1, of the others no more than one entry (R246). With them what the entry leaves for the next packet. -/
def State.streamTake (s : State) (r o new : Nat) : Nat × Option (Nat × Bool) :=
  let k := min 1024 (min new (s.ringUnits r - o))
  if r ≤ 1 then (k, none)
  else
    let p := match mapFind s.dma.part r with | some p => p | none => (s.entryUnits r o, false)
    let m := min k p.1
    (m, if m < p.1 then some (p.1 - m, p.2 || s.poisoned (s.ringBase r + 64 * o) (64 * m)) else none)

/-- How many entries with poison the packet adds to the channel's ERR_CNT (R230): an entry counts once. -/
def State.streamBad (s : State) (r o k : Nat) : Nat :=
  let a := s.ringBase r + 64 * o
  if r ≤ 1 then ((List.range k).filter (fun i => s.poisoned (a + 64 * i) 64)).length
  else if (match mapFind s.dma.part r with | some p => p.2 | none => false) then 0
  else boolNat (s.poisoned a (64 * k))

/-- `STREAM_SEND`: new units of the ring become a packet of port H. -/
def State.streamSend (s : State) (n : Nat) : State :=
  match s.chanRing n with
  | none => s
  | some r =>
    if s.chanConflict n || !s.portUp 0 || !s.on R.MEM_STAT_READY then s
    else
      let u := s.ringUnits r
      let o := s.streamNext r
      let (k, left) := s.streamTake r o (ringDist u o (s.ringWr r))
      if k = 0 then s
      else
        let a := s.ringBase r + 64 * o
        let s1 := s.txPush 0 { vc := s.get (R.CHn_CTRL_VC n), type := ringType r, payload := s.bytes a (64 * k), ring := some (r, (o + k) % u) }
        let s2 := { s1 with dma := { s1.dma with part := match left with | none => mapDel s1.dma.part r | some p => mapIns s1.dma.part r p } }
        (s2.ddrRead a (64 * k)).bumpBy (R.CHn_STAT_ERR_CNT n) (s.streamBad r o k)

def execStreamSend (n : Fin 32) (s : State) : Host.Outcome State Fault Refusal := .next (s.streamSend n.val)

/-! ## Fences (R248) -/

/-- A write of DMA_FENCE with GO = 1: PEND until every write of the masked channels issued so far has arrived, those of descriptors
in progress with them. -/
def State.fenceGo (s : State) : State :=
  if !s.served 0x021 then s
  else
    let w := ((bitsOf 32 (s.get R.DMA_FENCE_MASK_CH)).map (fun n => (n, (s.chanOf n).writes))).filter (fun p => p.2 ≠ 0)
    State.put { s with dma := { s.dma with fence := w } } R.DMA_FENCE_PEND (boolNat (!w.isEmpty))

def execDmaFenceGo (s : State) : Host.Outcome State Fault Refusal := .next s.fenceGo

/-- `DMA_FENCE_DONE`: they have arrived. -/
def State.fenceDone (s : State) : State :=
  let s1 := s.dma.fence.foldl (fun s p =>
    let c := s.chanOf p.1
    s.setChan p.1 { c with writes := c.writes - p.2, own := min c.own (c.writes - p.2) }) s
  (State.put { s1 with dma := { s1.dma with fence := [] } } R.DMA_FENCE_PEND 0).stagedShow

def execDmaFenceDone (s : State) : Host.Outcome State Fault Refusal := .next s.fenceDone

end Sys2Proof.Machine
end

