-- ==== Sys2Proof/Machine/Crypto.lean ====
section
/-! DEFINITION. The lamphouse signature (R384): SHA-256 and the verification of an ECDSA signature on P-256. -/
namespace Sys2Proof.Machine

/-! ## SHA-256 -/

/-- The largest number below 2 ^ n on top of `acc` whose power e does not exceed v, bit by bit. -/
def rootBelow (e v : Nat) : Nat → Nat → Nat
  | 0, acc => acc
  | n + 1, acc => rootBelow e v n (if (acc + 2 ^ n) ^ e ≤ v then acc + 2 ^ n else acc)

/-- The first 64 primes: below 18 · 18 a number is prime when it has no divisor from 2 to 17 but itself. -/
def shaPrimes : List Nat :=
  (List.range 312).filter (fun n => 2 ≤ n && (List.range 16).all (fun d => n = d + 2 || n % (d + 2) ≠ 0))

/-- The first 32 bits behind the binary point of the e-th root of p. -/
def rootFrac (e p : Nat) : Word := BitVec.ofNat 32 (rootBelow e (p * 2 ^ (32 * e)) 37 0)

/-- The round words: the cube roots of the first 64 primes. -/
def shaK : List Word := shaPrimes.map (rootFrac 3)

/-- The digest before the first block: the square roots of the first 8 primes. -/
def shaInit : List Word := (shaPrimes.take 8).map (rootFrac 2)

def shaSig0 (x : Word) : Word := x.rotateRight 7 ^^^ x.rotateRight 18 ^^^ (x >>> 3)
def shaSig1 (x : Word) : Word := x.rotateRight 17 ^^^ x.rotateRight 19 ^^^ (x >>> 10)

/-- Extend a schedule held newest word first by n words. -/
def shaExtend : Nat → List Word → List Word
  | 0, w => w
  | n + 1, w => shaExtend n ((shaSig1 (w.getD 1 0) + w.getD 6 0 + shaSig0 (w.getD 14 0) + w.getD 15 0) :: w)

def shaRound (h : List Word) (kw : Word) : List Word :=
  match h with
  | [a, b, c, d, e, f, g, hh] =>
    let s1 := e.rotateRight 6 ^^^ e.rotateRight 11 ^^^ e.rotateRight 25
    let t1 := hh + s1 + ((e &&& f) ^^^ (~~~e &&& g)) + kw
    let s0 := a.rotateRight 2 ^^^ a.rotateRight 13 ^^^ a.rotateRight 22
    [t1 + (s0 + ((a &&& b) ^^^ (a &&& c) ^^^ (b &&& c))), a, b, c, d + t1, e, f, g]
  | _ => h

/-- A number from bytes, the highest first. -/
def beNat (bs : List Nat) : Nat := bs.foldl (fun n b => n * 256 + b) 0

/-- One block of 64 bytes. -/
def shaBlock (h : List Word) (bs : List Nat) : List Word :=
  let w := (List.range 16).map (fun i => BitVec.ofNat 32 (beNat ((bs.drop (4 * i)).take 4)))
  let sched := (shaExtend 48 w.reverse).reverse
  let out := (shaK.zip sched).foldl (fun h (k, w) => shaRound h (k + w)) h
  (h.zip out).map (fun (x, y) => x + y)

/-- The SHA-256 digest of a whole number of bytes, as a number. -/
def sha256 (msg : List Nat) : Nat :=
  let zeros := (55 + 64 - msg.length % 64) % 64
  let m := msg ++ 0x80 :: List.replicate zeros 0 ++ (leBytes 8 (8 * msg.length)).reverse
  let h := (List.range (m.length / 64)).foldl (fun h i => shaBlock h ((m.drop (64 * i)).take 64)) shaInit
  h.foldl (fun n w => n * 2 ^ 32 + w.toNat) 0

/-! ## P-256 -/

def p256P : Nat := 2 ^ 256 - 2 ^ 224 + 2 ^ 192 + 2 ^ 96 - 1
def p256N : Nat := 0xffffffff00000000ffffffffffffffffbce6faada7179e84f3b9cac2fc632551
def p256B : Nat := 0x5ac635d8aa3a93e7b3ebbd55769886bc651d06b0cc53b0f63bce3c3e27d2604b
def p256G : Nat × Nat :=
  (0x6b17d1f2e12c4247f8bce6e563a440f277037d812deb33a0f4a13945d898c296,
   0x4fe342e2fe1a7f9b8ee7eb4a7c0f9e162bce33576b315ececbb6406837bf51f5)

/-- a to the power e modulo m, e below 2 ^ n. -/
def powMod (m : Nat) : Nat → Nat → Nat → Nat
  | 0, _, _ => 1 % m
  | n + 1, a, e => (if e % 2 = 1 then a else 1) * powMod m n (a * a % m) (e / 2) % m

/-- The inverse modulo a prime below 2 ^ 256. -/
def invMod (m a : Nat) : Nat := powMod m 256 (a % m) (m - 2)

/-- Addition on the curve; none is the point at infinity. -/
def ecAdd : Option (Nat × Nat) → Option (Nat × Nat) → Option (Nat × Nat)
  | none, q => q
  | p, none => p
  | some (x1, y1), some (x2, y2) =>
    let p := p256P
    if x1 = x2 ∧ (y1 + y2) % p = 0 then none
    else
      let l := if x1 = x2 then (3 * x1 * x1 + (p - 3)) * invMod p (2 * y1) % p
        else (y2 + p - y1) * invMod p (x2 + p - x1) % p
      let x3 := (l * l + 2 * p - x1 - x2) % p
      some (x3, (l * (x1 + p - x3) + p - y1) % p)

/-- k times a point, k below 2 ^ n. -/
def ecMul : Nat → Nat → Option (Nat × Nat) → Option (Nat × Nat)
  | 0, _, _ => none
  | n + 1, k, q => ecAdd (if k % 2 = 1 then q else none) (ecMul n (k / 2) (ecAdd q q))

def onCurve (x y : Nat) : Bool :=
  x < p256P && y < p256P && y * y % p256P = (x * x * x + (p256P - 3) * x + p256B) % p256P

/-- ECDSA verification of (r, s) over a digest with the public key (x, y). -/
def ecdsaVerify (x y digest r s : Nat) : Bool :=
  if !onCurve x y || r = 0 || s = 0 || p256N ≤ r || p256N ≤ s then false
  else
    let w := invMod p256N s
    let u1 := digest * w % p256N
    let u2 := r * w % p256N
    match ecAdd (ecMul 256 u1 (some p256G)) (ecMul 256 u2 (some (x, y))) with
    | none => false
    | some (px, _) => px % p256N = r

end Sys2Proof.Machine
end

