-- ==== Sys2Proof/Machine/Lamp.lean ====
section
/-! DEFINITION. The lamphouse: its power, link, identity, signature, set-points, life and faults (R380–R392, R427). -/
namespace Sys2Proof.Machine

/-! ## Wear (R388) -/

/-- U_k in 0.1 % (R388); 0 for a channel that has no rating. -/
def State.lampUse (s : State) (k : Nat) : Nat :=
  if s.lampLifeRated k = 0 then 0
  else mapGet 0 s.lamp.lifeBlock k * 1000 / (s.lampLifeRated k * 3600000)

def State.lampUseMax (s : State) : Nat := (List.range 8).foldl (fun m k => max m (s.lampUse k)) 0

/-- LAMP_USEk, WARN90 and EOL follow the life block; a bit that rises raises its interrupt. -/
def State.lampWear (s : State) : State :=
  let s1 := (List.range 8).foldl (fun s k => s.put (R.LAMP_USEk_U k) (min 0xFFFF (s.lampUse k))) s
  let w := 900 ≤ s1.lampUseMax
  let e := 1000 ≤ s1.lampUseMax
  let s2 := (s1.put R.LAMP_STAT_WARN90 (boolNat w)).put R.LAMP_STAT_EOL (boolNat e)
  let s3 := if w && !s.on R.LAMP_STAT_WARN90 then s2.raise E.LAMP_WARN90 else s2
  if e && !s.on R.LAMP_STAT_EOL then s3.raise E.LAMP_EOL else s3

/-! ## READY, identity changes (R389) -/

/-- The LAMP_CHANGE DETAIL (Table 16-7). -/
def State.lampDetail (s : State) : List Nat :=
  leBytes 8 s.nvs.lamp ++ leBytes 8 s.lampSerial ++ leBytes 2 s.lampModel ++ leBytes 1 (s.get R.LAMP_STAT_SIG) ++ [0] ++
    leBytes 2 (s.lampUseMax)

/-- A serial other than the last fitted one counts as a change; an unreadable record gives no serial. -/
def State.lampChange (s : State) : State :=
  if s.get R.LAMP_STAT_SIG = 3 || s.lampSerial = s.nvs.lamp then s
  else
    let d := s.lampDetail
    let n := { s.nvs with lamp := s.lampSerial, life := { s.nvs.life with lamps := s.nvs.life.lamps + 1 } }
    (State.jEvent { s with nvs := n } evLAMP_CHANGE d).raise E.LAMP_CHANGED

/-- The set-points have been answered: READY (R380), a FAULT state standing apart. -/
def State.lampReady (s : State) : State :=
  if s.lampState = lpIDENT || (s.lampState = lpABSENT && s.lamp.readPos = 5) then
    (State.put { s with lamp := { s.lamp with lastPoll := s.now, failPolls := 0 } } R.LAMP_STAT_STATE lpREADY).lampChange
  else s

/-! ## Power (R380, R427) -/

/-- The life use is to be written back before the domain goes off; a lamphouse that has not been read has none. -/
def State.lampOffReq (s : State) : State :=
  if s.lampState = lpOFF then s
  else if s.lampState = lpPOWERING then s.domOff dLAMP |>.put R.LAMP_STAT_STATE lpOFF
  else s.setLamp { s.lamp with offDue := true, req := none, xferDue := false, setiWait := false }

/-- `LAMP_PWR_WRITE`: a write of LAMP_CTRL. -/
def State.lampPwrWrite (s : State) (v : Nat) : State :=
  if !s.served 0x02A then s else
  let old := s.get R.LAMP_CTRL_PWR
  let s1 := s.put R.LAMP_CTRL_PWR v
  if old = 0 && s1.get R.LAMP_CTRL_PWR = 1 then
    let s2 := s1.setLamp { s1.lamp with tripped := false }
    let s3 := { s2 with pwr := { s2.pwr with failed := setDel s2.pwr.failed dLAMP } }
    if s3.domWanted dLAMP && s3.lampState = lpOFF then s3.put R.LAMP_STAT_STATE lpPOWERING else s3
  else if old = 1 && s1.get R.LAMP_CTRL_PWR = 0 then s1.lampOffReq
  else s1

def execLampPwrWrite (v : Word) (s : State) : Host.Outcome State Fault Refusal := .next (s.lampPwrWrite v.toNat)

/-- Is the 24 V switch closed: the soft start ends 20 ms after the domain is on, but for a trip (R427) or a TIMING run (R329)? -/
def State.lampSw (s : State) : Bool :=
  s.on R.LAMP_STAT_SW_24V || (s.lampState = lpPOWERING && s.dom dLAMP && !s.lamp.tripped && s.cal.run ≠ 3 && s.lamp.onAt + 20 * msClk ≤ s.now)

/-- The 24 V switch closes, at the end of a TIMING run where one is in progress. -/
def State.lampClose (s : State) : State :=
  if s.lamp.tripped then s.put R.LAMP_STAT_SW_24V 0
  else if s.cal.run = 3 then { s with cal := { s.cal with sw24 := true } }
  else s.put R.LAMP_STAT_SW_24V 1

/-- `LAMP_IDENT`: 24 V is in regulation after 20 ms and the lamphouse has booted after 10 ms more; the identity record and the life block are
read. -/
def State.lampIdent (s : State) (t : Nat) : State :=
  if s.lampState ≠ lpPOWERING || !s.dom dLAMP then s
  else
    let s1 := (s.at t).at (s.lamp.onAt + 30 * msClk)
    let s2 := s1.setLamp { s1.lamp with req := none, readPos := 0, reread := false, lastLife := s1.now, lastPoll := s1.now }
    ((s2.put R.LAMP_STAT_STATE lpIDENT).lampClose).put R.LAMP_STAT_SIG 0

def execLampIdent (t : Nat) (s : State) : Host.Outcome State Fault Refusal := .next (s.lampIdent t)

/-- `LAMP_OVERLOAD`: the 24 V switch opens, until a new 0-to-1 write of PWR. -/
def execLampOverload (s : State) : Host.Outcome State Fault Refusal :=
  if s.lampSw then
    .next (State.put { s with lamp := { s.lamp with tripped := true } } R.LAMP_STAT_SW_24V 0)
  else .next s

/-! ## Requests (R382) -/

def cmdREAD : Nat := 0x01
def cmdSETI : Nat := 0x10
def cmdLIFE_ADD : Nat := 0x20
def cmdSTAT : Nat := 0x30

/-- Half bit cells of 2 µs on the link (R381): a 1 is high, then low; bytes go least significant bit first; SYNC is 12 µs low. -/
def lhHalves (bs : List Nat) : List Bool :=
  bs.flatMap (fun b => (List.range 8).flatMap (fun i => [bit b i, !bit b i]))
def lhSync : List Bool := List.replicate 6 false

/-- The bits of received half cells; none where the coding is violated. -/
def lhBits : List Bool → Option (List Bool)
  | [] => some []
  | [_] => none
  | a :: b :: rest => if a == b then none else (lhBits rest).map (a :: ·)

/-- The bytes of received half cells. -/
def lhBytes (cells : List Bool) : Option (List Nat) :=
  match lhBits cells with
  | none => none
  | some bs =>
    if bs.length % 8 ≠ 0 then none
    else some ((List.range (bs.length / 8)).map (fun i =>
      (List.range 8).foldl (fun v j => v + boolNat (bs.getD (8 * i + j) false) * 2 ^ j) 0))

/-- STATUS and DATA of a response: LEN bytes of data and the CRC-8 over all bytes behind SYNC (R382). -/
def lhAnswer (cells : List Bool) : Option (Nat × List Nat) :=
  match lhBytes cells with
  | some (st :: len :: rest) =>
    if rest.length = len + 1 && rest.getD len 0 = crc8 (st :: len :: rest.take len) then some (st, rest.take len) else none
  | _ => none

/-- A request: CMD, ADDR, LEN, DATA and the CRC-8 over them; ADDR goes its low byte first (DESIGN CHOICE, log 101). -/
def LhReq.bytes (r : LhReq) : List Nat :=
  let body := r.kind :: leBytes 2 r.addr ++ r.len :: r.data
  body ++ [crc8 body]

/-- What the module sends on the link for the request in flight, in half cells. -/
def State.lampLine (s : State) : List Bool :=
  match s.lamp.req with
  | none => []
  | some r => lhSync ++ lhHalves r.bytes

/-- Send a request where none is in flight and the domain is on. -/
def State.lampSend (s : State) (cmd addr len : Nat) (data : List Nat) : State :=
  s.setLamp { s.lamp with req := some { kind := cmd, addr := addr, len := len, data := data } }

def State.lampFree (s : State) : Bool := s.lamp.req.isNone && s.dom dLAMP

/-- Address and length of the read at a position: the identity record in three reads, the life block in a fourth. -/
def lampReadAt (pos : Nat) : Nat × Nat := if pos < 3 then (64 * pos, 64) else (0x100, 64)

/-- `READ`: the next read of the identification. -/
def State.lampRead (s : State) : State :=
  let due := (s.lampState = lpIDENT && s.lamp.readPos < 4) || (s.lampState = lpABSENT && s.lamp.reread && s.lamp.readPos < 3)
  if s.lampFree && due && !s.lamp.offDue then
    s.lampSend cmdREAD (lampReadAt s.lamp.readPos).1 (lampReadAt s.lamp.readPos).2 []
  else s

def execLhRead (s : State) : Host.Outcome State Fault Refusal := .next s.lampRead

/-- `SIG_VERIFY`: the signature over bytes 0x00–0x7F with the key in fuse LAMP_KEY, both coordinates big-endian as the
signature's values are (DEDUCED, log 40). Unless OK, SAFE and SIG_FAIL. -/
def State.sigCheck (s : State) : Bool :=
  let key := (List.range 64).map (fun i => s.fuseByte (0x810 + i))
  let id := s.identBytes
  ecdsaVerify (beNat (key.take 32)) (beNat (key.drop 32)) (sha256 (id.take 128)) (beNat ((id.drop 128).take 32))
    (beNat (id.drop 160))

/-- SIG takes a result; the set-points are due. -/
def State.sigResult (s : State) (r : Nat) : State :=
  let s1 := (s.put R.LAMP_STAT_SIG r).put R.LAMP_STAT_SAFE (boolNat (r ≠ 1))
  if r ≠ 1 then s1.raise E.LAMP_SIG_FAIL else s1

/-- LAMP_XFER latches the present tick. -/
def State.xferLatch (s : State) : State := s.put64 R.LAMP_XFER_LO_TICKNO R.LAMP_XFER_HI_TICKNO s.tick.tickno

/-- The reads are over and the set-points are due; a transfer that a COMMIT's boundary has asked for keeps its tick (R385; DESIGN CHOICE,
log 153). -/
def State.identOver (s : State) : State :=
  let s1 := if s.lamp.xferDue then s else s.xferLatch
  s1.setLamp { s1.lamp with readPos := 5, xferDue := true, reread := false }

def State.sigVerify (s : State) : State :=
  if s.lampState = lpIDENT && s.lamp.readPos = 4 then (s.sigResult (if s.sigCheck then 1 else 2)).identOver else s

def execSigVerify (s : State) : Host.Outcome State Fault Refusal := .next s.sigVerify

/-- The first tick edge after a SETI response is LAMP_APPLIED (R385). -/
def State.lampEdge (s : State) : State :=
  if s.lamp.applied then
    ((s.setLamp { s.lamp with applied := false }).put64 R.LAMP_APPLIED_LO_TICKNO R.LAMP_APPLIED_HI_TICKNO s.tick.tickno).raise
      E.LAMP_APPLIED
  else s

/-- A COMMIT of the LAMP page asks at its boundary for a SETI, which a SETI in progress delays to the first boundary after its
response (R385). -/
def State.lampCommit (s : State) (committed : Bool) : State :=
  let l := s.lamp
  let busy : Bool := match l.req with | some r => decide (r.kind = cmdSETI) | none => false
  if !(committed || l.setiWait) || !s.dom dLAMP || l.offDue then s
  else if busy then s.setLamp { l with setiWait := true }
  else (s.setLamp { l with setiWait := false, xferDue := true }).xferLatch

/-- `SETI`: every channel's effective set-point in one request. -/
def State.lampSeti (s : State) : State :=
  let ready := lpREADY ≤ s.lampState || (s.lampState = lpIDENT && s.lamp.readPos = 5)
  if s.lampFree && s.lamp.xferDue && ready && !s.lamp.offDue then
    let set := (List.range 8).map s.lampEff
    let s1 := s.setLamp { s.lamp with xferDue := false, sentSet := set }
    s1.lampSend cmdSETI 0 16 (set.flatMap (leBytes 2))
  else s

def execLhSeti (s : State) : Host.Outcome State Fault Refusal := .next s.lampSeti

/-- `LIFE_ADD`: the whole milliseconds accrued, every 60 s and before the host's power-off. -/
def State.lampLifeAdd (s : State) : State :=
  if !s.lampFree || s.lampState < lpIDENT then s
  else
    let s1 := if s.lamp.offDue then s else s.at (s.lamp.lastLife + 60 * secClk)
    let inc := (List.range 8).map s1.lampUnsentMs
    (s1.setLamp { s1.lamp with lastLife := s1.now, lifeSent := inc }).lampSend cmdLIFE_ADD 0 32 (inc.flatMap (leBytes 4))

def execLhLifeAdd (s : State) : Host.Outcome State Fault Refusal := .next s.lampLifeAdd

/-- `STAT`: the poll every 100 ms while READY, and on while ABSENT (R386). -/
def State.lampStat (s : State) : State :=
  if s.lampFree && (s.lampState = lpREADY || (s.lampState = lpABSENT && !s.lamp.reread && s.lamp.readPos ≠ 5)) &&
      !s.lamp.offDue then
    let s1 := s.at (s.lamp.lastPoll + 100 * msClk)
    (s1.setLamp { s1.lamp with lastPoll := s1.now }).lampSend cmdSTAT 0 0 []
  else s

def execLhStat (s : State) : Host.Outcome State Fault Refusal := .next s.lampStat

/-- A request has failed in all its attempts: an identity record not read is UNREADABLE; a failed poll counts towards
absence; set-points and life use are sent again later (DESIGN CHOICE, log 41). -/
def State.lampReqFailed (s : State) (r : LhReq) : State :=
  let s1 := s.setLamp { s.lamp with req := none }
  if r.kind = cmdREAD then
    if s1.lampState = lpABSENT then s1.setLamp { s1.lamp with reread := false, readPos := 0 }
    else if s1.lamp.readPos < 3 then (s1.setLamp { s1.lamp with readPos := 3 }).sigResult 3
    else if s1.get R.LAMP_STAT_SIG = 3 then s1.identOver
    else s1.setLamp { s1.lamp with readPos := 4 }
  else if r.kind = cmdSETI then s1.setLamp { s1.lamp with xferDue := true }
  else if r.kind = cmdLIFE_ADD then (if s1.lamp.offDue then (s1.domOff dLAMP) else s1)
  else
    let n := s1.lamp.failPolls + 1
    let s2 := s1.setLamp { s1.lamp with failPolls := n }
    if n = 3 && s2.lampState = lpREADY then
      ((s2.setLamp { s2.lamp with prevIdent := s2.identBytes, readPos := 0 }).put R.LAMP_STAT_STATE lpABSENT).raise E.LAMP_ABSENT
    else s2

/-- A failed attempt is counted; after three the request has failed, else it is sent again. -/
def State.lampRetry (s : State) : State :=
  match s.lamp.req with
  | none => s
  | some r =>
    let s1 := s.bump R.LAMP_LINK_ERR_COUNT
    if r.tries + 1 < 3 then s1.setLamp { s1.lamp with req := some { r with tries := r.tries + 1 } }
    else s1.lampReqFailed r

def execLhRetry (s : State) : Host.Outcome State Fault Refusal := .next s.lampRetry

/-- An identity or life read has been answered. -/
def State.lampReadDone (s : State) (data : List Nat) : State :=
  let pos := s.lamp.readPos
  if pos < 3 then
    let s1 := s.putIdent (64 * pos) data
    let s2 := s1.setLamp { s1.lamp with readPos := pos + 1 }
    if pos = 2 && s2.lamp.reread then
      if s2.identBytes = s2.lamp.prevIdent then s2.identOver
      else ((s2.setLamp { s2.lamp with reread := false }).put R.LAMP_STAT_STATE lpIDENT).put R.LAMP_STAT_SIG 0
    else s2
  else
    let life := (List.range 8).foldl (fun m k => mapSet 0 m k (leNat ((data.drop (8 * k)).take 8))) ([] : SMap Nat)
    let sig := s.get R.LAMP_STAT_SIG = 3
    let s1 := s.setLamp { s.lamp with lifeBlock := life, unsent := [], readPos := 4 }
    (if sig then s1.identOver else s1).lampShow.lampWear

/-- The poll's answer: absence ends with a fresh read of the record, and the poll after that judges faults (DEDUCED, log 101); OVERTEMP or a
channel fault is FAULT (R386). -/
def State.lampPolled (s : State) (data : List Nat) : State :=
  let mask := data.getD 1 0
  let s1 := (s.setLamp { s.lamp with failPolls := 0 }).put R.LAMP_TEMP_T (leNat ((data.drop 2).take 2))
  if s1.lampState = lpABSENT then s1.setLamp { s1.lamp with reread := true, readPos := 0 }
  else if bit (data.getD 0 0) 1 || mask ≠ 0 then
    ((s1.put R.LAMP_STAT_STATE lpFAULT).put R.LAMP_STAT_CH_FAULT mask).raise E.LAMP_LH_FAULT
  else s1

/-- The life use sent is in the life block; the remainder is carried over. -/
def State.lampLifeDone (s : State) : State :=
  let s1 := (List.range 8).foldl (fun s k =>
    let ms := s.lamp.lifeSent.getD k 0
    s.setLamp { s.lamp with
      unsent := mapSet 0 s.lamp.unsent k (mapGet 0 s.lamp.unsent k - ms * s.lifeUnit k)
      lifeBlock := mapSet 0 s.lamp.lifeBlock k ((mapGet 0 s.lamp.lifeBlock k + ms) % 2 ^ 64) }) s
  let s2 := (s1.setLamp { s1.lamp with lifeSent := [] }).lampShow.lampWear
  if s2.lamp.offDue then s2.domOff dLAMP else s2

/-- The set-points apply: ACT shows them, and the next tick edge is LAMP_APPLIED. -/
def State.lampSetDone (s : State) : State :=
  let s1 := (List.range 8).foldl (fun s k => s.put (R.LAMP_SETk_ACT k) (s.lamp.sentSet.getD k 0)) s
  (s1.setLamp { s1.lamp with applied := true }).lampReady

/-- `LH_RESPONSE`: a response arrives, in half cells. One that does not start with SYNC, has a violation of the coding or a wrong CRC-8, does
not answer OK, or is a read with another length, is a failed attempt (R381, R382, log 101). -/
def State.lampResponse (s : State) (sync cells : List Bool) (t : Nat) : State :=
  match s.lamp.req with
  | none => s
  | some r =>
    let s1 := s.at t
    let want := if r.kind = cmdREAD then r.len else if r.kind = cmdSTAT then 4 else 0
    match (if sync = lhSync then lhAnswer cells else none) with
    | none => s1.lampRetry
    | some (status, data) =>
      if !bit status 0 || data.length ≠ want then s1.lampRetry else
      let s2 := s1.setLamp { s1.lamp with req := none }
      if r.kind = cmdREAD then s2.lampReadDone data
      else if r.kind = cmdSETI then s2.lampSetDone
      else if r.kind = cmdLIFE_ADD then s2.lampLifeDone
      else s2.lampPolled data

def execLhResponse (sync cells : List Bool) (t : Nat) (s : State) : Host.Outcome State Fault Refusal :=
  .next (s.lampResponse sync cells t)

end Sys2Proof.Machine
end

