-- ==== Sys2Proof/Machine/Health.lean ====
section
/-! DEFINITION. Start-up, resets, self-test, the roll-up, leaving thermal shutdown (R343, R393–R404). -/
namespace Sys2Proof.Machine

/-! ## Power-on (R393) -/

/-- `POWER_ON`: PWR_IN exceeds 18.0 V: AON is on and the 100 ms qualification runs. The crystal is stable after 2 ms (Table 17-1). -/
def State.powerOn (s : State) (src addr t : Nat) : State :=
  if !s.pwr.off then s
  else
    let s1 := s.at t
    let l := s1.nvs.life
    let s2 := { s1 with
      pwr := { srcPin := src, qualSince := some s1.now }
      pins := { s1.pins with mbAddr := addr }
      mb := { servedFrom := s1.now + 2 * msClk }
      nvs := { s1.nvs with life := { l with cycles := l.cycles + 1 }, accAt := s1.now } }
    let s3 := ((s2.setPower pIDLE).put R.PWR_STAT_QUALIFYING 1).put R.SYS_STAT_STARTING 1
    s3.sampleAddr

def execPowerOn (ohms : Nat) (mbAddr : Fin 8) (t : Nat) (s : State) : Host.Outcome State Fault Refusal :=
  .next (s.powerOn (srcOfOhms ohms) mbAddr.val t)

/-- At power-on TICKNO goes on above TICKNO_HWM of the newest committed LIFE record (R394). -/
def State.ticknoSet (s : State) : State :=
  let n := s.nvs.saved.hwm + 1
  let s1 := s.setTickno n
  let s2 := { s1 with tick := { s1.tick with firstTick := true }, rec_ := { s1.rec_ with wm := n - 1 } }
  (s2.put64 R.RING_WM_LO_TICKNO R.RING_WM_HI_TICKNO (n - 1)).put64 R.SYS_TICKNO_START_LO_TICKNO R.SYS_TICKNO_START_HI_TICKNO n

/-- `REPLAY_DONE`: the store is ready. At the first replay that ends after power-on TICKNO is set before any record is committed, and a LIFE record
covers it (R394). A calibration set is applied, but not over the one in force at a warm reset. Where the medium has failed the store does not become
ready (R400; log 125). -/
def State.replayDone (s : State) (torn media : Bool) : State :=
  if !s.on R.NVS_STAT_REPLAYING || !s.dom dNVS || !s.dom dSUPV then s
  else
    let k := s.get R.SYS_STAT_LAST_RESET
    let first := !s.nvs.numbered
    let s0 := if first then s.ticknoSet else s
    if media then (s0.put R.NVS_STAT_REPLAYING 0).selfFail 7
    else
      let s1 := State.replayed s0 torn
      let s2 := if s1.identityOk then s1 else s1.selfFail 7
      let s3 := if torn then s2.selfFail 13 else s2
      let s4 := if first then State.lifeCommit { s3 with nvs := { s3.nvs with numbered := true } } else s3
      if (k = 2 || k = 3) && !first then s4 else s4.calBoot

def execReplayDone (r : ReplayEnd) (s : State) : Host.Outcome State Fault Refusal :=
  .next (s.replayDone (r = .torn) (r = .medium))

/-! ## Self-test and READY (R393, R400) -/

/-- The self-test items that status decides at the end of start-up: fuses, PLLs of the start-up set, the loft's built-in test (a warm reset
makes none, and leaves what the last one found), set, wear. A wake evaluates none again (R400). -/
def State.selfTest (s : State) (loft : Bool) : State :=
  let item (i : Nat) : Fld := ⟨R.SYS_SELFTEST_FAIL.reg, i, 1⟩
  let k := s.get R.SYS_STAT_LAST_RESET
  let pll := s.on (item 1) || (List.range 4).any (fun i =>
    (!s.on (R.PLLi_STAT_LOCK i) && s.sys.startAt + msClk ≤ s.now) || s.on (R.PLLi_STAT_NO_BAND i))
  if k = 4 then s
  else ((((s.put (item 0) (s.get R.CAL_STAT_FUSE_BAD)).put (item 1) (boolNat pll)).put (item 6)
    (if k ≤ 1 then boolNat loft else s.get (item 6))).put (item 11)
    (s.get R.CAL_STAT_NO_SET)).put (item 12) (s.get R.NVS_STAT_WEAR_LOW)

/-- Memory, store and the start-up pass are through, the pass only where RUN is admissible (R393). -/
def State.startOver (s : State) : Bool :=
  s.on R.MEM_STAT_READY && s.on R.NVS_STAT_READY && (s.on R.CAL_STAT_START_PASS_DONE || !s.on R.PWR_STAT_RUN_OK)

/-- `READY`: the self-test is complete. A fatal item ends it at once and keeps READY at 0; it is not evaluated again before the next
reset (R393, R400). -/
def State.readyStep (s : State) (loft : Bool) : State :=
  if !s.on R.SYS_STAT_STARTING || s.pwr.off || s.power = pHOLDUP || !s.dom dSUPV then s
  else
    let s1 := (s.selfTest loft).selfClass
    if s1.on R.SYS_STAT_FATAL then s1.put R.SYS_STAT_STARTING 0
    else if !s.startOver then s
    else
      let s2 := ((s1.put R.SYS_STAT_READY 1).put R.SYS_STAT_STARTING 0).put R.SYS_BOOT_MS_MS (min 65535 ((s1.now - s1.sys.startAt) / msClk))
      s2.selfLive.raise E.SYS_READY

def execReady (s : State) (loft : Bool := false) : Host.Outcome State Fault Refusal := .next (s.readyStep loft)

/-! ## Resets (R395–R398) -/

/-- A warm reset: `last` is LAST_RESET's code, 2 by request, 3 by the watchdog. -/
def State.warmReset (s : State) (last : Nat) : State :=
  let s1 := s.warmClear
  let s2 := ((s1.put R.SYS_STAT_STARTING 1).put R.SYS_STAT_LAST_RESET last).bump
    (if last = 3 then R.SYS_RESET_CNT_WDOG else R.SYS_RESET_CNT_WARM)
  let s3 := (if s2.isIdle then s2.domOff dARRAY else s2).sensorShow
  let s4 := s3.put R.NVS_STAT_REPLAYING (boolNat (s3.dom dNVS))
  let s5 := { s4 with sys := { s4.sys with startAt := s4.now, warmEnd := some (s4.now + 30 * msClk) }
                      pwr := { s4.pwr with held := s4.power ≠ s4.reqState } }
  (((List.range 3).foldl (fun s p => if s.dom (dPORT p) then s.retrain p else s) s5).bwShow).headShow

/-- A cold reset: everything but AON is switched off, and the start-up sequence begins at qualification. -/
def State.coldReset (s : State) : State := s.coldClear.sampleSrc.beginStart 1

/-- Has a cold reset begun in this very cycle? -/
def State.coldNow (s : State) : Bool := s.on R.SYS_STAT_STARTING && s.get R.SYS_STAT_LAST_RESET = 1 && s.sys.startAt = s.now

/-- A reset waits (R398): the cold one wins. -/
def State.resetHold (s : State) (kind : Nat) : State := { s with sys := { s.sys with resetHeld := max kind s.sys.resetHeld } }

/-- A reset is asked for, `kind` 1 warm, 2 by the watchdog, 3 cold: in STANDBY and thermal SHUTDOWN it waits for the next wake, in HOLD-UP for the
end of the flush. A warm one in the cycle of a cold one is lost. -/
def State.resetReq (s0 : State) (kind last addr : Nat) : State :=
  let s := if kind = 3 then { s0 with pins := { s0.pins with mbAddr := addr } } else s0
  if s.pwr.off || (kind ≠ 3 && s.coldNow) then s0
  else if s.power = pSTANDBY then s.resetHold kind
  else if s.power = pHOLDUP then (if s.get R.PWR_STAT_HOLD_PHASE = 3 then (s.resetHold kind).heldWait else s.resetHold kind)
  else if kind = 3 then s.coldReset
  else s.warmReset last

def execWarmReset (s : State) : Host.Outcome State Fault Refusal := .next (s.resetReq 1 2 s.pins.mbAddr)
def execColdReset (mbAddr : Fin 8) (s : State) : Host.Outcome State Fault Refusal := .next (s.resetReq 3 1 mbAddr.val)

/-- A write of SYS_RESET (the straps read as they last did). -/
def State.sysResetWrite (s : State) (v : Nat) : State :=
  if v / 65536 ≠ 0xB5A7 then s
  else if v % 4 = 1 then s.resetReq 1 2 s.pins.mbAddr
  else if v % 4 = 2 then s.resetReq 3 1 s.pins.mbAddr
  else s

/-- `SUPERVISOR_WDOG`. -/
def execSupervisorWdog (s : State) : Host.Outcome State Fault Refusal := .next (if s.dom dSUPV then s.resetReq 2 3 0 else s)

/-- `WARM_DONE`: within 30 ms of the reset. -/
def State.warmDone (s : State) : State :=
  match s.sys.warmEnd with
  | none => s
  | some _ => State.raise { s with sys := { s.sys with warmEnd := none } } E.SYS_WARM_DONE

def execWarmDone (s : State) : Host.Outcome State Fault Refusal := .next s.warmDone

/-- One domain of an accepted SYS_DRESET: off now; DOMAIN_ON switches it on again. -/
def State.domReset (s : State) (d : Nat) : State :=
  let s1 := { s with pwr := { s.pwr with failed := setDel s.pwr.failed d } }
  if d = dLAMP then State.lampOffReq { s1 with lamp := { s1.lamp with tripped := false } }
  else if 21 ≤ d then s1.portOff (d - 21)
  else s1.coursePowerOff (d - 6)

/-- `DOMAIN_RESET`: courses, ports and LAMP only, and no course of the active or the pending bank. -/
def State.dresetWrite (s : State) (v : Nat) : State :=
  if s.pwr.off then s
  else
    let m (b : Option Nat) : Nat := match b with | none => 0 | some x => maskCourses (s.smask x)
    let used := m s.job.active ||| m s.pendingBank
    let ds := bitsOf 25 v
    if ds.any (fun d => !(6 ≤ d && d < 18) && d < 21) || (bits v 6 12 &&& used) ≠ 0 then s.raise E.SYS_DRESET_REFUSED
    else ds.foldl State.domReset s

def execDomainReset (v : Word) (s : State) : Host.Outcome State Fault Refusal := .next (s.dresetWrite v.toNat)

/-! ## Leaving thermal shutdown (R343) -/

/-- `THERM_RESUME`: accepted in SHUTDOWN while every site is at RESUME or below; the module starts from STANDBY once its source is
qualified, and out of HOLD-UP at the hand-back (R343, log 96). -/
def State.thermResume (s : State) : State :=
  if s.pwr.off then s
  else if s.get R.THERM_STAT_STATE ≠ 4 || !s.on R.THERM_STAT_RESUME_OK then s.raise E.THERM_RESUME_REFUSED
  else
    let s1 := { s with therm := { s.therm with caps := [], releasing := false, cond := false, hot := [] }
                       pwr := { s.pwr with fromThermal := false } }
    let s2 := (((s1.put R.THERM_STAT_STAGE 0).put R.ENGG_CLK_THERM_STEP 0).put R.THERM_STAT_RESUME_OK 0).capTherm.thermCalm
    if s2.power = pSTANDBY && s2.pwr.qualified then s2.wakeUp else { s2 with pwr := { s2.pwr with wake := true } }

def execThermResume (s : State) : Host.Outcome State Fault Refusal := .next s.thermResume

/-! ## Monitors (R401) -/

/-- `SYS_MON_CLR`. -/
def State.sysMonClr (s : State) : State := (List.range 19).foldl (fun s m => s.monClear (sysMon m)) s

def execSysMonClr (s : State) : Host.Outcome State Fault Refusal := .next (if s.pwr.off then s else s.sysMonClr)

/-! ## ROLLUP events (R404) -/

/-- A ROLLUP event of roll-up bit k, and the page's hold-off of 1 ms. -/
def State.rollEvent (s : State) (k : Nat) : State :=
  let page := 0x014 + k
  let s1 := s.event cROLLUP page (leBytes 4 (s.intStat page) ++ leBytes 4 s.sysRoll ++ List.replicate 8 0)
  { s1 with sys := { s1.sys with holdoff := mapIns s1.sys.holdoff k (s1.now + msClk) } }

/-- `ROLLUP_EVENT`: the oldest rise: an event, or, during the page's hold-off, a merged one. -/
def State.rollup (s : State) : State :=
  match s.sys.rises with
  | [] => s
  | k :: rest =>
    let s1 := { s with sys := { s.sys with rises := rest } }
    match mapFind s1.sys.holdoff k with
    | none => s1.rollEvent k
    | some _ => State.raise { s1 with sys := { s1.sys with merged := setAdd s1.sys.merged k } } E.SYS_ROLL_MERGED

def execRollupEvent (s : State) : Host.Outcome State Fault Refusal := .next s.rollup

/-- The hold-off that ends first, as (bit, end). -/
def firstEnd : SMap Nat → Option (Nat × Nat)
  | [] => none
  | (k, t) :: m => match firstEnd m with
    | none => some (k, t)
    | some (j, u) => if t ≤ u then some (k, t) else some (j, u)

/-- `ROLLUP_HOLDOFF_END`. -/
def State.holdoffEnd (s : State) : State :=
  match firstEnd s.sys.holdoff with
  | none => s
  | some (k, t) =>
    let s1 := s.at t
    let was := s1.sys.merged.contains k
    let s2 := { s1 with sys := { s1.sys with holdoff := mapDel s1.sys.holdoff k, merged := setDel s1.sys.merged k } }
    if was && bit (s2.sysRoll &&& s2.get R.SYS_EVT_MASK_PAGE) k then s2.rollEvent k else s2

def execRollupHoldoffEnd (s : State) : Host.Outcome State Fault Refusal := .next s.holdoffEnd

end Sys2Proof.Machine
end

