-- ==== Sys2Proof/Machine/Access.lean ====
section
/-! DEFINITION. Accesses to the register space: the common header (R413–R415), reads with their side effects (R92), writes
routed to the register they name (R409–R414), COMPAT_LEVEL (R418). -/
namespace Sys2Proof.Machine

/-! ## The common header (R413) -/

/-- PAGE_ID of a page; 0 for a page number that is not in the index (R417). -/
def pageId (page : Nat) : Nat :=
  match pageRow page with
  | none => 0
  | some p => page + (p.inst0 + (page - p.first)) * 2 ^ 12 + p.type * 2 ^ 20

def State.fuseRev (s : State) : Nat := s.fuseNum 0x808 2 % 256
def State.compatMax (s : State) : Nat := s.fuseNum 0x80A 2 % 256
def State.compatLevel (s : State) : Nat := s.get R.REG_COMPAT_LEVEL

/-- PAGE_REV: layout revision 1, the module revision, the level in force. -/
def State.pageRev (s : State) : Nat := 1 + s.fuseRev * 2 ^ 8 + s.compatLevel * 2 ^ 16

def PageRow.has (p : PageRow) (k : RegKind) : Bool := p.rows.any (fun r => r.kind = k)

/-- PAGE_CAPS. -/
def pageCaps (page : Nat) : Nat :=
  match pageRow page with
  | none => 0
  | some p => boolNat (p.intBits ≠ 0) + boolNat (p.has .shadow) * 2 + boolNat (p.has .banked) * 4 + boolNat p.commitExt * 8
      + boolNat p.noCommit * 16 + restDom page * 2 ^ 8

/-- A word of the header. -/
def State.hdrRead (s : State) (page off : Nat) : Nat :=
  if off = 0x000 then pageId page
  else if off = 0x004 then s.pageRev
  else if off = 0x008 then pageCaps page
  else if off = 0x018 then s.intStat page
  else if off = 0x030 then boolNat (s.commitPend.contains page) * 2
  else if off = 0x010 || off = 0x014 || (0x020 ≤ off && off < 0x030) then (s.reg (page * 4096 + off)).toNat
  else 0

/-- The interrupt bits that a page's table defines. -/
def pageInts (page : Nat) : Nat := match pageRow page with | none => 0 | some p => p.intBits

/-- `INT_CLR`: a write of INT_CLR, or of INT_RAW. -/
def State.intClr (s : State) (page v : Nat) : State :=
  if s.pwr.off || !s.hdrOn page then s else s.put (intRaw page) (maskSub (s.get (intRaw page)) (v % 2 ^ 32))

def execIntClr (page : Nat) (v : Word) (s : State) : Host.Outcome State Fault Refusal := .next (s.intClr page v.toNat)

/-- A write of INT_MASK: an event unmasked after it was set reaches the roll-up at once (R416). -/
def State.intMaskWrite (s : State) (page v : Nat) : State := s.settleFrom (s.put (intMask page) (v &&& pageInts page))

/-- `EVT_CNT_WRITE`: each byte written is subtracted from its counter, with a floor at 0 (R415). -/
def State.evtCntWrite (s : State) (page n v : Nat) : State :=
  if s.pwr.off || !s.hdrOn page then s
  else (List.range 4).foldl (fun s j => let f := evtCnt page (4 * n + j); s.put f (s.get f - bits v (8 * j) 8)) s

def execEvtCntWrite (page : Nat) (n : Fin 4) (v : Word) (s : State) : Host.Outcome State Fault Refusal :=
  .next (s.evtCntWrite page n.val v.toNat)

/-- A write into the header. -/
def State.hdrWrite (s : State) (page off v : Nat) : State :=
  if off = 0x010 || off = 0x01C then s.intClr page v
  else if off = 0x014 then s.intMaskWrite page v
  else if 0x020 ≤ off && off < 0x030 then s.evtCntWrite page ((off - 0x020) / 4) v
  else if off = 0x030 && bit v 0 then s.pageCommit page
  else s

/-! ## COMPAT_LEVEL (R418) -/

/-- `COMPAT_WRITE`: a level that differs from the one in force is taken in IDLE with no job, from MIN to MAX; else REFUSED. -/
def State.compatWrite (s : State) (v : Nat) : State :=
  if s.pwr.off then s
  else
    let lvl := v % 256
    let s1 := if bit v 24 then s.put R.REG_COMPAT_REFUSED 0 else s
    if lvl = s1.compatLevel then s1
    else if s1.isIdle && !s1.jobRunning && s1.get R.REG_COMPAT_MIN ≤ lvl && lvl ≤ s1.compatMax then s1.put R.REG_COMPAT_LEVEL lvl
    else s1.put R.REG_COMPAT_REFUSED 1

def execCompatWrite (v : Word) (s : State) : Host.Outcome State Fault Refusal := .next (s.compatWrite v.toNat)

/-! ## Which registers are served (R407, R408) -/

/-- RP_CTRL holds the EN that switches its port's domain on, so it is served with the header (DEDUCED, log 70). -/
def hdrServed (a : Nat) : Bool := a % 4096 < 0x040 || (0x024 ≤ a / 4096 && a / 4096 ≤ 0x026 && a % 4096 = 0x040)

def State.servedAt (s : State) (a : Nat) : Bool :=
  !s.pwr.off && (if hdrServed a then s.hdrOn (a / 4096) else s.served (a / 4096))

/-! ## Values that a read computes -/

/-- ENGG_INT_SUM word w: the Shingles whose page has an unmasked interrupt (R155). -/
def State.engIntSum (s : State) (w : Nat) : Nat :=
  (List.range 32).foldl (fun v i => if s.intStat (0x200 + 32 * w + i) ≠ 0 then v + 2 ^ i else v) 0

/-- Is clock domain d of Table 5-4 running (R125)? Its power domain (Table 1-3) is on and its PLL's output gate open; the courses are
gated in IDLE, and the strobe timing domains go with LAMP, which drives the strobes (DEDUCED, log 71). -/
def State.clkRuns (s : State) (d : Nat) : Bool :=
  let busy := s.inRun || s.power = pHOLDUP
  let sys := s.dom dCLK && s.gateOpen 0
  if d < 24 then s.dom (dPORT (d / 8)) && s.dom dCLK && s.gateOpen (3 + d / 8)
  else if d < 48 then s.dom (dPORT ((d - 24) / 8)) && ((mapGet {} (s.portOf ((d - 24) / 8)).lanes (d % 8)) : Lane).locked
  else if d < 72 then s.dom (dCOURSE ((d - 48) % 12)) && sys && busy
  else if d < 80 then s.dom dDDR && s.dom dCLK && s.gateOpen 2
  else if d < 88 then s.dom dNVS && sys
  else if d < 96 then s.dom dLAMP && sys
  else if d = 96 then s.dom dCONVN && s.rowRuns
  else if d = 97 then s.dom dCONVS && s.rowRuns
  else if d = 98 then s.rowRuns
  else if d = 99 || d = 100 || d = 101 || d = 108 then s.dom dLOFT && sys
  else if d = 102 then s.dom dSUPV && sys
  else if d = 105 then s.dom dLAMP
  else if d = 103 || d = 104 || d = 109 || d = 110 then true
  else d < 112 && sys

def State.clkGate (s : State) (w : Nat) : Nat :=
  (List.range 32).foldl (fun v i => if s.clkRuns (32 * w + i) then v + 2 ^ i else v) 0

/-- The converter that CAL_CONV_SEL names: its key, and whether a spare stands in for the column. -/
def State.convSel (s : State) : Nat × Bool :=
  let pos := s.get R.CAL_CONV_SEL_POS
  let b := s.get R.CAL_CONV_SEL_BANK
  let sh := if pos < 16 then 0 else min 191 ((pos - 16) / 128)
  if s.on R.CAL_CONV_SEL_SPARE then (spareKey b sh, false)
  else
    let x := s.spareAt b sh
    let turn := s.on R.CAL_STAT_PASS_ACTIVE && !x.dead && !x.done && 1 ≤ x.idx && posAt sh (x.idx - 1) = pos
    (convKey b pos, decide (x.parked = some pos) || turn)

/-- CAL_CONV_DATA and CAL_CONV_RES of the selected converter. -/
def State.convData (s : State) : Nat :=
  let (k, cov) := s.convSel
  let c := s.convAt k
  c.ofsTrim % 64 + c.gainTrim % 64 * 2 ^ 8 + min 3 c.fails * 2 ^ 16 + boolNat c.bad * 2 ^ 18 + boolNat cov * 2 ^ 19
    + c.code % 16 * 2 ^ 20 + boolNat c.badUncov * 2 ^ 24

def State.convRes (s : State) : Nat :=
  let c := s.convAt s.convSel.1
  ofSigned 16 c.ofs + ofSigned 16 c.gain * 2 ^ 16

/-- DEV_STAT: the context in turn, 0 for none, and whether a memory segment is being developed: with no slice waiting the Developer works
on the context in turn (R216, R220). -/
def State.devStat (s : State) : Nat :=
  let v := (s.reg R.DEV_STAT_TURN.reg).toNat
  let busy := s.dom dLOFT && s.dev.input.isEmpty && (s.inRun || s.isIdle) && s.turnNow.isSome
  insBits (insBits v R.DEV_STAT_TURN.lo R.DEV_STAT_TURN.w (s.turnNow.getD 0)) R.DEV_STAT_BUSY_MEM.lo 1 (boolNat busy)

/-- Registers that a read computes from other state; none for the rest. A line offset outside RDO_SLOTk_OFS's signed byte shows its low
8 bits (DESIGN CHOICE, log 156). -/
def State.regShown (s : State) (a : Nat) : Option Nat :=
  let page := a / 4096
  let off := a % 4096
  if page = 0x000 then
    (if off = 0x040 then some (insBits (s.reg a).toNat 16 8 s.compatMax)
     else if off = 0x044 then some s.fuseRev
     else if 0x400 ≤ off && off < 0x400 + 4 * 704 then some (pageId ((off - 0x400) / 4))
     else none)
  else if page = 0x015 && 0x080 ≤ off && off < 0x090 then some (ofSigned 8 (s.slotOfs s.shownBank ((off - 0x080) / 4)))
  else if page = 0x016 && (off = 0x160 || off = 0x170) && s.edgeNext then
    some (s.expCounters.reg a).toNat
  else if page = 0x016 && (off = 0x164 || off = 0x174) then some (s.edgeCount % 2 ^ 32)
  else if a = R.ROW_FU_HZ.reg then some (insBits (s.reg a).toNat 0 26 s.fuShown)
  else if page = 0x018 && 0x080 ≤ off && off < 0x090 then some (s.clkGate ((off - 0x080) / 4))
  else if page = 0x019 && 0x080 ≤ off && off < 0x098 then some (s.engIntSum ((off - 0x080) / 4))
  else if page = 0x021 && 0x800 ≤ off && off % 64 = 4 then some (insBits (s.reg a).toNat 0 3 (s.chanState ((off - 0x800) / 64)))
  else if a = R.DEV_STAT_TURN.reg then some (s.devStat)
  else if page = 0x01B && 0x440 ≤ off && off < 0x800 && off % 0x40 = 0x38 then some ((s.ctxShow ((off - 0x400) / 0x40)).reg a).toNat
  else if a = R.NVS_FREE_EXTENT.reg then some (insBits (s.reg a).toNat R.NVS_FREE_EXTENT.lo R.NVS_FREE_EXTENT.w s.freeNow)
  else if a = R.JOB_STAT_STAGED.reg then some (insBits (s.reg a).toNat R.JOB_STAT_STAGED.lo 1 (boolNat (s.staged s.stageBank)))
  else if 0x200 ≤ page && page < 0x2C0 && a = (R.SH_STAT_STATE (page - 0x200)).reg then
    some ((s.shShow (page - 0x200)).reg a).toNat
  else if page = 0x022 && off = 0x090 then some (s.serial % 2 ^ 32)
  else if page = 0x022 && off = 0x094 then some (s.serial / 2 ^ 32)
  else if page = 0x023 && off = 0x050 then some (s.chainTime s.now % 2 ^ 32)
  else if page = 0x023 && off = 0x054 then some (s.chainTime s.now / 2 ^ 32)
  else if page = 0x027 && off = 0x0A4 then some s.convData
  else if page = 0x027 && off = 0x0A8 then some s.convRes
  else if page = 0x027 && 0x800 ≤ off && off < 0xC00 then some (s.fuseNum off 4)
  else if page = 0x028 && off = 0x050 then some s.graceLeft
  else if page = 0x029 && off = 0x050 then some (Config.freeNat s.freeIdx % 65536 + 65536 * s.inputMa)
  else if page = 0x02A && off = 0x044 then some ((s.put R.LAMP_STAT_SW_24V (boolNat s.lampSw)).reg a).toNat
  else if page = 0x02B && off = 0x044 then
    some (s.get R.MB_STAT_ADDR + boolNat s.mb.awakeUntil.isSome * 2 ^ 8 + boolNat s.attn * 2 ^ 9)
  else if page = 0x02B && off = 0x048 then some (s.get (intRaw 0x02B))
  else if page = 0x02C && (off = 0x040 || off = 0x04C) && !s.pwr.off then some (s.selfLive.reg a).toNat
  else if page = 0x02C && off = 0x054 then some s.sysRoll
  else if page = 0x02C && 0x400 ≤ off && off < 0x400 + 0x60 * 19 && !s.dom dSUPV then some 0
  else none

/-- The value of a register outside the header, without side effects. -/
def State.regPlain (s : State) (a : Nat) : Nat :=
  if (regRow a).isNone then 0 else (s.regShown a).getD (s.reg a).toNat

/-! ## 64-bit pairs (R92) -/

/-- Is this the low word of a pair that follows R92 without SEQ marking? The high word is the next register. -/
def pairLow (a : Nat) : Bool :=
  let page := a / 4096
  let off := a % 4096
  if page = 0x017 then off = 0x070 || off = 0x084
  else if page = 0x01A then off = 0x048 || off = 0x050 || off = 0x058
  else if page = 0x01F then off = 0x068
  else if page = 0x020 then off = 0x040
  else if page = 0x022 then off = 0x080
  else if page = 0x023 then off = 0x050 || off = 0x070 || off = 0x078 || off = 0x080
  else if page = 0x02A then off = 0x050 || off = 0x058 || (0x100 ≤ off && off < 0x140 && off % 8 = 0)
  else if page = 0x02C then off = 0x070
  else 0x200 ≤ page && page < 0x2C0 && off = 0x050

/-- The shadow of a pair by its high word's address: pending until that word is read. -/
def State.shadowSet (s : State) (hi : Nat) (v : Nat) : State :=
  { s with tmr := { s.tmr with shadow64 := mapIns s.tmr.shadow64 hi (BitVec.ofNat 32 v) } }
def State.shadowDrop (s : State) (hi : Nat) : State :=
  { s with tmr := { s.tmr with shadow64 := mapDel s.tmr.shadow64 hi } }

/-- The pair of linked counters or captures that a TMR register belongs to: its low word's high register, and the number of the
counter pair, where the pair is linked. -/
def State.linkedLow (s : State) (a : Nat) : Option Nat :=
  let off := a % 4096
  if a / 4096 ≠ 0x016 then none
  else if 0x100 ≤ off && off < 0x160 && off % 32 = 4 && s.linked ((off - 0x100) / 16) then some (a + 16)
  else if 0x200 ≤ off && off < 0x380 && off % 32 = 12 && s.chanWide ((off - 0x200) / 32) then some (a + 4)
  else none

def State.linkedHighWord (s : State) (a : Nat) : Option Nat :=
  let off := a % 4096
  if a / 4096 ≠ 0x016 then none
  else if 0x110 ≤ off && off < 0x160 && off % 32 = 20 && s.linked ((off - 0x100) / 16) then some ((off - 0x100) / 32)
  else if 0x200 ≤ off && off < 0x380 && off % 32 = 16 && s.chanWide ((off - 0x200) / 32) then some ((off - 0x200) / 128)
  else none

/-- What reading a low word does: the high word goes to the shadow, a capture counts as read, the error latch is freed (R229). -/
def State.lowRead (s : State) (a : Nat) : State :=
  let s1 := match s.linkedLow a with
    | some hi => s.shadowSet hi (s.regPlain hi)
    | none => if pairLow a then s.shadowSet (a + 4) (s.regPlain (a + 4)) else s
  let off := a % 4096
  if a / 4096 = 0x016 && 0x200 ≤ off && off % 32 = 12 then
    { s1 with tmr := { s1.tmr with capUnread := setDel s1.tmr.capUnread ((off - 0x200) / 32) } }
  else if a = R.MEM_ERR_ADDR_LO_ADDR.reg then s1.put R.MEM_ERR_ADDR_HI_VALID 0
  else s1

/-- A read of a register outside the header: its value and what the read does. -/
def State.restRead (s : State) (a : Nat) : Nat × State :=
  match s.linkedHighWord a with
  | some p =>
    (match mapFind s.tmr.shadow64 a with
     | some v => (v.toNat, s.shadowDrop a)
     | none => (s.regPlain a, (s.put ⟨R.TMR_LINK_SEQ.reg, 8 + p, 1⟩ 1).raise E.TMR_SEQ))
  | none =>
    if 4 ≤ a && pairLow (a - 4) then
      (match mapFind s.tmr.shadow64 a with
       | some v => (v.toNat, s.shadowDrop a)
       | none => (s.regPlain a, s))
    else if a = 0x29050 then (s.regPlain a, s.fresh.2)
    else (s.regPlain a, s.lowRead a)

/-- A read of the register space: a register that is not served, or that the map does not have, reads 0. -/
def State.regRead (s : State) (a : Nat) : Nat × State :=
  if a % 4 ≠ 0 || !s.servedAt a then (0, s)
  else if a % 4096 < 0x040 then (s.hdrRead (a / 4096) (a % 4096), s)
  else s.restRead a

/-- A read whose value the host takes. -/
def State.readOut (s : State) (a : Nat) : State := let (v, s1) := s.regRead a; { s1 with rdata := [v] }

def execShadowLowRead (addr : Nat) (s : State) : Host.Outcome State Fault Refusal := .next (s.readOut addr)
def execShadowHighRead (addr : Nat) (s : State) : Host.Outcome State Fault Refusal := .next (s.readOut addr)
def execErrAddrRead (s : State) : Host.Outcome State Fault Refusal := .next (s.readOut R.MEM_ERR_ADDR_LO_ADDR.reg)

/-! ## Writes -/

/-- A write that only stores, by the register's kind. -/
def State.plainWrite (s : State) (a v : Nat) : State :=
  match regKind a with
  | .imm => s.writeWord a v
  | .shadow => s.writeWord a v
  | .nextTick => s.nextWrite a v
  | .banked => s.bankWrite a v
  | .ro => s

/-- A write of CNTk_CTRL: where it sets TIMER mode the prescaler starts (DESIGN CHOICE, log 110: the specification does not say when
a prescaler's first clock falls). -/
def State.cntCtrl (s : State) (k v : Nat) : State :=
  let s1 := s.writeWord (R.CNTk_CTRL_MODE k).reg v
  if s1.cntMode k = 1 && s.cntMode k ≠ 1 then { s1 with tmr := { s1.tmr with prescAt := mapIns s1.tmr.prescAt k s1.now } } else s1

/-- TMR: the exposure unit's counters and channels refuse writes (R87); loads, arms, captures, snapshots act. -/
def State.tmrWrite (s : State) (off v : Nat) : State :=
  let a := 0x16000 + off
  if off = 0x054 then (if bit v 0 then s.snapshot else s)
  else if 0x100 ≤ off && off < 0x180 then
    let k := (off - 0x100) / 16
    if off % 16 = 4 then s.cntLoad k v
    else if off % 16 = 0 then (if 6 ≤ k then s.raise E.TMR_RSV_WRITE else s.cntCtrl k v)
    else s
  else if 0x200 ≤ off && off < 0x400 then
    let j := (off - 0x200) / 32
    let r := off % 32
    if 12 ≤ j then (if r ≤ 0x14 then s.raise E.TMR_RSV_WRITE else s)
    else if 0x0C ≤ r && r < 0x14 then s
    else if r = 4 then s.ccArm j v
    else
      let s1 := s.writeWord a v
      if r = 0 && bit v 7 && s1.on (R.CCj_CTRL_EN j) && s1.get (R.CCj_CTRL_FUNC j) = 1 && s1.get (R.CCj_CTRL_CAP_SRC j) = 8 then s1.capture j
      else if r = 0x14 && bit v 31 then (s1.put (R.CCj_STAT_FIRE_CNT j) 0).put (R.CCj_STAT_OVR_CNT j) 0
      else s1
  else s.plainWrite a v

/-- CLK: PLL control, band entries of a disabled PLL (R112), RELOAD. -/
def State.clkWrite (s : State) (off v : Nat) : State :=
  let a := 0x18000 + off
  if off = 0x040 then
    let s1 := s.writeWord a v
    if bit v 0 && s1.on R.SYS_STAT_READY then s1.reload else s1
  else if 0x100 ≤ off && off < 0x160 && off % 16 = 0 then s.pllCtrl ((off - 0x100) / 16) v
  else if 0x400 ≤ off && off < 0x580 then
    if !s.on R.SYS_STAT_READY then s
    else if s.on (pllEn ((off - 0x400) / 64)) then s.raise E.CLK_REFUSED
    else s.writeWord a v
  else s.plainWrite a v

/-- SH_CTRL. -/
def State.shWrite (s : State) (sh off v : Nat) : State :=
  if off ≠ 0x040 then s
  else
    let s1 := s.writeWord (R.SH_CTRL_HALT sh).reg v
    let s2 := if bit v 0 then s1.release sh else s1
    (if bit v 8 then (s2.monClear (shMon sh 0)).monClear (shMon sh 1) else s2).shShow sh

/-- DMA: the fence, the channels. -/
def State.dmaWrite (s : State) (off v : Nat) : State :=
  let a := 0x21000 + off
  let n := (off - 0x800) / 64
  let r := off % 64
  if off = 0x040 then (if bit v 0 then s.fenceGo else s)
  else if off < 0x800 then s.plainWrite a v
  else if r = 0 then s.chanCtrl n v
  else if r = 0x08 || r = 0x0C || r = 0x10 then s.chanRingWrite n a v
  else if r = 0x18 then s.tailWrite n v
  else s.plainWrite a v

/-- A free list of n values of 32 bits: what a measurement that the command does not carry shows. -/
def freeWords (i n : Nat) : List Nat := (List.range n).map (fun k => Config.freeNat i / 4294967296 ^ k % 4294967296)

/-- NVS_CMD: with GO the command of OP; a reserved OP ends with BAD_ARG. How a STORE's programming goes is free. -/
def State.nvsCmdWrite (s : State) (v : Nat) : State :=
  let op := v % 16
  let w := BitVec.ofNat 32 v
  if !bit v 31 then s.writeWord R.NVS_CMD_OP.reg v
  else if op = 1 then
    let x := Config.freeNat s.freeIdx
    s.fresh.2.nvsGo 1 w { spare := BitVec.ofNat 7 (x / 2 % 101), fails := decide (x % 2 = 1) }
  else s.nvsGo op w s.progPlain

/-- DARK, WHITE and TIMING runs of a CAL_CMD, with measurements taken from n free values of index i. -/
def State.calDarkFree (s : State) (i : Nat) : State :=
  let xs := freeWords i (12 + 4 * 49216)
  let mean (k : Nat) : Int := toSigned 32 (xs.getD k 0)
  let held (at_ : Nat) : PatternSeen := ⟨⟨0, 0⟩, (List.range 49216).map (fun k => (k, ⟨mean (at_ + 2 * k), mean (at_ + 2 * k + 1)⟩))⟩
  s.calDark ⟨xs.getD 0 0, xs.getD 1 0, xs.getD 2 0, mean 3, (List.range 4).map (fun k => ⟨mean (4 + 2 * k), xs.getD (5 + 2 * k) 0⟩), held 12,
    held (12 + 2 * 49216)⟩
def State.calWhiteFree (s : State) (i : Nat) : State :=
  let xs := freeWords i (4 + 2 * positions + 32 * 24576)
  let lines := xs.drop (4 + 2 * positions)
  s.calWhite ⟨xs.getD 0 0, xs.getD 1 0, xs.getD 2 0, xs.getD 3 0 % 2 = 1, (xs.drop 4).take positions, (xs.drop (4 + positions)).take positions,
    lines.take (16 * 24576), lines.drop (16 * 24576)⟩
def State.calTimingFree (s : State) (i : Nat) : State :=
  let xs := freeWords i 10
  s.calTiming (((xs.drop 2).take 8).map (toSigned 32)) (toSigned 32 (xs.getD 0 0)) (toSigned 32 (xs.getD 1 0))

/-- CAL_CMD: with GO the run of OP; what it will measure is free here. -/
def State.calCmdWrite (s : State) (v : Nat) : State :=
  let op := v % 16
  if !bit v 31 then s.writeWord R.CAL_CMD_OP.reg v
  else if op = 1 then s.fresh.2.calDarkFree s.freeIdx
  else if op = 2 then s.fresh.2.calWhiteFree s.freeIdx
  else if op = 3 then s.fresh.2.calTimingFree s.freeIdx
  else if op = 4 then s.calLoad
  else if op = 5 then s.calApply
  else if op = 6 then s.calAbort.put R.CAL_CMD_OP op
  else s.put R.CAL_CMD_OP op

/-- RP: EN 1 to 0 switches the port off, RETRAIN retrains (R284). -/
def State.rpWrite (s : State) (p off v : Nat) : State :=
  let a := (0x024 + p) * 4096 + off
  if off = 0x040 then
    let was := s.on (R.RP_CTRL_EN p)
    let s1 := s.writeWord a v
    let now := s1.on (R.RP_CTRL_EN p)
    if was && !now then s1.portOff p
    else if !was && now then { s1 with pwr := { s1.pwr with failed := setDel s1.pwr.failed (dPORT p) } }
    else if bit v 4 && s1.served (0x024 + p) && s1.portState p ≠ rpTEST then s1.retrain p
    else s1
  else if 0x100 ≤ off && off < 0x140 then s.allocWrite p ((off - 0x100) / 4) v
  else if 0x400 ≤ off && off < 0x600 && off % 64 = 0 then s.laneCtrl p ((off - 0x400) / 64) v
  else s.plainWrite a v

/-- PWR: a power request, limits, the charger (R350, R347, R358, R361). -/
def State.pwrWrite (s : State) (off v : Nat) : State :=
  let a := 0x29000 + off
  if off = 0x040 then (s.powerRequest v).fallbackRun s
  else if off = 0x060 then
    let was := s.on R.PWR_CHG_CTRL_EN
    let s1 := s.writeWord a v
    let now := s1.on R.PWR_CHG_CTRL_EN
    let s2 := if was && !now then s1.chargeStop else if !was && now then s1.chargeGo else s1
    if bit v 31 then s2.faultClr else s2
  else (s.plainWrite a v).pwrShow

/-- SYS: resets, domain resets, masks, monitors. -/
def State.sysWrite (s : State) (off v : Nat) : State :=
  let a := 0x2C000 + off
  if off = 0x044 then s.sysResetWrite v
  else if off = 0x048 then s.dresetWrite v
  else if off = 0x058 || off = 0x05C then s.settleFrom (s.writeWord a v)
  else if off = 0x060 then
    let s1 := s.writeWord a v
    if bit v 0 then s1.sysMonClr else s1
  else s.plainWrite a v

/-- IDENT, EXP, RDO, ENGG, MEM, LAMP: one register of the page acts, the others store. -/
def State.identWrite (s : State) (off v : Nat) : State := if off = 0x040 then s.compatWrite v else s
def State.expWrite (s : State) (off v : Nat) : State := if off = 0x040 then s.expModeWrite v else s.plainWrite (0x14000 + off) v
def State.rdoWrite (s : State) (off v : Nat) : State := if off = 0x040 then s.webDirWrite v else s.plainWrite (0x15000 + off) v
def State.enggWrite (s : State) (off v : Nat) : State := if off = 0x040 then s.coursePwrWrite v else s.plainWrite (0x19000 + off) v
def State.memWrite (s : State) (off v : Nat) : State :=
  if off = 0x040 then
    let s1 := s.writeWord (0x1F000 + off) v
    let was := s.on R.MEM_CTRL_SCRUB_EN
    let now := s1.on R.MEM_CTRL_SCRUB_EN
    if was && !now then s1.put R.MEM_STAT_SCRUBBING 0 else if !was && now then s1.bgProgress 3 else s1
  else if off = 0x050 then (s.writeWord (0x1F000 + off) v).bwShow else s.plainWrite (0x1F000 + off) v
def State.lampWrite (s : State) (off v : Nat) : State := if off = 0x040 then s.lampPwrWrite v else s.plainWrite (0x2A000 + off) v

/-- TICK: the source, the monitors' clear. -/
def State.tickWrite (s : State) (off v : Nat) : State :=
  let a := 0x17000 + off
  if off = 0x044 then s.tickSrcWrite v
  else if off = 0x080 && bit v 0 then (s.writeWord a v).tickMonClr
  else s.plainWrite a v

/-- JOB: the job's commands, the splice tick. -/
def State.jobWrite (s : State) (off v : Nat) : State :=
  let a := 0x1A000 + off
  if off = 0x040 then s.jobCtrl v
  else if off = 0x050 || off = 0x054 then let s1 := s.writeWord a v; { s1 with job := { s1.job with splice := true } }
  else s.plainWrite a v

/-- RING: configuration and the host's free offset. -/
def State.ringWrite (s : State) (off v : Nat) : State :=
  let r := (off - 0x100) / 32
  if 0x100 ≤ off && off < 0x1A0 && off % 32 < 8 then s.ringCfgWrite r (off % 32 = 4) v
  else if 0x100 ≤ off && off < 0x1A0 && off % 32 = 0x10 then s.ringRdWrite r v
  else s.plainWrite (0x20000 + off) v

/-- NVS, CHAIN, CAL: a command register, the chain monitors' clear. -/
def State.nvsWrite (s : State) (off v : Nat) : State := if off = 0x040 then s.nvsCmdWrite v else s.plainWrite (0x22000 + off) v
def State.chainWrite (s : State) (off v : Nat) : State :=
  let a := 0x23000 + off
  if off = 0x044 then (if bit v 31 then s.chainMonClr else s).nextWrite a v else s.plainWrite a v
def State.calWrite (s : State) (off v : Nat) : State :=
  if off = 0x048 then s.calCmdWrite v
  else
    let s1 := s.plainWrite (0x27000 + off) v
    if !s.on R.CAL_CTRL_BG_EN && s1.on R.CAL_CTRL_BG_EN then (s1.bgProgress 0).bgProgress 1 else s1

/-- THERM: thresholds, THERM_RESUME. -/
def State.thermWrite (s : State) (off v : Nat) : State :=
  if 0x080 ≤ off && off < 0x0E0 then s.thrWrite ((off - 0x080) / 8) (off % 8 = 4) v
  else if off = 0x04C then (if bit v 0 then s.thermResume else s)
  else s.plainWrite (0x28000 + off) v

/-- MB: the write-one-to-clear copy of its INT_RAW. -/
def State.mbPageWrite (s : State) (off v : Nat) : State := if off = 0x048 then s.intClr 0x02B v else s.plainWrite (0x2B000 + off) v

/-- A write to a register outside the header, in the pages up to 0x021 and those of the Shingles. -/
def State.restWriteLow (s : State) (page off v : Nat) : State :=
  match page with
  | 0x000 => s.identWrite off v
  | 0x014 => s.expWrite off v
  | 0x015 => s.rdoWrite off v
  | 0x016 => s.tmrWrite off v
  | 0x017 => s.tickWrite off v
  | 0x018 => s.clkWrite off v
  | 0x019 => s.enggWrite off v
  | 0x01A => s.jobWrite off v
  | 0x01F => s.memWrite off v
  | 0x020 => s.ringWrite off v
  | 0x021 => s.dmaWrite off v
  | p => if 0x200 ≤ p && p < 0x2C0 then s.shWrite (p - 0x200) off v else s.plainWrite (p * 4096 + off) v

/-- A write to a register outside the header, by page. -/
def State.restWrite (s : State) (a v : Nat) : State :=
  let off := a % 4096
  match a / 4096 with
  | 0x022 => s.nvsWrite off v
  | 0x023 => s.chainWrite off v
  | 0x024 => s.rpWrite 0 off v
  | 0x025 => s.rpWrite 1 off v
  | 0x026 => s.rpWrite 2 off v
  | 0x027 => s.calWrite off v
  | 0x028 => s.thermWrite off v
  | 0x029 => s.pwrWrite off v
  | 0x02A => s.lampWrite off v
  | 0x02B => s.mbPageWrite off v
  | 0x02C => s.sysWrite off v
  | p => s.restWriteLow p off v

/-- A write of the register space: one that is not served, or names no register, is ignored. -/
def State.regWrite (s : State) (a v : Nat) : State :=
  if a % 4 ≠ 0 || !s.servedAt a then s
  else if a % 4096 < 0x040 then s.hdrWrite (a / 4096) (a % 4096) v
  else if (regRow a).isNone then s
  else s.restWrite a v

/-- `REGISTER_WRITE`. -/
def execRegisterWrite (addr : Nat) (v : Word) (s : State) : Host.Outcome State Fault Refusal := .next (s.regWrite addr v.toNat)

end Sys2Proof.Machine
end

