-- ==== Sys2Proof/Machine/DmaRun.lean ====
section
/-! DEFINITION. DMA descriptors (R225–R227, R240–R247) and bulk data (R290). -/
namespace Sys2Proof.Machine

/-! ## The module address map as DMA sees it (R225–R227) -/

/-- Where an address lies: 0 DDR4, 1 loft, 2 tray, 3 broadcast window, 4 register window, 5 negative store, 6 nowhere. -/
def dmaTarget (a : Nat) : Nat :=
  if a < ddrTop then 0
  else if a < loftBase + loftSize then 1
  else if trayBase 0 ≤ a && a < trayBase 192 then 2
  else if bcastBase ≤ a && a < bcastBase + traySize then 3
  else if regWindow ≤ a && a < regWindow + 0x1000000 then 4
  else if nvsBase ≤ a && a < nvsTop then 5
  else 6

def trayShingle (a : Nat) : Nat := (a - trayBase 0) / traySize

/-- The error of an access of w bytes: 0, WIDTH or RANGE (Table 10-8). -/
def State.dmaAccess (s : State) (a w : Nat) (write : Bool) : Nat :=
  match dmaTarget a with
  | 0 => 0
  | 1 => 0
  | 2 => if s.courseOn (trayShingle a / 16) then 0 else 5
  | 3 => if write then 0 else 5
  | 4 => if w = 4 then 0 else 1
  | 5 => if write || nvsJournal ≤ a then 5 else 0
  | _ => 5

/-- A host access of a tray whose engine runs an invocation may wait for its port (R131, R171). -/
def State.trayHost (s : State) (sh : Nat) : State :=
  let e := s.engine sh
  match e.run with
  | none => s
  | some r => s.setEngine sh { e with run := some { r with host := true } }

/-- Read one unit: its bytes, or an error; a poisoned beat of DDR4 gives UE (R230). -/
def State.dmaRead (s : State) (a w : Nat) : State × (Nat ⊕ List Nat) :=
  if s.dmaAccess a w false ≠ 0 then (s, .inl (s.dmaAccess a w false))
  else if dmaTarget a = 4 then
    match s.regRead (a - regWindow) with
    | (v, s1) => (s1, .inr (leBytes 4 v))
  else if dmaTarget a = 0 then (s.ddrRead a w, if s.poisoned a w then .inl 6 else .inr (s.bytes a w))
  else (if dmaTarget a = 2 then s.trayHost (trayShingle a) else s, .inr (s.bytes a w))

/-- Write into a tray (Table 6-1): kernel code and parameters of a bank in use are discarded and told; the line descriptor and the
reserved range ignore writes. -/
def State.trayWrite (s0 : State) (sh ofs : Nat) (bs : List Nat) : State :=
  let s := s0.trayHost sh
  let put (s : State) := s.setBytes (trayBase sh + ofs) bs
  let code (x : Nat) := if s.trayInUse sh x then s.raise (E.SH_BANK_BUSY sh) else put s
  if ofs < 0x10000 then code (ofs / 0x8000)
  else if ofs < 0x14000 then code ((ofs - 0x10000) / 0x2000)
  else if 0x3F000 ≤ ofs && ofs < 0x3F800 then s
  else put s

/-- Write one unit, or an error. -/
def State.dmaWriteUnit (s : State) (a : Nat) (bs : List Nat) : State × Nat :=
  let e := s.dmaAccess a bs.length true
  if e ≠ 0 then (s, e)
  else
    let ofs := a % traySize
    match dmaTarget a with
    | 2 => (s.trayWrite (trayShingle a) ofs bs, 0)
    | 3 => ((List.range 192).foldl (fun s sh =>
        if bit (s.get (R.DMA_BCASTw_SHINGLE (sh / 32))) (sh % 32) && s.courseOn (sh / 16) then s.trayWrite sh ofs bs else s) s, 0)
    | 4 => (s.regWrite (a - regWindow) (leNat bs), 0)
    | _ => (s.setBytes a bs, 0)

/-! ## Swapping (R244) -/

/-- Swap the two halves of every group of 2·k units of a list, for k units of one byte (a shorter tail stays). -/
def swapPairs (k : Nat) : Nat → List Nat → List Nat
  | 0, xs => xs
  | n + 1, xs => if xs.length < 2 * k then xs else (xs.drop k).take k ++ xs.take k ++ swapPairs k n (xs.drop (2 * k))

def dmaSwap (sw : Nat) (bs : List Nat) : List Nat :=
  let b1 := if sw % 2 = 1 then swapPairs 1 bs.length bs else bs
  if 2 ≤ sw then swapPairs 2 bs.length b1 else b1

/-! ## Descriptors -/

def descSw (d : List Nat) : Nat := bits (descCtrl d) 0 3
def descDw (d : List Nat) : Nat := bits (descCtrl d) 3 3
def descSwap (d : List Nat) : Nat := bits (descCtrl d) 8 2
def descSrcPort (d : List Nat) : Bool := bit (descCtrl d) 10
def descDstPort (d : List Nat) : Bool := bit (descCtrl d) 11

/-- Is a named port down? Code 3 names none. -/
def State.portGone (s : State) (p : Nat) : Bool := p = 3 || !s.portUp p

/-- The rules of Table 10-8 that are checked before any transfer, in its order; RANGE on the first address of each side. -/
def State.descCheck (s : State) (d : List Nat) : Nat :=
  let sp := descSrcPort d
  let dp := descDstPort d
  let sw := 2 ^ descSw d
  let dw := 2 ^ descDw d
  let len := descLen d
  let src := descSrc d
  let dst := descDst d
  let width : Bool := (!sp && (descSw d = 7 || s.dmaAccess src sw false = 1)) || (!dp && (descDw d = 7 || s.dmaAccess dst dw true = 1))
  let length : Bool := len = 0 || (!sp && len % sw ≠ 0) || (!dp && len % dw ≠ 0)
  let align : Bool := (!sp && src % sw ≠ 0) || (!dp && dst % dw ≠ 0)
  let swap : Bool := !dp && ((descSwap d = 1 && dw < 2) || (2 ≤ descSwap d && dw < 4))
  let range : Bool := (!sp && s.dmaAccess src sw false = 5) || (!dp && s.dmaAccess dst dw true = 5)
  let port : Bool := (sp && s.portGone (src % 4)) || (dp && s.portGone (dst % 4))
  if width then 1 else if length then 2 else if align then 3 else if swap then 4 else if range then 5 else if port then 7 else 0

/-- Take up to k bytes of bulk data of a VC, oldest packet first; the units emptied are freed (R292). -/
def takeBulk (v : Nat) : Nat → List (Nat × Nat × List Nat) → List Nat × List (Nat × Nat × List Nat) × Nat
  | _, [] => ([], [], 0)
  | k, (w, u, bs) :: rest =>
    if w ≠ v then let (got, left, fr) := takeBulk v k rest; (got, (w, u, bs) :: left, fr)
    else if k < bs.length then
      let u' := units64 (bs.length - k)
      (bs.take k, (w, u', bs.drop k) :: rest, u - u')
    else let (got, left, fr) := takeBulk v (k - bs.length) rest; (bs ++ got, left, u + fr)

def State.bulkTake (s : State) (p v k : Nat) : List Nat × State :=
  let x := s.portOf p
  let (got, left, fr) := takeBulk v k x.bulk
  (got, s.setPort p { x with bulk := left, held := mapSet 0 x.held v (mapGet 0 x.held v - fr)
                             freed := mapSet 0 x.freed v ((mapGet 0 x.freed v + fr) % 2 ^ 24) })

/-- Read source units until `want` bytes are held: memory in units of SW, a port's data as far as it has come. -/
def State.dmaFill : Nat → State → Nat → Nat → State
  | 0, s, _, _ => s
  | k + 1, s, n, want =>
    let c := s.chanOf n
    if want ≤ c.buf.length || c.err ≠ 0 then s
    else if descSrcPort c.desc then
      let (got, s1) := s.bulkTake (descSrc c.desc % 4) (bits (descSrc c.desc) 4 4) (want - c.buf.length)
      s1.setChan n { c with buf := c.buf ++ got }
    else
      let w := 2 ^ descSw c.desc
      let a := descSrc c.desc + (if bit (descCtrl c.desc) 6 then c.pos + c.buf.length else 0)
      match s.dmaRead a w with
      | (s1, .inl e) => s1.setChan n { s1.chanOf n with err := e }
      | (s1, .inr bs) => State.dmaFill k (s1.setChan n { s1.chanOf n with buf := c.buf ++ bs }) n want

/-- The bytes of the next delivery: one destination unit, or up to 64 bytes for a packet: the holding register has no more (R240). -/
def DmaChan.piece (c : DmaChan) : Nat :=
  if descDstPort c.desc then min 64 (descLen c.desc - c.pos) else 2 ^ descDw c.desc

/-- Deliver one piece that the holding register has. A packet leaves the channel when it has 65,536 bytes (log 72), or all that is left
of its descriptor. -/
def State.dmaDeliver (s : State) (n : Nat) : State :=
  let c := s.chanOf n
  let k := c.piece
  let bs := dmaSwap (descSwap c.desc) (c.buf.take k)
  if descDstPort c.desc then
    let d := descDst c.desc
    let out := c.out ++ bs
    let c1 := { c with buf := c.buf.drop k, pos := c.pos + k, out := out }
    if out.length < 65536 && c1.pos < descLen c.desc then s.setChan n c1
    else (s.txPush (d % 4) { vc := bits d 4 4, type := bits d 8 8, payload := out }).setChan n { c1 with out := [] }
  else
    let a := descDst c.desc + (if bit (descCtrl c.desc) 7 then c.pos else 0)
    let (s1, e) := s.dmaWriteUnit a bs
    let c1 := s1.chanOf n
    s1.setChan n (if e = 0 then { c1 with buf := c.buf.drop k, pos := c.pos + k, writes := c1.writes + 1, own := c1.own + 1 }
                  else { c1 with err := e })

/-- Move data until a position is reached, an error ends the descriptor, or its source port has no more. -/
def State.dmaPump : Nat → State → Nat → Nat → State
  | 0, s, _, _ => s
  | k + 1, s, n, upTo =>
    let c := s.chanOf n
    if !c.busy || c.done || c.err ≠ 0 || upTo ≤ c.pos then s
    else
      let s1 := s.dmaFill (c.piece + 1) n c.piece
      let c1 := s1.chanOf n
      if !c1.busy || c1.err ≠ 0 || c1.buf.length < c1.piece then s1 else State.dmaPump k (s1.dmaDeliver n) n upTo

/-- The data has moved, or an error has ended it: completion is due. -/
def State.dmaSettle (s : State) (n : Nat) : State :=
  let c := s.chanOf n
  let s1 :=
    if !c.busy || c.done then s
    else if c.err ≠ 0 || descLen c.desc ≤ c.pos then s.setChan n { c with done := true, buf := [], out := [] }
    else s
  (s1.chanShow n).stagedShow

/-- One 64-byte transfer of a channel. -/
def State.dmaTransfer (s : State) (n : Nat) : State :=
  let c := s.chanOf n
  (s.dmaPump 65 n (min (descLen c.desc) (c.pos + 64))).dmaSettle n

/-- Does an access of the descriptor wait for DDR4 (R228)? -/
def State.ddrWait (s : State) (a : Nat) : Bool := dmaTarget a = 0 && !s.on R.MEM_STAT_READY

/-- Has a channel a transfer to make now: a descriptor in execution whose source has data, and DDR4 where it needs it? -/
def State.dmaReady (s : State) (n : Nat) : Bool :=
  let c := s.chanOf n
  c.busy && !c.done && s.power ≠ pSTANDBY && (descDstPort c.desc || !s.ddrWait (descDst c.desc)) &&
    (if descSrcPort c.desc then
      (s.portOf (descSrc c.desc % 4)).bulk.any (fun (w, _, bs) => w = bits (descSrc c.desc) 4 4 && !bs.isEmpty)
    else !s.ddrWait (descSrc c.desc))

/-- The channel that the DMA clock serves next: of those with a transfer to make the ones of the highest PRIO, round-robin behind the one
of that PRIO served last (R235, R240). -/
def State.dmaNext (s : State) : Option Nat :=
  let ready := (List.range 32).filter s.dmaReady
  let top := ready.foldl (fun p n => max p (s.get (R.CHn_CTRL_PRIO n))) 0
  let best := ready.filter (fun n => s.get (R.CHn_CTRL_PRIO n) = top)
  match best.find? (fun n => mapGet 31 s.dma.last top < n) with
  | some n => some n
  | none => best.head?

/-- The DMA clock serves a channel: one transfer, after which its PRIO goes on behind it. -/
def State.dmaServe (s : State) (n : Nat) : State :=
  State.dmaTransfer { s with dma := { s.dma with last := mapSet 31 s.dma.last (s.get (R.CHn_CTRL_PRIO n)) n } } n

/-- Transfers by turn until a channel has none to make. -/
def State.dmaTurns : Nat → State → (State → Bool) → State
  | 0, s, _ => s
  | k + 1, s, go =>
    if !go s then s
    else match s.dmaNext with
      | none => s
      | some n => State.dmaTurns k (s.dmaServe n) go

/-- Transfers that the descriptors in execution can still make. -/
def State.dmaLeft (s : State) : Nat := s.dma.chan.foldl (fun n (c : Nat × DmaChan) => n + 2 * (descLen c.2.desc - c.2.pos) + 2) 1

/-! ## The ring (R241, R242) -/

/-- The address of the descriptor at HEAD; the ring is aligned to 32 bytes. -/
def State.descAddr (s : State) (n : Nat) : Nat :=
  s.get64 (R.CHn_RING_LO_ADDR n) (R.CHn_RING_HI_ADDR n) / 32 * 32 + 32 * (s.get (R.CHn_HEAD_PTR n) % 256)

/-- A ring lies in DDR4 or the loft. -/
def ringPlace (a : Nat) : Bool := dmaTarget a ≤ 1

/-- A channel whose ring holds a descriptor begins it: it reads and checks the descriptor at HEAD. A ring outside DDR4 and the loft ends
with RANGE (log 72). -/
def State.dmaBegin (s : State) (n : Nat) : State :=
  let c := s.chanOf n
  if !s.chanEn n || s.on (R.CHn_CTRL_MODE n) || c.busy || c.err ≠ 0 || s.chanEmpty n then s
  else
    let a := s.descAddr n
    let fresh (d : List Nat) (e : Nat) : DmaChan := { busy := true, desc := d, err := e, writes := c.writes }
    if !ringPlace a then (s.setChan n (fresh [] 5)).dmaSettle n
    else if s.ddrWait a then s
    else
      let d := s.bytes a 32
      let s1 := if dmaTarget a = 0 then s.ddrRead a 32 else s
      let e := if dmaTarget a = 0 && s.poisoned a 32 then 6 else s.descCheck d
      (s1.setChan n (fresh d e)).dmaSettle n

/-- `DMA_DESCRIPTOR`: the channel begins the descriptor at HEAD, as do the channels beside it that have one, and the DMA clock serves
them by turn until this one's data has moved or it waits for its source port. -/
def State.dmaDescriptor (s : State) (n : Nat) : State :=
  if !s.served 0x021 || s.pwr.off || s.power = pSTANDBY || !s.chanEn n || s.on (R.CHn_CTRL_MODE n) || (s.chanOf n).done then s
  else
    let s1 := (List.range 32).foldl State.dmaBegin s
    s1.dmaTurns s1.dmaLeft (fun s => s.dmaReady n)

def execDmaDescriptor (n : Fin 32) (s : State) : Host.Outcome State Fault Refusal := .next (s.dmaDescriptor n.val)

/-- `DMA_DONE`: STATUS, HEAD, the counters, the interrupt and the event. With FENCE = 1 the descriptor's own writes have arrived. After
an error the channel stops, and HEAD names the descriptor. In STANDBY no channel runs, and a completion waits (R228). A compaction that the
descriptor's reads of the store pre-empted resumes (R264). -/
def State.dmaDone (s : State) (n : Nat) : State :=
  let c := s.chanOf n
  let a := s.descAddr n
  if !c.busy || !c.done || s.power = pSTANDBY || s.ddrWait a then s
  else
    let status := 1 + 16 * c.err
    let s1 := if ringPlace a then s.setBytes (a + 0x1C) (leBytes 4 status) else s
    let ctrl := descCtrl c.desc
    let left := if bit ctrl 13 then c.writes - c.own else c.writes
    let s2 := (s1.setChan n { writes := left, err := c.err }).fenceShrink n left
    let s3 :=
      if c.err ≠ 0 then (((s2.put (R.CHn_STAT_ERR n) c.err).bump (R.CHn_STAT_ERR_CNT n)).raise (E.DMA_CH n))
      else
        let t := (s2.headNext n).put (R.CHn_DONE_CNT_COUNT n) (s2.get (R.CHn_DONE_CNT_COUNT n) + 1)
        let t1 := if bit ctrl 12 then (t.bump (R.CHn_STAT_IRQ_CNT n)).raise (E.DMA_CH n) else t
        if bit ctrl 14 then t1.eventOn cDMA_DONE n (descBytes c.desc ++ leBytes 4 status) (t1.get (R.CHn_CTRL_VC n)) else t1
    (s3.chanShow n).stagedShow.compactResume
where
  /-- TAG's four bytes. -/
  descBytes (d : List Nat) : List Nat := padTo 4 ((d.drop 0x18).take 4)

def execDmaDone (n : Fin 32) (s : State) : Host.Outcome State Fault Refusal := .next (s.dmaDone n.val)

/-! ## Bulk data -/

/-- `BULK`: the packet waits in its VC's buffer; the channels that wait for data take it by turn. -/
def State.bulk (s : State) (p : Pkt) (bs : List Nat) : State :=
  let (s1, ok) := s.receive p 0x08 bs
  if !ok then s1
  else
    let q := p.port.val
    let x := s1.portOf q
    let s2 := s1.setPort q { x with bulk := x.bulk ++ [(p.vc.val, units64 p.len, padTo p.len (pktSeen p bs))] }
    s2.dmaTurns s2.dmaLeft (fun _ => true)

def execBulk (p : Pkt) (payload : List Byte) (s : State) : Host.Outcome State Fault Refusal :=
  .next (s.bulk p (payload.map BitVec.toNat))

end Sys2Proof.Machine
end

