-- ==== Sys2Proof/Machine/Packets.lean ====
section
/-! DEFINITION. Register-access packets and their way along a chain (R295–R297). -/
namespace Sys2Proof.Machine

/-- The words of a register-access packet beside its payload's data (Table 12-4). -/
structure RegMsg where
  tag : Nat := 0
  hops : Nat := 0
  rhops : Nat := 0
  entry : Nat := 0
  code : Nat := 0
  count : Nat := 0
  addr : Nat := 0
  data : List Nat := []
  deriving DecidableEq, Repr

def RegMsg.bytes (m : RegMsg) : List Nat :=
  leBytes 4 m.tag ++ leBytes 1 m.hops ++ leBytes 1 m.rhops ++ leBytes 1 m.entry ++ leBytes 1 m.code ++ leBytes 2 m.count ++
    leBytes 2 0 ++ leBytes 4 m.addr ++ m.data.flatMap (leBytes 4)

/-- The message as a receiver takes it: data blocks with an invalid sync header are zeros (R275). -/
def RegMsg.seen (m : RegMsg) (p : Pkt) : RegMsg :=
  { tag := pktField p 0 4 m.tag, hops := pktField p 4 1 m.hops, rhops := pktField p 5 1 m.rhops, entry := pktField p 6 1 m.entry, code := pktField p 7 1 m.code
    count := pktField p 8 2 m.count, addr := pktField p 12 4 m.addr, data := m.data.zipIdx.map (fun (v, i) => pktField p (16 + 4 * i) 4 v) }

/-- A packet leaves on a port that is up; else it is discarded. -/
def State.regSend (s : State) (q vc type : Nat) (m : RegMsg) : State :=
  if q < 3 && s.portUp q then s.txPush q { vc := vc, type := type, payload := m.bytes } else s

/-- COUNT reads in ascending address order. -/
def State.readWords : Nat → State → Nat → List Nat × State
  | 0, s, _ => ([], s)
  | n + 1, s, a =>
    let (v, s1) := s.regRead a
    let (vs, s2) := State.readWords n s1 (a + 4)
    (v :: vs, s2)

/-- The writes of a request, in ascending address order. -/
def State.writeWords : State → Nat → List Nat → State
  | s, _, [] => s
  | s, a, v :: vs => (s.regWrite a v).writeWords (a + 4) vs

/-- Does a word of the range fall in no page (R407)? -/
def unmapped (a n : Nat) : Bool := (List.range n).any (fun i => (pageRow ((a + 4 * i) / 4096)).isNone)

/-- Execute a request: the response's status and data. OP 1 reads, 2 writes. -/
def State.regExec (s : State) (m : RegMsg) : RegMsg × State :=
  let rsp : RegMsg := { m with data := [] }
  if m.count = 0 || 256 < m.count || m.addr % 4 ≠ 0 || !(m.code = 1 || m.code = 2) then ({ rsp with code := 1 }, s)
  else
    let a := m.addr % 2 ^ 24
    let st := if unmapped a m.count then 3 else 0
    if m.code = 1 then let (vs, s1) := s.readWords m.count a; ({ rsp with code := st, data := vs }, s1)
    else ({ rsp with code := st }, s.writeWords a (padTo m.count m.data))

/-- `REG_REQ`: executed at HOPS = 0, else forwarded: on D from H and U, on U from D. -/
def State.regReq (s : State) (p : Pkt) (sent : RegMsg) : State :=
  let (s1, ok) := s.receive p 0x01 sent.bytes
  let m := sent.seen p
  let q := p.port.val
  let vc := p.vc.val
  if !ok || crcErr p 0x01 sent.bytes then s1
  else if m.hops = 0 then
    let (r, s2) := s1.regExec m
    s2.regSend q vc 0x02 r
  else
    let out := if q = 2 then 1 else 2
    if s1.portUp out then
      s1.regSend out vc 0x01 { m with hops := m.hops - 1, rhops := (m.rhops + 1) % 256, entry := if m.rhops = 0 then q else m.entry }
    else s1.regSend q vc 0x02 { m with code := 2, data := [] }

def execRegReq (p : Pkt) (tag : Word) (hops rhops entry op : Byte) (count : Half) (addr : Word) (data : List Word) (s : State) :
    Host.Outcome State Fault Refusal :=
  .next (s.regReq p {
    tag := tag.toNat, hops := hops.toNat, rhops := rhops.toNat, entry := entry.toNat, code := op.toNat, count := count.toNat
    addr := addr.toNat, data := data.map BitVec.toNat })

/-- `REG_RSP`: sent on towards ENTRY. -/
def State.regRsp (s : State) (p : Pkt) (sent : RegMsg) : State :=
  let (s1, ok) := s.receive p 0x02 sent.bytes
  let m := sent.seen p
  let q := p.port.val
  if !ok then s1
  else
    let m1 := { m with rhops := (m.rhops + 255) % 256 }
    if m1.rhops = 0 then s1.regSend m1.entry p.vc.val 0x02 m1
    else if q = 2 then s1.regSend 1 p.vc.val 0x02 m1
    else if q = 1 then s1.regSend 2 p.vc.val 0x02 m1
    else s1

def execRegRsp (p : Pkt) (tag : Word) (hops rhops entry status : Byte) (count : Half) (addr : Word) (data : List Word) (s : State) :
    Host.Outcome State Fault Refusal :=
  .next (s.regRsp p {
    tag := tag.toNat, hops := hops.toNat, rhops := rhops.toNat, entry := entry.toNat, code := status.toNat, count := count.toNat
    addr := addr.toNat, data := data.map BitVec.toNat })

end Sys2Proof.Machine
end

