-- ==== Sys2Proof/Machine/Mgmt.lean ====
section
/-! DEFINITION. The management bus (R367–R379, R403). -/
namespace Sys2Proof.Machine

/-! ## The window (Table 16-1) -/

/-- Pages whose registers the bus reaches whole: PWR, THERM, MB, LAMP, SYS. -/
def busPage (page : Nat) : Bool := page = 0x028 || page = 0x029 || page = 0x02A || page = 0x02B || page = 0x02C

/-- Does an address name a register that is readable over the bus? -/
def busReads (a : Nat) : Bool :=
  let page := a / 4096
  let off := a % 4096
  if (pageRow page).isNone then false
  else if off < 0x040 then true
  else if busPage page then (regRow a).isSome
  else if page = 0x022 then off = 0x090 || off = 0x094
  else if page = 0x027 then 0x800 ≤ off && off < 0x80C
  else if page = 0x018 then 0x104 ≤ off && off < 0x160 && off % 16 = 4
  else (0x024 ≤ page && page ≤ 0x026) && off = 0x044

/-- Does it name one that is writable: INT_MASK and INT_CLR of every page; on the whole pages what the page lets a host write, in the header of
PWR, THERM, MB and LAMP (Table 16-1, Table 18-2) as behind it, but for SYS_DRESET (R405)? -/
def busWrites (a : Nat) : Bool :=
  let off := a % 4096
  if (pageRow (a / 4096)).isNone then false
  else if off < 0x040 then off = 0x014 || off = 0x01C ||
    (busPage (a / 4096) && a / 4096 ≠ 0x02C && (off = 0x010 || (0x020 ≤ off && off < 0x034)))
  else busPage (a / 4096) && a ≠ R.SYS_DRESET_DOM.reg &&
    match regRow a with
    | none => false
    | some r => decide (r.rw ||| r.w1c ||| r.wo ≠ 0)

/-! ## Transactions (R369–R374) -/

/-- The bus window sleeps in STANDBY and in the WAIT phase of HOLD-UP (R374). -/
def State.mbSleeps (s : State) : Bool := s.power = pSTANDBY || (s.power = pHOLDUP && s.get R.PWR_STAT_HOLD_PHASE = 3)

/-- A transaction that names the module: it is counted, ends a pulse in progress, and keeps a woken window awake, where that has not been
still for 1 s (R374). -/
def State.mbStart (s : State) (t : Nat) : State :=
  let s1 := s.at t
  let s2 := s1.put R.MB_XFER_CNT_COUNT (s1.get R.MB_XFER_CNT_COUNT + 1)
  { s2 with mb := { s2.mb with pulse := none, lastEnd := s2.now, awakeUntil := match s2.mb.awakeUntil with
                                                                                  | none => none
                                                                                  | some u => if u ≤ s2.now then none else some (s2.now + secClk) } }

/-- The first transaction in a sleeping window is refused and wakes it; in STANDBY entered by the host it is the wake of Table 15-2.
How soon within 200 µs the window is served is free. -/
def State.mbWakeNow (s : State) : State :=
  let (i, s1) := s.fresh
  let m := { s1.mb with awakeUntil := some (s1.now + secClk), servedFrom := s1.now + Config.freeNat i % 40001 }
  let s2 := State.raise { s1 with mb := m } E.MB_WAKE
  if s2.power = pSTANDBY && s2.pwr.hostStandby && !s2.pwr.fromThermal then
    if s2.pwr.qualified then s2.wakeUp else { s2 with pwr := { s2.pwr with wake := true } }
  else s2

/-- Does a reset run: a warm one to its end, a cold one until the supervisor is on again (log 91)? -/
def State.resetting (s : State) : Bool :=
  s.sys.warmEnd.isSome || (s.on R.SYS_STAT_STARTING && s.get R.SYS_STAT_LAST_RESET = 1 && !s.dom dSUPV)

/-- Is the module's own address not acknowledged (R373)? -/
def State.mbBusy (s : State) : Bool := s.now < s.mb.busyUntil || s.resetting || s.now < s.mb.servedFrom

/-- The address byte: whether the transaction goes on. -/
def State.mbAddress (s : State) (t : Nat) : State × Bool :=
  if s.pwr.off then (s, false)
  else
    let s1 := s.mbStart t
    if s1.mbSleeps && s1.mb.awakeUntil.isNone then (s1.mbWakeNow, false)
    else if s1.mbBusy then (s1.raise E.MB_BUSY_NACK, false)
    else (s1, true)

/-- The third register-address byte (R371). -/
def State.mbTest (s : State) (a : Nat) : State × Bool :=
  if a % 4 ≠ 0 || !busReads a then (s.raise E.MB_WINDOW, false)
  else if !(if a % 4096 < 0x040 then s.hdrOn (a / 4096) else s.served (a / 4096)) then (s.raise E.MB_OFFLINE, false)
  else (s, true)

/-- Data bytes of a write: four to a word; a word that is not writable is not acknowledged and ends the transaction; a part of a word is
discarded. How long the last word's access takes, up to 2 µs, is free. -/
def State.mbWords : State → Nat → List Nat → State
  | s, _, [] => s
  | s, a, b0 :: b1 :: b2 :: b3 :: bs =>
    if busWrites a then
      let (i, s1) := (s.regWrite a (leNat [b0, b1, b2, b3])).fresh
      State.mbWords { s1 with mb := { s1.mb with busyUntil := s1.now + Config.freeNat i % 401 } } (a + 4) bs
    else s.raise E.MB_WINDOW
  | s, a, _ :: _ => s.raise (if busWrites a then E.MB_PARTIAL else E.MB_WINDOW)

/-- `MB_WRITE`. -/
def State.mbWrite (s : State) (a : Nat) (bs : List Nat) (t : Nat) : State :=
  let (s1, go) := s.mbAddress t
  if !go then s1
  else
    let (s2, ok) := s1.mbTest a
    if ok then s2.mbWords a bs else s2

def execMbWrite (addr : Word) (data : List Byte) (t : Nat) (s : State) : Host.Outcome State Fault Refusal :=
  .next (s.mbWrite (addr.toNat % 2 ^ 24) (data.map BitVec.toNat) t)

/-- The words of a read: one that is not readable gives 0 bytes and WINDOW. -/
def State.mbReadWords : Nat → State → Nat → List Nat × State
  | 0, s, _ => ([], s)
  | n + 1, s, a =>
    let (v, s1) := if busReads a then s.regRead a else (0, s.raise E.MB_WINDOW)
    let (vs, s2) := State.mbReadWords n s1 (a + 4)
    (leBytes 4 v ++ vs, s2)

/-- `MB_READ` of n bytes; a word begun counts as read. -/
def State.mbRead (s : State) (a n t : Nat) : State :=
  let (s1, go) := s.mbAddress t
  if !go then s1
  else
    let (s2, ok) := s1.mbTest a
    if !ok then s2
    else
      let (vs, s3) := s2.mbReadWords (ceilDiv n 4) a
      { s3 with rdata := vs.take n }

def execMbRead (addr : Word) (n : Nat) (t : Nat) (s : State) : Host.Outcome State Fault Refusal :=
  .next (s.mbRead (addr.toNat % 2 ^ 24) n t)

/-- `MB_WAKE`: a transaction that names the module while the window sleeps. -/
def State.mbWake (s : State) (t : Nat) : State :=
  if s.pwr.off || !s.mbSleeps || s.mb.awakeUntil.isSome then s else (s.mbStart t).mbWakeNow

def execMbWake (t : Nat) (s : State) : Host.Outcome State Fault Refusal := .next (s.mbWake t)

/-- `MB_WINDOW_SLEEP`: 1 s after the end of the last transaction that named the module. -/
def State.mbSleep (s : State) (t : Nat) : State :=
  match s.mb.awakeUntil with
  | none => s
  | some u => let s1 := (s.at t).at u; { s1 with mb := { s1.mb with awakeUntil := none } }

def execMbWindowSleep (t : Nat) (s : State) : Host.Outcome State Fault Refusal := .next (s.mbSleep t)

/-! ## Errors on the bus (R376, R377) -/

/-- `MB_FRAMING`: the byte and the word in progress are discarded; words written stay. -/
def execMbFraming (s : State) : Host.Outcome State Fault Refusal := .next (if s.pwr.off then s else s.raise E.MB_FRAMING)

/-- `MB_STUCK`: 25 ms with SCL high: SDA is released. -/
def execMbStuck (s : State) : Host.Outcome State Fault Refusal :=
  .next (if s.pwr.off then s else (s.at (s.now + 25 * msClk)).raise E.MB_STUCK)

/-! ## Attention (R375, R403) -/

/-- `ATTN_PULSE`: at a new request and at each repeat SDA is pulled low for 5 µs, on a bus that has been idle for 20 µs. -/
def State.attnPulse (s : State) (t : Nat) : State :=
  let s1 := s.at t
  let due := !s1.mb.attnServed || (match s1.mb.nextRepeat with | none => false | some u => decide (u ≤ s1.now))
  if s1.pwr.off || !s1.on R.MB_CTRL_ATTN_PULSE || !s1.attn || !due || s1.now < s1.mb.lastEnd + 20 * usClk then s1
  else
    let rep := s1.get R.MB_CTRL_REPEAT
    { s1 with mb := { s1.mb with attnServed := true, pulse := some (s1.now + 5 * usClk)
                                 nextRepeat := if rep = 0 then none else some (s1.now + rep * secClk) } }

def execAttnPulse (t : Nat) (s : State) : Host.Outcome State Fault Refusal := .next (s.attnPulse t)

end Sys2Proof.Machine
end

