-- ==== Sys2Proof/Machine/Flags.lean ====
section
/-! DEFINITION. Arithmetic of the Thatch slots: saturation, rounding shifts, comparisons (R163, R164). -/
namespace Sys2Proof.Machine

/-- sat16 and sat32. -/
def sat16 (x : Int) : Half := BitVec.ofInt 16 (clampI (-32768) 32767 x)
def sat32 (x : Int) : Word := BitVec.ofInt 32 (clampI (-2147483648) 2147483647 x)

/-- rsh(x, K): an arithmetic shift with rounding, x itself for K = 0. -/
def rsh (x : Int) (k : Nat) : Int := if k = 0 then x else (x + 2 ^ (k - 1)) / 2 ^ k

/-! Scalar results. -/

def sltW (a b : Word) : Bool := BitVec.slt a b
def minW (a b : Word) : Word := if sltW b a then b else a
def maxW (a b : Word) : Word := if sltW a b then b else a
def shlW (a b : Word) : Word := a <<< (b.toNat % 32)
def shrW (a b : Word) : Word := a >>> (b.toNat % 32)
def sraW (a b : Word) : Word := a.sshiftRight (b.toNat % 32)

/-! Lane results. -/

def addsH (a b : Half) : Half := sat16 (a.toInt + b.toInt)
def subsH (a b : Half) : Half := sat16 (a.toInt - b.toInt)
def subusH (a b : Half) : Half := BitVec.ofNat 16 (a.toNat - b.toNat)
def absdH (a b : Half) : Half := if a.toNat < b.toNat then b - a else a - b
def minH (a b : Half) : Half := if BitVec.slt b a then b else a
def maxH (a b : Half) : Half := if BitVec.slt a b then b else a
def shlH (a : Half) (k : Nat) : Half := if 16 ≤ k then 0 else a <<< k
def shrH (a : Half) (k : Nat) : Half := if 16 ≤ k then 0 else a >>> k
def sraH (a : Half) (k : Nat) : Half := a.sshiftRight (min 15 k)
def mulqH (a b : Half) (k : Nat) : Half := sat16 (rsh (a.toInt * b.toInt) (min 31 k))
def lerpH (a b : Half) (f : Nat) : Half := BitVec.ofInt 16 (rsh (a.toInt * (256 - (f : Int)) + b.toInt * f) 8)
def macW (d : Word) (a b : Half) : Word := sat32 (d.toInt + a.toInt * b.toInt)
def accW (d : Word) (a : Half) (k : Nat) : Word := sat32 (d.toInt + a.toInt * 2 ^ (min 15 k))
def acxH (a : Word) (k : Nat) : Half := sat16 (rsh a.toInt (min 31 k))

end Sys2Proof.Machine
end

