-- ==== Sys2Proof/Machine/Operands.lean ====
section
/-! DEFINITION. Operand forms of the Thatch slots: fields of a word, register reads and writes, predicates and broadcast, tray and
loft addresses with their faults (R156, R158–R162, R165). -/
namespace Sys2Proof.Machine

/-! ## Fields (Tables 7-2, 7-3) -/

def fOP (w : Nat) : Nat := w % 64
def fD (w : Nat) : Nat := bits w 6 5
def fA (w : Nat) : Nat := bits w 11 5
def fB (w : Nat) : Nat := bits w 16 5
def fIMM (w : Nat) : Nat := bits w 16 16
def fTGT (w : Nat) : Nat := bits w 16 12
def fVP (w : Nat) : Nat := bits w 21 3
def fVPN (w : Nat) : Bool := bit w 24
def fBS (w : Nat) : Bool := bit w 25
def fK (w : Nat) : Nat := bits w 26 6

/-- The scalar slot of each format from its fields. -/
def slotSR (op : Nat) (d a b : BitVec 5) (rsv : BitVec 11) : Nat :=
  op + d.toNat * 2 ^ 6 + a.toNat * 2 ^ 11 + b.toNat * 2 ^ 16 + rsv.toNat * 2 ^ 21
def slotSI (op : Nat) (d a : BitVec 5) (imm : BitVec 16) : Nat := op + d.toNat * 2 ^ 6 + a.toNat * 2 ^ 11 + imm.toNat * 2 ^ 16
def slotSB (op : Nat) (d a : BitVec 5) (tgt : BitVec 12) (rsv : BitVec 4) : Nat :=
  op + d.toNat * 2 ^ 6 + a.toNat * 2 ^ 11 + tgt.toNat * 2 ^ 16 + rsv.toNat * 2 ^ 28
/-- The vector slot from its fields. -/
def slotV (vop : Nat) (vd va vb : BitVec 5) (vp : BitVec 3) (vpn bs : Bool) (k : BitVec 6) : Nat :=
  vop + vd.toNat * 2 ^ 6 + va.toNat * 2 ^ 11 + vb.toNat * 2 ^ 16 + vp.toNat * 2 ^ 21 + boolNat vpn * 2 ^ 24 + boolNat bs * 2 ^ 25 +
    k.toNat * 2 ^ 26

/-- imm as a signed and as an unsigned 32-bit value. -/
def sextImm (w : Nat) : Word := (BitVec.ofNat 16 (fIMM w)).signExtend 32
def zextImm (w : Nat) : Word := BitVec.ofNat 32 (fIMM w)

/-! ## Registers (R156) -/

def lanes : Nat := 144
def zeroV : List Half := List.replicate lanes 0
def zeroA : List Word := List.replicate lanes 0
def zeroP : List Bool := List.replicate lanes false
def onesP : List Bool := List.replicate lanes true

def Engine.s (e : Engine) (i : Nat) : Word := if i = 0 then 0 else mapGet 0 e.sreg i
def Engine.v (e : Engine) (i : Nat) : List Half := mapGet zeroV e.vreg i
def Engine.acc (e : Engine) (i : Nat) : List Word := mapGet zeroA e.areg i
def Engine.p (e : Engine) (i : Nat) : List Bool := if i = 0 then onesP else mapGet zeroP e.preg i

def Engine.setS (e : Engine) (i : Nat) (w : Word) : Engine := if i = 0 then e else { e with sreg := mapSet 0 e.sreg i w }
def Engine.setV (e : Engine) (i : Nat) (v : List Half) : Engine := { e with vreg := mapSet zeroV e.vreg i v }
def Engine.setAcc (e : Engine) (i : Nat) (v : List Word) : Engine := { e with areg := mapSet zeroA e.areg i v }
def Engine.setP (e : Engine) (i : Nat) (v : List Bool) : Engine := if i = 0 then e else { e with preg := mapSet zeroP e.preg i v }

/-- Where a result goes. -/
inductive Dest where
  | none
  | s (i : Nat) (w : Word)
  | v (i : Nat) (x : List Half)
  | a (i : Nat) (x : List Word)
  | p (i : Nat) (x : List Bool)
  deriving DecidableEq, Repr

def Engine.write (e : Engine) : Dest → Engine
  | .none => e
  | .s i w => e.setS i w
  | .v i x => e.setV i x
  | .a i x => e.setAcc i x
  | .p i x => e.setP i x

/-- A register's key in the table of availability (R171): scalar, vector, accumulator, predicate. -/
def keyS (i : Nat) : Nat := i
def keyV (i : Nat) : Nat := 32 + i
def keyA (i : Nat) : Nat := 64 + i
def keyP (i : Nat) : Nat := 68 + i

def Dest.key : Dest → Option Nat
  | .none => Option.none
  | .s i _ => some (keyS i)
  | .v i _ => some (keyV i)
  | .a i _ => some (keyA i)
  | .p i _ => some (keyP i)

/-! ## Vector operands (R160, R161) -/

/-- The execution predicate: p[VP], or its inverse with VPN. -/
def Engine.enabled (e : Engine) (w : Nat) (l : Nat) : Bool := (e.p (fVP w)).getD l false != fVPN w

def Engine.srcA (e : Engine) (w l : Nat) : Half := (e.v (fA w)).getD l 0
def Engine.srcB (e : Engine) (w l : Nat) : Half := if fBS w then (e.s (fB w)).setWidth 16 else (e.v (fB w)).getD l 0

/-- A new value in the enabled lanes over the old one. -/
def merge {α : Type} (en : Nat → Bool) (old : List α) (d : α) (f : Nat → α) : List α :=
  (List.range lanes).map (fun l => if en l then f l else old.getD l d)

/-- Read keys: VA, the B operand, the predicate. -/
def rdA (w : Nat) : List Nat := [keyV (fA w)]
def rdB (w : Nat) : List Nat := [if fBS w then keyS (fB w) else keyV (fB w)]
def rdP (w : Nat) : List Nat := if fVP w = 0 then [] else [keyP (fVP w)]

/-! ## Faults (Table 6-3) -/

def fcTRAY_RANGE : Nat := 1
def fcTRAY_WRITE : Nat := 2
def fcFETCH : Nat := 3
def fcLOFT_RANGE : Nat := 4
def fcLOFT_RO : Nat := 5
def fcILLEGAL : Nat := 6
def fcALIGN : Nat := 7
def fcPROOF_RANGE : Nat := 8

/-- The fault of one byte of a tray access (R165). -/
def trayByteFault (write : Bool) (a : Nat) : Option Nat :=
  if a < 0x10000 then some (if write then fcTRAY_WRITE else fcTRAY_RANGE)
  else if a < 0x14000 then (if write then some fcTRAY_WRITE else none)
  else if a < 0x3F000 then none
  else if a < 0x3F040 then (if write then some fcTRAY_WRITE else none)
  else if a < 0x3F800 then some fcTRAY_RANGE
  else if a < 0x40000 then none
  else some fcTRAY_RANGE

/-- The fault of a tray access of n bytes: alignment, else the code of the lowest-addressed faulting byte; with the access's address. -/
def trayFault (write : Bool) (align n a : Nat) : Option (Nat × Nat) :=
  if a % align ≠ 0 then some (fcALIGN, a)
  else ((List.range n).findSome? (fun i => trayByteFault write (a + i))).map (fun c => (c, a))

/-- The loft window of an address in a bank as a Shingle sees it: its first loft byte, its size in bytes, its mode (0 off, 1 read-only,
2 read-write) (R133). -/
def State.loftWindow (s : State) (x sh k : Nat) : Nat × Nat × Nat :=
  let size := s.get (R.ENGG_x_LWINk_W1_SIZE x k)
  let base := s.get (R.ENGG_x_LWINk_W0_BASE x k) + (if s.on (R.ENGG_x_LWINk_W1_PRIV x k) then sh * size else 0)
  let mode := s.get (R.ENGG_x_LWINk_W0_MODE x k)
  (64 * base, 64 * size, if s.job.lwinBad.contains (4 * x + k) then 0 else mode % 3)

/-- The fault of a loft access of n bytes at a 32-bit loft address. -/
def State.loftFault (s : State) (x sh : Nat) (write : Bool) (align n a : Nat) : Option (Nat × Nat) :=
  let (_, size, mode) := s.loftWindow x sh (bits a 30 2)
  let off := bits a 0 30
  if off % align ≠ 0 then some (fcALIGN, a)
  else if mode = 0 || size < off + n then some (fcLOFT_RANGE, a)
  else if write && mode = 1 then some (fcLOFT_RO, a)
  else none

/-- The module address of a loft address. -/
def State.loftAddr (s : State) (x sh a : Nat) : Nat := loftBase + (s.loftWindow x sh (bits a 30 2)).1 + bits a 0 30

end Sys2Proof.Machine
end

