-- ==== Sys2Proof/Machine/Thatch.lean ====
section
/-! DEFINITION. The Thatch instruction set: what each slot of a word does, and the issue of a word (R156–R172). A command names the
Shingle and the word: it issues where the Shingle's engine runs and the word at its PC is that word. -/
namespace Sys2Proof.Machine

/-! ## Which words are encodings (R158, R161, R163, R164) -/

/-- The scalar slot breaks the encoding: an undefined OP, or a reserved field that is not 0. -/
def scalarIllegal (w : Nat) : Bool :=
  let op := fOP w
  if op = 0x00 || op = 0x28 then w ≠ op
  else if op ≤ 0x0B then bits w 21 11 ≠ 0
  else if op < 0x10 then true
  else if op ≤ 0x12 then false
  else if op ≤ 0x15 then bits w 21 11 ≠ 0
  else if op = 0x16 then fA w ≠ 0
  else if op = 0x17 then true
  else if op ≤ 0x1F then false
  else if op ≤ 0x23 then bits w 28 4 ≠ 0
  else if op = 0x24 then bits w 28 4 ≠ 0 || fA w ≠ 0
  else if op = 0x25 then fD w ≠ 0 || fIMM w ≠ 0
  else if op = 0x26 then fA w ≠ 0
  else if op = 0x27 then fD w ≠ 0
  else true

/-- The vector slot breaks the encoding: an undefined VOP, an accumulator above 3, a predicate above 7, BS = 1 where VB is a scalar
register in every case, K[5:4] of VIN, VPRF, VDEV. -/
def vectorIllegal (w : Nat) : Bool :=
  let op := fOP w
  if op = 0 then w ≠ 0
  else if op = 0x0F || op = 0x23 || (0x29 ≤ op && op ≤ 0x2B) || 0x2E < op then true
  else if 0x14 ≤ op && op ≤ 0x16 then 7 < fD w
  else if 0x17 ≤ op && op ≤ 0x19 then 7 < fD w || 7 < fA w || 7 < fB w
  else if op = 0x1A || op = 0x1B then 7 < fA w
  else if 0x1C ≤ op && op ≤ 0x1E then 3 < fD w
  else if op = 0x1F then 3 < fA w
  else if op = 0x22 || (0x24 ≤ op && op ≤ 0x28) then fBS w
  else if 0x2C ≤ op then bits (fK w) 4 2 ≠ 0
  else false

/-! ## What a slot reads (R171) -/

def sReads (w : Nat) : List Nat :=
  let op := fOP w
  if op = 0x00 || op = 0x16 || op = 0x24 || op = 0x26 || op = 0x28 then []
  else if op ≤ 0x0B then [keyS (fA w), keyS (fB w)]
  else if (0x1B ≤ op && op ≤ 0x1D) || op = 0x1F || (0x20 ≤ op && op ≤ 0x23) then [keyS (fA w), keyS (fD w)]
  else [keyS (fA w)]

/-- The old value of a destination that is merged or accumulated is no operand that a word waits for. -/
def vReads (w : Nat) : List Nat :=
  let op := fOP w
  if op = 0 then []
  else if op ≤ 0x0A || op = 0x0E || op = 0x10 || (0x14 ≤ op && op ≤ 0x16) || op = 0x1C then rdA w ++ rdB w ++ rdP w
  else if op = 0x11 || op = 0x1E || op = 0x2C || op = 0x2D then rdP w
  else if op = 0x12 || op = 0x13 then rdA w ++ (if fBS w then [keyS (fB w)] else []) ++ rdP w
  else if 0x17 ≤ op && op ≤ 0x19 then [keyP (fA w), keyP (fB w)] ++ rdP w
  else if op = 0x1A || op = 0x1B then keyP (fA w) :: rdP w
  else if op = 0x1F then keyA (fA w) :: rdP w
  else if op = 0x22 then rdA w ++ [keyS (fB w)]
  else if op = 0x24 || op = 0x26 || op = 0x27 then keyS (fB w) :: rdP w
  else if op = 0x25 || op = 0x28 then rdA w ++ [keyS (fB w)] ++ rdP w
  else rdA w ++ rdP w

/-- The cycle in which the next word issues: not before every register it reads is available. -/
def issueCycle (r : Run) (keys : List Nat) : Nat := keys.foldl (fun c k => max c (mapGet 0 r.avail k)) r.cyc

/-- The loft accesses of a word (VLDL, VSTL; LLW, LSW), and whether it uses the tray's scalar port, its vector port. -/
def loftCount (lo hi : Nat) : Nat :=
  boolNat (fOP lo = 0x1E || fOP lo = 0x1F) + boolNat (fOP hi = 0x27 || fOP hi = 0x28)
def usesScalarPort (lo : Nat) : Bool := (0x18 ≤ fOP lo && fOP lo ≤ 0x1D) || fOP lo = 0x27
def usesVectorPort (hi : Nat) : Bool := 0x24 ≤ fOP hi && fOP hi ≤ 0x26

/-- The stalls of R171 that the run itself decides: operands; at most 8 loft accesses outstanding; END waits until the loft has accepted the
run's writes (R165, R168). -/
def Run.issueFrom (r : Run) (lo hi : Nat) : Nat :=
  let c := issueCycle r (sReads lo ++ vReads hi)
  let n := r.loft.length + loftCount lo hi
  let c1 := if loftCount lo hi = 0 || n < 9 then c else max c (r.loft.getD (n - 9) 0)
  if fOP lo = 0x28 then max c1 r.wrote else c1

/-- The cycle in which the next word issues. Once the host has accessed the tray during the run, a word whose access follows 32 cycles in
a row of accesses on its port may give its cycle to a host access and wait one cycle: whether a host access has waited so long is a
free value (R131, R171; log 66). -/
def State.issueAt (s : State) (r : Run) (lo hi : Nat) : Nat × State :=
  let c := r.issueFrom lo hi
  if r.host && c = r.cyc && ((usesScalarPort lo && 32 ≤ r.scalarPort) || (usesVectorPort hi && 32 ≤ r.vectorPort)) then
    let (i, s1) := s.fresh
    (c + Config.freeNat i % 2, s1)
  else (c, s)

/-! ## What a slot does -/

/-- The effect of one slot: a fault (code, address) and nothing else, or a register result with its latency and whether part of the old
value stays in it, bytes stored by module address, a loft access started (true: a read), a jump, an emit block, lanes of a development
band, the end. -/
structure SlotOut where
  fault : Option (Nat × Nat) := none
  dest : Dest := .none
  lat : Nat := 1
  part : Bool := false
  stores : List (Nat × Nat) := []
  loft : Option Bool := none
  jump : Option Nat := none
  emit : Option (List Nat) := none
  dev : Option (Nat × List (Nat × Half)) := none
  ends : Bool := false
  deriving DecidableEq, Repr

def outS (i : Nat) (w : Word) (lat : Nat) : SlotOut := { dest := .s i w, lat := lat }
def outFault (f : Nat × Nat) : SlotOut := { fault := some f }

/-- Bytes at rising addresses. -/
def spread (a : Nat) (bs : List Nat) : List (Nat × Nat) := bs.zipIdx.map (fun (p : Nat × Nat) => (a + p.2, p.1))

/-- The address of a scalar access: a + sext(imm), 32 bits. -/
def Engine.addr (e : Engine) (w : Nat) : Nat := (e.s (fA w) + sextImm w).toNat

/-- A tray load of n bytes, zero-extended. -/
def State.trayLoad (s : State) (sh : Nat) (e : Engine) (w n : Nat) : SlotOut :=
  match trayFault false n n (e.addr w) with
  | some f => outFault f
  | none => outS (fD w) (BitVec.ofNat 32 (leNat (s.bytes (trayBase sh + e.addr w) n))) 2

/-- A tray store of the low n bytes of s_D. -/
def trayStore (sh : Nat) (e : Engine) (w n : Nat) : SlotOut :=
  match trayFault true n n (e.addr w) with
  | some f => outFault f
  | none => { stores := spread (trayBase sh + e.addr w) (leBytes n (e.s (fD w)).toNat) }

def State.loftLoad (s : State) (sh : Nat) (e : Engine) (r : Run) (w : Nat) : SlotOut :=
  match s.loftFault r.bank sh false 4 4 (e.addr w) with
  | some f => outFault f
  | none => { dest := .s (fD w) (BitVec.ofNat 32 (leNat (s.bytes (s.loftAddr r.bank sh (e.addr w)) 4))), lat := 6, loft := some true }

def State.loftStore (s : State) (sh : Nat) (e : Engine) (r : Run) (w : Nat) : SlotOut :=
  match s.loftFault r.bank sh true 4 4 (e.addr w) with
  | some f => outFault f
  | none => { stores := spread (s.loftAddr r.bank sh (e.addr w)) (leBytes 4 (e.s (fD w)).toNat), loft := some false }

def branchIf (c : Bool) (w : Nat) : SlotOut := if c then { jump := some (fTGT w) } else {}

/-- OUTSTAT of Table 7-7. -/
def Run.outStat (r : Run) : Nat :=
  boolNat r.claimed + boolNat r.claimFail * 2 + min 32 r.out.emits.length * 2 ^ 8 + boolNat r.out.trunc * 2 ^ 14

/-- GETS in cycle c (Table 7-7). -/
def getsValue (r : Run) (sel c : Nat) : Word :=
  if sel = 0 then BitVec.ofNat 32 (16 + c)
  else if sel = 1 then BitVec.ofInt 32 (r.budget - (16 + c : Nat))
  else if sel = 2 then BitVec.ofNat 32 r.outStat
  else if sel = 3 then BitVec.ofNat 32 (min 8 (r.loft.filter (c < ·)).length)
  else 0

/-- The scalar slot of a word issued in cycle c (Table 7-5). -/
def State.scalarOut (s : State) (sh : Nat) (e : Engine) (r : Run) (w c : Nat) : SlotOut :=
  if scalarIllegal w then outFault (fcILLEGAL, 0)
  else
    let d := fD w
    let a := e.s (fA w)
    let b := e.s (fB w)
    let k := BitVec.ofNat 32 (fIMM w)
    match fOP w with
    | 0x01 => outS d (a + b) 1
    | 0x02 => outS d (a - b) 1
    | 0x03 => outS d (a &&& b) 1
    | 0x04 => outS d (a ||| b) 1
    | 0x05 => outS d (a ^^^ b) 1
    | 0x06 => outS d (shlW a b) 1
    | 0x07 => outS d (shrW a b) 1
    | 0x08 => outS d (sraW a b) 1
    | 0x09 => outS d (a * b) 3
    | 0x0A => outS d (minW a b) 1
    | 0x0B => outS d (maxW a b) 1
    | 0x10 => outS d (a + sextImm w) 1
    | 0x11 => outS d (a &&& zextImm w) 1
    | 0x12 => outS d (a ||| zextImm w) 1
    | 0x13 => outS d (shlW a k) 1
    | 0x14 => outS d (shrW a k) 1
    | 0x15 => outS d (sraW a k) 1
    | 0x16 => outS d (zextImm w <<< 16) 1
    | 0x18 => s.trayLoad sh e w 4
    | 0x19 => s.trayLoad sh e w 2
    | 0x1A => s.trayLoad sh e w 1
    | 0x1B => trayStore sh e w 4
    | 0x1C => trayStore sh e w 2
    | 0x1D => trayStore sh e w 1
    | 0x1E => s.loftLoad sh e r w
    | 0x1F => s.loftStore sh e r w
    | 0x20 => branchIf (e.s d == a) w
    | 0x21 => branchIf (e.s d != a) w
    | 0x22 => branchIf (sltW (e.s d) a) w
    | 0x23 => branchIf (!sltW (e.s d) a) w
    | 0x24 => { dest := .s d (BitVec.ofNat 32 (r.pc + 1)), jump := some (fTGT w) }
    | 0x25 => if 4096 ≤ a.toNat then outFault (fcFETCH, 0) else { jump := some a.toNat }
    | 0x26 => outS d (getsValue r (fIMM w) c) 1
    | 0x27 =>
      match trayFault false 64 64 (e.addr w) with
      | some f => outFault f
      | none => { emit := some (s.bytes (trayBase sh + e.addr w) 64) }
    | 0x28 => { ends := true }
    | _ => {}

/-! ## The vector slot -/

/-- Some lane is not enabled, and keeps its old value. -/
def Engine.masked (e : Engine) (w : Nat) : Bool := !(List.range lanes).all (e.enabled w)

/-- A v result in the enabled lanes. -/
def Engine.outV (e : Engine) (w lat : Nat) (f : Nat → Half) : SlotOut :=
  { dest := .v (fD w) (merge (e.enabled w) (e.v (fD w)) 0 f), lat := lat, part := e.masked w }
/-- An accumulator result: the old value goes into it. -/
def Engine.outA (e : Engine) (w lat : Nat) (f : Nat → Word → Word) : SlotOut :=
  let old := e.acc (fD w)
  { dest := .a (fD w) (merge (e.enabled w) old 0 (fun l => f l (old.getD l 0))), lat := lat, part := true }
def Engine.outP (e : Engine) (w : Nat) (f : Nat → Bool) : SlotOut :=
  { dest := .p (fD w) (merge (e.enabled w) (e.p (fD w)) false f), lat := 1, part := e.masked w }
def Engine.laneP (e : Engine) (i l : Nat) : Bool := (e.p i).getD l false

def Engine.enabledLanes (e : Engine) (w : Nat) : List Nat := (List.range lanes).filter (e.enabled w)

/-- The lane shift of VLSH: s_VB clamped to ±143, or K as a signed 6-bit value. -/
def Engine.laneShift (e : Engine) (w : Nat) : Int := if fBS w then clampI (-143) 143 (e.s (fB w)).toInt else toSigned 6 (fK w)

/-- The fraction of VLERP. -/
def Engine.lerpF (e : Engine) (w : Nat) : Nat := if fBS w then (e.s (fB w)).toNat % 256 else 4 * fK w

/-- The address of a vector access of n bytes per unit of K. -/
def Engine.vaddr (e : Engine) (w n : Nat) : Nat := (e.s (fB w) + BitVec.ofNat 32 (n * fK w)).toNat

/-- Lanes of 16 bits from 288 bytes. -/
def halfAt (bs : List Nat) (l : Nat) : Half := BitVec.ofNat 16 (bs.getD (2 * l) 0 + 256 * bs.getD (2 * l + 1) 0)

/-- The bytes of the enabled lanes of a store. -/
def Engine.laneBytes (e : Engine) (w base : Nat) : List (Nat × Nat) :=
  (e.enabledLanes w).flatMap (fun l => spread (base + 2 * l) (leBytes 2 (e.srcA w l).toNat))

/-- VIN: the stacked sample of a slot and band, 512 where the slot is absent or the band is not selected (R166). -/
def Run.sample (r : Run) (sh slot band l : Nat) : Half :=
  match r.line.bands.find? (fun x => x.slot = slot && x.band = band) with
  | none => 512
  | some x => BitVec.ofNat 16 (stackedWord x.rows (lanePos sh l))

/-- VPRF: the proof byte of a window line and band, 0 where the line is absent (R166). -/
def Run.proofByte (r : Run) (line band l : Nat) : Half :=
  match r.window[line]? with
  | none => 0
  | some p => if p.absent then 0 else BitVec.ofNat 16 (p.data.getD (4 * l + band) 0)

/-- The largest of the enabled lanes, −32,768 for none. -/
def Engine.vmax (e : Engine) (w : Nat) : Int := (e.enabledLanes w).foldl (fun m l => max m (e.srcA w l).toInt) (-32768)

def Engine.vsum (e : Engine) (w : Nat) : Int := (e.enabledLanes w).foldl (fun n l => n + (e.srcA w l).toInt) 0

/-- Lanes with pa = 1 among the enabled ones. -/
def Engine.pLanes (e : Engine) (w : Nat) : List Nat := (e.enabledLanes w).filter (e.laneP (fA w))

def Engine.vext (e : Engine) (w : Nat) : Word :=
  let i := (e.s (fB w)).toNat
  if 144 ≤ i then 0 else ((e.v (fA w)).getD i 0).signExtend 32

/-- The vector slot of a word, memory read after the scalar slot's store (Table 7-6). -/
def State.vectorOut (s : State) (sh : Nat) (e : Engine) (r : Run) (w : Nat) : SlotOut :=
  if vectorIllegal w then outFault (fcILLEGAL, 0)
  else
    let a := e.srcA w
    let b := e.srcB w
    let k := fK w
    let band := k % 4
    let which := bits k 2 2
    match fOP w with
    | 0x01 => e.outV w 1 (fun l => a l + b l)
    | 0x02 => e.outV w 1 (fun l => a l - b l)
    | 0x03 => e.outV w 1 (fun l => addsH (a l) (b l))
    | 0x04 => e.outV w 1 (fun l => subsH (a l) (b l))
    | 0x05 => e.outV w 1 (fun l => subusH (a l) (b l))
    | 0x06 => e.outV w 1 (fun l => absdH (a l) (b l))
    | 0x07 => e.outV w 1 (fun l => minH (a l) (b l))
    | 0x08 => e.outV w 1 (fun l => maxH (a l) (b l))
    | 0x09 => e.outV w 1 (fun l => a l &&& b l)
    | 0x0A => e.outV w 1 (fun l => a l ||| b l)
    | 0x0B => e.outV w 1 (fun l => shlH (a l) k)
    | 0x0C => e.outV w 1 (fun l => shrH (a l) k)
    | 0x0D => e.outV w 1 (fun l => sraH (a l) k)
    | 0x0E => e.outV w 3 (fun l => mulqH (a l) (b l) k)
    | 0x10 => { dest := .v (fD w) ((List.range lanes).map (fun l => if e.enabled w l then a l else b l)), lat := 1 }
    | 0x11 => e.outV w 1 (fun l => BitVec.ofNat 16 l)
    | 0x12 => e.outV w 1 (fun l => a (clampI 0 143 ((l : Int) - e.laneShift w)).toNat)
    | 0x13 => e.outV w 3 (fun l => lerpH (a l) (a (min (l + 1) 143)) (e.lerpF w))
    | 0x14 => e.outP w (fun l => a l == b l)
    | 0x15 => e.outP w (fun l => BitVec.slt (a l) (b l))
    | 0x16 => e.outP w (fun l => BitVec.slt (b l) (a l))
    | 0x17 => e.outP w (fun l => e.laneP (fA w) l && e.laneP (fB w) l)
    | 0x18 => e.outP w (fun l => e.laneP (fA w) l || e.laneP (fB w) l)
    | 0x19 => e.outP w (fun l => e.laneP (fA w) l && !e.laneP (fB w) l)
    | 0x1A => outS (fD w) (BitVec.ofNat 32 (e.pLanes w).length) 3
    | 0x1B => outS (fD w) (BitVec.ofNat 32 ((e.pLanes w).headD 144)) 3
    | 0x1C => e.outA w 3 (fun l old => macW old (a l) (b l))
    | 0x1D => e.outA w 1 (fun l old => accW old (a l) k)
    | 0x1E => { e.outA w 1 (fun _ _ => 0) with part := e.masked w }
    | 0x1F => e.outV w 2 (fun l => acxH ((e.acc (fA w)).getD l 0) k)
    | 0x20 => outS (fD w) (sat32 (e.vsum w)) 3
    | 0x21 => outS (fD w) (BitVec.ofInt 32 (e.vmax w)) 3
    | 0x22 => outS (fD w) (e.vext w) 3
    | 0x24 =>
      match trayFault false 16 288 (e.vaddr w 288) with
      | some f => outFault f
      | none =>
        let bs := s.bytes (trayBase sh + e.vaddr w 288) 288
        e.outV w 3 (halfAt bs)
    | 0x25 =>
      match trayFault true 16 288 (e.vaddr w 288) with
      | some f => outFault f
      | none => { stores := e.laneBytes w (trayBase sh + e.vaddr w 288) }
    | 0x26 =>
      match trayFault false 16 144 (e.vaddr w 144) with
      | some f => outFault f
      | none =>
        let bs := s.bytes (trayBase sh + e.vaddr w 144) 144
        e.outV w 3 (fun l => BitVec.ofNat 16 (bs.getD l 0))
    | 0x27 =>
      match s.loftFault r.bank sh false 16 288 (e.vaddr w 288) with
      | some f => outFault f
      | none =>
        let bs := s.bytes (s.loftAddr r.bank sh (e.vaddr w 288)) 288
        { e.outV w 10 (halfAt bs) with loft := some true }
    | 0x28 =>
      match s.loftFault r.bank sh true 16 288 (e.vaddr w 288) with
      | some f => outFault f
      | none => { stores := e.laneBytes w (s.loftAddr r.bank sh (e.vaddr w 288)), loft := some false }
    | 0x2C => e.outV w 3 (r.sample sh which band)
    | 0x2D => if which = 3 then outFault (fcPROOF_RANGE, 0) else e.outV w 3 (r.proofByte which band)
    | 0x2E => { dev := some (band, ((e.enabledLanes w).filter (fun l => 8 ≤ l && l < 136)).map (fun l => (l - 8, a l))) }
    | _ => {}

/-! ## Output (R139, R167, R186) -/

/-- An EMIT: the first output claims; the 33rd and later are discarded; CLASS 0xFF is a registration report. -/
def State.doEmit (s : State) (sh : Nat) (r : Run) (b : List Nat) : State × Run :=
  if r.init then (s, r)
  else
    let (s1, r1) := s.claim sh r
    if r1.claimFail then (s1, r1)
    else if r1.out.emits.length < 32 then
      (s1, { r1 with out := { r1.out with emits := r1.out.emits ++ [b] }, report := if b.getD 0x17 0 = 0xFF then some b else r1.report })
    else
      let s2 := s1.bump (R.SH_RDROP_CNT_COUNT sh)
      (if r1.recDropped then s2 else s2.raise (E.SH_REC_DROP sh), { r1 with recDropped := true, out := { r1.out with trunc := true } })

/-- Replace listed elements of a list. -/
def setAll (xs : List Nat) (ys : List (Nat × Half)) : List Nat := ys.foldl (fun v (i, h) => v.set i h.toNat) xs

/-- A VDEV writes lanes of a band. -/
def State.doDev (s : State) (sh : Nat) (r : Run) (band : Nat) (ls : List (Nat × Half)) : State × Run :=
  if r.init then (s, r)
  else
    let (s1, r1) := s.claim sh r
    if r1.claimFail then (s1, r1)
    else (s1, { r1 with out := { r1.out with dev := mapSet [] r1.out.dev band (setAll (mapGet [] r1.out.dev band) ls) } })

/-! ## Issue (R159, R171) -/

/-- The word at the engine's PC. -/
def State.fetched (s : State) (sh : Nat) (r : Run) : Nat := leNat (s.bytes (trayBase sh + kcodeBase r.bank + 8 * r.pc) 8)

def storeAll (s : State) (xs : List (Nat × Nat)) : State := xs.foldl (fun s p => s.setByte p.1 (BitVec.ofNat 8 p.2)) s

/-- When a result of latency L is available: not before an earlier result that stays in part of it; s0 and p0 take no result. -/
def availAdd (m : SMap Nat) (c : Nat) (o : SlotOut) : SMap Nat :=
  match o.dest.key with
  | none => m
  | some k =>
    if k = keyS 0 || k = keyP 0 then m
    else mapSet 0 m k (if o.part then max (mapGet 0 m k) (c + o.lat) else c + o.lat)

/-- Another engine of the course runs an invocation, and may contend for the loft port (R134). -/
def State.contended (s : State) (sh : Nat) : Bool :=
  s.eng.any (fun x => x.1 ≠ sh && x.1 / 16 = sh / 16 && x.2.run.isSome)

/-- A slot's loft access starts in cycle c: a read takes its least latency, longer by a free number of cycles under contention; the cycles
until the loft accepts a write are a free number, since the specification gives none (R134, R165, R171; log 66). The result's latency
and the run's outstanding accesses follow. -/
def State.loftStart (s : State) (sh c : Nat) (r : Run) (o : SlotOut) : (SlotOut × Run) × State :=
  let hold (done : Nat) : List Nat :=
    let xs := r.loft.filter (c < ·)
    xs.filter (· ≤ done) ++ done :: xs.filter (done < ·)
  match o.loft with
  | none => ((o, r), s)
  | some true =>
    if s.contended sh then
      let (i, s1) := s.fresh
      let lat := o.lat + Config.freeNat i
      (({ o with lat := lat }, { r with loft := hold (c + lat) }), s1)
    else ((o, { r with loft := hold (c + o.lat) }), s)
  | some false =>
    let (i, s1) := s.fresh
    let done := c + Config.freeNat i
    ((o, { r with loft := hold done, wrote := max r.wrote done }), s1)

/-- Do both slots write the same scalar register? -/
def sameScalar : Dest → Dest → Bool
  | .s i _, .s j _ => i == j
  | _, _ => false

/-- Cycles in a row, up to this one, with an access on a tray port. -/
def streak (r : Run) (c n : Nat) (used : Bool) : Nat := if !used then 0 else if c = r.cyc then n + 1 else 1

/-- The run after a word issued in cycle c. -/
def Run.after (r : Run) (c lo hi : Nat) (a b : SlotOut) : Run :=
  { r with
    pc := match a.jump with | some t => t | none => r.pc + 1
    cyc := match a.jump with | some _ => c + 3 | none => c + 1
    scalarPort := if a.jump.isSome then 0 else streak r c r.scalarPort (usesScalarPort lo)
    vectorPort := if a.jump.isSome then 0 else streak r c r.vectorPort (usesVectorPort hi)
    avail := availAdd (availAdd r.avail c a) c b }

/-- The output of a word that did not fault. -/
def State.output (s : State) (sh : Nat) (r : Run) (a b : SlotOut) : State × Run :=
  let (s1, r1) := match a.emit with | none => (s, r) | some blk => s.doEmit sh r blk
  match b.dev with | none => (s1, r1) | some (band, ls) => s1.doDev sh r1 band ls

/-- One word issues: its effect is done or it faults; END ends the invocation; PC past word 4,095 is a FETCH fault. -/
def State.stepWord (s : State) (sh : Nat) (r : Run) (w : Nat) : State :=
  let e := s.engine sh
  let lo := w % 2 ^ 32
  let hi := w / 2 ^ 32
  let (c, s9) := s.issueAt r lo hi
  let s0 := s9.at (r.timeOf (s.shRate sh) (16 + c))
  let a := s0.scalarOut sh e r lo c
  match a.fault with
  | some (code, addr) => s0.engineFault sh code r.pc addr
  | none =>
    let s1 := storeAll s0 a.stores
    let b := s1.vectorOut sh e r hi
    if sameScalar a.dest b.dest then s0.engineFault sh fcILLEGAL r.pc 0
    else match b.fault with
      | some (code, addr) => s0.engineFault sh code r.pc addr
      | none =>
        let s2 := storeAll s1 b.stores
        let ((a1, ra), sa) := s2.loftStart sh c r a
        let ((b1, rb), sb) := sa.loftStart sh c ra b
        let (s4, r1) := sb.output sh (rb.after c lo hi a1 b1) a1 b1
        let e1 := (e.write a.dest).write b.dest
        let s5 := s4.setEngine sh { e1 with run := some r1 }
        if a.ends then s5.endRun sh c
        else if 4096 ≤ r1.pc then s5.engineFault sh fcFETCH 4095 0
        else s5.shShow sh

/-- A word issues where the engine of the Shingle runs and has fetched it. -/
def State.issue (s : State) (sh : Nat) (w : Nat) : State :=
  match (s.engine sh).run with
  | none => s
  | some r => if s.fetched sh r = w then s.stepWord sh r w else s

/-- A word of a scalar and a vector slot. -/
def wordOf (scal vect : Nat) : Nat := scal % 2 ^ 32 + vect * 2 ^ 32

/-- The fetched word, where neither of its slots has a defined opcode. -/
def State.undefinedWord (s : State) (sh : Nat) : Option Nat :=
  match (s.engine sh).run with
  | none => none
  | some r =>
    let w := s.fetched sh r
    let op := fOP w
    let vop := fOP (w / 2 ^ 32)
    let badS := 0x28 < op || (0x0B < op && op < 0x10) || op = 0x17
    let badV := 0x2E < vop || vop = 0x0F || vop = 0x23 || (0x28 < vop && vop < 0x2C)
    if badS && badV then some w else none

/-! ## The instructions -/

/-- `SNOP`; a fetched word neither of whose slots has a defined opcode, for which the table has no row, issues under this name. -/
def execSnop (sh : Fin 192) (d a : BitVec 5) (imm : BitVec 16) (vec : Word) (s : State) : Host.Outcome State Fault Refusal :=
  .next (s.issue sh ((s.undefinedWord sh).getD (wordOf (slotSI 0x00 d a imm) vec.toNat)))
def execAdd (sh : Fin 192) (d a b : BitVec 5) (rsv : BitVec 11) (vec : Word) (s : State) : Host.Outcome State Fault Refusal :=
  .next (s.issue sh (wordOf (slotSR 0x01 d a b rsv) vec.toNat))
def execSub (sh : Fin 192) (d a b : BitVec 5) (rsv : BitVec 11) (vec : Word) (s : State) : Host.Outcome State Fault Refusal :=
  .next (s.issue sh (wordOf (slotSR 0x02 d a b rsv) vec.toNat))
def execAnd (sh : Fin 192) (d a b : BitVec 5) (rsv : BitVec 11) (vec : Word) (s : State) : Host.Outcome State Fault Refusal :=
  .next (s.issue sh (wordOf (slotSR 0x03 d a b rsv) vec.toNat))
def execOr (sh : Fin 192) (d a b : BitVec 5) (rsv : BitVec 11) (vec : Word) (s : State) : Host.Outcome State Fault Refusal :=
  .next (s.issue sh (wordOf (slotSR 0x04 d a b rsv) vec.toNat))
def execXor (sh : Fin 192) (d a b : BitVec 5) (rsv : BitVec 11) (vec : Word) (s : State) : Host.Outcome State Fault Refusal :=
  .next (s.issue sh (wordOf (slotSR 0x05 d a b rsv) vec.toNat))
def execShl (sh : Fin 192) (d a b : BitVec 5) (rsv : BitVec 11) (vec : Word) (s : State) : Host.Outcome State Fault Refusal :=
  .next (s.issue sh (wordOf (slotSR 0x06 d a b rsv) vec.toNat))
def execShr (sh : Fin 192) (d a b : BitVec 5) (rsv : BitVec 11) (vec : Word) (s : State) : Host.Outcome State Fault Refusal :=
  .next (s.issue sh (wordOf (slotSR 0x07 d a b rsv) vec.toNat))
def execSra (sh : Fin 192) (d a b : BitVec 5) (rsv : BitVec 11) (vec : Word) (s : State) : Host.Outcome State Fault Refusal :=
  .next (s.issue sh (wordOf (slotSR 0x08 d a b rsv) vec.toNat))
def execMul (sh : Fin 192) (d a b : BitVec 5) (rsv : BitVec 11) (vec : Word) (s : State) : Host.Outcome State Fault Refusal :=
  .next (s.issue sh (wordOf (slotSR 0x09 d a b rsv) vec.toNat))
def execMin (sh : Fin 192) (d a b : BitVec 5) (rsv : BitVec 11) (vec : Word) (s : State) : Host.Outcome State Fault Refusal :=
  .next (s.issue sh (wordOf (slotSR 0x0A d a b rsv) vec.toNat))
def execMax (sh : Fin 192) (d a b : BitVec 5) (rsv : BitVec 11) (vec : Word) (s : State) : Host.Outcome State Fault Refusal :=
  .next (s.issue sh (wordOf (slotSR 0x0B d a b rsv) vec.toNat))
def execAddi (sh : Fin 192) (d a : BitVec 5) (imm : BitVec 16) (vec : Word) (s : State) : Host.Outcome State Fault Refusal :=
  .next (s.issue sh (wordOf (slotSI 0x10 d a imm) vec.toNat))
def execAndi (sh : Fin 192) (d a : BitVec 5) (imm : BitVec 16) (vec : Word) (s : State) : Host.Outcome State Fault Refusal :=
  .next (s.issue sh (wordOf (slotSI 0x11 d a imm) vec.toNat))
def execOri (sh : Fin 192) (d a : BitVec 5) (imm : BitVec 16) (vec : Word) (s : State) : Host.Outcome State Fault Refusal :=
  .next (s.issue sh (wordOf (slotSI 0x12 d a imm) vec.toNat))
def execShli (sh : Fin 192) (d a : BitVec 5) (imm : BitVec 16) (vec : Word) (s : State) : Host.Outcome State Fault Refusal :=
  .next (s.issue sh (wordOf (slotSI 0x13 d a imm) vec.toNat))
def execShri (sh : Fin 192) (d a : BitVec 5) (imm : BitVec 16) (vec : Word) (s : State) : Host.Outcome State Fault Refusal :=
  .next (s.issue sh (wordOf (slotSI 0x14 d a imm) vec.toNat))
def execSrai (sh : Fin 192) (d a : BitVec 5) (imm : BitVec 16) (vec : Word) (s : State) : Host.Outcome State Fault Refusal :=
  .next (s.issue sh (wordOf (slotSI 0x15 d a imm) vec.toNat))
def execLui (sh : Fin 192) (d a : BitVec 5) (imm : BitVec 16) (vec : Word) (s : State) : Host.Outcome State Fault Refusal :=
  .next (s.issue sh (wordOf (slotSI 0x16 d a imm) vec.toNat))
def execLdw (sh : Fin 192) (d a : BitVec 5) (imm : BitVec 16) (vec : Word) (s : State) : Host.Outcome State Fault Refusal :=
  .next (s.issue sh (wordOf (slotSI 0x18 d a imm) vec.toNat))
def execLdhu (sh : Fin 192) (d a : BitVec 5) (imm : BitVec 16) (vec : Word) (s : State) : Host.Outcome State Fault Refusal :=
  .next (s.issue sh (wordOf (slotSI 0x19 d a imm) vec.toNat))
def execLdbu (sh : Fin 192) (d a : BitVec 5) (imm : BitVec 16) (vec : Word) (s : State) : Host.Outcome State Fault Refusal :=
  .next (s.issue sh (wordOf (slotSI 0x1A d a imm) vec.toNat))
def execStw (sh : Fin 192) (d a : BitVec 5) (imm : BitVec 16) (vec : Word) (s : State) : Host.Outcome State Fault Refusal :=
  .next (s.issue sh (wordOf (slotSI 0x1B d a imm) vec.toNat))
def execSth (sh : Fin 192) (d a : BitVec 5) (imm : BitVec 16) (vec : Word) (s : State) : Host.Outcome State Fault Refusal :=
  .next (s.issue sh (wordOf (slotSI 0x1C d a imm) vec.toNat))
def execStb (sh : Fin 192) (d a : BitVec 5) (imm : BitVec 16) (vec : Word) (s : State) : Host.Outcome State Fault Refusal :=
  .next (s.issue sh (wordOf (slotSI 0x1D d a imm) vec.toNat))
def execLlw (sh : Fin 192) (d a : BitVec 5) (imm : BitVec 16) (vec : Word) (s : State) : Host.Outcome State Fault Refusal :=
  .next (s.issue sh (wordOf (slotSI 0x1E d a imm) vec.toNat))
def execLsw (sh : Fin 192) (d a : BitVec 5) (imm : BitVec 16) (vec : Word) (s : State) : Host.Outcome State Fault Refusal :=
  .next (s.issue sh (wordOf (slotSI 0x1F d a imm) vec.toNat))
def execBeq (sh : Fin 192) (d a : BitVec 5) (tgt : BitVec 12) (rsv : BitVec 4) (vec : Word) (s : State) : Host.Outcome State Fault Refusal :=
  .next (s.issue sh (wordOf (slotSB 0x20 d a tgt rsv) vec.toNat))
def execBne (sh : Fin 192) (d a : BitVec 5) (tgt : BitVec 12) (rsv : BitVec 4) (vec : Word) (s : State) : Host.Outcome State Fault Refusal :=
  .next (s.issue sh (wordOf (slotSB 0x21 d a tgt rsv) vec.toNat))
def execBlt (sh : Fin 192) (d a : BitVec 5) (tgt : BitVec 12) (rsv : BitVec 4) (vec : Word) (s : State) : Host.Outcome State Fault Refusal :=
  .next (s.issue sh (wordOf (slotSB 0x22 d a tgt rsv) vec.toNat))
def execBge (sh : Fin 192) (d a : BitVec 5) (tgt : BitVec 12) (rsv : BitVec 4) (vec : Word) (s : State) : Host.Outcome State Fault Refusal :=
  .next (s.issue sh (wordOf (slotSB 0x23 d a tgt rsv) vec.toNat))
def execJal (sh : Fin 192) (d a : BitVec 5) (tgt : BitVec 12) (rsv : BitVec 4) (vec : Word) (s : State) : Host.Outcome State Fault Refusal :=
  .next (s.issue sh (wordOf (slotSB 0x24 d a tgt rsv) vec.toNat))
def execJr (sh : Fin 192) (d a : BitVec 5) (imm : BitVec 16) (vec : Word) (s : State) : Host.Outcome State Fault Refusal :=
  .next (s.issue sh (wordOf (slotSI 0x25 d a imm) vec.toNat))
def execGets (sh : Fin 192) (d a : BitVec 5) (imm : BitVec 16) (vec : Word) (s : State) : Host.Outcome State Fault Refusal :=
  .next (s.issue sh (wordOf (slotSI 0x26 d a imm) vec.toNat))
def execEmit (sh : Fin 192) (d a : BitVec 5) (imm : BitVec 16) (vec : Word) (s : State) : Host.Outcome State Fault Refusal :=
  .next (s.issue sh (wordOf (slotSI 0x27 d a imm) vec.toNat))
def execEndRun (sh : Fin 192) (d a : BitVec 5) (imm : BitVec 16) (vec : Word) (s : State) : Host.Outcome State Fault Refusal :=
  .next (s.issue sh (wordOf (slotSI 0x28 d a imm) vec.toNat))
def execVnop (sh : Fin 192) (vd va vb : BitVec 5) (vp : BitVec 3) (vpn bs : Bool) (k : BitVec 6) (scal : Word) (s : State) :
    Host.Outcome State Fault Refusal :=
  .next (s.issue sh (wordOf scal.toNat (slotV 0x00 vd va vb vp vpn bs k)))
def execVadd (sh : Fin 192) (vd va vb : BitVec 5) (vp : BitVec 3) (vpn bs : Bool) (k : BitVec 6) (scal : Word) (s : State) :
    Host.Outcome State Fault Refusal :=
  .next (s.issue sh (wordOf scal.toNat (slotV 0x01 vd va vb vp vpn bs k)))
def execVsub (sh : Fin 192) (vd va vb : BitVec 5) (vp : BitVec 3) (vpn bs : Bool) (k : BitVec 6) (scal : Word) (s : State) :
    Host.Outcome State Fault Refusal :=
  .next (s.issue sh (wordOf scal.toNat (slotV 0x02 vd va vb vp vpn bs k)))
def execVadds (sh : Fin 192) (vd va vb : BitVec 5) (vp : BitVec 3) (vpn bs : Bool) (k : BitVec 6) (scal : Word) (s : State) :
    Host.Outcome State Fault Refusal :=
  .next (s.issue sh (wordOf scal.toNat (slotV 0x03 vd va vb vp vpn bs k)))
def execVsubs (sh : Fin 192) (vd va vb : BitVec 5) (vp : BitVec 3) (vpn bs : Bool) (k : BitVec 6) (scal : Word) (s : State) :
    Host.Outcome State Fault Refusal :=
  .next (s.issue sh (wordOf scal.toNat (slotV 0x04 vd va vb vp vpn bs k)))
def execVsubus (sh : Fin 192) (vd va vb : BitVec 5) (vp : BitVec 3) (vpn bs : Bool) (k : BitVec 6) (scal : Word) (s : State) :
    Host.Outcome State Fault Refusal :=
  .next (s.issue sh (wordOf scal.toNat (slotV 0x05 vd va vb vp vpn bs k)))
def execVabsd (sh : Fin 192) (vd va vb : BitVec 5) (vp : BitVec 3) (vpn bs : Bool) (k : BitVec 6) (scal : Word) (s : State) :
    Host.Outcome State Fault Refusal :=
  .next (s.issue sh (wordOf scal.toNat (slotV 0x06 vd va vb vp vpn bs k)))
def execVmin (sh : Fin 192) (vd va vb : BitVec 5) (vp : BitVec 3) (vpn bs : Bool) (k : BitVec 6) (scal : Word) (s : State) :
    Host.Outcome State Fault Refusal :=
  .next (s.issue sh (wordOf scal.toNat (slotV 0x07 vd va vb vp vpn bs k)))
def execVmax (sh : Fin 192) (vd va vb : BitVec 5) (vp : BitVec 3) (vpn bs : Bool) (k : BitVec 6) (scal : Word) (s : State) :
    Host.Outcome State Fault Refusal :=
  .next (s.issue sh (wordOf scal.toNat (slotV 0x08 vd va vb vp vpn bs k)))
def execVand (sh : Fin 192) (vd va vb : BitVec 5) (vp : BitVec 3) (vpn bs : Bool) (k : BitVec 6) (scal : Word) (s : State) :
    Host.Outcome State Fault Refusal :=
  .next (s.issue sh (wordOf scal.toNat (slotV 0x09 vd va vb vp vpn bs k)))
def execVor (sh : Fin 192) (vd va vb : BitVec 5) (vp : BitVec 3) (vpn bs : Bool) (k : BitVec 6) (scal : Word) (s : State) :
    Host.Outcome State Fault Refusal :=
  .next (s.issue sh (wordOf scal.toNat (slotV 0x0A vd va vb vp vpn bs k)))
def execVshl (sh : Fin 192) (vd va vb : BitVec 5) (vp : BitVec 3) (vpn bs : Bool) (k : BitVec 6) (scal : Word) (s : State) :
    Host.Outcome State Fault Refusal :=
  .next (s.issue sh (wordOf scal.toNat (slotV 0x0B vd va vb vp vpn bs k)))
def execVshr (sh : Fin 192) (vd va vb : BitVec 5) (vp : BitVec 3) (vpn bs : Bool) (k : BitVec 6) (scal : Word) (s : State) :
    Host.Outcome State Fault Refusal :=
  .next (s.issue sh (wordOf scal.toNat (slotV 0x0C vd va vb vp vpn bs k)))
def execVsra (sh : Fin 192) (vd va vb : BitVec 5) (vp : BitVec 3) (vpn bs : Bool) (k : BitVec 6) (scal : Word) (s : State) :
    Host.Outcome State Fault Refusal :=
  .next (s.issue sh (wordOf scal.toNat (slotV 0x0D vd va vb vp vpn bs k)))
def execVmulq (sh : Fin 192) (vd va vb : BitVec 5) (vp : BitVec 3) (vpn bs : Bool) (k : BitVec 6) (scal : Word) (s : State) :
    Host.Outcome State Fault Refusal :=
  .next (s.issue sh (wordOf scal.toNat (slotV 0x0E vd va vb vp vpn bs k)))
def execVsel (sh : Fin 192) (vd va vb : BitVec 5) (vp : BitVec 3) (vpn bs : Bool) (k : BitVec 6) (scal : Word) (s : State) :
    Host.Outcome State Fault Refusal :=
  .next (s.issue sh (wordOf scal.toNat (slotV 0x10 vd va vb vp vpn bs k)))
def execViota (sh : Fin 192) (vd va vb : BitVec 5) (vp : BitVec 3) (vpn bs : Bool) (k : BitVec 6) (scal : Word) (s : State) :
    Host.Outcome State Fault Refusal :=
  .next (s.issue sh (wordOf scal.toNat (slotV 0x11 vd va vb vp vpn bs k)))
def execVlsh (sh : Fin 192) (vd va vb : BitVec 5) (vp : BitVec 3) (vpn bs : Bool) (k : BitVec 6) (scal : Word) (s : State) :
    Host.Outcome State Fault Refusal :=
  .next (s.issue sh (wordOf scal.toNat (slotV 0x12 vd va vb vp vpn bs k)))
def execVlerp (sh : Fin 192) (vd va vb : BitVec 5) (vp : BitVec 3) (vpn bs : Bool) (k : BitVec 6) (scal : Word) (s : State) :
    Host.Outcome State Fault Refusal :=
  .next (s.issue sh (wordOf scal.toNat (slotV 0x13 vd va vb vp vpn bs k)))
def execVcmpeq (sh : Fin 192) (vd va vb : BitVec 5) (vp : BitVec 3) (vpn bs : Bool) (k : BitVec 6) (scal : Word) (s : State) :
    Host.Outcome State Fault Refusal :=
  .next (s.issue sh (wordOf scal.toNat (slotV 0x14 vd va vb vp vpn bs k)))
def execVcmplt (sh : Fin 192) (vd va vb : BitVec 5) (vp : BitVec 3) (vpn bs : Bool) (k : BitVec 6) (scal : Word) (s : State) :
    Host.Outcome State Fault Refusal :=
  .next (s.issue sh (wordOf scal.toNat (slotV 0x15 vd va vb vp vpn bs k)))
def execVcmpgt (sh : Fin 192) (vd va vb : BitVec 5) (vp : BitVec 3) (vpn bs : Bool) (k : BitVec 6) (scal : Word) (s : State) :
    Host.Outcome State Fault Refusal :=
  .next (s.issue sh (wordOf scal.toNat (slotV 0x16 vd va vb vp vpn bs k)))
def execPand (sh : Fin 192) (vd va vb : BitVec 5) (vp : BitVec 3) (vpn bs : Bool) (k : BitVec 6) (scal : Word) (s : State) :
    Host.Outcome State Fault Refusal :=
  .next (s.issue sh (wordOf scal.toNat (slotV 0x17 vd va vb vp vpn bs k)))
def execPor (sh : Fin 192) (vd va vb : BitVec 5) (vp : BitVec 3) (vpn bs : Bool) (k : BitVec 6) (scal : Word) (s : State) :
    Host.Outcome State Fault Refusal :=
  .next (s.issue sh (wordOf scal.toNat (slotV 0x18 vd va vb vp vpn bs k)))
def execPandn (sh : Fin 192) (vd va vb : BitVec 5) (vp : BitVec 3) (vpn bs : Bool) (k : BitVec 6) (scal : Word) (s : State) :
    Host.Outcome State Fault Refusal :=
  .next (s.issue sh (wordOf scal.toNat (slotV 0x19 vd va vb vp vpn bs k)))
def execPcnt (sh : Fin 192) (vd va vb : BitVec 5) (vp : BitVec 3) (vpn bs : Bool) (k : BitVec 6) (scal : Word) (s : State) :
    Host.Outcome State Fault Refusal :=
  .next (s.issue sh (wordOf scal.toNat (slotV 0x1A vd va vb vp vpn bs k)))
def execPfirst (sh : Fin 192) (vd va vb : BitVec 5) (vp : BitVec 3) (vpn bs : Bool) (k : BitVec 6) (scal : Word) (s : State) :
    Host.Outcome State Fault Refusal :=
  .next (s.issue sh (wordOf scal.toNat (slotV 0x1B vd va vb vp vpn bs k)))
def execVmac (sh : Fin 192) (vd va vb : BitVec 5) (vp : BitVec 3) (vpn bs : Bool) (k : BitVec 6) (scal : Word) (s : State) :
    Host.Outcome State Fault Refusal :=
  .next (s.issue sh (wordOf scal.toNat (slotV 0x1C vd va vb vp vpn bs k)))
def execVacc (sh : Fin 192) (vd va vb : BitVec 5) (vp : BitVec 3) (vpn bs : Bool) (k : BitVec 6) (scal : Word) (s : State) :
    Host.Outcome State Fault Refusal :=
  .next (s.issue sh (wordOf scal.toNat (slotV 0x1D vd va vb vp vpn bs k)))
def execVaclr (sh : Fin 192) (vd va vb : BitVec 5) (vp : BitVec 3) (vpn bs : Bool) (k : BitVec 6) (scal : Word) (s : State) :
    Host.Outcome State Fault Refusal :=
  .next (s.issue sh (wordOf scal.toNat (slotV 0x1E vd va vb vp vpn bs k)))
def execVacx (sh : Fin 192) (vd va vb : BitVec 5) (vp : BitVec 3) (vpn bs : Bool) (k : BitVec 6) (scal : Word) (s : State) :
    Host.Outcome State Fault Refusal :=
  .next (s.issue sh (wordOf scal.toNat (slotV 0x1F vd va vb vp vpn bs k)))
def execVrsum (sh : Fin 192) (vd va vb : BitVec 5) (vp : BitVec 3) (vpn bs : Bool) (k : BitVec 6) (scal : Word) (s : State) :
    Host.Outcome State Fault Refusal :=
  .next (s.issue sh (wordOf scal.toNat (slotV 0x20 vd va vb vp vpn bs k)))
def execVrmax (sh : Fin 192) (vd va vb : BitVec 5) (vp : BitVec 3) (vpn bs : Bool) (k : BitVec 6) (scal : Word) (s : State) :
    Host.Outcome State Fault Refusal :=
  .next (s.issue sh (wordOf scal.toNat (slotV 0x21 vd va vb vp vpn bs k)))
def execVext (sh : Fin 192) (vd va vb : BitVec 5) (vp : BitVec 3) (vpn bs : Bool) (k : BitVec 6) (scal : Word) (s : State) :
    Host.Outcome State Fault Refusal :=
  .next (s.issue sh (wordOf scal.toNat (slotV 0x22 vd va vb vp vpn bs k)))
def execVld (sh : Fin 192) (vd va vb : BitVec 5) (vp : BitVec 3) (vpn bs : Bool) (k : BitVec 6) (scal : Word) (s : State) :
    Host.Outcome State Fault Refusal :=
  .next (s.issue sh (wordOf scal.toNat (slotV 0x24 vd va vb vp vpn bs k)))
def execVst (sh : Fin 192) (vd va vb : BitVec 5) (vp : BitVec 3) (vpn bs : Bool) (k : BitVec 6) (scal : Word) (s : State) :
    Host.Outcome State Fault Refusal :=
  .next (s.issue sh (wordOf scal.toNat (slotV 0x25 vd va vb vp vpn bs k)))
def execVldb (sh : Fin 192) (vd va vb : BitVec 5) (vp : BitVec 3) (vpn bs : Bool) (k : BitVec 6) (scal : Word) (s : State) :
    Host.Outcome State Fault Refusal :=
  .next (s.issue sh (wordOf scal.toNat (slotV 0x26 vd va vb vp vpn bs k)))
def execVldl (sh : Fin 192) (vd va vb : BitVec 5) (vp : BitVec 3) (vpn bs : Bool) (k : BitVec 6) (scal : Word) (s : State) :
    Host.Outcome State Fault Refusal :=
  .next (s.issue sh (wordOf scal.toNat (slotV 0x27 vd va vb vp vpn bs k)))
def execVstl (sh : Fin 192) (vd va vb : BitVec 5) (vp : BitVec 3) (vpn bs : Bool) (k : BitVec 6) (scal : Word) (s : State) :
    Host.Outcome State Fault Refusal :=
  .next (s.issue sh (wordOf scal.toNat (slotV 0x28 vd va vb vp vpn bs k)))
def execVin (sh : Fin 192) (vd va vb : BitVec 5) (vp : BitVec 3) (vpn bs : Bool) (k : BitVec 6) (scal : Word) (s : State) :
    Host.Outcome State Fault Refusal :=
  .next (s.issue sh (wordOf scal.toNat (slotV 0x2C vd va vb vp vpn bs k)))
def execVprf (sh : Fin 192) (vd va vb : BitVec 5) (vp : BitVec 3) (vpn bs : Bool) (k : BitVec 6) (scal : Word) (s : State) :
    Host.Outcome State Fault Refusal :=
  .next (s.issue sh (wordOf scal.toNat (slotV 0x2D vd va vb vp vpn bs k)))
def execVdev (sh : Fin 192) (vd va vb : BitVec 5) (vp : BitVec 3) (vpn bs : Bool) (k : BitVec 6) (scal : Word) (s : State) :
    Host.Outcome State Fault Refusal :=
  .next (s.issue sh (wordOf scal.toNat (slotV 0x2E vd va vb vp vpn bs k)))

end Sys2Proof.Machine
end

