-- ==== Sys2Proof/Machine/TickEdge.lean ====
section
/-! DEFINITION. The tick edge: the changes due at a boundary, the row slots, admission to exposure, the advance of the pipeline;
boundaries where no tick comes; the stop and the flush steps (R14–R20, R26, R69, R100–R105, R118, R414). -/
namespace Sys2Proof.Machine

/-! ## Changes due at a boundary (R20, R414) -/

/-- The frozen set of a page takes effect, or is refused whole (R55, R97, R219, R414). -/
def State.pageApply (s : State) (page : Nat) : State :=
  if page = 0x014 then
    let code := areaCheckOf s.frz
    let s1 := s.put R.EXP_CHECK_CODE_AREA code
    if code = 0 then s1.takeFrozen (commitSet page) else s1
  else if page = 0x017 then
    if s.frz R.TICK_DIV_INT_INT * 2 ^ 32 + s.frz R.TICK_DIV_FRAC_FRAC < 2 ^ 28 then s.raise E.TICK_DIV_BAD
    else (s.takeFrozen (commitSet page)).rePredict
  else if page = 0x01B then s.devCommit
  else s.takeFrozen (commitSet page)

def State.commitsApply (s : State) : State :=
  { (s.commitPend.foldl State.pageApply s) with commitPend := [], frozen := [] }

/-- The source in force becomes TICK_SRC's: acc is 0, a trigger run and a tick held back are dropped; the timer's first tick
comes a period after `der` (R98). A source that did not follow CNT0 leaves no speed estimate behind. A module
in fallback goes on with its encoder where TICK_SRC returns after TRIG_AREA (R305). What was steered for the chain
stays behind with it: a source other than CHAIN runs from the module's own PLL_SYS (R298). -/
def State.sourceForce (s : State) (der : Nat) : State :=
  let src := s.act R.TICK_SRC_SRC
  let g := { s.tick with
    acc := 0, deferred := none, pred := none, runLeft := 0, runFirst := false
    cntTimes := if s.divFollows then s.tick.cntTimes else []
    next := if s.inRun && src = srcTIMER then some (der + s.timerPeriod) else none }
  let fb := src = srcCHAIN && s.on R.CHAIN_STAT_FALLBACK
  let s1 := (State.put { s with tick := g } R.TICK_STAT_RUN_ACT 0).put R.TICK_STAT_SRC_ACT (if fb then srcENCODER else src)
  if src = srcCHAIN then s1
  else ((s1.setChain { s1.chain with valid := 0, lastTok := none, ctBase := s1.chainTime s1.now, ctAt := s1.now, rate := 0 }).put R.CHAIN_STAT_LOST 0).put R.CHAIN_STAT_FALLBACK 0

/-- Area triggers that wait for their tick are given up where TRIG_AREA is no longer in force (DESIGN CHOICE, log 107: the
specification does not say whether an accepted trigger whose EXP_TRIG_DLY still runs gets its tick then). -/
def State.areaDrop (s : State) : State :=
  if s.modeAct = 2 then s else { s with tick := { s.tick with areaTrigs := [] } }

/-- Registers marked "next tick boundary" take effect; a new source, or TICK_SRC's return after TRIG_AREA, comes into force. A write
of TICK_SRC that keeps SRC changes no source, and acc stays as it is (DEDUCED, log 108). -/
def State.nextApply (s : State) (der : Nat) : State :=
  let s1 := s.nextPend.foldl State.takeNext s
  let s2 := (s1.put R.EXP_STAT_MODE_ACT (s1.act R.EXP_MODE_MODE)).areaDrop
  let again : Bool := s2.act R.TICK_SRC_SRC ≠ s.act R.TICK_SRC_SRC || (s.modeAct = 2) ≠ (s2.modeAct = 2)
  (if again then (s2.sourceForce der).fallbackGo else s2).headShow

/-- The array band of the thermal unit comes into force (R68, R318). -/
def State.bandApply (s : State) : State :=
  let tb := s.get R.THERM_STAT_TB
  if tb = s.get R.RDO_STAT_TB_ACT then s
  else (((s.put R.RDO_STAT_TB_ACT tb).put R.RDO_TRS_MIN_PS (trsMin tb)).raise E.RDO_TB_CHANGE).calDiscard

/-- Each course's clock takes the slower of the host's and the supervisor's step; invocations go on at the new clock (R147). -/
def State.stepApply (s : State) : State :=
  let host := s.act R.ENGG_CLK_STEP_HOST
  let therm := s.get R.ENGG_CLK_THERM_STEP
  let old := s.get R.ENGG_CLK_ACT_STEP
  let new := (List.range 12).foldl (fun v c => insBits v (2 * c) 2 (max host (bits therm (2 * c) 2))) 0
  if new = old then s
  else
    let rate (sh : Nat) : Nat := stepRate (bits old (2 * (sh / 16)) 2)
    let eng := s.eng.map (fun (p : Nat × Engine) => (p.1, { p.2 with run := p.2.run.map (fun r => r.reAnchor (rate p.1) s.now) }))
    let s1 := State.put { s with eng := eng } R.ENGG_CLK_ACT_STEP new
    (((s1.eng.map Prod.fst).foldl State.shShow s1).kcapShow).raise E.ENGG_STEP_CHANGE

/-- Every change due at a boundary, together. `der`: the derivation time of its tick. -/
def State.boundaryApply (s : State) (der : Nat) : State :=
  ((((s.holdViews.commitsApply.nextApply der).bandApply).stepApply).thermTake.capsShow).bwShow

/-- A calibration set, trims of a TIMING run and hand-backs of spares take effect. -/
def State.calApplyDue (s : State) : State := s.trimForce.setForce.calTakeover

/-- Is a commit of the LAMP page due? -/
def State.lampDue (s : State) : Bool := s.commitPend.contains ((R.LAMP_SETk_SET 0).reg / 4096)

/-- Every change, at a boundary that is no tick edge. -/
def State.quietBoundary (s : State) : State :=
  let due := s.lampDue
  ((((s.boundaryApply s.now).calApplyDue).lampCommit due).capActShow.capTherm).ticknoPend

/-- `COMMIT_APPLY`: where no tick boundary is due, changes take effect without one (R414). -/
def execCommitApply (s : State) : Host.Outcome State Fault Refusal := .next (if s.noBoundary then s.quietBoundary else s)

/-! ## Row slots and the row clock (R69, R118, R121) -/

/-- Rows that the new tick's exposure gives the fullest bank. -/
def State.needRows (s : State) : Nat :=
  if s.modeAct ≠ 0 then s.areaRead else match s.job.active with | none => 0 | some x => s.nRead x

/-- N_TICK is kept or chosen afresh from T_pred (5 ns units). Of an N_TICK above 32,767 the field keeps the low 15 bits, which f_req and
the next comparison use; T_RS in whole ps is rounded down, and shown as 0x7FFFFF above that (DESIGN CHOICE, log 146). -/
def State.rowSlots (s : State) (t : Frac) : State :=
  let n := s.get R.RDO_STAT_N_TICK
  let eff := s.trsEff
  let ps := 5000 * t.num
  let keep := n ≠ 0 && decide (eff * n * t.den ≤ ps) && decide (ps ≤ min (2 * eff) 5000000 * n * t.den) && decide (s.needRows ≤ n)
  let m := if keep then n else max 1 (ps / (eff * t.den))
  let s1 := (s.put R.RDO_STAT_N_TICK m).put R.RDO_TRS_PS (min 0x7FFFFF (max eff (ps / (m * t.den))))
  if keep || n = 0 then s1 else s1.raise E.RDO_NSLOT_CHANGE

/-- The row phase in 5 ns units at the present unit clock: five periods. -/
def State.rowPhase (s : State) : Frac := let f := s.fuHz; ⟨1000000000 * f.den, max 1 f.num⟩

/-- f_req = 20 · N_TICK / T_pred (R118), and never above 20 / T_RS,eff: where T_pred is shorter than T_RS,eff, T_RS is T_RS,eff (R69;
DEDUCED, log 78). -/
def State.fReq (s : State) (t : Frac) : Frac :=
  let n := s.get R.RDO_STAT_N_TICK
  if 5000 * t.num < s.trsEff * n * t.den then ⟨20000000000000, s.trsEff⟩ else ⟨4000000000 * n * t.den, t.num⟩

/-- The row clock at a tick boundary, then the new row-phase grid, which takes the rows of the line before. -/
def State.rowsEdge (s : State) (t : Frac) (e : Nat) : State :=
  let s1 := s.rowSlots t
  let s2 := s1.rowBoundary (s1.fReq t)
  s2.gridRestart e s2.rowPhase

/-! ## Admission (R102, R103) -/

/-- The reason of a line that is not exposed. -/
def State.lostReason (s : State) (dt : Nat) : Nat :=
  let low := match s.readTerm with | none => s.rateCap | some r => min r s.rateCap
  if periodOk dt low then rcTHERMAL else rcRATE_CAP

/-- Monitor 2 takes s − T_cap for every tick edge but the first after a stop or after RUN was entered (R101, R105). -/
def State.capSlack (s : State) (e : Nat) : State :=
  match s.tick.lastExposed with
  | none => s
  | some u =>
    let f := s.fCap
    if s.on R.TICK_STAT_STOPPED || s.tick.lastEdge.isNone || f = 0 then s
    else s.slackEnter 2 ((((e - u) * f : Nat) - (200000000 : Int)) / (f : Int))

/-- Is a line at tick n reported JOB_PENDING (R181)? -/
def State.spliced (s : State) (n : Nat) : Bool :=
  s.on R.JOB_CTRL_SPLICE_EN && s.job.splice && decide (s.get64 R.JOB_SPLICE_LO_TICKNO R.JOB_SPLICE_HI_TICKNO ≤ n)

/-- Line n of the active bank is exposed: its slots are set up, and its accounting begins (R18). -/
def State.exposeLine (s : State) (x n e : Nat) (t : Frac) (sheet : Bool) : State :=
  let l0 := s.newLine x n sheet
  let l := { l0 with exposed := true, pendCourses := maskCourses l0.mask
                     reports := if s.spliced n && l0.mask ≠ 0 then [(rcJOB_PENDING, l0.mask)] else [] }
  let rs := (s.slotsOn x).map (s.lineSlot x n e t)
  let s1 := { s with lines := s.lines ++ [l] }
  (s1.exposeSlots rs n e (s1.lineRows x n).length).lineExposed x n

/-- A frame is exposed under the area values in force (R53). -/
def State.exposeFrame (s : State) (n e : Nat) (t : Frac) : State :=
  let rows := frameRows (s.act R.EXP_AREA_CTRL_P_FIRST) (s.act R.EXP_AREA_CTRL_P_LAST) (s.act R.EXP_AREA_CTRL_DARK_ROWS = 1)
  (s.exposeSlots [s.areaSlot n e t] n e rows.length).frameExposed n

/-- The tick is exposed; in LINE mode without a job no slot starts. -/
def State.expose (s : State) (n e : Nat) (t : Frac) (sheet : Bool) : State :=
  let s1 := s.expCounters
  if s1.modeAct ≠ 0 then s1.exposeFrame n e t
  else match s1.job.active with
    | none => s1
    | some x => s1.exposeLine x n e t sheet

/-- The tick is not exposed: its line is reported, and counted as lost (R103). -/
def State.refuseTick (s : State) (n e : Nat) (sheet : Bool) : State :=
  let reason := s.lostReason (e - (s.tick.lastExposed.getD e))
  ((s.lostTick n sheet reason).countLost 1).raise (if reason = rcTHERMAL then E.TICK_THERMAL else E.TICK_RATE_CAP)

/-! ## The pipeline's advance -/

/-- Every line in flight is one stage further. -/
def Line.advance (e : Nat) (l : Line) : Line :=
  { l with stage := l.stage + 1, edge2 := if l.stage = 1 then e else l.edge2, edge3 := if l.stage = 2 then e else l.edge3 }

def State.linesAdvance (s : State) (e : Nat) : State := { s with lines := s.lines.map (Line.advance e) }

/-- SYNC_OUT in modes 0 to 2 (R104). -/
def State.syncEdge (s : State) (n : Nat) (exposed : Bool) : State :=
  let m := s.act R.TICK_SYNC_MODE
  if m = 0 || (m = 1 && exposed) || (m = 2 && n % max 1 (s.act R.TICK_SYNC_DIV_N) = 0) then s.syncPulse else s

/-! ## The tick edge -/

/-- The tick's number: its token's, or the next; a single step of TICKNO that waits is made here (R7, R300, R303). A token's number
that TICKNO has passed meanwhile gives the next number: TICKNO never moves backward (DEDUCED, log 24). -/
def State.tickNumber (s : State) (d : DerTick) : Nat × State :=
  let next := s.tick.tickno + (if s.tick.firstTick then 0 else 1)
  let n := match d.tno with | none => next | some m => max m next
  match s.chain.pend with
  | none => (n, s)
  | some m =>
    let s1 := s.setChain { s.chain with pend := none }
    if s.jobRunning || m ≤ s.tick.tickno then (n, s1)
    else if s.nvs.saved.hwm ≤ m then (n, s)
    else (max n m, s1.raise E.RIDGE_TICKNO_ADV)

/-- The tick's T_pred; before a first one is known the specification states none, and it is a free value. -/
def State.tickPred (s : State) (d : DerTick) : Frac × State :=
  if fracKnown d.tpred && 0 < d.tpred.num then (d.tpred, s)
  else (let (i, s1) := s.fresh; (⟨Config.freeNat i + 1, 1⟩, s1))

/-- Tick n of a derived tick, at the time in hand: everything due at the boundary, the row slots, admission, exposure, the advance of
the pipeline. -/
def State.tickAt (s : State) (d : DerTick) (n : Nat) (t : Frac) : State :=
  let e := s.now
  let due := s.lampDue
  let s1 := ((s.repSettle.setTickno n).boundaryApply d.der).calBoundary.lampEdge.lampCommit due
  let s2 := s1.jobTick n d
  let s3 := (s2.enginesEdge.slackEdge e).rowsEdge t e
  let exposed := s3.admits e
  let s4 := (s3.capActShow).capSlack e
  let s5 := if exposed then (s4.cutSlots e).linesAdvance e |>.expose n e t d.sheet else (s4.linesAdvance e).refuseTick n e d.sheet
  let s6 := ((s5.tickCounters exposed e).syncEdge n exposed).capTherm
  let g := { s6.tick with lastEdge := some e, flushLeft := 0
                          lastExposed := if exposed then some e else s6.tick.lastExposed }
  let s7 := (State.put { s6 with tick := g } R.TICK_STAT_STOPPED 0).skipOver d.passed
  s7.linesSettle.repsDone

/-- `TICK_EDGE`: the oldest derived tick's edge. -/
def State.tickEdge (s : State) : State :=
  match s.tick.queue with
  | [] => s
  | d :: rest =>
    if !s.inRun then s
    else if d.noEdge then (s.noEdgeQueue s.tick.queue.length).linesSettle
    else
      let s1 := State.at { s with tick := { s.tick with queue := rest } } d.edge
      let (n, s2) := s1.tickNumber d
      let s3 := s2.lifeBefore n
      let s4 := if d.tno.isSome then s3.chainGap n else s3
      let (t, s5) := s4.tickPred d
      let s6 := s5.tickAt d n t
      (s6.noEdgeQueue s6.tick.queue.length).linesSettle

def execTickEdge (s : State) : Host.Outcome State Fault Refusal := .next s.tickEdge

/-! ## The stop and the flush steps (R101, R362) -/

/-- 12 ms in timer clocks. -/
def stopClk : Nat := 12 * msClk

/-- `TICK_STOPPED`: 12 ms after a tick edge without a further one. -/
def State.tickStopped (s : State) : State :=
  match s.tick.lastEdge with
  | none => s
  | some e =>
    let near := match s.tick.queue with | [] => false | d :: _ => decide (d.edge ≤ e + stopClk)
    if !s.inRun || s.on R.TICK_STAT_STOPPED || near then s
    else
      let s1 := s.at (e + stopClk)
      (State.put { s1 with tick := { s1.tick with flushLeft := 3 }, exp := { s1.exp with slacks := [] } } R.TICK_STAT_STOPPED 1).raise
        E.TICK_STOPPED

def execTickStopped (s : State) : Host.Outcome State Fault Refusal := .next s.tickStopped

/-- When the next flush step falls: 100 µs apart from 12 ms after the last edge; in HOLD-UP 50 µs after the time in hand. -/
def State.flushTime (s : State) : Nat :=
  if s.inRun then (s.tick.lastEdge.getD 0) + stopClk + (3 - s.tick.flushLeft) * 100 * usClk else s.now + 50 * usClk

/-- `FLUSH_STEP`: the pipeline advances by one stage without an exposure and without a TICKNO; at the first one, pending changes
take effect. The row clock makes no step. -/
def State.flushStep (s : State) : State :=
  if s.tick.flushLeft = 0 then s
  else
    let s1 := s.at s.flushTime
    let s2 := if s1.tick.flushLeft = 3 then s1.quietBoundary else s1
    let s3 := State.gridRestart { s2.enginesEdge with tick := { s2.tick with flushLeft := s2.tick.flushLeft - 1 } } s2.now s2.rdo.phase
    ((s3.linesAdvance s3.now).linesSettle).repsDone

def execFlushStep (s : State) : Host.Outcome State Fault Refusal := .next s.flushStep

end Sys2Proof.Machine
end

