-- ==== Sys2Proof/Machine/Dispatch.lean ====
section
/-! DEFINITION. The one dispatch: one arm per command, each a direct call of that command's meaning. -/
namespace Sys2Proof.Machine

/-- The effect of a command on everything but the queue. -/
def exec (i : Instr) (s : State) : Host.Outcome State Fault Refusal :=
  match i with
  | .encEdge a b t => Sys2Proof.Machine.execEncEdge a b t s
  | .zEdge level t => Sys2Proof.Machine.execZEdge level t s
  | .encFault idx t => Sys2Proof.Machine.execEncFault idx t s
  | .encFaultClear ins levels t => Sys2Proof.Machine.execEncFaultClear ins levels t s
  | .trigEdge idx energised t => Sys2Proof.Machine.execTrigEdge idx energised t s
  | .predictedTick => Sys2Proof.Machine.execPredictedTick s
  | .timerTick => Sys2Proof.Machine.execTimerTick s
  | .trigRunTick => Sys2Proof.Machine.execTrigRunTick s
  | .trigAreaTick => Sys2Proof.Machine.execTrigAreaTick s
  | .tickEdge => Sys2Proof.Machine.execTickEdge s
  | .hopTimeout => Sys2Proof.Machine.execHopTimeout s
  | .flywheelBoundary => Sys2Proof.Machine.execFlywheelBoundary s
  | .markMiss => Sys2Proof.Machine.execMarkMiss s
  | .commitApply => Sys2Proof.Machine.execCommitApply s
  | .tickStopped => Sys2Proof.Machine.execTickStopped s
  | .flushStep => Sys2Proof.Machine.execFlushStep s
  | .cntLoad k v => Sys2Proof.Machine.execCntLoad k v s
  | .timerCount k t => Sys2Proof.Machine.execTimerCount k t s
  | .ccArm j v => Sys2Proof.Machine.execCcArm j v s
  | .ccFire j => Sys2Proof.Machine.execCcFire j s
  | .swcap j => Sys2Proof.Machine.execSwcap j s
  | .cntClr j => Sys2Proof.Machine.execCntClr j s
  | .shadowLowRead addr => Sys2Proof.Machine.execShadowLowRead addr s
  | .shadowHighRead addr => Sys2Proof.Machine.execShadowHighRead addr s
  | .snapshot => Sys2Proof.Machine.execSnapshot s
  | .tickMonClr => Sys2Proof.Machine.execTickMonClr s
  | .tickSrcWrite v => Sys2Proof.Machine.execTickSrcWrite v s
  | .slotStart k => Sys2Proof.Machine.execSlotStart k s
  | .strobeOn k => Sys2Proof.Machine.execStrobeOn k s
  | .strobeOff k => Sys2Proof.Machine.execStrobeOff k s
  | .slotEnd k => Sys2Proof.Machine.execSlotEnd k s
  | .heldTransferRelease k => Sys2Proof.Machine.execHeldTransferRelease k s
  | .transferDone k => Sys2Proof.Machine.execTransferDone k s
  | .expBankCheck bank => Sys2Proof.Machine.execExpBankCheck bank s
  | .expModeWrite v => Sys2Proof.Machine.execExpModeWrite v s
  | .rowSample b => Sys2Proof.Machine.execRowSample b s
  | .rowConversionDone b rest dark cols => Sys2Proof.Machine.execRowConversionDone b rest dark cols s
  | .intakePush sh => Sys2Proof.Machine.execIntakePush sh s
  | .webDirWrite v => Sys2Proof.Machine.execWebDirWrite v s
  | .pllStart idx v => Sys2Proof.Machine.execPllStart idx v s
  | .pllLock m => Sys2Proof.Machine.execPllLock m s
  | .lockLost m => Sys2Proof.Machine.execLockLost m s
  | .reload => Sys2Proof.Machine.execReload s
  | .proofLineFetch sh lat => Sys2Proof.Machine.execProofLineFetch sh lat s
  | .initEntry sh t => Sys2Proof.Machine.execInitEntry sh t s
  | .kernelEntry sh t => Sys2Proof.Machine.execKernelEntry sh t s
  | .watchdogAbort sh => Sys2Proof.Machine.execWatchdogAbort sh s
  | .engineRestart sh => Sys2Proof.Machine.execEngineRestart sh s
  | .engineHalt sh v => Sys2Proof.Machine.execEngineHalt sh v s
  | .shMonClr sh => Sys2Proof.Machine.execShMonClr sh s
  | .coursePwrWrite v => Sys2Proof.Machine.execCoursePwrWrite v s
  | .courseOn c => Sys2Proof.Machine.execCourseOn c s
  | .snop sh d a imm vec => Sys2Proof.Machine.execSnop sh d a imm vec s
  | .add sh d a b rsv vec => Sys2Proof.Machine.execAdd sh d a b rsv vec s
  | .sub sh d a b rsv vec => Sys2Proof.Machine.execSub sh d a b rsv vec s
  | .and sh d a b rsv vec => Sys2Proof.Machine.execAnd sh d a b rsv vec s
  | .or sh d a b rsv vec => Sys2Proof.Machine.execOr sh d a b rsv vec s
  | .xor sh d a b rsv vec => Sys2Proof.Machine.execXor sh d a b rsv vec s
  | .shl sh d a b rsv vec => Sys2Proof.Machine.execShl sh d a b rsv vec s
  | .shr sh d a b rsv vec => Sys2Proof.Machine.execShr sh d a b rsv vec s
  | .sra sh d a b rsv vec => Sys2Proof.Machine.execSra sh d a b rsv vec s
  | .mul sh d a b rsv vec => Sys2Proof.Machine.execMul sh d a b rsv vec s
  | .min sh d a b rsv vec => Sys2Proof.Machine.execMin sh d a b rsv vec s
  | .max sh d a b rsv vec => Sys2Proof.Machine.execMax sh d a b rsv vec s
  | .addi sh d a imm vec => Sys2Proof.Machine.execAddi sh d a imm vec s
  | .andi sh d a imm vec => Sys2Proof.Machine.execAndi sh d a imm vec s
  | .ori sh d a imm vec => Sys2Proof.Machine.execOri sh d a imm vec s
  | .shli sh d a imm vec => Sys2Proof.Machine.execShli sh d a imm vec s
  | .shri sh d a imm vec => Sys2Proof.Machine.execShri sh d a imm vec s
  | .srai sh d a imm vec => Sys2Proof.Machine.execSrai sh d a imm vec s
  | .lui sh d a imm vec => Sys2Proof.Machine.execLui sh d a imm vec s
  | .ldw sh d a imm vec => Sys2Proof.Machine.execLdw sh d a imm vec s
  | .ldhu sh d a imm vec => Sys2Proof.Machine.execLdhu sh d a imm vec s
  | .ldbu sh d a imm vec => Sys2Proof.Machine.execLdbu sh d a imm vec s
  | .stw sh d a imm vec => Sys2Proof.Machine.execStw sh d a imm vec s
  | .sth sh d a imm vec => Sys2Proof.Machine.execSth sh d a imm vec s
  | .stb sh d a imm vec => Sys2Proof.Machine.execStb sh d a imm vec s
  | .llw sh d a imm vec => Sys2Proof.Machine.execLlw sh d a imm vec s
  | .lsw sh d a imm vec => Sys2Proof.Machine.execLsw sh d a imm vec s
  | .beq sh d a tgt rsv vec => Sys2Proof.Machine.execBeq sh d a tgt rsv vec s
  | .bne sh d a tgt rsv vec => Sys2Proof.Machine.execBne sh d a tgt rsv vec s
  | .blt sh d a tgt rsv vec => Sys2Proof.Machine.execBlt sh d a tgt rsv vec s
  | .bge sh d a tgt rsv vec => Sys2Proof.Machine.execBge sh d a tgt rsv vec s
  | .jal sh d a tgt rsv vec => Sys2Proof.Machine.execJal sh d a tgt rsv vec s
  | .jr sh d a imm vec => Sys2Proof.Machine.execJr sh d a imm vec s
  | .gets sh d a imm vec => Sys2Proof.Machine.execGets sh d a imm vec s
  | .emit sh d a imm vec => Sys2Proof.Machine.execEmit sh d a imm vec s
  | .endRun sh d a imm vec => Sys2Proof.Machine.execEndRun sh d a imm vec s
  | .vnop sh vd va vb vp vpn bs k scal => Sys2Proof.Machine.execVnop sh vd va vb vp vpn bs k scal s
  | .vadd sh vd va vb vp vpn bs k scal => Sys2Proof.Machine.execVadd sh vd va vb vp vpn bs k scal s
  | .vsub sh vd va vb vp vpn bs k scal => Sys2Proof.Machine.execVsub sh vd va vb vp vpn bs k scal s
  | .vadds sh vd va vb vp vpn bs k scal => Sys2Proof.Machine.execVadds sh vd va vb vp vpn bs k scal s
  | .vsubs sh vd va vb vp vpn bs k scal => Sys2Proof.Machine.execVsubs sh vd va vb vp vpn bs k scal s
  | .vsubus sh vd va vb vp vpn bs k scal => Sys2Proof.Machine.execVsubus sh vd va vb vp vpn bs k scal s
  | .vabsd sh vd va vb vp vpn bs k scal => Sys2Proof.Machine.execVabsd sh vd va vb vp vpn bs k scal s
  | .vmin sh vd va vb vp vpn bs k scal => Sys2Proof.Machine.execVmin sh vd va vb vp vpn bs k scal s
  | .vmax sh vd va vb vp vpn bs k scal => Sys2Proof.Machine.execVmax sh vd va vb vp vpn bs k scal s
  | .vand sh vd va vb vp vpn bs k scal => Sys2Proof.Machine.execVand sh vd va vb vp vpn bs k scal s
  | .vor sh vd va vb vp vpn bs k scal => Sys2Proof.Machine.execVor sh vd va vb vp vpn bs k scal s
  | .vshl sh vd va vb vp vpn bs k scal => Sys2Proof.Machine.execVshl sh vd va vb vp vpn bs k scal s
  | .vshr sh vd va vb vp vpn bs k scal => Sys2Proof.Machine.execVshr sh vd va vb vp vpn bs k scal s
  | .vsra sh vd va vb vp vpn bs k scal => Sys2Proof.Machine.execVsra sh vd va vb vp vpn bs k scal s
  | .vmulq sh vd va vb vp vpn bs k scal => Sys2Proof.Machine.execVmulq sh vd va vb vp vpn bs k scal s
  | .vsel sh vd va vb vp vpn bs k scal => Sys2Proof.Machine.execVsel sh vd va vb vp vpn bs k scal s
  | .viota sh vd va vb vp vpn bs k scal => Sys2Proof.Machine.execViota sh vd va vb vp vpn bs k scal s
  | .vlsh sh vd va vb vp vpn bs k scal => Sys2Proof.Machine.execVlsh sh vd va vb vp vpn bs k scal s
  | .vlerp sh vd va vb vp vpn bs k scal => Sys2Proof.Machine.execVlerp sh vd va vb vp vpn bs k scal s
  | .vcmpeq sh vd va vb vp vpn bs k scal => Sys2Proof.Machine.execVcmpeq sh vd va vb vp vpn bs k scal s
  | .vcmplt sh vd va vb vp vpn bs k scal => Sys2Proof.Machine.execVcmplt sh vd va vb vp vpn bs k scal s
  | .vcmpgt sh vd va vb vp vpn bs k scal => Sys2Proof.Machine.execVcmpgt sh vd va vb vp vpn bs k scal s
  | .pand sh vd va vb vp vpn bs k scal => Sys2Proof.Machine.execPand sh vd va vb vp vpn bs k scal s
  | .por sh vd va vb vp vpn bs k scal => Sys2Proof.Machine.execPor sh vd va vb vp vpn bs k scal s
  | .pandn sh vd va vb vp vpn bs k scal => Sys2Proof.Machine.execPandn sh vd va vb vp vpn bs k scal s
  | .pcnt sh vd va vb vp vpn bs k scal => Sys2Proof.Machine.execPcnt sh vd va vb vp vpn bs k scal s
  | .pfirst sh vd va vb vp vpn bs k scal => Sys2Proof.Machine.execPfirst sh vd va vb vp vpn bs k scal s
  | .vmac sh vd va vb vp vpn bs k scal => Sys2Proof.Machine.execVmac sh vd va vb vp vpn bs k scal s
  | .vacc sh vd va vb vp vpn bs k scal => Sys2Proof.Machine.execVacc sh vd va vb vp vpn bs k scal s
  | .vaclr sh vd va vb vp vpn bs k scal => Sys2Proof.Machine.execVaclr sh vd va vb vp vpn bs k scal s
  | .vacx sh vd va vb vp vpn bs k scal => Sys2Proof.Machine.execVacx sh vd va vb vp vpn bs k scal s
  | .vrsum sh vd va vb vp vpn bs k scal => Sys2Proof.Machine.execVrsum sh vd va vb vp vpn bs k scal s
  | .vrmax sh vd va vb vp vpn bs k scal => Sys2Proof.Machine.execVrmax sh vd va vb vp vpn bs k scal s
  | .vext sh vd va vb vp vpn bs k scal => Sys2Proof.Machine.execVext sh vd va vb vp vpn bs k scal s
  | .vld sh vd va vb vp vpn bs k scal => Sys2Proof.Machine.execVld sh vd va vb vp vpn bs k scal s
  | .vst sh vd va vb vp vpn bs k scal => Sys2Proof.Machine.execVst sh vd va vb vp vpn bs k scal s
  | .vldb sh vd va vb vp vpn bs k scal => Sys2Proof.Machine.execVldb sh vd va vb vp vpn bs k scal s
  | .vldl sh vd va vb vp vpn bs k scal => Sys2Proof.Machine.execVldl sh vd va vb vp vpn bs k scal s
  | .vstl sh vd va vb vp vpn bs k scal => Sys2Proof.Machine.execVstl sh vd va vb vp vpn bs k scal s
  | .vin sh vd va vb vp vpn bs k scal => Sys2Proof.Machine.execVin sh vd va vb vp vpn bs k scal s
  | .vprf sh vd va vb vp vpn bs k scal => Sys2Proof.Machine.execVprf sh vd va vb vp vpn bs k scal s
  | .vdev sh vd va vb vp vpn bs k scal => Sys2Proof.Machine.execVdev sh vd va vb vp vpn bs k scal s
  | .sliceMerge c => Sys2Proof.Machine.execSliceMerge c s
  | .devSlice => Sys2Proof.Machine.execDevSlice s
  | .devSegment => Sys2Proof.Machine.execDevSegment s
  | .recordWrite => Sys2Proof.Machine.execRecordWrite s
  | .uninspectedRecord => Sys2Proof.Machine.execUninspectedRecord s
  | .pendingRecordWrite => Sys2Proof.Machine.execPendingRecordWrite s
  | .jobStart v => Sys2Proof.Machine.execJobStart v s
  | .jobStop v => Sys2Proof.Machine.execJobStop v s
  | .jobArm v => Sys2Proof.Machine.execJobArm v s
  | .jobCancel v => Sys2Proof.Machine.execJobCancel v s
  | .bankWrite addr v => Sys2Proof.Machine.execBankWrite addr v s
  | .learnFinish => Sys2Proof.Machine.execLearnFinish s
  | .satFs p frameno stamp t => Sys2Proof.Machine.execSatFs p frameno stamp t s
  | .satLine p frameno line pixels t => Sys2Proof.Machine.execSatLine p frameno line pixels t s
  | .satFe p frameno linesSent t => Sys2Proof.Machine.execSatFe p frameno linesSent t s
  | .satFrameTimeout m => Sys2Proof.Machine.execSatFrameTimeout m s
  | .refresh ch rank => Sys2Proof.Machine.execRefresh ch rank s
  | .scrubBurst single several => Sys2Proof.Machine.execScrubBurst single several s
  | .errAddrRead => Sys2Proof.Machine.execErrAddrRead s
  | .ringRdWrite r v => Sys2Proof.Machine.execRingRdWrite r v s
  | .ringCfgWrite r size v => Sys2Proof.Machine.execRingCfgWrite r size v s
  | .dmaTailWrite n v => Sys2Proof.Machine.execDmaTailWrite n v s
  | .dmaDescriptor n => Sys2Proof.Machine.execDmaDescriptor n s
  | .dmaDone n => Sys2Proof.Machine.execDmaDone n s
  | .dmaResume n => Sys2Proof.Machine.execDmaResume n s
  | .dmaDisable n => Sys2Proof.Machine.execDmaDisable n s
  | .streamSend n => Sys2Proof.Machine.execStreamSend n s
  | .dmaFenceGo => Sys2Proof.Machine.execDmaFenceGo s
  | .dmaFenceDone => Sys2Proof.Machine.execDmaFenceDone s
  | .nvsStore v prog => Sys2Proof.Machine.execNvsStore v prog s
  | .nvsDelete v => Sys2Proof.Machine.execNvsDelete v s
  | .nvsCompact v => Sys2Proof.Machine.execNvsCompact v s
  | .nvsExport v => Sys2Proof.Machine.execNvsExport v s
  | .nvsAdopt v => Sys2Proof.Machine.execNvsAdopt v s
  | .nvsFlushRelease v => Sys2Proof.Machine.execNvsFlushRelease v s
  | .nvsCmdDone => Sys2Proof.Machine.execNvsCmdDone s
  | .compactionStart => Sys2Proof.Machine.execCompactionStart s
  | .compactionDone => Sys2Proof.Machine.execCompactionDone s
  | .lifeCommit t => Sys2Proof.Machine.execLifeCommit t s
  | .holdupFlush => Sys2Proof.Machine.execHoldupFlush s
  | .flushDone => Sys2Proof.Machine.execFlushDone s
  | .replayDone r => Sys2Proof.Machine.execReplayDone r s
  | .blockLock p h => Sys2Proof.Machine.execBlockLock p h s
  | .laneLockLost p h => Sys2Proof.Machine.execLaneLockLost p h s
  | .portRetrain p => Sys2Proof.Machine.execPortRetrain p s
  | .trainBlk p k reqPre reqPost reqPreset ackPre ackPost ackPreset fom rxDone offer => Sys2Proof.Machine.execTrainBlk p k reqPre reqPost reqPreset ackPre ackPost ackPreset fom rxDone offer s
  | .fomMeasure p k vEye vPk => Sys2Proof.Machine.execFomMeasure p k vEye vPk s
  | .adaptStep p k => Sys2Proof.Machine.execAdaptStep p k s
  | .linkUp p => Sys2Proof.Machine.execLinkUp p s
  | .trainTimeout p => Sys2Proof.Machine.execTrainTimeout p s
  | .safelightEnter p => Sys2Proof.Machine.execSafelightEnter p s
  | .safelightExit p => Sys2Proof.Machine.execSafelightExit p s
  | .wakeFail p => Sys2Proof.Machine.execWakeFail p s
  | .laneTestMode p k v => Sys2Proof.Machine.execLaneTestMode p k v s
  | .injBit p k => Sys2Proof.Machine.execInjBit p k s
  | .injBurst p k => Sys2Proof.Machine.execInjBurst p k s
  | .chkClr p k => Sys2Proof.Machine.execChkClr p k s
  | .regReq p tag hops rhops entry op count addr data => Sys2Proof.Machine.execRegReq p tag hops rhops entry op count addr data s
  | .regRsp p tag hops rhops entry status count addr data => Sys2Proof.Machine.execRegRsp p tag hops rhops entry status count addr data s
  | .bulk p payload => Sys2Proof.Machine.execBulk p payload s
  | .unclaimedPacket p c => Sys2Proof.Machine.execUnclaimedPacket p c s
  | .packetSend p => Sys2Proof.Machine.execPacketSend p s
  | .creditBlk p vc count => Sys2Proof.Machine.execCreditBlk p vc count s
  | .creditSend p vc => Sys2Proof.Machine.execCreditSend p vc s
  | .eventSend => Sys2Proof.Machine.execEventSend s
  | .timeBlk ct seq t => Sys2Proof.Machine.execTimeBlk ct seq t s
  | .cthiBlk hi => Sys2Proof.Machine.execCthiBlk hi s
  | .timeSend => Sys2Proof.Machine.execTimeSend s
  | .echoBlk p reply id t => Sys2Proof.Machine.execEchoBlk p reply id t s
  | .linkDelayMeasure t => Sys2Proof.Machine.execLinkDelayMeasure t s
  | .ctLockTimeout => Sys2Proof.Machine.execCtLockTimeout s
  | .tickToken flags hops tickno crc derCt tpred t => Sys2Proof.Machine.execTickToken flags hops tickno crc derCt tpred t s
  | .tokenLoss t => Sys2Proof.Machine.execTokenLoss t s
  | .tokenRestore => Sys2Proof.Machine.execTokenRestore s
  | .tnoBlk tickno => Sys2Proof.Machine.execTnoBlk tickno s
  | .tnoSend => Sys2Proof.Machine.execTnoSend s
  | .chainMonClr => Sys2Proof.Machine.execChainMonClr s
  | .calPassStart => Sys2Proof.Machine.execCalPassStart s
  | .calPositionDone b sh ofsTrim gainTrim ofsCoef gainCoef ofs gain weights first => Sys2Proof.Machine.execCalPositionDone b sh ofsTrim gainTrim ofsCoef gainCoef ofs gain weights first s
  | .calDark sat unstable light levels d d1 => Sys2Proof.Machine.execCalDark sat unstable light levels d d1 s
  | .calWhite m tapA tapB sums verify => Sys2Proof.Machine.execCalWhite m tapA tapB sums verify s
  | .calTiming late gate sync => Sys2Proof.Machine.execCalTiming late gate sync s
  | .calLoad => Sys2Proof.Machine.execCalLoad s
  | .calApply => Sys2Proof.Machine.execCalApply s
  | .calAbort => Sys2Proof.Machine.execCalAbort s
  | .calRunDone => Sys2Proof.Machine.execCalRunDone s
  | .driftTrack drift => Sys2Proof.Machine.execDriftTrack drift s
  | .bgStarved act => Sys2Proof.Machine.execBgStarved act s
  | .thermalSample raw t => Sys2Proof.Machine.execThermalSample raw t s
  | .siteSuspect idx => Sys2Proof.Machine.execSiteSuspect idx s
  | .siteUnsuspect idx => Sys2Proof.Machine.execSiteUnsuspect idx s
  | .graceExpire => Sys2Proof.Machine.execGraceExpire s
  | .thermalRelease => Sys2Proof.Machine.execThermalRelease s
  | .thermResume => Sys2Proof.Machine.execThermResume s
  | .thermThrWrite g hi v => Sys2Proof.Machine.execThermThrWrite g hi v s
  | .inputLoss t => Sys2Proof.Machine.execInputLoss t s
  | .inputExcursion t => Sys2Proof.Machine.execInputExcursion t s
  | .sourceQualified t => Sys2Proof.Machine.execSourceQualified t s
  | .srcChanged ohms => Sys2Proof.Machine.execSrcChanged ohms s
  | .powerRequest v => Sys2Proof.Machine.execPowerRequest v s
  | .powerTransition => Sys2Proof.Machine.execPowerTransition s
  | .supplement ma t => Sys2Proof.Machine.execSupplement ma t s
  | .overload mah => Sys2Proof.Machine.execOverload mah s
  | .domainOn t => Sys2Proof.Machine.execDomainOn t s
  | .domainRegTimeout d => Sys2Proof.Machine.execDomainRegTimeout d s
  | .holdWaitExpire => Sys2Proof.Machine.execHoldWaitExpire s
  | .handback => Sys2Proof.Machine.execHandback s
  | .packCutoff => Sys2Proof.Machine.execPackCutoff s
  | .packCheck ntc vRest temp crcOk chem cap serial => Sys2Proof.Machine.execPackCheck ntc vRest temp crcOk chem cap serial s
  | .packProbe v ntc => Sys2Proof.Machine.execPackProbe v ntc s
  | .chargeCycle chg idx vTerm vRest temp sys t => Sys2Proof.Machine.execChargeCycle chg idx vTerm vRest temp sys t s
  | .prechgTimeout => Sys2Proof.Machine.execPrechgTimeout s
  | .maintainCheck vRest => Sys2Proof.Machine.execMaintainCheck vRest s
  | .chgTimerExpire => Sys2Proof.Machine.execChgTimerExpire s
  | .faultClr => Sys2Proof.Machine.execFaultClr s
  | .mbWrite addr data t => Sys2Proof.Machine.execMbWrite addr data t s
  | .mbRead addr n t => Sys2Proof.Machine.execMbRead addr n t s
  | .mbFraming => Sys2Proof.Machine.execMbFraming s
  | .mbStuck => Sys2Proof.Machine.execMbStuck s
  | .mbWake t => Sys2Proof.Machine.execMbWake t s
  | .mbWindowSleep t => Sys2Proof.Machine.execMbWindowSleep t s
  | .attnPulse t => Sys2Proof.Machine.execAttnPulse t s
  | .lampPwrWrite v => Sys2Proof.Machine.execLampPwrWrite v s
  | .lampIdent t => Sys2Proof.Machine.execLampIdent t s
  | .sigVerify => Sys2Proof.Machine.execSigVerify s
  | .lhRead => Sys2Proof.Machine.execLhRead s
  | .lhSeti => Sys2Proof.Machine.execLhSeti s
  | .lhLifeAdd => Sys2Proof.Machine.execLhLifeAdd s
  | .lhStat => Sys2Proof.Machine.execLhStat s
  | .lhResponse sync cells t => Sys2Proof.Machine.execLhResponse sync cells t s
  | .lhRetry => Sys2Proof.Machine.execLhRetry s
  | .lampOverload => Sys2Proof.Machine.execLampOverload s
  | .powerOn ohms mbAddr t => Sys2Proof.Machine.execPowerOn ohms mbAddr t s
  | .ready loft => Sys2Proof.Machine.execReady s loft
  | .warmReset => Sys2Proof.Machine.execWarmReset s
  | .coldReset mbAddr => Sys2Proof.Machine.execColdReset mbAddr s
  | .warmDone => Sys2Proof.Machine.execWarmDone s
  | .supervisorWdog => Sys2Proof.Machine.execSupervisorWdog s
  | .domainReset v => Sys2Proof.Machine.execDomainReset v s
  | .sysMonClr => Sys2Proof.Machine.execSysMonClr s
  | .rollupEvent => Sys2Proof.Machine.execRollupEvent s
  | .rollupHoldoffEnd => Sys2Proof.Machine.execRollupHoldoffEnd s
  | .pageCommit page => Sys2Proof.Machine.execPageCommit page s
  | .intClr page v => Sys2Proof.Machine.execIntClr page v s
  | .evtCntWrite page n v => Sys2Proof.Machine.execEvtCntWrite page n v s
  | .compatWrite v => Sys2Proof.Machine.execCompatWrite v s
  | .registerWrite addr v => Sys2Proof.Machine.execRegisterWrite addr v s
  | .align p seen => Sys2Proof.Machine.execAlign p seen s
  | .chkLock p b => Sys2Proof.Machine.execChkLock p b s
  | .modprslChange p present => Sys2Proof.Machine.execModprslChange p present s
  | .cageSupplyTrip p => Sys2Proof.Machine.execCageSupplyTrip p s
  | .inputReturn t => Sys2Proof.Machine.execInputReturn t s
  | .packOvercurrent => Sys2Proof.Machine.execPackOvercurrent s
  | .prechargeDone => Sys2Proof.Machine.execPrechargeDone s
  | .supplementEnd => Sys2Proof.Machine.execSupplementEnd s
  | .staged => Sys2Proof.Machine.execStaged s
  | .syncOutEnd => Sys2Proof.Machine.execSyncOutEnd s
  | .memReady train test => Sys2Proof.Machine.execMemReady s train test

end Sys2Proof.Machine
end

