-- ==== Sys2Proof/Safety.lean ====
section
/-! DEFINITION. What a safe run of the block is, in the terms in which claims are stated: the tables of the state in canonical form,
a step that goes on, and what a command never touches. -/
namespace Sys2Proof.Machine

/-- The tables of registers, of values in force, of frozen values and of memory are in canonical form: keys rise strictly, and no
entry repeats the value that an unlisted key has. Equal contents are then equal data. -/
abbrev State.canonical (s : State) : Prop :=
  Memory.wf s.mem = true ∧ mapWf regReset s.regs = true ∧ mapWf regReset s.force = true ∧ mapWf regReset s.frozen = true

/-- The outcome of a step is a next state that satisfies a property. -/
def goesOn (o : Host.Outcome State Fault Refusal) (P : State → Prop) : Prop := ∃ t, o = .next t ∧ P t

/-- Two states agree on every byte of the module address map outside n bytes from a. -/
def State.memSame (s t : State) (a n : Nat) : Prop := ∀ b, b < a ∨ a + n ≤ b → t.byte b = s.byte b

/-- Two states hold the same stored word in every register but those listed. -/
def State.regsSame (s t : State) (except : List Nat) : Prop := ∀ a, a ∉ except → t.reg a = s.reg a

/-- A step from this state goes on. -/
def Safe (s : State) : Prop := goesOn (step s) (fun _ => True)

end Sys2Proof.Machine
end

