-- ==== Sys2Proof/Certificates/Slice0/Obligations.lean ====
section
/-! DEFINITION. The statements about the module, for the provers. -/

open Sys2Proof Sys2Proof.Machine

/-! ## Terms of the statements -/

/-- From s to t an event has been told once: its INT_RAW bit is 1 and its counter, where it has one, has counted it (R412, R415). -/
def told (s t : State) (e : Ev) : Prop :=
  t.get (intRawBit e) = 1 ∧ ∀ b, e.cnt = some b → t.get (evtCnt e.page b) = min 255 (s.get (evtCnt e.page b) + 1)

/-- The registers that telling an event may change. -/
def toldRegs (e : Ev) : List Nat :=
  match e.cnt with
  | none => [(intRawBit e).reg]
  | some b => [(intRawBit e).reg, (evtCnt e.page b).reg]

/-- From s to t no register word changes but those listed, no value in force, no byte of the module address map, no kernel state of a
Shingle engine and nothing in the negative store. -/
def only (s t : State) (regs : List Nat) : Prop :=
  s.regsSame t regs ∧ t.force = s.force ∧ (∀ a, t.byte a = s.byte a) ∧ t.eng = s.eng ∧ t.nvs = s.nvs

/-! ## Inputs, counters and channels (R79–R93) -/

/-- R85, R87, R89–R91: a host write of CNTk_VAL loads CNT0–CNT5; for CNT6 and CNT7 and channels 12–15 the write is refused with RSV_WRITE. A
write of CCj_VAL arms the channel, and a value already passed is due one timer clock after the write, also where EN = 0 (that is the model's
choice, log 111). SWCAP copies the count into the channel's capture register
and reports a capture that was not read. CNT_CLR clears the channel's two counts. -/
def Obligations.CounterRegisterWrites : Prop :=
  ∀ s : State, s.served 0x016 = true →
    (∀ (k : Fin 8) (v : Word), k.val < 6 → goesOn (exec (.cntLoad k v) s) (fun t =>
      t.cnt k = v.toNat ∧ only s t [(R.CNTk_VAL_VAL k).reg])) ∧
    (∀ (k : Fin 8) (v : Word), 6 ≤ k.val → goesOn (exec (.cntLoad k v) s) (fun t =>
      told s t E.TMR_RSV_WRITE ∧ only s t (toldRegs E.TMR_RSV_WRITE))) ∧
    (∀ (j : Fin 16) (v : Word), j.val < 12 → goesOn (exec (.ccArm j v) s) (fun t =>
      t.get (R.CCj_VAL_VAL j) = v.toNat ∧ t.get (R.CCj_STAT_ARMED j) = 1 ∧
      mapFind t.tmr.ccDue j = (if passedBy (if s.chanWide j then 64 else 32) (s.chanCount j) (t.chanVal j) then some (s.now + 1) else none) ∧
      only s t [(R.CCj_VAL_VAL j).reg, (R.CCj_STAT_ARMED j).reg])) ∧
    (∀ j : Fin 16, j.val < 12 → s.on (R.CCj_CTRL_EN j) = true → s.get (R.CCj_CTRL_FUNC j) = 1 → s.get (R.CCj_CTRL_CAP_SRC j) = 8 →
      goesOn (exec (.swcap j) s) (fun t =>
        t.get (R.CCj_CAP_VAL j) = s.chanCount j % 2 ^ 32 ∧
        (s.chanWide j = true → t.get (R.CCj_CAP_HI_VAL j) = s.chanCount j / 2 ^ 32 % 2 ^ 32) ∧
        j.val ∈ t.tmr.capUnread ∧
        (j.val ∈ s.tmr.capUnread → t.get (R.CCj_STAT_OVR j) = 1 ∧ told s t (E.TMR_CC j) ∧
          t.get (R.CCj_STAT_OVR_CNT j) = min 255 (s.get (R.CCj_STAT_OVR_CNT j) + 1)) ∧
        only s t ([(R.CCj_CAP_VAL j).reg, (R.CCj_CAP_HI_VAL j).reg, (R.CCj_STAT_OVR j).reg] ++ toldRegs (E.TMR_CC j)))) ∧
    (∀ j : Fin 16, j.val < 12 → goesOn (exec (.cntClr j) s) (fun t =>
      t.get (R.CCj_STAT_FIRE_CNT j) = 0 ∧ t.get (R.CCj_STAT_OVR_CNT j) = 0 ∧
      t.get (R.CCj_STAT_ARMED j) = s.get (R.CCj_STAT_ARMED j) ∧ only s t [(R.CCj_STAT_ARMED j).reg])) ∧
    (∀ j : Fin 16, 12 ≤ j.val → ∀ c ∈ [Instr.cntClr j, .swcap j, .ccArm j 0], goesOn (exec c s) (fun t =>
      told s t E.TMR_RSV_WRITE ∧ only s t (toldRegs E.TMR_RSV_WRITE)))

/-- A counter as a host counts with it: 64 bits for the low counter of a linked pair (R86). -/
def wideCount (s : State) (k : Nat) : Nat := s.cnt k + (if s.linked k then s.cnt (k + 1) * 2 ^ 32 else 0)

/-- R84–R86: once PRESC + 1 timer clocks have passed, a count of a counter in TIMER mode changes it by exactly one modulo its width, the
width of a linked pair being 64 bits; a counter that was reset in the same timer clock keeps 0. Before they have passed nothing is
counted. Neither changes a byte of memory. -/
def Obligations.TimerCountCountsOne : Prop :=
  ∀ (s : State) (k : Fin 8) (t0 : Nat), s.dom dCLK = true → k.val < 6 → s.cntMode k = 1 → s.linkedHigh k = false →
    (s.timerDue k ≤ max s.now t0 → mapFind s.tmr.clrAt k ≠ some t0 → goesOn (exec (.timerCount k t0) s) (fun t =>
      wideCount t k = (wideCount s k + 1) % (if s.linked k then 2 ^ 64 else 2 ^ 32) ∧
      (∀ i, i < 8 → i ≠ k.val → (s.linked k = true → i ≠ k.val + 1) → t.cnt i = s.cnt i) ∧ ∀ a, t.byte a = s.byte a)) ∧
    (s.timerDue k ≤ max s.now t0 → mapFind s.tmr.clrAt k = some t0 → goesOn (exec (.timerCount k t0) s) (fun t =>
      (∀ i, i < 8 → t.cnt i = s.cnt i) ∧ ∀ a, t.byte a = s.byte a)) ∧
    (max s.now t0 < s.timerDue k → goesOn (exec (.timerCount k t0) s) (fun t => t.tmr = s.tmr ∧ only s t []))

/-- R88, R93, R104, R106: a due channel that is armed fires at its time: STAT.FIRE and its INT_RAW bit are set, FIRE_CNT counts and the channel is
disarmed; its partner captures where its source is the pair's fire (R91), and SYNC_OUT begins its pulse where TICK_SYNC selects the channel (R104; its
whole width while no T_pred is known is the model's choice, log 112). A snapshot copies the eight counters and TICKNO into the snapshot registers and touches no others. TICK_MON_CTRL.CLR sets every tick
monitor to its empty value. The end of a SYNC_OUT pulse ends it, not before its time. -/
def Obligations.ChannelFireSnapshotClear : Prop :=
  (∀ (s : State) (j : Fin 16) (u : Nat), s.armed j = true → mapFind s.tmr.ccDue j = some u → goesOn (exec (.ccFire j) s) (fun t =>
    t.now = max s.now u ∧ mapFind t.tmr.ccDue j = none ∧ t.get (R.CCj_STAT_FIRE j) = 1 ∧ t.get (R.CCj_STAT_ARMED j) = 0 ∧ t.get (intRawBit (E.TMR_CC j)) = 1 ∧
    t.get (R.CCj_STAT_FIRE_CNT j) = min 255 (s.get (R.CCj_STAT_FIRE_CNT j) + 1) ∧ (∀ k, k < 8 → t.cnt k = s.cnt k) ∧
    (let m := j.val ^^^ 1
     s.on (R.CCj_CTRL_EN m) = true → s.get (R.CCj_CTRL_FUNC m) = 1 → s.get (R.CCj_CTRL_CAP_SRC m) = 7 →
       t.get (R.CCj_CAP_VAL m) = s.chanCount m % 2 ^ 32 ∧ m ∈ t.tmr.capUnread) ∧
    (s.act R.TICK_SYNC_MODE = 3 → s.act R.TICK_SYNC_CC = j.val → s.inRun = true → 0 < s.act R.TICK_SYNC_W →
       t.pins.syncEnd = some (max s.now u + min (s.act R.TICK_SYNC_W)
         (if s.tick.tpred.den = 0 then s.act R.TICK_SYNC_W else s.tick.tpred.num / (2 * s.tick.tpred.den)))) ∧
    (s.act R.TICK_SYNC_MODE ≠ 3 ∨ s.act R.TICK_SYNC_CC ≠ j.val → t.pins = s.pins) ∧ ∀ a, t.byte a = s.byte a)) ∧
  (∀ s : State, s.served 0x016 = true → s.tick.tickno < 2 ^ 64 → goesOn (exec .snapshot s) (fun t =>
    (∀ k, k < 6 → t.get (R.SNAPk_VAL k) = s.cnt k) ∧ (∀ k, k = 6 ∨ k = 7 → t.get (R.SNAPk_VAL k) = s.edgeCount) ∧ t.get64 R.SNAP_TICKNO_LO_VAL R.SNAP_TICKNO_HI_VAL = s.tick.tickno ∧
    only s t (R.SNAP_TICKNO_LO_VAL.reg :: R.SNAP_TICKNO_HI_VAL.reg :: (List.range 8).map (fun k => (R.SNAPk_VAL k).reg)))) ∧
  (∀ s : State, s.served 0x017 = true → goesOn (exec .tickMonClr s) (fun t =>
    (∀ m, m < 3 → t.get (R.TICK_MONm_MIN_VAL m) = 0x7FFFFFFF ∧ t.get (R.TICK_MONm_MAX_VAL m) = 0x80000000 ∧
      ∀ i, i < 16 → t.get (R.TICK_MONm_BINi_COUNT m i) = 0) ∧ t.tick = s.tick ∧ ∀ a, t.byte a = s.byte a)) ∧
  (∀ (s : State) (e : Nat), s.pins.syncEnd = some e → goesOn (exec .syncOutEnd s) (fun t =>
    t.pins.syncEnd = none ∧ t.now = max s.now e ∧ only s t []))

/-- Input i (0–2 A, B, Z) can accept a level at t: it has no fault, and its filter's samples have passed (R79, R81). -/
def hears (s : State) (i t : Nat) : Prop := s.encFault i = false ∧ s.filtOk i (s.encHold i) t = true

/-- R79–R83: an accepted edge of A and B leaves ENC_STAT.LEVEL at the accepted levels, and a change of both while a counter counts in
quadrature is reported as QERR; Z follows its accepted level; a fault sets the input's FAULT bit and is told, and the end of the faults of one timer
clock clears their bits and accepts the levels found there, those of A and B as one sample, so that two changes are a QERR; an input with a fault or within its filter's samples hears no edge; a trigger edge leaves TRIG_STAT at the input's state. No input edge touches memory. -/
def Obligations.InputEdgesAccepted : Prop :=
  (∀ (s : State) (a b : Bool) (t0 : Nat), s.dom dCLK = true → hears s 0 t0 → hears s 1 t0 →
    goesOn (exec (.encEdge a b t0) s) (fun t =>
      t.encA = a ∧ t.encB = b ∧ t.encZ = s.encZ ∧ t.get R.ENC_STAT_FAULT = s.get R.ENC_STAT_FAULT ∧
      (s.encA ≠ a → s.encB ≠ b → (∃ k, k < 6 ∧ s.linkedHigh k = false ∧ 2 ≤ s.cntMode k ∧ s.cntMode k ≤ 4) →
        t.get (intRawBit E.TMR_QERR) = 1) ∧ ∀ x, t.byte x = s.byte x)) ∧
  (∀ (s : State) (a b : Bool) (t0 : Nat), s.dom dCLK = true → (∀ i, i < 2 → ¬ hears s i t0) →
    goesOn (exec (.encEdge a b t0) s) (fun t => t = s.at t0)) ∧
  (∀ (s : State) (level : Bool) (t0 : Nat), s.dom dCLK = true → hears s 2 t0 →
    goesOn (exec (.zEdge level t0) s) (fun t =>
      t.encZ = level ∧ t.encA = s.encA ∧ t.encB = s.encB ∧ ∀ x, t.byte x = s.byte x)) ∧
  (∀ (s : State) (i : Fin 3) (t0 : Nat), s.dom dCLK = true → s.encFault i = false →
    goesOn (exec (.encFault i t0) s) (fun t =>
      t.encFault i = true ∧ told s t E.TMR_ENC_FAULT ∧ only s t (R.ENC_STAT_FAULT.reg :: toldRegs E.TMR_ENC_FAULT))) ∧
  (∀ (s : State) (ins levels : BitVec 3) (t0 : Nat), s.dom dCLK = true →
    goesOn (exec (.encFaultClear ins levels t0) s) (fun t =>
      (∀ i, i < 3 → bit ins.toNat i = true → s.encFault i = true →
        t.encFault i = false ∧ bit (t.get R.ENC_STAT_LEVEL) i = bit levels.toNat i) ∧
      (∀ i, i < 3 → bit ins.toNat i = false ∨ s.encFault i = false →
        t.encFault i = s.encFault i ∧ bit (t.get R.ENC_STAT_LEVEL) i = bit (s.get R.ENC_STAT_LEVEL) i) ∧
      ((∀ i, i < 2 → bit ins.toNat i = true ∧ s.encFault i = true ∧ bit levels.toNat i ≠ bit (s.get R.ENC_STAT_LEVEL) i) →
        (∃ k, k < 6 ∧ s.linkedHigh k = false ∧ 2 ≤ s.cntMode k ∧ s.cntMode k ≤ 4) → t.get (intRawBit E.TMR_QERR) = 1) ∧
      ∀ x, t.byte x = s.byte x)) ∧
  (∀ (s : State) (i : Fin 4) (energised : Bool) (t0 : Nat), s.dom dCLK = true → bit (s.get R.TRIG_STAT_ENERGISED) i ≠ energised →
    s.filtOk (4 + i) (s.trigHold i) t0 = true →
    goesOn (exec (.trigEdge i energised t0) s) (fun t =>
      bit (t.get R.TRIG_STAT_ENERGISED) i = energised ∧ (∀ k : Fin 4, k ≠ i →
        bit (t.get R.TRIG_STAT_ENERGISED) k = bit (s.get R.TRIG_STAT_ENERGISED) k) ∧ ∀ x, t.byte x = s.byte x))

/-- R80: where A and B both change in one accepted sample, a counter in a quadrature mode does not count; QERR is set and counted once. -/
def Obligations.QuadratureErrorCountsNothing : Prop :=
  ∀ (s : State) (a b : Bool) (t0 k : Nat), s.dom dCLK = true → hears s 0 t0 → hears s 1 t0 → s.encA ≠ a → s.encB ≠ b →
    k < 6 → s.linkedHigh k = false → 2 ≤ s.cntMode k → s.cntMode k ≤ 4 →
    goesOn (exec (.encEdge a b t0) s) (fun t => t.cnt k = s.cnt k ∧ told s t E.TMR_QERR)

/-- R82: a Z edge is the rising edge of the accepted ENC_Z, with ZGATE only while the accepted A and B are high. What it acts on shows it:
a counter that a Z edge resets becomes 0 at a Z edge, and at no other level of Z does a counter change. -/
def Obligations.ZEdgeIsTheGatedRise : Prop :=
  ∀ (s : State) (level : Bool) (t0 : Nat), s.dom dCLK = true → hears s 2 t0 →
    let edge := level && !s.encZ && (!s.on R.ENC_CFG_ZGATE || (s.encA && s.encB))
    goesOn (exec (.zEdge level t0) s) (fun t => t.encZ = level ∧
      (edge = true → ∀ k, k < 6 → s.linkedHigh k = false → s.get (R.CNTk_CTRL_CLR_SRC k) = 1 → t.cnt k = 0) ∧
      (edge = false → ∀ k, k < 8 → t.cnt k = s.cnt k))

/-! ## Ticks (R94–R106, R414) -/

/-- The derived tick that a command adds behind those that wait: derived at `der`, its edge TICK_LEAD later (R100). -/
def addsTick (s t : State) (der : Nat) : Prop :=
  ∃ d, t.tick.queue = s.tick.queue ++ [d] ∧ d.der = der ∧ d.edge = der + s.leadClk ∧ t.tick.lastDer = some der

/-- R95, R98, R99, R54: the divider's predicted tick is derived at the predicted time and acc falls by D; the timer's tick and a trigger
run's tick are derived at the time due and the next is due TICK_TIMER_PERIOD later; a run's tick takes one off the run; an accepted area
trigger's tick is derived at its time. Each waits for its edge TICK_LEAD later, as long as no step of TICKNO waits for a LIFE record (R268).
Outside RUN the divider keeps the position and derives no tick (R94, R312). That the timer's first tick after RUN is entered comes one period
later is the model's choice (log 22). None touches memory. -/
def Obligations.TicksDerivedAtTheirTimes : Prop :=
  (∀ (s : State) (p : Nat), s.srcRuns srcENCODER = true → s.lifeWaits = false → s.tick.deferred = none → s.tick.pred = some p →
    (∀ u, s.tick.lastDer = some u → u + 250 ≤ p) → goesOn (exec .predictedTick s) (fun t =>
      addsTick s t p ∧ t.tick.acc = s.tick.acc - s.divD ∧ t.now = max s.now p ∧ ∀ a, t.byte a = s.byte a)) ∧
  (∀ (s : State) (p : Nat), s.srcAct = srcENCODER → s.modeAct ≠ 2 → s.inRun = false → s.tick.deferred = none → s.tick.pred = some p →
    goesOn (exec .predictedTick s) (fun t => t.tick.queue = s.tick.queue ∧ t.tick.acc = s.tick.acc - s.divD ∧ t.wire = s.wire ∧ only s t [])) ∧
  (∀ s : State, s.srcRuns srcTIMER = true → s.lifeWaits = false → goesOn (exec .timerTick s) (fun t =>
    let der := s.tick.next.getD (s.now + s.timerPeriod)
    addsTick s t der ∧ t.tick.next = some (der + s.timerPeriod) ∧ t.get R.TICK_TPRED_T = min 0x1FFFFF s.timerPeriod ∧
    t.tick.tickno = s.tick.tickno ∧ ∀ a, t.byte a = s.byte a)) ∧
  (∀ s : State, s.srcRuns srcTRIG_TIMER = true → s.lifeWaits = false → 0 < s.tick.runLeft → goesOn (exec .trigRunTick s) (fun t =>
    let der := s.tick.next.getD s.now
    addsTick s t der ∧ t.tick.next = some (der + s.timerPeriod) ∧ t.tick.runLeft = s.tick.runLeft - 1 ∧
    t.on R.TICK_STAT_RUN_ACT = decide (1 < s.tick.runLeft) ∧ ∀ a, t.byte a = s.byte a)) ∧
  (∀ (s : State) (p : Nat), s.srcRuns srcTRIG_ENCODER = true → s.lifeWaits = false → 0 < s.tick.runLeft → s.tick.deferred = none → s.tick.pred = some p →
    (∀ u, s.tick.lastDer = some u → u + 250 ≤ p) → goesOn (exec .trigRunTick s) (fun t =>
      addsTick s t p ∧ t.tick.runLeft = s.tick.runLeft - 1 ∧ ∀ a, t.byte a = s.byte a)) ∧
  (∀ (s : State) (u : Nat) (rest : List Nat), s.inRun = true → s.modeAct = 2 → s.lifeWaits = false → s.tick.areaTrigs = u :: rest →
    goesOn (exec .trigAreaTick s) (fun t => addsTick s t u ∧ t.tick.areaTrigs = rest ∧ ∀ a, t.byte a = s.byte a))

/-- R7, R100, R101: a tick edge takes the oldest derived tick from the queue at its time, clears STOPPED, and is the last edge from then
on; where no token and no step of TICKNO says otherwise, TICKNO is one more than before, and after power-on the number the module
started with. -/
def Obligations.TickEdgeTakesTheOldestTick : Prop :=
  ∀ (s : State) (d : DerTick) (rest : List DerTick), s.inRun = true → s.tick.queue = d :: rest → d.noEdge = false →
    goesOn (exec .tickEdge s) (fun t =>
      t.now = max s.now d.edge ∧ t.tick.lastEdge = some (max s.now d.edge) ∧ t.on R.TICK_STAT_STOPPED = false ∧
      (d.tno = none → s.chain.pend = none → d.passed = 0 → (∀ q ∈ rest, q.noEdge = false) →
        t.tick.tickno = s.tick.tickno + (if s.tick.firstTick then 0 else 1) ∧ t.tick.firstTick = false))

/-- R101, R362, R414: where no tick edge falls in the 12 ms after the last one, STOPPED is shown and told then, and the flush steps are due
(R201); where the next edge falls within them, nothing happens. A flush step takes one of the steps due, without a new TICKNO, at its time (in
HOLD-UP, 50 µs behind the step before, that is the model's choice, log 31). Where
no tick boundary is due, a commit leaves none waiting. -/
def Obligations.StopFlushStepsAndQuietCommit : Prop :=
  (∀ (s : State) (e : Nat), s.inRun = true → s.tick.lastEdge = some e → s.on R.TICK_STAT_STOPPED = false →
    ((∀ d, s.tick.queue.head? = some d → e + 12 * msClk < d.edge) → goesOn (exec .tickStopped s) (fun t =>
      t.on R.TICK_STAT_STOPPED = true ∧ told s t E.TICK_STOPPED ∧ t.tick.flushLeft = 3 ∧ t.now = max s.now (e + 12 * msClk) ∧
      only s t (R.TICK_STAT_STOPPED.reg :: toldRegs E.TICK_STOPPED))) ∧
    (∀ d, s.tick.queue.head? = some d → d.edge ≤ e + 12 * msClk → exec .tickStopped s = .next s)) ∧
  (∀ s : State, s.tick.flushLeft ≠ 0 → s.chain.pend = none → goesOn (exec .flushStep s) (fun t =>
    t.tick.flushLeft = s.tick.flushLeft - 1 ∧ t.now = max s.now s.flushTime ∧ t.tick.tickno = s.tick.tickno)) ∧
  (∀ s : State, s.noBoundary = true → goesOn (exec .commitApply s) (fun t =>
    t.commitPend = [] ∧ t.nextPend = [] ∧ t.frozen = [] ∧ t.now = s.now))

/-- R32, R112–R116, R120: RELOAD loads the band tables of every disabled PLL from the fuses. A write of EN = 1 starts a PLL that is off and
has a band, without lock and with its output gate closed; EN = 0 stops PLL_ROW, PLL_PORT_D and the others that may be stopped and clears LOCK; of PLL_SYS and PLL_PH it is
refused whole. As many cycles within the window as LOCK_N asks for declare lock and open the gate, no others do (a PLL of the start-up set that takes
longer than 1 ms fails self-test item 1, R400); four outside it lose lock,
which is shown and told while the output stays enabled; and a hop that has not locked in time is told. -/
def Obligations.PllsStartLockAndStop : Prop :=
  (∀ s : State, s.served 0x018 = true → s.on R.SYS_STAT_READY = true → goesOn (exec .reload s) (fun t =>
    ∀ i k, i < 6 → k < 16 → s.on (pllEn i) = false →
      t.reg ((R.BANDi_e_W0_VCO_LO i 0).reg + 4 * k) = BitVec.ofNat 32 (s.fuseNum (0x850 + 64 * i + 4 * k) 4))) ∧
  (∀ (s : State) (i : Fin 6) (v : Word) (e : Nat), s.served 0x018 = true → s.on R.SYS_STAT_READY = true → v.toNat % 2 = 1 →
    s.on (pllEn i) = false → s.bandEntry i (s.vcoHz i) = some e → goesOn (exec (.pllStart i v) s) (fun t =>
      t.on (pllEn i) = true ∧ t.get (R.PLLi_STAT_LOCK i) = 0 ∧ t.get (R.PLLi_STAT_BAND i) = e ∧
      t.get (R.PLLi_STAT_NO_BAND i) = 0 ∧ t.gateOpen i = false ∧ ∀ a, t.byte a = s.byte a)) ∧
  (∀ (s : State) (i : Fin 6) (v : Word), s.served 0x018 = true → s.on R.SYS_STAT_READY = true → v.toNat % 2 = 0 → i.val ≠ 0 → i.val ≠ 3 →
    goesOn (exec (.pllStart i v) s) (fun t =>
      t.on (pllEn i) = false ∧ t.get (R.PLLi_STAT_LOCK i) = 0 ∧ only s t [(pllEn i).reg, (R.PLLi_STAT_LOCK i).reg])) ∧
  (∀ (s : State) (i : Fin 6) (v : Word), s.served 0x018 = true → s.on R.SYS_STAT_READY = true → v.toNat % 2 = 0 → i.val = 0 ∨ i.val = 3 →
    goesOn (exec (.pllStart i v) s) (fun t => told s t E.CLK_REFUSED ∧ only s t (toldRegs E.CLK_REFUSED))) ∧
  (∀ (s : State) (i : Fin 6) (n err : Nat), s.pllRuns i = true →
    (16 * 2 ^ min 8 (s.get (pllLockN i)) ≤ n → err ≤ 100 * 2 ^ s.get (pllLockW i) → goesOn (exec (.pllLock ⟨i, n, err⟩) s) (fun t =>
      let late := i.val < 4 ∧ s.on R.SYS_STAT_STARTING = true ∧ mapGet 0 s.clk.startAt i + msClk < max s.now (mapGet 0 s.clk.startAt i + 8 * n)
      t.get (R.PLLi_STAT_LOCK i) = 1 ∧ t.gateOpen i = true ∧ (late → bit (t.get R.SYS_SELFTEST_FAIL) 1 = true) ∧
      (¬ late → only s t [(R.PLLi_STAT_LOCK i).reg]))) ∧
    (n < 16 * 2 ^ min 8 (s.get (pllLockN i)) ∨ 100 * 2 ^ s.get (pllLockW i) < err → exec (.pllLock ⟨i, n, err⟩) s = .next s)) ∧
  (∀ (s : State) (i : Fin 6) (n err : Nat), s.on (R.PLLi_STAT_LOCK i) = true → 4 ≤ n → 100 * 2 ^ s.get (pllLockW i) < err →
    goesOn (exec (.lockLost ⟨i, n, err⟩) s) (fun t =>
      t.get (R.PLLi_STAT_LOCK i) = 0 ∧ told s t E.CLK_LOCK_LOST ∧ t.on (pllEn i) = s.on (pllEn i) ∧ t.gateOpen i = s.gateOpen i ∧
      only s t ((R.PLLi_STAT_LOCK i).reg :: toldRegs E.CLK_LOCK_LOST))) ∧
  (∀ s : State, s.clk.hopping = true → s.clk.timedOut = false → s.on (R.PLLi_STAT_LOCK 1) = false →
    goesOn (exec .hopTimeout s) (fun t =>
      t.clk.timedOut = true ∧ told s t E.CLK_HOP_TIMEOUT ∧
      t.now = max s.now (s.clk.hopStart + max 1 (s.get R.CLK_CTRL_HOP_TO) * 100 * usClk) ∧ only s t (toldRegs E.CLK_HOP_TIMEOUT)))

/-! ## Jobs (R173–R184, R197) -/

/-- R178, R179, R182, R183: with no other operation in the write, START outside a running job in RUN and ARM beside a running job arm the
bank where Table 8-3 finds nothing, and otherwise are refused with its code, which also leaves nothing armed (R179 does not say so: log 39, DEDUCED); STOP makes the job end at TREQ; CANCEL disarms; once the
last writes of the staging channels of a READY bank have arrived, the bank is shown as staged. -/
def Obligations.JobCommandsArmStopAndStage : Prop :=
  (∀ (s : State) (v : Word), s.served 0x01A = true → s.inRun = true → s.jobRunning = false → v.toNat / 2 % 8 = 0 →
    (s.jobCheck (v.toNat / 16 % 2) = 0 → goesOn (exec (.jobStart v) s) (fun t =>
      t.job.armed = some (v.toNat / 16 % 2) ∧ t.get R.JOB_STAT_ARMED = 1 ∧ t.get R.JOB_STAT_REFUSE = 0 ∧ t.job.active = s.job.active ∧
      ∀ a, t.byte a = s.byte a)) ∧
    (s.jobCheck (v.toNat / 16 % 2) ≠ 0 → goesOn (exec (.jobStart v) s) (fun t =>
      t.job.armed = none ∧ t.get R.JOB_STAT_ARMED = 0 ∧ t.get R.JOB_STAT_REFUSE = s.jobCheck (v.toNat / 16 % 2) % 16 ∧
      told s t E.JOB_REFUSED ∧ ∀ a, t.byte a = s.byte a))) ∧
  (∀ (s : State) (v : Word) (x : Nat), s.served 0x01A = true → s.job.active = some x → v.toNat % 16 / 8 = 0 → v.toNat % 4 = 0 →
    s.jobCheck (1 - x) = 0 → goesOn (exec (.jobArm v) s) (fun t =>
      t.job.armed = some (1 - x) ∧ t.get R.JOB_STAT_ARMED = 1 ∧ t.get R.JOB_STAT_REFUSE = 0 ∧ t.job.active = some x)) ∧
  (∀ (s : State) (v : Word), s.served 0x01A = true → s.jobRunning = true → v.toNat % 16 / 4 = 0 → v.toNat % 2 = 0 →
    goesOn (exec (.jobStop v) s) (fun t => t.job.stopAt = true ∧ t.job.armed = s.job.armed ∧ ∀ a, t.byte a = s.byte a)) ∧
  (∀ (s : State) (v : Word), s.served 0x01A = true → v.toNat % 8 = 0 → s.job.armed.isSome = true →
    goesOn (exec (.jobCancel v) s) (fun t =>
      t.job.armed = none ∧ t.get R.JOB_STAT_ARMED = 0 ∧ t.get R.JOB_STAT_DEFERRED = 0 ∧ t.job.active = s.job.active)) ∧
  (∀ s : State, s.on (R.JOB_x_STAGE_READY s.stageBank) = true →
    (∀ n ∈ bitsOf 32 (s.get (R.JOB_x_STAGE_CH_CH s.stageBank)), s.chanEmpty n = true) → goesOn (exec .staged s) (fun t =>
      t.get R.JOB_STAT_STAGED = 1 ∧ only s t [R.JOB_STAT_STAGED.reg]))

/-- R174: a write of a banked register is stored by its access codes where its bank is neither active nor busy, and disarms an armed bank;
of an active or busy bank it is refused with BANK_ACTIVE and changes nothing else. -/
def Obligations.BankedWritesSpareTheActiveBank : Prop :=
  ∀ (s : State) (a : Nat) (v : Word) (r : RegRow), s.served (a / 4096) = true → regRow a = some r → r.kind = .banked →
    (s.job.active ≠ some (bankOfReg a) → bankOfReg a ∉ s.job.busy → goesOn (exec (.bankWrite a v) s) (fun t =>
      t.reg a = BitVec.ofNat 32 (writtenWord r (s.reg a).toNat v.toNat) ∧
      (s.job.armed = some (bankOfReg a) → t.job.armed = none) ∧ ∀ b, t.byte b = s.byte b)) ∧
    (s.job.active = some (bankOfReg a) ∨ bankOfReg a ∈ s.job.busy → goesOn (exec (.bankWrite a v) s) (fun t =>
      told s t E.JOB_BANK_ACTIVE ∧ only s t (toldRegs E.JOB_BANK_ACTIVE)))

/-- R176, R177, R197: without a mark by P + R the present tick becomes a flywheel boundary of the next repeat; a flywheel boundary without
its mark is told as MARK_MISS, the fourth in a row as a re-registration; learning that has its counts, or 4·N repeats, is finished, told,
and adopted at the next boundary where ADOPT asks for it. -/
def Obligations.FlywheelMissAndLearnFinish : Prop :=
  (∀ (s : State) (x : Nat), s.job.active = some x → s.tick.firstTick = false → s.repSrc x ≠ 0 →
    s.tick.tickno = s.job.rep.boundary + s.repeatLines x → goesOn (exec .flywheelBoundary s) (fun t =>
      t.job.rep.boundary = s.tick.tickno ∧ t.job.rep.number = (s.job.rep.number + 1) % 2 ^ 32 ∧ t.job.rep.fly = true ∧
      t.job.rep.waits = true ∧ t.get R.JOB_LINE_LINE = 0 ∧ t.get R.JOB_REPEAT_REPEAT = t.job.rep.number ∧ t.job.active = some x)) ∧
  (∀ (s : State) (x : Nat), s.job.active = some x → s.job.rep.waits = true → s.job.rep.boundary + s.repTol x ≤ s.tick.tickno →
    goesOn (exec .markMiss s) (fun t =>
      t.job.rep.waits = false ∧ t.job.rep.misses = s.job.rep.misses + 1 ∧ told s t E.JOB_MARK_MISS ∧
      (s.job.rep.misses + 1 = 4 → t.get (intRawBit E.JOB_REREG) = 1) ∧ ∀ a, t.byte a = s.byte a)) ∧
  (∀ (s : State) (x : Nat), s.job.active = some x → s.get R.JOB_LEARN_STAT_STATE = 2 →
    (∀ p, p < s.proofLinesOf x → s.lineShort x p = false) ∨ 4 * s.learnN x ≤ s.job.rep.number →
    goesOn (exec .learnFinish s) (fun t =>
      t.get R.JOB_LEARN_STAT_STATE = 4 ∧ told s t E.JOB_LEARN_DONE ∧ t.job.adoptPend = s.on (R.JOB_x_LEARN_ADOPT x) ∧
      t.get R.JOB_LEARN_STAT_SHORT = min 65535 ((List.range (s.proofLinesOf x)).filter (s.lineShort x)).length))

/-! ## Accesses and shadowed registers (R92, R229, R409–R418) -/

/-- R92, R229: reading the low word of a 64-bit pair gives it and copies the high word into the pair's shadow; the next read of the high
word gives the shadow and drops it; of a linked counter pair without a pending shadow it gives the live word, marked and told as SEQ.
Reading the error address frees the latch. -/
def Obligations.PairReadsUseTheShadow : Prop :=
  (∀ (s : State) (a : Nat), a % 4 = 0 → s.servedAt a = true → 0x040 ≤ a % 4096 → pairLow a = true → pairLow (a - 4) = false →
    s.linkedHighWord a = none → s.linkedLow a = none → goesOn (exec (.shadowLowRead a) s) (fun t =>
      t.rdata = [s.regPlain a] ∧ mapFind t.tmr.shadow64 (a + 4) = some (BitVec.ofNat 32 (s.regPlain (a + 4))) ∧
      only s t [R.MEM_ERR_ADDR_HI_VALID.reg])) ∧
  (∀ (s : State) (p : Fin 3), s.servedAt (R.CNTk_VAL_VAL (2 * p.val)).reg = true → s.linked (2 * p.val) = true →
    goesOn (exec (.shadowLowRead (R.CNTk_VAL_VAL (2 * p.val)).reg) s) (fun t =>
      t.rdata = [s.cnt (2 * p.val)] ∧
      mapFind t.tmr.shadow64 (R.CNTk_VAL_VAL (2 * p.val + 1)).reg = some (BitVec.ofNat 32 (s.cnt (2 * p.val + 1))) ∧ only s t [])) ∧
  (∀ (s : State) (p : Fin 3) (v : Word), s.servedAt (R.CNTk_VAL_VAL (2 * p.val + 1)).reg = true → s.linked (2 * p.val) = true →
    mapFind s.tmr.shadow64 (R.CNTk_VAL_VAL (2 * p.val + 1)).reg = some v →
    goesOn (exec (.shadowHighRead (R.CNTk_VAL_VAL (2 * p.val + 1)).reg) s) (fun t =>
      t.rdata = [v.toNat] ∧ mapFind t.tmr.shadow64 (R.CNTk_VAL_VAL (2 * p.val + 1)).reg = none ∧ only s t [])) ∧
  (∀ (s : State) (p : Fin 3), s.servedAt (R.CNTk_VAL_VAL (2 * p.val + 1)).reg = true → s.linked (2 * p.val) = true →
    mapFind s.tmr.shadow64 (R.CNTk_VAL_VAL (2 * p.val + 1)).reg = none →
    goesOn (exec (.shadowHighRead (R.CNTk_VAL_VAL (2 * p.val + 1)).reg) s) (fun t =>
      t.rdata = [s.cnt (2 * p.val + 1)] ∧ bit (t.get R.TMR_LINK_SEQ) p.val = true ∧ told s t E.TMR_SEQ ∧
      only s t (R.TMR_LINK_SEQ.reg :: toldRegs E.TMR_SEQ))) ∧
  (∀ s : State, s.servedAt R.MEM_ERR_ADDR_LO_ADDR.reg = true → goesOn (exec .errAddrRead s) (fun t =>
    t.rdata = [s.get R.MEM_ERR_ADDR_LO_ADDR] ∧ t.get R.MEM_ERR_ADDR_HI_VALID = 0 ∧
    mapFind t.tmr.shadow64 R.MEM_ERR_ADDR_HI_VALID.reg = some (s.reg R.MEM_ERR_ADDR_HI_VALID.reg) ∧
    only s t [R.MEM_ERR_ADDR_HI_VALID.reg]))

/-- R413, R415: INT_CLR clears the bits of INT_RAW that are written 1 and no others; each byte written to an event-counter word is
subtracted from its counter, with a floor at 0. R418: a compatibility level from MIN to the fuse's maximum that differs from the one in force is
taken in IDLE without a job; any other that differs is refused, and the level in force stays. -/
def Obligations.HeaderRegistersAndCompatLevel : Prop :=
  (∀ (s : State) (page : Nat) (v : Word), s.pwr.off = false → s.hdrOn page = true →
    goesOn (exec (.intClr page v) s) (fun t =>
      t.reg (intRaw page).reg = s.reg (intRaw page).reg &&& ~~~v ∧ only s t [(intRaw page).reg]) ∧
    (∀ n : Fin 4, goesOn (exec (.evtCntWrite page n v) s) (fun t =>
      (∀ j, j < 4 → t.get (evtCnt page (4 * n.val + j)) = s.get (evtCnt page (4 * n.val + j)) - bits v.toNat (8 * j) 8) ∧
      only s t [(evtCnt page (4 * n.val)).reg]))) ∧
  (∀ (s : State) (v : Word), s.pwr.off = false → v.toNat % 256 ≠ s.compatLevel →
    (s.isIdle = true → s.jobRunning = false → s.get R.REG_COMPAT_MIN ≤ v.toNat % 256 → v.toNat % 256 ≤ s.compatMax →
      goesOn (exec (.compatWrite v) s) (fun t => t.compatLevel = v.toNat % 256 ∧ only s t [R.REG_COMPAT_LEVEL.reg])) ∧
    (s.isIdle = false ∨ s.jobRunning = true ∨ v.toNat % 256 < s.get R.REG_COMPAT_MIN ∨ s.compatMax < v.toNat % 256 →
      goesOn (exec (.compatWrite v) s) (fun t =>
        t.compatLevel = s.compatLevel ∧ t.get R.REG_COMPAT_REFUSED = 1 ∧ only s t [R.REG_COMPAT_REFUSED.reg])))

/-- R407–R414: a register write to a page that is not served, or where the map has no register, changes nothing. In the pages EXP, RDO and
DEV a register stores the written word by its access codes: at once, as the pending value of a shadowed register, or, for a register marked
"next tick boundary", to come into force there; the value in force does not change with the write. INT_MASK takes the bits that the page
defines. -/
def Obligations.RegisterWritesStoreByAccessCode : Prop :=
  (∀ (s : State) (a : Nat) (v : Word), s.servedAt a = false ∨ a % 4 ≠ 0 ∨ (0x040 ≤ a % 4096 ∧ regRow a = none) →
    exec (.registerWrite a v) s = .next s) ∧
  (∀ (s : State) (a : Nat) (v : Word) (r : RegRow), a / 4096 = 0x014 ∨ a / 4096 = 0x015 ∨ a / 4096 = 0x01B → 0x040 < a % 4096 → a % 4 = 0 →
    s.servedAt a = true → regRow a = some r →
    (r.kind = .imm ∨ r.kind = .shadow → goesOn (exec (.registerWrite a v) s) (fun t =>
      t.reg a = BitVec.ofNat 32 (writtenWord r (s.reg a).toNat v.toNat) ∧ only s t [a])) ∧
    (r.kind = .nextTick → goesOn (exec (.registerWrite a v) s) (fun t =>
      t.reg a = BitVec.ofNat 32 (writtenWord r (s.reg a).toNat v.toNat) ∧ a ∈ t.nextPend ∧ only s t [a])) ∧
    (r.kind = .ro → exec (.registerWrite a v) s = .next s)) ∧
  (∀ (s : State) (page : Nat) (v : Word), s.pwr.off = false → s.hdrOn page = true →
    goesOn (exec (.registerWrite (intMask page).reg v) s) (fun t =>
      t.get (intMask page) = v.toNat &&& pageInts page ∧ only s t [(intMask page).reg]))

/-- R52, R77, R98, R414: TICK_SRC, EXP_MODE and RDO_CTRL take a written value at the next tick boundary, and are refused while a job runs,
EXP_MODE also for MODE = 3. A COMMIT freezes the pending values of the page's shadowed registers and waits for the boundary; what is in
force does not change. -/
def Obligations.BoundaryWritesAndCommitWait : Prop :=
  (∀ (s : State) (v : Word),
    (s.served 0x017 = true → s.jobRunning = false → goesOn (exec (.tickSrcWrite v) s) (fun t =>
      t.get R.TICK_SRC_SRC = v.toNat % 8 ∧ R.TICK_SRC_SRC.reg ∈ t.nextPend ∧ t.force = s.force)) ∧
    (s.served 0x017 = true → s.jobRunning = true → goesOn (exec (.tickSrcWrite v) s) (fun t =>
      told s t E.TICK_SRC_REFUSED ∧ only s t (toldRegs E.TICK_SRC_REFUSED))) ∧
    (s.served 0x014 = true → s.jobRunning = false → v.toNat % 4 ≠ 3 → goesOn (exec (.expModeWrite v) s) (fun t =>
      t.get R.EXP_MODE_MODE = v.toNat % 4 ∧ R.EXP_MODE_MODE.reg ∈ t.nextPend ∧ t.force = s.force)) ∧
    (s.served 0x014 = true → s.jobRunning = true ∨ v.toNat % 4 = 3 → goesOn (exec (.expModeWrite v) s) (fun t =>
      told s t E.EXP_MODE_REFUSED ∧ only s t (toldRegs E.EXP_MODE_REFUSED))) ∧
    (s.served 0x015 = true → s.jobRunning = false → goesOn (exec (.webDirWrite v) s) (fun t =>
      t.get R.RDO_CTRL_WEB_DIR = v.toNat % 2 ∧ R.RDO_CTRL_WEB_DIR.reg ∈ t.nextPend ∧ only s t [R.RDO_CTRL_WEB_DIR.reg])) ∧
    (s.served 0x015 = true → s.jobRunning = true → goesOn (exec (.webDirWrite v) s) (fun t =>
      told s t E.RDO_DIR_REFUSED ∧ only s t (toldRegs E.RDO_DIR_REFUSED)))) ∧
  (∀ (s : State) (page : Nat), s.canonical → s.served page = true → commits page = true → goesOn (exec (.pageCommit page) s) (fun t =>
    page ∈ t.commitPend ∧ (∀ a, commitSet page a = true → mapGet (regReset a) t.frozen a = s.reg a) ∧ only s t []))

/-! ## Exposure (R38–R51, R87, R390) -/

/-- R42, R44, R87, R108: a slot whose row set is free starts: its channel fires and is armed with the slot's end; it ends after its length:
the channel fires, the strobe is off, and its transfer is due. Neither fire sets a bit of INT_RAW. -/
def Obligations.SlotsStartAndEnd : Prop :=
  (∀ (s : State) (k : Fin 4) (r : SlotRun), s.slotRun k = some r → r.started = false → r.ended = false → s.slotBlocked r = false →
    goesOn (exec (.slotStart k) s) (fun t =>
      (∃ q, t.slotRun k = some q ∧ q.started = true ∧ q.ended = false ∧ q.start = max r.start s.now ∧ q.len = r.len) ∧
      t.get (R.CCj_STAT_FIRE (12 + k.val)) = 1 ∧ t.get (R.CCj_STAT_ARMED (12 + k.val)) = 1 ∧
      t.get (R.CCj_VAL_VAL (12 + k.val)) = (max r.start s.now - r.edge + r.len) % 2 ^ 32 ∧
      t.now = max s.now r.start ∧ only s t [(R.CCj_STAT_FIRE (12 + k.val)).reg, (R.CCj_VAL_VAL (12 + k.val)).reg])) ∧
  (∀ (s : State) (k : Fin 4) (r : SlotRun), s.slotRun k = some r → r.started = true → r.ended = false →
    goesOn (exec (.slotEnd k) s) (fun t =>
      (∃ q, t.slotRun k = some q ∧ q.ended = true ∧ q.lit = false) ∧ t.get (R.CCj_STAT_FIRE (12 + k.val)) = 1 ∧
      t.get (R.CCj_STAT_ARMED (12 + k.val)) = 0 ∧ t.reg (intRaw 0x016).reg = s.reg (intRaw 0x016).reg ∧
      (∃ x ∈ t.exp.xfers, x.slot = r.slot ∧ x.tickno = r.tickno ∧ x.tap = r.tap ∧ x.rowsets = r.rowsets ∧ x.dark = false) ∧
      t.now = max s.now (r.start + r.len) ∧ ∀ a, t.byte a = s.byte a))

/-- R40, R42, R390: a slot's strobe comes on in a started slot while strobes may be driven, and drives each of its lines from the line's own
trimmed and clipped time, in 100 ps; where they may
not, the suppression is told once for the line and nothing is driven. The strobe goes off, and with it every line that no other lit
slot drives. R38, R49: a transfer that has begun ends 200 ns later: the tap holds the line of each of its row sets, and MON_TX shows the time
from the tick edge, in whole 5 ns, at most 0x3FFFFF (the units and the rounding are logs 53 and 57, the largest value is log 117, the model's choices). A held transfer begins when readout of its pair has ended and none before it waits for its row set. -/
def Obligations.StrobesAndTransfers : Prop :=
  (∀ (s : State) (k : Fin 4) (r : SlotRun), s.slotRun k = some r → r.started = true → r.ended = false → r.strobed = false → r.chans ≠ 0 →
    (s.strobesOn = true → goesOn (exec (.strobeOn k) s) (fun t =>
      (∃ q, t.slotRun k = some q ∧ q.lit = true ∧ q.strobed = true) ∧
      (∀ c, c < 8 → bit r.chans c = true → (mapFind t.exp.chanOn c).isSome = true) ∧
      (∀ c, c < 8 → bit r.chans c = true → mapFind s.exp.chanOn c = none →
        mapFind t.exp.chanOn c = some (50 * r.start + (s.strobeClipped r c).1.toNat)) ∧ ∀ a, t.byte a = s.byte a)) ∧
    (s.strobesOn = false → s.lamp.suppressed ≠ some r.tickno → goesOn (exec (.strobeOn k) s) (fun t =>
      t.lamp.suppressed = some r.tickno ∧ told s t E.LAMP_STROBE_SUPPR ∧ t.exp.chanOn = s.exp.chanOn ∧
      only s t (toldRegs E.LAMP_STROBE_SUPPR)))) ∧
  (∀ (s : State) (k : Fin 4) (r : SlotRun), s.slotRun k = some r → r.lit = true → goesOn (exec (.strobeOff k) s) (fun t =>
    (∃ q, t.slotRun k = some q ∧ q.lit = false) ∧
    (∀ c, c < 8 → (∀ q ∈ s.exp.slots, q.slot ≠ k.val → q.lit = true → bit q.chans c = false) → mapFind t.exp.chanOn c = none) ∧
    ∀ a, t.byte a = s.byte a)) ∧
  (∀ (s : State) (k : Fin 4) (x : Xfer) (b : Nat), s.exp.xfers.find? (fun x => x.slot = k.val && x.begun.isSome) = some x → x.begun = some b →
    goesOn (exec (.transferDone k) s) (fun t =>
      (∀ rs ∈ x.rowsets, mapFind t.exp.taps (2 * x.tap + rs) = some { tickno := some x.tickno, since := b + 40, dark := x.dark }) ∧
      t.get (R.EXP_SLOTk_MON_TX_TIME k) = min 0x3FFFFF (b + 40 - x.edge) ∧ t.now = max s.now (b + 40) ∧ ∀ a, t.byte a = s.byte a)) ∧
  (∀ (s : State) (k : Fin 4) (x : Xfer) (pre rest : List Xfer), s.exp.xfers = pre ++ x :: rest → x.slot = k.val → x.held = true → x.begun = none →
    s.xferHeld x = false → (∀ y ∈ pre, shareRowset y.rowsets x.rowsets = false) → goesOn (exec (.heldTransferRelease k) s) (fun t =>
      { x with begun := some s.now } ∈ t.exp.xfers ∧ t.now = s.now ∧ ∀ a, t.byte a = s.byte a))

/-! ## Readout and the stackers (R59–R76) -/

/-- R61, R62, R73, R105: while the row clock runs a bank samples its next row and holds it; the line's slowest sample so far is what MON_RD shows once its last row
is sampled; a conversion's end frees the oldest held row and delivers it to its line. -/
def Obligations.RowsAreSampledAndDelivered : Prop :=
  (∀ (s : State) (b : Fin 4) (r : RowJob) (rest : List RowJob), s.rowRuns = true → (s.bankRun b).rows = r :: rest →
    goesOn (exec (.rowSample b) s) (fun t =>
      (t.bankRun b).rows = rest ∧ (∃ h, (t.bankRun b).held = (s.bankRun b).held ++ [h] ∧ h.job = r) ∧
      (∀ c, c < 4 → c ≠ b.val → t.bankRun c = s.bankRun c) ∧ s.now ≤ t.now ∧ ∀ a, t.byte a = s.byte a)) ∧
  (∀ (s : State) (b : Fin 4) (v : Nat) (dark cols : List (Nat × Nat)) (h : HeldRow) (rest : List HeldRow) (l : StackLine),
    s.rowRuns = true → (s.bankRun b).held = h :: rest → (∀ f ∈ s.rdo.frames, f.tickno ≠ h.job.tickno) →
    s.rdo.store.find? (fun l => l.tickno = h.job.tickno) = some l → goesOn (exec (.rowConversionDone b v dark cols) s) (fun t =>
      (t.bankRun b).held = rest ∧ (t.bankRun b).rows = (s.bankRun b).rows ∧
      (∃ q d, t.rdo.store.find? (fun l => l.tickno = h.job.tickno) = some q ∧ q.left = l.left - 1 ∧
        q.rows = l.rows ++ [(h.job.slot, h.job.row, d)]) ∧ t.now = max s.now (s.phaseTime h.cend) ∧ ∀ a, t.byte a = s.byte a))

/-! ## DDR4 and the exposure check (R46, R48, R228–R234) -/

/-- R46, R48, R228, R229, R231, R400: the check of a bank's slots shows the lowest code that applies and its slot and is no longer busy; the
controllers are shown ready, unless training or the march test has failed, which is a self-test item; a rank is refreshed no sooner than
its gap after the last time; a scrub burst moves on to the next burst; a single-bit error that it meets is corrected, counted and told,
an uncorrectable one leaves its beat poisoned and is counted and told. None changes a byte that memory holds. -/
def Obligations.CheckReadyRefreshAndScrub : Prop :=
  (∀ (s : State) (x : Fin 2), s.served 0x014 = true → goesOn (exec (.expBankCheck x) s) (fun t =>
    t.expCode x = (s.expCheck x).1 ∧ t.get (if x.val = 0 then R.EXP_CHECK_SLOT_A else R.EXP_CHECK_SLOT_B) = (s.expCheck x).2 ∧
    t.get (if x.val = 0 then R.EXP_CHECK_BUSY_A else R.EXP_CHECK_BUSY_B) = 0 ∧ t.expCode (1 - x.val) = s.expCode (1 - x.val) ∧
    ∀ a, t.byte a = s.byte a)) ∧
  (∀ s : State, s.dom dDDR = true → s.power ≠ pSTANDBY → s.pwr.off = false →
    goesOn (exec (.memReady 0 0) s) (fun t => t.on R.MEM_STAT_READY = true ∧ ∀ a, t.byte a = s.byte a) ∧
    (∀ train test : BitVec 4, train ≠ 0 → goesOn (exec (.memReady train test) s) (fun t =>
      t.on R.MEM_STAT_READY = s.on R.MEM_STAT_READY ∧ t.on ⟨R.SYS_SELFTEST_FAIL.reg, 4, 1⟩ = true)) ∧
    (∀ test : BitVec 4, test ≠ 0 → s.get R.SYS_STAT_LAST_RESET ≤ 1 → goesOn (exec (.memReady 0 test) s) (fun t =>
      t.on R.MEM_STAT_READY = s.on R.MEM_STAT_READY ∧ t.on ⟨R.SYS_SELFTEST_FAIL.reg, 5, 1⟩ = true))) ∧
  (∀ (s : State) (ch : Fin 4) (rank : Fin 2), s.ddrRuns = true → goesOn (exec (.refresh ch rank) s) (fun t =>
    mapFind t.memctl.refreshed (2 * ch.val + rank.val) = some t.now ∧ only s t [] ∧
    ∀ u, mapFind s.memctl.refreshed (2 * ch.val + rank.val) = some u → u + s.refreshGap ≤ t.now)) ∧
  (∀ (s : State) (xs ys : List Nat), s.on R.MEM_CTRL_SCRUB_EN = true → s.ddrRuns = true →
    goesOn (exec (.scrubBurst xs ys) s) (fun t =>
      t.memctl.scrubAt = (s.memctl.scrubAt + 1) % 2 ^ 31 ∧ t.get R.MEM_STAT_SCRUBBING = 1 ∧ ∀ a, t.byte a = s.byte a)) ∧
  (∀ (s : State) (beat : Fin 8) (bad : Bool), s.on R.MEM_CTRL_SCRUB_EN = true → s.ddrRuns = true → s.memctl.scrubAt < 2 ^ 31 →
    s.memctl.flips = [] → s.poison = [] →
    let k := 8 * s.memctl.scrubAt + beat.val
    goesOn (exec (.scrubBurst (if bad then [] else [k]) (if bad then [k] else [])) s) (fun t =>
      t.memctl.flips = [] ∧
      (bad = false → t.poison = [] ∧ t.get R.MEM_CE_CNT_COUNT = min (2 ^ 32 - 1) (s.get R.MEM_CE_CNT_COUNT + 1) ∧ told s t E.MEM_CE) ∧
      (bad = true → t.poison = [64 * s.memctl.scrubAt + 8 * beat.val] ∧
        t.get R.MEM_UE_CNT_COUNT = min (2 ^ 32 - 1) (s.get R.MEM_UE_CNT_COUNT + 1) ∧ told s t E.MEM_UE)))

/-! ## Courses and engines (R130–R151) -/

/-- R136, R138: a completed line is pushed to the Shingle's intake queue behind the lines that wait; with four occupied the oldest
waiting line is discarded as OVERRUN. R143: a faulted engine is released by a line of a later activation, which is the last of its queue, and
keeps a line of its own activation waiting. A proof line that is wanted and not held is fetched into the proof queue. -/
def Obligations.IntakeAndProofQueues : Prop :=
  (∀ (s : State) (sh : Fin 192) (q : StackLine) (l : Line), s.rdo.store.find? (fun l => bit l.push sh.val) = some q → s.lineOf q.tickno = some l →
    s.shOn sh = true → (s.engine sh).faulted = false →
    ((s.engine sh).intake.length + boolNat (s.engine sh).run.isSome < 4 → goesOn (exec (.intakePush sh) s) (fun t =>
      (∃ i, (t.engine sh).intake = (s.engine sh).intake ++ [i] ∧ i.tickno = q.tickno) ∧
      (∀ k, k ≠ sh.val → t.engine k = s.engine k) ∧ ∀ a, t.byte a = s.byte a)) ∧
    (∀ i rest, (s.engine sh).intake = i :: rest → 4 ≤ (s.engine sh).intake.length + boolNat (s.engine sh).run.isSome →
      goesOn (exec (.intakePush sh) s) (fun t =>
        (∃ j, (t.engine sh).intake = rest ++ [j] ∧ j.tickno = q.tickno) ∧ told s t (E.SH_OVERRUN sh) ∧
        t.get (R.SH_OVR_CNT_COUNT sh) = min (2 ^ 32 - 1) (s.get (R.SH_OVR_CNT_COUNT sh) + 1) ∧ ∀ a, t.byte a = s.byte a))) ∧
  (∀ (s : State) (sh : Fin 192) (q : StackLine) (l : Line), s.rdo.store.find? (fun l => bit l.push sh.val) = some q → s.lineOf q.tickno = some l →
    s.shOn sh = true → (s.engine sh).faulted = true →
    (l.act ≤ (s.engine sh).faultAct → (s.engine sh).intake.length + boolNat (s.engine sh).run.isSome < 4 →
      goesOn (exec (.intakePush sh) s) (fun t => (t.engine sh).faulted = true ∧
        (∃ i, (t.engine sh).intake = (s.engine sh).intake ++ [i] ∧ i.tickno = q.tickno) ∧ ∀ a, t.byte a = s.byte a)) ∧
    ((s.engine sh).faultAct < l.act → goesOn (exec (.intakePush sh) s) (fun t =>
      (t.engine sh).faulted = false ∧ (t.engine sh).restarted = true ∧ t.get (R.SH_FAULT_CODE sh) = 0 ∧ t.get (faultSum sh) = 0 ∧
      ∃ waiting i, (t.engine sh).intake = waiting ++ [i] ∧ i.tickno = q.tickno))) ∧
  (∀ (s : State) (sh : Fin 192) (lat : Nat) (k : Nat × Nat × Int), s.shOn sh = true → s.dom dDDR = true →
    ((s.proofPrune sh).proofWanted sh).find? (fun k => !((s.proofPrune sh).engine sh).proof.any (fun p => p.is k)) = some k →
    ((s.proofPrune sh).engine sh).proof.length < 8 → goesOn (exec (.proofLineFetch sh lat) s) (fun t =>
      (∃ p, (t.engine sh).proof = ((s.proofPrune sh).engine sh).proof ++ [p] ∧ p.is k = true) ∧
      (∀ j, j ≠ sh.val → t.engine j = s.engine j) ∧ ∀ a, t.byte a = s.byte a))

/-- What an engine holds when it has entered the kernel for a line at a word: PC, s1–s3, every other register 0, and the line's
number in the line descriptor; no other byte of memory has changed (R132, R157). -/
def entered (s t : State) (sh : Nat) (i : Intake) (l : Line) (init : Bool) (word : Nat) : Prop :=
  (∃ r, (t.engine sh).run = some r ∧ r.pc = word ∧ r.bank = l.bank ∧ r.init = init ∧ r.line = i) ∧
  (t.engine sh).s 1 = 0x3F000 ∧ (t.engine sh).s 2 = BitVec.ofNat 32 (kparamBase l.bank) ∧ (t.engine sh).s 3 = 0x14000 ∧
  (∀ k, 3 < k → (t.engine sh).s k = 0) ∧ (∀ k, (t.engine sh).v k = zeroV) ∧ (∀ k, (t.engine sh).acc k = zeroA) ∧
  (∀ k, 0 < k → (t.engine sh).p k = zeroP) ∧ leNat (t.bytes (trayBase sh + trayLineDesc) 8) = l.tickno % 2 ^ 64 ∧
  s.memSame t (trayBase sh + trayLineDesc) 64

/-- R132, R137, R157: where a line's entry conditions hold, the engine enters the bank's INIT if that is due, else the kernel, with the
register contents of Table 7-1 and the line descriptor in the tray. -/
def Obligations.EnginesEnterTheKernel : Prop :=
  ∀ (s : State) (sh : Fin 192) (t0 : Nat) (i : Intake) (l : Line) (w : List ProofEntry), s.entryLine sh = some (i, l, w) →
    (s.initWanted sh l = false → goesOn (exec (.kernelEntry sh t0) s) (fun t =>
      entered s t sh i l false (s.get (R.ENGG_x_ENTRY_WORD l.bank)) ∧ t.now = max s.now t0)) ∧
    (s.initWanted sh l = true → goesOn (exec (.initEntry sh t0) s) (fun t =>
      entered s t sh i l true (s.get (R.ENGG_x_INIT_WORD l.bank)) ∧ t.now = max s.now t0))

/-- R141–R143, R151: the watchdog aborts an invocation that has lasted its count of tick edges: it is counted and told, and the line is lost as
OVERRUN. RESTART releases a faulted engine; a write of SH_CTRL sets HALT and the monitors' settings; clearing the monitors empties them. R143,
R149, R150: a course whose power is asked for and whose domain is on starts with its 16 trays at 0 and its engines empty, a faulted one of them
released, so that its next line is entered with RESTARTED, and is shown and told. A write of
the course power bits keeps the bits of courses that the active or the pending bank uses and tells it, and switches off the others
whose bit it clears. -/
def Obligations.EnginesAndCoursesStopAndStart : Prop :=
  (∀ (s : State) (sh : Fin 192) (r : Run), (s.engine sh).run = some r → s.act R.ENGG_CLK_WDOG ≠ 0 → s.act R.ENGG_CLK_WDOG ≤ r.wdog →
    goesOn (exec (.watchdogAbort sh) s) (fun t =>
      (t.engine sh).run = none ∧ (t.engine sh).restarted = true ∧ told s t (E.SH_WDOG sh) ∧ told s t (E.SH_OVERRUN sh) ∧
      t.get (R.SH_WDOG_CNT_COUNT sh) = min (2 ^ 32 - 1) (s.get (R.SH_WDOG_CNT_COUNT sh) + 1) ∧ ∀ a, t.byte a = s.byte a)) ∧
  (∀ (s : State) (sh : Fin 192), s.served (0x200 + sh.val) = true → (s.engine sh).faulted = true →
    goesOn (exec (.engineRestart sh) s) (fun t =>
      (t.engine sh).faulted = false ∧ (t.engine sh).restarted = true ∧ t.get (R.SH_FAULT_CODE sh) = 0 ∧ t.get (faultSum sh) = 0 ∧
      (∀ k, k ≠ sh.val → t.engine k = s.engine k) ∧ ∀ a, t.byte a = s.byte a)) ∧
  (∀ (s : State) (sh : Fin 192) (v : Word), s.served (0x200 + sh.val) = true → goesOn (exec (.engineHalt sh v) s) (fun t =>
    t.get (R.SH_CTRL_HALT sh) = v.toNat / 2 % 2 ∧ t.get (R.SH_CTRL_MON_FREEZE sh) = v.toNat / 512 % 2 ∧
    t.get (R.SH_CTRL_WSHIFT sh) = v.toNat / 4096 % 16 ∧ only s t [(R.SH_CTRL_HALT sh).reg, (R.SH_STAT_STATE sh).reg])) ∧
  (∀ (s : State) (sh : Fin 192), s.served (0x200 + sh.val) = true → goesOn (exec (.shMonClr sh) s) (fun t =>
    (∀ m, m < 2 → t.get (R.SH_MONm_MIN_VAL sh m) = 0x7FFFFFFF ∧ t.get (R.SH_MONm_MAX_VAL sh m) = 0x80000000 ∧
      ∀ i, i < 16 → t.get (R.SH_MONm_BINi_COUNT sh m i) = 0) ∧ t.eng = s.eng ∧ ∀ a, t.byte a = s.byte a)) ∧
  (∀ (s : State) (c : Fin 12), s.dom (dCOURSE c) = true → bit (s.get R.ENGG_CTRL_COURSE_PWR) c = true → s.courseOn c = false →
    goesOn (exec (.courseOn c) s) (fun t =>
      t.courseOn c = true ∧ told s t E.ENGG_COURSE_ON ∧
      (∀ a, trayBase (16 * c.val) ≤ a → a < trayBase (16 * c.val + 16) → t.byte a = 0) ∧
      (∀ a, a < trayBase (16 * c.val) ∨ trayBase (16 * c.val + 16) ≤ a → t.byte a = s.byte a) ∧
      ∀ i, i < 16 → let e := t.engine (16 * c.val + i)
        e.run = none ∧ e.intake = [] ∧ e.proof = [] ∧ e.out = [] ∧ e.faulted = false ∧ e.initAct = none ∧
        ((s.engine (16 * c.val + i)).faulted = true → e.restarted = true))) ∧
  (∀ (s : State) (v : Word), s.served 0x019 = true →
    let used := (match s.job.active with | none => 0 | some x => maskCourses (s.smask x)) |||
      (match s.job.armed with | none => 0 | some x => maskCourses (s.smask x))
    goesOn (exec (.coursePwrWrite v) s) (fun t =>
      (∀ c, c < 12 → bit (t.get R.ENGG_CTRL_COURSE_PWR) c = (bit v.toNat c || (bit (s.get R.ENGG_CTRL_COURSE_PWR) c && bit used c))) ∧
      (∀ c, c < 12 → bit (s.get R.ENGG_CTRL_COURSE_PWR) c = true → bit v.toNat c = false → bit used c = false → t.dom (dCOURSE c) = false) ∧
      ((∃ c, c < 12 ∧ bit (s.get R.ENGG_CTRL_COURSE_PWR) c = true ∧ bit v.toNat c = false ∧ bit used c = true) →
        t.get (intRawBit E.ENGG_COURSE_REFUSED) = 1)))

/-! ## The Thatch kernels (R156–R172)

The word that a kernel command names issues where the Shingle's engine runs and that word is the one at its PC. -/

/-- The engine of a Shingle runs, the word at its PC is w, and the PC is not the last word's. -/
def running (s : State) (sh : Nat) (r : Run) (w : Nat) : Prop :=
  (s.engine sh).run = some r ∧ s.fetched sh r = w ∧ r.pc < 4095

/-- The vector slot beside a scalar command neither faults nor writes a scalar register. -/
def calmVector (s : State) (sh : Nat) (r : Run) (vec : Word) : Prop :=
  (s.vectorOut sh (s.engine sh) r vec.toNat).fault = none ∧ ∀ i w, (s.vectorOut sh (s.engine sh) r vec.toNat).dest ≠ .s i w

/-- The scalar slot beside a vector command neither faults nor stores nor ends the invocation. -/
def calmScalar (s : State) (sh : Nat) (r : Run) (scal : Word) : Prop :=
  (s.scalarOut sh (s.engine sh) r scal.toNat 0).fault = none ∧ (s.scalarOut sh (s.engine sh) r scal.toNat 0).stores = [] ∧
  (s.scalarOut sh (s.engine sh) r scal.toNat 0).ends = false

/-- The engine runs on at a PC, and it alone of the engines has changed. -/
def runsAt (s t : State) (sh pc : Nat) : Prop :=
  (∃ r, (t.engine sh).run = some r ∧ r.pc = pc) ∧ ∀ k, k ≠ sh → t.engine k = s.engine k

/-- No vector register, accumulator or predicate of an engine has changed. -/
def lanesKept (a b : Engine) : Prop := (∀ i, b.v i = a.v i) ∧ (∀ i, b.acc i = a.acc i) ∧ ∀ i, b.p i = a.p i

/-- A scalar result: s_d has the value, s0 stays 0, other scalar registers are unchanged; with VNOP beside it, so are the lanes and
every byte of memory. -/
def scalarResult (s t : State) (sh : Nat) (d : BitVec 5) (vec v : Word) : Prop :=
  (t.engine sh).s d.toNat = (if d = 0 then 0 else v) ∧ (∀ i, i ≠ d.toNat → (t.engine sh).s i = (s.engine sh).s i) ∧
  (vec = 0 → lanesKept (s.engine sh) (t.engine sh) ∧ ∀ a, t.byte a = s.byte a)

/-- The scalar commands on two registers: constructor, OP and result (Table 7-5). -/
def scalarRegOps : List ((Fin 192 → BitVec 5 → BitVec 5 → BitVec 5 → BitVec 11 → Word → Instr) × Nat × (Word → Word → Word)) := [
  (.add, 0x01, fun a b => a + b), (.sub, 0x02, fun a b => a - b), (.and, 0x03, fun a b => a &&& b), (.or, 0x04, fun a b => a ||| b),
  (.xor, 0x05, fun a b => a ^^^ b), (.shl, 0x06, fun a b => a <<< (b.toNat % 32)), (.shr, 0x07, fun a b => a >>> (b.toNat % 32)),
  (.sra, 0x08, fun a b => a.sshiftRight (b.toNat % 32)), (.mul, 0x09, fun a b => a * b),
  (.min, 0x0A, fun a b => if a.toInt ≤ b.toInt then a else b), (.max, 0x0B, fun a b => if a.toInt ≤ b.toInt then b else a)]

/-- R156, R163: ADD, SUB, AND, OR, XOR, SHL, SHR, SRA, MUL, MIN and MAX write their result on s_A and s_B to s_D, s0 staying 0, and
the next word follows. -/
def Obligations.ScalarRegisterCommands : Prop :=
  ∀ p ∈ scalarRegOps, ∀ (s : State) (sh : Fin 192) (d a b : BitVec 5) (vec : Word) (r : Run),
    running s sh r (wordOf (slotSR p.2.1 d a b 0) vec.toNat) → calmVector s sh r vec →
    goesOn (exec (p.1 sh d a b 0 vec) s) (fun t =>
      scalarResult s t sh d vec (p.2.2 ((s.engine sh).s a.toNat) ((s.engine sh).s b.toNat)) ∧ runsAt s t sh (r.pc + 1))

/-- The scalar commands on a register and an immediate, with the bits of the immediate that must be 0 (Table 7-5). -/
def scalarImmOps : List ((Fin 192 → BitVec 5 → BitVec 5 → BitVec 16 → Word → Instr) × Nat × Bool × (Word → BitVec 16 → Word)) := [
  (.addi, 0x10, false, fun a i => a + i.signExtend 32), (.andi, 0x11, false, fun a i => a &&& i.setWidth 32),
  (.ori, 0x12, false, fun a i => a ||| i.setWidth 32), (.shli, 0x13, true, fun a i => a <<< i.toNat),
  (.shri, 0x14, true, fun a i => a >>> i.toNat), (.srai, 0x15, true, fun a i => a.sshiftRight i.toNat)]

/-- R163: ADDI adds the sign-extended immediate, ANDI and ORI take it zero-extended, the shifts by an immediate of 0 to 31, LUI writes it to the
upper half; SNOP writes nothing. The next word follows. -/
def Obligations.ScalarImmediateCommands : Prop :=
  (∀ p ∈ scalarImmOps, ∀ (s : State) (sh : Fin 192) (d a : BitVec 5) (imm : BitVec 16) (vec : Word) (r : Run),
    (p.2.2.1 = true → imm.toNat < 32) → running s sh r (wordOf (slotSI p.2.1 d a imm) vec.toNat) → calmVector s sh r vec →
    goesOn (exec (p.1 sh d a imm vec) s) (fun t =>
      scalarResult s t sh d vec (p.2.2.2 ((s.engine sh).s a.toNat) imm) ∧ runsAt s t sh (r.pc + 1))) ∧
  (∀ (s : State) (sh : Fin 192) (d : BitVec 5) (imm : BitVec 16) (vec : Word) (r : Run),
    running s sh r (wordOf (slotSI 0x16 d 0 imm) vec.toNat) → calmVector s sh r vec → goesOn (exec (.lui sh d 0 imm vec) s) (fun t =>
      scalarResult s t sh d vec (imm.setWidth 32 <<< 16) ∧ runsAt s t sh (r.pc + 1))) ∧
  (∀ (s : State) (sh : Fin 192) (vec : Word) (r : Run), running s sh r (wordOf 0 vec.toNat) → calmVector s sh r vec →
    goesOn (exec (.snop sh 0 0 0 vec) s) (fun t =>
      (∀ i, (t.engine sh).s i = (s.engine sh).s i) ∧ runsAt s t sh (r.pc + 1) ∧
      (vec = 0 → lanesKept (s.engine sh) (t.engine sh) ∧ ∀ a, t.byte a = s.byte a)))

/-- The address of a scalar access: s_A plus the sign-extended immediate, 32 bits (R165). -/
def accessAt (e : Engine) (a : BitVec 5) (imm : BitVec 16) : Nat := (e.s a.toNat + imm.signExtend 32).toNat

/-- A scalar store: n bytes of s_D lie little-endian at the address, no register has changed, and with VNOP beside it no other byte of
memory. -/
def scalarStored (s t : State) (sh : Nat) (d : BitVec 5) (vec : Word) (at_ n : Nat) : Prop :=
  (vec = 0 → t.bytes at_ n = leBytes n ((s.engine sh).s d.toNat).toNat ∧ s.memSame t at_ n ∧ lanesKept (s.engine sh) (t.engine sh)) ∧
  ∀ i, (t.engine sh).s i = (s.engine sh).s i

/-- R163, R165: LDW, LDHU, LDBU read the Shingle's tray and LLW the loft, little-endian and zero-extended, into s_D; STW, STH, STB store the
low bytes of s_D to the tray and LSW the word to the loft. -/
def Obligations.ScalarAccesses : Prop :=
  (∀ p ∈ ([(.ldw, 0x18, 4), (.ldhu, 0x19, 2), (.ldbu, 0x1A, 1)] : List ((Fin 192 → BitVec 5 → BitVec 5 → BitVec 16 → Word → Instr) × Nat × Nat)),
    ∀ (s : State) (sh : Fin 192) (d a : BitVec 5) (imm : BitVec 16) (vec : Word) (r : Run),
    running s sh r (wordOf (slotSI p.2.1 d a imm) vec.toNat) → calmVector s sh r vec →
    trayFault false p.2.2 p.2.2 (accessAt (s.engine sh) a imm) = none → goesOn (exec (p.1 sh d a imm vec) s) (fun t =>
      scalarResult s t sh d vec (BitVec.ofNat 32 (leNat (s.bytes (trayBase sh + accessAt (s.engine sh) a imm) p.2.2))) ∧
      runsAt s t sh (r.pc + 1))) ∧
  (∀ (s : State) (sh : Fin 192) (d a : BitVec 5) (imm : BitVec 16) (vec : Word) (r : Run),
    running s sh r (wordOf (slotSI 0x1E d a imm) vec.toNat) → calmVector s sh r vec →
    s.loftFault r.bank sh false 4 4 (accessAt (s.engine sh) a imm) = none → goesOn (exec (.llw sh d a imm vec) s) (fun t =>
      scalarResult s t sh d vec (BitVec.ofNat 32 (leNat (s.bytes (s.loftAddr r.bank sh (accessAt (s.engine sh) a imm)) 4))) ∧
      runsAt s t sh (r.pc + 1))) ∧
  (∀ p ∈ ([(.stw, 0x1B, 4), (.sth, 0x1C, 2), (.stb, 0x1D, 1)] : List ((Fin 192 → BitVec 5 → BitVec 5 → BitVec 16 → Word → Instr) × Nat × Nat)),
    ∀ (s : State) (sh : Fin 192) (d a : BitVec 5) (imm : BitVec 16) (vec : Word) (r : Run),
    running s sh r (wordOf (slotSI p.2.1 d a imm) vec.toNat) → calmVector s sh r vec →
    trayFault true p.2.2 p.2.2 (accessAt (s.engine sh) a imm) = none → goesOn (exec (p.1 sh d a imm vec) s) (fun t =>
      scalarStored s t sh d vec (trayBase sh + accessAt (s.engine sh) a imm) p.2.2 ∧ runsAt s t sh (r.pc + 1))) ∧
  (∀ (s : State) (sh : Fin 192) (d a : BitVec 5) (imm : BitVec 16) (vec : Word) (r : Run),
    running s sh r (wordOf (slotSI 0x1F d a imm) vec.toNat) → calmVector s sh r vec →
    s.loftFault r.bank sh true 4 4 (accessAt (s.engine sh) a imm) = none → goesOn (exec (.lsw sh d a imm vec) s) (fun t =>
      scalarStored s t sh d vec (s.loftAddr r.bank sh (accessAt (s.engine sh) a imm)) 4 ∧ runsAt s t sh (r.pc + 1)))

/-- R159, R163: BEQ, BNE, BLT and BGE go to their target where the comparison of s_D with s_A holds, else to the next word; JAL writes the next word's number to
s_D and goes to its target; JR goes to the word that s_A names, which is below 4,096. -/
def Obligations.BranchesAndJumps : Prop :=
  (∀ p ∈ ([(.beq, 0x20, fun d a => decide (d = a)), (.bne, 0x21, fun d a => decide (d ≠ a)), (.blt, 0x22, fun d a => decide (d.toInt < a.toInt)),
      (.bge, 0x23, fun d a => decide (a.toInt ≤ d.toInt))] :
      List ((Fin 192 → BitVec 5 → BitVec 5 → BitVec 12 → BitVec 4 → Word → Instr) × Nat × (Word → Word → Bool))),
    ∀ (s : State) (sh : Fin 192) (d a : BitVec 5) (tgt : BitVec 12) (vec : Word) (r : Run),
    running s sh r (wordOf (slotSB p.2.1 d a tgt 0) vec.toNat) → calmVector s sh r vec → goesOn (exec (p.1 sh d a tgt 0 vec) s) (fun t =>
      runsAt s t sh (if p.2.2 ((s.engine sh).s d.toNat) ((s.engine sh).s a.toNat) then tgt.toNat else r.pc + 1) ∧
      (∀ i, (t.engine sh).s i = (s.engine sh).s i) ∧
      (vec = 0 → lanesKept (s.engine sh) (t.engine sh) ∧ ∀ x, t.byte x = s.byte x))) ∧
  (∀ (s : State) (sh : Fin 192) (d : BitVec 5) (tgt : BitVec 12) (vec : Word) (r : Run),
    running s sh r (wordOf (slotSB 0x24 d 0 tgt 0) vec.toNat) → calmVector s sh r vec → goesOn (exec (.jal sh d 0 tgt 0 vec) s) (fun t =>
      runsAt s t sh tgt.toNat ∧ scalarResult s t sh d vec (BitVec.ofNat 32 (r.pc + 1)))) ∧
  (∀ (s : State) (sh : Fin 192) (a : BitVec 5) (vec : Word) (r : Run),
    running s sh r (wordOf (slotSI 0x25 0 a 0) vec.toNat) → calmVector s sh r vec → ((s.engine sh).s a.toNat).toNat < 4096 →
    goesOn (exec (.jr sh 0 a 0 vec) s) (fun t =>
      runsAt s t sh ((s.engine sh).s a.toNat).toNat ∧ (∀ i, (t.engine sh).s i = (s.engine sh).s i)))

/-- R139, R163, R167–R170: GETS gives the cycles since the entry, what BUDGET leaves, OUTSTAT, the loft accesses that are outstanding (at most 8), and 0 for the other
selectors (the cycles that a loft access takes are log 66); EMIT appends 64 bytes of the tray to the line's output, claiming an output entry first; with no
entry free the claim fails, which is counted and told as OUTPUT_FULL, and this and every later EMIT is discarded; the 33rd of a line is discarded and counted and
sets TRUNC, told once; in an INIT run EMIT has no effect. END of the line's own invocation leaves the engine with the line as its last and its output entry
queued, or none where the claim failed; END of an INIT run is followed by the line's own invocation. -/
def Obligations.KernelServices : Prop :=
  (∀ (s : State) (sh : Fin 192) (d : BitVec 5) (imm : BitVec 16) (vec : Word) (r : Run),
    running s sh r (wordOf (slotSI 0x26 d 0 imm) vec.toNat) → calmVector s sh r vec → goesOn (exec (.gets sh d 0 imm vec) s) (fun t =>
      let c := (s.issueAt r (slotSI 0x26 d 0 imm) vec.toNat).1
      runsAt s t sh (r.pc + 1) ∧
      (imm = 0 → scalarResult s t sh d vec (BitVec.ofNat 32 (16 + c))) ∧
      (imm = 1 → scalarResult s t sh d vec (BitVec.ofInt 32 (r.budget - (16 + c : Nat)))) ∧
      (imm = 2 → scalarResult s t sh d vec (BitVec.ofNat 32 r.outStat)) ∧
      (imm = 3 → ((t.engine sh).s d.toNat).toNat ≤ 8 ∧
        scalarResult s t sh d vec (BitVec.ofNat 32 (min 8 (r.loft.filter (c < ·)).length))) ∧ (4 ≤ imm.toNat → scalarResult s t sh d vec 0))) ∧
  (∀ (s : State) (sh : Fin 192) (a : BitVec 5) (imm : BitVec 16) (r : Run),
    running s sh r (wordOf (slotSI 0x27 0 a imm) 0) → trayFault false 64 64 (accessAt (s.engine sh) a imm) = none → r.init = false →
    r.claimFail = false → r.claimed = true ∨ (s.engine sh).out.length < 4 → r.out.emits.length < 32 →
    goesOn (exec (.emit sh 0 a imm 0) s) (fun t =>
      (∃ q, (t.engine sh).run = some q ∧ q.pc = r.pc + 1 ∧ q.claimed = true ∧
        q.out.emits = r.out.emits ++ [s.bytes (trayBase sh + accessAt (s.engine sh) a imm) 64]) ∧
      (∀ i, (t.engine sh).s i = (s.engine sh).s i) ∧ lanesKept (s.engine sh) (t.engine sh) ∧ ∀ x, t.byte x = s.byte x)) ∧
  (∀ (s : State) (sh : Fin 192) (a : BitVec 5) (imm : BitVec 16) (r : Run),
    running s sh r (wordOf (slotSI 0x27 0 a imm) 0) → trayFault false 64 64 (accessAt (s.engine sh) a imm) = none →
    (r.init = true → goesOn (exec (.emit sh 0 a imm 0) s) (fun t =>
      (∃ q, (t.engine sh).run = some q ∧ q.pc = r.pc + 1 ∧ q.out = r.out ∧ q.claimed = r.claimed ∧ q.claimFail = r.claimFail) ∧
      t.get (R.SH_OFULL_CNT_COUNT sh) = s.get (R.SH_OFULL_CNT_COUNT sh) ∧ ∀ x, t.byte x = s.byte x)) ∧
    (r.init = false → r.claimFail = true → goesOn (exec (.emit sh 0 a imm 0) s) (fun t =>
      (∃ q, (t.engine sh).run = some q ∧ q.pc = r.pc + 1 ∧ q.out = r.out ∧ q.claimFail = true) ∧
      t.get (R.SH_OFULL_CNT_COUNT sh) = s.get (R.SH_OFULL_CNT_COUNT sh) ∧ ∀ x, t.byte x = s.byte x)) ∧
    (r.init = false → r.claimFail = false → r.claimed = false → 4 ≤ (s.engine sh).out.length → goesOn (exec (.emit sh 0 a imm 0) s) (fun t =>
      (∃ q, (t.engine sh).run = some q ∧ q.pc = r.pc + 1 ∧ q.out = r.out ∧ q.claimed = false ∧ q.claimFail = true) ∧
      told s t (E.SH_OUTPUT_FULL sh) ∧ t.get (R.SH_OFULL_CNT_COUNT sh) = min (2 ^ 32 - 1) (s.get (R.SH_OFULL_CNT_COUNT sh) + 1) ∧
      ∀ x, t.byte x = s.byte x)) ∧
    (r.init = false → r.claimFail = false → r.claimed = true → 32 ≤ r.out.emits.length → goesOn (exec (.emit sh 0 a imm 0) s) (fun t =>
      (∃ q, (t.engine sh).run = some q ∧ q.pc = r.pc + 1 ∧ q.out = { r.out with trunc := true }) ∧
      (r.recDropped = false → told s t (E.SH_REC_DROP sh)) ∧
      t.get (R.SH_RDROP_CNT_COUNT sh) = min (2 ^ 32 - 1) (s.get (R.SH_RDROP_CNT_COUNT sh) + 1) ∧ ∀ x, t.byte x = s.byte x))) ∧
  (∀ (s : State) (sh : Fin 192) (r : Run) (l : Line), running s sh r (wordOf 0x28 0) → s.lineOf r.line.tickno = some l → r.init = false →
    r.claimFail = false → r.claimed = false → 4 ≤ (s.engine sh).out.length → goesOn (exec (.endRun sh 0 0 0 0) s) (fun t =>
      (t.engine sh).run = none ∧ (t.engine sh).lastTick = some r.line.tickno ∧ (t.engine sh).out = (s.engine sh).out ∧
      t.get (R.SH_OFULL_CNT_COUNT sh) = min (2 ^ 32 - 1) (s.get (R.SH_OFULL_CNT_COUNT sh) + 1) ∧ ∀ x, t.byte x = s.byte x)) ∧
  (∀ (s : State) (sh : Fin 192) (r : Run) (l : Line), running s sh r (wordOf 0x28 0) → s.lineOf r.line.tickno = some l → r.init = false →
    r.claimFail = false → r.claimed = true ∨ (s.engine sh).out.length < 4 → goesOn (exec (.endRun sh 0 0 0 0) s) (fun t =>
      (t.engine sh).run = none ∧ (t.engine sh).lastTick = some r.line.tickno ∧
      (∃ o, (t.engine sh).out = (s.engine sh).out ++ [o] ∧ o.tickno = r.line.tickno ∧ o.emits = r.out.emits) ∧
      (∀ i, (t.engine sh).s i = (s.engine sh).s i) ∧ lanesKept (s.engine sh) (t.engine sh) ∧ ∀ x, t.byte x = s.byte x)) ∧
  (∀ (s : State) (sh : Fin 192) (r : Run) (l : Line), running s sh r (wordOf 0x28 0) → s.lineOf r.line.tickno = some l → r.init = true →
    goesOn (exec (.endRun sh 0 0 0 0) s) (fun t =>
      (∃ q, (t.engine sh).run = some q ∧ q.init = false ∧ q.line = r.line ∧ q.pc = s.get (R.ENGG_x_ENTRY_WORD l.bank)) ∧
      (t.engine sh).initAct = some l.act ∧ s.memSame t (trayBase sh + trayLineDesc) 64))

/-- Lane l of a vector register; of the B operand, a scalar register's low half in every lane with BS = 1; whether a lane is enabled. -/
def lane (e : Engine) (i : BitVec 5) (l : Nat) : Half := (e.v i.toNat).getD l 0
def laneB (e : Engine) (vb : BitVec 5) (bs : Bool) (l : Nat) : Half := if bs then (e.s vb.toNat).setWidth 16 else lane e vb l
def laneOn (e : Engine) (vp : BitVec 3) (vpn : Bool) (l : Nat) : Bool := (e.p vp.toNat).getD l false != vpn

/-- A lane result: the value in the enabled lanes, the old one elsewhere. -/
def laned {α : Type} (on : Nat → Bool) (old : List α) (d : α) (f : Nat → α) : List α :=
  (List.range 144).map (fun l => if on l then f l else old.getD l d)

/-- A vector result: v_d has the value, no other vector register, no accumulator and no predicate has changed, and with SNOP beside it no
scalar register and no byte of memory. -/
def vectorResult (s t : State) (sh : Nat) (d : BitVec 5) (scal : Word) (v : List Half) : Prop :=
  (t.engine sh).v d.toNat = v ∧ (∀ i, i ≠ d.toNat → (t.engine sh).v i = (s.engine sh).v i) ∧
  (∀ i, (t.engine sh).acc i = (s.engine sh).acc i) ∧ (∀ i, (t.engine sh).p i = (s.engine sh).p i) ∧
  (scal = 0 → (∀ i, (t.engine sh).s i = (s.engine sh).s i) ∧ (∀ a, t.byte a = s.byte a) ∧ runsAt s t sh ((s.engine sh).run.elim 0 Run.pc + 1))

/-- Saturation to 16 and 32 bits, and the rounding shift of R164. -/
def saturate (w : Nat) (x : Int) : BitVec w := BitVec.ofInt w (max (-2 ^ (w - 1)) (min (2 ^ (w - 1) - 1) x))
def roundShift (x : Int) (k : Nat) : Int := if k = 0 then x else (x + 2 ^ (k - 1)) / 2 ^ k

abbrev VectorCommand := Fin 192 → BitVec 5 → BitVec 5 → BitVec 5 → BitVec 3 → Bool → Bool → BitVec 6 → Word → Instr

/-- The lane-wise vector commands: constructor, VOP, result of lane A, lane B and K (Table 7-6). -/
def laneOps : List (VectorCommand × Nat × (Half → Half → Nat → Half)) := [
  (.vadd, 0x01, fun a b _ => a + b), (.vsub, 0x02, fun a b _ => a - b), (.vadds, 0x03, fun a b _ => saturate 16 (a.toInt + b.toInt)),
  (.vsubs, 0x04, fun a b _ => saturate 16 (a.toInt - b.toInt)), (.vsubus, 0x05, fun a b _ => BitVec.ofNat 16 (a.toNat - b.toNat)),
  (.vabsd, 0x06, fun a b _ => BitVec.ofNat 16 (max a.toNat b.toNat - min a.toNat b.toNat)),
  (.vmin, 0x07, fun a b _ => if a.toInt ≤ b.toInt then a else b), (.vmax, 0x08, fun a b _ => if a.toInt ≤ b.toInt then b else a),
  (.vand, 0x09, fun a b _ => a &&& b), (.vor, 0x0A, fun a b _ => a ||| b), (.vshl, 0x0B, fun a _ k => a <<< k),
  (.vshr, 0x0C, fun a _ k => a >>> k), (.vsra, 0x0D, fun a _ k => a.sshiftRight k),
  (.vmulq, 0x0E, fun a b k => saturate 16 (roundShift (a.toInt * b.toInt) (min 31 k)))]

/-- R160, R161, R164: the lane-wise commands write their result on lanes of v_A and B to the enabled lanes of v_D. -/
def Obligations.VectorLaneCommands : Prop :=
  ∀ p ∈ laneOps, ∀ (s : State) (sh : Fin 192) (vd va vb : BitVec 5) (vp : BitVec 3) (vpn bs : Bool) (k : BitVec 6) (scal : Word) (r : Run),
    running s sh r (wordOf scal.toNat (slotV p.2.1 vd va vb vp vpn bs k)) → calmScalar s sh r scal →
    goesOn (exec (p.1 sh vd va vb vp vpn bs k scal) s) (fun t =>
      let e := s.engine sh
      vectorResult s t sh vd scal
        (laned (laneOn e vp vpn) (e.v vd.toNat) 0 (fun l => p.2.2 (lane e va l) (laneB e vb bs l) k.toNat)))

/-- R161, R164: VSEL takes A in the enabled lanes and B in the others; VIOTA writes lane numbers; VLSH moves lanes by K, or by s_B
with BS = 1, repeating the end lanes; VLERP interpolates between a lane and the one above it; VNOP writes nothing. -/
def Obligations.VectorMoveCommands : Prop :=
  ∀ (s : State) (sh : Fin 192) (vd va vb : BitVec 5) (vp : BitVec 3) (vpn bs : Bool) (k : BitVec 6) (scal : Word) (r : Run),
    calmScalar s sh r scal →
    let e := s.engine sh
    let on := laneOn e vp vpn
    let old := e.v vd.toNat
    (running s sh r (wordOf scal.toNat (slotV 0x10 vd va vb vp vpn bs k)) → goesOn (exec (.vsel sh vd va vb vp vpn bs k scal) s) (fun t =>
      vectorResult s t sh vd scal ((List.range 144).map (fun l => if on l then lane e va l else laneB e vb bs l)))) ∧
    (running s sh r (wordOf scal.toNat (slotV 0x11 vd va vb vp vpn bs k)) → goesOn (exec (.viota sh vd va vb vp vpn bs k scal) s) (fun t =>
      vectorResult s t sh vd scal (laned on old 0 (fun l => BitVec.ofNat 16 l)))) ∧
    (running s sh r (wordOf scal.toNat (slotV 0x12 vd va vb vp vpn bs k)) → goesOn (exec (.vlsh sh vd va vb vp vpn bs k scal) s) (fun t =>
      let n : Int := if bs then max (-143) (min 143 (e.s vb.toNat).toInt) else k.toInt
      vectorResult s t sh vd scal (laned on old 0 (fun l => lane e va (max 0 (min 143 ((l : Int) - n))).toNat)))) ∧
    (running s sh r (wordOf scal.toNat (slotV 0x13 vd va vb vp vpn bs k)) → goesOn (exec (.vlerp sh vd va vb vp vpn bs k scal) s) (fun t =>
      let f : Int := if bs then ((e.s vb.toNat).toNat % 256 : Nat) else (4 * k.toNat : Nat)
      vectorResult s t sh vd scal (laned on old 0 (fun l => BitVec.ofInt 16
        (roundShift ((lane e va l).toInt * (256 - f) + (lane e va (min (l + 1) 143)).toInt * f) 8))))) ∧
    (running s sh r (wordOf scal.toNat 0) → goesOn (exec (.vnop sh 0 0 0 0 false false 0 scal) s) (fun t =>
      lanesKept e (t.engine sh) ∧ (scal = 0 → (∀ i, (t.engine sh).s i = e.s i) ∧ ∀ a, t.byte a = s.byte a)))

/-- A predicate result: p_d has the value where d is not 0, p0 stays all ones, no other predicate, vector register or accumulator has changed. -/
def predicateResult (s t : State) (sh : Nat) (d : BitVec 5) (scal : Word) (v : List Bool) : Prop :=
  (d ≠ 0 → (t.engine sh).p d.toNat = v) ∧ (∀ i, d = 0 ∨ i ≠ d.toNat → (t.engine sh).p i = (s.engine sh).p i) ∧
  (∀ i, (t.engine sh).v i = (s.engine sh).v i) ∧ (∀ i, (t.engine sh).acc i = (s.engine sh).acc i) ∧
  (scal = 0 → (∀ i, (t.engine sh).s i = (s.engine sh).s i) ∧ ∀ a, t.byte a = s.byte a)

/-- R156, R160, R164: VCMPEQ, VCMPLT and VCMPGT write the comparison of lanes, signed where it orders, and PAND, POR and PANDN the combination of two
predicates, to the enabled lanes of p_D; p0 stays all ones. -/
def Obligations.PredicateCommands : Prop :=
  (∀ p ∈ ([(.vcmpeq, 0x14, fun a b => decide (a = b)), (.vcmplt, 0x15, fun a b => decide (a.toInt < b.toInt)),
      (.vcmpgt, 0x16, fun a b => decide (b.toInt < a.toInt))] : List (VectorCommand × Nat × (Half → Half → Bool))),
    ∀ (s : State) (sh : Fin 192) (vd va vb : BitVec 5) (vp : BitVec 3) (vpn bs : Bool) (k : BitVec 6) (scal : Word) (r : Run), vd.toNat < 8 →
    running s sh r (wordOf scal.toNat (slotV p.2.1 vd va vb vp vpn bs k)) → calmScalar s sh r scal →
    goesOn (exec (p.1 sh vd va vb vp vpn bs k scal) s) (fun t =>
      let e := s.engine sh
      predicateResult s t sh vd scal (laned (laneOn e vp vpn) (e.p vd.toNat) false (fun l => p.2.2 (lane e va l) (laneB e vb bs l))))) ∧
  (∀ p ∈ ([(.pand, 0x17, fun a b => a && b), (.por, 0x18, fun a b => a || b), (.pandn, 0x19, fun a b => a && !b)] :
      List (VectorCommand × Nat × (Bool → Bool → Bool))),
    ∀ (s : State) (sh : Fin 192) (vd va vb : BitVec 5) (vp : BitVec 3) (vpn bs : Bool) (k : BitVec 6) (scal : Word) (r : Run),
    vd.toNat < 8 → va.toNat < 8 → vb.toNat < 8 →
    running s sh r (wordOf scal.toNat (slotV p.2.1 vd va vb vp vpn bs k)) → calmScalar s sh r scal →
    goesOn (exec (p.1 sh vd va vb vp vpn bs k scal) s) (fun t =>
      let e := s.engine sh
      predicateResult s t sh vd scal (laned (laneOn e vp vpn) (e.p vd.toNat) false
        (fun l => p.2.2 ((e.p va.toNat).getD l false) ((e.p vb.toNat).getD l false)))))

/-- An accumulator result: acc_d has the value; no other accumulator, no vector register and no predicate has changed. -/
def accumulatorResult (s t : State) (sh : Nat) (d : BitVec 5) (scal : Word) (v : List Word) : Prop :=
  (t.engine sh).acc d.toNat = v ∧ (∀ i, i ≠ d.toNat → (t.engine sh).acc i = (s.engine sh).acc i) ∧
  (∀ i, (t.engine sh).v i = (s.engine sh).v i) ∧ (∀ i, (t.engine sh).p i = (s.engine sh).p i) ∧
  (scal = 0 → (∀ i, (t.engine sh).s i = (s.engine sh).s i) ∧ ∀ a, t.byte a = s.byte a)

/-- R156, R164: VMAC adds the product and VACC the shifted lane to the accumulator, saturated to 32 bits; VACLR clears it; VACX
extracts it, shifted with rounding and saturated to 16 bits. -/
def Obligations.AccumulatorCommands : Prop :=
  ∀ (s : State) (sh : Fin 192) (vd va vb : BitVec 5) (vp : BitVec 3) (vpn bs : Bool) (k : BitVec 6) (scal : Word) (r : Run),
    calmScalar s sh r scal →
    let e := s.engine sh
    let on := laneOn e vp vpn
    let old := e.acc vd.toNat
    (vd.toNat < 4 →
      (running s sh r (wordOf scal.toNat (slotV 0x1C vd va vb vp vpn bs k)) → goesOn (exec (.vmac sh vd va vb vp vpn bs k scal) s) (fun t =>
        accumulatorResult s t sh vd scal (laned on old 0 (fun l =>
          saturate 32 ((old.getD l 0).toInt + (lane e va l).toInt * (laneB e vb bs l).toInt))))) ∧
      (running s sh r (wordOf scal.toNat (slotV 0x1D vd va vb vp vpn bs k)) → goesOn (exec (.vacc sh vd va vb vp vpn bs k scal) s) (fun t =>
        accumulatorResult s t sh vd scal (laned on old 0 (fun l =>
          saturate 32 ((old.getD l 0).toInt + (lane e va l).toInt * 2 ^ (min 15 k.toNat)))))) ∧
      (running s sh r (wordOf scal.toNat (slotV 0x1E vd va vb vp vpn bs k)) → goesOn (exec (.vaclr sh vd va vb vp vpn bs k scal) s) (fun t =>
        accumulatorResult s t sh vd scal (laned on old 0 (fun _ => 0))))) ∧
    (va.toNat < 4 → running s sh r (wordOf scal.toNat (slotV 0x1F vd va vb vp vpn bs k)) →
      goesOn (exec (.vacx sh vd va vb vp vpn bs k scal) s) (fun t =>
        vectorResult s t sh vd scal (laned on (e.v vd.toNat) 0 (fun l =>
          saturate 16 (roundShift ((e.acc va.toNat).getD l 0).toInt (min 31 k.toNat))))))

/-- R164: PCNT counts the enabled lanes where p_A is 1 and PFIRST names the first of them, 144 for none; VRSUM and VRMAX reduce the enabled
lanes of v_A, signed; VEXT gives the lane that s_B names, sign-extended, 0 past the last. The result goes to s_VD. -/
def Obligations.ReductionCommands : Prop :=
  ∀ (s : State) (sh : Fin 192) (vd va vb : BitVec 5) (vp : BitVec 3) (vpn bs : Bool) (k : BitVec 6) (r : Run),
    let e := s.engine sh
    let on := laneOn e vp vpn
    let lanesOn := (List.range 144).filter on
    let done (c : Instr) (op : Nat) (v : Word) := running s sh r (wordOf 0 (slotV op vd va vb vp vpn bs k)) → goesOn (exec c s) (fun t =>
      (t.engine sh).s vd.toNat = (if vd = 0 then 0 else v) ∧ (∀ i, i ≠ vd.toNat → (t.engine sh).s i = e.s i) ∧
      lanesKept e (t.engine sh) ∧ runsAt s t sh (r.pc + 1) ∧ ∀ a, t.byte a = s.byte a)
    (va.toNat < 8 →
      done (.pcnt sh vd va vb vp vpn bs k 0) 0x1A (BitVec.ofNat 32 (lanesOn.filter (fun l => (e.p va.toNat).getD l false)).length) ∧
      done (.pfirst sh vd va vb vp vpn bs k 0) 0x1B
        (BitVec.ofNat 32 ((lanesOn.filter (fun l => (e.p va.toNat).getD l false)).head?.getD 144))) ∧
    done (.vrsum sh vd va vb vp vpn bs k 0) 0x20 (saturate 32 ((lanesOn.map (fun l => (lane e va l).toInt)).foldl (· + ·) 0)) ∧
    done (.vrmax sh vd va vb vp vpn bs k 0) 0x21 (BitVec.ofInt 32 ((lanesOn.map (fun l => (lane e va l).toInt)).foldl max (-32768))) ∧
    (bs = false → done (.vext sh vd va vb vp vpn bs k 0) 0x22
      (if 144 ≤ (e.s vb.toNat).toNat then 0 else (lane e va (e.s vb.toNat).toNat).signExtend 32))

/-- A 16-bit number in memory, low byte first. -/
def halfIn (s : State) (a : Nat) : Half := BitVec.ofNat 16 ((s.byte a).toNat + 256 * (s.byte (a + 1)).toNat)

/-- The address of a vector access: s_VB plus n·K, 32 bits (R165). -/
def vectorAt (e : Engine) (vb : BitVec 5) (k : BitVec 6) (n : Nat) : Nat := (e.s vb.toNat + BitVec.ofNat 32 (n * k.toNat)).toNat

/-- R139, R165–R167: VLD and VLDB read lanes of 16 and 8 bits from the tray, VLDL from the loft; VIN gives the stacked sample of a slot and band,
VPRF the proof byte of a window line and band; the enabled lanes of v_D take them. VST and VSTL store the enabled lanes of v_A to the tray and
the loft and leave the bytes of the other lanes and every other byte of memory; VDEV writes the enabled owned lanes to a band of the line's
development block, the first of a line claiming the output entry, whose block then holds slot 0's stacked line; with no entry free, and in an INIT run,
it writes nothing; these change no register. -/
def Obligations.VectorAccesses : Prop :=
  (∀ (s : State) (sh : Fin 192) (vd va vb : BitVec 5) (vp : BitVec 3) (vpn : Bool) (k : BitVec 6) (scal : Word) (r : Run),
    calmScalar s sh r scal →
    let e := s.engine sh
    let res (t : State) (f : Nat → Half) := vectorResult s t sh vd scal (laned (laneOn e vp vpn) (e.v vd.toNat) 0 f)
    (trayFault false 16 288 (vectorAt e vb k 288) = none → running s sh r (wordOf scal.toNat (slotV 0x24 vd va vb vp vpn false k)) →
      goesOn (exec (.vld sh vd va vb vp vpn false k scal) s) (fun t =>
        res t (fun l => halfIn s (trayBase sh + vectorAt e vb k 288 + 2 * l)))) ∧
    (trayFault false 16 144 (vectorAt e vb k 144) = none → running s sh r (wordOf scal.toNat (slotV 0x26 vd va vb vp vpn false k)) →
      goesOn (exec (.vldb sh vd va vb vp vpn false k scal) s) (fun t =>
        res t (fun l => (s.byte (trayBase sh + vectorAt e vb k 144 + l)).setWidth 16))) ∧
    (s.loftFault r.bank sh false 16 288 (vectorAt e vb k 288) = none → running s sh r (wordOf scal.toNat (slotV 0x27 vd va vb vp vpn false k)) →
      goesOn (exec (.vldl sh vd va vb vp vpn false k scal) s) (fun t =>
        res t (fun l => halfIn s (s.loftAddr r.bank sh (vectorAt e vb k 288) + 2 * l)))) ∧
    (∀ bs : Bool, k.toNat < 16 → running s sh r (wordOf scal.toNat (slotV 0x2C vd va vb vp vpn bs k)) →
      goesOn (exec (.vin sh vd va vb vp vpn bs k scal) s) (fun t => res t (r.sample sh (k.toNat / 4) (k.toNat % 4)))) ∧
    (∀ bs : Bool, k.toNat < 12 → running s sh r (wordOf scal.toNat (slotV 0x2D vd va vb vp vpn bs k)) →
      goesOn (exec (.vprf sh vd va vb vp vpn bs k scal) s) (fun t => res t (r.proofByte (k.toNat / 4) (k.toNat % 4))))) ∧
  (∀ (s : State) (sh : Fin 192) (vd va vb : BitVec 5) (vp : BitVec 3) (vpn : Bool) (k : BitVec 6) (r : Run),
    let e := s.engine sh
    let on := laneOn e vp vpn
    let stored (t : State) (at_ : Nat) :=
      (∀ l, l < 144 → halfIn t (at_ + 2 * l) = if on l then lane e va l else halfIn s (at_ + 2 * l)) ∧ s.memSame t at_ 288 ∧
      (∀ i, (t.engine sh).s i = e.s i) ∧ lanesKept e (t.engine sh) ∧ runsAt s t sh (r.pc + 1)
    (trayFault true 16 288 (vectorAt e vb k 288) = none → running s sh r (wordOf 0 (slotV 0x25 vd va vb vp vpn false k)) →
      goesOn (exec (.vst sh vd va vb vp vpn false k 0) s) (fun t => stored t (trayBase sh + vectorAt e vb k 288))) ∧
    (s.loftFault r.bank sh true 16 288 (vectorAt e vb k 288) = none → running s sh r (wordOf 0 (slotV 0x28 vd va vb vp vpn false k)) →
      goesOn (exec (.vstl sh vd va vb vp vpn false k 0) s) (fun t => stored t (s.loftAddr r.bank sh (vectorAt e vb k 288)))) ∧
    (∀ bs : Bool, k.toNat < 16 → running s sh r (wordOf 0 (slotV 0x2E vd va vb vp vpn bs k)) → r.init = false → r.claimed = true →
      r.claimFail = false → (mapGet [] r.out.dev (k.toNat % 4)).length = 128 → goesOn (exec (.vdev sh vd va vb vp vpn bs k 0) s) (fun t =>
        (∃ q, (t.engine sh).run = some q ∧ q.pc = r.pc + 1 ∧ ∀ j, j < 128 → (mapGet [] q.out.dev (k.toNat % 4)).getD j 0 =
          if on (j + 8) then (lane e va (j + 8)).toNat else (mapGet [] r.out.dev (k.toNat % 4)).getD j 0) ∧
        (∀ i, (t.engine sh).s i = e.s i) ∧ lanesKept e (t.engine sh) ∧ ∀ a, t.byte a = s.byte a)) ∧
    (∀ bs : Bool, k.toNat < 16 → running s sh r (wordOf 0 (slotV 0x2E vd va vb vp vpn bs k)) →
      (r.init = false → r.claimed = false → r.claimFail = false → (s.engine sh).out.length < 4 →
        goesOn (exec (.vdev sh vd va vb vp vpn bs k 0) s) (fun t =>
          (∃ q, (t.engine sh).run = some q ∧ q.pc = r.pc + 1 ∧ q.claimed = true ∧ q.claimFail = false ∧ q.out.emits = r.out.emits ∧
            (∀ j, j < 128 → (mapGet [] q.out.dev (k.toNat % 4)).getD j 0 =
              if on (j + 8) then (lane e va (j + 8)).toNat else (mapGet [] (s.devDefault sh r.line) (k.toNat % 4)).getD j 0) ∧
            ∀ b, b < 4 → b ≠ k.toNat % 4 → mapGet [] q.out.dev b = mapGet [] (s.devDefault sh r.line) b) ∧
          (∀ i, (t.engine sh).s i = e.s i) ∧ lanesKept e (t.engine sh) ∧ ∀ a, t.byte a = s.byte a)) ∧
      (r.init = false → r.claimed = false → r.claimFail = false → 4 ≤ (s.engine sh).out.length →
        goesOn (exec (.vdev sh vd va vb vp vpn bs k 0) s) (fun t =>
          (∃ q, (t.engine sh).run = some q ∧ q.pc = r.pc + 1 ∧ q.claimed = false ∧ q.claimFail = true ∧ q.out = r.out) ∧
          told s t (E.SH_OUTPUT_FULL sh) ∧ ∀ a, t.byte a = s.byte a)) ∧
      (r.init = true → goesOn (exec (.vdev sh vd va vb vp vpn bs k 0) s) (fun t =>
        (∃ q, (t.engine sh).run = some q ∧ q.pc = r.pc + 1 ∧ q.claimed = r.claimed ∧ q.claimFail = r.claimFail ∧ q.out = r.out) ∧
        ∀ a, t.byte a = s.byte a))))

/-- The engine has faulted: code and word are recorded, it runs no more, its line is lost as OVERRUN, and the fault is told (R142). -/
def faultedWith (s t : State) (sh code pc : Nat) : Prop :=
  (t.engine sh).faulted = true ∧ (t.engine sh).run = none ∧ t.get (R.SH_FAULT_CODE sh) = code ∧ t.get (R.SH_FAULT_PC sh) = pc ∧
  t.get (faultSum sh) = 1 ∧ told s t (E.SH_FAULT sh) ∧ told s t (E.SH_OVERRUN sh) ∧ ∀ a, t.byte a = s.byte a

/-- R142, R158, R163, R165, R166, R172: a word with a reserved field that is not 0 faults as ILLEGAL, a jump to a word past 4,095 as FETCH, an access that is not
aligned as ALIGN, a store to the tray's code as TRAY_WRITE, and a window line past the third as PROOF_RANGE; the word has no other effect. The
PC that passes word 4,095 faults as FETCH. The order of two faults of one word, as of ALIGN before the ILLEGAL of two slots that write one register, and the PC
that this FETCH records are log 67 (DEDUCED). -/
def Obligations.KernelFaults : Prop :=
  ∀ (s : State) (sh : Fin 192) (d a b : BitVec 5) (imm : BitVec 16) (rsv : BitVec 11) (vec : Word) (r : Run),
    (rsv ≠ 0 → running s sh r (wordOf (slotSR 0x01 d a b rsv) vec.toNat) →
      goesOn (exec (.add sh d a b rsv vec) s) (fun t => faultedWith s t sh 6 r.pc)) ∧
    (4096 ≤ ((s.engine sh).s a.toNat).toNat → running s sh r (wordOf (slotSI 0x25 0 a 0) vec.toNat) →
      goesOn (exec (.jr sh 0 a 0 vec) s) (fun t => faultedWith s t sh 3 r.pc)) ∧
    (accessAt (s.engine sh) a imm % 4 ≠ 0 → running s sh r (wordOf (slotSI 0x18 d a imm) vec.toNat) →
      goesOn (exec (.ldw sh d a imm vec) s) (fun t =>
        faultedWith s t sh 7 r.pc ∧ t.get (R.SH_FAULT_ADDR_ADDR sh) = accessAt (s.engine sh) a imm)) ∧
    (accessAt (s.engine sh) a imm < 0x10000 → running s sh r (wordOf (slotSI 0x1D d a imm) vec.toNat) →
      goesOn (exec (.stb sh d a imm vec) s) (fun t => faultedWith s t sh 2 r.pc)) ∧
    ((s.engine sh).run = some r → r.pc = 4095 → s.fetched sh r = 0 →
      goesOn (exec (.snop sh 0 0 0 0) s) (fun t => faultedWith s t sh 3 4095)) ∧
    (∀ k : BitVec 6, k.toNat / 4 = 3 → running s sh r (wordOf 0 (slotV 0x2D d a b 0 false false k)) →
      goesOn (exec (.vprf sh d a b 0 false false k 0) s) (fun t => faultedWith s t sh 8 r.pc))

/-- Tables 7-2 and 7-3: from the word of a scalar slot of each format and a vector slot, every field reads back, at every value. -/
def Obligations.SlotFieldsReadBack : Prop :=
  (∀ (op : Nat) (d a b : BitVec 5) (rsv : BitVec 11) (vec : Word), op < 64 →
    let w := wordOf (slotSR op d a b rsv) vec.toNat
    w < 2 ^ 64 ∧ fOP (w % 2 ^ 32) = op ∧ fD (w % 2 ^ 32) = d.toNat ∧ fA (w % 2 ^ 32) = a.toNat ∧ fB (w % 2 ^ 32) = b.toNat ∧
      bits (w % 2 ^ 32) 21 11 = rsv.toNat ∧ w / 2 ^ 32 = vec.toNat) ∧
  (∀ (op : Nat) (d a : BitVec 5) (imm : BitVec 16) (vec : Word), op < 64 →
    let w := wordOf (slotSI op d a imm) vec.toNat
    fOP (w % 2 ^ 32) = op ∧ fD (w % 2 ^ 32) = d.toNat ∧ fA (w % 2 ^ 32) = a.toNat ∧ fIMM (w % 2 ^ 32) = imm.toNat ∧ w / 2 ^ 32 = vec.toNat) ∧
  (∀ (op : Nat) (d a : BitVec 5) (tgt : BitVec 12) (rsv : BitVec 4) (vec : Word), op < 64 →
    let w := wordOf (slotSB op d a tgt rsv) vec.toNat
    fOP (w % 2 ^ 32) = op ∧ fD (w % 2 ^ 32) = d.toNat ∧ fA (w % 2 ^ 32) = a.toNat ∧ fTGT (w % 2 ^ 32) = tgt.toNat ∧
      bits (w % 2 ^ 32) 28 4 = rsv.toNat ∧ w / 2 ^ 32 = vec.toNat) ∧
  (∀ (op : Nat) (vd va vb : BitVec 5) (vp : BitVec 3) (vpn bs : Bool) (k : BitVec 6) (scal : Word), op < 64 →
    let w := wordOf scal.toNat (slotV op vd va vb vp vpn bs k)
    let v := w / 2 ^ 32
    v < 2 ^ 32 ∧ w % 2 ^ 32 = scal.toNat ∧ fOP v = op ∧ fD v = vd.toNat ∧ fA v = va.toNat ∧ fB v = vb.toNat ∧ fVP v = vp.toNat ∧
      fVPN v = vpn ∧ fBS v = bs ∧ fK v = k.toNat)

/-! ## The record writer, the Developer and the rings (R24, R140, R190–R194, R201–R217, R236, R294) -/

/-- R140, R201: a slice of a line whose Shingles have all delivered leaves the engines' output queues, its entries go to the record writer
in Shingle order, and where the Developer's input has room the slice enters it. R205, R202: DEV_SLICE takes the next slice off the input. R211–R214, R217:
a segment closes the frame of which no further line waits, or develops up to 2,048 pixels of the next one (that FRAMES, count 0 of a context, counts developed
frames is the model's choice, log 69); a frame without a packet for
100 ms closes with NO_FE. -/
def Obligations.SlicesAndFramesAreDeveloped : Prop :=
  (∀ (s : State) (c : Fin 12) (l : Line), s.mergeLine c.val = some l → courseBits l.gone c.val = courseBits l.mask c.val →
    s.dev.input.length < 16 → goesOn (exec (.sliceMerge c) s) (fun t =>
      t.rec_.work = s.rec_.work ++ s.takeOuts c.val l.tickno ∧ t.takeOuts c.val l.tickno = [] ∧
      t.get R.DEV_STAT_IN_OCC = s.dev.input.length + 1 ∧
      ∃ d, t.dev.input = s.dev.input ++ [d] ∧ d.tickno = l.tickno ∧ d.course = c.val ∧ d.bank = l.bank)) ∧
  (∀ (s : State) (d : DevSlice), s.dom dLOFT = true → s.dev.input.length ≤ 16 → nextSlice s.dev.input = some d →
    goesOn (exec .devSlice s) (fun t =>
      t.dev.input = s.dev.input.filter (fun e => !(e.tickno = d.tickno && e.course = d.course)) ∧
      t.get R.DEV_STAT_IN_OCC = t.dev.input.length ∧ t.rec_.work = s.rec_.work)) ∧
  (∀ (s : State) (m : Nat) (f : SatFrame) (rest : List SatFrame), s.dom dLOFT = true → s.dev.input = [] →
    (s.inRun || s.isIdle) = true → s.turnNow = some m → m < 16 → (s.ctxOf m).waiting = f :: rest →
    f.lines.find? (fun x => f.lineDone ≤ x.1) = none → goesOn (exec .devSegment s) (fun t =>
      (t.ctxOf m).waiting = rest ∧
      t.get (R.DEV_MCm_CNTk_COUNT (m - 1) 0) = min (2 ^ 32 - 1) (s.get (R.DEV_MCm_CNTk_COUNT (m - 1) 0) + 1) ∧
      t.get (R.DEV_MCm_CNTk_COUNT (m - 1) 5) = f.frameno % 2 ^ 32)) ∧
  (∀ (s : State) (m : Nat) (f : SatFrame) (rest : List SatFrame) (line count : Nat), s.dom dLOFT = true → s.dev.input = [] →
    (s.inRun || s.isIdle) = true → s.turnNow = some m → m < 16 → (s.ctxOf m).waiting = f :: rest →
    f.lines.find? (fun x => f.lineDone ≤ x.1) = some (line, count) → f.pixDone + 2048 < s.ctxWidth m →
    goesOn (exec .devSegment s) (fun t =>
      ∃ g, (t.ctxOf m).waiting = g :: rest ∧ g.pixDone = f.pixDone + 2048 ∧ g.lineDone = f.lineDone ∧ g.frameno = f.frameno ∧
        g.begun = true ∧ ∀ a, t.byte a = s.byte a)) ∧
  (∀ (s : State) (m : Fin 16) (f : SatFrame), m.val ≠ 0 → (s.ctxOf m.val).open_ = some f → goesOn (exec (.satFrameTimeout m) s) (fun t =>
    t.now = max s.now (f.lastT + 100 * msClk) ∧ (t.ctxOf m.val).open_ = none ∧
    ∃ g, (t.ctxOf m.val).waiting = (s.ctxOf m.val).waiting ++ [g] ∧ g.frameno = f.frameno ∧ g.lines = f.lines ∧ bit g.flags 7 = true ∧
      bit g.flags 2 = (bit f.flags 2 || decide (f.lines.length < s.ctxLines m.val))))

/-- R190–R193: RECORD_WRITE takes the oldest output entry; the records that its blocks leave enter ring 0 together, or, where they do not
fit, none does and the drop is counted; SEQ advances past them either way. R24, R194: a report in a row with the newest record's widens
it, any other opens a record with its own SEQ where ring 1 has room; where it has none, the report widens the newest record that is still in the ring, with all Shingles
and reason MIXED, else the pending record in the same way, else it becomes the pending record; a pending record enters ring 1 once there is room. -/
def Obligations.RecordsEnterTheirRings : Prop :=
  (∀ (s : State) (sh : Nat) (o : OutEntry) (rest : List (Nat × OutEntry)) (l : Line), s.dom dDDR = true →
    s.rec_.work = (sh, o) :: rest → s.lineOf o.tickno = some l → (o.noRecords || l.gaveUp sh) = false →
    goesOn (exec .recordWrite s) (fun t =>
      let g := { s with rec_ := { s.rec_ with work := rest } }.gather l.bank sh o.emits
      let n := g.2.length
      t.rec_.work = rest ∧ (0 < n → t.rec_.seq0 = (s.rec_.seq0 + n) % 2 ^ 32) ∧ (n = 0 → t.rec_.seq0 = s.rec_.seq0) ∧
      (n ≤ s.ringFree 0 → n ≠ 0 → t.ringWr 0 = (s.ringWr 0 + n) % s.ringUnits 0 ∧ t.get (R.RINGr_STAT_DROP 0) = s.get (R.RINGr_STAT_DROP 0)) ∧
      (s.ringFree 0 < n → t.ringWr 0 = s.ringWr 0 ∧ t.get (R.RINGr_STAT_OVF 0) = 1 ∧
        t.get (R.RINGr_STAT_DROP 0) = min (2 ^ 24 - 1) (s.get (R.RINGr_STAT_DROP 0) + 1)))) ∧
  (∀ (s : State) (q : Report) (rest : List Report) (r : UlRec), s.dom dDDR = true → s.rec_.pendRec = none → s.rec_.reports = q :: rest →
    s.ulOpen = some r → r.reason = q.reason → r.mask = q.mask → q.tickno = r.last + 1 →
    goesOn (exec .uninspectedRecord s) (fun t =>
      t.rec_.openRec = some { r with last := q.tickno } ∧ t.ringWr 1 = s.ringWr 1 ∧ t.rec_.seq1 = s.rec_.seq1 ∧
      ∃ more, t.rec_.reports = rest ++ more)) ∧
  (∀ (s : State) (q : Report) (rest : List Report) (r : UlRec), s.dom dDDR = true → s.rec_.pendRec = none → s.rec_.reports = q :: rest →
    s.ulOpen = some r → r.reason ≠ q.reason ∨ r.mask ≠ q.mask ∨ q.tickno ≠ r.last + 1 →
    goesOn (exec .uninspectedRecord s) (fun t =>
      (∃ more, t.rec_.reports = rest ++ more) ∧ t.rec_.pendRec = none ∧
      (1 ≤ s.ringFree 1 → t.rec_.seq1 = (s.rec_.seq1 + 1) % 2 ^ 32 ∧ t.ringWr 1 = (s.ringWr 1 + 1) % s.ringUnits 1 ∧
        t.rec_.openRec = some { first := q.tickno, last := q.tickno, mask := q.mask, reason := q.reason, rep := q.rep, line := q.line
                                seq := s.rec_.seq1, job := q.job, slotOfs := s.ringWr 1 }) ∧
      (s.ringFree 1 < 1 → t.rec_.seq1 = s.rec_.seq1 ∧ t.ringWr 1 = s.ringWr 1 ∧ t.get (R.RINGr_STAT_OVF 1) = 1 ∧
        t.rec_.openRec = some { r with last := max r.last q.tickno, mask := 2 ^ 192 - 1, reason := 15, overflow := true }))) ∧
  (∀ (s : State) (p : UlRec) (q : Report) (rest : List Report), s.dom dDDR = true → s.rec_.pendRec = some p → s.ringFree 1 < 1 →
    s.rec_.reports = q :: rest → goesOn (exec .uninspectedRecord s) (fun t =>
      t.rec_.pendRec = some { p with last := max p.last q.tickno, mask := 2 ^ 192 - 1, reason := 15, overflow := true } ∧
      t.ringWr 1 = s.ringWr 1 ∧ t.rec_.seq1 = s.rec_.seq1 ∧ t.get (R.RINGr_STAT_OVF 1) = 1 ∧ ∃ more, t.rec_.reports = rest ++ more)) ∧
  (∀ (s : State) (q : Report) (rest : List Report), s.dom dDDR = true → s.rec_.pendRec = none → s.rec_.reports = q :: rest →
    s.ulOpen = none → goesOn (exec .uninspectedRecord s) (fun t =>
      let u : UlRec := { first := q.tickno, last := q.tickno, mask := q.mask, reason := q.reason, rep := q.rep, line := q.line
                         seq := s.rec_.seq1, job := q.job }
      t.rec_.seq1 = (s.rec_.seq1 + 1) % 2 ^ 32 ∧ (∃ more, t.rec_.reports = rest ++ more) ∧
      (1 ≤ s.ringFree 1 → t.rec_.openRec = some { u with slotOfs := s.ringWr 1 } ∧ t.ringWr 1 = (s.ringWr 1 + 1) % s.ringUnits 1) ∧
      (s.ringFree 1 < 1 → t.rec_.pendRec = some u ∧ t.ringWr 1 = s.ringWr 1 ∧ t.get (R.RINGr_STAT_OVF 1) = 1))) ∧
  (∀ (s : State) (p : UlRec), s.dom dDDR = true → s.rec_.pendRec = some p → 1 ≤ s.ringFree 1 →
    goesOn (exec .pendingRecordWrite s) (fun t =>
      t.rec_.pendRec = none ∧ t.rec_.openRec = some { p with slotOfs := s.ringWr 1 } ∧
      t.ringWr 1 = (s.ringWr 1 + 1) % s.ringUnits 1 ∧ t.rec_.seq1 = s.rec_.seq1))

/-- R236, R251: the host frees entries up to SENT, the offset it writes being taken modulo the ring; any other offset is marked RD_BAD. BASE and SIZE are written while no job runs and the mode
is LINE, and the offsets become 0; while a job runs or the mode is another the write is refused and told. R294: the oldest event leaves its queue as a packet
of port H. -/
def Obligations.RingPointersAndEvents : Prop :=
  (∀ (s : State) (r : Fin 5) (v : Word), s.served 0x020 = true → goesOn (exec (.ringRdWrite r v) s) (fun t =>
    let u := s.ringUnits r.val
    let fits := decide (u ≠ 0) && decide (ringDist u (s.ringRd r.val) (v.toNat % u) ≤ ringDist u (s.ringRd r.val) (s.ringSent r.val))
    (fits = true → t.ringRd r.val = v.toNat % u ∧ only s t [(R.RINGr_RD_OFS r.val).reg]) ∧
    (fits = false → v.toNat ≠ s.ringRd r.val → t.get (R.RINGr_STAT_RD_BAD r.val) = 1 ∧ only s t [(R.RINGr_STAT_RD_BAD r.val).reg]))) ∧
  (∀ (s : State) (r : Fin 5) (size : Bool) (v : Word), s.served 0x020 = true → s.job.active = none → s.get R.EXP_STAT_MODE_ACT = 0 →
    goesOn (exec (.ringCfgWrite r size v) s) (fun t =>
      let f := if size then R.RINGr_SIZE_SIZE r.val else R.RINGr_BASE_BASE r.val
      t.get f = v.toNat % 2 ^ 25 ∧ t.ringWr r.val = 0 ∧ t.ringSent r.val = 0 ∧ t.ringRd r.val = 0 ∧
      only s t [f.reg, (R.RINGr_WR_OFS r.val).reg, (R.RINGr_SENT_OFS r.val).reg, (R.RINGr_RD_OFS r.val).reg])) ∧
  (∀ (s : State) (r : Fin 5) (size : Bool) (v : Word), s.served 0x020 = true →
    s.job.active.isSome = true ∨ s.get R.EXP_STAT_MODE_ACT ≠ 0 → goesOn (exec (.ringCfgWrite r size v) s) (fun t => told s t E.RING_CFG_REFUSED ∧ only s t (toldRegs E.RING_CFG_REFUSED))) ∧
  (∀ (s : State) (e : Event) (rest : List Event), s.evtQ = e :: rest → s.portUp 0 = true → goesOn (exec .eventSend s) (fun t =>
    t.evtQ = rest ∧ (t.portOf 0).tx = (s.portOf 0).tx ++ [{ vc := e.vc, type := 0x03, payload := e.payload }] ∧
    (t.portOf 0).idleAt = s.now ∧ only s t []))

/-! ## Ridge ports (R273–R297) -/

/-- A port trains: it is TRAINING with every lane hunting for alignment. -/
def trains (t : State) (p : Nat) : Prop := t.portState p = rpTRAINING ∧ ∀ k, k < 8 → t.get (R.RP_LANEk_STAT_STATE p k) = 1

/-- A cage module is present and its supply has not tripped. -/
def caged (s : State) (p : Nat) : Prop := (s.portOf p).absent = false ∧ (s.portOf p).tripped = false

/-- What leaves port p now as an in-band block. -/
def blockOut (s : State) (p : Nat) (bytes : List Nat) : Wire := { port := p, type := bytes.headD 0, bytes := bytes, time := s.now }

/-- R273, R275–R284, R423: what takes a port down counts it and lets it train again, from DOWN where no module is in the cage; a hunting
lane locks after 64 valid sync headers in a row, slipping a bit at each invalid one, and a locked one loses lock at 24 invalid ones; lanes answer TRAIN blocks, measure their
FOM and ask for the next change (one own block listed for each received: log 81, DEDUCED); with enough lanes the port is UP on those both ends offer, else, once every lane is done or at TIMEOUT, it tries the other rate, or the same
one 1 s after the attempt began; the ALIGN blocks of a stripe deskew where each active lane has one and no two are more than 64 blocks apart, else the port trains;
the own stripes, one in 16,384 blocks per lane, are listed as far as they are due (the moment is log 136, the model's choice); Safelight is entered after IDLE_T with SLEEP on every active lane and left
with a burst of 64 TRAIN blocks on each; a failed wake is counted (log 135). -/
def Obligations.PortsTrainAndFall : Prop :=
  (∀ (s : State) (p : Fin 3), s.served (0x024 + p.val) = true → s.portState p.val ≠ rpTEST → caged s p.val →
    goesOn (exec (.portRetrain p) s) (fun t => trains t p.val ∧
      t.get (R.RP_DOWN_CNT_COUNT p.val) = min (2 ^ 32 - 1) (s.get (R.RP_DOWN_CNT_COUNT p.val) + boolNat (s.portUp p.val)))) ∧
  (∀ (s : State) (p : Fin 3) (a : StripeSeen), s.portState p.val = rpUP → caged s p.val →
    ((∃ k, k < 8 ∧ s.laneActive p.val k = true ∧ ∀ x ∈ a.lanes, x.1.val ≠ k) ∨
      ∃ x ∈ a.lanes, ∃ y ∈ a.lanes, s.laneActive p.val x.1.val = true ∧ s.laneActive p.val y.1.val = true ∧ y.2 + 64 < x.2) →
    goesOn (exec (.align p a) s) (fun t => trains t p.val)) ∧
  (∀ (s : State) (p : Fin 3) (a : StripeSeen), s.portState p.val = rpUP →
    (∀ k, k < 8 → s.laneActive p.val k = true → ∃ x ∈ a.lanes, x.1.val = k) →
    (∀ x ∈ a.lanes, ∀ y ∈ a.lanes, s.laneActive p.val x.1.val = true → s.laneActive p.val y.1.val = true → x.2 ≤ y.2 + 64) →
    goesOn (exec (.align p a) s) (fun t =>
    let due := s.alignLeft p.val
    let seq := (s.portOf p.val).alignSeq
    t.wire = s.wire ++ (List.range due).flatMap (fun i => (bitsOf 8 (s.get (R.RP_STAT_LANES p.val))).map (fun k =>
      { blockOut s p.val ([0x4B, k, s.get (R.RP_STAT_WIDTH p.val)] ++ leBytes 2 (seq + i) ++ [0, 0, 0]) with
        time := s.alignTime p.val (seq + i) })) ∧
    (t.portOf p.val).alignSeq = seq + due ∧ only s t [])) ∧
  (∀ (s : State) (p : Fin 3), s.portState p.val = rpSAFELIGHT → caged s p.val → goesOn (exec (.wakeFail p) s) (fun t =>
    trains t p.val ∧ t.get (intRawBit (E.RP_WAKE_FAIL p.val)) = 1 ∧
    t.get (R.RP_WAKE_CNT_COUNT p.val) = min (2 ^ 32 - 1) (s.get (R.RP_WAKE_CNT_COUNT p.val) + 1))) ∧
  (∀ (s : State) (p : Fin 3), s.dom (dPORT p.val) = true → goesOn (exec (.modprslChange p false) s) (fun t =>
    t.portState p.val = rpDOWN ∧ (t.portOf p.val).absent = true ∧ ∀ k, k < 8 → t.get (R.RP_LANEk_STAT_STATE p.val k) = 0)) ∧
  (∀ (s : State) (p : Fin 3), s.dom (dPORT p.val) = true → s.portState p.val = rpDOWN → (s.portOf p.val).tripped = false →
    goesOn (exec (.modprslChange p true) s) (fun t => trains t p.val ∧ (t.portOf p.val).absent = false)) ∧
  (∀ (s : State) (p : Fin 3), s.dom (dPORT p.val) = true → goesOn (exec (.cageSupplyTrip p) s) (fun t =>
    t.portState p.val = rpDOWN ∧ (t.portOf p.val).tripped = true)) ∧
  (∀ (s : State) (p : Fin 3) (k : Fin 8) (hs : List (BitVec 2)), s.dom (dPORT p.val) = true → s.portState p.val = rpTRAINING →
    s.get (R.RP_LANEk_STAT_STATE p.val k.val) = 1 → (s.laneOf p.val k.val).locked = false → s.laneLoops p.val k.val = false →
    goesOn (exec (.blockLock p ⟨k, hs⟩) s) (fun t =>
      let r := (s.laneOf p.val k.val).headers hs
      let err := R.RP_LANEk_HDR_ERR_COUNT p.val k.val
      t.laneOf p.val k.val = r.1 ∧ t.get (R.RP_LANEk_STAT_STATE p.val k.val) = (if r.1.locked then 3 else 1) ∧
      t.get err = min (2 ^ 32 - 1) (s.get err + r.2) ∧
      ((∀ h ∈ hs, h = 1 ∨ h = 2) → 64 ≤ hs.length → r.1.locked = true ∧ r.2 = 0) ∧
      (∀ h, hs = [h] → h = 0 ∨ h = 3 → r.1.run = 0 ∧ r.1.slip = ((s.laneOf p.val k.val).slip + 1) % 66) ∧
      only s t [(R.RP_LANEk_STAT_STATE p.val k.val).reg, err.reg])) ∧
  (∀ (s : State) (p : Fin 3) (k : Fin 8) (hs : List (BitVec 2)), s.dom (dPORT p.val) = true → (s.laneOf p.val k.val).locked = true →
    s.portState p.val ≠ rpSAFELIGHT → caged s p.val → s.laneLoops p.val k.val = false → goesOn (exec (.laneLockLost p ⟨k, hs⟩) s) (fun t =>
      let r := (s.laneOf p.val k.val).headers hs
      let err := R.RP_LANEk_HDR_ERR_COUNT p.val k.val
      t.get err = min (2 ^ 32 - 1) (s.get err + r.2) ∧
      (r.1.locked = false → t.get (R.RP_LANEk_STAT_STATE p.val k.val) = 1 ∧
        (s.portState p.val = rpUP → s.laneActive p.val k.val = true → trains t p.val)) ∧
      ((s.laneOf p.val k.val).recent = [] → hs.length = 24 → (∀ h ∈ hs, h = 0 ∨ h = 3) → r.1.locked = false ∧ r.2 = 24))) ∧
  (∀ (s : State) (p : Fin 3) (k : Fin 8) (rp rq ap aq : Fin 4) (pre aps : Bool) (fom : Byte) (rx : Bool) (offer : Byte),
    s.portState p.val = rpTRAINING → goesOn (exec (.trainBlk p k rp rq pre ap aq aps fom rx offer) s) (fun t =>
      (t.portOf p.val).farOffer = offer.toNat ∧ (t.laneOf p.val k.val).farDone = rx ∧ (t.laneOf p.val k.val).ackPreset = pre ∧
      let f := R.RP_LANEk_TAPS_PRE_ACT p.val k.val
      let g := R.RP_LANEk_TAPS_POST_ACT p.val k.val
      let l := s.laneOf p.val k.val
      t.get f = (if pre && !l.ackPreset then s.presetPre p.val k.val else (s.tapServe f 8 rp.val l.ackPre).1) ∧
      t.get g = (if pre && !l.ackPreset then s.presetPost p.val k.val else (s.tapServe g 20 rq.val l.ackPost).1) ∧
      t.get (R.RP_LANEk_TAPS_MAIN_ACT p.val k.val) = 64 - t.get f - t.get g ∧
      t.wire = s.wire ++ [blockOut s p.val ((t.trainBlock p.val k.val false).take 6 ++ [l.tseq % 256, 0])])) ∧
  (∀ (s : State) (p : Fin 3) (k : Fin 8) (eye pk : Nat), s.portState p.val = rpTRAINING ∨ s.portState p.val = rpUP → 0 < pk →
    goesOn (exec (.fomMeasure p k eye pk) s) (fun t => t.get (R.RP_LANEk_STAT_FOM p.val k.val) = min 255 (256 * eye / pk))) ∧
  (∀ (s : State) (p : Fin 3) (k : Fin 8), s.portState p.val = rpTRAINING → (s.laneOf p.val k.val).ackSeen = true →
    (s.laneOf p.val k.val).rxDone = false → (s.laneOf p.val k.val).undo = false →
    (s.laneOf p.val k.val).steps < s.maxSteps p.val → (s.laneOf p.val k.val).try_ < 3 → goesOn (exec (.adaptStep p k) s) (fun t =>
      let l := s.laneOf p.val k.val
      let f := s.laneFom p.val k.val
      t.laneOf p.val k.val = (if l.bestFom + 2 ≤ f then
          { l with bestFom := f, gained := true, try_ := l.try_ + 1, req := 0, want := l.try_ + 2, last := l.try_ + 2, ackSeen := false
                   steps := l.steps + 1 }
        else { l with req := 0, want := oppositeReq l.last, last := oppositeReq l.last, undo := true, ackSeen := false
                      steps := l.steps + 1 }))) ∧
  (∀ (s : State) (p : Fin 3), s.portState p.val = rpTRAINING →
    s.minLanes p.val ≤ popcount 8 (s.offer p.val &&& (s.portOf p.val).farOffer) → goesOn (exec (.linkUp p) s) (fun t =>
      let set := s.offer p.val &&& (s.portOf p.val).farOffer
      t.portState p.val = rpUP ∧ t.get (R.RP_STAT_LANES p.val) = set ∧ t.get (R.RP_STAT_WIDTH p.val) = popcount 8 set ∧
      (∀ k, k < 8 → bit set k = true → t.get (R.RP_LANEk_STAT_STATE p.val k) = 2) ∧ t.get (intRawBit (E.RP_LINK_UP p.val)) = 1 ∧
      (popcount 8 set < 8 → t.get (intRawBit (E.RP_LANE_FAIL p.val)) = 1) ∧
      t.wire = s.wire ++ (bitsOf 8 set).map (fun k => blockOut t p.val [0x4B, k, popcount 8 set, 0, 0, 0, 0, 0]))) ∧
  (∀ (s : State) (p : Fin 3), s.portState p.val = rpTRAINING → caged s p.val → 2 ≤ s.get (R.RP_CTRL_RATE p.val) →
    popcount 8 (s.offer p.val &&& (s.portOf p.val).farOffer) < s.minLanes p.val → goesOn (exec (.trainTimeout p) s) (fun t =>
      trains t p.val ∧ t.get (R.RP_STAT_RATE_ACT p.val) = 1 - s.get (R.RP_STAT_RATE_ACT p.val) ∧
      t.now = if s.lanesDone p.val then s.now else max s.now ((s.portOf p.val).trainAt + s.trainTimeout p.val))) ∧
  (∀ (s : State) (p : Fin 3), s.portState p.val = rpTRAINING → caged s p.val → s.get (R.RP_CTRL_RATE p.val) < 2 →
    popcount 8 (s.offer p.val &&& (s.portOf p.val).farOffer) < s.minLanes p.val → goesOn (exec (.trainTimeout p) s) (fun t =>
      trains t p.val ∧ t.get (R.RP_STAT_RATE_ACT p.val) = s.get (R.RP_CTRL_RATE p.val) ∧
      t.now = max (if s.lanesDone p.val then s.now else max s.now ((s.portOf p.val).trainAt + s.trainTimeout p.val))
        ((s.portOf p.val).trainAt + secClk))) ∧
  (∀ (s : State) (p : Fin 3), s.portState p.val = rpUP → s.on (R.RP_CTRL_SAFELIGHT_EN p.val) = true → (s.portOf p.val).tx = [] →
    s.chainDuty p.val = false → goesOn (exec (.safelightEnter p) s) (fun t =>
      t.portState p.val = rpSAFELIGHT ∧ t.now = max s.now ((s.portOf p.val).idleAt + max 1 (s.get (R.RP_CTRL_IDLE_T p.val)) * usClk) ∧
      t.wire = s.wire ++ (bitsOf 8 (s.get (R.RP_STAT_LANES p.val))).map (fun _ => blockOut t p.val [0x99, 0, 0, 0, 0, 0, 0, 0]) ∧
      ∀ k, k < 8 → s.laneActive p.val k = true → t.get (R.RP_LANEk_STAT_STATE p.val k) = 6)) ∧
  (∀ (s : State) (p : Fin 3), s.portState p.val = rpSAFELIGHT → goesOn (exec (.safelightExit p) s) (fun t =>
    t.portState p.val = rpUP ∧ t.get (R.RP_WAKE_CNT_COUNT p.val) = s.get (R.RP_WAKE_CNT_COUNT p.val) ∧
    (∃ ws, t.wire = s.wire ++ ws ∧ ws.length = 64 * (bitsOf 8 (s.get (R.RP_STAT_LANES p.val))).length ∧
      ∀ w ∈ ws, w.port = p.val ∧ w.packet = false ∧ w.type = 0x55 ∧ bit (w.bytes.getD 4 0) 2 = true) ∧
    ∀ k, k < 8 → s.laneActive p.val k = true → t.get (R.RP_LANEk_STAT_STATE p.val k) = 2))

/-- R285, R286: a lane with a pattern or a loop takes its port to TEST, in any state of the port (log 86, DEDUCED); the port trains when the last one has left; INJ
and INJ_BURST invert the next bits that the lane sends and CHK_CLR clears its error count; a lane in test sends as many bits of its pattern, or in LOOP 3 of those it
receives, as it receives (log 138), and its checker takes what the line brings, in LOOP 1 and 2 what the lane sends. R291, R292: a credit count is adopted when it is heard twice, a count is
sent for a VC, and one whole packet of the VC whose turn it is leaves with its SEQ. R246: a packet that streams a ring moves SENT to its end where no
packet of that ring waits ahead of it, and else leaves SENT as it is. -/
def Obligations.PortTestsCreditsAndSends : Prop :=
  (∀ (s : State) (p : Fin 3) (k : Fin 8) (v : Word), s.served (0x024 + p.val) = true → v.toNat % 4 % 3 ≠ 0 ∨ v.toNat / 4 % 4 ≠ 0 →
    goesOn (exec (.laneTestMode p k v) s) (fun t =>
      t.portState p.val = rpTEST ∧ t.get (R.RP_LANEk_STAT_STATE p.val k.val) = 7 ∧
      t.get (R.RP_LANEk_CTRL_PRBS p.val k.val) = v.toNat % 4 ∧ t.get (R.RP_LANEk_CTRL_LOOP p.val k.val) = v.toNat / 4 % 4 ∧
      t.get (R.RP_LANEk_CTRL_BURST_LEN p.val k.val) = v.toNat / 256 % 256)) ∧
  (∀ (s : State) (p : Fin 3) (k : Fin 8) (v : Word), s.served (0x024 + p.val) = true → s.portState p.val = rpTEST → caged s p.val →
    v.toNat % 128 = 0 → (∀ j, j < 8 → j ≠ k.val → s.laneInTest p.val j = false) →
    goesOn (exec (.laneTestMode p k v) s) (fun t => trains t p.val)) ∧
  (∀ (s : State) (p : Fin 3) (k : Fin 8), s.served (0x024 + p.val) = true → s.portState p.val = rpTEST →
    s.laneInTest p.val k.val = true → s.laneCtrlNow p.val k.val / 16 % 8 = 0 →
    let err := R.RP_LANEk_PRBS_ERR_COUNT p.val k.val
    let len := max 1 (s.get (R.RP_LANEk_CTRL_BURST_LEN p.val k.val))
    goesOn (exec (.injBit p k) s) (fun t => (t.laneOf p.val k.val).inv = (s.laneOf p.val k.val).inv + 1 ∧ t.get err = s.get err ∧
      ∀ j, j ≠ k.val → t.laneOf p.val j = s.laneOf p.val j) ∧
    goesOn (exec (.injBurst p k) s) (fun t => (t.laneOf p.val k.val).inv = (s.laneOf p.val k.val).inv + len ∧ t.get err = s.get err ∧
      ∀ j, j ≠ k.val → t.laneOf p.val j = s.laneOf p.val j) ∧
    goesOn (exec (.chkClr p k) s) (fun t => t.get err = 0 ∧ (t.laneOf p.val k.val).inv = (s.laneOf p.val k.val).inv ∧
      (s.lanePrbs p.val k.val ≠ 0 ∨ s.get (R.RP_LANEk_CTRL_LOOP p.val k.val) = 3 → t.portOf p.val = s.portOf p.val))) ∧
  (∀ (s : State) (p : Fin 3) (k : Fin 8) (xs : List Bool), s.lanePrbs p.val k.val ≠ 0 → s.dom (dPORT p.val) = true →
    goesOn (exec (.chkLock p ⟨k, xs⟩) s) (fun t =>
      let lock := R.RP_LANEk_STAT_CHK_LOCK p.val k.val
      let err := R.RP_LANEk_PRBS_ERR_COUNT p.val k.val
      let l := s.laneOf p.val k.val
      let loop := s.get (R.RP_LANEk_CTRL_LOOP p.val k.val)
      let a := if s.lanePrbs p.val k.val = 1 then 28 else 14
      let b := if s.lanePrbs p.val k.val = 1 then 31 else 15
      let made := prbsBits a b xs.length l.gen
      let sent := invFirst l.inv (if loop = 3 then xs else made.1)
      let r := l.chk.run a b (s.on lock) (if loop = 1 ∨ loop = 2 then sent else xs)
      t.get lock = boolNat r.2.1 ∧ t.get err = min (2 ^ 32 - 1) (s.get err + r.2.2) ∧ (t.laneOf p.val k.val).chk = r.1 ∧
      (t.laneOf p.val k.val).inv = l.inv - xs.length ∧ (loop ≠ 3 → (t.laneOf p.val k.val).gen = made.2) ∧
      t.wire = s.wire ++ (if xs = [] then [] else
        [{ port := p.val, bytes := sent.map boolNat, raw := some k.val, time := s.now }]) ∧ only s t [lock.reg, err.reg])) ∧
  (∀ (s : State) (p : Fin 3) (k : Fin 8) (xs : List Bool), s.lanePrbs p.val k.val = 0 → s.dom (dPORT p.val) = true →
    s.get (R.RP_LANEk_CTRL_LOOP p.val k.val) = 3 → xs ≠ [] → goesOn (exec (.chkLock p ⟨k, xs⟩) s) (fun t =>
      t.wire = s.wire ++ [{ port := p.val, bytes := (invFirst (s.laneOf p.val k.val).inv xs).map boolNat, raw := some k.val, time := s.now }] ∧
      only s t [])) ∧
  (∀ (s : State) (p : Fin 3) (vc : Fin 16) (n : BitVec 24), s.portState p.val = rpUP → goesOn (exec (.creditBlk p vc n) s) (fun t =>
    (mapFind (s.portOf p.val).heard vc.val = some n.toNat → mapFind (t.portOf p.val).adopted vc.val = some n.toNat ∧
      t.get (R.RP_VCv_CRED_UNITS p.val vc.val) = (n.toNat + 2 ^ 24 - mapGet 0 (s.portOf p.val).spent vc.val % 2 ^ 24) % 2 ^ 24) ∧
    (mapFind (s.portOf p.val).heard vc.val ≠ some n.toNat → mapFind (t.portOf p.val).heard vc.val = some n.toNat ∧
      (t.portOf p.val).adopted = (s.portOf p.val).adopted) ∧ only s t [(R.RP_VCv_CRED_UNITS p.val vc.val).reg])) ∧
  (∀ (s : State) (p : Fin 3) (vc : Fin 16), s.portState p.val = rpUP → goesOn (exec (.creditSend p vc) s) (fun t =>
    let x := s.portOf p.val
    t.wire = s.wire ++ [blockOut s p.val
      ([0x33, vc.val] ++ leBytes 3 (mapGet 0 x.alloc vc.val + mapGet 0 x.freed vc.val) ++ [0, 0, 0])] ∧ only s t [])) ∧
  (∀ (s : State) (p : Fin 3) (k : TxPkt), s.portState p.val = rpUP → (s.txDiscard p.val).txTurn p.val = some k →
    goesOn (exec (.packetSend p) s) (fun t =>
      t.wire = s.wire ++ [{ port := p.val, packet := true, vc := k.vc, type := k.type
                            seq := mapGet 0 (s.portOf p.val).txSeq k.vc, bytes := k.payload, time := s.now }] ∧
      (t.portOf p.val).tx = txWithout k ((s.portOf p.val).tx.filter (fun q => !(s.portOf p.val).closed q.vc)) ∧
      (∀ r e, k.ring = some (r, e) → r < 5 → s.streamed r = true → t.get (R.RINGr_SENT_OFS r) =
        if ringAhead k ((s.portOf p.val).tx.filter (fun q => !(s.portOf p.val).closed q.vc)) then s.get (R.RINGr_SENT_OFS r) else e % 2 ^ 32) ∧
      mapGet 0 (t.portOf p.val).txSeq k.vc = (mapGet 0 (s.portOf p.val).txSeq k.vc + 1) % 65536 ∧
      (t.portOf p.val).rrNext = (k.vc + 1) % 16 ∧ ∀ a, t.byte a = s.byte a))

/-- A packet that its receiver takes as it was sent: the port is UP, its blocks, their sync headers and its length are in order, and the VC's allocation has room
(R288–R292). -/
def takes (s : State) (p : Pkt) : Prop :=
  s.portState p.port.val = rpUP ∧ framingErr p = false ∧ p.lost = [] ∧
  mapGet 0 (s.portOf p.port.val).held p.vc.val + units64 p.len ≤ mapGet 0 (s.portOf p.port.val).alloc p.vc.val

/-- A register-access packet's fields. -/
def regMsg (tag : Word) (h rh en code : Byte) (n : Half) (a : Word) (ws : List Word) : RegMsg :=
  { tag := tag.toNat, hops := h.toNat, rhops := rh.toNat, entry := en.toNat, code := code.toNat, count := n.toNat, addr := a.toNat
    data := ws.map BitVec.toNat }

/-- R275, R288, R290, R292: a packet that nothing claims is counted, bulk data waits in its VC's buffer; a packet whose CRC fails, its data blocks with an invalid
sync header taken as zeros, is counted by port, VC and told, also where it goes past its VC's allocation, which is counted too. R211–R213: a frame
opens, its lines go to the frame's slot, and it closes. R295–R297: a request with HOPS = 0 reads or writes COUNT words and is answered, or with BAD_REQ executes
nothing; one with more is passed on, or answered as UNREACHABLE where the next port is not UP, and a response goes on towards ENTRY. That byte 7 of a response is STATUS, and what
BAD_REQ and UNREACHABLE carry, is log 90 (DEDUCED). -/
def Obligations.PacketsAreTaken : Prop :=
  (∀ (s : State) (p : Pkt) (dt : Byte) (bs : List Byte), takes s p → dt.toNat ≠ 1 → dt.toNat ≠ 2 → dt.toNat ≠ 8 →
    (0x20 ≤ dt.toNat → dt.toNat ≤ 0x22 → s.ctxFor p.port.val p.vc.val = none) → goesOn (exec (.unclaimedPacket p ⟨dt, bs⟩) s) (fun t =>
      t.get (R.RP_UNCLAIMED_COUNT p.port.val) = min (2 ^ 32 - 1) (s.get (R.RP_UNCLAIMED_COUNT p.port.val) + 1))) ∧
  (∀ (s : State) (p : Pkt) (dt : Byte) (bs : List Byte), s.portState p.port.val = rpUP → framingErr p = false → dt.toNat ≠ 1 → dt.toNat ≠ 2 →
    dt.toNat ≠ 8 → dt.toNat < 0x20 ∨ 0x22 < dt.toNat →
    packetCrc p.vc.val dt.toNat p.seq.toNat ((bs.map BitVec.toNat).zipIdx.map (fun (b, i) => if p.lost.contains (i / 8) then 0 else b)) ≠ p.crc.toNat →
    goesOn (exec (.unclaimedPacket p ⟨dt, bs⟩) s) (fun t =>
      t.get (R.RP_CRC_CNT_COUNT p.port.val) = min (2 ^ 32 - 1) (s.get (R.RP_CRC_CNT_COUNT p.port.val) + 1) ∧
      t.get (R.DEV_CRC_VCv_COUNT p.vc.val) = min (2 ^ 32 - 1) (s.get (R.DEV_CRC_VCv_COUNT p.vc.val) + 1) ∧
      t.get (intRawBit (E.RP_CRC_ERR p.port.val)) = 1 ∧
      (mapGet 0 (s.portOf p.port.val).alloc p.vc.val < mapGet 0 (s.portOf p.port.val).held p.vc.val + units64 p.len →
        t.get (R.RP_CRED_VIOL_COUNT p.port.val) = min (2 ^ 32 - 1) (s.get (R.RP_CRED_VIOL_COUNT p.port.val) + 1) ∧
        t.get (R.RP_UNCLAIMED_COUNT p.port.val) = s.get (R.RP_UNCLAIMED_COUNT p.port.val)))) ∧
  (∀ (s : State) (p : Pkt) (bs : List Byte), takes s p → (∀ n, n < 32 → (s.chanOf n).busy = false) → goesOn (exec (.bulk p bs) s) (fun t =>
    (t.portOf p.port.val).bulk = (s.portOf p.port.val).bulk ++ [(p.vc.val, units64 p.len, padTo p.len (bs.map BitVec.toNat))] ∧
    mapGet 0 (t.portOf p.port.val).held p.vc.val = mapGet 0 (s.portOf p.port.val).held p.vc.val + units64 p.len)) ∧
  (∀ (s : State) (p : Pkt) (m : Nat) (no : Word) (stamp : BitVec 64) (u : Nat), takes s p → s.ctxFor p.port.val p.vc.val = some m →
    (s.ctxOf m).open_ = none → (s.ctxOf m).waiting = [] → goesOn (exec (.satFs p no stamp u) s) (fun t =>
      (t.ctxOf m).starts = (s.ctxOf m).starts + 1 ∧ t.now = max s.now u ∧
      ∃ f, (t.ctxOf m).open_ = some f ∧ f.frameno = no.toNat ∧ f.stamp = stamp.toNat ∧ f.slot = 0 ∧ f.lines = [] ∧
        bit f.flags 5 = crcErr p 0x20 (satFsBytes no.toNat stamp.toNat))) ∧
  (∀ (s : State) (p : Pkt) (m : Nat) (f : SatFrame) (no : Word) (line : Half) (px : List Byte) (u : Nat), takes s p →
    s.ctxFor p.port.val p.vc.val = some m → (s.ctxOf m).open_ = some f → f.frameno = no.toNat → line.toNat < s.ctxLines m →
    px.length = s.ctxWidth m * s.ctxBpp m → goesOn (exec (.satLine p no line px u) s) (fun t =>
      t.bytes (s.ctxLineAddr m f.slot line.toNat) px.length = px.map BitVec.toNat ∧
      s.memSame t (s.ctxLineAddr m f.slot line.toNat) px.length ∧
      ∃ g, (t.ctxOf m).open_ = some g ∧ g.lines = mapIns f.lines line.toNat (s.ctxWidth m) ∧ g.lastT = max s.now u ∧ g.slot = f.slot)) ∧
  (∀ (s : State) (p : Pkt) (m : Nat) (f : SatFrame) (no sent : Word) (u : Nat), takes s p → s.ctxFor p.port.val p.vc.val = some m →
    (s.ctxOf m).open_ = some f → f.frameno = no.toNat → goesOn (exec (.satFe p no sent u) s) (fun t =>
      (t.ctxOf m).open_ = none ∧ t.now = max s.now u ∧ (∀ a, t.byte a = s.byte a) ∧
      ∃ g, (t.ctxOf m).waiting = (s.ctxOf m).waiting ++ [g] ∧ g.frameno = f.frameno ∧ g.lines = f.lines)) ∧
  (∀ (s : State) (p : Pkt) (tag : Word) (rh en : Byte) (n : Half) (a : Word) (ws : List Word), takes s p →
    crcErr p 1 (regMsg tag 0 rh en 1 n a ws).bytes = false → 1 ≤ n.toNat → n.toNat ≤ 256 → a.toNat % 4 = 0 → goesOn (exec (.regReq p tag 0 rh en 1 n a ws) s) (fun t =>
      let r := State.readWords n.toNat (s.receive p 1 (regMsg tag 0 rh en 1 n a ws).bytes).1 (a.toNat % 2 ^ 24)
      (t.portOf p.port.val).tx = (s.portOf p.port.val).tx ++ [{ vc := p.vc.val, type := 2, payload := RegMsg.bytes {
        tag := tag.toNat, rhops := rh.toNat, entry := en.toNat, code := if unmapped (a.toNat % 2 ^ 24) n.toNat then 3 else 0
        count := n.toNat, addr := a.toNat, data := r.1 } }])) ∧
  (∀ (s : State) (p : Pkt) (tag : Word) (rh en : Byte) (n : Half) (a : Word) (ws : List Word), takes s p →
    crcErr p 1 (regMsg tag 0 rh en 2 n a ws).bytes = false → 1 ≤ n.toNat → n.toNat ≤ 256 → a.toNat % 4 = 0 → ws.length = n.toNat →
    goesOn (exec (.regReq p tag 0 rh en 2 n a ws) s) (fun t =>
      let u := State.writeWords (s.receive p 1 (regMsg tag 0 rh en 2 n a ws).bytes).1 (a.toNat % 2 ^ 24) (ws.map BitVec.toNat)
      (∀ x, t.reg x = u.reg x ∧ t.byte x = u.byte x) ∧ (u.portUp p.port.val = true → (t.portOf p.port.val).tx = (u.portOf p.port.val).tx ++
        [{ vc := p.vc.val, type := 2, payload := RegMsg.bytes {
          tag := tag.toNat, rhops := rh.toNat, entry := en.toNat, code := if unmapped (a.toNat % 2 ^ 24) n.toNat then 3 else 0
          count := n.toNat, addr := a.toNat } }]))) ∧
  (∀ (s : State) (p : Pkt) (tag : Word) (rh en op : Byte) (n : Half) (a : Word) (ws : List Word), takes s p →
    crcErr p 1 (regMsg tag 0 rh en op n a ws).bytes = false → n.toNat = 0 ∨ 256 < n.toNat ∨ a.toNat % 4 ≠ 0 ∨ (op ≠ 1 ∧ op ≠ 2) →
    goesOn (exec (.regReq p tag 0 rh en op n a ws) s) (fun t =>
      (∀ x, t.reg x = (s.receive p 1 (regMsg tag 0 rh en op n a ws).bytes).1.reg x ∧ t.byte x = s.byte x) ∧
      (t.portOf p.port.val).tx = (s.portOf p.port.val).tx ++ [{ vc := p.vc.val, type := 2, payload := RegMsg.bytes {
        tag := tag.toNat, rhops := rh.toNat, entry := en.toNat, code := 1, count := n.toNat, addr := a.toNat } }])) ∧
  (∀ (s : State) (p : Pkt) (tag : Word) (h rh en op : Byte) (n : Half) (a : Word) (ws : List Word), takes s p →
    crcErr p 1 (regMsg tag h rh en op n a ws).bytes = false → h.toNat ≠ 0 → s.portUp (if p.port.val = 2 then 1 else 2) = false →
    goesOn (exec (.regReq p tag h rh en op n a ws) s) (fun t =>
      (∀ x, t.byte x = s.byte x) ∧ (t.portOf p.port.val).tx = (s.portOf p.port.val).tx ++ [{ vc := p.vc.val, type := 2, payload := RegMsg.bytes {
        tag := tag.toNat, hops := h.toNat, rhops := rh.toNat, entry := en.toNat, code := 2, count := n.toNat, addr := a.toNat } }])) ∧
  (∀ (s : State) (p : Pkt) (tag : Word) (h rh en op : Byte) (n : Half) (a : Word) (ws : List Word), takes s p →
    crcErr p 1 (regMsg tag h rh en op n a ws).bytes = false → h.toNat ≠ 0 → p.port.val ≠ 2 → s.portUp 2 = true → goesOn (exec (.regReq p tag h rh en op n a ws) s) (fun t =>
      (t.portOf 2).tx = (s.portOf 2).tx ++ [{ vc := p.vc.val, type := 1, payload := RegMsg.bytes {
        tag := tag.toNat, hops := h.toNat - 1, rhops := (rh.toNat + 1) % 256, entry := if rh.toNat = 0 then p.port.val else en.toNat
        code := op.toNat, count := n.toNat, addr := a.toNat, data := ws.map BitVec.toNat } }])) ∧
  (∀ (s : State) (p : Pkt) (tag : Word) (h rh en st : Byte) (n : Half) (a : Word) (ws : List Word), takes s p → 2 ≤ rh.toNat →
    p.port.val = 2 → s.portUp 1 = true → goesOn (exec (.regRsp p tag h rh en st n a ws) s) (fun t =>
      (t.portOf 1).tx = (s.portOf 1).tx ++ [{ vc := p.vc.val, type := 2, payload := RegMsg.bytes {
        tag := tag.toNat, hops := h.toNat, rhops := rh.toNat - 1, entry := en.toNat, code := st.toNat, count := n.toNat
        addr := a.toNat, data := ws.map BitVec.toNat } }]))

/-! ## DMA (R240–R248) -/

/-- A channel that may begin the descriptor at HEAD: on, not streaming, not stopped by an error, its ring not empty and in DDR4, which is
ready. -/
def chanReady (s : State) (n : Nat) : Prop :=
  s.served 0x021 = true ∧ s.pwr.off = false ∧ s.chanEn n = true ∧ s.on (R.CHn_CTRL_MODE n) = false ∧ s.power ≠ pSTANDBY ∧
  (s.chanOf n).busy = false ∧ (s.chanOf n).done = false ∧ (s.chanOf n).err = 0 ∧ s.chanEmpty n = false ∧ dmaTarget (s.descAddr n) = 0 ∧
  s.on R.MEM_STAT_READY = true ∧ s.poisoned (s.descAddr n) 32 = false

/-- No other channel has a descriptor in execution or in its ring. -/
def chanAlone (s : State) (n : Nat) : Prop := ∀ m, m < 32 → m ≠ n → (s.chanOf m).busy = false ∧ s.chanEmpty m = true

/-- R240–R242, R245–R248: TAIL takes a value that lies in the ring, else TAIL_BAD is set. A descriptor whose checks fail moves nothing and
ends with its error; one that copies one unit within DDR4 stores exactly the source's bytes at the destination. On completion HEAD moves on
and DONE_CNT counts, or ERR holds the code and HEAD stays. RESUME skips the failing descriptor, EN = 0 discards the ring. Streamed units
become a packet of port H. With FENCE = 1 a descriptor's own writes have arrived when it completes. A fence waits for the masked channels' writes. The bounds of a stream
packet are log 88, a TAIL at or past RING_SIZE as TAIL_BAD and RESUME clearing ERR are log 89, and which writes are counted as outstanding is log 72 (DEDUCED and
DESIGN CHOICE). -/
def Obligations.DmaChannelsMoveData : Prop :=
  (∀ (s : State) (n : Fin 32) (v : Word), s.served 0x021 = true → goesOn (exec (.dmaTailWrite n v) s) (fun t =>
    let tl := v.toNat % 512
    let held := ringHeld (s.chanSize n.val) (s.get (R.CHn_HEAD_PTR n.val)) tl
    let fits := decide (tl % 256 < s.chanSize n.val) && decide (0 ≤ held) && decide (held ≤ s.chanSize n.val)
    (fits = true → t.get (R.CHn_TAIL_PTR n.val) = tl ∧ only s t [(R.CHn_TAIL_PTR n.val).reg, R.JOB_STAT_STAGED.reg]) ∧
    (fits = false → t.get (R.CHn_STAT_TAIL_BAD n.val) = 1 ∧ only s t [(R.CHn_STAT_TAIL_BAD n.val).reg]))) ∧
  (∀ (s : State) (n : Fin 32), chanReady s n.val → s.descCheck (s.bytes (s.descAddr n.val) 32) ≠ 0 →
    goesOn (exec (.dmaDescriptor n) s) (fun t =>
      t.chanOf n.val = { busy := true, done := true, desc := s.bytes (s.descAddr n.val) 32
                         err := s.descCheck (s.bytes (s.descAddr n.val) 32), writes := (s.chanOf n.val).writes } ∧
      t.get (R.CHn_HEAD_PTR n.val) = s.get (R.CHn_HEAD_PTR n.val) ∧ ∀ a, t.byte a = s.byte a)) ∧
  (∀ (s : State) (n : Fin 32), chanReady s n.val → chanAlone s n.val →
    let d := s.bytes (s.descAddr n.val) 32
    s.descCheck d = 0 → descSrcPort d = false → descDstPort d = false → dmaTarget (descSrc d) = 0 → dmaTarget (descDst d) = 0 →
    descLen d = 2 ^ descSw d → descDw d = descSw d → descSwap d = 0 → s.poisoned (descSrc d) (descLen d) = false →
    goesOn (exec (.dmaDescriptor n) s) (fun t =>
      t.bytes (descDst d) (descLen d) = s.bytes (descSrc d) (descLen d) ∧ s.memSame t (descDst d) (descLen d) ∧
      (t.chanOf n.val).busy = true ∧ (t.chanOf n.val).done = true ∧ (t.chanOf n.val).err = 0 ∧
      (t.chanOf n.val).writes = (s.chanOf n.val).writes + 1)) ∧
  (∀ (s : State) (n : Fin 32), (s.chanOf n.val).busy = true → (s.chanOf n.val).done = true → s.power ≠ pSTANDBY →
    s.ddrWait (s.descAddr n.val) = false → goesOn (exec (.dmaDone n) s) (fun t =>
    let c := s.chanOf n.val
    (t.chanOf n.val).busy = false ∧ (t.chanOf n.val).err = c.err ∧
    (t.chanOf n.val).writes = (if bit (descCtrl c.desc) 13 then c.writes - c.own else c.writes) ∧
    (c.err = 0 → t.get (R.CHn_HEAD_PTR n.val) = ptrNext (s.chanSize n.val) (s.get (R.CHn_HEAD_PTR n.val)) ∧
      t.get (R.CHn_DONE_CNT_COUNT n.val) = (s.get (R.CHn_DONE_CNT_COUNT n.val) + 1) % 2 ^ 32 ∧
      (bit (descCtrl c.desc) 12 = true → t.get (intRawBit (E.DMA_CH n.val)) = 1)) ∧
    (c.err ≠ 0 → t.get (R.CHn_HEAD_PTR n.val) = s.get (R.CHn_HEAD_PTR n.val) ∧ t.get (R.CHn_STAT_ERR n.val) = c.err % 16 ∧
      t.get (R.CHn_STAT_ERR_CNT n.val) = min 255 (s.get (R.CHn_STAT_ERR_CNT n.val) + 1) ∧ t.get (intRawBit (E.DMA_CH n.val)) = 1) ∧
    (ringPlace (s.descAddr n.val) = true →
      t.bytes (s.descAddr n.val + 0x1C) 4 = leBytes 4 (1 + 16 * c.err) ∧ s.memSame t (s.descAddr n.val + 0x1C) 4))) ∧
  (∀ (s : State) (n : Fin 32), s.served 0x021 = true → s.chanEn n.val = true → (s.chanOf n.val).err ≠ 0 → (s.chanOf n.val).busy = false →
    goesOn (exec (.dmaResume n) s) (fun t =>
      t.get (R.CHn_HEAD_PTR n.val) = ptrNext (s.chanSize n.val) (s.get (R.CHn_HEAD_PTR n.val)) ∧ t.get (R.CHn_STAT_ERR n.val) = 0 ∧
      t.chanOf n.val = { writes := (s.chanOf n.val).writes } ∧ t.chanEn n.val = true)) ∧
  (∀ (s : State) (n : Fin 32), s.served 0x021 = true → s.chanEn n.val = true → goesOn (exec (.dmaDisable n) s) (fun t =>
    t.chanEn n.val = false ∧ t.get (R.CHn_HEAD_PTR n.val) = t.get (R.CHn_TAIL_PTR n.val) ∧ t.get (R.CHn_STAT_STATE n.val) = 0 ∧
    t.chanOf n.val = { writes := (s.chanOf n.val).writes })) ∧
  (∀ (s : State) (n : Fin 32) (r : Nat), s.chanRing n.val = some r → s.chanConflict n.val = false → s.portUp 0 = true →
    s.on R.MEM_STAT_READY = true →
    let o := s.streamNext r
    let new := ringDist (s.ringUnits r) o (s.ringWr r)
    let k := (s.streamTake r o new).1
    0 < k → goesOn (exec (.streamSend n) s) (fun t =>
      k ≤ 1024 ∧ k ≤ new ∧ k ≤ s.ringUnits r - o ∧ (r ≤ 1 → k = min 1024 (min new (s.ringUnits r - o))) ∧
      t.get (R.CHn_STAT_ERR_CNT n.val) = min 255 (s.get (R.CHn_STAT_ERR_CNT n.val) + s.streamBad r o k) ∧
      (t.portOf 0).tx = (s.portOf 0).tx ++ [TxPkt.mk (s.get (R.CHn_CTRL_VC n.val)) (ringType r) (s.bytes (s.ringBase r + 64 * o) (64 * k))
          (some (r, (o + k) % s.ringUnits r))] ∧ ∀ a, t.byte a = s.byte a)) ∧
  (∀ s : State, s.served 0x021 = true → goesOn (exec .dmaFenceGo s) (fun t =>
    (∀ x, x ∈ t.dma.fence ↔ x.1 < 32 ∧ bit (s.get R.DMA_FENCE_MASK_CH) x.1 = true ∧ x.2 = (s.chanOf x.1).writes ∧ x.2 ≠ 0) ∧
    (t.get R.DMA_FENCE_PEND = 0 ↔ t.dma.fence = []) ∧ only s t [R.DMA_FENCE_PEND.reg])) ∧
  (∀ s : State, goesOn (exec .dmaFenceDone s) (fun t => t.dma.fence = [] ∧ t.get R.DMA_FENCE_PEND = 0 ∧
    (∀ n k, s.dma.fence = [(n, k)] → (t.chanOf n).writes = (s.chanOf n).writes - k) ∧
    only s t [R.DMA_FENCE_PEND.reg, R.JOB_STAT_STAGED.reg]))

/-! ## The negative store (R257–R270) -/

/-- The store takes a command: its page is served, it is READY and not BUSY, and the module is in RUN or IDLE. -/
def storeTakes (s : State) : Prop :=
  s.served 0x022 = true ∧ s.on R.NVS_CMD_STAT_BUSY = false ∧ s.power ≠ pHOLDUP ∧ s.power ≠ pSTANDBY ∧ s.on R.NVS_STAT_READY = true

/-- What a command takes from the registers at its GO. -/
def storeArgs (s : State) (v : Word) : NvsArgs := { s.nvsArgs with keep := bit v.toNat 4 }

/-- From s to t a command has begun: it is in progress, and nothing of it is done yet. -/
def storeGoes (s t : State) (op : Nat) (v : Word) (prog : Programmed) : Prop :=
  t.nvs = { s.nvs with job := some { op := op, args := storeArgs s v, prog := prog } } ∧ t.get R.NVS_CMD_STAT_BUSY = 1 ∧
  t.get R.NVS_CMD_OP = op ∧ ∀ a, t.byte a = s.byte a

/-- In t no command is in progress, and the last one has ended with a result and a count. -/
def storeEnds (t : State) (result count : Nat) : Prop :=
  t.nvs.job = none ∧ t.get R.NVS_CMD_STAT_BUSY = 0 ∧ t.get R.NVS_CMD_STAT_RESULT = result ∧ t.get R.NVS_CMD_STAT_COUNT = count ∧
  t.get (intRawBit (if result = 0 then E.NVS_CMD_DONE else E.NVS_CMD_ERR)) = 1

/-- A command is in progress that a compaction does not end. -/
def storeBusy (s : State) (j : NvsJob) (op : Nat) : Prop := s.nvs.job = some j ∧ s.nvs.compactJob = false ∧ j.op = op

/-- R257–R264, R268–R270: a GO runs BUSY, is refused while BUSY, and ends at once with HOLDUP or NOT_READY where the store cannot take it; what the
command does is done, with its RESULT, when it ends, told as CMD_DONE or CMD_ERR. STORE enters an object with the next record's SEQ, and shows the spare blocks
that programming leaves, a WEAR event below 2 %; or ends with the code of Table 11-4 and no object. DELETE removes one, EXPORT stores event records, ADOPT
names the origin, FLUSH_RELEASE ends the flush area's validity, COMPACT begins a compaction, which leaves a CHECKPOINT alone in the journal once no staging read
pre-empts it. A LIFE record covers every TICKNO of the next 600 s. How programming goes is the command's operand (log 98), and that its change is committed at
its end is log 123 (DEDUCED). -/
def Obligations.StoreCommandsRunAndEnd : Prop :=
  (∀ (s : State) (v : Word) (p : Programmed), s.served 0x022 = true → s.on R.NVS_CMD_STAT_BUSY = true →
    goesOn (exec (.nvsStore v p) s) (fun t => told s t E.NVS_CMD_REFUSED ∧ only s t (toldRegs E.NVS_CMD_REFUSED))) ∧
  (∀ (s : State) (v : Word) (p : Programmed), s.served 0x022 = true → s.on R.NVS_CMD_STAT_BUSY = false →
    (s.power = pHOLDUP ∨ s.power = pSTANDBY → goesOn (exec (.nvsStore v p) s) (fun t =>
      storeEnds t 5 0 ∧ t.nvs = { s.nvs with job := none } ∧ ∀ a, t.byte a = s.byte a)) ∧
    (s.power ≠ pHOLDUP → s.power ≠ pSTANDBY → s.on R.NVS_STAT_READY = false → goesOn (exec (.nvsStore v p) s) (fun t =>
      storeEnds t 8 0 ∧ t.nvs = { s.nvs with job := none } ∧ ∀ a, t.byte a = s.byte a))) ∧
  (∀ (s : State) (v : Word) (p : Programmed), storeTakes s →
    goesOn (exec (.nvsStore v p) s) (fun t => storeGoes s t 1 v p) ∧
    goesOn (exec (.nvsDelete v) s) (fun t => storeGoes s t 2 v s.progPlain) ∧
    goesOn (exec (.nvsExport v) s) (fun t => storeGoes s t 4 v s.progPlain) ∧
    goesOn (exec (.nvsAdopt v) s) (fun t => storeGoes s t 5 v s.progPlain) ∧
    goesOn (exec (.nvsFlushRelease v) s) (fun t => storeGoes s t 6 v s.progPlain) ∧
    goesOn (exec (.nvsCompact v) s) (fun t => t.nvs.job.isSome = true ∧ t.nvs.compacting = true ∧ t.nvs.compactJob = true ∧
      t.get R.NVS_CMD_STAT_BUSY = 1 ∧ t.get R.NVS_STAT_COMPACTING = 1 ∧ t.nvs.journal = s.nvs.journal ∧ t.nvs.cat = s.nvs.cat ∧
      ∀ a, t.byte a = s.byte a)) ∧
  (∀ (s : State) (j : NvsJob), storeBusy s j 1 →
    let a := j.args
    a.len = 0 ∨ a.id = 0 ∨ a.type = 0 ∨ 7 < a.type ∨ ddrTop < a.addr + a.len → goesOn (exec .nvsCmdDone s) (fun t =>
      storeEnds t 1 0 ∧ t.nvs = { s.nvs with job := none })) ∧
  (∀ (s : State) (j : NvsJob) (b sl : Nat) (free : List (Nat × Nat)), storeBusy s j 1 →
    let a := j.args
    0 < a.len → a.id ≠ 0 → 1 ≤ a.type → a.type ≤ 7 → a.addr + a.len ≤ ddrTop → s.jFull = false →
    s.nvs.cat.find? (fun e => e.id = a.id) = none → freeSlot s.nvs.cat (min catSlots (s.nvs.cat.length + 1)) 0 = some sl →
    takeFree s.reclaim.nvs.free (mbUnits a.len) = some (b, free) →
    (s.poisoned a.addr a.len = true → goesOn (exec .nvsCmdDone s) (fun t => storeEnds t 6 0 ∧ t.nvs.cat = s.nvs.cat ∧ t.nvs.seq = s.nvs.seq)) ∧
    (s.poisoned a.addr a.len = false → j.prog.fails = true → goesOn (exec .nvsCmdDone s) (fun t =>
      storeEnds t 7 0 ∧ t.nvs.cat = s.nvs.cat ∧ t.get R.NVS_HEALTH_SPARE_PCT = 0 ∧ t.get R.NVS_STAT_WEAR_LOW = 1)) ∧
    (s.poisoned a.addr a.len = false → j.prog.fails = false → min s.nvs.spare j.prog.spare.toNat < 2 → s.nvs.worn = false →
      goesOn (exec .nvsCmdDone s) (fun t => storeEnds t 0 0 ∧ t.get R.NVS_HEALTH_SPARE_PCT = min s.nvs.spare j.prog.spare.toNat ∧
        t.get R.NVS_STAT_WEAR_LOW = 1 ∧ t.nvs.worn = true ∧ t.get (intRawBit E.NVS_WEAR) = 1)) ∧
    (s.poisoned a.addr a.len = false → j.prog.fails = false → 2 ≤ s.nvs.spare → 2 ≤ j.prog.spare.toNat →
    goesOn (exec .nvsCmdDone s) (fun t =>
      storeEnds t 0 0 ∧ t.nvs.seq = s.nvs.seq + 1 ∧ t.nvs.free = free ∧
      t.get R.NVS_HEALTH_SPARE_PCT = min s.nvs.spare j.prog.spare.toNat ∧ t.get R.NVS_STAT_WEAR_LOW = 0 ∧
      ∃ e, t.nvs.cat = e :: s.nvs.cat.filter (fun x => x.id ≠ a.id) ∧ e.id = a.id ∧ e.slot = sl ∧ e.size = a.len ∧
        e.jseq = s.nvs.seq + 1 ∧ nvsBase + 4096 * e.base = nvsObjects + 0x400000 * b ∧ e.crc = crc32 (s.bytes a.addr a.len) ∧
        t.bytes (nvsCatalogue + 64 * sl) 64 = e.bytes ∧
        (Memory.wf s.mem = true → t.bytes (nvsBase + 4096 * e.base) a.len = s.bytes a.addr a.len)))) ∧
  (∀ (s : State) (j : NvsJob), storeBusy s j 2 → j.args.id ≠ 0 → s.jFull = false →
    (∀ o, s.nvs.cat.find? (fun e => e.id = j.args.id) = some o → goesOn (exec .nvsCmdDone s) (fun t =>
      storeEnds t 0 0 ∧ t.nvs.cat = s.nvs.cat.filter (fun x => x.id ≠ j.args.id) ∧ t.nvs.seq = s.nvs.seq + 1 ∧
      (∃ r, t.nvs.journal = s.nvs.journal ++ [r] ∧ r.type = jOBJ_DELETE ∧ r.seq = s.nvs.seq + 1) ∧
      s.memSame t (nvsCatalogue + 64 * o.slot) 64)) ∧
    (s.nvs.cat.find? (fun e => e.id = j.args.id) = none → goesOn (exec .nvsCmdDone s) (fun t =>
      storeEnds t 3 0 ∧ t.nvs = { s.nvs with job := none } ∧ ∀ a, t.byte a = s.byte a))) ∧
  (∀ s : State, s.nvsUp = true → s.power = pRUN ∨ s.power = pIDLE → 1536 * 0x4000 < s.jUsed → s.nvs.compacting = false →
    s.nvs.job = none → goesOn (exec .compactionStart s) (fun t =>
      t.nvs = { s.nvs with compacting := true } ∧ t.get R.NVS_STAT_COMPACTING = 1 ∧ s.regsSame t [R.NVS_STAT_COMPACTING.reg, R.CAL_BG_STAT_STARVED.reg])) ∧
  (∀ s : State, s.nvs.compacting = true → s.nvsUp = true → s.power ≠ pHOLDUP → s.power ≠ pSTANDBY → s.stagingRead = false →
    s.nvs.job = none ∨ s.nvs.compactJob = true → goesOn (exec .compactionDone s) (fun t =>
      t.nvs.compacting = false ∧ t.nvs.seq = s.nvs.seq + 2 ∧ t.get R.NVS_STAT_COMPACTING = 0 ∧
      (∃ r, t.nvs.journal = [r] ∧ r.type = jCHECKPOINT ∧ r.seq = s.nvs.seq + 2) ∧
      (s.nvs.compactJob = true → storeEnds t 0 0))) ∧
  (∀ (s : State) (j : NvsJob), storeBusy s j 4 → 0 < j.args.len → j.args.addr + j.args.len ≤ ddrTop → goesOn (exec .nvsCmdDone s) (fun t =>
      let out := exportTo (s.nvs.journal.filter (fun r => r.type = jEVENT && j.args.arg ≤ r.seq)) j.args.len
      storeEnds t 0 (out.2 % 2 ^ 24) ∧ t.nvs.journal = s.nvs.journal ∧ s.memSame t j.args.addr out.1.length ∧
      t.bytes j.args.addr out.1.length = out.1.map (· % 256))) ∧
  (∀ (s : State) (j : NvsJob), storeBusy s j 5 → s.jFull = false → goesOn (exec .nvsCmdDone s) (fun t =>
    storeEnds t 0 0 ∧ t.nvs.adoptedFrom = j.args.arg ∧ t.nvs.cat = s.nvs.cat ∧
    (∃ r rest, t.nvs.journal = s.nvs.journal ++ r :: rest ∧ r.type = jADOPT))) ∧
  (∀ (s : State) (j : NvsJob), storeBusy s j 6 → goesOn (exec .nvsCmdDone s) (fun t =>
    storeEnds t 0 0 ∧ t.get R.NVS_FLUSH_STAT_VALID = 0 ∧ t.nvs.journal = s.nvs.journal ∧ ∀ a, t.byte a = s.byte a)) ∧
  (∀ (s : State) (u : Nat), s.nvsUp = true → 600 * secClk ≤ max s.now u - s.nvs.lastLifeTime → s.chain.pend = none →
    goesOn (exec (.lifeCommit u) s) (fun t =>
      t.nvs.seq = s.nvs.seq + 1 ∧ t.nvs.saved.hwm = s.tick.tickno + 240000000 ∧
   t.nvs.lastLifeTime = max s.now u ∧ ∃ r, t.nvs.journal = s.nvs.journal ++ [r] ∧ r.type = jLIFE ∧ r.units = 3))

/-! ## Power (R346–R365) -/

/-- R346–R352: a change of SRC_ID between samples is marked and told; a domain comes on in its turn at least 50 µs after the last; one that
misses regulation goes off, or stays off, and is recorded; RUN and IDLE follow PWR_CTRL once they are allowed, and a request that is not is
counted; a request for RUN from IDLE waits for ARRAY_DRV, the last domain to come on, and RUN is shown then (log 37, DEDUCED); RUN left where it is not admissible
leaves the converters and LAMP off; a source qualifies 100 ms after it has come into range. -/
def Obligations.SourceDomainsAndStates : Prop :=
  (∀ (s : State) (ohms : Nat), s.pwr.off = false → srcOfOhms ohms ≠ s.pwr.srcPin → goesOn (exec (.srcChanged ohms) s) (fun t =>
    t.pwr.srcPin = srcOfOhms ohms ∧ t.get R.PWR_STAT_SRC_CHANGED = 1 ∧ t.get R.PWR_STAT_SRC = s.get R.PWR_STAT_SRC ∧
    told s t E.PWR_SRC_CHANGED ∧ only s t (R.PWR_STAT_SRC_CHANGED.reg :: toldRegs E.PWR_SRC_CHANGED))) ∧
  (∀ (s : State) (u d : Nat), s.pwr.off = false →
    domOrder.find? (fun d => s.domWanted d && !s.dom d && !s.pwr.failed.contains d && (prereqs d).all s.dom) = some d →
    goesOn (exec (.domainOn u) s) (fun t =>
      t.dom d = true ∧ t.pwr.lastOn = some t.now ∧
      t.now = max s.now (match s.pwr.lastOn with | none => u | some v => max u (v + 50 * usClk)) ∧
      (d = dARRAY → s.isIdle = true → t.power = pIDLE ∧ t.pwr.held = s.pwr.held ∧ t.get R.EXP_STAT_SENSOR_ON = 0))) ∧
  (∀ (s : State) (d : Fin 25), s.dom d.val = true → d.val ≠ dAON → goesOn (exec (.domainRegTimeout d) s) (fun t =>
    t.dom d.val = false ∧ t.pwr.failed.contains d.val = true ∧
    t.on ⟨R.SYS_SELFTEST_FAIL.reg, if (6 ≤ d.val && d.val < 18) || 21 ≤ d.val then 3 else 2, 1⟩ = true)) ∧
  (∀ (s : State) (d : Fin 25), d.val ≠ dAON → s.domNext = some d.val → goesOn (exec (.domainRegTimeout d) s) (fun t =>
    t.dom d.val = false ∧ t.pwr.failed.contains d.val = true ∧
    t.on ⟨R.SYS_SELFTEST_FAIL.reg, if (6 ≤ d.val && d.val < 18) || 21 ≤ d.val then 3 else 2, 1⟩ = true ∧
    t.now = (match s.pwr.lastOn with | none => s.now | some v => max s.now (v + 50 * usClk)) + 2 * msClk)) ∧
  (∀ (s : State) (v : Word), s.isIdle = true → v.toNat % 4 = 1 → s.runAllowed = true → s.dom dARRAY = false → s.pwr.started = true →
    goesOn (exec (.powerRequest v) s) (fun t => t.power = pIDLE ∧ t.pwr.held = true ∧ t.domWanted dARRAY = true ∧
      t.get (intRawBit E.PWR_STATE_REFUSED) = s.get (intRawBit E.PWR_STATE_REFUSED) ∧ only s t [R.PWR_CTRL_REQ.reg])) ∧
  (∀ (s : State) (v : Word), s.isIdle = true → v.toNat % 4 = 1 → s.runAllowed = true → s.dom dARRAY = true →
    goesOn (exec (.powerRequest v) s) (fun t => t.power = pRUN ∧ t.pwr.held = false)) ∧
  (∀ (s : State) (v : Word), s.isIdle = true → v.toNat % 4 = 1 → s.runAllowed = false → goesOn (exec (.powerRequest v) s) (fun t =>
    t.power = pIDLE ∧ t.pwr.held = true ∧ told s t E.PWR_STATE_REFUSED ∧ ∀ a, t.byte a = s.byte a)) ∧
  (∀ (s : State) (v : Word), s.inRun = true → v.toNat % 4 = 0 → s.jobRunning = false → s.pipeFlushed = true →
    goesOn (exec (.powerRequest v) s) (fun t => t.power = pIDLE ∧ t.dom dARRAY = false ∧ t.get R.EXP_STAT_SENSOR_ON = 0 ∧
      (t.runAdmissible = false → t.dom dCONVN = false ∧ t.dom dCONVS = false ∧ t.dom dLAMP = false))) ∧
  (∀ s : State, s.isIdle = true → s.pwr.held = true → s.reqState = pRUN → s.runAllowed = true → s.dom dARRAY = true →
    goesOn (exec .powerTransition s) (fun t => t.power = pRUN ∧ t.pwr.held = false ∧ ∀ a, t.byte a = s.byte a)) ∧
  (∀ (s : State) (u : Nat), s.pwr.off = false → s.pwr.qualified = false → s.pwr.qualSince = none →
    goesOn (exec (.inputReturn u) s) (fun t => t.now = max s.now u ∧ t.pwr.qualSince = some t.now ∧
      t.get R.PWR_STAT_QUALIFYING = 1 ∧ only s t [R.PWR_STAT_QUALIFYING.reg])) ∧
  (∀ (s : State) (u v : Nat), s.pwr.off = false → s.pwr.qualSince = some v → goesOn (exec (.inputExcursion u) s) (fun t =>
    t.pwr.qualSince = none ∧ t.get R.PWR_STAT_QUALIFYING = 0 ∧ told s t E.PWR_QUAL_RESTART ∧
    only s t (R.PWR_STAT_QUALIFYING.reg :: toldRegs E.PWR_QUAL_RESTART))) ∧
  (∀ (s : State) (u v : Nat), s.pwr.qualSince = some v → s.on R.SYS_STAT_STARTING = true → s.pwr.started = false → s.power = pIDLE →
    goesOn (exec (.sourceQualified u) s) (fun t =>
      t.pwr.qualified = true ∧ t.pwr.qualSince = none ∧ t.pwr.started = true ∧ t.get R.PWR_STAT_QUALIFYING = 0 ∧
      t.get R.PWR_STAT_SRC = s.pwr.srcPin % 4 ∧ t.now = max (max s.now u) (v + 100 * msClk)))

/-- The phase of a charger that stops: OFF, or FAULT while a fault stands. -/
def stoppedPhase (s : State) : Nat := if s.get R.PWR_CHG_STAT_FAULT = 0 then 0 else 6

/-- A charge may start: enabled, a pack that fits its limits, the source qualified, not in HOLD-UP. -/
def mayCharge (s : State) : Bool := s.on R.PWR_CHG_CTRL_EN && s.packFit && s.pwr.qualified && decide (s.power ≠ pHOLDUP)

/-- R353, R362–R365: with a usable pack an input loss or the reserve reached takes the module into HOLD-UP's DRAIN, without one it is OFF;
the flush switches off what it does not need, its records make the flush area valid where its header has a right CRC-32 and their SEQ, and WAIT ends in OFF or in the hand-back. Above the
input limit a usable pack supplements and charging stops; without one the input follows the draw up to 8.0 A. The draw and the charge while the pack gives the current
are the commands' operands and free values (log 92). -/
def Obligations.HoldUpAndSupplement : Prop :=
  (∀ (s : State) (u : Nat), s.pwr.off = false → s.power ≠ pHOLDUP → s.packUsable = true → goesOn (exec (.inputLoss u) s) (fun t =>
    t.power = pHOLDUP ∧ t.get R.PWR_STAT_HOLD_PHASE = 1 ∧ t.get R.PWR_STAT_HOLD_CAUSE = 1 ∧ t.get R.PWR_STAT_ON_PACK = 1 ∧
    t.tick.flushLeft = 3 ∧ t.tick.queue = [] ∧ t.job.active = none ∧ t.pwr.qualified = false ∧ t.get (intRawBit E.PWR_INPUT_LOSS) = 1)) ∧
  (∀ (s : State) (u : Nat), s.pwr.off = false → s.power ≠ pHOLDUP → s.packUsable = false → goesOn (exec (.inputLoss u) s) (fun t =>
    t.pwr.off = true ∧ t.lines = [] ∧ t.eng = [] ∧ (∀ a, a < nvsBase → t.byte a = 0) ∧ (∀ a, nvsBase ≤ a → t.byte a = s.byte a) ∧
    t.nvs.journal = s.nvs.journal ∧ t.nvs.cat = s.nvs.cat)) ∧
  (∀ s : State, s.power = pHOLDUP → s.get R.PWR_STAT_HOLD_PHASE = 1 → s.tick.flushLeft = 0 →
    s.sys.warmEnd = none → goesOn (exec .holdupFlush s) (fun t =>
    t.get R.PWR_STAT_HOLD_PHASE = 2 ∧ t.get R.NVS_STAT_FLUSHING = 1 ∧ t.lines = [] ∧
    ∀ d, d < 25 → t.dom d = (decide (d = dCLK ∨ d = dDDR ∨ d = dSUPV ∨ d = dNVS ∨ d = dLOFT) || (decide (d = dAON) && s.dom dAON)))) ∧
  (∀ s : State, s.power = pHOLDUP → s.get R.PWR_STAT_HOLD_PHASE = 2 → s.nvs.flushHdr.isSome = true → s.on R.NVS_STAT_READY = true → s.sys.resetHeld = 0 →
    goesOn (exec .flushDone s) (fun t =>
    let hdr := s.bytes nvsFlush 4096
    let ok := decide (crc32 (hdr.take 4092) = leNat (hdr.drop 4092)) && decide (leNat (hdr.take 8) = s.nvs.seq + 1)
    t.get R.PWR_STAT_HOLD_PHASE = 3 ∧ t.pwr.flushEnded = true ∧ t.get R.NVS_FLUSH_STAT_VALID = boolNat ok ∧
    t.get R.NVS_FLUSH_STAT_LOST_PREV = boolNat (ok && s.nvs.flushSeq.isSome) ∧ t.nvs.flushSeq = some (s.nvs.seq + 1) ∧ t.get R.MEM_STAT_READY = 0 ∧ t.nvs.flushHdr = none ∧
    ∃ a b rest, t.nvs.journal = s.nvs.journal ++ a :: b :: rest ∧ a.type = jFLUSH ∧ b.type = jEVENT)) ∧
  (∀ s : State, s.power = pHOLDUP → s.get R.PWR_STAT_HOLD_PHASE = 3 → s.pwr.qualified = false → s.pwr.off = false →
    goesOn (exec .holdWaitExpire s) (fun t =>
      t.pwr.off = true ∧ t.now = max s.now (s.pwr.waitSince + s.get R.PWR_HOLD_HOLD_WAIT * secClk))) ∧
  (∀ s : State, s.on R.PWR_STAT_ON_PACK = true → s.pwr.off = false → goesOn (exec .packCutoff s) (fun t =>
    t.pwr.off = true ∧ t.nvs.journal = s.nvs.journal ∧ ∀ a, nvsBase ≤ a → t.byte a = s.byte a)) ∧
  (∀ s : State, s.power = pHOLDUP → s.pwr.flushEnded = true → s.pwr.qualified = true → s.pwr.off = false → s.sys.resetHeld = 0 →
    goesOn (exec .handback s) (fun t =>
      t.get R.PWR_STAT_ON_PACK = 0 ∧ t.get R.PWR_STAT_HOLD_PHASE = 0 ∧ t.get R.PWR_STAT_SRC = s.pwr.srcPin % 4 ∧
      t.get (intRawBit E.PWR_HANDBACK) = 1 ∧
      t.power = (if (s.on R.PWR_CTRL_AUTO_WAKE || s.pwr.wake) && !s.pwr.fromThermal then pIDLE else pSTANDBY))) ∧
  (∀ (s : State) (ma u : Nat), s.pwr.off = false → s.power ≠ pHOLDUP → s.get R.PWR_ILIM_ACT * 100 < ma →
    goesOn (exec (.supplement ma u) s) (fun t => t.now = max s.now u ∧
      (s.packUsable = true → t.get R.PWR_STAT_SUPPLEMENT = 1 ∧ t.get R.PWR_IN_MON_I = s.get R.PWR_ILIM_ACT * 100) ∧
      (s.packUsable = true → s.on R.PWR_STAT_SUPPLEMENT = false → t.get R.PWR_CHG_STAT_PHASE = stoppedPhase s ∧ told s t E.PWR_SUPPLEMENT) ∧
      (s.packUsable = false → t.get R.PWR_IN_MON_I = min ma 8000 ∧ told s t E.PWR_OVERLOAD) ∧ ∀ a, t.byte a = s.byte a)) ∧
  (∀ s : State, s.on R.PWR_STAT_SUPPLEMENT = true → goesOn (exec .supplementEnd s) (fun t =>
    t.get R.PWR_STAT_SUPPLEMENT = 0 ∧ t.get R.PACK_IT_I = (if s.get R.PWR_CHG_STAT_PHASE = 2 ∧ s.tempPause = false then 150 else 0) ∧
    t.get R.PWR_CHG_STAT_PHASE = (if mayCharge s ∧ s.get R.PWR_CHG_STAT_FAULT = 0 then 1 else s.get R.PWR_CHG_STAT_PHASE) ∧
    ∀ a, t.byte a = s.byte a)) ∧
  (∀ (s : State) (mah : Half), s.on R.PWR_STAT_SUPPLEMENT = true → s.pwr.off = false → goesOn (exec (.overload mah) s) (fun t =>
    t.get R.PACK_CHARGE_MAH = mah.toNat ∧
    (mah.toNat ≤ s.get R.PWR_HOLD_RESERVE → t.power = pHOLDUP ∧ t.get R.PWR_STAT_HOLD_CAUSE = 2 ∧ t.get R.PWR_STAT_SUPPLEMENT = 0) ∧
    (s.get R.PWR_HOLD_RESERVE < mah.toNat → t.power = s.power ∧ t.on R.PWR_STAT_SUPPLEMENT = true)))

/-- R354–R361: the pack's presence, identity and probe, the phases DETECT, PRECHARGE, PULSE, DONE and MAINTAIN, the safety timer's budget,
and the faults, which stop charging and are told, end at FAULT_CLR or with a pack that is inserted, and are raised again by FAULT_CLR where they still hold. A pulse
carries at most I_SET and what the input leaves beside the system current (the rate at which the charger takes it up is log 148). -/
def Obligations.PackAndCharger : Prop :=
  (∀ s : State, s.pwr.off = false → s.get R.PWR_CHG_STAT_FAULT ≠ 0 → s.on R.PWR_STAT_SUPPLEMENT = false → s.on R.PWR_STAT_ON_PACK = false →
    (s.standingFaults = [] → goesOn (exec .faultClr s) (fun t =>
      t.get R.PWR_CHG_STAT_FAULT = 0 ∧ t.get R.PWR_CHG_STAT_PHASE = boolNat (mayCharge s))) ∧
    (∀ f, s.standingFaults = [f] → goesOn (exec .faultClr s) (fun t =>
      t.get R.PWR_CHG_STAT_FAULT = f ∧ t.get R.PWR_CHG_STAT_PHASE = 6 ∧ told s t E.PWR_CHG_FAULT))) ∧
  (∀ (s : State) (ntc : Nat) (v : Half) (temp : Int) (ok : Bool) (chem : Byte) (cap : Half) (ser : BitVec 64), s.pwr.off = false →
    ntc < 100 → s.pwr.faults.contains 4 = false → s.on R.PWR_STAT_ON_PACK = false →
    goesOn (exec (.packCheck ntc v temp ok chem cap ser) s) (fun t =>
      t.packPresent = false ∧ t.get R.PWR_CHG_STAT_FAULT = 4 ∧ t.get R.PWR_CHG_STAT_PHASE = 6 ∧ told s t E.PWR_CHG_FAULT)) ∧
  (∀ (s : State) (ntc : Nat) (v : Half) (temp : Int) (ok : Bool) (chem : Byte) (cap : Half) (ser : BitVec 64), s.pwr.off = false →
    500000 < ntc → s.packPresent = true → s.pwr.miss = 2 → goesOn (exec (.packCheck ntc v temp ok chem cap ser) s) (fun t =>
      t.packPresent = false ∧ t.get R.PACK_CHARGE_VALID = 0 ∧ t.get R.PWR_CHG_STAT_PHASE = stoppedPhase s ∧ t.get R.PWR_STAT_SUPPLEMENT = 0 ∧
      t.packUsable = false ∧ told s t E.PWR_PACK_MISSING)) ∧
  (∀ (s : State) (ntc : Nat) (v : Half) (temp : Int) (ok : Bool) (chem : Byte) (cap : Half) (ser : BitVec 64), s.pwr.off = false →
    100 ≤ ntc → ntc ≤ 500000 → -400 ≤ temp → temp ≤ 600 → goesOn (exec (.packCheck ntc v temp ok chem cap ser) s) (fun t =>
      t.packPresent = true ∧ t.pwr.miss = 0 ∧ t.get R.PACK_V_V_REST = v.toNat ∧ t.packTemp = temp ∧
      (s.packPresent = false → idAccepted ok chem.toNat cap.toNat = true → t.get (intRawBit E.PWR_PACK_INSERTED) = 1 ∧
        t.get R.PACK_ID_CAP = cap.toNat ∧ (v.toNat ≤ 8500 → t.get R.PWR_CHG_STAT_FAULT = 0)))) ∧
  (∀ (s : State) (v : Half) (ntc : Nat), s.pwr.off = false → s.packPresent = true → 1000 ≤ v.toNat → 100 ≤ ntc →
    s.get R.PWR_CHG_STAT_PHASE = 1 → s.pwr.idOk = true → v.toNat ≤ 8800 → s.get R.PACK_V_V_REST ≤ 8500 → s.packTemp ≤ 600 → goesOn (exec (.packProbe v ntc) s) (fun t =>
      t.get R.PACK_V_V_NOW = v.toNat ∧ t.get R.PWR_CHG_STAT_PHASE = (if s.get R.PACK_V_V_REST < 6000 then 2 else 3) ∧
      (6000 ≤ s.get R.PACK_V_V_REST → t.pwr.acc = 0 ∧ t.get R.PWR_CHG_STAT_TIMER_ACC = 0) ∧ ∀ a, t.byte a = s.byte a)) ∧
  (∀ (s : State) (v : Half) (ntc : Nat), s.pwr.off = false → s.packPresent = true → 8800 < v.toNat → 100 ≤ ntc → s.pwr.faults.contains 5 = false →
    s.packTemp ≤ 600 → goesOn (exec (.packProbe v ntc) s) (fun t =>
      t.get R.PWR_CHG_STAT_FAULT = 5 ∧ t.get R.PWR_CHG_STAT_PHASE = 6 ∧ told s t E.PWR_CHG_FAULT)) ∧
  (∀ s : State, s.pwr.off = false → s.packPresent = true → s.get R.PWR_CHG_STAT_PHASE = 3 ∨ s.on R.PWR_STAT_SUPPLEMENT = true →
    s.pwr.faults.contains 4 = false → s.on R.PWR_STAT_ON_PACK = false → goesOn (exec .packOvercurrent s) (fun t =>
      t.get R.PWR_CHG_STAT_FAULT = 4 ∧ t.get R.PWR_CHG_STAT_PHASE = 6 ∧ t.get R.PWR_STAT_SUPPLEMENT = 0 ∧ told s t E.PWR_CHG_FAULT)) ∧
  (∀ (s : State) (chg i vt vr : Half) (temp : Int) (sys : Half) (u : Nat), s.pwr.off = false → s.get R.PWR_CHG_STAT_PHASE = 3 → s.packPresent = true → s.pwr.idOk = true →
    s.on R.PWR_CHG_CTRL_EN = true → 0 ≤ temp → temp ≤ 450 → vr.toNat ≤ 8500 → vt.toNat ≤ 8800 →
    goesOn (exec (.chargeCycle chg i vt vr temp sys u) s) (fun t =>
      let ended := 8300 ≤ vr.toNat ∧ chg.toNat < 100 ∧ 2 ≤ s.pwr.lowDuty
      t.now = max s.now u ∧ t.get R.PACK_V_V_REST = vr.toNat ∧ t.get R.PWR_CHG_STAT_DUTY = min 900 chg.toNat / 10 ∧
      s.pwr.acc ≤ t.pwr.acc ∧ (ended → t.get R.PWR_CHG_STAT_PHASE = 4 ∧ t.get R.PACK_CHARGE_MAH = s.get R.PACK_ID_CAP ∧
        told s t E.PWR_CHG_DONE) ∧ (¬ ended → t.get R.PWR_CHG_STAT_PHASE = 3) ∧
      (¬ ended → s.on R.PWR_STAT_SUPPLEMENT = false → t.get R.PACK_IT_I ≤ i.toNat ∧ t.get R.PACK_IT_I ≤ s.iSet ∧
        (s.get R.PWR_ILIM_ACT * 100 ≤ sys.toNat + 200 → t.get R.PACK_IT_I = 0)))) ∧
  (∀ s : State, s.get R.PWR_CHG_STAT_PHASE = 2 → s.pwr.off = false → s.pwr.faults.contains 3 = false →
    goesOn (exec .prechgTimeout s) (fun t =>
      t.get R.PWR_CHG_STAT_FAULT = 3 ∧ t.get R.PWR_CHG_STAT_PHASE = 6 ∧ t.now = max s.now (s.pwr.preSince + 1800 * secClk) ∧
      told s t E.PWR_CHG_FAULT)) ∧
  (∀ s : State, s.get R.PWR_CHG_STAT_PHASE = 2 → s.pwr.off = false → goesOn (exec .prechargeDone s) (fun t =>
    t.get R.PWR_CHG_STAT_PHASE = 3 ∧ t.get R.PACK_V_V_REST = max 6000 (s.get R.PACK_V_V_REST))) ∧
  (∀ (s : State) (v : Half), s.pwr.off = false → s.get R.PWR_CHG_STAT_PHASE = 4 ∨ s.get R.PWR_CHG_STAT_PHASE = 5 → v.toNat ≤ 8500 →
    s.packFit = true → s.get R.PACK_V_V_NOW ≤ 8800 → goesOn (exec (.maintainCheck v) s) (fun t =>
      t.get R.PACK_V_V_REST = v.toNat ∧ t.get R.PWR_CHG_STAT_PHASE = (if v.toNat < 8100 then 3 else 5))) ∧
  (∀ s : State, s.get R.PWR_CHG_STAT_PHASE = 3 → s.pwr.off = false → s.budgetUs ≤ s.pwr.acc → s.pwr.faults = [] →
    goesOn (exec .chgTimerExpire s) (fun t =>
      t.get R.PWR_CHG_STAT_FAULT = (if s.on R.PWR_CHG_STAT_FOLDBACK then 2 else 1) ∧ t.get R.PWR_CHG_STAT_PHASE = 6 ∧
      told s t E.PWR_CHG_FAULT))

/-! ## Start-up, resets and health (R393–R404), temperature (R333–R343) -/

/-- What a warm reset leaves, beside its cause: not ready, starting, nothing in flight, no job, TICKNO and memory as before (R395, R397),
but for the records of repeats that the end of their job closes (R209). -/
def warmed (s t : State) (last : Nat) : Prop :=
  t.get R.SYS_STAT_READY = 0 ∧ t.get R.SYS_STAT_STARTING = 1 ∧ t.get R.SYS_STAT_LAST_RESET = last ∧ t.lines = [] ∧ t.job.active = none ∧
  t.tick.tickno = s.tick.tickno ∧ (s.dev.reps = [] → ∀ a, t.byte a = s.byte a)

/-- R396: the watchdog's failure makes a warm reset with LAST_RESET = WDOG and counts it; while the module runs from the pack in HOLD-UP the
reset waits (R398), as long as WAIT has not begun; a warm reset in the cycle in which a cold one began is lost (R398). What Table 17-2 leaves to a status bit that is
neither kept nor reset by name is log 149 (DESIGN CHOICE). -/
def Obligations.WatchdogMakesAWarmReset : Prop :=
  ∀ s : State, s.dom dSUPV = true → s.pwr.off = false → s.coldNow = false →
    (s.power = pRUN ∨ s.power = pIDLE → goesOn (exec .supervisorWdog s) (fun t =>
      warmed s t 3 ∧ t.get R.SYS_RESET_CNT_WDOG = min 65535 (s.get R.SYS_RESET_CNT_WDOG + 1) ∧
      t.get R.SYS_RESET_CNT_WARM = s.get R.SYS_RESET_CNT_WARM)) ∧
    (s.power = pHOLDUP → s.get R.PWR_STAT_HOLD_PHASE ≠ 3 → goesOn (exec .supervisorWdog s) (fun t => t.sys.resetHeld = max 2 s.sys.resetHeld ∧ only s t []))

/-- R393–R404: power-on begins qualification; the replay's end sets TICKNO above TICKNO_HWM and commits a LIFE record that covers it; READY
follows a self-test without a fatal item; a warm reset gives up the work in hand and keeps TICKNO and memory, a cold one switches all
but AON off and loses memory; in STANDBY a reset waits, in HOLD-UP until WAIT; a reset of named domains is refused for others than courses, ports and LAMP; a resume is accepted in SHUTDOWN where
RESUME_OK is 1, also in HOLD-UP, which it leaves as it is (log 96, DEDUCED). What a warm reset keeps is log 93 and log 149, when items of the self-test are judged
log 99. -/
def Obligations.StartAndResets : Prop :=
  (∀ (s : State) (ohms : Nat) (addr : Fin 8) (u : Nat), s.pwr.off = true → goesOn (exec (.powerOn ohms addr u) s) (fun t =>
    t.pwr.off = false ∧ t.now = max s.now u ∧ t.pwr.qualSince = some t.now ∧ t.pwr.srcPin = srcOfOhms ohms ∧ t.power = pIDLE ∧
    t.get R.PWR_STAT_QUALIFYING = 1 ∧ t.get R.SYS_STAT_STARTING = 1 ∧ t.get R.MB_STAT_ADDR = 0x58 + addr.val ∧
    t.nvs.life.cycles = s.nvs.life.cycles + 1 ∧ ∀ a, t.byte a = s.byte a)) ∧
  (∀ (s : State) (torn : Bool), s.on R.NVS_STAT_REPLAYING = true → s.dom dNVS = true → s.dom dSUPV = true →
    goesOn (exec (.replayDone (if torn then .torn else .whole)) s) (fun t =>
      t.get R.NVS_STAT_READY = 1 ∧ t.get R.NVS_STAT_REPLAYING = 0 ∧
      (torn = true → t.on ⟨R.SYS_SELFTEST_FAIL.reg, 13, 1⟩ = true ∧ t.get (intRawBit E.NVS_REPLAY_TRUNC) = 1) ∧
      (s.nvs.numbered = false → t.tick.tickno = s.nvs.saved.hwm + 1 ∧ t.tick.firstTick = true ∧ t.nvs.numbered = true ∧
        t.rec_.wm = s.nvs.saved.hwm ∧ t.tick.tickno < t.nvs.saved.hwm) ∧
      (s.nvs.numbered = true → t.tick = s.tick))) ∧
  (∀ s : State, s.on R.NVS_STAT_REPLAYING = true → s.dom dNVS = true → s.dom dSUPV = true →
    goesOn (exec (.replayDone .medium) s) (fun t =>
      t.get R.NVS_STAT_READY = s.get R.NVS_STAT_READY ∧ t.get R.NVS_STAT_REPLAYING = 0 ∧ t.get R.SYS_STAT_FATAL = 1 ∧
      t.on ⟨R.SYS_SELFTEST_FAIL.reg, 7, 1⟩ = true ∧ t.nvs.journal = s.nvs.journal)) ∧
  (∀ (s : State) (loft : Bool), s.on R.SYS_STAT_STARTING = true → s.pwr.off = false → s.dom dSUPV = true → s.power ≠ pHOLDUP →
    goesOn (exec (.ready loft) s) (fun t =>
      let fatal := decide ((s.selfTest loft).get R.SYS_SELFTEST_FAIL &&& fatalItems ≠ 0) || s.on R.SYS_STAT_FATAL
      (fatal = false → s.startOver = false → t = s) ∧
      (fatal = false → s.startOver = true → t.get R.SYS_STAT_READY = 1 ∧ t.get R.SYS_STAT_STARTING = 0 ∧ t.get (intRawBit E.SYS_READY) = 1 ∧
        t.get R.SYS_BOOT_MS_MS = min 65535 ((s.now - s.sys.startAt) / msClk)) ∧
      (fatal = true → t.get R.SYS_STAT_READY = s.get R.SYS_STAT_READY ∧ t.get R.SYS_STAT_FATAL = 1 ∧
        t.get R.SYS_STAT_STARTING = 0))) ∧
  (∀ s : State, s.pwr.off = false → s.coldNow = false → s.power = pRUN ∨ s.power = pIDLE → goesOn (exec .warmReset s) (fun t =>
    warmed s t 2 ∧ t.get R.SYS_RESET_CNT_WARM = min 65535 (s.get R.SYS_RESET_CNT_WARM + 1))) ∧
  (∀ s : State, s.pwr.off = false → s.coldNow = false → s.power = pSTANDBY ∨ (s.power = pHOLDUP ∧ s.get R.PWR_STAT_HOLD_PHASE ≠ 3) →
    goesOn (exec .warmReset s) (fun t =>
    t.sys.resetHeld = max 1 s.sys.resetHeld ∧ only s t [])) ∧
  (∀ (s : State) (addr : Fin 8), s.pwr.off = false → s.power = pRUN ∨ s.power = pIDLE → goesOn (exec (.coldReset addr) s) (fun t =>
    t.get R.SYS_STAT_STARTING = 1 ∧ t.get R.SYS_STAT_LAST_RESET = 1 ∧ t.get R.MB_STAT_ADDR = 0x58 + addr.val ∧
    t.tick.tickno = s.tick.tickno ∧ t.lines = [] ∧ t.job.active = none ∧ (∀ d, 0 < d → d < 25 → t.dom d = false) ∧
    (∀ a, a < nvsBase → t.byte a = 0) ∧ t.nvs.journal = s.nvs.journal)) ∧
  (∀ (s : State) (u : Nat), s.sys.warmEnd = some u → goesOn (exec .warmDone s) (fun t =>
    t.sys.warmEnd = none ∧ told s t E.SYS_WARM_DONE ∧ only s t (toldRegs E.SYS_WARM_DONE))) ∧
  (∀ (s : State) (v : Word) (d : Nat), s.pwr.off = false → d < 6 ∨ 17 < d ∧ d < 21 → v.toNat / 2 ^ d % 2 = 1 →
    goesOn (exec (.domainReset v) s) (fun t => told s t E.SYS_DRESET_REFUSED ∧ only s t (toldRegs E.SYS_DRESET_REFUSED))) ∧
  (∀ (s : State) (v : Word) (c : Fin 12), s.pwr.off = false → s.job.active = none → s.pendingBank = none →
    v.toNat = 2 ^ (6 + c.val) → goesOn (exec (.domainReset v) s) (fun t =>
      t.dom (dCOURSE c.val) = false ∧ (s.dom (dCOURSE c.val) = true → t.courseOn c.val = false))) ∧
  (∀ s : State, s.pwr.off = false → s.get R.THERM_STAT_STATE = 4 → s.on R.THERM_STAT_RESUME_OK = true → s.power = pSTANDBY →
    s.pwr.qualified = true → s.sys.resetHeld = 0 → goesOn (exec .thermResume s) (fun t =>
      t.get R.THERM_STAT_STATE ≤ 1 ∧ t.get R.THERM_STAT_STAGE = 0 ∧ t.get R.THERM_STAT_RESUME_OK = 0 ∧ t.pwr.fromThermal = false ∧
      t.power = pIDLE ∧ t.get R.SYS_STAT_STARTING = 1 ∧ t.get R.TICK_CAP_THERM_HZ = 400000)) ∧
  (∀ s : State, s.pwr.off = false → s.get R.THERM_STAT_STATE = 4 → s.on R.THERM_STAT_RESUME_OK = true → s.power = pHOLDUP →
    goesOn (exec .thermResume s) (fun t =>
      t.get R.THERM_STAT_STATE ≤ 1 ∧ t.get R.THERM_STAT_STAGE = 0 ∧ t.get R.THERM_STAT_RESUME_OK = 0 ∧ t.pwr.fromThermal = false ∧
      t.pwr.wake = true ∧ t.power = pHOLDUP)) ∧
  (∀ s : State, s.pwr.off = false → s.get R.THERM_STAT_STATE ≠ 4 ∨ s.on R.THERM_STAT_RESUME_OK = false → goesOn (exec .thermResume s) (fun t =>
    told s t E.THERM_RESUME_REFUSED ∧ only s t (toldRegs E.THERM_RESUME_REFUSED)))

/-- R401, R404: a clear sets every SYS monitor to its empty state. The oldest rise of a roll-up bit is reported as a ROLLUP event and
holds its page off for 1 ms, during which further rises are merged. -/
def Obligations.MonitorsAndRollup : Prop :=
  (∀ s : State, s.pwr.off = false → goesOn (exec .sysMonClr s) (fun t => ∀ m, m < 19 →
    t.get (R.SYS_MONm_MIN_VAL m) = 0x7FFFFFFF ∧ t.get (R.SYS_MONm_MAX_VAL m) = 0x80000000 ∧
    ∀ i, i < 16 → t.get (R.SYS_MONm_BINi_COUNT m i) = 0)) ∧
  (∀ (s : State) (k : Nat) (rest : List Nat), s.sys.rises = k :: rest → mapFind s.sys.holdoff k = none → s.evtQ.length < 64 →
    goesOn (exec .rollupEvent s) (fun t =>
      t.sys.rises = rest ∧ mapFind t.sys.holdoff k = some (s.now + msClk) ∧
      (∃ e, t.evtQ = s.evtQ ++ [e] ∧ e.code = 2 ∧ e.source = 0x014 + k ∧ e.tickno = s.tick.tickno) ∧ only s t [])) ∧
  (∀ (s : State) (k u : Nat) (rest : List Nat), s.sys.rises = k :: rest → mapFind s.sys.holdoff k = some u →
    goesOn (exec .rollupEvent s) (fun t =>
      k ∈ t.sys.merged ∧ t.evtQ = s.evtQ ∧ told s t E.SYS_ROLL_MERGED ∧ only s t (toldRegs E.SYS_ROLL_MERGED))) ∧
  (∀ (s : State) (k u : Nat), firstEnd s.sys.holdoff = some (k, u) → k ∉ s.sys.merged → goesOn (exec .rollupHoldoffEnd s) (fun t =>
    mapFind t.sys.holdoff k = none ∧ t.now = max s.now u ∧ t.evtQ = s.evtQ ∧ only s t [])) ∧
  (∀ (s : State) (k u : Nat), firstEnd s.sys.holdoff = some (k, u) → k ∈ s.sys.merged →
    bit (s.sysRoll &&& s.get R.SYS_EVT_MASK_PAGE) k = true → s.evtQ.length < 64 → goesOn (exec .rollupHoldoffEnd s) (fun t =>
      mapFind t.sys.holdoff k = some (max s.now u + msClk) ∧ k ∉ t.sys.merged ∧ t.evtQ.length = s.evtQ.length + 1 ∧ only s t []))

/-- The effective thresholds of a group are in order (R336). -/
def thrOrdered (s : State) (g : Nat) : Prop :=
  s.thrResume g < s.thrWarn g ∧ s.thrWarn g ≤ s.thrThrottle g ∧ s.thrThrottle g < s.thrShutdown g

/-- R334, R336, R338, R340, R341: a sample gives every trusted site its trimmed reading and marks WARN; a site due becomes suspect, or trusted
again; with a condition present at the end of the grace time ENFORCE and its first stage are entered, and a stage is released when its
time has come; thresholds that lose their order are refused. Corners (what a sample in HOLD-UP does) are log 96. -/
def Obligations.SitesAndThermalStages : Prop :=
  (∀ (s : State) (raw : List Int) (u i : Nat), s.pwr.off = false → i < 72 → s.siteSuspect i = false → -400 < raw.getD i 0 →
    raw.getD i 0 < 1500 → goesOn (exec (.thermalSample raw u) s) (fun t =>
      t.now = max s.now u ∧ t.therm.seen = true ∧ t.siteT i = raw.getD i 0 + toSigned 8 (s.fuseByte (0xA40 + i)) ∧
      (t.thrWarn (siteGroup i) ≤ t.siteT i → t.on (R.THERM_SITEs_WARN i) = true) ∧
      (t.thrThrottle (siteGroup i) ≤ t.siteT i → t.on (R.THERM_SITEs_THROTTLE i) = true))) ∧
  (∀ (s : State) (i : Fin 72), i.val ∈ s.therm.dueSus → s.siteSuspect i.val = false → goesOn (exec (.siteSuspect i) s) (fun t =>
    t.siteSuspect i.val = true ∧ i.val ∉ t.therm.dueSus ∧ t.on ⟨(R.THERM_SUSPECT_SUMw_SITE (i.val / 32)).reg, i.val % 32, 1⟩ = true ∧
    t.get (intRawBit E.THERM_SUSPECT) = 1 ∧ t.on ⟨R.SYS_SELFTEST_FAIL.reg, 9, 1⟩ = true)) ∧
  (∀ (s : State) (i : Fin 72), i.val ∈ s.therm.dueOk → s.siteSuspect i.val = true → goesOn (exec (.siteUnsuspect i) s) (fun t =>
    t.siteSuspect i.val = false ∧ i.val ∉ t.therm.dueOk ∧
    t.on ⟨(R.THERM_SUSPECT_SUMw_SITE (i.val / 32)).reg, i.val % 32, 1⟩ = false ∧ ∀ a, t.byte a = s.byte a)) ∧
  (∀ (s : State) (c : Nat × Nat), s.get R.THERM_STAT_STATE = 2 → s.pwr.off = false → s.throttleCause = some c →
    s.get R.THERM_STAT_STAGE < 7 → goesOn (exec .graceExpire s) (fun t =>
      t.get R.THERM_STAT_STATE = 3 ∧ t.get R.THERM_STAT_STAGE = s.get R.THERM_STAT_STAGE + 1 ∧ t.now = max s.now s.therm.graceEnd ∧
      t.therm.caps.length = s.therm.caps.length + 1 ∧ t.get (intRawBit E.THERM_ENFORCE) = 1 ∧ ∀ a, t.byte a = s.byte a)) ∧
  (∀ s : State, s.get R.THERM_STAT_STATE = 3 → s.therm.cond = false → s.pwr.off = false → goesOn (exec .thermalRelease s) (fun t =>
    t.get R.THERM_STAT_STAGE = s.get R.THERM_STAT_STAGE - 1 ∧ t.therm.caps = s.therm.caps.drop 1 ∧ t.get (intRawBit E.THERM_RELEASE) = 1 ∧
    (1 < s.get R.THERM_STAT_STAGE → t.get R.THERM_STAT_STATE = 3) ∧ (s.get R.THERM_STAT_STAGE ≤ 1 → t.get R.THERM_STAT_STATE ≤ 1) ∧
    t.now = max s.now (if s.therm.releasing then s.therm.lastStage + s.enfStep * secClk else s.therm.lastCond + s.holdSec * secClk))) ∧
  (∀ (s : State) (g : Fin 12) (hi : Bool) (v : Word), s.served 0x028 = true → s.pwr.off = false →
    goesOn (exec (.thermThrWrite g hi v) s) (fun t =>
      let lo := if hi then R.THERM_THRg_W1_SHUTDOWN g.val else R.THERM_THRg_W0_WARN g.val
      let up := if hi then R.THERM_THRg_W1_RESUME g.val else R.THERM_THRg_W0_THROTTLE g.val
      let s1 := (s.put lo v.toNat).put up (v.toNat / 65536)
      (thrOrdered s1 g.val → t.get lo = v.toNat % 65536 ∧ t.get up = v.toNat / 65536 ∧ only s t [lo.reg]) ∧
      (¬ thrOrdered s1 g.val → told s t E.THERM_CFG_REFUSED ∧ only s t (toldRegs E.THERM_CFG_REFUSED))))

/-! ## The chain (R298–R308) -/

/-- The CRC-8 of a token pair: over TOKEN_A bytes 1–6 and TOKEN_B bytes 1–7 (R300). -/
def tokenCrc (fl hp : Byte) (n der : Word) (tp : BitVec 24) : Nat :=
  crc8 ([fl.toNat, hp.toNat] ++ leBytes 4 n.toNat ++ leBytes 4 der.toNat ++ leBytes 3 tp.toNat)

/-- A port carries blocks of the chain upstream: the source is CHAIN and port U is UP. -/
def chainUp (s : State) : Prop := s.chained = true ∧ s.portState 1 = rpUP

/-- R298–R308: an outlier is ignored while locked, a large error is stepped while unlocked; TIME, CTHI, ECHO, TNO and token blocks are sent
and taken; a missing TIME block ends CT_LOCK, a missing token is told and leads to the local encoder where it is wired; sixteen valid
tokens restore the source; a token of the number due waits as the next tick, and one whose CRC-8 is wrong is counted and has no other effect. The
model's own: the servo's rate is a free value and only the stated blocks are sent (logs 10, 80, 81), a token that comes while LOST (log 82), TNO's high
bits (log 84), the position at a token (log 83), and the CHAIN event with code 1 for a loss that is declared in fallback (log 144). -/
def Obligations.ChainBlocksAndTokens : Prop :=
  (∀ (s : State) (ct : BitVec 48) (q : Byte) (u : Nat), chainUp s → s.on R.CHAIN_STAT_CT_LOCK = true →
    let rcv := nearest 48 ((s.at u).chainTime u) ct.toNat
    50 < ((rcv : Int) + s.linkNs - (s.at u).chainTime u).natAbs → goesOn (exec (.timeBlk ct q u) s) (fun t => t = s.at u)) ∧
  (∀ (s : State) (ct : BitVec 48) (q : Byte) (u : Nat), chainUp s → s.on R.CHAIN_STAT_CT_LOCK = false →
    let rcv : Nat := s.chain.ctHigh * 2 ^ 48 + ct.toNat
    1000 < ((rcv : Int) + s.linkNs - (s.at u).chainTime u).natAbs → goesOn (exec (.timeBlk ct q u) s) (fun t =>
      t.chain.ctBase = rcv ∧ t.chain.ctAt = u ∧ t.chain.lastTime = some u ∧ t.chain.okRun = 0 ∧
      only s t [R.CHAIN_CT_ERR_E.reg])) ∧
  (∀ (s : State) (hi : Half), chainUp s → goesOn (exec (.cthiBlk hi) s) (fun t => t.chain.ctHigh = hi.toNat ∧ only s t [])) ∧
  (∀ s : State, s.act R.CHAIN_CTRL_DOWN_EN = 1 → s.portState 2 = rpUP → goesOn (exec .timeSend s) (fun t =>
    t.chain.timeSeq = s.chain.timeSeq + 1 ∧ t.chain.sentAt = some t.now ∧ only s t [] ∧
    ∃ more, t.wire = s.wire ++ blockOut t 2 (0x2F :: leBytes 6 (s.chainTime t.now) ++ [s.chain.timeSeq % 256]) :: more)) ∧
  (∀ (s : State) (p : Fin 3) (id : Byte) (u : Nat), s.portState p.val = rpUP → goesOn (exec (.echoBlk p false id u) s) (fun t =>
    t.now = max s.now u ∧ t.chain = s.chain ∧ only s t [] ∧
    t.wire = s.wire ++ [{ port := p.val, type := 0x66, bytes := [0x66, 1, id.toNat, 0, 0, 0, 0, 0], time := t.now + 20 }])) ∧
  (∀ (s : State) (u : Nat), s.portState 1 = rpUP → goesOn (exec (.linkDelayMeasure u) s) (fun t =>
    t.chain.echoes.length = 16 ∧ t.chain.trips = [] ∧ t.wire.length = s.wire.length + 16 ∧ t.now = max s.now u ∧ only s t [])) ∧
  (∀ (s : State) (u : Nat), s.chain.lastTime = some u → s.on R.CHAIN_STAT_CT_LOCK = true → goesOn (exec .ctLockTimeout s) (fun t =>
    t.get R.CHAIN_STAT_CT_LOCK = 0 ∧ t.now = max s.now (u + 100 * usClk) ∧ told s t E.RIDGE_CT_LOCK_LOST ∧
    only s t (R.CHAIN_STAT_CT_LOCK.reg :: toldRegs E.RIDGE_CT_LOCK_LOST))) ∧
  (∀ (s : State) (n ct u : Nat), s.chain.lastTok = some (n, ct) → s.chained = true → s.on R.CHAIN_STAT_FALLBACK = false →
    s.on R.CHAIN_STAT_LOST = false →
    ct + 15 * s.get R.TICK_TPRED_T / 2 + 5 * s.leadClk < s.chainTime (max s.now u) → goesOn (exec (.tokenLoss u) s) (fun t =>
      t.get R.CHAIN_STAT_LOST = 1 ∧ t.chain.valid = 0 ∧ t.chain.lastTok = none ∧ t.get (intRawBit E.RIDGE_TOKEN_LOSS) = 1 ∧
      t.on R.CHAIN_STAT_FALLBACK = (s.inRun && decide (s.modeAct ≠ 2) && decide (s.act R.CHAIN_CTRL_LOCAL_ENC = 1) && decide (s.get R.ENC_STAT_FAULT = 0)))) ∧
  (∀ (s : State) (n ct u : Nat), s.chain.lastTok = some (n, ct) → s.chained = true → s.on R.CHAIN_STAT_FALLBACK = true →
    s.on R.CHAIN_STAT_LOST = false → s.evtQ.length < 32 →
    ct + 15 * s.get R.TICK_TPRED_T / 2 + 5 * s.leadClk < s.chainTime (max s.now u) → goesOn (exec (.tokenLoss u) s) (fun t =>
      t.get R.CHAIN_STAT_LOST = 1 ∧ t.on R.CHAIN_STAT_FALLBACK = true ∧ t.chain.lastTok = none ∧ t.get (intRawBit E.RIDGE_TOKEN_LOSS) = 1 ∧
      ∃ e ∈ t.evtQ, e.code = cCHAIN ∧ e.detail = padTo 16 ([1, 0, 0, 0, 0, 0, 0, 0] ++ leBytes 8 s.chainNext))) ∧
  (∀ s : State, s.on R.CHAIN_STAT_LOST = true → s.portState 1 = rpUP → s.on R.CHAIN_STAT_CT_LOCK = true → 16 ≤ s.chain.valid →
    s.evtQ.length < 64 → goesOn (exec .tokenRestore s) (fun t =>
      t.get R.CHAIN_STAT_LOST = 0 ∧ t.evtQ.length = s.evtQ.length + 1 ∧ only s t [R.CHAIN_STAT_LOST.reg])) ∧
  (∀ (s : State) (fl hp : Byte) (n der : Word) (crc : Option Byte) (tp : BitVec 24) (u : Nat), chainUp s →
    crc.map BitVec.toNat ≠ some (tokenCrc fl hp n der tp) → goesOn (exec (.tickToken fl hp n crc der tp u) s)
    (fun t => t.chain = { s.chain with valid := 0 } ∧
      t.get R.CHAIN_TOK_BAD_COUNT = min (2 ^ 32 - 1) (s.get R.CHAIN_TOK_BAD_COUNT + 1) ∧ only s t [R.CHAIN_TOK_BAD_COUNT.reg])) ∧
  (∀ (s : State) (fl hp : Byte) (n der : Word) (crc : Option Byte) (tp : BitVec 24) (u : Nat), chainUp s → s.on R.CHAIN_STAT_LOST = false →
    crc.map BitVec.toNat = some (tokenCrc fl hp n der tp) → s.lifeWaits = false →
    s.on R.CHAIN_STAT_FALLBACK = false → s.inRun = true → s.modeAct ≠ 2 → bit fl.toNat 2 = false → nearest 32 s.chainNext n.toNat = s.chainNext →
    goesOn (exec (.tickToken fl hp n crc der tp u) s) (fun t =>
      t.chain.valid = s.chain.valid + 1 ∧ t.get R.CHAIN_STAT_HOPS = hp.toNat ∧ t.tick.tickno = s.tick.tickno ∧
      ∃ d, t.tick.queue = s.tick.queue ++ [d] ∧ d.tno = some s.chainNext ∧ d.noEdge = false ∧ u ≤ d.edge ∧
        d.chainMark = bit fl.toNat 0 ∧ d.sheet = bit fl.toNat 1 ∧ t.tick.lastDer = some d.der)) ∧
  (∀ (s : State) (n : BitVec 56), s.portState 2 = rpUP → s.jobRunning = false →
    let m := s.tick.tickno / 2 ^ 56 * 2 ^ 56 + n.toNat
    s.tick.tickno < m → goesOn (exec (.tnoBlk n) s) (fun t =>
      (s.tnoAtOnce = true → m < s.nvs.saved.hwm → t.tick.tickno = m ∧ t.chain.pend = none ∧ t.get (intRawBit E.RIDGE_TICKNO_ADV) = 1) ∧
      (s.tnoAtOnce = false → t.tick.tickno = s.tick.tickno ∧ t.chain.pend = some m))) ∧
  (∀ s : State, chainUp s → goesOn (exec .tnoSend s) (fun t =>
    t.wire = s.wire ++ [blockOut s 1 (0x5A :: leBytes 7 s.tick.tickno)] ∧ only s t [])) ∧
  (∀ s : State, s.served 0x023 = true → goesOn (exec .chainMonClr s) (fun t =>
    t.get R.CHAIN_LAT_MAX_NS = 0 ∧ t.get R.CHAIN_MARGIN_MIN_NS = 0x7FFFFFFF ∧ t.get R.CHAIN_STAT_LEAD_OK = 0 ∧ t.chain.leadRun = 0 ∧
    only s t [R.CHAIN_LAT_MAX_NS.reg, R.CHAIN_MARGIN_MIN_NS.reg, R.CHAIN_STAT_LEAD_OK.reg]))

/-! ## Calibration (R313–R330) -/

/-- A calibration run may begin: its page is served, no run is in progress, the module is in RUN without a job. -/
def calFree (s : State) : Prop :=
  s.served 0x027 = true ∧ s.cal.run = 0 ∧ s.inRun = true ∧ s.jobRunning = false

/-- R313, R316–R330: a pass begins INTERVAL after the last; a spare calibrates itself, then offers each column's candidate, whose checks
decide; runs begin in RUN without a job, show their kind, end with their code, are told, and can be aborted; a set that is loaded or
applied comes into force. A DARK run's rates and levels, a WHITE run's gains and residual and a TIMING run's trims and compensation are computed
from what was measured. Drift beyond 2 ns and starved background work are told. The model's own: of several failures the lowest code is kept, but
NO_TICK ends a WHITE run (log 126), how the two tick-phase residuals balance (log 141), rounding (log 30), corners (log 97), and that what a run
measures comes as operands (log 139). -/
def Obligations.CalibrationPassesAndRuns : Prop :=
  (∀ s : State, s.on R.CAL_CTRL_BG_EN = true → s.on R.CAL_STAT_PASS_ACTIVE = false → s.on R.CAL_STAT_START_PASS_DONE = true →
    s.dom dCONVN = true → s.dom dSUPV = true → s.runAdmissible = true → s.power = pRUN ∨ s.power = pIDLE →
    goesOn (exec .calPassStart s) (fun t =>
      t.get R.CAL_STAT_PASS_ACTIVE = 1 ∧ t.now = max s.now (s.cal.passTime + max 1 (s.get R.CAL_CTRL_INTERVAL) * secClk) ∧
      t.cal.spare.all (fun x => x.2.dead) = true ∧ t.cal.conv.all (fun x => !x.2.inPass) = true ∧
      only s t [R.CAL_STAT_PASS_ACTIVE.reg, R.CAL_BG_STAT_STARVED.reg])) ∧
  (∀ (s : State) (b : Fin 4) (sh : Fin 192) (ot gt : BitVec 6) (oc gc o g o1 g1 : Int) (ws ws1 : List Int),
    let c : Cand := ⟨ot.toNat, gt.toNat, oc, gc, o, g, ws, o1, g1, ws1⟩
    let x := s.spareAt b.val sh.val
    let key := if x.idx = 0 then spareKey b.val sh.val else convKey b.val (posAt sh.val (x.idx - 1))
    let old := s.convAt key
    let code := checkCode s.cal.first (s.on R.CAL_CTRL_L16_AGREE) old c
    s.calWorks b.val sh.val = true → goesOn (exec (.calPositionDone b sh ot gt oc gc o g ws ⟨o1, g1, ws1⟩) s) (fun t =>
      (x.idx = 0 → code = 0 → s.readoutIdle = false → t.convAt key = afterCheck old c 0 ∧
        t.spareAt b.val sh.val = { x with cand := some (true, afterCheck old c 0) }) ∧
      (s.cal.spare = [] → code = 0 → s.readoutIdle = true → t.convAt key = afterCheck old c 0 ∧ t.spareAt b.val sh.val = { idx := 1 }) ∧
      (x.idx ≠ 0 → s.readoutIdle = false → t.spareAt b.val sh.val = { x with cand := some (code = 0, afterCheck old c code) } ∧
        t.convAt key = { old with code := code }) ∧
      (code ≠ 0 → t.get (intRawBit E.CAL_CONV_FAIL) = 1))) ∧
  (∀ (s : State) (sat n unst : Nat) (light : Int) (lv : List LevelSeen) (d d1 : PatternSeen),
    calFree s → goesOn (exec (.calDark ⟨sat, n⟩ unst light lv d d1) s) (fun t => t.cal.run = 1 ∧ t.get R.CAL_STAT_RUN = 1 ∧
      t.cal.count = ((List.range 49216).filter (fun i => 65535 < s.darkPattern d i)).length ∧
      (n < 1000 * sat → t.cal.code = 3) ∧ (1000 * sat ≤ n → 24608 < 100 * unst → t.cal.code = 5) ∧
      (1000 * sat ≤ n → 100 * unst ≤ 24608 → 128 < light → t.cal.code = 6) ∧
      ∃ c, t.cal.result = some c ∧ c.id = s.get R.CAL_SET_ID_ID ∧ c.dark = padTo 4 (lv.map levelMean) ∧ c.g = s.cal.force.g ∧
        ∀ i, i < 49216 → mapGet 0 c.d i = min 65535 (s.darkPattern d i))) ∧
  (∀ (s : State) (sat n unst : Nat) (light : Int) (lv : List LevelSeen) (d d1 : PatternSeen),
    s.served 0x027 = true → s.cal.run = 0 → s.inRun = false → goesOn (exec (.calDark ⟨sat, n⟩ unst light lv d d1) s) (fun t =>
      t.cal.run = 0 ∧ t.get R.CAL_RESULT_CODE = 1 ∧ told s t E.CAL_RUN_FAIL)) ∧
  (∀ (s : State) (sat n unst : Nat) (nt : Bool) (ta tb sums verify : List Nat), calFree s →
    goesOn (exec (.calWhite ⟨⟨sat, n⟩, unst, nt⟩ ta tb sums verify) s) (fun t =>
      let bank := s.get R.CAL_WHITE_BANK
      let target := max 1 (s.get R.CAL_WHITE_TARGET)
      let lo := s.get (R.JOB_x_OWN_OWN_LO bank)
      let hi := s.get (R.JOB_x_OWN_OWN_HI bank)
      t.cal.run = 2 ∧ t.get R.CAL_STAT_RUN = 2 ∧ t.get R.CAL_FF_RES_RES = s.get R.CAL_FF_RES_RES ∧
      (s.expCode bank ≠ 0 → t.cal.code = 2 ∧ t.cal.result = none) ∧
      (s.expCode bank = 0 → (nt = true → t.cal.code = 10 ∧ t.cal.store = false) ∧ (nt = false → n < 1000 * sat → t.cal.code = 3) ∧
        ∃ c, t.cal.result = some c ∧ c.id = s.get R.CAL_SET_ID_ID ∧ c.d = s.cal.force.d ∧ c.dark = s.cal.force.dark ∧ c.target = target ∧
        (∀ i, i < 49216 → mapGet 16384 c.g i = tapGain (ta.getD (i / 2) 0) (tb.getD (i / 2) 0) ((if i % 2 = 0 then ta else tb).getD (i / 2) 0)) ∧
        ∃ gains, gains = (chunks 24576 (4 * popSlots c.slots) (sums.map (fun v => (roundDiv v s.whiteLines).toNat))).map (bandGains lo hi target) ∧
          c.dnb = gains.flatten ∧
          c.ff = ffResidual lo hi target (s.whiteLines / 2) (chunks 24576 (4 * popSlots c.slots) verify) gains))) ∧
  (∀ (s : State) (late : List Int) (gate sync : Int), calFree s → goesOn (exec (.calTiming late gate sync) s) (fun t =>
    let trims := (List.range 8).map (fun n => toSigned 8 (s.act (R.CAL_STRBn_OFS n)) - roundDiv (late.getD n 0) 10)
    let bad := trims.any (fun v => v < -128 || 127 < v)
    t.cal.run = 3 ∧ t.get R.CAL_STAT_RUN = 3 ∧ t.get R.LAMP_STAT_SW_24V = 0 ∧ t.cal.sw24 = s.on R.LAMP_STAT_SW_24V ∧
    t.cal.tph = phaseLeft gate sync ∧ t.cal.phRes = s.cal.tickPh + phaseMove gate sync ∧
    t.cal.code = (if bad then 11 else 0) ∧ t.cal.trimRes = (if bad then [] else trims) ∧ t.cal.trims = s.cal.trims)) ∧
  (∀ s : State, s.served 0x027 = true → s.cal.run = 0 → goesOn (exec .calLoad s) (fun t =>
    t.cal.run = 4 ∧ t.get R.CAL_STAT_RUN = 4 ∧ t.cal.result = some (s.readSet s.calBuf) ∧ ∀ a, t.byte a = s.byte a)) ∧
  (∀ s : State, s.served 0x027 = true → s.cal.run = 0 → goesOn (exec .calApply s) (fun t =>
    t.cal.run = 4 ∧ t.get R.CAL_STAT_RUN = 4 ∧ t.cal.result = some (s.readSet s.calBuf) ∧ ∀ a, t.byte a = s.byte a)) ∧
  (∀ s : State, s.served 0x027 = true → s.cal.run ≠ 0 → goesOn (exec .calAbort s) (fun t =>
    t.cal.run = 0 ∧ t.get R.CAL_STAT_RUN = 0 ∧ t.get R.CAL_RESULT_CODE = 7 ∧ told s t E.CAL_RUN_FAIL ∧ ∀ a, t.byte a = s.byte a)) ∧
  (∀ s : State, s.cal.run ≠ 0 → goesOn (exec .calRunDone s) (fun t =>
    t.cal.run = 0 ∧ t.get R.CAL_STAT_RUN = 0 ∧ t.get R.CAL_RESULT_CODE = s.calCode % 16 ∧ t.get R.CAL_RESULT_COUNT = s.cal.count % 2 ^ 24 ∧
    t.get (intRawBit (if s.calCode = 0 then E.CAL_RUN_DONE else E.CAL_RUN_FAIL)) = 1 ∧
    (∀ c, s.cal.result = some c → s.calCode = 0 → s.cal.run = 4 → s.readoutIdle = true → t.cal.force = c ∧
      t.get R.CAL_ACTIVE_ID_ID = c.id % 2 ^ 32) ∧
    (∀ c, s.cal.result = some c → s.cal.run = 2 → c.ff < 65536 → t.get R.CAL_FF_RES_RES = c.ff) ∧
    (s.cal.run = 3 → s.calCode = 0 → t.get R.CAL_TPH_PS = ofSigned 16 s.cal.tph ∧ t.cal.tickPh = s.cal.phRes))) ∧
  (∀ (s : State) (dr : List Int), s.on R.CAL_CTRL_BG_EN = true → s.dom dSUPV = true → s.cal.run ≠ 3 → goesOn (exec (.driftTrack dr) s) (fun t =>
    t.cal.drift = dr.take 8 ∧ t.now = max s.now (s.cal.driftAt + 10 * msClk) ∧ t.cal.driftAt = t.now ∧ t.on ⟨R.CAL_BG_STAT_STARVED.reg, 1, 1⟩ = false ∧
    ∀ n, n < 8 → 200 < (dr.getD n 0).natAbs → t.on (R.CAL_STRBn_DRIFT n) = true)) ∧
  (∀ (s : State) (act : Fin 4), s.inRun = true → s.canStarve act.val = true → s.on ⟨R.CAL_BG_STAT_STARVED.reg, act.val, 1⟩ = false →
    goesOn (exec (.bgStarved act) s) (fun t => t.on ⟨R.CAL_BG_STAT_STARVED.reg, act.val, 1⟩ = true ∧ told s t E.CAL_STARVED ∧
      t.now = s.now + (10 * secClk - s.bgIdle act.val) ∧
      (act.val = 2 → t.get R.NVS_STAT_STARVED = 1 ∧ told s t E.NVS_STARVED)))

/-! ## The management bus (R367–R377) -/

/-- The management bus serves the module's address at a time: not OFF, awake, not busy. -/
def busServes (s : State) (u : Nat) : Prop :=
  s.pwr.off = false ∧ s.mbSleeps = false ∧ s.mb.busyUntil ≤ max s.now u ∧ s.resetting = false ∧ s.mb.servedFrom ≤ max s.now u

/-- R369–R377, R403: a word written over the bus writes its register, a read gives its bytes, lowest first; a transaction in a sleeping
window wakes it, and it sleeps again 1 s after the last one. How long a word's access takes and how soon the
window is served are free values (log 10); the addresses a transaction reaches and the interval of a reset are log 91. -/
def Obligations.BusTransactions : Prop :=
  (∀ (s : State) (a b0 b1 b2 b3 u : Nat), busServes s u → a < 2 ^ 24 → a % 4 = 0 → busReads a = true → busWrites a = true →
    (if a % 4096 < 0x040 then s.hdrOn (a / 4096) else s.served (a / 4096)) = true →
    goesOn (exec (.mbWrite (BitVec.ofNat 32 a) [BitVec.ofNat 8 b0, BitVec.ofNat 8 b1, BitVec.ofNat 8 b2, BitVec.ofNat 8 b3] u) s) (fun t =>
      let w := leNat [b0 % 256, b1 % 256, b2 % 256, b3 % 256]
      t.regs = ((s.mbStart u).regWrite a w).regs ∧ t.force = ((s.mbStart u).regWrite a w).force)) ∧
  (∀ (s : State) (a n u : Nat), busServes s u → a < 2 ^ 24 → a % 4 = 0 → busReads a = true → 1 ≤ n → n ≤ 4 →
    (if a % 4096 < 0x040 then s.hdrOn (a / 4096) else s.served (a / 4096)) = true →
    goesOn (exec (.mbRead (BitVec.ofNat 32 a) n u) s) (fun t => t.rdata = (leBytes 4 ((s.mbStart u).regRead a).1).take n ∧
      ∀ b, t.byte b = s.byte b)) ∧
  (∀ (s : State) (u : Nat), s.pwr.off = false → s.mbSleeps = true → s.mb.awakeUntil = none → s.sys.resetHeld = 0 →
    goesOn (exec (.mbWake u) s) (fun t =>
      t.mb.awakeUntil = some (t.now + secClk) ∧ t.now = max s.now u ∧ t.get (intRawBit E.MB_WAKE) = 1 ∧
      t.get R.MB_XFER_CNT_COUNT = (s.get R.MB_XFER_CNT_COUNT + 1) % 2 ^ 32 ∧
      (s.power = pSTANDBY → s.pwr.hostStandby = true → s.pwr.fromThermal = false → s.pwr.qualified = true → t.power = pIDLE ∧
        t.get R.SYS_STAT_STARTING = 1))) ∧
  (∀ (s : State) (u v : Nat), s.mb.awakeUntil = some v → goesOn (exec (.mbWindowSleep u) s) (fun t =>
    t.mb.awakeUntil = none ∧ t.now = max (max s.now u) v ∧ only s t [])) ∧
  (∀ s : State, s.pwr.off = false → goesOn (exec .mbFraming s) (fun t => told s t E.MB_FRAMING ∧ t.now = s.now ∧ only s t (toldRegs E.MB_FRAMING))) ∧
  (∀ s : State, s.pwr.off = false → goesOn (exec .mbStuck s) (fun t =>
    told s t E.MB_STUCK ∧ t.now = s.now + 25 * msClk ∧ only s t (toldRegs E.MB_STUCK))) ∧
  (∀ (s : State) (u : Nat), s.pwr.off = false → s.on R.MB_CTRL_ATTN_PULSE = true → s.attn = true → s.mb.attnServed = false →
    s.mb.lastEnd + 20 * usClk ≤ max s.now u → goesOn (exec (.attnPulse u) s) (fun t =>
      t.mb.attnServed = true ∧ t.now = max s.now u ∧ t.mb.pulse = some (t.now + 5 * usClk) ∧
      t.mb.nextRepeat = (if s.get R.MB_CTRL_REPEAT = 0 then none else some (t.now + s.get R.MB_CTRL_REPEAT * secClk)) ∧ only s t []))

/-! ## The lamphouse (R380–R390) -/

/-- R380–R390, R427: PWR asks for the 24 V switch, which an overload opens until the next rise of PWR; a lamphouse that has booted is read and
verified, and its set-points are sent; life use and polls follow in their time; a failed attempt, also a response without SYNC, that
violates the coding or fails its CRC-8, is counted and repeated twice; set-points answered OK are in force, and the first of them makes the
lamphouse READY. The request's byte order and failed requests are logs 41 and 101, the tick that the first set-points latch is log 153. -/
def Obligations.LamphouseLink : Prop :=
  (∀ (s : State) (v : Word), s.served 0x02A = true → s.get R.LAMP_CTRL_PWR = 0 → v.toNat % 2 = 1 → goesOn (exec (.lampPwrWrite v) s) (fun t =>
    t.get R.LAMP_CTRL_PWR = 1 ∧ t.lamp.tripped = false ∧
    (t.domWanted dLAMP = true → s.lampState = lpOFF → t.lampState = lpPOWERING) ∧ only s t [R.LAMP_CTRL_PWR.reg, R.LAMP_STAT_STATE.reg])) ∧
  (∀ (s : State) (v : Word), s.served 0x02A = true → s.get R.LAMP_CTRL_PWR = 1 → v.toNat % 2 = 0 → goesOn (exec (.lampPwrWrite v) s) (fun t =>
    t.get R.LAMP_CTRL_PWR = 0 ∧ (s.lampState = lpPOWERING → t.lampState = lpOFF ∧ t.dom dLAMP = false) ∧
    (lpIDENT ≤ s.lampState → t.lamp.offDue = true ∧ t.lamp.req = none))) ∧
  (∀ (s : State) (u : Nat), s.lampState = lpPOWERING → s.dom dLAMP = true → goesOn (exec (.lampIdent u) s) (fun t =>
    t.lampState = lpIDENT ∧ (s.lamp.tripped = true → t.get R.LAMP_STAT_SW_24V = 0) ∧
    (s.lamp.tripped = false → s.cal.run = 3 → t.on R.LAMP_STAT_SW_24V = s.on R.LAMP_STAT_SW_24V ∧ t.cal.sw24 = true) ∧
    (s.lamp.tripped = false → s.cal.run ≠ 3 → t.get R.LAMP_STAT_SW_24V = 1) ∧ t.get R.LAMP_STAT_SIG = 0 ∧ t.lamp.req = none ∧
    t.lamp.readPos = 0 ∧ t.now = max (max s.now u) (s.lamp.onAt + 30 * msClk) ∧ only s t [R.LAMP_STAT_STATE.reg])) ∧
  (∀ s : State, s.lampSw = true → goesOn (exec .lampOverload s) (fun t =>
    t.get R.LAMP_STAT_SW_24V = 0 ∧ t.lamp.tripped = true ∧ only s t [R.LAMP_STAT_SW_24V.reg])) ∧
  (∀ s : State, s.lampFree = true → s.lampState = lpIDENT → s.lamp.readPos < 4 → s.lamp.offDue = false → goesOn (exec .lhRead s) (fun t =>
    t.lamp.req = some { kind := 0x01, addr := if s.lamp.readPos < 3 then 64 * s.lamp.readPos else 0x100, len := 64 } ∧ only s t [])) ∧
  (∀ s : State, s.lampState = lpIDENT → s.lamp.readPos = 4 → goesOn (exec .sigVerify s) (fun t =>
    t.get R.LAMP_STAT_SIG = (if s.sigCheck then 1 else 2) ∧ t.on R.LAMP_STAT_SAFE = !s.sigCheck ∧ t.lamp.readPos = 5 ∧
    t.lamp.xferDue = true ∧ (s.lamp.xferDue = true → t.get64 R.LAMP_XFER_LO_TICKNO R.LAMP_XFER_HI_TICKNO =
      s.get64 R.LAMP_XFER_LO_TICKNO R.LAMP_XFER_HI_TICKNO) ∧ (s.sigCheck = false → told s t E.LAMP_SIG_FAIL))) ∧
  (∀ s : State, s.lampFree = true → s.lamp.xferDue = true → s.lampState = lpREADY ∨ (s.lampState = lpIDENT ∧ s.lamp.readPos = 5) → s.lamp.offDue = false → goesOn (exec .lhSeti s) (fun t =>
    t.lamp.sentSet = (List.range 8).map s.lampEff ∧ t.lamp.xferDue = false ∧
    t.lamp.req = some { kind := 0x10, addr := 0, len := 16, data := ((List.range 8).map s.lampEff).flatMap (leBytes 2) } ∧ only s t [])) ∧
  (∀ s : State, s.lampFree = true → lpIDENT ≤ s.lampState → s.lamp.offDue = false → goesOn (exec .lhLifeAdd s) (fun t =>
    t.now = max s.now (s.lamp.lastLife + 60 * secClk) ∧ t.lamp.lastLife = t.now ∧ t.lamp.lifeSent = (List.range 8).map s.lampUnsentMs ∧
    (∃ r, t.lamp.req = some r ∧ r.kind = 0x20 ∧ r.data = ((List.range 8).map s.lampUnsentMs).flatMap (leBytes 4)) ∧ only s t [])) ∧
  (∀ s : State, s.lampFree = true → s.lampState = lpREADY → s.lamp.offDue = false → goesOn (exec .lhStat s) (fun t =>
    t.now = max s.now (s.lamp.lastPoll + 100 * msClk) ∧ t.lamp.req = some { kind := 0x30 } ∧ t.lamp.lastPoll = t.now ∧ only s t [])) ∧
  (∀ (s : State) (r : LhReq), s.lamp.req = some r → goesOn (exec .lhRetry s) (fun t =>
    t.get R.LAMP_LINK_ERR_COUNT = min (2 ^ 32 - 1) (s.get R.LAMP_LINK_ERR_COUNT + 1) ∧
    (r.tries < 2 → t.lamp = { s.lamp with req := some { r with tries := r.tries + 1 } } ∧ only s t [R.LAMP_LINK_ERR_COUNT.reg]) ∧
    (2 ≤ r.tries → t.lamp.req = none) ∧
    (2 ≤ r.tries → r.kind = 0x30 → s.lamp.failPolls = 2 → s.lampState = lpREADY → t.lampState = lpABSENT ∧
      t.get (intRawBit E.LAMP_ABSENT) = 1))) ∧
  (∀ (s : State) (r : LhReq) (sync cells : List Bool) (u : Nat), s.lamp.req = some r → sync ≠ lhSync ∨ lhAnswer cells = none →
    r.tries < 2 → goesOn (exec (.lhResponse sync cells u) s) (fun t => t.now = max s.now u ∧
      t.get R.LAMP_LINK_ERR_COUNT = min (2 ^ 32 - 1) (s.get R.LAMP_LINK_ERR_COUNT + 1) ∧
      t.lamp = { s.lamp with req := some { r with tries := r.tries + 1 } } ∧ only s t [R.LAMP_LINK_ERR_COUNT.reg])) ∧
  (∀ (s : State) (r : LhReq) (st : Byte) (u : Nat), s.lamp.req = some r → r.kind = 0x10 → bit st.toNat 0 = true →
    goesOn (exec (.lhResponse lhSync (lhHalves [st.toNat, 0, crc8 [st.toNat, 0]]) u) s) (fun t =>
      t.now = max s.now u ∧ t.lamp.req = none ∧ t.lamp.applied = true ∧ (s.lampState = lpIDENT → t.lampState = lpREADY) ∧
      ∀ k, k < 8 → t.get (R.LAMP_SETk_ACT k) = s.lamp.sentSet.getD k 0 % 1024))

/-! ## The roll-up and the whole machine -/

/-- R402: a read of SYS_ROLL gives, for k = 0 to 24, bit k = 1 where INT_STAT of page 0x014 + k is not zero; ENGG's bit also where a
Shingle page's is not, through ENGG_INT_SUM (R155). INT_STAT of a page whose header domain is off reads 0 (R416). -/
def Obligations.RollupShowsEveryPage : Prop :=
  ∀ s : State, s.canonical → s.servedAt R.SYS_ROLL_PAGE.reg = true → goesOn (exec (.shadowLowRead R.SYS_ROLL_PAGE.reg) s) (fun t =>
    ∃ v, t.rdata = [v] ∧ only s t [] ∧
      ∀ k, k < 25 → (bit v k = true ↔ (s.hdrOn (0x014 + k) = true ∧ s.intStat (0x014 + k) ≠ 0) ∨
        (k = 5 ∧ ∃ sh, sh < 192 ∧ s.hdrOn (0x200 + sh) = true ∧ s.intStat (0x200 + sh) ≠ 0)))

/-- A step takes the command at the front of the queue and answers what exec answers with the queue's rest. On an empty queue the block
idles (the model's choice, log 1). -/
def Obligations.StepTakesTheFrontCommand : Prop :=
  (∀ (c : Instr) (rest : List Instr) (s : State), step { s with pending := c :: rest } = exec c { s with pending := rest }) ∧
  (∀ s : State, s.pending = [] → step s = .next s)

/-- Table 0-3, Table 17-2 and the reset columns of the page maps: after reset the module is OFF with only AON on, nothing waits, nothing is listed
in memory, the tables are canonical and the named registers hold the values the maps give. State that no register shows begins empty or at 0, and memory that
nothing has written reads 0 (the model's choices, logs 2 and 4). -/
def Obligations.ResetState : Prop :=
  State.reset.canonical ∧ State.reset.pending = [] ∧ State.reset.pwr.off = true ∧ State.reset.mem = [] ∧
  (∀ d, d < 25 → State.reset.dom d = decide (d = dAON)) ∧ State.reset.tick.tickno = 0 ∧
  (∀ a, State.reset.reg a = regReset a) ∧ (∀ a, State.reset.actReg a = regReset a) ∧
  State.reset.compatLevel = 3 ∧ State.reset.get R.REG_COMPAT_MIN = 3 ∧
  (∀ m, m < 3 → State.reset.get (R.TICK_MONm_MIN_VAL m) = 0x7FFFFFFF ∧ State.reset.get (R.TICK_MONm_MAX_VAL m) = 0x80000000) ∧
  State.reset.get R.CHAIN_MARGIN_MIN_NS = 0x7FFFFFFF ∧ State.reset.get R.PWR_HOLD_RESERVE = 600 ∧
  State.reset.get R.SYS_STAT_READY = 0 ∧ State.reset.get R.SYS_STAT_LAST_RESET = 0

/-- In every state a step goes on: a command takes itself off the queue and nothing else on or off it, time and the count of free values
never turn back, and the tables of registers, values in force, frozen values and memory keep their canonical form. -/
def Obligations.EveryStepGoesOnAndKeepsTheForm : Prop :=
  ∀ s : State, goesOn (step s) (fun t =>
    t.pending = s.pending.drop 1 ∧ s.now ≤ t.now ∧ s.freeIdx ≤ t.freeIdx ∧ (s.canonical → t.canonical))
end

