-- ==== Sys2Proof/Laws/Tables.lean ====
section
/-! SUPPORT. Sparse tables: a value set is the value read, other keys are untouched, and every operation keeps the canonical form. -/
namespace Sys2Proof.Machine

/-! ## Reading after writing -/

@[simp] theorem mapFind_ins_same {α : Type} (m : SMap α) (i : Nat) (v : α) : mapFind (mapIns m i v) i = some v := by
  induction m with
  | nil => simp [mapIns, mapFind]
  | cons p m ih =>
    obtain ⟨k, w⟩ := p
    unfold mapIns
    split
    · simp [mapFind]
    · split
      · simp [mapFind]
      · simp [mapFind, *]

theorem mapFind_ins_other {α : Type} (m : SMap α) {i j : Nat} (v : α) (h : j ≠ i) : mapFind (mapIns m i v) j = mapFind m j := by
  induction m with
  | nil => simp [mapIns, mapFind, Ne.symm h]
  | cons p m ih =>
    obtain ⟨k, w⟩ := p
    unfold mapIns
    split
    · subst_vars; simp [mapFind, Ne.symm h]
    · split
      · simp [mapFind, Ne.symm h]
      · simp [mapFind, ih]

@[simp] theorem mapFind_del_same {α : Type} (m : SMap α) (i : Nat) : mapFind (mapDel m i) i = none := by
  induction m with
  | nil => rfl
  | cons p m ih =>
    obtain ⟨k, w⟩ := p
    unfold mapDel
    split
    · exact ih
    · simp [mapFind, *]

theorem mapFind_del_other {α : Type} (m : SMap α) {i j : Nat} (h : j ≠ i) : mapFind (mapDel m i) j = mapFind m j := by
  induction m with
  | nil => rfl
  | cons p m ih =>
    obtain ⟨k, w⟩ := p
    unfold mapDel
    split
    · subst_vars; simp [mapFind, Ne.symm h, ih]
    · simp [mapFind, ih]

@[simp] theorem mapGet_set_same {α : Type} [DecidableEq α] (d : α) (m : SMap α) (i : Nat) (v : α) :
    mapGet d (mapSet d m i v) i = v := by
  unfold mapGet mapSet
  split
  · simp [*]
  · simp

theorem mapFind_set_other {α : Type} [DecidableEq α] (d : α) (m : SMap α) {i j : Nat} (v : α) (h : j ≠ i) :
    mapFind (mapSet d m i v) j = mapFind m j := by
  unfold mapSet
  split
  · exact mapFind_del_other m h
  · exact mapFind_ins_other m v h

theorem mapGet_set_other {α : Type} [DecidableEq α] (d e : α) (m : SMap α) {i j : Nat} (v : α) (h : j ≠ i) :
    mapGet e (mapSet d m i v) j = mapGet e m j := by
  unfold mapGet; rw [mapFind_set_other d m v h]

/-! ## The canonical form -/

section
variable {α : Type} [DecidableEq α] {dflt : Nat → α}

/-- The bound of a canonical table may be lowered. -/
theorem mapWfFrom_weaken {lo lo' : Option Nat} {m : SMap α} (h : mapWfFrom dflt lo m = true)
    (hl : ∀ l', lo' = some l' → ∃ l, lo = some l ∧ l' ≤ l) : mapWfFrom dflt lo' m = true := by
  cases m with
  | nil => rfl
  | cons p m =>
    obtain ⟨k, v⟩ := p
    simp only [mapWfFrom, Bool.and_eq_true] at h ⊢
    refine ⟨⟨?_, h.1.2⟩, h.2⟩
    cases lo' with
    | none => rfl
    | some l' =>
      obtain ⟨l, rfl, hle⟩ := hl l' rfl
      have := h.1.1
      simp only [decide_eq_true_eq] at this ⊢
      omega

theorem mapWfFrom_none {lo : Option Nat} {m : SMap α} (h : mapWfFrom dflt lo m = true) : mapWfFrom dflt none m = true :=
  mapWfFrom_weaken h (by intro l' e; cases e)

theorem mapWfFrom_ins {lo : Option Nat} {m : SMap α} {i : Nat} {v : α} (h : mapWfFrom dflt lo m = true)
    (hlo : ∀ l, lo = some l → l < i) (hv : v ≠ dflt i) : mapWfFrom dflt lo (mapIns m i v) = true := by
  induction m generalizing lo with
  | nil =>
    cases lo with
    | none => simp [mapIns, mapWfFrom, hv]
    | some l => simp [mapIns, mapWfFrom, hv, hlo l rfl]
  | cons p m ih =>
    obtain ⟨k, w⟩ := p
    simp only [mapWfFrom, Bool.and_eq_true] at h
    unfold mapIns
    split
    · subst_vars
      simp only [mapWfFrom, Bool.and_eq_true]
      exact ⟨⟨h.1.1, by simpa using hv⟩, h.2⟩
    · split
      · rename_i hlt
        simp only [mapWfFrom, Bool.and_eq_true]
        refine ⟨⟨?_, by simpa using hv⟩, ⟨by simpa using hlt, h.1.2⟩, h.2⟩
        cases lo with
        | none => rfl
        | some l => simpa using hlo l rfl
      · simp only [mapWfFrom, Bool.and_eq_true]
        refine ⟨h.1, ih h.2 ?_⟩
        intro l e; cases e; omega

theorem mapWfFrom_filter {lo : Option Nat} {m : SMap α} (f : Nat × α → Bool) (h : mapWfFrom dflt lo m = true) :
    mapWfFrom dflt lo (m.filter f) = true := by
  induction m generalizing lo with
  | nil => rfl
  | cons p m ih =>
    obtain ⟨k, w⟩ := p
    simp only [mapWfFrom, Bool.and_eq_true] at h
    rw [List.filter_cons]
    split
    · simp only [mapWfFrom, Bool.and_eq_true]
      exact ⟨h.1, ih h.2⟩
    · refine ih (mapWfFrom_weaken h.2 ?_)
      intro l' e; subst e
      exact ⟨k, rfl, by have := h.1.1; simp at this; omega⟩

omit [DecidableEq α] in
theorem mapDel_eq_filter (m : SMap α) (i : Nat) : mapDel m i = m.filter (fun p => decide (p.1 ≠ i)) := by
  induction m with
  | nil => rfl
  | cons p m ih =>
    obtain ⟨k, w⟩ := p
    unfold mapDel
    by_cases h : k = i
    · subst h; simpa using ih
    · simpa [h] using ih

theorem mapWf_ins {m : SMap α} {i : Nat} {v : α} (h : mapWf dflt m = true) (hv : v ≠ dflt i) :
    mapWf dflt (mapIns m i v) = true := mapWfFrom_ins h (by intro l e; cases e) hv

theorem mapWf_filter {m : SMap α} (f : Nat × α → Bool) (h : mapWf dflt m = true) : mapWf dflt (m.filter f) = true :=
  mapWfFrom_filter f h

theorem mapWf_set {m : SMap α} {i : Nat} {v : α} (h : mapWf dflt m = true) : mapWf dflt (mapSet (dflt i) m i v) = true := by
  unfold mapSet
  split
  · rw [mapDel_eq_filter]; exact mapWf_filter _ h
  · exact mapWf_ins h ‹_›

/-- Every pair of a canonical table holds a value other than its key's default. -/
theorem mapWfFrom_mem {lo : Option Nat} {m : SMap α} (h : mapWfFrom dflt lo m = true) {p : Nat × α} (hp : p ∈ m) :
    p.2 ≠ dflt p.1 := by
  induction m generalizing lo with
  | nil => cases hp
  | cons q m ih =>
    obtain ⟨k, w⟩ := q
    simp only [mapWfFrom, Bool.and_eq_true] at h
    cases hp with
    | head => simpa using h.1.2
    | tail _ hp => exact ih h.2 hp

theorem mapWf_merge {m n : SMap α} (hm : mapWf dflt m = true) (hn : ∀ p ∈ n, p.2 ≠ dflt p.1) :
    mapWf dflt (mapMerge m n) = true := by
  unfold mapMerge
  induction n generalizing m with
  | nil => exact hm
  | cons q n ih =>
    obtain ⟨k, w⟩ := q
    exact ih (mapWf_ins hm (hn (k, w) (by simp))) (fun p hp => hn p (by simp [hp]))

theorem mapWf_take (sel : Nat → Bool) {m n : SMap α} (hm : mapWf dflt m = true) (hn : mapWf dflt n = true) :
    mapWf dflt (mapTake sel m n) = true :=
  mapWf_merge (mapWf_filter _ hm) (fun _ hp => mapWfFrom_mem hn (List.mem_filter.mp hp).1)

end

/-- Cutting the words of a canonical register table to masks keeps it canonical. -/
theorem mapWfFrom_keepMasked {lo : Option Nat} {m : SMap Word} (f : Nat → Nat) (h : mapWfFrom regReset lo m = true) :
    mapWfFrom regReset lo (keepMasked f m) = true := by
  induction m generalizing lo with
  | nil => rfl
  | cons p m ih =>
    obtain ⟨k, w⟩ := p
    simp only [mapWfFrom, Bool.and_eq_true] at h
    have ih' := ih (lo := some k) h.2
    unfold keepMasked at ih' ⊢
    rw [List.map_cons, List.filter_cons]
    split
    · rename_i hne
      simp only [mapWfFrom, Bool.and_eq_true]
      exact ⟨⟨h.1.1, by simpa using hne⟩, ih'⟩
    · refine mapWfFrom_weaken ih' ?_
      intro l' e; subst e
      exact ⟨k, rfl, by have := h.1.1; simp at this; omega⟩

/-! ## The register and memory tables' own operations -/

theorem regsWf_keepRegs {m : SMap Word} (f : Nat → Bool) (h : mapWf regReset m = true) : mapWf regReset (keepRegs f m) = true :=
  mapWf_filter _ h

theorem regsWf_keepMasked {m : SMap Word} (f : Nat → Nat) (h : mapWf regReset m = true) :
    mapWf regReset (keepMasked f m) = true := mapWfFrom_keepMasked f h

theorem memWf_set {m : List Host.Cell} (a : Nat) (b : Byte) (h : Memory.wf m = true) : Memory.wf (mapSet memDefault m a b) = true :=
  mapWf_set (dflt := fun _ => memDefault) h

theorem memWf_clear {m : List Host.Cell} (lo hi : Nat) (h : Memory.wf m = true) : Memory.wf (memClear m lo hi) = true :=
  mapWf_filter (dflt := fun _ => memDefault) _ h

end Sys2Proof.Machine
end

