-- ==== Sys2Proof/Laws/Keeps.lean ====
section
/-! SUPPORT. What no command does: it leaves the queue alone, never turns time or the count of free values back, and keeps the tables
in canonical form. One lemma per operation, for the operations of `Machine/Ops.lean`. -/
namespace Sys2Proof.Machine

/-- From s to t the queue is the same, time and the count of free values have not fallen, and the tables stay canonical. -/
structure Keeps (s t : State) : Prop where
  pending : t.pending = s.pending
  now : s.now ≤ t.now
  freeIdx : s.freeIdx ≤ t.freeIdx
  canonical : s.canonical → t.canonical

theorem Keeps.refl (s : State) : Keeps s s := ⟨rfl, Nat.le_refl _, Nat.le_refl _, id⟩

theorem Keeps.trans {s t u : State} (h : Keeps s t) (k : Keeps t u) : Keeps s u :=
  ⟨k.pending.trans h.pending, Nat.le_trans h.now k.now, Nat.le_trans h.freeIdx k.freeIdx, k.canonical ∘ h.canonical⟩

/-- A change of fields other than those is no concern. -/
theorem Keeps.upd {s t : State}
    {x_rdata : List Nat} {x_nextPend : List Nat} {x_commitPend : List Nat} {x_fuse : SMap Byte} {x_poison : List Nat} {x_tick
    : TickGen} {x_tmr : Timers} {x_pins : Pins} {x_exp : Exposure} {x_rdo : Readout} {x_clk : RowClk} {x_lines : List Line}
    {x_eng : SMap Engine} {x_job : Jobs} {x_rec : RecWriter} {x_dev : Developer} {x_memctl : MemCtl} {x_dma : DmaUnit} {x_nvs
    : Store} {x_port : SMap Port} {x_chain : Chain} {x_evtQ : List Event} {x_wire : List Wire} {x_cal : Calib} {x_therm :
    Thermal} {x_pwr : Power} {x_mb : Mb} {x_lamp : Lamp} {x_sys : Sys}
    (h : Keeps s t) : Keeps s (State.mk
      t.pending t.now t.freeIdx x_rdata t.regs t.force t.frozen x_nextPend x_commitPend x_fuse t.mem x_poison x_tick x_tmr
      x_pins x_exp x_rdo x_clk x_lines x_eng x_job x_rec x_dev x_memctl x_dma x_nvs x_port x_chain x_evtQ x_wire x_cal
      x_therm x_pwr x_mb x_lamp x_sys) := by
  exact ⟨h.pending, h.now, h.freeIdx, h.canonical⟩

theorem Keeps.upd_iff {s t : State}
    {x_rdata : List Nat} {x_nextPend : List Nat} {x_commitPend : List Nat} {x_fuse : SMap Byte} {x_poison : List Nat} {x_tick
    : TickGen} {x_tmr : Timers} {x_pins : Pins} {x_exp : Exposure} {x_rdo : Readout} {x_clk : RowClk} {x_lines : List Line}
    {x_eng : SMap Engine} {x_job : Jobs} {x_rec : RecWriter} {x_dev : Developer} {x_memctl : MemCtl} {x_dma : DmaUnit} {x_nvs
    : Store} {x_port : SMap Port} {x_chain : Chain} {x_evtQ : List Event} {x_wire : List Wire} {x_cal : Calib} {x_therm :
    Thermal} {x_pwr : Power} {x_mb : Mb} {x_lamp : Lamp} {x_sys : Sys}
    : Keeps s (State.mk
      t.pending t.now t.freeIdx x_rdata t.regs t.force t.frozen x_nextPend x_commitPend x_fuse t.mem x_poison x_tick x_tmr
      x_pins x_exp x_rdo x_clk x_lines x_eng x_job x_rec x_dev x_memctl x_dma x_nvs x_port x_chain x_evtQ x_wire x_cal
      x_therm x_pwr x_mb x_lamp x_sys) ↔ Keeps s t :=
  ⟨fun h => ⟨h.pending, h.now, h.freeIdx, h.canonical⟩, Keeps.upd⟩

/-- A change of the tables that keeps their canonical form. -/
theorem Keeps.tables {s t u : State} (h : Keeps s t) (hp : u.pending = t.pending) (hn : u.now = t.now) (hf : u.freeIdx = t.freeIdx)
    (hm : Memory.wf t.mem = true → Memory.wf u.mem = true) (hr : mapWf regReset t.regs = true → mapWf regReset u.regs = true)
    (ho : t.canonical → mapWf regReset u.force = true)
    (hz : t.canonical → mapWf regReset u.frozen = true) : Keeps s u :=
  h.trans ⟨hp, Nat.le_of_eq hn.symm, Nat.le_of_eq hf.symm, fun c => ⟨hm c.1, hr c.2.1, ho c, hz c⟩⟩

theorem Keeps.foldl {α : Type} {s t : State} {f : State → α → State} (xs : List α) (hf : ∀ u x, Keeps s u → Keeps s (f u x))
    (h : Keeps s t) : Keeps s (xs.foldl f t) := by
  induction xs generalizing t with
  | nil => exact h
  | cons x xs ih => exact ih (hf _ _ h)

/-- A fold over a pair whose first part is a state. -/
theorem Keeps.foldlFst {α β : Type} {s : State} {t : State × β} {f : State × β → α → State × β} (xs : List α)
    (hf : ∀ u x, Keeps s u.1 → Keeps s (f u x).1) (h : Keeps s t.1) : Keeps s (xs.foldl f t).1 := by
  induction xs generalizing t with
  | nil => exact h
  | cons x xs ih => exact ih (hf _ _ h)

theorem goesOn.next {P : State → Prop} {t : State} (h : P t) : goesOn (.next t) P := ⟨t, rfl, h⟩

section
variable {s t : State}

theorem State.setReg_keeps (a : Nat) (v : Word) (h : Keeps s t) : Keeps s (t.setReg a v) :=
  Keeps.tables h rfl rfl rfl id mapWf_set (fun c => c.2.2.1) (fun c => c.2.2.2)

theorem State.put_keeps (f : Fld) (v : Nat) (h : Keeps s t) : Keeps s (t.put f v) := State.setReg_keeps _ _ h

theorem State.setAct_keeps (a : Nat) (v : Word) (h : Keeps s t) : Keeps s (t.setAct a v) :=
  Keeps.tables h rfl rfl rfl id id (fun c => mapWf_set c.2.2.1) (fun c => c.2.2.2)

theorem State.bumpBy_keeps (f : Fld) (n : Nat) (h : Keeps s t) : Keeps s (t.bumpBy f n) := State.put_keeps _ _ h

theorem State.bump_keeps (f : Fld) (h : Keeps s t) : Keeps s (t.bump f) := State.bumpBy_keeps _ _ h

theorem State.put64_keeps (lo hi : Fld) (v : Nat) (h : Keeps s t) : Keeps s (t.put64 lo hi v) :=
  State.put_keeps _ _ (State.put_keeps _ _ h)

theorem State.settleFrom_keeps (old : State) (h : Keeps s t) : Keeps s (State.settleFrom old t) := by
  unfold State.settleFrom
  dsimp only
  split <;> split <;> (repeat' first | exact h | apply Keeps.upd)

theorem State.raiseBy_keeps (e : Ev) (n : Nat) (h : Keeps s t) : Keeps s (t.raiseBy e n) := by
  unfold State.raiseBy
  dsimp only
  split
  · exact h
  · have h1 : Keeps s (match e.cnt with | none => t.put (intRawBit e) 1 | some b => (t.put (intRawBit e) 1).bumpBy (evtCnt e.page b) n) := by
      split
      · exact State.put_keeps _ _ h
      · exact State.bumpBy_keeps _ _ (State.put_keeps _ _ h)
    split
    · exact h1
    · exact State.settleFrom_keeps _ h1

theorem State.raise_keeps (e : Ev) (h : Keeps s t) : Keeps s (t.raise e) := State.raiseBy_keeps e 1 h

theorem State.sensorShow_keeps (h : Keeps s t) : Keeps s t.sensorShow := State.put_keeps _ _ h

theorem State.setPower_keeps (p : Nat) (h : Keeps s t) : Keeps s (t.setPower p) := by
  unfold State.setPower
  exact State.sensorShow_keeps (Keeps.upd (State.put_keeps _ _ h))

theorem State.bgProgress_keeps (act : Nat) (h : Keeps s t) : Keeps s (t.bgProgress act) := by
  unfold State.bgProgress
  dsimp only
  split
  · exact State.put_keeps _ _ (State.put_keeps _ _ (Keeps.upd h))
  · exact State.put_keeps _ _ (Keeps.upd h)

theorem State.at_keeps (n : Nat) (h : Keeps s t) : Keeps s (t.at n) :=
  h.trans ⟨rfl, Nat.le_max_left _ _, Nat.le_refl _, id⟩

theorem State.fresh_keeps (h : Keeps s t) : Keeps s t.fresh.2 :=
  h.trans ⟨rfl, Nat.le_refl _, Nat.le_succ _, id⟩

theorem State.fresh_out {u : State} {x : Nat} (e : t.fresh = (x, u)) (h : Keeps s t) : Keeps s u := by
  have k := State.fresh_keeps h
  rwa [e] at k

theorem State.monEnter_keeps (m : Mon) (w : Nat) (v : Int) (h : Keeps s t) : Keeps s (t.monEnter m w v) := by
  unfold State.monEnter
  dsimp only
  repeat' first | exact h | apply State.bump_keeps | apply State.put_keeps | split

theorem State.monClear_keeps (m : Mon) (h : Keeps s t) : Keeps s (t.monClear m) :=
  Keeps.foldl _ (fun _ _ k => State.put_keeps _ _ k) (State.put_keeps _ _ (State.put_keeps _ _ h))

theorem State.setByte_keeps (a : Nat) (b : Byte) (h : Keeps s t) : Keeps s (t.setByte a b) :=
  Keeps.tables h rfl rfl rfl (memWf_set a b) id (fun c => c.2.2.1) (fun c => c.2.2.2)

theorem State.putBytes_keeps (a : Nat) (bs : List Nat) (h : Keeps s t) : Keeps s (t.putBytes a bs) := by
  induction bs generalizing a t with
  | nil => exact h
  | cons b bs ih => exact ih (a + 1) (State.setByte_keeps _ _ h)

theorem State.setBytes_keeps (a : Nat) (bs : List Nat) (h : Keeps s t) : Keeps s (t.setBytes a bs) :=
  Keeps.upd (State.putBytes_keeps a bs h)

end
end Sys2Proof.Machine
end

