-- ==== Sys2Proof/Laws/KeepsJournal.lean ====
section
/-! SUPPORT. What no operation of `Machine/Journal.lean` does (`Keeps`), one lemma per operation. -/
namespace Sys2Proof.Machine
set_option linter.unusedVariables false
set_option linter.unusedSimpArgs false

section
variable {s t : State}

theorem State.jShow_keeps (h : Keeps s t) : Keeps s (State.jShow t) := by
  unfold State.jShow
  with_reducible repeat' first
    | assumption | apply State.put_keeps | apply State.put64_keeps | apply State.raise_keeps | simp only [Keeps.upd_iff]
    | split

theorem State.jCommit_keeps (type : Nat) (payload : List Nat) (h : Keeps s t) : Keeps s (State.jCommit t type payload) := by
  unfold State.jCommit
  with_reducible repeat' first
    | assumption | apply State.jShow_keeps | simp only [Keeps.upd_iff] | split

theorem State.accrue_keeps (h : Keeps s t) : Keeps s (State.accrue t) := by
  unfold State.accrue
  with_reducible repeat' first
    | assumption | simp only [Keeps.upd_iff] | split

theorem State.lifeCommitAt_keeps (tick : Nat) (h : Keeps s t) : Keeps s (State.lifeCommitAt t tick) := by
  unfold State.lifeCommitAt
  with_reducible repeat' first
    | assumption | apply State.accrue_keeps | apply State.jCommit_keeps | simp only [Keeps.upd_iff] | split

theorem State.lifeCommit_keeps (h : Keeps s t) : Keeps s (State.lifeCommit t) := by
  unfold State.lifeCommit
  with_reducible repeat' first
    | assumption | apply State.lifeCommitAt_keeps | simp only [Keeps.upd_iff] | split

theorem State.jEvent_keeps (code : Nat) (detail : List Nat) (h : Keeps s t) : Keeps s (State.jEvent t code detail) := by
  unfold State.jEvent
  with_reducible repeat' first
    | assumption | apply State.lifeCommit_keeps | apply State.jCommit_keeps | simp only [Keeps.upd_iff] | split

theorem State.jDrain_keeps (h : Keeps s t) : Keeps s (State.jDrain t) := by
  unfold State.jDrain
  with_reducible repeat' first
    | assumption | apply State.lifeCommit_keeps | apply State.jCommit_keeps | refine Keeps.foldl _ (fun _ _ _ => ?_) ?_
    | simp only [Keeps.upd_iff] | split

theorem State.compactCut_keeps (h : Keeps s t) : Keeps s (State.compactCut t) := by
  unfold State.compactCut
  with_reducible repeat' first
    | assumption | apply State.put_keeps | simp only [Keeps.upd_iff] | split

end
end Sys2Proof.Machine
end

