-- ==== Sys2Proof/Laws/KeepsEvents.lean ====
section
/-! SUPPORT. What no operation of `Machine/Events.lean` does (`Keeps`), one lemma per operation, and that each command goes on. -/
namespace Sys2Proof.Machine
set_option linter.unusedVariables false
set_option linter.unusedSimpArgs false

section
variable {s t : State}

theorem State.setPort_keeps (p : Nat) (x : Port) (h : Keeps s t) : Keeps s (State.setPort t p x) := by
  unfold State.setPort
  with_reducible repeat' first
    | assumption | simp only [Keeps.upd_iff] | split

theorem State.txPush_keeps (p : Nat) (k : TxPkt) (h : Keeps s t) : Keeps s (State.txPush t p k) := by
  unfold State.txPush
  with_reducible repeat' first
    | assumption | apply State.setPort_keeps | simp only [Keeps.upd_iff] | split

theorem State.eventOn_keeps (code source : Nat) (detail : List Nat) (vc : Nat) (h : Keeps s t) : Keeps s
    (State.eventOn t code source detail vc) := by
  unfold State.eventOn
  with_reducible repeat' first
    | assumption | apply State.raise_keeps | simp only [Keeps.upd_iff] | split

theorem State.event_keeps (code source : Nat) (detail : List Nat) (h : Keeps s t) : Keeps s (State.event t code source detail) :=
    by
  unfold State.event
  with_reducible repeat' first
    | assumption | apply State.eventOn_keeps | simp only [Keeps.upd_iff] | split

theorem State.eventSend_keeps (h : Keeps s t) : Keeps s (State.eventSend t) := by
  unfold State.eventSend
  with_reducible repeat' first
    | assumption | apply State.txPush_keeps | simp only [Keeps.upd_iff] | split

theorem State.setPortState_keeps (p st : Nat) (h : Keeps s t) : Keeps s (State.setPortState t p st) := by
  unfold State.setPortState
  with_reducible repeat' first
    | assumption | apply State.event_keeps | apply State.put_keeps | simp only [Keeps.upd_iff] | split

theorem State.setChain_keeps (c : Chain) (h : Keeps s t) : Keeps s (State.setChain t c) := by
  unfold State.setChain
  with_reducible repeat' first
    | assumption | simp only [Keeps.upd_iff] | split

theorem State.chainStop_keeps (h : Keeps s t) : Keeps s (State.chainStop t) := by
  unfold State.chainStop
  with_reducible repeat' first
    | assumption | apply State.setChain_keeps | simp only [Keeps.upd_iff] | split

theorem State.chainRun_keeps (h : Keeps s t) : Keeps s (State.chainRun t) := by
  unfold State.chainRun
  with_reducible repeat' first
    | assumption | apply State.setChain_keeps | simp only [Keeps.upd_iff] | split

theorem State.chainEvent_keeps (code n : Nat) (h : Keeps s t) : Keeps s (State.chainEvent t code n) := by
  unfold State.chainEvent
  with_reducible repeat' first
    | assumption | apply State.event_keeps | simp only [Keeps.upd_iff] | split

theorem State.ctUnlock_keeps (h : Keeps s t) : Keeps s (State.ctUnlock t) := by
  unfold State.ctUnlock
  with_reducible repeat' first
    | assumption | apply State.setChain_keeps | apply State.put_keeps | apply State.raise_keeps | simp only [Keeps.upd_iff]
    | split

theorem State.tokensGone_keeps (h : Keeps s t) : Keeps s (State.tokensGone t) := by
  unfold State.tokensGone
  with_reducible repeat' first
    | assumption | apply State.setChain_keeps | apply State.put_keeps | apply State.raise_keeps | simp only [Keeps.upd_iff]
    | split

theorem State.chainCut_keeps (h : Keeps s t) : Keeps s (State.chainCut t) := by
  unfold State.chainCut
  with_reducible repeat' first
    | assumption | apply State.tokensGone_keeps | apply State.ctUnlock_keeps | apply State.chainEvent_keeps
    | simp only [Keeps.upd_iff] | split

theorem State.dropRegs_keeps (lost : Nat → Bool) (h : Keeps s t) : Keeps s (State.dropRegs t lost) :=
  Keeps.tables h rfl rfl rfl id (regsWf_keepRegs (fun a => !lost a))
    (fun c => regsWf_keepRegs (fun a => !lost a) c.2.2.1) (fun c => regsWf_keepRegs (fun a => !lost a) c.2.2.2)

theorem State.memForget_keeps (lo hi : Nat) (h : Keeps s t) : Keeps s (State.memForget t lo hi) :=
  Keeps.tables h rfl rfl rfl (memWf_clear lo hi) id (fun c => c.2.2.1) (fun c => c.2.2.2)

theorem State.enginesLost_keeps (c : Nat) (h : Keeps s t) : Keeps s (State.enginesLost t c) := by
  unfold State.enginesLost
  with_reducible repeat' first
    | assumption | simp only [Keeps.upd_iff] | split

theorem State.courseLost_keeps (c : Nat) (h : Keeps s t) : Keeps s (State.courseLost t c) := by
  unfold State.courseLost
  with_reducible repeat' first
    | assumption | apply State.enginesLost_keeps | apply State.memForget_keeps | apply State.dropRegs_keeps
    | apply State.put_keeps | simp only [Keeps.upd_iff] | split

theorem State.dmaPortLost_keeps (p : Nat) (h : Keeps s t) : Keeps s (State.dmaPortLost t p) := by
  unfold State.dmaPortLost
  with_reducible repeat' first
    | assumption | simp only [Keeps.upd_iff] | split

theorem State.portLost_keeps (p : Nat) (h : Keeps s t) : Keeps s (State.portLost t p) := by
  unfold State.portLost
  with_reducible repeat' first
    | assumption | apply State.dmaPortLost_keeps | apply State.dropRegs_keeps | apply State.chainCut_keeps
    | apply State.setPortState_keeps | apply State.setPort_keeps | apply State.put_keeps | simp only [Keeps.upd_iff] | split

theorem State.lampLost_keeps (h : Keeps s t) : Keeps s (State.lampLost t) := by
  unfold State.lampLost
  with_reducible repeat' first
    | assumption | apply State.put_keeps | simp only [Keeps.upd_iff] | split

theorem State.clkLost_keeps (h : Keeps s t) : Keeps s (State.clkLost t) := by
  unfold State.clkLost
  with_reducible repeat' first
    | assumption | apply State.chainStop_keeps | apply State.setReg_keeps | apply State.put_keeps
    | refine Keeps.foldl _ (fun _ _ _ => ?_) ?_ | simp only [Keeps.upd_iff] | split

theorem State.loftLost_keeps (h : Keeps s t) : Keeps s (State.loftLost t) := by
  unfold State.loftLost
  with_reducible repeat' first
    | assumption | apply State.memForget_keeps | apply State.setReg_keeps | refine Keeps.foldl _ (fun _ _ _ => ?_) ?_
    | simp only [Keeps.upd_iff] | split

theorem State.ddrRest_keeps (h : Keeps s t) : Keeps s (State.ddrRest t) := by
  unfold State.ddrRest
  with_reducible repeat' first
    | assumption | apply State.put_keeps | simp only [Keeps.upd_iff] | split

theorem State.banksLost_keeps (h : Keeps s t) : Keeps s (State.banksLost t) := by
  unfold State.banksLost
  with_reducible repeat' first
    | assumption | simp only [Keeps.upd_iff] | split

theorem State.domOff_keeps (d : Nat) (h : Keeps s t) : Keeps s (State.domOff t d) := by
  unfold State.domOff
  with_reducible repeat' first
    | assumption | apply State.banksLost_keeps | apply State.ddrRest_keeps | apply State.loftLost_keeps
    | apply State.clkLost_keeps | apply State.lampLost_keeps | apply State.portLost_keeps | apply State.courseLost_keeps
    | apply State.dropRegs_keeps | apply State.compactCut_keeps | apply State.put_keeps | apply State.sensorShow_keeps
    | simp only [Keeps.upd_iff] | split

theorem State.domsOff_keeps (ds : List Nat) (h : Keeps s t) : Keeps s (State.domsOff t ds) := by
  unfold State.domsOff
  with_reducible repeat' first
    | assumption | apply State.domOff_keeps | refine Keeps.foldl _ (fun _ _ _ => ?_) ?_ | simp only [Keeps.upd_iff] | split

theorem State.calDiscard_keeps (h : Keeps s t) : Keeps s (State.calDiscard t) := by
  unfold State.calDiscard
  with_reducible repeat' first
    | assumption | simp only [Keeps.upd_iff] | split

theorem State.domsOffBut_keeps (keep : List Nat) (h : Keeps s t) : Keeps s (State.domsOffBut t keep) := by
  unfold State.domsOffBut
  with_reducible repeat' first
    | assumption | apply State.domsOff_keeps | simp only [Keeps.upd_iff] | split

end

theorem execEventSend_goes (s : State) : goesOn (execEventSend s) (Keeps s) := by
  have h := Keeps.refl s
  unfold execEventSend
  with_reducible repeat' first | apply goesOn.next | split
  all_goals
    with_reducible repeat' first
      | assumption | apply State.eventSend_keeps | simp only [Keeps.upd_iff] | split

end Sys2Proof.Machine
end

