-- ==== Sys2Proof/Laws/KeepsRings.lean ====
section
/-! SUPPORT. What no operation of `Machine/Rings.lean` does (`Keeps`), one lemma per operation, and that each command goes on. -/
namespace Sys2Proof.Machine
set_option linter.unusedVariables false
set_option linter.unusedSimpArgs false

section
variable {s t : State}

theorem State.ringStore_keeps (r n ofs : Nat) (bs : List Nat) (h : Keeps s t) : Keeps s (State.ringStore t r n ofs bs) := by
  induction n generalizing t ofs bs with
  | zero => exact h
  | succ n ih => exact ih _ _ (State.setBytes_keeps _ _ h)

theorem State.ringPut_out {r : Nat} {bs : List Nat} {u : State} (e : State.ringPut t r bs = some u) (h : Keeps s t) : Keeps s u
    := by
  unfold State.ringPut at e
  dsimp only at e
  split at e
  · cases e
  · injection e with e
    subst e
    with_reducible repeat' first
      | assumption | apply State.put_keeps | apply State.ringStore_keeps | split

theorem State.ringPut_getD_keeps (r : Nat) (bs : List Nat) (h : Keeps s t) : Keeps s ((State.ringPut t r bs).getD t) := by
  cases e : State.ringPut t r bs with
  | none => exact h
  | some u => exact State.ringPut_out e h

theorem State.ringRewrite_keeps (r ofs : Nat) (bs : List Nat) (h : Keeps s t) : Keeps s (State.ringRewrite t r ofs bs) := by
  unfold State.ringRewrite
  with_reducible repeat' first
    | assumption | apply State.setBytes_keeps | simp only [Keeps.upd_iff] | split

theorem State.streamForget_keeps (r : Nat) (h : Keeps s t) : Keeps s (State.streamForget t r) := by
  unfold State.streamForget
  with_reducible repeat' first
    | assumption | apply State.setPort_keeps | simp only [Keeps.upd_iff] | split

theorem State.ringDrop_keeps (r : Nat) (h : Keeps s t) : Keeps s (State.ringDrop t r) := by
  unfold State.ringDrop
  with_reducible repeat' first
    | assumption | apply State.bump_keeps | simp only [Keeps.upd_iff] | split

theorem State.ringOverflow_keeps (r : Nat) (h : Keeps s t) : Keeps s (State.ringOverflow t r) := by
  unfold State.ringOverflow
  with_reducible repeat' first
    | assumption | apply State.put_keeps | apply State.raise_keeps | simp only [Keeps.upd_iff] | split

theorem State.ringRdWrite_keeps (r v : Nat) (h : Keeps s t) : Keeps s (State.ringRdWrite t r v) := by
  unfold State.ringRdWrite
  with_reducible repeat' first
    | assumption | apply State.put_keeps | simp only [Keeps.upd_iff] | split

theorem State.ringCfgWrite_keeps (r : Nat) (size : Bool) (v : Nat) (h : Keeps s t) : Keeps s (State.ringCfgWrite t r size v) := by
  unfold State.ringCfgWrite
  with_reducible repeat' first
    | assumption | apply State.streamForget_keeps | apply State.put_keeps | apply State.raise_keeps
    | simp only [Keeps.upd_iff] | split

end

theorem execRingRdWrite_goes (r : Fin 5) (v : Word) (s : State) : goesOn (execRingRdWrite r v s) (Keeps s) := by
  have h := Keeps.refl s
  unfold execRingRdWrite
  with_reducible repeat' first | apply goesOn.next | split
  all_goals
    with_reducible repeat' first
      | assumption | apply State.ringRdWrite_keeps | simp only [Keeps.upd_iff] | split

theorem execRingCfgWrite_goes (r : Fin 5) (size : Bool) (v : Word) (s : State) : goesOn (execRingCfgWrite r size v s) (Keeps s)
    := by
  have h := Keeps.refl s
  unfold execRingCfgWrite
  with_reducible repeat' first | apply goesOn.next | split
  all_goals
    with_reducible repeat' first
      | assumption | apply State.ringCfgWrite_keeps | simp only [Keeps.upd_iff] | split

end Sys2Proof.Machine
end

