-- ==== Sys2Proof/Laws/KeepsNvs.lean ====
section
/-! SUPPORT. What no operation of `Machine/Nvs.lean` does (`Keeps`), one lemma per operation, and that each command goes on. -/
namespace Sys2Proof.Machine
set_option linter.unusedVariables false
set_option linter.unusedSimpArgs false

section
variable {s t : State}

theorem State.compactResume_keeps (h : Keeps s t) : Keeps s (State.compactResume t) := by
  unfold State.compactResume
  with_reducible repeat' first
    | assumption | apply State.bgProgress_keeps | simp only [Keeps.upd_iff] | split

theorem State.compactStart_keeps (h : Keeps s t) : Keeps s (State.compactStart t) := by
  unfold State.compactStart
  with_reducible repeat' first
    | assumption | apply State.put_keeps | apply State.bgProgress_keeps | simp only [Keeps.upd_iff] | split

theorem State.nvsEnd_keeps (result count : Nat) (h : Keeps s t) : Keeps s (State.nvsEnd t result count) := by
  unfold State.nvsEnd
  with_reducible repeat' first
    | assumption | apply State.compactResume_keeps | apply State.put_keeps | apply State.raise_keeps
    | simp only [Keeps.upd_iff] | split

theorem State.nvsGo_keeps (op : Nat) (v : Word) (prog : Programmed) (h : Keeps s t) : Keeps s (State.nvsGo t op v prog) := by
  unfold State.nvsGo
  with_reducible repeat' first
    | assumption | apply State.nvsEnd_keeps | apply State.compactStart_keeps | apply State.put_keeps
    | apply State.raise_keeps | simp only [Keeps.upd_iff] | split

theorem State.jFullSet_keeps (h : Keeps s t) : Keeps s (State.jFullSet t) := by
  unfold State.jFullSet
  with_reducible repeat' first
    | assumption | apply State.put_keeps | apply State.raise_keeps | simp only [Keeps.upd_iff] | split

theorem State.errLatch_keeps (a : Nat) (h : Keeps s t) : Keeps s (State.errLatch t a) := by
  unfold State.errLatch
  with_reducible repeat' first
    | assumption | apply State.put_keeps | simp only [Keeps.upd_iff] | split

theorem State.ceSeen_keeps (a : Nat) (h : Keeps s t) : Keeps s (State.ceSeen t a) := by
  unfold State.ceSeen
  with_reducible repeat' first
    | assumption | apply State.errLatch_keeps | apply State.bump_keeps | apply State.raise_keeps | simp only [Keeps.upd_iff]
    | split

theorem State.ddrRead_keeps (a n : Nat) (h : Keeps s t) : Keeps s (State.ddrRead t a n) := by
  unfold State.ddrRead
  with_reducible repeat' first
    | assumption | apply State.ceSeen_keeps | apply State.errLatch_keeps | apply State.bump_keeps | apply State.raise_keeps
    | refine Keeps.foldl _ (fun _ _ _ => ?_) ?_ | simp only [Keeps.upd_iff] | split

theorem State.memCopy_keeps (src dst n : Nat) (h : Keeps s t) : Keeps s (State.memCopy t src dst n) :=
  Keeps.foldl _ (fun _ _ k => State.setByte_keeps _ _ k)
    (Keeps.tables h rfl rfl rfl (memWf_clear _ _) id (fun c => c.2.2.1) (fun c => c.2.2.2))

theorem State.reclaim_keeps (h : Keeps s t) : Keeps s (State.reclaim t) := by
  unfold State.reclaim
  with_reducible repeat' first
    | assumption | refine Keeps.foldl _ (fun _ _ _ => ?_) ?_ | simp only [Keeps.upd_iff] | split

theorem State.freeShow_keeps (h : Keeps s t) : Keeps s (State.freeShow t) := by
  unfold State.freeShow
  with_reducible repeat' first
    | assumption | apply State.put_keeps | refine Keeps.foldl _ (fun _ _ _ => ?_) ?_ | simp only [Keeps.upd_iff] | split

theorem State.catStore_keeps (e : CatEntry) (h : Keeps s t) : Keeps s (State.catStore t e) := by
  unfold State.catStore
  with_reducible repeat' first
    | assumption | apply State.setBytes_keeps | simp only [Keeps.upd_iff] | split

theorem State.catClear_keeps (slot : Nat) (h : Keeps s t) : Keeps s (State.catClear t slot) :=
  Keeps.tables h rfl rfl rfl (memWf_clear _ _) id (fun c => c.2.2.1) (fun c => c.2.2.2)

theorem State.wearSet_keeps (pct : Nat) (h : Keeps s t) : Keeps s (State.wearSet t pct) := by
  unfold State.wearSet
  with_reducible repeat' first
    | assumption | apply State.jEvent_keeps | apply State.put_keeps | apply State.raise_keeps | simp only [Keeps.upd_iff]
    | split

theorem State.storeRun_keeps (a : NvsArgs) (p : Programmed) (h : Keeps s t) : Keeps s (State.storeRun t a p).1 := by
  unfold State.storeRun
  with_reducible repeat' first
    | assumption | apply State.wearSet_keeps | apply State.catStore_keeps | apply State.freeShow_keeps
    | apply State.reclaim_keeps | apply State.memCopy_keeps | apply State.ddrRead_keeps | apply State.jFullSet_keeps
    | apply State.jCommit_keeps | simp only [Keeps.upd_iff] | split

theorem State.storeRun_out {a : NvsArgs} {p : Programmed} {u : State} {out : Nat × Nat} (e : State.storeRun t a p = (u, out))
    (h : Keeps s t) : Keeps s u := by
  have k := State.storeRun_keeps a p h
  rwa [e] at k

theorem State.deleteRun_keeps (a : NvsArgs) (h : Keeps s t) : Keeps s (State.deleteRun t a).1 := by
  unfold State.deleteRun
  with_reducible repeat' first
    | assumption | apply State.catClear_keeps | apply State.jFullSet_keeps | apply State.jCommit_keeps
    | simp only [Keeps.upd_iff] | split

theorem State.deleteRun_out {a : NvsArgs} {u : State} {out : Nat × Nat} (e : State.deleteRun t a = (u, out)) (h : Keeps s t) :
    Keeps s u := by
  have k := State.deleteRun_keeps a h
  rwa [e] at k

theorem State.identityStore_keeps (h : Keeps s t) : Keeps s (State.identityStore t) := by
  unfold State.identityStore
  with_reducible repeat' first
    | assumption | apply State.setBytes_keeps | simp only [Keeps.upd_iff] | split

theorem State.historyStore_keeps (h : Keeps s t) : Keeps s (State.historyStore t) := by
  unfold State.historyStore
  with_reducible repeat' first
    | assumption | apply State.setBytes_keeps | refine Keeps.foldl _ (fun _ _ _ => ?_) ?_ | simp only [Keeps.upd_iff] | split

theorem State.compactionDone_keeps (h : Keeps s t) : Keeps s (State.compactionDone t) := by
  unfold State.compactionDone
  with_reducible repeat' first
    | assumption | apply State.historyStore_keeps | apply State.identityStore_keeps | apply State.nvsEnd_keeps
    | apply State.lifeCommit_keeps | apply State.jCommit_keeps | apply State.jShow_keeps | apply State.put_keeps
    | apply State.setBytes_keeps | apply State.bgProgress_keeps | simp only [Keeps.upd_iff] | split

theorem State.exportRun_keeps (a : NvsArgs) (h : Keeps s t) : Keeps s (State.exportRun t a).1 := by
  unfold State.exportRun
  with_reducible repeat' first
    | assumption | apply State.setBytes_keeps | simp only [Keeps.upd_iff] | split

theorem State.exportRun_out {a : NvsArgs} {u : State} {out : Nat × Nat} (e : State.exportRun t a = (u, out)) (h : Keeps s t) :
    Keeps s u := by
  have k := State.exportRun_keeps a h
  rwa [e] at k

theorem State.adoptRun_keeps (a : NvsArgs) (h : Keeps s t) : Keeps s (State.adoptRun t a).1 := by
  unfold State.adoptRun
  with_reducible repeat' first
    | assumption | apply State.identityStore_keeps | apply State.jFullSet_keeps | apply State.jEvent_keeps
    | apply State.jCommit_keeps | simp only [Keeps.upd_iff] | split

theorem State.adoptRun_out {a : NvsArgs} {u : State} {out : Nat × Nat} (e : State.adoptRun t a = (u, out)) (h : Keeps s t) :
    Keeps s u := by
  have k := State.adoptRun_keeps a h
  rwa [e] at k

theorem State.releaseRun_keeps (h : Keeps s t) : Keeps s (State.releaseRun t).1 := by
  unfold State.releaseRun
  with_reducible repeat' first
    | assumption | apply State.put_keeps | simp only [Keeps.upd_iff] | split

theorem State.releaseRun_out  {u : State} {out : Nat × Nat} (e : State.releaseRun t = (u, out)) (h : Keeps s t) : Keeps s u := by
  have k := State.releaseRun_keeps  h
  rwa [e] at k

theorem State.nvsRun_keeps (j : NvsJob) (h : Keeps s t) : Keeps s (State.nvsRun t j).1 := by
  unfold State.nvsRun
  with_reducible repeat' first
    | assumption | refine State.releaseRun_out ‹_› ?_ | refine State.adoptRun_out ‹_› ?_ | refine State.exportRun_out ‹_› ?_
    | refine State.deleteRun_out ‹_› ?_ | refine State.storeRun_out ‹_› ?_ | apply State.releaseRun_keeps
    | apply State.adoptRun_keeps | apply State.exportRun_keeps | apply State.deleteRun_keeps | apply State.storeRun_keeps
    | simp only [Keeps.upd_iff] | split

theorem State.nvsRun_out {j : NvsJob} {u : State} {out : Nat × Nat} (e : State.nvsRun t j = (u, out)) (h : Keeps s t) : Keeps s u
    := by
  have k := State.nvsRun_keeps j h
  rwa [e] at k

theorem State.nvsCmdDone_keeps (h : Keeps s t) : Keeps s (State.nvsCmdDone t) := by
  unfold State.nvsCmdDone
  with_reducible repeat' first
    | assumption | refine State.nvsRun_out ‹_› ?_ | apply State.nvsEnd_keeps | apply State.nvsRun_keeps
    | simp only [Keeps.upd_iff] | split

theorem State.nvsHold_keeps (h : Keeps s t) : Keeps s (State.nvsHold t) := by
  unfold State.nvsHold
  with_reducible repeat' first
    | assumption | apply State.nvsEnd_keeps | apply State.compactCut_keeps | simp only [Keeps.upd_iff] | split

theorem State.nvsCut_keeps (h : Keeps s t) : Keeps s (State.nvsCut t) := by
  unfold State.nvsCut
  with_reducible repeat' first
    | assumption | apply State.put_keeps | simp only [Keeps.upd_iff] | split

theorem State.flushUnits_keeps (r n ofs dst : Nat) (h : Keeps s t) : Keeps s (State.flushUnits t r n ofs dst) := by
  induction n generalizing t ofs dst with
  | zero => exact h
  | succ n ih => exact ih _ _ (State.memCopy_keeps _ _ _ (State.ddrRead_keeps _ _ h))

theorem State.flushRing_keeps (acc : List Flushed × Nat × Nat) (r : Nat) (h : Keeps s t) : Keeps s (State.flushRing t acc r).1 :=
    by
  unfold State.flushRing
  with_reducible repeat' first
    | assumption | apply State.flushUnits_keeps | refine State.fresh_out ‹_› ?_ | apply State.fresh_keeps
    | simp only [Keeps.upd_iff] | split

theorem State.flushRing_out {acc : List Flushed × Nat × Nat} {r : Nat} {u : State} {out : List Flushed × Nat × Nat}
    (e : State.flushRing t acc r = (u, out)) (h : Keeps s t) : Keeps s u := by
  have k := State.flushRing_keeps acc r h
  rwa [e] at k

theorem State.flushRings_keeps (h : Keeps s t) : Keeps s (State.flushRings t) := by
  unfold State.flushRings
  with_reducible repeat' first
    | assumption | refine State.flushRing_out ‹_› ?_ | apply State.put_keeps | apply State.setBytes_keeps
    | apply State.flushRing_keeps | simp only [Keeps.upd_iff] | split

theorem State.domBegin_keeps (t_ : Nat) (h : Keeps s t) : Keeps s (State.domBegin t t_) := by
  unfold State.domBegin
  with_reducible repeat' first
    | assumption | apply State.at_keeps | simp only [Keeps.upd_iff] | split

theorem State.flushOn_keeps (d : Nat) (h : Keeps s t) : Keeps s (State.flushOn t d) := by
  unfold State.flushOn
  with_reducible repeat' first
    | assumption | apply State.domBegin_keeps | apply State.put_keeps | simp only [Keeps.upd_iff] | split

theorem State.flushDomains_keeps (h : Keeps s t) : Keeps s (State.flushDomains t) := by
  unfold State.flushDomains
  with_reducible repeat' first
    | assumption | apply State.flushOn_keeps | apply State.domsOff_keeps | refine Keeps.foldl _ (fun _ _ _ => ?_) ?_
    | simp only [Keeps.upd_iff] | split

theorem State.holdupFlush_keeps (h : Keeps s t) : Keeps s (State.holdupFlush t) := by
  unfold State.holdupFlush
  with_reducible repeat' first
    | assumption | apply State.flushDomains_keeps | apply State.flushRings_keeps | apply State.compactCut_keeps
    | apply State.jDrain_keeps | apply State.lifeCommit_keeps | apply State.put_keeps | simp only [Keeps.upd_iff] | split

theorem State.flushShow_keeps (h : Keeps s t) : Keeps s (State.flushShow t) := by
  unfold State.flushShow
  with_reducible repeat' first
    | assumption | apply State.put_keeps | simp only [Keeps.upd_iff] | split

theorem State.flushCommit_keeps (h : Keeps s t) : Keeps s (State.flushCommit t) := by
  unfold State.flushCommit
  with_reducible repeat' first
    | assumption | apply State.flushShow_keeps | apply State.jDrain_keeps | apply State.jCommit_keeps | apply State.put_keeps
    | simp only [Keeps.upd_iff] | split

theorem State.headerCheck_keeps (h : Keeps s t) : Keeps s (State.headerCheck t) := by
  unfold State.headerCheck
  with_reducible repeat' first
    | assumption | apply State.identityStore_keeps | apply State.setBytes_keeps | simp only [Keeps.upd_iff] | split

theorem State.replayed_keeps (torn : Bool) (h : Keeps s t) : Keeps s (State.replayed t torn) := by
  unfold State.replayed
  with_reducible repeat' first
    | assumption | apply State.headerCheck_keeps | apply State.flushShow_keeps | apply State.nvsCut_keeps
    | apply State.wearSet_keeps | apply State.freeShow_keeps | apply State.jDrain_keeps | apply State.jEvent_keeps
    | apply State.jShow_keeps | apply State.put_keeps | apply State.raise_keeps | simp only [Keeps.upd_iff] | split

end

theorem execNvsStore_goes (v : Word) (prog : Programmed) (s : State) : goesOn (execNvsStore v prog s) (Keeps s) := by
  have h := Keeps.refl s
  unfold execNvsStore
  with_reducible repeat' first | apply goesOn.next | split
  all_goals
    with_reducible repeat' first
      | assumption | apply State.nvsGo_keeps | simp only [Keeps.upd_iff] | split | intro _ _

theorem execNvsDelete_goes (v : Word) (s : State) : goesOn (execNvsDelete v s) (Keeps s) := by
  have h := Keeps.refl s
  unfold execNvsDelete
  with_reducible repeat' first | apply goesOn.next | split
  all_goals
    with_reducible repeat' first
      | assumption | apply State.nvsGo_keeps | simp only [Keeps.upd_iff] | split | intro _ _

theorem execNvsCompact_goes (v : Word) (s : State) : goesOn (execNvsCompact v s) (Keeps s) := by
  have h := Keeps.refl s
  unfold execNvsCompact
  with_reducible repeat' first | apply goesOn.next | split
  all_goals
    with_reducible repeat' first
      | assumption | apply State.nvsGo_keeps | simp only [Keeps.upd_iff] | split | intro _ _

theorem execCompactionStart_goes (s : State) : goesOn (execCompactionStart s) (Keeps s) := by
  have h := Keeps.refl s
  unfold execCompactionStart
  with_reducible repeat' first | apply goesOn.next | split
  all_goals
    with_reducible repeat' first
      | assumption | apply State.compactStart_keeps | simp only [Keeps.upd_iff] | split

theorem execCompactionDone_goes (s : State) : goesOn (execCompactionDone s) (Keeps s) := by
  have h := Keeps.refl s
  unfold execCompactionDone
  with_reducible repeat' first | apply goesOn.next | split
  all_goals
    with_reducible repeat' first
      | assumption | apply State.compactionDone_keeps | simp only [Keeps.upd_iff] | split

theorem execNvsExport_goes (v : Word) (s : State) : goesOn (execNvsExport v s) (Keeps s) := by
  have h := Keeps.refl s
  unfold execNvsExport
  with_reducible repeat' first | apply goesOn.next | split
  all_goals
    with_reducible repeat' first
      | assumption | apply State.nvsGo_keeps | simp only [Keeps.upd_iff] | split | intro _ _

theorem execNvsAdopt_goes (v : Word) (s : State) : goesOn (execNvsAdopt v s) (Keeps s) := by
  have h := Keeps.refl s
  unfold execNvsAdopt
  with_reducible repeat' first | apply goesOn.next | split
  all_goals
    with_reducible repeat' first
      | assumption | apply State.nvsGo_keeps | simp only [Keeps.upd_iff] | split | intro _ _

theorem execNvsFlushRelease_goes (v : Word) (s : State) : goesOn (execNvsFlushRelease v s) (Keeps s) := by
  have h := Keeps.refl s
  unfold execNvsFlushRelease
  with_reducible repeat' first | apply goesOn.next | split
  all_goals
    with_reducible repeat' first
      | assumption | apply State.nvsGo_keeps | simp only [Keeps.upd_iff] | split | intro _ _

theorem execNvsCmdDone_goes (s : State) : goesOn (execNvsCmdDone s) (Keeps s) := by
  have h := Keeps.refl s
  unfold execNvsCmdDone
  with_reducible repeat' first | apply goesOn.next | split
  all_goals
    with_reducible repeat' first
      | assumption | apply State.nvsCmdDone_keeps | simp only [Keeps.upd_iff] | split

end Sys2Proof.Machine
end

