-- ==== Sys2Proof/Laws/KeepsBanks.lean ====
section
/-! SUPPORT. What no operation of `Machine/Banks.lean` does (`Keeps`), one lemma per operation. -/
namespace Sys2Proof.Machine
set_option linter.unusedVariables false
set_option linter.unusedSimpArgs false

section
variable {s t : State}

theorem State.usedShow_keeps (h : Keeps s t) : Keeps s (State.usedShow t) := by
  unfold State.usedShow
  with_reducible repeat' first
    | assumption | apply State.put_keeps | simp only [Keeps.upd_iff] | split

theorem State.capShow_keeps (x : Nat) (h : Keeps s t) : Keeps s (State.capShow t x) := by
  unfold State.capShow
  with_reducible repeat' first
    | assumption | apply State.put_keeps | simp only [Keeps.upd_iff] | split

theorem State.capsShow_keeps (h : Keeps s t) : Keeps s (State.capsShow t) := by
  unfold State.capsShow
  with_reducible repeat' first
    | assumption | apply State.capShow_keeps | apply State.put_keeps | simp only [Keeps.upd_iff] | split

theorem State.bankCheck_keeps (x : Nat) (h : Keeps s t) : Keeps s (State.bankCheck t x) := by
  unfold State.bankCheck
  with_reducible repeat' first
    | assumption | apply State.capShow_keeps | apply State.put_keeps | apply State.raise_keeps | simp only [Keeps.upd_iff]
    | split

theorem State.kcapShow_keeps (h : Keeps s t) : Keeps s (State.kcapShow t) := by
  unfold State.kcapShow
  with_reducible repeat' first
    | assumption | apply State.put_keeps | simp only [Keeps.upd_iff] | split

theorem State.thermTake_keeps (h : Keeps s t) : Keeps s (State.thermTake t) := by
  unfold State.thermTake
  with_reducible repeat' first
    | assumption | apply State.setAct_keeps | simp only [Keeps.upd_iff] | split

theorem State.capActShow_keeps (h : Keeps s t) : Keeps s (State.capActShow t) := by
  unfold State.capActShow
  with_reducible repeat' first
    | assumption | apply State.put_keeps | simp only [Keeps.upd_iff] | split

end
end Sys2Proof.Machine
end

