-- ==== Sys2Proof/Laws/KeepsLines.lean ====
section
/-! SUPPORT. What no operation of `Machine/Lines.lean` does (`Keeps`), one lemma per operation. -/
namespace Sys2Proof.Machine
set_option linter.unusedVariables false
set_option linter.unusedSimpArgs false

section
variable {s t : State}

theorem State.setLine_keeps (n : Nat) (f : Line → Line) (h : Keeps s t) : Keeps s (State.setLine t n f) := by
  unfold State.setLine
  with_reducible repeat' first
    | assumption | simp only [Keeps.upd_iff] | split

theorem State.busyShow_keeps (h : Keeps s t) : Keeps s (State.busyShow t) := by
  unfold State.busyShow
  with_reducible repeat' first
    | assumption | apply State.put_keeps | simp only [Keeps.upd_iff] | split

theorem State.linesSettle_keeps (h : Keeps s t) : Keeps s (State.linesSettle t) := by
  unfold State.linesSettle
  with_reducible repeat' first
    | assumption | apply State.busyShow_keeps | apply State.put64_keeps | simp only [Keeps.upd_iff] | split

theorem State.addReport_keeps (n reason mask : Nat) (h : Keeps s t) : Keeps s (State.addReport t n reason mask) := by
  unfold State.addReport
  with_reducible repeat' first
    | assumption | apply State.setLine_keeps | simp only [Keeps.upd_iff] | split

theorem State.handledBit_keeps (n sh : Nat) (h : Keeps s t) : Keeps s (State.handledBit t n sh) := by
  unfold State.handledBit
  with_reducible repeat' first
    | assumption | apply State.setLine_keeps | simp only [Keeps.upd_iff] | split

theorem State.lostLine_keeps (l : Line) (reason : Nat) (h : Keeps s t) : Keeps s (State.lostLine t l reason) := by
  unfold State.lostLine
  with_reducible repeat' first
    | assumption | simp only [Keeps.upd_iff] | split

end
end Sys2Proof.Machine
end

