-- ==== Sys2Proof/Laws/KeepsTickGen.lean ====
section
/-! SUPPORT. What no operation of `Machine/TickGen.lean` does (`Keeps`), one lemma per operation, and that each command goes on. -/
namespace Sys2Proof.Machine
set_option linter.unusedVariables false
set_option linter.unusedSimpArgs false

section
variable {s t : State}

theorem State.sendBlockAt_keeps (t_ p : Nat) (bytes : List Nat) (h : Keeps s t) : Keeps s (State.sendBlockAt t t_ p bytes) := by
  unfold State.sendBlockAt
  with_reducible repeat' first
    | assumption | simp only [Keeps.upd_iff] | split

theorem State.sendBlock_keeps (p : Nat) (bytes : List Nat) (h : Keeps s t) : Keeps s (State.sendBlock t p bytes) := by
  unfold State.sendBlock
  with_reducible repeat' first
    | assumption | apply State.sendBlockAt_keeps | simp only [Keeps.upd_iff] | split

theorem State.sendToken_keeps (flags hops tno ct tpred : Nat) (h : Keeps s t) : Keeps s
    (State.sendToken t flags hops tno ct tpred) := by
  unfold State.sendToken
  with_reducible repeat' first
    | assumption | apply State.sendBlock_keeps | simp only [Keeps.upd_iff] | split

theorem State.setTpred_keeps (f : Frac) (h : Keeps s t) : Keeps s (State.setTpred t f) := by
  unfold State.setTpred
  with_reducible repeat' first
    | assumption | apply State.put_keeps | simp only [Keeps.upd_iff] | split

theorem State.pushTick_keeps (d : DerTick) (h : Keeps s t) : Keeps s (State.pushTick t d) := by
  unfold State.pushTick
  with_reducible repeat' first
    | assumption | apply State.sendToken_keeps | refine Keeps.foldl _ (fun _ _ _ => ?_) ?_ | simp only [Keeps.upd_iff]
    | split

theorem State.tokenRemark_keeps (h : Keeps s t) : Keeps s (State.tokenRemark t) := by
  unfold State.tokenRemark
  with_reducible repeat' first
    | assumption | simp only [Keeps.upd_iff] | split

theorem State.releaseDeferred_keeps (t_ : Nat) (h : Keeps s t) : Keeps s (State.releaseDeferred t t_) := by
  unfold State.releaseDeferred
  with_reducible repeat' first
    | assumption | apply State.pushTick_keeps | simp only [Keeps.upd_iff] | split

theorem State.divTick_keeps (t_ : Nat) (sheet : Bool) (h : Keeps s t) : Keeps s (State.divTick t t_ sheet) := by
  unfold State.divTick
  with_reducible repeat' first
    | assumption | apply State.releaseDeferred_keeps | apply State.pushTick_keeps | apply State.raise_keeps
    | simp only [Keeps.upd_iff] | split

theorem State.rePredict_keeps (h : Keeps s t) : Keeps s (State.rePredict t) := by
  unfold State.rePredict
  with_reducible repeat' first
    | assumption | simp only [Keeps.upd_iff] | split

theorem State.divTpred_keeps (h : Keeps s t) : Keeps s (State.divTpred t) := by
  unfold State.divTpred
  with_reducible repeat' first
    | assumption | apply State.setTpred_keeps | simp only [Keeps.upd_iff] | split

theorem State.runStep_keeps (h : Keeps s t) : Keeps s (State.runStep t) := by
  unfold State.runStep
  with_reducible repeat' first
    | assumption | apply State.put_keeps | simp only [Keeps.upd_iff] | split

theorem State.divDerive_keeps (t_ : Nat) (h : Keeps s t) : Keeps s (State.divDerive t t_) := by
  unfold State.divDerive
  with_reducible repeat' first
    | assumption | apply State.runStep_keeps | apply State.divTick_keeps | simp only [Keeps.upd_iff] | split

theorem State.divLoop_keeps (n a : Nat) (h : Keeps s t) : Keeps s (State.divLoop n t a) := by
  induction n generalizing t with
  | zero => exact h
  | succ n ih =>
    unfold State.divLoop
    split
    · exact ih (State.divDerive_keeps _ h)
    · exact h

theorem State.onCount_keeps (up : Bool) (t_ : Nat) (h : Keeps s t) : Keeps s (State.onCount t up t_) := by
  unfold State.onCount
  with_reducible repeat' first
    | assumption | apply State.divLoop_keeps | apply State.divTpred_keeps | apply State.rePredict_keeps
    | apply State.releaseDeferred_keeps | apply State.raise_keeps | simp only [Keeps.upd_iff] | split

theorem State.predictedTick_keeps (h : Keeps s t) : Keeps s (State.predictedTick t) := by
  unfold State.predictedTick
  with_reducible repeat' first
    | assumption | apply State.divDerive_keeps | apply State.rePredict_keeps | apply State.releaseDeferred_keeps
    | apply State.at_keeps | simp only [Keeps.upd_iff] | split

theorem State.timerTick_keeps (h : Keeps s t) : Keeps s (State.timerTick t) := by
  unfold State.timerTick
  with_reducible repeat' first
    | assumption | apply State.pushTick_keeps | apply State.setTpred_keeps | apply State.at_keeps | simp only [Keeps.upd_iff]
    | split

theorem State.trigRunTick_keeps (h : Keeps s t) : Keeps s (State.trigRunTick t) := by
  unfold State.trigRunTick
  with_reducible repeat' first
    | assumption | apply State.predictedTick_keeps | apply State.runStep_keeps | apply State.pushTick_keeps
    | apply State.setTpred_keeps | apply State.at_keeps | simp only [Keeps.upd_iff] | split

theorem State.tickTrigger_keeps (i kind t_ : Nat) (h : Keeps s t) : Keeps s (State.tickTrigger t i kind t_) := by
  unfold State.tickTrigger
  with_reducible repeat' first
    | assumption | apply State.put_keeps | apply State.raise_keeps | simp only [Keeps.upd_iff] | split

theorem State.areaTrigger_keeps (i kind t_ : Nat) (h : Keeps s t) : Keeps s (State.areaTrigger t i kind t_) := by
  unfold State.areaTrigger
  with_reducible repeat' first
    | assumption | apply State.raise_keeps | simp only [Keeps.upd_iff] | split

theorem State.trigAreaTick_keeps (h : Keeps s t) : Keeps s (State.trigAreaTick t) := by
  unfold State.trigAreaTick
  with_reducible repeat' first
    | assumption | apply State.pushTick_keeps | apply State.setTpred_keeps | apply State.at_keeps | simp only [Keeps.upd_iff]
    | split

theorem State.tickHalt_keeps (h : Keeps s t) : Keeps s (State.tickHalt t) := by
  unfold State.tickHalt
  with_reducible repeat' first
    | assumption | apply State.put_keeps | simp only [Keeps.upd_iff] | split

end

theorem execPredictedTick_goes (s : State) : goesOn (execPredictedTick s) (Keeps s) := by
  have h := Keeps.refl s
  unfold execPredictedTick
  with_reducible repeat' first | apply goesOn.next | split
  all_goals
    with_reducible repeat' first
      | assumption | apply State.predictedTick_keeps | simp only [Keeps.upd_iff] | split

theorem execTimerTick_goes (s : State) : goesOn (execTimerTick s) (Keeps s) := by
  have h := Keeps.refl s
  unfold execTimerTick
  with_reducible repeat' first | apply goesOn.next | split
  all_goals
    with_reducible repeat' first
      | assumption | apply State.timerTick_keeps | simp only [Keeps.upd_iff] | split

theorem execTrigRunTick_goes (s : State) : goesOn (execTrigRunTick s) (Keeps s) := by
  have h := Keeps.refl s
  unfold execTrigRunTick
  with_reducible repeat' first | apply goesOn.next | split
  all_goals
    with_reducible repeat' first
      | assumption | apply State.trigRunTick_keeps | simp only [Keeps.upd_iff] | split

theorem execTrigAreaTick_goes (s : State) : goesOn (execTrigAreaTick s) (Keeps s) := by
  have h := Keeps.refl s
  unfold execTrigAreaTick
  with_reducible repeat' first | apply goesOn.next | split
  all_goals
    with_reducible repeat' first
      | assumption | apply State.trigAreaTick_keeps | simp only [Keeps.upd_iff] | split

end Sys2Proof.Machine
end

