-- ==== Sys2Proof/Laws/KeepsTimers.lean ====
section
/-! SUPPORT. What no operation of `Machine/Timers.lean` does (`Keeps`), one lemma per operation, and that each command goes on. -/
namespace Sys2Proof.Machine
set_option linter.unusedVariables false
set_option linter.unusedSimpArgs false

section
variable {s t : State}

theorem State.compareMet_keeps (k : Nat) (h : Keeps s t) : Keeps s (State.compareMet t k) := by
  unfold State.compareMet
  with_reducible repeat' first
    | assumption | refine Keeps.foldl _ (fun _ _ _ => ?_) ?_ | simp only [Keeps.upd_iff] | split

theorem State.setCap_keeps (j v : Nat) (h : Keeps s t) : Keeps s (State.setCap t j v) := by
  unfold State.setCap
  with_reducible repeat' first
    | assumption | apply State.put_keeps | simp only [Keeps.upd_iff] | split

theorem State.recapture_keeps (k : Nat) (up : Bool) (h : Keeps s t) : Keeps s (State.recapture t k up) := by
  unfold State.recapture
  with_reducible repeat' first
    | assumption | apply State.setCap_keeps | refine Keeps.foldl _ (fun _ _ _ => ?_) ?_ | simp only [Keeps.upd_iff] | split

theorem State.countOne_keeps (k : Nat) (up : Bool) (h : Keeps s t) : Keeps s (State.countOne t k up) := by
  unfold State.countOne
  with_reducible repeat' first
    | assumption | apply State.put_keeps | simp only [Keeps.upd_iff] | split

theorem State.countStep_keeps (k : Nat) (up : Bool) (t_ : Nat) (h : Keeps s t) : Keeps s (State.countStep t k up t_) := by
  unfold State.countStep
  with_reducible repeat' first
    | assumption | apply State.countOne_keeps | apply State.recapture_keeps | apply State.compareMet_keeps
    | apply State.onCount_keeps | simp only [Keeps.upd_iff] | split

theorem State.countAll_keeps (sel : State → Nat → Option Bool) (t_ : Nat) (h : Keeps s t) : Keeps s (State.countAll t sel t_) := by
  unfold State.countAll
  with_reducible repeat' first
    | assumption | apply State.countStep_keeps | refine Keeps.foldl _ (fun _ _ _ => ?_) ?_ | simp only [Keeps.upd_iff]
    | split

theorem State.clearCnt_keeps (k t_ : Nat) (h : Keeps s t) : Keeps s (State.clearCnt t k t_) := by
  unfold State.clearCnt
  with_reducible repeat' first
    | assumption | apply State.put_keeps | simp only [Keeps.upd_iff] | split

theorem State.clearAll_keeps (sel : State → Nat → Bool) (t_ : Nat) (h : Keeps s t) : Keeps s (State.clearAll t sel t_) := by
  unfold State.clearAll
  with_reducible repeat' first
    | assumption | apply State.clearCnt_keeps | refine Keeps.foldl _ (fun _ _ _ => ?_) ?_ | simp only [Keeps.upd_iff] | split

theorem State.cntLoad_keeps (k v : Nat) (h : Keeps s t) : Keeps s (State.cntLoad t k v) := by
  unfold State.cntLoad
  with_reducible repeat' first
    | assumption | apply State.put_keeps | apply State.raise_keeps | simp only [Keeps.upd_iff] | split

theorem State.timerCount_keeps (k t_ : Nat) (h : Keeps s t) : Keeps s (State.timerCount t k t_) := by
  unfold State.timerCount
  with_reducible repeat' first
    | assumption | apply State.countStep_keeps | apply State.at_keeps | simp only [Keeps.upd_iff] | split

theorem State.capture_keeps (j : Nat) (h : Keeps s t) : Keeps s (State.capture t j) := by
  unfold State.capture
  with_reducible repeat' first
    | assumption | apply State.setCap_keeps | apply State.put_keeps | apply State.bump_keeps | apply State.raise_keeps
    | simp only [Keeps.upd_iff] | split

theorem State.captureAll_keeps (src : Nat) (kind : Option Nat) (h : Keeps s t) : Keeps s (State.captureAll t src kind) := by
  unfold State.captureAll
  with_reducible repeat' first
    | assumption | apply State.capture_keeps | refine Keeps.foldl _ (fun _ _ _ => ?_) ?_ | simp only [Keeps.upd_iff] | split

theorem State.ccArm_keeps (j v : Nat) (h : Keeps s t) : Keeps s (State.ccArm t j v) := by
  unfold State.ccArm
  with_reducible repeat' first
    | assumption | apply State.put_keeps | apply State.raise_keeps | simp only [Keeps.upd_iff] | split

theorem State.syncPulse_keeps (h : Keeps s t) : Keeps s (State.syncPulse t) := by
  unfold State.syncPulse
  with_reducible repeat' first
    | assumption | simp only [Keeps.upd_iff] | split

theorem State.ccFire_keeps (j : Nat) (h : Keeps s t) : Keeps s (State.ccFire t j) := by
  unfold State.ccFire
  with_reducible repeat' first
    | assumption | apply State.syncPulse_keeps | apply State.capture_keeps | apply State.put_keeps | apply State.bump_keeps
    | apply State.raise_keeps | apply State.at_keeps | simp only [Keeps.upd_iff] | split

theorem State.filtSet_keeps (i t_ : Nat) (h : Keeps s t) : Keeps s (State.filtSet t i t_) := by
  unfold State.filtSet
  with_reducible repeat' first
    | assumption | simp only [Keeps.upd_iff] | split

theorem State.encSample_keeps (a1 b1 : Bool) (t_ : Nat) (h : Keeps s t) : Keeps s (State.encSample t a1 b1 t_) := by
  unfold State.encSample
  with_reducible repeat' first
    | assumption | apply State.countAll_keeps | apply State.put_keeps | apply State.raise_keeps | simp only [Keeps.upd_iff]
    | split

theorem State.encEdge_keeps (a b : Bool) (t_ : Nat) (h : Keeps s t) : Keeps s (State.encEdge t a b t_) := by
  unfold State.encEdge
  with_reducible repeat' first
    | assumption | apply State.encSample_keeps | apply State.filtSet_keeps | apply State.at_keeps | simp only [Keeps.upd_iff]
    | split

theorem State.zSample_keeps (level : Bool) (t_ : Nat) (h : Keeps s t) : Keeps s (State.zSample t level t_) := by
  unfold State.zSample
  with_reducible repeat' first
    | assumption | apply State.captureAll_keeps | apply State.clearAll_keeps | apply State.put_keeps
    | simp only [Keeps.upd_iff] | split

theorem State.zEdge_keeps (level : Bool) (t_ : Nat) (h : Keeps s t) : Keeps s (State.zEdge t level t_) := by
  unfold State.zEdge
  with_reducible repeat' first
    | assumption | apply State.zSample_keeps | apply State.filtSet_keeps | apply State.at_keeps | simp only [Keeps.upd_iff]
    | split

theorem State.encFaultEnd_keeps (ins t_ : Nat) (h : Keeps s t) : Keeps s (State.encFaultEnd t ins t_) := by
  unfold State.encFaultEnd
  with_reducible repeat' first
    | assumption | apply State.filtSet_keeps | apply State.put_keeps | refine Keeps.foldl _ (fun _ _ _ => ?_) ?_
    | simp only [Keeps.upd_iff] | split

theorem State.encAfterFault_keeps (ins levels t_ : Nat) (h : Keeps s t) : Keeps s (State.encAfterFault t ins levels t_) := by
  unfold State.encAfterFault
  with_reducible repeat' first
    | assumption | apply State.encSample_keeps | apply State.filtSet_keeps | apply State.at_keeps | simp only [Keeps.upd_iff]
    | split

theorem State.zAfterFault_keeps (ins levels t_ : Nat) (h : Keeps s t) : Keeps s (State.zAfterFault t ins levels t_) := by
  unfold State.zAfterFault
  with_reducible repeat' first
    | assumption | apply State.zSample_keeps | apply State.filtSet_keeps | apply State.at_keeps | simp only [Keeps.upd_iff]
    | split

theorem State.encFaultClear_keeps (ins levels t_ : Nat) (h : Keeps s t) : Keeps s (State.encFaultClear t ins levels t_) := by
  unfold State.encFaultClear
  with_reducible repeat' first
    | assumption | apply State.zAfterFault_keeps | apply State.encAfterFault_keeps | apply State.encFaultEnd_keeps
    | apply State.at_keeps | refine Keeps.foldl _ (fun _ _ _ => ?_) ?_ | simp only [Keeps.upd_iff] | split

theorem State.markEdge_keeps (i kind t_ : Nat) (h : Keeps s t) : Keeps s (State.markEdge t i kind t_) := by
  unfold State.markEdge
  with_reducible repeat' first
    | assumption | apply State.tokenRemark_keeps | simp only [Keeps.upd_iff] | split

theorem State.trigEdge_keeps (i : Nat) (energised : Bool) (t_ : Nat) (h : Keeps s t) : Keeps s (State.trigEdge t i energised t_)
    := by
  unfold State.trigEdge
  with_reducible repeat' first
    | assumption | apply State.markEdge_keeps | apply State.filtSet_keeps | apply State.captureAll_keeps
    | apply State.clearAll_keeps | apply State.countAll_keeps | apply State.areaTrigger_keeps | apply State.tickTrigger_keeps
    | apply State.put_keeps | apply State.at_keeps | simp only [Keeps.upd_iff] | split

theorem State.tickCounters_keeps (exposed : Bool) (t_ : Nat) (h : Keeps s t) : Keeps s (State.tickCounters t exposed t_) := by
  unfold State.tickCounters
  with_reducible repeat' first
    | assumption | apply State.captureAll_keeps | apply State.clearAll_keeps | apply State.countAll_keeps
    | simp only [Keeps.upd_iff] | split

theorem State.snapshot_keeps (h : Keeps s t) : Keeps s (State.snapshot t) := by
  unfold State.snapshot
  with_reducible repeat' first
    | assumption | apply State.put_keeps | apply State.put64_keeps | refine Keeps.foldl _ (fun _ _ _ => ?_) ?_
    | simp only [Keeps.upd_iff] | split

theorem State.slackEnter_keeps (m : Nat) (v : Int) (h : Keeps s t) : Keeps s (State.slackEnter t m v) := by
  unfold State.slackEnter
  with_reducible repeat' first
    | assumption | apply State.monEnter_keeps | simp only [Keeps.upd_iff] | split

theorem State.tickMonClr_keeps (h : Keeps s t) : Keeps s (State.tickMonClr t) := by
  unfold State.tickMonClr
  with_reducible repeat' first
    | assumption | apply State.monClear_keeps | refine Keeps.foldl _ (fun _ _ _ => ?_) ?_ | simp only [Keeps.upd_iff] | split

end

theorem execCntLoad_goes (k : Fin 8) (v : Word) (s : State) : goesOn (execCntLoad k v s) (Keeps s) := by
  have h := Keeps.refl s
  unfold execCntLoad
  with_reducible repeat' first | apply goesOn.next | split
  all_goals
    with_reducible repeat' first
      | assumption | apply State.cntLoad_keeps | simp only [Keeps.upd_iff] | split

theorem execTimerCount_goes (k : Fin 8) (t : Nat) (s : State) : goesOn (execTimerCount k t s) (Keeps s) := by
  have h := Keeps.refl s
  unfold execTimerCount
  with_reducible repeat' first | apply goesOn.next | split
  all_goals
    with_reducible repeat' first
      | assumption | apply State.timerCount_keeps | simp only [Keeps.upd_iff] | split

theorem execSwcap_goes (j : Fin 16) (s : State) : goesOn (execSwcap j s) (Keeps s) := by
  have h := Keeps.refl s
  unfold execSwcap
  with_reducible repeat' first | apply goesOn.next | split
  all_goals
    with_reducible repeat' first
      | assumption | apply State.capture_keeps | apply State.raise_keeps | simp only [Keeps.upd_iff] | split

theorem execCcArm_goes (j : Fin 16) (v : Word) (s : State) : goesOn (execCcArm j v s) (Keeps s) := by
  have h := Keeps.refl s
  unfold execCcArm
  with_reducible repeat' first | apply goesOn.next | split
  all_goals
    with_reducible repeat' first
      | assumption | apply State.ccArm_keeps | simp only [Keeps.upd_iff] | split

theorem execCcFire_goes (j : Fin 16) (s : State) : goesOn (execCcFire j s) (Keeps s) := by
  have h := Keeps.refl s
  unfold execCcFire
  with_reducible repeat' first | apply goesOn.next | split
  all_goals
    with_reducible repeat' first
      | assumption | apply State.ccFire_keeps | simp only [Keeps.upd_iff] | split

theorem execCntClr_goes (j : Fin 16) (s : State) : goesOn (execCntClr j s) (Keeps s) := by
  have h := Keeps.refl s
  unfold execCntClr
  with_reducible repeat' first | apply goesOn.next | split
  all_goals
    with_reducible repeat' first
      | assumption | apply State.put_keeps | apply State.raise_keeps | simp only [Keeps.upd_iff] | split

theorem execSyncOutEnd_goes (s : State) : goesOn (execSyncOutEnd s) (Keeps s) := by
  have h := Keeps.refl s
  unfold execSyncOutEnd
  with_reducible repeat' first | apply goesOn.next | split
  all_goals
    with_reducible repeat' first
      | assumption | apply State.at_keeps | simp only [Keeps.upd_iff] | split

theorem execEncEdge_goes (a b : Bool) (t : Nat) (s : State) : goesOn (execEncEdge a b t s) (Keeps s) := by
  have h := Keeps.refl s
  unfold execEncEdge
  with_reducible repeat' first | apply goesOn.next | split
  all_goals
    with_reducible repeat' first
      | assumption | apply State.encEdge_keeps | simp only [Keeps.upd_iff] | split

theorem execZEdge_goes (level : Bool) (t : Nat) (s : State) : goesOn (execZEdge level t s) (Keeps s) := by
  have h := Keeps.refl s
  unfold execZEdge
  with_reducible repeat' first | apply goesOn.next | split
  all_goals
    with_reducible repeat' first
      | assumption | apply State.zEdge_keeps | simp only [Keeps.upd_iff] | split

theorem execEncFault_goes (i : Fin 3) (t : Nat) (s : State) : goesOn (execEncFault i t s) (Keeps s) := by
  have h := Keeps.refl s
  unfold execEncFault
  with_reducible repeat' first | apply goesOn.next | split
  all_goals
    with_reducible repeat' first
      | assumption | apply State.put_keeps | apply State.raise_keeps | apply State.at_keeps | simp only [Keeps.upd_iff] | split

theorem execEncFaultClear_goes (ins levels : BitVec 3) (t : Nat) (s : State) : goesOn (execEncFaultClear ins levels t s)
    (Keeps s) := by
  have h := Keeps.refl s
  unfold execEncFaultClear
  with_reducible repeat' first | apply goesOn.next | split
  all_goals
    with_reducible repeat' first
      | assumption | apply State.encFaultClear_keeps | simp only [Keeps.upd_iff] | split

theorem execTrigEdge_goes (i : Fin 4) (energised : Bool) (t : Nat) (s : State) : goesOn (execTrigEdge i energised t s) (Keeps s)
    := by
  have h := Keeps.refl s
  unfold execTrigEdge
  with_reducible repeat' first | apply goesOn.next | split
  all_goals
    with_reducible repeat' first
      | assumption | apply State.trigEdge_keeps | simp only [Keeps.upd_iff] | split

theorem execSnapshot_goes (s : State) : goesOn (execSnapshot s) (Keeps s) := by
  have h := Keeps.refl s
  unfold execSnapshot
  with_reducible repeat' first | apply goesOn.next | split
  all_goals
    with_reducible repeat' first
      | assumption | apply State.snapshot_keeps | simp only [Keeps.upd_iff] | split

theorem execTickMonClr_goes (s : State) : goesOn (execTickMonClr s) (Keeps s) := by
  have h := Keeps.refl s
  unfold execTickMonClr
  with_reducible repeat' first | apply goesOn.next | split
  all_goals
    with_reducible repeat' first
      | assumption | apply State.tickMonClr_keeps | simp only [Keeps.upd_iff] | split

end Sys2Proof.Machine
end

