-- ==== Sys2Proof/Laws/KeepsShadow.lean ====
section
/-! SUPPORT. What no operation of `Machine/Shadow.lean` does (`Keeps`), one lemma per operation, and that each command goes on. -/
namespace Sys2Proof.Machine
set_option linter.unusedVariables false
set_option linter.unusedSimpArgs false

section
variable {s t : State}

theorem State.writeWord_keeps (a v : Nat) (h : Keeps s t) : Keeps s (State.writeWord t a v) := by
  unfold State.writeWord
  with_reducible repeat' first
    | assumption | apply State.setReg_keeps | simp only [Keeps.upd_iff] | split

theorem State.pageCommit_keeps (page : Nat) (h : Keeps s t) : Keeps s (State.pageCommit t page) := by
  unfold State.pageCommit
  split
  · exact h
  · exact Keeps.tables h rfl rfl rfl id id (fun c => c.2.2.1) (fun c => mapWf_take (commitSet page) c.2.2.2 c.2.1)

theorem State.takeFrozen_keeps (sel : Nat → Bool) (h : Keeps s t) : Keeps s (State.takeFrozen t sel) :=
  Keeps.tables h rfl rfl rfl id id (fun c => mapWf_take sel c.2.2.1 c.2.2.2) (fun c => c.2.2.2)

theorem State.nextWrite_keeps (a v : Nat) (h : Keeps s t) : Keeps s (State.nextWrite t a v) := by
  unfold State.nextWrite
  with_reducible repeat' first
    | assumption | apply State.writeWord_keeps | simp only [Keeps.upd_iff] | split

theorem State.takeNext_keeps (a : Nat) (h : Keeps s t) : Keeps s (State.takeNext t a) := by
  unfold State.takeNext
  with_reducible repeat' first
    | assumption | apply State.setAct_keeps | simp only [Keeps.upd_iff] | split

theorem State.calEnd_keeps (code : Nat) (h : Keeps s t) : Keeps s (State.calEnd t code) := by
  unfold State.calEnd
  with_reducible repeat' first
    | assumption | apply State.put_keeps | apply State.raise_keeps | simp only [Keeps.upd_iff] | split

theorem State.calAbort_keeps (h : Keeps s t) : Keeps s (State.calAbort t) := by
  unfold State.calAbort
  with_reducible repeat' first
    | assumption | apply State.calEnd_keeps | simp only [Keeps.upd_iff] | split

theorem State.tickSrcWrite_keeps (v : Nat) (h : Keeps s t) : Keeps s (State.tickSrcWrite t v) := by
  unfold State.tickSrcWrite
  with_reducible repeat' first
    | assumption | apply State.calAbort_keeps | apply State.nextWrite_keeps | apply State.raise_keeps
    | simp only [Keeps.upd_iff] | split

theorem State.expModeWrite_keeps (v : Nat) (h : Keeps s t) : Keeps s (State.expModeWrite t v) := by
  unfold State.expModeWrite
  with_reducible repeat' first
    | assumption | apply State.calAbort_keeps | apply State.nextWrite_keeps | apply State.raise_keeps
    | simp only [Keeps.upd_iff] | split

theorem State.webDirWrite_keeps (v : Nat) (h : Keeps s t) : Keeps s (State.webDirWrite t v) := by
  unfold State.webDirWrite
  with_reducible repeat' first
    | assumption | apply State.nextWrite_keeps | apply State.raise_keeps | simp only [Keeps.upd_iff] | split

end

theorem execPageCommit_goes (page : Nat) (s : State) : goesOn (execPageCommit page s) (Keeps s) := by
  have h := Keeps.refl s
  unfold execPageCommit
  with_reducible repeat' first | apply goesOn.next | split
  all_goals
    with_reducible repeat' first
      | assumption | apply State.pageCommit_keeps | simp only [Keeps.upd_iff] | split

theorem execTickSrcWrite_goes (v : Word) (s : State) : goesOn (execTickSrcWrite v s) (Keeps s) := by
  have h := Keeps.refl s
  unfold execTickSrcWrite
  with_reducible repeat' first | apply goesOn.next | split
  all_goals
    with_reducible repeat' first
      | assumption | apply State.tickSrcWrite_keeps | simp only [Keeps.upd_iff] | split

theorem execExpModeWrite_goes (v : Word) (s : State) : goesOn (execExpModeWrite v s) (Keeps s) := by
  have h := Keeps.refl s
  unfold execExpModeWrite
  with_reducible repeat' first | apply goesOn.next | split
  all_goals
    with_reducible repeat' first
      | assumption | apply State.expModeWrite_keeps | simp only [Keeps.upd_iff] | split

theorem execWebDirWrite_goes (v : Word) (s : State) : goesOn (execWebDirWrite v s) (Keeps s) := by
  have h := Keeps.refl s
  unfold execWebDirWrite
  with_reducible repeat' first | apply goesOn.next | split
  all_goals
    with_reducible repeat' first
      | assumption | apply State.webDirWrite_keeps | simp only [Keeps.upd_iff] | split

end Sys2Proof.Machine
end

