-- ==== Sys2Proof/Laws/KeepsLampUse.lean ====
section
/-! SUPPORT. What no operation of `Machine/LampUse.lean` does (`Keeps`), one lemma per operation. -/
namespace Sys2Proof.Machine
set_option linter.unusedVariables false
set_option linter.unusedSimpArgs false

section
variable {s t : State}

theorem State.setLamp_keeps (l : Lamp) (h : Keeps s t) : Keeps s (State.setLamp t l) := by
  unfold State.setLamp
  with_reducible repeat' first
    | assumption | simp only [Keeps.upd_iff] | split

theorem State.putIdent_keeps (i : Nat) (data : List Nat) (h : Keeps s t) : Keeps s (State.putIdent t i data) := by
  unfold State.putIdent
  with_reducible repeat' first
    | assumption | apply State.put_keeps | refine Keeps.foldl _ (fun _ _ _ => ?_) ?_ | simp only [Keeps.upd_iff] | split

theorem State.lampShow_keeps (h : Keeps s t) : Keeps s (State.lampShow t) := by
  unfold State.lampShow
  with_reducible repeat' first
    | assumption | apply State.put64_keeps | refine Keeps.foldl _ (fun _ _ _ => ?_) ?_ | simp only [Keeps.upd_iff] | split

theorem State.lampAccrue_keeps (k width : Nat) (h : Keeps s t) : Keeps s (State.lampAccrue t k width) := by
  unfold State.lampAccrue
  with_reducible repeat' first
    | assumption | apply State.setLamp_keeps | apply State.put64_keeps | simp only [Keeps.upd_iff] | split

end
end Sys2Proof.Machine
end

