-- ==== Sys2Proof/Laws/KeepsExposure.lean ====
section
/-! SUPPORT. What no operation of `Machine/Exposure.lean` does (`Keeps`), one lemma per operation, and that each command goes on.
    -/
namespace Sys2Proof.Machine
set_option linter.unusedVariables false
set_option linter.unusedSimpArgs false

section
variable {s t : State}

theorem State.slackGive_keeps (r : SlackRec) (h : Keeps s t) : Keeps s (State.slackGive t r).1 := by
  unfold State.slackGive
  with_reducible repeat' first
    | assumption | apply State.slackEnter_keeps | simp only [Keeps.upd_iff] | split

theorem State.slackGive_out {r : SlackRec} {u : State} {out : SlackRec} (e : State.slackGive t r = (u, out)) (h : Keeps s t) :
    Keeps s u := by
  have k := State.slackGive_keeps r h
  rwa [e] at k

theorem State.slackWith_keeps (n : Nat) (f : SlackRec → SlackRec) (h : Keeps s t) : Keeps s (State.slackWith t n f) := by
  unfold State.slackWith
  with_reducible repeat' first
    | assumption | refine State.slackGive_out ‹_› ?_ | refine Keeps.foldl _ (fun _ _ _ => ?_) ?_
    | refine Keeps.foldlFst _ (fun _ _ _ => ?_) ?_ | apply State.slackGive_keeps | simp only [Keeps.upd_iff] | split

theorem State.slackEdge_keeps (e : Nat) (h : Keeps s t) : Keeps s (State.slackEdge t e) := by
  unfold State.slackEdge
  with_reducible repeat' first
    | assumption | apply State.slackWith_keeps | refine Keeps.foldl _ (fun _ _ _ => ?_) ?_ | simp only [Keeps.upd_iff]
    | split

theorem State.setSlotRun_keeps (k : Nat) (f : SlotRun → SlotRun) (h : Keeps s t) : Keeps s (State.setSlotRun t k f) := by
  unfold State.setSlotRun
  with_reducible repeat' first
    | assumption | simp only [Keeps.upd_iff] | split

theorem State.strobeLevels_keeps (rise fall : Nat → Nat) (h : Keeps s t) : Keeps s (State.strobeLevels t rise fall) := by
  unfold State.strobeLevels
  with_reducible repeat' first
    | assumption | apply State.lampAccrue_keeps | refine Keeps.foldl _ (fun _ _ _ => ?_) ?_ | simp only [Keeps.upd_iff]
    | split

theorem State.strobeEnd_keeps (k t_ : Nat) (h : Keeps s t) : Keeps s (State.strobeEnd t k t_) := by
  unfold State.strobeEnd
  with_reducible repeat' first
    | assumption | apply State.strobeLevels_keeps | apply State.setSlotRun_keeps | simp only [Keeps.upd_iff] | split

theorem State.strobeOn_keeps (k : Nat) (h : Keeps s t) : Keeps s (State.strobeOn t k) := by
  unfold State.strobeOn
  with_reducible repeat' first
    | assumption | apply State.strobeLevels_keeps | apply State.setSlotRun_keeps | apply State.raise_keeps
    | apply State.at_keeps | refine Keeps.foldl _ (fun _ _ _ => ?_) ?_ | simp only [Keeps.upd_iff] | split

theorem State.strobeOff_keeps (k : Nat) (h : Keeps s t) : Keeps s (State.strobeOff t k) := by
  unfold State.strobeOff
  with_reducible repeat' first
    | assumption | apply State.strobeEnd_keeps | apply State.at_keeps | refine Keeps.foldl _ (fun _ _ _ => ?_) ?_
    | simp only [Keeps.upd_iff] | split

theorem xferStep_keeps (n : Nat) (xs ys : List Xfer) (h : Keeps s t) : Keeps s (xferStep t n xs ys).1 := by
  induction ys generalizing t xs with
  | nil => exact h
  | cons y ys ih =>
    unfold xferStep
    repeat' first | exact ih _ h | exact ih _ (State.raise_keeps _ h) | split

theorem xferStep_out {n : Nat} {xs ys zs : List Xfer} {u : State} (e : xferStep t n xs ys = (u, zs)) (h : Keeps s t) : Keeps s u
    := by
  have k := xferStep_keeps n xs ys h
  rwa [e] at k

theorem State.xferAdvance_keeps (t_ : Nat) (h : Keeps s t) : Keeps s (State.xferAdvance t t_) := by
  unfold State.xferAdvance
  with_reducible repeat' first
    | assumption | refine xferStep_out ‹_› ?_ | apply xferStep_keeps | simp only [Keeps.upd_iff] | split

theorem State.xferPush_keeps (r : SlotRun) (dark : Bool) (h : Keeps s t) : Keeps s (State.xferPush t r dark) := by
  unfold State.xferPush
  with_reducible repeat' first
    | assumption | simp only [Keeps.upd_iff] | split

theorem State.transferDone_keeps (k : Nat) (h : Keeps s t) : Keeps s (State.transferDone t k) := by
  unfold State.transferDone
  with_reducible repeat' first
    | assumption | apply State.xferAdvance_keeps | apply State.slackWith_keeps | apply State.put_keeps | apply State.at_keeps
    | refine Keeps.foldl _ (fun _ _ _ => ?_) ?_ | simp only [Keeps.upd_iff] | split

theorem State.heldRelease_keeps (k : Nat) (h : Keeps s t) : Keeps s (State.heldRelease t k) := by
  unfold State.heldRelease
  with_reducible repeat' first
    | assumption | apply State.xferAdvance_keeps | simp only [Keeps.upd_iff] | split

theorem State.slotFire_keeps (k : Nat) (h : Keeps s t) : Keeps s (State.slotFire t k) := by
  unfold State.slotFire
  with_reducible repeat' first
    | assumption | apply State.put_keeps | apply State.bump_keeps | simp only [Keeps.upd_iff] | split

theorem State.slotArm_keeps (k count : Nat) (h : Keeps s t) : Keeps s (State.slotArm t k count) := by
  unfold State.slotArm
  with_reducible repeat' first
    | assumption | apply State.put_keeps | simp only [Keeps.upd_iff] | split

theorem State.slotStart_keeps (k : Nat) (h : Keeps s t) : Keeps s (State.slotStart t k) := by
  unfold State.slotStart
  with_reducible repeat' first
    | assumption | apply State.slotArm_keeps | apply State.slotFire_keeps | apply State.setSlotRun_keeps
    | apply State.at_keeps | simp only [Keeps.upd_iff] | split

theorem State.slotEnd_keeps (k : Nat) (h : Keeps s t) : Keeps s (State.slotEnd t k) := by
  unfold State.slotEnd
  with_reducible repeat' first
    | assumption | apply State.slotFire_keeps | apply State.xferPush_keeps | apply State.xferAdvance_keeps
    | apply State.strobeEnd_keeps | apply State.setSlotRun_keeps | apply State.at_keeps | simp only [Keeps.upd_iff] | split

theorem State.cutSlot_keeps (e : Nat) (r : SlotRun) (h : Keeps s t) : Keeps s (State.cutSlot t e r) := by
  unfold State.cutSlot
  with_reducible repeat' first
    | assumption | apply State.xferPush_keeps | apply State.strobeEnd_keeps | apply State.put_keeps | apply State.put64_keeps
    | apply State.raise_keeps | simp only [Keeps.upd_iff] | split

theorem State.cutSlots_keeps (e : Nat) (h : Keeps s t) : Keeps s (State.cutSlots t e) := by
  unfold State.cutSlots
  with_reducible repeat' first
    | assumption | apply State.cutSlot_keeps | apply State.xferAdvance_keeps | refine Keeps.foldl _ (fun _ _ _ => ?_) ?_
    | simp only [Keeps.upd_iff] | split

theorem State.expCounters_keeps (h : Keeps s t) : Keeps s (State.expCounters t) := by
  unfold State.expCounters
  with_reducible repeat' first
    | assumption | apply State.put_keeps | refine Keeps.foldl _ (fun _ _ _ => ?_) ?_ | simp only [Keeps.upd_iff] | split

theorem State.exposeSlots_keeps (rs : List SlotRun) (n e rows : Nat) (h : Keeps s t) : Keeps s (State.exposeSlots t rs n e rows)
    := by
  unfold State.exposeSlots
  with_reducible repeat' first
    | assumption | apply State.slotArm_keeps | refine Keeps.foldl _ (fun _ _ _ => ?_) ?_ | simp only [Keeps.upd_iff] | split

theorem State.slotsEndNow_keeps (h : Keeps s t) : Keeps s (State.slotsEndNow t) := by
  unfold State.slotsEndNow
  with_reducible repeat' first
    | assumption | apply State.xferPush_keeps | apply State.xferAdvance_keeps | apply State.strobeEnd_keeps
    | refine Keeps.foldl _ (fun _ _ _ => ?_) ?_ | simp only [Keeps.upd_iff] | split

theorem State.expHalt_keeps (h : Keeps s t) : Keeps s (State.expHalt t) := by
  unfold State.expHalt
  with_reducible repeat' first
    | assumption | apply State.strobeEnd_keeps | refine Keeps.foldl _ (fun _ _ _ => ?_) ?_ | simp only [Keeps.upd_iff]
    | split

end

theorem execStrobeOn_goes (k : Fin 4) (s : State) : goesOn (execStrobeOn k s) (Keeps s) := by
  have h := Keeps.refl s
  unfold execStrobeOn
  with_reducible repeat' first | apply goesOn.next | split
  all_goals
    with_reducible repeat' first
      | assumption | apply State.strobeOn_keeps | simp only [Keeps.upd_iff] | split

theorem execStrobeOff_goes (k : Fin 4) (s : State) : goesOn (execStrobeOff k s) (Keeps s) := by
  have h := Keeps.refl s
  unfold execStrobeOff
  with_reducible repeat' first | apply goesOn.next | split
  all_goals
    with_reducible repeat' first
      | assumption | apply State.strobeOff_keeps | simp only [Keeps.upd_iff] | split

theorem execTransferDone_goes (k : Fin 4) (s : State) : goesOn (execTransferDone k s) (Keeps s) := by
  have h := Keeps.refl s
  unfold execTransferDone
  with_reducible repeat' first | apply goesOn.next | split
  all_goals
    with_reducible repeat' first
      | assumption | apply State.transferDone_keeps | simp only [Keeps.upd_iff] | split

theorem execHeldTransferRelease_goes (k : Fin 4) (s : State) : goesOn (execHeldTransferRelease k s) (Keeps s) := by
  have h := Keeps.refl s
  unfold execHeldTransferRelease
  with_reducible repeat' first | apply goesOn.next | split
  all_goals
    with_reducible repeat' first
      | assumption | apply State.heldRelease_keeps | simp only [Keeps.upd_iff] | split

theorem execSlotStart_goes (k : Fin 4) (s : State) : goesOn (execSlotStart k s) (Keeps s) := by
  have h := Keeps.refl s
  unfold execSlotStart
  with_reducible repeat' first | apply goesOn.next | split
  all_goals
    with_reducible repeat' first
      | assumption | apply State.slotStart_keeps | simp only [Keeps.upd_iff] | split

theorem execSlotEnd_goes (k : Fin 4) (s : State) : goesOn (execSlotEnd k s) (Keeps s) := by
  have h := Keeps.refl s
  unfold execSlotEnd
  with_reducible repeat' first | apply goesOn.next | split
  all_goals
    with_reducible repeat' first
      | assumption | apply State.slotEnd_keeps | simp only [Keeps.upd_iff] | split

end Sys2Proof.Machine
end

