-- ==== Sys2Proof/Laws/KeepsStats.lean ====
section
/-! SUPPORT. What no operation of `Machine/Stats.lean` does (`Keeps`), one lemma per operation. -/
namespace Sys2Proof.Machine
set_option linter.unusedVariables false
set_option linter.unusedSimpArgs false

section
variable {s t : State}

theorem State.histLimit_keeps (ps : List Patch) (h : Keeps s t) : Keeps s (State.histLimit t ps) := by
  unfold State.histLimit
  with_reducible repeat' first
    | assumption | apply State.raise_keeps | simp only [Keeps.upd_iff] | split

theorem State.statWrite_keeps (ps : List Patch) (bs : List Nat) (h : Keeps s t) : Keeps s (State.statWrite t ps bs) := by
  unfold State.statWrite
  with_reducible repeat' first
    | assumption | apply State.histLimit_keeps | apply State.ringOverflow_keeps | refine State.ringPut_out ‹_› ?_
    | apply State.bump_keeps | apply State.raise_keeps | simp only [Keeps.upd_iff] | split

theorem State.repWrite_keeps (r : RepAcc) (len : Nat) (h : Keeps s t) : Keeps s (State.repWrite t r len) := by
  unfold State.repWrite
  with_reducible repeat' first
    | assumption | apply State.statWrite_keeps | apply State.histLimit_keeps | apply State.ringOverflow_keeps
    | apply State.ringDrop_keeps | refine State.ringPut_out ‹_› ?_ | simp only [Keeps.upd_iff] | split

theorem State.repsDone_keeps (h : Keeps s t) : Keeps s (State.repsDone t) := by
  unfold State.repsDone
  with_reducible repeat' first
    | assumption | apply State.repWrite_keeps | refine Keeps.foldl _ (fun _ _ _ => ?_) ?_ | simp only [Keeps.upd_iff] | split

end
end Sys2Proof.Machine
end

