-- ==== Sys2Proof/Laws/KeepsStop.lean ====
section
/-! SUPPORT. What no operation of `Machine/Stop.lean` does (`Keeps`), one lemma per operation. -/
namespace Sys2Proof.Machine
set_option linter.unusedVariables false
set_option linter.unusedSimpArgs false

section
variable {s t : State}

theorem State.setEngine_keeps (sh : Nat) (e : Engine) (h : Keeps s t) : Keeps s (State.setEngine t sh e) := by
  unfold State.setEngine
  with_reducible repeat' first
    | assumption | simp only [Keeps.upd_iff] | split

theorem State.shShow_keeps (sh : Nat) (h : Keeps s t) : Keeps s (State.shShow t sh) := by
  unfold State.shShow
  with_reducible repeat' first
    | assumption | apply State.put_keeps | simp only [Keeps.upd_iff] | split

theorem State.linesDrop_keeps (h : Keeps s t) : Keeps s (State.linesDrop t) := by
  unfold State.linesDrop
  with_reducible repeat' first
    | assumption | apply State.shShow_keeps | apply State.repsDone_keeps | apply State.put_keeps
    | refine Keeps.foldl _ (fun _ _ _ => ?_) ?_ | simp only [Keeps.upd_iff] | split

theorem State.repClose_keeps (T : Nat) (cut : Bool) (h : Keeps s t) : Keeps s (State.repClose t T cut) := by
  unfold State.repClose
  with_reducible repeat' first
    | assumption | simp only [Keeps.upd_iff] | split

theorem State.disarm_keeps (h : Keeps s t) : Keeps s (State.disarm t) := by
  unfold State.disarm
  with_reducible repeat' first
    | assumption | apply State.usedShow_keeps | apply State.put_keeps | apply State.raise_keeps | simp only [Keeps.upd_iff]
    | split

theorem State.jobEndAt_keeps (T : Nat) (h : Keeps s t) : Keeps s (State.jobEndAt t T) := by
  unfold State.jobEndAt
  with_reducible repeat' first
    | assumption | apply State.disarm_keeps | apply State.repClose_keeps | apply State.busyShow_keeps
    | apply State.capActShow_keeps | apply State.usedShow_keeps | apply State.put_keeps | simp only [Keeps.upd_iff] | split

theorem State.jobEndNow_keeps (h : Keeps s t) : Keeps s (State.jobEndNow t) := by
  unfold State.jobEndNow
  with_reducible repeat' first
    | assumption | apply State.jobEndAt_keeps | simp only [Keeps.upd_iff] | split

theorem State.setCtx_keeps (m : Nat) (x : MemCtx) (h : Keeps s t) : Keeps s (State.setCtx t m x) := by
  unfold State.setCtx
  with_reducible repeat' first
    | assumption | simp only [Keeps.upd_iff] | split

theorem State.ctxShow_keeps (m : Nat) (h : Keeps s t) : Keeps s (State.ctxShow t m) := by
  unfold State.ctxShow
  with_reducible repeat' first
    | assumption | apply State.put_keeps | simp only [Keeps.upd_iff] | split

theorem State.ctxDrop_keeps (m n : Nat) (h : Keeps s t) : Keeps s (State.ctxDrop t m n) := by
  unfold State.ctxDrop
  with_reducible repeat' first
    | assumption | apply State.setCtx_keeps | apply State.bumpBy_keeps | apply State.raiseBy_keeps
    | simp only [Keeps.upd_iff] | split

theorem State.ctxDiscard_keeps (m : Nat) (h : Keeps s t) : Keeps s (State.ctxDiscard t m) := by
  unfold State.ctxDiscard
  with_reducible repeat' first
    | assumption | apply State.ctxDrop_keeps | apply State.ctxShow_keeps | apply State.setCtx_keeps
    | simp only [Keeps.upd_iff] | split

theorem State.satDiscard_keeps (h : Keeps s t) : Keeps s (State.satDiscard t) := by
  unfold State.satDiscard
  with_reducible repeat' first
    | assumption | apply State.ctxDiscard_keeps | refine Keeps.foldl _ (fun _ _ _ => ?_) ?_ | simp only [Keeps.upd_iff]
    | split

theorem State.sensorStop_keeps (h : Keeps s t) : Keeps s (State.sensorStop t) := by
  unfold State.sensorStop
  with_reducible repeat' first
    | assumption | apply State.linesDrop_keeps | apply State.expHalt_keeps | apply State.tickHalt_keeps
    | simp only [Keeps.upd_iff] | split

end
end Sys2Proof.Machine
end

