-- ==== Sys2Proof/Laws/KeepsThermal.lean ====
section
/-! SUPPORT. What no operation of `Machine/Thermal.lean` does (`Keeps`), one lemma per operation, and that each command goes on. -/
namespace Sys2Proof.Machine
set_option linter.unusedVariables false
set_option linter.unusedSimpArgs false

section
variable {s t : State}

theorem State.ddrTemp_keeps (m : Int) (h : Keeps s t) : Keeps s (State.ddrTemp t m) := by
  unfold State.ddrTemp
  with_reducible repeat' first
    | assumption | apply State.put_keeps | apply State.raise_keeps | simp only [Keeps.upd_iff] | split

theorem State.thermEvent_keeps (cause site : Nat) (h : Keeps s t) : Keeps s (State.thermEvent t cause site) := by
  unfold State.thermEvent
  with_reducible repeat' first
    | assumption | apply State.event_keeps | simp only [Keeps.upd_iff] | split

theorem State.setTherm_keeps (v : Nat) (h : Keeps s t) : Keeps s (State.setTherm t v) := by
  unfold State.setTherm
  with_reducible repeat' first
    | assumption | apply State.put_keeps | apply State.settleFrom_keeps | simp only [Keeps.upd_iff] | split

theorem State.setCause_keeps (c : Nat × Nat) (h : Keeps s t) : Keeps s (State.setCause t c) := by
  unfold State.setCause
  with_reducible repeat' first
    | assumption | apply State.put_keeps | simp only [Keeps.upd_iff] | split

theorem State.thermCalm_keeps (h : Keeps s t) : Keeps s (State.thermCalm t) := by
  unfold State.thermCalm
  with_reducible repeat' first
    | assumption | apply State.setTherm_keeps | apply State.thermEvent_keeps | apply State.raise_keeps
    | simp only [Keeps.upd_iff] | split

theorem State.thermRequest_keeps (c : Nat × Nat) (h : Keeps s t) : Keeps s (State.thermRequest t c) := by
  unfold State.thermRequest
  with_reducible repeat' first
    | assumption | apply State.setCause_keeps | apply State.setTherm_keeps | apply State.thermEvent_keeps
    | apply State.raise_keeps | simp only [Keeps.upd_iff] | split

theorem State.capTherm_keeps (h : Keeps s t) : Keeps s (State.capTherm t) := by
  unfold State.capTherm
  with_reducible repeat' first
    | assumption | apply State.put_keeps | simp only [Keeps.upd_iff] | split

theorem State.enforceStage_keeps (c : Nat × Nat) (h : Keeps s t) : Keeps s (State.enforceStage t c) := by
  unfold State.enforceStage
  with_reducible repeat' first
    | assumption | apply State.capTherm_keeps | apply State.thermEvent_keeps | apply State.put_keeps
    | apply State.raise_keeps | simp only [Keeps.upd_iff] | split

theorem State.graceExpire_keeps (h : Keeps s t) : Keeps s (State.graceExpire t) := by
  unfold State.graceExpire
  with_reducible repeat' first
    | assumption | apply State.enforceStage_keeps | apply State.setTherm_keeps | apply State.at_keeps
    | simp only [Keeps.upd_iff] | split

theorem State.thermalRelease_keeps (h : Keeps s t) : Keeps s (State.thermalRelease t) := by
  unfold State.thermalRelease
  with_reducible repeat' first
    | assumption | apply State.capTherm_keeps | apply State.thermCalm_keeps | apply State.thermEvent_keeps
    | apply State.put_keeps | apply State.raise_keeps | apply State.at_keeps | simp only [Keeps.upd_iff] | split

theorem State.toStandby_keeps (h : Keeps s t) : Keeps s (State.toStandby t) := by
  unfold State.toStandby
  with_reducible repeat' first
    | assumption | apply State.satDiscard_keeps | apply State.domsOffBut_keeps | apply State.calDiscard_keeps
    | apply State.ddrRest_keeps | apply State.accrue_keeps | apply State.setPower_keeps | simp only [Keeps.upd_iff] | split

theorem State.eventFirst_keeps (h : Keeps s t) : Keeps s (State.eventFirst t) := by
  unfold State.eventFirst
  with_reducible repeat' first
    | assumption | apply State.setPort_keeps | simp only [Keeps.upd_iff] | split

theorem State.shutdownNow_keeps (site : Nat) (h : Keeps s t) : Keeps s (State.shutdownNow t site) := by
  unfold State.shutdownNow
  with_reducible repeat' first
    | assumption | apply State.eventFirst_keeps | apply State.toStandby_keeps | apply State.thermEvent_keeps
    | apply State.sensorStop_keeps | apply State.satDiscard_keeps | apply State.jobEndNow_keeps | apply State.calAbort_keeps
    | apply State.nvsCut_keeps | apply State.domsOff_keeps | apply State.jEvent_keeps | simp only [Keeps.upd_iff] | split

theorem State.shutdownRecord_keeps (site : Nat) (h : Keeps s t) : Keeps s (State.shutdownRecord t site) := by
  unfold State.shutdownRecord
  with_reducible repeat' first
    | assumption | apply State.thermEvent_keeps | apply State.jEvent_keeps | simp only [Keeps.upd_iff] | split

theorem State.thermShutdown_keeps (site : Nat) (h : Keeps s t) : Keeps s (State.thermShutdown t site) := by
  unfold State.thermShutdown
  extract_lets s1
  have h1 : Keeps s s1 := State.raise_keeps _ (State.setCause_keeps _ (State.setTherm_keeps _ h))
  clear_value s1
  with_reducible repeat' first
    | assumption | apply State.shutdownRecord_keeps | apply State.shutdownNow_keeps | dsimp only | simp only [Keeps.upd_iff] |
    split

theorem State.ilimShow_keeps (h : Keeps s t) : Keeps s (State.ilimShow t) := by
  unfold State.ilimShow
  with_reducible repeat' first
    | assumption | apply State.put_keeps | simp only [Keeps.upd_iff] | split

theorem State.mahAdd_keeps (q : Int) (h : Keeps s t) : Keeps s (State.mahAdd t q) := by
  unfold State.mahAdd
  with_reducible repeat' first
    | assumption | apply State.put_keeps | simp only [Keeps.upd_iff] | split

theorem State.packCount_keeps (h : Keeps s t) : Keeps s (State.packCount t) := by
  unfold State.packCount
  with_reducible repeat' first
    | assumption | apply State.mahAdd_keeps | simp only [Keeps.upd_iff] | split

theorem State.packSetI_keeps (i : Int) (h : Keeps s t) : Keeps s (State.packSetI t i) := by
  unfold State.packSetI
  with_reducible repeat' first
    | assumption | apply State.packCount_keeps | apply State.put_keeps | simp only [Keeps.upd_iff] | split

theorem State.foldShow_keeps (h : Keeps s t) : Keeps s (State.foldShow t) := by
  unfold State.foldShow
  with_reducible repeat' first
    | assumption | apply State.packSetI_keeps | apply State.put_keeps | simp only [Keeps.upd_iff] | split

theorem State.pwrShow_keeps (h : Keeps s t) : Keeps s (State.pwrShow t) := by
  unfold State.pwrShow
  with_reducible repeat' first
    | assumption | apply State.foldShow_keeps | apply State.ilimShow_keeps | apply State.domsOff_keeps
    | apply State.put_keeps | simp only [Keeps.upd_iff] | split

theorem State.storeSite_keeps (past : Option (List Int)) (i : Nat) (n : SiteNew) (h : Keeps s t) : Keeps s
    (State.storeSite t past i n) := by
  unfold State.storeSite
  with_reducible repeat' first
    | assumption | apply State.put_keeps | simp only [Keeps.upd_iff] | split

theorem State.thermState_keeps (h : Keeps s t) : Keeps s (State.thermState t) := by
  unfold State.thermState
  with_reducible repeat' first
    | assumption | apply State.graceExpire_keeps | apply State.enforceStage_keeps | apply State.thermRequest_keeps
    | apply State.thermCalm_keeps | simp only [Keeps.upd_iff] | split

theorem State.tempMon_keeps (h : Keeps s t) : Keeps s (State.tempMon t) := by
  unfold State.tempMon
  with_reducible repeat' first
    | assumption | apply State.monEnter_keeps | refine Keeps.foldl _ (fun _ _ _ => ?_) ?_ | simp only [Keeps.upd_iff] | split

theorem State.sitesRead_keeps (raw : List Int) (h : Keeps s t) : Keeps s (State.sitesRead t raw) := by
  unfold State.sitesRead
  with_reducible repeat' first
    | assumption | apply State.storeSite_keeps | refine Keeps.foldl _ (fun _ _ _ => ?_) ?_ | simp only [Keeps.upd_iff]
    | split

theorem State.sitesShow_keeps (h : Keeps s t) : Keeps s (State.sitesShow t) := by
  unfold State.sitesShow
  with_reducible repeat' first
    | assumption | apply State.pwrShow_keeps | apply State.ddrTemp_keeps | apply State.put_keeps | simp only [Keeps.upd_iff]
    | split

theorem State.thermAct_keeps (h : Keeps s t) : Keeps s (State.thermAct t) := by
  unfold State.thermAct
  with_reducible repeat' first
    | assumption | apply State.thermState_keeps | apply State.thermShutdown_keeps | apply State.domOff_keeps
    | apply State.memForget_keeps | apply State.put_keeps | simp only [Keeps.upd_iff] | split

theorem State.thermalSample_keeps (raw : List Int) (t_ : Nat) (h : Keeps s t) : Keeps s (State.thermalSample t raw t_) := by
  unfold State.thermalSample
  with_reducible repeat' first
    | assumption | apply State.thermAct_keeps | apply State.sitesShow_keeps | apply State.sitesRead_keeps
    | apply State.tempMon_keeps | apply State.put_keeps | apply State.at_keeps | simp only [Keeps.upd_iff] | split

theorem State.selfClass_keeps (h : Keeps s t) : Keeps s (State.selfClass t) := by
  unfold State.selfClass
  with_reducible repeat' first
    | assumption | apply State.put_keeps | apply State.raise_keeps | simp only [Keeps.upd_iff] | split

theorem State.selfFail_keeps (i : Nat) (h : Keeps s t) : Keeps s (State.selfFail t i) := by
  unfold State.selfFail
  with_reducible repeat' first
    | assumption | apply State.selfClass_keeps | apply State.put_keeps | simp only [Keeps.upd_iff] | split

theorem State.selfLive_keeps (h : Keeps s t) : Keeps s (State.selfLive t) := by
  unfold State.selfLive
  with_reducible repeat' first
    | assumption | apply State.selfClass_keeps | apply State.put_keeps | simp only [Keeps.upd_iff] | split

theorem State.markSite_keeps (i : Nat) (b : Bool) (h : Keeps s t) : Keeps s (State.markSite t i b) := by
  unfold State.markSite
  with_reducible repeat' first
    | assumption | apply State.put_keeps | simp only [Keeps.upd_iff] | split

theorem State.thrWrite_keeps (g : Nat) (hi : Bool) (v : Nat) (h : Keeps s t) : Keeps s (State.thrWrite t g hi v) := by
  unfold State.thrWrite
  with_reducible repeat' first
    | assumption | apply State.put_keeps | apply State.raise_keeps | simp only [Keeps.upd_iff] | split

end

theorem execGraceExpire_goes (s : State) : goesOn (execGraceExpire s) (Keeps s) := by
  have h := Keeps.refl s
  unfold execGraceExpire
  with_reducible repeat' first | apply goesOn.next | split
  all_goals
    with_reducible repeat' first
      | assumption | apply State.graceExpire_keeps | simp only [Keeps.upd_iff] | split

theorem execThermalRelease_goes (s : State) : goesOn (execThermalRelease s) (Keeps s) := by
  have h := Keeps.refl s
  unfold execThermalRelease
  with_reducible repeat' first | apply goesOn.next | split
  all_goals
    with_reducible repeat' first
      | assumption | apply State.thermalRelease_keeps | simp only [Keeps.upd_iff] | split

theorem execThermalSample_goes (raw : List Int) (t : Nat) (s : State) : goesOn (execThermalSample raw t s) (Keeps s) := by
  have h := Keeps.refl s
  unfold execThermalSample
  with_reducible repeat' first | apply goesOn.next | split
  all_goals
    with_reducible repeat' first
      | assumption | apply State.thermalSample_keeps | simp only [Keeps.upd_iff] | split

theorem execSiteSuspect_goes (i : Fin 72) (s : State) : goesOn (execSiteSuspect i s) (Keeps s) := by
  have h := Keeps.refl s
  unfold execSiteSuspect
  with_reducible repeat' first | apply goesOn.next | split
  all_goals
    with_reducible repeat' first
      | assumption | apply State.markSite_keeps | apply State.selfLive_keeps | apply State.raise_keeps
      | simp only [Keeps.upd_iff] | split

theorem execSiteUnsuspect_goes (i : Fin 72) (s : State) : goesOn (execSiteUnsuspect i s) (Keeps s) := by
  have h := Keeps.refl s
  unfold execSiteUnsuspect
  with_reducible repeat' first | apply goesOn.next | split
  all_goals
    with_reducible repeat' first
      | assumption | apply State.markSite_keeps | apply State.selfLive_keeps | simp only [Keeps.upd_iff] | split

theorem execThermThrWrite_goes (g : Fin 12) (hi : Bool) (v : Word) (s : State) : goesOn (execThermThrWrite g hi v s) (Keeps s) :=
    by
  have h := Keeps.refl s
  unfold execThermThrWrite
  with_reducible repeat' first | apply goesOn.next | split
  all_goals
    with_reducible repeat' first
      | assumption | apply State.thrWrite_keeps | simp only [Keeps.upd_iff] | split

end Sys2Proof.Machine
end

