-- ==== Sys2Proof/Laws/KeepsClocks.lean ====
section
/-! SUPPORT. What no operation of `Machine/Clocks.lean` does (`Keeps`), one lemma per operation, and that each command goes on. -/
namespace Sys2Proof.Machine
set_option linter.unusedVariables false
set_option linter.unusedSimpArgs false

section
variable {s t : State}

theorem State.pllShow_keeps (i : Nat) (h : Keeps s t) : Keeps s (State.pllShow t i) := by
  unfold State.pllShow
  with_reducible repeat' first
    | assumption | apply State.put_keeps | simp only [Keeps.upd_iff] | split

theorem State.pllTune_keeps (i : Nat) (u : State) (h : Keeps s t) (k : Keeps s u) : Keeps s (State.pllTune t i u) := by
  unfold State.pllTune
  with_reducible repeat' first
    | assumption | apply State.pllShow_keeps | apply State.put_keeps | apply State.raise_keeps | simp only [Keeps.upd_iff]
    | split

theorem State.gateSet_keeps (i : Nat) (on : Bool) (h : Keeps s t) : Keeps s (State.gateSet t i on) := by
  unfold State.gateSet
  with_reducible repeat' first
    | assumption | simp only [Keeps.upd_iff] | split

theorem State.pllStart_keeps (i : Nat) (h : Keeps s t) : Keeps s (State.pllStart t i) := by
  unfold State.pllStart
  with_reducible repeat' first
    | assumption | apply State.gateSet_keeps | apply State.pllTune_keeps | apply State.put_keeps | simp only [Keeps.upd_iff]
    | split

theorem State.rowStart_keeps (h : Keeps s t) : Keeps s (State.rowStart t) := by
  unfold State.rowStart
  with_reducible repeat' first
    | assumption | apply State.gateSet_keeps | apply State.pllTune_keeps | apply State.put_keeps | simp only [Keeps.upd_iff]
    | split

theorem State.loadBands_keeps (i : Nat) (h : Keeps s t) : Keeps s (State.loadBands t i) := by
  unfold State.loadBands
  with_reducible repeat' first
    | assumption | apply State.setReg_keeps | refine Keeps.foldl _ (fun _ _ _ => ?_) ?_ | simp only [Keeps.upd_iff] | split

theorem State.reload_keeps (h : Keeps s t) : Keeps s (State.reload t) := by
  unfold State.reload
  with_reducible repeat' first
    | assumption | apply State.loadBands_keeps | refine Keeps.foldl _ (fun _ _ _ => ?_) ?_ | simp only [Keeps.upd_iff]
    | split

theorem State.pllCtrl_keeps (i v : Nat) (h : Keeps s t) : Keeps s (State.pllCtrl t i v) := by
  unfold State.pllCtrl
  with_reducible repeat' first
    | assumption | apply State.pllStart_keeps | apply State.gateSet_keeps | apply State.put_keeps | apply State.raise_keeps
    | simp only [Keeps.upd_iff] | split

theorem State.pllLock_keeps (i n err : Nat) (h : Keeps s t) : Keeps s (State.pllLock t i n err) := by
  unfold State.pllLock
  with_reducible repeat' first
    | assumption | apply State.gateSet_keeps | apply State.selfFail_keeps | apply State.put_keeps | apply State.at_keeps
    | simp only [Keeps.upd_iff] | split

theorem State.lockLost_keeps (i n err : Nat) (h : Keeps s t) : Keeps s (State.lockLost t i n err) := by
  unfold State.lockLost
  with_reducible repeat' first
    | assumption | apply State.put_keeps | apply State.raise_keeps | simp only [Keeps.upd_iff] | split

theorem State.rowRetune_keeps (f : Frac) (h : Keeps s t) : Keeps s (State.rowRetune t f) := by
  unfold State.rowRetune
  with_reducible repeat' first
    | assumption | apply State.pllTune_keeps | apply State.put_keeps | simp only [Keeps.upd_iff] | split

theorem State.rowFollow_keeps (f : Frac) (h : Keeps s t) : Keeps s (State.rowFollow t f) := by
  unfold State.rowFollow
  with_reducible repeat' first
    | assumption | apply State.pllShow_keeps | simp only [Keeps.upd_iff] | split

theorem State.hopStart_keeps (f : Frac) (h : Keeps s t) : Keeps s (State.hopStart t f) := by
  unfold State.hopStart
  with_reducible repeat' first
    | assumption | apply State.rowRetune_keeps | apply State.put_keeps | simp only [Keeps.upd_iff] | split

theorem State.hopEnd_keeps (f : Frac) (h : Keeps s t) : Keeps s (State.hopEnd t f) := by
  unfold State.hopEnd
  with_reducible repeat' first
    | assumption | apply State.rowFollow_keeps | apply State.put_keeps | apply State.raise_keeps | simp only [Keeps.upd_iff]
    | split

theorem State.hopBoundary_keeps (f : Frac) (h : Keeps s t) : Keeps s (State.hopBoundary t f) := by
  unfold State.hopBoundary
  with_reducible repeat' first
    | assumption | apply State.hopEnd_keeps | apply State.rowRetune_keeps | apply State.put_keeps | simp only [Keeps.upd_iff]
    | split

theorem State.rowBoundary_keeps (f : Frac) (h : Keeps s t) : Keeps s (State.rowBoundary t f) := by
  unfold State.rowBoundary
  with_reducible repeat' first
    | assumption | apply State.hopBoundary_keeps | apply State.hopStart_keeps | apply State.rowFollow_keeps
    | apply State.put_keeps | simp only [Keeps.upd_iff] | split

theorem State.hopTimeout_keeps (h : Keeps s t) : Keeps s (State.hopTimeout t) := by
  unfold State.hopTimeout
  with_reducible repeat' first
    | assumption | apply State.hopStart_keeps | apply State.raise_keeps | apply State.at_keeps | simp only [Keeps.upd_iff]
    | split

end

theorem execReload_goes (s : State) : goesOn (execReload s) (Keeps s) := by
  have h := Keeps.refl s
  unfold execReload
  with_reducible repeat' first | apply goesOn.next | split
  all_goals
    with_reducible repeat' first
      | assumption | apply State.reload_keeps | simp only [Keeps.upd_iff] | split

theorem execPllStart_goes (i : Fin 6) (v : Word) (s : State) : goesOn (execPllStart i v s) (Keeps s) := by
  have h := Keeps.refl s
  unfold execPllStart
  with_reducible repeat' first | apply goesOn.next | split
  all_goals
    with_reducible repeat' first
      | assumption | apply State.pllCtrl_keeps | simp only [Keeps.upd_iff] | split

theorem execPllLock_goes (m : LockSeen) (s : State) : goesOn (execPllLock m s) (Keeps s) := by
  have h := Keeps.refl s
  unfold execPllLock
  with_reducible repeat' first | apply goesOn.next | split
  all_goals
    with_reducible repeat' first
      | assumption | apply State.pllLock_keeps | simp only [Keeps.upd_iff] | split

theorem execLockLost_goes (m : LockSeen) (s : State) : goesOn (execLockLost m s) (Keeps s) := by
  have h := Keeps.refl s
  unfold execLockLost
  with_reducible repeat' first | apply goesOn.next | split
  all_goals
    with_reducible repeat' first
      | assumption | apply State.lockLost_keeps | simp only [Keeps.upd_iff] | split

theorem execHopTimeout_goes (s : State) : goesOn (execHopTimeout s) (Keeps s) := by
  have h := Keeps.refl s
  unfold execHopTimeout
  with_reducible repeat' first | apply goesOn.next | split
  all_goals
    with_reducible repeat' first
      | assumption | apply State.hopTimeout_keeps | simp only [Keeps.upd_iff] | split

end Sys2Proof.Machine
end

