-- ==== Sys2Proof/Laws/KeepsReset.lean ====
section
/-! SUPPORT. What no operation of `Machine/Reset.lean` does (`Keeps`), one lemma per operation. -/
namespace Sys2Proof.Machine
set_option linter.unusedVariables false
set_option linter.unusedSimpArgs false

section
variable {s t : State}

theorem State.workStop_keeps (h : Keeps s t) : Keeps s (State.workStop t) := by
  unfold State.workStop
  with_reducible repeat' first
    | assumption | apply State.sensorStop_keeps | apply State.satDiscard_keeps | apply State.jobEndNow_keeps
    | apply State.calAbort_keeps | apply State.nvsCut_keeps | apply State.compactCut_keeps | simp only [Keeps.upd_iff]
    | split

theorem State.settingsShow_keeps (h : Keeps s t) : Keeps s (State.settingsShow t) := by
  unfold State.settingsShow
  with_reducible repeat' first
    | assumption | apply State.capActShow_keeps | apply State.thermTake_keeps | apply State.kcapShow_keeps
    | apply State.capsShow_keeps | apply State.usedShow_keeps | simp only [Keeps.upd_iff] | split

theorem State.warmTables_keeps (h : Keeps s t) : Keeps s (State.warmTables t) :=
  Keeps.tables h rfl rfl rfl id (regsWf_keepMasked warmMask) (fun _ => rfl) (fun _ => rfl)

theorem State.stepsShow_keeps (h : Keeps s t) : Keeps s (State.stepsShow t) := by
  unfold State.stepsShow
  with_reducible repeat' first
    | assumption | apply State.put_keeps | simp only [Keeps.upd_iff] | split

theorem State.testClear_keeps (h : Keeps s t) : Keeps s (State.testClear t) := by
  unfold State.testClear
  with_reducible repeat' first
    | assumption | apply State.put_keeps | simp only [Keeps.upd_iff] | split

theorem State.warmClear_keeps (h : Keeps s t) : Keeps s (State.warmClear t) := by
  unfold State.warmClear
  with_reducible repeat' first
    | assumption | apply State.testClear_keeps | apply State.stepsShow_keeps | apply State.warmTables_keeps
    | apply State.settingsShow_keeps | apply State.workStop_keeps | simp only [Keeps.upd_iff] | split

theorem State.coldTables_keeps (h : Keeps s t) : Keeps s (State.coldTables t) :=
  Keeps.tables h rfl rfl rfl (memWf_clear 0 nvsBase) (regsWf_keepMasked coldMask) (fun _ => rfl) (fun _ => rfl)

theorem State.sampleAddr_keeps (h : Keeps s t) : Keeps s (State.sampleAddr t) := by
  unfold State.sampleAddr
  with_reducible repeat' first
    | assumption | apply State.put_keeps | simp only [Keeps.upd_iff] | split

theorem State.coldClear_keeps (h : Keeps s t) : Keeps s (State.coldClear t) := by
  unfold State.coldClear
  with_reducible repeat' first
    | assumption | apply State.sampleAddr_keeps | apply State.coldTables_keeps | apply State.stepsShow_keeps
    | apply State.workStop_keeps | apply State.thermTake_keeps | apply State.domsOffBut_keeps | simp only [Keeps.upd_iff]
    | split

end
end Sys2Proof.Machine
end

