-- ==== Sys2Proof/Laws/KeepsPower.lean ====
section
/-! SUPPORT. What no operation of `Machine/Power.lean` does (`Keeps`), one lemma per operation, and that each command goes on. -/
namespace Sys2Proof.Machine
set_option linter.unusedVariables false
set_option linter.unusedSimpArgs false

section
variable {s t : State}

theorem State.sampleSrc_keeps (h : Keeps s t) : Keeps s (State.sampleSrc t) := by
  unfold State.sampleSrc
  with_reducible repeat' first
    | assumption | apply State.pwrShow_keeps | apply State.put_keeps | simp only [Keeps.upd_iff] | split

theorem State.setTaps_keeps (p k pre post : Nat) (h : Keeps s t) : Keeps s (State.setTaps t p k pre post) := by
  unfold State.setTaps
  with_reducible repeat' first
    | assumption | apply State.put_keeps | simp only [Keeps.upd_iff] | split

theorem State.laneStart_keeps (again : Bool) (p k : Nat) (h : Keeps s t) : Keeps s (State.laneStart t again p k) := by
  unfold State.laneStart
  with_reducible repeat' first
    | assumption | apply State.setTaps_keeps | apply State.setPort_keeps | apply State.put_keeps | simp only [Keeps.upd_iff]
    | split

theorem State.setRate_keeps (p r : Nat) (h : Keeps s t) : Keeps s (State.setRate t p r) := by
  unfold State.setRate
  with_reducible repeat' first
    | assumption | apply State.pllStart_keeps | apply State.put_keeps | simp only [Keeps.upd_iff] | split

theorem State.portTrain_keeps (again : Bool) (p : Nat) (h : Keeps s t) : Keeps s (State.portTrain t again p) := by
  unfold State.portTrain
  with_reducible repeat' first
    | assumption | apply State.setRate_keeps | apply State.laneStart_keeps | apply State.setPortState_keeps
    | apply State.setPort_keeps | apply State.setAct_keeps | refine Keeps.foldl _ (fun _ _ _ => ?_) ?_
    | simp only [Keeps.upd_iff] | split

theorem State.portStart_keeps (p : Nat) (h : Keeps s t) : Keeps s (State.portStart t p) := by
  unfold State.portStart
  with_reducible repeat' first
    | assumption | apply State.portTrain_keeps | simp only [Keeps.upd_iff] | split

theorem State.passFirst_keeps (h : Keeps s t) : Keeps s (State.passFirst t) := by
  unfold State.passFirst
  with_reducible repeat' first
    | assumption | apply State.put_keeps | simp only [Keeps.upd_iff] | split

theorem State.domStarted_keeps (d : Nat) (h : Keeps s t) : Keeps s (State.domStarted t d) := by
  unfold State.domStarted
  with_reducible repeat' first
    | assumption | apply State.passFirst_keeps | apply State.portStart_keeps | apply State.loadBands_keeps
    | apply State.rowStart_keeps | apply State.pllStart_keeps | apply State.chainRun_keeps | apply State.put_keeps
    | apply State.put64_keeps | apply State.sensorShow_keeps | refine Keeps.foldl _ (fun _ _ _ => ?_) ?_
    | simp only [Keeps.upd_iff] | split

theorem State.domRetry_keeps (ds : List Nat) (h : Keeps s t) : Keeps s (State.domRetry t ds) := by
  unfold State.domRetry
  with_reducible repeat' first
    | assumption | simp only [Keeps.upd_iff] | split

theorem State.domainOn_keeps (t_ : Nat) (h : Keeps s t) : Keeps s (State.domainOn t t_) := by
  unfold State.domainOn
  with_reducible repeat' first
    | assumption | apply State.domStarted_keeps | apply State.domBegin_keeps | apply State.put_keeps | apply State.at_keeps
    | apply State.settleFrom_keeps | simp only [Keeps.upd_iff] | split

theorem State.domFailed_keeps (d : Nat) (h : Keeps s t) : Keeps s (State.domFailed t d) := by
  unfold State.domFailed
  with_reducible repeat' first
    | assumption | apply State.selfFail_keeps | simp only [Keeps.upd_iff] | split

theorem State.domRegTimeout_keeps (d : Nat) (h : Keeps s t) : Keeps s (State.domRegTimeout t d) := by
  unfold State.domRegTimeout
  with_reducible repeat' first
    | assumption | apply State.domFailed_keeps | apply State.domBegin_keeps | apply State.domsOff_keeps
    | apply State.at_keeps | simp only [Keeps.upd_iff] | split

theorem State.goOff_keeps (h : Keeps s t) : Keeps s (State.goOff t) :=
  Keeps.tables h rfl rfl rfl (memWf_clear 0 nvsBase)
    (fun _ => rfl) (fun _ => rfl) (fun _ => rfl)

theorem State.leaveRun_keeps (h : Keeps s t) : Keeps s (State.leaveRun t) := by
  unfold State.leaveRun
  with_reducible repeat' first
    | assumption | apply State.sensorStop_keeps | apply State.domOff_keeps | apply State.accrue_keeps
    | simp only [Keeps.upd_iff] | split

theorem State.beginStart_keeps (last : Nat) (h : Keeps s t) : Keeps s (State.beginStart t last) := by
  unfold State.beginStart
  with_reducible repeat' first
    | assumption | apply State.put_keeps | apply State.setPower_keeps | simp only [Keeps.upd_iff] | split

theorem State.heldApply_keeps (h : Keeps s t) : Keeps s (State.heldApply t) := by
  unfold State.heldApply
  with_reducible repeat' first
    | assumption | apply State.sampleSrc_keeps | apply State.coldClear_keeps | apply State.warmClear_keeps
    | apply State.bump_keeps | simp only [Keeps.upd_iff] | split

theorem State.wakeUp_keeps (h : Keeps s t) : Keeps s (State.wakeUp t) := by
  unfold State.wakeUp
  with_reducible repeat' first
    | assumption | apply State.heldApply_keeps | apply State.beginStart_keeps | apply State.accrue_keeps
    | simp only [Keeps.upd_iff] | split

theorem State.tryMove_out {u : State} (e : State.tryMove t = some u) (h : Keeps s t) : Keeps s u := by
  unfold State.tryMove at e
  dsimp only at e
  repeat' split at e
  all_goals cases e
  all_goals with_reducible repeat' first
    | assumption | apply State.put_keeps | apply State.accrue_keeps | apply State.leaveRun_keeps | apply State.passFirst_keeps |
    apply State.pwrShow_keeps
    | apply State.toStandby_keeps | apply State.wakeUp_keeps
    | apply State.domOff_keeps | apply State.setPower_keeps | simp only [Keeps.upd_iff] | split

theorem State.arrayRest_keeps (h : Keeps s t) : Keeps s (State.arrayRest t) := by
  unfold State.arrayRest
  with_reducible repeat' first
    | assumption | apply State.domOff_keeps | simp only [Keeps.upd_iff] | split

theorem State.powerRequest_keeps (v : Nat) (h : Keeps s t) : Keeps s (State.powerRequest t v) := by
  unfold State.powerRequest
  with_reducible repeat' first
    | assumption | apply State.arrayRest_keeps | refine State.tryMove_out ‹_› ?_ | apply State.put_keeps
    | apply State.raise_keeps | simp only [Keeps.upd_iff] | split

theorem State.powerTransition_keeps (h : Keeps s t) : Keeps s (State.powerTransition t) := by
  unfold State.powerTransition
  with_reducible repeat' first
    | assumption | refine State.tryMove_out ‹_› ?_ | simp only [Keeps.upd_iff] | split

theorem State.inputReturn_keeps (t_ : Nat) (h : Keeps s t) : Keeps s (State.inputReturn t t_) := by
  unfold State.inputReturn
  with_reducible repeat' first
    | assumption | apply State.put_keeps | apply State.at_keeps | simp only [Keeps.upd_iff] | split

theorem State.inputExcursion_keeps (t_ : Nat) (h : Keeps s t) : Keeps s (State.inputExcursion t t_) := by
  unfold State.inputExcursion
  with_reducible repeat' first
    | assumption | apply State.put_keeps | apply State.raise_keeps | apply State.at_keeps | simp only [Keeps.upd_iff] | split

theorem State.chargeStart_keeps (h : Keeps s t) : Keeps s (State.chargeStart t) := by
  unfold State.chargeStart
  with_reducible repeat' first
    | assumption | apply State.put_keeps | simp only [Keeps.upd_iff] | split

theorem State.chargeGo_keeps (h : Keeps s t) : Keeps s (State.chargeGo t) := by
  unfold State.chargeGo
  with_reducible repeat' first
    | assumption | apply State.chargeStart_keeps | simp only [Keeps.upd_iff] | split

theorem State.chargeStop_keeps (h : Keeps s t) : Keeps s (State.chargeStop t) := by
  unfold State.chargeStop
  with_reducible repeat' first
    | assumption | apply State.packSetI_keeps | apply State.put_keeps | simp only [Keeps.upd_iff] | split

theorem State.suppLost_keeps (h : Keeps s t) : Keeps s (State.suppLost t) := by
  unfold State.suppLost
  with_reducible repeat' first
    | assumption | apply State.packSetI_keeps | apply State.put_keeps | apply State.raise_keeps | simp only [Keeps.upd_iff]
    | split

theorem State.packShow_keeps (h : Keeps s t) : Keeps s (State.packShow t) := by
  unfold State.packShow
  with_reducible repeat' first
    | assumption | apply State.suppLost_keeps | apply State.chargeStop_keeps | apply State.chargeGo_keeps
    | apply State.pwrShow_keeps | simp only [Keeps.upd_iff] | split

theorem State.packDraw_keeps (h : Keeps s t) : Keeps s (State.packDraw t) := by
  unfold State.packDraw
  with_reducible repeat' first
    | assumption | apply State.packSetI_keeps | refine State.fresh_out ‹_› ?_ | apply State.fresh_keeps
    | simp only [Keeps.upd_iff] | split

theorem State.sourceQualified_keeps (t_ : Nat) (h : Keeps s t) : Keeps s (State.sourceQualified t t_) := by
  unfold State.sourceQualified
  with_reducible repeat' first
    | assumption | apply State.chargeGo_keeps | apply State.wakeUp_keeps | apply State.sampleSrc_keeps
    | apply State.put_keeps | apply State.at_keeps | simp only [Keeps.upd_iff] | split

theorem State.holdUp_keeps (cause : Nat) (h : Keeps s t) : Keeps s (State.holdUp t cause) := by
  unfold State.holdUp
  with_reducible repeat' first
    | assumption | apply State.packDraw_keeps | apply State.chargeStop_keeps | apply State.jobEndNow_keeps
    | apply State.slotsEndNow_keeps | apply State.calAbort_keeps | apply State.tickHalt_keeps | apply State.nvsHold_keeps
    | apply State.calDiscard_keeps | apply State.accrue_keeps | apply State.put_keeps | apply State.raise_keeps
    | apply State.settleFrom_keeps | apply State.setPower_keeps | simp only [Keeps.upd_iff] | split

theorem State.inputLoss_keeps (t_ : Nat) (h : Keeps s t) : Keeps s (State.inputLoss t t_) := by
  unfold State.inputLoss
  with_reducible repeat' first
    | assumption | apply State.holdUp_keeps | apply State.goOff_keeps | apply State.put_keeps | apply State.raise_keeps
    | apply State.at_keeps | simp only [Keeps.upd_iff] | split

theorem State.heldShutdown_keeps (h : Keeps s t) : Keeps s (State.heldShutdown t) := by
  unfold State.heldShutdown
  with_reducible repeat' first
    | assumption | apply State.thermEvent_keeps | apply State.jEvent_keeps | simp only [Keeps.upd_iff] | split

theorem State.heldWait_keeps (h : Keeps s t) : Keeps s (State.heldWait t) := by
  unfold State.heldWait
  with_reducible repeat' first
    | assumption | apply State.heldApply_keeps | simp only [Keeps.upd_iff] | split

theorem State.flushDone_keeps (h : Keeps s t) : Keeps s (State.flushDone t) := by
  unfold State.flushDone
  with_reducible repeat' first
    | assumption | apply State.heldWait_keeps | apply State.heldShutdown_keeps | apply State.packDraw_keeps
    | apply State.flushCommit_keeps | apply State.domsOffBut_keeps | apply State.ddrRest_keeps | apply State.put_keeps
    | simp only [Keeps.upd_iff] | split

theorem State.handback_keeps (h : Keeps s t) : Keeps s (State.handback t) := by
  unfold State.handback
  with_reducible repeat' first
    | assumption | apply State.chargeStart_keeps | apply State.wakeUp_keeps | apply State.sampleSrc_keeps
    | apply State.packSetI_keeps | apply State.put_keeps | apply State.raise_keeps | apply State.setPower_keeps
    | simp only [Keeps.upd_iff] | split

theorem State.supplement_keeps (ma t_ : Nat) (h : Keeps s t) : Keeps s (State.supplement t ma t_) := by
  unfold State.supplement
  with_reducible repeat' first
    | assumption | apply State.chargeStop_keeps | apply State.packSetI_keeps | apply State.put_keeps
    | apply State.raise_keeps | apply State.at_keeps | simp only [Keeps.upd_iff] | split

theorem State.overload_keeps (mah : Nat) (h : Keeps s t) : Keeps s (State.overload t mah) := by
  unfold State.overload
  with_reducible repeat' first
    | assumption | apply State.holdUp_keeps | apply State.pwrShow_keeps | apply State.packCount_keeps | apply State.put_keeps
    | simp only [Keeps.upd_iff] | split

theorem State.packFault_keeps (f : Nat) (h : Keeps s t) : Keeps s (State.packFault t f) := by
  unfold State.packFault
  with_reducible repeat' first
    | assumption | apply State.suppLost_keeps | apply State.goOff_keeps | apply State.pwrShow_keeps
    | apply State.packSetI_keeps | apply State.jEvent_keeps | apply State.put_keeps | apply State.raise_keeps
    | simp only [Keeps.upd_iff] | split

theorem State.packJudge_keeps (h : Keeps s t) : Keeps s (State.packJudge t) := by
  unfold State.packJudge
  with_reducible repeat' first
    | assumption | apply State.packFault_keeps | refine Keeps.foldl _ (fun _ _ _ => ?_) ?_ | simp only [Keeps.upd_iff]
    | split

theorem State.faultClr_keeps (h : Keeps s t) : Keeps s (State.faultClr t) := by
  unfold State.faultClr
  with_reducible repeat' first
    | assumption | apply State.packFault_keeps | apply State.packShow_keeps | apply State.put_keeps
    | refine Keeps.foldl _ (fun _ _ _ => ?_) ?_ | simp only [Keeps.upd_iff] | split

theorem State.packInsert_keeps (crcOk : Bool) (chem cap serial : Nat) (h : Keeps s t) : Keeps s
    (State.packInsert t crcOk chem cap serial) := by
  unfold State.packInsert
  with_reducible repeat' first
    | assumption | apply State.packFault_keeps | apply State.packShow_keeps | apply State.put_keeps | apply State.put64_keeps
    | apply State.raise_keeps | simp only [Keeps.upd_iff] | split

theorem State.packGone_keeps (h : Keeps s t) : Keeps s (State.packGone t) := by
  unfold State.packGone
  with_reducible repeat' first
    | assumption | apply State.packShow_keeps | apply State.chargeStop_keeps | apply State.packCount_keeps
    | apply State.put_keeps | simp only [Keeps.upd_iff] | split

theorem State.packMissing_keeps (h : Keeps s t) : Keeps s (State.packMissing t) := by
  unfold State.packMissing
  with_reducible repeat' first
    | assumption | apply State.packGone_keeps | apply State.raise_keeps | simp only [Keeps.upd_iff] | split

theorem State.packCheck_keeps (ntc vRest : Nat) (temp : Int) (crcOk : Bool) (chem cap serial : Nat) (h : Keeps s t) : Keeps s
    (State.packCheck t ntc vRest temp crcOk chem cap serial) := by
  unfold State.packCheck
  with_reducible repeat' first
    | assumption | apply State.packMissing_keeps | apply State.packGone_keeps | apply State.packInsert_keeps
    | apply State.packJudge_keeps | apply State.packFault_keeps | apply State.packShow_keeps | apply State.packCount_keeps
    | apply State.put_keeps | simp only [Keeps.upd_iff] | split

theorem State.packProbe_keeps (v ntc : Nat) (h : Keeps s t) : Keeps s (State.packProbe t v ntc) := by
  unfold State.packProbe
  with_reducible repeat' first
    | assumption | apply State.packJudge_keeps | apply State.packFault_keeps | apply State.foldShow_keeps
    | apply State.packCount_keeps | apply State.put_keeps | simp only [Keeps.upd_iff] | split

theorem State.chargeCycle_keeps (chg i vTerm vRest : Nat) (temp : Int) (sys : Nat) (t_ : Nat) (h : Keeps s t) : Keeps s
    (State.chargeCycle t chg i vTerm vRest temp sys t_) := by
  unfold State.chargeCycle
  with_reducible repeat' first
    | assumption | apply State.packJudge_keeps | apply State.packFault_keeps | apply State.packShow_keeps
    | apply State.pwrShow_keeps | apply State.packSetI_keeps | apply State.packCount_keeps | apply State.mahAdd_keeps
    | apply State.put_keeps | apply State.raise_keeps | apply State.at_keeps | simp only [Keeps.upd_iff] | split

theorem State.maintainCheck_keeps (vRest : Nat) (h : Keeps s t) : Keeps s (State.maintainCheck t vRest) := by
  unfold State.maintainCheck
  with_reducible repeat' first
    | assumption | apply State.packJudge_keeps | apply State.packShow_keeps | apply State.put_keeps
    | simp only [Keeps.upd_iff] | split

end

theorem execSrcChanged_goes (ohms : Nat) (s : State) : goesOn (execSrcChanged ohms s) (Keeps s) := by
  have h := Keeps.refl s
  unfold execSrcChanged
  with_reducible repeat' first | apply goesOn.next | split
  all_goals
    with_reducible repeat' first
      | assumption | apply State.put_keeps | apply State.raise_keeps | simp only [Keeps.upd_iff] | split

theorem execDomainOn_goes (t : Nat) (s : State) : goesOn (execDomainOn t s) (Keeps s) := by
  have h := Keeps.refl s
  unfold execDomainOn
  with_reducible repeat' first | apply goesOn.next | split
  all_goals
    with_reducible repeat' first
      | assumption | apply State.domainOn_keeps | simp only [Keeps.upd_iff] | split

theorem execInputReturn_goes (t : Nat) (s : State) : goesOn (execInputReturn t s) (Keeps s) := by
  have h := Keeps.refl s
  unfold execInputReturn
  with_reducible repeat' first | apply goesOn.next | split
  all_goals
    with_reducible repeat' first
      | assumption | apply State.inputReturn_keeps | simp only [Keeps.upd_iff] | split

theorem execInputExcursion_goes (t : Nat) (s : State) : goesOn (execInputExcursion t s) (Keeps s) := by
  have h := Keeps.refl s
  unfold execInputExcursion
  with_reducible repeat' first | apply goesOn.next | split
  all_goals
    with_reducible repeat' first
      | assumption | apply State.inputExcursion_keeps | simp only [Keeps.upd_iff] | split

theorem execSourceQualified_goes (t : Nat) (s : State) : goesOn (execSourceQualified t s) (Keeps s) := by
  have h := Keeps.refl s
  unfold execSourceQualified
  with_reducible repeat' first | apply goesOn.next | split
  all_goals
    with_reducible repeat' first
      | assumption | apply State.sourceQualified_keeps | simp only [Keeps.upd_iff] | split

theorem execInputLoss_goes (t : Nat) (s : State) : goesOn (execInputLoss t s) (Keeps s) := by
  have h := Keeps.refl s
  unfold execInputLoss
  with_reducible repeat' first | apply goesOn.next | split
  all_goals
    with_reducible repeat' first
      | assumption | apply State.inputLoss_keeps | simp only [Keeps.upd_iff] | split

theorem execHoldupFlush_goes (s : State) : goesOn (execHoldupFlush s) (Keeps s) := by
  have h := Keeps.refl s
  unfold execHoldupFlush
  with_reducible repeat' first | apply goesOn.next | split
  all_goals
    with_reducible repeat' first
      | assumption | apply State.satDiscard_keeps | apply State.linesDrop_keeps | apply State.holdupFlush_keeps
      | simp only [Keeps.upd_iff] | split

theorem execFlushDone_goes (s : State) : goesOn (execFlushDone s) (Keeps s) := by
  have h := Keeps.refl s
  unfold execFlushDone
  with_reducible repeat' first | apply goesOn.next | split
  all_goals
    with_reducible repeat' first
      | assumption | apply State.flushDone_keeps | simp only [Keeps.upd_iff] | split

theorem execHoldWaitExpire_goes (s : State) : goesOn (execHoldWaitExpire s) (Keeps s) := by
  have h := Keeps.refl s
  unfold execHoldWaitExpire
  with_reducible repeat' first | apply goesOn.next | split
  all_goals
    with_reducible repeat' first
      | assumption | apply State.goOff_keeps | apply State.at_keeps | simp only [Keeps.upd_iff] | split

theorem execPackCutoff_goes (s : State) : goesOn (execPackCutoff s) (Keeps s) := by
  have h := Keeps.refl s
  unfold execPackCutoff
  with_reducible repeat' first | apply goesOn.next | split
  all_goals
    with_reducible repeat' first
      | assumption | apply State.goOff_keeps | simp only [Keeps.upd_iff] | split

theorem execHandback_goes (s : State) : goesOn (execHandback s) (Keeps s) := by
  have h := Keeps.refl s
  unfold execHandback
  with_reducible repeat' first | apply goesOn.next | split
  all_goals
    with_reducible repeat' first
      | assumption | apply State.handback_keeps | simp only [Keeps.upd_iff] | split

theorem execSupplement_goes (ma t : Nat) (s : State) : goesOn (execSupplement ma t s) (Keeps s) := by
  have h := Keeps.refl s
  unfold execSupplement
  with_reducible repeat' first | apply goesOn.next | split
  all_goals
    with_reducible repeat' first
      | assumption | apply State.supplement_keeps | simp only [Keeps.upd_iff] | split

theorem execSupplementEnd_goes (s : State) : goesOn (execSupplementEnd s) (Keeps s) := by
  have h := Keeps.refl s
  unfold execSupplementEnd
  with_reducible repeat' first | apply goesOn.next | split
  all_goals
    with_reducible repeat' first
      | assumption | apply State.chargeStart_keeps | apply State.pwrShow_keeps | apply State.packSetI_keeps
      | apply State.put_keeps | simp only [Keeps.upd_iff] | split

theorem execOverload_goes (mah : Half) (s : State) : goesOn (execOverload mah s) (Keeps s) := by
  have h := Keeps.refl s
  unfold execOverload
  with_reducible repeat' first | apply goesOn.next | split
  all_goals
    with_reducible repeat' first
      | assumption | apply State.overload_keeps | simp only [Keeps.upd_iff] | split

theorem execFaultClr_goes (s : State) : goesOn (execFaultClr s) (Keeps s) := by
  have h := Keeps.refl s
  unfold execFaultClr
  with_reducible repeat' first | apply goesOn.next | split
  all_goals
    with_reducible repeat' first
      | assumption | apply State.faultClr_keeps | simp only [Keeps.upd_iff] | split

theorem execPackCheck_goes (ntc : Nat) (vRest : Half) (temp : Int) (crcOk : Bool) (chem : Byte) (cap : Half) (serial : BitVec 64)
    (s : State) : goesOn (execPackCheck ntc vRest temp crcOk chem cap serial s) (Keeps s) := by
  have h := Keeps.refl s
  unfold execPackCheck
  with_reducible repeat' first | apply goesOn.next | split
  all_goals
    with_reducible repeat' first
      | assumption | apply State.packCheck_keeps | simp only [Keeps.upd_iff] | split

theorem execPackProbe_goes (v : Half) (ntc : Nat) (s : State) : goesOn (execPackProbe v ntc s) (Keeps s) := by
  have h := Keeps.refl s
  unfold execPackProbe
  with_reducible repeat' first | apply goesOn.next | split
  all_goals
    with_reducible repeat' first
      | assumption | apply State.packProbe_keeps | simp only [Keeps.upd_iff] | split

theorem execPackOvercurrent_goes (s : State) : goesOn (execPackOvercurrent s) (Keeps s) := by
  have h := Keeps.refl s
  unfold execPackOvercurrent
  with_reducible repeat' first | apply goesOn.next | split
  all_goals
    with_reducible repeat' first
      | assumption | apply State.packFault_keeps | simp only [Keeps.upd_iff] | split

theorem execChargeCycle_goes (chg : Half) (i : Half) (vTerm : Half) (vRest : Half) (temp : Int) (sys : Half) (t : Nat)
    (s : State) : goesOn (execChargeCycle chg i vTerm vRest temp sys t s) (Keeps s) := by
  have h := Keeps.refl s
  unfold execChargeCycle
  with_reducible repeat' first | apply goesOn.next | split
  all_goals
    with_reducible repeat' first
      | assumption | apply State.chargeCycle_keeps | simp only [Keeps.upd_iff] | split

theorem execPrechgTimeout_goes (s : State) : goesOn (execPrechgTimeout s) (Keeps s) := by
  have h := Keeps.refl s
  unfold execPrechgTimeout
  with_reducible repeat' first | apply goesOn.next | split
  all_goals
    with_reducible repeat' first
      | assumption | apply State.packFault_keeps | apply State.at_keeps | simp only [Keeps.upd_iff] | split

theorem execPrechargeDone_goes (s : State) : goesOn (execPrechargeDone s) (Keeps s) := by
  have h := Keeps.refl s
  unfold execPrechargeDone
  with_reducible repeat' first | apply goesOn.next | split
  all_goals
    with_reducible repeat' first
      | assumption | apply State.pwrShow_keeps | apply State.packSetI_keeps | apply State.put_keeps | simp only [Keeps.upd_iff]
      | split

theorem execMaintainCheck_goes (vRest : Half) (s : State) : goesOn (execMaintainCheck vRest s) (Keeps s) := by
  have h := Keeps.refl s
  unfold execMaintainCheck
  with_reducible repeat' first | apply goesOn.next | split
  all_goals
    with_reducible repeat' first
      | assumption | apply State.maintainCheck_keeps | simp only [Keeps.upd_iff] | split

theorem execChgTimerExpire_goes (s : State) : goesOn (execChgTimerExpire s) (Keeps s) := by
  have h := Keeps.refl s
  unfold execChgTimerExpire
  with_reducible repeat' first | apply goesOn.next | split
  all_goals
    with_reducible repeat' first
      | assumption | apply State.packFault_keeps | simp only [Keeps.upd_iff] | split

end Sys2Proof.Machine
end

