-- ==== Sys2Proof/Laws/KeepsCalib.lean ====
section
/-! SUPPORT. What no operation of `Machine/Calib.lean` does (`Keeps`), one lemma per operation, and that each command goes on. -/
namespace Sys2Proof.Machine
set_option linter.unusedVariables false
set_option linter.unusedSimpArgs false

section
variable {s t : State}

theorem State.setConv_keeps (k : Nat) (c : Conv) (h : Keeps s t) : Keeps s (State.setConv t k c) := by
  unfold State.setConv
  with_reducible repeat' first
    | assumption | simp only [Keeps.upd_iff] | split

theorem State.setSpare_keeps (b sh : Nat) (x : Spare) (h : Keeps s t) : Keeps s (State.setSpare t b sh x) := by
  unfold State.setSpare
  with_reducible repeat' first
    | assumption | simp only [Keeps.upd_iff] | split

theorem State.badSum_keeps (b sh : Nat) (h : Keeps s t) : Keeps s (State.badSum t b sh) := by
  unfold State.badSum
  with_reducible repeat' first
    | assumption | apply State.put_keeps | simp only [Keeps.upd_iff] | split

theorem State.setBankRun_keeps (b : Nat) (x : BankRun) (h : Keeps s t) : Keeps s (State.setBankRun t b x) := by
  unfold State.setBankRun
  with_reducible repeat' first
    | assumption | simp only [Keeps.upd_iff] | split

theorem State.holdViews_keeps (h : Keeps s t) : Keeps s (State.holdViews t) := by
  unfold State.holdViews
  with_reducible repeat' first
    | assumption | simp only [Keeps.upd_iff] | split

theorem State.quality_keeps (b : Nat) (h : Keeps s t) : Keeps s (State.quality t b) := by
  unfold State.quality
  with_reducible repeat' first
    | assumption | apply State.put_keeps | refine Keeps.foldl _ (fun _ _ _ => ?_) ?_ | simp only [Keeps.upd_iff] | split

theorem State.passEnd_keeps (h : Keeps s t) : Keeps s (State.passEnd t) := by
  unfold State.passEnd
  with_reducible repeat' first
    | assumption | apply State.quality_keeps | apply State.put_keeps | apply State.raise_keeps
    | refine Keeps.foldl _ (fun _ _ _ => ?_) ?_ | simp only [Keeps.upd_iff] | split

theorem State.handBack_keeps (b sh : Nat) (h : Keeps s t) : Keeps s (State.handBack t b sh) := by
  unfold State.handBack
  with_reducible repeat' first
    | assumption | apply State.badSum_keeps | apply State.setSpare_keeps | apply State.setConv_keeps | apply State.bump_keeps
    | apply State.raise_keeps | simp only [Keeps.upd_iff] | split

theorem State.calTakeover_keeps (h : Keeps s t) : Keeps s (State.calTakeover t) := by
  unfold State.calTakeover
  with_reducible repeat' first
    | assumption | apply State.handBack_keeps | apply State.passEnd_keeps | refine Keeps.foldl _ (fun _ _ _ => ?_) ?_
    | simp only [Keeps.upd_iff] | split

theorem State.calPassStart_keeps (h : Keeps s t) : Keeps s (State.calPassStart t) := by
  unfold State.calPassStart
  with_reducible repeat' first
    | assumption | apply State.put_keeps | apply State.at_keeps | apply State.bgProgress_keeps | simp only [Keeps.upd_iff]
    | split

theorem State.calSpare_keeps (b sh : Nat) (c : Cand) (h : Keeps s t) : Keeps s (State.calSpare t b sh c) := by
  unfold State.calSpare
  with_reducible repeat' first
    | assumption | apply State.passEnd_keeps | apply State.badSum_keeps | apply State.setSpare_keeps
    | apply State.setConv_keeps | apply State.raise_keeps | simp only [Keeps.upd_iff] | split

theorem State.calColumn_keeps (b sh : Nat) (c : Cand) (h : Keeps s t) : Keeps s (State.calColumn t b sh c) := by
  unfold State.calColumn
  with_reducible repeat' first
    | assumption | apply State.setSpare_keeps | apply State.setConv_keeps | apply State.raise_keeps
    | simp only [Keeps.upd_iff] | split

theorem State.calPosition_keeps (b sh : Nat) (c : Cand) (h : Keeps s t) : Keeps s (State.calPosition t b sh c) := by
  unfold State.calPosition
  with_reducible repeat' first
    | assumption | apply State.calColumn_keeps | apply State.calSpare_keeps | apply State.calTakeover_keeps
    | apply State.bgProgress_keeps | simp only [Keeps.upd_iff] | split

theorem State.setForce_keeps (h : Keeps s t) : Keeps s (State.setForce t) := by
  unfold State.setForce
  with_reducible repeat' first
    | assumption | apply State.put_keeps | simp only [Keeps.upd_iff] | split

theorem State.applySet_keeps (c : CalSet) (h : Keeps s t) : Keeps s (State.applySet t c) := by
  unfold State.applySet
  with_reducible repeat' first
    | assumption | apply State.setForce_keeps | simp only [Keeps.upd_iff] | split

theorem State.calBoot_keeps (h : Keeps s t) : Keeps s (State.calBoot t) := by
  unfold State.calBoot
  with_reducible repeat' first
    | assumption | apply State.setForce_keeps | apply State.put_keeps | refine Keeps.foldl _ (fun _ _ _ => ?_) ?_
    | simp only [Keeps.upd_iff] | split

theorem State.calGo_keeps (op kind : Nat) (start : State → State) (hs : ∀ u, Keeps s u → Keeps s (start u)) (h : Keeps s t) :
    Keeps s (State.calGo t op kind start) := by
  unfold State.calGo
  with_reducible repeat' first
    | assumption | apply hs | apply State.calEnd_keeps | apply State.put_keeps | simp only [Keeps.upd_iff] | split

theorem State.calOutcome_keeps (code count : Nat) (res : Option CalSet) (store : Bool) (h : Keeps s t) : Keeps s
    (State.calOutcome t code count res store) := by
  unfold State.calOutcome
  with_reducible repeat' first
    | assumption | simp only [Keeps.upd_iff] | split

theorem State.calDark_keeps (m : DarkSeen) (h : Keeps s t) : Keeps s (State.calDark t m) := by
  unfold State.calDark
  with_reducible repeat' first
    | assumption | apply State.calOutcome_keeps | apply State.calGo_keeps | simp only [Keeps.upd_iff] | split | intro _ _

theorem State.whiteUse_keeps (bank : Nat) (h : Keeps s t) : Keeps s (State.whiteUse t bank) := by
  unfold State.whiteUse
  with_reducible repeat' first
    | assumption | apply State.lampAccrue_keeps | refine Keeps.foldl _ (fun _ _ _ => ?_) ?_ | simp only [Keeps.upd_iff]
    | split

theorem State.calWhite_keeps (m : WhiteSeen) (h : Keeps s t) : Keeps s (State.calWhite t m) := by
  unfold State.calWhite
  with_reducible repeat' first
    | assumption | apply State.whiteUse_keeps | apply State.calOutcome_keeps | apply State.calGo_keeps
    | refine Keeps.foldl _ (fun _ _ _ => ?_) ?_ | simp only [Keeps.upd_iff] | split | intro _ _

theorem State.calTiming_keeps (late : List Int) (gate sync : Int) (h : Keeps s t) : Keeps s (State.calTiming t late gate sync) :=
    by
  unfold State.calTiming
  with_reducible repeat' first
    | assumption | apply State.calOutcome_keeps | apply State.calGo_keeps | apply State.put_keeps | simp only [Keeps.upd_iff]
    | split | intro _ _

theorem State.calLoad_keeps (h : Keeps s t) : Keeps s (State.calLoad t) := by
  unfold State.calLoad
  with_reducible repeat' first
    | assumption | apply State.calOutcome_keeps | apply State.calGo_keeps | apply State.ddrRead_keeps
    | simp only [Keeps.upd_iff] | split | intro _ _

theorem State.calApply_keeps (h : Keeps s t) : Keeps s (State.calApply t) := by
  unfold State.calApply
  with_reducible repeat' first
    | assumption | apply State.calOutcome_keeps | apply State.calGo_keeps | apply State.ddrRead_keeps
    | simp only [Keeps.upd_iff] | split | intro _ _

theorem State.trimForce_keeps (h : Keeps s t) : Keeps s (State.trimForce t) := by
  unfold State.trimForce
  with_reducible repeat' first
    | assumption | apply State.put_keeps | refine Keeps.foldl _ (fun _ _ _ => ?_) ?_ | simp only [Keeps.upd_iff] | split

theorem State.calKeep_keeps (h : Keeps s t) : Keeps s (State.calKeep t) := by
  unfold State.calKeep
  with_reducible repeat' first
    | assumption | apply State.put_keeps | apply State.setBytes_keeps | simp only [Keeps.upd_iff] | split

theorem State.calTakeEffect_keeps (h : Keeps s t) : Keeps s (State.calTakeEffect t) := by
  unfold State.calTakeEffect
  with_reducible repeat' first
    | assumption | apply State.trimForce_keeps | apply State.applySet_keeps | apply State.put_keeps
    | simp only [Keeps.upd_iff] | split

theorem State.calRunDone_keeps (h : Keeps s t) : Keeps s (State.calRunDone t) := by
  unfold State.calRunDone
  with_reducible repeat' first
    | assumption | apply State.calTakeEffect_keeps | apply State.calKeep_keeps | apply State.calEnd_keeps
    | simp only [Keeps.upd_iff] | split

theorem State.driftTrack_keeps (drift : List Int) (h : Keeps s t) : Keeps s (State.driftTrack t drift) := by
  unfold State.driftTrack
  with_reducible repeat' first
    | assumption | apply State.put_keeps | apply State.raise_keeps | apply State.at_keeps | apply State.bgProgress_keeps
    | refine Keeps.foldl _ (fun _ _ _ => ?_) ?_ | simp only [Keeps.upd_iff] | split

theorem State.driftStep_keeps (h : Keeps s t) : Keeps s (State.driftStep t) := by
  unfold State.driftStep
  with_reducible repeat' first
    | assumption | apply State.put_keeps | refine Keeps.foldl _ (fun _ _ _ => ?_) ?_ | simp only [Keeps.upd_iff] | split

theorem State.calBoundary_keeps (h : Keeps s t) : Keeps s (State.calBoundary t) := by
  unfold State.calBoundary
  with_reducible repeat' first
    | assumption | apply State.driftStep_keeps | apply State.trimForce_keeps | apply State.setForce_keeps
    | apply State.calTakeover_keeps | simp only [Keeps.upd_iff] | split

theorem State.bgStarved_keeps (act : Nat) (h : Keeps s t) : Keeps s (State.bgStarved t act) := by
  unfold State.bgStarved
  with_reducible repeat' first
    | assumption | apply State.put_keeps | apply State.raise_keeps | apply State.at_keeps | simp only [Keeps.upd_iff] | split

end

theorem execCalPassStart_goes (s : State) : goesOn (execCalPassStart s) (Keeps s) := by
  have h := Keeps.refl s
  unfold execCalPassStart
  with_reducible repeat' first | apply goesOn.next | split
  all_goals
    with_reducible repeat' first
      | assumption | apply State.calPassStart_keeps | simp only [Keeps.upd_iff] | split

theorem execCalPositionDone_goes (b : Fin 4) (sh : Fin 192) (ofsTrim gainTrim : BitVec 6) (ofsCoef gainCoef ofs gain : Int)
    (weights : List Int) (first : FirstRun) (s : State) : goesOn
    (execCalPositionDone b sh ofsTrim gainTrim ofsCoef gainCoef ofs gain weights first s) (Keeps s) := by
  have h := Keeps.refl s
  unfold execCalPositionDone
  with_reducible repeat' first | apply goesOn.next | split
  all_goals
    with_reducible repeat' first
      | assumption | apply State.calPosition_keeps | simp only [Keeps.upd_iff] | split

theorem execCalDark_goes (sat : SatSeen) (unstable : Nat) (light : Int) (levels : List LevelSeen) (d d1 : PatternSeen)
    (s : State) : goesOn (execCalDark sat unstable light levels d d1 s) (Keeps s) := by
  have h := Keeps.refl s
  unfold execCalDark
  with_reducible repeat' first | apply goesOn.next | split
  all_goals
    with_reducible repeat' first
      | assumption | apply State.calDark_keeps | simp only [Keeps.upd_iff] | split

theorem execCalWhite_goes (m : PhasesSeen) (tapA tapB sums verify : List Nat) (s : State) : goesOn
    (execCalWhite m tapA tapB sums verify s) (Keeps s) := by
  have h := Keeps.refl s
  unfold execCalWhite
  with_reducible repeat' first | apply goesOn.next | split
  all_goals
    with_reducible repeat' first
      | assumption | apply State.calWhite_keeps | simp only [Keeps.upd_iff] | split

theorem execCalTiming_goes (late : List Int) (gate sync : Int) (s : State) : goesOn (execCalTiming late gate sync s) (Keeps s) :=
    by
  have h := Keeps.refl s
  unfold execCalTiming
  with_reducible repeat' first | apply goesOn.next | split
  all_goals
    with_reducible repeat' first
      | assumption | apply State.calTiming_keeps | simp only [Keeps.upd_iff] | split

theorem execCalLoad_goes (s : State) : goesOn (execCalLoad s) (Keeps s) := by
  have h := Keeps.refl s
  unfold execCalLoad
  with_reducible repeat' first | apply goesOn.next | split
  all_goals
    with_reducible repeat' first
      | assumption | apply State.calLoad_keeps | simp only [Keeps.upd_iff] | split

theorem execCalApply_goes (s : State) : goesOn (execCalApply s) (Keeps s) := by
  have h := Keeps.refl s
  unfold execCalApply
  with_reducible repeat' first | apply goesOn.next | split
  all_goals
    with_reducible repeat' first
      | assumption | apply State.calApply_keeps | simp only [Keeps.upd_iff] | split

theorem execCalAbort_goes (s : State) : goesOn (execCalAbort s) (Keeps s) := by
  have h := Keeps.refl s
  unfold execCalAbort
  with_reducible repeat' first | apply goesOn.next | split
  all_goals
    with_reducible repeat' first
      | assumption | apply State.calAbort_keeps | apply State.put_keeps | simp only [Keeps.upd_iff] | split

theorem execCalRunDone_goes (s : State) : goesOn (execCalRunDone s) (Keeps s) := by
  have h := Keeps.refl s
  unfold execCalRunDone
  with_reducible repeat' first | apply goesOn.next | split
  all_goals
    with_reducible repeat' first
      | assumption | apply State.calRunDone_keeps | simp only [Keeps.upd_iff] | split

theorem execDriftTrack_goes (drift : List Int) (s : State) : goesOn (execDriftTrack drift s) (Keeps s) := by
  have h := Keeps.refl s
  unfold execDriftTrack
  with_reducible repeat' first | apply goesOn.next | split
  all_goals
    with_reducible repeat' first
      | assumption | apply State.driftTrack_keeps | simp only [Keeps.upd_iff] | split

theorem execBgStarved_goes (act : Fin 4) (s : State) : goesOn (execBgStarved act s) (Keeps s) := by
  have h := Keeps.refl s
  unfold execBgStarved
  with_reducible repeat' first | apply goesOn.next | split
  all_goals
    with_reducible repeat' first
      | assumption | apply State.bgStarved_keeps | simp only [Keeps.upd_iff] | split

end Sys2Proof.Machine
end

