-- ==== Sys2Proof/Laws/KeepsLamp.lean ====
section
/-! SUPPORT. What no operation of `Machine/Lamp.lean` does (`Keeps`), one lemma per operation, and that each command goes on. -/
namespace Sys2Proof.Machine
set_option linter.unusedVariables false
set_option linter.unusedSimpArgs false

section
variable {s t : State}

theorem State.lampWear_keeps (h : Keeps s t) : Keeps s (State.lampWear t) := by
  unfold State.lampWear
  with_reducible repeat' first
    | assumption | apply State.put_keeps | apply State.raise_keeps | refine Keeps.foldl _ (fun _ _ _ => ?_) ?_
    | simp only [Keeps.upd_iff] | split

theorem State.lampChange_keeps (h : Keeps s t) : Keeps s (State.lampChange t) := by
  unfold State.lampChange
  with_reducible repeat' first
    | assumption | apply State.jEvent_keeps | apply State.raise_keeps | simp only [Keeps.upd_iff] | split

theorem State.lampReady_keeps (h : Keeps s t) : Keeps s (State.lampReady t) := by
  unfold State.lampReady
  with_reducible repeat' first
    | assumption | apply State.lampChange_keeps | apply State.put_keeps | simp only [Keeps.upd_iff] | split

theorem State.lampOffReq_keeps (h : Keeps s t) : Keeps s (State.lampOffReq t) := by
  unfold State.lampOffReq
  with_reducible repeat' first
    | assumption | apply State.setLamp_keeps | apply State.domOff_keeps | apply State.put_keeps | simp only [Keeps.upd_iff]
    | split

theorem State.lampPwrWrite_keeps (v : Nat) (h : Keeps s t) : Keeps s (State.lampPwrWrite t v) := by
  unfold State.lampPwrWrite
  with_reducible repeat' first
    | assumption | apply State.lampOffReq_keeps | apply State.setLamp_keeps | apply State.put_keeps
    | simp only [Keeps.upd_iff] | split

theorem State.lampClose_keeps (h : Keeps s t) : Keeps s (State.lampClose t) := by
  unfold State.lampClose
  with_reducible repeat' first
    | assumption | apply State.put_keeps | simp only [Keeps.upd_iff] | split

theorem State.lampIdent_keeps (t_ : Nat) (h : Keeps s t) : Keeps s (State.lampIdent t t_) := by
  unfold State.lampIdent
  with_reducible repeat' first
    | assumption | apply State.lampClose_keeps | apply State.setLamp_keeps | apply State.put_keeps | apply State.at_keeps
    | simp only [Keeps.upd_iff] | split

theorem State.lampSend_keeps (cmd addr len : Nat) (data : List Nat) (h : Keeps s t) : Keeps s
    (State.lampSend t cmd addr len data) := by
  unfold State.lampSend
  with_reducible repeat' first
    | assumption | apply State.setLamp_keeps | simp only [Keeps.upd_iff] | split

theorem State.lampRead_keeps (h : Keeps s t) : Keeps s (State.lampRead t) := by
  unfold State.lampRead
  with_reducible repeat' first
    | assumption | apply State.lampSend_keeps | simp only [Keeps.upd_iff] | split

theorem State.sigResult_keeps (r : Nat) (h : Keeps s t) : Keeps s (State.sigResult t r) := by
  unfold State.sigResult
  with_reducible repeat' first
    | assumption | apply State.put_keeps | apply State.raise_keeps | simp only [Keeps.upd_iff] | split

theorem State.xferLatch_keeps (h : Keeps s t) : Keeps s (State.xferLatch t) := by
  unfold State.xferLatch
  with_reducible repeat' first
    | assumption | apply State.put64_keeps | simp only [Keeps.upd_iff] | split

theorem State.identOver_keeps (h : Keeps s t) : Keeps s (State.identOver t) := by
  unfold State.identOver
  with_reducible repeat' first
    | assumption | apply State.xferLatch_keeps | apply State.setLamp_keeps | simp only [Keeps.upd_iff] | split

theorem State.sigVerify_keeps (h : Keeps s t) : Keeps s (State.sigVerify t) := by
  unfold State.sigVerify
  with_reducible repeat' first
    | assumption | apply State.identOver_keeps | apply State.sigResult_keeps | simp only [Keeps.upd_iff] | split

theorem State.lampEdge_keeps (h : Keeps s t) : Keeps s (State.lampEdge t) := by
  unfold State.lampEdge
  with_reducible repeat' first
    | assumption | apply State.setLamp_keeps | apply State.put64_keeps | apply State.raise_keeps | simp only [Keeps.upd_iff]
    | split

theorem State.lampCommit_keeps (committed : Bool) (h : Keeps s t) : Keeps s (State.lampCommit t committed) := by
  unfold State.lampCommit
  with_reducible repeat' first
    | assumption | apply State.xferLatch_keeps | apply State.setLamp_keeps | simp only [Keeps.upd_iff] | split

theorem State.lampSeti_keeps (h : Keeps s t) : Keeps s (State.lampSeti t) := by
  unfold State.lampSeti
  with_reducible repeat' first
    | assumption | apply State.lampSend_keeps | apply State.setLamp_keeps | simp only [Keeps.upd_iff] | split

theorem State.lampLifeAdd_keeps (h : Keeps s t) : Keeps s (State.lampLifeAdd t) := by
  unfold State.lampLifeAdd
  with_reducible repeat' first
    | assumption | apply State.lampSend_keeps | apply State.setLamp_keeps | apply State.at_keeps | simp only [Keeps.upd_iff]
    | split

theorem State.lampStat_keeps (h : Keeps s t) : Keeps s (State.lampStat t) := by
  unfold State.lampStat
  with_reducible repeat' first
    | assumption | apply State.lampSend_keeps | apply State.setLamp_keeps | apply State.at_keeps | simp only [Keeps.upd_iff]
    | split

theorem State.lampReqFailed_keeps (r : LhReq) (h : Keeps s t) : Keeps s (State.lampReqFailed t r) := by
  unfold State.lampReqFailed
  with_reducible repeat' first
    | assumption | apply State.identOver_keeps | apply State.sigResult_keeps | apply State.setLamp_keeps
    | apply State.domOff_keeps | apply State.put_keeps | apply State.raise_keeps | simp only [Keeps.upd_iff] | split

theorem State.lampRetry_keeps (h : Keeps s t) : Keeps s (State.lampRetry t) := by
  unfold State.lampRetry
  with_reducible repeat' first
    | assumption | apply State.lampReqFailed_keeps | apply State.setLamp_keeps | apply State.bump_keeps
    | simp only [Keeps.upd_iff] | split

theorem State.lampReadDone_keeps (data : List Nat) (h : Keeps s t) : Keeps s (State.lampReadDone t data) := by
  unfold State.lampReadDone
  with_reducible repeat' first
    | assumption | apply State.identOver_keeps | apply State.lampWear_keeps | apply State.lampShow_keeps
    | apply State.putIdent_keeps | apply State.setLamp_keeps | apply State.put_keeps
    | refine Keeps.foldl _ (fun _ _ _ => ?_) ?_ | simp only [Keeps.upd_iff] | split

theorem State.lampPolled_keeps (data : List Nat) (h : Keeps s t) : Keeps s (State.lampPolled t data) := by
  unfold State.lampPolled
  with_reducible repeat' first
    | assumption | apply State.setLamp_keeps | apply State.put_keeps | apply State.raise_keeps | simp only [Keeps.upd_iff]
    | split

theorem State.lampLifeDone_keeps (h : Keeps s t) : Keeps s (State.lampLifeDone t) := by
  unfold State.lampLifeDone
  with_reducible repeat' first
    | assumption | apply State.lampWear_keeps | apply State.lampShow_keeps | apply State.setLamp_keeps
    | apply State.domOff_keeps | refine Keeps.foldl _ (fun _ _ _ => ?_) ?_ | simp only [Keeps.upd_iff] | split

theorem State.lampSetDone_keeps (h : Keeps s t) : Keeps s (State.lampSetDone t) := by
  unfold State.lampSetDone
  with_reducible repeat' first
    | assumption | apply State.lampReady_keeps | apply State.setLamp_keeps | apply State.put_keeps
    | refine Keeps.foldl _ (fun _ _ _ => ?_) ?_ | simp only [Keeps.upd_iff] | split

theorem State.lampResponse_keeps (sync cells : List Bool) (t_ : Nat) (h : Keeps s t) : Keeps s
    (State.lampResponse t sync cells t_) := by
  unfold State.lampResponse
  with_reducible repeat' first
    | assumption | apply State.lampSetDone_keeps | apply State.lampLifeDone_keeps | apply State.lampPolled_keeps
    | apply State.lampReadDone_keeps | apply State.lampRetry_keeps | apply State.setLamp_keeps | apply State.at_keeps
    | simp only [Keeps.upd_iff] | split

end

theorem execLampPwrWrite_goes (v : Word) (s : State) : goesOn (execLampPwrWrite v s) (Keeps s) := by
  have h := Keeps.refl s
  unfold execLampPwrWrite
  with_reducible repeat' first | apply goesOn.next | split
  all_goals
    with_reducible repeat' first
      | assumption | apply State.lampPwrWrite_keeps | simp only [Keeps.upd_iff] | split

theorem execLampIdent_goes (t : Nat) (s : State) : goesOn (execLampIdent t s) (Keeps s) := by
  have h := Keeps.refl s
  unfold execLampIdent
  with_reducible repeat' first | apply goesOn.next | split
  all_goals
    with_reducible repeat' first
      | assumption | apply State.lampIdent_keeps | simp only [Keeps.upd_iff] | split

theorem execLampOverload_goes (s : State) : goesOn (execLampOverload s) (Keeps s) := by
  have h := Keeps.refl s
  unfold execLampOverload
  with_reducible repeat' first | apply goesOn.next | split
  all_goals
    with_reducible repeat' first
      | assumption | apply State.put_keeps | simp only [Keeps.upd_iff] | split

theorem execLhRead_goes (s : State) : goesOn (execLhRead s) (Keeps s) := by
  have h := Keeps.refl s
  unfold execLhRead
  with_reducible repeat' first | apply goesOn.next | split
  all_goals
    with_reducible repeat' first
      | assumption | apply State.lampRead_keeps | simp only [Keeps.upd_iff] | split

theorem execSigVerify_goes (s : State) : goesOn (execSigVerify s) (Keeps s) := by
  have h := Keeps.refl s
  unfold execSigVerify
  with_reducible repeat' first | apply goesOn.next | split
  all_goals
    with_reducible repeat' first
      | assumption | apply State.sigVerify_keeps | simp only [Keeps.upd_iff] | split

theorem execLhSeti_goes (s : State) : goesOn (execLhSeti s) (Keeps s) := by
  have h := Keeps.refl s
  unfold execLhSeti
  with_reducible repeat' first | apply goesOn.next | split
  all_goals
    with_reducible repeat' first
      | assumption | apply State.lampSeti_keeps | simp only [Keeps.upd_iff] | split

theorem execLhLifeAdd_goes (s : State) : goesOn (execLhLifeAdd s) (Keeps s) := by
  have h := Keeps.refl s
  unfold execLhLifeAdd
  with_reducible repeat' first | apply goesOn.next | split
  all_goals
    with_reducible repeat' first
      | assumption | apply State.lampLifeAdd_keeps | simp only [Keeps.upd_iff] | split

theorem execLhStat_goes (s : State) : goesOn (execLhStat s) (Keeps s) := by
  have h := Keeps.refl s
  unfold execLhStat
  with_reducible repeat' first | apply goesOn.next | split
  all_goals
    with_reducible repeat' first
      | assumption | apply State.lampStat_keeps | simp only [Keeps.upd_iff] | split

theorem execLhRetry_goes (s : State) : goesOn (execLhRetry s) (Keeps s) := by
  have h := Keeps.refl s
  unfold execLhRetry
  with_reducible repeat' first | apply goesOn.next | split
  all_goals
    with_reducible repeat' first
      | assumption | apply State.lampRetry_keeps | simp only [Keeps.upd_iff] | split

theorem execLhResponse_goes (sync cells : List Bool) (t : Nat) (s : State) : goesOn (execLhResponse sync cells t s) (Keeps s) := by
  have h := Keeps.refl s
  unfold execLhResponse
  with_reducible repeat' first | apply goesOn.next | split
  all_goals
    with_reducible repeat' first
      | assumption | apply State.lampResponse_keeps | simp only [Keeps.upd_iff] | split

end Sys2Proof.Machine
end

