-- ==== Sys2Proof/Laws/KeepsReadout.lean ====
section
/-! SUPPORT. What no operation of `Machine/Readout.lean` does (`Keeps`), one lemma per operation, and that each command goes on. -/
namespace Sys2Proof.Machine
set_option linter.unusedVariables false
set_option linter.unusedSimpArgs false

section
variable {s t : State}

theorem State.gridRestart_keeps (e : Nat) (phase : Frac) (h : Keeps s t) : Keeps s (State.gridRestart t e phase) := by
  unfold State.gridRestart
  with_reducible repeat' first
    | assumption | simp only [Keeps.upd_iff] | split

theorem State.rowSample_keeps (b : Nat) (h : Keeps s t) : Keeps s (State.rowSample t b) := by
  unfold State.rowSample
  with_reducible repeat' first
    | assumption | apply State.setBankRun_keeps | apply State.slackWith_keeps | apply State.put_keeps | apply State.at_keeps
    | simp only [Keeps.upd_iff] | split

theorem State.setStack_keeps (n : Nat) (f : StackLine → StackLine) (h : Keeps s t) : Keeps s (State.setStack t n f) := by
  unfold State.setStack
  with_reducible repeat' first
    | assumption | simp only [Keeps.upd_iff] | split

theorem State.stackDone_keeps (n : Nat) (h : Keeps s t) : Keeps s (State.stackDone t n) := by
  unfold State.stackDone
  with_reducible repeat' first
    | assumption | apply State.setStack_keeps | apply State.raiseBy_keeps | simp only [Keeps.upd_iff] | split

theorem State.frameDone_keeps (f : FrameRun) (h : Keeps s t) : Keeps s (State.frameDone t f) := by
  unfold State.frameDone
  with_reducible repeat' first
    | assumption | apply State.ringOverflow_keeps | apply State.ringDrop_keeps | refine State.ringPut_out ‹_› ?_
    | simp only [Keeps.upd_iff] | split

theorem State.rowDelivered_keeps (h_ : HeldRow) (d : RowData) (h : Keeps s t) : Keeps s (State.rowDelivered t h_ d) := by
  unfold State.rowDelivered
  with_reducible repeat' first
    | assumption | apply State.frameDone_keeps | apply State.stackDone_keeps | apply State.setStack_keeps
    | simp only [Keeps.upd_iff] | split

theorem State.rowConversion_keeps (b : Nat) (x : RawRow) (h : Keeps s t) : Keeps s (State.rowConversion t b x) := by
  unfold State.rowConversion
  with_reducible repeat' first
    | assumption | apply State.rowDelivered_keeps | apply State.setBankRun_keeps | apply State.raise_keeps
    | apply State.at_keeps | simp only [Keeps.upd_iff] | split

theorem State.lineExposed_keeps (x n : Nat) (h : Keeps s t) : Keeps s (State.lineExposed t x n) := by
  unfold State.lineExposed
  with_reducible repeat' first
    | assumption | simp only [Keeps.upd_iff] | split

theorem State.frameExposed_keeps (n : Nat) (h : Keeps s t) : Keeps s (State.frameExposed t n) := by
  unfold State.frameExposed
  with_reducible repeat' first
    | assumption | simp only [Keeps.upd_iff] | split

end

theorem execRowSample_goes (b : Fin 4) (s : State) : goesOn (execRowSample b s) (Keeps s) := by
  have h := Keeps.refl s
  unfold execRowSample
  with_reducible repeat' first | apply goesOn.next | split
  all_goals
    with_reducible repeat' first
      | assumption | apply State.rowSample_keeps | simp only [Keeps.upd_iff] | split

theorem execRowConversionDone_goes (b : Fin 4) (rest : Nat) (dark cols : List (Nat × Nat)) (s : State) : goesOn
    (execRowConversionDone b rest dark cols s) (Keeps s) := by
  have h := Keeps.refl s
  unfold execRowConversionDone
  with_reducible repeat' first | apply goesOn.next | split
  all_goals
    with_reducible repeat' first
      | assumption | apply State.rowConversion_keeps | simp only [Keeps.upd_iff] | split

end Sys2Proof.Machine
end

