-- ==== Sys2Proof/Laws/KeepsEngine.lean ====
section
/-! SUPPORT. What no operation of `Machine/Engine.lean` does (`Keeps`), one lemma per operation, and that each command goes on. -/
namespace Sys2Proof.Machine
set_option linter.unusedVariables false
set_option linter.unusedSimpArgs false

section
variable {s t : State}

theorem State.leave_keeps (sh n : Nat) (token : Bool) (h : Keeps s t) : Keeps s (State.leave t sh n token) := by
  unfold State.leave
  with_reducible repeat' first
    | assumption | apply State.linesSettle_keeps | apply State.setLine_keeps | apply State.put64_keeps
    | simp only [Keeps.upd_iff] | split

theorem State.giveUp_keeps (sh n reason : Nat) (h : Keeps s t) : Keeps s (State.giveUp t sh n reason) := by
  unfold State.giveUp
  with_reducible repeat' first
    | assumption | apply State.leave_keeps | apply State.setEngine_keeps | apply State.addReport_keeps
    | simp only [Keeps.upd_iff] | split

theorem State.leaveRest_keeps (sh : Nat) (h : Keeps s t) : Keeps s (State.leaveRest t sh) := by
  unfold State.leaveRest
  with_reducible repeat' first
    | assumption | apply State.leave_keeps | apply State.setEngine_keeps | refine Keeps.foldl _ (fun _ _ _ => ?_) ?_
    | simp only [Keeps.upd_iff] | split

theorem State.overrun_keeps (sh n : Nat) (h : Keeps s t) : Keeps s (State.overrun t sh n) := by
  unfold State.overrun
  with_reducible repeat' first
    | assumption | apply State.giveUp_keeps | apply State.bump_keeps | apply State.raise_keeps | simp only [Keeps.upd_iff]
    | split

theorem State.release_keeps (sh : Nat) (h : Keeps s t) : Keeps s (State.release t sh) := by
  unfold State.release
  with_reducible repeat' first
    | assumption | apply State.shShow_keeps | apply State.setEngine_keeps | apply State.put_keeps | simp only [Keeps.upd_iff]
    | split

theorem State.discardIf_keeps (sh : Nat) (f : Nat → Bool) (h : Keeps s t) : Keeps s (State.discardIf t sh f) := by
  unfold State.discardIf
  with_reducible repeat' first
    | assumption | apply State.overrun_keeps | apply State.setEngine_keeps | refine Keeps.foldl _ (fun _ _ _ => ?_) ?_
    | simp only [Keeps.upd_iff] | split

theorem State.releaseBy_keeps (sh : Nat) (l : Line) (h : Keeps s t) : Keeps s (State.releaseBy t sh l) := by
  unfold State.releaseBy
  with_reducible repeat' first
    | assumption | apply State.discardIf_keeps | apply State.release_keeps | simp only [Keeps.upd_iff] | split

theorem State.intakePush_keeps (sh : Nat) (h : Keeps s t) : Keeps s (State.intakePush t sh) := by
  unfold State.intakePush
  with_reducible repeat' first
    | assumption | apply State.releaseBy_keeps | apply State.overrun_keeps | apply State.setStack_keeps
    | apply State.shShow_keeps | apply State.setEngine_keeps | simp only [Keeps.upd_iff] | split

theorem State.setReg__keeps (sh : Nat) (r : Registration) (h : Keeps s t) : Keeps s (State.setReg_ t sh r) := by
  unfold State.setReg_
  with_reducible repeat' first
    | assumption | simp only [Keeps.upd_iff] | split

theorem State.regShow_keeps (sh : Nat) (on : Bool) (h : Keeps s t) : Keeps s (State.regShow t sh on) := by
  unfold State.regShow
  with_reducible repeat' first
    | assumption | apply State.put_keeps | simp only [Keeps.upd_iff] | split

theorem State.regSync_keeps (x sh : Nat) (h : Keeps s t) : Keeps s (State.regSync t x sh) := by
  unfold State.regSync
  with_reducible repeat' first
    | assumption | apply State.regShow_keeps | apply State.setReg_keeps | simp only [Keeps.upd_iff] | split

theorem State.proofDiscard_keeps (sh : Nat) (h : Keeps s t) : Keeps s (State.proofDiscard t sh) := by
  unfold State.proofDiscard
  with_reducible repeat' first
    | assumption | apply State.setEngine_keeps | simp only [Keeps.upd_iff] | split

theorem State.register_keeps (sh : Nat) (l : Line) (o : Option (List Nat)) (h : Keeps s t) : Keeps s (State.register t sh l o) :=
    by
  unfold State.register
  with_reducible repeat' first
    | assumption | apply State.proofDiscard_keeps | apply State.regSync_keeps | apply State.regShow_keeps
    | apply State.setReg__keeps | apply State.raise_keeps | simp only [Keeps.upd_iff] | split

theorem State.proofPrune_keeps (sh : Nat) (h : Keeps s t) : Keeps s (State.proofPrune t sh) := by
  unfold State.proofPrune
  with_reducible repeat' first
    | assumption | apply State.setEngine_keeps | simp only [Keeps.upd_iff] | split

theorem State.ddrLatency_keeps (lo n lat : Nat) (h : Keeps s t) : Keeps s (State.ddrLatency t lo n lat) := by
  unfold State.ddrLatency
  with_reducible repeat' first
    | assumption | apply State.monEnter_keeps | refine Keeps.foldl _ (fun _ _ _ => ?_) ?_ | simp only [Keeps.upd_iff] | split

theorem State.proofFetch_keeps (sh lat : Nat) (h : Keeps s t) : Keeps s (State.proofFetch t sh lat) := by
  unfold State.proofFetch
  with_reducible repeat' first
    | assumption | apply State.ddrLatency_keeps | apply State.proofPrune_keeps | apply State.shShow_keeps
    | apply State.setEngine_keeps | apply State.ddrRead_keeps | simp only [Keeps.upd_iff] | split

theorem State.gapOf_keeps (sh n : Nat) (h : Keeps s t) : Keeps s (State.gapOf t sh n).2 := by
  unfold State.gapOf
  with_reducible repeat' first
    | assumption | refine State.fresh_out ‹_› ?_ | apply State.fresh_keeps | simp only [Keeps.upd_iff] | split

theorem State.gapOf_out {sh n : Nat} {u : State} {out : Nat} (e : State.gapOf t sh n = (out, u)) (h : Keeps s t) : Keeps s u := by
  have k := State.gapOf_keeps sh n h
  rwa [e] at k

theorem State.enterWith_keeps (gap sh : Nat) (i : Intake) (l : Line) (w : List ProofEntry) (init : Bool) (t_ wdog base : Nat)
    (h : Keeps s t) : Keeps s (State.enterWith t gap sh i l w init t_ wdog base) := by
  unfold State.enterWith
  with_reducible repeat' first
    | assumption | apply State.shShow_keeps | apply State.setEngine_keeps | apply State.put_keeps
    | apply State.setBytes_keeps | simp only [Keeps.upd_iff] | split

theorem State.enter_keeps (sh : Nat) (i : Intake) (l : Line) (w : List ProofEntry) (init : Bool) (t_ wdog base : Nat)
    (h : Keeps s t) : Keeps s (State.enter t sh i l w init t_ wdog base) := by
  unfold State.enter
  with_reducible repeat' first
    | assumption | apply State.enterWith_keeps | refine State.gapOf_out ‹_› ?_ | apply State.gapOf_keeps
    | simp only [Keeps.upd_iff] | split

theorem State.kernelEntry_keeps (sh t_ : Nat) (h : Keeps s t) : Keeps s (State.kernelEntry t sh t_) := by
  unfold State.kernelEntry
  with_reducible repeat' first
    | assumption | apply State.enter_keeps | apply State.at_keeps | simp only [Keeps.upd_iff] | split

theorem State.initEntry_keeps (sh t_ : Nat) (h : Keeps s t) : Keeps s (State.initEntry t sh t_) := by
  unfold State.initEntry
  with_reducible repeat' first
    | assumption | apply State.enter_keeps | apply State.at_keeps | simp only [Keeps.upd_iff] | split

theorem State.claim_keeps (sh : Nat) (r : Run) (h : Keeps s t) : Keeps s (State.claim t sh r).1 := by
  unfold State.claim
  with_reducible repeat' first
    | assumption | apply State.addReport_keeps | apply State.bump_keeps | apply State.raise_keeps | simp only [Keeps.upd_iff]
    | split

theorem State.claim_out {sh : Nat} {r : Run} {u : State} {out : Run} (e : State.claim t sh r = (u, out)) (h : Keeps s t) : Keeps
    s u := by
  have k := State.claim_keeps sh r h
  rwa [e] at k

theorem State.shMonitors_keeps (sh cycles : Nat) (slack : Int) (h : Keeps s t) : Keeps s (State.shMonitors t sh cycles slack) := by
  unfold State.shMonitors
  with_reducible repeat' first
    | assumption | apply State.put_keeps | apply State.monEnter_keeps | simp only [Keeps.upd_iff] | split

theorem State.endLine_keeps (sh : Nat) (r0 : Run) (c t_ : Nat) (h : Keeps s t) : Keeps s (State.endLine t sh r0 c t_) := by
  unfold State.endLine
  with_reducible repeat' first
    | assumption | apply State.shMonitors_keeps | refine State.claim_out ‹_› ?_ | apply State.proofPrune_keeps
    | apply State.register_keeps | apply State.leaveRest_keeps | apply State.leave_keeps | apply State.shShow_keeps
    | apply State.setEngine_keeps | apply State.addReport_keeps | apply State.claim_keeps | simp only [Keeps.upd_iff] | split

theorem State.endRun_keeps (sh c : Nat) (h : Keeps s t) : Keeps s (State.endRun t sh c) := by
  unfold State.endRun
  with_reducible repeat' first
    | assumption | apply State.endLine_keeps | apply State.enterWith_keeps | apply State.shShow_keeps
    | apply State.setEngine_keeps | apply State.at_keeps | simp only [Keeps.upd_iff] | split

theorem State.abortRun_keeps (sh : Nat) (h : Keeps s t) : Keeps s (State.abortRun t sh) := by
  unfold State.abortRun
  with_reducible repeat' first
    | assumption | apply State.proofPrune_keeps | apply State.overrun_keeps | apply State.leaveRest_keeps
    | apply State.shShow_keeps | apply State.setEngine_keeps | simp only [Keeps.upd_iff] | split

theorem State.watchdogAbort_keeps (sh : Nat) (h : Keeps s t) : Keeps s (State.watchdogAbort t sh) := by
  unfold State.watchdogAbort
  with_reducible repeat' first
    | assumption | apply State.abortRun_keeps | apply State.bump_keeps | apply State.raise_keeps | simp only [Keeps.upd_iff]
    | split

theorem State.engineFault_keeps (sh code pc addr : Nat) (h : Keeps s t) : Keeps s (State.engineFault t sh code pc addr) := by
  unfold State.engineFault
  with_reducible repeat' first
    | assumption | apply State.proofPrune_keeps | apply State.overrun_keeps | apply State.leaveRest_keeps
    | apply State.shShow_keeps | apply State.setEngine_keeps | apply State.put_keeps | apply State.raise_keeps
    | simp only [Keeps.upd_iff] | split

theorem State.proofLate_keeps (sh : Nat) (h : Keeps s t) : Keeps s (State.proofLate t sh) := by
  unfold State.proofLate
  with_reducible repeat' first
    | assumption | apply State.proofPrune_keeps | apply State.giveUp_keeps | apply State.shShow_keeps
    | apply State.setEngine_keeps | apply State.bump_keeps | apply State.raise_keeps | simp only [Keeps.upd_iff] | split

theorem State.enginesEdge_keeps (h : Keeps s t) : Keeps s (State.enginesEdge t) := by
  unfold State.enginesEdge
  with_reducible repeat' first
    | assumption | apply State.proofLate_keeps | refine Keeps.foldl _ (fun _ _ _ => ?_) ?_ | simp only [Keeps.upd_iff]
    | split

end

theorem execEngineRestart_goes (sh : Fin 192) (s : State) : goesOn (execEngineRestart sh s) (Keeps s) := by
  have h := Keeps.refl s
  unfold execEngineRestart
  with_reducible repeat' first | apply goesOn.next | split
  all_goals
    with_reducible repeat' first
      | assumption | apply State.release_keeps | simp only [Keeps.upd_iff] | split

theorem execEngineHalt_goes (sh : Fin 192) (v : Word) (s : State) : goesOn (execEngineHalt sh v s) (Keeps s) := by
  have h := Keeps.refl s
  unfold execEngineHalt
  with_reducible repeat' first | apply goesOn.next | split
  all_goals
    with_reducible repeat' first
      | assumption | apply State.shShow_keeps | apply State.put_keeps | simp only [Keeps.upd_iff] | split

theorem execShMonClr_goes (sh : Fin 192) (s : State) : goesOn (execShMonClr sh s) (Keeps s) := by
  have h := Keeps.refl s
  unfold execShMonClr
  with_reducible repeat' first | apply goesOn.next | split
  all_goals
    with_reducible repeat' first
      | assumption | apply State.monClear_keeps | simp only [Keeps.upd_iff] | split

theorem execIntakePush_goes (sh : Fin 192) (s : State) : goesOn (execIntakePush sh s) (Keeps s) := by
  have h := Keeps.refl s
  unfold execIntakePush
  with_reducible repeat' first | apply goesOn.next | split
  all_goals
    with_reducible repeat' first
      | assumption | apply State.proofPrune_keeps | apply State.intakePush_keeps | apply State.shShow_keeps
      | simp only [Keeps.upd_iff] | split

theorem execProofLineFetch_goes (sh : Fin 192) (lat : Nat) (s : State) : goesOn (execProofLineFetch sh lat s) (Keeps s) := by
  have h := Keeps.refl s
  unfold execProofLineFetch
  with_reducible repeat' first | apply goesOn.next | split
  all_goals
    with_reducible repeat' first
      | assumption | apply State.proofFetch_keeps | simp only [Keeps.upd_iff] | split

theorem execKernelEntry_goes (sh : Fin 192) (t : Nat) (s : State) : goesOn (execKernelEntry sh t s) (Keeps s) := by
  have h := Keeps.refl s
  unfold execKernelEntry
  with_reducible repeat' first | apply goesOn.next | split
  all_goals
    with_reducible repeat' first
      | assumption | apply State.kernelEntry_keeps | simp only [Keeps.upd_iff] | split

theorem execInitEntry_goes (sh : Fin 192) (t : Nat) (s : State) : goesOn (execInitEntry sh t s) (Keeps s) := by
  have h := Keeps.refl s
  unfold execInitEntry
  with_reducible repeat' first | apply goesOn.next | split
  all_goals
    with_reducible repeat' first
      | assumption | apply State.initEntry_keeps | simp only [Keeps.upd_iff] | split

theorem execWatchdogAbort_goes (sh : Fin 192) (s : State) : goesOn (execWatchdogAbort sh s) (Keeps s) := by
  have h := Keeps.refl s
  unfold execWatchdogAbort
  with_reducible repeat' first | apply goesOn.next | split
  all_goals
    with_reducible repeat' first
      | assumption | apply State.watchdogAbort_keeps | simp only [Keeps.upd_iff] | split

end Sys2Proof.Machine
end

