-- ==== Sys2Proof/Laws/KeepsFlags.lean ====
section
/-! SUPPORT. What no operation of `Machine/Flags.lean` does (`Keeps`), one lemma per operation. -/
namespace Sys2Proof.Machine
set_option linter.unusedVariables false
set_option linter.unusedSimpArgs false

section
variable {s t : State}

end
end Sys2Proof.Machine
end

