-- ==== Sys2Proof/Laws/KeepsThatch.lean ====
section
/-! SUPPORT. What no operation of `Machine/Thatch.lean` does (`Keeps`), one lemma per operation, and that each command goes on. -/
namespace Sys2Proof.Machine
set_option linter.unusedVariables false
set_option linter.unusedSimpArgs false

section
variable {s t : State}

theorem State.issueAt_keeps (r : Run) (lo hi : Nat) (h : Keeps s t) : Keeps s (State.issueAt t r lo hi).2 := by
  unfold State.issueAt
  with_reducible repeat' first
    | assumption | refine State.fresh_out ‹_› ?_ | apply State.fresh_keeps | simp only [Keeps.upd_iff] | split

theorem State.issueAt_out {r : Run} {lo hi : Nat} {u : State} {out : Nat} (e : State.issueAt t r lo hi = (out, u))
    (h : Keeps s t) : Keeps s u := by
  have k := State.issueAt_keeps r lo hi h
  rwa [e] at k

theorem State.doEmit_keeps (sh : Nat) (r : Run) (b : List Nat) (h : Keeps s t) : Keeps s (State.doEmit t sh r b).1 := by
  unfold State.doEmit
  with_reducible repeat' first
    | assumption | refine State.claim_out ‹_› ?_ | apply State.bump_keeps | apply State.raise_keeps | apply State.claim_keeps
    | simp only [Keeps.upd_iff] | split

theorem State.doEmit_out {sh : Nat} {r : Run} {b : List Nat} {u : State} {out : Run} (e : State.doEmit t sh r b = (u, out))
    (h : Keeps s t) : Keeps s u := by
  have k := State.doEmit_keeps sh r b h
  rwa [e] at k

theorem State.doDev_keeps (sh : Nat) (r : Run) (band : Nat) (ls : List (Nat × Half)) (h : Keeps s t) : Keeps s
    (State.doDev t sh r band ls).1 := by
  unfold State.doDev
  with_reducible repeat' first
    | assumption | refine State.claim_out ‹_› ?_ | apply State.claim_keeps | simp only [Keeps.upd_iff] | split

theorem State.doDev_out {sh : Nat} {r : Run} {band : Nat} {ls : List (Nat × Half)} {u : State} {out : Run}
    (e : State.doDev t sh r band ls = (u, out)) (h : Keeps s t) : Keeps s u := by
  have k := State.doDev_keeps sh r band ls h
  rwa [e] at k

theorem storeAll_keeps (xs : List (Nat × Nat)) (h : Keeps s t) : Keeps s (storeAll t xs) := by
  unfold storeAll
  with_reducible repeat' first
    | assumption | apply State.setByte_keeps | refine Keeps.foldl _ (fun _ _ _ => ?_) ?_ | simp only [Keeps.upd_iff] | split

theorem State.loftStart_keeps (sh c : Nat) (r : Run) (o : SlotOut) (h : Keeps s t) : Keeps s (State.loftStart t sh c r o).2 := by
  unfold State.loftStart
  with_reducible repeat' first
    | assumption | refine State.fresh_out ‹_› ?_ | apply State.fresh_keeps | simp only [Keeps.upd_iff] | split

theorem State.loftStart_out {sh c : Nat} {r : Run} {o : SlotOut} {u : State} {out : (SlotOut × Run)}
    (e : State.loftStart t sh c r o = (out, u)) (h : Keeps s t) : Keeps s u := by
  have k := State.loftStart_keeps sh c r o h
  rwa [e] at k

theorem State.output_keeps (sh : Nat) (r : Run) (a b : SlotOut) (h : Keeps s t) : Keeps s (State.output t sh r a b).1 := by
  unfold State.output
  with_reducible repeat' first
    | assumption | refine State.doDev_out ‹_› ?_ | refine State.doEmit_out ‹_› ?_ | apply State.doDev_keeps
    | apply State.doEmit_keeps | simp only [Keeps.upd_iff] | split

theorem State.output_out {sh : Nat} {r : Run} {a b : SlotOut} {u : State} {out : Run} (e : State.output t sh r a b = (u, out))
    (h : Keeps s t) : Keeps s u := by
  have k := State.output_keeps sh r a b h
  rwa [e] at k

theorem State.stepWord_keeps (sh : Nat) (r : Run) (w : Nat) (h : Keeps s t) : Keeps s (State.stepWord t sh r w) := by
  unfold State.stepWord
  with_reducible repeat' first
    | assumption | refine State.output_out ‹_› ?_ | refine State.loftStart_out ‹_› ?_ | apply storeAll_keeps
    | refine State.issueAt_out ‹_› ?_ | apply State.engineFault_keeps | apply State.endRun_keeps | apply State.shShow_keeps
    | apply State.setEngine_keeps | apply State.at_keeps | apply State.output_keeps | apply State.loftStart_keeps
    | apply State.issueAt_keeps | simp only [Keeps.upd_iff] | split

theorem State.issue_keeps (sh : Nat) (w : Nat) (h : Keeps s t) : Keeps s (State.issue t sh w) := by
  unfold State.issue
  with_reducible repeat' first
    | assumption | apply State.stepWord_keeps | simp only [Keeps.upd_iff] | split

end

theorem execSnop_goes (sh : Fin 192) (d a : BitVec 5) (imm : BitVec 16) (vec : Word) (s : State) : goesOn
    (execSnop sh d a imm vec s) (Keeps s) :=
  ⟨_, rfl, State.issue_keeps _ _ (Keeps.refl s)⟩

theorem execAdd_goes (sh : Fin 192) (d a b : BitVec 5) (rsv : BitVec 11) (vec : Word) (s : State) : goesOn
    (execAdd sh d a b rsv vec s) (Keeps s) :=
  ⟨_, rfl, State.issue_keeps _ _ (Keeps.refl s)⟩

theorem execSub_goes (sh : Fin 192) (d a b : BitVec 5) (rsv : BitVec 11) (vec : Word) (s : State) : goesOn
    (execSub sh d a b rsv vec s) (Keeps s) :=
  ⟨_, rfl, State.issue_keeps _ _ (Keeps.refl s)⟩

theorem execAnd_goes (sh : Fin 192) (d a b : BitVec 5) (rsv : BitVec 11) (vec : Word) (s : State) : goesOn
    (execAnd sh d a b rsv vec s) (Keeps s) :=
  ⟨_, rfl, State.issue_keeps _ _ (Keeps.refl s)⟩

theorem execOr_goes (sh : Fin 192) (d a b : BitVec 5) (rsv : BitVec 11) (vec : Word) (s : State) : goesOn
    (execOr sh d a b rsv vec s) (Keeps s) :=
  ⟨_, rfl, State.issue_keeps _ _ (Keeps.refl s)⟩

theorem execXor_goes (sh : Fin 192) (d a b : BitVec 5) (rsv : BitVec 11) (vec : Word) (s : State) : goesOn
    (execXor sh d a b rsv vec s) (Keeps s) :=
  ⟨_, rfl, State.issue_keeps _ _ (Keeps.refl s)⟩

theorem execShl_goes (sh : Fin 192) (d a b : BitVec 5) (rsv : BitVec 11) (vec : Word) (s : State) : goesOn
    (execShl sh d a b rsv vec s) (Keeps s) :=
  ⟨_, rfl, State.issue_keeps _ _ (Keeps.refl s)⟩

theorem execShr_goes (sh : Fin 192) (d a b : BitVec 5) (rsv : BitVec 11) (vec : Word) (s : State) : goesOn
    (execShr sh d a b rsv vec s) (Keeps s) :=
  ⟨_, rfl, State.issue_keeps _ _ (Keeps.refl s)⟩

theorem execSra_goes (sh : Fin 192) (d a b : BitVec 5) (rsv : BitVec 11) (vec : Word) (s : State) : goesOn
    (execSra sh d a b rsv vec s) (Keeps s) :=
  ⟨_, rfl, State.issue_keeps _ _ (Keeps.refl s)⟩

theorem execMul_goes (sh : Fin 192) (d a b : BitVec 5) (rsv : BitVec 11) (vec : Word) (s : State) : goesOn
    (execMul sh d a b rsv vec s) (Keeps s) :=
  ⟨_, rfl, State.issue_keeps _ _ (Keeps.refl s)⟩

theorem execMin_goes (sh : Fin 192) (d a b : BitVec 5) (rsv : BitVec 11) (vec : Word) (s : State) : goesOn
    (execMin sh d a b rsv vec s) (Keeps s) :=
  ⟨_, rfl, State.issue_keeps _ _ (Keeps.refl s)⟩

theorem execMax_goes (sh : Fin 192) (d a b : BitVec 5) (rsv : BitVec 11) (vec : Word) (s : State) : goesOn
    (execMax sh d a b rsv vec s) (Keeps s) :=
  ⟨_, rfl, State.issue_keeps _ _ (Keeps.refl s)⟩

theorem execAddi_goes (sh : Fin 192) (d a : BitVec 5) (imm : BitVec 16) (vec : Word) (s : State) : goesOn
    (execAddi sh d a imm vec s) (Keeps s) :=
  ⟨_, rfl, State.issue_keeps _ _ (Keeps.refl s)⟩

theorem execAndi_goes (sh : Fin 192) (d a : BitVec 5) (imm : BitVec 16) (vec : Word) (s : State) : goesOn
    (execAndi sh d a imm vec s) (Keeps s) :=
  ⟨_, rfl, State.issue_keeps _ _ (Keeps.refl s)⟩

theorem execOri_goes (sh : Fin 192) (d a : BitVec 5) (imm : BitVec 16) (vec : Word) (s : State) : goesOn
    (execOri sh d a imm vec s) (Keeps s) :=
  ⟨_, rfl, State.issue_keeps _ _ (Keeps.refl s)⟩

theorem execShli_goes (sh : Fin 192) (d a : BitVec 5) (imm : BitVec 16) (vec : Word) (s : State) : goesOn
    (execShli sh d a imm vec s) (Keeps s) :=
  ⟨_, rfl, State.issue_keeps _ _ (Keeps.refl s)⟩

theorem execShri_goes (sh : Fin 192) (d a : BitVec 5) (imm : BitVec 16) (vec : Word) (s : State) : goesOn
    (execShri sh d a imm vec s) (Keeps s) :=
  ⟨_, rfl, State.issue_keeps _ _ (Keeps.refl s)⟩

theorem execSrai_goes (sh : Fin 192) (d a : BitVec 5) (imm : BitVec 16) (vec : Word) (s : State) : goesOn
    (execSrai sh d a imm vec s) (Keeps s) :=
  ⟨_, rfl, State.issue_keeps _ _ (Keeps.refl s)⟩

theorem execLui_goes (sh : Fin 192) (d a : BitVec 5) (imm : BitVec 16) (vec : Word) (s : State) : goesOn
    (execLui sh d a imm vec s) (Keeps s) :=
  ⟨_, rfl, State.issue_keeps _ _ (Keeps.refl s)⟩

theorem execLdw_goes (sh : Fin 192) (d a : BitVec 5) (imm : BitVec 16) (vec : Word) (s : State) : goesOn
    (execLdw sh d a imm vec s) (Keeps s) :=
  ⟨_, rfl, State.issue_keeps _ _ (Keeps.refl s)⟩

theorem execLdhu_goes (sh : Fin 192) (d a : BitVec 5) (imm : BitVec 16) (vec : Word) (s : State) : goesOn
    (execLdhu sh d a imm vec s) (Keeps s) :=
  ⟨_, rfl, State.issue_keeps _ _ (Keeps.refl s)⟩

theorem execLdbu_goes (sh : Fin 192) (d a : BitVec 5) (imm : BitVec 16) (vec : Word) (s : State) : goesOn
    (execLdbu sh d a imm vec s) (Keeps s) :=
  ⟨_, rfl, State.issue_keeps _ _ (Keeps.refl s)⟩

theorem execStw_goes (sh : Fin 192) (d a : BitVec 5) (imm : BitVec 16) (vec : Word) (s : State) : goesOn
    (execStw sh d a imm vec s) (Keeps s) :=
  ⟨_, rfl, State.issue_keeps _ _ (Keeps.refl s)⟩

theorem execSth_goes (sh : Fin 192) (d a : BitVec 5) (imm : BitVec 16) (vec : Word) (s : State) : goesOn
    (execSth sh d a imm vec s) (Keeps s) :=
  ⟨_, rfl, State.issue_keeps _ _ (Keeps.refl s)⟩

theorem execStb_goes (sh : Fin 192) (d a : BitVec 5) (imm : BitVec 16) (vec : Word) (s : State) : goesOn
    (execStb sh d a imm vec s) (Keeps s) :=
  ⟨_, rfl, State.issue_keeps _ _ (Keeps.refl s)⟩

theorem execLlw_goes (sh : Fin 192) (d a : BitVec 5) (imm : BitVec 16) (vec : Word) (s : State) : goesOn
    (execLlw sh d a imm vec s) (Keeps s) :=
  ⟨_, rfl, State.issue_keeps _ _ (Keeps.refl s)⟩

theorem execLsw_goes (sh : Fin 192) (d a : BitVec 5) (imm : BitVec 16) (vec : Word) (s : State) : goesOn
    (execLsw sh d a imm vec s) (Keeps s) :=
  ⟨_, rfl, State.issue_keeps _ _ (Keeps.refl s)⟩

theorem execBeq_goes (sh : Fin 192) (d a : BitVec 5) (tgt : BitVec 12) (rsv : BitVec 4) (vec : Word) (s : State) : goesOn
    (execBeq sh d a tgt rsv vec s) (Keeps s) :=
  ⟨_, rfl, State.issue_keeps _ _ (Keeps.refl s)⟩

theorem execBne_goes (sh : Fin 192) (d a : BitVec 5) (tgt : BitVec 12) (rsv : BitVec 4) (vec : Word) (s : State) : goesOn
    (execBne sh d a tgt rsv vec s) (Keeps s) :=
  ⟨_, rfl, State.issue_keeps _ _ (Keeps.refl s)⟩

theorem execBlt_goes (sh : Fin 192) (d a : BitVec 5) (tgt : BitVec 12) (rsv : BitVec 4) (vec : Word) (s : State) : goesOn
    (execBlt sh d a tgt rsv vec s) (Keeps s) :=
  ⟨_, rfl, State.issue_keeps _ _ (Keeps.refl s)⟩

theorem execBge_goes (sh : Fin 192) (d a : BitVec 5) (tgt : BitVec 12) (rsv : BitVec 4) (vec : Word) (s : State) : goesOn
    (execBge sh d a tgt rsv vec s) (Keeps s) :=
  ⟨_, rfl, State.issue_keeps _ _ (Keeps.refl s)⟩

theorem execJal_goes (sh : Fin 192) (d a : BitVec 5) (tgt : BitVec 12) (rsv : BitVec 4) (vec : Word) (s : State) : goesOn
    (execJal sh d a tgt rsv vec s) (Keeps s) :=
  ⟨_, rfl, State.issue_keeps _ _ (Keeps.refl s)⟩

theorem execJr_goes (sh : Fin 192) (d a : BitVec 5) (imm : BitVec 16) (vec : Word) (s : State) : goesOn (execJr sh d a imm vec s)
    (Keeps s) :=
  ⟨_, rfl, State.issue_keeps _ _ (Keeps.refl s)⟩

theorem execGets_goes (sh : Fin 192) (d a : BitVec 5) (imm : BitVec 16) (vec : Word) (s : State) : goesOn
    (execGets sh d a imm vec s) (Keeps s) :=
  ⟨_, rfl, State.issue_keeps _ _ (Keeps.refl s)⟩

theorem execEmit_goes (sh : Fin 192) (d a : BitVec 5) (imm : BitVec 16) (vec : Word) (s : State) : goesOn
    (execEmit sh d a imm vec s) (Keeps s) :=
  ⟨_, rfl, State.issue_keeps _ _ (Keeps.refl s)⟩

theorem execEndRun_goes (sh : Fin 192) (d a : BitVec 5) (imm : BitVec 16) (vec : Word) (s : State) : goesOn
    (execEndRun sh d a imm vec s) (Keeps s) :=
  ⟨_, rfl, State.issue_keeps _ _ (Keeps.refl s)⟩

theorem execVnop_goes (sh : Fin 192) (vd va vb : BitVec 5) (vp : BitVec 3) (vpn bs : Bool) (k : BitVec 6) (scal : Word)
    (s : State) : goesOn (execVnop sh vd va vb vp vpn bs k scal s) (Keeps s) :=
  ⟨_, rfl, State.issue_keeps _ _ (Keeps.refl s)⟩

theorem execVadd_goes (sh : Fin 192) (vd va vb : BitVec 5) (vp : BitVec 3) (vpn bs : Bool) (k : BitVec 6) (scal : Word)
    (s : State) : goesOn (execVadd sh vd va vb vp vpn bs k scal s) (Keeps s) :=
  ⟨_, rfl, State.issue_keeps _ _ (Keeps.refl s)⟩

theorem execVsub_goes (sh : Fin 192) (vd va vb : BitVec 5) (vp : BitVec 3) (vpn bs : Bool) (k : BitVec 6) (scal : Word)
    (s : State) : goesOn (execVsub sh vd va vb vp vpn bs k scal s) (Keeps s) :=
  ⟨_, rfl, State.issue_keeps _ _ (Keeps.refl s)⟩

theorem execVadds_goes (sh : Fin 192) (vd va vb : BitVec 5) (vp : BitVec 3) (vpn bs : Bool) (k : BitVec 6) (scal : Word)
    (s : State) : goesOn (execVadds sh vd va vb vp vpn bs k scal s) (Keeps s) :=
  ⟨_, rfl, State.issue_keeps _ _ (Keeps.refl s)⟩

theorem execVsubs_goes (sh : Fin 192) (vd va vb : BitVec 5) (vp : BitVec 3) (vpn bs : Bool) (k : BitVec 6) (scal : Word)
    (s : State) : goesOn (execVsubs sh vd va vb vp vpn bs k scal s) (Keeps s) :=
  ⟨_, rfl, State.issue_keeps _ _ (Keeps.refl s)⟩

theorem execVsubus_goes (sh : Fin 192) (vd va vb : BitVec 5) (vp : BitVec 3) (vpn bs : Bool) (k : BitVec 6) (scal : Word)
    (s : State) : goesOn (execVsubus sh vd va vb vp vpn bs k scal s) (Keeps s) :=
  ⟨_, rfl, State.issue_keeps _ _ (Keeps.refl s)⟩

theorem execVabsd_goes (sh : Fin 192) (vd va vb : BitVec 5) (vp : BitVec 3) (vpn bs : Bool) (k : BitVec 6) (scal : Word)
    (s : State) : goesOn (execVabsd sh vd va vb vp vpn bs k scal s) (Keeps s) :=
  ⟨_, rfl, State.issue_keeps _ _ (Keeps.refl s)⟩

theorem execVmin_goes (sh : Fin 192) (vd va vb : BitVec 5) (vp : BitVec 3) (vpn bs : Bool) (k : BitVec 6) (scal : Word)
    (s : State) : goesOn (execVmin sh vd va vb vp vpn bs k scal s) (Keeps s) :=
  ⟨_, rfl, State.issue_keeps _ _ (Keeps.refl s)⟩

theorem execVmax_goes (sh : Fin 192) (vd va vb : BitVec 5) (vp : BitVec 3) (vpn bs : Bool) (k : BitVec 6) (scal : Word)
    (s : State) : goesOn (execVmax sh vd va vb vp vpn bs k scal s) (Keeps s) :=
  ⟨_, rfl, State.issue_keeps _ _ (Keeps.refl s)⟩

theorem execVand_goes (sh : Fin 192) (vd va vb : BitVec 5) (vp : BitVec 3) (vpn bs : Bool) (k : BitVec 6) (scal : Word)
    (s : State) : goesOn (execVand sh vd va vb vp vpn bs k scal s) (Keeps s) :=
  ⟨_, rfl, State.issue_keeps _ _ (Keeps.refl s)⟩

theorem execVor_goes (sh : Fin 192) (vd va vb : BitVec 5) (vp : BitVec 3) (vpn bs : Bool) (k : BitVec 6) (scal : Word)
    (s : State) : goesOn (execVor sh vd va vb vp vpn bs k scal s) (Keeps s) :=
  ⟨_, rfl, State.issue_keeps _ _ (Keeps.refl s)⟩

theorem execVshl_goes (sh : Fin 192) (vd va vb : BitVec 5) (vp : BitVec 3) (vpn bs : Bool) (k : BitVec 6) (scal : Word)
    (s : State) : goesOn (execVshl sh vd va vb vp vpn bs k scal s) (Keeps s) :=
  ⟨_, rfl, State.issue_keeps _ _ (Keeps.refl s)⟩

theorem execVshr_goes (sh : Fin 192) (vd va vb : BitVec 5) (vp : BitVec 3) (vpn bs : Bool) (k : BitVec 6) (scal : Word)
    (s : State) : goesOn (execVshr sh vd va vb vp vpn bs k scal s) (Keeps s) :=
  ⟨_, rfl, State.issue_keeps _ _ (Keeps.refl s)⟩

theorem execVsra_goes (sh : Fin 192) (vd va vb : BitVec 5) (vp : BitVec 3) (vpn bs : Bool) (k : BitVec 6) (scal : Word)
    (s : State) : goesOn (execVsra sh vd va vb vp vpn bs k scal s) (Keeps s) :=
  ⟨_, rfl, State.issue_keeps _ _ (Keeps.refl s)⟩

theorem execVmulq_goes (sh : Fin 192) (vd va vb : BitVec 5) (vp : BitVec 3) (vpn bs : Bool) (k : BitVec 6) (scal : Word)
    (s : State) : goesOn (execVmulq sh vd va vb vp vpn bs k scal s) (Keeps s) :=
  ⟨_, rfl, State.issue_keeps _ _ (Keeps.refl s)⟩

theorem execVsel_goes (sh : Fin 192) (vd va vb : BitVec 5) (vp : BitVec 3) (vpn bs : Bool) (k : BitVec 6) (scal : Word)
    (s : State) : goesOn (execVsel sh vd va vb vp vpn bs k scal s) (Keeps s) :=
  ⟨_, rfl, State.issue_keeps _ _ (Keeps.refl s)⟩

theorem execViota_goes (sh : Fin 192) (vd va vb : BitVec 5) (vp : BitVec 3) (vpn bs : Bool) (k : BitVec 6) (scal : Word)
    (s : State) : goesOn (execViota sh vd va vb vp vpn bs k scal s) (Keeps s) :=
  ⟨_, rfl, State.issue_keeps _ _ (Keeps.refl s)⟩

theorem execVlsh_goes (sh : Fin 192) (vd va vb : BitVec 5) (vp : BitVec 3) (vpn bs : Bool) (k : BitVec 6) (scal : Word)
    (s : State) : goesOn (execVlsh sh vd va vb vp vpn bs k scal s) (Keeps s) :=
  ⟨_, rfl, State.issue_keeps _ _ (Keeps.refl s)⟩

theorem execVlerp_goes (sh : Fin 192) (vd va vb : BitVec 5) (vp : BitVec 3) (vpn bs : Bool) (k : BitVec 6) (scal : Word)
    (s : State) : goesOn (execVlerp sh vd va vb vp vpn bs k scal s) (Keeps s) :=
  ⟨_, rfl, State.issue_keeps _ _ (Keeps.refl s)⟩

theorem execVcmpeq_goes (sh : Fin 192) (vd va vb : BitVec 5) (vp : BitVec 3) (vpn bs : Bool) (k : BitVec 6) (scal : Word)
    (s : State) : goesOn (execVcmpeq sh vd va vb vp vpn bs k scal s) (Keeps s) :=
  ⟨_, rfl, State.issue_keeps _ _ (Keeps.refl s)⟩

theorem execVcmplt_goes (sh : Fin 192) (vd va vb : BitVec 5) (vp : BitVec 3) (vpn bs : Bool) (k : BitVec 6) (scal : Word)
    (s : State) : goesOn (execVcmplt sh vd va vb vp vpn bs k scal s) (Keeps s) :=
  ⟨_, rfl, State.issue_keeps _ _ (Keeps.refl s)⟩

theorem execVcmpgt_goes (sh : Fin 192) (vd va vb : BitVec 5) (vp : BitVec 3) (vpn bs : Bool) (k : BitVec 6) (scal : Word)
    (s : State) : goesOn (execVcmpgt sh vd va vb vp vpn bs k scal s) (Keeps s) :=
  ⟨_, rfl, State.issue_keeps _ _ (Keeps.refl s)⟩

theorem execPand_goes (sh : Fin 192) (vd va vb : BitVec 5) (vp : BitVec 3) (vpn bs : Bool) (k : BitVec 6) (scal : Word)
    (s : State) : goesOn (execPand sh vd va vb vp vpn bs k scal s) (Keeps s) :=
  ⟨_, rfl, State.issue_keeps _ _ (Keeps.refl s)⟩

theorem execPor_goes (sh : Fin 192) (vd va vb : BitVec 5) (vp : BitVec 3) (vpn bs : Bool) (k : BitVec 6) (scal : Word)
    (s : State) : goesOn (execPor sh vd va vb vp vpn bs k scal s) (Keeps s) :=
  ⟨_, rfl, State.issue_keeps _ _ (Keeps.refl s)⟩

theorem execPandn_goes (sh : Fin 192) (vd va vb : BitVec 5) (vp : BitVec 3) (vpn bs : Bool) (k : BitVec 6) (scal : Word)
    (s : State) : goesOn (execPandn sh vd va vb vp vpn bs k scal s) (Keeps s) :=
  ⟨_, rfl, State.issue_keeps _ _ (Keeps.refl s)⟩

theorem execPcnt_goes (sh : Fin 192) (vd va vb : BitVec 5) (vp : BitVec 3) (vpn bs : Bool) (k : BitVec 6) (scal : Word)
    (s : State) : goesOn (execPcnt sh vd va vb vp vpn bs k scal s) (Keeps s) :=
  ⟨_, rfl, State.issue_keeps _ _ (Keeps.refl s)⟩

theorem execPfirst_goes (sh : Fin 192) (vd va vb : BitVec 5) (vp : BitVec 3) (vpn bs : Bool) (k : BitVec 6) (scal : Word)
    (s : State) : goesOn (execPfirst sh vd va vb vp vpn bs k scal s) (Keeps s) :=
  ⟨_, rfl, State.issue_keeps _ _ (Keeps.refl s)⟩

theorem execVmac_goes (sh : Fin 192) (vd va vb : BitVec 5) (vp : BitVec 3) (vpn bs : Bool) (k : BitVec 6) (scal : Word)
    (s : State) : goesOn (execVmac sh vd va vb vp vpn bs k scal s) (Keeps s) :=
  ⟨_, rfl, State.issue_keeps _ _ (Keeps.refl s)⟩

theorem execVacc_goes (sh : Fin 192) (vd va vb : BitVec 5) (vp : BitVec 3) (vpn bs : Bool) (k : BitVec 6) (scal : Word)
    (s : State) : goesOn (execVacc sh vd va vb vp vpn bs k scal s) (Keeps s) :=
  ⟨_, rfl, State.issue_keeps _ _ (Keeps.refl s)⟩

theorem execVaclr_goes (sh : Fin 192) (vd va vb : BitVec 5) (vp : BitVec 3) (vpn bs : Bool) (k : BitVec 6) (scal : Word)
    (s : State) : goesOn (execVaclr sh vd va vb vp vpn bs k scal s) (Keeps s) :=
  ⟨_, rfl, State.issue_keeps _ _ (Keeps.refl s)⟩

theorem execVacx_goes (sh : Fin 192) (vd va vb : BitVec 5) (vp : BitVec 3) (vpn bs : Bool) (k : BitVec 6) (scal : Word)
    (s : State) : goesOn (execVacx sh vd va vb vp vpn bs k scal s) (Keeps s) :=
  ⟨_, rfl, State.issue_keeps _ _ (Keeps.refl s)⟩

theorem execVrsum_goes (sh : Fin 192) (vd va vb : BitVec 5) (vp : BitVec 3) (vpn bs : Bool) (k : BitVec 6) (scal : Word)
    (s : State) : goesOn (execVrsum sh vd va vb vp vpn bs k scal s) (Keeps s) :=
  ⟨_, rfl, State.issue_keeps _ _ (Keeps.refl s)⟩

theorem execVrmax_goes (sh : Fin 192) (vd va vb : BitVec 5) (vp : BitVec 3) (vpn bs : Bool) (k : BitVec 6) (scal : Word)
    (s : State) : goesOn (execVrmax sh vd va vb vp vpn bs k scal s) (Keeps s) :=
  ⟨_, rfl, State.issue_keeps _ _ (Keeps.refl s)⟩

theorem execVext_goes (sh : Fin 192) (vd va vb : BitVec 5) (vp : BitVec 3) (vpn bs : Bool) (k : BitVec 6) (scal : Word)
    (s : State) : goesOn (execVext sh vd va vb vp vpn bs k scal s) (Keeps s) :=
  ⟨_, rfl, State.issue_keeps _ _ (Keeps.refl s)⟩

theorem execVld_goes (sh : Fin 192) (vd va vb : BitVec 5) (vp : BitVec 3) (vpn bs : Bool) (k : BitVec 6) (scal : Word)
    (s : State) : goesOn (execVld sh vd va vb vp vpn bs k scal s) (Keeps s) :=
  ⟨_, rfl, State.issue_keeps _ _ (Keeps.refl s)⟩

theorem execVst_goes (sh : Fin 192) (vd va vb : BitVec 5) (vp : BitVec 3) (vpn bs : Bool) (k : BitVec 6) (scal : Word)
    (s : State) : goesOn (execVst sh vd va vb vp vpn bs k scal s) (Keeps s) :=
  ⟨_, rfl, State.issue_keeps _ _ (Keeps.refl s)⟩

theorem execVldb_goes (sh : Fin 192) (vd va vb : BitVec 5) (vp : BitVec 3) (vpn bs : Bool) (k : BitVec 6) (scal : Word)
    (s : State) : goesOn (execVldb sh vd va vb vp vpn bs k scal s) (Keeps s) :=
  ⟨_, rfl, State.issue_keeps _ _ (Keeps.refl s)⟩

theorem execVldl_goes (sh : Fin 192) (vd va vb : BitVec 5) (vp : BitVec 3) (vpn bs : Bool) (k : BitVec 6) (scal : Word)
    (s : State) : goesOn (execVldl sh vd va vb vp vpn bs k scal s) (Keeps s) :=
  ⟨_, rfl, State.issue_keeps _ _ (Keeps.refl s)⟩

theorem execVstl_goes (sh : Fin 192) (vd va vb : BitVec 5) (vp : BitVec 3) (vpn bs : Bool) (k : BitVec 6) (scal : Word)
    (s : State) : goesOn (execVstl sh vd va vb vp vpn bs k scal s) (Keeps s) :=
  ⟨_, rfl, State.issue_keeps _ _ (Keeps.refl s)⟩

theorem execVin_goes (sh : Fin 192) (vd va vb : BitVec 5) (vp : BitVec 3) (vpn bs : Bool) (k : BitVec 6) (scal : Word)
    (s : State) : goesOn (execVin sh vd va vb vp vpn bs k scal s) (Keeps s) :=
  ⟨_, rfl, State.issue_keeps _ _ (Keeps.refl s)⟩

theorem execVprf_goes (sh : Fin 192) (vd va vb : BitVec 5) (vp : BitVec 3) (vpn bs : Bool) (k : BitVec 6) (scal : Word)
    (s : State) : goesOn (execVprf sh vd va vb vp vpn bs k scal s) (Keeps s) :=
  ⟨_, rfl, State.issue_keeps _ _ (Keeps.refl s)⟩

theorem execVdev_goes (sh : Fin 192) (vd va vb : BitVec 5) (vp : BitVec 3) (vpn bs : Bool) (k : BitVec 6) (scal : Word)
    (s : State) : goesOn (execVdev sh vd va vb vp vpn bs k scal s) (Keeps s) :=
  ⟨_, rfl, State.issue_keeps _ _ (Keeps.refl s)⟩

end Sys2Proof.Machine
end

