-- ==== Sys2Proof/Laws/KeepsCourse.lean ====
section
/-! SUPPORT. What no operation of `Machine/Course.lean` does (`Keeps`), one lemma per operation, and that each command goes on. -/
namespace Sys2Proof.Machine
set_option linter.unusedVariables false
set_option linter.unusedSimpArgs false

section
variable {s t : State}

theorem State.courseLines_keeps (c : Nat) (h : Keeps s t) : Keeps s (State.courseLines t c) := by
  unfold State.courseLines
  with_reducible repeat' first
    | assumption | apply State.linesSettle_keeps | simp only [Keeps.upd_iff] | split

theorem State.coursePowerOff_keeps (c : Nat) (h : Keeps s t) : Keeps s (State.coursePowerOff t c) := by
  unfold State.coursePowerOff
  with_reducible repeat' first
    | assumption | apply State.courseLines_keeps | apply State.domOff_keeps | simp only [Keeps.upd_iff] | split

theorem State.courseAgain_keeps (c : Nat) (h : Keeps s t) : Keeps s (State.courseAgain t c) := by
  unfold State.courseAgain
  with_reducible repeat' first
    | assumption | apply State.courseLines_keeps | apply State.put_keeps | simp only [Keeps.upd_iff] | split

theorem State.coursePwrWrite_keeps (v : Nat) (h : Keeps s t) : Keeps s (State.coursePwrWrite t v) := by
  unfold State.coursePwrWrite
  with_reducible repeat' first
    | assumption | apply State.courseAgain_keeps | apply State.coursePowerOff_keeps | apply State.domRetry_keeps
    | apply State.put_keeps | apply State.raise_keeps | refine Keeps.foldl _ (fun _ _ _ => ?_) ?_ | simp only [Keeps.upd_iff]
    | split

theorem State.courseUp_keeps (c : Nat) (h : Keeps s t) : Keeps s (State.courseUp t c) := by
  unfold State.courseUp
  with_reducible repeat' first
    | assumption | apply State.shShow_keeps | apply State.enginesLost_keeps | apply State.memForget_keeps
    | apply State.put_keeps | apply State.raise_keeps | refine Keeps.foldl _ (fun _ _ _ => ?_) ?_ | simp only [Keeps.upd_iff]
    | split

end

theorem execCoursePwrWrite_goes (v : Word) (s : State) : goesOn (execCoursePwrWrite v s) (Keeps s) := by
  have h := Keeps.refl s
  unfold execCoursePwrWrite
  with_reducible repeat' first | apply goesOn.next | split
  all_goals
    with_reducible repeat' first
      | assumption | apply State.coursePwrWrite_keeps | simp only [Keeps.upd_iff] | split

theorem execCourseOn_goes (c : Fin 12) (s : State) : goesOn (execCourseOn c s) (Keeps s) := by
  have h := Keeps.refl s
  unfold execCourseOn
  with_reducible repeat' first | apply goesOn.next | split
  all_goals
    with_reducible repeat' first
      | assumption | apply State.courseUp_keeps | simp only [Keeps.upd_iff] | split

end Sys2Proof.Machine
end

