-- ==== Sys2Proof/Laws/KeepsMem.lean ====
section
/-! SUPPORT. What no operation of `Machine/Mem.lean` does (`Keeps`), one lemma per operation, and that each command goes on. -/
namespace Sys2Proof.Machine
set_option linter.unusedVariables false
set_option linter.unusedSimpArgs false

section
variable {s t : State}

theorem State.bwShowOne_keeps (x : Nat) (h : Keeps s t) : Keeps s (State.bwShowOne t x) := by
  unfold State.bwShowOne
  with_reducible repeat' first
    | assumption | apply State.put_keeps | apply State.raise_keeps | simp only [Keeps.upd_iff] | split

theorem State.bwShow_keeps (h : Keeps s t) : Keeps s (State.bwShow t) := by
  unfold State.bwShow
  with_reducible repeat' first
    | assumption | apply State.bwShowOne_keeps | simp only [Keeps.upd_iff] | split

theorem State.memReady_keeps (train test : Nat) (h : Keeps s t) : Keeps s (State.memReady t train test) := by
  unfold State.memReady
  with_reducible repeat' first
    | assumption | apply State.bwShow_keeps | apply State.selfFail_keeps | apply State.put_keeps | simp only [Keeps.upd_iff]
    | split

theorem State.bitErrors_keeps (es : List (Nat × Bool)) (h : Keeps s t) : Keeps s (State.bitErrors t es) := by
  unfold State.bitErrors
  with_reducible repeat' first
    | assumption | refine Keeps.foldl _ (fun _ _ _ => ?_) ?_ | simp only [Keeps.upd_iff] | split

theorem State.scrubBurst_keeps (es : List (Nat × Bool)) (h : Keeps s t) : Keeps s (State.scrubBurst t es) := by
  unfold State.scrubBurst
  with_reducible repeat' first
    | assumption | apply State.bitErrors_keeps | apply State.ddrRead_keeps | apply State.put_keeps
    | apply State.bgProgress_keeps | simp only [Keeps.upd_iff] | split

end

theorem execExpBankCheck_goes (bank : Fin 2) (s : State) : goesOn (execExpBankCheck bank s) (Keeps s) := by
  have h := Keeps.refl s
  unfold execExpBankCheck
  with_reducible repeat' first | apply goesOn.next | split
  all_goals
    with_reducible repeat' first
      | assumption | apply State.bwShow_keeps | apply State.bankCheck_keeps | simp only [Keeps.upd_iff] | split

theorem execMemReady_goes (train test : BitVec 4) (s : State) : goesOn (execMemReady s train test) (Keeps s) := by
  have h := Keeps.refl s
  unfold execMemReady
  with_reducible repeat' first | apply goesOn.next | split
  all_goals
    with_reducible repeat' first
      | assumption | apply State.train_keeps | apply State.memReady_keeps | simp only [Keeps.upd_iff] | split

theorem execRefresh_goes (ch : Fin 4) (rank : Fin 2) (s : State) : goesOn (execRefresh ch rank s) (Keeps s) := by
  have h := Keeps.refl s
  unfold execRefresh
  with_reducible repeat' first | apply goesOn.next | split
  all_goals
    with_reducible repeat' first
      | assumption | apply State.at_keeps | simp only [Keeps.upd_iff] | split

theorem execScrubBurst_goes (single several : List Nat) (s : State) : goesOn (execScrubBurst single several s) (Keeps s) := by
  have h := Keeps.refl s
  unfold execScrubBurst
  with_reducible repeat' first | apply goesOn.next | split
  all_goals
    with_reducible repeat' first
      | assumption | apply State.scrubBurst_keeps | simp only [Keeps.upd_iff] | split

end Sys2Proof.Machine
end

