-- ==== Sys2Proof/Laws/KeepsJobs.lean ====
section
/-! SUPPORT. What no operation of `Machine/Jobs.lean` does (`Keeps`), one lemma per operation, and that each command goes on. -/
namespace Sys2Proof.Machine
set_option linter.unusedVariables false
set_option linter.unusedSimpArgs false

section
variable {s t : State}

theorem State.setChan_keeps (n : Nat) (c : DmaChan) (h : Keeps s t) : Keeps s (State.setChan t n c) := by
  unfold State.setChan
  with_reducible repeat' first
    | assumption | simp only [Keeps.upd_iff] | split

theorem State.stagedShow_keeps (h : Keeps s t) : Keeps s (State.stagedShow t) := by
  unfold State.stagedShow
  with_reducible repeat' first
    | assumption | apply State.put_keeps | simp only [Keeps.upd_iff] | split

theorem State.fenceShrink_keeps (n left : Nat) (h : Keeps s t) : Keeps s (State.fenceShrink t n left) := by
  unfold State.fenceShrink
  with_reducible repeat' first
    | assumption | simp only [Keeps.upd_iff] | split

theorem State.stageArrive_keeps (h : Keeps s t) : Keeps s (State.stageArrive t) := by
  unfold State.stageArrive
  with_reducible repeat' first
    | assumption | apply State.fenceShrink_keeps | apply State.stagedShow_keeps | apply State.setChan_keeps
    | refine Keeps.foldl _ (fun _ _ _ => ?_) ?_ | simp only [Keeps.upd_iff] | split

theorem State.dropArm_keeps (h : Keeps s t) : Keeps s (State.dropArm t) := by
  unfold State.dropArm
  with_reducible repeat' first
    | assumption | apply State.usedShow_keeps | apply State.put_keeps | simp only [Keeps.upd_iff] | split

theorem State.refuseArm_keeps (code : Nat) (h : Keeps s t) : Keeps s (State.refuseArm t code) := by
  unfold State.refuseArm
  with_reducible repeat' first
    | assumption | apply State.dropArm_keeps | apply State.put_keeps | apply State.raise_keeps | simp only [Keeps.upd_iff]
    | split

theorem State.arm_keeps (x : Nat) (h : Keeps s t) : Keeps s (State.arm t x) := by
  unfold State.arm
  with_reducible repeat' first
    | assumption | apply State.refuseArm_keeps | apply State.stagedShow_keeps | apply State.usedShow_keeps
    | apply State.put_keeps | simp only [Keeps.upd_iff] | split

theorem State.jobFields_keeps (v : Nat) (h : Keeps s t) : Keeps s (State.jobFields t v) := by
  unfold State.jobFields
  with_reducible repeat' first
    | assumption | apply State.stagedShow_keeps | apply State.put_keeps | simp only [Keeps.upd_iff] | split

theorem State.jobStart_keeps (h : Keeps s t) : Keeps s (State.jobStart t) := by
  unfold State.jobStart
  with_reducible repeat' first
    | assumption | apply State.arm_keeps | apply State.raise_keeps | simp only [Keeps.upd_iff] | split

theorem State.jobStop_keeps (h : Keeps s t) : Keeps s (State.jobStop t) := by
  unfold State.jobStop
  with_reducible repeat' first
    | assumption | simp only [Keeps.upd_iff] | split

theorem State.jobArm_keeps (h : Keeps s t) : Keeps s (State.jobArm t) := by
  unfold State.jobArm
  with_reducible repeat' first
    | assumption | apply State.arm_keeps | simp only [Keeps.upd_iff] | split

theorem State.jobCancel_keeps (h : Keeps s t) : Keeps s (State.jobCancel t) := by
  unfold State.jobCancel
  with_reducible repeat' first
    | assumption | apply State.dropArm_keeps | simp only [Keeps.upd_iff] | split

theorem State.jobCtrl_keeps (v : Nat) (h : Keeps s t) : Keeps s (State.jobCtrl t v) := by
  unfold State.jobCtrl
  with_reducible repeat' first
    | assumption | apply State.jobCancel_keeps | apply State.jobArm_keeps | apply State.jobStop_keeps
    | apply State.jobStart_keeps | apply State.jobFields_keeps | simp only [Keeps.upd_iff] | split

theorem State.bankChanged_keeps (page x : Nat) (h : Keeps s t) : Keeps s (State.bankChanged t page x) := by
  unfold State.bankChanged
  with_reducible repeat' first
    | assumption | apply State.stagedShow_keeps | apply State.bwShow_keeps | apply State.kcapShow_keeps
    | apply State.usedShow_keeps | apply State.put_keeps | simp only [Keeps.upd_iff] | split

theorem State.bankWrite_keeps (a v : Nat) (h : Keeps s t) : Keeps s (State.bankWrite t a v) := by
  unfold State.bankWrite
  with_reducible repeat' first
    | assumption | apply State.bankChanged_keeps | apply State.disarm_keeps | apply State.writeWord_keeps
    | apply State.raise_keeps | simp only [Keeps.upd_iff] | split

theorem State.noteMarks_keeps (n : Nat) (d : DerTick) (h : Keeps s t) : Keeps s (State.noteMarks t n d) := by
  unfold State.noteMarks
  with_reducible repeat' first
    | assumption | simp only [Keeps.upd_iff] | split

theorem State.clearFilters_keeps (h : Keeps s t) : Keeps s (State.clearFilters t) := by
  unfold State.clearFilters
  with_reducible repeat' first
    | assumption | apply State.put_keeps | refine Keeps.foldl _ (fun _ _ _ => ?_) ?_ | simp only [Keeps.upd_iff] | split

theorem State.regsAtSwitch_keeps (x : Nat) (h : Keeps s t) : Keeps s (State.regsAtSwitch t x) := by
  unfold State.regsAtSwitch
  with_reducible repeat' first
    | assumption | apply State.regSync_keeps | refine Keeps.foldl _ (fun _ _ _ => ?_) ?_ | simp only [Keeps.upd_iff] | split

theorem State.activate_keeps (x T : Nat) (h : Keeps s t) : Keeps s (State.activate t x T) := by
  unfold State.activate
  with_reducible repeat' first
    | assumption | apply State.regsAtSwitch_keeps | apply State.clearFilters_keeps | apply State.stagedShow_keeps
    | apply State.repClose_keeps | apply State.calAbort_keeps | apply State.busyShow_keeps | apply State.capActShow_keeps
    | apply State.usedShow_keeps | apply State.put_keeps | apply State.put64_keeps | apply State.raise_keeps
    | simp only [Keeps.upd_iff] | split

theorem State.evalSwitch_keeps (n : Nat) (h : Keeps s t) : Keeps s (State.evalSwitch t n) := by
  unfold State.evalSwitch
  with_reducible repeat' first
    | assumption | apply State.activate_keeps | apply State.refuseArm_keeps | apply State.put_keeps | apply State.raise_keeps
    | simp only [Keeps.upd_iff] | split

theorem State.boundary_keeps (x n : Nat) (fly : Bool) (h : Keeps s t) : Keeps s (State.boundary t x n fly) := by
  unfold State.boundary
  with_reducible repeat' first
    | assumption | apply State.repClose_keeps | apply State.put_keeps | simp only [Keeps.upd_iff] | split

theorem State.rereg_keeps (x : Nat) (h : Keeps s t) : Keeps s (State.rereg t x) := by
  unfold State.rereg
  with_reducible repeat' first
    | assumption | apply State.raise_keeps | simp only [Keeps.upd_iff] | split

theorem State.repTick_keeps (x n : Nat) (h : Keeps s t) : Keeps s (State.repTick t x n) := by
  unfold State.repTick
  with_reducible repeat' first
    | assumption | apply State.rereg_keeps | apply State.boundary_keeps | apply State.put_keeps | simp only [Keeps.upd_iff]
    | split

theorem State.repShow_keeps (n : Nat) (h : Keeps s t) : Keeps s (State.repShow t n) := by
  unfold State.repShow
  with_reducible repeat' first
    | assumption | apply State.boundary_keeps | apply State.put_keeps | simp only [Keeps.upd_iff] | split

theorem State.jobTick_keeps (n : Nat) (d : DerTick) (h : Keeps s t) : Keeps s (State.jobTick t n d) := by
  unfold State.jobTick
  with_reducible repeat' first
    | assumption | apply State.repShow_keeps | apply State.repTick_keeps | apply State.evalSwitch_keeps
    | apply State.noteMarks_keeps | apply State.jobEndAt_keeps | simp only [Keeps.upd_iff] | split

theorem State.lineRepeat_keeps (n : Nat) (h : Keeps s t) : Keeps s (State.lineRepeat t n) := by
  unfold State.lineRepeat
  with_reducible repeat' first
    | assumption | apply State.boundary_keeps | apply State.setLine_keeps | simp only [Keeps.upd_iff] | split

theorem State.flywheel_keeps (h : Keeps s t) : Keeps s (State.flywheel t) := by
  unfold State.flywheel
  with_reducible repeat' first
    | assumption | apply State.lineRepeat_keeps | apply State.repShow_keeps | apply State.boundary_keeps
    | simp only [Keeps.upd_iff] | split

theorem State.markMiss_keeps (h : Keeps s t) : Keeps s (State.markMiss t) := by
  unfold State.markMiss
  with_reducible repeat' first
    | assumption | apply State.lineRepeat_keeps | apply State.rereg_keeps | apply State.boundary_keeps
    | apply State.raise_keeps | simp only [Keeps.upd_iff] | split

theorem State.repSettle_keeps (h : Keeps s t) : Keeps s (State.repSettle t) := by
  unfold State.repSettle
  with_reducible repeat' first
    | assumption | apply State.markMiss_keeps | apply State.flywheel_keeps | simp only [Keeps.upd_iff] | split

theorem State.learnFinish_keeps (h : Keeps s t) : Keeps s (State.learnFinish t) := by
  unfold State.learnFinish
  with_reducible repeat' first
    | assumption | apply State.ddrRead_keeps | refine State.fresh_out ‹_› ?_ | apply State.fresh_keeps
    | apply State.put_keeps | apply State.raise_keeps | apply State.setBytes_keeps
    | refine Keeps.foldl _ (fun _ _ _ => ?_) ?_ | simp only [Keeps.upd_iff] | split

end

theorem execStaged_goes (s : State) : goesOn (execStaged s) (Keeps s) := by
  have h := Keeps.refl s
  unfold execStaged
  with_reducible repeat' first | apply goesOn.next | split
  all_goals
    with_reducible repeat' first
      | assumption | apply State.stageArrive_keeps | simp only [Keeps.upd_iff] | split

theorem execJobStart_goes (v : Word) (s : State) : goesOn (execJobStart v s) (Keeps s) := by
  have h := Keeps.refl s
  unfold execJobStart
  with_reducible repeat' first | apply goesOn.next | split
  all_goals
    with_reducible repeat' first
      | assumption | apply State.jobCtrl_keeps | simp only [Keeps.upd_iff] | split

theorem execJobStop_goes (v : Word) (s : State) : goesOn (execJobStop v s) (Keeps s) := by
  have h := Keeps.refl s
  unfold execJobStop
  with_reducible repeat' first | apply goesOn.next | split
  all_goals
    with_reducible repeat' first
      | assumption | apply State.jobCtrl_keeps | simp only [Keeps.upd_iff] | split

theorem execJobArm_goes (v : Word) (s : State) : goesOn (execJobArm v s) (Keeps s) := by
  have h := Keeps.refl s
  unfold execJobArm
  with_reducible repeat' first | apply goesOn.next | split
  all_goals
    with_reducible repeat' first
      | assumption | apply State.jobCtrl_keeps | simp only [Keeps.upd_iff] | split

theorem execJobCancel_goes (v : Word) (s : State) : goesOn (execJobCancel v s) (Keeps s) := by
  have h := Keeps.refl s
  unfold execJobCancel
  with_reducible repeat' first | apply goesOn.next | split
  all_goals
    with_reducible repeat' first
      | assumption | apply State.jobCtrl_keeps | simp only [Keeps.upd_iff] | split

theorem execBankWrite_goes (addr : Nat) (v : Word) (s : State) : goesOn (execBankWrite addr v s) (Keeps s) := by
  have h := Keeps.refl s
  unfold execBankWrite
  with_reducible repeat' first | apply goesOn.next | split
  all_goals
    with_reducible repeat' first
      | assumption | apply State.bankWrite_keeps | simp only [Keeps.upd_iff] | split

theorem execFlywheelBoundary_goes (s : State) : goesOn (execFlywheelBoundary s) (Keeps s) := by
  have h := Keeps.refl s
  unfold execFlywheelBoundary
  with_reducible repeat' first | apply goesOn.next | split
  all_goals
    with_reducible repeat' first
      | assumption | apply State.flywheel_keeps | simp only [Keeps.upd_iff] | split

theorem execMarkMiss_goes (s : State) : goesOn (execMarkMiss s) (Keeps s) := by
  have h := Keeps.refl s
  unfold execMarkMiss
  with_reducible repeat' first | apply goesOn.next | split
  all_goals
    with_reducible repeat' first
      | assumption | apply State.markMiss_keeps | simp only [Keeps.upd_iff] | split

theorem execLearnFinish_goes (s : State) : goesOn (execLearnFinish s) (Keeps s) := by
  have h := Keeps.refl s
  unfold execLearnFinish
  with_reducible repeat' first | apply goesOn.next | split
  all_goals
    with_reducible repeat' first
      | assumption | apply State.learnFinish_keeps | simp only [Keeps.upd_iff] | split

end Sys2Proof.Machine
end

