-- ==== Sys2Proof/Laws/KeepsDeveloper.lean ====
section
/-! SUPPORT. What no operation of `Machine/Developer.lean` does (`Keeps`), one lemma per operation, and that each command goes
    on. -/
namespace Sys2Proof.Machine
set_option linter.unusedVariables false
set_option linter.unusedSimpArgs false

section
variable {s t : State}

theorem State.devSlice_keeps (h : Keeps s t) : Keeps s (State.devSlice t) := by
  unfold State.devSlice
  with_reducible repeat' first
    | assumption | apply State.repsDone_keeps | apply State.linesSettle_keeps | apply State.setLine_keeps
    | apply State.put_keeps | refine Keeps.foldl _ (fun _ _ _ => ?_) ?_ | simp only [Keeps.upd_iff] | split

theorem State.satMark_keeps (m b : Nat) (e : Option Ev) (h : Keeps s t) : Keeps s (State.satMark t m b e) := by
  unfold State.satMark
  with_reducible repeat' first
    | assumption | apply State.setCtx_keeps | apply State.raise_keeps | simp only [Keeps.upd_iff] | split

theorem State.satClose_keeps (m : Nat) (noFe : Bool) (h : Keeps s t) : Keeps s (State.satClose t m noFe) := by
  unfold State.satClose
  with_reducible repeat' first
    | assumption | apply State.satMark_keeps | apply State.ctxShow_keeps | apply State.setCtx_keeps
    | simp only [Keeps.upd_iff] | split

theorem State.satStart_keeps (m frameno stamp t_ : Nat) (h : Keeps s t) : Keeps s (State.satStart t m frameno stamp t_) := by
  unfold State.satStart
  with_reducible repeat' first
    | assumption | apply State.satClose_keeps | apply State.ctxDrop_keeps | apply State.ctxShow_keeps
    | apply State.setCtx_keeps | apply State.at_keeps | simp only [Keeps.upd_iff] | split

theorem State.satOrphan_keeps (m : Nat) (h : Keeps s t) : Keeps s (State.satOrphan t m) := by
  unfold State.satOrphan
  with_reducible repeat' first
    | assumption | apply State.bump_keeps | apply State.raise_keeps | simp only [Keeps.upd_iff] | split

theorem State.satLine_keeps (m frameno line : Nat) (px : List Nat) (t_ : Nat) (h : Keeps s t) : Keeps s
    (State.satLine t m frameno line px t_) := by
  unfold State.satLine
  with_reducible repeat' first
    | assumption | apply State.satOrphan_keeps | apply State.satMark_keeps | apply State.setCtx_keeps
    | apply State.bump_keeps | apply State.at_keeps | apply State.setBytes_keeps | simp only [Keeps.upd_iff] | split

theorem State.satEnd_keeps (m frameno t_ : Nat) (h : Keeps s t) : Keeps s (State.satEnd t m frameno t_) := by
  unfold State.satEnd
  with_reducible repeat' first
    | assumption | apply State.satOrphan_keeps | apply State.satClose_keeps | apply State.setCtx_keeps | apply State.at_keeps
    | simp only [Keeps.upd_iff] | split

theorem State.satTimeout_keeps (m : Nat) (h : Keeps s t) : Keeps s (State.satTimeout t m) := by
  unfold State.satTimeout
  with_reducible repeat' first
    | assumption | apply State.satClose_keeps | apply State.at_keeps | simp only [Keeps.upd_iff] | split

theorem State.setTurn_keeps (m : Nat) (h : Keeps s t) : Keeps s (State.setTurn t m) := by
  unfold State.setTurn
  with_reducible repeat' first
    | assumption | apply State.put_keeps | simp only [Keeps.upd_iff] | split

theorem State.setHead_keeps (m : Nat) (f : SatFrame) (h : Keeps s t) : Keeps s (State.setHead t m f) := by
  unfold State.setHead
  with_reducible repeat' first
    | assumption | apply State.setCtx_keeps | simp only [Keeps.upd_iff] | split

theorem State.segBegin_keeps (m : Nat) (f : SatFrame) (h : Keeps s t) : Keeps s (State.segBegin t m f).1 := by
  unfold State.segBegin
  with_reducible repeat' first
    | assumption | apply State.bump_keeps | apply State.raise_keeps | simp only [Keeps.upd_iff] | split

theorem State.segBegin_out {m : Nat} {f : SatFrame} {u : State} {out : SatFrame} (e : State.segBegin t m f = (u, out))
    (h : Keeps s t) : Keeps s u := by
  have k := State.segBegin_keeps m f h
  rwa [e] at k

theorem State.segEnd_keeps (m : Nat) (f : SatFrame) (h : Keeps s t) : Keeps s (State.segEnd t m f) := by
  unfold State.segEnd
  with_reducible repeat' first
    | assumption | apply State.setTurn_keeps | apply State.ctxShow_keeps | apply State.setCtx_keeps
    | apply State.statWrite_keeps | apply State.histLimit_keeps | refine State.ringPut_out ‹_› ?_
    | apply State.ringPut_getD_keeps | apply State.put_keeps | apply State.bump_keeps | simp only [Keeps.upd_iff] | split

theorem State.segment_keeps (m : Nat) (h : Keeps s t) : Keeps s (State.segment t m) := by
  unfold State.segment
  with_reducible repeat' first
    | assumption | apply State.segEnd_keeps | refine State.segBegin_out ‹_› ?_ | apply State.setHead_keeps
    | apply State.setTurn_keeps | apply State.endLine_keeps | apply State.ctxShow_keeps | apply State.setCtx_keeps
    | apply State.ddrRead_keeps | apply State.raise_keeps | refine Keeps.foldl _ (fun _ _ _ => ?_) ?_
    | apply State.segBegin_keeps | simp only [Keeps.upd_iff] | split

theorem State.devSegment_keeps (h : Keeps s t) : Keeps s (State.devSegment t) := by
  unfold State.devSegment
  with_reducible repeat' first
    | assumption | apply State.segment_keeps | simp only [Keeps.upd_iff] | split

theorem State.devCommit_keeps (h : Keeps s t) : Keeps s (State.devCommit t) := by
  unfold State.devCommit
  with_reducible repeat' first
    | assumption | apply State.bwShow_keeps | apply State.ctxDiscard_keeps | apply State.takeFrozen_keeps
    | apply State.raiseBy_keeps | refine Keeps.foldl _ (fun _ _ _ => ?_) ?_ | simp only [Keeps.upd_iff] | split

end

theorem execDevSlice_goes (s : State) : goesOn (execDevSlice s) (Keeps s) := by
  have h := Keeps.refl s
  unfold execDevSlice
  with_reducible repeat' first | apply goesOn.next | split
  all_goals
    with_reducible repeat' first
      | assumption | apply State.devSlice_keeps | simp only [Keeps.upd_iff] | split

theorem execSatFrameTimeout_goes (m : Fin 16) (s : State) : goesOn (execSatFrameTimeout m s) (Keeps s) := by
  have h := Keeps.refl s
  unfold execSatFrameTimeout
  with_reducible repeat' first | apply goesOn.next | split
  all_goals
    with_reducible repeat' first
      | assumption | apply State.satTimeout_keeps | simp only [Keeps.upd_iff] | split

theorem execDevSegment_goes (s : State) : goesOn (execDevSegment s) (Keeps s) := by
  have h := Keeps.refl s
  unfold execDevSegment
  with_reducible repeat' first | apply goesOn.next | split
  all_goals
    with_reducible repeat' first
      | assumption | apply State.devSegment_keeps | simp only [Keeps.upd_iff] | split

end Sys2Proof.Machine
end

