-- ==== Sys2Proof/Laws/KeepsRecords.lean ====
section
/-! SUPPORT. What no operation of `Machine/Records.lean` does (`Keeps`), one lemma per operation, and that each command goes on. -/
namespace Sys2Proof.Machine
set_option linter.unusedVariables false
set_option linter.unusedSimpArgs false

section
variable {s t : State}

theorem State.dropOuts_keeps (c n : Nat) (h : Keeps s t) : Keeps s (State.dropOuts t c n) := by
  unfold State.dropOuts
  with_reducible repeat' first
    | assumption | apply State.shShow_keeps | apply State.setEngine_keeps | refine Keeps.foldl _ (fun _ _ _ => ?_) ?_
    | simp only [Keeps.upd_iff] | split

theorem State.sliceFull_keeps (l : Line) (c : Nat) (h : Keeps s t) : Keeps s (State.sliceFull t l c) := by
  unfold State.sliceFull
  with_reducible repeat' first
    | assumption | apply State.repsDone_keeps | apply State.addReport_keeps | apply State.linesSettle_keeps
    | apply State.setLine_keeps | apply State.raise_keeps | simp only [Keeps.upd_iff] | split

theorem State.sliceIn_keeps (l : Line) (c : Nat) (outs : List (Nat × OutEntry)) (h : Keeps s t) : Keeps s
    (State.sliceIn t l c outs) := by
  unfold State.sliceIn
  with_reducible repeat' first
    | assumption | apply State.put_keeps | refine Keeps.foldl _ (fun _ _ _ => ?_) ?_ | simp only [Keeps.upd_iff] | split

theorem State.sliceOn_keeps (l : Line) (c : Nat) (outs : List (Nat × OutEntry)) (h : Keeps s t) : Keeps s
    (State.sliceOn t l c outs) := by
  unfold State.sliceOn
  with_reducible repeat' first
    | assumption | apply State.sliceIn_keeps | apply State.sliceFull_keeps | simp only [Keeps.upd_iff] | split

theorem State.sliceMerge_keeps (c : Nat) (h : Keeps s t) : Keeps s (State.sliceMerge t c) := by
  unfold State.sliceMerge
  with_reducible repeat' first
    | assumption | apply State.sliceOn_keeps | apply State.dropOuts_keeps | simp only [Keeps.upd_iff] | split

theorem State.learnSeed_keeps (x sh p : Nat) (o : OutEntry) (h : Keeps s t) : Keeps s (State.learnSeed t x sh p o) := by
  unfold State.learnSeed
  with_reducible repeat' first
    | assumption | apply State.setBytes_keeps | refine Keeps.foldl _ (fun _ _ _ => ?_) ?_ | simp only [Keeps.upd_iff] | split

theorem State.learnAdd_keeps (x sh p : Nat) (o : OutEntry) (h : Keeps s t) : Keeps s (State.learnAdd t x sh p o) := by
  unfold State.learnAdd
  with_reducible repeat' first
    | assumption | apply State.ddrRead_keeps | apply State.setBytes_keeps | refine Keeps.foldl _ (fun _ _ _ => ?_) ?_
    | simp only [Keeps.upd_iff] | split

theorem State.learn_keeps (l : Line) (sh : Nat) (o : OutEntry) (sev : Nat) (h : Keeps s t) : Keeps s (State.learn t l sh o sev)
    := by
  unfold State.learn
  with_reducible repeat' first
    | assumption | apply State.learnAdd_keeps | apply State.learnSeed_keeps | simp only [Keeps.upd_iff] | split

theorem State.filter_keeps (x cls sev area : Nat) (h : Keeps s t) : Keeps s (State.filter t x cls sev area).1 := by
  unfold State.filter
  with_reducible repeat' first
    | assumption | apply State.bump_keeps | simp only [Keeps.upd_iff] | split

theorem State.filter_out {x cls sev area : Nat} {u : State} {out : Bool} (e : State.filter t x cls sev area = (u, out))
    (h : Keeps s t) : Keeps s u := by
  have k := State.filter_keeps x cls sev area h
  rwa [e] at k

theorem State.repeatOf_keeps (n : Nat) (h : Keeps s t) : Keeps s (State.repeatOf t n).2 := by
  unfold State.repeatOf
  with_reducible repeat' first
    | assumption | refine State.fresh_out ‹_› ?_ | apply State.fresh_keeps | simp only [Keeps.upd_iff] | split

theorem State.repeatOf_out {n : Nat} {u : State} {out : (Nat × Nat)} (e : State.repeatOf t n = (out, u)) (h : Keeps s t) : Keeps
    s u := by
  have k := State.repeatOf_keeps n h
  rwa [e] at k

theorem State.gather_keeps (x sh : Nat) (bs : List (List Nat)) (h : Keeps s t) : Keeps s (State.gather t x sh bs).1 := by
  induction bs generalizing t with
  | nil => exact h
  | cons b bs ih =>
    unfold State.gather
    split
    · exact ih h
    · split
      · exact ih (State.raise_keeps _ h)
      · exact ih (State.filter_keeps _ _ _ _ h)

theorem State.defectRecord_keeps (l : Line) (sh : Nat) (o : OutEntry) (i : RecItem) (trunc : Bool) (h : Keeps s t) : Keeps s
    (State.defectRecord t l sh o i trunc).2 := by
  unfold State.defectRecord
  with_reducible repeat' first
    | assumption | refine State.repeatOf_out ‹_› ?_ | apply State.repeatOf_keeps | simp only [Keeps.upd_iff] | split

theorem State.defectRecord_out {l : Line} {sh : Nat} {o : OutEntry} {i : RecItem} {trunc : Bool} {u : State} {out : List Nat}
    (e : State.defectRecord t l sh o i trunc = (out, u)) (h : Keeps s t) : Keeps s u := by
  have k := State.defectRecord_keeps l sh o i trunc h
  rwa [e] at k

theorem State.writeItems_keeps (l : Line) (sh : Nat) (o : OutEntry) (is : List RecItem) (h : Keeps s t) :
    Keeps s (State.writeItems t l sh o is) := by
  induction is generalizing t with
  | nil => exact h
  | cons i is ih => exact ih (State.ringPut_getD_keeps _ _ (State.defectRecord_keeps l sh o i (o.trunc && is.isEmpty) h))

theorem State.recordWrite_keeps (h : Keeps s t) : Keeps s (State.recordWrite t) := by
  unfold State.recordWrite
  with_reducible repeat' first
    | assumption | apply State.writeItems_keeps | apply State.learn_keeps | apply State.repsDone_keeps
    | apply State.handledBit_keeps | apply State.addReport_keeps | apply State.linesSettle_keeps
    | apply State.ringOverflow_keeps | apply State.ringDrop_keeps | refine Keeps.foldl _ (fun _ _ _ => ?_) ?_
    | apply State.gather_keeps | simp only [Keeps.upd_iff] | split

theorem State.ulSet_keeps (r : UlRec) (h : Keeps s t) : Keeps s (State.ulSet t r) := by
  unfold State.ulSet
  with_reducible repeat' first
    | assumption | apply State.ringRewrite_keeps | simp only [Keeps.upd_iff] | split

theorem State.ulPush_keeps (r : UlRec) (h : Keeps s t) : Keeps s (State.ulPush t r) := by
  unfold State.ulPush
  with_reducible repeat' first
    | assumption | apply State.ringRewrite_keeps | refine State.ringPut_out ‹_› ?_ | simp only [Keeps.upd_iff] | split

theorem State.ulNew_keeps (q : Report) (h : Keeps s t) : Keeps s (State.ulNew t q).1 := by
  unfold State.ulNew
  with_reducible repeat' first
    | assumption | simp only [Keeps.upd_iff] | split

theorem State.ulNew_out {q : Report} {u : State} {out : UlRec} (e : State.ulNew t q = (u, out)) (h : Keeps s t) : Keeps s u := by
  have k := State.ulNew_keeps q h
  rwa [e] at k

theorem State.ulCount_keeps (n : Nat) (pend : Bool) (h : Keeps s t) : Keeps s (State.ulCount t n pend) := by
  unfold State.ulCount
  with_reducible repeat' first
    | assumption | apply State.linesSettle_keeps | apply State.setLine_keeps | simp only [Keeps.upd_iff] | split

theorem State.ulRecord_keeps (q : Report) (h : Keeps s t) : Keeps s (State.ulRecord t q) := by
  unfold State.ulRecord
  with_reducible repeat' first
    | assumption | apply State.ulCount_keeps | refine State.ulNew_out ‹_› ?_ | apply State.ulPush_keeps
    | apply State.ulSet_keeps | apply State.ringOverflow_keeps | apply State.ulNew_keeps | simp only [Keeps.upd_iff] | split

theorem State.ulPending_keeps (h : Keeps s t) : Keeps s (State.ulPending t) := by
  unfold State.ulPending
  with_reducible repeat' first
    | assumption | apply State.ulPush_keeps | apply State.linesSettle_keeps | simp only [Keeps.upd_iff] | split

theorem State.uninspected_keeps (h : Keeps s t) : Keeps s (State.uninspected t) := by
  unfold State.uninspected
  with_reducible repeat' first
    | assumption | apply State.ulPending_keeps | apply State.ulRecord_keeps | apply State.repsDone_keeps
    | simp only [Keeps.upd_iff] | split

end

theorem execSliceMerge_goes (c : Fin 12) (s : State) : goesOn (execSliceMerge c s) (Keeps s) := by
  have h := Keeps.refl s
  unfold execSliceMerge
  with_reducible repeat' first | apply goesOn.next | split
  all_goals
    with_reducible repeat' first
      | assumption | apply State.sliceMerge_keeps | simp only [Keeps.upd_iff] | split

theorem execRecordWrite_goes (s : State) : goesOn (execRecordWrite s) (Keeps s) := by
  have h := Keeps.refl s
  unfold execRecordWrite
  with_reducible repeat' first | apply goesOn.next | split
  all_goals
    with_reducible repeat' first
      | assumption | apply State.recordWrite_keeps | simp only [Keeps.upd_iff] | split

theorem execPendingRecordWrite_goes (s : State) : goesOn (execPendingRecordWrite s) (Keeps s) := by
  have h := Keeps.refl s
  unfold execPendingRecordWrite
  with_reducible repeat' first | apply goesOn.next | split
  all_goals
    with_reducible repeat' first
      | assumption | apply State.ulPending_keeps | simp only [Keeps.upd_iff] | split

theorem execUninspectedRecord_goes (s : State) : goesOn (execUninspectedRecord s) (Keeps s) := by
  have h := Keeps.refl s
  unfold execUninspectedRecord
  with_reducible repeat' first | apply goesOn.next | split
  all_goals
    with_reducible repeat' first
      | assumption | apply State.uninspected_keeps | simp only [Keeps.upd_iff] | split

end Sys2Proof.Machine
end

