-- ==== Sys2Proof/Laws/KeepsTicks.lean ====
section
/-! SUPPORT. What no operation of `Machine/Ticks.lean` does (`Keeps`), one lemma per operation, and that each command goes on. -/
namespace Sys2Proof.Machine
set_option linter.unusedVariables false
set_option linter.unusedSimpArgs false

section
variable {s t : State}

theorem State.setTickno_keeps (n : Nat) (h : Keeps s t) : Keeps s (State.setTickno t n) := by
  unfold State.setTickno
  with_reducible repeat' first
    | assumption | apply State.put64_keeps | simp only [Keeps.upd_iff] | split

theorem State.lostTick_keeps (n : Nat) (sheet : Bool) (reason : Nat) (h : Keeps s t) : Keeps s (State.lostTick t n sheet reason)
    := by
  unfold State.lostTick
  with_reducible repeat' first
    | assumption | apply State.lostLine_keeps | simp only [Keeps.upd_iff] | split

theorem State.passTick_keeps (n reason : Nat) (h : Keeps s t) : Keeps s (State.passTick t n reason) := by
  unfold State.passTick
  with_reducible repeat' first
    | assumption | apply State.lostTick_keeps | apply State.setTickno_keeps | apply State.repSettle_keeps
    | apply State.jobTick_keeps | simp only [Keeps.upd_iff] | split

theorem State.countLost_keeps (k : Nat) (h : Keeps s t) : Keeps s (State.countLost t k) := by
  unfold State.countLost
  with_reducible repeat' first
    | assumption | apply State.put64_keeps | simp only [Keeps.upd_iff] | split

theorem State.skipOver_keeps (k : Nat) (h : Keeps s t) : Keeps s (State.skipOver t k) := by
  unfold State.skipOver
  with_reducible repeat' first
    | assumption | apply State.countLost_keeps | apply State.passTick_keeps | apply State.raiseBy_keeps
    | refine Keeps.foldl _ (fun _ _ _ => ?_) ?_ | simp only [Keeps.upd_iff] | split

theorem State.lifeBefore_keeps (n : Nat) (h : Keeps s t) : Keeps s (State.lifeBefore t n) := by
  unfold State.lifeBefore
  with_reducible repeat' first
    | assumption | apply State.lifeCommitAt_keeps | simp only [Keeps.upd_iff] | split

theorem State.chainGap_keeps (n : Nat) (h : Keeps s t) : Keeps s (State.chainGap t n) := by
  unfold State.chainGap
  with_reducible repeat' first
    | assumption | apply State.passTick_keeps | apply State.put64_keeps | refine Keeps.foldl _ (fun _ _ _ => ?_) ?_
    | simp only [Keeps.upd_iff] | split

theorem State.noEdgeTick_keeps (n : Nat) (h : Keeps s t) : Keeps s (State.noEdgeTick t n) := by
  unfold State.noEdgeTick
  with_reducible repeat' first
    | assumption | apply State.chainGap_keeps | apply State.lifeBefore_keeps | apply State.countLost_keeps
    | apply State.passTick_keeps | apply State.raise_keeps | simp only [Keeps.upd_iff] | split

theorem State.noEdgeQueue_keeps (n : Nat) (h : Keeps s t) : Keeps s (State.noEdgeQueue n t) := by
  induction n generalizing t with
  | zero => exact h
  | succ n ih =>
    unfold State.noEdgeQueue
    split
    · exact h
    · split
      · exact ih (State.noEdgeTick_keeps _ (Keeps.upd h))
      · exact h

theorem State.ticknoAdvance_keeps (n : Nat) (h : Keeps s t) : Keeps s (State.ticknoAdvance t n) := by
  unfold State.ticknoAdvance
  with_reducible repeat' first
    | assumption | apply State.setTickno_keeps | apply State.linesSettle_keeps | apply State.raise_keeps
    | simp only [Keeps.upd_iff] | split

theorem State.ticknoPend_keeps (h : Keeps s t) : Keeps s (State.ticknoPend t) := by
  unfold State.ticknoPend
  with_reducible repeat' first
    | assumption | apply State.ticknoAdvance_keeps | simp only [Keeps.upd_iff] | split

end

theorem execLifeCommit_goes (t : Nat) (s : State) : goesOn (execLifeCommit t s) (Keeps s) := by
  have h := Keeps.refl s
  unfold execLifeCommit
  extract_lets s1 s2
  have h1 : Keeps s s1 := State.at_keeps _ h
  have h2 : Keeps s s2 := by
    dsimp only [s2]
    with_reducible repeat' first | assumption | apply State.lifeCommit_keeps | apply State.lifeCommitAt_keeps | split
  split
  · apply goesOn.next
    with_reducible repeat' first | assumption | apply State.ticknoPend_keeps | split
  · exact goesOn.next h1

end Sys2Proof.Machine
end

