-- ==== Sys2Proof/Laws/KeepsChain.lean ====
section
/-! SUPPORT. What no operation of `Machine/Chain.lean` does (`Keeps`), one lemma per operation, and that each command goes on. -/
namespace Sys2Proof.Machine
set_option linter.unusedVariables false
set_option linter.unusedSimpArgs false

section
variable {s t : State}

theorem State.headShow_keeps (h : Keeps s t) : Keeps s (State.headShow t) := by
  unfold State.headShow
  with_reducible repeat' first
    | assumption | apply State.put_keeps | simp only [Keeps.upd_iff] | split

theorem State.timeBlock_keeps (ct t_ : Nat) (h : Keeps s t) : Keeps s (State.timeBlock t ct t_) := by
  unfold State.timeBlock
  with_reducible repeat' first
    | assumption | apply State.setChain_keeps | refine State.fresh_out ‹_› ?_ | apply State.fresh_keeps
    | apply State.put_keeps | apply State.at_keeps | simp only [Keeps.upd_iff] | split

theorem State.timeSend_keeps (h : Keeps s t) : Keeps s (State.timeSend t) := by
  unfold State.timeSend
  with_reducible repeat' first
    | assumption | apply State.sendBlock_keeps | apply State.setChain_keeps | apply State.at_keeps
    | simp only [Keeps.upd_iff] | split

theorem State.echo_keeps (p : Nat) (reply : Bool) (id t_ : Nat) (h : Keeps s t) : Keeps s (State.echo t p reply id t_) := by
  unfold State.echo
  with_reducible repeat' first
    | assumption | refine State.filter_out ‹_› ?_ | apply State.sendBlockAt_keeps | apply State.setChain_keeps
    | apply State.put_keeps | apply State.at_keeps | refine Keeps.foldl _ (fun _ _ _ => ?_) ?_ | apply State.filter_keeps
    | simp only [Keeps.upd_iff] | split

theorem State.linkMeasure_keeps (t_ : Nat) (h : Keeps s t) : Keeps s (State.linkMeasure t t_) := by
  unfold State.linkMeasure
  with_reducible repeat' first
    | assumption | apply State.sendBlock_keeps | apply State.setChain_keeps | apply State.at_keeps
    | refine Keeps.foldl _ (fun _ _ _ => ?_) ?_ | simp only [Keeps.upd_iff] | split

theorem State.fallbackTicks_keeps (n : Nat) (h : Keeps s t) : Keeps s (State.fallbackTicks n t) := by
  induction n generalizing t with
  | zero => exact h
  | succ n ih =>
    unfold State.fallbackTicks
    dsimp only
    split
    · exact ih (Keeps.upd (State.pushTick_keeps _ h))
    · exact h

theorem State.enterFallback_keeps (n : Nat) (h : Keeps s t) : Keeps s (State.enterFallback t n) := by
  unfold State.enterFallback
  with_reducible repeat' first
    | assumption | apply State.fallbackTicks_keeps | apply State.divTpred_keeps | apply State.rePredict_keeps
    | apply State.chainEvent_keeps | apply State.put_keeps | apply State.put64_keeps | apply State.raise_keeps
    | simp only [Keeps.upd_iff] | split

theorem State.fallbackGo_keeps (h : Keeps s t) : Keeps s (State.fallbackGo t) := by
  unfold State.fallbackGo
  with_reducible repeat' first
    | assumption | apply State.enterFallback_keeps | simp only [Keeps.upd_iff] | split

theorem State.fallbackRun_keeps (before : State) (h : Keeps s t) : Keeps s (State.fallbackRun t before) := by
  unfold State.fallbackRun
  with_reducible repeat' first
    | assumption | apply State.fallbackGo_keeps | simp only [Keeps.upd_iff] | split

theorem State.tokensLost_keeps (h : Keeps s t) : Keeps s (State.tokensLost t) := by
  unfold State.tokensLost
  with_reducible repeat' first
    | assumption | apply State.fallbackGo_keeps | apply State.tokensGone_keeps | apply State.chainEvent_keeps
    | simp only [Keeps.upd_iff] | split

theorem State.tokenTimeout_keeps (t_ : Nat) (h : Keeps s t) : Keeps s (State.tokenTimeout t t_) := by
  unfold State.tokenTimeout
  with_reducible repeat' first
    | assumption | apply State.tokensLost_keeps | apply State.at_keeps | simp only [Keeps.upd_iff] | split

theorem State.tokenRestore_keeps (h : Keeps s t) : Keeps s (State.tokenRestore t) := by
  unfold State.tokenRestore
  with_reducible repeat' first
    | assumption | apply State.chainEvent_keeps | apply State.put_keeps | simp only [Keeps.upd_iff] | split

theorem State.leaveFallback_keeps (h : Keeps s t) : Keeps s (State.leaveFallback t) := by
  unfold State.leaveFallback
  with_reducible repeat' first
    | assumption | apply State.chainEvent_keeps | apply State.put_keeps | apply State.put64_keeps | apply State.raise_keeps
    | simp only [Keeps.upd_iff] | split

theorem State.tokenLatency_keeps (lat : Int) (h : Keeps s t) : Keeps s (State.tokenLatency t lat) := by
  unfold State.tokenLatency
  with_reducible repeat' first
    | assumption | apply State.setChain_keeps | apply State.put_keeps | apply State.raise_keeps | simp only [Keeps.upd_iff]
    | split

theorem State.tokenTick_keeps (flags n der t_ : Nat) (h : Keeps s t) : Keeps s (State.tokenTick t flags n der t_) := by
  unfold State.tokenTick
  with_reducible repeat' first
    | assumption | apply State.noEdgeTick_keeps | apply State.linesSettle_keeps | apply State.raise_keeps
    | simp only [Keeps.upd_iff] | split

theorem State.tokenSeen_keeps (flags hops low derLow tpred n ct : Nat) (lat : Int) (sendOn : Bool) (h : Keeps s t) : Keeps s
    (State.tokenSeen t flags hops low derLow tpred n ct lat sendOn) := by
  unfold State.tokenSeen
  with_reducible repeat' first
    | assumption | apply State.tokenLatency_keeps | apply State.sendToken_keeps | apply State.setChain_keeps
    | apply State.put_keeps | simp only [Keeps.upd_iff] | split

theorem State.tokenNumber_keeps (n : Nat) (h : Keeps s t) : Keeps s (State.tokenNumber t n) := by
  unfold State.tokenNumber
  with_reducible repeat' first
    | assumption | apply State.lifeBefore_keeps | apply State.setTickno_keeps | apply State.linesSettle_keeps
    | apply State.setChain_keeps | simp only [Keeps.upd_iff] | split

theorem State.tokenTake_keeps (flags n own tpred der t_ : Nat) (h : Keeps s t) : Keeps s
    (State.tokenTake t flags n own tpred der t_) := by
  unfold State.tokenTake
  with_reducible repeat' first
    | assumption | apply State.tokenNumber_keeps | apply State.tokenTick_keeps | apply State.leaveFallback_keeps
    | apply State.setTpred_keeps | apply State.raise_keeps | simp only [Keeps.upd_iff] | split

theorem State.token_keeps (flags hops low : Nat) (crc : Option Nat) (derLow tpred t_ : Nat) (h : Keeps s t) : Keeps s
    (State.token t flags hops low crc derLow tpred t_) := by
  unfold State.token
  with_reducible repeat' first
    | assumption | apply State.tokenTake_keeps | apply State.tokenSeen_keeps | apply State.setChain_keeps
    | apply State.bump_keeps | apply State.at_keeps | simp only [Keeps.upd_iff] | split

theorem State.tno_keeps (low : Nat) (h : Keeps s t) : Keeps s (State.tno t low) := by
  unfold State.tno
  with_reducible repeat' first
    | assumption | apply State.ticknoPend_keeps | apply State.setChain_keeps | simp only [Keeps.upd_iff] | split

theorem State.chainMonClr_keeps (h : Keeps s t) : Keeps s (State.chainMonClr t) := by
  unfold State.chainMonClr
  with_reducible repeat' first
    | assumption | apply State.setChain_keeps | apply State.put_keeps | simp only [Keeps.upd_iff] | split

end

theorem execTimeBlk_goes (ct : BitVec 48) (_seq : Byte) (t : Nat) (s : State) : goesOn (execTimeBlk ct _seq t s) (Keeps s) := by
  have h := Keeps.refl s
  unfold execTimeBlk
  with_reducible repeat' first | apply goesOn.next | split
  all_goals
    with_reducible repeat' first
      | assumption | apply State.timeBlock_keeps | simp only [Keeps.upd_iff] | split

theorem execCthiBlk_goes (hi : Half) (s : State) : goesOn (execCthiBlk hi s) (Keeps s) := by
  have h := Keeps.refl s
  unfold execCthiBlk
  with_reducible repeat' first | apply goesOn.next | split
  all_goals
    with_reducible repeat' first
      | assumption | apply State.setChain_keeps | simp only [Keeps.upd_iff] | split

theorem execTimeSend_goes (s : State) : goesOn (execTimeSend s) (Keeps s) := by
  have h := Keeps.refl s
  unfold execTimeSend
  with_reducible repeat' first | apply goesOn.next | split
  all_goals
    with_reducible repeat' first
      | assumption | apply State.timeSend_keeps | simp only [Keeps.upd_iff] | split

theorem execEchoBlk_goes (p : Fin 3) (reply : Bool) (id : Byte) (t : Nat) (s : State) : goesOn (execEchoBlk p reply id t s)
    (Keeps s) := by
  have h := Keeps.refl s
  unfold execEchoBlk
  with_reducible repeat' first | apply goesOn.next | split
  all_goals
    with_reducible repeat' first
      | assumption | apply State.echo_keeps | simp only [Keeps.upd_iff] | split

theorem execLinkDelayMeasure_goes (t : Nat) (s : State) : goesOn (execLinkDelayMeasure t s) (Keeps s) := by
  have h := Keeps.refl s
  unfold execLinkDelayMeasure
  with_reducible repeat' first | apply goesOn.next | split
  all_goals
    with_reducible repeat' first
      | assumption | apply State.linkMeasure_keeps | simp only [Keeps.upd_iff] | split

theorem execCtLockTimeout_goes (s : State) : goesOn (execCtLockTimeout s) (Keeps s) := by
  have h := Keeps.refl s
  unfold execCtLockTimeout
  with_reducible repeat' first | apply goesOn.next | split
  all_goals
    with_reducible repeat' first
      | assumption | apply State.ctUnlock_keeps | apply State.at_keeps | simp only [Keeps.upd_iff] | split

theorem execTokenLoss_goes (t : Nat) (s : State) : goesOn (execTokenLoss t s) (Keeps s) := by
  have h := Keeps.refl s
  unfold execTokenLoss
  with_reducible repeat' first | apply goesOn.next | split
  all_goals
    with_reducible repeat' first
      | assumption | apply State.tokenTimeout_keeps | simp only [Keeps.upd_iff] | split

theorem execTokenRestore_goes (s : State) : goesOn (execTokenRestore s) (Keeps s) := by
  have h := Keeps.refl s
  unfold execTokenRestore
  with_reducible repeat' first | apply goesOn.next | split
  all_goals
    with_reducible repeat' first
      | assumption | apply State.tokenRestore_keeps | simp only [Keeps.upd_iff] | split

theorem execTickToken_goes (flags hops : Byte) (tickno : Word) (crc : Option Byte) (derCt : Word) (tpred : BitVec 24) (t : Nat)
    (s : State) : goesOn (execTickToken flags hops tickno crc derCt tpred t s) (Keeps s) := by
  have h := Keeps.refl s
  unfold execTickToken
  with_reducible repeat' first | apply goesOn.next | split
  all_goals
    with_reducible repeat' first
      | assumption | apply State.token_keeps | simp only [Keeps.upd_iff] | split

theorem execPowerRequest_goes (v : Word) (s : State) : goesOn (execPowerRequest v s) (Keeps s) := by
  have h := Keeps.refl s
  unfold execPowerRequest
  with_reducible repeat' first | apply goesOn.next | split
  all_goals
    with_reducible repeat' first
      | assumption | apply State.fallbackRun_keeps | apply State.powerRequest_keeps | simp only [Keeps.upd_iff] | split

theorem execPowerTransition_goes (s : State) : goesOn (execPowerTransition s) (Keeps s) := by
  have h := Keeps.refl s
  unfold execPowerTransition
  with_reducible repeat' first | apply goesOn.next | split
  all_goals
    with_reducible repeat' first
      | assumption | apply State.fallbackRun_keeps | apply State.powerTransition_keeps | simp only [Keeps.upd_iff] | split

theorem execDomainRegTimeout_goes (d : Fin 25) (s : State) : goesOn (execDomainRegTimeout d s) (Keeps s) := by
  have h := Keeps.refl s
  unfold execDomainRegTimeout
  with_reducible repeat' first | apply goesOn.next | split
  all_goals
    with_reducible repeat' first
      | assumption | apply State.fallbackGo_keeps | apply State.domRegTimeout_keeps | simp only [Keeps.upd_iff] | split

theorem execTnoBlk_goes (tickno : BitVec 56) (s : State) : goesOn (execTnoBlk tickno s) (Keeps s) := by
  have h := Keeps.refl s
  unfold execTnoBlk
  with_reducible repeat' first | apply goesOn.next | split
  all_goals
    with_reducible repeat' first
      | assumption | apply State.tno_keeps | simp only [Keeps.upd_iff] | split

theorem execTnoSend_goes (s : State) : goesOn (execTnoSend s) (Keeps s) := by
  have h := Keeps.refl s
  unfold execTnoSend
  with_reducible repeat' first | apply goesOn.next | split
  all_goals
    with_reducible repeat' first
      | assumption | apply State.sendBlock_keeps | simp only [Keeps.upd_iff] | split

theorem execChainMonClr_goes (s : State) : goesOn (execChainMonClr s) (Keeps s) := by
  have h := Keeps.refl s
  unfold execChainMonClr
  with_reducible repeat' first | apply goesOn.next | split
  all_goals
    with_reducible repeat' first
      | assumption | apply State.chainMonClr_keeps | simp only [Keeps.upd_iff] | split

end Sys2Proof.Machine
end

