-- ==== Sys2Proof/Laws/KeepsRidge.lean ====
section
/-! SUPPORT. What no operation of `Machine/Ridge.lean` does (`Keeps`), one lemma per operation, and that each command goes on. -/
namespace Sys2Proof.Machine
set_option linter.unusedVariables false
set_option linter.unusedSimpArgs false

section
variable {s t : State}

theorem State.setLane_keeps (p k : Nat) (l : Lane) (h : Keeps s t) : Keeps s (State.setLane t p k l) := by
  unfold State.setLane
  with_reducible repeat' first
    | assumption | apply State.setPort_keeps | simp only [Keeps.upd_iff] | split

theorem State.lanesState_keeps (p v : Nat) (sel : Nat → Bool) (h : Keeps s t) : Keeps s (State.lanesState t p v sel) := by
  unfold State.lanesState
  with_reducible repeat' first
    | assumption | apply State.put_keeps | refine Keeps.foldl _ (fun _ _ _ => ?_) ?_ | simp only [Keeps.upd_iff] | split

theorem State.portLeave_keeps (p : Nat) (h : Keeps s t) : Keeps s (State.portLeave t p) := by
  unfold State.portLeave
  with_reducible repeat' first
    | assumption | apply State.tokensLost_keeps | apply State.dmaPortLost_keeps | apply State.ctUnlock_keeps
    | apply State.setPort_keeps | apply State.put_keeps | apply State.bump_keeps | apply State.raise_keeps
    | refine Keeps.foldl _ (fun _ _ _ => ?_) ?_ | simp only [Keeps.upd_iff] | split

theorem State.portDown_keeps (p : Nat) (next : State → State) (hn : ∀ u, Keeps s u → Keeps s (next u)) (h : Keeps s t) :
    Keeps s (State.portDown t p next) := by
  unfold State.portDown
  with_reducible repeat' first | assumption | apply hn | apply State.portLeave_keeps | split

theorem State.retrain_keeps (p : Nat) (h : Keeps s t) : Keeps s (State.retrain t p) := by
  unfold State.retrain
  with_reducible repeat' first
    | assumption | apply State.portDown_keeps | apply State.portTrain_keeps | simp only [Keeps.upd_iff] | split | intro _ _

theorem State.portOff_keeps (p : Nat) (h : Keeps s t) : Keeps s (State.portOff t p) := by
  unfold State.portOff
  with_reducible repeat' first
    | assumption | apply State.portDown_keeps | apply State.domOff_keeps | simp only [Keeps.upd_iff] | split | intro _ _

theorem State.cageChange_keeps (p : Nat) (present : Bool) (h : Keeps s t) : Keeps s (State.cageChange t p present) := by
  unfold State.cageChange
  with_reducible repeat' first
    | assumption | apply State.portDown_keeps | apply State.lanesState_keeps | apply State.portStart_keeps
    | apply State.setPortState_keeps | apply State.setPort_keeps | simp only [Keeps.upd_iff] | split | intro _ _

theorem State.cageTrip_keeps (p : Nat) (h : Keeps s t) : Keeps s (State.cageTrip t p) := by
  unfold State.cageTrip
  with_reducible repeat' first
    | assumption | apply State.portDown_keeps | apply State.lanesState_keeps | apply State.setPortState_keeps
    | apply State.setPort_keeps | simp only [Keeps.upd_iff] | split | intro _ _

theorem State.headersIn_keeps (p k : Nat) (hs : List (BitVec 2)) (h : Keeps s t) : Keeps s (State.headersIn t p k hs) := by
  unfold State.headersIn
  with_reducible repeat' first
    | assumption | apply State.retrain_keeps | apply State.setLane_keeps | apply State.put_keeps | apply State.bumpBy_keeps
    | simp only [Keeps.upd_iff] | split

theorem State.alignSend_keeps (p t_ : Nat) (h : Keeps s t) : Keeps s (State.alignSend t p t_) := by
  unfold State.alignSend
  with_reducible repeat' first
    | assumption | apply State.sendBlockAt_keeps | apply State.setPort_keeps | refine Keeps.foldl _ (fun _ _ _ => ?_) ?_
    | simp only [Keeps.upd_iff] | split

theorem State.alignDue_keeps (p : Nat) (h : Keeps s t) : Keeps s (State.alignDue t p) := by
  unfold State.alignDue
  with_reducible repeat' first
    | assumption | apply State.alignSend_keeps | refine Keeps.foldl _ (fun _ _ _ => ?_) ?_ | simp only [Keeps.upd_iff]
    | split

theorem State.align_keeps (p : Nat) (a : StripeSeen) (h : Keeps s t) : Keeps s (State.align t p a) := by
  unfold State.align
  with_reducible repeat' first
    | assumption | apply State.alignDue_keeps | apply State.retrain_keeps | simp only [Keeps.upd_iff] | split

theorem State.laneJudge_keeps (p k : Nat) (h : Keeps s t) : Keeps s (State.laneJudge t p k) := by
  unfold State.laneJudge
  with_reducible repeat' first
    | assumption | apply State.setLane_keeps | apply State.put_keeps | simp only [Keeps.upd_iff] | split

theorem State.trainServe_keeps (p k reqPre reqPost : Nat) (preset : Bool) (h : Keeps s t) : Keeps s
    (State.trainServe t p k reqPre reqPost preset) := by
  unfold State.trainServe
  with_reducible repeat' first
    | assumption | apply State.setTaps_keeps | simp only [Keeps.upd_iff] | split

theorem State.trainSend_keeps (p k : Nat) (wake : Bool) (h : Keeps s t) : Keeps s (State.trainSend t p k wake) := by
  unfold State.trainSend
  with_reducible repeat' first
    | assumption | apply State.setLane_keeps | apply State.sendBlock_keeps | simp only [Keeps.upd_iff] | split

theorem State.train_keeps (p k reqPre reqPost : Nat) (preset : Bool) (ackPre ackPost : Nat) (rxDone : Bool) (offer : Nat)
    (h : Keeps s t) : Keeps s (State.train t p k reqPre reqPost preset ackPre ackPost rxDone offer) := by
  unfold State.train
  with_reducible repeat' first
    | assumption | apply State.trainSend_keeps | apply State.trainServe_keeps | apply State.laneJudge_keeps
    | apply State.setLane_keeps | apply State.setPort_keeps | simp only [Keeps.upd_iff] | split

theorem State.fomMin_keeps (p : Nat) (h : Keeps s t) : Keeps s (State.fomMin t p) := by
  unfold State.fomMin
  with_reducible repeat' first
    | assumption | refine State.filter_out ‹_› ?_ | apply State.put_keeps | refine Keeps.foldl _ (fun _ _ _ => ?_) ?_
    | apply State.filter_keeps | simp only [Keeps.upd_iff] | split

theorem State.fomMeasure_keeps (p k vEye vPk : Nat) (h : Keeps s t) : Keeps s (State.fomMeasure t p k vEye vPk) := by
  unfold State.fomMeasure
  with_reducible repeat' first
    | assumption | apply State.fomMin_keeps | refine State.fresh_out ‹_› ?_ | apply State.fresh_keeps | apply State.put_keeps
    | apply State.monEnter_keeps | simp only [Keeps.upd_iff] | split

theorem State.adaptStep_keeps (p k : Nat) (h : Keeps s t) : Keeps s (State.adaptStep t p k) := by
  unfold State.adaptStep
  with_reducible repeat' first
    | assumption | apply State.laneJudge_keeps | apply State.setLane_keeps | simp only [Keeps.upd_iff] | split

theorem State.linkUp_keeps (p : Nat) (h : Keeps s t) : Keeps s (State.linkUp t p) := by
  unfold State.linkUp
  with_reducible repeat' first
    | assumption | apply State.fomMin_keeps | apply State.alignDue_keeps | apply State.lanesState_keeps
    | apply State.selfLive_keeps | apply State.setPortState_keeps | apply State.setPort_keeps | apply State.put_keeps
    | apply State.raise_keeps | apply State.at_keeps | refine Keeps.foldl _ (fun _ _ _ => ?_) ?_ | simp only [Keeps.upd_iff]
    | split

theorem State.trainExpire_keeps (p : Nat) (h : Keeps s t) : Keeps s (State.trainExpire t p) := by
  unfold State.trainExpire
  with_reducible repeat' first
    | assumption | apply State.portStart_keeps | apply State.setRate_keeps | apply State.at_keeps | simp only [Keeps.upd_iff]
    | split

theorem State.safeEnter_keeps (p : Nat) (h : Keeps s t) : Keeps s (State.safeEnter t p) := by
  unfold State.safeEnter
  with_reducible repeat' first
    | assumption | apply State.lanesState_keeps | apply State.sendBlock_keeps | apply State.setPortState_keeps
    | apply State.setPort_keeps | apply State.at_keeps | refine Keeps.foldl _ (fun _ _ _ => ?_) ?_
    | simp only [Keeps.upd_iff] | split

theorem State.wakeBurst_keeps (p : Nat) (h : Keeps s t) : Keeps s (State.wakeBurst t p) := by
  unfold State.wakeBurst
  with_reducible repeat' first
    | assumption | apply State.trainSend_keeps | refine Keeps.foldl _ (fun _ _ _ => ?_) ?_ | simp only [Keeps.upd_iff]
    | split

theorem State.safeExit_keeps (p : Nat) (h : Keeps s t) : Keeps s (State.safeExit t p) := by
  unfold State.safeExit
  with_reducible repeat' first
    | assumption | apply State.wakeBurst_keeps | apply State.lanesState_keeps | apply State.setPortState_keeps
    | apply State.setPort_keeps | simp only [Keeps.upd_iff] | split

theorem State.wakeFail_keeps (p : Nat) (h : Keeps s t) : Keeps s (State.wakeFail t p) := by
  unfold State.wakeFail
  with_reducible repeat' first
    | assumption | apply State.wakeBurst_keeps | apply State.retrain_keeps | apply State.bump_keeps | apply State.raise_keeps
    | simp only [Keeps.upd_iff] | split

theorem State.inject_keeps (p k n : Nat) (h : Keeps s t) : Keeps s (State.inject t p k n) := by
  unfold State.inject
  with_reducible repeat' first
    | assumption | apply State.setLane_keeps | simp only [Keeps.upd_iff] | split

theorem State.laneModes_keeps (p k v : Nat) (h : Keeps s t) : Keeps s (State.laneModes t p k v) := by
  unfold State.laneModes
  with_reducible repeat' first
    | assumption | apply State.setLane_keeps | refine State.fresh_out ‹_› ?_ | apply State.fresh_keeps
    | apply State.put_keeps | simp only [Keeps.upd_iff] | split

theorem State.laneTest_keeps (p k : Nat) (h : Keeps s t) : Keeps s (State.laneTest t p k) := by
  unfold State.laneTest
  with_reducible repeat' first
    | assumption | apply State.portDown_keeps | apply State.portStart_keeps | apply State.setPortState_keeps
    | apply State.put_keeps | simp only [Keeps.upd_iff] | split | intro _ _

theorem State.laneOwn_keeps (p k : Nat) (h : Keeps s t) : Keeps s (State.laneOwn t p k) := by
  unfold State.laneOwn
  with_reducible repeat' first
    | assumption | apply State.setLane_keeps | simp only [Keeps.upd_iff] | split

theorem State.laneCtrl_keeps (p k v : Nat) (h : Keeps s t) : Keeps s (State.laneCtrl t p k v) := by
  unfold State.laneCtrl
  with_reducible repeat' first
    | assumption | apply State.laneOwn_keeps | apply State.laneTest_keeps | apply State.laneModes_keeps
    | apply State.inject_keeps | apply State.put_keeps | simp only [Keeps.upd_iff] | split

theorem State.rawSend_keeps (p k : Nat) (xs : List Bool) (h : Keeps s t) : Keeps s (State.rawSend t p k xs) := by
  unfold State.rawSend
  with_reducible repeat' first
    | assumption | apply State.setLane_keeps | simp only [Keeps.upd_iff] | split

theorem State.checkBits_keeps (p k : Nat) (xs : List Bool) (h : Keeps s t) : Keeps s (State.checkBits t p k xs) := by
  unfold State.checkBits
  with_reducible repeat' first
    | assumption | apply State.rawSend_keeps | apply State.setLane_keeps | apply State.put_keeps | apply State.bumpBy_keeps
    | simp only [Keeps.upd_iff] | split

theorem State.creditShow_keeps (p v : Nat) (h : Keeps s t) : Keeps s (State.creditShow t p v) := by
  unfold State.creditShow
  with_reducible repeat' first
    | assumption | apply State.put_keeps | simp only [Keeps.upd_iff] | split

theorem State.creditBlock_keeps (p v count : Nat) (h : Keeps s t) : Keeps s (State.creditBlock t p v count) := by
  unfold State.creditBlock
  with_reducible repeat' first
    | assumption | apply State.creditShow_keeps | apply State.setPort_keeps | simp only [Keeps.upd_iff] | split

theorem State.creditSend_keeps (p v : Nat) (h : Keeps s t) : Keeps s (State.creditSend t p v) := by
  unfold State.creditSend
  with_reducible repeat' first
    | assumption | apply State.sendBlock_keeps | simp only [Keeps.upd_iff] | split

theorem State.allocWrite_keeps (p v u : Nat) (h : Keeps s t) : Keeps s (State.allocWrite t p v u) := by
  unfold State.allocWrite
  with_reducible repeat' first
    | assumption | apply State.put_keeps | apply State.raise_keeps | simp only [Keeps.upd_iff] | split

theorem State.txDiscard_keeps (p : Nat) (h : Keeps s t) : Keeps s (State.txDiscard t p) := by
  unfold State.txDiscard
  with_reducible repeat' first
    | assumption | refine State.filter_out ‹_› ?_ | apply State.setPort_keeps | apply State.bumpBy_keeps
    | apply State.filter_keeps | simp only [Keeps.upd_iff] | split

theorem State.packetSend_keeps (p : Nat) (h : Keeps s t) : Keeps s (State.packetSend t p) := by
  unfold State.packetSend
  with_reducible repeat' first
    | assumption | apply State.txDiscard_keeps | apply State.creditShow_keeps | apply State.setPort_keeps
    | apply State.put_keeps | simp only [Keeps.upd_iff] | split

theorem State.crcCount_keeps (p : Pkt) (dt : Nat) (payload : List Nat) (h : Keeps s t) : Keeps s (State.crcCount t p dt payload)
    := by
  unfold State.crcCount
  with_reducible repeat' first
    | assumption | apply State.bump_keeps | apply State.raise_keeps | simp only [Keeps.upd_iff] | split

theorem State.receive_keeps (p : Pkt) (dt : Nat) (payload : List Nat) (h : Keeps s t) : Keeps s (State.receive t p dt payload).1
    := by
  unfold State.receive
  with_reducible repeat' first
    | assumption | apply State.crcCount_keeps | apply State.setPort_keeps | apply State.bump_keeps | apply State.raise_keeps
    | simp only [Keeps.upd_iff] | split

theorem State.receive_out {p : Pkt} {dt : Nat} {payload : List Nat} {u : State} {out : Bool}
    (e : State.receive t p dt payload = (u, out)) (h : Keeps s t) : Keeps s u := by
  have k := State.receive_keeps p dt payload h
  rwa [e] at k

theorem State.unclaimed_keeps (q : Nat) (h : Keeps s t) : Keeps s (State.unclaimed t q) := by
  unfold State.unclaimed
  with_reducible repeat' first
    | assumption | apply State.bump_keeps | simp only [Keeps.upd_iff] | split

theorem State.unclaimedPacket_keeps (p : Pkt) (dt : Nat) (payload : List Nat) (h : Keeps s t) : Keeps s
    (State.unclaimedPacket t p dt payload) := by
  unfold State.unclaimedPacket
  with_reducible repeat' first
    | assumption | apply State.unclaimed_keeps | refine State.receive_out ‹_› ?_ | apply State.receive_keeps
    | simp only [Keeps.upd_iff] | split

theorem State.satCrc_keeps (m frameno : Nat) (bad : Bool) (h : Keeps s t) : Keeps s (State.satCrc t m frameno bad) := by
  unfold State.satCrc
  with_reducible repeat' first
    | assumption | apply State.satMark_keeps | simp only [Keeps.upd_iff] | split

theorem State.satPacket_keeps (p : Pkt) (dt : Nat) (payload : List Nat) (take : State → Nat → Bool → State)
    (ht : ∀ u m b, Keeps s u → Keeps s (take u m b)) (h : Keeps s t) : Keeps s (State.satPacket t p dt payload take) := by
  unfold State.satPacket
  with_reducible repeat' first
    | assumption | apply ht | apply State.unclaimed_keeps | refine State.receive_out ‹_› ?_ | apply State.receive_keeps | dsimp
    only
    | split

end

theorem execPortRetrain_goes (p : Fin 3) (s : State) : goesOn (execPortRetrain p s) (Keeps s) := by
  have h := Keeps.refl s
  unfold execPortRetrain
  with_reducible repeat' first | apply goesOn.next | split
  all_goals
    with_reducible repeat' first
      | assumption | apply State.retrain_keeps | simp only [Keeps.upd_iff] | split

theorem execModprslChange_goes (p : Fin 3) (present : Bool) (s : State) : goesOn (execModprslChange p present s) (Keeps s) := by
  have h := Keeps.refl s
  unfold execModprslChange
  with_reducible repeat' first | apply goesOn.next | split
  all_goals
    with_reducible repeat' first
      | assumption | apply State.cageChange_keeps | simp only [Keeps.upd_iff] | split

theorem execCageSupplyTrip_goes (p : Fin 3) (s : State) : goesOn (execCageSupplyTrip p s) (Keeps s) := by
  have h := Keeps.refl s
  unfold execCageSupplyTrip
  with_reducible repeat' first | apply goesOn.next | split
  all_goals
    with_reducible repeat' first
      | assumption | apply State.cageTrip_keeps | simp only [Keeps.upd_iff] | split

theorem execBlockLock_goes (p : Fin 3) (h : LaneHeaders) (s : State) : goesOn (execBlockLock p h s) (Keeps s) := by
  have h := Keeps.refl s
  unfold execBlockLock
  with_reducible repeat' first | apply goesOn.next | split
  all_goals
    with_reducible repeat' first
      | assumption | apply State.headersIn_keeps | simp only [Keeps.upd_iff] | split

theorem execLaneLockLost_goes (p : Fin 3) (h : LaneHeaders) (s : State) : goesOn (execLaneLockLost p h s) (Keeps s) := by
  have h := Keeps.refl s
  unfold execLaneLockLost
  with_reducible repeat' first | apply goesOn.next | split
  all_goals
    with_reducible repeat' first
      | assumption | apply State.headersIn_keeps | simp only [Keeps.upd_iff] | split

theorem execAlign_goes (p : Fin 3) (seen : StripeSeen) (s : State) : goesOn (execAlign p seen s) (Keeps s) := by
  have h := Keeps.refl s
  unfold execAlign
  with_reducible repeat' first | apply goesOn.next | split
  all_goals
    with_reducible repeat' first
      | assumption | apply State.align_keeps | simp only [Keeps.upd_iff] | split

theorem execTrainBlk_goes (p : Fin 3) (k : Fin 8) (reqPre reqPost : Fin 4) (reqPreset : Bool) (ackPre ackPost : Fin 4)
    (_ackPreset : Bool) (_fom : Byte) (rxDone : Bool) (offer : Byte) (s : State) : goesOn
    (execTrainBlk p k reqPre reqPost reqPreset ackPre ackPost _ackPreset _fom rxDone offer s) (Keeps s) := by
  have h := Keeps.refl s
  unfold execTrainBlk
  with_reducible repeat' first | apply goesOn.next | split
  all_goals
    with_reducible repeat' first
      | assumption | apply State.train_keeps | simp only [Keeps.upd_iff] | split

theorem execFomMeasure_goes (p : Fin 3) (k : Fin 8) (vEye vPk : Nat) (s : State) : goesOn (execFomMeasure p k vEye vPk s)
    (Keeps s) := by
  have h := Keeps.refl s
  unfold execFomMeasure
  with_reducible repeat' first | apply goesOn.next | split
  all_goals
    with_reducible repeat' first
      | assumption | apply State.fomMeasure_keeps | simp only [Keeps.upd_iff] | split

theorem execAdaptStep_goes (p : Fin 3) (k : Fin 8) (s : State) : goesOn (execAdaptStep p k s) (Keeps s) := by
  have h := Keeps.refl s
  unfold execAdaptStep
  with_reducible repeat' first | apply goesOn.next | split
  all_goals
    with_reducible repeat' first
      | assumption | apply State.adaptStep_keeps | simp only [Keeps.upd_iff] | split

theorem execLinkUp_goes (p : Fin 3) (s : State) : goesOn (execLinkUp p s) (Keeps s) := by
  have h := Keeps.refl s
  unfold execLinkUp
  with_reducible repeat' first | apply goesOn.next | split
  all_goals
    with_reducible repeat' first
      | assumption | apply State.linkUp_keeps | simp only [Keeps.upd_iff] | split

theorem execTrainTimeout_goes (p : Fin 3) (s : State) : goesOn (execTrainTimeout p s) (Keeps s) := by
  have h := Keeps.refl s
  unfold execTrainTimeout
  with_reducible repeat' first | apply goesOn.next | split
  all_goals
    with_reducible repeat' first
      | assumption | apply State.trainExpire_keeps | simp only [Keeps.upd_iff] | split

theorem execSafelightEnter_goes (p : Fin 3) (s : State) : goesOn (execSafelightEnter p s) (Keeps s) := by
  have h := Keeps.refl s
  unfold execSafelightEnter
  with_reducible repeat' first | apply goesOn.next | split
  all_goals
    with_reducible repeat' first
      | assumption | apply State.safeEnter_keeps | simp only [Keeps.upd_iff] | split

theorem execSafelightExit_goes (p : Fin 3) (s : State) : goesOn (execSafelightExit p s) (Keeps s) := by
  have h := Keeps.refl s
  unfold execSafelightExit
  with_reducible repeat' first | apply goesOn.next | split
  all_goals
    with_reducible repeat' first
      | assumption | apply State.safeExit_keeps | simp only [Keeps.upd_iff] | split

theorem execWakeFail_goes (p : Fin 3) (s : State) : goesOn (execWakeFail p s) (Keeps s) := by
  have h := Keeps.refl s
  unfold execWakeFail
  with_reducible repeat' first | apply goesOn.next | split
  all_goals
    with_reducible repeat' first
      | assumption | apply State.wakeFail_keeps | simp only [Keeps.upd_iff] | split

theorem execLaneTestMode_goes (p : Fin 3) (k : Fin 8) (v : Word) (s : State) : goesOn (execLaneTestMode p k v s) (Keeps s) := by
  have h := Keeps.refl s
  unfold execLaneTestMode
  with_reducible repeat' first | apply goesOn.next | split
  all_goals
    with_reducible repeat' first
      | assumption | apply State.laneCtrl_keeps | simp only [Keeps.upd_iff] | split

theorem execInjBit_goes (p : Fin 3) (k : Fin 8) (s : State) : goesOn (execInjBit p k s) (Keeps s) := by
  have h := Keeps.refl s
  unfold execInjBit
  with_reducible repeat' first | apply goesOn.next | split
  all_goals
    with_reducible repeat' first
      | assumption | apply State.laneCtrl_keeps | simp only [Keeps.upd_iff] | split

theorem execInjBurst_goes (p : Fin 3) (k : Fin 8) (s : State) : goesOn (execInjBurst p k s) (Keeps s) := by
  have h := Keeps.refl s
  unfold execInjBurst
  with_reducible repeat' first | apply goesOn.next | split
  all_goals
    with_reducible repeat' first
      | assumption | apply State.laneCtrl_keeps | simp only [Keeps.upd_iff] | split

theorem execChkClr_goes (p : Fin 3) (k : Fin 8) (s : State) : goesOn (execChkClr p k s) (Keeps s) := by
  have h := Keeps.refl s
  unfold execChkClr
  with_reducible repeat' first | apply goesOn.next | split
  all_goals
    with_reducible repeat' first
      | assumption | apply State.laneCtrl_keeps | simp only [Keeps.upd_iff] | split

theorem execChkLock_goes (p : Fin 3) (b : LaneBits) (s : State) : goesOn (execChkLock p b s) (Keeps s) := by
  have h := Keeps.refl s
  unfold execChkLock
  with_reducible repeat' first | apply goesOn.next | split
  all_goals
    with_reducible repeat' first
      | assumption | apply State.checkBits_keeps | simp only [Keeps.upd_iff] | split

theorem execCreditBlk_goes (p : Fin 3) (vc : Fin 16) (count : BitVec 24) (s : State) : goesOn (execCreditBlk p vc count s)
    (Keeps s) := by
  have h := Keeps.refl s
  unfold execCreditBlk
  with_reducible repeat' first | apply goesOn.next | split
  all_goals
    with_reducible repeat' first
      | assumption | apply State.creditBlock_keeps | simp only [Keeps.upd_iff] | split

theorem execCreditSend_goes (p : Fin 3) (vc : Fin 16) (s : State) : goesOn (execCreditSend p vc s) (Keeps s) := by
  have h := Keeps.refl s
  unfold execCreditSend
  with_reducible repeat' first | apply goesOn.next | split
  all_goals
    with_reducible repeat' first
      | assumption | apply State.creditSend_keeps | simp only [Keeps.upd_iff] | split

theorem execPacketSend_goes (p : Fin 3) (s : State) : goesOn (execPacketSend p s) (Keeps s) := by
  have h := Keeps.refl s
  unfold execPacketSend
  with_reducible repeat' first | apply goesOn.next | split
  all_goals
    with_reducible repeat' first
      | assumption | apply State.packetSend_keeps | simp only [Keeps.upd_iff] | split

theorem execUnclaimedPacket_goes (p : Pkt) (c : Content) (s : State) : goesOn (execUnclaimedPacket p c s) (Keeps s) := by
  have h := Keeps.refl s
  unfold execUnclaimedPacket
  with_reducible repeat' first | apply goesOn.next | split
  all_goals
    with_reducible repeat' first
      | assumption | apply State.unclaimedPacket_keeps | simp only [Keeps.upd_iff] | split

theorem execSatFs_goes (p : Pkt) (frameno : Word) (stamp : BitVec 64) (t : Nat) (s : State) : goesOn
    (execSatFs p frameno stamp t s) (Keeps s) := by
  unfold execSatFs
  apply goesOn.next
  exact State.satPacket_keeps _ _ _ _ (fun u m b k => State.satCrc_keeps _ _ _ (State.satStart_keeps _ _ _ _ k)) (Keeps.refl s)

theorem execSatLine_goes (p : Pkt) (frameno : Word) (line : Half) (pixels : List Byte) (t : Nat) (s : State) : goesOn
    (execSatLine p frameno line pixels t s) (Keeps s) := by
  unfold execSatLine
  apply goesOn.next
  exact State.satPacket_keeps _ _ _ _ (fun u m b k => State.satCrc_keeps _ _ _ (State.satLine_keeps _ _ _ _ _ k)) (Keeps.refl s)

theorem execSatFe_goes (p : Pkt) (frameno linesSent : Word) (t : Nat) (s : State) : goesOn (execSatFe p frameno linesSent t s)
    (Keeps s) := by
  unfold execSatFe
  apply goesOn.next
  exact State.satPacket_keeps _ _ _ _ (fun u m b k => State.satEnd_keeps _ _ _ (State.satCrc_keeps _ _ _ k)) (Keeps.refl s)

end Sys2Proof.Machine
end

