-- ==== Sys2Proof/Laws/KeepsDma.lean ====
section
/-! SUPPORT. What no operation of `Machine/Dma.lean` does (`Keeps`), one lemma per operation, and that each command goes on. -/
namespace Sys2Proof.Machine
set_option linter.unusedVariables false
set_option linter.unusedSimpArgs false

section
variable {s t : State}

theorem State.chanShow_keeps (n : Nat) (h : Keeps s t) : Keeps s (State.chanShow t n) := by
  unfold State.chanShow
  with_reducible repeat' first
    | assumption | apply State.put_keeps | simp only [Keeps.upd_iff] | split

theorem State.chansShow_keeps (h : Keeps s t) : Keeps s (State.chansShow t) := by
  unfold State.chansShow
  with_reducible repeat' first
    | assumption | apply State.chanShow_keeps | apply State.streamForget_keeps | apply State.put_keeps
    | refine Keeps.foldl _ (fun _ _ _ => ?_) ?_ | simp only [Keeps.upd_iff] | split

theorem State.tailWrite_keeps (n v : Nat) (h : Keeps s t) : Keeps s (State.tailWrite t n v) := by
  unfold State.tailWrite
  with_reducible repeat' first
    | assumption | apply State.stagedShow_keeps | apply State.put_keeps | simp only [Keeps.upd_iff] | split

theorem State.headNext_keeps (n : Nat) (h : Keeps s t) : Keeps s (State.headNext t n) := by
  unfold State.headNext
  with_reducible repeat' first
    | assumption | apply State.put_keeps | simp only [Keeps.upd_iff] | split

theorem State.chanStop_keeps (n : Nat) (h : Keeps s t) : Keeps s (State.chanStop t n) := by
  unfold State.chanStop
  with_reducible repeat' first
    | assumption | apply State.setChan_keeps | apply State.put_keeps | simp only [Keeps.upd_iff] | split

theorem State.chanResume_keeps (n : Nat) (h : Keeps s t) : Keeps s (State.chanResume t n) := by
  unfold State.chanResume
  with_reducible repeat' first
    | assumption | apply State.headNext_keeps | apply State.setChan_keeps | apply State.put_keeps | simp only [Keeps.upd_iff]
    | split

theorem State.chanCtrl_keeps (n v : Nat) (h : Keeps s t) : Keeps s (State.chanCtrl t n v) := by
  unfold State.chanCtrl
  with_reducible repeat' first
    | assumption | apply State.chanResume_keeps | apply State.chanStop_keeps | apply State.chansShow_keeps
    | apply State.stagedShow_keeps | apply State.writeWord_keeps | apply State.compactResume_keeps
    | simp only [Keeps.upd_iff] | split

theorem State.chanRingWrite_keeps (n a v : Nat) (h : Keeps s t) : Keeps s (State.chanRingWrite t n a v) := by
  unfold State.chanRingWrite
  with_reducible repeat' first
    | assumption | apply State.writeWord_keeps | simp only [Keeps.upd_iff] | split

theorem State.streamSend_keeps (n : Nat) (h : Keeps s t) : Keeps s (State.streamSend t n) := by
  unfold State.streamSend
  with_reducible repeat' first
    | assumption | apply State.ddrRead_keeps | apply State.txPush_keeps | apply State.bumpBy_keeps
    | simp only [Keeps.upd_iff] | split

theorem State.fenceGo_keeps (h : Keeps s t) : Keeps s (State.fenceGo t) := by
  unfold State.fenceGo
  with_reducible repeat' first
    | assumption | refine State.filter_out ‹_› ?_ | apply State.put_keeps | apply State.filter_keeps
    | simp only [Keeps.upd_iff] | split

theorem State.fenceDone_keeps (h : Keeps s t) : Keeps s (State.fenceDone t) := by
  unfold State.fenceDone
  with_reducible repeat' first
    | assumption | apply State.stagedShow_keeps | apply State.setChan_keeps | apply State.put_keeps
    | refine Keeps.foldl _ (fun _ _ _ => ?_) ?_ | simp only [Keeps.upd_iff] | split

end

theorem execDmaTailWrite_goes (n : Fin 32) (v : Word) (s : State) : goesOn (execDmaTailWrite n v s) (Keeps s) := by
  have h := Keeps.refl s
  unfold execDmaTailWrite
  with_reducible repeat' first | apply goesOn.next | split
  all_goals
    with_reducible repeat' first
      | assumption | apply State.tailWrite_keeps | simp only [Keeps.upd_iff] | split

theorem execDmaResume_goes (n : Fin 32) (s : State) : goesOn (execDmaResume n s) (Keeps s) := by
  have h := Keeps.refl s
  unfold execDmaResume
  with_reducible repeat' first | apply goesOn.next | split
  all_goals
    with_reducible repeat' first
      | assumption | apply State.chanCtrl_keeps | simp only [Keeps.upd_iff] | split

theorem execDmaDisable_goes (n : Fin 32) (s : State) : goesOn (execDmaDisable n s) (Keeps s) := by
  have h := Keeps.refl s
  unfold execDmaDisable
  with_reducible repeat' first | apply goesOn.next | split
  all_goals
    with_reducible repeat' first
      | assumption | apply State.chanCtrl_keeps | simp only [Keeps.upd_iff] | split

theorem execStreamSend_goes (n : Fin 32) (s : State) : goesOn (execStreamSend n s) (Keeps s) := by
  have h := Keeps.refl s
  unfold execStreamSend
  with_reducible repeat' first | apply goesOn.next | split
  all_goals
    with_reducible repeat' first
      | assumption | apply State.streamSend_keeps | simp only [Keeps.upd_iff] | split

theorem execDmaFenceGo_goes (s : State) : goesOn (execDmaFenceGo s) (Keeps s) := by
  have h := Keeps.refl s
  unfold execDmaFenceGo
  with_reducible repeat' first | apply goesOn.next | split
  all_goals
    with_reducible repeat' first
      | assumption | apply State.fenceGo_keeps | simp only [Keeps.upd_iff] | split

theorem execDmaFenceDone_goes (s : State) : goesOn (execDmaFenceDone s) (Keeps s) := by
  have h := Keeps.refl s
  unfold execDmaFenceDone
  with_reducible repeat' first | apply goesOn.next | split
  all_goals
    with_reducible repeat' first
      | assumption | apply State.fenceDone_keeps | simp only [Keeps.upd_iff] | split

end Sys2Proof.Machine
end

