-- ==== Sys2Proof/Laws/KeepsHealth.lean ====
section
/-! SUPPORT. What no operation of `Machine/Health.lean` does (`Keeps`), one lemma per operation, and that each command goes on. -/
namespace Sys2Proof.Machine
set_option linter.unusedVariables false
set_option linter.unusedSimpArgs false

section
variable {s t : State}

theorem State.powerOn_keeps (src addr t_ : Nat) (h : Keeps s t) : Keeps s (State.powerOn t src addr t_) := by
  unfold State.powerOn
  with_reducible repeat' first
    | assumption | apply State.sampleAddr_keeps | apply State.put_keeps | apply State.at_keeps | apply State.setPower_keeps
    | simp only [Keeps.upd_iff] | split

theorem State.ticknoSet_keeps (h : Keeps s t) : Keeps s (State.ticknoSet t) := by
  unfold State.ticknoSet
  with_reducible repeat' first
    | assumption | apply State.setTickno_keeps | apply State.put64_keeps | simp only [Keeps.upd_iff] | split

theorem State.replayDone_keeps (torn media : Bool) (h : Keeps s t) : Keeps s (State.replayDone t torn media) := by
  unfold State.replayDone
  with_reducible repeat' first
    | assumption | apply State.ticknoSet_keeps | apply State.calBoot_keeps | apply State.selfFail_keeps
    | apply State.replayed_keeps | apply State.lifeCommit_keeps | apply State.put_keeps | simp only [Keeps.upd_iff] | split

theorem State.selfTest_keeps (loft : Bool) (h : Keeps s t) : Keeps s (State.selfTest t loft) := by
  unfold State.selfTest
  with_reducible repeat' first
    | assumption | apply State.put_keeps | simp only [Keeps.upd_iff] | split

theorem State.readyStep_keeps (loft : Bool) (h : Keeps s t) : Keeps s (State.readyStep t loft) := by
  unfold State.readyStep
  with_reducible repeat' first
    | assumption | apply State.selfTest_keeps | apply State.selfLive_keeps | apply State.selfClass_keeps
    | apply State.put_keeps | apply State.raise_keeps | simp only [Keeps.upd_iff] | split

theorem State.warmReset_keeps (last : Nat) (h : Keeps s t) : Keeps s (State.warmReset t last) := by
  unfold State.warmReset
  with_reducible repeat' first
    | assumption | apply State.retrain_keeps | apply State.headShow_keeps | apply State.bwShow_keeps
    | apply State.warmClear_keeps | apply State.domOff_keeps | apply State.put_keeps | apply State.bump_keeps
    | apply State.sensorShow_keeps | refine Keeps.foldl _ (fun _ _ _ => ?_) ?_ | simp only [Keeps.upd_iff] | split

theorem State.coldReset_keeps (h : Keeps s t) : Keeps s (State.coldReset t) := by
  unfold State.coldReset
  with_reducible repeat' first
    | assumption | apply State.beginStart_keeps | apply State.sampleSrc_keeps | apply State.coldClear_keeps
    | simp only [Keeps.upd_iff] | split

theorem State.resetHold_keeps (kind : Nat) (h : Keeps s t) : Keeps s (State.resetHold t kind) := by
  unfold State.resetHold
  with_reducible repeat' first
    | assumption | simp only [Keeps.upd_iff] | split

theorem State.resetReq_keeps (kind last addr : Nat) (h : Keeps s t) : Keeps s (State.resetReq t kind last addr) := by
  unfold State.resetReq
  with_reducible repeat' first
    | assumption | apply State.resetHold_keeps | apply State.coldReset_keeps | apply State.warmReset_keeps
    | apply State.heldWait_keeps | simp only [Keeps.upd_iff] | split

theorem State.sysResetWrite_keeps (v : Nat) (h : Keeps s t) : Keeps s (State.sysResetWrite t v) := by
  unfold State.sysResetWrite
  with_reducible repeat' first
    | assumption | apply State.resetReq_keeps | simp only [Keeps.upd_iff] | split

theorem State.warmDone_keeps (h : Keeps s t) : Keeps s (State.warmDone t) := by
  unfold State.warmDone
  with_reducible repeat' first
    | assumption | apply State.raise_keeps | simp only [Keeps.upd_iff] | split

theorem State.domReset_keeps (d : Nat) (h : Keeps s t) : Keeps s (State.domReset t d) := by
  unfold State.domReset
  with_reducible repeat' first
    | assumption | apply State.portOff_keeps | apply State.coursePowerOff_keeps | apply State.lampOffReq_keeps
    | simp only [Keeps.upd_iff] | split

theorem State.dresetWrite_keeps (v : Nat) (h : Keeps s t) : Keeps s (State.dresetWrite t v) := by
  unfold State.dresetWrite
  with_reducible repeat' first
    | assumption | apply State.domReset_keeps | apply State.raise_keeps | refine Keeps.foldl _ (fun _ _ _ => ?_) ?_
    | simp only [Keeps.upd_iff] | split

theorem State.thermResume_keeps (h : Keeps s t) : Keeps s (State.thermResume t) := by
  unfold State.thermResume
  with_reducible repeat' first
    | assumption | apply State.wakeUp_keeps | apply State.capTherm_keeps | apply State.thermCalm_keeps
    | apply State.put_keeps | apply State.raise_keeps | simp only [Keeps.upd_iff] | split

theorem State.sysMonClr_keeps (h : Keeps s t) : Keeps s (State.sysMonClr t) := by
  unfold State.sysMonClr
  with_reducible repeat' first
    | assumption | apply State.monClear_keeps | refine Keeps.foldl _ (fun _ _ _ => ?_) ?_ | simp only [Keeps.upd_iff] | split

theorem State.rollEvent_keeps (k : Nat) (h : Keeps s t) : Keeps s (State.rollEvent t k) := by
  unfold State.rollEvent
  with_reducible repeat' first
    | assumption | apply State.event_keeps | simp only [Keeps.upd_iff] | split

theorem State.rollup_keeps (h : Keeps s t) : Keeps s (State.rollup t) := by
  unfold State.rollup
  with_reducible repeat' first
    | assumption | apply State.rollEvent_keeps | apply State.raise_keeps | simp only [Keeps.upd_iff] | split

theorem State.holdoffEnd_keeps (h : Keeps s t) : Keeps s (State.holdoffEnd t) := by
  unfold State.holdoffEnd
  with_reducible repeat' first
    | assumption | apply State.rollEvent_keeps | apply State.at_keeps | simp only [Keeps.upd_iff] | split

end

theorem execPowerOn_goes (ohms : Nat) (mbAddr : Fin 8) (t : Nat) (s : State) : goesOn (execPowerOn ohms mbAddr t s) (Keeps s) := by
  have h := Keeps.refl s
  unfold execPowerOn
  with_reducible repeat' first | apply goesOn.next | split
  all_goals
    with_reducible repeat' first
      | assumption | apply State.powerOn_keeps | simp only [Keeps.upd_iff] | split

theorem execReplayDone_goes (r : ReplayEnd) (s : State) : goesOn (execReplayDone r s) (Keeps s) := by
  have h := Keeps.refl s
  unfold execReplayDone
  with_reducible repeat' first | apply goesOn.next | split
  all_goals
    with_reducible repeat' first
      | assumption | apply State.replayDone_keeps | simp only [Keeps.upd_iff] | split

theorem execReady_goes (loft : Bool) (s : State) : goesOn (execReady s loft) (Keeps s) := by
  have h := Keeps.refl s
  unfold execReady
  with_reducible repeat' first | apply goesOn.next | split
  all_goals
    with_reducible repeat' first
      | assumption | apply State.readyStep_keeps | simp only [Keeps.upd_iff] | split

theorem execWarmReset_goes (s : State) : goesOn (execWarmReset s) (Keeps s) := by
  have h := Keeps.refl s
  unfold execWarmReset
  with_reducible repeat' first | apply goesOn.next | split
  all_goals
    with_reducible repeat' first
      | assumption | apply State.resetReq_keeps | simp only [Keeps.upd_iff] | split

theorem execColdReset_goes (mbAddr : Fin 8) (s : State) : goesOn (execColdReset mbAddr s) (Keeps s) := by
  have h := Keeps.refl s
  unfold execColdReset
  with_reducible repeat' first | apply goesOn.next | split
  all_goals
    with_reducible repeat' first
      | assumption | apply State.resetReq_keeps | simp only [Keeps.upd_iff] | split

theorem execSupervisorWdog_goes (s : State) : goesOn (execSupervisorWdog s) (Keeps s) := by
  have h := Keeps.refl s
  unfold execSupervisorWdog
  with_reducible repeat' first | apply goesOn.next | split
  all_goals
    with_reducible repeat' first
      | assumption | apply State.resetReq_keeps | simp only [Keeps.upd_iff] | split

theorem execWarmDone_goes (s : State) : goesOn (execWarmDone s) (Keeps s) := by
  have h := Keeps.refl s
  unfold execWarmDone
  with_reducible repeat' first | apply goesOn.next | split
  all_goals
    with_reducible repeat' first
      | assumption | apply State.warmDone_keeps | simp only [Keeps.upd_iff] | split

theorem execDomainReset_goes (v : Word) (s : State) : goesOn (execDomainReset v s) (Keeps s) := by
  have h := Keeps.refl s
  unfold execDomainReset
  with_reducible repeat' first | apply goesOn.next | split
  all_goals
    with_reducible repeat' first
      | assumption | apply State.dresetWrite_keeps | simp only [Keeps.upd_iff] | split

theorem execThermResume_goes (s : State) : goesOn (execThermResume s) (Keeps s) := by
  have h := Keeps.refl s
  unfold execThermResume
  with_reducible repeat' first | apply goesOn.next | split
  all_goals
    with_reducible repeat' first
      | assumption | apply State.thermResume_keeps | simp only [Keeps.upd_iff] | split

theorem execSysMonClr_goes (s : State) : goesOn (execSysMonClr s) (Keeps s) := by
  have h := Keeps.refl s
  unfold execSysMonClr
  with_reducible repeat' first | apply goesOn.next | split
  all_goals
    with_reducible repeat' first
      | assumption | apply State.sysMonClr_keeps | simp only [Keeps.upd_iff] | split

theorem execRollupEvent_goes (s : State) : goesOn (execRollupEvent s) (Keeps s) := by
  have h := Keeps.refl s
  unfold execRollupEvent
  with_reducible repeat' first | apply goesOn.next | split
  all_goals
    with_reducible repeat' first
      | assumption | apply State.rollup_keeps | simp only [Keeps.upd_iff] | split

theorem execRollupHoldoffEnd_goes (s : State) : goesOn (execRollupHoldoffEnd s) (Keeps s) := by
  have h := Keeps.refl s
  unfold execRollupHoldoffEnd
  with_reducible repeat' first | apply goesOn.next | split
  all_goals
    with_reducible repeat' first
      | assumption | apply State.holdoffEnd_keeps | simp only [Keeps.upd_iff] | split

end Sys2Proof.Machine
end

