-- ==== Sys2Proof/Laws/KeepsAccess.lean ====
section
/-! SUPPORT. What no operation of `Machine/Access.lean` does (`Keeps`), one lemma per operation, and that each command goes on. -/
namespace Sys2Proof.Machine
set_option linter.unusedVariables false
set_option linter.unusedSimpArgs false

section
variable {s t : State}

theorem State.intClr_keeps (page v : Nat) (h : Keeps s t) : Keeps s (State.intClr t page v) := by
  unfold State.intClr
  with_reducible repeat' first
    | assumption | apply State.put_keeps | simp only [Keeps.upd_iff] | split

theorem State.intMaskWrite_keeps (page v : Nat) (h : Keeps s t) : Keeps s (State.intMaskWrite t page v) := by
  unfold State.intMaskWrite
  with_reducible repeat' first
    | assumption | apply State.put_keeps | apply State.settleFrom_keeps | simp only [Keeps.upd_iff] | split

theorem State.evtCntWrite_keeps (page n v : Nat) (h : Keeps s t) : Keeps s (State.evtCntWrite t page n v) := by
  unfold State.evtCntWrite
  with_reducible repeat' first
    | assumption | apply State.put_keeps | refine Keeps.foldl _ (fun _ _ _ => ?_) ?_ | simp only [Keeps.upd_iff] | split

theorem State.hdrWrite_keeps (page off v : Nat) (h : Keeps s t) : Keeps s (State.hdrWrite t page off v) := by
  unfold State.hdrWrite
  with_reducible repeat' first
    | assumption | apply State.evtCntWrite_keeps | apply State.intMaskWrite_keeps | apply State.intClr_keeps
    | apply State.pageCommit_keeps | simp only [Keeps.upd_iff] | split

theorem State.compatWrite_keeps (v : Nat) (h : Keeps s t) : Keeps s (State.compatWrite t v) := by
  unfold State.compatWrite
  with_reducible repeat' first
    | assumption | apply State.put_keeps | simp only [Keeps.upd_iff] | split

theorem State.shadowSet_keeps (hi : Nat) (v : Nat) (h : Keeps s t) : Keeps s (State.shadowSet t hi v) := by
  unfold State.shadowSet
  with_reducible repeat' first
    | assumption | simp only [Keeps.upd_iff] | split

theorem State.shadowDrop_keeps (hi : Nat) (h : Keeps s t) : Keeps s (State.shadowDrop t hi) := by
  unfold State.shadowDrop
  with_reducible repeat' first
    | assumption | simp only [Keeps.upd_iff] | split

theorem State.lowRead_keeps (a : Nat) (h : Keeps s t) : Keeps s (State.lowRead t a) := by
  unfold State.lowRead
  with_reducible repeat' first
    | assumption | apply State.shadowSet_keeps | apply State.put_keeps | simp only [Keeps.upd_iff] | split

theorem State.restRead_keeps (a : Nat) (h : Keeps s t) : Keeps s (State.restRead t a).2 := by
  unfold State.restRead
  with_reducible repeat' first
    | assumption | apply State.lowRead_keeps | apply State.shadowDrop_keeps | refine State.fresh_out ‹_› ?_
    | apply State.fresh_keeps | apply State.put_keeps | apply State.raise_keeps | simp only [Keeps.upd_iff] | split

theorem State.restRead_out {a : Nat} {u : State} {out : Nat} (e : State.restRead t a = (out, u)) (h : Keeps s t) : Keeps s u := by
  have k := State.restRead_keeps a h
  rwa [e] at k

theorem State.regRead_keeps (a : Nat) (h : Keeps s t) : Keeps s (State.regRead t a).2 := by
  unfold State.regRead
  with_reducible repeat' first
    | assumption | refine State.restRead_out ‹_› ?_ | apply State.restRead_keeps | simp only [Keeps.upd_iff] | split

theorem State.regRead_out {a : Nat} {u : State} {out : Nat} (e : State.regRead t a = (out, u)) (h : Keeps s t) : Keeps s u := by
  have k := State.regRead_keeps a h
  rwa [e] at k

theorem State.readOut_keeps (a : Nat) (h : Keeps s t) : Keeps s (State.readOut t a) := by
  unfold State.readOut
  with_reducible repeat' first
    | assumption | refine State.regRead_out ‹_› ?_ | apply State.regRead_keeps | simp only [Keeps.upd_iff] | split

theorem State.plainWrite_keeps (a v : Nat) (h : Keeps s t) : Keeps s (State.plainWrite t a v) := by
  unfold State.plainWrite
  with_reducible repeat' first
    | assumption | apply State.bankWrite_keeps | apply State.nextWrite_keeps | apply State.writeWord_keeps
    | simp only [Keeps.upd_iff] | split

theorem State.cntCtrl_keeps (k v : Nat) (h : Keeps s t) : Keeps s (State.cntCtrl t k v) := by
  unfold State.cntCtrl
  with_reducible repeat' first
    | assumption | apply State.writeWord_keeps | simp only [Keeps.upd_iff] | split

theorem State.tmrWrite_keeps (off v : Nat) (h : Keeps s t) : Keeps s (State.tmrWrite t off v) := by
  unfold State.tmrWrite
  with_reducible repeat' first
    | assumption | apply State.cntCtrl_keeps | apply State.plainWrite_keeps | apply State.writeWord_keeps
    | apply State.snapshot_keeps | apply State.ccArm_keeps | apply State.capture_keeps | apply State.cntLoad_keeps
    | apply State.put_keeps | apply State.raise_keeps | simp only [Keeps.upd_iff] | split

theorem State.clkWrite_keeps (off v : Nat) (h : Keeps s t) : Keeps s (State.clkWrite t off v) := by
  unfold State.clkWrite
  with_reducible repeat' first
    | assumption | apply State.plainWrite_keeps | apply State.pllCtrl_keeps | apply State.reload_keeps
    | apply State.writeWord_keeps | apply State.raise_keeps | simp only [Keeps.upd_iff] | split

theorem State.shWrite_keeps (sh off v : Nat) (h : Keeps s t) : Keeps s (State.shWrite t sh off v) := by
  unfold State.shWrite
  with_reducible repeat' first
    | assumption | apply State.release_keeps | apply State.shShow_keeps | apply State.writeWord_keeps
    | apply State.monClear_keeps | simp only [Keeps.upd_iff] | split

theorem State.dmaWrite_keeps (off v : Nat) (h : Keeps s t) : Keeps s (State.dmaWrite t off v) := by
  unfold State.dmaWrite
  with_reducible repeat' first
    | assumption | apply State.plainWrite_keeps | apply State.fenceGo_keeps | apply State.chanRingWrite_keeps
    | apply State.chanCtrl_keeps | apply State.tailWrite_keeps | simp only [Keeps.upd_iff] | split

theorem State.nvsCmdWrite_keeps (v : Nat) (h : Keeps s t) : Keeps s (State.nvsCmdWrite t v) := by
  unfold State.nvsCmdWrite
  with_reducible repeat' first
    | assumption | apply State.writeWord_keeps | apply State.nvsGo_keeps | refine State.fresh_out ‹_› ?_
    | apply State.fresh_keeps | simp only [Keeps.upd_iff] | split | intro _ _

theorem State.calDarkFree_keeps (i : Nat) (h : Keeps s t) : Keeps s (State.calDarkFree t i) := by
  unfold State.calDarkFree
  with_reducible repeat' first
    | assumption | apply State.calDark_keeps | simp only [Keeps.upd_iff] | split

theorem State.calWhiteFree_keeps (i : Nat) (h : Keeps s t) : Keeps s (State.calWhiteFree t i) := by
  unfold State.calWhiteFree
  with_reducible repeat' first
    | assumption | apply State.calWhite_keeps | simp only [Keeps.upd_iff] | split

theorem State.calTimingFree_keeps (i : Nat) (h : Keeps s t) : Keeps s (State.calTimingFree t i) := by
  unfold State.calTimingFree
  with_reducible repeat' first
    | assumption | apply State.calTiming_keeps | simp only [Keeps.upd_iff] | split

theorem State.calCmdWrite_keeps (v : Nat) (h : Keeps s t) : Keeps s (State.calCmdWrite t v) := by
  unfold State.calCmdWrite
  with_reducible repeat' first
    | assumption | apply State.calTimingFree_keeps | apply State.calWhiteFree_keeps | apply State.calDarkFree_keeps
    | apply State.calApply_keeps | apply State.calLoad_keeps | apply State.calAbort_keeps | apply State.writeWord_keeps
    | refine State.fresh_out ‹_› ?_ | apply State.fresh_keeps | apply State.put_keeps | simp only [Keeps.upd_iff] | split

theorem State.rpWrite_keeps (p off v : Nat) (h : Keeps s t) : Keeps s (State.rpWrite t p off v) := by
  unfold State.rpWrite
  with_reducible repeat' first
    | assumption | apply State.plainWrite_keeps | apply State.allocWrite_keeps | apply State.laneCtrl_keeps
    | apply State.portOff_keeps | apply State.retrain_keeps | apply State.writeWord_keeps | simp only [Keeps.upd_iff] | split

theorem State.pwrWrite_keeps (off v : Nat) (h : Keeps s t) : Keeps s (State.pwrWrite t off v) := by
  unfold State.pwrWrite
  with_reducible repeat' first
    | assumption | apply State.plainWrite_keeps | apply State.fallbackRun_keeps | apply State.faultClr_keeps
    | apply State.chargeStop_keeps | apply State.chargeGo_keeps | apply State.powerRequest_keeps | apply State.pwrShow_keeps
    | apply State.writeWord_keeps | simp only [Keeps.upd_iff] | split

theorem State.sysWrite_keeps (off v : Nat) (h : Keeps s t) : Keeps s (State.sysWrite t off v) := by
  unfold State.sysWrite
  with_reducible repeat' first
    | assumption | apply State.plainWrite_keeps | apply State.sysMonClr_keeps | apply State.dresetWrite_keeps
    | apply State.sysResetWrite_keeps | apply State.writeWord_keeps | apply State.settleFrom_keeps
    | simp only [Keeps.upd_iff] | split

theorem State.identWrite_keeps (off v : Nat) (h : Keeps s t) : Keeps s (State.identWrite t off v) := by
  unfold State.identWrite
  with_reducible repeat' first
    | assumption | apply State.compatWrite_keeps | simp only [Keeps.upd_iff] | split

theorem State.expWrite_keeps (off v : Nat) (h : Keeps s t) : Keeps s (State.expWrite t off v) := by
  unfold State.expWrite
  with_reducible repeat' first
    | assumption | apply State.plainWrite_keeps | apply State.expModeWrite_keeps | simp only [Keeps.upd_iff] | split

theorem State.rdoWrite_keeps (off v : Nat) (h : Keeps s t) : Keeps s (State.rdoWrite t off v) := by
  unfold State.rdoWrite
  with_reducible repeat' first
    | assumption | apply State.plainWrite_keeps | apply State.webDirWrite_keeps | simp only [Keeps.upd_iff] | split

theorem State.enggWrite_keeps (off v : Nat) (h : Keeps s t) : Keeps s (State.enggWrite t off v) := by
  unfold State.enggWrite
  with_reducible repeat' first
    | assumption | apply State.plainWrite_keeps | apply State.coursePwrWrite_keeps | simp only [Keeps.upd_iff] | split

theorem State.memWrite_keeps (off v : Nat) (h : Keeps s t) : Keeps s (State.memWrite t off v) := by
  unfold State.memWrite
  with_reducible repeat' first
    | assumption | apply State.plainWrite_keeps | apply State.bwShow_keeps | apply State.writeWord_keeps
    | apply State.put_keeps | apply State.bgProgress_keeps | simp only [Keeps.upd_iff] | split

theorem State.lampWrite_keeps (off v : Nat) (h : Keeps s t) : Keeps s (State.lampWrite t off v) := by
  unfold State.lampWrite
  with_reducible repeat' first
    | assumption | apply State.plainWrite_keeps | apply State.lampPwrWrite_keeps | simp only [Keeps.upd_iff] | split

theorem State.tickWrite_keeps (off v : Nat) (h : Keeps s t) : Keeps s (State.tickWrite t off v) := by
  unfold State.tickWrite
  with_reducible repeat' first
    | assumption | apply State.plainWrite_keeps | apply State.tickSrcWrite_keeps | apply State.writeWord_keeps
    | apply State.tickMonClr_keeps | simp only [Keeps.upd_iff] | split

theorem State.jobWrite_keeps (off v : Nat) (h : Keeps s t) : Keeps s (State.jobWrite t off v) := by
  unfold State.jobWrite
  with_reducible repeat' first
    | assumption | apply State.plainWrite_keeps | apply State.jobCtrl_keeps | apply State.writeWord_keeps
    | simp only [Keeps.upd_iff] | split

theorem State.ringWrite_keeps (off v : Nat) (h : Keeps s t) : Keeps s (State.ringWrite t off v) := by
  unfold State.ringWrite
  with_reducible repeat' first
    | assumption | apply State.plainWrite_keeps | apply State.ringCfgWrite_keeps | apply State.ringRdWrite_keeps
    | simp only [Keeps.upd_iff] | split

theorem State.nvsWrite_keeps (off v : Nat) (h : Keeps s t) : Keeps s (State.nvsWrite t off v) := by
  unfold State.nvsWrite
  with_reducible repeat' first
    | assumption | apply State.nvsCmdWrite_keeps | apply State.plainWrite_keeps | simp only [Keeps.upd_iff] | split

theorem State.chainWrite_keeps (off v : Nat) (h : Keeps s t) : Keeps s (State.chainWrite t off v) := by
  unfold State.chainWrite
  with_reducible repeat' first
    | assumption | apply State.plainWrite_keeps | apply State.chainMonClr_keeps | apply State.nextWrite_keeps
    | simp only [Keeps.upd_iff] | split

theorem State.calWrite_keeps (off v : Nat) (h : Keeps s t) : Keeps s (State.calWrite t off v) := by
  unfold State.calWrite
  with_reducible repeat' first
    | assumption | apply State.calCmdWrite_keeps | apply State.plainWrite_keeps | apply State.bgProgress_keeps
    | simp only [Keeps.upd_iff] | split

theorem State.thermWrite_keeps (off v : Nat) (h : Keeps s t) : Keeps s (State.thermWrite t off v) := by
  unfold State.thermWrite
  with_reducible repeat' first
    | assumption | apply State.plainWrite_keeps | apply State.thermResume_keeps | apply State.thrWrite_keeps
    | simp only [Keeps.upd_iff] | split

theorem State.mbPageWrite_keeps (off v : Nat) (h : Keeps s t) : Keeps s (State.mbPageWrite t off v) := by
  unfold State.mbPageWrite
  with_reducible repeat' first
    | assumption | apply State.plainWrite_keeps | apply State.intClr_keeps | simp only [Keeps.upd_iff] | split

theorem State.restWriteLow_keeps (page off v : Nat) (h : Keeps s t) : Keeps s (State.restWriteLow t page off v) := by
  unfold State.restWriteLow
  with_reducible repeat' first
    | assumption | apply State.ringWrite_keeps | apply State.jobWrite_keeps | apply State.tickWrite_keeps
    | apply State.memWrite_keeps | apply State.enggWrite_keeps | apply State.rdoWrite_keeps | apply State.expWrite_keeps
    | apply State.identWrite_keeps | apply State.dmaWrite_keeps | apply State.shWrite_keeps | apply State.clkWrite_keeps
    | apply State.tmrWrite_keeps | apply State.plainWrite_keeps | simp only [Keeps.upd_iff] | split

theorem State.restWrite_keeps (a v : Nat) (h : Keeps s t) : Keeps s (State.restWrite t a v) := by
  unfold State.restWrite
  with_reducible repeat' first
    | assumption | apply State.restWriteLow_keeps | apply State.mbPageWrite_keeps | apply State.thermWrite_keeps
    | apply State.calWrite_keeps | apply State.chainWrite_keeps | apply State.nvsWrite_keeps | apply State.lampWrite_keeps
    | apply State.sysWrite_keeps | apply State.pwrWrite_keeps | apply State.rpWrite_keeps | simp only [Keeps.upd_iff] | split

theorem State.regWrite_keeps (a v : Nat) (h : Keeps s t) : Keeps s (State.regWrite t a v) := by
  unfold State.regWrite
  with_reducible repeat' first
    | assumption | apply State.restWrite_keeps | apply State.hdrWrite_keeps | simp only [Keeps.upd_iff] | split

end

theorem execIntClr_goes (page : Nat) (v : Word) (s : State) : goesOn (execIntClr page v s) (Keeps s) := by
  have h := Keeps.refl s
  unfold execIntClr
  with_reducible repeat' first | apply goesOn.next | split
  all_goals
    with_reducible repeat' first
      | assumption | apply State.intClr_keeps | simp only [Keeps.upd_iff] | split

theorem execEvtCntWrite_goes (page : Nat) (n : Fin 4) (v : Word) (s : State) : goesOn (execEvtCntWrite page n v s) (Keeps s) := by
  have h := Keeps.refl s
  unfold execEvtCntWrite
  with_reducible repeat' first | apply goesOn.next | split
  all_goals
    with_reducible repeat' first
      | assumption | apply State.evtCntWrite_keeps | simp only [Keeps.upd_iff] | split

theorem execCompatWrite_goes (v : Word) (s : State) : goesOn (execCompatWrite v s) (Keeps s) := by
  have h := Keeps.refl s
  unfold execCompatWrite
  with_reducible repeat' first | apply goesOn.next | split
  all_goals
    with_reducible repeat' first
      | assumption | apply State.compatWrite_keeps | simp only [Keeps.upd_iff] | split

theorem execShadowLowRead_goes (addr : Nat) (s : State) : goesOn (execShadowLowRead addr s) (Keeps s) := by
  have h := Keeps.refl s
  unfold execShadowLowRead
  with_reducible repeat' first | apply goesOn.next | split
  all_goals
    with_reducible repeat' first
      | assumption | apply State.readOut_keeps | simp only [Keeps.upd_iff] | split

theorem execShadowHighRead_goes (addr : Nat) (s : State) : goesOn (execShadowHighRead addr s) (Keeps s) := by
  have h := Keeps.refl s
  unfold execShadowHighRead
  with_reducible repeat' first | apply goesOn.next | split
  all_goals
    with_reducible repeat' first
      | assumption | apply State.readOut_keeps | simp only [Keeps.upd_iff] | split

theorem execErrAddrRead_goes (s : State) : goesOn (execErrAddrRead s) (Keeps s) := by
  have h := Keeps.refl s
  unfold execErrAddrRead
  with_reducible repeat' first | apply goesOn.next | split
  all_goals
    with_reducible repeat' first
      | assumption | apply State.readOut_keeps | simp only [Keeps.upd_iff] | split

theorem execRegisterWrite_goes (addr : Nat) (v : Word) (s : State) : goesOn (execRegisterWrite addr v s) (Keeps s) := by
  have h := Keeps.refl s
  unfold execRegisterWrite
  with_reducible repeat' first | apply goesOn.next | split
  all_goals
    with_reducible repeat' first
      | assumption | apply State.regWrite_keeps | simp only [Keeps.upd_iff] | split

end Sys2Proof.Machine
end

