-- ==== Sys2Proof/Laws/KeepsDmaRun.lean ====
section
/-! SUPPORT. What no operation of `Machine/DmaRun.lean` does (`Keeps`), one lemma per operation, and that each command goes on. -/
namespace Sys2Proof.Machine
set_option linter.unusedVariables false
set_option linter.unusedSimpArgs false

section
variable {s t : State}

theorem State.trayHost_keeps (sh : Nat) (h : Keeps s t) : Keeps s (State.trayHost t sh) := by
  unfold State.trayHost
  with_reducible repeat' first
    | assumption | apply State.setEngine_keeps | simp only [Keeps.upd_iff] | split

theorem State.dmaRead_out {a w : Nat} {u : State} {out : Nat ⊕ List Nat} (e : State.dmaRead t a w = (u, out)) (h : Keeps s t) :
    Keeps s u := by
  unfold State.dmaRead at e
  split at e
  · cases e; exact h
  · split at e
    · split at e
      cases e
      exact State.regRead_out ‹_› h
    · split at e
      · cases e; exact State.ddrRead_keeps _ _ h
      · cases e
        with_reducible repeat' first | assumption | apply State.trayHost_keeps | split

theorem State.trayWrite_keeps (sh ofs : Nat) (bs : List Nat) (h : Keeps s t) : Keeps s (State.trayWrite t sh ofs bs) := by
  unfold State.trayWrite
  with_reducible repeat' first
    | assumption | apply State.trayHost_keeps | apply State.put_keeps | apply State.raise_keeps | apply State.setBytes_keeps
    | simp only [Keeps.upd_iff] | split

theorem State.dmaWriteUnit_keeps (a : Nat) (bs : List Nat) (h : Keeps s t) : Keeps s (State.dmaWriteUnit t a bs).1 := by
  unfold State.dmaWriteUnit
  with_reducible repeat' first
    | assumption | apply State.trayWrite_keeps | apply State.regWrite_keeps | apply State.setBytes_keeps
    | refine Keeps.foldl _ (fun _ _ _ => ?_) ?_ | simp only [Keeps.upd_iff] | split

theorem State.dmaWriteUnit_out {a : Nat} {bs : List Nat} {u : State} {out : Nat} (e : State.dmaWriteUnit t a bs = (u, out))
    (h : Keeps s t) : Keeps s u := by
  have k := State.dmaWriteUnit_keeps a bs h
  rwa [e] at k

theorem State.bulkTake_keeps (p v k : Nat) (h : Keeps s t) : Keeps s (State.bulkTake t p v k).2 := by
  unfold State.bulkTake
  with_reducible repeat' first
    | assumption | apply State.setPort_keeps | simp only [Keeps.upd_iff] | split

theorem State.bulkTake_out {p v k : Nat} {u : State} {out : List Nat} (e : State.bulkTake t p v k = (out, u)) (h : Keeps s t) :
    Keeps s u := by
  have k := State.bulkTake_keeps p v k h
  rwa [e] at k

theorem State.dmaFill_keeps (k n want : Nat) (h : Keeps s t) : Keeps s (State.dmaFill k t n want) := by
  induction k generalizing t with
  | zero => exact h
  | succ k ih =>
    unfold State.dmaFill
    with_reducible repeat' first
      | assumption | refine State.dmaRead_out ‹_› ?_ | apply ih | apply State.setChan_keeps | apply State.bulkTake_keeps
      | dsimp only | split

theorem State.dmaDeliver_keeps (n : Nat) (h : Keeps s t) : Keeps s (State.dmaDeliver t n) := by
  unfold State.dmaDeliver
  with_reducible repeat' first
    | assumption | refine State.dmaWriteUnit_out ‹_› ?_ | apply State.setChan_keeps | apply State.txPush_keeps
    | apply State.dmaWriteUnit_keeps | simp only [Keeps.upd_iff] | split

theorem State.dmaPump_keeps (k n upTo : Nat) (h : Keeps s t) : Keeps s (State.dmaPump k t n upTo) := by
  induction k generalizing t with
  | zero => exact h
  | succ k ih =>
    unfold State.dmaPump
    with_reducible repeat' first
      | assumption | apply ih | apply State.dmaDeliver_keeps | apply State.dmaFill_keeps | dsimp only | split

theorem State.dmaSettle_keeps (n : Nat) (h : Keeps s t) : Keeps s (State.dmaSettle t n) := by
  unfold State.dmaSettle
  with_reducible repeat' first
    | assumption | apply State.chanShow_keeps | apply State.stagedShow_keeps | apply State.setChan_keeps
    | simp only [Keeps.upd_iff] | split

theorem State.dmaTransfer_keeps (n : Nat) (h : Keeps s t) : Keeps s (State.dmaTransfer t n) :=
  State.dmaSettle_keeps _ (State.dmaPump_keeps _ _ _ h)

theorem State.dmaServe_keeps (n : Nat) (h : Keeps s t) : Keeps s (State.dmaServe t n) := by
  unfold State.dmaServe
  with_reducible repeat' first
    | assumption | apply State.dmaTransfer_keeps | simp only [Keeps.upd_iff] | split

theorem State.dmaTurns_keeps (k : Nat) (go : State → Bool) (h : Keeps s t) : Keeps s (State.dmaTurns k t go) := by
  induction k generalizing t with
  | zero => exact h
  | succ k ih =>
    unfold State.dmaTurns
    with_reducible repeat' first
      | assumption | apply ih | apply State.dmaServe_keeps | simp only [Keeps.upd_iff] | split

theorem State.dmaBegin_keeps (n : Nat) (h : Keeps s t) : Keeps s (State.dmaBegin t n) := by
  unfold State.dmaBegin
  with_reducible repeat' first
    | assumption | apply State.dmaSettle_keeps | apply State.setChan_keeps | apply State.ddrRead_keeps
    | refine State.fresh_out ‹_› ?_ | apply State.fresh_keeps | simp only [Keeps.upd_iff] | split

theorem State.dmaDescriptor_keeps (n : Nat) (h : Keeps s t) : Keeps s (State.dmaDescriptor t n) := by
  unfold State.dmaDescriptor
  with_reducible repeat' first
    | assumption | apply State.dmaTurns_keeps | refine Keeps.foldl _ (fun _ _ _ => ?_) ?_ | apply State.dmaBegin_keeps | split

theorem State.dmaDone_keeps (n : Nat) (h : Keeps s t) : Keeps s (State.dmaDone t n) := by
  unfold State.dmaDone
  with_reducible repeat' first
    | assumption | apply State.headNext_keeps | apply State.chanShow_keeps | apply State.fenceShrink_keeps
    | apply State.stagedShow_keeps | apply State.setChan_keeps | apply State.compactResume_keeps | apply State.eventOn_keeps
    | apply State.put_keeps | apply State.bump_keeps | apply State.raise_keeps | apply State.setBytes_keeps
    | simp only [Keeps.upd_iff] | split

theorem State.bulk_keeps (p : Pkt) (bs : List Nat) (h : Keeps s t) : Keeps s (State.bulk t p bs) := by
  unfold State.bulk
  with_reducible repeat' first
    | assumption | apply State.dmaTurns_keeps | refine State.receive_out ‹_› ?_ | apply State.receive_keeps
    | apply State.setPort_keeps | simp only [Keeps.upd_iff] | split

end

theorem execDmaDescriptor_goes (n : Fin 32) (s : State) : goesOn (execDmaDescriptor n s) (Keeps s) := by
  have h := Keeps.refl s
  unfold execDmaDescriptor
  with_reducible repeat' first | apply goesOn.next | split
  all_goals
    with_reducible repeat' first
      | assumption | apply State.dmaDescriptor_keeps | simp only [Keeps.upd_iff] | split

theorem execDmaDone_goes (n : Fin 32) (s : State) : goesOn (execDmaDone n s) (Keeps s) := by
  have h := Keeps.refl s
  unfold execDmaDone
  with_reducible repeat' first | apply goesOn.next | split
  all_goals
    with_reducible repeat' first
      | assumption | apply State.dmaDone_keeps | simp only [Keeps.upd_iff] | split

theorem execBulk_goes (p : Pkt) (payload : List Byte) (s : State) : goesOn (execBulk p payload s) (Keeps s) := by
  have h := Keeps.refl s
  unfold execBulk
  with_reducible repeat' first | apply goesOn.next | split
  all_goals
    with_reducible repeat' first
      | assumption | apply State.bulk_keeps | simp only [Keeps.upd_iff] | split

end Sys2Proof.Machine
end

