-- ==== Sys2Proof/Laws/KeepsPackets.lean ====
section
/-! SUPPORT. What no operation of `Machine/Packets.lean` does (`Keeps`), one lemma per operation, and that each command goes on. -/
namespace Sys2Proof.Machine
set_option linter.unusedVariables false
set_option linter.unusedSimpArgs false

section
variable {s t : State}

theorem State.regSend_keeps (q vc type : Nat) (m : RegMsg) (h : Keeps s t) : Keeps s (State.regSend t q vc type m) := by
  unfold State.regSend
  with_reducible repeat' first
    | assumption | apply State.txPush_keeps | simp only [Keeps.upd_iff] | split

theorem State.readWords_keeps (n : Nat) {a : Nat} (h : Keeps s t) : Keeps s (State.readWords n t a).2 := by
  induction n generalizing t a with
  | zero => exact h
  | succ n ih =>
    unfold State.readWords
    exact ih (State.regRead_keeps _ h)

theorem State.readWords_out {n a : Nat} {u : State} {out : List Nat} (e : State.readWords n t a = (out, u)) (h : Keeps s t) :
    Keeps s u := by
  have k := State.readWords_keeps n (a := a) h
  rwa [e] at k

theorem State.writeWords_keeps (a : Nat) (vs : List Nat) (h : Keeps s t) : Keeps s (State.writeWords t a vs) := by
  induction vs generalizing t a with
  | nil => exact h
  | cons v vs ih => exact ih _ (State.regWrite_keeps _ _ h)

theorem State.regExec_keeps (m : RegMsg) (h : Keeps s t) : Keeps s (State.regExec t m).2 := by
  unfold State.regExec
  with_reducible repeat' first
    | assumption | refine State.readWords_out ‹_› ?_ | apply State.readWords_keeps | apply State.writeWords_keeps | dsimp only |
    split

theorem State.regExec_out {m : RegMsg} {u : State} {out : RegMsg} (e : State.regExec t m = (out, u)) (h : Keeps s t) :
    Keeps s u := by
  have k := State.regExec_keeps m h
  rwa [e] at k

theorem State.regReq_keeps (p : Pkt) (sent : RegMsg) (h : Keeps s t) : Keeps s (State.regReq t p sent) := by
  unfold State.regReq
  with_reducible repeat' first
    | assumption | refine State.regExec_out ‹_› ?_ | apply State.regSend_keeps | refine State.receive_out ‹_› ?_
    | apply State.regExec_keeps | apply State.receive_keeps | simp only [Keeps.upd_iff] | split

theorem State.regRsp_keeps (p : Pkt) (sent : RegMsg) (h : Keeps s t) : Keeps s (State.regRsp t p sent) := by
  unfold State.regRsp
  with_reducible repeat' first
    | assumption | apply State.regSend_keeps | refine State.receive_out ‹_› ?_ | apply State.receive_keeps
    | simp only [Keeps.upd_iff] | split

end

theorem execRegReq_goes (p : Pkt) (tag : Word) (hops rhops entry op : Byte) (count : Half) (addr : Word) (data : List Word)
    (s : State) : goesOn (execRegReq p tag hops rhops entry op count addr data s) (Keeps s) := by
  have h := Keeps.refl s
  unfold execRegReq
  with_reducible repeat' first | apply goesOn.next | split
  all_goals
    with_reducible repeat' first
      | assumption | apply State.regReq_keeps | simp only [Keeps.upd_iff] | split

theorem execRegRsp_goes (p : Pkt) (tag : Word) (hops rhops entry status : Byte) (count : Half) (addr : Word) (data : List Word)
    (s : State) : goesOn (execRegRsp p tag hops rhops entry status count addr data s) (Keeps s) := by
  have h := Keeps.refl s
  unfold execRegRsp
  with_reducible repeat' first | apply goesOn.next | split
  all_goals
    with_reducible repeat' first
      | assumption | apply State.regRsp_keeps | simp only [Keeps.upd_iff] | split

end Sys2Proof.Machine
end

