-- ==== Sys2Proof/Laws/KeepsMgmt.lean ====
section
/-! SUPPORT. What no operation of `Machine/Mgmt.lean` does (`Keeps`), one lemma per operation, and that each command goes on. -/
namespace Sys2Proof.Machine
set_option linter.unusedVariables false
set_option linter.unusedSimpArgs false

section
variable {s t : State}

theorem State.mbStart_keeps (t_ : Nat) (h : Keeps s t) : Keeps s (State.mbStart t t_) := by
  unfold State.mbStart
  with_reducible repeat' first
    | assumption | apply State.put_keeps | apply State.at_keeps | simp only [Keeps.upd_iff] | split

theorem State.mbWakeNow_keeps (h : Keeps s t) : Keeps s (State.mbWakeNow t) := by
  unfold State.mbWakeNow
  with_reducible repeat' first
    | assumption | apply State.wakeUp_keeps | refine State.fresh_out ‹_› ?_ | apply State.fresh_keeps
    | apply State.raise_keeps | simp only [Keeps.upd_iff] | split

theorem State.mbAddress_keeps (t_ : Nat) (h : Keeps s t) : Keeps s (State.mbAddress t t_).1 := by
  unfold State.mbAddress
  with_reducible repeat' first
    | assumption | apply State.mbWakeNow_keeps | apply State.mbStart_keeps | apply State.raise_keeps
    | simp only [Keeps.upd_iff] | split

theorem State.mbAddress_out {t_ : Nat} {u : State} {out : Bool} (e : State.mbAddress t t_ = (u, out)) (h : Keeps s t) : Keeps s u
    := by
  have k := State.mbAddress_keeps t_ h
  rwa [e] at k

theorem State.mbTest_keeps (a : Nat) (h : Keeps s t) : Keeps s (State.mbTest t a).1 := by
  unfold State.mbTest
  with_reducible repeat' first
    | assumption | apply State.raise_keeps | simp only [Keeps.upd_iff] | split

theorem State.mbTest_out {a : Nat} {u : State} {out : Bool} (e : State.mbTest t a = (u, out)) (h : Keeps s t) : Keeps s u := by
  have k := State.mbTest_keeps a h
  rwa [e] at k

theorem State.mbWords_keeps : ∀ (a : Nat) (bs : List Nat) {s t : State}, Keeps s t → Keeps s (State.mbWords t a bs)
  | _, [], _, _, h => h
  | _, [_], _, _, h => State.raise_keeps _ h
  | _, [_, _], _, _, h => State.raise_keeps _ h
  | _, [_, _, _], _, _, h => State.raise_keeps _ h
  | a, b0 :: b1 :: b2 :: b3 :: bs, s, t, h => by
    rw [State.mbWords]
    split
    · exact State.mbWords_keeps _ bs (Keeps.upd (State.fresh_keeps (State.regWrite_keeps _ _ h)))
    · exact State.raise_keeps _ h

theorem State.mbWrite_keeps (a : Nat) (bs : List Nat) (t_ : Nat) (h : Keeps s t) : Keeps s (State.mbWrite t a bs t_) := by
  unfold State.mbWrite
  with_reducible repeat' first
    | assumption | apply State.mbWords_keeps | refine State.mbTest_out ‹_› ?_ | refine State.mbAddress_out ‹_› ?_
    | apply State.mbTest_keeps | apply State.mbAddress_keeps | simp only [Keeps.upd_iff] | split

theorem State.mbReadWords_keeps (n : Nat) {a : Nat} (h : Keeps s t) : Keeps s (State.mbReadWords n t a).2 := by
  induction n generalizing t a with
  | zero => exact h
  | succ n ih =>
    unfold State.mbReadWords
    refine ih ?_
    split
    · exact State.regRead_keeps _ h
    · exact State.raise_keeps _ h

theorem State.mbReadWords_out {n a : Nat} {u : State} {out : List Nat} (e : State.mbReadWords n t a = (out, u)) (h : Keeps s t) :
    Keeps s u := by
  have k := State.mbReadWords_keeps n (a := a) h
  rwa [e] at k

theorem State.mbRead_keeps (a n t_ : Nat) (h : Keeps s t) : Keeps s (State.mbRead t a n t_) := by
  unfold State.mbRead
  with_reducible repeat' first
    | assumption | refine State.mbReadWords_out ‹_› ?_ | refine State.mbTest_out ‹_› ?_ | refine State.mbAddress_out ‹_› ?_
    | apply State.mbReadWords_keeps | apply State.mbTest_keeps | apply State.mbAddress_keeps | simp only [Keeps.upd_iff] | split

theorem State.mbWake_keeps (t_ : Nat) (h : Keeps s t) : Keeps s (State.mbWake t t_) := by
  unfold State.mbWake
  with_reducible repeat' first
    | assumption | apply State.mbWakeNow_keeps | apply State.mbStart_keeps | simp only [Keeps.upd_iff] | split

theorem State.mbSleep_keeps (t_ : Nat) (h : Keeps s t) : Keeps s (State.mbSleep t t_) := by
  unfold State.mbSleep
  with_reducible repeat' first
    | assumption | apply State.at_keeps | simp only [Keeps.upd_iff] | split

theorem State.attnPulse_keeps (t_ : Nat) (h : Keeps s t) : Keeps s (State.attnPulse t t_) := by
  unfold State.attnPulse
  with_reducible repeat' first
    | assumption | apply State.at_keeps | simp only [Keeps.upd_iff] | split

end

theorem execMbWrite_goes (addr : Word) (data : List Byte) (t : Nat) (s : State) : goesOn (execMbWrite addr data t s) (Keeps s) :=
    by
  have h := Keeps.refl s
  unfold execMbWrite
  with_reducible repeat' first | apply goesOn.next | split
  all_goals
    with_reducible repeat' first
      | assumption | apply State.mbWrite_keeps | simp only [Keeps.upd_iff] | split

theorem execMbRead_goes (addr : Word) (n : Nat) (t : Nat) (s : State) : goesOn (execMbRead addr n t s) (Keeps s) := by
  have h := Keeps.refl s
  unfold execMbRead
  with_reducible repeat' first | apply goesOn.next | split
  all_goals
    with_reducible repeat' first
      | assumption | apply State.mbRead_keeps | simp only [Keeps.upd_iff] | split

theorem execMbWake_goes (t : Nat) (s : State) : goesOn (execMbWake t s) (Keeps s) := by
  have h := Keeps.refl s
  unfold execMbWake
  with_reducible repeat' first | apply goesOn.next | split
  all_goals
    with_reducible repeat' first
      | assumption | apply State.mbWake_keeps | simp only [Keeps.upd_iff] | split

theorem execMbWindowSleep_goes (t : Nat) (s : State) : goesOn (execMbWindowSleep t s) (Keeps s) := by
  have h := Keeps.refl s
  unfold execMbWindowSleep
  with_reducible repeat' first | apply goesOn.next | split
  all_goals
    with_reducible repeat' first
      | assumption | apply State.mbSleep_keeps | simp only [Keeps.upd_iff] | split

theorem execMbFraming_goes (s : State) : goesOn (execMbFraming s) (Keeps s) := by
  have h := Keeps.refl s
  unfold execMbFraming
  with_reducible repeat' first | apply goesOn.next | split
  all_goals
    with_reducible repeat' first
      | assumption | apply State.raise_keeps | simp only [Keeps.upd_iff] | split

theorem execMbStuck_goes (s : State) : goesOn (execMbStuck s) (Keeps s) := by
  have h := Keeps.refl s
  unfold execMbStuck
  with_reducible repeat' first | apply goesOn.next | split
  all_goals
    with_reducible repeat' first
      | assumption | apply State.raise_keeps | apply State.at_keeps | simp only [Keeps.upd_iff] | split

theorem execAttnPulse_goes (t : Nat) (s : State) : goesOn (execAttnPulse t s) (Keeps s) := by
  have h := Keeps.refl s
  unfold execAttnPulse
  with_reducible repeat' first | apply goesOn.next | split
  all_goals
    with_reducible repeat' first
      | assumption | apply State.attnPulse_keeps | simp only [Keeps.upd_iff] | split

end Sys2Proof.Machine
end

