-- ==== Sys2Proof/Laws/KeepsTickEdge.lean ====
section
/-! SUPPORT. What no operation of `Machine/TickEdge.lean` does (`Keeps`), one lemma per operation, and that each command goes on.
    -/
namespace Sys2Proof.Machine
set_option linter.unusedVariables false
set_option linter.unusedSimpArgs false

section
variable {s t : State}

theorem State.pageApply_keeps (page : Nat) (h : Keeps s t) : Keeps s (State.pageApply t page) := by
  unfold State.pageApply
  with_reducible repeat' first
    | assumption | apply State.devCommit_keeps | apply State.takeFrozen_keeps | apply State.rePredict_keeps
    | apply State.put_keeps | apply State.raise_keeps | simp only [Keeps.upd_iff] | split

theorem State.commitsApply_keeps (h : Keeps s t) : Keeps s (State.commitsApply t) :=
  Keeps.tables (Keeps.foldl t.commitPend (fun _ _ k => State.pageApply_keeps _ k) h) rfl rfl rfl id id (fun c => c.2.2.1)
    (fun _ => rfl)

theorem State.sourceForce_keeps (der : Nat) (h : Keeps s t) : Keeps s (State.sourceForce t der) := by
  unfold State.sourceForce
  with_reducible repeat' first
    | assumption | apply State.setChain_keeps | apply State.put_keeps | simp only [Keeps.upd_iff] | split

theorem State.areaDrop_keeps (h : Keeps s t) : Keeps s (State.areaDrop t) := by
  unfold State.areaDrop
  with_reducible repeat' first
    | assumption | simp only [Keeps.upd_iff] | split

theorem State.nextApply_keeps (der : Nat) (h : Keeps s t) : Keeps s (State.nextApply t der) := by
  unfold State.nextApply
  with_reducible repeat' first
    | assumption | apply State.areaDrop_keeps | apply State.sourceForce_keeps | apply State.fallbackGo_keeps
    | apply State.headShow_keeps | apply State.takeNext_keeps | apply State.put_keeps
    | refine Keeps.foldl _ (fun _ _ _ => ?_) ?_ | simp only [Keeps.upd_iff] | split

theorem State.bandApply_keeps (h : Keeps s t) : Keeps s (State.bandApply t) := by
  unfold State.bandApply
  with_reducible repeat' first
    | assumption | apply State.calDiscard_keeps | apply State.put_keeps | apply State.raise_keeps | simp only [Keeps.upd_iff]
    | split

theorem State.stepApply_keeps (h : Keeps s t) : Keeps s (State.stepApply t) := by
  unfold State.stepApply
  with_reducible repeat' first
    | assumption | apply State.shShow_keeps | apply State.kcapShow_keeps | apply State.put_keeps | apply State.raise_keeps
    | refine Keeps.foldl _ (fun _ _ _ => ?_) ?_ | simp only [Keeps.upd_iff] | split

theorem State.boundaryApply_keeps (der : Nat) (h : Keeps s t) : Keeps s (State.boundaryApply t der) := by
  unfold State.boundaryApply
  with_reducible repeat' first
    | assumption | apply State.stepApply_keeps | apply State.bandApply_keeps | apply State.nextApply_keeps
    | apply State.commitsApply_keeps | apply State.bwShow_keeps | apply State.holdViews_keeps | apply State.thermTake_keeps
    | apply State.capsShow_keeps | simp only [Keeps.upd_iff] | split

theorem State.calApplyDue_keeps (h : Keeps s t) : Keeps s (State.calApplyDue t) := by
  unfold State.calApplyDue
  with_reducible repeat' first
    | assumption | apply State.trimForce_keeps | apply State.setForce_keeps | apply State.calTakeover_keeps
    | simp only [Keeps.upd_iff] | split

theorem State.quietBoundary_keeps (h : Keeps s t) : Keeps s (State.quietBoundary t) := by
  unfold State.quietBoundary
  with_reducible repeat' first
    | assumption | apply State.calApplyDue_keeps | apply State.boundaryApply_keeps | apply State.ticknoPend_keeps
    | apply State.lampCommit_keeps | apply State.capTherm_keeps | apply State.capActShow_keeps | simp only [Keeps.upd_iff]
    | split

theorem State.rowSlots_keeps (t_ : Frac) (h : Keeps s t) : Keeps s (State.rowSlots t t_) := by
  unfold State.rowSlots
  with_reducible repeat' first
    | assumption | apply State.put_keeps | apply State.raise_keeps | simp only [Keeps.upd_iff] | split

theorem State.rowsEdge_keeps (t_ : Frac) (e : Nat) (h : Keeps s t) : Keeps s (State.rowsEdge t t_ e) := by
  unfold State.rowsEdge
  with_reducible repeat' first
    | assumption | apply State.rowSlots_keeps | apply State.gridRestart_keeps | apply State.rowBoundary_keeps
    | simp only [Keeps.upd_iff] | split

theorem State.capSlack_keeps (e : Nat) (h : Keeps s t) : Keeps s (State.capSlack t e) := by
  unfold State.capSlack
  with_reducible repeat' first
    | assumption | apply State.slackEnter_keeps | simp only [Keeps.upd_iff] | split

theorem State.exposeLine_keeps (x n e : Nat) (t_ : Frac) (sheet : Bool) (h : Keeps s t) : Keeps s
    (State.exposeLine t x n e t_ sheet) := by
  unfold State.exposeLine
  with_reducible repeat' first
    | assumption | apply State.lineExposed_keeps | apply State.exposeSlots_keeps | simp only [Keeps.upd_iff] | split

theorem State.exposeFrame_keeps (n e : Nat) (t_ : Frac) (h : Keeps s t) : Keeps s (State.exposeFrame t n e t_) := by
  unfold State.exposeFrame
  with_reducible repeat' first
    | assumption | apply State.frameExposed_keeps | apply State.exposeSlots_keeps | simp only [Keeps.upd_iff] | split

theorem State.expose_keeps (n e : Nat) (t_ : Frac) (sheet : Bool) (h : Keeps s t) : Keeps s (State.expose t n e t_ sheet) := by
  unfold State.expose
  with_reducible repeat' first
    | assumption | apply State.exposeFrame_keeps | apply State.exposeLine_keeps | apply State.expCounters_keeps
    | simp only [Keeps.upd_iff] | split

theorem State.refuseTick_keeps (n e : Nat) (sheet : Bool) (h : Keeps s t) : Keeps s (State.refuseTick t n e sheet) := by
  unfold State.refuseTick
  with_reducible repeat' first
    | assumption | apply State.countLost_keeps | apply State.lostTick_keeps | apply State.raise_keeps
    | simp only [Keeps.upd_iff] | split

theorem State.linesAdvance_keeps (e : Nat) (h : Keeps s t) : Keeps s (State.linesAdvance t e) := by
  unfold State.linesAdvance
  with_reducible repeat' first
    | assumption | simp only [Keeps.upd_iff] | split

theorem State.syncEdge_keeps (n : Nat) (exposed : Bool) (h : Keeps s t) : Keeps s (State.syncEdge t n exposed) := by
  unfold State.syncEdge
  with_reducible repeat' first
    | assumption | apply State.syncPulse_keeps | simp only [Keeps.upd_iff] | split

theorem State.tickNumber_keeps (d : DerTick) (h : Keeps s t) : Keeps s (State.tickNumber t d).2 := by
  unfold State.tickNumber
  with_reducible repeat' first
    | assumption | apply State.tno_keeps | apply State.setChain_keeps | apply State.raise_keeps | simp only [Keeps.upd_iff]
    | split

theorem State.tickNumber_out {d : DerTick} {u : State} {out : Nat} (e : State.tickNumber t d = (out, u)) (h : Keeps s t) : Keeps
    s u := by
  have k := State.tickNumber_keeps d h
  rwa [e] at k

theorem State.tickPred_keeps (d : DerTick) (h : Keeps s t) : Keeps s (State.tickPred t d).2 := by
  unfold State.tickPred
  with_reducible repeat' first
    | assumption | refine State.fresh_out ‹_› ?_ | apply State.fresh_keeps | simp only [Keeps.upd_iff] | split

theorem State.tickPred_out {d : DerTick} {u : State} {out : Frac} (e : State.tickPred t d = (out, u)) (h : Keeps s t) : Keeps s u
    := by
  have k := State.tickPred_keeps d h
  rwa [e] at k

theorem State.tickAt_keeps (d : DerTick) (n : Nat) (t_ : Frac) (h : Keeps s t) : Keeps s (State.tickAt t d n t_) := by
  unfold State.tickAt
  with_reducible repeat' first
    | assumption | apply State.syncEdge_keeps | apply State.linesAdvance_keeps | apply State.refuseTick_keeps
    | apply State.expose_keeps | apply State.capSlack_keeps | apply State.rowsEdge_keeps | apply State.boundaryApply_keeps
    | apply State.skipOver_keeps | apply State.setTickno_keeps | apply State.repSettle_keeps | apply State.jobTick_keeps
    | apply State.enginesEdge_keeps | apply State.lampCommit_keeps | apply State.lampEdge_keeps
    | apply State.calBoundary_keeps | apply State.capTherm_keeps | apply State.repsDone_keeps | apply State.cutSlots_keeps
    | apply State.slackEdge_keeps | apply State.tickCounters_keeps | apply State.linesSettle_keeps
    | apply State.capActShow_keeps | apply State.put_keeps | simp only [Keeps.upd_iff] | split

theorem State.tickEdge_keeps (h : Keeps s t) : Keeps s (State.tickEdge t) := by
  unfold State.tickEdge
  with_reducible repeat' first
    | assumption | apply State.tickAt_keeps | refine State.tickPred_out ‹_› ?_ | refine State.tickNumber_out ‹_› ?_
    | apply State.tno_keeps | apply State.noEdgeQueue_keeps | apply State.chainGap_keeps | apply State.lifeBefore_keeps
    | apply State.linesSettle_keeps | apply State.at_keeps | apply State.tickPred_keeps | apply State.tickNumber_keeps
    | simp only [Keeps.upd_iff] | split

theorem State.tickStopped_keeps (h : Keeps s t) : Keeps s (State.tickStopped t) := by
  unfold State.tickStopped
  with_reducible repeat' first
    | assumption | apply State.put_keeps | apply State.raise_keeps | apply State.at_keeps | simp only [Keeps.upd_iff] | split

theorem State.flushStep_keeps (h : Keeps s t) : Keeps s (State.flushStep t) := by
  unfold State.flushStep
  with_reducible repeat' first
    | assumption | apply State.linesAdvance_keeps | apply State.quietBoundary_keeps | apply State.enginesEdge_keeps
    | apply State.gridRestart_keeps | apply State.repsDone_keeps | apply State.linesSettle_keeps | apply State.at_keeps
    | simp only [Keeps.upd_iff] | split

end

theorem execCommitApply_goes (s : State) : goesOn (execCommitApply s) (Keeps s) := by
  have h := Keeps.refl s
  unfold execCommitApply
  with_reducible repeat' first | apply goesOn.next | split
  all_goals
    with_reducible repeat' first
      | assumption | apply State.quietBoundary_keeps | simp only [Keeps.upd_iff] | split

theorem execTickEdge_goes (s : State) : goesOn (execTickEdge s) (Keeps s) := by
  have h := Keeps.refl s
  unfold execTickEdge
  with_reducible repeat' first | apply goesOn.next | split
  all_goals
    with_reducible repeat' first
      | assumption | apply State.tickEdge_keeps | simp only [Keeps.upd_iff] | split

theorem execTickStopped_goes (s : State) : goesOn (execTickStopped s) (Keeps s) := by
  have h := Keeps.refl s
  unfold execTickStopped
  with_reducible repeat' first | apply goesOn.next | split
  all_goals
    with_reducible repeat' first
      | assumption | apply State.tickStopped_keeps | simp only [Keeps.upd_iff] | split

theorem execFlushStep_goes (s : State) : goesOn (execFlushStep s) (Keeps s) := by
  have h := Keeps.refl s
  unfold execFlushStep
  with_reducible repeat' first | apply goesOn.next | split
  all_goals
    with_reducible repeat' first
      | assumption | apply State.flushStep_keeps | simp only [Keeps.upd_iff] | split

end Sys2Proof.Machine
end

