-- ==== Sys2Proof/Laws/State.lean ====
section
/-! SUPPORT. What each shared update leaves alone: one lemma per field per update, so that no proof unfolds a record update. -/
namespace Sys2Proof.Machine

section
variable (s : State)

/-! ## A register word -/

@[simp] theorem State.setReg_pending (a : Nat) (v : Word) : (s.setReg a v).pending = s.pending := rfl
@[simp] theorem State.setReg_now (a : Nat) (v : Word) : (s.setReg a v).now = s.now := rfl
@[simp] theorem State.setReg_freeIdx (a : Nat) (v : Word) : (s.setReg a v).freeIdx = s.freeIdx := rfl
@[simp] theorem State.setReg_rdata (a : Nat) (v : Word) : (s.setReg a v).rdata = s.rdata := rfl
@[simp] theorem State.setReg_force (a : Nat) (v : Word) : (s.setReg a v).force = s.force := rfl
@[simp] theorem State.setReg_frozen (a : Nat) (v : Word) : (s.setReg a v).frozen = s.frozen := rfl
@[simp] theorem State.setReg_nextPend (a : Nat) (v : Word) : (s.setReg a v).nextPend = s.nextPend := rfl
@[simp] theorem State.setReg_commitPend (a : Nat) (v : Word) : (s.setReg a v).commitPend = s.commitPend := rfl
@[simp] theorem State.setReg_fuse (a : Nat) (v : Word) : (s.setReg a v).fuse = s.fuse := rfl
@[simp] theorem State.setReg_mem (a : Nat) (v : Word) : (s.setReg a v).mem = s.mem := rfl
@[simp] theorem State.setReg_poison (a : Nat) (v : Word) : (s.setReg a v).poison = s.poison := rfl
@[simp] theorem State.setReg_tick (a : Nat) (v : Word) : (s.setReg a v).tick = s.tick := rfl
@[simp] theorem State.setReg_tmr (a : Nat) (v : Word) : (s.setReg a v).tmr = s.tmr := rfl
@[simp] theorem State.setReg_pins (a : Nat) (v : Word) : (s.setReg a v).pins = s.pins := rfl
@[simp] theorem State.setReg_exp (a : Nat) (v : Word) : (s.setReg a v).exp = s.exp := rfl
@[simp] theorem State.setReg_rdo (a : Nat) (v : Word) : (s.setReg a v).rdo = s.rdo := rfl
@[simp] theorem State.setReg_clk (a : Nat) (v : Word) : (s.setReg a v).clk = s.clk := rfl
@[simp] theorem State.setReg_lines (a : Nat) (v : Word) : (s.setReg a v).lines = s.lines := rfl
@[simp] theorem State.setReg_eng (a : Nat) (v : Word) : (s.setReg a v).eng = s.eng := rfl
@[simp] theorem State.setReg_job (a : Nat) (v : Word) : (s.setReg a v).job = s.job := rfl
@[simp] theorem State.setReg_rec (a : Nat) (v : Word) : (s.setReg a v).rec_ = s.rec_ := rfl
@[simp] theorem State.setReg_dev (a : Nat) (v : Word) : (s.setReg a v).dev = s.dev := rfl
@[simp] theorem State.setReg_memctl (a : Nat) (v : Word) : (s.setReg a v).memctl = s.memctl := rfl
@[simp] theorem State.setReg_dma (a : Nat) (v : Word) : (s.setReg a v).dma = s.dma := rfl
@[simp] theorem State.setReg_nvs (a : Nat) (v : Word) : (s.setReg a v).nvs = s.nvs := rfl
@[simp] theorem State.setReg_port (a : Nat) (v : Word) : (s.setReg a v).port = s.port := rfl
@[simp] theorem State.setReg_chain (a : Nat) (v : Word) : (s.setReg a v).chain = s.chain := rfl
@[simp] theorem State.setReg_evtQ (a : Nat) (v : Word) : (s.setReg a v).evtQ = s.evtQ := rfl
@[simp] theorem State.setReg_wire (a : Nat) (v : Word) : (s.setReg a v).wire = s.wire := rfl
@[simp] theorem State.setReg_cal (a : Nat) (v : Word) : (s.setReg a v).cal = s.cal := rfl
@[simp] theorem State.setReg_therm (a : Nat) (v : Word) : (s.setReg a v).therm = s.therm := rfl
@[simp] theorem State.setReg_pwr (a : Nat) (v : Word) : (s.setReg a v).pwr = s.pwr := rfl
@[simp] theorem State.setReg_mb (a : Nat) (v : Word) : (s.setReg a v).mb = s.mb := rfl
@[simp] theorem State.setReg_lamp (a : Nat) (v : Word) : (s.setReg a v).lamp = s.lamp := rfl
@[simp] theorem State.setReg_sys (a : Nat) (v : Word) : (s.setReg a v).sys = s.sys := rfl

/-! ## A register field -/

@[simp] theorem State.put_pending (f : Fld) (v : Nat) : (s.put f v).pending = s.pending := rfl
@[simp] theorem State.put_now (f : Fld) (v : Nat) : (s.put f v).now = s.now := rfl
@[simp] theorem State.put_freeIdx (f : Fld) (v : Nat) : (s.put f v).freeIdx = s.freeIdx := rfl
@[simp] theorem State.put_rdata (f : Fld) (v : Nat) : (s.put f v).rdata = s.rdata := rfl
@[simp] theorem State.put_force (f : Fld) (v : Nat) : (s.put f v).force = s.force := rfl
@[simp] theorem State.put_frozen (f : Fld) (v : Nat) : (s.put f v).frozen = s.frozen := rfl
@[simp] theorem State.put_nextPend (f : Fld) (v : Nat) : (s.put f v).nextPend = s.nextPend := rfl
@[simp] theorem State.put_commitPend (f : Fld) (v : Nat) : (s.put f v).commitPend = s.commitPend := rfl
@[simp] theorem State.put_fuse (f : Fld) (v : Nat) : (s.put f v).fuse = s.fuse := rfl
@[simp] theorem State.put_mem (f : Fld) (v : Nat) : (s.put f v).mem = s.mem := rfl
@[simp] theorem State.put_poison (f : Fld) (v : Nat) : (s.put f v).poison = s.poison := rfl
@[simp] theorem State.put_tick (f : Fld) (v : Nat) : (s.put f v).tick = s.tick := rfl
@[simp] theorem State.put_tmr (f : Fld) (v : Nat) : (s.put f v).tmr = s.tmr := rfl
@[simp] theorem State.put_pins (f : Fld) (v : Nat) : (s.put f v).pins = s.pins := rfl
@[simp] theorem State.put_exp (f : Fld) (v : Nat) : (s.put f v).exp = s.exp := rfl
@[simp] theorem State.put_rdo (f : Fld) (v : Nat) : (s.put f v).rdo = s.rdo := rfl
@[simp] theorem State.put_clk (f : Fld) (v : Nat) : (s.put f v).clk = s.clk := rfl
@[simp] theorem State.put_lines (f : Fld) (v : Nat) : (s.put f v).lines = s.lines := rfl
@[simp] theorem State.put_eng (f : Fld) (v : Nat) : (s.put f v).eng = s.eng := rfl
@[simp] theorem State.put_job (f : Fld) (v : Nat) : (s.put f v).job = s.job := rfl
@[simp] theorem State.put_rec (f : Fld) (v : Nat) : (s.put f v).rec_ = s.rec_ := rfl
@[simp] theorem State.put_dev (f : Fld) (v : Nat) : (s.put f v).dev = s.dev := rfl
@[simp] theorem State.put_memctl (f : Fld) (v : Nat) : (s.put f v).memctl = s.memctl := rfl
@[simp] theorem State.put_dma (f : Fld) (v : Nat) : (s.put f v).dma = s.dma := rfl
@[simp] theorem State.put_nvs (f : Fld) (v : Nat) : (s.put f v).nvs = s.nvs := rfl
@[simp] theorem State.put_port (f : Fld) (v : Nat) : (s.put f v).port = s.port := rfl
@[simp] theorem State.put_chain (f : Fld) (v : Nat) : (s.put f v).chain = s.chain := rfl
@[simp] theorem State.put_evtQ (f : Fld) (v : Nat) : (s.put f v).evtQ = s.evtQ := rfl
@[simp] theorem State.put_wire (f : Fld) (v : Nat) : (s.put f v).wire = s.wire := rfl
@[simp] theorem State.put_cal (f : Fld) (v : Nat) : (s.put f v).cal = s.cal := rfl
@[simp] theorem State.put_therm (f : Fld) (v : Nat) : (s.put f v).therm = s.therm := rfl
@[simp] theorem State.put_pwr (f : Fld) (v : Nat) : (s.put f v).pwr = s.pwr := rfl
@[simp] theorem State.put_mb (f : Fld) (v : Nat) : (s.put f v).mb = s.mb := rfl
@[simp] theorem State.put_lamp (f : Fld) (v : Nat) : (s.put f v).lamp = s.lamp := rfl
@[simp] theorem State.put_sys (f : Fld) (v : Nat) : (s.put f v).sys = s.sys := rfl

/-! ## A value in force -/

@[simp] theorem State.setAct_pending (a : Nat) (v : Word) : (s.setAct a v).pending = s.pending := rfl
@[simp] theorem State.setAct_now (a : Nat) (v : Word) : (s.setAct a v).now = s.now := rfl
@[simp] theorem State.setAct_freeIdx (a : Nat) (v : Word) : (s.setAct a v).freeIdx = s.freeIdx := rfl
@[simp] theorem State.setAct_rdata (a : Nat) (v : Word) : (s.setAct a v).rdata = s.rdata := rfl
@[simp] theorem State.setAct_regs (a : Nat) (v : Word) : (s.setAct a v).regs = s.regs := rfl
@[simp] theorem State.setAct_frozen (a : Nat) (v : Word) : (s.setAct a v).frozen = s.frozen := rfl
@[simp] theorem State.setAct_nextPend (a : Nat) (v : Word) : (s.setAct a v).nextPend = s.nextPend := rfl
@[simp] theorem State.setAct_commitPend (a : Nat) (v : Word) : (s.setAct a v).commitPend = s.commitPend := rfl
@[simp] theorem State.setAct_fuse (a : Nat) (v : Word) : (s.setAct a v).fuse = s.fuse := rfl
@[simp] theorem State.setAct_mem (a : Nat) (v : Word) : (s.setAct a v).mem = s.mem := rfl
@[simp] theorem State.setAct_poison (a : Nat) (v : Word) : (s.setAct a v).poison = s.poison := rfl
@[simp] theorem State.setAct_tick (a : Nat) (v : Word) : (s.setAct a v).tick = s.tick := rfl
@[simp] theorem State.setAct_tmr (a : Nat) (v : Word) : (s.setAct a v).tmr = s.tmr := rfl
@[simp] theorem State.setAct_pins (a : Nat) (v : Word) : (s.setAct a v).pins = s.pins := rfl
@[simp] theorem State.setAct_exp (a : Nat) (v : Word) : (s.setAct a v).exp = s.exp := rfl
@[simp] theorem State.setAct_rdo (a : Nat) (v : Word) : (s.setAct a v).rdo = s.rdo := rfl
@[simp] theorem State.setAct_clk (a : Nat) (v : Word) : (s.setAct a v).clk = s.clk := rfl
@[simp] theorem State.setAct_lines (a : Nat) (v : Word) : (s.setAct a v).lines = s.lines := rfl
@[simp] theorem State.setAct_eng (a : Nat) (v : Word) : (s.setAct a v).eng = s.eng := rfl
@[simp] theorem State.setAct_job (a : Nat) (v : Word) : (s.setAct a v).job = s.job := rfl
@[simp] theorem State.setAct_rec (a : Nat) (v : Word) : (s.setAct a v).rec_ = s.rec_ := rfl
@[simp] theorem State.setAct_dev (a : Nat) (v : Word) : (s.setAct a v).dev = s.dev := rfl
@[simp] theorem State.setAct_memctl (a : Nat) (v : Word) : (s.setAct a v).memctl = s.memctl := rfl
@[simp] theorem State.setAct_dma (a : Nat) (v : Word) : (s.setAct a v).dma = s.dma := rfl
@[simp] theorem State.setAct_nvs (a : Nat) (v : Word) : (s.setAct a v).nvs = s.nvs := rfl
@[simp] theorem State.setAct_port (a : Nat) (v : Word) : (s.setAct a v).port = s.port := rfl
@[simp] theorem State.setAct_chain (a : Nat) (v : Word) : (s.setAct a v).chain = s.chain := rfl
@[simp] theorem State.setAct_evtQ (a : Nat) (v : Word) : (s.setAct a v).evtQ = s.evtQ := rfl
@[simp] theorem State.setAct_wire (a : Nat) (v : Word) : (s.setAct a v).wire = s.wire := rfl
@[simp] theorem State.setAct_cal (a : Nat) (v : Word) : (s.setAct a v).cal = s.cal := rfl
@[simp] theorem State.setAct_therm (a : Nat) (v : Word) : (s.setAct a v).therm = s.therm := rfl
@[simp] theorem State.setAct_pwr (a : Nat) (v : Word) : (s.setAct a v).pwr = s.pwr := rfl
@[simp] theorem State.setAct_mb (a : Nat) (v : Word) : (s.setAct a v).mb = s.mb := rfl
@[simp] theorem State.setAct_lamp (a : Nat) (v : Word) : (s.setAct a v).lamp = s.lamp := rfl
@[simp] theorem State.setAct_sys (a : Nat) (v : Word) : (s.setAct a v).sys = s.sys := rfl

/-! ## Two fields as one number -/

@[simp] theorem State.put64_pending (lo hi : Fld) (v : Nat) : (s.put64 lo hi v).pending = s.pending := rfl
@[simp] theorem State.put64_now (lo hi : Fld) (v : Nat) : (s.put64 lo hi v).now = s.now := rfl
@[simp] theorem State.put64_freeIdx (lo hi : Fld) (v : Nat) : (s.put64 lo hi v).freeIdx = s.freeIdx := rfl
@[simp] theorem State.put64_rdata (lo hi : Fld) (v : Nat) : (s.put64 lo hi v).rdata = s.rdata := rfl
@[simp] theorem State.put64_force (lo hi : Fld) (v : Nat) : (s.put64 lo hi v).force = s.force := rfl
@[simp] theorem State.put64_frozen (lo hi : Fld) (v : Nat) : (s.put64 lo hi v).frozen = s.frozen := rfl
@[simp] theorem State.put64_nextPend (lo hi : Fld) (v : Nat) : (s.put64 lo hi v).nextPend = s.nextPend := rfl
@[simp] theorem State.put64_commitPend (lo hi : Fld) (v : Nat) : (s.put64 lo hi v).commitPend = s.commitPend := rfl
@[simp] theorem State.put64_fuse (lo hi : Fld) (v : Nat) : (s.put64 lo hi v).fuse = s.fuse := rfl
@[simp] theorem State.put64_mem (lo hi : Fld) (v : Nat) : (s.put64 lo hi v).mem = s.mem := rfl
@[simp] theorem State.put64_poison (lo hi : Fld) (v : Nat) : (s.put64 lo hi v).poison = s.poison := rfl
@[simp] theorem State.put64_tick (lo hi : Fld) (v : Nat) : (s.put64 lo hi v).tick = s.tick := rfl
@[simp] theorem State.put64_tmr (lo hi : Fld) (v : Nat) : (s.put64 lo hi v).tmr = s.tmr := rfl
@[simp] theorem State.put64_pins (lo hi : Fld) (v : Nat) : (s.put64 lo hi v).pins = s.pins := rfl
@[simp] theorem State.put64_exp (lo hi : Fld) (v : Nat) : (s.put64 lo hi v).exp = s.exp := rfl
@[simp] theorem State.put64_rdo (lo hi : Fld) (v : Nat) : (s.put64 lo hi v).rdo = s.rdo := rfl
@[simp] theorem State.put64_clk (lo hi : Fld) (v : Nat) : (s.put64 lo hi v).clk = s.clk := rfl
@[simp] theorem State.put64_lines (lo hi : Fld) (v : Nat) : (s.put64 lo hi v).lines = s.lines := rfl
@[simp] theorem State.put64_eng (lo hi : Fld) (v : Nat) : (s.put64 lo hi v).eng = s.eng := rfl
@[simp] theorem State.put64_job (lo hi : Fld) (v : Nat) : (s.put64 lo hi v).job = s.job := rfl
@[simp] theorem State.put64_rec (lo hi : Fld) (v : Nat) : (s.put64 lo hi v).rec_ = s.rec_ := rfl
@[simp] theorem State.put64_dev (lo hi : Fld) (v : Nat) : (s.put64 lo hi v).dev = s.dev := rfl
@[simp] theorem State.put64_memctl (lo hi : Fld) (v : Nat) : (s.put64 lo hi v).memctl = s.memctl := rfl
@[simp] theorem State.put64_dma (lo hi : Fld) (v : Nat) : (s.put64 lo hi v).dma = s.dma := rfl
@[simp] theorem State.put64_nvs (lo hi : Fld) (v : Nat) : (s.put64 lo hi v).nvs = s.nvs := rfl
@[simp] theorem State.put64_port (lo hi : Fld) (v : Nat) : (s.put64 lo hi v).port = s.port := rfl
@[simp] theorem State.put64_chain (lo hi : Fld) (v : Nat) : (s.put64 lo hi v).chain = s.chain := rfl
@[simp] theorem State.put64_evtQ (lo hi : Fld) (v : Nat) : (s.put64 lo hi v).evtQ = s.evtQ := rfl
@[simp] theorem State.put64_wire (lo hi : Fld) (v : Nat) : (s.put64 lo hi v).wire = s.wire := rfl
@[simp] theorem State.put64_cal (lo hi : Fld) (v : Nat) : (s.put64 lo hi v).cal = s.cal := rfl
@[simp] theorem State.put64_therm (lo hi : Fld) (v : Nat) : (s.put64 lo hi v).therm = s.therm := rfl
@[simp] theorem State.put64_pwr (lo hi : Fld) (v : Nat) : (s.put64 lo hi v).pwr = s.pwr := rfl
@[simp] theorem State.put64_mb (lo hi : Fld) (v : Nat) : (s.put64 lo hi v).mb = s.mb := rfl
@[simp] theorem State.put64_lamp (lo hi : Fld) (v : Nat) : (s.put64 lo hi v).lamp = s.lamp := rfl
@[simp] theorem State.put64_sys (lo hi : Fld) (v : Nat) : (s.put64 lo hi v).sys = s.sys := rfl

/-! ## A counter -/

@[simp] theorem State.bumpBy_pending (f : Fld) (n : Nat) : (s.bumpBy f n).pending = s.pending := rfl
@[simp] theorem State.bumpBy_now (f : Fld) (n : Nat) : (s.bumpBy f n).now = s.now := rfl
@[simp] theorem State.bumpBy_freeIdx (f : Fld) (n : Nat) : (s.bumpBy f n).freeIdx = s.freeIdx := rfl
@[simp] theorem State.bumpBy_rdata (f : Fld) (n : Nat) : (s.bumpBy f n).rdata = s.rdata := rfl
@[simp] theorem State.bumpBy_force (f : Fld) (n : Nat) : (s.bumpBy f n).force = s.force := rfl
@[simp] theorem State.bumpBy_frozen (f : Fld) (n : Nat) : (s.bumpBy f n).frozen = s.frozen := rfl
@[simp] theorem State.bumpBy_nextPend (f : Fld) (n : Nat) : (s.bumpBy f n).nextPend = s.nextPend := rfl
@[simp] theorem State.bumpBy_commitPend (f : Fld) (n : Nat) : (s.bumpBy f n).commitPend = s.commitPend := rfl
@[simp] theorem State.bumpBy_fuse (f : Fld) (n : Nat) : (s.bumpBy f n).fuse = s.fuse := rfl
@[simp] theorem State.bumpBy_mem (f : Fld) (n : Nat) : (s.bumpBy f n).mem = s.mem := rfl
@[simp] theorem State.bumpBy_poison (f : Fld) (n : Nat) : (s.bumpBy f n).poison = s.poison := rfl
@[simp] theorem State.bumpBy_tick (f : Fld) (n : Nat) : (s.bumpBy f n).tick = s.tick := rfl
@[simp] theorem State.bumpBy_tmr (f : Fld) (n : Nat) : (s.bumpBy f n).tmr = s.tmr := rfl
@[simp] theorem State.bumpBy_pins (f : Fld) (n : Nat) : (s.bumpBy f n).pins = s.pins := rfl
@[simp] theorem State.bumpBy_exp (f : Fld) (n : Nat) : (s.bumpBy f n).exp = s.exp := rfl
@[simp] theorem State.bumpBy_rdo (f : Fld) (n : Nat) : (s.bumpBy f n).rdo = s.rdo := rfl
@[simp] theorem State.bumpBy_clk (f : Fld) (n : Nat) : (s.bumpBy f n).clk = s.clk := rfl
@[simp] theorem State.bumpBy_lines (f : Fld) (n : Nat) : (s.bumpBy f n).lines = s.lines := rfl
@[simp] theorem State.bumpBy_eng (f : Fld) (n : Nat) : (s.bumpBy f n).eng = s.eng := rfl
@[simp] theorem State.bumpBy_job (f : Fld) (n : Nat) : (s.bumpBy f n).job = s.job := rfl
@[simp] theorem State.bumpBy_rec (f : Fld) (n : Nat) : (s.bumpBy f n).rec_ = s.rec_ := rfl
@[simp] theorem State.bumpBy_dev (f : Fld) (n : Nat) : (s.bumpBy f n).dev = s.dev := rfl
@[simp] theorem State.bumpBy_memctl (f : Fld) (n : Nat) : (s.bumpBy f n).memctl = s.memctl := rfl
@[simp] theorem State.bumpBy_dma (f : Fld) (n : Nat) : (s.bumpBy f n).dma = s.dma := rfl
@[simp] theorem State.bumpBy_nvs (f : Fld) (n : Nat) : (s.bumpBy f n).nvs = s.nvs := rfl
@[simp] theorem State.bumpBy_port (f : Fld) (n : Nat) : (s.bumpBy f n).port = s.port := rfl
@[simp] theorem State.bumpBy_chain (f : Fld) (n : Nat) : (s.bumpBy f n).chain = s.chain := rfl
@[simp] theorem State.bumpBy_evtQ (f : Fld) (n : Nat) : (s.bumpBy f n).evtQ = s.evtQ := rfl
@[simp] theorem State.bumpBy_wire (f : Fld) (n : Nat) : (s.bumpBy f n).wire = s.wire := rfl
@[simp] theorem State.bumpBy_cal (f : Fld) (n : Nat) : (s.bumpBy f n).cal = s.cal := rfl
@[simp] theorem State.bumpBy_therm (f : Fld) (n : Nat) : (s.bumpBy f n).therm = s.therm := rfl
@[simp] theorem State.bumpBy_pwr (f : Fld) (n : Nat) : (s.bumpBy f n).pwr = s.pwr := rfl
@[simp] theorem State.bumpBy_mb (f : Fld) (n : Nat) : (s.bumpBy f n).mb = s.mb := rfl
@[simp] theorem State.bumpBy_lamp (f : Fld) (n : Nat) : (s.bumpBy f n).lamp = s.lamp := rfl
@[simp] theorem State.bumpBy_sys (f : Fld) (n : Nat) : (s.bumpBy f n).sys = s.sys := rfl

/-! ## A counter that counts one -/

@[simp] theorem State.bump_pending (f : Fld) : (s.bump f).pending = s.pending := rfl
@[simp] theorem State.bump_now (f : Fld) : (s.bump f).now = s.now := rfl
@[simp] theorem State.bump_freeIdx (f : Fld) : (s.bump f).freeIdx = s.freeIdx := rfl
@[simp] theorem State.bump_rdata (f : Fld) : (s.bump f).rdata = s.rdata := rfl
@[simp] theorem State.bump_force (f : Fld) : (s.bump f).force = s.force := rfl
@[simp] theorem State.bump_frozen (f : Fld) : (s.bump f).frozen = s.frozen := rfl
@[simp] theorem State.bump_nextPend (f : Fld) : (s.bump f).nextPend = s.nextPend := rfl
@[simp] theorem State.bump_commitPend (f : Fld) : (s.bump f).commitPend = s.commitPend := rfl
@[simp] theorem State.bump_fuse (f : Fld) : (s.bump f).fuse = s.fuse := rfl
@[simp] theorem State.bump_mem (f : Fld) : (s.bump f).mem = s.mem := rfl
@[simp] theorem State.bump_poison (f : Fld) : (s.bump f).poison = s.poison := rfl
@[simp] theorem State.bump_tick (f : Fld) : (s.bump f).tick = s.tick := rfl
@[simp] theorem State.bump_tmr (f : Fld) : (s.bump f).tmr = s.tmr := rfl
@[simp] theorem State.bump_pins (f : Fld) : (s.bump f).pins = s.pins := rfl
@[simp] theorem State.bump_exp (f : Fld) : (s.bump f).exp = s.exp := rfl
@[simp] theorem State.bump_rdo (f : Fld) : (s.bump f).rdo = s.rdo := rfl
@[simp] theorem State.bump_clk (f : Fld) : (s.bump f).clk = s.clk := rfl
@[simp] theorem State.bump_lines (f : Fld) : (s.bump f).lines = s.lines := rfl
@[simp] theorem State.bump_eng (f : Fld) : (s.bump f).eng = s.eng := rfl
@[simp] theorem State.bump_job (f : Fld) : (s.bump f).job = s.job := rfl
@[simp] theorem State.bump_rec (f : Fld) : (s.bump f).rec_ = s.rec_ := rfl
@[simp] theorem State.bump_dev (f : Fld) : (s.bump f).dev = s.dev := rfl
@[simp] theorem State.bump_memctl (f : Fld) : (s.bump f).memctl = s.memctl := rfl
@[simp] theorem State.bump_dma (f : Fld) : (s.bump f).dma = s.dma := rfl
@[simp] theorem State.bump_nvs (f : Fld) : (s.bump f).nvs = s.nvs := rfl
@[simp] theorem State.bump_port (f : Fld) : (s.bump f).port = s.port := rfl
@[simp] theorem State.bump_chain (f : Fld) : (s.bump f).chain = s.chain := rfl
@[simp] theorem State.bump_evtQ (f : Fld) : (s.bump f).evtQ = s.evtQ := rfl
@[simp] theorem State.bump_wire (f : Fld) : (s.bump f).wire = s.wire := rfl
@[simp] theorem State.bump_cal (f : Fld) : (s.bump f).cal = s.cal := rfl
@[simp] theorem State.bump_therm (f : Fld) : (s.bump f).therm = s.therm := rfl
@[simp] theorem State.bump_pwr (f : Fld) : (s.bump f).pwr = s.pwr := rfl
@[simp] theorem State.bump_mb (f : Fld) : (s.bump f).mb = s.mb := rfl
@[simp] theorem State.bump_lamp (f : Fld) : (s.bump f).lamp = s.lamp := rfl
@[simp] theorem State.bump_sys (f : Fld) : (s.bump f).sys = s.sys := rfl

/-! ## Time -/

@[simp] theorem State.at_pending (t : Nat) : (s.at t).pending = s.pending := rfl
@[simp] theorem State.at_freeIdx (t : Nat) : (s.at t).freeIdx = s.freeIdx := rfl
@[simp] theorem State.at_rdata (t : Nat) : (s.at t).rdata = s.rdata := rfl
@[simp] theorem State.at_regs (t : Nat) : (s.at t).regs = s.regs := rfl
@[simp] theorem State.at_force (t : Nat) : (s.at t).force = s.force := rfl
@[simp] theorem State.at_frozen (t : Nat) : (s.at t).frozen = s.frozen := rfl
@[simp] theorem State.at_nextPend (t : Nat) : (s.at t).nextPend = s.nextPend := rfl
@[simp] theorem State.at_commitPend (t : Nat) : (s.at t).commitPend = s.commitPend := rfl
@[simp] theorem State.at_fuse (t : Nat) : (s.at t).fuse = s.fuse := rfl
@[simp] theorem State.at_mem (t : Nat) : (s.at t).mem = s.mem := rfl
@[simp] theorem State.at_poison (t : Nat) : (s.at t).poison = s.poison := rfl
@[simp] theorem State.at_tick (t : Nat) : (s.at t).tick = s.tick := rfl
@[simp] theorem State.at_tmr (t : Nat) : (s.at t).tmr = s.tmr := rfl
@[simp] theorem State.at_pins (t : Nat) : (s.at t).pins = s.pins := rfl
@[simp] theorem State.at_exp (t : Nat) : (s.at t).exp = s.exp := rfl
@[simp] theorem State.at_rdo (t : Nat) : (s.at t).rdo = s.rdo := rfl
@[simp] theorem State.at_clk (t : Nat) : (s.at t).clk = s.clk := rfl
@[simp] theorem State.at_lines (t : Nat) : (s.at t).lines = s.lines := rfl
@[simp] theorem State.at_eng (t : Nat) : (s.at t).eng = s.eng := rfl
@[simp] theorem State.at_job (t : Nat) : (s.at t).job = s.job := rfl
@[simp] theorem State.at_rec (t : Nat) : (s.at t).rec_ = s.rec_ := rfl
@[simp] theorem State.at_dev (t : Nat) : (s.at t).dev = s.dev := rfl
@[simp] theorem State.at_memctl (t : Nat) : (s.at t).memctl = s.memctl := rfl
@[simp] theorem State.at_dma (t : Nat) : (s.at t).dma = s.dma := rfl
@[simp] theorem State.at_nvs (t : Nat) : (s.at t).nvs = s.nvs := rfl
@[simp] theorem State.at_port (t : Nat) : (s.at t).port = s.port := rfl
@[simp] theorem State.at_chain (t : Nat) : (s.at t).chain = s.chain := rfl
@[simp] theorem State.at_evtQ (t : Nat) : (s.at t).evtQ = s.evtQ := rfl
@[simp] theorem State.at_wire (t : Nat) : (s.at t).wire = s.wire := rfl
@[simp] theorem State.at_cal (t : Nat) : (s.at t).cal = s.cal := rfl
@[simp] theorem State.at_therm (t : Nat) : (s.at t).therm = s.therm := rfl
@[simp] theorem State.at_pwr (t : Nat) : (s.at t).pwr = s.pwr := rfl
@[simp] theorem State.at_mb (t : Nat) : (s.at t).mb = s.mb := rfl
@[simp] theorem State.at_lamp (t : Nat) : (s.at t).lamp = s.lamp := rfl
@[simp] theorem State.at_sys (t : Nat) : (s.at t).sys = s.sys := rfl

/-! ## A free value -/

@[simp] theorem State.fresh_pending : (s.fresh.2).pending = s.pending := rfl
@[simp] theorem State.fresh_now : (s.fresh.2).now = s.now := rfl
@[simp] theorem State.fresh_rdata : (s.fresh.2).rdata = s.rdata := rfl
@[simp] theorem State.fresh_regs : (s.fresh.2).regs = s.regs := rfl
@[simp] theorem State.fresh_force : (s.fresh.2).force = s.force := rfl
@[simp] theorem State.fresh_frozen : (s.fresh.2).frozen = s.frozen := rfl
@[simp] theorem State.fresh_nextPend : (s.fresh.2).nextPend = s.nextPend := rfl
@[simp] theorem State.fresh_commitPend : (s.fresh.2).commitPend = s.commitPend := rfl
@[simp] theorem State.fresh_fuse : (s.fresh.2).fuse = s.fuse := rfl
@[simp] theorem State.fresh_mem : (s.fresh.2).mem = s.mem := rfl
@[simp] theorem State.fresh_poison : (s.fresh.2).poison = s.poison := rfl
@[simp] theorem State.fresh_tick : (s.fresh.2).tick = s.tick := rfl
@[simp] theorem State.fresh_tmr : (s.fresh.2).tmr = s.tmr := rfl
@[simp] theorem State.fresh_pins : (s.fresh.2).pins = s.pins := rfl
@[simp] theorem State.fresh_exp : (s.fresh.2).exp = s.exp := rfl
@[simp] theorem State.fresh_rdo : (s.fresh.2).rdo = s.rdo := rfl
@[simp] theorem State.fresh_clk : (s.fresh.2).clk = s.clk := rfl
@[simp] theorem State.fresh_lines : (s.fresh.2).lines = s.lines := rfl
@[simp] theorem State.fresh_eng : (s.fresh.2).eng = s.eng := rfl
@[simp] theorem State.fresh_job : (s.fresh.2).job = s.job := rfl
@[simp] theorem State.fresh_rec : (s.fresh.2).rec_ = s.rec_ := rfl
@[simp] theorem State.fresh_dev : (s.fresh.2).dev = s.dev := rfl
@[simp] theorem State.fresh_memctl : (s.fresh.2).memctl = s.memctl := rfl
@[simp] theorem State.fresh_dma : (s.fresh.2).dma = s.dma := rfl
@[simp] theorem State.fresh_nvs : (s.fresh.2).nvs = s.nvs := rfl
@[simp] theorem State.fresh_port : (s.fresh.2).port = s.port := rfl
@[simp] theorem State.fresh_chain : (s.fresh.2).chain = s.chain := rfl
@[simp] theorem State.fresh_evtQ : (s.fresh.2).evtQ = s.evtQ := rfl
@[simp] theorem State.fresh_wire : (s.fresh.2).wire = s.wire := rfl
@[simp] theorem State.fresh_cal : (s.fresh.2).cal = s.cal := rfl
@[simp] theorem State.fresh_therm : (s.fresh.2).therm = s.therm := rfl
@[simp] theorem State.fresh_pwr : (s.fresh.2).pwr = s.pwr := rfl
@[simp] theorem State.fresh_mb : (s.fresh.2).mb = s.mb := rfl
@[simp] theorem State.fresh_lamp : (s.fresh.2).lamp = s.lamp := rfl
@[simp] theorem State.fresh_sys : (s.fresh.2).sys = s.sys := rfl

/-! ## A byte of memory -/

@[simp] theorem State.setByte_pending (a : Nat) (b : Byte) : (s.setByte a b).pending = s.pending := rfl
@[simp] theorem State.setByte_now (a : Nat) (b : Byte) : (s.setByte a b).now = s.now := rfl
@[simp] theorem State.setByte_freeIdx (a : Nat) (b : Byte) : (s.setByte a b).freeIdx = s.freeIdx := rfl
@[simp] theorem State.setByte_rdata (a : Nat) (b : Byte) : (s.setByte a b).rdata = s.rdata := rfl
@[simp] theorem State.setByte_regs (a : Nat) (b : Byte) : (s.setByte a b).regs = s.regs := rfl
@[simp] theorem State.setByte_force (a : Nat) (b : Byte) : (s.setByte a b).force = s.force := rfl
@[simp] theorem State.setByte_frozen (a : Nat) (b : Byte) : (s.setByte a b).frozen = s.frozen := rfl
@[simp] theorem State.setByte_nextPend (a : Nat) (b : Byte) : (s.setByte a b).nextPend = s.nextPend := rfl
@[simp] theorem State.setByte_commitPend (a : Nat) (b : Byte) : (s.setByte a b).commitPend = s.commitPend := rfl
@[simp] theorem State.setByte_fuse (a : Nat) (b : Byte) : (s.setByte a b).fuse = s.fuse := rfl
@[simp] theorem State.setByte_poison (a : Nat) (b : Byte) : (s.setByte a b).poison = s.poison := rfl
@[simp] theorem State.setByte_tick (a : Nat) (b : Byte) : (s.setByte a b).tick = s.tick := rfl
@[simp] theorem State.setByte_tmr (a : Nat) (b : Byte) : (s.setByte a b).tmr = s.tmr := rfl
@[simp] theorem State.setByte_pins (a : Nat) (b : Byte) : (s.setByte a b).pins = s.pins := rfl
@[simp] theorem State.setByte_exp (a : Nat) (b : Byte) : (s.setByte a b).exp = s.exp := rfl
@[simp] theorem State.setByte_rdo (a : Nat) (b : Byte) : (s.setByte a b).rdo = s.rdo := rfl
@[simp] theorem State.setByte_clk (a : Nat) (b : Byte) : (s.setByte a b).clk = s.clk := rfl
@[simp] theorem State.setByte_lines (a : Nat) (b : Byte) : (s.setByte a b).lines = s.lines := rfl
@[simp] theorem State.setByte_eng (a : Nat) (b : Byte) : (s.setByte a b).eng = s.eng := rfl
@[simp] theorem State.setByte_job (a : Nat) (b : Byte) : (s.setByte a b).job = s.job := rfl
@[simp] theorem State.setByte_rec (a : Nat) (b : Byte) : (s.setByte a b).rec_ = s.rec_ := rfl
@[simp] theorem State.setByte_dev (a : Nat) (b : Byte) : (s.setByte a b).dev = s.dev := rfl
@[simp] theorem State.setByte_memctl (a : Nat) (b : Byte) : (s.setByte a b).memctl = s.memctl := rfl
@[simp] theorem State.setByte_dma (a : Nat) (b : Byte) : (s.setByte a b).dma = s.dma := rfl
@[simp] theorem State.setByte_nvs (a : Nat) (b : Byte) : (s.setByte a b).nvs = s.nvs := rfl
@[simp] theorem State.setByte_port (a : Nat) (b : Byte) : (s.setByte a b).port = s.port := rfl
@[simp] theorem State.setByte_chain (a : Nat) (b : Byte) : (s.setByte a b).chain = s.chain := rfl
@[simp] theorem State.setByte_evtQ (a : Nat) (b : Byte) : (s.setByte a b).evtQ = s.evtQ := rfl
@[simp] theorem State.setByte_wire (a : Nat) (b : Byte) : (s.setByte a b).wire = s.wire := rfl
@[simp] theorem State.setByte_cal (a : Nat) (b : Byte) : (s.setByte a b).cal = s.cal := rfl
@[simp] theorem State.setByte_therm (a : Nat) (b : Byte) : (s.setByte a b).therm = s.therm := rfl
@[simp] theorem State.setByte_pwr (a : Nat) (b : Byte) : (s.setByte a b).pwr = s.pwr := rfl
@[simp] theorem State.setByte_mb (a : Nat) (b : Byte) : (s.setByte a b).mb = s.mb := rfl
@[simp] theorem State.setByte_lamp (a : Nat) (b : Byte) : (s.setByte a b).lamp = s.lamp := rfl
@[simp] theorem State.setByte_sys (a : Nat) (b : Byte) : (s.setByte a b).sys = s.sys := rfl

/-! ## Interrupt bits: registers, roll-up requests and the attention pin only -/

theorem State.settleFrom_eq (t : State) : ∃ y m, s.settleFrom t = { t with sys := y, mb := m } := by
  refine ⟨(s.settleFrom t).sys, (s.settleFrom t).mb, ?_⟩
  unfold State.settleFrom
  simp only
  split <;> split <;> rfl

theorem State.raiseBy_eq (e : Ev) (n : Nat) : ∃ r y m, s.raiseBy e n = { s with regs := r, sys := y, mb := m } := by
  have key : ∀ (t : State) (c : Prop) [Decidable c], (∃ r, t = { s with regs := r }) →
      ∃ r y m, (if c then t else s.settleFrom t) = { s with regs := r, sys := y, mb := m } := by
    rintro _ c _ ⟨r, rfl⟩
    split
    · exact ⟨r, s.sys, s.mb, rfl⟩
    · obtain ⟨y, m, k⟩ := s.settleFrom_eq { s with regs := r }
      exact ⟨r, y, m, k⟩
  unfold State.raiseBy
  split
  · exact ⟨s.regs, s.sys, s.mb, rfl⟩
  · refine key _ _ ?_
    split
    · exact ⟨(s.put (intRawBit e) 1).regs, rfl⟩
    · rename_i b _
      exact ⟨((s.put (intRawBit e) 1).bumpBy (evtCnt e.page b) n).regs, rfl⟩

@[simp] theorem State.raiseBy_pending (e : Ev) (n : Nat) : (s.raiseBy e n).pending = s.pending := by
  obtain ⟨r, y, m, h⟩ := s.raiseBy_eq e n; rw [h]
@[simp] theorem State.raiseBy_now (e : Ev) (n : Nat) : (s.raiseBy e n).now = s.now := by
  obtain ⟨r, y, m, h⟩ := s.raiseBy_eq e n; rw [h]
@[simp] theorem State.raiseBy_freeIdx (e : Ev) (n : Nat) : (s.raiseBy e n).freeIdx = s.freeIdx := by
  obtain ⟨r, y, m, h⟩ := s.raiseBy_eq e n; rw [h]
@[simp] theorem State.raiseBy_rdata (e : Ev) (n : Nat) : (s.raiseBy e n).rdata = s.rdata := by
  obtain ⟨r, y, m, h⟩ := s.raiseBy_eq e n; rw [h]
@[simp] theorem State.raiseBy_force (e : Ev) (n : Nat) : (s.raiseBy e n).force = s.force := by
  obtain ⟨r, y, m, h⟩ := s.raiseBy_eq e n; rw [h]
@[simp] theorem State.raiseBy_frozen (e : Ev) (n : Nat) : (s.raiseBy e n).frozen = s.frozen := by
  obtain ⟨r, y, m, h⟩ := s.raiseBy_eq e n; rw [h]
@[simp] theorem State.raiseBy_nextPend (e : Ev) (n : Nat) : (s.raiseBy e n).nextPend = s.nextPend := by
  obtain ⟨r, y, m, h⟩ := s.raiseBy_eq e n; rw [h]
@[simp] theorem State.raiseBy_commitPend (e : Ev) (n : Nat) : (s.raiseBy e n).commitPend = s.commitPend := by
  obtain ⟨r, y, m, h⟩ := s.raiseBy_eq e n; rw [h]
@[simp] theorem State.raiseBy_fuse (e : Ev) (n : Nat) : (s.raiseBy e n).fuse = s.fuse := by
  obtain ⟨r, y, m, h⟩ := s.raiseBy_eq e n; rw [h]
@[simp] theorem State.raiseBy_mem (e : Ev) (n : Nat) : (s.raiseBy e n).mem = s.mem := by
  obtain ⟨r, y, m, h⟩ := s.raiseBy_eq e n; rw [h]
@[simp] theorem State.raiseBy_poison (e : Ev) (n : Nat) : (s.raiseBy e n).poison = s.poison := by
  obtain ⟨r, y, m, h⟩ := s.raiseBy_eq e n; rw [h]
@[simp] theorem State.raiseBy_tick (e : Ev) (n : Nat) : (s.raiseBy e n).tick = s.tick := by
  obtain ⟨r, y, m, h⟩ := s.raiseBy_eq e n; rw [h]
@[simp] theorem State.raiseBy_tmr (e : Ev) (n : Nat) : (s.raiseBy e n).tmr = s.tmr := by
  obtain ⟨r, y, m, h⟩ := s.raiseBy_eq e n; rw [h]
@[simp] theorem State.raiseBy_pins (e : Ev) (n : Nat) : (s.raiseBy e n).pins = s.pins := by
  obtain ⟨r, y, m, h⟩ := s.raiseBy_eq e n; rw [h]
@[simp] theorem State.raiseBy_exp (e : Ev) (n : Nat) : (s.raiseBy e n).exp = s.exp := by
  obtain ⟨r, y, m, h⟩ := s.raiseBy_eq e n; rw [h]
@[simp] theorem State.raiseBy_rdo (e : Ev) (n : Nat) : (s.raiseBy e n).rdo = s.rdo := by
  obtain ⟨r, y, m, h⟩ := s.raiseBy_eq e n; rw [h]
@[simp] theorem State.raiseBy_clk (e : Ev) (n : Nat) : (s.raiseBy e n).clk = s.clk := by
  obtain ⟨r, y, m, h⟩ := s.raiseBy_eq e n; rw [h]
@[simp] theorem State.raiseBy_lines (e : Ev) (n : Nat) : (s.raiseBy e n).lines = s.lines := by
  obtain ⟨r, y, m, h⟩ := s.raiseBy_eq e n; rw [h]
@[simp] theorem State.raiseBy_eng (e : Ev) (n : Nat) : (s.raiseBy e n).eng = s.eng := by
  obtain ⟨r, y, m, h⟩ := s.raiseBy_eq e n; rw [h]
@[simp] theorem State.raiseBy_job (e : Ev) (n : Nat) : (s.raiseBy e n).job = s.job := by
  obtain ⟨r, y, m, h⟩ := s.raiseBy_eq e n; rw [h]
@[simp] theorem State.raiseBy_rec (e : Ev) (n : Nat) : (s.raiseBy e n).rec_ = s.rec_ := by
  obtain ⟨r, y, m, h⟩ := s.raiseBy_eq e n; rw [h]
@[simp] theorem State.raiseBy_dev (e : Ev) (n : Nat) : (s.raiseBy e n).dev = s.dev := by
  obtain ⟨r, y, m, h⟩ := s.raiseBy_eq e n; rw [h]
@[simp] theorem State.raiseBy_memctl (e : Ev) (n : Nat) : (s.raiseBy e n).memctl = s.memctl := by
  obtain ⟨r, y, m, h⟩ := s.raiseBy_eq e n; rw [h]
@[simp] theorem State.raiseBy_dma (e : Ev) (n : Nat) : (s.raiseBy e n).dma = s.dma := by
  obtain ⟨r, y, m, h⟩ := s.raiseBy_eq e n; rw [h]
@[simp] theorem State.raiseBy_nvs (e : Ev) (n : Nat) : (s.raiseBy e n).nvs = s.nvs := by
  obtain ⟨r, y, m, h⟩ := s.raiseBy_eq e n; rw [h]
@[simp] theorem State.raiseBy_port (e : Ev) (n : Nat) : (s.raiseBy e n).port = s.port := by
  obtain ⟨r, y, m, h⟩ := s.raiseBy_eq e n; rw [h]
@[simp] theorem State.raiseBy_chain (e : Ev) (n : Nat) : (s.raiseBy e n).chain = s.chain := by
  obtain ⟨r, y, m, h⟩ := s.raiseBy_eq e n; rw [h]
@[simp] theorem State.raiseBy_evtQ (e : Ev) (n : Nat) : (s.raiseBy e n).evtQ = s.evtQ := by
  obtain ⟨r, y, m, h⟩ := s.raiseBy_eq e n; rw [h]
@[simp] theorem State.raiseBy_wire (e : Ev) (n : Nat) : (s.raiseBy e n).wire = s.wire := by
  obtain ⟨r, y, m, h⟩ := s.raiseBy_eq e n; rw [h]
@[simp] theorem State.raiseBy_cal (e : Ev) (n : Nat) : (s.raiseBy e n).cal = s.cal := by
  obtain ⟨r, y, m, h⟩ := s.raiseBy_eq e n; rw [h]
@[simp] theorem State.raiseBy_therm (e : Ev) (n : Nat) : (s.raiseBy e n).therm = s.therm := by
  obtain ⟨r, y, m, h⟩ := s.raiseBy_eq e n; rw [h]
@[simp] theorem State.raiseBy_pwr (e : Ev) (n : Nat) : (s.raiseBy e n).pwr = s.pwr := by
  obtain ⟨r, y, m, h⟩ := s.raiseBy_eq e n; rw [h]
@[simp] theorem State.raiseBy_lamp (e : Ev) (n : Nat) : (s.raiseBy e n).lamp = s.lamp := by
  obtain ⟨r, y, m, h⟩ := s.raiseBy_eq e n; rw [h]
@[simp] theorem State.raise_pending (e : Ev) : (s.raise e).pending = s.pending := s.raiseBy_pending e 1
@[simp] theorem State.raise_now (e : Ev) : (s.raise e).now = s.now := s.raiseBy_now e 1
@[simp] theorem State.raise_freeIdx (e : Ev) : (s.raise e).freeIdx = s.freeIdx := s.raiseBy_freeIdx e 1
@[simp] theorem State.raise_rdata (e : Ev) : (s.raise e).rdata = s.rdata := s.raiseBy_rdata e 1
@[simp] theorem State.raise_force (e : Ev) : (s.raise e).force = s.force := s.raiseBy_force e 1
@[simp] theorem State.raise_frozen (e : Ev) : (s.raise e).frozen = s.frozen := s.raiseBy_frozen e 1
@[simp] theorem State.raise_nextPend (e : Ev) : (s.raise e).nextPend = s.nextPend := s.raiseBy_nextPend e 1
@[simp] theorem State.raise_commitPend (e : Ev) : (s.raise e).commitPend = s.commitPend := s.raiseBy_commitPend e 1
@[simp] theorem State.raise_fuse (e : Ev) : (s.raise e).fuse = s.fuse := s.raiseBy_fuse e 1
@[simp] theorem State.raise_mem (e : Ev) : (s.raise e).mem = s.mem := s.raiseBy_mem e 1
@[simp] theorem State.raise_poison (e : Ev) : (s.raise e).poison = s.poison := s.raiseBy_poison e 1
@[simp] theorem State.raise_tick (e : Ev) : (s.raise e).tick = s.tick := s.raiseBy_tick e 1
@[simp] theorem State.raise_tmr (e : Ev) : (s.raise e).tmr = s.tmr := s.raiseBy_tmr e 1
@[simp] theorem State.raise_pins (e : Ev) : (s.raise e).pins = s.pins := s.raiseBy_pins e 1
@[simp] theorem State.raise_exp (e : Ev) : (s.raise e).exp = s.exp := s.raiseBy_exp e 1
@[simp] theorem State.raise_rdo (e : Ev) : (s.raise e).rdo = s.rdo := s.raiseBy_rdo e 1
@[simp] theorem State.raise_clk (e : Ev) : (s.raise e).clk = s.clk := s.raiseBy_clk e 1
@[simp] theorem State.raise_lines (e : Ev) : (s.raise e).lines = s.lines := s.raiseBy_lines e 1
@[simp] theorem State.raise_eng (e : Ev) : (s.raise e).eng = s.eng := s.raiseBy_eng e 1
@[simp] theorem State.raise_job (e : Ev) : (s.raise e).job = s.job := s.raiseBy_job e 1
@[simp] theorem State.raise_rec (e : Ev) : (s.raise e).rec_ = s.rec_ := s.raiseBy_rec e 1
@[simp] theorem State.raise_dev (e : Ev) : (s.raise e).dev = s.dev := s.raiseBy_dev e 1
@[simp] theorem State.raise_memctl (e : Ev) : (s.raise e).memctl = s.memctl := s.raiseBy_memctl e 1
@[simp] theorem State.raise_dma (e : Ev) : (s.raise e).dma = s.dma := s.raiseBy_dma e 1
@[simp] theorem State.raise_nvs (e : Ev) : (s.raise e).nvs = s.nvs := s.raiseBy_nvs e 1
@[simp] theorem State.raise_port (e : Ev) : (s.raise e).port = s.port := s.raiseBy_port e 1
@[simp] theorem State.raise_chain (e : Ev) : (s.raise e).chain = s.chain := s.raiseBy_chain e 1
@[simp] theorem State.raise_evtQ (e : Ev) : (s.raise e).evtQ = s.evtQ := s.raiseBy_evtQ e 1
@[simp] theorem State.raise_wire (e : Ev) : (s.raise e).wire = s.wire := s.raiseBy_wire e 1
@[simp] theorem State.raise_cal (e : Ev) : (s.raise e).cal = s.cal := s.raiseBy_cal e 1
@[simp] theorem State.raise_therm (e : Ev) : (s.raise e).therm = s.therm := s.raiseBy_therm e 1
@[simp] theorem State.raise_pwr (e : Ev) : (s.raise e).pwr = s.pwr := s.raiseBy_pwr e 1
@[simp] theorem State.raise_lamp (e : Ev) : (s.raise e).lamp = s.lamp := s.raiseBy_lamp e 1

end

end Sys2Proof.Machine
end

