-- ==== Sys2Proof/Laws/Registers.lean ====
section
/-! SUPPORT. Registers and memory as reads see them: a field written is the field read, every other field, register and byte is as
before; what an interrupt bit's raising does. -/
namespace Sys2Proof.Machine

/-! ## Bits of a number -/

theorem testBit_bits (v lo w i : Nat) : (bits v lo w).testBit i = (decide (i < w) && v.testBit (lo + i)) := by
  unfold bits
  rw [Nat.testBit_mod_two_pow, Nat.testBit_div_two_pow, Nat.add_comm]

theorem testBit_insBits (old lo w v i : Nat) :
    (insBits old lo w v).testBit i = if lo ≤ i ∧ i < lo + w then v.testBit (i - lo) else old.testBit i := by
  have e : insBits old lo w v = 2 ^ lo * (2 ^ w * (old / 2 ^ (lo + w)) + v % 2 ^ w) + old % 2 ^ lo := by
    
    unfold insBits
    rw [Nat.pow_add, Nat.mul_add, ← Nat.mul_assoc, Nat.mul_comm (v % _), Nat.mul_comm (old / _)]
    ac_rfl
  have hb : old % 2 ^ lo < 2 ^ lo := Nat.mod_lt _ (Nat.two_pow_pos _)
  have hv : v % 2 ^ w < 2 ^ w := Nat.mod_lt _ (Nat.two_pow_pos _)
  rw [e, Nat.testBit_two_pow_mul_add _ hb]
  by_cases h1 : i < lo
  · rw [if_pos h1, if_neg (by omega), Nat.testBit_mod_two_pow]; simp [h1]
  · rw [if_neg h1, Nat.testBit_two_pow_mul_add _ hv]
    by_cases h2 : i - lo < w
    · rw [if_pos h2, if_pos (by omega), Nat.testBit_mod_two_pow]; simp [h2]
    · rw [if_neg h2, if_neg (by omega), Nat.testBit_div_two_pow]
      congr 1; omega

theorem bits_insBits_same (old lo w v : Nat) : bits (insBits old lo w v) lo w = v % 2 ^ w := by
  apply Nat.eq_of_testBit_eq
  intro i
  rw [testBit_bits, testBit_insBits, Nat.testBit_mod_two_pow]
  by_cases h : i < w
  · rw [if_pos (by omega), Nat.add_sub_cancel_left]
  · simp [h]

theorem bits_insBits_other (old lo w v lo' w' : Nat) (h : lo + w ≤ lo' ∨ lo' + w' ≤ lo) :
    bits (insBits old lo w v) lo' w' = bits old lo' w' := by
  apply Nat.eq_of_testBit_eq
  intro i
  rw [testBit_bits, testBit_bits, testBit_insBits]
  by_cases hi : i < w'
  · rw [if_neg (by omega)]
  · simp [hi]

theorem insBits_lt {old lo w : Nat} (v : Nat) (ho : old < 2 ^ 32) (h : lo + w ≤ 32) : insBits old lo w v < 2 ^ 32 := by
  refine Nat.lt_pow_two_of_testBit _ (fun i hi => ?_)
  rw [testBit_insBits, if_neg (by omega)]
  exact Nat.testBit_lt_two_pow (Nat.lt_of_lt_of_le ho (Nat.pow_le_pow_right (by omega) hi))

theorem bits_lt (v lo w : Nat) : bits v lo w < 2 ^ w := Nat.mod_lt _ (Nat.two_pow_pos _)

/-! ## Registers -/

section
variable (s : State)

@[simp] theorem State.reg_setReg_same (a : Nat) (v : Word) : (s.setReg a v).reg a = v := mapGet_set_same _ _ _ _

theorem State.reg_setReg_other {a b : Nat} (v : Word) (h : b ≠ a) : (s.setReg a v).reg b = s.reg b := mapGet_set_other _ _ _ _ h

theorem State.reg_put_other {f : Fld} (v : Nat) {b : Nat} (h : b ≠ f.reg) : (s.put f v).reg b = s.reg b := s.reg_setReg_other _ h

theorem State.get_put_same {f : Fld} (v : Nat) (h : f.lo + f.w ≤ 32) : (s.put f v).get f = v % 2 ^ f.w := by
  unfold State.get State.put
  rw [State.reg_setReg_same, BitVec.toNat_ofNat, Nat.mod_eq_of_lt (insBits_lt v (s.reg f.reg).isLt h), bits_insBits_same]

/-- A field in another register, or in other bits of the same one, is untouched. -/
theorem State.get_put_other {f g : Fld} (v : Nat) (h : g.reg ≠ f.reg ∨ (f.lo + f.w ≤ 32 ∧ (f.lo + f.w ≤ g.lo ∨ g.lo + g.w ≤ f.lo))) :
    (s.put f v).get g = s.get g := by
  by_cases hr : g.reg = f.reg
  · obtain h1 | ⟨h2, h3⟩ := h
    · exact absurd hr h1
    · unfold State.get State.put
      rw [hr, State.reg_setReg_same, BitVec.toNat_ofNat, Nat.mod_eq_of_lt (insBits_lt v (s.reg f.reg).isLt h2), bits_insBits_other _ _ _ _ _ _ h3]
  · unfold State.get State.put
    rw [s.reg_setReg_other _ hr]

theorem State.get_lt (f : Fld) : s.get f < 2 ^ f.w := bits_lt _ _ _

/-- A counter counts, and holds at the largest value of its field. -/
theorem State.get_bumpBy (f : Fld) (n : Nat) (h : f.lo + f.w ≤ 32) : (s.bumpBy f n).get f = min (2 ^ f.w - 1) (s.get f + n) := by
  unfold State.bumpBy
  rw [s.get_put_same _ h, Nat.mod_eq_of_lt]
  have := Nat.two_pow_pos f.w
  omega

/-! ## Interrupt bits -/

/-- What may change when a change settles: the roll-up requests and the attention pin, no register. -/
@[simp] theorem State.reg_settleFrom (t : State) (a : Nat) : (State.settleFrom s t).reg a = t.reg a := by
  unfold State.settleFrom
  simp only
  split <;> split <;> rfl

/-- The registers after an event that has no counter. -/
theorem State.reg_raise_none (e : Ev) (h : e.cnt = none) (a : Nat) : (s.raise e).reg a = (s.put (intRawBit e) 1).reg a := by
  unfold State.raise State.raiseBy
  rw [if_neg (by decide)]
  simp only [h]
  split <;> simp

/-- The registers after an event that counter b counts. -/
theorem State.reg_raise_some (e : Ev) (b : Nat) (h : e.cnt = some b) (a : Nat) :
    (s.raise e).reg a = ((s.put (intRawBit e) 1).bumpBy (evtCnt e.page b) 1).reg a := by
  unfold State.raise State.raiseBy
  rw [if_neg (by decide)]
  simp only [h]
  split <;> simp

/-- Raising an event changes its INT_RAW register and its counter's, no other. -/
theorem State.reg_raise_other (e : Ev) {a : Nat} (h : a ≠ (intRawBit e).reg) (hc : ∀ b, e.cnt = some b → a ≠ (evtCnt e.page b).reg) :
    (s.raise e).reg a = s.reg a := by
  cases hb : e.cnt with
  | none => rw [s.reg_raise_none e hb]; exact s.reg_put_other _ h
  | some b => rw [s.reg_raise_some e b hb]; exact (State.reg_put_other _ _ (hc b hb)).trans (s.reg_put_other _ h)

/-- The event counters stand apart from INT_RAW. -/
theorem evtCnt_ne (e : Ev) (b : Nat) : (intRawBit e).reg ≠ (evtCnt e.page b).reg := by
  simp only [intRawBit, evtCnt]; omega

/-- Raising an event sets its INT_RAW bit. -/
theorem State.get_raise (e : Ev) (h : e.bit < 32) : (s.raise e).get (intRawBit e) = 1 := by
  have h1 : (s.put (intRawBit e) 1).get (intRawBit e) = 1 := by
    rw [s.get_put_same _ (by simp only [intRawBit]; omega)]; rfl
  cases hb : e.cnt with
  | none => unfold State.get at h1 ⊢; rw [s.reg_raise_none e hb]; exact h1
  | some b =>
    unfold State.get at h1 ⊢
    rw [s.reg_raise_some e b hb, State.bumpBy, State.reg_put_other _ _ (evtCnt_ne e b)]; exact h1

/-- Raising an event counts in its event counter. -/
theorem State.get_raise_cnt (e : Ev) (b : Nat) (h : e.cnt = some b) :
    (s.raise e).get (evtCnt e.page b) = min 255 (s.get (evtCnt e.page b) + 1) := by
  have h0 : (s.put (intRawBit e) 1).get (evtCnt e.page b) = s.get (evtCnt e.page b) :=
    s.get_put_other _ (.inl (evtCnt_ne e b).symm)
  have h1 := (s.put (intRawBit e) 1).get_bumpBy (evtCnt e.page b) 1 (by simp only [evtCnt]; omega)
  rw [h0] at h1
  unfold State.get at h1 ⊢
  rw [s.reg_raise_some e b h]; exact h1

/-! ## Values in force -/

@[simp] theorem State.actReg_setAct_same (a : Nat) (v : Word) : (s.setAct a v).actReg a = v := mapGet_set_same _ _ _ _

theorem State.actReg_setAct_other {a b : Nat} (v : Word) (h : b ≠ a) : (s.setAct a v).actReg b = s.actReg b :=
  mapGet_set_other _ _ _ _ h

/-! ## Memory -/

@[simp] theorem State.byte_setByte_same (a : Nat) (b : Byte) : (s.setByte a b).byte a = b := mapGet_set_same _ _ _ _

theorem State.byte_setByte_other {a c : Nat} (b : Byte) (h : c ≠ a) : (s.setByte a b).byte c = s.byte c := mapGet_set_other _ _ _ _ h

/-- A store changes no byte outside the bytes it stores. -/
theorem State.byte_putBytes_other (a : Nat) (bs : List Nat) {c : Nat} (h : c < a ∨ a + bs.length ≤ c) :
    (s.putBytes a bs).byte c = s.byte c := by
  induction bs generalizing s a with
  | nil => rfl
  | cons b bs ih =>
    simp only [List.length_cons] at h
    unfold State.putBytes
    rw [ih _ _ (by omega), s.byte_setByte_other _ (by omega)]

end

end Sys2Proof.Machine
end

