-- ==== Sys2Proof/WellFormed.lean ====
section
/-! DEFINITION. Which commands are well formed: operands that no type bounds lie in the range the specification gives them. -/
namespace Sys2Proof

/-- An address of a register: a whole word of the register space of 4,096 pages (R409). -/
def wfReg (a : Nat) : Bool := a % 4 = 0 && a < 0x1000000

/-- A page number (R409). -/
def wfPage (p : Nat) : Bool := p < 0x1000

/-- A packet's LEN is what its payload takes, unless its framing is in error (R287). -/
def wfLen (p : Pkt) (n : Nat) : Bool := !p.ctrl.isEmpty || p.after ≠ 0x87 || p.len = n

/-- What the converters deliver for a row: 14 decisions for dark column positions and for active ones (R34, R59). -/
def wfRow (rest : Nat) (dark cols : List (Nat × Nat)) : Bool :=
  rest < 16384 && dark.all (fun c => (c.1 < 16 || (24592 ≤ c.1 && c.1 < 24608)) && c.2 < 16384) &&
    cols.all (fun c => 16 ≤ c.1 && c.1 < 24592 && c.2 < 16384)

/-- Is every operand of a command in its range? -/
def Instr.wf : Instr → Bool
  | .shadowLowRead a => wfReg a
  | .shadowHighRead a => wfReg a
  | .rowConversionDone _ rest dark cols => wfRow rest dark cols
  | .bankWrite a _ => wfReg a
  | .registerWrite a _ => wfReg a
  | .pageCommit p => wfPage p
  | .intClr p _ => wfPage p
  | .evtCntWrite p _ _ => wfPage p
  | .satFs p _ _ _ => wfLen p 12
  | .satLine p _ _ px _ => wfLen p (8 + px.length)
  | .satFe p _ _ _ => wfLen p 8
  | .regReq p _ _ _ _ _ _ _ data => wfLen p (16 + 4 * data.length)
  | .regRsp p _ _ _ _ _ _ _ data => wfLen p (16 + 4 * data.length)
  | .bulk p px => wfLen p px.length
  | .nvsStore _ p => p.spare.toNat ≤ 100
  | .scrubBurst xs ys => (xs ++ ys).all (· < 2 ^ 34)
  | .calPositionDone _ _ _ _ _ _ _ _ ws first => ws.length = 14 && first.weights.length = 14
  | .calDark _ _ _ levels d d1 => levels.length = 4 && (d.cols ++ d1.cols).all (fun c => c.1 < 2 * 24608)
  | .calWhite _ a b _ _ => a.length = 24608 && b.length = 24608
  | .calTiming late gate sync => late.length = 8 && decide ((gate - sync).natAbs ≤ 100)
  | .driftTrack d => d.length = 8
  | .thermalSample raw _ => raw.length = 72
  | .mbWrite _ data _ => 0 < data.length
  | .mbRead _ n _ => 0 < n
  | .lhResponse sync cells _ => sync.length = 6 && cells.length ≤ 16 * 258
  | .fomMeasure _ _ eye pk => eye ≤ pk
  | _ => true

end Sys2Proof
end

