-- ==== Sys2Proof/Tests/Slice0.lean ====
section
/-! SUPPORT. Tests: ill-formed operands refused, single steps on small states with results taken from the specification's rules, and
for every statement with hypotheses a state and operands that meet them. -/
namespace Sys2Proof.Machine.Tests

-- One theorem at a time: each evaluates a state.
set_option Elab.async false

/-! ## Small states -/

/-- Register fields at values. -/
def puts (s : State) (l : List (Fld × Nat)) : State := l.foldl (fun s f => s.put f.1 f.2) s

/-- Values in force at values. -/
def acts (s : State) (l : List (Nat × Nat)) : State := l.foldl (fun s f => s.setAct f.1 (BitVec.ofNat 32 f.2)) s

/-- Every domain on, READY, in a power state. -/
def inState (p : Nat) : State :=
  puts { State.reset with pwr := {} } [(R.PWR_DOM_STAT_ON, 2 ^ 25 - 1), (R.PWR_STAT_STATE, p), (R.SYS_STAT_READY, 1)]

/-- RUN and IDLE with every domain on. -/
def run : State := inState pRUN
def idle : State := inState pIDLE

/-! ## Well-formedness: what each check refuses -/

def pkt (n : Nat) : Pkt := { port := 0, vc := 0, seq := 0, len := n, crc := 0, ctrl := [], after := 0x87 }

theorem test_wf_address : (Instr.shadowLowRead 0x14041).wf = false ∧ (Instr.shadowHighRead 0x1000000).wf = false ∧
    (Instr.bankWrite 0x14102 0).wf = false ∧ (Instr.registerWrite 3 0).wf = false ∧ (Instr.registerWrite 0x14040 0).wf = true := by decide

theorem test_wf_page : (Instr.pageCommit 0x1000).wf = false ∧ (Instr.intClr 0x1000 0).wf = false ∧ (Instr.evtCntWrite 0x1000 0 0).wf = false ∧
    (Instr.pageCommit 0xFFF).wf = true := by decide

theorem test_wf_row : (Instr.rowConversionDone 0 16384 [] []).wf = false ∧ (Instr.rowConversionDone 0 0 [(16, 0)] []).wf = false ∧
    (Instr.rowConversionDone 0 0 [] [(24592, 0)]).wf = false ∧ (Instr.rowConversionDone 0 0 [] [(16, 16384)]).wf = false ∧
    (Instr.rowConversionDone 0 16383 [(24607, 16383)] [(24591, 16383)]).wf = true := by decide

theorem test_wf_length : (Instr.satFs (pkt 11) 0 0 0).wf = false ∧ (Instr.satLine (pkt 8) 0 0 [1] 0).wf = false ∧ (Instr.satFe (pkt 9) 0 0 0).wf = false ∧
    (Instr.regReq (pkt 16) 0 0 0 0 0 0 0 [1]).wf = false ∧ (Instr.regRsp (pkt 20) 0 0 0 0 0 0 0 []).wf = false ∧ (Instr.bulk (pkt 2) [1]).wf = false ∧
    (Instr.satFs (pkt 12) 0 0 0).wf = true := by decide

/-- Four banks' dark samples, and a pattern that is the same everywhere but where listed. -/
def levels : List LevelSeen := List.replicate 4 ⟨0, 1⟩
def pattern (cols : List (Nat × HoldSeen)) : PatternSeen := ⟨⟨0, 0⟩, cols⟩

theorem test_wf_calibration : (Instr.calDark ⟨0, 0⟩ 0 0 [⟨0, 1⟩] (pattern []) (pattern [])).wf = false ∧
    (Instr.calDark ⟨0, 0⟩ 0 0 levels (pattern [(49216, ⟨0, 0⟩)]) (pattern [])).wf = false ∧
    (Instr.calWhite ⟨⟨0, 0⟩, 0, false⟩ [] [] [] []).wf = false ∧ (Instr.calTiming [1] 0 0).wf = false ∧
    (Instr.calTiming (List.replicate 8 0) 101 0).wf = false ∧ (Instr.driftTrack [1, 2, 3, 4, 5, 6, 7]).wf = false ∧
    (Instr.calPositionDone 0 0 0 0 0 0 0 0 [1] ⟨0, 0, []⟩).wf = false ∧ (Instr.calDark ⟨0, 0⟩ 0 0 levels (pattern [(49215, ⟨0, 0⟩)]) (pattern [])).wf = true := by decide +kernel

theorem test_wf_others : (Instr.thermalSample [250] 0).wf = false ∧ (Instr.mbWrite 0 [] 0).wf = false ∧ (Instr.mbRead 0 0 0).wf = false ∧
    (Instr.lhResponse lhSync (List.replicate 4129 false) 0).wf = false ∧ (Instr.fomMeasure 0 0 2 1).wf = false ∧ (Instr.fomMeasure 0 0 2 2).wf = true ∧
    (Instr.scrubBurst [] [2 ^ 34]).wf = false := by decide +kernel
/-! ## Inputs, counters and ticks -/

/-- RUN with CNT0 and CNT1 linked and channel 11 a software capture. -/
def counters : State := puts run [(R.CCj_CTRL_EN 11, 1), (R.CCj_CTRL_FUNC 11, 1), (R.CCj_CTRL_CAP_SRC 11, 8), (R.CNTk_CTRL_MODE 5, 1),
  (R.CNTk_CTRL_MODE 0, 4), (R.CCj_CTRL_EN 10, 1), (R.CCj_STAT_ARMED 10, 1), (R.CNTk_CTRL_CLR_SRC 0, 1)]

theorem witness_counterRegisterWrites : counters.served 0x016 = true ∧ counters.on (R.CCj_CTRL_EN 11) = true ∧
    counters.get (R.CCj_CTRL_FUNC 11) = 1 ∧ counters.get (R.CCj_CTRL_CAP_SRC 11) = 8 := by decide +kernel

theorem witness_timerCountCountsOne : counters.dom dCLK = true ∧ counters.cntMode 5 = 1 ∧ counters.linkedHigh 5 = false ∧
    mapFind counters.tmr.clrAt 5 ≠ some 7 ∧ mapFind ({ counters with tmr := { clrAt := [(5, 7)] } } : State).tmr.clrAt 5 = some 7 ∧
    counters.timerDue 5 = 1 ∧ counters.now = 0 ∧ ({ counters with tmr := { clrAt := [(5, 7)] } } : State).timerDue 5 = 1 := by decide +kernel

/-- CC11 captures at its partner's fire, which SYNC_OUT shows. -/
def partner : State := acts (puts counters [(R.CCj_CTRL_CAP_SRC 11, 7)])
  [(R.TICK_SYNC_MODE.reg, 3 * 2 ^ R.TICK_SYNC_MODE.lo + 10 * 2 ^ R.TICK_SYNC_CC.lo + 100 * 2 ^ R.TICK_SYNC_W.lo)]

theorem witness_partnerFires : partner.armed 10 = true ∧ partner.on (R.CCj_CTRL_EN (10 ^^^ 1)) = true ∧ partner.get (R.CCj_CTRL_FUNC (10 ^^^ 1)) = 1 ∧
    partner.get (R.CCj_CTRL_CAP_SRC (10 ^^^ 1)) = 7 ∧ partner.act R.TICK_SYNC_MODE = 3 ∧ partner.act R.TICK_SYNC_CC = 10 ∧ partner.inRun = true ∧
    0 < partner.act R.TICK_SYNC_W := by decide +kernel

theorem witness_channelFireSnapshotClear : counters.armed 10 = true ∧ mapFind ({ counters with tmr := { ccDue := [(10, 9)] } } : State).tmr.ccDue 10 = some 9 ∧
    counters.tick.tickno < 2 ^ 64 ∧ counters.served 0x017 = true ∧ ({ counters with pins := { syncEnd := some 9 } } : State).pins.syncEnd = some 9 := by
  decide +kernel

theorem witness_inputEdgesAccepted : counters.dom dCLK = true ∧ hears counters 0 5 ∧ hears counters 1 5 ∧ hears counters 2 5 ∧
    ({ counters with tmr := { filtAt := [(0, 5), (1, 5)] } } : State).filtOk 0 (counters.encHold 0) 5 = false ∧
    ({ counters with tmr := { filtAt := [(0, 5), (1, 5)] } } : State).filtOk 1 (counters.encHold 1) 5 = false ∧
    (puts counters [(R.ENC_STAT_FAULT, 4)]).encFault 2 = true ∧
    (∀ i < 2, bit (3 : BitVec 3).toNat i = true ∧ (puts counters [(R.ENC_STAT_FAULT, 3)]).encFault i = true ∧
      bit (3 : BitVec 3).toNat i ≠ bit ((puts counters [(R.ENC_STAT_FAULT, 3)]).get R.ENC_STAT_LEVEL) i) ∧
    counters.linkedHigh 0 = false ∧ 2 ≤ counters.cntMode 0 ∧ counters.cntMode 0 ≤ 4 ∧ bit (counters.get R.TRIG_STAT_ENERGISED) 3 ≠ true ∧
    counters.filtOk 7 (counters.trigHold 3) 5 = true := by
  unfold hears; decide +kernel

theorem witness_quadratureErrorCountsNothing : counters.dom dCLK = true ∧ hears counters 0 5 ∧ hears counters 1 5 ∧
    counters.encA ≠ true ∧ counters.encB ≠ true ∧ counters.linkedHigh 0 = false ∧ 2 ≤ counters.cntMode 0 ∧ counters.cntMode 0 ≤ 4 := by
  unfold hears; decide +kernel

theorem witness_zEdgeIsTheGatedRise : counters.dom dCLK = true ∧ hears counters 2 5 ∧ counters.encZ = false ∧
    counters.on R.ENC_CFG_ZGATE = false ∧ counters.linkedHigh 0 = false ∧ counters.get (R.CNTk_CTRL_CLR_SRC 0) = 1 := by
  unfold hears; decide +kernel

/-- R80: both inputs change in one sample; CNT0 in QUAD4 keeps its count and QERR is set. -/
theorem test_quadrature_error : (counters.encEdge true true 5).cnt 0 = 0 ∧ (counters.encEdge true true 5).get (intRawBit E.TMR_QERR) = 1 := by decide +kernel

/-- Table 4-1: A leads B counts up, from 0xFFFFFFFF to 0. -/
theorem test_quadrature_up_wraps : ((puts counters [(R.CNTk_VAL_VAL 0, 2 ^ 32 - 1)]).encEdge true false 5).cnt 0 = 0 := by decide +kernel

/-- RUN with a tick source in force. -/
def source (src : Nat) (g : TickGen) : State :=
  { acts (puts run [(R.TICK_STAT_SRC_ACT, src)]) [(R.TICK_SRC_SRC.reg, src)] with tick := g }

theorem witness_ticksDerived : (source srcENCODER { pred := some 900 }).srcRuns srcENCODER = true ∧ (source srcTIMER {}).srcRuns srcTIMER = true ∧
    (source srcTRIG_TIMER { runLeft := 1 }).srcRuns srcTRIG_TIMER = true ∧
    (source srcTRIG_ENCODER { runLeft := 1, pred := some 900 }).srcRuns srcTRIG_ENCODER = true ∧ run.lifeWaits = false ∧
    (puts idle [(R.TICK_STAT_SRC_ACT, srcENCODER)]).srcAct = srcENCODER ∧ idle.modeAct ≠ 2 ∧ idle.inRun = false ∧
    (puts run [(R.EXP_STAT_MODE_ACT, 2)]).inRun = true ∧ (puts run [(R.EXP_STAT_MODE_ACT, 2)]).modeAct = 2 := by decide +kernel

theorem witness_tickEdge : run.inRun = true ∧ ({ run with tick := { queue := [{ der := 1, edge := 2001 }] } } : State).tick.queue =
    ({ der := 1, edge := 2001 } : DerTick) :: [] := by decide +kernel

/-- RUN after an edge at 100. -/
def afterEdge (d : Nat) : State := { run with tick := { lastEdge := some 100, queue := [{ edge := d }] } }

theorem witness_stopFlush : (afterEdge 2400101).inRun = true ∧ (afterEdge 2400101).on R.TICK_STAT_STOPPED = false ∧ 100 + 12 * msClk < 2400101 ∧
    (2400100 : Nat) ≤ 100 + 12 * msClk ∧ ({ run with tick := { flushLeft := 3 } } : State).tick.flushLeft ≠ 0 ∧ run.chain.pend = none ∧
    idle.noBoundary = true := by decide +kernel

/-- PLL_PORT_D enabled, its VCO running. -/
def pllRun : State := { puts run [(pllEn 5, 1)] with clk := { started := [5] } }

theorem witness_plls : run.served 0x018 = true ∧ run.on R.SYS_STAT_READY = true ∧ run.on (pllEn 5) = false ∧ pllRun.pllRuns 5 = true ∧
    16 * 2 ^ min 8 (pllRun.get (pllLockN 5)) ≤ 4096 ∧ (100 : Nat) ≤ 100 * 2 ^ pllRun.get (pllLockW 5) ∧
    15 < 16 * 2 ^ min 8 (pllRun.get (pllLockN 5)) ∧ 100 * 2 ^ pllRun.get (pllLockW 1) < 20000 ∧
    (puts run [(R.PLLi_STAT_LOCK 1, 1)]).on (R.PLLi_STAT_LOCK 1) = true ∧ run.on (R.PLLi_STAT_LOCK 1) = false ∧
    ({ run with clk := { hopping := true } } : State).clk.timedOut = false := by decide +kernel

theorem witness_pllStart : (puts run [(R.BANDi_e_W1_VALID 2 7, 1), (R.BANDi_e_W0_VCO_HI 2 7, 4000)]).bandEntry 2 (run.vcoHz 2) = some 7 := by decide +kernel

/-! ## Jobs and accesses -/

/-- RUN with both banks fit to start: no Shingle, three proof lines, repeats of four lines, no rule of Table 8-3 broken; bank B stages through
channel 31 and has learned. -/
def jobs : State := puts run [(R.EXP_CHECK_CODE_A, 0), (R.EXP_CHECK_CODE_B, 0), (R.JOB_x_PROOF_LINES_LINES 0, 3), (R.JOB_x_PROOF_LINES_LINES 1, 3),
  (R.JOB_x_REPEAT_REPEAT_LINES 0, 4), (R.JOB_x_REPEAT_REPEAT_LINES 1, 4), (R.JOB_x_CFG_REP_SRC 1, 1), (R.JOB_CTRL_BANK, 1),
  (R.JOB_x_STAGE_READY 1, 1), (R.JOB_x_STAGE_CH_CH 1, 2 ^ 31), (R.JOB_LEARN_STAT_STATE, 2)]

/-- The same with bank B active since tick 10 and a boundary at 10. -/
def jobB (tickno : Nat) : State :=
  { jobs with tick := { tickno := tickno }, job := { active := some 1, act := 10, armed := some 0, rep := { boundary := 10, waits := true } } }

theorem witness_jobCommands : jobs.served 0x01A = true ∧ jobs.inRun = true ∧ jobs.jobRunning = false ∧ jobs.jobCheck 0 = 0 ∧ jobs.jobCheck 1 = 0 ∧
    run.jobCheck 1 ≠ 0 ∧ (1 : Nat) / 2 % 8 = 0 ∧ (jobB 10).jobCheck 0 = 0 ∧ (jobB 10).jobRunning = true ∧ (jobB 10).job.armed.isSome = true ∧
    jobs.on (R.JOB_x_STAGE_READY jobs.stageBank) = true ∧
    (∀ n ∈ bitsOf 32 (jobs.get (R.JOB_x_STAGE_CH_CH jobs.stageBank)), jobs.chanEmpty n = true) := by decide +kernel

theorem witness_bankedWrites : jobs.served 0x01A = true ∧ (regRow (R.JOB_x_CFG_REP_SRC 1).reg).map (·.kind) = some .banked ∧
    bankOfReg (R.JOB_x_CFG_REP_SRC 1).reg = 1 ∧ jobs.job.active ≠ some 1 ∧ (jobB 10).job.active = some 1 ∧ 1 ∉ jobs.job.busy := by decide +kernel

theorem witness_flywheel : (jobB 14).job.active = some 1 ∧ (jobB 14).tick.firstTick = false ∧ (jobB 14).repSrc 1 ≠ 0 ∧
    (jobB 14).tick.tickno = (jobB 14).job.rep.boundary + (jobB 14).repeatLines 1 ∧ (jobB 14).job.rep.waits = true ∧
    (jobB 10).job.rep.boundary + (jobB 10).repTol 1 ≤ (jobB 10).tick.tickno ∧ (jobB 14).get R.JOB_LEARN_STAT_STATE = 2 ∧
    (∀ p, p < (jobB 14).proofLinesOf 1 → (jobB 14).lineShort 1 p = false) := by decide +kernel

/-- Counters 4 and 5 linked, with the shadow of the high word pending. -/
def linkedPair : State := { puts run [(R.TMR_LINK_LINK, 4)] with tmr := { shadow64 := [((R.CNTk_VAL_VAL 5).reg, 7)] } }

theorem witness_pairReads : run.servedAt 0x1F068 = true ∧ pairLow 0x1F068 = true ∧ pairLow 0x1F064 = false ∧ run.linkedHighWord 0x1F068 = none ∧
    run.linkedLow 0x1F068 = none ∧ linkedPair.servedAt (R.CNTk_VAL_VAL 4).reg = true ∧ linkedPair.linked 4 = true ∧
    linkedPair.servedAt (R.CNTk_VAL_VAL 5).reg = true ∧ mapFind linkedPair.tmr.shadow64 (R.CNTk_VAL_VAL 5).reg = some 7 ∧
    mapFind (puts run [(R.TMR_LINK_LINK, 4)]).tmr.shadow64 (R.CNTk_VAL_VAL 5).reg = none ∧ run.servedAt R.MEM_ERR_ADDR_LO_ADDR.reg = true := by
  decide +kernel

theorem witness_headerRegisters : run.pwr.off = false ∧ run.hdrOn 0x02C = true ∧ idle.isIdle = true ∧ idle.jobRunning = false ∧
    (0x102 : Nat) % 256 ≠ idle.compatLevel ∧ (0x102 : Nat) % 256 < idle.get R.REG_COMPAT_MIN ∧ run.isIdle = false ∧
    (puts idle [(R.REG_COMPAT_LEVEL, 2)]).compatLevel ≠ 3 ∧ idle.get R.REG_COMPAT_MIN ≤ 3 ∧ 3 ≤ idle.compatMax := by decide +kernel

theorem witness_registerWrites : State.reset.servedAt 0x14040 = false ∧ (0x14041 : Nat) % 4 ≠ 0 ∧ regRow 0x14FFC = none ∧ run.servedAt 0x14060 = true ∧
    (regRow 0x14060).map (·.kind) = some .shadow ∧ (regRow 0x14040).map (·.kind) = some .nextTick ∧ (regRow 0x14044).map (·.kind) = some .ro ∧
    run.hdrOn 0x014 = true := by decide +kernel

theorem witness_boundaryWrites : run.served 0x017 = true ∧ run.served 0x014 = true ∧ run.served 0x015 = true ∧ run.jobRunning = false ∧
    (jobB 10).jobRunning = true ∧ (jobB 10).served 0x017 = true ∧ (2 : Nat) % 4 ≠ 3 ∧ run.canonical ∧ commits 0x014 = true := by decide +kernel

/-- R415: each written byte is subtracted from its counter, with a floor at 0. -/
theorem test_event_counter_floor : bits 0x0105 0 8 = 5 ∧ (3 : Nat) - bits 0x0105 0 8 = 0 := by decide

/-- R174: a write to the active bank is ignored and told. -/
theorem test_active_bank_write :
    let t := (jobB 10).bankWrite (R.JOB_x_CFG_REP_SRC 1).reg 0
    t.repSrc 1 = 1 ∧ t.get (intRawBit E.JOB_BANK_ACTIVE) = 1 := by decide +kernel

/-! ## Exposure, readout, memory and engines -/

def slot (started lit : Bool) : SlotRun := { slot := 3, tickno := 5, rowsets := [0, 1], start := 10, len := 20, started := started, chans := 0x80, lit := lit }

def slots (started lit : Bool) : State :=
  { puts run [(R.LAMP_STAT_STATE, lpREADY), (R.LAMP_STAT_SW_24V, 1)] with exp := { slots := [slot started lit] } }

theorem witness_slots : (slots false false).slotRun 3 = some (slot false false) ∧ (slot false false).started = false ∧
    (slot false false).ended = false ∧ (slots false false).slotBlocked (slot false false) = false ∧
    (slots true false).slotRun 3 = some (slot true false) := by decide +kernel

def xfer (held : Bool) (begun : Option Nat) : Xfer := { slot := 3, tickno := 5, rowsets := [0, 1], held := held, begun := begun }

def xfers (held : Bool) (begun : Option Nat) : State := { run with exp := { xfers := [xfer held begun] } }

theorem witness_strobesAndTransfers : (slots true false).strobesOn = true ∧ (slot true false).strobed = false ∧ (slot true false).chans ≠ 0 ∧
    ({ run with exp := { slots := [slot true false] } } : State).strobesOn = false ∧ run.lamp.suppressed ≠ some 5 ∧
    (slots true true).slotRun 3 = some (slot true true) ∧
    (xfers false (some 9)).exp.xfers.find? (fun x => x.slot = 3 && x.begun.isSome) = some (xfer false (some 9)) ∧
    (xfers true none).exp.xfers = [] ++ xfer true none :: [] ∧ (xfers true none).xferHeld (xfer true none) = false := by decide +kernel

def job0 : RowJob := { tickno := 5, slot := 3, row := 2047 }

def banks : State := { run with clk := { gates := [1] }, rdo := { banks := [{}, {}, {}, { rows := [job0], held := [{ job := job0 }] }], store := [{ tickno := 5, left := 2 }] } }

theorem witness_rows : banks.rowRuns = true ∧ (banks.bankRun 3).rows = [job0] ∧ (banks.bankRun 3).held = [({ job := job0 } : HeldRow)] ∧
    (∀ f ∈ banks.rdo.frames, f.tickno ≠ job0.tickno) ∧
    banks.rdo.store.find? (fun l => l.tickno = job0.tickno) = some ({ tickno := 5, left := 2 } : StackLine) := by decide +kernel

def memUp : State := puts run [(R.MEM_STAT_READY, 1), (R.MEM_CTRL_SCRUB_EN, 1)]

theorem witness_memory : run.served 0x014 = true ∧ run.dom dDDR = true ∧ run.power ≠ pSTANDBY ∧ run.pwr.off = false ∧ memUp.ddrRuns = true ∧
    memUp.on R.MEM_CTRL_SCRUB_EN = true ∧ run.get R.SYS_STAT_LAST_RESET ≤ 1 ∧ memUp.memctl.scrubAt < 2 ^ 31 ∧ memUp.memctl.flips = [] ∧ memUp.poison = [] := by decide +kernel

def line : Line := { tickno := 5, mask := 2 ^ 191, exposed := true, act := 1, stage := 2 }

/-- Every course on, a line of which Shingle 191 is still to be served. -/
def shingles (e : Engine) : State :=
  { puts run [(R.ENGG_STAT_COURSE_ON, 4095), (R.ENGG_CTRL_COURSE_PWR, 4095), (R.JOB_x_PROOF_LINES_LINES 0, 10)] with
    lines := [line], rdo := { store := [{ tickno := 5, push := 2 ^ 191 }] }, eng := [(191, e)], job := { active := some 0, act := 1 } }

def four : List Intake := [{ tickno := 1 }, { tickno := 2 }, { tickno := 3 }, { tickno := 4 }]

theorem witness_intake : (shingles {}).rdo.store.find? (fun l => bit l.push 191) = some ({ tickno := 5, push := 2 ^ 191 } : StackLine) ∧
    (shingles {}).lineOf 5 = some line ∧ (shingles {}).shOn 191 = true ∧ ((shingles {}).engine 191).faulted = false ∧
    ((shingles {}).engine 191).intake.length + boolNat ((shingles {}).engine 191).run.isSome < 4 ∧
    4 ≤ ((shingles { intake := four }).engine 191).intake.length + boolNat ((shingles { intake := four }).engine 191).run.isSome := by decide +kernel

theorem witness_pushToFaulted : ((shingles { faulted := true, faultAct := 1 }).engine 191).faulted = true ∧
    (shingles { faulted := true, faultAct := 1 }).lineOf 5 = some line ∧ line.act ≤ ((shingles { faulted := true, faultAct := 1 }).engine 191).faultAct ∧
    ((shingles { faulted := true, faultAct := 1 }).engine 191).intake.length + boolNat ((shingles { faulted := true, faultAct := 1 }).engine 191).run.isSome < 4 ∧
    ((shingles { faulted := true }).engine 191).faultAct < line.act := by decide +kernel

theorem witness_enginesAndCourses : ((shingles { run := some { wdog := 4 } }).engine 191).run = some ({ wdog := 4 } : Run) ∧
    (acts (shingles {}) [(R.ENGG_CLK_WDOG.reg, 4 * 2 ^ R.ENGG_CLK_WDOG.lo)]).act R.ENGG_CLK_WDOG = 4 ∧ (shingles {}).served (0x200 + 191) = true ∧
    ((shingles { faulted := true }).engine 191).faulted = true ∧ (puts run [(R.ENGG_CTRL_COURSE_PWR, 4095)]).dom (dCOURSE 11) = true ∧
    bit ((puts run [(R.ENGG_CTRL_COURSE_PWR, 4095)]).get R.ENGG_CTRL_COURSE_PWR) 11 = true ∧
    (puts run [(R.ENGG_CTRL_COURSE_PWR, 4095)]).courseOn 11 = false ∧ run.served 0x019 = true := by
  decide +kernel

/-! ## The Thatch kernels -/

/-- Bank 1's last word but one, for line 5. Registers: s5 + 31 and s9 are tray addresses past the code, s6 and s7 lie about
the last kernel word, s8 is the code's last byte. -/
def lastRun : Run := { line := { tickno := 5 }, bank := 1, pc := 4094, out := { dev := [(3, List.replicate 128 0)] } }
def kernelRegs : Engine := { sreg := [(5, 0x2FFE1), (6, 4095), (7, 4096), (8, 0xFFFF), (9, 0x20000), (31, 0xFFFFFFFF)] }

/-- Shingle 191's engine with an invocation, its word in the tray; bank 1's first loft window takes writes. -/
def inKernel (r : Run) (w : Nat) : State :=
  let s := puts (shingles {}) [(R.ENGG_x_LWINk_W0_MODE 1 0, 2), (R.ENGG_x_LWINk_W1_SIZE 1 0, 0x1000)]
  ({ s with eng := [(191, { kernelRegs with run := some r })] }).setBytes (trayBase 191 + kcodeBase r.bank + 8 * r.pc) (leBytes 8 w)

/-- VNOP is calm in every state, and so is SNOP. -/
theorem witness_calmVector (s : State) (sh : Nat) (r : Run) : calmVector s sh r 0 := ⟨rfl, fun _ _ h => nomatch h⟩
theorem witness_calmScalar (s : State) (sh : Nat) (r : Run) : calmScalar s sh r 0 := ⟨rfl, rfl, rfl⟩

/-- The word w is the one that runs. -/
def atWord (r : Run) (w : Nat) : Prop := running (inKernel r w) 191 r w

theorem witness_scalarRegisterCommands : ∀ p ∈ scalarRegOps, atWord lastRun (wordOf (slotSR p.2.1 31 0 31 0) 0) := by
  unfold atWord running; decide +kernel

theorem witness_scalarImmediateCommands : (∀ p ∈ scalarImmOps, (p.2.2.1 = true → (31 : BitVec 16).toNat < 32) ∧
    atWord lastRun (wordOf (slotSI p.2.1 31 5 31) 0)) ∧ atWord lastRun (wordOf (slotSI 0x16 31 0 0xFFFF) 0) ∧ atWord lastRun (wordOf 0 0) := by
  unfold atWord running; decide +kernel

theorem witness_scalarAccesses : (∀ n < 8, atWord lastRun (wordOf (slotSI (0x18 + n) 31 5 31) 0)) ∧ accessAt kernelRegs 5 31 = 0x30000 ∧
    (∀ n ∈ [1, 2, 4], trayFault false n n 0x30000 = none ∧ trayFault true n n 0x30000 = none) ∧
    (∀ b, (inKernel lastRun 0).loftFault 1 191 b 4 4 0x30000 = none) := by
  unfold atWord running; decide +kernel

theorem witness_branchesAndJumps : (∀ n < 5, atWord lastRun (wordOf (slotSB (0x20 + n) 31 0 4095 0) 0)) ∧
    atWord lastRun (wordOf (slotSI 0x25 0 6 0) 0) ∧ (kernelRegs.s 6).toNat < 4096 := by unfold atWord running; decide +kernel

/-- An invocation that has claimed its output entry and holds 31 emit blocks. -/
def full (init : Bool) : Run := { lastRun with claimed := true, init := init, out := { lastRun.out with emits := List.replicate 31 [] } }

theorem witness_kernelServices : (∀ i ∈ [0, 1, 2, 3, 4, 65535], atWord lastRun (wordOf (slotSI 0x26 31 0 (BitVec.ofNat 16 i)) 0)) ∧
    atWord (full false) (wordOf (slotSI 0x27 0 5 31) 0) ∧ trayFault false 64 64 0x30000 = none ∧ (full false).out.emits.length < 32 ∧
    (full false).claimFail = false ∧ atWord (full false) (wordOf 0x28 0) ∧ atWord (full true) (wordOf 0x28 0) ∧
    (inKernel (full true) 0).lineOf 5 = some line := by unfold atWord running; decide +kernel

/-- The same with the output queue full. -/
def outFull (r : Run) (w : Nat) : State :=
  let s := inKernel r w
  s.setEngine 191 { s.engine 191 with out := List.replicate 4 {} }

theorem witness_emitDiscarded : (∀ r ∈ [lastRun, full true, { lastRun with claimFail := true }, { full false with out := { emits := List.replicate 32 [] } }],
      running (outFull r (wordOf (slotSI 0x27 0 5 31) 0)) 191 r (wordOf (slotSI 0x27 0 5 31) 0)) ∧
    accessAt ((outFull lastRun 0).engine 191) 5 31 = 0x30000 ∧ trayFault false 64 64 0x30000 = none ∧ lastRun.init = false ∧ lastRun.claimed = false ∧
    lastRun.claimFail = false ∧ 4 ≤ ((outFull lastRun 0).engine 191).out.length ∧ (full true).init = true ∧
    running (outFull lastRun (wordOf 0x28 0)) 191 lastRun (wordOf 0x28 0) ∧ (outFull lastRun (wordOf 0x28 0)).lineOf 5 = some line := by
  unfold running; decide +kernel

theorem witness_vectorLaneCommands : ∀ p ∈ laneOps, atWord lastRun (wordOf 0 (slotV p.2.1 31 30 29 7 true true 63)) := by
  unfold atWord running; decide +kernel

theorem witness_vectorMoveCommands : (∀ n < 4, atWord lastRun (wordOf 0 (slotV (0x10 + n) 31 30 29 7 true true 63))) ∧
    atWord lastRun (wordOf 0 0) := by unfold atWord running; decide +kernel

theorem witness_predicateCommands : (∀ n < 3, atWord lastRun (wordOf 0 (slotV (0x14 + n) 7 31 5 7 true true 63))) ∧
    (∀ n < 3, atWord lastRun (wordOf 0 (slotV (0x17 + n) 7 7 7 7 true false 0))) := by unfold atWord running; decide +kernel

theorem witness_accumulatorCommands : ∀ n < 4, atWord lastRun (wordOf 0 (slotV (0x1C + n) 3 3 31 7 true false 31)) := by
  unfold atWord running; decide +kernel

theorem witness_reductionCommands : (∀ n < 2, atWord lastRun (wordOf 0 (slotV (0x1A + n) 31 7 0 7 true false 0))) ∧
    (∀ n < 3, atWord lastRun (wordOf 0 (slotV (0x20 + n) 31 31 31 7 true false 0))) := by unfold atWord running; decide +kernel

theorem witness_vectorAccesses : (∀ n < 5, atWord lastRun (wordOf 0 (slotV (0x24 + n) 31 31 9 7 true false 63))) ∧
    (∀ b, trayFault b 16 288 (vectorAt kernelRegs 9 63 288) = none ∧ (inKernel lastRun 0).loftFault 1 191 b 16 288 (vectorAt kernelRegs 9 63 288) = none) ∧
    trayFault false 16 144 (vectorAt kernelRegs 9 63 144) = none ∧ atWord lastRun (wordOf 0 (slotV 0x2C 31 31 9 7 true true 15)) ∧
    atWord lastRun (wordOf 0 (slotV 0x2D 31 31 9 7 true true 11)) ∧ atWord (full false) (wordOf 0 (slotV 0x2E 31 31 9 7 true true 15)) ∧
    (mapGet [] (full false).out.dev 3).length = 128 ∧ atWord lastRun (wordOf 0 (slotV 0x2E 31 31 9 7 true true 15)) ∧
    ((inKernel lastRun 0).engine 191).out.length < 4 ∧ atWord (full true) (wordOf 0 (slotV 0x2E 31 31 9 7 true true 15)) ∧
    running (outFull lastRun (wordOf 0 (slotV 0x2E 31 31 9 7 true true 15))) 191 lastRun (wordOf 0 (slotV 0x2E 31 31 9 7 true true 15)) := by
  unfold atWord running; decide +kernel

theorem witness_kernelFaults : atWord lastRun (wordOf (slotSR 0x01 31 31 31 0x7FF) 0) ∧ atWord lastRun (wordOf (slotSI 0x25 0 7 0) 0) ∧
    4096 ≤ (kernelRegs.s 7).toNat ∧ atWord lastRun (wordOf (slotSI 0x18 31 5 30) 0) ∧ accessAt kernelRegs 5 30 % 4 ≠ 0 ∧
    atWord lastRun (wordOf (slotSI 0x1D 31 8 0) 0) ∧ accessAt kernelRegs 8 0 < 0x10000 ∧
    (inKernel { lastRun with pc := 4095 } 0).fetched 191 { lastRun with pc := 4095 } = 0 ∧
    (∀ k ∈ [12, 15], k / 4 = 3 ∧ atWord lastRun (wordOf 0 (slotV 0x2D 31 0 0 0 false false (BitVec.ofNat 6 k)))) := by
  unfold atWord running; decide +kernel

/-- A line whose window, lines 0 to 2 of its proof, is held; its bank's INIT is due or not. -/
def entering (init : Nat) : State :=
  let s := puts (shingles { intake := [{ tickno := 5 }], proof := [{ line := 2 }, { line := 0 }, { line := 1 }] }) [(R.ENGG_x_INIT_EN 0, init)]
  { s with lines := [{ line with lineInRep := 1 }] }

theorem witness_enginesEnterTheKernel : ((entering 0).entryLine 191).isSome = true ∧ ((entering 1).entryLine 191).isSome = true ∧
    (entering 0).initWanted 191 line = false ∧ (entering 1).initWanted 191 line = true := by decide +kernel

theorem witness_proofLineFetch : (shingles {}).shOn 191 = true ∧ (shingles {}).dom dDDR = true ∧
    (((shingles {}).proofPrune 191).proofWanted 191).find? (fun k => !(((shingles {}).proofPrune 191).engine 191).proof.any (fun p => p.is k)) =
      some (0, 0, -1) ∧ (((shingles {}).proofPrune 191).engine 191).proof.length < 8 := by decide +kernel

/-- Slots with every field at its largest value, and one that differs from them in one field. -/
theorem witness_slotFields :
    let w := wordOf (slotSR 63 31 30 31 0x7FF) (slotV 63 31 31 30 7 true true 63)
    fOP (w % 2 ^ 32) = 63 ∧ fD (w % 2 ^ 32) = 31 ∧ fA (w % 2 ^ 32) = 30 ∧ fB (w % 2 ^ 32) = 31 ∧ bits (w % 2 ^ 32) 21 11 = 0x7FF ∧
    fB (w / 2 ^ 32) = 30 ∧ fVP (w / 2 ^ 32) = 7 ∧ fVPN (w / 2 ^ 32) = true ∧ fK (w / 2 ^ 32) = 63 := by decide

/-- Tables 7-2 and 7-5: the slot of ADD s3, s1, s2 written out, OP in bits 5–0, D in 10–6, A in 15–11, B in 20–16. -/
theorem test_slot_add : slotSR 1 3 1 2 0 = 0b00010_00001_00011_000001 ∧ fB 0b00010_00001_00011_000001 = 2 := by decide

/-- s0 takes no result (R156): ADD s0, s31, s31. -/
theorem test_s0_stays : (match execAdd 191 0 31 31 0 0 (inKernel lastRun (wordOf (slotSR 0x01 0 31 31 0) 0)) with
    | .next t => (t.engine 191).s 0 | _ => 1) = 0 := by decide +kernel

/-- R164: VADDS saturates 0x7FFF + 0x7FFF to 0x7FFF in an enabled lane. -/
theorem test_vadds_saturates :
    let w := wordOf 0 (slotV 0x03 2 1 1 0 false false 0)
    let r := lastRun
    let s := (inKernel r w)
    (match execVadds 191 2 1 1 0 false false 0 0 (s.setEngine 191 ((s.engine 191).setV 1 (List.replicate 144 0x7FFF))) with
    | .next t => ((t.engine 191).v 2).getD 143 0 | _ => 0) = 0x7FFF := by decide +kernel
/-! ## Developer, rings and records -/

/-- RUN with every course on and one line of course 11, delivered by Shingle 191 and by none before it. -/
def merging : State := { shingles { out := [{ tickno := 5 }] } with lines := [{ line with gone := 2 ^ 191 }] }

/-- RUN with memory context 15 in turn: a closed frame waits, of which line 3 is to be developed, or nothing. -/
def ctx15 (f : SatFrame) : State :=
  { acts run [((R.MCm_CTRL_EN 14).reg, 1), ((R.MCm_SIZE_WIDTH 14).reg, 4096)] with dev := { turn := 15, ctx := [(15, { open_ := some f, waiting := [f] })] } }

theorem witness_slices : merging.mergeLine 11 = some { line with gone := 2 ^ 191 } ∧ courseBits (2 ^ 191) 11 = courseBits line.mask 11 ∧
    merging.dev.input.length < 16 ∧ nextSlice [{ tickno := 5, course := 11 }] = some { tickno := 5, course := 11 } ∧
    (ctx15 {}).dom dLOFT = true ∧ (ctx15 {}).dev.input = [] ∧ ((ctx15 {}).inRun || (ctx15 {}).isIdle) = true ∧ (ctx15 {}).turnNow = some 15 ∧
    ((ctx15 {}).ctxOf 15).waiting = ({} : SatFrame) :: [] ∧ ({} : SatFrame).lines.find? (fun x => 0 ≤ x.1) = none ∧
    (ctx15 { lines := [(3, 4096)], lineDone := 3 }).turnNow = some 15 ∧ ([(3, 4096)] : List (Nat × Nat)).find? (fun x => 3 ≤ x.1) = some (3, 4096) ∧
    0 + 2048 < (ctx15 {}).ctxWidth 15 ∧ ((ctx15 {}).ctxOf 15).open_ = some {} := by decide +kernel

/-- RUN with rings 0 and 1 of 64 units. -/
def rings : State := puts run [(R.RINGr_SIZE_SIZE 0, 1), (R.RINGr_SIZE_SIZE 1, 1), (R.RINGr_WR_OFS 1, 1)]

def ul : UlRec := { first := 3, last := 4, reason := 2, mask := 1 }

def records (q : List Report) (o p : Option UlRec) : State := { rings with rec_ := { reports := q, openRec := o, pendRec := p } }

/-- The same with ring 1 full. -/
def recordsFull (q : List Report) (o p : Option UlRec) : State := puts (records q o p) [(R.RINGr_RD_OFS 1, 2)]

theorem witness_records : rings.dom dDDR = true ∧ merging.lineOf 5 = some { line with gone := 2 ^ 191 } ∧
    (({} : OutEntry).noRecords || line.gaveUp 191) = false ∧
    (records [{ tickno := 5, reason := 2, mask := 1 }] (some ul) none).ulOpen = some ul ∧ (5 : Nat) = ul.last + 1 ∧
    (records [{ tickno := 9 }] (some ul) none).ulOpen = some ul ∧ ul.reason ≠ 0 ∧ (recordsFull [{ tickno := 9 }] (some ul) none).ulOpen = some ul ∧
    (recordsFull [{ tickno := 9 }] (some ul) none).ringFree 1 < 1 ∧ (recordsFull [{ tickno := 9 }] none none).ulOpen = none ∧
    (recordsFull [{ tickno := 9 }] none (some ul)).rec_.pendRec = some ul ∧ (recordsFull [{ tickno := 9 }] none (some ul)).ringFree 1 < 1 ∧
    (records [{ tickno := 5 }] none none).ulOpen = none ∧ 1 ≤ rings.ringFree 1 ∧ run.ringFree 1 < 1 ∧
    (records [] none (some ul)).rec_.pendRec = some ul := by decide +kernel

/-- RD may go up to SENT, here 1, and not past it. -/
def sentOne : State := puts rings [(R.RINGr_SENT_OFS 1, 1)]

theorem witness_ringPointers : sentOne.served 0x020 = true ∧ sentOne.ringUnits 1 = 64 ∧ ringDist 64 (sentOne.ringRd 1) (65 % 64) ≤
    ringDist 64 (sentOne.ringRd 1) (sentOne.ringSent 1) ∧ ¬ ringDist 64 (sentOne.ringRd 1) (2 % 64) ≤
    ringDist 64 (sentOne.ringRd 1) (sentOne.ringSent 1) ∧ 2 ≠ sentOne.ringRd 1 ∧ rings.served 0x020 = true ∧ rings.job.active = none ∧ rings.get R.EXP_STAT_MODE_ACT = 0 ∧ (puts run [(R.EXP_STAT_MODE_ACT, 1)]).served 0x020 = true ∧
    (puts run [(R.EXP_STAT_MODE_ACT, 1)]).get R.EXP_STAT_MODE_ACT ≠ 0 ∧
    (shingles {}).served 0x020 = true ∧ (shingles {}).job.active.isSome = true ∧
    (puts { rings with evtQ := [{}] } [(R.RP_STAT_STATE 0, rpUP)]).portUp 0 = true := by decide +kernel
/-! ## Ridge ports, packets and DMA -/

/-- RUN with port 2 in a state, its lane 7 in a state with lane 7 alone in the set and offered by the far end. -/
def port (st lane : Nat) (x : Port) : State :=
  { puts run [(R.RP_STAT_STATE 2, st), (R.RP_LANEk_STAT_STATE 2 7, lane), (R.RP_STAT_LANES 2, 0x80), (R.RP_CTRL_RATE 2, 2), (R.RP_CTRL_SAFELIGHT_EN 2, 1)] with
    port := [(2, { x with farOffer := 0x80 })] }

def lane7 : Port := { lanes := [(7, { locked := true, ackSeen := true, try_ := 2 })] }

theorem witness_portsTrain : (port rpUP 2 {}).served 0x026 = true ∧ (port rpUP 2 {}).portState 2 ≠ rpTEST ∧ caged (port rpUP 2 {}) 2 ∧
    (port rpUP 2 {}).portState 2 = rpUP ∧ (port rpSAFELIGHT 2 {}).portState 2 = rpSAFELIGHT ∧ caged (port rpSAFELIGHT 2 {}) 2 ∧
    (port rpUP 2 {}).dom (dPORT 2) = true ∧ (port rpDOWN 0 { absent := true }).portState 2 = rpDOWN ∧
    ((port rpDOWN 0 { absent := true }).portOf 2).tripped = false ∧ (port rpTRAINING 1 {}).portState 2 = rpTRAINING ∧
    (port rpTRAINING 1 {}).get (R.RP_LANEk_STAT_STATE 2 7) = 1 ∧ ((port rpTRAINING 1 {}).laneOf 2 7).locked = false ∧
    ((port rpUP 2 lane7).laneOf 2 7).locked = true ∧ ((port rpUP 2 lane7).laneOf 2 7).recent = [] ∧
    (((port rpUP 2 lane7).laneOf 2 7).headers (List.replicate 24 0)).1.locked = false ∧ (port rpUP 2 lane7).laneActive 2 7 = true ∧ caged (port rpUP 2 lane7) 2 ∧ ((port rpTRAINING 3 lane7).laneOf 2 7).ackSeen = true ∧
    ((port rpTRAINING 3 lane7).laneOf 2 7).rxDone = false ∧ ((port rpTRAINING 3 lane7).laneOf 2 7).undo = false ∧
    ((port rpTRAINING 3 lane7).laneOf 2 7).steps < (port rpTRAINING 3 lane7).maxSteps 2 ∧ ((port rpTRAINING 3 lane7).laneOf 2 7).try_ < 3 ∧
    (port rpTRAINING 4 {}).minLanes 2 ≤ popcount 8 ((port rpTRAINING 4 {}).offer 2 &&& ((port rpTRAINING 4 {}).portOf 2).farOffer) ∧
    2 ≤ (port rpTRAINING 3 {}).get (R.RP_CTRL_RATE 2) ∧
    popcount 8 ((port rpTRAINING 3 {}).offer 2 &&& ((port rpTRAINING 3 {}).portOf 2).farOffer) < (port rpTRAINING 3 {}).minLanes 2 ∧
    (port rpUP 2 {}).on (R.RP_CTRL_SAFELIGHT_EN 2) = true ∧ ((port rpUP 2 {}).portOf 2).tx = [] ∧ (port rpUP 2 {}).chainDuty 2 = false := by
  unfold caged; decide +kernel

/-- A stripe that misses the only active lane, one that spreads too far, and one that deskews; two active lanes where they differ. -/
theorem witness_align : (port rpUP 2 {}).laneActive 2 7 = true ∧ (∀ x ∈ ([] : List (Fin 8 × Nat)), x.1.val ≠ 7) ∧
    (∀ k, k < 8 → (port rpUP 2 {}).laneActive 2 k = true → ∃ x ∈ [((7 : Fin 8), 65)], x.1.val = k) ∧
    (puts (port rpUP 2 {}) [(R.RP_STAT_LANES 2, 0x81)]).laneActive 2 0 = true ∧ (0 : Nat) + 64 < 65 ∧
    (port rpTRAINING 1 {}).laneLoops 2 7 = false ∧ (port rpUP 2 lane7).laneLoops 2 7 = false ∧
    (puts (port rpTRAINING 3 {}) [(R.RP_CTRL_RATE 2, 1)]).get (R.RP_CTRL_RATE 2) < 2 := by decide +kernel

/-- Port 2 in TEST with a pattern and loop 1 on lane 7, its checker locked. -/
def testing (prbs : Nat) : State := puts (port rpTEST 7 {}) [(R.RP_LANEk_CTRL_PRBS 2 7, prbs), (R.RP_LANEk_CTRL_LOOP 2 7, 1), (R.RP_LANEk_STAT_CHK_LOCK 2 7, 1)]

def full5 : TxPkt := { vc := 15, type := 8, payload := [1] }
def sending : State := port rpUP 2 { tx := [full5], adopted := [(15, 1)], heard := [(15, 1)], rrNext := 15 }

theorem witness_loopOnly : (testing 0).lanePrbs 2 7 = 0 ∧ (testing 0).dom (dPORT 2) = true ∧
    (puts (testing 0) [(R.RP_LANEk_CTRL_LOOP 2 7, 3)]).get (R.RP_LANEk_CTRL_LOOP 2 7) = 3 ∧
    (puts (testing 0) [(R.RP_LANEk_CTRL_LOOP 2 7, 3)]).lanePrbs 2 7 = 0 := by decide +kernel

theorem witness_portTests : (testing 1).served 0x026 = true ∧ (1 : Nat) % 4 % 3 ≠ 0 ∧ (testing 1).portState 2 = rpTEST ∧ caged (testing 1) 2 ∧
    (∀ j, j < 8 → j ≠ 7 → (testing 1).laneInTest 2 j = false) ∧ (testing 2).laneInTest 2 7 = true ∧ (testing 2).laneCtrlNow 2 7 / 16 % 8 = 0 ∧
    (testing 2).lanePrbs 2 7 ≠ 0 ∧ (testing 2).on (R.RP_LANEk_STAT_CHK_LOCK 2 7) = true ∧ (testing 2).dom (dPORT 2) = true ∧
    sending.portState 2 = rpUP ∧ mapFind (sending.portOf 2).heard 15 = some 1 ∧ mapFind (sending.portOf 2).heard 0 ≠ some 1 ∧
    (sending.txDiscard 2).txTurn 2 = some full5 := by unfold caged; decide +kernel

/-- A packet of one 64-byte unit for VC 15 of a port, and RUN in which that port takes it; satellite context 15 is on for VC 15 of port 2. -/
def one (p : Fin 3) : Pkt := { port := p, vc := 15, seq := 0, len := 64, crc := 0, ctrl := [], after := 0x87 }

/-- The register read of one word at 0xFFFFFFFC, with its CRC: for this module, or one to pass on. -/
def reading (p : Fin 3) (hops : Byte) : Pkt :=
  { one p with crc := BitVec.ofNat 32 (packetCrc 15 1 0 (regMsg 5 hops 0 0 1 1 0xFFFFFFFC []).bytes), len := 16 }

def taking (p : Nat) (f : Option SatFrame) : State :=
  { acts (puts run [(R.RP_STAT_STATE 0, rpUP), (R.RP_STAT_STATE 1, rpUP), (R.RP_STAT_STATE 2, rpUP)])
      [((R.MCm_CTRL_EN 14).reg, 1 * 2 ^ (R.MCm_CTRL_EN 14).lo + 2 * 2 ^ (R.MCm_CTRL_PORT 14).lo + 15 * 2 ^ (R.MCm_CTRL_VC 14).lo),
       ((R.MCm_SIZE_WIDTH 14).reg, 1 * 2 ^ (R.MCm_SIZE_WIDTH 14).lo + 2 * 2 ^ (R.MCm_SIZE_LINES_CFG 14).lo)] with
    port := [(p, { alloc := [(15, 1)] })], dev := { ctx := [(15, { open_ := f })] } }

/-- A request of one data word at a port, with its CRC. -/
def asking (p : Fin 3) (hops op : Byte) (n : Half) (a : Word) : Pkt :=
  { one p with crc := BitVec.ofNat 32 (packetCrc 15 1 0 (regMsg 7 hops 0 0 op n a [9]).bytes), len := 20 }

theorem witness_writeRequest : takes (taking 2 none) (asking 2 0 2 1 0x14060) ∧ (0x14060 : Word).toNat % 4 = 0 ∧
    takes (puts (taking 2 none) [(R.RP_STAT_STATE 1, 0)]) (asking 2 1 2 1 0x14060) ∧ (puts (taking 2 none) [(R.RP_STAT_STATE 1, 0)]).portUp 1 = false ∧
    (3 : Byte) ≠ 1 ∧ (3 : Byte) ≠ 2 ∧ 256 < (257 : Half).toNat ∧ (0x14061 : Word).toNat % 4 ≠ 0 := by unfold takes; decide +kernel

theorem witness_writeCrc : crcErr (asking 2 0 2 1 0x14060) 1 (regMsg 7 0 0 0 2 1 0x14060 [9]).bytes = false := by decide +kernel
theorem witness_badRequestCrc : crcErr (asking 2 0 3 1 0x14060) 1 (regMsg 7 0 0 0 3 1 0x14060 [9]).bytes = false := by decide +kernel
theorem witness_unreachableCrc : crcErr (asking 2 1 2 1 0x14060) 1 (regMsg 7 1 0 0 2 1 0x14060 [9]).bytes = false := by decide +kernel

/-- A packet with a wrong CRC, and one that goes past its VC's allocation besides. -/
theorem witness_wrongCrc : (taking 2 none).portState 2 = rpUP ∧ framingErr (one 2) = false ∧ ((0x23 : Byte).toNat < 0x20 ∨ 0x22 < (0x23 : Byte).toNat) ∧
    packetCrc (one 2).vc.val 0x23 (one 2).seq.toNat [] ≠ (one 2).crc.toNat ∧
    mapGet 0 ((taking 1 none).portOf 2).alloc 15 < mapGet 0 ((taking 1 none).portOf 2).held 15 + units64 64 := by decide +kernel

theorem witness_packets : takes (taking 2 none) (one 2) ∧ takes (taking 1 none) (one 1) ∧ (taking 1 none).ctxFor 1 15 = none ∧
    (∀ n, n < 32 → ((taking 2 none).chanOf n).busy = false) ∧ (taking 2 none).ctxFor 2 15 = some 15 ∧ ((taking 2 none).ctxOf 15).open_ = none ∧
    ((taking 2 none).ctxOf 15).waiting = [] ∧ ((taking 2 (some { frameno := 7 })).ctxOf 15).open_ = some { frameno := 7 } ∧
    takes (taking 2 (some { frameno := 7 })) (one 2) ∧ 1 < (taking 2 (some { frameno := 7 })).ctxLines 15 ∧
    (taking 2 (some { frameno := 7 })).ctxWidth 15 * (taking 2 (some { frameno := 7 })).ctxBpp 15 = 8 ∧ (0x23 : Byte).toNat = 0x23 ∧
    takes (taking 2 none) (reading 2 0) ∧ crcErr (reading 2 0) 1 (regMsg 5 0 0 0 1 1 0xFFFFFFFC []).bytes = false ∧
    (0xFFFFFFFC : Word).toNat % 4 = 0 ∧ takes (taking 1 none) (reading 1 1) ∧ crcErr (reading 1 1) 1 (regMsg 5 1 0 0 1 1 0xFFFFFFFC []).bytes = false ∧
    (reading 1 1).port.val ≠ 2 ∧ (taking 1 none).portUp 2 = true ∧
    2 ≤ (2 : Byte).toNat ∧ (taking 2 none).portUp 1 = true := by unfold takes; decide +kernel

/-- RUN with channel 31 on, its ring of two descriptors at 0x400000, the first one as given: it copies eight bytes, or none. -/
def channel (len : Nat) (c : DmaChan) : State :=
  let s := puts run [(R.MEM_STAT_READY, 1), (R.CHn_CTRL_EN 31, 1), (R.CHn_RING_LO_ADDR 31, 0x400000), (R.CHn_RING_SIZE_SIZE 31, 2), (R.CHn_TAIL_PTR 31, 1),
    (R.DMA_FENCE_MASK_CH, 2 ^ 31)]
  ({ s with dma := { chan := if c = ({} : DmaChan) then [] else [(31, c)] } }).setBytes 0x400000
    (leBytes 8 0x800000 ++ leBytes 8 0x900008 ++ leBytes 4 len ++ leBytes 4 (3 + 8 * 3))

theorem witness_dma : (channel 8 {}).served 0x021 = true ∧ chanReady (channel 8 {}) 31 ∧ chanAlone (channel 8 {}) 31 ∧ (channel 8 {}).power ≠ pSTANDBY ∧ (channel 8 {}).ddrWait 0x400000 = false ∧
    (channel 8 {}).descAddr 31 = 0x400000 ∧
    (let d := (channel 8 {}).bytes ((channel 8 {}).descAddr 31) 32
     (channel 8 {}).descCheck d = 0 ∧ descSrcPort d = false ∧ descDstPort d = false ∧ dmaTarget (descSrc d) = 0 ∧ dmaTarget (descDst d) = 0 ∧
     descLen d = 2 ^ descSw d ∧ descDw d = descSw d ∧ descSwap d = 0 ∧ (channel 8 {}).poisoned (descSrc d) (descLen d) = false) ∧
    chanReady (channel 0 {}) 31 ∧ (channel 0 {}).descCheck ((channel 0 {}).bytes ((channel 0 {}).descAddr 31) 32) ≠ 0 ∧
    ((channel 8 { busy := true, done := true }).chanOf 31).done = true ∧ ((channel 8 { busy := true, done := true }).chanOf 31).busy = true ∧
    ((channel 8 { busy := true, done := true, err := 2 }).chanOf 31).err ≠ 0 ∧ ((channel 8 { err := 2 }).chanOf 31).err ≠ 0 ∧
    ((channel 8 { err := 2 }).chanOf 31).busy = false ∧ (channel 8 { err := 2 }).chanEn 31 = true := by unfold chanReady chanAlone; decide +kernel

/-- Channel 31 streams ring 4, of which one unit is not sent. -/
def streaming : State :=
  puts run [(R.MEM_STAT_READY, 1), (R.CHn_CTRL_EN 31, 1), (R.CHn_CTRL_MODE 31, 1), (R.CHn_CTRL_STREAM 31, 4), (R.RINGr_SIZE_SIZE 4, 1), (R.RINGr_WR_OFS 4, 1),
    (R.RP_STAT_STATE 0, rpUP)]

theorem witness_stream : streaming.chanRing 31 = some 4 ∧ streaming.chanConflict 31 = false ∧ streaming.portUp 0 = true ∧ streaming.on R.MEM_STAT_READY = true ∧
    0 < (streaming.streamTake 4 (streaming.streamNext 4) (ringDist (streaming.ringUnits 4) (streaming.streamNext 4) (streaming.ringWr 4))).1 := by
  decide +kernel

/-- R242: the copy's eight bytes lie at the destination. -/
theorem test_dma_copy : (match execDmaDescriptor 31 ((channel 8 {}).setBytes 0x800000 [1, 2, 3, 4, 5, 6, 7, 8]) with
    | .next t => t.bytes 0x900008 8 | _ => []) = [1, 2, 3, 4, 5, 6, 7, 8] := by decide +kernel
/-! ## The negative store, power, start-up and temperature -/

/-- RUN with the store READY and a command's operands: 16 bytes at the top of DDR4, object 5 of type 7. -/
def store (n : Store) : State :=
  { puts run [(R.NVS_STAT_READY, 1), (R.NVS_ADDR_LO_ADDR, (ddrTop - 16) % 2 ^ 32), (R.NVS_ADDR_HI_ADDR, (ddrTop - 16) / 2 ^ 32), (R.NVS_LEN_LO_LEN, 16),
      (R.NVS_OBJ_ID_ID, 5), (R.NVS_OBJ_ARG_TYPE, 7)] with nvs := n }

/-- Its journal holds a record of so many units. -/
def journal (u : Nat) : Store := { journal := [{ units := u }] }

/-- A command in progress; a STORE of the 16 bytes at the top of DDR4 as object 5 of type 7. -/
def doing (op : Nat) (a : NvsArgs) (g : Programmed) (n : Store) : State := store { n with job := some { op := op, args := a, prog := g } }
def arg5 : NvsArgs := { addr := ddrTop - 16, len := 16, id := 5, type := 7 }
def good : Programmed := { spare := 100, fails := false }

theorem witness_store : (puts (store {}) [(R.NVS_CMD_STAT_BUSY, 1)]).served 0x022 = true ∧ (puts (store {}) [(R.NVS_CMD_STAT_BUSY, 1)]).on R.NVS_CMD_STAT_BUSY = true ∧
    storeTakes (store {}) ∧ (puts (store {}) [(R.PWR_STAT_STATE, pSTANDBY)]).power = pSTANDBY ∧
    (puts (store {}) [(R.PWR_STAT_STATE, pSTANDBY)]).served 0x022 = true ∧ (store {}).on R.NVS_CMD_STAT_BUSY = false ∧
    (puts (store {}) [(R.NVS_STAT_READY, 0)]).on R.NVS_STAT_READY = false ∧
    (store {}).nvsUp = true ∧ (store {}).power = pRUN ∧ 1536 * 0x4000 < (store (journal (1536 * 0x4000 + 1))).jUsed ∧
    (store (journal 1)).nvs.compacting = false ∧ (store (journal 1)).nvs.job = none ∧ (store { compacting := true, compactJob := true }).nvsUp = true ∧
    (store { compacting := true }).nvs.job = none ∧ (store { compacting := true }).stagingRead = false ∧
    600 * secClk ≤ max (store {}).now (600 * secClk) - (store {}).nvs.lastLifeTime ∧
    (store {}).chain.pend = none := by unfold storeTakes; decide +kernel

theorem witness_storeEnds : storeBusy (doing 1 arg5 good {}) { op := 1, args := arg5, prog := good } 1 ∧
    storeBusy (doing 1 {} good {}) { op := 1, prog := good } 1 ∧
    arg5.addr + arg5.len = ddrTop ∧ arg5.len = 16 ∧ arg5.id ≠ 0 ∧ arg5.type = 7 ∧ (doing 1 arg5 good {}).jFull = false ∧
    (doing 1 arg5 good {}).nvs.cat = [] ∧ freeSlot [] 1 0 = some 0 ∧ (takeFree (doing 1 arg5 good {}).reclaim.nvs.free (mbUnits 16)).isSome = true ∧
    (doing 1 arg5 good {}).poisoned (ddrTop - 16) 16 = false ∧ ({ doing 1 arg5 good {} with poison := [ddrTop - 8] } : State).poisoned (ddrTop - 16) 16 = true ∧
    2 ≤ (doing 1 arg5 good {}).nvs.spare ∧ min (doing 1 arg5 good {}).nvs.spare (1 : BitVec 7).toNat < 2 ∧ (doing 1 arg5 good {}).nvs.worn = false ∧
    storeBusy (doing 2 arg5 good { cat := [{ id := 5 }] }) { op := 2, args := arg5, prog := good } 2 ∧
    (doing 2 arg5 good { cat := [{ id := 5 }] }).nvs.cat.find? (fun e => e.id = 5) = some { id := 5 } ∧
    (doing 2 arg5 good { cat := [{ id := 5 }] }).jFull = false ∧ (doing 2 arg5 good {}).nvs.cat.find? (fun e => e.id = 5) = none ∧
    storeBusy (doing 4 arg5 good {}) { op := 4, args := arg5, prog := good } 4 ∧ storeBusy (doing 5 arg5 good {}) { op := 5, args := arg5, prog := good } 5 ∧
    storeBusy (doing 6 arg5 good {}) { op := 6, args := arg5, prog := good } 6 := by unfold storeBusy; decide +kernel

/-- A power state on a source that allows RUN, with a usable pack. -/
def powered (p : Nat) : State :=
  puts (inState p) [(R.PWR_ILIM_ACT, 100), (R.PACK_CHARGE_PRESENT, 1), (R.PACK_V_V_REST, 6000), (R.PWR_CHG_STAT_FAULT, 2), (R.PWR_CTRL_REQ, 1)]

def withPwr (s : State) (p : Power) : State := { s with pwr := p }

/-- IDLE with a usable source, RUN asked for, and ARRAY_DRV the only domain that is wanted and off. -/
def waiting (h : Bool) : State :=
  { puts (powered pIDLE) [(R.PWR_DOM_STAT_ON, 2 ^ 25 - 1 - 2 ^ dARRAY)] with pwr := { started := true, held := h } }

theorem witness_runWaits : (waiting false).isIdle = true ∧ (waiting false).runAllowed = true ∧ (waiting false).dom dARRAY = false ∧
    (waiting false).pwr.started = true ∧ (waiting true).pwr.off = false ∧ (waiting true).domNext = some dARRAY ∧
    domOrder.find? (fun d => (waiting true).domWanted d && !(waiting true).dom d && !(waiting true).pwr.failed.contains d &&
      (prereqs d).all (waiting true).dom) = some dARRAY := by decide +kernel

/-- The domains that are to be on, but for PORT 0. -/
def portOff : State := withPwr (puts run [(R.RP_CTRL_EN 0, 1), (R.PWR_DOM_STAT_ON, 2 ^ 25 - 1 - 2 ^ 21)]) { started := true }

theorem witness_sourceDomains : (powered pIDLE).pwr.off = false ∧ srcOfOhms 10000 ≠ (powered pIDLE).pwr.srcPin ∧
    domOrder.find? (fun d => portOff.domWanted d && !portOff.dom d && !portOff.pwr.failed.contains d && (prereqs d).all portOff.dom) = some (dPORT 0) ∧
    run.dom 24 = true ∧ (24 : Nat) ≠ dAON ∧ (powered pIDLE).isIdle = true ∧ (powered pIDLE).runAllowed = true ∧ (powered pIDLE).dom dARRAY = true ∧
    idle.isIdle = true ∧ idle.runAllowed = false ∧ run.inRun = true ∧ run.jobRunning = false ∧ run.pipeFlushed = true ∧
    (withPwr (powered pIDLE) { held := true }).pwr.held = true ∧ (powered pIDLE).reqState = pRUN ∧
    (withPwr idle {}).pwr.qualified = false ∧ (withPwr idle {}).pwr.qualSince = none ∧
    (withPwr (puts idle [(R.SYS_STAT_STARTING, 1)]) { qualSince := some 0 }).on R.SYS_STAT_STARTING = true ∧
    (withPwr (puts idle [(R.SYS_STAT_STARTING, 1)]) { qualSince := some 0 }).power = pIDLE := by decide +kernel

/-- HOLD-UP in a phase. -/
def held (ph : Nat) (p : Power) : State := withPwr (puts (powered pHOLDUP) [(R.PWR_STAT_HOLD_PHASE, ph), (R.PWR_STAT_ON_PACK, 1)]) p

theorem witness_holdUp : (withPwr (powered pRUN) { idOk := true }).packUsable = true ∧ (powered pRUN).pwr.off = false ∧ (powered pRUN).power ≠ pHOLDUP ∧
    (powered pRUN).packUsable = false ∧ (held 1 {}).power = pHOLDUP ∧ (held 1 {}).get R.PWR_STAT_HOLD_PHASE = 1 ∧ (held 1 {}).tick.flushLeft = 0 ∧ (held 1 {}).sys.warmEnd = none ∧
    (held 2 {}).get R.PWR_STAT_HOLD_PHASE = 2 ∧ ({ held 2 {} with nvs := { flushHdr := some 9 } } : State).nvs.flushHdr.isSome = true ∧
    (puts (held 2 {}) [(R.NVS_STAT_READY, 1)]).on R.NVS_STAT_READY = true ∧ (held 2 {}).sys.resetHeld = 0 ∧
    (held 3 {}).get R.PWR_STAT_HOLD_PHASE = 3 ∧ (held 3 {}).pwr.qualified = false ∧ (held 3 {}).pwr.off = false ∧ (held 3 {}).on R.PWR_STAT_ON_PACK = true ∧
    (held 3 { flushEnded := true, qualified := true }).pwr.flushEnded = true ∧ (held 3 { flushEnded := true, qualified := true }).sys.resetHeld = 0 ∧
    (powered pRUN).get R.PWR_ILIM_ACT * 100 < 10001 ∧ (puts run [(R.PWR_STAT_SUPPLEMENT, 1)]).on R.PWR_STAT_SUPPLEMENT = true ∧
    (600 : Half).toNat ≤ run.get R.PWR_HOLD_RESERVE ∧ run.get R.PWR_HOLD_RESERVE < (601 : Half).toNat := by decide +kernel

/-- A pack in a charger phase with a fault. -/
def charging (ph f : Nat) (p : Power) : State := withPwr (puts (powered pRUN) [(R.PWR_CHG_CTRL_EN, 1), (R.PWR_CHG_STAT_PHASE, ph), (R.PWR_CHG_STAT_FAULT, f)]) p

theorem witness_packAndCharger : (charging 6 4 { idOk := true }).get R.PWR_CHG_STAT_FAULT ≠ 0 ∧ (charging 6 4 { idOk := true }).on R.PWR_STAT_SUPPLEMENT = false ∧ (charging 6 4 { idOk := true }).on R.PWR_STAT_ON_PACK = false ∧
    (charging 6 4 { idOk := true }).standingFaults = [] ∧ (charging 6 4 { idOk := true, shorted := true }).standingFaults = [4] ∧
    (99 : Nat) < 100 ∧ (charging 3 0 {}).pwr.faults.contains 4 = false ∧ (charging 3 0 {}).pwr.faults.contains 5 = false ∧
    (charging 1 0 { idOk := true }).get R.PACK_V_V_REST ≤ 8500 ∧ (charging 1 0 { idOk := true }).packTemp ≤ 600 ∧ 8800 < (8801 : Half).toNat ∧
    (charging 3 0 { idOk := true }).packPresent = true ∧ (charging 4 0 { idOk := true }).packFit = true ∧
    (charging 4 0 { idOk := true }).get R.PACK_V_V_NOW ≤ 8800 ∧ (charging 3 0 {}).on R.PWR_STAT_SUPPLEMENT = false ∧
    (puts (charging 3 0 {}) [(R.PWR_ILIM_ACT, 30)]).get R.PWR_ILIM_ACT * 100 ≤ 2800 + 200 ∧
    (charging 3 0 { miss := 2 }).packPresent = true ∧ (charging 3 0 { miss := 2 }).pwr.miss = 2 ∧ (charging 3 0 {}).pwr.off = false ∧
    ((100 : Nat) ≤ 500000 ∧ (-400 : Int) ≤ 600) ∧ run.packPresent = false ∧ idAccepted true 0x21 3500 = true ∧
    (charging 1 0 { idOk := true }).get R.PWR_CHG_STAT_PHASE = 1 ∧ (charging 1 0 { idOk := true }).pwr.idOk = true ∧ 1000 ≤ (1000 : Half).toNat ∧
    6000 ≤ (charging 1 0 {}).get R.PACK_V_V_REST ∧ (charging 3 0 {}).get R.PWR_CHG_STAT_PHASE = 3 ∧ (charging 3 0 {}).get R.PWR_CHG_STAT_FAULT ≠ 4 ∧
    (charging 3 0 {}).on R.PWR_STAT_ON_PACK = false ∧ (charging 3 0 {}).on R.PWR_CHG_CTRL_EN = true ∧ (8500 : Half).toNat ≤ 8500 ∧ (8800 : Half).toNat ≤ 8800 ∧
    (charging 2 0 {}).get R.PWR_CHG_STAT_PHASE = 2 ∧ (charging 2 0 {}).pwr.faults.contains 3 = false ∧ (charging 4 0 {}).get R.PWR_CHG_STAT_PHASE = 4 ∧
    (8099 : Half).toNat < 8100 ∧ (charging 3 0 { acc := 60000000 * 1023 }).budgetUs ≤ 60000000 * 1023 ∧
    (charging 3 0 { acc := 60000000 * 1023 }).pwr.faults = [] := by decide +kernel

theorem witness_watchdog : run.dom dSUPV = true ∧ run.pwr.off = false ∧ run.coldNow = false ∧ run.power = pRUN ∧ (inState pHOLDUP).dom dSUPV = true ∧
    (inState pHOLDUP).power = pHOLDUP ∧ (inState pHOLDUP).get R.PWR_STAT_HOLD_PHASE ≠ 3 ∧ (inState pHOLDUP).coldNow = false ∧ (inState pSTANDBY).coldNow = false := by
  decide +kernel

/-- Starting up for more than 1 ms, ready but for the self-test, which passes or fails on a PLL. -/
def starting (locks : Nat) : State :=
  { puts idle ([(R.SYS_STAT_STARTING, 1), (R.MEM_STAT_READY, 1), (R.NVS_STAT_READY, 1), (R.NVS_STAT_REPLAYING, 1)] ++
      (List.range locks).map (fun i => (R.PLLi_STAT_LOCK i, 1))) with now := msClk }

theorem witness_startAndResets : State.reset.pwr.off = true ∧ (starting 0).on R.NVS_STAT_REPLAYING = true ∧ (starting 0).dom dNVS = true ∧ (starting 0).dom dSUPV = true ∧
    (starting 0).nvs.numbered = false ∧ ({ starting 0 with nvs := { numbered := true } } : State).nvs.numbered = true ∧ (starting 4).pwr.off = false ∧ (starting 4).dom dSUPV = true ∧
    ({ starting 4 with now := 0 } : State).on R.SYS_STAT_STARTING = true ∧ (puts (starting 4) [(R.MEM_STAT_READY, 0)]).startOver = false ∧ (starting 4).on R.SYS_STAT_STARTING = true ∧ (starting 4).startOver = true ∧ (starting 3).startOver = true ∧
    (starting 4).power ≠ pHOLDUP ∧ ((starting 4).selfTest false).get R.SYS_SELFTEST_FAIL &&& fatalItems = 0 ∧ (starting 4).on R.SYS_STAT_FATAL = false ∧
    ((starting 3).selfTest false).get R.SYS_SELFTEST_FAIL &&& fatalItems ≠ 0 ∧ run.pwr.off = false ∧ run.power = pRUN ∧ (inState pSTANDBY).power = pSTANDBY ∧
    ({ run with sys := { warmEnd := some 5 } } : State).sys.warmEnd = some 5 ∧ (1 : Word).toNat / 2 ^ 0 % 2 = 1 ∧ (0x100000 : Word).toNat / 2 ^ 20 % 2 = 1 ∧
    run.job.active = none ∧ run.pendingBank = none ∧ (0x20000 : Word).toNat = 2 ^ (6 + 11) ∧
    (puts (inState pSTANDBY) [(R.THERM_STAT_STATE, 4), (R.THERM_STAT_RESUME_OK, 1)]).get R.THERM_STAT_STATE = 4 ∧
    (puts (inState pSTANDBY) [(R.THERM_STAT_RESUME_OK, 1)]).on R.THERM_STAT_RESUME_OK = true ∧
    (withPwr (inState pSTANDBY) { qualified := true }).pwr.qualified = true ∧
    (puts (inState pHOLDUP) [(R.THERM_STAT_STATE, 4), (R.THERM_STAT_RESUME_OK, 1)]).power = pHOLDUP ∧ run.sys.resetHeld = 0 ∧ run.get R.THERM_STAT_STATE ≠ 4 := by decide +kernel

/-- Roll-up bit 24 has risen; its page is held off and merged, or neither. -/
def rolled (h : Bool) : State :=
  { puts run [(intRaw 0x02C, 1), (intMask 0x02C, 1), (R.SYS_EVT_MASK_PAGE, 2 ^ 25 - 1)] with
    sys := { rises := [24], holdoff := if h then [(24, 9)] else [], merged := if h then [24] else [] } }

theorem witness_monitors : run.pwr.off = false ∧ (rolled false).sys.rises = 24 :: [] ∧ mapFind (rolled false).sys.holdoff 24 = none ∧ (rolled false).evtQ.length < 64 ∧
    mapFind (rolled true).sys.holdoff 24 = some 9 ∧ firstEnd (rolled true).sys.holdoff = some (24, 9) ∧ 24 ∈ (rolled true).sys.merged ∧
    24 ∉ (rolled false).sys.merged ∧ bit ((rolled true).sysRoll &&& (rolled true).get R.SYS_EVT_MASK_PAGE) 24 = true := by decide +kernel

/-- Site 71 over its group's THROTTLE in a thermal state, due to become suspect. -/
def hotSite (st sus stage : Nat) : State :=
  { puts run [(R.THERM_STAT_STATE, st), (R.THERM_STAT_STAGE, stage), (R.THERM_SITEs_SUSPECT 71, sus), (R.THERM_SITEs_THROTTLE 71, 1)] with
    therm := { dueSus := [71], dueOk := [71], caps := [400000] } }

theorem witness_sites : run.pwr.off = false ∧ run.siteSuspect 71 = false ∧ (-400 : Int) < (List.replicate 72 (1499 : Int)).getD 71 0 ∧
    (List.replicate 72 (1499 : Int)).getD 71 0 < 1500 ∧ 71 ∈ (hotSite 2 0 6).therm.dueSus ∧ (hotSite 2 0 6).siteSuspect 71 = false ∧
    71 ∈ (hotSite 2 1 6).therm.dueOk ∧ (hotSite 2 1 6).siteSuspect 71 = true ∧ (hotSite 2 0 6).get R.THERM_STAT_STATE = 2 ∧
    (hotSite 2 0 6).throttleCause = some (1, 71) ∧ (hotSite 2 0 6).get R.THERM_STAT_STAGE < 7 ∧ (hotSite 3 0 1).get R.THERM_STAT_STATE = 3 ∧
    (hotSite 3 0 1).therm.cond = false ∧ run.served 0x028 = true := by decide +kernel

/-- Both outcomes of a write of group 11's first threshold word. -/
theorem witness_thresholds : thrOrdered run 11 ∧ ¬ thrOrdered (puts run [(R.THERM_THRg_W0_WARN 11, 2000), (R.THERM_THRg_W0_THROTTLE 11, 100)]) 11 := by
  unfold thrOrdered; decide +kernel
/-! ## The chain, calibration, the buses and the whole machine -/

/-- RUN, the source CHAIN, ports U and D UP, locked or not. -/
def chainRun (lock : Nat) (c : Chain) : State :=
  { acts (puts run [(R.RP_STAT_STATE 1, rpUP), (R.RP_STAT_STATE 2, rpUP), (R.CHAIN_STAT_CT_LOCK, lock)])
      [(R.TICK_SRC_SRC.reg, srcCHAIN), (R.CHAIN_CTRL_DOWN_EN.reg, 1 * 2 ^ R.CHAIN_CTRL_DOWN_EN.lo)] with chain := c }

/-- A token of the number due with its CRC-8, one without TOKEN_B, and a loss in fallback. -/
theorem witness_tokens : (some (BitVec.ofNat 8 (tokenCrc 0 0 1 0 0))).map BitVec.toNat = some (tokenCrc 0 0 1 0 0) ∧
    (none : Option Byte).map BitVec.toNat ≠ some (tokenCrc 0 0 1 0 0) ∧ (chainRun 1 {}).lifeWaits = false ∧
    (puts (chainRun 1 { lastTok := some (4, 0) }) [(R.CHAIN_STAT_FALLBACK, 1)]).on R.CHAIN_STAT_FALLBACK = true ∧
    (puts (chainRun 1 { lastTok := some (4, 0) }) [(R.CHAIN_STAT_FALLBACK, 1)]).chained = true ∧ (chainRun 1 {}).evtQ.length < 32 := by decide +kernel

theorem witness_chain : chainUp (chainRun 1 {}) ∧ (chainRun 1 {}).on R.CHAIN_STAT_CT_LOCK = true ∧
    50 < ((nearest 48 (((chainRun 1 {}).at 0).chainTime 0) 51 : Int) + (chainRun 1 {}).linkNs - ((chainRun 1 {}).at 0).chainTime 0).natAbs ∧
    chainUp (chainRun 0 {}) ∧ (chainRun 0 {}).on R.CHAIN_STAT_CT_LOCK = false ∧
    1000 < (((0 * 2 ^ 48 + 1001 : Nat) : Int) + (chainRun 0 {}).linkNs - ((chainRun 0 {}).at 0).chainTime 0).natAbs ∧
    (chainRun 1 {}).act R.CHAIN_CTRL_DOWN_EN = 1 ∧ (chainRun 1 {}).portState 2 = rpUP ∧ (chainRun 1 {}).portState 1 = rpUP ∧
    (chainRun 1 { lastTime := some 3 }).chain.lastTime = some 3 ∧ (chainRun 1 { lastTok := some (4, 0) }).chained = true ∧
    (chainRun 1 {}).on R.CHAIN_STAT_FALLBACK = false ∧ (chainRun 1 {}).on R.CHAIN_STAT_LOST = false ∧
    0 + 15 * (chainRun 1 {}).get R.TICK_TPRED_T / 2 + 5 * (chainRun 1 {}).leadClk < (chainRun 1 {}).chainTime (max 0 100000000) ∧
    (puts (chainRun 1 {}) [(R.CHAIN_STAT_LOST, 1)]).on R.CHAIN_STAT_LOST = true ∧ 16 ≤ (chainRun 1 { valid := 16 }).chain.valid ∧
    (chainRun 1 {}).evtQ.length < 64 ∧ (chainRun 1 {}).inRun = true ∧ (chainRun 1 {}).modeAct ≠ 2 ∧ bit (0 : Byte).toNat 2 = false ∧
    nearest 32 (chainRun 1 {}).chainNext (1 : Word).toNat = (chainRun 1 {}).chainNext ∧ (chainRun 1 {}).jobRunning = false ∧
    (chainRun 1 {}).tick.tickno < (chainRun 1 {}).tick.tickno / 2 ^ 56 * 2 ^ 56 + (1 : BitVec 56).toNat ∧ (chainRun 1 {}).noBoundary = true ∧
    ({ chainRun 1 {} with nvs := { saved := { hwm := 9 } } } : State).tnoAtOnce = true ∧
    ({ chainRun 1 {} with tick := { lastEdge := some 0 } } : State).tnoAtOnce = false ∧ (chainRun 1 {}).served 0x023 = true := by
  unfold chainUp; decide +kernel

/-- RUN with background calibration on and the row clock running; a pass in progress or not. -/
def calib (act : Nat) (c : Calib) : State :=
  { puts (powered pRUN) [(R.CAL_CTRL_BG_EN, 1), (R.CAL_STAT_START_PASS_DONE, 1), (R.CAL_STAT_PASS_ACTIVE, act)] with clk := { gates := [1] }, cal := c }

/-- The same in IDLE, where nothing is read out. -/
def calibIdle (c : Calib) : State :=
  { puts (powered pIDLE) [(R.CAL_CTRL_BG_EN, 1), (R.CAL_STAT_PASS_ACTIVE, 1)] with clk := { gates := [1] }, cal := c }

theorem witness_calibrationPasses : (calib 0 {}).on R.CAL_CTRL_BG_EN = true ∧ (calib 0 {}).on R.CAL_STAT_PASS_ACTIVE = false ∧
    (calib 0 {}).on R.CAL_STAT_START_PASS_DONE = true ∧ (calib 0 {}).dom dCONVN = true ∧ (calib 0 {}).dom dSUPV = true ∧ (calib 0 {}).runAdmissible = true ∧
    (calib 0 {}).power = pRUN ∧ (calib 1 {}).calWorks 3 191 = true ∧ ((calib 1 {}).spareAt 3 191).idx = 0 ∧ (calib 1 {}).readoutIdle = false ∧
    (calibIdle {}).calWorks 3 191 = true ∧ (calibIdle {}).cal.spare = [] ∧ (calibIdle {}).readoutIdle = true ∧
    (calib 1 { spare := [(3 * 192 + 191, { idx := 128 })] }).calWorks 3 191 = true ∧
    ((calib 1 { spare := [(3 * 192 + 191, { idx := 128 })] }).spareAt 3 191).idx ≠ 0 ∧
    checkCode true true {} ⟨63, 63, 0, 0, 9999, 9999, [], 0, 0, []⟩ ≠ 0 ∧ (calib 0 {}).cal.run ≠ 3 ∧ 200 < ((-201 : Int)).natAbs := by decide +kernel

/-- Weights at their nominal values pass every check, whatever those values are. -/
theorem witness_candidatePasses :
    checkCode true false {} ⟨32, 32, 0, 0, 64, -500, List.replicate 14 0, 64, -500, List.replicate 14 0⟩ = 0 := by
  simp [checkCode, Cand.weightBad, absI, List.replicate, List.range, List.range.loop]

theorem witness_calibrationRuns : calFree (calib 0 {}) ∧ idle.served 0x027 = true ∧ idle.cal.run = 0 ∧ idle.inRun = false ∧
    (calib 0 { run := 4, result := some {} }).cal.run ≠ 0 ∧ (calib 0 { run := 4 }).served 0x027 = true ∧
    ({ idle with cal := { run := 4, result := some {} } } : State).readoutIdle = true ∧ ({ idle with cal := { run := 4, result := some {} } } : State).calCode = 0 ∧
    (calib 0 { run := 3 }).calCode = 0 ∧ (calib 0 { run := 2, result := some { ff := 9 } }).cal.result = some { ff := 9 } ∧
    (calib 0 {}).expCode ((calib 0 {}).get R.CAL_WHITE_BANK) ≠ 0 ∧ (puts (calib 0 {}) [(R.EXP_CHECK_CODE_A, 0)]).expCode 0 = 0 ∧
    ({ calib 1 {} with clk := {} } : State).canStarve 0 = true ∧ (calib 1 {}).inRun = true ∧
    (calib 1 {}).on ⟨R.CAL_BG_STAT_STARVED.reg, 0, 1⟩ = false ∧ ({ run with nvs := { compacting := true } } : State).canStarve 2 = true := by
  unfold calFree; decide +kernel

theorem witness_bus : busServes run 0 ∧ busReads R.MB_CTRL_REPEAT.reg = true ∧ busWrites R.MB_CTRL_REPEAT.reg = true ∧
    run.served (R.MB_CTRL_REPEAT.reg / 4096) = true ∧ 0x040 ≤ R.MB_CTRL_REPEAT.reg % 4096 ∧
    busReads 0x14014 = true ∧ busWrites 0x14014 = true ∧ run.hdrOn 0x014 = true ∧ (inState pSTANDBY).mbSleeps = true ∧ (inState pSTANDBY).mb.awakeUntil = none ∧
    (inState pSTANDBY).sys.resetHeld = 0 ∧ (withPwr (inState pSTANDBY) { hostStandby := true, qualified := true }).pwr.hostStandby = true ∧
    ({ run with mb := { awakeUntil := some 7 } } : State).mb.awakeUntil = some 7 ∧ (puts (rolled false) [(R.MB_CTRL_ATTN_PULSE, 1)]).on R.MB_CTRL_ATTN_PULSE = true ∧
    (puts (rolled false) [(R.MB_CTRL_ATTN_PULSE, 1)]).attn = true ∧
    run.mb.attnServed = false ∧ run.mb.lastEnd + 20 * usClk ≤ max run.now (20 * usClk) := by unfold busServes; decide +kernel

/-- A lamphouse state with PWR as given. -/
def lamp (st pwr : Nat) (l : Lamp) : State := { puts run [(R.LAMP_STAT_STATE, st), (R.LAMP_STAT_SW_24V, 1), (R.LAMP_CTRL_PWR, pwr)] with lamp := l }

theorem witness_lamphouse : (lamp lpOFF 0 {}).served 0x02A = true ∧ (lamp lpOFF 0 {}).get R.LAMP_CTRL_PWR = 0 ∧ (lamp lpPOWERING 1 {}).get R.LAMP_CTRL_PWR = 1 ∧
    (lamp lpOFF 0 {}).lampState = lpOFF ∧ (lamp lpPOWERING 1 {}).lampState = lpPOWERING ∧ lpIDENT ≤ (lamp lpREADY 1 {}).lampState ∧ (lamp lpREADY 1 {}).dom dLAMP = true ∧
    (lamp lpIDENT 1 { readPos := 3 }).lampFree = true ∧ (lamp lpIDENT 1 { readPos := 3 }).lampState = lpIDENT ∧
    (lamp lpIDENT 1 { readPos := 3 }).lamp.readPos < 4 ∧ (lamp lpIDENT 1 {}).lamp.offDue = false ∧ (lamp lpIDENT 1 { readPos := 4 }).lamp.readPos = 4 ∧
    (lamp lpREADY 1 { xferDue := true }).lamp.xferDue = true ∧ (lamp lpREADY 1 { xferDue := true }).lampFree = true ∧ (lamp lpREADY 1 {}).lampState = lpREADY ∧
    (lamp lpIDENT 1 { xferDue := true, readPos := 5 }).lampState = lpIDENT ∧ (lamp lpIDENT 1 { xferDue := true, readPos := 5 }).lampFree = true ∧
    (lamp lpREADY 1 {}).lampSw = true ∧ ({ puts (lamp lpPOWERING 1 {}) [(R.LAMP_STAT_SW_24V, 0)] with now := 20 * msClk } : State).lampSw = true ∧
    (lamp lpIDENT 1 { xferDue := true, readPos := 4 }).lamp.xferDue = true ∧ (lamp lpPOWERING 1 { tripped := true }).lamp.tripped = true ∧
    ({ lamp lpPOWERING 1 {} with cal := { run := 3 } } : State).cal.run = 3 ∧
    (lamp lpREADY 1 { req := some { kind := 0x30, tries := 2 }, failPolls := 2 }).lamp.req = some { kind := 0x30, tries := 2 } ∧
    (lamp lpIDENT 1 { req := some { kind := 0x10 } }).lamp.req = some { kind := 0x10 } ∧ lhAnswer [true, true] = none ∧ List.replicate 6 true ≠ lhSync ∧ bit (1 : Byte).toNat 0 = true := by decide +kernel

theorem witness_rollup : run.canonical ∧ run.servedAt R.SYS_ROLL_PAGE.reg = true ∧ (rolled false).hdrOn 0x02C = true ∧ (rolled false).intStat 0x02C ≠ 0 ∧
    run.hdrOn (0x200 + 191) = run.dom (dCOURSE 11) := by decide +kernel

theorem witness_stepTakes : State.reset.pending = [] := rfl

/-- R402: bit 24 of the roll-up shows the INT_STAT of page 0x02C. -/
theorem test_rollup_bit : bit ((rolled false).sysRoll) 24 = true ∧ bit run.sysRoll 24 = false := by decide +kernel

/-- R414: a write of a shadowed register leaves the value in force; the register holds the value written. -/
theorem test_shadow_commit :
    let s := run.regWrite 0x14060 4
    s.reg 0x14060 = 4 ∧ s.actReg 0x14060 = run.actReg 0x14060 := by decide +kernel

/-! ## Checksums, against their published check values -/

theorem test_crc32 : crc32 [0x31, 0x32, 0x33, 0x34, 0x35, 0x36, 0x37, 0x38, 0x39] = 0xCBF43926 := by decide +kernel

theorem test_sha256 : sha256 [0x61, 0x62, 0x63] / 2 ^ 224 = 0xBA7816BF := by decide +kernel
end Sys2Proof.Machine.Tests
end

/-! PROOFS. The encoder's inputs (R80, R82): which registers each operation of the timers may change, and what that leaves a counter. -/
section
namespace Sys2Proof.Machine

/-! ## The frame: registers unchanged but for those listed -/

section
variable {s t u : State} {L : List Nat}

theorem State.regsSame.of_regs (h : t.regs = s.regs) : s.regsSame t L := fun a _ => by simp only [State.reg, h]

theorem State.regsSame.refl : s.regsSame s L := .of_regs rfl

theorem State.regsSame.trans (h : s.regsSame t L) (h' : t.regsSame u L) : s.regsSame u L :=
  fun a ha => (h' a ha).trans (h a ha)

theorem State.regsSame.mono {L' : List Nat} (h : s.regsSame t L) (hL : L ⊆ L') : s.regsSame t L' :=
  fun a ha => h a fun hm => ha (hL hm)

theorem State.get_of_regsSame {f : Fld} (h : s.regsSame t L) (hf : f.reg ∉ L) : t.get f = s.get f := by
  simp only [State.get, h f.reg hf]

theorem State.regsSame_put {f : Fld} (v : Nat) (hf : f.reg ∈ L) : s.regsSame (s.put f v) L :=
  fun _ ha => s.reg_put_other v (ne_of_mem_of_not_mem hf ha).symm

theorem State.regsSame_raise {e : Ev} (he : toldRegs e ⊆ L) : s.regsSame (s.raise e) L := by
  intro a ha
  have hne : a ∉ toldRegs e := fun h => ha (he h)
  cases hc : e.cnt with
  | none => exact s.reg_raise_other e (by simpa [toldRegs, hc] using hne) (by simp [hc])
  | some b =>
    obtain ⟨hbit, hcnt⟩ : a ≠ (intRawBit e).reg ∧ a ≠ (evtCnt e.page b).reg := by simpa [toldRegs, hc] using hne
    exact s.reg_raise_other e hbit (by simpa [hc] using hcnt)

theorem State.regsSame_ite {c : Prop} [Decidable c] (h : s.regsSame t L) (h' : s.regsSame u L) :
    s.regsSame (if c then t else u) L := by
  split
  · exact h
  · exact h'

theorem State.regsSame_foldl {α : Type} {f : State → α → State} (xs : List α)
    (hf : ∀ u, ∀ x ∈ xs, s.regsSame u L → u.regsSame (f u x) L) : s.regsSame (xs.foldl f s) L :=
  List.foldlRecOn (motive := fun u => s.regsSame u L) xs f .refl fun u hu x hx => hu.trans (hf u x hx hu)

/-! ## Events told -/

theorem told_raise (s : State) {e : Ev} (he : e.bit < 32) : told s (s.raise e) e :=
  ⟨s.get_raise e he, fun b hb => s.get_raise_cnt e b hb⟩

/-- Operations before and after that leave an event's registers alone leave it told once. -/
theorem told_frame {s' t' : State} {L' : List Nat} {e : Ev} (h : told s t e) (hs : s'.regsSame s L) (ht : t.regsSame t' L')
    (hL : ∀ a ∈ toldRegs e, a ∉ L) (hL' : ∀ a ∈ toldRegs e, a ∉ L') : told s' t' e := by
  obtain ⟨hbit, hcnt⟩ := h
  constructor
  · rw [State.get_of_regsSame ht (hL' _ (by unfold toldRegs; split <;> simp))]; exact hbit
  · intro b hb
    have hreg : (evtCnt e.page b).reg ∈ toldRegs e := by simp [toldRegs, hb]
    rw [State.get_of_regsSame ht (hL' _ hreg), ← State.get_of_regsSame hs (hL _ hreg)]
    exact hcnt b hb

end

/-! ## The tick generator -/

/-- The registers that a count step of CNT0 may change through the divider: those of T_pred, of a trigger run and of its two events. -/
def divRegs : List Nat :=
  [R.TICK_TPRED_T.reg, R.TICK_STAT_RUN_ACT.reg] ++ toldRegs E.TICK_DIV_OVR ++ toldRegs E.TICK_REVERSE

section
variable (s : State)

@[simp] theorem State.sendToken_regs (flags hops tno ct tp : Nat) : (s.sendToken flags hops tno ct tp).regs = s.regs := rfl

@[simp] theorem State.pushTick_regs (d : DerTick) : (s.pushTick d).regs = s.regs := by
  unfold State.pushTick
  dsimp only
  split
  · rfl
  · split
    · rfl
    · exact List.foldlRecOn (motive := fun u : State => u.regs = s.regs) _ _ rfl fun u hu _ _ => hu

@[simp] theorem State.releaseDeferred_regs (n : Nat) : (s.releaseDeferred n).regs = s.regs := by
  unfold State.releaseDeferred
  split
  · rfl
  · split
    · exact State.pushTick_regs _ _
    · rfl

theorem State.setTpred_regsSame (f : Frac) : s.regsSame (s.setTpred f) divRegs :=
  .trans (.of_regs rfl) (State.regsSame_put _ (by decide))

@[simp] theorem State.rePredict_regs : s.rePredict.regs = s.regs := rfl

theorem State.divTpred_regsSame : s.regsSame s.divTpred divRegs := by
  unfold State.divTpred
  split
  · exact .refl
  · split
    · exact .refl
    · exact s.setTpred_regsSame _

theorem State.runStep_regsSame : s.regsSame s.runStep divRegs :=
  State.regsSame_ite (.trans (.of_regs (by rfl)) (State.regsSame_put _ (by decide))) .refl

theorem State.divTick_regsSame (n : Nat) (sheet : Bool) : s.regsSame (s.divTick n sheet) divRegs := by
  have h : s.regsSame (s.releaseDeferred n) divRegs := .of_regs (by simp)
  refine h.trans ?_
  unfold State.divTick
  dsimp only
  split
  · exact .of_regs rfl
  · split
    · exact .of_regs (by simp)
    · split
      · exact .trans (.of_regs rfl) (State.regsSame_raise (by decide))
      · exact .of_regs (by simp)

theorem State.divDerive_regsSame (n : Nat) : s.regsSame (s.divDerive n) divRegs := by
  have h (sheet : Bool) : s.regsSame (if s.inRun then s.divTick n sheet else s) divRegs :=
    State.regsSame_ite (s.divTick_regsSame n sheet) .refl
  exact (h _).trans (.trans (.of_regs rfl) (State.runStep_regsSame _))

theorem State.divLoop_regsSame (i n : Nat) : s.regsSame (State.divLoop i s n) divRegs := by
  induction i generalizing s with
  | zero => exact .refl
  | succ i ih =>
    unfold State.divLoop
    split
    · exact (s.divDerive_regsSame n).trans (ih _)
    · exact .refl

/-- What a forward count of CNT0 does once its position and its time are noted (R94, R95). -/
theorem State.divTail_regsSame (n : Nat) : s.regsSame (State.divLoop s.divTpred.divTimes s.divTpred n).rePredict divRegs :=
  (s.divTpred_regsSame.trans (State.divLoop_regsSame _ _ n)).trans (.of_regs (State.rePredict_regs _))

theorem State.onCount_regsSame (up : Bool) (n : Nat) : s.regsSame (s.onCount up n) divRegs := by
  unfold State.onCount
  split
  · exact .refl
  · split
    · have h : s.regsSame (s.releaseDeferred n) divRegs := .of_regs (by simp)
      exact .trans (h.trans (.of_regs (by rfl))) (State.divTail_regsSame _ n)
    · exact .trans (.of_regs rfl) (State.regsSame_raise (by decide))

end

/-! ## Counters -/

/-- A channel's captured value. -/
def capRegs (j : Nat) : List Nat := [(R.CCj_CAP_VAL j).reg, (R.CCj_CAP_HI_VAL j).reg]

/-- What one count of counter k may change on the timers' page: its value, and a value that its channels capture in the same clock (R91). -/
def countRegs (k : Nat) : List Nat := (R.CNTk_VAL_VAL k).reg :: capRegs (2 * k) ++ capRegs (2 * k + 1)

section
variable {s t : State} {L : List Nat} {k : Nat}

theorem State.setCap_regsSame {j : Nat} (v : Nat) (hL : capRegs j ⊆ L) : s.regsSame (s.setCap j v) L := by
  simp only [capRegs, List.cons_subset] at hL
  obtain ⟨hlo, hhi, -⟩ := hL
  have h : s.regsSame (s.put (R.CCj_CAP_VAL j) v) L := State.regsSame_put v hlo
  unfold State.setCap
  dsimp only
  split
  · exact h.trans (State.regsSame_put _ hhi)
  · exact h

theorem State.recapture_regsSame (up : Bool) (hL : countRegs k ⊆ L) : s.regsSame (s.recapture k up) L := by
  simp only [countRegs, List.append_subset, List.cons_subset] at hL
  obtain ⟨⟨-, h0⟩, h1⟩ := hL
  refine State.regsSame_foldl _ fun u j hj _ => State.setCap_regsSame _ ?_
  obtain rfl | rfl : j = 2 * k ∨ j = 2 * k + 1 := by simpa using List.mem_of_mem_filter hj
  · exact h0
  · exact h1

theorem State.countOne_regsSame (up : Bool) (hL : countRegs k ⊆ L) : s.regsSame (s.countOne k up) L :=
  State.regsSame_put _ (hL List.mem_cons_self)

/-- A count step of counter k: its own registers, the high counter's where it carries into one, and for CNT0 the divider's. -/
theorem State.countStep_regsSame (up : Bool) (n : Nat) (hk : countRegs k ⊆ L)
    (hhigh : s.linked k = true → k % 2 = 0 → countRegs (k + 1) ⊆ L) (hdiv : divRegs ⊆ L) :
    s.regsSame (s.countStep k up n) L := by
  have hr : s.regsSame (s.recapture k up) L := State.recapture_regsSame up hk
  have ho : s.regsSame ((s.recapture k up).countOne k up) L := hr.trans (State.countOne_regsSame up hk)
  have hmet {u : State} (h : s.regsSame u L) (i : Nat) : s.regsSame (u.compareMet i) L := h.trans (.of_regs rfl)
  have hcnt {u : State} (h : s.regsSame u L) : s.regsSame (if k = 0 then u.onCount up n else u) L :=
    State.regsSame_ite (h.trans ((u.onCount_regsSame up n).mono hdiv)) h
  unfold State.countStep
  refine hcnt ?_
  split
  · exact hr
  · dsimp only
    split
    case isFalse => exact hmet ho k
    case isTrue hlow =>
      rw [Bool.and_eq_true, decide_eq_true_eq] at hlow
      have hL := hhigh hlow.1 hlow.2
      have hcarry : s.regsSame ((((s.recapture k up).countOne k up).recapture (k + 1) up).countOne (k + 1) up) L :=
        ho.trans ((State.recapture_regsSame up hL).trans (State.countOne_regsSame up hL))
      exact State.regsSame_ite (hmet (hmet hcarry k) (k + 1)) (hmet ho k)

theorem State.linkedHigh_succ (hl : s.linked k = true) (hk : k % 2 = 0) : k + 1 < 6 ∧ s.linkedHigh (k + 1) = true := by
  simp only [State.linked, State.linkedHigh, Bool.and_eq_true, decide_eq_true_eq] at hl ⊢
  have hdiv : (k + 1) / 2 = k / 2 := by omega
  rw [hdiv]
  exact ⟨by omega, ⟨by omega, hl.2⟩, by omega⟩

/-- What counts of the counters other than k may change. -/
def otherCountRegs (k : Nat) : List Nat := ((List.range 6).filter (· ≠ k)).flatMap countRegs ++ divRegs

theorem countRegs_subset_other {i : Nat} (hi : i < 6) (hik : i ≠ k) : countRegs i ⊆ otherCountRegs k :=
  fun _ ha => List.mem_append_left _ (List.mem_flatMap.2 ⟨i, by simp [hi, hik], ha⟩)

/-- The registers below the channels' that counts of the counters other than k leave alone: all but the values of those counters. -/
theorem notMem_otherCountRegs {a : Nat} (ha : a < (R.CCj_CTRL_EN 0).reg)
    (hc : ∀ i, i < 6 → i ≠ k → a ≠ (R.CNTk_VAL_VAL i).reg) : a ∉ otherCountRegs k := by
  intro hmem
  obtain h | h := List.mem_append.1 hmem
  · obtain ⟨i, hi, h⟩ := List.mem_flatMap.1 h
    simp only [List.mem_filter, List.mem_range, decide_eq_true_eq] at hi
    have := hc i hi.1 hi.2
    simp only [countRegs, capRegs, R.CCj_CAP_VAL, R.CCj_CAP_HI_VAL, R.CCj_CTRL_EN, List.mem_append, List.mem_cons, List.not_mem_nil,
      or_false] at h ha
    omega
  · have hdiv : ∀ d ∈ divRegs, (R.CCj_CTRL_EN 0).reg ≤ d := by decide
    exact absurd (hdiv a h) (by omega)

theorem State.linkedHigh_of_regsSame (h : s.regsSame t L) (hL : R.TMR_LINK_LINK.reg ∉ L) (k : Nat) :
    t.linkedHigh k = s.linkedHigh k := by
  simp only [State.linkedHigh, State.linked, State.get_of_regsSame h hL]

theorem link_notMem_otherCountRegs (k : Nat) : R.TMR_LINK_LINK.reg ∉ otherCountRegs k :=
  notMem_otherCountRegs (by decide) fun i _ _ => by simp only [R.TMR_LINK_LINK, R.CNTk_VAL_VAL]; omega

theorem mode_notMem_otherCountRegs (hk : k < 6) : (R.CNTk_CTRL_MODE k).reg ∉ otherCountRegs k :=
  notMem_otherCountRegs (by simp only [R.CNTk_CTRL_MODE, R.CCj_CTRL_EN]; omega)
    fun i _ _ => by simp only [R.CNTk_CTRL_MODE, R.CNTk_VAL_VAL]; omega

theorem cnt_notMem_otherCountRegs (hk : k < 6) : (R.CNTk_VAL_VAL k).reg ∉ otherCountRegs k :=
  notMem_otherCountRegs (by simp only [R.CNTk_VAL_VAL, R.CCj_CTRL_EN]; omega)
    fun i _ hik => by simp only [R.CNTk_VAL_VAL]; omega

/-- A counter that is no linked pair's high one and that the test does not select takes no part in the counting of the others. -/
theorem State.countAll_regsSame_other (sel : State → Nat → Option Bool) (n : Nat) (hlow : s.linkedHigh k = false)
    (hsel : ∀ u, s.regsSame u (otherCountRegs k) → sel u k = none) : s.regsSame (s.countAll sel n) (otherCountRegs k) := by
  refine State.regsSame_foldl _ fun u i hi hu => ?_
  have hi : i < 6 := List.mem_range.1 hi
  split
  · exact .refl
  · split
    · exact .refl
    · next up hup =>
      have hik : i ≠ k := by
        rintro rfl
        rw [hsel u hu] at hup
        cases hup
      refine State.countStep_regsSame up n (countRegs_subset_other hi hik) (fun hl he => ?_) (List.subset_append_right _ _)
      obtain ⟨hi6, hhigh⟩ := State.linkedHigh_succ hl he
      refine countRegs_subset_other hi6 ?_
      rintro rfl
      rw [State.linkedHigh_of_regsSame hu (link_notMem_otherCountRegs _), hlow] at hhigh
      cases hhigh

end

/-! ## Accepted samples of A and B (R80) -/

/-- Counter k counts in a quadrature mode. -/
def State.inQuad (s : State) (k : Nat) : Prop := s.linkedHigh k = false ∧ 2 ≤ s.cntMode k ∧ s.cntMode k ≤ 4

section
variable {s t : State} {k : Nat}

theorem State.inQuad_of_regsSame {L : List Nat} (h : s.regsSame t L) (hlink : R.TMR_LINK_LINK.reg ∉ L)
    (hmode : (R.CNTk_CTRL_MODE k).reg ∉ L) (hq : s.inQuad k) : t.inQuad k := by
  have hm : t.cntMode k = s.cntMode k := State.get_of_regsSame h hmode
  unfold State.inQuad
  rw [State.linkedHigh_of_regsSame h hlink, hm]
  exact hq

theorem State.inQuad_other (hk : k < 6) (h : s.regsSame t (otherCountRegs k)) (hq : s.inQuad k) : t.inQuad k :=
  State.inQuad_of_regsSame h (link_notMem_otherCountRegs k) (mode_notMem_otherCountRegs hk) hq

/-- Counting that never selects a counter in a quadrature mode leaves such a counter alone. -/
theorem State.countAll_regsSame_of_inQuad {sel : State → Nat → Option Bool} (n : Nat) (hk : k < 6) (hq : s.inQuad k)
    (h : s.regsSame t (otherCountRegs k)) (hsel : ∀ u : State, u.inQuad k → sel u k = none) :
    s.regsSame (t.countAll sel n) (otherCountRegs k) :=
  have ht := State.inQuad_other hk h hq
  h.trans (State.countAll_regsSame_other sel n ht.1 fun u hu => hsel u (State.inQuad_other hk hu ht))

/-- The registers that a sample changes before its counts, where A and B both change in it. -/
def qerrRegs : List Nat := R.ENC_STAT_LEVEL.reg :: toldRegs E.TMR_QERR

theorem notMem_qerrRegs {a : Nat} (ha : (R.CNTk_CTRL_MODE 0).reg ≤ a) : a ∉ qerrRegs := by
  have hbelow : ∀ r ∈ qerrRegs, r < (R.CNTk_CTRL_MODE 0).reg := by decide
  exact fun h => absurd (hbelow a h) (Nat.not_lt.2 ha)

theorem mode_notMem_qerrRegs (k : Nat) : (R.CNTk_CTRL_MODE k).reg ∉ qerrRegs :=
  notMem_qerrRegs (by simp only [R.CNTk_CTRL_MODE]; omega)

theorem cnt_notMem_qerrRegs (k : Nat) : (R.CNTk_VAL_VAL k).reg ∉ qerrRegs :=
  notMem_qerrRegs (by simp only [R.CNTk_CTRL_MODE, R.CNTk_VAL_VAL]; omega)

theorem State.put_level_regsSame (v : Nat) : s.regsSame (s.put R.ENC_STAT_LEVEL v) qerrRegs :=
  State.regsSame_put v List.mem_cons_self

theorem State.put_level_raise_regsSame (v : Nat) : s.regsSame ((s.put R.ENC_STAT_LEVEL v).raise E.TMR_QERR) qerrRegs :=
  (State.put_level_regsSame v).trans (State.regsSame_raise (List.subset_cons_self _ _))

/-- A sample in which A and B both change is told as QERR, and its counts behind that leave a counter in a quadrature mode alone: neither
of its tests selects one. -/
theorem State.encSample_both (a b : Bool) (n : Nat) (ha : s.encA ≠ a) (hb : s.encB ≠ b) (hk : k < 6) (hq : s.inQuad k) :
    ∃ v, ((s.put R.ENC_STAT_LEVEL v).raise E.TMR_QERR).regsSame (s.encSample a b n) (otherCountRegs k) := by
  have hany (v : Nat) : (List.range 6).any (fun k => !(s.put R.ENC_STAT_LEVEL v).linkedHigh k &&
      2 ≤ (s.put R.ENC_STAT_LEVEL v).cntMode k && (s.put R.ENC_STAT_LEVEL v).cntMode k ≤ 4) = true := by
    obtain ⟨hlow, h2, h4⟩ := State.inQuad_of_regsSame (State.put_level_regsSame v) (by decide) (mode_notMem_qerrRegs k) hq
    exact List.any_eq_true.2 ⟨k, List.mem_range.2 hk, by simp [hlow, h2, h4]⟩
  have hraised (v : Nat) : ((s.put R.ENC_STAT_LEVEL v).raise E.TMR_QERR).inQuad k :=
    State.inQuad_of_regsSame (State.put_level_raise_regsSame v) (by decide) (mode_notMem_qerrRegs k) hq
  unfold State.encSample
  simp only [ha, hb, hany, ne_eq, not_false_eq_true, decide_true, decide_false, Bool.and_true, Bool.and_false, if_true, if_false,
    Bool.false_eq_true]
  refine ⟨_, State.countAll_regsSame_of_inQuad n hk (hraised _)
    (State.countAll_regsSame_of_inQuad n hk (hraised _) .refl ?_) ?_⟩
  · rintro u ⟨hlow, h2, h4⟩
    simp [hlow, h2, h4]
  · rintro u ⟨-, -, h4⟩
    have h6 : u.cntMode k ≠ 6 := by omega
    simp [h6]

theorem State.cnt_encSample_both (a b : Bool) (n : Nat) (ha : s.encA ≠ a) (hb : s.encB ≠ b) (hk : k < 6) (hq : s.inQuad k) :
    (s.encSample a b n).cnt k = s.cnt k := by
  obtain ⟨v, hcounts⟩ := State.encSample_both a b n ha hb hk hq
  exact (State.get_of_regsSame hcounts (cnt_notMem_otherCountRegs hk)).trans
    (State.get_of_regsSame (State.put_level_raise_regsSame v) (cnt_notMem_qerrRegs k))

theorem State.told_encSample_both (a b : Bool) (n : Nat) (ha : s.encA ≠ a) (hb : s.encB ≠ b) (hk : k < 6) (hq : s.inQuad k) :
    told s (s.encSample a b n) E.TMR_QERR := by
  obtain ⟨v, hcounts⟩ := State.encSample_both a b n ha hb hk hq
  have hput : s.regsSame (s.put R.ENC_STAT_LEVEL v) [R.ENC_STAT_LEVEL.reg] := State.regsSame_put v List.mem_cons_self
  refine told_frame (told_raise _ (by decide)) hput hcounts (by decide) fun r hr => ?_
  have hbelow : r < (R.CNTk_VAL_VAL 0).reg := (show ∀ r ∈ toldRegs E.TMR_QERR, r < (R.CNTk_VAL_VAL 0).reg by decide) r hr
  refine notMem_otherCountRegs (hbelow.trans (by decide)) fun i _ _ => ?_
  simp only [R.CNTk_VAL_VAL] at hbelow ⊢
  omega

/-- An edge of A and B that both filters accept is a sample of its levels. -/
theorem State.encEdge_of_hears {a b : Bool} {n : Nat} (hd : s.dom dCLK = true) (h0 : hears s 0 n) (h1 : hears s 1 n) :
    ∃ u : State, u.regs = s.regs ∧ s.encEdge a b n = u.encSample a b n := by
  have htake {i : Nat} (hi : hears s i n) (old new : Bool) : (s.at n).encTake i old new n = new := by
    obtain ⟨hfault, hfilt⟩ : (s.at n).encFault i = false ∧ (s.at n).filtOk i ((s.at n).encHold i) n = true := hi
    simp [State.encTake, hfault, hfilt]
  unfold State.encEdge
  simp only [hd, Bool.not_true, Bool.false_eq_true, if_false, htake h0, htake h1]
  refine ⟨_, ?_, rfl⟩
  split <;> split <;> rfl

end

/-- Settles O5: the sample raises QERR, and what is counted behind it changes neither the counter nor the event's registers. -/
theorem quadratureErrorCountsNothing : Obligations.QuadratureErrorCountsNothing := by
  unfold Obligations.QuadratureErrorCountsNothing
  intro s a b n k hd h0 h1 ha hb hk hlow h2 h4
  obtain ⟨u, hu, hedge⟩ := State.encEdge_of_hears (a := a) (b := b) hd h0 h1
  have hs : s.regsSame u [] := .of_regs hu
  have hua : u.encA ≠ a := by rwa [State.encA, State.get_of_regsSame hs (by simp)]
  have hub : u.encB ≠ b := by rwa [State.encB, State.get_of_regsSame hs (by simp)]
  have hq : u.inQuad k := State.inQuad_of_regsSame hs (by simp) (by simp) ⟨hlow, h2, h4⟩
  refine ⟨s.encEdge a b n, rfl, ?_⟩
  rw [hedge]
  exact ⟨(State.cnt_encSample_both a b n hua hub hk hq).trans (State.get_of_regsSame hs (by simp)),
    told_frame (State.told_encSample_both a b n hua hub hk hq) hs .refl (fun _ _ => List.not_mem_nil)
      (fun _ _ => List.not_mem_nil)⟩

/-! ## Z edges (R82) -/

/-- The registers of the counters' values. -/
def cntRegs : List Nat := (List.range 6).map fun k => (R.CNTk_VAL_VAL k).reg

/-- What a capture of channel j may change: its captured value and, where the one before was not read, its report. -/
def captureRegs (j : Nat) : List Nat := capRegs j ++ (R.CCj_STAT_OVR j).reg :: toldRegs (E.TMR_CC j)

/-- What captures of the host's channels may change. -/
def allCaptureRegs : List Nat := (List.range 12).flatMap captureRegs

section
variable {s t : State} {L : List Nat} {k : Nat}

theorem State.capture_regsSame {j : Nat} (hL : captureRegs j ⊆ L) : s.regsSame (s.capture j) L := by
  obtain ⟨hcap, hstat⟩ := List.append_subset.1 hL
  obtain ⟨hovr, htold⟩ := List.cons_subset.1 hstat
  have h : s.regsSame (s.setCap j (s.chanCount j)) L := State.setCap_regsSame _ hcap
  unfold State.capture
  dsimp only
  split
  · refine .trans (.trans (.trans (h.trans (.of_regs (by rfl))) (State.regsSame_put 1 hovr)) ?_) (State.regsSame_raise htold)
    exact State.regsSame_put _ hovr
  · exact h.trans (.of_regs rfl)

theorem State.captureAll_regsSame (src : Nat) (kind : Option Nat) : s.regsSame (s.captureAll src kind) allCaptureRegs :=
  State.regsSame_foldl _ fun _ j hj _ =>
    State.regsSame_ite (State.capture_regsSame fun _ ha => List.mem_flatMap.2 ⟨j, hj, ha⟩) .refl

theorem cnt_mem_cntRegs (hk : k < 6) : (R.CNTk_VAL_VAL k).reg ∈ cntRegs := List.mem_map.2 ⟨k, List.mem_range.2 hk, rfl⟩

theorem State.clearCnt_regsSame (n : Nat) (hk : k < 6) : s.regsSame (s.clearCnt k n) cntRegs := by
  have h : s.regsSame ({ s with tmr := { s.tmr with clrAt := mapIns s.tmr.clrAt k n } }.put (R.CNTk_VAL_VAL k) 0) cntRegs :=
    .trans (.of_regs (by rfl)) (State.regsSame_put 0 (cnt_mem_cntRegs hk))
  unfold State.clearCnt
  dsimp only
  split
  · next hlow =>
    rw [Bool.and_eq_true, decide_eq_true_eq] at hlow
    exact h.trans (State.regsSame_put 0 (cnt_mem_cntRegs (State.linkedHigh_succ hlow.1 hlow.2).1))
  · exact h

theorem State.clearAll_regsSame (sel : State → Nat → Bool) (n : Nat) : s.regsSame (s.clearAll sel n) cntRegs :=
  State.regsSame_foldl _ fun _ _ hj _ => State.regsSame_ite (State.clearCnt_regsSame n (List.mem_range.1 hj)) .refl

/-- A counter that was 0 stays so where some counter is written with 0, and the one written is 0. -/
theorem State.cnt_put_zero (s : State) (i k : Nat) (h : i = k ∨ s.cnt k = 0) : (s.put (R.CNTk_VAL_VAL i) 0).cnt k = 0 := by
  by_cases hik : i = k
  · subst hik
    exact s.get_put_same 0 (by simp [R.CNTk_VAL_VAL])
  · rw [State.cnt, s.get_put_other 0 (.inl (by simp only [R.CNTk_VAL_VAL]; omega))]
    exact h.resolve_left hik

theorem State.cnt_clearCnt (s : State) (i k n : Nat) (h : i = k ∨ s.cnt k = 0) : (s.clearCnt i n).cnt k = 0 := by
  have h1 := State.cnt_put_zero { s with tmr := { s.tmr with clrAt := mapIns s.tmr.clrAt i n } } i k h
  unfold State.clearCnt
  dsimp only
  split
  · exact State.cnt_put_zero _ _ _ (.inr h1)
  · exact h1

/-- A counter that a test selects, whatever other counters are reset before it, is reset to 0. -/
theorem State.cnt_clearAll (sel : State → Nat → Bool) (n : Nat) (hk : k < 6) (hlow : s.linkedHigh k = false)
    (hsel : ∀ u, s.regsSame u cntRegs → sel u k = true) : (s.clearAll sel n).cnt k = 0 := by
  have hzero (i : Nat) (u : State) (h : u.cnt k = 0) :
      (if !u.linkedHigh i && sel u i then u.clearCnt i n else u).cnt k = 0 := by
    split
    · exact State.cnt_clearCnt u i k n (.inr h)
    · exact h
  have hreset (u : State) (hu : s.regsSame u cntRegs) :
      (if !u.linkedHigh k && sel u k then u.clearCnt k n else u).cnt k = 0 := by
    have hpos : (!u.linkedHigh k && sel u k) = true := by
      rw [State.linkedHigh_of_regsSame hu (by decide), hlow, hsel u hu]
      rfl
    rw [if_pos hpos]
    exact State.cnt_clearCnt u k k n (.inl rfl)
  obtain ⟨before, after, hsplit⟩ := List.append_of_mem (List.mem_range.2 hk)
  unfold State.clearAll
  rw [hsplit, List.foldl_append, List.foldl_cons]
  refine List.foldlRecOn (motive := fun u : State => u.cnt k = 0) after _ (hreset _ ?_) fun u hu i _ => hzero i u hu
  refine State.regsSame_foldl _ fun u i hi _ => ?_
  have hi6 : i < 6 := List.mem_range.1 (hsplit ▸ List.mem_append_left _ hi)
  exact State.regsSame_ite (State.clearCnt_regsSame n hi6) .refl

end

/-! ### The accepted levels -/

/-- ENC_STAT.LEVEL with the accepted Z at a level, A and B as they were. -/
def State.putZ (s : State) (level : Bool) : State :=
  s.put R.ENC_STAT_LEVEL (boolNat s.encA + 2 * boolNat s.encB + 4 * boolNat level)

section
variable (s : State) (level : Bool)

theorem State.get_putZ : (s.putZ level).get R.ENC_STAT_LEVEL = boolNat s.encA + 2 * boolNat s.encB + 4 * boolNat level := by
  have h (x : Bool) : boolNat x ≤ 1 := by cases x <;> decide
  have ha := h s.encA
  have hb := h s.encB
  have hz := h level
  rw [State.putZ, s.get_put_same _ (by decide)]
  exact Nat.mod_eq_of_lt (by simp only [R.ENC_STAT_LEVEL]; omega)

theorem bit_levels : ∀ a b z : Bool, bit (boolNat a + 2 * boolNat b + 4 * boolNat z) 0 = a ∧
    bit (boolNat a + 2 * boolNat b + 4 * boolNat z) 1 = b ∧ bit (boolNat a + 2 * boolNat b + 4 * boolNat z) 2 = z := by
  decide

@[simp] theorem State.encA_putZ : (s.putZ level).encA = s.encA := by
  rw [State.encA, s.get_putZ]; exact (bit_levels _ _ _).1

@[simp] theorem State.encB_putZ : (s.putZ level).encB = s.encB := by
  rw [State.encB, s.get_putZ]; exact (bit_levels _ _ _).2.1

@[simp] theorem State.encZ_putZ : (s.putZ level).encZ = level := by
  rw [State.encZ, s.get_putZ]; exact (bit_levels _ _ _).2.2

theorem State.putZ_regsSame : s.regsSame (s.putZ level) [R.ENC_STAT_LEVEL.reg] := State.regsSame_put _ (by simp)

/-- A Z edge: the accepted Z rises to a level, where ZGATE asks for it with A and B high (R82). -/
def State.isZEdge : Bool := level && !s.encZ && (!s.on R.ENC_CFG_ZGATE || (s.encA && s.encB))

/-- An accepted level of Z: at a Z edge the captures and the resets follow, else only the level is taken. -/
theorem State.zSample_eq (n : Nat) : s.zSample level n = if s.isZEdge level then
    ((s.putZ level).captureAll 4 none).clearAll (fun s k => s.get (R.CNTk_CTRL_CLR_SRC k) = 1) n else s.putZ level := by
  have hgate : (s.putZ level).on R.ENC_CFG_ZGATE = s.on R.ENC_CFG_ZGATE := by
    unfold State.on
    rw [State.get_of_regsSame (s.putZ_regsSame level) (by decide)]
  have he : s.isZEdge level = (level && !s.encZ && (!(s.putZ level).on R.ENC_CFG_ZGATE || ((s.putZ level).encA && (s.putZ level).encB))) := by
    rw [hgate, s.encA_putZ, s.encB_putZ, State.isZEdge]
  rw [he]
  rfl

end

section
variable {s : State} {level : Bool} {k : Nat}

theorem State.encZ_zSample (n : Nat) : (s.zSample level n).encZ = level := by
  rw [s.zSample_eq level n]
  split
  · refine Eq.trans ?_ (s.encZ_putZ level)
    unfold State.encZ
    rw [State.get_of_regsSame (State.clearAll_regsSame _ n) (by decide), State.get_of_regsSame (State.captureAll_regsSame 4 none) (by decide)]
  · exact s.encZ_putZ level

/-- What a Z edge changes before its resets. -/
def zCaptureRegs : List Nat := R.ENC_STAT_LEVEL.reg :: allCaptureRegs

theorem State.captures_regsSame (s : State) (level : Bool) : s.regsSame ((s.putZ level).captureAll 4 none) zCaptureRegs :=
  ((s.putZ_regsSame level).mono (by simp [zCaptureRegs])).trans
    ((State.captureAll_regsSame 4 none).mono (List.subset_cons_self _ _))

theorem clrSrc_notMem_zCaptureRegs (k : Nat) (hk : k < 6) : (R.CNTk_CTRL_CLR_SRC k).reg ∉ zCaptureRegs := by
  have hapart : ∀ r ∈ zCaptureRegs, r < (R.CNTk_CTRL_CLR_SRC 0).reg ∨ (R.CCj_CTRL_EN 0).reg ≤ r := by decide
  intro h
  have := hapart _ h
  simp only [R.CNTk_CTRL_CLR_SRC, R.CCj_CTRL_EN] at this
  omega

theorem clrSrc_notMem_cntRegs (k : Nat) : (R.CNTk_CTRL_CLR_SRC k).reg ∉ cntRegs := by
  simp only [cntRegs, List.mem_map, R.CNTk_VAL_VAL, R.CNTk_CTRL_CLR_SRC, not_exists, not_and]
  omega

/-- At a Z edge a counter whose CLR_SRC selects it is reset: neither the captures nor the resets of other counters change the selection. -/
theorem State.cnt_zSample_of_edge (n : Nat) (he : s.isZEdge level = true) (hk : k < 6) (hlow : s.linkedHigh k = false)
    (hclr : s.get (R.CNTk_CTRL_CLR_SRC k) = 1) : (s.zSample level n).cnt k = 0 := by
  have hcap := s.captures_regsSame level
  rw [s.zSample_eq level n, if_pos he]
  refine State.cnt_clearAll _ n hk (by rw [State.linkedHigh_of_regsSame hcap (by decide), hlow]) fun u hu => ?_
  rw [decide_eq_true_eq, State.get_of_regsSame hu (clrSrc_notMem_cntRegs k),
    State.get_of_regsSame hcap (clrSrc_notMem_zCaptureRegs k hk), hclr]

theorem State.cnt_zSample_of_no_edge (n : Nat) (he : s.isZEdge level = false) : (s.zSample level n).cnt k = s.cnt k := by
  rw [s.zSample_eq level n, he, if_neg Bool.false_ne_true]
  exact State.get_of_regsSame (s.putZ_regsSame level) (by simp [R.CNTk_VAL_VAL, R.ENC_STAT_LEVEL]; omega)

/-- A change of Z that its filter accepts is a sample of its level. -/
theorem State.zEdge_of_hears (n : Nat) (hd : s.dom dCLK = true) (hz : hears s 2 n) (hne : level ≠ s.encZ) :
    s.zEdge level n = ((s.at n).filtSet 2 n).zSample level n := by
  obtain ⟨hfault, hfilt⟩ := hz
  simp [State.zEdge, hd, hfault, hfilt, hne]

theorem State.zEdge_same (n : Nat) (heq : level = s.encZ) : s.zEdge level n = s := by
  simp [State.zEdge, heq]

end

/-- Settles O6: an accepted level is one sample of Z, and a sample resets the counters that select Z exactly where it is a Z edge. -/
theorem zEdgeIsTheGatedRise : Obligations.ZEdgeIsTheGatedRise := by
  unfold Obligations.ZEdgeIsTheGatedRise
  intro s level n hd hz edge
  refine ⟨s.zEdge level n, rfl, ?_⟩
  by_cases heq : level = s.encZ
  · have hno : edge = false := by simp [edge, ← heq]
    rw [State.zEdge_same n heq]
    exact ⟨heq.symm, fun he => absurd he (by simp [hno]), fun _ _ _ => rfl⟩
  · rw [State.zEdge_of_hears n hd hz heq]
    refine ⟨State.encZ_zSample n, fun he k hk hlow hclr => ?_, fun he k _ => ?_⟩
    · exact State.cnt_zSample_of_edge n he hk hlow hclr
    · exact State.cnt_zSample_of_no_edge n he

end Sys2Proof.Machine
end

/-! PROOFS. The roll-up (R402, R416): what a canonical register table lists, the bits that its INT_RAW words set, and a read of SYS_ROLL. -/
section
namespace Sys2Proof.Machine

/-! ## What a canonical table lists -/

section
variable {α : Type} [DecidableEq α] {dflt : Nat → α} {m : SMap α}

theorem mapWfFrom_lt_key {l : Nat} (h : mapWfFrom dflt (some l) m = true) {p : Nat × α} (hp : p ∈ m) : l < p.1 := by
  induction m generalizing l with
  | nil => cases hp
  | cons q m ih =>
    simp only [mapWfFrom, Bool.and_eq_true, decide_eq_true_eq] at h
    obtain ⟨⟨hlt, -⟩, htail⟩ := h
    obtain rfl | hp := List.mem_cons.1 hp
    · exact hlt
    · exact hlt.trans (ih htail hp)

/-- Keys rise strictly, so each pair of a canonical table is the one found under its key. -/
theorem mapWfFrom_mem_iff {lo : Option Nat} (h : mapWfFrom dflt lo m = true) (i : Nat) (v : α) :
    (i, v) ∈ m ↔ mapFind m i = some v := by
  induction m generalizing lo with
  | nil => simp [mapFind]
  | cons q m ih =>
    obtain ⟨k, w⟩ := q
    simp only [mapWfFrom, Bool.and_eq_true] at h
    obtain ⟨-, htail⟩ := h
    rw [List.mem_cons, Prod.mk.injEq, mapFind]
    by_cases hk : k = i
    · subst hk
      have hnot : (k, v) ∉ m := fun hm => absurd (mapWfFrom_lt_key htail hm) (Nat.lt_irrefl _)
      simp [hnot, eq_comm]
    · simp [hk, Ne.symm hk, ih htail]

end

/-! ## The bits of a word -/

theorem bit_eq_testBit (v i : Nat) : bit v i = v.testBit i := by
  rw [bit, Nat.testBit_eq_decide_div_mod_eq]

/-- The word with the bits at the listed places set. -/
def orBits (ks : List Nat) : Nat := ks.foldl (fun v k => v ||| 2 ^ k) 0

theorem bit_orBits (ks : List Nat) (k : Nat) : bit (orBits ks) k = true ↔ k ∈ ks := by
  have hfold (v : Nat) : (ks.foldl (fun v k => v ||| 2 ^ k) v).testBit k = true ↔ v.testBit k = true ∨ k ∈ ks := by
    induction ks generalizing v with
    | nil => simp
    | cons j ks ih =>
      rw [List.foldl_cons, ih, Nat.testBit_or, Nat.testBit_two_pow, List.mem_cons, Bool.or_eq_true, decide_eq_true_eq,
        or_assoc, eq_comm (a := j)]
  rw [bit_eq_testBit, orBits, hfold, Nat.zero_testBit]
  simp

/-! ## SYS_ROLL -/

/-- INT_RAW is 0 after reset. -/
theorem regReset_intRaw (page : Nat) : regReset (intRaw page).reg = 0 := by
  have hoff : (page * 4096 + 0x010) % 4096 = 0x010 := by omega
  simp only [regReset, intRaw, hoff]
  split <;> rfl

/-- The pages that set a bit of the roll-up: the bit's own page, and for ENGG's the Shingles' pages. -/
theorem rollBitOf_eq_some (page k : Nat) :
    rollBitOf page = some k ↔ (k < 25 ∧ page = 0x014 + k) ∨ (k = 5 ∧ ∃ sh, sh < 192 ∧ page = 0x200 + sh) := by
  have hshingle : (∃ sh, sh < 192 ∧ page = 0x200 + sh) ↔ 0x200 ≤ page ∧ page < 0x2C0 :=
    ⟨by omega, fun h => ⟨page - 0x200, by omega⟩⟩
  rw [hshingle]
  unfold rollBitOf
  split
  · simp only [Option.some.injEq]; omega
  · split
    · simp only [Option.some.injEq]; omega
    · simp only [reduceCtorEq, false_iff]; omega

section
variable (s : State)

/-- The roll-up bit that a listed register sets: that of an INT_RAW word with an unmasked bit, on a page whose header is served. -/
def State.entryRoll (p : Nat × Word) : Option Nat :=
  if p.1 % 4096 = 0x010 ∧ (p.2.toNat &&& s.get (intMask (p.1 / 4096))) ≠ 0 ∧ s.hdrOn (p.1 / 4096) = true then
    rollBitOf (p.1 / 4096)
  else none

theorem State.sysRoll_eq_orBits : s.sysRoll = orBits (s.regs.filterMap s.entryRoll) := by
  rw [orBits, List.foldl_filterMap, State.sysRoll]
  congr 1
  funext v p
  obtain ⟨a, w⟩ := p
  unfold State.entryRoll
  dsimp only
  by_cases hoff : a % 4096 = 0x010
  · rw [if_pos hoff]
    by_cases hset : (w.toNat &&& s.get (intMask (a / 4096))) ≠ 0 ∧ s.hdrOn (a / 4096) = true
    · rw [if_pos ⟨hoff, hset⟩]
      cases rollBitOf (a / 4096) with
      | none => rfl
      | some k => exact if_pos hset
    · rw [if_neg fun h => hset h.2]
      cases rollBitOf (a / 4096) with
      | none => rfl
      | some k => exact if_neg hset
  · rw [if_neg hoff, if_neg fun h => hoff h.1]

theorem State.get_intRaw (page : Nat) : s.get (intRaw page) = (s.reg (intRaw page).reg).toNat := by
  have h32 : (s.reg (intRaw page).reg).toNat / 2 ^ 0 < 2 ^ 32 := by
    rw [Nat.pow_zero, Nat.div_one]
    exact (s.reg _).isLt
  exact (Nat.mod_eq_of_lt h32).trans (Nat.div_one _)

/-- An unlisted INT_RAW holds its reset value 0, so an INT_STAT other than 0 comes from a listed word. -/
theorem State.intStat_ne_zero_iff (page : Nat) : s.intStat page ≠ 0 ↔
    ∃ v, mapFind s.regs (intRaw page).reg = some v ∧ (v.toNat &&& s.get (intMask page)) ≠ 0 := by
  rw [State.intStat, State.get_intRaw, State.reg, mapGet]
  cases mapFind s.regs (intRaw page).reg with
  | none => simp [regReset_intRaw]
  | some v => simp

variable {s}

/-- A listed register sets a bit of the roll-up where it is the INT_RAW of one of the bit's pages. -/
theorem State.entryRoll_eq_some (a : Nat) (v : Word) (k : Nat) : s.entryRoll (a, v) = some k ↔
    ∃ page, a = (intRaw page).reg ∧ rollBitOf page = some k ∧ s.hdrOn page = true ∧
      (v.toNat &&& s.get (intMask page)) ≠ 0 := by
  simp only [State.entryRoll, Option.ite_none_right_eq_some, intRaw]
  constructor
  · rintro ⟨⟨hoff, hset, hon⟩, hroll⟩
    exact ⟨a / 4096, by omega, hroll, hon, hset⟩
  · rintro ⟨page, rfl, hroll, hon, hset⟩
    have hpage : (page * 4096 + 0x010) / 4096 = page := by omega
    rw [hpage]
    exact ⟨⟨by omega, hset, hon⟩, hroll⟩

/-- A bit of SYS_ROLL is 1 where one of its pages has a served header and an INT_STAT other than 0. -/
theorem State.bit_sysRoll (hs : mapWf regReset s.regs = true) (k : Nat) : bit s.sysRoll k = true ↔
    ∃ page, rollBitOf page = some k ∧ s.hdrOn page = true ∧ s.intStat page ≠ 0 := by
  rw [State.sysRoll_eq_orBits, bit_orBits, List.mem_filterMap]
  simp only [Prod.exists, State.entryRoll_eq_some, State.intStat_ne_zero_iff, mapWfFrom_mem_iff hs]
  constructor
  · rintro ⟨_, v, hfind, page, rfl, hroll, hon, hset⟩
    exact ⟨page, hroll, hon, v, hfind, hset⟩
  · rintro ⟨page, hroll, hon, v, hfind, hset⟩
    exact ⟨_, v, hfind, page, rfl, hroll, hon, hset⟩

theorem State.bit_sysRoll_of_lt (hs : mapWf regReset s.regs = true) {k : Nat} (hk : k < 25) : bit s.sysRoll k = true ↔
    (s.hdrOn (0x014 + k) = true ∧ s.intStat (0x014 + k) ≠ 0) ∨
      (k = 5 ∧ ∃ sh, sh < 192 ∧ s.hdrOn (0x200 + sh) = true ∧ s.intStat (0x200 + sh) ≠ 0) := by
  rw [State.bit_sysRoll hs]
  simp only [rollBitOf_eq_some]
  constructor
  · rintro ⟨page, ⟨-, rfl⟩ | ⟨rfl, sh, hsh, rfl⟩, hset⟩
    · exact .inl hset
    · exact .inr ⟨rfl, sh, hsh, hset⟩
  · rintro (hset | ⟨rfl, sh, hsh, hset⟩)
    · exact ⟨_, .inl ⟨hk, rfl⟩, hset⟩
    · exact ⟨_, .inr ⟨rfl, sh, hsh, rfl⟩, hset⟩

/-! ## A read of SYS_ROLL -/

theorem State.regPlain_sysRoll : s.regPlain R.SYS_ROLL_PAGE.reg = s.sysRoll := by
  have hrow : (regRow R.SYS_ROLL_PAGE.reg).isNone = false := by decide
  have hshown : s.regShown R.SYS_ROLL_PAGE.reg = some s.sysRoll := by
    simp [State.regShown, R.SYS_ROLL_PAGE, R.ROW_FU_HZ, R.DEV_STAT_TURN, R.NVS_FREE_EXTENT, R.JOB_STAT_STAGED]
  rw [State.regPlain, hrow, hshown]
  rfl

/-- SYS_ROLL is no word of a pair, so a read has no effect beyond its value. -/
theorem State.regRead_sysRoll (hs : s.servedAt R.SYS_ROLL_PAGE.reg = true) :
    s.regRead R.SYS_ROLL_PAGE.reg = (s.sysRoll, s) := by
  have hlow : s.lowRead R.SYS_ROLL_PAGE.reg = s := by
    simp [State.lowRead, State.linkedLow, pairLow, R.SYS_ROLL_PAGE, R.MEM_ERR_ADDR_LO_ADDR]
  have hrest : s.restRead R.SYS_ROLL_PAGE.reg = (s.regPlain R.SYS_ROLL_PAGE.reg, s.lowRead R.SYS_ROLL_PAGE.reg) := by
    simp [State.restRead, State.linkedHighWord, pairLow, R.SYS_ROLL_PAGE]
  have hread : s.regRead R.SYS_ROLL_PAGE.reg = s.restRead R.SYS_ROLL_PAGE.reg := by
    rw [State.regRead, hs, if_neg (by decide), if_neg (by decide)]
  rw [hread, hrest, hlow, State.regPlain_sysRoll]

theorem exec_shadowLowRead_sysRoll (hs : s.servedAt R.SYS_ROLL_PAGE.reg = true) :
    exec (.shadowLowRead R.SYS_ROLL_PAGE.reg) s = .next { s with rdata := [s.sysRoll] } := by
  change Host.Outcome.next (s.readOut R.SYS_ROLL_PAGE.reg) = _
  rw [State.readOut, State.regRead_sysRoll hs]

end

/-- Settles O57: a read takes the roll-up, whose bits come from the words that a canonical register table lists. -/
theorem rollupShowsEveryPage : Obligations.RollupShowsEveryPage := by
  unfold Obligations.RollupShowsEveryPage
  intro s hcanon hserved
  obtain ⟨-, hregs, -, -⟩ := hcanon
  exact ⟨_, exec_shadowLowRead_sysRoll hserved, s.sysRoll, rfl, ⟨.of_regs rfl, rfl, fun _ => rfl, rfl, rfl⟩,
    fun _ hk => State.bit_sysRoll_of_lt hregs hk⟩

end Sys2Proof.Machine
end

/-! PROOFS. Every step (log 1): the step takes the front command, each command goes on and keeps the queue, time and the canonical
tables, and the state after reset. -/
section
namespace Sys2Proof.Machine

/-- Every command goes on and leaves the queue, time, the count of free values and the canonical tables as `Keeps` says. -/
theorem exec_goes (c : Instr) (s : State) : goesOn (exec c s) (Keeps s) :=
  match c with
  | .encEdge _ _ _ => execEncEdge_goes _ _ _ _
  | .zEdge _ _ => execZEdge_goes _ _ _
  | .encFault _ _ => execEncFault_goes _ _ _
  | .encFaultClear _ _ _ => execEncFaultClear_goes _ _ _ _
  | .trigEdge _ _ _ => execTrigEdge_goes _ _ _ _
  | .predictedTick => execPredictedTick_goes _
  | .timerTick => execTimerTick_goes _
  | .trigRunTick => execTrigRunTick_goes _
  | .trigAreaTick => execTrigAreaTick_goes _
  | .tickEdge => execTickEdge_goes _
  | .hopTimeout => execHopTimeout_goes _
  | .flywheelBoundary => execFlywheelBoundary_goes _
  | .markMiss => execMarkMiss_goes _
  | .commitApply => execCommitApply_goes _
  | .tickStopped => execTickStopped_goes _
  | .flushStep => execFlushStep_goes _
  | .cntLoad _ _ => execCntLoad_goes _ _ _
  | .timerCount _ _ => execTimerCount_goes _ _ _
  | .ccArm _ _ => execCcArm_goes _ _ _
  | .ccFire _ => execCcFire_goes _ _
  | .swcap _ => execSwcap_goes _ _
  | .cntClr _ => execCntClr_goes _ _
  | .shadowLowRead _ => execShadowLowRead_goes _ _
  | .shadowHighRead _ => execShadowHighRead_goes _ _
  | .snapshot => execSnapshot_goes _
  | .tickMonClr => execTickMonClr_goes _
  | .tickSrcWrite _ => execTickSrcWrite_goes _ _
  | .slotStart _ => execSlotStart_goes _ _
  | .strobeOn _ => execStrobeOn_goes _ _
  | .strobeOff _ => execStrobeOff_goes _ _
  | .slotEnd _ => execSlotEnd_goes _ _
  | .heldTransferRelease _ => execHeldTransferRelease_goes _ _
  | .transferDone _ => execTransferDone_goes _ _
  | .expBankCheck _ => execExpBankCheck_goes _ _
  | .expModeWrite _ => execExpModeWrite_goes _ _
  | .rowSample _ => execRowSample_goes _ _
  | .rowConversionDone _ _ _ _ => execRowConversionDone_goes _ _ _ _ _
  | .intakePush _ => execIntakePush_goes _ _
  | .webDirWrite _ => execWebDirWrite_goes _ _
  | .pllStart _ _ => execPllStart_goes _ _ _
  | .pllLock _ => execPllLock_goes _ _
  | .lockLost _ => execLockLost_goes _ _
  | .reload => execReload_goes _
  | .proofLineFetch _ _ => execProofLineFetch_goes _ _ _
  | .initEntry _ _ => execInitEntry_goes _ _ _
  | .kernelEntry _ _ => execKernelEntry_goes _ _ _
  | .watchdogAbort _ => execWatchdogAbort_goes _ _
  | .engineRestart _ => execEngineRestart_goes _ _
  | .engineHalt _ _ => execEngineHalt_goes _ _ _
  | .shMonClr _ => execShMonClr_goes _ _
  | .coursePwrWrite _ => execCoursePwrWrite_goes _ _
  | .courseOn _ => execCourseOn_goes _ _
  | .snop _ _ _ _ _ => execSnop_goes _ _ _ _ _ _
  | .add _ _ _ _ _ _ => execAdd_goes _ _ _ _ _ _ _
  | .sub _ _ _ _ _ _ => execSub_goes _ _ _ _ _ _ _
  | .and _ _ _ _ _ _ => execAnd_goes _ _ _ _ _ _ _
  | .or _ _ _ _ _ _ => execOr_goes _ _ _ _ _ _ _
  | .xor _ _ _ _ _ _ => execXor_goes _ _ _ _ _ _ _
  | .shl _ _ _ _ _ _ => execShl_goes _ _ _ _ _ _ _
  | .shr _ _ _ _ _ _ => execShr_goes _ _ _ _ _ _ _
  | .sra _ _ _ _ _ _ => execSra_goes _ _ _ _ _ _ _
  | .mul _ _ _ _ _ _ => execMul_goes _ _ _ _ _ _ _
  | .min _ _ _ _ _ _ => execMin_goes _ _ _ _ _ _ _
  | .max _ _ _ _ _ _ => execMax_goes _ _ _ _ _ _ _
  | .addi _ _ _ _ _ => execAddi_goes _ _ _ _ _ _
  | .andi _ _ _ _ _ => execAndi_goes _ _ _ _ _ _
  | .ori _ _ _ _ _ => execOri_goes _ _ _ _ _ _
  | .shli _ _ _ _ _ => execShli_goes _ _ _ _ _ _
  | .shri _ _ _ _ _ => execShri_goes _ _ _ _ _ _
  | .srai _ _ _ _ _ => execSrai_goes _ _ _ _ _ _
  | .lui _ _ _ _ _ => execLui_goes _ _ _ _ _ _
  | .ldw _ _ _ _ _ => execLdw_goes _ _ _ _ _ _
  | .ldhu _ _ _ _ _ => execLdhu_goes _ _ _ _ _ _
  | .ldbu _ _ _ _ _ => execLdbu_goes _ _ _ _ _ _
  | .stw _ _ _ _ _ => execStw_goes _ _ _ _ _ _
  | .sth _ _ _ _ _ => execSth_goes _ _ _ _ _ _
  | .stb _ _ _ _ _ => execStb_goes _ _ _ _ _ _
  | .llw _ _ _ _ _ => execLlw_goes _ _ _ _ _ _
  | .lsw _ _ _ _ _ => execLsw_goes _ _ _ _ _ _
  | .beq _ _ _ _ _ _ => execBeq_goes _ _ _ _ _ _ _
  | .bne _ _ _ _ _ _ => execBne_goes _ _ _ _ _ _ _
  | .blt _ _ _ _ _ _ => execBlt_goes _ _ _ _ _ _ _
  | .bge _ _ _ _ _ _ => execBge_goes _ _ _ _ _ _ _
  | .jal _ _ _ _ _ _ => execJal_goes _ _ _ _ _ _ _
  | .jr _ _ _ _ _ => execJr_goes _ _ _ _ _ _
  | .gets _ _ _ _ _ => execGets_goes _ _ _ _ _ _
  | .emit _ _ _ _ _ => execEmit_goes _ _ _ _ _ _
  | .endRun _ _ _ _ _ => execEndRun_goes _ _ _ _ _ _
  | .vnop _ _ _ _ _ _ _ _ _ => execVnop_goes _ _ _ _ _ _ _ _ _ _
  | .vadd _ _ _ _ _ _ _ _ _ => execVadd_goes _ _ _ _ _ _ _ _ _ _
  | .vsub _ _ _ _ _ _ _ _ _ => execVsub_goes _ _ _ _ _ _ _ _ _ _
  | .vadds _ _ _ _ _ _ _ _ _ => execVadds_goes _ _ _ _ _ _ _ _ _ _
  | .vsubs _ _ _ _ _ _ _ _ _ => execVsubs_goes _ _ _ _ _ _ _ _ _ _
  | .vsubus _ _ _ _ _ _ _ _ _ => execVsubus_goes _ _ _ _ _ _ _ _ _ _
  | .vabsd _ _ _ _ _ _ _ _ _ => execVabsd_goes _ _ _ _ _ _ _ _ _ _
  | .vmin _ _ _ _ _ _ _ _ _ => execVmin_goes _ _ _ _ _ _ _ _ _ _
  | .vmax _ _ _ _ _ _ _ _ _ => execVmax_goes _ _ _ _ _ _ _ _ _ _
  | .vand _ _ _ _ _ _ _ _ _ => execVand_goes _ _ _ _ _ _ _ _ _ _
  | .vor _ _ _ _ _ _ _ _ _ => execVor_goes _ _ _ _ _ _ _ _ _ _
  | .vshl _ _ _ _ _ _ _ _ _ => execVshl_goes _ _ _ _ _ _ _ _ _ _
  | .vshr _ _ _ _ _ _ _ _ _ => execVshr_goes _ _ _ _ _ _ _ _ _ _
  | .vsra _ _ _ _ _ _ _ _ _ => execVsra_goes _ _ _ _ _ _ _ _ _ _
  | .vmulq _ _ _ _ _ _ _ _ _ => execVmulq_goes _ _ _ _ _ _ _ _ _ _
  | .vsel _ _ _ _ _ _ _ _ _ => execVsel_goes _ _ _ _ _ _ _ _ _ _
  | .viota _ _ _ _ _ _ _ _ _ => execViota_goes _ _ _ _ _ _ _ _ _ _
  | .vlsh _ _ _ _ _ _ _ _ _ => execVlsh_goes _ _ _ _ _ _ _ _ _ _
  | .vlerp _ _ _ _ _ _ _ _ _ => execVlerp_goes _ _ _ _ _ _ _ _ _ _
  | .vcmpeq _ _ _ _ _ _ _ _ _ => execVcmpeq_goes _ _ _ _ _ _ _ _ _ _
  | .vcmplt _ _ _ _ _ _ _ _ _ => execVcmplt_goes _ _ _ _ _ _ _ _ _ _
  | .vcmpgt _ _ _ _ _ _ _ _ _ => execVcmpgt_goes _ _ _ _ _ _ _ _ _ _
  | .pand _ _ _ _ _ _ _ _ _ => execPand_goes _ _ _ _ _ _ _ _ _ _
  | .por _ _ _ _ _ _ _ _ _ => execPor_goes _ _ _ _ _ _ _ _ _ _
  | .pandn _ _ _ _ _ _ _ _ _ => execPandn_goes _ _ _ _ _ _ _ _ _ _
  | .pcnt _ _ _ _ _ _ _ _ _ => execPcnt_goes _ _ _ _ _ _ _ _ _ _
  | .pfirst _ _ _ _ _ _ _ _ _ => execPfirst_goes _ _ _ _ _ _ _ _ _ _
  | .vmac _ _ _ _ _ _ _ _ _ => execVmac_goes _ _ _ _ _ _ _ _ _ _
  | .vacc _ _ _ _ _ _ _ _ _ => execVacc_goes _ _ _ _ _ _ _ _ _ _
  | .vaclr _ _ _ _ _ _ _ _ _ => execVaclr_goes _ _ _ _ _ _ _ _ _ _
  | .vacx _ _ _ _ _ _ _ _ _ => execVacx_goes _ _ _ _ _ _ _ _ _ _
  | .vrsum _ _ _ _ _ _ _ _ _ => execVrsum_goes _ _ _ _ _ _ _ _ _ _
  | .vrmax _ _ _ _ _ _ _ _ _ => execVrmax_goes _ _ _ _ _ _ _ _ _ _
  | .vext _ _ _ _ _ _ _ _ _ => execVext_goes _ _ _ _ _ _ _ _ _ _
  | .vld _ _ _ _ _ _ _ _ _ => execVld_goes _ _ _ _ _ _ _ _ _ _
  | .vst _ _ _ _ _ _ _ _ _ => execVst_goes _ _ _ _ _ _ _ _ _ _
  | .vldb _ _ _ _ _ _ _ _ _ => execVldb_goes _ _ _ _ _ _ _ _ _ _
  | .vldl _ _ _ _ _ _ _ _ _ => execVldl_goes _ _ _ _ _ _ _ _ _ _
  | .vstl _ _ _ _ _ _ _ _ _ => execVstl_goes _ _ _ _ _ _ _ _ _ _
  | .vin _ _ _ _ _ _ _ _ _ => execVin_goes _ _ _ _ _ _ _ _ _ _
  | .vprf _ _ _ _ _ _ _ _ _ => execVprf_goes _ _ _ _ _ _ _ _ _ _
  | .vdev _ _ _ _ _ _ _ _ _ => execVdev_goes _ _ _ _ _ _ _ _ _ _
  | .sliceMerge _ => execSliceMerge_goes _ _
  | .devSlice => execDevSlice_goes _
  | .devSegment => execDevSegment_goes _
  | .recordWrite => execRecordWrite_goes _
  | .uninspectedRecord => execUninspectedRecord_goes _
  | .pendingRecordWrite => execPendingRecordWrite_goes _
  | .jobStart _ => execJobStart_goes _ _
  | .jobStop _ => execJobStop_goes _ _
  | .jobArm _ => execJobArm_goes _ _
  | .jobCancel _ => execJobCancel_goes _ _
  | .bankWrite _ _ => execBankWrite_goes _ _ _
  | .learnFinish => execLearnFinish_goes _
  | .satFs _ _ _ _ => execSatFs_goes _ _ _ _ _
  | .satLine _ _ _ _ _ => execSatLine_goes _ _ _ _ _ _
  | .satFe _ _ _ _ => execSatFe_goes _ _ _ _ _
  | .satFrameTimeout _ => execSatFrameTimeout_goes _ _
  | .refresh _ _ => execRefresh_goes _ _ _
  | .scrubBurst _ _ => execScrubBurst_goes _ _ _
  | .errAddrRead => execErrAddrRead_goes _
  | .ringRdWrite _ _ => execRingRdWrite_goes _ _ _
  | .ringCfgWrite _ _ _ => execRingCfgWrite_goes _ _ _ _
  | .dmaTailWrite _ _ => execDmaTailWrite_goes _ _ _
  | .dmaDescriptor _ => execDmaDescriptor_goes _ _
  | .dmaDone _ => execDmaDone_goes _ _
  | .dmaResume _ => execDmaResume_goes _ _
  | .dmaDisable _ => execDmaDisable_goes _ _
  | .streamSend _ => execStreamSend_goes _ _
  | .dmaFenceGo => execDmaFenceGo_goes _
  | .dmaFenceDone => execDmaFenceDone_goes _
  | .nvsStore _ _ => execNvsStore_goes _ _ _
  | .nvsDelete _ => execNvsDelete_goes _ _
  | .nvsCompact _ => execNvsCompact_goes _ _
  | .nvsExport _ => execNvsExport_goes _ _
  | .nvsAdopt _ => execNvsAdopt_goes _ _
  | .nvsFlushRelease _ => execNvsFlushRelease_goes _ _
  | .nvsCmdDone => execNvsCmdDone_goes _
  | .compactionStart => execCompactionStart_goes _
  | .compactionDone => execCompactionDone_goes _
  | .lifeCommit _ => execLifeCommit_goes _ _
  | .holdupFlush => execHoldupFlush_goes _
  | .flushDone => execFlushDone_goes _
  | .replayDone _ => execReplayDone_goes _ _
  | .blockLock _ _ => execBlockLock_goes _ _ _
  | .laneLockLost _ _ => execLaneLockLost_goes _ _ _
  | .portRetrain _ => execPortRetrain_goes _ _
  | .trainBlk p k pre post preset apre apost apreset fom done offer =>
    execTrainBlk_goes p k pre post preset apre apost apreset fom done offer s
  | .fomMeasure _ _ _ _ => execFomMeasure_goes _ _ _ _ _
  | .adaptStep _ _ => execAdaptStep_goes _ _ _
  | .linkUp _ => execLinkUp_goes _ _
  | .trainTimeout _ => execTrainTimeout_goes _ _
  | .safelightEnter _ => execSafelightEnter_goes _ _
  | .safelightExit _ => execSafelightExit_goes _ _
  | .wakeFail _ => execWakeFail_goes _ _
  | .laneTestMode _ _ _ => execLaneTestMode_goes _ _ _ _
  | .injBit _ _ => execInjBit_goes _ _ _
  | .injBurst _ _ => execInjBurst_goes _ _ _
  | .chkClr _ _ => execChkClr_goes _ _ _
  | .regReq _ _ _ _ _ _ _ _ _ => execRegReq_goes _ _ _ _ _ _ _ _ _ _
  | .regRsp _ _ _ _ _ _ _ _ _ => execRegRsp_goes _ _ _ _ _ _ _ _ _ _
  | .bulk _ _ => execBulk_goes _ _ _
  | .unclaimedPacket _ _ => execUnclaimedPacket_goes _ _ _
  | .packetSend _ => execPacketSend_goes _ _
  | .creditBlk _ _ _ => execCreditBlk_goes _ _ _ _
  | .creditSend _ _ => execCreditSend_goes _ _ _
  | .eventSend => execEventSend_goes _
  | .timeBlk ct seq t => execTimeBlk_goes ct seq t s
  | .cthiBlk _ => execCthiBlk_goes _ _
  | .timeSend => execTimeSend_goes _
  | .echoBlk _ _ _ _ => execEchoBlk_goes _ _ _ _ _
  | .linkDelayMeasure _ => execLinkDelayMeasure_goes _ _
  | .ctLockTimeout => execCtLockTimeout_goes _
  | .tickToken _ _ _ _ _ _ _ => execTickToken_goes _ _ _ _ _ _ _ _
  | .tokenLoss _ => execTokenLoss_goes _ _
  | .tokenRestore => execTokenRestore_goes _
  | .tnoBlk _ => execTnoBlk_goes _ _
  | .tnoSend => execTnoSend_goes _
  | .chainMonClr => execChainMonClr_goes _
  | .calPassStart => execCalPassStart_goes _
  | .calPositionDone _ _ _ _ _ _ _ _ _ _ => execCalPositionDone_goes _ _ _ _ _ _ _ _ _ _ _
  | .calDark _ _ _ _ _ _ => execCalDark_goes _ _ _ _ _ _ _
  | .calWhite _ _ _ _ _ => execCalWhite_goes _ _ _ _ _ _
  | .calTiming _ _ _ => execCalTiming_goes _ _ _ _
  | .calLoad => execCalLoad_goes _
  | .calApply => execCalApply_goes _
  | .calAbort => execCalAbort_goes _
  | .calRunDone => execCalRunDone_goes _
  | .driftTrack _ => execDriftTrack_goes _ _
  | .bgStarved _ => execBgStarved_goes _ _
  | .thermalSample _ _ => execThermalSample_goes _ _ _
  | .siteSuspect _ => execSiteSuspect_goes _ _
  | .siteUnsuspect _ => execSiteUnsuspect_goes _ _
  | .graceExpire => execGraceExpire_goes _
  | .thermalRelease => execThermalRelease_goes _
  | .thermResume => execThermResume_goes _
  | .thermThrWrite _ _ _ => execThermThrWrite_goes _ _ _ _
  | .inputLoss _ => execInputLoss_goes _ _
  | .inputExcursion _ => execInputExcursion_goes _ _
  | .sourceQualified _ => execSourceQualified_goes _ _
  | .srcChanged _ => execSrcChanged_goes _ _
  | .powerRequest _ => execPowerRequest_goes _ _
  | .powerTransition => execPowerTransition_goes _
  | .supplement _ _ => execSupplement_goes _ _ _
  | .overload _ => execOverload_goes _ _
  | .domainOn _ => execDomainOn_goes _ _
  | .domainRegTimeout _ => execDomainRegTimeout_goes _ _
  | .holdWaitExpire => execHoldWaitExpire_goes _
  | .handback => execHandback_goes _
  | .packCutoff => execPackCutoff_goes _
  | .packCheck _ _ _ _ _ _ _ => execPackCheck_goes _ _ _ _ _ _ _ _
  | .packProbe _ _ => execPackProbe_goes _ _ _
  | .chargeCycle _ _ _ _ _ _ _ => execChargeCycle_goes _ _ _ _ _ _ _ _
  | .prechgTimeout => execPrechgTimeout_goes _
  | .maintainCheck _ => execMaintainCheck_goes _ _
  | .chgTimerExpire => execChgTimerExpire_goes _
  | .faultClr => execFaultClr_goes _
  | .mbWrite _ _ _ => execMbWrite_goes _ _ _ _
  | .mbRead _ _ _ => execMbRead_goes _ _ _ _
  | .mbFraming => execMbFraming_goes _
  | .mbStuck => execMbStuck_goes _
  | .mbWake _ => execMbWake_goes _ _
  | .mbWindowSleep _ => execMbWindowSleep_goes _ _
  | .attnPulse _ => execAttnPulse_goes _ _
  | .lampPwrWrite _ => execLampPwrWrite_goes _ _
  | .lampIdent _ => execLampIdent_goes _ _
  | .sigVerify => execSigVerify_goes _
  | .lhRead => execLhRead_goes _
  | .lhSeti => execLhSeti_goes _
  | .lhLifeAdd => execLhLifeAdd_goes _
  | .lhStat => execLhStat_goes _
  | .lhResponse _ _ _ => execLhResponse_goes _ _ _ _
  | .lhRetry => execLhRetry_goes _
  | .lampOverload => execLampOverload_goes _
  | .powerOn _ _ _ => execPowerOn_goes _ _ _ _
  | .ready _ => execReady_goes _ _
  | .warmReset => execWarmReset_goes _
  | .coldReset _ => execColdReset_goes _ _
  | .warmDone => execWarmDone_goes _
  | .supervisorWdog => execSupervisorWdog_goes _
  | .domainReset _ => execDomainReset_goes _ _
  | .sysMonClr => execSysMonClr_goes _
  | .rollupEvent => execRollupEvent_goes _
  | .rollupHoldoffEnd => execRollupHoldoffEnd_goes _
  | .pageCommit _ => execPageCommit_goes _ _
  | .intClr _ _ => execIntClr_goes _ _ _
  | .evtCntWrite _ _ _ => execEvtCntWrite_goes _ _ _ _
  | .compatWrite _ => execCompatWrite_goes _ _
  | .registerWrite _ _ => execRegisterWrite_goes _ _ _
  | .align _ _ => execAlign_goes _ _ _
  | .chkLock _ _ => execChkLock_goes _ _ _
  | .modprslChange _ _ => execModprslChange_goes _ _ _
  | .cageSupplyTrip _ => execCageSupplyTrip_goes _ _
  | .inputReturn _ => execInputReturn_goes _ _
  | .packOvercurrent => execPackOvercurrent_goes _
  | .prechargeDone => execPrechargeDone_goes _
  | .supplementEnd => execSupplementEnd_goes _
  | .staged => execStaged_goes _
  | .syncOutEnd => execSyncOutEnd_goes _
  | .memReady _ _ => execMemReady_goes _ _ _

/-- A command that is taken off the queue keeps what the state held before, but for itself. -/
theorem Keeps.of_tail {s t : State} {rest : List Instr} (h : Keeps { s with pending := rest } t) :
    t.pending = rest ∧ s.now ≤ t.now ∧ s.freeIdx ≤ t.freeIdx ∧ (s.canonical → t.canonical) :=
  ⟨h.pending, h.now, h.freeIdx, h.canonical⟩

/-- Settles O58: both are the two equations of the step. -/
theorem stepTakesTheFrontCommand : Obligations.StepTakesTheFrontCommand := by
  unfold Obligations.StepTakesTheFrontCommand
  refine ⟨fun c rest s => rfl, fun s h => ?_⟩
  unfold step
  rw [h]

/-- Settles O60: on an empty queue the state stays as it is, and every command keeps what is claimed. -/
theorem everyStepGoesOnAndKeepsTheForm : Obligations.EveryStepGoesOnAndKeepsTheForm := by
  unfold Obligations.EveryStepGoesOnAndKeepsTheForm
  intro s
  unfold step
  cases hq : s.pending with
  | nil => exact ⟨s, rfl, hq, Nat.le_refl _, Nat.le_refl _, id⟩
  | cons c rest =>
    obtain ⟨t, ht, hkeeps⟩ := exec_goes c { s with pending := rest }
    exact ⟨t, ht, hkeeps.of_tail⟩

/-! ## The state after reset -/

/-- No register is listed after reset, so each holds its reset value. -/
theorem reset_reg (a : Nat) : State.reset.reg a = regReset a := rfl

theorem reset_actReg (a : Nat) : State.reset.actReg a = regReset a := rfl

theorem reset_dom_iff : ∀ d, d < 25 → State.reset.dom d = decide (d = dAON) := by decide +kernel

theorem reset_tickMon : ∀ m, m < 3 → State.reset.get (R.TICK_MONm_MIN_VAL m) = 0x7FFFFFFF ∧
    State.reset.get (R.TICK_MONm_MAX_VAL m) = 0x80000000 := by decide +kernel

/-- Settles O59: the state after reset lists no register, so the values are those of the maps. -/
theorem resetState : Obligations.ResetState := by
  unfold Obligations.ResetState
  refine ⟨by decide, rfl, rfl, rfl, reset_dom_iff, rfl, reset_reg, reset_actReg, by decide +kernel, by decide +kernel, reset_tickMon, ?_⟩
  decide +kernel

end Sys2Proof.Machine
end

/-! PROOFS. Frames (R411): what leaves registers, values in force, memory, engines and the negative store alone, composed step by step;
reads of a field behind writes of others. -/
section
namespace Sys2Proof.Machine

section
variable {s t u : State} {L : List Nat}

/-! ## `only`, the frame of the statements -/

theorem only_refl : only s s L := ⟨.refl, rfl, fun _ => rfl, rfl, rfl⟩

theorem only_trans (h : only s t L) (h' : only t u L) : only s u L := by
  obtain ⟨hreg, hforce, hbyte, heng, hnvs⟩ := h
  obtain ⟨hreg', hforce', hbyte', heng', hnvs'⟩ := h'
  exact ⟨hreg.trans hreg', hforce'.trans hforce, fun a => (hbyte' a).trans (hbyte a), heng'.trans heng, hnvs'.trans hnvs⟩

theorem only_mono {L' : List Nat} (h : only s t L) (hL : L ⊆ L') : only s t L' := by
  obtain ⟨hreg, hrest⟩ := h
  exact ⟨hreg.mono hL, hrest⟩

theorem State.byte_of_mem (h : t.mem = s.mem) (a : Nat) : t.byte a = s.byte a := by rw [State.byte, h, State.byte]

/-- A change of fields other than the tables that `only` speaks of. -/
theorem only_of_eq (hregs : t.regs = s.regs) (hforce : t.force = s.force) (hmem : t.mem = s.mem) (heng : t.eng = s.eng)
    (hnvs : t.nvs = s.nvs) : only s t L := ⟨.of_regs hregs, hforce, State.byte_of_mem hmem, heng, hnvs⟩

/-- A change of registers alone. -/
theorem only_of_regsSame (h : s.regsSame t L) (hforce : t.force = s.force) (hmem : t.mem = s.mem) (heng : t.eng = s.eng)
    (hnvs : t.nvs = s.nvs) : only s t L := ⟨h, hforce, State.byte_of_mem hmem, heng, hnvs⟩

theorem only_put {f : Fld} (v : Nat) (hf : f.reg ∈ L) : only s (s.put f v) L :=
  only_of_regsSame (State.regsSame_put v hf) rfl rfl rfl rfl

theorem only_bumpBy {f : Fld} (n : Nat) (hf : f.reg ∈ L) : only s (s.bumpBy f n) L := only_put _ hf

theorem only_bump {f : Fld} (hf : f.reg ∈ L) : only s (s.bump f) L := only_put _ hf

theorem only_put64 {lo hi : Fld} (v : Nat) (hlo : lo.reg ∈ L) (hhi : hi.reg ∈ L) : only s (s.put64 lo hi v) L :=
  only_trans (only_put _ hlo) (only_put _ hhi)

theorem only_setReg {a : Nat} (v : Word) (ha : a ∈ L) : only s (s.setReg a v) L :=
  only_of_regsSame (fun _ hb => s.reg_setReg_other v (ne_of_mem_of_not_mem ha hb).symm) rfl rfl rfl rfl

theorem only_raise {e : Ev} (he : toldRegs e ⊆ L) : only s (s.raise e) L :=
  only_of_regsSame (State.regsSame_raise he) (by simp) (by simp) (by simp) (by simp)

theorem only_ite {c : Prop} [Decidable c] (h : only s t L) (h' : only s u L) : only s (if c then t else u) L := by
  split
  · exact h
  · exact h'

theorem only_foldl {α : Type} {f : State → α → State} (xs : List α) (hf : ∀ u, ∀ x ∈ xs, only u (f u x) L) :
    only s (xs.foldl f s) L :=
  List.foldlRecOn (motive := fun u => only s u L) xs f only_refl fun u hu x hx => only_trans hu (hf u x hx)

theorem State.get_of_only {f : Fld} (h : only s t L) (hf : f.reg ∉ L) : t.get f = s.get f :=
  State.get_of_regsSame h.1 hf

theorem State.get_of_regs {f : Fld} (h : t.regs = s.regs) : t.get f = s.get f := by simp only [State.get, State.reg, h]

theorem State.on_of_get {f : Fld} (h : t.get f = s.get f) : t.on f = s.on f := by rw [State.on, h, State.on]

theorem State.act_of_force {f : Fld} (h : t.force = s.force) : t.act f = s.act f := by simp only [State.act, State.actReg, h]

end

section
variable (s : State)

/-! ## Fields behind writes -/

/-- A field of another register is untouched. -/
theorem State.get_put_reg {f g : Fld} (v : Nat) (h : g.reg ≠ f.reg) : (s.put f v).get g = s.get g :=
  s.get_put_other v (.inl h)

/-- Other bits of the same register are untouched. -/
theorem State.get_put_bits {f g : Fld} (v : Nat) (h : f.lo + f.w ≤ 32 ∧ (f.lo + f.w ≤ g.lo ∨ g.lo + g.w ≤ f.lo)) :
    (s.put f v).get g = s.get g := s.get_put_other v (.inr h)

theorem State.get_bump_reg {f g : Fld} (h : g.reg ≠ f.reg) : (s.bump f).get g = s.get g := s.get_put_reg _ h

theorem State.get_bump_bits {f g : Fld} (h : f.lo + f.w ≤ 32 ∧ (f.lo + f.w ≤ g.lo ∨ g.lo + g.w ≤ f.lo)) :
    (s.bump f).get g = s.get g := s.get_put_bits _ h

/-- A value that fits its field is read as it was written. -/
theorem State.get_put_fits {f : Fld} {v : Nat} (h : f.lo + f.w ≤ 32) (hv : v < 2 ^ f.w) : (s.put f v).get f = v := by
  rw [s.get_put_same v h, Nat.mod_eq_of_lt hv]

theorem State.get_raise_other {e : Ev} {f : Fld} (h : f.reg ∉ toldRegs e) : (s.raise e).get f = s.get f :=
  State.get_of_regsSame (State.regsSame_raise (List.Subset.refl _)) h

theorem State.get_at (n : Nat) (f : Fld) : (s.at n).get f = s.get f := rfl

theorem only_at (n : Nat) {L : List Nat} : only s (s.at n) L := only_of_eq rfl rfl rfl rfl rfl

theorem told_raise_only {e : Ev} (he : e.bit < 32) : told s (s.raise e) e ∧ only s (s.raise e) (toldRegs e) :=
  ⟨told_raise s he, only_raise (List.Subset.refl _)⟩

/-- What is told behind a change that leaves the event's registers alone is told from the state before. -/
theorem told_raise_of_regsSame {t : State} {L : List Nat} {e : Ev} (he : e.bit < 32) (h : s.regsSame t L)
    (hL : ∀ a ∈ toldRegs e, a ∉ L) : told s (t.raise e) e :=
  told_frame (told_raise t he) h (.refl (L := [])) hL fun _ _ => List.not_mem_nil

theorem toNat_mod_word (v : Word) : v.toNat % 2 ^ 32 = v.toNat := Nat.mod_eq_of_lt v.isLt

theorem boolNat_lt_two (b : Bool) : boolNat b < 2 := by cases b <;> decide

end
section
variable {s t : State} {L : List Nat}

/-! ## Updates of other fields of the state -/

theorem only_upd
    {x_pending : List Instr} {x_now x_freeIdx : Nat} {x_rdata x_nextPend x_commitPend x_poison : List Nat} {x_frozen : SMap
    Word} {x_fuse : SMap Byte} {x_tick : TickGen} {x_tmr : Timers} {x_pins : Pins} {x_exp : Exposure} {x_rdo : Readout} {x_clk
    : RowClk} {x_lines : List Line} {x_job : Jobs} {x_rec : RecWriter} {x_dev : Developer} {x_memctl : MemCtl} {x_dma :
    DmaUnit} {x_port : SMap Port} {x_chain : Chain} {x_evtQ : List Event} {x_wire : List Wire} {x_cal : Calib} {x_therm :
    Thermal} {x_pwr : Power} {x_mb : Mb} {x_lamp : Lamp} {x_sys : Sys} :
    only s t L → only s 
    (State.mk x_pending x_now x_freeIdx x_rdata t.regs t.force x_frozen x_nextPend x_commitPend x_fuse t.mem x_poison
      x_tick x_tmr x_pins x_exp x_rdo x_clk x_lines t.eng x_job x_rec x_dev x_memctl x_dma t.nvs x_port x_chain x_evtQ
      x_wire x_cal x_therm x_pwr x_mb x_lamp x_sys) L :=
  fun ⟨hreg, hforce, hbyte, heng, hnvs⟩ => ⟨fun a ha => hreg a ha, hforce, fun a => hbyte a, heng, hnvs⟩

theorem State.get_upd (f : Fld)
    {x_pending : List Instr} {x_now x_freeIdx : Nat} {x_rdata x_nextPend x_commitPend x_poison : List Nat} {x_force x_frozen :
    SMap Word} {x_fuse : SMap Byte} {x_mem : List Host.Cell} {x_tick : TickGen} {x_tmr : Timers} {x_pins : Pins} {x_exp :
    Exposure} {x_rdo : Readout} {x_clk : RowClk} {x_lines : List Line} {x_eng : SMap Engine} {x_job : Jobs} {x_rec :
    RecWriter} {x_dev : Developer} {x_memctl : MemCtl} {x_dma : DmaUnit} {x_nvs : Store} {x_port : SMap Port} {x_chain :
    Chain} {x_evtQ : List Event} {x_wire : List Wire} {x_cal : Calib} {x_therm : Thermal} {x_pwr : Power} {x_mb : Mb} {x_lamp
    : Lamp} {x_sys : Sys} :
    
    (State.mk x_pending x_now x_freeIdx x_rdata t.regs x_force x_frozen x_nextPend x_commitPend x_fuse x_mem x_poison
      x_tick x_tmr x_pins x_exp x_rdo x_clk x_lines x_eng x_job x_rec x_dev x_memctl x_dma x_nvs x_port x_chain x_evtQ
      x_wire x_cal x_therm x_pwr x_mb x_lamp x_sys).get f = t.get f :=
  rfl

theorem State.act_upd (f : Fld)
    {x_pending : List Instr} {x_now x_freeIdx : Nat} {x_rdata x_nextPend x_commitPend x_poison : List Nat} {x_regs x_frozen :
    SMap Word} {x_fuse : SMap Byte} {x_mem : List Host.Cell} {x_tick : TickGen} {x_tmr : Timers} {x_pins : Pins} {x_exp :
    Exposure} {x_rdo : Readout} {x_clk : RowClk} {x_lines : List Line} {x_eng : SMap Engine} {x_job : Jobs} {x_rec :
    RecWriter} {x_dev : Developer} {x_memctl : MemCtl} {x_dma : DmaUnit} {x_nvs : Store} {x_port : SMap Port} {x_chain :
    Chain} {x_evtQ : List Event} {x_wire : List Wire} {x_cal : Calib} {x_therm : Thermal} {x_pwr : Power} {x_mb : Mb} {x_lamp
    : Lamp} {x_sys : Sys} :
    
    (State.mk x_pending x_now x_freeIdx x_rdata x_regs t.force x_frozen x_nextPend x_commitPend x_fuse x_mem x_poison
      x_tick x_tmr x_pins x_exp x_rdo x_clk x_lines x_eng x_job x_rec x_dev x_memctl x_dma x_nvs x_port x_chain x_evtQ
      x_wire x_cal x_therm x_pwr x_mb x_lamp x_sys).act f = t.act f :=
  rfl

end

end Sys2Proof.Machine
end

/-! PROOFS. Counters and channels (R84–R93, R104, R106). -/
section
namespace Sys2Proof.Machine

section
variable {s : State}

/-! ## Register writes (R85, R89–R91) -/

theorem execCntLoad_counter {k : Fin 8} (v : Word) (hs : s.served 0x016 = true) (hk : k.val < 6) :
    exec (.cntLoad k v) s = .next (s.put (R.CNTk_VAL_VAL k) v.toNat) := by
  have hk' : ¬ 6 ≤ k.val := by omega
  change execCntLoad k v s = _
  simp [execCntLoad, State.cntLoad, hs, hk']

theorem execCntLoad_reserved {k : Fin 8} (v : Word) (hs : s.served 0x016 = true) (hk : 6 ≤ k.val) :
    exec (.cntLoad k v) s = .next (s.raise E.TMR_RSV_WRITE) := by
  change execCntLoad k v s = _
  simp [execCntLoad, State.cntLoad, hs, hk]

/-- The registers of a channel after a write of its value. -/
def State.armPut (s : State) (j v : Nat) : State := (s.put (R.CCj_VAL_VAL j) v).put (R.CCj_STAT_ARMED j) 1

theorem State.armPut_only (j v : Nat) : only s (s.armPut j v) [(R.CCj_VAL_VAL j).reg, (R.CCj_STAT_ARMED j).reg] :=
  only_trans (only_put _ (by simp)) (only_put _ (by simp))

theorem State.get_armPut {f : Fld} (j v : Nat) (h : f.reg ≠ (R.CCj_VAL_VAL j).reg ∧ f.reg ≠ (R.CCj_STAT_ARMED j).reg) :
    (s.armPut j v).get f = s.get f := State.get_of_only (State.armPut_only j v) (by simp [h])

theorem State.chanWide_of_get {s t : State} (h : t.get R.TMR_LINK_LINK = s.get R.TMR_LINK_LINK) (j : Nat) : t.chanWide j = s.chanWide j := by
  simp only [State.chanWide, State.linked, h]

/-- What a channel compares against is that of the counters, which a write that leaves them alone does not change. -/
theorem State.chanCount_of_get {s t : State} (hl : t.get R.TMR_LINK_LINK = s.get R.TMR_LINK_LINK)
    (hc : ∀ k, t.cnt k = s.cnt k) (j : Nat) : t.chanCount j = s.chanCount j := by
  simp only [State.chanCount, State.chanWide_of_get hl, hc]

theorem State.chanVal_of_get {s t : State} (h : ∀ f, t.get f = s.get f) (j : Nat) : t.chanVal j = s.chanVal j := by
  simp only [State.chanVal, State.chanWide_of_get (h _), h]

theorem State.chanWide_armPut (j v i : Nat) : (s.armPut j v).chanWide i = s.chanWide i :=
  State.chanWide_of_get (State.get_armPut j v (by simp only [R.TMR_LINK_LINK, R.CCj_VAL_VAL, R.CCj_STAT_ARMED]; omega)) i

theorem State.chanCount_armPut {j : Nat} (v : Nat) (hj : j < 12) : (s.armPut j v).chanCount j = s.chanCount j := by
  have hcnt (k : Nat) (hk : k < 8) : (s.armPut j v).cnt k = s.cnt k :=
    State.get_armPut j v (by simp only [R.CNTk_VAL_VAL, R.CCj_VAL_VAL, R.CCj_STAT_ARMED]; omega)
  simp only [State.chanCount, State.chanWide_armPut, hcnt (j / 2) (by omega), hcnt (j / 2 + 1) (by omega)]

/-- A channel's fire becomes due at a time. -/
def State.dueAt (s : State) (j u : Nat) : State := { s with tmr := { s.tmr with ccDue := mapIns s.tmr.ccDue j u } }

/-- A channel has no fire due. -/
def State.undue (s : State) (j : Nat) : State := { s with tmr := { s.tmr with ccDue := mapDel s.tmr.ccDue j } }

theorem State.dueAt_only (s : State) (j u : Nat) : only s (s.dueAt j u) [] := only_upd only_refl
theorem State.undue_only (s : State) (j : Nat) : only s (s.undue j) [] := only_upd only_refl

theorem State.ccArm_eq {j v : Nat} (hs : s.served 0x016 = true) (hj : j < 12) : s.ccArm j v =
    let u := (s.armPut j v).undue j
    if passedBy (if u.chanWide j then 64 else 32) (u.chanCount j) (u.chanVal j) then u.dueAt j (u.now + 1) else u := by
  unfold State.ccArm State.dueAt State.undue State.armPut
  rw [if_neg (by simp [hs]), if_neg (by omega)]

/-- An armed channel whose value is passed already is due one timer clock later (R89). -/
theorem State.ccArm_spec {j v : Nat} (hs : s.served 0x016 = true) (hj : j < 12) :
    mapFind (s.ccArm j v).tmr.ccDue j =
      (if passedBy (if s.chanWide j then 64 else 32) (s.chanCount j) ((s.ccArm j v).chanVal j) then some (s.now + 1) else none) ∧
    only (s.armPut j v) (s.ccArm j v) [] := by
  have hget (f : Fld) : ((s.armPut j v).undue j).get f = (s.armPut j v).get f := State.get_upd f
  have hwide := (State.chanWide_of_get (hget _) j).trans (State.chanWide_armPut j v j)
  have hcount := (State.chanCount_of_get (hget _) (fun _ => hget _) j).trans (State.chanCount_armPut v hj)
  have hnow : ((s.armPut j v).undue j).now = s.now := by rw [State.armPut, State.undue, State.put_now, State.put_now]
  have heq : s.ccArm j v = if passedBy (if s.chanWide j then 64 else 32) (s.chanCount j) (((s.armPut j v).undue j).chanVal j) then
      ((s.armPut j v).undue j).dueAt j (s.now + 1) else (s.armPut j v).undue j := by
    rw [State.ccArm_eq hs hj]
    simp only [hwide, hcount, hnow]
  by_cases hp : passedBy (if s.chanWide j then 64 else 32) (s.chanCount j) (((s.armPut j v).undue j).chanVal j)
  · have hval := State.chanVal_of_get (s := (s.armPut j v).undue j) (fun f => State.get_of_only (State.dueAt_only _ j (s.now + 1)) (by simp)) j
    rw [heq, if_pos hp, hval, if_pos hp]
    exact ⟨mapFind_ins_same _ _ _, only_trans (State.undue_only _ j) (State.dueAt_only _ j _)⟩
  · rw [heq, if_neg hp, if_neg hp]
    exact ⟨mapFind_del_same _ _, State.undue_only _ j⟩

theorem State.ccArm_counterWrites {j v : Nat} (hs : s.served 0x016 = true) (hj : j < 12) (hv : v < 2 ^ 32) :
    (s.ccArm j v).get (R.CCj_VAL_VAL j) = v ∧ (s.ccArm j v).get (R.CCj_STAT_ARMED j) = 1 ∧
    only s (s.ccArm j v) [(R.CCj_VAL_VAL j).reg, (R.CCj_STAT_ARMED j).reg] := by
  obtain ⟨-, honly⟩ := State.ccArm_spec (v := v) hs hj
  refine ⟨?_, ?_, only_trans (State.armPut_only j v) (only_mono honly (by simp))⟩
  · rw [State.get_of_only honly (by simp), State.armPut, State.get_put_reg _ _ (by simp only [R.CCj_VAL_VAL, R.CCj_STAT_ARMED]; omega)]
    exact State.get_put_fits _ (by simp only [R.CCj_VAL_VAL]; omega) hv
  · rw [State.get_of_only honly (by simp), State.armPut]
    exact State.get_put_same _ 1 (by simp only [R.CCj_STAT_ARMED]; omega)

/-! ## Captures (R91) -/

theorem State.setCap_only (j v : Nat) : only s (s.setCap j v) (capRegs j) := by
  unfold State.setCap
  dsimp only
  split
  · exact only_trans (only_put _ (by simp [capRegs])) (only_put _ (by simp [capRegs]))
  · exact only_put _ (by simp [capRegs])

theorem State.setCap_tmr (j v : Nat) : (s.setCap j v).tmr = s.tmr := by
  unfold State.setCap
  dsimp only
  split
  · rw [State.put_tmr, State.put_tmr]
  · rw [State.put_tmr]

theorem State.get_setCap_low (j v : Nat) : (s.setCap j v).get (R.CCj_CAP_VAL j) = v % 2 ^ 32 := by
  have hlow : (s.put (R.CCj_CAP_VAL j) v).get (R.CCj_CAP_VAL j) = v % 2 ^ 32 :=
    s.get_put_same _ (by simp only [R.CCj_CAP_VAL]; omega)
  unfold State.setCap
  dsimp only
  split
  · rw [State.get_put_reg _ _ (by simp only [R.CCj_CAP_VAL, R.CCj_CAP_HI_VAL]; omega), hlow]
  · exact hlow

theorem State.get_setCap_high {j : Nat} (v : Nat) (hw : s.chanWide j = true) :
    (s.setCap j v).get (R.CCj_CAP_HI_VAL j) = v / 2 ^ 32 % 2 ^ 32 := by
  unfold State.setCap
  rw [if_pos hw, State.get_put_same _ _ (by simp only [R.CCj_CAP_HI_VAL]; omega), R.CCj_CAP_HI_VAL]

/-- A capture's time is noted. -/
def State.capNoted (s : State) (j : Nat) : State := { s with tmr := { s.tmr with capAt := mapIns s.tmr.capAt j s.now } }

/-- A capture waits to be read. -/
def State.capWaits (s : State) (j : Nat) : State := { s with tmr := { s.tmr with capUnread := s.tmr.capUnread ++ [j] } }

/-- What a capture stores. -/
def State.captured (s : State) (j : Nat) : State := (s.setCap j (s.chanCount j)).capNoted j

theorem State.capture_eq (j : Nat) : s.capture j = if s.tmr.capUnread.contains j then
    (((s.captured j).put (R.CCj_STAT_OVR j) 1).bump (R.CCj_STAT_OVR_CNT j)).raise (E.TMR_CC j) else (s.captured j).capWaits j := by
  unfold State.capture State.capWaits State.captured State.capNoted
  with_reducible rfl

theorem State.capNoted_only (j : Nat) : only s (s.capNoted j) [] := only_upd only_refl
theorem State.capWaits_only (j : Nat) : only s (s.capWaits j) [] := only_upd only_refl

theorem State.captured_only (j : Nat) : only s (s.captured j) (capRegs j) :=
  only_trans (State.setCap_only j _) (only_mono (State.capNoted_only j) (by simp))

theorem State.get_captured (j : Nat) (f : Fld) : (s.captured j).get f = (s.setCap j (s.chanCount j)).get f :=
  State.get_of_only (State.capNoted_only j) (by simp)

/-- Only what a capture stores and what its report tells changes. -/
theorem State.capture_only (j : Nat) : only s (s.capture j) (captureRegs j) := by
  have h : only s (s.captured j) (captureRegs j) := only_mono (State.captured_only j) (List.subset_append_left _ _)
  have hovr : (R.CCj_STAT_OVR j).reg ∈ captureRegs j := by simp [captureRegs]
  have hcnt : (R.CCj_STAT_OVR_CNT j).reg ∈ captureRegs j := hovr
  have htold : toldRegs (E.TMR_CC j) ⊆ captureRegs j :=
    fun _ ha => List.mem_append_right _ (List.mem_cons_of_mem _ ha)
  rw [State.capture_eq]
  split
  · exact only_trans (only_trans (only_trans h (only_put _ hovr)) (only_bump hcnt)) (only_raise htold)
  · exact only_trans h (only_mono (State.capWaits_only j) (by simp))

theorem State.captured_capUnread (j : Nat) : (s.captured j).tmr.capUnread = s.tmr.capUnread := by
  have h : ((s.setCap j (s.chanCount j)).capNoted j).tmr.capUnread = (s.setCap j (s.chanCount j)).tmr.capUnread := by
    generalize s.setCap j (s.chanCount j) = u
    rfl
  rw [State.captured, h, State.setCap_tmr]

theorem State.mem_capUnread_capture (j : Nat) : j ∈ (s.capture j).tmr.capUnread := by
  rw [State.capture_eq]
  split
  · next h =>
    rw [State.raise_tmr, State.bump_tmr, State.put_tmr, State.captured_capUnread]
    exact List.contains_iff_mem.1 h
  · exact List.mem_append_right _ (List.mem_singleton_self j)

/-- The report of a capture changes none of the captured values. -/
theorem State.get_capture_cap {j : Nat} {f : Fld} (hf : f.reg ∈ capRegs j) :
    (s.capture j).get f = (s.setCap j (s.chanCount j)).get f := by
  have hreg : f.reg = 0x1620C + 0x20 * j ∨ f.reg = 0x16210 + 0x20 * j := by
    simpa only [capRegs, R.CCj_CAP_VAL, R.CCj_CAP_HI_VAL, List.mem_cons, List.not_mem_nil, or_false] using hf
  rw [State.capture_eq, ← State.get_captured]
  split
  · rw [State.get_raise_other _ (by simp only [toldRegs, E.TMR_CC, intRawBit, List.mem_singleton]; omega), State.get_bump_reg _ (by simp only [R.CCj_STAT_OVR_CNT]; omega), State.get_put_reg _ _ (by simp only [R.CCj_STAT_OVR]; omega)]
  · exact State.get_of_only (State.capWaits_only j) (by simp)

theorem State.get_captured_stat {j : Nat} {f : Fld} (hf : f.reg = (R.CCj_STAT_OVR j).reg) : (s.captured j).get f = s.get f :=
  State.get_of_only (State.captured_only j) (by
    simp only [capRegs, hf, R.CCj_STAT_OVR, R.CCj_CAP_VAL, R.CCj_CAP_HI_VAL, List.mem_cons, List.not_mem_nil, or_false]; omega)

/-- A capture that was not read before the next one is shown, counted and told (R91). -/
theorem State.capture_unread {j : Nat} (hj : j < 16) (h : j ∈ s.tmr.capUnread) :
    (s.capture j).get (R.CCj_STAT_OVR j) = 1 ∧ told s (s.capture j) (E.TMR_CC j) ∧
    (s.capture j).get (R.CCj_STAT_OVR_CNT j) = min 255 (s.get (R.CCj_STAT_OVR_CNT j) + 1) := by
  have hstat (f : Fld) (hf : f.reg = (R.CCj_STAT_OVR j).reg) : f.reg ∉ toldRegs (E.TMR_CC j) := by
    simp only [toldRegs, E.TMR_CC, intRawBit, List.mem_singleton, hf, R.CCj_STAT_OVR]; omega
  rw [State.capture_eq, if_pos (List.contains_iff_mem.2 h)]
  refine ⟨?_, ⟨State.get_raise _ _ (by simp only [E.TMR_CC]; omega), by simp [E.TMR_CC]⟩, ?_⟩
  · rw [State.get_raise_other _ (hstat (R.CCj_STAT_OVR j) rfl), State.get_bump_bits _ (by simp only [R.CCj_STAT_OVR_CNT, R.CCj_STAT_OVR]; omega)]
    exact State.get_put_same _ 1 (by simp only [R.CCj_STAT_OVR]; omega)
  · rw [State.get_raise_other _ (hstat (R.CCj_STAT_OVR_CNT j) rfl), State.bump, State.get_bumpBy _ _ _ (by simp only [R.CCj_STAT_OVR_CNT]; omega),
      State.get_put_bits _ _ (by simp only [R.CCj_STAT_OVR_CNT, R.CCj_STAT_OVR]; omega), State.get_captured_stat (by rfl)]
    simp only [R.CCj_STAT_OVR_CNT, Nat.reducePow, Nat.reduceSub]

/-! ## Counts of a channel (R88) -/

/-- A channel's two counts at 0. -/
def State.clrCounts (s : State) (j : Nat) : State := (s.put (R.CCj_STAT_FIRE_CNT j) 0).put (R.CCj_STAT_OVR_CNT j) 0

theorem State.clrCounts_spec (j : Nat) : (s.clrCounts j).get (R.CCj_STAT_FIRE_CNT j) = 0 ∧ (s.clrCounts j).get (R.CCj_STAT_OVR_CNT j) = 0 ∧
    (s.clrCounts j).get (R.CCj_STAT_ARMED j) = s.get (R.CCj_STAT_ARMED j) ∧ only s (s.clrCounts j) [(R.CCj_STAT_ARMED j).reg] := by
  have hapart : (s.clrCounts j).get (R.CCj_STAT_ARMED j) = s.get (R.CCj_STAT_ARMED j) := by
    rw [State.clrCounts, State.get_put_bits _ _ (by simp only [R.CCj_STAT_OVR_CNT, R.CCj_STAT_ARMED]; omega),
      State.get_put_bits _ _ (by simp only [R.CCj_STAT_FIRE_CNT, R.CCj_STAT_ARMED]; omega)]
  refine ⟨?_, State.get_put_same _ 0 (by simp only [R.CCj_STAT_OVR_CNT]; omega), hapart,
    only_trans (only_put _ (by simp [R.CCj_STAT_FIRE_CNT, R.CCj_STAT_ARMED])) (only_put _ (by simp [R.CCj_STAT_OVR_CNT, R.CCj_STAT_ARMED]))⟩
  rw [State.clrCounts, State.get_put_bits _ _ (by simp only [R.CCj_STAT_OVR_CNT, R.CCj_STAT_FIRE_CNT]; omega)]
  exact State.get_put_same _ 0 (by simp only [R.CCj_STAT_FIRE_CNT]; omega)

/-- Writes of the exposure unit's channels 12–15 are refused (R87). -/
theorem exec_reserved_channel {j : Fin 16} (hs : s.served 0x016 = true) (hj : 12 ≤ j.val) :
    ∀ c ∈ [Instr.cntClr j, .swcap j, .ccArm j 0], exec c s = .next (s.raise E.TMR_RSV_WRITE) := by
  have hclr : execCntClr j s = .next (s.raise E.TMR_RSV_WRITE) := by simp [execCntClr, hs, hj]
  have hcap : execSwcap j s = .next (s.raise E.TMR_RSV_WRITE) := by simp [execSwcap, hs, hj]
  have harm : execCcArm j 0 s = .next (s.raise E.TMR_RSV_WRITE) := by simp [execCcArm, State.ccArm, hs, hj]
  intro c hc
  obtain rfl | rfl | rfl : c = .cntClr j ∨ c = .swcap j ∨ c = .ccArm j 0 := by simpa only [List.mem_cons, List.not_mem_nil, or_false] using hc
  · exact hclr
  · exact hcap
  · exact harm

end

/-- Settles O1: each write is one or two register fields, or the one capture. -/
theorem counterRegisterWrites : Obligations.CounterRegisterWrites := by
  unfold Obligations.CounterRegisterWrites
  intro s hs
  refine ⟨fun k v hk => ?load, fun k v hk => ?reserved, fun j v hj => ?arm, fun j hj hen hfunc hsrc => ?swcap, fun j hj => ?clear,
    fun j hj c hc => ?channel⟩
  case load =>
    exact ⟨_, execCntLoad_counter v hs hk, State.get_put_fits _ (by simp only [R.CNTk_VAL_VAL]; omega) v.isLt, only_put _ (by simp)⟩
  case reserved =>
    exact ⟨_, execCntLoad_reserved v hs hk, told_raise_only _ (by decide)⟩
  case arm =>
    obtain ⟨hval, harmed, honly⟩ := State.ccArm_counterWrites hs hj v.isLt
    exact ⟨_, rfl, hval, harmed, (State.ccArm_spec hs hj).1, honly⟩
  case swcap =>
    have hcap : exec (.swcap j) s = .next (s.capture j) := by
      have hj' : ¬ 12 ≤ j.val := by omega
      change execSwcap j s = _
      simp [execSwcap, hs, hj', hen, hfunc, hsrc]
    refine ⟨_, hcap, ?_, fun hw => ?_, State.mem_capUnread_capture _, State.capture_unread j.isLt, State.capture_only _⟩
    · rw [State.get_capture_cap (by simp [capRegs]), State.get_setCap_low]
    · rw [State.get_capture_cap (by simp [capRegs]), State.get_setCap_high _ hw]
  case clear =>
    have hclr : exec (.cntClr j) s = .next (s.clrCounts j) := by
      have hj' : ¬ 12 ≤ j.val := by omega
      change execCntClr j s = _
      simp [execCntClr, hs, hj', State.clrCounts]
    exact ⟨_, hclr, State.clrCounts_spec _⟩
  case channel =>
    exact ⟨_, exec_reserved_channel hs hj c hc, told_raise_only _ (by decide)⟩

end Sys2Proof.Machine
end

/-! PROOFS. What the timers and the tick generator do at most (R79–R104): no operation of either changes a value in force, memory, an engine,
the negative store or another unit. -/
section
namespace Sys2Proof.Machine

/-- From s to t nothing changes but registers, time, the tick generator, the timers, the pins, what has left the ports, and the requests for
attention and roll-up events. -/
def TimersOnly (s t : State) : Prop :=
  t = { s with now := t.now, regs := t.regs, tick := t.tick, tmr := t.tmr, pins := t.pins, wire := t.wire, mb := t.mb, sys := t.sys }

theorem TimersOnly.refl (s : State) : TimersOnly s s := rfl

theorem TimersOnly.trans {s t u : State} (h : TimersOnly s t) (k : TimersOnly t u) : TimersOnly s u := by
  unfold TimersOnly at *
  rw [k, h]

theorem TimersOnly.upd {s t : State}
    {x_now : Nat} {x_regs : SMap Word} {x_tick : TickGen} {x_tmr : Timers} {x_pins : Pins} {x_wire : List Wire} {x_mb : Mb}
    {x_sys : Sys}
    (h : TimersOnly s t) : TimersOnly s
      (State.mk t.pending x_now t.freeIdx t.rdata x_regs t.force t.frozen t.nextPend t.commitPend t.fuse t.mem t.poison
      x_tick x_tmr x_pins t.exp t.rdo t.clk t.lines t.eng t.job t.rec_ t.dev t.memctl t.dma t.nvs t.port t.chain t.evtQ
      x_wire t.cal t.therm t.pwr x_mb t.lamp x_sys) := by
  unfold TimersOnly at *
  rw [h]

theorem TimersOnly.upd_iff {s t : State}
    {x_now : Nat} {x_regs : SMap Word} {x_tick : TickGen} {x_tmr : Timers} {x_pins : Pins} {x_wire : List Wire} {x_mb : Mb}
    {x_sys : Sys} :
    TimersOnly s
      (State.mk t.pending x_now t.freeIdx t.rdata x_regs t.force t.frozen t.nextPend t.commitPend t.fuse t.mem t.poison
      x_tick x_tmr x_pins t.exp t.rdo t.clk t.lines t.eng t.job t.rec_ t.dev t.memctl t.dma t.nvs t.port t.chain t.evtQ
      x_wire t.cal t.therm t.pwr x_mb t.lamp x_sys) ↔ TimersOnly s t := by
  refine ⟨fun h => ?_, .upd⟩
  unfold TimersOnly at *
  injection h
  cases t
  congr


theorem TimersOnly.foldl {α : Type} {s t : State} {f : State → α → State} (xs : List α) (hf : ∀ u x, TimersOnly s u → TimersOnly s (f u x))
    (h : TimersOnly s t) : TimersOnly s (xs.foldl f t) :=
  List.foldlRecOn (motive := fun u => TimersOnly s u) xs f h fun u hu x _ => hf u x hu

section
variable {s t : State} (h : TimersOnly s t)
include h

theorem TimersOnly.force : t.force = s.force := by unfold TimersOnly at h; rw [h]
theorem TimersOnly.mem : t.mem = s.mem := by unfold TimersOnly at h; rw [h]
theorem TimersOnly.eng : t.eng = s.eng := by unfold TimersOnly at h; rw [h]
theorem TimersOnly.nvs : t.nvs = s.nvs := by unfold TimersOnly at h; rw [h]
theorem TimersOnly.byte (a : Nat) : t.byte a = s.byte a := State.byte_of_mem h.mem a
theorem TimersOnly.act (f : Fld) : t.act f = s.act f := State.act_of_force h.force

theorem TimersOnly.only {L : List Nat} (hr : s.regsSame t L) : only s t L := only_of_regsSame hr h.force h.mem h.eng h.nvs

end
/-! ## The shared operations -/

section
variable {s t : State}

theorem State.put_timers (f : Fld) (v : Nat) (h : TimersOnly s t) : TimersOnly s (t.put f v) := .upd h

theorem State.bump_timers (f : Fld) (h : TimersOnly s t) : TimersOnly s (t.bump f) := State.put_timers _ _ h

theorem State.put64_timers (lo hi : Fld) (v : Nat) (h : TimersOnly s t) : TimersOnly s (t.put64 lo hi v) :=
  State.put_timers _ _ (State.put_timers _ _ h)

theorem State.raise_timers (e : Ev) (h : TimersOnly s t) : TimersOnly s (t.raise e) := by
  obtain ⟨r, y, m, heq⟩ := t.raiseBy_eq e 1
  rw [State.raise, heq]
  exact .upd h

theorem State.at_timers (n : Nat) (h : TimersOnly s t) : TimersOnly s (t.at n) := .upd h

theorem State.monClear_timers (m : Mon) (h : TimersOnly s t) : TimersOnly s (t.monClear m) :=
  .foldl _ (fun _ _ k => State.put_timers _ _ k) (State.put_timers _ _ (State.put_timers _ _ h))

/-! ## The tick generator -/

theorem State.setTpred_timers (f : Frac) (h : TimersOnly s t) : TimersOnly s (t.setTpred f) := by
  unfold State.setTpred
  with_reducible repeat' first | assumption | apply State.put_timers | simp only [TimersOnly.upd_iff]

theorem State.sendBlockAt_timers (n p : Nat) (bs : List Nat) (h : TimersOnly s t) : TimersOnly s (t.sendBlockAt n p bs) := by
  unfold State.sendBlockAt
  with_reducible repeat' first | assumption | simp only [TimersOnly.upd_iff]

theorem State.sendBlock_timers (p : Nat) (bs : List Nat) (h : TimersOnly s t) : TimersOnly s (t.sendBlock p bs) := by
  unfold State.sendBlock
  with_reducible repeat' first | assumption | apply State.sendBlockAt_timers

theorem State.sendToken_timers (a b c d e : Nat) (h : TimersOnly s t) : TimersOnly s (t.sendToken a b c d e) := by
  unfold State.sendToken
  dsimp only
  with_reducible repeat' first | assumption | apply State.sendBlock_timers

theorem State.pushTick_timers (d : DerTick) (h : TimersOnly s t) : TimersOnly s (t.pushTick d) := by
  unfold State.pushTick
  dsimp only
  split
  · exact h
  · split
    · exact .upd h
    · exact .foldl _ (fun _ _ k => State.sendToken_timers _ _ _ _ _ k) (State.sendToken_timers _ _ _ _ _ (.upd h))

theorem State.tokenRemark_timers (h : TimersOnly s t) : TimersOnly s (t.tokenRemark) := by
  unfold State.tokenRemark
  with_reducible repeat' first | assumption | simp only [TimersOnly.upd_iff] | split

theorem State.releaseDeferred_timers (n : Nat) (h : TimersOnly s t) : TimersOnly s (t.releaseDeferred n) := by
  unfold State.releaseDeferred
  with_reducible repeat' first | assumption | apply State.pushTick_timers | simp only [TimersOnly.upd_iff] | split

theorem State.divTick_timers (n : Nat) (b : Bool) (h : TimersOnly s t) : TimersOnly s (t.divTick n b) := by
  unfold State.divTick
  dsimp only
  with_reducible repeat' first
    | assumption | apply State.raise_timers | apply State.pushTick_timers | apply State.releaseDeferred_timers
    | simp only [TimersOnly.upd_iff] | split

theorem State.rePredict_timers (h : TimersOnly s t) : TimersOnly s (t.rePredict) := by
  unfold State.rePredict
  with_reducible repeat' first | assumption | simp only [TimersOnly.upd_iff]

theorem State.divTpred_timers (h : TimersOnly s t) : TimersOnly s (t.divTpred) := by
  unfold State.divTpred
  with_reducible repeat' first | assumption | apply State.setTpred_timers | simp only [TimersOnly.upd_iff] | split

theorem State.runStep_timers (h : TimersOnly s t) : TimersOnly s (t.runStep) := by
  unfold State.runStep
  dsimp only
  with_reducible repeat' first | assumption | apply State.put_timers | simp only [TimersOnly.upd_iff] | split

theorem State.divDerive_timers (n : Nat) (h : TimersOnly s t) : TimersOnly s (t.divDerive n) := by
  unfold State.divDerive
  dsimp only
  with_reducible repeat' first
    | assumption | apply State.runStep_timers | apply State.divTick_timers | simp only [TimersOnly.upd_iff] | split

theorem State.divLoop_timers (i n : Nat) (h : TimersOnly s t) : TimersOnly s (State.divLoop i t n) := by
  induction i generalizing t with
  | zero => exact h
  | succ i ih =>
    unfold State.divLoop
    split
    · exact ih (State.divDerive_timers n h)
    · exact h

theorem State.onCount_timers (up : Bool) (n : Nat) (h : TimersOnly s t) : TimersOnly s (t.onCount up n) := by
  unfold State.onCount
  dsimp only
  with_reducible repeat' first
    | assumption | apply State.rePredict_timers | apply State.divLoop_timers | apply State.divTpred_timers
    | apply State.releaseDeferred_timers | apply State.raise_timers | simp only [TimersOnly.upd_iff] | split

theorem State.predictedTick_timers (h : TimersOnly s t) : TimersOnly s (t.predictedTick) := by
  unfold State.predictedTick
  dsimp only
  with_reducible repeat' first
    | assumption | apply State.rePredict_timers | apply State.divDerive_timers | apply State.releaseDeferred_timers
    | apply State.at_timers | simp only [TimersOnly.upd_iff] | split

theorem State.timerTick_timers (h : TimersOnly s t) : TimersOnly s (t.timerTick) := by
  unfold State.timerTick
  dsimp only
  with_reducible repeat' first
    | assumption | apply State.pushTick_timers | apply State.setTpred_timers | apply State.at_timers
    | simp only [TimersOnly.upd_iff] | split

theorem State.trigRunTick_timers (h : TimersOnly s t) : TimersOnly s (t.trigRunTick) := by
  unfold State.trigRunTick
  dsimp only
  with_reducible repeat' first
    | assumption | apply State.runStep_timers | apply State.pushTick_timers | apply State.setTpred_timers
    | apply State.at_timers | apply State.predictedTick_timers | simp only [TimersOnly.upd_iff] | split

theorem State.tickTrigger_timers (i k n : Nat) (h : TimersOnly s t) : TimersOnly s (t.tickTrigger i k n) := by
  unfold State.tickTrigger
  dsimp only
  with_reducible repeat' first
    | assumption | apply State.put_timers | apply State.raise_timers | simp only [TimersOnly.upd_iff] | split

theorem State.areaTrigger_timers (i k n : Nat) (h : TimersOnly s t) : TimersOnly s (t.areaTrigger i k n) := by
  unfold State.areaTrigger
  dsimp only
  with_reducible repeat' first | assumption | apply State.raise_timers | simp only [TimersOnly.upd_iff] | split

theorem State.trigAreaTick_timers (h : TimersOnly s t) : TimersOnly s (t.trigAreaTick) := by
  unfold State.trigAreaTick
  dsimp only
  with_reducible repeat' first
    | assumption | apply State.pushTick_timers | apply State.setTpred_timers | apply State.at_timers
    | simp only [TimersOnly.upd_iff] | split

/-! ## The timers -/

theorem State.compareMet_timers (k : Nat) (h : TimersOnly s t) : TimersOnly s (t.compareMet k) := by
  unfold State.compareMet
  dsimp only
  with_reducible repeat' first | assumption | simp only [TimersOnly.upd_iff]

theorem State.setCap_timers (j v : Nat) (h : TimersOnly s t) : TimersOnly s (t.setCap j v) := by
  unfold State.setCap
  dsimp only
  with_reducible repeat' first | assumption | apply State.put_timers | simp only [TimersOnly.upd_iff] | split

theorem State.recapture_timers (k : Nat) (up : Bool) (h : TimersOnly s t) : TimersOnly s (t.recapture k up) :=
  .foldl _ (fun _ _ k => State.setCap_timers _ _ k) h

theorem State.countOne_timers (k : Nat) (up : Bool) (h : TimersOnly s t) : TimersOnly s (t.countOne k up) := by
  unfold State.countOne
  dsimp only
  with_reducible repeat' first | assumption | apply State.put_timers

theorem State.countStep_timers (k : Nat) (up : Bool) (n : Nat) (h : TimersOnly s t) : TimersOnly s (t.countStep k up n) := by
  unfold State.countStep
  dsimp only
  with_reducible repeat' first
    | assumption | apply State.onCount_timers | apply State.compareMet_timers | apply State.countOne_timers
    | apply State.recapture_timers | simp only [TimersOnly.upd_iff] | split

theorem State.countAll_timers (sel : State → Nat → Option Bool) (n : Nat) (h : TimersOnly s t) : TimersOnly s (t.countAll sel n) := by
  refine .foldl _ (fun u k hu => ?_) h
  with_reducible repeat' first | assumption | apply State.countStep_timers | split

theorem State.clearCnt_timers (k n : Nat) (h : TimersOnly s t) : TimersOnly s (t.clearCnt k n) := by
  unfold State.clearCnt
  dsimp only
  with_reducible repeat' first | assumption | apply State.put_timers | simp only [TimersOnly.upd_iff] | split

theorem State.clearAll_timers (sel : State → Nat → Bool) (n : Nat) (h : TimersOnly s t) : TimersOnly s (t.clearAll sel n) := by
  refine .foldl _ (fun u k hu => ?_) h
  with_reducible repeat' first | assumption | apply State.clearCnt_timers | split

theorem State.capture_timers (j : Nat) (h : TimersOnly s t) : TimersOnly s (t.capture j) := by
  unfold State.capture
  dsimp only
  with_reducible repeat' first
    | assumption | apply State.raise_timers | apply State.bump_timers | apply State.put_timers | apply State.setCap_timers
    | simp only [TimersOnly.upd_iff] | split

theorem State.captureAll_timers (src : Nat) (kind : Option Nat) (h : TimersOnly s t) : TimersOnly s (t.captureAll src kind) := by
  refine .foldl _ (fun u k hu => ?_) h
  with_reducible repeat' first | assumption | apply State.capture_timers | split

theorem State.syncPulse_timers (h : TimersOnly s t) : TimersOnly s (t.syncPulse) := by
  unfold State.syncPulse
  dsimp only
  with_reducible repeat' first | assumption | simp only [TimersOnly.upd_iff] | split

theorem State.ccFire_timers (j : Nat) (h : TimersOnly s t) : TimersOnly s (t.ccFire j) := by
  unfold State.ccFire
  dsimp only
  with_reducible repeat' first
    | assumption | apply State.syncPulse_timers | apply State.capture_timers | apply State.raise_timers | apply State.put_timers
    | apply State.bump_timers | apply State.at_timers | simp only [TimersOnly.upd_iff] | split

theorem State.filtSet_timers (i n : Nat) (h : TimersOnly s t) : TimersOnly s (t.filtSet i n) := by
  unfold State.filtSet
  with_reducible repeat' first | assumption | simp only [TimersOnly.upd_iff]

theorem State.encSample_timers (a b : Bool) (n : Nat) (h : TimersOnly s t) : TimersOnly s (t.encSample a b n) := by
  unfold State.encSample
  dsimp only
  with_reducible repeat' first
    | assumption | apply State.countAll_timers | apply State.raise_timers | apply State.put_timers
    | dsimp only | split

theorem State.encEdge_timers (a b : Bool) (n : Nat) (h : TimersOnly s t) : TimersOnly s (t.encEdge a b n) := by
  unfold State.encEdge
  dsimp only
  with_reducible repeat' first
    | assumption | apply State.encSample_timers | apply State.filtSet_timers | apply State.at_timers
    | simp only [TimersOnly.upd_iff] | split

theorem State.zSample_timers (b : Bool) (n : Nat) (h : TimersOnly s t) : TimersOnly s (t.zSample b n) := by
  unfold State.zSample
  dsimp only
  with_reducible repeat' first
    | assumption | apply State.clearAll_timers | apply State.captureAll_timers | apply State.put_timers
    | simp only [TimersOnly.upd_iff] | split

theorem State.zEdge_timers (b : Bool) (n : Nat) (h : TimersOnly s t) : TimersOnly s (t.zEdge b n) := by
  unfold State.zEdge
  with_reducible repeat' first
    | assumption | apply State.zSample_timers | apply State.filtSet_timers | apply State.at_timers
    | simp only [TimersOnly.upd_iff] | split

theorem State.encFaultEnd_timers (ins n : Nat) (h : TimersOnly s t) : TimersOnly s (t.encFaultEnd ins n) :=
  .foldl _ (fun _ _ k => State.filtSet_timers _ _ (State.put_timers _ _ k)) h

theorem State.encAfterFault_timers (ins lv n : Nat) (h : TimersOnly s t) : TimersOnly s (t.encAfterFault ins lv n) := by
  unfold State.encAfterFault
  dsimp only
  with_reducible repeat' first
    | assumption | apply State.encSample_timers | apply State.filtSet_timers | apply State.at_timers
    | dsimp only | split

theorem State.zAfterFault_timers (ins lv n : Nat) (h : TimersOnly s t) : TimersOnly s (t.zAfterFault ins lv n) := by
  unfold State.zAfterFault
  dsimp only
  with_reducible repeat' first
    | assumption | apply State.zSample_timers | apply State.filtSet_timers | apply State.at_timers
    | simp only [TimersOnly.upd_iff] | split

theorem State.encFaultClear_timers (ins lv n : Nat) (h : TimersOnly s t) : TimersOnly s (t.encFaultClear ins lv n) := by
  unfold State.encFaultClear
  dsimp only
  with_reducible repeat' first
    | assumption | apply State.encAfterFault_timers | apply State.zAfterFault_timers | apply State.encFaultEnd_timers
    | apply State.at_timers | simp only [TimersOnly.upd_iff] | split

theorem State.markEdge_timers (i k n : Nat) (h : TimersOnly s t) : TimersOnly s (t.markEdge i k n) := by
  unfold State.markEdge
  dsimp only
  with_reducible repeat' first | assumption | apply State.tokenRemark_timers | simp only [TimersOnly.upd_iff] | split

theorem State.trigEdge_timers (i : Nat) (b : Bool) (n : Nat) (h : TimersOnly s t) : TimersOnly s (t.trigEdge i b n) := by
  unfold State.trigEdge
  dsimp only
  with_reducible repeat' first
    | assumption | apply State.areaTrigger_timers | apply State.tickTrigger_timers | apply State.markEdge_timers
    | apply State.clearAll_timers | apply State.captureAll_timers | apply State.countAll_timers | apply State.put_timers
    | apply State.filtSet_timers | apply State.at_timers | simp only [TimersOnly.upd_iff] | split

end
end Sys2Proof.Machine
end

/-! PROOFS. One count of a TIMER counter (R84–R86). -/
section
namespace Sys2Proof.Machine

section
variable {s t : State} {L : List Nat} {k : Nat}

/-! ## What the counts of a counter see -/

theorem State.cnt_lt (s : State) (k : Nat) : s.cnt k < 2 ^ 32 := s.get_lt _

theorem State.linked_of_regsSame (h : s.regsSame t L) (hL : R.TMR_LINK_LINK.reg ∉ L) (k : Nat) : t.linked k = s.linked k := by
  simp only [State.linked, State.get_of_regsSame h hL]

/-- A new value of a counter is read, and the other counters are as before. -/
theorem State.cnt_put_cnt (s : State) (k v i : Nat) : (s.put (R.CNTk_VAL_VAL k) v).cnt i = if i = k then v % 2 ^ 32 else s.cnt i := by
  split
  · next h =>
    subst h
    exact s.get_put_same v (by simp only [R.CNTk_VAL_VAL]; omega)
  · next h => exact s.get_put_reg v (by simp only [R.CNTk_VAL_VAL]; omega)

/-- The registers of captured values: none is a counter's value or the link register. -/
def allCapRegs : List Nat := (List.range 12).flatMap capRegs

theorem cnt_notMem_allCapRegs (hk : k < 8) : (R.CNTk_VAL_VAL k).reg ∉ allCapRegs := by
  have hbelow : ∀ r ∈ allCapRegs, (R.CNTk_VAL_VAL 8).reg ≤ r := by decide
  intro h
  have := hbelow _ h
  simp only [R.CNTk_VAL_VAL] at this
  omega

theorem capRegs_subset {j : Nat} (hj : j < 12) : capRegs j ⊆ allCapRegs :=
  fun _ ha => List.mem_flatMap.2 ⟨j, List.mem_range.2 hj, ha⟩

theorem State.recapture_regsSame_cap (up : Bool) (hk : k < 6) : s.regsSame (s.recapture k up) allCapRegs := by
  refine State.regsSame_foldl _ fun u j hj _ => State.setCap_regsSame _ (capRegs_subset ?_)
  obtain rfl | rfl : j = 2 * k ∨ j = 2 * k + 1 := by simpa using List.mem_of_mem_filter hj
  all_goals omega

theorem State.cnt_recapture (up : Bool) (hk : k < 6) {i : Nat} (hi : i < 8) : (s.recapture k up).cnt i = s.cnt i :=
  State.get_of_regsSame (State.recapture_regsSame_cap up hk) (cnt_notMem_allCapRegs hi)

theorem State.cnt_compareMet (s : State) (k i : Nat) : (s.compareMet k).cnt i = s.cnt i := State.get_upd _

theorem State.cnt_countOne_up (s : State) (k i : Nat) : (s.countOne k true).cnt i = if i = k then (s.cnt k + 1) % 2 ^ 32 else s.cnt i :=
  State.cnt_put_cnt s k _ i

theorem State.cnt_onCount (s : State) (up : Bool) (n : Nat) {i : Nat} (hi : i < 8) : (s.onCount up n).cnt i = s.cnt i := by
  have hbelow : ∀ r ∈ divRegs, (R.CNTk_VAL_VAL 8).reg ≤ r := by decide
  refine State.get_of_regsSame (s.onCount_regsSame up n) fun h => ?_
  have := hbelow _ h
  simp only [R.CNTk_VAL_VAL] at this
  omega

/-! ## A count step -/

/-- A count step before the divider hears of it. -/
def State.countOnly (s : State) (k : Nat) (up : Bool) (n : Nat) : State :=
  let s0 := s.recapture k up
  if mapFind s.tmr.clrAt k = some n then s0
  else
    let c := s0.countOne k up
    if s.linked k && k % 2 = 0 then
      let carry := if up then c.cnt k = 0 else s.cnt k = 0
      if carry then (((c.recapture (k + 1) up).countOne (k + 1) up).compareMet k).compareMet (k + 1) else c.compareMet k
    else c.compareMet k

theorem State.countStep_eq (up : Bool) (n : Nat) :
    s.countStep k up n = if k = 0 then (s.countOnly k up n).onCount up n else s.countOnly k up n := rfl

/-- A counter that was reset in the same timer clock is not counted (R85). -/
theorem State.cnt_countOnly_reset (up : Bool) (n : Nat) (hk : k < 6) (hr : mapFind s.tmr.clrAt k = some n) {i : Nat} (hi : i < 8) :
    (s.countOnly k up n).cnt i = s.cnt i := by
  rw [State.countOnly, if_pos hr]
  exact State.cnt_recapture up hk hi

/-- A count upwards: the counter by one, the high counter of a linked pair where the low one passes its end (R86). -/
theorem State.cnt_countOnly_up (n : Nat) (hk : k < 6) (hr : mapFind s.tmr.clrAt k ≠ some n) (hlow : s.linked k = true → k % 2 = 0)
    {i : Nat} (hi : i < 8) : (s.countOnly k true n).cnt i =
      if i = k then (s.cnt k + 1) % 2 ^ 32
      else if i = k + 1 ∧ s.linked k = true ∧ (s.cnt k + 1) % 2 ^ 32 = 0 then (s.cnt (k + 1) + 1) % 2 ^ 32 else s.cnt i := by
  have hc (j : Nat) (hj : j < 8) : ((s.recapture k true).countOne k true).cnt j = if j = k then (s.cnt k + 1) % 2 ^ 32 else s.cnt j := by
    rw [State.cnt_countOne_up, State.cnt_recapture true hk hj, State.cnt_recapture true hk (by omega)]
  have hck := hc k (by omega)
  rw [if_pos rfl] at hck
  rw [State.countOnly, if_neg hr]
  simp only [if_true, hck]
  by_cases hl : s.linked k = true
  · have he := hlow hl
    by_cases h0 : (s.cnt k + 1) % 2 ^ 32 = 0
    · have hk1 : k + 1 < 6 := by omega
      simp only [hl, he, h0, decide_true, Bool.and_self, if_true, and_self, and_true, State.cnt_compareMet, State.cnt_countOne_up]
      rw [State.cnt_recapture true hk1 hi, State.cnt_recapture true hk1 (by omega), hc i hi, hc (k + 1) (by omega), h0,
        if_neg (Nat.succ_ne_self k)]
      split_ifs <;> omega
    · simp only [hl, he, h0, decide_true, Bool.and_self, if_true, if_false, and_false, State.cnt_compareMet]
      exact hc i hi
  · simp only [hl, Bool.false_and, Bool.false_eq_true, if_false, false_and, and_false, State.cnt_compareMet]
    exact hc i hi

theorem State.cnt_countStep (up : Bool) (n : Nat) {i : Nat} (hi : i < 8) : (s.countStep k up n).cnt i = (s.countOnly k up n).cnt i := by
  rw [State.countStep_eq]
  split
  · exact State.cnt_onCount _ up n hi
  · rfl

theorem State.linked_countStep (up : Bool) (n : Nat) (hk : k < 6) : (s.countStep k up n).linked k = s.linked k := by
  refine State.linked_of_regsSame (L := (List.range 6).flatMap countRegs ++ divRegs) (State.countStep_regsSame up n ?_ (fun hl he => ?_) ?_) (by decide) k
  · exact fun _ ha => List.mem_append_left _ (List.mem_flatMap.2 ⟨k, List.mem_range.2 hk, ha⟩)
  · obtain ⟨hk1, -⟩ := State.linkedHigh_succ hl he
    exact fun _ ha => List.mem_append_left _ (List.mem_flatMap.2 ⟨k + 1, List.mem_range.2 hk1, ha⟩)
  · exact List.subset_append_right _ _

theorem even_of_linked (hlow : s.linkedHigh k = false) (hl : s.linked k = true) : k % 2 = 0 := by
  simp only [State.linkedHigh, hl, Bool.true_and, decide_eq_false_iff_not] at hlow
  omega

/-- A count is one more as the host counts: 32 bits, or 64 for a linked pair. -/
theorem wideCount_countStep (n : Nat) (hk : k < 6) (hlow : s.linkedHigh k = false) (hr : mapFind s.tmr.clrAt k ≠ some n) :
    wideCount (s.countStep k true n) k = (wideCount s k + 1) % (if s.linked k then 2 ^ 64 else 2 ^ 32) := by
  have hlow' := even_of_linked hlow
  have hlt := s.cnt_lt k
  have hlt1 := s.cnt_lt (k + 1)
  simp only [wideCount, State.linked_countStep true n hk, State.cnt_countStep true n (show k < 8 by omega),
    State.cnt_countStep true n (show k + 1 < 8 by omega), State.cnt_countOnly_up n hk hr hlow' (show k < 8 by omega),
    State.cnt_countOnly_up n hk hr hlow' (show k + 1 < 8 by omega), if_true, if_neg (Nat.succ_ne_self k)]
  by_cases hl : s.linked k = true
  · simp only [hl, if_true, true_and]
    split_ifs <;> omega
  · simp only [hl, if_false, Bool.false_eq_true, Nat.add_zero]

end

/-- A count that is due counts its counter from the time it comes. -/
theorem State.timerCount_due {s : State} {k t0 : Nat} (hd : s.dom dCLK = true) (hk : k < 6) (hm : s.cntMode k = 1)
    (hlow : s.linkedHigh k = false) (hdue : s.timerDue k ≤ max s.now t0) : ∃ u : State, TimersOnly s u ∧ s.regsSame u [] ∧
      u.tmr.clrAt = s.tmr.clrAt ∧ s.timerCount k t0 = u.countStep k true t0 := by
  refine ⟨{ s.at t0 with tmr := { s.tmr with prescAt := mapIns s.tmr.prescAt k (s.timerDue k) } }, ?_, ?_, rfl, ?_⟩
  · exact .upd (State.at_timers t0 (.refl s))
  · exact .of_regs rfl
  · have hgo : ((s.at t0).dom dCLK && k < 6 && (s.at t0).cntMode k = 1 && !(s.at t0).linkedHigh k &&
        (s.at t0).timerDue k ≤ (s.at t0).now) = true := by
      have hk' : decide (k < 6) = true := decide_eq_true hk
      have hdue' : decide (s.timerDue k ≤ max s.now t0) = true := decide_eq_true hdue
      change (s.dom dCLK && k < 6 && s.cntMode k = 1 && !s.linkedHigh k && s.timerDue k ≤ max s.now t0) = true
      rw [hd, hk', hm, hlow, hdue']
      rfl
    rw [State.timerCount, if_pos hgo]
    rfl

/-- Settles O2: a due count is one count step; what it does to a counter is the arithmetic of the pair. -/
theorem timerCountCountsOne : Obligations.TimerCountCountsOne := by
  unfold Obligations.TimerCountCountsOne
  intro s k t0 hd hk hm hlow
  refine ⟨fun hdue hr => ?counts, fun hdue hr => ?reset, fun hdue => ?early⟩
  case counts =>
    obtain ⟨u, hu, hregs, hclr, heq⟩ := State.timerCount_due hd hk hm hlow hdue
    have hlink : u.linked k = s.linked k := State.linked_of_regsSame hregs (by simp) k
    have hcnt (i : Nat) : u.cnt i = s.cnt i := State.get_of_regsSame hregs (by simp)
    have hlow' : u.linkedHigh k = false := by rw [State.linkedHigh_of_regsSame hregs (by simp), hlow]
    have hr' : mapFind u.tmr.clrAt k ≠ some t0 := by rwa [hclr]
    refine ⟨s.timerCount k t0, rfl, ?_⟩
    rw [heq]
    refine ⟨?_, fun i hi hik hpair => ?_, (State.countStep_timers k.val true t0 hu).byte⟩
    · rw [wideCount_countStep t0 hk hlow' hr', hlink]
      simp only [wideCount, hlink, hcnt]
    · rw [State.cnt_countStep true t0 hi, State.cnt_countOnly_up t0 hk hr' (even_of_linked hlow') hi, if_neg hik, if_neg, hcnt]
      rintro ⟨rfl, hl, -⟩
      exact hpair (hlink ▸ hl) rfl
  case reset =>
    obtain ⟨u, hu, hregs, hclr, heq⟩ := State.timerCount_due hd hk hm hlow hdue
    refine ⟨s.timerCount k t0, rfl, ?_⟩
    rw [heq]
    refine ⟨fun i hi => ?_, (State.countStep_timers k.val true t0 hu).byte⟩
    rw [State.cnt_countStep true t0 hi, State.cnt_countOnly_reset true t0 hk (by rwa [hclr]) hi]
    exact State.get_of_regsSame hregs (by simp)
  case early =>
    have hstay : s.timerCount k t0 = s.at t0 := by
      have hnot : decide (s.timerDue k ≤ max s.now t0) = false := decide_eq_false (Nat.not_le.2 hdue)
      have hno : ((s.at t0).dom dCLK && k.val < 6 && (s.at t0).cntMode k = 1 && !(s.at t0).linkedHigh k &&
          (s.at t0).timerDue k ≤ (s.at t0).now) = false := by
        change (s.dom dCLK && k.val < 6 && s.cntMode k = 1 && !s.linkedHigh k && s.timerDue k ≤ max s.now t0) = false
        rw [hnot, Bool.and_false]
      rw [State.timerCount, if_neg (by rw [hno]; exact Bool.false_ne_true)]
    refine ⟨s.timerCount k t0, rfl, ?_⟩
    rw [hstay]
    exact ⟨rfl, only_at s t0⟩

end Sys2Proof.Machine
end

/-! PROOFS. The snapshot (R87, R93): the clock before an edge that is to be exposed. -/
section
namespace Sys2Proof.Machine

/-- RUN with every domain on, one timer clock before a tick edge 550 clocks behind the last exposed one. The active bank is 126, a number that no
bank has, whose slot registers stand where the snapshot registers do: the values that the snapshot stores change the frame cap. -/
def collidingBank : State :=
  { now := 1000, tick := { queue := [{ edge := 1001 }], lastExposed := some 451 }, job := { active := some 126 },
    regs := [(R.EXP_CHECK_CODE_B.reg, 0), ((R.CNTk_VAL_VAL 0).reg, 1), ((R.CNTk_VAL_VAL 1).reg, 50000),
      (R.PWR_STAT_STATE.reg, 1), (R.PWR_DOM_STAT_ON.reg, 0x1FFFFFF)],
    force := [(R.TICK_CTRL_RATE_CAP.reg, 400000), (R.TICK_CAP_THERM_HZ.reg, 400000)] }

theorem collidingBank_edgeCount : collidingBank.edgeCount = 0xFFFFFFFF := by decide +kernel

/-- CNT6 is copied behind CNT0 and CNT1, whose copies the colliding bank takes for its first slot: the edge is not admitted any more. -/
theorem collidingBank_snapshot : collidingBank.snapshot.get (R.SNAPk_VAL 6) = 549 := by decide +kernel

/-- Refutes O3: the statement is for every state, also one whose active bank is a number that no bank has. With bank 126 active, whose slots would lie
in the snapshot registers, the copies of CNT0 and CNT1 change whether the next edge is admitted, so that CNT6 is copied as 549 where it read
0xFFFFFFFF before the snapshot. -/
theorem not_channelFireSnapshotClear : ¬ Obligations.ChannelFireSnapshotClear := by
  unfold Obligations.ChannelFireSnapshotClear
  rintro ⟨-, hsnapshot, -⟩
  have hexec : exec .snapshot collidingBank = .next collidingBank.snapshot := by
    have hs : collidingBank.served 0x016 = true := by decide +kernel
    change execSnapshot collidingBank = _
    rw [execSnapshot, if_pos hs]
  obtain ⟨t, ht, -, hedge, -⟩ := hsnapshot collidingBank (by decide +kernel) (by decide +kernel)
  rw [hexec, Host.Outcome.next.injEq] at ht
  have h6 := hedge 6 (.inl rfl)
  rw [← ht, collidingBank_snapshot, collidingBank_edgeCount] at h6
  exact absurd h6 (by decide)

end Sys2Proof.Machine
end

/-! PROOFS. The inputs (R79–R83): what accepted edges and faults show, and that none touches memory. -/
section
namespace Sys2Proof.Machine

/-! ## Registers bit by bit -/

section
variable (s : State)

theorem State.bit_get (f : Fld) {j : Nat} (hj : j < f.w) : bit (s.get f) j = (s.reg f.reg).toNat.testBit (f.lo + j) := by
  rw [bit_eq_testBit, State.get, testBit_bits, decide_eq_true hj, Bool.true_and]

theorem State.get_one_bit (r lo : Nat) : s.get ⟨r, lo, 1⟩ = ((s.reg r).toNat.testBit lo).toNat := by
  simp only [State.get, bits, Nat.pow_one]
  rw [Nat.testBit_eq_decide_div_mod_eq]
  rcases Nat.mod_two_eq_zero_or_one ((s.reg r).toNat / 2 ^ lo) with h | h <;> simp [h]

theorem State.testBit_reg_put {f : Fld} (v i : Nat) (h : f.lo + f.w ≤ 32) : ((s.put f v).reg f.reg).toNat.testBit i =
    if f.lo ≤ i ∧ i < f.lo + f.w then v.testBit (i - f.lo) else (s.reg f.reg).toNat.testBit i := by
  rw [State.put, State.reg_setReg_same, BitVec.toNat_ofNat, Nat.mod_eq_of_lt (insBits_lt v (s.reg f.reg).isLt h), testBit_insBits]

/-- An INT_RAW bit that is set stays set when another event is told (R412). -/
theorem State.get_intRawBit_raise {e e' : Ev} (he : e.bit < 32) (hc : ∀ b, e.cnt = some b → b < 16) (h : s.get (intRawBit e') = 1) : (s.raise e).get (intRawBit e') = 1 := by
  have hput : (s.put (intRawBit e) 1).get (intRawBit e') = 1 := by
    by_cases hb : e'.page = e.page ∧ e'.bit = e.bit
    · rw [show intRawBit e' = intRawBit e by rw [intRawBit, hb.1, hb.2, intRawBit]]
      exact s.get_put_same 1 (by simp only [intRawBit]; omega)
    · rw [s.get_put_other 1, h]
      simp only [intRawBit]
      omega
  have hreg : (s.raise e).reg (intRawBit e').reg = (s.put (intRawBit e) 1).reg (intRawBit e').reg := by
    cases hcnt : e.cnt with
    | none => exact s.reg_raise_none e hcnt _
    | some b =>
      have hb := hc b hcnt
      rw [s.reg_raise_some e b hcnt]
      exact State.reg_put_other _ _ (by simp only [intRawBit, evtCnt]; omega)
  rwa [State.get, hreg]

end

/-! ## The levels and faults of ENC_STAT -/

section
variable {s t : State} {L : List Nat}

theorem State.encA_of_get (h : t.get R.ENC_STAT_LEVEL = s.get R.ENC_STAT_LEVEL) : t.encA = s.encA := by rw [State.encA, h, State.encA]
theorem State.encB_of_get (h : t.get R.ENC_STAT_LEVEL = s.get R.ENC_STAT_LEVEL) : t.encB = s.encB := by rw [State.encB, h, State.encB]
theorem State.encZ_of_get (h : t.get R.ENC_STAT_LEVEL = s.get R.ENC_STAT_LEVEL) : t.encZ = s.encZ := by rw [State.encZ, h, State.encZ]

/-- What counts may change: the counters, captures of the same clock, and the divider's. -/
def allCountRegs : List Nat := (List.range 6).flatMap countRegs ++ divRegs

theorem countRegs_subset {k : Nat} (hk : k < 6) : countRegs k ⊆ allCountRegs :=
  fun _ ha => List.mem_append_left _ (List.mem_flatMap.2 ⟨k, List.mem_range.2 hk, ha⟩)

theorem State.countAll_regsSame (sel : State → Nat → Option Bool) (n : Nat) : s.regsSame (s.countAll sel n) allCountRegs := by
  refine State.regsSame_foldl _ fun u k hk _ => ?_
  have hk : k < 6 := List.mem_range.1 hk
  split
  · exact .refl
  · split
    · exact .refl
    · exact State.countStep_regsSame _ n (countRegs_subset hk) (fun hl he => countRegs_subset (State.linkedHigh_succ hl he).1)
        (List.subset_append_right _ _)

/-- The levels that a sample leaves: those of A and B as they were sampled. -/
def levelsOf (a b z : Bool) : Nat := boolNat a + 2 * boolNat b + 4 * boolNat z

theorem levelsOf_lt (a b z : Bool) : levelsOf a b z < 8 := by
  cases a <;> cases b <;> cases z <;> decide

theorem get_level_eq (s : State) : s.get R.ENC_STAT_LEVEL = levelsOf s.encA s.encB s.encZ := by
  have hlt : s.get R.ENC_STAT_LEVEL < 8 := s.get_lt _
  unfold State.encA State.encB State.encZ
  generalize s.get R.ENC_STAT_LEVEL = v at hlt ⊢
  interval_cases v <;> rfl

theorem State.encSample_spec (s : State) (a b : Bool) (n : Nat) : (s.encSample a b n).get R.ENC_STAT_LEVEL = levelsOf a b s.encZ ∧
    s.regsSame (s.encSample a b n) (R.ENC_STAT_LEVEL.reg :: toldRegs E.TMR_QERR ++ allCountRegs) ∧
    (s.encSample a b n).get R.ENC_STAT_FAULT = s.get R.ENC_STAT_FAULT := by
  by_cases hsame : s.encA = a ∧ s.encB = b
  · obtain ⟨rfl, rfl⟩ := hsame
    have h : s.encSample s.encA s.encB n = s := by simp [State.encSample]
    rw [h]
    exact ⟨get_level_eq s, .refl, rfl⟩
  · have hlevel : (s.put R.ENC_STAT_LEVEL (levelsOf a b s.encZ)).get R.ENC_STAT_LEVEL = levelsOf a b s.encZ :=
      s.get_put_fits (by decide) (levelsOf_lt _ _ _)
    have hfault : (s.put R.ENC_STAT_LEVEL (levelsOf a b s.encZ)).get R.ENC_STAT_FAULT = s.get R.ENC_STAT_FAULT :=
      s.get_put_bits _ (by decide)
    have hput : s.regsSame (s.put R.ENC_STAT_LEVEL (levelsOf a b s.encZ)) [R.ENC_STAT_LEVEL.reg] := State.regsSame_put _ (by simp)
    have hsample : ∃ u : State, u.regsSame (s.encSample a b n) allCountRegs ∧
        (s.put R.ENC_STAT_LEVEL (levelsOf a b s.encZ)).regsSame u (toldRegs E.TMR_QERR) := by
      unfold State.encSample
      rw [if_neg (by simpa using hsame)]
      dsimp only
      refine ⟨_, (State.countAll_regsSame _ n).trans (State.countAll_regsSame _ n), ?_⟩
      exact State.regsSame_ite (State.regsSame_raise (List.Subset.refl _)) .refl
    obtain ⟨u, hcounts, hq⟩ := hsample
    have hget (f : Fld) (hf : f.reg = R.ENC_STAT_LEVEL.reg) : (s.encSample a b n).get f = (s.put R.ENC_STAT_LEVEL (levelsOf a b s.encZ)).get f := by
      rw [State.get_of_regsSame hcounts (by rw [hf]; decide), State.get_of_regsSame hq (by rw [hf]; decide)]
    refine ⟨(hget _ rfl).trans hlevel, ?_, (hget R.ENC_STAT_FAULT rfl).trans hfault⟩
    have hrest : (s.put R.ENC_STAT_LEVEL (levelsOf a b s.encZ)).regsSame (s.encSample a b n)
        (R.ENC_STAT_LEVEL.reg :: toldRegs E.TMR_QERR ++ allCountRegs) :=
      (hq.mono fun _ h => List.mem_append_left _ (List.mem_cons_of_mem _ h)).trans (hcounts.mono fun _ h => List.mem_append_right _ h)
    exact (hput.mono (by simp)).trans hrest

theorem encA_levelsOf {v : Nat} {a b z : Bool} (h : v = levelsOf a b z) : bit v 0 = a ∧ bit v 1 = b ∧ bit v 2 = z := by
  rw [h]
  exact bit_levels a b z

theorem State.encSample_levels (s : State) (a b : Bool) (n : Nat) :
    (s.encSample a b n).encA = a ∧ (s.encSample a b n).encB = b ∧ (s.encSample a b n).encZ = s.encZ :=
  encA_levelsOf (s.encSample_spec a b n).1

/-- Some counter counts in quadrature. -/
def State.someQuad (s : State) : Prop := ∃ k, k < 6 ∧ s.linkedHigh k = false ∧ 2 ≤ s.cntMode k ∧ s.cntMode k ≤ 4

theorem State.qerr_encSample (a b : Bool) (n : Nat) (ha : s.encA ≠ a) (hb : s.encB ≠ b) (hq : s.someQuad) :
    (s.encSample a b n).get (intRawBit E.TMR_QERR) = 1 := by
  obtain ⟨k, hk, hq⟩ := hq
  exact (State.told_encSample_both a b n ha hb hk hq).1

/-- An edge that neither filter accepts leaves everything but time as it was (R79, R81). -/
theorem State.encEdge_deaf {a b : Bool} {n : Nat} (hd : s.dom dCLK = true) (h : ∀ i, i < 2 → ¬ hears s i n) : s.encEdge a b n = s.at n := by
  have htake (i : Nat) (hi : i < 2) (old new : Bool) : (s.at n).encTake i old new n = old := by
    have hdeaf : ((s.at n).encFault i || !(s.at n).filtOk i ((s.at n).encHold i) n) = true := by
      change (s.encFault i || !s.filtOk i (s.encHold i) n) = true
      have := h i hi
      unfold hears at this
      cases hf : s.encFault i <;> simp_all
    rw [State.encTake, if_pos hdeaf]
  have hsame : (s.at n).encSample (s.at n).encA (s.at n).encB n = s.at n := by simp [State.encSample]
  unfold State.encEdge
  simp only [hd, Bool.not_true, Bool.false_eq_true, if_false, htake 0 (by omega), htake 1 (by omega), if_true]
  exact hsame

/-! ## Z -/

theorem State.zSample_frame (level : Bool) (n : Nat) : (s.putZ level).regsSame (s.zSample level n) (allCaptureRegs ++ cntRegs) := by
  rw [s.zSample_eq level n]
  split
  · exact ((State.captureAll_regsSame 4 none).mono (List.subset_append_left _ _)).trans
      ((State.clearAll_regsSame _ n).mono (List.subset_append_right _ _))
  · exact .refl

theorem State.get_putZ_fault (s : State) (level : Bool) : (s.putZ level).get R.ENC_STAT_FAULT = s.get R.ENC_STAT_FAULT :=
  s.get_put_bits _ (by decide)

theorem State.zSample_spec (s : State) (level : Bool) (n : Nat) : (s.zSample level n).get R.ENC_STAT_LEVEL = levelsOf s.encA s.encB level ∧
    (s.zSample level n).get R.ENC_STAT_FAULT = s.get R.ENC_STAT_FAULT := by
  have hget (f : Fld) (hf : f.reg = R.ENC_STAT_LEVEL.reg) : (s.zSample level n).get f = (s.putZ level).get f :=
    State.get_of_regsSame (State.zSample_frame level n) (by rw [hf]; decide)
  exact ⟨(hget _ rfl).trans (s.get_putZ level), (hget R.ENC_STAT_FAULT rfl).trans (s.get_putZ_fault level)⟩

theorem State.zSample_levels (s : State) (level : Bool) (n : Nat) :
    (s.zSample level n).encA = s.encA ∧ (s.zSample level n).encB = s.encB ∧ (s.zSample level n).encZ = level :=
  encA_levelsOf (s.zSample_spec level n).1

end
end Sys2Proof.Machine
end

/-! PROOFS. The ends of faults and trigger edges (R81, R83). -/
section
namespace Sys2Proof.Machine

/-! ## The inputs whose faults end -/

/-- Those of a mask's three inputs for which a test holds. -/
def maskAnd (v : Nat) (p : Nat → Bool) : Nat := (bitsOf 3 v).foldl (fun m i => if p i then m + 2 ^ i else m) 0

theorem bit_maskAnd (v : Nat) (p : Nat → Bool) : ∀ i, i < 3 → bit (maskAnd v p) i = (bit v i && p i) := by
  have key : ∀ b0 b1 b2 p0 p1 p2 : Bool, ∀ i : Fin 3,
      bit ((([0, 1, 2] : List Nat).filter fun i => [b0, b1, b2].getD i false).foldl
        (fun m i => if [p0, p1, p2].getD i false then m + 2 ^ i else m) 0) i = ([b0, b1, b2].getD i false && [p0, p1, p2].getD i false) := by
    decide
  intro i hi
  have h := key (bit v 0) (bit v 1) (bit v 2) (p 0) (p 1) (p 2) ⟨i, hi⟩
  have hfold : maskAnd v p = (([0, 1, 2] : List Nat).filter fun i => [bit v 0, bit v 1, bit v 2].getD i false).foldl
      (fun m i => if [p 0, p 1, p 2].getD i false then m + 2 ^ i else m) 0 := by
    have hbits : bitsOf 3 v = ([0, 1, 2] : List Nat).filter fun i => [bit v 0, bit v 1, bit v 2].getD i false := by
      simp [bitsOf, List.range, List.range.loop, List.filter_cons]
    rw [maskAnd, hbits]
    refine List.foldl_ext _ _ _ fun m i hmem => ?_
    have hi : i ∈ ([0, 1, 2] : List Nat) := List.mem_of_mem_filter hmem
    simp only [List.mem_cons, List.not_mem_nil, or_false] at hi
    obtain rfl | rfl | rfl := hi <;> rfl
  rw [hfold, h]
  interval_cases i <;> rfl

section
variable {s t : State}

theorem State.ite_of {P : State → Prop} {c : Prop} [Decidable c] (h : P s) (h' : P t) : P (if c then s else t) := by
  split
  · exact h
  · exact h'

/-- A bit of the field FAULT after bit i of it is cleared. -/
theorem State.encFault_clear (s : State) {i j : Nat} (hi : i < 3) (hj : j < 3) :
    (s.put ⟨R.ENC_STAT_FAULT.reg, 3 + i, 1⟩ 0).encFault j = (decide (j ≠ i) && s.encFault j) := by
  unfold State.encFault
  rw [State.bit_get _ _ (show j < 3 from hj), State.bit_get _ _ (show j < 3 from hj)]
  change ((s.put ⟨R.ENC_STAT_FAULT.reg, 3 + i, 1⟩ 0).reg (Fld.reg ⟨R.ENC_STAT_FAULT.reg, 3 + i, 1⟩)).toNat.testBit (3 + j) = _
  rw [State.testBit_reg_put _ _ _ (by simp only; omega)]
  by_cases hij : j = i
  · subst hij
    simp
  · rw [if_neg (by simp only; omega), decide_eq_true hij, Bool.true_and]
    rfl

theorem State.filtSet_regs (s : State) (i n : Nat) : (s.filtSet i n).regs = s.regs := rfl

/-- The end of faults clears their bits and leaves the rest of ENC_STAT, and every other register, as it was. -/
theorem State.encFaultEnd_spec (s : State) (ins n : Nat) :
    (∀ j, j < 3 → (s.encFaultEnd ins n).encFault j = (!bit ins j && s.encFault j)) ∧
    (s.encFaultEnd ins n).get R.ENC_STAT_LEVEL = s.get R.ENC_STAT_LEVEL ∧ s.regsSame (s.encFaultEnd ins n) [R.ENC_STAT_LEVEL.reg] := by
  have key (xs : List Nat) : (∀ x ∈ xs, x < 3) → ∀ s : State,
      let t := xs.foldl (fun s i => (s.put ⟨R.ENC_STAT_FAULT.reg, 3 + i, 1⟩ 0).filtSet i n) s
      (∀ j, j < 3 → t.encFault j = (decide (j ∉ xs) && s.encFault j)) ∧ t.get R.ENC_STAT_LEVEL = s.get R.ENC_STAT_LEVEL ∧
        s.regsSame t [R.ENC_STAT_LEVEL.reg] := by
    induction xs with
    | nil => exact fun _ s => ⟨fun j _ => by simp, rfl, .refl⟩
    | cons x xs ih =>
      intro hxs s
      have hx : x < 3 := hxs x List.mem_cons_self
      obtain ⟨hfault, hlevel, hregs⟩ := ih (fun y hy => hxs y (List.mem_cons_of_mem _ hy)) ((s.put ⟨R.ENC_STAT_FAULT.reg, 3 + x, 1⟩ 0).filtSet x n)
      refine ⟨fun j hj => ?_, hlevel.trans ?_, .trans ?_ hregs⟩
      · have hset : ((s.put ⟨R.ENC_STAT_FAULT.reg, 3 + x, 1⟩ 0).filtSet x n).encFault j = (s.put ⟨R.ENC_STAT_FAULT.reg, 3 + x, 1⟩ 0).encFault j := by
          unfold State.encFault
          rw [State.get_of_regs (State.filtSet_regs _ x n)]
        rw [List.foldl_cons, hfault j hj, hset, State.encFault_clear s hx hj]
        by_cases hjx : j = x <;> by_cases hmem : j ∈ xs <;> simp [hjx, hmem]
        all_goals simp_all
      · rw [State.get_of_regs (State.filtSet_regs _ x n)]
        exact s.get_put_bits _ (by simp only [R.ENC_STAT_LEVEL]; omega)
      · exact .trans (State.regsSame_put 0 (by simp [R.ENC_STAT_FAULT, R.ENC_STAT_LEVEL])) (.of_regs (State.filtSet_regs _ x n))
  obtain ⟨hfault, hrest⟩ := key (bitsOf 3 ins) (fun x hx => List.mem_range.1 (List.mem_of_mem_filter hx)) s
  refine ⟨fun j hj => ?_, hrest⟩
  rw [State.encFaultEnd, hfault j hj]
  congr 1
  simp [bitsOf, hj]

/-! ## The levels found behind the faults -/

/-- A level found where the fault has ended, else the one accepted before. -/
def foundLevel (ins levels i : Nat) (old : Bool) : Bool := if bit ins i then bit levels i else old

/-- The filters of A and B after levels that they accept at a time. -/
def State.accepting (s : State) (a b : Bool) (n : Nat) : State :=
  let s1 := s.at n
  let s2 := if a = s1.encA then s1 else s1.filtSet 0 n
  if b = s1.encB then s2 else s2.filtSet 1 n

theorem State.accepting_regs (s : State) (a b : Bool) (n : Nat) : (s.accepting a b n).regs = s.regs := by
  have h : (if a = (s.at n).encA then s.at n else (s.at n).filtSet 0 n).regs = s.regs := by split <;> rfl
  exact State.ite_of (P := fun u : State => u.regs = s.regs) h ((State.filtSet_regs _ _ _).trans h)

/-- The levels of A and B found behind their faults are one sample, or no change. -/
theorem State.encAfterFault_eq (s : State) (ins levels n : Nat) :
    (s.encAfterFault ins levels n = s ∧ foundLevel ins levels 0 s.encA = s.encA ∧ foundLevel ins levels 1 s.encB = s.encB) ∨
    ∃ u : State, u.regs = s.regs ∧ s.encAfterFault ins levels n =
      u.encSample (foundLevel ins levels 0 s.encA) (foundLevel ins levels 1 s.encB) (n + s.encHold 0) := by
  by_cases hsame : (foundLevel ins levels 0 s.encA = s.encA && foundLevel ins levels 1 s.encB = s.encB) = true
  · refine .inl ⟨?_, by simpa using hsame⟩
    rw [State.encAfterFault]
    exact if_pos hsame
  · refine .inr ⟨s.accepting (foundLevel ins levels 0 s.encA) (foundLevel ins levels 1 s.encB) (n + s.encHold 0), State.accepting_regs _ _ _ _, ?_⟩
    rw [State.encAfterFault]
    exact if_neg hsame

/-- What accepts a level keeps FAULT. -/
theorem State.encAfterFault_spec (s : State) (ins levels n : Nat) : (s.encAfterFault ins levels n).get R.ENC_STAT_LEVEL =
      levelsOf (foundLevel ins levels 0 s.encA) (foundLevel ins levels 1 s.encB) s.encZ ∧
    (s.encAfterFault ins levels n).get R.ENC_STAT_FAULT = s.get R.ENC_STAT_FAULT := by
  obtain ⟨heq, ha, hb⟩ | ⟨u, hu, heq⟩ := s.encAfterFault_eq ins levels n
  · rw [heq, ha, hb]
    exact ⟨get_level_eq s, rfl⟩
  · obtain ⟨hlevel, -, hfault⟩ := u.encSample_spec (foundLevel ins levels 0 s.encA) (foundLevel ins levels 1 s.encB) (n + s.encHold 0)
    rw [heq, hlevel, hfault, State.encZ_of_get (State.get_of_regs hu), State.get_of_regs hu]
    exact ⟨rfl, rfl⟩

theorem State.someQuad_of_regs (hr : t.regs = s.regs) (h : s.someQuad) : t.someQuad := by
  obtain ⟨k, hk, hq⟩ := h
  exact ⟨k, hk, State.inQuad_of_regsSame (L := []) (.of_regs hr) (by simp) (by simp) hq⟩

theorem State.qerr_encAfterFault (s : State) (ins levels n : Nat) (ha : foundLevel ins levels 0 s.encA ≠ s.encA)
    (hb : foundLevel ins levels 1 s.encB ≠ s.encB) (hq : s.someQuad) : (s.encAfterFault ins levels n).get (intRawBit E.TMR_QERR) = 1 := by
  obtain ⟨-, hsame, -⟩ | ⟨u, hu, heq⟩ := s.encAfterFault_eq ins levels n
  · exact absurd hsame ha
  · rw [heq]
    refine State.qerr_encSample _ _ _ ?_ ?_ (State.someQuad_of_regs hu hq)
    · rw [State.encA_of_get (State.get_of_regs hu)]; exact ha.symm
    · rw [State.encB_of_get (State.get_of_regs hu)]; exact hb.symm

/-- A level of Z found behind its fault is a sample of Z, or no change. -/
theorem State.zAfterFault_eq (s : State) (ins levels n : Nat) : ∃ u : State, u.regs = s.regs ∧ (s.zAfterFault ins levels n = u ∧
      foundLevel ins levels 2 s.encZ = s.encZ ∨ s.zAfterFault ins levels n = u.zSample (foundLevel ins levels 2 s.encZ) (n + s.encHold 2)) := by
  by_cases hsame : (!bit ins 2 || bit levels 2 = s.encZ) = true
  · refine ⟨s, rfl, .inl ⟨by rw [State.zAfterFault, if_pos hsame], ?_⟩⟩
    unfold foundLevel
    cases hb : bit ins 2 <;> simp_all
  · refine ⟨((s.at (n + s.encHold 2)).filtSet 2 (n + s.encHold 2)), rfl, .inr ?_⟩
    rw [State.zAfterFault, if_neg hsame, foundLevel, if_pos]
    cases hb : bit ins 2 <;> simp_all

theorem State.zAfterFault_spec (s : State) (ins levels n : Nat) :
    (s.zAfterFault ins levels n).get R.ENC_STAT_LEVEL = levelsOf s.encA s.encB (foundLevel ins levels 2 s.encZ) ∧
    (s.zAfterFault ins levels n).get R.ENC_STAT_FAULT = s.get R.ENC_STAT_FAULT := by
  obtain ⟨u, hu, ⟨heq, hsame⟩ | heq⟩ := s.zAfterFault_eq ins levels n
  · rw [heq, hsame, State.get_of_regs hu, State.get_of_regs hu]
    exact ⟨get_level_eq s, rfl⟩
  · obtain ⟨hlevel, hfault⟩ := u.zSample_spec (foundLevel ins levels 2 s.encZ) (n + s.encHold 2)
    rw [heq, hlevel, hfault, State.encA_of_get (State.get_of_regs hu), State.encB_of_get (State.get_of_regs hu), State.get_of_regs hu]
    exact ⟨rfl, rfl⟩

/-! ## What a sample of Z leaves of QERR -/

theorem State.get_intRawBit_capture {e : Ev} {j : Nat} (hj : j < 12) (h : s.get (intRawBit e) = 1) :
    (s.capture j).get (intRawBit e) = 1 := by
  have hcap : (s.captured j).get (intRawBit e) = 1 ∨ (intRawBit e).reg ∈ capRegs j := by
    by_cases hm : (intRawBit e).reg ∈ capRegs j
    · exact .inr hm
    · exact .inl ((State.get_of_only (State.captured_only j) hm).trans h)
  have hcap : (s.captured j).get (intRawBit e) = 1 := by
    refine hcap.resolve_right ?_
    simp only [intRawBit, capRegs, R.CCj_CAP_VAL, R.CCj_CAP_HI_VAL, List.mem_cons, List.not_mem_nil, or_false]
    omega
  rw [State.capture_eq]
  split
  · refine State.get_intRawBit_raise _ (by simp only [E.TMR_CC]; omega) (by simp [E.TMR_CC]) ?_
    rw [State.get_bump_reg _ (by simp only [intRawBit, R.CCj_STAT_OVR_CNT]; omega),
      State.get_put_reg _ _ (by simp only [intRawBit, R.CCj_STAT_OVR]; omega), hcap]
  · rw [State.get_of_only (State.capWaits_only j) (by simp), hcap]

theorem State.get_intRawBit_captureAll {e : Ev} (src : Nat) (kind : Option Nat) (h : s.get (intRawBit e) = 1) :
    (s.captureAll src kind).get (intRawBit e) = 1 := by
  refine List.foldlRecOn (motive := fun u : State => u.get (intRawBit e) = 1) _ _ h fun u hu j hj => ?_
  exact State.ite_of (P := fun u => u.get (intRawBit e) = 1) (State.get_intRawBit_capture (List.mem_range.1 hj) hu) hu

theorem State.get_qerr_zSample (level : Bool) (n : Nat) (h : s.get (intRawBit E.TMR_QERR) = 1) :
    (s.zSample level n).get (intRawBit E.TMR_QERR) = 1 := by
  have hput : (s.putZ level).get (intRawBit E.TMR_QERR) = 1 := (State.get_of_regsSame (s.putZ_regsSame level) (by decide)).trans h
  rw [s.zSample_eq level n]
  split
  · rw [State.get_of_regsSame (State.clearAll_regsSame _ n) (by decide)]
    exact State.get_intRawBit_captureAll 4 none hput
  · exact hput

theorem State.someQuad_zSample (level : Bool) (n : Nat) (h : s.someQuad) : (s.zSample level n).someQuad := by
  obtain ⟨k, hk, hq⟩ := h
  have hmode : (R.CNTk_CTRL_MODE k).reg ∉ zCaptureRegs := clrSrc_notMem_zCaptureRegs k hk
  have hall : (R.CNTk_CTRL_MODE k).reg ∉ allCaptureRegs := fun hm => hmode (List.mem_cons_of_mem _ hm)
  have hcnt : (R.CNTk_CTRL_MODE k).reg ∉ cntRegs := clrSrc_notMem_cntRegs k
  refine ⟨k, hk, State.inQuad_of_regsSame (State.zSample_frame level n) (by decide) (by simp [hall, hcnt]) ?_⟩
  refine State.inQuad_of_regsSame (s.putZ_regsSame level) (by decide) ?_ hq
  simp only [R.CNTk_CTRL_MODE, R.ENC_STAT_LEVEL, List.mem_singleton]
  omega

theorem State.zAfterFault_quad (s : State) (ins levels n : Nat) :
    (s.get (intRawBit E.TMR_QERR) = 1 → (s.zAfterFault ins levels n).get (intRawBit E.TMR_QERR) = 1) ∧
    (s.someQuad → (s.zAfterFault ins levels n).someQuad) := by
  obtain ⟨u, hu, ⟨heq, -⟩ | heq⟩ := s.zAfterFault_eq ins levels n
  · rw [heq]
    exact ⟨fun h => (State.get_of_regs hu).trans h, State.someQuad_of_regs hu⟩
  · rw [heq]
    exact ⟨fun h => State.get_qerr_zSample _ _ ((State.get_of_regs hu).trans h), fun h => State.someQuad_zSample _ _ (State.someQuad_of_regs hu h)⟩

/-! ## The end of faults -/

/-- The faults of the inputs in a mask end: in whichever order A with B and Z accept their levels, these, the cleared faults and QERR are the same. -/
theorem State.encFaultClear_spec (s : State) (ins levels n : Nat) (hd : s.dom dCLK = true) (hne : maskAnd ins s.encFault ≠ 0) :
    (s.encFaultClear ins levels n).get R.ENC_STAT_LEVEL = levelsOf (foundLevel (maskAnd ins s.encFault) levels 0 s.encA)
      (foundLevel (maskAnd ins s.encFault) levels 1 s.encB) (foundLevel (maskAnd ins s.encFault) levels 2 s.encZ) ∧
    (∀ j, j < 3 → (s.encFaultClear ins levels n).encFault j = (!bit (maskAnd ins s.encFault) j && s.encFault j)) ∧
    (foundLevel (maskAnd ins s.encFault) levels 0 s.encA ≠ s.encA → foundLevel (maskAnd ins s.encFault) levels 1 s.encB ≠ s.encB →
      s.someQuad → (s.encFaultClear ins levels n).get (intRawBit E.TMR_QERR) = 1) := by
  have hunfold : s.encFaultClear ins levels n =
      let m := maskAnd ins s.encFault
      let s1 := (s.at n).encFaultEnd m n
      if s1.encHold 0 ≤ s1.encHold 2 then (s1.encAfterFault m levels n).zAfterFault m levels n
      else (s1.zAfterFault m levels n).encAfterFault m levels n := by
    have hgo : ¬ (!s.dom dCLK || decide (maskAnd ins s.encFault = 0)) = true := by simp [hd, hne]
    rw [State.encFaultClear]
    exact if_neg hgo
  rw [hunfold]
  dsimp only
  generalize maskAnd ins s.encFault = m
  obtain ⟨hfault, hlevel, hregs⟩ := (s.at n).encFaultEnd_spec m n
  generalize (s.at n).encFaultEnd m n = s1 at hfault hlevel hregs
  have hA : s1.encA = s.encA := State.encA_of_get hlevel
  have hB : s1.encB = s.encB := State.encB_of_get hlevel
  have hZ : s1.encZ = s.encZ := State.encZ_of_get hlevel
  have hquad (h : s.someQuad) : s1.someQuad := by
    obtain ⟨k, hk, hq⟩ := h
    refine ⟨k, hk, State.inQuad_of_regsSame hregs (by decide) ?_ hq⟩
    simp only [R.CNTk_CTRL_MODE, R.ENC_STAT_LEVEL, List.mem_singleton]
    omega
  have hfin {u : State} (h : u.get R.ENC_STAT_FAULT = s1.get R.ENC_STAT_FAULT) (j : Nat) (hj : j < 3) :
      u.encFault j = (!bit m j && s.encFault j) := by
    rw [State.encFault, h]
    exact hfault j hj
  split
  · obtain ⟨hl1, hf1⟩ := s1.encAfterFault_spec m levels n
    obtain ⟨hl2, hf2⟩ := (s1.encAfterFault m levels n).zAfterFault_spec m levels n
    obtain ⟨ha1, hb1, hz1⟩ := encA_levelsOf hl1
    refine ⟨?_, hfin (hf2.trans hf1), fun ha hb hq => ?_⟩
    · rw [hl2, show (s1.encAfterFault m levels n).encA = _ from ha1, show (s1.encAfterFault m levels n).encB = _ from hb1,
        show (s1.encAfterFault m levels n).encZ = _ from hz1, hA, hB, hZ]
    · exact (State.zAfterFault_quad _ m levels n).1 (State.qerr_encAfterFault s1 m levels n (by rwa [hA]) (by rwa [hB]) (hquad hq))
  · obtain ⟨hl1, hf1⟩ := s1.zAfterFault_spec m levels n
    obtain ⟨hl2, hf2⟩ := (s1.zAfterFault m levels n).encAfterFault_spec m levels n
    obtain ⟨ha1, hb1, hz1⟩ := encA_levelsOf hl1
    have hA' : (s1.zAfterFault m levels n).encA = s.encA := Eq.trans ha1 hA
    have hB' : (s1.zAfterFault m levels n).encB = s.encB := Eq.trans hb1 hB
    refine ⟨?_, hfin (hf2.trans hf1), fun ha hb hq => ?_⟩
    · rw [hl2, hA', hB', show (s1.zAfterFault m levels n).encZ = _ from hz1, hZ]
    · exact State.qerr_encAfterFault _ m levels n (by rwa [hA']) (by rwa [hB']) ((State.zAfterFault_quad s1 m levels n).2 (hquad hq))

end

/-! ## Trigger edges (R83) -/

/-- The registers that a trigger edge may change behind TRIG_STAT. -/
def trigRegs : List Nat :=
  allCountRegs ++ allCaptureRegs ++ cntRegs ++ toldRegs E.TICK_TRIG_OVERLAP ++ toldRegs E.EXP_TRIG_MISS

section
variable {s t : State}

theorem State.tokenRemark_regs (s : State) : s.tokenRemark.regs = s.regs := by
  unfold State.tokenRemark
  split <;> rfl

theorem State.markEdge_regs (s : State) (i kind n : Nat) : (s.markEdge i kind n).regs = s.regs := by
  unfold State.markEdge
  dsimp only
  split
  · split
    · exact State.tokenRemark_regs _
    · rfl
  · rfl

theorem State.tickTrigger_regsSame (s : State) (i kind n : Nat) : s.regsSame (s.tickTrigger i kind n) trigRegs := by
  unfold State.tickTrigger
  dsimp only
  split
  · exact .refl
  · split
    · exact State.regsSame_raise fun _ h => List.mem_append_left _ (List.mem_append_right _ h)
    · exact .trans (.of_regs (by rfl)) (State.regsSame_put 1 (by decide))

theorem State.areaTrigger_regsSame (s : State) (i kind n : Nat) : s.regsSame (s.areaTrigger i kind n) trigRegs := by
  unfold State.areaTrigger
  split
  · exact .refl
  · exact State.regsSame_ite (.of_regs rfl) (State.regsSame_raise (List.subset_append_right _ _))

/-- An edge that the filter accepts is shown in TRIG_STAT, and what follows from it changes none of its bits. -/
theorem State.trigEdge_shown {i : Nat} {energised : Bool} {n : Nat} (hd : s.dom dCLK = true)
    (hne : bit (s.get R.TRIG_STAT_ENERGISED) i ≠ energised) (hf : s.filtOk (4 + i) (s.trigHold i) n = true) :
    (s.trigEdge i energised n).get R.TRIG_STAT_ENERGISED =
      (s.put ⟨R.TRIG_STAT_ENERGISED.reg, i, 1⟩ (boolNat energised)).get R.TRIG_STAT_ENERGISED := by
  obtain ⟨u, hu, hrest⟩ : ∃ u : State, u.regs = (s.put ⟨R.TRIG_STAT_ENERGISED.reg, i, 1⟩ (boolNat energised)).regs ∧
      u.regsSame (s.trigEdge i energised n) trigRegs := by
    refine ⟨((s.at n).filtSet (4 + i) n).put ⟨R.TRIG_STAT_ENERGISED.reg, i, 1⟩ (boolNat energised), rfl, ?_⟩
    unfold State.trigEdge
    rw [if_neg (by simp [hd, hne, hf])]
    dsimp only
    refine .trans (.trans ?_ (State.tickTrigger_regsSame _ i _ n)) (State.areaTrigger_regsSame _ i _ n)
    refine .trans (.trans (.trans ((State.countAll_regsSame _ n).mono ?_) ((State.captureAll_regsSame i _).mono ?_))
      ((State.clearAll_regsSame _ n).mono ?_)) (State.regsSame_ite (.of_regs (State.markEdge_regs _ _ _ _)) .refl)
    all_goals
      intro a ha
      simp only [trigRegs, List.mem_append]
    · exact .inl (.inl (.inl (.inl ha)))
    · exact .inl (.inl (.inl (.inr ha)))
    · exact .inl (.inl (.inr ha))
  rw [State.get_of_regsSame hrest (by decide)]
  exact State.get_of_regs hu

theorem State.bit_put_bit (s : State) {f : Fld} {i j : Nat} (hf : f.lo = 0) (hw : f.w ≤ 32) (hi : i < f.w) (hj : j < f.w) (v : Bool) :
    bit ((s.put ⟨f.reg, i, 1⟩ (boolNat v)).get f) j = if j = i then v else bit (s.get f) j := by
  rw [State.bit_get _ _ hj, State.bit_get _ _ hj, hf, Nat.zero_add]
  change ((s.put ⟨f.reg, i, 1⟩ (boolNat v)).reg (Fld.reg ⟨f.reg, i, 1⟩)).toNat.testBit j = _
  rw [State.testBit_reg_put _ _ _ (by simp only; omega)]
  by_cases hij : j = i
  · subst hij
    rw [if_pos (by simp), if_pos rfl]
    cases v <;> simp [boolNat]
  · rw [if_neg (by simp only; omega), if_neg hij]

end

/-- Settles O4: an accepted edge is one sample, whose levels are ENC_STAT.LEVEL, and no input edge changes more than the timers and the tick
generator. -/
theorem inputEdgesAccepted : Obligations.InputEdgesAccepted := by
  unfold Obligations.InputEdgesAccepted
  refine ⟨fun s a b n hd h0 h1 => ?edge, fun s a b n hd hdeaf => ?deaf, fun s level n hd hz => ?z, fun s i n hd hf => ?fault,
    fun s ins levels n hd => ?clear, fun s i energised n hd hne hf => ?trig⟩
  case edge =>
    obtain ⟨u, hu, heq⟩ := State.encEdge_of_hears (a := a) (b := b) hd h0 h1
    obtain ⟨-, -, hfault⟩ := u.encSample_spec a b n
    obtain ⟨hA, hB, hZ⟩ := u.encSample_levels a b n
    refine ⟨s.encEdge a b n, rfl, ?_⟩
    have hbyte := (State.encEdge_timers a b n (.refl s)).byte
    rw [heq] at hbyte ⊢
    refine ⟨hA, hB, hZ.trans (State.encZ_of_get (State.get_of_regs hu)), hfault.trans (State.get_of_regs hu), fun ha hb hq => ?_, hbyte⟩
    refine State.qerr_encSample a b n ?_ ?_ (State.someQuad_of_regs hu hq)
    · rwa [State.encA_of_get (State.get_of_regs hu)]
    · rwa [State.encB_of_get (State.get_of_regs hu)]
  case deaf => exact ⟨_, rfl, State.encEdge_deaf hd hdeaf⟩
  case z =>
    refine ⟨s.zEdge level n, rfl, ?_⟩
    have hbyte := (State.zEdge_timers level n (.refl s)).byte
    by_cases hsame : level = s.encZ
    · rw [State.zEdge_same n hsame]
      exact ⟨hsame.symm, rfl, rfl, fun _ => rfl⟩
    · rw [State.zEdge_of_hears n hd hz hsame] at hbyte ⊢
      obtain ⟨hA, hB, hZ⟩ := State.zSample_levels ((s.at n).filtSet 2 n) level n
      exact ⟨hZ, hA, hB, hbyte⟩
  case fault =>
    have hexec : exec (.encFault i n) s = .next (((s.at n).put ⟨R.ENC_STAT_FAULT.reg, 3 + i.val, 1⟩ 1).raise E.TMR_ENC_FAULT) := by
      change execEncFault i n s = _
      rw [execEncFault, if_neg (by simp [hd, hf])]
    have hput : s.regsSame ((s.at n).put ⟨R.ENC_STAT_FAULT.reg, 3 + i.val, 1⟩ 1) [R.ENC_STAT_FAULT.reg] :=
      .trans (.of_regs rfl) (State.regsSame_put 1 (by simp))
    refine ⟨_, hexec, ?_, told_raise_of_regsSame s (by decide) hput (by decide), ?_⟩
    · rw [State.encFault, State.get_raise_other _ (by decide), State.bit_get _ _ (show i.val < 3 from i.isLt)]
      refine (State.testBit_reg_put _ _ _ (show 3 + i.val + 1 ≤ 32 by omega)).trans ?_
      simp [R.ENC_STAT_FAULT]
    · exact only_trans (only_trans (only_at s n) (only_put 1 (by simp))) (only_raise (List.subset_cons_self _ _))
  case clear =>
    refine ⟨s.encFaultClear ins.toNat levels.toNat n, rfl, ?_⟩
    have hmask := bit_maskAnd ins.toNat s.encFault
    by_cases hnone : maskAnd ins.toNat s.encFault = 0
    · have hno (i : Nat) (hi : i < 3) : ¬ (bit ins.toNat i = true ∧ s.encFault i = true) := by
        have := hmask i hi
        rw [hnone] at this
        simp only [bit, Nat.zero_div, Nat.zero_mod] at this
        intro ⟨h1, h2⟩
        simp [bit] at h1
        simp_all
      have hstay : s.encFaultClear ins.toNat levels.toNat n = s := by
        rw [State.encFaultClear]
        exact if_pos (show (!s.dom dCLK || decide (maskAnd ins.toNat s.encFault = 0)) = true by simp [hnone])
      rw [hstay]
      refine ⟨fun i hi h1 h2 => absurd ⟨h1, h2⟩ (hno i hi), fun _ _ _ => ⟨rfl, rfl⟩, fun h => ?_, fun _ => rfl⟩
      exact absurd ⟨(h 0 (by omega)).1, (h 0 (by omega)).2.1⟩ (hno 0 (by omega))
    · obtain ⟨hlevel, hfault, hqerr⟩ := State.encFaultClear_spec s ins.toNat levels.toNat n hd hnone
      obtain ⟨hA, hB, hZ⟩ := encA_levelsOf hlevel
      have hbits (i : Nat) (hi : i < 3) : bit ((s.encFaultClear ins.toNat levels.toNat n).get R.ENC_STAT_LEVEL) i =
          foundLevel (maskAnd ins.toNat s.encFault) levels.toNat i (bit (s.get R.ENC_STAT_LEVEL) i) := by
        interval_cases i
        · exact hA
        · exact hB
        · exact hZ
      refine ⟨fun i hi h1 h2 => ?_, fun i hi h => ?_, fun h hq => ?_, (State.encFaultClear_timers _ _ _ (.refl s)).byte⟩
      · rw [hfault i hi, hbits i hi, foundLevel, hmask i hi, h1, h2]
        exact ⟨rfl, rfl⟩
      · have hm : bit (maskAnd ins.toNat s.encFault) i = false := by
          rw [hmask i hi]
          rcases h with h | h <;> simp [h]
        rw [hfault i hi, hbits i hi, foundLevel, hm]
        exact ⟨rfl, rfl⟩
      · have hboth (i : Nat) (hi : i < 2) : foundLevel (maskAnd ins.toNat s.encFault) levels.toNat i (bit (s.get R.ENC_STAT_LEVEL) i) ≠
            bit (s.get R.ENC_STAT_LEVEL) i := by
          obtain ⟨h1, h2, h3⟩ := h i hi
          rw [foundLevel, hmask i (by omega), h1, h2]
          exact h3
        exact hqerr (hboth 0 (by omega)) (hboth 1 (by omega)) hq
  case trig =>
    refine ⟨s.trigEdge i energised n, rfl, ?_⟩
    have hbits (k : Fin 4) := State.bit_put_bit s (f := R.TRIG_STAT_ENERGISED) rfl (by decide) i.isLt k.isLt energised
    beta_reduce
    rw [State.trigEdge_shown hd hne hf]
    refine ⟨(hbits i).trans (if_pos rfl), fun k hk => (hbits k).trans (if_neg fun h => hk (Fin.ext h)), ?_⟩
    exact (State.trigEdge_timers _ _ _ (.refl s)).byte

end Sys2Proof.Machine
end

/-! PROOFS. Derived ticks (R54, R95, R98, R99): what a tick that is derived adds to the queue. -/
section
namespace Sys2Proof.Machine

section
variable {s t : State}

/-! ## What the timers and the tick generator leave to each other -/

theorem TimersOnly.lifeWaits (h : TimersOnly s t) : t.lifeWaits = s.lifeWaits := by
  unfold TimersOnly at h
  rw [h]
  rfl

theorem TimersOnly.leadClk (h : TimersOnly s t) : t.leadClk = s.leadClk := by rw [State.leadClk, h.act, State.leadClk]

theorem TimersOnly.divD (h : TimersOnly s t) : t.divD = s.divD := by simp only [State.divD, h.act]

theorem State.inRun_of_get (hp : t.pwr = s.pwr) (h : t.get R.PWR_STAT_STATE = s.get R.PWR_STAT_STATE) : t.inRun = s.inRun := by
  rw [State.inRun, State.power, hp, h, State.inRun, State.power]

/-! ## A tick is derived -/

/-- A derived tick as it waits for its edge. -/
def State.waiting (s : State) (d : DerTick) : DerTick :=
  { d with edge := d.der + s.leadClk, marks := edgeBits d.der s.tick.edgeMarks, tpred := s.tick.tpred }

theorem State.sendToken_tick (s : State) (a b c d e : Nat) : (s.sendToken a b c d e).tick = s.tick := rfl
theorem State.sendToken_now (s : State) (a b c d e : Nat) : (s.sendToken a b c d e).now = s.now := rfl

/-- A derived tick joins the queue; the tokens sent change nothing of the tick generator (R100). -/
theorem State.pushTick_tick (d : DerTick) (h : s.lifeWaits = false) : (s.pushTick d).tick = { s.tick with
    queue := s.tick.queue ++ [s.waiting d], lastDer := some d.der, edgeMarks := edgesAfter d.der s.tick.edgeMarks } := by
  unfold State.pushTick
  rw [if_neg (by simp [h])]
  dsimp only
  split
  · rfl
  · exact List.foldlRecOn (motive := fun u : State => u.tick = _) _ _ rfl fun u hu _ _ => hu

theorem State.pushTick_now (d : DerTick) : (s.pushTick d).now = s.now := by
  unfold State.pushTick
  dsimp only
  split
  · rfl
  · split
    · rfl
    · exact List.foldlRecOn (motive := fun u : State => u.now = s.now) _ _ rfl fun u hu _ _ => hu

/-- A tick of the divider that none is held back for, nor is less than 1.25 µs behind the last one, is derived at once (R96). -/
theorem State.divTick_free {n : Nat} (sheet : Bool) (hd : s.tick.deferred = none) (hu : ∀ u, s.tick.lastDer = some u → u + 250 ≤ n) :
    s.divTick n sheet = s.pushTick { der := n, sheet := sheet } := by
  have hrel : s.releaseDeferred n = s := by simp only [State.releaseDeferred, hd]
  unfold State.divTick
  rw [hrel]
  simp only [hd]
  cases hl : s.tick.lastDer with
  | none => rfl
  | some u => exact if_neg (Nat.not_lt.2 (hu u hl))

/-- Does a tick derived come off a trigger run? -/
def State.runTicks (s : State) : Bool := s.srcAct = srcTRIG_ENCODER || s.srcAct = srcTRIG_TIMER

theorem State.runStep_tick (s : State) : s.runStep.tick = if s.runTicks then { s.tick with runLeft := s.tick.runLeft - 1, runFirst := false }
    else s.tick := by
  have heq : s.runStep = if s.runTicks then
      State.put { s with tick := { s.tick with runLeft := s.tick.runLeft - 1, runFirst := false } } R.TICK_STAT_RUN_ACT
        (boolNat (0 < s.tick.runLeft - 1)) else s := rfl
  rw [heq]
  split
  · exact State.put_tick _ _ _
  · rfl

theorem State.runStep_now (s : State) : s.runStep.now = s.now := by
  unfold State.runStep
  dsimp only
  split
  · exact State.put_now _ _ _
  · rfl

/-- The divider's step without the tick: acc falls by D. -/
def State.divFall (s : State) : State := { s with tick := { s.tick with acc := s.tick.acc - s.divD } }

theorem State.divDerive_eq (n : Nat) : s.divDerive n =
    (if s.inRun then s.divTick n (s.srcAct = srcTRIG_ENCODER && s.tick.runFirst) else s).divFall.runStep := rfl

theorem State.runTicks_of_regs (h : t.regs = s.regs) : t.runTicks = s.runTicks := by
  unfold State.runTicks State.srcAct
  rw [State.get_of_regs h]

theorem State.rePredict_tick (s : State) : s.rePredict.tick = { s.tick with pred := s.rePredict.tick.pred } := rfl

/-- In RUN the divider's tick joins the queue, acc falls by D and a run is one tick shorter (R95, R99). -/
theorem State.divDerive_spec {n : Nat} (hr : s.inRun = true) (hw : s.lifeWaits = false) (hd : s.tick.deferred = none)
    (hu : ∀ u, s.tick.lastDer = some u → u + 250 ≤ n) : addsTick s (s.divDerive n).rePredict n ∧
      (s.divDerive n).rePredict.tick.acc = s.tick.acc - s.divD ∧ (s.divDerive n).rePredict.now = s.now ∧
      (s.divDerive n).rePredict.tick.runLeft = if s.runTicks then s.tick.runLeft - 1 else s.tick.runLeft := by
  have heq := State.divDerive_eq (s := s) n
  generalize (s.srcAct = srcTRIG_ENCODER && s.tick.runFirst : Bool) = sheet at heq
  rw [if_pos hr, State.divTick_free sheet hd hu] at heq
  have htick := State.pushTick_tick (s := s) { der := n, sheet := sheet } hw
  have honly : TimersOnly s (s.pushTick { der := n, sheet := sheet }) := State.pushTick_timers _ (.refl s)
  have hregs : (s.pushTick { der := n, sheet := sheet }).regs = s.regs := State.pushTick_regs s _
  have hnow := State.pushTick_now (s := s) { der := n, sheet := sheet }
  have hD := honly.divD
  generalize s.pushTick { der := n, sheet := sheet } = u at heq htick honly hregs hnow hD
  have hruns : u.divFall.runTicks = s.runTicks := State.runTicks_of_regs hregs
  have hfall : u.divFall.tick = { u.tick with acc := u.tick.acc - u.divD } := rfl
  have hstep := State.runStep_tick u.divFall
  rw [heq, State.rePredict_tick]
  rw [hruns, hfall, htick, hD] at hstep
  have hqueue : u.divFall.runStep.tick.queue = s.tick.queue ++ [s.waiting { der := n, sheet := sheet }] := by rw [hstep]; split <;> rfl
  have hlast : u.divFall.runStep.tick.lastDer = some n := by rw [hstep]; split <;> rfl
  refine ⟨⟨s.waiting { der := n, sheet := sheet }, ?_, rfl, rfl, ?_⟩, ?_, (State.runStep_now _).trans hnow, ?_⟩
  · exact hqueue
  · exact hlast
  · dsimp only
    rw [hstep]
    split <;> rfl
  · dsimp only
    rw [hstep]
    split <;> rfl

/-! ## The sources -/

theorem State.srcRuns_iff {src : Nat} (h : s.srcRuns src = true) : s.inRun = true ∧ s.modeAct ≠ 2 ∧ s.srcAct = src := by
  simp only [State.srcRuns, Bool.and_eq_true, decide_eq_true_eq] at h
  exact ⟨h.1.1, h.1.2, h.2⟩

theorem State.predictedTick_predicted {p : Nat} (hr : s.divRuns = true) (hd : s.tick.deferred = none) (hp : s.tick.pred = some p) :
    s.predictedTick = ((s.at p).divDerive p).rePredict := by
  unfold State.predictedTick
  simp only [hd, hp, hr, if_true]

/-- T_pred takes a value; nothing else of the tick generator changes but it. -/
theorem State.setTpred_tick (f : Frac) : (s.setTpred f).tick = { s.tick with tpred := f } := State.put_tick _ _ _

theorem State.setTpred_now (f : Frac) : (s.setTpred f).now = s.now := State.put_now _ _ _

theorem State.get_setTpred (f : Frac) : (s.setTpred f).get R.TICK_TPRED_T = min 0x1FFFFF (fracFloor f) := by
  refine State.get_put_fits _ (by decide) ?_
  simp only [R.TICK_TPRED_T]
  omega

theorem State.get_setTpred_other (f : Frac) {g : Fld} (h : g.reg ≠ R.TICK_TPRED_T.reg) : (s.setTpred f).get g = s.get g :=
  (State.get_put_reg _ _ h).trans (State.get_upd g)

theorem State.pushTick_get (d : DerTick) (f : Fld) : (s.pushTick d).get f = s.get f := State.get_of_regs (State.pushTick_regs s d)

/-- The timer's next tick is due. -/
def State.nextTick (s : State) (n : Nat) : State := { s with tick := { s.tick with next := some n } }

theorem State.timerTick_eq (h : s.srcRuns srcTIMER = true) : let der := s.tick.next.getD (s.now + s.timerPeriod)
    s.timerTick = (((s.at der).setTpred ⟨s.timerPeriod, 1⟩).nextTick (der + s.timerPeriod)).pushTick { der := der } := by
  unfold State.timerTick
  rw [if_neg (by simp [h])]
  rfl

theorem State.trigRunTick_timer (h : s.srcRuns srcTRIG_TIMER = true) (hl : 0 < s.tick.runLeft) : let der := s.tick.next.getD s.now
    ∃ sheet, s.trigRunTick = ((((s.at der).setTpred ⟨s.timerPeriod, 1⟩).pushTick { der := der, sheet := sheet }).nextTick
      (der + s.timerPeriod)).runStep := by
  unfold State.trigRunTick
  rw [if_pos (by simp [h, hl])]
  exact ⟨_, rfl⟩

theorem State.trigRunTick_encoder (h : s.srcRuns srcTRIG_ENCODER = true) : s.trigRunTick = s.predictedTick := by
  obtain ⟨-, -, hsrc⟩ := State.srcRuns_iff h
  have hno : s.srcRuns srcTRIG_TIMER = false := by
    have hne : s.srcAct ≠ srcTRIG_TIMER := by rw [hsrc]; decide
    simp [State.srcRuns, hne]
  unfold State.trigRunTick
  rw [if_neg (by simp [hno]), if_pos h]

/-- The area triggers that wait for their delay. -/
def State.trigsLeft (s : State) (rest : List Nat) : State := { s with tick := { s.tick with areaTrigs := rest } }

theorem State.trigAreaTick_eq {u : Nat} {rest : List Nat} (hr : s.inRun = true) (hm : s.modeAct = 2) (ht : s.tick.areaTrigs = u :: rest) :
    s.trigAreaTick = (((s.at u).setTpred ⟨200000000, max 1 s.fCap⟩).trigsLeft rest).pushTick { der := u } := by
  unfold State.trigAreaTick
  simp only [ht]
  exact if_neg (by simp [hr, hm])

/-- A run's tick leaves the rest of the run's registers as they were (R99). -/
theorem State.on_runStep (s : State) (h : s.runTicks = true) : s.runStep.on R.TICK_STAT_RUN_ACT = decide (1 < s.tick.runLeft) := by
  have heq : s.runStep = if s.runTicks then
      State.put { s with tick := { s.tick with runLeft := s.tick.runLeft - 1, runFirst := false } } R.TICK_STAT_RUN_ACT
        (boolNat (0 < s.tick.runLeft - 1)) else s := rfl
  rw [heq, if_pos h, State.on, State.get_put_fits _ (by decide) (boolNat_lt_two _)]
  by_cases hl : 1 < s.tick.runLeft
  · have : 0 < s.tick.runLeft - 1 := by omega
    simp [boolNat, hl, this]
  · have : ¬ 0 < s.tick.runLeft - 1 := by omega
    simp [boolNat, hl, this]

end

/-- Settles O7: whatever the source, the tick goes through the one queue; the divider's tick is one step of the divider. -/
theorem ticksDerivedAtTheirTimes : Obligations.TicksDerivedAtTheirTimes := by
  unfold Obligations.TicksDerivedAtTheirTimes
  refine ⟨fun s p hsrc hw hd hp hu => ?divider, fun s p hsrc hmode hrun hd hp => ?halted, fun s hsrc hw => ?timer, fun s hsrc hw hl => ?run,
    fun s p hsrc hw hl hd hp hu => ?runEncoder, fun s u rest hrun hmode hw htrig => ?area⟩
  case divider =>
    obtain ⟨hrun, hmode, hact⟩ := State.srcRuns_iff hsrc
    have hexec : exec .predictedTick s = .next s.predictedTick := by
      change execPredictedTick s = _
      rw [execPredictedTick, if_pos (by simp [hact, hmode])]
    obtain ⟨hadds, hacc, hnow, -⟩ := State.divDerive_spec (s := s.at p) (n := p) hrun hw hd hu
    refine ⟨_, hexec, ?_⟩
    rw [State.predictedTick_predicted (by simp [State.divRuns, hact, hmode]) hd hp]
    exact ⟨hadds, hacc, hnow, (State.rePredict_timers (State.divDerive_timers p (State.at_timers p (.refl s)))).byte⟩
  case halted =>
    have hexec : exec .predictedTick s = .next s.predictedTick := by
      change execPredictedTick s = _
      rw [execPredictedTick, if_pos (by simp [hsrc, hmode])]
    have hruns : s.runTicks = false := by unfold State.runTicks; rw [hsrc]; rfl
    have hderive : (s.at p).divDerive p = (s.at p).divFall := by
      have hhalt : (s.at p).inRun = false := hrun
      have hstay : (s.at p).divFall.runStep = (s.at p).divFall := by
        have heq : (s.at p).divFall.runStep = if s.runTicks then _ else (s.at p).divFall := rfl
        rw [heq, if_neg (by simp [hruns])]
      rw [State.divDerive_eq, if_neg (by simp [hhalt]), hstay]
    refine ⟨_, hexec, ?_⟩
    rw [State.predictedTick_predicted (by simp [State.divRuns, hsrc, hmode]) hd hp, hderive]
    exact ⟨rfl, rfl, rfl, (State.rePredict_timers (TimersOnly.upd (State.at_timers p (.refl s)))).only (.of_regs rfl)⟩
  case timer =>
    refine ⟨s.timerTick, rfl, ?_⟩
    dsimp only
    have hbyte := (State.timerTick_timers (.refl s)).byte
    rw [State.timerTick_eq hsrc] at hbyte ⊢
    generalize hder : s.tick.next.getD (s.now + s.timerPeriod) = der at hbyte ⊢
    have honly : TimersOnly s (((s.at der).setTpred ⟨s.timerPeriod, 1⟩).nextTick (der + s.timerPeriod)) :=
      .upd (State.setTpred_timers _ (State.at_timers der (.refl s)))
    have htick := State.pushTick_tick { der := der } (honly.lifeWaits.trans hw)
    have hprev : (((s.at der).setTpred ⟨s.timerPeriod, 1⟩).nextTick (der + s.timerPeriod)).tick =
        { s.tick with tpred := ⟨s.timerPeriod, 1⟩, next := some (der + s.timerPeriod) } := by
      rw [State.nextTick, State.setTpred_tick]
      rfl
    have hlead := honly.leadClk
    refine ⟨⟨_, by rw [htick, hprev], rfl, by rw [State.waiting, hlead], by rw [htick]⟩, by rw [htick, hprev], ?_, by rw [htick, hprev], hbyte⟩
    rw [State.pushTick_get, State.nextTick, State.get_upd, State.get_setTpred, fracFloor, Nat.div_one]
  case run =>
    obtain ⟨sheet, heq⟩ := State.trigRunTick_timer hsrc hl
    obtain ⟨-, -, hact⟩ := State.srcRuns_iff hsrc
    refine ⟨s.trigRunTick, rfl, ?_⟩
    dsimp only
    have hbyte := (State.trigRunTick_timers (.refl s)).byte
    rw [heq] at hbyte ⊢
    generalize s.tick.next.getD s.now = der at hbyte ⊢
    have honly : TimersOnly s ((s.at der).setTpred ⟨s.timerPeriod, 1⟩) := State.setTpred_timers _ (State.at_timers der (.refl s))
    have htick := State.pushTick_tick { der := der, sheet := sheet } (honly.lifeWaits.trans hw)
    have hlead := honly.leadClk
    have hget := State.pushTick_get (s := (s.at der).setTpred ⟨s.timerPeriod, 1⟩) { der := der, sheet := sheet } R.TICK_STAT_SRC_ACT
    rw [State.get_setTpred_other _ (by decide)] at hget
    rw [State.setTpred_tick] at htick
    generalize hu : ((s.at der).setTpred ⟨s.timerPeriod, 1⟩).pushTick { der := der, sheet := sheet } = u at hbyte htick hget ⊢
    have hruns : (u.nextTick (der + s.timerPeriod)).runTicks = true := by
      have : (u.nextTick (der + s.timerPeriod)).srcAct = srcTRIG_TIMER := Eq.trans hget hact
      unfold State.runTicks
      rw [this]
      rfl
    have hstep := State.runStep_tick (u.nextTick (der + s.timerPeriod))
    rw [if_pos hruns] at hstep
    have hnext : (u.nextTick (der + s.timerPeriod)).tick = { u.tick with next := some (der + s.timerPeriod) } := rfl
    refine ⟨⟨_, by rw [hstep, hnext, htick]; rfl, rfl, by rw [State.waiting, hlead], by rw [hstep, hnext, htick]⟩, by rw [hstep, hnext],
      by rw [hstep, hnext, htick]; rfl, ?_, hbyte⟩
    rw [State.on_runStep _ hruns, hnext, htick]
    rfl
  case runEncoder =>
    obtain ⟨hrun, hmode, hact⟩ := State.srcRuns_iff hsrc
    obtain ⟨hadds, -, -, hleft⟩ := State.divDerive_spec (s := s.at p) (n := p) hrun hw hd hu
    have hruns : (s.at p).runTicks = true := by
      have : (s.at p).srcAct = srcTRIG_ENCODER := hact
      unfold State.runTicks
      rw [this]
      rfl
    rw [if_pos hruns] at hleft
    refine ⟨s.trigRunTick, rfl, ?_⟩
    rw [State.trigRunTick_encoder hsrc, State.predictedTick_predicted (by simp [State.divRuns, hsrc, hl]) hd hp]
    exact ⟨hadds, hleft, (State.rePredict_timers (State.divDerive_timers p (State.at_timers p (.refl s)))).byte⟩
  case area =>
    refine ⟨s.trigAreaTick, rfl, ?_⟩
    have hbyte := (State.trigAreaTick_timers (.refl s)).byte
    rw [State.trigAreaTick_eq hrun hmode htrig] at hbyte ⊢
    have honly : TimersOnly s (((s.at u).setTpred ⟨200000000, max 1 s.fCap⟩).trigsLeft rest) :=
      .upd (State.setTpred_timers _ (State.at_timers u (.refl s)))
    have htick := State.pushTick_tick { der := u } (honly.lifeWaits.trans hw)
    have hprev : (((s.at u).setTpred ⟨200000000, max 1 s.fCap⟩).trigsLeft rest).tick =
        { s.tick with tpred := ⟨200000000, max 1 s.fCap⟩, areaTrigs := rest } := by
      rw [State.trigsLeft, State.setTpred_tick]
      rfl
    have hlead := honly.leadClk
    exact ⟨⟨_, by rw [htick, hprev], rfl, by rw [State.waiting, hlead], by rw [htick]⟩, by rw [htick, hprev], hbyte⟩

end Sys2Proof.Machine
end

/-! PROOFS. The tick edge (R100): what the queue may hold behind the tick that is taken. -/
section
namespace Sys2Proof.Machine

/-- RUN with the divider in force and one derived tick that waits; a tick held back is marked as a position without an edge and carries the number 9,
which no tick of the divider does, and CNT0 counts tick edges. -/
def heldBackNoEdge : State :=
  { tick := { queue := [{ tpred := ⟨1000, 1⟩ }], deferred := some { noEdge := true, tno := some 9 } },
    regs := [((R.CNTk_CTRL_MODE 0).reg, 8), (R.PWR_STAT_STATE.reg, 1), (R.PWR_DOM_STAT_ON.reg, 0x1FFFFFF)] }

/-- The edge counts CNT0, the count releases the tick held back into the queue, and the edge goes on to the number of that position. -/
theorem heldBackNoEdge_tickno : heldBackNoEdge.tickEdge.tick.tickno = 9 := by decide +kernel

/-- Refutes O8: that TICKNO is one more is claimed from every state in which no tick behind the first is without an edge, also where the tick held back is. A
count of CNT0 at the edge releases it into the queue, and TICKNO goes on to its number: from 0 to 9. -/
theorem not_tickEdgeTakesTheOldestTick : ¬ Obligations.TickEdgeTakesTheOldestTick := by
  unfold Obligations.TickEdgeTakesTheOldestTick
  intro h
  obtain ⟨t, ht, -, -, -, hnumber⟩ := h heldBackNoEdge { tpred := ⟨1000, 1⟩ } [] (by decide +kernel) rfl rfl
  have hexec : exec .tickEdge heldBackNoEdge = .next heldBackNoEdge.tickEdge := rfl
  rw [hexec, Host.Outcome.next.injEq] at ht
  obtain ⟨htickno, -⟩ := hnumber rfl rfl rfl (by simp)
  rw [← ht, heldBackNoEdge_tickno] at htickno
  exact absurd htickno (by decide)

end Sys2Proof.Machine
end

/-! PROOFS. The words of the kernels (Tables 7-2 and 7-3): every field of a slot reads back (O37). -/
section
namespace Sys2Proof.Machine

/-! ## The two slots of a word -/

theorem wordOf_mod {x : Nat} (y : Nat) (hx : x < 2 ^ 32) : wordOf x y % 2 ^ 32 = x := by
  unfold wordOf
  omega

theorem wordOf_div (x y : Nat) : wordOf x y / 2 ^ 32 = y := by
  unfold wordOf
  omega

theorem bit_of_boolNat {w i : Nat} {b : Bool} (h : w / 2 ^ i % 2 = boolNat b) : bit w i = b := by
  unfold bit
  rw [h]
  cases b <;> rfl

/-! ## The scalar slot's formats -/

section
variable (op : Nat) (d a b : BitVec 5) (hop : op < 64)
include hop

theorem slotSR_lt (rsv : BitVec 11) : slotSR op d a b rsv < 2 ^ 32 := by
  have := d.isLt; have := a.isLt; have := b.isLt; have := rsv.isLt
  unfold slotSR
  omega

theorem slotSI_lt (imm : BitVec 16) : slotSI op d a imm < 2 ^ 32 := by
  have := d.isLt; have := a.isLt; have := imm.isLt
  unfold slotSI
  omega

theorem slotSB_lt (tgt : BitVec 12) (rsv : BitVec 4) : slotSB op d a tgt rsv < 2 ^ 32 := by
  have := d.isLt; have := a.isLt; have := tgt.isLt; have := rsv.isLt
  unfold slotSB
  omega

theorem slotSR_fields (rsv : BitVec 11) :
    fOP (slotSR op d a b rsv) = op ∧ fD (slotSR op d a b rsv) = d.toNat ∧ fA (slotSR op d a b rsv) = a.toNat ∧
    fB (slotSR op d a b rsv) = b.toNat ∧ bits (slotSR op d a b rsv) 21 11 = rsv.toNat := by
  have := d.isLt; have := a.isLt; have := b.isLt; have := rsv.isLt
  unfold slotSR fOP fD fA fB bits
  omega

theorem slotSI_fields (imm : BitVec 16) :
    fOP (slotSI op d a imm) = op ∧ fD (slotSI op d a imm) = d.toNat ∧ fA (slotSI op d a imm) = a.toNat ∧
    fIMM (slotSI op d a imm) = imm.toNat := by
  have := d.isLt; have := a.isLt; have := imm.isLt
  unfold slotSI fOP fD fA fIMM bits
  omega

theorem slotSB_fields (tgt : BitVec 12) (rsv : BitVec 4) :
    fOP (slotSB op d a tgt rsv) = op ∧ fD (slotSB op d a tgt rsv) = d.toNat ∧ fA (slotSB op d a tgt rsv) = a.toNat ∧
    fTGT (slotSB op d a tgt rsv) = tgt.toNat ∧ bits (slotSB op d a tgt rsv) 28 4 = rsv.toNat := by
  have := d.isLt; have := a.isLt; have := tgt.isLt; have := rsv.isLt
  unfold slotSB fOP fD fA fTGT bits
  omega

end

/-! ## The vector slot -/

section
variable (op : Nat) (vd va vb : BitVec 5) (vp : BitVec 3) (vpn bs : Bool) (k : BitVec 6) (hop : op < 64)
include hop

theorem slotV_lt : slotV op vd va vb vp vpn bs k < 2 ^ 32 := by
  have := vd.isLt; have := va.isLt; have := vb.isLt; have := vp.isLt; have := k.isLt
  have := boolNat_lt_two vpn; have := boolNat_lt_two bs
  unfold slotV
  omega

theorem slotV_fields :
    fOP (slotV op vd va vb vp vpn bs k) = op ∧ fD (slotV op vd va vb vp vpn bs k) = vd.toNat ∧
    fA (slotV op vd va vb vp vpn bs k) = va.toNat ∧ fB (slotV op vd va vb vp vpn bs k) = vb.toNat ∧
    fVP (slotV op vd va vb vp vpn bs k) = vp.toNat ∧ fVPN (slotV op vd va vb vp vpn bs k) = vpn ∧
    fBS (slotV op vd va vb vp vpn bs k) = bs ∧ fK (slotV op vd va vb vp vpn bs k) = k.toNat := by
  have := vd.isLt; have := va.isLt; have := vb.isLt; have := vp.isLt; have := k.isLt
  have := boolNat_lt_two vpn; have := boolNat_lt_two bs
  unfold fVPN fBS
  rw [bit_of_boolNat (b := vpn) (by unfold slotV; omega), bit_of_boolNat (b := bs) (by unfold slotV; omega)]
  have hfields : fOP (slotV op vd va vb vp vpn bs k) = op ∧ fD (slotV op vd va vb vp vpn bs k) = vd.toNat ∧
      fA (slotV op vd va vb vp vpn bs k) = va.toNat ∧ fB (slotV op vd va vb vp vpn bs k) = vb.toNat ∧
      fVP (slotV op vd va vb vp vpn bs k) = vp.toNat ∧ fK (slotV op vd va vb vp vpn bs k) = k.toNat := by
    unfold slotV fOP fD fA fB fVP fK bits
    omega
  obtain ⟨hOP, hD, hA, hB, hVP, hK⟩ := hfields
  exact ⟨hOP, hD, hA, hB, hVP, rfl, rfl, hK⟩

end

/-- Settles O37: the fields of a slot lie side by side in its 32 bits, and the slots in the word's halves. -/
theorem slotFieldsReadBack : Obligations.SlotFieldsReadBack := by
  refine ⟨fun op d a b rsv vec hop => ?_, fun op d a imm vec hop => ?_, fun op d a tgt rsv vec hop => ?_,
    fun op vd va vb vp vpn bs k scal hop => ?_⟩
  · obtain ⟨hfOP, hfD, hfA, hfB, hrsv⟩ := slotSR_fields op d a b hop rsv
    have hlt := slotSR_lt op d a b hop rsv
    have hvec := vec.isLt
    dsimp only
    rw [wordOf_mod _ hlt, wordOf_div]
    exact ⟨by unfold wordOf; omega, hfOP, hfD, hfA, hfB, hrsv, rfl⟩
  · obtain ⟨hfOP, hfD, hfA, himm⟩ := slotSI_fields op d a hop imm
    dsimp only
    rw [wordOf_mod _ (slotSI_lt op d a hop imm), wordOf_div]
    exact ⟨hfOP, hfD, hfA, himm, rfl⟩
  · obtain ⟨hfOP, hfD, hfA, htgt, hrsv⟩ := slotSB_fields op d a hop tgt rsv
    dsimp only
    rw [wordOf_mod _ (slotSB_lt op d a hop tgt rsv), wordOf_div]
    exact ⟨hfOP, hfD, hfA, htgt, hrsv, rfl⟩
  · dsimp only
    rw [wordOf_mod _ scal.isLt, wordOf_div]
    exact ⟨slotV_lt op vd va vb vp vpn bs k hop, rfl, slotV_fields op vd va vb vp vpn bs k hop⟩

end Sys2Proof.Machine
end

/-! PROOFS. The issue of a word (R159, R171): the kernel's registers behind a result, the two slots' outcomes, and the state behind a word
that does not fault. -/
section
namespace Sys2Proof.Machine

/-! ## The kernel's registers behind a result (R156) -/

section
variable (e : Engine) (q : Option Run) (i : Nat)

@[simp] theorem Engine.s_run : Engine.s { e with run := q } i = e.s i := rfl
@[simp] theorem Engine.v_run : Engine.v { e with run := q } i = e.v i := rfl
@[simp] theorem Engine.acc_run : Engine.acc { e with run := q } i = e.acc i := rfl
@[simp] theorem Engine.p_run : Engine.p { e with run := q } i = e.p i := rfl

theorem Engine.s_setS_same (w : Word) : (e.setS i w).s i = if i = 0 then 0 else w := by
  unfold Engine.s Engine.setS
  split
  · rfl
  · rw [mapGet_set_same]

theorem Engine.s_setS_other {j : Nat} (w : Word) (h : j ≠ i) : (e.setS i w).s j = e.s j := by
  unfold Engine.s Engine.setS
  by_cases hi : i = 0
  · rw [if_pos hi]
  · rw [if_neg hi, mapGet_set_other _ _ _ _ h]

@[simp] theorem Engine.v_setS (j : Nat) (w : Word) : (e.setS i w).v j = e.v j := by unfold Engine.setS; split <;> rfl
@[simp] theorem Engine.acc_setS (j : Nat) (w : Word) : (e.setS i w).acc j = e.acc j := by unfold Engine.setS; split <;> rfl
@[simp] theorem Engine.p_setS (j : Nat) (w : Word) : (e.setS i w).p j = e.p j := by unfold Engine.setS; split <;> rfl

@[simp] theorem Engine.v_setV_same (x : List Half) : (e.setV i x).v i = x := mapGet_set_same ..
theorem Engine.v_setV_other {j : Nat} (x : List Half) (h : j ≠ i) : (e.setV i x).v j = e.v j := mapGet_set_other _ _ _ _ h
@[simp] theorem Engine.s_setV (j : Nat) (x : List Half) : (e.setV i x).s j = e.s j := rfl
@[simp] theorem Engine.acc_setV (j : Nat) (x : List Half) : (e.setV i x).acc j = e.acc j := rfl
@[simp] theorem Engine.p_setV (j : Nat) (x : List Half) : (e.setV i x).p j = e.p j := rfl

@[simp] theorem Engine.acc_setAcc_same (x : List Word) : (e.setAcc i x).acc i = x := mapGet_set_same ..
theorem Engine.acc_setAcc_other {j : Nat} (x : List Word) (h : j ≠ i) : (e.setAcc i x).acc j = e.acc j := mapGet_set_other _ _ _ _ h
@[simp] theorem Engine.s_setAcc (j : Nat) (x : List Word) : (e.setAcc i x).s j = e.s j := rfl
@[simp] theorem Engine.v_setAcc (j : Nat) (x : List Word) : (e.setAcc i x).v j = e.v j := rfl
@[simp] theorem Engine.p_setAcc (j : Nat) (x : List Word) : (e.setAcc i x).p j = e.p j := rfl

theorem Engine.p_setP_same (x : List Bool) (h : i ≠ 0) : (e.setP i x).p i = x := by
  unfold Engine.p Engine.setP
  rw [if_neg h, if_neg h, mapGet_set_same]

theorem Engine.p_setP_other {j : Nat} (x : List Bool) (h : j = 0 ∨ j ≠ i) : (e.setP i x).p j = e.p j := by
  unfold Engine.p Engine.setP
  by_cases hj : j = 0
  · rw [if_pos hj, if_pos hj]
  · rw [if_neg hj, if_neg hj]
    split
    · rfl
    · rw [mapGet_set_other _ _ _ _ (h.resolve_left hj)]

@[simp] theorem Engine.s_setP (j : Nat) (x : List Bool) : (e.setP i x).s j = e.s j := by unfold Engine.setP; split <;> rfl
@[simp] theorem Engine.v_setP (j : Nat) (x : List Bool) : (e.setP i x).v j = e.v j := by unfold Engine.setP; split <;> rfl
@[simp] theorem Engine.acc_setP (j : Nat) (x : List Bool) : (e.setP i x).acc j = e.acc j := by unfold Engine.setP; split <;> rfl

end

/-- A result that goes to no scalar register leaves them. -/
theorem Engine.s_write_of_ne {d : Dest} (e : Engine) (h : ∀ i w, d ≠ .s i w) (i : Nat) : (e.write d).s i = e.s i := by
  cases d with
  | none => rfl
  | s j w => exact absurd rfl (h j w)
  | v j x => rfl
  | a j x => rfl
  | p j x => exact e.s_setP j i x

/-- What the scalar slot writes: nothing, or a scalar register. -/
def Dest.isScalar : Dest → Prop
  | .none => True
  | .s _ _ => True
  | _ => False

theorem lanesKept_refl (e : Engine) : lanesKept e e := ⟨fun _ => rfl, fun _ => rfl, fun _ => rfl⟩

theorem lanesKept_trans {a b c : Engine} (h : lanesKept a b) (h' : lanesKept b c) : lanesKept a c :=
  ⟨fun i => (h'.1 i).trans (h.1 i), fun i => (h'.2.1 i).trans (h.2.1 i), fun i => (h'.2.2 i).trans (h.2.2 i)⟩

theorem Dest.isScalar.lanesKept {d : Dest} (h : d.isScalar) (e : Engine) : lanesKept e (e.write d) := by
  cases d with
  | none => exact lanesKept_refl e
  | s j w => exact ⟨fun i => e.v_setS j i w, fun i => e.acc_setS j i w, fun i => e.p_setS j i w⟩
  | v j x => exact h.elim
  | a j x => exact h.elim
  | p j x => exact h.elim

theorem lanesKept_run (e : Engine) (q : Option Run) : lanesKept e { e with run := q } := ⟨fun _ => rfl, fun _ => rfl, fun _ => rfl⟩

/-! ## Engines and bytes -/

section
variable (s : State)

theorem State.engine_of_eng {s t : State} (h : t.eng = s.eng) (k : Nat) : t.engine k = s.engine k := by rw [State.engine, h, State.engine]

@[simp] theorem State.engine_setEngine_same (sh : Nat) (e : Engine) : (s.setEngine sh e).engine sh = e := mapGet_set_same ..

theorem State.engine_setEngine_other {sh k : Nat} (e : Engine) (h : k ≠ sh) : (s.setEngine sh e).engine k = s.engine k :=
  mapGet_set_other _ _ _ _ h

theorem storeAll_frame (xs : List (Nat × Nat)) :
    (storeAll s xs).regs = s.regs ∧ (storeAll s xs).job = s.job ∧ (storeAll s xs).eng = s.eng ∧ (storeAll s xs).lines = s.lines :=
  List.foldlRecOn (motive := fun u : State => u.regs = s.regs ∧ u.job = s.job ∧ u.eng = s.eng ∧ u.lines = s.lines) xs _
    ⟨rfl, rfl, rfl, rfl⟩ fun _ h _ _ => h

/-- The bytes stored follow from the bytes there were. -/
theorem storeAll_mem {s t : State} (h : t.mem = s.mem) (xs : List (Nat × Nat)) : (storeAll t xs).mem = (storeAll s xs).mem := by
  unfold storeAll
  induction xs generalizing s t with
  | nil => exact h
  | cons x xs ih => exact ih (by simp only [State.setByte, h])

theorem State.shShow_eng (sh : Nat) : (s.shShow sh).eng = s.eng := by
  unfold State.shShow
  split
  · rfl
  · rw [State.put_eng, State.put_eng, State.put_eng, State.put_eng, State.put_eng]

theorem State.shShow_mem (sh : Nat) : (s.shShow sh).mem = s.mem := by
  unfold State.shShow
  split
  · rfl
  · rw [State.put_mem, State.put_mem, State.put_mem, State.put_mem, State.put_mem]

@[simp] theorem State.addReport_eng (n reason mask : Nat) : (s.addReport n reason mask).eng = s.eng := rfl
@[simp] theorem State.addReport_mem (n reason mask : Nat) : (s.addReport n reason mask).mem = s.mem := rfl
@[simp] theorem State.addReport_regs (n reason mask : Nat) : (s.addReport n reason mask).regs = s.regs := rfl

/-- What a claim may change of the state, beside the run: registers and reports. -/
theorem State.claim_frame (sh : Nat) (r : Run) :
    (s.claim sh r).1.eng = s.eng ∧ (s.claim sh r).1.mem = s.mem ∧ (s.claim sh r).2.pc = r.pc := by
  unfold State.claim
  split
  · exact ⟨rfl, rfl, rfl⟩
  · split
    · exact ⟨by rw [State.addReport_eng, State.raise_eng, State.bump_eng], by rw [State.addReport_mem, State.raise_mem, State.bump_mem], rfl⟩
    · exact ⟨rfl, rfl, rfl⟩

end
/-! ## What a slot depends on and what it may do -/

section
variable {s t : State}

theorem State.loftWindow_congr (hregs : t.regs = s.regs) (hjob : t.job = s.job) (x sh k : Nat) :
    t.loftWindow x sh k = s.loftWindow x sh k := by
  simp only [State.loftWindow, State.get_of_regs hregs, State.on_of_get (State.get_of_regs hregs), hjob]

theorem State.loftFault_congr (hregs : t.regs = s.regs) (hjob : t.job = s.job) (x sh : Nat) (w : Bool) (al n a : Nat) :
    t.loftFault x sh w al n a = s.loftFault x sh w al n a := by
  simp only [State.loftFault, State.loftWindow_congr hregs hjob]

theorem State.loftAddr_congr (hregs : t.regs = s.regs) (hjob : t.job = s.job) (x sh a : Nat) : t.loftAddr x sh a = s.loftAddr x sh a := by
  simp only [State.loftAddr, State.loftWindow_congr hregs hjob]

theorem State.bytes_of_mem (h : t.mem = s.mem) (a n : Nat) : t.bytes a n = s.bytes a n := by
  induction n generalizing a with
  | zero => rfl
  | succ n ih => rw [State.bytes, State.bytes, State.byte_of_mem h, ih]

theorem State.scalarOut_congr (hregs : t.regs = s.regs) (hjob : t.job = s.job) (hmem : t.mem = s.mem) (sh : Nat) (e : Engine) (r : Run)
    (w c : Nat) : t.scalarOut sh e r w c = s.scalarOut sh e r w c := by
  simp only [State.scalarOut, State.trayLoad, State.loftLoad, State.loftStore, State.bytes_of_mem hmem,
    State.loftFault_congr hregs hjob, State.loftAddr_congr hregs hjob]

theorem State.vectorOut_congr (hregs : t.regs = s.regs) (hjob : t.job = s.job) (hmem : t.mem = s.mem) (sh : Nat) (e : Engine) (r : Run)
    (w : Nat) : t.vectorOut sh e r w = s.vectorOut sh e r w := by
  simp only [State.vectorOut, State.bytes_of_mem hmem, State.loftFault_congr hregs hjob, State.loftAddr_congr hregs hjob]

end

/-- What a scalar slot can put out: a fault and nothing else, or a scalar result and a jump below word 4,096; no band. -/
structure SlotOut.scalarLike (o : SlotOut) : Prop where
  dest : o.dest.isScalar
  jump : ∀ t, o.jump = some t → t < 4096
  dev : o.dev = none

theorem outS_scalarLike (i : Nat) (w : Word) (lat : Nat) : (outS i w lat).scalarLike := ⟨trivial, fun _ h => by simp [outS] at h, rfl⟩

theorem outFault_scalarLike (f : Nat × Nat) : (outFault f).scalarLike := ⟨trivial, fun _ h => by simp [outFault] at h, rfl⟩

theorem fTGT_lt (w : Nat) : fTGT w < 4096 := Nat.mod_lt _ (by decide)

theorem branchIf_scalarLike (c : Bool) (w : Nat) : (branchIf c w).scalarLike := by
  unfold branchIf
  split
  · exact ⟨trivial, fun t h => by obtain rfl := Option.some.inj h; exact fTGT_lt w, rfl⟩
  · exact ⟨trivial, fun _ h => by simp at h, rfl⟩

theorem State.trayLoad_scalarLike (s : State) (sh : Nat) (e : Engine) (w n : Nat) : (s.trayLoad sh e w n).scalarLike := by
  unfold State.trayLoad
  split
  · exact outFault_scalarLike _
  · exact outS_scalarLike ..

theorem trayStore_scalarLike (sh : Nat) (e : Engine) (w n : Nat) : (trayStore sh e w n).scalarLike := by
  unfold trayStore
  split
  · exact outFault_scalarLike _
  · exact ⟨trivial, fun _ h => by simp at h, rfl⟩

theorem State.loftLoad_scalarLike (s : State) (sh : Nat) (e : Engine) (r : Run) (w : Nat) : (s.loftLoad sh e r w).scalarLike := by
  unfold State.loftLoad
  split
  · exact outFault_scalarLike _
  · exact ⟨trivial, fun _ h => by simp at h, rfl⟩

theorem State.loftStore_scalarLike (s : State) (sh : Nat) (e : Engine) (r : Run) (w : Nat) : (s.loftStore sh e r w).scalarLike := by
  unfold State.loftStore
  split
  · exact outFault_scalarLike _
  · exact ⟨trivial, fun _ h => by simp at h, rfl⟩

theorem jumpTo_scalarLike {d : Dest} {t : Nat} (hd : d.isScalar) (ht : t < 4096) : ({ dest := d, jump := some t } : SlotOut).scalarLike :=
  ⟨hd, fun _ h => Option.some.inj h ▸ ht, rfl⟩

theorem State.scalarOut_scalarLike (s : State) (sh : Nat) (e : Engine) (r : Run) (w c : Nat) : (s.scalarOut sh e r w c).scalarLike := by
  unfold State.scalarOut
  split
  · exact outFault_scalarLike _
  · dsimp only
    split
    all_goals first
      | apply outS_scalarLike | apply State.trayLoad_scalarLike | apply trayStore_scalarLike | apply State.loftLoad_scalarLike
      | apply State.loftStore_scalarLike | apply branchIf_scalarLike | exact jumpTo_scalarLike trivial (fTGT_lt w)
      | exact ⟨trivial, fun _ h => by simp at h, rfl⟩ | split
    case isTrue => exact outFault_scalarLike _
    case isFalse h => exact jumpTo_scalarLike trivial (Nat.lt_of_not_le h)
    case h_1 => exact outFault_scalarLike _
    case h_2 => exact ⟨trivial, fun _ h => by simp at h, rfl⟩

/-! ## The issue of a word -/

/-- A run without its PC and its timing. -/
def Run.work (r : Run) : Run := { r with pc := 0, cyc := 0, loft := [], wrote := 0, scalarPort := 0, vectorPort := 0, avail := [] }

/-- The same invocation but for its PC and its timing. -/
def Run.sameWork (q r : Run) : Prop := q.work = r.work

theorem Run.sameWork.out {q r : Run} (h : q.sameWork r) : q.out = r.out := (congrArg Run.out h : q.work.out = r.work.out)
theorem Run.sameWork.init {q r : Run} (h : q.sameWork r) : q.init = r.init := (congrArg Run.init h : q.work.init = r.work.init)
theorem Run.sameWork.line {q r : Run} (h : q.sameWork r) : q.line = r.line := (congrArg Run.line h : q.work.line = r.work.line)
theorem Run.sameWork.claimed {q r : Run} (h : q.sameWork r) : q.claimed = r.claimed := (congrArg Run.claimed h : q.work.claimed = r.work.claimed)
theorem Run.sameWork.claimFail {q r : Run} (h : q.sameWork r) : q.claimFail = r.claimFail := (congrArg Run.claimFail h : q.work.claimFail = r.work.claimFail)
theorem Run.sameWork.recDropped {q r : Run} (h : q.sameWork r) : q.recDropped = r.recDropped := (congrArg Run.recDropped h : q.work.recDropped = r.work.recDropped)

/-- A state that differs in what no slot reads: the time, the count of free values. -/
structure State.sameSlots (s t : State) : Prop where
  regs : t.regs = s.regs
  job : t.job = s.job
  eng : t.eng = s.eng
  lines : t.lines = s.lines

theorem State.sameSlots.refl {s : State} : s.sameSlots s := ⟨rfl, rfl, rfl, rfl⟩

theorem State.sameSlots.trans {s t u : State} (h : s.sameSlots t) (h' : t.sameSlots u) : s.sameSlots u :=
  ⟨h'.regs.trans h.regs, h'.job.trans h.job, h'.eng.trans h.eng, h'.lines.trans h.lines⟩

theorem storeAll_sameSlots (s : State) (xs : List (Nat × Nat)) : s.sameSlots (storeAll s xs) := by
  obtain ⟨hregs, hjob, heng, hlines⟩ := storeAll_frame s xs
  exact ⟨hregs, hjob, heng, hlines⟩

section
variable (s : State)

theorem State.issueAt_frame (r : Run) (lo hi : Nat) : s.sameSlots (s.issueAt r lo hi).2 ∧ (s.issueAt r lo hi).2.mem = s.mem := by
  unfold State.issueAt
  dsimp only
  split
  · exact ⟨⟨rfl, rfl, rfl, rfl⟩, rfl⟩
  · exact ⟨.refl, rfl⟩

theorem State.loftStart_frame (sh c : Nat) (r : Run) (o : SlotOut) :
    (s.sameSlots (s.loftStart sh c r o).2 ∧ (s.loftStart sh c r o).2.mem = s.mem) ∧
    (s.loftStart sh c r o).1.2.sameWork r ∧ (s.loftStart sh c r o).1.2.pc = r.pc ∧
    (s.loftStart sh c r o).1.1.emit = o.emit ∧ (s.loftStart sh c r o).1.1.dev = o.dev ∧ (s.loftStart sh c r o).1.1.jump = o.jump := by
  unfold State.loftStart
  dsimp only
  split
  · exact ⟨⟨.refl, rfl⟩, rfl, rfl, rfl, rfl, rfl⟩
  · split
    · exact ⟨⟨⟨rfl, rfl, rfl, rfl⟩, rfl⟩, rfl, rfl, rfl, rfl, rfl⟩
    · exact ⟨⟨.refl, rfl⟩, rfl, rfl, rfl, rfl, rfl⟩
  · exact ⟨⟨⟨rfl, rfl, rfl, rfl⟩, rfl⟩, rfl, rfl, rfl, rfl, rfl⟩

theorem State.output_congr {sh : Nat} {r : Run} {a b a' b' : SlotOut} (ha : a'.emit = a.emit) (hb : b'.dev = b.dev) :
    s.output sh r a' b' = s.output sh r a b := by
  unfold State.output
  rw [ha, hb]

theorem Run.after_sameWork (r : Run) (c lo hi : Nat) (a b : SlotOut) : (r.after c lo hi a b).sameWork r := rfl

theorem Run.after_pc (r : Run) (c lo hi : Nat) (a b : SlotOut) : (r.after c lo hi a b).pc = a.jump.getD (r.pc + 1) := by
  unfold Run.after
  cases a.jump <;> rfl

/-- The word is done with its two slots' effects: the output, the results, then END, the fault past the last word, or the next word. -/
def State.wordDone (u : State) (sh : Nat) (e : Engine) (q : Run) (c : Nat) (a b : SlotOut) : State :=
  let t := (u.output sh q a b).1.setEngine sh { (e.write a.dest).write b.dest with run := some (u.output sh q a b).2 }
  if a.ends then t.endRun sh c
  else if 4096 ≤ (u.output sh q a b).2.pc then t.engineFault sh fcFETCH 4095 0
  else t.shShow sh

/-- The scalar slot of a word, in the cycle in which it issues, and the vector slot behind the scalar slot's store. -/
def State.scalarAt (s : State) (sh : Nat) (r : Run) (w : Nat) : SlotOut :=
  s.scalarOut sh (s.engine sh) r (w % 2 ^ 32) (s.issueAt r (w % 2 ^ 32) (w / 2 ^ 32)).1
def State.vectorAfter (s : State) (sh : Nat) (r : Run) (w : Nat) : SlotOut :=
  (storeAll s (s.scalarAt sh r w).stores).vectorOut sh (s.engine sh) r (w / 2 ^ 32)

/-- A word neither of whose slots faults is done behind its stores and its loft accesses. -/
theorem State.stepWord_done (sh : Nat) (r : Run) (w : Nat) (ha : (s.scalarAt sh r w).fault = none)
    (hb : (s.vectorAfter sh r w).fault = none) (hsame : sameScalar (s.scalarAt sh r w).dest (s.vectorAfter sh r w).dest = false) :
    ∃ u q c, s.sameSlots u ∧ u.mem = (storeAll (storeAll s (s.scalarAt sh r w).stores) (s.vectorAfter sh r w).stores).mem ∧
      q.sameWork r ∧ q.pc = (s.scalarAt sh r w).jump.getD (r.pc + 1) ∧
      s.stepWord sh r w = u.wordDone sh (s.engine sh) q c (s.scalarAt sh r w) (s.vectorAfter sh r w) := by
  obtain ⟨⟨hregs, hjob, heng, hlines⟩, hmem⟩ := s.issueAt_frame r (w % 2 ^ 32) (w / 2 ^ 32)
  unfold State.vectorAfter State.scalarAt at *
  unfold State.stepWord
  dsimp only
  generalize s.issueAt r (w % 2 ^ 32) (w / 2 ^ 32) = p at *
  obtain ⟨c, s9⟩ := p
  dsimp only at *
  have hslots₀ : s.sameSlots (s9.at (r.timeOf (s.shRate sh) (16 + c))) := ⟨hregs, hjob, heng, hlines⟩
  have hmem₀ : (s9.at (r.timeOf (s.shRate sh) (16 + c))).mem = s.mem := hmem
  generalize s9.at (r.timeOf (s.shRate sh) (16 + c)) = s0 at *
  rw [State.scalarOut_congr hslots₀.regs hslots₀.job hmem₀]
  generalize s.scalarOut sh (s.engine sh) r (w % 2 ^ 32) c = a at *
  have hstore := storeAll_sameSlots s a.stores
  have hstore₀ := hslots₀.trans (storeAll_sameSlots s0 a.stores)
  have hmem₁ := storeAll_mem hmem₀ a.stores
  rw [State.vectorOut_congr (hstore₀.regs.trans hstore.regs.symm) (hstore₀.job.trans hstore.job.symm) hmem₁]
  generalize (storeAll s a.stores).vectorOut sh (s.engine sh) r (w / 2 ^ 32) = b at *
  rw [ha, hsame, hb]
  dsimp only
  rw [if_neg Bool.false_ne_true]
  have hslots₂ := hstore₀.trans (storeAll_sameSlots (storeAll s0 a.stores) b.stores)
  have hmem₂ := storeAll_mem hmem₁ b.stores
  generalize storeAll (storeAll s0 a.stores) b.stores = s2 at *
  obtain ⟨⟨hslots₃, hmem₃⟩, hwork₃, hpc₃, hemit, -, hjump⟩ := s2.loftStart_frame sh c r a
  generalize s2.loftStart sh c r a = pa at *
  obtain ⟨⟨a1, ra⟩, sa⟩ := pa
  obtain ⟨⟨hslots₄, hmem₄⟩, hwork₄, hpc₄, -, hdev, -⟩ := sa.loftStart_frame sh c ra b
  dsimp only at *
  generalize sa.loftStart sh c ra b = pb at *
  obtain ⟨⟨b1, rb⟩, sb⟩ := pb
  dsimp only at *
  refine ⟨sb, rb.after c (w % 2 ^ 32) (w / 2 ^ 32) a1 b1, c, (hslots₂.trans hslots₃).trans hslots₄, (hmem₄.trans hmem₃).trans hmem₂,
    hwork₄.trans hwork₃, ?_, ?_⟩
  · rw [Run.after_pc, hjump, hpc₄, hpc₃]
  · rw [sb.output_congr hemit hdev]
    rfl

/-! ## A word that goes on -/

theorem State.doEmit_frame (sh : Nat) (r : Run) (blk : List Nat) :
    (s.doEmit sh r blk).1.eng = s.eng ∧ (s.doEmit sh r blk).1.mem = s.mem ∧ (s.doEmit sh r blk).2.pc = r.pc := by
  obtain ⟨heng, hmem, hpc⟩ := s.claim_frame sh r
  unfold State.doEmit
  dsimp only
  split
  · exact ⟨rfl, rfl, rfl⟩
  · split
    · exact ⟨heng, hmem, hpc⟩
    · split
      · exact ⟨heng, hmem, hpc⟩
      · refine ⟨?_, ?_, hpc⟩
        · split
          · rw [State.bump_eng, heng]
          · rw [State.raise_eng, State.bump_eng, heng]
        · split
          · rw [State.bump_mem, hmem]
          · rw [State.raise_mem, State.bump_mem, hmem]

theorem State.doDev_frame (sh : Nat) (r : Run) (band : Nat) (ls : List (Nat × Half)) :
    (s.doDev sh r band ls).1.eng = s.eng ∧ (s.doDev sh r band ls).1.mem = s.mem ∧ (s.doDev sh r band ls).2.pc = r.pc := by
  obtain ⟨heng, hmem, hpc⟩ := s.claim_frame sh r
  unfold State.doDev
  dsimp only
  split
  · exact ⟨rfl, rfl, rfl⟩
  · split
    · exact ⟨heng, hmem, hpc⟩
    · exact ⟨heng, hmem, hpc⟩

theorem State.output_frame (sh : Nat) (r : Run) (a b : SlotOut) :
    (s.output sh r a b).1.eng = s.eng ∧ (s.output sh r a b).1.mem = s.mem ∧ (s.output sh r a b).2.pc = r.pc := by
  have hemit : ∀ p : State × Run, p = (match a.emit with | none => (s, r) | some blk => s.doEmit sh r blk) →
      p.1.eng = s.eng ∧ p.1.mem = s.mem ∧ p.2.pc = r.pc := by
    rintro p rfl
    cases a.emit with
    | none => exact ⟨rfl, rfl, rfl⟩
    | some blk => exact s.doEmit_frame sh r blk
  unfold State.output
  dsimp only
  obtain ⟨heng, hmem, hpc⟩ := hemit _ rfl
  split
  · exact ⟨heng, hmem, hpc⟩
  · rename_i band ls _
    obtain ⟨heng', hmem', hpc'⟩ := State.doDev_frame _ sh _ band ls
    exact ⟨heng'.trans heng, hmem'.trans hmem, hpc'.trans hpc⟩

variable {s}

/-- A word whose slots do not fault and do not end the invocation leaves the engine at the next word or at the jump's target, with its
results written and its bytes stored. -/
theorem State.issue_goes {sh : Nat} {r : Run} {w : Nat} {a b : SlotOut} (hrun : running s sh r w) (ha : s.scalarAt sh r w = a)
    (hb : s.vectorAfter sh r w = b) (hfa : a.fault = none) (hfb : b.fault = none) (hsame : sameScalar a.dest b.dest = false)
    (hends : a.ends = false) :
    (∃ q, q.pc = a.jump.getD (r.pc + 1) ∧
      (s.issue sh w).engine sh = { ((s.engine sh).write a.dest).write b.dest with run := some q }) ∧
    (∀ k, k ≠ sh → (s.issue sh w).engine k = s.engine k) ∧ (s.issue sh w).mem = (storeAll (storeAll s a.stores) b.stores).mem := by
  obtain ⟨hr, hw, hpc⟩ := hrun
  obtain ⟨u, q, c, hslots, hmem, -, hq, hstep⟩ := s.stepWord_done sh r w (ha ▸ hfa) (hb ▸ hfb) (ha ▸ hb ▸ hsame)
  have hissue : s.issue sh w = s.stepWord sh r w := by
    unfold State.issue
    rw [hr]
    exact if_pos hw
  rw [ha] at hq
  obtain ⟨heng', hmem', hpc'⟩ := u.output_frame sh q a b
  have hlt : (u.output sh q a b).2.pc < 4096 := by
    rw [hpc', hq]
    cases hj : a.jump with
    | none => exact Nat.lt_of_lt_of_le (Nat.succ_lt_succ hpc) (Nat.le_refl _)
    | some t => exact (ha ▸ State.scalarOut_scalarLike _ _ _ _ _ _ : a.scalarLike).jump t hj
  rw [hissue, hstep, ha, hb]
  unfold State.wordDone
  dsimp only
  rw [hends, if_neg Bool.false_ne_true, if_neg (Nat.not_le.2 hlt)]
  refine ⟨⟨_, hpc'.trans hq, ?_⟩, fun k hk => ?_, ?_⟩
  · rw [State.engine_of_eng (State.shShow_eng _ sh), State.engine_setEngine_same]
  · rw [State.engine_of_eng (State.shShow_eng _ sh), State.engine_setEngine_other _ _ hk, State.engine_of_eng (heng'.trans hslots.eng)]
  · rw [State.shShow_mem]
    exact hmem'.trans (hmem.trans (by rw [ha, hb]))

end
end Sys2Proof.Machine
end

/-! PROOFS. The scalar commands (R156, R159, R163): results on registers and immediates, branches and jumps (O25, O26, O28). -/
section
namespace Sys2Proof.Machine

/-! ## A scalar command beside a calm vector slot -/

theorem State.vectorOut_zero (s : State) (sh : Nat) (e : Engine) (r : Run) : s.vectorOut sh e r 0 = {} := rfl

section
variable {s : State} {sh : Nat} {r : Run} {lo : Nat} {vec : Word} {a : SlotOut}

/-- A scalar slot that stores nothing leaves the vector slot's operands. -/
theorem State.vectorAfter_of_noStores (ha : s.scalarAt sh r (wordOf lo vec.toNat) = a) (hst : a.stores = []) :
    s.vectorAfter sh r (wordOf lo vec.toNat) = s.vectorOut sh (s.engine sh) r vec.toNat := by
  unfold State.vectorAfter
  rw [ha, hst, wordOf_div]
  rfl

theorem State.scalarAt_wordOf (hlo : lo < 2 ^ 32) :
    s.scalarAt sh r (wordOf lo vec.toNat) = s.scalarOut sh (s.engine sh) r lo (s.issueAt r lo vec.toNat).1 := by
  unfold State.scalarAt
  rw [wordOf_mod _ hlo, wordOf_div]

theorem sameScalar_eq_false {a b : Dest} (h : ∀ i w, b ≠ .s i w) : sameScalar a b = false := by
  cases b with
  | s i w => exact absurd rfl (h i w)
  | _ => cases a <;> rfl

/-- A scalar command that stores nothing: its result is written, beside VNOP no lane and no byte changes, and the run goes on. -/
theorem State.issue_scalar (hrun : running s sh r (wordOf lo vec.toNat)) (hcalm : calmVector s sh r vec) (hlo : lo < 2 ^ 32)
    (ha : s.scalarOut sh (s.engine sh) r lo (s.issueAt r lo vec.toNat).1 = a) (hfa : a.fault = none) (hst : a.stores = [])
    (hends : a.ends = false) :
    (∀ i, ((s.issue sh (wordOf lo vec.toNat)).engine sh).s i = ((s.engine sh).write a.dest).s i) ∧
    runsAt s (s.issue sh (wordOf lo vec.toNat)) sh (a.jump.getD (r.pc + 1)) ∧
    (vec = 0 → lanesKept (s.engine sh) ((s.issue sh (wordOf lo vec.toNat)).engine sh) ∧
      ∀ x, (s.issue sh (wordOf lo vec.toNat)).byte x = s.byte x) := by
  have ha' : s.scalarAt sh r (wordOf lo vec.toNat) = a := (State.scalarAt_wordOf hlo).trans ha
  have hb := State.vectorAfter_of_noStores ha' hst
  obtain ⟨hfb, hdest⟩ := hcalm
  obtain ⟨⟨q, hq, heng⟩, hothers, hmem⟩ := State.issue_goes hrun ha' hb hfa hfb (sameScalar_eq_false hdest) hends
  refine ⟨fun i => ?_, ⟨⟨q, by rw [heng], hq⟩, hothers⟩, fun hvec => ?_⟩
  · rw [heng, Engine.s_run, Engine.s_write_of_ne _ hdest]
  · subst hvec
    have hscalar : a.scalarLike := ha ▸ State.scalarOut_scalarLike ..
    have hzero : s.vectorOut sh (s.engine sh) r (0 : Word).toNat = {} := s.vectorOut_zero sh _ r
    rw [hzero] at heng hmem
    rw [hst] at hmem
    exact ⟨heng ▸ lanesKept_trans (hscalar.dest.lanesKept _) (lanesKept_run _ _), State.byte_of_mem hmem⟩

theorem toNat_eq_zero_iff {n : Nat} {d : BitVec n} : d.toNat = 0 ↔ d = 0 :=
  ⟨fun h => BitVec.eq_of_toNat_eq (by simpa using h), fun h => by simp [h]⟩

/-- A scalar command whose only outcome is a register's value. -/
theorem State.issue_outS {d : BitVec 5} {v : Word} {lat : Nat} (hrun : running s sh r (wordOf lo vec.toNat)) (hcalm : calmVector s sh r vec)
    (hlo : lo < 2 ^ 32) (ha : s.scalarOut sh (s.engine sh) r lo (s.issueAt r lo vec.toNat).1 = outS d.toNat v lat) :
    scalarResult s (s.issue sh (wordOf lo vec.toNat)) sh d vec v ∧ runsAt s (s.issue sh (wordOf lo vec.toNat)) sh (r.pc + 1) := by
  obtain ⟨hs, hruns, hkept⟩ := State.issue_scalar hrun hcalm hlo ha rfl rfl rfl
  refine ⟨⟨?_, fun i hi => ?_, hkept⟩, hruns⟩
  · rw [hs]
    exact ((s.engine sh).s_setS_same d.toNat v).trans (if_congr toNat_eq_zero_iff rfl rfl)
  · rw [hs]
    exact (s.engine sh).s_setS_other d.toNat v hi

end

/-! ## Two registers -/

theorem scalarRegOps_exec : ∀ p ∈ scalarRegOps, ∀ (s : State) (sh : Fin 192) (d a b : BitVec 5) (vec : Word),
    exec (p.1 sh d a b 0 vec) s = .next (s.issue sh (wordOf (slotSR p.2.1 d a b 0) vec.toNat)) := by
  simp only [scalarRegOps, List.forall_mem_cons]
  exact ⟨fun _ _ _ _ _ _ => rfl, fun _ _ _ _ _ _ => rfl, fun _ _ _ _ _ _ => rfl, fun _ _ _ _ _ _ => rfl, fun _ _ _ _ _ _ => rfl,
    fun _ _ _ _ _ _ => rfl, fun _ _ _ _ _ _ => rfl, fun _ _ _ _ _ _ => rfl, fun _ _ _ _ _ _ => rfl, fun _ _ _ _ _ _ => rfl,
    fun _ _ _ _ _ _ => rfl, fun _ h => absurd h List.not_mem_nil⟩

/-- The smaller and the greater of two signed words of any width. -/
theorem ite_slt_min {n : Nat} (a b : BitVec n) : (if BitVec.slt b a then b else a) = if a.toInt ≤ b.toInt then a else b := by
  unfold BitVec.slt
  by_cases h : a.toInt ≤ b.toInt
  · rw [if_pos h, if_neg (by simpa using h)]
  · rw [if_neg h, if_pos (by simpa using h)]

theorem ite_slt_max {n : Nat} (a b : BitVec n) : (if BitVec.slt a b then b else a) = if a.toInt ≤ b.toInt then b else a := by
  unfold BitVec.slt
  rcases Int.lt_trichotomy a.toInt b.toInt with h | h | h
  · rw [if_pos (by simpa using h), if_pos (Int.le_of_lt h)]
  · rw [if_pos (Int.le_of_eq h), BitVec.eq_of_toInt_eq h, ite_self]
  · rw [if_neg (by simpa using Int.le_of_lt h), if_neg (Int.not_le.2 h)]

theorem minW_eq (a b : Word) : minW a b = if a.toInt ≤ b.toInt then a else b := ite_slt_min a b
theorem maxW_eq (a b : Word) : maxW a b = if a.toInt ≤ b.toInt then b else a := ite_slt_max a b

theorem scalarIllegal_slotSR {op : Nat} (d a b : BitVec 5) (h : 1 ≤ op) (h' : op ≤ 0x0B) : scalarIllegal (slotSR op d a b 0) = false := by
  obtain ⟨hOP, -, -, -, hrsv⟩ := slotSR_fields op d a b (by omega) 0
  unfold scalarIllegal
  dsimp only
  rw [hOP, hrsv]
  grind

/-- An arm of the scalar slot on two registers, at the word of its slot. -/
theorem scalarReg_out {f : Word → Word → Word} (op lat : Nat) (h : 1 ≤ op) (h' : op ≤ 0x0B)
    (hf : ∀ (s : State) (sh : Nat) (e : Engine) (r : Run) (w c : Nat), fOP w = op → scalarIllegal w = false →
      s.scalarOut sh e r w c = outS (fD w) (f (e.s (fA w)) (e.s (fB w))) lat) :
    op < 64 ∧ ∀ (s : State) (sh : Nat) (e : Engine) (r : Run) (d a b : BitVec 5) (c : Nat),
      ∃ lat, s.scalarOut sh e r (slotSR op d a b 0) c = outS d.toNat (f (e.s a.toNat) (e.s b.toNat)) lat := by
  refine ⟨by omega, fun s sh e r d a b c => ⟨lat, ?_⟩⟩
  obtain ⟨hOP, hD, hA, hB, -⟩ := slotSR_fields op d a b (by omega) 0
  rw [hf s sh e r _ c hOP (scalarIllegal_slotSR d a b h h'), hD, hA, hB]

theorem scalarRegOps_out : ∀ p ∈ scalarRegOps, p.2.1 < 64 ∧ ∀ (s : State) (sh : Nat) (e : Engine) (r : Run) (d a b : BitVec 5) (c : Nat),
    ∃ lat, s.scalarOut sh e r (slotSR p.2.1 d a b 0) c = outS d.toNat (p.2.2 (e.s a.toNat) (e.s b.toNat)) lat := by
  simp only [scalarRegOps, List.forall_mem_cons]
  refine ⟨?_, ?_, ?_, ?_, ?_, ?_, ?_, ?_, ?_, ?_, ?_, fun _ h => absurd h List.not_mem_nil⟩
  · exact scalarReg_out 1 1 (by decide) (by decide) fun s sh e r w c h h' => by simp only [State.scalarOut, h, h', Bool.false_eq_true, if_false]
  · exact scalarReg_out 2 1 (by decide) (by decide) fun s sh e r w c h h' => by simp only [State.scalarOut, h, h', Bool.false_eq_true, if_false]
  · exact scalarReg_out 3 1 (by decide) (by decide) fun s sh e r w c h h' => by simp only [State.scalarOut, h, h', Bool.false_eq_true, if_false]
  · exact scalarReg_out 4 1 (by decide) (by decide) fun s sh e r w c h h' => by simp only [State.scalarOut, h, h', Bool.false_eq_true, if_false]
  · exact scalarReg_out 5 1 (by decide) (by decide) fun s sh e r w c h h' => by simp only [State.scalarOut, h, h', Bool.false_eq_true, if_false]
  · exact scalarReg_out (f := shlW) 6 1 (by decide) (by decide) fun s sh e r w c h h' => by simp only [State.scalarOut, h, h', Bool.false_eq_true, if_false]
  · exact scalarReg_out (f := shrW) 7 1 (by decide) (by decide) fun s sh e r w c h h' => by simp only [State.scalarOut, h, h', Bool.false_eq_true, if_false]
  · exact scalarReg_out (f := sraW) 8 1 (by decide) (by decide) fun s sh e r w c h h' => by simp only [State.scalarOut, h, h', Bool.false_eq_true, if_false]
  · exact scalarReg_out 9 3 (by decide) (by decide) fun s sh e r w c h h' => by simp only [State.scalarOut, h, h', Bool.false_eq_true, if_false]
  · exact scalarReg_out (f := fun a b => if a.toInt ≤ b.toInt then a else b) 10 1 (by decide) (by decide) fun s sh e r w c h h' => by simp only [State.scalarOut, h, h', Bool.false_eq_true, if_false, minW_eq]
  · exact scalarReg_out (f := fun a b => if a.toInt ≤ b.toInt then b else a) 11 1 (by decide) (by decide) fun s sh e r w c h h' => by simp only [State.scalarOut, h, h', Bool.false_eq_true, if_false, maxW_eq]

/-- Settles O25: each command's arm of `State.scalarOut` gives the result, and `State.issue_outS` what the word leaves. -/
theorem scalarRegisterCommands : Obligations.ScalarRegisterCommands := by
  intro p hp s sh d a b vec r hrun hcalm
  obtain ⟨hop, hout⟩ := scalarRegOps_out p hp
  obtain ⟨lat, ha⟩ := hout s sh (s.engine sh) r d a b (s.issueAt r (slotSR p.2.1 d a b 0) vec.toNat).1
  exact ⟨_, scalarRegOps_exec p hp s sh d a b vec, State.issue_outS hrun hcalm (slotSR_lt _ _ _ _ hop _) ha⟩

/-! ## A register and an immediate -/

theorem ofNat_toNat_self {n : Nat} (x : BitVec n) : BitVec.ofNat n x.toNat = x := by simp

theorem sextImm_of {w : Nat} {imm : BitVec 16} (h : fIMM w = imm.toNat) : sextImm w = imm.signExtend 32 := by
  rw [sextImm, h, ofNat_toNat_self]

theorem zextImm_of {w : Nat} {imm : BitVec 16} (h : fIMM w = imm.toNat) : zextImm w = imm.setWidth 32 := by
  rw [zextImm, h, BitVec.ofNat_toNat]

/-- A shift by an immediate of 0 to 31. -/
theorem shiftBy_of {w : Nat} {imm : BitVec 16} (h : fIMM w = imm.toNat) (hlt : imm.toNat < 32) :
    (BitVec.ofNat 32 (fIMM w)).toNat % 32 = imm.toNat := by
  rw [h, BitVec.toNat_ofNat]
  omega

theorem scalarIllegal_slotSI {op : Nat} (d a : BitVec 5) (imm : BitVec 16) (h : 0x10 ≤ op) (h' : op ≤ 0x15)
    (hshift : 0x13 ≤ op → imm.toNat < 32) : scalarIllegal (slotSI op d a imm) = false := by
  obtain ⟨hOP, -, -, -⟩ := slotSI_fields op d a (by omega) imm
  have hrsv : 0x13 ≤ op → bits (slotSI op d a imm) 21 11 = 0 := fun hs => by
    have := hshift hs; have := d.isLt; have := a.isLt
    unfold slotSI bits
    omega
  unfold scalarIllegal
  dsimp only
  rw [hOP]
  grind

theorem scalarImmOps_exec : ∀ p ∈ scalarImmOps, ∀ (s : State) (sh : Fin 192) (d a : BitVec 5) (imm : BitVec 16) (vec : Word),
    exec (p.1 sh d a imm vec) s = .next (s.issue sh (wordOf (slotSI p.2.1 d a imm) vec.toNat)) := by
  simp only [scalarImmOps, List.forall_mem_cons]
  exact ⟨fun _ _ _ _ _ _ => rfl, fun _ _ _ _ _ _ => rfl, fun _ _ _ _ _ _ => rfl, fun _ _ _ _ _ _ => rfl, fun _ _ _ _ _ _ => rfl,
    fun _ _ _ _ _ _ => rfl, fun _ h => absurd h List.not_mem_nil⟩

/-- An arm of the scalar slot on a register and an immediate, at the word of its slot. -/
theorem scalarImm_out (op : Nat) (shift : Bool) (f : Word → BitVec 16 → Word) (h : 0x10 ≤ op) (h' : op ≤ 0x15)
    (hshift : 0x13 ≤ op → shift = true)
    (hf : ∀ (s : State) (sh : Nat) (e : Engine) (r : Run) (imm : BitVec 16) (w c : Nat), fOP w = op → scalarIllegal w = false →
      fIMM w = imm.toNat → (shift = true → imm.toNat < 32) → s.scalarOut sh e r w c = outS (fD w) (f (e.s (fA w)) imm) 1) :
    op < 64 ∧ ∀ (s : State) (sh : Nat) (e : Engine) (r : Run) (d a : BitVec 5) (imm : BitVec 16) (c : Nat),
      (shift = true → imm.toNat < 32) → s.scalarOut sh e r (slotSI op d a imm) c = outS d.toNat (f (e.s a.toNat) imm) 1 := by
  refine ⟨by omega, fun s sh e r d a imm c himm => ?_⟩
  obtain ⟨hOP, hD, hA, hIMM⟩ := slotSI_fields op d a (by omega) imm
  rw [hf s sh e r imm _ c hOP (scalarIllegal_slotSI d a imm h h' fun hs => himm (hshift hs)) hIMM himm, hD, hA]

theorem scalarImmOps_out : ∀ p ∈ scalarImmOps, p.2.1 < 64 ∧ ∀ (s : State) (sh : Nat) (e : Engine) (r : Run) (d a : BitVec 5)
    (imm : BitVec 16) (c : Nat), (p.2.2.1 = true → imm.toNat < 32) →
      s.scalarOut sh e r (slotSI p.2.1 d a imm) c = outS d.toNat (p.2.2.2 (e.s a.toNat) imm) 1 := by
  refine List.forall_mem_cons.2 ⟨?_, List.forall_mem_cons.2 ⟨?_, List.forall_mem_cons.2 ⟨?_, List.forall_mem_cons.2 ⟨?_,
    List.forall_mem_cons.2 ⟨?_, List.forall_mem_cons.2 ⟨?_, fun _ h => absurd h List.not_mem_nil⟩⟩⟩⟩⟩⟩
  · exact scalarImm_out 0x10 false (fun a i => a + i.signExtend 32) (by decide) (by decide) (by decide) fun s sh e r imm w c h h' hI _ => by
      simp only [State.scalarOut, h, h', Bool.false_eq_true, if_false, sextImm_of hI]
  · exact scalarImm_out 0x11 false (fun a i => a &&& i.setWidth 32) (by decide) (by decide) (by decide) fun s sh e r imm w c h h' hI _ => by
      simp only [State.scalarOut, h, h', Bool.false_eq_true, if_false, zextImm_of hI]
  · exact scalarImm_out 0x12 false (fun a i => a ||| i.setWidth 32) (by decide) (by decide) (by decide) fun s sh e r imm w c h h' hI _ => by
      simp only [State.scalarOut, h, h', Bool.false_eq_true, if_false, zextImm_of hI]
  · exact scalarImm_out 0x13 true (fun a i => a <<< i.toNat) (by decide) (by decide) (by decide) fun s sh e r imm w c h h' hI hlt => by
      simp only [State.scalarOut, h, h', Bool.false_eq_true, if_false, shlW, shiftBy_of hI (hlt rfl)]
  · exact scalarImm_out 0x14 true (fun a i => a >>> i.toNat) (by decide) (by decide) (by decide) fun s sh e r imm w c h h' hI hlt => by
      simp only [State.scalarOut, h, h', Bool.false_eq_true, if_false, shrW, shiftBy_of hI (hlt rfl)]
  · exact scalarImm_out 0x15 true (fun a i => a.sshiftRight i.toNat) (by decide) (by decide) (by decide) fun s sh e r imm w c h h' hI hlt => by
      simp only [State.scalarOut, h, h', Bool.false_eq_true, if_false, sraW, shiftBy_of hI (hlt rfl)]

theorem State.scalarOut_lui (s : State) (sh : Nat) (e : Engine) (r : Run) (d : BitVec 5) (imm : BitVec 16) (c : Nat) :
    s.scalarOut sh e r (slotSI 0x16 d 0 imm) c = outS d.toNat (imm.setWidth 32 <<< 16) 1 := by
  obtain ⟨hOP, hD, hA, hIMM⟩ := slotSI_fields 0x16 d 0 (by decide) imm
  have hlegal : scalarIllegal (slotSI 0x16 d 0 imm) = false := by
    unfold scalarIllegal
    dsimp only
    rw [hOP, hA]
    rfl
  simp only [State.scalarOut, hOP, hlegal, hD, zextImm_of hIMM, Bool.false_eq_true, if_false]

/-- The word beside which an undefined slot would issue as SNOP is none whose scalar slot is SNOP. -/
theorem State.undefinedWord_of_snop {s : State} {sh : Nat} {r : Run} {vec : Word} (h : running s sh r (wordOf 0 vec.toNat)) :
    s.undefinedWord sh = none := by
  obtain ⟨hr, hw, -⟩ := h
  have hOP : fOP (wordOf 0 vec.toNat) = 0 := by unfold fOP wordOf; omega
  unfold State.undefinedWord
  rw [hr]
  dsimp only
  rw [hw, hOP]
  exact if_neg (by simp)

theorem exec_snop {s : State} {sh : Fin 192} {r : Run} {vec : Word} (h : running s sh r (wordOf 0 vec.toNat)) :
    exec (.snop sh 0 0 0 vec) s = .next (s.issue sh (wordOf 0 vec.toNat)) := by
  have hzero : slotSI 0x00 0 0 0 = 0 := by decide
  have hexec : exec (.snop sh 0 0 0 vec) s = .next (s.issue sh ((s.undefinedWord sh).getD (wordOf (slotSI 0x00 0 0 0) vec.toNat))) := rfl
  rw [hexec, State.undefinedWord_of_snop h, hzero, Option.getD_none]

/-- Settles O26: as O25, with the immediate as the slot's field gives it; SNOP puts out nothing. -/
theorem scalarImmediateCommands : Obligations.ScalarImmediateCommands := by
  refine ⟨fun p hp s sh d a imm vec r himm hrun hcalm => ?_, fun s sh d imm vec r hrun hcalm => ?_, fun s sh vec r hrun hcalm => ?_⟩
  · obtain ⟨hop, hout⟩ := scalarImmOps_out p hp
    exact ⟨_, scalarImmOps_exec p hp s sh d a imm vec, State.issue_outS hrun hcalm (slotSI_lt _ _ _ hop _) (hout _ _ _ _ _ _ _ _ himm)⟩
  · exact ⟨_, rfl, State.issue_outS hrun hcalm (slotSI_lt _ _ _ (by decide) _) (State.scalarOut_lui ..)⟩
  · obtain ⟨hs, hruns, hkept⟩ := State.issue_scalar (a := {}) hrun hcalm (by decide) rfl rfl rfl rfl
    exact ⟨_, exec_snop hrun, hs, hruns, hkept⟩

/-! ## Branches and jumps -/

theorem scalarIllegal_slotSB {op : Nat} (d a : BitVec 5) (tgt : BitVec 12) (h : 0x20 ≤ op) (h' : op ≤ 0x24) (ha : op = 0x24 → a = 0) :
    scalarIllegal (slotSB op d a tgt 0) = false := by
  obtain ⟨hOP, -, hA, -, hrsv⟩ := slotSB_fields op d a (by omega) tgt 0
  have hA' : op = 0x24 → fA (slotSB op d a tgt 0) = 0 := fun h => by rw [hA, ha h]; rfl
  unfold scalarIllegal
  dsimp only
  rw [hOP, hrsv]
  grind

/-- The branches: constructor, OP and condition (Table 7-5). -/
def branchOps : List ((Fin 192 → BitVec 5 → BitVec 5 → BitVec 12 → BitVec 4 → Word → Instr) × Nat × (Word → Word → Bool)) :=
  [(.beq, 0x20, fun d a => decide (d = a)), (.bne, 0x21, fun d a => decide (d ≠ a)), (.blt, 0x22, fun d a => decide (d.toInt < a.toInt)),
    (.bge, 0x23, fun d a => decide (a.toInt ≤ d.toInt))]

theorem branchOps_exec : ∀ p ∈ branchOps, ∀ (s : State) (sh : Fin 192) (d a : BitVec 5) (tgt : BitVec 12) (vec : Word),
    exec (p.1 sh d a tgt 0 vec) s = .next (s.issue sh (wordOf (slotSB p.2.1 d a tgt 0) vec.toNat)) := by
  simp only [branchOps, List.forall_mem_cons]
  exact ⟨fun _ _ _ _ _ _ => rfl, fun _ _ _ _ _ _ => rfl, fun _ _ _ _ _ _ => rfl, fun _ _ _ _ _ _ => rfl,
    fun _ h => absurd h List.not_mem_nil⟩

theorem branch_out (op : Nat) (f : Word → Word → Bool) (h : 0x20 ≤ op) (h' : op ≤ 0x23)
    (hf : ∀ (s : State) (sh : Nat) (e : Engine) (r : Run) (w c : Nat), fOP w = op → scalarIllegal w = false →
      s.scalarOut sh e r w c = branchIf (f (e.s (fD w)) (e.s (fA w))) w) :
    op < 64 ∧ ∀ (s : State) (sh : Nat) (e : Engine) (r : Run) (d a : BitVec 5) (tgt : BitVec 12) (c : Nat),
      s.scalarOut sh e r (slotSB op d a tgt 0) c =
        if f (e.s d.toNat) (e.s a.toNat) then { jump := some tgt.toNat } else {} := by
  refine ⟨by omega, fun s sh e r d a tgt c => ?_⟩
  obtain ⟨hOP, hD, hA, hTGT, -⟩ := slotSB_fields op d a (by omega) tgt 0
  rw [hf s sh e r _ c hOP (scalarIllegal_slotSB d a tgt h (by omega) (by omega)), hD, hA, branchIf, hTGT]

theorem branchOps_out : ∀ p ∈ branchOps, p.2.1 < 64 ∧ ∀ (s : State) (sh : Nat) (e : Engine) (r : Run) (d a : BitVec 5) (tgt : BitVec 12)
    (c : Nat), s.scalarOut sh e r (slotSB p.2.1 d a tgt 0) c =
      if p.2.2 (e.s d.toNat) (e.s a.toNat) then { jump := some tgt.toNat } else {} := by
  simp only [branchOps, List.forall_mem_cons]
  refine ⟨?_, ?_, ?_, ?_, fun _ h => absurd h List.not_mem_nil⟩
  · exact branch_out 0x20 (fun d a => decide (d = a)) (by decide) (by decide) fun s sh e r w c h h' => by
      simp only [State.scalarOut, h, h', Bool.false_eq_true, if_false]
      rfl
  · exact branch_out 0x21 (fun d a => decide (d ≠ a)) (by decide) (by decide) fun s sh e r w c h h' => by
      simp only [State.scalarOut, h, h', Bool.false_eq_true, if_false, bne, decide_not]
      rfl
  · exact branch_out 0x22 (fun d a => decide (d.toInt < a.toInt)) (by decide) (by decide) fun s sh e r w c h h' => by
      simp only [State.scalarOut, h, h', Bool.false_eq_true, if_false]
      rfl
  · exact branch_out 0x23 (fun d a => decide (a.toInt ≤ d.toInt)) (by decide) (by decide) fun s sh e r w c h h' => by
      simp only [State.scalarOut, h, h', Bool.false_eq_true, if_false, sltW, BitVec.slt, ← decide_not, Int.not_lt]

theorem State.scalarOut_jal (s : State) (sh : Nat) (e : Engine) (r : Run) (d : BitVec 5) (tgt : BitVec 12) (c : Nat) :
    s.scalarOut sh e r (slotSB 0x24 d 0 tgt 0) c = { dest := .s d.toNat (BitVec.ofNat 32 (r.pc + 1)), jump := some tgt.toNat } := by
  obtain ⟨hOP, hD, -, hTGT, -⟩ := slotSB_fields 0x24 d 0 (by decide) tgt 0
  have hlegal := scalarIllegal_slotSB d 0 tgt (op := 0x24) (by decide) (by decide) fun _ => rfl
  simp only [State.scalarOut, hOP, hlegal, hD, hTGT, Bool.false_eq_true, if_false]

theorem State.scalarOut_jr (s : State) (sh : Nat) (e : Engine) (r : Run) (a : BitVec 5) (c : Nat) :
    s.scalarOut sh e r (slotSI 0x25 0 a 0) c =
      if 4096 ≤ (e.s a.toNat).toNat then outFault (fcFETCH, 0) else { jump := some (e.s a.toNat).toNat } := by
  obtain ⟨hOP, hD, hA, hIMM⟩ := slotSI_fields 0x25 0 a (by decide) 0
  have hlegal : scalarIllegal (slotSI 0x25 0 a 0) = false := by
    unfold scalarIllegal
    dsimp only
    rw [hOP, hD, hIMM]
    rfl
  simp only [State.scalarOut, hOP, hlegal, hA, Bool.false_eq_true, if_false]

/-- Settles O28: the jump of each arm of `State.scalarOut` is where the run goes on. -/
theorem branchesAndJumps : Obligations.BranchesAndJumps := by
  refine ⟨fun p hp s sh d a tgt vec r hrun hcalm => ?_, fun s sh d tgt vec r hrun hcalm => ?_, fun s sh a vec r hrun hcalm hlt => ?_⟩
  · obtain ⟨hop, hout⟩ := branchOps_out p hp
    refine ⟨_, branchOps_exec p hp s sh d a tgt vec, ?_⟩
    have ha := hout s sh (s.engine sh) r d a tgt (s.issueAt r (slotSB p.2.1 d a tgt 0) vec.toNat).1
    cases hc : p.2.2 ((s.engine sh).s d.toNat) ((s.engine sh).s a.toNat) with
    | true =>
      rw [hc] at ha
      obtain ⟨hs, hruns, hkept⟩ := State.issue_scalar hrun hcalm (slotSB_lt _ _ _ hop _ _) ha rfl rfl rfl
      exact ⟨hruns, hs, hkept⟩
    | false =>
      rw [hc] at ha
      obtain ⟨hs, hruns, hkept⟩ := State.issue_scalar hrun hcalm (slotSB_lt _ _ _ hop _ _) ha rfl rfl rfl
      exact ⟨hruns, hs, hkept⟩
  · obtain ⟨hs, hruns, hkept⟩ := State.issue_scalar hrun hcalm (slotSB_lt _ _ _ (by decide) _ _) (State.scalarOut_jal ..) rfl rfl rfl
    refine ⟨_, rfl, hruns, ?_, fun i hi => ?_, hkept⟩
    · rw [hs]
      exact ((s.engine sh).s_setS_same d.toNat _).trans (if_congr toNat_eq_zero_iff rfl rfl)
    · rw [hs]
      exact (s.engine sh).s_setS_other d.toNat _ hi
  · obtain ⟨hs, hruns, -⟩ := State.issue_scalar hrun hcalm (slotSI_lt _ _ _ (by decide) _)
      ((State.scalarOut_jr ..).trans (if_neg (Nat.not_le.2 hlt))) rfl rfl rfl
    exact ⟨_, rfl, hruns, hs⟩

end Sys2Proof.Machine
end

/-! PROOFS. Bytes of the module address map: what a run of bytes reads behind stores, little-endian numbers. -/
section
namespace Sys2Proof.Machine

section
variable (s : State)

theorem leBytes_length (n v : Nat) : (leBytes n v).length = n := by
  induction n generalizing v with
  | zero => rfl
  | succ n ih => rw [leBytes, List.length_cons, ih]

theorem leBytes_lt {n v b : Nat} (h : b ∈ leBytes n v) : b < 256 := by
  induction n generalizing v with
  | zero => exact absurd h List.not_mem_nil
  | succ n ih =>
    rcases List.mem_cons.1 h with rfl | h
    · exact Nat.mod_lt _ (by decide)
    · exact ih h

/-- The bytes a store leaves from its address on. -/
theorem State.bytes_putBytes_same (a : Nat) {bs : List Nat} (h : ∀ b ∈ bs, b < 256) : (s.putBytes a bs).bytes a bs.length = bs := by
  induction bs generalizing s a with
  | nil => rfl
  | cons b bs ih =>
    rw [State.putBytes, List.length_cons, State.bytes, ih _ (a + 1) fun x hx => h x (List.mem_cons_of_mem _ hx),
      State.byte_putBytes_other _ _ _ (.inl (Nat.lt_succ_self a)), State.byte_setByte_same, BitVec.toNat_ofNat,
      Nat.mod_eq_of_lt (h b List.mem_cons_self)]

/-- Bytes listed at rising addresses are stored as one run. -/
theorem storeAll_spread (a : Nat) (bs : List Nat) : storeAll s (spread a bs) = s.putBytes a bs := by
  have hfrom (i : Nat) : ∀ s : State, storeAll s ((bs.zipIdx i).map fun p => (a + p.2, p.1)) = s.putBytes (a + i) bs := by
    induction bs generalizing i with
    | nil => exact fun _ => rfl
    | cons b bs ih => exact fun s => ih (i + 1) (s.setByte (a + i) (BitVec.ofNat 8 b))
  exact hfrom 0 s

theorem State.memSame_putBytes {t : State} (a : Nat) (bs : List Nat) (h : t.mem = (s.putBytes a bs).mem) : s.memSame t a bs.length :=
  fun b hb => (State.byte_of_mem h b).trans (s.byte_putBytes_other a bs hb)

end

end Sys2Proof.Machine
end

/-! PROOFS. Scalar loads and stores of tray and loft (R163, R165; O27). -/
section
namespace Sys2Proof.Machine

/-! ## The vector slot beside a scalar store -/

/-- Does a result go to a scalar register? -/
def Dest.toScalar : Dest → Bool
  | .s _ _ => true
  | _ => false

theorem Dest.toScalar_eq_false {d : Dest} : d.toScalar = false ↔ ∀ i w, d ≠ .s i w := by
  cases d <;> simp [Dest.toScalar]

/-- Whether the vector slot faults and whether it writes a scalar register do not depend on memory. -/
theorem State.vectorOut_kind {s t : State} (hregs : t.regs = s.regs) (hjob : t.job = s.job) (sh : Nat) (e : Engine) (r : Run) (w : Nat) :
    (t.vectorOut sh e r w).fault = (s.vectorOut sh e r w).fault ∧
    (t.vectorOut sh e r w).dest.toScalar = (s.vectorOut sh e r w).dest.toScalar := by
  unfold State.vectorOut
  dsimp only
  rw [State.loftFault_congr hregs hjob, State.loftFault_congr hregs hjob]
  split
  · exact ⟨rfl, rfl⟩
  · split
    all_goals first | exact ⟨rfl, rfl⟩ | split
    all_goals exact ⟨rfl, rfl⟩

theorem calmVector_of_sameSlots {s t : State} {sh : Nat} {r : Run} {vec : Word} (hslots : s.sameSlots t) (h : calmVector s sh r vec) :
    (t.vectorOut sh (s.engine sh) r vec.toNat).fault = none ∧ ∀ i w, (t.vectorOut sh (s.engine sh) r vec.toNat).dest ≠ .s i w := by
  obtain ⟨hfault, hdest⟩ := State.vectorOut_kind hslots.regs hslots.job sh (s.engine sh) r vec.toNat
  rw [hfault, ← Dest.toScalar_eq_false, hdest, Dest.toScalar_eq_false]
  exact h

section
variable {s : State} {sh : Nat} {r : Run} {lo : Nat} {vec : Word} {a : SlotOut}

/-- A scalar store: its bytes lie in memory, no scalar register changes, and the next word follows. -/
theorem State.issue_store {at_ : Nat} {bs : List Nat} (hrun : running s sh r (wordOf lo vec.toNat)) (hcalm : calmVector s sh r vec)
    (hlo : lo < 2 ^ 32) (ha : s.scalarOut sh (s.engine sh) r lo (s.issueAt r lo vec.toNat).1 = a) (hfa : a.fault = none)
    (hst : a.stores = spread at_ bs) (hdest : a.dest = .none) (hjump : a.jump = none) (hends : a.ends = false) :
    (vec = 0 → (s.issue sh (wordOf lo vec.toNat)).mem = (s.putBytes at_ bs).mem ∧
      lanesKept (s.engine sh) ((s.issue sh (wordOf lo vec.toNat)).engine sh)) ∧
    (∀ i, ((s.issue sh (wordOf lo vec.toNat)).engine sh).s i = (s.engine sh).s i) ∧
    runsAt s (s.issue sh (wordOf lo vec.toNat)) sh (r.pc + 1) := by
  have ha' : s.scalarAt sh r (wordOf lo vec.toNat) = a := (State.scalarAt_wordOf hlo).trans ha
  have hb : s.vectorAfter sh r (wordOf lo vec.toNat) = (storeAll s a.stores).vectorOut sh (s.engine sh) r vec.toNat := by
    unfold State.vectorAfter
    rw [ha', wordOf_div]
  obtain ⟨hfb, hdestb⟩ := calmVector_of_sameSlots (storeAll_sameSlots s a.stores) hcalm
  obtain ⟨⟨q, hq, heng⟩, hothers, hmem⟩ := State.issue_goes hrun ha' hb hfa hfb (sameScalar_eq_false hdestb) hends
  rw [hdest] at heng
  rw [hjump] at hq
  refine ⟨fun hvec => ?_, fun i => ?_, ⟨q, by rw [heng], hq⟩, hothers⟩
  · subst hvec
    have hzero : (storeAll s a.stores).vectorOut sh (s.engine sh) r (0 : Word).toNat = {} := State.vectorOut_zero _ sh _ r
    rw [hzero] at heng hmem
    rw [hst, storeAll_spread] at hmem
    exact ⟨hmem, heng ▸ lanesKept_run _ _⟩
  · rw [heng, Engine.s_run, Engine.s_write_of_ne _ hdestb]
    rfl

/-- A scalar command that stores nothing and whose outcome is a register's value, its latency and loft access left open. -/
theorem State.issue_load {d : BitVec 5} {v : Word} (hrun : running s sh r (wordOf lo vec.toNat)) (hcalm : calmVector s sh r vec)
    (hlo : lo < 2 ^ 32) (ha : s.scalarOut sh (s.engine sh) r lo (s.issueAt r lo vec.toNat).1 = a) (hfa : a.fault = none)
    (hst : a.stores = []) (hends : a.ends = false) (hdest : a.dest = .s d.toNat v) (hjump : a.jump = none) :
    scalarResult s (s.issue sh (wordOf lo vec.toNat)) sh d vec v ∧ runsAt s (s.issue sh (wordOf lo vec.toNat)) sh (r.pc + 1) := by
  obtain ⟨hs, hruns, hkept⟩ := State.issue_scalar hrun hcalm hlo ha hfa hst hends
  rw [hdest] at hs
  rw [hjump] at hruns
  refine ⟨⟨?_, fun i hi => ?_, hkept⟩, hruns⟩
  · rw [hs]
    exact ((s.engine sh).s_setS_same d.toNat v).trans (if_congr toNat_eq_zero_iff rfl rfl)
  · rw [hs]
    exact (s.engine sh).s_setS_other d.toNat v hi

end

/-! ## The access commands -/

abbrev AccessCommand := Fin 192 → BitVec 5 → BitVec 5 → BitVec 16 → Word → Instr

def trayLoadOps : List (AccessCommand × Nat × Nat) := [(.ldw, 0x18, 4), (.ldhu, 0x19, 2), (.ldbu, 0x1A, 1)]
def trayStoreOps : List (AccessCommand × Nat × Nat) := [(.stw, 0x1B, 4), (.sth, 0x1C, 2), (.stb, 0x1D, 1)]

theorem trayLoadOps_exec : ∀ p ∈ trayLoadOps, ∀ (s : State) (sh : Fin 192) (d a : BitVec 5) (imm : BitVec 16) (vec : Word),
    exec (p.1 sh d a imm vec) s = .next (s.issue sh (wordOf (slotSI p.2.1 d a imm) vec.toNat)) := by
  simp only [trayLoadOps, List.forall_mem_cons]
  exact ⟨fun _ _ _ _ _ _ => rfl, fun _ _ _ _ _ _ => rfl, fun _ _ _ _ _ _ => rfl, fun _ h => absurd h List.not_mem_nil⟩

theorem trayStoreOps_exec : ∀ p ∈ trayStoreOps, ∀ (s : State) (sh : Fin 192) (d a : BitVec 5) (imm : BitVec 16) (vec : Word),
    exec (p.1 sh d a imm vec) s = .next (s.issue sh (wordOf (slotSI p.2.1 d a imm) vec.toNat)) := by
  simp only [trayStoreOps, List.forall_mem_cons]
  exact ⟨fun _ _ _ _ _ _ => rfl, fun _ _ _ _ _ _ => rfl, fun _ _ _ _ _ _ => rfl, fun _ h => absurd h List.not_mem_nil⟩

theorem scalarIllegal_access {op : Nat} (d a : BitVec 5) (imm : BitVec 16) (h : 0x18 ≤ op) (h' : op ≤ 0x1F) :
    scalarIllegal (slotSI op d a imm) = false := by
  obtain ⟨hOP, -, -, -⟩ := slotSI_fields op d a (by omega) imm
  unfold scalarIllegal
  dsimp only
  rw [hOP]
  grind

theorem Engine.addr_slotSI {op : Nat} (e : Engine) (d a : BitVec 5) (imm : BitVec 16) (hop : op < 64) :
    e.addr (slotSI op d a imm) = accessAt e a imm := by
  obtain ⟨-, -, hA, hIMM⟩ := slotSI_fields op d a hop imm
  rw [Engine.addr, hA, sextImm_of hIMM, accessAt]

section
variable {s : State} {sh : Nat} {e : Engine} {r : Run} {d a : BitVec 5} {imm : BitVec 16}

theorem State.trayLoad_of_none {op n : Nat} (hop : op < 64) (h : trayFault false n n (accessAt e a imm) = none) :
    s.trayLoad sh e (slotSI op d a imm) n = outS d.toNat (BitVec.ofNat 32 (leNat (s.bytes (trayBase sh + accessAt e a imm) n))) 2 := by
  obtain ⟨-, hD, -, -⟩ := slotSI_fields op d a hop imm
  unfold State.trayLoad
  rw [e.addr_slotSI d a imm hop, h, hD]

theorem trayStore_of_none {op n : Nat} (hop : op < 64) (h : trayFault true n n (accessAt e a imm) = none) :
    trayStore sh e (slotSI op d a imm) n = { stores := spread (trayBase sh + accessAt e a imm) (leBytes n (e.s d.toNat).toNat) } := by
  obtain ⟨-, hD, -, -⟩ := slotSI_fields op d a hop imm
  unfold trayStore
  rw [e.addr_slotSI d a imm hop, h, hD]

theorem State.scalarOut_llw (c : Nat) (h : s.loftFault r.bank sh false 4 4 (accessAt e a imm) = none) :
    s.scalarOut sh e r (slotSI 0x1E d a imm) c =
      { dest := .s d.toNat (BitVec.ofNat 32 (leNat (s.bytes (s.loftAddr r.bank sh (accessAt e a imm)) 4))), lat := 6, loft := some true } := by
  obtain ⟨hOP, hD, -, -⟩ := slotSI_fields 0x1E d a (by decide) imm
  simp only [State.scalarOut, hOP, scalarIllegal_access d a imm (op := 0x1E) (by decide) (by decide), Bool.false_eq_true, if_false]
  unfold State.loftLoad
  rw [e.addr_slotSI d a imm (by decide), h, hD]

theorem State.scalarOut_lsw (c : Nat) (h : s.loftFault r.bank sh true 4 4 (accessAt e a imm) = none) :
    s.scalarOut sh e r (slotSI 0x1F d a imm) c =
      { stores := spread (s.loftAddr r.bank sh (accessAt e a imm)) (leBytes 4 (e.s d.toNat).toNat), loft := some false } := by
  obtain ⟨hOP, hD, -, -⟩ := slotSI_fields 0x1F d a (by decide) imm
  simp only [State.scalarOut, hOP, scalarIllegal_access d a imm (op := 0x1F) (by decide) (by decide), Bool.false_eq_true, if_false]
  unfold State.loftStore
  rw [e.addr_slotSI d a imm (by decide), h, hD]

/-- An access arm of the scalar slot, at the word of its slot. -/
theorem scalarAccess_out (op n : Nat) (f : State → Nat → Engine → Nat → Nat → SlotOut) (h : 0x18 ≤ op) (h' : op ≤ 0x1F)
    (hf : ∀ (s : State) (sh : Nat) (e : Engine) (r : Run) (w c : Nat), fOP w = op → scalarIllegal w = false →
      s.scalarOut sh e r w c = f s sh e w n) :
    op < 64 ∧ ∀ (s : State) (sh : Nat) (e : Engine) (r : Run) (d a : BitVec 5) (imm : BitVec 16) (c : Nat),
      s.scalarOut sh e r (slotSI op d a imm) c = f s sh e (slotSI op d a imm) n := by
  refine ⟨by omega, fun s sh e r d a imm c => ?_⟩
  obtain ⟨hOP, -⟩ := slotSI_fields op d a (by omega) imm
  exact hf s sh e r _ c hOP (scalarIllegal_access d a imm h h')

theorem trayLoadOps_out : ∀ p ∈ trayLoadOps, p.2.1 < 64 ∧ ∀ (s : State) (sh : Nat) (e : Engine) (r : Run) (d a : BitVec 5)
    (imm : BitVec 16) (c : Nat), s.scalarOut sh e r (slotSI p.2.1 d a imm) c = s.trayLoad sh e (slotSI p.2.1 d a imm) p.2.2 := by
  refine List.forall_mem_cons.2 ⟨?_, List.forall_mem_cons.2 ⟨?_, List.forall_mem_cons.2 ⟨?_, fun _ h => absurd h List.not_mem_nil⟩⟩⟩
  · exact scalarAccess_out 0x18 4 State.trayLoad (by decide) (by decide) fun s sh e r w c h h' => by
      simp only [State.scalarOut, h, h', Bool.false_eq_true, if_false]
  · exact scalarAccess_out 0x19 2 State.trayLoad (by decide) (by decide) fun s sh e r w c h h' => by
      simp only [State.scalarOut, h, h', Bool.false_eq_true, if_false]
  · exact scalarAccess_out 0x1A 1 State.trayLoad (by decide) (by decide) fun s sh e r w c h h' => by
      simp only [State.scalarOut, h, h', Bool.false_eq_true, if_false]

theorem trayStoreOps_out : ∀ p ∈ trayStoreOps, p.2.1 < 64 ∧ ∀ (s : State) (sh : Nat) (e : Engine) (r : Run) (d a : BitVec 5)
    (imm : BitVec 16) (c : Nat), s.scalarOut sh e r (slotSI p.2.1 d a imm) c = trayStore sh e (slotSI p.2.1 d a imm) p.2.2 := by
  refine List.forall_mem_cons.2 ⟨?_, List.forall_mem_cons.2 ⟨?_, List.forall_mem_cons.2 ⟨?_, fun _ h => absurd h List.not_mem_nil⟩⟩⟩
  · exact scalarAccess_out 0x1B 4 (fun _ => trayStore) (by decide) (by decide) fun s sh e r w c h h' => by
      simp only [State.scalarOut, h, h', Bool.false_eq_true, if_false]
  · exact scalarAccess_out 0x1C 2 (fun _ => trayStore) (by decide) (by decide) fun s sh e r w c h h' => by
      simp only [State.scalarOut, h, h', Bool.false_eq_true, if_false]
  · exact scalarAccess_out 0x1D 1 (fun _ => trayStore) (by decide) (by decide) fun s sh e r w c h h' => by
      simp only [State.scalarOut, h, h', Bool.false_eq_true, if_false]

end

/-- What a scalar store's word leaves is what the statement says of it. -/
theorem scalarStored_of {s t : State} {sh : Nat} {d : BitVec 5} {vec : Word} {at_ n : Nat}
    (hmem : vec = 0 → t.mem = (s.putBytes at_ (leBytes n ((s.engine sh).s d.toNat).toNat)).mem ∧ lanesKept (s.engine sh) (t.engine sh))
    (hs : ∀ i, (t.engine sh).s i = (s.engine sh).s i) : scalarStored s t sh d vec at_ n := by
  refine ⟨fun hvec => ?_, hs⟩
  obtain ⟨hmem, hlanes⟩ := hmem hvec
  have hbytes := s.bytes_putBytes_same at_ fun b (hb : b ∈ leBytes n ((s.engine sh).s d.toNat).toNat) => leBytes_lt hb
  have hsame := s.memSame_putBytes at_ _ hmem
  rw [leBytes_length] at hbytes hsame
  exact ⟨(State.bytes_of_mem hmem at_ n).trans hbytes, hsame, hlanes⟩

/-- Settles O27: a load's value is the bytes at its address, a store's bytes are the register's low ones. -/
theorem scalarAccesses : Obligations.ScalarAccesses := by
  refine ⟨fun p hp s sh d a imm vec r hrun hcalm hf => ?_, fun s sh d a imm vec r hrun hcalm hf => ?_,
    fun p hp s sh d a imm vec r hrun hcalm hf => ?_, fun s sh d a imm vec r hrun hcalm hf => ?_⟩
  · obtain ⟨hop, hout⟩ := trayLoadOps_out p hp
    exact ⟨_, trayLoadOps_exec p hp s sh d a imm vec, State.issue_outS hrun hcalm (slotSI_lt _ _ _ hop _)
      ((hout ..).trans (State.trayLoad_of_none hop hf))⟩
  · exact ⟨_, rfl, State.issue_load hrun hcalm (slotSI_lt _ _ _ (by decide) _) (State.scalarOut_llw _ hf) rfl rfl rfl rfl rfl⟩
  · obtain ⟨hop, hout⟩ := trayStoreOps_out p hp
    obtain ⟨hmem, hs, hruns⟩ := State.issue_store hrun hcalm (slotSI_lt _ _ _ hop _) ((hout ..).trans (trayStore_of_none hop hf))
      rfl rfl rfl rfl rfl
    exact ⟨_, trayStoreOps_exec p hp s sh d a imm vec, scalarStored_of hmem hs, hruns⟩
  · obtain ⟨hmem, hs, hruns⟩ := State.issue_store hrun hcalm (slotSI_lt _ _ _ (by decide) _) (State.scalarOut_lsw _ hf) rfl rfl rfl rfl rfl
    exact ⟨_, rfl, scalarStored_of hmem hs, hruns⟩

end Sys2Proof.Machine
end

/-! PROOFS. The vector slot (R160, R161, R164): what a word with a calm scalar slot leaves, and the lane functions of Table 7-6. -/
section
namespace Sys2Proof.Machine

/-! ## A vector command beside a calm scalar slot -/

/-- The cycle in which a scalar slot issues shows in the value of GETS alone. -/
theorem State.scalarOut_cycle (s : State) (sh : Nat) (e : Engine) (r : Run) (w c c' : Nat) :
    (s.scalarOut sh e r w c).fault = (s.scalarOut sh e r w c').fault ∧ (s.scalarOut sh e r w c).stores = (s.scalarOut sh e r w c').stores ∧
    (s.scalarOut sh e r w c).ends = (s.scalarOut sh e r w c').ends := by
  unfold State.scalarOut
  split
  · exact ⟨rfl, rfl, rfl⟩
  · dsimp only
    split
    all_goals exact ⟨rfl, rfl, rfl⟩

theorem State.scalarOut_zero (s : State) (sh : Nat) (e : Engine) (r : Run) (c : Nat) : s.scalarOut sh e r 0 c = {} := rfl

section
variable {s : State} {sh : Nat} {r : Run} {hi : Nat} {scal : Word} {b : SlotOut}

/-- A vector command's word leaves the scalar slot's result and the vector slot's, and stores the vector slot's bytes; beside SNOP the
scalar slot's part is nothing. -/
theorem State.issue_vector (hrun : running s sh r (wordOf scal.toNat hi)) (hcalm : calmScalar s sh r scal)
    (hb : s.vectorOut sh (s.engine sh) r hi = b) (hfb : b.fault = none) (hsame : b.dest.toScalar = false ∨ scal = 0) :
    ∃ d q, d.isScalar ∧ (scal = 0 → d = .none ∧ q.pc = r.pc + 1) ∧
      (s.issue sh (wordOf scal.toNat hi)).engine sh = { ((s.engine sh).write d).write b.dest with run := some q } ∧
      (∀ k, k ≠ sh → (s.issue sh (wordOf scal.toNat hi)).engine k = s.engine k) ∧
      (s.issue sh (wordOf scal.toNat hi)).mem = (storeAll s b.stores).mem := by
  obtain ⟨hfa, hst, hends⟩ := hcalm
  have ha : s.scalarAt sh r (wordOf scal.toNat hi) = s.scalarOut sh (s.engine sh) r scal.toNat (s.issueAt r scal.toNat hi).1 := by
    unfold State.scalarAt
    rw [wordOf_mod _ scal.isLt, wordOf_div]
  obtain ⟨hfa', hst', hends'⟩ := s.scalarOut_cycle sh (s.engine sh) r scal.toNat (s.issueAt r scal.toNat hi).1 0
  have hscalar := s.scalarOut_scalarLike sh (s.engine sh) r scal.toNat (s.issueAt r scal.toNat hi).1
  have hzero : scal = 0 → s.scalarOut sh (s.engine sh) r scal.toNat (s.issueAt r scal.toNat hi).1 = {} := fun h => by
    subst h
    exact s.scalarOut_zero sh _ r _
  rw [hfa] at hfa'
  rw [hst] at hst'
  rw [hends] at hends'
  generalize s.scalarOut sh (s.engine sh) r scal.toNat (s.issueAt r scal.toNat hi).1 = a at *
  have hb' : s.vectorAfter sh r (wordOf scal.toNat hi) = b := by
    unfold State.vectorAfter
    rw [ha, hst', wordOf_div]
    exact hb
  have hdest : sameScalar a.dest b.dest = false := by
    rcases hsame with h | h
    · exact sameScalar_eq_false (Dest.toScalar_eq_false.1 h)
    · rw [hzero h]
      rfl
  obtain ⟨⟨q, hq, heng⟩, hothers, hmem⟩ := State.issue_goes hrun ha hb' hfa' hfb hdest hends'
  refine ⟨a.dest, q, hscalar.dest, fun h => ?_, heng, hothers, ?_⟩
  · rw [hzero h] at hq ⊢
    exact ⟨rfl, hq⟩
  · rw [hmem, hst']
    rfl

/-- A vector command whose result goes to a vector register. -/
theorem State.issue_outV {vd : BitVec 5} {x : List Half} (hrun : running s sh r (wordOf scal.toNat hi)) (hcalm : calmScalar s sh r scal)
    (hb : s.vectorOut sh (s.engine sh) r hi = b) (hfb : b.fault = none) (hdest : b.dest = .v vd.toNat x) (hst : b.stores = []) :
    vectorResult s (s.issue sh (wordOf scal.toNat hi)) sh vd scal x := by
  obtain ⟨d, q, hd, hzero, heng, hothers, hmem⟩ := State.issue_vector hrun hcalm hb hfb (.inl (by rw [hdest]; rfl))
  obtain ⟨hv, hacc, hp⟩ := hd.lanesKept (s.engine sh)
  rw [hdest] at heng
  rw [hst] at hmem
  unfold vectorResult
  rw [heng]
  refine ⟨Engine.v_setV_same .., fun i hi => ?_, hacc, hp, fun hscal => ⟨fun i => ?_, State.byte_of_mem hmem, ⟨q, ?_, ?_⟩, hothers⟩⟩
  · exact (Engine.v_setV_other _ _ _ hi).trans (hv i)
  · rw [(hzero hscal).1]
    rfl
  · rw [heng]
  · rw [(hzero hscal).2, hrun.1]
    rfl

/-- A vector command whose result goes to a predicate. -/
theorem State.issue_outP {vd : BitVec 5} {x : List Bool} (hrun : running s sh r (wordOf scal.toNat hi)) (hcalm : calmScalar s sh r scal)
    (hb : s.vectorOut sh (s.engine sh) r hi = b) (hfb : b.fault = none) (hdest : b.dest = .p vd.toNat x) (hst : b.stores = []) :
    predicateResult s (s.issue sh (wordOf scal.toNat hi)) sh vd scal x := by
  obtain ⟨d, q, hd, hzero, heng, hothers, hmem⟩ := State.issue_vector hrun hcalm hb hfb (.inl (by rw [hdest]; rfl))
  obtain ⟨hv, hacc, hp⟩ := hd.lanesKept (s.engine sh)
  rw [hdest] at heng
  rw [hst] at hmem
  unfold predicateResult
  rw [heng]
  refine ⟨fun hvd => Engine.p_setP_same _ _ _ (mt toNat_eq_zero_iff.1 hvd), fun i hi => ?_, fun i => ?_, fun i => ?_,
    fun hscal => ⟨fun i => ?_, State.byte_of_mem hmem⟩⟩
  · refine Eq.trans ?_ (hp i)
    rcases hi with rfl | hi
    · rfl
    · exact Engine.p_setP_other _ _ _ (.inr hi)
  · exact (Engine.v_setP _ _ _ _).trans (hv i)
  · exact (Engine.acc_setP _ _ _ _).trans (hacc i)
  · rw [(hzero hscal).1]
    exact Engine.s_setP ..

/-- A vector command whose result goes to an accumulator. -/
theorem State.issue_outA {vd : BitVec 5} {x : List Word} (hrun : running s sh r (wordOf scal.toNat hi)) (hcalm : calmScalar s sh r scal)
    (hb : s.vectorOut sh (s.engine sh) r hi = b) (hfb : b.fault = none) (hdest : b.dest = .a vd.toNat x) (hst : b.stores = []) :
    accumulatorResult s (s.issue sh (wordOf scal.toNat hi)) sh vd scal x := by
  obtain ⟨d, q, hd, hzero, heng, hothers, hmem⟩ := State.issue_vector hrun hcalm hb hfb (.inl (by rw [hdest]; rfl))
  obtain ⟨hv, hacc, hp⟩ := hd.lanesKept (s.engine sh)
  rw [hdest] at heng
  rw [hst] at hmem
  unfold accumulatorResult
  rw [heng]
  refine ⟨Engine.acc_setAcc_same .., fun i hi => ?_, hv, hp, fun hscal => ⟨fun i => ?_, State.byte_of_mem hmem⟩⟩
  · exact (Engine.acc_setAcc_other _ _ _ hi).trans (hacc i)
  · rw [(hzero hscal).1]
    rfl

end

/-! ## The fields of a vector slot, as the statements name them -/

section
variable {op : Nat} {vd va vb : BitVec 5} {vp : BitVec 3} {vpn bs : Bool} {k : BitVec 6} (e : Engine) (hop : op < 64)
include hop

theorem Engine.enabled_slotV : e.enabled (slotV op vd va vb vp vpn bs k) = laneOn e vp vpn := by
  obtain ⟨-, -, -, -, hVP, hVPN, -, -⟩ := slotV_fields op vd va vb vp vpn bs k hop
  funext l
  rw [Engine.enabled, hVP, hVPN, laneOn]

theorem Engine.srcA_slotV : e.srcA (slotV op vd va vb vp vpn bs k) = lane e va := by
  obtain ⟨-, -, hA, -⟩ := slotV_fields op vd va vb vp vpn bs k hop
  funext l
  rw [Engine.srcA, hA, lane]

theorem Engine.srcB_slotV : e.srcB (slotV op vd va vb vp vpn bs k) = laneB e vb bs := by
  obtain ⟨-, -, -, hB, -, -, hBS, -⟩ := slotV_fields op vd va vb vp vpn bs k hop
  funext l
  rw [Engine.srcB, hB, hBS, laneB, lane]

end

/-! ## The lane functions of Table 7-6 -/

theorem clampI_eq {lo hi : Int} (h : lo ≤ hi) (x : Int) : clampI lo hi x = max lo (min hi x) := by
  unfold clampI
  split
  · omega
  · split <;> omega

theorem sat16_eq (x : Int) : sat16 x = saturate 16 x := by
  rw [sat16, saturate, clampI_eq (by decide)]
  rfl

theorem sat32_eq (x : Int) : sat32 x = saturate 32 x := by
  rw [sat32, saturate, clampI_eq (by decide)]
  rfl

theorem absdH_eq (a b : Half) : absdH a b = BitVec.ofNat 16 (max a.toNat b.toNat - min a.toNat b.toNat) := by
  unfold absdH
  apply BitVec.eq_of_toNat_eq
  have := a.isLt; have := b.isLt
  split
  · rw [BitVec.toNat_sub, BitVec.toNat_ofNat]
    omega
  · rw [BitVec.toNat_sub, BitVec.toNat_ofNat]
    omega

theorem minH_eq (a b : Half) : minH a b = if a.toInt ≤ b.toInt then a else b := ite_slt_min a b
theorem maxH_eq (a b : Half) : maxH a b = if a.toInt ≤ b.toInt then b else a := ite_slt_max a b

theorem shlH_eq (a : Half) (k : Nat) : shlH a k = a <<< k := by
  unfold shlH
  split
  · exact (BitVec.shiftLeft_eq_zero ‹_›).symm
  · rfl

theorem shrH_eq (a : Half) (k : Nat) : shrH a k = a >>> k := by
  unfold shrH
  split
  · exact (BitVec.ushiftRight_eq_zero ‹_›).symm
  · rfl

theorem sraH_eq (a : Half) (k : Nat) : sraH a k = a.sshiftRight k := by
  unfold sraH
  rcases Nat.lt_or_ge k 16 with h | h
  · rw [Nat.min_eq_right (by omega)]
  · apply BitVec.eq_of_getLsbD_eq
    intro i hi
    have hfar : ¬ k + i < 16 := by omega
    rw [Nat.min_eq_left (by omega), BitVec.getLsbD_sshiftRight, BitVec.getLsbD_sshiftRight, if_neg hfar]
    cases i with
    | zero => rw [if_pos (by decide), BitVec.msb_eq_getLsbD_last]
    | succ i => rw [if_neg (by omega)]

theorem mulqH_eq (a b : Half) (k : Nat) : mulqH a b k = saturate 16 (roundShift (a.toInt * b.toInt) (min 31 k)) := sat16_eq _

end Sys2Proof.Machine
end

/-! PROOFS. The vector commands (R156, R160, R161, R164): lane by lane, moves, predicates, accumulators, reductions (O30–O34). -/
section
namespace Sys2Proof.Machine

theorem merge_eq_laned {α : Type} (on : Nat → Bool) (old : List α) (d : α) (f : Nat → α) : merge on old d f = laned on old d f := rfl

/-- The vector slots that are encodings whatever their fields. -/
theorem vectorIllegal_free {op : Nat} (vd va vb : BitVec 5) (vp : BitVec 3) (vpn bs : Bool) (k : BitVec 6)
    (h : (1 ≤ op ∧ op ≤ 0x0E) ∨ (0x10 ≤ op ∧ op ≤ 0x13) ∨ op = 0x20 ∨ op = 0x21) :
    vectorIllegal (slotV op vd va vb vp vpn bs k) = false := by
  obtain ⟨hOP, -⟩ := slotV_fields op vd va vb vp vpn bs k (by omega)
  unfold vectorIllegal
  dsimp only
  rw [hOP]
  generalize slotV op vd va vb vp vpn bs k = w
  rcases h with ⟨h, h'⟩ | ⟨h, h'⟩ | rfl | rfl
  · interval_cases op <;> rfl
  · interval_cases op <;> rfl
  · rfl
  · rfl

/-! ## Lane by lane -/

theorem laneOps_exec : ∀ p ∈ laneOps, ∀ (s : State) (sh : Fin 192) (vd va vb : BitVec 5) (vp : BitVec 3) (vpn bs : Bool) (k : BitVec 6)
    (scal : Word), exec (p.1 sh vd va vb vp vpn bs k scal) s = .next (s.issue sh (wordOf scal.toNat (slotV p.2.1 vd va vb vp vpn bs k))) := by
  simp only [laneOps, List.forall_mem_cons]
  refine ⟨?_, ?_, ?_, ?_, ?_, ?_, ?_, ?_, ?_, ?_, ?_, ?_, ?_, ?_, fun _ h => absurd h List.not_mem_nil⟩
  all_goals exact fun _ _ _ _ _ _ _ _ _ _ => rfl

/-- A lane-wise arm of the vector slot, at the word of its slot. -/
theorem lane_out (op lat : Nat) (f : Half → Half → Nat → Half) (h : 1 ≤ op) (h' : op ≤ 0x0E)
    (hf : ∀ (s : State) (sh : Nat) (e : Engine) (r : Run) (w : Nat), fOP w = op → vectorIllegal w = false →
      s.vectorOut sh e r w = e.outV w lat (fun l => f (e.srcA w l) (e.srcB w l) (fK w))) :
    op < 64 ∧ ∀ (s : State) (sh : Nat) (e : Engine) (r : Run) (vd va vb : BitVec 5) (vp : BitVec 3) (vpn bs : Bool) (k : BitVec 6),
      ∃ lat part, s.vectorOut sh e r (slotV op vd va vb vp vpn bs k) =
        { dest := .v vd.toNat (laned (laneOn e vp vpn) (e.v vd.toNat) 0 fun l => f (lane e va l) (laneB e vb bs l) k.toNat), lat := lat, part := part } := by
  have hop : op < 64 := by omega
  refine ⟨hop, fun s sh e r vd va vb vp vpn bs k => ⟨lat, e.masked (slotV op vd va vb vp vpn bs k), ?_⟩⟩
  obtain ⟨hOP, hD, -, -, -, -, -, hK⟩ := slotV_fields op vd va vb vp vpn bs k hop
  rw [hf s sh e r _ hOP (vectorIllegal_free vd va vb vp vpn bs k (.inl ⟨h, h'⟩)), Engine.outV, hD, hK, e.enabled_slotV hop,
    e.srcA_slotV hop, e.srcB_slotV hop, merge_eq_laned]

theorem laneOps_out : ∀ p ∈ laneOps, p.2.1 < 64 ∧ ∀ (s : State) (sh : Nat) (e : Engine) (r : Run) (vd va vb : BitVec 5) (vp : BitVec 3)
    (vpn bs : Bool) (k : BitVec 6), ∃ lat part, s.vectorOut sh e r (slotV p.2.1 vd va vb vp vpn bs k) =
      { dest := .v vd.toNat (laned (laneOn e vp vpn) (e.v vd.toNat) 0 fun l => p.2.2 (lane e va l) (laneB e vb bs l) k.toNat)
        lat := lat, part := part } := by
  refine List.forall_mem_cons.2 ⟨?_, List.forall_mem_cons.2 ⟨?_, List.forall_mem_cons.2 ⟨?_, List.forall_mem_cons.2 ⟨?_,
    List.forall_mem_cons.2 ⟨?_, List.forall_mem_cons.2 ⟨?_, List.forall_mem_cons.2 ⟨?_, List.forall_mem_cons.2 ⟨?_,
    List.forall_mem_cons.2 ⟨?_, List.forall_mem_cons.2 ⟨?_, List.forall_mem_cons.2 ⟨?_, List.forall_mem_cons.2 ⟨?_,
    List.forall_mem_cons.2 ⟨?_, List.forall_mem_cons.2 ⟨?_, fun _ h => absurd h List.not_mem_nil⟩⟩⟩⟩⟩⟩⟩⟩⟩⟩⟩⟩⟩⟩
  · exact lane_out 0x01 1 (fun a b _ => a + b) (by decide) (by decide) fun s sh e r w h h' => by
      simp only [State.vectorOut, h, h', Bool.false_eq_true, if_false]
  · exact lane_out 0x02 1 (fun a b _ => a - b) (by decide) (by decide) fun s sh e r w h h' => by
      simp only [State.vectorOut, h, h', Bool.false_eq_true, if_false]
  · exact lane_out 0x03 1 (fun a b _ => saturate 16 (a.toInt + b.toInt)) (by decide) (by decide) fun s sh e r w h h' => by
      simp only [State.vectorOut, h, h', Bool.false_eq_true, if_false, addsH, sat16_eq]
  · exact lane_out 0x04 1 (fun a b _ => saturate 16 (a.toInt - b.toInt)) (by decide) (by decide) fun s sh e r w h h' => by
      simp only [State.vectorOut, h, h', Bool.false_eq_true, if_false, subsH, sat16_eq]
  · exact lane_out 0x05 1 (fun a b _ => BitVec.ofNat 16 (a.toNat - b.toNat)) (by decide) (by decide) fun s sh e r w h h' => by
      simp only [State.vectorOut, h, h', Bool.false_eq_true, if_false, subusH]
  · exact lane_out 0x06 1 (fun a b _ => BitVec.ofNat 16 (max a.toNat b.toNat - min a.toNat b.toNat)) (by decide) (by decide) fun s sh e r w h h' => by
      simp only [State.vectorOut, h, h', Bool.false_eq_true, if_false, absdH_eq]
  · exact lane_out 0x07 1 (fun a b _ => if a.toInt ≤ b.toInt then a else b) (by decide) (by decide) fun s sh e r w h h' => by
      simp only [State.vectorOut, h, h', Bool.false_eq_true, if_false, minH_eq]
  · exact lane_out 0x08 1 (fun a b _ => if a.toInt ≤ b.toInt then b else a) (by decide) (by decide) fun s sh e r w h h' => by
      simp only [State.vectorOut, h, h', Bool.false_eq_true, if_false, maxH_eq]
  · exact lane_out 0x09 1 (fun a b _ => a &&& b) (by decide) (by decide) fun s sh e r w h h' => by
      simp only [State.vectorOut, h, h', Bool.false_eq_true, if_false]
  · exact lane_out 0x0A 1 (fun a b _ => a ||| b) (by decide) (by decide) fun s sh e r w h h' => by
      simp only [State.vectorOut, h, h', Bool.false_eq_true, if_false]
  · exact lane_out 0x0B 1 (fun a _ k => a <<< k) (by decide) (by decide) fun s sh e r w h h' => by
      simp only [State.vectorOut, h, h', Bool.false_eq_true, if_false, shlH_eq]
  · exact lane_out 0x0C 1 (fun a _ k => a >>> k) (by decide) (by decide) fun s sh e r w h h' => by
      simp only [State.vectorOut, h, h', Bool.false_eq_true, if_false, shrH_eq]
  · exact lane_out 0x0D 1 (fun a _ k => a.sshiftRight k) (by decide) (by decide) fun s sh e r w h h' => by
      simp only [State.vectorOut, h, h', Bool.false_eq_true, if_false, sraH_eq]
  · exact lane_out 0x0E 3 (fun a b k => saturate 16 (roundShift (a.toInt * b.toInt) (min 31 k))) (by decide) (by decide) fun s sh e r w h h' => by
      simp only [State.vectorOut, h, h', Bool.false_eq_true, if_false, mulqH_eq]

/-- Settles O30: each command's arm of `State.vectorOut` gives the lanes, and `State.issue_outV` what the word leaves. -/
theorem vectorLaneCommands : Obligations.VectorLaneCommands := by
  intro p hp s sh vd va vb vp vpn bs k scal r hrun hcalm
  obtain ⟨-, hout⟩ := laneOps_out p hp
  obtain ⟨lat, part, hb⟩ := hout s sh (s.engine sh) r vd va vb vp vpn bs k
  exact ⟨_, laneOps_exec p hp s sh vd va vb vp vpn bs k scal, State.issue_outV hrun hcalm hb rfl rfl rfl⟩

/-! ## Select, iota, shift, interpolation -/

theorem toSigned_toNat {n : Nat} (x : BitVec n) (h : 0 < n) : toSigned n x.toNat = x.toInt := by
  have hx := Nat.mod_eq_of_lt x.isLt
  have hpow : 2 ^ n = 2 * 2 ^ (n - 1) := by rw [← Nat.pow_succ', Nat.succ_eq_add_one, Nat.sub_add_cancel h]
  rw [toSigned, hx, BitVec.toInt_eq_toNat_cond]
  exact if_congr (by omega) rfl rfl

section
variable (s : State) (sh : Nat) (e : Engine) (r : Run) (vd va vb : BitVec 5) (vp : BitVec 3) (vpn bs : Bool) (k : BitVec 6)

theorem Engine.laneShift_slotV : e.laneShift (slotV 0x12 vd va vb vp vpn bs k) =
    if bs then max (-143) (min 143 (e.s vb.toNat).toInt) else k.toInt := by
  obtain ⟨-, -, -, hB, -, -, hBS, hK⟩ := slotV_fields 0x12 vd va vb vp vpn bs k (by decide)
  rw [Engine.laneShift, hB, hBS, hK, clampI_eq (by decide), toSigned_toNat k (by decide)]

theorem Engine.lerpF_slotV : ((e.lerpF (slotV 0x13 vd va vb vp vpn bs k) : Nat) : Int) =
    if bs then (((e.s vb.toNat).toNat % 256 : Nat) : Int) else ((4 * k.toNat : Nat) : Int) := by
  obtain ⟨-, -, -, hB, -, -, hBS, hK⟩ := slotV_fields 0x13 vd va vb vp vpn bs k (by decide)
  rw [Engine.lerpF, hB, hBS, hK]
  cases bs <;> rfl

theorem State.vectorOut_vsel : s.vectorOut sh e r (slotV 0x10 vd va vb vp vpn bs k) =
    { dest := .v vd.toNat ((List.range 144).map fun l => if laneOn e vp vpn l then lane e va l else laneB e vb bs l), lat := 1 } := by
  obtain ⟨hOP, hD, -⟩ := slotV_fields 0x10 vd va vb vp vpn bs k (by decide)
  simp only [State.vectorOut, vectorIllegal_free vd va vb vp vpn bs k (op := 0x10) (by decide), hOP, Bool.false_eq_true, if_false]
  rw [hD, e.enabled_slotV (by decide), e.srcA_slotV (by decide), e.srcB_slotV (by decide)]
  rfl

theorem State.vectorOut_viota : s.vectorOut sh e r (slotV 0x11 vd va vb vp vpn bs k) =
    { dest := .v vd.toNat (laned (laneOn e vp vpn) (e.v vd.toNat) 0 fun l => BitVec.ofNat 16 l), lat := 1
      part := e.masked (slotV 0x11 vd va vb vp vpn bs k) } := by
  obtain ⟨hOP, hD, -⟩ := slotV_fields 0x11 vd va vb vp vpn bs k (by decide)
  simp only [State.vectorOut, vectorIllegal_free vd va vb vp vpn bs k (op := 0x11) (by decide), hOP, Bool.false_eq_true, if_false]
  rw [Engine.outV, hD, e.enabled_slotV (by decide), merge_eq_laned]

theorem State.vectorOut_vlsh : s.vectorOut sh e r (slotV 0x12 vd va vb vp vpn bs k) =
    { dest := .v vd.toNat (laned (laneOn e vp vpn) (e.v vd.toNat) 0 fun l => lane e va (max 0 (min 143 ((l : Int) -
        (if bs then max (-143) (min 143 (e.s vb.toNat).toInt) else k.toInt)))).toNat), lat := 1
      part := e.masked (slotV 0x12 vd va vb vp vpn bs k) } := by
  obtain ⟨hOP, hD, -⟩ := slotV_fields 0x12 vd va vb vp vpn bs k (by decide)
  simp only [State.vectorOut, vectorIllegal_free vd va vb vp vpn bs k (op := 0x12) (by decide), hOP, Bool.false_eq_true, if_false]
  rw [Engine.outV, hD, e.enabled_slotV (by decide), e.srcA_slotV (by decide), e.laneShift_slotV, merge_eq_laned]
  simp only [clampI_eq (show (0 : Int) ≤ 143 by decide)]

theorem State.vectorOut_vlerp : s.vectorOut sh e r (slotV 0x13 vd va vb vp vpn bs k) =
    { dest := .v vd.toNat (laned (laneOn e vp vpn) (e.v vd.toNat) 0 fun l => BitVec.ofInt 16 (roundShift
        ((lane e va l).toInt * (256 - (if bs then (((e.s vb.toNat).toNat % 256 : Nat) : Int) else ((4 * k.toNat : Nat) : Int))) +
          (lane e va (min (l + 1) 143)).toInt * (if bs then (((e.s vb.toNat).toNat % 256 : Nat) : Int) else ((4 * k.toNat : Nat) : Int))) 8)), lat := 3
      part := e.masked (slotV 0x13 vd va vb vp vpn bs k) } := by
  obtain ⟨hOP, hD, -⟩ := slotV_fields 0x13 vd va vb vp vpn bs k (by decide)
  simp only [State.vectorOut, vectorIllegal_free vd va vb vp vpn bs k (op := 0x13) (by decide), hOP, Bool.false_eq_true, if_false]
  rw [Engine.outV, hD, e.enabled_slotV (by decide), e.srcA_slotV (by decide), merge_eq_laned, ← e.lerpF_slotV vd va vb vp vpn bs k]
  rfl

end

/-- Settles O31: as O30; VNOP puts out nothing. -/
theorem vectorMoveCommands : Obligations.VectorMoveCommands := by
  intro s sh vd va vb vp vpn bs k scal r hcalm
  refine ⟨fun hrun => ?_, fun hrun => ?_, fun hrun => ?_, fun hrun => ?_, fun hrun => ?_⟩
  · exact ⟨_, rfl, State.issue_outV hrun hcalm (State.vectorOut_vsel ..) rfl rfl rfl⟩
  · exact ⟨_, rfl, State.issue_outV hrun hcalm (State.vectorOut_viota ..) rfl rfl rfl⟩
  · exact ⟨_, rfl, State.issue_outV hrun hcalm (State.vectorOut_vlsh ..) rfl rfl rfl⟩
  · exact ⟨_, rfl, State.issue_outV hrun hcalm (State.vectorOut_vlerp ..) rfl rfl rfl⟩
  · obtain ⟨d, q, hd, hzero, heng, -, hmem⟩ := State.issue_vector hrun hcalm (s.vectorOut_zero sh _ r) rfl (.inl rfl)
    have hword : slotV 0x00 0 0 0 0 false false 0 = 0 := by decide
    have hexec : exec (.vnop sh 0 0 0 0 false false 0 scal) s =
        .next (s.issue sh (wordOf scal.toNat (slotV 0x00 0 0 0 0 false false 0))) := rfl
    refine ⟨_, hexec.trans (by rw [hword]), ?_, fun hscal => ⟨fun i => ?_, State.byte_of_mem hmem⟩⟩
    · exact heng ▸ lanesKept_trans (hd.lanesKept _) (lanesKept_run _ _)
    · rw [heng, (hzero hscal).1]
      rfl

/-! ## Predicates -/

/-- The predicate commands are encodings where the predicates they name exist. -/
theorem vectorIllegal_predicate {op : Nat} {vd va vb : BitVec 5} (vp : BitVec 3) (vpn bs : Bool) (k : BitVec 6) (h : 0x14 ≤ op)
    (h' : op ≤ 0x19) (hvd : vd.toNat < 8) (hv : 0x17 ≤ op → va.toNat < 8 ∧ vb.toNat < 8) :
    vectorIllegal (slotV op vd va vb vp vpn bs k) = false := by
  obtain ⟨hOP, hD, hA, hB, -⟩ := slotV_fields op vd va vb vp vpn bs k (by omega)
  unfold vectorIllegal
  dsimp only
  rw [hOP, hD, hA, hB]
  have hd : ¬ 7 < vd.toNat := by omega
  have hab (h : 0x17 ≤ op) : ¬ 7 < va.toNat ∧ ¬ 7 < vb.toNat := by
    have := hv h
    omega
  interval_cases op
  · exact decide_eq_false hd
  · exact decide_eq_false hd
  · exact decide_eq_false hd
  all_goals
    obtain ⟨ha, hb⟩ := hab (by decide)
    simp only [hd, ha, hb, decide_false]
    rfl

def compareOps : List (VectorCommand × Nat × (Half → Half → Bool)) :=
  [(.vcmpeq, 0x14, fun a b => decide (a = b)), (.vcmplt, 0x15, fun a b => decide (a.toInt < b.toInt)),
    (.vcmpgt, 0x16, fun a b => decide (b.toInt < a.toInt))]

def combineOps : List (VectorCommand × Nat × (Bool → Bool → Bool)) :=
  [(.pand, 0x17, fun a b => a && b), (.por, 0x18, fun a b => a || b), (.pandn, 0x19, fun a b => a && !b)]

theorem compareOps_exec : ∀ p ∈ compareOps, ∀ (s : State) (sh : Fin 192) (vd va vb : BitVec 5) (vp : BitVec 3) (vpn bs : Bool) (k : BitVec 6)
    (scal : Word), exec (p.1 sh vd va vb vp vpn bs k scal) s = .next (s.issue sh (wordOf scal.toNat (slotV p.2.1 vd va vb vp vpn bs k))) := by
  simp only [compareOps, List.forall_mem_cons]
  exact ⟨fun _ _ _ _ _ _ _ _ _ _ => rfl, fun _ _ _ _ _ _ _ _ _ _ => rfl, fun _ _ _ _ _ _ _ _ _ _ => rfl, fun _ h => absurd h List.not_mem_nil⟩

theorem combineOps_exec : ∀ p ∈ combineOps, ∀ (s : State) (sh : Fin 192) (vd va vb : BitVec 5) (vp : BitVec 3) (vpn bs : Bool) (k : BitVec 6)
    (scal : Word), exec (p.1 sh vd va vb vp vpn bs k scal) s = .next (s.issue sh (wordOf scal.toNat (slotV p.2.1 vd va vb vp vpn bs k))) := by
  simp only [combineOps, List.forall_mem_cons]
  exact ⟨fun _ _ _ _ _ _ _ _ _ _ => rfl, fun _ _ _ _ _ _ _ _ _ _ => rfl, fun _ _ _ _ _ _ _ _ _ _ => rfl, fun _ h => absurd h List.not_mem_nil⟩

/-- A predicate arm of the vector slot, at the word of its slot. -/
theorem Engine.outP_slotV {op : Nat} {vd va vb : BitVec 5} {vp : BitVec 3} {vpn bs : Bool} {k : BitVec 6} (e : Engine) (hop : op < 64)
    (f : Nat → Bool) : (e.outP (slotV op vd va vb vp vpn bs k) f).dest = .p vd.toNat (laned (laneOn e vp vpn) (e.p vd.toNat) false f) := by
  obtain ⟨-, hD, -⟩ := slotV_fields op vd va vb vp vpn bs k hop
  rw [Engine.outP, hD, e.enabled_slotV hop, merge_eq_laned]

theorem compareOps_out : ∀ p ∈ compareOps, ∀ (s : State) (sh : Nat) (e : Engine) (r : Run) (w : Nat),
    fOP w = p.2.1 → vectorIllegal w = false → s.vectorOut sh e r w = e.outP w fun l => p.2.2 (e.srcA w l) (e.srcB w l) := by
  refine List.forall_mem_cons.2 ⟨?_, List.forall_mem_cons.2 ⟨?_, List.forall_mem_cons.2 ⟨?_, fun _ h => absurd h List.not_mem_nil⟩⟩⟩
  all_goals
    intro s sh e r w h h'
    dsimp only at h
    simp only [State.vectorOut, h, h', Bool.false_eq_true, if_false]
    rfl

theorem combineOps_out : ∀ p ∈ combineOps, ∀ (s : State) (sh : Nat) (e : Engine) (r : Run) (w : Nat),
    fOP w = p.2.1 → vectorIllegal w = false →
      s.vectorOut sh e r w = e.outP w fun l => p.2.2 ((e.p (fA w)).getD l false) ((e.p (fB w)).getD l false) := by
  refine List.forall_mem_cons.2 ⟨?_, List.forall_mem_cons.2 ⟨?_, List.forall_mem_cons.2 ⟨?_, fun _ h => absurd h List.not_mem_nil⟩⟩⟩
  all_goals
    intro s sh e r w h h'
    dsimp only at h
    simp only [State.vectorOut, h, h', Bool.false_eq_true, if_false]
    rfl

theorem compareOps_op : ∀ p ∈ compareOps, 0x14 ≤ p.2.1 ∧ p.2.1 < 0x17 := by
  simp only [compareOps, List.forall_mem_cons]
  exact ⟨by decide, by decide, by decide, fun _ h => absurd h List.not_mem_nil⟩

theorem combineOps_op : ∀ p ∈ combineOps, 0x17 ≤ p.2.1 ∧ p.2.1 ≤ 0x19 := by
  simp only [combineOps, List.forall_mem_cons]
  exact ⟨by decide, by decide, by decide, fun _ h => absurd h List.not_mem_nil⟩

/-- Settles O32: as O30, with a predicate as the destination. -/
theorem predicateCommands : Obligations.PredicateCommands := by
  refine ⟨fun p hp s sh vd va vb vp vpn bs k scal r hvd hrun hcalm => ?_, fun p hp s sh vd va vb vp vpn bs k scal r hvd hva hvb hrun hcalm => ?_⟩
  · obtain ⟨hlo, hhi⟩ := compareOps_op p hp
    have hop : p.2.1 < 64 := by omega
    have hb := compareOps_out p hp s sh (s.engine sh) r _ (slotV_fields p.2.1 vd va vb vp vpn bs k hop).1
      (vectorIllegal_predicate vp vpn bs k hlo (by omega) hvd fun h => by omega)
    rw [Engine.srcA_slotV _ hop, Engine.srcB_slotV _ hop] at hb
    exact ⟨_, compareOps_exec p hp s sh vd va vb vp vpn bs k scal, State.issue_outP hrun hcalm hb rfl (Engine.outP_slotV _ hop _) rfl⟩
  · obtain ⟨hlo, hhi⟩ := combineOps_op p hp
    have hop : p.2.1 < 64 := by omega
    obtain ⟨hOP, -, hA, hB, -⟩ := slotV_fields p.2.1 vd va vb vp vpn bs k hop
    have hb := combineOps_out p hp s sh (s.engine sh) r _ hOP (vectorIllegal_predicate vp vpn bs k (by omega) hhi hvd fun _ => ⟨hva, hvb⟩)
    rw [hA, hB] at hb
    exact ⟨_, combineOps_exec p hp s sh vd va vb vp vpn bs k scal, State.issue_outP hrun hcalm hb rfl (Engine.outP_slotV _ hop _) rfl⟩

end Sys2Proof.Machine
end

/-! PROOFS. Accumulators and reductions (R156, R164; O33, O34). -/
section
namespace Sys2Proof.Machine

/-! ## Accumulators -/

section
variable {vd va vb : BitVec 5} (vp : BitVec 3) (vpn bs : Bool) (k : BitVec 6)

theorem vectorIllegal_accumulator {op : Nat} (h : 0x1C ≤ op) (h' : op ≤ 0x1E) (hvd : vd.toNat < 4) :
    vectorIllegal (slotV op vd va vb vp vpn bs k) = false := by
  obtain ⟨hOP, hD, -⟩ := slotV_fields op vd va vb vp vpn bs k (by omega)
  unfold vectorIllegal
  dsimp only
  rw [hOP, hD]
  generalize slotV op vd va vb vp vpn bs k = w
  have hd : decide (3 < vd.toNat) = false := decide_eq_false (by omega)
  interval_cases op <;> exact hd

theorem vectorIllegal_vacx (hva : va.toNat < 4) : vectorIllegal (slotV 0x1F vd va vb vp vpn bs k) = false := by
  obtain ⟨hOP, -, hA, -⟩ := slotV_fields 0x1F vd va vb vp vpn bs k (by decide)
  unfold vectorIllegal
  dsimp only
  rw [hOP, hA]
  generalize slotV 0x1F vd va vb vp vpn bs k = w
  exact decide_eq_false (show ¬ 3 < va.toNat by omega)

variable (s : State) (sh : Nat) (e : Engine) (r : Run)

/-- An accumulator arm of the vector slot, at the word of its slot. -/
theorem Engine.outA_slotV {op : Nat} (hop : op < 64) (lat : Nat) (f : Nat → Word → Word) :
    e.outA (slotV op vd va vb vp vpn bs k) lat f =
      { dest := .a vd.toNat (laned (laneOn e vp vpn) (e.acc vd.toNat) 0 fun l => f l ((e.acc vd.toNat).getD l 0)), lat := lat, part := true } := by
  obtain ⟨-, hD, -⟩ := slotV_fields op vd va vb vp vpn bs k hop
  rw [Engine.outA, hD, e.enabled_slotV hop]
  rfl

variable {vp vpn bs k}

theorem State.vectorOut_vmac (hvd : vd.toNat < 4) : s.vectorOut sh e r (slotV 0x1C vd va vb vp vpn bs k) =
    { dest := .a vd.toNat (laned (laneOn e vp vpn) (e.acc vd.toNat) 0 fun l =>
        saturate 32 (((e.acc vd.toNat).getD l 0).toInt + (lane e va l).toInt * (laneB e vb bs l).toInt)), lat := 3, part := true } := by
  obtain ⟨hOP, -⟩ := slotV_fields 0x1C vd va vb vp vpn bs k (by decide)
  simp only [State.vectorOut, vectorIllegal_accumulator vp vpn bs k (op := 0x1C) (by decide) (by decide) hvd, hOP, Bool.false_eq_true, if_false]
  simp only [e.outA_slotV (op := 0x1C) vp vpn bs k (by decide), e.srcA_slotV (op := 0x1C) (by decide), e.srcB_slotV (op := 0x1C) (by decide), macW, sat32_eq]

theorem State.vectorOut_vacc (hvd : vd.toNat < 4) : s.vectorOut sh e r (slotV 0x1D vd va vb vp vpn bs k) =
    { dest := .a vd.toNat (laned (laneOn e vp vpn) (e.acc vd.toNat) 0 fun l =>
        saturate 32 (((e.acc vd.toNat).getD l 0).toInt + (lane e va l).toInt * 2 ^ (min 15 k.toNat))), lat := 1, part := true } := by
  obtain ⟨hOP, -, -, -, -, -, -, hK⟩ := slotV_fields 0x1D vd va vb vp vpn bs k (by decide)
  simp only [State.vectorOut, vectorIllegal_accumulator vp vpn bs k (op := 0x1D) (by decide) (by decide) hvd, hOP, Bool.false_eq_true, if_false]
  simp only [e.outA_slotV (op := 0x1D) vp vpn bs k (by decide), e.srcA_slotV (op := 0x1D) (by decide), hK, accW, sat32_eq]

theorem State.vectorOut_vaclr (hvd : vd.toNat < 4) : s.vectorOut sh e r (slotV 0x1E vd va vb vp vpn bs k) =
    { dest := .a vd.toNat (laned (laneOn e vp vpn) (e.acc vd.toNat) 0 fun _ => 0), lat := 1
      part := e.masked (slotV 0x1E vd va vb vp vpn bs k) } := by
  obtain ⟨hOP, -⟩ := slotV_fields 0x1E vd va vb vp vpn bs k (by decide)
  simp only [State.vectorOut, vectorIllegal_accumulator vp vpn bs k (op := 0x1E) (by decide) (by decide) hvd, hOP, Bool.false_eq_true, if_false]
  simp only [e.outA_slotV (op := 0x1E) vp vpn bs k (by decide)]

theorem State.vectorOut_vacx (hva : va.toNat < 4) : s.vectorOut sh e r (slotV 0x1F vd va vb vp vpn bs k) =
    { dest := .v vd.toNat (laned (laneOn e vp vpn) (e.v vd.toNat) 0 fun l =>
        saturate 16 (roundShift ((e.acc va.toNat).getD l 0).toInt (min 31 k.toNat))), lat := 2
      part := e.masked (slotV 0x1F vd va vb vp vpn bs k) } := by
  obtain ⟨hOP, hD, hA, -, -, -, -, hK⟩ := slotV_fields 0x1F vd va vb vp vpn bs k (by decide)
  simp only [State.vectorOut, vectorIllegal_vacx vp vpn bs k hva, hOP, Bool.false_eq_true, if_false]
  simp only [Engine.outV, hD, hA, hK, e.enabled_slotV (op := 0x1F) (by decide), merge_eq_laned, acxH, sat16_eq]
  rfl

end

/-- Settles O33: as O30, with an accumulator as the destination. -/
theorem accumulatorCommands : Obligations.AccumulatorCommands := by
  intro s sh vd va vb vp vpn bs k scal r hcalm
  refine ⟨fun hvd => ⟨fun hrun => ?_, fun hrun => ?_, fun hrun => ?_⟩, fun hva hrun => ?_⟩
  · exact ⟨_, rfl, State.issue_outA hrun hcalm (State.vectorOut_vmac s sh _ r hvd) rfl rfl rfl⟩
  · exact ⟨_, rfl, State.issue_outA hrun hcalm (State.vectorOut_vacc s sh _ r hvd) rfl rfl rfl⟩
  · exact ⟨_, rfl, State.issue_outA hrun hcalm (State.vectorOut_vaclr s sh _ r hvd) rfl rfl rfl⟩
  · exact ⟨_, rfl, State.issue_outV hrun hcalm (State.vectorOut_vacx s sh _ r hva) rfl rfl rfl⟩

/-! ## Reductions -/

theorem calmScalar_zero (s : State) (sh : Nat) (r : Run) : calmScalar s sh r 0 := by
  unfold calmScalar
  rw [show (0 : Word).toNat = 0 from rfl, State.scalarOut_zero]
  exact ⟨rfl, rfl, rfl⟩

/-- A vector command beside SNOP whose result goes to a scalar register. -/
theorem State.issue_reduction {s : State} {sh : Nat} {r : Run} {hi : Nat} {d : BitVec 5} {v : Word} {lat : Nat}
    (hrun : running s sh r (wordOf 0 hi)) (hb : s.vectorOut sh (s.engine sh) r hi = outS d.toNat v lat) :
    ((s.issue sh (wordOf 0 hi)).engine sh).s d.toNat = (if d = 0 then 0 else v) ∧
    (∀ i, i ≠ d.toNat → ((s.issue sh (wordOf 0 hi)).engine sh).s i = (s.engine sh).s i) ∧
    lanesKept (s.engine sh) ((s.issue sh (wordOf 0 hi)).engine sh) ∧ runsAt s (s.issue sh (wordOf 0 hi)) sh (r.pc + 1) ∧
    ∀ a, (s.issue sh (wordOf 0 hi)).byte a = s.byte a := by
  obtain ⟨d', q, hd, hzero, heng, hothers, hmem⟩ := State.issue_vector (scal := 0) hrun (calmScalar_zero s sh r) hb rfl (.inr rfl)
  obtain ⟨rfl, hq⟩ := hzero rfl
  change (s.issue sh (wordOf 0 hi)).engine sh = { (s.engine sh).setS d.toNat v with run := some q } at heng
  refine ⟨?_, fun i hi => ?_, ?_, ⟨⟨q, by rw [heng], hq⟩, hothers⟩, State.byte_of_mem hmem⟩
  · rw [heng, Engine.s_run, Engine.s_setS_same]
    exact if_congr toNat_eq_zero_iff rfl rfl
  · rw [heng, Engine.s_run, Engine.s_setS_other _ _ _ hi]
  · rw [heng]
    exact lanesKept_trans (Dest.isScalar.lanesKept (d := .s d.toNat v) trivial _) (lanesKept_run _ _)

section
variable {vd va vb : BitVec 5} {vp : BitVec 3} {vpn bs : Bool} {k : BitVec 6} (s : State) (sh : Nat) (e : Engine) (r : Run)

theorem vectorIllegal_count {op : Nat} (h : op = 0x1A ∨ op = 0x1B) (hva : va.toNat < 8) :
    vectorIllegal (slotV op vd va vb vp vpn bs k) = false := by
  obtain ⟨hOP, -, hA, -⟩ := slotV_fields op vd va vb vp vpn bs k (by omega)
  unfold vectorIllegal
  dsimp only
  rw [hOP, hA]
  generalize slotV op vd va vb vp vpn bs k = w
  have ha : decide (7 < va.toNat) = false := decide_eq_false (by omega)
  rcases h with rfl | rfl <;> exact ha

theorem Engine.enabledLanes_slotV {op : Nat} (hop : op < 64) :
    e.enabledLanes (slotV op vd va vb vp vpn bs k) = (List.range 144).filter (laneOn e vp vpn) := by
  rw [Engine.enabledLanes, e.enabled_slotV hop, lanes]

theorem Engine.pLanes_slotV {op : Nat} (hop : op < 64) : e.pLanes (slotV op vd va vb vp vpn bs k) =
    ((List.range 144).filter (laneOn e vp vpn)).filter fun l => (e.p va.toNat).getD l false := by
  obtain ⟨-, -, hA, -⟩ := slotV_fields op vd va vb vp vpn bs k hop
  rw [Engine.pLanes, e.enabledLanes_slotV hop, hA]
  rfl

theorem State.vectorOut_pcnt (hva : va.toNat < 8) : s.vectorOut sh e r (slotV 0x1A vd va vb vp vpn bs k) =
    outS vd.toNat (BitVec.ofNat 32 (((List.range 144).filter (laneOn e vp vpn)).filter fun l => (e.p va.toNat).getD l false).length) 3 := by
  obtain ⟨hOP, hD, -⟩ := slotV_fields 0x1A vd va vb vp vpn bs k (by decide)
  simp only [State.vectorOut, vectorIllegal_count (op := 0x1A) (.inl rfl) hva, hOP, Bool.false_eq_true, if_false]
  rw [hD, e.pLanes_slotV (by decide)]

theorem State.vectorOut_pfirst (hva : va.toNat < 8) : s.vectorOut sh e r (slotV 0x1B vd va vb vp vpn bs k) =
    outS vd.toNat (BitVec.ofNat 32 ((((List.range 144).filter (laneOn e vp vpn)).filter
      fun l => (e.p va.toNat).getD l false).head?.getD 144)) 3 := by
  obtain ⟨hOP, hD, -⟩ := slotV_fields 0x1B vd va vb vp vpn bs k (by decide)
  simp only [State.vectorOut, vectorIllegal_count (op := 0x1B) (.inr rfl) hva, hOP, Bool.false_eq_true, if_false]
  rw [hD, e.pLanes_slotV (by decide), List.headD_eq_head?_getD]

theorem State.vectorOut_vrsum : s.vectorOut sh e r (slotV 0x20 vd va vb vp vpn bs k) =
    outS vd.toNat (saturate 32 ((((List.range 144).filter (laneOn e vp vpn)).map fun l => (lane e va l).toInt).foldl (· + ·) 0)) 3 := by
  obtain ⟨hOP, hD, -⟩ := slotV_fields 0x20 vd va vb vp vpn bs k (by decide)
  simp only [State.vectorOut, vectorIllegal_free vd va vb vp vpn bs k (op := 0x20) (by decide), hOP, Bool.false_eq_true, if_false]
  rw [hD, Engine.vsum, e.enabledLanes_slotV (by decide), e.srcA_slotV (by decide), sat32_eq, List.foldl_map]

theorem State.vectorOut_vrmax : s.vectorOut sh e r (slotV 0x21 vd va vb vp vpn bs k) =
    outS vd.toNat (BitVec.ofInt 32 ((((List.range 144).filter (laneOn e vp vpn)).map fun l => (lane e va l).toInt).foldl max (-32768))) 3 := by
  obtain ⟨hOP, hD, -⟩ := slotV_fields 0x21 vd va vb vp vpn bs k (by decide)
  simp only [State.vectorOut, vectorIllegal_free vd va vb vp vpn bs k (op := 0x21) (by decide), hOP, Bool.false_eq_true, if_false]
  rw [hD, Engine.vmax, e.enabledLanes_slotV (by decide), e.srcA_slotV (by decide), List.foldl_map]

theorem State.vectorOut_vext : s.vectorOut sh e r (slotV 0x22 vd va vb vp vpn false k) =
    outS vd.toNat (if 144 ≤ (e.s vb.toNat).toNat then 0 else (lane e va (e.s vb.toNat).toNat).signExtend 32) 3 := by
  obtain ⟨hOP, hD, hA, hB, -, -, hBS, -⟩ := slotV_fields 0x22 vd va vb vp vpn false k (by decide)
  have hlegal : vectorIllegal (slotV 0x22 vd va vb vp vpn false k) = false := by
    unfold vectorIllegal
    dsimp only
    rw [hOP, hBS]
    rfl
  simp only [State.vectorOut, hlegal, hOP, Bool.false_eq_true, if_false]
  rw [hD, Engine.vext, hA, hB]
  rfl

end

/-- Settles O34: each reduction's arm of `State.vectorOut`, with the result in a scalar register. -/
theorem reductionCommands : Obligations.ReductionCommands := by
  intro s sh vd va vb vp vpn bs k r
  refine ⟨fun hva => ⟨fun hrun => ?_, fun hrun => ?_⟩, fun hrun => ?_, fun hrun => ?_, fun hbs hrun => ?_⟩
  · exact ⟨_, rfl, State.issue_reduction hrun (State.vectorOut_pcnt s sh _ r hva)⟩
  · exact ⟨_, rfl, State.issue_reduction hrun (State.vectorOut_pfirst s sh _ r hva)⟩
  · exact ⟨_, rfl, State.issue_reduction hrun (State.vectorOut_vrsum s sh _ r)⟩
  · exact ⟨_, rfl, State.issue_reduction hrun (State.vectorOut_vrmax s sh _ r)⟩
  · subst hbs
    exact ⟨_, rfl, State.issue_reduction hrun (State.vectorOut_vext s sh _ r)⟩

end Sys2Proof.Machine
end

/-! PROOFS. Events told beside other events, and the lines that leave a Shingle (R136, R140–R143). -/
section
namespace Sys2Proof.Machine

/-! ## Two events -/

/-- Two events that share neither an INT_RAW bit nor a counter. -/
def Ev.apart (e e' : Ev) : Prop := e.page ≠ e'.page ∨ e.bit ≠ e'.bit ∧ ∀ b b', e.cnt = some b → e'.cnt = some b' → b ≠ b'

section
variable {s t : State} {e e' : Ev}

theorem evtCnt_apart {p b b' : Nat} (h : b ≠ b') : (evtCnt p b).reg ≠ (evtCnt p b').reg ∨ ((evtCnt p b').lo + (evtCnt p b').w ≤ 32 ∧
    ((evtCnt p b').lo + (evtCnt p b').w ≤ (evtCnt p b).lo ∨ (evtCnt p b).lo + (evtCnt p b).w ≤ (evtCnt p b').lo)) := by
  simp only [evtCnt]
  omega

/-- Another event's counter is left alone. -/
theorem State.get_evtCnt_raise {p b : Nat} (hb : b < 16) (hc : ∀ b, e'.cnt = some b → b < 16)
    (h : p ≠ e'.page ∨ ∀ b', e'.cnt = some b' → b ≠ b') : (s.raise e').get (evtCnt p b) = s.get (evtCnt p b) := by
  have hraw : (evtCnt p b).reg ≠ (intRawBit e').reg := by
    simp only [evtCnt, intRawBit]
    omega
  cases hb' : e'.cnt with
  | none => exact State.get_of_regsSame (State.regsSame_raise (List.Subset.refl _)) (by simpa [toldRegs, hb'] using hraw)
  | some b' =>
    have hlt := hc b' hb'
    have hput : (s.raise e').get (evtCnt p b) = ((s.put (intRawBit e') 1).bumpBy (evtCnt e'.page b') 1).get (evtCnt p b) := by
      simp only [State.get, s.reg_raise_some e' b' hb']
    rw [hput, State.bumpBy, State.get_put_other, State.get_put_reg _ _ hraw]
    rcases h with h | h
    · refine .inl ?_
      simp only [evtCnt]
      omega
    · by_cases hp : p = e'.page
      · subst hp
        exact evtCnt_apart (h b' hb')
      · refine .inl ?_
        simp only [evtCnt]
        omega

/-- An event told before another one is told behind it too. -/
theorem told_raise_other (h : told s t e) (he : ∀ b, e.cnt = some b → b < 16) (hbit : e'.bit < 32) (hc : ∀ b, e'.cnt = some b → b < 16)
    (hap : e.apart e') : told s (t.raise e') e := by
  obtain ⟨hraw, hcnt⟩ := h
  refine ⟨State.get_intRawBit_raise _ hbit hc hraw, fun b hb => ?_⟩
  rw [State.get_evtCnt_raise (he b hb) hc, hcnt b hb]
  exact hap.imp_right fun h b' => h.2 b b' hb

/-- An event raised behind changes that leave its counter alone is told. -/
theorem told_raise_of_cnt (hbit : e.bit < 32) (h : ∀ b, e.cnt = some b → t.get (evtCnt e.page b) = s.get (evtCnt e.page b)) :
    told s (t.raise e) e :=
  ⟨t.get_raise e hbit, fun b hb => by rw [State.get_raise_cnt _ e b hb, h b hb]⟩

/-- What has been told stays told behind a change of other registers. -/
theorem told_of_regsSame {u : State} {L : List Nat} (h : told s t e) (hr : t.regsSame u L) (hL : ∀ a ∈ toldRegs e, a ∉ L) : told s u e :=
  told_frame h (State.regsSame.refl (L := [])) hr (fun _ _ => List.not_mem_nil) hL

end

/-! ## Lines that leave a Shingle -/

section
variable (s : State)

/-- The registers that follow the lines: the watermark, OLD_BUSY. -/
def settleRegs : List Nat := [R.RING_WM_LO_TICKNO.reg, R.RING_WM_HI_TICKNO.reg, R.JOB_STAT_OLD_BUSY.reg]

theorem State.busyShow_only : only s s.busyShow settleRegs :=
  only_trans (only_upd only_refl) (only_put _ (by decide))

theorem State.linesSettle_only : only s s.linesSettle settleRegs := by
  unfold State.linesSettle
  dsimp only
  refine only_trans ?_ (State.busyShow_only _)
  refine only_trans ?_ (only_put64 _ (by decide) (by decide))
  exact only_upd (only_upd only_refl)

/-- The registers that show a line that has left a Shingle. -/
def leaveRegs (sh : Nat) : List Nat := (R.SH_DONE_LO_TICKNO sh).reg :: (R.SH_DONE_HI_TICKNO sh).reg :: settleRegs

theorem State.setLine_only (n : Nat) (f : Line → Line) {L : List Nat} : only s (s.setLine n f) L := only_upd only_refl

theorem State.leave_only (sh n : Nat) (token : Bool) : only s (s.leave sh n token) (leaveRegs sh) := by
  unfold State.leave
  dsimp only
  refine only_trans ?_ (only_mono (State.linesSettle_only _) (List.subset_append_right [_, _] settleRegs))
  have hput : only s ((s.setLine n fun l => { l with gone := l.gone ||| 2 ^ sh, handled := if token then l.handled ||| 2 ^ sh else l.handled }).put64
      (R.SH_DONE_LO_TICKNO sh) (R.SH_DONE_HI_TICKNO sh) n) (leaveRegs sh) :=
    only_trans (State.setLine_only ..) (only_put64 _ List.mem_cons_self (List.mem_cons_of_mem _ List.mem_cons_self))
  exact only_ite (only_trans hput (State.setLine_only ..)) hput

theorem State.giveUp_only {sh : Nat} (n reason : Nat) (h : (s.engine sh).run = none) : only s (s.giveUp sh n reason) (leaveRegs sh) := by
  have hrun : ((s.addReport n reason (2 ^ sh)).engine sh).run = none := h
  unfold State.giveUp
  dsimp only
  rw [hrun]
  exact only_trans (State.setLine_only ..) (State.leave_only ..)

/-- The registers that a line lost as OVERRUN changes. -/
def overrunRegs (sh : Nat) : List Nat := (R.SH_OVR_CNT_COUNT sh).reg :: toldRegs (E.SH_OVERRUN sh) ++ leaveRegs sh

theorem State.overrun_only {sh : Nat} (n : Nat) (h : (s.engine sh).run = none) : only s (s.overrun sh n) (overrunRegs sh) := by
  unfold State.overrun
  have hraise : only s ((s.bump (R.SH_OVR_CNT_COUNT sh)).raise (E.SH_OVERRUN sh)) (overrunRegs sh) :=
    only_trans (only_bump List.mem_cons_self) (only_raise fun a ha => List.mem_cons_of_mem _ (List.mem_append_left _ ha))
  refine only_trans hraise (only_mono (State.giveUp_only _ n _ ?_) fun a ha => List.mem_cons_of_mem _ (List.mem_append_right _ ha))
  rw [State.engine_of_eng hraise.2.2.2.1, h]

/-- The tokens that waited leave: lines and registers change, and of the engines this one's list alone. -/
theorem State.leaveRest_frame (sh : Nat) : s.regsSame (s.leaveRest sh) (leaveRegs sh) ∧ (∀ a, (s.leaveRest sh).byte a = s.byte a) ∧
    (s.leaveRest sh).eng = (s.setEngine sh { s.engine sh with leaving := [] }).eng ∧ (s.leaveRest sh).force = s.force ∧
    (s.leaveRest sh).nvs = s.nvs := by
  obtain ⟨hregs, hforce, hbyte, heng, hnvs⟩ : only (s.setEngine sh { s.engine sh with leaving := [] }) (s.leaveRest sh) (leaveRegs sh) :=
    only_foldl _ fun u n _ => u.leave_only sh n true
  exact ⟨hregs, hbyte, heng, hforce, hnvs⟩

/-- The registers that SH_STAT changes. -/
theorem State.shShow_only (sh : Nat) : only s (s.shShow sh) [(R.SH_STAT_STATE sh).reg] := by
  unfold State.shShow
  split
  · exact only_refl
  · refine only_trans (only_trans (only_trans (only_trans (only_put _ ?_) (only_put _ ?_)) (only_put _ ?_)) (only_put _ ?_)) (only_put _ ?_)
    all_goals exact List.mem_singleton_self _

theorem told_overrun {sh n : Nat} (h : (s.engine sh).run = none) : told s (s.overrun sh n) (E.SH_OVERRUN sh) := by
  have hbump : s.regsSame (s.bump (R.SH_OVR_CNT_COUNT sh)) [(R.SH_OVR_CNT_COUNT sh).reg] := State.regsSame_put _ (List.mem_singleton_self _)
  have htold := told_raise_of_regsSame s (e := E.SH_OVERRUN sh) (show 0 < 32 by decide) hbump (by
    simp only [toldRegs, E.SH_OVERRUN, intRawBit, evtCnt, R.SH_OVR_CNT_COUNT, List.mem_cons, List.not_mem_nil, or_false]
    omega)
  have hrun : (((s.bump (R.SH_OVR_CNT_COUNT sh)).raise (E.SH_OVERRUN sh)).engine sh).run = none := by
    rw [State.engine_of_eng ((State.raise_eng _ _).trans (State.bump_eng s _)), h]
  refine told_of_regsSame htold (State.giveUp_only _ n rcOVERRUN hrun).1 ?_
  simp only [toldRegs, E.SH_OVERRUN, intRawBit, evtCnt, leaveRegs, settleRegs, R.SH_DONE_LO_TICKNO, R.SH_DONE_HI_TICKNO, R.RING_WM_LO_TICKNO,
    R.RING_WM_HI_TICKNO, R.JOB_STAT_OLD_BUSY, List.mem_cons, List.not_mem_nil, or_false]
  omega

end

/-! ## Faults (R142) -/

/-- The fault's fields and its summary bit. -/
def State.faultShown (s : State) (sh code pc bank addr : Nat) : State :=
  ((((s.put (R.SH_FAULT_CODE sh) code).put (R.SH_FAULT_PC sh) pc).put (R.SH_FAULT_BANK sh) bank).put (R.SH_FAULT_ADDR_ADDR sh) addr).put
    (faultSum sh) 1

theorem State.faultShown_frame (s : State) (sh code pc bank addr : Nat) : s.regsSame (s.faultShown sh code pc bank addr)
      [(R.SH_FAULT_CODE sh).reg, (R.SH_FAULT_ADDR_ADDR sh).reg, (faultSum sh).reg] ∧
    (s.faultShown sh code pc bank addr).eng = s.eng ∧ (s.faultShown sh code pc bank addr).job = s.job ∧
    (s.faultShown sh code pc bank addr).mem = s.mem := by
  unfold State.faultShown
  refine ⟨((((State.regsSame_put _ ?_).trans (State.regsSame_put _ ?_)).trans (State.regsSame_put _ ?_)).trans (State.regsSame_put _ ?_)).trans
    (State.regsSame_put _ ?_), ?_, ?_, ?_⟩
  · exact List.mem_cons_self
  · exact List.mem_cons_self
  · exact List.mem_cons_self
  · exact List.mem_cons_of_mem _ List.mem_cons_self
  · exact List.mem_cons_of_mem _ (List.mem_cons_of_mem _ List.mem_cons_self)
  · rw [State.put_eng, State.put_eng, State.put_eng, State.put_eng, State.put_eng]
  · rw [State.put_job, State.put_job, State.put_job, State.put_job, State.put_job]
  · rw [State.put_mem, State.put_mem, State.put_mem, State.put_mem, State.put_mem]

theorem State.get_faultShown {s : State} {sh code pc bank addr : Nat} (hsh : sh < 192) (hcode : code < 16) (hpc : pc < 4096) :
    (s.faultShown sh code pc bank addr).get (R.SH_FAULT_CODE sh) = code ∧ (s.faultShown sh code pc bank addr).get (R.SH_FAULT_PC sh) = pc ∧
    (s.faultShown sh code pc bank addr).get (R.SH_FAULT_ADDR_ADDR sh) = addr % 2 ^ 32 ∧ (s.faultShown sh code pc bank addr).get (faultSum sh) = 1 := by
  have haddr : (R.SH_FAULT_CODE sh).reg ≠ (R.SH_FAULT_ADDR_ADDR sh).reg := by simp only [R.SH_FAULT_CODE, R.SH_FAULT_ADDR_ADDR]; omega
  have hsum {f : Fld} (h : 0x200000 ≤ f.reg) : f.reg ≠ (faultSum sh).reg := by
    simp only [faultSum, R.ENGG_FAULT_SUMw_SHINGLE]
    omega
  have haddrPC : (R.SH_FAULT_PC sh).reg ≠ (R.SH_FAULT_ADDR_ADDR sh).reg := haddr
  have hcode' : 0x200000 ≤ (R.SH_FAULT_CODE sh).reg := by simp only [R.SH_FAULT_CODE]; omega
  have hpc' : 0x200000 ≤ (R.SH_FAULT_PC sh).reg := by simp only [R.SH_FAULT_PC]; omega
  have haddr' : 0x200000 ≤ (R.SH_FAULT_ADDR_ADDR sh).reg := by simp only [R.SH_FAULT_ADDR_ADDR]; omega
  unfold State.faultShown
  refine ⟨?_, ?_, ?_, ?_⟩
  · rw [State.get_put_reg _ _ (hsum hcode'), State.get_put_reg _ _ haddr, State.get_put_bits, State.get_put_bits, State.get_put_fits _ _ hcode]
    all_goals simp only [R.SH_FAULT_CODE, R.SH_FAULT_PC, R.SH_FAULT_BANK]
    all_goals omega
  · rw [State.get_put_reg _ _ (hsum hpc'), State.get_put_reg _ _ haddrPC, State.get_put_bits, State.get_put_fits _ _ hpc]
    all_goals simp only [R.SH_FAULT_PC, R.SH_FAULT_BANK]
    all_goals omega
  · rw [State.get_put_reg _ _ (hsum haddr'), State.get_put_same _ _ (by simp only [R.SH_FAULT_ADDR_ADDR]; omega)]
    rfl
  · rw [State.get_put_same _ _ (by simp only [faultSum]; omega)]
    rfl

/-- An engine that runs no more gives its line and its tokens up. -/
def State.lineLost (s : State) (sh n : Nat) : State := (((s.overrun sh n).leaveRest sh).proofPrune sh).shShow sh

theorem State.engineFault_eq {s : State} {sh code pc addr : Nat} {r : Run} (h : (s.engine sh).run = some r) :
    s.engineFault sh code pc addr = (((s.faultShown sh code pc r.bank addr).raise (E.SH_FAULT sh)).setEngine sh
      { s.engine sh with run := none, faulted := true, faultAct := s.job.act }).lineLost sh r.line.tickno := by
  obtain ⟨-, heng, hjob, -⟩ := s.faultShown_frame sh code pc r.bank addr
  have hengine : ((s.faultShown sh code pc r.bank addr).raise (E.SH_FAULT sh)).engine sh = s.engine sh :=
    State.engine_of_eng ((State.raise_eng _ _).trans heng) sh
  have hact : ((s.faultShown sh code pc r.bank addr).raise (E.SH_FAULT sh)).job.act = s.job.act := by rw [State.raise_job, hjob]
  unfold State.faultShown at hengine hact ⊢
  unfold State.engineFault
  dsimp only
  rw [h]
  dsimp only
  rw [hengine, hact, State.lineLost]

/-- What is told from one state is told from another with the same event count. -/
theorem told_of_cnt {s u t : State} {e : Ev} (h : told u t e) (hc : ∀ b, e.cnt = some b → u.get (evtCnt e.page b) = s.get (evtCnt e.page b)) :
    told s t e :=
  ⟨h.1, fun b hb => by rw [h.2 b hb, hc b hb]⟩

/-- The registers that change with a line lost. -/
def lostRegs (sh : Nat) : List Nat := (R.SH_STAT_STATE sh).reg :: overrunRegs sh

theorem State.setEngine_regs (s : State) (sh : Nat) (e : Engine) : (s.setEngine sh e).regs = s.regs := rfl
theorem State.setEngine_mem (s : State) (sh : Nat) (e : Engine) : (s.setEngine sh e).mem = s.mem := rfl
theorem State.proofPrune_regs (s : State) (sh : Nat) : (s.proofPrune sh).regs = s.regs := rfl
theorem State.proofPrune_mem (s : State) (sh : Nat) : (s.proofPrune sh).mem = s.mem := rfl

theorem State.proofPrune_eng (s : State) (sh : Nat) :
    ((s.proofPrune sh).engine sh).run = (s.engine sh).run ∧ ((s.proofPrune sh).engine sh).faulted = (s.engine sh).faulted := by
  unfold State.proofPrune
  dsimp only
  rw [State.engine_setEngine_same]
  exact ⟨rfl, rfl⟩

theorem State.lineLost_frame {s : State} {sh : Nat} (n : Nat) (h : (s.engine sh).run = none) :
    s.regsSame (s.lineLost sh n) (lostRegs sh) ∧ (∀ a, (s.lineLost sh n).byte a = s.byte a) ∧
    ((s.lineLost sh n).engine sh).run = none ∧ ((s.lineLost sh n).engine sh).faulted = (s.engine sh).faulted := by
  obtain ⟨hover, -, hbyte₁, heng₁, -⟩ := s.overrun_only n h
  obtain ⟨hleave, hbyte₂, heng₂, -⟩ := (s.overrun sh n).leaveRest_frame sh
  obtain ⟨hshow, -, hbyte₃, heng₃, -⟩ := (((s.overrun sh n).leaveRest sh).proofPrune sh).shShow_only sh
  have hprune : ((s.overrun sh n).leaveRest sh).regsSame (((s.overrun sh n).leaveRest sh).proofPrune sh) (lostRegs sh) := .of_regs (State.proofPrune_regs _ sh)
  have hengine : (((s.overrun sh n).leaveRest sh).engine sh) = { s.engine sh with leaving := [] } := by
    rw [State.engine_of_eng heng₂, State.engine_setEngine_same, State.engine_of_eng heng₁]
  obtain ⟨hrun, hfaulted⟩ := ((s.overrun sh n).leaveRest sh).proofPrune_eng sh
  rw [hengine] at hrun hfaulted
  refine ⟨?_, fun a => ?_, ?_, ?_⟩
  · refine ((hover.mono (List.subset_cons_self _ _)).trans (hleave.mono ?_)).trans (hprune.trans (hshow.mono ?_))
    · exact fun a ha => List.mem_cons_of_mem _ (List.mem_cons_of_mem _ (List.mem_append_right _ ha))
    · exact fun a ha => by rw [List.mem_singleton.1 ha]; exact List.mem_cons_self
  · exact (hbyte₃ a).trans ((State.byte_of_mem (State.proofPrune_mem _ sh) a).trans ((hbyte₂ a).trans (hbyte₁ a)))
  · rw [State.lineLost, State.engine_of_eng heng₃, hrun]
    exact h
  · rw [State.lineLost, State.engine_of_eng heng₃, hfaulted]

/-- What was told before, of another event, stays told beside the loss of a line; the loss is told as OVERRUN. -/
theorem told_lineLost {s u : State} {e : Ev} {sh : Nat} (n : Nat) (h : (u.engine sh).run = none) (ht : told s u e)
    (he : ∀ b, e.cnt = some b → b < 16) (hap : e.apart (E.SH_OVERRUN sh))
    (hregs : ∀ a ∈ toldRegs e, a ≠ (R.SH_OVR_CNT_COUNT sh).reg ∧ a ∉ (R.SH_STAT_STATE sh).reg :: leaveRegs sh) :
    told s (u.lineLost sh n) e := by
  have hbump : u.regsSame (u.bump (R.SH_OVR_CNT_COUNT sh)) [(R.SH_OVR_CNT_COUNT sh).reg] := State.regsSame_put _ (List.mem_singleton_self _)
  have hraise := told_raise_other (e' := E.SH_OVERRUN sh)
    (told_of_regsSame ht hbump fun a ha => by simpa only [List.mem_singleton] using (hregs a ha).1) he (show 0 < 32 by decide)
    (fun b hb => by obtain rfl := Option.some.inj hb; decide) hap
  have hrun : (((u.bump (R.SH_OVR_CNT_COUNT sh)).raise (E.SH_OVERRUN sh)).engine sh).run = none := by
    rw [State.engine_of_eng ((State.raise_eng _ _).trans (State.bump_eng u _)), h]
  obtain ⟨hgive, -⟩ := State.giveUp_only _ n rcOVERRUN hrun
  obtain ⟨hleave, -⟩ := (u.overrun sh n).leaveRest_frame sh
  obtain ⟨hshow, -⟩ := (((u.overrun sh n).leaveRest sh).proofPrune sh).shShow_only sh
  have hprune : ((u.overrun sh n).leaveRest sh).regsSame (((u.overrun sh n).leaveRest sh).proofPrune sh) (leaveRegs sh) := .of_regs (State.proofPrune_regs _ sh)
  have hrest : ((u.bump (R.SH_OVR_CNT_COUNT sh)).raise (E.SH_OVERRUN sh)).regsSame (u.lineLost sh n) ((R.SH_STAT_STATE sh).reg :: leaveRegs sh) :=
    ((hgive.trans (hleave.trans hprune)).mono (List.subset_cons_self _ _)).trans
      (hshow.mono fun a ha => by rw [List.mem_singleton.1 ha]; exact List.mem_cons_self)
  exact told_of_regsSame hraise hrest fun a ha => (hregs a ha).2

theorem told_overrun_lineLost {u : State} {sh : Nat} (n : Nat) (h : (u.engine sh).run = none) : told u (u.lineLost sh n) (E.SH_OVERRUN sh) := by
  obtain ⟨hleave, -⟩ := (u.overrun sh n).leaveRest_frame sh
  obtain ⟨hshow, -⟩ := (((u.overrun sh n).leaveRest sh).proofPrune sh).shShow_only sh
  have hprune : ((u.overrun sh n).leaveRest sh).regsSame (((u.overrun sh n).leaveRest sh).proofPrune sh) (leaveRegs sh) := .of_regs (State.proofPrune_regs _ sh)
  have hrest : (u.overrun sh n).regsSame (u.lineLost sh n) ((R.SH_STAT_STATE sh).reg :: leaveRegs sh) :=
    ((hleave.trans hprune).mono (List.subset_cons_self _ _)).trans
      (hshow.mono fun a ha => by rw [List.mem_singleton.1 ha]; exact List.mem_cons_self)
  refine told_of_regsSame (told_overrun u h) hrest ?_
  simp only [toldRegs, E.SH_OVERRUN, intRawBit, evtCnt, leaveRegs, settleRegs, R.SH_DONE_LO_TICKNO, R.SH_DONE_HI_TICKNO, R.RING_WM_LO_TICKNO,
    R.RING_WM_HI_TICKNO, R.JOB_STAT_OLD_BUSY, R.SH_STAT_STATE, List.mem_cons, List.not_mem_nil, or_false]
  omega

theorem mem_lostRegs {a sh : Nat} (h : a ∈ lostRegs sh) : a = 0x1A044 ∨ a = 0x20040 ∨ a = 0x20044 ∨ a = 0x200010 + 0x1000 * sh ∨ a = 0x200020 + 0x1000 * sh ∨
    a = 0x200044 + 0x1000 * sh ∨ a = 0x200050 + 0x1000 * sh ∨ a = 0x200054 + 0x1000 * sh ∨ a = 0x200060 + 0x1000 * sh := by
  simp only [lostRegs, overrunRegs, toldRegs, E.SH_OVERRUN, intRawBit, evtCnt, leaveRegs, settleRegs, R.SH_DONE_LO_TICKNO, R.SH_DONE_HI_TICKNO,
    R.RING_WM_LO_TICKNO, R.RING_WM_HI_TICKNO, R.JOB_STAT_OLD_BUSY, R.SH_STAT_STATE, R.SH_OVR_CNT_COUNT, List.cons_append, List.nil_append,
    List.mem_cons, List.not_mem_nil, or_false] at h
  omega

theorem mem_toldRegs_fault {a sh : Nat} (h : a ∈ toldRegs (E.SH_FAULT sh)) : a = 0x200010 + 0x1000 * sh ∨ a = 0x200024 + 0x1000 * sh := by
  simp only [toldRegs, E.SH_FAULT, intRawBit, evtCnt, List.mem_cons, List.not_mem_nil, or_false] at h
  omega

/-- A fault's record, its two events, and an engine that runs no more (R142). -/
theorem State.engineFault_spec {s : State} {sh code pc addr : Nat} {r : Run} (h : (s.engine sh).run = some r) (hsh : sh < 192)
    (hcode : code < 16) (hpc : pc < 4096) :
    faultedWith s (s.engineFault sh code pc addr) sh code pc ∧
    (s.engineFault sh code pc addr).get (R.SH_FAULT_ADDR_ADDR sh) = addr % 2 ^ 32 := by
  obtain ⟨hshown, heng, -, hmem⟩ := s.faultShown_frame sh code pc r.bank addr
  obtain ⟨hgcode, hgpc, hgaddr, hgsum⟩ := State.get_faultShown (s := s) (bank := r.bank) (addr := addr) hsh hcode hpc
  have htold : told s ((s.faultShown sh code pc r.bank addr).raise (E.SH_FAULT sh)) (E.SH_FAULT sh) := by
    refine told_raise_of_regsSame s (show 5 < 32 by decide) hshown ?_
    simp only [toldRegs, E.SH_FAULT, intRawBit, evtCnt, R.SH_FAULT_CODE, R.SH_FAULT_ADDR_ADDR, faultSum, R.ENGG_FAULT_SUMw_SHINGLE,
      List.mem_cons, List.not_mem_nil, or_false]
    omega
  have hslots : ∀ u : State, u.regs = ((s.faultShown sh code pc r.bank addr).raise (E.SH_FAULT sh)).regs → u.mem = s.mem →
      (u.engine sh).run = none → (u.engine sh).faulted = true → faultedWith s (u.lineLost sh r.line.tickno) sh code pc ∧
      (u.lineLost sh r.line.tickno).get (R.SH_FAULT_ADDR_ADDR sh) = addr % 2 ^ 32 := by
    intro u hregs hmem hrun hfaulted
    obtain ⟨hlost, hbyte, hrun', hfaulted'⟩ := State.lineLost_frame r.line.tickno hrun
    have htold' : told s u (E.SH_FAULT sh) := told_of_regsSame htold (.of_regs hregs (L := [])) fun _ _ => List.not_mem_nil
    have hget {f : Fld} (hf : f.reg ∉ lostRegs sh) (hraw : f.reg ∉ toldRegs (E.SH_FAULT sh)) :
        (u.lineLost sh r.line.tickno).get f = (s.faultShown sh code pc r.bank addr).get f := by
      rw [State.get_of_regsSame hlost hf, State.get_of_regs hregs, State.get_raise_other _ hraw]
    have hshown' {f : Fld} (hf : f.reg = 0x200048 + 0x1000 * sh ∨ f.reg = 0x20004C + 0x1000 * sh ∨ f.reg = 0x19060 + 4 * (sh / 32)) :
        (u.lineLost sh r.line.tickno).get f = (s.faultShown sh code pc r.bank addr).get f :=
      hget (fun h => by have := mem_lostRegs h; omega) fun h => by have := mem_toldRegs_fault h; omega
    refine ⟨⟨hfaulted'.trans hfaulted, hrun', ?_, ?_, ?_, ?_, ?_, fun a => (hbyte a).trans (State.byte_of_mem hmem a)⟩, ?_⟩
    · rw [hshown' (.inl rfl), hgcode]
    · rw [hshown' (.inl rfl), hgpc]
    · rw [hshown' (.inr (.inr rfl)), hgsum]
    · refine told_lineLost _ hrun htold' (fun b hb => ?_) (.inr ⟨show 5 ≠ 0 by decide, fun b b' hb hb' => ?_⟩) fun a ha => ?_
      · obtain rfl := Option.some.inj hb
        decide
      · obtain rfl := Option.some.inj hb
        obtain rfl := Option.some.inj hb'
        decide
      · have hfault := mem_toldRegs_fault ha
        simp only [leaveRegs, settleRegs, R.SH_DONE_LO_TICKNO, R.SH_DONE_HI_TICKNO, R.RING_WM_LO_TICKNO, R.RING_WM_HI_TICKNO,
          R.JOB_STAT_OLD_BUSY, R.SH_STAT_STATE, R.SH_OVR_CNT_COUNT, List.mem_cons, List.not_mem_nil, or_false]
        omega
    · refine told_of_cnt (told_overrun_lineLost _ hrun) fun b hb => ?_
      obtain rfl := Option.some.inj hb
      rw [State.get_of_regs hregs, State.get_evtCnt_raise (by decide), State.get_of_regsSame hshown]
      · simp only [evtCnt, E.SH_OVERRUN, R.SH_FAULT_CODE, R.SH_FAULT_ADDR_ADDR, faultSum, R.ENGG_FAULT_SUMw_SHINGLE, List.mem_cons,
          List.not_mem_nil, or_false]
        omega
      · exact fun b hb => by obtain rfl := Option.some.inj hb; decide
      · exact .inr fun b hb => by obtain rfl := Option.some.inj hb; decide
    · rw [hshown' (.inr (.inl rfl)), hgaddr]
  rw [State.engineFault_eq h]
  refine hslots _ ?_ ?_ ?_ ?_
  · exact State.setEngine_regs ..
  · exact (State.setEngine_mem ..).trans ((State.raise_mem _ _).trans hmem)
  · rw [State.engine_setEngine_same]
  · rw [State.engine_setEngine_same]

end Sys2Proof.Machine
end

/-! PROOFS. Kernel faults (R142, R158, R163, R165, R166, R172; O36). -/
section
namespace Sys2Proof.Machine

section
variable {s t u : State} {sh : Nat} {r : Run}

theorem faultedWith_of_regs {code pc : Nat} (hregs : u.regs = s.regs) (hmem : u.mem = s.mem) (h : faultedWith u t sh code pc) :
    faultedWith s t sh code pc := by
  obtain ⟨hfaulted, hrun, hcode, hpc, hsum, htold, hover, hbyte⟩ := h
  exact ⟨hfaulted, hrun, hcode, hpc, hsum, told_of_cnt htold fun _ _ => State.get_of_regs hregs,
    told_of_cnt hover fun _ _ => State.get_of_regs hregs, fun a => (hbyte a).trans (State.byte_of_mem hmem a)⟩

/-- A scalar slot that faults leaves the fault alone. -/
theorem State.stepWord_scalarFault (w : Nat) {code addr : Nat} (ha : (s.scalarAt sh r w).fault = some (code, addr)) :
    ∃ u, s.sameSlots u ∧ u.mem = s.mem ∧ s.stepWord sh r w = u.engineFault sh code r.pc addr := by
  obtain ⟨⟨hregs, hjob, heng, hlines⟩, hmem⟩ := s.issueAt_frame r (w % 2 ^ 32) (w / 2 ^ 32)
  unfold State.scalarAt at ha
  unfold State.stepWord
  dsimp only
  generalize s.issueAt r (w % 2 ^ 32) (w / 2 ^ 32) = p at *
  obtain ⟨c, s9⟩ := p
  dsimp only at *
  have hslots₀ : s.sameSlots (s9.at (r.timeOf (s.shRate sh) (16 + c))) := ⟨hregs, hjob, heng, hlines⟩
  have hmem₀ : (s9.at (r.timeOf (s.shRate sh) (16 + c))).mem = s.mem := hmem
  generalize s9.at (r.timeOf (s.shRate sh) (16 + c)) = s0 at *
  rw [State.scalarOut_congr hslots₀.regs hslots₀.job hmem₀, ha]
  exact ⟨s0, hslots₀, hmem₀, rfl⟩

/-- A vector slot that faults beside a scalar slot without effect. -/
theorem State.stepWord_vectorFault {w hi : Nat} (hlo : w % 2 ^ 32 = 0) (hhi : w / 2 ^ 32 = hi) {code addr : Nat}
    (hb : (s.vectorOut sh (s.engine sh) r hi).fault = some (code, addr)) :
    ∃ u, s.sameSlots u ∧ u.mem = s.mem ∧ s.stepWord sh r w = u.engineFault sh code r.pc addr := by
  obtain ⟨⟨hregs, hjob, heng, hlines⟩, hmem⟩ := s.issueAt_frame r 0 hi
  unfold State.stepWord
  dsimp only
  rw [hlo, hhi]
  generalize s.issueAt r 0 hi = p at *
  obtain ⟨c, s9⟩ := p
  dsimp only at *
  have hslots₀ : s.sameSlots (s9.at (r.timeOf (s.shRate sh) (16 + c))) := ⟨hregs, hjob, heng, hlines⟩
  have hmem₀ : (s9.at (r.timeOf (s.shRate sh) (16 + c))).mem = s.mem := hmem
  generalize s9.at (r.timeOf (s.shRate sh) (16 + c)) = s0 at *
  have hsame (d : Dest) : sameScalar ({} : SlotOut).dest d = false := rfl
  have hstore : storeAll s0 ({} : SlotOut).stores = s0 := rfl
  rw [s0.scalarOut_zero, hsame, hstore, State.vectorOut_congr hslots₀.regs hslots₀.job hmem₀, hb]
  dsimp only
  rw [if_neg Bool.false_ne_true]
  exact ⟨s0, hslots₀, hmem₀, rfl⟩

theorem State.issue_eq {w : Nat} (hr : (s.engine sh).run = some r) (hw : s.fetched sh r = w) : s.issue sh w = s.stepWord sh r w := by
  unfold State.issue
  rw [hr]
  exact if_pos hw

/-- A word whose scalar slot faults is recorded with the fault's code and address, and has no other effect. -/
theorem State.issue_scalarFault {lo : Nat} {vec : Word} {code addr : Nat} (hrun : running s sh r (wordOf lo vec.toNat)) (hsh : sh < 192)
    (hlo : lo < 2 ^ 32) (hcode : code < 16)
    (ha : (s.scalarOut sh (s.engine sh) r lo (s.issueAt r lo vec.toNat).1).fault = some (code, addr)) :
    faultedWith s (s.issue sh (wordOf lo vec.toNat)) sh code r.pc ∧
    (s.issue sh (wordOf lo vec.toNat)).get (R.SH_FAULT_ADDR_ADDR sh) = addr % 2 ^ 32 := by
  obtain ⟨hr, hw, hpc⟩ := hrun
  obtain ⟨u, hslots, hmem, hstep⟩ := State.stepWord_scalarFault (wordOf lo vec.toNat) (by rw [State.scalarAt_wordOf hlo]; exact ha)
  have hru : (u.engine sh).run = some r := by rw [State.engine_of_eng hslots.eng, hr]
  obtain ⟨hfault, haddr⟩ := State.engineFault_spec (code := code) (addr := addr) hru hsh hcode (show r.pc < 4096 by omega)
  rw [State.issue_eq hr hw, hstep]
  exact ⟨faultedWith_of_regs hslots.regs hmem hfault, haddr⟩

theorem State.issue_vectorFault {hi code addr : Nat} (hrun : running s sh r (wordOf 0 hi)) (hsh : sh < 192) (hcode : code < 16)
    (hb : (s.vectorOut sh (s.engine sh) r hi).fault = some (code, addr)) : faultedWith s (s.issue sh (wordOf 0 hi)) sh code r.pc := by
  obtain ⟨hr, hw, hpc⟩ := hrun
  obtain ⟨u, hslots, hmem, hstep⟩ := State.stepWord_vectorFault (wordOf_mod hi (by decide)) (wordOf_div 0 hi) hb
  have hru : (u.engine sh).run = some r := by rw [State.engine_of_eng hslots.eng, hr]
  obtain ⟨hfault, -⟩ := State.engineFault_spec (code := code) (addr := addr) hru hsh hcode (show r.pc < 4096 by omega)
  rw [State.issue_eq hr hw, hstep]
  exact faultedWith_of_regs hslots.regs hmem hfault

theorem State.output_nothing (q : Run) : s.output sh q {} {} = (s, q) := rfl

/-- The word behind word 4,095 cannot be fetched (R172). -/
theorem State.issue_pastLast (hr : (s.engine sh).run = some r) (hw : s.fetched sh r = 0) (hpc : r.pc = 4095) (hsh : sh < 192) :
    faultedWith s (s.issue sh 0) sh 3 4095 := by
  have ha : s.scalarAt sh r 0 = {} := s.scalarOut_zero sh _ r _
  have hb : s.vectorAfter sh r 0 = {} := State.vectorOut_zero _ sh _ r
  obtain ⟨u, q, c, hslots, hmem, -, hq, hstep⟩ := s.stepWord_done sh r 0 (by rw [ha]) (by rw [hb]) (by rw [ha]; rfl)
  rw [ha, hb] at hstep
  rw [ha] at hq
  have hlast : 4096 ≤ q.pc := by
    rw [hq]
    exact Nat.le_of_eq (congrArg (· + 1) hpc.symm)
  rw [State.issue_eq hr hw, hstep]
  unfold State.wordDone
  dsimp only
  rw [State.output_nothing, if_neg Bool.false_ne_true, if_pos hlast]
  refine faultedWith_of_regs ((State.setEngine_regs ..).trans hslots.regs) ((State.setEngine_mem ..).trans ?_)
    (State.engineFault_spec (r := q) ?_ hsh (by decide) (by decide)).1
  · rw [hmem, ha, hb]
    rfl
  · rw [State.engine_setEngine_same]

end

/-! ## The words that fault -/

theorem scalarIllegal_reserved {op : Nat} (d a b : BitVec 5) {rsv : BitVec 11} (h : 1 ≤ op) (h' : op ≤ 0x0B) (hrsv : rsv ≠ 0) :
    scalarIllegal (slotSR op d a b rsv) = true := by
  obtain ⟨hOP, -, -, -, hbits⟩ := slotSR_fields op d a b (by omega) rsv
  have hne : decide (rsv.toNat ≠ 0) = true := decide_eq_true (mt toNat_eq_zero_iff.1 hrsv)
  unfold scalarIllegal
  dsimp only
  rw [hOP, hbits]
  generalize slotSR op d a b rsv = w
  interval_cases op <;> exact hne

theorem trayFault_misaligned {write : Bool} {align n a : Nat} (h : a % align ≠ 0) : trayFault write align n a = some (fcALIGN, a) := if_pos h

theorem trayFault_code {a : Nat} (h : a < 0x10000) : trayFault true 1 1 a = some (fcTRAY_WRITE, a) := by
  have hbyte : trayByteFault true (a + 0) = some fcTRAY_WRITE := if_pos h
  unfold trayFault
  rw [if_neg (by omega)]
  simp only [List.range_succ, List.range_zero, List.nil_append, List.findSome?_cons, hbyte, Option.map_some]

theorem accessAt_lt (e : Engine) (a : BitVec 5) (imm : BitVec 16) : accessAt e a imm < 2 ^ 32 := (e.s a.toNat + imm.signExtend 32).isLt

theorem vectorOut_vprf_range (s : State) (sh : Nat) (e : Engine) (r : Run) (d a b : BitVec 5) {k : BitVec 6} (hk : k.toNat / 4 = 3) :
    (s.vectorOut sh e r (slotV 0x2D d a b 0 false false k)).fault = some (fcPROOF_RANGE, 0) := by
  obtain ⟨hOP, -, -, -, -, -, -, hK⟩ := slotV_fields 0x2D d a b 0 false false k (by decide)
  have hlow : bits k.toNat 4 2 = 0 := by unfold bits; omega
  have hwhich : bits k.toNat 2 2 = 3 := by unfold bits; omega
  have hlegal : vectorIllegal (slotV 0x2D d a b 0 false false k) = false := by
    unfold vectorIllegal
    dsimp only
    rw [hOP, hK, hlow]
    rfl
  simp only [State.vectorOut, hlegal, hOP, hK, hwhich, Bool.false_eq_true, if_false, if_true]
  rfl

/-- Settles O36: what the faulting slot puts out, and `State.engineFault_spec`. -/
theorem kernelFaults : Obligations.KernelFaults := by
  intro s sh d a b imm rsv vec r
  have hsh := sh.isLt
  refine ⟨fun hrsv hrun => ?_, fun hpast hrun => ?_, fun halign hrun => ?_, fun hcode hrun => ?_, fun hr hpc hw => ?_, fun k hk hrun => ?_⟩
  · refine ⟨_, rfl, (State.issue_scalarFault (addr := 0) hrun hsh (slotSR_lt _ _ _ _ (by decide) _) (by decide) ?_).1⟩
    unfold State.scalarOut
    rw [scalarIllegal_reserved d a b (by decide) (by decide) hrsv]
    rfl
  · refine ⟨_, rfl, (State.issue_scalarFault (addr := 0) hrun hsh (slotSI_lt _ _ _ (by decide) _) (by decide) ?_).1⟩
    rw [State.scalarOut_jr, if_pos hpast]
    rfl
  · have hfault := State.issue_scalarFault (code := 7) (addr := accessAt (s.engine sh) a imm) hrun hsh (slotSI_lt _ _ _ (by decide) _) (by decide) (by
      rw [(trayLoadOps_out (.ldw, 0x18, 4) List.mem_cons_self).2]
      unfold State.trayLoad
      rw [Engine.addr_slotSI _ d a imm (by decide), trayFault_misaligned halign]
      rfl)
    rw [Nat.mod_eq_of_lt (accessAt_lt ..)] at hfault
    exact ⟨_, rfl, hfault⟩
  · refine ⟨_, rfl, (State.issue_scalarFault (addr := accessAt (s.engine sh) a imm) hrun hsh (slotSI_lt _ _ _ (by decide) _) (by decide) ?_).1⟩
    rw [(trayStoreOps_out (.stb, 0x1D, 1) (List.mem_cons_of_mem _ (List.mem_cons_of_mem _ List.mem_cons_self))).2]
    unfold trayStore
    rw [Engine.addr_slotSI _ d a imm (by decide), trayFault_code hcode]
    rfl
  · have hword : s.undefinedWord sh = none := by
      unfold State.undefinedWord
      rw [hr]
      dsimp only
      rw [hw]
      rfl
    have hzero : slotSI 0x00 0 0 0 = 0 := by decide
    have hzero' : wordOf 0 (0 : Word).toNat = 0 := by decide
    have hexec : exec (.snop sh 0 0 0 0) s = .next (s.issue sh ((s.undefinedWord sh).getD (wordOf (slotSI 0x00 0 0 0) (0 : Word).toNat))) := rfl
    rw [hword, hzero, Option.getD_none, hzero'] at hexec
    exact ⟨_, hexec, State.issue_pastLast hr hw hpc hsh⟩
  · exact ⟨_, rfl, State.issue_vectorFault hrun hsh (by decide) (vectorOut_vprf_range s sh _ r d a b hk)⟩

end Sys2Proof.Machine
end

/-! PROOFS. Kernel services (R139, R163, R167–R170; O29): GETS, EMIT, END. -/
section
namespace Sys2Proof.Machine

/-! ## GETS -/

theorem State.scalarOut_gets (s : State) (sh : Nat) (e : Engine) (r : Run) (d : BitVec 5) (imm : BitVec 16) (c : Nat) :
    s.scalarOut sh e r (slotSI 0x26 d 0 imm) c = outS d.toNat (getsValue r imm.toNat c) 1 := by
  obtain ⟨hOP, hD, hA, hIMM⟩ := slotSI_fields 0x26 d 0 (by decide) imm
  have hlegal : scalarIllegal (slotSI 0x26 d 0 imm) = false := by
    unfold scalarIllegal
    dsimp only
    rw [hOP, hA]
    rfl
  simp only [State.scalarOut, hOP, hlegal, hD, hIMM, Bool.false_eq_true, if_false]

theorem getsValue_other (r : Run) {sel : Nat} (c : Nat) (h : 4 ≤ sel) : getsValue r sel c = 0 := by
  unfold getsValue
  rw [if_neg (by omega), if_neg (by omega), if_neg (by omega), if_neg (by omega)]

theorem toNat_min_eight_le (d : BitVec 5) (n : Nat) : (if d = 0 then (0 : Word) else BitVec.ofNat 32 (min 8 n)).toNat ≤ 8 := by
  split
  · decide
  · rw [BitVec.toNat_ofNat]
    omega

/-! ## A word whose output is an EMIT -/

section
variable {s : State} {sh : Nat} {r : Run}

/-- A word that puts out one emit block, beside VNOP: what `State.doEmit` makes of the run, and nothing of memory or of other registers. -/
theorem State.issue_emit {lo : Nat} {blk : List Nat} (hrun : running s sh r (wordOf lo 0)) (hlo : lo < 2 ^ 32)
    (ha : ∀ c, s.scalarOut sh (s.engine sh) r lo c = { emit := some blk }) :
    ∃ u q, s.sameSlots u ∧ q.sameWork r ∧ q.pc = r.pc + 1 ∧
      (s.issue sh (wordOf lo 0)).engine sh = { s.engine sh with run := some (u.doEmit sh q blk).2 } ∧
      (∀ a, (s.issue sh (wordOf lo 0)).byte a = s.byte a) ∧
      (u.doEmit sh q blk).1.regsSame (s.issue sh (wordOf lo 0)) [(R.SH_STAT_STATE sh).reg] := by
  obtain ⟨hr, hw, hpc⟩ := hrun
  have ha' : s.scalarAt sh r (wordOf lo 0) = { emit := some blk } := by
    unfold State.scalarAt
    rw [wordOf_mod _ hlo]
    exact ha _
  have hb : s.vectorAfter sh r (wordOf lo 0) = {} := by
    unfold State.vectorAfter
    rw [wordOf_div]
    exact State.vectorOut_zero ..
  obtain ⟨u, q, c, hslots, hmem, hwork, hq, hstep⟩ := s.stepWord_done sh r (wordOf lo 0) (by rw [ha']) (by rw [hb]) (by rw [ha', hb]; rfl)
  rw [ha', hb] at hstep hmem
  rw [ha'] at hq
  obtain ⟨heng', hmem', hpc'⟩ := u.doEmit_frame sh q blk
  have hout : u.output sh q { emit := some blk } {} = u.doEmit sh q blk := rfl
  have hlt : ¬ 4096 ≤ (u.doEmit sh q blk).2.pc := by
    rw [hpc', hq, Option.getD_none]
    omega
  have hissue : s.issue sh (wordOf lo 0) =
      (((u.doEmit sh q blk).1.setEngine sh { s.engine sh with run := some (u.doEmit sh q blk).2 }).shShow sh) := by
    rw [State.issue_eq hr hw, hstep]
    unfold State.wordDone
    dsimp only
    rw [hout, if_neg Bool.false_ne_true, if_neg hlt]
    rfl
  obtain ⟨hshow, -, hbyte, heng, -⟩ :=
    ((u.doEmit sh q blk).1.setEngine sh { s.engine sh with run := some (u.doEmit sh q blk).2 }).shShow_only sh
  rw [hissue]
  refine ⟨u, q, hslots, hwork, hq, ?_, fun a => ?_, fun a h => ?_⟩
  · rw [State.engine_of_eng heng, State.engine_setEngine_same]
  · rw [hbyte, State.byte_of_mem (State.setEngine_mem ..), State.byte_of_mem hmem', State.byte_of_mem hmem]
    rfl
  · rw [hshow a h, State.reg, State.setEngine_regs, State.reg]

end

/-- EMIT with a readable block puts out the block. -/
theorem State.scalarOut_emit {s : State} {sh : Nat} {e : Engine} {r : Run} {a : BitVec 5} {imm : BitVec 16} (c : Nat)
    (h : trayFault false 64 64 (accessAt e a imm) = none) :
    s.scalarOut sh e r (slotSI 0x27 0 a imm) c = { emit := some (s.bytes (trayBase sh + accessAt e a imm) 64) } := by
  obtain ⟨hOP, hD, -, -⟩ := slotSI_fields 0x27 0 a (by decide) imm
  have hlegal : scalarIllegal (slotSI 0x27 0 a imm) = false := by
    unfold scalarIllegal
    dsimp only
    rw [hOP, hD]
    rfl
  simp only [State.scalarOut, hOP, hlegal, e.addr_slotSI (op := 0x27) 0 a imm (by decide), h, Bool.false_eq_true, if_false]

/-! ## What an EMIT does (R167) -/

section
variable {s : State} {sh : Nat} {r : Run} (blk : List Nat)

theorem State.claim_done (h : r.claimed = true ∨ r.claimFail = true) : s.claim sh r = (s, r) := by
  unfold State.claim
  exact if_pos (by simpa using h)

theorem State.claim_free (h : r.claimed = false) (h' : r.claimFail = false) (hfree : (s.engine sh).out.length < 4) :
    s.claim sh r = (s, { r with claimed := true, out := { r.out with dev := s.devDefault sh r.line } }) := by
  unfold State.claim
  rw [h, h', if_neg (by decide), if_neg (Nat.not_le.2 hfree)]

theorem State.claim_full (h : r.claimed = false) (h' : r.claimFail = false) (hfull : 4 ≤ (s.engine sh).out.length) :
    s.claim sh r = (((s.bump (R.SH_OFULL_CNT_COUNT sh)).raise (E.SH_OUTPUT_FULL sh)).addReport r.line.tickno rcOUTPUT_FULL (2 ^ sh),
      { r with claimFail := true }) := by
  unfold State.claim
  rw [h, h', if_neg (by decide), if_pos hfull]

theorem State.doEmit_init (h : r.init = true) : s.doEmit sh r blk = (s, r) := by
  unfold State.doEmit
  exact if_pos h

theorem State.doEmit_failed (h : r.init = false) (hf : (s.claim sh r).2.claimFail = true) : s.doEmit sh r blk = s.claim sh r := by
  unfold State.doEmit
  rw [h, if_neg Bool.false_ne_true]
  exact if_pos hf

theorem State.doEmit_taken (h : r.init = false) (hf : (s.claim sh r).2.claimFail = false) (hl : (s.claim sh r).2.out.emits.length < 32) :
    (s.doEmit sh r blk).2.out.emits = (s.claim sh r).2.out.emits ++ [blk] ∧ (s.doEmit sh r blk).2.claimed = (s.claim sh r).2.claimed := by
  unfold State.doEmit
  dsimp only
  rw [h, if_neg Bool.false_ne_true, hf, if_neg Bool.false_ne_true, if_pos hl]
  exact ⟨rfl, rfl⟩

theorem State.doEmit_dropped (h : r.init = false) (hc : r.claimed = true) (hf : r.claimFail = false) (hl : 32 ≤ r.out.emits.length) :
    s.doEmit sh r blk = (if r.recDropped then s.bump (R.SH_RDROP_CNT_COUNT sh) else (s.bump (R.SH_RDROP_CNT_COUNT sh)).raise (E.SH_REC_DROP sh),
      { r with recDropped := true, out := { r.out with trunc := true } }) := by
  unfold State.doEmit
  dsimp only
  rw [State.claim_done (.inl hc), h, if_neg Bool.false_ne_true, hf, if_neg Bool.false_ne_true, if_neg (Nat.not_lt.2 hl)]

/-- A failed claim is counted and told. -/
theorem State.claim_full_told (h : r.claimed = false) (h' : r.claimFail = false) (hfull : 4 ≤ (s.engine sh).out.length) :
    told s (s.claim sh r).1 (E.SH_OUTPUT_FULL sh) ∧
    (s.claim sh r).1.get (R.SH_OFULL_CNT_COUNT sh) = min (2 ^ 32 - 1) (s.get (R.SH_OFULL_CNT_COUNT sh) + 1) := by
  have hbump : s.regsSame (s.bump (R.SH_OFULL_CNT_COUNT sh)) [(R.SH_OFULL_CNT_COUNT sh).reg] := State.regsSame_put _ (List.mem_singleton_self _)
  rw [State.claim_full h h' hfull]
  constructor
  · refine told_of_regsSame (told_raise_of_regsSame s (show 2 < 32 by decide) hbump ?_) (.of_regs (State.addReport_regs ..) (L := []))
      fun _ _ => List.not_mem_nil
    simp only [toldRegs, E.SH_OUTPUT_FULL, intRawBit, evtCnt, R.SH_OFULL_CNT_COUNT, List.mem_cons, List.not_mem_nil, or_false]
    omega
  · rw [State.get_of_regs (State.addReport_regs ..), State.get_raise_other, State.bump, State.get_bumpBy]
    · rfl
    · simp only [R.SH_OFULL_CNT_COUNT]
      omega
    · simp only [toldRegs, E.SH_OUTPUT_FULL, intRawBit, evtCnt, R.SH_OFULL_CNT_COUNT, List.mem_cons, List.not_mem_nil, or_false]
      omega

end

/-- SH_STAT stands apart from a Shingle's counters and events. -/
theorem notMem_stat {sh a : Nat} (h : a ≠ 0x200044 + 0x1000 * sh) : a ∉ [(R.SH_STAT_STATE sh).reg] := by
  simpa only [R.SH_STAT_STATE, List.mem_singleton] using h

/-! ## END (R168) -/

/-- An engine but for its proof entries and its tokens. -/
def Engine.alike (a b : Engine) : Prop := { b with proof := [], leaving := [] } = { a with proof := [], leaving := [] }

section
variable {a b c : Engine}

theorem Engine.alike.refl : a.alike a := rfl
theorem Engine.alike.trans (h : a.alike b) (h' : b.alike c) : a.alike c := Eq.trans h' h

theorem Engine.alike.run (h : a.alike b) : b.run = a.run := (congrArg Engine.run h : Engine.run { b with proof := [], leaving := [] } = _)
theorem Engine.alike.out (h : a.alike b) : b.out = a.out := (congrArg Engine.out h : Engine.out { b with proof := [], leaving := [] } = _)
theorem Engine.alike.lastTick (h : a.alike b) : b.lastTick = a.lastTick :=
  (congrArg Engine.lastTick h : Engine.lastTick { b with proof := [], leaving := [] } = _)
theorem Engine.alike.s (h : a.alike b) (i : Nat) : b.s i = a.s i :=
  (congrArg (Engine.s · i) h : Engine.s { b with proof := [], leaving := [] } i = _)
theorem Engine.alike.lanes (h : a.alike b) : lanesKept a b :=
  ⟨fun i => (congrArg (Engine.v · i) h : Engine.v { b with proof := [], leaving := [] } i = _),
    fun i => (congrArg (Engine.acc · i) h : Engine.acc { b with proof := [], leaving := [] } i = _),
    fun i => (congrArg (Engine.p · i) h : Engine.p { b with proof := [], leaving := [] } i = _)⟩
theorem Engine.alike.of_eq (h : b = a) : a.alike b := h ▸ .refl

end

section
variable (s : State)

/-- A line delivered, as an output or as a token, and the tokens behind it. -/
def State.lineGone (sh n : Nat) (token : Bool) : State := (((s.leave sh n token).leaveRest sh).proofPrune sh).shShow sh

theorem State.lineGone_frame (sh n : Nat) (token : Bool) :
    s.regsSame (s.lineGone sh n token) ((R.SH_STAT_STATE sh).reg :: leaveRegs sh) ∧ (∀ a, (s.lineGone sh n token).byte a = s.byte a) ∧
    (s.engine sh).alike ((s.lineGone sh n token).engine sh) := by
  obtain ⟨hleft, -, hbyte₁, heng₁, -⟩ := s.leave_only sh n token
  obtain ⟨hleave, hbyte₂, heng₂, -⟩ := (s.leave sh n token).leaveRest_frame sh
  obtain ⟨hshow, -, hbyte₃, heng₃, -⟩ := (((s.leave sh n token).leaveRest sh).proofPrune sh).shShow_only sh
  have hprune : ((s.leave sh n token).leaveRest sh).regsSame (((s.leave sh n token).leaveRest sh).proofPrune sh) (leaveRegs sh) :=
    .of_regs (State.proofPrune_regs _ sh)
  refine ⟨?_, fun a => ?_, ?_⟩
  · exact ((hleft.trans (hleave.trans hprune)).mono (List.subset_cons_self _ _)).trans
      (hshow.mono fun a ha => by rw [List.mem_singleton.1 ha]; exact List.mem_cons_self)
  · exact (hbyte₃ a).trans ((State.byte_of_mem (State.proofPrune_mem _ sh) a).trans ((hbyte₂ a).trans (hbyte₁ a)))
  · rw [State.lineGone, State.engine_of_eng heng₃]
    have hprune' : (((s.leave sh n token).leaveRest sh).engine sh).alike ((((s.leave sh n token).leaveRest sh).proofPrune sh).engine sh) := by
      unfold State.proofPrune
      dsimp only
      rw [State.engine_setEngine_same]
      rfl
    refine Engine.alike.trans ?_ hprune'
    rw [State.engine_of_eng heng₂, State.engine_setEngine_same, State.engine_of_eng heng₁]
    rfl

/-! ### Registration and monitors at the end of a line -/

/-- The registers of a Shingle's registration. -/
def registerRegs (sh : Nat) : List Nat := (R.JOB_REGs_CONF sh).reg :: toldRegs E.JOB_QUAL_LOST

theorem State.regShow_only (sh : Nat) (on : Bool) : only s (s.regShow sh on) (registerRegs sh) := by
  unfold State.regShow
  dsimp only
  refine only_trans (only_trans (only_trans (only_put _ ?_) (only_put _ ?_)) (only_put _ ?_)) (only_put _ ?_)
  all_goals exact List.mem_cons_self

theorem State.regSync_only (x sh : Nat) : only s (s.regSync x sh) (registerRegs sh) := by
  unfold State.regSync
  exact only_ite (only_setReg _ List.mem_cons_self) (only_ite (State.regShow_only ..) (only_setReg _ List.mem_cons_self))

theorem State.registered_only (sh : Nat) (r : Registration) {L : List Nat} : only s (s.setReg_ sh r) L := only_upd only_refl

theorem State.proofDiscard_frame (sh : Nat) : (s.proofDiscard sh).regs = s.regs ∧ (s.proofDiscard sh).mem = s.mem ∧
    (s.proofDiscard sh).engine sh = { s.engine sh with proof := [] } :=
  ⟨rfl, rfl, State.engine_setEngine_same ..⟩

theorem State.register_frame (sh : Nat) (l : Line) (o : Option (List Nat)) : s.regsSame (s.register sh l o) (registerRegs sh) ∧
    (∀ a, (s.register sh l o).byte a = s.byte a) ∧ (s.engine sh).alike ((s.register sh l o).engine sh) := by
  unfold State.register
  dsimp only
  split
  · exact ⟨.refl, fun _ => rfl, .refl⟩
  · generalize regStep _ _ _ _ _ = r2
    generalize (_ || regLost _ r2) = lost
    have h0 : ∀ u : State, u = (if 1 < (r2.along - (regFor (s.regOf sh) l (keptFrom l.keepAct l.keepCut sh)).along).natAbs then s.proofDiscard sh else s) →
        u.regs = s.regs ∧ u.mem = s.mem ∧ (s.engine sh).alike (u.engine sh) := by
      rintro u rfl
      obtain ⟨hregs, hmem, heng⟩ := s.proofDiscard_frame sh
      split
      · exact ⟨hregs, hmem, by rw [heng]; rfl⟩
      · exact ⟨rfl, rfl, .refl⟩
    obtain ⟨hregs, hmem, hlike⟩ := h0 _ rfl
    generalize (if 1 < (r2.along - _).natAbs then s.proofDiscard sh else s) = u at *
    have hend (v : State) (hv : only u v (registerRegs sh)) : s.regsSame (if lost then v.raise E.JOB_QUAL_LOST else v) (registerRegs sh) ∧
        (∀ a, (if lost then v.raise E.JOB_QUAL_LOST else v).byte a = s.byte a) ∧
        (s.engine sh).alike ((if lost then v.raise E.JOB_QUAL_LOST else v).engine sh) := by
      obtain ⟨hreg, -, hbyte, heng, -⟩ : only u (if lost then v.raise E.JOB_QUAL_LOST else v) (registerRegs sh) :=
        only_trans hv (only_ite (only_raise (List.subset_cons_self _ _)) only_refl)
      exact ⟨(State.regsSame.of_regs hregs).trans hreg, fun a => (hbyte a).trans (State.byte_of_mem hmem a),
        hlike.trans (.of_eq (State.engine_of_eng heng sh))⟩
    cases s.job.active with
    | none => exact hend _ (only_trans (u.registered_only sh r2) (State.regShow_only ..))
    | some a => exact hend _ (only_trans (u.registered_only sh r2) (State.regSync_only ..))

/-- The registers of a monitor: its minimum, its maximum, its bins. -/
def Mon.regs (m : Mon) : List Nat := m.min.reg :: m.max.reg :: (List.range 16).map fun i => (m.bin i).reg

theorem binOf_lt (w : Nat) (v : Int) : binOf w v < 16 := by
  unfold binOf
  split <;> omega

theorem State.monEnter_only (m : Mon) (w : Nat) (v : Int) : only s (s.monEnter m w v) m.regs := by
  unfold State.monEnter
  dsimp only
  refine only_trans (only_trans (only_ite (only_put _ List.mem_cons_self) only_refl)
    (only_ite (only_put _ (List.mem_cons_of_mem _ List.mem_cons_self)) only_refl)) (only_bump ?_)
  exact List.mem_cons_of_mem _ (List.mem_cons_of_mem _ (List.mem_map.2 ⟨_, List.mem_range.2 (binOf_lt w v), rfl⟩))

/-- The registers of a Shingle's monitors. -/
def shMonRegs (sh : Nat) : List Nat := (R.SH_CYC_LAST_CYC sh).reg :: (shMon sh 0).regs ++ (shMon sh 1).regs

theorem State.shMonitors_only (sh cycles : Nat) (slack : Int) : only s (s.shMonitors sh cycles slack) (shMonRegs sh) := by
  unfold State.shMonitors
  dsimp only
  have hput : only s (s.put (R.SH_CYC_LAST_CYC sh) cycles) (shMonRegs sh) := only_put _ List.mem_cons_self
  refine only_ite hput (only_trans (only_trans hput (only_mono (State.monEnter_only ..) ?_)) (only_mono (State.monEnter_only ..) ?_))
  · exact fun a ha => List.mem_cons_of_mem _ (List.mem_append_left _ ha)
  · exact fun a ha => List.mem_cons_of_mem _ (List.mem_append_right _ ha)

end
end Sys2Proof.Machine
end

/-! PROOFS. The end of an invocation and of an INIT run (R168), and the kernel services as stated (O29). -/
section
namespace Sys2Proof.Machine

section
variable (s : State)

/-- The registers that the end of a line may change behind its claim. -/
def endRegs (sh : Nat) : List Nat := registerRegs sh ++ shMonRegs sh ++ (R.SH_STAT_STATE sh).reg :: leaveRegs sh

/-- The engine behind its line's END: the line is its last, and its output waits, or none where the claim failed. -/
def Engine.ended (e : Engine) (n : Nat) (failed : Bool) (o : OutEntry) : Engine :=
  { e with run := none, lastTick := some n, out := if failed then e.out else e.out ++ [o] }

theorem Engine.ended_alike {a b : Engine} (h : a.alike b) (n : Nat) (failed : Bool) (o : OutEntry) : (a.ended n failed o).alike (b.ended n failed o) := by
  have hout := h.out
  unfold Engine.alike at h ⊢
  unfold Engine.ended
  rw [hout]
  exact congrArg (fun e : Engine => { e with run := none, lastTick := some n, out := if failed then a.out else a.out ++ [o] }) h

/-- The line's END behind the registration and the monitors. -/
def State.endDone (sh n : Nat) (failed : Bool) (o : OutEntry) : State := (s.setEngine sh ((s.engine sh).ended n failed o)).lineGone sh n failed

theorem State.endDone_frame (sh n : Nat) (failed : Bool) (o : OutEntry) :
    s.regsSame (s.endDone sh n failed o) ((R.SH_STAT_STATE sh).reg :: leaveRegs sh) ∧ (∀ a, (s.endDone sh n failed o).byte a = s.byte a) ∧
    ((s.engine sh).ended n failed o).alike ((s.endDone sh n failed o).engine sh) := by
  obtain ⟨hregs, hbyte, hlike⟩ := (s.setEngine sh ((s.engine sh).ended n failed o)).lineGone_frame sh n failed
  rw [State.engine_setEngine_same] at hlike
  exact ⟨(State.regsSame.of_regs (State.setEngine_regs ..)).trans hregs,
    fun a => (hbyte a).trans (State.byte_of_mem (State.setEngine_mem ..) a), hlike⟩

/-- END of a line's own invocation: claim, registration, monitors, then the output entry. -/
theorem State.endLine_eq {sh : Nat} {r0 : Run} {l : Line} (c t : Nat) (hline : s.lineOf r0.line.tickno = some l) :
    ∃ (s4 : State) (o : OutEntry), only ((s.claim sh r0).1.register sh l (s.claim sh r0).2.report) s4 (shMonRegs sh) ∧
      o.tickno = r0.line.tickno ∧ o.emits = (s.claim sh r0).2.out.emits ∧
      s.endLine sh r0 c t = s4.endDone sh r0.line.tickno (s.claim sh r0).2.claimFail o := by
  unfold State.endLine State.endDone State.lineGone Engine.ended
  dsimp only
  rw [hline]
  dsimp only
  generalize s.claim sh r0 = p
  obtain ⟨s1, r⟩ := p
  dsimp only
  generalize s1.register sh l r.report = s2
  refine ⟨_, _, only_trans ?_ (State.shMonitors_only _ sh _ _), ?_, ?_, rfl⟩
  · exact only_ite (State.setLine_only ..) only_refl
  · rfl
  · rfl

theorem State.endLine_spec {sh : Nat} {r0 : Run} {l : Line} (c t : Nat) (hline : s.lineOf r0.line.tickno = some l) :
    ∃ o : OutEntry, o.tickno = r0.line.tickno ∧ o.emits = (s.claim sh r0).2.out.emits ∧
      ((s.engine sh).ended r0.line.tickno (s.claim sh r0).2.claimFail o).alike ((s.endLine sh r0 c t).engine sh) ∧
      (∀ a, (s.endLine sh r0 c t).byte a = s.byte a) ∧ (s.claim sh r0).1.regsSame (s.endLine sh r0 c t) (endRegs sh) := by
  obtain ⟨heng₁, hmem₁, -⟩ := s.claim_frame sh r0
  obtain ⟨s4, o, ⟨hreg₄, -, hbyte₄, heng₄, -⟩, htick, hemits, heq⟩ := State.endLine_eq s (sh := sh) c t hline
  obtain ⟨hreg₂, hbyte₂, hlike₂⟩ := (s.claim sh r0).1.register_frame sh l (s.claim sh r0).2.report
  obtain ⟨hreg₅, hbyte₅, hlike₅⟩ := s4.endDone_frame sh r0.line.tickno (s.claim sh r0).2.claimFail o
  refine ⟨o, htick, hemits, ?_, fun a => ?_, ?_⟩
  · rw [heq]
    refine (Engine.ended_alike ?_ _ _ _).trans hlike₅
    rw [State.engine_of_eng heng₄, ← State.engine_of_eng heng₁]
    exact hlike₂
  · rw [heq, hbyte₅, hbyte₄, hbyte₂, State.byte_of_mem hmem₁]
  · rw [heq]
    refine (hreg₂.mono ?_).trans ((hreg₄.mono ?_).trans (hreg₅.mono ?_))
    · exact fun a ha => List.mem_append_left _ (List.mem_append_left _ ha)
    · exact fun a ha => List.mem_append_left _ (List.mem_append_right _ ha)
    · exact fun a ha => List.mem_append_right _ ha

/-! ## INIT's END enters the line -/

theorem State.lineDesc_length (sh : Nat) (l : Line) (i : Intake) (w : List ProofEntry) (init : Bool) (budget : Int) (gap : Nat) :
    (s.lineDesc sh l i w init budget gap).length = 64 := by
  simp only [State.lineDesc, List.length_append, leBytes_length]

theorem State.setBytes_mem (a : Nat) (bs : List Nat) : (s.setBytes a bs).mem = (s.putBytes a bs).mem := rfl

theorem State.putBytes_frame (a : Nat) (bs : List Nat) : (s.putBytes a bs).regs = s.regs ∧ (s.putBytes a bs).eng = s.eng := by
  induction bs generalizing s a with
  | nil => exact ⟨rfl, rfl⟩
  | cons b bs ih => exact ih (s.setByte a (BitVec.ofNat 8 b)) (a + 1)

theorem State.setBytes_frame (a : Nat) (bs : List Nat) : (s.setBytes a bs).regs = s.regs ∧ (s.setBytes a bs).eng = s.eng := s.putBytes_frame a bs

/-- An entry: the run it begins, the engine it leaves, and the 64 bytes of the descriptor. -/
theorem State.enterWith_spec (gap sh : Nat) (i : Intake) (l : Line) (w : List ProofEntry) (init : Bool) (t wdog base : Nat) :
    (∃ q, ((s.enterWith gap sh i l w init t wdog base).engine sh).run = some q ∧ q.init = init ∧ q.line = i ∧
      q.pc = s.get (if init then R.ENGG_x_INIT_WORD l.bank else R.ENGG_x_ENTRY_WORD l.bank)) ∧
    ((s.enterWith gap sh i l w init t wdog base).engine sh).initAct = (s.engine sh).initAct ∧
    s.memSame (s.enterWith gap sh i l w init t wdog base) (trayBase sh + trayLineDesc) 64 := by
  unfold State.enterWith
  dsimp only
  have hlen := s.lineDesc_length sh l i w init (s.budgetAt sh l t) gap
  generalize s.lineDesc sh l i w init (s.budgetAt sh l t) gap = desc at *
  obtain ⟨hregs, heng⟩ := s.setBytes_frame (trayBase sh + trayLineDesc) desc
  have hmem := s.setBytes_mem (trayBase sh + trayLineDesc) desc
  generalize s.setBytes (trayBase sh + trayLineDesc) desc = s2 at *
  have hengine (e : Engine) : ((((s2.setEngine sh e).put (R.SH_STAT_BANK sh) l.bank).shShow sh).engine sh) = e := by
    rw [State.engine_of_eng (State.shShow_eng _ sh), State.engine_of_eng (State.put_eng _ _ _), State.engine_setEngine_same]
  rw [hengine]
  refine ⟨⟨_, rfl, rfl, rfl, State.get_of_regs hregs⟩, ?_, fun b hb => ?_⟩
  · rw [State.engine_of_eng heng]
  · rw [State.byte_of_mem (State.shShow_mem _ sh), State.byte_of_mem (State.put_mem _ _ _), State.byte_of_mem (State.setEngine_mem ..)]
    rw [← hlen] at hb
    exact (State.byte_of_mem hmem b).trans (s.byte_putBytes_other _ _ hb)

end

/-- A word that is END alone ends the invocation in the state it finds, its time and the count of free values aside. -/
theorem State.issue_end {s : State} {sh : Nat} {r : Run} (hrun : running s sh r (wordOf 0x28 0)) :
    ∃ u q c, s.sameSlots u ∧ u.mem = s.mem ∧ q.sameWork r ∧
      s.issue sh (wordOf 0x28 0) = (u.setEngine sh { s.engine sh with run := some q }).endRun sh c := by
  obtain ⟨hr, hw, hpc⟩ := hrun
  have ha : s.scalarAt sh r (wordOf 0x28 0) = { ends := true } := rfl
  have hb : s.vectorAfter sh r (wordOf 0x28 0) = {} := rfl
  obtain ⟨u, q, c, hslots, hmem, hwork, hq, hstep⟩ := s.stepWord_done sh r (wordOf 0x28 0) (by rw [ha]) (by rw [hb]) (by rw [ha, hb]; rfl)
  rw [ha, hb] at hstep hmem
  have hout : u.output sh q { ends := true } {} = (u, q) := rfl
  refine ⟨u, q, c, hslots, hmem, hwork, ?_⟩
  rw [State.issue_eq hr hw, hstep]
  unfold State.wordDone
  dsimp only
  rw [hout, if_pos rfl]
  rfl

theorem State.endRun_line {s : State} {sh : Nat} {q : Run} (c : Nat) (hq : (s.engine sh).run = some q) (hinit : q.init = false) :
    ∃ t, s.endRun sh c = (s.at t).endLine sh q c t := by
  unfold State.endRun
  dsimp only
  rw [hq]
  dsimp only
  rw [hinit]
  exact ⟨_, if_pos rfl⟩

theorem State.endRun_init {s : State} {sh : Nat} {q : Run} {l : Line} (c : Nat) (hq : (s.engine sh).run = some q) (hinit : q.init = true)
    (hline : s.lineOf q.line.tickno = some l) : ∃ t base, s.endRun sh c =
      ((s.at t).setEngine sh { s.engine sh with run := none, initAct := some l.act }).enterWith q.gap sh q.line l q.window false t q.wdog base := by
  have hline' (t : Nat) : (s.at t).lineOf q.line.tickno = some l := hline
  unfold State.endRun
  dsimp only
  rw [hq]
  dsimp only
  rw [hinit, if_neg (by decide), hline']
  exact ⟨_, _, rfl⟩

section
variable {s : State} {sh : Nat} {r : Run}

theorem State.lineOf_of_lines {t : State} (h : t.lines = s.lines) (n : Nat) : t.lineOf n = s.lineOf n := by
  rw [State.lineOf, h, State.lineOf]

/-- END of the line's own invocation, seen from the state before the word. -/
theorem State.issue_endLine {l : Line} (hrun : running s sh r (wordOf 0x28 0)) (hline : s.lineOf r.line.tickno = some l)
    (hinit : r.init = false) : ∃ (u : State) (q : Run) (o : OutEntry), u.regs = s.regs ∧ q.sameWork r ∧ (u.engine sh).out = (s.engine sh).out ∧
      o.tickno = r.line.tickno ∧ o.emits = (u.claim sh q).2.out.emits ∧
      ((s.engine sh).ended r.line.tickno (u.claim sh q).2.claimFail o).alike ((s.issue sh (wordOf 0x28 0)).engine sh) ∧
      (∀ a, (s.issue sh (wordOf 0x28 0)).byte a = s.byte a) ∧
      (u.claim sh q).1.regsSame (s.issue sh (wordOf 0x28 0)) (endRegs sh) := by
  obtain ⟨u, q, c, hslots, hmem, hwork, heq⟩ := State.issue_end hrun
  have hq : ((u.setEngine sh { s.engine sh with run := some q }).engine sh).run = some q := by rw [State.engine_setEngine_same]
  obtain ⟨t, hend⟩ := State.endRun_line c hq (hwork.init.trans hinit)
  have hengine : ((u.setEngine sh { s.engine sh with run := some q }).at t).engine sh = { s.engine sh with run := some q } :=
    State.engine_setEngine_same ..
  have hlines : ((u.setEngine sh { s.engine sh with run := some q }).at t).lineOf q.line.tickno = some l :=
    (State.lineOf_of_lines (s := s) hslots.lines _).trans (by rw [hwork.line, hline])
  have hregs : ((u.setEngine sh { s.engine sh with run := some q }).at t).regs = s.regs := hslots.regs
  have hmem' : ((u.setEngine sh { s.engine sh with run := some q }).at t).mem = s.mem := hmem
  rw [heq, hend]
  generalize ((u.setEngine sh { s.engine sh with run := some q }).at t) = v at *
  obtain ⟨o, htick, hemits, hlike, hbyte, hreg⟩ := v.endLine_spec c t hlines
  rw [hengine, hwork.line] at hlike
  exact ⟨v, q, o, hregs, hwork, by rw [hengine], htick.trans (congrArg Intake.tickno hwork.line), hemits, hlike,
    fun a => (hbyte a).trans (State.byte_of_mem hmem' a), hreg⟩

end

theorem shMon_regs_ge {a sh m : Nat} (h : a ∈ (shMon sh m).regs) : 0x200090 + 0x1000 * sh ≤ a := by
  simp only [Mon.regs, shMon, R.SH_MONm_MIN_VAL, R.SH_MONm_MAX_VAL, Mon.bin, R.SH_MONm_BINi_COUNT, List.mem_cons, List.mem_map] at h
  obtain rfl | rfl | ⟨i, -, rfl⟩ := h <;> omega

theorem ofull_notMem_endRegs {sh : Nat} (hsh : sh < 192) : (R.SH_OFULL_CNT_COUNT sh).reg ∉ endRegs sh := by
  intro h
  have hstat : (R.SH_OFULL_CNT_COUNT sh).reg ∉ (R.SH_STAT_STATE sh).reg :: leaveRegs sh := by
    simp only [leaveRegs, settleRegs, R.SH_DONE_LO_TICKNO, R.SH_DONE_HI_TICKNO, R.RING_WM_LO_TICKNO, R.RING_WM_HI_TICKNO,
      R.JOB_STAT_OLD_BUSY, R.SH_STAT_STATE, R.SH_OFULL_CNT_COUNT, List.mem_cons, List.not_mem_nil, or_false]
    omega
  have hregister : (R.SH_OFULL_CNT_COUNT sh).reg ∉ registerRegs sh := by
    simp only [registerRegs, toldRegs, E.JOB_QUAL_LOST, intRawBit, evtCnt, R.JOB_REGs_CONF, R.SH_OFULL_CNT_COUNT, List.mem_cons, List.not_mem_nil, or_false]
    omega
  have hmon (m : Nat) : (R.SH_OFULL_CNT_COUNT sh).reg ∉ (shMon sh m).regs := fun h => by
    have := shMon_regs_ge h
    simp only [R.SH_OFULL_CNT_COUNT] at this
    omega
  have hcyc : (R.SH_OFULL_CNT_COUNT sh).reg ≠ (R.SH_CYC_LAST_CYC sh).reg := by
    simp only [R.SH_OFULL_CNT_COUNT, R.SH_CYC_LAST_CYC]
    omega
  rcases List.mem_append.1 h with h | h
  · rcases List.mem_append.1 h with h | h
    · exact hregister h
    · rcases List.mem_append.1 h with h | h
      · rcases List.mem_cons.1 h with h | h
        · exact hcyc h
        · exact hmon 0 h
      · exact hmon 1 h
  · exact hstat h

/-- A claim that has been made, or that finds an entry free. -/
theorem State.claim_made {s : State} {sh : Nat} {q : Run} (hfail : q.claimFail = false) (h : q.claimed = true ∨ (s.engine sh).out.length < 4) :
    (s.claim sh q).2.out.emits = q.out.emits ∧ (s.claim sh q).2.claimed = true ∧ (s.claim sh q).2.claimFail = false ∧
    (s.claim sh q).2.init = q.init := by
  cases hc : q.claimed with
  | true =>
    rw [State.claim_done (.inl hc)]
    exact ⟨rfl, hc, hfail, rfl⟩
  | false =>
    rw [State.claim_free hc hfail (h.resolve_left (by rw [hc]; decide))]
    exact ⟨rfl, rfl, hfail, rfl⟩

theorem lanesKept_of_run {e e' : Engine} {q : Option Run} (h : e' = { e with run := q }) : (∀ i, e'.s i = e.s i) ∧ lanesKept e e' := by
  subst h
  exact ⟨fun _ => rfl, lanesKept_run e q⟩

theorem exec_emit (s : State) (sh : Fin 192) (a : BitVec 5) (imm : BitVec 16) :
    exec (.emit sh 0 a imm 0) s = .next (s.issue sh (wordOf (slotSI 0x27 0 a imm) 0)) := rfl

theorem exec_endRun (s : State) (sh : Fin 192) : exec (.endRun sh 0 0 0 0) s = .next (s.issue sh (wordOf 0x28 0)) := by
  have hword : slotSI 0x28 0 0 0 = 0x28 := by decide
  have hexec : exec (.endRun sh 0 0 0 0) s = .next (s.issue sh (wordOf (slotSI 0x28 0 0 0) 0)) := rfl
  rw [hexec, hword]

/-- Settles O29: the outcomes of `State.doEmit`, of `State.endLine` and of the entry behind INIT, each at the word that leads to it. -/
theorem kernelServices : Obligations.KernelServices := by
  refine ⟨fun s sh d imm vec r hrun hcalm => ?_, fun s sh a imm r hrun hf hinit hfail hclaim hlen => ?_, fun s sh a imm r hrun hf =>
    ⟨fun hinit => ?_, fun hinit hfail => ?_, fun hinit hfail hclaim hfull => ?_, fun hinit hfail hclaim hlen => ?_⟩,
    fun s sh r l hrun hline hinit hfail hclaim hfull => ?_, fun s sh r l hrun hline hinit hfail hclaim => ?_,
    fun s sh r l hrun hline hinit => ?_⟩
  · obtain ⟨hres, hruns⟩ := State.issue_outS hrun hcalm (slotSI_lt _ _ _ (by decide) _) (State.scalarOut_gets ..)
    refine ⟨_, rfl, hruns, ?_, ?_, ?_, fun himm => ⟨?_, ?_⟩, fun himm => ?_⟩
    · rintro rfl
      exact hres
    · rintro rfl
      exact hres
    · rintro rfl
      exact hres
    · subst himm
      rw [hres.1]
      exact toNat_min_eight_le ..
    · subst himm
      exact hres
    · rw [getsValue_other r _ himm] at hres
      exact hres
  · obtain ⟨u, q, hslots, hwork, hq, heng, hbyte, -⟩ := State.issue_emit hrun (slotSI_lt _ _ _ (by decide) _) fun c => State.scalarOut_emit c hf
    obtain ⟨hemits, hclaimed, hfail', -⟩ := State.claim_made (s := u) (sh := sh) (q := q) (hwork.claimFail.trans hfail)
      (by rw [hwork.claimed, State.engine_of_eng hslots.eng]; exact hclaim)
    rw [hwork.out] at hemits
    obtain ⟨hout, hdone⟩ := State.doEmit_taken (s.bytes (trayBase sh + accessAt (s.engine sh) a imm) 64) (hwork.init.trans hinit) hfail' (by rw [hemits]; exact hlen)
    obtain ⟨hs, hlanes⟩ := lanesKept_of_run heng
    refine ⟨_, exec_emit s sh a imm, ⟨_, by rw [heng], ?_, hdone.trans hclaimed, ?_⟩, hs, hlanes, hbyte⟩
    · rw [(u.doEmit_frame sh q _).2.2, hq]
    · rw [hout, hemits]
  · obtain ⟨u, q, hslots, hwork, hq, heng, hbyte, hreg⟩ := State.issue_emit hrun (slotSI_lt _ _ _ (by decide) _) fun c => State.scalarOut_emit c hf
    rw [State.doEmit_init _ (hwork.init.trans hinit)] at heng hreg
    refine ⟨_, exec_emit s sh a imm, ⟨q, by rw [heng], hq, hwork.out, hwork.claimed, hwork.claimFail⟩, ?_, hbyte⟩
    rw [State.get_of_regsSame hreg (notMem_stat (by simp only [R.SH_OFULL_CNT_COUNT]; omega)), State.get_of_regs hslots.regs]
  · obtain ⟨u, q, hslots, hwork, hq, heng, hbyte, hreg⟩ := State.issue_emit hrun (slotSI_lt _ _ _ (by decide) _) fun c => State.scalarOut_emit c hf
    have hfail' : q.claimFail = true := hwork.claimFail.trans hfail
    have hclaim := State.claim_done (s := u) (sh := sh) (.inr hfail')
    rw [State.doEmit_failed _ (hwork.init.trans hinit) (by rw [hclaim]; exact hfail'), hclaim] at heng hreg
    refine ⟨_, exec_emit s sh a imm, ⟨q, by rw [heng], hq, hwork.out, hfail'⟩, ?_, hbyte⟩
    rw [State.get_of_regsSame hreg (notMem_stat (by simp only [R.SH_OFULL_CNT_COUNT]; omega)), State.get_of_regs hslots.regs]
  · obtain ⟨u, q, hslots, hwork, hq, heng, hbyte, hreg⟩ := State.issue_emit hrun (slotSI_lt _ _ _ (by decide) _) fun c => State.scalarOut_emit c hf
    have hclaim' := hwork.claimed.trans hclaim
    have hfail' := hwork.claimFail.trans hfail
    have hfull' : 4 ≤ (u.engine sh).out.length := by rw [State.engine_of_eng hslots.eng]; exact hfull
    obtain ⟨htold, hcount⟩ := State.claim_full_told hclaim' hfail' hfull'
    have hclaimed := State.claim_full hclaim' hfail' hfull'
    rw [State.doEmit_failed _ (hwork.init.trans hinit) (by rw [hclaimed])] at heng hreg
    refine ⟨_, exec_emit s sh a imm, ⟨_, by rw [heng], ?_, ?_, ?_, ?_⟩, ?_, ?_, hbyte⟩
    · rw [(u.claim_frame sh q).2.2, hq]
    · rw [hclaimed]
      exact hwork.out
    · rw [hclaimed]
      exact hclaim'
    · rw [hclaimed]
    · refine told_of_regsSame (told_of_cnt htold fun _ _ => State.get_of_regs hslots.regs) hreg ?_
      simp only [toldRegs, E.SH_OUTPUT_FULL, intRawBit, evtCnt, R.SH_STAT_STATE, List.mem_cons, List.not_mem_nil, or_false]
      omega
    · rw [State.get_of_regsSame hreg (notMem_stat (by simp only [R.SH_OFULL_CNT_COUNT]; omega)), hcount, State.get_of_regs hslots.regs]
  · obtain ⟨u, q, hslots, hwork, hq, heng, hbyte, hreg⟩ := State.issue_emit hrun (slotSI_lt _ _ _ (by decide) _) fun c => State.scalarOut_emit c hf
    rw [State.doEmit_dropped _ (hwork.init.trans hinit) (hwork.claimed.trans hclaim) (hwork.claimFail.trans hfail)
      (by rw [hwork.out]; exact hlen)] at heng hreg
    dsimp only at hreg
    have hbump : u.regsSame (u.bump (R.SH_RDROP_CNT_COUNT sh)) [(R.SH_RDROP_CNT_COUNT sh).reg] := State.regsSame_put _ (List.mem_singleton_self _)
    refine ⟨_, exec_emit s sh a imm, ⟨{ q with recDropped := true, out := { q.out with trunc := true } }, by rw [heng], hq,
      congrArg (fun o : OutEntry => { o with trunc := true }) hwork.out⟩, fun hdrop => ?_, ?_, hbyte⟩
    · rw [hwork.recDropped.trans hdrop, if_neg Bool.false_ne_true] at hreg
      refine told_of_regsSame (told_of_cnt (told_raise_of_regsSame u (show 3 < 32 by decide) hbump ?_) fun _ _ => State.get_of_regs hslots.regs) hreg ?_
      · simp only [toldRegs, E.SH_REC_DROP, intRawBit, evtCnt, R.SH_RDROP_CNT_COUNT, List.mem_cons, List.not_mem_nil, or_false]
        omega
      · simp only [toldRegs, E.SH_REC_DROP, intRawBit, evtCnt, R.SH_STAT_STATE, List.mem_cons, List.not_mem_nil, or_false]
        omega
    · have hcount : (u.bump (R.SH_RDROP_CNT_COUNT sh)).get (R.SH_RDROP_CNT_COUNT sh) = min (2 ^ 32 - 1) (s.get (R.SH_RDROP_CNT_COUNT sh) + 1) := by
        rw [State.bump, State.get_bumpBy _ _ _ (by simp only [R.SH_RDROP_CNT_COUNT]; omega), State.get_of_regs hslots.regs]
        rfl
      rw [State.get_of_regsSame hreg (notMem_stat (by simp only [R.SH_RDROP_CNT_COUNT]; omega)), ← hcount]
      refine State.ite_of (P := fun v => v.get (R.SH_RDROP_CNT_COUNT sh) = (u.bump (R.SH_RDROP_CNT_COUNT sh)).get (R.SH_RDROP_CNT_COUNT sh)) rfl
        (State.get_raise_other _ ?_)
      simp only [toldRegs, E.SH_REC_DROP, intRawBit, evtCnt, R.SH_RDROP_CNT_COUNT, List.mem_cons, List.not_mem_nil, or_false]
      omega
  · obtain ⟨u, q, o, hregs, hwork, hout, htick, hemits, hlike, hbyte, hreg⟩ := State.issue_endLine hrun hline hinit
    have hclaim' := hwork.claimed.trans hclaim
    have hfail' := hwork.claimFail.trans hfail
    have hfull' : 4 ≤ (u.engine sh).out.length := by rw [hout]; exact hfull
    obtain ⟨-, hcount⟩ := State.claim_full_told hclaim' hfail' hfull'
    have hclaimed := State.claim_full hclaim' hfail' hfull'
    have hfailed : (u.claim sh q).2.claimFail = true := by rw [hclaimed]
    rw [hfailed] at hlike
    refine ⟨_, exec_endRun s sh, hlike.run, hlike.lastTick, hlike.out, ?_, hbyte⟩
    rw [State.get_of_regsSame hreg (ofull_notMem_endRegs sh.isLt), hcount, State.get_of_regs hregs]
  · obtain ⟨u, q, o, hregs, hwork, hout, htick, hemits, hlike, hbyte, hreg⟩ := State.issue_endLine hrun hline hinit
    obtain ⟨hemits', -, hfail', -⟩ := State.claim_made (s := u) (sh := sh) (q := q) (hwork.claimFail.trans hfail)
      (by rw [hwork.claimed, hout]; exact hclaim)
    rw [hfail'] at hlike
    rw [hemits', hwork.out] at hemits
    exact ⟨_, exec_endRun s sh, hlike.run, hlike.lastTick, ⟨o, hlike.out, htick, hemits⟩, hlike.s, hlike.lanes, hbyte⟩
  · obtain ⟨u, q, c, hslots, hmem, hwork, heq⟩ := State.issue_end hrun
    have hengine := State.engine_setEngine_same u sh { s.engine sh with run := some q }
    have hregs := (State.setEngine_regs u sh { s.engine sh with run := some q }).trans hslots.regs
    have hmem' := (State.setEngine_mem u sh { s.engine sh with run := some q }).trans hmem
    have hline' : (u.setEngine sh { s.engine sh with run := some q }).lineOf q.line.tickno = some l :=
      (State.lineOf_of_lines (s := s) hslots.lines _).trans (by rw [hwork.line, hline])
    generalize u.setEngine sh { s.engine sh with run := some q } = v at *
    obtain ⟨t, base, hend⟩ := State.endRun_init c (by rw [hengine]) (hwork.init.trans hinit) hline'
    refine ⟨_, exec_endRun s sh, ?_⟩
    rw [heq, hend]
    obtain ⟨⟨q', hrun', hinit', hline'', hpc⟩, hact, hsame⟩ := ((v.at t).setEngine sh { v.engine sh with run := none, initAct := some l.act }).enterWith_spec
      q.gap sh q.line l q.window false t q.wdog base
    refine ⟨⟨q', hrun', hinit', hline''.trans hwork.line, hpc.trans ?_⟩, hact.trans ?_, fun a ha => (hsame a ha).trans ?_⟩
    · rw [State.get_of_regs (State.setEngine_regs ..), State.get_at, State.get_of_regs hregs]
      rfl
    · rw [State.engine_setEngine_same]
    · rw [State.byte_of_mem (State.setEngine_mem ..)]
      exact State.byte_of_mem hmem' a

end Sys2Proof.Machine
end

/-! PROOFS. Vector accesses (R139, R165–R167; O35): loads, stores and the development output. -/
section
namespace Sys2Proof.Machine

/-! ## Lanes read from memory -/

section
variable (s : State)

theorem State.getD_bytes (a n : Nat) {i : Nat} (h : i < n) : (s.bytes a n).getD i 0 = (s.byte (a + i)).toNat := by
  induction n generalizing a i with
  | zero => omega
  | succ n ih =>
    cases i with
    | zero => rfl
    | succ i =>
      rw [State.bytes, List.getD_cons_succ, ih (a + 1) (by omega)]
      rw [show a + 1 + i = a + (i + 1) by omega]

theorem State.halfAt_bytes (a : Nat) {l : Nat} (h : l < 144) : halfAt (s.bytes a 288) l = halfIn s (a + 2 * l) := by
  unfold halfAt halfIn
  rw [s.getD_bytes a 288 (by omega), s.getD_bytes a 288 (by omega), Nat.add_assoc]

theorem laned_congr {α : Type} {on : Nat → Bool} {old : List α} {d : α} {f g : Nat → α} (h : ∀ l, l < 144 → f l = g l) :
    laned on old d f = laned on old d g := by
  unfold laned
  refine List.map_congr_left fun l hl => ?_
  rw [h l (List.mem_range.1 hl)]

end

section
variable {s : State} {sh : Nat} {e : Engine} {r : Run} {vd va vb : BitVec 5} {vp : BitVec 3} {vpn bs : Bool} {k : BitVec 6}

theorem vectorIllegal_access {op : Nat} (h : 0x24 ≤ op) (h' : op ≤ 0x28) : vectorIllegal (slotV op vd va vb vp vpn false k) = false := by
  obtain ⟨hOP, -, -, -, -, -, hBS, -⟩ := slotV_fields op vd va vb vp vpn false k (by omega)
  unfold vectorIllegal
  dsimp only
  rw [hOP, hBS]
  generalize slotV op vd va vb vp vpn false k = w
  interval_cases op <;> rfl

theorem vectorIllegal_line {op : Nat} (h : 0x2C ≤ op) (h' : op ≤ 0x2E) (hk : k.toNat < 16) :
    vectorIllegal (slotV op vd va vb vp vpn bs k) = false := by
  obtain ⟨hOP, -, -, -, -, -, -, hK⟩ := slotV_fields op vd va vb vp vpn bs k (by omega)
  have hhigh : bits k.toNat 4 2 = 0 := by unfold bits; omega
  unfold vectorIllegal
  dsimp only
  rw [hOP, hK, hhigh]
  generalize slotV op vd va vb vp vpn bs k = w
  interval_cases op <;> rfl

theorem Engine.vaddr_slotV {op : Nat} (hop : op < 64) (n : Nat) : e.vaddr (slotV op vd va vb vp vpn bs k) n = vectorAt e vb k n := by
  obtain ⟨-, -, -, hB, -, -, -, hK⟩ := slotV_fields op vd va vb vp vpn bs k hop
  rw [Engine.vaddr, hB, hK, vectorAt]

/-- A vector result at the word of its slot. -/
theorem Engine.outV_slotV {op : Nat} (hop : op < 64) (lat : Nat) {f g : Nat → Half} (h : ∀ l, l < 144 → f l = g l) :
    (e.outV (slotV op vd va vb vp vpn bs k) lat f).dest = .v vd.toNat (laned (laneOn e vp vpn) (e.v vd.toNat) 0 g) := by
  obtain ⟨-, hD, -⟩ := slotV_fields op vd va vb vp vpn bs k hop
  rw [Engine.outV, hD, e.enabled_slotV hop, merge_eq_laned, laned_congr h]

theorem State.vectorOut_vld (h : trayFault false 16 288 (vectorAt e vb k 288) = none) :
    s.vectorOut sh e r (slotV 0x24 vd va vb vp vpn false k) =
      e.outV (slotV 0x24 vd va vb vp vpn false k) 3 (halfAt (s.bytes (trayBase sh + vectorAt e vb k 288) 288)) := by
  obtain ⟨hOP, -⟩ := slotV_fields 0x24 vd va vb vp vpn false k (by decide)
  simp only [State.vectorOut, vectorIllegal_access (op := 0x24) (by decide) (by decide), hOP, Bool.false_eq_true, if_false,
    e.vaddr_slotV (op := 0x24) (by decide), h]

theorem State.vectorOut_vldb (h : trayFault false 16 144 (vectorAt e vb k 144) = none) :
    s.vectorOut sh e r (slotV 0x26 vd va vb vp vpn false k) = e.outV (slotV 0x26 vd va vb vp vpn false k) 3
      fun l => BitVec.ofNat 16 ((s.bytes (trayBase sh + vectorAt e vb k 144) 144).getD l 0) := by
  obtain ⟨hOP, -⟩ := slotV_fields 0x26 vd va vb vp vpn false k (by decide)
  simp only [State.vectorOut, vectorIllegal_access (op := 0x26) (by decide) (by decide), hOP, Bool.false_eq_true, if_false,
    e.vaddr_slotV (op := 0x26) (by decide), h]

theorem State.vectorOut_vldl (h : s.loftFault r.bank sh false 16 288 (vectorAt e vb k 288) = none) :
    s.vectorOut sh e r (slotV 0x27 vd va vb vp vpn false k) = { e.outV (slotV 0x27 vd va vb vp vpn false k) 10
      (halfAt (s.bytes (s.loftAddr r.bank sh (vectorAt e vb k 288)) 288)) with loft := some true } := by
  obtain ⟨hOP, -⟩ := slotV_fields 0x27 vd va vb vp vpn false k (by decide)
  simp only [State.vectorOut, vectorIllegal_access (op := 0x27) (by decide) (by decide), hOP, Bool.false_eq_true, if_false,
    e.vaddr_slotV (op := 0x27) (by decide), h]

theorem State.vectorOut_vst (h : trayFault true 16 288 (vectorAt e vb k 288) = none) :
    s.vectorOut sh e r (slotV 0x25 vd va vb vp vpn false k) =
      { stores := e.laneBytes (slotV 0x25 vd va vb vp vpn false k) (trayBase sh + vectorAt e vb k 288) } := by
  obtain ⟨hOP, -⟩ := slotV_fields 0x25 vd va vb vp vpn false k (by decide)
  simp only [State.vectorOut, vectorIllegal_access (op := 0x25) (by decide) (by decide), hOP, Bool.false_eq_true, if_false,
    e.vaddr_slotV (op := 0x25) (by decide), h]

theorem State.vectorOut_vstl (h : s.loftFault r.bank sh true 16 288 (vectorAt e vb k 288) = none) :
    s.vectorOut sh e r (slotV 0x28 vd va vb vp vpn false k) =
      { stores := e.laneBytes (slotV 0x28 vd va vb vp vpn false k) (s.loftAddr r.bank sh (vectorAt e vb k 288)), loft := some false } := by
  obtain ⟨hOP, -⟩ := slotV_fields 0x28 vd va vb vp vpn false k (by decide)
  simp only [State.vectorOut, vectorIllegal_access (op := 0x28) (by decide) (by decide), hOP, Bool.false_eq_true, if_false,
    e.vaddr_slotV (op := 0x28) (by decide), h]

theorem bits_four_two {k : Nat} (h : k < 16) : bits k 2 2 = k / 4 := by
  unfold bits
  omega

theorem State.vectorOut_vin (hk : k.toNat < 16) : s.vectorOut sh e r (slotV 0x2C vd va vb vp vpn bs k) =
    e.outV (slotV 0x2C vd va vb vp vpn bs k) 3 (r.sample sh (k.toNat / 4) (k.toNat % 4)) := by
  obtain ⟨hOP, -, -, -, -, -, -, hK⟩ := slotV_fields 0x2C vd va vb vp vpn bs k (by decide)
  simp only [State.vectorOut, vectorIllegal_line (op := 0x2C) (by decide) (by decide) hk, hOP, Bool.false_eq_true, if_false, hK, bits_four_two hk]

theorem State.vectorOut_vprf (hk : k.toNat < 12) : s.vectorOut sh e r (slotV 0x2D vd va vb vp vpn bs k) =
    e.outV (slotV 0x2D vd va vb vp vpn bs k) 3 (r.proofByte (k.toNat / 4) (k.toNat % 4)) := by
  have hwhich : k.toNat / 4 ≠ 3 := by omega
  have hk' : k.toNat < 16 := by omega
  obtain ⟨hOP, -, -, -, -, -, -, hK⟩ := slotV_fields 0x2D vd va vb vp vpn bs k (by decide)
  simp only [State.vectorOut, vectorIllegal_line (op := 0x2D) (by decide) (by decide) hk', hOP, Bool.false_eq_true, if_false, hK,
    bits_four_two hk', hwhich]

theorem State.vectorOut_vdev (hk : k.toNat < 16) : s.vectorOut sh e r (slotV 0x2E vd va vb vp vpn bs k) =
    { dev := some (k.toNat % 4, (((List.range 144).filter (laneOn e vp vpn)).filter fun l => 8 ≤ l && l < 136).map fun l => (l - 8, lane e va l)) } := by
  obtain ⟨hOP, -, -, -, -, -, -, hK⟩ := slotV_fields 0x2E vd va vb vp vpn bs k (by decide)
  simp only [State.vectorOut, vectorIllegal_line (op := 0x2E) (by decide) (by decide) hk, hOP, Bool.false_eq_true, if_false, hK,
    e.enabledLanes_slotV (op := 0x2E) (by decide), e.srcA_slotV (op := 0x2E) (by decide)]

end

/-! ## Lanes stored -/

/-- The bytes of lanes at two bytes each. -/
def lanesAt (base : Nat) (v : Nat → Half) (ls : List Nat) : List (Nat × Nat) :=
  ls.flatMap fun l => spread (base + 2 * l) (leBytes 2 (v l).toNat)

section
variable (base : Nat) (v : Nat → Half)

theorem storeAll_append (s : State) (xs ys : List (Nat × Nat)) : storeAll s (xs ++ ys) = storeAll (storeAll s xs) ys := List.foldl_append

theorem storeAll_lanesAt_cons (s : State) (l : Nat) (ls : List Nat) :
    storeAll s (lanesAt base v (l :: ls)) = storeAll (s.putBytes (base + 2 * l) (leBytes 2 (v l).toNat)) (lanesAt base v ls) := by
  rw [lanesAt, List.flatMap_cons, storeAll_append, storeAll_spread, lanesAt]

theorem byte_lanesAt_other (s : State) {ls : List Nat} {a : Nat} (h : ∀ l ∈ ls, a ≠ base + 2 * l ∧ a ≠ base + 2 * l + 1) :
    (storeAll s (lanesAt base v ls)).byte a = s.byte a := by
  induction ls generalizing s with
  | nil => rfl
  | cons l ls ih =>
    obtain ⟨hlow, hhigh⟩ := h l List.mem_cons_self
    rw [storeAll_lanesAt_cons, ih _ fun x hx => h x (List.mem_cons_of_mem _ hx), State.byte_putBytes_other]
    rw [leBytes_length]
    omega

theorem halfIn_putBytes (s : State) (a : Nat) (x : Half) : halfIn (s.putBytes a (leBytes 2 x.toNat)) a = x := by
  have hx := x.isLt
  unfold halfIn
  simp only [leBytes, State.putBytes]
  rw [State.byte_setByte_other _ _ (by omega), State.byte_setByte_same, State.byte_setByte_same]
  apply BitVec.eq_of_toNat_eq
  simp only [BitVec.toNat_ofNat]
  omega

theorem halfIn_congr {s t : State} {a : Nat} (h : t.byte a = s.byte a) (h' : t.byte (a + 1) = s.byte (a + 1)) : halfIn t a = halfIn s a := by
  rw [halfIn, h, h', halfIn]

theorem halfIn_lanesAt (s : State) {ls : List Nat} (l : Nat) :
    halfIn (storeAll s (lanesAt base v ls)) (base + 2 * l) = if l ∈ ls then v l else halfIn s (base + 2 * l) := by
  induction ls generalizing s with
  | nil => rfl
  | cons x ls ih =>
    rw [storeAll_lanesAt_cons, ih]
    by_cases hl : l ∈ ls
    · rw [if_pos hl, if_pos (List.mem_cons_of_mem _ hl)]
    · rw [if_neg hl]
      by_cases hx : l = x
      · subst hx
        rw [if_pos List.mem_cons_self, halfIn_putBytes]
      · rw [if_neg (by simp [hx, hl])]
        refine halfIn_congr (s.byte_putBytes_other _ _ ?_) (s.byte_putBytes_other _ _ ?_)
        · rw [leBytes_length]
          omega
        · rw [leBytes_length]
          omega

end

/-- What a vector store beside SNOP leaves. -/
theorem State.issue_vstore {s : State} {sh : Nat} {r : Run} {hi at_ : Nat} {va : BitVec 5} {on : Nat → Bool} {b : SlotOut}
    (hrun : running s sh r (wordOf 0 hi)) (hb : s.vectorOut sh (s.engine sh) r hi = b) (hfb : b.fault = none) (hdest : b.dest = .none)
    (hst : b.stores = lanesAt at_ (lane (s.engine sh) va) ((List.range 144).filter on)) :
    (∀ l, l < 144 → halfIn (s.issue sh (wordOf 0 hi)) (at_ + 2 * l) = if on l then lane (s.engine sh) va l else halfIn s (at_ + 2 * l)) ∧
    s.memSame (s.issue sh (wordOf 0 hi)) at_ 288 ∧ (∀ i, ((s.issue sh (wordOf 0 hi)).engine sh).s i = (s.engine sh).s i) ∧
    lanesKept (s.engine sh) ((s.issue sh (wordOf 0 hi)).engine sh) ∧ runsAt s (s.issue sh (wordOf 0 hi)) sh (r.pc + 1) := by
  obtain ⟨d, q, -, hzero, heng, hothers, hmem⟩ := State.issue_vector (scal := 0) hrun (calmScalar_zero s sh r) hb hfb (.inr rfl)
  obtain ⟨rfl, hq⟩ := hzero rfl
  rw [show (0 : Word).toNat = 0 from rfl] at heng hothers hmem
  rw [hdest] at heng
  rw [hst] at hmem
  obtain ⟨hs, hlanes⟩ := lanesKept_of_run heng
  refine ⟨fun l hl => ?_, fun a ha => ?_, hs, hlanes, ⟨q, by rw [heng], hq⟩, hothers⟩
  · rw [halfIn_congr (State.byte_of_mem hmem _) (State.byte_of_mem hmem _), halfIn_lanesAt]
    simp only [List.mem_filter, List.mem_range, hl, true_and]
  · rw [State.byte_of_mem hmem, byte_lanesAt_other]
    intro l hl
    have := List.mem_range.1 (List.mem_filter.1 hl).1
    omega

theorem Engine.laneBytes_slotV (e : Engine) {op : Nat} {vd va vb : BitVec 5} {vp : BitVec 3} {vpn bs : Bool} {k : BitVec 6} (hop : op < 64)
    (base : Nat) : e.laneBytes (slotV op vd va vb vp vpn bs k) base = lanesAt base (lane e va) ((List.range 144).filter (laneOn e vp vpn)) := by
  rw [Engine.laneBytes, e.enabledLanes_slotV hop, e.srcA_slotV hop, lanesAt]

/-! ## The development output -/

section
variable {s : State} {sh : Nat} {r : Run}

/-- A word that writes a band, beside SNOP: what `State.doDev` makes of the run, and nothing of memory or of other registers. -/
theorem State.issue_dev {hi band : Nat} {ls : List (Nat × Half)} (hrun : running s sh r (wordOf 0 hi))
    (hb : s.vectorOut sh (s.engine sh) r hi = { dev := some (band, ls) }) :
    ∃ u q, s.sameSlots u ∧ q.sameWork r ∧ q.pc = r.pc + 1 ∧
      (s.issue sh (wordOf 0 hi)).engine sh = { s.engine sh with run := some (u.doDev sh q band ls).2 } ∧
      (∀ a, (s.issue sh (wordOf 0 hi)).byte a = s.byte a) ∧
      (u.doDev sh q band ls).1.regsSame (s.issue sh (wordOf 0 hi)) [(R.SH_STAT_STATE sh).reg] := by
  obtain ⟨hr, hw, hpc⟩ := hrun
  have ha' : s.scalarAt sh r (wordOf 0 hi) = {} := by
    unfold State.scalarAt
    rw [wordOf_mod _ (by decide)]
    exact s.scalarOut_zero ..
  have hb' : s.vectorAfter sh r (wordOf 0 hi) = { dev := some (band, ls) } := by
    unfold State.vectorAfter
    rw [ha', wordOf_div]
    exact hb
  obtain ⟨u, q, c, hslots, hmem, hwork, hq, hstep⟩ := s.stepWord_done sh r (wordOf 0 hi) (by rw [ha']) (by rw [hb']) (by rw [ha', hb']; rfl)
  rw [ha', hb'] at hstep hmem
  rw [ha'] at hq
  obtain ⟨heng', hmem', hpc'⟩ := u.doDev_frame sh q band ls
  have hout : u.output sh q {} { dev := some (band, ls) } = u.doDev sh q band ls := rfl
  have hlt : ¬ 4096 ≤ (u.doDev sh q band ls).2.pc := by
    rw [hpc', hq, Option.getD_none]
    omega
  have hissue : s.issue sh (wordOf 0 hi) =
      (((u.doDev sh q band ls).1.setEngine sh { s.engine sh with run := some (u.doDev sh q band ls).2 }).shShow sh) := by
    rw [State.issue_eq hr hw, hstep]
    unfold State.wordDone
    dsimp only
    rw [hout, if_neg Bool.false_ne_true, if_neg hlt]
    rfl
  obtain ⟨hshow, -, hbyte, heng, -⟩ :=
    ((u.doDev sh q band ls).1.setEngine sh { s.engine sh with run := some (u.doDev sh q band ls).2 }).shShow_only sh
  rw [hissue]
  refine ⟨u, q, hslots, hwork, hq, ?_, fun a => ?_, fun a h => ?_⟩
  · rw [State.engine_of_eng heng, State.engine_setEngine_same]
  · rw [hbyte, State.byte_of_mem (State.setEngine_mem ..), State.byte_of_mem hmem', State.byte_of_mem hmem]
    rfl
  · rw [hshow a h, State.reg, State.setEngine_regs, State.reg]

theorem State.doDev_init {band : Nat} {ls : List (Nat × Half)} (h : r.init = true) : s.doDev sh r band ls = (s, r) := by
  unfold State.doDev
  exact if_pos h

theorem State.doDev_failed {band : Nat} {ls : List (Nat × Half)} (h : r.init = false) (hf : (s.claim sh r).2.claimFail = true) :
    s.doDev sh r band ls = s.claim sh r := by
  unfold State.doDev
  rw [h, if_neg Bool.false_ne_true]
  exact if_pos hf

/-- The run behind a VDEV whose claim holds. -/
def Run.devWrite (r : Run) (band : Nat) (ls : List (Nat × Half)) : Run :=
  { r with out := { r.out with dev := mapSet [] r.out.dev band (setAll (mapGet [] r.out.dev band) ls) } }

theorem State.doDev_taken {band : Nat} {ls : List (Nat × Half)} (h : r.init = false) (hf : (s.claim sh r).2.claimFail = false) :
    (s.doDev sh r band ls).2 = (s.claim sh r).2.devWrite band ls := by
  unfold State.doDev
  dsimp only
  rw [if_neg (by rw [h]; decide), if_neg (by rw [hf]; decide)]
  rfl

end

/-- Elements of a list replaced at the lanes of a list. -/
theorem getD_setAll (f : Nat → Half) (ls : List Nat) (xs : List Nat) {j : Nat} (hj : j < xs.length) (hge : ∀ l ∈ ls, 8 ≤ l) :
    (setAll xs (ls.map fun l => (l - 8, f l))).getD j 0 = if j + 8 ∈ ls then (f (j + 8)).toNat else xs.getD j 0 := by
  induction ls generalizing xs with
  | nil => rfl
  | cons l ls ih =>
    have hl : 8 ≤ l := hge l List.mem_cons_self
    have hstep : setAll xs ((l :: ls).map fun l => (l - 8, f l)) = setAll (xs.set (l - 8) (f l).toNat) (ls.map fun l => (l - 8, f l)) := rfl
    rw [hstep, ih _ (by rw [List.length_set]; exact hj) fun x hx => hge x (List.mem_cons_of_mem _ hx)]
    by_cases hmem : j + 8 ∈ ls
    · rw [if_pos hmem, if_pos (List.mem_cons_of_mem _ hmem)]
    · rw [if_neg hmem]
      by_cases hjl : j + 8 = l
      · subst hjl
        rw [if_pos List.mem_cons_self, Nat.add_sub_cancel, List.getD_eq_getElem?_getD, List.getElem?_set_self hj]
        rfl
      · rw [if_neg (by simp [hjl, hmem]), List.getD_eq_getElem?_getD, List.getElem?_set_ne (by omega), List.getD_eq_getElem?_getD]

/-- A band behind a VDEV: the enabled owned lanes are written. -/
theorem Run.getD_devWrite (r : Run) {band : Nat} (on : Nat → Bool) (f : Nat → Half) (hlen : (mapGet [] r.out.dev band).length = 128) :
    ∀ j, j < 128 → (mapGet [] (r.devWrite band ((((List.range 144).filter on).filter fun l => 8 ≤ l && l < 136).map fun l => (l - 8, f l))).out.dev band).getD j 0 =
      if on (j + 8) then (f (j + 8)).toNat else (mapGet [] r.out.dev band).getD j 0 := by
  intro j hj
  unfold Run.devWrite
  dsimp only
  rw [mapGet_set_same, getD_setAll]
  · refine if_congr ?_ rfl rfl
    simp only [List.mem_filter, List.mem_range, Bool.and_eq_true, decide_eq_true_eq]
    exact ⟨fun h => h.1.2, fun h => ⟨⟨by omega, h⟩, by omega, by omega⟩⟩
  · rw [hlen]
    exact hj
  · intro l hl
    have := (List.mem_filter.1 hl).2
    simp only [Bool.and_eq_true, decide_eq_true_eq] at this
    exact this.1

theorem Run.devWrite_other (r : Run) {band b : Nat} (ls : List (Nat × Half)) (h : b ≠ band) :
    mapGet [] (r.devWrite band ls).out.dev b = mapGet [] r.out.dev b := mapGet_set_other _ _ _ _ h

theorem devDefault_length (s : State) (sh : Nat) (i : Intake) {b : Nat} (h : b < 4) : (mapGet [] (s.devDefault sh i) b).length = 128 := by
  unfold State.devDefault
  simp only [List.range_succ, List.range_zero, List.nil_append, List.cons_append, List.map_cons, List.map_nil, mapGet, mapFind]
  interval_cases b <;> simp

/-- Settles O35: each access's arm of `State.vectorOut`, with `State.issue_outV`, `State.issue_vstore` and `State.doDev` behind it. -/
theorem vectorAccesses : Obligations.VectorAccesses := by
  refine ⟨fun s sh vd va vb vp vpn k scal r hcalm => ⟨fun hf hrun => ?_, fun hf hrun => ?_, fun hf hrun => ?_, fun bs hk hrun => ?_,
    fun bs hk hrun => ?_⟩, fun s sh vd va vb vp vpn k r => ⟨fun hf hrun => ?_, fun hf hrun => ?_, fun bs hk hrun hinit hclaim hfail hlen => ?_,
    fun bs hk hrun => ⟨fun hinit hclaim hfail hfree => ?_, fun hinit hclaim hfail hfull => ?_, fun hinit => ?_⟩⟩⟩
  · exact ⟨_, rfl, State.issue_outV hrun hcalm (State.vectorOut_vld hf) rfl
      (Engine.outV_slotV (by decide) _ fun l hl => s.halfAt_bytes _ hl) rfl⟩
  · exact ⟨_, rfl, State.issue_outV hrun hcalm (State.vectorOut_vldb hf) rfl
      (Engine.outV_slotV (by decide) _ fun l hl => by rw [s.getD_bytes _ _ hl, BitVec.ofNat_toNat]) rfl⟩
  · exact ⟨_, rfl, State.issue_outV hrun hcalm (State.vectorOut_vldl hf) rfl
      (Engine.outV_slotV (by decide) 10 fun l hl => s.halfAt_bytes _ hl) rfl⟩
  · exact ⟨_, rfl, State.issue_outV hrun hcalm (State.vectorOut_vin hk) rfl (Engine.outV_slotV (by decide) _ fun _ _ => rfl) rfl⟩
  · exact ⟨_, rfl, State.issue_outV hrun hcalm (State.vectorOut_vprf hk) rfl (Engine.outV_slotV (by decide) _ fun _ _ => rfl) rfl⟩
  · exact ⟨_, rfl, State.issue_vstore hrun (State.vectorOut_vst hf) rfl rfl (Engine.laneBytes_slotV _ (by decide) _)⟩
  · exact ⟨_, rfl, State.issue_vstore hrun (State.vectorOut_vstl hf) rfl rfl (Engine.laneBytes_slotV _ (by decide) _)⟩
  · obtain ⟨u, q, hslots, hwork, hq, heng, hbyte, -⟩ := State.issue_dev hrun (State.vectorOut_vdev hk)
    have hclaimed := State.claim_done (s := u) (sh := sh) (.inl (hwork.claimed.trans hclaim))
    rw [State.doDev_taken (hwork.init.trans hinit) (by rw [hclaimed]; exact hwork.claimFail.trans hfail), hclaimed] at heng
    obtain ⟨hs, hlanes⟩ := lanesKept_of_run heng
    have hband := q.getD_devWrite (laneOn (s.engine sh) vp vpn) (lane (s.engine sh) va) (band := k.toNat % 4) (by rw [hwork.out]; exact hlen)
    rw [hwork.out] at hband
    exact ⟨_, rfl, ⟨_, congrArg Engine.run heng, hq, hband⟩, hs, hlanes, hbyte⟩
  · obtain ⟨u, q, hslots, hwork, hq, heng, hbyte, -⟩ := State.issue_dev hrun (State.vectorOut_vdev hk)
    have hclaimed := State.claim_free (s := u) (sh := sh) (hwork.claimed.trans hclaim) (hwork.claimFail.trans hfail)
      (by rw [State.engine_of_eng hslots.eng]; exact hfree)
    rw [State.doDev_taken (hwork.init.trans hinit) (by rw [hclaimed]; exact hwork.claimFail.trans hfail), hclaimed] at heng
    obtain ⟨hs, hlanes⟩ := lanesKept_of_run heng
    have hdev : u.devDefault sh q.line = s.devDefault sh r.line := by rw [hwork.line]; rfl
    rw [hdev] at heng
    have hlen : (mapGet [] (s.devDefault sh r.line) (k.toNat % 4)).length = 128 := devDefault_length s sh r.line (by omega)
    refine ⟨_, rfl, ⟨_, congrArg Engine.run heng, hq, rfl, hwork.claimFail.trans hfail, (congrArg OutEntry.emits hwork.out : q.out.emits = r.out.emits),
      Run.getD_devWrite { q with claimed := true, out := { q.out with dev := s.devDefault sh r.line } } (laneOn (s.engine sh) vp vpn)
        (lane (s.engine sh) va) hlen, fun b _ hb => Run.devWrite_other _ _ hb⟩, hs, hlanes, hbyte⟩
  · obtain ⟨u, q, hslots, hwork, hq, heng, hbyte, hreg⟩ := State.issue_dev hrun (State.vectorOut_vdev hk)
    have hclaim' := hwork.claimed.trans hclaim
    have hfail' := hwork.claimFail.trans hfail
    have hfull' : 4 ≤ (u.engine sh).out.length := by rw [State.engine_of_eng hslots.eng]; exact hfull
    obtain ⟨htold, -⟩ := State.claim_full_told hclaim' hfail' hfull'
    have hclaimed := State.claim_full hclaim' hfail' hfull'
    rw [State.doDev_failed (hwork.init.trans hinit) (by rw [hclaimed])] at heng hreg
    refine ⟨_, rfl, ⟨_, congrArg Engine.run heng, ?_, ?_, ?_, ?_⟩, ?_, hbyte⟩
    · rw [(u.claim_frame sh q).2.2, hq]
    · rw [hclaimed]
      exact hclaim'
    · rw [hclaimed]
    · rw [hclaimed]
      exact hwork.out
    · refine told_of_regsSame (told_of_cnt htold fun _ _ => State.get_of_regs hslots.regs) hreg ?_
      simp only [toldRegs, E.SH_OUTPUT_FULL, intRawBit, evtCnt, R.SH_STAT_STATE, List.mem_cons, List.not_mem_nil, or_false]
      omega
  · obtain ⟨u, q, hslots, hwork, hq, heng, hbyte, hreg⟩ := State.issue_dev hrun (State.vectorOut_vdev hk)
    rw [State.doDev_init (hwork.init.trans hinit)] at heng
    exact ⟨_, rfl, ⟨q, congrArg Engine.run heng, hq, hwork.claimed, hwork.claimFail, hwork.out⟩, hbyte⟩

end Sys2Proof.Machine
end

/-! PROOFS. O12: a write of a banked register (R174). The registers that follow such a write — what JOB_STAT, ENGG_STAT, the caps and
the loads show — are none of them banked. -/
section
namespace Sys2Proof.Machine

section
variable (s : State)

/-! ## What the shows of a bank's change write -/

theorem State.usedShow_only : only s s.usedShow [R.ENGG_STAT_COURSE_USED.reg] := only_put _ List.mem_cons_self

theorem State.stagedShow_only : only s s.stagedShow [R.JOB_STAT_STAGED.reg] := only_put _ List.mem_cons_self

theorem State.kcapShow_only : only s s.kcapShow [R.ENGG_KCAP_A_HZ.reg, R.ENGG_KCAP_B_HZ.reg] :=
  only_trans (only_put _ List.mem_cons_self) (only_put _ (List.mem_cons_of_mem _ List.mem_cons_self))

/-- The registers that a bank's load shows in. -/
def bwRegs : List Nat := [(R.MEM_BW_x_LOAD 0).reg, (R.MEM_BW_x_LOAD 1).reg] ++ toldRegs E.MEM_BW_OVER

theorem State.bwShowOne_only (x : Nat) (hload : (R.MEM_BW_x_LOAD x).reg ∈ bwRegs) : only s (s.bwShowOne x) bwRegs := by
  have hshow : only s ((s.put (R.MEM_BW_x_LOAD x) (s.ddrLoad x)).put (R.MEM_BW_x_OVER x) (boolNat (decide (ddrLimit < s.ddrLoad x))))
      bwRegs := only_trans (only_put _ hload) (only_put _ hload)
  exact only_ite (only_trans hshow (only_raise (List.subset_append_right _ _))) hshow

theorem State.bwShow_only : only s s.bwShow bwRegs :=
  only_trans (s.bwShowOne_only 0 (by decide)) (State.bwShowOne_only _ 1 (by decide))

/-- The registers that a dropped arming changes. -/
def disarmRegs : List Nat := [R.JOB_STAT_ARMED.reg, R.ENGG_STAT_COURSE_USED.reg] ++ toldRegs E.JOB_DISARMED

theorem State.dropArm_only : only s s.dropArm [R.JOB_STAT_ARMED.reg, R.ENGG_STAT_COURSE_USED.reg] :=
  only_trans (only_trans (only_trans (only_upd only_refl) (only_put _ (by decide))) (only_put _ (by decide)))
    (only_mono (State.usedShow_only _) (by decide))

theorem State.disarm_eq : s.disarm = if s.job.armed.isNone then s else s.dropArm.raise E.JOB_DISARMED := rfl

theorem State.disarm_only : only s s.disarm disarmRegs := by
  rw [State.disarm_eq]
  exact only_ite only_refl (only_trans (only_mono s.dropArm_only (by decide)) (only_raise (by decide)))

theorem State.disarm_armed : s.disarm.job.armed = none := by
  rw [State.disarm_eq]
  split
  · rename_i harm
    exact Option.isNone_iff_eq_none.1 harm
  · rw [State.raise_job, State.dropArm, State.usedShow, State.put_job, State.put_job, State.put_job]

theorem State.bwShowOne_job (x : Nat) : (s.bwShowOne x).job = s.job := by
  unfold State.bwShowOne
  refine State.ite_of (P := fun u : State => u.job = s.job) ?_ ?_
  · rw [State.raise_job, State.put_job, State.put_job]
  · rw [State.put_job, State.put_job]

end
section
variable {s : State}

/-- The registers that the shows behind a banked write change. -/
def bankShowRegs : List Nat :=
  [R.EXP_CHECK_BUSY_A.reg, R.ENGG_KCAP_A_HZ.reg, R.ENGG_KCAP_B_HZ.reg, R.ENGG_STAT_COURSE_USED.reg, R.JOB_STAT_STAGED.reg] ++ bwRegs

theorem State.bankChanged_only (s : State) (page x : Nat) : only s (s.bankChanged page x) bankShowRegs := by
  unfold State.bankChanged
  refine only_ite (only_put _ ?_) (only_ite ?_ (only_ite ?_ only_refl))
  · by_cases hx : x = 0
    · rw [if_pos hx]; decide
    · rw [if_neg hx]; decide
  · exact only_trans (only_trans (only_mono s.kcapShow_only (by decide)) (only_mono (State.usedShow_only _) (by decide)))
      (only_mono (State.bwShow_only _) (by decide))
  · exact only_trans (only_mono s.stagedShow_only (by decide)) (only_mono (State.bwShow_only _) (by decide))

theorem State.bankChanged_job (s : State) (page x : Nat) : (s.bankChanged page x).job = s.job := by
  have hbw (u : State) : u.bwShow.job = u.job := (State.bwShowOne_job _ 1).trans (u.bwShowOne_job 0)
  unfold State.bankChanged
  refine State.ite_of (P := fun u : State => u.job = s.job) (State.put_job ..)
    (State.ite_of (P := fun u : State => u.job = s.job) ?_
      (State.ite_of (P := fun u : State => u.job = s.job) ?_ rfl))
  · rw [hbw, State.usedShow, State.put_job, State.kcapShow, State.put_job, State.put_job]
  · rw [hbw, State.stagedShow, State.put_job]

/-! ## The write itself -/

theorem State.writeWord_eq {a : Nat} {r : RegRow} (h : regRow a = some r) (v : Nat) :
    s.writeWord a v = s.setReg a (BitVec.ofNat 32 (writtenWord r (s.reg a).toNat v)) := by
  unfold State.writeWord
  rw [h]

theorem regKind_of_row {a : Nat} {r : RegRow} (h : regRow a = some r) : regKind a = r.kind := by
  unfold regKind
  rw [h]

/-- A register of another kind than those of a list is none of them. -/
theorem notMem_of_kind {a : Nat} {k : RegKind} {L : List Nat} (h : regKind a = k) (hL : ∀ b ∈ L, regKind b ≠ k) : a ∉ L :=
  fun hmem => hL a hmem h

/-- A write for a bank that is neither active nor busy. -/
theorem State.bankWrite_free {a v : Nat} {r : RegRow} (hserved : s.served (a / 4096) = true) (hrow : regRow a = some r)
    (hkind : r.kind = .banked) (hactive : s.job.active ≠ some (bankOfReg a)) (hbusy : bankOfReg a ∉ s.job.busy) :
    s.bankWrite a v =
      ((if s.job.armed = some (bankOfReg a) then s.disarm else s).writeWord a v).bankChanged (a / 4096) (bankOfReg a) := by
  unfold State.bankWrite
  rw [if_neg (by simp [hserved, regKind_of_row hrow, hkind]), if_neg (by simp [hactive, hbusy])]

theorem State.bankWrite_taken {a v : Nat} {r : RegRow} (hserved : s.served (a / 4096) = true) (hrow : regRow a = some r)
    (hkind : r.kind = .banked) (h : s.job.active = some (bankOfReg a) ∨ bankOfReg a ∈ s.job.busy) :
    s.bankWrite a v = s.raise E.JOB_BANK_ACTIVE := by
  unfold State.bankWrite
  rw [if_neg (by simp [hserved, regKind_of_row hrow, hkind]), if_pos (by simpa using h)]

end

/-- Settles O12: of a bank in use the write is told and refused; else the word is stored between the dropping of the arming and the shows
of what follows, neither of which touches a banked register. -/
theorem bankedWritesSpareTheActiveBank : Obligations.BankedWritesSpareTheActiveBank := by
  intro s a v r hserved hrow hkind
  refine ⟨fun hactive hbusy => ⟨_, rfl, ?_⟩, fun h => ⟨_, rfl, ?_⟩⟩
  · rw [State.bankWrite_free hserved hrow hkind hactive hbusy]
    set u := if s.job.armed = some (bankOfReg a) then s.disarm else s with hu
    have hbank : regKind a = .banked := (regKind_of_row hrow).trans hkind
    have hus : only s u disarmRegs := only_ite s.disarm_only only_refl
    have hshow := (u.writeWord a v.toNat).bankChanged_only (a / 4096) (bankOfReg a)
    have hreg : u.reg a = s.reg a := hus.1 a (notMem_of_kind hbank (by decide))
    refine ⟨?_, fun harm => ?_, fun b => ?_⟩
    · rw [hshow.1 a (notMem_of_kind hbank (by decide)), State.writeWord_eq hrow, State.reg_setReg_same, hreg]
    · rw [State.bankChanged_job, State.writeWord_eq hrow, State.setReg_job, hu, if_pos harm, State.disarm_armed]
    · rw [hshow.2.2.1 b, State.writeWord_eq hrow, State.byte_of_mem (State.setReg_mem ..), hus.2.2.1 b]
  · rw [State.bankWrite_taken hserved hrow hkind h]
    exact told_raise_only s (by decide)

end Sys2Proof.Machine
end

/-! PROOFS. O14: reads of 64-bit pairs (R92, R229). -/
section
namespace Sys2Proof.Machine

section
variable (s : State)

/-! ## Reads of served registers -/

/-- A read outside the header of a served register that the map has. -/
theorem State.readOut_rest {a : Nat} (halign : a % 4 = 0) (hserved : s.servedAt a = true) (hoff : 0x040 ≤ a % 4096) :
    s.readOut a = { (s.restRead a).2 with rdata := [(s.restRead a).1] } := by
  have hread : s.regRead a = s.restRead a := by
    unfold State.regRead
    rw [if_neg (by simp [halign, hserved]), if_neg (by omega)]
  unfold State.readOut
  rw [hread]

theorem State.only_shadowSet (hi v : Nat) {L : List Nat} : only s (s.shadowSet hi v) L := only_of_eq rfl rfl rfl rfl rfl

theorem State.mapFind_shadowSet (hi v : Nat) : mapFind (s.shadowSet hi v).tmr.shadow64 hi = some (BitVec.ofNat 32 v) :=
  mapFind_ins_same _ _ _

/-- The low word of a pair outside the linked counters. -/
theorem State.restRead_low {a : Nat} (hpair : pairLow a = true) (hhi : pairLow (a - 4) = false) (hword : s.linkedHighWord a = none)
    (hlow : s.linkedLow a = none) : s.restRead a = (s.regPlain a,
      if a = R.MEM_ERR_ADDR_LO_ADDR.reg then (s.shadowSet (a + 4) (s.regPlain (a + 4))).put R.MEM_ERR_ADDR_HI_VALID 0
      else s.shadowSet (a + 4) (s.regPlain (a + 4))) := by
  have hpage : a / 4096 ≠ 0x016 ∧ a ≠ 0x29050 := by
    constructor
    · intro h
      simp [pairLow, h] at hpair
    · rintro rfl
      exact absurd hpair (by decide)
  unfold State.restRead
  rw [hword]
  dsimp only
  rw [if_neg (by simp [hhi]), if_neg hpage.2]
  unfold State.lowRead
  rw [hlow, hpair]
  simp only [hpage.1, false_and, decide_false, Bool.false_and, Bool.false_eq_true, if_false, if_true]

/-- A field of a whole register is its word. -/
theorem State.get_whole (r : Nat) : s.get ⟨r, 0, 32⟩ = (s.reg r).toNat := by
  rw [State.get, bits, Nat.pow_zero, Nat.div_one, toNat_mod_word]

/-- The counters' registers show their stored word. -/
theorem State.regPlain_cnt {k : Nat} (hk : k < 6) : s.regPlain (R.CNTk_VAL_VAL k).reg = s.cnt k := by
  have hplain : s.regPlain (R.CNTk_VAL_VAL k).reg = (s.reg (R.CNTk_VAL_VAL k).reg).toNat := by interval_cases k <;> rfl
  exact hplain.trans (s.get_whole _).symm

theorem cntReg_page {k : Nat} (hk : k < 6) : (R.CNTk_VAL_VAL k).reg / 4096 = 0x016 ∧
    (R.CNTk_VAL_VAL k).reg % 4096 = 0x104 + 16 * k := by
  simp only [R.CNTk_VAL_VAL]
  omega

/-- The low word of a linked counter pair. -/
theorem State.restRead_cntLow {p : Nat} (hp : p < 3) (hlink : s.linked (2 * p) = true) :
    s.restRead (R.CNTk_VAL_VAL (2 * p)).reg = (s.cnt (2 * p),
      s.shadowSet (R.CNTk_VAL_VAL (2 * p + 1)).reg (s.cnt (2 * p + 1))) := by
  obtain ⟨hpage, hoff⟩ := cntReg_page (k := 2 * p) (by omega)
  have hword : s.linkedHighWord (R.CNTk_VAL_VAL (2 * p)).reg = none := by
    unfold State.linkedHighWord
    rw [if_neg (by simp [hpage]), hoff, if_neg (by simp; omega), if_neg (by simp; omega)]
  have hlow : s.linkedLow (R.CNTk_VAL_VAL (2 * p)).reg = some (R.CNTk_VAL_VAL (2 * p + 1)).reg := by
    have hk : (0x104 + 16 * (2 * p) - 0x100) / 16 = 2 * p := by omega
    unfold State.linkedLow
    rw [if_neg (by simp [hpage]), hoff, hk, if_pos (by simp [hlink]; omega)]
    exact congrArg some (by simp only [R.CNTk_VAL_VAL]; omega)
  have hread : s.lowRead (R.CNTk_VAL_VAL (2 * p)).reg =
      s.shadowSet (R.CNTk_VAL_VAL (2 * p + 1)).reg (s.regPlain (R.CNTk_VAL_VAL (2 * p + 1)).reg) := by
    unfold State.lowRead
    rw [hlow, hoff]
    dsimp only
    rw [if_neg (by simp; omega), if_neg (by simp only [R.CNTk_VAL_VAL, R.MEM_ERR_ADDR_LO_ADDR]; omega)]
  unfold State.restRead
  rw [hword, hread, s.regPlain_cnt (by omega), s.regPlain_cnt (by omega)]
  interval_cases p <;> rfl

theorem State.linkedHighWord_cnt {p : Nat} (hp : p < 3) (hlink : s.linked (2 * p) = true) :
    s.linkedHighWord (R.CNTk_VAL_VAL (2 * p + 1)).reg = some p := by
  obtain ⟨hpage, hoff⟩ := cntReg_page (k := 2 * p + 1) (by omega)
  have hodd : s.linked (2 * p + 1) = true := by
    rw [← hlink]
    interval_cases p <;> rfl
  have hk : (0x104 + 16 * (2 * p + 1) - 0x100) / 16 = 2 * p + 1 := by omega
  unfold State.linkedHighWord
  rw [if_neg (by simp [hpage]), hoff, hk, if_pos (by simp [hodd]; omega)]
  exact congrArg some (by omega)

/-- The high word of a linked counter pair with a shadow pending. -/
theorem State.restRead_cntHigh {p : Nat} {v : Word} (hp : p < 3) (hlink : s.linked (2 * p) = true)
    (hpend : mapFind s.tmr.shadow64 (R.CNTk_VAL_VAL (2 * p + 1)).reg = some v) :
    s.restRead (R.CNTk_VAL_VAL (2 * p + 1)).reg = (v.toNat, s.shadowDrop (R.CNTk_VAL_VAL (2 * p + 1)).reg) := by
  unfold State.restRead
  rw [s.linkedHighWord_cnt hp hlink, hpend]

/-- The high word of a linked counter pair without one: the live word, marked and told. -/
theorem State.restRead_cntLive {p : Nat} (hp : p < 3) (hlink : s.linked (2 * p) = true)
    (hpend : mapFind s.tmr.shadow64 (R.CNTk_VAL_VAL (2 * p + 1)).reg = none) :
    s.restRead (R.CNTk_VAL_VAL (2 * p + 1)).reg =
      (s.cnt (2 * p + 1), (s.put ⟨R.TMR_LINK_SEQ.reg, 8 + p, 1⟩ 1).raise E.TMR_SEQ) := by
  unfold State.restRead
  rw [s.linkedHighWord_cnt hp hlink, hpend, s.regPlain_cnt (by omega)]

/-- The marking of an unpaired read of the high word of a linked pair. -/
theorem State.seqMark {p : Nat} (hp : p < 3) :
    bit (((s.put ⟨R.TMR_LINK_SEQ.reg, 8 + p, 1⟩ 1).raise E.TMR_SEQ).get R.TMR_LINK_SEQ) p = true ∧
    told s ((s.put ⟨R.TMR_LINK_SEQ.reg, 8 + p, 1⟩ 1).raise E.TMR_SEQ) E.TMR_SEQ ∧
    only s ((s.put ⟨R.TMR_LINK_SEQ.reg, 8 + p, 1⟩ 1).raise E.TMR_SEQ) (R.TMR_LINK_SEQ.reg :: toldRegs E.TMR_SEQ) := by
  have hput : only s (s.put ⟨R.TMR_LINK_SEQ.reg, 8 + p, 1⟩ 1) [R.TMR_LINK_SEQ.reg] := only_put _ List.mem_cons_self
  refine ⟨?_, told_raise_of_regsSame s (by decide) hput.1 (by decide),
    only_trans (only_mono hput (by decide)) (only_raise (List.subset_cons_self _ _))⟩
  rw [State.get_raise_other _ (by decide), State.bit_get _ _ (show p < R.TMR_LINK_SEQ.w from hp)]
  have hone : (s.put ⟨R.TMR_LINK_SEQ.reg, 8 + p, 1⟩ 1).get ⟨R.TMR_LINK_SEQ.reg, 8 + p, 1⟩ = 1 :=
    s.get_put_same 1 (by dsimp only; omega)
  rw [State.get_one_bit] at hone
  exact Bool.toNat_eq_one.1 hone

end

/-- Settles O14: each read is one branch of the read of a register; the shadow is a table of its own, beside the registers. -/
theorem pairReadsUseTheShadow : Obligations.PairReadsUseTheShadow := by
  refine ⟨fun s a halign hserved hoff hpair hhi hword hlow => ⟨_, rfl, ?_⟩, fun s p hserved hlink => ⟨_, rfl, ?_⟩,
    fun s p v hserved hlink hpend => ⟨_, rfl, ?_⟩, fun s p hserved hlink hpend => ⟨_, rfl, ?_⟩, fun s hserved => ⟨_, rfl, ?_⟩⟩
  · rw [s.readOut_rest halign hserved hoff, s.restRead_low hpair hhi hword hlow]
    split
    · exact ⟨rfl, s.mapFind_shadowSet _ _, only_trans (s.only_shadowSet _ _) (only_put _ List.mem_cons_self)⟩
    · exact ⟨rfl, s.mapFind_shadowSet _ _, only_of_eq rfl rfl rfl rfl rfl⟩
  · have hreg := cntReg_page (k := 2 * p.val) (by omega)
    rw [s.readOut_rest (by omega) hserved (by omega), s.restRead_cntLow p.isLt hlink]
    exact ⟨rfl, s.mapFind_shadowSet _ _, only_of_eq rfl rfl rfl rfl rfl⟩
  · have hreg := cntReg_page (k := 2 * p.val + 1) (by omega)
    rw [s.readOut_rest (by omega) hserved (by omega), s.restRead_cntHigh p.isLt hlink hpend]
    exact ⟨rfl, mapFind_del_same _ _, only_of_eq rfl rfl rfl rfl rfl⟩
  · have hreg := cntReg_page (k := 2 * p.val + 1) (by omega)
    rw [s.readOut_rest (by omega) hserved (by omega), s.restRead_cntLive p.isLt hlink hpend]
    obtain ⟨hbit, htold, honly⟩ := s.seqMark p.isLt
    exact ⟨rfl, hbit, htold, only_upd honly⟩
  · rw [s.readOut_rest (by decide) hserved (by decide), s.restRead_low (by decide) (by decide) rfl rfl, if_pos rfl]
    refine ⟨?_, State.get_put_same _ 0 (by decide), ?_, only_upd (only_trans (s.only_shadowSet _ _) (only_put _ List.mem_cons_self))⟩
    · exact congrArg (fun n => [n]) (s.get_whole _).symm
    · exact (s.mapFind_shadowSet _ _).trans (congrArg some (BitVec.ofNat_toNat _ _))

end Sys2Proof.Machine
end

/-! PROOFS. O15: the write-one-to-clear and the subtracting registers of the header (R413, R415) and COMPAT_LEVEL (R418). -/
section
namespace Sys2Proof.Machine

section
variable (s : State)

/-! ## INT_CLR -/

theorem State.intClr_reg {page : Nat} (v : Word) (hoff : s.pwr.off = false) (hhdr : s.hdrOn page = true) :
    (s.intClr page v.toNat).reg (intRaw page).reg = s.reg (intRaw page).reg &&& ~~~v := by
  unfold State.intClr
  rw [if_neg (by simp [hoff, hhdr]), State.put, State.reg_setReg_same]
  refine BitVec.eq_of_getLsbD_eq fun i hi => ?_
  have hword : s.get (intRaw page) = (s.reg (intRaw page).reg).toNat := s.get_whole _
  have hv : v.toNat.testBit i = v.getLsbD i := (BitVec.testBit_toNat v)
  have hold : (s.reg (intRaw page).reg).toNat.testBit i = (s.reg (intRaw page).reg).getLsbD i := BitVec.testBit_toNat _
  rw [BitVec.getLsbD_ofNat, testBit_insBits, hword, toNat_mod_word, maskSub, if_pos ⟨Nat.zero_le i, hi.trans_eq (Nat.zero_add 32).symm⟩,
    Nat.testBit_xor, Nat.testBit_and, show i - (intRaw page).lo = i from Nat.sub_zero i, hold, hv, BitVec.getLsbD_and,
    BitVec.getLsbD_not]
  cases (s.reg (intRaw page).reg).getLsbD i <;> cases v.getLsbD i <;> simp [hi]

theorem State.intClr_only (page v : Nat) : only s (s.intClr page v) [(intRaw page).reg] :=
  only_ite only_refl (only_put _ List.mem_cons_self)

/-! ## The event counters -/

/-- A byte written to an event-counter word is subtracted from its counter. -/
def State.evtSub (page n v : Nat) (s : State) (j : Nat) : State :=
  s.put (evtCnt page (4 * n + j)) (s.get (evtCnt page (4 * n + j)) - bits v (8 * j) 8)

theorem evtCnt_byte (page n : Nat) {j : Nat} (hj : j < 4) : evtCnt page (4 * n + j) = ⟨page * 4096 + 0x020 + 4 * n, 8 * j, 8⟩ := by
  have hdiv : (4 * n + j) / 4 = n := by omega
  have hmod : (4 * n + j) % 4 = j := by omega
  rw [evtCnt, hdiv, hmod]

theorem State.get_evtSub (page n v : Nat) {i j : Nat} (hi : i < 4) (hj : j < 4) :
    (State.evtSub page n v s i).get (evtCnt page (4 * n + j)) =
      s.get (evtCnt page (4 * n + j)) - (if j = i then bits v (8 * j) 8 else 0) := by
  unfold State.evtSub
  split
  · next h =>
    subst h
    have hlt := s.get_lt (evtCnt page (4 * n + j))
    exact s.get_put_fits (by rw [evtCnt_byte page n hj]; dsimp only; omega) (by omega)
  · next h =>
    exact s.get_put_bits _ (by rw [evtCnt_byte page n hi, evtCnt_byte page n hj]; dsimp only; omega)

theorem State.get_foldl_evtSub (page n v : Nat) {j : Nat} (hj : j < 4) (is : List Nat) (his : ∀ i ∈ is, i < 4) (hnodup : is.Nodup) :
    (is.foldl (State.evtSub page n v) s).get (evtCnt page (4 * n + j)) =
      s.get (evtCnt page (4 * n + j)) - (if j ∈ is then bits v (8 * j) 8 else 0) := by
  induction is generalizing s with
  | nil => simp
  | cons i is ih =>
    obtain ⟨hi, his⟩ := List.forall_mem_cons.1 his
    obtain ⟨hnot, hnodup⟩ := List.nodup_cons.1 hnodup
    rw [List.foldl_cons, ih _ his hnodup, s.get_evtSub page n v hi hj]
    by_cases h : j = i
    · subst h
      rw [if_pos rfl, if_neg hnot, if_pos List.mem_cons_self, Nat.sub_zero]
    · simp only [h, if_false, Nat.sub_zero, List.mem_cons, false_or]

theorem State.evtCntWrite_eq {page : Nat} (n v : Nat) (hoff : s.pwr.off = false) (hhdr : s.hdrOn page = true) :
    s.evtCntWrite page n v = (List.range 4).foldl (State.evtSub page n v) s := by
  unfold State.evtCntWrite
  rw [if_neg (by simp [hoff, hhdr])]
  rfl

theorem State.foldl_evtSub_only (page n v : Nat) :
    only s ((List.range 4).foldl (State.evtSub page n v) s) [(evtCnt page (4 * n)).reg] := by
  refine only_foldl _ fun u j hj => only_put _ ?_
  rw [evtCnt_byte page n (List.mem_range.1 hj), show 4 * n = 4 * n + 0 from rfl, evtCnt_byte page n (by decide)]
  exact List.mem_cons_self

/-! ## COMPAT_LEVEL -/

/-- REFUSED is cleared where its bit is written 1. -/
def State.refusedClr (s : State) (v : Nat) : State := if bit v 24 then s.put R.REG_COMPAT_REFUSED 0 else s

theorem State.refusedClr_only (v : Nat) : only s (s.refusedClr v) [R.REG_COMPAT_REFUSED.reg] :=
  only_ite (only_put _ List.mem_cons_self) only_refl

theorem State.refusedClr_fields (v : Nat) :
    (s.refusedClr v).job = s.job ∧ (s.refusedClr v).pwr = s.pwr ∧ (s.refusedClr v).fuse = s.fuse := by
  unfold State.refusedClr
  split
  · exact ⟨State.put_job .., State.put_pwr .., State.put_fuse ..⟩
  · exact ⟨rfl, rfl, rfl⟩

theorem State.refusedClr_level (v : Nat) : (s.refusedClr v).compatLevel = s.compatLevel :=
  State.ite_of (P := fun t : State => t.compatLevel = s.compatLevel) (s.get_put_bits _ (by decide)) rfl

theorem State.refusedClr_min (v : Nat) : (s.refusedClr v).get R.REG_COMPAT_MIN = s.get R.REG_COMPAT_MIN :=
  State.ite_of (P := fun t : State => t.get R.REG_COMPAT_MIN = s.get R.REG_COMPAT_MIN) (s.get_put_bits _ (by decide)) rfl

theorem State.refusedClr_max (v : Nat) : (s.refusedClr v).compatMax = s.compatMax := by
  unfold State.compatMax State.fuseNum State.fuseByte
  rw [(s.refusedClr_fields v).2.2]

theorem State.refusedClr_job (v : Nat) : (s.refusedClr v).jobRunning = s.jobRunning := by
  rw [State.jobRunning, State.jobRunning, s.refusedClr_fields v |>.1]

theorem State.refusedClr_idle (v : Nat) : (s.refusedClr v).isIdle = s.isIdle := by
  have hpower : (s.refusedClr v).power = s.power := State.get_of_only (s.refusedClr_only v) (by decide)
  unfold State.isIdle
  rw [hpower, (s.refusedClr_fields v).2.1]

/-- A level that differs from the one in force. -/
theorem State.compatWrite_eq {v : Nat} (hoff : s.pwr.off = false) (hdiff : v % 256 ≠ s.compatLevel) :
    s.compatWrite v =
      if s.isIdle && !s.jobRunning && decide (s.get R.REG_COMPAT_MIN ≤ v % 256) && decide (v % 256 ≤ s.compatMax) then
        (s.refusedClr v).put R.REG_COMPAT_LEVEL (v % 256)
      else (s.refusedClr v).put R.REG_COMPAT_REFUSED 1 := by
  have hall : s.compatWrite v = if s.pwr.off then s else if v % 256 = (s.refusedClr v).compatLevel then s.refusedClr v
    else if (s.refusedClr v).isIdle && !(s.refusedClr v).jobRunning && decide ((s.refusedClr v).get R.REG_COMPAT_MIN ≤ v % 256) &&
        decide (v % 256 ≤ (s.refusedClr v).compatMax) then (s.refusedClr v).put R.REG_COMPAT_LEVEL (v % 256)
    else (s.refusedClr v).put R.REG_COMPAT_REFUSED 1 := rfl
  rw [hall, if_neg (by simp [hoff]), s.refusedClr_level, if_neg hdiff, s.refusedClr_idle, s.refusedClr_job, s.refusedClr_min,
    s.refusedClr_max]

end

/-- Settles O15: each of the four writes changes one register. -/
theorem headerRegistersAndCompatLevel : Obligations.HeaderRegistersAndCompatLevel := by
  refine ⟨fun s page v hoff hhdr => ⟨⟨_, rfl, s.intClr_reg v hoff hhdr, s.intClr_only page _⟩, fun n => ⟨_, rfl, ?_⟩⟩,
    fun s v hoff hdiff => ⟨fun hidle hjob hmin hmax => ⟨_, rfl, ?_⟩, fun hbad => ⟨_, rfl, ?_⟩⟩⟩
  · rw [s.evtCntWrite_eq n.val v.toNat hoff hhdr]
    refine ⟨fun j hj => ?_, s.foldl_evtSub_only page n.val v.toNat⟩
    rw [s.get_foldl_evtSub page n.val v.toNat hj _ (fun i hi => List.mem_range.1 hi) List.nodup_range,
      if_pos (List.mem_range.2 hj)]
  · rw [s.compatWrite_eq hoff hdiff, if_pos (by simp [hidle, hjob, hmin, hmax])]
    exact ⟨State.get_put_fits _ (by decide) (Nat.mod_lt _ (by decide)),
      only_trans (only_mono (s.refusedClr_only _) (by decide)) (only_put _ List.mem_cons_self)⟩
  · have hno : ¬(s.isIdle && !s.jobRunning && decide (s.get R.REG_COMPAT_MIN ≤ v.toNat % 256) &&
        decide (v.toNat % 256 ≤ s.compatMax)) = true := by
      simp only [Bool.and_eq_true, Bool.not_eq_true', decide_eq_true_eq]
      rintro ⟨⟨⟨hidle, hjob⟩, hmin⟩, hmax⟩
      simp only [hidle, hjob, Bool.true_eq_false, false_or, reduceCtorEq] at hbad
      omega
    rw [s.compatWrite_eq hoff hdiff, if_neg hno]
    exact ⟨(State.get_put_bits _ _ (by decide)).trans (s.refusedClr_level _), State.get_put_fits _ (by decide) (by decide),
      only_trans (s.refusedClr_only _) (only_put _ List.mem_cons_self)⟩

end Sys2Proof.Machine
end

/-! PROOFS. O16 and O17: register writes by access code, boundary-timed writes, COMMIT (R407–R414). -/
section
namespace Sys2Proof.Machine

/-! ## Sparse tables: a part taken from another -/

section
variable {α : Type}

theorem mapFind_filter (sel : Nat → Bool) (m : SMap α) (i : Nat) :
    mapFind (m.filter (fun (k, _) => sel k)) i = if sel i then mapFind m i else none := by
  induction m with
  | nil => simp [mapFind]
  | cons p m ih =>
    obtain ⟨k, w⟩ := p
    rw [List.filter_cons]
    by_cases hk : k = i
    · subst hk
      by_cases hsel : sel k = true
      · simp [hsel, mapFind]
      · simp only [hsel, Bool.false_eq_true, if_false]
        exact ih.trans (if_neg hsel)
    · by_cases hsel : sel k = true
      · simp only [hsel, if_true, mapFind, hk, if_false]
        exact ih
      · simp only [hsel, Bool.false_eq_true, if_false, mapFind, hk]
        exact ih

variable [DecidableEq α] {dflt : Nat → α}

theorem mapFind_none_of_le {m : SMap α} {l i : Nat} (h : mapWfFrom dflt (some l) m = true) (hi : i ≤ l) : mapFind m i = none := by
  induction m generalizing l with
  | nil => rfl
  | cons p m ih =>
    obtain ⟨k, w⟩ := p
    simp only [mapWfFrom, Bool.and_eq_true, decide_eq_true_eq] at h
    obtain ⟨⟨hlt, -⟩, hrest⟩ := h
    rw [mapFind, if_neg (by omega), ih hrest (by omega)]

theorem mapFind_merge {n : SMap α} {lo : Option Nat} (h : mapWfFrom dflt lo n = true) (m : SMap α) (i : Nat) :
    mapFind (mapMerge m n) i = (mapFind n i).or (mapFind m i) := by
  unfold mapMerge
  induction n generalizing m lo with
  | nil => rfl
  | cons p n ih =>
    obtain ⟨k, w⟩ := p
    simp only [mapWfFrom, Bool.and_eq_true] at h
    rw [List.foldl_cons, ih h.2]
    by_cases hk : k = i
    · subst hk
      rw [mapFind_ins_same, mapFind_none_of_le h.2 (Nat.le_refl k), mapFind, if_pos rfl]
      rfl
    · rw [mapFind_ins_other _ _ (Ne.symm hk), mapFind, if_neg hk]

/-- Where the test holds, a table reads what the canonical table it was taken from reads. -/
theorem mapGet_take {n : SMap α} {sel : Nat → Bool} {i : Nat} (h : mapWf dflt n = true) (hi : sel i = true) (d : α) (m : SMap α) :
    mapGet d (mapTake sel m n) i = mapGet d n i := by
  have hnot : mapFind (m.filter (fun (k, _) => !sel k)) i = none := by
    rw [mapFind_filter (fun k => !sel k), hi]
    rfl
  have hfind : mapFind (mapTake sel m n) i = mapFind n i := by
    rw [mapTake, mapFind_merge (mapWf_filter _ h), hnot, mapFind_filter, if_pos hi, Option.or_none]
  rw [mapGet, hfind, mapGet]

end

theorem mem_setAdd (xs : List Nat) (x : Nat) : x ∈ setAdd xs x := by
  unfold setAdd
  split
  · next h => exact List.contains_iff_mem.1 h
  · exact List.mem_append_right _ (List.mem_singleton.2 rfl)

/-! ## Words written by access code -/

theorem testBit_maskSub (a b i : Nat) : (maskSub a b).testBit i = (a.testBit i && !b.testBit i) := by
  rw [maskSub, Nat.testBit_xor, Nat.testBit_and]
  cases a.testBit i <;> cases b.testBit i <;> rfl

theorem testBit_writtenWord (r : RegRow) (old v i : Nat) : (writtenWord r old v).testBit i =
    ((old.testBit i && !r.rw.testBit i || v.testBit i && r.rw.testBit i) && !(v.testBit i && r.w1c.testBit i)) := by
  rw [writtenWord, testBit_maskSub, Nat.testBit_or, testBit_maskSub, Nat.testBit_and, Nat.testBit_and]

section
variable (s : State)

/-- A field all of whose bits are RW takes the written value. -/
theorem State.get_writeWord_rw {f : Fld} {r : RegRow} (hrow : regRow f.reg = some r) (hfit : f.lo + f.w ≤ 32)
    (hrw : ∀ i < f.w, r.rw.testBit (f.lo + i) = true ∧ r.w1c.testBit (f.lo + i) = false) (v : Nat) :
    (s.writeWord f.reg v).get f = bits v f.lo f.w := by
  rw [State.writeWord_eq hrow, State.get, State.reg_setReg_same]
  refine Nat.eq_of_testBit_eq fun i => ?_
  rw [testBit_bits, testBit_bits, BitVec.toNat_ofNat, Nat.testBit_mod_two_pow, testBit_writtenWord]
  by_cases hi : i < f.w
  · obtain ⟨hset, hclr⟩ := hrw i hi
    simp [hi, hset, hclr, show f.lo + i < 32 by omega]
  · simp [hi]

theorem State.writeWord_only (a v : Nat) : only s (s.writeWord a v) [a] := by
  unfold State.writeWord
  split
  · exact only_refl
  · exact only_setReg _ List.mem_cons_self

theorem State.nextWrite_only (a v : Nat) : only s (s.nextWrite a v) [a] := only_upd (s.writeWord_only a v)

theorem State.mem_nextWrite (a v : Nat) : a ∈ (s.nextWrite a v).nextPend := mem_setAdd _ _

theorem State.get_nextWrite_rw {f : Fld} {r : RegRow} (hrow : regRow f.reg = some r) (hfit : f.lo + f.w ≤ 32)
    (hrw : ∀ i < f.w, r.rw.testBit (f.lo + i) = true ∧ r.w1c.testBit (f.lo + i) = false) (v : Nat) :
    (s.nextWrite f.reg v).get f = bits v f.lo f.w := s.get_writeWord_rw hrow hfit hrw v

/-! ## A register write by page -/

theorem State.regWrite_ignored {a v : Nat}
    (h : s.servedAt a = false ∨ a % 4 ≠ 0 ∨ (0x040 ≤ a % 4096 ∧ regRow a = none)) : s.regWrite a v = s := by
  unfold State.regWrite
  by_cases hserved : a % 4 ≠ 0 ∨ s.servedAt a = false
  · rw [if_pos (by simpa using hserved)]
  · push Not at hserved
    obtain ⟨halign, hserved⟩ := hserved
    obtain ⟨hoff, hrow⟩ : 0x040 ≤ a % 4096 ∧ regRow a = none := by
      rcases h with h | h | h
      · exact absurd h hserved
      · exact absurd halign h
      · exact h
    rw [if_neg (by simp [halign, Bool.eq_true_of_not_eq_false hserved]), if_neg (by omega), hrow]
    rfl

theorem State.regWrite_rest {a v : Nat} {r : RegRow} (halign : a % 4 = 0) (hserved : s.servedAt a = true) (hoff : 0x040 ≤ a % 4096)
    (hrow : regRow a = some r) : s.regWrite a v = s.restWrite a v := by
  unfold State.regWrite
  rw [if_neg (by simp [halign, hserved]), if_neg (by omega), hrow]
  rfl

/-- In the pages EXP, RDO and DEV a register past the first is stored by its kind. -/
theorem State.restWrite_plain {a v : Nat} (hpage : a / 4096 = 0x014 ∨ a / 4096 = 0x015 ∨ a / 4096 = 0x01B) (hoff : 0x040 < a % 4096) :
    s.restWrite a v = s.plainWrite a v := by
  unfold State.restWrite
  rcases hpage with h | h | h <;> rw [h]
  · exact (if_neg (by omega)).trans (congrArg (s.plainWrite · v) (by omega))
  · exact (if_neg (by omega)).trans (congrArg (s.plainWrite · v) (by omega))
  · exact congrArg (s.plainWrite · v) (by omega)

theorem State.plainWrite_stored {a v : Nat} {r : RegRow} (hrow : regRow a = some r) (hkind : r.kind = .imm ∨ r.kind = .shadow) :
    s.plainWrite a v = s.writeWord a v := by
  unfold State.plainWrite
  rw [regKind_of_row hrow]
  rcases hkind with h | h <;> rw [h]

theorem State.plainWrite_next {a v : Nat} {r : RegRow} (hrow : regRow a = some r) (hkind : r.kind = .nextTick) :
    s.plainWrite a v = s.nextWrite a v := by
  unfold State.plainWrite
  rw [regKind_of_row hrow, hkind]

theorem State.plainWrite_ro {a v : Nat} {r : RegRow} (hrow : regRow a = some r) (hkind : r.kind = .ro) : s.plainWrite a v = s := by
  unfold State.plainWrite
  rw [regKind_of_row hrow, hkind]

theorem State.reg_writeWord {a v : Nat} {r : RegRow} (hrow : regRow a = some r) :
    (s.writeWord a v).reg a = BitVec.ofNat 32 (writtenWord r (s.reg a).toNat v) := by
  rw [State.writeWord_eq hrow, State.reg_setReg_same]

/-! ## INT_MASK -/

theorem State.regWrite_intMask {page v : Nat} (hoff : s.pwr.off = false) (hhdr : s.hdrOn page = true) :
    s.regWrite (intMask page).reg v = s.intMaskWrite page v := by
  have hmod : (intMask page).reg % 4096 = 0x014 := by simp only [intMask]; omega
  have hdiv : (intMask page).reg / 4096 = page := by simp only [intMask]; omega
  have hserved : s.servedAt (intMask page).reg = true := by
    unfold State.servedAt hdrServed
    rw [hmod, hdiv, hoff, hhdr]
    rfl
  have halign : (intMask page).reg % 4 = 0 := by simp only [intMask]; omega
  unfold State.regWrite
  rw [if_neg (by simp [halign, hserved]), hmod, hdiv, if_pos (by decide)]
  unfold State.hdrWrite
  rw [if_neg (by decide), if_pos rfl]

theorem State.settleFrom_only (t : State) {L : List Nat} : only t (s.settleFrom t) L := by
  obtain ⟨y, m, h⟩ := s.settleFrom_eq t
  rw [h]
  exact only_of_eq rfl rfl rfl rfl rfl

theorem State.intMaskWrite_only (page v : Nat) : only s (s.intMaskWrite page v) [(intMask page).reg] :=
  only_trans (only_put _ List.mem_cons_self) (State.settleFrom_only _ _)

theorem pageInts_lt (page : Nat) : pageInts page < 2 ^ 32 := by
  have hfind : ∀ (rows : List PageRow) (p : PageRow), findPage rows page = some p → p ∈ rows := by
    intro rows
    induction rows with
    | nil => intro p h; cases h
    | cons r rows ih =>
      intro p h
      unfold findPage at h
      split at h
      · exact List.mem_cons.2 (.inl (Option.some.inj h).symm)
      · exact List.mem_cons_of_mem _ (ih p h)
  unfold pageInts
  split
  · decide
  · next p h => exact (by decide : ∀ p ∈ pageTable, p.intBits < 2 ^ 32) p (hfind _ p h)

theorem State.get_intMaskWrite (page : Nat) (v : Word) : (s.intMaskWrite page v.toNat).get (intMask page) = v.toNat &&& pageInts page := by
  refine (State.get_of_only (State.settleFrom_only s _) List.not_mem_nil).trans ?_
  exact s.get_put_fits (f := intMask page) (Nat.le_refl 32) (lt_of_le_of_lt Nat.and_le_left v.isLt)

end

/-- Settles O16: a write that is not served or names no register is ignored; in EXP, RDO and DEV the register's kind says what a write
stores; INT_MASK is its page's mask of defined bits. -/
theorem registerWritesStoreByAccessCode : Obligations.RegisterWritesStoreByAccessCode := by
  refine ⟨fun s a v h => congrArg Host.Outcome.next (s.regWrite_ignored h), fun s a v r hpage hoff halign hserved hrow => ?_,
    fun s page v hoff hhdr => ⟨_, rfl, ?_⟩⟩
  · have hwrite : s.regWrite a v.toNat = s.plainWrite a v.toNat :=
      (s.regWrite_rest halign hserved hoff.le hrow).trans (s.restWrite_plain hpage hoff)
    refine ⟨fun hkind => ⟨_, rfl, ?_⟩, fun hkind => ⟨_, rfl, ?_⟩, fun hkind => congrArg Host.Outcome.next ?_⟩
    · rw [hwrite, s.plainWrite_stored hrow hkind]
      exact ⟨s.reg_writeWord hrow, s.writeWord_only _ _⟩
    · rw [hwrite, s.plainWrite_next hrow hkind]
      exact ⟨s.reg_writeWord hrow, s.mem_nextWrite _ _, s.nextWrite_only _ _⟩
    · exact hwrite.trans (s.plainWrite_ro hrow hkind)
  · rw [s.regWrite_intMask hoff hhdr]
    exact ⟨s.get_intMaskWrite page v, s.intMaskWrite_only page _⟩

section
variable (s : State)

/-! ## Boundary-timed writes and COMMIT -/

theorem State.calEnd_force (code : Nat) : (s.calEnd code).force = s.force := by
  unfold State.calEnd
  dsimp only
  rw [State.raise_force]
  split
  · rw [State.put_force, State.put_force, State.put_force, State.put_force]
  · rw [State.put_force, State.put_force, State.put_force]

theorem State.calAbort_force : s.calAbort.force = s.force :=
  State.ite_of (P := fun t : State => t.force = s.force) rfl (s.calEnd_force 7)

theorem State.tickSrcWrite_eq (v : Nat) : s.tickSrcWrite v = if !s.served 0x017 then s else if s.jobRunning then s.raise E.TICK_SRC_REFUSED
    else s.calAbort.nextWrite R.TICK_SRC_SRC.reg v := rfl

theorem State.expModeWrite_eq (v : Nat) : s.expModeWrite v = if !s.served 0x014 then s
    else if s.jobRunning || decide (v % 4 = 3) then s.raise E.EXP_MODE_REFUSED
    else s.calAbort.nextWrite R.EXP_MODE_MODE.reg v := rfl

theorem State.webDirWrite_eq (v : Nat) : s.webDirWrite v = if !s.served 0x015 then s else if s.jobRunning then s.raise E.RDO_DIR_REFUSED
    else s.nextWrite R.RDO_CTRL_WEB_DIR.reg v := rfl

end

/-- The rows of the three registers that a running job keeps from being written. -/
def rowTickSrc : RegRow := ⟨0x044, 0x0, 1, 0x0, 1, .nextTick, 0xF07, 0x0, 0x0, 0x0, 0x400⟩
def rowExpMode : RegRow := ⟨0x040, 0x0, 1, 0x0, 1, .nextTick, 0x3, 0x0, 0x0, 0x0, 0x0⟩
def rowRdoCtrl : RegRow := ⟨0x040, 0x0, 1, 0x0, 1, .nextTick, 0x1, 0x0, 0x0, 0x0, 0x0⟩

/-- Settles O17: behind the refusals each write is one next-boundary write, a calibration run given up before it; a COMMIT takes the
page's part of the canonical register table. -/
theorem boundaryWritesAndCommitWait : Obligations.BoundaryWritesAndCommitWait := by
  refine ⟨fun s v => ⟨fun hserved hjob => ⟨_, rfl, ?_⟩, fun hserved hjob => ⟨_, rfl, ?_⟩, fun hserved hjob hmode => ⟨_, rfl, ?_⟩,
    fun hserved hbad => ⟨_, rfl, ?_⟩, fun hserved hjob => ⟨_, rfl, ?_⟩, fun hserved hjob => ⟨_, rfl, ?_⟩⟩,
    fun s page hcanon hserved hcommits => ⟨_, rfl, ?_⟩⟩
  · rw [s.tickSrcWrite_eq, if_neg (by simp [hserved]), if_neg (by simp [hjob])]
    exact ⟨(State.get_nextWrite_rw _ (r := rowTickSrc) rfl (by decide) (by decide) _).trans (by simp [bits, R.TICK_SRC_SRC]),
      State.mem_nextWrite _ _ _, (State.nextWrite_only _ _ _).2.1.trans s.calAbort_force⟩
  · rw [s.tickSrcWrite_eq, if_neg (by simp [hserved]), if_pos hjob]
    exact told_raise_only s (by decide)
  · rw [s.expModeWrite_eq, if_neg (by simp [hserved]), if_neg (by simp [hjob, hmode])]
    exact ⟨(State.get_nextWrite_rw _ (r := rowExpMode) rfl (by decide) (by decide) _).trans (by simp [bits, R.EXP_MODE_MODE]),
      State.mem_nextWrite _ _ _, (State.nextWrite_only _ _ _).2.1.trans s.calAbort_force⟩
  · rw [s.expModeWrite_eq, if_neg (by simp [hserved]), if_pos (by simpa using hbad)]
    exact told_raise_only s (by decide)
  · rw [s.webDirWrite_eq, if_neg (by simp [hserved]), if_neg (by simp [hjob])]
    exact ⟨(State.get_nextWrite_rw _ (r := rowRdoCtrl) rfl (by decide) (by decide) _).trans (by simp [bits, R.RDO_CTRL_WEB_DIR]),
      State.mem_nextWrite _ _ _, State.nextWrite_only _ _ _⟩
  · rw [s.webDirWrite_eq, if_neg (by simp [hserved]), if_pos hjob]
    exact told_raise_only s (by decide)
  · obtain ⟨-, hregs, -, -⟩ := hcanon
    unfold State.pageCommit
    rw [if_neg (by simp [hserved, hcommits])]
    exact ⟨mem_setAdd _ _, fun a ha => mapGet_take hregs ha _ _, only_of_eq rfl rfl rfl rfl rfl⟩

end Sys2Proof.Machine
end

/-! PROOFS. O40: the host's ring pointers and the events sent on port H (R236, R251, R294). -/
section
namespace Sys2Proof.Machine

section
variable (s : State)

/-- An offset that the host writes, by whether it lies between RD and SENT. -/
theorem State.ringRdWrite_eq {r v : Nat} (hserved : s.served 0x020 = true) : s.ringRdWrite r v =
    if (decide (s.ringUnits r ≠ 0) &&
        decide (ringDist (s.ringUnits r) (s.ringRd r) (v % s.ringUnits r) ≤ ringDist (s.ringUnits r) (s.ringRd r) (s.ringSent r))) = true
    then s.put (R.RINGr_RD_OFS r) (v % s.ringUnits r)
    else if v = s.ringRd r then s else s.put (R.RINGr_STAT_RD_BAD r) 1 := by
  unfold State.ringRdWrite
  rw [if_neg (by simp [hserved])]

theorem State.streamForget_only (r : Nat) {L : List Nat} : only s (s.streamForget r) L :=
  only_ite (only_of_eq rfl rfl rfl rfl rfl) (only_of_eq rfl rfl rfl rfl rfl)

/-- The register of a ring that a configuration write stores. -/
def ringCfgFld (r : Nat) (size : Bool) : Fld := if size then R.RINGr_SIZE_SIZE r else R.RINGr_BASE_BASE r

theorem ringCfgFld_eq (r : Nat) (size : Bool) : ringCfgFld r size = ⟨(if size then 0x20104 else 0x20100) + 0x20 * r, 0, 25⟩ := by
  cases size <;> rfl

theorem State.ringCfgWrite_free {r : Nat} {size : Bool} {v : Nat} (hserved : s.served 0x020 = true) (hjob : s.job.active = none)
    (hmode : s.get R.EXP_STAT_MODE_ACT = 0) : s.ringCfgWrite r size v =
    ((((s.streamForget r).put (ringCfgFld r size) v).put (R.RINGr_WR_OFS r) 0).put (R.RINGr_SENT_OFS r) 0).put (R.RINGr_RD_OFS r) 0 := by
  unfold State.ringCfgWrite
  rw [if_neg (by simp [hserved]), if_neg (by simp [hjob, hmode])]
  rfl

theorem State.ringCfgWrite_refused {r : Nat} {size : Bool} {v : Nat} (hserved : s.served 0x020 = true)
    (h : s.job.active.isSome = true ∨ s.get R.EXP_STAT_MODE_ACT ≠ 0) : s.ringCfgWrite r size v = s.raise E.RING_CFG_REFUSED := by
  unfold State.ringCfgWrite
  rw [if_neg (by simp [hserved]), if_pos (by simpa using h)]

theorem State.portOf_setPort (p : Nat) (x : Port) : (s.setPort p x).portOf p = x := mapGet_set_same _ _ _ _

end

/-- Settles O40: each write is one register or its refusal; the event goes from its queue to port H's. -/
theorem ringPointersAndEvents : Obligations.RingPointersAndEvents := by
  refine ⟨fun s r v hserved => ⟨_, rfl, ?_⟩, fun s r size v hserved hjob hmode => ⟨_, rfl, ?_⟩,
    fun s r size v hserved h => ⟨_, rfl, ?_⟩, fun s e rest hq hup => ⟨_, rfl, ?_⟩⟩
  · refine ⟨fun hfits => ?_, fun hfits hne => ?_⟩
    · rw [s.ringRdWrite_eq hserved, if_pos hfits]
      exact ⟨s.get_put_fits (f := R.RINGr_RD_OFS r.val) (Nat.le_refl 32)
        (lt_of_le_of_lt (Nat.mod_le _ _) v.isLt), only_put _ List.mem_cons_self⟩
    · rw [s.ringRdWrite_eq hserved, if_neg (by rw [hfits]; decide), if_neg hne]
      exact ⟨s.get_put_fits (f := R.RINGr_STAT_RD_BAD r.val) (Nat.le_of_ble_eq_true rfl) (Nat.one_lt_two), only_put _ List.mem_cons_self⟩
  · rw [s.ringCfgWrite_free hserved hjob hmode]
    set f := ringCfgFld r.val size with hf
    have hwr : f.reg ≠ (R.RINGr_WR_OFS r.val).reg ∧ f.reg ≠ (R.RINGr_SENT_OFS r.val).reg ∧ f.reg ≠ (R.RINGr_RD_OFS r.val).reg := by
      rw [hf, ringCfgFld_eq]
      simp only [R.RINGr_WR_OFS, R.RINGr_SENT_OFS, R.RINGr_RD_OFS]
      split <;> omega
    obtain ⟨hwr, hsent, hrd⟩ := hwr
    have hsame (u : State) (g : Fld) (hg : g.lo + g.w ≤ 32) : (u.put g 0).get g = 0 := (u.get_put_same 0 hg).trans (Nat.zero_mod _)
    refine ⟨?_, ?_, ?_, hsame _ _ (Nat.le_refl 32), only_trans (only_trans (only_trans (only_trans (s.streamForget_only _)
      (only_put _ List.mem_cons_self)) (only_put _ ?_)) (only_put _ ?_)) (only_put _ ?_)⟩
    · change State.get _ f = _
      rw [State.get_put_reg _ _ hrd, State.get_put_reg _ _ hsent, State.get_put_reg _ _ hwr,
        State.get_put_same _ _ (by rw [hf, ringCfgFld_eq]; exact Nat.le_of_ble_eq_true rfl), hf, ringCfgFld_eq]
    · rw [State.ringWr, State.get_put_reg _ _ (by simp only [R.RINGr_WR_OFS, R.RINGr_RD_OFS]; omega),
        State.get_put_reg _ _ (by simp only [R.RINGr_WR_OFS, R.RINGr_SENT_OFS]; omega), hsame _ (R.RINGr_WR_OFS r.val) (Nat.le_refl 32)]
    · rw [State.ringSent, State.get_put_reg _ _ (by simp only [R.RINGr_SENT_OFS, R.RINGr_RD_OFS]; omega), hsame _ (R.RINGr_SENT_OFS r.val) (Nat.le_refl 32)]
    all_goals simp only [List.mem_cons, true_or, or_true]
  · rw [s.ringCfgWrite_refused hserved h]
    exact told_raise_only s (by decide)
  · have hsend : s.eventSend = State.txPush { s with evtQ := rest } 0 { vc := e.vc, type := 0x03, payload := e.payload } := by
      unfold State.eventSend
      rw [hq]
      exact if_pos hup
    rw [hsend]
    have hport := State.portOf_setPort { s with evtQ := rest } 0
      { s.portOf 0 with tx := (s.portOf 0).tx ++ [{ vc := e.vc, type := 0x03, payload := e.payload }], idleAt := s.now }
    exact ⟨rfl, congrArg Port.tx hport, congrArg Port.idleAt hport, only_of_eq rfl rfl rfl rfl rfl⟩

end Sys2Proof.Machine
end

/-! PROOFS. O51: the SYS monitors' clear and the ROLLUP events (R401, R404). -/
section
namespace Sys2Proof.Machine

/-! ## Clearing the monitors -/

/-- The registers of SYS monitor m: 0x60 bytes from its minimum on. -/
def monSpan (m : Nat) : List Nat := (List.range 24).map (fun i => 0x2C400 + 0x60 * m + 4 * i)

theorem mem_monSpan {m a : Nat} : a ∈ monSpan m ↔ ∃ i < 24, 0x2C400 + 0x60 * m + 4 * i = a := by
  simp only [monSpan, List.mem_map, List.mem_range]

/-- A monitor's empty state (R401). -/
def monEmpty (t : State) (m : Nat) : Prop :=
  t.get (R.SYS_MONm_MIN_VAL m) = 0x7FFFFFFF ∧ t.get (R.SYS_MONm_MAX_VAL m) = 0x80000000 ∧
    ∀ i, i < 16 → t.get (R.SYS_MONm_BINi_COUNT m i) = 0

theorem sysMon_bin (m i : Nat) : (sysMon m).bin i = R.SYS_MONm_BINi_COUNT m i := by
  simp only [sysMon, Mon.bin, R.SYS_MONm_BINi_COUNT, Nat.mul_zero, Nat.add_zero]

section
variable (s : State)

theorem State.binsZero_only (m n : Nat) (hn : n ≤ 16) :
    only s ((List.range n).foldl (fun s i => s.put ((sysMon m).bin i) 0) s) ((List.range 16).map (fun i => ((sysMon m).bin i).reg)) :=
  only_foldl _ fun _ i hi => only_put _ (List.mem_map.2 ⟨i, List.mem_range.2 ((List.mem_range.1 hi).trans_le hn), rfl⟩)

theorem State.binsZero_get (m n : Nat) {i : Nat} (hi : i < n) :
    ((List.range n).foldl (fun s i => s.put ((sysMon m).bin i) 0) s).get (R.SYS_MONm_BINi_COUNT m i) = 0 := by
  induction n with
  | zero => exact absurd hi (Nat.not_lt_zero i)
  | succ n ih =>
    rw [List.range_succ, List.foldl_append, List.foldl_cons, List.foldl_nil, sysMon_bin]
    by_cases h : i = n
    · rw [h]
      exact (State.get_put_same _ (f := R.SYS_MONm_BINi_COUNT m n) 0 (Nat.le_refl 32)).trans (Nat.zero_mod _)
    · rw [State.get_put_reg _ _ (by simp only [R.SYS_MONm_BINi_COUNT]; omega)]
      exact ih (by omega)

theorem State.monClear_only (m : Nat) : only s (s.monClear (sysMon m)) (monSpan m) := by
  refine only_trans (only_trans (only_put _ ?_) (only_put _ ?_)) (only_mono (State.binsZero_only _ m 16 (Nat.le_refl 16)) ?_)
  · exact mem_monSpan.2 ⟨0, by decide, by simp only [sysMon, R.SYS_MONm_MIN_VAL]; omega⟩
  · exact mem_monSpan.2 ⟨1, by decide, by simp only [sysMon, R.SYS_MONm_MAX_VAL]; omega⟩
  · intro a ha
    obtain ⟨i, hi, rfl⟩ := List.mem_map.1 ha
    rw [sysMon_bin]
    exact mem_monSpan.2 ⟨i + 2, by have := List.mem_range.1 hi; omega, by simp only [R.SYS_MONm_BINi_COUNT]; omega⟩

theorem State.monClear_empty (m : Nat) : monEmpty (s.monClear (sysMon m)) m := by
  have hbins (u : State) (f : Fld) (hf : f.reg < 0x2C408 + 0x60 * m) :
      ((List.range 16).foldl (fun s i => s.put ((sysMon m).bin i) 0) u).get f = u.get f := by
    refine State.get_of_only (u.binsZero_only m 16 (Nat.le_refl 16)) fun hmem => ?_
    obtain ⟨i, -, h⟩ := List.mem_map.1 hmem
    rw [sysMon_bin] at h
    simp only [R.SYS_MONm_BINi_COUNT] at h
    omega
  have hmin (u : State) : ((u.put (R.SYS_MONm_MIN_VAL m) 0x7FFFFFFF).put (R.SYS_MONm_MAX_VAL m) 0x80000000).get (R.SYS_MONm_MIN_VAL m) =
      0x7FFFFFFF := by
    rw [State.get_put_reg _ _ (by simp only [R.SYS_MONm_MIN_VAL, R.SYS_MONm_MAX_VAL]; omega)]
    exact u.get_put_fits (f := R.SYS_MONm_MIN_VAL m) (Nat.le_refl 32) (show 0x7FFFFFFF < 2 ^ 32 by decide)
  have hmax (u : State) : (u.put (R.SYS_MONm_MAX_VAL m) 0x80000000).get (R.SYS_MONm_MAX_VAL m) = 0x80000000 :=
    u.get_put_fits (f := R.SYS_MONm_MAX_VAL m) (Nat.le_refl 32) (show 0x80000000 < 2 ^ 32 by decide)
  unfold State.monClear
  refine ⟨?_, ?_, fun i hi => State.binsZero_get _ m 16 hi⟩
  · rw [hbins _ _ (by simp only [R.SYS_MONm_MIN_VAL]; omega), sysMon, hmin]
  · rw [hbins _ _ (by simp only [R.SYS_MONm_MAX_VAL]; omega), sysMon, hmax]

theorem monEmpty_frame {t u : State} {m k : Nat} (h : monEmpty t k) (hu : only t u (monSpan m)) (hne : k ≠ m) : monEmpty u k := by
  have hsame (f : Fld) (hlo : 0x2C400 + 0x60 * k ≤ f.reg) (hhi : f.reg < 0x2C400 + 0x60 * k + 0x60) : u.get f = t.get f := by
    refine State.get_of_only hu fun hmem => ?_
    obtain ⟨i, hi, hreg⟩ := mem_monSpan.1 hmem
    omega
  obtain ⟨hmin, hmax, hbin⟩ := h
  refine ⟨(hsame _ ?_ ?_).trans hmin, (hsame _ ?_ ?_).trans hmax, fun i hi => (hsame _ ?_ ?_).trans (hbin i hi)⟩ <;>
    simp only [R.SYS_MONm_MIN_VAL, R.SYS_MONm_MAX_VAL, R.SYS_MONm_BINi_COUNT] <;> omega

theorem State.sysMonClr_empty (n : Nat) {m : Nat} (hm : m < n) :
    monEmpty ((List.range n).foldl (fun s m => s.monClear (sysMon m)) s) m := by
  induction n with
  | zero => exact absurd hm (Nat.not_lt_zero m)
  | succ n ih =>
    rw [List.range_succ, List.foldl_append, List.foldl_cons, List.foldl_nil]
    by_cases h : m = n
    · rw [h]
      exact State.monClear_empty _ n
    · exact monEmpty_frame (ih (by omega)) (State.monClear_only _ n) h

/-! ## Events -/

/-- The event that a ROLLUP of roll-up bit k queues. -/
def State.rollOf (s : State) (k : Nat) : Event :=
  { code := cROLLUP, source := 0x014 + k, tickno := s.tick.tickno
    detail := padTo 16 (leBytes 4 (s.intStat (0x014 + k)) ++ leBytes 4 s.sysRoll ++ List.replicate 8 0)
    vc := s.get R.RIDGE_CFG_EVT_VC }

theorem State.rollEvent_eq (k : Nat) (h : s.evtQ.length < 64) : s.rollEvent k =
    { s with evtQ := s.evtQ ++ [s.rollOf k], sys := { s.sys with holdoff := mapIns s.sys.holdoff k (s.now + msClk) } } := by
  have hev : s.event cROLLUP (0x014 + k) (leBytes 4 (s.intStat (0x014 + k)) ++ leBytes 4 s.sysRoll ++ List.replicate 8 0) =
      { s with evtQ := s.evtQ ++ [s.rollOf k] } := by
    unfold State.event State.eventOn
    exact if_pos h
  unfold State.rollEvent
  dsimp only
  rw [hev]

/-- The oldest rise off its queue. -/
def State.riseTaken (s : State) (rest : List Nat) : State := { s with sys := { s.sys with rises := rest } }

theorem State.rollup_free {k : Nat} {rest : List Nat} (hrises : s.sys.rises = k :: rest) (hfree : mapFind s.sys.holdoff k = none) :
    s.rollup = (s.riseTaken rest).rollEvent k := by
  unfold State.rollup
  rw [hrises]
  dsimp only
  rw [hfree]
  rfl

theorem State.rollup_merged {k u : Nat} {rest : List Nat} (hrises : s.sys.rises = k :: rest) (hheld : mapFind s.sys.holdoff k = some u) :
    s.rollup = State.raise { s with sys := { s.sys with rises := rest, merged := setAdd s.sys.merged k } } E.SYS_ROLL_MERGED := by
  unfold State.rollup
  rw [hrises]
  dsimp only
  rw [hheld]

/-- A hold-off that ends, with its mark of merged rises. -/
def State.holdoffOver (s : State) (k u : Nat) : State :=
  { s.at u with sys := { s.sys with holdoff := mapDel s.sys.holdoff k, merged := setDel s.sys.merged k } }

theorem State.holdoffEnd_eq {k u : Nat} (h : firstEnd s.sys.holdoff = some (k, u)) : s.holdoffEnd =
    if (s.sys.merged.contains k && bit (s.sysRoll &&& s.get R.SYS_EVT_MASK_PAGE) k) = true then (s.holdoffOver k u).rollEvent k
    else s.holdoffOver k u := by
  unfold State.holdoffEnd
  rw [h]
  rfl

theorem not_mem_setDel (xs : List Nat) (x : Nat) : x ∉ setDel xs x := by
  unfold setDel
  simp [List.mem_filter]

/-- What settles keeps the marks of merged rises. -/
theorem State.settleFrom_merged (t : State) : (s.settleFrom t).sys.merged = t.sys.merged := by
  unfold State.settleFrom
  dsimp only
  split <;> split <;> rfl

theorem State.merged_raise (e : Ev) : (s.raise e).sys.merged = s.sys.merged := by
  unfold State.raise State.raiseBy
  rw [if_neg (by decide)]
  cases he : e.cnt <;> simp only [] <;> split <;> simp [State.settleFrom_merged]

end

/-- Settles O51: the clear goes monitor by monitor, each in registers of its own; a rise is queued, or merged while its page is held off. -/
theorem monitorsAndRollup : Obligations.MonitorsAndRollup := by
  refine ⟨fun s hoff => ⟨_, rfl, fun m hm => ?_⟩, fun s k rest hrises hfree hroom => ⟨_, rfl, ?_⟩,
    fun s k u rest hrises hheld => ⟨_, rfl, ?_⟩, fun s k u hend hnot => ⟨_, rfl, ?_⟩, fun s k u hend hmem hbit hroom => ⟨_, rfl, ?_⟩⟩
  · rw [if_neg (by simp [hoff])]
    exact s.sysMonClr_empty 19 hm
  · rw [s.rollup_free hrises hfree, State.rollEvent_eq (s.riseTaken rest) k hroom]
    exact ⟨rfl, mapFind_ins_same _ _ _, ⟨_, rfl, rfl, rfl, rfl⟩, only_of_eq rfl rfl rfl rfl rfl⟩
  · rw [s.rollup_merged hrises hheld]
    refine ⟨?_, State.raise_evtQ .., told_raise_of_regsSame s (L := []) (by decide) (State.regsSame.of_regs rfl) (by decide),
      only_trans (only_of_eq rfl rfl rfl rfl rfl) (only_raise (List.Subset.refl _))⟩
    rw [State.merged_raise]
    exact mem_setAdd _ _
  · rw [s.holdoffEnd_eq hend, if_neg (by simp [hnot])]
    exact ⟨mapFind_del_same _ _, rfl, rfl, only_of_eq rfl rfl rfl rfl rfl⟩
  · rw [s.holdoffEnd_eq hend, if_pos (by simp [hmem, hbit]), State.rollEvent_eq (s.holdoffOver k u) k hroom]
    exact ⟨mapFind_ins_same _ _ _, not_mem_setDel _ _, List.length_append, only_of_eq rfl rfl rfl rfl rfl⟩

end Sys2Proof.Machine
end

/-! PROOFS. What the start-up sequence's beginning leaves (R393, R399), and with it O55: the management bus (R369–R377, R403). -/
section
namespace Sys2Proof.Machine

section
variable (s : State)

/-! ## The power state and the beginning of a start -/

/-- The registers that a move of the power state writes. -/
def powerRegs : List Nat := [R.PWR_STAT_STATE.reg, R.EXP_STAT_SENSOR_ON.reg]

theorem State.setPower_eq (p : Nat) : ∃ regs cal, s.setPower p = { s with regs := regs, cal := cal } := ⟨_, _, rfl⟩

theorem State.setPower_regs (p : Nat) : s.regsSame (s.setPower p) powerRegs :=
  .trans (t := s.put R.PWR_STAT_STATE p) (State.regsSame_put _ (by decide)) (State.regsSame_put _ (by decide))

theorem State.setPower_power {p : Nat} (hp : p < 8) : (s.setPower p).power = p :=
  (State.get_put_reg _ _ (by decide)).trans (s.get_put_fits (f := R.PWR_STAT_STATE) (by decide) hp)

/-- What the self-test has found is dropped, but for a wake, code 4 (R400). -/
def State.startClear (s : State) (last : Nat) : State :=
  if last = 4 then s else (s.put R.SYS_STAT_FATAL 0).put R.SYS_STAT_DEGRADED 0

theorem State.startClear_eq (last : Nat) : ∃ regs, s.startClear last = { s with regs := regs } := by
  unfold State.startClear
  split
  · exact ⟨_, rfl⟩
  · exact ⟨_, rfl⟩

theorem State.startClear_regs (last : Nat) : s.regsSame (s.startClear last) [R.SYS_STAT_STARTING.reg] :=
  State.regsSame_ite .refl ((State.regsSame_put _ (by decide)).trans (State.regsSame_put _ (by decide)))

theorem State.startClear_starting (last : Nat) : (s.startClear last).get R.SYS_STAT_STARTING = s.get R.SYS_STAT_STARTING := by
  unfold State.startClear
  split
  · rfl
  · exact (State.get_put_bits _ _ (by decide)).trans (s.get_put_bits _ (by decide))

/-- SYS_STAT at the beginning of a start: nothing is ready, LAST_RESET's code stands. -/
def State.startStat (s : State) (last : Nat) : State :=
  (((s.put R.SYS_STAT_STARTING 1).startClear last).put R.SYS_STAT_READY 0).put R.SYS_STAT_LAST_RESET last

theorem State.startStat_eq (last : Nat) : ∃ regs, s.startStat last = { s with regs := regs } := by
  obtain ⟨r, h⟩ := (s.put R.SYS_STAT_STARTING 1).startClear_eq last
  unfold State.startStat
  rw [h]
  exact ⟨_, rfl⟩

theorem State.startStat_regs (last : Nat) : s.regsSame (s.startStat last) [R.SYS_STAT_STARTING.reg] :=
  .trans (.trans (.trans (State.regsSame_put _ (by decide)) (State.startClear_regs _ last)) (State.regsSame_put _ (by decide)))
    (State.regsSame_put _ (by decide))

theorem State.startStat_get (last : Nat) :
    (s.startStat last).get R.SYS_STAT_STARTING = 1 ∧ (s.startStat last).get R.SYS_STAT_READY = 0 ∧
      (s.startStat last).get R.SYS_STAT_LAST_RESET = last % 16 := by
  unfold State.startStat
  refine ⟨?_, ?_, State.get_put_same _ _ (by decide)⟩
  · rw [State.get_put_bits _ _ (by decide), State.get_put_bits _ _ (by decide), State.startClear_starting]
    exact s.get_put_fits (by decide) (by decide)
  · rw [State.get_put_bits _ _ (by decide)]
    exact State.get_put_same _ 0 (by decide)

/-- The beginning of a start: the power state IDLE, SYS_STAT, and the sequence's own fields. -/
theorem State.beginStart_eq (last : Nat) : ∃ pwr sys, s.beginStart last = { (s.setPower pIDLE).startStat last with pwr := pwr, sys := sys } :=
  ⟨_, _, rfl⟩

/-- The registers that the beginning of a start writes. -/
def startRegs : List Nat := powerRegs ++ [R.SYS_STAT_STARTING.reg]

theorem State.beginStart_regs (last : Nat) : s.regsSame (s.beginStart last) startRegs := by
  obtain ⟨p, y, h⟩ := s.beginStart_eq last
  rw [h]
  exact ((s.setPower_regs pIDLE).mono (by decide)).trans ((State.startStat_regs _ last).mono (by decide))

theorem State.beginStart_power (last : Nat) : (s.beginStart last).power = pIDLE := by
  obtain ⟨p, y, h⟩ := s.beginStart_eq last
  rw [h]
  exact (State.get_of_regsSame (State.startStat_regs _ last) (by decide)).trans (s.setPower_power (by decide))

theorem State.beginStart_stat (last : Nat) :
    (s.beginStart last).get R.SYS_STAT_STARTING = 1 ∧ (s.beginStart last).get R.SYS_STAT_READY = 0 ∧
      (s.beginStart last).get R.SYS_STAT_LAST_RESET = last % 16 := by
  obtain ⟨p, y, h⟩ := s.beginStart_eq last
  rw [h]
  exact State.startStat_get _ last

/-- What the beginning of a start leaves alone: everything but registers, the calibration's clock, the power unit and the system unit. -/
theorem State.beginStart_frame (last : Nat) : ∃ regs cal pwr sys,
    s.beginStart last = { s with regs := regs, cal := cal, pwr := pwr, sys := sys } := by
  obtain ⟨p, y, h⟩ := s.beginStart_eq last
  obtain ⟨r, c, hpower⟩ := s.setPower_eq pIDLE
  obtain ⟨r', hstat⟩ := (s.setPower pIDLE).startStat_eq last
  rw [h, hstat, hpower]
  exact ⟨_, _, _, _, rfl⟩

/-- A wake without a waiting reset: the start-up sequence from the CLK step. -/
theorem State.wakeUp_eq (h : s.sys.resetHeld = 0) : ∃ last, s.wakeUp = s.accrue.beginStart last := by
  have hheld : s.accrue.heldApply = s.accrue := by
    unfold State.heldApply
    exact if_pos h
  unfold State.wakeUp
  rw [hheld]
  exact ⟨_, rfl⟩

/-! ## A transaction that names the module -/

theorem State.mbStart_frame (u : Nat) : only s (s.mbStart u) [R.MB_XFER_CNT_COUNT.reg] :=
  only_upd (only_trans (only_at s u) (only_put _ List.mem_cons_self))

/-- The fields that a bus transaction's test reads are the same after its start, but for the time. -/
theorem State.mbStart_get (u : Nat) {f : Fld} (h : f.reg ≠ R.MB_XFER_CNT_COUNT.reg) : (s.mbStart u).get f = s.get f :=
  State.get_of_only (s.mbStart_frame u) (by simpa using h)

theorem State.mbStart_sleeps (u : Nat) : (s.mbStart u).mbSleeps = s.mbSleeps := by
  unfold State.mbSleeps State.power
  rw [s.mbStart_get u (by decide), s.mbStart_get u (by decide)]

theorem State.mbStart_dom (u d : Nat) : (s.mbStart u).dom d = s.dom d := by
  unfold State.dom
  rw [s.mbStart_get u (by simp only [R.PWR_DOM_STAT_ON]; decide)]

theorem State.mbStart_resetting (u : Nat) : (s.mbStart u).resetting = s.resetting := by
  have hstart : (s.mbStart u).on R.SYS_STAT_STARTING = s.on R.SYS_STAT_STARTING := State.on_of_get (s.mbStart_get u (by decide))
  have hsys : (s.mbStart u).sys = s.sys := rfl
  unfold State.resetting
  rw [hstart, s.mbStart_get u (by decide), s.mbStart_dom, hsys]

theorem State.mbStart_hdrOn (u page : Nat) : (s.mbStart u).hdrOn page = s.hdrOn page := by
  unfold State.hdrOn
  rw [s.mbStart_get u (by decide)]

theorem State.mbStart_served (u page : Nat) : (s.mbStart u).served page = s.served page := by
  unfold State.served
  rw [s.mbStart_hdrOn, s.mbStart_dom]

/-- Where the bus serves the module, a transaction goes on. -/
theorem State.mbAddress_serves {u : Nat} (h : busServes s u) : s.mbAddress u = (s.mbStart u, true) := by
  obtain ⟨hoff, hsleeps, hbusy, hreset, hserved⟩ := h
  have hnot : (s.mbStart u).mbBusy = false := by
    unfold State.mbBusy
    rw [s.mbStart_resetting, hreset]
    have hnow : (s.mbStart u).now = max s.now u := rfl
    have hmb : (s.mbStart u).mb.busyUntil = s.mb.busyUntil ∧ (s.mbStart u).mb.servedFrom = s.mb.servedFrom := ⟨rfl, rfl⟩
    simp only [hnow, hmb.1, hmb.2, Nat.not_lt.2 hbusy, Nat.not_lt.2 hserved, decide_false, Bool.or_false]
  unfold State.mbAddress
  rw [if_neg (by simp [hoff])]
  dsimp only
  rw [s.mbStart_sleeps, hsleeps, hnot, Bool.false_and, if_neg Bool.false_ne_true, if_neg Bool.false_ne_true]

/-- The address bytes of a served register pass their test. -/
theorem State.mbTest_served {a u : Nat} (halign : a % 4 = 0) (hreads : busReads a = true)
    (hserved : (if a % 4096 < 0x040 then s.hdrOn (a / 4096) else s.served (a / 4096)) = true) :
    (s.mbStart u).mbTest a = (s.mbStart u, true) := by
  unfold State.mbTest
  rw [if_neg (by simp [halign, hreads]), s.mbStart_hdrOn, s.mbStart_served, if_neg (by simp [hserved])]

theorem State.mbWrite_served {a u : Nat} {bs : List Nat} (hbus : busServes s u) (halign : a % 4 = 0) (hreads : busReads a = true)
    (hserved : (if a % 4096 < 0x040 then s.hdrOn (a / 4096) else s.served (a / 4096)) = true) :
    s.mbWrite a bs u = (s.mbStart u).mbWords a bs := by
  unfold State.mbWrite
  rw [s.mbAddress_serves hbus]
  dsimp only
  rw [s.mbTest_served halign hreads hserved]
  rfl

/-- One word written over the bus. -/
theorem State.mbWords_one {a b0 b1 b2 b3 : Nat} (h : busWrites a = true) :
    (s.mbWords a [b0, b1, b2, b3]).regs = (s.regWrite a (leNat [b0, b1, b2, b3])).regs ∧
      (s.mbWords a [b0, b1, b2, b3]).force = (s.regWrite a (leNat [b0, b1, b2, b3])).force := by
  unfold State.mbWords
  rw [if_pos h]
  unfold State.mbWords
  exact ⟨rfl, rfl⟩

/-! ## Reads touch no memory -/

theorem State.lowRead_mem (a : Nat) : (s.lowRead a).mem = s.mem := by
  unfold State.lowRead
  split
  · dsimp only
    split
    · rfl
    · split
      · exact State.put_mem ..
      · rfl
  · split
    · dsimp only
      split
      · rfl
      · split
        · exact State.put_mem ..
        · rfl
    · dsimp only
      split
      · rfl
      · split
        · exact State.put_mem ..
        · rfl

theorem State.restRead_mem (a : Nat) : (s.restRead a).2.mem = s.mem := by
  unfold State.restRead
  split
  · split
    · rfl
    · exact (State.raise_mem ..).trans (State.put_mem ..)
  · split
    · split <;> rfl
    · split
      · rfl
      · exact s.lowRead_mem a

theorem State.regRead_mem (a : Nat) : (s.regRead a).2.mem = s.mem := by
  unfold State.regRead
  split
  · rfl
  · split
    · rfl
    · exact s.restRead_mem a

theorem State.mbRead_served {a n u : Nat} (hbus : busServes s u) (halign : a % 4 = 0) (hreads : busReads a = true) (hlo : 1 ≤ n)
    (hhi : n ≤ 4) (hserved : (if a % 4096 < 0x040 then s.hdrOn (a / 4096) else s.served (a / 4096)) = true) :
    s.mbRead a n u = { ((s.mbStart u).regRead a).2 with rdata := (leBytes 4 ((s.mbStart u).regRead a).1 ++ []).take n } := by
  have hwords : ceilDiv n 4 = 1 := by
    unfold ceilDiv
    rw [if_neg (by decide)]
    omega
  unfold State.mbRead
  rw [s.mbAddress_serves hbus]
  dsimp only
  rw [s.mbTest_served halign hreads hserved, hwords]
  dsimp only
  rw [if_neg (by decide), State.mbReadWords.eq_def]
  dsimp only
  rw [if_pos hreads]
  rfl

end

end Sys2Proof.Machine
end

/-! PROOFS. O55: transactions, wake and sleep, errors and attention pulses of the management bus (R369–R377, R403). -/
section
namespace Sys2Proof.Machine

section
variable (s : State)

/-! ## Waking the window -/

/-- What settles touches of the bus only whether a pulse is owed. -/
theorem State.settleFrom_awake (t : State) : (s.settleFrom t).mb.awakeUntil = t.mb.awakeUntil := by
  unfold State.settleFrom
  dsimp only
  split <;> split <;> rfl

theorem State.raise_awake (e : Ev) : (s.raise e).mb.awakeUntil = s.mb.awakeUntil := by
  unfold State.raise State.raiseBy
  rw [if_neg (by decide)]
  cases he : e.cnt <;> simp only [] <;> split <;> simp [State.settleFrom_awake]

theorem State.settleFrom_held (t : State) : (s.settleFrom t).sys.resetHeld = t.sys.resetHeld := by
  unfold State.settleFrom
  dsimp only
  split <;> split <;> rfl

theorem State.raise_held (e : Ev) : (s.raise e).sys.resetHeld = s.sys.resetHeld := by
  unfold State.raise State.raiseBy
  rw [if_neg (by decide)]
  cases he : e.cnt <;> simp only [] <;> split <;> simp [State.settleFrom_held]

/-- The window awake for 1 s, with its event. -/
def State.wakeTold (s : State) : State :=
  State.raise { s with freeIdx := s.freeIdx + 1, mb := { s.mb with
    awakeUntil := some (s.now + secClk), servedFrom := s.now + Config.freeNat s.freeIdx % 40001 } } E.MB_WAKE

theorem State.mbWakeNow_eq : s.mbWakeNow =
    if (s.wakeTold.power = pSTANDBY && s.wakeTold.pwr.hostStandby && !s.wakeTold.pwr.fromThermal) = true then
      if s.wakeTold.pwr.qualified then s.wakeTold.wakeUp else { s.wakeTold with pwr := { s.wakeTold.pwr with wake := true } }
    else s.wakeTold := rfl

/-- The bus has been woken at the present time by its n-th transaction. -/
def busWoken (t : State) (now n : Nat) : Prop :=
  t.now = now ∧ t.mb.awakeUntil = some (now + secClk) ∧ t.get (intRawBit E.MB_WAKE) = 1 ∧ t.get R.MB_XFER_CNT_COUNT = n

theorem State.wakeTold_woken : busWoken s.wakeTold s.now (s.get R.MB_XFER_CNT_COUNT) :=
  ⟨State.raise_now .., State.raise_awake .., State.get_raise _ _ (by decide), State.get_raise_other _ (by decide)⟩

theorem State.wakeUp_woken {n k : Nat} (h : busWoken s n k) (hheld : s.sys.resetHeld = 0) : busWoken s.wakeUp n k := by
  obtain ⟨last, hup⟩ := s.wakeUp_eq hheld
  obtain ⟨r, c, p, y, hframe⟩ := s.accrue.beginStart_frame last
  obtain ⟨hnow, hawake, hbit, hcnt⟩ := h
  have hregs := s.accrue.beginStart_regs last
  rw [hup]
  refine ⟨?_, ?_, (State.get_of_regsSame hregs (by decide)).trans hbit, (State.get_of_regsSame hregs (by decide)).trans hcnt⟩
  · rw [hframe]
    exact hnow
  · rw [hframe]
    exact hawake

theorem State.mbWakeNow_woken (hheld : s.sys.resetHeld = 0) : busWoken s.mbWakeNow s.now (s.get R.MB_XFER_CNT_COUNT) := by
  rw [s.mbWakeNow_eq]
  split
  · split
    · exact State.wakeUp_woken _ s.wakeTold_woken ((State.raise_held ..).trans hheld)
    · exact s.wakeTold_woken
  · exact s.wakeTold_woken

/-- In STANDBY that the host asked for, the wake starts the module (Table 15-2). -/
theorem State.mbWakeNow_standby (hheld : s.sys.resetHeld = 0) (hpower : s.power = pSTANDBY) (hhost : s.pwr.hostStandby = true)
    (htherm : s.pwr.fromThermal = false) (hqual : s.pwr.qualified = true) :
    s.mbWakeNow.power = pIDLE ∧ s.mbWakeNow.get R.SYS_STAT_STARTING = 1 := by
  have htold : s.wakeTold.power = pSTANDBY := (State.get_raise_other _ (by decide)).trans hpower
  have hpwr : s.wakeTold.pwr = s.pwr := State.raise_pwr ..
  obtain ⟨last, hup⟩ := s.wakeTold.wakeUp_eq ((State.raise_held ..).trans hheld)
  rw [s.mbWakeNow_eq, htold, hpwr, hhost, htherm, hqual, if_pos (by decide), if_pos rfl, hup]
  exact ⟨State.beginStart_power _ _, (State.beginStart_stat _ _).1⟩

theorem State.mbWake_eq {u : Nat} (hoff : s.pwr.off = false) (hsleeps : s.mbSleeps = true) (hawake : s.mb.awakeUntil = none) :
    s.mbWake u = (s.mbStart u).mbWakeNow := by
  unfold State.mbWake
  rw [if_neg (by simp [hoff, hsleeps, hawake])]

theorem State.mbSleep_eq {u v : Nat} (h : s.mb.awakeUntil = some v) :
    s.mbSleep u = { (s.at u).at v with mb := { s.mb with awakeUntil := none } } := by
  unfold State.mbSleep
  rw [h]
  rfl

/-! ## Attention -/

/-- A new request is pulsed on a bus that has been idle for 20 µs. -/
theorem State.attnPulse_new {u : Nat} (hoff : s.pwr.off = false) (hen : s.on R.MB_CTRL_ATTN_PULSE = true) (hattn : s.attn = true)
    (hnew : s.mb.attnServed = false) (hidle : s.mb.lastEnd + 20 * usClk ≤ max s.now u) :
    s.attnPulse u = { s.at u with mb := { s.mb with
      attnServed := true, pulse := some (max s.now u + 5 * usClk)
      nextRepeat := if s.get R.MB_CTRL_REPEAT = 0 then none else some (max s.now u + s.get R.MB_CTRL_REPEAT * secClk) } } := by
  have hat : (s.at u).pwr.off = false ∧ (s.at u).on R.MB_CTRL_ATTN_PULSE = true ∧ (s.at u).attn = true ∧
      (s.at u).mb.attnServed = false ∧ (s.at u).mb.lastEnd + 20 * usClk ≤ (s.at u).now := ⟨hoff, hen, hattn, hnew, hidle⟩
  obtain ⟨hoff, hen, hattn, hnew, hidle⟩ := hat
  unfold State.attnPulse
  dsimp only
  rw [hoff, hen, hattn, hnew, decide_eq_false (Nat.not_lt.2 hidle)]
  rfl

end

/-- Settles O55: a transaction that is served is its start, its address test and one register access; a wake starts the module where the
host had put it to STANDBY. -/
theorem busTransactions : Obligations.BusTransactions := by
  refine ⟨fun s a b0 b1 b2 b3 u hbus ha halign hreads hwrites hserved => ⟨_, rfl, ?_⟩,
    fun s a n u hbus ha halign hreads hlo hhi hserved => ⟨_, rfl, ?_⟩, fun s u hoff hsleeps hawake hheld => ⟨_, rfl, ?_⟩,
    fun s u v hawake => ⟨_, rfl, ?_⟩, fun s hoff => ⟨_, rfl, ?_⟩, fun s hoff => ⟨_, rfl, ?_⟩,
    fun s u hoff hen hattn hnew hidle => ⟨_, rfl, ?_⟩⟩
  · have haddr : (BitVec.ofNat 32 a).toNat % 2 ^ 24 = a := by
      rw [BitVec.toNat_ofNat]
      omega
    rw [haddr, s.mbWrite_served hbus halign hreads hserved]
    exact State.mbWords_one _ hwrites
  · have haddr : (BitVec.ofNat 32 a).toNat % 2 ^ 24 = a := by
      rw [BitVec.toNat_ofNat]
      omega
    rw [haddr, s.mbRead_served hbus halign hreads hlo hhi hserved]
    have hbytes (b : Nat) : ((s.mbStart u).regRead a).2.byte b = s.byte b :=
      (State.byte_of_mem (State.regRead_mem _ a) b).trans ((s.mbStart_frame u).2.2.1 b)
    refine ⟨?_, hbytes⟩
    rw [List.append_nil]
  · rw [s.mbWake_eq hoff hsleeps hawake]
    obtain ⟨hnow, hawake', hbit, hcnt⟩ := (s.mbStart u).mbWakeNow_woken hheld
    have hnow' : (s.mbStart u).now = max s.now u := rfl
    refine ⟨?_, hnow.trans hnow', hbit, hcnt.trans (State.get_put_same (s.at u) _ (by decide)), fun hpower hhost htherm hqual =>
      (s.mbStart u).mbWakeNow_standby hheld ((s.mbStart_get u (by decide)).trans hpower) hhost htherm hqual⟩
    rw [hawake', hnow]
  · rw [s.mbSleep_eq hawake]
    exact ⟨rfl, rfl, only_of_eq rfl rfl rfl rfl rfl⟩
  · rw [if_neg (by simp [hoff])]
    exact ⟨told_raise s (by decide), State.raise_now .., only_raise (List.Subset.refl _)⟩
  · rw [if_neg (by simp [hoff])]
    refine ⟨told_raise_of_regsSame s (L := []) (by decide) (State.regsSame.of_regs rfl) (by decide), ?_,
      only_trans (only_at s _) (only_raise (List.Subset.refl _))⟩
    rw [State.raise_now]
    exact Nat.max_eq_right (Nat.le_add_right _ _)
  · rw [s.attnPulse_new hoff hen hattn hnew hidle]
    exact ⟨rfl, rfl, rfl, rfl, only_of_eq rfl rfl rfl rfl rfl⟩

end Sys2Proof.Machine
end

/-! PROOFS. O10: the PLLs (R32, R112–R116, R120). -/
section
namespace Sys2Proof.Machine

/-! ## The registers of PLL i -/

theorem pllEn_eq (i : Nat) : pllEn i = ⟨0x18100 + 0x10 * i, 0, 1⟩ := by
  unfold pllEn
  by_cases h : i = 0
  · rw [if_pos h, h]
    rfl
  · rw [if_neg h]
    simp only [R.PLLi_CTRL_EN, Fld.mk.injEq, and_true]
    omega

theorem pllLockN_eq (i : Nat) : pllLockN i = ⟨0x18100 + 0x10 * i, 4, 4⟩ := by
  unfold pllLockN
  by_cases h : i = 0
  · rw [if_pos h, h]
    rfl
  · rw [if_neg h]
    simp only [R.PLLi_CTRL_LOCK_N, Fld.mk.injEq, and_true]
    omega

theorem pllLockW_eq (i : Nat) : pllLockW i = ⟨0x18100 + 0x10 * i, 8, 2⟩ := by
  unfold pllLockW
  by_cases h : i = 0
  · rw [if_pos h, h]
    rfl
  · rw [if_neg h]
    simp only [R.PLLi_CTRL_LOCK_W, Fld.mk.injEq, and_true]
    omega

theorem State.fuseNum_of_fuse {s t : State} (h : t.fuse = s.fuse) (o n : Nat) : t.fuseNum o n = s.fuseNum o n := by
  unfold State.fuseNum State.fuseByte
  rw [h]

section
variable (s : State)

/-! ## Band tables -/

theorem State.setBands_other (v : Nat → Word) (base n a : Nat) (h : ∀ k < n, a ≠ base + 4 * k) :
    ((List.range n).foldl (fun s k => s.setReg (base + 4 * k) (v k)) s).reg a = s.reg a := by
  induction n with
  | zero => rfl
  | succ n ih =>
    rw [List.range_succ, List.foldl_append, List.foldl_cons, List.foldl_nil, State.reg_setReg_other _ _ (h n (Nat.lt_succ_self n))]
    exact ih fun k hk => h k (Nat.lt_succ_of_lt hk)

theorem State.setBands_same (v : Nat → Word) (base n : Nat) {k : Nat} (hk : k < n) :
    ((List.range n).foldl (fun s k => s.setReg (base + 4 * k) (v k)) s).reg (base + 4 * k) = v k := by
  induction n with
  | zero => exact absurd hk (Nat.not_lt_zero k)
  | succ n ih =>
    rw [List.range_succ, List.foldl_append, List.foldl_cons, List.foldl_nil]
    by_cases h : k = n
    · rw [h, State.reg_setReg_same]
    · rw [State.reg_setReg_other _ _ (by omega)]
      exact ih (by omega)

theorem State.setBands_fuse (f : Nat → Nat × Nat) (base n : Nat) :
    ((List.range n).foldl (fun s k => s.setReg (base + 4 * k) (BitVec.ofNat 32 (s.fuseNum (f k).1 (f k).2))) s) =
      (List.range n).foldl (fun u k => u.setReg (base + 4 * k) (BitVec.ofNat 32 (s.fuseNum (f k).1 (f k).2))) s ∧
    ((List.range n).foldl (fun s k => s.setReg (base + 4 * k) (BitVec.ofNat 32 (s.fuseNum (f k).1 (f k).2))) s).fuse = s.fuse := by
  induction n with
  | zero => exact ⟨rfl, rfl⟩
  | succ n ih =>
    obtain ⟨heq, hfuse⟩ := ih
    rw [List.range_succ, List.foldl_append, List.foldl_cons, List.foldl_nil, List.foldl_append, List.foldl_cons, List.foldl_nil]
    refine ⟨?_, hfuse⟩
    have hnum : State.fuseNum ((List.range n).foldl (fun s k => s.setReg (base + 4 * k) (BitVec.ofNat 32 (s.fuseNum (f k).1 (f k).2))) s)
        (f n).1 (f n).2 = s.fuseNum (f n).1 (f n).2 := State.fuseNum_of_fuse hfuse _ _
    rw [hnum, heq]

/-- The word of PLL i's band table that fuse word k holds. -/
def State.bandWord (s : State) (i k : Nat) : Word := BitVec.ofNat 32 (s.fuseNum (0x850 + 64 * i + 4 * k) 4)

theorem State.loadBands_eq (i : Nat) : s.loadBands i =
    (List.range 16).foldl (fun u k => u.setReg ((R.BANDi_e_W0_VCO_LO i 0).reg + 4 * k) (s.bandWord i k)) s :=
  (s.setBands_fuse (fun k => (0x850 + 64 * i + 4 * k, 4)) (R.BANDi_e_W0_VCO_LO i 0).reg 16).1

theorem State.loadBands_fuse (i : Nat) : (s.loadBands i).fuse = s.fuse :=
  (s.setBands_fuse (fun k => (0x850 + 64 * i + 4 * k, 4)) (R.BANDi_e_W0_VCO_LO i 0).reg 16).2

theorem State.loadBands_same (i : Nat) {k : Nat} (hk : k < 16) :
    (s.loadBands i).reg ((R.BANDi_e_W0_VCO_LO i 0).reg + 4 * k) = s.bandWord i k := by
  rw [s.loadBands_eq]
  exact s.setBands_same (s.bandWord i) _ 16 hk

theorem State.loadBands_other (i : Nat) {a : Nat} (h : ∀ k < 16, a ≠ (R.BANDi_e_W0_VCO_LO i 0).reg + 4 * k) :
    (s.loadBands i).reg a = s.reg a := by
  rw [s.loadBands_eq]
  exact s.setBands_other (s.bandWord i) _ 16 a h

/-- The table of one PLL in a reload. -/
def State.reloadOne (s : State) (i : Nat) : State := if s.on (pllEn i) then s else s.loadBands i

theorem State.reloadOne_other (i : Nat) {a : Nat} (h : ∀ k < 16, a ≠ (R.BANDi_e_W0_VCO_LO i 0).reg + 4 * k) :
    (s.reloadOne i).reg a = s.reg a :=
  State.ite_of (P := fun t : State => t.reg a = s.reg a) rfl (s.loadBands_other i h)

theorem State.reloadOne_fuse (i : Nat) : (s.reloadOne i).fuse = s.fuse :=
  State.ite_of (P := fun t : State => t.fuse = s.fuse) rfl (s.loadBands_fuse i)

/-- The tables of the first n PLLs in a reload. -/
def State.reloadTo (s : State) (n : Nat) : State := (List.range n).foldl State.reloadOne s

theorem State.reloadTo_succ (n : Nat) : s.reloadTo (n + 1) = (s.reloadTo n).reloadOne n := by
  unfold State.reloadTo
  rw [List.range_succ, List.foldl_append, List.foldl_cons, List.foldl_nil]

/-- A reload leaves PLL controls and the fuses alone. -/
theorem State.reloadTo_frame (n : Nat) (hn : n ≤ 6) :
    (s.reloadTo n).fuse = s.fuse ∧ ∀ a, a < 0x18400 → (s.reloadTo n).reg a = s.reg a := by
  induction n with
  | zero => exact ⟨rfl, fun _ _ => rfl⟩
  | succ n ih =>
    obtain ⟨hfuse, hreg⟩ := ih (by omega)
    rw [s.reloadTo_succ]
    refine ⟨(State.reloadOne_fuse _ n).trans hfuse, fun a ha => (State.reloadOne_other _ n fun k _ => ?_).trans (hreg a ha)⟩
    simp only [R.BANDi_e_W0_VCO_LO]
    omega

theorem State.reloadTo_band {i k n : Nat} (hn : n ≤ 6) (hi : i < n) (hk : k < 16) (hen : s.on (pllEn i) = false) :
    (s.reloadTo n).reg ((R.BANDi_e_W0_VCO_LO i 0).reg + 4 * k) = s.bandWord i k := by
  induction n with
  | zero => exact absurd hi (Nat.not_lt_zero i)
  | succ n ih =>
    rw [s.reloadTo_succ]
    by_cases h : i = n
    · subst h
      obtain ⟨hfuse, hreg⟩ := s.reloadTo_frame i (by omega)
      have hoff : (s.reloadTo i).on (pllEn i) = false := by
        rw [← hen]
        exact State.on_of_get (by rw [State.get, hreg _ (by rw [pllEn_eq]; dsimp only; omega), State.get])
      have hword : (s.reloadTo i).bandWord i k = s.bandWord i k := congrArg (BitVec.ofNat 32) (State.fuseNum_of_fuse hfuse _ _)
      unfold State.reloadOne
      rw [hoff, if_neg Bool.false_ne_true, State.loadBands_same _ i hk, hword]
    · rw [State.reloadOne_other _ n fun j hj => by simp only [R.BANDi_e_W0_VCO_LO]; omega]
      exact ih (by omega) (by omega)

/-! ## A start that finds a band -/

/-- The registers that a tuned PLL shows. -/
def pllShowRegs (i : Nat) : List Nat := [(R.PLLi_STAT_LOCK i).reg, (R.PLLi_RATIO_RATIO i).reg]

/-- The target state of a start with a band entry and a reference selected, and lock awaited. -/
def State.pllSelect (t : State) (i e ref : Nat) : State :=
  (((t.put (R.PLLi_STAT_NO_BAND i) 0).put (R.PLLi_STAT_BAND i) e).put (R.PLLi_STAT_REF_ACT i) ref).put (R.PLLi_STAT_LOCK i) 0

theorem State.pllTune_found {i e : Nat} {t : State} (h : t.bandEntry i (t.vcoHz i) = some e) :
    ∃ ref ratio spur clk, s.pllTune i t = State.put (State.put { t.pllSelect i e ref with clk := clk } (R.PLLi_RATIO_RATIO i) ratio)
      (R.PLLi_STAT_SPUR_NEAR i) spur ∧ clk.gates = t.clk.gates := by
  unfold State.pllTune
  dsimp only
  rw [h]
  exact ⟨_, _, _, _, rfl, rfl⟩

theorem State.pllSelect_get (i ref : Nat) {e : Nat} (he : e < 8) : (s.pllSelect i e ref).get (R.PLLi_STAT_LOCK i) = 0 ∧
    (s.pllSelect i e ref).get (R.PLLi_STAT_BAND i) = e ∧ (s.pllSelect i e ref).get (R.PLLi_STAT_NO_BAND i) = 0 := by
  have hbits {f g : Fld} (u : State) (v : Nat) (h : f.lo + f.w ≤ 32 ∧ (f.lo + f.w ≤ g.lo ∨ g.lo + g.w ≤ f.lo)) :
      (u.put f v).get g = u.get g := u.get_put_bits v h
  unfold State.pllSelect
  refine ⟨State.get_put_same _ 0 ?_, ?_, ?_⟩
  · simp only [R.PLLi_STAT_LOCK]; omega
  · rw [hbits _ _ (by simp only [R.PLLi_STAT_LOCK, R.PLLi_STAT_BAND]; omega),
      hbits _ _ (by simp only [R.PLLi_STAT_REF_ACT, R.PLLi_STAT_BAND]; omega)]
    exact State.get_put_fits _ (by simp only [R.PLLi_STAT_BAND]; omega) he
  · rw [hbits _ _ (by simp only [R.PLLi_STAT_LOCK, R.PLLi_STAT_NO_BAND]; omega),
      hbits _ _ (by simp only [R.PLLi_STAT_REF_ACT, R.PLLi_STAT_NO_BAND]; omega),
      hbits _ _ (by simp only [R.PLLi_STAT_BAND, R.PLLi_STAT_NO_BAND]; omega)]
    exact State.get_put_same _ 0 (by simp only [R.PLLi_STAT_NO_BAND]; omega)

theorem State.pllSelect_frame (i e ref : Nat) : only s (s.pllSelect i e ref) [(R.PLLi_STAT_LOCK i).reg] := by
  have hput (u : State) {f : Fld} (v : Nat) (hf : f.reg = (R.PLLi_STAT_LOCK i).reg) : only u (u.put f v) [(R.PLLi_STAT_LOCK i).reg] :=
    only_put v (by rw [hf]; exact List.mem_cons_self)
  unfold State.pllSelect
  exact only_trans (only_trans (only_trans (hput _ (f := R.PLLi_STAT_NO_BAND i) 0 rfl) (hput _ (f := R.PLLi_STAT_BAND i) e rfl))
    (hput _ (f := R.PLLi_STAT_REF_ACT i) ref rfl)) (hput _ (f := R.PLLi_STAT_LOCK i) 0 rfl)

theorem State.bandEntry_lt {i e : Nat} {f : Frac} (h : s.bandEntry i f = some e) : e < 8 :=
  List.mem_range.1 (List.mem_of_find?_eq_some h)

/-- What a PLL that found a band shows. -/
theorem State.pllTune_shows {i e : Nat} {t : State} (h : t.bandEntry i (t.vcoHz i) = some e) :
    (s.pllTune i t).get (R.PLLi_STAT_LOCK i) = 0 ∧ (s.pllTune i t).get (R.PLLi_STAT_BAND i) = e ∧
      (s.pllTune i t).get (R.PLLi_STAT_NO_BAND i) = 0 ∧ (s.pllTune i t).clk.gates = t.clk.gates ∧
      only t (s.pllTune i t) (pllShowRegs i) := by
  obtain ⟨ref, ratio, spur, clk, heq, hgates⟩ := s.pllTune_found h
  have hshow (u : State) {f : Fld} (hf : f.reg = (R.PLLi_STAT_LOCK i).reg ∧ (f.lo + f.w ≤ 4 ∨ 5 ≤ f.lo)) :
      ((u.put (R.PLLi_RATIO_RATIO i) ratio).put (R.PLLi_STAT_SPUR_NEAR i) spur).get f = u.get f := by
    rw [State.get_put_bits _ _ (by simp only [R.PLLi_STAT_SPUR_NEAR]; omega)]
    exact u.get_put_reg _ (by rw [hf.1]; simp only [R.PLLi_STAT_LOCK, R.PLLi_RATIO_RATIO]; omega)
  obtain ⟨hlock, hband, hno⟩ := t.pllSelect_get i ref (t.bandEntry_lt h)
  rw [heq]
  refine ⟨?_, ?_, ?_, hgates, ?_⟩
  · rw [hshow _ (f := R.PLLi_STAT_LOCK i) ⟨rfl, .inl (Nat.le_of_ble_eq_true rfl)⟩]
    exact hlock
  · rw [hshow _ (f := R.PLLi_STAT_BAND i) ⟨rfl, .inr (Nat.le_of_ble_eq_true rfl)⟩]
    exact hband
  · rw [hshow _ (f := R.PLLi_STAT_NO_BAND i) ⟨rfl, .inl (Nat.le_of_ble_eq_true rfl)⟩]
    exact hno
  · exact only_trans (only_trans (only_upd (only_mono (t.pllSelect_frame i e ref) (List.cons_subset_cons _ (List.nil_subset _))))
      (only_put _ (List.mem_cons_of_mem _ List.mem_cons_self))) (only_put _ List.mem_cons_self)

/-- A start reads its band tables and targets, none of which a control register's write changes. -/
theorem State.bandEntry_congr {t : State} {i : Nat} (hi : i < 6) (hregs : s.regsSame t [0x18100 + 0x10 * i]) (htarget : t.clk.target = s.clk.target) :
    t.bandEntry i (t.vcoHz i) = s.bandEntry i (s.vcoHz i) := by
  have hget {f : Fld} (hf : f.reg ≠ 0x18100 + 0x10 * i) : t.get f = s.get f :=
    State.get_of_regsSame hregs fun hmem => hf (List.mem_singleton.1 hmem)
  have hvco : t.vcoHz i = s.vcoHz i := by
    unfold State.vcoHz
    rw [State.on_of_get (hget (f := R.RP_STAT_RATE_ACT (i - 3)) (by simp only [R.RP_STAT_RATE_ACT]; omega)),
      hget (f := R.ROW_STAT_P) (by simp only [R.ROW_STAT_P]; omega), htarget]
  unfold State.bandEntry
  rw [hvco]
  refine congrArg (List.find? · _) (funext fun e => ?_)
  rw [State.on_of_get (hget (f := R.BANDi_e_W1_VALID i e) (by simp only [R.BANDi_e_W1_VALID]; omega)),
    hget (f := R.BANDi_e_W0_VCO_LO i e) (by simp only [R.BANDi_e_W0_VCO_LO]; omega),
    hget (f := R.BANDi_e_W0_VCO_HI i e) (by simp only [R.BANDi_e_W0_VCO_HI]; omega)]

theorem State.gateSet_false (i : Nat) : (s.gateSet i false).gateOpen i = false := by
  unfold State.gateOpen State.gateSet
  simp [List.contains_iff_mem]

theorem State.gateSet_true (i : Nat) : (s.gateSet i true).gateOpen i = true := List.contains_iff_mem.2 (mem_setAdd _ _)

/-! ## Writes of PLLi_CTRL -/

/-- The settings of the lock detector that a write of PLLi_CTRL stores. -/
def State.pllSet (s : State) (i v : Nat) : State := (s.put (pllLockN i) (v / 16)).put (pllLockW i) (v / 256)

theorem State.pllSet_only (i v : Nat) : only s (s.pllSet i v) [0x18100 + 0x10 * i] := by
  unfold State.pllSet
  rw [pllLockN_eq, pllLockW_eq]
  exact only_trans (only_put _ List.mem_cons_self) (only_put _ List.mem_cons_self)

theorem State.pllCtrl_start {i v : Nat} (hserved : s.served 0x018 = true) (hready : s.on R.SYS_STAT_READY = true)
    (hv : v % 2 = 1) (hoff : s.on (pllEn i) = false) : s.pllCtrl i v = (s.pllSet i v).pllStart i := by
  unfold State.pllCtrl
  dsimp only
  rw [if_neg (by simp [hserved, hready]), if_neg (by simp [hv]), if_pos hv, hoff, if_neg Bool.false_ne_true]
  rfl

theorem State.pllCtrl_stop {i v : Nat} (hserved : s.served 0x018 = true) (hready : s.on R.SYS_STAT_READY = true)
    (hv : v % 2 = 0) (h0 : i ≠ 0) (h3 : i ≠ 3) : ∃ clk, s.pllCtrl i v =
      (State.put { s.pllSet i v with clk := clk } (pllEn i) 0).put (R.PLLi_STAT_LOCK i) 0 := by
  unfold State.pllCtrl
  dsimp only
  rw [if_neg (by simp [hserved, hready]), if_neg (by simp [h0, h3]), if_neg (by omega)]
  exact ⟨_, rfl⟩

theorem State.pllCtrl_refused {i v : Nat} (hserved : s.served 0x018 = true) (hready : s.on R.SYS_STAT_READY = true)
    (hv : v % 2 = 0) (hi : i = 0 ∨ i = 3) : s.pllCtrl i v = s.raise E.CLK_REFUSED := by
  unfold State.pllCtrl
  rw [if_neg (by simp [hserved, hready]), if_pos (by simpa [hv] using hi)]

/-- A PLL that starts and finds a band. -/
theorem State.pllStart_shows {i e : Nat} (hi : i < 6) (hband : s.bandEntry i (s.vcoHz i) = some e) :
    (s.pllStart i).on (pllEn i) = true ∧ (s.pllStart i).get (R.PLLi_STAT_LOCK i) = 0 ∧ (s.pllStart i).get (R.PLLi_STAT_BAND i) = e ∧
      (s.pllStart i).get (R.PLLi_STAT_NO_BAND i) = 0 ∧ (s.pllStart i).gateOpen i = false ∧ ∀ a, (s.pllStart i).byte a = s.byte a := by
  set u := (s.put (pllEn i) 1).gateSet i false with hu
  have hput : only s u [0x18100 + 0x10 * i] := by
    rw [hu, pllEn_eq]
    exact only_upd (only_put _ List.mem_cons_self)
  have hstart : s.pllStart i = (s.put (pllEn i) 1).pllTune i u := rfl
  obtain ⟨hlock, hentry, hno, hgates, honly⟩ :=
    (s.put (pllEn i) 1).pllTune_shows ((s.bandEntry_congr hi hput.1 rfl).trans hband)
  have hen : u.get (pllEn i) = 1 := by
    rw [hu, pllEn_eq]
    exact s.get_put_fits (f := ⟨0x18100 + 0x10 * i, 0, 1⟩) (Nat.le_of_ble_eq_true rfl) Nat.one_lt_two
  have hnot : (pllEn i).reg ∉ pllShowRegs i := by
    rw [pllEn_eq]
    simp only [pllShowRegs, R.PLLi_STAT_LOCK, R.PLLi_RATIO_RATIO, List.mem_cons, List.not_mem_nil, or_false]
    omega
  rw [hstart]
  refine ⟨?_, hlock, hentry, hno, ?_, fun a => (honly.2.2.1 a).trans (hput.2.2.1 a)⟩
  · rw [State.on, State.get_of_only honly hnot, hen]
    rfl
  · rw [State.gateOpen, hgates]
    exact State.gateSet_false _ i

/-! ## Lock, its loss and the hop's time-out -/

/-- The time at which lock is declared, with its gate. -/
def State.lockShown (s : State) (i n : Nat) : State :=
  ((s.at (mapGet 0 s.clk.startAt i + 8 * n)).put (R.PLLi_STAT_LOCK i) 1).gateSet i true

theorem State.pllLock_declared {i n err : Nat} (hruns : s.pllRuns i = true) (hn : s.lockCycles i ≤ n) (herr : err ≤ s.lockWindow i) :
    s.pllLock i n err = if (decide (i < 4) && (s.lockShown i n).on R.SYS_STAT_STARTING &&
        decide (mapGet 0 s.clk.startAt i + msClk < (s.lockShown i n).now)) = true then (s.lockShown i n).selfFail 1
      else s.lockShown i n := by
  unfold State.pllLock
  rw [if_neg (by simp [hruns, hn, herr])]
  rfl

theorem State.pllLock_ignored {i n err : Nat} (h : n < s.lockCycles i ∨ s.lockWindow i < err) : s.pllLock i n err = s := by
  unfold State.pllLock
  exact if_pos (by simp only [Bool.or_eq_true, decide_eq_true_eq]; tauto)

theorem State.get_gateSet (i : Nat) (on : Bool) (f : Fld) : (s.gateSet i on).get f = s.get f := rfl

theorem State.lockShown_lock (i n : Nat) : (s.lockShown i n).get (R.PLLi_STAT_LOCK i) = 1 := by
  rw [State.lockShown, State.get_gateSet]
  exact State.get_put_fits _ (f := R.PLLi_STAT_LOCK i) (Nat.le_of_ble_eq_true rfl) Nat.one_lt_two

theorem State.lockShown_only (i n : Nat) : only s (s.lockShown i n) [(R.PLLi_STAT_LOCK i).reg] :=
  only_upd (only_trans (only_at s _) (only_put _ List.mem_cons_self))

/-- The registers that the self-test's items and their classes show in. -/
def selfRegs : List Nat := [R.SYS_SELFTEST_FAIL.reg, R.SYS_STAT_FATAL.reg] ++ toldRegs E.SYS_FATAL

theorem State.selfClass_only : only s s.selfClass selfRegs := by
  unfold State.selfClass
  exact only_ite (only_trans (only_trans (only_put _ (by decide)) (only_put _ (by decide))) (only_raise (by decide))) (only_put _ (by decide))

theorem State.selfClass_clk : s.selfClass.clk = s.clk := by
  unfold State.selfClass
  refine State.ite_of (P := fun t : State => t.clk = s.clk) ?_ (State.put_clk ..)
  rw [State.raise_clk, State.put_clk, State.put_clk]

theorem State.selfFail_only (i : Nat) : only s (s.selfFail i) selfRegs :=
  only_trans (only_put _ (by simp [selfRegs])) (State.selfClass_only _)

theorem State.selfFail_clk (i : Nat) : (s.selfFail i).clk = s.clk := (State.selfClass_clk _).trans (State.put_clk ..)

theorem State.selfClass_items : s.selfClass.get R.SYS_SELFTEST_FAIL = s.get R.SYS_SELFTEST_FAIL := by
  unfold State.selfClass
  refine State.ite_of (P := fun t : State => t.get R.SYS_SELFTEST_FAIL = s.get R.SYS_SELFTEST_FAIL) ?_ (s.get_put_reg _ (by decide))
  rw [State.get_raise_other _ (by decide), State.get_put_reg _ _ (by decide), State.get_put_reg _ _ (by decide)]

theorem State.selfFail_item {i : Nat} (hi : i < 14) : bit ((s.selfFail i).get R.SYS_SELFTEST_FAIL) i = true := by
  have hone : (s.put ⟨R.SYS_SELFTEST_FAIL.reg, i, 1⟩ 1).get ⟨R.SYS_SELFTEST_FAIL.reg, i, 1⟩ = 1 :=
    s.get_put_same 1 (by dsimp only; omega)
  rw [State.get_one_bit] at hone
  rw [State.selfFail, State.selfClass_items, State.bit_get _ _ (show i < R.SYS_SELFTEST_FAIL.w from hi),
    show R.SYS_SELFTEST_FAIL.lo + i = i from Nat.zero_add i]
  exact Bool.toNat_eq_one.1 hone

theorem State.lockLost_eq {i n err : Nat} (hlock : s.on (R.PLLi_STAT_LOCK i) = true) (hn : 4 ≤ n) (herr : s.lockWindow i < err) :
    ∃ startAt, s.lockLost i n err = { (s.put (R.PLLi_STAT_LOCK i) 0).raise E.CLK_LOCK_LOST with
      clk := { s.clk with startAt := startAt } } := by
  unfold State.lockLost
  dsimp only
  rw [if_neg (by simp [hlock, hn, herr]), State.raise_clk, State.put_clk]
  exact ⟨_, rfl⟩

theorem State.hopTimeout_eq (hhop : s.clk.hopping = true) (hnot : s.clk.timedOut = false) (hlock : s.on (R.PLLi_STAT_LOCK 1) = false) :
    s.hopTimeout = State.raise { s.at (s.clk.hopStart + max 1 (s.get R.CLK_CTRL_HOP_TO) * 100 * usClk) with
      clk := { s.clk with timedOut := true } } E.CLK_HOP_TIMEOUT := by
  unfold State.hopTimeout
  rw [if_pos (by simp [hhop, hnot, hlock])]
  rfl

end

/-- Settles O10: PLL i's control, status and ratio are registers of their own, apart from the band tables and the event registers. -/
theorem pllsStartLockAndStop : Obligations.PllsStartLockAndStop := by
  refine ⟨fun s hserved hready => ⟨_, rfl, ?_⟩, fun s i v e hserved hready hv hoff hband => ⟨_, rfl, ?_⟩,
    fun s i v hserved hready hv h0 h3 => ⟨_, rfl, ?_⟩, fun s i v hserved hready hv hi => ⟨_, rfl, ?_⟩,
    fun s i n err hruns => ⟨fun hn herr => ⟨_, rfl, ?_⟩, fun h => congrArg Host.Outcome.next (s.pllLock_ignored h)⟩,
    fun s i n err hlock hn herr => ⟨_, rfl, ?_⟩, fun s hhop hnot hlock => ⟨_, rfl, ?_⟩⟩
  · intro i k hi hk hoff
    rw [if_pos (by simp [hserved, hready])]
    exact s.reloadTo_band (Nat.le_refl 6) hi hk hoff
  · rw [s.pllCtrl_start hserved hready hv hoff]
    have hset := s.pllSet_only i.val v.toNat
    obtain ⟨hen, hlock, hentry, hno, hgate, hbytes⟩ :=
      (s.pllSet i.val v.toNat).pllStart_shows i.isLt ((s.bandEntry_congr i.isLt hset.1 rfl).trans hband)
    exact ⟨hen, hlock, hentry, hno, hgate, fun a => (hbytes a).trans (hset.2.2.1 a)⟩
  · obtain ⟨clk, heq⟩ := s.pllCtrl_stop hserved hready hv h0 h3
    rw [heq, pllEn_eq]
    refine ⟨?_, State.get_put_same _ (f := R.PLLi_STAT_LOCK i.val) 0 (Nat.le_of_ble_eq_true rfl),
      only_trans (only_trans (only_upd (only_mono (s.pllSet_only i.val v.toNat) (List.cons_subset_cons _ (List.nil_subset _))))
        (only_put _ List.mem_cons_self)) (only_put _ (List.mem_cons_of_mem _ List.mem_cons_self))⟩
    rw [State.on, State.get_put_reg _ _ (by simp only [R.PLLi_STAT_LOCK]; omega), State.get_put_same _ 0 (Nat.le_of_ble_eq_true rfl)]
    rfl
  · rw [s.pllCtrl_refused hserved hready hv hi]
    exact told_raise_only s (by decide)
  · rw [s.pllLock_declared hruns hn herr]
    have hshow := s.lockShown_only i.val n
    have hlock := s.lockShown_lock i.val n
    have hgate : (s.lockShown i.val n).gateOpen i.val = true := State.gateSet_true _ i.val
    have hstart : (s.lockShown i.val n).on R.SYS_STAT_STARTING = s.on R.SYS_STAT_STARTING := State.on_of_get
      (State.get_of_only hshow (by simp only [R.PLLi_STAT_LOCK, R.SYS_STAT_STARTING, List.mem_singleton]; omega))
    have hnow : (s.lockShown i.val n).now = max s.now (mapGet 0 s.clk.startAt i.val + 8 * n) := rfl
    have hlate : (decide (i.val < 4) && (s.lockShown i.val n).on R.SYS_STAT_STARTING &&
        decide (mapGet 0 s.clk.startAt i.val + msClk < (s.lockShown i.val n).now)) = true ↔
        (i.val < 4 ∧ s.on R.SYS_STAT_STARTING = true ∧
          mapGet 0 s.clk.startAt i.val + msClk < max s.now (mapGet 0 s.clk.startAt i.val + 8 * n)) := by
      rw [hstart, hnow]
      simp only [Bool.and_eq_true, decide_eq_true_eq, and_assoc]
    split
    · next h =>
      have hnot : (R.PLLi_STAT_LOCK i.val).reg ∉ selfRegs := by
        have hi := i.isLt
        simp only [selfRegs, toldRegs, E.SYS_FATAL, intRawBit, evtCnt, R.PLLi_STAT_LOCK, R.SYS_SELFTEST_FAIL, R.SYS_STAT_FATAL,
          List.cons_append, List.nil_append, List.mem_cons, List.not_mem_nil, or_false]
        omega
      refine ⟨(State.get_of_only (State.selfFail_only _ 1) hnot).trans hlock, ?_, fun _ => State.selfFail_item _ (by decide),
        fun hno => absurd (hlate.1 h) hno⟩
      rw [State.gateOpen, State.selfFail_clk]
      exact hgate
    · next h => exact ⟨hlock, hgate, fun hyes => absurd (hlate.2 hyes) h, fun _ => hshow⟩
  · obtain ⟨startAt, heq⟩ := s.lockLost_eq hlock hn herr
    have hput : only s (s.put (R.PLLi_STAT_LOCK i.val) 0) [(R.PLLi_STAT_LOCK i.val).reg] := only_put _ List.mem_cons_self
    have hi := i.isLt
    have hnot : (R.PLLi_STAT_LOCK i.val).reg ∉ toldRegs E.CLK_LOCK_LOST := by
      simp only [toldRegs, E.CLK_LOCK_LOST, intRawBit, evtCnt, R.PLLi_STAT_LOCK, List.mem_cons, List.not_mem_nil, or_false]
      omega
    have hen : (pllEn i.val).reg ≠ (R.PLLi_STAT_LOCK i.val).reg ∧ (pllEn i.val).reg ∉ toldRegs E.CLK_LOCK_LOST := by
      rw [pllEn_eq]
      simp only [toldRegs, E.CLK_LOCK_LOST, intRawBit, evtCnt, R.PLLi_STAT_LOCK, List.mem_cons, List.not_mem_nil, or_false]
      omega
    rw [heq]
    refine ⟨(State.get_raise_other _ hnot).trans (State.get_put_same _ (f := R.PLLi_STAT_LOCK i.val) 0 (Nat.le_of_ble_eq_true rfl)),
      told_raise_of_regsSame s (by decide) hput.1 fun a ha hmem => hnot (List.mem_singleton.1 hmem ▸ ha),
      State.on_of_get ((State.get_raise_other _ hen.2).trans (s.get_put_reg _ hen.1)), rfl,
      only_upd (only_trans (only_mono hput (List.cons_subset_cons _ (List.nil_subset _))) (only_raise (List.subset_cons_self _ _)))⟩
  · rw [s.hopTimeout_eq hhop hnot hlock]
    refine ⟨?_, told_raise_of_regsSame s (L := []) (by decide) (State.regsSame.of_regs rfl) (by decide), ?_,
      only_trans (only_of_eq rfl rfl rfl rfl rfl) (only_raise (List.Subset.refl _))⟩
    · rw [State.raise_clk]
    · rw [State.raise_now]
      rfl

end Sys2Proof.Machine
end

/-! PROOFS. What the checks of a bank read (R179, Table 8-3): registers of EXP, RDO, ENGG, MEM and the bank's own of JOB, values in force,
and which banks are in use. -/
section
namespace Sys2Proof.Machine

/-- The registers of JOB that its command register and its status hold. -/
def jobCtrlRegs : List Nat := [R.JOB_CTRL_BANK.reg, R.JOB_STAT_ARMED.reg]

/-- Two states agree in all that a bank's checks read. -/
structure JobAlike (s t : State) : Prop where
  regs : s.regsSame t jobCtrlRegs
  force : t.force = s.force
  active : t.job.active = s.job.active
  busy : t.job.busy = s.job.busy

section
variable {s t : State} (h : JobAlike s t)
include h

theorem JobAlike.get {f : Fld} (hf : f.reg ≠ 0x1A040 ∧ f.reg ≠ 0x1A044) : t.get f = s.get f :=
  State.get_of_regsSame h.regs (by simpa [jobCtrlRegs, R.JOB_CTRL_BANK, R.JOB_STAT_ARMED] using hf)

theorem JobAlike.on {f : Fld} (hf : f.reg ≠ 0x1A040 ∧ f.reg ≠ 0x1A044) : t.on f = s.on f := State.on_of_get (h.get hf)

theorem JobAlike.act (f : Fld) : t.act f = s.act f := State.act_of_force h.force

/-! ## Exposure slots of a bank -/

variable {x : Nat} (hx : x < 2)
include hx

theorem JobAlike.slotsOn : t.slotsOn x = s.slotsOn x := by
  refine List.filter_congr fun k hk => h.on ?_
  have hk := List.mem_range.1 hk
  simp only [R.EXP_x_SLOTk_CTRL_EN]
  omega

omit h hx in
theorem slotsOn_lt {k : Nat} (hk : k ∈ s.slotsOn x) : k < 4 := List.mem_range.1 (List.mem_filter.1 hk).1

/-- The slot fields that the fit and the budget read. -/
theorem JobAlike.slot {k : Nat} (hk : k < 4) :
    t.slotPh x k = s.slotPh x k ∧ t.slotLen x k = s.slotLen x k ∧ t.slotRowset x k = s.slotRowset x k ∧ t.slotRows x k = s.slotRows x k := by
  have hctrl : (R.EXP_x_SLOTk_CTRL_EN x k).reg ≠ 0x1A040 ∧ (R.EXP_x_SLOTk_CTRL_EN x k).reg ≠ 0x1A044 := by
    simp only [R.EXP_x_SLOTk_CTRL_EN]
    omega
  refine ⟨h.get ?_, h.get ?_, h.get hctrl, ?_⟩
  · simp only [R.EXP_x_SLOTk_TIME_START_PH]
    omega
  · simp only [R.EXP_x_SLOTk_TIME_LENGTH]
    omega
  · unfold State.slotRows State.slotDepth
    rw [h.get (f := R.EXP_x_SLOTk_CTRL_BANDS x k) hctrl, h.get (f := R.EXP_x_SLOTk_CTRL_DEPTH_M1 x k) hctrl,
      h.get (f := R.EXP_x_SLOTk_CTRL_PERIOD x k) hctrl, h.get (f := R.EXP_x_SLOTk_CTRL_RANK_FIRST x k) hctrl]

theorem JobAlike.tFit : t.tFit x = s.tFit x := by
  have hstart : ∀ (f : Frac), ∀ k ∈ s.slotsOn x,
      fracMax f (fitA (t.slotPh x k) (t.slotLen x k)) = fracMax f (fitA (s.slotPh x k) (s.slotLen x k)) := fun f k hk => by
    obtain ⟨hph, hlen, -, -⟩ := h.slot hx (slotsOn_lt hk)
    rw [hph, hlen]
  unfold State.tFit
  rw [h.slotsOn hx]
  dsimp only
  rw [List.foldl_ext _ _ _ (l := s.slotsOn x) hstart]
  refine List.foldl_ext _ _ _ fun f j hj => List.foldl_ext _ _ _ fun f k hk => ?_
  obtain ⟨hph, hlen, hset, -⟩ := h.slot hx (slotsOn_lt hj)
  obtain ⟨hph', hlen', hset', -⟩ := h.slot hx (slotsOn_lt hk)
  rw [hph, hlen, hset, hph', hset']

theorem JobAlike.nRead : t.nRead x = s.nRead x := by
  unfold State.nRead State.rowsTo
  rw [h.slotsOn hx]
  refine List.foldl_ext _ _ _ fun m b _ => congrArg (max m) (List.foldl_ext _ _ _ fun n k hk => ?_)
  obtain ⟨-, -, -, hrows⟩ := h.slot hx (slotsOn_lt hk)
  rw [hrows]

omit hx in
theorem JobAlike.expCode : t.expCode x = s.expCode x := by
  unfold State.expCode
  rw [h.get (by decide), h.get (by decide)]

theorem JobAlike.readBudget : t.readBudget x = s.readBudget x := by
  have hread (n : Nat) : t.fReadOf n = s.fReadOf n := by
    unfold State.fReadOf State.trsEff
    rw [h.act, h.get (by decide)]
  unfold State.readBudget
  rw [h.expCode, h.nRead hx, h.tFit hx, hread]

omit hx in
theorem JobAlike.smask : t.smask x = s.smask x := by
  refine List.foldl_ext _ _ _ fun m w hw => ?_
  have hw := List.mem_range.1 hw
  rw [h.get (f := R.ENGG_x_SMASKw_SHINGLE x w) (by simp only [R.ENGG_x_SMASKw_SHINGLE]; omega)]

omit hx in
theorem JobAlike.ingestPorts : t.ingestPorts = s.ingestPorts := by
  unfold State.ingestPorts State.ctxEn State.ctxPort
  simp only [h.act]

theorem JobAlike.ddrLoad : t.ddrLoad x = s.ddrLoad x := by
  unfold State.ddrLoad State.rateCap
  rw [h.readBudget hx, h.act, h.smask, h.ingestPorts, h.get (f := R.MEM_BW_RES_RES) (by decide),
    h.on (f := R.JOB_x_LEARN_EN x) (by simp only [R.JOB_x_LEARN_EN]; omega)]

/-- The checks of a bank come out alike. -/
theorem JobAlike.jobCheck : t.jobCheck x = s.jobCheck x := by
  have hjob {f : Fld} (hf : 0x1A100 ≤ f.reg) : t.get f = s.get f := h.get (by omega)
  have hlines : t.proofLinesOf x = s.proofLinesOf x := hjob (by simp only [R.JOB_x_PROOF_LINES_LINES]; omega)
  have hrep : t.repeatLines x = s.repeatLines x := hjob (by simp only [R.JOB_x_REPEAT_REPEAT_LINES]; omega)
  have htol : t.repTol x = s.repTol x := hjob (by simp only [R.JOB_x_REPTOL_REP_TOL]; omega)
  have hlearn : t.learnEn x = s.learnEn x := State.on_of_get (hjob (by simp only [R.JOB_x_LEARN_EN]; omega))
  have hlacc : t.laccBase x = s.laccBase x := congrArg (· * 4096) (hjob (by simp only [R.JOB_x_LACC_BASE]; omega))
  have hmode : t.modeAct = s.modeAct := h.get (by decide)
  unfold State.jobCheck
  dsimp only
  rw [h.expCode, h.smask, h.ddrLoad hx, hlines, hrep, htol, hlearn, hlacc, hmode, h.active, h.busy,
    h.get (f := R.ENGG_STAT_COURSE_ON) (by decide),
    hjob (f := R.JOB_x_PROOF_BASE x) (by simp only [R.JOB_x_PROOF_BASE]; omega),
    hjob (f := R.JOB_x_OWN_OWN_HI x) (by simp only [R.JOB_x_OWN_OWN_HI]; omega),
    hjob (f := R.JOB_x_OWN_OWN_LO x) (by simp only [R.JOB_x_OWN_OWN_LO]; omega),
    State.on_of_get (hjob (f := R.JOB_x_CFG_REG_EN x) (by simp only [R.JOB_x_CFG_REG_EN]; omega))]

end

end Sys2Proof.Machine
end

/-! PROOFS. O11: START, ARM, STOP, CANCEL and the end of staging (R178, R179, R182, R183). -/
section
namespace Sys2Proof.Machine

section
variable (s : State)

/-! ## The fields of JOB_CTRL -/

theorem State.stagedShow_job : s.stagedShow.job = s.job := State.put_job ..

/-- The fields that a write stores, before the shows. -/
def State.jobStored (s : State) (v : Nat) : State :=
  let s1 := (s.put R.JOB_CTRL_BANK (v / 16)).put R.JOB_CTRL_SPLICE_EN (v / 32)
  if s1.jobRunning then s1 else s1.put R.JOB_CTRL_CHAIN_POS (v / 65536)

theorem State.jobStored_only (v : Nat) : only s (s.jobStored v) jobCtrlRegs := by
  have hbank : only s ((s.put R.JOB_CTRL_BANK (v / 16)).put R.JOB_CTRL_SPLICE_EN (v / 32)) jobCtrlRegs :=
    only_trans (only_put _ (by decide)) (only_put _ (by decide))
  exact only_ite hbank (only_trans hbank (only_put _ (by decide)))

theorem State.jobStored_job (v : Nat) : (s.jobStored v).job = s.job := by
  unfold State.jobStored
  refine State.ite_of (P := fun t : State => t.job = s.job) ?_ ?_
  · rw [State.put_job, State.put_job]
  · rw [State.put_job, State.put_job, State.put_job]

theorem State.jobStored_bank (v : Nat) : (s.jobStored v).get R.JOB_CTRL_BANK = v / 16 % 2 := by
  have hbank (u : State) : ((u.put R.JOB_CTRL_BANK (v / 16)).put R.JOB_CTRL_SPLICE_EN (v / 32)).get R.JOB_CTRL_BANK = v / 16 % 2 :=
    (State.get_put_bits _ _ (by decide)).trans (u.get_put_same _ (by decide))
  exact State.ite_of (P := fun t : State => t.get R.JOB_CTRL_BANK = v / 16 % 2) (hbank s)
    ((State.get_put_bits _ _ (by decide)).trans (hbank s))

theorem State.jobFields_eq (v : Nat) : ∃ splice, s.jobFields v = State.stagedShow { s.jobStored v with job := { s.job with splice := splice } } := by
  have hjob := s.jobStored_job v
  have hall : s.jobFields v = State.stagedShow (if (!s.on R.JOB_CTRL_SPLICE_EN && bit v 5) = true
      then { s.jobStored v with job := { (s.jobStored v).job with splice := true } } else s.jobStored v) := rfl
  rw [hall, hjob]
  split
  · exact ⟨true, rfl⟩
  · refine ⟨s.job.splice, congrArg State.stagedShow ?_⟩
    rw [← hjob]

theorem State.jobFields_only (v : Nat) : only s (s.jobFields v) jobCtrlRegs := by
  obtain ⟨splice, h⟩ := s.jobFields_eq v
  rw [h]
  exact only_trans (only_upd (s.jobStored_only v)) (only_mono (State.stagedShow_only _) (by decide))

theorem State.jobFields_job (v : Nat) : ∃ splice, (s.jobFields v).job = { s.job with splice := splice } := by
  obtain ⟨splice, h⟩ := s.jobFields_eq v
  rw [h, State.stagedShow_job]
  exact ⟨splice, rfl⟩

theorem State.jobFields_bank (v : Nat) : (s.jobFields v).get R.JOB_CTRL_BANK = v / 16 % 2 := by
  obtain ⟨splice, h⟩ := s.jobFields_eq v
  rw [h]
  exact (State.get_of_only (State.stagedShow_only _) (by decide)).trans (s.jobStored_bank v)

theorem State.jobFields_alike (v : Nat) : JobAlike s (s.jobFields v) := by
  obtain ⟨splice, hjob⟩ := s.jobFields_job v
  obtain ⟨hregs, hforce, -, -, -⟩ := s.jobFields_only v
  exact ⟨hregs, hforce, by rw [hjob], by rw [hjob]⟩

theorem State.jobFields_pwr (v : Nat) : (s.jobFields v).pwr = s.pwr := by
  obtain ⟨splice, h⟩ := s.jobFields_eq v
  have hstored : (s.jobStored v).pwr = s.pwr := by
    unfold State.jobStored
    refine State.ite_of (P := fun t : State => t.pwr = s.pwr) ?_ ?_
    · rw [State.put_pwr, State.put_pwr]
    · rw [State.put_pwr, State.put_pwr, State.put_pwr]
  rw [h, State.stagedShow, State.put_pwr]
  exact hstored

theorem State.jobFields_inRun (v : Nat) : (s.jobFields v).inRun = s.inRun := by
  unfold State.inRun State.power
  rw [s.jobFields_pwr, (s.jobFields_alike v).get (by decide)]

/-! ## Arming -/

/-- The registers that arming, or its refusal, may change. -/
def armRegs : List Nat := disarmRegs ++ toldRegs E.JOB_REFUSED

theorem State.dropArm_eq : s.dropArm =
    State.usedShow ((State.put { s with job := { s.job with armed := none } } R.JOB_STAT_ARMED 0).put R.JOB_STAT_DEFERRED 0) := rfl

theorem State.get_usedShow {f : Fld} (h : f.reg ≠ R.ENGG_STAT_COURSE_USED.reg) : s.usedShow.get f = s.get f := s.get_put_reg _ h

theorem State.usedShow_job : s.usedShow.job = s.job := State.put_job ..

theorem State.dropArm_shows : s.dropArm.job = { s.job with armed := none } ∧ s.dropArm.get R.JOB_STAT_ARMED = 0 ∧
    s.dropArm.get R.JOB_STAT_DEFERRED = 0 := by
  rw [s.dropArm_eq]
  refine ⟨?_, ?_, ?_⟩
  · rw [State.usedShow_job, State.put_job, State.put_job]
  · rw [State.get_usedShow _ (by decide), State.get_put_bits _ _ (by decide), State.get_put_same _ _ (by decide)]
    rfl
  · rw [State.get_usedShow _ (by decide), State.get_put_same _ _ (by decide)]
    rfl

theorem State.arm_refused {x : Nat} (h : s.jobCheck x ≠ 0) : s.arm x = s.refuseArm (s.jobCheck x) := by
  unfold State.arm
  exact if_pos h

theorem State.refuseArm_shows (code : Nat) : (s.refuseArm code).job = { s.job with armed := none } ∧
    (s.refuseArm code).get R.JOB_STAT_ARMED = 0 ∧ (s.refuseArm code).get R.JOB_STAT_REFUSE = code % 16 ∧
    told s (s.refuseArm code) E.JOB_REFUSED ∧ ∀ a, (s.refuseArm code).byte a = s.byte a := by
  obtain ⟨hjob, harmed, -⟩ := s.dropArm_shows
  have hput : only s (s.dropArm.put R.JOB_STAT_REFUSE code) [R.JOB_STAT_ARMED.reg, R.ENGG_STAT_COURSE_USED.reg] :=
    only_trans s.dropArm_only (only_put _ (by decide))
  unfold State.refuseArm
  refine ⟨?_, ?_, ?_, told_raise_of_regsSame s (by decide) hput.1 (by decide), fun a => ?_⟩
  · rw [State.raise_job, State.put_job, hjob]
  · rw [State.get_raise_other _ (by decide), State.get_put_bits _ _ (by decide), harmed]
  · rw [State.get_raise_other _ (by decide), State.get_put_same _ _ (by decide)]
    rfl
  · rw [State.byte_of_mem (State.raise_mem ..), hput.2.2.1]

/-- A bank is armed, before the shows. -/
def State.armedFor (s : State) (x : Nat) : State :=
  ((State.put { s with job := { s.job with armed := some x, splice := true } } R.JOB_STAT_ARMED 1).put R.JOB_STAT_DEFERRED 0).put
    R.JOB_STAT_REFUSE 0

theorem State.arm_ok {x : Nat} (h : s.jobCheck x = 0) : s.arm x = (s.armedFor x).usedShow.stagedShow := by
  unfold State.arm
  exact if_neg (by simp [h])

theorem State.armedFor_only (x : Nat) : only s (s.armedFor x) [R.JOB_STAT_ARMED.reg] :=
  only_trans (only_trans (only_trans (only_upd only_refl) (only_put _ (by decide))) (only_put _ (by decide))) (only_put _ (by decide))

theorem State.arm_shows {x : Nat} (h : s.jobCheck x = 0) : (s.arm x).job = { s.job with armed := some x, splice := true } ∧
    (s.arm x).get R.JOB_STAT_ARMED = 1 ∧ (s.arm x).get R.JOB_STAT_REFUSE = 0 ∧ ∀ a, (s.arm x).byte a = s.byte a := by
  have honly : only s (s.arm x) [R.JOB_STAT_ARMED.reg, R.ENGG_STAT_COURSE_USED.reg] := by
    rw [s.arm_ok h]
    exact only_trans (only_trans (only_mono (s.armedFor_only x) (by decide)) (only_mono (State.usedShow_only _) (by decide)))
      (only_mono (State.stagedShow_only _) (by decide))
  refine ⟨?_, ?_, ?_, honly.2.2.1⟩
  · rw [s.arm_ok h, State.stagedShow_job, State.usedShow_job, State.armedFor, State.put_job, State.put_job, State.put_job]
  · rw [s.arm_ok h, State.stagedShow, State.get_put_bits _ _ (by decide), State.get_usedShow _ (by decide), State.armedFor,
      State.get_put_bits _ _ (by decide), State.get_put_bits _ _ (by decide), State.get_put_same _ _ (by decide)]
    rfl
  · rw [s.arm_ok h, State.stagedShow, State.get_put_bits _ _ (by decide), State.get_usedShow _ (by decide), State.armedFor,
      State.get_put_same _ _ (by decide)]
    rfl

/-! ## The operations of a write -/

theorem State.jobStart_eq (hrun : s.inRun = true) (hjob : s.jobRunning = false) : s.jobStart = s.arm (s.get R.JOB_CTRL_BANK) := by
  unfold State.jobStart
  rw [if_neg (by simp [hrun]), if_neg (by simp [hjob])]

/-- A write whose only operation has bit i. -/
theorem bit_or_two_pow (v i j : Nat) : bit (v ||| 2 ^ i) j = (bit v j || decide (i = j)) := by
  rw [bit_eq_testBit, bit_eq_testBit, Nat.testBit_or, Nat.testBit_two_pow]

theorem or_two_pow_div (v : Nat) {i : Nat} (hi : i < 4) : (v ||| 2 ^ i) / 16 % 2 = v / 16 % 2 := by
  have h : bit (v ||| 2 ^ i) 4 = bit v 4 := by
    rw [bit_or_two_pow, decide_eq_false (by omega), Bool.or_false]
  unfold bit at h
  rcases Nat.mod_two_eq_zero_or_one (v / 16) with h0 | h0 <;> rcases Nat.mod_two_eq_zero_or_one ((v ||| 2 ^ i) / 16) with h1 | h1 <;>
    simp_all

/-- What the operations of JOB_CTRL do one after another, from START up. -/
def State.jobOps (s : State) (start stop arm cancel : Bool) : State :=
  let s2 := if start then s.jobStart else s
  let s3 := if stop then s2.jobStop else s2
  let s4 := if arm then s3.jobArm else s3
  if cancel then s4.jobCancel else s4

theorem State.jobCtrl_eq {v : Nat} (hserved : s.served 0x01A = true) : s.jobCtrl v =
    (s.jobFields v).jobOps (bit v 0) (bit v 1) (bit v 2) (bit v 3) := by
  unfold State.jobCtrl
  rw [if_neg (by simp [hserved])]
  rfl

/-- A write with one operation. -/
theorem State.jobCtrl_one {v i : Nat} (hserved : s.served 0x01A = true) (hclear : ∀ j < 4, j ≠ i → bit v j = false) :
    s.jobCtrl (v ||| 2 ^ i) = (s.jobFields (v ||| 2 ^ i)).jobOps (decide (i = 0)) (decide (i = 1)) (decide (i = 2)) (decide (i = 3)) := by
  have hbit (j : Nat) (hj : j < 4) : bit (v ||| 2 ^ i) j = decide (i = j) := by
    rw [bit_or_two_pow]
    by_cases h : j = i
    · simp [h]
    · rw [hclear j hj h, Bool.false_or]
  rw [s.jobCtrl_eq hserved, hbit 0 (by decide), hbit 1 (by decide), hbit 2 (by decide), hbit 3 (by decide)]

theorem bits_clear {v : Nat} {i : Nat} (h : ∀ j < 4, j ≠ i → v / 2 ^ j % 2 = 0) : ∀ j < 4, j ≠ i → bit v j = false :=
  fun j hj hne => by
    unfold bit
    rw [h j hj hne]
    rfl

/-! ## The end of staging -/

/-- A staging channel's last writes have arrived. -/
def State.chanArrive (s : State) (n : Nat) : State := (s.setChan n { s.chanOf n with writes := 0, own := 0 }).fenceShrink n 0

theorem State.chanArrive_regs (n : Nat) : (s.chanArrive n).regs = s.regs := rfl

theorem State.chanArrive_only (n : Nat) {L : List Nat} : only s (s.chanArrive n) L := only_of_eq rfl rfl rfl rfl rfl

theorem State.chanArrive_job (n : Nat) : (s.chanArrive n).job = s.job := rfl

theorem State.chanArrive_writes (n m : Nat) (h : m = n ∨ (s.chanOf m).writes = 0) : ((s.chanArrive n).chanOf m).writes = 0 := by
  have hchan : (s.chanArrive n).chanOf m = mapGet {} (mapSet {} s.dma.chan n { s.chanOf n with writes := 0, own := 0 }) m := rfl
  rw [hchan]
  by_cases hm : m = n
  · rw [hm, mapGet_set_same]
  · rw [mapGet_set_other _ _ _ _ hm]
    exact h.resolve_left hm

theorem State.chansArrive (ns : List Nat) : (∀ m, m ∈ ns ∨ (s.chanOf m).writes = 0 → ((ns.foldl State.chanArrive s).chanOf m).writes = 0) ∧
    (ns.foldl State.chanArrive s).regs = s.regs ∧ (ns.foldl State.chanArrive s).job = s.job ∧ only s (ns.foldl State.chanArrive s) [] := by
  induction ns generalizing s with
  | nil => exact ⟨fun m h => h.resolve_left List.not_mem_nil, rfl, rfl, only_refl⟩
  | cons n ns ih =>
    obtain ⟨hzero, hregs, hjob, honly⟩ := ih (s.chanArrive n)
    refine ⟨fun m hm => hzero m ?_, hregs, hjob, only_trans (s.chanArrive_only n) honly⟩
    rcases hm with hm | hm
    · rcases List.mem_cons.1 hm with rfl | hm
      · exact .inr (s.chanArrive_writes m m (.inl rfl))
      · exact .inl hm
    · exact .inr (s.chanArrive_writes n m (.inr hm))

end

/-- Settles O11: a write with one operation is its fields and that operation; the checks read nothing that the fields change. -/
theorem jobCommandsArmStopAndStage : Obligations.JobCommandsArmStopAndStage := by
  refine ⟨fun s v hserved hrun hjob hv => ?_, fun s v x hserved hactive h3 h01 hcheck => ⟨_, rfl, ?_⟩,
    fun s v hserved hjob h23 h0 => ⟨_, rfl, ?_⟩, fun s v hserved hv harmed => ⟨_, rfl, ?_⟩, fun s hready hempty => ⟨_, rfl, ?_⟩⟩
  · have hctrl : s.jobCtrl (v.toNat ||| 2 ^ 0) = (s.jobFields (v.toNat ||| 2 ^ 0)).jobOps true false false false :=
      s.jobCtrl_one hserved (bits_clear fun j hj hne => by interval_cases j <;> omega)
    obtain ⟨splice, hfields⟩ := s.jobFields_job (v.toNat ||| 2 ^ 0)
    have halike := s.jobFields_alike (v.toNat ||| 2 ^ 0)
    have hbank := s.jobFields_bank (v.toNat ||| 2 ^ 0)
    have hbytes := (s.jobFields_only (v.toNat ||| 2 ^ 0)).2.2.1
    have hregs := (s.jobFields_only (v.toNat ||| 2 ^ 0)).1
    have hrun' := (s.jobFields_inRun (v.toNat ||| 2 ^ 0)).trans hrun
    rw [or_two_pow_div _ (by decide)] at hbank
    generalize s.jobFields (v.toNat ||| 2 ^ 0) = u at hctrl hfields halike hbank hbytes hregs hrun'
    have hjob' : u.jobRunning = false := by rw [State.jobRunning, halike.active, ← State.jobRunning, hjob]
    have hstart : s.jobCtrl (v.toNat ||| 2 ^ 0) = u.arm (v.toNat / 16 % 2) := by
      rw [hctrl, State.jobOps]
      exact (u.jobStart_eq hrun' hjob').trans (by rw [hbank])
    have hcheck := halike.jobCheck (x := v.toNat / 16 % 2) (by omega)
    refine ⟨fun hok => ⟨_, rfl, ?_⟩, fun hbad => ⟨_, rfl, ?_⟩⟩
    · obtain ⟨hj, harmed, hrefuse, hbyte⟩ := u.arm_shows (hcheck.trans hok)
      rw [show v.toNat ||| 1 = v.toNat ||| 2 ^ 0 from rfl, hstart]
      exact ⟨by rw [hj], harmed, hrefuse, by rw [hj, hfields], fun a => (hbyte a).trans (hbytes a)⟩
    · obtain ⟨hj, harmed, hrefuse, htold, hbyte⟩ := u.refuseArm_shows (u.jobCheck (v.toNat / 16 % 2))
      rw [show v.toNat ||| 1 = v.toNat ||| 2 ^ 0 from rfl, hstart, u.arm_refused (by rw [hcheck]; exact hbad)]
      exact ⟨by rw [hj], harmed, by rw [hrefuse, hcheck], told_frame htold hregs (.refl (L := [])) (by decide) (by simp),
        fun a => (hbyte a).trans (hbytes a)⟩
  · have hctrl : s.jobCtrl (v.toNat ||| 2 ^ 2) = (s.jobFields (v.toNat ||| 2 ^ 2)).jobOps false false true false :=
      s.jobCtrl_one hserved (bits_clear fun j hj hne => by interval_cases j <;> omega)
    obtain ⟨splice, hfields⟩ := s.jobFields_job (v.toNat ||| 2 ^ 2)
    have halike := s.jobFields_alike (v.toNat ||| 2 ^ 2)
    generalize s.jobFields (v.toNat ||| 2 ^ 2) = u at hctrl hfields halike
    have harm : u.jobOps false false true false = u.arm (1 - x) := by
      have hu : u.job.active = some x := halike.active.trans hactive
      have hops : u.jobOps false false true false = u.jobArm := rfl
      rw [hops, State.jobArm, hu]
    obtain ⟨hj, harmed, hrefuse, -⟩ := u.arm_shows ((halike.jobCheck (x := 1 - x) (by omega)).trans hcheck)
    rw [show v.toNat ||| 4 = v.toNat ||| 2 ^ 2 from rfl, hctrl, harm]
    exact ⟨by rw [hj], harmed, hrefuse, by rw [hj, hfields]; exact hactive⟩
  · have hctrl : s.jobCtrl (v.toNat ||| 2 ^ 1) = (s.jobFields (v.toNat ||| 2 ^ 1)).jobOps false true false false :=
      s.jobCtrl_one hserved (bits_clear fun j hj hne => by interval_cases j <;> omega)
    obtain ⟨splice, hfields⟩ := s.jobFields_job (v.toNat ||| 2 ^ 1)
    have halike := s.jobFields_alike (v.toNat ||| 2 ^ 1)
    have hbytes := (s.jobFields_only (v.toNat ||| 2 ^ 1)).2.2.1
    generalize s.jobFields (v.toNat ||| 2 ^ 1) = u at hctrl hfields halike hbytes
    have hstop : u.jobOps false true false false = { u with job := { u.job with stopAt := true } } := by
      have hops : u.jobOps false true false false = u.jobStop := rfl
      rw [hops, State.jobStop, if_pos (by rw [State.jobRunning, halike.active]; exact hjob)]
    rw [show v.toNat ||| 2 = v.toNat ||| 2 ^ 1 from rfl, hctrl, hstop]
    exact ⟨rfl, by rw [hfields], hbytes⟩
  · have hctrl : s.jobCtrl (v.toNat ||| 2 ^ 3) = (s.jobFields (v.toNat ||| 2 ^ 3)).jobOps false false false true :=
      s.jobCtrl_one hserved (bits_clear fun j hj hne => by interval_cases j <;> omega)
    obtain ⟨splice, hfields⟩ := s.jobFields_job (v.toNat ||| 2 ^ 3)
    generalize s.jobFields (v.toNat ||| 2 ^ 3) = u at hctrl hfields
    have hcancel : u.jobOps false false false true = u.dropArm := by
      have hops : u.jobOps false false false true = u.jobCancel := rfl
      rw [hops, State.jobCancel, if_pos (by rw [hfields]; exact harmed)]
    obtain ⟨hj, harmed', hdeferred⟩ := u.dropArm_shows
    rw [show v.toNat ||| 8 = v.toNat ||| 2 ^ 3 from rfl, hctrl, hcancel]
    exact ⟨by rw [hj], harmed', hdeferred, by rw [hj, hfields]⟩
  · have harrive : s.stageArrive =
        ((bitsOf 32 (s.get (R.JOB_x_STAGE_CH_CH s.stageBank))).foldl State.chanArrive s).stagedShow := by
      unfold State.stageArrive
      exact if_pos (by simpa [hready] using hempty)
    obtain ⟨hzero, hregs, hjob, honly⟩ := s.chansArrive (bitsOf 32 (s.get (R.JOB_x_STAGE_CH_CH s.stageBank)))
    rw [harrive]
    generalize hns : bitsOf 32 (s.get (R.JOB_x_STAGE_CH_CH s.stageBank)) = ns at hzero hregs hjob honly hempty
    generalize ns.foldl State.chanArrive s = u at hzero hregs hjob honly
    have hget (f : Fld) : u.get f = s.get f := State.get_of_regs hregs
    have hbank : u.stageBank = s.stageBank := by rw [State.stageBank, hjob, hget, State.stageBank]
    have hall : u.staged u.stageBank = true := by
      unfold State.staged
      rw [hbank, hget, hns, State.on_of_get (hget _), hready, Bool.true_and]
      refine List.all_eq_true.2 fun n hn => ?_
      rw [hzero n (.inl hn), State.chanEmpty, hget, hget, ← State.chanEmpty, hempty n hn]
      rfl
    refine ⟨?_, only_trans (only_mono honly (List.nil_subset _)) u.stagedShow_only⟩
    rw [State.stagedShow, hall]
    exact u.get_put_fits (by decide) (by decide)

end Sys2Proof.Machine
end

/-! PROOFS. O13: flywheel boundaries, missed marks and the end of learning (R176, R177, R197). -/
section
namespace Sys2Proof.Machine

section
variable (s : State)

/-! ## A boundary of the repeat -/

/-- The job and the registers that a boundary at tick n leaves. -/
theorem State.boundary_job (x n : Nat) (fly : Bool) : (s.boundary x n fly).job =
    { s.job with rep := { s.job.rep with boundary := n, number := (s.job.rep.number + 1) % 2 ^ 32, fly := fly, waits := fly }
                 adoptPend := false } := by
  unfold State.boundary
  dsimp only
  refine State.ite_of (P := fun t : State => t.job = _) ?_ ?_
  · rw [State.put_job, State.put_job]
    exact State.ite_of (P := fun t : State => t.job = _) (by rw [State.put_job, State.put_job]; rfl) rfl
  · exact State.ite_of (P := fun t : State => t.job = _) (by rw [State.put_job, State.put_job]; rfl) rfl

theorem State.lineRepeat_job (n : Nat) : (s.lineRepeat n).job = s.job := rfl

theorem State.lineRepeat_regs (n : Nat) : (s.lineRepeat n).regs = s.regs := rfl

theorem State.lineRepeat_mem (n : Nat) : (s.lineRepeat n).mem = s.mem := rfl

theorem State.repShow_job (n : Nat) : (s.repShow n).job = s.job := (State.put_job ..).trans (State.put_job ..)

theorem State.repShow_get (n : Nat) : (s.repShow n).get R.JOB_LINE_LINE = (n - s.job.rep.boundary) % 2 ^ 24 ∧
    (s.repShow n).get R.JOB_REPEAT_REPEAT = s.job.rep.number % 2 ^ 32 := by
  unfold State.repShow
  refine ⟨State.get_put_same _ _ (by decide), ?_⟩
  rw [State.get_put_reg _ _ (by decide), State.get_put_same _ _ (by decide)]
  rfl

theorem State.flywheel_eq {x : Nat} (hactive : s.job.active = some x) (hfirst : s.tick.firstTick = false) (hsrc : s.repSrc x ≠ 0)
    (htick : s.tick.tickno = s.job.rep.boundary + s.repeatLines x) :
    s.flywheel = ((s.boundary x s.tick.tickno true).repShow s.tick.tickno).lineRepeat s.tick.tickno := by
  unfold State.flywheel
  rw [hactive]
  exact if_neg (by simp [hfirst, hsrc, htick])

/-! ## A missed mark -/

/-- The miss, told. -/
def State.missTold (s : State) : State :=
  State.raise { s with job := { s.job with rep := { s.job.rep with waits := false, misses := s.job.rep.misses + 1 } } } E.JOB_MARK_MISS

theorem State.markMiss_eq {x : Nat} (hactive : s.job.active = some x) (hwaits : s.job.rep.waits = true)
    (hlate : s.job.rep.boundary + s.repTol x ≤ s.tick.tickno) : s.markMiss =
    if s.job.rep.misses + 1 = 4 then (s.missTold.rereg x).lineRepeat s.tick.tickno else s.missTold := by
  unfold State.markMiss
  rw [hactive]
  exact if_neg (by simp [hwaits, hlate])

theorem State.rereg_eq (x : Nat) : ∃ no, s.rereg x = { s.raise E.JOB_REREG with job := { s.job with reregNo := no } } := by
  have hjob : (s.raise E.JOB_REREG).job = s.job := State.raise_job ..
  unfold State.rereg
  dsimp only
  split
  · exact ⟨_, by rw [hjob]⟩
  · refine ⟨s.job.reregNo, ?_⟩
    rw [show ({ s.job with reregNo := s.job.reregNo } : Jobs) = (s.raise E.JOB_REREG).job from hjob.symm]

theorem State.missTold_job : s.missTold.job =
    { s.job with rep := { s.job.rep with waits := false, misses := s.job.rep.misses + 1 } } := State.raise_job ..

theorem State.told_missTold : told s s.missTold E.JOB_MARK_MISS :=
  told_raise_of_regsSame s (L := []) (by decide) (State.regsSame.of_regs rfl) (by decide)

theorem State.missTold_mem : s.missTold.mem = s.mem := State.raise_mem ..

/-! ## Reads of DDR4 and learning's finish -/

/-- The registers that errors of DDR4 show in. -/
def memErrRegs : List Nat :=
  [R.MEM_CE_CNT_COUNT.reg, R.MEM_UE_CNT_COUNT.reg, R.MEM_ERR_ADDR_LO_ADDR.reg, R.MEM_ERR_ADDR_HI_ADDR.reg] ++ toldRegs E.MEM_CE ++
    toldRegs E.MEM_UE

theorem State.errLatch_only (a : Nat) : only s (s.errLatch a) memErrRegs :=
  only_ite only_refl (only_trans (only_trans (only_put _ (by decide)) (only_put _ (by decide))) (only_put _ (by decide)))

theorem State.ceSeen_only (a : Nat) : only s (s.ceSeen a) memErrRegs :=
  only_trans (only_trans (only_trans (only_upd only_refl) (only_bump (by decide))) (only_raise (by decide))) (State.errLatch_only _ a)

theorem State.ddrRead_only (a n : Nat) : only s (s.ddrRead a n) memErrRegs :=
  only_trans (only_foldl _ fun u b _ => u.ceSeen_only b)
    (only_foldl _ fun _ b _ => only_trans (only_trans (only_bump (by decide)) (only_raise (by decide))) (State.errLatch_only _ b))

theorem adopt_notMem_memErrRegs (x : Nat) : (R.JOB_x_LEARN_ADOPT x).reg ∉ memErrRegs := by
  have hregs : memErrRegs = [0x1F060, 0x1F064, 0x1F068, 0x1F06C, 0x1F010, 0x1F020, 0x1F010, 0x1F020] := rfl
  rw [hregs]
  simp only [R.JOB_x_LEARN_ADOPT, List.mem_cons, List.not_mem_nil, or_false]
  omega

/-- The proof lines that learning writes. -/
def State.learnWrite (s u : State) (x free : Nat) : State :=
  (List.range (s.proofLinesOf x)).foldl (fun t p => t.setBytes (s.laccBase x + 98304 * p) (t.learnedLine x p free)) u

theorem State.learnWrite_regs (u : State) (x free : Nat) : (s.learnWrite u x free).regs = u.regs :=
  List.foldlRecOn (motive := fun t => t.regs = u.regs) _ _ rfl fun t ht _ _ => (State.setBytes_frame t _ _).1.trans ht

/-- The proof lines that still lack a count. -/
def State.shortLines (s : State) (x : Nat) : Nat := ((List.range (s.proofLinesOf x)).filter (s.lineShort x)).length

/-- The end of learning shown and told, with n lines short of a count. -/
def State.learnTold (s : State) (n : Nat) : State :=
  ((s.put R.JOB_LEARN_STAT_STATE 4).put R.JOB_LEARN_STAT_SHORT (min 65535 n)).raise E.JOB_LEARN_DONE

theorem State.learnTold_shows (n : Nat) : (s.learnTold n).get R.JOB_LEARN_STAT_STATE = 4 ∧
    (s.learnTold n).get R.JOB_LEARN_STAT_SHORT = min 65535 n ∧ told s (s.learnTold n) E.JOB_LEARN_DONE := by
  have hput : s.regsSame ((s.put R.JOB_LEARN_STAT_STATE 4).put R.JOB_LEARN_STAT_SHORT (min 65535 n)) [R.JOB_LEARN_STAT_STATE.reg] :=
    (State.regsSame_put _ (by decide)).trans (State.regsSame_put _ (by decide))
  unfold State.learnTold
  refine ⟨?_, ?_, told_raise_of_regsSame s (by decide) hput (by decide)⟩
  · rw [State.get_raise_other _ (by decide), State.get_put_bits _ _ (by decide)]
    exact s.get_put_fits (by decide) (by decide)
  · rw [State.get_raise_other _ (by decide)]
    exact State.get_put_fits _ (by decide) (lt_of_le_of_lt (Nat.min_le_left _ _) (by decide))

/-- The bank's own registers are not those that the end of learning shows in. -/
theorem State.learnTold_adopt (n x : Nat) : (s.learnTold n).on (R.JOB_x_LEARN_ADOPT x) = s.on (R.JOB_x_LEARN_ADOPT x) := by
  have hreg : (R.JOB_x_LEARN_ADOPT x).reg ≠ R.JOB_LEARN_STAT_STATE.reg ∧ (R.JOB_x_LEARN_ADOPT x).reg ∉ toldRegs E.JOB_LEARN_DONE := by
    simp only [toldRegs, E.JOB_LEARN_DONE, intRawBit, evtCnt, R.JOB_LEARN_STAT_STATE, R.JOB_x_LEARN_ADOPT,
      List.mem_cons, List.not_mem_nil, or_false]
    omega
  obtain ⟨hstat, htold⟩ := hreg
  unfold State.learnTold
  rw [State.on, State.get_raise_other _ htold, State.get_put_reg (f := R.JOB_LEARN_STAT_SHORT) _ _ hstat, State.get_put_reg _ _ hstat,
    State.on]

theorem State.learnFinish_eq {x : Nat} (hactive : s.job.active = some x) (hstate : s.get R.JOB_LEARN_STAT_STATE = 2)
    (hdone : s.shortLines x = 0 ∨ 4 * s.learnN x ≤ s.job.rep.number) : ∃ u : State, s.regsSame u memErrRegs ∧
      s.learnFinish = { u.learnTold (s.shortLines x) with job := { (u.learnTold (s.shortLines x)).job with
        adoptPend := (u.learnTold (s.shortLines x)).on (R.JOB_x_LEARN_ADOPT x) } } := by
  set r := s.ddrRead (s.laccBase x) (2 * 98304 * s.proofLinesOf x + 192 * s.proofLinesOf x) with hr
  refine ⟨s.learnWrite r.fresh.2 x r.fresh.1, ?_, ?_⟩
  · refine .trans (t := r) (State.ddrRead_only _ _ _).1 (.of_regs ?_)
    exact s.learnWrite_regs r.fresh.2 x r.fresh.1
  · have hdone' : ¬(decide (s.get R.JOB_LEARN_STAT_STATE ≠ 2) ||
        decide (s.shortLines x ≠ 0) && decide (s.job.rep.number < 4 * s.learnN x)) = true := by
      simp only [hstate, Bool.or_eq_true, Bool.and_eq_true, decide_eq_true_eq]
      omega
    unfold State.learnFinish
    rw [hactive]
    exact if_neg hdone'

theorem State.learnFinish_counts {x : Nat}
    (h : (∀ p, p < s.proofLinesOf x → s.lineShort x p = false) ∨ 4 * s.learnN x ≤ s.job.rep.number) :
    s.shortLines x = 0 ∨ 4 * s.learnN x ≤ s.job.rep.number := by
  refine h.imp_left fun hall => ?_
  rw [State.shortLines, List.length_eq_zero_iff, List.filter_eq_nil_iff]
  intro p hp
  rw [hall p (List.mem_range.1 hp)]
  exact Bool.false_ne_true

end

/-- Settles O13: the boundary and its shows leave the job but for the repeat; learning reads DDR4, writes the proof and tells its end. -/
theorem flywheelMissAndLearnFinish : Obligations.FlywheelMissAndLearnFinish := by
  refine ⟨fun s x hactive hfirst hsrc htick => ⟨_, rfl, ?_⟩, fun s x hactive hwaits hlate => ⟨_, rfl, ?_⟩,
    fun s x hactive hstate hdone => ⟨_, rfl, ?_⟩⟩
  · rw [s.flywheel_eq hactive hfirst hsrc htick]
    have hjob := s.boundary_job x s.tick.tickno true
    obtain ⟨hline, hrep⟩ := (s.boundary x s.tick.tickno true).repShow_get s.tick.tickno
    generalize s.boundary x s.tick.tickno true = u at hjob hline hrep
    dsimp only
    rw [State.lineRepeat_job, State.repShow_job, State.get_of_regs (State.lineRepeat_regs _ _), State.get_of_regs (State.lineRepeat_regs _ _),
      hline, hrep, hjob]
    refine ⟨rfl, rfl, rfl, rfl, ?_, Nat.mod_eq_of_lt (Nat.mod_lt _ (by decide)), hactive⟩
    dsimp only
    rw [Nat.sub_self, Nat.zero_mod]
  · rw [s.markMiss_eq hactive hwaits hlate]
    have hjob := s.missTold_job
    have htold := s.told_missTold
    have hmem := s.missTold_mem
    generalize s.missTold = u at hjob htold hmem
    split
    · next hfour =>
      obtain ⟨no, hrereg⟩ := u.rereg_eq x
      have htold' : told s (u.raise E.JOB_REREG) E.JOB_MARK_MISS :=
        told_raise_other htold (by decide) (by decide) (by decide) (.inr ⟨by decide, fun b b' hb hb' => by cases hb; cases hb'; decide⟩)
      dsimp only
      rw [State.lineRepeat_job, hrereg, hjob]
      refine ⟨rfl, rfl, ⟨htold'.1, htold'.2⟩, fun _ => u.get_raise _ (by decide), State.byte_of_mem ?_⟩
      rw [State.lineRepeat_mem]
      exact (State.raise_mem ..).trans hmem
    · next hfour =>
      dsimp only
      rw [hjob]
      exact ⟨rfl, rfl, htold, fun h => absurd h hfour, State.byte_of_mem hmem⟩
  · obtain ⟨u, hregs, heq⟩ := s.learnFinish_eq hactive hstate (s.learnFinish_counts hdone)
    rw [heq]
    obtain ⟨hfour, hshort, htold⟩ := u.learnTold_shows (s.shortLines x)
    have hadopt := u.learnTold_adopt (s.shortLines x) x
    generalize u.learnTold (s.shortLines x) = v at hfour hshort htold hadopt
    have hsame : u.on (R.JOB_x_LEARN_ADOPT x) = s.on (R.JOB_x_LEARN_ADOPT x) :=
      State.on_of_get (State.get_of_regsSame hregs (adopt_notMem_memErrRegs x))
    obtain ⟨hbit, hcnt⟩ := told_frame htold hregs (.refl (L := [])) (by decide) (fun _ _ => List.not_mem_nil)
    rw [State.shortLines] at hshort
    exact ⟨(State.get_upd _).trans hfour, ⟨(State.get_upd _).trans hbit, fun b hb => (State.get_upd _).trans (hcnt b hb)⟩,
      hadopt.trans hsame, (State.get_upd _).trans hshort⟩

end Sys2Proof.Machine
end

/-! PROOFS. Exposure: slots, their channels, strobe lines and transfers (R38–R51, R87, R390). -/
section
namespace Sys2Proof.Machine

section
variable (s : State)

/-! ## Slots of the line -/

/-- The slot that is changed is found changed. -/
theorem State.slotRun_setSlotRun {k : Nat} {r : SlotRun} {f : SlotRun → SlotRun} (h : s.slotRun k = some r)
    (hf : ∀ r, (f r).slot = r.slot) : (s.setSlotRun k f).slotRun k = some (f r) := by
  have hslot : r.slot = k := by simpa using List.find?_some h
  have hsel : ((fun r : SlotRun => decide (r.slot = k)) ∘ fun r => if r.slot = k then f r else r) = fun r => decide (r.slot = k) := by
    funext r
    by_cases hr : r.slot = k <;> simp [hr, hf]
  unfold State.slotRun at h ⊢
  unfold State.setSlotRun
  dsimp only
  rw [List.find?_map, hsel, h]
  simp [hslot]

theorem State.slotRun_of_slots {t : State} (k : Nat) (h : t.exp.slots = s.exp.slots) : t.slotRun k = s.slotRun k := by
  rw [State.slotRun, h, State.slotRun]

theorem State.setSlotRun_only (k : Nat) (f : SlotRun → SlotRun) (L : List Nat) : only s (s.setSlotRun k f) L :=
  only_of_eq rfl rfl rfl rfl rfl

theorem State.get_setSlotRun (k : Nat) (f : SlotRun → SlotRun) (g : Fld) : (s.setSlotRun k f).get g = s.get g := rfl

theorem State.now_setSlotRun (k : Nat) (f : SlotRun → SlotRun) : (s.setSlotRun k f).now = s.now := rfl

/-! ## The slots' channels -/

theorem State.slotFire_only (k : Nat) : only s (s.slotFire k) [(R.CCj_STAT_FIRE (12 + k)).reg] :=
  only_trans (only_trans (only_put (f := R.CCj_STAT_FIRE (12 + k)) _ (.head _)) (only_bump (f := R.CCj_STAT_FIRE_CNT (12 + k)) (.head _)))
    (only_put (f := R.CCj_STAT_ARMED (12 + k)) _ (.head _))

theorem State.slotFire_get (k : Nat) : (s.slotFire k).get (R.CCj_STAT_FIRE (12 + k)) = 1 ∧
    (s.slotFire k).get (R.CCj_STAT_ARMED (12 + k)) = 0 := by
  unfold State.slotFire Machine.chanOf
  refine ⟨?_, State.get_put_fits (f := R.CCj_STAT_ARMED (12 + k)) _ (Nat.le_of_ble_eq_true rfl) Nat.two_pos⟩
  rw [State.get_put_bits _ _ (by simp only [R.CCj_STAT_FIRE, R.CCj_STAT_ARMED]; omega),
    State.get_bump_bits _ (by simp only [R.CCj_STAT_FIRE, R.CCj_STAT_FIRE_CNT]; omega)]
  exact State.get_put_fits (f := R.CCj_STAT_FIRE (12 + k)) _ (Nat.le_of_ble_eq_true rfl) Nat.one_lt_two

theorem State.slotFire_exp (k : Nat) : (s.slotFire k).exp = s.exp :=
  (State.put_exp ..).trans ((State.put_exp ..).trans (State.put_exp ..))

theorem State.slotFire_now (k : Nat) : (s.slotFire k).now = s.now :=
  (State.put_now ..).trans ((State.put_now ..).trans (State.put_now ..))

theorem State.slotFire_rdo (k : Nat) : (s.slotFire k).rdo = s.rdo :=
  (State.put_rdo ..).trans ((State.put_rdo ..).trans (State.put_rdo ..))

theorem State.slotArm_only (k c : Nat) :
    only s (s.slotArm k c) [(R.CCj_STAT_FIRE (12 + k)).reg, (R.CCj_VAL_VAL (12 + k)).reg] :=
  only_trans (only_put (f := R.CCj_VAL_VAL (12 + k)) _ (.tail _ (.head _))) (only_put (f := R.CCj_STAT_ARMED (12 + k)) _ (.head _))

theorem State.slotArm_get (k c : Nat) : (s.slotArm k c).get (R.CCj_STAT_FIRE (12 + k)) = s.get (R.CCj_STAT_FIRE (12 + k)) ∧
    (s.slotArm k c).get (R.CCj_STAT_ARMED (12 + k)) = 1 ∧ (s.slotArm k c).get (R.CCj_VAL_VAL (12 + k)) = c % 2 ^ 32 := by
  have hreg : (R.CCj_STAT_FIRE (12 + k)).reg ≠ (R.CCj_VAL_VAL (12 + k)).reg := by
    simp only [R.CCj_STAT_FIRE, R.CCj_VAL_VAL]
    omega
  unfold State.slotArm Machine.chanOf
  refine ⟨?_, State.get_put_fits (f := R.CCj_STAT_ARMED (12 + k)) _ (Nat.le_of_ble_eq_true rfl) Nat.one_lt_two, ?_⟩
  · rw [State.get_put_bits _ _ (by simp only [R.CCj_STAT_FIRE, R.CCj_STAT_ARMED]; omega), State.get_put_reg _ _ hreg]
  · rw [State.get_put_reg (f := R.CCj_STAT_ARMED (12 + k)) _ _ hreg.symm]
    exact State.get_put_same (f := R.CCj_VAL_VAL (12 + k)) _ _ (Nat.le_refl 32)

theorem State.slotArm_exp (k c : Nat) : (s.slotArm k c).exp = s.exp := (State.put_exp ..).trans (State.put_exp ..)

theorem State.slotArm_now (k c : Nat) : (s.slotArm k c).now = s.now := (State.put_now ..).trans (State.put_now ..)

/-! ## Strobe lines -/

/-- The registers of the lamps' lives. -/
def lampLifeRegs : List Nat := (List.range 8).flatMap fun k => [(R.LAMP_LIFEk_LO_MS k).reg, (R.LAMP_LIFEk_HI_MS k).reg]

theorem State.lampAccrue_only {k : Nat} (hk : k < 8) (w : Nat) : only s (s.lampAccrue k w) lampLifeRegs := by
  have hreg : (R.LAMP_LIFEk_LO_MS k).reg ∈ lampLifeRegs ∧ (R.LAMP_LIFEk_HI_MS k).reg ∈ lampLifeRegs := by
    simp only [lampLifeRegs, List.mem_flatMap, List.mem_range]
    exact ⟨⟨k, hk, .head _⟩, k, hk, .tail _ (.head _)⟩
  unfold State.lampAccrue
  exact only_ite (only_trans (only_of_eq rfl rfl rfl rfl rfl) (only_put64 _ hreg.1 hreg.2)) only_refl

theorem State.lampAccrue_exp (k w : Nat) : (s.lampAccrue k w).exp = s.exp := by
  unfold State.lampAccrue
  exact State.ite_of (P := fun t => t.exp = s.exp) (State.put64_exp ..) rfl

theorem State.lampAccrue_now (k w : Nat) : (s.lampAccrue k w).now = s.now := by
  unfold State.lampAccrue
  exact State.ite_of (P := fun t => t.now = s.now) (State.put64_now ..) rfl

theorem State.lampAccrue_rdo (k w : Nat) : (s.lampAccrue k w).rdo = s.rdo := by
  unfold State.lampAccrue
  exact State.ite_of (P := fun t => t.rdo = s.rdo) (State.put64_rdo ..) rfl

/-- Is a line of the strobes driven by a lit slot? -/
def State.lineLit (s : State) (c : Nat) : Bool := s.exp.slots.any fun r => r.lit && bit r.chans c

/-- One strobe line follows the lit slots. -/
def State.strobeLine (rise fall : Nat → Nat) (s : State) (c : Nat) : State :=
  match mapFind s.exp.chanOn c with
  | none => if s.lineLit c then { s with exp := { s.exp with chanOn := mapIns s.exp.chanOn c (rise c) } } else s
  | some u =>
    if s.lineLit c then s else State.lampAccrue { s with exp := { s.exp with chanOn := mapDel s.exp.chanOn c } } c (fall c - u)

theorem State.strobeLevels_eq (rise fall : Nat → Nat) :
    s.strobeLevels rise fall = (List.range 8).foldl (State.strobeLine rise fall) s := rfl

/-- What a strobe line leaves: all but the list of lines that are on, the lamps' use and their life registers. -/
structure Strobed (s t : State) : Prop where
  frame : only s t lampLifeRegs
  exp : ∃ m, t.exp = { s.exp with chanOn := m }
  now : t.now = s.now
  rdo : t.rdo = s.rdo

theorem Strobed.refl : Strobed s s := ⟨only_refl, ⟨_, rfl⟩, rfl, rfl⟩

theorem Strobed.trans {s t u : State} (h : Strobed s t) (h' : Strobed t u) : Strobed s u := by
  obtain ⟨m, hm⟩ := h.exp
  obtain ⟨m', hm'⟩ := h'.exp
  exact ⟨only_trans h.frame h'.frame, ⟨m', by rw [hm', hm]⟩, h'.now.trans h.now, h'.rdo.trans h.rdo⟩

theorem Strobed.slots {s t : State} (h : Strobed s t) : t.exp.slots = s.exp.slots := by
  obtain ⟨m, hm⟩ := h.exp
  rw [hm]

theorem Strobed.xfers {s t : State} (h : Strobed s t) : t.exp.xfers = s.exp.xfers := by
  obtain ⟨m, hm⟩ := h.exp
  rw [hm]

theorem Strobed.lineLit {s t : State} (h : Strobed s t) (c : Nat) : t.lineLit c = s.lineLit c := by
  rw [State.lineLit, h.slots, State.lineLit]

theorem State.strobeLine_strobed (rise fall : Nat → Nat) {c : Nat} (hc : c < 8) : Strobed s (s.strobeLine rise fall c) := by
  unfold State.strobeLine
  split
  · split
    · exact ⟨only_of_eq rfl rfl rfl rfl rfl, ⟨_, rfl⟩, rfl, rfl⟩
    · exact .refl s
  · split
    · exact .refl s
    · exact ⟨only_trans (only_of_eq rfl rfl rfl rfl rfl) (State.lampAccrue_only _ hc _), ⟨_, State.lampAccrue_exp ..⟩,
        State.lampAccrue_now .., State.lampAccrue_rdo ..⟩

/-- What a line that follows the lit slots shows: from its rise on, where it is driven. -/
def State.lineAfter (s : State) (rise : Nat → Nat) (c : Nat) : Option Nat :=
  if s.lineLit c then some ((mapFind s.exp.chanOn c).getD (rise c)) else none

theorem State.strobeLine_same (rise fall : Nat → Nat) (c : Nat) :
    mapFind (s.strobeLine rise fall c).exp.chanOn c = s.lineAfter rise c := by
  unfold State.strobeLine State.lineAfter
  cases hlit : s.lineLit c <;> cases hon : mapFind s.exp.chanOn c with
  | none => simp [hon]
  | some u => simp [hon, State.lampAccrue_exp]

theorem State.strobeLine_other (rise fall : Nat → Nat) {c d : Nat} (h : d ≠ c) :
    mapFind (s.strobeLine rise fall c).exp.chanOn d = mapFind s.exp.chanOn d := by
  unfold State.strobeLine
  split
  · split
    · exact mapFind_ins_other _ _ h
    · rfl
  · split
    · rfl
    · rw [State.lampAccrue_exp]
      exact mapFind_del_other _ h

theorem State.strobeLines_find (rise fall : Nat → Nat) (c : Nat) (cs : List Nat) (hcs : ∀ d ∈ cs, d < 8) :
    mapFind (cs.foldl (State.strobeLine rise fall) s).exp.chanOn c =
      if c ∈ cs then s.lineAfter rise c else mapFind s.exp.chanOn c := by
  induction cs generalizing s with
  | nil => rfl
  | cons d cs ih =>
    have hlit := (s.strobeLine_strobed rise fall (hcs d (.head _))).lineLit c
    rw [List.foldl_cons, ih _ fun e he => hcs e (.tail _ he)]
    by_cases hd : c = d
    · subst hd
      rw [if_pos (List.mem_cons_self ..), State.strobeLine_same, State.lineAfter, hlit, State.strobeLine_same, State.lineAfter]
      cases hc : s.lineLit c <;> simp
    · rw [State.lineAfter, hlit, State.strobeLine_other _ _ _ hd]
      simp [State.lineAfter, hd]

theorem State.strobeLevels_strobed (rise fall : Nat → Nat) : Strobed s (s.strobeLevels rise fall) := by
  rw [s.strobeLevels_eq]
  exact List.foldlRecOn (motive := Strobed s) _ _ (.refl s) fun t ht c hc =>
    ht.trans (t.strobeLine_strobed rise fall (List.mem_range.1 hc))

/-- Each of the eight lines is on from its rise where a lit slot drives it, and off elsewhere. -/
theorem State.strobeLevels_find (rise fall : Nat → Nat) {c : Nat} (hc : c < 8) :
    mapFind (s.strobeLevels rise fall).exp.chanOn c = s.lineAfter rise c := by
  rw [s.strobeLevels_eq, s.strobeLines_find rise fall c _ fun d hd => List.mem_range.1 hd, if_pos (List.mem_range.2 hc)]

/-! ## Transfers -/

/-- What stays of a transfer as its turn comes. -/
def Xfer.bare (x : Xfer) : Xfer := { x with held := false, begun := none }

/-- What the turn of transfers leaves: everything but the event that one is held. -/
structure Advanced (s t : State) : Prop where
  frame : only s t (toldRegs E.EXP_TX_HELD)
  exp : t.exp = s.exp
  now : t.now = s.now
  rdo : t.rdo = s.rdo

theorem Advanced.raise {s t : State} (h : Advanced (s.raise E.EXP_TX_HELD) t) : Advanced s t :=
  ⟨only_trans (only_raise (List.Subset.refl _)) h.frame, h.exp.trans (State.raise_exp ..), h.now.trans (State.raise_now ..),
    h.rdo.trans (State.raise_rdo ..)⟩

theorem State.xferHeld_of_rdo {t : State} (x : Xfer) (h : t.rdo = s.rdo) : t.xferHeld x = s.xferHeld x := by
  unfold State.xferHeld State.pairBusy
  rw [h]

/-- The transfers keep their order and what they move; those before the turn stay as they are. -/
theorem xferStep_shape (t : Nat) (done xs : List Xfer) : Advanced s (xferStep s t done xs).1 ∧
    ∃ ys, (xferStep s t done xs).2 = done ++ ys ∧ ys.map Xfer.bare = xs.map Xfer.bare := by
  induction xs generalizing s done with
  | nil => exact ⟨⟨only_refl, rfl, rfl, rfl⟩, [], (List.append_nil _).symm, rfl⟩
  | cons x rest ih =>
    have next (u : State) (y : Xfer) (hy : y.bare = x.bare) : ∃ ys, (xferStep u t (done ++ [y]) rest).2 = done ++ ys ∧
        ys.map Xfer.bare = (x :: rest).map Xfer.bare := by
      obtain ⟨_, ys, hys, hmap⟩ := ih u (done ++ [y])
      exact ⟨y :: ys, by rw [hys, List.append_assoc, List.singleton_append], by rw [List.map_cons, hmap, hy, List.map_cons]⟩
    rw [xferStep]
    split
    · exact ⟨(ih s _).1, next s x rfl⟩
    · split
      · split
        · exact ⟨(ih s _).1, next s x rfl⟩
        · exact ⟨(ih _ _).1.raise, next _ _ rfl⟩
      · exact ⟨(ih s _).1, next s _ rfl⟩

/-- A transfer that nothing before it on its row sets and no readout holds begins. -/
theorem xferStep_begins {x : Xfer} (t : Nat) (done pre rest : List Xfer) (hbegun : x.begun = none) (hheld : s.xferHeld x = false)
    (hdone : ∀ y ∈ done, shareRowset y.rowsets x.rowsets = false) (hpre : ∀ y ∈ pre, shareRowset y.rowsets x.rowsets = false) :
    { x with begun := some t } ∈ (xferStep s t done (pre ++ x :: rest)).2 := by
  induction pre generalizing s done with
  | nil =>
    have hany : done.any (fun y => shareRowset y.rowsets x.rowsets) = false := by simpa using hdone
    rw [List.nil_append, xferStep, if_neg (by simp [hbegun, hany]), if_neg (by simp [hheld])]
    obtain ⟨_, ys, hys, _⟩ := xferStep_shape s t (done ++ [{ x with begun := some t }]) rest
    rw [hys]
    simp
  | cons y pre ih =>
    have next (u : State) (hu : u.rdo = s.rdo) (z : Xfer) (hz : z.rowsets = y.rowsets) :
        { x with begun := some t } ∈ (xferStep u t (done ++ [z]) (pre ++ x :: rest)).2 := by
      refine ih u _ ((s.xferHeld_of_rdo x hu).trans hheld) (fun w hw => ?_) fun w hw => hpre w (.tail _ hw)
      rcases List.mem_append.1 hw with hw | hw
      · exact hdone w hw
      · rw [List.mem_singleton.1 hw, hz]
        exact hpre y (.head _)
    rw [List.cons_append, xferStep]
    split
    · exact next s rfl y rfl
    · split
      · split
        · exact next s rfl y rfl
        · exact next _ (State.raise_rdo ..) _ rfl
      · exact next s rfl _ rfl

theorem State.xferAdvance_frame (t : Nat) : only s (s.xferAdvance t) (toldRegs E.EXP_TX_HELD) ∧ (s.xferAdvance t).now = s.now ∧
    ∃ xs, (s.xferAdvance t).exp = { s.exp with xfers := xs } ∧ xs.map Xfer.bare = s.exp.xfers.map Xfer.bare := by
  obtain ⟨hadv, ys, hys, hmap⟩ := xferStep_shape s t [] s.exp.xfers
  refine ⟨only_trans hadv.frame (only_of_eq rfl rfl rfl rfl rfl), hadv.now, (xferStep s t [] s.exp.xfers).2, ?_, ?_⟩
  · exact congrArg (fun e : Exposure => { e with xfers := (xferStep s t [] s.exp.xfers).2 }) hadv.exp
  · rw [hys]
    exact hmap

end

/-! ## Slots start and end -/

section
variable (s : State)

theorem State.slotStart_eq {k : Nat} {r : SlotRun} (h : s.slotRun k = some r) (hstarted : r.started = false) (hended : r.ended = false)
    (hfree : s.slotBlocked r = false) : s.slotStart k =
    (((s.at (max r.start s.now)).slotFire k).slotArm k (max r.start s.now - r.edge + r.len)).setSlotRun k
      fun r' => { r' with started := true, start := max r.start s.now } := by
  unfold State.slotStart
  rw [h]
  exact if_neg (by simp [hstarted, hended, hfree])

/-- The time at which a strobe line falls with the end of its slot. -/
def State.fallAt (s : State) (k t c : Nat) : Nat :=
  match s.slotRun k with
  | none => 50 * t
  | some r => min (r.offAt c) (50 * t)

theorem State.strobeEnd_eq (k t : Nat) : s.strobeEnd k t =
    (s.setSlotRun k (fun r => { r with lit := false })).strobeLevels (s.fallAt k t) (s.fallAt k t) := rfl

theorem State.slotEnd_eq {k : Nat} {r : SlotRun} (h : s.slotRun k = some r) (hstarted : r.started = true) (hended : r.ended = false) :
    s.slotEnd k = (State.xferPush ((((s.at (r.start + r.len)).slotFire k).strobeEnd k (r.start + r.len)).setSlotRun k
      fun r' => { r' with ended := true }) r false).xferAdvance (r.start + r.len) := by
  unfold State.slotEnd
  rw [h]
  exact if_neg (by simp [hstarted, hended])

/-- What the end of a strobe leaves; its slot is dark. -/
theorem State.strobeEnd_shape {k : Nat} {r : SlotRun} (h : s.slotRun k = some r) (t : Nat) :
    only s (s.strobeEnd k t) lampLifeRegs ∧ (s.strobeEnd k t).now = s.now ∧ (s.strobeEnd k t).exp.xfers = s.exp.xfers ∧
    (s.strobeEnd k t).slotRun k = some { r with lit := false } := by
  have hst := (s.setSlotRun k fun r => { r with lit := false }).strobeLevels_strobed (s.fallAt k t) (s.fallAt k t)
  rw [s.strobeEnd_eq]
  refine ⟨only_trans (s.setSlotRun_only k _ _) hst.frame, hst.now, hst.xfers, ?_⟩
  rw [State.slotRun_of_slots _ k hst.slots]
  exact s.slotRun_setSlotRun h fun _ => rfl

end

section
variable (k : Fin 4)

theorem chanStat_notMem : (R.CCj_STAT_FIRE (12 + k.val)).reg ∉ lampLifeRegs ∧
    (R.CCj_STAT_FIRE (12 + k.val)).reg ∉ toldRegs E.EXP_TX_HELD ∧ (intRaw 0x016).reg ∉ [(R.CCj_STAT_FIRE (12 + k.val)).reg] := by
  revert k
  decide

end

/-- Settles O18: the slot's channel is written in its own registers, and the lines and transfers write none of them. -/
theorem slotsStartAndEnd : Obligations.SlotsStartAndEnd := by
  refine ⟨fun s k r hr hstarted hended hfree => ⟨_, rfl, ?_⟩, fun s k r hr hstarted hended => ⟨_, rfl, ?_⟩⟩
  · rw [s.slotStart_eq hr hstarted hended hfree]
    set m := max r.start s.now with hm
    set u := (s.at m).slotFire k.val with hu
    have hrun : (u.slotArm k.val (m - r.edge + r.len)).slotRun k.val = some r := by
      rw [← hr]
      refine State.slotRun_of_slots s k.val ?_
      rw [State.slotArm_exp, hu, State.slotFire_exp]
      rfl
    obtain ⟨hfire, harmed, hval⟩ := u.slotArm_get k.val (m - r.edge + r.len)
    refine ⟨⟨_, State.slotRun_setSlotRun _ hrun fun _ => rfl, rfl, hended, rfl, rfl⟩, ?_, ?_, ?_, ?_, ?_⟩
    · rw [State.get_setSlotRun, hfire, (State.slotFire_get _ k.val).1]
    · rw [State.get_setSlotRun, harmed]
    · rw [State.get_setSlotRun, hval]
    · rw [State.now_setSlotRun]
      have hnow : (u.slotArm k.val (m - r.edge + r.len)).now = (s.at m).now := (State.slotArm_now ..).trans (State.slotFire_now ..)
      refine hnow.trans ?_
      rw [hm, State.at]
      dsimp only
      omega
    · have hfired : only (s.at m) u [(R.CCj_STAT_FIRE (12 + k.val)).reg, (R.CCj_VAL_VAL (12 + k.val)).reg] :=
        only_mono (State.slotFire_only (s.at m) k.val) (List.cons_subset_cons _ (List.nil_subset _))
      exact only_trans (only_trans (only_trans (only_at s m) hfired) (u.slotArm_only k.val _)) (State.setSlotRun_only ..)
  · rw [s.slotEnd_eq hr hstarted hended]
    set d := r.start + r.len with hd
    set u := (s.at d).slotFire k.val with hu
    have hrun : u.slotRun k.val = some r := by
      rw [← hr]
      refine State.slotRun_of_slots s k.val ?_
      rw [hu, State.slotFire_exp]
      rfl
    obtain ⟨hfire, harmed⟩ : u.get (R.CCj_STAT_FIRE (12 + k.val)) = 1 ∧ u.get (R.CCj_STAT_ARMED (12 + k.val)) = 0 :=
      State.slotFire_get _ _
    have hframe : only s u [(R.CCj_STAT_FIRE (12 + k.val)).reg] := only_trans (only_at s d) (State.slotFire_only _ _)
    have hunow : u.now = max s.now d := State.slotFire_now ..
    clear_value u
    obtain ⟨hlamp, hnow, hxfers, hdark⟩ := u.strobeEnd_shape hrun d
    generalize u.strobeEnd k.val d = v at hlamp hnow hxfers hdark
    set w := (v.setSlotRun k.val fun r' => { r' with ended := true }).xferPush r false with hw
    have hpush : only v w [] := only_of_eq rfl rfl rfl rfl rfl
    obtain ⟨hadv, hadvnow, xs, hexp, hbare⟩ := w.xferAdvance_frame d
    have hslots : (w.xferAdvance d).exp.slots = w.exp.slots := by rw [hexp]
    obtain ⟨hnolamp, hnoheld, hnoraw⟩ := chanStat_notMem k
    have hlike (f : Fld) (hf : f.reg ∉ lampLifeRegs) (hf' : f.reg ∉ toldRegs E.EXP_TX_HELD) : (w.xferAdvance d).get f = u.get f := by
      rw [State.get_of_only hadv hf', State.get_of_only hpush List.not_mem_nil, State.get_of_only hlamp hf]
    refine ⟨⟨{ r with lit := false, ended := true }, ?_, rfl, rfl⟩, ?_, ?_, ?_, ?_, ?_, fun a => ?_⟩
    · rw [State.slotRun_of_slots w k.val hslots]
      exact v.slotRun_setSlotRun hdark fun _ => rfl
    · rw [hlike _ hnolamp hnoheld, hfire]
    · rw [hlike (R.CCj_STAT_ARMED (12 + k.val)) hnolamp hnoheld, harmed]
    · rw [hadv.1 _ (by decide), hpush.1 _ List.not_mem_nil, hlamp.1 _ (by decide)]
      exact hframe.1 _ hnoraw
    · have hin : ({ slot := r.slot, tickno := r.tickno, edge := r.edge, tap := r.tap, rowsets := r.rowsets } : Xfer) ∈
          xs.map Xfer.bare := by
        rw [hbare]
        exact List.mem_map.2 ⟨_, List.mem_append_right _ (List.mem_singleton_self _), rfl⟩
      obtain ⟨x, hx, hxeq⟩ := List.mem_map.1 hin
      rw [hexp]
      simp only [Xfer.bare, Xfer.mk.injEq] at hxeq
      obtain ⟨hslot, htick, -, htap, hsets, hdark', -, -⟩ := hxeq
      exact ⟨x, hx, hslot, htick, htap, hsets, hdark'⟩
    · rw [hadvnow]
      exact hnow.trans hunow
    · rw [hadv.2.2.1, hpush.2.2.1, hlamp.2.2.1]
      exact hframe.2.2.1 a

end Sys2Proof.Machine
end

/-! PROOFS. O19: strobes and tap transfers (R38, R40, R42, R49, R390). -/
section
namespace Sys2Proof.Machine

section
variable (s : State)

/-! ## Slack monitors -/

/-- The registers of the two tick slack monitors. -/
def tickMonRegs : List Nat := (tickMon 0).regs ++ (tickMon 1).regs

/-- A monitor writes registers alone. -/
theorem State.monEnter_eq (m : Mon) (w : Nat) (v : Int) : ∃ regs, s.monEnter m w v = { s with regs := regs } := by
  unfold State.monEnter
  dsimp only
  split <;> split <;> exact ⟨_, rfl⟩

/-- What slack that is entered leaves: all but the monitors. -/
structure Slacked (s t : State) : Prop where
  frame : only s t tickMonRegs
  exp : t.exp = s.exp
  now : t.now = s.now
  rdo : t.rdo = s.rdo

theorem Slacked.refl : Slacked s s := ⟨only_refl, rfl, rfl, rfl⟩

theorem Slacked.trans {s t u : State} (h : Slacked s t) (h' : Slacked t u) : Slacked s u :=
  ⟨only_trans h.frame h'.frame, h'.exp.trans h.exp, h'.now.trans h.now, h'.rdo.trans h.rdo⟩

theorem State.slackEnter_slacked {m : Nat} (hm : (tickMon m).regs ⊆ tickMonRegs) (v : Int) : Slacked s (s.slackEnter m v) := by
  unfold State.slackEnter
  split
  · exact .refl s
  · have hframe := State.monEnter_only s (tickMon m) (16 * 2 ^ (min 11 (s.get R.TICK_MON_CTRL_WSHIFT))) v
    obtain ⟨regs, heq⟩ := s.monEnter_eq (tickMon m) (16 * 2 ^ (min 11 (s.get R.TICK_MON_CTRL_WSHIFT))) v
    rw [heq] at hframe ⊢
    exact ⟨only_mono hframe hm, rfl, rfl, rfl⟩

theorem State.slackGive_slacked (r : SlackRec) : Slacked s (s.slackGive r).1 := by
  have first (c : Bool) (v : Int) (a b : SlackRec) : Slacked s (if c then (s.slackEnter 0 v, a) else (s, b)).1 := by
    cases c
    · exact .refl s
    · exact s.slackEnter_slacked (List.subset_append_left _ _) v
  have second (u : State) (h : Slacked s u) (c : Bool) (v : Int) (a b : SlackRec) :
      Slacked s (if c then (u.slackEnter 1 v, a) else (u, b)).1 := by
    cases c
    · exact h
    · exact h.trans (u.slackEnter_slacked (List.subset_append_right _ _) v)
  unfold State.slackGive
  cases r.edge1 with
  | none => 
    dsimp only
    split
    · exact second s (.refl s) _ _ _ _
    · exact .refl s
  | some e =>
    dsimp only
    split
    · exact second _ (first _ _ _ _) _ _ _ _
    · exact first _ _ _ _

/-- One record of the slack that is changed, the others as they were. -/
def slackOne (n : Nat) (f : SlackRec → SlackRec) (p : State × List SlackRec) (r : SlackRec) : State × List SlackRec :=
  if r.tickno = n then
    ((p.1.slackGive (f r)).1, if (p.1.slackGive (f r)).2.txIn && (p.1.slackGive (f r)).2.rdIn then p.2 else
      p.2 ++ [(p.1.slackGive (f r)).2])
  else (p.1, p.2 ++ [r])

theorem State.slackWith_eq (n : Nat) (f : SlackRec → SlackRec) : s.slackWith n f =
    { (s.exp.slacks.foldl (slackOne n f) (s, [])).1 with exp := { (s.exp.slacks.foldl (slackOne n f) (s, [])).1.exp with
        slacks := (s.exp.slacks.foldl (slackOne n f) (s, [])).2 } } := rfl

/-- A change of slack records writes the monitors and the records. -/
theorem State.slackWith_frame (n : Nat) (f : SlackRec → SlackRec) : only s (s.slackWith n f) tickMonRegs ∧
    (s.slackWith n f).now = s.now ∧ (s.slackWith n f).rdo = s.rdo ∧ ∃ rs, (s.slackWith n f).exp = { s.exp with slacks := rs } := by
  have h : Slacked s (s.exp.slacks.foldl (slackOne n f) (s, [])).1 :=
    List.foldlRecOn (motive := fun p : State × List SlackRec => Slacked s p.1) _ _ (.refl s) fun p hp r _ => by
      unfold slackOne
      split
      · exact hp.trans (State.slackGive_slacked _ _)
      · exact hp
  rw [s.slackWith_eq]
  generalize s.exp.slacks.foldl (slackOne n f) (s, []) = p at h
  exact ⟨only_trans h.frame (only_of_eq rfl rfl rfl rfl rfl), h.now, h.rdo, p.2, by rw [← h.exp]⟩

end

/-! ## Strobes come on and go off -/

section
variable (s : State)

theorem mem_bitsOf {n v i : Nat} : i ∈ bitsOf n v ↔ i < n ∧ bit v i = true := by
  simp [bitsOf]

/-- The slot's strobe is due: time has come and it is not begun twice. -/
def State.strobeDue (s : State) (k : Nat) (r : SlotRun) : State :=
  (s.at (ceilDiv ((s.strobeEdges r).foldl (fun m p => max m p.2.1) 0) 50)).setSlotRun k fun r => { r with strobed := true }

/-- The time at which a line of the slot rises. -/
def State.riseAt (s : State) (r : SlotRun) (c : Nat) : Nat := SlotRun.onAt { r with edges := s.strobeEdges r } c

theorem State.strobeDue_strobesOn (k : Nat) (r : SlotRun) : (s.strobeDue k r).strobesOn = s.strobesOn := rfl

theorem State.strobeDue_only (k : Nat) (r : SlotRun) (L : List Nat) : only s (s.strobeDue k r) L := only_of_eq rfl rfl rfl rfl rfl

theorem State.strobeDue_run {k : Nat} {r : SlotRun} (h : s.slotRun k = some r) :
    (s.strobeDue k r).slotRun k = some { r with strobed := true } :=
  State.slotRun_setSlotRun (s.at _) h fun _ => rfl

/-- The clip of a strobe, told. -/
def State.clipTold (s : State) (r : SlotRun) : State := if (bitsOf 8 r.chans).any (s.strobeOut r) then s.raise E.EXP_STROBE_CLIP else s

theorem State.clipTold_mem (r : SlotRun) : (s.clipTold r).mem = s.mem :=
  State.ite_of (P := fun t => t.mem = s.mem) (State.raise_mem ..) rfl

theorem State.clipTold_exp (r : SlotRun) : (s.clipTold r).exp = s.exp :=
  State.ite_of (P := fun t => t.exp = s.exp) (State.raise_exp ..) rfl

theorem State.strobeOn_driven {k : Nat} {r : SlotRun} (h : s.slotRun k = some r) (hstarted : r.started = true) (hended : r.ended = false)
    (hnew : r.strobed = false) (hchans : r.chans ≠ 0) (hon : s.strobesOn = true) : s.strobeOn k =
    (((s.strobeDue k r).clipTold r).setSlotRun k fun r' => { r' with lit := true, edges := s.strobeEdges r }).strobeLevels (s.riseAt r)
      (s.riseAt r) := by
  unfold State.strobeOn
  rw [h]
  refine (if_neg (by simp [hstarted, hended, hnew, hchans])).trans (if_neg ?_)
  change ¬(!(s.strobeDue k r).strobesOn) = true
  rw [show (!(s.strobeDue k r).strobesOn) = false by rw [s.strobeDue_strobesOn, hon]; rfl]
  exact Bool.false_ne_true

theorem State.strobeOn_dark {k : Nat} {r : SlotRun} (h : s.slotRun k = some r) (hstarted : r.started = true) (hended : r.ended = false)
    (hnew : r.strobed = false) (hchans : r.chans ≠ 0) (hoff : s.strobesOn = false) (hsuppr : s.lamp.suppressed ≠ some r.tickno) :
    s.strobeOn k = State.raise { s.strobeDue k r with lamp := { s.lamp with suppressed := some r.tickno } } E.LAMP_STROBE_SUPPR := by
  unfold State.strobeOn
  rw [h]
  refine (if_neg (by simp [hstarted, hended, hnew, hchans])).trans ((if_pos ?_).trans (if_neg hsuppr))
  exact show (!(s.strobeDue k r).strobesOn) = true by rw [s.strobeDue_strobesOn, hoff]; rfl

theorem State.strobeOff_eq {k : Nat} {r : SlotRun} (h : s.slotRun k = some r) (hlit : r.lit = true) : s.strobeOff k =
    (s.at (ceilDiv (r.edges.foldl (fun m p => max m p.2.2) 0) 50)).strobeEnd k (ceilDiv (r.edges.foldl (fun m p => max m p.2.2) 0) 50) := by
  unfold State.strobeOff
  rw [h]
  exact if_neg (by simp [hlit])

theorem State.lineLit_of_slotRun {k c : Nat} {r : SlotRun} (h : s.slotRun k = some r) (hlit : r.lit = true) (hc : bit r.chans c = true) :
    s.lineLit c = true :=
  List.any_eq_true.2 ⟨r, List.mem_of_find?_eq_some h, by simp [hlit, hc]⟩

theorem State.riseAt_eq (r : SlotRun) {c : Nat} (hc : c < 8) (hbit : bit r.chans c = true) :
    s.riseAt r c = 50 * r.start + (s.strobeClipped r c).1.toNat := by
  have hfind (cs : List Nat) (hin : c ∈ cs) : (cs.map fun c => (c, 50 * r.start + (s.strobeClipped r c).1.toNat,
      50 * r.start + (s.strobeClipped r c).2.toNat)).find? (fun p => p.1 = c) = some (c, 50 * r.start + (s.strobeClipped r c).1.toNat,
      50 * r.start + (s.strobeClipped r c).2.toNat) := by
    induction cs with
    | nil => exact absurd hin List.not_mem_nil
    | cons d cs ih =>
      by_cases hd : d = c
      · subst hd
        simp
      · rw [List.map_cons, List.find?_cons_of_neg (by simpa using hd)]
        exact ih ((List.mem_cons.1 hin).resolve_left (Ne.symm hd))
  rw [State.riseAt, SlotRun.onAt]
  dsimp only
  rw [State.strobeEdges, hfind _ (mem_bitsOf.2 ⟨hc, hbit⟩)]
  rfl

end

/-! ## Transfers end -/

section
variable (s : State)

/-- The tap holds a transfer's line. -/
def State.tapFill (s : State) (x : Xfer) (t : Nat) : State :=
  { s with exp := { s.exp with
      taps := x.rowsets.foldl (fun m rs => mapIns m (2 * x.tap + rs) { tickno := some x.tickno, since := t, dark := x.dark }) s.exp.taps
      xfers := s.exp.xfers.filter (fun y => y ≠ x) } }

theorem mapFind_foldl_ins {α : Type} (f : Nat → Nat) (v : α) (rs : List Nat) (m : SMap α) {r : Nat} (hr : r ∈ rs) :
    mapFind (rs.foldl (fun m r => mapIns m (f r) v) m) (f r) = some v := by
  have kept (rs : List Nat) (m : SMap α) (hm : mapFind m (f r) = some v) : mapFind (rs.foldl (fun m r => mapIns m (f r) v) m) (f r) = some v :=
    List.foldlRecOn (motive := fun m => mapFind m (f r) = some v) rs _ hm fun m hm q _ => by
      by_cases hq : f r = f q
      · rw [hq, mapFind_ins_same]
      · rw [mapFind_ins_other _ _ hq, hm]
  induction rs generalizing m with
  | nil => exact absurd hr List.not_mem_nil
  | cons q rs ih =>
    rw [List.foldl_cons]
    rcases List.mem_cons.1 hr with rfl | hr
    · exact kept rs _ (mapFind_ins_same ..)
    · exact ih _ hr

theorem State.transferDone_eq {k b : Nat} {x : Xfer} (h : s.exp.xfers.find? (fun x => x.slot = k && x.begun.isSome) = some x)
    (hb : x.begun = some b) : s.transferDone k =
    ((((s.at (b + 40)).tapFill x (b + 40)).put (R.EXP_SLOTk_MON_TX_TIME k) (min 0x3FFFFF (b + 40 - x.edge))).slackWith x.tickno fun r =>
      { r with txLeft := r.txLeft - 1, lastTx := max r.lastTx (b + 40) }).xferAdvance (b + 40) := by
  have hbegun : x.begun.getD 0 + transferClk = b + 40 := by rw [hb]; rfl
  unfold State.transferDone
  rw [h]
  dsimp only
  rw [hbegun]
  rfl

theorem monTx_notMem (k : Fin 4) : (R.EXP_SLOTk_MON_TX_TIME k).reg ∉ tickMonRegs ∧
    (R.EXP_SLOTk_MON_TX_TIME k).reg ∉ toldRegs E.EXP_TX_HELD := by
  revert k
  decide

end

/-- Settles O19: strobe lines follow the lit slots, each from its own rise; a transfer fills its taps before the next ones advance. -/
theorem strobesAndTransfers : Obligations.StrobesAndTransfers := by
  refine ⟨fun s k r hr hstarted hended hnew hchans => ⟨fun hon => ⟨_, rfl, ?_⟩, fun hoff hsuppr => ⟨_, rfl, ?_⟩⟩,
    fun s k r hr hlit => ⟨_, rfl, ?_⟩, fun s k x b hx hb => ⟨_, rfl, ?_⟩,
    fun s k x pre rest hxs hslot hheld hbegun hfree hpre => ⟨_, rfl, ?_⟩⟩
  · rw [s.strobeOn_driven hr hstarted hended hnew hchans hon]
    have hrun : ((s.strobeDue k r).clipTold r).slotRun k = some { r with strobed := true } :=
      (State.slotRun_of_slots _ _ (congrArg Exposure.slots (State.clipTold_exp ..))).trans (s.strobeDue_run hr)
    have hon' : ((s.strobeDue k r).clipTold r).exp.chanOn = s.exp.chanOn := by
      rw [State.clipTold_exp]
      rfl
    have hmem : ((s.strobeDue k r).clipTold r).mem = s.mem := State.clipTold_mem ..
    generalize (s.strobeDue k r).clipTold r = u at hrun hon' hmem
    set v := u.setSlotRun k fun r' => { r' with lit := true, edges := s.strobeEdges r } with hv
    have hlit : v.slotRun k = some { r with strobed := true, lit := true, edges := s.strobeEdges r } :=
      u.slotRun_setSlotRun hrun fun _ => rfl
    have hst := v.strobeLevels_strobed (s.riseAt r) (s.riseAt r)
    have hline (c : Nat) (hc : c < 8) (hbit : bit r.chans c = true) :
        mapFind (v.strobeLevels (s.riseAt r) (s.riseAt r)).exp.chanOn c = some ((mapFind s.exp.chanOn c).getD (s.riseAt r c)) := by
      rw [v.strobeLevels_find _ _ hc, State.lineAfter, v.lineLit_of_slotRun hlit rfl hbit, if_pos rfl, ← hon']
      rfl
    refine ⟨⟨_, (State.slotRun_of_slots _ _ hst.slots).trans hlit, rfl, rfl⟩, fun c hc hbit => ?_, fun c hc hbit hnone => ?_, fun a => ?_⟩
    · rw [hline c hc hbit]
      rfl
    · rw [hline c hc hbit, hnone, ← s.riseAt_eq r hc hbit]
      rfl
    · rw [hst.frame.2.2.1]
      exact State.byte_of_mem hmem a
  · rw [s.strobeOn_dark hr hstarted hended hnew hchans hoff hsuppr]
    set u : State := { s.strobeDue k r with lamp := { s.lamp with suppressed := some r.tickno } } with hu
    have hframe (L : List Nat) : only s u L := only_of_eq rfl rfl rfl rfl rfl
    refine ⟨?_, told_raise_of_regsSame s (L := []) (by decide) (hframe []).1 (by decide), ?_,
      only_trans (hframe _) (only_raise (List.Subset.refl _))⟩
    · rw [State.raise_lamp]
    · rw [State.raise_exp]
      rfl
  · rw [s.strobeOff_eq hr hlit]
    set d := ceilDiv (r.edges.foldl (fun m p => max m p.2.2) 0) 50 with hd
    have hrun : (s.at d).slotRun k.val = some r := hr
    obtain ⟨hframe, -, -, hdark⟩ := (s.at d).strobeEnd_shape hrun d
    refine ⟨⟨_, hdark, rfl⟩, fun c hc hothers => ?_, fun a => hframe.2.2.1 a⟩
    rw [State.strobeEnd_eq, State.strobeLevels_find _ _ _ hc, State.lineAfter, if_neg]
    intro hany
    obtain ⟨q, hq, hqlit⟩ := List.any_eq_true.1 hany
    obtain ⟨p, hp, rfl⟩ := List.mem_map.1 hq
    by_cases hk : p.slot = k.val
    · simp [hk] at hqlit
    · rw [if_neg hk, Bool.and_eq_true] at hqlit
      rw [hothers p hp hk hqlit.1] at hqlit
      exact absurd hqlit.2 Bool.false_ne_true
  · rw [s.transferDone_eq hx hb]
    set u := (s.at (b + 40)).tapFill x (b + 40) with hu
    have htaps (rs : Nat) (hrs : rs ∈ x.rowsets) : mapFind u.exp.taps (2 * x.tap + rs) =
        some { tickno := some x.tickno, since := b + 40, dark := x.dark } := mapFind_foldl_ins (2 * x.tap + ·) _ _ _ hrs
    have hmem (a : Nat) : u.byte a = s.byte a := rfl
    have hnow : u.now = max s.now (b + 40) := rfl
    clear_value u
    set v := u.put (R.EXP_SLOTk_MON_TX_TIME k) (min 0x3FFFFF (b + 40 - x.edge)) with hv
    have hget : v.get (R.EXP_SLOTk_MON_TX_TIME k) = min 0x3FFFFF (b + 40 - x.edge) :=
      State.get_put_fits (f := R.EXP_SLOTk_MON_TX_TIME k) _ (Nat.le_of_ble_eq_true rfl)
        (lt_of_le_of_lt (Nat.min_le_left _ _) (show 0x3FFFFF < 2 ^ 22 by decide))
    have hvexp : v.exp = u.exp := State.put_exp ..
    have hvnow : v.now = u.now := State.put_now ..
    have hvmem (a : Nat) : v.byte a = u.byte a := State.byte_of_mem (State.put_mem ..) a
    clear_value v
    obtain ⟨hmon, hmonnow, -, rs, hmonexp⟩ := v.slackWith_frame x.tickno fun r =>
      { r with txLeft := r.txLeft - 1, lastTx := max r.lastTx (b + 40) }
    generalize v.slackWith x.tickno _ = w at hmon hmonnow hmonexp
    obtain ⟨hadv, hadvnow, xs, hadvexp, -⟩ := w.xferAdvance_frame (b + 40)
    obtain ⟨hnomon, hnoheld⟩ := monTx_notMem k
    refine ⟨fun rs' hrs => ?_, ?_, ?_, fun a => ?_⟩
    · rw [hadvexp, hmonexp, hvexp]
      exact htaps rs' hrs
    · rw [State.get_of_only hadv hnoheld, State.get_of_only hmon hnomon, hget]
    · rw [hadvnow, hmonnow, hvnow, hnow]
    · rw [hadv.2.2.1, hmon.2.2.1, hvmem, hmem]
  · have hany : s.exp.xfers.any (fun x => x.slot = k.val && x.held && x.begun.isNone && !s.xferHeld x) = true :=
      List.any_eq_true.2 ⟨x, by rw [hxs]; exact List.mem_append_right _ List.mem_cons_self, by simp [hslot, hheld, hbegun, hfree]⟩
    have heq : s.heldRelease k.val = s.xferAdvance s.now := if_pos hany
    rw [heq]
    obtain ⟨hadv, hnow, -⟩ := s.xferAdvance_frame s.now
    refine ⟨?_, hnow, hadv.2.2.1⟩
    have hbegins := xferStep_begins s s.now [] pre rest hbegun hfree (fun y hy => absurd hy List.not_mem_nil) hpre
    rw [← hxs] at hbegins
    exact hbegins

end Sys2Proof.Machine
end

/-! PROOFS. O20: rows are sampled and delivered (R61, R62, R73, R105). -/
section
namespace Sys2Proof.Machine

section
variable (s : State)

/-! ## Banks -/

theorem State.bankRun_setBankRun {b c : Nat} (hc : c < 4) (x : BankRun) :
    (s.setBankRun b x).bankRun c = if c = b then x else s.bankRun c := by
  have hlen : c < ((List.range 4).map fun i => if i = b then x else s.bankRun i).length := by simpa using hc
  have hget : (s.setBankRun b x).bankRun c = ((List.range 4).map fun i => if i = b then x else s.bankRun i).getD c {} := rfl
  rw [hget, List.getD_eq_getElem _ _ hlen]
  simp

theorem State.bankRun_of_rdo {t : State} (b : Nat) (h : t.rdo = s.rdo) : t.bankRun b = s.bankRun b := by
  rw [State.bankRun, h, State.bankRun]

/-- The slowest sample m of a slot's line is noted, and shown once no more rows of it are waiting. -/
def State.readShow (s : State) (k m : Nat) (more : Bool) : State :=
  let u : State := { s with rdo := { s.rdo with rd := mapIns s.rdo.rd k m } }
  if more then u else u.put (R.EXP_SLOTk_MON_RD_TIME k) (min 0x3FFFFF m)

theorem State.readShow_frame (k m : Nat) (more : Bool) : (s.readShow k m more).rdo.banks = s.rdo.banks ∧
    (s.readShow k m more).now = s.now ∧ (s.readShow k m more).mem = s.mem := by
  unfold State.readShow
  cases more
  · rw [if_neg Bool.false_ne_true, State.put_rdo, State.put_now, State.put_mem]
    exact ⟨rfl, rfl, rfl⟩
  · exact ⟨rfl, rfl, rfl⟩

theorem State.rowSample_eq {b : Nat} {r : RowJob} {rest : List RowJob} (hruns : s.rowRuns = true) (hrows : (s.bankRun b).rows = r :: rest) :
    ∃ (n m : Nat) (x : BankRun) (h : HeldRow) (more : Bool) (f : SlackRec → SlackRec), h.job = r ∧ x.rows = rest ∧
      x.held = (s.bankRun b).held ++ [h] ∧
      s.rowSample b = (((s.at n).setBankRun b x).readShow r.slot m more).slackWith r.tickno f := by
  unfold State.rowSample
  dsimp only
  rw [if_neg (by simp [hruns]), hrows]
  exact ⟨_, _, _, _, _, _, rfl, rfl, rfl, rfl⟩

/-! ## Rows delivered to a line -/

theorem State.store_setStack {n : Nat} {l : StackLine} (f : StackLine → StackLine) (hf : ∀ l, (f l).tickno = l.tickno)
    (h : s.rdo.store.find? (fun l => l.tickno = n) = some l) :
    (s.setStack n f).rdo.store.find? (fun l => l.tickno = n) = some (f l) := by
  have htick : l.tickno = n := by simpa using List.find?_some h
  have hsel : ((fun l : StackLine => decide (l.tickno = n)) ∘ fun l => if l.tickno = n then f l else l) = fun l => decide (l.tickno = n) := by
    funext l
    by_cases hl : l.tickno = n <;> simp [hl, hf]
  unfold State.setStack
  dsimp only
  rw [List.find?_map, hsel, h]
  simp [htick]

/-- A line whose last row has come keeps its rows. -/
theorem State.stackDone_frame {n : Nat} {l : StackLine} (h : s.rdo.store.find? (fun l => l.tickno = n) = some l) :
    (s.stackDone n).rdo.banks = s.rdo.banks ∧ (s.stackDone n).now = s.now ∧ (s.stackDone n).mem = s.mem ∧
    ∃ m, (s.stackDone n).rdo.store.find? (fun l => l.tickno = n) = some { l with push := m } := by
  unfold State.stackDone
  rw [h]
  dsimp only
  rw [State.raiseBy_rdo, State.raiseBy_now, State.raiseBy_mem]
  exact ⟨rfl, rfl, rfl, _, State.store_setStack s _ (fun _ => rfl) h⟩

theorem State.rowDelivered_frame {h : HeldRow} {l : StackLine} (d : RowData) (hframe : ∀ f ∈ s.rdo.frames, f.tickno ≠ h.job.tickno)
    (hline : s.rdo.store.find? (fun l => l.tickno = h.job.tickno) = some l) :
    (s.rowDelivered h d).rdo.banks = s.rdo.banks ∧ (s.rowDelivered h d).now = s.now ∧ (s.rowDelivered h d).mem = s.mem ∧
    ∃ q, (s.rowDelivered h d).rdo.store.find? (fun l => l.tickno = h.job.tickno) = some q ∧ q.left = l.left - 1 ∧
      q.rows = l.rows ++ [(h.job.slot, h.job.row, d)] := by
  have hnone : s.rdo.frames.find? (fun f => f.tickno = h.job.tickno) = none :=
    List.find?_eq_none.2 fun f hf => by simpa using hframe f hf
  have htick : l.tickno = h.job.tickno := by simpa using List.find?_some hline
  unfold State.rowDelivered
  rw [hnone]
  dsimp only
  rw [hline]
  dsimp only
  rw [htick]
  have hset := s.store_setStack (n := h.job.tickno) (fun l => { l with left := l.left - 1, rows := l.rows ++ [(h.job.slot, h.job.row, d)] })
    (fun _ => rfl) hline
  split
  · obtain ⟨hbanks, hnow, hmem, m, hdone⟩ := State.stackDone_frame _ hset
    exact ⟨hbanks, hnow, hmem, _, hdone, rfl, rfl⟩
  · exact ⟨rfl, rfl, rfl, _, hset, rfl, rfl⟩

/-! ## Conversions -/

/-- A clamp out of range, told once a tick. -/
def State.clampShow (s : State) (clip : Bool) : State :=
  if clip && !s.rdo.clampTold then State.raise { s with rdo := { s.rdo with clampTold := true } } E.RDO_CLAMP_RANGE else s

theorem State.clampShow_frame (clip : Bool) : (s.clampShow clip).rdo.banks = s.rdo.banks ∧ (s.clampShow clip).rdo.frames = s.rdo.frames ∧
    (s.clampShow clip).rdo.store = s.rdo.store ∧ (s.clampShow clip).now = s.now ∧ (s.clampShow clip).mem = s.mem := by
  unfold State.clampShow
  split
  · rw [State.raise_rdo, State.raise_now, State.raise_mem]
    exact ⟨rfl, rfl, rfl, rfl, rfl⟩
  · exact ⟨rfl, rfl, rfl, rfl, rfl⟩

theorem State.rowConversion_eq {b : Nat} {h : HeldRow} {rest : List HeldRow} (x : RawRow) (hruns : s.rowRuns = true)
    (hheld : (s.bankRun b).held = h :: rest) : ∃ clip d, s.rowConversion b x =
      (((s.at (s.phaseTime h.cend)).setBankRun b { s.bankRun b with held := rest }).clampShow clip).rowDelivered h d := by
  unfold State.rowConversion
  dsimp only
  rw [if_neg (by simp [hruns]), hheld]
  exact ⟨_, _, rfl⟩

end

/-- Settles O20: a sampled row moves from its bank's rows to those held; a converted one to its line in the store. -/
theorem rowsAreSampledAndDelivered : Obligations.RowsAreSampledAndDelivered := by
  refine ⟨fun s b r rest hruns hrows => ⟨_, rfl, ?_⟩, fun s b v dark cols h rest l hruns hheld hframe hline => ⟨_, rfl, ?_⟩⟩
  · obtain ⟨n, m, x, h, more, f, hjob, hrest, hx, heq⟩ := s.rowSample_eq hruns hrows
    rw [heq]
    set u := (s.at n).setBankRun b.val x with hu
    have hbank (c : Nat) (hc : c < 4) : u.bankRun c = if c = b.val then x else s.bankRun c := (s.at n).bankRun_setBankRun hc x
    have hunow : u.now = max s.now n := rfl
    have humem : u.mem = s.mem := rfl
    clear_value u
    obtain ⟨hbanks, hnow, hmem⟩ := u.readShow_frame r.slot m more
    generalize u.readShow r.slot m more = w at hbanks hnow hmem
    obtain ⟨hmon, hmonnow, hmonrdo, -⟩ := w.slackWith_frame r.tickno f
    have hrun (c : Nat) (hc : c < 4) : (w.slackWith r.tickno f).bankRun c = if c = b.val then x else s.bankRun c := by
      rw [w.bankRun_of_rdo c hmonrdo, State.bankRun, hbanks]
      exact hbank c hc
    refine ⟨?_, ⟨h, ?_, hjob⟩, fun c hc hne => ?_, ?_, fun a => ?_⟩
    · rw [hrun b b.isLt, if_pos rfl, hrest]
    · rw [hrun b b.isLt, if_pos rfl, hx]
    · rw [hrun c hc, if_neg hne]
    · rw [hmonnow, hnow, hunow]
      exact Nat.le_max_left ..
    · rw [hmon.2.2.1]
      exact State.byte_of_mem (hmem.trans humem) a
  · obtain ⟨clip, d, heq⟩ := s.rowConversion_eq { rest := v, cols := dark ++ cols } hruns hheld
    rw [heq]
    set u := (s.at (s.phaseTime h.cend)).setBankRun b.val { s.bankRun b with held := rest } with hu
    have hbank : u.bankRun b = { s.bankRun b with held := rest } := ((s.at _).bankRun_setBankRun b.isLt _).trans (if_pos rfl)
    obtain ⟨hbanks, hframes, hstore, hnow, hmem⟩ := u.clampShow_frame clip
    generalize hw : u.clampShow clip = w at hbanks hframes hstore hnow hmem
    obtain ⟨hbanks', hnow', hmem', q, hq, hleft, hqrows⟩ := w.rowDelivered_frame (h := h) (l := l) d
      (by rw [hframes]; exact hframe) (by rw [hstore]; exact hline)
    have hrun : (w.rowDelivered h d).bankRun b = { s.bankRun b with held := rest } := by
      rw [State.bankRun, hbanks', hbanks]
      exact hbank
    refine ⟨by rw [hrun], by rw [hrun], ⟨q, d, hq, hleft, hqrows⟩, ?_, fun a => State.byte_of_mem ?_ a⟩
    · rw [hnow', hnow]
      rfl
    · rw [hmem', hmem]
      rfl

end Sys2Proof.Machine
end

/-! PROOFS. O21: the exposure check, DDR4 ready, refresh and scrub (R46, R48, R228–R232, R400). -/
section
namespace Sys2Proof.Machine

section
variable (s : State)

/-! ## The check of a bank's slots -/

/-- The fields that a bank's check shows in, and the event of one that fails. -/
def expCodeFld (x : Nat) : Fld := if x = 0 then R.EXP_CHECK_CODE_A else R.EXP_CHECK_CODE_B

def expSlotFld (x : Nat) : Fld := if x = 0 then R.EXP_CHECK_SLOT_A else R.EXP_CHECK_SLOT_B

def expBusyFld (x : Nat) : Fld := if x = 0 then R.EXP_CHECK_BUSY_A else R.EXP_CHECK_BUSY_B

def expFailEv (x : Nat) : Ev := if x = 0 then E.EXP_CHECK_FAIL_A else E.EXP_CHECK_FAIL_B

theorem State.expCode_eq (x : Nat) : s.expCode x = s.get (expCodeFld x) := by
  unfold State.expCode expCodeFld
  exact (apply_ite s.get _ _ _).symm

/-- The result of the check, shown. -/
def State.checkShown (s : State) (x : Nat) : State :=
  ((s.put (expCodeFld x) (s.expCheck x).1).put (expSlotFld x) (s.expCheck x).2).put (expBusyFld x) 0

theorem State.bankCheck_eq (x : Nat) : s.bankCheck x =
    if s.expCode x = 0 && (s.expCheck x).1 ≠ 0 then ((s.checkShown x).capShow x).raise (expFailEv x) else (s.checkShown x).capShow x := by
  unfold State.bankCheck State.checkShown expCodeFld expSlotFld expBusyFld expFailEv
  by_cases hx : x = 0 <;> simp only [hx, if_true, if_false]

theorem State.slotsOn_lt {x k : Nat} (h : k ∈ s.slotsOn x) : k < 4 := List.mem_range.1 (List.mem_filter.1 h).1

theorem State.badSlot_lt {x k : Nat} {bad : Nat → Bool} (h : s.badSlot x bad = some k) : k < 4 :=
  s.slotsOn_lt (List.mem_of_find?_eq_some h)

theorem State.badPair_lt {x k : Nat} {rel : Nat → Nat → Bool} (h : s.badPair x rel = some k) : k < 4 :=
  s.slotsOn_lt (List.mem_of_find?_eq_some h)

/-- Every code and slot of the check fits its field. -/
theorem State.expCheck_fits (x : Nat) : (s.expCheck x).1 < 16 ∧ (s.expCheck x).2 < 4 := by
  unfold State.expCheck
  repeat' split
  all_goals first
    | exact ⟨by dsimp only; decide, s.badPair_lt ‹_›⟩
    | exact ⟨by dsimp only; decide, s.badSlot_lt ‹_›⟩
    | decide

theorem checkFields (x : Fin 2) : (expCodeFld x).reg = R.EXP_CHECK_CODE_A.reg ∧ (expSlotFld x).reg = R.EXP_CHECK_CODE_A.reg ∧
    (expBusyFld x).reg = R.EXP_CHECK_CODE_A.reg ∧ (expCodeFld x).w = 4 ∧ (expSlotFld x).w = 2 ∧ (expBusyFld x).w = 1 ∧
    (expCodeFld x).lo + 4 ≤ (expSlotFld x).lo ∧ (expSlotFld x).lo + 2 ≤ (expBusyFld x).lo ∧ (expBusyFld x).lo + 1 ≤ 32 ∧
    (expBusyFld 0).lo + 1 ≤ (expCodeFld 1).lo := by
  revert x
  decide

theorem State.checkShown_only (x : Fin 2) : only s (s.checkShown x) [R.EXP_CHECK_CODE_A.reg] := by
  obtain ⟨hcode, hslot, hbusy, -⟩ := checkFields x
  exact only_trans (only_trans (only_put _ (by simp [hcode])) (only_put _ (by simp [hslot]))) (only_put _ (by simp [hbusy]))

theorem State.checkShown_get (x : Fin 2) : (s.checkShown x).get (expCodeFld x) = (s.expCheck x).1 ∧
    (s.checkShown x).get (expSlotFld x) = (s.expCheck x).2 ∧ (s.checkShown x).get (expBusyFld x) = 0 := by
  obtain ⟨hcode, hslot⟩ := s.expCheck_fits x
  obtain ⟨-, -, -, hwcode, hwslot, hwbusy, hlo, hlo', hlo'', -⟩ := checkFields x
  unfold State.checkShown
  refine ⟨?_, ?_, ?_⟩
  · rw [State.get_put_bits _ _ (by omega), State.get_put_bits _ _ (by omega)]
    exact State.get_put_fits _ (by omega) (by rw [hwcode]; exact hcode)
  · rw [State.get_put_bits _ _ (by omega)]
    exact State.get_put_fits _ (by omega) (by rw [hwslot]; exact hslot)
  · exact State.get_put_fits _ (by omega) (by rw [hwbusy]; decide)

/-- The other bank's fields are other bits. -/
theorem State.checkShown_other (x : Fin 2) : (s.checkShown x).get (expCodeFld (1 - x.val)) = s.get (expCodeFld (1 - x.val)) := by
  have hapart (f : Fld) (hf : f ∈ [expCodeFld x, expSlotFld x, expBusyFld x]) : f.lo + f.w ≤ 32 ∧
      (f.lo + f.w ≤ (expCodeFld (1 - x.val)).lo ∨ (expCodeFld (1 - x.val)).lo + (expCodeFld (1 - x.val)).w ≤ f.lo) := by
    revert x f
    decide
  unfold State.checkShown
  rw [State.get_put_bits _ _ (hapart _ (.tail _ (.tail _ (.head _)))), State.get_put_bits _ _ (hapart _ (.tail _ (.head _))),
    State.get_put_bits _ _ (hapart _ (.head _))]

/-- The registers of the rates and rows that a bank's slots allow. -/
def fitCapRegs : List Nat := [R.EXP_FITCAP_A_FIT_HZ.reg, R.EXP_FITCAP_B_FIT_HZ.reg, R.RDO_CAP_A_F_READ.reg, R.RDO_CAP_B_F_READ.reg,
  R.RDO_ROWS_A_R_N0.reg, R.RDO_ROWS_B_R_N0.reg]

theorem State.capShow_only (x : Nat) : only s (s.capShow x) fitCapRegs := by
  have six {f₁ f₂ f₃ f₄ f₅ f₆ : Fld} (h : [f₁.reg, f₂.reg, f₃.reg, f₄.reg, f₅.reg, f₆.reg] ⊆ fitCapRegs) (v₁ v₂ v₃ v₄ v₅ v₆ : Nat) :
      only s ((((((s.put f₁ v₁).put f₂ v₂).put f₃ v₃).put f₄ v₄).put f₅ v₅).put f₆ v₆) fitCapRegs := by
    simp only [List.cons_subset, List.nil_subset, and_true] at h
    obtain ⟨h₁, h₂, h₃, h₄, h₅, h₆⟩ := h
    exact only_trans (only_trans (only_trans (only_trans (only_trans (only_put _ h₁) (only_put _ h₂)) (only_put _ h₃)) (only_put _ h₄))
      (only_put _ h₅)) (only_put _ h₆)
  unfold State.capShow
  exact only_ite (six (by decide) ..) (six (by decide) ..)

/-- The registers that follow a bank's check. -/
def checkRegs : List Nat := fitCapRegs ++ bwRegs ++ toldRegs E.EXP_CHECK_FAIL_A

theorem State.bankCheck_rest (x : Fin 2) : only (s.checkShown x) ((s.bankCheck x).bwShow) checkRegs := by
  have hev : toldRegs (expFailEv x) ⊆ checkRegs := by
    revert x
    decide
  have hcap : only (s.checkShown x) ((s.checkShown x).capShow x) checkRegs := only_mono (State.capShow_only ..) (by decide)
  rw [s.bankCheck_eq]
  exact only_trans (only_ite (only_trans hcap (only_raise hev)) hcap) (only_mono (State.bwShow_only _) (by decide))

/-! ## DDR4 ready -/

theorem State.selfFail_on {i : Nat} (hi : i < 14) : (s.selfFail i).on ⟨R.SYS_SELFTEST_FAIL.reg, i, 1⟩ = true := by
  have h := s.selfFail_item hi
  rw [State.bit_get _ _ (show i < R.SYS_SELFTEST_FAIL.w from hi), show R.SYS_SELFTEST_FAIL.lo + i = i from Nat.zero_add i] at h
  rw [State.on, State.get_one_bit]
  simpa [R.SYS_SELFTEST_FAIL] using h

theorem State.memReady_eq (train test : Nat) (hdom : s.dom dDDR = true) (hpower : s.power ≠ pSTANDBY) (hoff : s.pwr.off = false) :
    s.memReady train test = if train ≠ 0 then s.selfFail 4 else if test ≠ 0 && s.ddrFresh then s.selfFail 5
      else (s.put R.MEM_STAT_READY 1).bwShow := by
  unfold State.memReady
  exact if_neg (by simp [hdom, hpower, hoff])

/-! ## Scrub -/

/-- The scrubber moves on and shows its place. -/
def State.scrubMoved (s : State) : State :=
  let next := (s.memctl.scrubAt + 1) % 2 ^ 31
  ((State.put { s with memctl := { s.memctl with scrubAt := next } } R.MEM_SCRUB_POS_POS (next / 64)).put R.MEM_STAT_SCRUBBING 1).bgProgress 3

/-- The registers that a move of the scrubber shows in. -/
def scrubRegs : List Nat := [R.MEM_SCRUB_POS_POS.reg, R.MEM_STAT_SCRUBBING.reg, R.CAL_BG_STAT_STARVED.reg]

theorem State.bgProgress_only (act : Nat) (hact : act ≠ 2) : only s (s.bgProgress act) [R.CAL_BG_STAT_STARVED.reg] := by
  unfold State.bgProgress
  dsimp only
  rw [if_neg hact]
  exact only_trans (only_of_eq rfl rfl rfl rfl rfl) (only_put (f := ⟨R.CAL_BG_STAT_STARVED.reg, act, 1⟩) _ (.head _))

theorem State.bgProgress_memctl (act : Nat) (hact : act ≠ 2) : (s.bgProgress act).memctl = s.memctl ∧ (s.bgProgress act).poison = s.poison := by
  unfold State.bgProgress
  dsimp only
  rw [if_neg hact, State.put_memctl, State.put_poison]
  exact ⟨rfl, rfl⟩

theorem State.scrubMoved_frame : only s s.scrubMoved scrubRegs ∧ s.scrubMoved.get R.MEM_STAT_SCRUBBING = 1 ∧
    s.scrubMoved.memctl = { s.memctl with scrubAt := (s.memctl.scrubAt + 1) % 2 ^ 31 } ∧ s.scrubMoved.poison = s.poison := by
  unfold State.scrubMoved
  dsimp only
  set u : State := { s with memctl := { s.memctl with scrubAt := (s.memctl.scrubAt + 1) % 2 ^ 31 } } with hu
  have hupd : only s u scrubRegs := only_of_eq rfl rfl rfl rfl rfl
  obtain ⟨hctl, hpoison⟩ := ((u.put R.MEM_SCRUB_POS_POS ((s.memctl.scrubAt + 1) % 2 ^ 31 / 64)).put R.MEM_STAT_SCRUBBING
    1).bgProgress_memctl 3 (by decide)
  have hbg := ((u.put R.MEM_SCRUB_POS_POS ((s.memctl.scrubAt + 1) % 2 ^ 31 / 64)).put R.MEM_STAT_SCRUBBING
    1).bgProgress_only 3 (by decide)
  refine ⟨only_trans (only_trans (only_trans hupd (only_put _ (by decide))) (only_put _ (by decide))) (only_mono hbg (by decide)), ?_, ?_, ?_⟩
  · rw [State.get_of_only hbg (by decide)]
    exact State.get_put_fits _ (by decide) (by decide)
  · rw [hctl, State.put_memctl, State.put_memctl]
  · rw [hpoison, State.put_poison, State.put_poison]

/-- Bit errors that arise change the lists of wrong beats alone. -/
theorem State.bitErrors_eq (es : List (Nat × Bool)) : ∃ flips poison,
    s.bitErrors es = { s with memctl := { s.memctl with flips := flips }, poison := poison } := by
  unfold State.bitErrors
  refine List.foldlRecOn (motive := fun t : State => ∃ flips poison,
    t = { s with memctl := { s.memctl with flips := flips }, poison := poison }) es _ ⟨_, _, rfl⟩ fun t ht e _ => ?_
  obtain ⟨flips, poison, rfl⟩ := ht
  dsimp only
  split
  · exact ⟨_, _, rfl⟩
  · split
    · exact ⟨_, _, rfl⟩
    · exact ⟨_, _, rfl⟩

theorem State.scrubBurst_eq (es : List (Nat × Bool)) (hen : s.on R.MEM_CTRL_SCRUB_EN = true) (hruns : s.ddrRuns = true) :
    s.scrubBurst es = (s.bitErrors es).scrubMoved.ddrRead (64 * s.memctl.scrubAt) 64 := by
  obtain ⟨flips, poison, heq⟩ := s.bitErrors_eq es
  have hruns' := hruns
  simp only [State.ddrRuns, Bool.and_eq_true, decide_eq_true_eq, Bool.not_eq_true'] at hruns'
  obtain ⟨⟨⟨hdom, -⟩, -⟩, hoff⟩ := hruns'
  have hen' : (s.bitErrors es).on R.MEM_CTRL_SCRUB_EN = true := by rw [heq]; exact hen
  have hruns'' : (s.bitErrors es).ddrRuns = true := by rw [heq]; exact hruns
  have hat : (s.bitErrors es).memctl.scrubAt = s.memctl.scrubAt := by rw [heq]
  unfold State.scrubBurst
  dsimp only
  rw [if_neg (by simp [hdom, hoff]), if_neg (by simp [hen', hruns'']), hat]
  unfold State.scrubMoved
  rw [hat]

theorem State.errLatch_memctl (a : Nat) : (s.errLatch a).memctl = s.memctl ∧ (s.errLatch a).poison = s.poison := by
  unfold State.errLatch
  split
  · exact ⟨rfl, rfl⟩
  · rw [State.put_memctl, State.put_memctl, State.put_memctl, State.put_poison, State.put_poison, State.put_poison]
    exact ⟨rfl, rfl⟩

theorem State.ceSeen_memctl (a : Nat) : (s.ceSeen a).memctl = { s.memctl with flips := setDel s.memctl.flips a } ∧
    (s.ceSeen a).poison = s.poison := by
  unfold State.ceSeen
  rw [(State.errLatch_memctl _ a).1, (State.errLatch_memctl _ a).2, State.raise_memctl, State.raise_poison, State.bump_memctl, State.bump_poison]
  exact ⟨rfl, rfl⟩

/-- An uncorrectable beat, counted and told. -/
def State.ueSeen (s : State) (a : Nat) : State := ((s.bump R.MEM_UE_CNT_COUNT).raise E.MEM_UE).errLatch a

theorem State.ueSeen_memctl (a : Nat) : (s.ueSeen a).memctl = s.memctl ∧ (s.ueSeen a).poison = s.poison := by
  unfold State.ueSeen
  rw [(State.errLatch_memctl _ a).1, (State.errLatch_memctl _ a).2, State.raise_memctl, State.raise_poison, State.bump_memctl, State.bump_poison]
  exact ⟨rfl, rfl⟩

theorem State.ddrRead_eq (a n : Nat) : s.ddrRead a n =
    (((s.memctl.flips.filter (beatIn a n)).foldl State.ceSeen s).poison.filter (beatIn a n)).foldl State.ueSeen
      ((s.memctl.flips.filter (beatIn a n)).foldl State.ceSeen s) := rfl

theorem State.ddrRead_scrubAt (a n : Nat) : (s.ddrRead a n).memctl.scrubAt = s.memctl.scrubAt := by
  rw [s.ddrRead_eq]
  refine List.foldlRecOn (motive := fun t : State => t.memctl.scrubAt = s.memctl.scrubAt) _ _ ?_ fun t ht b _ => ?_
  · refine List.foldlRecOn (motive := fun t : State => t.memctl.scrubAt = s.memctl.scrubAt) _ _ rfl fun t ht b _ => ?_
    rw [(t.ceSeen_memctl b).1]
    exact ht
  · rw [(t.ueSeen_memctl b).1]
    exact ht

/-- The registers of the error latch. -/
def latchRegs : List Nat := [R.MEM_ERR_ADDR_LO_ADDR.reg, R.MEM_ERR_ADDR_HI_ADDR.reg]

theorem State.errLatch_latch (a : Nat) : only s (s.errLatch a) latchRegs :=
  only_ite only_refl (only_trans (only_trans (only_put _ (by decide)) (only_put _ (by decide))) (only_put _ (by decide)))

/-- An error of an event e with the count c, counted and told before it is latched. -/
theorem State.errShown {c : Fld} {e : Ev} (a : Nat) (hw : c.lo = 0) (hw' : c.w = 32) (hbit : e.bit < 32) (hc : c.reg ∉ toldRegs e)
    (hc' : c.reg ∉ latchRegs) (he : ∀ r ∈ toldRegs e, r ∉ latchRegs) :
    (((s.bump c).raise e).errLatch a).get c = min (2 ^ 32 - 1) (s.get c + 1) ∧ told s (((s.bump c).raise e).errLatch a) e := by
  have hlatch := ((s.bump c).raise e).errLatch_latch a
  refine ⟨?_, told_of_regsSame ?_ hlatch.1 he⟩
  · rw [State.get_of_only hlatch hc', State.get_raise_other _ hc, State.bump, State.get_bumpBy _ _ _ (by omega), hw']
  · exact told_raise_of_regsSame s hbit (State.regsSame_put _ (List.mem_singleton_self _))
      fun r hr hrc => hc (by rw [← List.mem_singleton.1 hrc]; exact hr)

/-- The one beat that is wrong, as bit errors that arise list it. -/
theorem State.bitErrors_one (k : Nat) (bad : Bool) (hflips : s.memctl.flips = []) (hpoison : s.poison = []) (hk : k < 2 ^ 34) :
    (bad = false → s.bitErrors [(k, bad)] = { s with memctl := { s.memctl with flips := [8 * k] } }) ∧
    (bad = true → s.bitErrors [(k, bad)] = { s with memctl := { s.memctl with flips := [] }, poison := [8 * k] }) := by
  have hmod : k % (ddrTop / 8) = k := Nat.mod_eq_of_lt hk
  unfold State.bitErrors
  simp only [List.foldl_cons, List.foldl_nil, hmod, hflips, hpoison]
  constructor
  · rintro rfl
    rfl
  · rintro rfl
    rfl

theorem beatIn_burst (a b : Nat) (hb : b < 8) : beatIn (64 * a) 64 (64 * a + 8 * b) = true := by
  simp only [beatIn, Bool.and_eq_true, decide_eq_true_eq]
  omega

theorem filter_burst (a b : Nat) (hb : b < 8) : [64 * a + 8 * b].filter (beatIn (64 * a) 64) = [64 * a + 8 * b] := by
  rw [List.filter_cons_of_pos (beatIn_burst a b hb), List.filter_nil]

/-- A read of one wrong beat corrects it, counts and tells it. -/
theorem State.ddrRead_corrects {a n b : Nat} (hflips : s.memctl.flips.filter (beatIn a n) = [b]) (hpoison : s.poison = []) :
    s.ddrRead a n = s.ceSeen b := by
  rw [s.ddrRead_eq, hflips, List.foldl_cons, List.foldl_nil, (s.ceSeen_memctl _).2, hpoison, List.filter_nil, List.foldl_nil]

/-- A read of one poisoned beat leaves it, counts and tells it. -/
theorem State.ddrRead_poisoned {a n b : Nat} (hflips : s.memctl.flips = []) (hpoison : s.poison.filter (beatIn a n) = [b]) :
    s.ddrRead a n = s.ueSeen b := by
  rw [s.ddrRead_eq, hflips, List.filter_nil, List.foldl_nil, hpoison, List.foldl_cons, List.foldl_nil]

end

/-- Settles O21: checks, refresh and scrub write their own registers, and the scrubber's read finds the burst's wrong beats. -/
theorem checkReadyRefreshAndScrub : Obligations.CheckReadyRefreshAndScrub := by
  refine ⟨fun s x hserved => ⟨_, rfl, ?_⟩, fun s hdom hpower hoff => ⟨⟨_, rfl, ?_⟩, fun train test htrain => ⟨_, rfl, ?_⟩,
    fun test htest hlast => ⟨_, rfl, ?_⟩⟩, fun s ch rank hruns => ⟨_, rfl, ?_⟩, fun s xs ys hen hruns => ⟨_, rfl, ?_⟩,
    fun s beat bad hen hruns hat hflips hpoison => ⟨_, rfl, ?_⟩⟩
  · rw [if_pos hserved]
    obtain ⟨hcode, hslot, hbusy⟩ := s.checkShown_get x
    have hother := s.checkShown_other x
    have hreg (f : Fld) (hf : f.reg = R.EXP_CHECK_CODE_A.reg) : (s.bankCheck x).bwShow.get f = (s.checkShown x).get f :=
      State.get_of_only (s.bankCheck_rest x) (by rw [hf]; decide)
    obtain ⟨hrcode, hrslot, hrbusy, -⟩ := checkFields x
    have hrother : (expCodeFld (1 - x.val)).reg = R.EXP_CHECK_CODE_A.reg := by
      unfold expCodeFld
      exact (apply_ite Fld.reg _ _ _).trans (ite_self _)
    rw [State.expCode_eq, State.expCode_eq, State.expCode_eq, hreg _ hrcode, hreg _ hrother]
    refine ⟨hcode, (hreg _ hrslot).trans hslot, (hreg _ hrbusy).trans hbusy, hother, fun a => ?_⟩
    rw [(s.bankCheck_rest x).2.2.1 a]
    exact (s.checkShown_only x).2.2.1 a
  · have heq := s.memReady_eq 0 0 hdom hpower hoff
    rw [show (0 : BitVec 4).toNat = 0 from rfl, heq, if_neg (by decide), if_neg (by simp)]
    have hbw := (s.put R.MEM_STAT_READY 1).bwShow_only
    refine ⟨?_, fun a => (hbw.2.2.1 a).trans (State.byte_of_mem (State.put_mem ..) a)⟩
    rw [State.on, State.get_of_only hbw (by decide), State.get_put_fits _ (by decide) (by decide)]
    rfl
  · have htrain' : train.toNat ≠ 0 := fun h => htrain (BitVec.eq_of_toNat_eq h)
    rw [s.memReady_eq _ _ hdom hpower hoff, if_pos htrain']
    exact ⟨State.on_of_get (State.get_of_only (s.selfFail_only 4) (by decide)), s.selfFail_on (by decide)⟩
  · have htest' : test.toNat ≠ 0 := fun h => htest (BitVec.eq_of_toNat_eq h)
    have hfresh : s.ddrFresh = true := by simp [State.ddrFresh, hlast]
    rw [show (0 : BitVec 4).toNat = 0 from rfl, s.memReady_eq _ _ hdom hpower hoff, if_neg (by decide), if_pos (by simp [htest', hfresh])]
    exact ⟨State.on_of_get (State.get_of_only (s.selfFail_only 5) (by decide)), s.selfFail_on (by decide)⟩
  · rw [if_pos hruns]
    dsimp only
    cases hlast : mapFind s.memctl.refreshed (2 * ch.val + rank.val) with
    | none => exact ⟨mapFind_ins_same .., only_of_eq rfl rfl rfl rfl rfl, fun u hu => by cases hu⟩
    | some n =>
      refine ⟨mapFind_ins_same .., only_of_eq rfl rfl rfl rfl rfl, fun u hu => ?_⟩
      cases hu
      exact Nat.le_max_right ..
  · rw [s.scrubBurst_eq _ hen hruns]
    obtain ⟨flips, poison, herr⟩ := s.bitErrors_eq (xs.map (fun k => (k, false)) ++ ys.map fun k => (k, true))
    rw [herr]
    set u : State := { s with memctl := { s.memctl with flips := flips }, poison := poison } with hu
    have humem (a : Nat) : u.byte a = s.byte a := rfl
    have huat : u.memctl.scrubAt = s.memctl.scrubAt := rfl
    clear_value u
    obtain ⟨hframe, hscrub, hctl, -⟩ := u.scrubMoved_frame
    have hread := u.scrubMoved.ddrRead_only (64 * s.memctl.scrubAt) 64
    refine ⟨?_, ?_, fun a => ?_⟩
    · rw [State.ddrRead_scrubAt, hctl, huat]
    · rw [State.get_of_only hread (by decide), hscrub]
    · rw [hread.2.2.1, hframe.2.2.1, humem]
  · have hk : 8 * s.memctl.scrubAt + beat.val < 2 ^ 34 := by have := beat.isLt; omega
    have hlist : ((if bad then [] else [8 * s.memctl.scrubAt + beat.val]).map (fun k => (k, false)) ++
        (if bad then [8 * s.memctl.scrubAt + beat.val] else []).map fun k => (k, true)) = [(8 * s.memctl.scrubAt + beat.val, bad)] := by
      cases bad <;> rfl
    have hbeat : 8 * (8 * s.memctl.scrubAt + beat.val) = 64 * s.memctl.scrubAt + 8 * beat.val := by omega
    obtain ⟨hgood, hbad⟩ := s.bitErrors_one _ bad hflips hpoison hk
    rw [hlist, s.scrubBurst_eq _ hen hruns]
    cases bad with
    | false =>
      rw [hgood rfl, hbeat]
      set u : State := { s with memctl := { s.memctl with flips := [64 * s.memctl.scrubAt + 8 * beat.val] } } with hu
      have hframe : only s u [] := only_of_eq rfl rfl rfl rfl rfl
      have hup : u.poison = [] := hpoison
      have huf : u.memctl.flips = [64 * s.memctl.scrubAt + 8 * beat.val] := rfl
      clear_value u
      obtain ⟨hmoved, -, hctl, hpois⟩ := u.scrubMoved_frame
      have hsame : only s u.scrubMoved scrubRegs := only_trans (only_mono hframe (List.nil_subset _)) hmoved
      set b := 64 * s.memctl.scrubAt + 8 * beat.val with hb
      have hone : u.scrubMoved.memctl.flips.filter (beatIn (64 * s.memctl.scrubAt) 64) = [b] := by
        rw [hctl, huf]
        exact filter_burst _ _ beat.isLt
      rw [State.ddrRead_corrects _ hone (hpois.trans hup)]
      have hvf : u.scrubMoved.memctl.flips = [b] := by rw [hctl, huf]
      generalize u.scrubMoved = v at hvf hpois hsame
      obtain ⟨hcnt, htold⟩ := State.errShown { v with memctl := { v.memctl with flips := setDel v.memctl.flips b } }
        (c := R.MEM_CE_CNT_COUNT) (e := E.MEM_CE) b rfl rfl (by decide) (by decide) (by decide) (by decide)
      have hv : only s { v with memctl := { v.memctl with flips := setDel v.memctl.flips b } } scrubRegs := only_upd hsame
      refine ⟨?_, fun _ => ⟨?_, ?_, ?_⟩, fun h => absurd h (by decide)⟩
      · rw [(v.ceSeen_memctl _).1, hvf]
        simp [setDel]
      · rw [(v.ceSeen_memctl _).2, hpois, hup]
      · rw [← State.get_of_only hv (f := R.MEM_CE_CNT_COUNT) (by decide)]
        exact hcnt
      · exact told_frame htold hv.1 (.refl (L := [])) (by decide) (fun _ _ => List.not_mem_nil)
    | true =>
      rw [hbad rfl, hbeat]
      set b := 64 * s.memctl.scrubAt + 8 * beat.val with hb
      set u : State := { s with memctl := { s.memctl with flips := [] }, poison := [b] } with hu
      have hframe : only s u [] := only_of_eq rfl rfl rfl rfl rfl
      have hup : u.poison = [b] := rfl
      have huf : u.memctl.flips = [] := rfl
      clear_value u
      obtain ⟨hmoved, -, hctl, hpois⟩ := u.scrubMoved_frame
      have hsame : only s u.scrubMoved scrubRegs := only_trans (only_mono hframe (List.nil_subset _)) hmoved
      have hvf : u.scrubMoved.memctl.flips = [] := by rw [hctl, huf]
      have hone : u.scrubMoved.poison.filter (beatIn (64 * s.memctl.scrubAt) 64) = [b] := by
        rw [hpois, hup]
        exact filter_burst _ _ beat.isLt
      rw [State.ddrRead_poisoned _ hvf hone]
      generalize u.scrubMoved = v at hvf hpois hsame
      obtain ⟨hcnt, htold⟩ := v.errShown (c := R.MEM_UE_CNT_COUNT) (e := E.MEM_UE) b rfl rfl (by decide) (by decide) (by decide) (by decide)
      refine ⟨?_, fun h => absurd h (by decide), fun _ => ⟨?_, ?_, ?_⟩⟩
      · rw [(v.ueSeen_memctl _).1, hvf]
      · rw [(v.ueSeen_memctl _).2, hpois, hup]
      · rw [← State.get_of_only hsame (f := R.MEM_UE_CNT_COUNT) (by decide)]
        exact hcnt
      · exact told_frame htold hsame.1 (.refl (L := [])) (by decide) (fun _ _ => List.not_mem_nil)

end Sys2Proof.Machine
end

/-! PROOFS. O22: the intake and proof queues (R136, R138, R143). -/
section
namespace Sys2Proof.Machine

section
variable (s : State)

/-! ## What a Shingle's own changes leave -/

/-- Registers of a list, no byte, and of the engines one Shingle's alone, in which only the proof queue and the tokens may differ. -/
structure ShFrame (s t : State) (sh : Nat) (L : List Nat) : Prop where
  regs : s.regsSame t L
  byte : ∀ a, t.byte a = s.byte a
  alike : (s.engine sh).alike (t.engine sh)
  others : ∀ k, k ≠ sh → t.engine k = s.engine k

section
variable {s t u : State} {sh : Nat} {L : List Nat}

theorem ShFrame.of_only (h : only s t L) : ShFrame s t sh L :=
  ⟨h.1, h.2.2.1, .of_eq (State.engine_of_eng h.2.2.2.1 sh), fun k _ => State.engine_of_eng h.2.2.2.1 k⟩

theorem ShFrame.trans (h : ShFrame s t sh L) (h' : ShFrame t u sh L) : ShFrame s u sh L :=
  ⟨h.regs.trans h'.regs, fun a => (h'.byte a).trans (h.byte a), h.alike.trans h'.alike, fun k hk => (h'.others k hk).trans (h.others k hk)⟩

theorem ShFrame.mono {L' : List Nat} (h : ShFrame s t sh L) (hL : L ⊆ L') : ShFrame s t sh L' :=
  ⟨h.regs.mono hL, h.byte, h.alike, h.others⟩

theorem ShFrame.intake (h : ShFrame s t sh L) : (t.engine sh).intake = (s.engine sh).intake :=
  (congrArg Engine.intake h.alike : Engine.intake { t.engine sh with proof := [], leaving := [] } = _)

theorem ShFrame.faulted (h : ShFrame s t sh L) : (t.engine sh).faulted = (s.engine sh).faulted :=
  (congrArg Engine.faulted h.alike : Engine.faulted { t.engine sh with proof := [], leaving := [] } = _)

theorem ShFrame.restarted (h : ShFrame s t sh L) : (t.engine sh).restarted = (s.engine sh).restarted :=
  (congrArg Engine.restarted h.alike : Engine.restarted { t.engine sh with proof := [], leaving := [] } = _)

theorem ShFrame.get {f : Fld} (h : ShFrame s t sh L) (hf : f.reg ∉ L) : t.get f = s.get f := State.get_of_regsSame h.regs hf

end

theorem State.giveUp_frame (sh n reason : Nat) : ShFrame s (s.giveUp sh n reason) sh (leaveRegs sh) := by
  cases hrun : (s.engine sh).run with
  | none => exact .of_only (s.giveUp_only n reason hrun)
  | some r =>
    have hsome : ((s.addReport n reason (2 ^ sh)).engine sh).run.isSome = true := by
      rw [show (s.addReport n reason (2 ^ sh)).engine sh = s.engine sh from rfl, hrun]
      rfl
    unfold State.giveUp
    dsimp only
    rw [if_pos hsome]
    refine ⟨.of_regs rfl, fun _ => rfl, ?_, fun k hk => State.engine_setEngine_other _ _ hk⟩
    rw [State.engine_setEngine_same]
    rfl

theorem State.overrun_frame (sh n : Nat) : ShFrame s (s.overrun sh n) sh (overrunRegs sh) := by
  have hraise : only s ((s.bump (R.SH_OVR_CNT_COUNT sh)).raise (E.SH_OVERRUN sh)) (overrunRegs sh) :=
    only_trans (only_bump List.mem_cons_self) (only_raise fun a ha => List.mem_cons_of_mem _ (List.mem_append_left _ ha))
  exact (ShFrame.of_only hraise).trans
    ((State.giveUp_frame _ sh n _).mono fun a ha => List.mem_cons_of_mem _ (List.mem_append_right _ ha))

/-- A line lost as OVERRUN is counted and told. -/
theorem State.overrun_shows (sh n : Nat) : told s (s.overrun sh n) (E.SH_OVERRUN sh) ∧
    (s.overrun sh n).get (R.SH_OVR_CNT_COUNT sh) = min (2 ^ 32 - 1) (s.get (R.SH_OVR_CNT_COUNT sh) + 1) := by
  have hbump : s.regsSame (s.bump (R.SH_OVR_CNT_COUNT sh)) [(R.SH_OVR_CNT_COUNT sh).reg] := State.regsSame_put _ (List.mem_singleton_self _)
  have hapart : (R.SH_OVR_CNT_COUNT sh).reg ∉ toldRegs (E.SH_OVERRUN sh) ∧ (R.SH_OVR_CNT_COUNT sh).reg ∉ leaveRegs sh ∧
      (∀ a ∈ toldRegs (E.SH_OVERRUN sh), a ∉ [(R.SH_OVR_CNT_COUNT sh).reg]) ∧ ∀ a ∈ toldRegs (E.SH_OVERRUN sh), a ∉ leaveRegs sh := by
    refine ⟨?_, ?_, ?_, ?_⟩ <;> simp only [toldRegs, E.SH_OVERRUN, intRawBit, evtCnt, R.SH_OVR_CNT_COUNT, leaveRegs, settleRegs, R.SH_DONE_LO_TICKNO, R.SH_DONE_HI_TICKNO,
      R.RING_WM_LO_TICKNO, R.RING_WM_HI_TICKNO, R.JOB_STAT_OLD_BUSY, List.mem_cons, List.not_mem_nil, or_false] <;> omega
  obtain ⟨hnotold, hnoleave, hnobump, htoldleave⟩ := hapart
  have hgive := ((s.bump (R.SH_OVR_CNT_COUNT sh)).raise (E.SH_OVERRUN sh)).giveUp_frame sh n rcOVERRUN
  refine ⟨told_of_regsSame ?_ hgive.regs htoldleave, ?_⟩
  · exact told_raise_of_regsSame s (show 0 < 32 by decide) hbump hnobump
  · unfold State.overrun
    rw [hgive.get hnoleave, State.get_raise_other _ hnotold, State.bump, State.get_bumpBy s (R.SH_OVR_CNT_COUNT sh) 1 (Nat.le_refl 32)]
    rfl

/-! ## Release -/

theorem State.discardIf_faulted (sh : Nat) (f : Nat → Bool) : ((s.discardIf sh f).engine sh).faulted = (s.engine sh).faulted := by
  unfold State.discardIf
  dsimp only
  refine List.foldlRecOn (motive := fun t : State => (t.engine sh).faulted = (s.engine sh).faulted) _ _ ?_ fun t ht n _ => ?_
  · rw [State.engine_setEngine_same]
  · rw [(t.overrun_frame sh n).faulted, ht]

theorem State.release_engine {sh : Nat} (hf : (s.engine sh).faulted = true) : ((s.release sh).engine sh).faulted = false ∧
    ((s.release sh).engine sh).restarted = true ∧ (s.release sh).get (R.SH_FAULT_CODE sh) = 0 ∧ (s.release sh).get (faultSum sh) = 0 := by
  have hshow (t : State) := t.shShow_only sh
  have hcode : (R.SH_FAULT_CODE sh).reg ∉ [(R.SH_STAT_STATE sh).reg] ∧ (R.SH_FAULT_CODE sh).reg ≠ (faultSum sh).reg ∧
      (faultSum sh).reg ∉ [(R.SH_STAT_STATE sh).reg] := by
    simp only [faultSum, R.ENGG_FAULT_SUMw_SHINGLE, R.SH_FAULT_CODE, R.SH_STAT_STATE, List.mem_singleton]
    omega
  obtain ⟨hcodeshow, hcodesum, hsumshow⟩ := hcode
  unfold State.release
  dsimp only
  rw [if_neg (by simp [hf])]
  set u := s.setEngine sh { s.engine sh with faulted := false, restarted := true, initAct := none } with hu
  have hengine : u.engine sh = { s.engine sh with faulted := false, restarted := true, initAct := none } := State.engine_setEngine_same ..
  have hput (t : State) : (((u.put (R.SH_FAULT_CODE sh) 0).put (faultSum sh) 0).shShow sh).engine sh = u.engine sh := by
    rw [State.engine_of_eng (hshow _).2.2.2.1, State.engine_of_eng ((State.put_eng _ _ _).trans (State.put_eng _ _ _))]
  rw [hput s, hengine, State.get_of_only (hshow _) hcodeshow, State.get_of_only (hshow _) hsumshow, State.get_put_reg _ _ hcodesum]
  exact ⟨rfl, rfl, State.get_put_fits (f := R.SH_FAULT_CODE sh) _ (Nat.le_of_ble_eq_true rfl) (Nat.two_pow_pos _),
    State.get_put_fits (f := faultSum sh) _ (show sh % 32 + 1 ≤ 32 by omega) Nat.two_pos⟩

/-! ## The push -/

/-- The line leaves the stacker's list of a Shingle. -/
def State.pushed (s : State) (n sh : Nat) : State := s.setStack n fun l => { l with push := maskSub l.push (2 ^ sh) }

/-- Room for a line: the oldest that waits is discarded where four are occupied. -/
def State.makeRoom (s : State) (sh : Nat) : State :=
  let e := s.engine sh
  if e.intake.length + boolNat e.run.isSome < 4 then s
  else match e.intake with
    | [] => s
    | i :: rest => (s.setEngine sh { e with intake := rest }).overrun sh i.tickno

/-- A line enters the queue. -/
def State.takeIn (s : State) (sh : Nat) (q : StackLine) : State :=
  (s.setEngine sh { s.engine sh with intake := (s.engine sh).intake ++ [s.intakeOf q sh] }).shShow sh

theorem State.intakePush_eq {sh : Nat} {q : StackLine} {l : Line} (hq : s.rdo.store.find? (fun l => bit l.push sh) = some q)
    (hl : s.lineOf q.tickno = some l) (hon : s.shOn sh = true) :
    s.intakePush sh = ((((s.pushed q.tickno sh).releaseBy sh l).makeRoom sh).takeIn sh q) := by
  unfold State.intakePush
  rw [hq]
  dsimp only
  rw [hl]
  dsimp only
  rw [hon]
  rfl

theorem State.takeIn_frame (sh : Nat) (q : StackLine) : s.regsSame (s.takeIn sh q) [(R.SH_STAT_STATE sh).reg] ∧
    (∀ a, (s.takeIn sh q).byte a = s.byte a) ∧ (∀ k, k ≠ sh → (s.takeIn sh q).engine k = s.engine k) ∧
    (s.takeIn sh q).engine sh = { s.engine sh with intake := (s.engine sh).intake ++ [s.intakeOf q sh] } := by
  obtain ⟨hregs, -, hbyte, heng, -⟩ := (s.setEngine sh { s.engine sh with intake := (s.engine sh).intake ++ [s.intakeOf q sh] }).shShow_only sh
  unfold State.takeIn
  refine ⟨(State.regsSame.of_regs (State.setEngine_regs ..)).trans hregs, fun a => (hbyte a).trans (State.byte_of_mem (State.setEngine_mem ..) a),
    fun k hk => ?_, ?_⟩
  · rw [State.engine_of_eng heng, State.engine_setEngine_other _ _ hk]
  · rw [State.engine_of_eng heng, State.engine_setEngine_same]

theorem State.makeRoom_free {sh : Nat} (h : (s.engine sh).intake.length + boolNat (s.engine sh).run.isSome < 4) : s.makeRoom sh = s := by
  unfold State.makeRoom
  exact if_pos h

theorem State.makeRoom_full {sh : Nat} {i : Intake} {rest : List Intake} (hi : (s.engine sh).intake = i :: rest)
    (h : 4 ≤ (s.engine sh).intake.length + boolNat (s.engine sh).run.isSome) :
    s.makeRoom sh = (s.setEngine sh { s.engine sh with intake := rest }).overrun sh i.tickno := by
  unfold State.makeRoom
  dsimp only
  rw [if_neg (by omega), hi]

/-- Making room leaves the engine's marks and every register but those of OVERRUN. -/
theorem State.makeRoom_frame (sh : Nat) : s.regsSame (s.makeRoom sh) (overrunRegs sh) ∧
    ((s.makeRoom sh).engine sh).faulted = (s.engine sh).faulted ∧ ((s.makeRoom sh).engine sh).restarted = (s.engine sh).restarted := by
  unfold State.makeRoom
  dsimp only
  split
  · exact ⟨.refl, rfl, rfl⟩
  · split
    · exact ⟨.refl, rfl, rfl⟩
    · next i rest _ =>
      have hframe := (s.setEngine sh { s.engine sh with intake := rest }).overrun_frame sh i.tickno
      refine ⟨(State.regsSame.of_regs (State.setEngine_regs ..)).trans hframe.regs, ?_, ?_⟩
      · rw [hframe.faulted, State.engine_setEngine_same]
      · rw [hframe.restarted, State.engine_setEngine_same]

theorem State.releaseBy_kept {sh : Nat} {l : Line} (h : ((s.engine sh).faulted && decide ((s.engine sh).faultAct < l.act)) = false) :
    s.releaseBy sh l = s := by
  unfold State.releaseBy
  exact if_neg (by simp [h])

/-- The proof queue follows the lines that wait, and SH_STAT with it. -/
def State.pruneShow (s : State) (sh : Nat) : State := if s.shOn sh then (s.proofPrune sh).shShow sh else s

theorem State.pruneShow_frame (sh : Nat) : ShFrame s (s.pruneShow sh) sh [(R.SH_STAT_STATE sh).reg] := by
  have hprune : ShFrame s (s.proofPrune sh) sh [(R.SH_STAT_STATE sh).reg] := by
    refine ⟨.of_regs (State.proofPrune_regs s sh), State.byte_of_mem (State.proofPrune_mem s sh), ?_, fun k hk => State.engine_setEngine_other _ _ hk⟩
    unfold State.proofPrune
    dsimp only
    rw [State.engine_setEngine_same]
    rfl
  unfold State.pruneShow
  split
  · exact hprune.trans (.of_only (State.shShow_only _ sh))
  · exact .of_only only_refl

/-- A line is taken in, and what follows of it. -/
theorem State.taken_frame (sh : Nat) (q : StackLine) : s.regsSame ((s.takeIn sh q).pruneShow sh) [(R.SH_STAT_STATE sh).reg] ∧
    (∀ a, ((s.takeIn sh q).pruneShow sh).byte a = s.byte a) ∧
    (∀ k, k ≠ sh → ((s.takeIn sh q).pruneShow sh).engine k = s.engine k) ∧
    (((s.takeIn sh q).pruneShow sh).engine sh).intake = (s.engine sh).intake ++ [s.intakeOf q sh] ∧
    (((s.takeIn sh q).pruneShow sh).engine sh).faulted = (s.engine sh).faulted ∧
    (((s.takeIn sh q).pruneShow sh).engine sh).restarted = (s.engine sh).restarted := by
  obtain ⟨hregs, hbyte, hothers, htake⟩ := s.takeIn_frame sh q
  have hprune := (s.takeIn sh q).pruneShow_frame sh
  refine ⟨hregs.trans hprune.regs, fun a => (hprune.byte a).trans (hbyte a), fun k hk => (hprune.others k hk).trans (hothers k hk), ?_, ?_, ?_⟩
  · rw [hprune.intake, htake]
  · rw [hprune.faulted, htake]
  · rw [hprune.restarted, htake]

/-! ## The proof queue -/

/-- The registers that a fetch of a proof line shows in: errors of DDR4, its latency, SH_STAT. -/
def fetchRegs (sh : Nat) : List Nat :=
  (R.SH_STAT_STATE sh).reg :: memErrRegs ++ ((sysMon 0).regs ++ (sysMon 1).regs ++ (sysMon 2).regs ++ (sysMon 3).regs)

theorem State.ddrLatency_only (lo n lat : Nat) :
    only s (s.ddrLatency lo n lat) ((sysMon 0).regs ++ (sysMon 1).regs ++ (sysMon 2).regs ++ (sysMon 3).regs) := by
  have hmon (k : Nat) : (sysMon (k % 4)).regs ⊆ (sysMon 0).regs ++ (sysMon 1).regs ++ (sysMon 2).regs ++ (sysMon 3).regs := by
    have hcases : k % 4 = 0 ∨ k % 4 = 1 ∨ k % 4 = 2 ∨ k % 4 = 3 := by omega
    rcases hcases with h | h | h | h <;> rw [h] <;> intro a ha <;> simp only [List.mem_append, ha, true_or, or_true]
  unfold State.ddrLatency
  exact only_ite only_refl (only_foldl _ fun u k _ => only_mono (u.monEnter_only ..) (hmon k))

/-- A proof line that is not held is fetched behind those that are. -/
theorem State.proofFetch_eq {sh lat : Nat} {k : Nat × Nat × Int} (hon : s.shOn sh = true) (hdom : s.dom dDDR = true)
    (hk : ((s.proofPrune sh).proofWanted sh).find? (fun k => !((s.proofPrune sh).engine sh).proof.any (fun p => p.is k)) = some k)
    (hroom : ((s.proofPrune sh).engine sh).proof.length < 8) : ∃ (p : ProofEntry) (out : Bool) (lo n : Nat), p.is k = true ∧
      s.proofFetch sh lat =
        (let u := (s.proofPrune sh).setEngine sh { (s.proofPrune sh).engine sh with proof := ((s.proofPrune sh).engine sh).proof ++ [p] }
         (if out then u else (u.ddrRead lo n).ddrLatency lo n lat).shShow sh) := by
  obtain ⟨x, base, p⟩ := k
  unfold State.proofFetch
  dsimp only
  rw [if_neg (by simp [hon, hdom]), hk]
  dsimp only
  rw [if_neg (by omega)]
  exact ⟨_, _, _, _, by simp [ProofEntry.is], rfl⟩

end

/-- Settles O22: a line is pushed behind those that wait, with one discarded or the engine released before it. -/
theorem intakeAndProofQueues : Obligations.IntakeAndProofQueues := by
  refine ⟨fun s sh q l hq hl hon hok => ⟨fun hroom => ⟨_, rfl, ?_⟩, fun i rest hi hfull => ⟨_, rfl, ?_⟩⟩,
    fun s sh q l hq hl hon hfault => ⟨fun hact hroom => ⟨_, rfl, ?_⟩, fun hact => ⟨_, rfl, ?_⟩⟩,
    fun s sh lat k hon hdom hk hroom => ⟨_, rfl, ?_⟩⟩
  · have hpush : (if (s.intakePush sh).shOn sh then ((s.intakePush sh).proofPrune sh).shShow sh else s.intakePush sh) =
        (s.intakePush sh).pruneShow sh := rfl
    rw [hpush, s.intakePush_eq hq hl hon]
    have hengine (k : Nat) : (s.pushed q.tickno sh).engine k = s.engine k := rfl
    have hbyte (a : Nat) : (s.pushed q.tickno sh).byte a = s.byte a := rfl
    generalize s.pushed q.tickno sh = u at hengine hbyte
    rw [u.releaseBy_kept (by simp [hengine, hok]), u.makeRoom_free (by rw [hengine]; exact hroom)]
    obtain ⟨-, htbyte, hothers, htake, -⟩ := u.taken_frame sh q
    dsimp only
    rw [htake, hengine]
    exact ⟨⟨_, rfl, rfl⟩, fun k hk => (hothers k hk).trans (hengine k), fun a => (htbyte a).trans (hbyte a)⟩
  · have hpush : (if (s.intakePush sh).shOn sh then ((s.intakePush sh).proofPrune sh).shShow sh else s.intakePush sh) =
        (s.intakePush sh).pruneShow sh := rfl
    rw [hpush, s.intakePush_eq hq hl hon]
    have hengine (k : Nat) : (s.pushed q.tickno sh).engine k = s.engine k := rfl
    have hbyte (a : Nat) : (s.pushed q.tickno sh).byte a = s.byte a := rfl
    have hregs : (s.pushed q.tickno sh).regs = s.regs := rfl
    generalize s.pushed q.tickno sh = u at hengine hbyte hregs
    rw [u.releaseBy_kept (by simp [hengine, hok]), u.makeRoom_full (by rw [hengine, hi]) (by rw [hengine]; exact hfull)]
    set v := u.setEngine sh { u.engine sh with intake := rest } with hv
    have hframe := v.overrun_frame sh i.tickno
    obtain ⟨htold, hcnt⟩ := v.overrun_shows sh i.tickno
    generalize v.overrun sh i.tickno = w at hframe htold hcnt
    have hvregs : s.regsSame v [] := .of_regs hregs
    obtain ⟨htregs, htbyte, -, htake, -⟩ := w.taken_frame sh q
    have hstat : (∀ a ∈ toldRegs (E.SH_OVERRUN sh), a ∉ [(R.SH_STAT_STATE sh).reg]) ∧
        (R.SH_OVR_CNT_COUNT sh).reg ∉ [(R.SH_STAT_STATE sh).reg] := by
      refine ⟨?_, ?_⟩ <;>
        simp only [toldRegs, E.SH_OVERRUN, intRawBit, evtCnt, R.SH_OVR_CNT_COUNT, R.SH_STAT_STATE, List.mem_cons, List.not_mem_nil, or_false] <;>
        omega
    refine ⟨⟨w.intakeOf q sh, ?_, rfl⟩, told_frame htold hvregs htregs (fun _ _ => List.not_mem_nil) hstat.1, ?_, fun a => ?_⟩
    · rw [htake, hframe.intake, hv, State.engine_setEngine_same]
    · rw [State.get_of_regsSame htregs hstat.2, hcnt, State.get_of_regsSame hvregs List.not_mem_nil]
    · rw [htbyte, hframe.byte]
      exact hbyte a
  · have hpush : (if (s.intakePush sh).shOn sh then ((s.intakePush sh).proofPrune sh).shShow sh else s.intakePush sh) =
        (s.intakePush sh).pruneShow sh := rfl
    rw [hpush, s.intakePush_eq hq hl hon]
    have hengine (k : Nat) : (s.pushed q.tickno sh).engine k = s.engine k := rfl
    have hbyte (a : Nat) : (s.pushed q.tickno sh).byte a = s.byte a := rfl
    generalize s.pushed q.tickno sh = u at hengine hbyte
    rw [u.releaseBy_kept (by rw [hengine]; simpa using fun _ => hact), u.makeRoom_free (by rw [hengine]; exact hroom)]
    obtain ⟨-, htbyte, -, htake, htf, -⟩ := u.taken_frame sh q
    dsimp only
    rw [htake, htf, hengine]
    exact ⟨hfault, ⟨_, rfl, rfl⟩, fun a => (htbyte a).trans (hbyte a)⟩
  · have hpush : (if (s.intakePush sh).shOn sh then ((s.intakePush sh).proofPrune sh).shShow sh else s.intakePush sh) =
        (s.intakePush sh).pruneShow sh := rfl
    rw [hpush, s.intakePush_eq hq hl hon]
    have hengine (k : Nat) : (s.pushed q.tickno sh).engine k = s.engine k := rfl
    generalize s.pushed q.tickno sh = u at hengine
    have hrel : u.releaseBy sh l = (u.discardIf sh fun n => match u.lineOf n with | some q => q.act ≠ l.act | none => true).release sh := by
      unfold State.releaseBy
      exact if_pos (by simp [hengine, hfault, hact])
    rw [hrel]
    have hfaulted : ((u.discardIf sh fun n => match u.lineOf n with | some q => q.act ≠ l.act | none => true).engine sh).faulted = true := by
      rw [u.discardIf_faulted, hengine, hfault]
    generalize u.discardIf sh _ = v at hfaulted
    obtain ⟨hrf, hrr, hrcode, hrsum⟩ := v.release_engine hfaulted
    generalize v.release sh = w at hrf hrr hrcode hrsum
    obtain ⟨hmregs, hmf, hmr⟩ := w.makeRoom_frame sh
    generalize w.makeRoom sh = x at hmregs hmf hmr
    obtain ⟨htregs, -, -, htake, htf, htr⟩ := x.taken_frame sh q
    have hnot : (∀ f : Fld, f.reg = 0x200048 + 0x1000 * sh.val ∨ f.reg = 0x19060 + 4 * (sh.val / 32) →
        f.reg ∉ overrunRegs sh ∧ f.reg ∉ [(R.SH_STAT_STATE sh).reg]) := by
      intro f hf
      simp only [overrunRegs, toldRegs, E.SH_OVERRUN, intRawBit, evtCnt, R.SH_OVR_CNT_COUNT, leaveRegs, settleRegs, R.SH_DONE_LO_TICKNO,
        R.SH_DONE_HI_TICKNO, R.RING_WM_LO_TICKNO, R.RING_WM_HI_TICKNO, R.JOB_STAT_OLD_BUSY, R.SH_STAT_STATE, List.cons_append, List.nil_append,
        List.mem_cons, List.not_mem_nil, or_false]
      omega
    have hget (f : Fld) (hf : f.reg = 0x200048 + 0x1000 * sh.val ∨ f.reg = 0x19060 + 4 * (sh.val / 32)) : ((x.takeIn sh q).pruneShow sh).get f = w.get f := by
      rw [State.get_of_regsSame htregs (hnot f hf).2, State.get_of_regsSame hmregs (hnot f hf).1]
    dsimp only
    rw [htake]
    refine ⟨htf.trans (hmf.trans hrf), htr.trans (hmr.trans hrr), (hget _ (.inl rfl)).trans hrcode, (hget _ (.inr rfl)).trans hrsum, _, _, rfl, rfl⟩
  · obtain ⟨p, out, lo, n, hp, heq⟩ := s.proofFetch_eq (lat := lat) hon hdom hk hroom
    have hothers (j : Nat) (hj : j ≠ sh.val) : (s.proofPrune sh).engine j = s.engine j := State.engine_setEngine_other _ _ hj
    have hbyte (a : Nat) : (s.proofPrune sh).byte a = s.byte a := rfl
    rw [heq]
    generalize s.proofPrune sh = u at hothers hbyte
    dsimp only
    set v := u.setEngine sh { u.engine sh with proof := (u.engine sh).proof ++ [p] } with hv
    have hread : only v (if out then v else (v.ddrRead lo n).ddrLatency lo n lat) (fetchRegs sh) := by
      refine only_ite only_refl (only_trans (only_mono (State.ddrRead_only _ _ _) ?_) (only_mono (State.ddrLatency_only ..) ?_))
      · exact fun a ha => List.mem_cons_of_mem _ (List.mem_append_left _ ha)
      · exact fun a ha => List.mem_cons_of_mem _ (List.mem_append_right _ ha)
    obtain ⟨-, -, hvbyte, hveng, -⟩ := only_trans hread (only_mono (State.shShow_only _ sh) (List.cons_subset_cons _ (List.nil_subset _)))
    refine ⟨⟨p, ?_, hp⟩, fun j hj => ?_, fun a => ?_⟩
    · rw [State.engine_of_eng hveng, hv, State.engine_setEngine_same]
    · rw [State.engine_of_eng hveng, hv, State.engine_setEngine_other _ _ hj, hothers j hj]
    · rw [hvbyte]
      exact hbyte a

end Sys2Proof.Machine
end

/-! PROOFS. O23: what an engine holds when it has entered INIT or the kernel (R132, R137, R157). -/
section
namespace Sys2Proof.Machine

section
variable (s : State)

/-! ## Numbers in memory -/

theorem leNat_leBytes (n v : Nat) : leNat (leBytes n v) = v % 256 ^ n := by
  induction n generalizing v with
  | zero => exact (Nat.mod_one v).symm
  | succ n ih => rw [leBytes, leNat, ih, Nat.pow_succ', Nat.mod_mul]

theorem State.bytes_putBytes_head (a : Nat) {xs : List Nat} (ys : List Nat) (h : ∀ b ∈ xs, b < 256) :
    (s.putBytes a (xs ++ ys)).bytes a xs.length = xs := by
  induction xs generalizing s a with
  | nil => rfl
  | cons b xs ih =>
    rw [List.cons_append, State.putBytes, List.length_cons, State.bytes, ih _ (a + 1) fun x hx => h x (List.mem_cons_of_mem _ hx),
      State.byte_putBytes_other _ _ _ (.inl (Nat.lt_succ_self a)), State.byte_setByte_same, BitVec.toNat_ofNat,
      Nat.mod_eq_of_lt (h b List.mem_cons_self)]

theorem State.putBytes_now (a : Nat) (bs : List Nat) : (s.putBytes a bs).now = s.now := by
  induction bs generalizing s a with
  | nil => rfl
  | cons b bs ih => exact ih (s.setByte a (BitVec.ofNat 8 b)) (a + 1)

theorem State.setBytes_now (a : Nat) (bs : List Nat) : (s.setBytes a bs).now = s.now := s.putBytes_now a bs

/-! ## Entry -/

theorem State.lineDesc_head (sh : Nat) (l : Line) (i : Intake) (w : List ProofEntry) (init : Bool) (budget : Int) (gap : Nat) :
    ∃ rest, s.lineDesc sh l i w init budget gap = leBytes 8 l.tickno ++ rest := by
  unfold State.lineDesc
  dsimp only
  simp only [List.append_assoc]
  exact ⟨_, rfl⟩

/-- The scalar registers at an entry (Table 7-1). -/
def entrySregs (x : Nat) : SMap Word := [(1, BitVec.ofNat 32 trayLineDesc), (2, BitVec.ofNat 32 (kparamBase x)), (3, 0x14000)]

/-- Registers as at an entry: those that Table 7-1 names, the others 0. -/
theorem entry_registers {e : Engine} {x : Nat} (hs : e.sreg = entrySregs x) (hv : e.vreg = []) (ha : e.areg = []) (hp : e.preg = []) :
    e.s 1 = 0x3F000 ∧ e.s 2 = BitVec.ofNat 32 (kparamBase x) ∧ e.s 3 = 0x14000 ∧ (∀ k, 3 < k → e.s k = 0) ∧ (∀ k, e.v k = zeroV) ∧
    (∀ k, e.acc k = zeroA) ∧ ∀ k, 0 < k → e.p k = zeroP := by
  refine ⟨?_, ?_, ?_, fun k hk => ?_, fun k => ?_, fun k => ?_, fun k hk => ?_⟩
  · rw [Engine.s, hs]
    rfl
  · rw [Engine.s, hs]
    rfl
  · rw [Engine.s, hs]
    rfl
  · rw [Engine.s, hs, if_neg (by omega), entrySregs, mapGet, mapFind, if_neg (by omega), mapFind, if_neg (by omega), mapFind, if_neg (by omega)]
    rfl
  · rw [Engine.v, hv]
    rfl
  · rw [Engine.acc, ha]
    rfl
  · rw [Engine.p, hp, if_neg (by omega)]
    rfl

theorem entered_of_engine {s t : State} {sh : Nat} {i : Intake} {l : Line} {init : Bool} {word : Nat} {e : Engine} {r : Run}
    (he : t.engine sh = e) (hrun : e.run = some r) (hr : r.pc = word ∧ r.bank = l.bank ∧ r.init = init ∧ r.line = i)
    (hs : e.sreg = entrySregs l.bank) (hv : e.vreg = []) (ha : e.areg = []) (hp : e.preg = [])
    (hline : t.bytes (trayBase sh + trayLineDesc) 8 = leBytes 8 l.tickno) (hsame : s.memSame t (trayBase sh + trayLineDesc) 64) :
    entered s t sh i l init word := by
  have hnum : leNat (leBytes 8 l.tickno) = l.tickno % 2 ^ 64 := leNat_leBytes 8 l.tickno
  obtain ⟨h1, h2, h3, hs', hv', hacc, hp'⟩ := entry_registers hs hv ha hp
  unfold entered
  rw [he, hline]
  exact ⟨⟨r, hrun, hr⟩, h1, h2, h3, hs', hv', hacc, hp', hnum, hsame⟩

theorem State.shShow_now (sh : Nat) : (s.shShow sh).now = s.now := by
  unfold State.shShow
  split
  · rfl
  · rw [State.put_now, State.put_now, State.put_now, State.put_now, State.put_now]

/-- The engine of an entry: the run and the registers of Table 7-1. -/
def enteredEngine (e : Engine) (l : Line) (r : Run) (restarted : Bool) : Engine :=
  { e with intake := e.intake.filter (fun j => j.tickno ≠ l.tickno), run := some r, restarted := restarted
           sreg := entrySregs l.bank, vreg := [], areg := [], preg := [] }

theorem State.entryShown (sh x : Nat) (e : Engine) :
    (((s.setEngine sh e).put (R.SH_STAT_BANK sh) x).shShow sh).engine sh = e ∧
    (((s.setEngine sh e).put (R.SH_STAT_BANK sh) x).shShow sh).now = s.now ∧
    (((s.setEngine sh e).put (R.SH_STAT_BANK sh) x).shShow sh).mem = s.mem := by
  rw [State.engine_of_eng (State.shShow_eng _ sh), State.engine_of_eng (State.put_eng _ _ _), State.engine_setEngine_same, State.shShow_now,
    State.put_now, State.shShow_mem, State.put_mem, State.setEngine_mem]
  exact ⟨rfl, rfl, rfl⟩

theorem State.enterWith_parts (gap sh : Nat) (i : Intake) (l : Line) (w : List ProofEntry) (init : Bool) (t wdog base : Nat) :
    (∃ (r : Run) (restarted : Bool), (r.pc = s.get (if init then R.ENGG_x_INIT_WORD l.bank else R.ENGG_x_ENTRY_WORD l.bank) ∧
      r.bank = l.bank ∧ r.init = init ∧ r.line = i) ∧
      (s.enterWith gap sh i l w init t wdog base).engine sh = enteredEngine (s.engine sh) l r restarted) ∧
    (s.enterWith gap sh i l w init t wdog base).now = s.now ∧
    (s.enterWith gap sh i l w init t wdog base).bytes (trayBase sh + trayLineDesc) 8 = leBytes 8 l.tickno := by
  unfold State.enterWith
  dsimp only
  obtain ⟨rest, hdesc⟩ := s.lineDesc_head sh l i w init (s.budgetAt sh l t) gap
  have hline := s.bytes_putBytes_head (trayBase sh + trayLineDesc) rest (xs := leBytes 8 l.tickno) fun b hb => leBytes_lt hb
  rw [leBytes_length, ← hdesc] at hline
  generalize s.lineDesc sh l i w init (s.budgetAt sh l t) gap = desc at *
  obtain ⟨hregs, heng⟩ := s.setBytes_frame (trayBase sh + trayLineDesc) desc
  have hmem := s.setBytes_mem (trayBase sh + trayLineDesc) desc
  have hnow := s.setBytes_now (trayBase sh + trayLineDesc) desc
  generalize s.setBytes (trayBase sh + trayLineDesc) desc = u at *
  rw [(u.entryShown _ _ _).1, (u.entryShown _ _ _).2.1, State.bytes_of_mem ((u.entryShown _ _ _).2.2.trans hmem), State.engine_of_eng heng]
  exact ⟨⟨_, _, ⟨State.get_of_regs hregs, rfl, rfl, rfl⟩, rfl⟩, hnow, hline⟩

/-- The run, the register contents and the line's number that an entry leaves. -/
theorem State.enterWith_enters (gap : Nat) {sh : Nat} (i : Intake) (l : Line) (w : List ProofEntry) (init : Bool) (t wdog base : Nat) :
    entered s (s.enterWith gap sh i l w init t wdog base) sh i l init
      (s.get (if init then R.ENGG_x_INIT_WORD l.bank else R.ENGG_x_ENTRY_WORD l.bank)) ∧
    (s.enterWith gap sh i l w init t wdog base).now = s.now := by
  obtain ⟨-, -, hsame⟩ := s.enterWith_spec gap sh i l w init t wdog base
  obtain ⟨⟨r, restarted, hr, hengine⟩, hnow, hline⟩ := s.enterWith_parts gap sh i l w init t wdog base
  exact ⟨entered_of_engine hengine rfl hr rfl rfl rfl rfl hline hsame, hnow⟩

/-- GAP may take a free value, and changes nothing else. -/
theorem State.gapOf_eq (sh n : Nat) : ∃ gap k, s.gapOf sh n = (gap, { s with freeIdx := k }) := by
  unfold State.gapOf
  split
  · exact ⟨_, s.freeIdx, rfl⟩
  · exact ⟨_, _, rfl⟩

theorem State.enter_enters {sh : Nat} (i : Intake) (l : Line) (w : List ProofEntry) (init : Bool) (t wdog base : Nat) :
    entered s (s.enter sh i l w init t wdog base) sh i l init
      (s.get (if init then R.ENGG_x_INIT_WORD l.bank else R.ENGG_x_ENTRY_WORD l.bank)) ∧
    (s.enter sh i l w init t wdog base).now = s.now := by
  obtain ⟨gap, k, hgap⟩ := s.gapOf_eq sh l.tickno
  have h := State.enterWith_enters { s with freeIdx := k } gap (sh := sh) i l w init t wdog base
  unfold State.enter
  rw [hgap]
  exact h

end

/-- Settles O23: the entry writes the line descriptor and the engine's registers, and takes the run's word from its register. -/
theorem enginesEnterTheKernel : Obligations.EnginesEnterTheKernel := by
  intro s sh t0 i l w hline
  refine ⟨fun hinit => ⟨_, rfl, ?_⟩, fun hinit => ⟨_, rfl, ?_⟩⟩
  · have heq : s.kernelEntry sh t0 = (s.at t0).enter sh i l w false (s.at t0).now 0 0 := by
      unfold State.kernelEntry
      rw [hline]
      exact if_neg (by simp [hinit])
    rw [heq]
    exact (s.at t0).enter_enters i l w false (s.at t0).now 0 0
  · have heq : s.initEntry sh t0 = (s.at t0).enter sh i l w true (s.at t0).now 0 0 := by
      unfold State.initEntry
      rw [hline]
      exact if_pos hinit
    rw [heq]
    exact (s.at t0).enter_enters i l w true (s.at t0).now 0 0

end Sys2Proof.Machine
end

/-! PROOFS. What writes of registers and memory leave: the rings, statistics records and repeats (R201–R210, R236). -/
section
namespace Sys2Proof.Machine

/-! ## Registers and memory written -/

/-- From s to t registers of a list and bytes of memory have been written, and nothing else of the state but what follows from that:
poison, roll-up requests, the attention pin, the count of free values. -/
structure Written (s t : State) (L : List Nat) : Prop where
  regs : s.regsSame t L
  rest : ∃ regs mem poison memctl sys mb freeIdx,
    t = { s with regs := regs, mem := mem, poison := poison, memctl := memctl, sys := sys, mb := mb, freeIdx := freeIdx }

section
variable {s t u : State} {L L' : List Nat}

theorem Written.refl : Written s s L := ⟨.refl, _, _, _, _, _, _, _, rfl⟩

theorem Written.trans (h : Written s t L) (h' : Written t u L) : Written s u L := by
  obtain ⟨hregs, regs, mem, poison, memctl, sys, mb, freeIdx, rfl⟩ := h
  obtain ⟨hregs', regs', mem', poison', memctl', sys', mb', freeIdx', rfl⟩ := h'
  exact ⟨hregs.trans hregs', regs', mem', poison', memctl', sys', mb', freeIdx', rfl⟩

theorem Written.mono (h : Written s t L) (hL : L ⊆ L') : Written s t L' := ⟨h.regs.mono hL, h.rest⟩

theorem Written.get {f : Fld} (h : Written s t L) (hf : f.reg ∉ L) : t.get f = s.get f := State.get_of_regsSame h.regs hf

theorem Written.fields (h : Written s t L) : t.now = s.now ∧ t.force = s.force ∧ t.tick = s.tick ∧ t.exp = s.exp ∧ t.rdo = s.rdo ∧
    t.lines = s.lines ∧ t.eng = s.eng ∧ t.job = s.job ∧ t.rec_ = s.rec_ ∧ t.dev = s.dev ∧ t.pwr = s.pwr := by
  obtain ⟨-, regs, mem, poison, memctl, sys, mb, freeIdx, rfl⟩ := h
  exact ⟨rfl, rfl, rfl, rfl, rfl, rfl, rfl, rfl, rfl, rfl, rfl⟩

theorem Written.rec_ (h : Written s t L) : t.rec_ = s.rec_ := by
  obtain ⟨-, regs, mem, poison, memctl, sys, mb, freeIdx, rfl⟩ := h
  rfl

theorem Written.dev (h : Written s t L) : t.dev = s.dev := by
  obtain ⟨-, regs, mem, poison, memctl, sys, mb, freeIdx, rfl⟩ := h
  rfl

theorem Written.eng (h : Written s t L) : t.eng = s.eng := by
  obtain ⟨-, regs, mem, poison, memctl, sys, mb, freeIdx, rfl⟩ := h
  rfl

theorem Written.force (h : Written s t L) : t.force = s.force := by
  obtain ⟨-, regs, mem, poison, memctl, sys, mb, freeIdx, rfl⟩ := h
  rfl

theorem Written.ite {c : Prop} [Decidable c] (h : Written s t L) (h' : Written s u L) : Written s (if c then t else u) L := by
  split
  · exact h
  · exact h'

theorem Written.foldl {α : Type} {f : State → α → State} (xs : List α) (hf : ∀ u, ∀ x ∈ xs, Written u (f u x) L) :
    Written s (xs.foldl f s) L :=
  List.foldlRecOn (motive := fun u => Written s u L) xs f .refl fun u hu x hx => hu.trans (hf u x hx)

variable (s)

theorem State.put_written {f : Fld} (v : Nat) (hf : f.reg ∈ L) : Written s (s.put f v) L :=
  ⟨State.regsSame_put v hf, _, _, _, _, _, _, _, rfl⟩

theorem State.bump_written {f : Fld} (hf : f.reg ∈ L) : Written s (s.bump f) L := s.put_written _ hf

theorem State.raise_written {e : Ev} (he : toldRegs e ⊆ L) : Written s (s.raise e) L := by
  have hregs : s.regsSame (s.raise e) L := State.regsSame_raise he
  obtain ⟨r, y, m, heq⟩ := s.raiseBy_eq e 1
  exact ⟨hregs, r, _, _, _, y, m, _, heq⟩

theorem State.putBytes_eq (a : Nat) (bs : List Nat) : ∃ mem, s.putBytes a bs = { s with mem := mem } := by
  induction bs generalizing s a with
  | nil => exact ⟨_, rfl⟩
  | cons b bs ih =>
    obtain ⟨mem, h⟩ := ih (s.setByte a (BitVec.ofNat 8 b)) (a + 1)
    exact ⟨mem, h⟩

theorem State.setBytes_written (a : Nat) (bs : List Nat) : Written s (s.setBytes a bs) L := by
  obtain ⟨mem, h⟩ := s.putBytes_eq a bs
  refine ⟨.of_regs (s.setBytes_frame a bs).1, ?_⟩
  unfold State.setBytes
  rw [h]
  exact ⟨_, _, _, _, _, _, _, rfl⟩

theorem State.fresh_written : Written s s.fresh.2 L := ⟨.refl, _, _, _, _, _, _, _, rfl⟩

theorem State.ddrRead_written (a n : Nat) : Written s (s.ddrRead a n) memErrRegs := by
  have hlatch (t : State) (b : Nat) : Written t (t.errLatch b) memErrRegs := by
    unfold State.errLatch
    exact .ite .refl (((t.put_written _ (by decide)).trans (State.put_written _ _ (by decide))).trans (State.put_written _ _ (by decide)))
  have hce (t : State) (b : Nat) : Written t (t.ceSeen b) memErrRegs := by
    have hflips : Written t { t with memctl := { t.memctl with flips := setDel t.memctl.flips b } } memErrRegs :=
      ⟨.of_regs rfl, _, _, _, _, _, _, _, rfl⟩
    exact ((hflips.trans (State.bump_written _ (by decide))).trans (State.raise_written _ (by decide))).trans (hlatch _ b)
  rw [s.ddrRead_eq]
  refine (Written.foldl _ fun t b _ => hce t b).trans (.foldl _ fun t b _ => ?_)
  exact ((t.bump_written (by decide)).trans (State.raise_written _ (by decide))).trans (hlatch _ b)

/-! ## Rings (R236) -/

/-- The registers that entries of ring r move. -/
def ringRegs (r : Nat) : List Nat :=
  [(R.RINGr_WR_OFS r).reg, (R.RINGr_SENT_OFS r).reg, (R.RINGr_STAT_OVF r).reg] ++ toldRegs (E.RING_FULL r)

theorem State.ringStore_written (r n ofs : Nat) (bs : List Nat) : Written s (s.ringStore r n ofs bs) L := by
  induction n generalizing s ofs bs with
  | zero => exact .refl
  | succ n ih => exact (s.setBytes_written _ _).trans (ih _ _ _)

/-- The entry is written and WR moves behind it. -/
theorem State.ringPut_fits {r : Nat} {bs : List Nat} (h : ceilDiv bs.length 64 ≤ s.ringFree r) : ∃ t, s.ringPut r bs = some t ∧
    Written s t [(R.RINGr_WR_OFS r).reg, (R.RINGr_SENT_OFS r).reg] ∧
    t.ringWr r = (s.ringWr r + ceilDiv bs.length 64) % s.ringUnits r % 2 ^ 32 := by
  have hreg : (R.RINGr_WR_OFS r).reg ≠ (R.RINGr_SENT_OFS r).reg := by
    simp only [R.RINGr_WR_OFS, R.RINGr_SENT_OFS]
    omega
  unfold State.ringPut
  dsimp only
  rw [if_neg (by omega)]
  refine ⟨_, rfl, ?_⟩
  have hstore := s.ringStore_written (L := [(R.RINGr_WR_OFS r).reg, (R.RINGr_SENT_OFS r).reg]) r (ceilDiv bs.length 64) (s.ringWr r) bs
  generalize s.ringStore r (ceilDiv bs.length 64) (s.ringWr r) bs = u at hstore
  set v := u.put (R.RINGr_WR_OFS r) ((s.ringWr r + ceilDiv bs.length 64) % s.ringUnits r) with hv
  have hwr : v.get (R.RINGr_WR_OFS r) = (s.ringWr r + ceilDiv bs.length 64) % s.ringUnits r % 2 ^ 32 :=
    State.get_put_same (f := R.RINGr_WR_OFS r) _ _ (Nat.le_refl 32)
  have hput := hstore.trans (u.put_written ((s.ringWr r + ceilDiv bs.length 64) % s.ringUnits r) (f := R.RINGr_WR_OFS r) (.head _))
  rw [← hv] at hput
  split
  · exact ⟨hput, hwr⟩
  · exact ⟨hput.trans (State.put_written _ _ (.tail _ (.head _))), (State.get_put_reg _ _ hreg).trans hwr⟩

theorem State.ringPut_none {r : Nat} {bs : List Nat} (h : s.ringFree r < ceilDiv bs.length 64) : s.ringPut r bs = none := if_pos h

theorem State.ringPut_written {r : Nat} {bs : List Nat} (h : s.ringPut r bs = some t) : Written s t (ringRegs r) := by
  by_cases hfree : ceilDiv bs.length 64 ≤ s.ringFree r
  · obtain ⟨u, hu, hwritten, -⟩ := s.ringPut_fits hfree
    rw [hu] at h
    cases h
    exact hwritten.mono (List.Sublist.subset (by simp [ringRegs]))
  · rw [s.ringPut_none (by omega)] at h
    cases h

theorem State.ringDrop_written (r : Nat) : Written s (s.ringDrop r) (ringRegs r) :=
  s.bump_written (f := R.RINGr_STAT_DROP r) (.tail _ (.tail _ (.head _)))

theorem State.ringOverflow_written (r : Nat) : Written s (s.ringOverflow r) (ringRegs r) :=
  (s.put_written (f := R.RINGr_STAT_OVF r) 1 (.tail _ (.tail _ (.head _)))).trans
    (State.raise_written _ (List.subset_append_right [_, _, _] _))

theorem State.ringRewrite_written (r ofs : Nat) (bs : List Nat) : Written s (s.ringRewrite r ofs bs) L := by
  unfold State.ringRewrite
  exact .ite .refl (s.setBytes_written _ _)

/-! ## Statistics records and repeats (R205–R210) -/

/-- The registers that statistics records show in. -/
def statRegs : List Nat :=
  ringRegs 2 ++ ringRegs 3 ++ [R.DEV_STATS_DROP_COUNT.reg] ++ toldRegs E.DEV_STATS_DROP ++ toldRegs E.DEV_HIST_LIMIT

theorem State.histLimit_written (ps : List Patch) : Written s (s.histLimit ps) statRegs := by
  unfold State.histLimit
  exact .ite (s.raise_written (by decide)) .refl

theorem State.statWrite_written (ps : List Patch) (bs : List Nat) : Written s (s.statWrite ps bs) statRegs := by
  have hlimit := s.histLimit_written ps
  unfold State.statWrite
  dsimp only
  split
  · next u hu => exact hlimit.trans ((State.ringPut_written _ hu).mono (by decide))
  · refine hlimit.trans (((State.bump_written _ (f := R.DEV_STATS_DROP_COUNT) (by decide)).trans
      (State.raise_written _ (e := E.DEV_STATS_DROP) (by decide))).trans ?_)
    exact (State.ringOverflow_written _ 3).mono (by decide)

theorem State.repWrite_written (r : RepAcc) (len : Nat) : Written s (s.repWrite r len) statRegs := by
  have hsheet : Written s (match s.ringPut 2 (s.sheetBytes r len) with
      | some s1 => s1
      | none => (s.ringDrop 2).ringOverflow 2) statRegs := by
    split
    · next u hu => exact (State.ringPut_written _ hu).mono (by decide)
    · exact ((s.ringDrop_written 2).trans (State.ringOverflow_written _ 2)).mono (by decide)
  unfold State.repWrite
  dsimp only
  refine .ite (hsheet.trans (State.histLimit_written _ _)) (hsheet.trans (State.statWrite_written _ _ _))

/-- Repeats that are done leave the Developer's list, each with its records. -/
theorem State.repsDone_written : ∃ reps, Written { s with dev := { s.dev with reps := reps } } s.repsDone statRegs := by
  unfold State.repsDone
  dsimp only
  exact ⟨_, .foldl _ fun t r _ => t.repWrite_written r _⟩

end

end Sys2Proof.Machine
end

/-! PROOFS. O38: slices and satellite frames (R140, R201–R217). -/
section
namespace Sys2Proof.Machine

section
variable (s : State)

/-! ## Output entries leave the engines -/

/-- One Shingle's entries of a line leave its queue. -/
def State.dropOut (c n : Nat) (s : State) (i : Nat) : State :=
  if (s.engine (16 * c + i)).out.any (fun o => o.tickno = n) then
    (s.setEngine (16 * c + i) { s.engine (16 * c + i) with out := (s.engine (16 * c + i)).out.filter (fun o => o.tickno ≠ n) }).shShow
      (16 * c + i)
  else s

theorem State.dropOuts_eq (c n : Nat) : s.dropOuts c n = (List.range 16).foldl (State.dropOut c n) s := rfl

theorem State.shShow_rec (sh : Nat) : (s.shShow sh).rec_ = s.rec_ ∧ (s.shShow sh).dev = s.dev := by
  unfold State.shShow
  split
  · exact ⟨rfl, rfl⟩
  · rw [State.put_rec, State.put_rec, State.put_rec, State.put_rec, State.put_rec, State.put_dev, State.put_dev, State.put_dev,
      State.put_dev, State.put_dev]
    exact ⟨rfl, rfl⟩

theorem State.dropOut_frame (c n i : Nat) : (s.dropOut c n i).rec_ = s.rec_ ∧ (s.dropOut c n i).dev = s.dev := by
  unfold State.dropOut
  split
  · exact State.shShow_rec _ _
  · exact ⟨rfl, rfl⟩

/-- A Shingle keeps no entry of the line, and no Shingle takes one. -/
theorem State.dropOut_out (c n i : Nat) : (∀ k, ∀ o ∈ ((s.dropOut c n i).engine k).out, o ∈ (s.engine k).out) ∧
    ∀ o ∈ ((s.dropOut c n i).engine (16 * c + i)).out, o.tickno ≠ n := by
  unfold State.dropOut
  split
  · rw [State.engine_of_eng (State.shShow_eng _ _), State.engine_setEngine_same]
    refine ⟨fun k o ho => ?_, fun o ho => ?_⟩
    · rw [State.engine_of_eng (State.shShow_eng _ _)] at ho
      by_cases hk : k = 16 * c + i
      · subst hk
        rw [State.engine_setEngine_same] at ho
        exact (List.mem_filter.1 ho).1
      · rwa [State.engine_setEngine_other _ _ hk] at ho
    · simpa using (List.mem_filter.1 ho).2
  · next h =>
    refine ⟨fun k o ho => ho, fun o ho => ?_⟩
    simp only [List.any_eq_true, decide_eq_true_eq, not_exists, not_and] at h
    exact h o ho

theorem State.dropOuts_frame (c n : Nat) : (s.dropOuts c n).rec_ = s.rec_ ∧ (s.dropOuts c n).dev = s.dev := by
  rw [s.dropOuts_eq]
  exact List.foldlRecOn (motive := fun t : State => t.rec_ = s.rec_ ∧ t.dev = s.dev) _ _ ⟨rfl, rfl⟩ fun t ht i _ =>
    ⟨(t.dropOut_frame c n i).1.trans ht.1, (t.dropOut_frame c n i).2.trans ht.2⟩

theorem State.dropOuts_out (c n : Nat) {i : Nat} (hi : i < 16) : ∀ o ∈ ((s.dropOuts c n).engine (16 * c + i)).out, o.tickno ≠ n := by
  have kept (is : List Nat) (t : State) (h : ∀ o ∈ (t.engine (16 * c + i)).out, o.tickno ≠ n) :
      ∀ o ∈ ((is.foldl (State.dropOut c n) t).engine (16 * c + i)).out, o.tickno ≠ n :=
    List.foldlRecOn (motive := fun t : State => ∀ o ∈ (t.engine (16 * c + i)).out, o.tickno ≠ n) is _ h fun t ht j _ o ho =>
      ht o ((t.dropOut_out c n j).1 _ o ho)
  have hall (is : List Nat) (t : State) (h : i ∈ is) : ∀ o ∈ ((is.foldl (State.dropOut c n) t).engine (16 * c + i)).out, o.tickno ≠ n := by
    induction is generalizing t with
    | nil => exact absurd h List.not_mem_nil
    | cons j is ih =>
      rcases List.mem_cons.1 h with rfl | h
      · exact kept is _ (t.dropOut_out c n i).2
      · exact ih _ h
  rw [s.dropOuts_eq]
  exact hall _ s (List.mem_range.2 hi)

theorem State.takeOuts_of_eng {t : State} (h : t.eng = s.eng) (c n : Nat) : t.takeOuts c n = s.takeOuts c n := by
  unfold State.takeOuts
  simp only [State.engine_of_eng h]

theorem State.takeOuts_dropOuts (c n : Nat) : (s.dropOuts c n).takeOuts c n = [] := by
  unfold State.takeOuts
  rw [List.flatMap_eq_nil_iff]
  intro i hi
  rw [List.map_eq_nil_iff, List.filter_eq_nil_iff]
  intro o ho
  simpa using s.dropOuts_out c n (List.mem_range.1 hi) o ho

/-! ## Lines and repeats that follow -/

theorem State.busyShow_rec : s.busyShow.rec_ = s.rec_ ∧ s.busyShow.dev = s.dev := by
  unfold State.busyShow
  rw [State.put_rec, State.put_dev]
  exact ⟨rfl, rfl⟩

/-- The reports of lines that are done go to the record writer's queue, behind those that wait. -/
theorem State.linesSettle_rec : (∃ more wm, s.linesSettle.rec_ = { s.rec_ with reports := s.rec_.reports ++ more, wm := wm }) ∧
    s.linesSettle.dev = s.dev := by
  unfold State.linesSettle
  dsimp only
  rw [(State.busyShow_rec _).1, (State.busyShow_rec _).2, State.put64_rec, State.put64_dev]
  exact ⟨⟨_, _, rfl⟩, rfl⟩

theorem State.repsDone_rec : s.repsDone.rec_ = s.rec_ ∧ ∃ reps, s.repsDone.dev = { s.dev with reps := reps } := by
  obtain ⟨reps, h⟩ := s.repsDone_written
  exact ⟨h.rec_, reps, h.dev⟩

theorem State.repsDone_get {f : Fld} (hf : f.reg ∉ statRegs) : s.repsDone.get f = s.get f := by
  obtain ⟨reps, h⟩ := s.repsDone_written
  exact (h.get hf).trans (State.get_upd _)

/-! ## Slices -/

theorem State.sliceMerge_eq {c : Nat} {l : Line} (hl : s.mergeLine c = some l) (hall : courseBits l.gone c = courseBits l.mask c)
    (hroom : s.dev.input.length < 16) : s.sliceMerge c =
    State.sliceIn { s.dropOuts c l.tickno with rec_ := { s.rec_ with work := s.rec_.work ++ s.takeOuts c l.tickno } } l c
      (s.takeOuts c l.tickno) := by
  obtain ⟨hrec, hdev⟩ := s.dropOuts_frame c l.tickno
  unfold State.sliceMerge
  rw [hl]
  dsimp only
  rw [if_neg (not_not.2 hall), State.sliceOn, hrec]
  exact if_pos (by rw [hdev]; exact hroom)

theorem State.devSlice_eq {d : DevSlice} (hd : nextSlice s.dev.input = some d) : ∃ reps, s.devSlice =
    (((State.put { s with dev := { s.dev with input := s.dev.input.filter (fun e => !(e.tickno = d.tickno && e.course = d.course)), reps := reps } }
      R.DEV_STAT_IN_OCC (s.dev.input.filter (fun e => !(e.tickno = d.tickno && e.course = d.course))).length).setLine d.tickno
        (fun l => { l with pendCourses := maskSub l.pendCourses (2 ^ d.course) })).linesSettle).repsDone := by
  unfold State.devSlice
  rw [hd]
  exact ⟨_, rfl⟩

/-! ## Memory contexts -/

theorem State.ctxOf_setCtx (m : Nat) (x : MemCtx) : (s.setCtx m x).ctxOf m = x := mapGet_set_same ..

theorem State.ctxOf_of_dev {t : State} (h : t.dev.ctx = s.dev.ctx) (m : Nat) : t.ctxOf m = s.ctxOf m := by
  rw [State.ctxOf, h, State.ctxOf]

theorem State.ctxOf_of_written {t : State} {L : List Nat} (h : Written s t L) (m : Nat) : t.ctxOf m = s.ctxOf m :=
  s.ctxOf_of_dev (by rw [h.dev]) m

theorem State.ctxShow_written (m : Nat) : Written s (s.ctxShow m) [(R.MCm_MSTAT_WAITING (m - 1)).reg] :=
  ((s.put_written (f := R.MCm_MSTAT_WAITING (m - 1)) _ (.head _)).trans (State.put_written _ (f := R.MCm_MSTAT_OPEN (m - 1)) _ (.head _))).trans
    (State.put_written _ (f := R.MCm_MSTAT_DEVELOPING (m - 1)) _ (.head _))

theorem State.setTurn_frame (m : Nat) : s.regsSame (s.setTurn m) [R.DEV_STAT_TURN.reg] ∧ (s.setTurn m).dev.ctx = s.dev.ctx ∧
    (s.setTurn m).force = s.force ∧ (s.setTurn m).mem = s.mem := by
  unfold State.setTurn
  rw [State.put_dev, State.put_force, State.put_mem]
  refine ⟨?_, rfl, rfl, rfl⟩
  exact .trans (.of_regs (t := { s with dev := { s.dev with turn := m } }) rfl) (State.regsSame_put _ (List.mem_singleton_self _))

/-- What the start of a frame's development leaves of the frame. -/
structure FrameBegun (f g : SatFrame) : Prop where
  begun : g.begun = true
  lines : g.lines = f.lines
  lineDone : g.lineDone = f.lineDone
  pixDone : g.pixDone = f.pixDone
  frameno : g.frameno = f.frameno

theorem State.segBegin_frame (m : Nat) (f : SatFrame) : FrameBegun f (s.segBegin m f).2 ∧
    Written s (s.segBegin m f).1 ((R.DEV_MCm_CNTk_COUNT (m - 1) 4).reg :: toldRegs E.DEV_LATE) ∧ (s.segBegin m f).1.mem = s.mem := by
  unfold State.segBegin
  split
  · next h => exact ⟨⟨h, rfl, rfl, rfl, rfl⟩, .refl, rfl⟩
  · refine ⟨⟨rfl, rfl, rfl, rfl, rfl⟩, ?_, ?_⟩
    · exact .ite ((s.raise_written (List.subset_cons_self _ _)).trans
        (State.bump_written _ (f := R.DEV_MCm_CNTk_COUNT (m - 1) 4) List.mem_cons_self)) .refl
    · exact State.ite_of (P := fun t => t.mem = s.mem) ((State.put_mem ..).trans (State.raise_mem ..)) rfl

/-- A context's count is none of the registers that development shows in beside it. -/
theorem cnt_apart {m k : Nat} (hm : m < 16) (hk : k < 6) : (R.DEV_MCm_CNTk_COUNT (m - 1) k).reg ∉ statRegs ∧
    (R.DEV_MCm_CNTk_COUNT (m - 1) k).reg ≠ (R.MCm_MSTAT_WAITING (m - 1)).reg ∧ (R.DEV_MCm_CNTk_COUNT (m - 1) k).reg ≠ R.DEV_STAT_TURN.reg ∧
    (R.DEV_MCm_CNTk_COUNT (m - 1) k).reg ∉ toldRegs E.DEV_LATE := by
  have hstat : statRegs = [0x20148, 0x2014C, 0x20154, 0x20010, 0x20020, 0x20168, 0x2016C, 0x20174, 0x20010, 0x20020, 0x1B044, 0x1B010, 0x1B028,
    0x1B010, 0x1B028] := rfl
  have hlate : toldRegs E.DEV_LATE = [0x1B010, 0x1B024] := rfl
  rw [hstat, hlate]
  simp only [R.DEV_MCm_CNTk_COUNT, R.MCm_MSTAT_WAITING, R.DEV_STAT_TURN, List.mem_cons, List.not_mem_nil, or_false]
  omega

/-- The frame leaves its context and is counted. -/
def State.frameCounted (s : State) (m : Nat) (f : SatFrame) : State :=
  ((s.setCtx m { s.ctxOf m with waiting := (s.ctxOf m).waiting.drop 1, turnLines := 0 }).bump (R.DEV_MCm_CNTk_COUNT (m - 1) 0)).put
    (R.DEV_MCm_CNTk_COUNT (m - 1) 5) f.frameno

theorem State.frameCounted_shape (m : Nat) (f : SatFrame) :
    ((s.frameCounted m f).ctxOf m).waiting = (s.ctxOf m).waiting.drop 1 ∧
    (s.frameCounted m f).get (R.DEV_MCm_CNTk_COUNT (m - 1) 0) = min (2 ^ 32 - 1) (s.get (R.DEV_MCm_CNTk_COUNT (m - 1) 0) + 1) ∧
    (s.frameCounted m f).get (R.DEV_MCm_CNTk_COUNT (m - 1) 5) = f.frameno % 2 ^ 32 := by
  have hreg : (R.DEV_MCm_CNTk_COUNT (m - 1) 0).reg ≠ (R.DEV_MCm_CNTk_COUNT (m - 1) 5).reg := by
    simp only [R.DEV_MCm_CNTk_COUNT]
    omega
  unfold State.frameCounted
  refine ⟨?_, ?_, State.get_put_same (f := R.DEV_MCm_CNTk_COUNT (m - 1) 5) _ _ (Nat.le_refl 32)⟩
  · rw [State.ctxOf, State.put_dev, State.bump_dev]
    exact congrArg MemCtx.waiting (s.ctxOf_setCtx m _)
  · rw [State.get_put_reg (f := R.DEV_MCm_CNTk_COUNT (m - 1) 5) _ _ hreg, State.bump,
      State.get_bumpBy _ (R.DEV_MCm_CNTk_COUNT (m - 1) 0) 1 (Nat.le_refl 32)]
    rfl

/-- The statistics record of a frame, where its context writes one; `dropped` of the context's frames were dropped before it. -/
def State.frameStats (s : State) (dropped m : Nat) (f : SatFrame) : State :=
  let ps := patchesOf f.par 0x1E (some m)
  if bits ((ctxPar f.par m).word (0x1B400 + 0x40 * m)) 1 1 = 0 then s.histLimit ps
  else
    let h : StatHead := { ctx := m, flags := f.flags, number := f.frameno, tickno := f.tickno, stamp := f.stamp, lines := f.lines.length
                          dropped := dropped, excess := f.excess, job := f.job }
    let bs := s.statRecord h ps f.patches 0 (s.ctxWidth m - 1) (s.ctxLines m)
    let u := s.statWrite ps bs
    if (s.ringPut 3 bs).isSome then u.setCtx m { u.ctxOf m with dropped := 0 } else u

theorem State.frameStats_frame (dropped m : Nat) (f : SatFrame) : s.regsSame (s.frameStats dropped m f) statRegs ∧
    ((s.frameStats dropped m f).ctxOf m).waiting = (s.ctxOf m).waiting := by
  unfold State.frameStats
  dsimp only
  split
  · have h := s.histLimit_written (patchesOf f.par 0x1E (some m))
    exact ⟨h.regs, by rw [State.ctxOf_of_written _ h]⟩
  · generalize State.statRecord _ _ _ _ _ _ _ = bs
    have h := s.statWrite_written (patchesOf f.par 0x1E (some m)) bs
    generalize s.statWrite (patchesOf f.par 0x1E (some m)) bs = u at h
    split
    · exact ⟨h.regs.trans (.of_regs rfl), by rw [State.ctxOf_setCtx, State.ctxOf_of_written _ h]⟩
    · exact ⟨h.regs, by rw [State.ctxOf_of_written _ h]⟩

theorem State.segEnd_eq (m : Nat) (f : SatFrame) : s.segEnd m f =
    (((s.frameCounted m f).frameStats (s.ctxOf m).dropped m f).ctxShow m).setTurn
      (((((s.frameCounted m f).frameStats (s.ctxOf m).dropped m f).ctxShow m).turnAfter m).getD 0) := rfl

theorem State.segEnd_shape {m : Nat} (hm : m < 16) (f : SatFrame) :
    ((s.segEnd m f).ctxOf m).waiting = (s.ctxOf m).waiting.drop 1 ∧
    (s.segEnd m f).get (R.DEV_MCm_CNTk_COUNT (m - 1) 0) = min (2 ^ 32 - 1) (s.get (R.DEV_MCm_CNTk_COUNT (m - 1) 0) + 1) ∧
    (s.segEnd m f).get (R.DEV_MCm_CNTk_COUNT (m - 1) 5) = f.frameno % 2 ^ 32 := by
  obtain ⟨hwait, hcount, hno⟩ := s.frameCounted_shape m f
  have heq := s.segEnd_eq m f
  obtain ⟨hregs, huwait⟩ := (s.frameCounted m f).frameStats_frame (s.ctxOf m).dropped m f
  generalize (s.frameCounted m f).frameStats (s.ctxOf m).dropped m f = u at heq hregs huwait
  generalize ((u.ctxShow m).turnAfter m).getD 0 = n at heq
  have hshow := u.ctxShow_written m
  obtain ⟨hturn, hctx, -, -⟩ := (u.ctxShow m).setTurn_frame n
  have hget {k : Nat} (hk : k < 6) : (s.segEnd m f).get (R.DEV_MCm_CNTk_COUNT (m - 1) k) =
      (s.frameCounted m f).get (R.DEV_MCm_CNTk_COUNT (m - 1) k) := by
    obtain ⟨hstat, hmstat, hturnreg, -⟩ := cnt_apart hm hk
    rw [heq, State.get_of_regsSame hturn (by simpa using hturnreg), hshow.get (by simpa using hmstat), State.get_of_regsSame hregs hstat]
  refine ⟨?_, (hget (by decide)).trans hcount, (hget (by decide)).trans hno⟩
  rw [heq, State.ctxOf_of_dev _ hctx, State.ctxOf_of_written _ hshow, huwait, hwait]

theorem State.ctxWidth_of_force {t : State} (h : t.force = s.force) (m : Nat) : t.ctxWidth m = s.ctxWidth m := State.act_of_force h

/-- A segment within a line leaves the frame at the head of its context, 2,048 pixels on. -/
theorem State.segment_part {m line count : Nat} {f : SatFrame} {rest : List SatFrame} (hwait : (s.ctxOf m).waiting = f :: rest)
    (hline : f.lines.find? (fun x => f.lineDone ≤ x.1) = some (line, count)) (hpart : f.pixDone + 2048 < s.ctxWidth m) :
    ∃ (v : State) (g : SatFrame), s.segment m = (v.setHead m g).ctxShow m ∧ v.dev.ctx = s.dev.ctx ∧ (∀ a, v.byte a = s.byte a) ∧
      g.pixDone = f.pixDone + 2048 ∧ g.lineDone = f.lineDone ∧ g.frameno = f.frameno ∧ g.begun = true := by
  obtain ⟨-, hctx, hforce, hmem⟩ := s.setTurn_frame m
  obtain ⟨hf, hwritten, hmem'⟩ := (s.setTurn m).segBegin_frame m f
  unfold State.segment
  rw [hwait]
  dsimp only
  generalize (s.setTurn m).segBegin m f = p at hf hwritten hmem' ⊢
  obtain ⟨u, f1⟩ := p
  obtain ⟨hbegun, hlines, hdone, hpix, hno⟩ := hf
  have hwidth : u.ctxWidth m = s.ctxWidth m := s.ctxWidth_of_force (hwritten.force.trans hforce) m
  dsimp only at hlines hdone hpix hno hbegun ⊢
  have hfind : f1.lines.find? (fun x => decide (f1.lineDone ≤ x.1)) = some (line, count) := by rw [hlines, hdone]; exact hline
  have hn : min 2048 (u.ctxWidth m - f1.pixDone) = 2048 := by rw [hwidth, hpix]; omega
  have hend : decide (u.ctxWidth m ≤ f1.pixDone + 2048) = false := by rw [hwidth, hpix]; exact decide_eq_false (by omega)
  rw [hfind]
  dsimp only
  rw [hn, hend]
  generalize u.ctxLineAddr m f1.slot line + f1.pixDone * u.ctxBpp m = a
  generalize 2048 * u.ctxBpp m = n
  set v := (if u.poisoned a n && !bit f1.flags sfFMT_ERR then u.raise E.DEV_FMT_ERR else u).ddrRead a n with hv
  have hvu : v.dev = u.dev ∧ ∀ a, v.byte a = u.byte a := by
    have hmark : Written u (if u.poisoned a n && !bit f1.flags sfFMT_ERR then u.raise E.DEV_FMT_ERR else u) (toldRegs E.DEV_FMT_ERR) :=
      .ite (u.raise_written (List.Subset.refl _)) .refl
    refine ⟨(State.ddrRead_written _ a n).dev.trans hmark.dev, fun b => ((State.ddrRead_only _ a n).2.2.1 b).trans (State.byte_of_mem ?_ b)⟩
    exact State.ite_of (P := fun t => t.mem = u.mem) (State.raise_mem ..) rfl
  clear_value v
  refine ⟨v, _, rfl, ?_, fun a => ?_, ?_, ?_, hno, hbegun⟩
  · rw [hvu.1, hwritten.dev]
    exact hctx
  · rw [hvu.2, State.byte_of_mem (hmem'.trans hmem)]
  · exact (if_neg (of_decide_eq_false hend)).trans (congrArg (· + 2048) hpix)
  · exact (if_neg (of_decide_eq_false hend)).trans hdone

theorem State.segment_end {m : Nat} {f : SatFrame} {rest : List SatFrame} (hwait : (s.ctxOf m).waiting = f :: rest)
    (hline : f.lines.find? (fun x => f.lineDone ≤ x.1) = none) : ∃ (u : State) (g : SatFrame), s.segment m = u.segEnd m g ∧
      u.ctxOf m = s.ctxOf m ∧ s.regsSame u ((R.DEV_MCm_CNTk_COUNT (m - 1) 4).reg :: toldRegs E.DEV_LATE ++ [R.DEV_STAT_TURN.reg]) ∧
      g.frameno = f.frameno := by
  obtain ⟨hturn, hctx, -, -⟩ := s.setTurn_frame m
  obtain ⟨hf, hwritten, -⟩ := (s.setTurn m).segBegin_frame m f
  unfold State.segment
  rw [hwait]
  dsimp only
  generalize (s.setTurn m).segBegin m f = p at hf hwritten ⊢
  obtain ⟨u, f1⟩ := p
  obtain ⟨-, hlines, hdone, -, hno⟩ := hf
  dsimp only at hlines hdone hno hwritten ⊢
  have hfind : f1.lines.find? (fun x => decide (f1.lineDone ≤ x.1)) = none := by rw [hlines, hdone]; exact hline
  rw [hfind]
  refine ⟨u, f1, rfl, ?_, (hturn.mono (List.subset_append_right _ _)).trans (hwritten.regs.mono (List.subset_append_left _ _)), hno⟩
  rw [State.ctxOf_of_written _ hwritten, State.ctxOf_of_dev _ hctx]

theorem State.devSegment_eq {m : Nat} (hdom : s.dom dLOFT = true) (hinput : s.dev.input = []) (hmode : (s.inRun || s.isIdle) = true)
    (hturn : s.turnNow = some m) : s.devSegment = s.segment m := by
  unfold State.devSegment
  rw [if_neg (by simp [hdom, hinput, hmode]), hturn]

/-! ## Frames close -/

/-- The open frame is marked. -/
theorem State.satMark_open {m : Nat} {f : SatFrame} (b : Nat) (e : Option Ev) (hopen : (s.ctxOf m).open_ = some f) :
    (s.satMark m b e).ctxOf m = { s.ctxOf m with open_ := some { f with flags := if bit f.flags b then f.flags else f.flags ||| 2 ^ b } } ∧
    (s.satMark m b e).force = s.force ∧ (s.satMark m b e).now = s.now := by
  unfold State.satMark
  dsimp only
  rw [hopen]
  dsimp only
  split
  · refine ⟨?_, rfl, rfl⟩
    rw [show ({ f with flags := f.flags } : SatFrame) = f from rfl, ← hopen]
  · cases e with
    | none => exact ⟨s.ctxOf_setCtx m _, rfl, rfl⟩
    | some e =>
      dsimp only
      rw [State.ctxOf, State.raise_dev, State.raise_force, State.raise_now]
      exact ⟨s.ctxOf_setCtx m _, rfl, rfl⟩

theorem bit_mark (v b c : Nat) : bit (if bit v b then v else v ||| 2 ^ b) c = (bit v c || decide (b = c)) := by
  by_cases hb : bit v b = true
  · rw [if_pos hb]
    by_cases hc : b = c
    · subst hc
      simp [hb]
    · simp [hc]
  · rw [if_neg hb]
    rw [bit_eq_testBit, bit_eq_testBit, Nat.testBit_or, Nat.testBit_two_pow]

/-- A frame that closes for want of packets waits behind the others, marked. -/
theorem State.satClose_noFe {m : Nat} {f : SatFrame} (hopen : (s.ctxOf m).open_ = some f) : (s.satClose m true).now = s.now ∧
    ∃ g, (s.satClose m true).ctxOf m = { s.ctxOf m with open_ := none, waiting := (s.ctxOf m).waiting ++ [g] } ∧
      g.frameno = f.frameno ∧ g.lines = f.lines ∧ bit g.flags 7 = true ∧
      bit g.flags 2 = (bit f.flags 2 || decide (f.lines.length < s.ctxLines m)) := by
  obtain ⟨v, hv, hvctx, hvnow⟩ : ∃ v, (if f.lines.length < s.ctxLines m then s.satMark m sfSHORT (some E.DEV_SHORT) else s).ctxOf m =
      { s.ctxOf m with open_ := some { f with flags := v } } ∧ bit v 2 = (bit f.flags 2 || decide (f.lines.length < s.ctxLines m)) ∧
      (if f.lines.length < s.ctxLines m then s.satMark m sfSHORT (some E.DEV_SHORT) else s).now = s.now := by
    split
    · next hshort =>
      obtain ⟨hctx, -, hnow⟩ := s.satMark_open sfSHORT (some E.DEV_SHORT) hopen
      refine ⟨_, hctx, ?_, hnow⟩
      rw [bit_mark]
      simp [sfSHORT, hshort]
    · next hshort =>
      refine ⟨f.flags, ?_, by simp [hshort], rfl⟩
      rw [show ({ f with flags := f.flags } : SatFrame) = f from rfl, ← hopen]
  unfold State.satClose
  dsimp only
  rw [hopen]
  dsimp only
  generalize (if f.lines.length < s.ctxLines m then s.satMark m sfSHORT (some E.DEV_SHORT) else s) = u at hv hvnow ⊢
  obtain ⟨hctx, -, hnow⟩ := u.satMark_open sfNO_FE none (f := { f with flags := v }) (by rw [hv])
  rw [if_pos rfl]
  generalize u.satMark m sfNO_FE none = w at hctx hnow ⊢
  rw [hctx, hv]
  dsimp only
  set x : MemCtx := { s.ctxOf m with open_ := none, waiting := (s.ctxOf m).waiting ++
    [{ f with flags := if bit v sfNO_FE then v else v ||| 2 ^ sfNO_FE }] } with hx
  have hshow := (w.setCtx m x).ctxShow_written m
  refine ⟨hshow.fields.1.trans (hnow.trans hvnow), _, (State.ctxOf_of_written _ hshow m).trans (w.ctxOf_setCtx m x), rfl, rfl, ?_, ?_⟩
  · dsimp only
    rw [bit_mark]
    simp [sfNO_FE]
  · dsimp only
    rw [bit_mark, hvctx]
    simp [sfNO_FE]

end

/-- Settles O38: slices move from the engines' queues to the Developer's input and out of it; frames keep their context's order. -/
theorem slicesAndFramesAreDeveloped : Obligations.SlicesAndFramesAreDeveloped := by
  refine ⟨fun s c l hl hall hroom => ⟨_, rfl, ?_⟩, fun s d hdom hlen hd => ⟨_, rfl, ?_⟩,
    fun s m f rest hdom hinput hmode hturn hm hwait hline => ⟨_, rfl, ?_⟩,
    fun s m f rest line count hdom hinput hmode hturn hm hwait hline hpart => ⟨_, rfl, ?_⟩, fun s m f hm hopen => ⟨_, rfl, ?_⟩⟩
  · rw [s.sliceMerge_eq hl hall hroom]
    obtain ⟨-, hdev⟩ := s.dropOuts_frame c l.tickno
    have hnone := s.takeOuts_dropOuts c l.tickno
    generalize s.dropOuts c l.tickno = u at hdev hnone
    generalize s.takeOuts c l.tickno = outs
    unfold State.sliceIn
    dsimp only
    rw [hdev]
    set q := s.dev.input ++ [{ tickno := l.tickno, course := c, bank := l.bank, lanes := outs.foldl (fun m (sh, o) => o.lanes sh m) []
                               repeatNo := l.repeatNo, lineInRep := l.lineInRep : DevSlice }] with hq
    have hlen : q.length = s.dev.input.length + 1 := by rw [hq, List.length_append, List.length_singleton]
    set v : State := { u with rec_ := { s.rec_ with work := s.rec_.work ++ outs }, dev := { s.dev with input := q } } with hv
    have htake : (v.put R.DEV_STAT_IN_OCC q.length).takeOuts c l.tickno = u.takeOuts c l.tickno :=
      State.takeOuts_of_eng u (State.put_eng v _ _) c l.tickno
    refine ⟨?_, htake.trans hnone, ?_, ?_⟩
    · rw [State.put_rec]
    · rw [State.get_put_fits v (by decide) (show q.length < 2 ^ 5 by omega), hlen]
    · rw [State.put_dev]
      exact ⟨_, rfl, rfl, rfl, rfl⟩
  · rw [if_pos hdom]
    obtain ⟨reps, heq⟩ := s.devSlice_eq hd
    rw [heq]
    set q := s.dev.input.filter (fun e => !(e.tickno = d.tickno && e.course = d.course)) with hq
    set u := State.put { s with dev := { s.dev with input := q, reps := reps } } R.DEV_STAT_IN_OCC q.length with hu
    have hocc : u.get R.DEV_STAT_IN_OCC = q.length :=
      State.get_put_fits _ (by decide) (show q.length < 2 ^ 5 from lt_of_le_of_lt ((List.length_filter_le ..).trans hlen) (by decide))
    have hudev : u.dev = { s.dev with input := q, reps := reps } := State.put_dev ..
    have hurec : u.rec_ = s.rec_ := State.put_rec ..
    clear_value u
    set v := u.setLine d.tickno fun l => { l with pendCourses := maskSub l.pendCourses (2 ^ d.course) } with hv
    have hvget : v.get R.DEV_STAT_IN_OCC = u.get R.DEV_STAT_IN_OCC := rfl
    have hvdev : v.dev = u.dev := rfl
    have hvrec : v.rec_ = u.rec_ := rfl
    clear_value v
    obtain ⟨⟨more, wm, hrec⟩, hdev⟩ := v.linesSettle_rec
    have hsettle := v.linesSettle_only
    generalize v.linesSettle = w at hrec hdev hsettle
    obtain ⟨hrec', reps', hdev'⟩ := w.repsDone_rec
    rw [hdev', hdev, hvdev, hudev, w.repsDone_get (by decide), State.get_of_only hsettle (by decide), hvget, hocc, hrec', hrec, hvrec, hurec]
    exact ⟨rfl, rfl, rfl⟩
  · rw [s.devSegment_eq hdom hinput hmode hturn]
    obtain ⟨u, g, heq, hctx, hregs, hno⟩ := s.segment_end hwait hline
    have hget : u.get (R.DEV_MCm_CNTk_COUNT (m - 1) 0) = s.get (R.DEV_MCm_CNTk_COUNT (m - 1) 0) := by
      obtain ⟨-, -, hturnreg, hlate⟩ := cnt_apart hm (k := 0) (by decide)
      refine State.get_of_regsSame hregs ?_
      simp only [List.cons_append, List.mem_cons, List.mem_append, List.not_mem_nil, or_false, not_or]
      refine ⟨?_, hlate, hturnreg⟩
      simp only [R.DEV_MCm_CNTk_COUNT]
      omega
    obtain ⟨hwait', hcount, hno'⟩ := u.segEnd_shape hm g
    rw [heq, hwait', hcount, hno', hctx, hwait, hget, hno]
    exact ⟨rfl, rfl, rfl⟩
  · rw [s.devSegment_eq hdom hinput hmode hturn]
    obtain ⟨v, g, heq, hctx, hbyte, hpix, hdone, hno, hbegun⟩ := s.segment_part hwait hline hpart
    have hshow := (v.setHead m g).ctxShow_written m
    refine ⟨g, ?_, hpix, hdone, hno, hbegun, fun a => ?_⟩
    · rw [heq, State.ctxOf_of_written _ hshow, State.setHead, State.ctxOf_setCtx, State.ctxOf_of_dev _ hctx, hwait]
      rfl
    · rw [heq]
      refine (State.byte_of_mem ?_ a).trans (hbyte a)
      exact (State.put_mem ..).trans ((State.put_mem ..).trans (State.put_mem ..))
  · rw [if_neg hm]
    have heq : s.satTimeout m = (s.at (f.lastT + 100 * msClk)).satClose m true := by
      unfold State.satTimeout
      rw [hopen]
    rw [heq]
    obtain ⟨hnow, g, hctx, hno, hlines, h7, h2⟩ := (s.at (f.lastT + 100 * msClk)).satClose_noFe (m := m) (f := f) hopen
    dsimp only
    rw [hctx, hnow]
    exact ⟨rfl, rfl, g, rfl, hno, hlines, h7, h2⟩

end Sys2Proof.Machine
end

/-! PROOFS. O39: records and their rings (R24, R190–R194, R236). -/
section
namespace Sys2Proof.Machine

section
variable (s : State)

/-! ## Room in a ring -/

theorem ringDist_succ {u rd wr : Nat} (h : ringDist u rd wr + 1 < u) : ringDist u rd ((wr + 1) % u) = ringDist u rd wr + 1 := by
  have hu : u ≠ 0 := by omega
  have hr : rd % u < u := Nat.mod_lt _ (by omega)
  unfold ringDist at h ⊢
  rw [if_neg hu] at h ⊢
  rw [if_neg hu, Nat.add_sub_assoc hr.le, Nat.mod_add_mod, show wr + 1 + (u - rd % u) = wr + (u - rd % u) + 1 by omega,
    Nat.add_mod _ 1 u, Nat.mod_eq_of_lt (show 1 < u by omega), ← Nat.add_sub_assoc hr.le, Nat.mod_eq_of_lt h]

theorem ringFree_congr {s t : State} {r : Nat} (hwr : t.ringWr r = s.ringWr r) (hunits : t.ringUnits r = s.ringUnits r)
    (hrd : t.ringRd r = s.ringRd r) : t.ringFree r = s.ringFree r := by
  rw [State.ringFree, hwr, hunits, hrd, State.ringFree]

theorem State.ringUnits_le (r : Nat) : s.ringUnits r ≤ 2 ^ 31 := by
  have h : s.get (R.RINGr_SIZE_SIZE r) < 2 ^ 25 := s.get_lt _
  rw [State.ringUnits]
  omega

/-- An entry of 64 bytes takes one unit. -/
theorem State.ringPut_unit {r : Nat} {bs : List Nat} (hlen : bs.length = 64) (hfree : 1 ≤ s.ringFree r) : ∃ t, s.ringPut r bs = some t ∧
    Written s t [(R.RINGr_WR_OFS r).reg, (R.RINGr_SENT_OFS r).reg] ∧ t.ringWr r = (s.ringWr r + 1) % s.ringUnits r ∧
    t.ringFree r = s.ringFree r - 1 ∧ t.ringUnits r = s.ringUnits r := by
  have hone : ceilDiv bs.length 64 = 1 := by rw [hlen]; rfl
  obtain ⟨t, heq, hwritten, hwr⟩ := s.ringPut_fits (by rw [hone]; exact hfree)
  have hle := s.ringUnits_le r
  have hdist : ringDist (s.ringUnits r) (s.ringRd r) (s.ringWr r) + 1 < s.ringUnits r := by
    rw [State.ringFree] at hfree
    omega
  have hmod : (s.ringWr r + 1) % s.ringUnits r < s.ringUnits r := Nat.mod_lt _ (by omega)
  rw [hone, Nat.mod_eq_of_lt (show _ < 2 ^ 32 by omega)] at hwr
  have hrd : t.ringRd r = s.ringRd r := hwritten.get (f := R.RINGr_RD_OFS r) (by
    simp only [R.RINGr_RD_OFS, R.RINGr_WR_OFS, R.RINGr_SENT_OFS, List.mem_cons, List.not_mem_nil, or_false]
    omega)
  have hunits : t.ringUnits r = s.ringUnits r := congrArg (· * 64) (hwritten.get (f := R.RINGr_SIZE_SIZE r) (by
    simp only [R.RINGr_SIZE_SIZE, R.RINGr_WR_OFS, R.RINGr_SENT_OFS, List.mem_cons, List.not_mem_nil, or_false]
    omega))
  refine ⟨t, heq, hwritten, hwr, ?_, hunits⟩
  rw [State.ringFree, hwr, hrd, hunits, ringDist_succ hdist, State.ringFree]
  omega

theorem sealBlock_length (bs : List Nat) : (sealBlock bs).length = 64 := by
  unfold sealBlock padTo
  rw [List.length_append, leBytes_length, List.length_take, List.length_append, List.length_replicate]
  omega

/-! ## Defect records -/

/-- The filters' counters and the seam's event. -/
def gatherRegs : List Nat :=
  ((List.range 16).flatMap fun k => [(R.JOB_FILTk_CNT_W0_REPORTED k).reg, (R.JOB_FILTk_CNT_W1_SUPPRESSED k).reg]) ++ toldRegs E.JOB_SEAM_DROP

theorem State.filter_written (x cls sev area : Nat) : Written s (s.filter x cls sev area).1 gatherRegs := by
  unfold State.filter
  split
  · exact .refl
  · next k hk =>
    have hk' : k < 16 := List.mem_range.1 (List.mem_of_find?_eq_some hk)
    have hregs : (R.JOB_FILTk_CNT_W0_REPORTED k).reg ∈ gatherRegs ∧ (R.JOB_FILTk_CNT_W1_SUPPRESSED k).reg ∈ gatherRegs :=
      ⟨List.mem_append_left _ (List.mem_flatMap.2 ⟨k, List.mem_range.2 hk', .head _⟩),
        List.mem_append_left _ (List.mem_flatMap.2 ⟨k, List.mem_range.2 hk', .tail _ (.head _)⟩)⟩
    dsimp only
    split
    · exact s.bump_written hregs.2
    · split
      · exact s.bump_written hregs.1
      · exact .refl

theorem State.gather_written (x sh : Nat) (bs : List (List Nat)) : Written s (s.gather x sh bs).1 gatherRegs := by
  induction bs generalizing s with
  | nil => exact .refl
  | cons b bs ih =>
    rw [State.gather]
    split
    · exact ih s
    · split
      · exact (s.raise_written (List.subset_append_right _ _)).trans (ih _)
      · exact (s.filter_written x _ _ _).trans (ih _)

theorem State.repeatOf_written (n : Nat) : Written s (s.repeatOf n).2 [] := by
  unfold State.repeatOf
  split
  · exact .refl
  · exact s.fresh_written

/-- A record of 64 bytes, which takes the next SEQ. -/
theorem State.defectRecord_shape (l : Line) (sh : Nat) (o : OutEntry) (i : RecItem) (trunc : Bool) :
    (s.defectRecord l sh o i trunc).1.length = 64 ∧
    Written { s with rec_ := { s.rec_ with seq0 := (s.rec_.seq0 + 1) % 2 ^ 32 } } (s.defectRecord l sh o i trunc).2 [] := by
  obtain ⟨hregs, regs, mem, poison, memctl, sys, mb, freeIdx, h⟩ := s.repeatOf_written (blkNum i.blk 0 8)
  unfold State.defectRecord
  dsimp only
  generalize s.repeatOf (blkNum i.blk 0 8) = p at hregs h ⊢
  obtain ⟨⟨rep, line⟩, u⟩ := p
  dsimp only at hregs h ⊢
  subst h
  exact ⟨sealBlock_length _, ⟨hregs, regs, mem, poison, memctl, sys, mb, freeIdx, rfl⟩⟩

/-- The state behind the records of n items: SEQ and WR moved by n, and nothing else but WR's registers and memory. -/
structure Recorded (s t : State) (n : Nat) : Prop where
  rest : Written { s with rec_ := { s.rec_ with seq0 := t.rec_.seq0 } } t [(R.RINGr_WR_OFS 0).reg, (R.RINGr_SENT_OFS 0).reg]
  seq : 0 < n → t.rec_.seq0 = (s.rec_.seq0 + n) % 2 ^ 32
  none : n = 0 → t.rec_.seq0 = s.rec_.seq0 ∧ t.ringWr 0 = s.ringWr 0
  wr : n ≠ 0 → t.ringWr 0 = (s.ringWr 0 + n) % s.ringUnits 0

theorem State.writeItems_recorded (l : Line) (sh : Nat) (o : OutEntry) (items : List RecItem) (h : items.length ≤ s.ringFree 0) :
    Recorded s (s.writeItems l sh o items) items.length := by
  induction items generalizing s with
  | nil => exact ⟨.refl, fun h => absurd h (Nat.lt_irrefl 0), fun _ => ⟨rfl, rfl⟩, fun h => absurd rfl h⟩
  | cons i is ih =>
    obtain ⟨hlen, hrec⟩ := s.defectRecord_shape l sh o i (o.trunc && is.isEmpty)
    rw [State.writeItems]
    generalize s.defectRecord l sh o i (o.trunc && is.isEmpty) = p at hlen hrec ⊢
    obtain ⟨bs, u⟩ := p
    dsimp only at hlen hrec ⊢
    have huregs : s.regsSame u [] := hrec.regs
    have huwr : u.ringWr 0 = s.ringWr 0 := State.get_of_regsSame huregs List.not_mem_nil
    have huunits : u.ringUnits 0 = s.ringUnits 0 := congrArg (· * 64) (State.get_of_regsSame huregs (f := R.RINGr_SIZE_SIZE 0) List.not_mem_nil)
    have hufree : u.ringFree 0 = s.ringFree 0 :=
      ringFree_congr huwr huunits (State.get_of_regsSame huregs (f := R.RINGr_RD_OFS 0) List.not_mem_nil)
    rw [List.length_cons] at h
    obtain ⟨t, ht, hwritten, hwr, hfree, hunits⟩ := u.ringPut_unit (r := 0) hlen (by omega)
    rw [ht, Option.getD_some]
    obtain ⟨hrest, hseq, hnone, hwr'⟩ := ih t (by omega)
    have htseq : t.rec_.seq0 = (s.rec_.seq0 + 1) % 2 ^ 32 := by rw [hwritten.rec_, hrec.rec_]
    generalize t.writeItems l sh o is = v at hrest hseq hnone hwr' ⊢
    have hsum : v.rec_.seq0 = (s.rec_.seq0 + (is.length + 1)) % 2 ^ 32 := by
      rcases Nat.eq_zero_or_pos is.length with hz | hpos
      · rw [(hnone hz).1, htseq, hz]
      · rw [hseq hpos, htseq, Nat.mod_add_mod, Nat.add_assoc, Nat.add_comm 1]
    refine ⟨?_, fun _ => hsum, fun h => absurd h (Nat.succ_ne_zero _), fun _ => ?_⟩
    · have hput := (hrec.mono (List.nil_subset _)).trans hwritten
      obtain ⟨hpregs, regs, mem, poison, memctl, sys, mb, freeIdx, htq⟩ := hput
      subst htq
      obtain ⟨hvregs, regs', mem', poison', memctl', sys', mb', freeIdx', hv⟩ := hrest
      exact ⟨.trans hpregs hvregs, regs', mem', poison', memctl', sys', mb', freeIdx', hv⟩
    · rcases Nat.eq_zero_or_pos is.length with hz | hpos
      · rw [(hnone hz).2, hwr, huunits, huwr, List.length_cons, hz]
      · rw [hwr' (by omega), hwr, hunits, huunits, huwr, Nat.mod_add_mod, List.length_cons, Nat.add_assoc, Nat.add_comm 1]

/-! ## What follows a record: learning, the line, the repeats -/

theorem State.learn_written (l : Line) (sh : Nat) (o : OutEntry) (sev : Nat) : Written s (s.learn l sh o sev) memErrRegs := by
  have bands (u : State) (bs : List Nat) (g : State → Nat → Nat → State) (hg : ∀ t b j, Written t (g t b j) memErrRegs) :
      Written u (bs.foldl (fun s b => (List.range 128).foldl (fun s j => g s b j) s) u) memErrRegs :=
    .foldl _ fun t b _ => .foldl _ fun t' j _ => hg t' b j
  unfold State.learn
  split
  · exact .refl
  · dsimp only
    split
    · exact .refl
    · split
      · unfold State.learnSeed
        exact (bands _ _ _ fun t b j => (t.setBytes_written _ _).trans (State.setBytes_written _ _ _)).trans (State.setBytes_written _ _ _)
      · split
        · unfold State.learnAdd
          dsimp only
          have hread (a n a' n' : Nat) : Written s ((s.ddrRead a n).ddrRead a' n') memErrRegs :=
            (s.ddrRead_written a n).trans (State.ddrRead_written _ a' n')
          refine .ite (hread ..) ((hread ..).trans ((bands _ _ _ fun t b j => ?_).trans (State.setBytes_written _ _ _)))
          exact .ite .refl (t.setBytes_written _ _)
        · exact .refl

/-- The registers that follow a line that has been recorded. -/
def tailRegs : List Nat := memErrRegs ++ settleRegs ++ statRegs

theorem subset_tailRegs : memErrRegs ⊆ tailRegs ∧ settleRegs ⊆ tailRegs ∧ statRegs ⊆ tailRegs := by decide

theorem State.settled_frame : s.regsSame s.linesSettle.repsDone tailRegs ∧
    ∃ more wm, s.linesSettle.repsDone.rec_ = { s.rec_ with reports := s.rec_.reports ++ more, wm := wm } := by
  obtain ⟨⟨more, wm, hrec⟩, -⟩ := s.linesSettle_rec
  have hsettle := s.linesSettle_only.1
  generalize s.linesSettle = u at hrec hsettle
  obtain ⟨reps, hreps⟩ := u.repsDone_written
  have hdev : u.regsSame { u with dev := { u.dev with reps := reps } } tailRegs := .of_regs rfl
  exact ⟨(hsettle.mono subset_tailRegs.2.1).trans (hdev.trans (hreps.regs.mono subset_tailRegs.2.2)), more, wm, hreps.rec_.trans hrec⟩

/-- A line's entry has been recorded: the learner takes it, and the line is handled. -/
def State.recorded (s : State) (l : Line) (sh : Nat) (o : OutEntry) (sev : Nat) : State :=
  (((s.learn l sh o sev).handledBit o.tickno sh).linesSettle).repsDone

theorem State.recorded_frame (l : Line) (sh : Nat) (o : OutEntry) (sev : Nat) : s.regsSame (s.recorded l sh o sev) tailRegs ∧
    ∃ more wm, (s.recorded l sh o sev).rec_ = { s.rec_ with reports := s.rec_.reports ++ more, wm := wm } := by
  have hlearn := s.learn_written l sh o sev
  unfold State.recorded
  generalize s.learn l sh o sev = u at hlearn
  obtain ⟨hregs, more, wm, hrec⟩ := (u.handledBit o.tickno sh).settled_frame
  have hbit : u.regsSame (u.handledBit o.tickno sh) tailRegs := .of_regs rfl
  refine ⟨(hlearn.regs.mono subset_tailRegs.1).trans (hbit.trans hregs), more, wm, ?_⟩
  rw [hrec, ← hlearn.rec_]
  rfl

theorem State.recordWrite_eq {sh : Nat} {o : OutEntry} {rest : List (Nat × OutEntry)} {l : Line} (hwork : s.rec_.work = (sh, o) :: rest)
    (hl : s.lineOf o.tickno = some l) (hok : (o.noRecords || l.gaveUp sh) = false) : ∃ sev,
    let g := { s with rec_ := { s.rec_ with work := rest } }.gather l.bank sh o.emits
    s.recordWrite = State.recorded
      (if g.1.ringFree 0 < g.2.length then
        State.addReport (((State.ringDrop { g.1 with rec_ := { g.1.rec_ with seq0 := (g.1.rec_.seq0 + g.2.length) % 2 ^ 32 } } 0).ringOverflow 0))
          o.tickno rcRING_FULL (2 ^ sh)
      else g.1.writeItems l sh o g.2) l sh o sev := by
  have hl' : { s with rec_ := { s.rec_ with work := rest } }.lineOf o.tickno = some l := hl
  unfold State.recordWrite
  rw [hwork]
  dsimp only
  rw [hl']
  dsimp only
  rw [if_neg (by rw [hok]; exact Bool.false_ne_true)]
  exact ⟨_, rfl⟩

theorem ringRegs_apart (r : Nat) : (R.RINGr_WR_OFS r).reg ≠ (R.RINGr_STAT_OVF r).reg ∧ (R.RINGr_WR_OFS r).reg ∉ toldRegs (E.RING_FULL r) ∧
    (R.RINGr_STAT_OVF r).reg ∉ toldRegs (E.RING_FULL r) := by
  refine ⟨?_, ?_, ?_⟩ <;>
    simp only [toldRegs, E.RING_FULL, intRawBit, evtCnt, R.RINGr_WR_OFS, R.RINGr_STAT_OVF, List.mem_cons, List.not_mem_nil, or_false] <;>
    omega

theorem State.ringOverflow_shows (r : Nat) : (s.ringOverflow r).ringWr r = s.ringWr r ∧ (s.ringOverflow r).get (R.RINGr_STAT_OVF r) = 1 ∧
    (s.ringOverflow r).get (R.RINGr_STAT_DROP r) = s.get (R.RINGr_STAT_DROP r) := by
  obtain ⟨hwr, hwrtold, hovf⟩ := ringRegs_apart r
  have hdrop : (R.RINGr_STAT_DROP r).reg ∉ toldRegs (E.RING_FULL r) := hovf
  unfold State.ringOverflow State.ringWr
  rw [State.get_raise_other _ hwrtold, State.get_put_reg (f := R.RINGr_STAT_OVF r) _ _ hwr, State.get_raise_other _ hovf,
    State.get_raise_other _ hdrop]
  refine ⟨rfl, State.get_put_fits (f := R.RINGr_STAT_OVF r) _ (Nat.le_of_ble_eq_true rfl) Nat.one_lt_two, ?_⟩
  exact s.get_put_bits (f := R.RINGr_STAT_OVF r) (g := R.RINGr_STAT_DROP r) 1 ⟨Nat.le_of_ble_eq_true rfl, .inl (Nat.le_of_ble_eq_true rfl)⟩

/-- None of the records fits: the drop is counted and shown. -/
theorem State.ringFull_shows (r : Nat) : ((s.ringDrop r).ringOverflow r).ringWr r = s.ringWr r ∧
    ((s.ringDrop r).ringOverflow r).get (R.RINGr_STAT_OVF r) = 1 ∧
    ((s.ringDrop r).ringOverflow r).get (R.RINGr_STAT_DROP r) = min (2 ^ 24 - 1) (s.get (R.RINGr_STAT_DROP r) + 1) := by
  obtain ⟨hwr, hovf, hdrop⟩ := (s.ringDrop r).ringOverflow_shows r
  refine ⟨hwr.trans ?_, hovf, hdrop.trans (s.get_bumpBy (R.RINGr_STAT_DROP r) 1 (Nat.le_of_ble_eq_true rfl))⟩
  exact s.get_bump_reg (f := R.RINGr_STAT_DROP r) (ringRegs_apart r).1

/-! ## Uninspected-line records -/

/-- A record enters ring 1 as the newest one. -/
theorem State.ulPush_shape (r : UlRec) (hfree : 1 ≤ s.ringFree 1) :
    Written { s with rec_ := { s.rec_ with openRec := some { r with slotOfs := s.ringWr 1 } } } (s.ulPush r)
      [(R.RINGr_WR_OFS 1).reg, (R.RINGr_SENT_OFS 1).reg] ∧ (s.ulPush r).ringWr 1 = (s.ringWr 1 + 1) % s.ringUnits 1 := by
  have hclosed : ∃ u, Written s u [] ∧ s.ulPush r =
      match u.ringPut 1 (u.ulBytes { r with slotOfs := u.ringWr 1 } true) with
      | none => u
      | some s2 => { s2 with rec_ := { s2.rec_ with openRec := some { r with slotOfs := u.ringWr 1 } } } := by
    unfold State.ulPush
    cases s.ulOpen with
    | none => exact ⟨s, .refl, rfl⟩
    | some q => exact ⟨_, s.ringRewrite_written 1 q.slotOfs _, rfl⟩
  obtain ⟨u, hu, heq⟩ := hclosed
  have hwr : u.ringWr 1 = s.ringWr 1 := hu.get List.not_mem_nil
  have hunits : u.ringUnits 1 = s.ringUnits 1 := congrArg (· * 64) (hu.get (f := R.RINGr_SIZE_SIZE 1) List.not_mem_nil)
  have hfree' : u.ringFree 1 = s.ringFree 1 := ringFree_congr hwr hunits (hu.get (f := R.RINGr_RD_OFS 1) List.not_mem_nil)
  obtain ⟨t, ht, hwritten, htwr, -⟩ := u.ringPut_unit (r := 1) (bs := u.ulBytes { r with slotOfs := u.ringWr 1 } true) (sealBlock_length _)
    (by rw [hfree']; exact hfree)
  rw [ht] at heq
  dsimp only at heq
  have hall := (hu.mono (List.nil_subset _)).trans hwritten
  rw [heq, ← hwr]
  refine ⟨?_, htwr.trans (by rw [hwr, hunits])⟩
  obtain ⟨hregs, regs, mem, poison, memctl, sys, mb, freeIdx, rfl⟩ := hall
  exact ⟨hregs, regs, mem, poison, memctl, sys, mb, freeIdx, rfl⟩

/-- A report counted: its line, and the repeats that follow. -/
theorem State.ulCount_frame (n : Nat) (pend : Bool) : s.regsSame (s.ulCount n pend).repsDone tailRegs ∧
    ∃ more wm, (s.ulCount n pend).repsDone.rec_ = { s.rec_ with reports := s.rec_.reports ++ more, wm := wm } := by
  unfold State.ulCount
  set u := s.setLine n fun l => if pend then { l with inPend := l.inPend + 1 } else { l with waitRecs := l.waitRecs - 1 } with hu
  obtain ⟨hregs, more, wm, hrec⟩ := u.settled_frame
  have hline : s.regsSame u tailRegs := .of_regs rfl
  exact ⟨hline.trans hregs, more, wm, hrec⟩

/-- The report at the head leaves the queue. -/
def State.reportTaken (s : State) (rest : List Report) : State := { s with rec_ := { s.rec_ with reports := rest } }

theorem State.uninspected_eq {q : Report} {rest : List Report} (hpend : ∀ p, s.rec_.pendRec = some p → s.ringFree 1 < 1)
    (hrep : s.rec_.reports = q :: rest) : s.uninspected = ((s.reportTaken rest).ulRecord q).repsDone := by
  have hnone : s.ulPending = s := by
    unfold State.ulPending
    cases hp : s.rec_.pendRec with
    | none => rfl
    | some p => exact if_pos (hpend p hp)
  unfold State.uninspected
  rw [hnone]
  dsimp only
  rw [hrep]
  rfl

theorem wr_notMem_tailRegs : (R.RINGr_WR_OFS 0).reg ∉ tailRegs ∧ (R.RINGr_STAT_OVF 0).reg ∉ tailRegs ∧ (R.RINGr_WR_OFS 1).reg ∉ tailRegs ∧
    (R.RINGr_STAT_OVF 1).reg ∉ tailRegs := by decide

theorem State.addReport_rec (s : State) (n reason mask : Nat) : (s.addReport n reason mask).rec_ = s.rec_ := rfl

/-- The records of n items go to ring 0 together, or are dropped together. -/
theorem State.recorded_records {s u : State} {rest : List (Nat × OutEntry)} {items : List RecItem} (l : Line) (sh : Nat) (o : OutEntry)
    (sev : Nat) (hg : Written { s with rec_ := { s.rec_ with work := rest } } u gatherRegs) {t : State}
    (ht : t = State.recorded
      (if u.ringFree 0 < items.length then
        State.addReport (((State.ringDrop { u with rec_ := { u.rec_ with seq0 := (u.rec_.seq0 + items.length) % 2 ^ 32 } } 0).ringOverflow 0))
          o.tickno rcRING_FULL (2 ^ sh)
      else u.writeItems l sh o items) l sh o sev) :
    t.rec_.work = rest ∧ (0 < items.length → t.rec_.seq0 = (s.rec_.seq0 + items.length) % 2 ^ 32) ∧
    (items.length = 0 → t.rec_.seq0 = s.rec_.seq0) ∧
    (items.length ≤ s.ringFree 0 → items.length ≠ 0 → t.ringWr 0 = (s.ringWr 0 + items.length) % s.ringUnits 0 ∧
      t.get (R.RINGr_STAT_DROP 0) = s.get (R.RINGr_STAT_DROP 0)) ∧
    (s.ringFree 0 < items.length → t.ringWr 0 = s.ringWr 0 ∧ t.get (R.RINGr_STAT_OVF 0) = 1 ∧
      t.get (R.RINGr_STAT_DROP 0) = min (2 ^ 24 - 1) (s.get (R.RINGr_STAT_DROP 0) + 1)) := by
  obtain ⟨hwr0, hovf0, -⟩ := wr_notMem_tailRegs
  have hurec : u.rec_ = { s.rec_ with work := rest } := hg.rec_
  have huwr : u.ringWr 0 = s.ringWr 0 := hg.get (f := R.RINGr_WR_OFS 0) (by decide)
  have huunits : u.ringUnits 0 = s.ringUnits 0 := congrArg (· * 64) (hg.get (f := R.RINGr_SIZE_SIZE 0) (by decide))
  have hufree : u.ringFree 0 = s.ringFree 0 :=
    ringFree_congr huwr huunits (hg.get (f := R.RINGr_RD_OFS 0) (by decide))
  have hudrop : u.get (R.RINGr_STAT_DROP 0) = s.get (R.RINGr_STAT_DROP 0) := hg.get (f := R.RINGr_STAT_DROP 0) (by decide)
  subst ht
  rw [← hufree]
  by_cases hfull : u.ringFree 0 < items.length
  · rw [if_pos hfull]
    set v : State := { u with rec_ := { u.rec_ with seq0 := (u.rec_.seq0 + items.length) % 2 ^ 32 } } with hv
    have hvwr : v.ringWr 0 = u.ringWr 0 := rfl
    have hvdrop : v.get (R.RINGr_STAT_DROP 0) = u.get (R.RINGr_STAT_DROP 0) := rfl
    have hvrec : v.rec_ = { u.rec_ with seq0 := (u.rec_.seq0 + items.length) % 2 ^ 32 } := rfl
    clear_value v
    obtain ⟨hwr, hovf, hdrop⟩ := v.ringFull_shows 0
    have hwrec : (State.addReport ((v.ringDrop 0).ringOverflow 0) o.tickno rcRING_FULL (2 ^ sh)).rec_ = v.rec_ :=
      (State.addReport_rec ..).trans ((v.ringDrop_written 0).trans (State.ringOverflow_written _ 0)).rec_
    have hwregs : ((v.ringDrop 0).ringOverflow 0).regsSame (State.addReport ((v.ringDrop 0).ringOverflow 0) o.tickno rcRING_FULL (2 ^ sh))
      tailRegs := .of_regs (State.addReport_regs ..)
    generalize (v.ringDrop 0).ringOverflow 0 = w at hwr hovf hdrop hwrec hwregs ⊢
    generalize State.addReport w o.tickno rcRING_FULL (2 ^ sh) = w' at hwrec hwregs ⊢
    obtain ⟨htail, more, wm, hrec⟩ := w'.recorded_frame l sh o sev
    have hget {f : Fld} (hf : f.reg ∉ tailRegs) : (w'.recorded l sh o sev).get f = w.get f := State.get_of_regsSame (hwregs.trans htail) hf
    refine ⟨?_, fun _ => ?_, fun hz => ?_, fun hle => absurd hle (by omega), fun _ => ⟨?_, ?_, ?_⟩⟩
    · rw [hrec, hwrec, hvrec, hurec]
    · rw [hrec, hwrec, hvrec, hurec]
    · omega
    · exact (hget hwr0).trans (hwr.trans (hvwr.trans huwr))
    · exact (hget hovf0).trans hovf
    · exact (hget (f := R.RINGr_STAT_DROP 0) hovf0).trans (hdrop.trans (by rw [hvdrop, hudrop]))
  · rw [if_neg hfull]
    obtain ⟨hrest, hseq, hnone, hwr⟩ := u.writeItems_recorded l sh o items (by omega)
    generalize u.writeItems l sh o items = w at hrest hseq hnone hwr ⊢
    obtain ⟨htail, more, wm, hrec⟩ := w.recorded_frame l sh o sev
    have hwrec : w.rec_ = { u.rec_ with seq0 := w.rec_.seq0 } := hrest.rec_
    have hwdrop : w.get (R.RINGr_STAT_DROP 0) = u.get (R.RINGr_STAT_DROP 0) := hrest.get (f := R.RINGr_STAT_DROP 0) (by decide)
    refine ⟨?_, fun hpos => ?_, fun hz => ?_, fun _ hne => ⟨?_, ?_⟩, fun hlt => absurd hlt hfull⟩
    · rw [hrec, hwrec, hurec]
    · rw [hrec]
      exact (hseq hpos).trans (by rw [hurec])
    · rw [hrec]
      exact (hnone hz).1.trans (by rw [hurec])
    · exact (State.get_of_regsSame htail hwr0).trans ((hwr hne).trans (by rw [huwr, huunits]))
    · exact (State.get_of_regsSame (f := R.RINGr_STAT_DROP 0) htail hovf0).trans (hwdrop.trans hudrop)

end

/-- Settles O39: records and reports leave their queues in order, and each ring's WR moves by the entries that enter it. -/
theorem recordsEnterTheirRings : Obligations.RecordsEnterTheirRings := by
  obtain ⟨hwr0, hovf0, hwr1, hovf1⟩ := wr_notMem_tailRegs
  refine ⟨fun s sh o rest l hdom hwork hl hok => ⟨_, rfl, ?_⟩, fun s q rest r hdom hpend hrep hopen hreason hmask htick => ⟨_, rfl, ?_⟩,
    fun s q rest r hdom hpend hrep hopen hdiff => ⟨_, rfl, ?_⟩, fun s p q rest hdom hpend hfree hrep => ⟨_, rfl, ?_⟩,
    fun s q rest hdom hpend hrep hopen => ⟨_, rfl, ?_⟩, fun s p hdom hpend hfree => ⟨_, rfl, ?_⟩⟩
  · rw [if_pos hdom]
    obtain ⟨sev, heq⟩ := s.recordWrite_eq hwork hl hok
    have hg := State.gather_written { s with rec_ := { s.rec_ with work := rest } } l.bank sh o.emits
    dsimp only at heq ⊢
    generalize State.gather { s with rec_ := { s.rec_ with work := rest } } l.bank sh o.emits = g at heq hg ⊢
    obtain ⟨u, items⟩ := g
    dsimp only at heq hg ⊢
    exact State.recorded_records l sh o sev hg heq
  · rw [if_pos hdom, s.uninspected_eq (fun p hp => by rw [hpend] at hp; cases hp) hrep]
    have heq : (s.reportTaken rest).ulRecord q = ((s.reportTaken rest).ulSet { r with last := q.tickno }).ulCount q.tickno false := by
      unfold State.ulRecord
      rw [show (s.reportTaken rest).rec_.pendRec = none from hpend]
      dsimp only
      rw [show (s.reportTaken rest).ulOpen = some r from hopen]
      exact if_pos (by simp [hreason, hmask, htick])
    have hset : Written _ ((s.reportTaken rest).ulSet { r with last := q.tickno }) [] := State.ringRewrite_written _ _ _ _
    rw [heq]
    generalize (s.reportTaken rest).ulSet { r with last := q.tickno } = u at hset
    obtain ⟨htail, more, wm, hrec⟩ := u.ulCount_frame q.tickno false
    dsimp only
    rw [hrec, hset.rec_]
    exact ⟨rfl, (State.get_of_regsSame htail hwr1).trans (hset.get List.not_mem_nil), rfl, more, rfl⟩
  · rw [if_pos hdom, s.uninspected_eq (fun p hp => by rw [hpend] at hp; cases hp) hrep]
    have hmerge : ¬(decide (r.reason = q.reason) && decide (r.mask = q.mask) && decide (q.tickno = r.last + 1)) = true := by
      simp only [Bool.and_eq_true, decide_eq_true_eq]
      tauto
    by_cases hfree : 1 ≤ s.ringFree 1
    · have heq : (s.reportTaken rest).ulRecord q =
          (((s.reportTaken rest).ulNew q).1.ulPush ((s.reportTaken rest).ulNew q).2).ulCount q.tickno false := by
        unfold State.ulRecord
        rw [show (s.reportTaken rest).rec_.pendRec = none from hpend]
        dsimp only
        rw [show (s.reportTaken rest).ulOpen = some r from hopen]
        exact (if_neg hmerge).trans (if_pos hfree)
      obtain ⟨hpush, hwr⟩ := State.ulPush_shape ((s.reportTaken rest).ulNew q).1 ((s.reportTaken rest).ulNew q).2 hfree
      rw [heq]
      generalize ((s.reportTaken rest).ulNew q).1.ulPush ((s.reportTaken rest).ulNew q).2 = u at hpush hwr
      obtain ⟨htail, more, wm, hrec⟩ := u.ulCount_frame q.tickno false
      dsimp only
      rw [hrec, hpush.rec_]
      exact ⟨⟨more, rfl⟩, hpend, fun _ => ⟨rfl, (State.get_of_regsSame htail hwr1).trans hwr, rfl⟩, fun h => absurd h (by omega)⟩
    · have heq : (s.reportTaken rest).ulRecord q =
          (((s.reportTaken rest).ulSet (r.widen q.tickno)).ringOverflow 1).ulCount q.tickno false := by
        unfold State.ulRecord
        rw [show (s.reportTaken rest).rec_.pendRec = none from hpend]
        dsimp only
        rw [show (s.reportTaken rest).ulOpen = some r from hopen]
        exact (if_neg hmerge).trans (if_neg hfree)
      have hset : Written _ ((s.reportTaken rest).ulSet (r.widen q.tickno)) [] := State.ringRewrite_written _ _ _ _
      rw [heq]
      generalize (s.reportTaken rest).ulSet (r.widen q.tickno) = u at hset
      obtain ⟨hwr, hovf, -⟩ := u.ringOverflow_shows 1
      have hover := (u.ringOverflow_written 1).rec_
      generalize u.ringOverflow 1 = v at hwr hovf hover
      obtain ⟨htail, more, wm, hrec⟩ := v.ulCount_frame q.tickno false
      dsimp only
      rw [hrec, hover, hset.rec_]
      exact ⟨⟨more, rfl⟩, hpend, fun h => absurd h hfree, fun _ => ⟨rfl,
        (State.get_of_regsSame htail hwr1).trans (hwr.trans (hset.get List.not_mem_nil)), (State.get_of_regsSame htail hovf1).trans hovf, rfl⟩⟩
  · rw [if_pos hdom, s.uninspected_eq (fun _ _ => hfree) hrep]
    set u : State := { s.reportTaken rest with rec_ := { (s.reportTaken rest).rec_ with pendRec := some (p.widen q.tickno) } } with hu
    have heq : (s.reportTaken rest).ulRecord q = (u.ringOverflow 1).ulCount q.tickno true := by
      unfold State.ulRecord
      rw [show (s.reportTaken rest).rec_.pendRec = some p from hpend]
    have hurec : u.rec_ = { s.rec_ with reports := rest, pendRec := some (p.widen q.tickno) } := rfl
    have huwr : u.ringWr 1 = s.ringWr 1 := rfl
    rw [heq]
    clear_value u
    obtain ⟨hwr, hovf, -⟩ := u.ringOverflow_shows 1
    have hover := (u.ringOverflow_written 1).rec_
    generalize u.ringOverflow 1 = v at hwr hovf hover
    obtain ⟨htail, more, wm, hrec⟩ := v.ulCount_frame q.tickno true
    rw [hrec, hover, hurec]
    exact ⟨rfl, (State.get_of_regsSame htail hwr1).trans (hwr.trans huwr), rfl, (State.get_of_regsSame htail hovf1).trans hovf, more, rfl⟩
  · rw [if_pos hdom, s.uninspected_eq (fun p hp => by rw [hpend] at hp; cases hp) hrep]
    by_cases hfree : 1 ≤ s.ringFree 1
    · have heq : (s.reportTaken rest).ulRecord q =
          (((s.reportTaken rest).ulNew q).1.ulPush ((s.reportTaken rest).ulNew q).2).ulCount q.tickno false := by
        unfold State.ulRecord
        rw [show (s.reportTaken rest).rec_.pendRec = none from hpend]
        dsimp only
        rw [show (s.reportTaken rest).ulOpen = none from hopen]
        exact if_pos hfree
      obtain ⟨hpush, hwr⟩ := State.ulPush_shape ((s.reportTaken rest).ulNew q).1 ((s.reportTaken rest).ulNew q).2 hfree
      rw [heq]
      generalize ((s.reportTaken rest).ulNew q).1.ulPush ((s.reportTaken rest).ulNew q).2 = u at hpush hwr
      obtain ⟨htail, more, wm, hrec⟩ := u.ulCount_frame q.tickno false
      dsimp only
      rw [hrec, hpush.rec_]
      exact ⟨rfl, ⟨more, rfl⟩, fun _ => ⟨rfl, (State.get_of_regsSame htail hwr1).trans hwr⟩, fun h => absurd h (by omega)⟩
    · set u : State := { ((s.reportTaken rest).ulNew q).1 with
        rec_ := { ((s.reportTaken rest).ulNew q).1.rec_ with pendRec := some ((s.reportTaken rest).ulNew q).2 } } with hu
      have heq : (s.reportTaken rest).ulRecord q = (u.ringOverflow 1).ulCount q.tickno true := by
        unfold State.ulRecord
        rw [show (s.reportTaken rest).rec_.pendRec = none from hpend]
        dsimp only
        rw [show (s.reportTaken rest).ulOpen = none from hopen]
        exact if_neg hfree
      have hurec : u.rec_ = { s.rec_ with reports := rest, seq1 := (s.rec_.seq1 + 1) % 2 ^ 32, pendRec := some ({
        first := q.tickno, last := q.tickno, mask := q.mask, reason := q.reason, rep := q.rep, line := q.line, seq := s.rec_.seq1, job := q.job } : UlRec) } := rfl
      have huwr : u.ringWr 1 = s.ringWr 1 := rfl
      rw [heq]
      clear_value u
      obtain ⟨hwr, hovf, -⟩ := u.ringOverflow_shows 1
      have hover := (u.ringOverflow_written 1).rec_
      generalize u.ringOverflow 1 = v at hwr hovf hover
      obtain ⟨htail, more, wm, hrec⟩ := v.ulCount_frame q.tickno true
      dsimp only
      rw [hrec, hover, hurec]
      exact ⟨rfl, ⟨more, rfl⟩, fun h => absurd h hfree, fun _ => ⟨rfl, (State.get_of_regsSame htail hwr1).trans (hwr.trans huwr),
        (State.get_of_regsSame htail hovf1).trans hovf⟩⟩
  · rw [if_pos hdom]
    have heq : s.ulPending = State.linesSettle { State.ulPush { s with rec_ := { s.rec_ with pendRec := none } } p with
        lines := (State.ulPush { s with rec_ := { s.rec_ with pendRec := none } } p).lines.map (fun (l : Line) =>
          { l with waitRecs := l.waitRecs - l.inPend, inPend := 0 }) } := by
      unfold State.ulPending
      rw [hpend]
      exact if_neg (by omega)
    obtain ⟨hpush, hwr⟩ := State.ulPush_shape { s with rec_ := { s.rec_ with pendRec := none } } p hfree
    rw [heq]
    generalize State.ulPush { s with rec_ := { s.rec_ with pendRec := none } } p = u at hpush hwr
    set v : State := { u with lines := u.lines.map (fun (l : Line) => { l with waitRecs := l.waitRecs - l.inPend, inPend := 0 }) } with hv
    have hvrec : v.rec_ = u.rec_ := rfl
    have hvwr : v.ringWr 1 = u.ringWr 1 := rfl
    clear_value v
    obtain ⟨⟨more, wm, hrec⟩, -⟩ := v.linesSettle_rec
    have hsettle := State.get_of_only v.linesSettle_only (f := R.RINGr_WR_OFS 1) (by decide)
    dsimp only
    rw [hrec, hvrec, hpush.rec_]
    exact ⟨rfl, rfl, hsettle.trans (hvwr.trans hwr), rfl⟩

end Sys2Proof.Machine
end

/-! PROOFS. What work that ends, and domains that go off, leave: the pages of temperature, power, the management bus and SYS, time, the
thermal and power state, TICKNO (R201, R349–R352, R397). -/
section
-- One theorem after the other: the default proofs of the side conditions below are run by the elaborator, which waits for all that stands before.
set_option Elab.async false
namespace Sys2Proof.Machine

/-! ## Calm changes -/

/-- The pages of temperature, power, the management bus and SYS. -/
def guardedPage (p : Nat) : Bool := p = 0x28 || p = 0x29 || p = 0x2B || p = 0x2C

/-- A register of those pages. -/
def paged (a : Nat) : Bool := guardedPage (a / 4096)

/-- A register of those pages, PWR_DOM_STAT, which shows the domains that are on, only if `b`. -/
def guarded (b : Bool) (a : Nat) : Bool := paged a && (b || a ≠ 0x29054)

theorem paged_of_guarded {b : Bool} {a : Nat} (h : guarded b a = true) : paged a = true := (Bool.and_eq_true_iff.mp h).1

theorem guarded_weaken {b : Bool} {a : Nat} (h : guarded false a = true) : guarded b a = true := by
  obtain ⟨hpage, hdom⟩ := Bool.and_eq_true_iff.mp h
  rw [Bool.false_or] at hdom
  rw [guarded, hpage, hdom, Bool.or_true]
  rfl

theorem not_guarded_of {b : Bool} {a : Nat} (h : paged a = false) : guarded b a = false := by rw [guarded, h, Bool.false_and]

theorem paged_page {p o : Nat} (hp : guardedPage p = false) (ho : o < 4096) : paged (p * 4096 + o) = false := by
  rw [paged, Nat.add_comm, Nat.add_mul_div_right _ _ (by decide), Nat.div_eq_of_lt ho, Nat.zero_add, hp]

theorem not_paged {a : Nat} (h : a / 4096 ≠ 0x28 ∧ a / 4096 ≠ 0x29 ∧ a / 4096 ≠ 0x2B ∧ a / 4096 ≠ 0x2C) : paged a = false := by
  obtain ⟨h8, h9, hb, hc⟩ := h
  simp only [paged, guardedPage, h8, h9, hb, hc, decide_false, Bool.or_self]

/-- The event belongs to none of those pages. -/
def Ev.elsewhere (e : Ev) : Bool := !guardedPage e.page && e.cnt.all (· < 32)

/-- From s to t nothing happened in the guarded registers, to time, to the thermal and the power state, to TICKNO; and flush steps, a
running job, lines in flight and derived ticks did not come from nothing. -/
structure Calm (b : Bool) (s t : State) : Prop where
  regs : ∀ a, guarded b a = true → t.reg a = s.reg a
  now : t.now = s.now
  therm : t.therm = s.therm
  pwr : t.pwr = s.pwr
  tickno : t.tick.tickno = s.tick.tickno
  flush : s.tick.flushLeft = 0 → t.tick.flushLeft = 0
  job : s.job.active = none → t.job.active = none
  lines : s.lines = [] → t.lines = []
  queue : s.tick.queue = [] → t.tick.queue = []

section
variable {b : Bool} {s t u : State}

theorem Calm.refl : Calm b s s := ⟨fun _ _ => rfl, rfl, rfl, rfl, rfl, id, id, id, id⟩

theorem Calm.trans (h : Calm b s t) (k : Calm b t u) : Calm b s u :=
  ⟨fun a ha => (k.regs a ha).trans (h.regs a ha), k.now.trans h.now, k.therm.trans h.therm, k.pwr.trans h.pwr, k.tickno.trans h.tickno,
    k.flush ∘ h.flush, k.job ∘ h.job, k.lines ∘ h.lines, k.queue ∘ h.queue⟩

/-- A change that leaves the registers. -/
theorem Calm.same (h : Calm b s t) (regs : u.regs = t.regs := by rfl) (now : u.now = t.now := by rfl) (therm : u.therm = t.therm := by rfl)
    (pwr : u.pwr = t.pwr := by rfl) (tickno : u.tick.tickno = t.tick.tickno := by rfl)
    (flush : t.tick.flushLeft = 0 → u.tick.flushLeft = 0 := by exact id)
    (job : t.job.active = none → u.job.active = none := by exact id) (lines : t.lines = [] → u.lines = [] := by exact id)
    (queue : t.tick.queue = [] → u.tick.queue = [] := by exact id) : Calm b s u :=
  h.trans ⟨fun a _ => by rw [State.reg, regs, State.reg], now, therm, pwr, tickno, flush, job, lines, queue⟩

theorem Calm.get (h : Calm b s t) {f : Fld} (hf : guarded b f.reg = true := by decide) : t.get f = s.get f := by
  rw [State.get, h.regs _ hf, State.get]

theorem Calm.on (h : Calm b s t) {f : Fld} (hf : guarded b f.reg = true := by decide) : t.on f = s.on f := State.on_of_get (h.get hf)

/-- Where PWR_DOM_STAT is the same, the same domains are on. -/
theorem Calm.dom (h : Calm true s t) (d : Nat) : t.dom d = s.dom d := by
  rw [State.dom, h.get (by decide), State.dom]

/-- PWR_DOM_STAT left out of account. -/
theorem Calm.weaken (h : Calm true s t) : Calm b s t :=
  ⟨fun a ha => h.regs a (by rw [guarded, paged_of_guarded ha]; rfl), h.now, h.therm, h.pwr, h.tickno, h.flush, h.job, h.lines, h.queue⟩

theorem Calm.ite {c : Prop} [Decidable c] (h : Calm b s t) (k : Calm b s u) : Calm b s (if c then t else u) := by
  split
  · exact h
  · exact k

theorem Calm.foldl {α : Type} {f : State → α → State} (xs : List α) (h : Calm b s t) (hf : ∀ u, ∀ x ∈ xs, Calm b s u → Calm b s (f u x)) :
    Calm b s (xs.foldl f t) :=
  List.foldlRecOn (motive := Calm b s) xs f h fun u hu x hx => hf u x hx hu

theorem Calm.setReg (h : Calm b s t) {a : Nat} {v : Word} (ha : paged a = false := by decide) : Calm b s (t.setReg a v) :=
  h.trans ⟨fun _ hb => t.reg_setReg_other v (by rintro rfl; rw [not_guarded_of ha] at hb; cases hb), rfl, rfl, rfl, rfl, id, id, id, id⟩

theorem Calm.put (h : Calm b s t) {f : Fld} {v : Nat} (hf : paged f.reg = false := by decide) : Calm b s (t.put f v) := h.setReg hf

theorem Calm.put64 (h : Calm b s t) {lo hi : Fld} {v : Nat} (hlo : paged lo.reg = false := by decide)
    (hhi : paged hi.reg = false := by decide) : Calm b s (t.put64 lo hi v) := (h.put hlo).put hhi

theorem Calm.bumpBy (h : Calm b s t) {f : Fld} {n : Nat} (hf : paged f.reg = false := by decide) : Calm b s (t.bumpBy f n) := h.put hf

theorem Calm.bump (h : Calm b s t) {f : Fld} (hf : paged f.reg = false := by decide) : Calm b s (t.bump f) := h.put hf

theorem Calm.settleFrom (h : Calm b s t) (old : State) : Calm b s (State.settleFrom old t) := by
  unfold State.settleFrom
  dsimp only
  split <;> split <;> exact h.same

theorem Calm.raiseBy (h : Calm b s t) {e : Ev} {n : Nat} (he : e.elsewhere = true := by decide) : Calm b s (t.raiseBy e n) := by
  obtain ⟨hpage, hcnt⟩ : guardedPage e.page = false ∧ e.cnt.all (· < 32) = true := by
    simpa only [Ev.elsewhere, Bool.and_eq_true, Bool.not_eq_true'] using he
  have hbit : Calm b s (t.put (intRawBit e) 1) := h.put (paged_page hpage (o := 0x010) (by decide))
  have hcount : Calm b s (match e.cnt with | none => t.put (intRawBit e) 1 | some k => (t.put (intRawBit e) 1).bumpBy (evtCnt e.page k) n) := by
    split
    · exact hbit
    · next k hk =>
      have hk32 : k < 32 := by simpa [hk] using hcnt
      have hc : paged (e.page * 4096 + (0x020 + 4 * (k / 4))) = false := paged_page hpage (by omega)
      rw [← Nat.add_assoc] at hc
      exact hbit.bumpBy hc
  unfold State.raiseBy
  split
  · exact h
  · dsimp only
    split
    · exact hcount
    · exact hcount.settleFrom t

theorem Calm.raise (h : Calm b s t) {e : Ev} (he : e.elsewhere = true := by decide) : Calm b s (t.raise e) := h.raiseBy he

/-- An event of a guarded page stays told. -/
theorem Calm.toldStill {e : Ev} (h : Calm b t u) (hs : told s t e) (hbit : guarded b (intRawBit e).reg = true := by decide)
    (hcnt : ∀ n, e.cnt = some n → guarded b (evtCnt e.page n).reg = true := by decide) : told s u e :=
  ⟨(h.get hbit).trans hs.1, fun b hb => (h.get (hcnt b hb)).trans (hs.2 b hb)⟩

end

end Sys2Proof.Machine
end

/-! PROOFS. Domains that go off and work that ends are calm changes (R201, R349–R352, R397). -/
section
-- One theorem after the other: the default proofs of the side conditions below are run by the elaborator, which waits for all that stands before.
set_option Elab.async false
namespace Sys2Proof.Machine

variable {b : Bool} {s t : State}

/-! ## Events and the store's journal -/

theorem Calm.fresh (h : Calm b s t) : Calm b s t.fresh.2 := h.same

theorem Calm.eventOn (h : Calm b s t) {code source vc : Nat} {detail : List Nat} : Calm b s (t.eventOn code source detail vc) :=
  .ite h.same (Calm.raise (h.same (u := { t with evtQ := _ })))

theorem Calm.event (h : Calm b s t) {code source : Nat} {detail : List Nat} : Calm b s (t.event code source detail) := h.eventOn

theorem Calm.accrue (h : Calm b s t) : Calm b s t.accrue := h.same

theorem Calm.jShow (h : Calm b s t) : Calm b s t.jShow := by
  have h2 : Calm b s ((t.put R.NVS_JOCC_MB (ceilDiv t.jUsed 0x4000)).put64 R.NVS_JSEQ_LO_SEQ R.NVS_JSEQ_HI_SEQ t.nvs.seq) := h.put.put64
  unfold State.jShow
  dsimp only
  split
  · exact h2.put
  · split
    · exact h2
    · exact h2.put.raise

theorem Calm.jCommit (h : Calm b s t) {type : Nat} {payload : List Nat} : Calm b s (t.jCommit type payload) := by
  unfold State.jCommit
  exact Calm.jShow h.same

theorem Calm.lifeCommit (h : Calm b s t) : Calm b s t.lifeCommit := by
  unfold State.lifeCommit State.lifeCommitAt
  exact Calm.jCommit h.same

theorem Calm.jEvent (h : Calm b s t) {code : Nat} {detail : List Nat} : Calm b s (t.jEvent code detail) :=
  .ite h.jCommit.lifeCommit h.same

theorem Calm.jDrain (h : Calm b s t) : Calm b s t.jDrain := by
  have h0 : Calm b s { t with nvs := { t.nvs with waiting := [] } } := h.same
  exact .ite h0 (Calm.lifeCommit (.foldl _ h0 fun _ _ _ hu => hu.jCommit))

theorem Calm.compactCut (h : Calm b s t) : Calm b s t.compactCut :=
  Calm.put (Calm.put (Calm.put (h.same (u := { t with nvs := _ }))))

theorem Calm.nvsCut (h : Calm b s t) : Calm b s t.nvsCut := Calm.put (h.same (u := { t with nvs := _ }))

/-! ## The chain and the ports -/

theorem Calm.ctUnlock (h : Calm b s t) : Calm b s t.ctUnlock := by
  have h1 : Calm b s (t.setChain { t.chain with okRun := 0 }) := h.same
  exact .ite h1.put.raise h1

theorem Calm.tokensGone (h : Calm b s t) : Calm b s t.tokensGone :=
  .ite h (Calm.raise (Calm.put (h.same (u := t.setChain _))))

theorem Calm.chainCut (h : Calm b s t) : Calm b s t.chainCut := .ite h.ctUnlock h.ctUnlock.tokensGone.event

theorem Calm.chainStop (h : Calm b s t) : Calm b s t.chainStop := h.same

theorem not_paged_port {p o : Nat} (hp : p < 3) (ho : o < 4096) : paged (0x24000 + 0x1000 * p + o) = false :=
  not_paged (by omega)

theorem Calm.setPort (h : Calm b s t) {p : Nat} {x : Port} : Calm b s (t.setPort p x) := h.same

theorem Calm.setPortState (h : Calm b s t) {p st : Nat} (hp : p < 3) : Calm b s (t.setPortState p st) := by
  have hput : Calm b s (t.put (R.RP_STAT_STATE p) st) := h.put (not_paged (by simp only [R.RP_STAT_STATE]; omega))
  exact .ite h hput.event

/-! ## Registers and memory lost -/

theorem mem_of_findRow {rows : List RegRow} {off : Nat} {r : RegRow} (h : findRow rows off = some r) : r ∈ rows := by
  induction rows with
  | nil => cases h
  | cons x xs ih =>
    unfold findRow at h
    split at h
    · cases h
      exact List.mem_cons_self
    · exact List.mem_cons_of_mem _ (ih h)

/-- No register of the guarded pages is shadowed or banked. -/
theorem guardedRows_plain : ∀ rows ∈ [rowsTHERM, rowsPWR, rowsMB, rowsSYS], ∀ r ∈ rows, (r.kind = .shadow || r.kind = .banked) = false := by
  decide

theorem guardedPage_iff {p : Nat} : guardedPage p = true ↔ p = 0x28 ∨ p = 0x29 ∨ p = 0x2B ∨ p = 0x2C := by
  simp only [guardedPage, Bool.or_eq_true, decide_eq_true_eq, or_assoc]

theorem pageRow_guarded {p : Nat} (hp : guardedPage p = true) :
    ∃ r, pageRow p = some r ∧ r.rows ∈ [rowsTHERM, rowsPWR, rowsMB, rowsSYS] ∧ restDom p = 0 := by
  obtain rfl | rfl | rfl | rfl := guardedPage_iff.mp hp <;> exact ⟨_, rfl, by decide, rfl⟩

theorem lostWith_guarded {a : Nat} (d : Nat) (ha : paged a = true) : lostWith d a = false := by
  obtain ⟨r, hr, hrows, -⟩ := pageRow_guarded ha
  rw [lostWith, regRow, hr]
  dsimp only
  split
  · next row hrow => rw [guardedRows_plain _ hrows _ (mem_of_findRow hrow), Bool.and_false]
  · exact Bool.and_false _

theorem restOf_guarded {a d : Nat} (ha : paged a = true) (hd : d ≠ 0) : restOf d a = false := by
  obtain ⟨r, -, -, hrest⟩ := pageRow_guarded ha
  rw [restOf, hrest, decide_eq_false hd.symm, Bool.and_false]

theorem Calm.dropRegs (h : Calm b s t) {lost : Nat → Bool} (hlost : ∀ a, paged a = true → lost a = false) : Calm b s (t.dropRegs lost) := by
  refine h.trans ⟨fun a ha => ?_, rfl, rfl, rfl, rfl, id, id, id, id⟩
  have hkept : (!lost a) = true := by rw [hlost a (paged_of_guarded ha), Bool.not_false]
  show mapGet _ (t.regs.filter fun p => !lost p.1) a = mapGet _ t.regs a
  rw [mapGet, mapFind_filter (fun a => !lost a), if_pos hkept, mapGet]

theorem Calm.memForget (h : Calm b s t) {lo hi : Nat} : Calm b s (t.memForget lo hi) := h.same

theorem Calm.enginesLost (h : Calm b s t) {c : Nat} : Calm b s (t.enginesLost c) := h.same

/-! ## Domains off -/

theorem courseSum_notPaged {c : Nat} (hc : c < 12) : paged (R.ENGG_FAULT_SUMw_SHINGLE (c / 2)).reg = false :=
  not_paged (by simp only [R.ENGG_FAULT_SUMw_SHINGLE]; omega)

theorem Calm.putCourse (h : Calm b s t) {c : Nat} (hc : c < 12) :
    Calm b s ((t.put ⟨R.ENGG_STAT_COURSE_ON.reg, c, 1⟩ 0).put ⟨(R.ENGG_FAULT_SUMw_SHINGLE (c / 2)).reg, 16 * (c % 2), 16⟩ 0) := by
  have hon : paged R.ENGG_STAT_COURSE_ON.reg = false := by decide
  have hput : Calm b s (t.put ⟨R.ENGG_STAT_COURSE_ON.reg, c, 1⟩ 0) := h.put hon
  exact hput.put (courseSum_notPaged hc)

theorem Calm.courseLost (h : Calm b s t) {c : Nat} (hc : c < 12) : Calm b s (t.courseLost c) := by
  have hd : dCOURSE c ≠ 0 := by unfold dCOURSE; omega
  unfold State.courseLost
  refine Calm.memForget (Calm.enginesLost ((h.putCourse hc).dropRegs fun a ha => ?_))
  rw [restOf_guarded ha hd, Bool.false_and]

theorem Calm.portLost (h : Calm b s t) {p : Nat} (hp : p < 3) : Calm b s (t.portLost p) := by
  have hstat : paged (0x24044 + 0x1000 * p) = false := not_paged (by omega)
  have hd : dPORT p ≠ 0 := by unfold dPORT; omega
  have hcut : Calm b s (if p = 1 && t.portUp p then t.chainCut else t) := .ite h.chainCut h
  unfold State.portLost
  dsimp only
  generalize (if p = 1 && t.portUp p then t.chainCut else t) = u at hcut ⊢
  have hdma : Calm b s (u.dmaPortLost p) := hcut.same
  generalize u.dmaPortLost p = v at hdma ⊢
  have hput := (((hdma.put (f := R.RP_STAT_LANES p) (v := 0) hstat).put (f := R.RP_STAT_WIDTH p) (v := 0) hstat).put
    (f := R.RP_STAT_FOM_MIN p) (v := 0) hstat).put (f := R.RP_STAT_RATE_ACT p) (v := 0) hstat
  refine Calm.dropRegs (hput.setPortState hp).setPort fun a ha => ?_
  rw [restOf_guarded ha hd, Bool.false_and]

theorem Calm.lampLost (h : Calm b s t) : Calm b s t.lampLost := by
  unfold State.lampLost
  exact Calm.put (Calm.put (Calm.put (Calm.put h.same)))

theorem Calm.clkLost (h : Calm b s t) : Calm b s t.clkLost := by
  unfold State.clkLost
  have hstop : Calm b s (State.chainStop { t with clk := {}, tick := { t.tick with acc := 0, cntTimes := [], pred := none } }) := h.same
  refine Calm.put (Calm.foldl _ (Calm.foldl _ (Calm.put (Calm.put (Calm.put hstop))) fun u i hi hu => ?_) fun u a ha hu => ?_)
  · exact hu.put (not_paged (by have := List.mem_range.mp hi; simp only [R.PLLi_STAT_LOCK]; omega))
  · have hshown : ∀ a ∈ bankShown, paged a = false := by decide
    exact hu.setReg (hshown a ha)

theorem Calm.loftLost (h : Calm b s t) : Calm b s t.loftLost := by
  unfold State.loftLost
  refine Calm.foldl _ (Calm.setReg (Calm.memForget (h.same (u := { t with dev := {} })))) fun u i hi hu => ?_
  exact hu.setReg (not_paged (by have := List.mem_range.mp hi; simp only [R.MCm_MSTAT_OPEN]; omega))

theorem Calm.ddrRest (h : Calm b s t) : Calm b s t.ddrRest := h.put.put

theorem Calm.sensorShow (h : Calm b s t) : Calm b s t.sensorShow := h.put

/-- A domain that was on is off; the rest is calm. -/
theorem State.domOff_calm {d : Nat} (hon : t.dom d = true) : Calm b (t.put ⟨R.PWR_DOM_STAT_ON.reg, d, 1⟩ 0) (t.domOff d) := by
  have hdrop : Calm b (t.put ⟨R.PWR_DOM_STAT_ON.reg, d, 1⟩ 0) ((t.put ⟨R.PWR_DOM_STAT_ON.reg, d, 1⟩ 0).dropRegs (lostWith d)) :=
    Calm.dropRegs Calm.refl fun a ha => lostWith_guarded d ha
  unfold State.domOff
  dsimp only
  generalize (t.put ⟨R.PWR_DOM_STAT_ON.reg, d, 1⟩ 0).dropRegs (lostWith d) = u at hdrop ⊢
  rw [if_neg (by rw [hon]; decide)]
  split
  · next hc => exact hdrop.courseLost (by simp only [Bool.and_eq_true, decide_eq_true_eq] at hc; omega)
  split
  · next hp => exact hdrop.portLost (by simp only [Bool.and_eq_true, decide_eq_true_eq] at hp; omega)
  split
  · exact hdrop.lampLost
  split
  · exact hdrop.loftLost
  split
  · exact hdrop.ddrRest
  split
  · exact hdrop.clkLost
  split
  · exact hdrop.compactCut.put.put
  split
  · exact hdrop.same
  split
  · exact Calm.sensorShow hdrop.same
  · exact hdrop

theorem State.domOff_of_off {d : Nat} (hoff : t.dom d = false) : t.domOff d = t := by
  unfold State.domOff
  rw [hoff]
  rfl

theorem Calm.domOff (h : Calm false s t) {d : Nat} : Calm false s (t.domOff d) := by
  cases hd : t.dom d
  · rw [State.domOff_of_off hd]
    exact h
  · have hput : Calm false t (t.put ⟨R.PWR_DOM_STAT_ON.reg, d, 1⟩ 0) := ⟨fun a ha => ?_, rfl, rfl, rfl, rfl, id, id, id, id⟩
    · exact (h.trans hput).trans (State.domOff_calm hd)
    have hne : a ≠ 0x29054 := by
      have hdom := (Bool.and_eq_true_iff.mp ha).2
      simpa using hdom
    exact t.reg_put_other 0 hne

/-- A domain is on where its bit shows it. -/
theorem State.dom_eq_on {d : Nat} (hd : d < 25) : s.dom d = s.on ⟨R.PWR_DOM_STAT_ON.reg, d, 1⟩ := by
  have hbit := State.bit_get (s := s) R.PWR_DOM_STAT_ON hd
  rw [State.dom, hbit, State.on, State.get_one_bit, show R.PWR_DOM_STAT_ON.lo + d = d from Nat.zero_add d]
  cases (s.reg R.PWR_DOM_STAT_ON.reg).toNat.testBit d <;> rfl

/-- Only the domain itself goes off. -/
theorem State.dom_domOff {d e : Nat} (hd : d < 25) (he : e < 25) : (s.domOff d).dom e = (s.dom e && decide (e ≠ d)) := by
  by_cases hde : e = d
  · rw [decide_eq_false (not_not_intro hde), Bool.and_false, hde]
    cases hon : s.dom d
    · rw [State.domOff_of_off hon, hon]
    · rw [(State.domOff_calm (b := true) hon).dom, State.dom_eq_on hd, State.on, s.get_put_fits (by simp only; omega) (Nat.two_pow_pos _)]
      rfl
  · rw [decide_eq_true hde, Bool.and_true]
    cases hon : s.dom d
    · rw [State.domOff_of_off hon]
    · rw [(State.domOff_calm (b := true) hon).dom, State.dom_eq_on he, State.dom_eq_on he]
      exact State.on_of_get (s.get_put_other 0 (.inr ⟨by simp only; omega, by simp only; omega⟩))

/-- The domains that are named go off. -/
theorem State.dom_domsOff {ds : List Nat} {e : Nat} (hds : ∀ d ∈ ds, d < 25) (he : e < 25) : (s.domsOff ds).dom e = (s.dom e && decide (e ∉ ds)) := by
  induction ds generalizing s with
  | nil => simp [State.domsOff]
  | cons d ds ih =>
    have hrest : (s.domsOff (d :: ds)) = (s.domOff d).domsOff ds := rfl
    rw [hrest, ih (fun x hx => hds x (List.mem_cons_of_mem _ hx)), State.dom_domOff (hds d List.mem_cons_self) he, Bool.and_assoc,
      ← Bool.decide_and]
    simp only [List.mem_cons, not_or]

theorem Calm.domsOff (h : Calm false s t) {ds : List Nat} : Calm false s (t.domsOff ds) := .foldl _ h fun _ _ _ hu => hu.domOff

theorem Calm.domsOffBut (h : Calm false s t) {keep : List Nat} : Calm false s (t.domsOffBut keep) := h.domsOff

end Sys2Proof.Machine
end

/-! PROOFS. Work that ends is a calm change: calibration runs, jobs, the sensor's lines, frames (R178, R201, R318). -/
section
-- One theorem after the other: the default proofs of the side conditions below are run by the elaborator, which waits for all that stands before.
set_option Elab.async false
namespace Sys2Proof.Machine

variable {b : Bool} {s t : State}

/-! ## Writes of registers and memory -/

theorem Calm.written {u : State} {L : List Nat} (h : Calm b s t) (k : Written t u L) (hL : ∀ a ∈ L, paged a = false) : Calm b s u := by
  obtain ⟨hregs, regs, mem, poison, memctl, sys, mb, freeIdx, rfl⟩ := k
  exact h.trans ⟨fun a ha => hregs a fun hmem => Bool.noConfusion ((hL a hmem).symm.trans (paged_of_guarded ha)), rfl, rfl, rfl, rfl, id, id, id, id⟩

theorem Calm.repsDone (h : Calm b s t) : Calm b s t.repsDone := by
  obtain ⟨reps, hw⟩ := t.repsDone_written
  exact Calm.written (h.same (u := { t with dev := { t.dev with reps := reps } })) hw (by decide)

/-! ## Calibration -/

theorem Calm.calEnd (h : Calm b s t) {code : Nat} : Calm b s (t.calEnd code) := by
  have hput : Calm b s (((State.put { t with cal := { t.cal with run := 0, result := none, store := false, sw24 := false, trimRes := [], tph := 0, phRes := 0 } }
      R.CAL_STAT_RUN 0).put R.CAL_RESULT_CODE code).put R.CAL_RESULT_COUNT t.cal.count) := Calm.put (Calm.put (Calm.put h.same))
  have hev : (if code = 0 then E.CAL_RUN_DONE else E.CAL_RUN_FAIL).elsewhere = true := by split <;> decide
  unfold State.calEnd
  dsimp only
  refine Calm.raise ?_ hev
  split
  · exact hput.put
  · exact hput

theorem Calm.calAbort (h : Calm b s t) : Calm b s t.calAbort := .ite h h.calEnd

theorem Calm.calDiscard (h : Calm b s t) : Calm b s t.calDiscard := h.same

/-! ## The job -/

theorem Calm.usedShow (h : Calm b s t) : Calm b s t.usedShow := h.put

theorem Calm.capActShow (h : Calm b s t) : Calm b s t.capActShow := h.put.put.put.put

theorem Calm.busyShow (h : Calm b s t) : Calm b s t.busyShow := by
  unfold State.busyShow
  exact Calm.put h.same

theorem Calm.disarm (h : Calm b s t) : Calm b s t.disarm := by
  unfold State.disarm
  split
  · exact h
  · have hput : Calm b s (State.put { t with job := { t.job with armed := none } } R.JOB_STAT_ARMED 0) := Calm.put h.same
    exact hput.put.usedShow.raise

theorem Calm.jobEndAt (h : Calm b s t) {T : Nat} : Calm b s (t.jobEndAt T) := by
  unfold State.jobEndAt
  split
  · exact h
  · next x hx =>
    have hdisarm : Calm b s (t.repClose T true).disarm := Calm.disarm (h.same (u := t.repClose T true))
    dsimp only
    generalize (t.repClose T true).disarm = u at hdisarm ⊢
    have hnone : Calm b s { u with job := { u.job with active := none, busy := setAdd u.job.busy x, stopAt := false, rep := {}, adoptPend := false } } :=
      hdisarm.same (job := fun _ => rfl)
    exact hnone.put.busyShow.usedShow.capActShow

theorem Calm.jobEndNow (h : Calm b s t) : Calm b s t.jobEndNow := h.jobEndAt

/-! ## The sensor's work -/

theorem Calm.tickHalt (h : Calm b s t) : Calm b s t.tickHalt := by
  unfold State.tickHalt
  exact Calm.put (h.same (flush := fun _ => rfl) (queue := fun _ => rfl))

theorem Calm.lampAccrue (h : Calm b s t) {k w : Nat} (hk : k < 8) : Calm b s (t.lampAccrue k w) := by
  have hlo : paged (R.LAMP_LIFEk_LO_MS k).reg = false := not_paged (by simp only [R.LAMP_LIFEk_LO_MS]; omega)
  have hhi : paged (R.LAMP_LIFEk_HI_MS k).reg = false := not_paged (by simp only [R.LAMP_LIFEk_HI_MS]; omega)
  unfold State.lampAccrue
  split
  · exact Calm.put64 (h.same (u := t.setLamp _)) hlo hhi
  · exact h

theorem Calm.strobeLevels (h : Calm b s t) {rise fall : Nat → Nat} : Calm b s (t.strobeLevels rise fall) := by
  refine .foldl _ h fun u c hc hu => ?_
  have hc8 : c < 8 := List.mem_range.mp hc
  dsimp only
  split
  · split
    · exact hu.same
    · exact hu
  · split
    · exact hu
    · exact Calm.lampAccrue (hu.same (u := { u with exp := _ })) hc8

theorem Calm.strobeEnd (h : Calm b s t) {k n : Nat} : Calm b s (t.strobeEnd k n) := by
  unfold State.strobeEnd
  exact Calm.strobeLevels h.same

theorem Calm.expHalt (h : Calm b s t) : Calm b s t.expHalt := by
  have hends : Calm b s (t.exp.slots.foldl (fun s r => s.strobeEnd r.slot s.now) t) := .foldl _ h fun _ _ _ hu => hu.strobeEnd
  exact hends.same

theorem Calm.shShow (h : Calm b s t) {sh : Nat} : Calm b s (t.shShow sh) := by
  have hstat : paged (0x200044 + 0x1000 * sh) = false := not_paged (by omega)
  unfold State.shShow
  split
  · exact h
  · exact (((h.put hstat).put hstat).put hstat).put hstat |>.put hstat

theorem Calm.linesDrop (h : Calm b s t) : Calm b s t.linesDrop := by
  unfold State.linesDrop
  dsimp only
  refine Calm.repsDone (Calm.put (Calm.foldl _ (Calm.put (h.same (lines := fun _ => rfl))) fun _ _ _ hu => hu.shShow))

theorem Calm.sensorStop (h : Calm b s t) : Calm b s t.sensorStop := h.tickHalt.expHalt.linesDrop

/-! ## Frames of the satellite memories -/

theorem Calm.ctxDiscard (h : Calm b s t) {m : Nat} (hm : m < 16) : Calm b s (t.ctxDiscard m) := by
  have hstat : paged (0x1B478 + 0x40 * (m - 1)) = false := not_paged (by omega)
  have hcnt : paged (R.DEV_MCm_CNTk_COUNT (m - 1) 1).reg = false := not_paged (by simp only [R.DEV_MCm_CNTk_COUNT]; omega)
  have hctx (u : State) (hu : Calm b s u) (x : MemCtx) : Calm b s (u.setCtx m x) := hu.same
  have hdrop (u : State) (hu : Calm b s u) (n : Nat) : Calm b s (u.ctxDrop m n) := by
    unfold State.ctxDrop
    exact Calm.raiseBy ((hctx _ hu _).bumpBy hcnt)
  have hshow (u : State) (hu : Calm b s u) : Calm b s (u.ctxShow m) := by
    unfold State.ctxShow
    exact ((hu.put hstat).put hstat).put hstat
  exact hshow _ (hdrop _ (hctx _ h _) _)

theorem Calm.satDiscard (h : Calm b s t) : Calm b s t.satDiscard :=
  .foldl _ h fun _ _ hi hu => hu.ctxDiscard (Nat.succ_lt_succ (List.mem_range.mp hi))

/-! ## What goes out of the module -/

theorem Calm.thermEvent (h : Calm b s t) {cause site : Nat} : Calm b s (t.thermEvent cause site) := h.event

theorem Calm.eventFirst (h : Calm b s t) : Calm b s t.eventFirst := by
  unfold State.eventFirst
  split
  · split
    · exact h
    · exact h.same
  · exact h

end Sys2Proof.Machine
end

/-! PROOFS. What a temperature sample's consequences leave of the sites: thresholds, readings and marks (R334–R342). -/
section
-- One theorem after the other: the default proofs of the side conditions below are run by the elaborator, which waits for all that stands before.
set_option Elab.async false
namespace Sys2Proof.Machine

/-- A register of the thresholds or of the sites' readings and marks. -/
def siteReg (a : Nat) : Bool := 0x28080 ≤ a && a < 0x28220

/-- From s to t the thresholds and what the sites show are the same, and so are time and whether a first sample was taken. -/
structure Sampled (s t : State) : Prop where
  regs : ∀ a, siteReg a = true → t.reg a = s.reg a
  now : t.now = s.now
  seen : t.therm.seen = s.therm.seen

variable {s t u : State}

theorem siteReg_iff {a : Nat} : siteReg a = true ↔ 0x28080 ≤ a ∧ a < 0x28220 := by
  rw [siteReg, Bool.and_eq_true, decide_eq_true_eq, decide_eq_true_eq]

theorem guarded_siteReg {a : Nat} (h : siteReg a = true) : guarded false a = true := by
  have hrange := siteReg_iff.mp h
  have hpage : a / 4096 = 0x28 := by clear h; omega
  have hoff : a ≠ 0x29054 := by clear h; omega
  rw [guarded, paged, hpage, decide_eq_true hoff]
  rfl

theorem Sampled.refl : Sampled s s := ⟨fun _ _ => rfl, rfl, rfl⟩

theorem Sampled.trans (h : Sampled s t) (k : Sampled t u) : Sampled s u :=
  ⟨fun a ha => (k.regs a ha).trans (h.regs a ha), k.now.trans h.now, k.seen.trans h.seen⟩

theorem Sampled.calm (h : Sampled s t) (k : Calm false t u) : Sampled s u :=
  h.trans ⟨fun a ha => k.regs a (guarded_siteReg ha), k.now, by rw [k.therm]⟩

theorem Sampled.same (h : Sampled s t) (regs : u.regs = t.regs := by rfl) (now : u.now = t.now := by rfl)
    (seen : u.therm.seen = t.therm.seen := by rfl) : Sampled s u :=
  h.trans ⟨fun a _ => by rw [State.reg, regs, State.reg], now, seen⟩

theorem Sampled.get (h : Sampled s t) {f : Fld} (hf : siteReg f.reg = true) : t.get f = s.get f := by
  rw [State.get, h.regs _ hf, State.get]

theorem Sampled.put (h : Sampled s t) {f : Fld} {v : Nat} (hf : siteReg f.reg = false := by decide) : Sampled s (t.put f v) :=
  h.trans ⟨fun _ hb => t.reg_put_other v (by rintro rfl; rw [hf] at hb; cases hb), rfl, rfl⟩

theorem Sampled.settleFrom (h : Sampled s t) (old : State) : Sampled s (State.settleFrom old t) := by
  obtain ⟨y, m, he⟩ := State.settleFrom_eq (s := old) t
  rw [he]
  exact h.same

theorem Sampled.raise (h : Sampled s t) {e : Ev} (he : ∀ a ∈ toldRegs e, siteReg a = false := by decide) : Sampled s (t.raise e) := by
  refine h.trans ⟨fun a ha => State.regsSame_raise (List.Subset.refl _) a fun hmem => ?_, t.raise_now e, by rw [State.raise_therm]⟩
  exact Bool.noConfusion ((he a hmem).symm.trans ha)

theorem Sampled.ite {c : Prop} [Decidable c] (h : Sampled s t) (k : Sampled s u) : Sampled s (if c then t else u) := by
  split
  · exact h
  · exact k

/-! ## States and stages -/

theorem Sampled.setTherm (h : Sampled s t) {v : Nat} : Sampled s (t.setTherm v) := h.put.settleFrom t

theorem Sampled.setCause (h : Sampled s t) {c : Nat × Nat} : Sampled s (t.setCause c) := h.put.put

theorem Sampled.thermEvent (h : Sampled s t) {cause site : Nat} : Sampled s (t.thermEvent cause site) := h.calm Calm.refl.thermEvent

theorem Sampled.thermCalm (h : Sampled s t) : Sampled s t.thermCalm := by
  unfold State.thermCalm
  dsimp only
  split
  · exact h
  · split
    · exact h.setTherm.raise.thermEvent
    · exact h.setTherm.thermEvent

theorem Sampled.setGraceEnd (h : Sampled s t) (n : Nat) : Sampled s { t with therm := { t.therm with graceEnd := n } } := h.same

theorem Sampled.thermRequest (h : Sampled s t) {c : Nat × Nat} : Sampled s (t.thermRequest c) := by
  have h1 : Sampled s { t with therm := { t.therm with graceEnd := t.now + t.graceClk } } := h.setGraceEnd _
  unfold State.thermRequest
  generalize { t with therm := { t.therm with graceEnd := t.now + t.graceClk } } = v at h1 ⊢
  have h2 : Sampled s (((v.setTherm 2).setCause c).raise E.THERM_REQUEST) := h1.setTherm.setCause.raise
  exact h2.thermEvent

theorem Sampled.capTherm (h : Sampled s t) : Sampled s t.capTherm := by
  unfold State.capTherm
  split
  · exact h.put
  · exact h.put

theorem Sampled.enforceStage (h : Sampled s t) {c : Nat × Nat} : Sampled s (t.enforceStage c) := by
  unfold State.enforceStage
  dsimp only
  split
  · exact h
  · have h1 : Sampled s { t with therm := { t.therm with caps := 7 * t.fCap / 8 :: t.therm.caps, lastStage := t.now, releasing := false } } := h.same
    exact h1.put.put.capTherm.raise.thermEvent

theorem Sampled.graceExpire (h : Sampled s t) (hend : t.therm.graceEnd ≤ t.now) : Sampled s t.graceExpire := by
  unfold State.graceExpire
  split
  · exact h
  · split
    · exact h
    · have h1 : Sampled s (t.at t.therm.graceEnd) := h.same (now := Nat.max_eq_left hend)
      exact Sampled.enforceStage (Sampled.setTherm h1.same)

theorem Sampled.thermState (h : Sampled s t) : Sampled s t.thermState := by
  unfold State.thermState
  dsimp only
  split
  · next c hc =>
    have h1 : Sampled s { t with therm := { t.therm with cond := true, releasing := false } } := h.same
    have h2 : Sampled s { t with therm := { { t.therm with cond := true, releasing := false } with lastCond := t.now } } := h.same
    split
    · exact h1.thermRequest
    · split
      · next hgrace => exact h1.graceExpire (by simp only [Bool.and_eq_true, decide_eq_true_eq] at hgrace; exact hgrace.2)
      · split
        · split
          · exact h2.enforceStage
          · exact h2
        · exact h1
  · have h1 : Sampled s { t with therm := { t.therm with cond := false } } := h.same
    split
    · exact h1.thermCalm
    · exact h1

/-! ## Shutdown -/

theorem Sampled.setPower (h : Sampled s t) {p : Nat} : Sampled s (t.setPower p) := by
  obtain ⟨r, c, heq⟩ := t.setPower_eq p
  have hregs := t.setPower_regs p
  refine h.trans ⟨fun a ha => hregs a fun hmem => ?_, ?_, ?_⟩
  · have hno : ∀ a ∈ powerRegs, siteReg a = false := by decide
    exact Bool.noConfusion ((hno a hmem).symm.trans ha)
  · rw [heq]
  · rw [heq]

theorem Sampled.toStandby (h : Sampled s t) : Sampled s t.toStandby := by
  unfold State.toStandby
  exact Sampled.setPower (h.calm Calm.refl.calDiscard.satDiscard.domsOffBut.ddrRest.accrue)

theorem Sampled.setNvs (h : Sampled s t) (n : Store) : Sampled s { t with nvs := n } := h.same

theorem Sampled.shutdownNow (h : Sampled s t) {site : Nat} : Sampled s (t.shutdownNow site) := by
  unfold State.shutdownNow
  dsimp only
  have h3 := h.calm (Calm.refl.calAbort.jobEndNow.sensorStop.satDiscard.nvsCut.thermEvent (cause := 1) (site := site)).eventFirst.domsOff
    (u := ((t.calAbort.jobEndNow.sensorStop.satDiscard.nvsCut.thermEvent 1 site).eventFirst.domsOff
      (domOrder.reverse.filter (fun d => (6 ≤ d && d < 18) || 21 ≤ d))))
  generalize ((t.calAbort.jobEndNow.sensorStop.satDiscard.nvsCut.thermEvent 1 site).eventFirst.domsOff
      (domOrder.reverse.filter (fun d => (6 ≤ d && d < 18) || 21 ≤ d))) = v at h3 ⊢
  have h4 : Sampled s { v with nvs := { v.nvs with life := { v.nvs.life with shutdowns := v.nvs.life.shutdowns + 1 } } } := h3.setNvs _
  generalize { v with nvs := { v.nvs with life := { v.nvs.life with shutdowns := v.nvs.life.shutdowns + 1 } } } = w at h4 ⊢
  have h5 : Sampled s ((w.jEvent evTHERMAL_SHUTDOWN (w.shutdownDetail site)).toStandby) := (h4.calm Calm.refl.jEvent).toStandby
  generalize (w.jEvent evTHERMAL_SHUTDOWN (w.shutdownDetail site)).toStandby = x at h5 ⊢
  exact h5.same

theorem Sampled.shutdownRecord (h : Sampled s t) {site : Nat} : Sampled s (t.shutdownRecord site) := by
  have h1 : Sampled s { t with nvs := { t.nvs with life := { t.nvs.life with shutdowns := t.nvs.life.shutdowns + 1 } } } := h.setNvs _
  unfold State.shutdownRecord
  generalize { t with nvs := { t.nvs with life := { t.nvs.life with shutdowns := t.nvs.life.shutdowns + 1 } } } = v at h1 ⊢
  have h2 : Sampled s (v.thermEvent 1 site) := h1.thermEvent
  exact h2.calm Calm.refl.jEvent

theorem Sampled.setPwr (h : Sampled s t) (p : Power) : Sampled s { t with pwr := p } := h.same

theorem Sampled.setStop (h : Sampled s t) (p : Power) (b : Bool) :
    Sampled s { t with pwr := p, therm := { t.therm with stopPend := b } } := h.same

theorem Sampled.thermShutdown (h : Sampled s t) {site : Nat} : Sampled s (t.thermShutdown site) := by
  unfold State.thermShutdown
  dsimp only
  have h1 : Sampled s (((t.setTherm 4).setCause (1, site)).raise E.THERM_SHUTDOWN) := h.setTherm.setCause.raise
  generalize ((t.setTherm 4).setCause (1, site)).raise E.THERM_SHUTDOWN = v at h1 ⊢
  split
  · split
    · exact (h1.setPwr _).shutdownRecord
    · exact h1.setStop _ _
  · split
    · exact (h1.setPwr _).shutdownRecord
    · exact h1.shutdownNow

theorem Sampled.thermAct (h : Sampled s t) : Sampled s t.thermAct := by
  unfold State.thermAct
  split
  · split
    · have hlost : Sampled s (State.memForget (t.domOff dDDR) 0 ddrTop) := h.calm Calm.refl.domOff.memForget
      exact hlost.put
    · exact h
  · split
    · exact h.thermShutdown
    · exact h.thermState

/-! ## What a sample shows beside the sites -/

theorem Sampled.mahAdd (h : Sampled s t) {q : Int} : Sampled s (t.mahAdd q) := by
  unfold State.mahAdd
  exact Sampled.put h.same

theorem Sampled.packSetI (h : Sampled s t) {i : Int} : Sampled s (t.packSetI i) := by
  have hcount : Sampled s t.packCount := by
    unfold State.packCount
    dsimp only
    split
    · exact Sampled.same h.mahAdd
    · exact h.same
  exact hcount.put

theorem Sampled.ilimShow (h : Sampled s t) : Sampled s t.ilimShow := h.put.put

theorem Sampled.foldShow (h : Sampled s t) : Sampled s t.foldShow := .ite h.put.put.packSetI h.put.put

theorem Sampled.pwrShow (h : Sampled s t) : Sampled s t.pwrShow :=
  .ite (h.ilimShow.foldShow.put.put.put.calm Calm.refl.domsOff) h.ilimShow.foldShow.put.put.put

theorem Calm.ddrTemp (h : Calm false s t) {m : Int} : Calm false s (t.ddrTemp m) := by
  have hput : Calm false s (t.put R.MEM_STAT_DDR_TC (ofSigned 8 (m / 10))) := h.put
  unfold State.ddrTemp
  dsimp only
  generalize t.put R.MEM_STAT_DDR_TC (ofSigned 8 (m / 10)) = v at hput ⊢
  split <;> split
  · exact hput
  · exact hput.put.raise
  · exact hput
  · exact hput.put.raise

theorem Sampled.sitesShow (h : Sampled s t) : Sampled s t.sitesShow := by
  have hshow : Sampled s (((t.put R.THERM_MAX_T (ofSigned 16 (t.siteT t.hottest))).put R.THERM_MAX_SITE t.hottest).pwrShow) := h.put.put.pwrShow
  unfold State.sitesShow
  dsimp only
  generalize ((t.put R.THERM_MAX_T (ofSigned 16 (t.siteT t.hottest))).put R.THERM_MAX_SITE t.hottest).pwrShow = v at hshow ⊢
  have htb : Sampled s (v.put R.THERM_STAT_TB (bandFor (v.get R.THERM_STAT_TB) (v.groupMax 0))) := hshow.put
  generalize v.put R.THERM_STAT_TB (bandFor (v.get R.THERM_STAT_TB) (v.groupMax 0)) = w at htb ⊢
  exact htb.calm Calm.refl.ddrTemp

theorem mem_monRegs {m : Mon} {a : Nat} (ha : a ∈ m.regs) : a = m.min.reg ∨ a = m.max.reg ∨ ∃ i, i < 16 ∧ a = (m.bin i).reg := by
  unfold Mon.regs at ha
  simp only [List.mem_cons, List.mem_map, List.mem_range] at ha
  obtain h | h | ⟨i, hi, rfl⟩ := ha
  · exact .inl h
  · exact .inr (.inl h)
  · exact .inr (.inr ⟨i, hi, rfl⟩)

theorem sysMon_notSite {m a : Nat} (hm : m < 19) (ha : a ∈ (sysMon m).regs) : siteReg a = false := by
  rw [Bool.eq_false_iff, Ne, siteReg_iff]
  obtain rfl | rfl | ⟨i, hi, rfl⟩ := mem_monRegs ha <;> simp only [sysMon, Mon.bin, R.SYS_MONm_MIN_VAL, R.SYS_MONm_MAX_VAL, R.SYS_MONm_BINi_COUNT] <;> omega

theorem Sampled.tempMon (h : Sampled s t) : Sampled s t.tempMon := by
  unfold State.tempMon
  dsimp only
  split
  · exact h
  · have h0 : Sampled s { t with sys := { t.sys with tempAt := t.now } } := h.same
    split
    · exact h0
    · refine List.foldlRecOn (motive := Sampled s) _ _ h0 fun v hv g hg => ?_
      obtain ⟨r, heq⟩ := v.monEnter_eq (sysMon (7 + g)) 80 (v.groupMax g)
      have honly := v.monEnter_only (sysMon (7 + g)) 80 (v.groupMax g)
      refine hv.trans ⟨fun a ha => honly.1 a fun hmem => ?_, by rw [heq], by rw [heq]⟩
      exact Bool.noConfusion ((sysMon_notSite (Nat.add_lt_add_left (List.mem_range.mp hg) 7) hmem).symm.trans ha)

end Sys2Proof.Machine
end

/-! PROOFS. Temperature samples, suspect sites, stages and thresholds (R334–R341). -/
section
-- One theorem after the other: the default proofs of the side conditions below are run by the elaborator, which waits for all that stands before.
set_option Elab.async false
namespace Sys2Proof.Machine

variable {s t : State}

/-! ## One site's fresh value -/

theorem toSigned_ofSigned {v : Int} (hlo : -32768 ≤ v) (hhi : v < 32768) : toSigned 16 (ofSigned 16 v) = v := by
  unfold toSigned ofSigned
  norm_num
  split <;> omega

theorem toSigned_byte_bounds (v : Nat) : -128 ≤ toSigned 8 v ∧ toSigned 8 v < 128 := by
  unfold toSigned
  norm_num
  split <;> omega

/-- The registers that a site's fresh value writes. -/
def siteRegs (i : Nat) : List Nat := [(R.THERM_SITEs_T i).reg, (R.THERM_RAWs_RAW i).reg]

/-- The fields of a site's registers, written with these values. -/
def State.siteWords (s : State) (i v raw rate warn thr alarm : Nat) : State :=
  (((((s.put (R.THERM_SITEs_T i) v).put (R.THERM_RAWs_RAW i) raw).put (R.THERM_RAWs_RATE i) rate).put (R.THERM_SITEs_WARN i) warn).put
    (R.THERM_SITEs_THROTTLE i) thr).put (R.THERM_SITEs_RATE i) alarm

/-- A value meets a threshold, or lies less than 2 °C below one that was met (R338). -/
def meets (thr v : Int) (was : Bool) : Bool := decide (thr ≤ v) || (was && decide (thr - 20 ≤ v))

theorem State.storeSite_eq (past : Option (List Int)) (i : Nat) (n : SiteNew) : ∃ raw rate alarm th, s.storeSite past i n =
    { s.siteWords i (ofSigned 16 n.val) raw rate (boolNat (meets (s.thrWarn (siteGroup i)) n.val (s.on (R.THERM_SITEs_WARN i))))
        (boolNat (meets (s.thrThrottle (siteGroup i)) n.val (s.on (R.THERM_SITEs_THROTTLE i)))) alarm with therm := th } :=
  ⟨_, _, _, _, rfl⟩

theorem State.siteWords_regs (i v raw rate warn thr alarm : Nat) : s.regsSame (s.siteWords i v raw rate warn thr alarm) (siteRegs i) := by
  intro a ha
  have hneT : a ≠ (R.THERM_SITEs_T i).reg := fun h => ha (by rw [h]; exact List.mem_cons_self)
  have hneRaw : a ≠ (R.THERM_RAWs_RAW i).reg := fun h => ha (by rw [h]; exact List.mem_cons_of_mem _ List.mem_cons_self)
  unfold State.siteWords
  rw [State.reg_put_other _ _ (f := R.THERM_SITEs_RATE i) hneT, State.reg_put_other _ _ (f := R.THERM_SITEs_THROTTLE i) hneT,
    State.reg_put_other _ _ (f := R.THERM_SITEs_WARN i) hneT, State.reg_put_other _ _ (f := R.THERM_RAWs_RATE i) hneRaw,
    State.reg_put_other _ _ (f := R.THERM_RAWs_RAW i) hneRaw, State.reg_put_other _ _ (f := R.THERM_SITEs_T i) hneT]

theorem State.siteWords_now (i v raw rate warn thr alarm : Nat) : (s.siteWords i v raw rate warn thr alarm).now = s.now := by
  unfold State.siteWords
  rw [State.put_now, State.put_now, State.put_now, State.put_now, State.put_now, State.put_now]

/-- A change of the thermal state alone. -/
theorem State.regsSame_therm (th : Thermal) {L : List Nat} : s.regsSame { s with therm := th } L := .of_regs rfl

theorem State.reg_therm (th : Thermal) (a : Nat) : { s with therm := th }.reg a = s.reg a := rfl

theorem State.now_therm (th : Thermal) : { s with therm := th }.now = s.now := rfl

theorem State.get_therm (th : Thermal) (f : Fld) : { s with therm := th }.get f = s.get f := rfl

theorem State.storeSite_regs (past : Option (List Int)) (i : Nat) (n : SiteNew) : s.regsSame (s.storeSite past i n) (siteRegs i) := by
  obtain ⟨raw, rate, alarm, th, heq⟩ := s.storeSite_eq past i n
  rw [heq]
  intro a ha
  exact (State.regsSame_therm (L := siteRegs i) th a ha).trans (s.siteWords_regs _ _ _ _ _ _ _ a ha)

theorem State.storeSite_now (past : Option (List Int)) (i : Nat) (n : SiteNew) : (s.storeSite past i n).now = s.now := by
  obtain ⟨raw, rate, alarm, th, heq⟩ := s.storeSite_eq past i n
  rw [heq, State.now_therm, State.siteWords_now]

theorem site_notRaw (i : Nat) : (R.THERM_SITEs_T i).reg ≠ (R.THERM_RAWs_RAW i).reg := by
  simp only [R.THERM_SITEs_T, R.THERM_RAWs_RAW]; omega

theorem State.siteWords_get (i v raw rate warn thr alarm : Nat) :
    (s.siteWords i v raw rate warn thr alarm).get (R.THERM_SITEs_T i) = v % 65536 ∧
      (s.siteWords i v raw rate warn thr alarm).get (R.THERM_SITEs_WARN i) = warn % 2 ∧
      (s.siteWords i v raw rate warn thr alarm).get (R.THERM_SITEs_THROTTLE i) = thr % 2 := by
  unfold State.siteWords
  refine ⟨?_, ?_, ?_⟩
  · rw [State.get_put_bits _ _ (by simp only [R.THERM_SITEs_T, R.THERM_SITEs_RATE]; decide),
      State.get_put_bits _ _ (by simp only [R.THERM_SITEs_T, R.THERM_SITEs_THROTTLE]; decide),
      State.get_put_bits _ _ (by simp only [R.THERM_SITEs_T, R.THERM_SITEs_WARN]; decide),
      State.get_put_reg _ _ (f := R.THERM_RAWs_RATE i) (site_notRaw i), State.get_put_reg _ _ (f := R.THERM_RAWs_RAW i) (site_notRaw i)]
    exact State.get_put_same _ (f := R.THERM_SITEs_T i) _ (Nat.le_of_ble_eq_true rfl)
  · rw [State.get_put_bits _ _ (by simp only [R.THERM_SITEs_WARN, R.THERM_SITEs_RATE]; decide),
      State.get_put_bits _ _ (by simp only [R.THERM_SITEs_WARN, R.THERM_SITEs_THROTTLE]; decide)]
    exact State.get_put_same _ (f := R.THERM_SITEs_WARN i) _ (Nat.le_of_ble_eq_true rfl)
  · rw [State.get_put_bits _ _ (by simp only [R.THERM_SITEs_THROTTLE, R.THERM_SITEs_RATE]; decide)]
    exact State.get_put_same _ (f := R.THERM_SITEs_THROTTLE i) _ (Nat.le_of_ble_eq_true rfl)

/-- What a site shows of a value: the value, and WARN and THROTTLE where it meets the thresholds. -/
structure SiteShows (s t : State) (i : Nat) (v : Int) : Prop where
  value : t.siteT i = v
  warn : s.thrWarn (siteGroup i) ≤ v → t.on (R.THERM_SITEs_WARN i) = true
  throttle : s.thrThrottle (siteGroup i) ≤ v → t.on (R.THERM_SITEs_THROTTLE i) = true

theorem State.storeSite_shows (past : Option (List Int)) (i : Nat) (n : SiteNew) (hlo : -32768 ≤ n.val) (hhi : n.val < 32768) :
    SiteShows s (s.storeSite past i n) i n.val := by
  obtain ⟨raw, rate, alarm, th, heq⟩ := s.storeSite_eq past i n
  obtain ⟨hT, hwarn, hthr⟩ := s.siteWords_get i (ofSigned 16 n.val) raw rate
    (boolNat (meets (s.thrWarn (siteGroup i)) n.val (s.on (R.THERM_SITEs_WARN i))))
    (boolNat (meets (s.thrThrottle (siteGroup i)) n.val (s.on (R.THERM_SITEs_THROTTLE i)))) alarm
  have hmeets (thr : Int) (b : Bool) (h : thr ≤ n.val) : boolNat (meets thr n.val b) % 2 = 1 := by
    rw [meets, decide_eq_true h, Bool.true_or]
    rfl
  have hword : ofSigned 16 n.val % 65536 = ofSigned 16 n.val := by
    unfold ofSigned
    norm_num
    omega
  rw [heq]
  refine ⟨?_, fun h => ?_, fun h => ?_⟩
  · rw [State.siteT, State.get_therm, hT, hword, toSigned_ofSigned hlo hhi]
  · rw [State.on, State.get_therm, hwarn, hmeets _ _ h]
    rfl
  · rw [State.on, State.get_therm, hthr, hmeets _ _ h]
    rfl

/-! ## A sample of every site -/

/-- The entries of a sample stored one after the other. -/
def State.storeSites (s : State) (past : Option (List Int)) (xs : List (Nat × SiteNew)) : State :=
  xs.foldl (fun s x => s.storeSite past x.1 x.2) s

/-- Entry by entry, however the entry's parts are taken. -/
theorem State.foldl_storeSites {past : Option (List Int)} {f : State → Nat × SiteNew → State} (hf : ∀ s i n, f s (i, n) = s.storeSite past i n)
    (xs : List (Nat × SiteNew)) : xs.foldl f s = s.storeSites past xs := by
  have hfun : f = fun s x => s.storeSite past x.1 x.2 := funext fun s => funext fun x => hf s x.1 x.2
  rw [hfun, State.storeSites]

theorem State.storeSites_cons (past : Option (List Int)) (x : Nat × SiteNew) (xs : List (Nat × SiteNew)) :
    s.storeSites past (x :: xs) = (s.storeSite past x.1 x.2).storeSites past xs := by
  unfold State.storeSites
  rw [List.foldl_cons]

/-- The thresholds and time stay through a sample's entries. -/
theorem State.storeSites_frame (past : Option (List Int)) (xs : List (Nat × SiteNew)) :
    (∀ a, a < 0x28100 → (s.storeSites past xs).reg a = s.reg a) ∧ (s.storeSites past xs).now = s.now := by
  induction xs generalizing s with
  | nil => exact ⟨fun _ _ => rfl, rfl⟩
  | cons x xs ih =>
    obtain ⟨hregs, hnow⟩ := ih (s := s.storeSite past x.1 x.2)
    rw [State.storeSites_cons]
    refine ⟨fun a ha => (hregs a ha).trans (s.storeSite_regs past x.1 x.2 a ?_), hnow.trans (s.storeSite_now ..)⟩
    clear hregs hnow ih
    simp only [siteRegs, R.THERM_SITEs_T, R.THERM_RAWs_RAW, List.mem_cons, List.not_mem_nil, or_false]
    omega

/-- A site's registers stay through the entries of other sites. -/
theorem State.storeSites_other (past : Option (List Int)) {i : Nat} (hi : i < 72) (xs : List (Nat × SiteNew)) (hxs : ∀ x ∈ xs, x.1 ≠ i) :
    (s.storeSites past xs).reg (R.THERM_SITEs_T i).reg = s.reg (R.THERM_SITEs_T i).reg := by
  induction xs generalizing s with
  | nil => rfl
  | cons x xs ih =>
    have hne : x.1 ≠ i := hxs x List.mem_cons_self
    rw [State.storeSites_cons]
    refine (ih (s := s.storeSite past x.1 x.2) fun y hy => hxs y (List.mem_cons_of_mem _ hy)).trans (s.storeSite_regs past x.1 x.2 _ ?_)
    simp only [siteRegs, R.THERM_SITEs_T, R.THERM_RAWs_RAW, List.mem_cons, List.not_mem_nil, or_false]
    omega

theorem siteGroup_lt (i : Nat) : siteGroup i < 12 := by
  unfold siteGroup
  repeat' split
  all_goals decide

/-- The thresholds that rule are the same where their registers are. -/
theorem State.thr_of_regs {g : Nat} (hg : g < 12) (h : ∀ a, 0x28080 ≤ a → a < 0x28100 → t.reg a = s.reg a) :
    t.thrWarn g = s.thrWarn g ∧ t.thrThrottle g = s.thrThrottle g := by
  have hreg : t.reg (R.THERM_THRg_W0_WARN g).reg = s.reg (R.THERM_THRg_W0_WARN g).reg :=
    h _ (by simp only [R.THERM_THRg_W0_WARN]; omega) (by simp only [R.THERM_THRg_W0_WARN]; omega)
  have hwarn : t.get (R.THERM_THRg_W0_WARN g) = s.get (R.THERM_THRg_W0_WARN g) := by rw [State.get, hreg, State.get]
  have hthr : t.get (R.THERM_THRg_W0_THROTTLE g) = s.get (R.THERM_THRg_W0_THROTTLE g) := congrArg (fun v : Word => bits v.toNat 16 16) hreg
  exact ⟨by rw [State.thrWarn, hwarn, State.thrWarn], by rw [State.thrThrottle, hthr, State.thrThrottle]⟩

/-- What a site shows is what its register and its thresholds say. -/
theorem SiteShows.of_regs {s' : State} {i : Nat} {v : Int} (h : SiteShows s t i v) (hthr : s'.thrWarn (siteGroup i) = s.thrWarn (siteGroup i) ∧
    s'.thrThrottle (siteGroup i) = s.thrThrottle (siteGroup i)) {u : State}
    (hreg : u.reg (R.THERM_SITEs_T i).reg = t.reg (R.THERM_SITEs_T i).reg) : SiteShows s' u i v := by
  have hT : u.get (R.THERM_SITEs_T i) = t.get (R.THERM_SITEs_T i) := congrArg (fun v : Word => bits v.toNat 0 16) hreg
  have hW : u.get (R.THERM_SITEs_WARN i) = t.get (R.THERM_SITEs_WARN i) := congrArg (fun v : Word => bits v.toNat 17 1) hreg
  have hR : u.get (R.THERM_SITEs_THROTTLE i) = t.get (R.THERM_SITEs_THROTTLE i) := congrArg (fun v : Word => bits v.toNat 18 1) hreg
  refine ⟨?_, fun hv => ?_, fun hv => ?_⟩
  · rw [State.siteT, hT]
    exact h.value
  · rw [State.on_of_get hW]
    exact h.warn (hthr.1 ▸ hv)
  · rw [State.on_of_get hR]
    exact h.throttle (hthr.2 ▸ hv)

/-- A sample's entries leave each site with its own. -/
theorem State.storeSites_shows (past : Option (List Int)) (f : Nat → SiteNew) {i : Nat} (hi : i < 72) (hlo : -32768 ≤ (f i).val)
    (hhi : (f i).val < 32768) : SiteShows s (s.storeSites past ((List.range 72).map fun j => (j, f j))) i (f i).val := by
  obtain ⟨pre, post, hsplit⟩ := List.append_of_mem (List.mem_range.mpr hi)
  have hpost : ∀ x ∈ post.map (fun j => (j, f j)), x.1 ≠ i := by
    have hnodup : (pre ++ i :: post).Nodup := hsplit ▸ List.nodup_range
    intro x hx
    obtain ⟨j, hj, rfl⟩ := List.mem_map.mp hx
    rintro rfl
    exact (List.nodup_cons.mp (List.nodup_append.mp hnodup).2.1).1 hj
  obtain ⟨hregs, -⟩ := s.storeSites_frame past (pre.map fun j => (j, f j))
  have heq : s.storeSites past ((List.range 72).map fun j => (j, f j)) =
      (((s.storeSites past (pre.map fun j => (j, f j))).storeSite past i (f i)).storeSites past (post.map fun j => (j, f j))) := by
    rw [hsplit]
    simp only [State.storeSites, List.map_append, List.map_cons, List.foldl_append, List.foldl_cons]
  rw [heq]
  obtain ⟨hwarn, hthr⟩ := State.thr_of_regs (siteGroup_lt i) fun a _ ha => hregs a ha
  exact (State.storeSite_shows past i (f i) hlo hhi).of_regs ⟨hwarn.symm, hthr.symm⟩ (State.storeSites_other past hi _ hpost)

/-- A trusted site's value in force is its trimmed reading. -/
theorem State.judgeSite_val {raw own : List Int} {i : Nat} (hsus : s.siteSuspect i = false) (hin : outOfRange (raw.getD i 0) = false) :
    (s.judgeSite raw own i).val = own.getD i 0 := by
  unfold State.judgeSite
  rw [hsus, hin]
  dsimp only
  split <;> rfl

/-- The trimmed readings of a sample. -/
def State.trimmed (s : State) (raw : List Int) : List Int :=
  (List.range 72).map fun i => raw.getD i 0 + toSigned 8 (s.fuseByte (0xA40 + i))

theorem State.trimmed_getD (raw : List Int) {i : Nat} (hi : i < 72) :
    (s.trimmed raw).getD i 0 = raw.getD i 0 + toSigned 8 (s.fuseByte (0xA40 + i)) := by
  simp [State.trimmed, hi]

theorem State.sitesRead_eq (raw : List Int) : ∃ past hist, s.sitesRead raw =
    { s.storeSites past ((List.range 72).map fun i => (i, s.judgeSite raw (s.trimmed raw) i)) with
      therm := { (s.storeSites past ((List.range 72).map fun i => (i, s.judgeSite raw (s.trimmed raw) i))).therm with seen := true, hist := hist } } := by
  unfold State.sitesRead State.trimmed
  dsimp only
  generalize Option.map Prod.snd _ = past
  refine ⟨past, ?_⟩
  rw [State.foldl_storeSites (past := past) fun _ _ _ => rfl]
  generalize s.storeSites past _ = u
  exact ⟨_, rfl⟩

theorem outOfRange_false {v : Int} (hlo : -400 < v) (hhi : v < 1500) : outOfRange v = false := by
  rw [outOfRange, decide_eq_false (by omega), decide_eq_false (by omega), Bool.or_false]

/-- A sample leaves a trusted site with its trimmed reading, and the thresholds as they are. -/
theorem State.sitesRead_shows (raw : List Int) {i : Nat} (hi : i < 72) (hsus : s.siteSuspect i = false) (hlo : -400 < raw.getD i 0)
    (hhi : raw.getD i 0 < 1500) : SiteShows s (s.sitesRead raw) i (raw.getD i 0 + toSigned 8 (s.fuseByte (0xA40 + i))) ∧
      (∀ a, a < 0x28100 → (s.sitesRead raw).reg a = s.reg a) ∧ (s.sitesRead raw).now = s.now ∧ (s.sitesRead raw).therm.seen = true := by
  obtain ⟨past, hist, heq⟩ := s.sitesRead_eq raw
  obtain ⟨hregs, hnow⟩ := s.storeSites_frame past ((List.range 72).map fun i => (i, s.judgeSite raw (s.trimmed raw) i))
  have hval : (s.judgeSite raw (s.trimmed raw) i).val = raw.getD i 0 + toSigned 8 (s.fuseByte (0xA40 + i)) :=
    (s.judgeSite_val hsus (outOfRange_false hlo hhi)).trans (s.trimmed_getD raw hi)
  obtain ⟨htlo, hthi⟩ := toSigned_byte_bounds (s.fuseByte (0xA40 + i))
  have hshows := s.storeSites_shows past (fun j => s.judgeSite raw (s.trimmed raw) j) hi (by rw [hval]; omega) (by rw [hval]; omega)
  rw [hval] at hshows
  rw [heq]
  generalize s.storeSites past _ = u at hregs hnow hshows
  exact ⟨hshows.of_regs ⟨rfl, rfl⟩ (State.reg_therm _ _), fun a ha => (State.reg_therm _ a).trans (hregs a ha), (State.now_therm _).trans hnow, rfl⟩

theorem State.thermalSample_sampled (raw : List Int) (u : Nat) (hoff : s.pwr.off = false) : Sampled ((s.at u).sitesRead raw) (s.thermalSample raw u) := by
  have hoff' : ¬ s.pwr.off = true := by rw [hoff]; exact Bool.false_ne_true
  unfold State.thermalSample
  rw [if_neg hoff']
  generalize (s.at u).sitesRead raw = v
  exact (Sampled.refl.sitesShow.put (f := R.THERM_STAT_RESUME_OK)).tempMon.thermAct

end Sys2Proof.Machine
end

/-! PROOFS. O52: sites and thermal stages (R334–R341). -/
section
-- One theorem after the other: the default proofs of the side conditions below are run by the elaborator, which waits for all that stands before.
set_option Elab.async false
namespace Sys2Proof.Machine

section
variable {s : State}

/-! ## Suspect sites -/

theorem State.selfClass_therm : s.selfClass.therm = s.therm := by
  unfold State.selfClass
  refine State.ite_of (P := fun t : State => t.therm = s.therm) ?_ (State.put_therm ..)
  rw [State.raise_therm, State.put_therm, State.put_therm]

theorem State.selfClass_item (i : Nat) : s.selfClass.get ⟨R.SYS_SELFTEST_FAIL.reg, i, 1⟩ = s.get ⟨R.SYS_SELFTEST_FAIL.reg, i, 1⟩ := by
  have hne : R.SYS_SELFTEST_FAIL.reg ≠ R.SYS_STAT_FATAL.reg := by decide
  have hne' : R.SYS_SELFTEST_FAIL.reg ∉ toldRegs E.SYS_FATAL := by decide
  unfold State.selfClass
  refine State.ite_of (P := fun t : State => t.get ⟨R.SYS_SELFTEST_FAIL.reg, i, 1⟩ = s.get ⟨R.SYS_SELFTEST_FAIL.reg, i, 1⟩) ?_
    (s.get_put_reg _ hne)
  rw [State.get_raise_other _ (f := ⟨R.SYS_SELFTEST_FAIL.reg, i, 1⟩) hne', 
    State.get_put_reg _ (f := R.SYS_STAT_FATAL) (g := ⟨R.SYS_SELFTEST_FAIL.reg, i, 1⟩) _ hne,
    State.get_put_reg _ (f := R.SYS_STAT_DEGRADED) (g := ⟨R.SYS_SELFTEST_FAIL.reg, i, 1⟩) _ hne]

theorem State.selfLive_only : only s s.selfLive selfRegs :=
  only_trans (only_trans (only_put _ (by simp [selfRegs])) (only_put _ (by simp [selfRegs]))) (State.selfClass_only _)

theorem State.selfLive_therm : s.selfLive.therm = s.therm := by
  unfold State.selfLive
  exact State.selfClass_therm.trans ((State.put_therm ..).trans (State.put_therm ..))

theorem State.selfLive_item : s.selfLive.on ⟨R.SYS_SELFTEST_FAIL.reg, 9, 1⟩ = (List.range 72).any s.siteSuspect := by
  have h9 (v : Nat) : (s.put ⟨R.SYS_SELFTEST_FAIL.reg, 9, 1⟩ v).get ⟨R.SYS_SELFTEST_FAIL.reg, 9, 1⟩ = v % 2 :=
    s.get_put_same v (Nat.le_of_ble_eq_true rfl)
  have h10 (u : State) (v : Nat) : (u.put ⟨R.SYS_SELFTEST_FAIL.reg, 10, 1⟩ v).get ⟨R.SYS_SELFTEST_FAIL.reg, 9, 1⟩ =
      u.get ⟨R.SYS_SELFTEST_FAIL.reg, 9, 1⟩ := u.get_put_bits _ (by decide)
  unfold State.selfLive
  rw [State.on, State.selfClass_item, h10, h9]
  cases (List.range 72).any s.siteSuspect <;> rfl

/-- The registers that a site's mark shows in. -/
def markRegs (i : Nat) : List Nat := [(R.THERM_SITEs_SUSPECT i).reg, (R.THERM_SUSPECT_SUMw_SITE (i / 32)).reg]

theorem State.markSite_only (i : Nat) (b : Bool) : only s (s.markSite i b) (markRegs i) :=
  only_trans (only_put _ List.mem_cons_self) (only_put _ (List.mem_cons_of_mem _ List.mem_cons_self))

theorem State.markSite_therm (i : Nat) (b : Bool) : (s.markSite i b).therm = s.therm := (State.put_therm ..).trans (State.put_therm ..)

theorem mark_notSum {i : Nat} (hi : i < 72) : (R.THERM_SITEs_SUSPECT i).reg ≠ (R.THERM_SUSPECT_SUMw_SITE (i / 32)).reg := by
  simp only [R.THERM_SITEs_SUSPECT, R.THERM_SUSPECT_SUMw_SITE]; omega

theorem State.markSite_shows {i : Nat} (hi : i < 72) (b : Bool) : (s.markSite i b).siteSuspect i = b ∧
    (s.markSite i b).on ⟨(R.THERM_SUSPECT_SUMw_SITE (i / 32)).reg, i % 32, 1⟩ = b := by
  have hsite : (s.markSite i b).get (R.THERM_SITEs_SUSPECT i) = boolNat b := by
    unfold State.markSite
    rw [State.get_put_reg _ _ (f := ⟨(R.THERM_SUSPECT_SUMw_SITE (i / 32)).reg, i % 32, 1⟩) (mark_notSum hi)]
    exact State.get_put_fits _ (f := R.THERM_SITEs_SUSPECT i) (Nat.le_of_ble_eq_true rfl) (boolNat_lt_two b)
  have hsum : (s.markSite i b).get ⟨(R.THERM_SUSPECT_SUMw_SITE (i / 32)).reg, i % 32, 1⟩ = boolNat b :=
    State.get_put_fits _ (f := ⟨(R.THERM_SUSPECT_SUMw_SITE (i / 32)).reg, i % 32, 1⟩) (Nat.succ_le_of_lt (Nat.mod_lt _ (by decide)))
      (boolNat_lt_two b)
  rw [State.siteSuspect, State.on, State.on, hsite, hsum]
  cases b <;> exact ⟨rfl, rfl⟩

/-- The mark's registers and the self-test's, and those of telling a suspect site, are apart. -/
theorem markRegs_apart {i a : Nat} (hi : i < 72) (ha : a ∈ markRegs i) : a ∉ selfRegs ∧ a ∉ toldRegs E.THERM_SUSPECT := by
  have hself : selfRegs = [0x2C04C, 0x2C040, 0x2C010, 0x2C020] := rfl
  have htold : toldRegs E.THERM_SUSPECT = [0x28010, 0x28024] := rfl
  rw [hself, htold]
  simp only [markRegs, R.THERM_SITEs_SUSPECT, R.THERM_SUSPECT_SUMw_SITE, List.mem_cons, List.not_mem_nil, or_false] at ha ⊢
  omega

/-- What the live self-test items leave of a site's mark. -/
theorem State.selfLive_mark {i : Nat} (hi : i < 72) : s.selfLive.siteSuspect i = s.siteSuspect i ∧
    s.selfLive.on ⟨(R.THERM_SUSPECT_SUMw_SITE (i / 32)).reg, i % 32, 1⟩ = s.on ⟨(R.THERM_SUSPECT_SUMw_SITE (i / 32)).reg, i % 32, 1⟩ :=
  ⟨State.on_of_get (State.get_of_only s.selfLive_only (markRegs_apart hi List.mem_cons_self).1),
    State.on_of_get (State.get_of_only s.selfLive_only (f := ⟨(R.THERM_SUSPECT_SUMw_SITE (i / 32)).reg, i % 32, 1⟩)
      (markRegs_apart hi (List.mem_cons_of_mem _ List.mem_cons_self)).1)⟩

theorem siteSuspect_shown (i : Fin 72) (hdue : i.val ∈ s.therm.dueSus) (hsus : s.siteSuspect i.val = false) :
    goesOn (exec (.siteSuspect i) s) fun t => t.siteSuspect i.val = true ∧ i.val ∉ t.therm.dueSus ∧
      t.on ⟨(R.THERM_SUSPECT_SUMw_SITE (i.val / 32)).reg, i.val % 32, 1⟩ = true ∧ t.get (intRawBit E.THERM_SUSPECT) = 1 ∧
      t.on ⟨R.SYS_SELFTEST_FAIL.reg, 9, 1⟩ = true := by
  set v : State := { s with therm := { s.therm with dueSus := setDel s.therm.dueSus i.val, dev := mapSet 0 s.therm.dev i.val 0 } } with hv
  have hdel : v.therm.dueSus = setDel s.therm.dueSus i.val := rfl
  have hexec : execSiteSuspect i s = .next ((v.markSite i.val true).raise E.THERM_SUSPECT).selfLive := by
    unfold execSiteSuspect
    rw [List.contains_iff_mem.mpr hdue, hsus]
    rfl
  refine ⟨_, hexec, ?_⟩
  clear_value v
  obtain ⟨hsite, hsum⟩ := State.markSite_shows (s := v) i.isLt true
  have hall (f : Fld) (hf : f.reg ∈ markRegs i.val) : ((v.markSite i.val true).raise E.THERM_SUSPECT).get f = (v.markSite i.val true).get f :=
    State.get_raise_other _ (markRegs_apart i.isLt hf).2
  have hraised : ((v.markSite i.val true).raise E.THERM_SUSPECT).siteSuspect i.val = true :=
    (State.on_of_get (hall (R.THERM_SITEs_SUSPECT i.val) List.mem_cons_self)).trans hsite
  refine ⟨(State.selfLive_mark i.isLt).1.trans hraised, ?_, (State.selfLive_mark i.isLt).2.trans ?_, ?_, ?_⟩
  · rw [State.selfLive_therm, State.raise_therm, State.markSite_therm, hdel]
    exact not_mem_setDel _ _
  · exact (State.on_of_get (hall ⟨(R.THERM_SUSPECT_SUMw_SITE (i.val / 32)).reg, i.val % 32, 1⟩ (List.mem_cons_of_mem _ List.mem_cons_self))).trans hsum
  · exact (State.get_of_only (State.selfLive_only) (by decide)).trans (State.get_raise _ _ (by decide))
  · rw [State.selfLive_item]
    exact List.any_eq_true.mpr ⟨i.val, List.mem_range.mpr i.isLt, hraised⟩

theorem siteUnsuspect_shown (i : Fin 72) (hdue : i.val ∈ s.therm.dueOk) (hsus : s.siteSuspect i.val = true) :
    goesOn (exec (.siteUnsuspect i) s) fun t => t.siteSuspect i.val = false ∧ i.val ∉ t.therm.dueOk ∧
      t.on ⟨(R.THERM_SUSPECT_SUMw_SITE (i.val / 32)).reg, i.val % 32, 1⟩ = false ∧ ∀ a, t.byte a = s.byte a := by
  set v : State := { s with therm := { s.therm with dueOk := setDel s.therm.dueOk i.val, agree := mapSet 0 s.therm.agree i.val 0 } } with hv
  have hdel : v.therm.dueOk = setDel s.therm.dueOk i.val := rfl
  have hbyte (a : Nat) : v.byte a = s.byte a := rfl
  have hexec : execSiteUnsuspect i s = .next (v.markSite i.val false).selfLive := by
    unfold execSiteUnsuspect
    rw [List.contains_iff_mem.mpr hdue, hsus]
    rfl
  refine ⟨_, hexec, ?_⟩
  clear_value v
  obtain ⟨hsite, hsum⟩ := State.markSite_shows (s := v) i.isLt false
  obtain ⟨-, -, hmark, -⟩ := v.markSite_only i.val false
  obtain ⟨-, -, hlive, -⟩ := (v.markSite i.val false).selfLive_only
  refine ⟨(State.selfLive_mark i.isLt).1.trans hsite, ?_, (State.selfLive_mark i.isLt).2.trans hsum,
    fun a => (hlive a).trans ((hmark a).trans (hbyte a))⟩
  rw [State.selfLive_therm, State.markSite_therm, hdel]
  exact not_mem_setDel _ _

/-! ## Stages -/

theorem State.event_only (code source : Nat) (detail : List Nat) : only s (s.event code source detail) (toldRegs E.RIDGE_EVT_DROP) :=
  only_ite (only_of_eq rfl rfl rfl rfl rfl) (only_trans (only_of_eq rfl rfl rfl rfl rfl) (only_raise (List.Subset.refl _)))

theorem State.thermEvent_only (cause site : Nat) : only s (s.thermEvent cause site) (toldRegs E.RIDGE_EVT_DROP) := s.event_only _ _ _

theorem State.capTherm_only : only s s.capTherm [R.TICK_CAP_THERM_HZ.reg] := by
  unfold State.capTherm
  split
  · exact only_put _ List.mem_cons_self
  · exact only_put _ List.mem_cons_self

theorem State.capTherm_now : s.capTherm.now = s.now := by
  unfold State.capTherm
  split <;> exact State.put_now ..

theorem State.capTherm_therm : s.capTherm.therm = s.therm := by
  unfold State.capTherm
  split <;> exact State.put_therm ..

/-- The stage's fields: its number, the courses' clock steps and the tick cap. -/
def State.stageShow (s : State) (k : Nat) : State := ((s.put R.THERM_STAT_STAGE k).put R.ENGG_CLK_THERM_STEP (stageSteps k)).capTherm

theorem State.stageShow_frame (k : Nat) : (s.stageShow k).get R.THERM_STAT_STAGE = k % 8 ∧
    (s.stageShow k).get R.THERM_STAT_STATE = s.get R.THERM_STAT_STATE ∧ (s.stageShow k).now = s.now ∧ (s.stageShow k).therm = s.therm ∧
    ∀ a, (s.stageShow k).byte a = s.byte a := by
  set v := (s.put R.THERM_STAT_STAGE k).put R.ENGG_CLK_THERM_STEP (stageSteps k) with hv
  obtain ⟨hregs, -, hbyte, -⟩ := v.capTherm_only
  have hget {f : Fld} (hf : f.reg = R.THERM_STAT_STAGE.reg) : (s.stageShow k).get f = (s.put R.THERM_STAT_STAGE k).get f :=
    (State.get_of_regsSame hregs (by rw [hf]; decide)).trans (State.get_put_reg _ _ (by rw [hf]; decide))
  refine ⟨(hget rfl).trans (s.get_put_same k (by decide)), (hget (f := R.THERM_STAT_STATE) rfl).trans (s.get_put_bits k (by decide)), ?_, ?_,
    fun a => (hbyte a).trans (State.byte_of_mem ((State.put_mem ..).trans (State.put_mem ..)) a)⟩
  · rw [State.stageShow, State.capTherm_now, State.put_now, State.put_now]
  · rw [State.stageShow, State.capTherm_therm, State.put_therm, State.put_therm]

/-- What the next stage shows. -/
theorem State.enforceStage_shows (c : Nat × Nat) (hk : s.get R.THERM_STAT_STAGE < 7) :
    (s.enforceStage c).get R.THERM_STAT_STAGE = s.get R.THERM_STAT_STAGE + 1 ∧
    (s.enforceStage c).get R.THERM_STAT_STATE = s.get R.THERM_STAT_STATE ∧ (s.enforceStage c).now = s.now ∧
    (s.enforceStage c).therm.caps.length = s.therm.caps.length + 1 ∧ (s.enforceStage c).get (intRawBit E.THERM_ENFORCE) = 1 ∧
    ∀ a, (s.enforceStage c).byte a = s.byte a := by
  set v : State := { s with therm := { s.therm with caps := 7 * s.fCap / 8 :: s.therm.caps, lastStage := s.now, releasing := false } } with hv
  have hcaps : v.therm.caps.length = s.therm.caps.length + 1 := rfl
  have hstate : v.get R.THERM_STAT_STATE = s.get R.THERM_STAT_STATE := State.get_therm ..
  have hnow : v.now = s.now := State.now_therm ..
  have hbyte (a : Nat) : v.byte a = s.byte a := rfl
  have heq : s.enforceStage c = ((v.stageShow (s.get R.THERM_STAT_STAGE + 1)).raise E.THERM_ENFORCE).thermEvent c.1 c.2 := by
    unfold State.enforceStage
    exact if_neg (by omega)
  obtain ⟨hstage, hstate', hnow', htherm, hbyte'⟩ := v.stageShow_frame (s.get R.THERM_STAT_STAGE + 1)
  rw [heq]
  generalize v.stageShow (s.get R.THERM_STAT_STAGE + 1) = w at hstage hstate' hnow' htherm hbyte' ⊢
  have hcalm : Calm false (w.raise E.THERM_ENFORCE) ((w.raise E.THERM_ENFORCE).thermEvent c.1 c.2) := Calm.refl.thermEvent
  have hget {f : Fld} (hf : guarded false f.reg = true) (hraise : f.reg ∉ toldRegs E.THERM_ENFORCE) :
      ((w.raise E.THERM_ENFORCE).thermEvent c.1 c.2).get f = w.get f := (hcalm.get hf).trans (State.get_raise_other _ hraise)
  refine ⟨?_, ?_, ?_, ?_, ?_, fun a => ?_⟩
  · rw [hget (by decide) (by decide), hstage, Nat.mod_eq_of_lt (by omega)]
  · rw [hget (by decide) (by decide), hstate', hstate]
  · rw [hcalm.now, State.raise_now, hnow', hnow]
  · rw [hcalm.therm, State.raise_therm, htherm, hcaps]
  · exact (hcalm.get (by decide)).trans (State.get_raise _ _ (by decide))
  · obtain ⟨-, -, hevent, -⟩ := (w.raise E.THERM_ENFORCE).thermEvent_only c.1 c.2
    rw [hevent, State.byte_of_mem (State.raise_mem ..), hbyte', hbyte]

theorem State.setTherm_shows (v : Nat) : (s.setTherm v).get R.THERM_STAT_STATE = v % 8 ∧
    (s.setTherm v).get R.THERM_STAT_STAGE = s.get R.THERM_STAT_STAGE ∧ (s.setTherm v).now = s.now ∧ (s.setTherm v).therm = s.therm ∧
    (s.setTherm v).mem = s.mem := by
  obtain ⟨y, m, hset⟩ := State.settleFrom_eq (s := s) (s.put R.THERM_STAT_STATE v)
  have hset' : s.setTherm v = { s.put R.THERM_STAT_STATE v with sys := y, mb := m } := hset
  have hget := s.get_put_same (f := R.THERM_STAT_STATE) v (by decide)
  have hstage : (s.put R.THERM_STAT_STATE v).get R.THERM_STAT_STAGE = s.get R.THERM_STAT_STAGE := s.get_put_bits v (by decide)
  have hnow : (s.put R.THERM_STAT_STATE v).now = s.now := State.put_now ..
  have htherm : (s.put R.THERM_STAT_STATE v).therm = s.therm := State.put_therm ..
  have hmem : (s.put R.THERM_STAT_STATE v).mem = s.mem := State.put_mem ..
  rw [hset']
  generalize s.put R.THERM_STAT_STATE v = u at hget hstage hnow htherm hmem ⊢
  exact ⟨hget, hstage, hnow, htherm, hmem⟩

theorem graceExpire_shown (c : Nat × Nat) (hstate : s.get R.THERM_STAT_STATE = 2) (hoff : s.pwr.off = false) (hcause : s.throttleCause = some c)
    (hstage : s.get R.THERM_STAT_STAGE < 7) : goesOn (exec .graceExpire s) fun t => t.get R.THERM_STAT_STATE = 3 ∧
      t.get R.THERM_STAT_STAGE = s.get R.THERM_STAT_STAGE + 1 ∧ t.now = max s.now s.therm.graceEnd ∧
      t.therm.caps.length = s.therm.caps.length + 1 ∧ t.get (intRawBit E.THERM_ENFORCE) = 1 ∧ ∀ a, t.byte a = s.byte a := by
  set v : State := { s.at s.therm.graceEnd with therm := { (s.at s.therm.graceEnd).therm with lastCond := (s.at s.therm.graceEnd).now } } with hv
  have hnow : v.now = max s.now s.therm.graceEnd := rfl
  have hcaps : v.therm.caps = s.therm.caps := rfl
  have hget (f : Fld) : v.get f = s.get f := rfl
  have hbyte (a : Nat) : v.byte a = s.byte a := rfl
  have hexec : execGraceExpire s = .next ((v.setTherm 3).enforceStage c) := by
    unfold execGraceExpire State.graceExpire
    rw [if_neg (by simp [hstate, hoff]), hcause]
  refine ⟨_, hexec, ?_⟩
  clear_value v
  obtain ⟨hthree, hstage', hnow', htherm, hmem⟩ := v.setTherm_shows 3
  rw [hget] at hstage'
  generalize v.setTherm 3 = w at hthree hstage' hnow' htherm hmem ⊢
  obtain ⟨h1, h2, h3, h4, h5, h6⟩ := State.enforceStage_shows (s := w) c (by rw [hstage']; exact hstage)
  refine ⟨h2.trans hthree, h1.trans (by rw [hstage']), ?_, ?_, h5, fun a => ?_⟩
  · rw [h3, hnow', hnow]
  · rw [h4, htherm, hcaps]
  · rw [h6, State.byte_of_mem hmem, hbyte]

theorem State.raise_get_raw {e e' : Ev} (h : s.get (intRawBit e) = 1) (he : e'.bit < 32 := by decide)
    (hc : ∀ b, e'.cnt = some b → b < 16 := by decide) : (s.raise e').get (intRawBit e) = 1 := State.get_intRawBit_raise _ he hc h

/-- NORMAL or WARN, as the sites' marks say. -/
theorem State.thermCalm_shows (hstate : s.get R.THERM_STAT_STATE = 3) : s.thermCalm.get R.THERM_STAT_STATE ≤ 1 ∧
    s.thermCalm.get R.THERM_STAT_STAGE = s.get R.THERM_STAT_STAGE ∧ s.thermCalm.now = s.now ∧ s.thermCalm.therm = s.therm ∧
    (s.get (intRawBit E.THERM_RELEASE) = 1 → s.thermCalm.get (intRawBit E.THERM_RELEASE) = 1) := by
  set w := (List.range 72).any (fun i => s.on (R.THERM_SITEs_WARN i)) with hw
  have hlt := boolNat_lt_two w
  obtain ⟨hnew, hstage, hnow, htherm, -⟩ := s.setTherm_shows (boolNat w)
  have hraw : (s.setTherm (boolNat w)).get (intRawBit E.THERM_RELEASE) = s.get (intRawBit E.THERM_RELEASE) := by
    have hregs := State.get_of_only (State.settleFrom_only (s := s) (s.put R.THERM_STAT_STATE (boolNat w)) (L := [])) (f := intRawBit E.THERM_RELEASE) (by decide)
    exact hregs.trans (s.get_put_reg _ (by decide))
  have heq : s.thermCalm = (if w then (s.setTherm (boolNat w)).raise E.THERM_WARN else s.setTherm (boolNat w)).thermEvent 0
      (if w then (s.setTherm (boolNat w)).raise E.THERM_WARN else s.setTherm (boolNat w)).hottest := by
    unfold State.thermCalm
    exact if_neg (fun h => absurd (hstate.symm.trans h) (Nat.ne_of_gt (Nat.lt_trans hlt (by decide))))
  rw [heq]
  clear_value w
  generalize s.setTherm (boolNat w) = u at hnew hstage hnow htherm hraw ⊢
  obtain ⟨v, hv, hvs, hvg, hvn, hvt, hvr⟩ : ∃ v, (if w then u.raise E.THERM_WARN else u) = v ∧ v.get R.THERM_STAT_STATE = u.get R.THERM_STAT_STATE ∧
      v.get R.THERM_STAT_STAGE = u.get R.THERM_STAT_STAGE ∧ v.now = u.now ∧ v.therm = u.therm ∧
      (u.get (intRawBit E.THERM_RELEASE) = 1 → v.get (intRawBit E.THERM_RELEASE) = 1) := by
    cases w
    · exact ⟨_, rfl, rfl, rfl, rfl, rfl, id⟩
    · exact ⟨_, rfl, State.get_raise_other _ (by decide), State.get_raise_other _ (by decide), State.raise_now .., State.raise_therm ..,
        fun h => State.raise_get_raw h⟩
  rw [hv]
  have hcalm : Calm false v (v.thermEvent 0 v.hottest) := Calm.refl.thermEvent
  refine ⟨?_, ?_, ?_, ?_, fun h => ?_⟩
  · rw [hcalm.get, hvs, hnew, Nat.mod_eq_of_lt (Nat.lt_trans hlt (by decide))]
    exact Nat.le_of_lt_succ hlt
  · rw [hcalm.get, hvg, hstage]
  · rw [hcalm.now, hvn, hnow]
  · rw [hcalm.therm, hvt, htherm]
  · rw [hcalm.get]
    exact hvr (hraw.trans h)

/-- The throttle stage begins to be released. -/
def State.releaseBegin (s : State) : State :=
  { s with therm := { s.therm with caps := s.therm.caps.drop 1, lastStage := s.now, releasing := true } }

/-- The last stage has been released. -/
def State.releaseEnd (s : State) : State := { s with therm := { s.therm with releasing := false } }

/-- When the next stage is released. -/
def State.releaseDue (s : State) : Nat :=
  if s.therm.releasing then s.therm.lastStage + s.enfStep * secClk else s.therm.lastCond + s.holdSec * secClk

/-- A release from stage `k + 1` to stage `k`, which `s` has begun. -/
def State.releaseTo (s : State) (k : Nat) : State :=
  let w := (s.stageShow k).raise E.THERM_RELEASE
  if k = 0 then w.releaseEnd.thermCalm else w.thermEvent 0 w.hottest

theorem State.thermalRelease_eq (hstate : s.get R.THERM_STAT_STATE = 3) (hcond : s.therm.cond = false) (hoff : s.pwr.off = false) :
    s.thermalRelease = (s.at s.releaseDue).releaseBegin.releaseTo (s.get R.THERM_STAT_STAGE - 1) := by
  unfold State.thermalRelease
  exact if_neg (by simp [hstate, hcond, hoff])

/-- What a release shows. -/
theorem State.releaseTo_shows {k : Nat} (hk : k < 7) (hstate : s.get R.THERM_STAT_STATE = 3) : (s.releaseTo k).get R.THERM_STAT_STAGE = k ∧
    (s.releaseTo k).therm.caps = s.therm.caps ∧ (s.releaseTo k).get (intRawBit E.THERM_RELEASE) = 1 ∧
    (k ≠ 0 → (s.releaseTo k).get R.THERM_STAT_STATE = 3) ∧ (k = 0 → (s.releaseTo k).get R.THERM_STAT_STATE ≤ 1) ∧
    (s.releaseTo k).now = s.now := by
  obtain ⟨hstage, hst, hnow, htherm, -⟩ := s.stageShow_frame k
  unfold State.releaseTo
  generalize s.stageShow k = w at hstage hst hnow htherm ⊢
  have hrstage : (w.raise E.THERM_RELEASE).get R.THERM_STAT_STAGE = k := by
    rw [State.get_raise_other _ (by decide), hstage, Nat.mod_eq_of_lt (by omega)]
  have hrstate : (w.raise E.THERM_RELEASE).get R.THERM_STAT_STATE = 3 := by
    rw [State.get_raise_other _ (by decide), hst, hstate]
  have hrnow : (w.raise E.THERM_RELEASE).now = s.now := by rw [State.raise_now, hnow]
  have hrcaps : (w.raise E.THERM_RELEASE).therm.caps = s.therm.caps := by rw [State.raise_therm, htherm]
  have hrraw : (w.raise E.THERM_RELEASE).get (intRawBit E.THERM_RELEASE) = 1 := State.get_raise _ _ (by decide)
  generalize w.raise E.THERM_RELEASE = x at hrstage hrstate hrnow hrcaps hrraw ⊢
  by_cases hzero : k = 0
  · have hy (f : Fld) : x.releaseEnd.get f = x.get f := State.get_therm ..
    have hynow : x.releaseEnd.now = x.now := State.now_therm ..
    have hycaps : x.releaseEnd.therm.caps = x.therm.caps := rfl
    rw [if_pos hzero]
    generalize x.releaseEnd = y at hy hynow hycaps ⊢
    obtain ⟨hle, hg, hn, ht, hr⟩ := State.thermCalm_shows (s := y) ((hy _).trans hrstate)
    refine ⟨?_, ?_, hr ((hy _).trans hrraw), fun h => absurd hzero h, fun _ => hle, ?_⟩
    · rw [hg, hy, hrstage]
    · rw [ht, hycaps, hrcaps]
    · rw [hn, hynow, hrnow]
  · have hcalm : Calm false x (x.thermEvent 0 x.hottest) := Calm.refl.thermEvent
    rw [if_neg hzero]
    refine ⟨hcalm.get.trans hrstage, ?_, hcalm.get.trans hrraw, fun _ => hcalm.get.trans hrstate, fun h => absurd h hzero, ?_⟩
    · rw [hcalm.therm, hrcaps]
    · rw [hcalm.now, hrnow]

theorem thermalRelease_shown (hstate : s.get R.THERM_STAT_STATE = 3) (hcond : s.therm.cond = false) (hoff : s.pwr.off = false) :
    goesOn (exec .thermalRelease s) fun t => t.get R.THERM_STAT_STAGE = s.get R.THERM_STAT_STAGE - 1 ∧
      t.therm.caps = s.therm.caps.drop 1 ∧ t.get (intRawBit E.THERM_RELEASE) = 1 ∧
      (1 < s.get R.THERM_STAT_STAGE → t.get R.THERM_STAT_STATE = 3) ∧ (s.get R.THERM_STAT_STAGE ≤ 1 → t.get R.THERM_STAT_STATE ≤ 1) ∧
      t.now = max s.now (if s.therm.releasing then s.therm.lastStage + s.enfStep * secClk else s.therm.lastCond + s.holdSec * secClk) := by
  have hlt : s.get R.THERM_STAT_STAGE < 8 := State.get_lt ..
  have hexec : exec .thermalRelease s = .next ((s.at s.releaseDue).releaseBegin.releaseTo (s.get R.THERM_STAT_STAGE - 1)) := by
    rw [← State.thermalRelease_eq hstate hcond hoff]
    rfl
  have hnow : (s.at s.releaseDue).releaseBegin.now = max s.now s.releaseDue := rfl
  have hcaps : (s.at s.releaseDue).releaseBegin.therm.caps = s.therm.caps.drop 1 := rfl
  have hget : (s.at s.releaseDue).releaseBegin.get R.THERM_STAT_STATE = s.get R.THERM_STAT_STATE := rfl
  refine ⟨_, hexec, ?_⟩
  generalize (s.at s.releaseDue).releaseBegin = v at hnow hcaps hget ⊢
  obtain ⟨h1, h2, h3, h4, h5, h6⟩ := State.releaseTo_shows (s := v) (k := s.get R.THERM_STAT_STAGE - 1) (by omega) (hget.trans hstate)
  exact ⟨h1, h2.trans hcaps, h3, fun h => h4 (by omega), fun h => h5 (by omega), h6.trans hnow⟩

/-! ## Thresholds -/

/-- Both halves of a word. -/
theorem State.put_halves {lo up : Fld} (v : Nat) (hv : v < 2 ^ 32) (hreg : up.reg = lo.reg) (hlo : lo.lo = 0 ∧ lo.w = 16)
    (hup : up.lo = 16 ∧ up.w = 16) : ((s.put lo v).put up (v / 65536)).get lo = v % 65536 ∧
      ((s.put lo v).put up (v / 65536)).get up = v / 65536 ∧ only s ((s.put lo v).put up (v / 65536)) [lo.reg] := by
  obtain ⟨hl, hlw⟩ := hlo
  obtain ⟨hu, huw⟩ := hup
  have hlow : (s.put lo v).get lo = v % 2 ^ lo.w := s.get_put_same v (by rw [hl, hlw]; decide)
  refine ⟨?_, ?_, ?_⟩
  · exact ((s.put lo v).get_put_bits (f := up) (g := lo) _ (by rw [hl, hlw, hu, huw]; decide)).trans (hlow.trans (by rw [hlw]; rfl))
  · exact (s.put lo v).get_put_fits (by rw [hu, huw]) (by rw [huw]; omega)
  · exact only_trans (only_put v (List.mem_singleton.mpr rfl)) (only_put _ (List.mem_singleton.mpr hreg))

/-- The thresholds' order can be decided. -/
abbrev thrDecidable (s : State) (g : Nat) : Decidable (thrOrdered s g) :=
  inferInstanceAs (Decidable (s.thrResume g < s.thrWarn g ∧ s.thrWarn g ≤ s.thrThrottle g ∧ s.thrThrottle g < s.thrShutdown g))

/-- A word of a group's thresholds is stored where their order stays. -/
theorem State.thrWrite_shows {lo up : Fld} {v g : Nat} {t : State} (hv : v < 2 ^ 32) (hreg : up.reg = lo.reg) (hlo : lo.lo = 0 ∧ lo.w = 16)
    (hup : up.lo = 16 ∧ up.w = 16) (ht : t = @ite _ (thrOrdered ((s.put lo v).put up (v / 65536)) g) (thrDecidable _ g)
      ((s.put lo v).put up (v / 65536)) (s.raise E.THERM_CFG_REFUSED)) :
    (thrOrdered ((s.put lo v).put up (v / 65536)) g → t.get lo = v % 65536 ∧ t.get up = v / 65536 ∧ only s t [lo.reg]) ∧
    (¬ thrOrdered ((s.put lo v).put up (v / 65536)) g → told s t E.THERM_CFG_REFUSED ∧ only s t (toldRegs E.THERM_CFG_REFUSED)) := by
  refine ⟨fun h => ?_, fun h => ?_⟩
  · rw [ht, if_pos h]
    exact State.put_halves _ hv hreg hlo hup
  · rw [ht, if_neg h]
    exact told_raise_only _ (by decide)

theorem thermThrWrite_shown (g : Fin 12) (hi : Bool) (v : Word) (hserved : s.served 0x028 = true) (hoff : s.pwr.off = false) :
    goesOn (exec (.thermThrWrite g hi v) s) (fun t =>
      let lo := if hi then R.THERM_THRg_W1_SHUTDOWN g.val else R.THERM_THRg_W0_WARN g.val
      let up := if hi then R.THERM_THRg_W1_RESUME g.val else R.THERM_THRg_W0_THROTTLE g.val
      let s1 := (s.put lo v.toNat).put up (v.toNat / 65536)
      (thrOrdered s1 g.val → t.get lo = v.toNat % 65536 ∧ t.get up = v.toNat / 65536 ∧ only s t [lo.reg]) ∧
      (¬ thrOrdered s1 g.val → told s t E.THERM_CFG_REFUSED ∧ only s t (toldRegs E.THERM_CFG_REFUSED))) := by
  have hv : v.toNat < 2 ^ 32 := v.isLt
  have hexec : exec (.thermThrWrite g hi v) s = .next (s.thrWrite g.val hi v.toNat) := by
    show execThermThrWrite g hi v s = _
    unfold execThermThrWrite
    rw [hserved, hoff]
    rfl
  refine ⟨_, hexec, ?_⟩
  cases hi
  · exact State.thrWrite_shows (lo := R.THERM_THRg_W0_WARN g.val) (up := R.THERM_THRg_W0_THROTTLE g.val) hv rfl ⟨rfl, rfl⟩ ⟨rfl, rfl⟩ rfl
  · exact State.thrWrite_shows (lo := R.THERM_THRg_W1_SHUTDOWN g.val) (up := R.THERM_THRg_W1_RESUME g.val) hv rfl ⟨rfl, rfl⟩ ⟨rfl, rfl⟩ rfl

theorem thermalSample_shown (raw : List Int) (u i : Nat) (hoff : s.pwr.off = false) (hi : i < 72) (hsus : s.siteSuspect i = false)
    (hlo : -400 < raw.getD i 0) (hhi : raw.getD i 0 < 1500) : goesOn (exec (.thermalSample raw u) s) fun t =>
      t.now = max s.now u ∧ t.therm.seen = true ∧ t.siteT i = raw.getD i 0 + toSigned 8 (s.fuseByte (0xA40 + i)) ∧
      (t.thrWarn (siteGroup i) ≤ t.siteT i → t.on (R.THERM_SITEs_WARN i) = true) ∧
      (t.thrThrottle (siteGroup i) ≤ t.siteT i → t.on (R.THERM_SITEs_THROTTLE i) = true) := by
  obtain ⟨hshows, hregs, hnow, hseen⟩ := State.sitesRead_shows (s := s.at u) raw hi hsus hlo hhi
  have hsampled := s.thermalSample_sampled raw u hoff
  have hthr (a : Nat) (h1 : 0x28080 ≤ a) (h2 : a < 0x28100) : (s.thermalSample raw u).reg a = (s.at u).reg a :=
    (hsampled.regs a (siteReg_iff.mpr ⟨h1, by omega⟩)).trans (hregs a h2)
  obtain ⟨hwarn, hthrottle⟩ := State.thr_of_regs (siteGroup_lt i) hthr
  have hsite : siteReg (R.THERM_SITEs_T i).reg = true := by
    rw [siteReg_iff]
    simp only [R.THERM_SITEs_T]
    omega
  have hfinal : SiteShows (s.thermalSample raw u) (s.thermalSample raw u) i (raw.getD i 0 + toSigned 8 (s.fuseByte (0xA40 + i))) :=
    hshows.of_regs ⟨hwarn, hthrottle⟩ (hsampled.regs _ hsite)
  refine ⟨s.thermalSample raw u, rfl, ?_⟩
  generalize s.thermalSample raw u = t at hsampled hfinal ⊢
  exact ⟨hsampled.now.trans hnow, hsampled.seen.trans hseen, hfinal.value, fun h => hfinal.warn (hfinal.value ▸ h),
    fun h => hfinal.throttle (hfinal.value ▸ h)⟩

end

/-- Settles O52: each clause by what its command shows. -/
theorem sitesAndThermalStages : Obligations.SitesAndThermalStages :=
  ⟨fun _ raw u i => thermalSample_shown raw u i, fun _ i => siteSuspect_shown i, fun _ i => siteUnsuspect_shown i, fun _ c => graceExpire_shown c,
    fun _ => thermalRelease_shown, fun _ g hi v => thermThrWrite_shown g hi v⟩

end Sys2Proof.Machine
end

/-! PROOFS. What the charger and the power page show: which fields each of their shared operations can change (R347–R361). -/
section
-- One theorem after the other: the default proofs of the side conditions below are run by the elaborator, which waits for all that stands before.
set_option Elab.async false
namespace Sys2Proof.Machine

/-! ## Fields that a change leaves -/

/-- No bit in common. -/
def Fld.off (g f : Fld) : Bool := g.reg ≠ f.reg || (f.lo + f.w ≤ 32 && (f.lo + f.w ≤ g.lo || g.lo + g.w ≤ f.lo))

/-- The field has no bit in common with any of these. -/
def Fld.clear (g : Fld) (fs : List Fld) : Bool := fs.all g.off

/-- The fields that telling an event changes. -/
def toldFields (e : Ev) : List Fld := intRawBit e :: e.cnt.toList.map (evtCnt e.page)

theorem Fld.off_iff {g f : Fld} : g.off f = true ↔ g.reg ≠ f.reg ∨ (f.lo + f.w ≤ 32 ∧ (f.lo + f.w ≤ g.lo ∨ g.lo + g.w ≤ f.lo)) := by
  simp only [Fld.off, Bool.or_eq_true, Bool.and_eq_true, decide_eq_true_eq]

theorem Fld.clear_iff {g : Fld} {fs : List Fld} : g.clear fs = true ↔ ∀ f ∈ fs, g.off f = true := by rw [Fld.clear, List.all_eq_true]

variable {s t u : State} {fs : List Fld}

theorem State.get_put_off {g f : Fld} (v : Nat) (h : g.off f = true) : (s.put f v).get g = s.get g := s.get_put_other v (Fld.off_iff.mp h)

theorem State.get_raise_clear {g : Fld} {e : Ev} (h : g.clear (toldFields e) = true) : (s.raise e).get g = s.get g := by
  have hoff := Fld.clear_iff.mp h
  have hraw : (s.put (intRawBit e) 1).get g = s.get g := State.get_put_off 1 (hoff _ List.mem_cons_self)
  have hset (x : State) : (State.settleFrom s x).get g = x.get g := by
    obtain ⟨y, m, he⟩ := State.settleFrom_eq (s := s) x
    rw [he]
    rfl
  have hcnt : (match e.cnt with | none => s.put (intRawBit e) 1 | some b => (s.put (intRawBit e) 1).bumpBy (evtCnt e.page b) 1).get g = s.get g := by
    cases hb : e.cnt with
    | none => exact hraw
    | some b =>
      have hmem : evtCnt e.page b ∈ toldFields e := by simp [toldFields, hb]
      exact (State.get_put_off _ (hoff _ hmem)).trans hraw
  unfold State.raise State.raiseBy
  rw [if_neg Nat.one_ne_zero]
  dsimp only
  split
  · exact hcnt
  · exact (hset _).trans hcnt

/-- The power state but for the charge that is not a whole mAh yet. -/
def Power.counted (p : Power) : Power := { p with mahRest := 0, ibatAt := 0 }

/-- From s to t only these fields of the pages of temperature, power, the management bus and SYS changed; time, the thermal state and the power
state are the same, but for the charge that is not a whole mAh yet. -/
structure Shown (fs : List Fld) (s t : State) : Prop where
  fields : ∀ g : Fld, guarded false g.reg = true → g.clear fs = true → t.get g = s.get g
  now : t.now = s.now
  therm : t.therm = s.therm
  pwr : t.pwr.counted = s.pwr.counted

theorem Shown.refl : Shown fs s s := ⟨fun _ _ _ => rfl, rfl, rfl, rfl⟩

theorem Shown.trans (h : Shown fs s t) (k : Shown fs t u) : Shown fs s u :=
  ⟨fun g hg hc => (k.fields g hg hc).trans (h.fields g hg hc), k.now.trans h.now, k.therm.trans h.therm, k.pwr.trans h.pwr⟩

theorem Shown.mono {fs' : List Fld} (h : Shown fs s t) (hsub : fs ⊆ fs' := by decide) : Shown fs' s t :=
  ⟨fun g hg hc => h.fields g hg (Fld.clear_iff.mpr fun f hf => Fld.clear_iff.mp hc f (hsub hf)), h.now, h.therm, h.pwr⟩

theorem Shown.get (h : Shown fs s t) {g : Fld} (hg : guarded false g.reg = true := by decide) (hc : g.clear fs = true := by decide) :
    t.get g = s.get g := h.fields g hg hc

theorem Shown.on (h : Shown fs s t) {g : Fld} (hg : guarded false g.reg = true := by decide) (hc : g.clear fs = true := by decide) :
    t.on g = s.on g := State.on_of_get (h.get hg hc)

theorem Shown.calm (h : Shown fs s t) (k : Calm false t u) : Shown fs s u :=
  h.trans ⟨fun _ hg _ => k.get hg, k.now, k.therm, by rw [k.pwr]⟩

theorem Shown.pwrOf {α : Type} (h : Shown fs s t) (f : Power → α) (hf : ∀ p : Power, f p.counted = f p := by exact fun _ => rfl) :
    f t.pwr = f s.pwr := by rw [← hf t.pwr, h.pwr, hf]

/-- A change that leaves the registers. -/
theorem Shown.same (h : Shown fs s t) (regs : u.regs = t.regs := by rfl) (now : u.now = t.now := by rfl) (therm : u.therm = t.therm := by rfl)
    (pwr : u.pwr.counted = t.pwr.counted := by rfl) : Shown fs s u :=
  h.trans ⟨fun g _ _ => by rw [State.get, State.reg, regs, State.get, State.reg], now, therm, pwr⟩

theorem Shown.put (h : Shown fs s t) {f : Fld} {v : Nat} (hf : f ∈ fs := by decide) : Shown fs s (t.put f v) :=
  h.trans ⟨fun _ _ hc => State.get_put_off v (Fld.clear_iff.mp hc f hf), t.put_now f v, by rw [State.put_therm], by rw [State.put_pwr]⟩

theorem Shown.raise (h : Shown fs s t) {e : Ev} (he : toldFields e ⊆ fs := by decide) : Shown fs s (t.raise e) :=
  h.trans ⟨fun _ _ hc => State.get_raise_clear (Fld.clear_iff.mpr fun f hf => Fld.clear_iff.mp hc f (he hf)), t.raise_now e,
    by rw [State.raise_therm], by rw [State.raise_pwr]⟩

theorem Shown.ite {c : Prop} [Decidable c] (h : Shown fs s t) (k : Shown fs s u) : Shown fs s (if c then t else u) := by
  split
  · exact h
  · exact k

/-- What was told before stays told. -/
theorem Shown.toldStill {e : Ev} (h : Shown fs t u) (hs : told s t e) (hbit : guarded false (intRawBit e).reg = true := by decide)
    (hraw : (intRawBit e).clear fs = true := by decide)
    (hcnt : ∀ b, e.cnt = some b → guarded false (evtCnt e.page b).reg = true ∧ (evtCnt e.page b).clear fs = true := by decide) : told s u e :=
  ⟨(h.get hbit hraw).trans hs.1, fun b hb => (h.get (hcnt b hb).1 (hcnt b hb).2).trans (hs.2 b hb)⟩

/-- What is told behind a change is told from before the change. -/
theorem Shown.toldBehind {e : Ev} (h : Shown fs s t) (hs : told t u e)
    (hcnt : ∀ b, e.cnt = some b → guarded false (evtCnt e.page b).reg = true ∧ (evtCnt e.page b).clear fs = true := by decide) : told s u e :=
  ⟨hs.1, fun b hb => (hs.2 b hb).trans (by rw [h.get (hcnt b hb).1 (hcnt b hb).2])⟩

/-! ## The pack's current and charge -/

/-- The fields of the pack's current and charge. -/
def currentFields : List Fld := [R.PACK_CHARGE_MAH, R.PACK_IT_I]

theorem Shown.mahAdd (h : Shown fs s t) {q : Int} (hf : R.PACK_CHARGE_MAH ∈ fs) : Shown fs s (t.mahAdd q) := by
  unfold State.mahAdd
  exact Shown.put (h.same) hf

theorem Shown.packCount (h : Shown fs s t) (hf : R.PACK_CHARGE_MAH ∈ fs := by decide) : Shown fs s t.packCount := by
  unfold State.packCount
  dsimp only
  split
  · exact (h.mahAdd hf).same
  · exact h.same

theorem Shown.packSetI (h : Shown fs s t) {i : Int} (hf : currentFields ⊆ fs := by decide) : Shown fs s (t.packSetI i) :=
  (h.packCount (hf (by decide))).put (hf (by decide))

/-! ## What the power page shows -/

/-- The fields that the power page shows anew whenever something that they depend on may have changed. -/
def showFields : List Fld :=
  currentFields ++ [R.PWR_CHG_STAT_TEMP_PAUSE, R.PWR_CHG_STAT_FOLDBACK, R.PWR_ILIM_SUP, R.PWR_ILIM_ACT, R.PACK_CHARGE_USABLE, R.PWR_STAT_RUN_OK,
    R.PWR_STAT_LOCKOUT]

theorem showFields_mem {f : Fld} (hfs : showFields ⊆ fs) (hf : f ∈ showFields := by decide) : f ∈ fs := hfs hf

theorem currentFields_sub (hfs : showFields ⊆ fs) : currentFields ⊆ fs := fun _ hf => hfs (List.mem_append_left _ hf)

theorem Shown.ilimShow (h : Shown fs s t) (hfs : showFields ⊆ fs := by decide) : Shown fs s t.ilimShow :=
  (h.put (showFields_mem hfs)).put (showFields_mem hfs)

theorem Shown.foldShow (h : Shown fs s t) (hfs : showFields ⊆ fs := by decide) : Shown fs s t.foldShow := by
  have hput : Shown fs s ((t.put R.PWR_CHG_STAT_TEMP_PAUSE (boolNat t.tempPause)).put R.PWR_CHG_STAT_FOLDBACK
    (boolNat (t.tempPause || t.foldback < 800))) := (h.put (showFields_mem hfs)).put (showFields_mem hfs)
  exact .ite (hput.packSetI (currentFields_sub hfs)) hput

theorem Shown.pwrShow (h : Shown fs s t) (hfs : showFields ⊆ fs := by decide) : Shown fs s t.pwrShow := by
  have hshow := (((h.ilimShow hfs).foldShow hfs).put (f := R.PACK_CHARGE_USABLE) (v := boolNat t.ilimShow.foldShow.packUsable) (showFields_mem hfs))
  unfold State.pwrShow
  dsimp only
  generalize t.ilimShow.foldShow.put R.PACK_CHARGE_USABLE (boolNat t.ilimShow.foldShow.packUsable) = v at hshow ⊢
  have hall := (hshow.put (v := boolNat v.runAdmissible) (showFields_mem hfs (f := R.PWR_STAT_RUN_OK))).put
    (v := boolNat (v.get R.PWR_STAT_SRC = 1)) (showFields_mem hfs (f := R.PWR_STAT_LOCKOUT))
  exact .ite (hall.calm Calm.refl.domsOff) hall

/-- Where no charge runs in PRECHARGE, the power page leaves the pack's current and charge. -/
theorem State.foldShow_calm_current (hphase : s.get R.PWR_CHG_STAT_PHASE ≠ 2) :
    Shown [R.PWR_CHG_STAT_TEMP_PAUSE, R.PWR_CHG_STAT_FOLDBACK] s s.foldShow := by
  have hput : Shown [R.PWR_CHG_STAT_TEMP_PAUSE, R.PWR_CHG_STAT_FOLDBACK] s ((s.put R.PWR_CHG_STAT_TEMP_PAUSE (boolNat s.tempPause)).put
    R.PWR_CHG_STAT_FOLDBACK (boolNat (s.tempPause || s.foldback < 800))) := Shown.refl.put.put
  unfold State.foldShow
  dsimp only
  rw [if_neg (by rw [hput.get]; exact hphase)]
  exact hput

/-- Where no charge runs in PRECHARGE, showing the power page leaves the pack's current and charge. -/
theorem State.pwrShow_calm_current (hphase : s.get R.PWR_CHG_STAT_PHASE ≠ 2) :
    Shown [R.PWR_CHG_STAT_TEMP_PAUSE, R.PWR_CHG_STAT_FOLDBACK, R.PWR_ILIM_SUP, R.PWR_ILIM_ACT, R.PACK_CHARGE_USABLE, R.PWR_STAT_RUN_OK,
      R.PWR_STAT_LOCKOUT] s s.pwrShow := by
  have hilim : Shown [R.PWR_CHG_STAT_TEMP_PAUSE, R.PWR_CHG_STAT_FOLDBACK, R.PWR_ILIM_SUP, R.PWR_ILIM_ACT, R.PACK_CHARGE_USABLE,
      R.PWR_STAT_RUN_OK, R.PWR_STAT_LOCKOUT] s s.ilimShow := Shown.put (Shown.put Shown.refl)
  have hfold := hilim.trans (State.foldShow_calm_current (s := s.ilimShow) (by rw [hilim.get]; exact hphase)).mono
  have hshow := hfold.put (f := R.PACK_CHARGE_USABLE) (v := boolNat s.ilimShow.foldShow.packUsable)
  unfold State.pwrShow
  dsimp only
  generalize s.ilimShow.foldShow.put R.PACK_CHARGE_USABLE (boolNat s.ilimShow.foldShow.packUsable) = v at hshow ⊢
  have hall := (hshow.put (f := R.PWR_STAT_RUN_OK) (v := boolNat v.runAdmissible)).put (f := R.PWR_STAT_LOCKOUT)
    (v := boolNat (v.get R.PWR_STAT_SRC = 1))
  exact .ite (hall.calm Calm.refl.domsOff) hall

/-! ## The end of supplement -/

/-- The fields that the end of supplement can change beside those. -/
def suppFields : List Fld := showFields ++ R.PWR_STAT_SUPPLEMENT :: toldFields E.PWR_OVERLOAD

theorem Shown.suppLost (h : Shown fs s t) (hfs : suppFields ⊆ fs := by decide) : Shown fs s t.suppLost := by
  have hcur : currentFields ⊆ fs := fun _ hf => hfs (List.mem_append_left _ (List.mem_append_left _ hf))
  exact .ite (((h.packSetI hcur).put (hfs (by decide))).raise fun _ hf => hfs (List.mem_append_right _ (List.mem_cons_of_mem _ hf))) h

theorem State.suppLost_eq_self (hon : s.on R.PWR_STAT_SUPPLEMENT = false) : s.suppLost = s := by
  unfold State.suppLost
  rw [hon]
  rfl

/-- Without a usable pack nothing supplements any more. -/
theorem State.suppLost_off (h : s.packUsable = false) : s.suppLost.get R.PWR_STAT_SUPPLEMENT = 0 := by
  by_cases hon : s.on R.PWR_STAT_SUPPLEMENT = true
  · have heq : s.suppLost = ((s.packSetI 0).put R.PWR_STAT_SUPPLEMENT 0).raise E.PWR_OVERLOAD := if_pos (by rw [hon, h]; rfl)
    rw [heq, State.get_raise_clear (by decide)]
    exact State.get_put_fits _ (by decide) (by decide)
  · rw [State.suppLost_eq_self (by simpa using hon)]
    simpa [State.on] using hon

/-! ## Fitness -/

/-- What a pack's fitness, and the charger's pause, rest on. -/
structure SamePack (s t : State) : Prop where
  present : t.get R.PACK_CHARGE_PRESENT = s.get R.PACK_CHARGE_PRESENT
  temp : t.get R.PACK_IT_T = s.get R.PACK_IT_T
  idOk : t.pwr.idOk = s.pwr.idOk

theorem Shown.samePack (h : Shown fs s t) (hp : R.PACK_CHARGE_PRESENT.clear fs = true := by decide)
    (ht : R.PACK_IT_T.clear fs = true := by decide) : SamePack s t :=
  ⟨h.get (by decide) hp, h.get (by decide) ht, h.pwrOf Power.idOk⟩

theorem SamePack.packPresent (h : SamePack s t) : t.packPresent = s.packPresent := State.on_of_get h.present

theorem SamePack.packTemp (h : SamePack s t) : t.packTemp = s.packTemp := by rw [State.packTemp, h.temp, State.packTemp]

theorem SamePack.packFit (h : SamePack s t) : t.packFit = s.packFit := by
  rw [State.packFit, h.packPresent, h.idOk, h.packTemp, State.packFit]

theorem SamePack.tempPause (h : SamePack s t) : t.tempPause = s.tempPause := by
  rw [State.tempPause, h.packPresent, h.packTemp, State.tempPause]

/-- The same pack at the same rest voltage and with the same fault is as usable. -/
theorem SamePack.packUsable (h : SamePack s t) (hfault : t.get R.PWR_CHG_STAT_FAULT = s.get R.PWR_CHG_STAT_FAULT)
    (hrest : t.get R.PACK_V_V_REST = s.get R.PACK_V_V_REST) : t.packUsable = s.packUsable := by
  rw [State.packUsable, h.packFit, hfault, hrest, State.packUsable]

/-- A pack with a fault that is no timer fault is not usable. -/
theorem State.packUsable_of_fault (h : 2 < s.get R.PWR_CHG_STAT_FAULT) : s.packUsable = false := by
  have hnot : ¬ s.get R.PWR_CHG_STAT_FAULT ≤ 2 := by omega
  simp [State.packUsable, hnot]

theorem State.packFit_of_absent (h : s.get R.PACK_CHARGE_PRESENT = 0) : s.packFit = false := by simp [State.packFit, State.packPresent, State.on, h]

theorem State.packUsable_of_unfit (h : s.packFit = false) : s.packUsable = false := by rw [State.packUsable, h]; rfl

/-! ## Charging stops and starts -/

/-- The fields that the charger's readings can change. -/
def chargeFields : List Fld := suppFields ++ [R.PWR_CHG_STAT_PHASE]

theorem Shown.chargeStop (h : Shown fs s t) (hfs : chargeFields ⊆ fs := by decide) : Shown fs s t.chargeStop :=
  (h.packSetI fun _ hf => hfs (List.mem_append_left _ (List.mem_append_left _ (List.mem_append_left _ hf)))).put (hfs (by decide))

/-- The phase of a charger that stopped. -/
theorem State.chargeStop_phase : s.chargeStop.get R.PWR_CHG_STAT_PHASE = stoppedPhase s := by
  have hcur : Shown currentFields s (s.packSetI 0) := Shown.refl.packSetI
  unfold State.chargeStop stoppedPhase
  generalize s.packSetI 0 = v at hcur ⊢
  split
  · exact v.get_put_fits (by decide) (by decide)
  · exact v.get_put_fits (by decide) (by decide)

theorem Shown.chargeGo (h : Shown fs s t) (hfs : chargeFields ⊆ fs := by decide) : Shown fs s t.chargeGo := by
  unfold State.chargeGo State.chargeStart
  exact .ite (.ite (h.put (hfs (by decide))) h) h

theorem Shown.packShow (h : Shown fs s t) (hfs : chargeFields ⊆ fs := by decide) : Shown fs s t.packShow := by
  have hsupp : suppFields ⊆ fs := fun _ hf => hfs (List.mem_append_left _ hf)
  have hbefore := (h.pwrShow fun _ hf => hsupp (List.mem_append_left _ hf)).suppLost hsupp
  exact .ite (hbefore.chargeStop hfs) (hbefore.chargeGo hfs)

theorem State.chargeGo_of_phase (h : s.get R.PWR_CHG_STAT_PHASE ≠ 0) : s.chargeGo = s := if_neg h

/-- An OFF charger starts where it may. -/
theorem State.chargeGo_phase (hphase : s.get R.PWR_CHG_STAT_PHASE = 0) (hfault : s.get R.PWR_CHG_STAT_FAULT = 0)
    (hsupp : s.on R.PWR_STAT_SUPPLEMENT = false) : s.chargeGo.get R.PWR_CHG_STAT_PHASE = boolNat (mayCharge s) := by
  have hcond : (s.on R.PWR_CHG_CTRL_EN && s.packFit && s.get R.PWR_CHG_STAT_FAULT = 0 && s.pwr.qualified && s.power ≠ pHOLDUP &&
      !s.on R.PWR_STAT_SUPPLEMENT) = mayCharge s := by
    rw [hfault, hsupp, mayCharge]
    simp
  unfold State.chargeGo State.chargeStart
  rw [if_pos hphase, hcond]
  cases mayCharge s
  · exact hphase
  · exact s.get_put_fits (by decide) (by decide)

/-- An unfit pack starts nothing. -/
theorem State.chargeGo_of_unfit (h : s.packFit = false) : s.chargeGo = s := by
  unfold State.chargeGo State.chargeStart
  rw [h]
  simp

end Sys2Proof.Machine
end

/-! PROOFS. The pack and the charger (R354–R361). -/
section
-- One theorem after the other: the default proofs of the side conditions below are run by the elaborator, which waits for all that stands before.
set_option Elab.async false
namespace Sys2Proof.Machine

variable {s t u : State} {fs : List Fld} {f : Nat}

/-! ## Faults -/

/-- A fault is among those raised. -/
def State.addFault (s : State) (f : Nat) : State := { s with pwr := { s.pwr with faults := setAdd s.pwr.faults f } }

theorem Shown.addFault (h : Shown fs s t) : Shown fs (s.addFault f) (t.addFault f) := by
  refine ⟨h.fields, h.now, h.therm, ?_⟩
  have hcounted (p : Power) : Power.counted { p with faults := setAdd p.faults f } = { p.counted with faults := setAdd p.counted.faults f } := rfl
  exact (hcounted t.pwr).trans ((congrArg (fun p : Power => { p with faults := setAdd p.faults f }) h.pwr).trans (hcounted s.pwr).symm)

/-- The fields that a fault can change. -/
def faultFields : List Fld := chargeFields ++ R.PWR_CHG_STAT_FAULT :: toldFields E.PWR_CHG_FAULT

/-- What a fault that is raised leaves. -/
structure FaultRaised (f : Nat) (s t : State) : Prop where
  fault : t.get R.PWR_CHG_STAT_FAULT = f
  phase : t.get R.PWR_CHG_STAT_PHASE = 6
  told : told s t E.PWR_CHG_FAULT
  shown : Shown faultFields (s.addFault f) t
  supp : 2 < f → t.get R.PWR_STAT_SUPPLEMENT = 0

/-- The state in which a fault has been told. -/
def State.faultTold (s : State) (f : Nat) : State :=
  let s0 := if s.on R.PWR_STAT_SUPPLEMENT || s.on R.PWR_STAT_ON_PACK then s else s.packSetI 0
  (((s0.addFault f).put R.PWR_CHG_STAT_PHASE 6).put R.PWR_CHG_STAT_FAULT f).raise E.PWR_CHG_FAULT

/-- What follows from it: the event record, the power page and the end of supplement. -/
def State.faultSpread (w : State) (d : List Nat) : State := (w.jEvent evPACK_FAULT d).pwrShow.suppLost

theorem State.packFault_eq (hno : s.pwr.faults.contains f = false) : s.packFault f =
    (let t := (s.faultTold f).faultSpread ((s.faultTold f).packDetail f (s.get R.PWR_CHG_STAT_PHASE))
    if f = 4 && t.on R.PWR_STAT_ON_PACK then t.goOff else t) := by
  unfold State.packFault
  exact if_neg (by rw [hno]; decide)

theorem State.packFault_again (h : s.pwr.faults.contains f = true) : s.packFault f = s := if_pos h

theorem State.faultTold_shown (hlt : f < 16) : Shown faultFields (s.addFault f) (s.faultTold f) ∧
    (s.faultTold f).get R.PWR_CHG_STAT_FAULT = f ∧ (s.faultTold f).get R.PWR_CHG_STAT_PHASE = 6 ∧ told s (s.faultTold f) E.PWR_CHG_FAULT := by
  have h0 : Shown currentFields s (if s.on R.PWR_STAT_SUPPLEMENT || s.on R.PWR_STAT_ON_PACK then s else s.packSetI 0) :=
    .ite .refl Shown.refl.packSetI
  unfold State.faultTold
  dsimp only
  generalize (if s.on R.PWR_STAT_SUPPLEMENT || s.on R.PWR_STAT_ON_PACK then s else s.packSetI 0) = s0 at h0 ⊢
  have h1 : Shown currentFields (s.addFault f) (s0.addFault f) := h0.addFault
  have hsame (g : Fld) : (s.addFault f).get g = s.get g := rfl
  generalize s0.addFault f = u at h1 ⊢
  have h2 : Shown faultFields (s.addFault f) (u.put R.PWR_CHG_STAT_PHASE 6) := Shown.put h1.mono
  have hphase : (u.put R.PWR_CHG_STAT_PHASE 6).get R.PWR_CHG_STAT_PHASE = 6 := u.get_put_fits (by decide) (by decide)
  have hcnt (b : Nat) (hb : E.PWR_CHG_FAULT.cnt = some b) :
      (u.put R.PWR_CHG_STAT_PHASE 6).get (evtCnt E.PWR_CHG_FAULT.page b) = s.get (evtCnt E.PWR_CHG_FAULT.page b) := by
    obtain rfl : 6 = b := Option.some.inj hb
    exact (State.get_put_off 6 (by decide)).trans (h1.get.trans (hsame _))
  generalize u.put R.PWR_CHG_STAT_PHASE 6 = v at h2 hphase hcnt ⊢
  refine ⟨(h2.put (f := R.PWR_CHG_STAT_FAULT)).raise, ?_, ?_, ?_⟩
  · exact (State.get_raise_clear (by decide)).trans (State.get_put_fits _ (by decide) hlt)
  · exact (State.get_raise_clear (by decide)).trans ((State.get_put_off f (by decide)).trans hphase)
  · refine told_raise_of_cnt (by decide) fun b hb => ?_
    obtain rfl : 6 = b := Option.some.inj hb
    exact (State.get_put_off f (by decide)).trans (hcnt _ rfl)

theorem State.faultSpread_off (w : State) (d : List Nat) (h : (w.jEvent evPACK_FAULT d).pwrShow.packUsable = false) :
    (w.faultSpread d).get R.PWR_STAT_SUPPLEMENT = 0 := by
  unfold State.faultSpread
  exact State.suppLost_off h

theorem State.faultSpread_shown (w : State) (d : List Nat) : Shown suppFields w (w.faultSpread d) := by
  have hpwr : Shown showFields w (w.jEvent evPACK_FAULT d).pwrShow := (Shown.refl.calm Calm.refl.jEvent).pwrShow
  unfold State.faultSpread
  exact hpwr.mono.suppLost

theorem State.packFault_raised (hno : s.pwr.faults.contains f = false) (hlt : f < 16) (hpack : f = 4 → s.on R.PWR_STAT_ON_PACK = false) :
    FaultRaised f s (s.packFault f) := by
  obtain ⟨hshown, hfault, hphase, htold⟩ := s.faultTold_shown hlt
  have hsame : (s.addFault f).on R.PWR_STAT_ON_PACK = s.on R.PWR_STAT_ON_PACK := rfl
  rw [State.packFault_eq hno]
  dsimp only
  generalize s.faultTold f = w at hshown hfault hphase htold ⊢
  generalize w.packDetail f (s.get R.PWR_CHG_STAT_PHASE) = d
  have hpwr : Shown showFields w (w.jEvent evPACK_FAULT d).pwrShow := (Shown.refl.calm Calm.refl.jEvent).pwrShow
  have hend := w.faultSpread_shown d
  have hsupp : 2 < f → (w.faultSpread d).get R.PWR_STAT_SUPPLEMENT = 0 := fun hbig =>
    w.faultSpread_off d (State.packUsable_of_fault (by rw [hpwr.get, hfault]; exact hbig))
  generalize w.faultSpread d = x at hend hsupp ⊢
  have hoff : (f = 4 && x.on R.PWR_STAT_ON_PACK) = false := by
    rw [hend.on, hshown.on, hsame]
    by_cases h4 : f = 4
    · rw [hpack h4, Bool.and_false]
    · rw [decide_eq_false h4, Bool.false_and]
  rw [hoff, if_neg Bool.false_ne_true]
  exact ⟨hend.get.trans hfault, hend.get.trans hphase, hend.toldStill htold, hshown.trans hend.mono, hsupp⟩

theorem FaultRaised.get (h : FaultRaised f s t) {g : Fld} (hg : guarded false g.reg = true := by decide) (hc : g.clear faultFields = true := by decide) :
    t.get g = s.get g := h.shown.get hg hc

theorem FaultRaised.samePack (h : FaultRaised f s t) : SamePack s t := ⟨h.get, h.get, h.shown.pwrOf Power.idOk⟩

/-! ## Judging the readings -/

/-- The rest or the terminal voltage is above its limit. -/
def State.overVolt (s : State) : Bool := 8500 < s.get R.PACK_V_V_REST || 8800 < s.get R.PACK_V_V_NOW

/-- What the readings of a pack that is not too hot raise. -/
theorem State.packJudge_cool (htemp : s.packTemp ≤ 600) : s.packJudge = if s.packPresent && s.overVolt then s.packFault 5 else s := by
  have hhot : ¬ 600 < s.packTemp := by omega
  unfold State.packJudge State.standingFaults State.overVolt
  rw [if_neg hhot]
  generalize (decide (8500 < s.get R.PACK_V_V_REST) || decide (8800 < s.get R.PACK_V_V_NOW)) = above
  generalize s.pwr.shorted = short
  generalize s.pwr.idOk = ok
  cases s.packPresent <;> cases above <;> cases short <;> cases ok <;> rfl

/-- Readings within their limits raise nothing. -/
theorem State.packJudge_eq_self (hrest : s.get R.PACK_V_V_REST ≤ 8500) (hnow : s.get R.PACK_V_V_NOW ≤ 8800) (htemp : s.packTemp ≤ 600) :
    s.packJudge = s := by
  rw [State.packJudge_cool htemp, State.overVolt, decide_eq_false (Nat.not_lt.mpr hrest), decide_eq_false (Nat.not_lt.mpr hnow)]
  simp

/-- A present pack above its terminal voltage raises an over-voltage. -/
theorem State.packJudge_over (hpresent : s.packPresent = true) (hnow : 8800 < s.get R.PACK_V_V_NOW) (htemp : s.packTemp ≤ 600) :
    s.packJudge = s.packFault 5 := by
  rw [State.packJudge_cool htemp, State.overVolt, hpresent, decide_eq_true hnow]
  simp

/-! ## What follows from the readings -/

theorem State.standingFaults_of (h : SamePack s t) (hshort : t.pwr.shorted = s.pwr.shorted) (hrest : t.get R.PACK_V_V_REST = s.get R.PACK_V_V_REST)
    (hnow : t.get R.PACK_V_V_NOW = s.get R.PACK_V_V_NOW) : t.standingFaults = s.standingFaults := by
  unfold State.standingFaults
  rw [hshort, h.packPresent, hrest, hnow, h.packTemp, h.idOk]

theorem mayCharge_of (h : SamePack s t) (hen : t.get R.PWR_CHG_CTRL_EN = s.get R.PWR_CHG_CTRL_EN) (hq : t.pwr.qualified = s.pwr.qualified)
    (hpower : t.get R.PWR_STAT_STATE = s.get R.PWR_STAT_STATE) : mayCharge t = mayCharge s := by
  have hp : t.power = s.power := hpower
  rw [mayCharge, mayCharge, State.on_of_get hen, h.packFit, hq, hp]

/-- A standing fault's code. -/
theorem State.standingFaults_lt (hf : f ∈ s.standingFaults) : f < 16 := by
  simp only [State.standingFaults, faultSHORT, faultOVERVOLT, faultOVERTEMP, faultID, List.mem_append, List.mem_ite_nil_left,
    List.mem_ite_nil_right, List.mem_singleton] at hf
  obtain ⟨-, rfl⟩ | ⟨-, (⟨-, rfl⟩ | ⟨-, rfl⟩) | ⟨-, rfl⟩⟩ := hf <;> decide

/-- A fit pack's charging, and a charger that is off or in FAULT, are not stopped by their readings. -/
theorem State.packShow_go (h : s.packFit = true ∨ s.get R.PWR_CHG_STAT_PHASE = 0 ∨ 5 < s.get R.PWR_CHG_STAT_PHASE) :
    s.packShow = s.pwrShow.suppLost.chargeGo := by
  have hshow : Shown suppFields s s.pwrShow.suppLost := (Shown.refl.pwrShow).suppLost
  unfold State.packShow
  generalize s.pwrShow.suppLost = v at hshow ⊢
  refine if_neg ?_
  rw [hshow.samePack.packFit, hshow.get]
  obtain h | h | h := h
  · simp [h]
  · simp [h]
  · rw [decide_eq_false (by omega : ¬ s.get R.PWR_CHG_STAT_PHASE ≤ 5), Bool.and_false]
    decide

/-- Any other phase stays. -/
theorem State.packShow_stays (h : s.packFit = true ∨ 5 < s.get R.PWR_CHG_STAT_PHASE) (hphase : s.get R.PWR_CHG_STAT_PHASE ≠ 0) :
    s.packShow = s.pwrShow.suppLost := by
  have hshow : Shown suppFields s s.pwrShow.suppLost := (Shown.refl.pwrShow).suppLost
  rw [State.packShow_go (h.imp_right .inr)]
  exact State.chargeGo_of_phase (by rw [hshow.get]; exact hphase)

theorem State.packShow_shown (h : s.packFit = true ∨ 5 < s.get R.PWR_CHG_STAT_PHASE) (hphase : s.get R.PWR_CHG_STAT_PHASE ≠ 0) :
    Shown suppFields s s.packShow := by
  rw [State.packShow_stays h hphase]
  exact (Shown.refl.pwrShow).suppLost

/-- A charger that is off starts where it may. -/
theorem State.packShow_starts (hphase : s.get R.PWR_CHG_STAT_PHASE = 0) (hfault : s.get R.PWR_CHG_STAT_FAULT = 0)
    (hsupp : s.on R.PWR_STAT_SUPPLEMENT = false) : s.packShow.get R.PWR_CHG_STAT_PHASE = boolNat (mayCharge s) := by
  have hshow : Shown showFields s s.pwrShow := Shown.refl.pwrShow
  rw [State.packShow_go (.inr (.inl hphase)), State.suppLost_eq_self (by rw [hshow.on]; exact hsupp)]
  generalize s.pwrShow = v at hshow ⊢
  rw [State.chargeGo_phase (hshow.get.trans hphase) (hshow.get.trans hfault) (hshow.on.trans hsupp),
    mayCharge_of hshow.samePack hshow.get (hshow.pwrOf Power.qualified) hshow.get]

/-! ## The charger's commands -/

theorem faultClr_shown (hoff : s.pwr.off = false) (hfault : s.get R.PWR_CHG_STAT_FAULT ≠ 0) (hsupp : s.on R.PWR_STAT_SUPPLEMENT = false)
    (hpack : s.on R.PWR_STAT_ON_PACK = false) : (s.standingFaults = [] → goesOn (exec .faultClr s) fun t =>
      t.get R.PWR_CHG_STAT_FAULT = 0 ∧ t.get R.PWR_CHG_STAT_PHASE = boolNat (mayCharge s)) ∧
    (∀ f, s.standingFaults = [f] → goesOn (exec .faultClr s) fun t =>
      t.get R.PWR_CHG_STAT_FAULT = f ∧ t.get R.PWR_CHG_STAT_PHASE = 6 ∧ told s t E.PWR_CHG_FAULT) := by
  set v : State := { s with pwr := { s.pwr with faults := [] } } with hv
  have hvget (g : Fld) : v.get g = s.get g := rfl
  have hvfaults : v.pwr.faults = [] := rfl
  have hvcharge : mayCharge v = mayCharge s := rfl
  have hvstand : v.standingFaults = s.standingFaults := rfl
  have hexec : exec .faultClr s = .next ((((v.put R.PWR_CHG_STAT_FAULT 0).put R.PWR_CHG_STAT_PHASE 0).standingFaults.foldl State.packFault
      ((v.put R.PWR_CHG_STAT_FAULT 0).put R.PWR_CHG_STAT_PHASE 0)).packShow) := by
    show Host.Outcome.next s.faultClr = _
    unfold State.faultClr
    rw [if_neg (by simp [hoff, hfault])]
  rw [hexec]
  clear_value v
  have hw : Shown [R.PWR_CHG_STAT_FAULT, R.PWR_CHG_STAT_PHASE] v ((v.put R.PWR_CHG_STAT_FAULT 0).put R.PWR_CHG_STAT_PHASE 0) := Shown.refl.put.put
  have hwfault : ((v.put R.PWR_CHG_STAT_FAULT 0).put R.PWR_CHG_STAT_PHASE 0).get R.PWR_CHG_STAT_FAULT = 0 :=
    (State.get_put_off _ (by decide)).trans (State.get_put_fits _ (by decide) (by decide))
  have hwphase : ((v.put R.PWR_CHG_STAT_FAULT 0).put R.PWR_CHG_STAT_PHASE 0).get R.PWR_CHG_STAT_PHASE = 0 := State.get_put_fits _ (by decide) (by decide)
  generalize (v.put R.PWR_CHG_STAT_FAULT 0).put R.PWR_CHG_STAT_PHASE 0 = w at hw hwfault hwphase ⊢
  have hstand : w.standingFaults = s.standingFaults :=
    (State.standingFaults_of hw.samePack (hw.pwrOf Power.shorted) hw.get hw.get).trans hvstand
  have hcharge : mayCharge w = mayCharge s := (mayCharge_of hw.samePack hw.get (hw.pwrOf Power.qualified) hw.get).trans hvcharge
  have hwsupp : w.on R.PWR_STAT_SUPPLEMENT = false := (State.on_of_get (hw.get.trans (hvget R.PWR_STAT_SUPPLEMENT))).trans hsupp
  have hwpack : w.on R.PWR_STAT_ON_PACK = false := (State.on_of_get (hw.get.trans (hvget R.PWR_STAT_ON_PACK))).trans hpack
  rw [hstand]
  refine ⟨fun hnone => ?_, fun f hone => ?_⟩
  · rw [hnone]
    refine ⟨_, rfl, ?_, ?_⟩
    · have hkept : Shown chargeFields w w.packShow := Shown.refl.packShow
      exact hkept.get.trans hwfault
    · exact (State.packShow_starts hwphase hwfault hwsupp).trans (by rw [hcharge])
  · rw [hone]
    have hcode := State.standingFaults_lt (s := s) (f := f) (by rw [hone]; exact List.mem_singleton_self f)
    have hraised : FaultRaised f w (w.packFault f) := State.packFault_raised (by rw [hw.pwrOf Power.faults, hvfaults]; rfl) hcode fun _ => hwpack
    refine ⟨_, rfl, ?_⟩
    change (w.packFault f).packShow.get _ = _ ∧ (w.packFault f).packShow.get _ = _ ∧ told s (w.packFault f).packShow _
    generalize w.packFault f = x at hraised ⊢
    have hkept : Shown suppFields x x.packShow := State.packShow_shown (.inr (by rw [hraised.phase]; decide)) (by rw [hraised.phase]; decide)
    refine ⟨hkept.get.trans hraised.fault, hkept.get.trans hraised.phase, hkept.toldStill ?_⟩
    have hfrom : told v x E.PWR_CHG_FAULT := hw.toldBehind hraised.told
    exact ⟨hfrom.1, fun b hb => (hfrom.2 b hb).trans (by rw [hvget])⟩

end Sys2Proof.Machine
end

/-! PROOFS. O48: the pack's checks and probes, the charger's phases, timers and faults (R354–R361). -/
section
-- One theorem after the other: the default proofs of the side conditions below are run by the elaborator, which waits for all that stands before.
set_option Elab.async false
namespace Sys2Proof.Machine

variable {s t u : State} {fs : List Fld}

/-! ## Presence -/

/-- The pack is found shorted. -/
def State.short (s : State) : State := { s with pwr := { s.pwr with shorted := true } }

/-- What a pack that is gone leaves: it is neither present nor usable, charging stopped, and nothing supplements. -/
theorem State.packGone_shows : Shown (chargeFields ++ [R.PACK_CHARGE_PRESENT, R.PACK_CHARGE_VALID]) { s with pwr := { s.pwr with idOk := false } } s.packGone ∧
    s.packGone.get R.PACK_CHARGE_PRESENT = 0 ∧ s.packGone.get R.PACK_CHARGE_VALID = 0 ∧ s.packGone.get R.PWR_CHG_STAT_PHASE = stoppedPhase s ∧
    s.packGone.get R.PWR_STAT_SUPPLEMENT = 0 := by
  have h0 : Shown currentFields s s.packCount := Shown.refl.packCount
  have hstop : Shown chargeFields s s.packCount.chargeStop := h0.mono.chargeStop
  have hphase : s.packCount.chargeStop.get R.PWR_CHG_STAT_PHASE = stoppedPhase s := by
    rw [State.chargeStop_phase, stoppedPhase, h0.get, stoppedPhase]
  unfold State.packGone
  dsimp only
  generalize s.packCount.chargeStop = v at hstop hphase ⊢
  have hw : Shown (chargeFields ++ [R.PACK_CHARGE_PRESENT, R.PACK_CHARGE_VALID]) s ((v.put R.PACK_CHARGE_PRESENT 0).put R.PACK_CHARGE_VALID 0) :=
    Shown.put (Shown.put hstop.mono)
  have hpresent : ((v.put R.PACK_CHARGE_PRESENT 0).put R.PACK_CHARGE_VALID 0).get R.PACK_CHARGE_PRESENT = 0 :=
    (State.get_put_off 0 (by decide)).trans (State.get_put_fits _ (by decide) (by decide))
  have hvalid : ((v.put R.PACK_CHARGE_PRESENT 0).put R.PACK_CHARGE_VALID 0).get R.PACK_CHARGE_VALID = 0 := State.get_put_fits _ (by decide) (by decide)
  have hwphase : ((v.put R.PACK_CHARGE_PRESENT 0).put R.PACK_CHARGE_VALID 0).get R.PWR_CHG_STAT_PHASE = stoppedPhase s :=
    (State.get_put_off 0 (by decide)).trans ((State.get_put_off 0 (by decide)).trans hphase)
  generalize (v.put R.PACK_CHARGE_PRESENT 0).put R.PACK_CHARGE_VALID 0 = w at hw hpresent hvalid hwphase ⊢
  set x : State := { w with pwr := { w.pwr with idOk := false } } with hxdef
  have hx : Shown (chargeFields ++ [R.PACK_CHARGE_PRESENT, R.PACK_CHARGE_VALID]) { s with pwr := { s.pwr with idOk := false } } x :=
    ⟨hw.fields, hw.now, hw.therm, congrArg (fun p : Power => { p with idOk := false }) hw.pwr⟩
  have hxget (g : Fld) : x.get g = w.get g := rfl
  clear_value x
  have hunfit : x.packFit = false := State.packFit_of_absent ((hxget _).trans hpresent)
  have hstopped : stoppedPhase s = 0 ∨ 5 < stoppedPhase s := by
    unfold stoppedPhase
    split
    · exact .inl rfl
    · exact .inr (by decide)
  have hpwr : Shown showFields x x.pwrShow := Shown.refl.pwrShow
  have hshow : Shown suppFields x x.pwrShow.suppLost := hpwr.mono.suppLost
  have hoff : x.pwrShow.suppLost.get R.PWR_STAT_SUPPLEMENT = 0 :=
    State.suppLost_off (State.packUsable_of_unfit (by rw [hpwr.samePack.packFit]; exact hunfit))
  have heq : x.packShow = x.pwrShow.suppLost := by
    rw [State.packShow_go (.inr (by rw [hxget, hwphase]; exact hstopped)), State.chargeGo_of_unfit]
    rw [hshow.samePack.packFit]
    exact hunfit
  rw [heq]
  generalize x.pwrShow.suppLost = y at hshow hoff ⊢
  exact ⟨hx.trans hshow.mono, hshow.get.trans ((hxget _).trans hpresent), hshow.get.trans ((hxget _).trans hvalid),
    hshow.get.trans ((hxget _).trans hwphase), hoff⟩

theorem packCheck_shorted (ntc : Nat) (v : Half) (temp : Int) (ok : Bool) (chem : Byte) (cap : Half) (ser : BitVec 64) (hoff : s.pwr.off = false)
    (hntc : ntc < 100) (hno : s.pwr.faults.contains 4 = false) (hpack : s.on R.PWR_STAT_ON_PACK = false) :
    goesOn (exec (.packCheck ntc v temp ok chem cap ser) s) fun t =>
      t.packPresent = false ∧ t.get R.PWR_CHG_STAT_FAULT = 4 ∧ t.get R.PWR_CHG_STAT_PHASE = 6 ∧ told s t E.PWR_CHG_FAULT := by
  set w : State := { s with pwr := { s.pwr with miss := 0, shorted := true } } with hw
  have hwget (g : Fld) : w.get g = s.get g := rfl
  have hwfaults : w.pwr.faults = s.pwr.faults := rfl
  have hexec : exec (.packCheck ntc v temp ok chem cap ser) s =
      .next (if (w.packFault 4).packPresent then (w.packFault 4).packGone else w.packFault 4) := by
    show Host.Outcome.next (s.packCheck ntc v.toNat temp ok chem.toNat cap.toNat ser.toNat) = _
    unfold State.packCheck
    rw [if_neg (by simp [hoff]), if_neg (by omega)]
    dsimp only
    rw [if_pos hntc]
    rfl
  refine ⟨_, hexec, ?_⟩
  clear_value w
  have hraised : FaultRaised 4 w (w.packFault 4) :=
    State.packFault_raised (by rw [hwfaults]; exact hno) (by decide) fun _ => (State.on_of_get (hwget _)).trans hpack
  have htold : told s (w.packFault 4) E.PWR_CHG_FAULT :=
    ⟨hraised.told.1, fun b hb => (hraised.told.2 b hb).trans (by rw [hwget])⟩
  generalize w.packFault 4 = x at hraised htold ⊢
  split
  · obtain ⟨hshown, hgone, -, hphase, -⟩ := State.packGone_shows (s := x)
    have hxget (g : Fld) : { x with pwr := { x.pwr with idOk := false } }.get g = x.get g := rfl
    generalize { x with pwr := { x.pwr with idOk := false } } = y at hshown hxget
    refine ⟨by rw [State.packPresent, State.on, hgone]; rfl, hshown.get.trans ((hxget _).trans hraised.fault), ?_, hshown.toldStill ?_⟩
    · rw [hphase, stoppedPhase, hraised.fault]
      rfl
    · exact ⟨(hxget _).trans htold.1, fun b hb => (hxget _).trans (htold.2 b hb)⟩
  · next habsent => exact ⟨by simpa using habsent, hraised.fault, hraised.phase, htold⟩

theorem packCheck_missing (ntc : Nat) (v : Half) (temp : Int) (ok : Bool) (chem : Byte) (cap : Half) (ser : BitVec 64) (hoff : s.pwr.off = false)
    (hntc : 500000 < ntc) (hpresent : s.packPresent = true) (hmiss : s.pwr.miss = 2) :
    goesOn (exec (.packCheck ntc v temp ok chem cap ser) s) fun t =>
      t.packPresent = false ∧ t.get R.PACK_CHARGE_VALID = 0 ∧ t.get R.PWR_CHG_STAT_PHASE = stoppedPhase s ∧ t.get R.PWR_STAT_SUPPLEMENT = 0 ∧
      t.packUsable = false ∧ told s t E.PWR_PACK_MISSING := by
  set w : State := { s with pwr := { s.pwr with miss := 3, shorted := false } } with hw
  have hwget (g : Fld) : w.get g = s.get g := rfl
  have hexec : exec (.packCheck ntc v temp ok chem cap ser) s = .next (w.packGone.raise E.PWR_PACK_MISSING) := by
    show Host.Outcome.next (s.packCheck ntc v.toNat temp ok chem.toNat cap.toNat ser.toNat) = _
    unfold State.packCheck
    rw [if_neg (by simp [hoff]), if_pos hntc]
    dsimp only
    rw [hmiss]
    exact congrArg Host.Outcome.next (if_pos (Bool.and_eq_true_iff.mpr ⟨hpresent, rfl⟩))
  refine ⟨_, hexec, ?_⟩
  clear_value w
  obtain ⟨hshown, hgone, hvalid, hphase, hsupp⟩ := State.packGone_shows (s := w)
  have hstop : stoppedPhase w = stoppedPhase s := by rw [stoppedPhase, hwget, stoppedPhase]
  have hyget (g : Fld) : { w with pwr := { w.pwr with idOk := false } }.get g = s.get g := hwget g
  generalize { w with pwr := { w.pwr with idOk := false } } = y at hshown hyget
  generalize w.packGone = x at hshown hgone hvalid hphase hsupp ⊢
  have htold : told s (x.raise E.PWR_PACK_MISSING) E.PWR_PACK_MISSING := by
    refine told_raise_of_cnt (by decide) fun b hb => ?_
    obtain rfl : 8 = b := Option.some.inj hb
    exact hshown.get.trans (hyget _)
  have hafter : Shown (toldFields E.PWR_PACK_MISSING) x (x.raise E.PWR_PACK_MISSING) := Shown.refl.raise
  generalize x.raise E.PWR_PACK_MISSING = z at htold hafter ⊢
  have hzero : z.get R.PACK_CHARGE_PRESENT = 0 := hafter.get.trans hgone
  exact ⟨by rw [State.packPresent, State.on, hzero]; rfl, hafter.get.trans hvalid, hafter.get.trans (hphase.trans hstop),
    hafter.get.trans hsupp, State.packUsable_of_unfit (State.packFit_of_absent hzero), htold⟩

/-! ## Faults -/

theorem packOvercurrent_shown (hoff : s.pwr.off = false) (hpresent : s.packPresent = true)
    (hflow : s.get R.PWR_CHG_STAT_PHASE = 3 ∨ s.on R.PWR_STAT_SUPPLEMENT = true) (hno : s.pwr.faults.contains 4 = false)
    (hpack : s.on R.PWR_STAT_ON_PACK = false) : goesOn (exec .packOvercurrent s) fun t =>
      t.get R.PWR_CHG_STAT_FAULT = 4 ∧ t.get R.PWR_CHG_STAT_PHASE = 6 ∧ t.get R.PWR_STAT_SUPPLEMENT = 0 ∧ told s t E.PWR_CHG_FAULT := by
  have hget (g : Fld) : s.short.get g = s.get g := rfl
  have hfaults : s.short.pwr.faults = s.pwr.faults := rfl
  have hexec : exec .packOvercurrent s = .next (s.short.packFault 4) := by
    show execPackOvercurrent s = _
    unfold execPackOvercurrent
    refine if_pos ?_
    simpa [hoff, hpresent] using hflow
  refine ⟨_, hexec, ?_⟩
  generalize s.short = w at hget hfaults ⊢
  have hraised : FaultRaised 4 w (w.packFault 4) :=
    State.packFault_raised (by rw [hfaults]; exact hno) (by decide) fun _ => (State.on_of_get (hget _)).trans hpack
  exact ⟨hraised.fault, hraised.phase, hraised.supp (by decide), hraised.told.1, fun b hb => (hraised.told.2 b hb).trans (by rw [hget])⟩

theorem prechgTimeout_shown (hphase : s.get R.PWR_CHG_STAT_PHASE = 2) (hoff : s.pwr.off = false) (hno : s.pwr.faults.contains 3 = false) :
    goesOn (exec .prechgTimeout s) fun t => t.get R.PWR_CHG_STAT_FAULT = 3 ∧ t.get R.PWR_CHG_STAT_PHASE = 6 ∧
      t.now = max s.now (s.pwr.preSince + 1800 * secClk) ∧ told s t E.PWR_CHG_FAULT := by
  generalize hdue : s.pwr.preSince + 1800 * secClk = due
  have hget (g : Fld) : (s.at due).get g = s.get g := s.get_at due g
  have hfaults : (s.at due).pwr.faults = s.pwr.faults := rfl
  have hnow : (s.at due).now = max s.now due := rfl
  have hexec : exec .prechgTimeout s = .next ((s.at due).packFault 3) := by
    show execPrechgTimeout s = _
    unfold execPrechgTimeout
    rw [hdue]
    exact if_pos (by simp [hphase, hoff])
  refine ⟨_, hexec, ?_⟩
  generalize s.at due = w at hget hfaults hnow ⊢
  have hraised : FaultRaised 3 w (w.packFault 3) :=
    State.packFault_raised (by rw [hfaults]; exact hno) (by decide) fun h => absurd h (by decide)
  have hadd : (w.addFault 3).now = w.now := rfl
  exact ⟨hraised.fault, hraised.phase, hraised.shown.now.trans (hadd.trans hnow), hraised.told.1,
    fun b hb => (hraised.told.2 b hb).trans (by rw [hget])⟩

theorem chgTimerExpire_shown (hphase : s.get R.PWR_CHG_STAT_PHASE = 3) (hoff : s.pwr.off = false) (hbudget : s.budgetUs ≤ s.pwr.acc)
    (hnone : s.pwr.faults = []) : goesOn (exec .chgTimerExpire s) fun t =>
      t.get R.PWR_CHG_STAT_FAULT = (if s.on R.PWR_CHG_STAT_FOLDBACK then 2 else 1) ∧ t.get R.PWR_CHG_STAT_PHASE = 6 ∧
      told s t E.PWR_CHG_FAULT := by
  have hexec : exec .chgTimerExpire s = .next (s.packFault (if s.on R.PWR_CHG_STAT_FOLDBACK then 2 else 1)) := by
    show execChgTimerExpire s = _
    unfold execChgTimerExpire
    exact if_pos (by simp [hphase, hoff, hbudget])
  have hraised (f : Nat) (hf : f = 1 ∨ f = 2) : FaultRaised f s (s.packFault f) :=
    State.packFault_raised (by rw [hnone]; rfl) (by omega) fun h => absurd h (by omega)
  have hr := hraised (if s.on R.PWR_CHG_STAT_FOLDBACK then 2 else 1) (by split <;> simp)
  exact ⟨_, hexec, hr.fault, hr.phase, hr.told⟩

/-! ## The probe -/

/-- The terminal voltage under the probe's load. -/
def State.probed (s : State) (v : Nat) : State := State.put { s with pwr := { s.pwr with shorted := false } } R.PACK_V_V_NOW v

theorem State.probed_shows (v : Nat) (hv : v < 2 ^ 16) : (s.probed v).get R.PACK_V_V_NOW = v ∧
    (∀ g : Fld, g.off R.PACK_V_V_NOW = true → (s.probed v).get g = s.get g) ∧ (s.probed v).pwr = { s.pwr with shorted := false } ∧
    (s.probed v).now = s.now ∧ ∀ a, (s.probed v).byte a = s.byte a := by
  set w : State := { s with pwr := { s.pwr with shorted := false } } with hw
  have hget (g : Fld) : w.get g = s.get g := rfl
  have hpwr : w.pwr = { s.pwr with shorted := false } := rfl
  have hnow : w.now = s.now := rfl
  have hbyte (a : Nat) : w.byte a = s.byte a := rfl
  change (w.put R.PACK_V_V_NOW v).get _ = _ ∧ (∀ g : Fld, _ → (w.put R.PACK_V_V_NOW v).get g = _) ∧ (w.put R.PACK_V_V_NOW v).pwr = _ ∧
    (w.put R.PACK_V_V_NOW v).now = _ ∧ ∀ a, (w.put R.PACK_V_V_NOW v).byte a = _
  clear_value w
  exact ⟨State.get_put_fits _ (by decide) hv, fun g hg => (State.get_put_off v hg).trans (hget g), by rw [State.put_pwr, hpwr],
    by rw [State.put_now, hnow], fun a => (State.byte_of_mem (State.put_mem ..) a).trans (hbyte a)⟩

theorem State.packProbe_eq {v ntc : Nat} (hoff : s.pwr.off = false) (hpresent : s.packPresent = true) (hv : 1000 ≤ v) (hntc : 100 ≤ ntc) :
    s.packProbe v ntc = (let s1 := (s.probed v).packJudge
    if s1.get R.PWR_CHG_STAT_PHASE ≠ 1 then s1
    else if !s1.pwr.idOk then s1.packFault faultID
    else if s1.get R.PACK_V_V_REST < 6000 then
      (State.put { s1.packCount with pwr := { s1.packCount.pwr with preSince := s1.now } } R.PWR_CHG_STAT_PHASE 2).foldShow
    else (State.put { s1 with pwr := { s1.pwr with acc := 0, lowDuty := 0 } } R.PWR_CHG_STAT_PHASE 3).put R.PWR_CHG_STAT_TIMER_ACC 0) := by
  unfold State.packProbe
  rw [if_neg (by simp [hoff, hpresent]), if_neg (by simp [Nat.not_lt.mpr hv, Nat.not_lt.mpr hntc])]
  rfl

theorem packProbe_over (v : Half) (ntc : Nat) (hoff : s.pwr.off = false) (hpresent : s.packPresent = true) (hv : 8800 < v.toNat)
    (hntc : 100 ≤ ntc) (hno : s.pwr.faults.contains 5 = false) (htemp : s.packTemp ≤ 600) : goesOn (exec (.packProbe v ntc) s) fun t =>
      t.get R.PWR_CHG_STAT_FAULT = 5 ∧ t.get R.PWR_CHG_STAT_PHASE = 6 ∧ told s t E.PWR_CHG_FAULT := by
  refine ⟨s.packProbe v.toNat ntc, rfl, ?_⟩
  rw [State.packProbe_eq hoff hpresent (by omega) hntc]
  obtain ⟨hnow, hget, hpwr, -, -⟩ := State.probed_shows (s := s) v.toNat v.isLt
  generalize s.probed v.toNat = w at hnow hget hpwr ⊢
  have hsame : SamePack s w := ⟨hget _ (by decide), hget _ (by decide), by rw [hpwr]⟩
  rw [State.packJudge_over (by rw [hsame.packPresent]; exact hpresent) (by rw [hnow]; exact hv) (by rw [hsame.packTemp]; exact htemp)]
  have hraised : FaultRaised 5 w (w.packFault 5) :=
    State.packFault_raised (by rw [hpwr]; exact hno) (by decide) fun h => absurd h (by decide)
  generalize w.packFault 5 = x at hraised ⊢
  dsimp only
  rw [if_pos (by rw [hraised.phase]; decide)]
  refine ⟨hraised.fault, hraised.phase, hraised.told.1, fun b hb => (hraised.told.2 b hb).trans ?_⟩
  obtain rfl : 6 = b := Option.some.inj hb
  rw [hget _ (by decide)]

/-- PRECHARGE begins. -/
def State.prechargeStart (w : State) : State :=
  (State.put { w.packCount with pwr := { w.packCount.pwr with preSince := w.now } } R.PWR_CHG_STAT_PHASE 2).foldShow

/-- PULSE begins, its safety timer at zero. -/
def State.pulseStart (w : State) : State :=
  (State.put { w with pwr := { w.pwr with acc := 0, lowDuty := 0 } } R.PWR_CHG_STAT_PHASE 3).put R.PWR_CHG_STAT_TIMER_ACC 0

/-- DETECT ends in PRECHARGE or in PULSE. -/
theorem State.packProbe_next {v ntc : Nat} {w : State} (hw : w = s.probed v) (hoff : s.pwr.off = false) (hpresent : s.packPresent = true)
    (hv : 1000 ≤ v) (hntc : 100 ≤ ntc) (hjudge : w.packJudge = w) (hphase : w.get R.PWR_CHG_STAT_PHASE = 1) (hid : w.pwr.idOk = true) :
    s.packProbe v ntc = if w.get R.PACK_V_V_REST < 6000 then w.prechargeStart else w.pulseStart := by
  rw [State.packProbe_eq hoff hpresent hv hntc, ← hw]
  dsimp only
  rw [hjudge, if_neg (by rw [hphase]; decide), if_neg (by rw [hid]; decide)]
  rfl

theorem State.mahAdd_mem {q : Int} : (s.mahAdd q).mem = s.mem := by
  unfold State.mahAdd
  exact State.put_mem ..

theorem State.packCount_mem : s.packCount.mem = s.mem := by
  unfold State.packCount
  dsimp only
  split
  · exact State.mahAdd_mem
  · rfl

theorem State.packSetI_mem {i : Int} : (s.packSetI i).mem = s.mem := (State.put_mem ..).trans State.packCount_mem

theorem State.foldShow_mem : s.foldShow.mem = s.mem := by
  unfold State.foldShow
  dsimp only
  split
  · exact State.packSetI_mem.trans ((State.put_mem ..).trans (State.put_mem ..))
  · exact (State.put_mem ..).trans (State.put_mem ..)

theorem State.prechargeStart_shows : s.prechargeStart.get R.PACK_V_V_NOW = s.get R.PACK_V_V_NOW ∧ s.prechargeStart.get R.PWR_CHG_STAT_PHASE = 2 ∧
    ∀ a, s.prechargeStart.byte a = s.byte a := by
  have hcount : Shown currentFields s s.packCount := Shown.refl.packCount
  have hmem : s.packCount.mem = s.mem := State.packCount_mem
  unfold State.prechargeStart
  generalize s.packCount = v at hcount hmem ⊢
  have hvget (g : Fld) : { v with pwr := { v.pwr with preSince := s.now } }.get g = v.get g := rfl
  have hvmem : { v with pwr := { v.pwr with preSince := s.now } }.mem = v.mem := rfl
  generalize { v with pwr := { v.pwr with preSince := s.now } } = w at hvget hvmem ⊢
  have hfold : Shown showFields (w.put R.PWR_CHG_STAT_PHASE 2) (w.put R.PWR_CHG_STAT_PHASE 2).foldShow := Shown.refl.foldShow
  refine ⟨?_, ?_, fun a => State.byte_of_mem ?_ a⟩
  · rw [hfold.get, State.get_put_off _ (by decide), hvget, hcount.get]
  · rw [hfold.get]
    exact State.get_put_fits _ (by decide) (by decide)
  · rw [State.foldShow_mem, State.put_mem, hvmem, hmem]

theorem State.pulseStart_shows : s.pulseStart.get R.PACK_V_V_NOW = s.get R.PACK_V_V_NOW ∧ s.pulseStart.get R.PWR_CHG_STAT_PHASE = 3 ∧
    s.pulseStart.pwr.acc = 0 ∧ s.pulseStart.get R.PWR_CHG_STAT_TIMER_ACC = 0 ∧ ∀ a, s.pulseStart.byte a = s.byte a := by
  unfold State.pulseStart
  have hvget (g : Fld) : { s with pwr := { s.pwr with acc := 0, lowDuty := 0 } }.get g = s.get g := rfl
  have hvmem : { s with pwr := { s.pwr with acc := 0, lowDuty := 0 } }.mem = s.mem := rfl
  have hvacc : { s with pwr := { s.pwr with acc := 0, lowDuty := 0 } }.pwr.acc = 0 := rfl
  generalize { s with pwr := { s.pwr with acc := 0, lowDuty := 0 } } = w at hvget hvmem hvacc ⊢
  refine ⟨?_, ?_, ?_, State.get_put_fits _ (by decide) (by decide), fun a => State.byte_of_mem ?_ a⟩
  · rw [State.get_put_off _ (by decide), State.get_put_off _ (by decide), hvget]
  · rw [State.get_put_off _ (by decide)]
    exact State.get_put_fits _ (by decide) (by decide)
  · rw [State.put_pwr, State.put_pwr, hvacc]
  · rw [State.put_mem, State.put_mem, hvmem]

theorem packProbe_shown (v : Half) (ntc : Nat) (hoff : s.pwr.off = false) (hpresent : s.packPresent = true) (hlow : 1000 ≤ v.toNat)
    (hntc : 100 ≤ ntc) (hphase : s.get R.PWR_CHG_STAT_PHASE = 1) (hid : s.pwr.idOk = true) (hv : v.toNat ≤ 8800)
    (hrest : s.get R.PACK_V_V_REST ≤ 8500) (htemp : s.packTemp ≤ 600) : goesOn (exec (.packProbe v ntc) s) fun t =>
      t.get R.PACK_V_V_NOW = v.toNat ∧ t.get R.PWR_CHG_STAT_PHASE = (if s.get R.PACK_V_V_REST < 6000 then 2 else 3) ∧
      (6000 ≤ s.get R.PACK_V_V_REST → t.pwr.acc = 0 ∧ t.get R.PWR_CHG_STAT_TIMER_ACC = 0) ∧ ∀ a, t.byte a = s.byte a := by
  obtain ⟨hnow, hget, hpwr, -, hbyte⟩ := State.probed_shows (s := s) v.toNat v.isLt
  have hnext := State.packProbe_next (s := s) (v := v.toNat) (ntc := ntc) rfl hoff hpresent hlow hntc
  generalize s.probed v.toNat = w at hnow hget hpwr hbyte hnext
  have hsame : SamePack s w := ⟨hget _ (by decide), hget _ (by decide), by rw [hpwr]⟩
  have hwrest : w.get R.PACK_V_V_REST = s.get R.PACK_V_V_REST := hget _ (by decide)
  have heq := hnext (State.packJudge_eq_self (by rw [hwrest]; exact hrest) (by rw [hnow]; exact hv) (by rw [hsame.packTemp]; exact htemp))
    ((hget _ (by decide)).trans hphase) (by rw [hsame.idOk, hid])
  refine ⟨s.packProbe v.toNat ntc, rfl, ?_⟩
  rw [heq, hwrest]
  split
  · next hpre =>
    obtain ⟨h1, h2, h3⟩ := State.prechargeStart_shows (s := w)
    exact ⟨h1.trans hnow, h2, fun h => absurd h (Nat.not_le.mpr hpre), fun a => (h3 a).trans (hbyte a)⟩
  · obtain ⟨h1, h2, h3, h4, h5⟩ := State.pulseStart_shows (s := w)
    exact ⟨h1.trans hnow, h2, fun _ => ⟨h3, h4⟩, fun a => (h5 a).trans (hbyte a)⟩

end Sys2Proof.Machine
end

/-! PROOFS. O48: a pack that is found, the cycles of PULSE, PRECHARGE's end and MAINTAIN (R354–R361). -/
section
-- One theorem after the other: the default proofs of the side conditions below are run by the elaborator, which waits for all that stands before.
set_option Elab.async false
namespace Sys2Proof.Machine

variable {s t u : State} {fs : List Fld} {f : Nat}

/-! ## Steps between phases -/

theorem prechargeDone_shown (hphase : s.get R.PWR_CHG_STAT_PHASE = 2) (hoff : s.pwr.off = false) : goesOn (exec .prechargeDone s) fun t =>
    t.get R.PWR_CHG_STAT_PHASE = 3 ∧ t.get R.PACK_V_V_REST = max 6000 (s.get R.PACK_V_V_REST) := by
  have hlt : s.get R.PACK_V_V_REST < 2 ^ 16 := State.get_lt ..
  generalize hrest : max 6000 (s.get R.PACK_V_V_REST) = rest
  have hfit : rest < 2 ^ 16 := by omega
  have hexec : exec .prechargeDone s =
      .next ((((State.put { s with pwr := { s.pwr with lowDuty := 0 } } R.PACK_V_V_REST rest).packSetI 0).put R.PWR_CHG_STAT_PHASE 3).pwrShow) := by
    show execPrechargeDone s = _
    unfold execPrechargeDone
    rw [hrest]
    exact if_pos (by simp [hphase, hoff])
  refine ⟨_, hexec, ?_⟩
  generalize ({ s with pwr := { s.pwr with lowDuty := 0 } } : State) = v
  have hput : (v.put R.PACK_V_V_REST rest).get R.PACK_V_V_REST = rest := State.get_put_fits _ (by decide) hfit
  generalize v.put R.PACK_V_V_REST rest = w at hput ⊢
  have hset : Shown currentFields w (w.packSetI 0) := Shown.refl.packSetI
  generalize w.packSetI 0 = x at hset ⊢
  have hshow : Shown showFields (x.put R.PWR_CHG_STAT_PHASE 3) (x.put R.PWR_CHG_STAT_PHASE 3).pwrShow := Shown.refl.pwrShow
  exact ⟨hshow.get.trans (State.get_put_fits _ (by decide) (by decide)),
    hshow.get.trans ((State.get_put_off _ (by decide)).trans (hset.get.trans hput))⟩

theorem maintainCheck_shown (v : Half) (hoff : s.pwr.off = false) (hphase : s.get R.PWR_CHG_STAT_PHASE = 4 ∨ s.get R.PWR_CHG_STAT_PHASE = 5)
    (hv : v.toNat ≤ 8500) (hfit : s.packFit = true) (hnow : s.get R.PACK_V_V_NOW ≤ 8800) : goesOn (exec (.maintainCheck v) s) fun t =>
      t.get R.PACK_V_V_REST = v.toNat ∧ t.get R.PWR_CHG_STAT_PHASE = (if v.toNat < 8100 then 3 else 5) := by
  set w : State := { s with pwr := { s.pwr with lowDuty := 0 } } with hw
  have hwget (g : Fld) : w.get g = s.get g := rfl
  have hwid : w.pwr.idOk = s.pwr.idOk := rfl
  generalize hnew : (if v.toNat < 8100 then 3 else 5) = new
  have hexec : exec (.maintainCheck v) s = .next (((w.put R.PACK_V_V_REST v.toNat).put R.PWR_CHG_STAT_PHASE new).packJudge.packShow) := by
    show Host.Outcome.next (s.maintainCheck v.toNat) = _
    unfold State.maintainCheck
    dsimp only
    rw [if_neg (by rcases hphase with h | h <;> simp [hoff, h]), hnew]
  refine ⟨_, hexec, ?_⟩
  clear_value w
  have hput : Shown [R.PACK_V_V_REST, R.PWR_CHG_STAT_PHASE] w ((w.put R.PACK_V_V_REST v.toNat).put R.PWR_CHG_STAT_PHASE new) := Shown.refl.put.put
  have hrest : ((w.put R.PACK_V_V_REST v.toNat).put R.PWR_CHG_STAT_PHASE new).get R.PACK_V_V_REST = v.toNat :=
    (State.get_put_off _ (by decide)).trans (State.get_put_fits _ (by decide) v.isLt)
  have hphase' : ((w.put R.PACK_V_V_REST v.toNat).put R.PWR_CHG_STAT_PHASE new).get R.PWR_CHG_STAT_PHASE = new :=
    State.get_put_fits _ (by decide) (by subst hnew; split <;> decide)
  generalize (w.put R.PACK_V_V_REST v.toNat).put R.PWR_CHG_STAT_PHASE new = x at hput hrest hphase' ⊢
  have hsame : SamePack s x := ⟨hput.get.trans (hwget _), hput.get.trans (hwget _), (hput.pwrOf Power.idOk).trans hwid⟩
  have htemp : s.packTemp ≤ 600 := by
    simp only [State.packFit, Bool.and_eq_true, decide_eq_true_eq] at hfit
    exact hfit.2
  rw [State.packJudge_eq_self (by rw [hrest]; exact hv) (by rw [hput.get, hwget]; exact hnow) (by rw [hsame.packTemp]; exact htemp)]
  have hshow : Shown suppFields x x.packShow := State.packShow_shown (.inl (by rw [hsame.packFit]; exact hfit))
    (by rw [hphase']; subst hnew; split <;> decide)
  exact ⟨hshow.get.trans hrest, hshow.get.trans hphase'⟩

/-! ## A pack that is found -/

/-- A new pack's identity is taken. -/
def State.newPack (s : State) (ok : Bool) (chem cap : Nat) : State :=
  { s with pwr := { s.pwr with idOk := idAccepted ok chem cap, shorted := false, miss := 0, lowDuty := 0, mahRest := 0, faults := [] } }

/-- What a new pack shows before its identity is judged. -/
def State.packNamed (s : State) (chem cap serial : Nat) : State :=
  let s2 := ((s.put R.PACK_CHARGE_PRESENT 1).put R.PACK_CHARGE_VALID 1).put R.PACK_CHARGE_MAH (Config.packCharge (s.get R.PACK_V_V_REST))
  let s3 := (((s2.put R.PACK_V_V_NOW (s.get R.PACK_V_V_REST)).put R.PACK_ID_CAP cap).put R.PACK_ID_CHEM chem).put64 R.PACK_SER_LO_SERIAL R.PACK_SER_HI_SERIAL serial
  ((s3.put R.PWR_CHG_STAT_FAULT 0).put R.PWR_CHG_STAT_PHASE 0).raise E.PWR_PACK_INSERTED

/-- The fields that a new pack changes before it is judged. -/
def namedFields : List Fld := [R.PACK_CHARGE_PRESENT, R.PACK_CHARGE_VALID, R.PACK_CHARGE_MAH, R.PACK_V_V_NOW, R.PACK_ID_CAP, R.PACK_ID_CHEM,
  R.PACK_SER_LO_SERIAL, R.PACK_SER_HI_SERIAL, R.PWR_CHG_STAT_FAULT, R.PWR_CHG_STAT_PHASE] ++ toldFields E.PWR_PACK_INSERTED

theorem State.packInsert_eq {ok : Bool} {chem cap serial : Nat} {x : State} (hx : x = (s.newPack ok chem cap).packNamed chem cap serial) :
    s.packInsert ok chem cap serial = (if x.pwr.idOk then x else x.packFault faultID).packShow := by
  rw [hx]
  rfl

theorem State.packNamed_shows (chem cap serial : Nat) (hcap : cap < 2 ^ 16) : Shown namedFields s (s.packNamed chem cap serial) ∧
    (s.packNamed chem cap serial).get R.PACK_CHARGE_PRESENT = 1 ∧ (s.packNamed chem cap serial).get R.PACK_V_V_NOW = s.get R.PACK_V_V_REST ∧
    (s.packNamed chem cap serial).get R.PACK_ID_CAP = cap ∧ (s.packNamed chem cap serial).get R.PWR_CHG_STAT_FAULT = 0 ∧
    (s.packNamed chem cap serial).get (intRawBit E.PWR_PACK_INSERTED) = 1 := by
  have hlt : s.get R.PACK_V_V_REST < 2 ^ 16 := State.get_lt ..
  unfold State.packNamed
  dsimp only
  generalize Config.packCharge (s.get R.PACK_V_V_REST) = mah
  generalize s.get R.PACK_V_V_REST = rest at hlt
  have h1 : Shown namedFields s (((s.put R.PACK_CHARGE_PRESENT 1).put R.PACK_CHARGE_VALID 1).put R.PACK_CHARGE_MAH mah) := Shown.refl.put.put.put
  have hpresent : (((s.put R.PACK_CHARGE_PRESENT 1).put R.PACK_CHARGE_VALID 1).put R.PACK_CHARGE_MAH mah).get R.PACK_CHARGE_PRESENT = 1 :=
    (State.get_put_off _ (by decide)).trans ((State.get_put_off _ (by decide)).trans (State.get_put_fits _ (by decide) (by decide)))
  generalize ((s.put R.PACK_CHARGE_PRESENT 1).put R.PACK_CHARGE_VALID 1).put R.PACK_CHARGE_MAH mah = v at h1 hpresent ⊢
  have h2 : Shown [R.PACK_V_V_NOW] v (v.put R.PACK_V_V_NOW rest) := Shown.refl.put
  have hnow : (v.put R.PACK_V_V_NOW rest).get R.PACK_V_V_NOW = rest := State.get_put_fits _ (by decide) hlt
  generalize v.put R.PACK_V_V_NOW rest = w at h2 hnow ⊢
  have h3 : Shown [R.PACK_ID_CAP] w (w.put R.PACK_ID_CAP cap) := Shown.refl.put
  have hcapGet : (w.put R.PACK_ID_CAP cap).get R.PACK_ID_CAP = cap := State.get_put_fits _ (by decide) hcap
  generalize w.put R.PACK_ID_CAP cap = x at h3 hcapGet ⊢
  have h4 : Shown [R.PACK_ID_CHEM, R.PACK_SER_LO_SERIAL, R.PACK_SER_HI_SERIAL] x
      ((x.put R.PACK_ID_CHEM chem).put64 R.PACK_SER_LO_SERIAL R.PACK_SER_HI_SERIAL serial) := Shown.put (Shown.put Shown.refl.put)
  generalize (x.put R.PACK_ID_CHEM chem).put64 R.PACK_SER_LO_SERIAL R.PACK_SER_HI_SERIAL serial = y at h4 ⊢
  have h5 : Shown [R.PWR_CHG_STAT_FAULT, R.PWR_CHG_STAT_PHASE] y ((y.put R.PWR_CHG_STAT_FAULT 0).put R.PWR_CHG_STAT_PHASE 0) := Shown.refl.put.put
  have hfault : ((y.put R.PWR_CHG_STAT_FAULT 0).put R.PWR_CHG_STAT_PHASE 0).get R.PWR_CHG_STAT_FAULT = 0 :=
    (State.get_put_off _ (by decide)).trans (State.get_put_fits _ (by decide) (by decide))
  generalize (y.put R.PWR_CHG_STAT_FAULT 0).put R.PWR_CHG_STAT_PHASE 0 = z at h5 hfault ⊢
  have h6 : Shown (toldFields E.PWR_PACK_INSERTED) z (z.raise E.PWR_PACK_INSERTED) := Shown.refl.raise
  refine ⟨?_, ?_, ?_, ?_, h6.get.trans hfault, State.get_raise _ _ (by decide)⟩
  · exact (((((h1.trans h2.mono).trans h3.mono).trans h4.mono).trans h5.mono).trans h6.mono)
  · rw [h6.get, h5.get, h4.get, h3.get, h2.get, hpresent]
  · rw [h6.get, h5.get, h4.get, h3.get, hnow]
  · rw [h6.get, h5.get, h4.get, hcapGet]

/-- What a fault other than a short leaves, whether it is raised now or was before. -/
theorem State.packFault_kept (hlt : f < 16) (h4 : f ≠ 4) : (∀ g : Fld, guarded false g.reg = true → g.clear faultFields = true →
    (s.packFault f).get g = s.get g) ∧ (s.packFault f).pwr.idOk = s.pwr.idOk ∧ (s.packFault f).pwr.miss = s.pwr.miss := by
  by_cases hno : s.pwr.faults.contains f = true
  · rw [State.packFault_again hno]
    exact ⟨fun _ _ _ => rfl, rfl, rfl⟩
  · have hraised : FaultRaised f s (s.packFault f) := State.packFault_raised (by simpa using hno) hlt fun h => absurd h h4
    exact ⟨fun g hg hc => hraised.shown.fields g hg hc, hraised.shown.pwrOf Power.idOk, hraised.shown.pwrOf Power.miss⟩

/-- What a pack that is read shows, before the readings are judged. -/
structure PackRead (rest : Nat) (temp : Int) (t : State) : Prop where
  present : t.get R.PACK_CHARGE_PRESENT = 1
  rest : t.get R.PACK_V_V_REST = rest
  temp : t.packTemp = temp
  miss : t.pwr.miss = 0

/-- Changes of other fields keep what was read. -/
theorem PackRead.of_fields {rest : Nat} {temp : Int} (h : PackRead rest temp t) (hp : u.get R.PACK_CHARGE_PRESENT = t.get R.PACK_CHARGE_PRESENT)
    (hr : u.get R.PACK_V_V_REST = t.get R.PACK_V_V_REST) (ht : u.get R.PACK_IT_T = t.get R.PACK_IT_T) (hm : u.pwr.miss = t.pwr.miss) :
    PackRead rest temp u :=
  ⟨hp.trans h.present, hr.trans h.rest, by rw [State.packTemp, ht, ← State.packTemp, h.temp], hm.trans h.miss⟩

theorem PackRead.packShow {rest : Nat} {temp : Int} (h : PackRead rest temp t) : PackRead rest temp t.packShow := by
  have hshow : Shown chargeFields t t.packShow := Shown.refl.packShow
  exact h.of_fields hshow.get hshow.get hshow.get (hshow.pwrOf Power.miss)

theorem PackRead.packFault {rest : Nat} {temp : Int} (h : PackRead rest temp t) (hlt : f < 16) (h4 : f ≠ 4) : PackRead rest temp (t.packFault f) := by
  obtain ⟨hget, -, hmiss⟩ := State.packFault_kept (s := t) hlt h4
  exact h.of_fields (hget _ (by decide) (by decide)) (hget _ (by decide) (by decide)) (hget _ (by decide) (by decide)) hmiss

theorem PackRead.packJudge {rest : Nat} {temp : Int} (h : PackRead rest temp t) (htemp : temp ≤ 600) : PackRead rest temp t.packJudge := by
  rw [State.packJudge_cool (by rw [h.temp]; exact htemp)]
  split
  · exact h.packFault (by decide) (by decide)
  · exact h

/-- What a new pack with an accepted identity shows. -/
structure PackNew (cap rest : Nat) (t : State) : Prop where
  inserted : t.get (intRawBit E.PWR_PACK_INSERTED) = 1
  cap : t.get R.PACK_ID_CAP = cap
  fault : t.get R.PWR_CHG_STAT_FAULT = 0
  now : t.get R.PACK_V_V_NOW = rest

theorem PackNew.packShow {cap rest : Nat} (h : PackNew cap rest t) : PackNew cap rest t.packShow := by
  have hshow : Shown chargeFields t t.packShow := Shown.refl.packShow
  exact ⟨hshow.get.trans h.inserted, hshow.get.trans h.cap, hshow.get.trans h.fault, hshow.get.trans h.now⟩

/-- What a new pack's readings leave. -/
theorem PackNew.judged {cap rest : Nat} {temp : Int} (h : PackNew cap rest t) (hread : PackRead rest temp t) (htemp : temp ≤ 600) :
    t.packJudge.packShow.get (intRawBit E.PWR_PACK_INSERTED) = 1 ∧ t.packJudge.packShow.get R.PACK_ID_CAP = cap ∧
    (rest ≤ 8500 → t.packJudge.packShow.get R.PWR_CHG_STAT_FAULT = 0) := by
  obtain ⟨hins, hcap, hfault, hnow⟩ := h
  have hcool : t.packTemp ≤ 600 := by rw [hread.temp]; exact htemp
  have hself (hrest : rest ≤ 8500) : t.packJudge = t :=
    State.packJudge_eq_self (by rw [hread.rest]; exact hrest) (by rw [hnow]; omega) hcool
  have hjudge : t.packJudge.get (intRawBit E.PWR_PACK_INSERTED) = 1 ∧ t.packJudge.get R.PACK_ID_CAP = cap := by
    rw [State.packJudge_cool hcool]
    split
    · obtain ⟨hget, -, -⟩ := State.packFault_kept (s := t) (f := 5) (by decide) (by decide)
      exact ⟨(hget _ (by decide) (by decide)).trans hins, (hget _ (by decide) (by decide)).trans hcap⟩
    · exact ⟨hins, hcap⟩
  have hfault' (hrest : rest ≤ 8500) : t.packJudge.get R.PWR_CHG_STAT_FAULT = 0 := by rw [hself hrest]; exact hfault
  generalize t.packJudge = x at hjudge hfault' ⊢
  have hshow : Shown chargeFields x x.packShow := Shown.refl.packShow
  exact ⟨hshow.get.trans hjudge.1, hshow.get.trans hjudge.2, fun hrest => hshow.get.trans (hfault' hrest)⟩

theorem State.packInsert_shows {ok : Bool} {chem cap serial rest : Nat} {temp : Int} (hcap : cap < 2 ^ 16) (hrest : s.get R.PACK_V_V_REST = rest)
    (htemp : s.packTemp = temp) : PackRead rest temp (s.packInsert ok chem cap serial) ∧
      (idAccepted ok chem cap = true → PackNew cap rest (s.packInsert ok chem cap serial)) := by
  have hv (g : Fld) : (s.newPack ok chem cap).get g = s.get g := rfl
  have hvid : (s.newPack ok chem cap).pwr.idOk = idAccepted ok chem cap := rfl
  have hvmiss : (s.newPack ok chem cap).pwr.miss = 0 := rfl
  have heq := fun x => State.packInsert_eq (s := s) (ok := ok) (chem := chem) (cap := cap) (serial := serial) (x := x)
  generalize s.newPack ok chem cap = v at hv hvid hvmiss heq
  obtain ⟨hshown, hpresent, hnow, hcapGet, hfault, hins⟩ := State.packNamed_shows (s := v) chem cap serial hcap
  rw [heq _ rfl]
  generalize v.packNamed chem cap serial = x at hshown hpresent hnow hcapGet hfault hins ⊢
  have hread : PackRead rest temp x := by
    refine ⟨hpresent, (hshown.get.trans (hv _)).trans hrest, ?_, (hshown.pwrOf Power.miss).trans hvmiss⟩
    rw [State.packTemp, hshown.get, hv, ← State.packTemp, htemp]
  have hid : x.pwr.idOk = idAccepted ok chem cap := (hshown.pwrOf Power.idOk).trans hvid
  constructor
  · split
    · exact hread.packShow
    · exact (hread.packFault (by decide) (by decide)).packShow
  · intro hok
    rw [if_pos (hid.trans hok)]
    exact PackNew.packShow ⟨hins, hcapGet, hfault, hnow.trans ((hv _).trans hrest)⟩

theorem State.packCheck_eq {ntc rest chem cap serial : Nat} {temp : Int} {ok : Bool} {w : State}
    (hw : w = ((State.packCount { s with pwr := { s.pwr with miss := 0 } }).put R.PACK_V_V_REST rest).put R.PACK_IT_T (ofSigned 16 temp))
    (hoff : s.pwr.off = false) (hlo : 100 ≤ ntc) (hhi : ntc ≤ 500000) :
    s.packCheck ntc rest temp ok chem cap serial = (if w.packPresent then w else w.packInsert ok chem cap serial).packJudge.packShow := by
  unfold State.packCheck
  rw [if_neg (by simp [hoff]), if_neg (Nat.not_lt.mpr hhi)]
  dsimp only
  rw [if_neg (Nat.not_lt.mpr hlo), hw]

theorem packCheck_present (ntc : Nat) (v : Half) (temp : Int) (ok : Bool) (chem : Byte) (cap : Half) (ser : BitVec 64) (hoff : s.pwr.off = false)
    (hlo : 100 ≤ ntc) (hhi : ntc ≤ 500000) (hcold : -400 ≤ temp) (hhot : temp ≤ 600) : goesOn (exec (.packCheck ntc v temp ok chem cap ser) s) fun t =>
      t.packPresent = true ∧ t.pwr.miss = 0 ∧ t.get R.PACK_V_V_REST = v.toNat ∧ t.packTemp = temp ∧
      (s.packPresent = false → idAccepted ok chem.toNat cap.toNat = true → t.get (intRawBit E.PWR_PACK_INSERTED) = 1 ∧
        t.get R.PACK_ID_CAP = cap.toNat ∧ (v.toNat ≤ 8500 → t.get R.PWR_CHG_STAT_FAULT = 0)) := by
  refine ⟨s.packCheck ntc v.toNat temp ok chem.toNat cap.toNat ser.toNat, rfl, ?_⟩
  rw [State.packCheck_eq rfl hoff hlo hhi]
  have hv (g : Fld) : { s with pwr := { s.pwr with miss := 0 } }.get g = s.get g := rfl
  have hvmiss : { s with pwr := { s.pwr with miss := 0 } }.pwr.miss = 0 := rfl
  generalize ({ s with pwr := { s.pwr with miss := 0 } } : State) = x at hv hvmiss ⊢
  have hcount : Shown currentFields x x.packCount := Shown.refl.packCount
  generalize x.packCount = y at hcount ⊢
  have hput : Shown [R.PACK_V_V_REST, R.PACK_IT_T] y ((y.put R.PACK_V_V_REST v.toNat).put R.PACK_IT_T (ofSigned 16 temp)) := Shown.refl.put.put
  have hrest : ((y.put R.PACK_V_V_REST v.toNat).put R.PACK_IT_T (ofSigned 16 temp)).get R.PACK_V_V_REST = v.toNat :=
    (State.get_put_off _ (by decide)).trans (State.get_put_fits _ (by decide) v.isLt)
  have htemp : ((y.put R.PACK_V_V_REST v.toNat).put R.PACK_IT_T (ofSigned 16 temp)).packTemp = temp := by
    have hfit : ofSigned 16 temp < 2 ^ 16 := by unfold ofSigned; omega
    have hget := (y.put R.PACK_V_V_REST v.toNat).get_put_fits (f := R.PACK_IT_T) (by decide) hfit
    rw [State.packTemp, hget, toSigned_ofSigned (by omega) (by omega)]
  generalize (y.put R.PACK_V_V_REST v.toNat).put R.PACK_IT_T (ofSigned 16 temp) = w at hput hrest htemp ⊢
  have hpresent : w.packPresent = s.packPresent := State.on_of_get ((hput.get.trans hcount.get).trans (hv _))
  have hmiss : w.pwr.miss = 0 := (hput.pwrOf Power.miss).trans ((hcount.pwrOf Power.miss).trans hvmiss)
  have hdone {z : State} (h : PackRead v.toNat temp z) : z.packJudge.packShow.packPresent = true ∧ z.packJudge.packShow.pwr.miss = 0 ∧
      z.packJudge.packShow.get R.PACK_V_V_REST = v.toNat ∧ z.packJudge.packShow.packTemp = temp := by
    obtain ⟨h1, h2, h3, h4⟩ := (h.packJudge hhot).packShow
    exact ⟨by rw [State.packPresent, State.on, h1]; rfl, h4, h2, h3⟩
  cases hwas : w.packPresent
  · rw [if_neg Bool.false_ne_true]
    obtain ⟨hread, hnew⟩ := State.packInsert_shows (s := w) (ok := ok) (chem := chem.toNat) (serial := ser.toNat) cap.isLt hrest htemp
    obtain ⟨h1, h2, h3, h4⟩ := hdone hread
    refine ⟨h1, h2, h3, h4, fun _ hok => ?_⟩
    exact (hnew hok).judged hread hhot
  · rw [if_pos rfl]
    obtain ⟨h1, h2, h3, h4⟩ := hdone ⟨by
      have hon : w.get R.PACK_CHARGE_PRESENT ≠ 0 := by simpa [State.packPresent, State.on] using hwas
      have hlt : w.get R.PACK_CHARGE_PRESENT < 2 ^ 1 := State.get_lt ..
      omega, hrest, htemp, hmiss⟩
    exact ⟨h1, h2, h3, h4, fun habs => by rw [← hpresent, hwas] at habs; cases habs⟩

end Sys2Proof.Machine
end

/-! PROOFS. O48: one cycle of PULSE (R353, R359, R360), and the pack and the charger as stated. -/
section
-- One theorem after the other: the default proofs of the side conditions below are run by the elaborator, which waits for all that stands before.
set_option Elab.async false
namespace Sys2Proof.Machine

variable {s t u : State}

theorem State.foldback_le : s.foldback ≤ 800 := by
  unfold State.foldback
  dsimp only
  generalize (if s.packPresent = true then s.packTemp else 0) = temp
  generalize hf : (if temp ≤ 400 then 800 else if 450 ≤ temp then 100 else (800 - 14 * (temp - 400)).toNat) = f
  have hle : f ≤ 800 := by
    subst hf
    split
    · exact Nat.le_refl _
    · split <;> omega
  split <;> omega

theorem State.chargeSet_le : s.chargeSet ≤ s.iSet := by
  unfold State.chargeSet
  split
  · exact Nat.zero_le _
  · calc s.iSet * s.foldback / 800 ≤ s.iSet * 800 / 800 := Nat.div_le_div_right (Nat.mul_le_mul_left _ State.foldback_le)
      _ = s.iSet := Nat.mul_div_cancel _ (by decide)

/-- The cycle's readings. -/
def State.cycleRead (s : State) (u rest : Nat) (temp : Int) : State :=
  ((((s.at u).put R.PACK_V_V_REST rest).put R.PACK_V_V_NOW rest).put R.PACK_IT_T (ofSigned 16 temp)).packCount

/-- The charge of the cycle: `chg` ms at `i` mA, which counts `us` against the budget. -/
def State.cycleCharged (s : State) (us low chg i : Nat) (lim : Bool) : State :=
  let s2 := State.mahAdd { s with pwr := { s.pwr with acc := s.pwr.acc + us, lowDuty := low } } ((chg * i * msClk : Nat) : Int)
  let s3 := ((s2.put R.PACK_IT_I (ofSigned 16 i)).put R.PWR_CHG_STAT_DUTY (chg / 10)).put R.PWR_CHG_STAT_INLIM (boolNat lim)
  s3.put R.PWR_CHG_STAT_TIMER_ACC (s3.pwr.acc / 60000000)

/-- The end of charging. -/
def State.cycleEnd (s : State) : State :=
  (((s.packSetI 0).put R.PWR_CHG_STAT_PHASE 4).put R.PACK_CHARGE_MAH (s.get R.PACK_ID_CAP)).pwrShow.raise E.PWR_CHG_DONE

/-- What a cycle counts against the budget, in µs. -/
def cycleUs (chg i set : Nat) : Nat := chg * max 125000 (min 1000000 (i * 1000000 / set)) / 1000 + (1000 - chg) * 125

theorem State.chargeCycle_eq {chg i vTerm vRest sys u : Nat} {temp : Int} {w x : State} (hw : w = s.cycleRead u vRest temp)
    (hoff : s.pwr.off = false) (hphase : s.get R.PWR_CHG_STAT_PHASE = 3) (hen : s.on R.PWR_CHG_CTRL_EN = true) (hpause : w.tempPause = false)
    (hx : x = w.cycleCharged (cycleUs (min 900 chg) (min i (min w.chargeSet (w.chargeLeft sys))) w.iSet)
      (if min 900 chg < 100 then w.pwr.lowDuty + 1 else 0) (min 900 chg) (min i (min w.chargeSet (w.chargeLeft sys))) (w.chargeLeft sys < w.chargeSet))
    (hterm : ¬ 8800 < vTerm) (hjudge : x.packJudge = x) : s.chargeCycle chg i vTerm vRest temp sys u =
      if x.packShow.get R.PWR_CHG_STAT_PHASE = 3 && 8300 ≤ vRest && 3 ≤ (if min 900 chg < 100 then w.pwr.lowDuty + 1 else 0) then
        x.packShow.cycleEnd else x.packShow := by
  unfold State.chargeCycle
  rw [if_neg (by simp [hoff, hphase, hen])]
  change (let s1 := s.cycleRead u vRest temp
    let left := s1.chargeLeft sys
    let i := min i (min s1.chargeSet left)
    let chg := if s1.tempPause then 0 else min 900 chg
    let low := if chg < 100 then s1.pwr.lowDuty + 1 else 0
    let s4 := (s1.cycleCharged (cycleUs chg i s1.iSet) low chg i (left < s1.chargeSet)).packJudge
    let s5 := (if 8800 < vTerm then s4.packFault faultOVERVOLT else s4).packShow
    if s5.get R.PWR_CHG_STAT_PHASE = 3 && 8300 ≤ vRest && 3 ≤ low then s5.cycleEnd else s5) = _
  rw [← hw]
  dsimp only
  rw [hpause, if_neg Bool.false_ne_true, ← hx, if_neg hterm, hjudge]

theorem toSigned_range {temp : Int} (h0 : 0 ≤ temp) (h1 : temp ≤ 450) : ofSigned 16 temp < 2 ^ 16 ∧ toSigned 16 (ofSigned 16 temp) = temp :=
  ⟨by unfold ofSigned; omega, toSigned_ofSigned (by omega) (by omega)⟩

theorem State.cycleRead_shows {rest : Nat} {temp : Int} (u : Nat) (hrest : rest < 2 ^ 16) (h0 : 0 ≤ temp) (h1 : temp ≤ 450) :
    Shown ([R.PACK_V_V_REST, R.PACK_V_V_NOW, R.PACK_IT_T] ++ currentFields) (s.at u) (s.cycleRead u rest temp) ∧
    (s.cycleRead u rest temp).get R.PACK_V_V_REST = rest ∧ (s.cycleRead u rest temp).get R.PACK_V_V_NOW = rest ∧
    (s.cycleRead u rest temp).packTemp = temp := by
  obtain ⟨hfit, hback⟩ := toSigned_range h0 h1
  unfold State.cycleRead
  generalize s.at u = v
  have hput : Shown ([R.PACK_V_V_REST, R.PACK_V_V_NOW, R.PACK_IT_T] ++ currentFields) v
      (((v.put R.PACK_V_V_REST rest).put R.PACK_V_V_NOW rest).put R.PACK_IT_T (ofSigned 16 temp)) := Shown.refl.put.put.put
  have hr : (((v.put R.PACK_V_V_REST rest).put R.PACK_V_V_NOW rest).put R.PACK_IT_T (ofSigned 16 temp)).get R.PACK_V_V_REST = rest :=
    (State.get_put_off _ (by decide)).trans ((State.get_put_off _ (by decide)).trans (State.get_put_fits _ (by decide) hrest))
  have hn : (((v.put R.PACK_V_V_REST rest).put R.PACK_V_V_NOW rest).put R.PACK_IT_T (ofSigned 16 temp)).get R.PACK_V_V_NOW = rest :=
    (State.get_put_off _ (by decide)).trans (State.get_put_fits _ (by decide) hrest)
  have ht : (((v.put R.PACK_V_V_REST rest).put R.PACK_V_V_NOW rest).put R.PACK_IT_T (ofSigned 16 temp)).get R.PACK_IT_T = ofSigned 16 temp :=
    State.get_put_fits _ (by decide) hfit
  generalize ((v.put R.PACK_V_V_REST rest).put R.PACK_V_V_NOW rest).put R.PACK_IT_T (ofSigned 16 temp) = w at hput hr hn ht ⊢
  have hcount : Shown currentFields w w.packCount := Shown.refl.packCount
  refine ⟨hput.trans hcount.mono, hcount.get.trans hr, hcount.get.trans hn, ?_⟩
  rw [State.packTemp, hcount.get, ht, hback]

/-- The fields that a cycle's charge changes. -/
def cycleFields : List Fld := currentFields ++ [R.PWR_CHG_STAT_DUTY, R.PWR_CHG_STAT_INLIM, R.PWR_CHG_STAT_TIMER_ACC]

theorem State.cycleCharged_shows (us low i : Nat) {chg : Nat} (lim : Bool) (hchg : chg ≤ 900) :
    (∀ g : Fld, guarded false g.reg = true → g.clear cycleFields = true → (s.cycleCharged us low chg i lim).get g = s.get g) ∧
    (s.cycleCharged us low chg i lim).get R.PACK_IT_I ≤ i ∧ (s.cycleCharged us low chg i lim).get R.PWR_CHG_STAT_DUTY = chg / 10 ∧
    (s.cycleCharged us low chg i lim).pwr.acc = s.pwr.acc + us ∧ (s.cycleCharged us low chg i lim).now = s.now ∧
    (s.cycleCharged us low chg i lim).pwr.idOk = s.pwr.idOk := by
  unfold State.cycleCharged
  generalize ((chg * i * msClk : Nat) : Int) = q
  have hvget (g : Fld) : { s with pwr := { s.pwr with acc := s.pwr.acc + us, lowDuty := low } }.get g = s.get g := rfl
  have hvnow : { s with pwr := { s.pwr with acc := s.pwr.acc + us, lowDuty := low } }.now = s.now := rfl
  have hvacc : { s with pwr := { s.pwr with acc := s.pwr.acc + us, lowDuty := low } }.pwr.acc = s.pwr.acc + us := rfl
  have hvid : { s with pwr := { s.pwr with acc := s.pwr.acc + us, lowDuty := low } }.pwr.idOk = s.pwr.idOk := rfl
  generalize ({ s with pwr := { s.pwr with acc := s.pwr.acc + us, lowDuty := low } } : State) = v at hvget hvnow hvacc hvid ⊢
  have hadd : Shown cycleFields v (v.mahAdd q) := Shown.refl.mahAdd (by decide)
  generalize v.mahAdd q = w at hadd ⊢
  dsimp only
  have hi : (w.put R.PACK_IT_I (ofSigned 16 i)).get R.PACK_IT_I ≤ i := by
    rw [w.get_put_same (f := R.PACK_IT_I) _ (by decide)]
    have hof : ofSigned 16 (i : Int) ≤ i := by unfold ofSigned; omega
    exact Nat.le_trans (Nat.mod_le _ _) hof
  have hput : Shown cycleFields w (w.put R.PACK_IT_I (ofSigned 16 i)) := Shown.refl.put
  generalize w.put R.PACK_IT_I (ofSigned 16 i) = x at hi hput ⊢
  have hduty : (x.put R.PWR_CHG_STAT_DUTY (chg / 10)).get R.PWR_CHG_STAT_DUTY = chg / 10 :=
    State.get_put_fits _ (by decide) (Nat.lt_of_le_of_lt (Nat.div_le_div_right hchg) (by decide))
  have hput2 : Shown [R.PWR_CHG_STAT_DUTY] x (x.put R.PWR_CHG_STAT_DUTY (chg / 10)) := Shown.refl.put
  generalize x.put R.PWR_CHG_STAT_DUTY (chg / 10) = y at hduty hput2 ⊢
  have hput3 : Shown [R.PWR_CHG_STAT_INLIM] y (y.put R.PWR_CHG_STAT_INLIM (boolNat lim)) := Shown.refl.put
  generalize y.put R.PWR_CHG_STAT_INLIM (boolNat lim) = z at hput3 ⊢
  have hput4 : Shown [R.PWR_CHG_STAT_TIMER_ACC] z (z.put R.PWR_CHG_STAT_TIMER_ACC (z.pwr.acc / 60000000)) := Shown.refl.put
  generalize z.put R.PWR_CHG_STAT_TIMER_ACC (z.pwr.acc / 60000000) = r at hput4 ⊢
  have hall : Shown cycleFields v r := hadd.trans (hput.trans (hput2.mono.trans (hput3.mono.trans hput4.mono)))
  refine ⟨fun g hg hc => (hall.fields g hg hc).trans (hvget g), ?_, ?_, (hall.pwrOf Power.acc).trans hvacc, hall.now.trans hvnow,
    (hall.pwrOf Power.idOk).trans hvid⟩
  · rw [hput4.get, hput3.get, hput2.get]
    exact hi
  · rw [hput4.get, hput3.get, hduty]

/-- What the end of charging shows. -/
theorem State.cycleEnd_shows : s.cycleEnd.get R.PWR_CHG_STAT_PHASE = 4 ∧ s.cycleEnd.get R.PACK_CHARGE_MAH = s.get R.PACK_ID_CAP ∧
    told s s.cycleEnd E.PWR_CHG_DONE ∧ s.cycleEnd.now = s.now ∧ s.cycleEnd.get R.PACK_V_V_REST = s.get R.PACK_V_V_REST ∧
    s.cycleEnd.get R.PWR_CHG_STAT_DUTY = s.get R.PWR_CHG_STAT_DUTY ∧ s.cycleEnd.pwr.acc = s.pwr.acc := by
  have hlt : s.get R.PACK_ID_CAP < 2 ^ 16 := State.get_lt ..
  unfold State.cycleEnd
  generalize s.get R.PACK_ID_CAP = cap at hlt
  have hset : Shown (R.PWR_CHG_STAT_PHASE :: currentFields) s (((s.packSetI 0).put R.PWR_CHG_STAT_PHASE 4).put R.PACK_CHARGE_MAH cap) :=
    Shown.put (Shown.put Shown.refl.packSetI)
  have hphase : (((s.packSetI 0).put R.PWR_CHG_STAT_PHASE 4).put R.PACK_CHARGE_MAH cap).get R.PWR_CHG_STAT_PHASE = 4 :=
    (State.get_put_off _ (by decide)).trans (State.get_put_fits _ (by decide) (by decide))
  have hmah : (((s.packSetI 0).put R.PWR_CHG_STAT_PHASE 4).put R.PACK_CHARGE_MAH cap).get R.PACK_CHARGE_MAH = cap :=
    State.get_put_fits _ (by decide) hlt
  generalize ((s.packSetI 0).put R.PWR_CHG_STAT_PHASE 4).put R.PACK_CHARGE_MAH cap = v at hset hphase hmah ⊢
  have hshow := State.pwrShow_calm_current (s := v) (by rw [hphase]; decide)
  generalize v.pwrShow = w at hshow ⊢
  have hraise : Shown (toldFields E.PWR_CHG_DONE) w (w.raise E.PWR_CHG_DONE) := Shown.refl.raise
  have htold : told s (w.raise E.PWR_CHG_DONE) E.PWR_CHG_DONE := by
    refine told_raise_of_cnt (by decide) fun b hb => ?_
    obtain rfl : 7 = b := Option.some.inj hb
    exact hshow.get.trans hset.get
  generalize w.raise E.PWR_CHG_DONE = x at hraise htold ⊢
  exact ⟨hraise.get.trans (hshow.get.trans hphase), hraise.get.trans (hshow.get.trans hmah), htold,
    hraise.now.trans (hshow.now.trans hset.now), hraise.get.trans (hshow.get.trans hset.get),
    hraise.get.trans (hshow.get.trans hset.get), (hraise.pwrOf Power.acc).trans ((hshow.pwrOf Power.acc).trans (hset.pwrOf Power.acc))⟩

theorem chargeCycle_shown (chg i vt vr : Half) (temp : Int) (sys : Half) (u : Nat) (hoff : s.pwr.off = false)
    (hphase : s.get R.PWR_CHG_STAT_PHASE = 3) (hpresent : s.packPresent = true) (hid : s.pwr.idOk = true) (hen : s.on R.PWR_CHG_CTRL_EN = true)
    (h0 : 0 ≤ temp) (h1 : temp ≤ 450) (hvr : vr.toNat ≤ 8500) (hvt : vt.toNat ≤ 8800) : goesOn (exec (.chargeCycle chg i vt vr temp sys u) s) fun t =>
      let ended := 8300 ≤ vr.toNat ∧ chg.toNat < 100 ∧ 2 ≤ s.pwr.lowDuty
      t.now = max s.now u ∧ t.get R.PACK_V_V_REST = vr.toNat ∧ t.get R.PWR_CHG_STAT_DUTY = min 900 chg.toNat / 10 ∧
      s.pwr.acc ≤ t.pwr.acc ∧ (ended → t.get R.PWR_CHG_STAT_PHASE = 4 ∧ t.get R.PACK_CHARGE_MAH = s.get R.PACK_ID_CAP ∧
        told s t E.PWR_CHG_DONE) ∧ (¬ ended → t.get R.PWR_CHG_STAT_PHASE = 3) ∧
      (¬ ended → s.on R.PWR_STAT_SUPPLEMENT = false → t.get R.PACK_IT_I ≤ i.toNat ∧ t.get R.PACK_IT_I ≤ s.iSet ∧
        (s.get R.PWR_ILIM_ACT * 100 ≤ sys.toNat + 200 → t.get R.PACK_IT_I = 0)) := by
  obtain ⟨hread, hrest, hnow, htemp⟩ := State.cycleRead_shows (s := s) (rest := vr.toNat) u vr.isLt h0 h1
  have hatget (g : Fld) : (s.at u).get g = s.get g := s.get_at u g
  have hatnow : (s.at u).now = max s.now u := rfl
  have hatpwr : (s.at u).pwr = s.pwr := rfl
  have heq := fun x => State.chargeCycle_eq (s := s) (chg := chg.toNat) (i := i.toNat) (vTerm := vt.toNat) (vRest := vr.toNat) (sys := sys.toNat)
    (u := u) (temp := temp) (x := x) rfl hoff hphase hen
  generalize s.cycleRead u vr.toNat temp = w at hread hrest hnow htemp heq
  generalize s.at u = v at hread hatget hatnow hatpwr
  have hwpresent : w.packPresent = true := (State.on_of_get (hread.get.trans (hatget _))).trans hpresent
  have hwid : w.pwr.idOk = true := by rw [hread.pwrOf Power.idOk, hatpwr, hid]
  have hpause : w.tempPause = false := by
    rw [State.tempPause, htemp, decide_eq_false (by omega : ¬ 450 < temp), decide_eq_false (by omega : ¬ temp < 0)]
    simp
  have hlow : w.pwr.lowDuty = s.pwr.lowDuty := by rw [hread.pwrOf Power.lowDuty, hatpwr]
  have hset : w.chargeSet ≤ s.iSet := by
    have h := State.chargeSet_le (s := w)
    rwa [State.iSet, hread.get, hatget, ← State.iSet] at h
  have hleft (hsmall : s.get R.PWR_ILIM_ACT * 100 ≤ sys.toNat + 200) : w.chargeLeft sys.toNat = 0 := by
    unfold State.chargeLeft
    rw [hread.get, hatget]
    exact if_pos (by omega)
  generalize hicur : min i.toNat (min w.chargeSet (w.chargeLeft sys.toNat)) = cur at heq
  generalize hus : cycleUs (min 900 chg.toNat) cur w.iSet = us at heq
  obtain ⟨hget, hcur, hduty, hacc, hxnow, hxid⟩ := State.cycleCharged_shows (s := w) us (if min 900 chg.toNat < 100 then w.pwr.lowDuty + 1 else 0) cur
    (chg := min 900 chg.toNat) (decide (w.chargeLeft sys.toNat < w.chargeSet)) (Nat.min_le_left _ _)
  replace heq := heq _ hpause rfl (Nat.not_lt.mpr hvt)
  generalize w.cycleCharged us (if min 900 chg.toNat < 100 then w.pwr.lowDuty + 1 else 0) (min 900 chg.toNat) cur
    (decide (w.chargeLeft sys.toNat < w.chargeSet)) = x at hget hcur hduty hacc hxnow hxid heq
  have hsame : SamePack w x := ⟨hget _ (by decide) (by decide), hget _ (by decide) (by decide), hxid⟩
  have hxrest : x.get R.PACK_V_V_REST = vr.toNat := (hget _ (by decide) (by decide)).trans hrest
  have hxphase : x.get R.PWR_CHG_STAT_PHASE = 3 := (hget _ (by decide) (by decide)).trans (hread.get.trans ((hatget _).trans hphase))
  have hxfit : x.packFit = true := by
    rw [hsame.packFit, State.packFit, hwpresent, hwid, htemp, decide_eq_true (by omega : -200 ≤ temp), decide_eq_true (by omega : temp ≤ 600)]
    rfl
  have hxs {g : Fld} (hg : guarded false g.reg = true) (hc : g.clear cycleFields = true)
      (hr : g.clear ([R.PACK_V_V_REST, R.PACK_V_V_NOW, R.PACK_IT_T] ++ currentFields) = true) : x.get g = s.get g :=
    (hget g hg hc).trans ((hread.fields g hg hr).trans (hatget g))
  have hjudge : x.packJudge = x := State.packJudge_eq_self (by rw [hxrest]; exact hvr)
    (by rw [hget _ (by decide) (by decide), hnow]; omega) (by rw [hsame.packTemp, htemp]; omega)
  have hshow : Shown suppFields x x.packShow := State.packShow_shown (.inl hxfit) (by rw [hxphase]; decide)
  have hshowI (hsupp : s.on R.PWR_STAT_SUPPLEMENT = false) : x.packShow.get R.PACK_IT_I = x.get R.PACK_IT_I := by
    have hpwr := State.pwrShow_calm_current (s := x) (by rw [hxphase]; decide)
    rw [State.packShow_stays (.inl hxfit) (by rw [hxphase]; decide), State.suppLost_eq_self, hpwr.get]
    rw [hpwr.on, State.on_of_get (hxs (by decide) (by decide) (by decide)), hsupp]
  refine ⟨s.chargeCycle chg.toNat i.toNat vt.toNat vr.toNat temp sys.toNat u, rfl, ?_⟩
  rw [heq hjudge]
  generalize x.packShow = y at hshow hshowI ⊢
  have hyphase : y.get R.PWR_CHG_STAT_PHASE = 3 := hshow.get.trans hxphase
  have hynow : y.now = max s.now u := hshow.now.trans (hxnow.trans (hread.now.trans hatnow))
  have hyrest : y.get R.PACK_V_V_REST = vr.toNat := hshow.get.trans hxrest
  have hyduty : y.get R.PWR_CHG_STAT_DUTY = min 900 chg.toNat / 10 := hshow.get.trans hduty
  have hyacc : s.pwr.acc ≤ y.pwr.acc := by
    rw [hshow.pwrOf Power.acc, hacc, hread.pwrOf Power.acc, hatpwr]
    exact Nat.le_add_right _ _
  have hcond : (y.get R.PWR_CHG_STAT_PHASE = 3 && decide (8300 ≤ vr.toNat) &&
      decide (3 ≤ if min 900 chg.toNat < 100 then w.pwr.lowDuty + 1 else 0)) = true ↔ 8300 ≤ vr.toNat ∧ chg.toNat < 100 ∧ 2 ≤ s.pwr.lowDuty := by
    rw [hyphase, hlow]
    simp only [decide_true, Bool.true_and, Bool.and_eq_true, decide_eq_true_eq]
    split <;> omega
  by_cases hend : 8300 ≤ vr.toNat ∧ chg.toNat < 100 ∧ 2 ≤ s.pwr.lowDuty
  · rw [if_pos (hcond.mpr hend)]
    obtain ⟨h1, h2, h3, h4, h5, h6, h7⟩ := State.cycleEnd_shows (s := y)
    refine ⟨h4.trans hynow, h5.trans hyrest, h6.trans hyduty, hyacc.trans (Nat.le_of_eq h7.symm), fun _ => ⟨h1, h2.trans ?_, ?_⟩,
      fun h => absurd hend h, fun h => absurd hend h⟩
    · exact hshow.get.trans (hxs (by decide) (by decide) (by decide))
    · refine ⟨h3.1, fun b hb => (h3.2 b hb).trans ?_⟩
      obtain rfl : 7 = b := Option.some.inj hb
      rw [hshow.get, hxs (by decide) (by decide) (by decide)]
  · rw [if_neg (mt hcond.mp hend)]
    refine ⟨hynow, hyrest, hyduty, hyacc, fun h => absurd h hend, fun _ => hyphase, fun _ hsupp => ?_⟩
    rw [hshowI hsupp]
    refine ⟨hcur.trans (by omega), hcur.trans (by omega), fun hsmall => ?_⟩
    have hzero := hleft hsmall
    omega

/-- Settles O48: each clause by what its command shows. -/
theorem packAndCharger : Obligations.PackAndCharger :=
  ⟨fun _ => faultClr_shown, fun _ ntc v temp ok chem cap ser => packCheck_shorted ntc v temp ok chem cap ser,
    fun _ ntc v temp ok chem cap ser => packCheck_missing ntc v temp ok chem cap ser,
    fun _ ntc v temp ok chem cap ser => packCheck_present ntc v temp ok chem cap ser, fun _ v ntc => packProbe_shown v ntc,
    fun _ v ntc => packProbe_over v ntc, fun _ => packOvercurrent_shown, fun _ chg i vt vr temp sys u => chargeCycle_shown chg i vt vr temp sys u,
    fun _ => prechgTimeout_shown, fun _ => prechargeDone_shown, fun _ v => maintainCheck_shown v, fun _ => chgTimerExpire_shown⟩

end Sys2Proof.Machine
end

/-! PROOFS. O47: input loss, HOLD-UP and OFF (R353, R362–R364). -/
section
-- One theorem after the other: the default proofs of the side conditions below are run by the elaborator, which waits for all that stands before.
set_option Elab.async false
namespace Sys2Proof.Machine

variable {b : Bool} {s t u : State} {fs : List Fld}

/-! ## Work that ends with the input -/

theorem Calm.xferStep (h : Calm b s t) {n : Nat} (done xs : List Xfer) : Calm b s (xferStep t n done xs).1 := by
  induction xs generalizing t done with
  | nil => exact h
  | cons x xs ih =>
    unfold Machine.xferStep
    split
    · exact ih h _
    · split
      · split
        · exact ih h _
        · exact ih h.raise _
      · exact ih h _

theorem Calm.xferAdvance (h : Calm b s t) {n : Nat} : Calm b s (t.xferAdvance n) := by
  have hstep : Calm b s (Machine.xferStep t n [] t.exp.xfers).1 := h.xferStep _ _
  unfold State.xferAdvance
  generalize Machine.xferStep t n [] t.exp.xfers = p at hstep ⊢
  exact hstep.same

theorem Calm.xferPush (h : Calm b s t) {r : SlotRun} {dark : Bool} : Calm b s (t.xferPush r dark) := h.same

theorem Calm.slotsEndNow (h : Calm b s t) : Calm b s t.slotsEndNow := by
  have hends : Calm b s ((slotOrder (t.exp.slots.filter (fun r => !r.ended))).foldl
      (fun s r => (s.strobeEnd r.slot s.now).xferPush r (!r.started)) t) :=
    .foldl _ h fun _ _ _ hu => hu.strobeEnd.xferPush
  unfold State.slotsEndNow
  dsimp only
  generalize (slotOrder (t.exp.slots.filter (fun r => !r.ended))).foldl
      (fun s r => (s.strobeEnd r.slot s.now).xferPush r (!r.started)) t = u at hends ⊢
  have hnone : Calm b s { u with exp := { u.exp with slots := [] } } := hends.same
  exact hnone.xferAdvance

theorem Calm.compactResume (h : Calm b s t) : Calm b s t.compactResume := by
  unfold State.compactResume State.bgProgress
  have hbg : Calm b s { t with cal := { t.cal with bgAt := mapIns t.cal.bgAt 2 t.runTime } } := h.same
  exact .ite (Calm.put hbg.put) h

theorem Calm.nvsEnd (h : Calm b s t) {result count : Nat} : Calm b s (t.nvsEnd result count) := by
  have hnone : Calm b s { t with nvs := { t.nvs with job := none } } := h.same
  have hputs := hnone.compactResume.put (f := R.NVS_CMD_STAT_BUSY) (v := 0) |>.put (f := R.NVS_CMD_STAT_RESULT) (v := result)
    |>.put (f := R.NVS_CMD_STAT_COUNT) (v := count)
  unfold State.nvsEnd
  dsimp only
  split
  · exact hputs.raise
  · exact hputs.raise

theorem Calm.nvsHold (h : Calm b s t) : Calm b s t.nvsHold := by
  unfold State.nvsHold
  split
  · exact h
  · exact Calm.nvsEnd (.ite h.compactCut h)

theorem State.jobEndNow_none : s.jobEndNow.job.active = none := by
  unfold State.jobEndNow State.jobEndAt
  split
  · assumption
  · rfl

/-- Work ends: no job runs and no derived tick waits. -/
def State.holdStop (s : State) : State := s.accrue.calAbort.calDiscard.jobEndNow.tickHalt.slotsEndNow.nvsHold

theorem State.holdStop_shows : Calm true s s.holdStop ∧ s.holdStop.job.active = none ∧ s.holdStop.tick.queue = [] := by
  have hcal : Calm true s s.accrue.calAbort.calDiscard := Calm.refl.accrue.calAbort.calDiscard
  unfold State.holdStop
  generalize s.accrue.calAbort.calDiscard = u at hcal ⊢
  have hjob : u.jobEndNow.job.active = none := State.jobEndNow_none
  have hjobCalm : Calm true s u.jobEndNow := hcal.jobEndNow
  generalize u.jobEndNow = v at hjob hjobCalm ⊢
  have hqueue : v.tickHalt.tick.queue = [] := rfl
  have hhalt : Calm true v v.tickHalt := Calm.refl.tickHalt
  generalize v.tickHalt = w at hqueue hhalt ⊢
  have hrest : Calm true w w.slotsEndNow.nvsHold := Calm.refl.slotsEndNow.nvsHold
  exact ⟨(hjobCalm.trans hhalt).trans hrest, hrest.job (hhalt.job hjob), hrest.queue hqueue⟩

/-! ## The pack's charge, counted up to now -/

theorem State.mahAdd_eq (q : Int) : ∃ regs pwr, s.mahAdd q = { s with regs := regs, pwr := pwr } := ⟨_, _, rfl⟩

theorem State.packCount_eq : ∃ regs pwr, s.packCount = { s with regs := regs, pwr := pwr } := by
  unfold State.packCount
  dsimp only
  split
  · obtain ⟨r, p, h⟩ := s.mahAdd_eq (toSigned 16 (s.get R.PACK_IT_I) * ((s.now - s.pwr.ibatAt : Nat) : Int))
    rw [h]
    exact ⟨_, _, rfl⟩
  · exact ⟨_, _, rfl⟩

theorem State.packSetI_eq (i : Int) : ∃ regs pwr, s.packSetI i = { s with regs := regs, pwr := pwr } := by
  obtain ⟨r, p, h⟩ := s.packCount_eq
  unfold State.packSetI
  rw [h]
  exact ⟨_, _, rfl⟩

theorem State.chargeStop_eq : ∃ regs pwr, s.chargeStop = { s with regs := regs, pwr := pwr } := by
  obtain ⟨r, p, h⟩ := s.packSetI_eq 0
  unfold State.chargeStop
  rw [h]
  exact ⟨_, _, rfl⟩

/-- The charge is counted up to now: less than a whole mAh is left over. -/
structure State.Settled (s : State) : Prop where
  pos : 0 ≤ s.pwr.mahRest
  lt : s.pwr.mahRest < (3600 * secClk : Nat)
  at_ : s.pwr.ibatAt = s.now

theorem State.Settled.of (h : s.Settled) (hpwr : t.pwr = s.pwr) (hnow : t.now = s.now) : t.Settled :=
  ⟨by rw [hpwr]; exact h.pos, by rw [hpwr]; exact h.lt, by rw [hpwr, hnow]; exact h.at_⟩

theorem mahUnit_pos : (0 : Int) < (3600 * secClk : Nat) := by decide

/-- The state in which the pack's current has been counted. -/
theorem State.mahAdd_shows (q : Int) : (s.mahAdd q).get R.PACK_CHARGE_MAH =
    (clampI 0 65535 ((s.get R.PACK_CHARGE_MAH : Int) + (s.pwr.mahRest + q) / (3600 * secClk : Nat))).toNat ∧
    (s.mahAdd q).pwr = { s.pwr with mahRest := (s.pwr.mahRest + q) % (3600 * secClk : Nat) } ∧ (s.mahAdd q).now = s.now := by
  unfold State.mahAdd
  generalize hm : (s.get R.PACK_CHARGE_MAH : Int) + (s.pwr.mahRest + q) / (3600 * secClk : Nat) = m
  generalize hr : (s.pwr.mahRest + q) % (3600 * secClk : Nat) = r
  have hfit : (clampI 0 65535 m).toNat < 2 ^ 16 := by
    unfold clampI
    split
    · decide
    · split
      · decide
      · omega
  dsimp only
  rw [hm, hr]
  generalize (clampI 0 65535 m).toNat = k at hfit ⊢
  have hp : { s with pwr := { s.pwr with mahRest := r } }.pwr = { s.pwr with mahRest := r } := rfl
  have hn : { s with pwr := { s.pwr with mahRest := r } }.now = s.now := rfl
  generalize ({ s with pwr := { s.pwr with mahRest := r } } : State) = v at hp hn ⊢
  exact ⟨State.get_put_fits _ (by decide) hfit, by rw [State.put_pwr, hp], by rw [State.put_now, hn]⟩

/-- Counting nothing keeps the charge. -/
theorem State.mahAdd_zero (h0 : 0 ≤ s.pwr.mahRest) (h1 : s.pwr.mahRest < (3600 * secClk : Nat)) :
    (s.mahAdd 0).get R.PACK_CHARGE_MAH = s.get R.PACK_CHARGE_MAH ∧ (s.mahAdd 0).pwr = s.pwr := by
  obtain ⟨hget, hpwr, -⟩ := s.mahAdd_shows 0
  have hlt : s.get R.PACK_CHARGE_MAH < 2 ^ 16 := State.get_lt ..
  rw [Int.add_zero, Int.ediv_eq_zero_of_lt h0 h1, Int.add_zero] at hget
  rw [Int.add_zero, Int.emod_eq_of_lt h0 h1] at hpwr
  refine ⟨?_, hpwr⟩
  rw [hget]
  unfold clampI
  rw [if_neg (by omega), if_neg (by omega)]
  exact Int.toNat_natCast _

/-- The count taken once more. -/
theorem State.Settled.packCount (h : s.Settled) : s.packCount.get R.PACK_CHARGE_MAH = s.get R.PACK_CHARGE_MAH ∧ s.packCount.Settled := by
  obtain ⟨h0, h1, hat⟩ := h
  have hzero : toSigned 16 (s.get R.PACK_IT_I) * ((s.now - s.pwr.ibatAt : Nat) : Int) = 0 := by
    rw [hat, Nat.sub_self]
    exact Int.mul_zero _
  obtain ⟨hget, hpwr⟩ := State.mahAdd_zero h0 h1
  obtain ⟨-, -, hnow⟩ := s.mahAdd_shows 0
  unfold State.packCount
  rw [hzero]
  generalize s.mahAdd 0 = v at hget hpwr hnow ⊢
  dsimp only
  split
  · refine ⟨hget, ⟨?_, ?_, rfl⟩⟩
    · show 0 ≤ v.pwr.mahRest
      rw [hpwr]
      exact h0
    · show v.pwr.mahRest < _
      rw [hpwr]
      exact h1
  · exact ⟨rfl, ⟨h0, h1, rfl⟩⟩

theorem State.Settled.put (h : s.Settled) {f : Fld} {v : Nat} : (s.put f v).Settled := h.of (State.put_pwr ..) (State.put_now ..)

theorem State.Settled.packSetI (h : s.Settled) {i : Int} :
    (s.packSetI i).get R.PACK_CHARGE_MAH = s.get R.PACK_CHARGE_MAH ∧ (s.packSetI i).Settled :=
  ⟨(State.get_put_off _ (by decide)).trans h.packCount.1, h.packCount.2.put⟩

/-- Where the current flows without a break, counting settles the charge. -/
theorem State.packCount_settled (hflow : s.on R.PWR_STAT_SUPPLEMENT = true) : s.packCount.Settled := by
  unfold State.packCount
  rw [if_pos (by rw [hflow]; simp)]
  dsimp only
  obtain ⟨-, hpwr, hnow⟩ := s.mahAdd_shows (toSigned 16 (s.get R.PACK_IT_I) * ((s.now - s.pwr.ibatAt : Nat) : Int))
  generalize toSigned 16 (s.get R.PACK_IT_I) * ((s.now - s.pwr.ibatAt : Nat) : Int) = q at hpwr hnow ⊢
  generalize hr : (s.pwr.mahRest + q) % (3600 * secClk : Nat) = r at hpwr
  have h0 : 0 ≤ r := hr ▸ Int.emod_nonneg _ (Int.ne_of_gt mahUnit_pos)
  have h1 : r < (3600 * secClk : Nat) := hr ▸ Int.emod_lt_of_pos _ mahUnit_pos
  generalize s.mahAdd q = v at hpwr hnow ⊢
  have hrest : v.pwr.mahRest = r := by rw [hpwr]
  refine ⟨?_, ?_, rfl⟩
  · show 0 ≤ v.pwr.mahRest
    rw [hrest]
    exact h0
  · show v.pwr.mahRest < _
    rw [hrest]
    exact h1

end Sys2Proof.Machine
end

/-! PROOFS. O47: HOLD-UP is entered, and OFF (R353, R362–R364). -/
section
-- One theorem after the other: the default proofs of the side conditions below are run by the elaborator, which waits for all that stands before.
set_option Elab.async false
namespace Sys2Proof.Machine

variable {b : Bool} {s t u : State} {fs : List Fld}

/-! ## HOLD-UP is entered -/

/-- What HOLD-UP shows, and the current that the pack gives from then on. -/
def State.holdShow (s : State) (cause : Nat) : State :=
  (((((s.setPower pHOLDUP).put R.PWR_STAT_HOLD_PHASE 1).put R.PWR_STAT_HOLD_CAUSE cause).chargeStop.put R.PWR_STAT_SUPPLEMENT 0).put
    R.PWR_STAT_ON_PACK 1).packDraw

/-- The marks of HOLD-UP: three flush steps are due, what waited for power does not any more. -/
def State.holdMark (s : State) (cause : Nat) (standby : Bool) : State :=
  { s with
    nvs := { s.nvs with life := { s.nvs.life with holdups := s.nvs.life.holdups + 1 } }
    tick := { s.tick with flushLeft := 3 }
    pwr := { s.pwr with started := false, held := false, wake := false, flushEnded := false, qualSince := none
                        fromStandby := standby, qualified := cause = 2 && s.pwr.qualified } }

theorem State.holdUp_eq (cause : Nat) : s.holdUp cause =
    (s.holdStop.settleFrom (((s.holdStop.holdShow cause).holdMark cause (s.power = pSTANDBY)).put R.PWR_STAT_QUALIFYING 0)).raise
      (if cause = 2 then E.PWR_OVERLOAD else E.PWR_INPUT_LOSS) := rfl

theorem State.setPower_frame (p : Nat) : (s.setPower p).pwr = s.pwr ∧ (s.setPower p).now = s.now ∧ (s.setPower p).tick = s.tick ∧
    (s.setPower p).job = s.job ∧ (s.setPower p).nvs = s.nvs ∧ (s.setPower p).mem = s.mem := by
  obtain ⟨r, c, h⟩ := s.setPower_eq p
  rw [h]
  exact ⟨rfl, rfl, rfl, rfl, rfl, rfl⟩

theorem State.setPower_get {p : Nat} {g : Fld} (h : g.clear [R.PWR_STAT_STATE, R.EXP_STAT_SENSOR_ON] = true) : (s.setPower p).get g = s.get g := by
  have hoff := Fld.clear_iff.mp h
  obtain ⟨u, v, heq, hregs⟩ : ∃ (u : State) (v : Nat), s.setPower p = u.put R.EXP_STAT_SENSOR_ON v ∧ u.regs = (s.put R.PWR_STAT_STATE p).regs := ⟨_, _, rfl, rfl⟩
  have hu : u.get g = (s.put R.PWR_STAT_STATE p).get g := by rw [State.get, State.reg, hregs, State.get, State.reg]
  rw [heq, State.get_put_off _ (hoff _ (by decide)), hu, State.get_put_off _ (hoff _ (by decide))]

/-- What HOLD-UP shows. -/
structure HoldShown (cause : Nat) (s t : State) : Prop where
  power : t.get R.PWR_STAT_STATE = 4
  phase : t.get R.PWR_STAT_HOLD_PHASE = 1
  causeShown : t.get R.PWR_STAT_HOLD_CAUSE = cause
  pack : t.get R.PWR_STAT_ON_PACK = 1
  supp : t.get R.PWR_STAT_SUPPLEMENT = 0
  charge : s.Settled → t.get R.PACK_CHARGE_MAH = s.get R.PACK_CHARGE_MAH
  qualified : t.pwr.qualified = s.pwr.qualified
  tick : t.tick = s.tick
  job : t.job = s.job

theorem State.packDraw_shows : Shown currentFields s s.packDraw ∧ s.packDraw.tick = s.tick ∧ s.packDraw.job = s.job ∧
    (s.Settled → s.packDraw.get R.PACK_CHARGE_MAH = s.get R.PACK_CHARGE_MAH) := by
  have hf : Shown currentFields s s.fresh.2 := Shown.refl.same
  have htick : s.fresh.2.tick = s.tick := rfl
  have hjob : s.fresh.2.job = s.job := rfl
  have hset : s.Settled → s.fresh.2.Settled := fun h => h.of rfl rfl
  have hget : s.fresh.2.get R.PACK_CHARGE_MAH = s.get R.PACK_CHARGE_MAH := rfl
  unfold State.packDraw
  dsimp only
  generalize s.fresh.2 = v at hf htick hjob hset hget ⊢
  generalize (-((Config.freeNat s.fresh.1 % 32769 : Nat) : Int)) = i
  obtain ⟨r, p, h⟩ := v.packSetI_eq i
  refine ⟨hf.packSetI, ?_, ?_, fun hs => ((hset hs).packSetI).1.trans hget⟩
  · rw [h, ← htick]
  · rw [h, ← hjob]

theorem State.holdShow_shows {cause : Nat} (hcause : cause < 4) : HoldShown cause s (s.holdShow cause) := by
  obtain ⟨hpwr, hnow, htick, hjob, -, -⟩ := s.setPower_frame pHOLDUP
  have hpower : (s.setPower pHOLDUP).get R.PWR_STAT_STATE = 4 := s.setPower_power (by decide)
  have hmah : (s.setPower pHOLDUP).get R.PACK_CHARGE_MAH = s.get R.PACK_CHARGE_MAH := State.setPower_get (by decide)
  unfold State.holdShow
  generalize s.setPower pHOLDUP = v at hpwr hnow htick hjob hpower hmah ⊢
  have hput : Shown [R.PWR_STAT_HOLD_PHASE, R.PWR_STAT_HOLD_CAUSE] v ((v.put R.PWR_STAT_HOLD_PHASE 1).put R.PWR_STAT_HOLD_CAUSE cause) := Shown.refl.put.put
  have hphase : ((v.put R.PWR_STAT_HOLD_PHASE 1).put R.PWR_STAT_HOLD_CAUSE cause).get R.PWR_STAT_HOLD_PHASE = 1 :=
    (State.get_put_off _ (by decide)).trans (State.get_put_fits _ (by decide) (by decide))
  have hcauseGet : ((v.put R.PWR_STAT_HOLD_PHASE 1).put R.PWR_STAT_HOLD_CAUSE cause).get R.PWR_STAT_HOLD_CAUSE = cause :=
    State.get_put_fits _ (by decide) hcause
  have hputTick : ((v.put R.PWR_STAT_HOLD_PHASE 1).put R.PWR_STAT_HOLD_CAUSE cause).tick = v.tick := (State.put_tick ..).trans (State.put_tick ..)
  have hputJob : ((v.put R.PWR_STAT_HOLD_PHASE 1).put R.PWR_STAT_HOLD_CAUSE cause).job = v.job := (State.put_job ..).trans (State.put_job ..)
  have hsettled : s.Settled → ((v.put R.PWR_STAT_HOLD_PHASE 1).put R.PWR_STAT_HOLD_CAUSE cause).Settled := fun h => (h.of hpwr hnow).put.put
  generalize (v.put R.PWR_STAT_HOLD_PHASE 1).put R.PWR_STAT_HOLD_CAUSE cause = w at hput hphase hcauseGet hputTick hputJob hsettled ⊢
  have hstop : Shown (R.PWR_CHG_STAT_PHASE :: currentFields) w w.chargeStop := Shown.put Shown.refl.packSetI
  have hstopTick : w.chargeStop.tick = w.tick ∧ w.chargeStop.job = w.job := by
    obtain ⟨r, p, h⟩ := w.chargeStop_eq
    rw [h]
    exact ⟨rfl, rfl⟩
  have hstopMah (h : w.Settled) : w.chargeStop.get R.PACK_CHARGE_MAH = w.get R.PACK_CHARGE_MAH ∧ w.chargeStop.Settled :=
    ⟨(State.get_put_off _ (by decide)).trans h.packSetI.1, h.packSetI.2.put⟩
  generalize w.chargeStop = x at hstop hstopTick hstopMah ⊢
  have hput2 : Shown [R.PWR_STAT_SUPPLEMENT, R.PWR_STAT_ON_PACK] x ((x.put R.PWR_STAT_SUPPLEMENT 0).put R.PWR_STAT_ON_PACK 1) := Shown.refl.put.put
  have hsupp : ((x.put R.PWR_STAT_SUPPLEMENT 0).put R.PWR_STAT_ON_PACK 1).get R.PWR_STAT_SUPPLEMENT = 0 :=
    (State.get_put_off _ (by decide)).trans (State.get_put_fits _ (by decide) (by decide))
  have hpack : ((x.put R.PWR_STAT_SUPPLEMENT 0).put R.PWR_STAT_ON_PACK 1).get R.PWR_STAT_ON_PACK = 1 :=
    State.get_put_fits _ (by decide) (by decide)
  have hput2Tick : ((x.put R.PWR_STAT_SUPPLEMENT 0).put R.PWR_STAT_ON_PACK 1).tick = x.tick := (State.put_tick ..).trans (State.put_tick ..)
  have hput2Job : ((x.put R.PWR_STAT_SUPPLEMENT 0).put R.PWR_STAT_ON_PACK 1).job = x.job := (State.put_job ..).trans (State.put_job ..)
  have hsettled2 : x.Settled → ((x.put R.PWR_STAT_SUPPLEMENT 0).put R.PWR_STAT_ON_PACK 1).Settled := fun h => h.put.put
  generalize (x.put R.PWR_STAT_SUPPLEMENT 0).put R.PWR_STAT_ON_PACK 1 = y at hput2 hsupp hpack hput2Tick hput2Job hsettled2 ⊢
  obtain ⟨hdraw, hdrawTick, hdrawJob, hdrawMah⟩ := y.packDraw_shows
  generalize y.packDraw = z at hdraw hdrawTick hdrawJob hdrawMah ⊢
  refine ⟨?_, ?_, ?_, hdraw.get.trans hpack, hdraw.get.trans hsupp, fun h => ?_, ?_, ?_, ?_⟩
  · rw [hdraw.get, hput2.get, hstop.get, hput.get, hpower]
  · rw [hdraw.get, hput2.get, hstop.get, hphase]
  · rw [hdraw.get, hput2.get, hstop.get, hcauseGet]
  · obtain ⟨hx, hxs⟩ := hstopMah (hsettled h)
    rw [hdrawMah (hsettled2 hxs), hput2.get, hx, hput.get, hmah]
  · rw [hdraw.pwrOf Power.qualified, hput2.pwrOf Power.qualified, hstop.pwrOf Power.qualified, hput.pwrOf Power.qualified, hpwr]
  · rw [hdrawTick, hput2Tick, hstopTick.1, hputTick, htick]
  · rw [hdrawJob, hput2Job, hstopTick.2, hputJob, hjob]

/-- The event of HOLD-UP's cause. -/
def holdEvent (cause : Nat) : Ev := if cause = 2 then E.PWR_OVERLOAD else E.PWR_INPUT_LOSS

/-- What HOLD-UP leaves. -/
structure HeldUp (cause : Nat) (s t : State) : Prop where
  power : t.power = pHOLDUP
  phase : t.get R.PWR_STAT_HOLD_PHASE = 1
  causeShown : t.get R.PWR_STAT_HOLD_CAUSE = cause
  pack : t.get R.PWR_STAT_ON_PACK = 1
  supp : t.get R.PWR_STAT_SUPPLEMENT = 0
  charge : s.Settled → t.get R.PACK_CHARGE_MAH = s.get R.PACK_CHARGE_MAH
  flush : t.tick.flushLeft = 3
  queue : t.tick.queue = []
  job : t.job.active = none
  qualified : t.pwr.qualified = (decide (cause = 2) && s.pwr.qualified)
  told : t.get (intRawBit (holdEvent cause)) = 1

theorem holdEvent_clear {cause : Nat} {g : Fld} (h : g.clear (toldFields E.PWR_OVERLOAD ++ toldFields E.PWR_INPUT_LOSS) = true) :
    g.clear (toldFields (holdEvent cause)) = true := by
  have hall := Fld.clear_iff.mp h
  refine Fld.clear_iff.mpr fun f hf => hall f ?_
  unfold holdEvent at hf
  split at hf
  · exact List.mem_append_left _ hf
  · exact List.mem_append_right _ hf

theorem State.holdUp_shows {cause : Nat} (hcause : cause < 4) : HeldUp cause s (s.holdUp cause) := by
  obtain ⟨hcalm, hjob, hqueue⟩ := s.holdStop_shows
  have hbit : (holdEvent cause).bit < 32 := by
    unfold holdEvent
    split <;> decide
  rw [State.holdUp_eq, ← holdEvent]
  generalize decide (s.power = pSTANDBY) = standby
  generalize s.holdStop = w at hcalm hjob hqueue ⊢
  have hshow : HoldShown cause w (w.holdShow cause) := w.holdShow_shows hcause
  generalize w.holdShow cause = x at hshow ⊢
  have hget (g : Fld) : (x.holdMark cause standby).get g = x.get g := rfl
  have hflush : (x.holdMark cause standby).tick.flushLeft = 3 := rfl
  have hq : (x.holdMark cause standby).tick.queue = x.tick.queue := rfl
  have hj : (x.holdMark cause standby).job = x.job := rfl
  have hqual : (x.holdMark cause standby).pwr.qualified = (decide (cause = 2) && x.pwr.qualified) := rfl
  generalize x.holdMark cause standby = y at hget hflush hq hj hqual ⊢
  have hput : ∀ g : Fld, g.off R.PWR_STAT_QUALIFYING = true → (y.put R.PWR_STAT_QUALIFYING 0).get g = y.get g := fun g hg => State.get_put_off 0 hg
  have hputTick : (y.put R.PWR_STAT_QUALIFYING 0).tick = y.tick := State.put_tick ..
  have hputJob : (y.put R.PWR_STAT_QUALIFYING 0).job = y.job := State.put_job ..
  have hputPwr : (y.put R.PWR_STAT_QUALIFYING 0).pwr = y.pwr := State.put_pwr ..
  obtain ⟨sy, mb, hsettle⟩ := State.settleFrom_eq (s := w) (y.put R.PWR_STAT_QUALIFYING 0)
  have hsget (g : Fld) : (w.settleFrom (y.put R.PWR_STAT_QUALIFYING 0)).get g = (y.put R.PWR_STAT_QUALIFYING 0).get g := by rw [hsettle]; rfl
  have hstick : (w.settleFrom (y.put R.PWR_STAT_QUALIFYING 0)).tick = y.tick := by rw [hsettle]; exact hputTick
  have hsjob : (w.settleFrom (y.put R.PWR_STAT_QUALIFYING 0)).job = y.job := by rw [hsettle]; exact hputJob
  have hspwr : (w.settleFrom (y.put R.PWR_STAT_QUALIFYING 0)).pwr = y.pwr := by rw [hsettle]; exact hputPwr
  generalize w.settleFrom (y.put R.PWR_STAT_QUALIFYING 0) = z at hsget hstick hsjob hspwr ⊢
  have hend {g : Fld} (hg : g.clear (toldFields E.PWR_OVERLOAD ++ toldFields E.PWR_INPUT_LOSS) = true) (hoff : g.off R.PWR_STAT_QUALIFYING = true) :
      (z.raise (holdEvent cause)).get g = x.get g := by
    rw [State.get_raise_clear (holdEvent_clear hg), hsget, hput g hoff, hget]
  refine ⟨(hend (by decide) (by decide)).trans hshow.power, (hend (by decide) (by decide)).trans hshow.phase,
    (hend (by decide) (by decide)).trans hshow.causeShown, (hend (by decide) (by decide)).trans hshow.pack,
    (hend (by decide) (by decide)).trans hshow.supp, fun h => ?_, ?_, ?_, ?_, ?_, State.get_raise _ _ hbit⟩
  · exact (hend (by decide) (by decide)).trans ((hshow.charge (h.of hcalm.pwr hcalm.now)).trans hcalm.get)
  · rw [State.raise_tick, hstick, hflush]
  · rw [State.raise_tick, hstick, hq, hshow.tick, hqueue]
  · rw [State.raise_job, hsjob, hj, hshow.job, hjob]
  · rw [State.raise_pwr, hspwr, hqual, hshow.qualified, hcalm.pwr]

/-! ## OFF -/

theorem mapFind_memClear (m : List Host.Cell) (hi a : Nat) : mapGet memDefault (memClear m 0 hi) a = if a < hi then memDefault else mapGet memDefault m a := by
  have hfind := mapFind_filter (fun k => decide (k < 0 ∨ hi ≤ k)) m a
  have hmem : memClear m 0 hi = m.filter fun p => decide (p.1 < 0 ∨ hi ≤ p.1) := rfl
  rw [mapGet, mapGet, hmem, hfind]
  by_cases h : a < hi
  · rw [if_neg (by simpa using h), if_pos h]
    rfl
  · rw [if_pos (by simpa using h), if_neg h]

theorem State.goOff_shows : s.goOff.pwr.off = true ∧ s.goOff.lines = [] ∧ s.goOff.eng = [] ∧ (∀ a, a < nvsBase → s.goOff.byte a = 0) ∧
    (∀ a, nvsBase ≤ a → s.goOff.byte a = s.byte a) ∧ s.goOff.nvs.journal = s.nvs.journal ∧ s.goOff.nvs.cat = s.nvs.cat ∧ s.goOff.now = s.now := by
  refine ⟨rfl, rfl, rfl, fun a ha => ?_, fun a ha => ?_, rfl, rfl, rfl⟩
  · show mapGet memDefault (memClear s.mem 0 nvsBase) a = 0
    rw [mapFind_memClear, if_pos ha]
    rfl
  · show mapGet memDefault (memClear s.mem 0 nvsBase) a = mapGet memDefault s.mem a
    rw [mapFind_memClear, if_neg (by omega)]

end Sys2Proof.Machine
end

/-! PROOFS. O47: the commands of input loss, supplement, overload and hand-back (R353, R362–R364). -/
section
-- One theorem after the other: the default proofs of the side conditions below are run by the elaborator, which waits for all that stands before.
set_option Elab.async false
namespace Sys2Proof.Machine

variable {b : Bool} {s t u : State} {fs : List Fld}

/-! ## Memory beside the power page -/

theorem State.lampLost_mem : s.lampLost.mem = s.mem := by
  unfold State.lampLost
  rw [State.put_mem, State.put_mem, State.put_mem, State.put_mem]

theorem State.lampLost_sys : s.lampLost.sys = s.sys := by
  unfold State.lampLost
  rw [State.put_sys, State.put_sys, State.put_sys, State.put_sys]

/-- The domains that go off with RUN. -/
def runDomain (d : Nat) : Prop := d = dLAMP ∨ d = dARRAY ∨ d = dCONVS ∨ d = dCONVN

theorem State.domOff_rest {d : Nat} (hd : runDomain d) : (s.domOff d).mem = s.mem ∧ (s.domOff d).sys = s.sys := by
  have hdrop : ((s.put ⟨R.PWR_DOM_STAT_ON.reg, d, 1⟩ 0).dropRegs (lostWith d)).mem = s.mem ∧
      ((s.put ⟨R.PWR_DOM_STAT_ON.reg, d, 1⟩ 0).dropRegs (lostWith d)).sys = s.sys := by
    show (s.put ⟨R.PWR_DOM_STAT_ON.reg, d, 1⟩ 0).mem = s.mem ∧ (s.put ⟨R.PWR_DOM_STAT_ON.reg, d, 1⟩ 0).sys = s.sys
    exact ⟨State.put_mem .., State.put_sys ..⟩
  unfold State.domOff
  dsimp only
  generalize (s.put ⟨R.PWR_DOM_STAT_ON.reg, d, 1⟩ 0).dropRegs (lostWith d) = u at hdrop ⊢
  split
  · exact ⟨rfl, rfl⟩
  · obtain rfl | rfl | rfl | rfl := hd
    · exact ⟨State.lampLost_mem.trans hdrop.1, State.lampLost_sys.trans hdrop.2⟩
    · exact ⟨(State.put_mem ..).trans hdrop.1, (State.put_sys ..).trans hdrop.2⟩
    · exact hdrop
    · exact hdrop

theorem State.domsOff_rest {ds : List Nat} (hds : ∀ d ∈ ds, runDomain d) : (s.domsOff ds).mem = s.mem ∧ (s.domsOff ds).sys = s.sys := by
  unfold State.domsOff
  exact List.foldlRecOn (motive := fun x : State => x.mem = s.mem ∧ x.sys = s.sys) _ _ ⟨rfl, rfl⟩ fun x hx d hd =>
    ⟨(State.domOff_rest (hds d hd)).1.trans hx.1, (State.domOff_rest (hds d hd)).2.trans hx.2⟩

theorem State.ilimShow_rest : s.ilimShow.mem = s.mem ∧ s.ilimShow.sys = s.sys := by
  unfold State.ilimShow
  exact ⟨by rw [State.put_mem, State.put_mem], by rw [State.put_sys, State.put_sys]⟩

theorem State.foldShow_sys : s.foldShow.sys = s.sys := by
  unfold State.foldShow
  dsimp only
  generalize hv : (s.put R.PWR_CHG_STAT_TEMP_PAUSE (boolNat s.tempPause)).put R.PWR_CHG_STAT_FOLDBACK (boolNat (s.tempPause || s.foldback < 800)) = v
  have hsys : v.sys = s.sys := by rw [← hv, State.put_sys, State.put_sys]
  split
  · obtain ⟨r, p, h⟩ := v.packSetI_eq (if v.tempPause then 0 else 150)
    rw [h, ← hsys]
  · exact hsys

/-- Showing the power page leaves memory and the system unit. -/
theorem State.pwrShow_rest : s.pwrShow.mem = s.mem ∧ s.pwrShow.sys = s.sys := by
  have hbefore : (s.ilimShow.foldShow.put R.PACK_CHARGE_USABLE (boolNat s.ilimShow.foldShow.packUsable)).mem = s.mem ∧
      (s.ilimShow.foldShow.put R.PACK_CHARGE_USABLE (boolNat s.ilimShow.foldShow.packUsable)).sys = s.sys := by
    obtain ⟨hmem, hsys⟩ := s.ilimShow_rest
    exact ⟨by rw [State.put_mem, State.foldShow_mem, hmem], by rw [State.put_sys, State.foldShow_sys, hsys]⟩
  obtain ⟨t, ht⟩ : ∃ t, t = s.pwrShow := ⟨_, rfl⟩
  rw [← ht]
  unfold State.pwrShow at ht
  dsimp only at ht
  generalize s.ilimShow.foldShow.put R.PACK_CHARGE_USABLE (boolNat s.ilimShow.foldShow.packUsable) = v at hbefore ht
  have hall : ((v.put R.PWR_STAT_RUN_OK (boolNat v.runAdmissible)).put R.PWR_STAT_LOCKOUT (boolNat (v.get R.PWR_STAT_SRC = 1))).mem = s.mem ∧
      ((v.put R.PWR_STAT_RUN_OK (boolNat v.runAdmissible)).put R.PWR_STAT_LOCKOUT (boolNat (v.get R.PWR_STAT_SRC = 1))).sys = s.sys := by
    obtain ⟨hmem, hsys⟩ := hbefore
    exact ⟨by rw [State.put_mem, State.put_mem, hmem], by rw [State.put_sys, State.put_sys, hsys]⟩
  generalize (v.put R.PWR_STAT_RUN_OK (boolNat v.runAdmissible)).put R.PWR_STAT_LOCKOUT (boolNat (v.get R.PWR_STAT_SRC = 1)) = w at hall ht
  split at ht
  · obtain ⟨hmem, hsys⟩ := State.domsOff_rest (s := w) (ds := [dLAMP, dARRAY, dCONVS, dCONVN]) (by simp [runDomain])
    rw [ht]
    exact ⟨hmem.trans hall.1, hsys.trans hall.2⟩
  · rw [ht]
    exact hall

theorem State.pwrShow_mem : s.pwrShow.mem = s.mem := State.pwrShow_rest.1

theorem State.chargeStop_mem : s.chargeStop.mem = s.mem := (State.put_mem ..).trans State.packSetI_mem

/-! ## Input loss -/

theorem inputLoss_held (u : Nat) (hoff : s.pwr.off = false) (hpower : s.power ≠ pHOLDUP) (huse : s.packUsable = true) :
    goesOn (exec (.inputLoss u) s) fun t => t.power = pHOLDUP ∧ t.get R.PWR_STAT_HOLD_PHASE = 1 ∧ t.get R.PWR_STAT_HOLD_CAUSE = 1 ∧
      t.get R.PWR_STAT_ON_PACK = 1 ∧ t.tick.flushLeft = 3 ∧ t.tick.queue = [] ∧ t.job.active = none ∧ t.pwr.qualified = false ∧
      t.get (intRawBit E.PWR_INPUT_LOSS) = 1 := by
  have hexec : exec (.inputLoss u) s = .next ((s.at u).holdUp 1) := by
    show Host.Outcome.next (s.inputLoss u) = _
    unfold State.inputLoss
    rw [if_neg (by rw [hoff]; decide)]
    dsimp only
    have hp : (s.at u).power = s.power := rfl
    have hu : (s.at u).packUsable = s.packUsable := rfl
    rw [hp, hu, if_neg hpower, if_pos huse]
  have hheld : HeldUp 1 (s.at u) ((s.at u).holdUp 1) := State.holdUp_shows (by decide)
  refine ⟨_, hexec, ?_⟩
  generalize (s.at u).holdUp 1 = t at hheld ⊢
  exact ⟨hheld.power, hheld.phase, hheld.causeShown, hheld.pack, hheld.flush, hheld.queue, hheld.job, hheld.qualified, hheld.told⟩

theorem inputLoss_off (u : Nat) (hoff : s.pwr.off = false) (hpower : s.power ≠ pHOLDUP) (huse : s.packUsable = false) :
    goesOn (exec (.inputLoss u) s) fun t => t.pwr.off = true ∧ t.lines = [] ∧ t.eng = [] ∧ (∀ a, a < nvsBase → t.byte a = 0) ∧
      (∀ a, nvsBase ≤ a → t.byte a = s.byte a) ∧ t.nvs.journal = s.nvs.journal ∧ t.nvs.cat = s.nvs.cat := by
  have hexec : exec (.inputLoss u) s = .next (s.at u).goOff := by
    show Host.Outcome.next (s.inputLoss u) = _
    unfold State.inputLoss
    rw [if_neg (by rw [hoff]; decide)]
    dsimp only
    have hp : (s.at u).power = s.power := rfl
    have hu : (s.at u).packUsable = s.packUsable := rfl
    rw [hp, hu, if_neg hpower, huse, if_neg Bool.false_ne_true]
  obtain ⟨h1, h2, h3, h4, h5, h6, h7, -⟩ := (s.at u).goOff_shows
  exact ⟨_, hexec, h1, h2, h3, h4, h5, h6, h7⟩

theorem holdWaitExpire_shown (hpower : s.power = pHOLDUP) (hphase : s.get R.PWR_STAT_HOLD_PHASE = 3) (hq : s.pwr.qualified = false)
    (hoff : s.pwr.off = false) : goesOn (exec .holdWaitExpire s) fun t =>
      t.pwr.off = true ∧ t.now = max s.now (s.pwr.waitSince + s.get R.PWR_HOLD_HOLD_WAIT * secClk) := by
  generalize hdue : s.pwr.waitSince + s.get R.PWR_HOLD_HOLD_WAIT * secClk = due
  have hexec : exec .holdWaitExpire s = .next (s.at due).goOff := by
    show execHoldWaitExpire s = _
    unfold execHoldWaitExpire
    rw [hdue]
    exact if_pos (by simp [hpower, hphase, hq, hoff])
  obtain ⟨h1, -, -, -, -, -, -, h8⟩ := (s.at due).goOff_shows
  exact ⟨_, hexec, h1, h8⟩

theorem packCutoff_shown (hpack : s.on R.PWR_STAT_ON_PACK = true) (hoff : s.pwr.off = false) : goesOn (exec .packCutoff s) fun t =>
    t.pwr.off = true ∧ t.nvs.journal = s.nvs.journal ∧ ∀ a, nvsBase ≤ a → t.byte a = s.byte a := by
  have hexec : exec .packCutoff s = .next s.goOff := by
    show execPackCutoff s = _
    unfold execPackCutoff
    exact if_pos (by simp [hpack, hoff])
  obtain ⟨h1, -, -, -, h5, h6, -, -⟩ := s.goOff_shows
  exact ⟨_, hexec, h1, h6, h5⟩

/-! ## Supplement -/

theorem State.get_of_on_false {f : Fld} (h : s.on f = false) : s.get f = 0 := by simpa [State.on] using h

theorem State.get_of_on_true {f : Fld} (hw : f.w = 1) (h : s.on f = true) : s.get f = 1 := by
  have hne : s.get f ≠ 0 := by simpa [State.on] using h
  have hlt : s.get f < 2 ^ f.w := State.get_lt ..
  rw [hw] at hlt
  omega

/-- Supplement begins. -/
def State.suppBegin (s : State) : State := (s.chargeStop.put R.PWR_STAT_SUPPLEMENT 1).raise E.PWR_SUPPLEMENT

/-- The fields that supplement's beginning changes. -/
def suppBeginFields : List Fld := currentFields ++ [R.PWR_CHG_STAT_PHASE, R.PWR_STAT_SUPPLEMENT] ++ toldFields E.PWR_SUPPLEMENT

theorem State.suppBegin_shows : Shown suppBeginFields s s.suppBegin ∧ s.suppBegin.get R.PWR_STAT_SUPPLEMENT = 1 ∧
    s.suppBegin.get R.PWR_CHG_STAT_PHASE = stoppedPhase s ∧ told s s.suppBegin E.PWR_SUPPLEMENT ∧ s.suppBegin.mem = s.mem := by
  have hstop : Shown suppBeginFields s s.chargeStop := Shown.put Shown.refl.packSetI
  have hphase : s.chargeStop.get R.PWR_CHG_STAT_PHASE = stoppedPhase s := State.chargeStop_phase
  have hmem : s.chargeStop.mem = s.mem := State.chargeStop_mem
  have hcnt : s.chargeStop.get (evtCnt E.PWR_SUPPLEMENT.page 5) = s.get (evtCnt E.PWR_SUPPLEMENT.page 5) := by
    have hstop' : Shown (R.PWR_CHG_STAT_PHASE :: currentFields) s s.chargeStop := Shown.put Shown.refl.packSetI
    exact hstop'.get
  unfold State.suppBegin
  generalize s.chargeStop = v at hstop hphase hmem hcnt ⊢
  have hput : Shown [R.PWR_STAT_SUPPLEMENT] v (v.put R.PWR_STAT_SUPPLEMENT 1) := Shown.refl.put
  have hon : (v.put R.PWR_STAT_SUPPLEMENT 1).get R.PWR_STAT_SUPPLEMENT = 1 := State.get_put_fits _ (by decide) (by decide)
  have hputMem : (v.put R.PWR_STAT_SUPPLEMENT 1).mem = v.mem := State.put_mem ..
  generalize v.put R.PWR_STAT_SUPPLEMENT 1 = w at hput hon hputMem ⊢
  have hraise : Shown (toldFields E.PWR_SUPPLEMENT) w (w.raise E.PWR_SUPPLEMENT) := Shown.refl.raise
  refine ⟨(hstop.trans hput.mono).trans hraise.mono, hraise.get.trans hon, hraise.get.trans (hput.get.trans hphase), ?_, ?_⟩
  · refine told_raise_of_cnt (by decide) fun b hb => ?_
    obtain rfl : 5 = b := Option.some.inj hb
    exact hput.get.trans hcnt
  · rw [State.raise_mem, hputMem, hmem]

theorem supplement_shown (ma u : Nat) (hoff : s.pwr.off = false) (hpower : s.power ≠ pHOLDUP) (hma : s.get R.PWR_ILIM_ACT * 100 < ma) :
    goesOn (exec (.supplement ma u) s) fun t => t.now = max s.now u ∧
      (s.packUsable = true → t.get R.PWR_STAT_SUPPLEMENT = 1 ∧ t.get R.PWR_IN_MON_I = s.get R.PWR_ILIM_ACT * 100) ∧
      (s.packUsable = true → s.on R.PWR_STAT_SUPPLEMENT = false → t.get R.PWR_CHG_STAT_PHASE = stoppedPhase s ∧ told s t E.PWR_SUPPLEMENT) ∧
      (s.packUsable = false → t.get R.PWR_IN_MON_I = min ma 8000 ∧ told s t E.PWR_OVERLOAD) ∧ ∀ a, t.byte a = s.byte a := by
  have hget (g : Fld) : (s.at u).get g = s.get g := s.get_at u g
  have hon : (s.at u).on R.PWR_STAT_SUPPLEMENT = s.on R.PWR_STAT_SUPPLEMENT := rfl
  have hnow : (s.at u).now = max s.now u := rfl
  have huse : (s.at u).packUsable = s.packUsable := rfl
  have hstopped : stoppedPhase (s.at u) = stoppedPhase s := rfl
  have hmem : (s.at u).mem = s.mem := rfl
  have hexec : exec (.supplement ma u) s = .next (if (s.at u).packUsable then
      ((if (s.at u).on R.PWR_STAT_SUPPLEMENT then s.at u else (s.at u).suppBegin).put R.PWR_IN_MON_I ((s.at u).get R.PWR_ILIM_ACT * 100)).packSetI
        (-((Config.packGives (ma - (s.at u).get R.PWR_ILIM_ACT * 100) : Nat) : Int))
      else ((s.at u).put R.PWR_IN_MON_I (min ma 8000)).raise E.PWR_OVERLOAD) := by
    show Host.Outcome.next (s.supplement ma u) = _
    unfold State.supplement
    rw [if_neg (by simp [hoff, hpower, Nat.not_le.mpr hma])]
    rfl
  refine ⟨_, hexec, ?_⟩
  rw [hget, huse, hon]
  generalize s.at u = v at hget hnow hstopped hmem ⊢
  have hlim : s.get R.PWR_ILIM_ACT * 100 < 2 ^ 16 := by
    have hlt : s.get R.PWR_ILIM_ACT < 2 ^ 7 := State.get_lt ..
    omega
  generalize s.get R.PWR_ILIM_ACT * 100 = lim at hlim ⊢
  generalize (-((Config.packGives (ma - lim) : Nat) : Int)) = i
  cases husable : s.packUsable
  · rw [if_neg Bool.false_ne_true]
    have hraise : Shown (toldFields E.PWR_OVERLOAD) (v.put R.PWR_IN_MON_I (min ma 8000)) ((v.put R.PWR_IN_MON_I (min ma 8000)).raise E.PWR_OVERLOAD) :=
      Shown.refl.raise
    refine ⟨?_, fun h => absurd h Bool.false_ne_true, fun h => absurd h Bool.false_ne_true, fun _ => ⟨?_, ?_⟩, fun a => State.byte_of_mem ?_ a⟩
    · rw [State.raise_now, State.put_now, hnow]
    · exact hraise.get.trans (State.get_put_fits _ (by decide) (Nat.lt_of_le_of_lt (Nat.min_le_right _ _) (by decide)))
    · refine told_raise_of_cnt (by decide) fun b hb => ?_
      obtain rfl : 4 = b := Option.some.inj hb
      exact (State.get_put_off _ (by decide)).trans (hget _)
    · rw [State.raise_mem, State.put_mem, hmem]
  · rw [if_pos rfl]
    obtain ⟨hbegin, hbon, hbphase, hbtold, hbmem⟩ := v.suppBegin_shows
    generalize v.suppBegin = w at hbegin hbon hbphase hbtold hbmem ⊢
    have hend (x : State) : Shown (R.PWR_IN_MON_I :: currentFields) x ((x.put R.PWR_IN_MON_I lim).packSetI i) ∧
        ((x.put R.PWR_IN_MON_I lim).packSetI i).get R.PWR_IN_MON_I = lim ∧ ((x.put R.PWR_IN_MON_I lim).packSetI i).mem = x.mem := by
      have hset : Shown currentFields (x.put R.PWR_IN_MON_I lim) ((x.put R.PWR_IN_MON_I lim).packSetI i) := Shown.refl.packSetI
      exact ⟨Shown.packSetI (Shown.put Shown.refl), hset.get.trans (State.get_put_fits _ (by decide) hlim),
        State.packSetI_mem.trans (State.put_mem ..)⟩
    cases hsupp : s.on R.PWR_STAT_SUPPLEMENT
    · rw [if_neg Bool.false_ne_true]
      obtain ⟨h1, h2, h3⟩ := hend w
      generalize (w.put R.PWR_IN_MON_I lim).packSetI i = x at h1 h2 h3 ⊢
      refine ⟨?_, fun _ => ⟨h1.get.trans hbon, h2⟩, fun _ _ => ⟨?_, h1.toldStill ?_⟩, fun h => absurd h.symm Bool.false_ne_true,
        fun a => State.byte_of_mem ?_ a⟩
      · rw [h1.now, hbegin.now, hnow]
      · rw [h1.get, hbphase, hstopped]
      · exact ⟨hbtold.1, fun b hb => (hbtold.2 b hb).trans (by rw [hget])⟩
      · rw [h3, hbmem, hmem]
    · rw [if_pos rfl]
      obtain ⟨h1, h2, h3⟩ := hend v
      generalize (v.put R.PWR_IN_MON_I lim).packSetI i = x at h1 h2 h3 ⊢
      refine ⟨?_, fun _ => ⟨?_, h2⟩, fun _ h => absurd h.symm Bool.false_ne_true, fun h => absurd h.symm Bool.false_ne_true,
        fun a => State.byte_of_mem ?_ a⟩
      · rw [h1.now, hnow]
      · rw [h1.get, hget]
        exact State.get_of_on_true rfl hsupp
      · rw [h3, hmem]

end Sys2Proof.Machine
end

/-! PROOFS. O47: the end of supplement, overload and the hand-back (R353, R364). -/
section
-- One theorem after the other: the default proofs of the side conditions below are run by the elaborator, which waits for all that stands before.
set_option Elab.async false
namespace Sys2Proof.Machine

variable {b : Bool} {s t u : State} {fs : List Fld}

/-! ## The end of supplement -/

theorem State.packSetI_current {i : Int} (h0 : 0 ≤ i) (h1 : i < 32768) : (s.packSetI i).get R.PACK_IT_I = i.toNat := by
  have hval : ofSigned 16 (clampI (-32768) 32767 i) = i.toNat := by
    unfold clampI ofSigned
    rw [if_neg (by omega), if_neg (by omega)]
    omega
  unfold State.packSetI
  rw [hval]
  exact State.get_put_fits _ (by decide) (by show i.toNat < 2 ^ 16; omega)

/-- In PRECHARGE, showing the power page sets the charge current anew. -/
theorem State.foldShow_precharge (hphase : s.get R.PWR_CHG_STAT_PHASE = 2) :
    s.foldShow.get R.PACK_IT_I = if s.tempPause then 0 else 150 := by
  have hput : Shown [R.PWR_CHG_STAT_TEMP_PAUSE, R.PWR_CHG_STAT_FOLDBACK] s ((s.put R.PWR_CHG_STAT_TEMP_PAUSE (boolNat s.tempPause)).put
    R.PWR_CHG_STAT_FOLDBACK (boolNat (s.tempPause || s.foldback < 800))) := Shown.refl.put.put
  unfold State.foldShow
  dsimp only
  generalize (s.put R.PWR_CHG_STAT_TEMP_PAUSE (boolNat s.tempPause)).put R.PWR_CHG_STAT_FOLDBACK
    (boolNat (s.tempPause || s.foldback < 800)) = v at hput ⊢
  rw [if_pos (by rw [hput.get, hphase]), hput.samePack.tempPause]
  cases s.tempPause
  · exact State.packSetI_current (by decide) (by decide)
  · exact State.packSetI_current (by decide) (by decide)

theorem State.pwrShow_current (hzero : s.get R.PACK_IT_I = 0) : s.pwrShow.get R.PACK_IT_I =
    if s.get R.PWR_CHG_STAT_PHASE = 2 ∧ s.tempPause = false then 150 else 0 := by
  by_cases hphase : s.get R.PWR_CHG_STAT_PHASE = 2
  · have hilim : Shown [R.PWR_ILIM_SUP, R.PWR_ILIM_ACT] s s.ilimShow := Shown.put (Shown.put Shown.refl)
    have hfold := State.foldShow_precharge (s := s.ilimShow) (by rw [hilim.get, hphase])
    rw [hilim.samePack.tempPause] at hfold
    have hshow : Shown [R.PACK_CHARGE_USABLE, R.PWR_STAT_RUN_OK, R.PWR_STAT_LOCKOUT] s.ilimShow.foldShow s.pwrShow := by
      unfold State.pwrShow
      dsimp only
      generalize s.ilimShow.foldShow = w
      have hput : Shown [R.PACK_CHARGE_USABLE, R.PWR_STAT_RUN_OK, R.PWR_STAT_LOCKOUT] w (w.put R.PACK_CHARGE_USABLE (boolNat w.packUsable)) := Shown.refl.put
      generalize w.put R.PACK_CHARGE_USABLE (boolNat w.packUsable) = v at hput ⊢
      have hall := (hput.put (f := R.PWR_STAT_RUN_OK) (v := boolNat v.runAdmissible)).put (f := R.PWR_STAT_LOCKOUT)
        (v := boolNat (v.get R.PWR_STAT_SRC = 1))
      exact .ite (hall.calm Calm.refl.domsOff) hall
    rw [hshow.get, hfold]
    cases s.tempPause <;> simp [hphase]
  · rw [(State.pwrShow_calm_current hphase).get, hzero, if_neg fun h => hphase h.1]

theorem State.chargeStart_phase (hsupp : s.on R.PWR_STAT_SUPPLEMENT = false) : s.chargeStart.get R.PWR_CHG_STAT_PHASE =
    if mayCharge s ∧ s.get R.PWR_CHG_STAT_FAULT = 0 then 1 else s.get R.PWR_CHG_STAT_PHASE := by
  have hcond : (s.on R.PWR_CHG_CTRL_EN && s.packFit && s.get R.PWR_CHG_STAT_FAULT = 0 && s.pwr.qualified && s.power ≠ pHOLDUP &&
      !s.on R.PWR_STAT_SUPPLEMENT) = true ↔ mayCharge s = true ∧ s.get R.PWR_CHG_STAT_FAULT = 0 := by
    rw [hsupp, mayCharge]
    simp only [Bool.and_eq_true, decide_eq_true_eq, Bool.not_false, and_true]
    tauto
  unfold State.chargeStart
  by_cases h : mayCharge s = true ∧ s.get R.PWR_CHG_STAT_FAULT = 0
  · rw [if_pos (hcond.mpr h), if_pos h]
    exact State.get_put_fits _ (by decide) (by decide)
  · rw [if_neg (mt hcond.mp h), if_neg h]

theorem Shown.chargeStart (h : Shown fs s t) (hf : R.PWR_CHG_STAT_PHASE ∈ fs := by decide) : Shown fs s t.chargeStart := .ite (h.put hf) h

theorem State.chargeStart_mem : s.chargeStart.mem = s.mem := by
  unfold State.chargeStart
  split
  · exact State.put_mem ..
  · rfl

theorem supplementEnd_shown (hsupp : s.on R.PWR_STAT_SUPPLEMENT = true) : goesOn (exec .supplementEnd s) fun t =>
    t.get R.PWR_STAT_SUPPLEMENT = 0 ∧ t.get R.PACK_IT_I = (if s.get R.PWR_CHG_STAT_PHASE = 2 ∧ s.tempPause = false then 150 else 0) ∧
    t.get R.PWR_CHG_STAT_PHASE = (if mayCharge s ∧ s.get R.PWR_CHG_STAT_FAULT = 0 then 1 else s.get R.PWR_CHG_STAT_PHASE) ∧
    ∀ a, t.byte a = s.byte a := by
  have hexec : exec .supplementEnd s = .next (((s.packSetI 0).put R.PWR_STAT_SUPPLEMENT 0).pwrShow).chargeStart := if_pos hsupp
  refine ⟨_, hexec, ?_⟩
  have hset : Shown (R.PWR_STAT_SUPPLEMENT :: currentFields) s ((s.packSetI 0).put R.PWR_STAT_SUPPLEMENT 0) := Shown.put Shown.refl.packSetI
  have hzero : ((s.packSetI 0).put R.PWR_STAT_SUPPLEMENT 0).get R.PACK_IT_I = 0 :=
    (State.get_put_off _ (by decide)).trans (State.packSetI_current (by decide) (by decide))
  have hoff : ((s.packSetI 0).put R.PWR_STAT_SUPPLEMENT 0).get R.PWR_STAT_SUPPLEMENT = 0 := State.get_put_fits _ (by decide) (by decide)
  have hmem : ((s.packSetI 0).put R.PWR_STAT_SUPPLEMENT 0).mem = s.mem := (State.put_mem ..).trans State.packSetI_mem
  generalize (s.packSetI 0).put R.PWR_STAT_SUPPLEMENT 0 = v at hset hzero hoff hmem ⊢
  have hshow : Shown showFields v v.pwrShow := Shown.refl.pwrShow
  have hcur := State.pwrShow_current hzero
  have hshowMem : v.pwrShow.mem = v.mem := State.pwrShow_mem
  generalize v.pwrShow = w at hshow hcur hshowMem ⊢
  have hwoff : w.on R.PWR_STAT_SUPPLEMENT = false := by rw [State.on, hshow.get, hoff]; rfl
  have hstart := State.chargeStart_phase hwoff
  have hkept : Shown [R.PWR_CHG_STAT_PHASE] w w.chargeStart := Shown.refl.chargeStart
  have hkeptMem : w.chargeStart.mem = w.mem := State.chargeStart_mem
  generalize w.chargeStart = x at hstart hkept hkeptMem ⊢
  have hmay : mayCharge w = mayCharge s := (mayCharge_of hshow.samePack hshow.get (hshow.pwrOf Power.qualified) hshow.get).trans
    (mayCharge_of hset.samePack hset.get (hset.pwrOf Power.qualified) hset.get)
  refine ⟨hkept.get.trans (hshow.get.trans hoff), ?_, ?_, fun a => State.byte_of_mem ?_ a⟩
  · rw [hkept.get, hcur, hset.get, hset.samePack.tempPause]
  · rw [hstart, hmay, hshow.get, hset.get, hshow.get, hset.get]
  · rw [hkeptMem, hshowMem, hmem]

/-! ## Overload -/

theorem State.Settled.ilimShow (h : s.Settled) : s.ilimShow.Settled := by
  unfold State.ilimShow
  exact h.put.put

theorem State.Settled.foldShow (h : s.Settled) : s.foldShow.get R.PACK_CHARGE_MAH = s.get R.PACK_CHARGE_MAH ∧ s.foldShow.Settled := by
  have hput : ((s.put R.PWR_CHG_STAT_TEMP_PAUSE (boolNat s.tempPause)).put R.PWR_CHG_STAT_FOLDBACK
    (boolNat (s.tempPause || s.foldback < 800))).get R.PACK_CHARGE_MAH = s.get R.PACK_CHARGE_MAH :=
    (State.get_put_off _ (by decide)).trans (State.get_put_off _ (by decide))
  have hsettled := (h.put (f := R.PWR_CHG_STAT_TEMP_PAUSE) (v := boolNat s.tempPause)).put (f := R.PWR_CHG_STAT_FOLDBACK)
    (v := boolNat (s.tempPause || s.foldback < 800))
  unfold State.foldShow
  dsimp only
  generalize (s.put R.PWR_CHG_STAT_TEMP_PAUSE (boolNat s.tempPause)).put R.PWR_CHG_STAT_FOLDBACK
    (boolNat (s.tempPause || s.foldback < 800)) = v at hput hsettled ⊢
  split
  · exact ⟨hsettled.packSetI.1.trans hput, hsettled.packSetI.2⟩
  · exact ⟨hput, hsettled⟩

theorem State.Settled.calm (h : s.Settled) (k : Calm b s t) : t.Settled := h.of k.pwr k.now

/-- Showing the power page keeps a charge that is counted up to now. -/
theorem State.Settled.pwrShow (h : s.Settled) : s.pwrShow.get R.PACK_CHARGE_MAH = s.get R.PACK_CHARGE_MAH ∧ s.pwrShow.Settled := by
  have hilim : Shown [R.PWR_ILIM_SUP, R.PWR_ILIM_ACT] s s.ilimShow := Shown.put (Shown.put Shown.refl)
  obtain ⟨hfold, hsettled⟩ := h.ilimShow.foldShow
  obtain ⟨t, ht⟩ : ∃ t, t = s.pwrShow := ⟨_, rfl⟩
  rw [← ht]
  unfold State.pwrShow at ht
  dsimp only at ht
  generalize s.ilimShow.foldShow = w at hfold hsettled ht
  have hput : Shown [R.PACK_CHARGE_USABLE] w (w.put R.PACK_CHARGE_USABLE (boolNat w.packUsable)) := Shown.refl.put
  have hputSettled : (w.put R.PACK_CHARGE_USABLE (boolNat w.packUsable)).Settled := hsettled.put
  generalize w.put R.PACK_CHARGE_USABLE (boolNat w.packUsable) = v at hput hputSettled ht
  have hput2 : Shown [R.PWR_STAT_RUN_OK, R.PWR_STAT_LOCKOUT] v ((v.put R.PWR_STAT_RUN_OK (boolNat v.runAdmissible)).put R.PWR_STAT_LOCKOUT
    (boolNat (v.get R.PWR_STAT_SRC = 1))) := Shown.refl.put.put
  have hput2Settled : ((v.put R.PWR_STAT_RUN_OK (boolNat v.runAdmissible)).put R.PWR_STAT_LOCKOUT
    (boolNat (v.get R.PWR_STAT_SRC = 1))).Settled := hputSettled.put.put
  generalize (v.put R.PWR_STAT_RUN_OK (boolNat v.runAdmissible)).put R.PWR_STAT_LOCKOUT (boolNat (v.get R.PWR_STAT_SRC = 1)) = x at hput2 hput2Settled ht
  have hx : x.get R.PACK_CHARGE_MAH = s.get R.PACK_CHARGE_MAH := hput2.get.trans (hput.get.trans (hfold.trans hilim.get))
  split at ht
  · have hoffs : Calm false x (x.domsOff [dLAMP, dARRAY, dCONVS, dCONVN]) := Calm.refl.domsOff
    rw [ht]
    exact ⟨hoffs.get.trans hx, hput2Settled.calm hoffs⟩
  · rw [ht]
    exact ⟨hx, hput2Settled⟩

theorem overload_shown (mah : Half) (hsupp : s.on R.PWR_STAT_SUPPLEMENT = true) (hoff : s.pwr.off = false) :
    goesOn (exec (.overload mah) s) fun t => t.get R.PACK_CHARGE_MAH = mah.toNat ∧
      (mah.toNat ≤ s.get R.PWR_HOLD_RESERVE → t.power = pHOLDUP ∧ t.get R.PWR_STAT_HOLD_CAUSE = 2 ∧ t.get R.PWR_STAT_SUPPLEMENT = 0) ∧
      (s.get R.PWR_HOLD_RESERVE < mah.toNat → t.power = s.power ∧ t.on R.PWR_STAT_SUPPLEMENT = true) := by
  have hexec : exec (.overload mah) s = .next (let s1 := (s.packCount.put R.PACK_CHARGE_MAH mah.toNat).pwrShow
      if s1.get R.PACK_CHARGE_MAH ≤ s1.get R.PWR_HOLD_RESERVE then s1.holdUp 2 else s1) := by
    show Host.Outcome.next (s.overload mah.toNat) = _
    unfold State.overload
    rw [if_neg (by simp [hsupp, hoff])]
  refine ⟨_, hexec, ?_⟩
  have hcount : Shown currentFields s s.packCount := Shown.refl.packCount
  have hsettled : s.packCount.Settled := State.packCount_settled hsupp
  generalize s.packCount = v at hcount hsettled ⊢
  have hput : Shown [R.PACK_CHARGE_MAH] v (v.put R.PACK_CHARGE_MAH mah.toNat) := Shown.refl.put
  have hmah : (v.put R.PACK_CHARGE_MAH mah.toNat).get R.PACK_CHARGE_MAH = mah.toNat := State.get_put_fits _ (by decide) mah.isLt
  have hputSettled : (v.put R.PACK_CHARGE_MAH mah.toNat).Settled := hsettled.put
  generalize v.put R.PACK_CHARGE_MAH mah.toNat = w at hput hmah hputSettled ⊢
  have hshow : Shown showFields w w.pwrShow := Shown.refl.pwrShow
  obtain ⟨hshowMah, hshowSettled⟩ := hputSettled.pwrShow
  generalize w.pwrShow = x at hshow hshowMah hshowSettled ⊢
  have hreserve : x.get R.PWR_HOLD_RESERVE = s.get R.PWR_HOLD_RESERVE := hshow.get.trans (hput.get.trans hcount.get)
  have hxmah : x.get R.PACK_CHARGE_MAH = mah.toNat := hshowMah.trans hmah
  by_cases hle : mah.toNat ≤ s.get R.PWR_HOLD_RESERVE
  · have heq : (let s1 := x; if s1.get R.PACK_CHARGE_MAH ≤ s1.get R.PWR_HOLD_RESERVE then s1.holdUp 2 else s1) = x.holdUp 2 :=
      if_pos (by rw [hxmah, hreserve]; exact hle)
    rw [heq]
    have hheld : HeldUp 2 x (x.holdUp 2) := State.holdUp_shows (by decide)
    generalize x.holdUp 2 = t at hheld ⊢
    exact ⟨(hheld.charge hshowSettled).trans hxmah, fun _ => ⟨hheld.power, hheld.causeShown, hheld.supp⟩, fun h => absurd hle (Nat.not_le.mpr h)⟩
  · have heq : (let s1 := x; if s1.get R.PACK_CHARGE_MAH ≤ s1.get R.PWR_HOLD_RESERVE then s1.holdUp 2 else s1) = x :=
      if_neg (by rw [hxmah, hreserve]; exact hle)
    rw [heq]
    have hpower : x.power = s.power := hshow.get.trans (hput.get.trans hcount.get)
    have hon : x.on R.PWR_STAT_SUPPLEMENT = s.on R.PWR_STAT_SUPPLEMENT := State.on_of_get (hshow.get.trans (hput.get.trans hcount.get))
    exact ⟨hxmah, fun h => absurd h hle, fun _ => ⟨hpower, hon.trans hsupp⟩⟩

end Sys2Proof.Machine
end

/-! PROOFS. O47: the hand-back (R364). -/
section
-- One theorem after the other: the default proofs of the side conditions below are run by the elaborator, which waits for all that stands before.
set_option Elab.async false
namespace Sys2Proof.Machine

variable {b : Bool} {s t u : State} {fs : List Fld}

theorem State.beginStart_get {last : Nat} {g : Fld} (hreg : g.reg ≠ R.SYS_STAT_STARTING.reg)
    (h : g.clear [R.PWR_STAT_STATE, R.EXP_STAT_SENSOR_ON] = true) : (s.beginStart last).get g = s.get g := by
  obtain ⟨p, y, heq⟩ := s.beginStart_eq last
  have hregs := State.startStat_regs (s.setPower pIDLE) last
  rw [heq]
  show ((s.setPower pIDLE).startStat last).get g = s.get g
  rw [State.get_of_regsSame hregs (by simpa using hreg), State.setPower_get h]

theorem State.sampleSrc_shows : Shown (showFields ++ [R.PWR_STAT_SRC, R.PWR_STAT_SRC_CHANGED]) s s.sampleSrc ∧
    s.sampleSrc.get R.PWR_STAT_SRC = s.pwr.srcPin % 4 ∧ s.sampleSrc.sys = s.sys := by
  have hput : Shown (showFields ++ [R.PWR_STAT_SRC, R.PWR_STAT_SRC_CHANGED]) s ((s.put R.PWR_STAT_SRC s.pwr.srcPin).put R.PWR_STAT_SRC_CHANGED 0) :=
    Shown.refl.put.put
  have hsrc : ((s.put R.PWR_STAT_SRC s.pwr.srcPin).put R.PWR_STAT_SRC_CHANGED 0).get R.PWR_STAT_SRC = s.pwr.srcPin % 4 :=
    (State.get_put_off _ (by decide)).trans (s.get_put_same (f := R.PWR_STAT_SRC) _ (by decide))
  have hsys : ((s.put R.PWR_STAT_SRC s.pwr.srcPin).put R.PWR_STAT_SRC_CHANGED 0).sys = s.sys := by rw [State.put_sys, State.put_sys]
  unfold State.sampleSrc
  generalize (s.put R.PWR_STAT_SRC s.pwr.srcPin).put R.PWR_STAT_SRC_CHANGED 0 = v at hput hsrc hsys ⊢
  have hshow : Shown showFields v v.pwrShow := Shown.refl.pwrShow
  exact ⟨hput.trans hshow.mono, hshow.get.trans hsrc, State.pwrShow_rest.2.trans hsys⟩

/-- IDLE or STANDBY, as the hand-back finds it. -/
def State.backTo (s : State) : State :=
  if (s.on R.PWR_CTRL_AUTO_WAKE || s.pwr.wake) && !s.pwr.fromThermal then s.wakeUp else
    State.setPower { s with pwr := { s.pwr with hostStandby := !s.pwr.fromThermal } } pSTANDBY

theorem State.backTo_shows (hheld : s.sys.resetHeld = 0) :
    (∀ g : Fld, g.reg ≠ R.SYS_STAT_STARTING.reg → g.clear [R.PWR_STAT_STATE, R.EXP_STAT_SENSOR_ON] = true → s.backTo.get g = s.get g) ∧
    s.backTo.power = (if (s.on R.PWR_CTRL_AUTO_WAKE || s.pwr.wake) && !s.pwr.fromThermal then pIDLE else pSTANDBY) := by
  unfold State.backTo
  split
  · obtain ⟨last, heq⟩ := s.wakeUp_eq hheld
    have haccrue (g : Fld) : s.accrue.get g = s.get g := rfl
    rw [heq]
    exact ⟨fun g hreg hc => (State.beginStart_get hreg hc).trans (haccrue g), State.beginStart_power _ _⟩
  · have hget (g : Fld) : { s with pwr := { s.pwr with hostStandby := !s.pwr.fromThermal } }.get g = s.get g := rfl
    generalize ({ s with pwr := { s.pwr with hostStandby := !s.pwr.fromThermal } } : State) = v at hget ⊢
    exact ⟨fun g _ hc => (State.setPower_get hc).trans (hget g), v.setPower_power (by decide)⟩

theorem handback_shown (hpower : s.power = pHOLDUP) (hended : s.pwr.flushEnded = true) (hq : s.pwr.qualified = true) (hoff : s.pwr.off = false)
    (hheld : s.sys.resetHeld = 0) : goesOn (exec .handback s) fun t =>
      t.get R.PWR_STAT_ON_PACK = 0 ∧ t.get R.PWR_STAT_HOLD_PHASE = 0 ∧ t.get R.PWR_STAT_SRC = s.pwr.srcPin % 4 ∧
      t.get (intRawBit E.PWR_HANDBACK) = 1 ∧
      t.power = (if (s.on R.PWR_CTRL_AUTO_WAKE || s.pwr.wake) && !s.pwr.fromThermal then pIDLE else pSTANDBY) := by
  have hexec : exec .handback s =
      .next ((((s.packSetI 0).put R.PWR_STAT_ON_PACK 0).put R.PWR_STAT_HOLD_PHASE 0).sampleSrc.backTo.chargeStart.raise E.PWR_HANDBACK) := by
    show Host.Outcome.next s.handback = _
    unfold State.handback
    rw [if_neg (by simp [hpower, hended, hq, hoff])]
    rfl
  refine ⟨_, hexec, ?_⟩
  have hset : Shown (currentFields ++ [R.PWR_STAT_ON_PACK, R.PWR_STAT_HOLD_PHASE]) s (((s.packSetI 0).put R.PWR_STAT_ON_PACK 0).put R.PWR_STAT_HOLD_PHASE 0) :=
    Shown.put (Shown.put Shown.refl.packSetI)
  have hpack : (((s.packSetI 0).put R.PWR_STAT_ON_PACK 0).put R.PWR_STAT_HOLD_PHASE 0).get R.PWR_STAT_ON_PACK = 0 :=
    (State.get_put_off _ (by decide)).trans (State.get_put_fits _ (by decide) (by decide))
  have hphase : (((s.packSetI 0).put R.PWR_STAT_ON_PACK 0).put R.PWR_STAT_HOLD_PHASE 0).get R.PWR_STAT_HOLD_PHASE = 0 :=
    State.get_put_fits _ (by decide) (by decide)
  have hsys : (((s.packSetI 0).put R.PWR_STAT_ON_PACK 0).put R.PWR_STAT_HOLD_PHASE 0).sys = s.sys := by
    obtain ⟨r, p, h⟩ := s.packSetI_eq 0
    rw [State.put_sys, State.put_sys, h]
  generalize ((s.packSetI 0).put R.PWR_STAT_ON_PACK 0).put R.PWR_STAT_HOLD_PHASE 0 = v at hset hpack hphase hsys ⊢
  obtain ⟨hsample, hsrc, hsampleSys⟩ := v.sampleSrc_shows
  generalize v.sampleSrc = w at hsample hsrc hsampleSys ⊢
  obtain ⟨hback, hbackPower⟩ := State.backTo_shows (s := w) (by rw [hsampleSys, hsys, hheld])
  generalize w.backTo = x at hback hbackPower ⊢
  have hstart : Shown [R.PWR_CHG_STAT_PHASE] x x.chargeStart := Shown.refl.chargeStart
  generalize x.chargeStart = y at hstart ⊢
  have hraise : Shown (toldFields E.PWR_HANDBACK) y (y.raise E.PWR_HANDBACK) := Shown.refl.raise
  have htold : (y.raise E.PWR_HANDBACK).get (intRawBit E.PWR_HANDBACK) = 1 := State.get_raise _ _ (by decide)
  generalize y.raise E.PWR_HANDBACK = z at hraise htold ⊢
  refine ⟨?_, ?_, ?_, htold, ?_⟩
  · rw [hraise.get, hstart.get, hback _ (by decide) (by decide), hsample.get, hpack]
  · rw [hraise.get, hstart.get, hback _ (by decide) (by decide), hsample.get, hphase]
  · rw [hraise.get, hstart.get, hback _ (by decide) (by decide), hsrc, hset.pwrOf Power.srcPin]
  · have hpow : z.power = x.power := hraise.get.trans hstart.get
    have hauto : w.on R.PWR_CTRL_AUTO_WAKE = s.on R.PWR_CTRL_AUTO_WAKE := State.on_of_get (hsample.get.trans hset.get)
    rw [hpow, hbackPower, hauto, hsample.pwrOf Power.wake, hset.pwrOf Power.wake, hsample.pwrOf Power.fromThermal, hset.pwrOf Power.fromThermal]

end Sys2Proof.Machine
end

/-! PROOFS. What the flush has stored stays: the journal's records, the flush area's state and its status (R260, R265, R266). -/
section
-- One theorem after the other: the default proofs of the side conditions below are run by the elaborator, which waits for all that stands before.
set_option Elab.async false
namespace Sys2Proof.Machine

variable {b : Bool} {s t u : State} {fs : List Fld}

/-- The journal only grows; the flush area's header, its FLUSH_SEQ and NVS_FLUSH_STAT are the same, and so is a reset that waits. -/
structure Stored (s t : State) : Prop where
  hdr : t.nvs.flushHdr = s.nvs.flushHdr
  seq : t.nvs.flushSeq = s.nvs.flushSeq
  journal : s.nvs.journal <+: t.nvs.journal
  held : t.sys.resetHeld = s.sys.resetHeld
  stat : t.reg R.NVS_FLUSH_STAT_VALID.reg = s.reg R.NVS_FLUSH_STAT_VALID.reg

theorem Stored.refl : Stored s s := ⟨rfl, rfl, List.prefix_rfl, rfl, rfl⟩

theorem Stored.trans (h : Stored s t) (k : Stored t u) : Stored s u :=
  ⟨k.hdr.trans h.hdr, k.seq.trans h.seq, h.journal.trans k.journal, k.held.trans h.held, k.stat.trans h.stat⟩

/-- A change that leaves the registers, the system unit and what the store holds. -/
theorem Stored.same (h : Stored s t) (regs : u.regs = t.regs := by rfl) (hdr : u.nvs.flushHdr = t.nvs.flushHdr := by rfl)
    (seq : u.nvs.flushSeq = t.nvs.flushSeq := by rfl) (journal : t.nvs.journal <+: u.nvs.journal := by exact List.prefix_rfl)
    (held : u.sys.resetHeld = t.sys.resetHeld := by rfl) : Stored s u :=
  h.trans ⟨hdr, seq, journal, held, by rw [State.reg, regs, State.reg]⟩

theorem Stored.ite {c : Prop} [Decidable c] (h : Stored s t) (k : Stored s u) : Stored s (if c then t else u) := by
  split
  · exact h
  · exact k

theorem Stored.foldl {α : Type} {f : State → α → State} (xs : List α) (h : Stored s t) (hf : ∀ u, ∀ x ∈ xs, Stored s u → Stored s (f u x)) :
    Stored s (xs.foldl f t) :=
  List.foldlRecOn (motive := Stored s) xs f h fun u hu x hx => hf u x hx hu

theorem Stored.setReg (h : Stored s t) {a : Nat} {v : Word} (ha : (a != 0x2208C) = true := by decide) : Stored s (t.setReg a v) :=
  h.trans ⟨rfl, rfl, List.prefix_rfl, rfl, t.reg_setReg_other v (by rintro rfl; exact absurd ha (by decide))⟩

theorem Stored.put (h : Stored s t) {f : Fld} {v : Nat} (hf : (f.reg != 0x2208C) = true := by decide) : Stored s (t.put f v) := h.setReg hf

theorem Stored.put64 (h : Stored s t) {lo hi : Fld} {v : Nat} (hlo : (lo.reg != 0x2208C) = true := by decide)
    (hhi : (hi.reg != 0x2208C) = true := by decide) : Stored s (t.put64 lo hi v) := (h.put hlo).put hhi

theorem Stored.settleFrom (h : Stored s t) (old : State) : Stored s (State.settleFrom old t) := by
  unfold State.settleFrom
  dsimp only
  split <;> split <;> exact h.same

theorem Stored.raise (h : Stored s t) {e : Ev} (he : (toldRegs e).all (· != 0x2208C) = true := by decide) : Stored s (t.raise e) := by
  have hraw : ((intRawBit e).reg != 0x2208C) = true := List.all_eq_true.mp he _ (by unfold toldRegs; split <;> simp)
  have hbit : Stored s (t.put (intRawBit e) 1) := h.put hraw
  have hcount : Stored s (match e.cnt with | none => t.put (intRawBit e) 1 | some k => (t.put (intRawBit e) 1).bumpBy (evtCnt e.page k) 1) := by
    split
    · exact hbit
    · next k hk =>
      have hk' : ((evtCnt e.page k).reg != 0x2208C) = true := List.all_eq_true.mp he _ (by simp [toldRegs, hk])
      exact hbit.put hk'
  unfold State.raise State.raiseBy
  rw [if_neg Nat.one_ne_zero]
  dsimp only
  split
  · exact hcount
  · exact hcount.settleFrom t

theorem Stored.dropRegs (h : Stored s t) {lost : Nat → Bool} (hlost : lost 0x2208C = false) : Stored s (t.dropRegs lost) := by
  refine h.trans ⟨rfl, rfl, List.prefix_rfl, rfl, ?_⟩
  have hkept : (!lost R.NVS_FLUSH_STAT_VALID.reg) = true := by
    show (!lost 0x2208C) = true
    rw [hlost, Bool.not_false]
  show mapGet _ (t.regs.filter fun p => !lost p.1) _ = mapGet _ t.regs _
  rw [mapGet, mapFind_filter (fun a => !lost a), if_pos hkept, mapGet]

/-! ## The journal -/

/-- The fields that a committed record changes. -/
def jFields : List Fld := [R.NVS_JOCC_MB, R.NVS_JSEQ_LO_SEQ, R.NVS_JSEQ_HI_SEQ, R.NVS_STAT_JFULL] ++ toldFields E.NVS_JFULL

theorem Stored.jShow (h : Stored s t) : Stored s t.jShow := by
  have h2 : Stored s ((t.put R.NVS_JOCC_MB (ceilDiv t.jUsed 0x4000)).put64 R.NVS_JSEQ_LO_SEQ R.NVS_JSEQ_HI_SEQ t.nvs.seq) := h.put.put64
  unfold State.jShow
  dsimp only
  split
  · exact h2.put
  · split
    · exact h2
    · exact h2.put.raise

theorem State.jShow_get {g : Fld} (hc : g.clear jFields = true) : s.jShow.get g = s.get g := by
  have hoff := Fld.clear_iff.mp hc
  have h2 : ((s.put R.NVS_JOCC_MB (ceilDiv s.jUsed 0x4000)).put64 R.NVS_JSEQ_LO_SEQ R.NVS_JSEQ_HI_SEQ s.nvs.seq).get g = s.get g := by
    unfold State.put64
    rw [State.get_put_off _ (hoff _ (by decide)), State.get_put_off _ (hoff _ (by decide)), State.get_put_off _ (hoff _ (by decide))]
  unfold State.jShow
  dsimp only
  generalize (s.put R.NVS_JOCC_MB (ceilDiv s.jUsed 0x4000)).put64 R.NVS_JSEQ_LO_SEQ R.NVS_JSEQ_HI_SEQ s.nvs.seq = v at h2 ⊢
  split
  · exact (State.get_put_off _ (hoff _ (by decide))).trans h2
  · split
    · exact h2
    · rw [State.get_raise_clear (Fld.clear_iff.mpr fun f hf => hoff f (List.mem_append_right _ hf)), State.get_put_off _ (hoff _ (by decide)), h2]

theorem State.jShow_nvs : s.jShow.nvs = s.nvs := by
  have h2 : ((s.put R.NVS_JOCC_MB (ceilDiv s.jUsed 0x4000)).put64 R.NVS_JSEQ_LO_SEQ R.NVS_JSEQ_HI_SEQ s.nvs.seq).nvs = s.nvs := by
    unfold State.put64
    rw [State.put_nvs, State.put_nvs, State.put_nvs]
  obtain ⟨t, ht⟩ : ∃ t, t = s.jShow := ⟨_, rfl⟩
  rw [← ht]
  unfold State.jShow at ht
  dsimp only at ht
  generalize (s.put R.NVS_JOCC_MB (ceilDiv s.jUsed 0x4000)).put64 R.NVS_JSEQ_LO_SEQ R.NVS_JSEQ_HI_SEQ s.nvs.seq = v at h2 ht
  split at ht
  · rw [ht, State.put_nvs, h2]
  · split at ht
    · rw [ht, h2]
    · rw [ht, State.raise_nvs, State.put_nvs, h2]

theorem State.jShow_mem : s.jShow.mem = s.mem := by
  have h2 : ((s.put R.NVS_JOCC_MB (ceilDiv s.jUsed 0x4000)).put64 R.NVS_JSEQ_LO_SEQ R.NVS_JSEQ_HI_SEQ s.nvs.seq).mem = s.mem := by
    unfold State.put64
    rw [State.put_mem, State.put_mem, State.put_mem]
  obtain ⟨t, ht⟩ : ∃ t, t = s.jShow := ⟨_, rfl⟩
  rw [← ht]
  unfold State.jShow at ht
  dsimp only at ht
  generalize (s.put R.NVS_JOCC_MB (ceilDiv s.jUsed 0x4000)).put64 R.NVS_JSEQ_LO_SEQ R.NVS_JSEQ_HI_SEQ s.nvs.seq = v at h2 ht
  split at ht
  · rw [ht, State.put_mem, h2]
  · split at ht
    · rw [ht, h2]
    · rw [ht, State.raise_mem, State.put_mem, h2]

/-- The record that is committed. -/
def State.jRecord (s : State) (type : Nat) (payload : List Nat) : JRec :=
  { seq := s.nvs.seq + 1, type := type, units := jUnits type, tickno := s.tick.tickno, payload := payload }

/-- The store with the record. -/
def State.jStore (s : State) (type : Nat) (payload : List Nat) : State :=
  let l := { s.nvs.life with nandBytes := s.nvs.life.nandBytes + 64 * (s.jRecord type payload).units }
  { s with nvs := { s.nvs with journal := s.nvs.journal ++ [s.jRecord type payload], seq := s.nvs.seq + 1, life := l } }

theorem State.jCommit_eq (type : Nat) (payload : List Nat) : s.jCommit type payload = (s.jStore type payload).jShow := rfl

theorem State.jCommit_journal (type : Nat) (payload : List Nat) :
    (s.jCommit type payload).nvs.journal = s.nvs.journal ++ [s.jRecord type payload] := by
  have hstore : (s.jStore type payload).nvs.journal = s.nvs.journal ++ [s.jRecord type payload] := rfl
  rw [State.jCommit_eq, State.jShow_nvs, hstore]

theorem State.jCommit_get {type : Nat} {payload : List Nat} {g : Fld} (hc : g.clear jFields = true) :
    (s.jCommit type payload).get g = s.get g := by
  have hstore : (s.jStore type payload).get g = s.get g := rfl
  rw [State.jCommit_eq, State.jShow_get hc, hstore]

theorem State.jCommit_mem (type : Nat) (payload : List Nat) : (s.jCommit type payload).mem = s.mem := by
  have hstore : (s.jStore type payload).mem = s.mem := rfl
  rw [State.jCommit_eq, State.jShow_mem, hstore]

theorem Stored.jCommit (h : Stored s t) {type : Nat} {payload : List Nat} : Stored s (t.jCommit type payload) := by
  rw [State.jCommit_eq]
  exact Stored.jShow (h.same (u := t.jStore type payload) (journal := List.prefix_append _ _))

theorem Stored.lifeCommit (h : Stored s t) : Stored s t.lifeCommit := by
  unfold State.lifeCommit State.lifeCommitAt
  exact Stored.jCommit h.same

theorem Stored.jEvent (h : Stored s t) {code : Nat} {detail : List Nat} : Stored s (t.jEvent code detail) := .ite h.jCommit.lifeCommit h.same

theorem Stored.jDrain (h : Stored s t) : Stored s t.jDrain := by
  have h0 : Stored s { t with nvs := { t.nvs with waiting := [] } } := h.same
  exact .ite h0 (Stored.lifeCommit (.foldl _ h0 fun _ _ _ hu => hu.jCommit))

theorem Stored.compactCut (h : Stored s t) : Stored s t.compactCut := Stored.put (Stored.put (Stored.put (h.same (u := { t with nvs := _ }))))

theorem Stored.eventOn (h : Stored s t) {code source vc : Nat} {detail : List Nat} : Stored s (t.eventOn code source detail vc) :=
  .ite h.same (Stored.raise (h.same (u := { t with evtQ := _ })))

theorem Stored.event (h : Stored s t) {code source : Nat} {detail : List Nat} : Stored s (t.event code source detail) := h.eventOn

theorem Stored.thermEvent (h : Stored s t) {cause site : Nat} : Stored s (t.thermEvent cause site) := h.event

/-! ## Domains off -/

theorem Stored.ctUnlock (h : Stored s t) : Stored s t.ctUnlock := by
  have h1 : Stored s (t.setChain { t.chain with okRun := 0 }) := h.same
  exact .ite h1.put.raise h1

theorem Stored.tokensGone (h : Stored s t) : Stored s t.tokensGone := .ite h (Stored.raise (Stored.put (h.same (u := t.setChain _))))

theorem Stored.chainCut (h : Stored s t) : Stored s t.chainCut := .ite h.ctUnlock h.ctUnlock.tokensGone.event

theorem Stored.setPortState (h : Stored s t) {p st : Nat} (hp : p < 3) : Stored s (t.setPortState p st) := by
  have hreg : ((R.RP_STAT_STATE p).reg != 0x2208C) = true := by simp only [R.RP_STAT_STATE, bne_iff_ne]; omega
  exact .ite h (h.put hreg).event

/-- No register of the NVS page is shadowed or banked. -/
theorem rowsNVS_plain : ∀ r ∈ rowsNVS, (r.kind = .shadow || r.kind = .banked) = false := by decide

theorem pageRow_NVS : ∃ r, pageRow 0x22 = some r ∧ r.rows = rowsNVS ∧ restDom 0x22 = dSUPV := ⟨_, rfl, rfl, rfl⟩

theorem lostWith_flushStat (d : Nat) : lostWith d 0x2208C = false := by
  obtain ⟨r, hr, hrows, -⟩ := pageRow_NVS
  have hpage : 0x2208C / 4096 = 0x22 := rfl
  rw [lostWith, regRow, hpage, hr]
  dsimp only
  split
  · next row hrow =>
    rw [hrows] at hrow
    rw [rowsNVS_plain _ (mem_of_findRow hrow), Bool.and_false]
  · exact Bool.and_false _

theorem restOf_flushStat {d : Nat} (hd : d ≠ dSUPV) : restOf d 0x2208C = false := by
  obtain ⟨-, -, -, hrest⟩ := pageRow_NVS
  have hpage : 0x2208C / 4096 = 0x22 := rfl
  rw [restOf, hpage, hrest, decide_eq_false hd.symm, Bool.and_false]

theorem Stored.memForget (h : Stored s t) {lo hi : Nat} : Stored s (t.memForget lo hi) := h.same

theorem Stored.enginesLost (h : Stored s t) {c : Nat} : Stored s (t.enginesLost c) := h.same

theorem Stored.courseLost (h : Stored s t) {c : Nat} (hc : c < 12) : Stored s (t.courseLost c) := by
  have hsum : ((R.ENGG_FAULT_SUMw_SHINGLE (c / 2)).reg != 0x2208C) = true := by
    simp only [R.ENGG_FAULT_SUMw_SHINGLE, bne_iff_ne]
    omega
  have hd : dCOURSE c ≠ dSUPV := by unfold dCOURSE dSUPV; omega
  have hon : Stored s (t.put ⟨R.ENGG_STAT_COURSE_ON.reg, c, 1⟩ 0) := h.put (show (R.ENGG_STAT_COURSE_ON.reg != 0x2208C) = true by decide)
  have hput : Stored s ((t.put ⟨R.ENGG_STAT_COURSE_ON.reg, c, 1⟩ 0).put ⟨(R.ENGG_FAULT_SUMw_SHINGLE (c / 2)).reg, 16 * (c % 2), 16⟩ 0) :=
    hon.put hsum
  unfold State.courseLost
  dsimp only
  generalize (t.put ⟨R.ENGG_STAT_COURSE_ON.reg, c, 1⟩ 0).put ⟨(R.ENGG_FAULT_SUMw_SHINGLE (c / 2)).reg, 16 * (c % 2), 16⟩ 0 = u at hput ⊢
  have hdrop : Stored s (u.dropRegs fun a => restOf (dCOURSE c) a && !shKept a) :=
    hput.dropRegs (by rw [restOf_flushStat hd, Bool.false_and])
  exact hdrop.enginesLost.memForget

theorem Stored.setPort (h : Stored s t) {p : Nat} {x : Port} : Stored s (t.setPort p x) := h.same

theorem Stored.portLost (h : Stored s t) {p : Nat} (hp : p < 3) : Stored s (t.portLost p) := by
  have hstat : (0x24044 + 0x1000 * p != 0x2208C) = true := by simp only [bne_iff_ne]; omega
  have hd : dPORT p ≠ dSUPV := by unfold dPORT dSUPV; omega
  have hcut : Stored s (if p = 1 && t.portUp p then t.chainCut else t) := .ite h.chainCut h
  unfold State.portLost
  dsimp only
  generalize (if p = 1 && t.portUp p then t.chainCut else t) = u at hcut ⊢
  have hdma : Stored s (u.dmaPortLost p) := hcut.same
  generalize u.dmaPortLost p = v at hdma ⊢
  have hput := (((hdma.put (f := R.RP_STAT_LANES p) (v := 0) hstat).put (f := R.RP_STAT_WIDTH p) (v := 0) hstat).put
    (f := R.RP_STAT_FOM_MIN p) (v := 0) hstat).put (f := R.RP_STAT_RATE_ACT p) (v := 0) hstat
  have hstate := hput.setPortState (st := rpOFF) hp
  generalize ((((v.put (R.RP_STAT_LANES p) 0).put (R.RP_STAT_WIDTH p) 0).put (R.RP_STAT_FOM_MIN p) 0).put (R.RP_STAT_RATE_ACT p) 0).setPortState p rpOFF = w
    at hstate ⊢
  exact hstate.setPort.dropRegs (by rw [restOf_flushStat hd, Bool.false_and])

theorem Stored.clkLost (h : Stored s t) : Stored s t.clkLost := by
  unfold State.clkLost
  have hstop : Stored s (State.chainStop { t with clk := {}, tick := { t.tick with acc := 0, cntTimes := [], pred := none } }) := h.same
  refine Stored.put (Stored.foldl _ (Stored.foldl _ (Stored.put (Stored.put (Stored.put hstop))) fun u i hi hu => ?_) fun u a ha hu => ?_)
  · exact hu.put (by have := List.mem_range.mp hi; simp only [R.PLLi_STAT_LOCK, bne_iff_ne]; omega)
  · have hshown : ∀ a ∈ bankShown, (a != 0x2208C) = true := by decide
    exact hu.setReg (hshown a ha)

theorem Stored.loftLost (h : Stored s t) : Stored s t.loftLost := by
  have hforget : Stored s (State.memForget { t with dev := {} } loftBase (loftBase + loftSize)) := Stored.memForget (h.same (u := { t with dev := {} }))
  unfold State.loftLost
  refine Stored.foldl _ (Stored.setReg hforget) fun u i hi hu => ?_
  exact hu.setReg (by have := List.mem_range.mp hi; simp only [R.MCm_MSTAT_OPEN, bne_iff_ne]; omega)

theorem Stored.lampLost (h : Stored s t) : Stored s t.lampLost := by
  unfold State.lampLost
  exact Stored.put (Stored.put (Stored.put (Stored.put h.same)))

theorem Stored.domOff (h : Stored s t) {d : Nat} : Stored s (t.domOff d) := by
  have hput : Stored s (t.put ⟨R.PWR_DOM_STAT_ON.reg, d, 1⟩ 0) := h.put (show (R.PWR_DOM_STAT_ON.reg != 0x2208C) = true by decide)
  have hdrop : Stored s ((t.put ⟨R.PWR_DOM_STAT_ON.reg, d, 1⟩ 0).dropRegs (lostWith d)) := hput.dropRegs (lostWith_flushStat d)
  unfold State.domOff
  dsimp only
  generalize (t.put ⟨R.PWR_DOM_STAT_ON.reg, d, 1⟩ 0).dropRegs (lostWith d) = u at hdrop ⊢
  split
  · exact h
  split
  · next hc => exact hdrop.courseLost (by simp only [Bool.and_eq_true, decide_eq_true_eq] at hc; omega)
  split
  · next hp => exact hdrop.portLost (by simp only [Bool.and_eq_true, decide_eq_true_eq] at hp; omega)
  split
  · exact hdrop.lampLost
  split
  · exact hdrop.loftLost
  split
  · exact hdrop.put.put
  split
  · exact hdrop.clkLost
  split
  · exact hdrop.compactCut.put.put
  split
  · exact hdrop.same
  split
  · have hbanks : Stored s u.banksLost := hdrop.same
    exact hbanks.put
  · exact hdrop

theorem Stored.domsOff (h : Stored s t) {ds : List Nat} : Stored s (t.domsOff ds) := .foldl _ h fun _ _ _ hu => hu.domOff

theorem Stored.packCount (h : Stored s t) : Stored s t.packCount := by
  have hadd (q : Int) : Stored s (t.mahAdd q) := by
    unfold State.mahAdd
    exact Stored.put (h.same (u := { t with pwr := _ }))
  unfold State.packCount
  dsimp only
  split
  · exact (hadd _).same
  · exact h.same

theorem Stored.packDraw (h : Stored s t) : Stored s t.packDraw := by
  have hf : Stored s t.fresh.2 := h.same
  unfold State.packDraw
  dsimp only
  generalize t.fresh.2 = v at hf ⊢
  unfold State.packSetI
  exact hf.packCount.put

end Sys2Proof.Machine
end

/-! PROOFS. O47: the flush, its end, and hold-up as stated (R363–R365, R265, R266). -/
section
-- One theorem after the other: the default proofs of the side conditions below are run by the elaborator, which waits for all that stands before.
set_option Elab.async false
namespace Sys2Proof.Machine

variable {b : Bool} {s t u : State} {fs : List Fld}

/-! ## The flush's end -/

/-- What the FLUSH record holds. -/
def State.flushPayload (s : State) : List Nat := leBytes 8 (s.nvs.seq + 1) ++ (s.bytes nvsFlush 4096).drop 4092

/-- What the POWER_LOSS record holds. -/
def State.lossPayload (s : State) : List Nat :=
  leBytes 2 evPOWER_LOSS ++
    padTo 32 (leBytes 8 (s.get64 R.RING_WM_LO_TICKNO R.RING_WM_HI_TICKNO) ++ leBytes 8 s.lastTickno ++ leBytes 8 (s.nvs.seq + 1))

/-- The FLUSH and POWER_LOSS records are committed. -/
def State.flushRecords (s : State) : State := (s.jCommit jFLUSH s.flushPayload).jCommit jEVENT s.lossPayload

/-- The flush area's state with its records committed. -/
def State.flushMark (s : State) (sq : Nat) (lost : Bool) : State :=
  { s with nvs := { s.nvs with flushHdr := none, flushSeq := some sq, flushLost := lost } }

theorem State.flushMark_shows (s : State) (k : Nat) (lost : Bool) : (s.flushMark k lost).mem = s.mem ∧ (s.flushMark k lost).sys = s.sys ∧
    (s.flushMark k lost).nvs.journal = s.nvs.journal ∧ (s.flushMark k lost).nvs.flushSeq = some k ∧ (s.flushMark k lost).nvs.flushLost = lost ∧
    (s.flushMark k lost).nvs.flushHdr = none := ⟨rfl, rfl, rfl, rfl, rfl, rfl⟩

theorem State.flushCommit_eq (hhdr : s.nvs.flushHdr.isSome = true) (hready : s.on R.NVS_STAT_READY = true) : s.flushCommit =
    (((s.flushRecords.flushMark (s.nvs.seq + 1) s.nvs.flushSeq.isSome).put R.NVS_STAT_FLUSHING 0).flushShow).jDrain := by
  have hnone : s.nvs.flushHdr.isNone = false := by
    rw [← Option.not_isSome, hhdr]
    rfl
  unfold State.flushCommit
  rw [if_neg (by rw [hnone, hready]; decide)]
  unfold State.flushMark State.flushRecords State.flushPayload State.lossPayload
  dsimp only

theorem State.flushRecords_shows : s.flushRecords.mem = s.mem ∧ s.flushRecords.sys.resetHeld = s.sys.resetHeld ∧
    ∃ a c, s.flushRecords.nvs.journal = s.nvs.journal ++ [a, c] ∧ a.type = jFLUSH ∧ c.type = jEVENT := by
  unfold State.flushRecords
  generalize s.flushPayload = p
  generalize s.lossPayload = q
  have hstored : Stored s ((s.jCommit jFLUSH p).jCommit jEVENT q) := Stored.refl.jCommit.jCommit
  refine ⟨by rw [State.jCommit_mem, State.jCommit_mem], hstored.held, s.jRecord jFLUSH p, (s.jCommit jFLUSH p).jRecord jEVENT q, ?_, rfl, rfl⟩
  rw [State.jCommit_journal, State.jCommit_journal, List.append_assoc, List.singleton_append]

theorem State.flushValid_eq (hseq : s.nvs.flushSeq = some k) : s.flushValid =
    (decide (crc32 ((s.bytes nvsFlush 4096).take 4092) = leNat ((s.bytes nvsFlush 4096).drop 4092)) &&
      decide (leNat ((s.bytes nvsFlush 4096).take 8) = k)) := by
  unfold State.flushValid
  rw [hseq]
  generalize s.bytes nvsFlush 4096 = hdr
  exact congrArg (_ && ·) (decide_eq_decide.mpr (by rw [Option.some.injEq, eq_comm]))

theorem State.flushShow_shows (hseq : s.nvs.flushSeq = some k) : ∃ ok, ok = (decide (crc32 ((s.bytes nvsFlush 4096).take 4092) =
      leNat ((s.bytes nvsFlush 4096).drop 4092)) && decide (leNat ((s.bytes nvsFlush 4096).take 8) = k)) ∧
    s.flushShow.get R.NVS_FLUSH_STAT_VALID = boolNat ok ∧ s.flushShow.get R.NVS_FLUSH_STAT_LOST_PREV = boolNat (ok && s.nvs.flushLost) ∧
    s.flushShow.nvs = s.nvs ∧ s.flushShow.sys = s.sys := by
  rw [← State.flushValid_eq hseq, State.flushShow]
  generalize s.flushValid = ok
  generalize leNat (s.bytes (nvsFlush + 80) 1) = n
  refine ⟨ok, rfl, ?_, ?_, ?_, ?_⟩
  · rw [State.get_put_off _ (by decide), State.get_put_off _ (by decide)]
    exact State.get_put_fits _ (by decide) (boolNat_lt_two ok)
  · rw [State.get_put_off _ (by decide)]
    exact State.get_put_fits _ (by decide) (boolNat_lt_two _)
  · rw [State.put_nvs, State.put_nvs, State.put_nvs]
  · rw [State.put_sys, State.put_sys, State.put_sys]

/-- What the flush's records leave. -/
theorem State.flushCommit_shows (hhdr : s.nvs.flushHdr.isSome = true) (hready : s.on R.NVS_STAT_READY = true) :
    ∃ ok, ok = (decide (crc32 ((s.bytes nvsFlush 4096).take 4092) = leNat ((s.bytes nvsFlush 4096).drop 4092)) &&
        decide (leNat ((s.bytes nvsFlush 4096).take 8) = s.nvs.seq + 1)) ∧
      s.flushCommit.get R.NVS_FLUSH_STAT_VALID = boolNat ok ∧ s.flushCommit.get R.NVS_FLUSH_STAT_LOST_PREV = boolNat (ok && s.nvs.flushSeq.isSome) ∧
      s.flushCommit.nvs.flushSeq = some (s.nvs.seq + 1) ∧ s.flushCommit.nvs.flushHdr = none ∧ s.flushCommit.sys.resetHeld = s.sys.resetHeld ∧
      ∃ a c, s.nvs.journal ++ [a, c] <+: s.flushCommit.nvs.journal ∧ a.type = jFLUSH ∧ c.type = jEVENT := by
  rw [State.flushCommit_eq hhdr hready]
  obtain ⟨hmem, hheld, a, c, hjournal, ha, hc⟩ := s.flushRecords_shows
  generalize s.nvs.seq + 1 = k
  generalize s.nvs.flushSeq.isSome = lost
  generalize s.flushRecords = v at hmem hheld hjournal ⊢
  obtain ⟨hmarkMem, hmarkSys, hmarkJournal, hmarkSeq, hmarkLost, hmarkHdr⟩ := v.flushMark_shows k lost
  generalize v.flushMark k lost = w at hmarkMem hmarkSys hmarkJournal hmarkSeq hmarkLost hmarkHdr ⊢
  have hputNvs : (w.put R.NVS_STAT_FLUSHING 0).nvs = w.nvs := State.put_nvs ..
  have hputSys : (w.put R.NVS_STAT_FLUSHING 0).sys = w.sys := State.put_sys ..
  have hputMem : (w.put R.NVS_STAT_FLUSHING 0).mem = w.mem := State.put_mem ..
  generalize w.put R.NVS_STAT_FLUSHING 0 = x at hputNvs hputSys hputMem ⊢
  obtain ⟨ok, hok, hvalid, hprev, hshowNvs, hshowSys⟩ := State.flushShow_shows (s := x) (k := k) (by rw [hputNvs, hmarkSeq])
  generalize x.flushShow = y at hvalid hprev hshowNvs hshowSys ⊢
  have hdrain : Stored y y.jDrain := Stored.refl.jDrain
  have hstat {g : Fld} (hg : g.reg = R.NVS_FLUSH_STAT_VALID.reg) : y.jDrain.get g = y.get g := by
    rw [State.get, State.get, hg, hdrain.stat]
  generalize y.jDrain = z at hdrain hstat ⊢
  have hbytes : x.bytes nvsFlush 4096 = s.bytes nvsFlush 4096 := State.bytes_of_mem (hputMem.trans (hmarkMem.trans hmem)) _ _
  refine ⟨ok, ?_, (hstat (g := R.NVS_FLUSH_STAT_VALID) rfl).trans hvalid, ?_, ?_, ?_, ?_, a, c, ?_, ha, hc⟩
  · rw [hok, hbytes]
  · rw [hstat (g := R.NVS_FLUSH_STAT_LOST_PREV) rfl, hprev, hputNvs, hmarkLost]
  · rw [hdrain.seq, hshowNvs, hputNvs, hmarkSeq]
  · rw [hdrain.hdr, hshowNvs, hputNvs, hmarkHdr]
  · rw [hdrain.held, hshowSys, hputSys, hmarkSys, hheld]
  · have hprefix := hdrain.journal
    rw [hshowNvs, hputNvs, hmarkJournal, hjournal] at hprefix
    exact hprefix

/-! ## WAIT begins -/

theorem Stored.heldShutdown (h : Stored s t) : Stored s t.heldShutdown := by
  have h1 : Stored s { t with therm := { t.therm with stopPend := false }, nvs := { t.nvs with life := { t.nvs.life with shutdowns := t.nvs.life.shutdowns + 1 } } } :=
    h.same
  unfold State.heldShutdown
  exact .ite h h1.thermEvent.jEvent

theorem State.packSetI_get {i : Int} {g : Fld} (hc : g.clear currentFields = true) : (s.packSetI i).get g = s.get g := by
  have hoff := Fld.clear_iff.mp hc
  have hadd (q : Int) : (s.mahAdd q).get g = s.get g := by
    unfold State.mahAdd
    exact State.get_put_off _ (hoff _ (by decide))
  have hcount : s.packCount.get g = s.get g := by
    unfold State.packCount
    dsimp only
    split
    · exact hadd _
    · rfl
  unfold State.packSetI
  rw [State.get_put_off _ (hoff _ (by decide)), hcount]

theorem State.packDraw_get {g : Fld} (hc : g.clear currentFields = true) : s.packDraw.get g = s.get g := by
  have hf : s.fresh.2.get g = s.get g := rfl
  unfold State.packDraw
  dsimp only
  rw [State.packSetI_get hc, hf]

/-- WAIT begins. -/
def State.waitBegin (s : State) : State := State.put { s with pwr := { s.pwr with flushEnded := true, waitSince := s.now } } R.PWR_STAT_HOLD_PHASE 3

theorem State.flushDone_eq (hpower : s.power = pHOLDUP) (hphase : s.get R.PWR_STAT_HOLD_PHASE = 2) :
    s.flushDone = (s.flushCommit.heldShutdown.domsOffBut [dAON, dDDR]).ddrRest.packDraw.waitBegin.heldWait := by
  unfold State.flushDone
  rw [if_neg (by simp [hpower, hphase])]
  rfl

theorem State.heldWait_eq_self (h : s.sys.resetHeld = 0) : s.heldWait = s := by
  unfold State.heldWait State.heldApply
  rw [if_pos h]
  split <;> rfl

theorem flushDone_shown (hpower : s.power = pHOLDUP) (hphase : s.get R.PWR_STAT_HOLD_PHASE = 2) (hhdr : s.nvs.flushHdr.isSome = true)
    (hready : s.on R.NVS_STAT_READY = true) (hheld : s.sys.resetHeld = 0) : goesOn (exec .flushDone s) fun t =>
      let hdr := s.bytes nvsFlush 4096
      let ok := decide (crc32 (hdr.take 4092) = leNat (hdr.drop 4092)) && decide (leNat (hdr.take 8) = s.nvs.seq + 1)
      t.get R.PWR_STAT_HOLD_PHASE = 3 ∧ t.pwr.flushEnded = true ∧ t.get R.NVS_FLUSH_STAT_VALID = boolNat ok ∧
      t.get R.NVS_FLUSH_STAT_LOST_PREV = boolNat (ok && s.nvs.flushSeq.isSome) ∧ t.nvs.flushSeq = some (s.nvs.seq + 1) ∧ t.get R.MEM_STAT_READY = 0 ∧
      t.nvs.flushHdr = none ∧ ∃ a b rest, t.nvs.journal = s.nvs.journal ++ a :: b :: rest ∧ a.type = jFLUSH ∧ b.type = jEVENT := by
  have hexec : exec .flushDone s = .next s.flushDone := rfl
  rw [hexec, State.flushDone_eq hpower hphase]
  obtain ⟨ok, hok, hvalid, hprev, hseq, hnone, hres, a, c, hjournal, ha, hc⟩ := State.flushCommit_shows hhdr hready
  generalize s.flushCommit = v at hvalid hprev hseq hnone hres hjournal ⊢
  have hdoms : Stored v (v.heldShutdown.domsOffBut [dAON, dDDR]) := Stored.refl.heldShutdown.domsOff
  generalize v.heldShutdown.domsOffBut [dAON, dDDR] = w at hdoms ⊢
  have hrest : Stored v w.ddrRest := hdoms.put.put
  have hmem : w.ddrRest.get R.MEM_STAT_READY = 0 := (State.get_put_off _ (by decide)).trans (State.get_put_fits _ (by decide) (by decide))
  generalize w.ddrRest = x at hrest hmem ⊢
  have hdraw : Stored v x.packDraw := hrest.packDraw
  have hdrawMem : x.packDraw.get R.MEM_STAT_READY = 0 := (State.packDraw_get (by decide)).trans hmem
  generalize x.packDraw = y at hdraw hdrawMem ⊢
  have hyget (g : Fld) : { y with pwr := { y.pwr with flushEnded := true, waitSince := y.now } }.get g = y.get g := rfl
  have hyended : { y with pwr := { y.pwr with flushEnded := true, waitSince := y.now } }.pwr.flushEnded = true := rfl
  have hystored : Stored v { y with pwr := { y.pwr with flushEnded := true, waitSince := y.now } } := hdraw.same
  unfold State.waitBegin
  generalize ({ y with pwr := { y.pwr with flushEnded := true, waitSince := y.now } } : State) = z at hyget hyended hystored ⊢
  have hend : Stored v (z.put R.PWR_STAT_HOLD_PHASE 3) := hystored.put
  rw [State.heldWait_eq_self (by rw [hend.held, hres, hheld])]
  refine ⟨_, rfl, ?_⟩
  have hstat {g : Fld} (hg : g.reg = R.NVS_FLUSH_STAT_VALID.reg) : (z.put R.PWR_STAT_HOLD_PHASE 3).get g = v.get g := by
    rw [State.get, State.get, hg, hend.stat]
  have hthree : (z.put R.PWR_STAT_HOLD_PHASE 3).get R.PWR_STAT_HOLD_PHASE = 3 := State.get_put_fits _ (by decide) (by decide)
  have hready0 : (z.put R.PWR_STAT_HOLD_PHASE 3).get R.MEM_STAT_READY = 0 := (State.get_put_off _ (by decide)).trans ((hyget _).trans hdrawMem)
  have hended : (z.put R.PWR_STAT_HOLD_PHASE 3).pwr.flushEnded = true := by rw [State.put_pwr, hyended]
  generalize z.put R.PWR_STAT_HOLD_PHASE 3 = r at hend hstat hthree hready0 hended ⊢
  obtain ⟨rest, hlist⟩ := hjournal.trans hend.journal
  subst hok
  refine ⟨hthree, hended, (hstat (g := R.NVS_FLUSH_STAT_VALID) rfl).trans hvalid, (hstat (g := R.NVS_FLUSH_STAT_LOST_PREV) rfl).trans hprev, hend.seq.trans hseq, hready0, hend.hdr.trans hnone, a, c, rest, ?_, ha, hc⟩
  rw [← hlist, List.append_assoc]
  rfl

end Sys2Proof.Machine
end

/-! PROOFS. O47: DRAIN ends and the flush begins (R365); hold-up as stated (R353, R362–R365, R265, R266). -/
section
-- One theorem after the other: the default proofs of the side conditions below are run by the elaborator, which waits for all that stands before.
set_option Elab.async false
namespace Sys2Proof.Machine

variable {b : Bool} {s t u : State} {L : List Nat}

/-! ## The rings are written -/

theorem State.memCopy_written (src dst n : Nat) : Written s (s.memCopy src dst n) L := by
  have hclear : Written s { s with mem := memClear s.mem dst (dst + n) } L := ⟨.of_regs rfl, _, _, _, _, _, _, _, rfl⟩
  unfold State.memCopy
  exact hclear.trans (.foldl _ fun u c _ => ⟨.of_regs rfl, _, _, _, _, _, _, _, rfl⟩)

theorem State.flushUnits_written (r n ofs dst : Nat) : Written s (s.flushUnits r n ofs dst) memErrRegs := by
  induction n generalizing s ofs dst with
  | zero => exact .refl
  | succ n ih => exact ((s.ddrRead_written _ _).trans (State.memCopy_written _ _ _)).trans (ih _ _)

theorem State.flushRing_written (acc : List Flushed × Nat × Nat) (r : Nat) : Written s (s.flushRing acc r).1 memErrRegs :=
  (State.flushUnits_written _ _ _ _).trans (State.fresh_written _)

/-- The flush area's header waits for its record. -/
def State.flushHeaded (s : State) (pos : Nat) : State :=
  { s with nvs := { s.nvs with flushHdr := some (s.nvs.seq + 1), life := { s.nvs.life with nandBytes := s.nvs.life.nandBytes + 64 * pos } } }

/-- The registers that the flush writes. -/
def flushRegs : List Nat := R.NVS_FLUSH_STAT_TRUNC.reg :: memErrRegs

theorem State.flushRings_written : ∃ v pos, Written s v memErrRegs ∧ Written (v.flushHeaded pos) s.flushRings flushRegs := by
  obtain ⟨t, ht⟩ : ∃ t, t = s.flushRings := ⟨_, rfl⟩
  rw [← ht]
  unfold State.flushRings at ht
  have h1 := s.flushRing_written ([], 64, 0) 1
  generalize s.flushRing ([], 64, 0) 1 = p at h1 ht
  obtain ⟨s1, a1⟩ := p
  have h2 := s1.flushRing_written a1 0
  generalize hq : s1.flushRing a1 0 = q at h2
  obtain ⟨s2, a2⟩ := q
  have h3 := s2.flushRing_written a2 3
  generalize hr : s2.flushRing a2 3 = r at h3
  obtain ⟨s3, fl, pos, trunc⟩ := r
  simp only [hq, hr] at ht
  refine ⟨s3, pos, (h1.trans h2).trans h3, ?_⟩
  rw [ht]
  exact (State.setBytes_written _ _ _).trans (State.put_written _ _ (by decide))

/-- The flush leaves every register but those, the lines and the guarded pages. -/
theorem State.flushRings_shows : Calm true s s.flushRings ∧ s.flushRings.get R.NVS_STAT_FLUSHING = s.get R.NVS_STAT_FLUSHING := by
  obtain ⟨v, pos, hv, ht⟩ := s.flushRings_written
  have hget : (v.flushHeaded pos).get R.NVS_STAT_FLUSHING = v.get R.NVS_STAT_FLUSHING := rfl
  have hcalm : Calm true s (v.flushHeaded pos) := (Calm.written .refl hv (by decide)).same
  exact ⟨hcalm.written ht (by decide), (ht.get (by decide)).trans (hget.trans (hv.get (by decide)))⟩

/-! ## The domains of the flush -/

/-- A write beside PWR_DOM_STAT leaves the domains. -/
theorem State.dom_put_off {f : Fld} {v d : Nat} (hf : f.reg ≠ R.PWR_DOM_STAT_ON.reg) : (s.put f v).dom d = s.dom d := by
  rw [State.dom, State.get, s.reg_put_other v hf.symm, State.dom, State.get]

theorem State.dom_flushOn {d e : Nat} (hd : d < 25) (he : e < 25) : (s.flushOn d).dom e = (s.dom e || decide (e = d)) := by
  have hbegin (e : Nat) : (s.domBegin s.now).dom e = s.dom e := rfl
  unfold State.flushOn
  cases hon : s.dom d
  · rw [if_neg Bool.false_ne_true, ← hbegin e]
    generalize s.domBegin s.now = v
    rw [State.dom_eq_on he, State.dom_eq_on he]
    by_cases hde : e = d
    · rw [hde, decide_eq_true rfl, Bool.or_true, State.on, v.get_put_fits (by simp only; omega) (show 1 < 2 ^ 1 by decide)]
      rfl
    · rw [decide_eq_false hde, Bool.or_false]
      exact State.on_of_get (v.get_put_other 1 (.inr ⟨by simp only; omega, by simp only; omega⟩))
  · rw [if_pos rfl]
    by_cases hde : e = d
    · rw [hde, hon, Bool.true_or]
    · rw [decide_eq_false hde, Bool.or_false]

theorem State.flushOn_lines {d : Nat} : (s.flushOn d).lines = s.lines := by
  unfold State.flushOn
  split
  · rfl
  · rw [State.put_lines]
    rfl

/-- The domains that go off when the flush begins. -/
def flushOff : List Nat := domOrder.reverse.filter fun d => d ≠ dAON && d ≠ dCLK && d ≠ dDDR && d ≠ dSUPV && d ≠ dNVS && d ≠ dLOFT

theorem flushOff_lt : ∀ d ∈ flushOff, d < 25 := by decide

theorem notMem_flushOff : ∀ d, d < 25 → decide (d ∉ flushOff) = (decide (d = dCLK ∨ d = dDDR ∨ d = dSUPV ∨ d = dNVS ∨ d = dLOFT) || decide (d = dAON)) := by
  decide

theorem State.flushDomains_eq : s.flushDomains = [dCLK, dDDR, dSUPV, dNVS, dLOFT].foldl State.flushOn (s.domsOff flushOff) := rfl

/-- The domains of the flush are on, AON stays. -/
theorem State.dom_flushDomains {d : Nat} (hd : d < 25) : s.flushDomains.dom d =
    (decide (d = dCLK ∨ d = dDDR ∨ d = dSUPV ∨ d = dNVS ∨ d = dLOFT) || (decide (d = dAON) && s.dom dAON)) := by
  rw [State.flushDomains_eq]
  simp only [List.foldl_cons, List.foldl_nil]
  rw [State.dom_flushOn (by decide) hd, State.dom_flushOn (by decide) hd, State.dom_flushOn (by decide) hd, State.dom_flushOn (by decide) hd,
    State.dom_flushOn (by decide) hd, State.dom_domsOff flushOff_lt hd, notMem_flushOff d hd]
  by_cases haon : d = dAON
  · rw [haon]
    simp [dAON, dCLK, dDDR, dSUPV, dNVS, dLOFT]
  · rw [Bool.eq_iff_iff]
    simp only [Bool.or_eq_true, Bool.and_eq_true, decide_eq_true_eq]
    tauto

theorem State.flushDomains_lines (h : s.lines = []) : s.flushDomains.lines = [] := by
  rw [State.flushDomains_eq]
  have hoff : (s.domsOff flushOff).lines = [] := (Calm.domsOff (s := s) .refl).lines h
  exact List.foldlRecOn (motive := fun u : State => u.lines = []) _ _ hoff fun u hu d _ => State.flushOn_lines.trans hu

/-! ## The flush begins -/

/-- FLUSH is entered, and shown. -/
def State.flushEnter (s : State) : State := (s.compactCut.put R.PWR_STAT_HOLD_PHASE 2).put R.NVS_STAT_FLUSHING 1

theorem State.flushEnter_shows : s.flushEnter.get R.PWR_STAT_HOLD_PHASE = 2 ∧ s.flushEnter.get R.NVS_STAT_FLUSHING = 1 ∧
    s.flushEnter.lines = s.lines ∧ ∀ d, s.flushEnter.dom d = s.dom d := by
  have hcut : Calm true s s.compactCut := .compactCut .refl
  have hlines : s.compactCut.lines = s.lines := by
    unfold State.compactCut
    rw [State.put_lines, State.put_lines, State.put_lines]
  unfold State.flushEnter
  generalize s.compactCut = v at hcut hlines ⊢
  refine ⟨(State.get_put_off _ (by decide)).trans (v.get_put_fits (by decide) (by decide)), State.get_put_fits _ (by decide) (by decide), ?_, fun d => ?_⟩
  · rw [State.put_lines, State.put_lines, hlines]
  · rw [State.dom_put_off (by decide), State.dom_put_off (by decide), hcut.dom]

/-- The store was replayed before STANDBY. -/
def State.wasReplayed (s : State) : Bool :=
  s.pwr.fromStandby && s.nvs.numbered && s.nvs.flushHdr.isNone && !bit (s.get R.SYS_SELFTEST_FAIL) 7

/-- The store is taken as replayed, as it was before STANDBY. -/
def State.flushStore (s : State) (replayed : Bool) : State := if replayed then s.put R.NVS_STAT_READY 1 else s

theorem State.flushStore_calm {replayed : Bool} : Calm true s (s.flushStore replayed) := .ite (Calm.put .refl) .refl

theorem State.flushStore_lines {replayed : Bool} : (s.flushStore replayed).lines = s.lines := by
  unfold State.flushStore
  split
  · exact State.put_lines ..
  · rfl

theorem State.holdupFlush_eq (h : s.drainOver = true) : s.holdupFlush =
    if (s.flushDomains.flushStore s.wasReplayed).flushEnter.on R.NVS_STAT_READY then (s.flushDomains.flushStore s.wasReplayed).flushEnter.jDrain.lifeCommit.flushRings
    else (s.flushDomains.flushStore s.wasReplayed).flushEnter := by
  unfold State.holdupFlush
  rw [if_neg (by rw [h]; decide)]
  unfold State.flushStore State.flushEnter State.wasReplayed
  dsimp only

theorem State.lifeCommit_flushing : s.lifeCommit.get R.NVS_STAT_FLUSHING = s.get R.NVS_STAT_FLUSHING := by
  unfold State.lifeCommit State.lifeCommitAt
  exact State.jCommit_get (by decide)

theorem State.jDrain_flushing : s.jDrain.get R.NVS_STAT_FLUSHING = s.get R.NVS_STAT_FLUSHING := by
  unfold State.jDrain
  dsimp only
  split
  · rfl
  · rw [State.lifeCommit_flushing]
    exact List.foldlRecOn (motive := fun u : State => u.get R.NVS_STAT_FLUSHING = s.get R.NVS_STAT_FLUSHING) _ _ rfl fun u hu x _ =>
      (State.jCommit_get (by decide)).trans hu

/-- What the flush's beginning shows. -/
theorem State.holdupFlush_shows (h : s.drainOver = true) (hlines : s.lines = []) : s.holdupFlush.get R.PWR_STAT_HOLD_PHASE = 2 ∧
    s.holdupFlush.get R.NVS_STAT_FLUSHING = 1 ∧ s.holdupFlush.lines = [] ∧ ∀ d, d < 25 → s.holdupFlush.dom d =
      (decide (d = dCLK ∨ d = dDDR ∨ d = dSUPV ∨ d = dNVS ∨ d = dLOFT) || (decide (d = dAON) && s.dom dAON)) := by
  rw [State.holdupFlush_eq h]
  have hdom {d : Nat} (hd : d < 25) := s.dom_flushDomains hd
  have hline := State.flushDomains_lines hlines
  generalize s.flushDomains = v at hdom hline ⊢
  have hstore := v.flushStore_calm (replayed := s.wasReplayed)
  have hstoreLines := v.flushStore_lines (replayed := s.wasReplayed)
  generalize v.flushStore s.wasReplayed = w at hstore hstoreLines ⊢
  obtain ⟨hphase, hflushing, henter, hdoms⟩ := w.flushEnter_shows
  generalize w.flushEnter = x at hphase hflushing henter hdoms ⊢
  have hxlines : x.lines = [] := by rw [henter, hstoreLines, hline]
  have hxdom {d : Nat} (hd : d < 25) := ((hdoms d).trans (hstore.dom d)).trans (hdom hd)
  split
  · have hlife : Calm true x x.jDrain.lifeCommit := (Calm.jDrain .refl).lifeCommit
    have hflag : x.jDrain.lifeCommit.get R.NVS_STAT_FLUSHING = 1 := by rw [State.lifeCommit_flushing, State.jDrain_flushing, hflushing]
    generalize x.jDrain.lifeCommit = y at hlife hflag ⊢
    obtain ⟨hcalm, hget⟩ := y.flushRings_shows
    have hall := hlife.trans hcalm
    exact ⟨(hall.get (by decide)).trans hphase, hget.trans hflag, hall.lines hxlines, fun d hd => (hall.dom d).trans (hxdom hd)⟩
  · exact ⟨hphase, hflushing, hxlines, fun d hd => hxdom hd⟩

theorem State.linesDrop_lines : s.linesDrop.lines = [] := by
  have heq : s.linesDrop = ({ s with lines := [] } : State).linesDrop := rfl
  rw [heq]
  exact (Calm.linesDrop (b := true) .refl).lines rfl

theorem holdupFlush_shown (hpower : s.power = pHOLDUP) (hphase : s.get R.PWR_STAT_HOLD_PHASE = 1) (hleft : s.tick.flushLeft = 0)
    (hwarm : s.sys.warmEnd = none) : goesOn (exec .holdupFlush s) fun t =>
      t.get R.PWR_STAT_HOLD_PHASE = 2 ∧ t.get R.NVS_STAT_FLUSHING = 1 ∧ t.lines = [] ∧
      ∀ d, d < 25 → t.dom d = (decide (d = dCLK ∨ d = dDDR ∨ d = dSUPV ∨ d = dNVS ∨ d = dLOFT) || (decide (d = dAON) && s.dom dAON)) := by
  have hover : s.drainOver = true := by simp [State.drainOver, hpower, hphase, hleft]
  have hexec : exec .holdupFlush s = .next s.linesDrop.satDiscard.holdupFlush := by
    show execHoldupFlush s = _
    unfold execHoldupFlush
    rw [if_pos (by rw [hover, hwarm]; rfl)]
  have hdrop : Calm true s s.linesDrop := .linesDrop .refl
  have hdropLines := s.linesDrop_lines
  rw [hexec]
  generalize s.linesDrop = v at hdrop hdropLines ⊢
  have hcalm : Calm true s v.satDiscard := hdrop.satDiscard
  have hlines : v.satDiscard.lines = [] := (Calm.satDiscard (b := true) .refl).lines hdropLines
  generalize v.satDiscard = w at hcalm hlines ⊢
  have hwover : w.drainOver = true := by
    have hpw : w.power = s.power := hcalm.get (f := R.PWR_STAT_STATE) (by decide)
    simp [State.drainOver, hpw, hpower, (hcalm.get (f := R.PWR_STAT_HOLD_PHASE) (by decide)).trans hphase, hcalm.flush hleft]
  obtain ⟨h1, h2, h3, h4⟩ := State.holdupFlush_shows hwover hlines
  refine ⟨_, rfl, h1, h2, h3, fun d hd => ?_⟩
  rw [h4 d hd, hcalm.dom]

/-- Settles O47: R353 and R362–R365, with R265 and R266, as one lemma per command: the input loss with and without a usable pack, the flush,
its end, WAIT, the hand-back, supplement and overload. -/
theorem holdUpAndSupplement : Obligations.HoldUpAndSupplement := by
  unfold Obligations.HoldUpAndSupplement
  exact ⟨fun _ u hoff hpower huse => inputLoss_held u hoff hpower huse, fun _ u hoff hpower huse => inputLoss_off u hoff hpower huse,
    fun _ hpower hphase hleft hwarm => holdupFlush_shown hpower hphase hleft hwarm,
    fun _ hpower hphase hhdr hready hheld => flushDone_shown hpower hphase hhdr hready hheld,
    fun _ hpower hphase hq hoff => holdWaitExpire_shown hpower hphase hq hoff, fun _ hpack hoff => packCutoff_shown hpack hoff,
    fun _ hpower hended hq hoff hheld => handback_shown hpower hended hq hoff hheld,
    fun _ ma u hoff hpower hma => supplement_shown ma u hoff hpower hma, fun _ hsupp => supplementEnd_shown hsupp,
    fun _ mah hsupp hoff => overload_shown mah hsupp hoff⟩

end Sys2Proof.Machine
end

/-! PROOFS. What fallback and the loss of tokens leave: the pages of temperature, power, the management bus and SYS, memory, time (R304, R305). -/
section
-- One theorem after the other: the default proofs of the side conditions below are run by the elaborator, which waits for all that stands before.
set_option Elab.async false
namespace Sys2Proof.Machine

variable {s t u : State}

/-- From s to t only registers beside the guarded pages, ticks, the chain's state and what is sent and told changed; TICKNO did not. -/
structure Ticking (s t : State) : Prop where
  regs : ∀ a, paged a = true → t.reg a = s.reg a
  tickno : t.tick.tickno = s.tick.tickno
  rest : ∃ regs tick chain evtQ wire sys mb,
    t = { s with regs := regs, tick := tick, chain := chain, evtQ := evtQ, wire := wire, sys := sys, mb := mb }

theorem Ticking.refl : Ticking s s := ⟨fun _ _ => rfl, rfl, _, _, _, _, _, _, _, rfl⟩

theorem Ticking.trans (h : Ticking s t) (k : Ticking t u) : Ticking s u := by
  obtain ⟨hregs, hno, regs, tick, chain, evtQ, wire, sys, mb, rfl⟩ := h
  obtain ⟨kregs, kno, regs', tick', chain', evtQ', wire', sys', mb', rfl⟩ := k
  exact ⟨fun a ha => (kregs a ha).trans (hregs a ha), kno.trans hno, regs', tick', chain', evtQ', wire', sys', mb', rfl⟩

/-- What it leaves of the state. -/
theorem Ticking.fields (h : Ticking s t) : t.now = s.now ∧ t.mem = s.mem ∧ t.pwr = s.pwr ∧ t.therm = s.therm ∧ t.job = s.job ∧ t.lines = s.lines ∧
    t.eng = s.eng ∧ t.exp = s.exp ∧ t.force = s.force ∧ t.nvs = s.nvs := by
  obtain ⟨-, -, regs, tick, chain, evtQ, wire, sys, mb, rfl⟩ := h
  exact ⟨rfl, rfl, rfl, rfl, rfl, rfl, rfl, rfl, rfl, rfl⟩

theorem Ticking.get (h : Ticking s t) {f : Fld} (hf : paged f.reg = true := by decide) : t.get f = s.get f := by
  rw [State.get, h.regs _ hf, State.get]

theorem Ticking.dom (h : Ticking s t) (d : Nat) : t.dom d = s.dom d := by rw [State.dom, h.get (by decide), State.dom]

theorem Ticking.put (h : Ticking s t) {f : Fld} {v : Nat} (hf : paged f.reg = false := by decide) : Ticking s (t.put f v) :=
  h.trans ⟨fun _ hb => t.reg_put_other v (by rintro rfl; rw [hf] at hb; cases hb), rfl, _, _, _, _, _, _, _, rfl⟩

theorem Ticking.put64 (h : Ticking s t) {lo hi : Fld} {v : Nat} (hlo : paged lo.reg = false := by decide)
    (hhi : paged hi.reg = false := by decide) : Ticking s (t.put64 lo hi v) := (h.put hlo).put hhi

theorem Ticking.raise (h : Ticking s t) {e : Ev} (he : e.elsewhere = true := by decide) : Ticking s (t.raise e) := by
  have hcalm : Calm true t (t.raise e) := Calm.refl.raise he
  obtain ⟨r, y, m, heq⟩ := t.raiseBy_eq e 1
  exact h.trans ⟨fun a ha => hcalm.regs a (by rw [guarded, ha]; rfl), hcalm.tickno, _, _, _, _, _, _, _, heq⟩

/-- A change of the tick generator that leaves TICKNO. -/
theorem Ticking.ticked (h : Ticking s t) {tick : TickGen} (hno : tick.tickno = t.tick.tickno := by rfl) : Ticking s { t with tick := tick } :=
  h.trans ⟨fun _ _ => rfl, hno, _, _, _, _, _, _, _, rfl⟩

theorem Ticking.setChain (h : Ticking s t) {c : Chain} : Ticking s (t.setChain c) :=
  h.trans ⟨fun _ _ => rfl, rfl, _, _, _, _, _, _, _, rfl⟩

theorem Ticking.ite {c : Prop} [Decidable c] (h : Ticking s t) (k : Ticking s u) : Ticking s (if c then t else u) := by
  split
  · exact h
  · exact k

theorem Ticking.event (h : Ticking s t) {code source : Nat} {detail : List Nat} : Ticking s (t.event code source detail) := by
  have hq (q : List Event) : Ticking s { t with evtQ := q } := h.trans ⟨fun _ _ => rfl, rfl, _, _, _, _, _, _, _, rfl⟩
  unfold State.event State.eventOn
  dsimp only
  split
  · exact hq _
  · exact (hq _).raise

theorem Ticking.sendToken (h : Ticking s t) {a b c d e : Nat} : Ticking s (t.sendToken a b c d e) :=
  h.trans ⟨fun _ _ => rfl, rfl, _, _, _, _, _, _, _, rfl⟩

theorem Ticking.pushTick (h : Ticking s t) {d : DerTick} : Ticking s (t.pushTick d) := by
  unfold State.pushTick
  dsimp only
  split
  · exact h
  · split
    · exact h.ticked
    · exact List.foldlRecOn (motive := Ticking s) _ _ (Ticking.sendToken h.ticked) fun u hu _ _ => hu.sendToken

theorem Ticking.divTpred (h : Ticking s t) : Ticking s t.divTpred := by
  unfold State.divTpred
  split
  · exact h
  split
  · exact h
  · exact Ticking.put h.ticked

theorem Ticking.fallbackTicks (h : Ticking s t) (n : Nat) : Ticking s (State.fallbackTicks n t) := by
  induction n generalizing t with
  | zero => exact h
  | succ n ih =>
    unfold State.fallbackTicks
    dsimp only
    split
    · exact ih h.pushTick.ticked
    · exact h

theorem State.enterFallback_eq (n : Nat) : ∃ v, Ticking s v ∧ s.enterFallback n = (State.fallbackTicks v.divTimes v).rePredict.chainEvent 1 n :=
  ⟨_, Ticking.divTpred (Ticking.raise (Ticking.put64 (Ticking.put (Ticking.put .refl)))), rfl⟩

theorem Ticking.rePredict (h : Ticking s t) : Ticking s t.rePredict := h.ticked

theorem Ticking.enterFallback (h : Ticking s t) {n : Nat} : Ticking s (t.enterFallback n) := by
  obtain ⟨v, hv, heq⟩ := t.enterFallback_eq n
  rw [heq]
  exact Ticking.event ((h.trans hv).fallbackTicks v.divTimes).rePredict

theorem Ticking.fallbackGo (h : Ticking s t) : Ticking s t.fallbackGo := .ite h.enterFallback h

theorem Ticking.fallbackRun (h : Ticking s t) (before : State) : Ticking s (t.fallbackRun before) := by
  unfold State.fallbackRun
  dsimp only
  exact .ite h (Ticking.fallbackGo (.ite h.ticked h))

/-- Outside RUN no fallback begins. -/
theorem State.fallbackGo_rest (h : s.inRun = false) : s.fallbackGo = s := by
  unfold State.fallbackGo
  rw [if_neg (by rw [h]; simp)]

theorem State.fallbackRun_rest (before : State) (h : s.inRun = false) : s.fallbackRun before = s := by
  unfold State.fallbackRun
  dsimp only
  rw [h, Bool.and_false, Bool.false_and, if_neg Bool.false_ne_true, State.fallbackGo_rest h, ite_self]

end Sys2Proof.Machine
end

/-! PROOFS. O46: what a domain's coming on starts leaves the guarded pages (R352, Table 17-1). -/
section
-- One theorem after the other: the default proofs of the side conditions below are run by the elaborator, which waits for all that stands before.
set_option Elab.async false
namespace Sys2Proof.Machine

variable {b : Bool} {s t u : State}

/-! ## PLLs -/

theorem Calm.clkSet (h : Calm b s t) {c : RowClk} : Calm b s { t with clk := c } := h.same

theorem Calm.calSet (h : Calm b s t) {c : Calib} : Calm b s { t with cal := c } := h.same

theorem Calm.gateSet (h : Calm b s t) {i : Nat} {on : Bool} : Calm b s (t.gateSet i on) := h.same

theorem Calm.pllShow (h : Calm b s t) {i : Nat} (hi : i < 6) : Calm b s (t.pllShow i) := by
  have hreg (v : State) (f : Fld) (n : Nat) (hv : Calm b s v) (hf : f.reg = 0x18104 + 0x10 * i ∨ f.reg = 0x18108 + 0x10 * i) : Calm b s (v.put f n) :=
    hv.put (by obtain hf | hf := hf <;> rw [hf] <;> exact not_paged (by omega))
  exact hreg _ _ _ (hreg _ _ _ h (.inr rfl)) (.inl rfl)

theorem Calm.pllTune (h : Calm b s t) {i : Nat} {u : State} (k : Calm b s u) (hi : i < 6) : Calm b s (t.pllTune i u) := by
  have hstat (v : State) (f : Fld) (n : Nat) (hv : Calm b s v) (hf : f.reg = 0x18104 + 0x10 * i) : Calm b s (v.put f n) :=
    hv.put (by rw [hf]; exact not_paged (by omega))
  unfold State.pllTune
  dsimp only
  split
  · exact (hstat _ _ _ h rfl).raise
  · exact Calm.pllShow (Calm.clkSet (hstat _ _ _ (hstat _ _ _ (hstat _ _ _ (hstat _ _ _ k rfl) rfl) rfl) rfl)) hi

theorem pllEn_notPaged {i : Nat} (hi : i < 6) : paged (pllEn i).reg = false := by
  rw [pllEn_eq]
  exact not_paged (by dsimp only; omega)

theorem Calm.pllStart (h : Calm b s t) {i : Nat} (hi : i < 6) : Calm b s (t.pllStart i) := by
  have hen : Calm b s (t.put (pllEn i) 1) := h.put (pllEn_notPaged hi)
  exact hen.pllTune hen.gateSet hi

theorem Calm.rowStart (h : Calm b s t) : Calm b s t.rowStart := by
  have hput := (((h.put (f := R.RDO_STAT_N_TICK) (v := 0)).put (f := R.PLLi_STAT_HOP 1) (v := 0)).put (f := R.PLLi_STAT_HOLD 1) (v := 0)).put
    (f := R.ROW_STAT_HOLD_Q) (v := 0)
  unfold State.rowStart
  dsimp only
  generalize (((t.put R.RDO_STAT_N_TICK 0).put (R.PLLi_STAT_HOP 1) 0).put (R.PLLi_STAT_HOLD 1) 0).put R.ROW_STAT_HOLD_Q 0 = v at hput ⊢
  have hclk : Calm b s { v with clk := { v.clk with hopping := false, timedOut := false } } := hput.clkSet
  have hen : Calm b s (State.put { v with clk := { v.clk with hopping := false, timedOut := false } } (pllEn 1) 1) := hclk.put (pllEn_notPaged (by decide))
  generalize State.put { v with clk := { v.clk with hopping := false, timedOut := false } } (pllEn 1) 1 = w at hen ⊢
  have hgate : Calm b s ((w.gateSet 1 false).put R.ROW_STAT_P t.rowP) := hen.gateSet.put
  exact hen.pllTune hgate.clkSet (by decide)

theorem Calm.loadBands (h : Calm b s t) {i : Nat} (hi : i < 6) : Calm b s (t.loadBands i) := by
  unfold State.loadBands
  refine Calm.foldl _ h fun u k hk hu => hu.setReg ?_
  have hk16 := List.mem_range.mp hk
  simp only [R.BANDi_e_W0_VCO_LO]
  exact not_paged (by omega)

/-! ## Ports -/

theorem Calm.setTaps (h : Calm b s t) {p k pre post : Nat} (hp : p < 3) (hk : k < 8) : Calm b s (t.setTaps p k pre post) := by
  have hreg (v : State) (f : Fld) (n : Nat) (hv : Calm b s v) (hf : f.reg = (R.RP_LANEk_TAPS_PRE_ACT p k).reg) : Calm b s (v.put f n) :=
    hv.put (by rw [hf]; simp only [R.RP_LANEk_TAPS_PRE_ACT]; exact not_paged (by omega))
  exact hreg _ _ _ (hreg _ _ _ (hreg _ _ _ h rfl) rfl) rfl

theorem Calm.laneStart (h : Calm b s t) {again : Bool} {p k : Nat} (hp : p < 3) (hk : k < 8) : Calm b s (t.laneStart again p k) := by
  have hput (x : Port) : Calm b s ((t.setPort p x).put (R.RP_LANEk_STAT_STATE p k) 1) :=
    Calm.put h.setPort (by simp only [R.RP_LANEk_STAT_STATE]; exact not_paged (by omega))
  unfold State.laneStart
  dsimp only
  split
  · exact (hput _).setTaps hp hk
  · exact (hput _).setTaps hp hk

theorem Calm.setRate (h : Calm b s t) {p r : Nat} (hp : p < 3) : Calm b s (t.setRate p r) := by
  have hput : Calm b s (t.put (R.RP_STAT_RATE_ACT p) r) := h.put (by simp only [R.RP_STAT_RATE_ACT]; exact not_paged (by omega))
  exact .ite h (.ite (hput.pllStart (by omega)) hput)

theorem Calm.setAct (h : Calm b s t) {a : Nat} {v : Word} : Calm b s (t.setAct a v) := h.same

theorem Calm.portTrain (h : Calm b s t) {again : Bool} {p : Nat} (hp : p < 3) : Calm b s (t.portTrain again p) := by
  unfold State.portTrain
  dsimp only
  refine .ite (h.setPortState hp) (Calm.foldl _ (Calm.setPortState (.ite ?_ ?_) hp) fun u k hk hu => hu.laneStart hp (List.mem_range.mp hk))
  · exact Calm.setRate (Calm.setAct h.setPort) hp
  · exact Calm.setAct h.setPort

/-! ## Domains on -/

theorem Calm.passFirst (h : Calm b s t) : Calm b s t.passFirst := .ite h h.put

/-- What the supervisor shows, and starts with. -/
def State.supervised (s : State) : State :=
  let s2 := s.put R.CAL_STAT_FUSE_BAD (boolNat (!s.fuseOk))
  let s3 := s2.put64 R.NVS_SERIAL_LO_SERIAL R.NVS_SERIAL_HI_SERIAL s2.serial
  { s3 with cal := { s3.cal with tickPh := s3.tickPhase, driftAt := s3.now } }

theorem Calm.supervised (h : Calm b s t) : Calm b s t.supervised := by
  have hshow : Calm b s ((t.put R.CAL_STAT_FUSE_BAD (boolNat (!t.fuseOk))).put64 R.NVS_SERIAL_LO_SERIAL R.NVS_SERIAL_HI_SERIAL
      (t.put R.CAL_STAT_FUSE_BAD (boolNat (!t.fuseOk))).serial) := h.put.put64
  unfold State.supervised
  exact hshow.calSet

theorem State.domStarted_supv : s.domStarted dSUPV = [2, 3, 4, 5].foldl State.pllStart ((List.range 6).foldl State.loadBands s).supervised.rowStart := rfl

theorem Calm.domStarted (h : Calm b s t) {d : Nat} : Calm b s (t.domStarted d) := by
  by_cases hsupv : d = dSUPV
  · rw [hsupv, State.domStarted_supv]
    have hbands : Calm b s ((List.range 6).foldl State.loadBands t) := .foldl _ h fun u i hi hu => hu.loadBands (List.mem_range.mp hi)
    have hlt : ∀ i ∈ [2, 3, 4, 5], i < 6 := by decide
    exact .foldl _ hbands.supervised.rowStart fun u i hi hu => hu.pllStart (hlt i hi)
  unfold State.domStarted
  rw [if_neg hsupv]
  dsimp only
  split
  · exact Calm.pllStart (Calm.loadBands h.same (by decide)) (by decide)
  split
  · exact h.put
  split
  · exact .ite h h.passFirst
  split
  · exact h.sensorShow
  split
  · next hp => exact h.portTrain (by simp only [Bool.and_eq_true, decide_eq_true_eq] at hp; omega)
  split
  · exact Calm.put h.same
  · exact h

end Sys2Proof.Machine
end

/-! PROOFS. O46: the source and the power domains (R346, R348, R352). -/
section
-- One theorem after the other: the default proofs of the side conditions below are run by the elaborator, which waits for all that stands before.
set_option Elab.async false
namespace Sys2Proof.Machine

variable {b : Bool} {s t u : State} {fs : List Fld}

/-! ## The source -/

theorem srcChanged_shown (ohms : Nat) (hoff : s.pwr.off = false) (hsrc : srcOfOhms ohms ≠ s.pwr.srcPin) : goesOn (exec (.srcChanged ohms) s) fun t =>
    t.pwr.srcPin = srcOfOhms ohms ∧ t.get R.PWR_STAT_SRC_CHANGED = 1 ∧ t.get R.PWR_STAT_SRC = s.get R.PWR_STAT_SRC ∧
    told s t E.PWR_SRC_CHANGED ∧ only s t (R.PWR_STAT_SRC_CHANGED.reg :: toldRegs E.PWR_SRC_CHANGED) := by
  have hexec : exec (.srcChanged ohms) s =
      .next ((State.put { s with pwr := { s.pwr with srcPin := srcOfOhms ohms } } R.PWR_STAT_SRC_CHANGED 1).raise E.PWR_SRC_CHANGED) := by
    show execSrcChanged ohms s = _
    unfold execSrcChanged
    exact if_neg (by simp [hoff, hsrc])
  refine ⟨_, hexec, ?_⟩
  have hget (g : Fld) : { s with pwr := { s.pwr with srcPin := srcOfOhms ohms } }.get g = s.get g := rfl
  have hpin : { s with pwr := { s.pwr with srcPin := srcOfOhms ohms } }.pwr.srcPin = srcOfOhms ohms := rfl
  have hsame : only s { s with pwr := { s.pwr with srcPin := srcOfOhms ohms } } (R.PWR_STAT_SRC_CHANGED.reg :: toldRegs E.PWR_SRC_CHANGED) :=
    only_of_eq rfl rfl rfl rfl rfl
  generalize ({ s with pwr := { s.pwr with srcPin := srcOfOhms ohms } } : State) = v at hget hpin hsame ⊢
  refine ⟨?_, ?_, ?_, ?_, only_trans hsame (only_trans (only_put _ List.mem_cons_self) (only_raise fun _ h => List.mem_cons_of_mem _ h))⟩
  · rw [State.raise_pwr, State.put_pwr, hpin]
  · exact (State.get_raise_clear (by decide)).trans (State.get_put_fits _ (by decide) (by decide))
  · exact (State.get_raise_clear (by decide)).trans ((State.get_put_off _ (by decide)).trans (hget _))
  · refine told_raise_of_cnt (by decide) fun b hb => ?_
    obtain rfl : 10 = b := Option.some.inj hb
    exact (State.get_put_off _ (by decide)).trans (hget _)

theorem inputReturn_shown (u : Nat) (hoff : s.pwr.off = false) (hq : s.pwr.qualified = false) (hsince : s.pwr.qualSince = none) :
    goesOn (exec (.inputReturn u) s) fun t => t.now = max s.now u ∧ t.pwr.qualSince = some t.now ∧
      t.get R.PWR_STAT_QUALIFYING = 1 ∧ only s t [R.PWR_STAT_QUALIFYING.reg] := by
  have hexec : exec (.inputReturn u) s =
      .next (State.put { s.at u with pwr := { s.pwr with qualSince := some (s.at u).now } } R.PWR_STAT_QUALIFYING 1) := by
    show Host.Outcome.next (s.inputReturn u) = _
    unfold State.inputReturn
    rw [if_neg (by simp [hoff, hq, hsince])]
    rfl
  refine ⟨_, hexec, ?_⟩
  have hnow : { s.at u with pwr := { s.pwr with qualSince := some (s.at u).now } }.now = max s.now u := rfl
  have hsame : only s { s.at u with pwr := { s.pwr with qualSince := some (s.at u).now } } [R.PWR_STAT_QUALIFYING.reg] := only_of_eq rfl rfl rfl rfl rfl
  have hpwr : { s.at u with pwr := { s.pwr with qualSince := some (s.at u).now } }.pwr.qualSince =
    some { s.at u with pwr := { s.pwr with qualSince := some (s.at u).now } }.now := rfl
  generalize ({ s.at u with pwr := { s.pwr with qualSince := some (s.at u).now } } : State) = v at hnow hpwr hsame ⊢
  exact ⟨(State.put_now ..).trans hnow, by rw [State.put_pwr, State.put_now, hpwr], State.get_put_fits _ (by decide) (by decide),
    only_trans hsame (only_put _ List.mem_cons_self)⟩

theorem inputExcursion_shown (u v : Nat) (hoff : s.pwr.off = false) (hsince : s.pwr.qualSince = some v) :
    goesOn (exec (.inputExcursion u) s) fun t => t.pwr.qualSince = none ∧ t.get R.PWR_STAT_QUALIFYING = 0 ∧ told s t E.PWR_QUAL_RESTART ∧
      only s t (R.PWR_STAT_QUALIFYING.reg :: toldRegs E.PWR_QUAL_RESTART) := by
  have hexec : exec (.inputExcursion u) s =
      .next ((State.put { s.at u with pwr := { s.pwr with qualSince := none } } R.PWR_STAT_QUALIFYING 0).raise E.PWR_QUAL_RESTART) := by
    show Host.Outcome.next (s.inputExcursion u) = _
    unfold State.inputExcursion
    rw [if_neg (by simp [hoff, hsince])]
    rfl
  refine ⟨_, hexec, ?_⟩
  have hget (g : Fld) : { s.at u with pwr := { s.pwr with qualSince := none } }.get g = s.get g := rfl
  have hsame : only s { s.at u with pwr := { s.pwr with qualSince := none } } (R.PWR_STAT_QUALIFYING.reg :: toldRegs E.PWR_QUAL_RESTART) :=
    only_of_eq rfl rfl rfl rfl rfl
  have hpwr : { s.at u with pwr := { s.pwr with qualSince := none } }.pwr.qualSince = none := rfl
  generalize ({ s.at u with pwr := { s.pwr with qualSince := none } } : State) = w at hget hpwr hsame ⊢
  refine ⟨?_, ?_, ?_, only_trans hsame (only_trans (only_put _ List.mem_cons_self) (only_raise fun _ h => List.mem_cons_of_mem _ h))⟩
  · rw [State.raise_pwr, State.put_pwr, hpwr]
  · exact (State.get_raise_clear (by decide)).trans (State.get_put_fits _ (by decide) (by decide))
  · refine told_raise_of_cnt (by decide) fun b hb => ?_
    obtain rfl : 2 = b := Option.some.inj hb
    exact (State.get_put_off _ (by decide)).trans (hget _)

/-- The source has qualified. -/
def State.qualifiedAt (s : State) (n : Nat) : State :=
  State.put { s.at n with pwr := { s.pwr with qualSince := none, qualified := true } } R.PWR_STAT_QUALIFYING 0

theorem State.qualifiedAt_shows (n : Nat) : (s.qualifiedAt n).pwr = { s.pwr with qualSince := none, qualified := true } ∧
    (s.qualifiedAt n).now = max s.now n ∧ (s.qualifiedAt n).get R.PWR_STAT_QUALIFYING = 0 ∧
    ∀ g : Fld, g.off R.PWR_STAT_QUALIFYING = true → (s.qualifiedAt n).get g = s.get g := by
  have hget (g : Fld) : { s.at n with pwr := { s.pwr with qualSince := none, qualified := true } }.get g = s.get g := rfl
  have hpwr : { s.at n with pwr := { s.pwr with qualSince := none, qualified := true } }.pwr = { s.pwr with qualSince := none, qualified := true } := rfl
  have hnow : { s.at n with pwr := { s.pwr with qualSince := none, qualified := true } }.now = max s.now n := rfl
  unfold State.qualifiedAt
  generalize ({ s.at n with pwr := { s.pwr with qualSince := none, qualified := true } } : State) = v at hget hpwr hnow ⊢
  exact ⟨(State.put_pwr ..).trans hpwr, (State.put_now ..).trans hnow, State.get_put_fits _ (by decide) (by decide),
    fun g hg => (State.get_put_off _ hg).trans (hget g)⟩

/-- The start-up sequence goes on. -/
def State.startGoes (s : State) : State := { s with pwr := { s.pwr with started := true }, sys := { s.sys with startAt := s.now } }

theorem State.startGoes_shows : s.startGoes.pwr = { s.pwr with started := true } ∧ s.startGoes.now = s.now ∧ ∀ g, s.startGoes.get g = s.get g :=
  ⟨rfl, rfl, fun _ => rfl⟩

theorem sourceQualified_shown (u v : Nat) (hsince : s.pwr.qualSince = some v) (hstarting : s.on R.SYS_STAT_STARTING = true)
    (hstarted : s.pwr.started = false) (hpower : s.power = pIDLE) : goesOn (exec (.sourceQualified u) s) fun t =>
      t.pwr.qualified = true ∧ t.pwr.qualSince = none ∧ t.pwr.started = true ∧ t.get R.PWR_STAT_QUALIFYING = 0 ∧
      t.get R.PWR_STAT_SRC = s.pwr.srcPin % 4 ∧ t.now = max (max s.now u) (v + 100 * msClk) := by
  obtain ⟨hpwr, hnow, hzero, hget⟩ := State.qualifiedAt_shows (s := s.at u) (v + 100 * msClk)
  have hon : ((s.at u).qualifiedAt (v + 100 * msClk)).on R.SYS_STAT_STARTING = true := (State.on_of_get (hget _ (by decide))).trans hstarting
  have hidle : ((s.at u).qualifiedAt (v + 100 * msClk)).power = pIDLE := (hget _ (by decide)).trans hpower
  have hnot : ((s.at u).qualifiedAt (v + 100 * msClk)).pwr.started = false := by rw [hpwr]; exact hstarted
  have hexec : exec (.sourceQualified u) s = .next (((s.at u).qualifiedAt (v + 100 * msClk)).startGoes.sampleSrc.chargeGo) := by
    show Host.Outcome.next (s.sourceQualified u) = _
    unfold State.sourceQualified
    rw [hsince]
    exact congrArg _ (if_pos (by rw [Bool.and_eq_true, Bool.and_eq_true, decide_eq_true_eq]; exact ⟨⟨hon, by rw [Bool.not_eq_true']; exact hnot⟩, hidle⟩))
  refine ⟨_, hexec, ?_⟩
  have hatPwr : (s.at u).pwr = s.pwr := rfl
  have hatNow : (s.at u).now = max s.now u := rfl
  rw [hatPwr] at hpwr
  rw [hatNow] at hnow
  generalize (s.at u).qualifiedAt (v + 100 * msClk) = w at hpwr hnow hzero ⊢
  obtain ⟨hgoPwr, hgoNow, hgoGet⟩ := w.startGoes_shows
  generalize w.startGoes = x at hgoPwr hgoNow hgoGet ⊢
  obtain ⟨hsample, hsrc, -⟩ := x.sampleSrc_shows
  generalize x.sampleSrc = y at hsample hsrc ⊢
  have hgo : Shown chargeFields y y.chargeGo := Shown.refl.chargeGo
  generalize y.chargeGo = z at hgo ⊢
  refine ⟨?_, ?_, ?_, ?_, ?_, ?_⟩
  · rw [hgo.pwrOf Power.qualified, hsample.pwrOf Power.qualified, hgoPwr, hpwr]
  · rw [hgo.pwrOf Power.qualSince, hsample.pwrOf Power.qualSince, hgoPwr, hpwr]
  · rw [hgo.pwrOf Power.started, hsample.pwrOf Power.started, hgoPwr]
  · rw [hgo.get, hsample.get, hgoGet, hzero]
  · rw [hgo.get, hsrc, hgoPwr, hpwr]
  · rw [hgo.now, hsample.now, hgoNow, hnow]

/-! ## Domains on -/

theorem domOrder_lt : ∀ d ∈ domOrder, d < 25 := by decide

/-- The bit of a domain that comes on. -/
theorem State.dom_put_same {d v : Nat} (hd : d < 25) (hv : v < 2) : (s.put ⟨R.PWR_DOM_STAT_ON.reg, d, 1⟩ v).dom d = decide (v ≠ 0) := by
  rw [State.dom_eq_on hd, State.on, s.get_put_fits (by dsimp only; omega) hv]

theorem State.domBegin_shows (n : Nat) : (s.domBegin n).pwr = { s.pwr with lastOn := some (s.domBegin n).now } ∧
    (s.domBegin n).now = max s.now (match s.pwr.lastOn with | none => n | some v => max n (v + 50 * usClk)) ∧
    ∀ g, (s.domBegin n).get g = s.get g := by
  unfold State.domBegin
  cases s.pwr.lastOn <;> exact ⟨rfl, rfl, fun _ => rfl⟩

theorem State.domStarted_array : s.domStarted dARRAY = s.sensorShow := by
  unfold State.domStarted
  rw [if_neg (by decide), if_neg (by decide), if_neg (by decide), if_neg (by decide), if_pos rfl]

/-- Outside RUN the sensor is shown off. -/
theorem State.sensorShow_off (h : s.inRun = false) : s.sensorShow.get R.EXP_STAT_SENSOR_ON = 0 := by
  unfold State.sensorShow
  rw [h, Bool.false_and]
  exact State.get_put_fits _ (by decide) (by decide)

theorem State.inRun_of_idle (h : s.power = pIDLE) : s.inRun = false := by
  rw [State.inRun, h]
  rfl

theorem domainOn_shown (u d : Nat) (hoff : s.pwr.off = false) (hnext : s.domNext = some d) : goesOn (exec (.domainOn u) s) fun t =>
      t.dom d = true ∧ t.pwr.lastOn = some t.now ∧
      t.now = max s.now (match s.pwr.lastOn with | none => u | some v => max u (v + 50 * usClk)) ∧
      (d = dARRAY → s.isIdle = true → t.power = pIDLE ∧ t.pwr.held = s.pwr.held ∧ t.get R.EXP_STAT_SENSOR_ON = 0) := by
  have hd : d < 25 := domOrder_lt d (List.mem_of_find?_eq_some hnext)
  have hexec : exec (.domainOn u) s = .next (if d = dCLK then
      (s.domBegin u).settleFrom (((s.domBegin u).put ⟨R.PWR_DOM_STAT_ON.reg, d, 1⟩ 1).domStarted d)
      else ((s.domBegin u).put ⟨R.PWR_DOM_STAT_ON.reg, d, 1⟩ 1).domStarted d) := by
    show execDomainOn u s = _
    unfold execDomainOn State.domainOn
    rw [if_neg (by rw [hoff]; exact Bool.false_ne_true), hnext]
  refine ⟨_, hexec, ?_⟩
  obtain ⟨hpwr, hnow, hget⟩ := s.domBegin_shows u
  rw [← hnow]
  generalize s.domBegin u = v at hpwr hget ⊢
  have hput : (v.put ⟨R.PWR_DOM_STAT_ON.reg, d, 1⟩ 1).dom d = true := State.dom_put_same hd (by decide)
  have hputNow : (v.put ⟨R.PWR_DOM_STAT_ON.reg, d, 1⟩ 1).now = v.now := State.put_now ..
  have hputPwr : (v.put ⟨R.PWR_DOM_STAT_ON.reg, d, 1⟩ 1).pwr = v.pwr := State.put_pwr ..
  have hputPower : (v.put ⟨R.PWR_DOM_STAT_ON.reg, d, 1⟩ 1).power = s.power := by
    rw [State.power, v.get_put_reg (f := ⟨R.PWR_DOM_STAT_ON.reg, d, 1⟩) (g := R.PWR_STAT_STATE) _ (show R.PWR_STAT_STATE.reg ≠ R.PWR_DOM_STAT_ON.reg by decide), hget, State.power]
  generalize v.put ⟨R.PWR_DOM_STAT_ON.reg, d, 1⟩ 1 = w at hput hputNow hputPwr hputPower ⊢
  have hstart : Calm true w (w.domStarted d) := Calm.refl.domStarted
  have hall : Calm true w (if d = dCLK then v.settleFrom (w.domStarted d) else w.domStarted d) := .ite (hstart.settleFrom v) hstart
  have hpwrAll := hall.pwr.trans (hputPwr.trans hpwr)
  refine ⟨(hall.dom d).trans hput, ?_, hall.now.trans hputNow, fun harray hidle => ⟨?_, ?_, ?_⟩⟩
  · rw [hpwrAll, hall.now, hputNow]
  · have hsame : State.power (if d = dCLK then v.settleFrom (w.domStarted d) else w.domStarted d) = w.power := hall.get (f := R.PWR_STAT_STATE) (by decide)
    rw [hsame, hputPower]
    exact (Bool.and_eq_true_iff.mp hidle).1 |> of_decide_eq_true
  · rw [hpwrAll]
  · have hidleP : s.power = pIDLE := of_decide_eq_true (Bool.and_eq_true_iff.mp hidle).1
    rw [harray, if_neg (by decide), State.domStarted_array]
    exact State.sensorShow_off (State.inRun_of_idle (hputPower.trans hidleP))

/-! ## A domain that misses its regulation -/

theorem State.selfFail_frame (i : Nat) : (s.selfFail i).pwr = s.pwr ∧ (s.selfFail i).now = s.now := by
  have hclass (v : State) : v.selfClass.pwr = v.pwr ∧ v.selfClass.now = v.now := by
    unfold State.selfClass
    dsimp only
    split
    · exact ⟨by rw [State.raise_pwr, State.put_pwr, State.put_pwr], by rw [State.raise_now, State.put_now, State.put_now]⟩
    · exact ⟨State.put_pwr .., State.put_now ..⟩
  exact ⟨(hclass _).1.trans (State.put_pwr ..), (hclass _).2.trans (State.put_now ..)⟩

theorem State.domFailed_shows (d : Nat) : (∀ e, (s.domFailed d).dom e = s.dom e) ∧ (s.domFailed d).pwr.failed.contains d = true ∧
    (s.domFailed d).on ⟨R.SYS_SELFTEST_FAIL.reg, if (6 ≤ d && d < 18) || 21 ≤ d then 3 else 2, 1⟩ = true ∧ (s.domFailed d).now = s.now := by
  have hdom (e : Nat) : { s with pwr := { s.pwr with failed := setAdd s.pwr.failed d } }.dom e = s.dom e := rfl
  have hfailed : { s with pwr := { s.pwr with failed := setAdd s.pwr.failed d } }.pwr.failed = setAdd s.pwr.failed d := rfl
  have hnow : { s with pwr := { s.pwr with failed := setAdd s.pwr.failed d } }.now = s.now := rfl
  unfold State.domFailed
  dsimp only
  generalize ({ s with pwr := { s.pwr with failed := setAdd s.pwr.failed d } } : State) = v at hdom hfailed hnow ⊢
  have hitem : (if (decide (6 ≤ d) && decide (d < 18) || decide (21 ≤ d)) = true then 3 else 2) < 14 := by split <;> decide
  generalize (if (decide (6 ≤ d) && decide (d < 18) || decide (21 ≤ d)) = true then 3 else 2) = i at hitem ⊢
  obtain ⟨hpwr, htime⟩ := v.selfFail_frame i
  refine ⟨fun e => ?_, ?_, State.selfFail_on _ hitem, htime.trans hnow⟩
  · rw [← hdom e, State.dom, State.get_of_only (v.selfFail_only i) (by decide), State.dom]
  · rw [hpwr, hfailed]
    exact List.contains_iff_mem.2 (mem_setAdd _ _)

theorem domRegTimeout_on (d : Fin 25) (hon : s.dom d.val = true) (haon : d.val ≠ dAON) : goesOn (exec (.domainRegTimeout d) s) fun t =>
    t.dom d.val = false ∧ t.pwr.failed.contains d.val = true ∧
    t.on ⟨R.SYS_SELFTEST_FAIL.reg, if (6 ≤ d.val && d.val < 18) || 21 ≤ d.val then 3 else 2, 1⟩ = true := by
  have hexec : exec (.domainRegTimeout d) s =
      .next ((s.domsOff (domOrder.reverse.filter fun e => e = d.val || needs e d.val)).domFailed d.val).fallbackGo := by
    show execDomainRegTimeout d s = _
    unfold execDomainRegTimeout State.domRegTimeout
    rw [if_neg haon, if_pos hon]
  refine ⟨_, hexec, ?_⟩
  have hmem : d.val ∈ domOrder.reverse.filter fun e => e = d.val || needs e d.val := by
    have hall : ∀ d < 25, d ∈ domOrder := by decide
    rw [List.mem_filter, List.mem_reverse]
    exact ⟨hall _ d.isLt, by rw [decide_eq_true rfl, Bool.true_or]⟩
  have hoff : (s.domsOff (domOrder.reverse.filter fun e => e = d.val || needs e d.val)).dom d.val = false := by
    rw [State.dom_domsOff (fun e he => domOrder_lt e (List.mem_reverse.mp (List.mem_filter.mp he).1)) d.isLt, decide_eq_false (not_not_intro hmem),
      Bool.and_false]
  generalize s.domsOff (domOrder.reverse.filter fun e => e = d.val || needs e d.val) = v at hoff ⊢
  obtain ⟨hdom, hfailed, hitem, -⟩ := v.domFailed_shows d.val
  generalize v.domFailed d.val = w at hdom hfailed hitem ⊢
  have hgo : Ticking w w.fallbackGo := Ticking.refl.fallbackGo
  obtain ⟨-, -, hpwr, -⟩ := hgo.fields
  exact ⟨(hgo.dom _).trans ((hdom _).trans hoff), by rw [hpwr, hfailed], (State.on_of_get (hgo.get (f := ⟨R.SYS_SELFTEST_FAIL.reg, _, 1⟩) (show paged R.SYS_SELFTEST_FAIL.reg = true by decide))).trans hitem⟩

theorem domRegTimeout_next (d : Fin 25) (haon : d.val ≠ dAON) (hnext : s.domNext = some d.val) : goesOn (exec (.domainRegTimeout d) s) fun t =>
    t.dom d.val = false ∧ t.pwr.failed.contains d.val = true ∧
    t.on ⟨R.SYS_SELFTEST_FAIL.reg, if (6 ≤ d.val && d.val < 18) || 21 ≤ d.val then 3 else 2, 1⟩ = true ∧
    t.now = (match s.pwr.lastOn with | none => s.now | some v => max s.now (v + 50 * usClk)) + 2 * msClk := by
  have hoff : s.dom d.val = false := by
    have hwanted := List.find?_some hnext
    simp only [Bool.and_eq_true, Bool.not_eq_true'] at hwanted
    exact hwanted.1.1.2
  have hexec : exec (.domainRegTimeout d) s =
      .next (((s.domBegin s.now).at ((s.domBegin s.now).now + 2 * msClk)).domFailed d.val).fallbackGo := by
    show execDomainRegTimeout d s = _
    unfold execDomainRegTimeout State.domRegTimeout
    rw [if_neg haon, if_neg (by rw [hoff]; exact Bool.false_ne_true), if_pos hnext]
  refine ⟨_, hexec, ?_⟩
  obtain ⟨-, hnow, hget⟩ := s.domBegin_shows s.now
  have htime : (s.domBegin s.now).now = match s.pwr.lastOn with | none => s.now | some v => max s.now (v + 50 * usClk) := by
    rw [hnow]
    cases s.pwr.lastOn with
    | none => exact Nat.max_self _
    | some v => exact max_eq_right (Nat.le_max_left _ _)
  rw [← htime]
  have hdomBegin : (s.domBegin s.now).dom d.val = false := by rw [State.dom, hget, ← State.dom, hoff]
  generalize s.domBegin s.now = v at hdomBegin ⊢
  have hatDom : (v.at (v.now + 2 * msClk)).dom d.val = v.dom d.val := rfl
  have hatNow : (v.at (v.now + 2 * msClk)).now = v.now + 2 * msClk := max_eq_right (Nat.le_add_right _ _)
  generalize v.at (v.now + 2 * msClk) = x at hatDom hatNow ⊢
  obtain ⟨hdom, hfailed, hitem, hfailNow⟩ := x.domFailed_shows d.val
  generalize x.domFailed d.val = w at hdom hfailed hitem hfailNow ⊢
  have hgo : Ticking w w.fallbackGo := Ticking.refl.fallbackGo
  obtain ⟨hgoNow, -, hpwr, -⟩ := hgo.fields
  exact ⟨(hgo.dom _).trans ((hdom _).trans (hatDom.trans hdomBegin)), by rw [hpwr, hfailed],
    (State.on_of_get (hgo.get (f := ⟨R.SYS_SELFTEST_FAIL.reg, _, 1⟩) (show paged R.SYS_SELFTEST_FAIL.reg = true by decide))).trans hitem, hgoNow.trans (hfailNow.trans hatNow)⟩

end Sys2Proof.Machine
end

/-! PROOFS. O46: requests of RUN and IDLE, and power as stated (R346–R352). -/
section
-- One theorem after the other: the default proofs of the side conditions below are run by the elaborator, which waits for all that stands before.
set_option Elab.async false
namespace Sys2Proof.Machine

variable {b : Bool} {s t u : State} {fs : List Fld}

/-! ## What allows RUN -/

/-- Where a source, its limits and the pack show as before, RUN is as admissible. -/
theorem Shown.runAdmissible (h : Shown fs s t)
    (hf : ([R.PWR_STAT_SRC, R.PWR_ILIM_ACT, R.PWR_HOLD_RESERVE, R.PACK_CHARGE_MAH, R.PWR_CHG_STAT_FAULT, R.PACK_V_V_REST, R.PACK_CHARGE_PRESENT,
      R.PACK_IT_T].all fun g => g.clear fs) = true := by decide) : t.runAdmissible = s.runAdmissible := by
  simp only [List.all_cons, List.all_nil, Bool.and_eq_true, Bool.and_true] at hf
  obtain ⟨hsrc, hilim, hreserve, hmah, hfault, hrest, hpresent, htemp⟩ := hf
  have huse : t.packUsable = s.packUsable := (h.samePack hpresent htemp).packUsable (h.get (by decide) hfault) (h.get (by decide) hrest)
  rw [State.runAdmissible, huse, h.get (g := R.PWR_STAT_SRC) (by decide) hsrc, h.get (g := R.PWR_ILIM_ACT) (by decide) hilim,
    h.get (g := R.PWR_HOLD_RESERVE) (by decide) hreserve, h.get (g := R.PACK_CHARGE_MAH) (by decide) hmah, State.runAdmissible]

/-- PWR_CTRL as it is written. -/
def State.requested (s : State) (v : Nat) : State := (s.put R.PWR_CTRL_REQ v).put R.PWR_CTRL_AUTO_WAKE (v / 16)

/-- What a write of PWR_CTRL leaves and shows. -/
structure Requested (s t : State) (v : Nat) : Prop where
  shown : Shown [R.PWR_CTRL_REQ, R.PWR_CTRL_AUTO_WAKE] s t
  req : t.get R.PWR_CTRL_REQ = v % 4
  only : only s t [R.PWR_CTRL_REQ.reg]
  rest : ∃ regs, t = { s with regs := regs }

theorem State.requested_shows (v : Nat) : Requested s (s.requested v) v :=
  ⟨Shown.refl.put.put, (State.get_put_off _ (by decide)).trans (s.get_put_same _ (by decide)),
    only_trans (only_put _ (by decide)) (only_put _ (by decide)), _, rfl⟩

section
variable {v : Nat} (h : Requested s t v)
include h

theorem Requested.power : t.power = s.power := h.shown.get (g := R.PWR_STAT_STATE)

theorem Requested.dom (d : Nat) : t.dom d = s.dom d := by
  rw [State.dom, State.get_of_only h.only (by decide), State.dom]

theorem Requested.isIdle : t.isIdle = s.isIdle := by rw [State.isIdle, h.power, h.shown.pwrOf Power.off, State.isIdle]

theorem Requested.runAllowed : t.runAllowed = s.runAllowed := by
  rw [State.runAllowed, h.shown.runAdmissible, h.shown.on, h.shown.on, State.runAllowed]

theorem Requested.reqState : t.reqState = if v % 4 = 1 then pRUN else if v % 4 = 2 then pSTANDBY else pIDLE := by
  rw [State.reqState, h.req]

end

/-! ## RUN from IDLE -/

theorem isIdle_iff : s.isIdle = true ↔ s.power = pIDLE ∧ s.pwr.off = false := by
  rw [State.isIdle, Bool.and_eq_true, decide_eq_true_eq, Bool.not_eq_true']

/-- A request for RUN from IDLE. -/
theorem State.tryMove_run (hidle : s.power = pIDLE) (hreq : s.reqState = pRUN) : s.tryMove =
    if !s.runAllowed then none else if s.dom dARRAY then some (s.accrue.setPower pRUN).passFirst else some s := by
  unfold State.tryMove
  rw [hreq, hidle]
  rfl

/-- A request that waits or has been taken. -/
def State.holdReq (s : State) (held : Bool) : State := { s with pwr := { s.pwr with held := held } }

theorem State.holdReq_shows (held : Bool) : (∀ g, (s.holdReq held).get g = s.get g) ∧ (s.holdReq held).pwr.held = held ∧
    (s.holdReq held).pwr.off = s.pwr.off ∧ (s.holdReq held).pwr.started = s.pwr.started ∧ (s.holdReq held).mem = s.mem ∧
    ∀ L, only s (s.holdReq held) L :=
  ⟨fun _ => rfl, rfl, rfl, rfl, rfl, fun _ => only_of_eq rfl rfl rfl rfl rfl⟩

theorem State.powerRequest_eq (v : Nat) (hoff : s.pwr.off = false) : s.powerRequest v = match (s.requested v).tryMove with
    | some x => x.holdReq (x.power ≠ x.reqState)
    | none => ((s.requested v).arrayRest.holdReq true).raise E.PWR_STATE_REFUSED := by
  unfold State.powerRequest
  rw [if_neg (by rw [hoff]; exact Bool.false_ne_true)]
  rfl

theorem powerRequest_waits (v : Word) (hidle : s.isIdle = true) (hreq : v.toNat % 4 = 1) (hallow : s.runAllowed = true)
    (hoff : s.dom dARRAY = false) (hstarted : s.pwr.started = true) : goesOn (exec (.powerRequest v) s) fun t =>
      t.power = pIDLE ∧ t.pwr.held = true ∧ t.domWanted dARRAY = true ∧
      t.get (intRawBit E.PWR_STATE_REFUSED) = s.get (intRawBit E.PWR_STATE_REFUSED) ∧ only s t [R.PWR_CTRL_REQ.reg] := by
  obtain ⟨hpower, hon⟩ := isIdle_iff.mp hidle
  have hexec : exec (.powerRequest v) s = .next ((s.powerRequest v.toNat).fallbackRun s) := rfl
  rw [hexec, State.powerRequest_eq _ hon]
  have hr := s.requested_shows v.toNat
  generalize s.requested v.toNat = x at hr ⊢
  have hxreq : x.reqState = pRUN := by rw [hr.reqState, if_pos hreq]
  have hxpower : x.power = pIDLE := hr.power.trans hpower
  rw [State.tryMove_run hxpower hxreq, if_neg (by rw [hr.runAllowed, hallow]; decide), if_neg (by rw [hr.dom, hoff]; exact Bool.false_ne_true)]
  dsimp only
  rw [show decide (x.power ≠ x.reqState) = true by rw [hxpower, hxreq]; rfl]
  obtain ⟨hget, hheld, hyoff, hystarted, -, honly⟩ := x.holdReq_shows true
  generalize hy : x.holdReq true = y at hget hheld hyoff hystarted honly ⊢
  have hypower : y.power = pIDLE := (hget _).trans hxpower
  rw [State.fallbackRun_rest s (State.inRun_of_idle hypower)]
  refine ⟨_, rfl, hypower, hheld, ?_, (hget _).trans ((State.get_of_only hr.only (by decide))), only_trans hr.only (honly _)⟩
  have hyidle : y.isIdle = true := isIdle_iff.mpr ⟨hypower, hyoff.trans ((hr.shown.pwrOf Power.off).trans hon)⟩
  have hyallow : y.runAllowed = true := by
    rw [← hy]
    exact hr.runAllowed.trans hallow
  have hyreq : y.reqState = pRUN := by rw [State.reqState, hget, ← State.reqState, hxreq]
  have hwant : y.domWanted dARRAY = (y.pwr.started && (y.inRun || (y.isIdle && y.pwr.held && y.reqState = pRUN && y.runAllowed))) := rfl
  rw [hwant, hystarted, hr.shown.pwrOf Power.started, hstarted, hyidle, hheld, hyreq, hyallow]
  simp

/-- RUN is entered. -/
theorem State.enterRun_shows : (s.accrue.setPower pRUN).passFirst.power = pRUN ∧ (s.accrue.setPower pRUN).passFirst.get R.PWR_CTRL_REQ = s.get R.PWR_CTRL_REQ ∧
    (s.accrue.setPower pRUN).passFirst.mem = s.mem := by
  have hacc (g : Fld) : s.accrue.get g = s.get g := rfl
  have haccMem : s.accrue.mem = s.mem := rfl
  generalize s.accrue = v at hacc haccMem ⊢
  obtain ⟨-, -, -, -, -, hmem⟩ := v.setPower_frame pRUN
  have hpower : (v.setPower pRUN).power = pRUN := v.setPower_power (by decide)
  have hreq : (v.setPower pRUN).get R.PWR_CTRL_REQ = v.get R.PWR_CTRL_REQ := State.setPower_get (by decide)
  generalize v.setPower pRUN = w at hmem hpower hreq ⊢
  have hcalm : Calm true w w.passFirst := Calm.refl.passFirst
  refine ⟨(hcalm.get (f := R.PWR_STAT_STATE)).trans hpower, hcalm.get.trans (hreq.trans (hacc _)), ?_⟩
  unfold State.passFirst
  split
  · rw [hmem, haccMem]
  · rw [State.put_mem, hmem, haccMem]

/-- What remains where RUN is entered: RUN, and no request that waits. -/
theorem State.holdReq_run (hpower : s.power = pRUN) (hreq : s.reqState = pRUN) (x : State) :
    ((s.holdReq (s.power ≠ s.reqState)).fallbackRun x).power = pRUN ∧ ((s.holdReq (s.power ≠ s.reqState)).fallbackRun x).pwr.held = false ∧
    ((s.holdReq (s.power ≠ s.reqState)).fallbackRun x).mem = s.mem := by
  rw [show decide (s.power ≠ s.reqState) = false by rw [hpower, hreq]; rfl]
  obtain ⟨hget, hheld, -, -, hmem, -⟩ := s.holdReq_shows false
  generalize s.holdReq false = y at hget hheld hmem ⊢
  have hgo : Ticking y (y.fallbackRun x) := Ticking.refl.fallbackRun x
  obtain ⟨-, hgoMem, hgoPwr, -⟩ := hgo.fields
  exact ⟨(hgo.get (f := R.PWR_STAT_STATE)).trans ((hget _).trans hpower), by rw [hgoPwr, hheld], hgoMem.trans hmem⟩

theorem powerRequest_run (v : Word) (hidle : s.isIdle = true) (hreq : v.toNat % 4 = 1) (hallow : s.runAllowed = true)
    (hdom : s.dom dARRAY = true) : goesOn (exec (.powerRequest v) s) fun t => t.power = pRUN ∧ t.pwr.held = false := by
  obtain ⟨hpower, hon⟩ := isIdle_iff.mp hidle
  have hexec : exec (.powerRequest v) s = .next ((s.powerRequest v.toNat).fallbackRun s) := rfl
  rw [hexec, State.powerRequest_eq _ hon]
  have hr := s.requested_shows v.toNat
  generalize s.requested v.toNat = x at hr ⊢
  have hxreq : x.reqState = pRUN := by rw [hr.reqState, if_pos hreq]
  rw [State.tryMove_run (hr.power.trans hpower) hxreq, if_neg (by rw [hr.runAllowed, hallow]; decide), if_pos ((hr.dom _).trans hdom)]
  dsimp only
  obtain ⟨hypower, hyreq, -⟩ := x.enterRun_shows
  generalize (x.accrue.setPower pRUN).passFirst = y at hypower hyreq ⊢
  obtain ⟨h1, h2, -⟩ := State.holdReq_run (s := y) hypower (by rw [State.reqState, hyreq, ← State.reqState, hxreq]) s
  exact ⟨_, rfl, h1, h2⟩

theorem powerTransition_run (hidle : s.isIdle = true) (hheld : s.pwr.held = true) (hreq : s.reqState = pRUN) (hallow : s.runAllowed = true)
    (hdom : s.dom dARRAY = true) : goesOn (exec .powerTransition s) fun t => t.power = pRUN ∧ t.pwr.held = false ∧ ∀ a, t.byte a = s.byte a := by
  obtain ⟨hpower, hon⟩ := isIdle_iff.mp hidle
  obtain ⟨hypower, hyreq, hmem⟩ := s.enterRun_shows
  have hexec : exec .powerTransition s = .next (State.fallbackRun ((s.accrue.setPower pRUN).passFirst.holdReq
      ((s.accrue.setPower pRUN).passFirst.power ≠ (s.accrue.setPower pRUN).passFirst.reqState)) s) := by
    show Host.Outcome.next (s.powerTransition.fallbackRun s) = _
    unfold State.powerTransition
    rw [if_neg (by simp [hon, hheld]), State.tryMove_run hpower hreq, if_neg (by rw [hallow]; decide), if_pos hdom]
    rfl
  refine ⟨_, hexec, ?_⟩
  generalize (s.accrue.setPower pRUN).passFirst = y at hypower hyreq hmem ⊢
  obtain ⟨h1, h2, h3⟩ := State.holdReq_run (s := y) hypower (by rw [State.reqState, hyreq, ← State.reqState, hreq]) s
  exact ⟨h1, h2, fun a => State.byte_of_mem (h3.trans hmem) a⟩

theorem powerRequest_refused (v : Word) (hidle : s.isIdle = true) (hreq : v.toNat % 4 = 1) (hallow : s.runAllowed = false) :
    goesOn (exec (.powerRequest v) s) fun t => t.power = pIDLE ∧ t.pwr.held = true ∧ told s t E.PWR_STATE_REFUSED ∧ ∀ a, t.byte a = s.byte a := by
  obtain ⟨hpower, hon⟩ := isIdle_iff.mp hidle
  have hexec : exec (.powerRequest v) s = .next ((s.powerRequest v.toNat).fallbackRun s) := rfl
  rw [hexec, State.powerRequest_eq _ hon]
  have hr := s.requested_shows v.toNat
  generalize s.requested v.toNat = x at hr ⊢
  have hxreq : x.reqState = pRUN := by rw [hr.reqState, if_pos hreq]
  have hrest : x.arrayRest = x := by
    unfold State.arrayRest
    rw [hxreq]
    simp
  rw [State.tryMove_run (hr.power.trans hpower) hxreq, if_pos (by rw [hr.runAllowed, hallow]; rfl)]
  dsimp only
  rw [hrest]
  obtain ⟨hget, hheld, -, -, hmem, -⟩ := x.holdReq_shows true
  generalize x.holdReq true = y at hget hheld hmem ⊢
  have hraise : Shown (toldFields E.PWR_STATE_REFUSED) y (y.raise E.PWR_STATE_REFUSED) := Shown.refl.raise
  have hend : (y.raise E.PWR_STATE_REFUSED).power = pIDLE := (hraise.get (g := R.PWR_STAT_STATE)).trans ((hget _).trans (hr.power.trans hpower))
  rw [State.fallbackRun_rest s (State.inRun_of_idle hend)]
  refine ⟨_, rfl, hend, ?_, ?_, fun a => ?_⟩
  · rw [State.raise_pwr, hheld]
  · refine told_raise_of_cnt (by decide) fun b hb => ?_
    obtain rfl : 3 = b := Option.some.inj hb
    exact (hget _).trans (State.get_of_only hr.only (by decide))
  · obtain ⟨regs, hx⟩ := hr.rest
    exact State.byte_of_mem (by rw [State.raise_mem, hmem, hx]) a

end Sys2Proof.Machine
end

/-! PROOFS. O46: RUN is left, and power as stated (R346–R352). -/
section
-- One theorem after the other: the default proofs of the side conditions below are run by the elaborator, which waits for all that stands before.
set_option Elab.async false
namespace Sys2Proof.Machine

variable {b : Bool} {s t u : State} {fs : List Fld}

/-! ## SENSOR_ON -/

theorem State.dropRegs_sensor {lost : Nat → Bool} (h : s.get R.EXP_STAT_SENSOR_ON = 0) : (s.dropRegs lost).get R.EXP_STAT_SENSOR_ON = 0 := by
  have hreg : (s.dropRegs lost).reg R.EXP_STAT_SENSOR_ON.reg =
      if (!lost R.EXP_STAT_SENSOR_ON.reg) = true then s.reg R.EXP_STAT_SENSOR_ON.reg else regReset R.EXP_STAT_SENSOR_ON.reg := by
    show mapGet _ (s.regs.filter fun p => !lost p.1) _ = _
    rw [mapGet, mapFind_filter fun a => !lost a]
    split
    · rfl
    · rfl
  rw [State.get, hreg]
  split
  · exact h
  · decide

/-- The sensor is off once ARRAY_DRV is. -/
theorem State.sensorShow_domOff (h : s.dom dARRAY = false) : s.sensorShow.get R.EXP_STAT_SENSOR_ON = 0 := by
  unfold State.sensorShow
  rw [h, Bool.and_false]
  exact State.get_put_fits _ (by decide) (by decide)

theorem State.lampLost_get {g : Fld} (hc : g.clear [R.LAMP_STAT_STATE, R.LAMP_STAT_SW_24V, R.LAMP_STAT_SIG, R.LAMP_STAT_CH_FAULT] = true) :
    s.lampLost.get g = s.get g := by
  have hoff := Fld.clear_iff.mp hc
  unfold State.lampLost
  rw [State.get_put_off _ (hoff _ (by decide)), State.get_put_off _ (hoff _ (by decide)), State.get_put_off _ (hoff _ (by decide)),
    State.get_put_off _ (hoff _ (by decide))]
  rfl

/-- Where the sensor is off, it stays off as a domain of RUN goes off. -/
theorem State.domOff_sensor {d : Nat} (hd : runDomain d) (h : s.get R.EXP_STAT_SENSOR_ON = 0) : (s.domOff d).get R.EXP_STAT_SENSOR_ON = 0 := by
  have hput : (s.put ⟨R.PWR_DOM_STAT_ON.reg, d, 1⟩ 0).get R.EXP_STAT_SENSOR_ON = 0 :=
    (s.get_put_reg (f := ⟨R.PWR_DOM_STAT_ON.reg, d, 1⟩) (g := R.EXP_STAT_SENSOR_ON) 0
      (show R.EXP_STAT_SENSOR_ON.reg ≠ R.PWR_DOM_STAT_ON.reg by decide)).trans h
  have hdrop : ((s.put ⟨R.PWR_DOM_STAT_ON.reg, d, 1⟩ 0).dropRegs (lostWith d)).get R.EXP_STAT_SENSOR_ON = 0 := State.dropRegs_sensor hput
  have hdom : d = dARRAY → (s.domOff d).dom dARRAY = false := by
    rintro rfl
    rw [State.dom_domOff (by decide) (by decide), decide_eq_false (not_not_intro rfl), Bool.and_false]
  unfold State.domOff at hdom ⊢
  dsimp only at hdom ⊢
  generalize (s.put ⟨R.PWR_DOM_STAT_ON.reg, d, 1⟩ 0).dropRegs (lostWith d) = u at hdrop hdom ⊢
  split
  · exact h
  · next hon =>
    rw [if_neg hon] at hdom
    obtain rfl | rfl | rfl | rfl := hd
    · exact (State.lampLost_get (by decide)).trans hdrop
    · have hoff := hdom rfl
      exact State.sensorShow_domOff ((Calm.sensorShow (b := true) .refl).dom dARRAY |>.symm.trans hoff)
    · exact hdrop
    · exact hdrop

/-! ## RUN is left -/

theorem State.domsOff_sensor {ds : List Nat} (hds : ∀ d ∈ ds, runDomain d) (h : s.get R.EXP_STAT_SENSOR_ON = 0) :
    (s.domsOff ds).get R.EXP_STAT_SENSOR_ON = 0 :=
  List.foldlRecOn (motive := fun u : State => u.get R.EXP_STAT_SENSOR_ON = 0) _ _ h fun _ hu d hd => State.domOff_sensor (hds d hd) hu

/-- What the power page shows ahead of RUN_OK. -/
def State.usableShow (s : State) : State := s.ilimShow.foldShow.put R.PACK_CHARGE_USABLE (boolNat s.ilimShow.foldShow.packUsable)

/-- RUN_OK and LOCKOUT are shown. -/
def State.runOkShow (s : State) : State :=
  (s.put R.PWR_STAT_RUN_OK (boolNat s.runAdmissible)).put R.PWR_STAT_LOCKOUT (boolNat (s.get R.PWR_STAT_SRC = 1))

theorem State.pwrShow_eq : s.pwrShow = if s.usableShow.runOkShow.isIdle && !s.usableShow.runAdmissible then
    s.usableShow.runOkShow.domsOff [dLAMP, dARRAY, dCONVS, dCONVN] else s.usableShow.runOkShow := by
  unfold State.pwrShow State.usableShow State.runOkShow
  dsimp only

theorem State.usableShow_shows : Shown showFields s s.usableShow ∧ ∀ g : Fld, g.clear showFields = true → s.usableShow.get g = s.get g := by
  refine ⟨Shown.put (Shown.foldShow (Shown.ilimShow .refl)), fun g hc => ?_⟩
  have hoff := Fld.clear_iff.mp hc
  have hilim : s.ilimShow.get g = s.get g := by
    unfold State.ilimShow
    exact (State.get_put_off _ (hoff _ (by decide))).trans (State.get_put_off _ (hoff _ (by decide)))
  have hfold (v : State) : v.foldShow.get g = v.get g := by
    have hput : ((v.put R.PWR_CHG_STAT_TEMP_PAUSE (boolNat v.tempPause)).put R.PWR_CHG_STAT_FOLDBACK
        (boolNat (v.tempPause || v.foldback < 800))).get g = v.get g :=
      (State.get_put_off _ (hoff _ (by decide))).trans (State.get_put_off _ (hoff _ (by decide)))
    unfold State.foldShow
    dsimp only
    split
    · exact (State.packSetI_get (Fld.clear_iff.mpr fun f hf => hoff f (List.mem_append_left _ hf))).trans hput
    · exact hput
  exact (State.get_put_off _ (hoff _ (by decide))).trans ((hfold _).trans hilim)

theorem State.runOkShow_get {g : Fld} (hc : g.clear [R.PWR_STAT_RUN_OK, R.PWR_STAT_LOCKOUT] = true) : s.runOkShow.get g = s.get g := by
  have hoff := Fld.clear_iff.mp hc
  exact (State.get_put_off _ (hoff _ (by decide))).trans (State.get_put_off _ (hoff _ (by decide)))

theorem runDomain_iff : ∀ d ∈ [dLAMP, dARRAY, dCONVS, dCONVN], runDomain d := by simp [runDomain]

/-- What showing the power page leaves off, and switches off in IDLE. -/
theorem State.pwrShow_idle (hidle : s.isIdle = true) (hsensor : s.get R.EXP_STAT_SENSOR_ON = 0) (hdom : s.dom dARRAY = false) :
    s.pwrShow.get R.EXP_STAT_SENSOR_ON = 0 ∧ s.pwrShow.dom dARRAY = false ∧
    (s.pwrShow.runAdmissible = false → s.pwrShow.dom dCONVN = false ∧ s.pwrShow.dom dCONVS = false ∧ s.pwrShow.dom dLAMP = false) := by
  obtain ⟨hpower, hon⟩ := isIdle_iff.mp hidle
  obtain ⟨hshown, hget⟩ := s.usableShow_shows
  rw [State.pwrShow_eq]
  generalize s.usableShow = v at hshown hget ⊢
  have hok : Shown [R.PWR_STAT_RUN_OK, R.PWR_STAT_LOCKOUT] v v.runOkShow := Shown.put (Shown.put .refl)
  have hokGet (g : Fld) (hc : g.clear [R.PWR_STAT_RUN_OK, R.PWR_STAT_LOCKOUT] = true) := v.runOkShow_get hc
  generalize v.runOkShow = w at hok hokGet ⊢
  have hwidle : w.isIdle = true := isIdle_iff.mpr ⟨(hok.get (g := R.PWR_STAT_STATE)).trans ((hshown.get (g := R.PWR_STAT_STATE)).trans hpower),
    (hok.pwrOf Power.off).trans ((hshown.pwrOf Power.off).trans hon)⟩
  have hwsensor : w.get R.EXP_STAT_SENSOR_ON = 0 := (hokGet _ (by decide)).trans ((hget _ (by decide)).trans hsensor)
  have hwdom : w.dom dARRAY = false := by rw [State.dom, hokGet _ (by decide), hget _ (by decide), ← State.dom, hdom]
  have hadm : w.runAdmissible = v.runAdmissible := hok.runAdmissible
  rw [hwidle, Bool.true_and]
  cases hrun : v.runAdmissible
  · rw [Bool.not_false, if_pos rfl]
    have hlt : ∀ d ∈ [dLAMP, dARRAY, dCONVS, dCONVN], d < 25 := by decide
    have hoff (d : Nat) (hd : d ∈ [dLAMP, dARRAY, dCONVS, dCONVN]) : (w.domsOff [dLAMP, dARRAY, dCONVS, dCONVN]).dom d = false := by
      rw [State.dom_domsOff hlt (hlt d hd), decide_eq_false (not_not_intro hd), Bool.and_false]
    exact ⟨State.domsOff_sensor runDomain_iff hwsensor, hoff _ (by decide), fun _ => ⟨hoff _ (by decide), hoff _ (by decide), hoff _ (by decide)⟩⟩
  · rw [Bool.not_true, if_neg Bool.false_ne_true]
    exact ⟨hwsensor, hwdom, fun h => absurd (h.symm.trans (hadm.trans hrun)) Bool.false_ne_true⟩

theorem pipeFlushed_of_regs {regs : SMap Word} : ({ s with regs := regs } : State).pipeFlushed = s.pipeFlushed := rfl

/-- A request for IDLE in RUN, with nothing in flight. -/
theorem State.tryMove_idle (hpower : s.power = pRUN) (hreq : s.reqState = pIDLE) (hjob : s.jobRunning = false) (hpipe : s.pipeFlushed = true) :
    s.tryMove = some (s.leaveRun.setPower pIDLE).pwrShow := by
  unfold State.tryMove
  rw [hreq, hpower, hjob, hpipe]
  rfl

theorem State.leaveRun_shows : Calm false s s.leaveRun ∧ s.leaveRun.dom dARRAY = false := by
  have hstop : Calm true s s.accrue.sensorStop := (Calm.accrue .refl).sensorStop
  unfold State.leaveRun
  generalize s.accrue.sensorStop = v at hstop ⊢
  refine ⟨hstop.weaken.domOff, ?_⟩
  rw [State.dom_domOff (by decide) (by decide), decide_eq_false (not_not_intro rfl), Bool.and_false]

theorem State.setPower_idle : (s.setPower pIDLE).get R.EXP_STAT_SENSOR_ON = 0 := by
  have hput : (s.put R.PWR_STAT_STATE pIDLE).power = pIDLE := State.get_put_fits _ (by decide) (by decide)
  obtain ⟨v, heq, hpower⟩ : ∃ v : State, s.setPower pIDLE = v.sensorShow ∧ v.power = (s.put R.PWR_STAT_STATE pIDLE).power := ⟨_, rfl, rfl⟩
  rw [heq]
  exact State.sensorShow_off (State.inRun_of_idle (hpower.trans hput))

theorem State.holdReq_runAdmissible {held : Bool} : (s.holdReq held).runAdmissible = s.runAdmissible := rfl

theorem State.holdReq_dom {held : Bool} {d : Nat} : (s.holdReq held).dom d = s.dom d := rfl

theorem powerRequest_idle (v : Word) (hrun : s.inRun = true) (hreq : v.toNat % 4 = 0) (hjob : s.jobRunning = false) (hpipe : s.pipeFlushed = true) :
    goesOn (exec (.powerRequest v) s) fun t => t.power = pIDLE ∧ t.dom dARRAY = false ∧ t.get R.EXP_STAT_SENSOR_ON = 0 ∧
      (t.runAdmissible = false → t.dom dCONVN = false ∧ t.dom dCONVS = false ∧ t.dom dLAMP = false) := by
  obtain ⟨hpower, hon⟩ : s.power = pRUN ∧ s.pwr.off = false := by simpa [State.inRun] using hrun
  have hexec : exec (.powerRequest v) s = .next (s.powerRequest v.toNat) := by
    have hback : (s.powerRequest v.toNat).fallbackRun s = s.powerRequest v.toNat := if_pos hrun
    exact congrArg Host.Outcome.next hback
  rw [hexec, State.powerRequest_eq _ hon]
  have hr := s.requested_shows v.toNat
  generalize s.requested v.toNat = x at hr ⊢
  obtain ⟨regs, hx⟩ := hr.rest
  have hxreq : x.reqState = pIDLE := by rw [hr.reqState, if_neg (by omega), if_neg (by omega)]
  have hxjob : x.jobRunning = false := by rw [hx]; exact hjob
  have hxpipe : x.pipeFlushed = true := by rw [hx, pipeFlushed_of_regs, hpipe]
  rw [State.tryMove_idle (hr.power.trans hpower) hxreq hxjob hxpipe]
  dsimp only
  have hxoff : x.pwr.off = false := (hr.shown.pwrOf Power.off).trans hon
  obtain ⟨hleave, hleaveDom⟩ := x.leaveRun_shows
  have hleaveOff : x.leaveRun.pwr.off = false := by rw [hleave.pwr, hxoff]
  generalize x.leaveRun = y at hleaveDom hleaveOff ⊢
  have hypower : (y.setPower pIDLE).power = pIDLE := y.setPower_power (by decide)
  have hyoff : (y.setPower pIDLE).pwr.off = false := by rw [(y.setPower_frame pIDLE).1, hleaveOff]
  have hysensor := y.setPower_idle
  have hydom : (y.setPower pIDLE).dom dARRAY = false := by rw [State.dom, State.setPower_get (by decide), ← State.dom, hleaveDom]
  generalize y.setPower pIDLE = w at hypower hyoff hysensor hydom ⊢
  obtain ⟨h1, h2, h3⟩ := State.pwrShow_idle (isIdle_iff.mpr ⟨hypower, hyoff⟩) hysensor hydom
  have hend : w.pwrShow.power = pIDLE := ((Shown.pwrShow (fs := showFields) .refl).get (g := R.PWR_STAT_STATE)).trans hypower
  generalize w.pwrShow = z at h1 h2 h3 hend ⊢
  generalize decide (z.power ≠ z.reqState) = held
  obtain ⟨hget, -⟩ := z.holdReq_shows held
  refine ⟨_, rfl, (hget _).trans hend, State.holdReq_dom.trans h2, (hget _).trans h1, fun h => ?_⟩
  rw [State.holdReq_dom, State.holdReq_dom, State.holdReq_dom]
  exact h3 (State.holdReq_runAdmissible.symm.trans h)

/-- Settles O46: one lemma per command: the source's changes and its qualification, the domains' switching on and their failures, the
requests of RUN and IDLE. -/
theorem sourceDomainsAndStates : Obligations.SourceDomainsAndStates := by
  unfold Obligations.SourceDomainsAndStates
  exact ⟨fun _ ohms hoff hsrc => srcChanged_shown ohms hoff hsrc, fun _ u d hoff hnext => domainOn_shown u d hoff hnext,
    fun _ d hon haon => domRegTimeout_on d hon haon, fun _ d haon hnext => domRegTimeout_next d haon hnext,
    fun _ v hidle hreq hallow hoff hstarted => powerRequest_waits v hidle hreq hallow hoff hstarted,
    fun _ v hidle hreq hallow hdom => powerRequest_run v hidle hreq hallow hdom, fun _ v hidle hreq hallow => powerRequest_refused v hidle hreq hallow,
    fun _ v hrun hreq hjob hpipe => powerRequest_idle v hrun hreq hjob hpipe,
    fun _ hidle hheld hreq hallow hdom => powerTransition_run hidle hheld hreq hallow hdom,
    fun _ u hoff hq hsince => inputReturn_shown u hoff hq hsince, fun _ u v hoff hsince => inputExcursion_shown u v hoff hsince,
    fun _ u v hsince hstarting hstarted hpower => sourceQualified_shown u v hsince hstarting hstarted hpower⟩

end Sys2Proof.Machine
end

/-! PROOFS. O56: the lamphouse's power, its requests and its signature (R380–R387, R427). -/
section
-- One theorem after the other: the default proofs of the side conditions below are run by the elaborator, which waits for all that stands before.
set_option Elab.async false
namespace Sys2Proof.Machine

variable {b : Bool} {s t u : State} {L : List Nat}

/-! ## The link's own state -/

theorem State.setLamp_only (l : Lamp) : only s (s.setLamp l) L := only_of_eq rfl rfl rfl rfl rfl

theorem State.setLamp_get (l : Lamp) (g : Fld) : (s.setLamp l).get g = s.get g := rfl

theorem State.setLamp_lamp (l : Lamp) : (s.setLamp l).lamp = l := rfl

/-! ## Power -/

/-- PWR rises: a trip and a missed regulation are forgotten. -/
def State.lampAsked (s : State) : State :=
  { s.setLamp { s.lamp with tripped := false } with pwr := { s.pwr with failed := setDel s.pwr.failed dLAMP } }

theorem State.lampAsked_shows : (∀ g, s.lampAsked.get g = s.get g) ∧ s.lampAsked.lamp = { s.lamp with tripped := false } ∧ only s s.lampAsked L :=
  ⟨fun _ => rfl, rfl, only_of_eq rfl rfl rfl rfl rfl⟩

theorem State.lampPwr_rises {v : Nat} (hserved : s.served 0x02A = true) (hold : s.get R.LAMP_CTRL_PWR = 0) (hv : v % 2 = 1) : s.lampPwrWrite v =
    if (s.put R.LAMP_CTRL_PWR v).lampAsked.domWanted dLAMP && (s.put R.LAMP_CTRL_PWR v).lampAsked.lampState = lpOFF then
      (s.put R.LAMP_CTRL_PWR v).lampAsked.put R.LAMP_STAT_STATE lpPOWERING
    else (s.put R.LAMP_CTRL_PWR v).lampAsked := by
  have hnew : (s.put R.LAMP_CTRL_PWR v).get R.LAMP_CTRL_PWR = 1 := (s.get_put_same _ (by decide)).trans hv
  unfold State.lampPwrWrite
  rw [if_neg (by rw [hserved]; decide)]
  dsimp only
  rw [hold, hnew, if_pos (by decide)]
  rfl

theorem lampPwrWrite_rises (v : Word) (hserved : s.served 0x02A = true) (hold : s.get R.LAMP_CTRL_PWR = 0) (hv : v.toNat % 2 = 1) :
    goesOn (exec (.lampPwrWrite v) s) fun t => t.get R.LAMP_CTRL_PWR = 1 ∧ t.lamp.tripped = false ∧
      (t.domWanted dLAMP = true → s.lampState = lpOFF → t.lampState = lpPOWERING) ∧ only s t [R.LAMP_CTRL_PWR.reg, R.LAMP_STAT_STATE.reg] := by
  have hexec : exec (.lampPwrWrite v) s = .next (s.lampPwrWrite v.toNat) := rfl
  rw [hexec, State.lampPwr_rises hserved hold hv]
  have hput : (s.put R.LAMP_CTRL_PWR v.toNat).get R.LAMP_CTRL_PWR = 1 := (s.get_put_same _ (by decide)).trans hv
  have hstate : (s.put R.LAMP_CTRL_PWR v.toNat).lampState = s.lampState := State.get_put_off _ (by decide)
  have honly : only s (s.put R.LAMP_CTRL_PWR v.toNat) [R.LAMP_CTRL_PWR.reg, R.LAMP_STAT_STATE.reg] := only_put _ (by decide)
  generalize s.put R.LAMP_CTRL_PWR v.toNat = w at hput hstate honly ⊢
  obtain ⟨hget, hlamp, hasked⟩ := w.lampAsked_shows (L := [R.LAMP_CTRL_PWR.reg, R.LAMP_STAT_STATE.reg])
  generalize w.lampAsked = x at hget hlamp hasked ⊢
  have hxstate : x.lampState = s.lampState := (hget _).trans hstate
  refine ⟨_, rfl, ?_⟩
  split
  · refine ⟨(State.get_put_off _ (by decide)).trans ((hget _).trans hput), by rw [State.put_lamp, hlamp], fun _ _ => ?_,
      only_trans (only_trans honly hasked) (only_put _ (by decide))⟩
    exact State.get_put_fits _ (by decide) (by decide)
  · next hnot =>
    refine ⟨(hget _).trans hput, by rw [hlamp], fun hwant hoff => absurd ?_ hnot, only_trans honly hasked⟩
    rw [hwant, hxstate, hoff]
    rfl

theorem State.lampPwr_falls {v : Nat} (hserved : s.served 0x02A = true) (hold : s.get R.LAMP_CTRL_PWR = 1) (hv : v % 2 = 0) :
    s.lampPwrWrite v = (s.put R.LAMP_CTRL_PWR v).lampOffReq := by
  have hnew : (s.put R.LAMP_CTRL_PWR v).get R.LAMP_CTRL_PWR = 0 := (s.get_put_same _ (by decide)).trans hv
  unfold State.lampPwrWrite
  rw [if_neg (by rw [hserved]; decide)]
  dsimp only
  rw [hold, hnew, if_neg (by decide), if_pos (by decide)]

/-- No register of the lamphouse's page is lost with LAMP. -/
theorem lostWith_lampPage {a : Nat} (ha : a / 4096 = 0x2A) : lostWith dLAMP a = false := by
  rw [lostWith, ha, decide_eq_false (show restDom 0x2A ≠ dLAMP by decide), Bool.and_false, Bool.false_and]

theorem State.dropRegs_get_kept {lost : Nat → Bool} {g : Fld} (h : lost g.reg = false) : (s.dropRegs lost).get g = s.get g := by
  have hreg : (s.dropRegs lost).reg g.reg = s.reg g.reg := by
    show mapGet _ (s.regs.filter fun p => !lost p.1) _ = _
    rw [mapGet, mapFind_filter (fun a => !lost a), if_pos (by rw [h]; rfl)]
    rfl
  rw [State.get, hreg, State.get]

/-- LAMP's going off leaves its page, but for the link's status. -/
theorem State.lampOff_get {g : Fld} (hpage : g.reg / 4096 = 0x2A)
    (hc : g.clear [R.LAMP_STAT_STATE, R.LAMP_STAT_SW_24V, R.LAMP_STAT_SIG, R.LAMP_STAT_CH_FAULT] = true) : (s.domOff dLAMP).get g = s.get g := by
  have hput : (s.put ⟨R.PWR_DOM_STAT_ON.reg, dLAMP, 1⟩ 0).get g = s.get g :=
    s.get_put_reg (f := ⟨R.PWR_DOM_STAT_ON.reg, dLAMP, 1⟩) 0 (by rintro h; rw [h] at hpage; exact absurd hpage (by decide))
  have hdrop : ((s.put ⟨R.PWR_DOM_STAT_ON.reg, dLAMP, 1⟩ 0).dropRegs (lostWith dLAMP)).get g = s.get g :=
    (State.dropRegs_get_kept (lostWith_lampPage hpage)).trans hput
  unfold State.domOff
  dsimp only
  generalize (s.put ⟨R.PWR_DOM_STAT_ON.reg, dLAMP, 1⟩ 0).dropRegs (lostWith dLAMP) = v at hdrop ⊢
  split
  · rfl
  · exact (State.lampLost_get hc).trans hdrop

theorem lampPwrWrite_falls (v : Word) (hserved : s.served 0x02A = true) (hold : s.get R.LAMP_CTRL_PWR = 1) (hv : v.toNat % 2 = 0) :
    goesOn (exec (.lampPwrWrite v) s) fun t => t.get R.LAMP_CTRL_PWR = 0 ∧
      (s.lampState = lpPOWERING → t.lampState = lpOFF ∧ t.dom dLAMP = false) ∧
      (lpIDENT ≤ s.lampState → t.lamp.offDue = true ∧ t.lamp.req = none) := by
  have hexec : exec (.lampPwrWrite v) s = .next (s.lampPwrWrite v.toNat) := rfl
  rw [hexec, State.lampPwr_falls hserved hold hv]
  have hput : (s.put R.LAMP_CTRL_PWR v.toNat).get R.LAMP_CTRL_PWR = 0 := (s.get_put_same _ (by decide)).trans hv
  have hstate : (s.put R.LAMP_CTRL_PWR v.toNat).lampState = s.lampState := State.get_put_off _ (by decide)
  generalize s.put R.LAMP_CTRL_PWR v.toNat = w at hput hstate ⊢
  refine ⟨_, rfl, ?_⟩
  unfold State.lampOffReq
  rw [hstate]
  split
  · next hoff =>
    rw [hoff]
    exact ⟨hput, fun h => absurd h (by decide), fun h => absurd h (by decide)⟩
  · split
    · next hpow =>
      have hoff : (w.domOff dLAMP).dom dLAMP = false := by
        rw [State.dom_domOff (by decide) (by decide), decide_eq_false (not_not_intro rfl), Bool.and_false]
      have hkept : (w.domOff dLAMP).get R.LAMP_CTRL_PWR = w.get R.LAMP_CTRL_PWR := State.lampOff_get (by decide) (by decide)
      generalize w.domOff dLAMP = x at hoff hkept ⊢
      rw [hpow]
      refine ⟨(State.get_put_off _ (by decide)).trans (hkept.trans hput), fun _ => ⟨State.get_put_fits _ (by decide) (by decide), ?_⟩,
        fun h => absurd h (by decide)⟩
      rw [State.dom_put_off (by decide), hoff]
    · next hpow => exact ⟨hput, fun h => absurd h hpow, fun _ => ⟨rfl, rfl⟩⟩

/-! ## Identification and overload -/

/-- The link begins anew. -/
def State.lampBoots (s : State) : State := s.setLamp { s.lamp with req := none, readPos := 0, reread := false, lastLife := s.now, lastPoll := s.now }

theorem State.lampIdent_eq (n : Nat) (hstate : s.lampState = lpPOWERING) (hdom : s.dom dLAMP = true) : s.lampIdent n =
    ((((s.at n).at (s.lamp.onAt + 30 * msClk)).lampBoots.put R.LAMP_STAT_STATE lpIDENT).lampClose).put R.LAMP_STAT_SIG 0 := by
  unfold State.lampIdent
  rw [if_neg (by simp [hstate, hdom])]
  rfl

/-- What closing the 24 V switch does: a trip keeps it open, a TIMING run closes it at its end. -/
structure LampClosed (s t : State) : Prop where
  tripped : s.lamp.tripped = true → t.get R.LAMP_STAT_SW_24V = 0
  timing : s.lamp.tripped = false → s.cal.run = 3 → t.get R.LAMP_STAT_SW_24V = s.get R.LAMP_STAT_SW_24V ∧ t.cal.sw24 = true
  closed : s.lamp.tripped = false → s.cal.run ≠ 3 → t.get R.LAMP_STAT_SW_24V = 1
  lamp : t.lamp = s.lamp
  now : t.now = s.now
  get : ∀ g : Fld, g.off R.LAMP_STAT_SW_24V = true → t.get g = s.get g
  only : only s t [R.LAMP_STAT_STATE.reg]

theorem State.lampClose_shows : LampClosed s s.lampClose := by
  unfold State.lampClose
  split
  · next htrip =>
    exact ⟨fun _ => State.get_put_fits _ (by decide) (by decide), fun h => absurd (h.symm.trans htrip) (by decide),
      fun h => absurd (h.symm.trans htrip) (by decide), State.put_lamp .., State.put_now .., fun g hg => State.get_put_off _ hg, only_put _ (by decide)⟩
  · next htrip =>
    split
    · next hrun =>
      exact ⟨fun h => absurd h htrip, fun _ _ => ⟨rfl, rfl⟩, fun _ h => absurd hrun h, rfl, rfl, fun _ _ => rfl, only_of_eq rfl rfl rfl rfl rfl⟩
    · next hrun =>
      exact ⟨fun h => absurd h htrip, fun _ h => absurd h hrun, fun _ _ => State.get_put_fits _ (by decide) (by decide), State.put_lamp ..,
        State.put_now .., fun g hg => State.get_put_off _ hg, only_put _ (by decide)⟩

theorem lampIdent_shown (u : Nat) (hstate : s.lampState = lpPOWERING) (hdom : s.dom dLAMP = true) : goesOn (exec (.lampIdent u) s) fun t =>
    t.lampState = lpIDENT ∧ (s.lamp.tripped = true → t.get R.LAMP_STAT_SW_24V = 0) ∧
    (s.lamp.tripped = false → s.cal.run = 3 → t.on R.LAMP_STAT_SW_24V = s.on R.LAMP_STAT_SW_24V ∧ t.cal.sw24 = true) ∧
    (s.lamp.tripped = false → s.cal.run ≠ 3 → t.get R.LAMP_STAT_SW_24V = 1) ∧ t.get R.LAMP_STAT_SIG = 0 ∧ t.lamp.req = none ∧
    t.lamp.readPos = 0 ∧ t.now = max (max s.now u) (s.lamp.onAt + 30 * msClk) ∧ only s t [R.LAMP_STAT_STATE.reg] := by
  have hexec : exec (.lampIdent u) s = .next (s.lampIdent u) := rfl
  rw [hexec, State.lampIdent_eq u hstate hdom]
  refine ⟨_, rfl, ?_⟩
  have hboot (v : State) : v.lampBoots.lamp.req = none ∧ v.lampBoots.lamp.readPos = 0 ∧ v.lampBoots.lamp.tripped = v.lamp.tripped ∧
      v.lampBoots.cal = v.cal ∧ v.lampBoots.now = v.now ∧ only v v.lampBoots [R.LAMP_STAT_STATE.reg] ∧ ∀ g, v.lampBoots.get g = v.get g :=
    ⟨rfl, rfl, rfl, rfl, rfl, only_of_eq rfl rfl rfl rfl rfl, fun _ => rfl⟩
  obtain ⟨hreq, hpos, htrip, hcal, hnow, honly, hget⟩ := hboot ((s.at u).at (s.lamp.onAt + 30 * msClk))
  have hat : ((s.at u).at (s.lamp.onAt + 30 * msClk)).lamp = s.lamp ∧ ((s.at u).at (s.lamp.onAt + 30 * msClk)).cal = s.cal ∧
      ((s.at u).at (s.lamp.onAt + 30 * msClk)).now = max (max s.now u) (s.lamp.onAt + 30 * msClk) ∧
      only s ((s.at u).at (s.lamp.onAt + 30 * msClk)) [R.LAMP_STAT_STATE.reg] ∧ ∀ g, ((s.at u).at (s.lamp.onAt + 30 * msClk)).get g = s.get g :=
    ⟨rfl, rfl, rfl, only_of_eq rfl rfl rfl rfl rfl, fun _ => rfl⟩
  obtain ⟨hatLamp, hatCal, hatNow, hatOnly, hatGet⟩ := hat
  generalize (s.at u).at (s.lamp.onAt + 30 * msClk) = v at hreq hpos htrip hcal hnow honly hget hatLamp hatCal hatNow hatOnly hatGet ⊢
  generalize v.lampBoots = w at hreq hpos htrip hcal hnow honly hget ⊢
  have hput : (w.put R.LAMP_STAT_STATE lpIDENT).lampState = lpIDENT := State.get_put_fits _ (by decide) (by decide)
  have hputLamp : (w.put R.LAMP_STAT_STATE lpIDENT).lamp = w.lamp := State.put_lamp ..
  have hputCal : (w.put R.LAMP_STAT_STATE lpIDENT).cal = w.cal := State.put_cal ..
  have hputNow : (w.put R.LAMP_STAT_STATE lpIDENT).now = w.now := State.put_now ..
  have hputSw : (w.put R.LAMP_STAT_STATE lpIDENT).get R.LAMP_STAT_SW_24V = s.get R.LAMP_STAT_SW_24V :=
    (State.get_put_off _ (by decide)).trans ((hget _).trans (hatGet _))
  have hputOnly : only w (w.put R.LAMP_STAT_STATE lpIDENT) [R.LAMP_STAT_STATE.reg] := only_put _ (by decide)
  generalize w.put R.LAMP_STAT_STATE lpIDENT = x at hput hputLamp hputCal hputNow hputSw hputOnly ⊢
  have hc := x.lampClose_shows
  generalize x.lampClose = y at hc ⊢
  have hxtrip : x.lamp.tripped = s.lamp.tripped := by rw [hputLamp, htrip, hatLamp]
  have hxrun : x.cal.run = s.cal.run := by rw [hputCal, hcal, hatCal]
  have hsw : (y.put R.LAMP_STAT_SIG 0).get R.LAMP_STAT_SW_24V = y.get R.LAMP_STAT_SW_24V := State.get_put_off _ (by decide)
  refine ⟨?_, fun h => hsw.trans (hc.tripped (hxtrip.trans h)), fun h hrun => ?_, fun h hrun => hsw.trans (hc.closed (hxtrip.trans h) (hxrun ▸ hrun)),
    State.get_put_fits _ (by decide) (by decide), ?_, ?_, ?_, ?_⟩
  · exact (State.get_put_off _ (by decide)).trans ((hc.get _ (by decide)).trans hput)
  · obtain ⟨hon, hdue⟩ := hc.timing (hxtrip.trans h) (hxrun.trans hrun)
    exact ⟨State.on_of_get (hsw.trans (hon.trans hputSw)), by rw [State.put_cal, hdue]⟩
  · rw [State.put_lamp, hc.lamp, hputLamp, hreq]
  · rw [State.put_lamp, hc.lamp, hputLamp, hpos]
  · rw [State.put_now, hc.now, hputNow, hnow, hatNow]
  · exact only_trans hatOnly (only_trans honly (only_trans hputOnly (only_trans hc.only (only_put _ (by decide)))))

theorem lampOverload_shown (hsw : s.lampSw = true) : goesOn (exec .lampOverload s) fun t =>
    t.get R.LAMP_STAT_SW_24V = 0 ∧ t.lamp.tripped = true ∧ only s t [R.LAMP_STAT_SW_24V.reg] := by
  have hexec : exec .lampOverload s = .next ((s.setLamp { s.lamp with tripped := true }).put R.LAMP_STAT_SW_24V 0) := by
    show execLampOverload s = _
    unfold execLampOverload
    rw [if_pos hsw]
    rfl
  refine ⟨_, hexec, State.get_put_fits _ (by decide) (by decide), ?_, only_trans (State.setLamp_only _) (only_put _ (by decide))⟩
  rw [State.put_lamp, State.setLamp_lamp]

/-! ## Requests -/

theorem State.lampSend_only (cmd addr len : Nat) (data : List Nat) : only s (s.lampSend cmd addr len data) L := State.setLamp_only _

theorem lhRead_shown (hfree : s.lampFree = true) (hstate : s.lampState = lpIDENT) (hpos : s.lamp.readPos < 4) (hoff : s.lamp.offDue = false) :
    goesOn (exec .lhRead s) fun t =>
      t.lamp.req = some { kind := 0x01, addr := if s.lamp.readPos < 3 then 64 * s.lamp.readPos else 0x100, len := 64 } ∧ only s t [] := by
  have hexec : exec .lhRead s = .next (s.lampSend cmdREAD (lampReadAt s.lamp.readPos).1 (lampReadAt s.lamp.readPos).2 []) := by
    show Host.Outcome.next s.lampRead = _
    unfold State.lampRead
    dsimp only
    rw [if_pos (by simp [hfree, hstate, hpos, hoff])]
  refine ⟨_, hexec, ?_, State.lampSend_only _ _ _ _⟩
  unfold State.lampSend lampReadAt
  rw [State.setLamp_lamp]
  split <;> rfl

theorem lhSeti_shown (hfree : s.lampFree = true) (hdue : s.lamp.xferDue = true)
    (hready : s.lampState = lpREADY ∨ (s.lampState = lpIDENT ∧ s.lamp.readPos = 5)) (hoff : s.lamp.offDue = false) :
    goesOn (exec .lhSeti s) fun t => t.lamp.sentSet = (List.range 8).map s.lampEff ∧ t.lamp.xferDue = false ∧
      t.lamp.req = some { kind := 0x10, addr := 0, len := 16, data := ((List.range 8).map s.lampEff).flatMap (leBytes 2) } ∧ only s t [] := by
  have hexec : exec .lhSeti s = .next ((s.setLamp { s.lamp with xferDue := false, sentSet := (List.range 8).map s.lampEff }).lampSend cmdSETI 0 16
      (((List.range 8).map s.lampEff).flatMap (leBytes 2))) := by
    show Host.Outcome.next s.lampSeti = _
    unfold State.lampSeti
    dsimp only
    rw [if_pos (by obtain h | ⟨h, hp⟩ := hready <;> simp [hfree, hdue, hoff, h, *])]
  exact ⟨_, hexec, rfl, rfl, rfl, only_trans (State.setLamp_only _) (State.lampSend_only _ _ _ _)⟩

theorem lhLifeAdd_shown (hfree : s.lampFree = true) (hstate : lpIDENT ≤ s.lampState) (hoff : s.lamp.offDue = false) :
    goesOn (exec .lhLifeAdd s) fun t => t.now = max s.now (s.lamp.lastLife + 60 * secClk) ∧ t.lamp.lastLife = t.now ∧
      t.lamp.lifeSent = (List.range 8).map s.lampUnsentMs ∧
      (∃ r, t.lamp.req = some r ∧ r.kind = 0x20 ∧ r.data = ((List.range 8).map s.lampUnsentMs).flatMap (leBytes 4)) ∧ only s t [] := by
  have hexec : exec .lhLifeAdd s = .next (((s.at (s.lamp.lastLife + 60 * secClk)).setLamp { s.lamp with
      lastLife := (s.at (s.lamp.lastLife + 60 * secClk)).now, lifeSent := (List.range 8).map s.lampUnsentMs }).lampSend cmdLIFE_ADD 0 32
      (((List.range 8).map s.lampUnsentMs).flatMap (leBytes 4))) := by
    show Host.Outcome.next s.lampLifeAdd = _
    unfold State.lampLifeAdd
    rw [if_neg (by simp [hfree, Nat.not_lt.mpr hstate]), if_neg (by rw [hoff]; exact Bool.false_ne_true)]
    rfl
  exact ⟨_, hexec, rfl, rfl, rfl, ⟨_, rfl, rfl, rfl⟩, only_trans (only_at s _) (only_trans (State.setLamp_only _) (State.lampSend_only _ _ _ _))⟩

theorem lhStat_shown (hfree : s.lampFree = true) (hstate : s.lampState = lpREADY) (hoff : s.lamp.offDue = false) : goesOn (exec .lhStat s) fun t =>
    t.now = max s.now (s.lamp.lastPoll + 100 * msClk) ∧ t.lamp.req = some { kind := 0x30 } ∧ t.lamp.lastPoll = t.now ∧ only s t [] := by
  have hexec : exec .lhStat s = .next (((s.at (s.lamp.lastPoll + 100 * msClk)).setLamp { s.lamp with
      lastPoll := (s.at (s.lamp.lastPoll + 100 * msClk)).now }).lampSend cmdSTAT 0 0 []) := by
    show Host.Outcome.next s.lampStat = _
    unfold State.lampStat
    rw [if_pos (by simp [hfree, hstate, hoff])]
    rfl
  exact ⟨_, hexec, rfl, rfl, rfl, only_trans (only_at s _) (only_trans (State.setLamp_only _) (State.lampSend_only _ _ _ _))⟩

end Sys2Proof.Machine
end

/-! PROOFS. O56: signature, retries and responses, and the lamphouse as stated (R380–R390). -/
section
-- One theorem after the other: the default proofs of the side conditions below are run by the elaborator, which waits for all that stands before.
set_option Elab.async false
namespace Sys2Proof.Machine

variable {b : Bool} {s t u : State} {L : List Nat}

/-! ## The signature -/

/-- SIG and SAFE take a result. -/
def State.sigPut (s : State) (r : Nat) : State := (s.put R.LAMP_STAT_SIG r).put R.LAMP_STAT_SAFE (boolNat (r ≠ 1))

theorem State.sigResult_eq (r : Nat) : s.sigResult r = if r ≠ 1 then (s.sigPut r).raise E.LAMP_SIG_FAIL else s.sigPut r := rfl

theorem State.sigPut_shows {r : Nat} (hr : r < 4) : (s.sigPut r).get R.LAMP_STAT_SIG = r ∧ (s.sigPut r).get R.LAMP_STAT_SAFE = boolNat (r ≠ 1) ∧
    (s.sigPut r).lamp = s.lamp ∧ ∀ g : Fld, g.clear [R.LAMP_STAT_SIG, R.LAMP_STAT_SAFE] = true → (s.sigPut r).get g = s.get g := by
  refine ⟨(State.get_put_off _ (by decide)).trans (State.get_put_fits _ (by decide) hr), State.get_put_fits _ (by decide) (boolNat_lt_two _), ?_, fun g hc => ?_⟩
  · rw [State.sigPut, State.put_lamp, State.put_lamp]
  · have hoff := Fld.clear_iff.mp hc
    exact (State.get_put_off _ (hoff _ (by decide))).trans (State.get_put_off _ (hoff _ (by decide)))

/-- The fields that a signature's result changes. -/
def sigFields : List Fld := [R.LAMP_STAT_SIG, R.LAMP_STAT_SAFE] ++ toldFields E.LAMP_SIG_FAIL

theorem State.sigResult_shows {r : Nat} (hr : r < 4) : (s.sigResult r).get R.LAMP_STAT_SIG = r ∧
    (s.sigResult r).on R.LAMP_STAT_SAFE = decide (r ≠ 1) ∧ (s.sigResult r).lamp = s.lamp ∧
    (r ≠ 1 → told s (s.sigResult r) E.LAMP_SIG_FAIL) ∧ ∀ g : Fld, g.clear sigFields = true → (s.sigResult r).get g = s.get g := by
  obtain ⟨hsig, hsafe, hlamp, hget⟩ := s.sigPut_shows hr
  rw [State.sigResult_eq]
  generalize s.sigPut r = v at hsig hsafe hlamp hget ⊢
  have hon : v.on R.LAMP_STAT_SAFE = decide (r ≠ 1) := by
    rw [State.on, hsafe]
    cases decide (r ≠ 1) <;> rfl
  split
  · refine ⟨(State.get_raise_clear (by decide)).trans hsig, (State.on_of_get (State.get_raise_clear (by decide))).trans hon, by rw [State.raise_lamp, hlamp],
      fun _ => told_raise_of_cnt (by decide) fun b hb => ?_, fun g hc => ?_⟩
    · obtain rfl : 1 = b := Option.some.inj hb
      exact hget _ (by decide)
    · have hoff := Fld.clear_iff.mp hc
      exact (State.get_raise_clear (Fld.clear_iff.mpr fun f hf => hoff f (List.mem_append_right _ hf))).trans
        (hget _ (Fld.clear_iff.mpr fun f hf => hoff f (List.mem_append_left _ hf)))
  · next hone =>
    exact ⟨hsig, hon, hlamp, fun h => absurd h hone, fun g hc => hget _ (Fld.clear_iff.mpr fun f hf => Fld.clear_iff.mp hc f (List.mem_append_left _ hf))⟩

/-- The fields of LAMP_XFER. -/
def xferFields : List Fld := [R.LAMP_XFER_LO_TICKNO, R.LAMP_XFER_HI_TICKNO]

theorem State.xferLatch_get {g : Fld} (hc : g.clear xferFields = true) : s.xferLatch.get g = s.get g := by
  have hoff := Fld.clear_iff.mp hc
  exact (State.get_put_off _ (hoff _ (by decide))).trans (State.get_put_off _ (hoff _ (by decide)))

/-- A transfer that a COMMIT's boundary has asked for keeps its tick. -/
def State.xferOnce (s : State) : State := if s.lamp.xferDue then s else s.xferLatch

theorem State.xferOnce_shows : s.xferOnce.lamp = s.lamp ∧ (∀ g : Fld, g.clear xferFields = true → s.xferOnce.get g = s.get g) ∧
    (s.lamp.xferDue = true → ∀ g, s.xferOnce.get g = s.get g) := by
  unfold State.xferOnce
  split
  · exact ⟨rfl, fun _ _ => rfl, fun _ _ => rfl⟩
  · next hdue => exact ⟨State.put64_lamp .., fun _ hc => State.xferLatch_get hc, fun h => absurd h hdue⟩

theorem State.identOver_eq : s.identOver = s.xferOnce.setLamp { s.xferOnce.lamp with readPos := 5, xferDue := true, reread := false } := rfl

theorem State.identOver_shows : s.identOver.lamp = { s.lamp with readPos := 5, xferDue := true, reread := false } ∧
    (∀ g : Fld, g.clear xferFields = true → s.identOver.get g = s.get g) ∧ (s.lamp.xferDue = true → ∀ g, s.identOver.get g = s.get g) := by
  obtain ⟨hlamp, hget, hkept⟩ := s.xferOnce_shows
  rw [State.identOver_eq]
  generalize s.xferOnce = v at hlamp hget hkept ⊢
  exact ⟨by rw [State.setLamp_lamp, hlamp], fun g hc => (State.setLamp_get _ g).trans (hget g hc), fun h g => (State.setLamp_get _ g).trans (hkept h g)⟩

theorem sigVerify_shown (hstate : s.lampState = lpIDENT) (hpos : s.lamp.readPos = 4) : goesOn (exec .sigVerify s) fun t =>
    t.get R.LAMP_STAT_SIG = (if s.sigCheck then 1 else 2) ∧ t.on R.LAMP_STAT_SAFE = !s.sigCheck ∧ t.lamp.readPos = 5 ∧
    t.lamp.xferDue = true ∧ (s.lamp.xferDue = true → t.get64 R.LAMP_XFER_LO_TICKNO R.LAMP_XFER_HI_TICKNO =
      s.get64 R.LAMP_XFER_LO_TICKNO R.LAMP_XFER_HI_TICKNO) ∧ (s.sigCheck = false → told s t E.LAMP_SIG_FAIL) := by
  have hexec : exec .sigVerify s = .next (s.sigResult (if s.sigCheck then 1 else 2)).identOver := by
    show Host.Outcome.next s.sigVerify = _
    unfold State.sigVerify
    rw [if_pos (by simp [hstate, hpos])]
  refine ⟨_, hexec, ?_⟩
  generalize s.sigCheck = ok
  have hr : (if ok = true then 1 else 2) < 4 := by split <;> decide
  have hone : decide ((if ok = true then 1 else 2) ≠ 1) = !ok := by cases ok <;> rfl
  have hbad : ok = false → (if ok = true then 1 else 2) ≠ 1 := by
    rintro rfl
    decide
  generalize (if ok = true then 1 else 2) = r at hr hone hbad ⊢
  obtain ⟨hsig, hsafe, hlamp, htold, hget⟩ := s.sigResult_shows hr
  generalize s.sigResult r = v at hsig hsafe hlamp htold hget ⊢
  obtain ⟨hover, hoverGet, hkept⟩ := v.identOver_shows
  generalize v.identOver = w at hover hoverGet hkept ⊢
  refine ⟨(hoverGet _ (by decide)).trans hsig, ?_, by rw [hover], by rw [hover], fun hdue => ?_, fun h => ?_⟩
  · rw [State.on_of_get (hoverGet _ (by decide)), hsafe, hone]
  · rw [← hlamp] at hdue
    rw [State.get64, hkept hdue, hkept hdue, hget _ (by decide), hget _ (by decide), State.get64]
  · obtain ⟨hraw, hcnt⟩ := htold (hbad h)
    refine ⟨(hoverGet _ (by decide)).trans hraw, fun b hb => ?_⟩
    obtain rfl : 1 = b := Option.some.inj hb
    exact (hoverGet _ (by decide)).trans (hcnt _ rfl)

/-! ## Failed attempts -/

theorem State.lampOff_req (h : s.lamp.req = none) : (s.domOff dLAMP).lamp.req = none := by
  unfold State.domOff
  dsimp only
  generalize (s.put ⟨R.PWR_DOM_STAT_ON.reg, dLAMP, 1⟩ 0).dropRegs (lostWith dLAMP) = v
  split
  · exact h
  · rw [if_neg (by decide), if_neg (by decide), if_pos rfl]
    unfold State.lampLost
    rw [State.put_lamp, State.put_lamp, State.put_lamp, State.put_lamp]

/-- Absence begins with the third failed poll. -/
def State.lampAbsent (s : State) : State :=
  ((s.setLamp { s.lamp with prevIdent := s.identBytes, readPos := 0 }).put R.LAMP_STAT_STATE lpABSENT).raise E.LAMP_ABSENT

/-- A failed poll is counted. -/
def State.pollCounted (s : State) : State := s.setLamp { s.lamp with failPolls := s.lamp.failPolls + 1 }

theorem State.pollCounted_shows : s.pollCounted.lamp.req = s.lamp.req ∧ ∀ g, s.pollCounted.get g = s.get g := ⟨rfl, fun _ => rfl⟩

/-- A failed poll, the third of which ends in absence. -/
def State.lampPollFailed (s : State) : State :=
  if s.lamp.failPolls + 1 = 3 && s.lampState = lpREADY then s.pollCounted.lampAbsent else s.pollCounted

theorem State.lampAbsent_shows : s.lampAbsent.lampState = lpABSENT ∧ s.lampAbsent.get (intRawBit E.LAMP_ABSENT) = 1 ∧
    s.lampAbsent.lamp.req = s.lamp.req ∧ s.lampAbsent.get R.LAMP_LINK_ERR_COUNT = s.get R.LAMP_LINK_ERR_COUNT := by
  unfold State.lampAbsent
  have hset (g : Fld) : (s.setLamp { s.lamp with prevIdent := s.identBytes, readPos := 0 }).get g = s.get g := State.setLamp_get _ g
  have hreq : (s.setLamp { s.lamp with prevIdent := s.identBytes, readPos := 0 }).lamp.req = s.lamp.req := rfl
  generalize s.setLamp { s.lamp with prevIdent := s.identBytes, readPos := 0 } = v at hset hreq ⊢
  refine ⟨(State.get_raise_clear (by decide)).trans (State.get_put_fits _ (by decide) (by decide)), State.get_raise _ _ (by decide), ?_, ?_⟩
  · rw [State.raise_lamp, State.put_lamp, hreq]
  · exact (State.get_raise_clear (by decide)).trans ((State.get_put_off _ (by decide)).trans (hset _))

/-- A read that has failed in all its attempts. -/
def State.lampReadFailed (s : State) : State :=
  if s.lampState = lpABSENT then s.setLamp { s.lamp with reread := false, readPos := 0 }
  else if s.lamp.readPos < 3 then (s.setLamp { s.lamp with readPos := 3 }).sigResult 3
  else if s.get R.LAMP_STAT_SIG = 3 then s.identOver
  else s.setLamp { s.lamp with readPos := 4 }

/-- No request is in flight. -/
def State.lampFreed (s : State) : State := s.setLamp { s.lamp with req := none }

theorem State.lampFreed_shows : s.lampFreed.lamp.req = none ∧ s.lampFreed.lamp.failPolls = s.lamp.failPolls ∧ ∀ g, s.lampFreed.get g = s.get g :=
  ⟨rfl, rfl, fun _ => rfl⟩

theorem State.lampReqFailed_eq (r : LhReq) : s.lampReqFailed r =
    if r.kind = cmdREAD then s.lampFreed.lampReadFailed
    else if r.kind = cmdSETI then s.lampFreed.setLamp { s.lampFreed.lamp with xferDue := true }
    else if r.kind = cmdLIFE_ADD then (if s.lampFreed.lamp.offDue then s.lampFreed.domOff dLAMP else s.lampFreed)
    else s.lampFreed.lampPollFailed := rfl

/-- The request is over and the count of failed attempts stands. -/
def LampOver (s t : State) : Prop := (s.lamp.req = none → t.lamp.req = none) ∧ t.get R.LAMP_LINK_ERR_COUNT = s.get R.LAMP_LINK_ERR_COUNT

theorem State.lampReadFailed_over : LampOver s s.lampReadFailed := by
  unfold State.lampReadFailed
  split
  · exact ⟨id, rfl⟩
  split
  · have hget (g : Fld) : (s.setLamp { s.lamp with readPos := 3 }).get g = s.get g := rfl
    have hreq : (s.setLamp { s.lamp with readPos := 3 }).lamp.req = s.lamp.req := rfl
    generalize s.setLamp { s.lamp with readPos := 3 } = v at hget hreq ⊢
    obtain ⟨-, -, hlamp, -, hsig⟩ := v.sigResult_shows (r := 3) (by decide)
    exact ⟨fun h => by rw [hlamp, hreq, h], (hsig _ (by decide)).trans (hget _)⟩
  split
  · obtain ⟨hlamp, hget, -⟩ := s.identOver_shows
    exact ⟨fun h => by rw [hlamp, h], hget _ (by decide)⟩
  · exact ⟨id, rfl⟩

theorem State.lampPollFailed_over : LampOver s s.lampPollFailed := by
  obtain ⟨hreq, hget⟩ := s.pollCounted_shows
  unfold State.lampPollFailed
  generalize s.pollCounted = v at hreq hget ⊢
  split
  · obtain ⟨-, -, habsent, hcount⟩ := v.lampAbsent_shows
    exact ⟨fun h => habsent.trans (hreq.trans h), hcount.trans (hget _)⟩
  · exact ⟨fun h => hreq.trans h, hget _⟩

theorem State.lampReqFailed_over (r : LhReq) : (s.lampReqFailed r).lamp.req = none ∧
    (s.lampReqFailed r).get R.LAMP_LINK_ERR_COUNT = s.get R.LAMP_LINK_ERR_COUNT := by
  rw [State.lampReqFailed_eq]
  obtain ⟨hreq, -, hfreed⟩ := s.lampFreed_shows
  have hget := hfreed R.LAMP_LINK_ERR_COUNT
  generalize s.lampFreed = v at hreq hget ⊢
  split
  · exact ⟨v.lampReadFailed_over.1 hreq, v.lampReadFailed_over.2.trans hget⟩
  split
  · exact ⟨hreq, hget⟩
  split
  · split
    · exact ⟨State.lampOff_req hreq, (State.lampOff_get (by decide) (by decide)).trans hget⟩
    · exact ⟨hreq, hget⟩
  · exact ⟨v.lampPollFailed_over.1 hreq, v.lampPollFailed_over.2.trans hget⟩

/-- The attempt is counted. -/
theorem State.bump_linkErr : (s.bump R.LAMP_LINK_ERR_COUNT).get R.LAMP_LINK_ERR_COUNT = min (2 ^ 32 - 1) (s.get R.LAMP_LINK_ERR_COUNT + 1) :=
  State.get_put_fits _ (by decide) (Nat.lt_of_le_of_lt (Nat.min_le_left _ _) (by decide))

/-- A request is sent again. -/
def State.lampAgain (s : State) (r : LhReq) : State := s.setLamp { s.lamp with req := some { r with tries := r.tries + 1 } }

theorem State.lampAgain_shows (r : LhReq) : (s.lampAgain r).lamp = { s.lamp with req := some { r with tries := r.tries + 1 } } ∧
    (s.lampAgain r).now = s.now ∧ only s (s.lampAgain r) L ∧ ∀ g, (s.lampAgain r).get g = s.get g :=
  ⟨rfl, rfl, State.setLamp_only _, fun _ => rfl⟩

theorem State.lampRetry_again {r : LhReq} (hreq : s.lamp.req = some r) (htries : r.tries < 2) :
    s.lampRetry.get R.LAMP_LINK_ERR_COUNT = min (2 ^ 32 - 1) (s.get R.LAMP_LINK_ERR_COUNT + 1) ∧
    s.lampRetry.lamp = { s.lamp with req := some { r with tries := r.tries + 1 } } ∧ s.lampRetry.now = s.now ∧
    only s s.lampRetry [R.LAMP_LINK_ERR_COUNT.reg] := by
  have heq : s.lampRetry = (s.bump R.LAMP_LINK_ERR_COUNT).lampAgain r := by
    unfold State.lampRetry
    rw [hreq]
    exact if_pos (by omega)
  have hcount := s.bump_linkErr
  have hlamp : (s.bump R.LAMP_LINK_ERR_COUNT).lamp = s.lamp := State.bump_lamp ..
  have hnow : (s.bump R.LAMP_LINK_ERR_COUNT).now = s.now := State.put_now ..
  have honly : only s (s.bump R.LAMP_LINK_ERR_COUNT) [R.LAMP_LINK_ERR_COUNT.reg] := only_bump (by decide)
  rw [heq]
  generalize s.bump R.LAMP_LINK_ERR_COUNT = v at hcount hlamp hnow honly ⊢
  obtain ⟨hagain, hagainNow, hagainOnly, hget⟩ := v.lampAgain_shows (L := [R.LAMP_LINK_ERR_COUNT.reg]) r
  exact ⟨(hget _).trans hcount, by rw [hagain, hlamp], hagainNow.trans hnow, only_trans honly hagainOnly⟩

theorem State.lampRetry_over {r : LhReq} (hreq : s.lamp.req = some r) (htries : 2 ≤ r.tries) :
    s.lampRetry = (s.bump R.LAMP_LINK_ERR_COUNT).lampReqFailed r := by
  unfold State.lampRetry
  rw [hreq]
  exact if_neg (by omega)

theorem lhRetry_shown {r : LhReq} (hreq : s.lamp.req = some r) : goesOn (exec .lhRetry s) fun t =>
    t.get R.LAMP_LINK_ERR_COUNT = min (2 ^ 32 - 1) (s.get R.LAMP_LINK_ERR_COUNT + 1) ∧
    (r.tries < 2 → t.lamp = { s.lamp with req := some { r with tries := r.tries + 1 } } ∧ only s t [R.LAMP_LINK_ERR_COUNT.reg]) ∧
    (2 ≤ r.tries → t.lamp.req = none) ∧
    (2 ≤ r.tries → r.kind = 0x30 → s.lamp.failPolls = 2 → s.lampState = lpREADY → t.lampState = lpABSENT ∧
      t.get (intRawBit E.LAMP_ABSENT) = 1) := by
  have hexec : exec .lhRetry s = .next s.lampRetry := rfl
  refine ⟨_, hexec, ?_⟩
  by_cases htries : r.tries < 2
  · obtain ⟨hcount, hlamp, -, honly⟩ := State.lampRetry_again hreq htries
    exact ⟨hcount, fun _ => ⟨hlamp, honly⟩, fun h => absurd htries (Nat.not_lt.mpr h), fun h => absurd htries (Nat.not_lt.mpr h)⟩
  · rw [State.lampRetry_over hreq (Nat.not_lt.mp htries)]
    have hcount := s.bump_linkErr
    have hlamp : (s.bump R.LAMP_LINK_ERR_COUNT).lamp = s.lamp := State.bump_lamp ..
    have hstate : (s.bump R.LAMP_LINK_ERR_COUNT).lampState = s.lampState := State.get_put_off _ (by decide)
    generalize s.bump R.LAMP_LINK_ERR_COUNT = v at hcount hlamp hstate ⊢
    obtain ⟨hnone, herr⟩ := v.lampReqFailed_over r
    refine ⟨herr.trans hcount, fun h => absurd h htries, fun _ => hnone, fun _ hkind hpolls hready => ?_⟩
    obtain ⟨-, hpollsFreed, hset⟩ := v.lampFreed_shows
    rw [State.lampReqFailed_eq, hkind, if_neg (by decide), if_neg (by decide), if_neg (by decide)]
    rw [hlamp, hpolls] at hpollsFreed
    generalize v.lampFreed = w at hset hpollsFreed ⊢
    have hwstate : w.lampState = lpREADY := (hset _).trans (hstate.trans hready)
    unfold State.lampPollFailed
    rw [if_pos (by rw [hpollsFreed, hwstate]; rfl)]
    obtain ⟨habsent, hraw, -⟩ := w.pollCounted.lampAbsent_shows
    exact ⟨habsent, hraw⟩

end Sys2Proof.Machine
end

/-! PROOFS. O56: responses, and the lamphouse as stated (R380–R390). -/
section
-- One theorem after the other: the default proofs of the side conditions below are run by the elaborator, which waits for all that stands before.
set_option Elab.async false
namespace Sys2Proof.Machine

variable {b : Bool} {s t u : State} {L : List Nat}

/-! ## The link's code -/

/-- Cells of correct coding give their bits. -/
theorem lhBits_cells (xs : List Bool) : lhBits (xs.flatMap fun x => [x, !x]) = some xs := by
  induction xs with
  | nil => rfl
  | cons x xs ih =>
    have hne : (x == !x) = false := by cases x <;> rfl
    rw [List.flatMap_cons, List.cons_append, List.cons_append, List.nil_append, lhBits, hne, ih]
    rfl

/-- The bits of bytes, the lowest first. -/
def byteBits (bs : List Nat) : List Bool := bs.flatMap fun b => (List.range 8).map fun i => bit b i

theorem lhHalves_eq (bs : List Nat) : lhHalves bs = (byteBits bs).flatMap fun x => [x, !x] := by
  induction bs with
  | nil => rfl
  | cons b bs ih =>
    have hcons : byteBits (b :: bs) = ((List.range 8).map fun i => bit b i) ++ byteBits bs := List.flatMap_cons
    have hcells : lhHalves (b :: bs) = ((List.range 8).flatMap fun i => [bit b i, !bit b i]) ++ lhHalves bs := List.flatMap_cons
    rw [hcells, hcons, List.flatMap_append, ih, List.flatMap_map]

/-- A byte is the sum of its bits. -/
theorem byte_of_bits {a : Nat} (ha : a < 256) : (List.range 8).foldl (fun v j => v + boolNat (bit a j) * 2 ^ j) 0 = a := by
  have hbit (j : Nat) : boolNat (bit a j) = a / 2 ^ j % 2 := by
    rw [bit, boolNat]
    split
    · next h => exact (of_decide_eq_true h).symm
    · next h =>
      have hne : a / 2 ^ j % 2 ≠ 1 := fun heq => h (decide_eq_true heq)
      omega
  simp only [hbit, List.range_succ, List.range_zero, List.nil_append, List.cons_append, List.foldl_cons, List.foldl_nil]
  omega

theorem lhBytes_halves {a b c : Nat} (ha : a < 256) (hb : b < 256) (hc : c < 256) : lhBytes (lhHalves [a, b, c]) = some [a, b, c] := by
  have hbits : lhBits (lhHalves [a, b, c]) = some (byteBits [a, b, c]) := by rw [lhHalves_eq, lhBits_cells]
  have hsum : (List.range 3).map (fun i => (List.range 8).foldl (fun v j => v + boolNat ((byteBits [a, b, c]).getD (8 * i + j) false) * 2 ^ j) 0) =
      [(List.range 8).foldl (fun v j => v + boolNat (bit a j) * 2 ^ j) 0, (List.range 8).foldl (fun v j => v + boolNat (bit b j) * 2 ^ j) 0,
        (List.range 8).foldl (fun v j => v + boolNat (bit c j) * 2 ^ j) 0] := rfl
  rw [byte_of_bits ha, byte_of_bits hb, byte_of_bits hc] at hsum
  have hlen : (byteBits [a, b, c]).length = 24 := rfl
  unfold lhBytes
  rw [hbits]
  dsimp only
  rw [hlen, if_neg (by decide)]
  exact congrArg some hsum

theorem crc8Bit_lt (n : Nat) {c : Nat} (hc : c < 256) : crc8Bit n c < 256 := by
  induction n generalizing c with
  | zero => exact hc
  | succ n ih =>
    rw [crc8Bit]
    split
    · exact ih (Nat.mod_lt _ (by decide))
    · exact ih (by omega)

theorem crc8_lt {bs : List Nat} (h : ∀ b ∈ bs, b < 256) : crc8 bs < 256 :=
  List.foldlRecOn (motive := fun c => c < 256) bs _ (by decide) fun c hc b hb =>
    crc8Bit_lt 8 (Nat.xor_lt_two_pow (n := 8) hc (h b hb))

/-- An answer without data. -/
theorem lhAnswer_bare {st : Nat} (hst : st < 256) : lhAnswer (lhHalves [st, 0, crc8 [st, 0]]) = some (st, []) := by
  have hcrc : crc8 [st, 0] < 256 := crc8_lt fun b hb => by
    obtain rfl | rfl : b = st ∨ b = 0 := by simpa using hb
    · exact hst
    · decide
  unfold lhAnswer
  rw [lhBytes_halves hst (by decide) hcrc]
  exact if_pos (by simp)

/-! ## Responses -/

theorem State.lampResponse_bad {r : LhReq} {sync cells : List Bool} (n : Nat) (hreq : s.lamp.req = some r) (hbad : sync ≠ lhSync ∨ lhAnswer cells = none) :
    s.lampResponse sync cells n = (s.at n).lampRetry := by
  have hnone : (if sync = lhSync then lhAnswer cells else none) = none := by
    obtain h | h := hbad
    · exact if_neg h
    · rw [h, ite_self]
  unfold State.lampResponse
  rw [hreq]
  dsimp only
  rw [hnone]

theorem lhResponse_bad {r : LhReq} (sync cells : List Bool) (u : Nat) (hreq : s.lamp.req = some r) (hbad : sync ≠ lhSync ∨ lhAnswer cells = none)
    (htries : r.tries < 2) : goesOn (exec (.lhResponse sync cells u) s) fun t => t.now = max s.now u ∧
      t.get R.LAMP_LINK_ERR_COUNT = min (2 ^ 32 - 1) (s.get R.LAMP_LINK_ERR_COUNT + 1) ∧
      t.lamp = { s.lamp with req := some { r with tries := r.tries + 1 } } ∧ only s t [R.LAMP_LINK_ERR_COUNT.reg] := by
  have hexec : exec (.lhResponse sync cells u) s = .next (s.lampResponse sync cells u) := rfl
  rw [hexec, State.lampResponse_bad u hreq hbad]
  obtain ⟨hcount, hlamp, hnow, honly⟩ := State.lampRetry_again (s := s.at u) (r := r) hreq htries
  exact ⟨_, rfl, hnow, hcount, hlamp, only_trans (only_at s u) honly⟩

/-! ## The journal beside the lamphouse -/

/-- What writes of registers and events leave, showing the journal leaves. -/
theorem State.jShow_of {α : Type} {f : State → α} (hput : ∀ v : State, ∀ g n, f (v.put g n) = f v) (hraise : ∀ v : State, ∀ e, f (v.raise e) = f v) :
    f s.jShow = f s := by
  obtain ⟨v, hv, heq⟩ : ∃ v : State, f v = f s ∧ s.jShow =
      if !v.jFull then v.put R.NVS_STAT_JFULL 0 else if v.on R.NVS_STAT_JFULL then v else (v.put R.NVS_STAT_JFULL 1).raise E.NVS_JFULL :=
    ⟨(s.put R.NVS_JOCC_MB (ceilDiv s.jUsed 0x4000)).put64 R.NVS_JSEQ_LO_SEQ R.NVS_JSEQ_HI_SEQ s.nvs.seq,
      (hput _ _ _).trans ((hput _ _ _).trans (hput _ _ _)), rfl⟩
  rw [heq]
  split
  · exact (hput _ _ _).trans hv
  · split
    · exact hv
    · exact (hraise _ _).trans ((hput _ _ _).trans hv)

/-- Committing a record leaves what the store, registers and events leave. -/
theorem State.jCommit_of {α : Type} {f : State → α} (hput : ∀ v : State, ∀ g n, f (v.put g n) = f v) (hraise : ∀ v : State, ∀ e, f (v.raise e) = f v)
    (hnvs : ∀ v : State, ∀ n, f { v with nvs := n } = f v) (type : Nat) (payload : List Nat) : f (s.jCommit type payload) = f s := by
  rw [State.jCommit_eq, State.jShow_of hput hraise]
  exact hnvs s _

/-- The store with the life counters that a LIFE record commits. -/
def State.lifeStore (s : State) : State :=
  let n := s.accrue.nvs
  let l := { n.life with hwm := s.tick.tickno + hwmAhead }
  { s with nvs := { n with life := l, saved := l, lastLifeTick := s.tick.tickno, lastLifeTime := s.now } }

theorem State.lifeCommit_eq : s.lifeCommit = s.lifeStore.jCommit jLIFE (lifeBlock s.lifeStore.nvs.life (s.lifeStore.nvs.seq + 1)) := rfl

theorem State.lifeStore_of {α : Type} {f : State → α} (hnvs : ∀ v : State, ∀ n, f { v with nvs := n } = f v) : f s.lifeStore = f s := hnvs s _

theorem State.lifeCommit_of {α : Type} {f : State → α} (hput : ∀ v : State, ∀ g n, f (v.put g n) = f v) (hraise : ∀ v : State, ∀ e, f (v.raise e) = f v)
    (hnvs : ∀ v : State, ∀ n, f { v with nvs := n } = f v) : f s.lifeCommit = f s := by
  rw [State.lifeCommit_eq, State.jCommit_of hput hraise hnvs, State.lifeStore_of hnvs]

theorem State.jEvent_of {α : Type} {f : State → α} (hput : ∀ v : State, ∀ g n, f (v.put g n) = f v) (hraise : ∀ v : State, ∀ e, f (v.raise e) = f v)
    (hnvs : ∀ v : State, ∀ n, f { v with nvs := n } = f v) (code : Nat) (detail : List Nat) : f (s.jEvent code detail) = f s := by
  unfold State.jEvent
  split
  · rw [State.lifeCommit_of hput hraise hnvs, State.jCommit_of hput hraise hnvs]
  · exact hnvs s _

theorem State.jEvent_lamp (code : Nat) (detail : List Nat) : (s.jEvent code detail).lamp = s.lamp :=
  State.jEvent_of (f := State.lamp) (fun _ _ _ => State.put_lamp ..) (fun _ _ => State.raise_lamp ..) (fun _ _ => rfl) code detail

theorem State.jEvent_now (code : Nat) (detail : List Nat) : (s.jEvent code detail).now = s.now :=
  State.jEvent_of (f := State.now) (fun _ _ _ => State.put_now ..) (fun _ _ => State.raise_now ..) (fun _ _ => rfl) code detail

theorem State.lifeCommit_get {g : Fld} (hc : g.clear jFields = true) : s.lifeCommit.get g = s.get g := by
  have hstore : s.lifeStore.get g = s.get g := rfl
  rw [State.lifeCommit_eq, State.jCommit_get hc, hstore]

theorem State.jEvent_get {code : Nat} {detail : List Nat} {g : Fld} (hc : g.clear jFields = true) : (s.jEvent code detail).get g = s.get g := by
  unfold State.jEvent
  split
  · rw [State.lifeCommit_get hc, State.jCommit_get hc]
  · rfl

/-- A field of the lamphouse's page is none of the journal's. -/
theorem jFields_lampPage {g : Fld} (h : g.reg / 4096 = 0x2A) : g.clear jFields = true := by
  have hpages : ∀ f ∈ jFields, f.reg / 4096 ≠ 0x2A := by decide
  exact Fld.clear_iff.mpr fun f hf => Fld.off_iff.mpr (.inl fun heq => hpages f hf (by rw [← heq, h]))

/-! ## Set-points in force -/

/-- A change of lamphouse leaves the link and the fields beside its event. -/
theorem State.lampChange_shows : s.lampChange.lamp = s.lamp ∧ s.lampChange.now = s.now ∧
    ∀ g : Fld, g.reg / 4096 = 0x2A → g.clear (toldFields E.LAMP_CHANGED) = true → s.lampChange.get g = s.get g := by
  obtain ⟨t, ht⟩ : ∃ t, t = s.lampChange := ⟨_, rfl⟩
  rw [← ht]
  unfold State.lampChange at ht
  dsimp only at ht
  generalize hv : ({ s with nvs := { s.nvs with lamp := s.lampSerial, life := { s.nvs.life with lamps := s.nvs.life.lamps + 1 } } } : State) = v at ht
  have hlamp : v.lamp = s.lamp := by rw [← hv]
  have hnow : v.now = s.now := by rw [← hv]
  have hget (g : Fld) : v.get g = s.get g := by rw [← hv]; rfl
  split at ht
  · rw [ht]
    exact ⟨rfl, rfl, fun _ _ _ => rfl⟩
  · rw [ht]
    exact ⟨by rw [State.raise_lamp, State.jEvent_lamp, hlamp], by rw [State.raise_now, State.jEvent_now, hnow], fun g hpage hc =>
      (State.get_raise_clear hc).trans ((State.jEvent_get (jFields_lampPage hpage)).trans (hget g))⟩

/-- READY is shown. -/
def State.readyPut (s : State) : State := (s.setLamp { s.lamp with lastPoll := s.now, failPolls := 0 }).put R.LAMP_STAT_STATE lpREADY

theorem State.readyPut_shows : s.readyPut.lamp = { s.lamp with lastPoll := s.now, failPolls := 0 } ∧ s.readyPut.now = s.now ∧
    s.readyPut.lampState = lpREADY ∧ ∀ g : Fld, g.off R.LAMP_STAT_STATE = true → s.readyPut.get g = s.get g :=
  ⟨State.put_lamp .., State.put_now .., State.get_put_fits _ (by decide) (by decide), fun _ hg => State.get_put_off _ hg⟩

theorem State.lampReady_eq : s.lampReady = if s.lampState = lpIDENT || (s.lampState = lpABSENT && s.lamp.readPos = 5) then s.readyPut.lampChange else s := rfl

theorem setAct_off {k : Nat} (hk : k < 8) : (R.LAMP_SETk_ACT k).reg / 4096 = 0x2A ∧ (R.LAMP_SETk_ACT k).off R.LAMP_STAT_STATE = true ∧
    (R.LAMP_SETk_ACT k).clear (toldFields E.LAMP_CHANGED) = true := by
  have hall : ∀ k < 8, (R.LAMP_SETk_ACT k).reg / 4096 = 0x2A ∧ (R.LAMP_SETk_ACT k).off R.LAMP_STAT_STATE = true ∧
    (R.LAMP_SETk_ACT k).clear (toldFields E.LAMP_CHANGED) = true := by decide
  exact hall k hk

theorem State.lampReady_shows : s.lampReady.now = s.now ∧ s.lampReady.lamp.req = s.lamp.req ∧ s.lampReady.lamp.applied = s.lamp.applied ∧
    (s.lampState = lpIDENT → s.lampReady.lampState = lpREADY) ∧ ∀ k, k < 8 → s.lampReady.get (R.LAMP_SETk_ACT k) = s.get (R.LAMP_SETk_ACT k) := by
  rw [State.lampReady_eq]
  split
  · obtain ⟨hlamp, hnow, hstate, hget⟩ := s.readyPut_shows
    generalize s.readyPut = v at hlamp hnow hstate hget ⊢
    obtain ⟨hchange, hchangeNow, hchangeGet⟩ := v.lampChange_shows
    refine ⟨hchangeNow.trans hnow, by rw [hchange, hlamp], by rw [hchange, hlamp], fun _ => (hchangeGet _ (by decide) (by decide)).trans hstate, fun k hk => ?_⟩
    obtain ⟨hpage, hoff, hclear⟩ := setAct_off hk
    exact (hchangeGet _ hpage hclear).trans (hget _ hoff)
  · next hnot => exact ⟨rfl, rfl, rfl, fun h => absurd (by rw [h]; rfl) hnot, fun _ _ => rfl⟩

/-- ACT shows the set-points sent. -/
def State.actShow (s : State) : State := (List.range 8).foldl (fun s k => s.put (R.LAMP_SETk_ACT k) (s.lamp.sentSet.getD k 0)) s

theorem State.actShow_to (n : Nat) (hn : n ≤ 8) : ∃ t, t = (List.range n).foldl (fun s k => s.put (R.LAMP_SETk_ACT k) (s.lamp.sentSet.getD k 0)) s ∧
    t.lamp = s.lamp ∧ t.now = s.now ∧ t.lampState = s.lampState ∧ ∀ k, k < n → t.get (R.LAMP_SETk_ACT k) = s.lamp.sentSet.getD k 0 % 1024 := by
  induction n with
  | zero => exact ⟨s, rfl, rfl, rfl, rfl, fun k hk => absurd hk (Nat.not_lt_zero k)⟩
  | succ n ih =>
    obtain ⟨t, ht, hlamp, hnow, hstate, hget⟩ := ih (by omega)
    refine ⟨_, rfl, ?_⟩
    rw [List.range_succ, List.foldl_append, ← ht, List.foldl_cons, List.foldl_nil]
    have hstat : R.LAMP_STAT_STATE.reg ≠ (R.LAMP_SETk_ACT n).reg := by
      simp only [R.LAMP_STAT_STATE, R.LAMP_SETk_ACT]
      omega
    refine ⟨(State.put_lamp ..).trans hlamp, (State.put_now ..).trans hnow, (t.get_put_reg _ hstat).trans hstate, fun k hk => ?_⟩
    by_cases hkn : k = n
    · rw [hkn, t.get_put_same (f := R.LAMP_SETk_ACT n) _ (Nat.le_of_ble_eq_true rfl), hlamp]
      rfl
    · have hne : (R.LAMP_SETk_ACT k).reg ≠ (R.LAMP_SETk_ACT n).reg := by
        simp only [R.LAMP_SETk_ACT]
        omega
      exact (t.get_put_reg _ hne).trans (hget k (by omega))

theorem State.actShow_shows : s.actShow.lamp = s.lamp ∧ s.actShow.now = s.now ∧ s.actShow.lampState = s.lampState ∧
    ∀ k, k < 8 → s.actShow.get (R.LAMP_SETk_ACT k) = s.lamp.sentSet.getD k 0 % 1024 := by
  obtain ⟨t, ht, hall⟩ := State.actShow_to (s := s) 8 (Nat.le_refl 8)
  rw [State.actShow, ← ht]
  exact hall

/-- The next tick edge is LAMP_APPLIED. -/
def State.lampApplies (s : State) : State := s.setLamp { s.lamp with applied := true }

theorem State.lampApplies_shows : s.lampApplies.lamp = { s.lamp with applied := true } ∧ s.lampApplies.now = s.now ∧ ∀ g, s.lampApplies.get g = s.get g :=
  ⟨rfl, rfl, fun _ => rfl⟩

theorem State.lampSetDone_eq : s.lampSetDone = s.actShow.lampApplies.lampReady := rfl

theorem State.lampResponse_set {r : LhReq} {st : Nat} (n : Nat) (hst : st < 256) (hreq : s.lamp.req = some r) (hkind : r.kind = 0x10) (hok : bit st 0 = true) :
    s.lampResponse lhSync (lhHalves [st, 0, crc8 [st, 0]]) n = (s.at n).lampFreed.actShow.lampApplies.lampReady := by
  have hset : r.kind = cmdSETI := hkind
  unfold State.lampResponse
  rw [hreq]
  dsimp only
  rw [if_pos rfl, lhAnswer_bare hst, hset]
  dsimp only
  rw [hok, if_neg (by simp [cmdSETI, cmdREAD, cmdSTAT]), if_neg (by decide), if_pos rfl, State.lampSetDone_eq]
  rfl

theorem lhResponse_set {r : LhReq} (st : Byte) (u : Nat) (hreq : s.lamp.req = some r) (hkind : r.kind = 0x10) (hok : bit st.toNat 0 = true) :
    goesOn (exec (.lhResponse lhSync (lhHalves [st.toNat, 0, crc8 [st.toNat, 0]]) u) s) fun t =>
      t.now = max s.now u ∧ t.lamp.req = none ∧ t.lamp.applied = true ∧ (s.lampState = lpIDENT → t.lampState = lpREADY) ∧
      ∀ k, k < 8 → t.get (R.LAMP_SETk_ACT k) = s.lamp.sentSet.getD k 0 % 1024 := by
  have hexec : exec (.lhResponse lhSync (lhHalves [st.toNat, 0, crc8 [st.toNat, 0]]) u) s =
      .next (s.lampResponse lhSync (lhHalves [st.toNat, 0, crc8 [st.toNat, 0]]) u) := rfl
  rw [hexec, State.lampResponse_set u st.isLt hreq hkind hok]
  refine ⟨_, rfl, ?_⟩
  have hfreed : (s.at u).lampFreed.lamp.req = none ∧ (s.at u).lampFreed.lamp.sentSet = s.lamp.sentSet ∧ (s.at u).lampFreed.now = max s.now u ∧
      (s.at u).lampFreed.lampState = s.lampState := ⟨rfl, rfl, rfl, rfl⟩
  obtain ⟨hnone, hsent, hnow, hstate⟩ := hfreed
  generalize (s.at u).lampFreed = v at hnone hsent hnow hstate ⊢
  obtain ⟨hlamp, hshowNow, hshowState, hact⟩ := v.actShow_shows
  generalize v.actShow = w at hlamp hshowNow hshowState hact ⊢
  obtain ⟨happlies, happliesNow, happliesGet⟩ := w.lampApplies_shows
  generalize w.lampApplies = x at happlies happliesNow happliesGet ⊢
  obtain ⟨hreadyNow, hreadyReq, hreadyApplied, hready, hreadyGet⟩ := x.lampReady_shows
  generalize x.lampReady = y at hreadyNow hreadyReq hreadyApplied hready hreadyGet ⊢
  have hxstate : x.lampState = s.lampState := (happliesGet _).trans (hshowState.trans hstate)
  refine ⟨by rw [hreadyNow, happliesNow, hshowNow, hnow], by rw [hreadyReq, happlies, hlamp, hnone], by rw [hreadyApplied, happlies],
    fun h => hready (hxstate.trans h), fun k hk => ?_⟩
  rw [hreadyGet k hk, happliesGet, hact k hk, hsent]

/-- Settles O56: one lemma per command of the lamphouse link: its power, identification, trip, requests, signature, retries and responses. -/
theorem lamphouseLink : Obligations.LamphouseLink := by
  unfold Obligations.LamphouseLink
  exact ⟨fun _ v hserved hold hv => lampPwrWrite_rises v hserved hold hv, fun _ v hserved hold hv => lampPwrWrite_falls v hserved hold hv,
    fun _ u hstate hdom => lampIdent_shown u hstate hdom, fun _ hsw => lampOverload_shown hsw,
    fun _ hfree hstate hpos hoff => lhRead_shown hfree hstate hpos hoff, fun _ hstate hpos => sigVerify_shown hstate hpos,
    fun _ hfree hdue hready hoff => lhSeti_shown hfree hdue hready hoff, fun _ hfree hstate hoff => lhLifeAdd_shown hfree hstate hoff,
    fun _ hfree hstate hoff => lhStat_shown hfree hstate hoff, fun _ _ hreq => lhRetry_shown hreq,
    fun _ _ sync cells u hreq hbad htries => lhResponse_bad sync cells u hreq hbad htries,
    fun _ _ st u hreq hkind hok => lhResponse_set st u hreq hkind hok⟩

end Sys2Proof.Machine
end

/-! PROOFS. O53: the chain's time, echoes, restoration and monitors (R298, R299, R303, R306, R308). -/
section
-- One theorem after the other: the default proofs of the side conditions below are run by the elaborator, which waits for all that stands before.
set_option Elab.async false
namespace Sys2Proof.Machine

variable {b : Bool} {s t u : State} {L : List Nat}

/-! ## The chain's own state -/

theorem State.setChain_shows (c : Chain) : (s.setChain c).chain = c ∧ (s.setChain c).now = s.now ∧ (∀ g, (s.setChain c).get g = s.get g) ∧
    only s (s.setChain c) L := ⟨rfl, rfl, fun _ => rfl, only_of_eq rfl rfl rfl rfl rfl⟩

/-! ## TIME and CTHI -/

/-- The error of a received chain time against the own (R298). -/
def State.timeErr (s : State) (rcv n : Nat) : Int := (rcv : Int) + s.linkNs - (s.at n).chainTime n

theorem timeBlk_outlier (ct : BitVec 48) (q : Byte) (u : Nat) (hup : chainUp s) (hlock : s.on R.CHAIN_STAT_CT_LOCK = true)
    (herr : 50 < (s.timeErr (nearest 48 ((s.at u).chainTime u) ct.toNat) u).natAbs) : goesOn (exec (.timeBlk ct q u) s) fun t => t = s.at u := by
  obtain ⟨hchained, hport⟩ := hup
  have hexec : exec (.timeBlk ct q u) s = .next (s.timeBlock ct.toNat u) := rfl
  have hat : (s.at u).on R.CHAIN_STAT_CT_LOCK = true := hlock
  have hbad : 50 < ((nearest 48 ((s.at u).chainTime u) ct.toNat : Int) + (s.at u).linkNs - (s.at u).chainTime u).natAbs := herr
  refine ⟨_, hexec, ?_⟩
  unfold State.timeBlock
  rw [if_neg (by simp [hchained, hport])]
  dsimp only
  rw [hat, if_pos rfl, if_pos (by rw [Bool.true_and, decide_eq_true hbad])]

/-- Chain time is stepped to what was received. -/
def State.timeStep (s : State) (rcv n : Nat) : State := s.setChain { s.chain with lastTime := some n, okRun := 0, ctBase := rcv, ctAt := n }

theorem timeBlk_step (ct : BitVec 48) (q : Byte) (u : Nat) (hup : chainUp s) (hlock : s.on R.CHAIN_STAT_CT_LOCK = false)
    (herr : 1000 < (s.timeErr (s.chain.ctHigh * 2 ^ 48 + ct.toNat) u).natAbs) : goesOn (exec (.timeBlk ct q u) s) fun t =>
      t.chain.ctBase = s.chain.ctHigh * 2 ^ 48 + ct.toNat ∧ t.chain.ctAt = u ∧ t.chain.lastTime = some u ∧ t.chain.okRun = 0 ∧
      only s t [R.CHAIN_CT_ERR_E.reg] := by
  obtain ⟨hchained, hport⟩ := hup
  have hct : ct.toNat % 2 ^ 48 = ct.toNat := Nat.mod_eq_of_lt ct.isLt
  have hat : (s.at u).on R.CHAIN_STAT_CT_LOCK = false := hlock
  have hatChain : (s.at u).chain = s.chain := rfl
  have hatErr : s.timeErr (s.chain.ctHigh * 2 ^ 48 + ct.toNat) u =
    ((s.chain.ctHigh * 2 ^ 48 + ct.toNat : Nat) : Int) + (s.at u).linkNs - (s.at u).chainTime u := rfl
  have hatOnly : only s (s.at u) [R.CHAIN_CT_ERR_E.reg] := only_at s u
  have hexec : exec (.timeBlk ct q u) s = .next (((s.at u).put R.CHAIN_CT_ERR_E
      (ofSigned 16 (clampI (-32768) 32767 (s.timeErr (s.chain.ctHigh * 2 ^ 48 + ct.toNat) u)))).timeStep (s.chain.ctHigh * 2 ^ 48 + ct.toNat) u) := by
    show Host.Outcome.next (s.timeBlock ct.toNat u) = _
    unfold State.timeBlock
    rw [if_neg (by simp [hchained, hport])]
    dsimp only
    rw [hat, if_neg Bool.false_ne_true, hct, hatChain, ← hatErr, Bool.false_and, if_neg Bool.false_ne_true, Bool.not_false, Bool.true_and,
      decide_eq_true herr, if_pos rfl, if_neg (by omega)]
    rfl
  refine ⟨_, hexec, ?_⟩
  generalize s.timeErr (s.chain.ctHigh * 2 ^ 48 + ct.toNat) u = e
  generalize s.chain.ctHigh * 2 ^ 48 + ct.toNat = rcv
  generalize s.at u = v at hatOnly ⊢
  have hput : only v (v.put R.CHAIN_CT_ERR_E (ofSigned 16 (clampI (-32768) 32767 e))) [R.CHAIN_CT_ERR_E.reg] := only_put _ (by decide)
  generalize v.put R.CHAIN_CT_ERR_E (ofSigned 16 (clampI (-32768) 32767 e)) = w at hput ⊢
  exact ⟨rfl, rfl, rfl, rfl, only_trans hatOnly (only_trans hput (only_of_eq rfl rfl rfl rfl rfl))⟩

theorem cthiBlk_shown (hi : Half) (hup : chainUp s) : goesOn (exec (.cthiBlk hi) s) fun t => t.chain.ctHigh = hi.toNat ∧ only s t [] := by
  obtain ⟨hchained, hport⟩ := hup
  have hexec : exec (.cthiBlk hi) s = .next (s.setChain { s.chain with ctHigh := hi.toNat }) := by
    show execCthiBlk hi s = _
    unfold execCthiBlk
    rw [if_pos (by simp [hchained, hport])]
  exact ⟨_, hexec, rfl, only_of_eq rfl rfl rfl rfl rfl⟩

/-- A TIME block is due. -/
def State.timeDue (s : State) : State := match s.chain.sentAt with | none => s | some u => s.at (u + 10 * usClk)

theorem State.timeDue_shows : s.timeDue.chain = s.chain ∧ s.timeDue.wire = s.wire ∧ only s s.timeDue [] := by
  unfold State.timeDue
  split
  · exact ⟨rfl, rfl, only_refl⟩
  · exact ⟨rfl, rfl, only_at s _⟩

/-- The counter of TIME blocks moves on. -/
def State.timeSent (s : State) : State := s.setChain { s.chain with timeSeq := s.chain.timeSeq + 1, sentAt := some s.now }

theorem State.chainTime_of (h : t.chain = s.chain) (n : Nat) : t.chainTime n = s.chainTime n := by rw [State.chainTime, h, State.chainTime]

theorem State.timeSent_shows : s.timeSent.chain.timeSeq = s.chain.timeSeq + 1 ∧ s.timeSent.chain.sentAt = some s.now ∧ s.timeSent.now = s.now ∧
    s.timeSent.wire = s.wire ∧ only s s.timeSent [] := ⟨rfl, rfl, rfl, rfl, only_of_eq rfl rfl rfl rfl rfl⟩

/-- A block leaves a port, and nothing else happens. -/
theorem State.sendBlock_shows (p : Nat) (bs : List Nat) : (s.sendBlock p bs).wire = s.wire ++ [blockOut s p bs] ∧ (s.sendBlock p bs).chain = s.chain ∧
    (s.sendBlock p bs).now = s.now ∧ only s (s.sendBlock p bs) [] := ⟨rfl, rfl, rfl, only_of_eq rfl rfl rfl rfl rfl⟩

theorem blockOut_of_now (h : t.now = s.now) (p : Nat) (bs : List Nat) : blockOut t p bs = blockOut s p bs := by rw [blockOut, h, blockOut]

theorem timeSend_shown (hdown : s.act R.CHAIN_CTRL_DOWN_EN = 1) (hport : s.portState 2 = rpUP) : goesOn (exec .timeSend s) fun t =>
    t.chain.timeSeq = s.chain.timeSeq + 1 ∧ t.chain.sentAt = some t.now ∧ only s t [] ∧
    ∃ more, t.wire = s.wire ++ blockOut t 2 (0x2F :: leBytes 6 (s.chainTime t.now) ++ [s.chain.timeSeq % 256]) :: more := by
  obtain ⟨hchain, hwire, honly⟩ := s.timeDue_shows
  obtain ⟨high, hexec⟩ : ∃ high, exec .timeSend s = .next (if s.timeDue.chain.timeSeq % 100 = 0 then
      (s.timeDue.timeSent.sendBlock 2 (0x2F :: leBytes 6 (s.timeDue.chainTime s.timeDue.now) ++ [s.timeDue.chain.timeSeq % 256])).sendBlock 2 high
      else s.timeDue.timeSent.sendBlock 2 (0x2F :: leBytes 6 (s.timeDue.chainTime s.timeDue.now) ++ [s.timeDue.chain.timeSeq % 256])) := by
    refine ⟨0x3C :: leBytes 2 (s.timeDue.chainTime s.timeDue.now / 2 ^ 48) ++ [0, 0, 0, 0, 0], ?_⟩
    show Host.Outcome.next s.timeSend = _
    unfold State.timeSend
    rw [if_neg (by simp [hdown, hport])]
    rfl
  refine ⟨_, hexec, ?_⟩
  rw [← hchain, ← hwire]
  have htime (n : Nat) : s.timeDue.chainTime n = s.chainTime n := State.chainTime_of hchain n
  rw [htime]
  generalize s.timeDue = v at honly ⊢
  obtain ⟨hseq, hat, hnow, hsentWire, hsent⟩ := v.timeSent_shows
  rw [← hnow] at hat ⊢
  generalize v.timeSent = w at hseq hat hnow hsentWire hsent ⊢
  generalize hbs : 0x2F :: leBytes 6 (s.chainTime w.now) ++ [v.chain.timeSeq % 256] = bs
  obtain ⟨houtWire, houtChain, houtNow, hout⟩ := w.sendBlock_shows 2 bs
  generalize w.sendBlock 2 bs = x at houtWire houtChain houtNow hout ⊢
  have hxonly := only_trans honly (only_trans hsent hout)
  split
  · obtain ⟨hmoreWire, hmoreChain, hmoreNow, hmore⟩ := x.sendBlock_shows 2 high
    generalize x.sendBlock 2 high = y at hmoreWire hmoreChain hmoreNow hmore ⊢
    have hynow : y.now = w.now := hmoreNow.trans houtNow
    refine ⟨by rw [hmoreChain, houtChain, hseq], by rw [hmoreChain, houtChain, hat, hynow], only_trans hxonly hmore, [blockOut x 2 high], ?_⟩
    rw [hynow, hbs, hmoreWire, houtWire, hsentWire, blockOut_of_now hynow, List.append_assoc]
    rfl
  · refine ⟨by rw [houtChain, hseq], by rw [houtChain, hat, houtNow], hxonly, [], ?_⟩
    rw [houtNow, hbs, houtWire, hsentWire, blockOut_of_now houtNow]

/-! ## Echoes -/

theorem echoBlk_shown (p : Fin 3) (id : Byte) (u : Nat) (hport : s.portState p.val = rpUP) : goesOn (exec (.echoBlk p false id u) s) fun t =>
    t.now = max s.now u ∧ t.chain = s.chain ∧ only s t [] ∧
    t.wire = s.wire ++ [{ port := p.val, type := 0x66, bytes := [0x66, 1, id.toNat, 0, 0, 0, 0, 0], time := t.now + 20 }] := by
  have hexec : exec (.echoBlk p false id u) s =
      .next ((s.at u).sendBlockAt ((s.at u).now + 20) p.val [0x66, 1, id.toNat, 0, 0, 0, 0, 0]) := by
    show Host.Outcome.next (s.echo p.val false id.toNat u) = _
    unfold State.echo
    rw [if_neg (not_not_intro hport)]
    exact congrArg _ (if_pos rfl)
  exact ⟨_, hexec, rfl, rfl, only_of_eq rfl rfl rfl rfl rfl, rfl⟩

/-- One ECHO request. -/
def State.echoAsk (s : State) : State :=
  (s.setChain { s.chain with echoId := (s.chain.echoId + 1) % 256, echoes := s.chain.echoes ++ [(s.chain.echoId, s.now)] }).sendBlock 1
    [0x66, 0, s.chain.echoId, 0, 0, 0, 0, 0]

theorem State.echoAsk_shows : s.echoAsk.chain.echoes.length = s.chain.echoes.length + 1 ∧ s.echoAsk.chain.trips = s.chain.trips ∧
    s.echoAsk.wire.length = s.wire.length + 1 ∧ s.echoAsk.now = s.now ∧ only s s.echoAsk [] :=
  ⟨List.length_append, rfl, List.length_append, rfl, only_of_eq rfl rfl rfl rfl rfl⟩

theorem State.echoAsks_shows (n : Nat) : ∃ t, t = (List.range n).foldl (fun s _ => s.echoAsk) s ∧
    t.chain.echoes.length = s.chain.echoes.length + n ∧ t.chain.trips = s.chain.trips ∧ t.wire.length = s.wire.length + n ∧ t.now = s.now ∧
    only s t [] := by
  induction n with
  | zero => exact ⟨s, rfl, rfl, rfl, rfl, rfl, only_refl⟩
  | succ n ih =>
    obtain ⟨t, ht, hechoes, htrips, hwire, hnow, honly⟩ := ih
    obtain ⟨h1, h2, h3, h4, h5⟩ := t.echoAsk_shows
    refine ⟨t.echoAsk, ?_, ?_, h2.trans htrips, ?_, h4.trans hnow, only_trans honly h5⟩
    · rw [List.range_succ, List.foldl_append, ← ht, List.foldl_cons, List.foldl_nil]
    · rw [h1, hechoes, Nat.add_assoc]
    · rw [h3, hwire, Nat.add_assoc]

theorem linkDelayMeasure_shown (u : Nat) (hport : s.portState 1 = rpUP) : goesOn (exec (.linkDelayMeasure u) s) fun t =>
    t.chain.echoes.length = 16 ∧ t.chain.trips = [] ∧ t.wire.length = s.wire.length + 16 ∧ t.now = max s.now u ∧ only s t [] := by
  have hexec : exec (.linkDelayMeasure u) s =
      .next ((List.range 16).foldl (fun s _ => s.echoAsk) ((s.at u).setChain { s.chain with echoes := [], trips := [] })) := by
    show Host.Outcome.next (s.linkMeasure u) = _
    unfold State.linkMeasure
    rw [if_neg (not_not_intro hport)]
    rfl
  obtain ⟨t, ht, hechoes, htrips, hwire, hnow, honly⟩ := ((s.at u).setChain { s.chain with echoes := [], trips := [] }).echoAsks_shows 16
  rw [hexec, ← ht]
  exact ⟨_, rfl, hechoes, htrips, hwire, hnow, only_trans (only_of_eq rfl rfl rfl rfl rfl) honly⟩

/-! ## CT_LOCK, restoration, monitors -/

theorem ctLockTimeout_shown {u : Nat} (hlast : s.chain.lastTime = some u) (hlock : s.on R.CHAIN_STAT_CT_LOCK = true) :
    goesOn (exec .ctLockTimeout s) fun t => t.get R.CHAIN_STAT_CT_LOCK = 0 ∧ t.now = max s.now (u + 100 * usClk) ∧ told s t E.RIDGE_CT_LOCK_LOST ∧
      only s t (R.CHAIN_STAT_CT_LOCK.reg :: toldRegs E.RIDGE_CT_LOCK_LOST) := by
  have hexec : exec .ctLockTimeout s = .next ((((s.at (u + 100 * usClk)).setChain { s.chain with okRun := 0 }).put R.CHAIN_STAT_CT_LOCK 0).raise
      E.RIDGE_CT_LOCK_LOST) := by
    show execCtLockTimeout s = _
    unfold execCtLockTimeout
    rw [hlast]
    dsimp only
    rw [if_pos hlock]
    exact congrArg _ (if_pos hlock)
  refine ⟨_, hexec, ?_⟩
  have hstart : only s ((s.at (u + 100 * usClk)).setChain { s.chain with okRun := 0 }) (R.CHAIN_STAT_CT_LOCK.reg :: toldRegs E.RIDGE_CT_LOCK_LOST) ∧
      ((s.at (u + 100 * usClk)).setChain { s.chain with okRun := 0 }).now = max s.now (u + 100 * usClk) ∧
      ∀ g, ((s.at (u + 100 * usClk)).setChain { s.chain with okRun := 0 }).get g = s.get g := ⟨only_of_eq rfl rfl rfl rfl rfl, rfl, fun _ => rfl⟩
  obtain ⟨honly, hnow, hget⟩ := hstart
  generalize (s.at (u + 100 * usClk)).setChain { s.chain with okRun := 0 } = v at honly hnow hget ⊢
  refine ⟨(State.get_raise_clear (by decide)).trans (State.get_put_fits _ (by decide) (by decide)), ?_, ?_,
    only_trans honly (only_trans (only_put _ List.mem_cons_self) (only_raise fun _ h => List.mem_cons_of_mem _ h))⟩
  · rw [State.raise_now, State.put_now, hnow]
  · refine told_raise_of_cnt (by decide) fun b hb => ?_
    obtain rfl : 0 = b := Option.some.inj hb
    exact (State.get_put_off _ (by decide)).trans (hget _)

/-- An event joins a queue that is not full. -/
theorem State.chainEvent_short {code n : Nat} (h : s.evtQ.length < 64) : s.chainEvent code n = { s with evtQ := s.evtQ ++
    [{ code := cCHAIN, source := 0, tickno := s.tick.tickno, detail := padTo 16 ([code, 0, 0, 0, 0, 0, 0, 0] ++ leBytes 8 n), vc := s.get R.RIDGE_CFG_EVT_VC }] } := by
  unfold State.chainEvent State.event State.eventOn
  exact if_pos h

theorem tokenRestore_shown (hlost : s.on R.CHAIN_STAT_LOST = true) (hport : s.portState 1 = rpUP) (hlock : s.on R.CHAIN_STAT_CT_LOCK = true)
    (hvalid : 16 ≤ s.chain.valid) (hq : s.evtQ.length < 64) : goesOn (exec .tokenRestore s) fun t =>
      t.get R.CHAIN_STAT_LOST = 0 ∧ t.evtQ.length = s.evtQ.length + 1 ∧ only s t [R.CHAIN_STAT_LOST.reg] := by
  have hexec : exec .tokenRestore s = .next ((s.put R.CHAIN_STAT_LOST 0).chainEvent 4 s.chainNext) := by
    show Host.Outcome.next s.tokenRestore = _
    unfold State.tokenRestore
    rw [if_pos (by simp [hlost, hport, hlock, hvalid])]
  rw [hexec]
  have hzero : (s.put R.CHAIN_STAT_LOST 0).get R.CHAIN_STAT_LOST = 0 := State.get_put_fits _ (by decide) (by decide)
  have hputQ : (s.put R.CHAIN_STAT_LOST 0).evtQ = s.evtQ := State.put_evtQ ..
  have honly : only s (s.put R.CHAIN_STAT_LOST 0) [R.CHAIN_STAT_LOST.reg] := only_put _ (by decide)
  generalize s.put R.CHAIN_STAT_LOST 0 = v at hzero hputQ honly ⊢
  rw [State.chainEvent_short (by rw [hputQ]; exact hq)]
  refine ⟨_, rfl, hzero, ?_, only_trans honly (only_of_eq rfl rfl rfl rfl rfl)⟩
  rw [← hputQ]
  exact List.length_append

theorem tnoSend_shown (hup : chainUp s) : goesOn (exec .tnoSend s) fun t =>
    t.wire = s.wire ++ [blockOut s 1 (0x5A :: leBytes 7 s.tick.tickno)] ∧ only s t [] := by
  obtain ⟨hchained, hport⟩ := hup
  have hexec : exec .tnoSend s = .next (s.sendBlock 1 (0x5A :: leBytes 7 s.tick.tickno)) := by
    show execTnoSend s = _
    unfold execTnoSend
    rw [if_pos (by simp [hchained, hport])]
  exact ⟨_, hexec, rfl, only_of_eq rfl rfl rfl rfl rfl⟩

theorem chainMonClr_shown (hserved : s.served 0x023 = true) : goesOn (exec .chainMonClr s) fun t =>
    t.get R.CHAIN_LAT_MAX_NS = 0 ∧ t.get R.CHAIN_MARGIN_MIN_NS = 0x7FFFFFFF ∧ t.get R.CHAIN_STAT_LEAD_OK = 0 ∧ t.chain.leadRun = 0 ∧
    only s t [R.CHAIN_LAT_MAX_NS.reg, R.CHAIN_MARGIN_MIN_NS.reg, R.CHAIN_STAT_LEAD_OK.reg] := by
  have hexec : exec .chainMonClr s = .next ((((s.setChain { s.chain with leadRun := 0 }).put R.CHAIN_LAT_MAX_NS 0).put R.CHAIN_MARGIN_MIN_NS 0x7FFFFFFF).put
      R.CHAIN_STAT_LEAD_OK 0) := by
    show execChainMonClr s = _
    unfold execChainMonClr
    rw [if_pos hserved]
    rfl
  refine ⟨_, hexec, ?_⟩
  have hset : (s.setChain { s.chain with leadRun := 0 }).chain.leadRun = 0 ∧
      only s (s.setChain { s.chain with leadRun := 0 }) [R.CHAIN_LAT_MAX_NS.reg, R.CHAIN_MARGIN_MIN_NS.reg, R.CHAIN_STAT_LEAD_OK.reg] :=
    ⟨rfl, only_of_eq rfl rfl rfl rfl rfl⟩
  obtain ⟨hrun, honly⟩ := hset
  generalize s.setChain { s.chain with leadRun := 0 } = v at hrun honly ⊢
  refine ⟨(State.get_put_off _ (by decide)).trans ((State.get_put_off _ (by decide)).trans (State.get_put_fits _ (by decide) (by decide))),
    (State.get_put_off _ (by decide)).trans (State.get_put_fits _ (by decide) (by decide)), State.get_put_fits _ (by decide) (by decide), ?_,
    only_trans honly (only_trans (only_trans (only_put _ (by decide)) (only_put _ (by decide))) (only_put _ (by decide)))⟩
  rw [State.put_chain, State.put_chain, State.put_chain, hrun]

end Sys2Proof.Machine
end

/-! PROOFS. O53: tokens lost, tokens taken and TICKNO's advance, and the chain as stated (R298–R308). -/
section
-- One theorem after the other: the default proofs of the side conditions below are run by the elaborator, which waits for all that stands before.
set_option Elab.async false
namespace Sys2Proof.Machine

variable {b : Bool} {s t u : State} {L : List Nat}

/-! ## Fallback -/

/-- The fields that fallback's beginning changes. -/
def fallbackFields : List Fld :=
  [R.TICK_STAT_SRC_ACT, R.CHAIN_STAT_FALLBACK, R.CHAIN_FB_FIRST_LO_TICKNO, R.CHAIN_FB_FIRST_HI_TICKNO, R.TICK_TPRED_T] ++
    toldFields E.RIDGE_FB_ENTER ++ toldFields E.RIDGE_EVT_DROP

/-- What fallback shows as it begins. -/
def State.fallbackShown (s : State) (n : Nat) : State :=
  (((((s.put R.TICK_STAT_SRC_ACT srcENCODER).put R.CHAIN_STAT_FALLBACK 1).put64 R.CHAIN_FB_FIRST_LO_TICKNO R.CHAIN_FB_FIRST_HI_TICKNO n).raise
    E.RIDGE_FB_ENTER).divTpred)

theorem State.divTpred_shows : s.divTpred.chain = s.chain ∧ ∀ g : Fld, g.off R.TICK_TPRED_T = true → s.divTpred.get g = s.get g := by
  unfold State.divTpred
  split
  · exact ⟨rfl, fun _ _ => rfl⟩
  split
  · exact ⟨rfl, fun _ _ => rfl⟩
  · exact ⟨State.put_chain .., fun g hg => State.get_put_off _ hg⟩

theorem State.fallbackShown_shows (n : Nat) : (s.fallbackShown n).chain = s.chain ∧ (s.fallbackShown n).on R.CHAIN_STAT_FALLBACK = true ∧
    ∀ g : Fld, g.clear fallbackFields = true → (s.fallbackShown n).get g = s.get g := by
  have hchain : ((((s.put R.TICK_STAT_SRC_ACT srcENCODER).put R.CHAIN_STAT_FALLBACK 1).put64 R.CHAIN_FB_FIRST_LO_TICKNO R.CHAIN_FB_FIRST_HI_TICKNO
      n).raise E.RIDGE_FB_ENTER).chain = s.chain := by
    rw [State.raise_chain, State.put64_chain, State.put_chain, State.put_chain]
  have hone : ((((s.put R.TICK_STAT_SRC_ACT srcENCODER).put R.CHAIN_STAT_FALLBACK 1).put64 R.CHAIN_FB_FIRST_LO_TICKNO R.CHAIN_FB_FIRST_HI_TICKNO
      n).raise E.RIDGE_FB_ENTER).get R.CHAIN_STAT_FALLBACK = 1 :=
    (State.get_raise_clear (by decide)).trans ((State.get_put_off _ (by decide)).trans ((State.get_put_off _ (by decide)).trans
      (State.get_put_fits _ (by decide) (by decide))))
  have hget (g : Fld) (hc : g.clear fallbackFields = true) : ((((s.put R.TICK_STAT_SRC_ACT srcENCODER).put R.CHAIN_STAT_FALLBACK 1).put64
      R.CHAIN_FB_FIRST_LO_TICKNO R.CHAIN_FB_FIRST_HI_TICKNO n).raise E.RIDGE_FB_ENTER).get g = s.get g := by
    have hoff := Fld.clear_iff.mp hc
    have hev : toldFields E.RIDGE_FB_ENTER ⊆ fallbackFields := by decide
    exact (State.get_raise_clear (Fld.clear_iff.mpr fun f hf => hoff f (hev hf))).trans ((State.get_put_off _ (hoff _ (by decide))).trans
      ((State.get_put_off _ (hoff _ (by decide))).trans ((State.get_put_off _ (hoff _ (by decide))).trans (State.get_put_off _ (hoff _ (by decide))))))
  unfold State.fallbackShown
  generalize (((s.put R.TICK_STAT_SRC_ACT srcENCODER).put R.CHAIN_STAT_FALLBACK 1).put64 R.CHAIN_FB_FIRST_LO_TICKNO R.CHAIN_FB_FIRST_HI_TICKNO
      n).raise E.RIDGE_FB_ENTER = v at hchain hone hget ⊢
  obtain ⟨hdivChain, hdivGet⟩ := v.divTpred_shows
  refine ⟨hdivChain.trans hchain, ?_, fun g hc => (hdivGet _ (Fld.clear_iff.mp hc _ (by decide))).trans (hget g hc)⟩
  rw [State.on_of_get (hdivGet _ (by decide)), State.on, hone]
  rfl

theorem State.pushTick_chain (d : DerTick) : (s.pushTick d).chain = s.chain := by
  unfold State.pushTick
  dsimp only
  split
  · rfl
  · split
    · rfl
    · exact List.foldlRecOn (motive := fun u : State => u.chain = s.chain) _ _ rfl fun u hu _ _ => hu

theorem State.fallbackTicks_shows (n : Nat) : (State.fallbackTicks n s).chain = s.chain ∧ ∀ g, (State.fallbackTicks n s).get g = s.get g := by
  induction n generalizing s with
  | zero => exact ⟨rfl, fun _ => rfl⟩
  | succ n ih =>
    unfold State.fallbackTicks
    dsimp only
    split
    · obtain ⟨hchain, hget⟩ := ih
      refine ⟨hchain.trans (State.pushTick_chain _), fun g => (hget g).trans ?_⟩
      exact State.pushTick_get _ g
    · exact ⟨rfl, fun _ => rfl⟩

theorem State.chainEvent_shows (code n : Nat) : (s.chainEvent code n).chain = s.chain ∧
    ∀ g : Fld, g.clear (toldFields E.RIDGE_EVT_DROP) = true → (s.chainEvent code n).get g = s.get g := by
  have hq (q : List Event) : ({ s with evtQ := q } : State).chain = s.chain ∧ ∀ g, ({ s with evtQ := q } : State).get g = s.get g := ⟨rfl, fun _ => rfl⟩
  unfold State.chainEvent State.event State.eventOn
  dsimp only
  split
  · exact ⟨(hq _).1, fun g _ => (hq _).2 g⟩
  · exact ⟨(State.raise_chain ..).trans (hq _).1, fun g hc => (State.get_raise_clear hc).trans ((hq _).2 g)⟩

theorem State.enterFallback_ticks (n : Nat) :
    s.enterFallback n = (State.fallbackTicks (s.fallbackShown n).divTimes (s.fallbackShown n)).rePredict.chainEvent 1 n := rfl

theorem State.rePredict_shows : s.rePredict.chain = s.chain ∧ ∀ g, s.rePredict.get g = s.get g := ⟨rfl, fun _ => rfl⟩

theorem State.enterFallback_shows (n : Nat) : (s.enterFallback n).chain = s.chain ∧ (s.enterFallback n).on R.CHAIN_STAT_FALLBACK = true ∧
    ∀ g : Fld, g.clear fallbackFields = true → (s.enterFallback n).get g = s.get g := by
  rw [State.enterFallback_ticks]
  obtain ⟨hchain, hon, hget⟩ := s.fallbackShown_shows n
  generalize s.fallbackShown n = v at hchain hon hget ⊢
  obtain ⟨hticksChain, hticks⟩ := State.fallbackTicks_shows (s := v) v.divTimes
  generalize State.fallbackTicks v.divTimes v = w at hticksChain hticks ⊢
  obtain ⟨hpreChain, hpreGet⟩ := w.rePredict_shows
  generalize w.rePredict = x at hpreChain hpreGet ⊢
  obtain ⟨hevChain, hevGet⟩ := x.chainEvent_shows 1 n
  have hev : toldFields E.RIDGE_EVT_DROP ⊆ fallbackFields := by decide
  refine ⟨hevChain.trans (hpreChain.trans (hticksChain.trans hchain)), ?_, fun g hc => ?_⟩
  · rw [State.on_of_get ((hevGet _ (by decide)).trans ((hpreGet _).trans (hticks _))), hon]
  · exact (hevGet _ (Fld.clear_iff.mpr fun f hf => Fld.clear_iff.mp hc f (hev hf))).trans ((hpreGet _).trans ((hticks _).trans (hget g hc)))

/-! ## Tokens lost -/

/-- The tokens' run ends. -/
def State.tokensEnd (s : State) : State := s.setChain { s.chain with valid := 0, lastTok := none }

/-- What the loss of tokens shows and leaves. -/
structure TokensGone (s t : State) : Prop where
  lost : t.get R.CHAIN_STAT_LOST = 1
  told : t.get (intRawBit E.RIDGE_TOKEN_LOSS) = 1
  valid : t.chain.valid = 0
  lastTok : t.chain.lastTok = none
  get : ∀ g : Fld, g.clear (R.CHAIN_STAT_LOST :: toldFields E.RIDGE_TOKEN_LOSS) = true → t.get g = s.get g
  force : t.force = s.force
  pwr : t.pwr = s.pwr
  evtQ : t.evtQ = s.evtQ

theorem State.tokensGone_shows (hlost : s.on R.CHAIN_STAT_LOST = false) : TokensGone s s.tokensGone := by
  have heq : s.tokensGone = (s.tokensEnd.put R.CHAIN_STAT_LOST 1).raise E.RIDGE_TOKEN_LOSS := if_neg (by rw [hlost]; exact Bool.false_ne_true)
  rw [heq]
  have hend : s.tokensEnd.chain.valid = 0 ∧ s.tokensEnd.chain.lastTok = none ∧ s.tokensEnd.force = s.force ∧ s.tokensEnd.pwr = s.pwr ∧
      s.tokensEnd.evtQ = s.evtQ ∧ ∀ g, s.tokensEnd.get g = s.get g := ⟨rfl, rfl, rfl, rfl, rfl, fun _ => rfl⟩
  obtain ⟨hvalid, hlast, hforce, hpwr, hq, hget⟩ := hend
  generalize s.tokensEnd = v at hvalid hlast hforce hpwr hq hget ⊢
  refine ⟨(State.get_raise_clear (by decide)).trans (State.get_put_fits _ (by decide) (by decide)), State.get_raise _ _ (by decide), ?_, ?_, fun g hc => ?_,
    ?_, ?_, ?_⟩
  · rw [State.raise_chain, State.put_chain, hvalid]
  · rw [State.raise_chain, State.put_chain, hlast]
  · have hoff := Fld.clear_iff.mp hc
    exact (State.get_raise_clear (Fld.clear_iff.mpr fun f hf => hoff f (List.mem_cons_of_mem _ hf))).trans
      ((State.get_put_off _ (hoff _ List.mem_cons_self)).trans (hget g))
  · rw [State.raise_force, State.put_force, hforce]
  · rw [State.raise_pwr, State.put_pwr, hpwr]
  · rw [State.raise_evtQ, State.put_evtQ, hq]

section
variable (h : TokensGone s t)
include h

theorem TokensGone.inRun : t.inRun = s.inRun := by rw [State.inRun, State.power, h.get _ (by decide), h.pwr, State.inRun, State.power]

theorem TokensGone.on {g : Fld} (hc : g.clear (R.CHAIN_STAT_LOST :: toldFields E.RIDGE_TOKEN_LOSS) = true) : t.on g = s.on g := State.on_of_get (h.get g hc)

theorem TokensGone.chained : t.chained = s.chained := by rw [State.chained, State.act_of_force h.force, State.chained]

theorem TokensGone.modeAct : t.modeAct = s.modeAct := h.get _ (by decide)

theorem TokensGone.lostOn : t.on R.CHAIN_STAT_LOST = true := by
  rw [State.on, h.lost]
  rfl

end

/-- The token due has not come. -/
theorem tokenLoss_exec {n ct u : Nat} (hlast : s.chain.lastTok = some (n, ct)) (hchained : s.chained = true)
    (hlate : ct + 15 * s.get R.TICK_TPRED_T / 2 + 5 * s.leadClk < s.chainTime (max s.now u)) :
    exec (.tokenLoss u) s = .next (s.at u).tokensLost := by
  have hatChained : (s.at u).chained = true := hchained
  have hatLate : ct + 15 * (s.at u).get R.TICK_TPRED_T / 2 + 5 * (s.at u).leadClk < (s.at u).chainTime (s.at u).now := hlate
  show Host.Outcome.next (s.tokenTimeout u) = _
  unfold State.tokenTimeout
  rw [hlast]
  dsimp only
  rw [if_pos (by rw [hatChained, decide_eq_true hatLate]; rfl)]

/-- Fallback begins where the own encoder may take over. -/
def State.mayFallBack (s : State) : Bool :=
  s.inRun && decide (s.modeAct ≠ 2) && decide (s.act R.CHAIN_CTRL_LOCAL_ENC = 1) && decide (s.get R.ENC_STAT_FAULT = 0)

theorem State.fallbackGo_eq (hchained : s.chained = true) (hlost : s.on R.CHAIN_STAT_LOST = true) (hfb : s.on R.CHAIN_STAT_FALLBACK = false) :
    s.fallbackGo = if s.mayFallBack then s.enterFallback s.chainNext else s := by
  unfold State.fallbackGo
  rw [hchained, hlost, hfb, State.mayFallBack]
  rfl

theorem State.tokensLost_eq (hfb : s.on R.CHAIN_STAT_FALLBACK = false) (hlost : s.on R.CHAIN_STAT_LOST = false) : s.tokensLost =
    if s.tokensGone.fallbackGo.on R.CHAIN_STAT_FALLBACK then s.tokensGone.fallbackGo else s.tokensGone.fallbackGo.chainEvent 3 s.chainNext := by
  unfold State.tokensLost
  rw [if_neg (by rw [hlost]; exact Bool.false_ne_true), if_neg (by rw [hfb]; exact Bool.false_ne_true)]

theorem tokenLoss_shown {n ct u : Nat} (hlast : s.chain.lastTok = some (n, ct)) (hchained : s.chained = true) (hfb : s.on R.CHAIN_STAT_FALLBACK = false)
    (hlost : s.on R.CHAIN_STAT_LOST = false) (hlate : ct + 15 * s.get R.TICK_TPRED_T / 2 + 5 * s.leadClk < s.chainTime (max s.now u)) :
    goesOn (exec (.tokenLoss u) s) fun t =>
      t.get R.CHAIN_STAT_LOST = 1 ∧ t.chain.valid = 0 ∧ t.chain.lastTok = none ∧ t.get (intRawBit E.RIDGE_TOKEN_LOSS) = 1 ∧
      t.on R.CHAIN_STAT_FALLBACK = (s.inRun && decide (s.modeAct ≠ 2) && decide (s.act R.CHAIN_CTRL_LOCAL_ENC = 1) && decide (s.get R.ENC_STAT_FAULT = 0)) := by
  have hat : (s.at u).chained = s.chained ∧ (s.at u).on R.CHAIN_STAT_FALLBACK = s.on R.CHAIN_STAT_FALLBACK ∧
      (s.at u).on R.CHAIN_STAT_LOST = s.on R.CHAIN_STAT_LOST ∧ (s.at u).mayFallBack = s.mayFallBack := ⟨rfl, rfl, rfl, rfl⟩
  obtain ⟨hatChained, hatFb, hatLost, hatMay⟩ := hat
  refine ⟨_, tokenLoss_exec hlast hchained hlate, ?_⟩
  rw [← State.mayFallBack, ← hatMay]
  rw [← hatChained] at hchained
  rw [← hatFb] at hfb
  rw [← hatLost] at hlost
  generalize s.at u = v at hchained hfb hlost ⊢
  rw [State.tokensLost_eq hfb hlost]
  have hg := State.tokensGone_shows hlost
  generalize v.tokensGone = w at hg ⊢
  have hwfb : w.on R.CHAIN_STAT_FALLBACK = false := (hg.on (by decide)).trans hfb
  have hmay : w.mayFallBack = v.mayFallBack := by
    rw [State.mayFallBack, hg.inRun, hg.modeAct, hg.get _ (by decide), State.act_of_force hg.force, State.mayFallBack]
  rw [State.fallbackGo_eq (hg.chained.trans hchained) hg.lostOn hwfb, hmay]
  cases v.mayFallBack
  · rw [if_neg Bool.false_ne_true, if_neg (by rw [hwfb]; exact Bool.false_ne_true)]
    obtain ⟨hchain, hget⟩ := w.chainEvent_shows 3 v.chainNext
    refine ⟨(hget _ (by decide)).trans hg.lost, by rw [hchain, hg.valid], by rw [hchain, hg.lastTok], (hget _ (by decide)).trans hg.told, ?_⟩
    rw [State.on_of_get (hget _ (by decide)), hwfb]
  · rw [if_pos rfl]
    obtain ⟨hchain, hon, hget⟩ := w.enterFallback_shows w.chainNext
    rw [if_pos hon]
    exact ⟨(hget _ (by decide)).trans hg.lost, by rw [hchain, hg.valid], by rw [hchain, hg.lastTok], (hget _ (by decide)).trans hg.told, hon⟩

theorem tokenLoss_again {n ct u : Nat} (hlast : s.chain.lastTok = some (n, ct)) (hchained : s.chained = true) (hfb : s.on R.CHAIN_STAT_FALLBACK = true)
    (hlost : s.on R.CHAIN_STAT_LOST = false) (hq : s.evtQ.length < 32)
    (hlate : ct + 15 * s.get R.TICK_TPRED_T / 2 + 5 * s.leadClk < s.chainTime (max s.now u)) : goesOn (exec (.tokenLoss u) s) fun t =>
      t.get R.CHAIN_STAT_LOST = 1 ∧ t.on R.CHAIN_STAT_FALLBACK = true ∧ t.chain.lastTok = none ∧ t.get (intRawBit E.RIDGE_TOKEN_LOSS) = 1 ∧
      ∃ e ∈ t.evtQ, e.code = cCHAIN ∧ e.detail = padTo 16 ([1, 0, 0, 0, 0, 0, 0, 0] ++ leBytes 8 s.chainNext) := by
  have hat : (s.at u).on R.CHAIN_STAT_FALLBACK = s.on R.CHAIN_STAT_FALLBACK ∧ (s.at u).on R.CHAIN_STAT_LOST = s.on R.CHAIN_STAT_LOST ∧
      (s.at u).chainNext = s.chainNext ∧ (s.at u).evtQ = s.evtQ := ⟨rfl, rfl, rfl, rfl⟩
  obtain ⟨hatFb, hatLost, hatNext, hatQ⟩ := hat
  refine ⟨_, tokenLoss_exec hlast hchained hlate, ?_⟩
  rw [← hatNext]
  rw [← hatFb] at hfb
  rw [← hatLost] at hlost
  rw [← hatQ] at hq
  generalize s.at u = v at hfb hlost hq ⊢
  have heq : v.tokensLost = v.tokensGone.chainEvent 1 v.chainNext := by
    unfold State.tokensLost
    rw [if_neg (by rw [hlost]; exact Bool.false_ne_true), if_pos hfb]
  rw [heq]
  have hg := State.tokensGone_shows hlost
  generalize v.tokensGone = w at hg ⊢
  obtain ⟨hchain, hget⟩ := w.chainEvent_shows 1 v.chainNext
  refine ⟨(hget _ (by decide)).trans hg.lost, ?_, by rw [hchain, hg.lastTok], (hget _ (by decide)).trans hg.told, ?_⟩
  · rw [State.on_of_get (hget _ (by decide)), hg.on (by decide), hfb]
  · rw [State.chainEvent_short (by rw [hg.evtQ]; omega)]
    exact ⟨_, List.mem_append_right _ List.mem_cons_self, rfl, rfl⟩

end Sys2Proof.Machine
end

/-! PROOFS. O53: tokens taken, TICKNO's advance, and the chain as stated (R300–R303). -/
section
-- One theorem after the other: the default proofs of the side conditions below are run by the elaborator, which waits for all that stands before.
set_option Elab.async false
namespace Sys2Proof.Machine

variable {b : Bool} {s t u : State} {L : List Nat}

/-! ## A bad token -/

theorem tokenOk_iff {fl hp : Byte} {n der : Word} {crc : Option Byte} {tp : BitVec 24} :
    tokenOk fl.toNat hp.toNat n.toNat (crc.map BitVec.toNat) der.toNat tp.toNat = true ↔ crc.map BitVec.toNat = some (tokenCrc fl hp n der tp) :=
  decide_eq_true_iff

/-- The run of valid tokens ends. -/
def State.tokensBreak (s : State) : State := s.setChain { s.chain with valid := 0 }

theorem State.tokensBreak_shows : s.tokensBreak.chain = { s.chain with valid := 0 } ∧ (∀ g, s.tokensBreak.get g = s.get g) ∧ only s s.tokensBreak L :=
  ⟨rfl, fun _ => rfl, only_of_eq rfl rfl rfl rfl rfl⟩

theorem tickToken_bad (fl hp : Byte) (n der : Word) (crc : Option Byte) (tp : BitVec 24) (u : Nat) (hup : chainUp s)
    (hcrc : crc.map BitVec.toNat ≠ some (tokenCrc fl hp n der tp)) : goesOn (exec (.tickToken fl hp n crc der tp u) s) fun t =>
      t.chain = { s.chain with valid := 0 } ∧
      t.get R.CHAIN_TOK_BAD_COUNT = min (2 ^ 32 - 1) (s.get R.CHAIN_TOK_BAD_COUNT + 1) ∧ only s t [R.CHAIN_TOK_BAD_COUNT.reg] := by
  obtain ⟨hchained, hport⟩ := hup
  have hbad : tokenOk fl.toNat hp.toNat n.toNat (crc.map BitVec.toNat) der.toNat tp.toNat = false :=
    Bool.eq_false_iff.mpr fun h => hcrc (tokenOk_iff.mp h)
  have hexec : exec (.tickToken fl hp n crc der tp u) s = .next (s.tokensBreak.bump R.CHAIN_TOK_BAD_COUNT) := by
    show Host.Outcome.next (s.token fl.toNat hp.toNat n.toNat (crc.map BitVec.toNat) der.toNat tp.toNat u) = _
    unfold State.token
    rw [if_neg (by simp [hchained, hport]), hbad]
    rfl
  refine ⟨_, hexec, ?_⟩
  obtain ⟨hchain, hget, honly⟩ := s.tokensBreak_shows (L := [R.CHAIN_TOK_BAD_COUNT.reg])
  generalize s.tokensBreak = v at hchain hget honly ⊢
  refine ⟨(State.put_chain ..).trans hchain, ?_, only_trans honly (only_bump (by decide))⟩
  rw [← hget]
  exact State.get_put_fits _ (by decide) (Nat.lt_of_le_of_lt (Nat.min_le_left _ _) (by decide))

/-! ## A valid token is entered -/

/-- The fields that a token's latency changes. -/
def latencyFields : List Fld :=
  [R.CHAIN_LAT_NS, R.CHAIN_LAT_MAX_NS, R.CHAIN_MARGIN_MIN_NS, R.CHAIN_STAT_LEAD_OK] ++ toldFields E.RIDGE_LEAD_MARGIN

/-- The latency is shown. -/
def State.latencyShown (s : State) (lat : Int) : State :=
  let s1 := (s.put R.CHAIN_LAT_NS (min 65535 lat.toNat)).put R.CHAIN_LAT_MAX_NS (max (s.get R.CHAIN_LAT_MAX_NS) (min 65535 lat.toNat))
  if 5 * s.leadClk - lat < toSigned 32 (s1.get R.CHAIN_MARGIN_MIN_NS) then s1.put R.CHAIN_MARGIN_MIN_NS (ofSigned 32 (5 * s.leadClk - lat)) else s1

/-- The run of tokens with margin, told where it ends. -/
def State.leadRuns (s : State) (margin : Int) : State :=
  if 1000 ≤ margin then
    if 4096 ≤ s.chain.leadRun + 1 then (s.setChain { s.chain with leadRun := s.chain.leadRun + 1 }).put R.CHAIN_STAT_LEAD_OK 1
    else s.setChain { s.chain with leadRun := s.chain.leadRun + 1 }
  else ((s.setChain { s.chain with leadRun := 0 }).put R.CHAIN_STAT_LEAD_OK 0).raise E.RIDGE_LEAD_MARGIN

theorem State.tokenLatency_eq (lat : Int) : s.tokenLatency lat = (s.latencyShown lat).leadRuns (5 * s.leadClk - lat) := rfl

/-- What entering a token leaves: the tick generator, the job, the store, power, the values in force, the step of TICKNO that waits. -/
structure TokenLeaves (s t : State) : Prop where
  tick : t.tick = s.tick
  job : t.job = s.job
  nvs : t.nvs = s.nvs
  pwr : t.pwr = s.pwr
  force : t.force = s.force
  pend : t.chain.pend = s.chain.pend

theorem TokenLeaves.trans (h : TokenLeaves s t) (k : TokenLeaves t u) : TokenLeaves s u :=
  ⟨k.tick.trans h.tick, k.job.trans h.job, k.nvs.trans h.nvs, k.pwr.trans h.pwr, k.force.trans h.force, k.pend.trans h.pend⟩

theorem State.put_leaves (f : Fld) (v : Nat) : TokenLeaves s (s.put f v) := ⟨rfl, rfl, rfl, rfl, rfl, rfl⟩

theorem State.raise_leaves (e : Ev) : TokenLeaves s (s.raise e) :=
  ⟨State.raise_tick .., State.raise_job .., State.raise_nvs .., State.raise_pwr .., State.raise_force .., by rw [State.raise_chain]⟩

theorem State.latencyShown_shows (lat : Int) : TokenLeaves s (s.latencyShown lat) ∧ (s.latencyShown lat).chain = s.chain ∧
    ∀ g : Fld, g.clear latencyFields = true → (s.latencyShown lat).get g = s.get g := by
  have hput (v : State) : TokenLeaves s v ∧ v.chain = s.chain ∧ (∀ g : Fld, g.clear latencyFields = true → v.get g = s.get g) →
      ∀ f ∈ latencyFields, ∀ n, TokenLeaves s (v.put f n) ∧ (v.put f n).chain = s.chain ∧
        ∀ g : Fld, g.clear latencyFields = true → (v.put f n).get g = s.get g := fun ⟨h1, h2, h3⟩ f hf n =>
    ⟨h1.trans (State.put_leaves f n), (State.put_chain ..).trans h2, fun g hc => (State.get_put_off _ (Fld.clear_iff.mp hc f hf)).trans (h3 g hc)⟩
  have hstart : TokenLeaves s s ∧ s.chain = s.chain ∧ ∀ g : Fld, g.clear latencyFields = true → s.get g = s.get g :=
    ⟨⟨rfl, rfl, rfl, rfl, rfl, rfl⟩, rfl, fun _ _ => rfl⟩
  have htwo := hput _ (hput _ hstart R.CHAIN_LAT_NS (by decide) (min 65535 lat.toNat)) R.CHAIN_LAT_MAX_NS (by decide)
    (max (s.get R.CHAIN_LAT_MAX_NS) (min 65535 lat.toNat))
  unfold State.latencyShown
  dsimp only
  split
  · exact hput _ htwo _ (by decide) _
  · exact htwo

/-- The run counts on, or from 0. -/
def State.leadSet (s : State) (n : Nat) : State := s.setChain { s.chain with leadRun := n }

theorem State.leadSet_shows (n : Nat) : TokenLeaves s (s.leadSet n) ∧ (s.leadSet n).chain.valid = s.chain.valid ∧ ∀ g, (s.leadSet n).get g = s.get g :=
  ⟨⟨rfl, rfl, rfl, rfl, rfl, rfl⟩, rfl, fun _ => rfl⟩

theorem State.leadRuns_shows (margin : Int) : TokenLeaves s (s.leadRuns margin) ∧ (s.leadRuns margin).chain.valid = s.chain.valid ∧
    ∀ g : Fld, g.clear latencyFields = true → (s.leadRuns margin).get g = s.get g := by
  have heq : s.leadRuns margin = if 1000 ≤ margin then
      if 4096 ≤ s.chain.leadRun + 1 then (s.leadSet (s.chain.leadRun + 1)).put R.CHAIN_STAT_LEAD_OK 1 else s.leadSet (s.chain.leadRun + 1)
      else ((s.leadSet 0).put R.CHAIN_STAT_LEAD_OK 0).raise E.RIDGE_LEAD_MARGIN := rfl
  have hev : toldFields E.RIDGE_LEAD_MARGIN ⊆ latencyFields := by decide
  rw [heq]
  split
  · obtain ⟨hleaves, hvalid, hget⟩ := s.leadSet_shows (s.chain.leadRun + 1)
    generalize s.leadSet (s.chain.leadRun + 1) = v at hleaves hvalid hget ⊢
    split
    · exact ⟨hleaves.trans (State.put_leaves _ _), by rw [State.put_chain, hvalid],
        fun g hc => (State.get_put_off _ (Fld.clear_iff.mp hc _ (by decide))).trans (hget g)⟩
    · exact ⟨hleaves, hvalid, fun g _ => hget g⟩
  · obtain ⟨hleaves, hvalid, hget⟩ := s.leadSet_shows 0
    generalize s.leadSet 0 = v at hleaves hvalid hget ⊢
    refine ⟨hleaves.trans ((State.put_leaves _ _).trans (State.raise_leaves _)), by rw [State.raise_chain, State.put_chain, hvalid], fun g hc => ?_⟩
    have hoff := Fld.clear_iff.mp hc
    exact (State.get_raise_clear (Fld.clear_iff.mpr fun f hf => hoff f (hev hf))).trans ((State.get_put_off _ (hoff _ (by decide))).trans (hget g))

/-- The token counts. -/
def State.tokenCounts (s : State) (n ct : Nat) : State := s.setChain { s.chain with valid := s.chain.valid + 1, lastTok := some (n, ct) }

theorem State.tokenCounts_shows (n ct : Nat) : TokenLeaves s (s.tokenCounts n ct) ∧ (s.tokenCounts n ct).chain.valid = s.chain.valid + 1 ∧
    ∀ g, (s.tokenCounts n ct).get g = s.get g := ⟨⟨rfl, rfl, rfl, rfl, rfl, rfl⟩, rfl, fun _ => rfl⟩

theorem State.sendToken_shows (a b c d e : Nat) : TokenLeaves s (s.sendToken a b c d e) ∧ (s.sendToken a b c d e).chain = s.chain ∧
    ∀ g, (s.sendToken a b c d e).get g = s.get g := ⟨⟨rfl, rfl, rfl, rfl, rfl, rfl⟩, rfl, fun _ => rfl⟩

theorem State.tokenSeen_shows {flags hops low derLow tpred n ct : Nat} {lat : Int} {sendOn : Bool} (hhops : hops < 256) :
    TokenLeaves s (s.tokenSeen flags hops low derLow tpred n ct lat sendOn) ∧
    (s.tokenSeen flags hops low derLow tpred n ct lat sendOn).chain.valid = s.chain.valid + 1 ∧
    (s.tokenSeen flags hops low derLow tpred n ct lat sendOn).get R.CHAIN_STAT_HOPS = hops ∧
    ∀ g : Fld, g.clear (R.CHAIN_STAT_HOPS :: latencyFields) = true →
      (s.tokenSeen flags hops low derLow tpred n ct lat sendOn).get g = s.get g := by
  obtain ⟨v, hv, heq⟩ : ∃ v : State, v = ((s.tokenCounts n ct).put R.CHAIN_STAT_HOPS hops).tokenLatency lat ∧
      s.tokenSeen flags hops low derLow tpred n ct lat sendOn =
        if sendOn && v.act R.CHAIN_CTRL_DOWN_EN = 1 && v.portState 2 = rpUP then v.sendToken flags ((hops + 1) % 256) low derLow tpred else v :=
    ⟨_, rfl, rfl⟩
  rw [heq]
  obtain ⟨hleaves, hvalid, hget⟩ := s.tokenCounts_shows n ct
  generalize s.tokenCounts n ct = w at hleaves hvalid hget hv
  have hput : (w.put R.CHAIN_STAT_HOPS hops).get R.CHAIN_STAT_HOPS = hops := State.get_put_fits _ (by decide) hhops
  have hputLeaves : TokenLeaves s (w.put R.CHAIN_STAT_HOPS hops) := hleaves.trans (State.put_leaves _ _)
  have hputValid : (w.put R.CHAIN_STAT_HOPS hops).chain.valid = s.chain.valid + 1 := by rw [State.put_chain, hvalid]
  have hputGet (g : Fld) (hg : g.off R.CHAIN_STAT_HOPS = true) : (w.put R.CHAIN_STAT_HOPS hops).get g = s.get g := (State.get_put_off _ hg).trans (hget g)
  generalize w.put R.CHAIN_STAT_HOPS hops = x at hput hputLeaves hputValid hputGet hv
  obtain ⟨hshown, hshownChain, hshownGet⟩ := x.latencyShown_shows lat
  rw [State.tokenLatency_eq] at hv
  generalize x.latencyShown lat = y at hshown hshownChain hshownGet hv
  obtain ⟨hruns, hrunsValid, hrunsGet⟩ := y.leadRuns_shows (5 * x.leadClk - lat)
  rw [← hv] at hruns hrunsValid hrunsGet
  have hall : TokenLeaves s v ∧ v.chain.valid = s.chain.valid + 1 ∧ v.get R.CHAIN_STAT_HOPS = hops ∧
      ∀ g : Fld, g.clear (R.CHAIN_STAT_HOPS :: latencyFields) = true → v.get g = s.get g := by
    refine ⟨hputLeaves.trans (hshown.trans hruns), by rw [hrunsValid, hshownChain, hputValid],
      (hrunsGet _ (by decide)).trans ((hshownGet _ (by decide)).trans hput), fun g hc => ?_⟩
    have hoff := Fld.clear_iff.mp hc
    have hlat : g.clear latencyFields = true := Fld.clear_iff.mpr fun f hf => hoff f (List.mem_cons_of_mem _ hf)
    exact (hrunsGet g hlat).trans ((hshownGet g hlat).trans (hputGet g (hoff _ List.mem_cons_self)))
  clear hv heq
  split
  · obtain ⟨hsend, hsendChain, hsendGet⟩ := v.sendToken_shows flags ((hops + 1) % 256) low derLow tpred
    obtain ⟨h1, h2, h3, h4⟩ := hall
    exact ⟨h1.trans hsend, by rw [hsendChain, h2], (hsendGet _).trans h3, fun g hc => (hsendGet g).trans (h4 g hc)⟩
  · exact hall

end Sys2Proof.Machine
end

/-! PROOFS. O53: a token's tick, TICKNO's advance, and the chain as stated (R300–R303). -/
section
-- One theorem after the other: the default proofs of the side conditions below are run by the elaborator, which waits for all that stands before.
set_option Elab.async false
namespace Sys2Proof.Machine

variable {b : Bool} {s t u : State} {L : List Nat}

/-! ## A token's tick -/

/-- A late edge is told. -/
def State.lateTold (s : State) (der n : Nat) : State := if der + s.leadClk < n then s.raise E.TICK_LEAD_LATE else s

/-- The tick that a token derives. -/
def State.tokenDer (s : State) (flags n der t lead : Nat) : DerTick :=
  { der := der, edge := max (der + lead) t, sheet := bit flags 1, tpred := s.tick.tpred, tno := some n, marks := edgeBits der s.tick.edgeMarks
    chainMark := bit flags 0 }

/-- A derived tick of the chain waits for its edge. -/
def State.tokenWaits (s : State) (d : DerTick) (acc : Int) : State :=
  { s with tick := { s.tick with queue := s.tick.queue ++ [d], lastDer := some d.der, edgeMarks := edgesAfter d.der s.tick.edgeMarks, acc := acc } }

theorem State.tokenTick_eq {flags n der t : Nat} (hedge : bit flags 2 = false) (hlife : s.lifeWaits = false) : s.tokenTick flags n der t =
    (s.lateTold der t).tokenWaits ((s.lateTold der t).tokenDer flags n der t s.leadClk) ((s.lateTold der t).posSince der) := by
  unfold State.tokenTick
  rw [hedge, hlife, if_neg Bool.false_ne_true, if_neg Bool.false_ne_true]
  rfl

theorem State.tokenWaits_shows (d : DerTick) (acc : Int) : (s.tokenWaits d acc).tick.queue = s.tick.queue ++ [d] ∧
    (s.tokenWaits d acc).tick.lastDer = some d.der ∧ (s.tokenWaits d acc).tick.tickno = s.tick.tickno ∧ (s.tokenWaits d acc).chain = s.chain ∧
    ∀ g, (s.tokenWaits d acc).get g = s.get g := ⟨rfl, rfl, rfl, rfl, fun _ => rfl⟩

theorem State.lateTold_shows (der n : Nat) : (s.lateTold der n).tick = s.tick ∧ (s.lateTold der n).chain = s.chain ∧
    (s.lateTold der n).get R.CHAIN_STAT_HOPS = s.get R.CHAIN_STAT_HOPS := by
  unfold State.lateTold
  split
  · exact ⟨State.raise_tick .., State.raise_chain .., State.get_raise_clear (by decide)⟩
  · exact ⟨rfl, rfl, rfl⟩

theorem State.setTpred_shows (f : Frac) : (s.setTpred f).tick.queue = s.tick.queue ∧ (s.setTpred f).tick.tickno = s.tick.tickno ∧
    (s.setTpred f).chain = s.chain ∧ (s.setTpred f).pwr = s.pwr ∧ (s.setTpred f).job = s.job ∧ (s.setTpred f).nvs = s.nvs ∧
    ∀ g : Fld, g.off R.TICK_TPRED_T = true → (s.setTpred f).get g = s.get g := by
  unfold State.setTpred
  exact ⟨by rw [State.put_tick], by rw [State.put_tick], State.put_chain .., State.put_pwr .., State.put_job .., State.put_nvs ..,
    fun g hg => State.get_put_off _ hg⟩

/-- A token of the number due, in RUN outside TRIG_AREA. -/
theorem State.tokenTake_eq {flags n tpred der t : Nat} (hfb : s.on R.CHAIN_STAT_FALLBACK = false) (hrun : s.inRun = true) (hmode : s.modeAct ≠ 2) :
    s.tokenTake flags n n tpred der t = (s.setTpred ⟨tpred, 1⟩).tokenTick flags n der t := by
  obtain ⟨-, -, -, hpwr, -, -, hget⟩ := s.setTpred_shows ⟨tpred, 1⟩
  have hrun' : (s.setTpred ⟨tpred, 1⟩).inRun = true := by rw [State.inRun, State.power, hget _ (by decide), hpwr]; exact hrun
  have hmode' : (s.setTpred ⟨tpred, 1⟩).modeAct ≠ 2 := by rw [State.modeAct, hget _ (by decide)]; exact hmode
  unfold State.tokenTake
  rw [hfb, if_neg Bool.false_ne_true]
  dsimp only
  rw [if_neg (Nat.lt_irrefl n), if_pos (by rw [hrun', decide_eq_true hmode']; rfl)]

theorem State.lifeWaits_of (hpend : t.chain.pend = s.chain.pend) (hjob : t.job = s.job) (hnvs : t.nvs = s.nvs) : t.lifeWaits = s.lifeWaits := by
  rw [State.lifeWaits, hpend, State.jobRunning, hjob, hnvs, State.lifeWaits, State.jobRunning]

theorem State.token_eq {flags hops low derLow tpred n : Nat} {crc : Option Nat} (hup : chainUp s) (hok : tokenOk flags hops low crc derLow tpred = true)
    (hlost : s.on R.CHAIN_STAT_LOST = false) (hown : nearest 32 s.chainNext low = s.chainNext) : ∃ ct lat der,
    s.token flags hops low crc derLow tpred n =
      ((s.at n).tokenSeen flags hops low derLow tpred s.chainNext ct lat true).tokenTake flags s.chainNext s.chainNext tpred der n := by
  obtain ⟨hchained, hport⟩ := hup
  have hatNext : (s.at n).chainNext = s.chainNext := rfl
  have hatLost : (s.at n).on R.CHAIN_STAT_LOST = false := hlost
  refine ⟨nearest 32 ((s.at n).chainTime n) derLow, ((s.at n).chainTime n : Int) - nearest 32 ((s.at n).chainTime n) derLow,
    ((n : Int) - (((s.at n).chainTime n : Int) - nearest 32 ((s.at n).chainTime n) derLow) / 5).toNat, ?_⟩
  unfold State.token
  rw [if_neg (by simp [hchained, hport]), hok]
  dsimp only
  rw [hatNext, hown, hatLost, decide_eq_false (Nat.lt_irrefl _), Bool.false_and, Bool.false_and, if_neg Bool.false_ne_true, Bool.or_self, Bool.not_false,
    Bool.true_or, Bool.not_true, if_neg Bool.false_ne_true, if_neg Bool.false_ne_true]

theorem tickToken_taken (fl hp : Byte) (n der : Word) (crc : Option Byte) (tp : BitVec 24) (u : Nat) (hup : chainUp s)
    (hlost : s.on R.CHAIN_STAT_LOST = false) (hcrc : crc.map BitVec.toNat = some (tokenCrc fl hp n der tp)) (hlife : s.lifeWaits = false)
    (hfb : s.on R.CHAIN_STAT_FALLBACK = false) (hrun : s.inRun = true) (hmode : s.modeAct ≠ 2) (hedge : bit fl.toNat 2 = false)
    (hown : nearest 32 s.chainNext n.toNat = s.chainNext) : goesOn (exec (.tickToken fl hp n crc der tp u) s) fun t =>
      t.chain.valid = s.chain.valid + 1 ∧ t.get R.CHAIN_STAT_HOPS = hp.toNat ∧ t.tick.tickno = s.tick.tickno ∧
      ∃ d, t.tick.queue = s.tick.queue ++ [d] ∧ d.tno = some s.chainNext ∧ d.noEdge = false ∧ u ≤ d.edge ∧
        d.chainMark = bit fl.toNat 0 ∧ d.sheet = bit fl.toNat 1 ∧ t.tick.lastDer = some d.der := by
  obtain ⟨ct, lat, at_, heq⟩ := State.token_eq (n := u) hup (tokenOk_iff.mpr hcrc) hlost hown
  have hexec : exec (.tickToken fl hp n crc der tp u) s =
      .next (s.token fl.toNat hp.toNat n.toNat (crc.map BitVec.toNat) der.toNat tp.toNat u) := rfl
  rw [hexec, heq]
  refine ⟨_, rfl, ?_⟩
  have hat : TokenLeaves s (s.at u) ∧ (s.at u).chain = s.chain ∧ ∀ g, (s.at u).get g = s.get g := ⟨⟨rfl, rfl, rfl, rfl, rfl, rfl⟩, rfl, fun _ => rfl⟩
  obtain ⟨hatLeaves, hatChain, hatGet⟩ := hat
  obtain ⟨hseen, hvalid, hhops, hseenGet⟩ := (s.at u).tokenSeen_shows (flags := fl.toNat) (low := n.toNat) (derLow := der.toNat) (tpred := tp.toNat)
    (n := s.chainNext) (ct := ct) (lat := lat) (sendOn := true) hp.isLt
  generalize (s.at u).tokenSeen fl.toNat hp.toNat n.toNat der.toNat tp.toNat s.chainNext ct lat true = v at hseen hvalid hhops hseenGet ⊢
  rw [hatChain] at hvalid
  generalize s.chainNext = own
  have hleaves := hatLeaves.trans hseen
  have hget (g : Fld) (hc : g.clear (R.CHAIN_STAT_HOPS :: latencyFields) = true) : v.get g = s.get g := (hseenGet g hc).trans (hatGet g)
  have hvfb : v.on R.CHAIN_STAT_FALLBACK = false := (State.on_of_get (hget _ (by decide))).trans hfb
  have hvrun : v.inRun = true := by rw [State.inRun, State.power, hget _ (by decide), hleaves.pwr]; exact hrun
  have hvmode : v.modeAct ≠ 2 := by rw [State.modeAct, hget _ (by decide)]; exact hmode
  rw [State.tokenTake_eq hvfb hvrun hvmode]
  obtain ⟨hq, hno, hchain, -, hjob, hnvs, htpredGet⟩ := v.setTpred_shows ⟨tp.toNat, 1⟩
  generalize v.setTpred ⟨tp.toNat, 1⟩ = w at hq hno hchain hjob hnvs htpredGet ⊢
  have hwlife : w.lifeWaits = false :=
    (State.lifeWaits_of (by rw [hchain, hleaves.pend]) (hjob.trans hleaves.job) (hnvs.trans hleaves.nvs)).trans hlife
  rw [State.tokenTick_eq hedge hwlife]
  generalize w.leadClk = lead
  obtain ⟨htick, hlateChain, hlateHops⟩ := w.lateTold_shows at_ u
  generalize w.lateTold at_ u = x at htick hlateChain hlateHops ⊢
  obtain ⟨hwaitQ, hwaitDer, hwaitNo, hwaitChain, hwaitGet⟩ := x.tokenWaits_shows (x.tokenDer fl.toNat own at_ u lead) (x.posSince at_)
  generalize x.tokenWaits (x.tokenDer fl.toNat own at_ u lead) (x.posSince at_) = y at hwaitQ hwaitDer hwaitNo hwaitChain hwaitGet ⊢
  refine ⟨by rw [hwaitChain, hlateChain, hchain, hvalid], ?_, by rw [hwaitNo, htick, hno, hleaves.tick], x.tokenDer fl.toNat own at_ u lead, ?_, rfl, rfl,
    Nat.le_max_right _ _, rfl, rfl, hwaitDer⟩
  · rw [hwaitGet, hlateHops, htpredGet _ (by decide), hhops]
  · rw [hwaitQ, htick, hq, hleaves.tick]

/-! ## TICKNO's advance -/

/-- A step of TICKNO waits. -/
def State.stepWaits (s : State) (m : Option Nat) : State := s.setChain { s.chain with pend := m }

theorem State.setTickno_shows (n : Nat) : (s.setTickno n).tick.tickno = n ∧ (s.setTickno n).chain = s.chain := by
  unfold State.setTickno
  exact ⟨by rw [State.put64_tick], State.put64_chain ..⟩

theorem State.linesSettle_chain : s.linesSettle.chain = s.chain ∧ s.linesSettle.tick = s.tick := by
  have hbusy (v : State) : v.busyShow.chain = v.chain ∧ v.busyShow.tick = v.tick := by
    unfold State.busyShow
    exact ⟨State.put_chain .., State.put_tick ..⟩
  unfold State.linesSettle
  dsimp only
  rw [(hbusy _).1, (hbusy _).2, State.put64_chain, State.put64_tick]
  exact ⟨rfl, rfl⟩

theorem State.ticknoAdvance_shows (n : Nat) : (s.ticknoAdvance n).tick.tickno = n ∧ (s.ticknoAdvance n).chain = s.chain ∧
    (s.ticknoAdvance n).get (intRawBit E.RIDGE_TICKNO_ADV) = 1 := by
  obtain ⟨hno, hchain⟩ := s.setTickno_shows n
  unfold State.ticknoAdvance
  generalize s.setTickno n = v at hno hchain ⊢
  obtain ⟨hsettleChain, hsettleTick⟩ := v.linesSettle_chain
  generalize v.linesSettle = w at hsettleChain hsettleTick ⊢
  exact ⟨by rw [State.raise_tick, hsettleTick, hno], by rw [State.raise_chain, hsettleChain, hchain], State.get_raise _ _ (by decide)⟩

theorem tnoBlk_shown (n : BitVec 56) (hport : s.portState 2 = rpUP) (hjob : s.jobRunning = false)
    (hm : s.tick.tickno < s.tick.tickno / 2 ^ 56 * 2 ^ 56 + n.toNat) : goesOn (exec (.tnoBlk n) s) fun t =>
      (s.tnoAtOnce = true → s.tick.tickno / 2 ^ 56 * 2 ^ 56 + n.toNat < s.nvs.saved.hwm →
        t.tick.tickno = s.tick.tickno / 2 ^ 56 * 2 ^ 56 + n.toNat ∧ t.chain.pend = none ∧ t.get (intRawBit E.RIDGE_TICKNO_ADV) = 1) ∧
      (s.tnoAtOnce = false → t.tick.tickno = s.tick.tickno ∧ t.chain.pend = some (s.tick.tickno / 2 ^ 56 * 2 ^ 56 + n.toNat)) := by
  have hn : n.toNat % 2 ^ 56 = n.toNat := Nat.mod_eq_of_lt n.isLt
  have hexec : exec (.tnoBlk n) s = .next (if s.tnoAtOnce then (s.stepWaits (some (s.tick.tickno / 2 ^ 56 * 2 ^ 56 + n.toNat))).ticknoPend
      else s.stepWaits (some (s.tick.tickno / 2 ^ 56 * 2 ^ 56 + n.toNat))) := by
    show Host.Outcome.next (s.tno n.toNat) = _
    unfold State.tno
    rw [hn]
    dsimp only
    rw [if_neg (by rw [hport, hjob, decide_eq_false (not_not_intro rfl), decide_eq_false (Nat.not_le.mpr hm)]; exact Bool.false_ne_true)]
    rfl
  refine ⟨_, hexec, ?_⟩
  generalize s.tick.tickno / 2 ^ 56 * 2 ^ 56 + n.toNat = m at hm ⊢
  have hwait : (s.stepWaits (some m)).tick.tickno = s.tick.tickno ∧ (s.stepWaits (some m)).chain.pend = some m := ⟨rfl, rfl⟩
  cases hat : s.tnoAtOnce
  · rw [if_neg Bool.false_ne_true]
    exact ⟨fun h => absurd h Bool.false_ne_true, fun _ => hwait⟩
  · rw [if_pos rfl]
    refine ⟨fun _ hhwm => ?_, fun h => absurd h.symm Bool.false_ne_true⟩
    have heq : (s.stepWaits (some m)).ticknoPend = ((s.stepWaits (some m)).stepWaits none).ticknoAdvance m := by
      have hjob' : (s.stepWaits (some m)).jobRunning = false := hjob
      have hsaved : ((s.stepWaits (some m)).nvs.saved.hwm ≤ m) = (s.nvs.saved.hwm ≤ m) := rfl
      unfold State.ticknoPend
      rw [hwait.2]
      dsimp only
      rw [hjob', hwait.1, decide_eq_false (Nat.not_le.mpr hm), Bool.or_self, if_neg Bool.false_ne_true, if_neg (by rw [hsaved]; omega)]
      rfl
    rw [heq]
    have hnone : ((s.stepWaits (some m)).stepWaits none).chain.pend = none := rfl
    generalize (s.stepWaits (some m)).stepWaits none = v at hnone ⊢
    obtain ⟨hno, hchain, hraw⟩ := v.ticknoAdvance_shows m
    exact ⟨hno, by rw [hchain, hnone], hraw⟩

/-- Settles O53: one lemma per block and command of the chain: its time, echoes, tokens lost, restored, bad and taken, TNO and the monitors. -/
theorem chainBlocksAndTokens : Obligations.ChainBlocksAndTokens := by
  unfold Obligations.ChainBlocksAndTokens
  exact ⟨fun _ ct q u hup hlock herr => timeBlk_outlier ct q u hup hlock herr, fun _ ct q u hup hlock herr => timeBlk_step ct q u hup hlock herr,
    fun _ hi hup => cthiBlk_shown hi hup, fun _ hdown hport => timeSend_shown hdown hport, fun _ p id u hport => echoBlk_shown p id u hport,
    fun _ u hport => linkDelayMeasure_shown u hport, fun _ _ hlast hlock => ctLockTimeout_shown hlast hlock,
    fun _ _ _ _ hlast hchained hfb hlost hlate => tokenLoss_shown hlast hchained hfb hlost hlate,
    fun _ _ _ _ hlast hchained hfb hlost hq hlate => tokenLoss_again hlast hchained hfb hlost hq hlate,
    fun _ hlost hport hlock hvalid hq => tokenRestore_shown hlost hport hlock hvalid hq,
    fun _ fl hp n der crc tp u hup hcrc => tickToken_bad fl hp n der crc tp u hup hcrc,
    fun _ fl hp n der crc tp u hup hlost hcrc hlife hfb hrun hmode hedge hown =>
      tickToken_taken fl hp n der crc tp u hup hlost hcrc hlife hfb hrun hmode hedge hown,
    fun _ n hport hjob hm => tnoBlk_shown n hport hjob hm, fun _ hup => tnoSend_shown hup, fun _ hserved => chainMonClr_shown hserved⟩

end Sys2Proof.Machine
end

/-! PROOFS. O54: passes, checks of candidates, drift and starvation (R313, R316–R322, R330). -/
section
-- One theorem after the other: the default proofs of the side conditions below are run by the elaborator, which waits for all that stands before.
set_option Elab.async false
namespace Sys2Proof.Machine

variable {s t : State}

theorem State.on_of_one {f : Fld} (h : s.get f = 1) : s.on f = true := by rw [State.on, h]; rfl

theorem State.on_of_zero {f : Fld} (h : s.get f = 0) : s.on f = false := by rw [State.on, h]; rfl

/-! ## A pass begins -/

/-- A pass begins for every spare that takes part, and no candidate of it has been accepted. -/
def State.passBegun (s : State) : State :=
  { s with cal := { s.cal with
      spare := (s.cal.spare.map (fun (k, x) => (k, if x.dead then x else {}))).filter (fun (_, x) => x.dead)
      conv := s.cal.conv.map (fun (k, c) => (k, { c with inPass := false })) } }

theorem State.passBegun_shows : s.passBegun.cal.spare.all (fun x => x.2.dead) = true ∧ s.passBegun.cal.conv.all (fun x => !x.2.inPass) = true ∧
    s.passBegun.now = s.now ∧ only s s.passBegun [] := by
  refine ⟨List.all_eq_true.mpr fun x hx => (List.mem_filter.1 hx).2, List.all_eq_true.mpr fun x hx => ?_, rfl, only_of_eq rfl rfl rfl rfl rfl⟩
  obtain ⟨y, -, rfl⟩ := List.mem_map.1 hx
  rfl

/-- Progress of an activity other than compaction. -/
theorem State.bgProgress_shows (act : Nat) (hact : act ≠ 2) : (s.bgProgress act).now = s.now ∧ (s.bgProgress act).inRun = s.inRun ∧
    (s.bgProgress act).tick = s.tick ∧ (s.bgProgress act).cal = { s.cal with bgAt := mapIns s.cal.bgAt act s.runTime } := by
  unfold State.bgProgress
  dsimp only
  rw [if_neg hact, State.put_now, State.put_tick, State.put_cal]
  have hreg : R.PWR_STAT_STATE.reg ≠ R.CAL_BG_STAT_STARVED.reg := by decide
  exact ⟨rfl, State.inRun_of_get (State.put_pwr ..) (State.get_put_reg _ (f := ⟨R.CAL_BG_STAT_STARVED.reg, act, 1⟩) (g := R.PWR_STAT_STATE) 0 hreg), rfl, rfl⟩

theorem calPassStart_begins (hen : s.on R.CAL_CTRL_BG_EN = true) (hact : s.on R.CAL_STAT_PASS_ACTIVE = false)
    (hdone : s.on R.CAL_STAT_START_PASS_DONE = true) (hn : s.dom dCONVN = true) (hv : s.dom dSUPV = true) (hrun : s.runAdmissible = true)
    (hpower : s.power = pRUN ∨ s.power = pIDLE) : goesOn (exec .calPassStart s) fun t =>
      t.get R.CAL_STAT_PASS_ACTIVE = 1 ∧ t.now = max s.now (s.cal.passTime + max 1 (s.get R.CAL_CTRL_INTERVAL) * secClk) ∧
      t.cal.spare.all (fun x => x.2.dead) = true ∧ t.cal.conv.all (fun x => !x.2.inPass) = true ∧
      only s t [R.CAL_STAT_PASS_ACTIVE.reg, R.CAL_BG_STAT_STARVED.reg] := by
  have hexec : exec .calPassStart s = .next (((s.at (s.cal.passTime + max 1 (s.get R.CAL_CTRL_INTERVAL) * secClk)).passBegun.put
      R.CAL_STAT_PASS_ACTIVE 1).bgProgress 0) := by
    show Host.Outcome.next s.calPassStart = _
    unfold State.calPassStart
    rw [if_neg (by simp [hen, hact, hdone, hn, hv, hrun]; exact hpower.resolve_left)]
    rfl
  refine ⟨_, hexec, ?_⟩
  obtain ⟨hspare, hconv, hnow, honly⟩ := (s.at (s.cal.passTime + max 1 (s.get R.CAL_CTRL_INTERVAL) * secClk)).passBegun_shows
  have hat : only s (s.at (s.cal.passTime + max 1 (s.get R.CAL_CTRL_INTERVAL) * secClk)) [] := only_of_eq rfl rfl rfl rfl rfl
  have hbegun := only_trans hat honly
  generalize (s.at (s.cal.passTime + max 1 (s.get R.CAL_CTRL_INTERVAL) * secClk)).passBegun = u at *
  have hput : only s (u.put R.CAL_STAT_PASS_ACTIVE 1) [R.CAL_STAT_PASS_ACTIVE.reg, R.CAL_BG_STAT_STARVED.reg] :=
    only_trans (only_mono hbegun (List.nil_subset _)) (only_put _ (.head _))
  have hbg := (u.put R.CAL_STAT_PASS_ACTIVE 1).bgProgress_only 0 (by decide)
  obtain ⟨hbgNow, -, -, hcal⟩ := (u.put R.CAL_STAT_PASS_ACTIVE 1).bgProgress_shows 0 (by decide)
  refine ⟨?_, ?_, ?_, ?_, only_trans hput (only_mono hbg (by decide))⟩
  · rw [State.get_of_only hbg (by decide), State.get_put_fits _ (by decide) (by decide)]
  · rw [hbgNow, State.put_now, hnow]
    rfl
  · rw [hcal, State.put_cal]
    exact hspare
  · rw [hcal, State.put_cal]
    exact hconv

/-! ## Drift -/

/-- What every step keeps and the step of n brings about holds of each n behind a fold. -/
theorem foldl_brings {P : State → Nat → Prop} {step : State → Nat → State} (hstay : ∀ s m n, P s n → P (step s m) n)
    (hstep : ∀ s n, P (step s n) n) {l : List Nat} {n : Nat} (hn : n ∈ l) (s : State) : P (l.foldl step s) n := by
  induction l generalizing s with
  | nil => exact absurd hn List.not_mem_nil
  | cons m l ih =>
    rcases List.mem_cons.1 hn with rfl | hn
    · exact List.foldlRecOn (motive := fun t => P t n) l step (hstep s n) fun t ht m _ => hstay t m n ht
    · exact ih hn _

/-- A channel whose drift passes 2 ns is marked, and told once. -/
def State.driftMarked (drift : List Int) (s : State) (n : Nat) : State :=
  if 200 < absI (drift.getD n 0) && !s.on (R.CAL_STRBn_DRIFT n) then (s.put (R.CAL_STRBn_DRIFT n) 1).raise E.CAL_DRIFT else s

theorem State.driftMarked_frame (drift : List Int) (n : Nat) : (s.driftMarked drift n).cal = s.cal ∧ (s.driftMarked drift n).now = s.now ∧
    (s.driftMarked drift n).get ⟨R.CAL_BG_STAT_STARVED.reg, 1, 1⟩ = s.get ⟨R.CAL_BG_STAT_STARVED.reg, 1, 1⟩ := by
  unfold State.driftMarked
  split
  · rw [State.raise_cal, State.put_cal, State.raise_now, State.put_now, State.get_raise_clear (by decide)]
    refine ⟨rfl, rfl, State.get_put_reg _ (f := R.CAL_STRBn_DRIFT n) _ ?_⟩
    show (0x27074 : Nat) ≠ 0x27080 + 0x4 * n
    omega
  · exact ⟨rfl, rfl, rfl⟩

theorem CAL_STRBn_DRIFT_not_told (n : Nat) : (R.CAL_STRBn_DRIFT n).reg ∉ toldRegs E.CAL_DRIFT := by
  have h : ∀ a ∈ toldRegs E.CAL_DRIFT, a < 0x27080 := by decide
  exact fun hmem => Nat.not_le_of_lt (h _ hmem) (Nat.le_add_right _ _)

theorem State.driftMarked_stays (drift : List Int) (m n : Nat) (h : s.on (R.CAL_STRBn_DRIFT n) = true) :
    (s.driftMarked drift m).on (R.CAL_STRBn_DRIFT n) = true := by
  unfold State.driftMarked
  split
  · have hraise := State.get_raise_other (s.put (R.CAL_STRBn_DRIFT m) 1) (CAL_STRBn_DRIFT_not_told n)
    rw [State.on_of_get hraise]
    by_cases hmn : n = m
    · subst hmn
      exact State.on_of_one (State.get_put_fits _ (show 16 + 1 ≤ 32 by decide) (show 1 < 2 ^ 1 by decide))
    · have hreg : (R.CAL_STRBn_DRIFT n).reg ≠ (R.CAL_STRBn_DRIFT m).reg := by
        show 0x27080 + 0x4 * n ≠ 0x27080 + 0x4 * m
        omega
      rw [State.on_of_get (State.get_put_reg _ _ hreg)]
      exact h
  · exact h

theorem State.driftMarked_marks (drift : List Int) (n : Nat) (h : 200 < absI (drift.getD n 0)) :
    (s.driftMarked drift n).on (R.CAL_STRBn_DRIFT n) = true := by
  unfold State.driftMarked
  by_cases hon : s.on (R.CAL_STRBn_DRIFT n) = true
  · rw [if_neg (by simp [hon])]
    exact hon
  · rw [Bool.not_eq_true] at hon
    rw [if_pos (by simp only [hon, h, decide_true, Bool.not_false, Bool.and_self]), State.on_of_get (State.get_raise_other _ (CAL_STRBn_DRIFT_not_told n))]
    exact State.on_of_one (State.get_put_fits _ (show 16 + 1 ≤ 32 by decide) (show 1 < 2 ^ 1 by decide))

/-- The measured movement is kept with its time. -/
def State.driftKept (s : State) (drift : List Int) : State := { s with cal := { s.cal with drift := drift.take 8, driftAt := s.now } }

theorem State.driftKept_shows (drift : List Int) : (s.driftKept drift).cal.drift = drift.take 8 ∧ (s.driftKept drift).cal.driftAt = s.now ∧
    (s.driftKept drift).now = s.now := ⟨rfl, rfl, rfl⟩

theorem driftTrack_marks (dr : List Int) (hen : s.on R.CAL_CTRL_BG_EN = true) (hsup : s.dom dSUPV = true) (hrun : s.cal.run ≠ 3) :
    goesOn (exec (.driftTrack dr) s) fun t =>
      t.cal.drift = dr.take 8 ∧ t.now = max s.now (s.cal.driftAt + 10 * msClk) ∧ t.cal.driftAt = t.now ∧ t.on ⟨R.CAL_BG_STAT_STARVED.reg, 1, 1⟩ = false ∧
      ∀ n, n < 8 → 200 < (dr.getD n 0).natAbs → t.on (R.CAL_STRBn_DRIFT n) = true := by
  have hexec : exec (.driftTrack dr) s = .next ((List.range 8).foldl (State.driftMarked dr)
      (((s.at (s.cal.driftAt + 10 * msClk)).driftKept dr).bgProgress 1)) := by
    show Host.Outcome.next (s.driftTrack dr) = _
    unfold State.driftTrack
    rw [if_neg (by simp [hen, hsup, hrun])]
    rfl
  refine ⟨_, hexec, ?_⟩
  obtain ⟨hdrift, hat, hnow⟩ := (s.at (s.cal.driftAt + 10 * msClk)).driftKept_shows dr
  have hnowAt : (s.at (s.cal.driftAt + 10 * msClk)).now = max s.now (s.cal.driftAt + 10 * msClk) := rfl
  generalize s.at (s.cal.driftAt + 10 * msClk) = v at *
  generalize v.driftKept dr = w at *
  obtain ⟨hbgNow, -, -, hbgCal⟩ := w.bgProgress_shows 1 (by decide)
  have hstarved : (w.bgProgress 1).get ⟨R.CAL_BG_STAT_STARVED.reg, 1, 1⟩ = 0 := by
    unfold State.bgProgress
    dsimp only
    rw [if_neg (by decide), State.get_put_fits _ (by decide) (by decide)]
  have hdriftBg : (w.bgProgress 1).cal.drift = dr.take 8 ∧ (w.bgProgress 1).cal.driftAt = v.now := by rw [hbgCal]; exact ⟨hdrift, hat⟩
  generalize w.bgProgress 1 = x at *
  obtain ⟨hcal, hnowX, hget⟩ := List.foldlRecOn (motive := fun t : State => t.cal = x.cal ∧ t.now = x.now ∧
      t.get ⟨R.CAL_BG_STAT_STARVED.reg, 1, 1⟩ = x.get ⟨R.CAL_BG_STAT_STARVED.reg, 1, 1⟩) (List.range 8) (State.driftMarked dr) ⟨rfl, rfl, rfl⟩
    fun t ht n _ => by
      obtain ⟨hcal, hnow, hget⟩ := t.driftMarked_frame dr n
      exact ⟨hcal.trans ht.1, hnow.trans ht.2.1, hget.trans ht.2.2⟩
  have hnowT := hnowX.trans (hbgNow.trans hnow)
  refine ⟨hcal ▸ hdriftBg.1, hnowT.trans hnowAt, ?_, ?_, fun n hn hfar => ?_⟩
  · rw [hcal, hdriftBg.2, hnowT]
  · rw [State.on_of_get hget]
    exact State.on_of_zero hstarved
  · exact foldl_brings (P := fun t n => 200 < absI (dr.getD n 0) → t.on (R.CAL_STRBn_DRIFT n) = true)
      (fun t m n ht hf => t.driftMarked_stays dr m n (ht hf)) (fun t n hf => t.driftMarked_marks dr n hf) (List.mem_range.mpr hn) x hfar

/-! ## Starvation -/

theorem bgStarved_tells (act : Fin 4) (hrun : s.inRun = true) (hcan : s.canStarve act.val = true)
    (hoff : s.on ⟨R.CAL_BG_STAT_STARVED.reg, act.val, 1⟩ = false) : goesOn (exec (.bgStarved act) s) fun t =>
      t.on ⟨R.CAL_BG_STAT_STARVED.reg, act.val, 1⟩ = true ∧ told s t E.CAL_STARVED ∧ t.now = s.now + (10 * secClk - s.bgIdle act.val) ∧
      (act.val = 2 → t.get R.NVS_STAT_STARVED = 1 ∧ told s t E.NVS_STARVED) := by
  have hexec : exec (.bgStarved act) s = .next (
      let v := ((s.at (s.now + (10 * secClk - s.bgIdle act.val))).put ⟨R.CAL_BG_STAT_STARVED.reg, act.val, 1⟩ 1).raise E.CAL_STARVED
      if act.val = 2 then (v.put R.NVS_STAT_STARVED 1).raise E.NVS_STARVED else v) := by
    show Host.Outcome.next (s.bgStarved act.val) = _
    unfold State.bgStarved
    dsimp only
    rw [if_neg (by simp [hrun, hcan, hoff])]
  refine ⟨_, hexec, ?_⟩
  dsimp only
  have hnow : (s.at (s.now + (10 * secClk - s.bgIdle act.val))).now = s.now + (10 * secClk - s.bgIdle act.val) := Nat.max_eq_right (Nat.le_add_right _ _)
  have hget (g : Fld) : (s.at (s.now + (10 * secClk - s.bgIdle act.val))).get g = s.get g := rfl
  generalize s.at (s.now + (10 * secClk - s.bgIdle act.val)) = u at *
  have hact := act.isLt
  have hmark : (u.put ⟨R.CAL_BG_STAT_STARVED.reg, act.val, 1⟩ 1).get ⟨R.CAL_BG_STAT_STARVED.reg, act.val, 1⟩ = 1 :=
    State.get_put_fits _ (show act.val + 1 ≤ 32 by omega) (show 1 < 2 ^ 1 by decide)
  have hother (g : Fld) (hg : g.reg ≠ R.CAL_BG_STAT_STARVED.reg) : (u.put ⟨R.CAL_BG_STAT_STARVED.reg, act.val, 1⟩ 1).get g = s.get g :=
    (State.get_put_reg _ (f := ⟨R.CAL_BG_STAT_STARVED.reg, act.val, 1⟩) 1 hg).trans (hget g)
  have hnowPut : (u.put ⟨R.CAL_BG_STAT_STARVED.reg, act.val, 1⟩ 1).now = u.now := State.put_now ..
  generalize u.put ⟨R.CAL_BG_STAT_STARVED.reg, act.val, 1⟩ 1 = v at *
  have htold : told s (v.raise E.CAL_STARVED) E.CAL_STARVED := told_raise_of_cnt (by decide) fun b hb => by
    cases hb
    exact hother _ (by decide)
  have hstarved : (v.raise E.CAL_STARVED).on ⟨R.CAL_BG_STAT_STARVED.reg, act.val, 1⟩ = true :=
    State.on_of_one ((State.get_raise_other _ (f := ⟨R.CAL_BG_STAT_STARVED.reg, act.val, 1⟩)
      (show R.CAL_BG_STAT_STARVED.reg ∉ toldRegs E.CAL_STARVED by decide)).trans hmark)
  have hnowV : (v.raise E.CAL_STARVED).now = s.now + (10 * secClk - s.bgIdle act.val) := by rw [State.raise_now, hnowPut, hnow]
  by_cases htwo : act.val = 2
  · rw [if_pos htwo]
    have hnvs (g : Fld) (hg : g.reg ∉ toldRegs E.CAL_STARVED) : (v.raise E.CAL_STARVED).get g = v.get g := State.get_raise_other v hg
    have hcnt : (v.raise E.CAL_STARVED).get (evtCnt 0x022 3) = s.get (evtCnt 0x022 3) := (hnvs _ (by decide)).trans (hother _ (by decide))
    generalize v.raise E.CAL_STARVED = w at *
    have hput : w.regsSame (w.put R.NVS_STAT_STARVED 1) [R.NVS_STAT_STARVED.reg] := State.regsSame_put _ (.head _)
    have hone : (w.put R.NVS_STAT_STARVED 1).get R.NVS_STAT_STARVED = 1 := State.get_put_fits _ (by decide) (by decide)
    have hnowW : (w.put R.NVS_STAT_STARVED 1).now = w.now := State.put_now ..
    have htoldW := told_of_regsSame htold hput (by decide)
    have hstarvedW : (w.put R.NVS_STAT_STARVED 1).on ⟨R.CAL_BG_STAT_STARVED.reg, act.val, 1⟩ = true :=
      (State.on_of_get (State.get_of_regsSame (f := ⟨R.CAL_BG_STAT_STARVED.reg, act.val, 1⟩) hput
        (show R.CAL_BG_STAT_STARVED.reg ∉ [R.NVS_STAT_STARVED.reg] by decide))).trans hstarved
    have hcntW := (State.get_of_regsSame (f := evtCnt 0x022 3) hput (by decide)).trans hcnt
    generalize w.put R.NVS_STAT_STARVED 1 = x at *
    refine ⟨(State.on_of_get (State.get_raise_other _ (f := ⟨R.CAL_BG_STAT_STARVED.reg, act.val, 1⟩)
      (show R.CAL_BG_STAT_STARVED.reg ∉ toldRegs E.NVS_STARVED by decide))).trans hstarvedW,
      told_raise_other htoldW (by decide) (by decide) (by decide) (.inl (by decide)), by rw [State.raise_now, hnowW, hnowV], fun _ => ⟨?_, ?_⟩⟩
    · rw [State.get_raise_clear (by decide), hone]
    · refine told_raise_of_cnt (by decide) fun b hb => ?_
      obtain rfl : 3 = b := Option.some.inj hb
      exact hcntW
  · rw [if_neg htwo]
    exact ⟨hstarved, htold, hnowV, fun h => absurd h htwo⟩

end Sys2Proof.Machine
end

/-! PROOFS. O54: a candidate's check, and the hand-back behind it (R317, R320, R321). -/
section
-- One theorem after the other: the default proofs of the side conditions below are run by the elaborator, which waits for all that stands before.
set_option Elab.async false
namespace Sys2Proof.Machine

variable {s t : State} {b sh : Nat} {c : Cand}

/-! ## A failed check stays told -/

/-- A failed check of a converter has been told. -/
def State.convFailed (s : State) : Prop := s.get (intRawBit E.CAL_CONV_FAIL) = 1

theorem State.convFailed.put {f : Fld} {v : Nat} (h : s.convFailed) (hf : 0x27010 ≠ f.reg := by decide) : (s.put f v).convFailed :=
  (State.get_put_reg s (g := intRawBit E.CAL_CONV_FAIL) v hf).trans h

theorem State.convFailed.raise {e : Ev} (h : s.convFailed) (he : e.bit < 32 := by decide) (hc : ∀ b, e.cnt = some b → b < 16 := by decide) :
    (s.raise e).convFailed := State.raise_get_raw h he hc

theorem State.convFailed.setConv {k : Nat} {v : Conv} (h : s.convFailed) : (s.setConv k v).convFailed := h

theorem State.convFailed.setSpare {x : Spare} (h : s.convFailed) : (s.setSpare b sh x).convFailed := h

theorem State.setSpare_spareAt (x : Spare) : (s.setSpare b sh x).spareAt b sh = x := mapGet_set_same _ _ _ _

theorem State.convFailed.badSum (h : s.convFailed) : (s.badSum b sh).convFailed := by
  refine h.put ?_
  show 0x27010 ≠ 0x270C0 + 0x4 * ((b * 192 + sh) / 32)
  omega

theorem State.convFailed.quality (h : s.convFailed) : (s.quality b).convFailed := by
  unfold State.quality
  refine (h.put ?_).put ?_
  · show 0x27010 ≠ 0x27060 + 0x4 * b
    omega
  · show 0x27010 ≠ 0x27060 + 0x4 * b
    omega

theorem State.convFailed.passEnd (h : s.convFailed) : s.passEnd.convFailed := by
  have hq : ([0, 1, 2, 3].foldl State.quality s).convFailed :=
    List.foldlRecOn (motive := State.convFailed) _ _ h fun _ ht _ _ => ht.quality
  unfold State.passEnd
  generalize [0, 1, 2, 3].foldl State.quality s = u at hq ⊢
  dsimp only
  have hself : (if (u.cal.first && u.cal.conv.any fun (_, c) => c.bad || c.badUncov) = true then u.put ⟨R.SYS_SELFTEST_FAIL.reg, 8, 1⟩ 1
      else u).convFailed := by
    split
    · exact hq.put
    · exact hq
  generalize (if (u.cal.first && u.cal.conv.any fun (_, c) => c.bad || c.badUncov) = true then u.put ⟨R.SYS_SELFTEST_FAIL.reg, 8, 1⟩ 1
      else u) = v at hself ⊢
  have hv : (State.convFailed { v with cal := { v.cal with first := false, passTime := v.now } }) := hself
  exact hv.put.put.put.raise

theorem State.convFailed.handBack (h : s.convFailed) : (s.handBack b sh).convFailed := by
  unfold State.handBack
  dsimp only
  split
  · exact h
  · split
    · exact h
    · split
      · refine State.convFailed.raise (State.convFailed.put (State.convFailed.badSum ?_))
        exact h
      · exact h

theorem State.convFailed.calTakeover (h : s.convFailed) : s.calTakeover.convFailed := by
  unfold State.calTakeover
  have hfold := List.foldlRecOn (motive := State.convFailed) ((s.cal.spare.filter (fun (_, x) => x.cand.isSome)).map Prod.fst)
    (fun s k => s.handBack (k / 192) (k % 192)) h fun _ ht _ _ => ht.handBack
  dsimp only
  split
  · exact hfold.passEnd
  · exact hfold

/-! ## The check -/

/-- The check of a candidate for a converter whose values are the given ones. -/
def State.codeOf (s : State) (old : Conv) (c : Cand) : Nat := checkCode s.cal.first (s.on R.CAL_CTRL_L16_AGREE) old c

/-- A spare whose own calibration has failed ends its part in the pass, for good at the third failure in a row (R320). -/
def State.spareOut (s : State) (b sh : Nat) (x : Spare) (new : Conv) : State :=
  if 3 ≤ new.fails then ((s.setConv (spareKey b sh) { new with bad := true }).badSum b sh).setSpare b sh { x with dead := true }
  else (s.setConv (spareKey b sh) new).setSpare b sh { x with done := true }

theorem State.convFailed.spareOut (h : s.convFailed) (x : Spare) (new : Conv) : (s.spareOut b sh x new).convFailed := by
  unfold State.spareOut
  split
  · exact h.setConv.badSum.setSpare
  · exact h.setConv.setSpare

theorem State.calSpare_fails (h : s.codeOf (s.convAt (spareKey b sh)) c ≠ 0) : (s.calSpare b sh c).convFailed := by
  unfold State.calSpare
  dsimp only
  unfold State.codeOf at h
  rw [if_neg h]
  generalize checkCode s.cal.first (s.on R.CAL_CTRL_L16_AGREE) (s.convAt (spareKey b sh)) c = code at h ⊢
  generalize afterCheck (s.convAt (spareKey b sh)) c code = new
  generalize s.spareAt b sh = x
  have hraise : (s.raise E.CAL_CONV_FAIL).convFailed := State.get_raise _ _ (by decide)
  generalize s.raise E.CAL_CONV_FAIL = u at hraise ⊢
  show (if (u.spareOut b sh x new).passOver then (u.spareOut b sh x new).passEnd else u.spareOut b sh x new).convFailed
  split
  · exact (hraise.spareOut x new).passEnd
  · exact hraise.spareOut x new

theorem State.calSpare_passes (h : s.codeOf (s.convAt (spareKey b sh)) c = 0) : s.calSpare b sh c =
    (s.setConv (spareKey b sh) (afterCheck (s.convAt (spareKey b sh)) c 0)).setSpare b sh
      { s.spareAt b sh with cand := some (true, afterCheck (s.convAt (spareKey b sh)) c 0) } := by
  unfold State.codeOf at h
  unfold State.calSpare
  dsimp only
  rw [h, if_pos rfl]

theorem State.calColumn_fails {key : Nat} (hkey : key = convKey b (posAt sh ((s.spareAt b sh).idx - 1))) (h : s.codeOf (s.convAt key) c ≠ 0) :
    (s.calColumn b sh c).convFailed := by
  subst hkey
  unfold State.codeOf at h
  unfold State.calColumn
  dsimp only
  rw [if_neg h]
  exact State.get_raise _ _ (by decide)

/-- What is shown of a converter and of a spare once both are kept. -/
theorem State.setConv_setSpare (k : Nat) (v : Conv) (x : Spare) : ((s.setConv k v).setSpare b sh x).convAt k = v ∧
    ((s.setConv k v).setSpare b sh x).spareAt b sh = x ∧ ((s.setConv k v).setSpare b sh x).readoutIdle = s.readoutIdle :=
  ⟨mapGet_set_same _ _ _ _, mapGet_set_same _ _ _ _, rfl⟩

theorem State.calColumn_shows {key : Nat} (hkey : key = convKey b (posAt sh ((s.spareAt b sh).idx - 1))) :
    (s.calColumn b sh c).spareAt b sh = { s.spareAt b sh with
      cand := some (s.codeOf (s.convAt key) c = 0, afterCheck (s.convAt key) c (s.codeOf (s.convAt key) c)) } ∧
    (s.calColumn b sh c).convAt key = { s.convAt key with code := s.codeOf (s.convAt key) c } ∧ (s.calColumn b sh c).readoutIdle = s.readoutIdle := by
  subst hkey
  unfold State.calColumn
  dsimp only
  unfold State.codeOf
  generalize checkCode s.cal.first (s.on R.CAL_CTRL_L16_AGREE) (s.convAt (convKey b (posAt sh ((s.spareAt b sh).idx - 1)))) c = code
  have hidle : (if code = 0 then s else s.raise E.CAL_CONV_FAIL).readoutIdle = s.readoutIdle := by
    split
    · rfl
    · rw [State.readoutIdle, State.inRun_of_get (State.raise_pwr s E.CAL_CONV_FAIL) (State.get_raise_clear (by decide)),
        State.on_of_get (s := s) (State.get_raise_clear (by decide)), State.raise_tick, State.readoutIdle]
  generalize (if code = 0 then s else s.raise E.CAL_CONV_FAIL) = u at hidle ⊢
  obtain ⟨hconv, hspare, hread⟩ := State.setConv_setSpare (s := u) (b := b) (sh := sh) (convKey b (posAt sh ((s.spareAt b sh).idx - 1)))
    { s.convAt (convKey b (posAt sh ((s.spareAt b sh).idx - 1))) with code := code }
    { s.spareAt b sh with cand := some (code = 0, afterCheck (s.convAt (convKey b (posAt sh ((s.spareAt b sh).idx - 1)))) c code) }
  exact ⟨hspare, hconv, hread.trans hidle⟩

/-! ## The first takeover -/

/-- The one spare that has begun, once it has calibrated itself, takes over its first position. -/
theorem State.calTakeover_first (hb : b < 4) (hsh : sh < 192) {v : Conv} {k : Nat}
    (hspare : s.cal.spare = [(b * 192 + sh, { cand := some (true, v) })]) :
    s.calTakeover.convAt k = s.convAt k ∧ s.calTakeover.spareAt b sh = { idx := 1 } := by
  have hkey : (b * 192 + sh) / 192 = b ∧ (b * 192 + sh) % 192 = sh := by omega
  have hat : s.spareAt b sh = { cand := some (true, v) } := by
    unfold State.spareAt mapGet
    rw [hspare, mapFind, if_pos rfl]
    rfl
  have hback : s.handBack b sh = s.setSpare b sh { idx := 1 } := by
    unfold State.handBack
    dsimp only
    rw [hat]
    rfl
  have hone : (s.setSpare b sh { idx := 1 }).spareAt b sh = { idx := 1 } := State.setSpare_spareAt _
  have hgoing : (s.setSpare b sh { idx := 1 }).passOver = false := by
    refine Bool.eq_false_iff.mpr fun hover => ?_
    have hmem := List.all_eq_true.mp hover (b * 192 + sh) (List.mem_range.mpr (by omega))
    have hsame : mapGet {} (s.setSpare b sh { idx := 1 }).cal.spare (b * 192 + sh) = { idx := 1 } := hone
    rw [hsame] at hmem
    exact Bool.noConfusion hmem
  have htake : s.calTakeover = s.setSpare b sh { idx := 1 } := by
    unfold State.calTakeover
    rw [hspare]
    simp only [List.filter_cons, Option.isSome_some, if_true, List.filter_nil, List.map_cons, List.map_nil, List.foldl_cons, List.foldl_nil, hkey.1, hkey.2,
      hback, hgoing, Bool.and_false, Bool.false_eq_true, if_false]
  rw [htake]
  exact ⟨rfl, hone⟩

/-! ## A position's end -/

/-- The key of the converter under calibration. -/
def State.keyOf (s : State) (b sh : Nat) : Nat :=
  if (s.spareAt b sh).idx = 0 then spareKey b sh else convKey b (posAt sh ((s.spareAt b sh).idx - 1))

/-- The candidate is checked. -/
def State.calChecked (s : State) (b sh : Nat) (c : Cand) : State := if (s.spareAt b sh).idx = 0 then s.calSpare b sh c else s.calColumn b sh c

theorem State.calChecked_fails (h : s.codeOf (s.convAt (s.keyOf b sh)) c ≠ 0) : (s.calChecked b sh c).convFailed := by
  unfold State.calChecked
  unfold State.keyOf at h
  split at h
  · next hz => rw [if_pos hz]; exact State.calSpare_fails h
  · next hz => rw [if_neg hz]; exact State.calColumn_fails rfl h

theorem State.calPosition_eq (h : s.calWorks b sh = true) : s.calPosition b sh c =
    if ((s.bgProgress 0).calChecked b sh c).readoutIdle then ((s.bgProgress 0).calChecked b sh c).calTakeover
    else (s.bgProgress 0).calChecked b sh c := by
  unfold State.calPosition
  rw [if_neg (by rw [h]; decide)]
  rfl

/-- Progress of the converter cycle leaves what a check uses. -/
theorem State.bgProgress_cycle : (∀ b sh, (s.bgProgress 0).spareAt b sh = s.spareAt b sh) ∧ (∀ k, (s.bgProgress 0).convAt k = s.convAt k) ∧
    (∀ old c, (s.bgProgress 0).codeOf old c = s.codeOf old c) ∧ (s.bgProgress 0).readoutIdle = s.readoutIdle ∧
    (∀ b sh, (s.bgProgress 0).keyOf b sh = s.keyOf b sh) ∧ (s.bgProgress 0).cal.spare = s.cal.spare := by
  have honly := s.bgProgress_only 0 (by decide)
  obtain ⟨-, hrun, htick, hcal⟩ := s.bgProgress_shows 0 (by decide)
  have hspare : ∀ b sh, (s.bgProgress 0).spareAt b sh = s.spareAt b sh := fun b sh => by rw [State.spareAt, hcal, State.spareAt]
  refine ⟨hspare, fun k => by rw [State.convAt, hcal, State.convAt], fun old c => ?_, ?_, fun b sh => by rw [State.keyOf, hspare, State.keyOf], by rw [hcal]⟩
  · rw [State.codeOf, hcal, State.on_of_get (State.get_of_only honly (by decide)), State.codeOf]
  · rw [State.readoutIdle, hrun, htick, State.on_of_get (State.get_of_only honly (by decide)), State.readoutIdle]

theorem State.calPosition_shows (hb : b < 4) (hsh : sh < 192) (hworks : s.calWorks b sh = true) :
    ((s.spareAt b sh).idx = 0 → s.codeOf (s.convAt (s.keyOf b sh)) c = 0 → s.readoutIdle = false →
      (s.calPosition b sh c).convAt (s.keyOf b sh) = afterCheck (s.convAt (s.keyOf b sh)) c 0 ∧
      (s.calPosition b sh c).spareAt b sh = { s.spareAt b sh with cand := some (true, afterCheck (s.convAt (s.keyOf b sh)) c 0) }) ∧
    (s.cal.spare = [] → s.codeOf (s.convAt (s.keyOf b sh)) c = 0 → s.readoutIdle = true →
      (s.calPosition b sh c).convAt (s.keyOf b sh) = afterCheck (s.convAt (s.keyOf b sh)) c 0 ∧ (s.calPosition b sh c).spareAt b sh = { idx := 1 }) ∧
    ((s.spareAt b sh).idx ≠ 0 → s.readoutIdle = false → (s.calPosition b sh c).spareAt b sh = { s.spareAt b sh with
        cand := some (s.codeOf (s.convAt (s.keyOf b sh)) c = 0, afterCheck (s.convAt (s.keyOf b sh)) c (s.codeOf (s.convAt (s.keyOf b sh)) c)) } ∧
      (s.calPosition b sh c).convAt (s.keyOf b sh) = { s.convAt (s.keyOf b sh) with code := s.codeOf (s.convAt (s.keyOf b sh)) c }) ∧
    (s.codeOf (s.convAt (s.keyOf b sh)) c ≠ 0 → (s.calPosition b sh c).convFailed) := by
  rw [State.calPosition_eq hworks]
  obtain ⟨hspare, hconv, hcode, hidle, hkey, hlist⟩ := s.bgProgress_cycle
  rw [← hspare, ← hkey, ← hconv, ← hcode, ← hidle, ← hlist]
  generalize s.bgProgress 0 = u
  refine ⟨fun hz hpass hread => ?_, fun hnil hpass hread => ?_, fun hz hread => ?_, fun hfail => ?_⟩
  · have hkeyOf : u.keyOf b sh = spareKey b sh := if_pos hz
    rw [hkeyOf] at hpass ⊢
    have hcheck : u.calChecked b sh c = _ := (if_pos hz).trans (State.calSpare_passes hpass)
    rw [hcheck]
    obtain ⟨hconv', hspare', hread'⟩ := State.setConv_setSpare (s := u) (b := b) (sh := sh) (spareKey b sh)
      (afterCheck (u.convAt (spareKey b sh)) c 0) { u.spareAt b sh with cand := some (true, afterCheck (u.convAt (spareKey b sh)) c 0) }
    rw [if_neg (by rw [hread', hread]; exact Bool.false_ne_true)]
    exact ⟨hconv', hspare'⟩
  · have hat : u.spareAt b sh = {} := by rw [State.spareAt, hnil]; rfl
    have hz : (u.spareAt b sh).idx = 0 := by rw [hat]
    have hkeyOf : u.keyOf b sh = spareKey b sh := if_pos hz
    rw [hkeyOf] at hpass ⊢
    have hcheck : u.calChecked b sh c = _ := (if_pos hz).trans (State.calSpare_passes hpass)
    rw [hcheck, hat]
    obtain ⟨hconv', -, hread'⟩ := State.setConv_setSpare (s := u) (b := b) (sh := sh) (spareKey b sh)
      (afterCheck (u.convAt (spareKey b sh)) c 0) { cand := some (true, afterCheck (u.convAt (spareKey b sh)) c 0) }
    have hone : ((u.setConv (spareKey b sh) (afterCheck (u.convAt (spareKey b sh)) c 0)).setSpare b sh
        { cand := some (true, afterCheck (u.convAt (spareKey b sh)) c 0) }).cal.spare =
        [(b * 192 + sh, { cand := some (true, afterCheck (u.convAt (spareKey b sh)) c 0) })] := by
      show mapSet ({} : Spare) u.cal.spare (b * 192 + sh) { cand := some (true, afterCheck (u.convAt (spareKey b sh)) c 0) } = _
      rw [hnil, mapSet, if_neg (by intro h; cases h), mapIns]
    obtain ⟨hkeep, hfirst⟩ := State.calTakeover_first hb hsh hone (k := spareKey b sh)
    rw [if_pos (by rw [hread', hread])]
    exact ⟨hkeep.trans hconv', hfirst⟩
  · have hkeyOf : u.keyOf b sh = convKey b (posAt sh ((u.spareAt b sh).idx - 1)) := if_neg hz
    have hcheck : u.calChecked b sh c = u.calColumn b sh c := if_neg hz
    obtain ⟨hspare', hconv', hread'⟩ := State.calColumn_shows (c := c) hkeyOf
    rw [hcheck, if_neg (by rw [hread', hread]; exact Bool.false_ne_true)]
    exact ⟨hspare', hconv'⟩
  · have hraised := State.calChecked_fails hfail
    split
    · exact hraised.calTakeover
    · exact hraised

theorem calPositionDone_checks (b : Fin 4) (sh : Fin 192) (ot gt : BitVec 6) (oc gc o g o1 g1 : Int) (ws ws1 : List Int)
    (hworks : s.calWorks b.val sh.val = true) : goesOn (exec (.calPositionDone b sh ot gt oc gc o g ws ⟨o1, g1, ws1⟩) s) fun t =>
      let c : Cand := ⟨ot.toNat, gt.toNat, oc, gc, o, g, ws, o1, g1, ws1⟩
      let x := s.spareAt b.val sh.val
      let key := if x.idx = 0 then spareKey b.val sh.val else convKey b.val (posAt sh.val (x.idx - 1))
      let old := s.convAt key
      let code := checkCode s.cal.first (s.on R.CAL_CTRL_L16_AGREE) old c
      (x.idx = 0 → code = 0 → s.readoutIdle = false → t.convAt key = afterCheck old c 0 ∧
        t.spareAt b.val sh.val = { x with cand := some (true, afterCheck old c 0) }) ∧
      (s.cal.spare = [] → code = 0 → s.readoutIdle = true → t.convAt key = afterCheck old c 0 ∧ t.spareAt b.val sh.val = { idx := 1 }) ∧
      (x.idx ≠ 0 → s.readoutIdle = false → t.spareAt b.val sh.val = { x with cand := some (code = 0, afterCheck old c code) } ∧
        t.convAt key = { old with code := code }) ∧
      (code ≠ 0 → t.get (intRawBit E.CAL_CONV_FAIL) = 1) :=
  ⟨_, rfl, State.calPosition_shows b.isLt sh.isLt hworks⟩

end Sys2Proof.Machine
end

/-! PROOFS. O54: calibration runs begin, end, load and apply sets (R318, R324–R329). -/
section
-- One theorem after the other: the default proofs of the side conditions below are run by the elaborator, which waits for all that stands before.
set_option Elab.async false
namespace Sys2Proof.Machine

variable {s t : State}

/-! ## A run begins -/

/-- The count of a run begins at 0. -/
def State.countCleared (s : State) : State := { s with cal := { s.cal with count := 0 } }

/-- A run of a kind is in progress. -/
def State.runOpened (s : State) (kind : Nat) : State := { s with cal := { s.cal with run := kind, code := 0, result := none, store := false } }

/-- A run has begun, and shows its command and its kind. -/
def State.runBegun (s : State) (op kind : Nat) : State := ((s.countCleared.put R.CAL_CMD_OP op).runOpened kind).put R.CAL_STAT_RUN kind

theorem State.runBegun_shows {op kind : Nat} (hkind : kind < 8) : (s.runBegun op kind).cal.run = kind ∧ (s.runBegun op kind).get R.CAL_STAT_RUN = kind ∧
    (s.runBegun op kind).cal.force = s.cal.force ∧ (s.runBegun op kind).cal.trims = s.cal.trims ∧ (s.runBegun op kind).cal.tickPh = s.cal.tickPh ∧
    (s.runBegun op kind).fuse = s.fuse ∧ only s (s.runBegun op kind) [R.CAL_CMD_OP.reg, R.CAL_STAT_RUN.reg] := by
  have hcal : (s.runBegun op kind).cal = { s.cal with count := 0, run := kind, code := 0, result := none, store := false } := by
    unfold State.runBegun
    rw [State.put_cal, State.runOpened, State.put_cal]
    rfl
  have hcount : only s s.countCleared [R.CAL_CMD_OP.reg, R.CAL_STAT_RUN.reg] := only_of_eq rfl rfl rfl rfl rfl
  have hput : only s (s.countCleared.put R.CAL_CMD_OP op) [R.CAL_CMD_OP.reg, R.CAL_STAT_RUN.reg] := only_trans hcount (only_put _ (.head _))
  have hopen : only s ((s.countCleared.put R.CAL_CMD_OP op).runOpened kind) [R.CAL_CMD_OP.reg, R.CAL_STAT_RUN.reg] :=
    only_trans hput (only_of_eq rfl rfl rfl rfl rfl)
  refine ⟨by rw [hcal], State.get_put_fits _ (by decide) hkind, by rw [hcal], by rw [hcal], by rw [hcal], ?_,
    only_trans hopen (only_put _ (.tail _ (.head _)))⟩
  unfold State.runBegun
  rw [State.put_fuse, State.runOpened, State.put_fuse]
  rfl

theorem State.calGo_eq {op kind : Nat} {start : State → State} (hserved : s.served 0x027 = true) (hrun : s.cal.run = 0)
    (hfree : kind < 4 → s.inRun = true ∧ s.jobRunning = false) : s.calGo op kind start = start (s.runBegun op kind) := by
  have hin : (s.countCleared.put R.CAL_CMD_OP op).inRun = s.inRun := State.inRun_of_get (State.put_pwr ..) (State.get_put_off (s := s.countCleared) _
    (show R.PWR_STAT_STATE.off R.CAL_CMD_OP = true by decide))
  have hjob : (s.countCleared.put R.CAL_CMD_OP op).jobRunning = s.jobRunning := by rw [State.jobRunning, State.put_job]; rfl
  have hno : ¬(kind < 4 && (!(s.countCleared.put R.CAL_CMD_OP op).inRun || (s.countCleared.put R.CAL_CMD_OP op).jobRunning)) = true := by
    rw [hin, hjob]
    intro h
    rw [Bool.and_eq_true, decide_eq_true_eq] at h
    obtain ⟨hin', hjob'⟩ := hfree h.1
    rw [hin', hjob'] at h
    exact Bool.noConfusion h.2
  unfold State.calGo
  rw [if_neg (by simp [hserved, hrun])]
  show (if (kind < 4 && (!(s.countCleared.put R.CAL_CMD_OP op).inRun || (s.countCleared.put R.CAL_CMD_OP op).jobRunning)) = true then _ else _) = _
  rw [if_neg hno]
  rfl

theorem State.calGo_free {op kind : Nat} {start : State → State} (h : calFree s) : s.calGo op kind start = start (s.runBegun op kind) := by
  obtain ⟨hserved, hrun, hin, hjob⟩ := h
  exact State.calGo_eq hserved hrun fun _ => ⟨hin, hjob⟩

theorem State.calOutcome_shows (code count : Nat) (res : Option CalSet) (store : Bool) : (s.calOutcome code count res store).cal.run = s.cal.run ∧
    (s.calOutcome code count res store).cal.code = code ∧ (s.calOutcome code count res store).cal.count = count ∧
    (s.calOutcome code count res store).cal.result = res ∧ (s.calOutcome code count res store).cal.store = store ∧
    only s (s.calOutcome code count res store) [] := ⟨rfl, rfl, rfl, rfl, rfl, only_of_eq rfl rfl rfl rfl rfl⟩

/-! ## A run ends -/

/-- The run is over. -/
def State.runClosed (s : State) : State :=
  { s with cal := { s.cal with run := 0, result := none, store := false, sw24 := false, trimRes := [], tph := 0, phRes := 0 } }

/-- The run's code and count are shown, and the 24 V switch closes again where a run has opened it. -/
def State.codeShown (s : State) (code count : Nat) (sw : Bool) : State :=
  let s2 := ((s.put R.CAL_STAT_RUN 0).put R.CAL_RESULT_CODE code).put R.CAL_RESULT_COUNT count
  if sw then s2.put R.LAMP_STAT_SW_24V 1 else s2

theorem State.calEnd_eq (code : Nat) : s.calEnd code = (s.runClosed.codeShown code s.cal.count s.cal.sw24).raise
    (if code = 0 then E.CAL_RUN_DONE else E.CAL_RUN_FAIL) := rfl

/-- The registers that the end of a run shows in. -/
def runEndRegs : List Nat := [R.CAL_STAT_RUN.reg, R.CAL_RESULT_CODE.reg, R.LAMP_STAT_SW_24V.reg]

theorem State.codeShown_shows (code count : Nat) (sw : Bool) : (s.codeShown code count sw).get R.CAL_STAT_RUN = 0 ∧
    (s.codeShown code count sw).get R.CAL_RESULT_CODE = code % 16 ∧ (s.codeShown code count sw).get R.CAL_RESULT_COUNT = count % 2 ^ 24 ∧
    (s.codeShown code count sw).cal = s.cal ∧ only s (s.codeShown code count sw) runEndRegs := by
  have hput : only s (((s.put R.CAL_STAT_RUN 0).put R.CAL_RESULT_CODE code).put R.CAL_RESULT_COUNT count) runEndRegs :=
    only_trans (only_trans (only_put _ (by decide)) (only_put _ (by decide))) (only_put _ (by decide))
  have hcal : (((s.put R.CAL_STAT_RUN 0).put R.CAL_RESULT_CODE code).put R.CAL_RESULT_COUNT count).cal = s.cal := by
    rw [State.put_cal, State.put_cal, State.put_cal]
  have hrun : (((s.put R.CAL_STAT_RUN 0).put R.CAL_RESULT_CODE code).put R.CAL_RESULT_COUNT count).get R.CAL_STAT_RUN = 0 := by
    rw [State.get_put_off _ (by decide), State.get_put_off _ (by decide), State.get_put_fits _ (by decide) (by decide)]
  have hcode : (((s.put R.CAL_STAT_RUN 0).put R.CAL_RESULT_CODE code).put R.CAL_RESULT_COUNT count).get R.CAL_RESULT_CODE = code % 16 := by
    rw [State.get_put_off _ (by decide)]
    exact State.get_put_same _ code (by decide)
  have hcount : (((s.put R.CAL_STAT_RUN 0).put R.CAL_RESULT_CODE code).put R.CAL_RESULT_COUNT count).get R.CAL_RESULT_COUNT = count % 2 ^ 24 :=
    State.get_put_same _ _ (by decide)
  unfold State.codeShown
  dsimp only
  generalize ((s.put R.CAL_STAT_RUN 0).put R.CAL_RESULT_CODE code).put R.CAL_RESULT_COUNT count = u at *
  split
  · rw [State.get_put_off _ (by decide), State.get_put_off _ (by decide), State.get_put_off _ (by decide), State.put_cal]
    exact ⟨hrun, hcode, hcount, hcal, only_trans hput (only_put _ (by decide))⟩
  · exact ⟨hrun, hcode, hcount, hcal, hput⟩

/-- The event of a run's end. -/
def runEndEvent (code : Nat) : Ev := if code = 0 then E.CAL_RUN_DONE else E.CAL_RUN_FAIL

theorem State.calEnd_shows (code : Nat) : (s.calEnd code).cal = s.runClosed.cal ∧ (s.calEnd code).get R.CAL_STAT_RUN = 0 ∧
    (s.calEnd code).get R.CAL_RESULT_CODE = code % 16 ∧ (s.calEnd code).get R.CAL_RESULT_COUNT = s.cal.count % 2 ^ 24 ∧
    told s (s.calEnd code) (runEndEvent code) ∧ only s (s.calEnd code) (runEndRegs ++ toldRegs E.CAL_RUN_DONE ++ toldRegs E.CAL_RUN_FAIL) := by
  rw [State.calEnd_eq]
  obtain ⟨hrun, hcode, hcount, hcal, honly⟩ := s.runClosed.codeShown_shows code s.cal.count s.cal.sw24
  have hclosed : only s s.runClosed runEndRegs := only_of_eq rfl rfl rfl rfl rfl
  generalize s.runClosed.codeShown code s.cal.count s.cal.sw24 = u at *
  have hsu : only s u runEndRegs := only_trans hclosed honly
  have hev : (runEndEvent code).bit < 32 ∧ toldRegs (runEndEvent code) ⊆ runEndRegs ++ toldRegs E.CAL_RUN_DONE ++ toldRegs E.CAL_RUN_FAIL ∧
      (∀ r ∈ toldRegs (runEndEvent code), r ∉ runEndRegs) ∧ R.CAL_STAT_RUN.clear (toldFields (runEndEvent code)) = true ∧
      R.CAL_RESULT_CODE.clear (toldFields (runEndEvent code)) = true ∧ R.CAL_RESULT_COUNT.clear (toldFields (runEndEvent code)) = true := by
    unfold runEndEvent
    split <;> decide
  show (u.raise (runEndEvent code)).cal = _ ∧ (u.raise (runEndEvent code)).get _ = _ ∧ (u.raise (runEndEvent code)).get _ = _ ∧
    (u.raise (runEndEvent code)).get _ = _ ∧ told s (u.raise (runEndEvent code)) _ ∧ only s (u.raise (runEndEvent code)) _
  generalize runEndEvent code = e at hev ⊢
  obtain ⟨hbit, hregs, hapart, h1, h2, h3⟩ := hev
  refine ⟨by rw [State.raise_cal, hcal], (State.get_raise_clear h1).trans hrun, (State.get_raise_clear h2).trans hcode, (State.get_raise_clear h3).trans hcount,
    told_raise_of_regsSame s hbit hsu.1 hapart, ?_⟩
  exact only_trans (only_mono hsu (fun a ha => List.mem_append_left _ (List.mem_append_left _ ha))) (only_raise hregs)

theorem calDark_refused (sat n unst : Nat) (light : Int) (lv : List LevelSeen) (d d1 : PatternSeen) (hserved : s.served 0x027 = true)
    (hrun : s.cal.run = 0) (hin : s.inRun = false) : goesOn (exec (.calDark ⟨sat, n⟩ unst light lv d d1) s) fun t =>
      t.cal.run = 0 ∧ t.get R.CAL_RESULT_CODE = 1 ∧ told s t E.CAL_RUN_FAIL := by
  have hin' : (s.countCleared.put R.CAL_CMD_OP 1).inRun = false := (State.inRun_of_get (State.put_pwr ..) (State.get_put_off (s := s.countCleared) _
    (show R.PWR_STAT_STATE.off R.CAL_CMD_OP = true by decide))).trans hin
  have hexec : exec (.calDark ⟨sat, n⟩ unst light lv d d1) s = .next ((s.countCleared.put R.CAL_CMD_OP 1).calEnd 1) := by
    show Host.Outcome.next (s.calDark _) = _
    unfold State.calDark State.calGo
    rw [if_neg (by simp [hserved, hrun])]
    show Host.Outcome.next (if (1 < 4 && (!(s.countCleared.put R.CAL_CMD_OP 1).inRun || (s.countCleared.put R.CAL_CMD_OP 1).jobRunning)) = true then
      (s.countCleared.put R.CAL_CMD_OP 1).calEnd 1 else _) = _
    rw [if_pos (by rw [hin']; rfl)]
  refine ⟨_, hexec, ?_⟩
  obtain ⟨hcal, -, hcode, -, htold, -⟩ := (s.countCleared.put R.CAL_CMD_OP 1).calEnd_shows 1
  refine ⟨by rw [hcal]; rfl, hcode, told_frame htold (L := [R.CAL_CMD_OP.reg]) ?_ (State.regsSame.refl (L := [])) (by decide) (fun _ _ => List.not_mem_nil)⟩
  exact State.regsSame_put (s := s.countCleared) _ (.head _)

theorem calAbort_ends (hserved : s.served 0x027 = true) (hrun : s.cal.run ≠ 0) : goesOn (exec .calAbort s) fun t =>
    t.cal.run = 0 ∧ t.get R.CAL_STAT_RUN = 0 ∧ t.get R.CAL_RESULT_CODE = 7 ∧ told s t E.CAL_RUN_FAIL ∧ ∀ a, t.byte a = s.byte a := by
  have hexec : exec .calAbort s = .next ((s.calEnd 7).put R.CAL_CMD_OP 6) := by
    show Host.Outcome.next (if s.served 0x027 then s.calAbort.put R.CAL_CMD_OP 6 else s) = _
    rw [if_pos hserved, State.calAbort, if_neg hrun]
  refine ⟨_, hexec, ?_⟩
  obtain ⟨hcal, hrun', hcode, -, htold, honly⟩ := s.calEnd_shows 7
  generalize s.calEnd 7 = u at *
  have hput : only u (u.put R.CAL_CMD_OP 6) [R.CAL_CMD_OP.reg] := only_put _ (.head _)
  refine ⟨by rw [State.put_cal, hcal]; rfl, by rw [State.get_put_off _ (by decide), hrun'], by rw [State.get_put_off _ (by decide), hcode],
    told_of_regsSame htold hput.1 (by decide), fun a => (hput.2.2.1 a).trans (honly.2.2.1 a)⟩

end Sys2Proof.Machine
end

/-! PROOFS. O54: TIMING runs, sets loaded and applied, and what a passed run brings into force (R323, R324, R328, R329). -/
section
-- One theorem after the other: the default proofs of the side conditions below are run by the elaborator, which waits for all that stands before.
set_option Elab.async false
namespace Sys2Proof.Machine

variable {s t : State}

/-! ## TIMING -/

/-- The trims that bring each edge to its programmed time. -/
def State.timingTrims (s : State) (late : List Int) : List Int :=
  (List.range 8).map (fun n => toSigned 8 (s.act (R.CAL_STRBn_OFS n)) - roundDiv (late.getD n 0) 10)

/-- Is a trim out of range? -/
def trimsBad (trims : List Int) : Bool := trims.any (fun v => v < -128 || 127 < v)

/-- What a TIMING run has measured. -/
def State.timingSeen (s : State) (trims : List Int) (gate sync : Int) : State :=
  { s with cal := { s.cal with
      sw24 := s.on R.LAMP_STAT_SW_24V, trimRes := if trimsBad trims then [] else trims, tph := phaseLeft gate sync
      phRes := s.cal.tickPh + phaseMove gate sync } }

theorem State.timingSeen_shows (trims : List Int) (gate sync : Int) : (s.timingSeen trims gate sync).cal = { s.cal with
      sw24 := s.on R.LAMP_STAT_SW_24V, trimRes := if trimsBad trims then [] else trims, tph := phaseLeft gate sync
      phRes := s.cal.tickPh + phaseMove gate sync } ∧ ∀ g, (s.timingSeen trims gate sync).get g = s.get g := ⟨rfl, fun _ => rfl⟩

theorem State.calTiming_eq (late : List Int) (gate sync : Int) (h : calFree s) : s.calTiming late gate sync =
    (((s.runBegun 3 3).timingSeen ((s.runBegun 3 3).timingTrims late) gate sync).put R.LAMP_STAT_SW_24V 0).calOutcome
      (if trimsBad ((s.runBegun 3 3).timingTrims late) then 11 else 0) 0 none false := by
  unfold State.calTiming
  rw [State.calGo_free h]
  rfl

theorem calTiming_measures (late : List Int) (gate sync : Int) (h : calFree s) : goesOn (exec (.calTiming late gate sync) s) fun t =>
    let trims := (List.range 8).map (fun n => toSigned 8 (s.act (R.CAL_STRBn_OFS n)) - roundDiv (late.getD n 0) 10)
    let bad := trims.any (fun v => v < -128 || 127 < v)
    t.cal.run = 3 ∧ t.get R.CAL_STAT_RUN = 3 ∧ t.get R.LAMP_STAT_SW_24V = 0 ∧ t.cal.sw24 = s.on R.LAMP_STAT_SW_24V ∧
    t.cal.tph = phaseLeft gate sync ∧ t.cal.phRes = s.cal.tickPh + phaseMove gate sync ∧
    t.cal.code = (if bad then 11 else 0) ∧ t.cal.trimRes = (if bad then [] else trims) ∧ t.cal.trims = s.cal.trims := by
  have hexec : exec (.calTiming late gate sync) s = .next (s.calTiming late gate sync) := rfl
  rw [hexec, State.calTiming_eq late gate sync h]
  refine ⟨_, rfl, ?_⟩
  obtain ⟨hrun, hget, -, htrims, hph, -, honly⟩ := s.runBegun_shows (op := 3) (kind := 3) (by decide)
  have hsame : (s.runBegun 3 3).timingTrims late = s.timingTrims late := by
    unfold State.timingTrims
    exact List.map_congr_left fun n _ => by rw [State.act_of_force honly.2.1]
  have hsw : (s.runBegun 3 3).on R.LAMP_STAT_SW_24V = s.on R.LAMP_STAT_SW_24V := State.on_of_get (State.get_of_only honly (by decide))
  rw [hsame]
  generalize s.runBegun 3 3 = v at *
  show _ ∧ _ ∧ _ ∧ _ ∧ _ ∧ _ ∧ _ = (if trimsBad (s.timingTrims late) then 11 else 0) ∧
    _ = (if trimsBad (s.timingTrims late) then [] else s.timingTrims late) ∧ _
  generalize s.timingTrims late = trims
  obtain ⟨hcal, hseen⟩ := v.timingSeen_shows trims gate sync
  generalize v.timingSeen trims gate sync = w at *
  have hput : (w.put R.LAMP_STAT_SW_24V 0).get R.LAMP_STAT_SW_24V = 0 := State.get_put_fits _ (by decide) (by decide)
  have hstat : (w.put R.LAMP_STAT_SW_24V 0).get R.CAL_STAT_RUN = 3 := by rw [State.get_put_off _ (by decide), hseen, hget]
  have hcalPut : (w.put R.LAMP_STAT_SW_24V 0).cal = w.cal := State.put_cal ..
  generalize w.put R.LAMP_STAT_SW_24V 0 = x at *
  refine ⟨?_, hstat, hput, ?_, ?_, ?_, rfl, ?_, ?_⟩
  · show x.cal.run = 3
    rw [hcalPut, hcal, hrun]
  · show x.cal.sw24 = _
    rw [hcalPut, hcal, hsw]
  · show x.cal.tph = _
    rw [hcalPut, hcal]
  · show x.cal.phRes = _
    rw [hcalPut, hcal, hph]
  · show x.cal.trimRes = _
    rw [hcalPut, hcal]
  · show x.cal.trims = _
    rw [hcalPut, hcal, htrims]

/-! ## LOAD and APPLY -/

theorem Written.cal {L : List Nat} (h : Written s t L) : t.cal = s.cal := by
  obtain ⟨-, regs, mem, poison, memctl, sys, mb, freeIdx, rfl⟩ := h
  rfl

/-- The buffer's range is read, unless it is out of DDR4. -/
def State.bufRead (s : State) (out : Bool) (n : Nat) : State := if out then s else s.ddrRead s.calBuf n

theorem State.bufRead_shows (out : Bool) (n : Nat) : (s.bufRead out n).cal = s.cal ∧ only s (s.bufRead out n) memErrRegs :=
  State.ite_of (P := fun t => t.cal = s.cal ∧ only s t memErrRegs) ⟨rfl, only_refl⟩ ⟨(s.ddrRead_written _ _).cal, s.ddrRead_only _ _⟩

theorem State.bytes_of_byte (h : ∀ a, t.byte a = s.byte a) (a n : Nat) : t.bytes a n = s.bytes a n := by
  induction n generalizing a with
  | zero => rfl
  | succ n ih => rw [State.bytes, h, ih, State.bytes]

theorem State.readSet_of_byte (h : ∀ a, t.byte a = s.byte a) (a : Nat) : t.readSet a = s.readSet a := by
  simp only [State.readSet, State.readTable, State.bytes_of_byte h]

theorem State.calBuf_of_only {L : List Nat} (h : only s t L) (hlo : R.CAL_BUF_LO_ADDR.reg ∉ L := by decide) (hhi : R.CAL_BUF_HI_ADDR.reg ∉ L := by decide) :
    t.calBuf = s.calBuf := by
  rw [State.calBuf, State.get64, State.get_of_only h hlo, State.get_of_only h hhi, State.calBuf, State.get64]

/-- A run of kind 4 that has read the set at the buffer. -/
theorem State.setRead_shows {op : Nat} (out : Bool) (n code : Nat) :
    (((s.runBegun op 4).bufRead out n).calOutcome code 0 (some ((s.runBegun op 4).readSet (s.runBegun op 4).calBuf)) false).cal.run = 4 ∧
    (((s.runBegun op 4).bufRead out n).calOutcome code 0 (some ((s.runBegun op 4).readSet (s.runBegun op 4).calBuf)) false).get R.CAL_STAT_RUN = 4 ∧
    (((s.runBegun op 4).bufRead out n).calOutcome code 0 (some ((s.runBegun op 4).readSet (s.runBegun op 4).calBuf)) false).cal.result =
      some (s.readSet s.calBuf) ∧
    ∀ a, (((s.runBegun op 4).bufRead out n).calOutcome code 0 (some ((s.runBegun op 4).readSet (s.runBegun op 4).calBuf)) false).byte a = s.byte a := by
  obtain ⟨hrun, hget, -, -, -, -, honly⟩ := s.runBegun_shows (op := op) (kind := 4) (by decide)
  have hset : (s.runBegun op 4).readSet (s.runBegun op 4).calBuf = s.readSet s.calBuf := by
    rw [State.calBuf_of_only honly, State.readSet_of_byte honly.2.2.1]
  rw [hset]
  obtain ⟨hcal, hread⟩ := (s.runBegun op 4).bufRead_shows out n
  generalize (s.runBegun op 4).bufRead out n = w at *
  generalize s.runBegun op 4 = v at *
  generalize s.readSet s.calBuf = c
  obtain ⟨hrunOut, -, -, hres, -, honlyOut⟩ := w.calOutcome_shows code 0 (some c) false
  exact ⟨hrunOut.trans (hcal ▸ hrun), (State.get_of_only honlyOut List.not_mem_nil).trans ((State.get_of_only hread (by decide)).trans hget), hres,
    fun a => (honlyOut.2.2.1 a).trans ((hread.2.2.1 a).trans (honly.2.2.1 a))⟩

theorem State.calLoad_eq (hserved : s.served 0x027 = true) (hrun : s.cal.run = 0) : ∃ out n code, s.calLoad =
    ((s.runBegun 4 4).bufRead out n).calOutcome code 0 (some ((s.runBegun 4 4).readSet (s.runBegun 4 4).calBuf)) false := by
  unfold State.calLoad
  rw [State.calGo_eq hserved hrun fun h => absurd h (by decide)]
  exact ⟨_, _, _, rfl⟩

theorem State.calApply_eq (hserved : s.served 0x027 = true) (hrun : s.cal.run = 0) : ∃ out n code, s.calApply =
    ((s.runBegun 5 4).bufRead out n).calOutcome code 0 (some ((s.runBegun 5 4).readSet (s.runBegun 5 4).calBuf)) false := by
  unfold State.calApply
  rw [State.calGo_eq hserved hrun fun h => absurd h (by decide)]
  exact ⟨_, _, _, rfl⟩

theorem calLoad_reads (hserved : s.served 0x027 = true) (hrun : s.cal.run = 0) : goesOn (exec .calLoad s) fun t =>
    t.cal.run = 4 ∧ t.get R.CAL_STAT_RUN = 4 ∧ t.cal.result = some (s.readSet s.calBuf) ∧ ∀ a, t.byte a = s.byte a := by
  obtain ⟨out, n, code, heq⟩ := State.calLoad_eq hserved hrun
  have hexec : exec .calLoad s = .next s.calLoad := rfl
  rw [hexec, heq]
  exact ⟨_, rfl, State.setRead_shows out n code⟩

theorem calApply_reads (hserved : s.served 0x027 = true) (hrun : s.cal.run = 0) : goesOn (exec .calApply s) fun t =>
    t.cal.run = 4 ∧ t.get R.CAL_STAT_RUN = 4 ∧ t.cal.result = some (s.readSet s.calBuf) ∧ ∀ a, t.byte a = s.byte a := by
  obtain ⟨out, n, code, heq⟩ := State.calApply_eq hserved hrun
  have hexec : exec .calApply s = .next s.calApply := rfl
  rw [hexec, heq]
  exact ⟨_, rfl, State.setRead_shows out n code⟩

/-! ## A run's end -/

theorem State.setForce_get {g : Fld} (hg : g.off R.CAL_ACTIVE_ID_ID = true) : s.setForce.get g = s.get g := by
  unfold State.setForce
  split
  · rfl
  · exact State.get_put_off _ hg

/-- The measured set and its residual are kept: no register but CAL_FF_RES and nothing of the calibration's state changes. -/
theorem State.calKeep_shows : s.calKeep.cal = s.cal ∧ (∀ g : Fld, g.off R.CAL_FF_RES_RES = true → s.calKeep.get g = s.get g) ∧
    s.calKeep.pwr = s.pwr ∧ s.calKeep.tick = s.tick ∧
    ∀ c, s.cal.result = some c → s.cal.run = 2 → s.calKeep.get R.CAL_FF_RES_RES = c.ff % 65536 := by
  unfold State.calKeep
  split
  · next hnone => exact ⟨rfl, fun _ _ => rfl, rfl, rfl, fun c hc => nomatch hnone.symm.trans hc⟩
  · next c hc =>
    have hstored : ∀ u : State, u = (if (s.cal.store && s.bufOk c.slots) = true then s.setBytes s.calBuf (s.setBytesOf c) else s) →
        u.cal = s.cal ∧ (∀ g, u.get g = s.get g) ∧ u.pwr = s.pwr ∧ u.tick = s.tick := by
      rintro u rfl
      split
      · have hw : Written s (s.setBytes s.calBuf (s.setBytesOf c)) [] := s.setBytes_written _ _
        generalize s.setBytes s.calBuf (s.setBytesOf c) = u at hw ⊢
        have hgets : ∀ g, u.get g = s.get g := fun g => hw.get List.not_mem_nil
        obtain ⟨-, regs, mem, poison, memctl, sys, mb, freeIdx, rfl⟩ := hw
        exact ⟨rfl, hgets, rfl, rfl⟩
      · exact ⟨rfl, fun _ => rfl, rfl, rfl⟩
    dsimp only
    generalize hu : (if (s.cal.store && s.bufOk c.slots) = true then s.setBytes s.calBuf (s.setBytesOf c) else s) = u
    obtain ⟨hcal, hget, hpwr, htick⟩ := hstored u hu.symm
    split
    · exact ⟨(State.put_cal ..).trans hcal, fun g hg => (State.get_put_off _ hg).trans (hget g), (State.put_pwr ..).trans hpwr, (State.put_tick ..).trans htick,
        fun c' hc' _ => by
          obtain rfl : c = c' := Option.some.inj (hc.symm.trans hc')
          exact State.get_put_same _ _ (by decide)⟩
    · next hrun => exact ⟨hcal, fun g _ => hget g, hpwr, htick, fun _ _ h => absurd h hrun⟩

theorem State.calKeep_idle : s.calKeep.readoutIdle = s.readoutIdle := by
  obtain ⟨-, hget, hpwr, htick, -⟩ := s.calKeep_shows
  rw [State.readoutIdle, State.inRun_of_get hpwr (hget _ (by decide)), State.on_of_get (hget R.TICK_STAT_STOPPED (by decide)), htick, State.readoutIdle]

/-- The trims of a TIMING run come into force: their registers and the calibration's list of them. -/
theorem State.trimForce_shows : s.trimForce.get R.CAL_TPH_PS = s.get R.CAL_TPH_PS ∧ s.trimForce.cal.tickPh = s.cal.tickPh ∧
    s.trimForce.cal.count = s.cal.count := by
  unfold State.trimForce
  split
  · exact ⟨rfl, rfl, rfl⟩
  · dsimp only
    have hfold := List.foldlRecOn (motive := fun t : State => t.get R.CAL_TPH_PS = s.get R.CAL_TPH_PS ∧ t.cal = s.cal) s.cal.trims.zipIdx
      (fun s (v, n) => s.put (R.CAL_STRBn_TRIM n) (ofSigned 8 v)) ⟨rfl, rfl⟩ fun t ht x _ => by
        have hreg : R.CAL_TPH_PS.reg ≠ (R.CAL_STRBn_TRIM x.2).reg := by
          show 0x27078 ≠ 0x27080 + 0x4 * x.2
          omega
        exact ⟨(State.get_put_reg _ _ hreg).trans ht.1, (State.put_cal ..).trans ht.2⟩
    generalize s.cal.trims.zipIdx.foldl (fun s (v, n) => s.put (R.CAL_STRBn_TRIM n) (ofSigned 8 v)) s = u at hfold ⊢
    obtain ⟨hget, hcal⟩ := hfold
    exact ⟨hget, by rw [hcal], by rw [hcal]⟩

/-- A set that is applied: at once while no readout is in progress. -/
theorem State.applySet_shows (c : CalSet) : (s.applySet c).cal.count = s.cal.count ∧
    (∀ g : Fld, g.off R.CAL_ACTIVE_ID_ID = true → (s.applySet c).get g = s.get g) ∧
    (s.readoutIdle = true → (s.applySet c).cal.force = c ∧ (s.applySet c).get R.CAL_ACTIVE_ID_ID = c.id % 2 ^ 32) := by
  have hset : (State.setForce { s with cal := { s.cal with next := some c } }) =
      State.put { s with cal := { s.cal with force := c, next := none } } R.CAL_ACTIVE_ID_ID c.id := rfl
  have hidle : (State.readoutIdle { s with cal := { s.cal with next := some c } }) = s.readoutIdle := rfl
  unfold State.applySet
  dsimp only
  rw [hidle, hset]
  split
  · refine ⟨by rw [State.put_cal], fun g hg => State.get_put_off (s := { s with cal := { s.cal with force := c, next := none } }) _ hg, fun _ =>
      ⟨by rw [State.put_cal], State.get_put_same _ _ (by decide)⟩⟩
  · next hno => exact ⟨rfl, fun _ _ => rfl, fun h => absurd h hno⟩

theorem ofSigned_lt (w : Nat) (x : Int) : ofSigned w x < 2 ^ w := by
  have hpos : (0 : Int) < (2 ^ w : Nat) := Int.natCast_pos.mpr (Nat.two_pow_pos w)
  have hlt := Int.emod_lt_of_pos x hpos
  have hnonneg := Int.emod_nonneg x (Int.ne_of_gt hpos)
  unfold ofSigned
  omega

/-- What a passed TIMING run brings into force. -/
def State.timingForce (s : State) : State :=
  State.put { s with cal := { s.cal with trims := s.cal.trimRes, tickPh := s.cal.phRes } } R.CAL_TPH_PS (ofSigned 16 s.cal.tph)

theorem State.timingForce_shows : s.timingForce.get R.CAL_TPH_PS = ofSigned 16 s.cal.tph ∧ s.timingForce.cal.tickPh = s.cal.phRes ∧
    s.timingForce.cal.count = s.cal.count := by
  exact ⟨State.get_put_fits _ (by decide) (ofSigned_lt 16 _), by rw [State.timingForce, State.put_cal], by rw [State.timingForce, State.put_cal]⟩

theorem State.calTakeEffect_shows : s.calTakeEffect.cal.count = s.cal.count ∧
    (s.cal.run = 3 → s.calTakeEffect.get R.CAL_TPH_PS = ofSigned 16 s.cal.tph ∧ s.calTakeEffect.cal.tickPh = s.cal.phRes) ∧
    (s.cal.run ≠ 3 → ∀ g : Fld, g.off R.CAL_ACTIVE_ID_ID = true → s.calTakeEffect.get g = s.get g) ∧
    (∀ c, s.cal.result = some c → s.cal.run = 4 → s.readoutIdle = true → s.calTakeEffect.cal.force = c ∧
      s.calTakeEffect.get R.CAL_ACTIVE_ID_ID = c.id % 2 ^ 32) := by
  unfold State.calTakeEffect
  by_cases hrun : s.cal.run = 3
  · rw [if_pos hrun]
    show (if s.timingForce.readoutIdle then s.timingForce.trimForce else s.timingForce).cal.count = _ ∧
      (_ → (if s.timingForce.readoutIdle then s.timingForce.trimForce else s.timingForce).get _ = _ ∧
        (if s.timingForce.readoutIdle then s.timingForce.trimForce else s.timingForce).cal.tickPh = _) ∧ _
    obtain ⟨htph, hph, hcount⟩ := s.timingForce_shows
    obtain ⟨htph', hph', hcount'⟩ := s.timingForce.trimForce_shows
    refine ⟨?_, fun _ => ?_, fun h => absurd hrun h, fun c _ h => absurd (hrun.symm.trans h) (by decide)⟩
    · split
      · rw [hcount', hcount]
      · exact hcount
    · split
      · exact ⟨htph'.trans htph, hph'.trans hph⟩
      · exact ⟨htph, hph⟩
  · rw [if_neg hrun]
    split
    · next c hc =>
      obtain ⟨hcount, hget, hforce⟩ := s.applySet_shows c
      split
      · exact ⟨hcount, fun h => absurd h hrun, fun _ => hget, fun c' hc' _ hidle => by
          obtain rfl : c = c' := Option.some.inj (hc.symm.trans hc')
          exact hforce hidle⟩
      · next hno => exact ⟨rfl, fun h => absurd h hrun, fun _ _ _ => rfl, fun _ _ h => absurd (by rw [h]; rfl) hno⟩
    · next hc => exact ⟨rfl, fun h => absurd h hrun, fun _ _ _ => rfl, fun c h => nomatch hc.symm.trans h⟩

/-- What passed is in force, before the run ends. -/
def State.calPassed (s : State) (code : Nat) : State := if code = 0 then s.calTakeEffect else s

theorem calRunDone_ends (hrun : s.cal.run ≠ 0) : goesOn (exec .calRunDone s) fun t =>
    t.cal.run = 0 ∧ t.get R.CAL_STAT_RUN = 0 ∧ t.get R.CAL_RESULT_CODE = s.calCode % 16 ∧ t.get R.CAL_RESULT_COUNT = s.cal.count % 2 ^ 24 ∧
    t.get (intRawBit (if s.calCode = 0 then E.CAL_RUN_DONE else E.CAL_RUN_FAIL)) = 1 ∧
    (∀ c, s.cal.result = some c → s.calCode = 0 → s.cal.run = 4 → s.readoutIdle = true → t.cal.force = c ∧
      t.get R.CAL_ACTIVE_ID_ID = c.id % 2 ^ 32) ∧
    (∀ c, s.cal.result = some c → s.cal.run = 2 → c.ff < 65536 → t.get R.CAL_FF_RES_RES = c.ff) ∧
    (s.cal.run = 3 → s.calCode = 0 → t.get R.CAL_TPH_PS = ofSigned 16 s.cal.tph ∧ t.cal.tickPh = s.cal.phRes) := by
  have hexec : exec .calRunDone s = .next ((s.calKeep.calPassed s.calCode).calEnd s.calCode) := by
    show Host.Outcome.next s.calRunDone = _
    unfold State.calRunDone
    rw [if_neg hrun]
    rfl
  refine ⟨_, hexec, ?_⟩
  have hidleKeep := s.calKeep_idle
  obtain ⟨hcalKeep, -, -, -, hff⟩ := s.calKeep_shows
  generalize s.calCode = code
  generalize s.calKeep = u at *
  obtain ⟨hcount, htiming, hother, hforce⟩ := u.calTakeEffect_shows
  have hcountP : (u.calPassed code).cal.count = s.cal.count := by
    unfold State.calPassed
    split
    · rw [hcount, hcalKeep]
    · rw [hcalKeep]
  have hffP (c : CalSet) (hc : s.cal.result = some c) (htwo : s.cal.run = 2) : (u.calPassed code).get R.CAL_FF_RES_RES = c.ff % 65536 := by
    unfold State.calPassed
    split
    · rw [hother (by rw [hcalKeep, htwo]; decide) _ (by decide), hff c hc htwo]
    · exact hff c hc htwo
  have hpassed : code = 0 → u.calPassed code = u.calTakeEffect := fun h => if_pos h
  generalize u.calPassed code = v at *
  obtain ⟨hcalEnd, hrunEnd, hcodeEnd, hcountEnd, htold, honly⟩ := v.calEnd_shows code
  generalize v.calEnd code = w at *
  refine ⟨by rw [hcalEnd]; rfl, hrunEnd, hcodeEnd, by rw [hcountEnd, hcountP], htold.1, fun c hc hzero hfour hidle => ?_, fun c hc htwo hlt => ?_,
    fun hthree hzero => ?_⟩
  · obtain ⟨hf, hid⟩ := hforce c (by rw [hcalKeep, hc]) (by rw [hcalKeep, hfour]) (by rw [hidleKeep, hidle])
    rw [State.get_of_only honly (by decide), hcalEnd, hpassed hzero]
    exact ⟨hf, hid⟩
  · rw [State.get_of_only honly (by decide), hffP c hc htwo, Nat.mod_eq_of_lt hlt]
  · obtain ⟨htph, hph⟩ := htiming (by rw [hcalKeep, hthree])
    rw [State.get_of_only honly (by decide), hcalEnd, hpassed hzero]
    exact ⟨htph.trans (by rw [hcalKeep]), hph.trans (by rw [hcalKeep])⟩

end Sys2Proof.Machine
end

/-! PROOFS. O54: DARK and WHITE runs, and calibration as stated (R325–R327). -/
section
-- One theorem after the other: the default proofs of the side conditions below are run by the elaborator, which waits for all that stands before.
set_option Elab.async false
namespace Sys2Proof.Machine

variable {s t : State}

/-! ## Tables that leave out their default -/

/-- The entries of a table whose values differ from a default. -/
def listed (d : Nat) (f : Nat → Nat) (l : List Nat) : SMap Nat := l.filterMap fun i => if f i = d then none else some (i, f i)

theorem mapFind_listed {d : Nat} {f : Nat → Nat} {l : List Nat} {i : Nat} :
    mapFind (listed d f l) i = if i ∈ l ∧ f i ≠ d then some (f i) else none := by
  induction l with
  | nil => rfl
  | cons j l ih =>
    by_cases hd : f j = d
    · have hskip : listed d f (j :: l) = listed d f l := List.filterMap_cons_none (if_pos hd)
      rw [hskip, ih]
      refine if_congr ?_ rfl rfl
      rw [List.mem_cons]
      constructor
      · exact fun h => ⟨.inr h.1, h.2⟩
      · rintro ⟨rfl | h, hne⟩
        · exact absurd hd hne
        · exact ⟨h, hne⟩
    · have htake : listed d f (j :: l) = (j, f j) :: listed d f l := List.filterMap_cons_some (if_neg hd)
      rw [htake, mapFind, ih]
      by_cases hji : j = i
      · subst hji
        rw [if_pos rfl, if_pos ⟨List.mem_cons_self, hd⟩]
      · rw [if_neg hji]
        refine if_congr ?_ rfl rfl
        rw [List.mem_cons, or_iff_right (Ne.symm hji)]

theorem mapGet_listed (d : Nat) (f : Nat → Nat) {n i : Nat} (hi : i < n) : mapGet d (listed d f (List.range n)) i = f i := by
  rw [mapGet, mapFind_listed]
  by_cases hd : f i = d
  · rw [if_neg fun h => h.2 hd, hd]
    rfl
  · rw [if_pos ⟨List.mem_range.mpr hi, hd⟩]
    rfl

/-! ## DARK -/

/-- The set that a DARK run has measured. -/
def State.darkSet (s : State) (rows : List Nat) (m : DarkSeen) : CalSet :=
  { s.cal.force with
    id := s.get R.CAL_SET_ID_ID, d := listed 0 (fun i => min 65535 (s.darkPattern m.d i)) rows
    dark := padTo 4 (m.levels.map levelMean), content := s.cal.force.content % 8 ||| 1 }

/-- The code that a DARK run ends with. -/
def State.darkCode (s : State) (m : DarkSeen) : Nat :=
  if satBad m.sat m.samples then 3 else if columnsBad m.unstable positions then 5 else if 128 < m.light then 6
  else if s.on R.CAL_CTRL_L16_AGREE && !darkAgree (s.darkPattern m.d1) (s.darkPattern m.d) then 13 else 0

/-- The columns whose rate passes the table's largest value. -/
def State.darkHot (s : State) (m : DarkSeen) : Nat := ((List.range 49216).filter (fun i => 65535 < s.darkPattern m.d i)).length

theorem State.calDark_eq (m : DarkSeen) (h : calFree s) : s.calDark m =
    (s.runBegun 1 1).calOutcome ((s.runBegun 1 1).darkCode m) ((s.runBegun 1 1).darkHot m) (some ((s.runBegun 1 1).darkSet (List.range 49216) m)) true := by
  unfold State.calDark
  rw [State.calGo_free h]
  rfl

theorem State.darkSet_shows (rows : List Nat) (m : DarkSeen) : (s.darkSet rows m).id = s.get R.CAL_SET_ID_ID ∧
    (s.darkSet rows m).dark = padTo 4 (m.levels.map levelMean) ∧ (s.darkSet rows m).g = s.cal.force.g ∧
    (s.darkSet rows m).d = listed 0 (fun i => min 65535 (s.darkPattern m.d i)) rows := ⟨rfl, rfl, rfl, rfl⟩

theorem State.darkCode_shows (m : DarkSeen) : (m.samples < 1000 * m.sat → s.darkCode m = 3) ∧
    (1000 * m.sat ≤ m.samples → positions < 100 * m.unstable → s.darkCode m = 5) ∧
    (1000 * m.sat ≤ m.samples → 100 * m.unstable ≤ positions → 128 < m.light → s.darkCode m = 6) := by
  have hsat : 1000 * m.sat ≤ m.samples → ¬satBad m.sat m.samples = true := fun h => by simp only [satBad, decide_eq_true_eq]; omega
  refine ⟨fun h => if_pos (decide_eq_true h), fun h hu => ?_, fun h hu hl => ?_⟩
  · exact (if_neg (hsat h)).trans (if_pos (decide_eq_true hu))
  · exact (if_neg (hsat h)).trans ((if_neg (by simp only [columnsBad, decide_eq_true_eq]; omega)).trans (if_pos hl))

theorem State.darkPattern_of {L : List Nat} (h : only s t L) (hfuse : t.fuse = s.fuse) (htb : R.RDO_STAT_TB_ACT.reg ∉ L) (m : PatternSeen) (i : Nat) :
    t.darkPattern m i = s.darkPattern m i := by
  have hfb : t.fuseByte = s.fuseByte := funext fun o => by rw [State.fuseByte, hfuse, State.fuseByte]
  simp only [State.darkPattern, State.darkScale, State.fuseNum, hfb, State.act_of_force h.2.1, State.get_of_only h htb]

theorem calDark_measures (sat n unst : Nat) (light : Int) (lv : List LevelSeen) (d d1 : PatternSeen) (h : calFree s) :
    goesOn (exec (.calDark ⟨sat, n⟩ unst light lv d d1) s) fun t => t.cal.run = 1 ∧ t.get R.CAL_STAT_RUN = 1 ∧
      t.cal.count = ((List.range 49216).filter (fun i => 65535 < s.darkPattern d i)).length ∧
      (n < 1000 * sat → t.cal.code = 3) ∧ (1000 * sat ≤ n → 24608 < 100 * unst → t.cal.code = 5) ∧
      (1000 * sat ≤ n → 100 * unst ≤ 24608 → 128 < light → t.cal.code = 6) ∧
      ∃ c, t.cal.result = some c ∧ c.id = s.get R.CAL_SET_ID_ID ∧ c.dark = padTo 4 (lv.map levelMean) ∧ c.g = s.cal.force.g ∧
        ∀ i, i < 49216 → mapGet 0 c.d i = min 65535 (s.darkPattern d i) := by
  have hexec : exec (.calDark ⟨sat, n⟩ unst light lv d d1) s = .next (s.calDark ⟨sat, n, unst, light, lv, d, d1⟩) := rfl
  rw [hexec, State.calDark_eq _ h]
  refine ⟨_, rfl, ?_⟩
  obtain ⟨hrun, hget, hforce, -, -, hfuse, honly⟩ := s.runBegun_shows (op := 1) (kind := 1) (by decide)
  have hpat : (s.runBegun 1 1).darkPattern d = s.darkPattern d := funext fun i => State.darkPattern_of honly hfuse (by decide) d i
  have hid : (s.runBegun 1 1).get R.CAL_SET_ID_ID = s.get R.CAL_SET_ID_ID := State.get_of_only honly (by decide)
  have hhot : (s.runBegun 1 1).darkHot ⟨sat, n, unst, light, lv, d, d1⟩ = s.darkHot ⟨sat, n, unst, light, lv, d, d1⟩ := by
    unfold State.darkHot
    rw [hpat]
  rw [hhot]
  generalize s.runBegun 1 1 = v at *
  obtain ⟨hsetId, hlevels, hg, hd⟩ := v.darkSet_shows (List.range 49216) ⟨sat, n, unst, light, lv, d, d1⟩
  obtain ⟨h3, h5, h6⟩ := v.darkCode_shows ⟨sat, n, unst, light, lv, d, d1⟩
  rw [hid] at hsetId
  rw [hforce] at hg
  replace hd : ∀ i, i < 49216 → mapGet 0 (v.darkSet (List.range 49216) ⟨sat, n, unst, light, lv, d, d1⟩).d i = min 65535 (s.darkPattern d i) :=
    fun i hi => by rw [hd, mapGet_listed _ _ hi, hpat]
  generalize v.darkSet (List.range 49216) ⟨sat, n, unst, light, lv, d, d1⟩ = c at *
  generalize v.darkCode ⟨sat, n, unst, light, lv, d, d1⟩ = code at *
  show _ ∧ _ ∧ _ = s.darkHot ⟨sat, n, unst, light, lv, d, d1⟩ ∧ _
  generalize s.darkHot ⟨sat, n, unst, light, lv, d, d1⟩ = hot
  obtain ⟨hrun', hcode, hcount, hres, -, honly'⟩ := v.calOutcome_shows code hot (some c) true
  rw [State.get_of_only honly' List.not_mem_nil, hrun', hcode, hcount]
  exact ⟨hrun, hget, rfl, h3, h5, h6, c, hres, hsetId, hlevels, hg, hd⟩

/-! ## WHITE -/

/-- A WHITE run's target, at least 1. -/
def State.whiteTarget (s : State) : Nat := max 1 (s.get R.CAL_WHITE_TARGET)

/-- The slots that are enabled in a bank. -/
def State.slotSet (s : State) (bank : Nat) : Nat :=
  (List.range 4).foldl (fun v k => if s.on (R.EXP_x_SLOTk_CTRL_EN bank k) then v + 2 ^ k else v) 0

/-- The means of the line phase, by slot and band. -/
def State.whiteBands (s : State) (slots : Nat) (m : WhiteSeen) : List (List Nat) :=
  chunks 24576 (4 * popSlots slots) (m.sums.map (fun v => (roundDiv v s.whiteLines).toNat))

/-- The gain of one tap of a position, from the two taps' means. -/
def gainOf (tapA tapB : List Nat) (i : Nat) : Nat :=
  tapGain (tapA.getD (i / 2) 0) (tapB.getD (i / 2) 0) ((if i % 2 = 0 then tapA else tapB).getD (i / 2) 0)

/-- The set that a WHITE run has measured over the owned columns of a bank. -/
def State.whiteSet (s : State) (rows : List Nat) (bank lo hi : Nat) (m : WhiteSeen) : CalSet :=
  { s.cal.force with
    id := s.get R.CAL_SET_ID_ID, g := listed 16384 (gainOf m.tapA m.tapB) rows
    ff := ffResidual lo hi s.whiteTarget (s.whiteLines / 2) (chunks 24576 (4 * popSlots (s.slotSet bank)) m.verify)
      ((s.whiteBands (s.slotSet bank) m).map (bandGains lo hi s.whiteTarget))
    dim := dimCount lo hi (s.whiteBands (s.slotSet bank) m), slots := s.slotSet bank, gains := s.gainCodes bank, target := s.whiteTarget
    dnb := ((s.whiteBands (s.slotSet bank) m).map (bandGains lo hi s.whiteTarget)).flatten, content := s.cal.force.content % 8 ||| 6 }

/-- The code that a WHITE run ends with, once its bank has passed the exposure check. -/
def whiteCode (lo hi dim : Nat) (m : WhiteSeen) : Nat :=
  if m.noTick then 10 else if satBad m.sat m.samples then 3 else if columnsBad dim (hi + 1 - lo) then 4
  else if columnsBad m.unstable (hi + 1 - lo) then 5 else 0

/-- A WHITE run of a bank. -/
def State.whiteRun (s : State) (rows : List Nat) (bank lo hi : Nat) (m : WhiteSeen) : State :=
  if s.expCode bank ≠ 0 then s.calOutcome 2 0 none false
  else (s.whiteUse bank).calOutcome (whiteCode lo hi (s.whiteSet rows bank lo hi m).dim m) (s.whiteSet rows bank lo hi m).dim
    (some (s.whiteSet rows bank lo hi m)) (!m.noTick)

theorem gainList_eq (rows tapA tapB : List Nat) : rows.filterMap (fun i =>
      let a := tapA.getD (i / 2) 0
      let b := tapB.getD (i / 2) 0
      let v := tapGain a b (if i % 2 = 0 then a else b)
      if v = 16384 then none else some (i, v)) = listed 16384 (gainOf tapA tapB) rows := by
  unfold listed
  refine congrArg (fun f => List.filterMap f rows) (funext fun i => ?_)
  have hown : (if i % 2 = 0 then tapA.getD (i / 2) 0 else tapB.getD (i / 2) 0) = (if i % 2 = 0 then tapA else tapB).getD (i / 2) 0 := by
    split <;> rfl
  dsimp only [gainOf]
  rw [hown]
  rfl

theorem State.calWhite_eq (m : WhiteSeen) (h : calFree s) : s.calWhite m = (s.runBegun 2 2).whiteRun (List.range 49216)
    ((s.runBegun 2 2).get R.CAL_WHITE_BANK)
    ((s.runBegun 2 2).get (R.JOB_x_OWN_OWN_LO ((s.runBegun 2 2).get R.CAL_WHITE_BANK)))
    ((s.runBegun 2 2).get (R.JOB_x_OWN_OWN_HI ((s.runBegun 2 2).get R.CAL_WHITE_BANK))) m := by
  unfold State.calWhite
  rw [State.calGo_free h]
  generalize s.runBegun 2 2 = v
  generalize List.range 49216 = rows
  unfold State.whiteRun State.whiteSet
  rw [← gainList_eq]
  dsimp only [State.whiteTarget, State.slotSet, State.whiteBands, whiteCode]

theorem State.lampAccrue_cal (k w : Nat) : (s.lampAccrue k w).cal = s.cal := by
  unfold State.lampAccrue
  exact State.ite_of (P := fun t => t.cal = s.cal) (State.put64_cal ..) rfl

/-- The light of a WHITE run is counted as life use and shows nowhere else. -/
theorem State.whiteUse_shows (bank : Nat) : (s.whiteUse bank).cal = s.cal ∧ only s (s.whiteUse bank) lampLifeRegs := by
  have hone {u : State} {k : Nat} (w : Nat) (hk : k < 8) (hu : u.cal = s.cal ∧ only s u lampLifeRegs) :
      (u.lampAccrue k w).cal = s.cal ∧ only s (u.lampAccrue k w) lampLifeRegs :=
    ⟨(u.lampAccrue_cal k w).trans hu.1, only_trans hu.2 (u.lampAccrue_only hk w)⟩
  unfold State.whiteUse
  split
  · exact ⟨rfl, only_refl⟩
  · dsimp only
    have harea := List.foldlRecOn (motive := fun t : State => t.cal = s.cal ∧ only s t lampLifeRegs) (bitsOf 8 (s.act R.EXP_AREA_CTRL_LAMP_MASK))
      (fun s c => s.lampAccrue c (128 * 50 * s.act R.EXP_AREA_STRB_W_STRB_W)) ⟨rfl, only_refl⟩
      fun t ht c hc => hone _ (mem_bitsOf.mp hc).1 ht
    refine List.foldlRecOn (motive := fun t : State => t.cal = s.cal ∧ only s t lampLifeRegs) _ _ harea fun t ht k _ => ?_
    split
    · exact hone _ (t.get_lt (R.EXP_x_SLOTk_CTRL_LAMP_CH bank k)) ht
    · exact ht

/-- What the set of a WHITE run holds. -/
theorem State.whiteSet_shows (rows : List Nat) (bank lo hi : Nat) (m : WhiteSeen) : (s.whiteSet rows bank lo hi m).id = s.get R.CAL_SET_ID_ID ∧
    (s.whiteSet rows bank lo hi m).d = s.cal.force.d ∧ (s.whiteSet rows bank lo hi m).dark = s.cal.force.dark ∧
    (s.whiteSet rows bank lo hi m).target = s.whiteTarget ∧ (s.whiteSet rows bank lo hi m).g = listed 16384 (gainOf m.tapA m.tapB) rows ∧
    (s.whiteSet rows bank lo hi m).dnb =
      ((s.whiteBands (s.whiteSet rows bank lo hi m).slots m).map (bandGains lo hi s.whiteTarget)).flatten ∧
    (s.whiteSet rows bank lo hi m).ff = ffResidual lo hi s.whiteTarget (s.whiteLines / 2)
      (chunks 24576 (4 * popSlots (s.whiteSet rows bank lo hi m).slots) m.verify)
      ((s.whiteBands (s.whiteSet rows bank lo hi m).slots m).map (bandGains lo hi s.whiteTarget)) := by
  unfold State.whiteSet
  exact ⟨rfl, rfl, rfl, rfl, rfl, rfl, rfl⟩

theorem State.whiteRun_shows (rows : List Nat) (bank lo hi : Nat) (m : WhiteSeen) : (s.whiteRun rows bank lo hi m).cal.run = s.cal.run ∧
    (∀ g : Fld, g.reg ∉ lampLifeRegs → (s.whiteRun rows bank lo hi m).get g = s.get g) ∧
    (s.expCode bank ≠ 0 → (s.whiteRun rows bank lo hi m).cal.code = 2 ∧ (s.whiteRun rows bank lo hi m).cal.result = none) ∧
    (s.expCode bank = 0 → (m.noTick = true → (s.whiteRun rows bank lo hi m).cal.code = 10 ∧ (s.whiteRun rows bank lo hi m).cal.store = false) ∧
      (m.noTick = false → m.samples < 1000 * m.sat → (s.whiteRun rows bank lo hi m).cal.code = 3) ∧
      (s.whiteRun rows bank lo hi m).cal.result = some (s.whiteSet rows bank lo hi m)) := by
  obtain ⟨hcal, honly⟩ := s.whiteUse_shows bank
  unfold State.whiteRun
  generalize s.whiteSet rows bank lo hi m = c
  generalize s.whiteUse bank = u at *
  by_cases hcode : s.expCode bank = 0
  · rw [if_neg (not_not.mpr hcode)]
    obtain ⟨hrun, hc, -, hres, hstore, honly'⟩ := u.calOutcome_shows (whiteCode lo hi c.dim m) c.dim (some c) (!m.noTick)
    refine ⟨hrun.trans (by rw [hcal]), fun g hg => (State.get_of_only honly' List.not_mem_nil).trans (State.get_of_only honly hg),
      fun h => absurd hcode h, fun _ => ⟨fun hno => ⟨?_, ?_⟩, fun hno hsat => ?_, hres⟩⟩
    · rw [hc, whiteCode, if_pos hno]
    · rw [hstore, hno]
      rfl
    · rw [hc, whiteCode, hno, if_neg Bool.false_ne_true, if_pos (show satBad m.sat m.samples = true from decide_eq_true hsat)]
  · rw [if_pos hcode]
    exact ⟨rfl, fun _ _ => rfl, fun _ => ⟨rfl, rfl⟩, fun h => absurd h hcode⟩

theorem calWhite_measures (sat n unst : Nat) (nt : Bool) (ta tb sums verify : List Nat) (h : calFree s) :
    goesOn (exec (.calWhite ⟨⟨sat, n⟩, unst, nt⟩ ta tb sums verify) s) fun t =>
      let bank := s.get R.CAL_WHITE_BANK
      let target := max 1 (s.get R.CAL_WHITE_TARGET)
      let lo := s.get (R.JOB_x_OWN_OWN_LO bank)
      let hi := s.get (R.JOB_x_OWN_OWN_HI bank)
      t.cal.run = 2 ∧ t.get R.CAL_STAT_RUN = 2 ∧ t.get R.CAL_FF_RES_RES = s.get R.CAL_FF_RES_RES ∧
      (s.expCode bank ≠ 0 → t.cal.code = 2 ∧ t.cal.result = none) ∧
      (s.expCode bank = 0 → (nt = true → t.cal.code = 10 ∧ t.cal.store = false) ∧ (nt = false → n < 1000 * sat → t.cal.code = 3) ∧
        ∃ c, t.cal.result = some c ∧ c.id = s.get R.CAL_SET_ID_ID ∧ c.d = s.cal.force.d ∧ c.dark = s.cal.force.dark ∧ c.target = target ∧
        (∀ i, i < 49216 → mapGet 16384 c.g i = tapGain (ta.getD (i / 2) 0) (tb.getD (i / 2) 0) ((if i % 2 = 0 then ta else tb).getD (i / 2) 0)) ∧
        ∃ gains, gains = (chunks 24576 (4 * popSlots c.slots) (sums.map (fun v => (roundDiv v s.whiteLines).toNat))).map (bandGains lo hi target) ∧
          c.dnb = gains.flatten ∧
          c.ff = ffResidual lo hi target (s.whiteLines / 2) (chunks 24576 (4 * popSlots c.slots) verify) gains) := by
  have hexec : exec (.calWhite ⟨⟨sat, n⟩, unst, nt⟩ ta tb sums verify) s = .next (s.calWhite ⟨sat, n, unst, nt, ta, tb, sums, verify⟩) := rfl
  rw [hexec, State.calWhite_eq _ h]
  refine ⟨_, rfl, ?_⟩
  obtain ⟨hrun, hget, hforce, -, -, -, honly⟩ := s.runBegun_shows (op := 2) (kind := 2) (by decide)
  have hsame (g : Fld) (hg : g.reg ∉ [R.CAL_CMD_OP.reg, R.CAL_STAT_RUN.reg]) : (s.runBegun 2 2).get g = s.get g := State.get_of_only honly hg
  have hown (g : Fld) (hg : g.reg < 0x20000) : (s.runBegun 2 2).get g = s.get g := hsame g fun hmem => by
    have hall : ∀ a ∈ [R.CAL_CMD_OP.reg, R.CAL_STAT_RUN.reg], 0x20000 ≤ a := by decide
    exact Nat.not_le_of_lt hg (hall _ hmem)
  rw [hsame R.CAL_WHITE_BANK (by decide)]
  have hbank := s.get_lt R.CAL_WHITE_BANK
  have hlines : (s.runBegun 2 2).whiteLines = s.whiteLines := by rw [State.whiteLines, hsame _ (by decide), State.whiteLines]
  have htarget : (s.runBegun 2 2).whiteTarget = s.whiteTarget := by rw [State.whiteTarget, hsame _ (by decide), State.whiteTarget]
  have hexp (x : Nat) : (s.runBegun 2 2).expCode x = s.expCode x := by
    rw [State.expCode, hsame _ (by decide), hsame _ (by decide), State.expCode]
  have hjob (x : Nat) (hx : x < 2 ^ 1) : (s.runBegun 2 2).get (R.JOB_x_OWN_OWN_LO x) = s.get (R.JOB_x_OWN_OWN_LO x) ∧
      (s.runBegun 2 2).get (R.JOB_x_OWN_OWN_HI x) = s.get (R.JOB_x_OWN_OWN_HI x) := by
    have hlt : 0x1A11C + 0x100 * x < 0x20000 := by omega
    exact ⟨hown (R.JOB_x_OWN_OWN_LO x) hlt, hown (R.JOB_x_OWN_OWN_HI x) hlt⟩
  rw [(hjob _ hbank).1, (hjob _ hbank).2]
  have hid := hsame R.CAL_SET_ID_ID (by decide)
  have hres := hsame R.CAL_FF_RES_RES (by decide)
  clear hsame hown hjob
  dsimp only
  generalize s.get R.CAL_WHITE_BANK = bank at *
  generalize s.get (R.JOB_x_OWN_OWN_LO bank) = lo
  generalize s.get (R.JOB_x_OWN_OWN_HI bank) = hi
  generalize s.runBegun 2 2 = v at *
  have hrows (i : Nat) (hi : i < 49216) : mapGet 16384 (listed 16384 (gainOf ta tb) (List.range 49216)) i = gainOf ta tb i := mapGet_listed _ _ hi
  generalize List.range 49216 = rows at *
  obtain ⟨hsetId, hd, hdark, hsetTarget, hg, hdnb, hff⟩ := v.whiteSet_shows rows bank lo hi ⟨sat, n, unst, nt, ta, tb, sums, verify⟩
  obtain ⟨hrunW, hgetW, hbad, hgood⟩ := v.whiteRun_shows rows bank lo hi ⟨sat, n, unst, nt, ta, tb, sums, verify⟩
  rw [hid] at hsetId
  rw [hforce] at hd hdark
  rw [htarget] at hsetTarget hdnb hff
  rw [hlines] at hff
  rw [hexp] at hbad hgood
  rw [State.whiteBands, hlines] at hdnb hff
  generalize v.whiteSet rows bank lo hi ⟨sat, n, unst, nt, ta, tb, sums, verify⟩ = c at *
  generalize v.whiteRun rows bank lo hi ⟨sat, n, unst, nt, ta, tb, sums, verify⟩ = w at *
  refine ⟨hrunW.trans hrun, (hgetW _ (by decide)).trans hget, (hgetW _ (by decide)).trans hres, hbad, fun hzero => ?_⟩
  obtain ⟨hno, hsat, hresult⟩ := hgood hzero
  exact ⟨hno, hsat, c, hresult, hsetId, hd, hdark, hsetTarget, fun i hlt => by rw [hg]; exact hrows i hlt, _, rfl, hdnb, hff⟩

/-- Settles O54: each command is a fixed chain of steps, and what each step shows is said once. -/
theorem calibrationPassesAndRuns : Obligations.CalibrationPassesAndRuns := by
  unfold Obligations.CalibrationPassesAndRuns
  refine ⟨?_, ?_, ?_, ?_, ?_, ?_, ?_, ?_, ?_, ?_, ?_, ?_⟩
  · exact fun s => calPassStart_begins
  · exact fun s => calPositionDone_checks
  · exact fun s => calDark_measures
  · exact fun s => calDark_refused
  · exact fun s => calWhite_measures
  · exact fun s => calTiming_measures
  · exact fun s => calLoad_reads
  · exact fun s => calApply_reads
  · exact fun s => calAbort_ends
  · exact fun s => calRunDone_ends
  · exact fun s => driftTrack_marks
  · exact fun s => bgStarved_tells

end Sys2Proof.Machine
end

/-! PROOFS. O44: TAIL, fences, streamed rings, and completion (R241, R246–R248). -/
section
-- One theorem after the other: the default proofs of the side conditions below are run by the elaborator, which waits for all that stands before.
set_option Elab.async false
namespace Sys2Proof.Machine

variable {s t u : State} {L : List Nat}

/-! ## TAIL -/

/-- Does a TAIL lie in the ring? -/
def State.tailFits (s : State) (n tl : Nat) : Bool :=
  decide (tl % 256 < s.chanSize n) && decide (0 ≤ ringHeld (s.chanSize n) (s.get (R.CHn_HEAD_PTR n)) tl) &&
    decide (ringHeld (s.chanSize n) (s.get (R.CHn_HEAD_PTR n)) tl ≤ s.chanSize n)

theorem State.tailWrite_eq {n v : Nat} (h : s.served 0x021 = true) : s.tailWrite n v =
    if s.tailFits n (v % 512) then (s.put (R.CHn_TAIL_PTR n) (v % 512)).stagedShow else s.put (R.CHn_STAT_TAIL_BAD n) 1 := by
  unfold State.tailWrite State.tailFits
  rw [if_neg (by rw [h]; decide)]
  dsimp only
  generalize ringHeld (s.chanSize n) (s.get (R.CHn_HEAD_PTR n)) (v % 512) = held
  generalize s.chanSize n = size
  by_cases hfits : v % 512 % 256 < size ∧ 0 ≤ held ∧ held ≤ size
  · obtain ⟨hlt, hlo, hhi⟩ := hfits
    have hbad : ¬(decide (size ≤ v % 512 % 256) || decide (held < 0) || decide ((size : Int) < held)) = true := by
      simp only [Bool.or_eq_true, decide_eq_true_eq]
      omega
    rw [if_neg hbad, if_pos (by simp only [decide_eq_true hlt, decide_eq_true hlo, decide_eq_true hhi, Bool.and_self])]
  · have hbad : (decide (size ≤ v % 512 % 256) || decide (held < 0) || decide ((size : Int) < held)) = true := by
      simp only [Bool.or_eq_true, decide_eq_true_eq]
      omega
    rw [if_pos hbad, if_neg (by simp only [Bool.and_eq_true, decide_eq_true_eq]; omega)]

theorem dmaTailWrite_takes (n : Fin 32) (v : Word) (h : s.served 0x021 = true) : goesOn (exec (.dmaTailWrite n v) s) fun t =>
    let tl := v.toNat % 512
    let held := ringHeld (s.chanSize n.val) (s.get (R.CHn_HEAD_PTR n.val)) tl
    let fits := decide (tl % 256 < s.chanSize n.val) && decide (0 ≤ held) && decide (held ≤ s.chanSize n.val)
    (fits = true → t.get (R.CHn_TAIL_PTR n.val) = tl ∧ only s t [(R.CHn_TAIL_PTR n.val).reg, R.JOB_STAT_STAGED.reg]) ∧
    (fits = false → t.get (R.CHn_STAT_TAIL_BAD n.val) = 1 ∧ only s t [(R.CHn_STAT_TAIL_BAD n.val).reg]) := by
  refine ⟨s.tailWrite n.val v.toNat, rfl, ?_⟩
  rw [State.tailWrite_eq h]
  show (s.tailFits n.val (v.toNat % 512) = true → _) ∧ (s.tailFits n.val (v.toNat % 512) = false → _)
  refine ⟨fun hfits => ?_, fun hfits => ?_⟩
  · rw [if_pos hfits]
    have hreg : (R.CHn_TAIL_PTR n.val).reg ≠ R.JOB_STAT_STAGED.reg := by
      have hjob : R.JOB_STAT_STAGED.reg < 0x21818 := by decide
      exact Nat.ne_of_gt (Nat.lt_of_lt_of_le hjob (Nat.le_add_right _ _))
    refine ⟨?_, only_trans (only_put _ (.head _)) (only_mono (State.stagedShow_only _) fun a ha => .tail _ ha)⟩
    exact (State.get_put_reg _ _ hreg).trans (State.get_put_fits _ (show 0 + 9 ≤ 32 by decide) (Nat.mod_lt _ (by decide)))
  · rw [hfits, if_neg Bool.false_ne_true]
    exact ⟨State.get_put_fits _ (show 8 + 1 ≤ 32 by decide) (show 1 < 2 ^ 1 by decide), only_put _ (.head _)⟩

/-! ## Fences -/

/-- The writes that a fence waits for: of each masked channel those issued so far. -/
def State.fenceList (s : State) : List (Nat × Nat) :=
  ((bitsOf 32 (s.get R.DMA_FENCE_MASK_CH)).map fun n => (n, (s.chanOf n).writes)).filter fun p => p.2 ≠ 0

theorem State.mem_fenceList {x : Nat × Nat} : x ∈ s.fenceList ↔
    x.1 < 32 ∧ bit (s.get R.DMA_FENCE_MASK_CH) x.1 = true ∧ x.2 = (s.chanOf x.1).writes ∧ x.2 ≠ 0 := by
  unfold State.fenceList
  rw [List.mem_filter, List.mem_map]
  constructor
  · rintro ⟨⟨n, hn, rfl⟩, hne⟩
    obtain ⟨hlt, hbit⟩ := mem_bitsOf.mp hn
    exact ⟨hlt, hbit, rfl, of_decide_eq_true hne⟩
  · rintro ⟨hlt, hbit, hw, hne⟩
    exact ⟨⟨x.1, mem_bitsOf.mpr ⟨hlt, hbit⟩, Prod.ext rfl hw.symm⟩, decide_eq_true hne⟩

/-- A fence waits for a list of writes. -/
def State.fenced (s : State) (w : List (Nat × Nat)) : State := { s with dma := { s.dma with fence := w } }

theorem dmaFenceGo_waits (h : s.served 0x021 = true) : goesOn (exec .dmaFenceGo s) fun t =>
    (∀ x, x ∈ t.dma.fence ↔ x.1 < 32 ∧ bit (s.get R.DMA_FENCE_MASK_CH) x.1 = true ∧ x.2 = (s.chanOf x.1).writes ∧ x.2 ≠ 0) ∧
    (t.get R.DMA_FENCE_PEND = 0 ↔ t.dma.fence = []) ∧ only s t [R.DMA_FENCE_PEND.reg] := by
  have hexec : exec .dmaFenceGo s = .next ((s.fenced s.fenceList).put R.DMA_FENCE_PEND (boolNat (!s.fenceList.isEmpty))) := by
    show Host.Outcome.next s.fenceGo = _
    unfold State.fenceGo
    rw [if_neg (by rw [h]; decide)]
    rfl
  refine ⟨_, hexec, ?_⟩
  beta_reduce
  have hdma : ((s.fenced s.fenceList).put R.DMA_FENCE_PEND (boolNat (!s.fenceList.isEmpty))).dma.fence = s.fenceList := by rw [State.put_dma]; rfl
  rw [hdma]
  refine ⟨fun x => State.mem_fenceList, ?_, only_trans (only_of_eq rfl rfl rfl rfl rfl) (only_put _ (.head _))⟩
  rw [State.get_put_fits _ (by decide) (boolNat_lt_two _)]
  cases s.fenceList <;> simp [boolNat]

/-- Writes of a fence have arrived. -/
def State.fencePast (s : State) (p : Nat × Nat) : State :=
  s.setChan p.1 { s.chanOf p.1 with writes := (s.chanOf p.1).writes - p.2, own := min (s.chanOf p.1).own ((s.chanOf p.1).writes - p.2) }

theorem dmaFenceDone_ends : goesOn (exec .dmaFenceDone s) fun t => t.dma.fence = [] ∧ t.get R.DMA_FENCE_PEND = 0 ∧
    (∀ n k, s.dma.fence = [(n, k)] → (t.chanOf n).writes = (s.chanOf n).writes - k) ∧
    only s t [R.DMA_FENCE_PEND.reg, R.JOB_STAT_STAGED.reg] := by
  have hexec : exec .dmaFenceDone s = .next (((s.dma.fence.foldl State.fencePast s).fenced []).put R.DMA_FENCE_PEND 0).stagedShow := rfl
  refine ⟨_, hexec, ?_⟩
  have hfold : only s (s.dma.fence.foldl State.fencePast s) [] :=
    List.foldlRecOn (motive := fun t => only s t []) _ _ only_refl fun t ht p _ => only_trans ht (only_of_eq rfl rfl rfl rfl rfl)
  have hone (n k : Nat) (h : s.dma.fence = [(n, k)]) : ((s.dma.fence.foldl State.fencePast s).chanOf n).writes = (s.chanOf n).writes - k := by
    rw [h]
    show ((s.fencePast (n, k)).chanOf n).writes = _
    unfold State.fencePast State.chanOf State.setChan
    rw [mapGet_set_same]
  generalize s.dma.fence.foldl State.fencePast s = u at hfold hone ⊢
  have hchan (n : Nat) : (((u.fenced []).put R.DMA_FENCE_PEND 0).stagedShow).chanOf n = u.chanOf n := by
    rw [State.chanOf, State.stagedShow, State.put_dma, State.put_dma]
    rfl
  have hdma : (((u.fenced []).put R.DMA_FENCE_PEND 0).stagedShow).dma.fence = [] := by
    rw [State.stagedShow, State.put_dma, State.put_dma]
    rfl
  refine ⟨hdma, ?_, fun n k h => by rw [hchan, hone n k h], ?_⟩
  · rw [State.stagedShow, State.get_put_off _ (by decide), State.get_put_fits _ (by decide) (by decide)]
  · have hput : only s ((u.fenced []).put R.DMA_FENCE_PEND 0) [R.DMA_FENCE_PEND.reg, R.JOB_STAT_STAGED.reg] :=
      only_trans (only_mono hfold (List.nil_subset _)) (only_trans (only_of_eq rfl rfl rfl rfl rfl) (only_put _ (.head _)))
    exact only_trans hput (only_mono (State.stagedShow_only _) fun a ha => .tail _ ha)

/-! ## Streams -/

theorem streamTake_bounds (r o new : Nat) : (s.streamTake r o new).1 ≤ min 1024 (min new (s.ringUnits r - o)) ∧
    (r ≤ 1 → (s.streamTake r o new).1 = min 1024 (min new (s.ringUnits r - o))) := by
  unfold State.streamTake
  dsimp only
  split
  · exact ⟨Nat.le_refl _, fun _ => rfl⟩
  · next h => exact ⟨Nat.min_le_left _ _, fun hr => absurd hr h⟩

/-- What a packet leaves of its entry for the next one. -/
def State.partKept (s : State) (r : Nat) (left : Option (Nat × Bool)) : State :=
  { s with dma := { s.dma with part := match left with | none => mapDel s.dma.part r | some p => mapIns s.dma.part r p } }

theorem State.txPush_shows (p : Nat) (k : TxPkt) : ((s.txPush p k).portOf p).tx = (s.portOf p).tx ++ [k] ∧ only s (s.txPush p k) [] := by
  refine ⟨?_, only_of_eq rfl rfl rfl rfl rfl⟩
  rw [State.txPush, State.portOf_setPort]

theorem State.portOf_of {p : Nat} (h : t.port = s.port) : t.portOf p = s.portOf p := by rw [State.portOf, h, State.portOf]

theorem Written.port (h : Written s t L) : t.port = s.port := by
  obtain ⟨-, regs, mem, poison, memctl, sys, mb, freeIdx, rfl⟩ := h
  rfl

theorem Written.dma (h : Written s t L) : t.dma = s.dma := by
  obtain ⟨-, regs, mem, poison, memctl, sys, mb, freeIdx, rfl⟩ := h
  rfl

theorem streamSend_sends (n : Fin 32) (r : Nat) (hring : s.chanRing n.val = some r) (hconf : s.chanConflict n.val = false)
    (hup : s.portUp 0 = true) (hready : s.on R.MEM_STAT_READY = true) :
    let o := s.streamNext r
    let new := ringDist (s.ringUnits r) o (s.ringWr r)
    let k := (s.streamTake r o new).1
    0 < k → goesOn (exec (.streamSend n) s) fun t =>
      k ≤ 1024 ∧ k ≤ new ∧ k ≤ s.ringUnits r - o ∧ (r ≤ 1 → k = min 1024 (min new (s.ringUnits r - o))) ∧
      t.get (R.CHn_STAT_ERR_CNT n.val) = min 255 (s.get (R.CHn_STAT_ERR_CNT n.val) + s.streamBad r o k) ∧
      (t.portOf 0).tx = (s.portOf 0).tx ++ [TxPkt.mk (s.get (R.CHn_CTRL_VC n.val)) (ringType r) (s.bytes (s.ringBase r + 64 * o) (64 * k))
          (some (r, (o + k) % s.ringUnits r))] ∧ ∀ a, t.byte a = s.byte a := by
  intro o new k hk
  obtain ⟨hle, heq⟩ := streamTake_bounds (s := s) r o new
  have hexec : exec (.streamSend n) s = .next (((((s.txPush 0 ⟨s.get (R.CHn_CTRL_VC n.val), ringType r, s.bytes (s.ringBase r + 64 * o) (64 * k),
      some (r, (o + k) % s.ringUnits r)⟩).partKept r (s.streamTake r o new).2).ddrRead (s.ringBase r + 64 * o) (64 * k)).bumpBy
      (R.CHn_STAT_ERR_CNT n.val) (s.streamBad r o k))) := by
    show Host.Outcome.next (s.streamSend n.val) = _
    unfold State.streamSend
    rw [hring]
    dsimp only
    rw [if_neg (by simp [hconf, hup, hready])]
    show Host.Outcome.next (if k = 0 then s else _) = _
    rw [if_neg (Nat.ne_of_gt hk)]
    rfl
  refine ⟨_, hexec, ?_⟩
  have hall : k ≤ 1024 ∧ k ≤ new ∧ k ≤ s.ringUnits r - o := by
    have h : k ≤ min 1024 (min new (s.ringUnits r - o)) := hle
    omega
  refine ⟨hall.1, hall.2.1, hall.2.2, heq, ?_⟩
  generalize s.streamBad r o k = bad
  generalize s.bytes (s.ringBase r + 64 * o) (64 * k) = data
  obtain ⟨htx, honly⟩ := s.txPush_shows 0 ⟨s.get (R.CHn_CTRL_VC n.val), ringType r, data, some (r, (o + k) % s.ringUnits r)⟩
  generalize s.txPush 0 ⟨s.get (R.CHn_CTRL_VC n.val), ringType r, data, some (r, (o + k) % s.ringUnits r)⟩ = u at *
  have hpart : only u (u.partKept r (s.streamTake r o new).2) [] ∧ (u.partKept r (s.streamTake r o new).2).port = u.port := ⟨only_of_eq rfl rfl rfl rfl rfl, rfl⟩
  generalize u.partKept r (s.streamTake r o new).2 = v at *
  have hread := v.ddrRead_only (s.ringBase r + 64 * o) (64 * k)
  have hport := (v.ddrRead_written (s.ringBase r + 64 * o) (64 * k)).port
  generalize v.ddrRead (s.ringBase r + 64 * o) (64 * k) = w at *
  have hsv := only_trans honly hpart.1
  refine ⟨?_, ?_, fun a => ?_⟩
  · have hreg : (R.CHn_STAT_ERR_CNT n.val).reg ∉ memErrRegs := by
      have hlt : ∀ a ∈ memErrRegs, a < 0x21800 := by decide
      exact fun hmem => Nat.not_le_of_lt (hlt _ hmem) (show 0x21800 ≤ 0x21804 + 0x40 * n.val by omega)
    rw [State.get_bumpBy _ _ _ (show 16 + 8 ≤ 32 by decide), State.get_of_only hread hreg, State.get_of_only hsv List.not_mem_nil]
    rfl
  · rw [State.bumpBy, State.portOf_of (State.put_port ..), State.portOf_of hport, State.portOf_of hpart.2, htx]
  · have hbyte : (w.bumpBy (R.CHn_STAT_ERR_CNT n.val) bad).byte a = w.byte a := State.byte_of_mem (State.put_mem ..) a
    rw [hbyte, hread.2.2.1, hsv.2.2.1]

end Sys2Proof.Machine
end

/-! PROOFS. O44: a descriptor's completion (R241, R242, R247). -/
section
-- One theorem after the other: the default proofs of the side conditions below are run by the elaborator, which waits for all that stands before.
set_option Elab.async false
namespace Sys2Proof.Machine

variable {s t u : State} {L : List Nat}

/-! ## What the DMA's operations leave alone -/

/-- A field of the DMA page's interrupt word or of its channels. -/
def dmaField (g : Fld) : Prop := 0x21010 ≤ g.reg ∧ g.reg < 0x22000

/-- From s to t the channels, memory and every channel's fields stay. -/
structure DmaStays (s t : State) : Prop where
  chan : t.dma = s.dma
  mem : t.mem = s.mem
  get : ∀ g : Fld, dmaField g → t.get g = s.get g

theorem DmaStays.refl : DmaStays s s := ⟨rfl, rfl, fun _ _ => rfl⟩

theorem DmaStays.trans (h : DmaStays s t) (k : DmaStays t u) : DmaStays s u :=
  ⟨k.chan.trans h.chan, k.mem.trans h.mem, fun g hg => (k.get g hg).trans (h.get g hg)⟩

theorem DmaStays.chanOf (h : DmaStays s t) (n : Nat) : t.chanOf n = s.chanOf n := by rw [State.chanOf, h.chan, State.chanOf]

theorem DmaStays.put (h : DmaStays s t) {f : Fld} {v : Nat} (hf : f.reg < 0x21010 ∨ 0x22000 ≤ f.reg := by decide) : DmaStays s (t.put f v) := by
  refine ⟨(State.put_dma ..).trans h.chan, (State.put_mem ..).trans h.mem, fun g hg => ?_⟩
  obtain ⟨hlo, hhi⟩ := hg
  have hreg : g.reg ≠ f.reg := by omega
  exact (State.get_put_reg _ _ hreg).trans (h.get g ⟨hlo, hhi⟩)

theorem DmaStays.raise (h : DmaStays s t) {e : Ev} (he : ∀ a ∈ toldRegs e, a < 0x21010 ∨ 0x22000 ≤ a := by decide) : DmaStays s (t.raise e) := by
  refine ⟨(State.raise_dma ..).trans h.chan, (State.raise_mem ..).trans h.mem, fun g hg => ?_⟩
  obtain ⟨hlo, hhi⟩ := hg
  have hreg : g.reg ∉ toldRegs e := fun hmem => by have := he _ hmem; omega
  exact (State.get_raise_other _ hreg).trans (h.get g ⟨hlo, hhi⟩)

theorem State.eventOn_stays (code source : Nat) (detail : List Nat) (vc : Nat) : DmaStays s (s.eventOn code source detail vc) := by
  unfold State.eventOn
  dsimp only
  split
  · exact ⟨rfl, rfl, fun _ _ => rfl⟩
  · have hupd : DmaStays s { s with evtQ := s.evtQ.drop 1 ++ [{ code := code, source := source, tickno := s.tick.tickno, detail := padTo 16 detail, vc := vc }] } :=
      ⟨rfl, rfl, fun _ _ => rfl⟩
    exact hupd.raise

theorem State.compactResume_stays : DmaStays s s.compactResume := by
  unfold State.compactResume State.bgProgress
  split
  · have hupd : DmaStays s { s with cal := { s.cal with bgAt := mapIns s.cal.bgAt 2 s.runTime } } := ⟨rfl, rfl, fun _ _ => rfl⟩
    dsimp only
    rw [if_pos rfl]
    exact (hupd.put (f := ⟨R.CAL_BG_STAT_STARVED.reg, 2, 1⟩)).put
  · exact .refl

theorem State.stagedShow_stays : DmaStays s s.stagedShow := DmaStays.refl.put

/-! ## Completion -/

/-- The descriptor's STATUS is written, where its ring lies in DDR4 or the loft. -/
def State.statusWritten (s : State) (a err : Nat) : State := if ringPlace a then s.setBytes (a + 0x1C) (leBytes 4 (1 + 16 * err)) else s

/-- The channel is free again, and its fence waits for the writes that are left. -/
def State.chanFreed (s : State) (n left err : Nat) : State := (s.setChan n { writes := left, err := err }).fenceShrink n left

/-- A descriptor has failed: its code is shown, counted and told. -/
def State.descFailed (s : State) (n err : Nat) : State := ((s.put (R.CHn_STAT_ERR n) err).bump (R.CHn_STAT_ERR_CNT n)).raise (E.DMA_CH n)

/-- A descriptor has completed: HEAD moves on and DONE_CNT counts. -/
def State.descPassed (s : State) (n : Nat) : State :=
  (s.headNext n).put (R.CHn_DONE_CNT_COUNT n) (s.get (R.CHn_DONE_CNT_COUNT n) + 1)

/-- What a completion asks for by its control word: the interrupt and the event. -/
def State.descTold (s : State) (n : Nat) (ctrl : Nat) (detail : List Nat) : State :=
  let t1 := if bit ctrl 12 then (s.bump (R.CHn_STAT_IRQ_CNT n)).raise (E.DMA_CH n) else s
  if bit ctrl 14 then t1.eventOn cDMA_DONE n detail (t1.get (R.CHn_CTRL_VC n)) else t1

/-- The channel's state and the staging are shown, and a compaction that was held resumes. -/
def State.doneShown (s : State) (n : Nat) : State := (s.chanShow n).stagedShow.compactResume

/-- What the completion of a channel's descriptor leaves behind. -/
def State.dmaDoneLeft (s : State) (n : Nat) : Nat :=
  if bit (descCtrl (s.chanOf n).desc) 13 then (s.chanOf n).writes - (s.chanOf n).own else (s.chanOf n).writes

theorem State.dmaDone_eq {n : Nat} (hbusy : (s.chanOf n).busy = true) (hdone : (s.chanOf n).done = true) (hpower : s.power ≠ pSTANDBY)
    (hwait : s.ddrWait (s.descAddr n) = false) : ∃ detail, s.dmaDone n =
      (if (s.chanOf n).err ≠ 0 then ((s.statusWritten (s.descAddr n) (s.chanOf n).err).chanFreed n (s.dmaDoneLeft n) (s.chanOf n).err).descFailed n
          (s.chanOf n).err
        else (((s.statusWritten (s.descAddr n) (s.chanOf n).err).chanFreed n (s.dmaDoneLeft n) (s.chanOf n).err).descPassed n).descTold n
          (descCtrl (s.chanOf n).desc) detail).doneShown n := by
  unfold State.dmaDone
  dsimp only
  rw [if_neg (by simp [hbusy, hdone, hpower, hwait])]
  exact ⟨_, rfl⟩

/-- The register of a channel lies among the DMA's fields. -/
theorem chan_reg_lt {n : Nat} (hn : n < 32) : 0x21800 + 0x40 * n + 0x40 ≤ 0x22000 := by omega

/-- A channel's HEAD, DONE_CNT, ERR, ERR_CNT and interrupt bit. -/
def chanDone (n : Nat) : List Fld :=
  [R.CHn_HEAD_PTR n, R.CHn_DONE_CNT_COUNT n, R.CHn_STAT_ERR n, R.CHn_STAT_ERR_CNT n, intRawBit (E.DMA_CH n)]

theorem chanDone_field {n : Nat} (hn : n < 32) {g : Fld} (hg : g ∈ chanDone n) : dmaField g ∧ g.off (R.CHn_STAT_STATE n) = true := by
  rw [Fld.off_iff]
  simp only [chanDone, List.mem_cons, List.not_mem_nil, or_false] at hg
  rcases hg with rfl | rfl | rfl | rfl | rfl <;>
    simp only [dmaField, R.CHn_HEAD_PTR, R.CHn_DONE_CNT_COUNT, R.CHn_STAT_ERR, R.CHn_STAT_ERR_CNT, R.CHn_STAT_STATE, intRawBit, E.DMA_CH] <;> omega

theorem State.doneShown_shows (n : Nat) : (s.doneShown n).dma = s.dma ∧ (s.doneShown n).mem = s.mem ∧
    ∀ g, dmaField g → g.off (R.CHn_STAT_STATE n) = true → (s.doneShown n).get g = s.get g := by
  have hrest := (s.chanShow n).stagedShow_stays.trans (s.chanShow n).stagedShow.compactResume_stays
  have hput : (s.chanShow n).dma = s.dma ∧ (s.chanShow n).mem = s.mem ∧ ∀ g, g.off (R.CHn_STAT_STATE n) = true → (s.chanShow n).get g = s.get g :=
    ⟨State.put_dma .., State.put_mem .., fun g hg => State.get_put_off _ hg⟩
  exact ⟨hrest.chan.trans hput.1, hrest.mem.trans hput.2.1, fun g hg hoff => (hrest.get g hg).trans (hput.2.2 g hoff)⟩

theorem State.statusWritten_shows (a err : Nat) : (s.statusWritten a err).dma = s.dma ∧ (∀ g, (s.statusWritten a err).get g = s.get g) ∧
    (ringPlace a = true → (s.statusWritten a err).bytes (a + 0x1C) 4 = leBytes 4 (1 + 16 * err) ∧ s.memSame (s.statusWritten a err) (a + 0x1C) 4) := by
  have hw : Written s (s.statusWritten a err) [] := by
    unfold State.statusWritten
    split
    · exact s.setBytes_written _ _
    · exact .refl
  refine ⟨hw.dma, fun g => hw.get List.not_mem_nil, fun hring => ?_⟩
  unfold State.statusWritten
  rw [if_pos hring]
  have hmem := s.setBytes_mem (a + 0x1C) (leBytes 4 (1 + 16 * err))
  have hlen : (leBytes 4 (1 + 16 * err)).length = 4 := leBytes_length _ _
  refine ⟨?_, ?_⟩
  · have hsame := s.bytes_putBytes_same (a + 0x1C) (bs := leBytes 4 (1 + 16 * err)) fun b hb => leBytes_lt hb
    rw [hlen] at hsame
    rw [State.bytes_of_mem hmem, hsame]
  · have hsame := s.memSame_putBytes (a + 0x1C) (leBytes 4 (1 + 16 * err)) hmem
    rwa [hlen] at hsame

theorem State.chanFreed_shows (n left err : Nat) : (s.chanFreed n left err).chanOf n = { writes := left, err := err } ∧
    (s.chanFreed n left err).mem = s.mem ∧ ∀ g, (s.chanFreed n left err).get g = s.get g := ⟨mapGet_set_same _ _ _ _, rfl, fun _ => rfl⟩

/-- The interrupt bit of a channel is no field of it. -/
theorem dmaRaw_apart {n : Nat} {g : Fld} (hg : 0x21800 ≤ g.reg) : g.reg ∉ toldRegs (E.DMA_CH n) := by
  simp only [toldRegs, E.DMA_CH, intRawBit, List.mem_singleton]
  omega

theorem State.descFailed_shows {n : Nat} (hn : n < 32) (err : Nat) : (s.descFailed n err).dma = s.dma ∧ (s.descFailed n err).mem = s.mem ∧
    (s.descFailed n err).get (R.CHn_HEAD_PTR n) = s.get (R.CHn_HEAD_PTR n) ∧ (s.descFailed n err).get (R.CHn_STAT_ERR n) = err % 16 ∧
    (s.descFailed n err).get (R.CHn_STAT_ERR_CNT n) = min 255 (s.get (R.CHn_STAT_ERR_CNT n) + 1) ∧
    (s.descFailed n err).get (intRawBit (E.DMA_CH n)) = 1 := by
  have hhead : (R.CHn_HEAD_PTR n).reg ≠ (R.CHn_STAT_ERR n).reg := by
    show 0x21814 + 0x40 * n ≠ 0x21804 + 0x40 * n
    omega
  have hhead' : (R.CHn_HEAD_PTR n).reg ≠ (R.CHn_STAT_ERR_CNT n).reg := hhead
  have herr : (R.CHn_STAT_ERR n).off (R.CHn_STAT_ERR_CNT n) = true := Fld.off_iff.mpr (.inr (show 16 + 8 ≤ 32 ∧ (16 + 8 ≤ 4 ∨ 4 + 4 ≤ 16) by decide))
  have hcnt : (R.CHn_STAT_ERR_CNT n).off (R.CHn_STAT_ERR n) = true := Fld.off_iff.mpr (.inr (show 4 + 4 ≤ 32 ∧ (4 + 4 ≤ 16 ∨ 16 + 8 ≤ 4) by decide))
  unfold State.descFailed
  refine ⟨?_, ?_, ?_, ?_, ?_, State.get_raise _ _ hn⟩
  · rw [State.raise_dma, State.bump, State.bumpBy, State.put_dma, State.put_dma]
  · rw [State.raise_mem, State.bump, State.bumpBy, State.put_mem, State.put_mem]
  · rw [State.get_raise_other _ (dmaRaw_apart (show 0x21800 ≤ 0x21814 + 0x40 * n by omega)), State.bump, State.bumpBy, State.get_put_reg _ _ hhead',
      State.get_put_reg _ _ hhead]
  · rw [State.get_raise_other _ (dmaRaw_apart (show 0x21800 ≤ 0x21804 + 0x40 * n by omega)), State.bump, State.bumpBy, State.get_put_off _ herr]
    exact State.get_put_same _ _ (show 4 + 4 ≤ 32 by decide)
  · rw [State.get_raise_other _ (dmaRaw_apart (show 0x21800 ≤ 0x21804 + 0x40 * n by omega)), State.bump,
      State.get_bumpBy _ _ _ (show 16 + 8 ≤ 32 by decide), State.get_put_off _ hcnt]
    rfl

theorem ptrNext_lt {size p : Nat} (hp : p < 2 ^ 9) (hsize : size ≤ 256) : ptrNext size p < 2 ^ 9 := by
  unfold ptrNext
  split
  · omega
  · have := Nat.mod_lt (p / 256) (show 0 < 2 by decide)
    omega

theorem State.chanSize_le (n : Nat) : s.chanSize n ≤ 256 := Nat.min_le_left _ _

theorem State.headNext_get (n : Nat) : (s.headNext n).get (R.CHn_HEAD_PTR n) = ptrNext (s.chanSize n) (s.get (R.CHn_HEAD_PTR n)) :=
  State.get_put_fits _ (show 0 + 9 ≤ 32 by decide) (ptrNext_lt (s.get_lt (R.CHn_HEAD_PTR n)) (s.chanSize_le n))

theorem State.descPassed_shows (n : Nat) : (s.descPassed n).dma = s.dma ∧ (s.descPassed n).mem = s.mem ∧
    (s.descPassed n).get (R.CHn_HEAD_PTR n) = ptrNext (s.chanSize n) (s.get (R.CHn_HEAD_PTR n)) ∧
    (s.descPassed n).get (R.CHn_DONE_CNT_COUNT n) = (s.get (R.CHn_DONE_CNT_COUNT n) + 1) % 2 ^ 32 := by
  have hreg : (R.CHn_HEAD_PTR n).reg ≠ (R.CHn_DONE_CNT_COUNT n).reg := by
    show 0x21814 + 0x40 * n ≠ 0x2181C + 0x40 * n
    omega
  unfold State.descPassed
  refine ⟨?_, ?_, ?_, State.get_put_same _ _ (show 0 + 32 ≤ 32 by decide)⟩
  · rw [State.put_dma, State.headNext, State.put_dma]
  · rw [State.put_mem, State.headNext, State.put_mem]
  · rw [State.get_put_reg _ _ hreg, State.headNext_get]

theorem State.descTold_shows {n : Nat} (hn : n < 32) (ctrl : Nat) (detail : List Nat) : (s.descTold n ctrl detail).dma = s.dma ∧
    (s.descTold n ctrl detail).mem = s.mem ∧
    (∀ g : Fld, 0x21800 ≤ g.reg → g.reg < 0x22000 → g.off (R.CHn_STAT_IRQ_CNT n) = true → (s.descTold n ctrl detail).get g = s.get g) ∧
    (bit ctrl 12 = true → (s.descTold n ctrl detail).get (intRawBit (E.DMA_CH n)) = 1) := by
  unfold State.descTold
  dsimp only
  have htold : ((s.bump (R.CHn_STAT_IRQ_CNT n)).raise (E.DMA_CH n)).dma = s.dma ∧ ((s.bump (R.CHn_STAT_IRQ_CNT n)).raise (E.DMA_CH n)).mem = s.mem ∧
      (∀ g : Fld, 0x21800 ≤ g.reg → g.off (R.CHn_STAT_IRQ_CNT n) = true → ((s.bump (R.CHn_STAT_IRQ_CNT n)).raise (E.DMA_CH n)).get g = s.get g) ∧
      ((s.bump (R.CHn_STAT_IRQ_CNT n)).raise (E.DMA_CH n)).get (intRawBit (E.DMA_CH n)) = 1 :=
    ⟨(State.raise_dma ..).trans (State.put_dma ..), (State.raise_mem ..).trans (State.put_mem ..),
      fun g hlo hoff => (State.get_raise_other _ (dmaRaw_apart hlo)).trans (State.get_put_off _ hoff), State.get_raise _ _ hn⟩
  generalize (s.bump (R.CHn_STAT_IRQ_CNT n)).raise (E.DMA_CH n) = v at htold ⊢
  obtain ⟨hdma, hmem, hget, hraw⟩ := htold
  have hfirst : (if bit ctrl 12 = true then v else s).dma = s.dma ∧ (if bit ctrl 12 = true then v else s).mem = s.mem ∧
      (∀ g : Fld, 0x21800 ≤ g.reg → g.off (R.CHn_STAT_IRQ_CNT n) = true → (if bit ctrl 12 = true then v else s).get g = s.get g) ∧
      (bit ctrl 12 = true → (if bit ctrl 12 = true then v else s).get (intRawBit (E.DMA_CH n)) = 1) := by
    split
    · exact ⟨hdma, hmem, hget, fun _ => hraw⟩
    · next hno => exact ⟨rfl, rfl, fun _ _ _ => rfl, fun h => absurd h hno⟩
  generalize (if bit ctrl 12 = true then v else s) = w at hfirst ⊢
  obtain ⟨hdma, hmem, hget, hraw⟩ := hfirst
  have hev := w.eventOn_stays cDMA_DONE n detail (w.get (R.CHn_CTRL_VC n))
  generalize w.eventOn cDMA_DONE n detail (w.get (R.CHn_CTRL_VC n)) = x at hev ⊢
  split
  · refine ⟨hev.chan.trans hdma, hev.mem.trans hmem, fun g hlo hhi hoff => (hev.get g ⟨by omega, hhi⟩).trans (hget g hlo hoff), fun h => ?_⟩
    exact (hev.get _ (chanDone_field hn (by simp [chanDone])).1).trans (hraw h)
  · exact ⟨hdma, hmem, fun g hlo _ hoff => hget g hlo hoff, hraw⟩

theorem dmaDone_completes (n : Fin 32) (hbusy : (s.chanOf n).busy = true) (hdone : (s.chanOf n).done = true) (hpower : s.power ≠ pSTANDBY)
    (hwait : s.ddrWait (s.descAddr n) = false) : goesOn (exec (.dmaDone n) s) fun t =>
    let c := s.chanOf n
    (t.chanOf n.val).busy = false ∧ (t.chanOf n.val).err = c.err ∧
    (t.chanOf n.val).writes = (if bit (descCtrl c.desc) 13 then c.writes - c.own else c.writes) ∧
    (c.err = 0 → t.get (R.CHn_HEAD_PTR n.val) = ptrNext (s.chanSize n.val) (s.get (R.CHn_HEAD_PTR n.val)) ∧
      t.get (R.CHn_DONE_CNT_COUNT n.val) = (s.get (R.CHn_DONE_CNT_COUNT n.val) + 1) % 2 ^ 32 ∧
      (bit (descCtrl c.desc) 12 = true → t.get (intRawBit (E.DMA_CH n.val)) = 1)) ∧
    (c.err ≠ 0 → t.get (R.CHn_HEAD_PTR n.val) = s.get (R.CHn_HEAD_PTR n.val) ∧ t.get (R.CHn_STAT_ERR n.val) = c.err % 16 ∧
      t.get (R.CHn_STAT_ERR_CNT n.val) = min 255 (s.get (R.CHn_STAT_ERR_CNT n.val) + 1) ∧ t.get (intRawBit (E.DMA_CH n.val)) = 1) ∧
    (ringPlace (s.descAddr n.val) = true →
      t.bytes (s.descAddr n.val + 0x1C) 4 = leBytes 4 (1 + 16 * c.err) ∧ s.memSame t (s.descAddr n.val + 0x1C) 4) := by
  obtain ⟨detail, heq⟩ := State.dmaDone_eq hbusy hdone hpower hwait
  have hexec : exec (.dmaDone n) s = .next (s.dmaDone n) := rfl
  rw [hexec, heq]
  refine ⟨_, rfl, ?_⟩
  dsimp only
  show _ ∧ _ ∧ _ = s.dmaDoneLeft n ∧ _
  generalize s.dmaDoneLeft n = left
  generalize s.chanOf n = c
  generalize s.descAddr n = a
  obtain ⟨-, hstatusGet, hstatusMem⟩ := s.statusWritten_shows a c.err
  generalize s.statusWritten a c.err = v at *
  obtain ⟨hchan, hfreedMem, hfreedGet⟩ := v.chanFreed_shows n left c.err
  generalize v.chanFreed n left c.err = w at *
  have hget (g : Fld) : w.get g = s.get g := (hfreedGet g).trans (hstatusGet g)
  have hsize : w.chanSize n = s.chanSize n := by rw [State.chanSize, hget, State.chanSize]
  obtain ⟨hfDma, hfMem, hfHead, hfErr, hfCnt, hfRaw⟩ := w.descFailed_shows n.isLt c.err
  obtain ⟨hpDma, hpMem, hpHead, hpCnt⟩ := w.descPassed_shows n
  obtain ⟨htDma, htMem, htGet, htRaw⟩ := (w.descPassed n).descTold_shows n.isLt (descCtrl c.desc) detail
  have hx : ∀ x : State, x = (if c.err ≠ 0 then w.descFailed n c.err else (w.descPassed n).descTold n (descCtrl c.desc) detail) →
      x.dma = w.dma ∧ x.mem = w.mem ∧
      (c.err = 0 → x.get (R.CHn_HEAD_PTR n.val) = ptrNext (s.chanSize n.val) (s.get (R.CHn_HEAD_PTR n.val)) ∧
        x.get (R.CHn_DONE_CNT_COUNT n.val) = (s.get (R.CHn_DONE_CNT_COUNT n.val) + 1) % 2 ^ 32 ∧
        (bit (descCtrl c.desc) 12 = true → x.get (intRawBit (E.DMA_CH n.val)) = 1)) ∧
      (c.err ≠ 0 → x.get (R.CHn_HEAD_PTR n.val) = s.get (R.CHn_HEAD_PTR n.val) ∧ x.get (R.CHn_STAT_ERR n.val) = c.err % 16 ∧
        x.get (R.CHn_STAT_ERR_CNT n.val) = min 255 (s.get (R.CHn_STAT_ERR_CNT n.val) + 1) ∧ x.get (intRawBit (E.DMA_CH n.val)) = 1) := by
    have hn := n.isLt
    rintro x rfl
    split
    · next herr => exact ⟨hfDma, hfMem, fun h => absurd h herr, fun _ => ⟨hfHead.trans (hget _), hfErr, by rw [hfCnt, hget], hfRaw⟩⟩
    · next herr =>
      refine ⟨htDma.trans hpDma, htMem.trans hpMem, fun _ => ⟨?_, ?_, htRaw⟩, fun h => absurd h herr⟩
      · rw [htGet (R.CHn_HEAD_PTR n) (show 0x21800 ≤ 0x21814 + 0x40 * n.val by omega) (show 0x21814 + 0x40 * n.val < 0x22000 by omega)
          (Fld.off_iff.mpr (.inl (show 0x21814 + 0x40 * n.val ≠ 0x21804 + 0x40 * n.val by omega))), hpHead, hsize, hget]
      · rw [htGet (R.CHn_DONE_CNT_COUNT n) (show 0x21800 ≤ 0x2181C + 0x40 * n.val by omega) (show 0x2181C + 0x40 * n.val < 0x22000 by omega)
          (Fld.off_iff.mpr (.inl (show 0x2181C + 0x40 * n.val ≠ 0x21804 + 0x40 * n.val by omega))), hpCnt, hget]
  generalize hxe : (if c.err ≠ 0 then w.descFailed n c.err else (w.descPassed n).descTold n (descCtrl c.desc) detail) = x
  obtain ⟨hxDma, hxMem, hpass, hfail⟩ := hx x hxe.symm
  obtain ⟨hsDma, hsMem, hsGet⟩ := x.doneShown_shows n
  have hshown (g : Fld) (hg : g ∈ chanDone n) : (x.doneShown n).get g = x.get g := by
    obtain ⟨hfld, hoff⟩ := chanDone_field n.isLt hg
    exact hsGet g hfld hoff
  generalize x.doneShown n = y at *
  have hchanY : y.chanOf n = { writes := left, err := c.err } := by rw [State.chanOf, hsDma, hxDma]; exact hchan
  rw [hchanY, hshown (R.CHn_HEAD_PTR n) (by simp [chanDone]), hshown (R.CHn_DONE_CNT_COUNT n) (by simp [chanDone]),
    hshown (R.CHn_STAT_ERR n) (by simp [chanDone]), hshown (R.CHn_STAT_ERR_CNT n) (by simp [chanDone]), hshown (intRawBit (E.DMA_CH n)) (by simp [chanDone])]
  have hmemY : y.mem = v.mem := hsMem.trans (hxMem.trans hfreedMem)
  refine ⟨rfl, rfl, rfl, hpass, hfail, fun hring => ?_⟩
  obtain ⟨hbytes, hsame⟩ := hstatusMem hring
  exact ⟨(State.bytes_of_mem hmemY _ _).trans hbytes, fun b hb => (State.byte_of_mem hmemY b).trans (hsame b hb)⟩

end Sys2Proof.Machine
end

/-! PROOFS. O44: a channel's control register (R245). -/
section
-- One theorem after the other: the default proofs of the side conditions below are run by the elaborator, which waits for all that stands before.
set_option Elab.async false
namespace Sys2Proof.Machine

variable {s t u : State} {L : List Nat}

/-! ## The channels are shown -/

/-- A ring that no channel streams has sent all that is written. -/
def State.ringShown (s : State) (r : Nat) : State := if s.streamed r then s else (s.streamForget r).put (R.RINGr_SENT_OFS r) (s.ringWr r)

theorem State.chansShow_eq : s.chansShow = (List.range 5).foldl State.ringShown ((List.range 32).foldl State.chanShow s) := rfl

theorem State.streamForget_chan (r : Nat) : (s.streamForget r).dma.chan = s.dma.chan :=
  State.ite_of (P := fun t => t.dma.chan = s.dma.chan) rfl rfl

theorem State.ringShown_shows {r : Nat} (hr : r < 5) : (s.ringShown r).dma.chan = s.dma.chan ∧ (s.ringShown r).mem = s.mem ∧
    ∀ g, dmaField g → (s.ringShown r).get g = s.get g := by
  unfold State.ringShown
  split
  · exact ⟨rfl, rfl, fun _ _ => rfl⟩
  · have hmem : (s.streamForget r).mem = s.mem := State.ite_of (P := fun t => t.mem = s.mem) rfl rfl
    refine ⟨by rw [State.put_dma, State.streamForget_chan], (State.put_mem ..).trans hmem, fun g hg => ?_⟩
    obtain ⟨hlo, -⟩ := hg
    have hreg : g.reg ≠ (R.RINGr_SENT_OFS r).reg := by
      simp only [R.RINGr_SENT_OFS]
      omega
    rw [State.get_put_reg _ _ hreg, State.get_of_only (s.streamForget_only r (L := [])) List.not_mem_nil]

theorem State.chanShow_shows (m : Nat) : (s.chanShow m).dma = s.dma ∧ (s.chanShow m).mem = s.mem ∧
    ∀ g : Fld, g.off (R.CHn_STAT_STATE m) = true → (s.chanShow m).get g = s.get g :=
  ⟨State.put_dma .., State.put_mem .., fun _ hg => State.get_put_off _ hg⟩

theorem State.chansShow_shows : s.chansShow.dma.chan = s.dma.chan ∧ s.chansShow.mem = s.mem ∧
    ∀ g, dmaField g → (∀ m, g.off (R.CHn_STAT_STATE m) = true) → s.chansShow.get g = s.get g := by
  rw [State.chansShow_eq]
  have hchans := List.foldlRecOn (motive := fun t : State => t.dma = s.dma ∧ t.mem = s.mem ∧
    ∀ g : Fld, (∀ m, g.off (R.CHn_STAT_STATE m) = true) → t.get g = s.get g) (List.range 32) State.chanShow ⟨rfl, rfl, fun _ _ => rfl⟩
    fun t ht m _ => by
      obtain ⟨hdma, hmem, hget⟩ := t.chanShow_shows m
      exact ⟨hdma.trans ht.1, hmem.trans ht.2.1, fun g hg => (hget g (hg m)).trans (ht.2.2 g hg)⟩
  obtain ⟨hdma, hmem, hget⟩ := hchans
  generalize (List.range 32).foldl State.chanShow s = v at *
  have hrings := List.foldlRecOn (motive := fun t : State => t.dma.chan = v.dma.chan ∧ t.mem = v.mem ∧ ∀ g, dmaField g → t.get g = v.get g)
    (List.range 5) State.ringShown ⟨rfl, rfl, fun _ _ => rfl⟩ fun t ht r hr => by
      obtain ⟨hdma, hmem, hget⟩ := t.ringShown_shows (List.mem_range.mp hr)
      exact ⟨hdma.trans ht.1, hmem.trans ht.2.1, fun g hg => (hget g hg).trans (ht.2.2 g hg)⟩
  obtain ⟨hdma', hmem', hget'⟩ := hrings
  exact ⟨hdma'.trans (by rw [hdma]), hmem'.trans hmem, fun g hg hoff => (hget' g hg).trans (hget g hoff)⟩

theorem State.chanEn_of_get {n : Nat} (h : t.get (R.CHn_CTRL_EN n) = s.get (R.CHn_CTRL_EN n)) : t.chanEn n = s.chanEn n := State.on_of_get h

/-- A channel that is off shows state 0. -/
theorem State.chansShow_off {n : Nat} (hn : n < 32) (hoff : s.chanEn n = false) : s.chansShow.get (R.CHn_STAT_STATE n) = 0 := by
  have hctrl (m k : Nat) : (R.CHn_CTRL_EN m).reg ≠ (R.CHn_STAT_STATE k).reg := by
    simp only [R.CHn_CTRL_EN, R.CHn_STAT_STATE]
    omega
  have hen (u : State) (m k : Nat) : (u.chanShow k).chanEn m = u.chanEn m := State.chanEn_of_get (State.get_put_reg _ _ (hctrl m k))
  have hstep (u : State) (m : Nat) (h : u.chanEn m = false) : (u.chanShow m).get (R.CHn_STAT_STATE m) = 0 := by
    have hzero : u.chanState m = 0 := by
      unfold State.chanState
      dsimp only
      rw [if_pos (by rw [h]; rfl)]
    rw [State.chanShow, hzero]
    exact State.get_put_fits _ (show 0 + 3 ≤ 32 by decide) (show 0 < 2 ^ 3 by decide)
  have hstate := foldl_brings (P := fun t m => t.chanEn m = false → t.get (R.CHn_STAT_STATE m) = 0) (step := State.chanShow)
    (fun u k m hu h => by
      rw [hen] at h
      by_cases hkm : m = k
      · subst hkm
        exact hstep u m h
      · have hreg : (R.CHn_STAT_STATE m).reg ≠ (R.CHn_STAT_STATE k).reg := by
          simp only [R.CHn_STAT_STATE]
          omega
        exact (State.get_put_reg _ _ hreg).trans (hu h))
    (fun u m h => hstep u m (by rwa [hen] at h)) (List.mem_range.mpr hn) s
  have hens : ((List.range 32).foldl State.chanShow s).chanEn n = s.chanEn n :=
    List.foldlRecOn (motive := fun t : State => t.chanEn n = s.chanEn n) _ _ rfl fun t ht m _ => (hen t n m).trans ht
  rw [State.chansShow_eq]
  have hrings := List.foldlRecOn (motive := fun t : State => t.get (R.CHn_STAT_STATE n) = ((List.range 32).foldl State.chanShow s).get (R.CHn_STAT_STATE n))
    (List.range 5) State.ringShown rfl fun t ht r hr =>
      ((t.ringShown_shows (List.mem_range.mp hr)).2.2 _ (by simp only [dmaField, R.CHn_STAT_STATE]; omega)).trans ht
  rw [hrings]
  exact hstate (hens.trans hoff)

/-- The channels, the staging and a held compaction, behind a write of a channel's control register. -/
def State.ctrlShown (s : State) : State := s.chansShow.stagedShow.compactResume

theorem State.ctrlShown_shows : (∀ n, s.ctrlShown.chanOf n = s.chanOf n) ∧ (∀ g, dmaField g → s.ctrlShown.get g = s.chansShow.get g) ∧
    ∀ g, dmaField g → (∀ m, g.off (R.CHn_STAT_STATE m) = true) → s.ctrlShown.get g = s.get g := by
  obtain ⟨hchan, -, hget⟩ := s.chansShow_shows
  have hrest := s.chansShow.stagedShow_stays.trans s.chansShow.stagedShow.compactResume_stays
  refine ⟨fun n => (hrest.chanOf n).trans (by rw [State.chanOf, hchan, State.chanOf]), fun g hg => hrest.get g hg,
    fun g hg hoff => (hrest.get g hg).trans (hget g hg hoff)⟩

/-! ## Writes of CHn_CTRL -/

theorem chanCtrl_row : ∀ n < 32, regRow (0x21800 + 0x40 * n) = some ⟨0x800, 0x40, 32, 0x0, 1, .imm, 0xF7F, 0x0, 0x1000, 0x0, 0x0⟩ := by decide

theorem State.writeWord_en {n : Nat} (hn : n < 32) (v : Nat) : (s.writeWord (R.CHn_CTRL_EN n).reg v).get (R.CHn_CTRL_EN n) = bits v 0 1 :=
  s.get_writeWord_rw (f := R.CHn_CTRL_EN n) (chanCtrl_row n hn) (show 0 + 1 ≤ 32 by decide)
    (fun i hi => by
      have h0 : i = 0 := Nat.lt_one_iff.mp hi
      subst h0
      exact ⟨show Nat.testBit 0xF7F 0 = true by decide, show Nat.testBit 0 0 = false by decide⟩) v

theorem State.writeWord_dma (a v : Nat) : (s.writeWord a v).dma = s.dma := by
  unfold State.writeWord
  split
  · rfl
  · rfl

/-- The failing descriptor is skipped. -/
def State.descSkipped (s : State) (n : Nat) : State :=
  ((s.setChan n { writes := (s.chanOf n).writes }).headNext n).put (R.CHn_STAT_ERR n) 0

theorem State.descSkipped_shows (n : Nat) : (s.descSkipped n).chanOf n = { writes := (s.chanOf n).writes } ∧
    (s.descSkipped n).get (R.CHn_HEAD_PTR n) = ptrNext (s.chanSize n) (s.get (R.CHn_HEAD_PTR n)) ∧ (s.descSkipped n).get (R.CHn_STAT_ERR n) = 0 ∧
    (s.descSkipped n).get (R.CHn_CTRL_EN n) = s.get (R.CHn_CTRL_EN n) := by
  have hchan : (s.setChan n { writes := (s.chanOf n).writes }).chanOf n = { writes := (s.chanOf n).writes } := mapGet_set_same _ _ _ _
  have hget (g : Fld) : (s.setChan n { writes := (s.chanOf n).writes }).get g = s.get g := rfl
  unfold State.descSkipped
  generalize s.setChan n { writes := (s.chanOf n).writes } = v at *
  have hhead : (R.CHn_HEAD_PTR n).reg ≠ (R.CHn_STAT_ERR n).reg := by
    simp only [R.CHn_HEAD_PTR, R.CHn_STAT_ERR]
    omega
  have hen : (R.CHn_CTRL_EN n).reg ≠ (R.CHn_STAT_ERR n).reg ∧ (R.CHn_CTRL_EN n).reg ≠ (R.CHn_HEAD_PTR n).reg := by
    simp only [R.CHn_HEAD_PTR, R.CHn_STAT_ERR, R.CHn_CTRL_EN]
    omega
  refine ⟨?_, ?_, State.get_put_fits _ (show 4 + 4 ≤ 32 by decide) (show 0 < 2 ^ 4 by decide), ?_⟩
  · rw [State.chanOf, State.put_dma, State.headNext, State.put_dma]
    exact hchan
  · rw [State.get_put_reg _ _ hhead, State.headNext_get, State.chanSize, hget, hget, State.chanSize]
  · rw [State.get_put_reg _ _ hen.1, State.headNext, State.get_put_reg _ _ hen.2, hget]

theorem State.chanStop_shows (n : Nat) : (s.chanStop n).chanOf n = { writes := (s.chanOf n).writes } ∧
    (s.chanStop n).get (R.CHn_HEAD_PTR n) = (s.chanStop n).get (R.CHn_TAIL_PTR n) ∧
    (s.chanStop n).get (R.CHn_CTRL_EN n) = s.get (R.CHn_CTRL_EN n) := by
  have hchan : (s.setChan n { writes := (s.chanOf n).writes }).chanOf n = { writes := (s.chanOf n).writes } := mapGet_set_same _ _ _ _
  have hget (g : Fld) : (s.setChan n { writes := (s.chanOf n).writes }).get g = s.get g := rfl
  unfold State.chanStop
  dsimp only
  generalize s.setChan n { writes := (s.chanOf n).writes } = v at *
  have hreg : (R.CHn_HEAD_PTR n).reg ≠ (R.CHn_STAT_ERR n).reg ∧ (R.CHn_TAIL_PTR n).reg ≠ (R.CHn_STAT_ERR n).reg ∧
      (R.CHn_TAIL_PTR n).reg ≠ (R.CHn_HEAD_PTR n).reg ∧ (R.CHn_CTRL_EN n).reg ≠ (R.CHn_STAT_ERR n).reg ∧
      (R.CHn_CTRL_EN n).reg ≠ (R.CHn_HEAD_PTR n).reg := by
    simp only [R.CHn_HEAD_PTR, R.CHn_STAT_ERR, R.CHn_TAIL_PTR, R.CHn_CTRL_EN]
    omega
  obtain ⟨h1, h2, h3, h4, h5⟩ := hreg
  refine ⟨?_, ?_, ?_⟩
  · rw [State.chanOf, State.put_dma, State.put_dma]
    exact hchan
  · rw [State.get_put_reg _ _ h1, State.get_put_reg _ _ h2, State.get_put_reg _ _ h3, hget]
    exact State.get_put_fits _ (show 0 + 9 ≤ 32 by decide) (s.get_lt (R.CHn_TAIL_PTR n))
  · rw [State.get_put_reg _ _ h4, State.get_put_reg _ _ h5, hget]

theorem chanField_off {n : Nat} {g : Fld} (hg : g ∈ [R.CHn_HEAD_PTR n, R.CHn_TAIL_PTR n, R.CHn_CTRL_EN n, R.CHn_STAT_ERR n]) (hn : n < 32) :
    dmaField g ∧ ∀ m, g.off (R.CHn_STAT_STATE m) = true := by
  refine ⟨?_, fun m => Fld.off_iff.mpr ?_⟩ <;> simp only [List.mem_cons, List.not_mem_nil, or_false] at hg <;>
    rcases hg with rfl | rfl | rfl | rfl <;>
    simp only [dmaField, R.CHn_HEAD_PTR, R.CHn_TAIL_PTR, R.CHn_CTRL_EN, R.CHn_STAT_ERR, R.CHn_STAT_STATE] <;> omega

theorem bits_or_low {v k : Nat} (hk : k % 2 = 0) : bits (v ||| k) 0 1 = bits v 0 1 := by
  refine Nat.eq_of_testBit_eq fun i => ?_
  rw [testBit_bits, testBit_bits, Nat.testBit_or]
  cases i with
  | zero => simp [Nat.testBit_zero, hk]
  | succ i => simp

theorem State.chanCtrlNow_en (n : Nat) : bits (s.chanCtrlNow n) 0 1 = s.get (R.CHn_CTRL_EN n) := rfl

theorem dmaResume_skips (n : Fin 32) (hserved : s.served 0x021 = true) (hen : s.chanEn n.val = true) (herr : (s.chanOf n.val).err ≠ 0)
    (hbusy : (s.chanOf n.val).busy = false) : goesOn (exec (.dmaResume n) s) fun t =>
      t.get (R.CHn_HEAD_PTR n.val) = ptrNext (s.chanSize n.val) (s.get (R.CHn_HEAD_PTR n.val)) ∧ t.get (R.CHn_STAT_ERR n.val) = 0 ∧
      t.chanOf n.val = { writes := (s.chanOf n.val).writes } ∧ t.chanEn n.val = true := by
  have hget := s.writeWord_en n.isLt (s.chanCtrlNow n ||| 0x1000)
  rw [bits_or_low (by decide), State.chanCtrlNow_en] at hget
  have honly := s.writeWord_only (R.CHn_CTRL_EN n).reg (s.chanCtrlNow n ||| 0x1000)
  have hdma := s.writeWord_dma (R.CHn_CTRL_EN n).reg (s.chanCtrlNow n ||| 0x1000)
  have hbit : bit (s.chanCtrlNow n ||| 0x1000) 12 = true := by
    rw [bit, ← Nat.testBit_eq_decide_div_mod_eq, Nat.testBit_or, show Nat.testBit 0x1000 12 = true by decide, Bool.or_true]
  have hexec : exec (.dmaResume n) s = .next ((s.writeWord (R.CHn_CTRL_EN n).reg (s.chanCtrlNow n ||| 0x1000)).descSkipped n).ctrlShown := by
    show Host.Outcome.next (s.chanCtrl n.val (s.chanCtrlNow n.val ||| 0x1000)) = _
    unfold State.chanCtrl
    rw [if_neg (by rw [hserved]; decide)]
    dsimp only
    generalize s.writeWord (R.CHn_CTRL_EN n).reg (s.chanCtrlNow n ||| 0x1000) = v at *
    have hven : v.chanEn n = true := (State.chanEn_of_get hget).trans hen
    have hchan : v.chanOf n = s.chanOf n := by rw [State.chanOf, hdma, State.chanOf]
    rw [hven, Bool.not_true, Bool.and_false, if_neg Bool.false_ne_true, if_pos hbit]
    unfold State.chanResume
    dsimp only
    rw [if_neg (by rw [hchan, hven, hbusy, decide_eq_false herr]; decide)]
    rfl
  refine ⟨_, hexec, ?_⟩
  generalize s.writeWord (R.CHn_CTRL_EN n).reg (s.chanCtrlNow n ||| 0x1000) = v at *
  have hchan : v.chanOf n = s.chanOf n := by rw [State.chanOf, hdma, State.chanOf]
  have hother (g : Fld) (hg : g.reg ≠ (R.CHn_CTRL_EN n).reg) : v.get g = s.get g := State.get_of_only honly (fun hmem => hg (List.mem_singleton.mp hmem))
  obtain ⟨hc, hhead, herr', hen'⟩ := v.descSkipped_shows n
  rw [hchan] at hc
  rw [State.chanSize, hother (R.CHn_RING_SIZE_SIZE n) (by simp only [R.CHn_RING_SIZE_SIZE, R.CHn_CTRL_EN]; omega),
    hother (R.CHn_HEAD_PTR n) (by simp only [R.CHn_HEAD_PTR, R.CHn_CTRL_EN]; omega)] at hhead
  generalize v.descSkipped n = w at *
  obtain ⟨hchans, -, hshown⟩ := w.ctrlShown_shows
  have hfld (g : Fld) (hg : g ∈ [R.CHn_HEAD_PTR n, R.CHn_TAIL_PTR n, R.CHn_CTRL_EN n, R.CHn_STAT_ERR n]) : w.ctrlShown.get g = w.get g :=
    hshown g (chanField_off hg n.isLt).1 (chanField_off hg n.isLt).2
  refine ⟨(hfld _ (by simp)).trans hhead, (hfld _ (by simp)).trans herr', (hchans n).trans hc, ?_⟩
  exact (State.chanEn_of_get ((hfld _ (by simp)).trans (hen'.trans hget))).trans hen

theorem dmaDisable_stops (n : Fin 32) (hserved : s.served 0x021 = true) (hen : s.chanEn n.val = true) : goesOn (exec (.dmaDisable n) s) fun t =>
    t.chanEn n.val = false ∧ t.get (R.CHn_HEAD_PTR n.val) = t.get (R.CHn_TAIL_PTR n.val) ∧ t.get (R.CHn_STAT_STATE n.val) = 0 ∧
    t.chanOf n.val = { writes := (s.chanOf n.val).writes } := by
  have hget := s.writeWord_en n.isLt (s.chanCtrlNow n / 2 * 2)
  have hzero : bits (s.chanCtrlNow n / 2 * 2) 0 1 = 0 := by
    simp only [bits]
    omega
  rw [hzero] at hget
  have hdma := s.writeWord_dma (R.CHn_CTRL_EN n).reg (s.chanCtrlNow n / 2 * 2)
  have hexec : exec (.dmaDisable n) s = .next ((s.writeWord (R.CHn_CTRL_EN n).reg (s.chanCtrlNow n / 2 * 2)).chanStop n).ctrlShown := by
    show Host.Outcome.next (s.chanCtrl n.val (s.chanCtrlNow n.val / 2 * 2)) = _
    unfold State.chanCtrl
    rw [if_neg (by rw [hserved]; decide)]
    dsimp only
    generalize s.writeWord (R.CHn_CTRL_EN n).reg (s.chanCtrlNow n / 2 * 2) = v at *
    have hven : v.chanEn n = false := State.on_of_zero hget
    rw [hven, hen, Bool.not_false, Bool.and_self, if_pos rfl]
    have hresume : (v.chanStop n).chanResume n = v.chanStop n := by
      unfold State.chanResume
      dsimp only
      rw [(v.chanStop_shows n).1]
      exact if_pos rfl
    rw [hresume, ite_self]
    rfl
  refine ⟨_, hexec, ?_⟩
  generalize s.writeWord (R.CHn_CTRL_EN n).reg (s.chanCtrlNow n / 2 * 2) = v at *
  have hchan : v.chanOf n = s.chanOf n := by rw [State.chanOf, hdma, State.chanOf]
  obtain ⟨hc, hhead, hen'⟩ := v.chanStop_shows n
  rw [hchan] at hc
  generalize v.chanStop n = w at *
  obtain ⟨hchans, hstate, hshown⟩ := w.ctrlShown_shows
  have hfld (g : Fld) (hg : g ∈ [R.CHn_HEAD_PTR n, R.CHn_TAIL_PTR n, R.CHn_CTRL_EN n, R.CHn_STAT_ERR n]) : w.ctrlShown.get g = w.get g :=
    hshown g (chanField_off hg n.isLt).1 (chanField_off hg n.isLt).2
  have hwoff : w.chanEn n = false := State.on_of_zero (hen'.trans hget)
  have hlt := n.isLt
  refine ⟨State.on_of_zero ((hfld _ (by simp)).trans (hen'.trans hget)), (hfld _ (by simp)).trans (hhead.trans (hfld _ (by simp)).symm), ?_,
    (hchans n).trans hc⟩
  rw [hstate _ (by simp only [dmaField, R.CHn_STAT_STATE]; omega)]
  exact w.chansShow_off hlt hwoff

end Sys2Proof.Machine
end

/-! PROOFS. O44: a descriptor begins (R240, R242). -/
section
-- One theorem after the other: the default proofs of the side conditions below are run by the elaborator, which waits for all that stands before.
set_option Elab.async false
namespace Sys2Proof.Machine

variable {s t u : State} {n : Nat}

/-! ## What the beginning of descriptors leaves alone -/

/-- A field that no descriptor's beginning shows in: no memory error's, no channel's state, not the staging's. -/
def beginKeeps (g : Fld) : Prop := g.reg ∉ memErrRegs ∧ g.reg ≠ R.JOB_STAT_STAGED.reg ∧ ∀ m < 32, g.off (R.CHn_STAT_STATE m) = true

/-- From s to t memory with its poisoned beats, the ports, and all fields but those stay. -/
structure BeginStays (s t : State) : Prop where
  mem : t.mem = s.mem
  poison : t.poison = s.poison
  pwr : t.pwr = s.pwr
  get : ∀ g, beginKeeps g → t.get g = s.get g

theorem BeginStays.refl : BeginStays s s := ⟨rfl, rfl, rfl, fun _ _ => rfl⟩

theorem BeginStays.trans (h : BeginStays s t) (k : BeginStays t u) : BeginStays s u :=
  ⟨k.mem.trans h.mem, k.poison.trans h.poison, k.pwr.trans h.pwr, fun g hg => (k.get g hg).trans (h.get g hg)⟩

theorem State.ddrRead_poison (a n : Nat) : (s.ddrRead a n).poison = s.poison := by
  rw [s.ddrRead_eq]
  refine List.foldlRecOn (motive := fun t : State => t.poison = s.poison) _ _ ?_ fun t ht b _ => (t.ueSeen_memctl b).2.trans ht
  exact List.foldlRecOn (motive := fun t : State => t.poison = s.poison) _ _ rfl fun t ht b _ => (t.ceSeen_memctl b).2.trans ht

theorem Written.pwr {L : List Nat} (h : Written s t L) : t.pwr = s.pwr := by
  obtain ⟨-, regs, mem, poison, memctl, sys, mb, freeIdx, rfl⟩ := h
  rfl

theorem State.ddrRead_mem (a n : Nat) : (s.ddrRead a n).mem = s.mem := by
  have hue (t : State) (b : Nat) : (t.ueSeen b).mem = t.mem := by
    unfold State.ueSeen State.errLatch
    split
    · rw [State.raise_mem, State.bump, State.bumpBy, State.put_mem]
    · rw [State.put_mem, State.put_mem, State.put_mem, State.raise_mem, State.bump, State.bumpBy, State.put_mem]
  have hce (t : State) (b : Nat) : (t.ceSeen b).mem = t.mem := by
    unfold State.ceSeen State.errLatch
    split
    · rw [State.raise_mem, State.bump, State.bumpBy, State.put_mem]
    · rw [State.put_mem, State.put_mem, State.put_mem, State.raise_mem, State.bump, State.bumpBy, State.put_mem]
  rw [s.ddrRead_eq]
  refine List.foldlRecOn (motive := fun t : State => t.mem = s.mem) _ _ ?_ fun t ht b _ => (hue t b).trans ht
  exact List.foldlRecOn (motive := fun t : State => t.mem = s.mem) _ _ rfl fun t ht b _ => (hce t b).trans ht

theorem State.ddrRead_stays (a n : Nat) : BeginStays s (s.ddrRead a n) :=
  ⟨s.ddrRead_mem a n, s.ddrRead_poison a n, (s.ddrRead_written a n).pwr, fun _ hg => State.get_of_only (s.ddrRead_only a n) hg.1⟩

theorem State.setChan_stays (m : Nat) (c : DmaChan) : BeginStays s (s.setChan m c) := ⟨rfl, rfl, rfl, fun _ _ => rfl⟩

theorem State.chanShow_stays {m : Nat} (hm : m < 32) : BeginStays s (s.chanShow m) :=
  ⟨State.put_mem .., State.put_poison .., State.put_pwr .., fun _ hg => State.get_put_off _ (hg.2.2 m hm)⟩

theorem State.stagedShow_begin : BeginStays s s.stagedShow :=
  ⟨State.put_mem .., State.put_poison .., State.put_pwr .., fun _ hg => State.get_put_reg _ _ hg.2.1⟩

theorem State.chanOf_setChan (m : Nat) (c : DmaChan) : (s.setChan m c).chanOf m = c := mapGet_set_same _ _ _ _

theorem State.chanOf_setChan_other {m : Nat} (c : DmaChan) (h : n ≠ m) : (s.setChan m c).chanOf n = s.chanOf n := mapGet_set_other _ _ _ _ h

theorem State.chanOf_of (h : t.dma = s.dma) (n : Nat) : t.chanOf n = s.chanOf n := by rw [State.chanOf, h, State.chanOf]

/-! ## A channel settles -/

/-- A channel whose data has moved, or that an error has ended, is due to complete. -/
def DmaChan.settled (c : DmaChan) : DmaChan :=
  if !c.busy || c.done then c else if c.err ≠ 0 || descLen c.desc ≤ c.pos then { c with done := true, buf := [], out := [] } else c

theorem State.dmaSettle_eq (m : Nat) : ∃ u, s.dmaSettle m = (u.chanShow m).stagedShow ∧ BeginStays s u ∧ u.chanOf m = (s.chanOf m).settled ∧
    ∀ n, n ≠ m → u.chanOf n = s.chanOf n := by
  unfold State.dmaSettle DmaChan.settled
  dsimp only
  split
  · exact ⟨s, rfl, .refl, rfl, fun _ _ => rfl⟩
  · split
    · exact ⟨_, rfl, s.setChan_stays m _, s.chanOf_setChan m _, fun n hn => s.chanOf_setChan_other _ hn⟩
    · exact ⟨s, rfl, .refl, rfl, fun _ _ => rfl⟩

theorem State.dmaSettle_shows {m : Nat} (hm : m < 32) : BeginStays s (s.dmaSettle m) ∧ (s.dmaSettle m).chanOf m = (s.chanOf m).settled ∧
    ∀ n, n ≠ m → (s.dmaSettle m).chanOf n = s.chanOf n := by
  obtain ⟨u, heq, hstays, hown, hother⟩ := s.dmaSettle_eq m
  rw [heq]
  have hchan (n : Nat) : ((u.chanShow m).stagedShow).chanOf n = u.chanOf n := State.chanOf_of ((State.put_dma ..).trans (State.put_dma ..)) n
  exact ⟨(hstays.trans (u.chanShow_stays hm)).trans (u.chanShow m).stagedShow_begin, (hchan m).trans hown, fun n hn => (hchan n).trans (hother n hn)⟩

/-! ## A channel begins -/

/-- The channel that begins a descriptor, with what its checks find. -/
def freshChan (d : List Nat) (e writes : Nat) : DmaChan := { busy := true, desc := d, err := e, writes := writes }

theorem State.dmaBegin_shows {m : Nat} (hm : m < 32) : BeginStays s (s.dmaBegin m) ∧ ∀ n, n ≠ m → (s.dmaBegin m).chanOf n = s.chanOf n := by
  unfold State.dmaBegin
  dsimp only
  split
  · exact ⟨.refl, fun _ _ => rfl⟩
  · split
    · obtain ⟨hstays, -, hother⟩ := (s.setChan m { busy := true, desc := [], err := 5, writes := (s.chanOf m).writes }).dmaSettle_shows hm
      exact ⟨(s.setChan_stays m _).trans hstays, fun n hn => (hother n hn).trans (s.chanOf_setChan_other _ hn)⟩
    · split
      · exact ⟨.refl, fun _ _ => rfl⟩
      · have hread : ∀ u : State, u = (if dmaTarget (s.descAddr m) = 0 then s.ddrRead (s.descAddr m) 32 else s) →
            BeginStays s u ∧ u.dma = s.dma := by
          rintro u rfl
          split
          · exact ⟨s.ddrRead_stays _ _, (s.ddrRead_written _ _).dma⟩
          · exact ⟨.refl, rfl⟩
        generalize hu : (if dmaTarget (s.descAddr m) = 0 then s.ddrRead (s.descAddr m) 32 else s) = u
        obtain ⟨hstays, hdma⟩ := hread u hu.symm
        generalize (if (decide (dmaTarget (s.descAddr m) = 0) && s.poisoned (s.descAddr m) 32) = true then 6
          else s.descCheck (s.bytes (s.descAddr m) 32)) = e
        generalize s.bytes (s.descAddr m) 32 = d
        obtain ⟨hsettle, -, hother⟩ := (u.setChan m { busy := true, desc := d, err := e, writes := (s.chanOf m).writes }).dmaSettle_shows hm
        exact ⟨(hstays.trans (u.setChan_stays m _)).trans hsettle,
          fun n hn => (hother n hn).trans ((u.chanOf_setChan_other _ hn).trans (State.chanOf_of hdma n))⟩

theorem State.dmaBegins_shows {l : List Nat} (hl : ∀ m ∈ l, m < 32) (h : n ∉ l) : BeginStays s (l.foldl State.dmaBegin s) ∧
    (l.foldl State.dmaBegin s).chanOf n = s.chanOf n :=
  List.foldlRecOn (motive := fun t => BeginStays s t ∧ t.chanOf n = s.chanOf n) l State.dmaBegin ⟨.refl, rfl⟩ fun t ht m hm => by
    obtain ⟨hstays, hother⟩ := t.dmaBegin_shows (hl m hm)
    exact ⟨ht.1.trans hstays, (hother n fun hnm => h (hnm ▸ hm)).trans ht.2⟩

/-- A ready channel's ring, its descriptor and its checks, as they stay while other channels begin. -/
theorem chanField_keeps {n : Nat} {g : Fld} (hg : g ∈ [R.CHn_CTRL_EN n, R.CHn_CTRL_MODE n, R.CHn_HEAD_PTR n, R.CHn_TAIL_PTR n, R.CHn_RING_LO_ADDR n,
    R.CHn_RING_HI_ADDR n]) : beginKeeps g := by
  have hlt : (∀ a ∈ memErrRegs, a < 0x21800) ∧ R.JOB_STAT_STAGED.reg < 0x21800 := by decide
  have hrange : 0x21800 ≤ g.reg ∧ ∀ m, g.reg ≠ 0x21804 + 0x40 * m := by
    simp only [List.mem_cons, List.not_mem_nil, or_false] at hg
    constructor
    · rcases hg with rfl | rfl | rfl | rfl | rfl | rfl <;> simp only [R.CHn_CTRL_EN, R.CHn_CTRL_MODE, R.CHn_HEAD_PTR, R.CHn_TAIL_PTR, R.CHn_RING_LO_ADDR,
        R.CHn_RING_HI_ADDR] <;> omega
    · intro m
      rcases hg with rfl | rfl | rfl | rfl | rfl | rfl <;> simp only [R.CHn_CTRL_EN, R.CHn_CTRL_MODE, R.CHn_HEAD_PTR, R.CHn_TAIL_PTR, R.CHn_RING_LO_ADDR,
        R.CHn_RING_HI_ADDR] <;> omega
  exact ⟨fun hmem => Nat.not_le_of_lt (hlt.1 _ hmem) hrange.1, fun he => Nat.not_le_of_lt hlt.2 (he ▸ hrange.1),
    fun m _ => Fld.off_iff.mpr (.inl (hrange.2 m))⟩

theorem beginKeeps_of {g : Fld} (h : g.reg ∉ memErrRegs := by decide) (hj : g.reg ≠ R.JOB_STAT_STAGED.reg := by decide)
    (hr : g.reg < 0x21800 ∨ 0x22000 ≤ g.reg := by decide) : beginKeeps g :=
  ⟨h, hj, fun m hm => Fld.off_iff.mpr (.inl (by simp only [R.CHn_STAT_STATE]; omega))⟩

end Sys2Proof.Machine
end

/-! PROOFS. O44: a descriptor's checks and its one unit (R240, R242, R243). -/
section
-- One theorem after the other: the default proofs of the side conditions below are run by the elaborator, which waits for all that stands before.
set_option Elab.async false
namespace Sys2Proof.Machine

variable {s t u : State} {n : Nat}

/-! ## A channel that begins -/

/-- The channel has a descriptor to begin, in DDR4 that is ready. -/
structure ChanGoes (s : State) (n : Nat) : Prop where
  en : s.chanEn n = true
  mode : s.on (R.CHn_CTRL_MODE n) = false
  busy : (s.chanOf n).busy = false
  err : (s.chanOf n).err = 0
  held : s.chanEmpty n = false
  place : dmaTarget (s.descAddr n) = 0
  ready : s.on R.MEM_STAT_READY = true
  clean : s.poisoned (s.descAddr n) 32 = false

theorem BeginStays.on (h : BeginStays s t) {g : Fld} (hg : beginKeeps g) : t.on g = s.on g := State.on_of_get (h.get g hg)

theorem BeginStays.chanEn (h : BeginStays s t) (n : Nat) : t.chanEn n = s.chanEn n := h.on (chanField_keeps (n := n) (by simp))

theorem BeginStays.chanEmpty (h : BeginStays s t) (n : Nat) : t.chanEmpty n = s.chanEmpty n := by
  rw [State.chanEmpty, h.get _ (chanField_keeps (n := n) (by simp)), h.get _ (chanField_keeps (n := n) (by simp)), State.chanEmpty]

theorem BeginStays.descAddr (h : BeginStays s t) (n : Nat) : t.descAddr n = s.descAddr n := by
  rw [State.descAddr, State.get64, h.get _ (chanField_keeps (n := n) (by simp)), h.get _ (chanField_keeps (n := n) (by simp)),
    h.get _ (chanField_keeps (n := n) (by simp)), State.descAddr, State.get64]

theorem BeginStays.poisoned (h : BeginStays s t) (a k : Nat) : t.poisoned a k = s.poisoned a k := by
  rw [State.poisoned, h.poison, State.poisoned]

theorem BeginStays.dmaAccess (h : BeginStays s t) (a w : Nat) (write : Bool) : t.dmaAccess a w write = s.dmaAccess a w write := by
  have hcourse (c : Nat) : t.courseOn c = s.courseOn c := by rw [State.courseOn, h.get _ (beginKeeps_of), State.courseOn]
  simp only [State.dmaAccess, hcourse]

theorem BeginStays.descCheck (h : BeginStays s t) (d : List Nat) : t.descCheck d = s.descCheck d := by
  have hport (p : Nat) : t.portGone p = s.portGone p := by
    have hlt : (∀ a ∈ memErrRegs, a < 0x22000) ∧ R.JOB_STAT_STAGED.reg < 0x22000 := by decide
    have hreg : 0x22000 ≤ (R.RP_STAT_STATE p).reg := show 0x22000 ≤ 0x24044 + 0x1000 * p by omega
    have hkeep : beginKeeps (R.RP_STAT_STATE p) :=
      beginKeeps_of (fun hmem => Nat.not_le_of_lt (hlt.1 _ hmem) hreg) (fun he => Nat.not_le_of_lt hlt.2 (he ▸ hreg)) (.inr hreg)
    rw [State.portGone, State.portUp, State.portState, h.get _ hkeep, State.portGone, State.portUp, State.portState]
  simp only [State.descCheck, h.dmaAccess, hport]

theorem ChanGoes.of_stays (hgo : ChanGoes s n) (h : BeginStays s t) (hchan : t.chanOf n = s.chanOf n) : ChanGoes t n := by
  obtain ⟨hen, hmode, hbusy, herr, hheld, hplace, hready, hclean⟩ := hgo
  refine ⟨(h.chanEn n).trans hen, (h.on (chanField_keeps (n := n) (by simp))).trans hmode, by rw [hchan]; exact hbusy, by rw [hchan]; exact herr,
    (h.chanEmpty n).trans hheld, by rw [h.descAddr]; exact hplace, (h.on beginKeeps_of).trans hready, ?_⟩
  rw [h.poisoned, h.descAddr]
  exact hclean

theorem chanGoes_of_ready (h : chanReady s n) : ChanGoes s n := by
  obtain ⟨-, -, hen, hmode, -, hbusy, -, herr, hheld, hplace, hready, hclean⟩ := h
  exact ⟨hen, hmode, hbusy, herr, hheld, hplace, hready, hclean⟩

theorem ChanGoes.begins (h : ChanGoes s n) (hn : n < 32) : BeginStays s (s.dmaBegin n) ∧ (s.dmaBegin n).chanOf n =
    (freshChan (s.bytes (s.descAddr n) 32) (s.descCheck (s.bytes (s.descAddr n) 32)) (s.chanOf n).writes).settled := by
  obtain ⟨hen, hmode, hbusy, herr, hheld, hplace, hready, hclean⟩ := h
  have hring : ringPlace (s.descAddr n) = true := by rw [ringPlace, hplace]; rfl
  have hwait : s.ddrWait (s.descAddr n) = false := by rw [State.ddrWait, hready]; exact Bool.and_false _
  have heq : s.dmaBegin n = ((s.ddrRead (s.descAddr n) 32).setChan n
      (freshChan (s.bytes (s.descAddr n) 32) (s.descCheck (s.bytes (s.descAddr n) 32)) (s.chanOf n).writes)).dmaSettle n := by
    unfold State.dmaBegin
    dsimp only
    rw [if_neg (by simp [hen, hmode, hbusy, herr, hheld]), if_neg (by rw [hring]; decide), if_neg (by rw [hwait]; decide), if_pos hplace,
      if_neg (by rw [hclean, Bool.and_false]; exact Bool.false_ne_true)]
    rfl
  refine ⟨(s.dmaBegin_shows hn).1, ?_⟩
  rw [heq, (State.dmaSettle_shows hn).2.1, State.chanOf_setChan]

theorem range_split (hn : n < 32) : ∃ l l' : List Nat, List.range 32 = l ++ n :: l' ∧ n ∉ l ∧ n ∉ l' := by
  obtain ⟨l, l', h⟩ := List.append_of_mem (List.mem_range.mpr hn)
  have hnodup := h ▸ List.nodup_range (n := 32)
  rw [List.nodup_append, List.nodup_cons] at hnodup
  obtain ⟨-, ⟨hl', -⟩, hdisj⟩ := hnodup
  exact ⟨l, l', h, fun hmem => hdisj n hmem n List.mem_cons_self rfl, hl'⟩

/-- The channels begin: what a ready one holds then. -/
theorem ChanGoes.begun (h : ChanGoes s n) (hn : n < 32) : BeginStays s ((List.range 32).foldl State.dmaBegin s) ∧
    ((List.range 32).foldl State.dmaBegin s).chanOf n =
      (freshChan (s.bytes (s.descAddr n) 32) (s.descCheck (s.bytes (s.descAddr n) 32)) (s.chanOf n).writes).settled := by
  obtain ⟨l, l', heq, hl, hl'⟩ := range_split hn
  have hlt : ∀ m ∈ l ++ n :: l', m < 32 := fun m hm => List.mem_range.mp (heq ▸ hm)
  rw [heq, List.foldl_append, List.foldl_cons]
  obtain ⟨hstays, hchan⟩ := State.dmaBegins_shows (s := s) (fun m hm => hlt m (List.mem_append_left _ hm)) hl
  generalize l.foldl State.dmaBegin s = u at *
  obtain ⟨hbegin, hfresh⟩ := (h.of_stays hstays hchan).begins hn
  rw [hchan, hstays.descCheck, hstays.descAddr, State.bytes_of_mem hstays.mem] at hfresh
  obtain ⟨hstays', hchan'⟩ := State.dmaBegins_shows (s := u.dmaBegin n) (fun m hm => hlt m (List.mem_append_right _ (.tail _ hm))) hl'
  exact ⟨(hstays.trans hbegin).trans hstays', hchan'.trans hfresh⟩

theorem State.dmaDescriptor_eq (h : chanReady s n) : s.dmaDescriptor n =
    ((List.range 32).foldl State.dmaBegin s).dmaTurns ((List.range 32).foldl State.dmaBegin s).dmaLeft (fun s => s.dmaReady n) := by
  obtain ⟨hserved, hoff, hen, hmode, hpower, -, hdone, -, -, -, -, -⟩ := h
  unfold State.dmaDescriptor
  rw [if_neg (by simp [hserved, hoff, hen, hmode, hpower, hdone])]

theorem State.dmaTurns_stop {k : Nat} {go : State → Bool} (h : go s = false) : s.dmaTurns k go = s := by
  cases k with
  | zero => rfl
  | succ k =>
    rw [State.dmaTurns, if_pos (by rw [h]; rfl)]

theorem freshChan_refused {d : List Nat} {e w : Nat} (he : e ≠ 0) :
    (freshChan d e w).settled = { busy := true, done := true, desc := d, err := e, writes := w } := by
  simp [DmaChan.settled, freshChan, he]

theorem freshChan_goes {d : List Nat} {w : Nat} (hlen : 0 < descLen d) : (freshChan d 0 w).settled = freshChan d 0 w := by
  have hlong : ¬descLen d ≤ 0 := by omega
  simp only [DmaChan.settled, freshChan, Bool.not_true, Bool.or_self, Bool.false_eq_true, if_false, ne_eq, not_true, decide_false, hlong]

theorem dmaDescriptor_refused (n : Fin 32) (h : chanReady s n.val) (hcheck : s.descCheck (s.bytes (s.descAddr n.val) 32) ≠ 0) :
    goesOn (exec (.dmaDescriptor n) s) fun t =>
      t.chanOf n.val = { busy := true, done := true, desc := s.bytes (s.descAddr n.val) 32
                         err := s.descCheck (s.bytes (s.descAddr n.val) 32), writes := (s.chanOf n.val).writes } ∧
      t.get (R.CHn_HEAD_PTR n.val) = s.get (R.CHn_HEAD_PTR n.val) ∧ ∀ a, t.byte a = s.byte a := by
  obtain ⟨hstays, hchan⟩ := (chanGoes_of_ready h).begun n.isLt
  rw [freshChan_refused hcheck] at hchan
  have hexec : exec (.dmaDescriptor n) s = .next ((List.range 32).foldl State.dmaBegin s) := by
    show Host.Outcome.next (s.dmaDescriptor n.val) = _
    rw [State.dmaDescriptor_eq h, State.dmaTurns_stop]
    unfold State.dmaReady
    dsimp only
    rw [hchan]
    rfl
  exact ⟨_, hexec, hchan, hstays.get _ (chanField_keeps (n := n) (by simp)), fun a => State.byte_of_mem hstays.mem a⟩

end Sys2Proof.Machine
end

/-! PROOFS. O44: one unit is copied within DDR4, and the DMA as stated (R240–R248). -/
section
-- One theorem after the other: the default proofs of the side conditions below are run by the elaborator, which waits for all that stands before.
set_option Elab.async false
namespace Sys2Proof.Machine

variable {s t u v : State} {n : Nat} {d : List Nat}

/-! ## A descriptor of one unit within DDR4 -/

/-- The descriptor copies one unit from DDR4 to DDR4, unchanged. -/
structure OneUnit (d : List Nat) : Prop where
  srcPort : descSrcPort d = false
  dstPort : descDstPort d = false
  src : dmaTarget (descSrc d) = 0
  dst : dmaTarget (descDst d) = 0
  len : descLen d = 2 ^ descSw d
  dw : descDw d = descSw d
  swap : descSwap d = 0

theorem OneUnit.len_pos (h : OneUnit d) : 0 < descLen d := h.len ▸ Nat.two_pow_pos _

theorem dmaAccess_ddr {a w : Nat} {write : Bool} (h : dmaTarget a = 0) : s.dmaAccess a w write = 0 := by
  rw [State.dmaAccess, h]
  rfl

theorem dmaRead_ddr {a w : Nat} (h : dmaTarget a = 0) (hclean : s.poisoned a w = false) :
    s.dmaRead a w = (s.ddrRead a w, .inr (s.bytes a w)) := by
  unfold State.dmaRead
  rw [if_neg (by rw [dmaAccess_ddr h]; decide), if_neg (by rw [h]; decide), if_pos h, if_neg (by rw [hclean]; decide)]

theorem dmaWriteUnit_ddr {a : Nat} {bs : List Nat} (h : dmaTarget a = 0) : s.dmaWriteUnit a bs = (s.setBytes a bs, 0) := by
  unfold State.dmaWriteUnit
  dsimp only
  rw [if_neg (by rw [dmaAccess_ddr h]; decide), h]
  rfl

theorem dmaSwap_none (bs : List Nat) : dmaSwap 0 bs = bs := rfl

/-- The holding register has the unit. -/
def unitHeld (d : List Nat) (w : Nat) (bs : List Nat) : DmaChan := { freshChan d 0 w with buf := bs }

/-- The unit is delivered. -/
def unitGone (d : List Nat) (w : Nat) : DmaChan := { freshChan d 0 w with pos := descLen d, writes := w + 1, own := 1 }

section
variable {e w : Nat} {bs : List Nat}

@[simp] theorem freshChan_busy : (freshChan d e w).busy = true := rfl
@[simp] theorem freshChan_done : (freshChan d e w).done = false := rfl
@[simp] theorem freshChan_desc : (freshChan d e w).desc = d := rfl
@[simp] theorem freshChan_pos : (freshChan d e w).pos = 0 := rfl
@[simp] theorem freshChan_buf : (freshChan d e w).buf = [] := rfl
@[simp] theorem freshChan_err : (freshChan d e w).err = e := rfl
@[simp] theorem unitHeld_busy : (unitHeld d w bs).busy = true := rfl
@[simp] theorem unitHeld_desc : (unitHeld d w bs).desc = d := rfl
@[simp] theorem unitHeld_pos : (unitHeld d w bs).pos = 0 := rfl
@[simp] theorem unitHeld_buf : (unitHeld d w bs).buf = bs := rfl
@[simp] theorem unitHeld_err : (unitHeld d w bs).err = 0 := rfl
@[simp] theorem unitGone_busy : (unitGone d w).busy = true := rfl
@[simp] theorem unitGone_done : (unitGone d w).done = false := rfl
@[simp] theorem unitGone_desc : (unitGone d w).desc = d := rfl
@[simp] theorem unitGone_pos : (unitGone d w).pos = descLen d := rfl
@[simp] theorem unitGone_err : (unitGone d w).err = 0 := rfl
end

theorem OneUnit.piece (h : OneUnit d) (w : Nat) : (freshChan d 0 w).piece = descLen d := by
  unfold DmaChan.piece
  rw [freshChan_desc, h.dstPort, if_neg Bool.false_ne_true, h.len, h.dw]

theorem State.bytes_length (a k : Nat) : (s.bytes a k).length = k := by
  induction k generalizing a with
  | zero => rfl
  | succ k ih => rw [State.bytes, List.length_cons, ih]

theorem State.bytes_lt {a k x : Nat} (h : x ∈ s.bytes a k) : x < 256 := by
  induction k generalizing a with
  | zero => exact absurd h List.not_mem_nil
  | succ k ih =>
    rcases List.mem_cons.1 h with rfl | h
    · exact (s.byte a).isLt
    · exact ih h

theorem dmaFill_full {k want : Nat} {c : DmaChan} (hc : v.chanOf n = c) (h : want ≤ c.buf.length) : v.dmaFill k n want = v := by
  cases k with
  | zero => rfl
  | succ k =>
    unfold State.dmaFill
    dsimp only
    rw [hc, if_pos (by rw [decide_eq_true h]; rfl)]

theorem OneUnit.fills (h : OneUnit d) {w : Nat} (hc : v.chanOf n = freshChan d 0 w) (hclean : v.poisoned (descSrc d) (descLen d) = false) (k : Nat) :
    v.dmaFill (k + 1) n (descLen d) =
      (v.ddrRead (descSrc d) (descLen d)).setChan n (unitHeld d w (v.bytes (descSrc d) (descLen d))) := by
  have hpos := h.len_pos
  have hchan : (v.ddrRead (descSrc d) (descLen d)).chanOf n = freshChan d 0 w :=
    (State.chanOf_of (v.ddrRead_written _ _).dma n).trans hc
  have hread := dmaRead_ddr (s := v) h.src hclean
  have haddr : descSrc d + (if bit (descCtrl d) 6 = true then 0 + 0 else 0) = descSrc d := by rw [ite_self, Nat.add_zero]
  unfold State.dmaFill
  dsimp only
  rw [hc, freshChan_buf, freshChan_err, freshChan_desc, freshChan_pos, List.length_nil, decide_eq_false (Nat.not_le_of_lt hpos),
    if_neg (by decide), h.srcPort, if_neg Bool.false_ne_true]
  rw [haddr, ← h.len, hread]
  dsimp only
  rw [hchan, List.nil_append]
  refine dmaFill_full (c := unitHeld d w (v.bytes (descSrc d) (descLen d))) (State.chanOf_setChan ..) ?_
  show descLen d ≤ (v.bytes (descSrc d) (descLen d)).length
  rw [State.bytes_length]

theorem OneUnit.delivers (h : OneUnit d) {w : Nat} {bs : List Nat} (hc : v.chanOf n = unitHeld d w bs) (hlen : bs.length = descLen d) :
    (v.dmaDeliver n).chanOf n = { unitGone d w with own := (freshChan d 0 w).own + 1 } ∧ (v.dmaDeliver n).mem = (v.setBytes (descDst d) bs).mem := by
  have hpiece : (unitHeld d w bs).piece = descLen d := h.piece w
  have hdst : descDst d + (if bit (descCtrl d) 7 = true then 0 else 0) = descDst d := by rw [ite_self, Nat.add_zero]
  have hchan : (v.setBytes (descDst d) bs).chanOf n = unitHeld d w bs := (State.chanOf_of (v.setBytes_written (L := []) _ _).dma n).trans hc
  have heq : v.dmaDeliver n = (v.setBytes (descDst d) bs).setChan n { unitHeld d w bs with
      buf := [], pos := descLen d, writes := w + 1, own := (freshChan d 0 w).own + 1 } := by
    unfold State.dmaDeliver
    dsimp only
    rw [hc, hpiece, unitHeld_desc, unitHeld_buf, unitHeld_pos, h.dstPort, if_neg Bool.false_ne_true]
    rw [hdst, h.swap, dmaSwap_none, List.take_of_length_le (Nat.le_of_eq hlen), dmaWriteUnit_ddr h.dst]
    dsimp only
    rw [if_pos rfl, hchan, List.drop_of_length_le (Nat.le_of_eq hlen), Nat.zero_add]
    rfl
  rw [heq, State.chanOf_setChan]
  exact ⟨rfl, rfl⟩

theorem State.setBytes_mem_of (h : t.mem = s.mem) (a : Nat) (bs : List Nat) : (t.setBytes a bs).mem = (s.setBytes a bs).mem := by
  rw [State.setBytes_mem, State.setBytes_mem]
  induction bs generalizing s t a with
  | nil => exact h
  | cons b bs ih =>
    rw [State.putBytes, State.putBytes]
    exact ih (by rw [State.setByte, State.setByte, h]) _

/-- One unit is read, and delivered. -/
theorem OneUnit.pumps (h : OneUnit d) {w upTo : Nat} (hc : v.chanOf n = freshChan d 0 w) (hclean : v.poisoned (descSrc d) (descLen d) = false)
    (hup : 0 < upTo) (hle : upTo ≤ descLen d) (k : Nat) : (v.dmaPump (k + 2) n upTo).chanOf n = unitGone d w ∧
      (v.dmaPump (k + 2) n upTo).mem = (v.setBytes (descDst d) (v.bytes (descSrc d) (descLen d))).mem := by
  have hfill := h.fills hc hclean (descLen d)
  have hlen := State.bytes_length (s := v) (descSrc d) (descLen d)
  generalize v.bytes (descSrc d) (descLen d) = bs at *
  have hheld : ((v.ddrRead (descSrc d) (descLen d)).setChan n (unitHeld d w bs)).chanOf n = unitHeld d w bs := State.chanOf_setChan ..
  have hmem : ((v.ddrRead (descSrc d) (descLen d)).setChan n (unitHeld d w bs)).mem = v.mem := v.ddrRead_mem _ _
  generalize (v.ddrRead (descSrc d) (descLen d)).setChan n (unitHeld d w bs) = x at *
  obtain ⟨hgone, hstored⟩ := h.delivers hheld hlen
  have hpiece := h.piece w
  have hpiece' : (unitHeld d w bs).piece = descLen d := h.piece w
  have heq : v.dmaPump (k + 2) n upTo = x.dmaDeliver n := by
    unfold State.dmaPump
    dsimp only
    rw [hc, freshChan_busy, freshChan_done, freshChan_err, freshChan_pos, decide_eq_false (Nat.not_le_of_lt hup), if_neg (by decide), hpiece, hfill,
      hheld, hpiece', unitHeld_busy, unitHeld_err, unitHeld_buf, hlen, decide_eq_false (Nat.lt_irrefl _), if_neg (by decide)]
    unfold State.dmaPump
    dsimp only
    rw [hgone, unitGone_pos, decide_eq_true hle, Bool.or_true, if_pos rfl]
  rw [heq, hgone, hstored]
  refine ⟨rfl, ?_⟩
  exact State.setBytes_mem_of hmem _ _

/-- The unit is delivered, and completion is due. -/
def unitDone (d : List Nat) (w : Nat) : DmaChan := { unitGone d w with done := true }

theorem unitGone_settled {w : Nat} : (unitGone d w).settled = unitDone d w := by
  unfold DmaChan.settled
  rw [unitGone_busy, unitGone_done, if_neg (by decide), unitGone_err, unitGone_desc, unitGone_pos, decide_eq_true (Nat.le_refl _), if_pos (by decide)]
  rfl

theorem OneUnit.transfers (h : OneUnit d) (hn : n < 32) {w : Nat} (hc : v.chanOf n = freshChan d 0 w)
    (hclean : v.poisoned (descSrc d) (descLen d) = false) : (v.dmaTransfer n).chanOf n = unitDone d w ∧
      (v.dmaTransfer n).mem = (v.setBytes (descDst d) (v.bytes (descSrc d) (descLen d))).mem := by
  have hpos := h.len_pos
  obtain ⟨hgone, hmem⟩ := h.pumps hc hclean (upTo := min (descLen d) (0 + 64)) (by omega) (Nat.min_le_left _ _) 63
  unfold State.dmaTransfer
  dsimp only
  rw [hc, freshChan_desc, freshChan_pos]
  generalize v.dmaPump (63 + 2) n (min (descLen d) (0 + 64)) = x at *
  obtain ⟨hstays, hchan, -⟩ := State.dmaSettle_shows (s := x) hn
  exact ⟨by rw [hchan, hgone, unitGone_settled], hstays.mem.trans hmem⟩

/-! ## The DMA clock serves the one channel -/

theorem range_filter_one : ∀ n < 32, (List.range 32).filter (fun m => decide (m = n)) = [n] := by decide

theorem State.dmaNext_one (hn : n < 32) (hready : s.dmaReady n = true) (hother : ∀ m, m < 32 → m ≠ n → s.dmaReady m = false) : s.dmaNext = some n := by
  have hlist : (List.range 32).filter s.dmaReady = [n] := by
    rw [← range_filter_one n hn]
    refine List.filter_congr fun m hm => ?_
    by_cases hmn : m = n
    · rw [hmn, hready, decide_eq_true rfl]
    · rw [hother m (List.mem_range.mp hm) hmn, decide_eq_false hmn]
  have htop : [n].foldl (fun p m => max p (s.get (R.CHn_CTRL_PRIO m))) 0 = s.get (R.CHn_CTRL_PRIO n) := Nat.zero_max _
  have hbest : [n].filter (fun m => decide (s.get (R.CHn_CTRL_PRIO m) = s.get (R.CHn_CTRL_PRIO n))) = [n] :=
    List.filter_cons_of_pos (decide_eq_true rfl)
  unfold State.dmaNext
  dsimp only
  rw [hlist, htop, hbest, List.find?_singleton]
  split
  · next m hm =>
    split at hm
    · exact hm.symm
    · exact nomatch hm
  · rfl

/-- The channel served last at a PRIO. -/
def State.servedLast (s : State) (n : Nat) : State := { s with dma := { s.dma with last := mapSet 31 s.dma.last (s.get (R.CHn_CTRL_PRIO n)) n } }

theorem State.dmaServe_eq : s.dmaServe n = (s.servedLast n).dmaTransfer n := rfl

theorem State.servedLast_shows : (s.servedLast n).mem = s.mem ∧ (s.servedLast n).poison = s.poison ∧ (s.servedLast n).chanOf n = s.chanOf n :=
  ⟨rfl, rfl, rfl⟩

theorem State.dmaLeft_pos : 0 < s.dmaLeft := by
  unfold State.dmaLeft
  refine List.foldlRecOn (motive := fun k => 0 < k) _ _ Nat.one_pos fun k hk c _ => ?_
  omega

/-- The clock serves n, the only channel with a transfer to make, until its unit is delivered. -/
theorem OneUnit.turns (h : OneUnit d) (hn : n < 32) {w : Nat} (hc : u.chanOf n = freshChan d 0 w) (hclean : u.poisoned (descSrc d) (descLen d) = false)
    (hready : u.dmaReady n = true) (hother : ∀ m, m < 32 → m ≠ n → u.dmaReady m = false) :
    (u.dmaTurns u.dmaLeft (fun s => s.dmaReady n)).chanOf n = unitDone d w ∧
    (u.dmaTurns u.dmaLeft (fun s => s.dmaReady n)).mem = (u.setBytes (descDst d) (u.bytes (descSrc d) (descLen d))).mem := by
  have hnext := State.dmaNext_one hn hready hother
  obtain ⟨k, hk⟩ := Nat.exists_eq_succ_of_ne_zero (Nat.ne_of_gt u.dmaLeft_pos)
  have hserved : (u.dmaServe n).chanOf n = unitDone d w ∧
      (u.dmaServe n).mem = (u.setBytes (descDst d) (u.bytes (descSrc d) (descLen d))).mem := by
    obtain ⟨hmem, hpoison, hchan⟩ := u.servedLast_shows (n := n)
    obtain ⟨hdone, hstored⟩ := h.transfers hn (hchan.trans hc) (by rw [State.poisoned, hpoison]; exact hclean)
    rw [State.dmaServe_eq, hdone, hstored, State.bytes_of_mem hmem, State.setBytes_mem_of hmem]
    exact ⟨rfl, rfl⟩
  have hstop : (u.dmaServe n).dmaReady n = false := by
    unfold State.dmaReady
    dsimp only
    rw [hserved.1]
    rfl
  rw [hk, State.dmaTurns, if_neg (by rw [hready]; decide), hnext]
  dsimp only
  rw [State.dmaTurns_stop hstop]
  exact hserved

theorem State.dmaBegin_idle (h : s.chanEmpty n = true) : s.dmaBegin n = s := by
  unfold State.dmaBegin
  dsimp only
  rw [if_pos (by rw [h, Bool.or_true])]

theorem State.dmaBegins_idle {l : List Nat} (h : ∀ m ∈ l, s.chanEmpty m = true) : l.foldl State.dmaBegin s = s :=
  List.foldlRecOn (motive := fun t => t = s) l State.dmaBegin rfl fun t ht m hm => by
    subst ht
    exact State.dmaBegin_idle (h m hm)

theorem State.not_ready_of_idle {m : Nat} (h : (s.chanOf m).busy = false) : s.dmaReady m = false := by
  unfold State.dmaReady
  dsimp only
  rw [h]
  rfl

/-- Only n begins: the others' rings are empty. -/
theorem ChanGoes.begun_alone (h : ChanGoes s n) (hn : n < 32) (halone : chanAlone s n) :
    (List.range 32).foldl State.dmaBegin s = s.dmaBegin n := by
  obtain ⟨l, l', heq, hl, hl'⟩ := range_split hn
  have hlt : ∀ m ∈ l ++ n :: l', m < 32 := fun m hm => List.mem_range.mp (heq ▸ hm)
  obtain ⟨hstays, -⟩ := h.begins hn
  rw [heq, List.foldl_append, List.foldl_cons,
    State.dmaBegins_idle fun m hm => (halone m (hlt m (List.mem_append_left _ hm)) fun hmn => hl (hmn ▸ hm)).2]
  refine State.dmaBegins_idle fun m hm => ?_
  rw [hstays.chanEmpty]
  exact (halone m (hlt m (List.mem_append_right _ (.tail _ hm))) fun hmn => hl' (hmn ▸ hm)).2

theorem dmaDescriptor_copies (n : Fin 32) (h : chanReady s n.val) (halone : chanAlone s n.val) :
    let d := s.bytes (s.descAddr n.val) 32
    s.descCheck d = 0 → descSrcPort d = false → descDstPort d = false → dmaTarget (descSrc d) = 0 → dmaTarget (descDst d) = 0 →
    descLen d = 2 ^ descSw d → descDw d = descSw d → descSwap d = 0 → s.poisoned (descSrc d) (descLen d) = false →
    goesOn (exec (.dmaDescriptor n) s) fun t =>
      t.bytes (descDst d) (descLen d) = s.bytes (descSrc d) (descLen d) ∧ s.memSame t (descDst d) (descLen d) ∧
      (t.chanOf n.val).busy = true ∧ (t.chanOf n.val).done = true ∧ (t.chanOf n.val).err = 0 ∧
      (t.chanOf n.val).writes = (s.chanOf n.val).writes + 1 := by
  intro d hcheck hsp hdp hsrc hdst hlen hdw hswap hclean
  have hone : OneUnit d := ⟨hsp, hdp, hsrc, hdst, hlen, hdw, hswap⟩
  have hgo := chanGoes_of_ready h
  obtain ⟨hstays, hchan⟩ := hgo.begun n.isLt
  have hexec : exec (.dmaDescriptor n) s = .next (((List.range 32).foldl State.dmaBegin s).dmaTurns ((List.range 32).foldl State.dmaBegin s).dmaLeft
      (fun s => s.dmaReady n)) := by
    show Host.Outcome.next (s.dmaDescriptor n.val) = _
    rw [State.dmaDescriptor_eq h]
  refine ⟨_, hexec, ?_⟩
  have hothers : ∀ m, m < 32 → m ≠ n.val → (((List.range 32).foldl State.dmaBegin s).chanOf m).busy = false := fun m hm hne => by
    rw [hgo.begun_alone n.isLt halone, (s.dmaBegin_shows n.isLt).2 m hne]
    exact (halone m hm hne).1
  replace hchan : ((List.range 32).foldl State.dmaBegin s).chanOf n = freshChan d 0 (s.chanOf n).writes := by
    rw [hchan]
    show (freshChan d (s.descCheck d) _).settled = _
    rw [hcheck, freshChan_goes hone.len_pos]
  obtain ⟨-, -, -, -, hpower, -⟩ := h
  clear halone hcheck
  clear_value d
  generalize (List.range 32).foldl State.dmaBegin s = u at *
  have hpow : u.power ≠ pSTANDBY := by
    rw [State.power, hstays.get _ beginKeeps_of]
    exact hpower
  have hmemReady : u.on R.MEM_STAT_READY = true := (hstays.on beginKeeps_of).trans hgo.ready
  have hwait (a : Nat) : u.ddrWait a = false := by rw [State.ddrWait, hmemReady]; exact Bool.and_false _
  have hready : u.dmaReady n = true := by
    unfold State.dmaReady
    dsimp only
    rw [hchan, freshChan_busy, freshChan_done, freshChan_desc, hsp, hwait, hwait, decide_eq_true hpow, hdp]
    rfl
  obtain ⟨hdone, hmem⟩ := hone.turns n.isLt hchan ((hstays.poisoned _ _).trans hclean) hready fun m hm hne => State.not_ready_of_idle (hothers m hm hne)
  rw [State.bytes_of_mem hstays.mem] at hmem
  generalize u.dmaTurns u.dmaLeft (fun s => s.dmaReady n) = t at *
  have hlenBytes := State.bytes_length (s := s) (descSrc d) (descLen d)
  have hall : ∀ b ∈ s.bytes (descSrc d) (descLen d), b < 256 := fun b hb => State.bytes_lt hb
  generalize s.bytes (descSrc d) (descLen d) = bs at *
  rw [State.setBytes_mem] at hmem
  refine ⟨?_, ?_, by rw [hdone]; rfl, by rw [hdone]; rfl, by rw [hdone]; rfl, by rw [hdone]; rfl⟩
  · rw [State.bytes_of_mem hmem, ← hlenBytes, State.bytes_putBytes_same _ _ hall]
  · intro b hb
    rw [State.byte_of_mem hmem, State.byte_putBytes_other _ _ _ (by rw [hlenBytes]; exact hb), State.byte_of_mem hstays.mem]

/-- Settles O44: a channel alone with one unit is followed from its descriptor's reading to its delivery; each other command is a short chain of writes. -/
theorem dmaChannelsMoveData : Obligations.DmaChannelsMoveData := by
  unfold Obligations.DmaChannelsMoveData
  refine ⟨?_, ?_, ?_, ?_, ?_, ?_, ?_, ?_, ?_⟩
  · exact fun s => dmaTailWrite_takes
  · exact fun s => dmaDescriptor_refused
  · exact fun s => dmaDescriptor_copies
  · exact fun s n => dmaDone_completes n
  · exact fun s => dmaResume_skips
  · exact fun s => dmaDisable_stops
  · exact fun s => streamSend_sends
  · exact fun s => dmaFenceGo_waits
  · exact fun s => dmaFenceDone_ends

end Sys2Proof.Machine
end

/-! PROOFS. O45: how a command of the negative store begins and ends (R257, R258, R264). -/
section
-- One theorem after the other: the default proofs of the side conditions below are run by the elaborator, which waits for all that stands before.
set_option Elab.async false
namespace Sys2Proof.Machine

variable {s t u : State}

/-! ## The end of a command -/

/-- The fields that the progress of a compaction changes. -/
def progressFields : List Fld := [⟨R.CAL_BG_STAT_STARVED.reg, 2, 1⟩, R.NVS_STAT_STARVED]

/-- The fields that the end of a command changes. -/
def endFields : List Fld := progressFields ++ [R.NVS_CMD_STAT_BUSY, R.NVS_CMD_STAT_RESULT, R.NVS_CMD_STAT_COUNT] ++
  toldFields E.NVS_CMD_DONE ++ toldFields E.NVS_CMD_ERR

/-- The start of the activity is noted. -/
def State.progressNoted (s : State) : State := { s with cal := { s.cal with bgAt := mapIns s.cal.bgAt 2 s.runTime } }

theorem State.progressNoted_shows : s.progressNoted.nvs = s.nvs ∧ s.progressNoted.mem = s.mem ∧ ∀ g, s.progressNoted.get g = s.get g :=
  ⟨rfl, rfl, fun _ => rfl⟩

theorem State.bgProgress_two : s.bgProgress 2 = (s.progressNoted.put ⟨R.CAL_BG_STAT_STARVED.reg, 2, 1⟩ 0).put R.NVS_STAT_STARVED 0 := rfl

theorem State.bgProgress_store : (s.bgProgress 2).nvs = s.nvs ∧ (s.bgProgress 2).mem = s.mem ∧
    ∀ g : Fld, g.clear progressFields = true → (s.bgProgress 2).get g = s.get g := by
  obtain ⟨hnvs, hmem, hget⟩ := s.progressNoted_shows
  rw [State.bgProgress_two]
  generalize s.progressNoted = v at hnvs hmem hget ⊢
  refine ⟨by rw [State.put_nvs, State.put_nvs, hnvs], by rw [State.put_mem, State.put_mem, hmem], fun g hc => ?_⟩
  have hoff := Fld.clear_iff.mp hc
  rw [State.get_put_off _ (hoff _ (by decide)), State.get_put_off _ (hoff _ (by decide)), hget]

theorem State.compactResume_store : s.compactResume.nvs = s.nvs ∧ s.compactResume.mem = s.mem ∧
    ∀ g : Fld, g.clear progressFields = true → s.compactResume.get g = s.get g := by
  unfold State.compactResume
  split
  · exact s.bgProgress_store
  · exact ⟨rfl, rfl, fun _ _ => rfl⟩

/-- No command is in progress. -/
def State.jobless (s : State) : State := { s with nvs := { s.nvs with job := none } }

theorem State.jobless_shows : s.jobless.nvs = { s.nvs with job := none } ∧ s.jobless.mem = s.mem ∧ ∀ g, s.jobless.get g = s.get g :=
  ⟨rfl, rfl, fun _ => rfl⟩

/-- The event that tells the end of a command. -/
def endEvent (result : Nat) : Ev := if result = nvOK then E.NVS_CMD_DONE else E.NVS_CMD_ERR

theorem endEvent_mem (result : Nat) : toldFields (endEvent result) ⊆ endFields ∧ (endEvent result).bit < 32 ∧
    R.NVS_CMD_STAT_BUSY.clear (toldFields (endEvent result)) = true ∧ R.NVS_CMD_STAT_RESULT.clear (toldFields (endEvent result)) = true ∧
    R.NVS_CMD_STAT_COUNT.clear (toldFields (endEvent result)) = true := by
  unfold endEvent
  split
  · decide
  · decide

theorem State.nvsEnd_eq (result count : Nat) : s.nvsEnd result count =
    (((s.jobless.compactResume.put R.NVS_CMD_STAT_BUSY 0).put R.NVS_CMD_STAT_RESULT result).put R.NVS_CMD_STAT_COUNT count).raise (endEvent result) := rfl

/-- What the end of a command leaves: the store without the command, memory, and the fields beside its own. -/
theorem State.nvsEnd_shows {result count : Nat} (hres : result < 16) (hcount : count < 2 ^ 24) :
    storeEnds (s.nvsEnd result count) result count ∧ (s.nvsEnd result count).nvs = { s.nvs with job := none } ∧ (s.nvsEnd result count).mem = s.mem ∧
    ∀ g : Fld, g.clear endFields = true → (s.nvsEnd result count).get g = s.get g := by
  obtain ⟨hfree, hfreeMem, hfreeGet⟩ := s.jobless_shows
  rw [State.nvsEnd_eq]
  generalize s.jobless = v at hfree hfreeMem hfreeGet ⊢
  obtain ⟨hnvs, hmem, hget⟩ := v.compactResume_store
  generalize v.compactResume = w at hnvs hmem hget ⊢
  obtain ⟨htold, hbit, hbusy, hresult, hcnt⟩ := endEvent_mem result
  have hstore : ((((w.put R.NVS_CMD_STAT_BUSY 0).put R.NVS_CMD_STAT_RESULT result).put R.NVS_CMD_STAT_COUNT count).raise (endEvent result)).nvs =
      { s.nvs with job := none } := by
    rw [State.raise_nvs, State.put_nvs, State.put_nvs, State.put_nvs, hnvs, hfree]
  refine ⟨⟨by rw [hstore], ?_, ?_, ?_, ?_⟩, hstore, ?_, fun g hc => ?_⟩
  · rw [State.get_raise_clear hbusy, State.get_put_off _ (by decide), State.get_put_off _ (by decide), State.get_put_fits _ (by decide) (by decide)]
  · rw [State.get_raise_clear hresult, State.get_put_off _ (by decide), State.get_put_fits _ (by decide) hres]
  · rw [State.get_raise_clear hcnt, State.get_put_fits _ (by decide) hcount]
  · exact (told_raise _ hbit).1
  · rw [State.raise_mem, State.put_mem, State.put_mem, State.put_mem, hmem, hfreeMem]
  · have hoff := Fld.clear_iff.mp hc
    rw [State.get_raise_clear (Fld.clear_iff.mpr fun f hf => hoff f (htold hf)), State.get_put_off _ (hoff _ (by decide)),
      State.get_put_off _ (hoff _ (by decide)), State.get_put_off _ (hoff _ (by decide)),
      hget g (Fld.clear_iff.mpr fun f hf => hoff f (by revert f; decide)), hfreeGet]

/-! ## The GO -/

theorem State.nvsGo_busy {v : Word} {p : Programmed} (op : Nat) (hserved : s.served 0x022 = true) (hbusy : s.on R.NVS_CMD_STAT_BUSY = true) :
    s.nvsGo op v p = s.raise E.NVS_CMD_REFUSED := by
  unfold State.nvsGo
  rw [hserved, if_neg (by decide), if_pos hbusy]

/-- OP and KEEP_ORIGIN are written. -/
def State.goWritten (s : State) (op : Nat) (v : Word) : State := (s.put R.NVS_CMD_OP op).put R.NVS_CMD_KEEP_ORIGIN (bits v.toNat 4 1)

/-- The command is in progress. -/
def State.goBegun (s : State) (op : Nat) (v : Word) (p : Programmed) : State :=
  let s2 := (s.goWritten op v).put R.NVS_CMD_STAT_BUSY 1
  { s2 with nvs := { s2.nvs with job := some { op := op, args := (s.goWritten op v).nvsArgs, prog := p } } }

/-- The compaction that COMPACT asks for has begun. -/
def State.goCompacts (s : State) : State := { s.compactStart with nvs := { s.compactStart.nvs with compactJob := true } }

theorem State.nvsGo_eq {v : Word} {p : Programmed} (op : Nat) (hserved : s.served 0x022 = true) (hbusy : s.on R.NVS_CMD_STAT_BUSY = false) :
    s.nvsGo op v p = if (s.goWritten op v).power = pHOLDUP || (s.goWritten op v).power = pSTANDBY then (s.goWritten op v).nvsEnd nvHOLDUP 0
      else if !(s.goWritten op v).on R.NVS_STAT_READY then (s.goWritten op v).nvsEnd nvNOT_READY 0
      else if op = 3 then (s.goBegun op v p).goCompacts else s.goBegun op v p := by
  unfold State.nvsGo
  rw [hserved, hbusy]
  rfl

/-- The fields that a GO writes. -/
def goFields : List Fld := [R.NVS_CMD_OP, R.NVS_CMD_KEEP_ORIGIN]

theorem State.goWritten_shows {op : Nat} {v : Word} (hop : op < 16) : (s.goWritten op v).nvs = s.nvs ∧ (s.goWritten op v).mem = s.mem ∧
    (s.goWritten op v).get R.NVS_CMD_OP = op ∧ (s.goWritten op v).get R.NVS_CMD_KEEP_ORIGIN = bits v.toNat 4 1 ∧
    ∀ g : Fld, g.clear goFields = true → (s.goWritten op v).get g = s.get g := by
  unfold State.goWritten
  have hkeep : bits v.toNat 4 1 < 2 ^ 1 := Nat.mod_lt _ (by decide)
  refine ⟨by rw [State.put_nvs, State.put_nvs], by rw [State.put_mem, State.put_mem], ?_, ?_, fun g hc => ?_⟩
  · rw [State.get_put_off _ (by decide), State.get_put_fits _ (by decide) hop]
  · rw [State.get_put_fits _ (by decide) hkeep]
  · have hoff := Fld.clear_iff.mp hc
    rw [State.get_put_off _ (hoff _ (by decide)), State.get_put_off _ (hoff _ (by decide))]

/-- A command in progress takes its arguments from the registers at its GO. -/
theorem State.goWritten_args {op : Nat} {v : Word} (hop : op < 16) : (s.goWritten op v).nvsArgs = storeArgs s v := by
  obtain ⟨-, -, -, hkeep, hget⟩ := s.goWritten_shows (v := v) hop
  have hon : (s.goWritten op v).on R.NVS_CMD_KEEP_ORIGIN = bit v.toNat 4 := by
    rw [State.on, hkeep, bits, bit]
    have h2 : v.toNat / 2 ^ 4 % 2 ^ 1 < 2 := Nat.mod_lt _ (by decide)
    rw [Nat.pow_one] at h2 ⊢
    generalize v.toNat / 2 ^ 4 % 2 = x at h2 ⊢
    interval_cases x <;> rfl
  unfold storeArgs State.nvsArgs State.get64
  rw [hon]
  simp only [hget R.NVS_ADDR_LO_ADDR (by decide), hget R.NVS_ADDR_HI_ADDR (by decide), hget R.NVS_LEN_LO_LEN (by decide),
    hget R.NVS_LEN_HI_LEN (by decide), hget R.NVS_OBJ_ID_ID (by decide), hget R.NVS_OBJ_ARG_TYPE (by decide), hget R.NVS_OBJ_ARG_JOB_ID (by decide),
    hget R.NVS_USER_USER (by decide), hget R.NVS_ARG_LO_ARG (by decide), hget R.NVS_ARG_HI_ARG (by decide)]

theorem State.goBegun_goes {op : Nat} {v : Word} {p : Programmed} (hop : op < 16) : storeGoes s (s.goBegun op v p) op v p := by
  obtain ⟨hnvs, hmem, hopField, -, -⟩ := s.goWritten_shows (v := v) hop
  have hargs := s.goWritten_args (v := v) hop
  unfold State.goBegun
  generalize s.goWritten op v = w at hnvs hmem hopField hargs ⊢
  have hstore : (w.put R.NVS_CMD_STAT_BUSY 1).nvs = s.nvs := (State.put_nvs ..).trans hnvs
  have hbusy : (w.put R.NVS_CMD_STAT_BUSY 1).get R.NVS_CMD_STAT_BUSY = 1 := State.get_put_fits _ (by decide) (by decide)
  have hput : (w.put R.NVS_CMD_STAT_BUSY 1).get R.NVS_CMD_OP = op := (State.get_put_off 1 (by decide)).trans hopField
  have hbytes : (w.put R.NVS_CMD_STAT_BUSY 1).mem = s.mem := (State.put_mem ..).trans hmem
  dsimp only
  generalize w.put R.NVS_CMD_STAT_BUSY 1 = x at hstore hbusy hput hbytes ⊢
  exact ⟨by rw [hstore, hargs], hbusy, hput, fun a => State.byte_of_mem (t := { x with nvs := _ }) hbytes a⟩

theorem State.goWritten_power {op : Nat} {v : Word} (hop : op < 16) : (s.goWritten op v).power = s.power ∧
    (s.goWritten op v).on R.NVS_STAT_READY = s.on R.NVS_STAT_READY := by
  obtain ⟨-, -, -, -, hget⟩ := s.goWritten_shows (v := v) hop
  exact ⟨hget _ (by decide), State.on_of_get (hget _ (by decide))⟩

/-- A GO that the store takes has begun its command. -/
theorem State.nvsGo_takes {v : Word} {p : Programmed} {op : Nat} (hop : op < 16) (h : storeTakes s) :
    s.nvsGo op v p = if op = 3 then (s.goBegun op v p).goCompacts else s.goBegun op v p := by
  obtain ⟨hserved, hbusy, hhold, hstand, hready⟩ := h
  obtain ⟨hpower, hon⟩ := s.goWritten_power (v := v) hop
  rw [State.nvsGo_eq op hserved hbusy, hpower, hon, hready, if_neg (by simp [hhold, hstand]), if_neg (by decide)]

theorem State.nvsGo_goes {v : Word} {p : Programmed} {op : Nat} (hop : op < 16) (hne : op ≠ 3) (h : storeTakes s) : storeGoes s (s.nvsGo op v p) op v p := by
  rw [State.nvsGo_takes hop h, if_neg hne]
  exact State.goBegun_goes hop

/-- COMPACTING is shown. -/
def State.compactShown (s : State) : State := State.put { s with nvs := { s.nvs with compacting := true } } R.NVS_STAT_COMPACTING 1

theorem State.compactShown_shows : s.compactShown.nvs = { s.nvs with compacting := true } ∧ s.compactShown.mem = s.mem ∧
    s.compactShown.get R.NVS_STAT_COMPACTING = 1 ∧ (∀ g : Fld, g.off R.NVS_STAT_COMPACTING = true → s.compactShown.get g = s.get g) ∧
    s.regsSame s.compactShown [R.NVS_STAT_COMPACTING.reg] :=
  ⟨State.put_nvs .., State.put_mem .., State.get_put_fits _ (by decide) (by decide), fun _ hg => State.get_put_off _ hg,
    State.regsSame_put (s := { s with nvs := { s.nvs with compacting := true } }) 1 List.mem_cons_self⟩

theorem State.compactStart_eq : s.compactStart = s.compactShown.bgProgress 2 := rfl

theorem State.compactStart_shows : s.compactStart.nvs = { s.nvs with compacting := true } ∧ s.compactStart.mem = s.mem ∧
    s.compactStart.get R.NVS_STAT_COMPACTING = 1 ∧ s.compactStart.get R.NVS_CMD_STAT_BUSY = s.get R.NVS_CMD_STAT_BUSY := by
  obtain ⟨hnvs, hmem, hshown, hget, -⟩ := s.compactShown_shows
  rw [State.compactStart_eq]
  generalize s.compactShown = v at hnvs hmem hshown hget ⊢
  obtain ⟨hnvs', hmem', hget'⟩ := v.bgProgress_store
  exact ⟨hnvs'.trans hnvs, hmem'.trans hmem, (hget' _ (by decide)).trans hshown, (hget' _ (by decide)).trans (hget _ (by decide))⟩

/-- COMPACT begins its compaction and ends with it (R263). -/
theorem State.nvsGo_compacts {v : Word} {p : Programmed} (h : storeTakes s) : (s.nvsGo 3 v p).nvs.job.isSome = true ∧
    (s.nvsGo 3 v p).nvs.compacting = true ∧ (s.nvsGo 3 v p).nvs.compactJob = true ∧ (s.nvsGo 3 v p).get R.NVS_CMD_STAT_BUSY = 1 ∧
    (s.nvsGo 3 v p).get R.NVS_STAT_COMPACTING = 1 ∧ (s.nvsGo 3 v p).nvs.journal = s.nvs.journal ∧ (s.nvsGo 3 v p).nvs.cat = s.nvs.cat ∧
    ∀ a, (s.nvsGo 3 v p).byte a = s.byte a := by
  obtain ⟨hjob, hbusy, -, hbyte⟩ := s.goBegun_goes (op := 3) (v := v) (p := p) (by decide)
  rw [State.nvsGo_takes (by decide) h, if_pos rfl]
  generalize s.goBegun 3 v p = w at hjob hbusy hbyte ⊢
  obtain ⟨hnvs, hmem, hshown, hstat⟩ := w.compactStart_shows
  unfold State.goCompacts
  generalize w.compactStart = x at hnvs hmem hshown hstat ⊢
  refine ⟨?_, ?_, rfl, hstat.trans hbusy, hshown, ?_, ?_, fun a => (State.byte_of_mem (t := { x with nvs := _ }) hmem a).trans (hbyte a)⟩ <;>
    dsimp only <;> rw [hnvs, hjob]
  rfl

/-- A GO that the store cannot take ends at once (R257). -/
theorem State.nvsGo_ends {v : Word} {p : Programmed} {r : Nat} (hr : r < 16)
    (h : s.nvsGo 1 v p = (s.goWritten 1 v).nvsEnd r 0) :
    storeEnds (s.nvsGo 1 v p) r 0 ∧ (s.nvsGo 1 v p).nvs = { s.nvs with job := none } ∧ ∀ a, (s.nvsGo 1 v p).byte a = s.byte a := by
  obtain ⟨hnvs, hmem, -⟩ := s.goWritten_shows (op := 1) (v := v) (by decide)
  rw [h]
  generalize s.goWritten 1 v = w at hnvs hmem ⊢
  obtain ⟨hends, hstore, hbytes, -⟩ := w.nvsEnd_shows hr (show 0 < 2 ^ 24 by decide)
  exact ⟨hends, by rw [hstore, hnvs], State.byte_of_mem (hbytes.trans hmem)⟩

theorem State.nvsGo_held {v : Word} {p : Programmed} (hserved : s.served 0x022 = true) (hbusy : s.on R.NVS_CMD_STAT_BUSY = false)
    (h : s.power = pHOLDUP ∨ s.power = pSTANDBY) : s.nvsGo 1 v p = (s.goWritten 1 v).nvsEnd nvHOLDUP 0 := by
  rw [State.nvsGo_eq 1 hserved hbusy, (s.goWritten_power (by decide)).1, if_pos (by simpa using h)]

theorem State.nvsGo_unready {v : Word} {p : Programmed} (hserved : s.served 0x022 = true) (hbusy : s.on R.NVS_CMD_STAT_BUSY = false)
    (hhold : s.power ≠ pHOLDUP) (hstand : s.power ≠ pSTANDBY) (hready : s.on R.NVS_STAT_READY = false) :
    s.nvsGo 1 v p = (s.goWritten 1 v).nvsEnd nvNOT_READY 0 := by
  obtain ⟨hpower, hon⟩ := s.goWritten_power (op := 1) (v := v) (by decide)
  rw [State.nvsGo_eq 1 hserved hbusy, hpower, hon, hready, if_neg (by simp [hhold, hstand]), if_pos (by decide)]

end Sys2Proof.Machine
end

/-! PROOFS. O45: DELETE, EXPORT, ADOPT, FLUSH_RELEASE and the life record (R258, R262, R268, R270). -/
section
-- One theorem after the other: the default proofs of the side conditions below are run by the elaborator, which waits for all that stands before.
set_option Elab.async false
namespace Sys2Proof.Machine

variable {s t u : State} {j : NvsJob}

/-! ## Memory -/

theorem mapGet_memClear (m : List Host.Cell) (lo hi a : Nat) :
    mapGet memDefault (memClear m lo hi) a = if lo ≤ a ∧ a < hi then memDefault else mapGet memDefault m a := by
  have hfind := mapFind_filter (fun k => decide (k < lo ∨ hi ≤ k)) m a
  have hmem : memClear m lo hi = m.filter fun p => decide (p.1 < lo ∨ hi ≤ p.1) := rfl
  rw [mapGet, mapGet, hmem, hfind]
  by_cases h : lo ≤ a ∧ a < hi
  · rw [if_neg (by simpa using h), if_pos h]
    rfl
  · rw [if_pos (by simp only [decide_eq_true_eq]; omega), if_neg h]

/-- Only the low eight bits of a number are stored. -/
theorem State.putBytes_mod (a : Nat) (bs : List Nat) : s.putBytes a (bs.map (· % 256)) = s.putBytes a bs := by
  induction bs generalizing s a with
  | nil => rfl
  | cons b bs ih =>
    have hb : BitVec.ofNat 8 (b % 256) = BitVec.ofNat 8 b := BitVec.eq_of_toNat_eq (by simp)
    rw [List.map_cons, State.putBytes, State.putBytes, hb, ih]

theorem State.bytes_setBytes (a : Nat) (bs : List Nat) : (s.setBytes a bs).bytes a bs.length = bs.map (· % 256) := by
  have hsame := State.bytes_putBytes_same (s := s) a (bs := bs.map (· % 256)) fun b hb => by
    obtain ⟨x, -, rfl⟩ := List.mem_map.mp hb
    exact Nat.mod_lt x (by decide)
  rw [List.length_map, State.putBytes_mod] at hsame
  rw [State.bytes_of_byte (State.byte_of_mem (s.setBytes_mem a bs)), hsame]

theorem State.setBytes_nvs (a : Nat) (bs : List Nat) : (s.setBytes a bs).nvs = s.nvs := by
  obtain ⟨mem, h⟩ := s.putBytes_eq a bs
  unfold State.setBytes
  rw [h]

theorem State.setBytes_get (a : Nat) (bs : List Nat) (g : Fld) : (s.setBytes a bs).get g = s.get g := by
  rw [State.get, State.reg, (s.setBytes_frame a bs).1, State.get, State.reg]

/-! ## A record committed -/

theorem State.jCommit_nvs (type : Nat) (payload : List Nat) : (s.jCommit type payload).nvs = (s.jStore type payload).nvs := by
  rw [State.jCommit_eq, State.jShow_nvs]

theorem State.jStore_shows (type : Nat) (payload : List Nat) : (s.jStore type payload).nvs.journal = s.nvs.journal ++ [s.jRecord type payload] ∧
    (s.jStore type payload).nvs.seq = s.nvs.seq + 1 ∧ (s.jStore type payload).nvs.cat = s.nvs.cat ∧
    (s.jStore type payload).nvs.freed = s.nvs.freed ∧ (s.jStore type payload).nvs.compactJob = s.nvs.compactJob :=
  ⟨rfl, rfl, rfl, rfl, rfl⟩

theorem State.jRecord_shows (type : Nat) (payload : List Nat) : (s.jRecord type payload).type = type ∧ (s.jRecord type payload).seq = s.nvs.seq + 1 ∧
    (s.jRecord type payload).units = jUnits type := ⟨rfl, rfl, rfl⟩

theorem State.lifeStore_shows : s.lifeStore.nvs.journal = s.nvs.journal ∧ s.lifeStore.nvs.seq = s.nvs.seq ∧ s.lifeStore.nvs.cat = s.nvs.cat ∧
    s.lifeStore.nvs.compactJob = s.nvs.compactJob ∧ s.lifeStore.nvs.saved.hwm = s.tick.tickno + hwmAhead ∧ s.lifeStore.nvs.lastLifeTime = s.now :=
  ⟨rfl, rfl, rfl, rfl, rfl, rfl⟩

theorem State.lifeCommit_cat : s.lifeCommit.nvs.cat = s.nvs.cat := by
  rw [State.lifeCommit_eq, State.jCommit_nvs, (State.jStore_shows ..).2.2.1, s.lifeStore_shows.2.2.1]

theorem State.jEvent_cat (code : Nat) (detail : List Nat) : (s.jEvent code detail).nvs.cat = s.nvs.cat := by
  unfold State.jEvent
  split
  · rw [State.lifeCommit_cat, State.jCommit_nvs, (State.jStore_shows ..).2.2.1]
  · rfl

/-! ## The command done -/

theorem nvsCmdDone_eq {op : Nat} (h : storeBusy s j op) :
    exec .nvsCmdDone s = .next ((s.nvsRun j).1.nvsEnd (s.nvsRun j).2.1 (s.nvsRun j).2.2) := by
  obtain ⟨hjob, hcompact, -⟩ := h
  have hdone : s.nvsCmdDone = (s.nvsRun j).1.nvsEnd (s.nvsRun j).2.1 (s.nvsRun j).2.2 := by
    unfold State.nvsCmdDone
    rw [hjob]
    dsimp only
    rw [hcompact, if_neg Bool.false_ne_true]
  exact congrArg Host.Outcome.next hdone

/-- What a command in progress leaves, when it is done. -/
theorem nvsCmdDone_runs {op : Nat} {v : State} {r c : Nat} {P : State → Prop} (h : storeBusy s j op) (hrun : s.nvsRun j = (v, r, c))
    (hP : P (v.nvsEnd r c)) : goesOn (exec .nvsCmdDone s) P :=
  ⟨_, nvsCmdDone_eq h, by rw [hrun]; exact hP⟩

/-- A command that does nothing leaves the store and memory. -/
theorem nvsCmdDone_nothing {op r : Nat} (h : storeBusy s j op) (hrun : s.nvsRun j = (s, r, 0)) (hr : r < 16) : goesOn (exec .nvsCmdDone s) fun t =>
    storeEnds t r 0 ∧ t.nvs = { s.nvs with job := none } ∧ ∀ a, t.byte a = s.byte a := by
  obtain ⟨hends, hnvs, hmem, -⟩ := s.nvsEnd_shows hr (show 0 < 2 ^ 24 by decide)
  exact nvsCmdDone_runs h hrun ⟨hends, hnvs, State.byte_of_mem hmem⟩

/-- What the end of a command leaves of the store. -/
theorem nvsEnd_leaves (h : t.nvs = { s.nvs with job := none }) : t.nvs.cat = s.nvs.cat ∧ t.nvs.seq = s.nvs.seq ∧ t.nvs.journal = s.nvs.journal ∧
    t.nvs.adoptedFrom = s.nvs.adoptedFrom ∧ t.nvs.free = s.nvs.free ∧ t.nvs.worn = s.nvs.worn ∧ t.nvs.compacting = s.nvs.compacting := by
  rw [h]
  exact ⟨rfl, rfl, rfl, rfl, rfl, rfl, rfl⟩

theorem nvsRun_store (h : storeBusy s j 1) : s.nvsRun j = s.storeRun j.args j.prog := by
  rw [State.nvsRun, h.2.2, if_pos rfl]

theorem nvsRun_delete (h : storeBusy s j 2) : s.nvsRun j = s.deleteRun j.args := by
  rw [State.nvsRun, h.2.2, if_neg (by decide), if_pos rfl]

theorem nvsRun_export (h : storeBusy s j 4) : s.nvsRun j = s.exportRun j.args := by
  rw [State.nvsRun, h.2.2, if_neg (by decide), if_neg (by decide), if_pos rfl]

theorem nvsRun_adopt (h : storeBusy s j 5) : s.nvsRun j = s.adoptRun j.args := by
  rw [State.nvsRun, h.2.2, if_neg (by decide), if_neg (by decide), if_neg (by decide), if_pos rfl]

theorem nvsRun_release (h : storeBusy s j 6) : s.nvsRun j = s.releaseRun := by
  rw [State.nvsRun, h.2.2, if_neg (by decide), if_neg (by decide), if_neg (by decide), if_neg (by decide), if_pos rfl]


/-! ## DELETE -/

/-- The object's extent is freed and it leaves the catalogue. -/
def State.objectGone (s : State) (id : Nat) (o : CatEntry) : State :=
  { s with nvs := { s.nvs with
      cat := s.nvs.cat.filter (fun x => x.id ≠ id)
      freed := s.nvs.freed ++ [((o.base * 4096 + nvsBase - nvsObjects) / 0x400000, mbUnits o.size, s.now)] } }

theorem State.objectGone_shows (id : Nat) (o : CatEntry) : (s.objectGone id o).nvs.cat = s.nvs.cat.filter (fun x => x.id ≠ id) ∧
    (s.objectGone id o).nvs.seq = s.nvs.seq ∧ (s.objectGone id o).nvs.journal = s.nvs.journal ∧ (s.objectGone id o).mem = s.mem :=
  ⟨rfl, rfl, rfl, rfl⟩

theorem State.catClear_shows (slot : Nat) : (s.catClear slot).nvs = s.nvs ∧ s.memSame (s.catClear slot) (nvsCatalogue + 64 * slot) 64 := by
  refine ⟨rfl, fun b hb => ?_⟩
  show mapGet memDefault (memClear s.mem _ _) b = mapGet memDefault s.mem b
  rw [mapGet_memClear, if_neg (by omega)]

theorem State.deleteRun_found {a : NvsArgs} {o : CatEntry} (hid : a.id ≠ 0) (hroom : s.jFull = false) (ho : s.nvs.cat.find? (fun e => e.id = a.id) = some o) :
    s.deleteRun a = (((s.jCommit jOBJ_DELETE (leBytes 4 a.id)).objectGone a.id o).catClear o.slot, nvOK, 0) := by
  unfold State.deleteRun
  generalize State.jCommit = commit
  dsimp only
  rw [if_neg hid, hroom, if_neg Bool.false_ne_true, ho]
  rfl

theorem State.deleteRun_missing {a : NvsArgs} (hid : a.id ≠ 0) (hroom : s.jFull = false) (ho : s.nvs.cat.find? (fun e => e.id = a.id) = none) :
    s.deleteRun a = (s, nvNOT_FOUND, 0) := by
  unfold State.deleteRun
  dsimp only
  rw [if_neg hid, hroom, if_neg Bool.false_ne_true, ho]

theorem nvsCmdDone_deletes {o : CatEntry} (h : storeBusy s j 2) (hid : j.args.id ≠ 0) (hroom : s.jFull = false)
    (ho : s.nvs.cat.find? (fun e => e.id = j.args.id) = some o) : goesOn (exec .nvsCmdDone s) fun t =>
      storeEnds t 0 0 ∧ t.nvs.cat = s.nvs.cat.filter (fun x => x.id ≠ j.args.id) ∧ t.nvs.seq = s.nvs.seq + 1 ∧
      (∃ r, t.nvs.journal = s.nvs.journal ++ [r] ∧ r.type = jOBJ_DELETE ∧ r.seq = s.nvs.seq + 1) ∧
      s.memSame t (nvsCatalogue + 64 * o.slot) 64 := by
  refine nvsCmdDone_runs h ((nvsRun_delete h).trans (State.deleteRun_found hid hroom ho)) ?_
  obtain ⟨hjournal, hseq, hcat, -⟩ := s.jStore_shows jOBJ_DELETE (leBytes 4 j.args.id)
  obtain ⟨htype, hrseq, -⟩ := s.jRecord_shows jOBJ_DELETE (leBytes 4 j.args.id)
  rw [← State.jCommit_nvs] at hjournal hseq hcat
  have hmem := s.jCommit_mem jOBJ_DELETE (leBytes 4 j.args.id)
  generalize s.jCommit jOBJ_DELETE (leBytes 4 j.args.id) = w at hjournal hseq hcat hmem ⊢
  obtain ⟨hgone, hgoneSeq, hgoneJournal, hgoneMem⟩ := w.objectGone_shows j.args.id o
  generalize w.objectGone j.args.id o = x at hgone hgoneSeq hgoneJournal hgoneMem ⊢
  obtain ⟨hstore, hclear⟩ := x.catClear_shows o.slot
  generalize x.catClear o.slot = y at hstore hclear ⊢
  obtain ⟨hends, hnvs, hbytes, -⟩ := y.nvsEnd_shows (show nvOK < 16 by decide) (show 0 < 2 ^ 24 by decide)
  obtain ⟨hendCat, hendSeq, hendJournal, -⟩ := nvsEnd_leaves hnvs
  refine ⟨hends, ?_, ?_, ⟨_, ?_, htype, hrseq⟩, fun b hb => ?_⟩
  · rw [hendCat, hstore, hgone, hcat]
  · rw [hendSeq, hstore, hgoneSeq, hseq]
  · rw [hendJournal, hstore, hgoneJournal, hjournal]
  · rw [State.byte_of_mem hbytes, hclear b hb, State.byte_of_mem (hgoneMem.trans hmem)]

/-! ## EXPORT -/

theorem State.exportRun_eq {a : NvsArgs} (hlen : 0 < a.len) (hddr : a.addr + a.len ≤ ddrTop) : s.exportRun a =
    (s.setBytes a.addr (exportTo (s.nvs.journal.filter (fun r => r.type = jEVENT && a.arg ≤ r.seq)) a.len).1, nvOK,
      (exportTo (s.nvs.journal.filter (fun r => r.type = jEVENT && a.arg ≤ r.seq)) a.len).2) := by
  have hin : inDdr a.addr a.len = true := decide_eq_true hddr
  unfold State.exportRun
  dsimp only
  rw [hin, if_neg (by simp; omega)]

/-- COUNT shows the low 24 bits of the number of records. -/
theorem State.nvsEnd_count (count : Nat) : s.nvsEnd nvOK count = s.nvsEnd nvOK (count % 2 ^ 24) := by
  have hput (v : State) : v.put R.NVS_CMD_STAT_COUNT (count % 2 ^ 24) = v.put R.NVS_CMD_STAT_COUNT count := by
    have hw : R.NVS_CMD_STAT_COUNT.w = 24 := rfl
    unfold State.put insBits
    rw [hw, Nat.mod_mod]
  rw [State.nvsEnd_eq, State.nvsEnd_eq, hput]

theorem nvsCmdDone_exports (h : storeBusy s j 4) (hlen : 0 < j.args.len) (hddr : j.args.addr + j.args.len ≤ ddrTop) : goesOn (exec .nvsCmdDone s) fun t =>
      let out := exportTo (s.nvs.journal.filter (fun r => r.type = jEVENT && j.args.arg ≤ r.seq)) j.args.len
      storeEnds t 0 (out.2 % 2 ^ 24) ∧ t.nvs.journal = s.nvs.journal ∧ s.memSame t j.args.addr out.1.length ∧
      t.bytes j.args.addr out.1.length = out.1.map (· % 256) := by
  refine nvsCmdDone_runs h ((nvsRun_export h).trans (State.exportRun_eq hlen hddr)) ?_
  dsimp only
  generalize exportTo (s.nvs.journal.filter (fun r => r.type = jEVENT && j.args.arg ≤ r.seq)) j.args.len = out
  have hnvs := s.setBytes_nvs j.args.addr out.1
  have hbytes := s.bytes_setBytes j.args.addr out.1
  have hsame : s.memSame (s.setBytes j.args.addr out.1) j.args.addr out.1.length := s.memSame_putBytes _ _ (s.setBytes_mem ..)
  rw [State.nvsEnd_count]
  generalize s.setBytes j.args.addr out.1 = w at hnvs hbytes hsame ⊢
  obtain ⟨hends, hend, hmem, -⟩ := w.nvsEnd_shows (show nvOK < 16 by decide) (Nat.mod_lt out.2 (show 0 < 2 ^ 24 by decide))
  exact ⟨hends, by rw [hend, hnvs], fun b hb => (State.byte_of_mem hmem b).trans (hsame b hb),
    (State.bytes_of_byte (State.byte_of_mem hmem) _ _).trans hbytes⟩

/-! ## ADOPT -/

/-- ADOPTED_FROM is written. -/
def State.adoptNoted (s : State) (o : Nat) : State := { s with nvs := { s.nvs with adoptedFrom := o } }

theorem State.adoptNoted_shows (o : Nat) : (s.adoptNoted o).nvs.adoptedFrom = o ∧ (s.adoptNoted o).nvs.cat = s.nvs.cat ∧
    (s.adoptNoted o).nvs.journal = s.nvs.journal := ⟨rfl, rfl, rfl⟩

theorem State.identityStore_nvs : s.identityStore.nvs = s.nvs := State.setBytes_nvs ..

theorem State.adoptRun_eq {a : NvsArgs} (hroom : s.jFull = false) : ∃ p, s.adoptRun a =
    ((((s.jCommit jADOPT p).jEvent evADOPTED (leBytes 8 a.arg)).adoptNoted a.arg).identityStore, nvOK, 0) := by
  refine ⟨leBytes 8 a.arg ++ leBytes 4 (s.nvs.cat.filter (fun e => e.origin = a.arg)).length, ?_⟩
  unfold State.adoptRun
  generalize State.jCommit = commit
  generalize State.jEvent = event
  dsimp only
  rw [hroom, if_neg Bool.false_ne_true]
  rfl

theorem nvsCmdDone_adopts (h : storeBusy s j 5) (hroom : s.jFull = false) : goesOn (exec .nvsCmdDone s) fun t =>
    storeEnds t 0 0 ∧ t.nvs.adoptedFrom = j.args.arg ∧ t.nvs.cat = s.nvs.cat ∧
    (∃ r rest, t.nvs.journal = s.nvs.journal ++ r :: rest ∧ r.type = jADOPT) := by
  obtain ⟨p, hrun⟩ := State.adoptRun_eq (a := j.args) hroom
  refine nvsCmdDone_runs h ((nvsRun_adopt h).trans hrun) ?_
  obtain ⟨hjournal, -, hcat, -⟩ := s.jStore_shows jADOPT p
  obtain ⟨htype, -⟩ := s.jRecord_shows jADOPT p
  rw [← State.jCommit_nvs] at hjournal hcat
  generalize s.jCommit jADOPT p = w at hjournal hcat ⊢
  have hevent := w.jEvent_cat evADOPTED (leBytes 8 j.args.arg)
  obtain ⟨rest, hrest⟩ := (Stored.refl (s := w).jEvent (code := evADOPTED) (detail := leBytes 8 j.args.arg)).journal
  generalize w.jEvent evADOPTED (leBytes 8 j.args.arg) = x at hevent hrest ⊢
  obtain ⟨hfrom, hkept, hsame⟩ := x.adoptNoted_shows j.args.arg
  generalize x.adoptNoted j.args.arg = y at hfrom hkept hsame ⊢
  have hid := y.identityStore_nvs
  generalize y.identityStore = z at hid ⊢
  obtain ⟨hends, hnvs, -⟩ := z.nvsEnd_shows (show nvOK < 16 by decide) (show 0 < 2 ^ 24 by decide)
  obtain ⟨hendCat, -, hendJournal, hendFrom, -⟩ := nvsEnd_leaves hnvs
  refine ⟨hends, ?_, ?_, _, rest, ?_, htype⟩
  · rw [hendFrom, hid, hfrom]
  · rw [hendCat, hid, hkept, hevent, hcat]
  · rw [hendJournal, hid, hsame, ← hrest, hjournal, List.append_assoc, List.singleton_append]

/-! ## FLUSH_RELEASE -/

/-- The flush area is given up. -/
def State.flushReleased (s : State) : State := State.put { s with nvs := { s.nvs with flushSeq := none } } R.NVS_FLUSH_STAT_VALID 0

theorem State.flushReleased_shows : s.flushReleased.nvs.journal = s.nvs.journal ∧ s.flushReleased.get R.NVS_FLUSH_STAT_VALID = 0 ∧
    s.flushReleased.mem = s.mem :=
  ⟨by unfold State.flushReleased; rw [State.put_nvs], State.get_put_fits _ (by decide) (by decide), State.put_mem ..⟩

theorem nvsCmdDone_releases (h : storeBusy s j 6) : goesOn (exec .nvsCmdDone s) fun t =>
    storeEnds t 0 0 ∧ t.get R.NVS_FLUSH_STAT_VALID = 0 ∧ t.nvs.journal = s.nvs.journal ∧ ∀ a, t.byte a = s.byte a := by
  have hrun : s.releaseRun = (s.flushReleased, nvOK, 0) := rfl
  refine nvsCmdDone_runs h ((nvsRun_release h).trans hrun) ?_
  obtain ⟨hjournal, hvalid, hmem⟩ := s.flushReleased_shows
  generalize s.flushReleased = w at hjournal hvalid hmem ⊢
  obtain ⟨hends, hnvs, hbytes, hget⟩ := w.nvsEnd_shows (show nvOK < 16 by decide) (show 0 < 2 ^ 24 by decide)
  exact ⟨hends, (hget _ (by decide)).trans hvalid, by rw [hnvs, hjournal], State.byte_of_mem (hbytes.trans hmem)⟩

/-! ## The life record -/

/-- A LIFE record, with what follows where a step of TICKNO waits. -/
theorem State.ticknoPend_none (h : s.chain.pend = none) : (if s.tnoAtOnce then s.ticknoPend else s) = s := by
  have hsame : s.ticknoPend = s := by
    unfold State.ticknoPend
    rw [h]
  rw [hsame, ite_self]

theorem State.lifeCommit_chain : s.lifeCommit.chain = s.chain :=
  State.lifeCommit_of (f := State.chain) (fun _ _ _ => State.put_chain ..) (fun _ _ => State.raise_chain ..) (fun _ _ => rfl)

theorem lifeCommit_writes (u : Nat) (hup : s.nvsUp = true) (hdue : 600 * secClk ≤ max s.now u - s.nvs.lastLifeTime) (hpend : s.chain.pend = none) :
    goesOn (exec (.lifeCommit u) s) fun t => t.nvs.seq = s.nvs.seq + 1 ∧ t.nvs.saved.hwm = s.tick.tickno + 240000000 ∧
      t.nvs.lastLifeTime = max s.now u ∧ ∃ r, t.nvs.journal = s.nvs.journal ++ [r] ∧ r.type = jLIFE ∧ r.units = 3 := by
  have hready : (s.at u).nvsUp = true := hup
  have hlife : (s.at u).lifeDue = true := by
    have htime : decide (600 * secClk ≤ (s.at u).now - (s.at u).nvs.lastLifeTime) = true := decide_eq_true hdue
    rw [State.lifeDue, htime, Bool.true_or, Bool.true_or]
  have hnone : (s.at u).chain.pend = none := hpend
  have hexec : exec (.lifeCommit u) s = .next (s.at u).lifeCommit := by
    show execLifeCommit u s = _
    unfold execLifeCommit
    dsimp only
    rw [hready, hlife, if_pos (by decide), hnone]
    dsimp only
    rw [State.ticknoPend_none (by rw [State.lifeCommit_chain, hnone])]
  refine ⟨_, hexec, ?_⟩
  beta_reduce
  have hsame : (s.at u).nvs = s.nvs ∧ (s.at u).tick = s.tick ∧ (s.at u).now = max s.now u := ⟨rfl, rfl, rfl⟩
  obtain ⟨hnvs, htick, hnow⟩ := hsame
  generalize s.at u = v at hnvs htick hnow ⊢
  obtain ⟨hjournal, hseq, -, -, hhwm, htime⟩ := v.lifeStore_shows
  rw [State.lifeCommit_eq, State.jCommit_nvs]
  generalize v.lifeStore = w at hjournal hseq hhwm htime ⊢
  generalize lifeBlock w.nvs.life (w.nvs.seq + 1) = p
  obtain ⟨hrec, hnext, -⟩ := w.jStore_shows jLIFE p
  obtain ⟨htype, -, hunits⟩ := w.jRecord_shows jLIFE p
  have hkept : (w.jStore jLIFE p).nvs.saved = w.nvs.saved ∧ (w.jStore jLIFE p).nvs.lastLifeTime = w.nvs.lastLifeTime := ⟨rfl, rfl⟩
  exact ⟨by rw [hnext, hseq, hnvs], by rw [hkept.1, hhwm, htick]; rfl, by rw [hkept.2, htime, hnow], _, by rw [hrec, hjournal, hnvs], htype, hunits⟩

end Sys2Proof.Machine
end

/-! PROOFS. O45: compaction (R263, R264). -/
section
-- One theorem after the other: the default proofs of the side conditions below are run by the elaborator, which waits for all that stands before.
set_option Elab.async false
namespace Sys2Proof.Machine

variable {s t u : State} {L : List Nat}

/-! ## It begins -/

theorem State.bgProgress_regs : s.regsSame (s.bgProgress 2) [R.NVS_STAT_COMPACTING.reg, R.CAL_BG_STAT_STARVED.reg] := by
  have hnoted : s.regsSame s.progressNoted [R.NVS_STAT_COMPACTING.reg, R.CAL_BG_STAT_STARVED.reg] := .of_regs rfl
  rw [State.bgProgress_two]
  exact (hnoted.trans (State.regsSame_put 0 (by decide))).trans (State.regsSame_put 0 (by decide))

theorem compactionStart_begins (hup : s.nvsUp = true) (hpower : s.power = pRUN ∨ s.power = pIDLE) (hused : 1536 * 0x4000 < s.jUsed)
    (hcomp : s.nvs.compacting = false) (hjob : s.nvs.job = none) : goesOn (exec .compactionStart s) fun t =>
      t.nvs = { s.nvs with compacting := true } ∧ t.get R.NVS_STAT_COMPACTING = 1 ∧
      s.regsSame t [R.NVS_STAT_COMPACTING.reg, R.CAL_BG_STAT_STARVED.reg] := by
  have hexec : exec .compactionStart s = .next s.compactStart := by
    show execCompactionStart s = _
    unfold execCompactionStart
    rw [if_pos]
    rw [hup, hcomp, hjob, decide_eq_true hused]
    obtain h | h := hpower <;> rw [h] <;> decide
  refine ⟨_, hexec, ?_⟩
  obtain ⟨hnvs, -, hshown, -⟩ := s.compactStart_shows
  obtain ⟨-, -, -, -, hregs⟩ := s.compactShown_shows
  exact ⟨hnvs, hshown, (hregs.mono (by simp)).trans State.bgProgress_regs⟩

/-! ## It is done -/

/-- From s to t the journal, SEQ, COMPACT's command and the fields shown are the same. -/
structure JournalStays (s t : State) : Prop where
  journal : t.nvs.journal = s.nvs.journal
  seq : t.nvs.seq = s.nvs.seq
  job : t.nvs.compactJob = s.nvs.compactJob

theorem JournalStays.trans (h : JournalStays s t) (k : JournalStays t u) : JournalStays s u :=
  ⟨k.journal.trans h.journal, k.seq.trans h.seq, k.job.trans h.job⟩

theorem JournalStays.of_nvs (h : t.nvs = s.nvs) : JournalStays s t := ⟨by rw [h], by rw [h], by rw [h]⟩

/-- The place of the next event in the history. -/
def State.historyNext (s : State) : State := { s with nvs := { s.nvs with histPos := (s.nvs.histPos + 1) % 4096 } }

theorem State.historyNext_stays : JournalStays s s.historyNext := ⟨rfl, rfl, rfl⟩

theorem State.historyStore_stays : JournalStays s s.historyStore := by
  unfold State.historyStore
  refine List.foldlRecOn (motive := JournalStays s) _ _ (.of_nvs rfl) fun v hv r _ => hv.trans ?_
  exact v.historyNext_stays.trans (.of_nvs (State.setBytes_nvs ..))

/-- The events and the life block are in the header. -/
def State.headerStored (s : State) : State :=
  State.setBytes s.lifeCommit.historyStore (nvsBase + 0x1000) (lifeBlock s.lifeCommit.historyStore.nvs.saved s.lifeCommit.historyStore.nvs.seq)

theorem State.headerStored_shows : s.headerStored.nvs.seq = s.nvs.seq + 1 ∧ s.headerStored.nvs.compactJob = s.nvs.compactJob := by
  obtain ⟨-, hseq, -, hjob, -⟩ := s.lifeStore_shows
  have hcommit : s.lifeCommit.nvs.seq = s.nvs.seq + 1 ∧ s.lifeCommit.nvs.compactJob = s.nvs.compactJob := by
    rw [State.lifeCommit_eq, State.jCommit_nvs]
    generalize s.lifeStore = v at hseq hjob ⊢
    obtain ⟨-, hnext, -, -, hkept⟩ := v.jStore_shows jLIFE (lifeBlock v.nvs.life (v.nvs.seq + 1))
    exact ⟨by rw [hnext, hseq], by rw [hkept, hjob]⟩
  unfold State.headerStored
  generalize s.lifeCommit = v at hcommit ⊢
  have hstays := v.historyStore_stays.trans (.of_nvs (v.historyStore.setBytes_nvs (nvsBase + 0x1000) (lifeBlock v.historyStore.nvs.saved v.historyStore.nvs.seq)))
  exact ⟨hstays.seq.trans hcommit.1, hstays.job.trans hcommit.2⟩

/-- The journal holds what lies behind the new tail. -/
def State.journalCut (s : State) (tail : Nat) : State :=
  { s with nvs := { s.nvs with journal := s.nvs.journal.drop (s.nvs.journal.length - 1), tailUnit := tail, compacting := false } }

theorem State.journalCut_shows (tail : Nat) : (s.journalCut tail).nvs.journal = s.nvs.journal.drop (s.nvs.journal.length - 1) ∧
    (s.journalCut tail).nvs.seq = s.nvs.seq ∧ (s.journalCut tail).nvs.compactJob = s.nvs.compactJob ∧
    (s.journalCut tail).nvs.compacting = false := ⟨rfl, rfl, rfl, rfl⟩

/-- The new tail is in force and the compaction is no more shown. -/
def State.tailMoved (s : State) : State :=
  let tail := (s.headerStored.nvs.tailUnit + s.headerStored.jUsed) % jRegion
  let s3 := s.headerStored.jCommit jCHECKPOINT (leBytes 4 tail ++ leBytes 8 (s.headerStored.nvs.seq + 1))
  ((s3.journalCut tail).jShow.identityStore.put R.NVS_STAT_COMPACTING 0).bgProgress 2

theorem State.tailMoved_shows : s.tailMoved.nvs.compacting = false ∧ s.tailMoved.nvs.seq = s.nvs.seq + 2 ∧ s.tailMoved.get R.NVS_STAT_COMPACTING = 0 ∧
    (∃ r, s.tailMoved.nvs.journal = [r] ∧ r.type = jCHECKPOINT ∧ r.seq = s.nvs.seq + 2) ∧ s.tailMoved.nvs.compactJob = s.nvs.compactJob := by
  unfold State.tailMoved
  obtain ⟨hseq, hjob⟩ := s.headerStored_shows
  generalize s.headerStored = v at hseq hjob ⊢
  dsimp only
  generalize (v.nvs.tailUnit + v.jUsed) % jRegion = tail
  generalize leBytes 4 tail ++ leBytes 8 (v.nvs.seq + 1) = p
  obtain ⟨hjournal, hnext, -, -, hkept⟩ := v.jStore_shows jCHECKPOINT p
  obtain ⟨htype, hrseq, -⟩ := v.jRecord_shows jCHECKPOINT p
  rw [← State.jCommit_nvs] at hjournal hnext hkept
  generalize v.jCommit jCHECKPOINT p = w at hjournal hnext hkept ⊢
  generalize v.jRecord jCHECKPOINT p = r at hjournal htype hrseq
  obtain ⟨hcut, hcutSeq, hcutJob, hoff⟩ := w.journalCut_shows tail
  have hlast : w.nvs.journal.drop (w.nvs.journal.length - 1) = [r] := by simp [hjournal]
  generalize w.journalCut tail = x at hcut hcutSeq hcutJob hoff ⊢
  have hshow : x.jShow.identityStore.nvs = x.nvs := State.identityStore_nvs.trans State.jShow_nvs
  generalize x.jShow.identityStore = y at hshow ⊢
  have hput : (y.put R.NVS_STAT_COMPACTING 0).nvs = x.nvs := (State.put_nvs ..).trans hshow
  have hzero : (y.put R.NVS_STAT_COMPACTING 0).get R.NVS_STAT_COMPACTING = 0 := State.get_put_fits _ (by decide) (by decide)
  generalize y.put R.NVS_STAT_COMPACTING 0 = z at hput hzero ⊢
  obtain ⟨hnvs, -, hget⟩ := z.bgProgress_store
  rw [hnvs, hput]
  exact ⟨hoff, by rw [hcutSeq, hnext, hseq], (hget _ (by decide)).trans hzero, ⟨r, hcut.trans hlast, htype, by rw [hrseq, hseq]⟩, by rw [hcutJob, hkept, hjob]⟩

/-- COMPACT's command ends with its compaction. -/
def State.compactFreed (s : State) : State := { s with nvs := { s.nvs with compactJob := false } }

theorem State.compactFreed_shows : s.compactFreed.nvs.compacting = s.nvs.compacting ∧ s.compactFreed.nvs.seq = s.nvs.seq ∧
    s.compactFreed.nvs.journal = s.nvs.journal ∧ ∀ g, s.compactFreed.get g = s.get g := ⟨rfl, rfl, rfl, fun _ => rfl⟩

theorem State.compactionDone_eq (hcomp : s.nvs.compacting = true) (hup : s.nvsUp = true) (hhold : s.power ≠ pHOLDUP) (hstand : s.power ≠ pSTANDBY)
    (hfree : s.compactHeld = false) : s.compactionDone = if s.tailMoved.nvs.compactJob then s.tailMoved.compactFreed.nvsEnd nvOK 0 else s.tailMoved := by
  unfold State.compactionDone
  rw [if_neg (by simp [hcomp, hup, hhold, hstand, hfree])]
  unfold State.tailMoved State.compactFreed State.journalCut State.headerStored
  generalize s.lifeCommit.historyStore = v
  generalize State.jCommit = commit
  generalize State.jShow = shown
  generalize State.identityStore = stored
  generalize State.bgProgress = progress
  generalize State.nvsEnd = ended
  dsimp only

theorem compactionDone_ends (hcomp : s.nvs.compacting = true) (hup : s.nvsUp = true) (hhold : s.power ≠ pHOLDUP) (hstand : s.power ≠ pSTANDBY)
    (hread : s.stagingRead = false) (hjob : s.nvs.job = none ∨ s.nvs.compactJob = true) : goesOn (exec .compactionDone s) fun t =>
      t.nvs.compacting = false ∧ t.nvs.seq = s.nvs.seq + 2 ∧ t.get R.NVS_STAT_COMPACTING = 0 ∧
      (∃ r, t.nvs.journal = [r] ∧ r.type = jCHECKPOINT ∧ r.seq = s.nvs.seq + 2) ∧
      (s.nvs.compactJob = true → storeEnds t 0 0) := by
  have hfree : s.compactHeld = false := by
    rw [State.compactHeld, hread]
    obtain h | h := hjob <;> simp [h]
  have hexec : exec .compactionDone s = .next s.compactionDone := rfl
  refine ⟨_, hexec, ?_⟩
  rw [State.compactionDone_eq hcomp hup hhold hstand hfree]
  obtain ⟨hoff, hseq, hshown, hjournal, hkept⟩ := s.tailMoved_shows
  generalize s.tailMoved = v at hoff hseq hshown hjournal hkept ⊢
  split
  · obtain ⟨hcompF, hseqF, hjournalF, hgetF⟩ := v.compactFreed_shows
    generalize v.compactFreed = w at hcompF hseqF hjournalF hgetF ⊢
    obtain ⟨hends, hnvs, -, hget⟩ := w.nvsEnd_shows (show nvOK < 16 by decide) (show 0 < 2 ^ 24 by decide)
    obtain ⟨-, hendSeq, hendJournal, -, -, -, hendComp⟩ := nvsEnd_leaves hnvs
    rw [hendSeq, hendJournal, hendComp, hcompF, hseqF, hjournalF]
    exact ⟨hoff, hseq, ((hget _ (by decide)).trans (hgetF _)).trans hshown, hjournal, fun _ => hends⟩
  · next hno => exact ⟨hoff, hseq, hshown, hjournal, fun h => absurd (hkept.trans h) hno⟩

end Sys2Proof.Machine
end

/-! PROOFS. O45: ranges copied and spare blocks (R258, R269). -/
section
-- One theorem after the other: the default proofs of the side conditions below are run by the elaborator, which waits for all that stands before.
set_option Elab.async false
namespace Sys2Proof.Machine

variable {s t u : State} {j : NvsJob}

/-! ## A range copied -/

/-- The cells of a range, stored one after the other at their new place. -/
def State.cellsPut (s : State) (src dst n : Nat) (cells : List Host.Cell) : State :=
  (cells.filter (fun c => src ≤ c.1 && c.1 < src + n)).foldl (fun s c => s.setByte (c.1 - src + dst) c.2) s

theorem State.cellsPut_byte {lo : Option Nat} {cells : List Host.Cell} {i : Nat} (src dst n : Nat) (hwf : mapWfFrom (fun _ => memDefault) lo cells = true) (hi : i < n) :
    (s.cellsPut src dst n cells).byte (dst + i) = (mapFind cells (src + i)).getD (s.byte (dst + i)) := by
  induction cells generalizing s lo with
  | nil => rfl
  | cons c cells ih =>
    obtain ⟨k, v⟩ := c
    simp only [mapWfFrom, Bool.and_eq_true] at hwf
    obtain ⟨-, hrest⟩ := hwf
    by_cases hin : src ≤ k ∧ k < src + n
    · have hcons : s.cellsPut src dst n ((k, v) :: cells) = (s.setByte (k - src + dst) v).cellsPut src dst n cells := by
        rw [State.cellsPut, List.filter_cons_of_pos (by simpa using hin), List.foldl_cons, State.cellsPut]
      rw [hcons, ih hrest, mapFind]
      by_cases hk : k = src + i
      · have hplace : k - src + dst = dst + i := by omega
        rw [if_pos hk, hplace, State.byte_setByte_same, ← hk, mapFind_none_of_le hrest (Nat.le_refl k)]
        rfl
      · rw [if_neg hk, State.byte_setByte_other _ _ (by omega)]
    · have hcons : s.cellsPut src dst n ((k, v) :: cells) = s.cellsPut src dst n cells := by
        rw [State.cellsPut, List.filter_cons_of_neg (by simpa using hin), State.cellsPut]
      rw [hcons, ih hrest, mapFind, if_neg (by omega)]

theorem State.memCopy_byte {i : Nat} (src dst n : Nat) (hwf : Memory.wf s.mem = true) (hi : i < n) :
    (s.memCopy src dst n).byte (dst + i) = s.byte (src + i) := by
  have hcopy : s.memCopy src dst n = State.cellsPut { s with mem := memClear s.mem dst (dst + n) } src dst n s.mem := rfl
  have hclear : State.byte { s with mem := memClear s.mem dst (dst + n) } (dst + i) = memDefault :=
    (mapGet_memClear s.mem dst (dst + n) (dst + i)).trans (if_pos (by omega))
  rw [hcopy, State.cellsPut_byte src dst n hwf hi, hclear, State.byte, mapGet]

theorem State.bytes_of_range {a c n : Nat} (h : ∀ i, i < n → t.byte (a + i) = s.byte (c + i)) : t.bytes a n = s.bytes c n := by
  induction n generalizing a c with
  | zero => rfl
  | succ n ih =>
    have hfirst : t.byte a = s.byte c := h 0 (Nat.zero_lt_succ n)
    rw [State.bytes, State.bytes, hfirst, ih fun i hi => by
      have hnext := h (i + 1) (Nat.succ_lt_succ hi)
      rwa [show a + (i + 1) = a + 1 + i by omega, show c + (i + 1) = c + 1 + i by omega] at hnext]

theorem State.memCopy_nvs (src dst n : Nat) : (s.memCopy src dst n).nvs = s.nvs := by
  unfold State.memCopy
  refine List.foldlRecOn (motive := fun v : State => v.nvs = s.nvs) _ _ rfl fun v hv c _ => hv

/-! ## Wear -/

/-- What the spare blocks show. -/
def State.sparePut (s : State) (pct : Nat) : State :=
  (State.put { s with nvs := { s.nvs with spare := pct } } R.NVS_HEALTH_SPARE_PCT pct).put R.NVS_STAT_WEAR_LOW (boolNat (pct < 2))

theorem State.sparePut_shows {pct : Nat} (hpct : pct < 256) : (s.sparePut pct).nvs = { s.nvs with spare := pct } ∧ (s.sparePut pct).mem = s.mem ∧
    (s.sparePut pct).get R.NVS_HEALTH_SPARE_PCT = pct ∧ (s.sparePut pct).get R.NVS_STAT_WEAR_LOW = boolNat (pct < 2) := by
  unfold State.sparePut
  have hbool : boolNat (pct < 2) < 2 ^ 1 := by
    unfold boolNat
    split <;> decide
  refine ⟨by rw [State.put_nvs, State.put_nvs], by rw [State.put_mem, State.put_mem], ?_, State.get_put_fits _ (by decide) hbool⟩
  rw [State.get_put_off _ (by decide), State.get_put_fits _ (by decide) hpct]

/-- A WEAR event is told. -/
def State.wornNoted (s : State) : State := { s with nvs := { s.nvs with worn := true } }

theorem State.wornNoted_shows : s.wornNoted.nvs.worn = true ∧ s.wornNoted.nvs.cat = s.nvs.cat ∧ s.wornNoted.mem = s.mem ∧
    ∀ g, s.wornNoted.get g = s.get g := ⟨rfl, rfl, rfl, fun _ => rfl⟩

theorem State.jEvent_worn (code : Nat) (detail : List Nat) : (s.jEvent code detail).nvs.worn = s.nvs.worn := by
  have hcommit (v : State) (type : Nat) (p : List Nat) : (v.jCommit type p).nvs.worn = v.nvs.worn := by
    have hstore : (v.jStore type p).nvs.worn = v.nvs.worn := rfl
    rw [State.jCommit_nvs, hstore]
  have hlife (v : State) : v.lifeStore.nvs.worn = v.nvs.worn := rfl
  unfold State.jEvent
  split
  · rw [State.lifeCommit_eq, hcommit, hlife, hcommit]
  · rfl

theorem State.jEvent_mem (code : Nat) (detail : List Nat) : (s.jEvent code detail).mem = s.mem :=
  State.jEvent_of (f := State.mem) (fun _ _ _ => State.put_mem ..) (fun _ _ => State.raise_mem ..) (fun _ _ => rfl) code detail

theorem State.wearSet_eq (pct : Nat) : s.wearSet pct = if pct < 2 && !(s.sparePut pct).nvs.worn then
    ((s.sparePut pct).wornNoted.jEvent evWEAR []).raise E.NVS_WEAR else s.sparePut pct := rfl

theorem State.wearSet_shows {pct : Nat} (hpct : pct < 256) : (s.wearSet pct).get R.NVS_HEALTH_SPARE_PCT = pct ∧
    (s.wearSet pct).get R.NVS_STAT_WEAR_LOW = boolNat (pct < 2) ∧ (s.wearSet pct).nvs.cat = s.nvs.cat ∧ (s.wearSet pct).mem = s.mem ∧
    (2 ≤ pct → (s.wearSet pct).nvs.seq = s.nvs.seq) ∧
    (pct < 2 → s.nvs.worn = false → (s.wearSet pct).nvs.worn = true ∧ (s.wearSet pct).get (intRawBit E.NVS_WEAR) = 1) := by
  rw [State.wearSet_eq]
  obtain ⟨hnvs, hmem, hspare, hlow⟩ := s.sparePut_shows hpct
  generalize s.sparePut pct = v at hnvs hmem hspare hlow ⊢
  have hkept : v.nvs.cat = s.nvs.cat ∧ v.nvs.seq = s.nvs.seq ∧ v.nvs.worn = s.nvs.worn := by
    rw [hnvs]
    exact ⟨rfl, rfl, rfl⟩
  obtain ⟨hcat, hseq, hworn⟩ := hkept
  split
  · next htell =>
    have hlt : pct < 2 := by
      rw [Bool.and_eq_true, decide_eq_true_eq] at htell
      exact htell.1
    obtain ⟨hnoted, hnotedCat, hnotedMem, hnotedGet⟩ := v.wornNoted_shows
    generalize v.wornNoted = w at hnoted hnotedCat hnotedMem hnotedGet ⊢
    have hget {g : Fld} (hj : g.clear jFields = true) (hc : g.clear (toldFields E.NVS_WEAR) = true) :
        ((w.jEvent evWEAR []).raise E.NVS_WEAR).get g = v.get g :=
      (State.get_raise_clear hc).trans ((State.jEvent_get hj).trans (hnotedGet g))
    refine ⟨(hget (by decide) (by decide)).trans hspare, (hget (by decide) (by decide)).trans hlow, ?_, ?_, fun h => by omega, fun _ _ => ⟨?_, ?_⟩⟩
    · rw [State.raise_nvs, State.jEvent_cat, hnotedCat, hcat]
    · rw [State.raise_mem, State.jEvent_mem, hnotedMem, hmem]
    · rw [State.raise_nvs, State.jEvent_worn, hnoted]
    · exact (told_raise _ (by decide)).1
  · next htell =>
    refine ⟨hspare, hlow, hcat, hmem, fun _ => hseq, fun hlt hno => absurd ?_ htell⟩
    rw [hworn, hno, decide_eq_true hlt]
    rfl

end Sys2Proof.Machine
end

/-! PROOFS. O45: STORE (R258, R259), and the negative store as stated. -/
section
-- One theorem after the other: the default proofs of the side conditions below are run by the elaborator, which waits for all that stands before.
set_option Elab.async false
namespace Sys2Proof.Machine

variable {s t u : State} {j : NvsJob} {a : NvsArgs} {p : Programmed}

/-! ## The object stored -/

/-- The object's address. -/
def objectAt (b : Nat) : Nat := nvsObjects + b * 0x400000

/-- The catalogue entry of an object. -/
def State.storeEntry (s : State) (a : NvsArgs) (b sl : Nat) : CatEntry :=
  let origin := if a.keep then a.arg else s.serial
  { slot := sl, id := a.id, type := a.type, oflags := boolNat (origin ≠ s.serial), jobId := a.jobId, base := (objectAt b - nvsBase) / 4096,
    crc := crc32 (s.bytes a.addr a.len), size := a.len, created := s.tick.tickno, origin := origin, jseq := s.nvs.seq + 1, user := a.user }

/-- The object is in the catalogue, in the place of the one that it replaces. -/
def State.objectIn (s : State) (e : CatEntry) (id len : Nat) (free : List (Nat × Nat)) (old : Option CatEntry) : State :=
  let l := { s.nvs.life with nandBytes := s.nvs.life.nandBytes + len }
  let freed := match old with
    | some o => s.nvs.freed ++ [((o.base * 4096 + nvsBase - nvsObjects) / 0x400000, mbUnits o.size, s.now)]
    | none => s.nvs.freed
  { s with nvs := { s.nvs with cat := e :: s.nvs.cat.filter (fun x => x.id ≠ id), free := free, freed := freed, life := l } }

/-- The object is copied, its record committed, and its entry stored. -/
def State.objectStored (s : State) (a : NvsArgs) (b sl : Nat) (free : List (Nat × Nat)) (old : Option CatEntry) : State :=
  let e := s.storeEntry a b sl
  ((((s.memCopy a.addr (objectAt b) a.len).jCommit jOBJ_COMMIT e.bytes).objectIn e a.id a.len free old).catStore e).freeShow

/-- The range is read. -/
def State.sourceRead (s : State) (a : NvsArgs) : State := s.reclaim.ddrRead a.addr a.len

/-- The arguments of a STORE that is done: they name an object in DDR4, and journal, catalogue and store have room for it. -/
structure StoreFits (s : State) (a : NvsArgs) (b sl : Nat) (free : List (Nat × Nat)) : Prop where
  len : 0 < a.len
  id : a.id ≠ 0
  typeLo : 1 ≤ a.type
  typeHi : a.type ≤ 7
  ddr : a.addr + a.len ≤ ddrTop
  journal : s.jFull = false
  new : s.nvs.cat.find? (fun e => e.id = a.id) = none
  slot : freeSlot s.nvs.cat (min catSlots (s.nvs.cat.length + 1)) 0 = some sl
  room : takeFree s.reclaim.nvs.free (mbUnits a.len) = some (b, free)

theorem State.reclaim_shows : s.reclaim.nvs.cat = s.nvs.cat ∧ s.reclaim.nvs.seq = s.nvs.seq ∧ s.reclaim.nvs.spare = s.nvs.spare ∧
    s.reclaim.nvs.worn = s.nvs.worn ∧ s.reclaim.mem = s.mem ∧ (∀ x n, s.reclaim.poisoned x n = s.poisoned x n) :=
  ⟨rfl, rfl, rfl, rfl, rfl, fun _ _ => rfl⟩

theorem State.storeRun_bad (h : a.len = 0 ∨ a.id = 0 ∨ a.type = 0 ∨ 7 < a.type ∨ ddrTop < a.addr + a.len) : s.storeRun a p = (s, nvBAD_ARG, 0) := by
  have hbad : (a.len = 0 || a.id = 0 || a.type = 0 || 7 < a.type || !inDdr a.addr a.len) = true := by
    have hddr : inDdr a.addr a.len = true ↔ a.addr + a.len ≤ ddrTop := decide_eq_true_iff
    simp only [Bool.or_eq_true, decide_eq_true_eq, Bool.not_eq_true', ← Bool.not_eq_true, hddr]
    omega
  unfold State.storeRun
  dsimp only
  rw [if_pos hbad]

variable {b sl : Nat} {free : List (Nat × Nat)}

theorem StoreFits.storeRun (h : StoreFits s a b sl free) : s.storeRun a p =
    if s.reclaim.poisoned a.addr a.len then (s.sourceRead a, nvDDR_UE, 0)
    else if p.fails then ((s.sourceRead a).wearSet 0, nvMEDIA, 0)
    else (((s.sourceRead a).wearSet (min (s.sourceRead a).nvs.spare p.spare.toNat)).objectStored a b sl free none, nvOK, 0) := by
  have hgood : ¬(a.len = 0 || a.id = 0 || a.type = 0 || 7 < a.type || !inDdr a.addr a.len) = true := by
    have hddr : inDdr a.addr a.len = true := decide_eq_true h.ddr
    have hlen := h.len
    have hid := h.id
    have hlo := h.typeLo
    have hhi := h.typeHi
    simp [hddr]
    omega
  have hjournal := h.journal
  have hroom := h.room
  have hslot : (match s.reclaim.nvs.cat.find? (fun e => e.id = a.id) with
      | some e => some e.slot
      | none => freeSlot s.reclaim.nvs.cat (min catSlots (s.reclaim.nvs.cat.length + 1)) 0) = some sl := by
    rw [s.reclaim_shows.1, h.new]
    exact h.slot
  have hnew : s.reclaim.nvs.cat.find? (fun e => e.id = a.id) = none := by rw [s.reclaim_shows.1, h.new]
  rw [← hnew]
  unfold State.storeRun State.sourceRead State.objectStored State.storeEntry State.objectIn objectAt
  generalize s.reclaim = v at hslot hroom ⊢
  generalize State.jCommit = commit
  generalize State.ddrRead = read
  generalize State.wearSet = wear
  generalize State.memCopy = copy
  generalize State.catStore = store
  generalize State.freeShow = shown
  -- The journal's room and the search's length are numerals, which no proof by evaluation may count down.
  generalize s.jFull = full at hjournal ⊢
  generalize freeSlot = search at hslot ⊢
  generalize nvsObjects = objects
  generalize nvsBase = base
  dsimp only
  rw [if_neg hgood, hjournal, if_neg Bool.false_ne_true, hroom]
  split
  · next b' free' sl' hfits hfound =>
    obtain ⟨rfl, rfl⟩ : b = b' ∧ free = free' := by simpa using hfits
    obtain rfl : sl = sl' := Option.some.inj (hslot.symm.trans hfound)
    rfl
  · next hno => exact absurd hslot (hno b free sl rfl)

end Sys2Proof.Machine
end

/-! PROOFS. O45: what a STORE leaves (R258, R269), and the negative store as stated. -/
section
-- One theorem after the other: the default proofs of the side conditions below are run by the elaborator, which waits for all that stands before.
set_option Elab.async false
namespace Sys2Proof.Machine

variable {s t u : State} {j : NvsJob} {a : NvsArgs} {b sl : Nat} {free : List (Nat × Nat)}

/-! ## The source -/

theorem State.sourceRead_shows : (s.sourceRead a).nvs = s.reclaim.nvs ∧ (s.sourceRead a).mem = s.mem := by
  unfold State.sourceRead
  obtain ⟨-, -, -, -, hmem, -⟩ := s.reclaim_shows
  generalize s.reclaim = v at hmem ⊢
  obtain ⟨-, -, -, -, hnvs⟩ := v.ddrRead_only a.addr a.len
  exact ⟨hnvs, (v.ddrRead_mem a.addr a.len).trans hmem⟩

/-! ## The entry -/

theorem freeSlot_lt {cat : List CatEntry} {n i k : Nat} (h : freeSlot cat n i = some k) : k < i + n := by
  induction n generalizing i with
  | zero => cases h
  | succ n ih =>
    rw [freeSlot] at h
    split at h
    · have := ih h
      omega
    · obtain rfl := Option.some.inj h
      omega

theorem StoreFits.slot_lt (h : StoreFits s a b sl free) : sl < catSlots := by
  have hlt := freeSlot_lt h.slot
  omega

theorem CatEntry.bytes_fits (e : CatEntry) : e.bytes.length = 64 ∧ ∀ x ∈ e.bytes, x < 256 := by
  unfold CatEntry.bytes
  constructor
  · simp [leBytes_length]
  · intro x hx
    simp only [List.mem_append] at hx
    rcases hx with (((((((((((h | h) | h) | h) | h) | h) | h) | h) | h) | h) | h) | h) | h <;> exact leBytes_lt h

/-- What the catalogue says of an object stored. -/
theorem State.storeEntry_shows (v : State) (a : NvsArgs) (b sl : Nat) : (v.storeEntry a b sl).id = a.id ∧ (v.storeEntry a b sl).slot = sl ∧
    (v.storeEntry a b sl).size = a.len ∧ (v.storeEntry a b sl).jseq = v.nvs.seq + 1 ∧ (v.storeEntry a b sl).crc = crc32 (v.bytes a.addr a.len) ∧
    (v.storeEntry a b sl).base = (objectAt b - nvsBase) / 4096 := by
  unfold State.storeEntry
  generalize (objectAt b - nvsBase) / 4096 = base
  exact ⟨rfl, rfl, rfl, rfl, rfl, rfl⟩

theorem objectAt_base (b : Nat) : nvsBase + 4096 * ((objectAt b - nvsBase) / 4096) = objectAt b := by
  have hat : objectAt b = nvsBase + (0xC0000000 + b * 0x400000) := Nat.add_assoc ..
  rw [hat, Nat.add_sub_cancel_left]
  generalize nvsBase = base
  omega

/-! ## The object -/

theorem State.objectIn_shows (v : State) (e : CatEntry) (id len : Nat) : (v.objectIn e id len free none).nvs.cat = e :: v.nvs.cat.filter (fun x => x.id ≠ id) ∧
    (v.objectIn e id len free none).nvs.free = free ∧ (v.objectIn e id len free none).nvs.seq = v.nvs.seq ∧
    (v.objectIn e id len free none).nvs.worn = v.nvs.worn ∧ (v.objectIn e id len free none).mem = v.mem ∧
    (v.objectIn e id len free none).regs = v.regs := by
  unfold State.objectIn
  dsimp only
  exact ⟨rfl, rfl, rfl, rfl, rfl, rfl⟩

/-- The fields that a STORE changes. -/
def storeFields : List Fld := R.NVS_FREE_EXTENT :: jFields

/-- What a STORE that is done leaves. -/
structure ObjectStored (v t : State) (a : NvsArgs) (b sl : Nat) (free : List (Nat × Nat)) : Prop where
  cat : t.nvs.cat = v.storeEntry a b sl :: v.nvs.cat.filter (fun x => x.id ≠ a.id)
  free : t.nvs.free = free
  seq : t.nvs.seq = v.nvs.seq + 1
  worn : t.nvs.worn = v.nvs.worn
  fields : ∀ g : Fld, g.clear storeFields = true → t.get g = v.get g
  entry : t.bytes (nvsCatalogue + 64 * sl) 64 = (v.storeEntry a b sl).bytes
  rest : (v.memCopy a.addr (objectAt b) a.len).memSame t (nvsCatalogue + 64 * sl) 64

theorem State.objectStored_stored (v : State) (a : NvsArgs) (b sl : Nat) (free : List (Nat × Nat)) :
    ObjectStored v (v.objectStored a b sl free none) a b sl free := by
  obtain ⟨-, hslot, -⟩ := v.storeEntry_shows a b sl
  have hcopy := v.memCopy_nvs a.addr (objectAt b) a.len
  have hcopyGet (g : Fld) : (v.memCopy a.addr (objectAt b) a.len).get g = v.get g :=
    (State.memCopy_written (L := []) a.addr (objectAt b) a.len).get List.not_mem_nil
  unfold State.objectStored
  dsimp only
  generalize hentry : v.storeEntry a b sl = e at hslot ⊢
  subst hslot
  obtain ⟨hlen, hlt⟩ := e.bytes_fits
  generalize hcopied : v.memCopy a.addr (objectAt b) a.len = w at hcopy hcopyGet ⊢
  obtain ⟨-, hseq, hcat, -⟩ := w.jStore_shows jOBJ_COMMIT e.bytes
  have hworn : (w.jStore jOBJ_COMMIT e.bytes).nvs.worn = w.nvs.worn := rfl
  rw [← State.jCommit_nvs] at hseq hcat hworn
  have hmem := w.jCommit_mem jOBJ_COMMIT e.bytes
  have hget {g : Fld} (hc : g.clear jFields = true) : (w.jCommit jOBJ_COMMIT e.bytes).get g = w.get g := State.jCommit_get hc
  generalize w.jCommit jOBJ_COMMIT e.bytes = x at hseq hcat hworn hmem hget ⊢
  obtain ⟨hin, hfree, hinSeq, hinWorn, hinMem, hinRegs⟩ := x.objectIn_shows e a.id a.len (free := free)
  generalize x.objectIn e a.id a.len free none = y at hin hfree hinSeq hinWorn hinMem hinRegs ⊢
  have hinGet (g : Fld) : y.get g = x.get g := by rw [State.get, State.reg, hinRegs, State.get, State.reg]
  have hput : (y.catStore e).nvs = y.nvs := State.setBytes_nvs ..
  have hputGet (g : Fld) : (y.catStore e).get g = y.get g := State.setBytes_get ..
  have hputMem : (y.catStore e).mem = (w.setBytes (nvsCatalogue + 64 * e.slot) e.bytes).mem := State.setBytes_mem_of (hinMem.trans hmem) _ _
  generalize y.catStore e = z at hput hputGet hputMem ⊢
  have hshow : z.freeShow.nvs = z.nvs := State.put_nvs ..
  have hshowMem : z.freeShow.mem = (w.setBytes (nvsCatalogue + 64 * e.slot) e.bytes).mem := (State.put_mem ..).trans hputMem
  refine ⟨?_, ?_, ?_, ?_, fun g hc => ?_, ?_, ?_⟩
  · rw [hshow, hput, hin, hcat, hcopy, hentry]
  · rw [hshow, hput, hfree]
  · rw [hshow, hput, hinSeq, hseq, hcopy]
  · rw [hshow, hput, hinWorn, hworn, hcopy]
  · have hoff := Fld.clear_iff.mp hc
    have hj : g.clear jFields = true := Fld.clear_iff.mpr fun f hf => hoff f (List.mem_cons_of_mem _ hf)
    exact (State.get_put_off _ (hoff _ List.mem_cons_self)).trans ((hputGet g).trans ((hinGet g).trans ((hget hj).trans (hcopyGet g))))
  · rw [hentry, ← hlen, State.bytes_of_byte (State.byte_of_mem hshowMem), State.bytes_of_byte (State.byte_of_mem (w.setBytes_mem ..))]
    exact w.bytes_putBytes_same _ hlt
  · rw [hcopied, ← hlen]
    exact w.memSame_putBytes _ _ (hshowMem.trans (w.setBytes_mem ..))

/-- The copied bytes lie behind the catalogue. -/
theorem StoreFits.apart (h : StoreFits s a b sl free) (i : Nat) : nvsCatalogue + 64 * sl + 64 ≤ objectAt b + i := by
  have hlt := h.slot_lt
  have hcat : nvsCatalogue = nvsBase + 0x100000 := rfl
  have hat : objectAt b = nvsBase + (0xC0000000 + b * 0x400000) := Nat.add_assoc ..
  have hslots : catSlots = 16760832 := rfl
  rw [hcat, hat]
  rw [hslots] at hlt
  generalize nvsBase = base
  omega

/-! ## STORE -/

section
variable (h : storeBusy s j 1) (hfits : StoreFits s j.args b sl free)
include h hfits

theorem nvsCmdDone_poisoned (hpoison : s.poisoned j.args.addr j.args.len = true) : goesOn (exec .nvsCmdDone s) fun t =>
    storeEnds t 6 0 ∧ t.nvs.cat = s.nvs.cat ∧ t.nvs.seq = s.nvs.seq := by
  obtain ⟨hcat, hseq, -, -, -, hpois⟩ := s.reclaim_shows
  obtain ⟨hnvs, -⟩ := s.sourceRead_shows (a := j.args)
  have hrun : s.nvsRun j = (s.sourceRead j.args, nvDDR_UE, 0) := by
    rw [nvsRun_store h, hfits.storeRun, if_pos ((hpois _ _).trans hpoison)]
  refine nvsCmdDone_runs h hrun ?_
  generalize s.sourceRead j.args = v at hnvs ⊢
  obtain ⟨hends, hend, -⟩ := v.nvsEnd_shows (show nvDDR_UE < 16 by decide) (show 0 < 2 ^ 24 by decide)
  obtain ⟨hendCat, hendSeq, -⟩ := nvsEnd_leaves hend
  exact ⟨hends, by rw [hendCat, hnvs, hcat], by rw [hendSeq, hnvs, hseq]⟩

theorem nvsCmdDone_fails (hpoison : s.poisoned j.args.addr j.args.len = false) (hfails : j.prog.fails = true) : goesOn (exec .nvsCmdDone s) fun t =>
    storeEnds t 7 0 ∧ t.nvs.cat = s.nvs.cat ∧ t.get R.NVS_HEALTH_SPARE_PCT = 0 ∧ t.get R.NVS_STAT_WEAR_LOW = 1 := by
  obtain ⟨hcat, -, -, -, -, hpois⟩ := s.reclaim_shows
  obtain ⟨hnvs, -⟩ := s.sourceRead_shows (a := j.args)
  have hrun : s.nvsRun j = ((s.sourceRead j.args).wearSet 0, nvMEDIA, 0) := by
    rw [nvsRun_store h, hfits.storeRun, if_neg (by rw [hpois, hpoison]; decide), if_pos hfails]
  refine nvsCmdDone_runs h hrun ?_
  generalize s.sourceRead j.args = v at hnvs ⊢
  obtain ⟨hspare, hlow, hwornCat, -⟩ := v.wearSet_shows (show 0 < 256 by decide)
  generalize v.wearSet 0 = w at hspare hlow hwornCat ⊢
  obtain ⟨hends, hend, -, hget⟩ := w.nvsEnd_shows (show nvMEDIA < 16 by decide) (show 0 < 2 ^ 24 by decide)
  obtain ⟨hendCat, -⟩ := nvsEnd_leaves hend
  exact ⟨hends, by rw [hendCat, hwornCat, hnvs, hcat], (hget _ (by decide)).trans hspare, (hget _ (by decide)).trans hlow⟩

/-- What a STORE that is done shows of the spare blocks. -/
theorem nvsCmdDone_stores (hpoison : s.poisoned j.args.addr j.args.len = false) (hfails : j.prog.fails = false) {P : State → Prop}
    (hP : ∀ w x, w = (s.sourceRead j.args).wearSet (min s.nvs.spare j.prog.spare.toNat) → ObjectStored w x j.args b sl free → P (x.nvsEnd nvOK 0)) :
    goesOn (exec .nvsCmdDone s) P := by
  obtain ⟨-, -, hspare, -, -, hpois⟩ := s.reclaim_shows
  obtain ⟨hnvs, -⟩ := s.sourceRead_shows (a := j.args)
  have hleft : (s.sourceRead j.args).nvs.spare = s.nvs.spare := by rw [hnvs, hspare]
  have hrun := nvsRun_store h
  rw [hfits.storeRun, if_neg (by rw [hpois, hpoison]; decide), if_neg (by rw [hfails]; decide), hleft] at hrun
  exact nvsCmdDone_runs h hrun (hP _ _ rfl (State.objectStored_stored ..))

theorem nvsCmdDone_worn (hpoison : s.poisoned j.args.addr j.args.len = false) (hfails : j.prog.fails = false)
    (hlow : min s.nvs.spare j.prog.spare.toNat < 2) (hworn : s.nvs.worn = false) : goesOn (exec .nvsCmdDone s) fun t =>
      storeEnds t 0 0 ∧ t.get R.NVS_HEALTH_SPARE_PCT = min s.nvs.spare j.prog.spare.toNat ∧
      t.get R.NVS_STAT_WEAR_LOW = 1 ∧ t.nvs.worn = true ∧ t.get (intRawBit E.NVS_WEAR) = 1 := by
  refine nvsCmdDone_stores h hfits hpoison hfails fun w x hw hx => ?_
  obtain ⟨-, -, -, hkept, -⟩ := s.reclaim_shows
  obtain ⟨hnvs, -⟩ := s.sourceRead_shows (a := j.args)
  have hno : (s.sourceRead j.args).nvs.worn = false := by rw [hnvs, hkept, hworn]
  obtain ⟨hspare, hshown, -, -, -, htold⟩ := (s.sourceRead j.args).wearSet_shows (Nat.lt_trans hlow (show 2 < 256 by decide))
  rw [← hw] at hspare hshown htold
  obtain ⟨hwornNow, hraw⟩ := htold hlow hno
  obtain ⟨hends, hend, -, hget⟩ := x.nvsEnd_shows (show nvOK < 16 by decide) (show 0 < 2 ^ 24 by decide)
  obtain ⟨-, -, -, -, -, hendWorn, -⟩ := nvsEnd_leaves hend
  have hboth {g : Fld} (hg : g.clear endFields = true) (hs : g.clear storeFields = true) : (x.nvsEnd nvOK 0).get g = w.get g :=
    (hget g hg).trans (hx.fields g hs)
  refine ⟨hends, (hboth (by decide) (by decide)).trans hspare, ((hboth (by decide) (by decide)).trans hshown).trans ?_, ?_,
    (hboth (by decide) (by decide)).trans hraw⟩
  · rw [decide_eq_true hlow]
    rfl
  · rw [hendWorn, hx.worn, hwornNow]

theorem nvsCmdDone_stored (hpoison : s.poisoned j.args.addr j.args.len = false) (hfails : j.prog.fails = false)
    (hspares : 2 ≤ s.nvs.spare) (hprog : 2 ≤ j.prog.spare.toNat) : goesOn (exec .nvsCmdDone s) fun t =>
      storeEnds t 0 0 ∧ t.nvs.seq = s.nvs.seq + 1 ∧ t.nvs.free = free ∧
      t.get R.NVS_HEALTH_SPARE_PCT = min s.nvs.spare j.prog.spare.toNat ∧ t.get R.NVS_STAT_WEAR_LOW = 0 ∧
      ∃ e, t.nvs.cat = e :: s.nvs.cat.filter (fun x => x.id ≠ j.args.id) ∧ e.id = j.args.id ∧ e.slot = sl ∧ e.size = j.args.len ∧
        e.jseq = s.nvs.seq + 1 ∧ nvsBase + 4096 * e.base = nvsObjects + 0x400000 * b ∧ e.crc = crc32 (s.bytes j.args.addr j.args.len) ∧
        t.bytes (nvsCatalogue + 64 * sl) 64 = e.bytes ∧
        (Memory.wf s.mem = true → t.bytes (nvsBase + 4096 * e.base) j.args.len = s.bytes j.args.addr j.args.len) := by
  refine nvsCmdDone_stores h hfits hpoison hfails fun w x hw hx => ?_
  obtain ⟨hcat, hseq, -⟩ := s.reclaim_shows
  obtain ⟨hnvs, hmem⟩ := s.sourceRead_shows (a := j.args)
  have hlarge : 2 ≤ min s.nvs.spare j.prog.spare.toNat := by omega
  have hlt : min s.nvs.spare j.prog.spare.toNat < 256 := by
    have := j.prog.spare.isLt
    omega
  obtain ⟨hspare, hshown, hwornCat, hwornMem, hwornSeq, -⟩ := (s.sourceRead j.args).wearSet_shows hlt
  replace hwornSeq := hwornSeq hlarge
  rw [← hw] at hspare hshown hwornCat hwornMem hwornSeq
  rw [hnvs] at hwornCat hwornSeq
  have hsame : w.mem = s.mem := hwornMem.trans hmem
  obtain ⟨hends, hend, hendMem, hget⟩ := x.nvsEnd_shows (show nvOK < 16 by decide) (show 0 < 2 ^ 24 by decide)
  obtain ⟨hendCat, hendSeq, -, -, hendFree, -⟩ := nvsEnd_leaves hend
  have hboth {g : Fld} (hg : g.clear endFields = true) (hs : g.clear storeFields = true) : (x.nvsEnd nvOK 0).get g = w.get g :=
    (hget g hg).trans (hx.fields g hs)
  obtain ⟨hid, hslot, hsize, hjseq, hcrc, hbase⟩ := w.storeEntry_shows j.args b sl
  have hat : nvsBase + 4096 * (w.storeEntry j.args b sl).base = objectAt b := by rw [hbase, objectAt_base]
  refine ⟨hends, by rw [hendSeq, hx.seq, hwornSeq, hseq], by rw [hendFree, hx.free], (hboth (by decide) (by decide)).trans hspare,
    ((hboth (by decide) (by decide)).trans hshown).trans ?_, w.storeEntry j.args b sl, by rw [hendCat, hx.cat, hwornCat, hcat], hid, hslot, hsize,
    by rw [hjseq, hwornSeq, hseq], ?_, ?_, ?_, fun hwf => ?_⟩
  · rw [decide_eq_false (Nat.not_lt.mpr hlarge)]
    rfl
  · rw [hat, objectAt, Nat.mul_comm]
  · rw [hcrc, State.bytes_of_mem hsame]
  · rw [State.bytes_of_mem hendMem, hx.entry]
  · rw [hat, State.bytes_of_mem hendMem]
    refine State.bytes_of_range fun i hi => ?_
    rw [hx.rest _ (.inr (hfits.apart i)), State.memCopy_byte _ _ _ (by rw [hsame]; exact hwf) hi, State.byte_of_mem hsame]

end

/-! ## The negative store as stated -/

/-- Settles O45, command by command: what each leaves of the store, and the end that every command has in common. -/
theorem storeCommandsRunAndEnd : Obligations.StoreCommandsRunAndEnd := by
  unfold Obligations.StoreCommandsRunAndEnd
  refine ⟨?_, ?_, ?_, ?_, ?_, ?_, ?_, ?_, ?_, ?_, ?_, ?_⟩
  · intro s v p hserved hbusy
    have hexec : exec (.nvsStore v p) s = .next (s.raise E.NVS_CMD_REFUSED) := congrArg Host.Outcome.next (State.nvsGo_busy 1 hserved hbusy)
    exact ⟨_, hexec, told_raise_only s (by decide)⟩
  · intro s v p hserved hbusy
    have hexec : exec (.nvsStore v p) s = .next (s.nvsGo 1 v p) := rfl
    exact ⟨fun h => ⟨_, hexec, State.nvsGo_ends (by decide) (State.nvsGo_held hserved hbusy h)⟩,
      fun hhold hstand hready => ⟨_, hexec, State.nvsGo_ends (by decide) (State.nvsGo_unready hserved hbusy hhold hstand hready)⟩⟩
  · intro s v p h
    have hcompact : exec (.nvsCompact v) s = .next (s.nvsGo 3 v s.progPlain) := rfl
    exact ⟨⟨_, rfl, State.nvsGo_goes (by decide) (by decide) h⟩, ⟨_, rfl, State.nvsGo_goes (by decide) (by decide) h⟩,
      ⟨_, rfl, State.nvsGo_goes (by decide) (by decide) h⟩, ⟨_, rfl, State.nvsGo_goes (by decide) (by decide) h⟩,
      ⟨_, rfl, State.nvsGo_goes (by decide) (by decide) h⟩, _, hcompact, State.nvsGo_compacts h⟩
  · intro s j h _ hbad
    obtain ⟨t, hexec, hends, hnvs, -⟩ := nvsCmdDone_nothing h ((nvsRun_store h).trans (State.storeRun_bad hbad)) (by decide)
    exact ⟨t, hexec, hends, hnvs⟩
  · intro s j b sl free h _ hlen hid hlo hhi hddr hroom hnew hslot hfree
    have hfits : StoreFits s j.args b sl free := ⟨hlen, hid, hlo, hhi, hddr, hroom, hnew, hslot, hfree⟩
    exact ⟨nvsCmdDone_poisoned h hfits, nvsCmdDone_fails h hfits, nvsCmdDone_worn h hfits, nvsCmdDone_stored h hfits⟩
  · intro s j h hid hroom
    exact ⟨fun o ho => nvsCmdDone_deletes h hid hroom ho,
      fun ho => nvsCmdDone_nothing h ((nvsRun_delete h).trans (State.deleteRun_missing hid hroom ho)) (by decide)⟩
  · exact fun s hup hpower hused hcomp hjob => compactionStart_begins hup hpower hused hcomp hjob
  · exact fun s hcomp hup hhold hstand hread hjob => compactionDone_ends hcomp hup hhold hstand hread hjob
  · exact fun s j h hlen hddr => nvsCmdDone_exports h hlen hddr
  · exact fun s j h hroom => nvsCmdDone_adopts h hroom
  · exact fun s j h => nvsCmdDone_releases h
  · exact fun s u hup hdue hpend => lifeCommit_writes u hup hdue hpend

end Sys2Proof.Machine
end

/-! PROOFS. O9: what a boundary leaves of time, commits that wait, TICKNO and the flush steps (R101, R362, R414). -/
section
-- One theorem after the other: the default proofs of the side conditions below are run by the elaborator, which waits for all that stands before.
set_option Elab.async false
namespace Sys2Proof.Machine

variable {s t u : State}

/-- Time, the registers and commits that wait for a boundary, TICKNO and a step of it that waits, and the flush steps that are due. -/
structure Pulse where
  now : Nat
  commit : List Nat
  next : List Nat
  frozen : SMap Word
  tickno : Nat
  flush : Nat
  pend : Option Nat

def State.pulse (s : State) : Pulse := ⟨s.now, s.commitPend, s.nextPend, s.frozen, s.tick.tickno, s.tick.flushLeft, s.chain.pend⟩

/-! ## Registers, events and what is sent -/

@[simp] theorem State.put_pulse (f : Fld) (v : Nat) : (s.put f v).pulse = s.pulse := rfl
@[simp] theorem State.put64_pulse (lo hi : Fld) (v : Nat) : (s.put64 lo hi v).pulse = s.pulse := rfl
@[simp] theorem State.bumpBy_pulse (f : Fld) (n : Nat) : (s.bumpBy f n).pulse = s.pulse := rfl
@[simp] theorem State.bump_pulse (f : Fld) : (s.bump f).pulse = s.pulse := rfl
@[simp] theorem State.setAct_pulse (a : Nat) (v : Word) : (s.setAct a v).pulse = s.pulse := rfl
@[simp] theorem State.takeFrozen_pulse (sel : Nat → Bool) : (s.takeFrozen sel).pulse = s.pulse := rfl
@[simp] theorem State.setCtx_pulse (m : Nat) (x : MemCtx) : (s.setCtx m x).pulse = s.pulse := rfl
@[simp] theorem State.setConv_pulse (k : Nat) (c : Conv) : (s.setConv k c).pulse = s.pulse := rfl
@[simp] theorem State.setSpare_pulse (b sh : Nat) (x : Spare) : (s.setSpare b sh x).pulse = s.pulse := rfl
@[simp] theorem State.setLamp_pulse (l : Lamp) : (s.setLamp l).pulse = s.pulse := rfl
@[simp] theorem State.setLine_pulse (n : Nat) (f : Line → Line) : (s.setLine n f).pulse = s.pulse := rfl
@[simp] theorem State.setEngine_pulse (sh : Nat) (e : Engine) : (s.setEngine sh e).pulse = s.pulse := rfl
@[simp] theorem State.sendBlock_pulse (p : Nat) (bs : List Nat) : (s.sendBlock p bs).pulse = s.pulse := rfl

theorem State.cal_pulse (c : Calib) : State.pulse { s with cal := c } = s.pulse := rfl
theorem State.eng_pulse (e : SMap Engine) : State.pulse { s with eng := e } = s.pulse := rfl
theorem State.rdo_pulse (r : Readout) : State.pulse { s with rdo := r } = s.pulse := rfl
theorem State.job_pulse (j : Jobs) : State.pulse { s with job := j } = s.pulse := rfl
theorem State.dev_pulse (d : Developer) : State.pulse { s with dev := d } = s.pulse := rfl
theorem State.lines_pulse (l : List Line) : State.pulse { s with lines := l } = s.pulse := rfl
theorem State.evtQ_pulse (q : List Event) : State.pulse { s with evtQ := q } = s.pulse := rfl
theorem State.linesRec_pulse (l : List Line) (r : RecWriter) : State.pulse { s with lines := l, rec_ := r } = s.pulse := rfl

theorem State.tick_pulse {g : TickGen} (hno : g.tickno = s.tick.tickno) (hflush : g.flushLeft = s.tick.flushLeft) :
    State.pulse { s with tick := g } = s.pulse := by simp only [State.pulse, hno, hflush]

theorem State.setChain_pulse {c : Chain} (hpend : c.pend = s.chain.pend) : (s.setChain c).pulse = s.pulse := by
  simp only [State.pulse, State.setChain, hpend]

@[simp] theorem State.raiseBy_pulse (e : Ev) (n : Nat) : (s.raiseBy e n).pulse = s.pulse := by
  obtain ⟨r, y, m, h⟩ := s.raiseBy_eq e n
  rw [h]
  rfl

@[simp] theorem State.raise_pulse (e : Ev) : (s.raise e).pulse = s.pulse := State.raiseBy_pulse e 1

theorem State.ite_pulse {c : Prop} [Decidable c] (h : t.pulse = s.pulse) (k : u.pulse = s.pulse) : (if c then t else u).pulse = s.pulse := by
  split
  · exact h
  · exact k

theorem State.foldl_pulse {α : Type} {f : State → α → State} (hf : ∀ v x, (f v x).pulse = v.pulse) (xs : List α) (v : State) : (xs.foldl f v).pulse = v.pulse :=
  List.foldlRecOn (motive := fun w => w.pulse = v.pulse) xs f rfl fun w hw x _ => (hf w x).trans hw

theorem Written.pulse {L : List Nat} (h : Written s t L) : t.pulse = s.pulse := by
  obtain ⟨-, regs, mem, poison, memctl, sys, mb, freeIdx, rfl⟩ := h
  rfl

theorem State.event_pulse (code source : Nat) (detail : List Nat) : (s.event code source detail).pulse = s.pulse := by
  unfold State.event State.eventOn
  dsimp only
  exact State.ite_pulse (State.evtQ_pulse _) ((State.raise_pulse _).trans (State.evtQ_pulse _))

/-! ## Fallback -/

theorem State.sendToken_pulse (flags hops tno ct tpred : Nat) : (s.sendToken flags hops tno ct tpred).pulse = s.pulse := by
  unfold State.sendToken
  dsimp only
  rw [State.sendBlock_pulse, State.sendBlock_pulse]

theorem State.pushTick_pulse (d : DerTick) : (s.pushTick d).pulse = s.pulse := by
  unfold State.pushTick
  dsimp only
  refine State.ite_pulse rfl (State.ite_pulse (State.tick_pulse rfl rfl) ?_)
  rw [State.foldl_pulse fun _ _ => State.sendToken_pulse .., State.sendToken_pulse]
  exact State.tick_pulse rfl rfl

theorem State.setTpred_pulse (f : Frac) : (s.setTpred f).pulse = s.pulse := by
  unfold State.setTpred
  rw [State.put_pulse]
  exact State.tick_pulse rfl rfl

theorem State.divTpred_pulse : s.divTpred.pulse = s.pulse := by
  unfold State.divTpred
  split
  · rfl
  split
  · rfl
  · exact State.setTpred_pulse _

theorem State.fallbackTicks_pulse (n : Nat) : (State.fallbackTicks n s).pulse = s.pulse := by
  induction n generalizing s with
  | zero => rfl
  | succ n ih =>
    unfold State.fallbackTicks
    dsimp only
    refine State.ite_pulse ?_ rfl
    exact ih.trans ((State.tick_pulse rfl rfl).trans (State.pushTick_pulse _))

theorem State.rePredict_pulse : s.rePredict.pulse = s.pulse := State.tick_pulse rfl rfl

theorem State.enterFallback_pulse (n : Nat) : (s.enterFallback n).pulse = s.pulse := by
  unfold State.enterFallback State.chainEvent
  dsimp only
  rw [State.event_pulse, State.rePredict_pulse, State.fallbackTicks_pulse, State.divTpred_pulse, State.raise_pulse, State.put64_pulse,
    State.put_pulse, State.put_pulse]

theorem State.fallbackGo_pulse : s.fallbackGo.pulse = s.pulse := State.ite_pulse (State.enterFallback_pulse _) rfl

/-! ## Commits and values in force -/

theorem State.ctxDrop_pulse (m n : Nat) : (s.ctxDrop m n).pulse = s.pulse := by
  unfold State.ctxDrop
  dsimp only
  rw [State.raiseBy_pulse, State.bumpBy_pulse, State.setCtx_pulse]

theorem State.ctxShow_pulse (m : Nat) : (s.ctxShow m).pulse = s.pulse := by
  unfold State.ctxShow
  dsimp only
  rw [State.put_pulse, State.put_pulse, State.put_pulse]

theorem State.ctxDiscard_pulse (m : Nat) : (s.ctxDiscard m).pulse = s.pulse := by
  unfold State.ctxDiscard
  dsimp only
  rw [State.ctxShow_pulse, State.ctxDrop_pulse, State.setCtx_pulse]

theorem State.bwShowOne_pulse (x : Nat) : (s.bwShowOne x).pulse = s.pulse := by
  unfold State.bwShowOne
  dsimp only
  refine State.ite_pulse ?_ ?_
  · rw [State.raise_pulse, State.put_pulse, State.put_pulse]
  · rw [State.put_pulse, State.put_pulse]

theorem State.bwShow_pulse : s.bwShow.pulse = s.pulse := (State.bwShowOne_pulse 1).trans (State.bwShowOne_pulse 0)

theorem State.devCommit_pulse : s.devCommit.pulse = s.pulse := by
  unfold State.devCommit
  dsimp only
  rw [State.bwShow_pulse, State.raiseBy_pulse, State.foldl_pulse fun v m => v.ctxDiscard_pulse m, State.takeFrozen_pulse]

theorem State.pageApply_pulse (page : Nat) : (s.pageApply page).pulse = s.pulse := by
  unfold State.pageApply
  dsimp only
  refine State.ite_pulse (State.ite_pulse ?_ ?_) (State.ite_pulse (State.ite_pulse ?_ ?_) (State.ite_pulse State.devCommit_pulse ?_))
  · rw [State.takeFrozen_pulse, State.put_pulse]
  · rw [State.put_pulse]
  · rw [State.raise_pulse]
  · rw [State.rePredict_pulse, State.takeFrozen_pulse]
  · rw [State.takeFrozen_pulse]

/-- No commit waits. -/
def State.committed (s : State) : State := { s with commitPend := [], frozen := [] }

theorem State.committed_pulse : s.committed.pulse = { s.pulse with commit := [], frozen := [] } := rfl

theorem State.commitsApply_pulse : s.commitsApply.pulse = { s.pulse with commit := [], frozen := [] } := by
  have heq : s.commitsApply = (s.commitPend.foldl State.pageApply s).committed := rfl
  rw [heq, State.committed_pulse, State.foldl_pulse fun v p => v.pageApply_pulse p]

theorem State.takeNext_pulse (a : Nat) : (s.takeNext a).pulse = { s.pulse with next := setDel s.nextPend a } := rfl

theorem State.takesNext_pulse (as : List Nat) : ∃ next, (as.foldl State.takeNext s).pulse = { s.pulse with next := next } ∧
    ∀ a ∈ next, a ∈ s.nextPend ∧ a ∉ as := by
  induction as generalizing s with
  | nil => exact ⟨s.nextPend, rfl, fun a ha => ⟨ha, List.not_mem_nil⟩⟩
  | cons x as ih =>
    obtain ⟨next, heq, hnext⟩ := ih (s := s.takeNext x)
    refine ⟨next, by rw [List.foldl_cons, heq, State.takeNext_pulse], fun a ha => ?_⟩
    obtain ⟨hmem, hnot⟩ := hnext a ha
    have hdel : a ∈ setDel s.nextPend x := hmem
    simp only [setDel, List.mem_filter, decide_eq_true_eq] at hdel
    exact ⟨hdel.1, by simp [hdel.2, hnot]⟩

/-- Every register that waited is in force. -/
theorem State.nextTaken_pulse : (s.nextPend.foldl State.takeNext s).pulse = { s.pulse with next := [] } := by
  obtain ⟨next, heq, hnext⟩ := State.takesNext_pulse (s := s) s.nextPend
  have hnil : next = [] := List.eq_nil_iff_forall_not_mem.mpr fun a ha => (hnext a ha).2 (hnext a ha).1
  rw [heq, hnil]

theorem State.sourceForce_pulse (der : Nat) : (s.sourceForce der).pulse = s.pulse := by
  unfold State.sourceForce
  dsimp only
  refine State.ite_pulse ?_ ?_
  · rw [State.put_pulse, State.put_pulse]
    exact State.tick_pulse rfl rfl
  · rw [State.put_pulse, State.put_pulse]
    refine (State.setChain_pulse rfl).trans ?_
    rw [State.put_pulse, State.put_pulse]
    exact State.tick_pulse rfl rfl

theorem State.areaDrop_pulse : s.areaDrop.pulse = s.pulse := State.ite_pulse rfl (State.tick_pulse rfl rfl)

theorem State.nextApply_pulse (der : Nat) : (s.nextApply der).pulse = { s.pulse with next := [] } := by
  unfold State.nextApply State.headShow
  dsimp only
  have h := s.nextTaken_pulse
  generalize s.nextPend.foldl State.takeNext s = v at h ⊢
  have hdrop : ((v.put R.EXP_STAT_MODE_ACT (v.act R.EXP_MODE_MODE)).areaDrop).pulse = v.pulse := by rw [State.areaDrop_pulse, State.put_pulse]
  generalize (v.put R.EXP_STAT_MODE_ACT (v.act R.EXP_MODE_MODE)).areaDrop = w at hdrop ⊢
  rw [State.put_pulse, ← h, ← hdrop]
  exact State.ite_pulse (State.fallbackGo_pulse.trans (State.sourceForce_pulse der)) rfl

theorem State.calDiscard_pulse : s.calDiscard.pulse = s.pulse := State.cal_pulse _

theorem State.bandApply_pulse : s.bandApply.pulse = s.pulse := by
  unfold State.bandApply
  dsimp only
  refine State.ite_pulse rfl ?_
  rw [State.calDiscard_pulse, State.raise_pulse, State.put_pulse, State.put_pulse]

theorem State.shShow_pulse (sh : Nat) : (s.shShow sh).pulse = s.pulse := by
  unfold State.shShow
  dsimp only
  refine State.ite_pulse rfl ?_
  rw [State.put_pulse, State.put_pulse, State.put_pulse, State.put_pulse, State.put_pulse]

theorem State.stepApply_pulse : s.stepApply.pulse = s.pulse := by
  unfold State.stepApply State.kcapShow
  dsimp only
  refine State.ite_pulse rfl ?_
  rw [State.raise_pulse, State.put_pulse, State.put_pulse, State.foldl_pulse fun v sh => v.shShow_pulse sh, State.put_pulse, State.eng_pulse]

theorem State.capShow_pulse (x : Nat) : (s.capShow x).pulse = s.pulse := by
  unfold State.capShow
  dsimp only
  refine State.ite_pulse ?_ ?_ <;>
    rw [State.put_pulse, State.put_pulse, State.put_pulse, State.put_pulse, State.put_pulse, State.put_pulse]

theorem State.capsShow_pulse : s.capsShow.pulse = s.pulse := by
  unfold State.capsShow
  rw [State.put_pulse, State.capShow_pulse, State.capShow_pulse]

theorem State.thermTake_pulse : s.thermTake.pulse = s.pulse := by
  unfold State.thermTake
  rw [State.setAct_pulse, State.setAct_pulse]

theorem State.boundaryApply_pulse (der : Nat) : (s.boundaryApply der).pulse = { s.pulse with commit := [], frozen := [], next := [] } := by
  have hviews : s.holdViews.pulse = s.pulse := State.rdo_pulse _
  unfold State.boundaryApply
  rw [State.bwShow_pulse, State.capsShow_pulse, State.thermTake_pulse, State.stepApply_pulse, State.bandApply_pulse, State.nextApply_pulse,
    State.commitsApply_pulse, hviews]

/-! ## Calibration, lamphouse and caps -/

theorem State.handBack_pulse (b sh : Nat) : (s.handBack b sh).pulse = s.pulse := by
  unfold State.handBack State.badSum
  dsimp only
  split
  · rfl
  · refine State.ite_pulse ?_ (State.ite_pulse ?_ ?_)
    · rw [State.setSpare_pulse]
    · rw [State.raise_pulse, State.bump_pulse, State.put_pulse, State.setSpare_pulse, State.setConv_pulse]
    · rw [State.setSpare_pulse, State.setConv_pulse]

theorem State.quality_pulse (b : Nat) : (s.quality b).pulse = s.pulse := by
  unfold State.quality
  dsimp only
  rw [State.put_pulse, State.put_pulse]

theorem State.passEnd_pulse : s.passEnd.pulse = s.pulse := by
  unfold State.passEnd
  dsimp only
  rw [State.raise_pulse, State.put_pulse, State.put_pulse, State.put_pulse, State.cal_pulse]
  have h : ([0, 1, 2, 3].foldl State.quality s).pulse = s.pulse := State.foldl_pulse (fun v b => v.quality_pulse b) _ _
  generalize [0, 1, 2, 3].foldl State.quality s = v at h ⊢
  rw [← h]
  exact State.ite_pulse (State.put_pulse ..) rfl

theorem State.calTakeover_pulse : s.calTakeover.pulse = s.pulse := by
  unfold State.calTakeover
  dsimp only
  have h : (((s.cal.spare.filter (fun (_, x) => x.cand.isSome)).map Prod.fst).foldl (fun s k => s.handBack (k / 192) (k % 192)) s).pulse = s.pulse :=
    State.foldl_pulse (fun v k => v.handBack_pulse _ _) _ _
  exact State.ite_pulse (State.passEnd_pulse.trans h) h

theorem State.setForce_pulse : s.setForce.pulse = s.pulse := by
  unfold State.setForce
  split
  · rfl
  · rw [State.put_pulse, State.cal_pulse]

theorem State.trimForce_pulse : s.trimForce.pulse = s.pulse := by
  unfold State.trimForce
  dsimp only
  refine State.ite_pulse rfl ?_
  rw [State.cal_pulse]
  exact State.foldl_pulse (f := fun s (p : Int × Nat) => s.put (R.CAL_STRBn_TRIM p.2) (ofSigned 8 p.1)) (fun _ _ => State.put_pulse ..) _ _

theorem State.calApplyDue_pulse : s.calApplyDue.pulse = s.pulse := by
  unfold State.calApplyDue
  rw [State.calTakeover_pulse, State.setForce_pulse, State.trimForce_pulse]

theorem State.lampCommit_pulse (committed : Bool) : (s.lampCommit committed).pulse = s.pulse := by
  unfold State.lampCommit State.xferLatch
  dsimp only
  refine State.ite_pulse rfl (State.ite_pulse (State.setLamp_pulse _) ?_)
  rw [State.put64_pulse, State.setLamp_pulse]

theorem State.capActShow_pulse : s.capActShow.pulse = s.pulse := by
  unfold State.capActShow
  dsimp only
  rw [State.put_pulse, State.put_pulse, State.put_pulse, State.put_pulse]

theorem State.capTherm_pulse : s.capTherm.pulse = s.pulse := by
  unfold State.capTherm
  split
  · exact State.put_pulse ..
  · exact State.put_pulse ..

/-! ## A boundary that is no tick edge -/

/-- The boundary before a step of TICKNO that waits. -/
def State.quietApplied (s : State) : State := ((((s.boundaryApply s.now).calApplyDue).lampCommit s.lampDue).capActShow).capTherm

theorem State.quietBoundary_eq : s.quietBoundary = s.quietApplied.ticknoPend := rfl

theorem State.quietApplied_pulse : s.quietApplied.pulse = { s.pulse with commit := [], frozen := [], next := [] } := by
  unfold State.quietApplied
  rw [State.capTherm_pulse, State.capActShow_pulse, State.lampCommit_pulse, State.calApplyDue_pulse, State.boundaryApply_pulse]

theorem State.busyShow_pulse : s.busyShow.pulse = s.pulse := by
  unfold State.busyShow
  dsimp only
  rw [State.put_pulse, State.job_pulse]

theorem State.linesSettle_pulse : s.linesSettle.pulse = s.pulse := by
  unfold State.linesSettle
  dsimp only
  rw [State.busyShow_pulse, State.put64_pulse]
  exact State.linesRec_pulse (s := s) _ _

/-- A step of TICKNO, made while no boundary is due. -/
theorem State.ticknoAdvance_pulse (n : Nat) : (s.ticknoAdvance n).pulse = { s.pulse with tickno := n } := by
  have hset : (s.setTickno n).pulse = { s.pulse with tickno := n } := State.put64_pulse ..
  unfold State.ticknoAdvance
  rw [State.raise_pulse, State.linesSettle_pulse, hset]

/-- No step of TICKNO waits. -/
def State.pendGone (s : State) : State := { s with chain := { s.chain with pend := none } }

theorem State.pendGone_pulse : s.pendGone.pulse = { s.pulse with pend := none } := rfl

theorem State.ticknoPend_some {n : Nat} (h : s.chain.pend = some n) : s.ticknoPend =
    if s.jobRunning || n ≤ s.tick.tickno then s.pendGone else if s.nvs.saved.hwm ≤ n then s else s.pendGone.ticknoAdvance n := by
  unfold State.ticknoPend
  rw [h]
  rfl

/-- A step of TICKNO that waits leaves time and the registers that wait. -/
theorem State.ticknoPend_pulse : ∃ n p, s.ticknoPend.pulse = { s.pulse with tickno := n, pend := p } := by
  cases h : s.chain.pend with
  | none =>
    have hsame : s.ticknoPend = s := by
      unfold State.ticknoPend
      rw [h]
    rw [hsame]
    exact ⟨_, _, rfl⟩
  | some n =>
    rw [State.ticknoPend_some h]
    split
    · exact ⟨_, _, State.pendGone_pulse⟩
    split
    · exact ⟨_, _, rfl⟩
    · exact ⟨_, _, (State.ticknoAdvance_pulse n).trans (by rw [State.pendGone_pulse])⟩

theorem State.quietBoundary_pulse : ∃ n p, s.quietBoundary.pulse = { s.pulse with commit := [], frozen := [], next := [], tickno := n, pend := p } := by
  obtain ⟨n, p, h⟩ := State.ticknoPend_pulse (s := s.quietApplied)
  exact ⟨n, p, by rw [State.quietBoundary_eq, h, State.quietApplied_pulse]⟩

/-- Where no step of TICKNO waits, TICKNO is the same. -/
theorem State.quietBoundary_still (h : s.chain.pend = none) : s.quietBoundary.pulse = { s.pulse with commit := [], frozen := [], next := [] } := by
  have hpend : s.quietApplied.chain.pend = none := (congrArg Pulse.pend s.quietApplied_pulse).trans h
  have hsame : s.quietApplied.ticknoPend = s.quietApplied := by
    unfold State.ticknoPend
    rw [hpend]
  rw [State.quietBoundary_eq, hsame, State.quietApplied_pulse]

end Sys2Proof.Machine
end

/-! PROOFS. O9: stops, flush steps and commits where no boundary is due (R101, R362, R414). -/
section
-- One theorem after the other: the default proofs of the side conditions below are run by the elaborator, which waits for all that stands before.
set_option Elab.async false
namespace Sys2Proof.Machine

variable {s t u : State}

/-! ## A stop -/

/-- The flush steps that a stop asks for. -/
def State.stopNoted (s : State) (u : Nat) : State :=
  { s.at u with tick := { (s.at u).tick with flushLeft := 3 }, exp := { (s.at u).exp with slacks := [] } }

theorem State.stopNoted_shows (n : Nat) : (s.stopNoted n).tick.flushLeft = 3 ∧ (s.stopNoted n).now = max s.now n ∧ only s (s.stopNoted n) [] :=
  ⟨rfl, rfl, only_upd (only_at s n)⟩

theorem State.tickStopped_eq {e : Nat} (hlast : s.tick.lastEdge = some e) : s.tickStopped =
    if !s.inRun || s.on R.TICK_STAT_STOPPED || (match s.tick.queue with | [] => false | d :: _ => decide (d.edge ≤ e + stopClk)) then s
    else ((s.stopNoted (e + stopClk)).put R.TICK_STAT_STOPPED 1).raise E.TICK_STOPPED := by
  unfold State.tickStopped
  rw [hlast]
  rfl

theorem stop_near {e : Nat} : (match s.tick.queue with | [] => false | d :: _ => decide (d.edge ≤ e + stopClk)) = true ↔
    ∃ d, s.tick.queue.head? = some d ∧ d.edge ≤ e + 12 * msClk := by
  have hclk : stopClk = 12 * msClk := rfl
  rw [hclk]
  cases s.tick.queue with
  | nil => simp
  | cons d _ => simp

theorem tickStopped_stops {e : Nat} (hrun : s.inRun = true) (hlast : s.tick.lastEdge = some e) (hstop : s.on R.TICK_STAT_STOPPED = false)
    (hfar : ∀ d, s.tick.queue.head? = some d → e + 12 * msClk < d.edge) : goesOn (exec .tickStopped s) fun t =>
      t.on R.TICK_STAT_STOPPED = true ∧ told s t E.TICK_STOPPED ∧ t.tick.flushLeft = 3 ∧ t.now = max s.now (e + 12 * msClk) ∧
      only s t (R.TICK_STAT_STOPPED.reg :: toldRegs E.TICK_STOPPED) := by
  have hnear : ¬(match s.tick.queue with | [] => false | d :: _ => decide (d.edge ≤ e + stopClk)) = true := fun h => by
    obtain ⟨d, hd, hle⟩ := stop_near.mp h
    have := hfar d hd
    omega
  have hexec : exec .tickStopped s = .next (((s.stopNoted (e + stopClk)).put R.TICK_STAT_STOPPED 1).raise E.TICK_STOPPED) := by
    show Host.Outcome.next s.tickStopped = _
    rw [State.tickStopped_eq hlast, Bool.eq_false_of_not_eq_true hnear, hrun, hstop, if_neg (by decide)]
  refine ⟨_, hexec, ?_⟩
  have hclk : stopClk = 12 * msClk := rfl
  rw [← hclk]
  obtain ⟨hleft, hnow, honly⟩ := s.stopNoted_shows (e + stopClk)
  generalize s.stopNoted (e + stopClk) = v at hleft hnow honly ⊢
  have hput : only s (v.put R.TICK_STAT_STOPPED 1) [R.TICK_STAT_STOPPED.reg] :=
    only_trans (only_mono honly (List.nil_subset _)) (only_put _ (by decide))
  refine ⟨?_, ?_, ?_, ?_, ?_⟩
  · exact State.on_of_one ((State.get_raise_clear (by decide)).trans (State.get_put_fits _ (by decide) (by decide)))
  · exact told_raise_of_regsSame _ (by decide) hput.1 (by decide)
  · rw [State.raise_tick, State.put_tick, hleft]
  · rw [State.raise_now, State.put_now, hnow]
  · exact only_trans (only_mono hput (by simp)) (only_raise (by simp))

theorem tickStopped_near {e : Nat} {d : DerTick} (hlast : s.tick.lastEdge = some e) (hd : s.tick.queue.head? = some d) (hle : d.edge ≤ e + 12 * msClk) :
    exec .tickStopped s = .next s := by
  have hnear : (match s.tick.queue with | [] => false | d :: _ => decide (d.edge ≤ e + stopClk)) = true := stop_near.mpr ⟨d, hd, hle⟩
  show Host.Outcome.next s.tickStopped = _
  rw [State.tickStopped_eq hlast, hnear, Bool.or_true, if_pos rfl]

/-! ## A flush step -/

theorem State.leave_pulse (sh n : Nat) (token : Bool) : (s.leave sh n token).pulse = s.pulse := by
  unfold State.leave
  dsimp only
  rw [State.linesSettle_pulse]
  refine State.ite_pulse ?_ ?_
  · rw [State.setLine_pulse, State.put64_pulse, State.setLine_pulse]
  · rw [State.put64_pulse, State.setLine_pulse]

theorem State.giveUp_pulse (sh n reason : Nat) : (s.giveUp sh n reason).pulse = s.pulse := by
  have hadd : (s.addReport n reason (2 ^ sh)).pulse = s.pulse := State.setLine_pulse ..
  unfold State.giveUp
  dsimp only
  generalize s.addReport n reason (2 ^ sh) = v at hadd ⊢
  rw [← hadd]
  exact State.ite_pulse (State.setEngine_pulse ..) (State.leave_pulse ..)

theorem State.proofPrune_pulse (sh : Nat) : (s.proofPrune sh).pulse = s.pulse := State.setEngine_pulse ..

theorem State.proofLate_pulse (sh : Nat) : (s.proofLate sh).pulse = s.pulse := by
  unfold State.proofLate
  dsimp only
  refine State.ite_pulse rfl ?_
  split
  · rfl
  split
  · rfl
  · refine State.ite_pulse rfl ?_
    rw [State.shShow_pulse, State.proofPrune_pulse, State.giveUp_pulse, State.raise_pulse, State.bump_pulse, State.setEngine_pulse]

theorem State.enginesEdge_pulse : s.enginesEdge.pulse = s.pulse := by
  unfold State.enginesEdge
  dsimp only
  rw [State.eng_pulse]
  exact State.foldl_pulse (fun v sh => v.proofLate_pulse sh) _ _

theorem State.gridRestart_pulse (e : Nat) (phase : Frac) : (s.gridRestart e phase).pulse = s.pulse := State.rdo_pulse _

theorem State.linesAdvance_pulse (e : Nat) : (s.linesAdvance e).pulse = s.pulse := State.lines_pulse _

theorem State.repsDone_pulse : s.repsDone.pulse = s.pulse := by
  obtain ⟨reps, h⟩ := s.repsDone_written
  exact h.pulse.trans (State.dev_pulse _)

/-- One flush step less is due. -/
def State.flushTaken (s : State) (left : Nat) : State := { s.enginesEdge with tick := { s.tick with flushLeft := left } }

theorem State.flushTaken_pulse (left : Nat) : (s.flushTaken left).pulse = { s.pulse with flush := left } := by
  have h := s.enginesEdge_pulse
  unfold State.flushTaken
  generalize s.enginesEdge = v at h ⊢
  have htaken : State.pulse { v with tick := { s.tick with flushLeft := left } } = { v.pulse with tickno := s.tick.tickno, flush := left } := rfl
  rw [htaken, h]
  rfl

/-- The lines behind a flush step. -/
def State.flushEnd (s : State) (e : Nat) (phase : Frac) : State :=
  ((((s.gridRestart e phase).linesAdvance (s.gridRestart e phase).now).linesSettle).repsDone)

theorem State.flushEnd_pulse (e : Nat) (phase : Frac) : (s.flushEnd e phase).pulse = s.pulse := by
  unfold State.flushEnd
  rw [State.repsDone_pulse, State.linesSettle_pulse, State.linesAdvance_pulse, State.gridRestart_pulse]

/-- What takes effect at the first flush step. -/
def State.flushFirst (s : State) : State := if s.tick.flushLeft = 3 then s.quietBoundary else s

theorem State.flushStep_eq (h : s.tick.flushLeft ≠ 0) : s.flushStep =
    let v := (s.at s.flushTime).flushFirst
    (v.flushTaken (v.tick.flushLeft - 1)).flushEnd v.now v.rdo.phase := by
  unfold State.flushStep
  rw [if_neg h]
  rfl

theorem State.at_pulse (n : Nat) : (s.at n).pulse = { s.pulse with now := max s.now n } := rfl

theorem flushStep_takes (hleft : s.tick.flushLeft ≠ 0) (hpend : s.chain.pend = none) : goesOn (exec .flushStep s) fun t =>
    t.tick.flushLeft = s.tick.flushLeft - 1 ∧ t.now = max s.now s.flushTime ∧ t.tick.tickno = s.tick.tickno := by
  have hexec : exec .flushStep s = .next s.flushStep := rfl
  refine ⟨_, hexec, ?_⟩
  have hfirst : (s.at s.flushTime).flushFirst.now = max s.now s.flushTime ∧ (s.at s.flushTime).flushFirst.tick.flushLeft = s.tick.flushLeft ∧
      (s.at s.flushTime).flushFirst.tick.tickno = s.tick.tickno := by
    have hat := s.at_pulse s.flushTime
    have hno : (s.at s.flushTime).chain.pend = none := hpend
    generalize s.at s.flushTime = v at hat hno ⊢
    have hquiet : v.flushFirst.pulse = v.pulse ∨ v.flushFirst.pulse = { v.pulse with commit := [], frozen := [], next := [] } := by
      unfold State.flushFirst
      split
      · exact .inr (State.quietBoundary_still hno)
      · exact .inl rfl
    obtain h | h := hquiet <;> rw [hat] at h <;>
      exact ⟨congrArg Pulse.now h, congrArg Pulse.flush h, congrArg Pulse.tickno h⟩
  rw [State.flushStep_eq hleft]
  obtain ⟨hnow, hflush, hno⟩ := hfirst
  generalize (s.at s.flushTime).flushFirst = v at hnow hflush hno ⊢
  dsimp only
  have hend : ((v.flushTaken (v.tick.flushLeft - 1)).flushEnd v.now v.rdo.phase).pulse = { v.pulse with flush := v.tick.flushLeft - 1 } := by
    rw [State.flushEnd_pulse, State.flushTaken_pulse]
  generalize (v.flushTaken (v.tick.flushLeft - 1)).flushEnd v.now v.rdo.phase = w at hend ⊢
  exact ⟨(congrArg Pulse.flush hend).trans (congrArg (· - 1) hflush), (congrArg Pulse.now hend).trans hnow, (congrArg Pulse.tickno hend).trans hno⟩

/-! ## A commit where no boundary is due -/

theorem commitApply_quiet (h : s.noBoundary = true) : goesOn (exec .commitApply s) fun t =>
    t.commitPend = [] ∧ t.nextPend = [] ∧ t.frozen = [] ∧ t.now = s.now := by
  have hexec : exec .commitApply s = .next s.quietBoundary := by
    show Host.Outcome.next (if s.noBoundary then s.quietBoundary else s) = _
    rw [if_pos h]
  refine ⟨_, hexec, ?_⟩
  obtain ⟨n, p, hpulse⟩ := s.quietBoundary_pulse
  generalize s.quietBoundary = v at hpulse ⊢
  exact ⟨congrArg Pulse.commit hpulse, congrArg Pulse.next hpulse, congrArg Pulse.frozen hpulse, congrArg Pulse.now hpulse⟩

/-- Settles O9: the 12 ms are split by the next edge, and a boundary leaves time, TICKNO and the flush steps. -/
theorem stopFlushStepsAndQuietCommit : Obligations.StopFlushStepsAndQuietCommit := by
  unfold Obligations.StopFlushStepsAndQuietCommit
  refine ⟨fun s e hrun hlast hstop => ⟨tickStopped_stops hrun hlast hstop, fun d hd hle => tickStopped_near hlast hd hle⟩,
    fun s hleft hpend => flushStep_takes hleft hpend, fun s h => commitApply_quiet h⟩

end Sys2Proof.Machine
end

/-! PROOFS. O49, O50: the count of resets, where a register's table is not in its canonical form (R395, R396). -/
section
-- One theorem after the other: the default proofs of the side conditions below are run by the elaborator, which waits for all that stands before.
set_option Elab.async false
namespace Sys2Proof.Machine

/-- A state in IDLE whose table of registers lists SYS_RESET_CNT twice, first with its reset value. -/
def countTwice : State :=
  { regs := [(R.PWR_STAT_STATE.reg, pIDLE), (R.PWR_DOM_STAT_ON.reg, 3), (R.SYS_RESET_CNT_WARM.reg, 0), (R.SYS_RESET_CNT_WARM.reg, 0x50005)] }

theorem countTwice_shows : countTwice.dom dSUPV = true ∧ countTwice.pwr.off = false ∧ countTwice.coldNow = false ∧ countTwice.power = pIDLE ∧
    countTwice.get R.SYS_RESET_CNT_WARM = 0 ∧ countTwice.get R.SYS_RESET_CNT_WDOG = 0 := by decide +kernel

/-- A warm reset drops the word that stands at its reset value, and the other word is read. -/
theorem countTwice_wdog : goesOn (exec .supervisorWdog countTwice) fun t => t.get R.SYS_RESET_CNT_WDOG = 6 := ⟨_, rfl, by decide +kernel⟩

theorem countTwice_warm : goesOn (exec .warmReset countTwice) fun t => t.get R.SYS_RESET_CNT_WARM = 6 := ⟨_, rfl, by decide +kernel⟩

/-- Refutes O49: the statement has no premise that the tables are canonical. Where SYS_RESET_CNT is listed twice, at its reset value and at
0x50005, the count reads 0 before the reset and 6 after it. -/
theorem not_watchdogMakesAWarmReset : ¬ Obligations.WatchdogMakesAWarmReset := by
  unfold Obligations.WatchdogMakesAWarmReset
  intro h
  obtain ⟨hdom, hoff, hcold, hidle, -, hcount⟩ := countTwice_shows
  obtain ⟨hreset, -⟩ := h countTwice hdom hoff hcold
  obtain ⟨t, ht, -, hwdog, -⟩ := hreset (.inr hidle)
  obtain ⟨u, hu, hsix⟩ := countTwice_wdog
  obtain rfl : t = u := Host.Outcome.next.inj (ht.symm.trans hu)
  rw [hsix, hcount] at hwdog
  exact absurd hwdog (by decide)

/-- Refutes O50: its clause of a warm reset has no premise that the tables are canonical. Where SYS_RESET_CNT is listed twice, at its reset
value and at 0x50005, the count reads 0 before the reset and 6 after it. -/
theorem not_startAndResets : ¬ Obligations.StartAndResets := by
  unfold Obligations.StartAndResets
  intro h
  obtain ⟨-, -, -, -, hwarm, -⟩ := h
  obtain ⟨-, hoff, hcold, hidle, hcount, -⟩ := countTwice_shows
  obtain ⟨t, ht, -, hnext⟩ := hwarm countTwice hoff hcold (.inr hidle)
  obtain ⟨u, hu, hsix⟩ := countTwice_warm
  obtain rfl : t = u := Host.Outcome.next.inj (ht.symm.trans hu)
  rw [hsix, hcount] at hnext
  exact absurd hnext (by decide)

end Sys2Proof.Machine
end
